-- ==== Sys2Proof/Word.lean ====
section
/-! DEFINITION. The words of the TW9: a byte, and the widths the spec's registers and records have (00 Numbers, units and bits). -/
namespace Sys2Proof

/-- One byte (00, R3). -/
abbrev Byte := BitVec 8

/-- A 32-bit word: ring indices, register halves. -/
abbrev W32 := BitVec 32

/-- A 64-bit word: sapling registers, counters, service-thread registers. -/
abbrev W64 := BitVec 64

end Sys2Proof
end

