-- ==== Sys2Proof/Syntax.lean ====
section
/-! DEFINITION. The commands the block takes: one constructor of `Instr` for each row of spec/opcode_table.json,
with the operands the outside world supplies. A row whose request already lies in the device (a Slaot command in a
mailbox, a sapling instruction in a program store) carries no copy of it. -/
namespace Sys2Proof

/-- What a start finds (03 R69, R74, R83, R84; 02 R55, R58): which stores read without an uncorrectable error, whether
every sensor is below 95 °C, the groves whose ETHREF is absent, and the clearings whose zeroization does not verify. -/
structure BootReads where
  fwA : Bool
  fwB : Bool
  slot0 : Bool
  slot1 : Bool
  retained : Bool
  sensorsCool : Bool
  ethrefAbsent : List Nat := []
  zeroizeFailed : List Nat := []
  deriving DecidableEq, Repr

/-- Power of a rail over a window in mW: what its regulator's telemetry gives, if any, and the device's internal
estimate (02 R45). -/
structure RailPower where
  telemetry : Option Nat
  estimate : Nat
  deriving DecidableEq, Repr

/-- One received L400 training frame (05 R139) with what the local analogue side says at that moment: the
coefficient request its receiver wants to make, whether its adaptation has finished, and the reply its transmitter
gives to a coefficient request. -/
structure TrainFrame where
  marker : Bool
  control : BitVec 16
  status : BitVec 32
  crc : BitVec 16
  want : BitVec 16
  ready : Bool
  reply : BitVec 8
  deriving DecidableEq, Repr

/-- What the IEEE 802.3 state machines of a port in S200 show (05 R142, R143): the interface is an AUI, a signal is
detected, the PHY types offered in the pages received, by their width, and link training has finished. -/
structure S200Link where
  aui : Bool := false
  signal : Bool := false
  pages : List Nat := []
  trained : Bool := false
  deriving DecidableEq, Repr

/-- What the lanes of a port show as their alignment completes (05 R138, R141, R143): the skew between them in ns, and in
S200 what the state machines show. -/
structure Alignment where
  port : Nat
  skewNs : Nat := 0
  link : S200Link := {}
  deriving DecidableEq, Repr

/-- How an S200 attempt ends (05 R143): what the state machines show, and that they declare failure. -/
structure S200End where
  link : S200Link := {}
  declared : Bool := false
  deriving DecidableEq, Repr

/-- What a lane of a port shows (05 R149): in L400 loss of signal for some ns, consecutive uncorrectable outer codewords,
consecutive missing or wrong alignment markers; in S200 a link failure, by loss of signal or not. -/
inductive LaneFault where
  | signal (ns : Nat)
  | codewords (n : Nat)
  | markers (n : Nat)
  | s200 (signal : Bool)
  deriving DecidableEq, Repr

/-- The errors of a received outer codeword (05 R137): inner segments with a single bit error, segments with a detected
error that the inner code cannot correct, and wrong symbols outside those. -/
structure Codeword where
  single : Nat := 0
  erased : Nat := 0
  symbols : Nat := 0
  deriving DecidableEq, Repr

/-- A thread by grove, core and thread slot (01 R15). -/
structure Thr where
  grove : Nat
  core : Nat
  thread : Nat
  deriving DecidableEq, Repr

/-- What the compiler answers for a staged rule set (07 R203 to R206): refused with the KIND and RULE of R223, or a
tree whose nodes are given slot by slot. -/
structure TreeBuild where
  kind : Nat
  rule : Nat
  root : BitVec 256
  nodes : List (Nat × BitVec 256)
  slots : Nat
  depth : Nat
  replDepth : Nat
  compileUs : Nat
  deriving DecidableEq, Repr

/-- A sink of an output slice (11 R333); service queue 255 is the remote-access engine's (16 R498). -/
inductive Sink where
  | hostQueue (q : Nat)
  | clearing (c : Nat)
  | service (q : Nat)
  | exception
  | cipher
  deriving DecidableEq, Repr

/-- The capabilities of 12 R359: PCI Power Management, MSI-X, PCI Express, Advanced Error Reporting, Device Serial Number,
ARI, SR-IOV, ATS, PASID, Readiness Time Reporting, Secondary PCI Express, Data Link Feature, Physical Layer at 16, 32, 64
and 128 GT/s, Lane Margining at the Receiver, Flit Logging, L1 PM Substates, LTR, and Laniren vendor-specific. -/
inductive Capability where
  | pm | msix | express | aer | serial | ari | sriov | ats | pasid | rtr
  | secondary | dataLink | phys16 | phys32 | phys64 | phys128 | margining | flitLogging | l1pm | ltr | vendor
  deriving DecidableEq, Repr

/-- The configuration-space registers a host reads or writes (12 R353, R354, R359, R360). -/
inductive CfgReg where
  | vendorId | deviceId | revisionId | classCode | subsystem
  | command | status | interruptPin | serialNumber
  | expressCaps | deviceCaps | deviceCaps2 | deviceCaps3
  | deviceControl | deviceControl2 | pmCaps | pmControl
  | msixControl | msixTable | msixPba
  | sriovControl | numVFs | sriovOffset | sriovStride | totalVFs | initialVFs
  | pageSizes | pageSize | vfBar (i : Nat)
  | ari | atsControl | pasidControl | readinessTime
  | linkCapabilities | linkControl | l1Substates | ltr
  | aerStatus | aerCorrectable | vsec (word : Nat) | bar (i : Nat)
  /-- Whether the function has a capability, and a word of the body of one whose contents another standard gives. -/
  | has (c : Capability) | body (c : Capability) (word : Nat)
  deriving DecidableEq, Repr

/-- A host memory request to a BAR (12 R358). -/
inductive MemReq where
  | read (len : Nat)
  | write (bytes : List Byte)
  | atomic (bytes : List Byte)
  deriving DecidableEq, Repr

/-- The status of a PCI Express completion (12 R368). -/
inductive CplStatus where
  | sc | ur | ca | poisoned
  deriving DecidableEq, Repr

/-- The completion of one host read or AtomicOp that a command makes: none when none comes within its timeout, and the bytes
it brings (12 R365 to R368). -/
structure HostCpl where
  status : Option CplStatus
  data : List Byte
  deriving DecidableEq, Repr

/-- A submission queue entry of NVM Express (15 R460), as it is read at the queue's head: the fields the modelled
commands read, the pieces of host memory its PRPs or SGL descriptors name, lists and segments resolved (NVME_WRITE has them as
an operand of its own), the completions of the reads that the command makes, first that of the entry, and the service input
queue that holds its target's answer with the number of its frames. -/
structure Sqe where
  opc : Nat
  cid : Nat
  nsid : Nat
  prp1 : Nat
  dptr : List (Nat × Nat)
  cdw10 : W32
  cdw11 : W32
  cdw12 : W32
  host : List HostCpl
  reply : Nat × Nat
  deriving DecidableEq, Repr

/-- The form of a host link (12 R350): WIDTH of R352, flit mode when both ends support it, and SRIS rather than a common
clock. -/
structure LinkForm where
  width : Nat
  flit : Bool
  sris : Bool
  deriving DecidableEq, Repr

/-- A host link as it trained: its form, and RATE of R352. -/
structure HostLink extends LinkForm where
  rate : Nat
  deriving DecidableEq, Repr

/-- The activation whose staged slot a warden core has read, and whether it read without an uncorrectable error (03 R93). -/
structure StagedRead where
  h : Nat
  readOk : Bool
  deriving DecidableEq, Repr

/-- The byte enables of a control request, and how many of the requests that then wait tenant logic takes at once
(18 R558). -/
structure CtlBeat where
  be : BitVec 8
  ready : Nat
  deriving DecidableEq, Repr

/-- A cipher message that ends on an engine (17 R508). -/
inductive CipherMsg where
  | job (qp : Nat) (slot : W32)
  | frame (tag : Nat)
  deriving DecidableEq, Repr

/-- A register of a service thread as a debugger names it (19 R589). -/
inductive DebugReg where
  | pc
  | x (i : Fin 32)
  | f (i : Fin 32)
  | v (i : Fin 32) (word : Fin 4)
  | csr (n : Fin 4096)
  deriving DecidableEq, Repr

/-- What a JTAG debug instruction does to a service thread (19 R589; 15 R451). -/
inductive DebugOp where
  | halt
  | resume
  | read (r : DebugReg)
  | write (r : DebugReg) (v : W64)
  /-- CH_RELEASE of the thread's reservation of a channel. -/
  | chRelease (chan : Nat)
  deriving DecidableEq, Repr

/-- A location word by its fields (01 R14). -/
structure LocWord where
  level : Nat
  stand : Nat
  grove : Nat
  kind : Nat
  unit : Nat
  leaf : Nat
  deriving DecidableEq, Repr

/-- How a read of a coded word ended (21 R608). -/
inductive ReadOutcome where
  | good
  | correctable
  | uncorrectable (syndrome : Nat)
  deriving DecidableEq, Repr

/-- The commands of the block, in the order of spec/opcode_table.json. -/
inductive Instr where
  /-- COLD_POWER_UP (R76): VAUX rises after having been lost, the always-on island starts on its internal oscillator, and retained RAM is treated as invalid. -/
  | coldPowerUp
  /-- VAUX_LOSS (R50): VAUX drops below tolerance and retained RAM becomes invalid, so the next start is a cold power-up. -/
  | vauxLoss
  /-- PWR_GOOD_RISE (R70): PWR_GOOD rises and the boot ROM starts on warden core 0; the ROM minimal endpoint answers CRS, a firmware slot is chosen, the configuration is restored and the stands are brought up. -/
  | pwrGoodRise (m : BootReads)
  /-- PWR_GOOD_FALL (R49): PWR_GOOD falls; within 10 µs the device stops all DMA, squelches all transmitters and stops every MRAM write that has not begun. -/
  | pwrGoodFall
  /-- STAND_SUPPLY_FAULT (R51): A stand's monitors see VCORE, VSRAM or VSERDES_A below the tolerance floor for 1 µs or longer, and the stand holds its islands in reset. -/
  | standSupplyFault (stand : Nat)
  /-- AVS_TARGET_COMPUTE (R41): After boot and every 24 hours, Slaot computes each stand's AVS target from its speed monitors. -/
  | avsTargetCompute (lowestMv : List Nat)
  /-- AVS_STEP (R41): Every 50 µs Slaot moves a VCORE rail by at most 10 mV toward its target and confirms the step by READ_VOUT. -/
  | avsStep (stand : Nat) (ack : Bool) (readMv : Nat)
  /-- PMB_ALERT (R43): PMB_ALERT_N is asserted; the device reads STATUS_WORD from every regulator, logs the results and raises EV_AVS_FAULT for each regulator that reports a fault. -/
  | pmbAlert (status : List (Nat×Nat))
  /-- POWER_WINDOW_END (R45): A 1 ms power window closes; the device sums rail power and throttles or restores one step of service-core and clearing clocks, raising EV_POWER_LIMIT when throttling starts or ends. -/
  | powerWindowEnd (rails : List RailPower)
  /-- THERMAL_SENSOR_READ (R57): Every 100 µs the junction sensors are read, and the device warns, throttles or trips on the hottest reading. -/
  | thermalSensorRead (stand : Nat) (sensor : Nat) (reading : Nat)
  /-- SYSREF_LOSS (R54): SYSREF is lost after boot; every PLL enters holdover, device time goes undisciplined, and EV_REFCLK_LOSS is raised. -/
  | sysrefLoss
  /-- SYSREF_RETURN (R54): SYSREF returns and the PLLs leave holdover. -/
  | sysrefReturn
  /-- ETHREF_LOSS (R55): A grove's ETHREF is lost; its ports go down, and EV_REFCLK_LOSS and a grove-level log record are raised. -/
  | ethrefLoss (grove : Nat)
  /-- PPS_OUT_PULSE (R63): At each device-time second boundary 1PPS_OUT rises and stays high for 100 ms. -/
  | ppsOutPulse
  /-- BOOT_COMPLETE (R70): Step 7 of boot: each host port hands over to the full endpoint, CRS stops, the mailboxes accept commands, and EV_CONFIG_RESTORED is posted. -/
  | bootComplete
  /-- SYS_RST_ASSERT (R77): SYS_RST_N goes low; every island except the always-on island is held in reset, DMA stops and the transmitters squelch. -/
  | sysRstAssert
  /-- SYS_RST_RELEASE (R77): SYS_RST_N rises and the boot sequence starts. -/
  | sysRstRelease (m : BootReads)
  /-- PERST_ASSERT (R78): PERST_N goes low on one host port; every function of the port loses its runtime state as on FLR, and configuration space resets. -/
  | perstAssert (p : Nat)
  /-- PERST_RELEASE (R73): PERST_N of a host port rises and its link trains, to the full endpoint when after boot step 7. -/
  | perstRelease (p : Nat) (rate : Nat) (form : LinkForm)
  /-- DEVICE_RESET (R79): DEVICE.RESET writes its OK response and schedules a WARM, COLD or FACTORY reset; every later command returns BUSY. -/
  | deviceReset
  /-- DEVICE_RESET_EXPIRY (R79): 1 ms after the response, the requested device-scope reset takes effect. -/
  | deviceResetExpiry (m : BootReads)
  /-- DEVICE_STORE (R87): DEVICE.STORE is accepted under the 10 s rate limit, fixes the snapshot at its GLOBAL_SEQ, and starts writing the target configuration slot. -/
  | deviceStore
  /-- STORE_STEP (R87): One step of a STORE writes MAGIC zero, body, header fields, DIGEST or MAGIC in order, and the last step ends the operation. -/
  | storeStep (h : Nat)
  /-- DEVICE_UPDATE_STAGE (R643): A DEVICE.UPDATE STAGE writes image bytes into the non-running firmware slot; with FINAL it starts verification. -/
  | deviceUpdateStage
  /-- STAGE_VERIFY_END (R90): Verification of a FINAL STAGE ends with OK or BAD_AUTH, leaving CONFIRMED clear except in recovery mode. -/
  | stageVerifyEnd (h : Nat) (readOk : Bool)
  /-- DEVICE_UPDATE_ACTIVATE (R91): DEVICE.UPDATE ACTIVATE starts the hitless warden restart, and core 1 takes over supervision. -/
  | deviceUpdateActivate
  /-- ACTIVATION_STEP (R91): A warden core finishes rebooting on the staged image; the roles swap, and at the end the slot is confirmed and EV_OP_DONE reports OK. -/
  | activationStep (h : Nat)
  /-- ACTIVATION_TIMEOUT (R93): Core 0 fails verification or misses step 3 within 2 s; core 1 stays active on the old image and EV_OP_DONE reports INTERNAL. -/
  | activationTimeout (r : StagedRead)
  /-- MAILBOX_SUBMIT (R96): A SUBMIT write with BUSY 0 submits the request buffer, sets BUSY and clears RESP_VALID; with BUSY 1 it sets SUBMIT_LOST. -/
  | mailboxSubmit (p : Nat) (v : BitVec 32)
  /-- REQUEST_BUFFER_WRITE (R97): A host write to the mailbox request buffer is stored, or is discarded with WRITE_LOST set when BUSY is 1. -/
  | requestBufferWrite (p : Nat) (off : Nat) (bytes : List Byte)
  /-- MB_STATUS_CLEAR (R97): A write of 1 to WRITE_LOST or SUBMIT_LOST clears the bit. -/
  | mbStatusClear (p : Nat) (v : BitVec 32)
  /-- OOB_MESSAGE (R101): An MCTP message arrives on the out-of-band mailbox and is discarded, answered BUSY, or delivered to the command arbiter. -/
  | oobMessage (bus : Nat) (eid : Nat) (mtag : Nat) (bytes : List Byte)
  /-- INBAND_DATAGRAM (R102): A UDP datagram arrives on the in-band channel and is discarded and counted, or queued for the arbiter. -/
  | inbandDatagram (port : Nat) (addr : List Byte) (udp : Nat) (frag : Bool) (bytes : List Byte)
  /-- OP_STATUS (R126): OP.STATUS returns the state, steps and outcome of a long operation. -/
  | opStatus
  /-- OP_CANCEL (R127): OP.CANCEL makes an operation in progress end with ABORTED at its next step boundary. -/
  | opCancel
  /-- DEVICE_CAPS (R128): DEVICE.CAPS returns the capability records from START_INDEX. -/
  | deviceCaps
  /-- DEVICE_INFO (R130): DEVICE.INFO returns the variant, stepping, restore source, pin and firmware generation. -/
  | deviceInfo
  /-- DEVICE_PIN (R113): DEVICE.PIN pins the issuing mailbox to an implemented interface version. -/
  | devicePin
  /-- SECURITY_ASSIGN (R117): SECURITY.ASSIGN transfers ownership of a range of objects to a new owner, all or none. -/
  | securityAssign
  /-- DEVICE_INBAND (R644): DEVICE.INBAND sets the address, UDP port, listening ports and enable of the in-band channel. -/
  | deviceInband
  /-- PORT_GROUP (R134): PORT.GROUP sets the lane mode and START_MASK layout of a lane group, taking removed ports down and giving new ports their defaults. -/
  | portGroup
  /-- PORT_SET (R144): PORT.SET writes a port's attributes; a change of ENABLE disables the port or starts training. -/
  | portSet
  /-- PORT_GET (R158): PORT.GET returns the port's attributes, state, training step, speed, mode and last down reason. -/
  | portGet
  /-- PORT_STATS (R159): PORT.STATS returns the port's counters. -/
  | portStats
  /-- PORT_RETRAIN (R158): PORT.RETRAIN takes the port down with reason ALIGNMENT_LOST and restarts training at once. -/
  | portRetrain
  /-- TRAINING_FRAME_RECEIVE (R139): An L400 training frame is received; it counts toward frame lock and carries coefficient requests, replies and RX_READY. -/
  | trainingFrameReceive (port : Nat) (lane : Nat) (f : TrainFrame)
  /-- TRAINING_ALIGNMENT_COMPLETE (R141): Every lane of the port locks to its alignment markers and is deskewed, and the hold-up window opens. -/
  | trainingAlignmentComplete (a : Alignment)
  /-- TRAINING_TIMEOUT (R141): An L400 training limit is missed; training fails with the reason for that limit, and EV_LINK_TRAIN_FAIL is raised at most once per second. -/
  | trainingTimeout (port : Nat)
  /-- S200_ATTEMPT_FAIL (R143): An S200 attempt fails when its state machines declare failure or after 500 ms without FEC alignment. -/
  | s200AttemptFail (port : Nat) (fin : S200End)
  /-- TRAINING_RESTART (R141): 100 ms after a failure, training restarts from step 1. -/
  | trainingRestart (port : Nat)
  /-- HOLD_UP_EXPIRY (R148): The hold-up window ends without loss; the port is up, forwarding begins and EV_LINK_UP is raised. -/
  | holdUpExpiry (port : Nat)
  /-- LANE_LOSS (R149): A lane loses signal, codewords or markers; the port goes down (or retrains during hold-up), frees queued frames and raises EV_LINK_DOWN. -/
  | laneLoss (port : Nat) (fault : LaneFault)
  /-- LINK_DEGRADED_WINDOW (R150): A 1 s window ends in which the up port saw uncorrectable codewords, and EV_LINK_DEGRADED is raised. -/
  | linkDegradedWindow (port : Nat) (bits : Nat) (symbols : Nat) (uncorrectable : Nat)
  /-- ETH_FRAME_FIRST_BYTE (R277): A frame's first byte passes into the MAC at T_first; it is assigned a trail pipeline, cut into cells and steered toward a grove. -/
  | ethFrameFirstByte (port : Nat) (bytes : List Byte)
  /-- ETH_FRAME_LAST_BIT (R288): A frame's last bit arrives; its FCS and length are checked and its CHECK is sent, and the meter, counters and learn lookup act at the FCS pass. -/
  | ethFrameLastBit (tag : Nat) (words : List Codeword)
  /-- PFC_FRAME_RECEIVE (R153): A received PFC frame pauses or resumes the egress traffic classes of the priorities it enables. -/
  | pfcFrameReceive (port : Nat) (enable : BitVec 8) (quanta : List Nat)
  /-- PAUSE_FRAME_RECEIVE (R154): A received PAUSE frame pauses all eight traffic classes. -/
  | pauseFrameReceive (port : Nat) (quanta : Nat)
  /-- PAUSE_EXPIRY (R153): The pause time of a priority runs out and its traffic class resumes. -/
  | pauseExpiry (port : Nat) (prio : Nat)
  /-- PFC_RESEND (R155): When half the pause time has passed while a priority stays in XOFF, the device sends the PFC frame again. -/
  | pfcResend (port : Nat)
  /-- TRAIL_RESULT (R277): At T_first + 6.4 ns the trail posts a decision or a hand-off to the saplings, with its lookups and eligibility judged. -/
  | trailResult (tag : Nat)
  /-- DECISION_RELEASE (R282): A decided frame whose earlier lane frames are all resolved has its decision released to its slices, and STEER is updated. -/
  | decisionRelease (tag : Nat)
  /-- WINDOW_READY (R160): A handed-off frame's window becomes ready and joins the dispatch queue, or is dropped as backlog. -/
  | windowReady (tag : Nat)
  /-- WINDOW_DISPATCH (R162): A ready window goes to an idle sapling thread, or to the free second context of a thread. -/
  | windowDispatch (t : Thr)
  /-- THREAD_FRAME_START (R163): A thread begins a frame at its issue slot with its context set to the start values. -/
  | threadFrameStart (t : Thr)
  /-- NOP (R168): Sapling NOP does nothing. -/
  | spNop (t : Thr)
  /-- HALT (R172): HALT ends the parse with CLASSIFY, DROP or EXCEPTION. -/
  | spHalt (t : Thr)
  /-- EXT (R169): EXT extracts big-endian window bytes into a register, shifted and masked. -/
  | spExt (t : Thr)
  /-- EXTM (R169): EXTM extracts little-endian metadata bytes into a register. -/
  | spExtm (t : Thr)
  /-- ADD (R168): ADD writes Ra + Rb modulo 2^64. -/
  | spAdd (t : Thr)
  /-- SUB (R168): SUB writes Ra − Rb. -/
  | spSub (t : Thr)
  /-- AND (R168): AND writes Ra AND Rb. -/
  | spAnd (t : Thr)
  /-- OR (R168): OR writes Ra OR Rb. -/
  | spOr (t : Thr)
  /-- XOR (R168): XOR writes Ra XOR Rb. -/
  | spXor (t : Thr)
  /-- SHL (R167): SHL shifts Ra left by the low 6 bits of Rb. -/
  | spShl (t : Thr)
  /-- SHR (R167): SHR shifts Ra right, logically, by the low 6 bits of Rb. -/
  | spShr (t : Thr)
  /-- ADDI (R168): ADDI adds the zero-extended immediate. -/
  | spAddi (t : Thr)
  /-- SUBI (R168): SUBI subtracts the zero-extended immediate. -/
  | spSubi (t : Thr)
  /-- ANDI (R168): ANDI ANDs with the zero-extended immediate. -/
  | spAndi (t : Thr)
  /-- ORI (R168): ORI ORs with the zero-extended immediate. -/
  | spOri (t : Thr)
  /-- XORI (R168): XORI XORs with the zero-extended immediate. -/
  | spXori (t : Thr)
  /-- SHLI (R167): SHLI shifts left by an immediate amount of at most 63. -/
  | spShli (t : Thr)
  /-- SHRI (R167): SHRI shifts right by an immediate amount of at most 63. -/
  | spShri (t : Thr)
  /-- LDI (R168): LDI loads the zero-extended immediate. -/
  | spLdi (t : Thr)
  /-- COMP (R168): COMP sets a flag from COND(Ra, Rb). -/
  | spComp (t : Thr)
  /-- COMPI (R168): COMPI sets a flag from COND(Ra, immediate). -/
  | spCompi (t : Thr)
  /-- BR (R168): BR branches unconditionally. -/
  | spBr (t : Thr)
  /-- BT (R168): BT branches when the flag is 1. -/
  | spBt (t : Thr)
  /-- BF (R168): BF branches when the flag is 0. -/
  | spBf (t : Thr)
  /-- BRX (R168): BRX branches to TARGET + Ra, bounded by LIMIT. -/
  | spBrx (t : Thr)
  /-- KEY (R170): KEY writes the low KW bits of Ra into the key at KPOS. -/
  | spKey (t : Thr)
  /-- KEYW (R170): KEYW copies window bytes into key bytes from KBYTE onward. -/
  | spKeyw (t : Thr)
  /-- KEYI (R170): KEYI writes the low bits of an immediate into the key. -/
  | spKeyi (t : Thr)
  /-- EMIT (R168): EMIT writes register bytes into the program area of the metadata record. -/
  | spEmit (t : Thr)
  /-- THINT (R179): THINT records a trail-hint candidate for the parse. -/
  | spThint (t : Thr)
  /-- OVERRUN_FAULT (R173): A thread that reaches 96 instructions without HALT takes an OVERRUN fault instead of its 97th instruction. -/
  | overrunFault (t : Thr)
  /-- FALL_THROUGH_FAULT (R171): Execution falls past word LENGTH − 1 and takes an INVALID fault instead of a fetch. -/
  | fallThroughFault (t : Thr)
  /-- THINT_CANDIDATE_DELIVER (R179): Once the walk returns an action and the FCS passes, a recorded candidate is written to the candidate ring, or counted in THINT_DROPS. -/
  | thintCandidateDeliver (tag : Nat)
  /-- CLASS_PARSE_STAGE (R182): CLASS.PARSE_STAGE writes instructions into the mailbox's parse staging buffer. -/
  | classParseStage
  /-- CLASS_PARSE_LOAD (R183): CLASS.PARSE_LOAD checks the staged program and starts loading it into the named groves. -/
  | classParseLoad
  /-- PARSE_BANK_SWITCH (R185): For one grove, the inactive bank is written and verified, then made active in one sapling cycle, and the counters reset. -/
  | parseBankSwitch (h : Nat) (ok : Bool)
  /-- CLASS_PARSE_GET (R182): CLASS.PARSE_GET returns LENGTH, LONGEST_PATH, LOADS and the digest of the active program. -/
  | classParseGet
  /-- CLASS_PARSE_STATS (R188): CLASS.PARSE_STATS returns the grove's parse counters. -/
  | classParseStats
  /-- WALK_START (R200): The key at the queue head goes to the lowest engine with a free walk slot, and the walk begins on the active half. -/
  | walkStart (grove : Nat)
  /-- WALK_END (R197): A walk ends with an action index, MISS or FAULT, and the action entry is read. -/
  | walkEnd (tag : Nat) (memErr : Bool)
  /-- CLASS_RULE_STAGE (R201): CLASS.RULE_STAGE validates and stages rule records. -/
  | classRuleStage
  /-- CLASS_ROUTE_STAGE (R202): CLASS.ROUTE_STAGE validates route records and stages them as rules. -/
  | classRouteStage
  /-- CLASS_TREE_INSTALL (R206): CLASS.TREE_INSTALL holds the trees and staging area and starts compiling and installing. -/
  | classTreeInstall
  /-- TREE_INSTALL_STEP (R206): A step compiles the tree or writes, loads and reads back one grove's inactive half. -/
  | treeInstallStep (h : Nat) (image : TreeBuild) (ok : Bool)
  /-- CLASS_TREE_GET (R223): CLASS.TREE_GET reports the active tree. -/
  | classTreeGet
  /-- CLASS_BUILD_GET (R223): CLASS.BUILD_GET reports the mailbox's last build. -/
  | classBuildGet
  /-- CLASS_METER_SET (R221): CLASS.METER_SET writes a meter's settings and fills its buckets. -/
  | classMeterSet
  /-- CLASS_METER_GET (R223): CLASS.METER_GET returns a meter's settings and colour counts. -/
  | classMeterGet
  /-- CLASS_ACTION_STATS (R223): CLASS.ACTION_STATS returns per-action counters. -/
  | classActionStats
  /-- CLASS_STATS (R224): CLASS.STATS returns the classifier counters. -/
  | classStats
  /-- CLASS_LOOKUP (R225): CLASS.LOOKUP walks the active half in Slaot and returns the action and slots read. -/
  | classLookup
  /-- TBL_CMD_READ (R243): A TBL_CMD write with OP READ reads a position or index. -/
  | tblCmdRead (src : Nat) (v : BitVec 32)
  /-- TBL_CMD_WRITE (R243): A TBL_CMD write with OP WRITE writes a whole entry. -/
  | tblCmdWrite (src : Nat) (v : BitVec 32)
  /-- TBL_CMD_SEARCH (R243): A TBL_CMD write with OP SEARCH looks up a key. -/
  | tblCmdSearch (src : Nat) (v : BitVec 32)
  /-- TBL_CMD_INSERT (R244): A TBL_CMD write with OP INSERT places an entry, relocating entries or using the stash. -/
  | tblCmdInsert (src : Nat) (v : BitVec 32)
  /-- TBL_CMD_DELETE (R247): A TBL_CMD write with OP DELETE clears an entry and may pull a stash entry into the freed way. -/
  | tblCmdDelete (src : Nat) (v : BitVec 32)
  /-- TBL_CMD_AGE_STEP (R261): A TBL_CMD write with OP AGE_STEP ages one sweep step of the owner's partitions. -/
  | tblCmdAgeStep (src : Nat) (v : BitVec 32)
  /-- TBL_DATA_WRITE (R240): A TBL_DATA write is stored, or is discarded with DATA_LOST set when BUSY is 1. -/
  | tblDataWrite (src : Nat) (off : Nat) (bytes : List Byte)
  /-- TBL_STATUS_CLEAR (R240): A write of 1 to CMD_LOST or DATA_LOST clears the bit. -/
  | tblStatusClear (src : Nat) (v : BitVec 32)
  /-- TBL_RESULT_POST (R242): After every replica has acknowledged, the result is written to TBL_DATA, TBL_INFO and RESULT, DONE increments and BUSY clears. -/
  | tblResultPost (src : Nat)
  /-- LOOKUP_POISON_REPAIR (R232): Within 1 ms Slaot rewrites a poisoned position from a clean replica, or deletes the entry and counts ENTRIES_LOST. -/
  | lookupPoisonRepair (table : Nat) (replica : Nat) (pos : Nat)
  /-- LEARN_DECIDE (R252): At its stamp + 4 µs the learn engine decides an event as a learn, refresh, move or conflict against the current entry. -/
  | learnDecide
  /-- LEARN_ENGINE_TAKEOVER (R257): The standby learn engine takes over within 1 ms and decides the undecided events. -/
  | learnEngineTakeover
  /-- AGE_SWEEP_STEP (R259): Slaot issues the next ageing sweep step, evenly spread over the period P. -/
  | ageSweepStep (table : Nat)
  /-- TABLE_READ (R267): TABLE.READ performs a READ from the mailbox. -/
  | tableRead
  /-- TABLE_WRITE (R267): TABLE.WRITE performs a WRITE from the mailbox. -/
  | tableWrite
  /-- TABLE_SEARCH (R267): TABLE.SEARCH performs a SEARCH from the mailbox. -/
  | tableSearch
  /-- TABLE_INSERT (R267): TABLE.INSERT performs an INSERT from the mailbox. -/
  | tableInsert
  /-- TABLE_DELETE (R267): TABLE.DELETE performs a DELETE from the mailbox. -/
  | tableDelete
  /-- TABLE_AGE_STEP (R267): TABLE.AGE_STEP performs an AGE_STEP from the mailbox. -/
  | tableAgeStep
  /-- TABLE_REHASH (R248): TABLE.REHASH draws new seeds, or resumes a pending rehash, and starts it. -/
  | tableRehash
  /-- REHASH_STEP (R248): A rehash step examines 64 buckets and reinserts their entries under the new seeds. -/
  | rehashStep (h : Nat)
  /-- TABLE_INFO (R267): TABLE.INFO returns the rehash state, seeds and usage. -/
  | tableInfo
  /-- TABLE_PART_SET (R267): TABLE.PART_SET sets a partition's LIMIT. -/
  | tablePartSet
  /-- TABLE_LEARN_SET (R267): TABLE.LEARN_SET sets MOVE_LIMIT, HOLD and the ageing periods. -/
  | tableLearnSet
  /-- TABLE_FLUSH (R647): TABLE.FLUSH holds a partition and starts deleting its entries. -/
  | tableFlush
  /-- FLUSH_STEP (R267): A flush step deletes the partition's entries in 1,024 positions. -/
  | flushStep (h : Nat)
  /-- TABLE_STATS (R268): TABLE.STATS returns the table counters. -/
  | tableStats
  /-- PLANE_ITERATION (R292): Each transfer time a plane scheduler runs one request-grant-accept iteration and moves accepted units. -/
  | planeIteration (plane : Nat)
  /-- LB_CONNECTION (R311): Each transfer time a load-balanced plane connects inputs to outputs in rotation and sends direct, relay or stage-one units. -/
  | lbConnection (plane : Nat)
  /-- TRANSFER_UNIT_RECEIVE (R289): A slice receives a transfer unit or local-path bytes and places its segments by OFFSET in allocated cells. -/
  | transferUnitReceive (grove : Nat) (poison : Nat)
  /-- FRAME_INCOMPLETE_TIMEOUT (R305): 1 µs after its check, or 10 µs after its first segment, an incomplete frame tag is freed and counted in FRAMES_INCOMPLETE. -/
  | frameIncompleteTimeout (grove : Nat) (tag : Nat)
  /-- PLANE_FAILURE (R307): A plane is declared failed and the inputs stop using it. -/
  | planeFailure (plane : Nat) (reason : Nat) (crosspoint : Nat)
  /-- PLANE_DOWN_REPORT (R308): Within 1 ms Slaot raises EV_PLANE_DOWN, logs the location and reports the reduced capacity. -/
  | planeDownReport (plane : Nat)
  /-- SCHEDULER_MISMATCH (R310): The two scheduler copies disagree; grants are withheld and the plane enters load-balanced mode. -/
  | schedulerMismatch (plane : Nat)
  /-- CANOPY_MODE_REPORT (R310): Within 1 ms Slaot raises EV_CANOPY_MODE. -/
  | canopyModeReport (plane : Nat)
  /-- LB_MODE_SWITCH (R310): At the next transfer-time boundary after a selection change, a plane switches between scheduled and load-balanced mode. -/
  | lbModeSwitch (plane : Nat)
  /-- HEALTH_CANOPY_GET (R316): HEALTH.CANOPY_GET returns the plane states, capacity and grove counters. -/
  | healthCanopyGet
  /-- HEALTH_CANOPY_SET (R316): HEALTH.CANOPY_SET selects load-balanced mode for the planes in LB_MASK. -/
  | healthCanopySet
  /-- FRAME_ELIGIBLE (R321): A complete, checked and decided frame, with its colour and order condition met, becomes eligible and joins its queue. -/
  | frameEligible (grove : Nat) (tag : Nat)
  /-- EGRESS_SCHEDULE (R332): When the previous frame and its gap have left, the port scheduler chooses the next frame by strict priority and DRR. -/
  | egressSchedule (port : Nat)
  /-- FRAME_TRANSMIT_END (R318): A frame finishes leaving and releases its cell references. -/
  | frameTransmitEnd (port : Nat)
  /-- SINK_TAKE (R333): A sink takes the head frame of its sink queue. -/
  | sinkTake (grove : Nat) (sink : Sink)
  /-- AUDIT_START (R341): Every 2^24 canopy cycles a slice starts its free-list audit. -/
  | auditStart (grove : Nat)
  /-- AUDIT_END (R342): The audit ends by reclaiming cells that leaked twice, handling conflicts and raising EV_CELL_LEAK. -/
  | auditEnd (grove : Nat) (lost : List Nat) (conflicts : List Nat)
  /-- PORT_EGRESS_SET (R346): PORT.EGRESS_SET writes a port's scheduler and ECN settings. -/
  | portEgressSet
  /-- PORT_EGRESS_GET (R345): PORT.EGRESS_GET returns the egress settings and queue depths. -/
  | portEgressGet
  /-- PORT_SLICE_SET (R347): PORT.SLICE_SET writes the pool sizes and thresholds of the named slices. -/
  | portSliceSet
  /-- PORT_SLICE_GET (R345): PORT.SLICE_GET returns a slice's settings, usage and counters. -/
  | portSliceGet
  /-- PORT_MIRROR_SET (R348): PORT.MIRROR_SET writes a mirror session and resets its sampling counts. -/
  | portMirrorSet
  /-- PORT_MIRROR_GET (R345): PORT.MIRROR_GET returns a session and its counts. -/
  | portMirrorGet
  /-- HOST_LINK_DOWN (R351): A hot reset, DL_Down or Link Disable gives every function of the port a host-port reset and raises EV_HOST_LINK_DOWN. -/
  | hostLinkDown (p : Nat) (reason : Nat)
  /-- HOST_LINK_UP (R351): The host link returns to L0 and EV_HOST_LINK_UP is raised. -/
  | hostLinkUp (p : Nat) (rate : Nat) (form : LinkForm)
  /-- CONFIG_REQUEST (R71): A configuration request is answered with CRS before boot step 7 and normally afterward. -/
  | configRequest (fn : Nat) (bus : Nat) (reg : CfgReg) (wr : Option (BitVec 32))
  /-- REGISTER_WRITE (R358): A host memory request to a BAR register without behaviour of its own is performed, discarded or refused under the access rules and the firebreak. -/
  | registerWrite (fn : Nat) (bar : Nat) (off : Nat) (r : MemReq)
  /-- BUS_MASTER_DISABLE (R370): Bus Master Enable is cleared; no new requests are issued, jobs abort with held records, and queue pairs stop. -/
  | busMasterDisable (fn : Nat)
  /-- BUS_MASTER_ENABLE (R371): Bus Master Enable returns to 1; held completion records, then event records and interrupts, are written. -/
  | busMasterEnable (fn : Nat)
  /-- FLR (R370): A function-level reset starts; DMA is silenced, queues reset, keys are revoked and event queues are disabled. -/
  | flr (fn : Nat)
  /-- FLR_COMPLETE (R373): Within 1 ms the FLR completes, FLR_ACTIVE clears and EV_HOST_FLR is raised. -/
  | flrComplete (fn : Nat)
  /-- VF_CESSATION (R355): NumVFs is lowered or VF Enable is cleared; the VFs beyond the count take FLR effects and cease, and their objects pass to PF2. -/
  | vfCessation (fn : Nat) (num : Nat)
  /-- D3HOT_ENTRY (R374): A function enters D3hot; fetching stops and completions and events are held. -/
  | d3hotEntry (fn : Nat)
  /-- D0_RETURN (R375): A function returns to D0; held completions, events and interrupts are written and fetching resumes. -/
  | d0Return (fn : Nat)
  /-- PME_RESEND (R374): Every 100 ms while PME_Status stays 1 in D3hot, a PM_PME message is sent again. -/
  | pmeResend (fn : Nat)
  /-- PME_TURN_OFF (R376): PME_Turn_Off is received, and PME_TO_Ack is sent within 1 ms. -/
  | pmeTurnOff (p : Nat)
  /-- CPL_TIMEOUT_VALUE_WRITE (R367): A write of Completion Timeout Value sets CPL_TIMEOUT. -/
  | cplTimeoutValueWrite (fn : Nat) (v : BitVec 4)
  /-- CPL_TIMEOUT_WRITE (R360): A write of CPL_TIMEOUT in the vendor capability is applied, or ignored when out of range. -/
  | cplTimeoutWrite (fn : Nat) (v : BitVec 13)
  /-- PASID_ENABLE_CLEAR (R365): PASID Enable is cleared; PASID queue pairs stop and their jobs abort. -/
  | pasidEnableClear (fn : Nat)
  /-- MSIX_ENABLE_SET (R362): MSI-X Enable goes to 1; unmasked pending PBA bits become messages and INTx deasserts. -/
  | msixEnableSet (fn : Nat)
  /-- INTX_ACK_WRITE (R362): A write of 1 to INTX_ACK bit v clears PBA bit v and may deassert INTA. -/
  | intxAckWrite (fn : Nat) (vec : Nat)
  /-- ATS_INVALIDATE (R365): An Invalidate Request is answered once the covered requests have been sent and completed. -/
  | atsInvalidate (fn : Nat) (lo : Nat) (hi : Nat) (itag : Nat)
  /-- COMPLETION_RECEIVE (R369): A completion arrives for a tag in use, a quarantined tag or no tag, and is handled or discarded. -/
  | completionReceive (p : Nat) (tag : Nat) (status : CplStatus) (bytes : List Byte)
  /-- COMPLETION_TIMEOUT (R367): A non-posted request reaches issue + T without completion; the timeout is logged, the read fails and the tag is quarantined. -/
  | completionTimeout (p : Nat) (tag : Nat)
  /-- TAG_QUARANTINE_END (R369): At t + 2T the quarantined tag is freed. -/
  | tagQuarantineEnd (p : Nat) (tag : Nat)
  /-- ASPM_L1_ENTRY (R378): On an idle management port after L1_IDLE_US, the device starts L1 entry. -/
  | aspmL1Entry (p : Nat)
  /-- L1_EXIT (R379): PF2 has a request to send, and the link leaves L1 without a clock request. -/
  | l1Exit (p : Nat)
  /-- QUEUE_HOST_SET (R381): QUEUE.HOST_SET writes the management marking and L1_IDLE_US. -/
  | queueHostSet
  /-- QUEUE_HOST_GET (R381): QUEUE.HOST_GET returns the host port's settings and link state. -/
  | queueHostGet
  /-- QUEUE_HOST_STATS (R382): QUEUE.HOST_STATS returns the host port counters. -/
  | queueHostStats
  /-- WORK_PI_WRITE (R387): A WORK_PI doorbell write is accepted or discarded under the range test, and fetching begins. -/
  | workPiWrite (fn : Nat) (slot : Nat) (v : BitVec 32)
  /-- CPL_CI_WRITE (R387): A CPL_CI write is accepted or discarded and may end a completion stall. -/
  | cplCiWrite (fn : Nat) (slot : Nat) (v : BitVec 32)
  /-- QP_CTRL_START (R407): The QP_CTRL START command writes held records and resumes fetching at WORK_CI. -/
  | qpCtrlStart (fn : Nat) (slot : Nat)
  /-- QP_CTRL_STOP (R407): The QP_CTRL STOP command stops fetching and moves the queue pair to STOPPING. -/
  | qpCtrlStop (fn : Nat) (slot : Nat)
  /-- QP_CTRL_RESET (R407): The QP_CTRL RESET command stops fetching and ends jobs without records, heading to RESET. -/
  | qpCtrlReset (fn : Nat) (slot : Nat)
  /-- QP_STOPPING_END (R407): The drain of a stopping queue pair ends; it enters STOPPED (firing EV_QP_STOPPED) or RESET. -/
  | qpStoppingEnd (qp : Nat)
  /-- DESCRIPTOR_FETCH (R395): A fetched descriptor is checked; a malformed one puts the queue pair in ERROR and fires EV_QP_ERROR. -/
  | descriptorFetch (qp : Nat)
  /-- JOB_START (R401): When all start conditions hold, a job starts and reserves its completion slot. -/
  | jobStart (qp : Nat)
  /-- CQ_STALL_TIMEOUT (R399): A completion stall still holds at s + STALL_US, and EV_CQ_STALL fires once. -/
  | cqStallTimeout (qp : Nat)
  /-- JOB_COMPLETE (R398): A job ends; its record is written in its slot, CPL_DONE advances over written records, and EV_COMPLETION fires. -/
  | jobComplete (qp : Nat) (slot : BitVec 32)
  /-- QP_NOP (R394): A NOP descriptor job completes OK. -/
  | qpNop (qp : Nat) (slot : BitVec 32)
  /-- COUNTER_WAIT (R402): A COUNTER_WAIT job starts, and completes at once or waits on the target's CPL_DONE. -/
  | counterWait (qp : Nat) (slot : BitVec 32)
  /-- COUNTER_WAIT_SATISFIED (R402): The target's CPL_DONE reaches VALUE, or the target enters ERROR or RESET, and the wait ends. -/
  | counterWaitSatisfied (qp : Nat) (slot : BitVec 32)
  /-- COUNTER_WAIT_TIMEOUT (R402): At start + TIMEOUT_US an unsatisfied wait ends ABORTED with TIMED_OUT. -/
  | counterWaitTimeout (qp : Nat) (slot : BitVec 32)
  /-- TX (R403): A TX job reads its segments and passes the frame into the canopy with CHECK 1. -/
  | tx (qp : Nat) (slot : BitVec 32)
  /-- RX_POST (R394): An RX_POST descriptor offers a receive buffer. -/
  | rxPost (qp : Nat)
  /-- RX_DELIVERY (R405): A NET_RX queue pair takes the head frame and writes the metadata and frame into buffers as one job. -/
  | rxDelivery (qp : Nat)
  /-- QUEUE_QP_SET (R384): QUEUE.QP_SET configures a RESET queue pair, binds its slot and moves it to STOPPED. -/
  | queueQpSet
  /-- QUEUE_QP_GET (R411): QUEUE.QP_GET returns the settings, status and indices. -/
  | queueQpGet
  /-- QUEUE_QP_STATE_START (R408): QUEUE.QP_STATE with START. -/
  | queueQpStateStart
  /-- QUEUE_QP_STATE_STOP (R408): QUEUE.QP_STATE with STOP. -/
  | queueQpStateStop
  /-- QUEUE_QP_STATE_RESET (R408): QUEUE.QP_STATE with RESET. -/
  | queueQpStateReset
  /-- QUEUE_QP_STATS (R412): QUEUE.QP_STATS returns the queue pair counters. -/
  | queueQpStats
  /-- EVENT_DELIVERY (R414): A pending source whose resolved target is eligible writes one record, and an interrupt may become due. -/
  | eventDelivery (src : Nat)
  /-- EQ_CI_WRITE (R421): An EQ_CI write is accepted or discarded, completes records, and may cancel or make due an interrupt. -/
  | eqCiWrite (fn : Nat) (eq : Nat) (v : BitVec 32)
  /-- EQ_CTRL_ENABLE (R422): The event-queue CMD ENABLE moves DISABLED to ENABLED with zeroed indices. -/
  | eqCtrlEnable (fn : Nat) (eq : Nat)
  /-- EQ_CTRL_DISABLE (R422): The event-queue CMD DISABLE completes every record and moves to DISABLED. -/
  | eqCtrlDisable (fn : Nat) (eq : Nat)
  /-- EQ_CTRL_INVALID (R422): CMD value 3, or a command that does not fit the state, is ignored and counted in CTRL_IGNORED. -/
  | eqCtrlInvalid (fn : Nat) (eq : Nat) (v : BitVec 2)
  /-- INTERRUPT_SEND (R427): A due interrupt is sent when MOD_COUNT records are present or at d + MOD_TIME_US. -/
  | interruptSend (eq : Nat)
  /-- EVENT_EQ_SET (R432): EVENT.EQ_SET records an event queue's settings and moves it to DISABLED. -/
  | eventEqSet
  /-- EVENT_EQ_GET (R432): EVENT.EQ_GET returns the settings and the register block. -/
  | eventEqGet
  /-- EVENT_EQ_STATE_ENABLE (R432): EVENT.EQ_STATE with ENABLE. -/
  | eventEqStateEnable
  /-- EVENT_EQ_STATE_DISABLE (R432): EVENT.EQ_STATE with DISABLE. -/
  | eventEqStateDisable
  /-- EVENT_EQ_STATE_RESET (R422): EVENT.EQ_STATE with RESET clears the settings and slot binding. -/
  | eventEqStateReset
  /-- EVENT_MOD_SET (R428): EVENT.MOD_SET writes MOD_COUNT and MOD_TIME_US. -/
  | eventModSet
  /-- EVENT_ROUTE_SET (R426): EVENT.ROUTE_SET writes the STATIC or SPREAD routes of a source range. -/
  | eventRouteSet
  /-- EVENT_ROUTE_GET (R432): EVENT.ROUTE_GET returns a source's route, state and held types. -/
  | eventRouteGet
  /-- EVENT_GROUP_SET (R425): EVENT.GROUP_SET writes or deletes a group and resets its pointer. -/
  | eventGroupSet
  /-- EVENT_STATS (R433): EVENT.STATS returns the event-queue counters. -/
  | eventStats
  /-- SVC_INSTRUCTION (R434): A service thread issues an RV64GCV instruction in its own rotation slot. -/
  | svcInstruction (t : Thr) (host : List HostCpl)
  /-- THREAD_FAULT (R440): A thread faults and parks; its reservation and held frame are released, a notification is posted and EV_SVC_FAULT fires. -/
  | threadFault (t : Thr) (cause : Nat) (tval : BitVec 64)
  /-- STILLNESS_DETECT (R445): The stillness count reaches 2^20; a KIND 2 notification is posted and EV_STILL fires. -/
  | stillnessDetect (grove : Nat) (core : Nat)
  /-- CH_PUT (R448): CH.PUT reserves a channel or writes a word of the message. -/
  | chPut (t : Thr)
  /-- CH_SEND (R448): CH.SEND commits the reserved message and releases the reservation. -/
  | chSend (t : Thr)
  /-- CH_RECV (R449): CH.RECV takes one whole committed message, or nothing. -/
  | chRecv (t : Thr)
  /-- CH_GET (R447): CH.GET reads a word of the receive buffer. -/
  | chGet (t : Thr)
  /-- CH_POLL (R447): CH.POLL returns the number of committed messages waiting. -/
  | chPoll (t : Thr)
  /-- CHANNEL_STALE (R450): A reservation held for 2^20 cycles raises a KIND 3 notification and EV_CH_STALE once. -/
  | channelStale (grove : Nat) (ch : Nat)
  /-- CH_RELEASE (R451): A debugger write of CH_RELEASE frees a halted thread's reservation and gives it an abort mark. -/
  | chRelease (grove : Nat) (ch : Nat)
  /-- SVC_RESTART_WRITE (R442): A supervisor write to SVC_RESTART restarts parked threads of its core. -/
  | svcRestartWrite (t : Thr) (v : BitVec 4)
  /-- GROVE_RESTART_WRITE (R455): A grove-supervisor write to GROVE_RESTART restarts thread 0 of parked cores. -/
  | groveRestartWrite (t : Thr) (v : BitVec 16)
  /-- GROVE_SERVICE_RESTART (R443): The grove supervisor faults and Slaot reloads the grove's image, or holds the cores in reset after three restarts in an hour. -/
  | groveServiceRestart (grove : Nat)
  /-- FRM_TAKE (R453): FRM_CMD TAKE takes a frame from an input queue into the thread's window. -/
  | frmTake (t : Thr) (v : BitVec 64)
  /-- FRM_ALLOC (R453): FRM_CMD ALLOC allocates an empty held frame of LEN bytes. -/
  | frmAlloc (t : Thr) (v : BitVec 64)
  /-- FRM_SEND (R454): FRM_CMD SEND carries the held frame into the canopy, looked up or with ACTION. -/
  | frmSend (t : Thr) (v : BitVec 64)
  /-- FRM_FREE (R454): FRM_CMD FREE releases the held frame's cells. -/
  | frmFree (t : Thr) (v : BitVec 64)
  /-- LOG_CI_WRITE (R455): A LOG_CI write consumes learn-log records under the ring rules. -/
  | logCiWrite (grove : Nat) (v : BitVec 32)
  /-- CAND_CI_WRITE (R455): A CAND_CI write consumes candidate records. -/
  | candCiWrite (grove : Nat) (v : BitVec 32)
  /-- SERVICE_STAGE (R465): SERVICE.STAGE writes bytes into the mailbox's image staging area. -/
  | serviceStage
  /-- SERVICE_LOAD (R457): SERVICE.LOAD verifies the staged image and starts loading the named groves. -/
  | serviceLoad
  /-- SERVICE_LOAD_STEP (R457): One grove's cores are reset, its memories are cleared and loaded, and its threads start. -/
  | serviceLoadStep (h : Nat)
  /-- SERVICE_GET (R465): SERVICE.GET returns the image kind, parked threads, restarts and digest. -/
  | serviceGet
  /-- SERVICE_STATS (R465): SERVICE.STATS returns the service counters. -/
  | serviceStats
  /-- SERVICE_NVME_SET (R465): SERVICE.NVME_SET enables an emulated controller and sets its timeout and serial number. -/
  | serviceNvmeSet
  /-- SERVICE_NVME_NS_SET (R462): SERVICE.NVME_NS_SET sets a namespace's backing target and raises Namespace Attribute Changed. -/
  | serviceNvmeNsSet
  /-- SERVICE_SLOWPATH_SET (R463): SERVICE.SLOWPATH_SET writes a slow-path cache entry. -/
  | serviceSlowpathSet
  /-- SERVICE_POLICY_SET (R465): SERVICE.POLICY_SET sets the policy grove, partition, accept mask and punt action. -/
  | servicePolicySet
  /-- SERVICE_LEARN_READ (R465): SERVICE.LEARN_READ returns stored learn-log records. -/
  | serviceLearnRead
  /-- SLOWPATH_FRAME (R463): The slow path takes an exception frame, inserts a flow entry on a hit, and sends the frame. -/
  | slowpathFrame (grove : Nat)
  /-- POLICY_CANDIDATE (R464): The learning policy inserts a flow entry for an accepted candidate, or discards it. -/
  | policyCandidate (grove : Nat)
  /-- LEARN_LOG_MOVE (R464): The policy moves a learn-log record into its store. -/
  | learnLogMove
  /-- NVME_CC_WRITE (R461): A write of CC changes controller enable, and CSTS.RDY follows within 1 ms. -/
  | nvmeCcWrite (fn : Nat) (v : BitVec 32)
  /-- NVME_SQ_TAIL_DOORBELL (R461): An SQ tail doorbell write makes new NVMe commands available. -/
  | nvmeSqTailDoorbell (fn : Nat) (y : Nat) (v : Nat)
  /-- NVME_CQ_HEAD_DOORBELL (R461): A CQ head doorbell write consumes NVMe completions. -/
  | nvmeCqHeadDoorbell (fn : Nat) (y : Nat) (v : Nat)
  /-- CREATE_IO_SQ (R460): Admin Create I/O SQ. -/
  | nvCreateIoSq (fn : Nat) (sqe : Sqe)
  /-- DELETE_IO_SQ (R460): Admin Delete I/O SQ. -/
  | nvDeleteIoSq (fn : Nat) (sqe : Sqe)
  /-- CREATE_IO_CQ (R460): Admin Create I/O CQ. -/
  | nvCreateIoCq (fn : Nat) (sqe : Sqe)
  /-- DELETE_IO_CQ (R460): Admin Delete I/O CQ. -/
  | nvDeleteIoCq (fn : Nat) (sqe : Sqe)
  /-- GET_LOG_PAGE (R460): Admin Get Log Page for pages 01h to 04h. -/
  | nvGetLogPage (fn : Nat) (sqe : Sqe)
  /-- IDENTIFY (R460): Admin Identify with CNS 00h to 03h. -/
  | nvIdentify (fn : Nat) (sqe : Sqe)
  /-- ABORT (R460): Admin Abort. -/
  | nvAbort (fn : Nat) (sqe : Sqe)
  /-- SET_FEATURES (R460): Admin Set Features. -/
  | nvSetFeatures (fn : Nat) (sqe : Sqe)
  /-- GET_FEATURES (R460): Admin Get Features. -/
  | nvGetFeatures (fn : Nat) (sqe : Sqe)
  /-- ASYNCHRONOUS_EVENT_REQUEST (R460): Admin Asynchronous Event Request, up to 4 outstanding. -/
  | nvAsyncEventRequest (fn : Nat) (sqe : Sqe)
  /-- INVALID_COMMAND_OPCODE (R460): An unlisted NVMe opcode completes with Invalid Command Opcode. -/
  | nvInvalidOpcode (fn : Nat) (sq : Nat) (sqe : Sqe)
  /-- FLUSH (R460): I/O Flush. -/
  | nvFlush (fn : Nat) (sq : Nat) (sqe : Sqe) (answered : Bool)
  /-- NVME_WRITE (R462): I/O Write to the namespace's backing target. -/
  | nvWrite (fn : Nat) (sq : Nat) (sqe : Sqe) (data : List (Nat × Nat)) (answered : Bool)
  /-- NVME_READ (R462): I/O Read from the namespace's backing target. -/
  | nvRead (fn : Nat) (sq : Nat) (sqe : Sqe) (answer : Option (List Byte))
  /-- WRITE_ZEROES (R460): I/O Write Zeroes. -/
  | nvWriteZeroes (fn : Nat) (sq : Nat) (sqe : Sqe) (answered : Bool)
  /-- DATASET_MANAGEMENT (R460): I/O Dataset Management with Deallocate. -/
  | nvDatasetManagement (fn : Nat) (sq : Nat) (sqe : Sqe) (answered : Bool)
  /-- NVME_IO_TIMEOUT (R462): A backing target does not answer within IO_TIMEOUT_MS, and the command completes with Transient Transport Error. -/
  | nvmeIoTimeout (fn : Nat) (sq : Nat) (cid : Nat)
  /-- REMOTE_KEY_SET (R471): REMOTE.KEY_SET writes a key entry, advances its generation and returns the key. -/
  | remoteKeySet
  /-- REMOTE_KEY_GET (R502): REMOTE.KEY_GET returns a key entry. -/
  | remoteKeyGet
  /-- REMOTE_KEY_REVOKE (R475): REMOTE.KEY_REVOKE invalidates a key for all later checks. -/
  | remoteKeyRevoke
  /-- KEY_REVOKE_DRAINED (R475): The last access checked under a revoked key completes, and EV_KEY_REVOKED fires. -/
  | keyRevokeDrained (index : Nat)
  /-- REMOTE_CONN_SET (R468): REMOTE.CONN_SET sets up a RESET connection and makes it READY. -/
  | remoteConnSet
  /-- REMOTE_CONN_GET (R469): REMOTE.CONN_GET returns the settings and state of a connection. -/
  | remoteConnGet
  /-- REMOTE_CONN_RESET (R468): REMOTE.CONN_RESET flushes the connection's jobs and returns it to RESET. -/
  | remoteConnReset
  /-- REMOTE_ENGINE_SET (R502): REMOTE.ENGINE_SET sets the engine's MRA port and addresses. -/
  | remoteEngineSet
  /-- REMOTE_STATS (R504): REMOTE.STATS returns the engine counters. -/
  | remoteStats
  /-- REMOTE_WRITE (R484): A WRITE job sends its message as packets across paths. -/
  | remoteWrite (qp : Nat) (slot : BitVec 32)
  /-- REMOTE_READ (R490): A READ job sends a READ_REQ. -/
  | remoteRead (qp : Nat) (slot : BitVec 32)
  /-- REMOTE_SEND (R495): A SEND job sends its message with the next SSN. -/
  | remoteSend (qp : Nat) (slot : BitVec 32)
  /-- RECV_POST (R495): A RECV_POST adds a buffer to the connection's receive list. -/
  | recvPost (qp : Nat) (slot : BitVec 32)
  /-- ATOMIC_ADD (R489): An ATOMIC_ADD job sends an ATOMIC_REQ with ADD. -/
  | atomicAdd (qp : Nat) (slot : BitVec 32)
  /-- CAS64 (R489): A CAS64 job sends a 64-bit compare-and-swap. -/
  | cas64 (qp : Nat) (slot : BitVec 32)
  /-- CAS128 (R489): A CAS128 job sends a 128-bit compare-and-swap. -/
  | cas128 (qp : Nat) (slot : BitVec 32)
  /-- WRITE_PACKET_RECEIVE (R487): A WRITE packet is classified, key-checked and placed by offset; the message ends and is acknowledged when complete. -/
  | writePacketReceive (grove : Nat)
  /-- READ_REQ_RECEIVE (R490): A READ_REQ is key-checked, read and answered with READ_RESP packets. -/
  | readReqReceive (grove : Nat) (acc : List HostCpl)
  /-- READ_RESP_RECEIVE (R490): A READ_RESP is placed at the requester, which ends the job when every byte is in. -/
  | readRespReceive (grove : Nat)
  /-- SEND_PACKET_RECEIVE (R495): A SEND packet is placed in the buffer of its SSN, or answered RNR or LENGTH. -/
  | sendPacketReceive (grove : Nat)
  /-- ATOMIC_REQ_RECEIVE (R489): An ATOMIC_REQ is executed once and cached, or a duplicate is answered from the cache. -/
  | atomicReqReceive (grove : Nat) (acc : List HostCpl)
  /-- ATOMIC_RESP_RECEIVE (R480): An ATOMIC_RESP writes the old value to RESULT_ADDR and ends the job. -/
  | atomicRespReceive (grove : Nat)
  /-- ACK_RECEIVE (R480): An ACK ends its message, advances UNA, and applies ECE. -/
  | ackReceive (grove : Nat)
  /-- NAK_RECEIVE (R481): A NAK ends its message with its reason, or schedules an RNR resend. -/
  | nakReceive (grove : Nat)
  /-- ROCEV2_PACKET_RECEIVE (R500): A RoCEv2 packet is processed in PSN order, or answered with a sequence-error NAK. -/
  | rocev2PacketReceive (grove : Nat) (acc : List HostCpl)
  /-- RETRANSMIT_TIMEOUT (R492): A message's deadline passes unanswered; it is resent, or ends RETRY_EXCEEDED and the connection enters ERROR. -/
  | retransmitTimeout (conn : Nat) (msg : Nat)
  /-- RNR_DELAY_EXPIRY (R493): After RNR_DELAY_US the sender sends the message again. -/
  | rnrDelayExpiry (conn : Nat) (msg : Nat)
  /-- CONTEXT_EXPIRY (R488): A reassembly context idle for 100 ms is freed and its message ends CONN_ERROR. -/
  | contextExpiry (conn : Nat) (msg : Nat)
  /-- CWND_WINDOW (R494): A window of RTO_US without ECE adds SEG to CWND. -/
  | cwndWindow (conn : Nat)
  /-- CIPHER_KEY_SET (R514): CIPHER.KEY_SET loads a key and returns its handle. -/
  | cipherKeySet
  /-- CIPHER_KEY_GET (R534): CIPHER.KEY_GET returns a key's attributes. -/
  | cipherKeyGet
  /-- CIPHER_KEY_DESTROY (R515): CIPHER.KEY_DESTROY invalidates a handle for later jobs. -/
  | cipherKeyDestroy
  /-- KEY_ENTRY_ZEROIZE (R515): The last job on a destroyed key ends, and its entry is zeroized and freed. -/
  | keyEntryZeroize (index : Nat)
  /-- CIPHER_SA_SET (R527): CIPHER.SA_SET creates a security association. -/
  | cipherSaSet
  /-- CIPHER_SA_GET (R534): CIPHER.SA_GET returns an SA. -/
  | cipherSaGet
  /-- CIPHER_SA_DESTROY (R527): CIPHER.SA_DESTROY invalidates an SA for later frames. -/
  | cipherSaDestroy
  /-- CIPHER_QP_BIND (R517): CIPHER.QP_BIND binds a queue pair to the whole-message or suspendable class. -/
  | cipherQpBind
  /-- CIPHER_ENGINE_SET (R506): CIPHER.ENGINE_SET sets SUSPENDABLE_COUNT for the next start. -/
  | cipherEngineSet
  /-- CIPHER_STATS (R535): CIPHER.STATS returns the cipher counters. -/
  | cipherStats
  /-- AEAD_SEAL (R521): An AEAD_SEAL job encrypts and tags a message. -/
  | aeadSeal (qp : Nat) (slot : BitVec 32)
  /-- AEAD_OPEN (R511): An AEAD_OPEN job decrypts into the hold buffer and releases the output on a valid tag. -/
  | aeadOpen (qp : Nat) (slot : BitVec 32)
  /-- XTS_ENC (R522): An XTS_ENC job encrypts data units. -/
  | xtsEnc (qp : Nat) (slot : BitVec 32)
  /-- XTS_DEC (R522): An XTS_DEC job decrypts data units. -/
  | xtsDec (qp : Nat) (slot : BitVec 32)
  /-- TLS_SEAL (R523): A TLS_SEAL job protects a TLS 1.3 record under the key's next sequence number. -/
  | tlsSeal (qp : Nat) (slot : BitVec 32)
  /-- TLS_OPEN (R523): A TLS_OPEN job checks and decrypts a record and releases its content. -/
  | tlsOpen (qp : Nat) (slot : BitVec 32)
  /-- URGENT_PREEMPT (R509): Urgent input becomes ready; the running bulk message is suspended at a block boundary. -/
  | urgentPreempt (grove : Nat) (engine : Nat) (done : Nat)
  /-- BULK_RESUME (R509): A suspended bulk message resumes from its slot. -/
  | bulkResume (grove : Nat) (engine : Nat)
  /-- CIPHER_MESSAGE_END (R512): A message's tag becomes final; held output is released or zeroized, and the record is written or the frame re-enters. -/
  | cipherMessageEnd (grove : Nat) (engine : Nat) (msg : CipherMsg) (poisoned : Bool)
  /-- ESP_OUTBOUND (R529): An inline frame is encapsulated with ESP under its outbound SA. -/
  | espOutbound (tag : Nat)
  /-- ESP_INBOUND (R530): An inline ESP frame is replay-checked, decrypted and decapsulated. -/
  | espInbound (tag : Nat)
  /-- CLEARING_RENT (R539): CLEARING.RENT validates the rental and enters RENTING. -/
  | clearingRent
  /-- CLEARING_RENT_STEP (R539): The rental zeroizes and verifies the window, writes the firebreak entry, and enters EMPTY or QUARANTINED. -/
  | clearingRentStep (h : Nat) (ok : Bool)
  /-- CLEARING_RELEASE (R563): CLEARING.RELEASE starts closing and zeroizing the clearing. -/
  | clearingRelease
  /-- CLEARING_RELEASE_STEP (R563): The release steps close the ports, remove the entry, zeroize everything and enter VACANT or QUARANTINED. -/
  | clearingReleaseStep (h : Nat) (ok : Bool)
  /-- CLEARING_STAGE (R559): CLEARING.STAGE writes bitstream bytes to the staging area. -/
  | clearingStage
  /-- CLEARING_STAGE_HOST (R559): CLEARING.STAGE_HOST reads bitstream bytes from host memory into the staging area. -/
  | clearingStageHost
  /-- CLEARING_LOAD (R561): CLEARING.LOAD checks the header and enters LOADING. -/
  | clearingLoad
  /-- CLEARING_LOAD_STEP (R561): The load verifies, unwraps, decrypts and reads back, or zeroizes and returns to EMPTY on failure. -/
  | clearingLoadStep (h : Nat) (ok : Bool)
  /-- CLEARING_UNLOAD (R562): CLEARING.UNLOAD closes the ports, zeroizes the configuration and enters EMPTY. -/
  | clearingUnload
  /-- CLEARING_GET (R570): CLEARING.GET returns the state and settings. -/
  | clearingGet
  /-- CLEARING_QP_BIND (R552): CLEARING.QP_BIND binds a channel to a queue pair. -/
  | clearingQpBind
  /-- CLEARING_LINE_BIND (R556): CLEARING.LINE_BIND binds an event line to a queue pair. -/
  | clearingLineBind
  /-- CLEARING_CTRL (R570): CLEARING.CTRL reads or writes the control window. -/
  | clearingCtrl
  /-- CLEARING_METER_SET (R568): CLEARING.METER_SET changes PERIOD_S, closing the current record. -/
  | clearingMeterSet
  /-- CLEARING_METER_READ (R570): CLEARING.METER_READ returns closed usage records. -/
  | clearingMeterRead
  /-- CLEARING_STATS (R571): CLEARING.STATS returns the clearing counters. -/
  | clearingStats
  /-- SHELL_CLOCK_START (R544): 10 µs after configuration, SH_CLK and FAB_CLK start. -/
  | shellClockStart (c : Nat)
  /-- SHELL_RESET_RELEASE (R544): 256 SH_CLK cycles later, SH_RST_N rises. -/
  | shellResetRelease (c : Nat)
  /-- CLEARING_RUNNING (R544): 16 cycles later the clearing is RUNNING and the load ends OK. -/
  | clearingRunning (c : Nat)
  /-- STREAM_RX_FRAME (R546): The shell delivers a frame from the sink queue on STR_RX. -/
  | streamRxFrame (c : Nat)
  /-- STREAM_TX_FRAME (R547): Tenant logic sends a frame on STR_TX into the canopy. -/
  | streamTxFrame (c : Nat) (bytes : List Byte) (abort : Bool)
  /-- MEM_COMMAND (R548): A memory-port read or write command transfers and is checked against the window and firebreak. -/
  | memCommand (c : Nat) (write : Bool) (off : Nat) (count : Nat) (id : Nat)
  /-- MEM_WRITE_DATA (R548): Write-data beats of a command are written into package memory, and the acknowledgment follows the last beat. -/
  | memWriteData (c : Nat) (data : BitVec 1024) (mask : BitVec 128) (last : Bool) (poisoned : Bool)
  /-- MEM_RESPONSE (R548): Read data or a write acknowledgment is delivered on the response channel. -/
  | memResponse (c : Nat) (id : Nat) (poisoned : Bool)
  /-- H2C (R553): An H2C job reads its segments and delivers one message on its channel. -/
  | h2c (qp : Nat) (slot : BitVec 32)
  /-- C2H_POST (R553): A C2H_POST job offers a buffer for a message from tenant logic. -/
  | c2hPost (qp : Nat) (slot : BitVec 32)
  /-- H2C_MESSAGE (R555): The shell takes the next whole H2C message in round robin. -/
  | h2cMessage (c : Nat)
  /-- C2H_MESSAGE (R555): A C2H message claims the oldest C2H_POST job of its channel and is written into its buffer. -/
  | c2hMessage (c : Nat) (chan : Nat) (ctag : BitVec 32) (bytes : List Byte) (abort : Bool)
  /-- EVENT_LINE_FIRE (R556): A rising event line fires EV_CLEARING_LINE on its bound queue pair, or is counted as unbound. -/
  | eventLineFire (c : Nat) (lines : BitVec 64) (data : BitVec 24)
  /-- CONTROL_REQUEST (R558): A host control-window request is presented on CTL, or dropped when the write buffer is full. -/
  | controlRequest (c : Nat) (fn : Nat) (write : Bool) (off : Nat) (data : BitVec 64) (beat : CtlBeat)
  /-- CONTROL_ANSWER (R558): Tenant logic answers a control read on CTL_RVALID, or the answer is discarded as late. -/
  | controlAnswer (c : Nat) (rtag : Nat) (data : BitVec 64)
  /-- CONTROL_READ_TIMEOUT (R558): A read without an answer for 10 µs completes with all ones. -/
  | controlReadTimeout (c : Nat) (rtag : Nat)
  /-- CLEARING_POWER_WINDOW (R564): A 100 µs power window closes, and the clocks are lowered, held or restored by one step. -/
  | clearingPowerWindow (c : Nat) (mw : Nat)
  /-- CONFIG_MEMORY_ERROR (R567): An uncorrectable configuration-memory error enters FAULTED with reason 2. -/
  | configMemoryError (c : Nat)
  /-- METER_WINDOW_CLOSE (R568): A usage window closes its record and fires EV_CLEARING_METER. -/
  | meterWindowClose (c : Nat)
  /-- FIREBREAK_SET (R581): FIREBREAK.SET writes 1 to 8 entries of one block in one cycle. -/
  | firebreakSet
  /-- FIREBREAK_GET (R582): FIREBREAK.GET returns entries. -/
  | firebreakGet
  /-- FIREBREAK_MAP_SET (R581): FIREBREAK.MAP_SET writes function-map indices of a port. -/
  | firebreakMapSet
  /-- FIREBREAK_MAP_GET (R582): FIREBREAK.MAP_GET returns function-map indices. -/
  | firebreakMapGet
  /-- FIREBREAK_LOG_READ (R582): FIREBREAK.LOG_READ returns violation records. -/
  | firebreakLogRead
  /-- SECURITY_WRAPKEY_SET (R585): SECURITY.WRAPKEY_SET decapsulates a new OWK and returns KEY_CHECK. -/
  | securityWrapkeySet
  /-- SECURITY_CMDKEY_SET (R587): SECURITY.CMDKEY_SET sets or removes a mailbox command key and resets its counters. -/
  | securityCmdkeySet
  /-- SECURITY_VERIFYKEY_SET (R588): SECURITY.VERIFYKEY_SET sets the service-image or bitstream verification key. -/
  | securityVerifykeySet
  /-- SECURITY_FLOOR_SET (R588): SECURITY.FLOOR_SET raises an anti-rollback floor. -/
  | securityFloorSet
  /-- SECURITY_DEBUG_SET (R589): SECURITY.DEBUG_SET opens the named groves for debug, or closes them. -/
  | securityDebugSet
  /-- DEBUG_WINDOW_CLOSE (R589): A debug window reaches t + SECONDS and the groves close. -/
  | debugWindowClose (grove : Nat)
  /-- JTAG_DEBUG_ACCESS (R589): A JTAG debug instruction reaches a grove's debug registers when open, and reads zero otherwise. -/
  | jtagDebugAccess (t : Thr) (op : DebugOp)
  /-- SECURITY_IDENTITY_GET (R584): SECURITY.IDENTITY_GET returns part of the identity certificate. -/
  | securityIdentityGet
  /-- SECURITY_ATTEST (R591): SECURITY.ATTEST starts building and signing a report. -/
  | securityAttest
  /-- ATTEST_COMPLETE (R591): The report is signed with IK and the operation ends. -/
  | attestComplete (h : Nat)
  /-- SECURITY_REPORT_GET (R591): SECURITY.REPORT_GET returns a report and its signature. -/
  | securityReportGet
  /-- SECURITY_KEYS_GET (R593): SECURITY.KEYS_GET reports which keys are set and the floors. -/
  | securityKeysGet
  /-- TIME_CONFIG (R599): TIME.CONFIG selects the discipline source and servo settings. -/
  | timeConfig
  /-- TIME_SET_DELTA (R604): TIME.SET with KIND 0 steps device time by DELTA. -/
  | timeSetDelta
  /-- TIME_SET_AT_EDGE (R607): TIME.SET with KIND 1 sets the stamp of the next accepted 1PPS_IN edge. -/
  | timeSetAtEdge
  /-- TIME_SET_EDGE_TIMEOUT (R607): No edge arrives within 2 s and the TIME.SET ends ABORTED. -/
  | timeSetEdgeTimeout
  /-- TIME_ADJUST (R601): TIME.ADJUST supplies an offset and frequency that are slewed or stepped. -/
  | timeAdjust
  /-- TIME_GET (R607): TIME.GET returns the time, state and servo values. -/
  | timeGet
  /-- PPS_IN_EDGE (R600): A 1PPS_IN edge is stamped and accepted or rejected, and the servo slews, steps or locks. -/
  | ppsInEdge (stamp : Nat)
  /-- TIME_HOLDOVER (R603): The source supplies nothing within HOLD_MS and the state becomes HOLDOVER. -/
  | timeHoldover
  /-- SCRUB_READ (R610): The scrubber reads a word, corrects and writes it back, or poisons it in HBM. -/
  | scrubRead (loc : LocWord) (word : Nat) (outcome : ReadOutcome)
  /-- UNIT_FAILURE (R614): A unit fails and is fenced within 10 µs, with a log record, EV_UNIT_FENCED and reduced live counts. -/
  | unitFailure (loc : LocWord) (cause : Nat)
  /-- TREE_BANK_REMAP (R615): A failed tree bank is replaced by a spare and rewritten from Slaot's copy within 2 ms. -/
  | treeBankRemap (grove : Nat) (bank : Nat)
  /-- GROVE_FAILURE (R616): A grove fails; its ports go down, its frames and clearings stop, its queue pairs reset and EV_GROVE_FAILED fires. -/
  | groveFailure (grove : Nat) (cause : Nat)
  /-- WARDEN_HEARTBEAT (R620): The active warden core writes a heartbeat every 100 µs. -/
  | wardenHeartbeat
  /-- WARDEN_HEARTBEAT_TIMEOUT (R620): After 10 missed heartbeats the core is declared failed and the standby begins takeover. -/
  | wardenHeartbeatTimeout
  /-- WARDEN_TAKEOVER_ACTIVE (R620): The standby becomes active, answers busy mailboxes and fires EV_WARDEN_TAKEOVER. -/
  | wardenTakeoverActive
  /-- FAILED_CORE_TEST (R620): The failed warden core is tested and rejoins as standby, or is fenced. -/
  | failedCoreTest (ok : Bool)
  /-- WARDEN_DOUBLE_FAILURE (R622): With no live warden core for 1 s, the always-on island performs a system reset. -/
  | wardenDoubleFailure (m : BootReads)
  /-- LOG_FLUSH (R623): Buffered error-log records move to the MRAM ring when 512 wait, or every 10 s. -/
  | logFlush
  /-- HEALTH_GET (R626): HEALTH.GET returns the device and per-grove health. -/
  | healthGet
  /-- HEALTH_LOG_READ (R625): HEALTH.LOG_READ returns error-log records. -/
  | healthLogRead
  /-- ENTRY_THAW (R256): At s + HOLD a frozen host entry thaws, FROZEN clears and a learn-log record of KIND 5 is written with the device time of the thaw. -/
  | entryThaw (key : Nat)
  /-- CLEARING_UNLOAD_STEP (R562): A step of the CLEARING.UNLOAD operation zeroizes and reads back the configuration and embedded memories, ending in EMPTY, or in QUARANTINED with EV_CLEARING_ZEROIZE_FAIL. -/
  | clearingUnloadStep (h : Nat) (ok : Bool)
  /-- CLEARING_STAGE_HOST_STEP (R559): A step of the CLEARING.STAGE_HOST long operation reads bitstream bytes from host memory into the staging area and ends the operation after the last read. -/
  | clearingStageHostStep (h : Nat) (acc : List HostCpl)
  /-- MSIX_TABLE_ENTRY_UNMASK (R362): A host write that clears the mask of an MSI-X table entry in BAR2 sends the message for a set PBA bit of that vector. -/
  | msixTableEntryUnmask (fn : Nat) (vec : Nat)
  deriving DecidableEq, Repr

end Sys2Proof
end

