-- ==== Sys2Proof/Decode.lean ====
section
/-! DEFINITION. The command a word spells by the table's bits. No row of spec/opcode_table.json gives any bits: a
command comes from pins, buses and the part's own sequencers, not as an encoded word. -/
namespace Sys2Proof

/-- The command that a word spells: none, for the table gives no row any bits (assumption log 3). -/
def decodeTableWord (_nbits _w : Nat) : Option Instr := none

end Sys2Proof
end

