-- ==== Sys2Proof/Config.lean ====
section
/-! DEFINITION. What one part fixes (its fuses) and what the spec leaves open: functions of outside standards, draws
of the random source, and the free values. None of the opaque constants has a body, so no proof can rest on one. -/
namespace Sys2Proof.Config

/-- The free value number `n` of width `w`: what the spec leaves undefined or unstated (assumption log 1). -/
opaque freeValue (w n : Nat) : BitVec w

/-- A draw of the device's random source (08 R230 seeds, 11 R331, 16 and 17 first generations): draw number `n`. -/
opaque randomDraw (w n : Nat) : BitVec w

/-- KMAC256 (SP 800-185) over `msg` with a 256-bit key and an ASCII customisation string given as bytes (04 R104,
R106). -/
opaque kmac256 (key : BitVec 256) (custom msg : List Byte) : BitVec 256

/-- SHAKE256 with 512 bits of output (03 R84; 06 R187; 19 R590). -/
opaque shake256 (msg : List Byte) : BitVec 512

/-- FN-DSA verification of an image's signature under a verification key (03 R74; 15 R457; 18 R561). -/
opaque fnDsaVerify (key msg : List Byte) : Bool

/-- FN-DSA signature with the identity key IK (19 R591). -/
opaque fnDsaSign (msg : List Byte) : List Byte

/-- The firmware verification key, fixed at manufacture (19 R588). -/
opaque firmwareKey : List Byte

/-- ML-KEM-1024 decapsulation under EK (19 R585). -/
opaque mlkemDecap (ct : List Byte) : BitVec 256

/-- AES-256 key unwrap (19 R586): none when the integrity check fails. -/
opaque keyUnwrap (kek : BitVec 256) (form : List Byte) : Option (List Byte)

/-- Ciphertext and tag of an AEAD algorithm (1 AES-128-GCM, 2 AES-256-GCM, 3 ChaCha20-Poly1305; 17 R505, R522). -/
opaque aeadSeal (alg : Nat) (key nonce aad text : List Byte) : List Byte

/-- The plaintext of a ciphertext with its tag; none when the tag does not verify. -/
opaque aeadOpen (alg : Nat) (key nonce aad text : List Byte) : Option (List Byte)

/-- XTS-AES of data units of 2^du bytes from a tweak on (17 R522). -/
opaque xts (encrypt : Bool) (alg : Nat) (key : List Byte) (tweak du : Nat) (text : List Byte) : List Byte

/-- ACC and STATE of a context slot after the input bytes given (17 R510). -/
opaque cipherContext (alg : Nat) (key nonce input : List Byte) : BitVec 258

/-- Security version in the header of a firmware image: the header's layout is not in the spec (03 R74). -/
opaque imageSecurityVersion (image : List Byte) : Nat

/-- The claim key in the keys and identity region as the part leaves manufacture (03 R85; 19 R587). -/
opaque claimKey : BitVec 256

/-- Pseudo-channel of each 4 KiB unit of package memory, 64 to a stack (01 R15; 18 R541): the order of the interleave is
not stated. -/
opaque hbmPlace : Nat → Nat

/-- The public half of the identity key IK (19 R583): its 1,793 bytes. -/
opaque ikPublic : List Byte

/-- The public half of the encapsulation key EK (19 R583): its 1,568 bytes. -/
opaque ekPublic : List Byte

/-- The signature of the identity certificate, made with the manufacturing key (19 R584). -/
opaque certificateSignature : List Byte

/-- The factory image of both firmware slots (03 R74). -/
opaque factoryImage : List Byte

/-- The fixed pattern of an L400 alignment marker, which carries the lane's index (05 R136): its bits are not stated. -/
opaque markerPattern : Nat → BitVec 120

/-- The generator polynomial of the inner code (170,160) but for its leading term (05 R136): not stated. -/
opaque innerGenerator : BitVec 10

/-- The PRBS13 register of a lane's first training frame (05 R139): not stated. -/
opaque prbs13Seed : Nat → BitVec 13

/-- What a measurement register is extended with (19 R590). -/
inductive Measured where
  | firmware (slot generation version : Nat)
  | owk
  | commandKey (mailbox : Nat) (removed : Bool)
  | verificationKey (kind : Nat) (digest : List Byte)
  | floor (kind value : Nat)
  | debug (groves : Nat) (opened : Bool)
  | parse (grove : Nat) (digest : List Byte)
  | service (grove : Nat) (digest : List Byte)

/-- The bytes of an extension of M1 to M4: which items they hold is stated, their layout is not. -/
opaque measured : Measured → List Byte

/-- The words of the built-in parse program of the firmware image (06 R183, 07 R190): they may differ between images. -/
opaque builtinProgram : List (BitVec 64)

/-- The longest path of the built-in parse program: the spec bounds it by 20 (07 R190). -/
opaque builtinLongest : Fin 21

/-- What a vector instruction on registers leaves (RISC-V V 1.0, 15 R434). -/
structure VecOut where
  /-- Vector registers written. -/
  v : List (Nat × BitVec 256)
  x : Option (BitVec 64)
  f : Option (BitVec 64)
  vcsr : BitVec 64

/-- A floating-point instruction of F or D on its operands: its result and the accrued flags (15 R434). -/
opaque svcFloat (insn : BitVec 32) (a b c x : BitVec 64) (fcsr : BitVec 32) : BitVec 64 × BitVec 32

/-- A vector instruction on registers; none when it is illegal under the vector state. -/
opaque svcVector (insn : BitVec 32) (v : List (Nat × BitVec 256)) (x f vtype vl vstart vcsr : BitVec 64) : Option VecOut

/-- The element accesses of a vector load or store, address and bytes; none when it is illegal. -/
opaque svcVectorAddrs (insn : BitVec 32) (v : List (Nat × BitVec 256)) (base stride vtype vl vstart : BitVec 64) :
  Option (List (Nat × Nat))

/-- The registers a vector load leaves from the bytes it read. -/
opaque svcVectorLoaded (insn : BitVec 32) (v : List (Nat × BitVec 256)) (vtype vl vstart : BitVec 64) (bytes : List Byte) :
  List (Nat × BitVec 256)

/-- The bytes a vector store writes, in the order of its accesses. -/
opaque svcVectorStored (insn : BitVec 32) (v : List (Nat × BitVec 256)) (vtype vl vstart : BitVec 64) : List Byte

/-- vl for an application vector length between VLMAX and twice VLMAX, which the V extension leaves to the core. -/
opaque svcVl (avl vlmax : Nat) : Nat

/-- The built-in service image of the firmware (15 R458). -/
opaque builtinImage : List Byte

/-- The frames, each with its tenant and without its check sequence, that carry an NVMe command to its namespace's target
(15 R462): NVMe/TCP frames of the service cores for KIND 1, packets of the remote-access engine for KIND 2. The spec names
NVMe/TCP and MRA and not what the frames hold (assumption log 45). -/
opaque nvmeRequest (kind : Nat) (target entry data : List Byte) (n : Nat) : List (BitVec 16 × List Byte)

/-- DEVICE_ID (19 R583). -/
def deviceId : BitVec 64 := (shake256 ikPublic).setWidth 64

/-- NEXT of the Laniren vendor-specific capability of a function, by its number within the port (12 R360 gives none). -/
opaque vsecNext (fn : Nat) : BitVec 12

/-- A word of the body of a capability whose contents the PCI Express Base Specification gives (12 R359), by the function's
number within the port, the capability's number in the list of R359, and the word. -/
opaque capabilityWord (fn cap word : Nat) : BitVec 32

end Sys2Proof.Config
end

