-- ==== Sys2Proof/Machine/State.lean ====
section
/-! DEFINITION. The state of the block: every register, memory, queue, counter, mode and pin the spec gives the TW9,
the queue of waiting commands, and what has left the part. Moments count 0.25 ns on `State.now` (00 Time). A sparse map lists what
differs from the default its reader names. -/
namespace Sys2Proof.Machine

/-- A sparse map: keys strictly rising, each with its value. -/
abbrev SMap (α : Type) := List (Nat × α)

/-- Counters by their index in the list of their STATS rule; an unlisted one is 0. -/
abbrev Ctrs := SMap W64

/-! ## What leaves the part -/

/-- What the part puts on its pins, links and lanes, oldest first in `State.out`. -/
inductive Out where
  /-- A memory write of a function: address, PASID when it carries one, relaxed ordering (12 R363 to R365). -/
  | hostWrite (fn addr : Nat) (pasid : Option Nat) (ro : Bool) (bytes : List Byte)
  /-- A memory read request with its tag (12 R363). -/
  | hostRead (port tag fn addr : Nat) (pasid : Option Nat) (len : Nat)
  /-- An AtomicOp request with its tag (12 R366). -/
  | hostAtomic (port tag fn addr : Nat) (pasid : Option Nat) (kind : Nat) (bytes : List Byte)
  /-- A Translation Request with its tag (12 R365). -/
  | translate (port tag fn addr : Nat) (pasid : Option Nat)
  /-- An MSI-X message of a vector (12 R362). -/
  | msix (fn vec : Nat)
  /-- INTA asserted or deasserted (12 R362). -/
  | intx (port : Nat) (level : Bool)
  /-- A PM_PME message (12 R374). -/
  | pme (fn : Nat)
  /-- PME_TO_Ack (12 R376). -/
  | pmeToAck (port : Nat)
  /-- The completion of a host request: the bytes read, or Unsupported Request (12 R358). -/
  | completion (fn : Nat) (ok : Bool) (bytes : List Byte)
  /-- Configuration Request Retry Status (03 R71). -/
  | crs (fn : Nat)
  /-- An Invalidation Completion (12 R365). -/
  | invalidated (fn itag : Nat)
  /-- A frame on an Ethernet port, FCS included (05, 11). -/
  | frame (port : Nat) (bytes : List Byte)
  /-- A frame cut by an inverted FCS (21 R612) or by a port going down (05 R149). -/
  | frameCut (port : Nat)
  /-- A training frame on a lane, by its three fields and the PRBS13 register at symbol 96: `trainingSymbols` is what it
  consists of (05 R139). -/
  | training (lane : Nat) (control : BitVec 16) (status : BitVec 32) (crc : BitVec 16) (prbs : BitVec 13)
  /-- A response on the out-of-band channel (04 R101). -/
  | oob (bus eid mtag : Nat) (bytes : List Byte)
  /-- A response on the in-band channel (04 R102). -/
  | udp (port : Nat) (addr : List Byte) (udpPort : Nat) (bytes : List Byte)
  /-- VOUT_COMMAND to a stand's VCORE regulator, in mV (02 R41). -/
  | vout (stand mv : Nat)
  /-- WAKE_N of a host port (12 R377). -/
  | wake (port : Nat) (level : Bool)
  /-- THERM_N (02 R57). -/
  | therm (level : Bool)
  /-- 1PPS_OUT (02 R63). -/
  | pps (level : Bool)
  /-- A frame delivered on STR_RX of a clearing, with META, TAG and COPY (18 R545, R546). -/
  | strRx (c : Nat) (md : BitVec 1024) (tag : W32) (copy : Bool) (bytes : List Byte)
  /-- A message delivered on a clearing's host queue port (18 R554). -/
  | h2c (c chan : Nat) (tag : W32) (bytes : List Byte)
  /-- A response on a clearing's memory port (18 R548). -/
  | memResp (c id : Nat) (write last : Bool) (error : Nat) (data : List Byte)
  /-- A control request presented on CTL of a clearing (18 R558). -/
  | ctl (c tag : Nat) (write : Bool) (off : Nat) (data : W64) (be : Byte)
  /-- A JTAG answer (19 R589). -/
  | jtag (v : W64)
  deriving DecidableEq, Repr

/-! ## 02 Package, power, clocks -/

/-- Pins, rails and clocks. -/
structure Board where
  vaux : Bool := true
  retainedValid : Bool := false
  pwrGood : Bool := false
  sysRstN : Bool := true
  /-- PERST_N of each host port; unlisted low (R60). -/
  perstN : SMap Bool := []
  /-- THERM_N asserted (R57, R58). -/
  therm : Bool := false
  /-- WAKE_N asserted by host port (12 R377). -/
  wake : SMap Bool := []
  ppsOut : Bool := false
  /-- VCORE set point of each stand in mV; unlisted 750 (R38). -/
  vcore : SMap Nat := []
  /-- AVS target of each stand in mV; unlisted 750. -/
  avsTarget : SMap Nat := []
  avsStopped : SMap Bool := []
  avsFails : SMap Nat := []
  avsLast : Option Nat := none
  avsStepLast : SMap Nat := []
  /-- Steps of 1/8 taken off service-core and clearing clocks, 0 to 4 (R45). -/
  throttle : Nat := 0
  powerThrottling : Bool := false
  thermalThrottling : Bool := false
  warnArmed : Bool := true
  /-- Sensor readings, key 16 stand + sensor, in units of 0.0625 °C (R57). -/
  sensors : SMap Nat := []
  /-- Stands whose islands their supply monitors hold in reset, until PWR_GOOD next rises (R51). -/
  standHeld : SMap Bool := []
  sysref : Bool := true
  holdover : Bool := false
  /-- ETHREF of each grove; unlisted present (R55). -/
  ethref : SMap Bool := []
  squelched : Bool := true
  dmaStopped : Bool := true
  deriving DecidableEq, Repr

/-! ## 03 Start-up -/

/-- Where the part stands in its boot sequence (R70 to R77). -/
inductive Phase where
  | off | booting | running | recovery | held | halted
  deriving DecidableEq, Repr

/-- The kind of a device-scope reset (R76, R79). -/
inductive ResetKind where
  | cold | warm | factory
  deriving DecidableEq, Repr

/-- Boot sequencing and pending resets. -/
structure Boot where
  phase : Phase := .off
  /-- What the next start restores from (R82). -/
  nextStart : ResetKind := .cold
  source : Nat := 0
  restoredGen : Nat := 0
  fwSlot : Nat := 0
  fwGen : Nat := 0
  /-- Neither firmware slot was accepted: the start ends in recovery mode (R75). -/
  noFirmware : Bool := false
  /-- The firmware slot that failed when the second choice was booted (R74). -/
  fallback : Option Nat := none
  /-- The reset that DEVICE.RESET scheduled, with its moment (R79). -/
  resetAt : Option (Nat × ResetKind) := none
  /-- The slots read without an uncorrectable error when they were last read or written whole (R84). -/
  slotOk : SMap Bool := []
  /-- An activation is between steps 1 and 4 (R92). -/
  activating : Bool := false
  deriving DecidableEq, Repr

/-! ## 05 Ethernet settings -/

/-- Mode and layout of a lane group (R131, R132). -/
structure GroupCfg where
  mode : Nat := 0
  mask : Nat := 1
  deriving DecidableEq, Repr

/-- The attributes of a port (R144), at the defaults of R145. -/
structure PortCfg where
  enable : Bool := false
  flow : Nat := 0
  pfcPrios : BitVec 8 := 0
  ptp : Nat := 0
  maxFrame : Nat := 1522
  holdUpMs : Nat := 10
  ingressCorr : BitVec 16 := 0
  egressCorr : BitVec 16 := 0
  mac : List Byte := [0, 0, 0, 0, 0, 0]
  prioToTc : BitVec 24 := 0xFAC688
  deriving DecidableEq, Repr

/-! ## Settings of other chapters kept in the running configuration (03 R65) -/

/-- Egress settings of a port (11 R346). -/
structure EgressCfg where
  strictMask : BitVec 8 := 0
  alpha : Nat := 4
  weight : List Nat := [1, 1, 1, 1, 1, 1, 1, 1]
  ecnMask : BitVec 8 := 0
  ecnPmax : Nat := 64
  ecnMin : Nat := 64
  ecnMax : Nat := 1024
  deriving DecidableEq, Repr

/-- Settings of an output slice (11 R347). -/
structure SliceCfg where
  headroom : Nat := 8192
  mirrorPool : Nat := 4096
  xoffCells : Nat := 512
  xonCells : Nat := 384
  sinkLimit : Nat := 4096
  deriving DecidableEq, Repr

/-- A mirror session (11 R348). -/
structure MirrorCfg where
  flags : BitVec 8 := 0
  sourcePort : Nat := 0
  destKind : Nat := 1
  tc : Nat := 0
  truncate : Nat := 0
  dest : Nat := 0
  sampleN : Nat := 1
  tag : W32 := 0
  deriving DecidableEq, Repr

/-- Settings of a meter (07 R219, R221). -/
structure MeterCfg where
  cir : Nat := 0
  pir : Nat := 0
  cbs : Nat := 0
  pbs : Nat := 0
  yellow : Nat := 0
  red : Nat := 0
  yellowTc : Nat := 0
  redTc : Nat := 0
  deriving DecidableEq, Repr

/-- A parse program: its words, with the longest path the check found (06 R183). -/
structure Program where
  words : List W64
  longest : Nat
  deriving DecidableEq, Repr

/-- A source's route (14 R424). -/
structure Route where
  spread : Bool
  target : Nat
  deriving DecidableEq, Repr

/-- An event group (14 R425): its member queues, rising. -/
structure EvGroup where
  members : List Nat
  deriving DecidableEq, Repr

/-- A firebreak entry (19 R572). -/
structure FbEntry where
  valid : Bool := false
  master : BitVec 16 := 0
  mask : BitVec 16 := 0
  base : Nat := 0
  limit : Nat := 0
  r : Bool := false
  w : Bool := false
  a : Bool := false
  x : Bool := false
  slaot : Bool := false
  deriving DecidableEq, Repr

/-- Settings of a host port (12 R381). -/
structure HostCfg where
  mgmt : Bool := false
  l1IdleUs : Nat := 100
  deriving DecidableEq, Repr

/-- The rental of a clearing and its window (18 R539). -/
structure Rental where
  renter : Nat
  tenant : Nat
  base : Nat
  size : Nat
  deriving DecidableEq, Repr

/-- Time settings (20 R599 to R607). -/
structure TimeCfg where
  source : Nat := 0
  autoStep : Bool := true
  adjustFn : Nat := 0xFFFF
  slewPpm : Nat := 100
  holdMs : Nat := 3000
  stepNs : Nat := 1000000
  ppsCorr : BitVec 32 := 0
  deriving DecidableEq, Repr

/-- The in-band channel (04, 23 R644). -/
structure InbandCfg where
  enable : Bool := false
  ipv6 : Bool := false
  udpPort : Nat := 0
  address : List Byte := []
  ports : SMap Bool := []
  deriving DecidableEq, Repr

/-- Settings of the built-in NVMe controller of a storage function (15 R465). -/
structure NvmeCfg where
  enable : Bool := false
  timeoutMs : Nat := 30000
  serial : List Byte := []
  deriving DecidableEq, Repr

/-- A namespace and its backing target (15 R462). -/
structure NvmeNs where
  kind : Nat := 0
  lbaLog2 : Nat := 0
  sizeLbas : Nat := 0
  keyHandle : Nat := 0
  target : List Byte := []
  deriving DecidableEq, Repr

/-- An entry of a slow-path cache (15 R463, R465). -/
structure SlowEntry where
  key : BitVec 384
  action : Nat
  part : Nat
  trail : Bool
  deriving DecidableEq, Repr

/-- Settings of the learning policy (15 R464, R465). -/
structure PolicyCfg where
  grove : Nat := 0
  part : Nat := 0
  acceptMask : Nat := 0
  puntAction : Nat := 0
  deriving DecidableEq, Repr

/-- Addresses of a remote-access engine (16 R502). -/
structure RaCfg where
  port : Nat := 9473
  mac : List Byte := [0, 0, 0, 0, 0, 0]
  ipv4 : List Byte := [0, 0, 0, 0]
  ipv6 : List Byte := []
  deriving DecidableEq, Repr

/-- The running configuration: every item 03 R65 restores, at the factory defaults (03 R85). -/
structure RunCfg where
  groups : SMap GroupCfg := []
  ports : SMap PortCfg := []
  portTable : SMap (BitVec 128) := []
  tenantTable : SMap (BitVec 256) := []
  /-- Loaded parse programs; an unlisted grove runs the built-in one. -/
  programs : SMap Program := []
  /-- Parse programs loaded into each grove since factory defaults (06 R182; assumption log 29). -/
  parseLoads : SMap Nat := []
  /-- Owners that differ from R85: key 2^24 KIND + object (04 R117). -/
  owners : SMap Nat := []
  partLimits : SMap Nat := []
  /-- Function indices assigned to VFs: key 1024 port + VF (01 R27). -/
  fnMap : SMap Nat := []
  /-- Firebreak entries that differ from R85: key 64 block + entry (19 R572). -/
  firebreaks : SMap FbEntry := []
  routes : SMap Route := []
  evGroups : SMap EvGroup := []
  /-- MOD_COUNT and MOD_TIME_US of an event queue (14 R428). -/
  moderation : SMap (Nat × Nat) := []
  egress : SMap EgressCfg := []
  slices : SMap SliceCfg := []
  mirrors : SMap MirrorCfg := []
  /-- Meters: key 4096 grove + meter. -/
  meters : SMap MeterCfg := []
  rentals : SMap Rental := []
  hosts : SMap HostCfg := []
  time : TimeCfg := {}
  inband : InbandCfg := {}
  /-- Pinned interface version by mailbox. -/
  pins : SMap Nat := []
  moveLimit : Nat := 4
  learnHold : Nat := 5
  hostAgeMs : Nat := 75000
  flowAgeMs : Nat := 10000
  nvme : SMap NvmeCfg := []
  namespaces : SMap NvmeNs := []
  policy : PolicyCfg := {}
  /-- Slow-path caches: key 16384 grove + index (15 R463). -/
  slowpath : SMap SlowEntry := []
  remote : SMap RaCfg := []
  /-- SUSPENDABLE_COUNT configured for the next start (17 R506). -/
  suspendable : SMap Nat := []
  /-- PERIOD_S of each clearing's usage records (18 R568). -/
  meterPeriod : SMap Nat := []
  deriving DecidableEq, Repr

/-! ## 03, 04, 19 What MRAM and retained RAM hold -/

/-- A configuration slot (03 R87, R88): header, body, and the DIGEST written. -/
structure CfgSlot where
  magic : Nat := 0
  length : Nat := 0
  generation : Nat := 0
  iface : Nat := 0
  snapshotSeq : Nat := 0
  digest : BitVec 512 := 0
  body : RunCfg := {}
  deriving DecidableEq, Repr

/-- A firmware slot (03 R74): its header's flags, and the image bytes when one was staged over the factory image. -/
structure FwSlot where
  generation : Nat := 1
  confirmed : Bool := true
  image : Option (SMap Byte) := none
  deriving DecidableEq, Repr

/-- A record of the error log (21 R623). -/
structure LogRec where
  time : Nat
  /-- The moment on `State.now` at which its folding window began. -/
  start : Nat
  location : W64
  kind : Nat
  severity : Nat
  count : Nat
  detail : W32
  seq : W32
  deriving DecidableEq, Repr

/-- MRAM: what every reset keeps (03 What is kept where). -/
structure Nv where
  slots : SMap CfgSlot := []
  storeCounts : SMap Nat := []
  /-- Slots whose count turned a store away: Slaot writes only the other from then on (03 R89). -/
  storeBarred : List Nat := []
  fw : SMap FwSlot := []
  /-- Command keys by mailbox (04 R95, 19 R587); mailbox 16 starts with the claim key. -/
  cmdKeys : SMap (BitVec 256) := [(16, Config.claimKey)]
  counterFloors : SMap Nat := []
  seqCopy : Nat := 0
  owk : Option (BitVec 256) := none
  serviceKey : Option (List Byte) := none
  bitstreamKey : Option (List Byte) := none
  fwFloor : Nat := 0
  bitFloor : Nat := 0
  logRing : List LogRec := []
  deriving DecidableEq, Repr

/-- What a mailbox has accepted (04 R109 to R111), in retained RAM. -/
structure CounterSt where
  last : Nat := 0
  sinceFloor : Nat := 0
  lastSeq : Nat := 0
  lastOpcode : Nat := 0
  lastStatus : Nat := 0
  lastHandle : Nat := 0
  deriving DecidableEq, Repr

/-- Retained RAM beside the running configuration and the AVS set points (03 What is kept where). -/
structure Retained where
  counters : SMap CounterSt := []
  seq : Nat := 0
  logBuf : List LogRec := []
  logSeq : W32 := 1
  /-- Time of the last accepted DEVICE.STORE (03 R88). -/
  lastStore : Option Nat := none
  deriving DecidableEq, Repr

/-! ## 04 Slaot -/

/-- The path a request came by, and where its response goes (04 R94, R101, R102). -/
inductive Via where
  | mailbox (p : Nat)
  | oob (bus eid mtag : Nat)
  | inband (port : Nat) (addr : List Byte) (udp : Nat)
  /-- The response goes nowhere (12 R373). -/
  | nowhere
  deriving DecidableEq, Repr

/-- A request as Slaot reads it (04 R103, R104). -/
structure Request where
  via : Via
  mb : Nat
  opcode : Nat
  auth : Bool
  actAs : Bool
  doneEvent : Bool
  length : Nat
  acting : Nat
  hostTag : Nat
  counter : Nat
  payload : List Byte
  /-- The header bytes, kept for the tag. -/
  header : List Byte
  tag : BitVec 256
  counterCopy : Nat
  /-- Message length agrees, reserved fields and padding are zero (04 R107 step 1). -/
  wellFormed : Bool
  /-- GLOBAL_SEQ (04 R120). -/
  seq : Nat := 0
  /-- The command key that verified the trailer; the response is authenticated under it (04 R106). -/
  key : Option (BitVec 256) := none
  /-- The warden cycle in which it reached the arbiter (04 R119). -/
  cycle : Nat := 0
  deriving DecidableEq, Repr

/-- A PF2 mailbox (04 R96 to R99). -/
structure Mbx where
  req : SMap Byte := []
  resp : List Byte := []
  writeLost : Bool := false
  submitLost : Bool := false
  respValid : Bool := false
  busy : Bool := false
  respEvent : Bool := false
  deriving DecidableEq, Repr

/-- What an object a long operation holds is (04 R122). -/
inductive Hold where
  | tree (g : Nat) | rules (mb : Nat) | parse (g : Nat) | image (g : Nat)
  | table (t : Nat) | part (i : Nat) | clearing (c : Nat)
  deriving DecidableEq, Repr

/-- What a long operation works on. -/
inductive OpData where
  /-- DEVICE.STORE: target slot, the snapshot, its GLOBAL_SEQ and generation (03 R86, R87). -/
  | store (slot : Nat) (snap : RunCfg) (seq gen : Nat)
  /-- Verification of a FINAL STAGE (03 R90). -/
  | verify (slot : Nat)
  /-- DEVICE.UPDATE ACTIVATE: the staged slot, and the moment it was accepted (03 R91). -/
  | activate (slot start : Nat)
  /-- CLASS.PARSE_LOAD: groves still to load and the program; none is the built-in one (06 R183). -/
  | parseLoad (all left : List Nat) (prog : Option Program)
  /-- CLASS.TREE_INSTALL: groves still to write, the compiled tree, the staged records and failures of a read-back (07 R206, R208). -/
  | treeInstall (all left : List Nat) (tree : Option TreeBuild) (records fails : Nat)
  /-- TABLE.REHASH of a table (08 R248). -/
  | rehash (table : Nat)
  /-- TABLE.FLUSH: table, partition, flags and next position (08 R267). -/
  | flush (table part flags pos count : Nat)
  /-- SERVICE.LOAD: groves still to load, image bytes or built-in (15 R457). -/
  | svcLoad (groves : List Nat) (image : Option (List Byte))
  /-- CLEARING operations (18). -/
  | clRent (c : Nat) (rent : Rental)
  | clRelease (c step : Nat)
  | clStageHost (c off addr count fn : Nat)
  | clLoad (c step : Nat)
  | clUnload (c : Nat)
  /-- SECURITY.ATTEST: the nonce (19 R591). -/
  | attest (nonce : List Byte)
  deriving DecidableEq, Repr

/-- A long operation in progress (04 R121 to R126). -/
structure LongOp where
  handle : Nat
  opcode : Nat
  starter : Nat
  mb : Nat
  doneEvent : Bool
  startSeq : Nat
  stepsDone : Nat := 0
  stepsTotal : Nat := 0
  cancel : Bool := false
  data : OpData
  deriving DecidableEq, Repr

/-- A retained outcome (04 R124, R126). -/
structure EndedOp where
  handle : Nat
  opcode : Nat
  starter : Nat
  status : Nat
  stepsDone : Nat
  stepsTotal : Nat
  startSeq : Nat
  deriving DecidableEq, Repr

/-- The control interface. -/
structure SlaotSt where
  mbx : SMap Mbx := []
  /-- Requests delivered to the arbiter, in order (R119). -/
  arb : List Request := []
  /-- The request that passed the common checks and waits for its row. -/
  accepted : Option Request := none
  /-- Requests of the in-band queue behind its head (R102). -/
  inband : List Request := []
  inbandBusy : Bool := false
  /-- In-band discards: 0 no AUTH, 1 authentication, 2 fragment or length, 3 full queue (R102, R626). -/
  discards : Ctrs := []
  oobBusy : Bool := false
  ops : List LongOp := []
  /-- Handles that have taken their step in the round of turns in progress, and requests run since the last step (R121). -/
  round : List Nat := []
  ran : Nat := 0
  ended : List EndedOp := []
  nextHandle : Nat := 1
  /-- Firmware staging sequence: its slot, mailbox and whether verification runs (23 R643). -/
  staging : Option (Nat × Nat) := none
  /-- A verified image staged and not confirmed (03 R90, R91). -/
  stagedOk : Option Nat := none
  deriving DecidableEq, Repr

/-! ## 05 Ethernet -/

/-- Training state of a lane (R139 to R141). -/
structure LaneTr where
  lockCount : Nat := 0
  lock : Bool := false
  seenFrame : Bool := false
  seenMode : Bool := false
  control : BitVec 16 := 0x4000
  status : BitVec 32 := 0xA7000000
  /-- Consecutive frames with RX_READY both sent and received. -/
  readyCount : Nat := 0
  data : Bool := false
  /-- The replies shown answer a PRESET request (R140). -/
  presetReply : Bool := false
  /-- The PRBS13 register at symbol 96 of the next frame sent (R139). -/
  prbs : BitVec 13 := 1
  deriving DecidableEq, Repr

/-- What a port is doing (R141, R148, R158). -/
structure PortSt where
  /-- 0 disabled, 1 training, 2 hold-up, 3 up, 4 down. -/
  state : Nat := 0
  attemptStart : Nat := 0
  holdStart : Nat := 0
  reason : Nat := 0
  retryAt : Option Nat := none
  failWindow : Option Nat := none
  /-- Start of the window of R150 in progress. -/
  degWindow : Option Nat := none
  /-- Skew in ns between the lanes at the last alignment (R138), and what the S200 state machines last showed (R142). -/
  skewNs : Nat := 0
  s200 : S200Link := {}
  uncorrectable : Nat := 0
  /-- Pause end by priority (R153). -/
  pause : SMap Nat := []
  /-- XOFF sent: last send time by priority (R155). -/
  xoff : SMap Nat := []
  ctrs : Ctrs := []
  deriving DecidableEq, Repr

/-- Ports and lanes. -/
structure EthSt where
  ports : SMap PortSt := []
  lanes : SMap LaneTr := []
  deriving DecidableEq, Repr

/-! ## 12 Host ports -/

/-- Why a tag is in use (12 R363, R368). -/
inductive Purpose where
  | fetch (qp : Nat)
  | payload (qp : Nat) (slot : W32) (piece : Nat)
  /-- A record or payload write that waits for its translation: nothing follows but the cache entry. -/
  | write (fn : Nat) (pasid : Option Nat)
  /-- The same for a read of a remote-access engine (16 R474). -/
  | read (fn : Nat) (pasid : Option Nat)
  /-- A read or AtomicOp whose completion the command that makes it brings: nothing follows but the tag. -/
  | direct
  /-- Of a request that Bus Master Enable or a reset has abandoned: its completion is discarded (R370). -/
  | discard
  /-- A read that waits for the translation of its address (12 R365). -/
  | translate (p : Purpose) (addr len : Nat)
  deriving DecidableEq, Repr

/-- A non-posted request awaiting its completion. -/
structure TagUse where
  port : Nat
  tag : Nat
  fn : Nat
  purpose : Purpose
  issued : Nat
  timeout : Nat
  /-- The address before translation, and the length. -/
  addr : Nat
  len : Nat
  deriving DecidableEq, Repr

/-- A request that waits for a free tag (12 R363). -/
structure TagWait where
  port : Nat
  fn : Nat
  purpose : Purpose
  addr : Nat
  len : Nat
  deriving DecidableEq, Repr

/-- The configuration space and runtime state of a function (12 R353 to R375). -/
structure FnSt where
  memSpace : Bool := false
  busMaster : Bool := false
  intDisable : Bool := false
  msixEnable : Bool := false
  fnMask : Bool := false
  relaxedEn : Bool := false
  atomicEn : Bool := false
  atsEn : Bool := false
  pasidEn : Bool := false
  vfEnable : Bool := false
  /-- Memory Space Enable of the VFs, in the SR-IOV control of their PF. -/
  vfMse : Bool := false
  numVFs : Nat := 0
  d3hot : Bool := false
  pmeEn : Bool := false
  pmeStatus : Bool := false
  pmeLast : Nat := 0
  mps : Nat := 128
  mrrs : Nat := 512
  cplTimeout : Nat := 1000
  cplTimeoutValue : BitVec 4 := 0
  /-- AER status: 0 Completion Timeout, 1 Unexpected Completion, 2 Advisory Non-Fatal (R359, R367, R369). -/
  aer : BitVec 3 := 0
  flrActive : Bool := false
  bars : SMap W32 := []
  /-- System Page Size is 64 KiB, and the VF BARs of the SR-IOV capability (R356). -/
  bigPages : Bool := false
  vfBars : SMap W32 := []
  /-- MSI-X table entries: address, data, mask; unlisted masked. -/
  msix : SMap (W64 × W32 × Bool) := []
  pba : SMap Bool := []
  deriving DecidableEq, Repr

/-- A host port. -/
structure HostPort where
  up : Bool := false
  rate : Nat := 0
  width : Nat := 0
  /-- Width at the end of training, flit mode and SRIS (R350). -/
  trained : Nat := 0
  flit : Bool := false
  sris : Bool := false
  /-- Trained to the full endpoint rather than the ROM endpoint (03 R71, R73). -/
  full : Bool := false
  busB : Nat := 0
  /-- ASPM Control and the L1 substates the root port enables (R378). -/
  aspmEnable : Bool := false
  l1ss : BitVec 4 := 0
  /-- Latency Tolerance Reporting: the maximum latencies the host writes (R359). -/
  ltr : W32 := 0
  l1 : Bool := false
  l23 : Bool := false
  lastTraffic : Nat := 0
  mgmtActive : Bool := false
  intx : Bool := false
  ctrs : Ctrs := []
  deriving DecidableEq, Repr

/-- A cached translation (12 R365). -/
structure Trans where
  fn : Nat
  pasid : Option Nat
  page : Nat
  addr : Nat
  deriving DecidableEq, Repr

/-- An Invalidate Request not yet answered: the tags of the covered reads still outstanding (12 R365). -/
structure Inval where
  fn : Nat
  itag : Nat
  tags : List (Nat × Nat)
  deriving DecidableEq, Repr

/-- Host ports. -/
structure HostSt where
  ports : SMap HostPort := []
  fns : SMap FnSt := []
  tags : List TagUse := []
  /-- Quarantined tags: port, tag, end (R369). -/
  quarantine : List (Nat × Nat × Nat) := []
  waiting : List TagWait := []
  cache : List Trans := []
  /-- Functions, PASIDs and pages whose translation was refused, until the access has seen it (R365). -/
  refused : List (Nat × Option Nat × Nat) := []
  invals : List Inval := []
  deriving DecidableEq, Repr

/-! ## 13 Queue pairs -/

/-- The settings of a queue pair (R384). -/
structure QpSet where
  kind : Nat := 0
  workLog2 : Nat := 0
  cplLog2 : Nat := 0
  flags : BitVec 8 := 0
  slot : Nat := 0
  workBase : Nat := 0
  cplBase : Nat := 0
  pasid : Nat := 0
  tenant : Nat := 0
  stallUs : Nat := 0
  deriving DecidableEq, Repr

/-- A completion record but for its PHASE (R396). -/
structure CplRec where
  data : W64
  user : W32
  status : Nat
  opcode : Nat
  detail : Nat
  deriving DecidableEq, Repr

/-- Where a job stands. -/
inductive JobSt where
  /-- Started; its payload reads may still be outstanding. -/
  | running
  /-- Ended, its record not yet written (R398). -/
  | done (r : CplRec)
  /-- Record held in the device (R370, R407). -/
  | held (r : CplRec)
  /-- Record written, not yet passed by CPL_DONE. -/
  | written
  deriving DecidableEq, Repr

/-- A job in progress (R398, R401). -/
structure Job where
  slot : W32
  first : W32
  descs : List (BitVec 256)
  st : JobSt := .running
  /-- Payload pieces still to arrive, and those that have (12 R363). -/
  piecesLeft : Nat := 0
  pieces : SMap (List Byte) := []
  start : Nat := 0
  /-- Whether the opcode's own row has acted on the job. -/
  acted : Bool := false
  /-- Sequence number a TLS job took when it started (17 R523). -/
  seq : Nat := 0
  /-- A job whose read failed while its frames were being sent: the status and DETAIL it ends with once its frame has got
  CHECK 3 (R403; 16 R499). -/
  cut : Option (Nat × Nat) := none
  deriving DecidableEq, Repr

/-- A COUNTER_WAIT that waits (R402). -/
structure Waiter where
  slot : W32
  target : Nat
  value : W32
  start : Nat
  timeoutUs : Nat
  /-- What ended the wait, once something has: when, and whether the wait was satisfied or its target died. -/
  ended : Option (Nat × Bool) := none
  deriving DecidableEq, Repr

/-- A queue pair (R384 to R407). -/
structure Qp where
  set : QpSet := {}
  /-- 0 RESET, 1 STOPPED, 2 RUNNING, 3 STOPPING, 4 ERROR. -/
  state : Nat := 0
  stopCause : Nat := 0
  reason : Nat := 0
  errIndex : W32 := 0
  /-- A RESET command has moved the queue pair to STOPPING. -/
  resetting : Bool := false
  workPi : W32 := 0
  workCi : W32 := 0
  cplReserved : W32 := 0
  cplDone : W32 := 0
  cplCi : W32 := 0
  /-- One past the last descriptor fetched and checked. -/
  fetched : W32 := 0
  /-- A fetch read is outstanding. -/
  fetching : Bool := false
  /-- Descriptors that have arrived and are not yet checked. -/
  arrived : List (BitVec 256) := []
  /-- Checked descriptors from WORK_CI on. -/
  descs : List (BitVec 256) := []
  /-- RX_POST buffers offered and not yet used (R405). -/
  buffers : List (BitVec 256) := []
  jobs : List Job := []
  waiter : Option Waiter := none
  /-- Cipher class: 0 whole-message, 1 suspendable, 2 suspendable and URGENT (17 R517). -/
  cipherClass : Nat := 0
  /-- The stall in progress: its start, and whether EV_CQ_STALL has fired. -/
  stall : Option (Nat × Bool) := none
  ctrs : Ctrs := []
  deriving DecidableEq, Repr

/-- Queue pairs and the doorbell slots bound to them. -/
structure QpSt where
  qps : SMap Qp := []
  deriving DecidableEq, Repr

/-! ## 14 Event controller -/

/-- A held event type (R415). -/
structure HeldEv where
  type : Nat
  data : W32
  time : Nat
  count : Nat
  deriving DecidableEq, Repr

/-- An event source (R414): what it holds, its written and uncompleted record, and the queues it has found full. -/
structure EvSrc where
  held : List HeldEv := []
  active : Option (Nat × W32) := none
  foundFull : List Nat := []
  deriving DecidableEq, Repr

/-- An event queue (R420). -/
structure Eq where
  /-- 0 RESET, 1 DISABLED, 2 ENABLED. -/
  state : Nat := 0
  sizeLog2 : Nat := 0
  pasidEn : Bool := false
  slot : Nat := 0
  vector : Nat := 0
  base : Nat := 0
  pasid : Nat := 0
  pi : W32 := 0
  ci : W32 := 0
  fault : Bool := false
  /-- The moment the due interrupt became due (R427). -/
  due : Option Nat := none
  /-- Written records not completed: index and source, oldest first (R414). -/
  records : List (W32 × Nat) := []
  ctrs : Ctrs := []
  deriving DecidableEq, Repr

/-- The event controller. -/
structure EvSt where
  srcs : SMap EvSrc := []
  eqs : SMap Eq := []
  /-- Pointer of each group (R425). -/
  pointers : SMap Nat := []
  deriving DecidableEq, Repr

/-! ## 06 to 11 Frames on their way -/

/-- The decision of a frame (07 R211, R212; 06 R172). -/
inductive Decision where
  /-- Freed; what freed it has counted it. -/
  | free
  /-- To the exception queue of the ingress grove. -/
  | exception
  /-- Action `idx` of the ingress grove with its entry as it was read once. -/
  | act (idx : Nat) (e : BitVec 512)
  /-- A mirror copy: its session, DEST_KIND, DEST, class and TAG (11 R336 to R340). -/
  | copy (session kind dest tc : Nat) (tag : W32)
  deriving DecidableEq, Repr

/-- How far the decision of a frame has come. -/
inductive Stage where
  | trail | window | ready | parsing | key | walking | decided
  deriving DecidableEq, Repr

/-- A trail hint of a parse (06 R179). -/
structure Hint where
  ra : W64
  cls : Nat
  key : BitVec 384 := 0
  /-- What the walk returned; none while it has returned no action index. -/
  action : Option Nat := none
  deriving DecidableEq, Repr

/-- A learn or move event (08 R251). -/
structure LearnEv where
  stamp : Nat
  port : Nat
  tenant : Nat
  mac : BitVec 48
  deriving DecidableEq, Repr

/-- A frame between its first byte and its last cell; its key in the map is the frame tag (10 R287). -/
structure FrameRec where
  /-- The frame as it was cut, FCS included. -/
  bytes : List Byte
  /-- SOURCE_KIND and SOURCE_ID of the metadata record (06 R165). -/
  kind : Nat
  id : Nat
  /-- Which steering register targets it: 2^20 times the kind of source, plus its number (10 R296). -/
  steerKey : Nat
  /-- T_first and T_last (09 R277, R279). -/
  first : Nat
  last : Option Nat := none
  /-- Order of T_first over the whole device, for the lane position (09 R282). -/
  order : Nat
  /-- Metadata record (06 R165). -/
  md : BitVec 1024 := 0
  stage : Stage := .trail
  dec : Option Decision := none
  released : Bool := false
  resolved : Bool := false
  /-- It has been freed (11 R320); a slice has refused it a cell (11 R327); it has joined the queue its decision names
  (11 R323). -/
  freed : Bool := false
  refused : Bool := false
  joined : Bool := false
  /-- CHECK of 10 R287, 0 until it is known. -/
  check : Nat := 0
  /-- Bytes that have passed into the canopy, STEER at the first byte, and the slices bytes were sent to (10 R297, R300). -/
  cut : Nat := 0
  steer : Nat := 0
  slices : List Nat := []
  key : BitVec 512 := 0
  hint : Option Hint := none
  learn : Option LearnEv := none
  /-- The action a service thread has decided it under (15 R454). -/
  given : Option Nat := none
  /-- 1 green, 2 yellow, 3 red once the meter has acted (07 R219). -/
  colour : Nat := 0
  meterTc : Option Nat := none
  meterCe : Bool := false
  /-- The action's counters have counted it (07 R222). -/
  counted : Bool := false
  lossless : Bool := false
  /-- Bytes as the frame leaves, once its edits are decided (07 R215). -/
  edited : Option (List Byte) := none
  /-- Class it joins an egress queue under (07 R214). -/
  tc : Nat := 0
  /-- The trail decided it: the decision has reached the cutter (10 R297). -/
  byTrail : Bool := false
  /-- Sessions of which it has been a candidate in the slice (11 R337). -/
  sessions : List Nat := []
  /-- The TX job of a host frame, and whether it waits for the stamp (13 R403). -/
  tx : Option (Nat × W32 × Bool) := none
  /-- The moment its decision was released (09 R279). -/
  decidedAt : Nat := 0
  /-- The trail pipeline it was assigned to (09 R277). -/
  pipe : Nat := 0
  deriving DecidableEq, Repr

/-- A segment (10 R285, R287). -/
structure Seg where
  tag : Nat
  off : Nat
  len : Nat
  check : Nat
  total : Nat
  deriving DecidableEq, Repr

/-- A transfer unit, or a run of the local path (10 R286, R291). -/
structure TUnit where
  /-- The plane that carries it; none on the local path. -/
  plane : Option Nat := none
  dest : Nat
  final : Nat
  source : Nat
  kind : Nat := 0
  segs : List Seg
  deriving DecidableEq, Repr

/-- A plane (10 R292 to R314). -/
structure Plane where
  /-- Grant and accept pointers that differ from R293. -/
  g : SMap Nat := []
  a : SMap Nat := []
  /-- 0 scheduled, 1 scheduler failed, 2 selected, 3 down (R314). -/
  state : Nat := 0
  /-- Moments of poisoned units in the last 1 µs (R307). -/
  poisons : List Nat := []
  /-- Reports Slaot still owes: EV_PLANE_DOWN and EV_CANOPY_MODE with their reasons, and the crosspoint (R308, R310). -/
  downDue : Option (Nat × Nat) := none
  modeDue : Option Nat := none
  /-- The transfer time from which the plane works in its state (R310). -/
  since : Nat := 0
  deriving DecidableEq, Repr

/-- What a relay queue holds: a segment bound for a grove, the cell it is read from, and whether it came as stage one. -/
structure Relay where
  dest : Nat
  seg : Seg
  cell : Nat
  stageOne : Bool := false
  /-- It carries bytes of a mirror copy, which holds a reference of its own to the cell (11 R318, R339). -/
  copy : Bool := false
  deriving DecidableEq, Repr

/-- A cell in use (11 R318, R319). -/
structure Cell where
  tag : Nat
  refs : Nat := 1
  /-- 0 shared, 1 headroom, 2 mirror. -/
  pool : Nat := 0
  /-- The pair it is counted for: 8 × ingress port + priority (R334). -/
  pair : Option Nat := none
  deriving DecidableEq, Repr

/-- A frame tag in a slice (11 R320). -/
structure SliceTag where
  /-- 0 ASSEMBLING, 1 WAITING, 2 QUEUED, 3 SENDING. -/
  st : Nat := 0
  got : Nat := 0
  segs : List (Nat × Nat) := []
  /-- Cell of each frame cell. -/
  cells : SMap Nat := []
  firstSeg : Nat
  check : Nat := 0
  total : Nat := 0
  checkAt : Nat := 0
  /-- The decision has been posted and this slice is the output grove's (R300, R321). -/
  posted : Bool := false
  deriving DecidableEq, Repr

/-- An output slice (11). -/
structure Slice where
  tags : SMap SliceTag := []
  cells : SMap Cell := []
  /-- Egress queues: key 8 × port + class. -/
  queues : SMap (List Nat) := []
  sinks : List (Sink × List Nat) := []
  relay : List Relay := []
  /-- Deficits of a class, and the class each port's round robin stands at (R332). -/
  deficit : SMap Nat := []
  turn : SMap Nat := []
  /-- The frame each port is sending, and the moment its gap ends. -/
  sending : SMap Nat := []
  freeAt : SMap Nat := []
  /-- Candidates, copies and drops of a mirror session (R337, R345). -/
  candidates : SMap Nat := []
  copies : SMap Nat := []
  drops : SMap Nat := []
  /-- Start of the audit in progress, SEEN and SUSPECT cells (R341, R342). -/
  audit : Option Nat := none
  audits : Nat := 0
  seen : List Nat := []
  suspect : List Nat := []
  /-- Cells off the free list that nothing references: an audit has found them lost (R342). -/
  lost : List Nat := []
  /-- EV_BUFFER_HEADROOM window: start and drops (R327). -/
  headroomWindow : Option (Nat × Nat) := none
  /-- Tags freed here whose later segments are late (R305, R327). -/
  freed : List Nat := []
  ctrs : Ctrs := []
  deriving DecidableEq, Repr

/-- Frames, the canopy and the slices. -/
structure CanopySt where
  frames : SMap FrameRec := []
  /-- FRAME_NUMBER of each grove (10 R287, 11 R339). -/
  numbers : SMap Nat := []
  orders : Nat := 0
  /-- Mirror copies made in the slice of their own grove: they take no FRAME_NUMBER, and this numbers their keys (11 R339). -/
  locals : Nat := 0
  steer : SMap Nat := []
  planes : SMap Plane := []
  /-- Units in the transit registers of each grove, oldest first (R302). -/
  transit : SMap (List TUnit) := []
  /-- Units and local runs on their way into each slice, oldest first. -/
  arriving : SMap (List TUnit) := []
  slices : SMap Slice := []
  /-- Start of the count of transfer times, the transfer time of the last iteration, its requests and the planes done. -/
  start : Nat := 0
  tt : Nat := 0
  requests : List (Nat × Nat) := []
  done : List Nat := []
  /-- LB_MASK of HEALTH.CANOPY_SET (R316). -/
  lbMask : Nat := 0
  ctrs : SMap Ctrs := []
  /-- The next trail pipeline of each grove (09 R277). -/
  pipeline : SMap Nat := []
  deriving DecidableEq, Repr

/-! ## 06 Saplings -/

/-- A frame context of a thread (06 R163). -/
structure Ctx where
  tag : Nat
  started : Bool := false
  regs : SMap W64 := []
  flags : BitVec 8 := 0
  key : BitVec 512 := 0
  md : BitVec 1024 := 0
  pc : Nat := 0
  count : Nat := 0
  bank : Nat := 0
  hint : Option Hint := none
  /-- A word of the context reads with an uncorrectable error (R174). -/
  bad : Bool := false
  deriving DecidableEq, Repr

/-- The parser of a grove (06). -/
structure Parser where
  /-- The two banks of the program store; none is the built-in program of the firmware image. -/
  bank0 : Option (List W64) := none
  bank1 : Option (List W64) := none
  active : Nat := 0
  /-- Words that read with an uncorrectable error: 2048 × bank + word (R174). -/
  badWords : List Nat := []
  /-- The dispatch queue (R162). -/
  queue : List Nat := []
  /-- Contexts of each thread, 8 × core + thread; the first is being parsed. -/
  threads : SMap (List Ctx) := []
  backlogWindow : Option (Nat × Nat) := none
  faultWindow : Option (Nat × Nat × Nat) := none
  /-- Candidates recorded and not yet delivered are in the frames; the ring's contents are the service cores'. -/
  ctrs : Ctrs := []
  deriving DecidableEq, Repr

/-- Parsers and the staging buffers of the mailboxes (R182). -/
structure ParseSt where
  groves : SMap Parser := []
  staging : SMap (SMap W64) := []
  deriving DecidableEq, Repr

/-! ## 07 Classifier -/

/-- A rule as it is compiled (07 R201, R202). -/
structure Rule where
  value : BitVec 512
  mask : BitVec 512
  priority : Nat
  action : Nat
  rangeByte : Nat := 255
  lo : Nat := 0
  hi : Nat := 0
  deriving DecidableEq, Repr

/-- A half of the tree memory with its root registers and what Slaot records of its tree (R191, R223). -/
structure TreeHalf where
  root : BitVec 256 := 3#256 <<< 254
  nodes : SMap (BitVec 256) := []
  /-- Slots that read with an uncorrectable error, and logical banks that have failed and are not yet rewritten
  (21 R615). -/
  bad : List Nat := []
  dead : List Nat := []
  /-- The staged rules it was compiled from, in compiled order (R203). -/
  rules : List Rule := []
  slots : Nat := 0
  depth : Nat := 0
  replDepth : Nat := 0
  seq : Nat := 0
  deriving DecidableEq, Repr

/-- A walk in flight (R192, R199). -/
structure Walk where
  tag : Nat
  engine : Nat
  number : Nat
  half : Nat
  accepted : Nat
  deriving DecidableEq, Repr

/-- A meter's buckets and counters (R219, R223). -/
structure MeterSt where
  /-- Tokens of C and P in units of 1/32000 byte: a rate in Mbit/s adds as many in 0.25 ns. -/
  c : Nat := 0
  p : Nat := 0
  at_ : Nat := 0
  /-- False until the first use after a start or a METER_SET: the buckets are full. -/
  used : Bool := false
  ctrs : Ctrs := []
  deriving DecidableEq, Repr

/-- The classifier of a grove. -/
structure Classifier where
  half0 : TreeHalf := {}
  half1 : TreeHalf := {}
  active : Nat := 0
  /-- Keys that wait, by the tag of their frame (R200). -/
  keys : List Nat := []
  walks : List Walk := []
  /-- Walks each engine has accepted. -/
  numbers : SMap Nat := []
  actions : SMap (BitVec 512) := []
  /-- FRAMES and BYTES: counters 2 i and 2 i + 1 of entry i. -/
  actionCtrs : Ctrs := []
  meters : SMap MeterSt := []
  keyWindow : Option (Nat × Nat) := none
  ctrs : Ctrs := []
  deriving DecidableEq, Repr

/-- CLASS.BUILD_GET of a mailbox (R223). -/
structure BuildRec where
  status : Nat
  kind : Nat := 0
  rule : Nat := 0
  slots : Nat := 0
  depth : Nat := 0
  replDepth : Nat := 0
  us : Nat := 0
  deriving DecidableEq, Repr

/-- Classifiers and rule staging. -/
structure ClassSt where
  groves : SMap Classifier := []
  staging : SMap (List Rule) := []
  builds : SMap BuildRec := []
  deriving DecidableEq, Repr

/-! ## 08 Tables -/

/-- An exact-match table as the broadcaster holds it (08 R229 to R234). -/
structure XTable where
  /-- Entries by position, their AGE bits zero. -/
  entries : SMap (BitVec 512) := []
  /-- AGE of a replica: key 4 × position + stand (R262). -/
  ages : SMap Nat := []
  /-- Positions of a replica that read with an uncorrectable error: key 4 × position + stand (R232). -/
  bad : List Nat := []
  seed0 : W32 := 0
  seed1 : W32 := 0
  /-- The new seeds while two layouts are in use (R248, R250). -/
  fresh : Option (W32 × W32) := none
  /-- Progress of a rehash: next step, and entries placed in this pass. -/
  step : Nat := 0
  placed : Nat := 0
  /-- Next step of the automatic sweep, and when the last one ran (R259). -/
  sweep : Nat := 0
  sweptAt : Nat := 0
  rehashWindow : Option Nat := none
  ctrs : Ctrs := []
  deriving DecidableEq, Repr

/-- A table command register set (R239 to R242). -/
structure TblSet where
  /-- TBL_DATA0 to TBL_DATA15. -/
  data : BitVec 512 := 0
  cmd : W32 := 0
  busy : Bool := false
  cmdLost : Bool := false
  dataLost : Bool := false
  done : BitVec 16 := 0
  result : Byte := 0
  info : W32 := 0
  /-- The result of the operation in progress. -/
  due : Option (Nat × W32 × BitVec 512) := none
  deriving DecidableEq, Repr

/-- A table operation that waits at the broadcaster (R233): its register set, TBL_CMD and TBL_DATA at its start, and the
broadcaster cycle in which it arrived. -/
structure TblOp where
  src : Nat
  cmd : W32
  data : BitVec 512
  cycle : Nat
  deriving DecidableEq, Repr

/-- Moves of an entry by the number of their window, and its freeze (R256). -/
structure MoveSt where
  key : BitVec 64
  moves : SMap Nat := []
  /-- Stamp at which the freeze began, and whether its entry has thawed. -/
  frozen : Option Nat := none
  thawed : Bool := false
  deriving DecidableEq, Repr

/-- A record of the learn log (R258). -/
structure LearnRec where
  mac : BitVec 48
  tenant : Nat
  kind : Nat
  oldPort : Nat
  newPort : Nat
  time : Nat
  seq : Nat
  deriving DecidableEq, Repr

/-- The tables, their register sets and the learn engines. -/
structure TableSt where
  host : XTable := {}
  flow : XTable := {}
  /-- Register sets by source number (R233). -/
  sets : SMap TblSet := []
  /-- Operations of register sets in the order in which they run. -/
  ops : List TblOp := []
  events : List LearnEv := []
  /-- Stamp and port of the last event decided, for LEARN_LATE (R252). -/
  decided : Nat × Nat := (0, 0)
  moves : List MoveSt := []
  log : List LearnRec := []
  logSeq : Nat := 1
  /-- The stand of the active learn engine, and when it failed (R257). -/
  engine : Nat := 0
  engineFailed : Option Nat := none
  deriving DecidableEq, Repr


/-! ## 15 Service cores -/

/-- A stillness detector whose condition holds (R445): time counted before the count last went on, when it went on (none
while a debugger halts a thread of the core), and whether it has fired. -/
structure StillSt where
  counted : Nat := 0
  since : Option Nat
  fired : Bool := false
  deriving DecidableEq, Repr

/-- What a held frame is (R452, R453): window bytes not listed are free values from number `fill` on. -/
structure HeldFrame where
  fill : Nat
  bytes : SMap Byte := []
  len : Nat
  queue : Nat
  md : BitVec 1024 := 0
  /-- The tag whose cells it keeps referenced; none for one that ALLOC built. -/
  tag : Option Nat := none
  tenant : Nat := 0
  deriving DecidableEq, Repr

/-- A service thread (R434 to R448). -/
structure SvcThread where
  pc : W64 := 0
  x : SMap W64 := []
  f : SMap W64 := []
  v : SMap (BitVec 256) := []
  fcsr : W32 := 0
  vtype : W64 := 0
  vl : W64 := 0
  vstart : W64 := 0
  vcsr : W64 := 0
  parked : Bool := false
  /-- Halted by a debugger (R451, 19 R589). -/
  halted : Bool := false
  slice : SMap Byte := []
  hostctx : Option W64 := none
  hosterr : Bool := false
  /-- Load reservation: address and width. -/
  reservation : Option (Nat × Nat) := none
  /-- Spinning since PAUSE, with the last value of up to 8 load PCs and of CH.POLL (R444). -/
  spinning : Bool := false
  loads : SMap W64 := []
  poll : Option W64 := none
  frame : Option HeldFrame := none
  frmStatus : W64 := 0
  recv : List W64 := []
  aborts : List Nat := []
  deriving DecidableEq, Repr

/-- A reservation of a channel (R448, R450). -/
structure ChRes where
  thread : Nat
  words : SMap W64 := []
  start : Nat
  stale : Bool := false
  deriving DecidableEq, Repr

/-- A channel (R446): committed messages, oldest first, and the reservation. -/
structure Chan where
  msgs : List (List W64) := []
  res : Option ChRes := none
  deriving DecidableEq, Repr

/-- A THINT candidate record (R455). -/
structure CandRec where
  key : BitVec 384
  ra : W64
  cls : Nat
  action : Nat
  time : Nat
  deriving DecidableEq, Repr

/-- The service cores of a grove. -/
structure SvcGrove where
  /-- The verified custom image; none is the built-in image. -/
  image : Option (List Byte) := none
  heldInReset : Bool := false
  threads : SMap SvcThread := []
  chans : SMap Chan := []
  l2 : SMap Byte := []
  /-- Indices of the learn-log ring, and the candidate ring with its records from CI on (R455); the records of the learn
  log are the tables' own. -/
  logPi : W32 := 0
  logCi : W32 := 0
  candRing : List CandRec := []
  candPi : W32 := 0
  candCi : W32 := 0
  /-- Moments of the restarts in the last hour, and how many since the start (R443, R465). -/
  restarts : List Nat := []
  restartCount : Nat := 0
  faultWindow : Option (Nat × Nat) := none
  /-- By core: the detector of R445. -/
  still : SMap StillSt := []
  ctrs : Ctrs := []
  deriving DecidableEq, Repr

/-- Service cores, the staging areas, and what the learning policy keeps (R464). -/
structure SvcSt where
  groves : SMap SvcGrove := []
  staging : SMap (SMap Byte) := []
  store : List LearnRec := []
  /-- HBM windows Slaot grants to a grove: base and size (R437). -/
  windows : SMap (Nat × Nat) := []
  deriving DecidableEq, Repr



/-- A submission queue of an emulated controller (R460). -/
structure NvSq where
  base : Nat
  size : Nat
  cq : Nat
  head : Nat := 0
  tail : Nat := 0
  deriving DecidableEq, Repr

/-- A completion queue of an emulated controller. -/
structure NvCq where
  base : Nat
  size : Nat
  vec : Nat := 0
  ien : Bool := true
  head : Nat := 0
  tail : Nat := 0
  phase : Bool := true
  deriving DecidableEq, Repr

/-- An I/O command that a backing target has not answered (R462). -/
structure NvIo where
  sq : Nat
  cid : Nat
  start : Nat
  deriving DecidableEq, Repr

/-- An emulated NVMe controller (R459 to R462). -/
structure NvCtl where
  intMask : W32 := 0
  cc : W32 := 0
  rdy : Bool := false
  shst : Nat := 0
  aqa : W32 := 0
  asq : Nat := 0
  acq : Nat := 0
  sqs : SMap NvSq := []
  cqs : SMap NvCq := []
  /-- CIDs of Asynchronous Event Requests that wait, and the events that wait for one. -/
  aers : List Nat := []
  events : List Nat := []
  /-- Event types reported and not yet cleared by reading their log page. -/
  masked : List Nat := []
  /-- Changed namespaces not yet read from log page 04h. -/
  changed : List Nat := []
  /-- Values of features set. -/
  features : SMap Nat := []
  errors : Nat := 0
  io : List NvIo := []
  deriving DecidableEq, Repr



/-! ## 16 Remote memory access -/

/-- A remote key entry (R470, R471). -/
structure RemKey where
  valid : Bool := false
  /-- GEN; none until the first key of the index since the start: the value drawn for it (R472). -/
  gen : Option Nat := none
  target : Nat := 0
  rights : Nat := 0
  pasidEn : Bool := false
  fn : Nat := 0
  tenant : Nat := 0
  pasid : Nat := 0
  low : Nat := 0
  high : Nat := 0
  /-- Revokes whose EV_KEY_REVOKED is still due, by the block it fires in (R475). -/
  revoking : List Nat := []
  deriving DecidableEq, Repr

/-- The settings of a connection (R503). -/
structure ConnSet where
  qp : Nat := 0
  transport : Nat := 0
  ipv6 : Bool := false
  paths : Nat := 1
  segLog2 : Nat := 10
  retryLimit : Nat := 1
  rnrLimit : Nat := 0
  rnrDelayUs : Nat := 1
  tenant : Nat := 0
  rtoUs : Nat := 10
  remoteConn : Nat := 0
  dmac : List Byte := []
  vid : Nat := 0
  dscp : Nat := 0
  sport : Nat := 0
  maxInflight : Nat := 0
  remoteIp : List Byte := []
  txStart : W32 := 0
  rxStart : W32 := 0
  deriving DecidableEq, Repr

/-- A message of a sender that is not settled (R480, R492). -/
structure TxMsg where
  id : W32
  slot : W32
  op : Nat
  raddr : Nat := 0
  rkey : Nat := 0
  imm : W32 := 0
  notify : Bool := false
  ssn : W32 := 0
  asn : W32 := 0
  /-- Bytes sent: the payload of a WRITE or SEND, the operands of an atomic. -/
  data : List Byte := []
  total : Nat
  /-- PSN of its first packet in RoCEv2 (R500). -/
  psn : Nat := 0
  /-- Transmissions made after the first, and the deadline of the last (R492). -/
  r : Nat := 0
  deadline : Nat
  rnr : Nat := 0
  /-- Waiting since an RNR until this moment (R493). -/
  resendAt : Option Nat := none
  /-- READ: packet indices placed, and bytes placed (R490). -/
  seen : List Nat := []
  got : Nat := 0
  deriving DecidableEq, Repr

/-- A reassembly context (R487, R488). -/
structure RxMsg where
  id : W32
  kind : Nat
  /-- Address of byte 0 and key of a RoCEv2 WRITE, which only its first packet names (R500). -/
  raddr : Nat := 0
  rkey : Nat := 0
  total : Nat
  seen : List Nat := []
  got : Nat := 0
  last : Nat
  notify : Bool := false
  imm : W32 := 0
  slot : Option W32 := none
  /-- The receive buffer a SEND consumes. -/
  buf : List (Nat × Nat) := []
  deriving DecidableEq, Repr

/-- A device-originated record that waits for lower messages to end (R491). -/
structure RxRec where
  id : W32
  slot : W32
  record : CplRec
  deriving DecidableEq, Repr

/-- A connection (R467 to R469). -/
structure Conn where
  /-- 0 RESET, 1 READY, 2 ERROR. -/
  state : Nat := 0
  reason : Nat := 0
  set : ConnSet := {}
  nextMsg : W32 := 0
  nextAsn : W32 := 0
  nextSsn : W32 := 0
  cwnd : Nat := 0
  /-- Start of the window of R494 in progress, whether ECE was seen in it, and the last cut. -/
  window : Nat := 0
  eceSeen : Bool := false
  cutAt : Option Nat := none
  tx : List TxMsg := []
  rxBase : W32 := 0
  /-- Outcomes of ended messages by MSG_ID: 0 ACK, else the NAK reason (R486). -/
  ended : SMap Nat := []
  recvBase : W32 := 0
  /-- Posted receive buffers not yet consumed, oldest first (R495). -/
  bufs : List (List (Nat × Nat)) := []
  ctxs : List RxMsg := []
  records : List RxRec := []
  /-- The result cache by ASN mod 256 (R489). -/
  cache : SMap (W32 × List Byte) := []
  /-- A CE mark was taken and not yet told (R494), and the last CNP (R500). -/
  ece : Bool := false
  lastCnp : Option Nat := none
  /-- RoCEv2: next PSN sent, next PSN expected, messages ended (R500). -/
  txPsn : Nat := 0
  rxPsn : Nat := 0
  msn : Nat := 0
  deriving DecidableEq, Repr

/-- A packet in an engine's input: addresses, whether it carries the congestion mark, whether it came to port 4791,
and the bytes after the UDP header (R482, R498, R500). -/
structure NetPkt where
  src : List Byte
  ce : Bool
  roce : Bool
  bytes : List Byte
  deriving DecidableEq, Repr

/-- Remote-access engines. -/
structure RaSt where
  conns : SMap Conn := []
  keys : SMap RemKey := []
  /-- The draw of the random source the generations of unused indices come from (R472). -/
  draw : Nat := 0
  /-- Packets an engine has taken from its sink queue, by grove, oldest first. -/
  inq : SMap (List NetPkt) := []
  /-- Windows of EV_RA_BACKLOG: start and drops; of EV_KEY_VIOLATION: start (R501). -/
  backlog : SMap (Nat × Nat) := []
  violation : SMap Nat := []
  ctrs : SMap Ctrs := []
  deriving DecidableEq, Repr



/-! ## 17 Cipher engines -/

/-- A key entry of the cipher engines (R513, R514). -/
structure CKey where
  valid : Bool := false
  /-- GEN; none until the first key of the index since the start (R516). -/
  gen : Option Nat := none
  alg : Nat := 0
  use : Nat := 0
  key : List Byte := []
  iv : List Byte := []
  seq : Nat := 0
  owner : Nat := 0
  /-- KEY_DESTROY has been accepted and the entry is not yet zeroized (R515). -/
  destroying : Bool := false
  deriving DecidableEq, Repr

/-- A security association (R526, R527). -/
structure Sa where
  valid : Bool := false
  inbound : Bool := false
  tunnel : Bool := false
  esn : Bool := false
  l3Toff : Nat := 0
  handle : Nat := 0
  spi : Nat := 0
  /-- SEQ of the record: the next number sent, or the highest accepted. -/
  seq : Nat := 0
  lifeSoft : Nat := 0
  lifeHard : Nat := 0
  template : List Byte := []
  /-- Replay window: bit i is number SEQ − i (R530). -/
  window : BitVec 1024 := 0
  protected_ : Nat := 0
  softFired : Bool := false
  stopped : Bool := false
  deriving DecidableEq, Repr

/-- A message open on an engine, with its context slot (R508, R510). -/
structure CMsg where
  msg : CipherMsg
  urgent : Bool
  /-- OP of R510, 6 outbound and 7 inbound ESP (the model's numbers). -/
  op : Nat
  index : Nat
  key : CKey
  /-- Sequence number of a TLS job or an outbound frame. -/
  seq : Nat := 0
  /-- The security association of a frame, as it was when the frame opened (R527). -/
  sa : Sa := {}
  /-- Input bytes of the message, AAD included, and those processed (DONE_BYTES). -/
  total : Nat
  doneBytes : Nat := 0
  suspended : Bool := false
  /-- The message has ended; its context slot stays taken until the record of its job is written (R508). -/
  ended : Bool := false
  /-- The context slot as it was last saved (R509, R510). -/
  slot : BitVec 512 := 0
  deriving DecidableEq, Repr

/-- A cipher engine: whether it runs in suspendable mode, and its open messages, oldest first (R506, R508). What the hold
buffer holds is the output of those that are held (R511). -/
structure Engine where
  suspendable : Bool := false
  msgs : List CMsg := []
  deriving DecidableEq, Repr

/-- The cipher engines. -/
structure CiSt where
  keys : SMap CKey := []
  draw : Nat := 0
  sas : SMap Sa := []
  /-- Engines by 4 × grove + engine. -/
  engines : SMap Engine := []
  /-- Window of EV_SA_AUTH_FAIL of a grove: start, failures (R533). -/
  authWindow : SMap (Nat × Nat) := []
  ctrs : SMap Ctrs := []
  deriving DecidableEq, Repr



/-! ## 18 Clearings -/

/-- A memory command of a clearing (R548). -/
structure MemCmd where
  write : Bool
  off : Nat
  beats : Nat
  id : Nat
  /-- 0 OK, 1 BOUNDS, 2 DENIED, 3 POISONED. -/
  err : Nat := 0
  /-- Beats transferred of a write, or answered of a read. -/
  done : Nat := 0
  /-- Every write beat has transferred. -/
  full : Bool := false
  /-- Waits for the earlier command of its ID (R549). -/
  reused : Bool := false
  /-- Data of a read, taken before a later write to the same bytes (R550). -/
  data : Option (List Byte) := none
  deriving DecidableEq, Repr

/-- A request that waits on CTL for tenant logic to take it (R558): a window offset, and who asked for a read. -/
structure CtlReq where
  write : Bool
  off : Nat
  data : BitVec 64 := 0
  be : BitVec 8 := 0
  fn : Option Nat := none
  req : Option Request := none
  deriving DecidableEq, Repr

/-- An outstanding control read (R558): its tag, who asked, and when it transferred. -/
structure CtlRead where
  tag : Nat
  fn : Option Nat
  req : Option Request := none
  at_ : Nat
  deriving DecidableEq, Repr

/-- A usage record (R568). -/
structure Usage where
  start : Nat
  active : Nat := 0
  energy : Nat := 0
  throttled : Nat := 0
  rx : Nat := 0
  tx : Nat := 0
  hbm : Nat := 0
  host : Nat := 0
  deriving DecidableEq, Repr

/-- A clearing (R536 to R571). -/
structure Cl where
  /-- 0 VACANT, 1 RENTING, 2 EMPTY, 3 LOADING, 4 RUNNING, 5 FAULTED, 6 QUARANTINED (R538). -/
  state : Nat := 0
  staging : SMap Byte := []
  /-- The loaded configuration: the decrypted body (R561). -/
  config : List Byte := []
  sha : List Byte := []
  loads : Nat := 0
  shKhz : Nat := 0
  fabKhz : Nat := 0
  /-- Shell clocks run; SH_RST_N; and the moment of the last step of R544. -/
  clocks : Bool := false
  rstN : Bool := false
  stepAt : Nat := 0
  /-- The load operation that ends OK when the clearing is RUNNING. -/
  loading : Option Nat := none
  /-- Queue pair of a channel and of a line (R552, R556). -/
  chans : SMap Nat := []
  lines : SMap Nat := []
  /-- EV_LINE as last sampled. -/
  lineLast : BitVec 64 := 0
  /-- Channel last served (R555), and H2C messages ready: channel and job slot. -/
  lastChan : Nat := 63
  ready : List (Nat × W32) := []
  /-- C2H_POST jobs not yet claimed: channel and job slot, oldest first. -/
  credits : List (Nat × W32) := []
  cmds : List MemCmd := []
  /-- Control requests that wait for CTL_READY, in order: at most 16 writes (R558). -/
  ctlq : List CtlReq := []
  /-- Outstanding control reads, and tags that may not be reused yet with their end (R558). -/
  reads : List CtlRead := []
  lateTags : List (Nat × Nat) := []
  /-- Steps of 1/16 taken, and consecutive windows above 18 W at the floor (R564, R566). -/
  steps : Nat := 0
  overCap : Nat := 0
  /-- The window of a clearing that was quarantined as it was rented (R539). -/
  quarantined : Option Rental := none
  /-- The record in progress and the closed ones, with the moment up to which ACTIVE_NS and THROTTLED_NS are counted. -/
  usage : Option Usage := none
  closed : List Usage := []
  countedTo : Nat := 0
  ctrs : Ctrs := []
  deriving DecidableEq, Repr


/-! ## 19 Security -/

/-- A record of the violation log (R579). -/
structure Violation where
  time : Nat
  address : Nat
  master : BitVec 16
  target : Nat
  right : Nat
  len : Nat
  seq : Nat
  deriving DecidableEq, Repr

/-- An attestation report with its signature (R591). -/
structure Report where
  handle : Nat
  starter : Nat
  report : List Byte
  signature : List Byte
  deriving DecidableEq, Repr

/-- Security state in retained RAM that only a warden restart or takeover keeps (R592). -/
structure SecSt where
  violations : List Violation := []
  vSeq : Nat := 1
  overwrites : Nat := 0
  /-- End of the debug window of a grove (R589). -/
  debug : SMap Nat := []
  /-- M0 to M4 (R590). -/
  measure : SMap (BitVec 512) := []
  reports : List Report := []
  deriving DecidableEq, Repr

/-! ## 20 Device time -/

/-- Device time and its servo (20 R594 to R607). Device time is `State.now` plus `base`, plus what the frequency
correction and the slew have added since they were set. -/
structure TimeSt where
  base : Int := 0
  /-- What the steps have added to `base` (R604): durations are not measured across them. -/
  stepped : Int := 0
  /-- Frequency correction in 1/256 ppb, and when it was set (R601). -/
  freq : Int := 0
  freqStart : Nat := 0
  /-- Offset being slewed, when its slew began, and at how many ppm (R602). -/
  slew : Int := 0
  slewStart : Nat := 0
  slewPpm : Nat := 0
  /-- 0 FREE, 1 SET, 2 LOCKED, 3 HOLDOVER (R603). -/
  state : Nat := 0
  lastError : Int := 0
  steps : Nat := 0
  rejected : Nat := 0
  /-- Consecutive good edges or adjustments. -/
  good : Nat := 0
  lastSupply : Option Nat := none
  /-- TIME.SET with KIND 1 that waits for an edge: the new stamp, the deadline and the request (R607). -/
  pendingSet : Option (Nat × Nat × Request) := none
  /-- Start of the 1PPS_OUT pulse in progress. -/
  ppsStart : Option Nat := none
  deriving DecidableEq, Repr

/-! ## 21 Faults -/

/-- A fenced unit (21 R614): its kind, the grove or stand that scopes it, its index. -/
structure Fence where
  kind : Nat
  scope : Nat
  unit : Nat
  deriving DecidableEq, Repr

/-- Correctable errors of a leaf in the last 24 h (21 R611): their times, and those of the scrub passes that saw one; the
word the scrubber read last, and whether the pass in progress has seen one. -/
structure LeafErr where
  loc : LocWord
  reads : List Nat := []
  passes : List Nat := []
  word : Nat := 0
  seen : Bool := false
  deriving DecidableEq, Repr

/-- Health, fencing and the wardens. -/
structure HealthSt where
  fenced : List Fence := []
  failedGroves : List Nat := []
  leafErrs : List LeafErr := []
  /-- Uncorrectable reads of a unit's leaves: location and time (21, unit failure). -/
  uncorr : List (LocWord × Nat) := []
  /-- Leaves taken out of use (21 R611). -/
  retired : List LocWord := []
  /-- Spare bank that serves a failed bank: key 132 grove + bank (21 R615). -/
  bankMap : SMap Nat := []
  /-- Words of package memory, by address / 8, that hold a poison pattern (21 R610). -/
  poison : List Nat := []
  /-- EV_MEM_UNCORRECTED windows by source block: start and errors (21 R627). -/
  memWindow : SMap (Nat × Nat) := []
  warden0 : Bool := true
  warden1 : Bool := true
  active : Nat := 0
  heartbeat : Nat := 0
  /-- A takeover in progress: last heartbeat of the failed core (21 R620). -/
  takeover : Option Nat := none
  lastFlush : Nat := 0
  /-- By grove: UNIT_LOSS_DROPS, TRAIL_OVERRUN, CORRECTED, UNCORRECTED, POISONED (21 R628). -/
  ctrs : SMap Ctrs := []
  deriving DecidableEq, Repr

/-! ## The machine -/

/-- What the fuses and the stepping of a part fix (00 Variants, 22 R637). -/
inductive Variant where
  | f | n | h | x
  deriving DecidableEq, Repr

/-- The state of the TW9. -/
structure State where
  /-- Commands not yet taken, first in first out. -/
  pending : List Instr := []
  /-- Units of 0.25 ns that have passed: the clock of durations and deadlines, which no step of device time moves
  (20 R604). -/
  now : Nat := 0
  /-- How many free values have been drawn (the model's own). -/
  free : Nat := 0
  /-- What has left the part, oldest first (the model's own). -/
  out : List Out := []
  variant : Variant := .f
  /-- Stepping letter and digit, ASCII and value (00 Interface versions). -/
  stepping : Nat × Nat := (0x42, 0)
  board : Board := {}
  boot : Boot := {}
  nv : Nv := {}
  ret : Retained := {}
  cfg : RunCfg := {}
  sl : SlaotSt := {}
  et : EthSt := {}
  cn : CanopySt := {}
  ps : ParseSt := {}
  cl : ClassSt := {}
  tb : TableSt := {}
  sv : SvcSt := {}
  nvc : SMap NvCtl := []
  ra : RaSt := {}
  ci : CiSt := {}
  clr : SMap Cl := []
  sec : SecSt := {}
  hp : HostSt := {}
  qp : QpSt := {}
  ev : EvSt := {}
  tm : TimeSt := {}
  hl : HealthSt := {}
  /-- Package memory: bytes that are not zero, addresses rising (01 Resources; 03 R69). -/
  mem : List Host.Cell := []
  deriving DecidableEq, Repr

/-- Why the machine stops with a fault. No rule of the spec stops the part: every failure it describes is a status, an
event, a record or a state of the unit, so no meaning of this model raises one (safe). -/
inductive Fault where
  /-- Raised by nothing: kept so that the type names an outcome the interface asks for (safe). -/
  | none
  deriving DecidableEq, Repr

/-- Why a command has no meaning here. -/
inductive Refusal where
  /-- A row of the table whose meaning is not written; its mnemonic (safe). -/
  | notModelled (mnemonic : String)
  deriving DecidableEq, Repr

/-- The part right after VAUX has risen: factory settings, PWR_GOOD low, every register at its reset value
(02 R47, 03 R76, R85). -/
def State.reset : State := {}

end Sys2Proof.Machine
end

