-- ==== Sys2Proof/Machine/Operands.lean ====
section
/-! DEFINITION. Operand forms: fields of little-endian records, bytes and bits, the two CRCs, and the sparse maps. -/
namespace Sys2Proof.Machine

/-! ## Sparse maps -/

/-- The value listed at a key. -/
def SMap.get {α : Type} : SMap α → Nat → Option α
  | [], _ => none
  | (k, v) :: m, i => if k = i then some v else if i < k then none else SMap.get m i

/-- The value at a key, with the default of an unlisted one. -/
def SMap.getD {α : Type} (m : SMap α) (i : Nat) (d : α) : α := (SMap.get m i).getD d

/-- The map with a value at a key. -/
def SMap.set {α : Type} : SMap α → Nat → α → SMap α
  | [], i, v => [(i, v)]
  | (k, w) :: m, i, v =>
    if k = i then (i, v) :: m else if i < k then (i, v) :: (k, w) :: m else (k, w) :: SMap.set m i v

/-- The map without a key. -/
def SMap.del {α : Type} : SMap α → Nat → SMap α
  | [], _ => []
  | (k, w) :: m, i => if k = i then m else if i < k then (k, w) :: m else (k, w) :: SMap.del m i

/-- Keys strictly rising. -/
def SMap.sorted {α : Type} : SMap α → Bool
  | [] => true
  | [_] => true
  | (a, _) :: (b, w) :: m => decide (a < b) && SMap.sorted ((b, w) :: m)

/-- A counter raised by `n`, modulo 2^64. -/
def Ctrs.add (c : Ctrs) (i n : Nat) : Ctrs := SMap.set c i (SMap.getD c i 0 + BitVec.ofNat 64 n)

/-- A counter raised by 1. -/
def Ctrs.inc (c : Ctrs) (i : Nat) : Ctrs := Ctrs.add c i 1

/-! ## Bytes -/

/-- The number whose little-endian bytes are given (00, R3). -/
def leNat : List Byte → Nat
  | [] => 0
  | b :: bs => b.toNat + 256 * leNat bs

/-- The `n` little-endian bytes of a number. -/
def leBytes : Nat → Nat → List Byte
  | 0, _ => []
  | n + 1, v => BitVec.ofNat 8 v :: leBytes n (v / 256)

/-- The number whose network-order bytes are given (00, R3). -/
def beNat (bs : List Byte) : Nat := bs.foldl (fun a b => 256 * a + b.toNat) 0

/-- The `n` network-order bytes of a number. -/
def beBytes (n v : Nat) : List Byte := (leBytes n v).reverse

/-- `n` bytes from offset `o`. -/
def slice (p : List Byte) (o n : Nat) : List Byte := (p.drop o).take n

/-- The little-endian field of `n` bytes at offset `o`; bytes past the end read as zero. -/
def fld (p : List Byte) (o n : Nat) : Nat := leNat (slice p o n)

/-- The field of `n` bytes at offset `o` is reserved and zero (00, R5). -/
def zeroAt (p : List Byte) (o n : Nat) : Bool := fld p o n == 0

/-- `n` zero bytes. -/
def zeros (n : Nat) : List Byte := List.replicate n 0

/-- Bit `i` of a number. -/
def bit (v i : Nat) : Bool := v / 2 ^ i % 2 == 1

/-- Bits `hi` to `lo` of a number. -/
def bits (v hi lo : Nat) : Nat := v / 2 ^ lo % 2 ^ (hi + 1 - lo)

/-- 1 for true. -/
def b2n (b : Bool) : Nat := if b then 1 else 0

/-- The bytes of 64-bit counters 0 to `n` − 1 in order. -/
def ctrBytes (c : Ctrs) (n : Nat) : List Byte :=
  (List.range n).flatMap fun i => leBytes 8 (SMap.getD c i 0).toNat

/-- The positions of the set bits among the low `n` of a mask. -/
def maskBits (v n : Nat) : List Nat := (List.range n).filter (bit v)

/-- The signed value of the low `w` bits. -/
def signed (w v : Nat) : Int := (BitVec.ofNat w v).toInt

/-- Bytes written into a sparse byte store from an address on. -/
def putBytes (m : SMap Byte) (a : Nat) : List Byte → SMap Byte
  | [] => m
  | b :: bs => putBytes (SMap.set m a b) (a + 1) bs

/-- `n` bytes of a sparse byte store from an address on; unlisted bytes are zero. -/
def getBytes (m : SMap Byte) (a n : Nat) : List Byte := (List.range n).map fun i => SMap.getD m (a + i) 0

/-! ## Package memory -/

/-- The byte at an address of package memory; an unlisted one is zero (03 R69). -/
def memRead (m : List Host.Cell) (a : Nat) : Byte := SMap.getD m a 0

/-- A byte stored; storing zero removes the entry, so that equal memories are equal lists. -/
def memWrite (m : List Host.Cell) (a : Nat) (b : Byte) : List Host.Cell :=
  if b = 0 then SMap.del m a else SMap.set m a b

/-- Bytes stored from an address on. -/
def memWriteBytes (m : List Host.Cell) (a : Nat) : List Byte → List Host.Cell
  | [] => m
  | b :: bs => memWriteBytes (memWrite m a b) (a + 1) bs

/-- `n` bytes from an address on. -/
def memReadBytes (m : List Host.Cell) (a n : Nat) : List Byte := (List.range n).map fun i => memRead m (a + i)

/-- The canonical form of package memory: addresses strictly rising, no zero byte listed. -/
def Memory.wf (m : List Host.Cell) : Bool := SMap.sorted m && m.all fun c => c.2 != 0

/-- The memory without the cells of a window. -/
def memZeroize (m : List Host.Cell) (base size : Nat) : List Host.Cell :=
  m.filter fun c => c.1 < base || base + size ≤ c.1

/-! ## CRCs -/

/-- One bit of a reflected CRC. -/
def crcStep {w : Nat} (poly c : BitVec w) : BitVec w := if c.getLsbD 0 then (c >>> 1) ^^^ poly else c >>> 1

/-- One byte of a reflected 32-bit CRC. -/
def crcByte (poly c : W32) (b : Byte) : W32 := (List.range 8).foldl (fun a _ => crcStep poly a) (c ^^^ b.setWidth 32)

/-- CRC-32 of IEEE 802.3 (the frame check sequence, 11). -/
def crc32 (bs : List Byte) : W32 := ~~~ (bs.foldl (crcByte 0xEDB88320) 0xFFFFFFFF)

/-- CRC-32C (08 R230, 16 R466). -/
def crc32c (bs : List Byte) : W32 := ~~~ (bs.foldl (crcByte 0x82F63B78) 0xFFFFFFFF)

/-- CRC-32C from a given start value, without the final complement (08 R230). -/
def crc32cFrom (seed : W32) (bs : List Byte) : W32 := bs.foldl (crcByte 0x82F63B78) seed

/-- One bit, most significant first, of the training frame's CRC (05 R139). -/
def crc16Bit (c : BitVec 16) (b : Bool) : BitVec 16 :=
  if c.getMsbD 0 ^^ b then (c <<< 1) ^^^ 0x1021 else c <<< 1

/-- The CRC over CONTROL and STATUS of a training frame, most significant bit first (05 R139). -/
def crc16 (v : BitVec 48) : BitVec 16 := (List.range 48).foldl (fun c i => crc16Bit c (v.getMsbD i)) 0xFFFF

/-! ## Times (00 Time) -/

/-- Units of 0.25 ns in a microsecond. -/
def us (n : Nat) : Nat := 4000 * n
/-- Units of 0.25 ns in a millisecond. -/
def ms (n : Nat) : Nat := 4000000 * n
/-- Units of 0.25 ns in a second. -/
def sec (n : Nat) : Nat := 4000000000 * n

end Sys2Proof.Machine
end

