-- ==== Sys2Proof/Machine/Descriptor.lean ====
section
/-! DEFINITION. Work descriptors: their fields (13 R392) and the checks made when one is fetched (13 R395), with the
operand forms of every KIND (13 R394; 16 R476 to R479; 17 R518 to R521; 18 R553). -/
namespace Sys2Proof.Machine

/-- A work descriptor. -/
abbrev Desc := BitVec 256

/-- Bits `hi` to `lo` of a descriptor as a number. -/
def dBits (d : Desc) (hi lo : Nat) : Nat := bits d.toNat hi lo
def dOp (d : Desc) : Nat := dBits d 7 0
def dFirst (d : Desc) : Bool := d.getLsbD 8
def dLast (d : Desc) : Bool := d.getLsbD 9
def dNotify (d : Desc) : Bool := d.getLsbD 10
def dFence (d : Desc) : Bool := d.getLsbD 11
def dRo (d : Desc) : Bool := d.getLsbD 12
def dRoSet (d : Desc) : Bool := d.getLsbD 13
def dLen (d : Desc) : Nat := dBits d 31 16
def dUser (d : Desc) : W32 := BitVec.ofNat 32 (dBits d 63 32)
/-- ADDR of a segment or buffer. -/
def dAddr (d : Desc) : Nat := dBits d 255 192
/-- DIR of a cipher segment: 1 output (17 R520). -/
def dDir (d : Desc) : Bool := d.getLsbD 64
/-- TOTAL of a cipher segment (17 R520). -/
def dTotal (d : Desc) : Nat := dBits d 127 96
/-- CONN of a remote header (16 R477). -/
def dConn (d : Desc) : Nat := dBits d 127 108

/-- The opcode is valid for the KIND (R383). -/
def opcodeValid (kind op : Nat) : Bool :=
  match kind with
  | 0 => op == 0x01 || op == 0x02 || op == 0x10
  | 1 => op == 0x11
  | 2 => op == 0x01 || op == 0x02 || (0x20 ≤ op && op ≤ 0x26)
  | 3 => op == 0x01 || op == 0x02 || (0x40 ≤ op && op ≤ 0x45)
  | _ => op == 0x01 || op == 0x02 || op == 0x50 || op == 0x51

/-- The bits an opcode reserves are zero; `pos` is the descriptor's place in its chain, `susp` the suspendable cipher
class, in which `checkDesc` judges TOTAL (17 R520). -/
def reservedZero (susp : Bool) (pos : Nat) (d : Desc) : Bool :=
  let z (hi lo : Nat) := dBits d hi lo == 0
  z 15 14 && (dFirst d || z 13 10) &&
    match dOp d with
    | 0x01 => z 255 64
    | 0x02 => z 239 224 && z 159 64
    | 0x10 => z 191 65 && (dFirst d || z 64 64)
    | 0x11 => z 191 64
    | 0x20 => if pos = 0 then z 107 65 && (d.getLsbD 64 || z 159 128) else z 191 64
    | 0x21 => if pos = 0 then z 159 128 && z 107 64 else z 191 64
    | 0x22 => if pos = 0 then z 255 160 && z 107 64 else z 191 64
    | 0x23 => if pos = 0 then z 255 128 && z 107 64 else z 191 64
    | 0x24 => if pos = 0 then z 159 128 && z 107 64 else z 127 64
    | 0x25 => if pos = 0 then z 159 128 && z 107 64 else true
    | 0x26 => if pos = 0 then z 159 128 && z 107 64 else if pos = 1 then true else z 127 64
    | 0x40 | 0x41 => if pos = 0 then z 95 64 else z 191 128 && z 95 65 && (susp || z 127 96)
    | 0x42 | 0x43 => if pos = 0 then true else z 191 128 && z 95 65 && (susp || z 127 96)
    | 0x44 => if pos = 0 then z 215 128 && z 79 64 else z 191 128 && z 127 96 && z 95 65
    | 0x45 => if pos = 0 then z 223 128 && z 95 64 else z 191 128 && z 127 96 && z 95 65
    | _ => z 191 64

/-- NOP, COUNTER_WAIT and RX_POST are always single-descriptor jobs (R393). -/
def singleOp (op : Nat) : Bool := op == 0x01 || op == 0x02 || op == 0x11
/-- An atomic chain closes at its one position (16 R476, R479). -/
def atomicLast (op : Nat) : Option Nat :=
  match op with | 0x24 => some 1 | 0x25 => some 1 | 0x26 => some 2 | _ => none

/-- The sum of the lengths of descriptors. -/
def totalLen (ds : List Desc) : Nat := (ds.map dLen).foldl (· + ·) 0
/-- The input and the output segments of a cipher job. -/
def inSegs (ds : List Desc) : List Desc := (ds.drop 1).filter fun d => !dDir d
def outSegs (ds : List Desc) : List Desc := (ds.drop 1).filter dDir

/-- MSG_LEN of a cipher job (17 R519, R521): from the header, or in the suspendable class derived from TOTAL. -/
def cipherLen (susp : Bool) (ds : List Desc) : Nat :=
  let h := ds.headD 0
  let t := dTotal ((inSegs ds).getLastD 0)
  match dOp h with
  | 0x40 => if susp then t - dLen h else dBits h 127 96
  | 0x41 => if susp then t - dLen h - 16 else dBits h 127 96
  | 0x42 | 0x43 => if susp then t else dBits h 91 64
  | _ => dBits h 127 96
/-- The lengths of a cipher chain agree (17 R521). -/
def cipherLenOk (susp : Bool) (ds : List Desc) : Bool :=
  let h := ds.headD 0
  let op := dOp h
  let n := cipherLen susp ds
  let i := totalLen (inSegs ds)
  let o := totalLen (outSegs ds)
  let s := susp && op ≤ 0x43
  let hdr := if op = 0x40 ∨ op = 0x41 then dBits h 127 96 else if op = 0x42 ∨ op = 0x43 then dBits h 91 64 else 0
  let du := 2 ^ dBits h 95 92
  (!s || (hdr == 0 && dTotal ((inSegs ds).getLastD 0) == i && (inSegs ds).dropLast.all fun d => dLen d % 16 == 0)) &&
    match op with
    | 0x40 => i == dLen h + n && n + 16 ≤ o
    | 0x41 => i == dLen h + n + 16 && n ≤ o
    | 0x42 | 0x43 => i == n && n ≤ o && 16 ≤ n && (n % du == 0 || 16 ≤ n % du) && 9 ≤ dBits h 95 92 && dBits h 95 92 ≤ 12
    | 0x44 => i == n && n + dBits h 95 80 + 22 ≤ o && n + 1 + dBits h 95 80 ≤ 16385
    | _ => i == n + 5 && n ≤ o + 17 && 17 ≤ n && n ≤ 16640

/-- LEN lies in the opcode's range, and a chain that closes has lengths its opcode allows. `ds` is the chain with the
descriptor as its last. -/
def lengthOk (susp : Bool) (ds : List Desc) (d : Desc) : Bool :=
  let pos := ds.length - 1
  let closes := dLast d
  match dOp d with
  | 0x01 | 0x02 => dLen d == 0
  | 0x10 => 1 ≤ dLen d && dLen d ≤ 15996 && (!closes || (14 ≤ totalLen ds && totalLen ds ≤ 15996))
  | 0x11 => dLen d % 64 == 0 && 256 ≤ dLen d && dLen d ≤ 16384
  | 0x20 | 0x22 =>
    (if pos = 0 then dLen d == 0 else 1 ≤ dLen d) && totalLen ds ≤ 1048576 &&
      (!closes || totalLen ds != 0 || dOp d == 0x22 || (ds.headD 0).getLsbD 64)
  | 0x21 | 0x23 => (if pos = 0 then dLen d == 0 else 1 ≤ dLen d) && totalLen ds ≤ 1048576 && (!closes || totalLen ds != 0)
  | 0x24 | 0x25 | 0x26 => dLen d == 0
  | 0x40 | 0x41 => (pos == 0 || 1 ≤ dLen d) && (!closes || cipherLenOk susp ds)
  | 0x42 | 0x43 | 0x44 | 0x45 => (if pos = 0 then dLen d == 0 else 1 ≤ dLen d) && (!closes || cipherLenOk susp ds)
  | _ => 1 ≤ dLen d && totalLen ds ≤ 1048576

/-- RESULT_ADDR of an atomic chain (16 R478). -/
def resultAddr (op : Nat) (ds : List Desc) : Nat :=
  let d := ds.getD 1 0
  match op with | 0x24 => dBits d 191 128 | _ => dBits d 127 64
/-- Addresses have the alignment the opcode asks (R395, 16 R478). -/
def alignOk (ds : List Desc) (d : Desc) : Bool :=
  match dOp d with
  | 0x11 => dAddr d % 64 == 0
  | 0x24 | 0x25 | 0x26 =>
    let w := if dOp d = 0x26 then 16 else 8
    if ds.length = 1 then dAddr d % w == 0
    else if ds.length = 2 then resultAddr (dOp d) ds % w == 0 else true
  | _ => true

/-- The check of a fetched descriptor in the order of R395: the REASON of the first failure. `ch` is the open chain. In the
suspendable class TOTAL is reserved in an output segment, and in an input segment that another follows: that is known, and
judged, when the other is fetched (DEDUCED, assumption log 48; 17 R520). -/
def checkDesc (kind : Nat) (susp : Bool) (ch : List Desc) (d : Desc) : Option Nat :=
  let ds := ch ++ [d]
  let op := dOp d
  let susp := susp && kind == 3
  if !opcodeValid kind op then some 1
  else if !reservedZero susp ch.length d || (susp && 0x40 ≤ op && op ≤ 0x43 && !ch.isEmpty &&
      (if dDir d then dTotal d != 0 else (inSegs ch).any fun x => dTotal x != 0)) then some 2
  else if (dFirst d && !ch.isEmpty) || (!dFirst d && ch.isEmpty) || (!ch.isEmpty && op != dOp (ch.headD 0)) ||
      (singleOp op && !(dFirst d && dLast d)) || (atomicLast op).any (fun p => dLast d != (ch.length == p)) then some 3
  else if ch.length = 63 && !dLast d then some 4
  else if !lengthOk susp ds d then some 5
  else if !alignOk ds d then some 6
  else none

/-- The descriptors after the last that closes a chain. -/
def openChain : List Desc → List Desc
  | [] => []
  | d :: ds => if (d :: ds).any dLast then openChain ds else d :: ds

/-- The chain at the head, when it is whole, and what follows it (R401). -/
def takeChain : List Desc → Option (List Desc × List Desc)
  | [] => none
  | d :: ds => if dLast d then some ([d], ds) else (takeChain ds).map fun x => (d :: x.1, x.2)

end Sys2Proof.Machine
end

