-- ==== Sys2Proof/Machine/Flags.lean ====
section
/-! DEFINITION. The codes the device reports: status codes (23 R645), event types (23 R646), log kinds (21 R624). -/
namespace Sys2Proof.Machine.St
def ok : Nat := 0x0000
def inProgress : Nat := 0x0001
def busy : Nat := 0x0010
def denied : Nat := 0x0011
def badAuth : Nat := 0x0012
def replay : Nat := 0x0013
def notPresent : Nat := 0x0014
def badArg : Nat := 0x0015
def notOwner : Nat := 0x0016
def noSpace : Nat := 0x0020
def needRehash : Nat := 0x0021
def notFound : Nat := 0x0022
def exists_ : Nat := 0x0023
def queueError : Nat := 0x0030
def aborted : Nat := 0x0031
def tooLong : Nat := 0x0032
def internal : Nat := 0x00FF
end Sys2Proof.Machine.St

namespace Sys2Proof.Machine.Ev
def configRestored : Nat := 0x0101
def bootSlotFallback : Nat := 0x0102
def mramWear : Nat := 0x0103
def linkUp : Nat := 0x0201
def linkDown : Nat := 0x0202
def linkTrainFail : Nat := 0x0203
def linkDegraded : Nat := 0x0204
def bufferHeadroom : Nat := 0x0220
def cellLeak : Nat := 0x0221
def tableRehash : Nat := 0x0301
def macFlap : Nat := 0x0302
def parseBacklog : Nat := 0x0410
def parseFault : Nat := 0x0411
def classBacklog : Nat := 0x0420
def completion : Nat := 0x0501
def cqStall : Nat := 0x0502
def qpError : Nat := 0x0503
def qpStopped : Nat := 0x0504
def hostLinkUp : Nat := 0x0510
def hostLinkDown : Nat := 0x0511
def hostFlr : Nat := 0x0512
def connError : Nat := 0x0701
def keyRevoked : Nat := 0x0702
def raBacklog : Nat := 0x0703
def keyViolation : Nat := 0x0704
def saSoft : Nat := 0x0801
def saHard : Nat := 0x0802
def saAuthFail : Nat := 0x0803
def clearingLine : Nat := 0x0901
def clearingPower : Nat := 0x0910
def clearingFault : Nat := 0x0911
def clearingZeroizeFail : Nat := 0x0912
def clearingMeter : Nat := 0x0913
def timeState : Nat := 0x0B01
def timeStep : Nat := 0x0B02
def still : Nat := 0x0C01
def chStale : Nat := 0x0C02
def svcFault : Nat := 0x0C03
def avsFault : Nat := 0x0D01
def powerLimit : Nat := 0x0D02
def refclkLoss : Nat := 0x0D03
def thermalWarn : Nat := 0x0D04
def thermalThrottle : Nat := 0x0D05
def planeDown : Nat := 0x0D10
def canopyMode : Nat := 0x0D11
def unitFenced : Nat := 0x0D30
def groveFailed : Nat := 0x0D31
def memUncorrected : Nat := 0x0D32
def wardenTakeover : Nat := 0x0D33
def firebreak : Nat := 0x0E01
def opDone : Nat := 0x0F01
def mbResponse : Nat := 0x0F02
end Sys2Proof.Machine.Ev
end

