-- ==== Sys2Proof/Machine/Ops.lean ====
section
/-! DEFINITION. The named operations the meanings share: which units and functions exist, ownership, counters, logs, the
firing of event sources, the firebreak check, DMA, and the passing of device time. -/
namespace Sys2Proof.Machine

/-- What a command answers. -/
abbrev Res := Host.Outcome State Fault Refusal

/-! ## Which units exist (00 Variants, 22 R637) -/

/-- Groves and host ports present: 8 on TW9-H, 16 otherwise. -/
def State.groves (s : State) : Nat := if s.variant = .h then 8 else 16
/-- Clearings present: none on TW9-N. -/
def State.clearings (s : State) : Nat := if s.variant = .n then 0 else 2 * s.groves
/-- Cipher engines are present: not on TW9-X. -/
def State.hasCipher (s : State) : Bool := s.variant != .x
/-- Ethernet lanes present. -/
def State.lanes (s : State) : Nat := 32 * s.groves
/-- VARIANT of R129. -/
def State.variantCode (s : State) : Nat :=
  match s.variant with | .f => 0 | .n => 1 | .h => 2 | .x => 3
/-- The groves in rising order. -/
def State.groveList (s : State) : List Nat := List.range s.groves
/-- A grove that is present and has failed (21 R616). -/
def State.groveFailed (s : State) (g : Nat) : Bool := s.hl.failedGroves.contains g
/-- A unit is fenced (21 R614). -/
def State.isFenced (s : State) (kind scope unit : Nat) : Bool := s.hl.fenced.contains ⟨kind, scope, unit⟩
/-- The live units of a kind in a scope (01 R18). -/
def State.live (s : State) (kind scope n : Nat) : List Nat :=
  (List.range n).filter fun i => !s.isFenced kind scope i

/-! ## When commands act -/

/-- Slaot, the mailboxes and the full endpoints work: after boot step 7, recovery mode included (03 R71, R75). -/
def State.serving (s : State) : Bool := s.boot.phase == .running || s.boot.phase == .recovery
/-- The active warden core is live: Slaot runs commands (21 R620, R622). -/
def State.slaotUp (s : State) : Bool := if s.hl.active = 0 then s.hl.warden0 else s.hl.warden1
/-- The groves work: after boot, not in recovery mode, a thermal halt or a held reset (02 R57, 03 R75, R77). -/
def State.running (s : State) : Bool := s.boot.phase == .running

/-- A command of a part of the device that works only while the groves are enabled. -/
def whenRunning (s : State) (f : State → State) : Res := .next (if s.running then f s else s)
/-- A command of Slaot or of a host port's full endpoint. -/
def whenServing (s : State) (f : State → State) : Res := .next (if s.serving then f s else s)

/-- What the frequency correction has added to the count by a moment (20 R601): `freq` is in 1/256 ppb. -/
def TimeSt.freqDone (t : TimeSt) (now : Nat) : Int := t.freq * Int.ofNat (now - t.freqStart) / 256000000000
/-- What the slew has added by a moment: at most SLEW_PPM of the time that has passed (20 R602). -/
def TimeSt.slewDone (t : TimeSt) (now : Nat) : Int :=
  let m : Int := Int.ofNat ((now - t.slewStart) * t.slewPpm / 1000000)
  if t.slew < 0 then - min (- t.slew) m else min t.slew m
/-- Device time: the 64-bit count every stamp is read from (20 R594). -/
def State.time (s : State) : Nat :=
  ((Int.ofNat s.now + s.tm.base + s.tm.freqDone s.now + s.tm.slewDone s.now) % 18446744073709551616).toNat

/-- The passing of time to a moment: it never goes back. -/
def State.upTo (s : State) (t : Nat) : State := { s with now := max s.now t }
/-- The device-time count at a later moment, if nothing is set until then (20 R601, R602). -/
def State.countAt (s : State) (n : Nat) : Int := Int.ofNat n + s.tm.base + s.tm.freqDone n + s.tm.slewDone n
/-- The moment the count reaches a value, corrections and slew included: each round takes off what the moment of the last
is still short of it or beyond it. -/
def State.momentOf (s : State) (target : Int) : Nat → Nat → Nat
  | 0, n => n
  | k + 1, n => s.momentOf target k (Int.ofNat n + (target - s.countAt n)).toNat
/-- Device time without its steps: the count on which a duration in device time is measured, so that a step keeps what
remains of it (20 R604). -/
def State.clk (s : State) : Nat := (s.countAt s.now - s.tm.stepped).toNat
/-- The passing of time until a count of `State.clk`. -/
def State.upToClk (s : State) (t : Nat) : State :=
  if t ≤ s.clk then s else s.upTo (s.momentOf (Int.ofNat t + s.tm.stepped) 6 s.now)

/-- The passing of time until device time reads a value. -/
def State.upToTime (s : State) (t : Nat) : State := if t ≤ s.time then s else s.upTo (s.momentOf (Int.ofNat t) 6 s.now)

/-- One more output. -/
def State.emit (s : State) (o : Out) : State := { s with out := s.out ++ [o] }

/-- The counter of free values advanced by `n`. -/
def State.drawn (s : State) (n : Nat) : State := { s with free := s.free + n }

/-- A free value of width `w`, and the state with the counter of free values advanced (assumption log 1). -/
def State.fresh (s : State) (w : Nat) : BitVec w × State := (Config.freeValue w s.free, s.drawn 1)

/-! ## Functions and masters (04 R115, 01 R27, 12 R353) -/

/-- The operator principal. -/
def operator : Nat := 0xFFFF
/-- PF0, PF1, PF2 of a host port. -/
def pf0 (p : Nat) : Nat := 0x1000 * p
def pf1 (p : Nat) : Nat := 0x1000 * p + 1
def pf2 (p : Nat) : Nat := 0x1000 * p + 2
/-- VF `v` of a host port. -/
def vf (p v : Nat) : Nat := 0x1000 * p + 0x100 + v
/-- The host port of a function. -/
def fnPort (f : Nat) : Nat := f / 0x1000
/-- The number of a function within its port. -/
def fnLocal (f : Nat) : Nat := f % 0x1000
/-- The VF number of a VF's function ID. -/
def vfOf (f : Nat) : Option Nat := if 0x100 ≤ fnLocal f ∧ fnLocal f < 0x500 then some (fnLocal f - 0x100) else none
/-- The PF whose SR-IOV capability holds a function: PF0 for VF 0 to 511, PF1 for the rest; a PF is its own. -/
def parentPf (f : Nat) : Nat :=
  match vfOf f with
  | some v => if v < 512 then pf0 (fnPort f) else pf1 (fnPort f)
  | none => f

/-- The state of a function. -/
def State.fn (s : State) (f : Nat) : FnSt := SMap.getD s.hp.fns f {}
/-- The state with a function's state replaced. -/
def State.setFn (s : State) (f : Nat) (v : FnSt) : State := { s with hp := { s.hp with fns := SMap.set s.hp.fns f v } }
/-- A host port. -/
def State.port (s : State) (p : Nat) : HostPort := SMap.getD s.hp.ports p {}
/-- The state with a host port replaced. -/
def State.setPort (s : State) (p : Nat) (v : HostPort) : State :=
  { s with hp := { s.hp with ports := SMap.set s.hp.ports p v } }
/-- Counter `i` of R382 raised on a host port. -/
def State.hostCtr (s : State) (p i : Nat) : State := s.setPort p { s.port p with ctrs := (s.port p).ctrs.inc i }

/-- A function of a present host port that exists: a PF, or a VF below NumVFs while VF Enable is 1 (12 R354, R355). -/
def State.fnPresent (s : State) (f : Nat) : Bool :=
  fnPort f < s.groves &&
    match vfOf f with
    | none => fnLocal f ≤ 2
    | some v => (s.fn (parentPf f)).vfEnable && v % 512 < (s.fn (parentPf f)).numVFs

/-- The function index of a function (01 R27, R28). -/
def State.fnIndex (s : State) (f : Nat) : Nat :=
  match vfOf f with
  | some v => SMap.getD s.cfg.fnMap (1024 * fnPort f + v) 0xFF
  | none => fnLocal f
/-- The master ID of a function's requests. -/
def State.master (s : State) (f : Nat) : BitVec 16 := BitVec.ofNat 16 (256 * fnPort f + s.fnIndex f)

/-! ## Ownership (04 R115, R117; 03 R85) -/

/-- The owner of an object at factory defaults. -/
def defaultOwner (kind i : Nat) : Nat :=
  if kind = 2 then pf2 (i / 4096) else if kind = 3 then pf2 (i / 256) else if kind = 4 then operator else pf2 0
/-- The owner of object `i` of a KIND. -/
def State.owner (s : State) (kind i : Nat) : Nat := SMap.getD s.cfg.owners (0x1000000 * kind + i) (defaultOwner kind i)
/-- The state with an object's owner replaced. -/
def State.setOwner (s : State) (kind i f : Nat) : State :=
  { s with cfg := { s.cfg with owners := SMap.set s.cfg.owners (0x1000000 * kind + i) f } }
/-- The ownership gate (R115). -/
def State.owns (s : State) (f kind i : Nat) : Bool := f == operator || s.owner kind i == f
/-- The gate of 06 R182: all 32 port objects of a grove. -/
def State.ownsGrove (s : State) (f g : Nat) : Bool := (List.range 32).all fun i => s.owns f 1 (32 * g + i)
/-- A PF2 of any host port, or the operator principal. -/
def State.anyPf2 (s : State) (f : Nat) : Bool := f == operator || (fnLocal f == 2 && fnPort f < s.groves)

/-! ## Location words and the error log (01 R14, 21 R623) -/

/-- The location word of its fields. -/
def locWord (l : LocWord) : W64 :=
  BitVec.ofNat 64 (l.level * 2 ^ 61 + l.stand * 2 ^ 56 + l.grove * 2 ^ 52 + l.kind * 2 ^ 40 + l.unit * 2 ^ 24 + l.leaf)
/-- A unit kind that is counted per grove (01 R15). -/
def groveKind (k : Nat) : Bool := k < 0x10
/-- The location of a grove-scope unit. -/
def locUnit (g kind unit : Nat) : LocWord := ⟨2, g / 4, g, kind, unit, 0⟩
/-- The location of a leaf of a grove-scope unit. -/
def locLeaf (g kind unit leaf : Nat) : LocWord := ⟨1, g / 4, g, kind, unit, leaf⟩
/-- The location of a device-scope unit. -/
def locDev (kind unit : Nat) : LocWord := ⟨2, 0, 0, kind, unit, 0⟩
/-- The location of a stand-scope unit. -/
def locStand (stand kind unit : Nat) : LocWord := ⟨2, stand, 0, kind, unit, 0⟩

/-- Whether a log record folds an occurrence: same KIND and LOCATION within its window of 1 s. -/
def LogRec.folds (r : LogRec) (loc : W64) (kind now : Nat) : Bool :=
  r.kind == kind && r.location == loc && r.start ≤ now && now < r.start + sec 1
/-- The records with the occurrence folded into the first that takes it. -/
def foldLog (loc : W64) (kind now : Nat) : List LogRec → Option (List LogRec)
  | [] => none
  | r :: rs =>
    if r.folds loc kind now then some ({ r with count := min (r.count + 1) 0xFFFFFFFF } :: rs)
    else (foldLog loc kind now rs).map (r :: ·)
/-- A fault written to the error log (R623). -/
def State.log (s : State) (l : LocWord) (kind severity : Nat) (detail : W32) : State :=
  match foldLog (locWord l) kind s.now s.ret.logBuf with
  | some b => { s with ret := { s.ret with logBuf := b } }
  | none =>
    match foldLog (locWord l) kind s.now s.nv.logRing with
    | some b => { s with nv := { s.nv with logRing := b } }
    | none =>
      { s with ret := { s.ret with
          logBuf := s.ret.logBuf ++ [⟨s.time, s.now, (locWord l), kind, severity, 1, detail, s.ret.logSeq⟩]
          logSeq := s.ret.logSeq + 1 } }

/-! ## Events (14 R413 to R415) -/

/-- A function sends on its host link, which leaves L1 for it (12 R378, R379). -/
def State.hostSend (s : State) (f : Nat) (o : Out) : State :=
  (s.setPort (fnPort f) { s.port (fnPort f) with l1 := false, lastTraffic := s.clk }).emit o
/-- A PM_PME of a function in D3hot with PME_En (12 R374): PME_Status sets and the message is sent. -/
def State.pmeCause (s : State) (f : Nat) : State :=
  let st := s.fn f
  if st.d3hot && st.pmeEn && !st.pmeStatus then
    ((s.setFn f { st with pmeStatus := true, pmeLast := s.clk }).hostSend f (.pme f)).hostCtr (fnPort f) 15
  else s

/-- The route of a source (R424): at factory defaults STATIC. -/
def State.route (s : State) (src : Nat) : Route :=
  SMap.getD s.cfg.routes src
    ⟨false, if src < 65536 then 256 * (src / 4096) + src % 256 else 256 * ((src - 65536) / 256)⟩
/-- The event queues a source's route can name. -/
def State.routeQueues (s : State) (src : Nat) : List Nat :=
  let r := s.route src
  if r.spread then (SMap.getD s.cfg.evGroups r.target ⟨[]⟩).members else [r.target]
/-- The owner of a source (R413). -/
def State.srcOwner (s : State) (src : Nat) : Nat :=
  if src < 65536 then s.owner 2 src else pf2 ((src - 65536) / 256)

/-- The held types with one more firing: a held type is replaced and counted, a new one joins behind (R415). -/
def foldHeld (type : Nat) (data : W32) (now : Nat) : List HeldEv → List HeldEv
  | [] => [⟨type, data, now, 1⟩]
  | h :: hs => if h.type = type then ⟨type, data, now, h.count + 1⟩ :: hs else h :: foldHeld type data now hs
/-- An event source. -/
def State.src (s : State) (i : Nat) : EvSrc := SMap.getD s.ev.srcs i {}
/-- The state with a source replaced. -/
def State.setSrc (s : State) (i : Nat) (v : EvSrc) : State := { s with ev := { s.ev with srcs := SMap.set s.ev.srcs i v } }
/-- An event source fires (R414, R415); a source held for a suspended queue of a D3hot function causes a PME (R429). -/
def State.fire (s : State) (src type : Nat) (data : W32) : State :=
  let e := s.src src
  let s := s.setSrc src { e with held := foldHeld type data s.time e.held }
  if (s.routeQueues src).any fun q => s.owner 3 q == s.srcOwner src then s.pmeCause (s.srcOwner src) else s
/-- Device source `k` of block `p` fires. -/
def State.fireDev (s : State) (p k type : Nat) (data : W32) : State := s.fire (65536 + 256 * p + k) type data
/-- A device-wide source fires in every present block (R430). -/
def State.fireAll (s : State) (k type : Nat) (data : W32) : State :=
  s.groveList.foldl (fun s p => s.fireDev p k type data) s

/-! ## Firebreaks (19 R572 to R579) -/

/-- The entry that no command changes (R574). -/
def fbFixed : FbEntry := ⟨true, 0xF000, 0xFFFF, 0, 2 ^ 64 - 1, true, true, true, true, false⟩
/-- Entry 0 of the blocks of host port 0 at factory defaults (03 R85). -/
def fbFactory : FbEntry := ⟨true, 0x0002, 0xFFFF, 0, 2 ^ 64 - 1, true, true, false, false, false⟩
/-- The entry of package memory that admits the cipher engines to the key entries (R577); its window is Slaot's part
(assumption log 49). -/
def fbCipher : FbEntry := ⟨true, 0x4000, 0xF000, 0x2C00000000, 0x3000000000, true, true, false, false, true⟩
/-- An entry of the firebreak of a target block. -/
def State.fbEntry (s : State) (target e : Nat) : FbEntry :=
  if e = 63 then fbFixed
  else if e = 62 ∧ target = 0x2000 ∧ s.hasCipher = true then fbCipher
  else SMap.getD s.cfg.firebreaks (64 * target + e)
    (if e = 0 ∧ target % 256 = 0 ∧ 1 ≤ target / 256 ∧ target / 256 ≤ 6 then fbFactory else {})
/-- The right of an access (R576): 1 R, 2 W, 3 A, 4 X. -/
def FbEntry.grants (e : FbEntry) (right : Nat) : Bool :=
  match right with | 1 => e.r | 2 => e.w | 3 => e.a | 4 => e.x | _ => false
/-- One entry allows a request (R575). -/
def FbEntry.allows (e : FbEntry) (master : BitVec 16) (right addr len : Nat) : Bool :=
  e.valid && (master &&& e.mask) == e.master && e.grants right && e.base ≤ addr && addr < e.limit &&
    len ≤ e.limit - addr
/-- A request passes the firebreak of its target block (R575). -/
def State.fbAllowed (s : State) (target : Nat) (master : BitVec 16) (right addr len : Nat) : Bool :=
  (List.range 64).any fun e => (s.fbEntry target e).allows master right addr len
/-- A denial: a record of the violation log and EV_FIREBREAK (R579). -/
def State.fbDeny (s : State) (target : Nat) (master : BitVec 16) (right addr len : Nat) : State :=
  let full := s.sec.violations.length == 4096
  let v : Violation := ⟨s.time, addr, master, target, right, min len 0xFFFF, s.sec.vSeq⟩
  let s := { s with sec := { s.sec with
    violations := (if full then s.sec.violations.drop 1 else s.sec.violations) ++ [v]
    vSeq := s.sec.vSeq + 1
    overwrites := s.sec.overwrites + b2n full } }
  let data := BitVec.ofNat 32 (master.toNat * 65536 + target)
  let inst := target % 256
  if target / 256 = 0x20 then s.fireAll 246 Ev.firebreak data
  else s.fireDev (if target / 256 = 7 then inst / 2 else inst) 11 Ev.firebreak data
/-- The check of a request with its denial: the state, and whether it passes. -/
def State.fbCheck (s : State) (target : Nat) (master : BitVec 16) (right addr len : Nat) : State × Bool :=
  if s.fbAllowed target master right addr len then (s, true) else (s.fbDeny target master right addr len, false)
/-- Package memory as a target block. -/
def packageBlock : Nat := 0x2000

/-! ## Package memory as its users reach it (21 R610, R614) -/

/-- A 4 KiB unit lies on a stack or a pseudo-channel that is lost. -/
def State.unitLost (s : State) (u : Nat) : Bool :=
  let c := Config.hbmPlace u % 256
  s.hl.fenced.any (fun f => f.kind == 0x21 && f.unit == c / 64) ||
    s.hl.retired.any fun l => l.kind == 0x21 && l.unit == c / 64 && l.leaf == c % 64
/-- A read of some bytes reports POISONED. -/
def State.memBad (s : State) (a len : Nat) : Bool :=
  s.hl.poison.any (fun w => a < 8 * w + 8 && 8 * w < a + len) ||
    (List.range ((a + len - 1) / 4096 + 1 - a / 4096)).any fun i => s.unitLost (a / 4096 + i)
/-- Bytes stored, those of lost units discarded; a word written whole is poisoned no more. -/
def State.memPut (s : State) (a : Nat) (b : List Byte) : State :=
  let lost := (List.range ((a + b.length - 1) / 4096 + 1 - a / 4096)).any fun i => s.unitLost (a / 4096 + i)
  let mem := if lost then
      ((List.range b.length).zip b).foldl (fun m x => if s.unitLost ((a + x.1) / 4096) then m else memWrite m (a + x.1) x.2) s.mem
    else memWriteBytes s.mem a b
  { s with
    mem := mem
    hl := { s.hl with poison := s.hl.poison.filter fun w => !(a ≤ 8 * w && 8 * w + 8 ≤ a + b.length) } }
/-- A window written with zeros. -/
def State.zeroize (s : State) (base size : Nat) : State :=
  { s with
    mem := memZeroize s.mem base size
    hl := { s.hl with poison := s.hl.poison.filter fun w => 8 * w < base || base + size ≤ 8 * w } }

/-! ## DMA (12 R363 to R366) -/

/-- A function may issue requests now: Bus Master Enable, the link and the port are up (R366, R370). -/
def State.canDma (s : State) (f : Nat) : Bool :=
  (s.fn f).busMaster && !(s.fn f).flrActive && (s.port (fnPort f)).up && !(s.port (fnPort f)).l23 && !s.board.dmaStopped

/-- The pieces of an access: none crosses a 4 KiB boundary or is longer than `mx` (R363). -/
def pieces (fuel addr len mx : Nat) : List (Nat × Nat) :=
  match fuel with
  | 0 => []
  | fuel + 1 =>
    if len = 0 then []
    else
      let n := min len (min mx (4096 - addr % 4096))
      (addr, n) :: pieces fuel (addr + n) (len - n) mx
/-- The pieces of an access of `len` bytes. -/
def splitAccess (addr len mx : Nat) : List (Nat × Nat) := pieces (len / (max mx 1) + len / 4096 + 2) addr len (max mx 1)

/-- Whether the settings of a queue pair carry a PASID (13 R384). -/
def QpSet.pasidEn (x : QpSet) : Bool := x.flags.getLsbD 1
/-- The PASID its requests carry. -/
def Qp.pasidOpt (x : Qp) : Option Nat := if x.set.pasidEn then some x.set.pasid else none
/-- The PASID a request carries, by what it is for (R365). -/
def State.pasidOf (s : State) : Purpose → Option Nat
  | .fetch q | .payload q _ _ => (SMap.getD s.qp.qps q {}).pasidOpt
  | .write _ p | .read _ p => p
  | .translate p _ _ => s.pasidOf p
  | .direct | .discard => none

/-- The address carried on the link: with ATS Enable 0 the address itself, else its cached translation in the PASID's
address space (R365). -/
def State.translate (s : State) (f : Nat) (pasid : Option Nat) (addr : Nat) : Option Nat :=
  if (s.fn f).atsEn then
    (s.hp.cache.find? fun c => c.fn == f && c.pasid == pasid && c.page == addr / 4096).map fun c => c.addr + addr % 4096
  else some addr

/-- The least tag of a port neither in use nor in quarantine (R363). -/
def State.freeTag (s : State) (p : Nat) : Option Nat :=
  let used := (s.hp.tags.filter (·.port == p)).map (·.tag) ++
    (s.hp.quarantine.filter (·.1 == p)).map (·.2.1)
  if used.length < 8192 then (List.range (used.length + 1)).find? fun t => !used.contains t else none

/-- CPL_TIMEOUT of a function in device time: a VF uses its PF's value (R367). -/
def State.cplTimeoutOf (s : State) (f : Nat) : Nat := us (10 * (s.fn (parentPf f)).cplTimeout)

/-- A request is issued with a tag, or waits for one (R363). -/
def State.issueTag (s : State) (f : Nat) (p : Purpose) (addr len : Nat) (o : Nat → Out) : State :=
  let port := fnPort f
  match s.freeTag port with
  | some t =>
    ({ s with hp := { s.hp with tags := s.hp.tags ++ [TagUse.mk port t f p s.clk (s.cplTimeoutOf f) addr len] } }).hostSend f (o t)
  | none => ({ s with hp := { s.hp with waiting := s.hp.waiting ++ [TagWait.mk port f p addr len] } }).hostCtr port 8

/-- A Translation Request for a page, unless one of the function for it is outstanding (R365). -/
def State.askTranslation (s : State) (f : Nat) (p : Purpose) (addr len : Nat) : State :=
  if s.hp.tags.any fun t => t.fn == f && t.purpose == .translate p addr len then s
  else s.issueTag f (.translate p addr len) addr len fun t => .translate (fnPort f) t f (addr / 4096 * 4096) (s.pasidOf p)

/-- Master ID of the cipher engines of a grove (01 R25). -/
def cipherMaster (g : Nat) : BitVec 16 := BitVec.ofNat 16 (0x4000 + g)
/-- The master ID of a request of a function: a cipher engine makes the payload accesses of a KIND CIPHER queue pair, the
owner's ID goes with every other (R363; 17 R505; 19 R576). -/
def State.masterFor (s : State) (f : Nat) : Purpose → BitVec 16
  | .payload q _ _ => if (SMap.getD s.qp.qps q {}).set.kind = 3 then cipherMaster (q / 4096) else s.master f
  | _ => s.master f
/-- A read request of a function, after the translation of its address; false when the firebreak of the port's host
memory denies it (19 R578). -/
def State.issueRead (s : State) (f : Nat) (p : Purpose) (addr len : Nat) : State × Bool :=
  match s.translate f (s.pasidOf p) addr with
  | some a =>
    let (s, pass) := s.fbCheck (0x0600 + fnPort f) (s.masterFor f p) 1 a len
    (if pass then s.issueTag f p addr len fun t => .hostRead (fnPort f) t f a (s.pasidOf p) len else s, pass)
  | none => (s.askTranslation f p addr len, true)

/-- The translation of a page was refused, which the access that waited for it sees once. -/
def State.seeRefusal (s : State) (f : Nat) (pasid : Option Nat) (addr : Nat) : Option State :=
  if s.hp.refused.contains (f, pasid, addr / 4096) then
    some { s with hp := { s.hp with refused := s.hp.refused.filter (· != (f, pasid, addr / 4096)) } }
  else none

/-- How a DMA write ended. -/
inductive Dma where
  /-- Every byte was written. -/
  | ok
  /-- The firebreak of the port's host memory refused a request (19 R578). -/
  | denied
  /-- A translation is still to come (R365). -/
  | waits
  /-- A translation was refused (R365). -/
  | refused
  deriving DecidableEq, Repr

/-- The requests of a write under master ID `m` in order, up to the first that the firebreak denies. -/
def State.writePieces (s : State) (m : BitVec 16) (f : Nat) (pasid : Option Nat) (ro : Bool) :
    List (Nat × List Byte) → State × Dma
  | [] => (s, .ok)
  | (a, bs) :: rest =>
    match s.translate f pasid a with
    | none => (s, .waits)
    | some ta =>
      let (s, pass) := s.fbCheck (0x0600 + fnPort f) m 2 ta bs.length
      if pass then (s.hostSend f (.hostWrite f ta pasid ro bs)).writePieces m f pasid ro rest else (s, .denied)

/-- Writes into the host memory of a function under master ID `m`, in order: split under R363, translated, and each request
checked by the host-memory firebreak of the port. None begins before every page is translated. -/
def State.dmaWritesBy (s : State) (m : BitVec 16) (f : Nat) (pasid : Option Nat) (ro : Bool) (l : List (Nat × List Byte)) :
    State × Dma :=
  let ps := l.flatMap fun w => (splitAccess w.1 w.2.length (s.fn f).mps).map fun x => (x.1, slice w.2 (x.1 - w.1) x.2)
  match ps.find? fun x => (s.translate f pasid x.1).isNone with
  | some x =>
    match s.seeRefusal f pasid x.1 with
    | some s => (s, .refused)
    | none => (s.askTranslation f (.write f pasid) x.1 x.2.length, .waits)
  | none => s.writePieces m f pasid (ro && (s.fn f).relaxedEn) ps
/-- DMA writes of a function under its own master ID. -/
def State.dmaWrites (s : State) (f : Nat) (pasid : Option Nat) (ro : Bool) (l : List (Nat × List Byte)) : State × Dma :=
  s.dmaWritesBy (s.master f) f pasid ro l
/-- One DMA write. -/
def State.dmaWrite (s : State) (f addr : Nat) (pasid : Option Nat) (ro : Bool) (bs : List Byte) : State × Dma :=
  s.dmaWrites f pasid ro [(addr, bs)]

/-! ## Port layout (05 R131 to R133) -/

/-- Mode and layout of a lane group. -/
def State.group (s : State) (m : Nat) : GroupCfg := SMap.getD s.cfg.groups m {}
/-- The widths of the ports of a layout by start index: a port extends to the next start or to the end (R132). -/
def portWidth (mask i : Nat) : Nat :=
  ((List.range 8).find? fun d => 1 ≤ d && (i + d ≥ 8 || bit mask (i + d))).getD 8
/-- The lane begins a port of the current layout (R133). -/
def State.isPort (s : State) (n : Nat) : Bool := n < s.lanes && bit (s.group (n / 8)).mask (n % 8)
/-- Lanes of a port. -/
def State.width (s : State) (n : Nat) : Nat := min (portWidth (s.group (n / 8)).mask (n % 8)) (8 - n % 8)
/-- Speed of a port in Gbit/s (R132). -/
def State.speedGbps (s : State) (n : Nat) : Nat := s.width n * if (s.group (n / 8)).mode = 0 then 400 else 200

/-! ## Clearings (18) -/

/-- A clearing. -/
def State.clearing (s : State) (c : Nat) : Cl := SMap.getD s.clr c {}
/-- The state with a clearing replaced. -/
def State.setCl (s : State) (c : Nat) (x : Cl) : State := { s with clr := SMap.set s.clr c x }
/-- A counter of 18 R571 raised. -/
def State.clCtr (s : State) (c i n : Nat) : State := s.setCl c { s.clearing c with ctrs := (s.clearing c).ctrs.add i n }

/-! ## Measurement (19 R590) -/

/-- Measurement register `i` extended with a digest. -/
def State.extend (s : State) (i : Nat) (d : List Byte) : State :=
  let m := SMap.getD s.sec.measure i 0
  { s with sec := { s.sec with measure := SMap.set s.sec.measure i (Config.shake256 (leBytes 64 m.toNat ++ d)) } }

end Sys2Proof.Machine
end

