-- ==== Sys2Proof/Machine/Command.lean ====
section
/-! DEFINITION. What every Slaot command has in common (04): the request and response formats, the acceptance checks,
the arbiter, responses, and long operations. -/
namespace Sys2Proof.Machine

/-! ## Opcodes (23 R641) -/

/-- The opcodes of interface version 1.0 with their critical flag; every other value exists at no version. -/
def opcodeRanges : List (Nat × Nat × Bool) :=
  [(0x0101, 0x0102, false), (0x0103, 0x0105, true), (0x0106, 0x0106, false), (0x0107, 0x0107, true),
   (0x0201, 0x0207, false), (0x0208, 0x0208, true), (0x0209, 0x0209, false), (0x020A, 0x020A, true),
   (0x020B, 0x020B, false), (0x0301, 0x0308, false), (0x0309, 0x030A, true), (0x030B, 0x030C, false),
   (0x0401, 0x0403, true), (0x0404, 0x040A, false), (0x0410, 0x0413, true), (0x0501, 0x0504, false),
   (0x0530, 0x0530, true), (0x0531, 0x0532, false), (0x0601, 0x0608, false), (0x0701, 0x0706, false),
   (0x0707, 0x0707, true), (0x0708, 0x0708, false), (0x0801, 0x0801, true), (0x0802, 0x0803, false),
   (0x0804, 0x0804, true), (0x0805, 0x0807, false), (0x0808, 0x0808, true), (0x0809, 0x0809, false),
   (0x0901, 0x0905, true), (0x0906, 0x090A, false), (0x090B, 0x090B, true), (0x090C, 0x090D, false),
   (0x0A01, 0x0A06, true), (0x0A07, 0x0A0A, false), (0x0B01, 0x0B02, true), (0x0B03, 0x0B04, false),
   (0x0C01, 0x0C02, true), (0x0C03, 0x0C04, false), (0x0C05, 0x0C06, true), (0x0C07, 0x0C07, false),
   (0x0C08, 0x0C08, true), (0x0C09, 0x0C09, false), (0x0D01, 0x0D02, false), (0x0D20, 0x0D20, false),
   (0x0D21, 0x0D21, true), (0x0E01, 0x0E01, true), (0x0E02, 0x0E02, false), (0x0E03, 0x0E03, true),
   (0x0E04, 0x0E05, false), (0x0F01, 0x0F02, false)]
/-- Whether an opcode exists, and whether it is critical. -/
def opcodeInfo (op : Nat) : Option Bool :=
  (opcodeRanges.find? fun r => r.1 ≤ op && op ≤ r.2.1).map (·.2.2)
/-- The interface version the running Slaot implements (22, 03 R88). -/
def ifaceVersion : Nat := 0x0100

/-! ## Requests (04 R99, R101, R103, R104) -/

/-- `n` rounded up to a multiple of 8. -/
def pad8 (n : Nat) : Nat := (n + 7) / 8 * 8
/-- The length a header gives: header and payload, with padding and trailer when AUTH is 1 (R101). -/
def messageLength (len : Nat) (auth : Bool) : Nat := if auth then 32 + pad8 len + 48 else 32 + len
/-- A request as it lies in memory or in a message; `whole` is the length of the message that carried it. -/
def readRequest (via : Via) (mb : Nat) (b : List Byte) (whole : Option Nat) : Request :=
  let len := fld b 4 2
  let flags := fld b 2 2
  let auth := bit flags 0
  let tr := 32 + pad8 len
  { via := via, mb := mb, opcode := fld b 0 2, auth := auth, actAs := bit flags 1, doneEvent := bit flags 2
    length := len, acting := fld b 6 2, hostTag := fld b 8 4, counter := fld b 16 8
    payload := slice b 32 len, header := slice b 0 32
    tag := BitVec.ofNat 256 (fld b (tr + 8) 32), counterCopy := fld b tr 8
    wellFormed := len ≤ 4016 && whole.all (· == messageLength len auth) && bits flags 15 3 == 0 &&
      zeroAt b 12 4 && zeroAt b 24 8 && (bit flags 1 || fld b 6 2 == 0) &&
      (!auth || (zeroAt b (32 + len) (pad8 len - len) && zeroAt b (tr + 40) 8)) }

/-- The acting function of a request (R94, R103). -/
def Request.actor (r : Request) : Nat := if r.actAs then r.acting else if r.mb < 16 then pf2 r.mb else operator

/-- The ASCII customisation strings of R104 and R106. -/
def kmacReq : List Byte := [0x53, 0x4C, 0x41, 0x4F, 0x54, 0x2D, 0x52, 0x45, 0x51]
def kmacRsp : List Byte := [0x53, 0x4C, 0x41, 0x4F, 0x54, 0x2D, 0x52, 0x53, 0x50]
/-- TAG verifies and COUNTER_COPY equals COUNTER (R107 step 2 (c)). -/
def Request.verifies (r : Request) (key : BitVec 256) : Bool :=
  r.counterCopy == r.counter && r.tag == Config.kmac256 key kmacReq (r.header ++ r.payload)

/-! ## Responses (04 R105, R106) -/

/-- What a command answers. -/
structure Reply where
  status : Nat
  payload : List Byte := []
  handle : Nat := 0
  deriving DecidableEq, Repr

/-- The response bytes. -/
def responseBytes (r : Request) (a : Reply) : List Byte :=
  let h := leBytes 2 r.opcode ++ leBytes 2 a.status ++ leBytes 2 a.payload.length ++ zeros 2 ++
    leBytes 4 r.hostTag ++ leBytes 4 a.handle ++ leBytes 8 r.seq ++ leBytes 8 r.counter
  let body := h ++ a.payload
  match r.key with
  | none => body
  | some k => body ++ zeros (pad8 a.payload.length - a.payload.length) ++ leBytes 8 r.counter ++
      leBytes 32 (Config.kmac256 k kmacRsp body).toNat ++ zeros 8

/-- A mailbox. -/
def State.mbx (s : State) (p : Nat) : Mbx := SMap.getD s.sl.mbx p {}
/-- The state with a mailbox replaced. -/
def State.setMbx (s : State) (p : Nat) (m : Mbx) : State := { s with sl := { s.sl with mbx := SMap.set s.sl.mbx p m } }
/-- What a mailbox has accepted. -/
def State.counterOf (s : State) (m : Nat) : CounterSt := SMap.getD s.ret.counters m {}
/-- The state with a mailbox's accepted-counter state replaced. -/
def State.setCounter (s : State) (m : Nat) (c : CounterSt) : State :=
  { s with ret := { s.ret with counters := SMap.set s.ret.counters m c } }

/-- The cycle of the warden's clock a moment lies in: 1.2 GHz (01 Clock islands). -/
def wardenCycle (now : Nat) : Nat := 3 * now / 10
/-- The first moment after a cycle. -/
def cycleEnd (c : Nat) : Nat := (10 * (c + 1) + 2) / 3
/-- A request takes its place: behind those of earlier cycles, and in its own cycle by ascending mailbox (R119). -/
def placeRequest (r : Request) : List Request → List Request
  | [] => [r]
  | x :: xs => if x.cycle < r.cycle ∨ (x.cycle = r.cycle ∧ x.mb ≤ r.mb) then x :: placeRequest r xs else r :: x :: xs
/-- A request is delivered to the command arbiter (R119, R120). -/
def State.deliver (s : State) (r : Request) : State :=
  { s with sl := { s.sl with arb := placeRequest { r with cycle := wardenCycle s.now } s.sl.arb } }

/-- The response goes back the way the request came; on a PF2 mailbox it clears BUSY in the write that sets RESP_VALID
(R97), and on the in-band channel the next queued request is delivered (R102). -/
def State.sendResponse (s : State) (r : Request) (bs : List Byte) : State :=
  match r.via with
  | .mailbox p =>
    let m := s.mbx p
    let s := s.setMbx p { m with resp := bs, respValid := true, busy := false }
    if m.respEvent then s.fireDev p 0 Ev.mbResponse (BitVec.ofNat 32 p) else s
  | .oob bus eid mtag => { s with sl := { s.sl with oobBusy := false } }.emit (.oob bus eid mtag bs)
  | .inband port addr udp =>
    let s := s.emit (.udp port addr udp bs)
    match s.sl.inband with
    | [] => { s with sl := { s.sl with inbandBusy := false } }
    | q :: qs => { s with sl := { s.sl with inband := qs } }.deliver q
  | .nowhere => s

/-- GLOBAL_SEQ for a delivered request; a copy goes to MRAM at every 2^20th number (R120). -/
def State.nextSeq (s : State) : State :=
  let n := s.ret.seq + 1
  let s := { s with ret := { s.ret with seq := n } }
  if n % 2 ^ 20 = 0 then { s with nv := { s.nv with seqCopy := n } } else s


/-- The payload of a REPLAY response (R110). -/
def replayPayload (c : CounterSt) : List Byte :=
  leBytes 8 (if 2 ^ 64 - 1 ≤ c.last then 0 else c.last + 1) ++ leBytes 8 c.lastSeq ++ leBytes 2 c.lastOpcode ++
    leBytes 2 c.lastStatus ++ leBytes 4 c.lastHandle

/-- A counter is accepted, with the floor writes of R111. -/
def State.acceptCounter (s : State) (m counter : Nat) : State :=
  let c := s.counterOf m
  let floor := SMap.getD s.nv.counterFloors m 0
  let setFloor (s : State) := { s with nv := { s.nv with counterFloors := SMap.set s.nv.counterFloors m counter } }
  if floor + 1024 < counter then (setFloor s).setCounter m { c with last := counter, sinceFloor := 1 }
  else if c.sinceFloor + 1 = 1024 then (setFloor s).setCounter m { c with last := counter, sinceFloor := 0 }
  else s.setCounter m { c with last := counter, sinceFloor := c.sinceFloor + 1 }

/-- Functions a mailbox may act as (R116). -/
def State.mayAct (s : State) (r : Request) : Bool :=
  if r.mb < 16 then fnPort r.actor == r.mb && s.fnPresent r.actor
  else r.actor == operator || s.fnPresent r.actor

/-- What recovery mode serves (03 R75). -/
def recoveryAllows (r : Request) : Bool :=
  r.mb ≤ 16 && (r.opcode == 0x0102 || (r.opcode == 0x0105 && fld r.payload 0 1 == 0) || r.opcode == 0x0D02 || r.opcode == 0x0104)

/-- The outcome of the checks of R107 that every command shares: steps 0 to 3, then the opcode, pin, recovery and
acting-function checks of step 4. A status, or none when the command's own checks are to run; and whether the counter
has been accepted. -/
inductive Gate where
  | fails (status : Nat)
  | replay
  | failsAccepted (status : Nat)
  | passes
  deriving DecidableEq, Repr

/-- Steps 0 to 4 of R107 but for the payload. -/
def State.gate (s : State) (r : Request) : Gate :=
  let crit := (opcodeInfo r.opcode).getD false
  let needKey := crit || r.mb == 17 || r.auth
  let key := SMap.get s.nv.cmdKeys r.mb
  if s.boot.resetAt.isSome || (s.boot.activating && r.opcode != 0x0F01) then .fails St.busy
  else if !r.wellFormed then .fails St.badArg
  else if needKey && key.isNone then .fails St.denied
  else if (crit || r.mb == 17) && !r.auth then .fails St.badAuth
  else if r.auth && !key.any r.verifies then .fails St.badAuth
  else if r.counter ≤ (s.counterOf r.mb).last then .replay
  else if (opcodeInfo r.opcode).isNone then .failsAccepted St.badArg
  else if s.boot.phase = .recovery then
    if !recoveryAllows r || !s.mayAct r then .failsAccepted St.denied else .passes
  else if (SMap.get s.cfg.pins r.mb).isNone && !(r.opcode == 0x0101 || r.opcode == 0x0102 || r.opcode == 0x0106) then
    .failsAccepted St.denied
  else if !s.mayAct r then .failsAccepted St.denied
  else .passes

/-- The request with the key its trailer verified under, if it did (R106). -/
def State.authenticate (s : State) (r : Request) : Request :=
  if r.auth then { r with key := (SMap.get s.nv.cmdKeys r.mb).filter r.verifies } else r

/-- The end of a request: what REPLAY reports of it is recorded when its counter was accepted, and the response is
sent (R108, R110). -/
def State.finish (s : State) (r : Request) (accepted : Bool) (a : Reply) : State :=
  let s := if accepted then
      let c := s.counterOf r.mb
      s.setCounter r.mb { c with lastSeq := r.seq, lastOpcode := r.opcode, lastStatus := a.status, lastHandle := a.handle }
    else s
  s.sendResponse r (responseBytes r a)

/-- The arbiter takes the request at its head, when none is being run: the request receives its number, and either
fails a shared check and is answered, or is accepted and waits for its command's row. -/
def State.arbitrate (s : State) : State :=
  match s.sl.accepted, s.sl.arb with
  | none, r :: rest =>
    let s := { s with sl := { s.sl with arb := rest, ran := s.sl.ran + 1 } }.nextSeq
    let r := s.authenticate { r with seq := s.ret.seq }
    match s.gate r with
    | .fails st => s.finish { r with key := none } false ⟨st, [], 0⟩
    | .replay => s.finish r false ⟨St.replay, replayPayload (s.counterOf r.mb), 0⟩
    | .failsAccepted st => (s.acceptCounter r.mb r.counter).finish r true ⟨st, [], 0⟩
    | .passes =>
      let s := s.acceptCounter r.mb r.counter
      { s with sl := { s.sl with accepted := some r } }
  | _, _ => s

/-- An operation has a step to take: a load that only waits for its clearing to run has none. -/
def LongOp.steps (o : LongOp) : Bool := match o.data with | .clLoad _ n => n < 5 | _ => true
/-- Its row is one step of at most 50 µs; the rows of the others are the last of many steps (assumption log 56). -/
def LongOp.bounded (o : LongOp) : Bool :=
  o.steps && match o.data with | .verify _ | .activate .. | .attest _ => false | _ => true
/-- A long operation waits for its step, and 8 requests have run since the last one (R121). -/
def State.stepDue (s : State) : Bool := 8 ≤ s.sl.ran && s.sl.ops.any LongOp.bounded
/-- The mailbox requests that a clearing's control reads are to answer (18 R558, R570). -/
def Cl.asking (x : Cl) : List Request := x.reads.filterMap (·.req) ++ x.ctlq.filterMap (·.req)
/-- Those requests changed, or answered by nothing. -/
def Cl.mapAsking (x : Cl) (k : Request → Option Request) : Cl :=
  { x with
    reads := x.reads.map fun (r : CtlRead) => { r with req := r.req.bind k }
    ctlq := x.ctlq.map fun (r : CtlReq) => { r with req := r.req.bind k } }
/-- CLEARING.CTRL waits for the answer of its clearing: requests run one at a time (R119; 18 R558). -/
def State.ctlWaits (s : State) : Bool := s.clr.any fun c => !c.2.asking.isEmpty
/-- The arbiter may take the request at its head: its cycle is over, so that none of the cycle can come before it, no
request is being run, no step of a long operation is due, and a warden core is active (R119, R121; 21 R620). -/
def State.mayTake (s : State) : Bool :=
  s.sl.accepted.isNone && s.sl.arb.head?.any (·.cycle < wardenCycle s.now) && s.slaotUp && !s.stepDue && !s.ctlWaits
/-- The arbiter runs until a request waits for its row or none may be taken. -/
def State.drainN : Nat → State → State
  | 0, s => s
  | n + 1, s => if s.mayTake then State.drainN n s.arbitrate else s
/-- The arbiter with fuel for every request that can reach it. -/
def State.drain (s : State) : State := s.drainN (s.sl.arb.length + s.sl.inband.length + 1)

/-! ## The meaning of a command's row -/

/-- What a command that passes its checks does: the new state and its reply, or no reply yet. -/
structure Done where
  s : State
  reply : Option Reply := some ⟨0, [], 0⟩

/-- A command's own checks and effect, steps 4 (payload) to 8 of R107: a failing status changes nothing (R108). -/
abbrev Body := State → Request → Except Nat Done

/-- The most bytes a running configuration may have (03 R67). -/
def maxCfg : Nat := 8388480
/-- The bytes of a running configuration. Which items it has is stated (03 R65), how they lie is not: each is counted with
the bytes of the record or payload that sets it, and its key in four (assumption log 57). -/
def RunCfg.size (c : RunCfg) : Nat :=
  256 + 6 * c.groups.length + 36 * c.ports.length + 20 * c.portTable.length + 36 * c.tenantTable.length +
    (c.programs.map fun x => 8 + 8 * x.2.words.length).sum + 6 * c.owners.length + 8 * c.partLimits.length +
    5 * c.fnMap.length + 28 * c.firebreaks.length + 8 * c.routes.length + (c.evGroups.map fun x => 8 + 2 * x.2.members.length).sum +
    8 * c.moderation.length + 28 * c.egress.length + 16 * c.slices.length + 24 * c.mirrors.length + 36 * c.meters.length +
    24 * c.rentals.length + 8 * c.hosts.length + 6 * c.pins.length + 64 * c.nvme.length + 32 * c.namespaces.length +
    64 * c.slowpath.length + 64 * c.remote.length + 5 * c.suspendable.length + 8 * c.meterPeriod.length
/-- A command took the configuration beyond its bound: NO_SPACE (03 R67). -/
def tooLarge (old new : RunCfg) : Bool := maxCfg < new.size && old.size < new.size

/-- A check of R107: the status when it fails. -/
def chk (c : Bool) (status : Nat) (k : Except Nat Done) : Except Nat Done := if c then k else .error status
/-- Success with a payload. -/
def done (s : State) (payload : List Byte := []) : Except Nat Done := .ok ⟨s, some ⟨St.ok, payload, 0⟩⟩

/-- The row of a command: the accepted request, when it is one of this command, is run and answered, and the arbiter
goes on (R119). -/
def runCommand (mine : Request → Bool) (body : Body) (s : State) : State :=
  match s.sl.accepted with
  | some r =>
    if s.slaotUp && mine r then
      let s' := { s with sl := { s.sl with accepted := none } }
      match body s' r with
      | .error st => (s'.finish r true ⟨st, [], 0⟩).drain
      | .ok d =>
        if tooLarge s.cfg d.s.cfg then (s'.finish r true ⟨St.noSpace, [], 0⟩).drain
        else
          match d.reply with
          | some a => (d.s.finish r true a).drain
          | none => d.s.drain
    else s
  | none => s
/-- The warden's cycle passes in which the request at the head arrived, and the arbiter goes on. -/
def State.pump (s : State) : State :=
  match s.sl.accepted, s.sl.arb with
  | none, r :: _ => (s.upTo (cycleEnd r.cycle)).drain
  | _, _ => s

/-- The row of a command: the arbiter first takes what has reached it. -/
def requestRow (mine : Request → Bool) (body : Body) (s : State) : Res :=
  whenServing s fun s => runCommand mine body s.pump
/-- The row of the command with an opcode. -/
def slaotRow (op : Nat) (body : Body) (s : State) : Res := requestRow (fun r => r.opcode == op) body s

/-! ## Long operations (04 R121 to R127) -/

/-- The objects an operation holds (R122, 07 R206, 06 R183, 08 R248, R647, 15 R457, 18). -/
def LongOp.holds (o : LongOp) : List Hold :=
  match o.data with
  | .parseLoad all _ _ => all.map Hold.parse
  | .treeInstall all _ _ _ _ => Hold.rules o.mb :: all.map Hold.tree
  | .rehash t => [.table t]
  | .flush _ part _ _ _ => [.part part]
  | .svcLoad gs _ => gs.map Hold.image
  | .clRent c _ => [.clearing c]
  | .clRelease c _ => [.clearing c]
  | .clStageHost c _ _ _ _ => [.clearing c]
  | .clLoad c _ => [.clearing c]
  | .clUnload c => [.clearing c]
  | .store .. | .verify .. | .activate .. | .attest .. => []
/-- An object is held by a long operation in progress. -/
def State.isHeld (s : State) (h : Hold) : Bool := s.sl.ops.any fun o => o.holds.contains h

/-- The handle a new operation takes: after 2^32 − 1 issue goes on from 1, skipping handles in use (R124). -/
def State.handleFrom (s : State) : Nat → Nat → Nat
  | 0, h => h
  | n + 1, h =>
    let h := if h = 2 ^ 32 then 1 else h
    if s.sl.ops.any (·.handle == h) || s.sl.ended.any (·.handle == h) then s.handleFrom n (h + 1) else h

/-- A long operation starts and answers IN_PROGRESS with its handle; the 65th is BUSY (R121, R123). -/
def startOp (s : State) (r : Request) (total : Nat) (data : OpData) : Except Nat Done :=
  if 64 ≤ s.sl.ops.length then .error St.busy
  else
    let h := s.handleFrom 400 s.sl.nextHandle
    let o : LongOp := ⟨h, r.opcode, r.actor, r.mb, r.doneEvent, r.seq, 0, total, false, data⟩
    .ok ⟨{ s with sl := { s.sl with ops := s.sl.ops ++ [o], nextHandle := h + 1, ran := 0 } }, some ⟨St.inProgress, [], h⟩⟩

/-- An operation in progress. -/
def State.op (s : State) (h : Nat) : Option LongOp := s.sl.ops.find? (·.handle == h)
/-- An operation after a step, its record replaced. -/
def State.setOp (s : State) (o : LongOp) : State :=
  { s with sl := { s.sl with ops := s.sl.ops.map fun x => if x.handle = o.handle then o else x } }
/-- One step of an operation counted. -/
def LongOp.step (o : LongOp) : LongOp := { o with stepsDone := o.stepsDone + 1 }

/-- An operation ends: its outcome is retained, 256 of them, and EV_OP_DONE fires when asked for (R124, R125). -/
def State.endOp (s : State) (o : LongOp) (status : Nat) : State :=
  let e : EndedOp := ⟨o.handle, o.opcode, o.starter, status, o.stepsDone, o.stepsTotal, o.startSeq⟩
  let l := s.sl.ended ++ [e]
  let s := { s with sl := { s.sl with
    ops := s.sl.ops.filter (·.handle != o.handle), ended := l.drop (l.length - 256) } }
  if o.doneEvent && o.mb < 16 then s.fireDev o.mb 0 Ev.opDone (BitVec.ofNat 32 o.handle) else s

/-- The operations with a step to take, oldest first. -/
def State.stepping_ (s : State) : List Nat := (s.sl.ops.filter LongOp.steps).map (·.handle)
/-- It is the operation's turn: the oldest that has not stepped in this round, and a new round begins when all have (R121). -/
def State.turn (s : State) (h : Nat) : Bool :=
  (s.stepping_.find? (!s.sl.round.contains ·)).or s.stepping_.head? == some h
/-- An operation may step: it is its turn, and the requests that wait have run, or 8 of them (R121). -/
def State.mayStep (s : State) (h : Nat) : Bool :=
  s.slaotUp && s.turn h && (s.sl.accepted.isNone || 8 ≤ s.sl.ran)
/-- The turn of an operation is taken. -/
def State.tookTurn (s : State) (h : Nat) : State :=
  let all := s.stepping_.all s.sl.round.contains
  { s with sl := { s.sl with round := if all then [h] else s.sl.round ++ [h], ran := 0 } }
/-- A step of a long operation, in its turn: `abort` when a cancel has arrived before this boundary (R127), else `body`. -/
def opStep (h : Nat) (abort : State → LongOp → State) (body : State → LongOp → State) (s : State) : State :=
  match s.op h with
  | some o =>
    if s.mayStep h then
      let s := s.tookTurn h
      if o.cancel then (abort s o).endOp o St.aborted else body s o.step
    else s
  | none => s
/-- The row of a step, once the arbiter has taken what waits. -/
def opRow (h : Nat) (abort : State → LongOp → State) (body : State → LongOp → State) (s : State) : State :=
  opStep h abort body s.pump
/-- The row of a step that a cancel does not stop (18 R563). -/
def turnRow (h : Nat) (body : State → LongOp → State) (s : State) : State :=
  let s := s.pump
  match s.op h with
  | some o => if s.mayStep h then body (s.tookTurn h) o.step else s
  | none => s

/-! ## Host memory requests to a function (12 R358) -/

/-- Memory Space Enable of a function; a VF's is in its PF (R354). -/
def State.memOn (s : State) (f : Nat) : Bool :=
  if (vfOf f).isSome then (s.fn (parentPf f)).vfMse else (s.fn f).memSpace
/-- A function takes host memory requests (R358, R372, R374; 03 R71, R75). -/
def State.takesRequests (s : State) (f : Nat) : Bool :=
  s.fnPresent f && (s.port (fnPort f)).full && s.memOn f && !(s.fn f).d3hot && !(s.fn f).flrActive &&
    (s.boot.phase != .recovery || fnLocal f == 2)
/-- A host request reaches a target block of a function: no answer before boot step 7 (03 R71), Unsupported Request while
the function takes none or when the firebreak denies it, else what the register does. In recovery mode every block but
the mailbox is unmapped (03 R75). -/
def hostRequest (s : State) (f target right addr len : Nat) (k : State → State) : State :=
  if !(s.port (fnPort f)).full then s
  else if !s.takesRequests f then
    s.emit (.completion f false [])
  else if s.boot.phase = .recovery ∧ target / 256 ≠ 1 then
    if right = 1 then s.emit (.completion f true (zeros len)) else s.hostCtr (fnPort f) 13
  else
    let (s, pass) := s.fbCheck target (s.master f) right addr len
    if pass then
      k (s.setPort (fnPort f) { s.port (fnPort f) with lastTraffic := s.clk })
    else (s.hostCtr (fnPort f) 14).emit (.completion f false [])

end Sys2Proof.Machine
end

