-- ==== Sys2Proof/Machine/Event.lean ====
section
/-! DEFINITION. The event controller (14): delivery of records, event queues, routing, interrupts, and its commands. -/
namespace Sys2Proof.Machine

/-- An event queue. -/
def State.eq (s : State) (e : Nat) : Eq := SMap.getD s.ev.eqs e {}
/-- The state with an event queue replaced. -/
def State.setEq (s : State) (e : Nat) (q : Eq) : State := { s with ev := { s.ev with eqs := SMap.set s.ev.eqs e q } }
/-- A counter of R433 raised. -/
def State.eqCtr (s : State) (e i n : Nat) : State := s.setEq e { s.eq e with ctrs := (s.eq e).ctrs.add i n }
/-- Moderation settings of an event queue (R428). -/
def State.moderation (s : State) (e : Nat) : Nat × Nat := SMap.getD s.cfg.moderation e (1, 0)

/-- Records in the queue and not consumed. -/
def Eq.count (q : Eq) : Nat := (q.pi - q.ci).toNat
/-- EQ_PI − EQ_CI = 2^s (R421). -/
def Eq.full (q : Eq) : Bool := q.count == 2 ^ q.sizeLog2
/-- The owner is in D3hot or its Bus Master Enable is 0 (R429). -/
def State.suspended (s : State) (f : Nat) : Bool := (s.fn f).d3hot || !s.canDma f

/-- The host port of a source. -/
def srcPort (src : Nat) : Nat := if src < 65536 then src / 4096 else (src - 65536) / 256
/-- A queue could take a record of a source but for being full (R423). -/
def State.admits (s : State) (src e : Nat) : Bool :=
  let q := s.eq e
  q.state == 2 && !q.fault && e / 256 == srcPort src && s.owner 3 e == s.srcOwner src && !s.suspended (s.owner 3 e)
/-- R423. -/
def State.eligible (s : State) (src e : Nat) : Bool := s.admits src e && !(s.eq e).full

/-- The members of a group at or after its pointer, then those before it (R425). -/
def State.groupOrder (s : State) (g : Nat) : List Nat :=
  let m := (SMap.getD s.cfg.evGroups g ⟨[]⟩).members
  let p := SMap.getD s.ev.pointers g (m.headD 0)
  m.filter (p ≤ ·) ++ m.filter (· < p)
/-- The target of a delivery, resolved when it is made (R424 to R426). -/
def State.resolve (s : State) (src : Nat) : Option Nat :=
  let r := s.route src
  if r.spread then (s.groupOrder r.target).find? (s.eligible src) else if s.eligible src r.target then some r.target else none

/-- The bytes of an event record (R418). -/
def eventRecord (src : Nat) (h : HeldEv) (i : W32) (sz : Nat) : List Byte :=
  leBytes 16 ((i.toNat / 2 ^ sz % 2 + 1) % 2 + 2 * src + min h.count 255 * 2 ^ 40 + h.type * 2 ^ 48 +
    h.data.toNat * 2 ^ 64 + h.time % 2 ^ 32 * 2 ^ 96)

/-! ## Interrupts (12 R362) -/

/-- Any PBA bit of a PF with Interrupt Disable 0 asserts INTA, while MSI-X is off. -/
def State.intxWanted (s : State) (p : Nat) : Bool :=
  [pf0 p, pf1 p, pf2 p].any fun f =>
    !(s.fn f).msixEnable && !(s.fn f).intDisable && (s.fn f).pba.any (·.2)
/-- INTA follows the PBA bits. -/
def State.intxUpdate (s : State) (p : Nat) : State :=
  let w := s.intxWanted p
  if w == (s.port p).intx then s else (s.setPort p { s.port p with intx := w }).emit (.intx p w)
/-- An MSI-X table entry is masked; an entry never written is. -/
def FnSt.masked (f : FnSt) (v : Nat) : Bool := f.fnMask || ((SMap.get f.msix v).map (·.2.2)).getD true
/-- An interrupt of a function on a vector (R362). -/
def State.interrupt (s : State) (f v : Nat) : State :=
  let st := s.fn f
  if st.msixEnable && !st.masked v && s.canDma f then s.hostSend f (.msix f v)
  else (s.setFn f { st with pba := SMap.set st.pba v true }).intxUpdate (fnPort f)

/-- The moment a due interrupt is sent: at once with MOD_COUNT records, else when the moderation time ends (R427). -/
def State.interruptAt (s : State) (e d : Nat) : Nat :=
  let m := s.moderation e
  if m.1 ≤ (s.eq e).count then d else d + us m.2
/-- A due interrupt goes out on VECTOR at its moment, unless the queue is polled or suspended (R427 to R429). -/
def State.sendDue (s : State) (e : Nat) : State :=
  let q := s.eq e
  match q.due with
  | some d =>
    if q.vector = 0xFFFF ∨ s.suspended (s.owner 3 e) = true then s
    else
      let s := s.upToClk (s.interruptAt e d)
      ((s.setEq e { q with due := none }).eqCtr e 1 1).interrupt (s.owner 3 e) q.vector
  | none => s
/-- An interrupt whose moment has come is sent before what follows. -/
def State.sendOverdue (s : State) (e : Nat) : State :=
  if (s.eq e).due.any fun d => s.interruptAt e d ≤ s.clk then s.sendDue e else s

/-! ## Delivery -/

/-- A queue that the source finds full for the first time counts the record held back (R433 HELD_FULL). -/
def State.noteFull (s : State) (src : Nat) : State :=
  (s.routeQueues src).foldl (fun s e =>
    if s.admits src e && (s.eq e).full && !(s.src src).foundFull.contains e then
      (s.setSrc src { s.src src with foundFull := (s.src src).foundFull ++ [e] }).eqCtr e 3 1
    else s) s

/-- A pending source is delivered when its target is eligible (R414): one record, for the type that joined first; a
write into an empty queue makes an interrupt due (R427), and a refused write sets FAULT (R422). -/
def State.deliverEvent (s : State) (src : Nat) : State :=
  let e := s.src src
  match e.held, e.active with
  | h :: rest, none =>
    match s.resolve src with
    | none =>
      let s := s.noteFull src
      if (s.routeQueues src).any fun e => s.owner 3 e == s.srcOwner src then s.pmeCause (s.srcOwner src) else s
    | some t =>
      let q := s.eq t
      let f := s.owner 3 t
      let r := s.route src
      if q.pasidEn && !(s.fn f).pasidEn then (s.setEq t { q with fault := true }).eqCtr t 7 1
      else
        match s.dmaWrite f (q.base + 16 * (q.pi.toNat % 2 ^ q.sizeLog2)) (if q.pasidEn then some q.pasid else none)
          false (eventRecord src h q.pi q.sizeLog2) with
        | (s, .waits) => s
        | (s, .denied) | (s, .refused) => (s.setEq t { s.eq t with fault := true }).eqCtr t 7 1
        | (s, .ok) =>
          let due := if q.pi = q.ci then q.due.or (some s.clk) else q.due
          let s := s.setEq t { s.eq t with pi := q.pi + 1, due := due, records := q.records ++ [(q.pi, src)] }
          let s := s.setSrc src { held := rest, active := some (t, q.pi), foundFull := [] }
          let s := if r.spread then { s with ev := { s.ev with pointers := SMap.set s.ev.pointers r.target (t + 1) } } else s
          (s.eqCtr t 0 1).eqCtr t 2 (h.count - 1)
  | _, _ => s
/-- What is pending for a queue, or at some sources, is delivered at once, in ascending source ID (R414, R416). -/
def State.deliverAll (s : State) (e : Nat) (also : List Nat) : State :=
  ((s.ev.srcs.filter fun x => !x.2.held.isEmpty && x.2.active.isNone &&
    ((s.routeQueues x.1).contains e || also.contains x.1)).map (·.1)).foldl State.deliverEvent s

/-- The records of sources are completed (R414). -/
def State.completeRecords (s : State) (srcs : List Nat) : State :=
  srcs.foldl (fun s i => s.setSrc i { s.src i with active := none }) s

/-- An event queue leaves ENABLED: its records are completed, DUE clears, and the indices become 0 (R422). -/
def State.eqLeave (s : State) (e : Nat) : State :=
  let s := s.sendOverdue e
  let q := s.eq e
  let done := q.records.map (·.2)
  ((s.setEq e { q with state := 1, pi := 0, ci := 0, due := none, fault := false, records := [] }).completeRecords done).deliverAll e done
/-- ENABLE (R422). -/
def State.eqEnable (s : State) (e : Nat) : State :=
  (s.setEq e { s.eq e with state := 2, pi := 0, ci := 0, fault := false }).deliverAll e []
/-- Return to RESET: as DISABLE, with settings and slot binding cleared (R422). -/
def State.eqReset (s : State) (e : Nat) : State :=
  let s := if (s.eq e).state = 2 then s.eqLeave e else s
  s.setEq e { ctrs := (s.eq e).ctrs }
/-- The event queues of a function, or of a condition, that are not in RESET. -/
def State.eqsOf (s : State) (f : Nat) : List Nat :=
  (s.ev.eqs.filter fun x => s.owner 3 x.1 == f && x.2.state != 0).map (·.1)

/-! ## The rows -/

/-- EVENT_DELIVERY (R414). -/
def execEventDelivery (src : Nat) (s : State) : Res := whenServing s fun s => s.deliverEvent src

/-- Where the register block of an event queue lies for a function (R420, 12 R356). -/
def eqOffset (f e slot : Nat) : Nat :=
  if fnLocal f = 2 then 0x200000 + 0x40 * (e % 256)
  else if (vfOf f).isSome then 0x40000 + 0x1000 * slot else 0x1000000 + 0x1000 * slot
/-- CMD of an event queue: 1 ENABLE, 2 DISABLE; anything else but 0 is ignored and counted (R420, R422). -/
def State.eqCmd (s : State) (e v : Nat) : State :=
  if v = 0 then s
  else if v = 1 ∧ (s.eq e).state = 1 then s.eqEnable e
  else if v = 2 ∧ (s.eq e).state = 2 then s.eqLeave e
  else s.eqCtr e 6 1
/-- A host write to a register of an event queue's block, through PF2's window or the owner's slot page. -/
def eqWrite (s : State) (f e off : Nat) (k : State → State) : State :=
  hostRequest s f (0x0300 + fnPort f) 2 (eqOffset f e (s.eq e).slot + off) 8 fun s =>
    if e / 256 = fnPort f ∧ s.owner 3 e = f ∧ (fnLocal f = 2 ∨ (s.eq e).state ≠ 0) then k s
    else s.hostCtr (fnPort f) 12

/-- An EQ_CI write (R421): accepted, it completes the records before it; it cancels or makes due an interrupt (R427). -/
def State.eqCi (s : State) (e : Nat) (v : W32) : State :=
  let s := s.sendOverdue e
  let q := s.eq e
  if (v - q.ci).toNat ≤ 2 ^ q.sizeLog2 ∧ (q.pi - v).toNat ≤ 2 ^ q.sizeLog2 then
    let passed := q.records.filter fun r => (r.1 - q.ci).toNat < (v - q.ci).toNat
    let left := q.records.filter fun r => !((r.1 - q.ci).toNat < (v - q.ci).toNat)
    let due := if v = q.pi then none else q.due.or (some s.clk)
    let s := s.setEq e { q with ci := v, records := left, due := due }
    let s := if v = q.pi ∧ q.due.isSome then s.eqCtr e 4 1 else s
    let done := passed.map (·.2)
    (s.completeRecords done).deliverAll e done
  else s.eqCtr e 5 1
/-- EQ_CI_WRITE (R421). -/
def execEqCiWrite (f e : Nat) (v : W32) (s : State) : Res := whenServing s fun s => eqWrite s f e 0 fun s => s.eqCi e v

/-- EQ_CTRL_ENABLE (R422). -/
def execEqCtrlEnable (f e : Nat) (s : State) : Res :=
  whenServing s fun s => eqWrite s f e 8 fun s => s.eqCmd e 1
/-- EQ_CTRL_DISABLE (R422). -/
def execEqCtrlDisable (f e : Nat) (s : State) : Res :=
  whenServing s fun s => eqWrite s f e 8 fun s => s.eqCmd e 2
/-- EQ_CTRL_INVALID: CMD 3 is no command and counts CTRL_IGNORED; CMD 0 is none (R420, R422). -/
def execEqCtrlInvalid (f e : Nat) (v : BitVec 2) (s : State) : Res :=
  whenServing s fun s => eqWrite s f e 8 fun s => if v = 3 then s.eqCtr e 6 1 else s

/-- INTERRUPT_SEND (R427, R428). -/
def execInterruptSend (e : Nat) (s : State) : Res := whenServing s fun s => s.sendDue e

/-! ## Commands (R432) -/

/-- An event queue number that exists on the variant. -/
def State.eqPresent (s : State) (e : Nat) : Bool := e < 256 * s.groves
/-- Event slots of an owner (R432). -/
def eqSlots (f : Nat) : Nat := if (vfOf f).isSome then 4 else if fnLocal f = 2 then 1 else 256
/-- MSI-X vectors of a function (12 R359). -/
def vectorsOf (f : Nat) : Nat := if (vfOf f).isSome then 64 else 2048
/-- An owner's event slot is bound to another event queue. -/
def State.eqSlotBound (s : State) (f slot : Nat) : Bool :=
  fnLocal f != 2 && (s.eqsOf f).any fun e => (s.eq e).slot == slot

/-- EVENT.EQ_SET. -/
def eqSetBody : Body := fun s r =>
  let p := r.payload
  let e := fld p 0 2
  let f := s.owner 3 e
  chk (p.length == 20 && e < 4096 && 6 ≤ fld p 2 1 && fld p 2 1 ≤ 16 && fld p 3 1 ≤ 1 && fld p 8 8 % 4096 == 0 &&
    fld p 16 4 < 2 ^ 20) St.badArg <|
  chk (s.eqPresent e) St.notPresent <| chk (s.owns r.actor 3 e) St.notOwner <| chk ((s.eq e).state == 0) St.busy <|
  chk (f != operator && fnPort f == e / 256 && s.fnPresent f) St.denied <|
  chk (fld p 4 2 < eqSlots f && (fld p 6 2 == 0xFFFF || fld p 6 2 < vectorsOf f)) St.badArg <|
  chk (!s.eqSlotBound f (fld p 4 2)) St.exists_ <|
  done (s.setEq e { state := 1, sizeLog2 := fld p 2 1, pasidEn := fld p 3 1 == 1, slot := fld p 4 2,
                    vector := fld p 6 2, base := fld p 8 8, pasid := fld p 16 4 })
def execEventEqSet (s : State) : Res := slaotRow 0x0601 eqSetBody s

/-- The register block of an event queue (R420). -/
def State.eqRegs (s : State) (e : Nat) : List Byte :=
  let q := s.eq e
  let m := s.moderation e
  leBytes 8 q.ci.toNat ++ zeros 8 ++
    leBytes 4 (q.state + 32 * b2n (q.state != 0 && s.suspended (s.owner 3 e)) + 64 * b2n q.due.isSome + 128 * b2n q.fault) ++
    leBytes 4 q.pi.toNat ++ leBytes 2 q.vector ++ leBytes 1 q.sizeLog2 ++ leBytes 1 m.1 ++ leBytes 2 m.2 ++ zeros 2
/-- The EQ_SET record of an event queue (R432). -/
def Eq.setRecord (q : Eq) (e : Nat) : List Byte :=
  leBytes 2 e ++ leBytes 1 q.sizeLog2 ++ leBytes 1 (b2n q.pasidEn) ++ leBytes 2 q.slot ++ leBytes 2 q.vector ++
    leBytes 8 q.base ++ leBytes 4 q.pasid

/-- The checks the commands on one event queue share. -/
def eqCmd (len : Nat) (wf : List Byte → Bool) (k : State → Request → Nat → Except Nat Done) : Body := fun s r =>
  let e := fld r.payload 0 2
  chk (r.payload.length == len && e < 4096 && wf r.payload) St.badArg <|
  chk (s.eqPresent e) St.notPresent <| chk (s.owns r.actor 3 e) St.notOwner <| k s r e
/-- EVENT.EQ_GET. -/
def eqGetBody : Body := eqCmd 4 (zeroAt · 2 2) fun s _ e => done s ((s.eq e).setRecord e ++ s.eqRegs e)
def execEventEqGet (s : State) : Res := slaotRow 0x0602 eqGetBody s

/-- EVENT.EQ_STATE with a given CMD: 1 ENABLE, 2 DISABLE, 3 RESET; BUSY when it does not fit R422. -/
def eqStateBody : Body :=
  eqCmd 4 (fun p => 1 ≤ fld p 2 1 && fld p 2 1 ≤ 3 && zeroAt p 3 1) fun s r e =>
    match fld r.payload 2 1 with
    | 1 => chk ((s.eq e).state == 1) St.busy <| done (s.eqEnable e)
    | 2 => chk ((s.eq e).state == 2) St.busy <| done (s.eqLeave e)
    | _ => done (s.eqReset e)
/-- A request of EVENT.EQ_STATE with CMD `c`; a CMD out of range belongs to the ENABLE row, which refuses it. -/
def isEqState (c : Nat) (r : Request) : Bool :=
  r.opcode == 0x0603 && (fld r.payload 2 1 == c || (c == 1 && (fld r.payload 2 1 == 0 || 3 < fld r.payload 2 1)))
def execEventEqStateEnable (s : State) : Res := requestRow (isEqState 1) eqStateBody s
def execEventEqStateDisable (s : State) : Res := requestRow (isEqState 2) eqStateBody s
def execEventEqStateReset (s : State) : Res := requestRow (isEqState 3) eqStateBody s

/-- EVENT.MOD_SET. -/
def modSetBody : Body :=
  eqCmd 8 (fun p => 1 ≤ fld p 2 1 && zeroAt p 3 1 && fld p 4 2 ≤ 10000 && zeroAt p 6 2) fun s r e =>
    let s := s.sendOverdue e
    done { s with cfg := { s.cfg with
      moderation := SMap.set s.cfg.moderation e (fld r.payload 2 1, fld r.payload 4 2) } }
def execEventModSet (s : State) : Res := slaotRow 0x0604 modSetBody s

/-- A source number that exists on the variant (R413). -/
def State.srcPresent (s : State) (i : Nat) : Bool := srcPort i < s.groves
/-- The gate of a source's routing commands (R432). -/
def State.ownsSrc (s : State) (f i : Nat) : Bool := f == operator || s.srcOwner i == f
/-- EVENT.ROUTE_SET. -/
def routeSetBody : Body := fun s r =>
  let p := r.payload
  let first := fld p 0 4
  let n := fld p 4 4
  let spread := fld p 8 1 == 1
  let tgt := fld p 10 2
  let srcs := (List.range n).map (first + ·)
  chk (p.length == 12 && 1 ≤ n && n ≤ 4096 && fld p 8 1 ≤ 1 && zeroAt p 9 1 && first + n ≤ 69632 &&
    (if first < 65536 then first + n ≤ 65536 && (first + n - 1) / 4096 == first / 4096
     else (first + n - 1 - 65536) / 256 == (first - 65536) / 256) &&
    (if spread then tgt < 256 else tgt < 4096)) St.badArg <|
  chk (s.srcPresent first && (if spread then tgt / 16 else tgt / 256) < s.groves) St.notPresent <|
  chk (srcs.all (s.ownsSrc r.actor)) St.notOwner <|
  chk ((if spread then tgt / 16 else tgt / 256) == srcPort first &&
    (!spread || (SMap.getD s.cfg.evGroups tgt ⟨[]⟩).members.length != 0)) St.badArg <|
  done { s with cfg := { s.cfg with routes := srcs.foldl (fun m i => SMap.set m i ⟨spread, tgt⟩) s.cfg.routes } }
def execEventRouteSet (s : State) : Res := slaotRow 0x0605 routeSetBody s

/-- STATE of a source as R414 lists the states. -/
def EvSrc.code (e : EvSrc) : Nat := b2n (e.held.length != 0) + 2 * b2n e.active.isSome
/-- EVENT.ROUTE_GET. -/
def routeGetBody : Body := fun s r =>
  let i := fld r.payload 0 4
  let e := s.src i
  chk (r.payload.length == 4 && i < 69632) St.badArg <| chk (s.srcPresent i) St.notPresent <|
  chk (s.ownsSrc r.actor i) St.notOwner <|
  done s (leBytes 1 (b2n (s.route i).spread) ++ leBytes 1 e.code ++ leBytes 2 (s.route i).target ++
    (List.range 8).flatMap fun j => leBytes 2 ((e.held[j]?.map (·.type)).getD 0))
def execEventRouteGet (s : State) : Res := slaotRow 0x0606 routeGetBody s

/-- EVENT.GROUP_SET: 16 to 256 members write the group and set its pointer, none deletes it. -/
def groupSetBody : Body := fun s r =>
  let p := r.payload
  let g := fld p 0 2
  let mem := (maskBits (fld p 4 32) 256).map (256 * (g / 16) + ·)
  let old := (SMap.getD s.cfg.evGroups g ⟨[]⟩).members
  chk (p.length == 36 && zeroAt p 2 2 && g < 256 && (mem.length == 0 || 16 ≤ mem.length)) St.badArg <|
  chk (g / 16 < s.groves) St.notPresent <|
  chk ((if mem.length == 0 then old else mem).all (s.owns r.actor 3)) St.notOwner <|
  if mem.length = 0 then
    chk (!(s.cfg.routes.any fun x => x.2.spread && x.2.target == g)) St.busy <|
    done { s with cfg := { s.cfg with evGroups := SMap.del s.cfg.evGroups g },
                  ev := { s.ev with pointers := SMap.del s.ev.pointers g } }
  else
    done { s with cfg := { s.cfg with evGroups := SMap.set s.cfg.evGroups g ⟨mem⟩ },
                  ev := { s.ev with pointers := SMap.set s.ev.pointers g (mem.headD 0) } }
def execEventGroupSet (s : State) : Res := slaotRow 0x0607 groupSetBody s

/-- EVENT.STATS. -/
def eventStatsBody : Body := eqCmd 4 (zeroAt · 2 2) fun s _ e => done s (ctrBytes (s.eq e).ctrs 8)
def execEventStats (s : State) : Res := slaotRow 0x0608 eventStatsBody s

end Sys2Proof.Machine
end

