-- ==== Sys2Proof/Machine/Queue.lean ====
section
/-! DEFINITION. Queue pairs (13): doorbells, fetching, the starting and ending of jobs, queue states and commands. -/
namespace Sys2Proof.Machine

/-- A queue pair. -/
def State.qpOf (s : State) (q : Nat) : Qp := SMap.getD s.qp.qps q {}
/-- The state with a queue pair replaced. -/
def State.setQp (s : State) (q : Nat) (x : Qp) : State := { s with qp := { s.qp with qps := SMap.set s.qp.qps q x } }
/-- A counter of R412 raised by `n`. -/
def State.qpCtr (s : State) (q i n : Nat) : State := s.setQp q { s.qpOf q with ctrs := (s.qpOf q).ctrs.add i n }
/-- The owner of a queue pair. -/
def State.qpOwner (s : State) (q : Nat) : Nat := s.owner 2 q

/-- NOTIFY_ALL (R384). -/
def QpSet.notifyAll (x : QpSet) : Bool := x.flags.getLsbD 2
/-- META of a NET_RX queue pair (R384). -/
def QpSet.meta_ (x : QpSet) : Nat := bits x.flags.toNat 4 3

/-- Requests may be issued for the queue pair: Bus Master Enable, D0, and PASID Enable when it carries one (R365). -/
def State.qpMayDma (s : State) (q : Nat) : Bool :=
  let f := s.qpOwner q
  s.canDma f && !(s.fn f).d3hot && (!(s.qpOf q).set.pasidEn || (s.fn f).pasidEn)

/-! ## Completion records (R389, R396 to R400) -/

/-- The bytes of completion record `i` of a ring of 2^c records. -/
def cplBytes (r : CplRec) (i : W32) (c : Nat) : List Byte :=
  leBytes 16 ((i.toNat / 2 ^ c % 2 + 1) % 2 + 4 * r.detail + 256 * r.opcode + 65536 * r.status +
    2 ^ 32 * r.user.toNat + 2 ^ 64 * r.data.toNat)

/-- A job of a queue pair by its slot. -/
def Qp.job (x : Qp) (slot : W32) : Option Job := x.jobs.find? (·.slot == slot)
/-- The queue pair with a job replaced. -/
def Qp.setJob (x : Qp) (j : Job) : Qp := { x with jobs := x.jobs.map fun k => if k.slot = j.slot then j else k }
/-- RECV_DONE and WRITE_NOTIFY jobs, which the device originates (16 R476, R496). -/
def Job.byDevice (j : Job) : Bool := dOp (j.descs.headD 0) == 0x3E || dOp (j.descs.headD 0) == 0x3F
/-- Jobs of R401 whose record is not yet written. -/
def Qp.inProgress (x : Qp) : Nat := (x.jobs.filter fun j => j.st != .written && !j.byDevice).length
/-- The record of a job that ends with a status. -/
def Job.record (j : Job) (status detail : Nat) (data : W64) : CplRec :=
  ⟨data, dUser (j.descs.headD 0), status, dOp (j.descs.headD 0), detail⟩
/-- A running job ends: its record waits to be written in its slot. -/
def State.endJob (s : State) (q : Nat) (slot : W32) (status detail : Nat) (data : W64) : State :=
  let x := s.qpOf q
  match x.job slot with
  | some j =>
    if j.st = .running then
      let s := s.setQp q (x.setJob { j with st := .done (j.record status detail data), acted := true })
      if status = St.aborted then s.qpCtr q 8 1 else s
    else s
  | none => s

/-- A stall ends; its length is counted in STALL_TIME_NS, and an EV_CQ_STALL that was due before it ended fires (R399,
R412). -/
def State.endStall (s : State) (q : Nat) : State :=
  let x := s.qpOf q
  match x.stall with
  | some (t, fired) =>
    let s := (s.setQp q { x with stall := none }).qpCtr q 11 ((s.clk - t) / 4)
    if !fired && x.set.stallUs != 0 && t + us x.set.stallUs < s.clk then s.fire q Ev.cqStall x.cplReserved else s
  | none => s
/-- A stall begins (R399). -/
def State.beginStall (s : State) (q : Nat) : State :=
  if (s.qpOf q).stall.isSome then s else (s.setQp q { s.qpOf q with stall := some (s.clk, false) }).qpCtr q 10 1

/-- CPL_DONE of the target has reached VALUE, as a signed difference (R402). -/
def State.waitMet (s : State) (target : Nat) (value : W32) : Bool := !((s.qpOf target).cplDone - value).getMsbD 0
/-- The target is in ERROR or RESET. -/
def State.targetDead (s : State) (t : Nat) : Bool := (s.qpOf t).state == 4 || (s.qpOf t).state == 0
/-- A change of a queue pair's CPL_DONE or state reaches the COUNTER_WAITs on it that nothing has ended (R402). -/
def State.tellWaiters (s : State) (t : Nat) : State :=
  s.qp.qps.foldl (fun s (x : Nat × Qp) =>
    match x.2.waiter with
    | some w =>
      let tell (ok : Bool) := s.setQp x.1 { s.qpOf x.1 with waiter := some { w with ended := some (s.clk, ok) } }
      if w.target ≠ t ∨ w.ended.isSome = true then s
      else if s.waitMet t w.value then tell true
      else if s.targetDead t then tell false
      else s
    | none => s) s
/-- The deadline of a wait, when it has one. -/
def Waiter.deadline (w : Waiter) : Option Nat := if w.timeoutUs = 0 then none else some (w.start + us w.timeoutUs)
/-- What ended a wait, when that was no later than its deadline. -/
def Waiter.inTime (w : Waiter) : Option Bool :=
  match w.ended, w.deadline with
  | some (t, ok), some d => if t ≤ d then some ok else none
  | some (_, ok), none => some ok
  | none, _ => none

/-- CPL_DONE over a run of written records: the passed jobs, and the index after them (R400). -/
def passDone (jobs : List Job) : Nat → W32 → List Job × W32
  | 0, i => ([], i)
  | n + 1, i =>
    match jobs.find? fun j => j.slot == i && j.st == .written with
    | some j => let r := passDone jobs n (i + 1); (j :: r.1, r.2)
    | none => ([], i)
/-- CPL_DONE advances over written records, and EV_COMPLETION fires as R410 gives. -/
def State.advanceDone (s : State) (q : Nat) : State :=
  let x := s.qpOf q
  let p := passDone x.jobs x.jobs.length x.cplDone
  if p.1.isEmpty then s
  else
    let s := s.setQp q { x with cplDone := p.2, jobs := x.jobs.filter fun j => !p.1.any (·.slot == j.slot) }
    (if x.set.notifyAll || p.1.any fun j => dNotify (j.descs.headD 0) then s.fire q Ev.completion p.2 else s).tellWaiters q

/-- DATA of a COUNTER_WAIT: CPL_DONE of its target when the wait ends (R397). -/
def State.waitData (s : State) (t : Nat) : W64 := (s.qpOf t).cplDone.setWidth 64
/-- A wait ends. -/
def State.endWait (s : State) (q : Nat) (w : Waiter) (status detail : Nat) : State :=
  (s.setQp q { s.qpOf q with waiter := none }).endJob q w.slot status detail (s.waitData w.target)
/-- A wait that something has ended in time ends with that; DETAIL bit 2 of the record is TIMED_OUT where its deadline
came first (R402). -/
def State.settleWait (s : State) (q : Nat) (w : Waiter) : State :=
  match w.inTime with
  | some true => s.endWait q w St.ok 0
  | some false => s.endWait q w St.queueError 0
  | none => s.endWait q w St.aborted 1
/-- The waiting queue pair is stopped, or may issue no more requests: its wait ends ABORTED unless it had ended before. -/
def State.cutWait (s : State) (q : Nat) : State :=
  match (s.qpOf q).waiter with
  | some w => if w.ended.isSome then s.settleWait q w else s.endWait q w St.aborted 0
  | none => s
/-- What was fetched and has not started is given up; a read that is outstanding brings no descriptor any more. -/
def Qp.refetch (x : Qp) : Qp := { x with fetched := x.workCi, descs := [], arrived := [], buffers := [] }
/-- STOPPING is entered with a cause; fetching stops and a waiting COUNTER_WAIT ends ABORTED (R402, R407). -/
def State.qpStopping (s : State) (q cause : Nat) : State :=
  let s := s.endStall q
  (s.setQp q { (s.qpOf q).refetch with state := 3, stopCause := cause }).cutWait q

/-- The device fetches the next descriptor, one at a time, up to WORK_PI (R387, R401); a read the firebreak denies stops
the queue pair as a failed fetch does (R407; 19 R578). -/
def State.qpFetch (s : State) (q : Nat) : State :=
  let x := s.qpOf q
  if x.state = 2 ∧ s.qpMayDma q = true ∧ x.fetched ≠ x.workPi ∧ x.fetching = false ∧ x.arrived.isEmpty = true then
    match (s.setQp q { x with fetching := true }).issueRead (s.qpOwner q) (.fetch q)
      (x.set.workBase + 32 * (x.fetched.toNat % 2 ^ x.set.workLog2)) 32 with
    | (s, true) => s
    | (s, false) => (s.setQp q { s.qpOf q with fetching := false }).qpStopping q 3
  else s

/-! ## Reads that fail (12 R368; 16 R468, R479; 17 R524; 18 R553) -/

/-- A connection enters ERROR with a reason: every outstanding message ends (16 R468). -/
def State.connFail (s : State) (c reason : Nat) : State :=
  let x := SMap.getD s.ra.conns c {}
  if x.state = 1 then
    let s := { s with ra := { s.ra with
      conns := SMap.set s.ra.conns c { x with state := 2, reason := reason, tx := [] }
      ctrs := SMap.set s.ra.ctrs (c / 65536) ((SMap.getD s.ra.ctrs (c / 65536) []).add 4 x.tx.length) } }
    let s := x.tx.foldl (fun s m => s.endJob x.set.qp m.slot St.queueError 12 (BitVec.ofNat 64 m.id.toNat)) s
    s.fire x.set.qp Ev.connError (BitVec.ofNat 32 (c + 2 ^ 24 * reason))
  else s
/-- The connection a REMOTE job names, when it is bound to the queue pair. -/
def State.jobConn (s : State) (q : Nat) (j : Job) : Option Nat :=
  let c := dConn (j.descs.headD 0)
  if (s.qpOf q).set.kind = 2 ∧ (SMap.getD s.ra.conns c {}).set.qp = q ∧ (SMap.getD s.ra.conns c {}).state ≠ 0 then some c
  else none
/-- DETAIL of a job whose read failed. -/
def readDetail (kind : Nat) : Nat := match kind with | 2 => 11 | 3 => 5 | 4 => 5 | _ => 0
/-- A job whose data goes out in frames as it is read: TX, and the WRITE and SEND of a connection. -/
def sendsFrames (op : Nat) : Bool := op == 0x10 || op == 0x20 || op == 0x22
/-- A running job ends with no answer: the connection it names enters ERROR. One that sends frames first abandons its frame
with CHECK 3 (R403; 16 R499). -/
def State.failJob (s : State) (q : Nat) (slot : W32) (status detail : Nat) : State :=
  match (s.qpOf q).job slot with
  | some j =>
    if j.st = .running then
      if sendsFrames (dOp (j.descs.headD 0)) then
        if j.cut.isSome then s else s.setQp q ((s.qpOf q).setJob { j with cut := some (status, detail) })
      else
        let s' := s.endJob q slot status detail 0
        match s.jobConn q j with
        | some c => s'.connFail c 11
        | none => s'
    else s
  | none => s
/-- A payload read of a job has failed. -/
def State.readFailed (s : State) (q : Nat) (slot : W32) : State :=
  s.failJob q slot St.aborted (readDetail (s.qpOf q).set.kind)

/-- The record of an ended job is written in its slot, or held: while the owner issues no requests (R370, R374), while
records are held under STOP_CAUSE 6, and when a firebreak refuses it (R407). -/
def State.writeRecord (s : State) (q : Nat) (slot : W32) (retry : Bool) : State :=
  let x := s.qpOf q
  match x.job slot with
  | some j =>
    match j.st with
    | .done r | .held r =>
      if !s.qpMayDma q || (x.stopCause = 6 && !retry) then
        (s.setQp q (x.setJob { j with st := .held r })).pmeCause (s.qpOwner q)
      else
        match s.dmaWrite (s.qpOwner q) (x.set.cplBase + 16 * (slot.toNat % 2 ^ x.set.cplLog2)) x.pasidOpt false
          (cplBytes r slot x.set.cplLog2) with
        | (s, .waits) => s
        | (s, .denied) | (s, .refused) =>
          let x := s.qpOf q
          let s := s.setQp q (x.setJob { j with st := .held r })
          if x.state = 2 then s.qpStopping q 6 else s
        | (s, .ok) =>
          ((s.setQp q ((s.qpOf q).setJob { j with st := .written })).qpCtr q 1 1).advanceDone q
    | _ => s
  | none => s
/-- Held records written in slot order (R371, R407); `retry` for those that a firebreak refused. -/
def State.writeHeld (s : State) (q : Nat) (retry : Bool) : State :=
  ((s.qpOf q).jobs.filter fun j => match j.st with | .held _ => true | _ => false).foldl
    (fun s j => s.writeRecord q j.slot retry) s
/-- HELD_COUNT of a function (12 R360). -/
def State.heldCount (s : State) (f : Nat) : Nat :=
  s.qp.qps.foldl (fun n x => if s.owner 2 x.1 = f then
    n + (x.2.jobs.filter fun j => match j.st with | .held _ => true | _ => false).length else n) 0

/-! ## Queue states (R407) -/

/-- STOPPED is entered, and EV_QP_STOPPED fires (R410). -/
def State.qpStopped (s : State) (q : Nat) : State :=
  let x := s.qpOf q
  (s.setQp q { x with state := 1 }).fire q Ev.qpStopped (BitVec.ofNat 32 x.stopCause)
/-- A queue pair enters ERROR (R395). -/
def State.qpError (s : State) (q reason : Nat) (idx : W32) : State :=
  let s := s.endStall q
  let s := s.setQp q { (s.qpOf q).refetch with state := 4, reason := reason, errIndex := idx }
  ((s.qpCtr q 9 1).fire q Ev.qpError (BitVec.ofNat 32 (reason + 65536 * (idx.toNat % 65536)))).tellWaiters q
/-- The tags of a queue pair's own reads. -/
def Purpose.ofQp (q : Nat) : Purpose → Bool
  | .fetch x => x == q
  | .payload x _ _ => x == q
  | .translate p _ _ => Purpose.ofQp q p
  | _ => false
/-- A read of the queue pair awaits its completion. -/
def State.qpReads (s : State) (q : Nat) : Bool := s.hp.tags.any fun t => Purpose.ofQp q t.purpose
/-- A read that fetches for the queue pair, or asks for the translation of one. -/
def Purpose.fetches (q : Nat) : Purpose → Bool
  | .fetch x => x == q
  | .translate p _ _ => Purpose.fetches q p
  | _ => false
/-- The fetch that is outstanding is given up: what it brings is discarded (R387). -/
def State.dropFetch (s : State) (q : Nat) : State :=
  let s := s.setQp q { s.qpOf q with fetching := false, arrived := [] }
  { s with hp := { s.hp with
      tags := s.hp.tags.map fun t => if Purpose.fetches q t.purpose then { t with purpose := .discard } else t
      waiting := s.hp.waiting.filter fun w => !Purpose.fetches q w.purpose } }
/-- START: held records first, then fetching resumes at WORK_CI (R407). -/
def State.qpStart (s : State) (q : Nat) : State :=
  let s := s.dropFetch q
  let s := s.setQp q { (s.qpOf q).refetch with state := 2, stopCause := 0, reason := 0, errIndex := 0 }
  (s.writeHeld q true).qpFetch q
/-- The held types of a queue pair's source are discarded (14 R417). -/
def State.qpSourceReset (s : State) (q : Nat) : State := s.setSrc q { s.src q with held := [], foundFull := [] }
/-- The connections bound to a queue pair return to RESET (16 R468). -/
def State.resetConns (s : State) (q : Nat) : State :=
  { s with ra := { s.ra with conns := s.ra.conns.filter fun c => !(c.2.state != 0 && c.2.set.qp == q) } }
/-- The jobs of a queue pair on the cipher engines end there. -/
def Engine.without (e : Engine) (q : Nat) : Engine :=
  { e with msgs := e.msgs.filter fun m => match m.msg with | .job x _ => x != q | _ => true }
/-- A clearing without its bindings to a queue pair (18 R552, R556). -/
def Cl.unbind (c : Cl) (q : Nat) : Cl :=
  let mine (h : Nat) : Bool := SMap.get c.chans h == some q
  { c with chans := c.chans.filter (·.2 != q), lines := c.lines.filter (·.2 != q),
           ready := c.ready.filter (!mine ·.1), credits := c.credits.filter (!mine ·.1) }
/-- What hangs on a queue pair that returns to RESET goes with it. -/
def State.qpRelease (s : State) (q : Nat) : State :=
  { s.resetConns q with
    ci := { s.ci with engines := s.ci.engines.map fun e => (e.1, e.2.without q) }
    clr := s.clr.map fun c => (c.1, c.2.unbind q) }
/-- The queue pair returns to RESET: settings, bindings and jobs go; its counters stay (R385, R407). -/
def State.qpToReset (s : State) (q : Nat) : State :=
  let s := s.endStall q
  (((s.setQp q { ctrs := (s.qpOf q).ctrs }).qpRelease q).qpSourceReset q).tellWaiters q
/-- The RESET command: jobs end without a record (R407). -/
def State.qpResetCmd (s : State) (q : Nat) : State :=
  let s := s.endStall q
  s.setQp q { (s.qpOf q).refetch with state := 3, stopCause := 5, resetting := true, jobs := [], waiter := none
                                      fetching := false }

/-- A command does not fit R407 (R408). -/
def State.startFits (s : State) (q : Nat) : Bool :=
  ((s.qpOf q).state == 1 || (s.qpOf q).state == 4) && (s.fn (s.qpOwner q)).busMaster
def State.stopFits (s : State) (q : Nat) : Bool := (s.qpOf q).state == 2 || (s.qpOf q).state == 4

/-! ## Doorbell pages (R390) -/

/-- The queue pair bound to a doorbell slot of a function. -/
def State.slotQp (s : State) (f slot : Nat) : Option Nat :=
  (s.qp.qps.find? fun x => x.2.state != 0 && x.2.set.slot == slot && s.owner 2 x.1 == f && x.1 / 4096 == fnPort f).map (·.1)
/-- A host write to a register of a doorbell page (12 R358). -/
def doorbell (s : State) (f slot off : Nat) (k : State → Nat → State) : State :=
  hostRequest s f (0x0400 + fnPort f) 2 (0x1000 * slot + off) 8 fun s =>
    match s.slotQp f slot with
    | some q => k s q
    | none => s.hostCtr (fnPort f) 12

/-- A WORK_PI write under the test of R387; descriptors beyond a WORK_PI that moves back are not used. -/
def State.workPiWrite (s : State) (q : Nat) (v : W32) : State :=
  let x := s.qpOf q
  if (v - x.workCi).toNat ≤ 2 ^ x.set.workLog2 then
    let n := (v - x.workCi).toNat
    let k := (x.fetched - x.workCi).toNat
    let s := s.setQp q { x with workPi := v }
    let s := if n ≤ k then s.dropFetch q else s
    let s := if n < k then s.setQp q { s.qpOf q with fetched := v, descs := x.descs.take n, buffers := x.buffers.take n }
      else s
    s.qpFetch q
  else s.qpCtr q 12 1
/-- WORK_PI_WRITE (R387). -/
def execWorkPiWrite (f slot : Nat) (v : W32) (s : State) : Res :=
  whenServing s fun s => doorbell s f slot 0 fun s q => s.workPiWrite q v


/-- A CPL_CI write under the test of R387; it may end a stall (R399). -/
def State.cplCiWrite (s : State) (q : Nat) (v : W32) : State :=
  let x := s.qpOf q
  if (x.cplDone - v).toNat ≤ 2 ^ x.set.cplLog2 then
    let s := s.setQp q { x with cplCi := v }
    if (x.cplReserved - v).toNat < 2 ^ x.set.cplLog2 then s.endStall q else s
  else s.qpCtr q 12 1
/-- CPL_CI_WRITE (R387). -/
def execCplCiWrite (f slot : Nat) (v : W32) (s : State) : Res :=
  whenServing s fun s => doorbell s f slot 8 fun s q => s.cplCiWrite q v

/-- CMD of a doorbell page: 1 START, 2 STOP, 3 RESET, each counted in CTRL_IGNORED where it does not fit (R407, R408). -/
def State.qpCtrl (s : State) (q v : Nat) : State :=
  match v with
  | 1 => if s.startFits q then s.qpStart q else s.qpCtr q 13 1
  | 2 => if s.stopFits q then s.qpStopping q 1 else s.qpCtr q 13 1
  | 3 => s.qpResetCmd q
  | _ => s
/-- QP_CTRL_START (R407, R408). -/
def execQpCtrlStart (f slot : Nat) (s : State) : Res :=
  whenServing s fun s => doorbell s f slot 0x10 fun s q => s.qpCtrl q 1
/-- QP_CTRL_STOP (R407, R408). -/
def execQpCtrlStop (f slot : Nat) (s : State) : Res :=
  whenServing s fun s => doorbell s f slot 0x10 fun s q => s.qpCtrl q 2
/-- QP_CTRL_RESET (R407). -/
def execQpCtrlReset (f slot : Nat) (s : State) : Res :=
  whenServing s fun s => doorbell s f slot 0x10 fun s q => s.qpCtrl q 3

/-- The drain of STOPPING has ended: every job has its record written or held, or for a RESET no read is outstanding. -/
def State.drained (s : State) (q : Nat) : Bool :=
  let x := s.qpOf q
  if x.resetting then !s.qpReads q
  else x.jobs.all fun j => match j.st with | .written => true | .held _ => true | _ => false
/-- QP_STOPPING_END (R407). -/
def execQpStoppingEnd (q : Nat) (s : State) : Res :=
  whenRunning s fun s =>
    if (s.qpOf q).state = 3 ∧ s.drained q = true then
      if (s.qpOf q).resetting then s.qpToReset q else s.qpStopped q
    else s

/-! ## Descriptors and jobs -/

/-- Queue-pair descriptors checked and not yet in a started job. -/
def Qp.chain (x : Qp) : List Desc := openChain x.descs
/-- A fetched descriptor is checked (R395): it joins the descriptors, or stops the queue pair in ERROR. -/
def State.takeDesc (s : State) (q : Nat) : State :=
  let x := s.qpOf q
  match x.arrived with
  | d :: rest =>
    if x.state = 2 then
      match checkDesc x.set.kind (x.cipherClass != 0) x.chain d with
      | some reason => (s.qpCtr q 2 1).qpError q reason x.fetched
      | none =>
        ((s.setQp q { x with arrived := rest, fetched := x.fetched + 1, descs := x.descs ++ [d] }).qpCtr q 2 1).qpFetch q
    else s
  | [] => s
/-- DESCRIPTOR_FETCH (R395). -/
def execDescriptorFetch (q : Nat) (s : State) : Res := whenRunning s fun s => s.takeDesc q

/-- RX_POST (R394): a checked RX_POST descriptor of a NET_RX queue pair offers its buffer. -/
def execRxPost (q : Nat) (s : State) : Res :=
  whenRunning s fun s =>
    let x := s.qpOf q
    match x.descs with
    | d :: rest => if x.set.kind = 1 then s.setQp q { x with descs := rest, buffers := x.buffers ++ [d] } else s
    | [] => s

/-- A COUNTER_WAIT of the queue pair still waits, or has started and its row has not judged it yet (R401). -/
def Qp.waits (x : Qp) : Bool :=
  x.waiter.isSome || x.jobs.any fun j => dOp (j.descs.headD 0) == 2 && j.st == .running && !j.acted

/-- The conditions of R401 but for the completion slot and the fetched chain. -/
def State.mayStart (s : State) (q : Nat) (fence : Bool) : Bool :=
  let x := s.qpOf q
  x.state == 2 && s.qpMayDma q && !x.waits && (!fence || x.cplDone == x.cplReserved) && x.inProgress < 64
/-- A completion slot can be reserved (R398). -/
def Qp.hasSlot (x : Qp) : Bool := (x.cplReserved - x.cplCi).toNat < 2 ^ x.set.cplLog2

/-- The host addresses whose bytes a job reads before its opcode acts: its segments, or its input segments. -/
def readSegs (ds : List Desc) : List (Nat × Nat) :=
  match dOp (ds.headD 0) with
  | 0x10 | 0x50 => ds.map fun d => (dAddr d, dLen d)
  | 0x20 | 0x22 => (ds.drop 1).map fun d => (dAddr d, dLen d)
  | 0x40 | 0x41 | 0x42 | 0x43 | 0x44 | 0x45 => (inSegs ds).map fun d => (dAddr d, dLen d)
  | _ => []
/-- The payload reads of a job are issued, numbered in order (R363). -/
def State.issuePieces (s : State) (q : Nat) (slot : W32) : Nat → List (Nat × Nat) → State
  | _, [] => s
  | i, (a, n) :: rest =>
    match s.issueRead (s.qpOwner q) (.payload q slot i) a n with
    | (s, true) => s.issuePieces q slot (i + 1) rest
    | (s, false) => s.readFailed q slot

/-! ## Cipher jobs at their start (17 R511, R513, R517, R523, R524) -/

/-- The entry a handle names is valid, and its generation is the handle's (17 R513). -/
def State.cipherKey (s : State) (h : Nat) : Option CKey :=
  (SMap.get s.ci.keys (h % 2 ^ 20)).filter fun k => k.valid && !k.destroying && k.gen == some (h / 2 ^ 20) && h % 2 ^ 20 != 0
/-- The entry a handle names, for a job that started before the handle was destroyed (17 R515). -/
def State.cipherEntry (s : State) (h : Nat) : CKey := SMap.getD s.ci.keys (h % 2 ^ 20) {}
/-- A cipher engine of a grove; by default the two lowest run in suspendable mode (17 R506). -/
def State.engine (s : State) (g e : Nat) : Engine := SMap.getD s.ci.engines (4 * g + e) { suspendable := e < 2 }
/-- The live engines of a class in a grove. -/
def State.engines (s : State) (g : Nat) (susp : Bool) : List Nat :=
  (s.live 0x06 g 4).filter fun e => (s.engine g e).suspendable == susp
/-- Counter `i` of 17 R535 of a grove raised by `n`. -/
def State.ciCtr (s : State) (g i n : Nat) : State :=
  { s with ci := { s.ci with ctrs := SMap.set s.ci.ctrs g ((SMap.getD s.ci.ctrs g []).add i n) } }
/-- KEY_HANDLE of a cipher header. -/
def keyHandle (ds : List Desc) : Nat := dBits (ds.headD 0) 255 224
/-- ALG and USE fit an opcode (17 R518). -/
def keyFits (k : CKey) (op : Nat) : Bool :=
  match op with
  | 0x40 | 0x41 => k.use == 1 && 1 ≤ k.alg && k.alg ≤ 3
  | 0x42 | 0x43 => k.use == 1 && 4 ≤ k.alg
  | _ => k.use == 4 && k.alg ≤ 3
/-- Bytes an opcode holds until its tag has verified (17 R511). -/
def heldBytes (susp : Bool) (ds : List Desc) : Nat :=
  match dOp (ds.headD 0) with
  | 0x41 => cipherLen susp ds
  | 0x45 => cipherLen susp ds - 16
  | _ => 0
/-- What a cipher job ends with before any of its input is read, in the order of 17 R524: status and DETAIL. -/
def State.cipherRefusal (s : State) (q : Nat) (ds : List Desc) : Option (Nat × Nat) :=
  let h := keyHandle ds
  let x := s.qpOf q
  match s.cipherKey h with
  | none => some (St.notFound, 4)
  | some k =>
    if k.owner ≠ s.qpOwner q then some (St.notOwner, 4)
    else if !keyFits k (dOp (ds.headD 0)) then some (St.badArg, 4)
    else if (s.engines (q / 4096) (x.cipherClass != 0)).isEmpty then some (St.aborted, 3)
    else if x.cipherClass = 0 ∧ 524288 < heldBytes false ds then some (St.tooLong, 2)
    else if k.use = 4 ∧ 2 ^ 64 - 1 ≤ k.seq then some (St.noSpace, 0)
    else none
/-- A cipher job ends without an engine, with its counter. -/
def State.refuseCipher (s : State) (q : Nat) (slot : W32) (status detail : Nat) : State :=
  let g := q / 4096
  let s := if detail = 3 then s.ciCtr g 7 1 else if detail = 2 then s.ciCtr g 6 1 else s
  s.endJob q slot status detail 0
/-- A TLS job takes the next sequence number of its key. -/
def State.takeSeq (s : State) (q : Nat) (slot : W32) (ds : List Desc) : State :=
  let h := keyHandle ds
  let k := s.cipherEntry h
  let x := s.qpOf q
  if k.use = 4 then
    { s.setQp q { x with jobs := x.jobs.map fun j => if j.slot = slot then { j with seq := k.seq } else j } with
      ci := { s.ci with keys := SMap.set s.ci.keys (h % 2 ^ 20) { k with seq := k.seq + 1 } } }
  else s

/-- A job starts: it takes the next completion slot, WORK_CI passes its descriptors, and its reads are issued. -/
def State.startJob (s : State) (q : Nat) (ch : List Desc) : State :=
  let x := s.qpOf q
  let ps := (readSegs ch).flatMap fun a => splitAccess a.1 a.2 (s.fn (s.qpOwner q)).mrrs
  let j : Job := { slot := x.cplReserved, first := x.workCi, descs := ch, piecesLeft := ps.length, start := s.clk }
  let s := s.setQp q { x with cplReserved := x.cplReserved + 1, workCi := x.workCi + BitVec.ofNat 32 ch.length,
                              jobs := x.jobs ++ [j] }
  let s := (s.endStall q).qpCtr q 0 1
  if x.set.kind = 3 then
    match s.cipherRefusal q ch with
    | some (st, detail) => s.refuseCipher q j.slot st detail
    | none => (s.takeSeq q j.slot ch).issuePieces q j.slot 0 ps
  else s.issuePieces q j.slot 0 ps
/-- JOB_START (R401): the next whole chain starts, or stalls for want of a completion slot (R399). -/
def execJobStart (q : Nat) (s : State) : Res :=
  whenRunning s fun s =>
    let x := s.qpOf q
    match takeChain x.descs with
    | some (ch, rest) =>
      if x.set.kind ≠ 1 ∧ s.mayStart q (dFence (ch.headD 0)) = true then
        if x.hasSlot then (s.setQp q { x with descs := rest }).startJob q ch else s.beginStall q
      else s
    | none => s

/-- CQ_STALL_TIMEOUT (R399): EV_CQ_STALL fires once for a stall that still holds at s + STALL_US. -/
def execCqStallTimeout (q : Nat) (s : State) : Res :=
  whenRunning s fun s =>
    let x := s.qpOf q
    match x.stall with
    | some (t, false) =>
      if x.set.stallUs = 0 then s
      else
        ((s.upToClk (t + us x.set.stallUs)).setQp q { x with stall := some (t, true) }).fire q Ev.cqStall x.cplReserved
    | _ => s

/-- JOB_COMPLETE (R398): the record of an ended job is written, or held. -/
def execJobComplete (q : Nat) (slot : W32) (s : State) : Res := whenRunning s fun s => s.writeRecord q slot false

/-- A running job of a queue pair with an opcode, whose reads have all arrived and on which its row has not acted. -/
def State.readyJob (s : State) (q : Nat) (slot : W32) (op : Nat) : Option Job :=
  ((s.qpOf q).job slot).filter fun j =>
    dOp (j.descs.headD 0) == op && j.st == .running && j.piecesLeft == 0 && !j.acted && j.cut.isNone
/-- The bytes a job has read, in order. -/
def Job.data (j : Job) : List Byte := j.pieces.flatMap (·.2)
/-- The queue pair with a job marked as acted on. -/
def State.markActed (s : State) (q : Nat) (j : Job) : State := s.setQp q ((s.qpOf q).setJob { j with acted := true })

/-- A running job of an opcode whose read failed and whose frame has not got CHECK 3 yet, with what it ends with (R403). -/
def State.cutJob (s : State) (q : Nat) (slot : W32) (op : Nat) : Option (Job × Nat × Nat) :=
  ((s.qpOf q).job slot).bind fun j =>
    if j.st = .running ∧ dOp (j.descs.headD 0) = op then j.cut.map fun r => (j, r) else none
/-- The bytes a job has read before the first piece that has not come. -/
def Job.before (j : Job) : List Byte :=
  (((j.pieces.zip (List.range j.pieces.length)).takeWhile fun x => x.1.1 == x.2).map (·.1.2)).flatten

/-- QP_NOP (R394). -/
def execQpNop (q : Nat) (slot : W32) (s : State) : Res :=
  whenRunning s fun s => if (s.readyJob q slot 1).isSome then s.endJob q slot St.ok 0 0 else s

/-- COUNTER_WAIT (R402): the outcomes at start in table order, else it waits. -/
def execCounterWait (q : Nat) (slot : W32) (s : State) : Res :=
  whenRunning s fun s =>
    match s.readyJob q slot 2 with
    | some j =>
      let d := j.descs.headD 0
      let t := dBits d 255 240
      let v := BitVec.ofNat 32 (dBits d 223 192)
      if s.groves ≤ t / 4096 then s.endJob q slot St.notPresent 0 0
      else if s.qpOwner t ≠ s.qpOwner q then s.endJob q slot St.notOwner 0 0
      else if s.waitMet t v then s.endJob q slot St.ok 0 (s.waitData t)
      else if s.targetDead t then s.endJob q slot St.queueError 0 (s.waitData t)
      else if (s.qpOf q).state = 3 ∨ (s.fn (s.qpOwner q)).busMaster = false then s.endJob q slot St.aborted 0 (s.waitData t)
      else
        let s := s.markActed q j
        s.setQp q { s.qpOf q with
          waiter := some { slot := slot, target := t, value := v, start := j.start, timeoutUs := dBits d 191 160 } }
    | none => s
/-- COUNTER_WAIT_SATISFIED (R402): the wait is satisfied, or its target has entered ERROR or RESET. -/
def execCounterWaitSatisfied (q : Nat) (slot : W32) (s : State) : Res :=
  whenRunning s fun s =>
    match (s.qpOf q).waiter with
    | some w => if w.slot = slot ∧ w.ended.isSome = true then s.settleWait q w else s
    | none => s
/-- COUNTER_WAIT_TIMEOUT (R402). -/
def execCounterWaitTimeout (q : Nat) (slot : W32) (s : State) : Res :=
  whenRunning s fun s =>
    match (s.qpOf q).waiter, (s.qpOf q).waiter.bind Waiter.deadline with
    | some w, some d => if w.slot ≠ slot ∨ w.inTime.isSome = true then s else (s.upToClk d).endWait q w St.aborted 1
    | _, _ => s

/-! ## Commands (R411) -/

/-- A queue pair that exists on the variant. -/
def State.qpPresent (s : State) (q : Nat) : Bool := q < 4096 * s.groves
/-- The checks the commands on one queue pair share. -/
def qpCmd (len : Nat) (wf : List Byte → Bool) (k : State → Request → Nat → Except Nat Done) : Body := fun s r =>
  let q := fld r.payload 0 2
  chk (r.payload.length == len && wf r.payload) St.badArg <|
  chk (s.qpPresent q) St.notPresent <| chk (s.owns r.actor 2 q) St.notOwner <| k s r q

/-- Doorbell slots of an owner (R384). -/
def doorbellSlots (f : Nat) : Nat := if (vfOf f).isSome then 64 else 4096
/-- The doorbell pages that an emulated NVMe controller of a function holds at all times (15 R461). -/
def nvmePage (f slot : Nat) : Bool :=
  match vfOf f with | some v => 512 ≤ v && slot ≤ 62 | none => fnLocal f == 1 && slot ≤ 258

/-- QUEUE.QP_SET (R384). -/
def qpSetBody : Body := fun s r =>
  let p := r.payload
  let q := fld p 0 2
  let kind := fld p 2 1
  let fl := fld p 5 1
  let f := s.qpOwner q
  chk (p.length == 40 && kind ≤ 4 && 6 ≤ fld p 3 1 && fld p 3 1 ≤ 16 && 6 ≤ fld p 4 1 && fld p 4 1 ≤ 16 && fl < 32 &&
    bits fl 4 3 ≤ 2 && (kind == 1 || bits fl 4 3 == 0) && fld p 8 8 % 4096 == 0 && fld p 16 8 % 4096 == 0 &&
    (if bit fl 1 then fld p 24 4 < 2 ^ 20 else fld p 24 4 == 0) && zeroAt p 30 2 && fld p 32 4 ≤ 1000000 &&
    zeroAt p 36 4) St.badArg <|
  chk (s.qpPresent q && (kind != 3 || s.hasCipher) && (kind != 4 || s.clearings != 0)) St.notPresent <|
  chk (s.owns r.actor 2 q) St.notOwner <| chk ((s.qpOf q).state == 0) St.busy <|
  chk (f != operator && fnLocal f != 2) St.denied <| chk (fld p 6 2 < doorbellSlots f) St.badArg <|
  chk ((s.slotQp f (fld p 6 2)).isNone && !nvmePage f (fld p 6 2)) St.exists_ <|
  chk (!s.groveFailed (q / 4096)) St.internal <|
  done (s.setQp q { state := 1, set := ⟨kind, fld p 3 1, fld p 4 1, BitVec.ofNat 8 fl, fld p 6 2, fld p 8 8, fld p 16 8,
                                        fld p 24 4, fld p 28 2, fld p 32 4⟩ })
def execQueueQpSet (s : State) : Res := slaotRow 0x0501 qpSetBody s

/-- The QP_SET record (R384). -/
def QpSet.record (x : QpSet) (q : Nat) : List Byte :=
  leBytes 2 q ++ leBytes 1 x.kind ++ leBytes 1 x.workLog2 ++ leBytes 1 x.cplLog2 ++ leBytes 1 x.flags.toNat ++
    leBytes 2 x.slot ++ leBytes 8 x.workBase ++ leBytes 8 x.cplBase ++ leBytes 4 x.pasid ++ leBytes 2 x.tenant ++
    zeros 2 ++ leBytes 4 x.stallUs ++ zeros 4
/-- QP_STATUS (R391). -/
def State.qpStatus (s : State) (q : Nat) : Nat :=
  let x := s.qpOf q
  x.state + 8 * x.set.kind + 64 * b2n (x.state != 0 && (s.fn (s.qpOwner q)).d3hot) + 128 * b2n x.stall.isSome +
    256 * (if x.state = 4 then x.reason else 0) + 4096 * x.stopCause + 2 ^ 32 * x.errIndex.toNat
/-- QUEUE.QP_GET. -/
def qpGetBody : Body := qpCmd 4 (zeroAt · 2 2) fun s _ q =>
  let x := s.qpOf q
  done s (x.set.record q ++ leBytes 8 (s.qpStatus q) ++ leBytes 4 x.workPi.toNat ++ leBytes 4 x.workCi.toNat ++
    leBytes 4 x.cplReserved.toNat ++ leBytes 4 x.cplDone.toNat ++ leBytes 4 x.cplCi.toNat ++
    leBytes 1 x.inProgress ++ zeros 3)
def execQueueQpGet (s : State) : Res := slaotRow 0x0502 qpGetBody s

/-- QUEUE.QP_STATE (R408): CMD 0 is none. One that would change a queue pair of a failed grove is refused (21 R619). -/
def qpStateBody : Body := qpCmd 4 (fun p => fld p 2 1 ≤ 3 && zeroAt p 3 1) fun s r q =>
  let works := !s.groveFailed (q / 4096)
  match fld r.payload 2 1 with
  | 1 =>
    if (s.qpOf q).state = 3 then .error St.busy
    else if (s.qpOf q).state = 0 then .error St.badArg
    else if s.startFits q then chk works St.internal <| done (s.qpStart q)
    else done s
  | 2 => if s.stopFits q then chk works St.internal <| done (s.qpStopping q 1) else done s
  | 3 => if (s.qpOf q).state = 0 then done s else chk works St.internal <| done (s.qpResetCmd q)
  | _ => done s
/-- A request of QUEUE.QP_STATE with CMD `c`; every other CMD value belongs to the START row. -/
def isQpState (c : Nat) (r : Request) : Bool :=
  r.opcode == 0x0503 && (fld r.payload 2 1 == c || (c == 1 && (fld r.payload 2 1 == 0 || 3 < fld r.payload 2 1)))
def execQueueQpStateStart (s : State) : Res := requestRow (isQpState 1) qpStateBody s
def execQueueQpStateStop (s : State) : Res := requestRow (isQpState 2) qpStateBody s
def execQueueQpStateReset (s : State) : Res := requestRow (isQpState 3) qpStateBody s

/-- QUEUE.QP_STATS. -/
def qpStatsBody : Body := qpCmd 4 (zeroAt · 2 2) fun s _ q => done s (ctrBytes (s.qpOf q).ctrs 15)
def execQueueQpStats (s : State) : Res := slaotRow 0x0504 qpStatsBody s

end Sys2Proof.Machine
end

