-- ==== Sys2Proof/Machine/Frame.lean ====
section
/-! DEFINITION. What the frame path shares (09 to 11): frame tags, cells and slices, flow control toward the ingress
port, the cutter and the transit registers, the placing of segments, and the freeing of frames. -/
namespace Sys2Proof.Machine

/-! ## Accessors -/

/-- The tag of frame `n` of grove `g`, and its ingress grove (10 R287). -/
def tagOf (g n : Nat) : Nat := g * 2 ^ 20 + n % 2 ^ 20
/-- The key of a mirror copy in the slice of its own grove, which takes no FRAME_NUMBER (11 R339): above every tag. -/
def localKey (g n : Nat) : Nat := 2 ^ 24 * (n + 1) + g * 2 ^ 20
def tagGrove (t : Nat) : Nat := t / 2 ^ 20 % 16
def State.frame (s : State) (t : Nat) : Option FrameRec := SMap.get s.cn.frames t
def State.setFrame (s : State) (t : Nat) (f : FrameRec) : State :=
  { s with cn := { s.cn with frames := SMap.set s.cn.frames t f } }
/-- A frame changed, when it is still there. -/
def State.modFrame (s : State) (t : Nat) (k : FrameRec → FrameRec) : State :=
  match s.frame t with | some f => s.setFrame t (k f) | none => s
def State.slice (s : State) (g : Nat) : Slice := SMap.getD s.cn.slices g {}
def State.setSlice (s : State) (g : Nat) (x : Slice) : State :=
  { s with cn := { s.cn with slices := SMap.set s.cn.slices g x } }
/-- Counter `i` of R349 of a slice raised by `n`. -/
def State.sliceCtr (s : State) (g i n : Nat) : State := s.setSlice g { s.slice g with ctrs := (s.slice g).ctrs.add i n }
/-- Counter `i` of R317 of a grove raised by `n`. -/
def State.canopyCtr (s : State) (g i n : Nat) : State :=
  { s with cn := { s.cn with ctrs := SMap.set s.cn.ctrs g ((SMap.getD s.cn.ctrs g []).add i n) } }
def State.eth (s : State) (n : Nat) : PortSt := SMap.getD s.et.ports n {}
def State.setEth (s : State) (n : Nat) (x : PortSt) : State := { s with et := { s.et with ports := SMap.set s.et.ports n x } }
/-- Counter `i` of R159 of a port raised by `n`. -/
def State.ethCtr (s : State) (n i k : Nat) : State := s.setEth n { s.eth n with ctrs := (s.eth n).ctrs.add i k }
def State.portCfg (s : State) (n : Nat) : PortCfg := SMap.getD s.cfg.ports n {}
def State.sliceCfg (s : State) (g : Nat) : SliceCfg := SMap.getD s.cfg.slices g {}
def State.egressCfg (s : State) (n : Nat) : EgressCfg := SMap.getD s.cfg.egress n {}
/-- A port is up (05 R148). -/
def State.isUp (s : State) (n : Nat) : Bool := (s.eth n).state == 3
def State.parser (s : State) (g : Nat) : Parser := SMap.getD s.ps.groves g {}
def State.setParser (s : State) (g : Nat) (x : Parser) : State := { s with ps := { s.ps with groves := SMap.set s.ps.groves g x } }
/-- Counter `i` of 06 R188 raised by `n`. -/
def State.parseCtr (s : State) (g i n : Nat) : State := s.setParser g { s.parser g with ctrs := (s.parser g).ctrs.add i n }
def State.classifier (s : State) (g : Nat) : Classifier := SMap.getD s.cl.groves g {}
def State.setClassifier (s : State) (g : Nat) (x : Classifier) : State :=
  { s with cl := { s.cl with groves := SMap.set s.cl.groves g x } }
/-- Counter `i` of 07 R224 raised by `n`. -/
def State.classCtr (s : State) (g i n : Nat) : State :=
  s.setClassifier g { s.classifier g with ctrs := (s.classifier g).ctrs.add i n }

/-- A window [t, t + 1 s) of an event raised at most once in it: the window after one more occurrence, and whether the
event is raised now (20 R598). -/
def tally (w : Option (Nat × Nat)) (now : Nat) : (Nat × Nat) × Bool :=
  match w with
  | some (t, n) => if now < t + sec 1 then ((t, n + 1), false) else ((now, 1), true)
  | none => ((now, 1), true)
/-- Data of such an event: the grove in 3:0 and the count in 31:16, saturating. -/
def tallyData (g n : Nat) : W32 := BitVec.ofNat 32 (g + 65536 * min n 0xFFFF)

/-- Counter `i` of 21 R628 of a grove: 0 UNIT_LOSS_DROPS, 1 TRAIL_OVERRUN, 2 CORRECTED, 3 UNCORRECTED, 4 POISONED. -/
def State.healthCtr (s : State) (g i n : Nat) : State :=
  { s with hl := { s.hl with ctrs := SMap.set s.hl.ctrs g ((SMap.getD s.hl.ctrs g []).add i n) } }
/-- An uncorrectable error of a leaf: a log record, and EV_MEM_UNCORRECTED at most once in a window (21 R613, R627). -/
def State.uncorrectable (s : State) (l : LocWord) (syndrome : BitVec 8) : State :=
  let s := s.log l 2 1 (syndrome.setWidth 32)
  let s := { s with hl := { s.hl with uncorr := (s.hl.uncorr.filter fun (x : LocWord × Nat) => s.clk < x.2 + ms 1000) ++ [(l, s.clk)] } }
  let block := if groveKind l.kind then l.grove else 256
  let w := tally (SMap.get s.hl.memWindow block) s.clk
  let s := { s with hl := { s.hl with memWindow := SMap.set s.hl.memWindow block w.1 } }
  let s := if block < 256 then (s.healthCtr block 3 1).healthCtr block 4 1 else s
  let data := BitVec.ofNat 32 (l.grove + 65536 * l.kind + 2 ^ 24 * min w.1.2 255)
  if !w.2 then s else if block < 256 then s.fireDev block 5 Ev.memUncorrected data else s.fireAll 244 Ev.memUncorrected data

/-- The physical bank that serves a logical bank of a grove's tree memory (21 R615). -/
def State.physBank (s : State) (g b : Nat) : Nat := SMap.getD s.hl.bankMap (132 * g + b) b

/-! ## Fields of action entries and metadata records -/

/-- Bits `hi` to `lo` of an entry or record. -/
def eBits {w : Nat} (e : BitVec w) (hi lo : Nat) : Nat := bits e.toNat hi lo
/-- DISP, DEST, ROLE and VALID of an action entry (07 R210). -/
def eDisp (e : BitVec 512) : Nat := eBits e 6 3
def eDest (e : BitVec 512) : Nat := eBits e 31 8
def eRole (e : BitVec 512) : Nat := eBits e 2 1
def eValid (e : BitVec 512) : Bool := e.getLsbD 0
/-- A field of a record replaced. -/
def setBits {w : Nat} (m : BitVec w) (hi lo v : Nat) : BitVec w :=
  let k := BitVec.ofNat w (2 ^ (hi + 1 - lo) - 1) <<< lo
  (m &&& ~~~k) ||| ((BitVec.ofNat w v <<< lo) &&& k)
/-- PRIORITY, TENANT_ID, FLOW_HASH, L3_OFF, L4_OFF, INNER_OFF, TRAIL_HDRS of a metadata record (06 R165). -/
def mdPrio (m : BitVec 1024) : Nat := eBits m 186 184
def mdTenant (m : BitVec 1024) : Nat := eBits m 143 128
def mdHash (m : BitVec 1024) : Nat := eBits m 255 224
def mdL3 (m : BitVec 1024) : Nat := eBits m 167 160
def mdInner (m : BitVec 1024) : Nat := eBits m 183 176
def mdHdrs (m : BitVec 1024) : Nat := eBits m 151 144

/-- A frame with its check sequence. -/
def withFcs (bs : List Byte) : List Byte := bs ++ leBytes 4 (crc32 bs).toNat
/-- The check sequence of a frame passes (05 R137, 11). -/
def fcsOk (bs : List Byte) : Bool :=
  4 ≤ bs.length && leBytes 4 (crc32 (bs.take (bs.length - 4))).toNat == bs.drop (bs.length - 4)
/-- Cells of a frame of a length (10 R284). -/
def cellsOf (n : Nat) : Nat := (n + 255) / 256

/-- The ingress port of an Ethernet frame; a re-entered frame comes from its cipher engine (07 R218, 10 R296). -/
def FrameRec.port (f : FrameRec) : Option Nat := if f.kind = 0 ∧ f.md.getLsbD 103 = false then some f.id else none
/-- It is freed, or as good as freed: its check has failed it and its slice has still to hear so (09 R282, 10 R288). -/
def FrameRec.gone (f : FrameRec) : Bool := f.freed || (f.resolved && !f.released && !f.refused)
/-- Its order lane (09 R282). -/
def FrameRec.lane (f : FrameRec) : Nat := mdHash f.md % 1024
/-- A mirror copy (11 R340). -/
def FrameRec.isCopy (f : FrameRec) : Bool := match f.dec with | some (.copy ..) => true | _ => false
/-- The output grove of a decision of a frame of ingress grove `g` (07 R211). -/
def Decision.grove (d : Decision) (g : Nat) : Option Nat :=
  match d with
  | .free => none
  | .exception => some g
  | .act _ e =>
    match eDisp e with
    | 1 => some (eDest e % 512 / 32)
    | 2 => some (eDest e % 65536 / 4096)
    | 3 => some (eDest e % 32 / 2)
    | 4 => some (bits (eDest e) 19 16)
    | 5 | 6 => some g
    | _ => none
  | .copy _ kind dest _ _ => some (if kind = 1 then dest / 32 else if kind = 2 then dest / 4096 else dest / 2)
/-- The output grove of a frame, once it is decided. -/
def FrameRec.out (f : FrameRec) (t : Nat) : Option Nat := f.dec.bind fun d => d.grove (tagGrove t)
/-- The Ethernet port a frame is decided to. -/
def FrameRec.outPort (f : FrameRec) : Option Nat :=
  match f.dec with
  | some (.act _ e) => if eDisp e = 1 then some (eDest e % 512) else none
  | some (.copy _ 1 d _ _) => some d
  | _ => none

/-! ## Flow control toward the partner (05 R155, 11 R334) -/

/-- Cells a pair holds in the slice of a grove. -/
def State.heldCells (s : State) (g n p : Nat) : Nat := ((s.slice g).cells.filter fun c => c.2.pair == some (8 * n + p)).length
/-- Frames of the pair are lossless (11 R326). -/
def State.losslessPair (s : State) (n p : Nat) : Bool :=
  (s.portCfg n).flow == 1 || ((s.portCfg n).flow == 2 && (s.portCfg n).pfcPrios.getLsbD p)
/-- A MAC control frame of a port: opcode and what follows it. It counts in no TX_FRAMES or TX_OCTETS (assumption
log 35). -/
def State.macControl (s : State) (n op : Nat) (rest : List Byte) : State :=
  let bs := [0x01, 0x80, 0xC2, 0x00, 0x00, 0x01] ++ (s.portCfg n).mac ++ [0x88, 0x08] ++ beBytes 2 op ++ rest
  if s.isUp n then s.emit (.frame n (withFcs (bs ++ zeros (60 - bs.length)))) else s
/-- A PFC frame for the priorities listed with their quanta, each counted in TX_PFC. -/
def State.sendPfc (s : State) (n : Nat) (ps : List Nat) (quanta : Nat) : State :=
  let mask := ps.foldl (fun m p => m + 2 ^ p) 0
  let s := s.macControl n 0x0101 (beBytes 2 mask ++
    (List.range 8).flatMap fun p => beBytes 2 (if ps.contains p then quanta else 0))
  if s.isUp n then ps.foldl (fun s p => s.ethCtr n (16 + p) 1) s else s
/-- XOFF of a port, as its FLOW gives: every priority in XOFF, stamped as sent now. -/
def State.sendXoff (s : State) (n : Nat) : State :=
  let x := s.eth n
  let ps := x.xoff.map (·.1)
  let s := s.setEth n { x with xoff := x.xoff.map fun y => (y.1, s.clk) }
  if (s.portCfg n).flow = 1 then s.macControl n 0x0001 (beBytes 2 0xFFFF) else s.sendPfc n ps 0xFFFF
/-- The pair's state after a change of its held cells. With FLOW 1 the port has one state: a later priority sends no PAUSE,
and takes the stamp of the last one (05 R155). -/
def State.pfcUpdate (s : State) (n p : Nat) : State :=
  let x := s.eth n
  let off := (SMap.get x.xoff p).isSome
  if !s.losslessPair n p then s
  else if !off && s.groveList.any fun g => (s.sliceCfg g).xoffCells ≤ s.heldCells g n p then
    match (s.portCfg n).flow, x.xoff with
    | 1, (_, t) :: _ => s.setEth n { x with xoff := SMap.set x.xoff p t }
    | _, _ => (s.setEth n { x with xoff := SMap.set x.xoff p s.clk }).sendXoff n
  else if off && s.groveList.all fun g => s.heldCells g n p ≤ (s.sliceCfg g).xonCells then
    let left := SMap.del x.xoff p
    let s := s.setEth n { x with xoff := left }
    if (s.portCfg n).flow = 1 then if left = [] then s.macControl n 0x0001 (beBytes 2 0) else s
    else s.sendPfc n [p] 0
  else s
/-- The pair of a cell after a change. -/
def State.pairUpdate (s : State) (pair : Option Nat) : State :=
  match pair with | some x => s.pfcUpdate (x / 8) (x % 8) | none => s

/-! ## Cells (11 R318 to R328) -/

/-- Cells a pool has in use. -/
def Slice.used (sl : Slice) (pool : Nat) : Nat := (sl.cells.filter (·.2.pool == pool)).length
/-- Size of the shared pool (R325). -/
def SliceCfg.shared (c : SliceCfg) : Nat := 65536 - c.headroom - c.mirrorPool
/-- Cells of a slice that are retired (21 R611). -/
def State.retiredCells (s : State) (g : Nat) : List Nat :=
  (s.hl.retired.filter fun l => l.kind == 0x08 && l.grove == g && l.level == 1).map (·.leaf)
/-- Cells no frame uses that are off the free list: retired, or leaked and not yet reclaimed (R342). -/
def State.offList (s : State) (g : Nat) : List Nat :=
  ((s.retiredCells g).filter fun c => (SMap.get (s.slice g).cells c).isNone) ++ (s.slice g).lost
/-- FREE of R345. -/
def State.freeCells (s : State) (g : Nat) : Nat := 65536 - ((s.slice g).cells.length + (s.offList g).length)
/-- Free cells of the shared pool; a cell off the free list is taken out of it (assumption log 22). -/
def State.sharedFree (s : State) (g : Nat) : Nat :=
  (s.sliceCfg g).shared - (s.offList g).length - (s.slice g).used 0
/-- Frames of a grove that one of the given sources has started in the last 1.68 ns, over which the rates of 09 R278 and
21 R614 are taken: the time in which 32 minimum-size frames arrive at a grove's full Ethernet rate (DESIGN CHOICE, assumption log 41). -/
def State.startedIn (s : State) (g : Nat) (who : FrameRec → Bool) : Nat :=
  (s.cn.frames.filter fun x => tagGrove x.1 == g && !x.2.isCopy && who x.2 && 25 * s.now < 25 * x.2.first + 168).length
/-- The live trail pipelines of a grove accept one more frame beside `n`: each takes 4.2 frames in 1.68 ns. -/
def State.trailAccepts (s : State) (g n : Nat) : Bool := 5 * n < 21 * (s.live 0x02 g 8).length
/-- A source other than an Ethernet port may start a frame: its home slice has room (R328), and Ethernet frames, which
are served first, leave the grove's pipelines a turn (09 R278). -/
def State.maySource (s : State) (g : Nat) : Bool := 64 ≤ s.sharedFree g && s.trailAccepts g (s.startedIn g fun _ => true)
/-- The lowest key from `n` on that neither a map nor a list holds. -/
def firstFree {α : Type} (m : SMap α) (out : List Nat) : Nat → Nat → Nat
  | 0, n => n
  | k + 1, n => if (SMap.get m n).isSome || out.contains n then firstFree m out k (n + 1) else n
/-- The pool a new cell comes from (R326); none when it is refused. -/
def State.poolFor (s : State) (g : Nat) (mirror lossless : Bool) : Option Nat :=
  let sl := s.slice g
  let c := s.sliceCfg g
  if s.freeCells g = 0 then none
  else if mirror then if sl.used 2 < c.mirrorPool then some 2 else none
  else if 0 < s.sharedFree g then some 0
  else if lossless && sl.used 1 < c.headroom then some 1 else none
/-- While an audit walks, every touched cell is seen (R342). -/
def Slice.touch (sl : Slice) (c : Nat) : Slice := if sl.audit.isSome then { sl with seen := c :: sl.seen } else sl
/-- A counter that keeps the largest value. -/
def Ctrs.peak (c : Ctrs) (i n : Nat) : Ctrs := SMap.set c i (BitVec.ofNat 64 (max (SMap.getD c i 0).toNat n))
/-- The peak that gives FREE_MIN follows the free list (R349). -/
def State.noteFree (s : State) (g : Nat) : State :=
  s.setSlice g { s.slice g with ctrs := (s.slice g).ctrs.peak 15 (65536 - s.freeCells g) }
/-- A cell allocated to a tag: the cell taken, with SHARED_PEAK and the peak that gives FREE_MIN. -/
def State.allocCell (s : State) (g t : Nat) (mirror lossless : Bool) (pair : Option Nat) : Option (Nat × State) :=
  (s.poolFor g mirror lossless).map fun pool =>
    let sl := s.slice g
    let c := firstFree sl.cells (s.offList g) (sl.cells.length + (s.offList g).length) 0
    let sl := { sl.touch c with cells := SMap.set sl.cells c { tag := t, pool := pool, pair := pair } }
    (c, ((s.setSlice g { sl with ctrs := sl.ctrs.peak 14 (sl.used 0) }).noteFree g).pairUpdate pair)
/-- One more reference to a cell. -/
def State.refCell (s : State) (g c : Nat) : State :=
  let sl := s.slice g
  match SMap.get sl.cells c with
  | some x => s.setSlice g { sl.touch c with cells := SMap.set sl.cells c { x with refs := x.refs + 1 } }
  | none => s
/-- One reference fewer; at 0 the cell is free (R318). -/
def State.unrefCell (s : State) (g c : Nat) : State :=
  let sl := s.slice g
  match SMap.get sl.cells c with
  | some x =>
    if x.refs ≤ 1 then (s.setSlice g { sl.touch c with cells := SMap.del sl.cells c }).pairUpdate x.pair
    else s.setSlice g { sl.touch c with cells := SMap.set sl.cells c { x with refs := x.refs - 1 } }
  | none => s
/-- References given up one by one. -/
def State.unrefCells (s : State) (g : Nat) (cs : List Nat) : State := cs.foldl (fun s c => s.unrefCell g c) s

/-! ## Freeing frames -/

/-- The references a relay item holds: its own, and that of the copy whose bytes it carries (R318). -/
def Relay.refs (r : Relay) : List Nat := if r.copy then [r.cell, r.cell] else [r.cell]
/-- A frame's state anywhere in a slice goes: its tag, its place in a queue, its relay items and its cells. -/
def State.dropTag (s : State) (g t : Nat) : State :=
  let sl := s.slice g
  let cs := ((SMap.get sl.tags t).map fun x => x.cells.map (·.2)).getD []
  let rs := (sl.relay.filter (·.seg.tag == t)).flatMap Relay.refs
  if (SMap.get sl.tags t).isNone && rs.isEmpty then s
  else
    let s := s.setSlice g { sl with tags := SMap.del sl.tags t
                                    relay := sl.relay.filter (·.seg.tag != t)
                                    queues := sl.queues.map fun q => (q.1, q.2.filter (· != t))
                                    sinks := sl.sinks.map fun q => (q.1, q.2.filter (· != t))
                                    freed := t :: sl.freed }
    s.unrefCells g (cs ++ rs)
/-- A slice holds something of a tag. -/
def Slice.holds (sl : Slice) (t : Nat) : Bool := (SMap.get sl.tags t).isSome || sl.relay.any (·.seg.tag == t)
/-- A trail candidate of the frame is to be delivered: the walk returned an action and the FCS has passed (06 R179). -/
def FrameRec.candidateDue (f : FrameRec) : Bool := f.check == 1 && (f.hint.bind (·.action)).isSome
/-- A unit carries a segment of a tag. -/
def TUnit.has (u : TUnit) (t : Nat) : Bool := u.segs.any (·.tag == t)
/-- Something of a tag is in a slice, in the transit registers, or on its way into a slice. -/
def CanopySt.holds (c : CanopySt) (t : Nat) : Bool :=
  c.slices.any (fun x => x.2.holds t) || c.transit.any (fun x => x.2.any (·.has t)) || c.arriving.any fun x => x.2.any (·.has t)
/-- The record of a frame goes when nothing of it is left: freed or sent on, wholly arrived, past the trail, nowhere in
the canopy, no candidate due. -/
def State.reap (s : State) (t : Nat) : State :=
  match s.frame t with
  | some f =>
    if (f.freed || f.released) && f.last.isSome && f.stage != .trail && !f.candidateDue && !s.cn.holds t then
      { s with cn := { s.cn with
          frames := SMap.del s.cn.frames t
          slices := s.cn.slices.map fun x => (x.1, { x.2 with freed := x.2.freed.filter (· != t) }) } }
    else s
  | none => s
/-- A parse or a walk of the frame is abandoned (09 R282). -/
def State.abandon (s : State) (t : Nat) : State :=
  let g := tagGrove t
  let p := s.parser g
  let c := s.classifier g
  let s := if p.queue.contains t || p.threads.any (fun x => x.2.any (·.tag == t)) then
      s.setParser g { p with queue := p.queue.filter (· != t)
                             threads := p.threads.map fun x => (x.1, x.2.filter (·.tag != t)) }
    else s
  if c.keys.contains t || c.walks.any (·.tag == t) then
    s.setClassifier g { c with keys := c.keys.filter (· != t), walks := c.walks.filter (·.tag != t) }
  else s
/-- The TX job of a frame that waits for its stamp ends (13 R403). -/
def State.txEnd (s : State) (t : Nat) (stamp : Option Nat) : State :=
  match s.frame t with
  | some f =>
    match f.tx with
    | some (q, slot, true) =>
      (s.setFrame t { f with tx := none }).endJob q slot St.ok (b2n stamp.isSome) (BitVec.ofNat 64 (stamp.getD 0))
    | _ => s
  | none => s
/-- A frame is freed wherever it is, and resolved (R282, R322). Its record stays while segments of it are on their way. -/
def State.freeFrame (s : State) (t : Nat) : State :=
  let s := s.txEnd t none
  let s := s.modFrame t fun f => { f with resolved := true, freed := true }
  let s := s.groveList.foldl (fun s g => s.dropTag g t) (s.abandon t)
  s.reap t

/-! ## The cutter and the transit registers (10 R297 to R303) -/

/-- The runs of bytes `a` to `b` of a frame, none across a cell. -/
def cellRuns : Nat → Nat → Nat → List (Nat × Nat)
  | 0, _, _ => []
  | k + 1, a, b => if a < b then let n := min (256 - a % 256) (b - a); (a, n) :: cellRuns k (a + n) b else []
def TUnit.bytes (u : TUnit) : Nat := (u.segs.map (·.len)).foldl (· + ·) 0
/-- The unit can take another segment of a tag's bytes (R285, R295). -/
def TUnit.open_ (u : TUnit) : Bool := u.bytes < 512 && u.segs.length < 8
/-- Units of a grove's transit registers. -/
def State.transitOf (s : State) (g : Nat) : List TUnit := SMap.getD s.cn.transit g []
def State.setTransit (s : State) (g : Nat) (l : List TUnit) : State :=
  { s with cn := { s.cn with transit := SMap.set s.cn.transit g l } }
def State.arrivals (s : State) (g : Nat) : List TUnit := SMap.getD s.cn.arriving g []
def State.setArrivals (s : State) (g : Nat) (l : List TUnit) : State :=
  { s with cn := { s.cn with arriving := SMap.set s.cn.arriving g l } }
/-- A unit or local run on its way into the slice of grove `g`. -/
def State.arrive (s : State) (g : Nat) (u : TUnit) : State := s.setArrivals g (s.arrivals g ++ [u])
/-- Slots of a grove's transit registers in use: units not yet across their plane (R302). -/
def State.slotsUsed (s : State) (g : Nat) : Nat :=
  (s.transitOf g).length +
    (s.cn.arriving.map fun x => (x.2.filter fun u => u.source == g && u.plane.isSome && u.kind != 2).length).foldl (· + ·) 0
/-- The local path (R291). -/
def State.sendLocal (s : State) (g ctr : Nat) (x : Seg) : State :=
  (s.arrive g { dest := g, final := g, source := g, segs := [x] }).canopyCtr g ctr x.len
/-- A segment added to the first open unit of a target, and whether there is one. -/
def addToOpen (tgt : Nat) (x : Seg) : List TUnit → Option (List TUnit)
  | [] => none
  | u :: us =>
    if u.final = tgt ∧ u.open_ = true ∧ u.bytes + x.len ≤ 512 then some ({ u with segs := u.segs ++ [x] } :: us)
    else (addToOpen tgt x us).map (u :: ·)
/-- Room of the open unit of a target. -/
def roomFor (tgt : Nat) (us : List TUnit) : Nat :=
  ((us.find? fun u => u.final == tgt && u.open_).map fun u => 512 - u.bytes).getD 0
/-- The record of slices a frame's bytes went to (R300). -/
def State.noteSlice (s : State) (t g : Nat) : State :=
  s.modFrame t fun f => if f.slices.contains g then f else { f with slices := f.slices ++ [g] }
/-- A segment that fits one place goes to it: an open unit, a free slot, or the home slice as overflow (R298). -/
def State.sendWhole (s : State) (g tgt : Nat) (x : Seg) : State :=
  match addToOpen tgt x (s.transitOf g) with
  | some us => (s.setTransit g us).noteSlice x.tag tgt
  | none =>
    if s.slotsUsed g < 4 then
      (s.setTransit g (s.transitOf g ++ [{ dest := tgt, final := tgt, source := g, segs := [x] }])).noteSlice x.tag tgt
    else (s.sendLocal g 4 x).noteSlice x.tag g
/-- A segment toward its target (R298). -/
def State.sendSeg (s : State) (g tgt : Nat) (x : Seg) : State :=
  if tgt = g ∨ s.groveFailed tgt = true then (s.sendLocal g 3 x).noteSlice x.tag g
  else
    let r := roomFor tgt (s.transitOf g)
    if r = 0 ∨ x.len ≤ r then s.sendWhole g tgt x
    else (s.sendWhole g tgt { x with len := r, check := 0, total := 0 }).sendWhole g tgt
      { x with off := x.off + r, len := x.len - r }
/-- The target of a frame's next byte (R297); none when it sends no more (R299). -/
def FrameRec.target (f : FrameRec) (t : Nat) : Option Nat :=
  if f.freed then none else if f.dec.isSome && (f.byTrail || f.released) then f.out t else some f.steer
/-- The bytes of a frame up to `upto` are cut; with a check, its check goes on the last of them or by itself (R288). -/
def State.cutTo (s : State) (t upto check : Nat) : State :=
  match s.frame t with
  | none => s
  | some f =>
    let g := tagGrove t
    let upto := min upto f.bytes.length
    let s := s.setFrame t { f with cut := max f.cut upto }
    match f.target t with
    | none => s
    | some tgt =>
      let rs := cellRuns 70 f.cut upto
      let total := if check = 0 then 0 else f.bytes.length
      let send (s : State) (r : (Nat × Nat) × Bool) : State :=
        s.sendSeg g tgt { tag := t, off := r.1.1, len := r.1.2, check := if r.2 then check else 0, total := if r.2 then total else 0 }
      if rs.isEmpty then if check = 0 then s else send s ((upto, 0), true)
      else (rs.zip ((List.replicate (rs.length - 1) false) ++ [true])).foldl send s

/-- Bytes of a frame that have passed into the canopy by now: up to the 6.4 ns of the trail's result until that is posted,
and at no time more than MAX_FRAME (09 R277; 10 R297). -/
def State.arrivedBytes (s : State) (f : FrameRec) : Nat :=
  match f.last, f.port with
  | none, some n =>
    let d := if f.stage = .trail then min (5 * (s.now - f.first)) 128 else 5 * (s.now - f.first)
    min (min f.bytes.length (s.portCfg n).maxFrame) (d * s.speedGbps n / 160)
  | _, _ => f.bytes.length
/-- The bytes of every frame still arriving are cut as they pass (R297). -/
def State.cutArriving (s : State) : State :=
  s.cn.frames.foldl (fun s x => if x.2.last.isNone then s.cutTo x.1 (s.arrivedBytes x.2) 0 else s) s

/-! ## Placing segments in a slice (10 R289, R300, R304; 11 R320 to R327) -/

/-- A segment put on a relay queue, its cell referenced. -/
def State.relayTo (s : State) (g dest cell : Nat) (x : Seg) (stageOne : Bool) : State :=
  s.setSlice g { s.slice g with relay := (s.slice g).relay ++ [⟨dest, x, cell, stageOne, false⟩] }
/-- A frame's bytes in one slice are freed, and its later segments there are late (R305, R327). -/
def State.freeHere (s : State) (g t : Nat) : State :=
  let s := s.dropTag g t
  let sl := s.slice g
  s.setSlice g (if sl.freed.contains t then sl else { sl with freed := t :: sl.freed })
/-- A slice refuses a cell (R327): it frees the frame's cells and the frame is resolved. The other slices that hold bytes
of it free them where its check has come or its decision has been posted, or once one does. -/
def State.refuseCell (s : State) (g t : Nat) (lossless mirror : Bool) (session : Nat) : State :=
  let s := if mirror then
      let sl := s.slice g
      (s.setSlice g { sl with drops := SMap.set sl.drops session (SMap.getD sl.drops session 0 + 1) }).sliceCtr g 9 1
    else if lossless then
      let w := tally (s.slice g).headroomWindow s.clk
      let s := (s.setSlice g { s.slice g with headroomWindow := some w.1 }).sliceCtr g 4 1
      if w.2 then s.fireDev g 4 Ev.bufferHeadroom (tallyData g w.1.2) else s
    else s.sliceCtr g 3 1
  let s := ((s.freeHere g t).txEnd t none).modFrame t fun f => { f with resolved := true, refused := true }
  if (s.frame t).any fun f => f.released && !f.isCopy then s.freeFrame t
  else
    let s := s.groveList.foldl (fun s i =>
      if (SMap.get (s.slice i).tags t).any (·.check != 0) then s.freeHere i t else s) s
    s.reap t
/-- The pair an Ethernet frame's cells are counted for (R334); a mirror copy is no frame of its pair (R326). -/
def FrameRec.pair (f : FrameRec) : Option Nat := if f.isCopy then none else f.port.map fun n => 8 * n + mdPrio f.md
/-- A tag in a slice, opened by its first segment. -/
def State.sliceTag (s : State) (g t : Nat) : SliceTag := SMap.getD (s.slice g).tags t { firstSeg := s.clk }
def State.setSliceTag (s : State) (g t : Nat) (x : SliceTag) : State :=
  s.setSlice g { s.slice g with tags := SMap.set (s.slice g).tags t x }
/-- The cell a segment lands in, allocated when the tag has none there. -/
def State.cellFor (s : State) (g : Nat) (f : FrameRec) (x : Seg) : Option State :=
  let st := s.sliceTag g x.tag
  if x.len = 0 ∨ (SMap.get st.cells (x.off / 256)).isSome then some (s.setSliceTag g x.tag st)
  else
    (s.allocCell g x.tag f.isCopy f.lossless f.pair).map fun r =>
      r.2.setSliceTag g x.tag { st with cells := SMap.set st.cells (x.off / 256) r.1 }
/-- The tag after the segment's bytes and check have landed. -/
def SliceTag.land (st : SliceTag) (x : Seg) (now : Nat) : SliceTag :=
  let st := if x.len = 0 then st else { st with got := st.got + x.len, segs := st.segs ++ [(x.off, x.len)] }
  let st := if x.check = 0 then st else { st with check := x.check, total := x.total, checkAt := now }
  if st.check = 1 ∧ st.got = st.total then { st with st := 1 } else st
/-- The session of a copy. -/
def FrameRec.session (f : FrameRec) : Nat := match f.dec with | some (.copy x _ _ _ _) => x | _ => 0
/-- A segment of a tag freed here is discarded and counted (R305, R327). -/
def State.lateSeg (s : State) (g t : Nat) : State := (s.canopyCtr g 12 1).reap t
/-- One segment is placed: held, relayed on because the decision has gone elsewhere, or late (R289, R300, R322). -/
def State.place (s : State) (g : Nat) (x : Seg) : State :=
  match s.frame x.tag with
  | none => s.canopyCtr g 12 1
  | some f =>
    if f.freed || (s.slice g).freed.contains x.tag then s.lateSeg g x.tag
    else if 2 ≤ x.check then (s.sliceCtr g (if x.check = 2 then 1 else 2) 1).freeFrame x.tag
    else if f.refused && (x.check != 0 || f.released) then (s.freeHere g x.tag).reap x.tag
    else if f.released && f.out x.tag != some g then
      match f.out x.tag with
      | none => s.freeFrame x.tag
      | some d =>
        if x.len = 0 then s.relayTo g d 65536 x false
        else
          match s.allocCell g x.tag false f.lossless f.pair with
          | some (c, s) => s.relayTo g d c x false
          | none => s.refuseCell g x.tag f.lossless false 0
    else
      match s.cellFor g f x with
      | none => s.refuseCell g x.tag f.lossless f.isCopy f.session
      | some s =>
        let st := (s.sliceTag g x.tag).land x s.clk
        s.setSliceTag g x.tag { st with posted := st.posted || (f.released && f.out x.tag == some g) }
/-- A tag is opened in a slice by bytes that were bound for it and are lost: R305 frees its frame from this moment on. -/
def State.openTag (s : State) (g t : Nat) (st : SliceTag) : State :=
  match s.frame t with
  | some f =>
    if f.freed || (s.slice g).freed.contains t || (SMap.get (s.slice g).tags t).isSome then s else s.setSliceTag g t st
  | none => s
/-- A unit is lost (R306, R308): every frame that had bytes in it stays incomplete where it is assembled. -/
def State.loseUnit (s : State) (u : TUnit) : State :=
  u.segs.foldl (fun s x =>
    match s.frame x.tag with
    | some f => (s.openTag (if f.released then (f.out x.tag).getD u.final else u.final) x.tag { firstSeg := s.clk }).reap x.tag
    | none => s) s

/-- The bytes a slice holds of a frame decided elsewhere go on its relay queue, check last (R300); a tag that only lost
bytes opened is open at the output grove instead. -/
def State.relayTag (s : State) (g t dest : Nat) : State :=
  let sl := s.slice g
  match SMap.get sl.tags t with
  | none => s
  | some st =>
    let segs := st.segs.map fun r => (Seg.mk t r.1 r.2 0 0, SMap.getD st.cells (r.1 / 256) 0)
    let segs := if st.check = 0 then segs
      else match segs.getLast? with
        | some l => segs.dropLast ++ [({ l.1 with check := st.check, total := st.total }, l.2)]
        | none => [(Seg.mk t st.total 0 st.check st.total, 65536)]
    let s := s.setSlice g { sl with tags := SMap.del sl.tags t }
    let s := if segs.isEmpty then s.openTag dest t st else s
    let s := segs.foldl (fun s x => (s.relayTo g dest x.2 x.1 false).refCell g x.2) s
    s.unrefCells g (st.cells.map (·.2))

/-- A decision is released to every slice in the frame's record (R300); a frame a slice has refused is freed by it. -/
def State.postDecision (s : State) (t : Nat) : State :=
  match s.frame t with
  | none => s
  | some f =>
    match f.out t with
    | none => s.freeFrame t
    | some d =>
      if f.refused then s.freeFrame t
      else s.groveList.foldl (fun s g =>
        match SMap.get (s.slice g).tags t with
        | some st => if g = d then s.setSliceTag g t { st with posted := true } else s.relayTag g t d
        | none => s) s

/-- A fresh frame tag of a grove (10 R287, 11 R339). -/
def State.newTag (s : State) (g : Nat) : Nat × State :=
  let n := SMap.getD s.cn.numbers g 0
  (tagOf g n, { s with cn := { s.cn with numbers := SMap.set s.cn.numbers g ((n + 1) % 2 ^ 20) } })

end Sys2Proof.Machine
end

