-- ==== Sys2Proof/Machine/Canopy.lean ====
section
/-! DEFINITION. The canopy (10): plane schedulers, load-balanced rotation, the receiving of transfer units, incomplete
frames, plane failure, and the HEALTH.CANOPY commands. -/
namespace Sys2Proof.Machine

def State.plane (s : State) (p : Nat) : Plane := SMap.getD s.cn.planes p {}
def State.setPlane (s : State) (p : Nat) (x : Plane) : State :=
  { s with cn := { s.cn with planes := SMap.set s.cn.planes p x } }
/-- Canopy capacity in sixteenths (R314). -/
def State.capacity (s : State) : Nat :=
  ((List.range 8).map fun p => match (s.plane p).state with | 0 => 2 | 1 => 1 | 2 => 1 | _ => 0).foldl (· + ·) 0

/-! ## Transfer times (R285, R292, R311) -/

/-- The transfer time that contains the present moment: 1.28 ns is 128/25 units of 0.25 ns. -/
def State.ttNow (s : State) : Nat := (s.now - s.cn.start) * 25 / 128
/-- Input `i` holds a ready unit for output `j`: in its transit registers, or on its slice's relay queue. -/
def State.hasUnit (s : State) (i j : Nat) : Bool :=
  ((s.transitOf i).any (·.final == j)) || (s.slice i).relay.any (·.dest == j)
/-- The requests of every input (R292 step 1). -/
def State.requestsNow (s : State) : List (Nat × Nat) :=
  s.groveList.flatMap fun i => (s.groveList.filter fun j => i != j && s.hasUnit i j).map (i, ·)
/-- The place of a plane in the order of transfer time `c`: every input's plane pointer is at `c` mod 8 (R294). -/
def planePos (c p : Nat) : Nat := (p + 8 - c % 8) % 8
/-- A plane's turn: a row of a plane that comes after the planes done, in the order of the plane pointers, belongs to the
present transfer time; any other begins one, which moves time to it, cuts the bytes that have passed, and takes down the
requests. A plane that changes its mode waits for the transfer time it does so in (assumption log 20). -/
def State.beginIteration (s : State) (p : Nat) : State :=
  let c := s.ttNow
  if s.cn.tt = c ∧ s.cn.done ≠ [] ∧ s.cn.done.all (fun q => planePos c q < planePos c p) = true ∧ (s.plane p).since ≤ c then
    { s with cn := { s.cn with done := s.cn.done ++ [p] } }
  else
    let c := max (s.plane p).since (if s.cn.tt < c ∨ s.cn.done = [] then c else s.cn.tt + 1)
    let s := (s.upTo (s.cn.start + (c * 128 + 24) / 25)).cutArriving
    { s with cn := { s.cn with tt := c, done := [p], requests := s.requestsNow } }

/-- The first element of a list at or after `k`, counting upward modulo 16. -/
def firstFrom (k : Nat) (l : List Nat) : Option Nat :=
  (List.range 16).findSome? fun d => if l.contains ((k + d) % 16) then some ((k + d) % 16) else none
/-- G[j] and A[i] of a plane (R293). -/
def Plane.grantPtr (x : Plane) (j : Nat) : Nat := SMap.getD x.g j j
def Plane.acceptPtr (x : Plane) (p i : Nat) : Nat := SMap.getD x.a i ((i + p) % 16)

/-- The relay items for a destination that fit one unit, and the rest of the queue (R295). -/
def takeRelay (dest : Nat) : Nat → Nat → List Relay → List Relay × List Relay
  | _, _, [] => ([], [])
  | n, room, r :: rs =>
    if r.dest = dest ∧ n ≠ 0 ∧ r.seg.len ≤ room then
      let x := takeRelay dest (n - 1) (room - r.seg.len) rs
      (r :: x.1, x.2)
    else
      let x := takeRelay dest (if r.dest = dest then 0 else n) room rs
      (x.1, r :: x.2)
/-- A relay unit of grove `i` for `j` leaves on plane `p`, and its cells are given up (R300). -/
def State.sendRelay (s : State) (i j p : Nat) : State :=
  let x := takeRelay j 8 512 (s.slice i).relay
  let s := s.setSlice i { s.slice i with relay := x.2 }
  let s := s.unrefCells i (x.1.flatMap Relay.refs)
  let s := (s.canopyCtr i 0 1).canopyCtr i 7 1
  s.arrive j { plane := some p, dest := j, final := j, source := i, kind := 2, segs := x.1.map (·.seg) }
/-- The list without its first element that satisfies a test. -/
def dropFirst {α : Type} (q : α → Bool) : List α → List α
  | [] => []
  | x :: xs => if q x then xs else x :: dropFirst q xs
/-- Input `i` gives plane `p` its oldest unit for `j`, a transit unit before a relay unit (R294). -/
def State.sendUnit (s : State) (i j p : Nat) : State :=
  match (s.transitOf i).find? (·.final == j) with
  | some u =>
    let s := s.setTransit i (dropFirst (·.final == j) (s.transitOf i))
    (s.arrive j { u with plane := some p }).canopyCtr i 0 1
  | none => s.sendRelay i j p

/-- The groves a plane's scheduler grants to: those that have not failed (21 R617). -/
def State.grantable (s : State) (j : Nat) : Bool := !s.groveFailed j
/-- What the outputs grant: pairs of output and granted input (R293). -/
def State.grants (s : State) (p : Nat) : List (Nat × Nat) :=
  (s.groveList.filter s.grantable).filterMap fun j =>
    (firstFrom ((s.plane p).grantPtr j) ((s.cn.requests.filter (·.2 == j)).map (·.1))).map fun i => (j, i)
/-- Input `i` accepts at most one of its grants on plane `p` (R294). -/
def State.acceptOn (s : State) (p : Nat) (grants : List (Nat × Nat)) (i : Nat) : State :=
  let offered := (grants.filter (·.2 == i)).map (·.1)
  match firstFrom ((s.plane p).acceptPtr p i) (offered.filter fun j => s.hasUnit i j) with
  | some j =>
    let x := s.plane p
    let s := s.setPlane p { x with g := SMap.set x.g j ((i + 1) % 16), a := SMap.set x.a i ((j + 1) % 16) }
    (s.sendUnit i j p).canopyCtr i 2 (offered.length - 1)
  | none => s.canopyCtr i 2 offered.length
/-- PLANE_ITERATION (R292 to R294). -/
def execPlaneIteration (p : Nat) (s : State) : Res :=
  whenRunning s fun s =>
    if p < 8 ∧ (s.plane p).state = 0 then
      let s := s.beginIteration p
      let gs := s.grants p
      s.groveList.foldl (fun s i => s.acceptOn p gs i) s
    else s

/-- Cells that segments take of the relay queue of the slice they come to as stage one. -/
def TUnit.cellsTaken (u : TUnit) : Nat := (u.segs.filter (·.len != 0)).length
/-- Cells of stage-one relay a slice holds or is about to hold, its units in flight counted (R312). -/
def State.stageOneCells (s : State) (j : Nat) : Nat :=
  ((s.slice j).relay.filter fun r => r.stageOne && r.seg.len != 0).length +
    (((s.arrivals j).filter fun u => u.kind == 1 && u.final != j).map TUnit.cellsTaken).foldl (· + ·) 0
/-- A connection of a rotating plane (R311). -/
def State.connect (s : State) (p i : Nat) : State :=
  let j := (i + 1 + (s.cn.tt + p) % 15) % 16
  if s.groves ≤ j || s.groveFailed i || s.groveFailed j then s
  else if (s.transitOf i).any (·.final == j) then s.sendUnit i j p
  else if (s.slice i).relay.any (·.dest == j) then s.sendRelay i j p
  else
    match s.transitOf i with
    | u :: us =>
      if s.stageOneCells j + u.cellsTaken ≤ 4096 then
        (((s.setTransit i us).arrive j { u with plane := some p, dest := j, kind := 1 }).canopyCtr i 0 1).canopyCtr i 8 1
      else s
    | [] => s
/-- LB_CONNECTION (R311). -/
def execLbConnection (p : Nat) (s : State) : Res :=
  whenRunning s fun s =>
    if p < 8 ∧ ((s.plane p).state = 1 ∨ (s.plane p).state = 2) then
      let s := s.beginIteration p
      s.groveList.foldl (fun s i => s.connect p i) s
    else s

/-! ## Receiving (R289, R304 to R306, R312) -/

/-- A stage-one segment is put on the relay queue toward its final grove; its cell comes from the shared pool (11 R325). -/
def State.placeStageOne (s : State) (g final : Nat) (x : Seg) : State :=
  match s.frame x.tag with
  | none => s.canopyCtr g 12 1
  | some f =>
    if f.freed || (s.slice g).freed.contains x.tag then s.lateSeg g x.tag
    else if x.len = 0 then s.relayTo g final 65536 x true
    else
      match s.allocCell g x.tag false false f.pair with
      | some (c, s) => (s.relayTo g final c x true).noteSlice x.tag g
      | none => s.refuseCell g x.tag f.lossless false 0
/-- The moments still in the window of R307. -/
def recentPoisons (now : Nat) (l : List Nat) : List Nat := l.filter fun t => now < t + us 1
/-- The plane fails (R307, R308): the units in flight on it are lost, and Slaot owes its report. -/
def State.failPlane (s : State) (p reason crosspoint : Nat) : State :=
  let gone := s.cn.arriving.flatMap fun (x : Nat × List TUnit) => x.2.filter (·.plane == some p)
  let left := s.cn.arriving.map fun (x : Nat × List TUnit) => (x.1, x.2.filter (·.plane != some p))
  let s := gone.foldl (fun s u => s.loseUnit u) { s with cn := { s.cn with arriving := left } }
  s.setPlane p { s.plane p with state := 3, downDue := some (reason, crosspoint), modeDue := none }
/-- A poisoned unit of a plane; four in 1 µs and the plane has failed (R307). -/
def State.poisonPlane (s : State) (p crosspoint : Nat) : State :=
  let l := recentPoisons s.now (s.plane p).poisons ++ [s.now]
  let s := s.setPlane p { s.plane p with poisons := l }
  if 4 ≤ l.length ∧ (s.plane p).state ≠ 3 then s.failPlane p 2 crosspoint else s
/-- A poisoned unit is discarded and counted, and its frames stay incomplete (R306). -/
def State.poisonUnit (s : State) (g : Nat) (u : TUnit) : State :=
  let s := s.canopyCtr g 10 1
  let (syn, s) := s.fresh 8
  let s := match u.plane with
    | some p => (s.uncorrectable ⟨1, 0, 0, 0x20, p, 16 * u.source + g⟩ syn).poisonPlane p (16 * u.source + g)
    | none => s.uncorrectable (locUnit g 0x08 0) syn
  s.loseUnit u
/-- A unit's segments take their places. -/
def State.receive (s : State) (g : Nat) (u : TUnit) : State :=
  let s := if u.plane.isSome then s.canopyCtr g 1 1 else s
  if u.kind = 1 ∧ u.final ≠ g then u.segs.foldl (fun s x => s.placeStageOne g u.final x) (s.canopyCtr g 9 1)
  else u.segs.foldl (fun s x => s.place g x) s
/-- A payload word with an uncorrectable error: the frame whose bytes it holds is freed at once (R306). Which of the
segments with bytes holds the word is a free value. -/
def State.poisonPayload (s : State) (g : Nat) (u : TUnit) : State :=
  let (syn, s) := s.fresh 8
  let (k, s) := s.fresh 8
  let s := s.uncorrectable (match u.plane with | some p => ⟨1, 0, 0, 0x20, p, 16 * u.source + g⟩ | none => locUnit g 0x08 0) syn
  let bs := u.segs.filter (·.len != 0)
  match bs[k.toNat % max 1 bs.length]? with
  | some x => (s.freeFrame x.tag).receive g { u with segs := u.segs.filter (· != x) }
  | none => s.receive g u
/-- TRANSFER_UNIT_RECEIVE (R289, R306): `poison` 1 is an uncorrectable header or descriptor, 2 a payload word. -/
def execTransferUnitReceive (g poison : Nat) (s : State) : Res :=
  whenRunning s fun s =>
    match s.arrivals g with
    | u :: us =>
      let s := s.setArrivals g us
      if poison = 1 then s.poisonUnit g u else if poison = 2 then s.poisonPayload g u else s.receive g u
    | [] => s

/-- FRAME_INCOMPLETE_TIMEOUT (R305): 1 µs after the check, or 10 µs after the first segment, in device time. -/
def execFrameIncompleteTimeout (g t : Nat) (s : State) : Res :=
  whenRunning s fun s =>
    match SMap.get (s.slice g).tags t with
    | some st =>
      if st.st = 0 then
        let due := if st.check = 0 then st.firstSeg + us 10 else min (st.checkAt + us 1) (st.firstSeg + us 10)
        ((s.upToClk due).canopyCtr g 11 1).freeFrame t
      else s
    | none => s

/-! ## Plane failure and load-balanced mode (R307 to R313) -/

/-- Data of EV_PLANE_DOWN and EV_CANOPY_MODE (R315). -/
def State.planeData (s : State) (p reason : Nat) : W32 :=
  BitVec.ofNat 32 (2 ^ 24 * s.capacity + 4096 * reason + 256 * (s.plane p).state + p)
/-- What declares a plane failed (R307): missed markers, 4 poisoned units in 1 µs (which `poisonPlane` finds by itself),
or its start-up test, before the first transfer time. -/
def State.planeFails (s : State) (p reason : Nat) : Bool :=
  match reason with
  | 2 => 4 ≤ (recentPoisons s.now (s.plane p).poisons).length
  | 3 => s.cn.done.isEmpty
  | _ => true
/-- PLANE_FAILURE (R307, R308): units in flight on the plane are lost. -/
def execPlaneFailure (p reason crosspoint : Nat) (s : State) : Res :=
  whenRunning s fun s =>
    if p < 8 ∧ (s.plane p).state ≠ 3 ∧ s.planeFails p reason = true then s.failPlane p reason crosspoint else s
/-- PLANE_DOWN_REPORT (R308 step 6). -/
def execPlaneDownReport (p : Nat) (s : State) : Res :=
  whenServing s fun s =>
    match (s.plane p).downDue with
    | some (reason, cp) =>
      let s := s.setPlane p { s.plane p with downDue := none }
      (s.log ⟨1, 0, 0, 0x20, p, cp⟩ 6 2 (BitVec.ofNat 32 reason)).fireAll 240 Ev.planeDown (s.planeData p reason)
    | none => s
/-- SCHEDULER_MISMATCH (R310): the iteration of the plane whose grants differ. They are withheld, and the plane rotates
from the second transfer time after it. -/
def execSchedulerMismatch (p : Nat) (s : State) : Res :=
  whenRunning s fun s =>
    if p < 8 ∧ (s.plane p).state = 0 then
      let s := s.beginIteration p
      s.setPlane p { s.plane p with state := 1, modeDue := some 1, since := s.cn.tt + 2 }
    else s
/-- CANOPY_MODE_REPORT (R310 step 4). -/
def execCanopyModeReport (p : Nat) (s : State) : Res :=
  whenServing s fun s =>
    match (s.plane p).modeDue with
    | some reason => (s.setPlane p { s.plane p with modeDue := none }).fireAll 240 Ev.canopyMode (s.planeData p reason)
    | none => s
/-- LB_MODE_SWITCH (R310): at the next transfer-time boundary the plane follows LB_MASK; its bit for a plane in state 1
or 3 is ignored (R316). -/
def execLbModeSwitch (p : Nat) (s : State) : Res :=
  whenRunning s fun s =>
    let x := { s.plane p with since := max s.cn.tt s.ttNow + 1 }
    if 8 ≤ p then s
    else if x.state = 0 ∧ bit s.cn.lbMask p = true then s.setPlane p { x with state := 2, modeDue := some 2 }
    else if x.state = 2 ∧ bit s.cn.lbMask p = false then s.setPlane p { x with state := 0, modeDue := some 3 }
    else s

/-! ## Commands (R316) -/

/-- HEALTH.CANOPY_GET. -/
def canopyGetBody : Body := fun s r =>
  let g := fld r.payload 0 1
  chk (r.payload.length == 4 && zeroAt r.payload 1 3 && (g < 16 || g == 0xFF)) St.badArg <|
  chk (g == 0xFF || g < s.groves) St.notPresent <|
  done s ((List.range 8).flatMap (fun p => leBytes 1 (s.plane p).state) ++ leBytes 1 s.capacity ++
    leBytes 1 s.cn.lbMask ++ zeros 2 ++ (if g = 0xFF then [] else ctrBytes (SMap.getD s.cn.ctrs g []) 13))
def execHealthCanopyGet (s : State) : Res := slaotRow 0x0D20 canopyGetBody s
/-- HEALTH.CANOPY_SET. -/
def canopySetBody : Body := fun s r =>
  chk (r.payload.length == 4 && zeroAt r.payload 1 3) St.badArg <| chk (r.actor == operator) St.notOwner <|
  done { s with cn := { s.cn with lbMask := fld r.payload 0 1 } }
def execHealthCanopySet (s : State) : Res := slaotRow 0x0D21 canopySetBody s

end Sys2Proof.Machine
end

