-- ==== Sys2Proof/Machine/Edit.lean ====
section
/-! DEFINITION. The edits of a frame (07 R215 to R217), the congestion mark (11 R331) and the transparent clock
(05 R157): each from the bytes as they arrived to the bytes as they leave, without the check sequence. -/
namespace Sys2Proof.Machine

/-- Bytes written at an offset. -/
def setAt (b : List Byte) (o : Nat) (v : List Byte) : List Byte := b.take o ++ v ++ b.drop (o + v.length)
/-- The network-order field of `n` bytes at an offset. -/
def nfld (b : List Byte) (o n : Nat) : Nat := beNat (slice b o n)
/-- A one's-complement sum folded to 16 bits. -/
def fold16 (n : Nat) : Nat :=
  let m := n % 65536 + n / 65536
  m % 65536 + m / 65536
/-- The sum of the 16-bit words of bytes, an odd last byte padded with zero. -/
def wordSum : List Byte → Nat
  | [] => 0
  | [a] => 256 * a.toNat
  | a :: b :: r => 256 * a.toNat + b.toNat + wordSum r
/-- The Internet checksum. -/
def inetChecksum (bs : List Byte) : Nat := 0xFFFF - fold16 (fold16 (wordSum bs))
/-- A checksum updated for a changed word (RFC 1624). -/
def rfc1624 (hc m m' : Nat) : Nat := 0xFFFF - fold16 (fold16 ((0xFFFF - hc) + (0xFFFF - m) + m'))
/-- A 16-bit word of an IPv4 header replaced, with its checksum updated. -/
def setIpWord (b : List Byte) (l3 o v : Nat) : List Byte :=
  setAt (setAt b (l3 + 10) (beBytes 2 (rfc1624 (nfld b (l3 + 10) 2) (nfld b (l3 + o) 2) v))) (l3 + o) (beBytes 2 v)

/-- The IP version the trail found (06 R165): 4, 6 or 0. -/
def mdIp (m : BitVec 1024) : Nat := if bit (mdHdrs m) 2 then 4 else if bit (mdHdrs m) 3 then 6 else 0
/-- The ECN field of the outer IP header; none when there is none. -/
def ecnOf (m : BitVec 1024) (b : List Byte) : Option Nat :=
  match mdIp m with
  | 4 => some (nfld b (mdL3 m + 1) 1 % 4)
  | 6 => some (nfld b (mdL3 m + 1) 1 / 16 % 4)
  | _ => none
/-- ECN set to CE (RFC 3168), the IPv4 checksum updated (11 R331). -/
def markCe (m : BitVec 1024) (b : List Byte) : List Byte :=
  let l3 := mdL3 m
  match mdIp m with
  | 4 => setIpWord b l3 0 (nfld b l3 2 / 4 * 4 + 3)
  | 6 => setAt b (l3 + 1) [(b.getD (l3 + 1) 0) ||| 0x30]
  | _ => b

/-! ## The edits in their order (R215) -/

/-- How the edits of a frame ended. -/
inductive EditOut where
  | ok (b : List Byte)
  | fault
  | ttl
  deriving DecidableEq, Repr

/-- The offset of the EtherType after the tags. -/
def skipTags : Nat → List Byte → Nat → Nat
  | 0, _, o => o
  | k + 1, b, o => if nfld b o 2 = 0x8100 ∨ nfld b o 2 = 0x88A8 then skipTags k b (o + 4) else o
/-- The IP header after an Ethernet header and its tags: version and offset. -/
def innerIp (b : List Byte) : Option (Nat × Nat) :=
  let o := skipTags 16 b 12
  if nfld b o 2 = 0x0800 ∧ nfld b (o + 2) 1 / 16 = 4 then some (4, o + 2)
  else if nfld b o 2 = 0x86DD ∧ nfld b (o + 2) 1 / 16 = 6 then some (6, o + 2) else none
/-- DEC_TTL on a frame whose IP header is found. -/
def decTtl (b : List Byte) : Option (Nat × Nat) → EditOut
  | some (4, l3) =>
    let t := nfld b (l3 + 8) 1
    if t ≤ 1 then .ttl else .ok (setIpWord b l3 8 (nfld b (l3 + 8) 2 - 256))
  | some (_, l3) =>
    let t := nfld b (l3 + 7) 1
    if t ≤ 1 then .ttl else .ok (setAt b (l3 + 7) (beBytes 1 (t - 1)))
  | none => .fault
/-- Byte `i` of an entry. -/
def entryByte (e : BitVec 512) (i : Nat) : Byte := BitVec.ofNat 8 (eBits e (8 * i + 7) (8 * i))
/-- The template's bytes; none for an entry, or a continuation, that is not one (R216). -/
def templateBytes (table : Nat → BitVec 512) (i : Nat) : Option (List Byte) :=
  let e := table i
  let n := eBits e 19 13
  let first := (List.range 60).map fun k => entryByte e (4 + k)
  if !(eValid e && eRole e == 1 && 1 ≤ n && n ≤ 123) then none
  else if n ≤ 60 then some (first.take n)
  else
    let c := table (i + 1)
    if i + 1 < 65536 && eValid c && eRole c == 2 && eBits c 7 3 == 0 then
      some ((first ++ (List.range 63).map fun k => entryByte c (1 + k)).take n)
    else none
/-- The UDP checksum over IPv6; a result of 0 is sent as all ones. -/
def udp6Checksum (b : List Byte) (l3 udp : Nat) : Nat :=
  let seg := setAt (slice b udp (nfld b (udp + 4) 2)) 6 [0, 0]
  let v := inetChecksum (slice b (l3 + 8) 32 ++ beBytes 4 seg.length ++ beBytes 4 17 ++ seg)
  if v = 0 then 0xFFFF else v
/-- The fields the device writes into the prepended copy (R217). -/
def patchTemplate (patch l3 hash : Nat) (b : List Byte) : List Byte :=
  let v4 := patch == 1 || patch == 3
  let udp := if v4 then l3 + 4 * (nfld b l3 1 % 16) else l3 + 40
  let b := setAt b (udp + 4) (beBytes 2 (b.length - udp))
  let b := setAt b udp (beBytes 2 (0xC000 + hash % 0x4000))
  if patch = 0 then b
  else if v4 then
    let b := setAt (setAt (setAt b (udp + 6) [0, 0]) (l3 + 2) (beBytes 2 (b.length - l3))) (l3 + 4) [0, 0]
    let b := setAt b (l3 + 10) [0, 0]
    setAt b (l3 + 10) (beBytes 2 (inetChecksum (slice b l3 (udp - l3))))
  else
    let b := setAt b (l3 + 4) (beBytes 2 (b.length - l3 - 40))
    setAt b (udp + 6) (beBytes 2 (udp6Checksum b l3 udp))
/-- ENCAP (R216, R217). -/
def encap (table : Nat → BitVec 512) (i hash : Nat) (b : List Byte) : EditOut :=
  match templateBytes table i with
  | none => .fault
  | some t =>
    let e := table i
    let p := eBits e 23 20
    .ok (if p = 0 then t ++ b else patchTemplate p (eBits e 31 24) hash (t ++ b))
/-- The frame after DECAP, SET_DMAC and SET_SMAC, and where its IP header then is. -/
def editHead (e : BitVec 512) (m : BitVec 1024) (b : List Byte) : Option (List Byte × Option (Nat × Nat)) :=
  let decap := eBits e 63 60 == 4
  if decap && mdInner m == 0xFF then none
  else
    let b := if decap then b.drop (mdInner m) else b
    let ip := if decap then innerIp b else if mdIp m = 0 then none else some (mdIp m, mdL3 m)
    let b := if e.getLsbD 96 then setAt b 0 (beBytes 6 (eBits e 175 128)) else b
    some (if e.getLsbD 97 then setAt b 6 (beBytes 6 (eBits e 223 176)) else b, ip)
/-- The last edit: a tag pushed or popped, or a template prepended. -/
def editTail (table : Nat → BitVec 512) (e : BitVec 512) (m : BitVec 1024) (b : List Byte) : EditOut :=
  match eBits e 63 60 with
  | 1 =>
    let pcp := if e.getLsbD 76 then eBits e 79 77 else mdPrio m
    .ok (b.take 12 ++ [0x81, 0x00] ++ beBytes 2 (8192 * pcp + eBits e 75 64) ++ b.drop 12)
  | 2 => .ok (if nfld b 12 2 = 0x8100 ∨ nfld b 12 2 = 0x88A8 then b.take 12 ++ b.drop 16 else b)
  | 3 => encap table (eBits e 95 80) (mdHash m) b
  | _ => .ok b
/-- Zeros up to 60 bytes. -/
def pad60 (b : List Byte) : List Byte := b ++ zeros (60 - b.length)
/-- The edits of an action on a frame without its check sequence (R215). -/
def editFrame (table : Nat → BitVec 512) (e : BitVec 512) (m : BitVec 1024) (b : List Byte) : EditOut :=
  match editHead e m b with
  | none => .fault
  | some (b, ip) =>
    match if e.getLsbD 98 then decTtl b ip else .ok b with
    | .ok b =>
      match editTail table e m b with
      | .ok b => .ok (pad60 b)
      | x => x
    | x => x

/-! ## Transparent clock (05 R157) -/

/-- The offset of an IEEE 1588 event message in a frame, with its IP version and header when it is in UDP. -/
def ptpMessage (b : List Byte) : Option (Nat × Option (Nat × Nat)) :=
  let o := skipTags 2 b 12
  if nfld b o 2 = 0x88F7 then some (o + 2, none)
  else
    match innerIp b with
    | some (4, l3) =>
      let u := l3 + 4 * (nfld b l3 1 % 16)
      if nfld b (l3 + 9) 1 = 17 ∧ nfld b (u + 2) 2 = 319 then some (u + 8, some (4, l3)) else none
    | some (6, l3) =>
      if nfld b (l3 + 6) 1 = 17 ∧ nfld b (l3 + 42) 2 = 319 then some (l3 + 48, some (6, l3)) else none
    | _ => none
/-- The residence time added to correctionField of Sync, Delay_Req, Pdelay_Req and Pdelay_Resp. -/
def transparentClock (b : List Byte) (residence : Int) : List Byte :=
  match ptpMessage b with
  | none => b
  | some (o, ip) =>
    if 4 ≤ nfld b o 1 % 16 ∨ b.length < o + 34 then b
    else
      let b := setAt b (o + 8) (beBytes 8 ((BitVec.ofNat 64 (nfld b (o + 8) 8) + BitVec.ofInt 64 (residence * 16384)).toNat))
      match ip with
      | some (4, _) => setAt b (o - 2) [0, 0]
      | some (_, l3) => setAt b (o - 2) (beBytes 2 (udp6Checksum b l3 (o - 8)))
      | none => b

end Sys2Proof.Machine
end

