-- ==== Sys2Proof/Machine/Egress.lean ====
section
/-! DEFINITION. The output slice (11): eligibility, queues, the egress scheduler, mirroring, the free-list audit, and
the egress, slice and mirror commands. -/
namespace Sys2Proof.Machine

/-! ## Queues -/

/-- The cells a frame holds in a slice, as it arrived: edits are applied only as it leaves (07 R215). -/
def State.frameCells (s : State) (g t : Nat) : Nat := ((SMap.get (s.slice g).tags t).map (·.cells.length)).getD 0
/-- Cells queued in a list of frames of a slice. -/
def State.queuedCells (s : State) (g : Nat) (ts : List Nat) : Nat := (ts.map (s.frameCells g)).foldl (· + ·) 0
/-- An egress queue of a port. -/
def State.queue (s : State) (n tc : Nat) : List Nat := SMap.getD (s.slice (n / 32)).queues (8 * n + tc) []
/-- A sink queue. -/
def State.sinkQueue (s : State) (g : Nat) (k : Sink) : List Nat :=
  (((s.slice g).sinks.find? (·.1 == k)).map (·.2)).getD []
def State.setSink (s : State) (g : Nat) (k : Sink) (q : List Nat) : State :=
  let sl := s.slice g
  s.setSlice g { sl with sinks := if sl.sinks.any (·.1 == k) then sl.sinks.map fun x => if x.1 = k then (k, q) else x
                                  else sl.sinks ++ [(k, q)] }
/-- While an audit walks, the cells of a tag that is queued or leaves are seen (R342). -/
def State.touchTag (s : State) (g t : Nat) : State :=
  s.setSlice g ((s.sliceTag g t).cells.foldl (fun sl c => sl.touch c.2) (s.slice g))
/-- The tag is queued (R320), and the frame has joined the queue its decision names (R323). -/
def State.setQueued (s : State) (g t : Nat) : State :=
  ((s.touchTag g t).setSliceTag g t { s.sliceTag g t with st := 2 }).modFrame t fun f => { f with joined := true }
/-- PRIO_TO_TC of a port (05 R144). -/
def State.prioTc (s : State) (n p : Nat) : Nat := eBits (s.portCfg n).prioToTc (3 * p + 2) (3 * p)
/-- The sink a decision names (07 R211); none for an Ethernet port. -/
def FrameRec.sink (f : FrameRec) : Option Sink :=
  match f.dec with
  | some .exception => some .exception
  | some (.act _ e) =>
    match eDisp e with
    | 2 => some (.hostQueue (eDest e % 65536 + mdHash f.md % 2 ^ eBits e 35 32))
    | 3 => some (.clearing (eDest e % 32))
    | 4 => some (if eDest e % 256 = 0 then .exception else .service (eDest e % 256))
    | 5 => some .exception
    | 6 => some .cipher
    | _ => none
  | some (.copy _ 2 d _ _) => some (.hostQueue d)
  | some (.copy _ 3 d _ _) => some (.clearing d)
  | _ => none

/-- A frame joins the egress queue of a port (R329), or is freed under R149 or R330. -/
def State.joinPort (s : State) (g t n tc : Nat) (lossy : Bool) : State :=
  let q := s.queue n tc
  let c := s.egressCfg n
  if !s.isUp n then (s.ethCtr n 25 1).freeFrame t
  else if lossy && 2 ^ c.alpha * s.sharedFree g < 16 * (s.queuedCells g q + s.frameCells g t) then (s.sliceCtr g 5 1).freeFrame t
  else
    let sl := s.slice g
    (s.setSlice g { sl with queues := SMap.set sl.queues (8 * n + tc) (q ++ [t]) }).setQueued g t
/-- A frame joins a sink queue, or is freed under R333; the exception queue has the limit of 06 R175 in its place
(15 R452). -/
def State.joinSink (s : State) (g t : Nat) (k : Sink) (lossy : Bool) : State :=
  let q := s.sinkQueue g k
  if k = .exception then
    if 4096 ≤ q.length then (s.parseCtr g 9 1).freeFrame t else (s.setSink g k (q ++ [t])).setQueued g t
  else if lossy && (s.sliceCfg g).sinkLimit ≤ s.queuedCells g q then (s.sliceCtr g 6 1).freeFrame t
  else (s.setSink g k (q ++ [t])).setQueued g t
/-- A host queue that takes no frames: not NET_RX, or in RESET (13 R404). -/
def State.qpNotReady (s : State) (q : Nat) : Bool := (s.qpOf q).set.kind != 1 || (s.qpOf q).state == 0
/-- A frame joins the queue its decision names. -/
def State.joinQueue (s : State) (g t : Nat) (f : FrameRec) : State :=
  match f.sink with
  | some (.hostQueue q) =>
    if s.qpNotReady q then (s.qpCtr q 14 1).freeFrame t
    else (s.joinSink g t (.hostQueue q) (!f.lossless)).pmeCause (s.qpOwner q)
  | some (.clearing c) =>
    if (s.clearing c).state ≠ 4 then (s.clCtr c 4 1).freeFrame t else s.joinSink g t (.clearing c) (!f.lossless)
  | some k => s.joinSink g t k (!f.lossless)
  | none =>
    match f.outPort with
    | some n => s.joinPort g t n f.tc (!f.lossless)
    | none => s.freeFrame t

/-! ## Mirroring (R336 to R340) -/

def State.mirror (s : State) (x : Nat) : MirrorCfg := SMap.getD s.cfg.mirrors x {}
/-- A mirror session's grove. -/
def MirrorCfg.grove (m : MirrorCfg) : Nat :=
  if m.destKind = 1 then m.dest / 32 else if m.destKind = 2 then m.dest / 4096 else m.dest / 2
/-- The bytes of a copy of a frame (R338), with their check sequence. -/
def copyBytes (m : MirrorCfg) (b : List Byte) : List Byte :=
  let n := if m.truncate = 0 ∨ b.length ≤ m.truncate then b.length else m.truncate
  withFcs (b.take (n - 4))
/-- The copy's cells referenced in the slice that made it, as its own tag there (R339). -/
def State.shareCells (s : State) (g t c n : Nat) : State :=
  let cs := (s.sliceTag g t).cells.take n
  let s := cs.foldl (fun s x => s.refCell g x.2) s
  s.setSliceTag g c { firstSeg := s.clk, st := 1, posted := true, cells := cs }
/-- The copy's bytes on the relay queue toward another grove, reading the original's cells: the copy and the relay unit
each reference them until the unit is accepted (R318, R339). -/
def State.relayCopy (s : State) (g t c dest n : Nat) : State :=
  let st := s.sliceTag g t
  let rs := cellRuns 70 0 n
  (rs.zip ((List.replicate (rs.length - 1) false) ++ [true])).foldl (fun s x =>
    let cell := SMap.getD st.cells (min (x.1.1 / 256) (st.cells.length - 1)) 0
    let r : Relay := ⟨dest, ⟨c, x.1.1, x.1.2, b2n x.2, if x.2 then n else 0⟩, cell, false, true⟩
    ((s.setSlice g { s.slice g with relay := (s.slice g).relay ++ [r] }).refCell g cell).refCell g cell) s
/-- The key of a copy: one for another grove takes the slice's next FRAME_NUMBER (R339). -/
def State.copyKey (s : State) (g : Nat) (away : Bool) : Nat × State :=
  if away then s.newTag g else (localKey g s.cn.locals, { s with cn := { s.cn with locals := s.cn.locals + 1 } })
/-- A copy is made in a slice and joins its queue, or leaves for another grove. -/
def State.makeCopy (s : State) (g t x : Nat) (f : FrameRec) (b : List Byte) : State :=
  let m := s.mirror x
  let bytes := copyBytes m b
  let sl := s.slice g
  let s := (s.setSlice g { sl with copies := SMap.set sl.copies x (SMap.getD sl.copies x 0 + 1) }).sliceCtr g 8 1
  if m.destKind = 1 ∧ (s.portCfg m.dest).maxFrame < bytes.length then s.sliceCtr g 10 1
  else
    let (c, s) := s.copyKey g (m.grove != g)
    let r : FrameRec := { bytes := bytes, kind := f.kind, id := f.id, steerKey := f.steerKey, first := s.now, last := some s.now,
                          order := f.order, md := f.md, stage := .decided, dec := some (.copy x m.destKind m.dest m.tc m.tag),
                          released := true, resolved := true, check := 1, cut := bytes.length, byTrail := true
                          edited := some bytes, tc := m.tc, decidedAt := s.now }
    let s := s.setFrame c r
    if m.grove = g then (s.shareCells g t c (cellsOf bytes.length)).joinQueue g c r else s.relayCopy g t c m.grove bytes.length
/-- A frame is a candidate of a session in a slice (R337). -/
def State.candidate (s : State) (g t x : Nat) (b : List Byte) : State :=
  match s.frame t with
  | none => s
  | some f =>
    let m := s.mirror x
    if f.isCopy || !m.flags.getLsbD 0 then s
    else
      let sl := s.slice g
      let n := SMap.getD sl.candidates x 0 + 1
      let s := s.setSlice g { sl with candidates := SMap.set sl.candidates x n }
      if n % m.sampleN = 0 ∧ f.sessions.contains x = false then
        (s.setFrame t { f with sessions := x :: f.sessions }).makeCopy g t x f b
      else s
/-- The candidacies of a frame that becomes eligible: ingress sessions of its port, and its action's session. -/
def State.mirrorEligible (s : State) (g t : Nat) (f : FrameRec) : State :=
  let s := (List.range 16).foldl (fun s x =>
    if (s.mirror x).flags.getLsbD 1 && f.port == some (s.mirror x).sourcePort then s.candidate g t x f.bytes else s) s
  match f.dec with
  | some (.act _ e) => if e.getLsbD 40 then s.candidate g t (eBits e 44 41) f.bytes else s
  | _ => s
/-- The candidacies of a frame its port's scheduler chooses. -/
def State.mirrorEgress (s : State) (g t n : Nat) (b : List Byte) : State :=
  (List.range 16).foldl (fun s x =>
    if (s.mirror x).flags.getLsbD 2 && (s.mirror x).sourcePort == n then s.candidate g t x b else s) s

/-! ## Eligibility (R321 to R331) -/

/-- The entry of a frame's action. -/
def FrameRec.entry (f : FrameRec) : BitVec 512 := match f.dec with | some (.act _ e) => e | _ => 0
/-- The colour has arrived, when the action names a meter (R321). -/
def FrameRec.coloured (f : FrameRec) : Bool := !f.entry.getLsbD 45 || f.colour != 0
/-- The traffic class of a frame (07 R214, R220). -/
def State.classOf (s : State) (f : FrameRec) : Nat :=
  f.meterTc.getD (if f.entry.getLsbD 36 then eBits f.entry 39 37
    else match f.outPort with | some n => s.prioTc n (mdPrio f.md) | none => mdPrio f.md)
/-- Frame `f` is bound for the same queue as an earlier frame `h`; the class of one whose colour is still to come may be
any. -/
def State.sameQueue (s : State) (h f : FrameRec) : Bool :=
  h.sink == f.sink && h.outPort == f.outPort && (f.outPort.isNone || !h.coloured || s.classOf h == s.classOf f)
/-- No earlier-released frame of the source and lane bound for the same queue is still to join, wherever its bytes are
(R323). -/
def State.inOrder (s : State) (t : Nat) (f : FrameRec) : Bool :=
  s.cn.frames.all fun x =>
    let h := x.2
    x.1 == t || h.isCopy || !h.released || h.freed || h.joined ||
      !(h.kind == f.kind && h.id == f.id && h.lane == f.lane && h.order < f.order && s.sameQueue h f)
/-- The queue's depth marks the frame (R331); the draw is 32 bits of the random source. -/
def ecnMarks (c : EgressCfg) (q draw : Nat) : Bool :=
  c.ecnMax ≤ q || (c.ecnMin ≤ q && draw * 256 * (c.ecnMax - c.ecnMin) < c.ecnPmax * (q - c.ecnMin) * 2 ^ 32)
/-- The mark of R331 on a frame bound for a port, or a meter's CE (07 R220), and the state with the draw made. -/
def State.ecnDecide (s : State) (g : Nat) (f : FrameRec) : Bool × State :=
  let ect := (ecnOf f.md f.bytes).any (· != 0)
  match f.outPort with
  | some n =>
    let c := s.egressCfg n
    let q := s.queuedCells g (s.queue n f.tc)
    if ect && c.ecnMask.getLsbD f.tc && c.ecnMin ≤ q then
      let m := ecnMarks c q (Config.randomDraw 32 s.free).toNat
      let s := s.drawn 1
      (m || f.meterCe, if m then s.sliceCtr g 7 1 else s)
    else (ect && f.meterCe, s)
  | none => (ect && f.meterCe, s)
/-- A frame goes to its ingress grove's exception queue from a slice (R215). -/
def State.divert (s : State) (g t ctr : Nat) : State :=
  let i := tagGrove t
  let s := (s.modFrame t fun f => { f with dec := some .exception, edited := none }).classCtr i ctr 1
  if i = g then
    match s.frame t with | some f => s.joinQueue g t f | none => s
  else s.relayTag g t i
/-- The action table of a grove. -/
def State.actionEntry (s : State) (g i : Nat) : BitVec 512 := SMap.getD (s.classifier g).actions i 0
/-- An eligible frame whose edits are decided: the length check, and its queue. -/
def State.joinEdited (s : State) (g t : Nat) (b : List Byte) : State :=
  match s.frame t with
  | none => s
  | some f =>
    let out := withFcs b
    match f.outPort with
    | some n =>
      if (s.portCfg n).maxFrame < out.length then
        if f.bytes.length ≤ (s.portCfg n).maxFrame then (s.classCtr (tagGrove t) 9 1).freeFrame t
        else (s.ethCtr n 31 1).freeFrame t
      else
        let f := { f with edited := some out }
        (s.setFrame t f).joinQueue g t f
    | none =>
      let f := { f with edited := some out }
      (s.setFrame t f).joinQueue g t f
/-- A frame becomes eligible (R321): its mark is decided, its mirror copies are made (R337), and with its edits it joins
its queue. -/
def State.eligible_ (s : State) (g t : Nat) (f : FrameRec) : State :=
  let s := s.sliceCtr g 0 1
  if f.isCopy then s.joinQueue g t f
  else
    match f.dec with
    | some .exception =>
      let s := (s.setFrame t { f with edited := some f.bytes }).mirrorEligible g t f
      match s.frame t with | some f => s.joinQueue g t f | none => s
    | _ =>
      let (mark, s) := s.ecnDecide g f
      let s := s.mirrorEligible g t f
      let b := f.bytes.take (f.bytes.length - 4)
      let b := if mark then markCe f.md b else b
      match editFrame (s.actionEntry (tagGrove t)) f.entry f.md b with
      | .ok b => s.joinEdited g t b
      | .fault => s.divert g t 8
      | .ttl => s.divert g t 10
/-- FRAME_ELIGIBLE (R321). -/
def execFrameEligible (g t : Nat) (s : State) : Res :=
  whenRunning s fun s =>
    match s.frame t, SMap.get (s.slice g).tags t with
    | some f, some st =>
      let f := { f with tc := if f.isCopy then f.tc else s.classOf f }
      if st.st = 1 ∧ st.posted = true ∧ f.released = true ∧ f.out t = some g ∧ f.coloured = true ∧
          (f.isCopy = true ∨ s.inOrder t f = true) then
        (s.setFrame t f).eligible_ g t f
      else s
    | _, _ => s

/-! ## The egress scheduler (R332) -/

/-- A class is paused while any priority that maps to it is, or all are (05 R153, R154). -/
def State.paused (s : State) (n tc : Nat) : Bool :=
  (s.eth n).pause.any fun x => s.clk < x.2 && (x.1 == 8 || s.prioTc n x.1 == tc)
/-- A class may send. -/
def State.classReady (s : State) (n tc : Nat) : Bool := !s.paused n tc && !(s.queue n tc).isEmpty
/-- Length of the frame at the head of a class. -/
def State.headLength (s : State) (n tc : Nat) : Nat :=
  (((s.queue n tc).head?.bind s.frame).map fun f => (f.edited.getD f.bytes).length).getD 0
/-- The round robin from a class on: `turn` is twice the class, plus 1 once its visit has added its quantum. -/
def State.drr (s : State) (n : Nat) : Nat → Nat → SMap Nat → Option (Nat × Nat × SMap Nat)
  | 0, _, _ => none
  | k + 1, turn, d =>
    let c := turn / 2 % 8
    let next := (c + 1) % 8 * 2
    if bit (s.egressCfg n).strictMask.toNat c || !s.classReady n c then
      s.drr n k next (if (s.queue n c).isEmpty then SMap.del d (8 * n + c) else d)
    else
      let v := SMap.getD d (8 * n + c) 0 + if turn % 2 = 1 then 0 else (s.egressCfg n).weight.getD c 1 * 512
      if s.headLength n c ≤ v then some (c, 2 * c + 1, SMap.set d (8 * n + c) (v - s.headLength n c))
      else s.drr n k next (SMap.set d (8 * n + c) v)
/-- The class a port's scheduler serves next, with the round robin's state after it. -/
def State.chooseClass (s : State) (n : Nat) : Option (Nat × Nat × SMap Nat) :=
  let sl := s.slice (n / 32)
  let turn := SMap.getD sl.turn n 0
  match ((List.range 8).reverse).find? fun c => bit (s.egressCfg n).strictMask.toNat c && s.classReady n c with
  | some c => some (c, turn, sl.deficit)
  | none => s.drr n 300 turn sl.deficit
/-- Units of 0.25 ns that bytes take on a port, rounded up. -/
def State.wireTime (s : State) (n len : Nat) : Nat := (32 * len + s.speedGbps n - 1) / s.speedGbps n
/-- The egress stamp of a frame (05 R156). -/
def State.egressStamp (s : State) (n : Nat) : Nat := ((Int.ofNat s.time + (s.portCfg n).egressCorr.toInt) % 2 ^ 64).toNat
/-- The first bit of a chosen frame leaves (R332; 05 R156, R157; 09 R279). -/
def State.sendFrame (s : State) (g n t : Nat) (f : FrameRec) : State :=
  let s := s.upTo (max (f.last.getD 0) f.decidedAt + 20)
  let cfg := s.portCfg n
  let b := f.edited.getD f.bytes
  let stamp := s.egressStamp n
  let body := b.take (b.length - 4)
  let b := if bit cfg.ptp 1 && !f.isCopy then
      withFcs (transparentClock body (Int.ofNat stamp - Int.ofNat (eBits f.md 63 0))) else b
  let s := (s.setFrame t { f with edited := some b }).setSliceTag g t { s.sliceTag g t with st := 3 }
  let sl := s.slice g
  let s := s.setSlice g { sl with sending := SMap.set sl.sending n t
                                  freeAt := SMap.set sl.freeAt n (s.now + s.wireTime n (b.length + 20)) }
  let s := (s.emit (.frame n b)).mirrorEgress g t n b
  if f.isCopy then s else s.txEnd t (if bit cfg.ptp 0 then some stamp else none)
/-- EGRESS_SCHEDULE (R332). -/
def execEgressSchedule (n : Nat) (s : State) : Res :=
  whenRunning s fun s =>
    let g := n / 32
    let sl := s.slice g
    let idle := s
    let s := s.upTo (SMap.getD sl.freeAt n 0)
    if s.isPort n && s.isUp n && (SMap.get sl.sending n).isNone then
      match s.chooseClass n with
      | some (c, turn, d) =>
        match s.queue n c with
        | t :: ts =>
          let d := if ts.isEmpty then SMap.del d (8 * n + c) else d
          let s := s.setSlice g { sl with queues := SMap.set sl.queues (8 * n + c) ts, turn := SMap.set sl.turn n turn, deficit := d }
          let s := s.touchTag g t
          match s.frame t with
          | some f => s.sendFrame g n t f
          | none => s
        | [] => idle
      | none => idle
    else idle
/-- FRAME_TRANSMIT_END (R318): the frame's cells are given up. -/
def execFrameTransmitEnd (n : Nat) (s : State) : Res :=
  whenRunning s fun s =>
    let g := n / 32
    let sl := s.slice g
    match SMap.get sl.sending n with
    | some t =>
      let s := s.upTo (SMap.getD sl.freeAt n 0 - s.wireTime n 20)
      let len := ((s.frame t).map fun f => (f.edited.getD f.bytes).length).getD 0
      let s := s.setSlice g { sl with sending := SMap.del sl.sending n }
      (((s.ethCtr n 2 1).ethCtr n 3 len).dropTag g t).reap t
    | none => s

/-! ## Free-list audit (R341 to R344) -/

/-- The first moment at or after canopy cycle 2^24 × `k` of the count since the device-scope reset. -/
def auditMoment (start k : Nat) : Nat := start + (2 ^ 24 * k * 64 + 24) / 25
/-- AUDIT_START (R341): at a canopy cycle that is a multiple of 2^24 after the device-scope reset. -/
def execAuditStart (g : Nat) (s : State) : Res :=
  whenRunning s fun s =>
    let sl := s.slice g
    if g < s.groves ∧ sl.audit = none then
      let s := s.upTo (auditMoment s.cn.start (sl.audits + 1))
      s.setSlice g { sl with audit := some s.now, audits := (s.now - s.cn.start) * 25 / 64 / 2 ^ 24, seen := [] }
    else s
/-- A cell that something references: a tag, which stands for the queue or copy it is in, or a relay item (R342). -/
def Slice.references (sl : Slice) (c : Nat) : Bool :=
  sl.tags.any (fun x => x.2.cells.any (·.2 == c)) || sl.relay.any fun r => r.cell == c && r.seg.len != 0
/-- The cells the walk finds neither free nor referenced, nor seen since the audit began: those an audit has found before,
those it is told have leaked since, and those in use that nothing references. A retired cell is none of them. -/
def State.auditLost (s : State) (g : Nat) (leaked : List Nat) : List Nat :=
  let sl := s.slice g
  ((sl.lost ++ leaked ++ sl.cells.map (·.1)).filter fun c =>
    c < 65536 && !sl.seen.contains c && !sl.references c && !(s.retiredCells g).contains c).eraseDups
/-- A leaked cell is reclaimed, and logged with its location word. -/
def State.reclaim (s : State) (g c : Nat) : State :=
  let sl := s.slice g
  let pair := (SMap.get sl.cells c).bind (·.pair)
  let s := (s.setSlice g { sl with cells := SMap.del sl.cells c, lost := sl.lost.filter (· != c) }).sliceCtr g 12 1
  (s.log (locLeaf g 0x08 0 c) 7 0 (BitVec.ofNat 32 (SMap.getD sl.ctrs 11 0).toNat)).pairUpdate pair
/-- AUDIT_END (R342 to R344): the walk ends. `leaked` names cells that have become unreferenced without being freed, and
`conflicts` cells that stand on the free list: one that is referenced is a conflict, goes off the list, and is free again
when its references end. -/
def execAuditEnd (g : Nat) (leaked conflicts : List Nat) (s : State) : Res :=
  whenRunning s fun s =>
    let sl := s.slice g
    match sl.audit with
    | none => s
    | some _ =>
      let lost := s.auditLost g leaked
      let again := lost.filter fun c => sl.suspect.contains c
      let s := s.setSlice g { sl with audit := none, seen := [], suspect := lost.filter fun c => !again.contains c
                                      lost := (sl.lost ++ lost.filter fun c => (SMap.get sl.cells c).isNone).eraseDups }
      let s := (s.noteFree g).sliceCtr g 11 1
      let s := again.foldl (fun s c => s.reclaim g c) s
      let s := (conflicts.filter fun c => c < 65536 && sl.references c).eraseDups.foldl (fun s c =>
        (s.sliceCtr g 13 1).log (locLeaf g 0x08 0 c) 8 0 0) s
      if again.isEmpty then s else s.fireDev g 4 Ev.cellLeak (tallyData g again.length)

/-! ## Commands (R345 to R349) -/

/-- A PORT command names a port of the current layout and passes its gate (05 R133, R158). -/
def portGate (s : State) (r : Request) (n : Nat) (k : Except Nat Done) : Except Nat Done :=
  chk (n < 512) St.badArg <| chk (n < s.lanes) St.notPresent <| chk (s.isPort n) St.badArg <|
  chk (s.owns r.actor 1 n) St.notOwner k
/-- PORT.EGRESS_SET (R346). -/
def egressSetBody : Body := fun s r =>
  let p := r.payload
  let n := fld p 0 2
  let w := (List.range 8).map fun c => fld p (4 + c) 1
  let c : EgressCfg := ⟨BitVec.ofNat 8 (fld p 2 1), fld p 3 1, w, BitVec.ofNat 8 (fld p 12 1), fld p 13 1, fld p 14 2, fld p 16 2⟩
  chk (p.length == 20 && zeroAt p 18 2 && c.alpha ≤ 7 && w.all (· != 0) && c.ecnPmax != 0 && c.ecnMin < c.ecnMax) St.badArg <|
  portGate s r n <| chk (!s.groveFailed (n / 32)) St.internal <| done { s with cfg := { s.cfg with egress := SMap.set s.cfg.egress n c } }
def execPortEgressSet (s : State) : Res := slaotRow 0x0206 egressSetBody s
/-- The R346 record. -/
def EgressCfg.record (c : EgressCfg) (n : Nat) : List Byte :=
  leBytes 2 n ++ leBytes 1 c.strictMask.toNat ++ leBytes 1 c.alpha ++ (c.weight.flatMap (leBytes 1)) ++
    leBytes 1 c.ecnMask.toNat ++ leBytes 1 c.ecnPmax ++ leBytes 2 c.ecnMin ++ leBytes 2 c.ecnMax ++ zeros 2
/-- PORT.EGRESS_GET. -/
def egressGetBody : Body := fun s r =>
  let n := fld r.payload 0 2
  chk (r.payload.length == 2) St.badArg <| portGate s r n <|
  done s ((s.egressCfg n).record n ++ (List.range 8).flatMap fun c => leBytes 4 (s.queuedCells (n / 32) (s.queue n c)))
def execPortEgressGet (s : State) : Res := slaotRow 0x0207 egressGetBody s

/-- PORT.SLICE_SET (R347): the gate of 06 R182 on each grove; a failed grove's data path does not change (21 R619). -/
def sliceSetBody : Body := fun s r =>
  let p := r.payload
  let gs := maskBits (fld p 0 2) 16
  let c : SliceCfg := ⟨fld p 2 2, fld p 4 2, fld p 6 2, fld p 8 2, fld p 10 2⟩
  chk (p.length == 14 && fld p 0 2 != 0 && zeroAt p 12 2 && c.headroom ≤ 16384 && c.mirrorPool ≤ 8192 && 16 ≤ c.xoffCells &&
    c.xoffCells ≤ 16384 && c.xonCells < c.xoffCells && 64 ≤ c.sinkLimit && c.sinkLimit ≤ 32768) St.badArg <|
  chk (gs.all (· < s.groves)) St.notPresent <|
  chk (r.actor == operator || gs.all (s.ownsGrove r.actor)) St.notOwner <|
  chk (!gs.any s.groveFailed) St.internal <|
  done { s with cfg := { s.cfg with slices := gs.foldl (fun m g => SMap.set m g c) s.cfg.slices } }
def execPortSliceSet (s : State) : Res := slaotRow 0x0208 sliceSetBody s
/-- The counters of R349 in order; FREE_MIN is told from the most cells that were off the free list. -/
def State.sliceCtrs (s : State) (g : Nat) : List Byte :=
  ctrBytes (s.slice g).ctrs 15 ++ leBytes 8 (65536 - (SMap.getD (s.slice g).ctrs 15 0).toNat)
/-- PORT.SLICE_GET. -/
def sliceGetBody : Body := fun s r =>
  let g := fld r.payload 0 1
  let sl := s.slice g
  let c := s.sliceCfg g
  chk (r.payload.length == 4 && zeroAt r.payload 1 3 && g < 16) St.badArg <| chk (g < s.groves) St.notPresent <|
  done s (leBytes 2 c.headroom ++ leBytes 2 c.mirrorPool ++ leBytes 2 c.xoffCells ++ leBytes 2 c.xonCells ++
    leBytes 2 c.sinkLimit ++ zeros 2 ++ leBytes 4 (s.freeCells g) ++ leBytes 4 (sl.used 0) ++ leBytes 4 (sl.used 1) ++
    leBytes 4 (sl.used 2) ++ s.sliceCtrs g)
def execPortSliceGet (s : State) : Res := slaotRow 0x0209 sliceGetBody s

/-- The destination of a mirror session: in range, and present. -/
def State.mirrorDestOk (m : MirrorCfg) : Bool :=
  match m.destKind with | 1 => m.dest < 512 | 2 => m.dest < 65536 | 3 => m.dest < 32 | _ => false
def State.mirrorDestPresent (s : State) (m : MirrorCfg) : Bool :=
  match m.destKind with | 1 => m.dest < s.lanes | 2 => m.dest < 4096 * s.groves | _ => m.dest < s.clearings
/-- PORT.MIRROR_SET (R348): a session's counts start again in every slice (R337). -/
def mirrorSetBody : Body := fun s r =>
  let p := r.payload
  let x := fld p 0 1
  let m : MirrorCfg := ⟨BitVec.ofNat 8 (fld p 1 1), fld p 2 2, fld p 4 1, fld p 5 1, fld p 6 2, fld p 8 4, fld p 12 4, BitVec.ofNat 32 (fld p 16 4)⟩
  let src := m.flags.getLsbD 1 || m.flags.getLsbD 2
  chk (p.length == 20 && x < 16 && m.flags.toNat < 8 && m.tc < 8 && (m.truncate == 0 || (64 ≤ m.truncate && m.truncate ≤ 4096)) &&
    1 ≤ m.sampleN && m.sampleN ≤ 16777216 && State.mirrorDestOk m && (!src || m.sourcePort < 512)) St.badArg <|
  chk (s.mirrorDestPresent m && (!src || m.sourcePort < s.lanes)) St.notPresent <|
  chk ((!src || s.isPort m.sourcePort) && (m.destKind != 1 || s.isPort m.dest)) St.badArg <|
  chk (r.actor == operator) St.notOwner <|
  let sl := s.cn.slices.map fun (y : Nat × Slice) => (y.1, { y.2 with candidates := SMap.del y.2.candidates x })
  done { s with cfg := { s.cfg with mirrors := SMap.set s.cfg.mirrors x m }, cn := { s.cn with slices := sl } }
def execPortMirrorSet (s : State) : Res := slaotRow 0x020A mirrorSetBody s
/-- The R348 record. -/
def MirrorCfg.record (m : MirrorCfg) (x : Nat) : List Byte :=
  leBytes 1 x ++ leBytes 1 m.flags.toNat ++ leBytes 2 m.sourcePort ++ leBytes 1 m.destKind ++ leBytes 1 m.tc ++
    leBytes 2 m.truncate ++ leBytes 4 m.dest ++ leBytes 4 m.sampleN ++ leBytes 4 m.tag.toNat
/-- COPIES and DROPS of a session over all slices. -/
def State.mirrorCounts (s : State) (x : Nat) : List Byte :=
  leBytes 8 ((s.cn.slices.map fun y => SMap.getD y.2.copies x 0).foldl (· + ·) 0) ++
    leBytes 8 ((s.cn.slices.map fun y => SMap.getD y.2.drops x 0).foldl (· + ·) 0)
/-- PORT.MIRROR_GET. -/
def mirrorGetBody : Body := fun s r =>
  let x := fld r.payload 0 1
  chk (r.payload.length == 4 && zeroAt r.payload 1 3 && x < 16) St.badArg <|
  done s ((s.mirror x).record x ++ s.mirrorCounts x)
def execPortMirrorGet (s : State) : Res := slaotRow 0x020B mirrorGetBody s

end Sys2Proof.Machine
end

