-- ==== Sys2Proof/Machine/LaneCode.lean ====
section
/-! DEFINITION. How an L400 lane codes its data and what its receiver corrects (05 R136 to R139): 64B/66B and 256B/257B
blocks, the outer and the inner code, the alignment marker, PAM4, and the symbols of a training frame. Bits are in the
order they are sent. What the spec takes from IEEE 802.3 or leaves unstated is in assumption log 58. -/
namespace Sys2Proof.Machine

/-- The bits of a number, the lowest first. -/
def lowBits (n v : Nat) : List Bool := (List.range n).map v.testBit
/-- The number whose bits are given, the lowest first. -/
def bitsNat (l : List Bool) : Nat := l.foldr (fun b a => b2n b + 2 * a) 0
/-- Pieces of `n` elements. -/
def chunks {α : Type} (n : Nat) : Nat → List α → List (List α)
  | 0, _ => []
  | k + 1, l => l.take n :: chunks n k (l.drop n)

/-! ## Stage 1: blocks -/

/-- A 66-bit block: its kind and its 64 bits; a control block begins with its type. -/
structure Block where
  data : Bool
  bits : List Bool
  deriving DecidableEq, Repr
/-- A block of idles. -/
def idleBlock : Block := ⟨false, lowBits 8 0x1E ++ List.replicate 56 false⟩
/-- The type of the block that ends a frame after `k` bytes of it. -/
def endType (k : Nat) : Nat := [0x87, 0x99, 0xAA, 0xB4, 0xCC, 0xD2, 0xE1, 0xFF].getD k 0x87
/-- Bytes as bits. -/
def byteBits (l : List Byte) : List Bool := l.flatMap fun b => lowBits 8 b.toNat
/-- The blocks of a frame after its first: whole data blocks, then the block of its end. -/
def tailBlocks : Nat → List Byte → List Block
  | 0, _ => []
  | n + 1, b =>
    if b.length < 8 then
      [⟨false, (lowBits 8 (endType b.length) ++ byteBits b ++ List.replicate 56 false).take 64⟩]
    else ⟨true, byteBits (b.take 8)⟩ :: tailBlocks n (b.drop 8)
/-- A frame, FCS included, as 66-bit blocks: the start block holds the preamble and the SFD. -/
def frameBlocks (frame : List Byte) : List Block :=
  ⟨false, lowBits 8 0x78 ++ byteBits [0x55, 0x55, 0x55, 0x55, 0x55, 0x55, 0xD5]⟩ :: tailBlocks (frame.length / 8 + 1) frame
/-- Four blocks as one of 257 bits: of the first control block, the upper half of its type is left out. -/
def transcode (bs : List Block) : List Bool :=
  if bs.all (·.data) then true :: bs.flatMap (·.bits)
  else
    let c := bs.findIdx fun b => !b.data
    false :: (bs.map (·.data)) ++ (bs.zipIdx.flatMap fun x => if x.2 = c then x.1.bits.take 4 ++ x.1.bits.drop 8 else x.1.bits)

/-! ## Stage 2: the outer code RS(544,514) over GF(2^10) -/

/-- Multiplication of symbols modulo x^10 + x^3 + 1. -/
def gfMul (a b : Nat) : Nat :=
  (List.range 10).foldl (fun r i =>
    let r := 2 * r
    let r := if 1024 ≤ r then Nat.xor r 0x409 else r
    if b.testBit (9 - i) then Nat.xor r a else r) 0
/-- The powers of the primitive element. -/
def gfPow : Nat → Nat
  | 0 => 1
  | n + 1 => gfMul 2 (gfPow n)
/-- The generator, its leading 1 left out, highest power first: the roots are the powers 0 to 29. -/
def rsGenerator : List Nat :=
  (List.range 30).foldl (fun (g : List Nat) i =>
    let a := gfPow i
    List.zipWith Nat.xor (g ++ [0]) ((1 :: g).map (gfMul a))) []
/-- One message symbol into the remainder. -/
def rsStep (rem : List Nat) (m : Nat) : List Nat :=
  let fb := Nat.xor m (rem.headD 0)
  List.zipWith (fun r g => Nat.xor r (gfMul fb g)) (rem.drop 1 ++ [0]) rsGenerator
/-- An outer codeword: the 514 message symbols and 30 check symbols. -/
def outerCode (msg : List Nat) : List Nat := msg ++ msg.foldl rsStep (List.replicate 30 0)

/-! ## Stage 3: the inner code (170,160) -/

/-- One bit into the remainder of the inner code. -/
def innerStep (rem : Nat) (b : Bool) : Nat :=
  let fb := rem.testBit 9 != b
  let r := 2 * rem % 1024
  if fb then Nat.xor r (Config.innerGenerator.toNat % 1024) else r
/-- A segment of 160 bits with its 10 check bits. -/
def innerCode (seg : List Bool) : List Bool := seg ++ lowBits 10 (seg.foldl innerStep 0)

/-! ## Stage 4: PAM4 -/

/-- The level of two bits, Gray-coded. -/
def gray (first second : Bool) : Int := match first, second with
  | false, false => -3
  | false, true => -1
  | true, true => 1
  | true, false => 3
/-- Bits as levels, two a symbol. -/
def pam4 : List Bool → List Int
  | a :: b :: l => gray a b :: pam4 l
  | _ => []

/-! ## A lane -/

/-- The alignment marker of lane `index` of a port: its fixed pattern and a continuation of PRBS31. -/
def marker (index : Nat) (prbs : BitVec 137) : List Bool :=
  lowBits 120 (Config.markerPattern index).toNat ++ lowBits 137 prbs.toNat
/-- The twenty blocks of outer codeword `k` since data coding began: every 4,096th begins with the marker. -/
def markedBlocks (index k : Nat) (prbs : BitVec 137) (blocks : List (List Bool)) : List (List Bool) :=
  if k % 4096 = 0 then marker index prbs :: blocks.take 19 else blocks.take 20
/-- A codeword on the wire: the bits of its 34 inner segments. -/
def wireBits (blocks : List (List Bool)) : List Bool :=
  let msg := (chunks 10 514 blocks.flatten).map bitsNat
  (chunks 160 34 ((outerCode msg).flatMap (lowBits 10))).flatMap innerCode
/-- Its levels. -/
def wireSymbols (blocks : List (List Bool)) : List Int := pam4 (wireBits blocks)

/-! ## What a receiver corrects (R137) -/

/-- Single-bit errors of segments are corrected; a segment with a detected error is sixteen erasures. The outer decoder
corrects e errors and f erasures when 2e + f ≤ 30. S200 has no inner code (R142). -/
def corrected (w : Codeword) (inner : Bool) : Bool :=
  2 * (w.symbols + if inner then 0 else w.single) + (if inner then 16 * w.erased else 0) ≤ 30

/-! ## Training frames (R139) -/

/-- A PRBS13 register one bit on. -/
def prbs13Next (p : BitVec 13) : BitVec 13 :=
  (p <<< 1) ||| (BitVec.ofBool (p.getLsbD 12 != (p.getLsbD 11 != (p.getLsbD 1 != p.getLsbD 0)))).setWidth 13
/-- Bits of the register. -/
def prbs13 : Nat → BitVec 13 → List Bool
  | 0, _ => []
  | n + 1, p => p.getLsbD 12 :: prbs13 n (prbs13Next p)
/-- The register after the 8,192 symbols of a frame: 16,384 bits are two periods and two bits. -/
def prbs13Frame (p : BitVec 13) : BitVec 13 := prbs13Next (prbs13Next p)
/-- CRC of CONTROL and STATUS. -/
def trainingCrc (control : BitVec 16) (status : BitVec 32) : BitVec 16 := crc16 (control ++ status)
/-- The 8,288 symbols of a training frame: the marker, the fields with the most significant bit first, and PRBS13. -/
def trainingSymbols (control : BitVec 16) (status : BitVec 32) (crc : BitVec 16) (prbs : BitVec 13) : List Int :=
  List.replicate 16 3 ++ List.replicate 16 (-3) ++
    (lowBits 64 (control ++ status ++ crc).toNat).reverse.map (fun b => if b then 3 else -3) ++ pam4 (prbs13 16384 prbs)

end Sys2Proof.Machine
end

