-- ==== Sys2Proof/Machine/Ethernet.lean ====
section
/-! DEFINITION. Ethernet ports (05): layout, attributes, training, link state, flow control received, and the PORT
commands of 05 R158. -/
namespace Sys2Proof.Machine

/-! ## Link state (R146, R148 to R151) -/

/-- SPEED of R151. -/
def speedCode (gbps : Nat) : Nat := match gbps with | 400 => 1 | 800 => 2 | 1600 => 3 | _ => 4
/-- Data of a link event. -/
def State.linkData (s : State) (n reason : Nat) : W32 :=
  BitVec.ofNat 32 (2 ^ 24 * reason + 2 ^ 20 * speedCode (s.speedGbps n) + 2 ^ 18 * (s.group (n / 8)).mode + n)
/-- The event source of a port (14 R430). -/
def State.fireLink (s : State) (n type reason : Nat) : State := s.fireDev (n / 32) (32 + n % 32) type (s.linkData n reason)
/-- Every frame queued for a port is freed and counted in DOWN_DROPS. -/
def State.flushPort (s : State) (n : Nat) : State :=
  ((List.range 8).flatMap (s.queue n)).foldl (fun s t => (s.ethCtr n 25 1).freeFrame t) s
/-- A frame on the wire is cut (R149). -/
def State.cutSending (s : State) (n : Nat) : State :=
  let sl := s.slice (n / 32)
  match SMap.get sl.sending n with
  | some t => ((s.setSlice (n / 32) { sl with sending := SMap.del sl.sending n }).emit (.frameCut n)).freeFrame t
  | none => s
/-- Frames partly received are abandoned (R146, 10 R288). -/
def State.abandonRx (s : State) (n : Nat) : State :=
  (s.cn.frames.filter fun x => x.2.kind == 0 && x.2.id == n && x.2.last.isNone && !x.2.isCopy).foldl (fun s x =>
    ((s.modFrame x.1 fun f => { f with last := some s.now, check := 3 }).cutTo x.1 0 3).reap x.1) s
/-- A port that was up goes down (R149): `cut` is false when the cause is disable. A pause received, and XOFF toward the
partner, end with the link (assumption log 34). -/
def State.portDown (s : State) (n reason : Nat) (cut : Bool) : State :=
  if s.isUp n then
    let s := s.setEth n { s.eth n with state := 4, reason := reason, pause := [], xoff := [], retryAt := some s.clk }
    let s := (if cut then s.cutSending n else s).flushPort n
    (s.ethCtr n 29 1).fireLink n Ev.linkDown reason
  else s
/-- A port that can never train: its grove, its lane group or one of its lanes is lost (21 R611, R614, R616), or its
reference clock is (02 R55). -/
def State.deadPort (s : State) (n : Nat) : Bool :=
  !SMap.getD s.board.ethref (n / 32) true || s.groveFailed (n / 32) || s.isFenced 0x09 (n / 32) (n % 32 / 8) ||
    (List.range (s.width n)).any fun i => s.hl.retired.contains (locLeaf (n / 32) 0x09 (n % 32 / 8) (n % 8 + i))
/-- The state of a lane. -/
def State.lane (s : State) (l : Nat) : LaneTr := SMap.getD s.et.lanes l {}
/-- A lane sends its next training frame; PRBS13 runs on (R139). -/
def State.sendTraining (s : State) (l : Nat) : State :=
  let x := s.lane l
  { s with et := { s.et with lanes := SMap.set s.et.lanes l { x with prbs := prbs13Frame x.prbs } } }.emit
    (.training l x.control x.status (trainingCrc x.control x.status) x.prbs)
/-- Training starts (R141, R143): in L400 every lane sends frames at preset 1. -/
def State.startTraining (s : State) (n : Nat) : State :=
  if s.deadPort n then s.setEth n { s.eth n with state := 4, retryAt := none }
  else
  let s := s.setEth n { s.eth n with state := 1, attemptStart := s.clk, retryAt := none }
  let ls := (List.range (s.width n)).map (n + ·)
  let s := { s with et := { s.et with
    lanes := ls.foldl (fun m l => SMap.set m l { prbs := Config.prbs13Seed l }) s.et.lanes } }
  if (s.group (n / 8)).mode = 0 then ls.foldl State.sendTraining s else s
/-- ENABLE goes from 1 to 0 (R146). -/
def State.disablePort (s : State) (n : Nat) : State :=
  let s := ((s.portDown n 3 false).flushPort n).abandonRx n
  s.setEth n { s.eth n with state := 0, retryAt := none }
/-- A training attempt fails: counted, reported at most once in a window, and restarted 100 ms later (R141). The reason
`PORT.GET` reports is that of the last failure or of the last time the port went down (assumption log 34). -/
def State.trainFail (s : State) (n reason : Nat) : State :=
  let x := s.eth n
  let opens := x.failWindow.all fun t => t + ms 1000 ≤ s.clk
  let s := s.setEth n { x with state := 4, reason := reason, retryAt := some (s.clk + ms 100)
                               failWindow := if opens then some s.clk else x.failWindow }
  let s := s.ethCtr n 30 1
  if opens then s.fireLink n Ev.linkTrainFail reason else s

/-! ## Training (R139 to R143) -/

/-- A 2-bit field of a word. -/
def two {w : Nat} (v : BitVec w) (lo : Nat) : Nat := eBits v (lo + 1) lo
/-- The requester's side of one coefficient: a held request goes back to hold on a reply, a new one starts from hold
once the reply has gone (R140). -/
def requestNext (held want reply : Nat) : Nat :=
  if held = 0 then if reply = 0 then want % 3 else 0 else if reply = 0 then held else 0
/-- The responder's side: a reply stays until the request has gone back to hold; a new request takes `answer`. -/
def replyNext (reply req answer : Nat) : Nat :=
  if reply = 0 then if req = 1 ∨ req = 2 then answer else 0 else if req = 0 then 0 else reply
/-- CONTROL after a frame: PRESET goes back when all four replies have come. -/
def LaneTr.nextControl (l : LaneTr) (want : BitVec 16) (status : BitVec 32) : BitVec 16 :=
  let rs := [6, 4, 2, 0].map (two status)
  let preset := two l.control 14
  let preset := if preset = 0 then if rs.all (· == 0) then two want 14 else 0 else if rs.all (· != 0) then 0 else preset
  let cs := ([12, 10, 8, 6].zip rs).map fun x => (x.1, requestNext (two l.control x.1) (two want x.1) x.2)
  cs.foldl (fun c x => setBits c (x.1 + 1) x.1 x.2) (setBits l.control 15 14 preset)
/-- STATUS after a frame, and whether its replies answer a PRESET request. Such a request is answered with 01 in all four
fields once no reply is left; they are held until it has gone. -/
def LaneTr.nextStatus (l : LaneTr) (control : BitVec 16) (reply : BitVec 8) (ready : Bool) : BitVec 32 × Bool :=
  let preset := two control 14 != 0
  let idle := [6, 4, 2, 0].all fun o => two l.status o == 0
  let answers := preset && (idle || l.presetReply)
  let st := [(12, 6), (10, 4), (8, 2), (6, 0)].foldl (fun c x =>
    let v := if answers then 1 else if l.presetReply then 0 else replyNext (two l.status x.2) (two control x.1) (two reply x.2)
    setBits c (x.2 + 1) x.2 v) l.status
  (if ready then setBits st 23 23 1 else st, answers)
/-- A lane after a received frame (R139 to R141). -/
def LaneTr.frame (l : LaneTr) (f : TrainFrame) : LaneTr :=
  let valid := f.marker && trainingCrc f.control f.status == f.crc
  let known := eBits f.status 31 24 == 0xA7
  if !valid then if l.lock then l else { l with lockCount := 0 }
  else if !known then { l with seenFrame := true, lockCount := if l.lock then l.lockCount else 0 }
  else
    let n := min 3 (l.lockCount + 1)
    let l := { l with seenFrame := true, seenMode := true, lockCount := n, lock := l.lock || n == 3 }
    let (status, preset) := l.nextStatus f.control f.reply f.ready
    let both := status.getLsbD 23 && f.status.getLsbD 23
    let c := if both then min 16 (l.readyCount + 1) else 0
    { l with control := l.nextControl f.want f.status, status := status, presetReply := preset, readyCount := c
             data := l.data || c == 16 }
/-- The lanes of a port. -/
def State.portLanes (s : State) (n : Nat) : List LaneTr := (List.range (s.width n)).map fun i => s.lane (n + i)
/-- An L400 attempt has missed none of the limits of R141 so far. -/
def State.inTime (s : State) (n : Nat) : Bool :=
  let t := (s.eth n).attemptStart
  let ls := s.portLanes n
  s.clk ≤ t + ms 315 && (ls.all (·.lock) || s.clk ≤ t + ms 10) && (ls.all (·.status.getLsbD 23) || s.clk ≤ t + ms 310)
/-- TRAINING_FRAME_RECEIVE (R139 to R141): the lane answers with its next training frame until it codes data. -/
def execTrainingFrameReceive (n lane : Nat) (f : TrainFrame) (s : State) : Res :=
  whenRunning s fun s =>
    if s.isPort n && (s.eth n).state == 1 && (s.group (n / 8)).mode == 0 && lane < s.width n && s.inTime n then
      let l := (s.lane (n + lane)).frame f
      let s := { s with et := { s.et with lanes := SMap.set s.et.lanes (n + lane) l } }
      if l.data then s else s.sendTraining (n + lane)
    else s
/-- An S200 attempt has what it needs for data mode (R142, R143): on an AUI a signal; on a CR or KR PHY a partner that
offers the PHY type of the port's width, the only one the device advertises, and finished link training. -/
def s200Ready (l : S200Link) (width : Nat) : Bool :=
  if l.aui then l.signal else l.pages.contains width && l.trained
/-- TRAINING_ALIGNMENT_COMPLETE (R138, R141 step 4, R143): within the limits, and with a skew of at most 160 ns between
lanes in L400, the hold-up window opens (R148). -/
def execTrainingAlignmentComplete (a : Alignment) (s : State) : Res :=
  whenRunning s fun s =>
    let n := a.port
    let x := s.eth n
    let good := if (s.group (n / 8)).mode = 1 then s200Ready a.link (s.width n) && s.clk ≤ x.attemptStart + ms 500
      else (s.portLanes n).all (·.data) && s.inTime n && a.skewNs ≤ 160
    if s.isPort n && x.state == 1 && good then
      s.setEth n { x with state := 2, holdStart := s.clk, skewNs := a.skewNs, s200 := a.link }
    else s
/-- TRAINING_TIMEOUT (R141): the first limit missed and its reason. Lanes may miss step 1 for different reasons: the lowest
of them is reported (assumption log 34). The reason of a lane that had frames with the right MODE_ID and no lock is not
stated: one of those of a failed training. -/
def execTrainingTimeout (n : Nat) (s : State) : Res :=
  whenRunning s fun s =>
    let x := s.eth n
    if s.isPort n && x.state == 1 && (s.group (n / 8)).mode == 0 then
      match (s.portLanes n).find? (!·.lock) with
      | some l =>
        let s := s.upToClk (x.attemptStart + ms 10)
        if !l.seenFrame then s.trainFail n 0x10
        else if !l.seenMode then s.trainFail n 0x13
        else
          let r := s.fresh 2
          r.2.trainFail n (0x10 + r.1.toNat)
      | none =>
        if (s.portLanes n).any fun l => !l.status.getLsbD 23 then (s.upToClk (x.attemptStart + ms 310)).trainFail n 0x11
        else (s.upToClk (x.attemptStart + ms 315)).trainFail n 0x12
    else s
/-- The reason of a failed S200 attempt (R143). -/
def s200Reason (l : S200Link) (width : Nat) : Nat :=
  if l.aui then if l.signal then 0x12 else 0x10
  else if l.pages.isEmpty then 0x10
  else if !l.pages.contains width then 0x13
  else if l.trained then 0x12 else 0x11
/-- S200_ATTEMPT_FAIL (R143): the state machines declare failure, or 500 ms have passed. -/
def execS200AttemptFail (n : Nat) (fin : S200End) (s : State) : Res :=
  whenRunning s fun s =>
    let x := s.eth n
    if s.isPort n && x.state == 1 && (s.group (n / 8)).mode == 1 then
      let s := if fin.declared then s else s.upToClk (x.attemptStart + ms 500)
      (s.setEth n { x with s200 := fin.link }).trainFail n (s200Reason fin.link (s.width n))
    else s
/-- TRAINING_RESTART (R141, R149): an enabled port trains again. -/
def execTrainingRestart (n : Nat) (s : State) : Res :=
  whenRunning s fun s =>
    match (s.eth n).retryAt with
    | some t => if s.isPort n && (s.portCfg n).enable then (s.upToClk t).startTraining n else s
    | none => s
/-- HOLD_UP_EXPIRY (R148): the port is up. The windows of R150 begin at the first link-up outside one, and follow each
other while the port is up (assumption log 34). -/
def execHoldUpExpiry (n : Nat) (s : State) : Res :=
  whenRunning s fun s =>
    let x := s.eth n
    if s.isPort n && x.state == 2 then
      let s := s.upToClk (x.holdStart + ms (s.portCfg n).holdUpMs)
      (s.setEth n { s.eth n with state := 3, degWindow := (s.eth n).degWindow.or (some s.clk) }).fireLink n Ev.linkUp 0
    else s
/-- A lane fault takes the link: the thresholds of R149 in the lane mode of the port. -/
def faultTakes (f : LaneFault) (mode : Nat) : Bool :=
  match f with
  | .signal ns => mode == 0 && 100 ≤ ns
  | .codewords k => mode == 0 && 64 ≤ k
  | .markers k => mode == 0 && 3 ≤ k
  | .s200 _ => mode == 1
/-- Its REASON (R151): SIGNAL_LOST for a lost signal, else ALIGNMENT_LOST (assumption log 34). -/
def faultReason (f : LaneFault) : Nat :=
  match f with | .signal _ | .s200 true => 1 | _ => 2
/-- LANE_LOSS (R148, R149): a port in hold-up trains again without an event, a port that is up goes down. -/
def execLaneLoss (n : Nat) (fault : LaneFault) (s : State) : Res :=
  whenRunning s fun s =>
    if !s.isPort n || !faultTakes fault (s.group (n / 8)).mode then s
    else if (s.eth n).state == 2 then s.startTraining n
    else s.portDown n (faultReason fault) true
/-- LINK_DEGRADED_WINDOW (R150): a window of 1 s ends with what the receiver corrected and could not correct in it while
the port was up, be it up at the end or not. -/
def execLinkDegradedWindow (n bits symbols uncorrectable : Nat) (s : State) : Res :=
  whenRunning s fun s =>
    match (s.eth n).degWindow with
    | some t =>
      if s.isPort n then
        let s := s.upToClk (t + ms 1000)
        let s := s.setEth n { s.eth n with degWindow := if s.isUp n then some s.clk else none, uncorrectable := uncorrectable }
        let s := ((s.ethCtr n 26 (if (s.group (n / 8)).mode = 0 then bits else 0)).ethCtr n 27 symbols).ethCtr n 28 uncorrectable
        if uncorrectable = 0 then s else s.fireLink n Ev.linkDegraded (min uncorrectable 255)
      else s
    | none => s

/-! ## Flow control received (R152 to R155) -/

/-- End of a pause of `quanta` on a port: quanta × 512 bit times. -/
def State.pauseEnd (s : State) (n quanta : Nat) : Nat := s.clk + quanta * 2048 / s.speedGbps n
/-- One priority paused or resumed. -/
def State.pausePrio (s : State) (n p quanta : Nat) : State :=
  let x := s.eth n
  s.setEth n { x with pause := if quanta = 0 then SMap.del x.pause p else SMap.set x.pause p (s.pauseEnd n quanta) }
/-- A PFC frame that has passed its FCS check (R153); ignored and counted when FLOW is not 2 (R152). -/
def State.pfcReceived (s : State) (n : Nat) (enable : BitVec 8) (quanta : List Nat) : State :=
  if (s.portCfg n).flow = 2 then
    (maskBits enable.toNat 8).foldl (fun s p => (s.ethCtr n (8 + p) 1).pausePrio n p (quanta.getD p 0 % 65536)) s
  else s.ethCtr n 7 1
/-- A PAUSE frame that has passed its FCS check (R154); key 8 stands for all classes together. -/
def State.pauseReceived (s : State) (n quanta : Nat) : State :=
  if (s.portCfg n).flow = 1 then s.pausePrio n 8 (quanta % 65536) else s.ethCtr n 7 1
/-- A MAC control frame counts as a received frame of 64 bytes. -/
def State.macRx (s : State) (n len : Nat) : State := (s.ethCtr n 0 1).ethCtr n 1 len
/-- PFC_FRAME_RECEIVE (R153). -/
def execPfcFrameReceive (n : Nat) (enable : BitVec 8) (quanta : List Nat) (s : State) : Res :=
  whenRunning s fun s => if s.isPort n && s.isUp n then (s.macRx n 64).pfcReceived n enable quanta else s
/-- PAUSE_FRAME_RECEIVE (R154). -/
def execPauseFrameReceive (n quanta : Nat) (s : State) : Res :=
  whenRunning s fun s => if s.isPort n && s.isUp n then (s.macRx n 64).pauseReceived n quanta else s
/-- PAUSE_EXPIRY (R153): `prio` 8 is the pause of all classes. -/
def execPauseExpiry (n prio : Nat) (s : State) : Res :=
  whenRunning s fun s =>
    match SMap.get (s.eth n).pause prio with
    | some e =>
      let s := s.upToClk e
      s.setEth n { s.eth n with pause := SMap.del (s.eth n).pause prio }
    | none => s
/-- PFC_RESEND (R155): half its pause time after the last XOFF, the device sends it again. -/
def execPfcResend (n : Nat) (s : State) : Res :=
  whenRunning s fun s =>
    match (s.eth n).xoff with
    | [] => s
    | (_, t) :: rest =>
      if s.isPort n && s.isUp n then
        (s.upToClk ((rest.map (·.2)).foldl min t + 0xFFFF * 1024 / s.speedGbps n)).sendXoff n
      else s

/-! ## Commands (R134, R144, R158) -/

/-- The ports of a layout: start index and width. -/
def layoutPorts (mask : Nat) : List (Nat × Nat) := (maskBits mask 8).map fun i => (i, min (portWidth mask i) (8 - i))
/-- A valid layout (R132). -/
def layoutOk (mode mask : Nat) : Bool :=
  bit mask 0 && (layoutPorts mask).all fun x => [1, 2, 4, 8].contains x.2 && (mode == 0 || x.2 != 1) && x.1 % x.2 == 0
/-- STEER of a source (10 R296): unlisted, the grove itself. -/
def State.resetSteer (s : State) (key : Nat) : State := { s with cn := { s.cn with steer := SMap.del s.cn.steer key } }
/-- PORT.GROUP carried out (R135). -/
def State.setLayout (s : State) (m mode mask : Nat) : State :=
  let old := s.group m
  let before := layoutPorts old.mask
  let after := layoutPorts mask
  let kept (x : Nat × Nat) : Bool := mode == old.mode && before.contains x && after.contains x
  let s := (before.filter fun x => !kept x).foldl (fun s x =>
    let n := 8 * m + x.1
    let s := ((s.portDown n 4 true).flushPort n).abandonRx n
    { s with et := { s.et with ports := SMap.del s.et.ports n } }) s
  let s := { s with cfg := { s.cfg with groups := SMap.set s.cfg.groups m ⟨mode, mask⟩ } }
  (before ++ after).foldl (fun s x =>
    if kept x then s
    else
      let n := 8 * m + x.1
      let s := { s with cfg := { s.cfg with ports := SMap.del s.cfg.ports n, egress := SMap.del s.cfg.egress n } }
      { s with et := { s.et with ports := SMap.del s.et.ports n } }.resetSteer n) s
/-- PORT.GROUP (R134). -/
def groupBody : Body := fun s r =>
  let p := r.payload
  let m := fld p 0 2
  let mode := fld p 2 1
  let mask := fld p 3 1
  chk (p.length == 8 && zeroAt p 4 4 && m < 64 && mode ≤ 1 && layoutOk mode mask) St.badArg <|
  chk (m < 4 * s.groves) St.notPresent <|
  chk ((List.range 8).all fun i => s.owns r.actor 1 (8 * m + i)) St.notOwner <|
  chk (!s.groveFailed (m / 4)) St.internal <|
  done (if s.group m = ⟨mode, mask⟩ then s else s.setLayout m mode mask)
def execPortGroup (s : State) : Res := slaotRow 0x0201 groupBody s

/-- The attributes of a PORT.SET payload. -/
def portCfgOf (p : List Byte) : PortCfg :=
  ⟨fld p 2 1 == 1, fld p 3 1, BitVec.ofNat 8 (fld p 4 1), fld p 5 1, fld p 6 2, fld p 8 2, BitVec.ofNat 16 (fld p 10 2),
    BitVec.ofNat 16 (fld p 12 2), slice p 16 6, BitVec.ofNat 24 (fld p 24 3)⟩
/-- XOFF toward the partner under a new FLOW or PFC_PRIOS: a pair whose frames are no longer lossless takes no part, and
every other is judged again (R155, 11 R334). -/
def State.reflow (s : State) (n : Nat) : State :=
  let s := s.setEth n { s.eth n with xoff := (s.eth n).xoff.filter fun x => s.losslessPair n x.1 }
  (List.range 8).foldl (fun s p => s.pfcUpdate n p) s
/-- PORT.SET (R144, R146). -/
def portSetBody : Body := fun s r =>
  let p := r.payload
  let n := fld p 0 2
  let c := portCfgOf p
  chk (p.length == 32 && fld p 2 1 ≤ 1 && c.flow ≤ 2 && c.ptp < 4 && 64 ≤ c.maxFrame && c.maxFrame ≤ 16000 &&
    c.holdUpMs ≤ 10000 && zeroAt p 14 2 && zeroAt p 22 2 && zeroAt p 27 5) St.badArg <|
  portGate s r n <| chk (!s.groveFailed (n / 32)) St.internal <|
  let was := (s.portCfg n).enable
  let same := (s.portCfg n).flow == c.flow && (s.portCfg n).pfcPrios == c.pfcPrios
  let s := { s with cfg := { s.cfg with ports := SMap.set s.cfg.ports n c } }
  let s := if same then s else s.reflow n
  done (if was && !c.enable then s.disablePort n else if !was && c.enable then s.startTraining n else s)
def execPortSet (s : State) : Res := slaotRow 0x0202 portSetBody s
/-- The R144 record. -/
def PortCfg.record (c : PortCfg) (n : Nat) : List Byte :=
  leBytes 2 n ++ leBytes 1 (b2n c.enable) ++ leBytes 1 c.flow ++ leBytes 1 c.pfcPrios.toNat ++ leBytes 1 c.ptp ++
    leBytes 2 c.maxFrame ++ leBytes 2 c.holdUpMs ++ leBytes 2 c.ingressCorr.toNat ++ leBytes 2 c.egressCorr.toNat ++ zeros 2 ++
    c.mac ++ zeros 2 ++ leBytes 3 c.prioToTc.toNat ++ zeros 5
/-- The training step of R158: in L400 the step of R141; in S200 what the attempt is doing, which the state machines of the
other standard decide: `open_` is free, and an AUI has no link training. -/
def State.trainStep (s : State) (n open_ : Nat) : Nat :=
  match (s.eth n).state with
  | 1 =>
    let ls := s.portLanes n
    if (s.group (n / 8)).mode = 1 then
      if (s.eth n).s200.aui then [1, 4].getD (open_ % 2) 1 else [1, 2, 4].getD (open_ % 3) 1
    else if ls.any (!·.lock) then 1
    else if ls.any fun l => !l.status.getLsbD 23 then 2
    else if ls.any (!·.data) then 3 else 4
  | 2 => 5
  | _ => 0
/-- PORT.GET. -/
def portGetBody : Body := fun s r =>
  let n := fld r.payload 0 2
  chk (r.payload.length == 2) St.badArg <| portGate s r n <|
  let v := s.fresh 8
  done v.2 ((s.portCfg n).record n ++ leBytes 1 (s.eth n).state ++ leBytes 1 (s.trainStep n v.1.toNat) ++
    leBytes 1 (speedCode (s.speedGbps n)) ++ leBytes 1 (s.group (n / 8)).mode ++ leBytes 1 (s.eth n).reason)
def execPortGet (s : State) : Res := slaotRow 0x0203 portGetBody s
/-- PORT.STATS. -/
def portStatsBody : Body := fun s r =>
  let n := fld r.payload 0 2
  chk (r.payload.length == 2) St.badArg <| portGate s r n <| done s (ctrBytes (s.eth n).ctrs 32)
def execPortStats (s : State) : Res := slaotRow 0x0204 portStatsBody s
/-- PORT.RETRAIN: down with reason ALIGNMENT_LOST, and training restarts at once. -/
def portRetrainBody : Body := fun s r =>
  let n := fld r.payload 0 2
  chk (r.payload.length == 2) St.badArg <| portGate s r n <| chk (s.portCfg n).enable St.badArg <|
  chk (!s.groveFailed (n / 32)) St.internal <| done ((s.portDown n 2 true).startTraining n)
def execPortRetrain (s : State) : Res := slaotRow 0x0205 portRetrainBody s

end Sys2Proof.Machine
end

