-- ==== Sys2Proof/Machine/Decide.lean ====
section
/-! DEFINITION. The decision of a frame (07 R210 to R222; 08 R263 to R266): the action entry, the miss action, meters,
the counters of an action, and the key queue. -/
namespace Sys2Proof.Machine

/-! ## Tenant and port tables (08 R263, R265) -/

def State.tenantEntry (s : State) (t : Nat) : BitVec 256 := SMap.getD s.cfg.tenantTable t 0
def State.portEntry (s : State) (n : Nat) : BitVec 128 := SMap.getD s.cfg.portTable n 0
/-- The port-table entry that stands for a frame's ingress port: none when the tenant's entry is not valid (R264). -/
def State.ingressEntry (s : State) (f : FrameRec) : Option (BitVec 128) :=
  if f.kind = 0 then some (s.portEntry f.id)
  else
    let t := s.tenantEntry (mdTenant f.md)
    if t.getLsbD 0 then some (s.portEntry (eBits t 24 16)) else none
/-- Counter `i` of R268 of the host table raised. -/
def State.hostTblCtr (s : State) (i n : Nat) : State :=
  { s with tb := { s.tb with host := { s.tb.host with ctrs := s.tb.host.ctrs.add i n } } }

/-! ## Meters (07 R219 to R222) -/

/-- A meter's settings, and its buckets refilled to a moment; full until the first use. -/
def State.meterCfg (s : State) (g m : Nat) : MeterCfg := SMap.getD s.cfg.meters (4096 * g + m) {}
def MeterSt.refill (x : MeterSt) (c : MeterCfg) (now : Nat) : MeterSt :=
  if x.used then
    { x with c := min (32000 * c.cbs) (x.c + c.cir * (now - x.at_)), p := min (32000 * c.pbs) (x.p + c.pir * (now - x.at_)), at_ := now }
  else { x with c := 32000 * c.cbs, p := 32000 * c.pbs, at_ := now, used := true }
/-- The colour of a frame of `len` bytes, colour-blind as in RFC 2698: 1 green, 2 yellow, 3 red; and the buckets. -/
def MeterSt.colour (x : MeterSt) (len : Nat) : Nat × MeterSt :=
  if x.p < 32000 * len then (3, x)
  else if x.c < 32000 * len then (2, { x with p := x.p - 32000 * len })
  else (1, { x with p := x.p - 32000 * len, c := x.c - 32000 * len })
/-- The mode a colour selects on a frame (R220); nothing on one already freed by its decision DROP. -/
def State.meterMode (s : State) (t mode tc : Nat) : State :=
  match s.frame t with
  | none => s
  | some f =>
    match mode, f.freed with
    | 1, false => s.freeFrame t
    | 2, false => s.setFrame t { f with meterTc := some tc }
    | 3, false => if (ecnOf f.md f.bytes).any (· != 0) then s.setFrame t { f with meterCe := true } else s.freeFrame t
    | _, _ => s
/-- A frame's meter colours it (R219). -/
def State.meterApply (s : State) (t : Nat) (f : FrameRec) (m : Nat) : State :=
  let g := tagGrove t
  let c := s.meterCfg g m
  let cl := s.classifier g
  let r := ((SMap.getD cl.meters m {}).refill c s.now).colour f.bytes.length
  let x := { r.2 with ctrs := (r.2.ctrs.add (2 * r.1 - 2) 1).add (2 * r.1 - 1) f.bytes.length }
  let s := (s.setClassifier g { cl with meters := SMap.set cl.meters m x }).setFrame t { f with colour := r.1 }
  match r.1 with
  | 2 => s.meterMode t c.yellow c.yellowTc
  | 3 => s.meterMode t c.red c.redTc
  | _ => s
/-- The FCS pass of a decided frame: the action's counters and its meter act once both are known. A frame freed before
its FCS pass is not counted, unless its decision is DROP (R219, R222). -/
def State.onPass (s : State) (t : Nat) : State :=
  match s.frame t with
  | none => s
  | some f =>
    match f.dec with
    | some (.act i e) =>
      if f.check = 1 ∧ f.counted = false ∧ f.refused = false ∧ (f.freed = false ∨ eDisp e = 0) then
        let g := tagGrove t
        let cl := s.classifier g
        let f := { f with counted := true }
        let s := (s.setClassifier g { cl with actionCtrs := (cl.actionCtrs.add (2 * i) 1).add (2 * i + 1) f.bytes.length }).setFrame t f
        if e.getLsbD 45 then s.meterApply t f (eBits e 59 48) else s
      else s
    | _ => s

/-! ## The decision -/

/-- A frame is decided; a decision that frees it frees it at once (R211 DROP, 09 R282). -/
def State.decide_ (s : State) (t : Nat) (d : Decision) (byTrail : Bool) : State :=
  match s.frame t with
  | none => s
  | some f =>
    let s := (s.setFrame t { f with dec := some d, stage := .decided, byTrail := byTrail }).onPass t
    match d with
    | .free => s.freeFrame t
    | .act _ e => if eDisp e = 0 then s.freeFrame t else s
    | _ => s
/-- A valid action entry applied to a frame: its port must be one of the layout, its grove alive, and a re-entered frame
takes no CIPHER action again (R212, R218, 21 R617). -/
def State.applyAction (s : State) (t i : Nat) (e : BitVec 512) (byTrail : Bool) : State :=
  let g := tagGrove t
  let d := Decision.act i e
  let re := (s.frame t).any fun f => f.md.getLsbD 103
  let loop (s : State) : State := { s with ci := { s.ci with
    ctrs := SMap.set s.ci.ctrs g ((SMap.getD s.ci.ctrs g []).add 15 1) } }
  if eDisp e = 6 && re then (loop (s.classCtr g 11 1)).decide_ t .free byTrail
  else if eDisp e = 1 && !s.isPort (eDest e % 512) then (s.classCtr g 6 1).decide_ t .free byTrail
  else if (d.grove g).any s.groveFailed then (s.classCtr g 6 1).decide_ t .free byTrail
  else s.decide_ t d byTrail
/-- An entry that is no action: not valid, or of another ROLE (R212). -/
def entryInvalid (e : BitVec 512) : Bool := !eValid e || eRole e != 0
/-- The miss action (R212, 08 R264, R266). -/
def State.missAction (s : State) (t : Nat) (byTrail : Bool) : State :=
  let g := tagGrove t
  let s := s.classCtr g 4 1
  match s.frame t with
  | none => s
  | some f =>
    match s.ingressEntry f with
    | none => ((s.hostTblCtr 18 1).hostTblCtr 20 1).decide_ t .free byTrail
    | some p =>
      match eBits p 65 64 with
      | 2 => s.decide_ t .exception byTrail
      | 1 =>
        let i := eBits p 95 80
        let e := s.actionEntry g i
        if entryInvalid e || eDisp e == 7 then (s.hostTblCtr 19 1).decide_ t .free byTrail else s.applyAction t i e byTrail
      | _ => (s.hostTblCtr 18 1).decide_ t .free byTrail
/-- The action entry is read once and gives the outcome (R212). -/
def State.decideAction (s : State) (t i : Nat) (byTrail : Bool) : State :=
  let g := tagGrove t
  let e := s.actionEntry g i
  if entryInvalid e then (s.classCtr g 5 1).missAction t byTrail
  else if eDisp e = 7 then s.missAction t byTrail
  else s.applyAction t i e byTrail

/-! ## The key queue (07 R200) -/

/-- A key joins the queue, or its frame is freed when the queue is full. -/
def State.enqueueKey (s : State) (t : Nat) (key : BitVec 512) : State :=
  let g := tagGrove t
  let c := s.classifier g
  if c.keys.length < 1024 then
    (s.setClassifier g { c with keys := c.keys ++ [t] }).modFrame t fun f => { f with key := key, stage := .key }
  else
    let w := tally c.keyWindow s.clk
    let s := (s.setClassifier g { c with keyWindow := some w.1 }).classCtr g 1 1
    let s := if w.2 then s.fireDev g 3 Ev.classBacklog (tallyData g w.1.2) else s
    s.decide_ t .free false

/-! ## What the service cores keep that the frame path writes (15 R446, R455) -/

def State.svc (s : State) (g : Nat) : SvcGrove := SMap.getD s.sv.groves g {}
def State.setSvc (s : State) (g : Nat) (x : SvcGrove) : State := { s with sv := { s.sv with groves := SMap.set s.sv.groves g x } }
def State.svcCtr (s : State) (g i n : Nat) : State := s.setSvc g { s.svc g with ctrs := (s.svc g).ctrs.add i n }
def SvcGrove.chan (x : SvcGrove) (c : Nat) : Chan := SMap.getD x.chans c {}
def SvcGrove.setChan (x : SvcGrove) (c : Nat) (v : Chan) : SvcGrove := { x with chans := SMap.set x.chans c v }

end Sys2Proof.Machine
end

