-- ==== Sys2Proof/Machine/Parse.lean ====
section
/-! DEFINITION. Sapling parsers (06): dispatch, the instruction set, the ends of a parse, trail hints, and the loading
of parse programs. -/
namespace Sys2Proof.Machine

/-! ## Dispatch (R160 to R163) -/

/-- WINDOW_LEN of a frame (R161). -/
def windowLen (f : FrameRec) : Nat := min 256 f.bytes.length
/-- The moment the window of an Ethernet frame is ready: the trail's result, or its 256th or last byte (R160). -/
def State.windowAt (s : State) (f : FrameRec) : Nat :=
  match f.port with
  | some n => max (f.first + 26) (f.first + s.wireTime n (windowLen f))
  | none => f.first + 26
/-- WINDOW_READY (R160, R162): the window joins the dispatch queue, or its frame is dropped as backlog. -/
def execWindowReady (t : Nat) (s : State) : Res :=
  whenRunning s fun s =>
    match s.frame t with
    | some f =>
      let g := tagGrove t
      if f.stage ≠ .window ∨ f.gone = true ∨ (f.port.isSome = true ∧ f.bytes.length < 64) then s
      else
        let s := s.upTo (s.windowAt f)
        let p := s.parser g
        if p.queue.length < 2048 then
          let s := s.setParser g { p with queue := p.queue ++ [t], ctrs := p.ctrs.peak 13 (p.queue.length + 1) }
          s.modFrame t fun f => { f with stage := .ready }
        else
          let w := tally p.backlogWindow s.clk
          let s := (s.setParser g { p with backlogWindow := some w.1 }).parseCtr g 10 1
          let s := if w.2 then s.fireDev g 2 Ev.parseBacklog (tallyData g w.1.2) else s
          s.decide_ t .free false
    | none => s

/-- A thread of a live sapling core. -/
def State.saplingLive (s : State) (t : Thr) : Bool :=
  t.grove < s.groves && t.core < 128 && t.thread < 8 && !s.isFenced 0x01 t.grove t.core
/-- The contexts of a thread, the one being parsed first. -/
def Parser.ctxs (p : Parser) (t : Thr) : List Ctx := SMap.getD p.threads (8 * t.core + t.thread) []
def Parser.setCtxs (p : Parser) (t : Thr) (l : List Ctx) : Parser := { p with threads := SMap.set p.threads (8 * t.core + t.thread) l }
/-- Some live thread of the grove has no frame in either context. -/
def State.someIdle (s : State) (g : Nat) : Bool :=
  let busy := (s.parser g).threads.filter fun x => !x.2.isEmpty && !s.isFenced 0x01 g (x.1 / 8)
  busy.length < 8 * (s.live 0x01 g 128).length
/-- WINDOW_DISPATCH (R162): to an idle thread while one exists, else to a free second context. -/
def execWindowDispatch (t : Thr) (s : State) : Res :=
  whenRunning s fun s =>
    let p := s.parser t.grove
    let cs := p.ctxs t
    match p.queue with
    | tag :: rest =>
      if s.saplingLive t && (cs.isEmpty || (cs.length == 1 && !s.someIdle t.grove)) then
        let s := s.setParser t.grove (Parser.setCtxs { p with queue := rest, ctrs := p.ctrs.inc 0 } t (cs ++ [{ tag := tag }]))
        s.modFrame tag fun f => { f with stage := .parsing }
      else s
    | [] => s
/-- THREAD_FRAME_START (R163): the context takes its start values and the bank active at its first instruction (R185). -/
def execThreadFrameStart (t : Thr) (s : State) : Res :=
  whenRunning s fun s =>
    let p := s.parser t.grove
    match p.ctxs t with
    | c :: cs =>
      if c.started then s
      else
        match s.frame c.tag with
        | some f => s.setParser t.grove (p.setCtxs t ({ tag := c.tag, started := true, md := f.md, bank := p.active } :: cs))
        | none => s.setParser t.grove (p.setCtxs t cs)
    | [] => s

/-! ## Instruction words (R166) -/

/-- The opcode of a word, and a field of it. -/
def opOf (w : W64) : Nat := eBits w 63 56
/-- The bits an opcode's format reserves. -/
def reservedMask (op : Nat) : Option W64 :=
  if op = 0x01 then some 0x00FFFFFFFFFFFFFF
  else if op = 0x02 then some 0x00FFFFFFFFFF00FC
  else if op = 0x10 ∨ op = 0x11 then some 0x0000000000FFFFFF
  else if 0x20 ≤ op ∧ op ≤ 0x26 then some 0x00000FFFFFFFFFFF
  else if 0x30 ≤ op ∧ op ≤ 0x36 then some 0x0000FFFF00000000
  else if op = 0x37 then some 0x000FFFFF00000000
  else if op = 0x40 then some 0x008000FFFFFFFFFF
  else if op = 0x41 then some 0x0080F0FF00000000
  else if op = 0x50 then some 0x00FFFFFFFFFFF000
  else if op = 0x51 ∨ op = 0x52 then some 0x008FFFFFFFFFF000
  else if op = 0x53 then some 0x00F0FFFFF000F000
  else if op = 0x60 then some 0x00F00200FFFFFFFF -- bits 55:52, 41 and 31:0
  else if op = 0x61 then some 0x00F0700FE0C0FFFF
  else if op = 0x62 then some 0x00FF020000000000
  else if op = 0x70 then some 0x00F08F80FFFFFFFF
  else if op = 0x80 then some 0x00F0FFFFFFFFFFF0
  else none
/-- A field holds a value its format does not allow. -/
def fieldBad (w : W64) : Bool :=
  match opOf w with
  | 0x02 => eBits w 1 0 == 3 || (eBits w 1 0 == 0 && eBits w 15 8 != 0)
  | 0x35 | 0x36 => 63 < eBits w 31 0
  | 0x40 | 0x41 => 5 < eBits w 43 40
  | 0x62 => eBits w 47 42 == 0 || 32 < eBits w 47 42
  | _ => false
/-- A valid instruction. -/
def wordValid (w : W64) : Bool :=
  match reservedMask (opOf w) with
  | some m => w &&& m == 0 && !fieldBad w
  | none => false

/-! ## Ends of a parse (R172 to R178) -/

/-- The words of a bank: a loaded program, or the built-in one. -/
def Parser.words (p : Parser) (bank : Nat) : List W64 := ((if bank = 0 then p.bank0 else p.bank1).getD Config.builtinProgram)
/-- The bank holds the built-in program. -/
def Parser.isBuiltin (p : Parser) (bank : Nat) : Bool := (if bank = 0 then p.bank0 else p.bank1).isNone
/-- The record at the end of a parse (R165). -/
def endMd (md : BitVec 1024) (status reason faultPc count : Nat) : BitVec 1024 :=
  setBits (setBits (setBits (setBits md 263 256 status) 271 264 reason) 287 272 faultPc) 295 288 count
/-- A parse ends: its thread goes on to its other context, and the frame takes the record. INSTRUCTIONS counts a parse
here, so one that is abandoned with its frame adds nothing: R188 does not say (DESIGN CHOICE, assumption log 29). -/
def State.endParse (s : State) (t : Thr) (c : Ctx) (status reason faultPc count ctr : Nat) : State :=
  let p := s.parser t.grove
  let s := s.setParser t.grove { p.setCtxs t ((p.ctxs t).drop 1) with ctrs := (p.ctrs.add 1 count).inc ctr }
  s.modFrame c.tag fun f => { f with md := endMd c.md status reason faultPc count }
/-- The notification of a fault on channel 0 (R176): posted, or its COUNT raised while it is unread. The built-in image
collects it at once and counts it (15, Built-in services). -/
def State.notifyParseFault (s : State) (t : Thr) (status pc : Nat) : State :=
  let x := s.svc t.grove
  if x.image.isNone then s.svcCtr t.grove 7 1
  else
  match (x.chan 0).msgs with
  | [w] :: rest =>
    let w := (w : W64)
    let w := setBits w 63 48 (min (eBits w 63 48 + 1) 0xFFFF)
    s.setSvc t.grove (x.setChan 0 { x.chan 0 with msgs := [w] :: rest })
  | _ =>
    let w := BitVec.ofNat 64 (2 ^ 32 * pc + 2 ^ 24 * status + 256 * t.core + t.thread)
    s.setSvc t.grove (x.setChan 0 { x.chan 0 with msgs := [[w]] })
/-- EV_PARSE_FAULT at most once in a window: kind of the first fault and the count (R177). -/
def State.fireParseFault (s : State) (g status : Nat) : State :=
  let p := s.parser g
  match p.faultWindow with
  | some (at_, kind, n) =>
    if s.clk < at_ + ms 1000 then s.setParser g { p with faultWindow := some (at_, kind, n + 1) }
    else (s.setParser g { p with faultWindow := some (s.clk, status - 3, 1) }).fireDev g 2 Ev.parseFault
        (BitVec.ofNat 32 (g + 16 * (status - 3) + 65536))
  | none => (s.setParser g { p with faultWindow := some (s.clk, status - 3, 1) }).fireDev g 2 Ev.parseFault
        (BitVec.ofNat 32 (g + 16 * (status - 3) + 65536))
/-- A fault ends the parse (R174): PARSE_STATUS 3 OVERRUN, 4 WINDOW, 5 INVALID. -/
def State.parseFault (s : State) (t : Thr) (c : Ctx) (status faultPc count : Nat) : State :=
  let s := s.endParse t c status 0 faultPc count (status + 2)
  ((s.notifyParseFault t status faultPc).fireParseFault t.grove status).decide_ c.tag .exception false
/-- A MEMORY fault, reported as an uncorrectable error of the thread's leaf (21 R612, R613) and with its FAULT_PC (21 R624);
the syndrome is free. The instruction at FAULT_PC is counted, as one that faults is (DESIGN CHOICE, assumption log 29). -/
def State.memoryFault (s : State) (t : Thr) (c : Ctx) (faultPc count : Nat) : State :=
  let l := locLeaf t.grove 0x01 t.core t.thread
  let (syn, s) := s.fresh 8
  ((s.uncorrectable l syn).log l 0x0B 1 (BitVec.ofNat 32 faultPc)).parseFault t c 6 faultPc count

/-- The next instruction of a thread on a loaded program, when one is to be executed: its context and word. What the words
of the built-in program do one by one is not stated (07 R190): a thread on it acts by its HALT alone. -/
def State.nextWord (s : State) (t : Thr) : Option (Ctx × W64) :=
  let p := s.parser t.grove
  match p.ctxs t with
  | c :: _ =>
    if c.started && c.count < 96 && !p.isBuiltin c.bank then ((p.words c.bank)[c.pc]?).map fun w => (c, w) else none
  | [] => none
/-- The word a thread stands at, or its context, reads with an uncorrectable error. -/
def State.wordBad (s : State) (t : Thr) (c : Ctx) : Bool :=
  c.bad || (s.parser t.grove).badWords.contains (2048 * c.bank + c.pc)
/-- The thread's context after an instruction. -/
def State.setCtx (s : State) (t : Thr) (c : Ctx) : State :=
  let p := s.parser t.grove
  s.setParser t.grove (p.setCtxs t (c :: (p.ctxs t).drop 1))
/-- What an instruction does: the context after it, or a WINDOW fault. -/
abbrev SpOp := Ctx → W64 → List Byte → Option Ctx
/-- The row of an opcode: MEMORY and INVALID faults first, then its effect; the program counter goes on by one unless
the effect has set it. -/
def spRow (t : Thr) (op : Nat) (f : SpOp) (s : State) : Res :=
  whenRunning s fun s =>
    match s.nextWord t with
    | some (c, w) =>
      if s.wordBad t c then s.memoryFault t c c.pc (c.count + 1)
      else if opOf w ≠ op then s
      else if !wordValid w then s.parseFault t c 5 c.pc (c.count + 1)
      else
        match f { c with pc := c.pc + 1, count := c.count + 1 } w ((s.frame c.tag).elim [] fun x => x.bytes.take (windowLen x)) with
        | some c' => s.setCtx t c'
        | none => s.parseFault t c 4 c.pc (c.count + 1)
    | none => s

/-! ## Operands -/

def Ctx.reg (c : Ctx) (i : Nat) : W64 := SMap.getD c.regs i 0
def Ctx.setReg (c : Ctx) (i : Nat) (v : W64) : Ctx := { c with regs := SMap.set c.regs i v }
def Ctx.flag (c : Ctx) (i : Nat) : Bool := c.flags.getLsbD i
def Ctx.setFlag (c : Ctx) (i : Nat) (v : Bool) : Ctx := { c with flags := setBits c.flags i i (b2n v) }
/-- RD, RA, RB and the immediate. -/
def rd (w : W64) : Nat := eBits w 55 52
def ra (w : W64) : Nat := eBits w 51 48
def rb (w : W64) : Nat := eBits w 47 44
def imm (w : W64) : W64 := BitVec.ofNat 64 (eBits w 31 0)
/-- The address of EXT, EXTM and KEYW: an exact sum (R169). -/
def spAddr (c : Ctx) (w : W64) : Nat := eBits w 43 36 + if w.getLsbD 47 then (c.reg (ra w)).toNat else 0
/-- The extracted field: shifted, and masked to FW bits, 0 meaning 64. -/
def extract (w : W64) (v : Nat) : W64 :=
  let n := if eBits w 29 24 = 0 then 64 else eBits w 29 24
  BitVec.ofNat 64 (v / 2 ^ eBits w 35 30 % 2 ^ n)
/-- EXT and EXTM. -/
def opExt (c : Ctx) (w : W64) (src : List Byte) (big : Bool) : Option Ctx :=
  let n := eBits w 46 44 + 1
  let a := spAddr c w
  if a + n ≤ src.length then
    some (c.setReg (rd w) (extract w (if big then beNat (slice src a n) else leNat (slice src a n))))
  else none
/-- A register operation and its immediate form. -/
def opReg (f : W64 → W64 → W64) : SpOp := fun c w _ => some (c.setReg (rd w) (f (c.reg (ra w)) (c.reg (rb w))))
def opImm (f : W64 → W64 → W64) : SpOp := fun c w _ => some (c.setReg (rd w) (f (c.reg (ra w)) (imm w)))
/-- A shift by the low 6 bits of its amount (R167). -/
def shl6 (a b : W64) : W64 := a <<< (b.toNat % 64)
def shr6 (a b : W64) : W64 := a >>> (b.toNat % 64)
/-- COND. -/
def condHolds (c : Nat) (a b : W64) : Bool :=
  match c with
  | 0 => a == b | 1 => a != b | 2 => a.ult b | 3 => !a.ult b | 4 => a &&& b != 0 | _ => a &&& b == 0
def opCmp (b : Ctx → W64 → W64) : SpOp := fun c w _ =>
  some (c.setFlag (eBits w 54 52) (condHolds (eBits w 43 40) (c.reg (ra w)) (b c w)))
/-- A branch taken under a condition. -/
def opBranch (p : Ctx → W64 → Bool) : SpOp := fun c w _ => some (if p c w then { c with pc := eBits w 11 0 } else c)
/-- Key bits KPOS + KW − 1 : KPOS take the low KW bits of a value (R170). -/
def keyField (key : BitVec 512) (w v : W64) : BitVec 512 :=
  let n := if eBits w 47 42 = 0 then 64 else eBits w 47 42
  setBits key (eBits w 40 32 + n - 1) (eBits w 40 32) (v.toNat % 2 ^ n)
/-- Key byte `k` replaced. -/
def setKeyByte (key : BitVec 512) (k : Nat) (b : Byte) : BitVec 512 := setBits key (511 - 8 * k) (504 - 8 * k) b.toNat
/-- Bytes placed in the key from key byte `k` on. -/
def putKey (key : BitVec 512) : Nat → List Byte → BitVec 512
  | _, [] => key
  | k, b :: bs => putKey (setKeyByte key k b) (k + 1) bs
/-- The metadata record's bytes. -/
def mdBytes (m : BitVec 1024) : List Byte := leBytes 128 m.toNat

/-! ## The instruction rows (R168) -/

def execSpNop (t : Thr) (s : State) : Res := spRow t 0x01 (fun c _ _ => some c) s
def execSpExt (t : Thr) (s : State) : Res := spRow t 0x10 (fun c w win => opExt c w win true) s
def execSpExtm (t : Thr) (s : State) : Res := spRow t 0x11 (fun c w _ => opExt c w (mdBytes c.md) false) s
def execSpAdd (t : Thr) (s : State) : Res := spRow t 0x20 (opReg (· + ·)) s
def execSpSub (t : Thr) (s : State) : Res := spRow t 0x21 (opReg (· - ·)) s
def execSpAnd (t : Thr) (s : State) : Res := spRow t 0x22 (opReg (· &&& ·)) s
def execSpOr (t : Thr) (s : State) : Res := spRow t 0x23 (opReg (· ||| ·)) s
def execSpXor (t : Thr) (s : State) : Res := spRow t 0x24 (opReg (· ^^^ ·)) s
def execSpShl (t : Thr) (s : State) : Res := spRow t 0x25 (opReg shl6) s
def execSpShr (t : Thr) (s : State) : Res := spRow t 0x26 (opReg shr6) s
def execSpAddi (t : Thr) (s : State) : Res := spRow t 0x30 (opImm (· + ·)) s
def execSpSubi (t : Thr) (s : State) : Res := spRow t 0x31 (opImm (· - ·)) s
def execSpAndi (t : Thr) (s : State) : Res := spRow t 0x32 (opImm (· &&& ·)) s
def execSpOri (t : Thr) (s : State) : Res := spRow t 0x33 (opImm (· ||| ·)) s
def execSpXori (t : Thr) (s : State) : Res := spRow t 0x34 (opImm (· ^^^ ·)) s
def execSpShli (t : Thr) (s : State) : Res := spRow t 0x35 (opImm shl6) s
def execSpShri (t : Thr) (s : State) : Res := spRow t 0x36 (opImm shr6) s
def execSpLdi (t : Thr) (s : State) : Res := spRow t 0x37 (fun c w _ => some (c.setReg (rd w) (imm w))) s
def execSpComp (t : Thr) (s : State) : Res := spRow t 0x40 (opCmp fun c w => c.reg (rb w)) s
def execSpCompi (t : Thr) (s : State) : Res := spRow t 0x41 (opCmp fun _ w => imm w) s
def execSpBr (t : Thr) (s : State) : Res := spRow t 0x50 (opBranch fun _ _ => true) s
def execSpBt (t : Thr) (s : State) : Res := spRow t 0x51 (opBranch fun c w => c.flag (eBits w 54 52)) s
def execSpBf (t : Thr) (s : State) : Res := spRow t 0x52 (opBranch fun c w => !c.flag (eBits w 54 52)) s
/-- BRX: to TARGET plus Ra, or TARGET plus LIMIT when Ra is not below it. -/
def execSpBrx (t : Thr) (s : State) : Res :=
  spRow t 0x53 (fun c w _ => some { c with pc := eBits w 11 0 + min (c.reg (ra w)).toNat (eBits w 27 16) }) s
def execSpKey (t : Thr) (s : State) : Res := spRow t 0x60 (fun c w _ => some { c with key := keyField c.key w (c.reg (ra w)) }) s
/-- KEYW: NM1 + 1 window bytes to key bytes KBYTE onward (R169, R170). -/
def execSpKeyw (t : Thr) (s : State) : Res :=
  spRow t 0x61 (fun c w win =>
    let n := eBits w 28 24 + 1
    let a := spAddr c w
    if a + n ≤ win.length then some { c with key := putKey c.key (eBits w 21 16) (slice win a n) } else none) s
def execSpKeyi (t : Thr) (s : State) : Res := spRow t 0x62 (fun c w _ => some { c with key := keyField c.key w (imm w) }) s
/-- EMIT: metadata bytes MOFF to MOFF + WM1. -/
def execSpEmit (t : Thr) (s : State) : Res :=
  spRow t 0x70 (fun c w _ =>
    let n := eBits w 46 44 + 1
    let o := eBits w 38 32
    some { c with md := setBits c.md (8 * (o + n) - 1) (8 * o) ((c.reg (ra w)).toNat % 2 ^ (8 * n)) }) s
/-- THINT: a second one replaces the first (R179). -/
def execSpThint (t : Thr) (s : State) : Res :=
  spRow t 0x80 (fun c w _ => some { c with hint := some { ra := c.reg (ra w), cls := eBits w 3 0 } }) s

/-- The standard key of the built-in program (07 R190). -/
def standardKey (f : FrameRec) : BitVec 512 :=
  let b := f.bytes
  let h := mdHdrs f.md
  let tagged := bit h 0
  let o := if bit h 1 then 20 else if tagged then 16 else 12
  let l3 := mdL3 f.md
  let l4 := eBits f.md 175 168
  let mapped (o : Nat) : List Byte := zeros 10 ++ [0xFF, 0xFF] ++ slice b o 4
  let ip := if bit h 2 then mapped (l3 + 12) ++ mapped (l3 + 16) ++ slice b (l3 + 9) 1 ++ slice b (l3 + 1) 1
    else if bit h 3 then slice b (l3 + 8) 32 ++ slice b (l3 + 6) 1 ++ beBytes 1 (nfld b l3 2 / 16 % 256)
    else zeros 34
  let udp := if bit h 4 then slice b l4 4 else zeros 4
  let vni := if bit h 5 || bit h 6 then slice b (l4 + 12) 3 else zeros 3
  let fl := 128 * b2n (bit h 2) + 64 * b2n (bit h 3) + 32 * b2n (bit h 4) + 16 * b2n (bit h 5) + 8 * b2n (bit h 6) + 4 * b2n (bit h 7)
  BitVec.ofNat 512 (beNat (beBytes 2 (mdTenant f.md) ++ [BitVec.ofNat 8 f.kind] ++ beBytes 3 (f.id % 2 ^ 24) ++ slice b 0 12 ++
    (if tagged then slice b 14 2 else zeros 2) ++ slice b o 2 ++ ip ++ udp ++ vni ++ [BitVec.ofNat 8 fl]))

/-- HALT with a valid word: CLASSIFY, DROP or EXCEPTION (R172). -/
def State.halt (s : State) (t : Thr) (c : Ctx) (outcome reason count : Nat) (key : BitVec 512) : State :=
  match outcome with
  | 0 =>
    let s := (s.endParse t c 0 0 0 count 2).modFrame c.tag fun f =>
      { f with hint := c.hint.map fun h => { h with key := BitVec.ofNat 384 (eBits key 511 128) } }
    s.enqueueKey c.tag key
  | 1 => (s.endParse t c 1 reason 0 count 3).decide_ c.tag .free false
  | _ => (s.endParse t c 2 reason 0 count 4).decide_ c.tag .exception false
/-- The word of the built-in program at which a thread takes a MEMORY fault: whether its path meets a word that reads with
an error is not stated, and free. -/
def State.builtinBad (s : State) (t : Thr) (c : Ctx) (k : Nat) : Option Nat :=
  if c.bad then some 0
  else ((s.parser t.grove).badWords.filter (· / 2048 == c.bank))[k]?.map (· % 2048)
/-- The end of a parse on the built-in program (07 R190): CLASSIFY with the standard key, after a number of instructions
that depends on the headers, is not stated, and is at most the program's longest path: a free value from 1 on. -/
def State.haltBuiltin (s : State) (t : Thr) (c : Ctx) (f : FrameRec) : State :=
  let (n, s) := s.fresh 16
  let (k, s) := s.fresh 16
  let count := 1 + n.toNat % max 1 Config.builtinLongest.val
  match s.builtinBad t c k.toNat with
  | some pc => s.memoryFault t c pc count
  | none => s.halt t c 0 0 count (standardKey f)
/-- HALT (R172). -/
def execSpHalt (t : Thr) (s : State) : Res :=
  whenRunning s fun s =>
    let p := s.parser t.grove
    match p.ctxs t with
    | c :: _ =>
      if c.started && p.isBuiltin c.bank then
        match s.frame c.tag with
        | some f => s.haltBuiltin t c f
        | none => s
      else
        match s.nextWord t with
        | some (c, w) =>
          if s.wordBad t c then s.memoryFault t c c.pc (c.count + 1)
          else if opOf w ≠ 0x02 then s
          else if !wordValid w then s.parseFault t c 5 c.pc (c.count + 1)
          else s.halt t c (eBits w 1 0) (eBits w 15 8) (c.count + 1) c.key
        | none => s
    | [] => s
/-- OVERRUN_FAULT (R173): in place of the 97th instruction. -/
def execOverrunFault (t : Thr) (s : State) : Res :=
  whenRunning s fun s =>
    match (s.parser t.grove).ctxs t with
    | c :: _ => if c.started && c.count == 96 then s.parseFault t c 3 c.pc 96 else s
    | [] => s
/-- FALL_THROUGH_FAULT (R171): in place of a fetch from word LENGTH; and a word whose opcode is in no row is invalid in
the same way (R166), counted as executed. A thread that has executed 96 instructions and stands at word LENGTH takes
OVERRUN: R171 and R173 both name a fault there, and the count of R173 is asked first (DESIGN CHOICE, assumption log 29). -/
def execFallThroughFault (t : Thr) (s : State) : Res :=
  whenRunning s fun s =>
    let p := s.parser t.grove
    match p.ctxs t with
    | c :: _ =>
      if c.started && c.count < 96 && !p.isBuiltin c.bank then
        match (p.words c.bank)[c.pc]? with
        | none => s.parseFault t c 5 c.pc c.count
        | some w => if (reservedMask (opOf w)).isNone then s.parseFault t c 5 c.pc (c.count + 1) else s
      else s
    | [] => s

/-- The 64 bytes of a candidate record (15 R455). -/
def CandRec.image (r : CandRec) : List Byte :=
  beBytes 48 r.key.toNat ++ leBytes 8 r.ra.toNat ++ leBytes 1 r.cls ++ zeros 1 ++ leBytes 2 r.action ++ leBytes 4 r.time
/-- A candidate joins the grove's candidate queue, which holds 512, or is counted in THINT_DROPS. -/
def State.deliverCandidate (s : State) (g : Nat) (r : CandRec) : State :=
  let x := s.svc g
  if (x.candPi - x.candCi).toNat < 512 then
    (s.setSvc g { x with candRing := x.candRing ++ [r], candPi := x.candPi + 1,
                         l2 := putBytes x.l2 (0x8C0000 + 64 * (x.candPi.toNat % 512)) r.image }).parseCtr g 11 1
  else s.parseCtr g 12 1
/-- THINT_CANDIDATE_DELIVER (R179, 15 R455): the candidate of a frame whose walk returned an action index, once its FCS
has passed, whatever has become of the frame since. -/
def execThintCandidateDeliver (t : Nat) (s : State) : Res :=
  whenRunning s fun s =>
    match s.frame t with
    | some f =>
      match f.hint with
      | some h =>
        match h.action with
        | some a =>
          if f.check = 1 then
            ((s.setFrame t { f with hint := none }).deliverCandidate (tagGrove t) ⟨h.key, h.ra, h.cls, a, eBits f.md 31 0⟩).reap t
          else s
        | none => s
      | none => s
    | none => s

/-! ## Loading programs (R182 to R188) -/

/-- The gate of a parse-program command. -/
def State.groveGate (s : State) (f : Nat) (gs : List Nat) : Bool := f == operator || gs.all (s.ownsGrove f)
/-- CLASS.PARSE_STAGE. -/
def parseStageBody : Body := fun s r =>
  let p := r.payload
  let off := fld p 2 2
  let n := fld p 4 2
  chk (p.length == 8 + 8 * n && fld p 0 1 ≤ 1 && zeroAt p 1 1 && 1 ≤ n && n ≤ 501 && zeroAt p 6 2 && off + n ≤ 2048) St.badArg <|
  let base := if fld p 0 1 = 1 then [] else SMap.getD s.ps.staging r.mb []
  let buf := (List.range n).foldl (fun m i => SMap.set m (off + i) (BitVec.ofNat 64 (fld p (8 + 8 * i) 8))) base
  done { s with ps := { s.ps with staging := SMap.set s.ps.staging r.mb buf } }
def execClassParseStage (s : State) : Res := slaotRow 0x0410 parseStageBody s

/-- The KIND of the first failure of a word of a program of `len` words (R183). -/
def wordFailure (len : Nat) (w : W64) : Option Nat :=
  let op := opOf w
  if !wordValid w then some 2
  else if (0x50 ≤ op && op ≤ 0x52 && len ≤ eBits w 11 0) || (op == 0x53 && len ≤ eBits w 11 0 + eBits w 27 16) then some 3
  else if !w.getLsbD 47 && ((op == 0x10 && 256 < eBits w 43 36 + eBits w 46 44 + 1) ||
      (op == 0x11 && 128 < eBits w 43 36 + eBits w 46 44 + 1) || (op == 0x61 && 256 < eBits w 43 36 + eBits w 28 24 + 1)) then some 4
  else if ((op == 0x60 || op == 0x62) && 512 < eBits w 40 32 + (if eBits w 47 42 = 0 then 64 else eBits w 47 42)) ||
      (op == 0x61 && 64 < eBits w 21 16 + eBits w 28 24 + 1) then some 5
  else if op == 0x70 && (eBits w 38 32 < 64 || 128 < eBits w 38 32 + eBits w 46 44 + 1) then some 6
  else none
/-- The first word that fails the check, with its KIND. -/
def checkProgram (buf : SMap W64) (len : Nat) : Option (Nat × Nat) :=
  if len = 0 ∨ 2048 < len then some (0xFFFF, 1)
  else (List.range len).findSome? fun i =>
    match SMap.get buf i with
    | none => some (i, 1)
    | some w => (wordFailure len w).map fun k => (i, k)
/-- The words a word can be followed by. -/
def successors (i : Nat) (w : W64) : List Nat :=
  match opOf w with
  | 0x02 => []
  | 0x50 => [eBits w 11 0]
  | 0x51 | 0x52 => [eBits w 11 0, i + 1]
  | 0x53 => (List.range (eBits w 27 16 + 1)).map (eBits w 11 0 + ·)
  | _ => [i + 1]
/-- One round of the longest-path computation: the most instructions from each word to a HALT, in at most `k` words; 0
while no such path is known. -/
def longestRound (ws : List W64) (best : List Nat) : List Nat :=
  (List.range ws.length).map fun i =>
    let w := ws.getD i 0
    if opOf w = 0x02 then 1
    else
      let m := ((successors i w).map fun j => best.getD j 0).foldl max 0
      if m = 0 then 0 else m + 1
/-- Words that the words listed can reach, by rounds. -/
def reachRound (ws : List W64) (r : List Nat) : List Nat :=
  (r ++ r.flatMap fun i => (successors i (ws.getD i 0)).filter (· < ws.length)).eraseDups
/-- Rounds until nothing changes, at most `k`. -/
def rounds {α : Type} [BEq α] (f : α → α) : Nat → α → α
  | 0, x => x
  | k + 1, x => let y := f x; if y == x then x else rounds f k y
/-- The control graph of a program has a cycle. -/
def cyclicProgram (ws : List W64) : Bool :=
  (List.range ws.length).any fun i =>
    (rounds (reachRound ws) ws.length ((successors i (ws.getD i 0)).filter (· < ws.length))).contains i
/-- LONGEST_PATH (R184): 0 when the control graph has a cycle; and 0 when no path leads to a HALT, of which R184 says
nothing (DESIGN CHOICE, assumption log 29). -/
def longestPath (ws : List W64) : Nat :=
  if cyclicProgram ws then 0
  else (rounds (longestRound ws) (ws.length + 1) (List.replicate ws.length 0)).getD 0 0

/-- CLASS.PARSE_LOAD (R182, R183). -/
def parseLoadBody : Body := fun s r =>
  let p := r.payload
  let gs := maskBits (fld p 0 2) 16
  let len := fld p 2 2
  let builtin := fld p 4 1 == 1
  let buf := SMap.getD s.ps.staging r.mb []
  let ws := (List.range len).map fun i => SMap.getD buf i 0
  chk (p.length == 8 && fld p 0 2 != 0 && fld p 4 1 ≤ 1 && zeroAt p 5 3) St.badArg <|
  chk (gs.all (· < s.groves)) St.notPresent <| chk (s.groveGate r.actor gs) St.notOwner <|
  chk (!gs.any fun g => s.isHeld (.parse g)) St.busy <| chk (!gs.any s.groveFailed) St.internal <|
  if builtin then startOp s r gs.length (.parseLoad gs gs none)
  else
    match checkProgram buf len with
    | some (w, k) => .ok ⟨s, some ⟨St.badArg, leBytes 2 w ++ leBytes 1 k, 0⟩⟩
    | none => startOp s r gs.length (.parseLoad gs gs (some ⟨ws, longestPath ws⟩))
def execClassParseLoad (s : State) : Res := slaotRow 0x0411 parseLoadBody s

/-- The digest of a program. -/
def programDigest (ws : List W64) : List Byte := (leBytes 64 (Config.shake256 (ws.flatMap fun w => leBytes 8 w.toNat)).toNat).take 32
/-- A bank is written, verified and made active in one cycle, and the counters reset (R185, R188), BACKLOG_PEAK to the depth
the dispatch queue then has; the program enters the running configuration (R186) and measurement register M3 (19 R590). -/
def State.switchBank (s : State) (g : Nat) (prog : Option Program) : State :=
  let p := s.parser g
  let next := 1 - p.active
  let ws := prog.map (·.words)
  let bad := p.badWords.filter fun i => i / 2048 != next
  let ctrs := if p.queue.isEmpty then [] else Ctrs.peak [] 13 p.queue.length
  let s := s.setParser g (if next = 0 then { p with bank0 := ws, active := 0, ctrs := ctrs, badWords := bad }
    else { p with bank1 := ws, active := 1, ctrs := ctrs, badWords := bad })
  let progs := match prog with | some x => SMap.set s.cfg.programs g x | none => SMap.del s.cfg.programs g
  { s with cfg := { s.cfg with
      programs := progs
      parseLoads := SMap.set s.cfg.parseLoads g (SMap.getD s.cfg.parseLoads g 0 + 1) } }.extend 3 (Config.measured (.parse g (programDigest (ws.getD Config.builtinProgram))))
/-- A frame still runs on the bank that would be written (R185). -/
def State.bankBusy (s : State) (g : Nat) : Bool :=
  (s.parser g).threads.any fun x => x.2.any fun c => c.started && c.bank == 1 - (s.parser g).active
/-- PARSE_BANK_SWITCH (R185): the next grove of a load; `ok` is false when its bank does not verify. -/
def execParseBankSwitch (h : Nat) (ok : Bool) (s : State) : Res :=
  whenRunning s (opRow h (fun s _ => s) fun s o =>
    match o.data with
    | .parseLoad all (g :: rest) prog =>
      if !ok then s.endOp o St.internal
      else if s.bankBusy g then s
      else
        let s := s.switchBank g prog
        if rest.isEmpty then s.endOp o St.ok else s.setOp { o with data := .parseLoad all rest prog }
    | .parseLoad _ [] _ => s.endOp o St.ok
    | _ => s)

/-- The checks the commands that read one grove share. -/
def groveRead (len : Nat) (wf : List Byte → Bool) (k : State → Request → Nat → Except Nat Done) : Body := fun s r =>
  let g := fld r.payload 0 1
  chk (r.payload.length == len && g < 16 && wf r.payload) St.badArg <| chk (g < s.groves) St.notPresent <|
  chk (s.groveGate r.actor [g]) St.notOwner <| k s r g
/-- CLASS.PARSE_GET. -/
def parseGetBody : Body := groveRead 1 (fun _ => true) fun s _ g =>
  let p := s.parser g
  let ws := p.words p.active
  let longest := match SMap.get s.cfg.programs g with | some x => if x.longest ≤ 0xFFFF then x.longest else 0 | none => Config.builtinLongest.val
  done s (leBytes 2 ws.length ++ leBytes 2 longest ++ leBytes 4 (SMap.getD s.cfg.parseLoads g 0) ++ programDigest ws)
def execClassParseGet (s : State) : Res := slaotRow 0x0412 parseGetBody s
/-- CLASS.PARSE_STATS. -/
def parseStatsBody : Body := groveRead 1 (fun _ => true) fun s _ g => done s (ctrBytes (s.parser g).ctrs 14)
def execClassParseStats (s : State) : Res := slaotRow 0x0413 parseStatsBody s

end Sys2Proof.Machine
end

