-- ==== Sys2Proof/Machine/Classify.lean ====
section
/-! DEFINITION. The classifier (07): rules and their order, tree nodes and the walk, the installing of trees, and the
tree, meter and action commands. -/
namespace Sys2Proof.Machine

/-! ## Rules (R201 to R204) -/

/-- A key matches a rule (R201). -/
def Rule.matches (r : Rule) (key : BitVec 512) : Bool :=
  key &&& r.mask == r.value &&
    (r.rangeByte == 0xFF ||
      (let v := bits key.toNat (511 - 8 * r.rangeByte) (496 - 8 * r.rangeByte)
       r.lo ≤ v && v ≤ r.hi))
/-- A rule put behind those of its priority or a higher one. -/
def putRule (r : Rule) : List Rule → List Rule
  | [] => [r]
  | x :: xs => if r.priority ≤ x.priority then x :: putRule r xs else r :: x :: xs
/-- Compiled order: descending priority, ties in staging order (R203). -/
def compiledOrder (rs : List Rule) : List Rule := rs.foldl (fun l r => putRule r l) []
/-- The action of the first rule that matches (R203). -/
def firstMatch (rs : List Rule) (key : BitVec 512) : Option Nat := (rs.find? (·.matches key)).map (·.action)

/-- A rule record of R201 at an offset. -/
def readRule (p : List Byte) (o : Nat) : Rule :=
  { value := BitVec.ofNat 512 (beNat (slice p o 64)), mask := BitVec.ofNat 512 (beNat (slice p (o + 64) 64)),
    priority := fld p (o + 128) 4, action := fld p (o + 132) 2, rangeByte := fld p (o + 134) 1,
    lo := fld p (o + 136) 2, hi := fld p (o + 138) 2 }
/-- The conditions of R204 on a rule. -/
def Rule.legal (r : Rule) : Bool :=
  r.value &&& ~~~r.mask == 0 && (r.rangeByte ≤ 62 || r.rangeByte == 0xFF) && r.lo ≤ r.hi &&
    (r.rangeByte == 0xFF || bits r.mask.toNat (511 - 8 * r.rangeByte) (496 - 8 * r.rangeByte) == 0)
/-- A field of `n` bytes at key byte `k`. -/
def keyPart (k n v : Nat) : BitVec 512 := BitVec.ofNat 512 v <<< (512 - 8 * (k + n))
/-- The high `n` of 128 bits. -/
def prefixMask (n : Nat) : Nat := 2 ^ 128 - 2 ^ (128 - n)
/-- A route record of R202 at an offset: LENGTH, FAMILY and the 128-bit address field it gives. -/
def routeAddr (p : List Byte) (o : Nat) : Nat :=
  if fld p (o + 17) 1 = 4 then 0xFFFF * 2 ^ 32 + beNat (slice p o 4) else beNat (slice p o 16)
/-- Bits of the address field that a route masks. -/
def routeBits (p : List Byte) (o : Nat) : Nat := if fld p (o + 17) 1 = 4 then 96 + fld p (o + 16) 1 else fld p (o + 16) 1
/-- The rule a route turns into. -/
def readRoute (p : List Byte) (o addr ten base : Nat) : Rule :=
  let m := prefixMask (routeBits p o)
  { value := keyPart addr 16 (routeAddr p o &&& m) ||| (if ten = 0xFF then 0 else keyPart ten 2 (fld p (o + 20) 2)),
    mask := keyPart addr 16 m ||| (if ten = 0xFF then 0 else keyPart ten 2 0xFFFF),
    priority := base + routeBits p o, action := fld p (o + 18) 2 }
/-- The conditions of R204 on a route record. -/
def routeLegal (p : List Byte) (o : Nat) : Bool :=
  let fam := fld p (o + 17) 1
  let len := fld p (o + 16) 1
  (fam == 4 || fam == 6) && len ≤ (if fam == 4 then 32 else 128) && zeroAt p (o + 22) 2 &&
    (routeAddr p o &&& prefixMask (routeBits p o)) == routeAddr p o && (fam == 6 || zeroAt p (o + 4) 12)

/-- Records join the mailbox's staging area; the index of the first is answered (R204, R223). -/
def stageRules (rs : List Rule) (clear : Bool) : Body := fun s r =>
  let area := if clear then [] else SMap.getD s.cl.staging r.mb []
  chk (!s.isHeld (.rules r.mb)) St.busy <|
  chk (area.length + rs.length ≤ 131072) St.noSpace <|
  done { s with cl := { s.cl with staging := SMap.set s.cl.staging r.mb (area ++ rs) } } (leBytes 4 area.length)
/-- CLASS.RULE_STAGE. -/
def ruleStageBody : Body := fun s r =>
  let p := r.payload
  let n := fld p 2 2
  let rs := (List.range n).map fun i => readRule p (4 + 144 * i)
  chk (fld p 0 1 ≤ 1 && zeroAt p 1 1 && 1 ≤ n && n ≤ 27 && p.length == 4 + 144 * n) St.badArg <|
  chk (rs.all Rule.legal && (List.range n).all fun i => zeroAt p (4 + 144 * i + 135) 1 && zeroAt p (4 + 144 * i + 140) 4) St.badArg <|
  stageRules rs (fld p 0 1 == 1) s r
def execClassRuleStage (s : State) : Res := slaotRow 0x0401 ruleStageBody s
/-- CLASS.ROUTE_STAGE. -/
def routeStageBody : Body := fun s r =>
  let p := r.payload
  let n := fld p 2 2
  let addr := fld p 4 1
  let ten := fld p 5 1
  let base := fld p 8 4
  let rs := (List.range n).map fun i => readRoute p (12 + 24 * i) addr ten base
  chk (fld p 0 1 ≤ 1 && zeroAt p 1 1 && 1 ≤ n && n ≤ 166 && p.length == 12 + 24 * n && zeroAt p 6 2 && addr ≤ 48 &&
    (ten ≤ 62 || ten == 0xFF) && (ten == 0xFF || ten + 1 < addr || addr + 15 < ten) && base + 224 < 2 ^ 32) St.badArg <|
  chk ((List.range n).all fun i => routeLegal p (12 + 24 * i)) St.badArg <|
  stageRules rs (fld p 0 1 == 1) s r
def execClassRouteStage (s : State) : Res := slaotRow 0x0402 routeStageBody s

/-! ## Nodes and the walk (R191 to R198) -/

/-- An extracted slice of a key. -/
def keySlice (key : BitVec 512) (off w : Nat) : Nat := eBits key (off + w - 1) off
/-- The field values that R193 to R196 allow. -/
def nodeLegal (n : BitVec 256) : Bool :=
  match eBits n 255 254 with
  | 0 => 1 ≤ eBits n 225 222 && eBits n 225 222 + eBits n 212 209 ≤ 12 && eBits n 234 226 + eBits n 225 222 ≤ 512 &&
      eBits n 221 213 + eBits n 212 209 ≤ 512 && eBits n 208 0 == 0
  | 1 => eBits n 234 226 ≤ 480 && eBits n 225 96 == 0 && eBits n 95 64 ≤ eBits n 63 32 && eBits n 63 32 ≤ eBits n 31 0
  | 2 => 1 ≤ eBits n 225 218 && eBits n 225 218 ≤ 192 && eBits n 234 226 + eBits n 225 218 ≤ 512 &&
      eBits n 217 192 == 0 && eBits n 191 0 < 2 ^ eBits n 225 218
  | _ => eBits n 253 251 ≤ 4 && (2 < eBits n 253 251 || eBits n 250 233 == 0) && eBits n 232 224 ≤ 488 &&
      eBits n 223 215 ≤ 496 && eBits n 214 192 == 0
/-- Number of children of an inner node, and the child a key selects. -/
def nodeChildren (n : BitVec 256) : Nat :=
  match eBits n 255 254 with | 0 => 2 ^ (eBits n 225 222 + eBits n 212 209) | 1 => 4 | _ => 2
def childIndex (n : BitVec 256) (key : BitVec 512) : Nat :=
  match eBits n 255 254 with
  | 0 => keySlice key (eBits n 234 226) (eBits n 225 222) * 2 ^ eBits n 212 209 +
      (if eBits n 212 209 = 0 then 0 else keySlice key (eBits n 221 213) (eBits n 212 209))
  | 1 =>
    let v := keySlice key (eBits n 234 226) 32
    b2n (decide (eBits n 95 64 ≤ v)) + b2n (decide (eBits n 63 32 ≤ v)) + b2n (decide (eBits n 31 0 ≤ v))
  | _ => b2n (keySlice key (eBits n 234 226) (eBits n 225 218) == eBits n 191 0)
/-- How a walk ends; FAULT with the level of the node that gave it (assumption log 28). -/
inductive WalkRes where
  | action (i : Nat)
  | miss
  | fault (level : Nat)
  deriving DecidableEq, Repr
/-- The 96-bit rule at an offset of a slot, tested against the residual: its action when it matches. -/
def leafRule (n : BitVec 256) (lo r : Nat) : Option Nat :=
  if r &&& eBits n (lo + 39) lo = eBits n (lo + 79) (lo + 40) then some (eBits n (lo + 95) (lo + 80)) else none
/-- A slot of a half: none when it lies beyond the half or reads with an uncorrectable error. -/
def TreeHalf.read (h : TreeHalf) (slot : Nat) : Option (BitVec 256) :=
  if 262143 < slot ∨ h.bad.contains slot ∨ h.dead.contains (slot % 128) then none else some (SMap.getD h.nodes slot 0)
/-- The end of a walk in a leaf, with the slots read. -/
def TreeHalf.leaf (h : TreeHalf) (n : BitVec 256) (key : BitVec 512) (level : Nat) (reads : List Nat) : WalkRes × List Nat :=
  let r := keySlice key (eBits n 232 224) 24 * 2 ^ 16 + keySlice key (eBits n 223 215) 16
  let c := eBits n 253 251
  let first := (if 1 ≤ c then leafRule n 96 r else none).or (if 2 ≤ c then leafRule n 0 r else none)
  match first with
  | some a => (.action a, reads)
  | none =>
    if c ≤ 2 then (.miss, reads)
    else
      let slot := eBits n 250 233
      match h.read slot with
      | none => (.fault level, reads ++ [slot])
      | some x =>
        match (leafRule x 96 r).or (if c = 4 then leafRule x 0 r else none) with
        | some a => (.action a, reads ++ [slot])
        | none => (.miss, reads ++ [slot])
/-- The way down from a node at a level to the leaf a key leads to: the leaf, none after a FAULT; the level reached; and
the slots read. -/
def TreeHalf.descend (h : TreeHalf) (key : BitVec 512) (l : Nat) :
    Nat → Nat → BitVec 256 → List Nat → Option (BitVec 256) × Nat × List Nat
  | 0, level, _, reads => (none, level, reads)
  | fuel + 1, level, n, reads =>
    if !nodeLegal n then (none, level, reads)
    else if eBits n 255 254 = 3 then (some n, level, reads)
    else if level = 7 then (none, level, reads)
    else
      let slot := eBits n 252 235 + childIndex n key + (if n.getLsbD 253 then l * (nodeChildren n + 1) else 0)
      match h.read slot with
      | none => (none, level + 1, reads ++ [slot])
      | some c => h.descend key l fuel (level + 1) c (reads ++ [slot])
/-- The way down from the root register. -/
def TreeHalf.way (h : TreeHalf) (key : BitVec 512) (l : Nat) : Option (BitVec 256) × Nat × List Nat :=
  h.descend key l 8 0 h.root []
/-- The walk of R197 in a half of the tree memory: how it ends, and the slots it reads. -/
def TreeHalf.walk (h : TreeHalf) (key : BitVec 512) (l : Nat) : WalkRes × List Nat :=
  match h.way key l with
  | (some n, level, reads) => h.leaf n key level reads
  | (none, level, reads) => (.fault level, reads)

def Classifier.half (c : Classifier) (i : Nat) : TreeHalf := if i = 0 then c.half0 else c.half1
def Classifier.setHalf (c : Classifier) (i : Nat) (h : TreeHalf) : Classifier :=
  if i = 0 then { c with half0 := h } else { c with half1 := h }

/-- WALK_START (R200): the head of the key queue goes to the lowest live engine with fewer than 16 walks. -/
def execWalkStart (g : Nat) (s : State) : Res :=
  whenRunning s fun s =>
    let c := s.classifier g
    match c.keys, (s.live 0x03 g 32).find? fun e => (c.walks.filter (·.engine == e)).length < 16 with
    | t :: rest, some e =>
      let n := SMap.getD c.numbers e 0
      (s.setClassifier g { c with keys := rest, numbers := SMap.set c.numbers e (n + 1), ctrs := c.ctrs.inc 0
                                  walks := c.walks ++ [⟨t, e, n, c.active, s.now⟩] }).modFrame t fun f => { f with stage := .walking }
    | _, _ => s

/-- A walk ends in FAULT (R198): the frame is freed, its candidate discarded, and the location logged with the level
reached. -/
def State.walkFault (s : State) (t : Nat) (l : LocWord) (level : Nat) : State :=
  let g := tagGrove t
  let s := s.modFrame t fun f => { f with hint := none }
  ((s.classCtr g 7 1).log l 0x0A 1 (BitVec.ofNat 32 level)).decide_ t .free false
/-- The leaf that holds a slot: the physical bank that serves it (21 R615). -/
def State.slotLoc (s : State) (g slot : Nat) : LocWord := locLeaf g 0x04 0 (s.physBank g (slot % 128))
/-- An uncorrectable error met by a walk that would make the reads listed and end at a level: which of them, or the root
register, is free. -/
def State.walkError (s : State) (t : Nat) (w : Walk) (reads : List Nat) (level : Nat) : State :=
  let g := tagGrove t
  let (k, s) := s.fresh 8
  let (syn, s) := s.fresh 8
  let i := k.toNat % (reads.length + 1)
  let l := if i = 0 then locUnit g 0x03 w.engine else s.slotLoc g (reads.getD (i - 1) 0)
  ((s.classCtr g 2 i).uncorrectable l syn).walkFault t l (min i level)
/-- A walk that read what gives FAULT: an uncorrectable word of a slot is reported as one (21 R612, R613). -/
def State.walkBad (s : State) (t : Nat) (w : Walk) (h : TreeHalf) (reads : List Nat) (level : Nat) : State :=
  let g := tagGrove t
  match reads.getLast? with
  | none => s.walkFault t (locUnit g 0x03 w.engine) level
  | some x =>
    let (syn, s) := s.fresh 8
    let l := s.slotLoc g x
    (if h.bad.contains x then s.uncorrectable l syn else s).walkFault t l level
/-- A walk has returned an action index: it goes with the frame's candidate (06 R179). -/
def State.walkAction (s : State) (t i : Nat) : State :=
  (s.modFrame t fun f => { f with hint := f.hint.map fun h => { h with action := some i } }).decideAction t i false
/-- WALK_END (R197 to R199, R212): 6 ns after its key was accepted and no earlier; `memErr` is an uncorrectable error in
what the walk reads. Every 0.5 ns beyond was spent waiting for a bank, 4,088 cycles at most. -/
def execWalkEnd (t : Nat) (memErr : Bool) (s : State) : Res :=
  whenRunning s fun s =>
    let g := tagGrove t
    match (s.classifier g).walks.find? (·.tag == t), s.frame t with
    | some w, some f =>
      let s := s.upTo (w.accepted + 24)
      let c := s.classifier g
      let s := s.setClassifier g { c with walks := c.walks.filter (·.tag != t) }
      let s := s.classCtr g 3 (min 4088 ((s.now - w.accepted - 24) / 2))
      let h := c.half w.half
      let r := h.walk f.key (w.number % 16)
      if memErr then s.walkError t w r.2 (h.way f.key (w.number % 16)).2.1
      else
        let s := s.classCtr g 2 r.2.length
        match r.1 with
        | .fault k => s.walkBad t w h r.2 k
        | .miss => (s.modFrame t fun f => { f with hint := none }).missAction t false
        | .action i => s.walkAction t i
    | _, _ => s

/-! ## Installing a tree (R206 to R209) -/

/-- The root of the empty tree: a leaf without rules (R197). -/
def emptyRoot : BitVec 256 := 3#256 <<< 254
/-- The empty tree as a compiled image. -/
def emptyBuild : TreeBuild := ⟨0, 0, emptyRoot, [], 0, 0, 0, 0⟩
/-- The groves a GROVE_MASK names. -/
def maskGroves (m : Nat) : List Nat := maskBits m 16
/-- The checks of R648 and R182 on a GROVE_MASK, what is held, and then the failed groves (04 R107; 21 R619). -/
def chkGroves (s : State) (r : Request) (m : Nat) (held : Bool) (k : Except Nat Done) : Except Nat Done :=
  let gs := maskGroves m
  chk (m != 0) St.badArg <| chk (gs.all (· < s.groves)) St.notPresent <| chk (s.groveGate r.actor gs) St.notOwner <|
  chk (!held) St.busy <| chk (!gs.any s.groveFailed) St.internal k

/-! ## What a compiled image is (R203, R205) -/

/-- A half that holds an image. -/
def buildHalf (b : TreeBuild) : TreeHalf :=
  { root := b.root, nodes := b.nodes.foldl (fun m x => SMap.set m x.1 x.2) [] }
/-- The keys that come to the same node as `key`: what R203 calls a region. -/
def TreeHalf.region (h : TreeHalf) (key k : BitVec 512) : Bool := (h.way k 0).2.2.getLast? == (h.way key 0).2.2.getLast?
/-- Some key of a region matches a rule. -/
def meetsRegion (reg : BitVec 512 → Bool) (r : Rule) : Bool := !decide (∀ k : BitVec 512, (reg k && r.matches k) = false)
/-- A rule is shadowed within a region by an earlier one. -/
def shadowedBy (reg : BitVec 512 → Bool) (earlier r : Rule) : Bool :=
  decide (∀ k : BitVec 512, (reg k && r.matches k) = true → earlier.matches k = true)
/-- The rules a region still holds, in compiled order: those that meet it and that no earlier rule shadows there. -/
def regionRules (reg : BitVec 512 → Bool) (rules : List Rule) : List Rule :=
  (rules.zipIdx.filter fun x => meetsRegion reg x.1 && !(rules.take x.2).any fun e => shadowedBy reg e x.1).map (·.1)
/-- The actions of a leaf's rules, in order. -/
def TreeHalf.leafActions (h : TreeHalf) (n : BitVec 256) : List Nat :=
  let x := SMap.getD h.nodes (eBits n 250 233) 0
  [eBits n 191 176, eBits n 95 80, eBits x 191 176, eBits x 95 80].take (eBits n 253 251)
/-- The nodes a key visits, level by level. -/
def TreeHalf.visited (h : TreeHalf) (key : BitVec 512) : List (BitVec 256) :=
  h.root :: (h.way key 0).2.2.map fun x => SMap.getD h.nodes x 0
/-- A COMPARE node on the way of a key covers the range field of a rule. -/
def TreeHalf.compares (h : TreeHalf) (key : BitVec 512) (r : Rule) : Bool :=
  r.rangeByte == 0xFF || (r.lo == 0 && r.hi == 0xFFFF) ||
    (h.visited key).any fun n => eBits n 255 254 == 1 && eBits n 234 226 ≤ 496 - 8 * r.rangeByte &&
      512 - 8 * r.rangeByte ≤ eBits n 234 226 + 32
/-- REP is set on the levels above `d` and on no other. -/
def TreeHalf.repOn (h : TreeHalf) (key : BitVec 512) (d : Nat) : Bool :=
  (h.visited key).zipIdx.all fun x => eBits x.1 255 254 == 3 || x.1.getLsbD 253 == decide (x.2 < d)
/-- The slots that setting REP on level `d` as well would take. -/
def TreeHalf.moreSlots (h : TreeHalf) (d : Nat) : Nat :=
  let ns := if d = 0 then [h.root]
    else (h.nodes.filter fun x => !decide (∀ k : BitVec 512, (h.way k 0).2.2[d - 1]? ≠ some x.1)).map (·.2)
  ((ns.filter fun n => eBits n 255 254 != 3).map fun n => 15 * nodeChildren n).sum
/-- An image is a compiled form of rules in compiled order: it yields the first match of every key in every copy (R203),
its leaves hold the rules their regions hold, ranges are resolved by COMPARE nodes, and REP is set top-down for as long as
the half has room (R205). SLOTS, DEPTH and REPL_DEPTH are what it uses (assumption log 28). -/
def compiledFrom (b : TreeBuild) (rules : List Rule) : Bool :=
  let h := buildHalf b
  decide (∀ (k : BitVec 512) (l : BitVec 4), (h.walk k l.toNat).1 = match firstMatch rules k with | some a => .action a | none => .miss) &&
    decide (∀ k : BitVec 512,
      let held := regionRules (h.region k) rules
      ((h.way k 0).1.map h.leafActions) = some (held.map (·.action)) ∧ held.all (h.compares k) = true ∧
        h.repOn k b.replDepth = true ∧ (h.way k 0).2.1 ≤ b.depth) &&
    !decide (∀ k : BitVec 512, (h.way k 0).2.1 ≠ b.depth) && b.slots == h.nodes.length && b.replDepth ≤ b.depth &&
    (b.replDepth == b.depth || 262144 < b.slots + h.moreSlots b.replDepth)
/-- The residual of a leaf with two offsets (R196). -/
def residual (offA offB : Nat) (k : BitVec 512) : Nat := keySlice k offA 24 * 2 ^ 16 + keySlice k offB 16
/-- A rule needs bits outside the path to a region and a residual: two keys of the region alike in the residual differ in
whether they match. -/
def needsMore (reg : BitVec 512 → Bool) (offA offB : Nat) (r : Rule) : Bool :=
  !decide (∀ a b : BitVec 512, (reg a && reg b) = true → residual offA offB a = residual offA offB b → r.matches a = r.matches b)
/-- No leaf holds the rules of a region: more than four, or for every residual one of them needs more (R205). -/
def regionFails (reg : BitVec 512 → Bool) (rules : List Rule) : Bool :=
  let held := regionRules reg rules
  4 < held.length || (List.range 489).all fun a => (List.range 497).all fun b => held.any (needsMore reg a b)
/-- A failed build is one of R205: a region at level 7 of the tree tried that no leaf holds, or a tree of more slots than
a half has; RULE is the staging index of a rule in the failing region. -/
def failedFrom (b : TreeBuild) (staged : List Rule) : Bool :=
  let h := buildHalf b
  b.rule < staged.length && match b.kind with
    | 1 => !decide (∀ k : BitVec 512, ((h.way k 0).2.2.length == 7 && regionFails (h.region k) (compiledOrder staged) &&
        (staged[b.rule]?).any (meetsRegion (h.region k))) = false)
    | 2 => 262144 < b.slots
    | _ => false
/-- What the compile step may answer for a staged set. -/
def buildAnswers (b : TreeBuild) (staged : List Rule) : Bool :=
  if b.kind = 0 then compiledFrom b (compiledOrder staged) else failedFrom b staged
/-- CLASS.TREE_INSTALL. -/
def treeInstallBody : Body := fun s r =>
  let p := r.payload
  let gs := maskGroves (fld p 0 2)
  let n := if fld p 2 1 = 1 then 0 else (SMap.getD s.cl.staging r.mb []).length
  chk (p.length == 8 && fld p 2 1 ≤ 1 && zeroAt p 3 5) St.badArg <|
  chkGroves s r (fld p 0 2) (s.isHeld (.rules r.mb) || gs.any fun g => s.isHeld (.tree g)) <|
  match startOp s r (gs.length + 1) (.treeInstall gs gs none n 0) with
  | .error e => .error e
  | .ok d => .ok { d with s := { d.s with cl := { d.s.cl with builds := SMap.set d.s.cl.builds r.mb { status := St.inProgress } } } }
def execClassTreeInstall (s : State) : Res := slaotRow 0x0403 treeInstallBody s

/-- The build record of a mailbox changed. -/
def State.modBuild (s : State) (mb : Nat) (k : BuildRec → BuildRec) : State :=
  { s with cl := { s.cl with builds := SMap.set s.cl.builds mb (k (SMap.getD s.cl.builds mb { status := 0 })) } }
/-- An install ends. -/
def State.endInstall (s : State) (o : LongOp) (st : Nat) : State := (s.modBuild o.mb fun b => { b with status := st }).endOp o st
/-- The inactive half of a grove written with a tree and its roots loaded. -/
def Classifier.install (c : Classifier) (b : TreeBuild) (rules : List Rule) (seq : Nat) : Classifier :=
  let h : TreeHalf := { root := b.root, nodes := b.nodes.foldl (fun m x => SMap.set m x.1 x.2) [], rules := rules,
                        slots := b.slots, depth := b.depth, replDepth := b.replDepth, seq := seq
                        dead := (c.half (1 - c.active)).dead }
  { c.setHalf (1 - c.active) h with active := 1 - c.active }
/-- TREE_INSTALL_STEP (R206, R208): the compile step, whose result is `image`, one that the staged set allows; then each
grove in turn, once no walk is left on its inactive half. `ok` is false when the half does not read back as written: twice
in a row ends it. -/
def execTreeInstallStep (h : Nat) (image : TreeBuild) (ok : Bool) (s : State) : Res :=
  whenRunning s (opRow h (fun s o => s.modBuild o.mb fun b => { b with status := St.aborted }) fun s o =>
    match o.data with
    | .treeInstall all left tree n fails =>
      let staged := if n = 0 then [] else SMap.getD s.cl.staging o.mb []
      let rules := compiledOrder staged
      match tree, left with
      | none, _ =>
        let b := if n = 0 then emptyBuild else image
        if n != 0 && !buildAnswers b staged then s.setOp { o with stepsDone := o.stepsDone - 1 }
        else
          let s := s.modBuild o.mb fun x => { x with kind := b.kind, rule := b.rule, slots := b.slots, depth := b.depth,
                                                     replDepth := b.replDepth, us := b.compileUs }
          if b.kind = 0 then s.setOp { o with data := .treeInstall all left (some b) n 0 } else s.endInstall o St.noSpace
      | some b, g :: rest =>
        let c := s.classifier g
        if c.walks.any (·.half == 1 - c.active) then s
        else if !ok then
          if fails = 0 then s.setOp { o with stepsDone := o.stepsDone - 1, data := .treeInstall all left tree n 1 } else s.endInstall o St.internal
        else
          let s := s.setClassifier g (c.install b rules o.startSeq)
          if rest.isEmpty then s.endInstall o St.ok else s.setOp { o with data := .treeInstall all rest tree n 0 }
      | _, [] => s.endInstall o St.ok
    | _ => s)

/-! ## Commands (R223 to R225) -/

/-- The bytes of a half, slot by slot. -/
def TreeHalf.bytes (h : TreeHalf) : List Byte := (List.range 262144).flatMap fun i => leBytes 32 (SMap.getD h.nodes i 0).toNat
/-- CLASS.TREE_GET. -/
def treeGetBody : Body := groveRead 1 (fun _ => true) fun s _ g =>
  let h := (s.classifier g).half (s.classifier g).active
  done s (leBytes 4 h.rules.length ++ leBytes 4 h.slots ++ leBytes 1 h.depth ++ leBytes 1 h.replDepth ++ zeros 2 ++
    leBytes 8 h.seq ++ leBytes 32 (Config.shake256 h.bytes).toNat)
def execClassTreeGet (s : State) : Res := slaotRow 0x0404 treeGetBody s
/-- CLASS.BUILD_GET. -/
def buildGetBody : Body := fun s r =>
  chk (r.payload.length == 0) St.badArg <|
  match SMap.get s.cl.builds r.mb with
  | none => .error St.notFound
  | some b => done s (leBytes 2 b.status ++ leBytes 1 b.kind ++ zeros 1 ++ leBytes 4 b.rule ++ leBytes 4 b.slots ++
      leBytes 1 b.depth ++ leBytes 1 b.replDepth ++ zeros 2 ++ leBytes 4 b.us)
def execClassBuildGet (s : State) : Res := slaotRow 0x0405 buildGetBody s
/-- The fields of R221 from byte 4 on. -/
def MeterCfg.bytes (c : MeterCfg) : List Byte :=
  leBytes 4 c.cir ++ leBytes 4 c.pir ++ leBytes 4 c.cbs ++ leBytes 4 c.pbs ++ leBytes 1 c.yellow ++ leBytes 1 c.red ++
    leBytes 1 c.yellowTc ++ leBytes 1 c.redTc
/-- CLASS.METER_SET. -/
def meterSetBody : Body := fun s r =>
  let p := r.payload
  let m := fld p 2 2
  let c : MeterCfg := ⟨fld p 4 4, fld p 8 4, fld p 12 4, fld p 16 4, fld p 20 1, fld p 21 1, fld p 22 1, fld p 23 1⟩
  chk (p.length == 24 && m < 4096 && c.cir ≤ c.pir && c.cbs < 2 ^ 24 && c.pbs < 2 ^ 24 && c.yellow ≤ 3 && c.red ≤ 3 &&
    c.yellowTc ≤ 7 && c.redTc ≤ 7) St.badArg <|
  chkGroves s r (fld p 0 2) false <|
  done ((maskGroves (fld p 0 2)).foldl (fun s g =>
    let k := s.classifier g
    let x := SMap.getD k.meters m {}
    { s.setClassifier g { k with meters := SMap.set k.meters m { ctrs := x.ctrs } } with
      cfg := { s.cfg with meters := SMap.set s.cfg.meters (4096 * g + m) c } }) s)
def execClassMeterSet (s : State) : Res := slaotRow 0x0406 meterSetBody s
/-- CLASS.METER_GET. -/
def meterGetBody : Body := groveRead 4 (fun p => zeroAt p 1 1 && fld p 2 2 < 4096) fun s r g =>
  let m := fld r.payload 2 2
  done s ((s.meterCfg g m).bytes ++ ctrBytes (SMap.getD (s.classifier g).meters m {}).ctrs 6)
def execClassMeterGet (s : State) : Res := slaotRow 0x0407 meterGetBody s
/-- CLASS.ACTION_STATS. -/
def actionStatsBody : Body := groveRead 6 (fun p => zeroAt p 1 1 && 1 ≤ fld p 4 2 && fld p 4 2 ≤ 250 && fld p 2 2 + fld p 4 2 ≤ 65536) fun s r g =>
  let a := fld r.payload 2 2
  let n := fld r.payload 4 2
  done s ((List.range (2 * n)).flatMap fun i => leBytes 8 (SMap.getD (s.classifier g).actionCtrs (2 * a + i) 0).toNat)
def execClassActionStats (s : State) : Res := slaotRow 0x0408 actionStatsBody s
/-- CLASS.STATS. -/
def classStatsBody : Body := groveRead 1 (fun _ => true) fun s _ g => done s (ctrBytes (s.classifier g).ctrs 12)
def execClassStats (s : State) : Res := slaotRow 0x0409 classStatsBody s
/-- CLASS.LOOKUP (R225): a walk of the active half with ℓ = 0; a walk that ends in FAULT matches nothing. -/
def classLookupBody : Body := groveRead 72 (zeroAt · 1 7) fun s r g =>
  let c := s.classifier g
  let w := (c.half c.active).walk (BitVec.ofNat 512 (beNat (slice r.payload 8 64))) 0
  done s ((match w.1 with | .action i => leBytes 2 i ++ leBytes 1 1 | _ => leBytes 2 0xFFFF ++ leBytes 1 0) ++
    leBytes 1 w.2.length ++ w.2.flatMap fun x => leBytes 4 x)
def execClassLookup (s : State) : Res := slaotRow 0x040A classLookupBody s

end Sys2Proof.Machine
end

