-- ==== Sys2Proof/Machine/Tables.lean ====
section
/-! DEFINITION. The exact-match tables (08): entries and lookups, the operations of the broadcaster, the table command
register sets, learning, ageing, rehash and flush, and the TABLE commands. Table 0 is the host table, 1 the flow table. -/
namespace Sys2Proof.Machine

/-! ## Entries and positions (R226 to R231) -/

/-- Buckets per bank, first stash position, positions with the stash, and sweep steps. -/
def tblBuckets (t : Nat) : Nat := if t = 0 then 131072 else 16384
def tblStash (t : Nat) : Nat := 8 * tblBuckets t
def tblSize (t : Nat) : Nat := tblStash t + 64
def tblSteps (t : Nat) : Nat := tblStash t / 1024 + 1
/-- Fields of an entry. -/
def xValid (t : Nat) (e : BitVec 512) : Bool := e.getLsbD (if t = 0 then 63 else 127)
def xTrail (t : Nat) (e : BitVec 512) : Bool := e.getLsbD (if t = 0 then 62 else 126)
def xStatic (t : Nat) (e : BitVec 512) : Bool := e.getLsbD (if t = 0 then 61 else 125)
def xPart (t : Nat) (e : BitVec 512) : Nat := if t = 0 then eBits e 47 40 else eBits e 119 112
def xLoc (e : BitVec 512) : Nat := eBits e 56 48
def xFrozen (e : BitVec 512) : Bool := e.getLsbD 60
def xLearned (e : BitVec 512) : Bool := e.getLsbD 57
def xAction (e : BitVec 512) : Nat := eBits e 15 0
/-- The key of an entry as a number: TENANT and MAC, or FLOW_KEY. -/
def xKey (t : Nat) (e : BitVec 512) : Nat := if t = 0 then eBits e 127 64 else eBits e 511 128
/-- The partition object of an entry (R236). -/
def xObj (t : Nat) (e : BitVec 512) : Nat := 256 * t + xPart t e
/-- AGE cleared, and set. -/
def xSetAge (t : Nat) (e : BitVec 512) (a : Nat) : BitVec 512 := if t = 0 then setBits e 59 58 a else setBits e 124 123 a
/-- A reserved bit of the layout is set. -/
def xReserved (t : Nat) (e : BitVec 512) : Bool :=
  if t = 0 then eBits e 39 32 != 0 else eBits e 122 120 != 0 || eBits e 111 64 != 0
/-- The hash of a key under a seed (R230). -/
def xHash (t : Nat) (seed : W32) (key : Nat) : Nat := (~~~ (crc32cFrom seed (beBytes (if t = 0 then 8 else 48) key))).toNat
/-- Position of way 0 of the candidate bucket of a key in a bank. -/
def xBucket (t bank : Nat) (seed : W32) (key : Nat) : Nat := bank * 4 * tblBuckets t + 4 * (xHash t seed key % tblBuckets t)
/-- Candidate buckets of a key under a pair of seeds, bank 0 first, by the position of way 0. -/
def xCands (t : Nat) (seeds : W32 × W32) (key : Nat) : List Nat := [xBucket t 0 seeds.1 key, xBucket t 1 seeds.2 key]
/-- The positions of a bucket. -/
def bucketWays (b : Nat) : List Nat := [b, b + 1, b + 2, b + 3]

def State.tbl (s : State) (t : Nat) : XTable := if t = 0 then s.tb.host else s.tb.flow
def State.setTbl (s : State) (t : Nat) (x : XTable) : State :=
  if t = 0 then { s with tb := { s.tb with host := x } } else { s with tb := { s.tb with flow := x } }
/-- Counter `i` of R268 raised. -/
def State.tblCtr (s : State) (t i n : Nat) : State := s.setTbl t { s.tbl t with ctrs := (s.tbl t).ctrs.add i n }
/-- The seeds that place entries: the new ones while two layouts are in use (R250). -/
def XTable.placing (x : XTable) : W32 × W32 := x.fresh.getD (x.seed0, x.seed1)
/-- The buckets a lookup of a key reads (R231). -/
def XTable.reads (x : XTable) (t key : Nat) : List Nat :=
  xCands t (x.seed0, x.seed1) key ++ match x.fresh with | some f => xCands t f key | none => []
/-- The positions a lookup reads: its buckets and the whole stash. -/
def XTable.positions (x : XTable) (t key : Nat) : List Nat :=
  (x.reads t key).flatMap bucketWays ++ (List.range 64).map (tblStash t + ·)
/-- The position at which a key is found. -/
def XTable.find (x : XTable) (t key : Nat) : Option Nat :=
  (x.positions t key).find? fun p => (SMap.get x.entries p).any fun e => xKey t e == key
/-- AGE of a position: the least over the replicas (R262). -/
def XTable.age (x : XTable) (p : Nat) : Nat :=
  ((List.range 4).map fun r => SMap.getD x.ages (4 * p + r) 0).foldl min 3
def XTable.setAge (x : XTable) (p r a : Nat) : XTable :=
  { x with ages := if a = 0 then SMap.del x.ages (4 * p + r) else SMap.set x.ages (4 * p + r) a }
def XTable.setAges (x : XTable) (p a : Nat) : XTable := (List.range 4).foldl (fun x r => x.setAge p r a) x
/-- A position is written in every replica, its AGE 0: what it read with an error is written over. -/
def XTable.put (x : XTable) (p : Nat) (e : BitVec 512) : XTable :=
  { x.setAges p 0 with entries := SMap.set x.entries p e, bad := x.bad.filter (· / 4 != p) }
/-- A position is cleared in every replica. -/
def XTable.clear (x : XTable) (p : Nat) : XTable :=
  { x.setAges p 0 with entries := SMap.del x.entries p, bad := x.bad.filter (· / 4 != p) }
/-- An entry copied to another position and then deleted at its old one, AGE going with it (R244 step 4). -/
def XTable.move (x : XTable) (src dst : Nat) : XTable :=
  match SMap.get x.entries src with
  | none => x
  | some e =>
    let y := (x.put dst e).clear src
    (List.range 4).foldl (fun y r => y.setAge dst r (SMap.getD x.ages (4 * src + r) 0)) y
/-- The entry at a position as READ and SEARCH return it. -/
def XTable.view (x : XTable) (t p : Nat) : BitVec 512 := ((SMap.get x.entries p).map fun e => xSetAge t e (x.age p)).getD 0
/-- Valid entries of a partition, and stash positions in use. -/
def XTable.partCount (x : XTable) (t part : Nat) : Nat := (x.entries.filter fun e => xPart t e.2 == part).length
def XTable.stashUsed (x : XTable) (t : Nat) : Nat := (x.entries.filter fun e => tblStash t ≤ e.1).length
/-- The lowest free way of the buckets, in order; the lowest free stash position. -/
def XTable.freeWay (x : XTable) (bs : List Nat) : Option Nat := (bs.flatMap bucketWays).find? fun p => (SMap.get x.entries p).isNone
def XTable.freeStash (x : XTable) (t : Nat) : Option Nat :=
  ((List.range 64).map (tblStash t + ·)).find? fun p => (SMap.get x.entries p).isNone

/-! ## Insertion and relocation (R244 to R247) -/

/-- The bucket an entry that lies in a bucket can move to: its other candidate, when this one is its candidate. -/
def XTable.other (x : XTable) (t b p : Nat) : Option Nat :=
  (SMap.get x.entries p).bind fun e =>
    match xCands t x.placing (xKey t e) with
    | [c0, c1] => if c0 = b then some c1 else if c1 = b then some c0 else none
    | _ => none
/-- The breadth-first search of step 3: `queue` holds buckets with the positions that lead to them, last first; the
positions to move, last first, with the free way the last one moves to. -/
def XTable.search (x : XTable) (t : Nat) : Nat → List (Nat × List Nat) → List Nat → Option (List Nat × Nat)
  | 0, _, _ => none
  | _ + 1, [], _ => none
  | k + 1, (b, path) :: queue, seen =>
    match x.freeWay [b] with
    | some q => if path.length ≤ 128 then some (path, q) else none
    | none =>
      let next := (bucketWays b).filterMap fun p => (x.other t b p).map fun c => (c, p :: path)
      let add := next.foldl (fun (a : List (Nat × List Nat) × List Nat) n =>
        if a.2.contains n.1 then a else (a.1 ++ [n], n.1 :: a.2)) ([], seen)
      x.search t k (queue ++ add.1) add.2
/-- The moves of a path, from its end back: the table, and the way that becomes free. -/
def XTable.movesAlong (x : XTable) : List Nat → Nat → XTable × Nat
  | [], q => (x, q)
  | p :: ps, q => (x.move p q).movesAlong ps p
/-- A free way for a key under the placing seeds, after relocation: the table, the way and the moves made. -/
def XTable.makeRoom (x : XTable) (t key : Nat) : Option (XTable × Nat × Nat) :=
  let cs := xCands t x.placing key
  match x.freeWay cs with
  | some p => some (x, p, 0)
  | none =>
    (x.search t 4096 (cs.map fun c => (c, [])) cs).map fun r =>
      let m := x.movesAlong r.1 r.2
      (m.1, m.2, r.1.length)

/-- The answer of a table operation: status, TBL_INFO and TBL_DATA. -/
structure TblAns where
  status : Nat
  info : Nat := 0
  data : BitVec 512 := 0

/-- EV_TABLE_REHASH, at most once in a window and never while two layouts are in use (R249). -/
def State.needRehash (s : State) (t part : Nat) : State :=
  let s := s.tblCtr t 4 1
  let x := s.tbl t
  let w := x.rehashWindow.any fun a => s.clk < a + ms 1000
  if x.fresh.isSome || w then s
  else (s.setTbl t { x with rehashWindow := some s.clk }).fireAll 243 Ev.tableRehash (BitVec.ofNat 32 (t + 256 * part))
/-- LIMIT of a partition object (R238). -/
def State.partLimit (s : State) (o : Nat) : Nat := SMap.getD s.cfg.partLimits o (tblSize (o / 256))
/-- An INSERT after its gate (R244): LIMIT, EXISTS, placement. -/
def State.tblInsert (s : State) (t : Nat) (e : BitVec 512) : State × TblAns :=
  let x := s.tbl t
  let key := xKey t e
  if s.partLimit (xObj t e) ≤ x.partCount t (xPart t e) then (s, ⟨St.noSpace, 0, 0⟩)
  else if (x.find t key).isSome then (s, ⟨St.exists_, 0, 0⟩)
  else
    match x.makeRoom t key with
    | some (x, p, m) =>
      let x := x.put p e
      (s.setTbl t { x with ctrs := (x.ctrs.add 0 1).add 2 m }, ⟨St.ok, p + 2 ^ 21 * m, 0⟩)
    | none =>
      match x.freeStash t with
      | some p =>
        let x := x.put p e
        (s.setTbl t { x with ctrs := (x.ctrs.add 0 1).peak 3 (x.stashUsed t) }, ⟨St.ok, p, 0⟩)
      | none => (s.needRehash t (xPart t e), ⟨St.needRehash, 0, 0⟩)
/-- The lowest stash entry that has a bucket as a candidate of the placing seeds. -/
def XTable.stashFor (x : XTable) (t b : Nat) : Option Nat :=
  (x.entries.find? fun e => tblStash t ≤ e.1 && (xCands t x.placing (xKey t e.2)).contains b).map (·.1)
/-- A DELETE of a position (R247): a stash entry moves into the freed way. What is known of a host entry's moves goes
with it. -/
def State.tblClear (s : State) (t p : Nat) : State :=
  let x := s.tbl t
  let key := ((SMap.get x.entries p).map (xKey t)).getD 0
  let y := x.clear p
  let s := if t = 0 then { s with tb := { s.tb with moves := s.tb.moves.filter fun m => m.key.toNat != key } } else s
  match if p < tblStash t then y.stashFor t (p / 4 * 4) else none with
  | some q => s.setTbl t { y.move q p with ctrs := y.ctrs.add 2 1 }
  | none => s.setTbl t y
/-- A DELETE that an operation asks for. -/
def State.tblDelete (s : State) (t p : Nat) : State := (s.tblClear t p).tblCtr t 1 1

/-! ## The learn log, thaws and age-outs (R256, R258, R261) -/

/-- The 32 bytes of a record. -/
def LearnRec.image (r : LearnRec) : List Byte :=
  beBytes 6 r.mac.toNat ++ leBytes 2 r.tenant ++ leBytes 1 r.kind ++ zeros 1 ++ leBytes 2 r.oldPort ++ leBytes 2 r.newPort ++
    zeros 2 ++ leBytes 8 r.time ++ leBytes 8 r.seq
/-- A record enters the ring of the policy grove (15 R455). -/
def State.logToRing (s : State) (r : LearnRec) : State :=
  let g := s.cfg.policy.grove
  let x := s.svc g
  s.setSvc g { x with l2 := putBytes x.l2 (0x880000 + 32 * (x.logPi.toNat % 8192)) r.image, logPi := x.logPi + 1 }
/-- A record joins the learn log, or is lost when the log is full. -/
def State.learnRecord (s : State) (key kind old new time : Nat) : State :=
  let x := s.svc s.cfg.policy.grove
  if 8192 ≤ (x.logPi - x.logCi).toNat then s.hostTblCtr 17 1
  else
    let r : LearnRec := ⟨BitVec.ofNat 48 key, key / 2 ^ 48, kind, old, new, time, s.tb.logSeq⟩
    { s with tb := { s.tb with log := s.tb.log ++ [r], logSeq := s.tb.logSeq + 1 } }.logToRing r
/-- An entry thaws: FROZEN clears. -/
def State.thaw (s : State) (m : MoveSt) (time : Nat) : State :=
  let x := s.tb.host
  let s := { s with tb := { s.tb with moves := s.tb.moves.map fun y => if y.key = m.key then { y with thawed := true } else y } }
  match x.find 0 m.key.toNat with
  | some p =>
    let e := SMap.getD x.entries p 0
    ({ s with tb := { s.tb with host := { x with entries := SMap.set x.entries p (setBits e 60 60 0) } } }).learnRecord
      m.key.toNat 5 (xLoc e) 0xFFFF time
  | none => s
/-- HOLD in units. -/
def State.holdUnits (s : State) : Nat := ms (1000 * s.cfg.learnHold)
/-- One position of a sweep step for an owner (R261), and whether it was aged out. -/
def State.agePosition (s : State) (t : Nat) (mine : Nat → Bool) (p : Nat) : State × Bool :=
  let x := s.tbl t
  match SMap.get x.entries p with
  | none => (s, false)
  | some e =>
    if xStatic t e || !mine (xObj t e) then (s, false)
    else if x.age p = 3 then
      let s := if t = 0 then s.learnRecord (xKey 0 e) 6 (xLoc e) 0xFFFF s.time else s
      ((s.tblClear t p).tblCtr t 7 1, true)
    else (s.setTbl t (x.setAges p (x.age p + 1)), false)
/-- A sweep step over the positions in use of its range: the entries aged out. -/
def State.ageStep (s : State) (t i : Nat) (mine : Nat → Bool) : State × Nat :=
  let lo := 1024 * i
  let ps := ((s.tbl t).entries.filter fun e => lo ≤ e.1 && e.1 < lo + 1024).map (·.1)
  ps.foldl (fun (a : State × Nat) p => let r := a.1.agePosition t mine p; (r.1, a.2 + b2n r.2)) (s, 0)

/-! ## Array entries (R210 to R213, R263, R265) -/

/-- DEST has only the bits its disposition uses (R211). -/
def destLegal (disp dest : Nat) : Bool :=
  match disp with
  | 1 => dest < 2 ^ 9 | 2 => dest < 2 ^ 16 | 3 => dest < 2 ^ 5
  | 4 => dest / 256 % 256 == 0 && dest < 2 ^ 20 | 6 => true | _ => dest == 0
/-- The values R210, R211, R216, R217 and 17 R526 allow of an entry of a grove's action table. -/
def actionLegal (g : Nat) (e : BitVec 512) : Bool :=
  match eRole e with
  | 0 =>
    let disp := eDisp e
    let dest := eDest e
    eBits e 511 256 == 0 && eBits e 127 99 == 0 && eBits e 47 46 == 0 && eBits e 7 7 == 0 && eBits e 63 60 ≤ 4 &&
      disp ≤ 7 && destLegal disp dest &&
      (if disp = 2 then eBits e 35 32 ≤ 12 && dest % 4096 + 2 ^ eBits e 35 32 ≤ 4096 else eBits e 35 32 == 0) &&
      (disp != 6 || dest / 65536 == g)
  | 1 =>
    let patch := eBits e 23 20
    let len := eBits e 19 13
    let off := eBits e 31 24
    eBits e 12 3 == 0 && patch ≤ 4 && 1 ≤ len && len ≤ 123 &&
      ((patch != 1 && patch != 3) || off + 36 ≤ len) && ((patch != 2 && patch != 4) || off + 56 ≤ len)
  | 2 => eBits e 7 3 == 0
  | _ => false
/-- What an action entry names is present in the variant (R213). -/
def State.actionPresent (s : State) (e : BitVec 512) : Bool :=
  if eRole e != 0 then true
  else
    match eDisp e with
    | 1 => eDest e < s.lanes
    | 2 => eDest e < 4096 * s.groves
    | 3 => eDest e < s.clearings
    | 4 => eDest e / 65536 < s.groves
    | 6 => s.hasCipher
    | _ => true
/-- An array entry written in every grove copy. -/
def State.writeAction (s : State) (g i : Nat) (e : BitVec 512) : State :=
  let c := s.classifier g
  s.setClassifier g { c with actions := if e = 0 then SMap.del c.actions i else SMap.set c.actions i e }

/-! ## Table operations (R243) -/

/-- The gate of R237 on an array entry. -/
def State.ownsArray (s : State) (f tbl g i : Nat) : Bool :=
  if tbl = 2 then s.owns f 6 (512 + i / 256) else if tbl = 3 then s.owns f 1 i else s.owns f 6 (768 + 16 * g + i / 4096)
/-- READ and WRITE of the tenant, port and action tables; the configuration keeps its bound (03 R67). -/
def State.arrayOp (s : State) (f op tbl g : Nat) (all : Bool) (i : Nat) (data : BitVec 512) : State × TblAns :=
  let size := if tbl = 3 then 512 else 65536
  let e := if tbl = 2 then data &&& BitVec.ofNat 512 (2 ^ 256 - 1) else if tbl = 3 then data &&& BitVec.ofNat 512 (2 ^ 128 - 1) else data
  let gs := if all then s.groveList else [g]
  if 2 ≤ op ∨ size ≤ i ∨ (tbl ≠ 4 ∧ (g ≠ 0 ∨ all = true)) ∨ (all = true ∧ (op = 0 ∨ g ≠ 0)) then (s, ⟨St.badArg, 0, 0⟩)
  else if op = 1 ∧ ((tbl = 2 ∧ (eBits e 255 25 ≠ 0 ∨ eBits e 15 1 ≠ 0)) ∨
      (tbl = 3 ∧ (eBits e 71 66 ≠ 0 ∨ eBits e 63 8 ≠ 0 ∨ e.getLsbD 4 = true ∨ e.getLsbD 0 = true ∨ eBits e 65 64 = 3)) ∨
      (tbl = 4 ∧ gs.any (fun g => !actionLegal g e) = true)) then (s, ⟨St.badArg, 0, 0⟩)
  else if (tbl = 3 ∧ s.lanes ≤ i) ∨ (tbl = 4 ∧ gs.any (fun g => s.groves ≤ g) = true) ∨
      (tbl = 4 ∧ op = 1 ∧ s.actionPresent e = false) then (s, ⟨St.notPresent, 0, 0⟩)
  else if op = 0 then
    let v := if tbl = 2 then (s.tenantEntry i).setWidth 512 else if tbl = 3 then (s.portEntry i).setWidth 512 else s.actionEntry g i
    if tbl ≠ 3 ∧ v.getLsbD 0 = false then (s, ⟨St.ok, 0, 0⟩)
    else if s.ownsArray f tbl g i then (s, ⟨St.ok, 0, v⟩) else (s, ⟨St.notOwner, 0, 0⟩)
  else if !gs.all fun g => s.ownsArray f tbl g i then (s, ⟨St.notOwner, 0, 0⟩)
  else if tbl = 4 ∧ gs.any s.groveFailed = true then (s, ⟨St.internal, 0, 0⟩)
  else
    let t : State := if tbl = 2 then { s with cfg := { s.cfg with tenantTable := SMap.set s.cfg.tenantTable i (e.setWidth 256) } }
      else if tbl = 3 then { s with cfg := { s.cfg with portTable := SMap.set s.cfg.portTable i (e.setWidth 128) } }
      else gs.foldl (fun s g => s.writeAction g i e) s
    if tooLarge s.cfg t.cfg then (s, ⟨St.noSpace, 0, 0⟩) else (t, ⟨St.ok, 0, 0⟩)
/-- The entry a WRITE or an INSERT stores: the RO fields as they are to stand (R243). -/
def storedEntry (t : Nat) (e old : BitVec 512) : BitVec 512 :=
  let e := xSetAge t e 0
  if t = 0 then setBits (setBits e 60 60 (eBits old 60 60)) 57 57 (eBits old 57 57) else e
/-- WRITE, SEARCH and DELETE of the host and flow tables, on the position that holds the key. The hold of a WRITE is that of
the partition its entry names, that of a DELETE the found entry's (R647). -/
def State.keyedOp (s : State) (f op t : Nat) (e : BitVec 512) (held : Nat → Bool) : State × TblAns :=
  let x := s.tbl t
  match x.find t (xKey t e) with
  | none => (s, ⟨if op = 1 ∧ held (xObj t e) = true then St.busy else St.notFound, 0, 0⟩)
  | some p =>
    let old := SMap.getD x.entries p 0
    if !s.owns f 6 (xObj t old) then (s, ⟨St.notOwner, 0, 0⟩)
    else if op = 2 then (s, ⟨St.ok, p, x.view t p⟩)
    else if held (xObj t (if op = 1 then e else old)) then (s, ⟨St.busy, 0, 0⟩)
    else if op = 4 then (s.tblDelete t p, ⟨St.ok, p, 0⟩)
    else if xPart t e ≠ xPart t old then (s, ⟨St.badArg, 0, 0⟩)
    else (s.setTbl t (x.put p (storedEntry t e old)), ⟨St.ok, p, 0⟩)
/-- An operation on the host or flow table. `held` is the hold of a flush, which binds mailbox commands only (R647). -/
def State.hashOp (s : State) (f op t idx : Nat) (data : BitVec 512) (held : Nat → Bool) : State × TblAns :=
  let e := if t = 0 then data &&& BitVec.ofNat 512 (2 ^ 128 - 1) else data
  let x := s.tbl t
  match op with
  | 0 =>
    if tblSize t ≤ idx then (s, ⟨St.badArg, 0, 0⟩)
    else
      match SMap.get x.entries idx with
      | none => (s, ⟨St.ok, 0, 0⟩)
      | some v => if s.owns f 6 (xObj t v) then (s, ⟨St.ok, 0, x.view t idx⟩) else (s, ⟨St.notOwner, 0, 0⟩)
  | 5 =>
    if tblSteps t ≤ idx then (s, ⟨St.badArg, 0, 0⟩)
    else if (List.range 256).any fun i => s.owns f 6 (256 * t + i) && held (256 * t + i) then (s, ⟨St.busy, 0, 0⟩)
    else
      let r := s.ageStep t idx fun o => s.owns f 6 o
      (r.1, ⟨St.ok, r.2, 0⟩)
  | _ =>
    if idx ≠ 0 ∨ ((op = 1 ∨ op = 3) ∧ (xReserved t e = true ∨ xValid t e = false)) then (s, ⟨St.badArg, 0, 0⟩)
    else if op = 3 then
      if !s.owns f 6 (xObj t e) then (s, ⟨St.notOwner, 0, 0⟩)
      else if held (xObj t e) then (s, ⟨St.busy, 0, 0⟩)
      else s.tblInsert t (storedEntry t e 0)
    else s.keyedOp f op t e held
/-- A table operation by the fields of TBL_CMD (R239, R243). -/
def State.tableOp (s : State) (f op : Nat) (cmd : W32) (data : BitVec 512) (held : Nat → Bool) : State × TblAns :=
  let tbl := eBits cmd 26 24
  let g := eBits cmd 31 28
  let all := cmd.getLsbD 27
  let idx := eBits cmd 20 0
  if 4 < tbl ∨ 5 < op then (s, ⟨St.badArg, 0, 0⟩)
  else if tbl ≤ 1 then if g ≠ 0 ∨ all = true then (s, ⟨St.badArg, 0, 0⟩) else s.hashOp f op tbl idx data held
  else s.arrayOp f op tbl g all idx data

/-! ## Register sets (R239 to R242) -/

def State.tblSet (s : State) (src : Nat) : TblSet := SMap.getD s.tb.sets src {}
def State.setTblSet (s : State) (src : Nat) (x : TblSet) : State := { s with tb := { s.tb with sets := SMap.set s.tb.sets src x } }
/-- The acting function of a register set (R233, 15 R455, R456). -/
def State.setActor (s : State) (src : Nat) : Nat :=
  if src < 128 then pf2 (src / 8)
  else match (s.svc ((src - 128) / 2)).image with
    | none => operator
    | some b => fld b (520 + 2 * (src % 2)) 2
/-- A write to a register of a set: by PF2 of its host port through its firebreak, or by a service core of its grove. -/
def setWrite (s : State) (src off len : Nat) (k : State → State) : State :=
  if src < 128 then hostRequest s (pf2 (src / 8)) (0x0200 + src / 8) 2 off len k
  else if src < 128 + 2 * s.groves && s.running then k s else s
/-- An operation of a register set takes its turn; its result waits for every replica's acknowledgement (R234). A set that
was reset in the meantime takes no result. -/
def State.runTblOp (s : State) (o : TblOp) : State :=
  let r := s.tableOp (s.setActor o.src) (eBits o.cmd 23 21) o.cmd o.data fun _ => false
  let x := r.1.tblSet o.src
  if x.busy then r.1.setTblSet o.src { x with due := some (r.2.status, BitVec.ofNat 32 r.2.info, r.2.data) } else r.1
/-- The operations that wait run, in order: before one of the learn engine or of Slaot, whose source numbers are the
highest (R233). -/
def State.tblRun (s : State) : State := s.tb.ops.foldl State.runTblOp { s with tb := { s.tb with ops := [] } }
/-- The broadcaster cycle of a moment (R233). -/
def tblCycle (now : Nat) : Nat := now / 2
/-- Those of the cycles that are over run. -/
def State.tblRunDue (s : State) : State :=
  let over_ (o : TblOp) : Bool := o.cycle < tblCycle s.now
  (s.tb.ops.filter over_).foldl State.runTblOp { s with tb := { s.tb with ops := s.tb.ops.filter (!over_ ·) } }
/-- An operation joins those that wait, which are of one cycle, in ascending source number. -/
def joinOps (l : List TblOp) (o : TblOp) : List TblOp := l.filter (·.src ≤ o.src) ++ o :: l.filter (o.src < ·.src)
/-- An operation starts on a register set, or its command is lost while BUSY is 1 (R239, R240). -/
def State.tblStart (s : State) (src : Nat) (v : W32) : State :=
  let s := s.tblRunDue
  let x := s.tblSet src
  if x.busy then s.setTblSet src { x with cmdLost := true }
  else
    let s := s.setTblSet src { x with busy := true, cmd := v }
    { s with tb := { s.tb with ops := joinOps s.tb.ops ⟨src, v, x.data, tblCycle s.now⟩ } }
/-- A TBL_CMD write (R239, R240): the operation takes its turn in broadcaster order. A value whose OP is 6 or 7 is no
operation's and is refused with the READ row. -/
def tblCmd (op src : Nat) (v : W32) (s : State) : State :=
  if eBits v 23 21 = op ∨ (op = 0 ∧ 5 < eBits v 23 21) then
    setWrite s src (0x100200 + 0x10 * (src % 8)) 4 fun s => s.tblStart src v
  else s
def execTblCmdRead (src : Nat) (v : W32) (s : State) : Res := whenServing s (tblCmd 0 src v)
def execTblCmdWrite (src : Nat) (v : W32) (s : State) : Res := whenServing s (tblCmd 1 src v)
def execTblCmdSearch (src : Nat) (v : W32) (s : State) : Res := whenServing s (tblCmd 2 src v)
def execTblCmdInsert (src : Nat) (v : W32) (s : State) : Res := whenServing s (tblCmd 3 src v)
def execTblCmdDelete (src : Nat) (v : W32) (s : State) : Res := whenServing s (tblCmd 4 src v)
def execTblCmdAgeStep (src : Nat) (v : W32) (s : State) : Res := whenServing s (tblCmd 5 src v)
/-- Bytes of the data block replaced from an offset on. -/
def putData (d : BitVec 512) : Nat → List Byte → BitVec 512
  | _, [] => d
  | o, b :: bs => putData (setBits d (8 * o + 7) (8 * o) b.toNat) (o + 1) bs
/-- TBL_DATA bytes are written, or lost while BUSY is 1 (R240, R242). -/
def State.tblPut (s : State) (src off : Nat) (bytes : List Byte) : State :=
  let x := s.tblSet src
  if x.busy then s.setTblSet src { x with dataLost := true } else s.setTblSet src { x with data := putData x.data off bytes }
/-- TBL_DATA_WRITE (R240): 1 to 64 bytes within the block (12 R358). -/
def execTblDataWrite (src off : Nat) (bytes : List Byte) (s : State) : Res :=
  whenServing s fun s =>
    setWrite s src (0x100000 + 0x40 * (src % 8) + off) bytes.length fun s =>
      if bytes.length ≠ 0 ∧ off + bytes.length ≤ 64 then s.tblPut src off bytes
      else if src < 128 then s.hostCtr (src / 8) 13 else s
/-- Writing 1 clears CMD_LOST and DATA_LOST (R240). -/
def State.tblStatusAck (s : State) (src : Nat) (v : W32) : State :=
  let x := s.tblSet src
  s.setTblSet src { x with cmdLost := x.cmdLost && !v.getLsbD 30, dataLost := x.dataLost && !v.getLsbD 29 }
/-- TBL_STATUS_CLEAR (R240). -/
def execTblStatusClear (src : Nat) (v : W32) (s : State) : Res :=
  whenServing s fun s => setWrite s src (0x100204 + 0x10 * (src % 8)) 4 fun s => s.tblStatusAck src v
/-- TBL_RESULT_POST (R242): once the operation has had its turn. -/
def execTblResultPost (src : Nat) (s : State) : Res :=
  whenServing s fun s =>
    let s := if s.tb.ops.any (·.src == src) then (s.upTo (2 * (tblCycle s.now + 1))).tblRun else s
    let x := s.tblSet src
    match x.due with
    | some (st, info, data) =>
      s.setTblSet src { x with busy := false, due := none, data := data, info := info, result := BitVec.ofNat 8 st, done := x.done + 1 }
    | none => s
/-- TBL_STATUS of a set. -/
def TblSet.statusWord (x : TblSet) : Nat :=
  2 ^ 31 * b2n x.busy + 2 ^ 30 * b2n x.cmdLost + 2 ^ 29 * b2n x.dataLost + 256 * x.done.toNat + x.result.toNat

/-! ## Poisoned positions (R232) -/

/-- The location of a position of a replica. -/
def locEntry (t r p : Nat) : LocWord := ⟨1, r, 0, 0x10 + t, 0, p⟩
/-- LOOKUP_POISON_REPAIR (R232). -/
def execLookupPoisonRepair (t r p : Nat) (s : State) : Res :=
  whenRunning s fun s =>
    let s := s.tblRun
    let x := s.tbl t
    if t ≤ 1 ∧ x.bad.contains (4 * p + r) = true then
      if (List.range 4).any fun k => !x.bad.contains (4 * p + k) && !s.isFenced (0x10 + t) k 0 then
        s.setTbl t { x with bad := x.bad.filter (· != 4 * p + r) }
      else ((s.tblClear t p).tblCtr t 6 1).log (locEntry t r p) 0x09 1 (BitVec.ofNat 32 t)
    else s

/-! ## Learning (R251 to R258) -/

/-- The replica of a grove: its stand's, or that of stand s XOR 1 while its own is fenced (01 R27; 21, unit failure). -/
def State.replica (s : State) (t g : Nat) : Nat := if s.isFenced (0x10 + t) (g / 4) 0 then (g / 4) ^^^ 1 else g / 4
/-- The entry a learn inserts (R253). -/
def learnEntry (p : BitVec 128) (e : LearnEv) : BitVec 512 :=
  BitVec.ofNat 512 (2 ^ 112 * e.tenant + 2 ^ 64 * e.mac.toNat + 2 ^ 63 + 2 ^ 62 * eBits p 3 3 + 2 ^ 57 + 2 ^ 48 * e.port +
    2 ^ 40 * eBits p 79 72 + eBits p 111 96)
/-- The moves known of a key. -/
def State.movesOf (s : State) (key : Nat) : MoveSt := (s.tb.moves.find? fun m => m.key.toNat == key).getD { key := BitVec.ofNat 64 key }
def State.setMoves (s : State) (m : MoveSt) : State :=
  { s with tb := { s.tb with moves := m :: s.tb.moves.filter fun x => x.key != m.key } }
/-- Bits of the entry of a host-table position rewritten. -/
def State.rewrite (s : State) (p : Nat) (k : BitVec 512 → BitVec 512) : State :=
  s.setTbl 0 ((s.tb.host).put p (k (SMap.getD s.tb.host.entries p 0)))
/-- A learn (R253, R254). -/
def State.learn (s : State) (e : LearnEv) (key : Nat) : State :=
  let r := s.tblInsert 0 (learnEntry (s.portEntry e.port) e)
  if r.2.status = St.ok then (r.1.hostTblCtr 8 1).learnRecord key 1 0xFFFF e.port e.stamp
  else if r.2.status = St.noSpace then (r.1.hostTblCtr 15 1).learnRecord key 7 0xFFFF e.port e.stamp
  else if r.2.status = St.needRehash then (r.1.hostTblCtr 16 1).learnRecord key 8 0xFFFF e.port e.stamp
  else r.1
/-- A move (R255, R256): applied, refused while frozen, or refused with a freeze. -/
def State.station (s : State) (e : LearnEv) (key p : Nat) : State :=
  let old := xLoc (SMap.getD s.tb.host.entries p 0)
  let k := e.stamp / ms 1000
  let m := s.movesOf key
  let n := SMap.getD m.moves k 0
  if m.frozen.any fun f => e.stamp < f + s.holdUnits then (s.hostTblCtr 10 1).learnRecord key 3 old e.port e.stamp
  else if n < s.cfg.moveLimit then
    let a := eBits (s.portEntry e.port) 111 96
    let s := (s.rewrite p fun x => setBits (setBits x 56 48 e.port) 15 0 a).setMoves { m with moves := SMap.set m.moves k (n + 1) }
    (s.hostTblCtr 9 1).learnRecord key 2 old e.port e.stamp
  else
    let s := (s.setMoves { m with frozen := some e.stamp, thawed := false }).setTbl 0 { s.tb.host with
      entries := SMap.set s.tb.host.entries p (setBits (SMap.getD s.tb.host.entries p 0) 60 60 1) }
    (((s.hostTblCtr 11 1).hostTblCtr 10 1).learnRecord key 4 old e.port e.stamp).fireAll 243 Ev.macFlap
      (BitVec.ofNat 32 (65536 * e.tenant + e.port))
/-- An event is decided against the entry as the broadcaster holds it (R253). -/
def State.decideLearn (s : State) (e : LearnEv) : State :=
  let s := s.tblRun
  let key := 2 ^ 48 * e.tenant + e.mac.toNat
  let m := s.movesOf key
  let s := match m.frozen with
    | some f => if !m.thawed && f + s.holdUnits ≤ e.stamp then s.thaw m (f + s.holdUnits) else s
    | none => s
  let x := s.tb.host
  match x.find 0 key with
  | none => s.learn e key
  | some p =>
    let old := SMap.getD x.entries p 0
    if xLoc old = e.port then s.setTbl 0 (x.setAge p (s.replica 0 (e.port / 32)) 0)
    else if xStatic 0 old then (s.hostTblCtr 12 1).learnRecord key 9 (xLoc old) e.port e.stamp
    else s.station e key p
/-- The first event in the order of decision: lowest stamp, then lowest ingress port (R252). -/
def firstEvent : List LearnEv → Option LearnEv
  | [] => none
  | e :: es =>
    match firstEvent es with
    | some f => if f.stamp < e.stamp ∨ (f.stamp = e.stamp ∧ f.port < e.port) then some f else some e
    | none => some e
/-- An event reaches the learn engine (R252). -/
def State.learnEvent (s : State) (e : LearnEv) : State :=
  if e.stamp < s.tb.decided.1 then (s.decideLearn e).hostTblCtr 13 1
  else if 65536 ≤ s.tb.events.length then s.hostTblCtr 14 1
  else { s with tb := { s.tb with events := s.tb.events ++ [e] } }
/-- The first event is decided. -/
def State.decideFirst (s : State) : State :=
  match firstEvent s.tb.events with
  | some e => ({ s with tb := { s.tb with events := s.tb.events.erase e, decided := (e.stamp, e.port) } }).decideLearn e
  | none => s
/-- LEARN_DECIDE (R252): when device time reaches the stamp + 4 µs. -/
def execLearnDecide (s : State) : Res :=
  whenRunning s fun s =>
    match firstEvent s.tb.events, s.tb.engineFailed with
    | some e, none => (s.upToTime (e.stamp + 16000)).decideFirst
    | _, _ => s
/-- LEARN_ENGINE_TAKEOVER (R257): the standby engine on stand 2 goes on with the undecided events, within 1 ms. -/
def execLearnEngineTakeover (s : State) : Res :=
  whenRunning s fun s =>
    match s.tb.engineFailed with
    | some _ =>
      if s.tb.engine = 0 ∧ s.isFenced 0x12 2 0 = false then { s with tb := { s.tb with engine := 2, engineFailed := none } } else s
    | none => s

/-- ENTRY_THAW (R256, R258): the entry of a key thaws at s + HOLD. -/
def execEntryThaw (key : Nat) (s : State) : Res :=
  whenRunning s fun s =>
    match s.tb.moves.find? fun m => m.key.toNat == key with
    | some m =>
      match m.frozen with
      | some f =>
        if m.thawed then s
        else (s.upToTime (f + s.holdUnits)).tblRun.thaw m (f + s.holdUnits)
      | none => s
    | none => s

/-! ## Ageing (R259 to R262) -/

/-- The ageing period of a table in ms. -/
def State.agePeriod (s : State) (t : Nat) : Nat := if t = 0 then s.cfg.hostAgeMs else s.cfg.flowAgeMs
/-- AGE_SWEEP_STEP (R259): the next step, one step's share of the period after the last; none during an activation
(R262). -/
def execAgeSweepStep (t : Nat) (s : State) : Res :=
  whenRunning s fun s =>
    if 2 ≤ t ∨ s.agePeriod t = 0 ∨ s.boot.activating = true ∨ s.slaotUp = false then s
    else
      let x := s.tbl t
      let s := s.upTo (max x.sweptAt s.cn.start + ms (s.agePeriod t) / tblSteps t)
      let s := s.tblRun
      let s := s.setTbl t { s.tbl t with sweep := (x.sweep + 1) % tblSteps t, sweptAt := s.now }
      (s.ageStep t x.sweep fun _ => true).1

/-! ## TABLE commands (R267, R647, R268) -/

/-- A mailbox form of an operation. -/
def tableBody (op : Nat) : Body := fun s r =>
  let p := r.payload
  let cmd := BitVec.ofNat 32 (fld p 0 4)
  chk (p.length == 68 && eBits cmd 23 21 == 0) St.badArg <|
  let a := s.tblRun.tableOp r.actor op cmd (BitVec.ofNat 512 (fld p 4 64)) fun o => s.isHeld (.part o)
  .ok ⟨a.1, some ⟨a.2.status, leBytes 4 a.2.info ++ zeros 4 ++ leBytes 64 a.2.data.toNat, 0⟩⟩
def execTableRead (s : State) : Res := slaotRow 0x0301 (tableBody 0) s
def execTableWrite (s : State) : Res := slaotRow 0x0302 (tableBody 1) s
def execTableSearch (s : State) : Res := slaotRow 0x0303 (tableBody 2) s
def execTableInsert (s : State) : Res := slaotRow 0x0304 (tableBody 3) s
def execTableDelete (s : State) : Res := slaotRow 0x0305 (tableBody 4) s
def execTableAgeStep (s : State) : Res := slaotRow 0x0306 (tableBody 5) s

/-- TABLE.REHASH (R248, R250): new seeds, unless a pending rehash resumes with its own. -/
def tableRehashBody : Body := fun s r =>
  let t := fld r.payload 0 1
  chk (r.payload.length == 4 && t ≤ 1 && zeroAt r.payload 1 3) St.badArg <|
  chk ((List.range 256).any fun i => s.owns r.actor 6 (256 * t + i)) St.notOwner <|
  chk (!s.isHeld (.table t)) St.busy <|
  match startOp s r 0 (.rehash t) with
  | .error e => .error e
  | .ok d =>
    let s' := d.s.tblRun
    let x := s'.tbl t
    let seeds := (Config.randomDraw 32 s.free, Config.randomDraw 32 (s.free + 1))
    .ok { d with s := (s'.setTbl t { x with fresh := some (x.fresh.getD seeds), step := 0, placed := 0 }).drawn 2 }
def execTableRehash (s : State) : Res := slaotRow 0x0307 tableRehashBody s

/-- A position holds an entry that lies in no candidate bucket of the placing seeds. -/
def XTable.misplaced (x : XTable) (t p : Nat) : Bool :=
  p < tblStash t && (SMap.get x.entries p).any fun e => !(xCands t x.placing (xKey t e)).contains (p / 4 * 4)
/-- An entry is placed under the new seeds, when there is room. -/
def XTable.rehashOne (x : XTable) (t p : Nat) : XTable :=
  if x.misplaced t p then
    match x.makeRoom t (((SMap.get x.entries p).map (xKey t)).getD 0) with
    | some (y, q, m) => { y.move p q with placed := x.placed + 1, ctrs := y.ctrs.add 2 (m + 1) }
    | none => x
  else x
/-- What is left goes to free stash positions: none when they do not suffice. -/
def XTable.stashRest (x : XTable) (t : Nat) : Option XTable :=
  (x.entries.filter fun e => x.misplaced t e.1).foldl (fun (a : Option XTable) e =>
    a.bind fun y => (y.freeStash t).map fun q => let z := y.move e.1 q; { z with ctrs := z.ctrs.peak 3 (z.stashUsed t) }) (some x)
/-- One layout remains: the new seeds become the only ones. -/
def XTable.oneLayout (x : XTable) : XTable := { x with seed0 := x.placing.1, seed1 := x.placing.2, fresh := none, step := 0, placed := 0 }
/-- REHASH_STEP (R248). -/
def execRehashStep (h : Nat) (s : State) : Res :=
  whenRunning s (opRow h (fun s _ => s) fun s o =>
    match o.data with
    | .rehash t =>
      let s := s.tblRun
      let x := s.tbl t
      let x := ((x.entries.filter fun e => x.step * 256 ≤ e.1 && e.1 < x.step * 256 + 256).map (·.1)).foldl (fun x p => x.rehashOne t p) x
      let s := s.setOp o
      if x.step + 1 < tblBuckets t / 32 then s.setTbl t { x with step := x.step + 1 }
      else if !x.entries.any fun e => x.misplaced t e.1 then (s.setTbl t x.oneLayout).endOp o St.ok
      else if x.placed ≠ 0 then s.setTbl t { x with step := 0, placed := 0 }
      else
        match x.stashRest t with
        | some y => (s.setTbl t y.oneLayout).endOp o St.ok
        | none => (s.setTbl t { x with step := 0, placed := 0 }).endOp o St.noSpace
    | _ => s)

/-- TABLE.INFO. -/
def tableInfoBody : Body := fun s r =>
  let t := fld r.payload 0 1
  let x := s.tbl t
  let f := x.fresh.getD (0, 0)
  chk (r.payload.length == 4 && t ≤ 1 && zeroAt r.payload 1 3) St.badArg <|
  done s (leBytes 1 (if x.fresh.isNone then 0 else if s.isHeld (.table t) then 1 else 2) ++ zeros 3 ++
    leBytes 4 x.seed0.toNat ++ leBytes 4 x.seed1.toNat ++ leBytes 4 f.1.toNat ++ leBytes 4 f.2.toNat ++
    leBytes 4 x.entries.length ++ leBytes 1 (x.stashUsed t) ++ zeros 3)
def execTableInfo (s : State) : Res := slaotRow 0x0308 tableInfoBody s
/-- TABLE.PART_SET. -/
def partSetBody : Body := fun s r =>
  let p := r.payload
  let o := fld p 0 2
  chk (p.length == 8 && o < 512 && zeroAt p 2 2 && fld p 4 4 ≤ tblSize (o / 256)) St.badArg <|
  chk (r.actor == operator) St.notOwner <|
  done { s with cfg := { s.cfg with partLimits := SMap.set s.cfg.partLimits o (fld p 4 4) } }
def execTablePartSet (s : State) : Res := slaotRow 0x0309 partSetBody s
/-- An ageing period R259 allows. -/
def ageLegal (n : Nat) : Bool := n == 0 || (1000 ≤ n && n ≤ 3600000)
/-- TABLE.LEARN_SET. -/
def learnSetBody : Body := fun s r =>
  let p := r.payload
  chk (p.length == 12 && 1 ≤ fld p 0 1 && zeroAt p 1 1 && 1 ≤ fld p 2 2 && fld p 2 2 ≤ 3600 && ageLegal (fld p 4 4) &&
    ageLegal (fld p 8 4)) St.badArg <|
  chk (r.actor == operator) St.notOwner <|
  done { s with cfg := { s.cfg with
    moveLimit := fld p 0 1, learnHold := fld p 2 2, hostAgeMs := fld p 4 4, flowAgeMs := fld p 8 4 } }
def execTableLearnSet (s : State) : Res := slaotRow 0x030A learnSetBody s
/-- TABLE.FLUSH. -/
def tableFlushBody : Body := fun s r =>
  let p := r.payload
  let o := fld p 0 2
  chk (p.length == 4 && o < 512 && fld p 2 1 ≤ 1 && zeroAt p 3 1) St.badArg <|
  chk (s.owns r.actor 6 o) St.notOwner <| chk (!s.isHeld (.part o)) St.busy <|
  startOp s r (tblSteps (o / 256)) (.flush (o / 256) o (fld p 2 1) 0 0)
def execTableFlush (s : State) : Res := slaotRow 0x030B tableFlushBody s
/-- A position is flushed, and again while what moves into it is to be flushed too. -/
def State.flushAt (s : State) (t : Nat) (goes : BitVec 512 → Bool) : Nat → Nat → State
  | 0, _ => s
  | k + 1, p => if (SMap.get (s.tbl t).entries p).any goes then (s.tblDelete t p).flushAt t goes k p else s
/-- FLUSH_STEP (R267): 1,024 positions. -/
def execFlushStep (h : Nat) (s : State) : Res :=
  whenRunning s (opRow h (fun s _ => s) fun s o =>
    match o.data with
    | .flush t part flags pos n =>
      let goes (e : BitVec 512) : Bool := xObj t e == part && (flags == 0 || (t == 0 && xLearned e))
      let s := s.tblRun
      let ps := ((s.tbl t).entries.filter fun e => pos ≤ e.1 && e.1 < pos + 1024).map (·.1)
      let s := (ps.foldl (fun s p => s.flushAt t goes 65 p) s).setOp { o with data := .flush t part flags (pos + 1024) (n + 1) }
      if tblSize t ≤ pos + 1024 then s.endOp o St.ok else s
    | _ => s)
/-- TABLE.STATS. -/
def tableStatsBody : Body := fun s r =>
  let t := fld r.payload 0 1
  chk (r.payload.length == 4 && t ≤ 1 && zeroAt r.payload 1 3) St.badArg <| done s (ctrBytes (s.tbl t).ctrs 21)
def execTableStats (s : State) : Res := slaotRow 0x030C tableStatsBody s

end Sys2Proof.Machine
end

