-- ==== Sys2Proof/Machine/Trail.lean ====
section
/-! DEFINITION. The trail (09): the fixed header parse, keys and lookups, eligibility, the arrival of frames from
Ethernet ports and from other sources, and the release of decisions in lane order. -/
namespace Sys2Proof.Machine

/-! ## The fixed header parse (R269 to R274) -/

/-- What the trail records of a frame's headers. -/
structure Hdrs where
  bits : Nat := 0
  l3 : Nat := 0xFF
  l4 : Nat := 0xFF
  inner : Nat := 0xFF
  pcp : Nat := 0
  vid : Nat := 0
  etype : Nat := 0
  deriving DecidableEq, Repr

/-- STOP at the window end, or at a header that is not parsed. -/
def Hdrs.stop (h : Hdrs) : Hdrs := { h with bits := h.bits + 128 }
/-- Next headers that set STOP. -/
def ipv6Stops : List Nat := [0, 43, 44, 50, 51, 60, 135, 139, 140, 253, 254]
/-- From the end of an overlay header on. -/
def Hdrs.overlay (h : Hdrs) (n inner : Nat) : Hdrs := if n ≤ inner + 14 then h.stop else { h with inner := inner }
/-- From UDP on. -/
def Hdrs.udp (h : Hdrs) (w : List Byte) (l4 : Nat) : Hdrs :=
  let n := w.length
  if n < l4 + 8 then h.stop
  else
    let h := { h with bits := h.bits + 16, l4 := l4 }
    let dport := nfld w (l4 + 2) 2
    if dport = 4789 then
      if n < l4 + 16 then h.stop else { h with bits := h.bits + 32 }.overlay n (l4 + 16)
    else if dport = 6081 then
      let fin := l4 + 16 + 4 * (nfld w (l4 + 8) 1 % 64)
      if n < l4 + 16 ∨ n < fin then h.stop
      else
        let h := { h with bits := h.bits + 64 }
        if nfld w (l4 + 10) 2 = 0x6558 then h.overlay n fin else h
    else h
/-- From the IP header on, at an offset. -/
def Hdrs.ip (h : Hdrs) (w : List Byte) (o : Nat) : Hdrs :=
  let n := w.length
  let v := nfld w o 1
  if h.etype = 0x0800 then
    if n ≤ o then h.stop
    else if v / 16 = 4 ∧ 5 ≤ v % 16 then
      let fin := o + 4 * (v % 16)
      if n < fin then h.stop
      else
        let h := { h with bits := h.bits + 4, l3 := o }
        if nfld w (o + 6) 2 % 2 ^ 13 ≠ 0 then h.stop else if nfld w (o + 9) 1 = 17 then h.udp w fin else h
    else h
  else if h.etype = 0x86DD then
    if n ≤ o then h.stop
    else if v / 16 = 6 then
      if n < o + 40 then h.stop
      else
        let h := { h with bits := h.bits + 8, l3 := o }
        let next := nfld w (o + 6) 1
        if ipv6Stops.contains next then h.stop else if next = 17 then h.udp w (o + 40) else h
    else h
  else h
/-- The parse of a window (R269, R270). -/
def parseHdrs (w : List Byte) : Hdrs :=
  let n := w.length
  let e0 := nfld w 12 2
  if n < 14 then ({} : Hdrs).stop
  else if e0 = 0x8100 ∨ e0 = 0x88A8 then
    if n < 18 then ({} : Hdrs).stop
    else
      let tci := nfld w 14 2
      let h : Hdrs := { bits := 1, pcp := tci / 2 ^ 13, vid := tci % 2 ^ 12, etype := nfld w 16 2 }
      if h.etype = 0x8100 then
        if n < 22 then h.stop else { h with bits := 3, etype := nfld w 20 2 }.ip w 22
      else h.ip w 18
  else ({ etype := e0 } : Hdrs).ip w 14
/-- An IPv4 address in IPv4-mapped form. -/
def mapped4 (w : List Byte) (o : Nat) : List Byte := zeros 10 ++ [0xFF, 0xFF] ++ slice w o 4
/-- The flow key (R273). -/
def flowKey (w : List Byte) (tenant : Nat) (h : Hdrs) : List Byte :=
  let v4 := bit h.bits 2
  let v6 := bit h.bits 3
  let udp := bit h.bits 4
  let encaps := bit h.bits 5 || bit h.bits 6
  let frag := v4 && nfld w (h.l3 + 6) 1 / 32 % 2 == 1
  beBytes 2 tenant ++
    [BitVec.ofNat 8 (128 * b2n v4 + 64 * b2n v6 + 32 * b2n udp + 16 * b2n (bit h.bits 5) + 8 * b2n (bit h.bits 6))] ++
    (if v4 then mapped4 w (h.l3 + 12) ++ mapped4 w (h.l3 + 16) ++ slice w (h.l3 + 9) 1
     else if v6 then slice w (h.l3 + 8) 32 ++ slice w (h.l3 + 6) 1 else zeros 33) ++
    (if udp && !frag then slice w h.l4 4 else zeros 4) ++ (if encaps then slice w (h.l4 + 12) 3 else zeros 3) ++ zeros 5
/-- FLOW_HASH (R274). -/
def flowHash (w : List Byte) (h : Hdrs) : Nat :=
  if bit h.bits 2 || bit h.bits 3 then (crc32c (slice (flowKey w 0 h) 3 37)).toNat
  else (crc32c (slice w 0 12 ++ beBytes 2 h.etype)).toNat

/-! ## Frames enter the canopy (R277, R282, R296) -/

/-- The window of a frame. -/
def FrameRec.window (f : FrameRec) : List Byte := f.bytes.take (windowLen f)
/-- The metadata record as a frame enters: source, time, window and FLOW_HASH. -/
def mdEnter (bytes : List Byte) (kind id time tenant : Nat) (stamped reentry : Bool) : BitVec 1024 :=
  let w := bytes.take 256
  BitVec.ofNat 1024 (2 ^ 224 * flowHash w (parseHdrs w) + 2 ^ 160 * 0xFFFFFF + 2 ^ 128 * tenant +
    2 ^ 112 * min 256 bytes.length + 2 ^ 105 * b2n stamped + 2 ^ 104 * b2n (decide (bytes.length ≤ 256)) +
    2 ^ 103 * b2n reentry + 2 ^ 96 * kind + 2 ^ 64 * id + time % 2 ^ 64)
/-- The pipeline the next frame of a grove is assigned to: in rotation over the live ones (R277; 21 R614). -/
def State.nextPipe (s : State) (g : Nat) : Nat :=
  let p := SMap.getD s.cn.pipeline g 0
  (((List.range 8).map fun i => (p + i) % 8).find? fun i => !s.isFenced 0x02 g i).getD p
/-- A frame takes its lane position and the STEER of its source. -/
def State.enterRec (s : State) (g : Nat) (f : FrameRec) : Nat × State :=
  let (t, s) := s.newTag g
  let pipe := s.nextPipe g
  let f := { f with first := s.now, order := s.cn.orders, steer := SMap.getD s.cn.steer f.steerKey g, pipe := pipe }
  let s := { s with cn := { s.cn with orders := s.cn.orders + 1, pipeline := SMap.set s.cn.pipeline g ((pipe + 1) % 8) } }
  (t, s.setFrame t f)
/-- A frame of a source other than an Ethernet port enters whole, with CHECK 1, or with CHECK 3 when it is abandoned
(11 R324). `key` is the number of its steering register. -/
def State.enterFrame (s : State) (g kind id key tenant : Nat) (bytes : List Byte) (ok : Bool) (k : FrameRec → FrameRec) : Nat × State :=
  let f : FrameRec := { bytes := bytes, kind := kind, id := id, steerKey := key, first := s.now, last := some s.now, order := 0,
                        md := mdEnter bytes kind id s.time tenant false false, check := if ok then 1 else 3 }
  let (t, s) := s.enterRec g (k f)
  (t, s.cutTo t bytes.length (if ok then 1 else 3))
/-- The start stamp of a received frame (05 R156). -/
def State.ingressStamp (s : State) (n : Nat) : Nat :=
  let c := s.portCfg n
  if bit c.ptp 0 then ((Int.ofNat s.time + c.ingressCorr.toInt) % 2 ^ 64).toNat else s.time
/-- ETH_FRAME_FIRST_BYTE (R277): T_first. The bytes are those the frame will have brought by its last bit. A frame beyond
what the grove's live pipelines accept from its Ethernet ports is freed (R278; 21 R614). -/
def execEthFrameFirstByte (n : Nat) (bytes : List Byte) (s : State) : Res :=
  whenRunning s fun s =>
    if s.isPort n && s.isUp n && !bytes.isEmpty then
      let g := n / 32
      if !s.trailAccepts g (s.startedIn g fun f => f.port.isSome) then s.healthCtr g 1 1
      else
        let e := s.portEntry n
        let tenant := eBits e 127 112
        let f : FrameRec := { bytes := bytes, kind := 0, id := n, steerKey := n, first := s.now, order := 0,
                              lossless := false, md := mdEnter bytes 0 n (s.ingressStamp n) tenant (bit (s.portCfg n).ptp 0) false }
        (s.enterRec g f).2
    else s

/-! ## The trail's result (R271 to R277) -/

/-- The metadata record with what the trail finds (R271): PRIORITY, TENANT_ID and the header offsets. A re-entered frame
keeps its TENANT_ID (08 R264). -/
def State.trailMd (s : State) (f : FrameRec) (h : Hdrs) : BitVec 1024 :=
  let e := s.ingressEntry f
  let tagged := bit h.bits 0
  let tenant := if f.port.isSome then
      (eBits (e.getD 0) 127 112 + (if (e.getD 0).getLsbD 1 && tagged then h.vid else 0)) % 65536
    else mdTenant f.md
  let prio := if tagged then h.pcp else match e with | some e => eBits e 7 5 | none => 0
  let m := setBits (setBits (setBits f.md 143 128 tenant) 151 144 h.bits) 186 184 prio
  setBits (setBits (setBits m 167 160 h.l3) 175 168 h.l4) 183 176 h.inner
/-- A position a lookup reads with an uncorrectable error (08 R232). -/
def State.lookupBad (s : State) (t r key : Nat) : Option Nat :=
  let x := s.tbl t
  if x.bad.isEmpty then none else (x.positions t key).find? fun p => x.bad.contains (4 * p + r)
/-- What the trail decides of a frame; one already freed has only passed through it (R282). -/
def State.trailDecide (s : State) (t : Nat) (k : State → State) : State :=
  match s.frame t with
  | some f => if f.gone then s.setFrame t { f with stage := .decided } else k s
  | none => s
/-- The frame is freed and counted in LOOKUP_POISONED. -/
def State.poisonLookup (s : State) (t tag r p : Nat) : State :=
  let (syn, s) := s.fresh 8
  ((s.tblCtr t 5 1).uncorrectable (locEntry t r p) syn).trailDecide tag fun s => s.decide_ tag .free true
/-- A lookup with its refresh of a flow entry (08 R260): the entry found. -/
def State.lookup (s : State) (t r key : Nat) (refresh : Bool) : Option (BitVec 512) × State :=
  let x := s.tbl t
  match x.find t key with
  | some p => (some (SMap.getD x.entries p 0), if refresh then s.setTbl t (x.setAge p r 0) else s)
  | none => (none, s)
/-- An event of a frame goes to the learn engine once the frame's FCS has passed (08 R251). -/
def State.sendLearn (s : State) (t : Nat) (f : FrameRec) (e : LearnEv) : State :=
  if f.check = 1 then s.learnEvent e else s.setFrame t { f with learn := some e }
/-- The source-address lookup of a frame (08 R251): what it finds acts on the looking replica, or leaves an event that
waits for the frame's FCS. -/
def State.learnLookup (s : State) (t : Nat) (f : FrameRec) (r tenant : Nat) : State :=
  let n := f.id
  let mac := nfld f.bytes 6 6
  if f.port.isSome && (s.portEntry n).getLsbD 2 && nfld f.bytes 6 1 % 2 == 0 && mac != 0 then
    let key := 2 ^ 48 * tenant + mac
    match s.lookupBad 0 r key with
    | some p => s.poisonLookup 0 t r p
    | none =>
      let ev : LearnEv := ⟨eBits f.md 63 0, n, tenant, BitVec.ofNat 48 mac⟩
      match s.tb.host.find 0 key with
      | some p =>
        let e := SMap.getD s.tb.host.entries p 0
        if xLoc e = n then s.setTbl 0 (s.tb.host.setAge p r 0)
        else if xStatic 0 e then s.hostTblCtr 12 1
        else s.sendLearn t f ev
      | none => s.sendLearn t f ev
  else s
/-- An applying entry is trail-eligible (R275). -/
def State.trailEligible (s : State) (g tbl : Nat) (e : BitVec 512) : Bool :=
  let a := s.actionEntry g (xAction e)
  xTrail tbl e && eValid a && eRole a == 0 && eDisp a ≤ 4 && eBits a 63 60 ≤ 2
/-- The frame with the trail's status, decided or handed to the saplings. -/
def State.trailPost (s : State) (t g : Nat) (hit : Option (Nat × BitVec 512)) : State :=
  s.trailDecide t fun s =>
    match hit with
    | none => s.modFrame t fun f => { f with md := setBits f.md 159 152 1, stage := .window }
    | some (tbl, e) =>
      let ok := s.trailEligible g tbl e
      let s := s.modFrame t fun f => { f with md := setBits (setBits f.md 159 152 (if ok then 3 else 2)) 223 192 (eBits e 31 0)
                                              stage := if ok then f.stage else .window }
      if ok then s.decideAction t (xAction e) true else s
/-- The destination lookups of a frame without STOP (R272). -/
def State.trailLookups (s : State) (t g : Nat) (f : FrameRec) (h : Hdrs) (tenant : Nat) : State :=
  let w := f.window
  let fk := beNat (flowKey w tenant h)
  let hk := 2 ^ 48 * tenant + nfld f.bytes 0 6
  let ip := bit h.bits 2 || bit h.bits 3
  let rf := s.replica 1 g
  let rh := s.replica 0 g
  match if ip then s.lookupBad 1 rf fk else none with
  | some p => s.poisonLookup 1 t rf p
  | none =>
    match s.lookupBad 0 rh hk with
    | some p => s.poisonLookup 0 t rh p
    | none =>
      let (fe, s) := if ip then s.lookup 1 rf fk true else (none, s)
      let (he, s) := s.lookup 0 rh hk false
      s.trailPost t g ((fe.map fun e => (1, e)).or (he.map fun e => (0, e)))
/-- The trail's result: the bytes up to now have gone where STEER pointed (10 R297). -/
def State.trailResult (s : State) (t : Nat) (f : FrameRec) : State :=
  let g := tagGrove t
  let s := s.cutTo t (s.arrivedBytes f) 0
  let h := parseHdrs f.window
  let md := s.trailMd f h
  let f := { ((s.frame t).getD f) with md := md, lossless := f.port.any fun n => s.losslessPair n (mdPrio md) }
  let s := s.setFrame t f
  match f.given with
  | some i => s.trailDecide t fun s => s.decideAction t i true
  | none =>
    let s := s.learnLookup t f (s.replica 0 g) (mdTenant md)
    if (s.frame t).any fun f => f.stage == .trail then
      if bit h.bits 7 then s.trailDecide t fun s => s.modFrame t fun f => { f with stage := .window }
      else s.trailLookups t g ((s.frame t).getD f) h (mdTenant md)
    else s
/-- TRAIL_RESULT (R277): at T_first + 6.4 ns. A frame already freed passes through the trail like any other (R282). -/
def execTrailResult (t : Nat) (s : State) : Res :=
  whenRunning s fun s =>
    match s.frame t with
    | some f => if f.stage = .trail then ((s.upTo (f.first + 26)).trailResult t f).reap t else s
    | none => s

/-! ## The last bit of an Ethernet frame (05 R147, R152; 10 R288; 07 R219; 08 R251) -/

/-- A MAC control frame is consumed at its port (05 R152 to R154). -/
def State.macControlIn (s : State) (n : Nat) (b : List Byte) : State :=
  let s := s.macRx n b.length
  match nfld b 14 2 with
  | 0x0101 => s.pfcReceived n (BitVec.ofNat 8 (nfld b 17 1)) ((List.range 8).map fun p => nfld b (18 + 2 * p) 2)
  | 0x0001 => s.pauseReceived n (nfld b 16 2)
  | _ => s.ethCtr n 7 1
/-- The check of a frame whose last bit has arrived: 1 passed, 2 failed, 3 runt, oversize or MAC control. -/
def State.lastCheck (s : State) (n : Nat) (b : List Byte) (bad : Bool) : Nat × State :=
  if b.length < 64 then (3, s.ethCtr n 5 1)
  else if (s.portCfg n).maxFrame < b.length then (3, s.ethCtr n 6 1)
  else if bad || !fcsOk b then (2, s.ethCtr n 4 1)
  else if nfld b 12 2 = 0x8808 then (3, s.macControlIn n b)
  else (1, (s.ethCtr n 0 1).ethCtr n 1 b.length)
/-- A frame still waiting for its check is known to be no frame: it is resolved, and a parse or walk of it abandoned
(R282, 10 R288). -/
def State.dismiss (s : State) (t : Nat) : State := (s.modFrame t fun f => { f with resolved := true }).abandon t
/-- What follows the FCS pass of a frame: the learn event, and the counters and meter of its action. -/
def State.fcsPass (s : State) (t : Nat) : State :=
  let s := match (s.frame t).bind (·.learn) with
    | some e => (s.modFrame t fun f => { f with learn := none }).learnEvent e
    | none => s
  s.onPass t
/-- ETH_FRAME_LAST_BIT (R279; 10 R288), with the errors of the codewords that carried the frame: one that cannot be
corrected fails its FCS (05 R137). A trail result that was due before it comes first. -/
def execEthFrameLastBit (t : Nat) (words : List Codeword) (s : State) : Res :=
  whenRunning s fun s =>
    match s.frame t with
    | some f =>
      match f.port, f.last with
      | some n, none =>
        if f.isCopy then s
        else
          let fin := f.first + s.wireTime n f.bytes.length
          let s := if f.stage = .trail ∧ f.first + 26 ≤ max s.now fin then (s.upTo (f.first + 26)).trailResult t f else s
          let s := s.upTo fin
          let (c, s) := s.lastCheck n f.bytes (words.any fun w => !corrected w ((s.group (n / 8)).mode == 0))
          let upto := if (s.portCfg n).maxFrame < f.bytes.length then (s.portCfg n).maxFrame else f.bytes.length
          let s := s.modFrame t fun f => { f with check := c }
          let s := (s.cutTo t upto c).modFrame t fun f => { f with last := some s.now }
          let s := if c = 3 then s.dismiss t else s
          (if c = 1 then s.fcsPass t else s).reap t
      | _, _ => s
    | none => s

/-! ## Release (R282, 10 R296, R300) -/

/-- Every earlier frame of the lane is resolved. -/
def State.laneClear (s : State) (f : FrameRec) : Bool :=
  s.cn.frames.all fun x =>
    let e := x.2
    e.isCopy || e.resolved || !(e.kind == f.kind && e.id == f.id && e.lane == f.lane && e.order < f.order)
/-- STEER follows a released decision that has an output grove, with the hit or miss counted (10 R296, R317). -/
def State.steerTo (s : State) (t : Nat) (f : FrameRec) : State :=
  match f.out t with
  | some o => ({ s with cn := { s.cn with steer := SMap.set s.cn.steer f.steerKey o } }).canopyCtr (tagGrove t) (if f.steer = o then 5 else 6) 1
  | none => s
/-- The function whose sleep stops a frame: it owns the host queue a frame is decided to, its port is in reset, and it
has PME_En (12 R377). -/
def State.sleeper (s : State) (f : FrameRec) : Option Nat :=
  match f.sink with
  | some (.hostQueue q) =>
    let o := s.owner 2 q
    if SMap.getD s.board.perstN (q / 4096) false = false ∧ (s.fn o).pmeEn = true ∧ fnPort o = q / 4096 then some o else none
  | _ => none
/-- A release that goes nowhere: a port that is down (05 R149), or a function that sleeps (12 R377). -/
def State.releaseDrop (s : State) (f : FrameRec) : Option State :=
  match f.outPort with
  | some n => if s.isUp n then none else some (s.ethCtr n 25 1)
  | none =>
    match s.sleeper f with
    | some o =>
      let p := fnPort o
      let s := (s.setFn o { s.fn o with pmeStatus := true }).hostCtr p 17
      some (if SMap.getD s.board.wake p false then s
        else ({ s with board := { s.board with wake := SMap.set s.board.wake p true } }.emit (.wake p true)).hostCtr p 16)
    | none => none
/-- DECISION_RELEASE (R282). -/
def execDecisionRelease (t : Nat) (s : State) : Res :=
  whenRunning s fun s =>
    match s.frame t with
    | some f =>
      if f.stage = .decided ∧ f.released = false ∧ f.gone = false ∧ s.laneClear f = true then
        let s := s.cutTo t (s.arrivedBytes f) 0
        let f := { ((s.frame t).getD f) with released := true, resolved := true, decidedAt := s.now }
        let s := (s.setFrame t f).steerTo t f
        match if f.refused then none else s.releaseDrop f with
        | some s => s.freeFrame t
        | none => s.postDecision t
      else s
    | none => s

end Sys2Proof.Machine
end

