-- ==== Sys2Proof/Machine/Delivery.lean ====
section
/-! DEFINITION. Frames from and to host rings (13 R403 to R406). -/
namespace Sys2Proof.Machine

/-! ## Transmit (R394, R403) -/

/-- Steering registers of the sources of a grove but its Ethernet ports (10 R296): 1 host port, 2 a clearing (number),
3 service cores, 4 remote-access engine, 5 cipher engines. -/
def steerOf (kind n : Nat) : Nat := 2 ^ 20 * kind + n
/-- A frame padded to 60 bytes, with its check sequence. -/
def wireFrame (b : List Byte) : List Byte := withFcs (pad60 b)
/-- TX (R403): once its segments are read and the home slice has room (11 R328), the frame enters the canopy. After a read
that failed, what was read before it enters with CHECK 3, and the job ends with the failure's status. -/
def execTx (q : Nat) (slot : W32) (s : State) : Res :=
  whenRunning s fun s =>
    let g := q / 4096
    let enter (s : State) := s.enterFrame g 1 q (steerOf 1 g) (s.qpOf q).set.tenant
    match s.readyJob q slot 0x10, s.cutJob q slot 0x10 with
    | _, some (j, st, detail) =>
      if s.maySource g then (enter s j.before false fun f => f).2.endJob q slot st detail 0 else s
    | some j, none =>
      if s.maySource g then
        let b := wireFrame j.data
        let ts := (j.descs.headD 0).getLsbD 64
        let s := s.markActed q j
        let s := ((s.qpCtr q 3 1).qpCtr q 4 (pad60 j.data).length)
        let r := enter s b true fun f => { f with tx := if ts then some (q, slot, true) else none }
        if ts then r.2 else r.2.endJob q slot St.ok 0 0
      else s
    | none, none => s

/-! ## Receive (R404 to R406) -/

/-- The buffers that hold `need` bytes, at most 64 of them. -/
def takeBuffers : Nat → Nat → List Desc → Option (List Desc)
  | _, 0, _ => some []
  | 0, _, _ => none
  | _, _, [] => none
  | k + 1, need, d :: ds => (takeBuffers k (need - dLen d) ds).map (d :: ·)
/-- Bytes laid out over buffers from offset 0 of each. -/
def fillBuffers : List Desc → List Byte → List (Nat × List Byte)
  | [], _ => []
  | d :: ds, b => (dAddr d, b.take (dLen d)) :: fillBuffers ds (b.drop (dLen d))
/-- Metadata bytes a META value delivers. -/
def metaBytes (m : Nat) : Nat := match m with | 1 => 64 | 2 => 128 | _ => 0
/-- ACTION_TAG of a frame: its action's, or its session's TAG for a mirror copy (07 R210, 11 R340). -/
def FrameRec.actionTag (f : FrameRec) : Nat :=
  match f.dec with
  | some (.act _ e) => eBits e 255 224
  | some (.copy _ _ _ _ t) => t.toNat
  | _ => 0
/-- DATA of an RX_POST record (R397). -/
def rxData (f : FrameRec) (len buffers m : Nat) : W64 :=
  BitVec.ofNat 64 (2 ^ 32 * f.actionTag + 2 ^ 18 * len + 2 ^ 12 * (buffers - 1) + 2 ^ 11 * b2n f.isCopy + 2 ^ 9 * m)
/-- Whether relaxed ordering is asked for a job's payload writes (12 R364). -/
def Qp.relaxed (x : Qp) (d : Desc) : Bool := if dRoSet d then dRo d else x.set.flags.getLsbD 0
/-- The frame leaves its sink queue and the slice. -/
def State.takeSink (s : State) (g t : Nat) : State := (s.dropTag g t).reap t
/-- A frame is delivered as one job over its buffers. -/
def State.deliver_ (s : State) (q g t : Nat) (f : FrameRec) (bufs : List Desc) (payload frame : List Byte) : State :=
  let x := s.qpOf q
  match s.dmaWrites (s.qpOwner q) x.pasidOpt (x.relaxed (bufs.headD 0)) (fillBuffers bufs payload) with
  | (s, .waits) => s
  | (s, r) =>
    let x := s.qpOf q
    let j : Job := { slot := x.cplReserved, first := x.workCi, descs := bufs, start := s.clk, acted := true }
    let s := s.setQp q { x with cplReserved := x.cplReserved + 1, workCi := x.workCi + BitVec.ofNat 32 bufs.length,
                                buffers := x.buffers.drop bufs.length, jobs := x.jobs ++ [j] }
    let s := ((s.endStall q).qpCtr q 0 1).takeSink g t
    match r with
    | .denied => s.endJob q j.slot St.aborted 0 0
    | .refused => s.endJob q j.slot St.denied 0 0
    | _ =>
      let s := ((s.qpCtr q 5 1).qpCtr q 6 frame.length).qpCtr q 7 (b2n f.isCopy)
      s.endJob q j.slot St.ok 0 (rxData f frame.length bufs.length x.set.meta_)
/-- The head frame of a NET_RX queue pair's sink queue is delivered when the queue pair can take it (R405). -/
def State.rxTake (s : State) (q : Nat) : State :=
  let g := q / 4096
  let x := s.qpOf q
  match s.sinkQueue g (.hostQueue q) with
  | t :: _ =>
    match s.frame t with
    | some f =>
      let b := f.edited.getD f.bytes
      let frame := b.take (b.length - 4)
      let payload := (mdBytes f.md).take (metaBytes x.set.meta_) ++ frame
      if x.set.kind = 1 ∧ s.mayStart q (dFence (x.buffers.headD 0)) = true then
        match takeBuffers 64 payload.length x.buffers with
        | some bufs =>
          if x.hasSlot then s.deliver_ q g t f bufs payload frame else s.beginStall q
        | none => s
      else s
    | none => s
  | [] => s
/-- RX_DELIVERY (R405, R406). -/
def execRxDelivery (q : Nat) (s : State) : Res := whenRunning s fun s => s.rxTake q

end Sys2Proof.Machine
end

