-- ==== Sys2Proof/Machine/HostPort.lean ====
section
/-! DEFINITION. Host ports (12): links, configuration space, resets and power states of functions, interrupts, tags and
completions, address translation, and the host-port commands. -/
namespace Sys2Proof.Machine

/-! ## What abandons a function's requests (R370) -/

/-- The queue pairs of an owner that are set up. -/
def State.qpsOf (s : State) (f : Nat) : List Nat :=
  (s.qp.qps.filter fun x => s.owner 2 x.1 == f && x.2.state != 0).map (·.1)
/-- No completion of a request already issued is used any more, and none of its requests waits. -/
def State.abandonFn (s : State) (f : Nat) : State :=
  { s with hp := { s.hp with
      tags := s.hp.tags.map fun t => if t.fn = f then { t with purpose := .discard } else t
      waiting := s.hp.waiting.filter (·.fn != f)
      refused := s.hp.refused.filter (·.1 != f) } }
/-- What a clearing holds of the jobs of a queue pair is dropped. -/
def Cl.dropJobs (c : Cl) (q : Nat) : Cl :=
  let mine (h : Nat) : Bool := SMap.get c.chans h == some q
  { c with ready := c.ready.filter (!mine ·.1), credits := c.credits.filter (!mine ·.1) }
/-- The connections of a queue pair whose jobs are aborted enter ERROR, and what they were receiving ends (16 R468). -/
def State.abortConns (s : State) (q : Nat) : State :=
  (s.ra.conns.filter fun c => c.2.state == 1 && c.2.set.qp == q).foldl (fun s c =>
    if c.2.tx.isEmpty && c.2.ctxs.isEmpty && c.2.records.isEmpty then s
    else
      let s := s.connFail c.1 11
      { s with ra := { s.ra with
          conns := SMap.set s.ra.conns c.1 { SMap.getD s.ra.conns c.1 {} with ctxs := [], records := [] } } }) s
/-- Every job in progress of a queue pair ends ABORTED, a waiting COUNTER_WAIT among them (R370; 13 R402, R407). -/
def State.abortJobs (s : State) (q : Nat) : State :=
  let s := s.cutWait q
  let s := ((s.qpOf q).jobs.filter (·.st == .running)).foldl (fun s j => s.endJob q j.slot St.aborted 0 0) s
  { s.abortConns q with
    ci := { s.ci with engines := s.ci.engines.map fun e => (e.1, e.2.without q) }
    clr := s.clr.map fun c => (c.1, c.2.dropJobs q) }
/-- Ended jobs go to their records, which are written or held. -/
def State.settleRecords (s : State) (q : Nat) : State :=
  ((s.qpOf q).jobs.filter fun j => match j.st with | .done _ => true | _ => false).foldl
    (fun s j => s.writeRecord q j.slot false) s
/-- Bus Master Enable is cleared: a queue pair's jobs end, and it stops with STOP_CAUSE 2 unless it is in ERROR or is
being reset (13 R407). -/
def State.busMasterStop (s : State) (q : Nat) : State :=
  let s := ((s.abortJobs q).settleRecords q).endStall q
  let s := s.setQp q { (s.qpOf q).refetch with fetching := false }
  let x := s.qpOf q
  if (x.state = 2 ∨ x.state = 3) ∧ x.resetting = false then
    (s.setQp q { s.qpOf q with stopCause := 2 }).qpStopped q
  else s
/-- Bus Master Enable of a function goes from 1 to 0 (R370). -/
def State.clearBusMaster (s : State) (f : Nat) : State :=
  if (s.fn f).busMaster then
    let s := (s.eqsOf f).foldl State.sendOverdue s
    let s := (s.setFn f { s.fn f with busMaster := false }).abandonFn f
    (s.qpsOf f).foldl State.busMasterStop s
  else s

/-- Pending interrupts whose vectors are not masked are sent as MSI-X messages (R362). -/
def State.flushPba (s : State) (f : Nat) : State :=
  let st := s.fn f
  if st.msixEnable && s.canDma f then
    let vs := (st.pba.filter fun x => x.2 && !st.masked x.1).map (·.1)
    vs.foldl (fun s v => s.hostSend f (.msix f v))
      (s.setFn f { st with pba := st.pba.filter fun x => !vs.contains x.1 })
  else s
/-- The sources that hold records for an event queue of a function. -/
def State.heldSources (s : State) (f : Nat) : List Nat :=
  (s.ev.srcs.filter fun x => !x.2.held.isEmpty && s.srcOwner x.1 == f).map (·.1)
/-- What a function held is written in order: completion records, event records, interrupts; then fetching resumes
(R371, R375). -/
def State.releaseHeld (s : State) (f : Nat) : State :=
  let qs := s.qpsOf f
  let s := qs.foldl (fun s q => s.writeHeld q false) s
  let s := (s.heldSources f).foldl State.deliverEvent s
  let s := (s.eqsOf f).foldl State.sendOverdue s
  qs.foldl State.qpFetch (s.flushPba f)
/-- Bus Master Enable of a function goes from 0 to 1 (R371); in recovery mode that of PF0 and PF1 stays 0 (03 R75). -/
def State.setBusMaster (s : State) (f : Nat) : State :=
  if (s.fn f).busMaster ∨ (s.boot.phase = .recovery ∧ fnLocal f ≠ 2) then s
  else (s.setFn f { s.fn f with busMaster := true }).releaseHeld f

/-! ## Function-level reset, cessation and port reset (R355, R370 to R373; 03 R78) -/

/-- Configuration space at its reset values, sticky fields kept: PME_En, PME_Status and the AER status. -/
def FnSt.cfgReset (f : FnSt) : FnSt := { pmeEn := f.pmeEn, pmeStatus := f.pmeStatus, pmeLast := f.pmeLast, aer := f.aer }
/-- What a start leaves of the host ports: the sticky fields of the PFs, which VAUX holds (R374). -/
def HostSt.sticky (h : HostSt) : HostSt :=
  { fns := (h.fns.filter fun x => (vfOf x.1).isNone).map fun (x : Nat × FnSt) => (x.1, x.2.cfgReset) }
/-- Remote keys of a function are revoked, with no event (16 R475). -/
def State.revokeKeysOf (s : State) (f : Nat) : State :=
  { s with ra := { s.ra with keys := s.ra.keys.map fun k =>
      if k.2.valid && k.2.target == 0 && k.2.fn == f then
        (k.1, { k.2 with valid := false, gen := k.2.gen.map fun g => (g + 1) % 4096 })
      else k } }
/-- Mailbox and table registers of a PF2 at their reset values; what was in progress ends without a response (R373). -/
def State.resetPf2 (s : State) (p : Nat) : State :=
  let away (r : Request) : Request := if r.via = .mailbox p then { r with via := .nowhere } else r
  { s with
    sl := { s.sl with mbx := SMap.del s.sl.mbx p, arb := s.sl.arb.map away, accepted := s.sl.accepted.map away }
    tm := { s.tm with pendingSet := s.tm.pendingSet.map fun x => (x.1, x.2.1, away x.2.2) }
    clr := s.clr.map fun c => (c.1, c.2.mapAsking fun r => some (away r))
    tb := { s.tb with sets := s.tb.sets.filter fun x => !(8 * p ≤ x.1 && x.1 < 8 * p + 8) } }
/-- What a reset does to one function (R370, R373). -/
def State.resetFn (s : State) (f : Nat) : State :=
  let s := (s.qpsOf f).foldl State.qpToReset (s.abandonFn f)
  let s := ((s.eqsOf f).filter fun e => (s.eq e).state == 2).foldl State.eqLeave s
  let s := (s.revokeKeysOf f).setFn f (s.fn f).cfgReset
  let s := { s with hp := { s.hp with cache := s.hp.cache.filter (·.fn != f) }, nvc := SMap.del s.nvc f }
  let s := if fnLocal f = 2 then s.resetPf2 (fnPort f) else s
  s.intxUpdate (fnPort f)
/-- A VF ceases to exist: the effects of FLR, then its objects pass to PF2 of its port (04 R118). -/
def State.ceaseVf (s : State) (f : Nat) : State :=
  let s := s.resetFn f
  { s with
    hp := { s.hp with fns := SMap.del s.hp.fns f }
    cfg := { s.cfg with
      owners := s.cfg.owners.map fun o => if o.2 = f then (o.1, pf2 (fnPort f)) else o }
    ci := { s.ci with
      keys := s.ci.keys.map fun (k : Nat × CKey) => (k.1, if k.2.owner = f then { k.2 with owner := pf2 (fnPort f) } else k.2) } }
/-- The VFs of a PF above a count cease (R355). -/
def State.ceaseAbove (s : State) (pf n : Nat) : State :=
  let st := s.fn pf
  if st.vfEnable then
    ((List.range st.numVFs).filter (n ≤ ·)).foldl
      (fun s i => s.ceaseVf (vf (fnPort pf) (i + if fnLocal pf = 1 then 512 else 0))) s
  else s
/-- VF Enable of a PF is cleared. -/
def State.clearVfEnable (s : State) (pf : Nat) : State :=
  let s := s.ceaseAbove pf 0
  s.setFn pf { s.fn pf with vfEnable := false }
/-- NumVFs of a PF is written. -/
def State.writeNumVFs (s : State) (pf n : Nat) : State :=
  let s := s.ceaseAbove pf n
  s.setFn pf { s.fn pf with numVFs := min n 512 }
/-- A host-port reset: the effects of FLR on every function, with configuration space at its reset values (03 R78). The
management marking takes effect (R380). -/
def State.resetPort (s : State) (p : Nat) : State :=
  let s := (s.clearVfEnable (pf0 p)).clearVfEnable (pf1 p)
  let s := [pf0 p, pf1 p, pf2 p].foldl State.resetFn s
  let x := s.port p
  s.setPort p { x with l1 := false, l23 := false, aspmEnable := false, l1ss := 0, ltr := 0, busB := 0
                       mgmtActive := (SMap.getD s.cfg.hosts p {}).mgmt }
/-- An FLR starts (R370, R373). -/
def State.startFlr (s : State) (f : Nat) : State :=
  let s := if fnLocal f ≤ 1 then s.clearVfEnable f else s
  let s := s.resetFn f
  (s.setFn f { s.fn f with flrActive := true }).hostCtr (fnPort f) 2

/-! ## Links (R350 to R352) -/

/-- A host link goes down with a REASON (R351, R352). -/
def State.linkLost (s : State) (p reason : Nat) : State :=
  let s := s.resetPort p
  let s := s.setPort p { s.port p with up := false, rate := 0, width := 0, full := false }
  let s := s.hostCtr p 0
  let s := if reason = 2 then s.hostCtr p 1 else s
  if s.serving then s.fireDev p 1 Ev.hostLinkDown (BitVec.ofNat 32 (2 ^ 24 * reason + p)) else s
/-- HOST_LINK_DOWN: hot reset, Link Disable, link failure or loss of HSTREF; PERST_N has a row of its own. -/
def execHostLinkDown (p reason : Nat) (s : State) : Res :=
  .next (if p < s.groves ∧ (s.port p).up = true ∧ 2 ≤ reason ∧ reason ≤ 5 then s.linkLost p reason else s)
/-- A host link reaches L0: to the full endpoint after boot step 7, else to the boot ROM's (03 R71, R73). -/
def State.linkRaise (s : State) (p : Nat) (l : HostLink) : State :=
  if s.isFenced 0x0A p 0 || SMap.getD s.board.standHeld (p / 4) false then s
  else
    let s := s.setPort p { s.port p with
      up := true, rate := l.rate, width := l.width, trained := l.width, flit := l.flit, sris := l.sris, full := s.serving
      lastTraffic := s.clk, l23 := false }
    if s.serving then s.fireDev p 1 Ev.hostLinkUp (BitVec.ofNat 32 (2 ^ 20 * l.rate + 2 ^ 15 * l.width + p)) else s
/-- A rate code of R352 and a width of R350; flit mode always at 64 and 128 GT/s. -/
def linkForm (l : HostLink) : Bool :=
  1 ≤ l.rate && l.rate ≤ 7 && [1, 2, 4, 8, 16].contains l.width && (l.rate ≤ 5 || l.flit)
/-- A width change that the partner requests on an up link, which L0p makes in flit mode, within the trained width (R350). -/
def HostPort.l0p (x : HostPort) (l : HostLink) : HostPort :=
  if x.up ∧ x.flit ∧ l.rate = x.rate ∧ l.width ≤ x.trained then { x with width := l.width } else x
/-- HOST_LINK_UP (R351); on a link that is up, the partner's L0p request (assumption log 43). -/
def execHostLinkUp (p rate : Nat) (form : LinkForm) (s : State) : Res :=
  let l : HostLink := ⟨form, rate⟩
  .next (if p < s.groves ∧ SMap.getD s.board.perstN p false = true ∧ linkForm l = true ∧
      (s.serving = true ∨ s.boot.phase = .booting) then
      if (s.port p).up then s.setPort p ((s.port p).l0p l) else s.linkRaise p l
    else s)

/-! ## Events of a function -/

/-- A configuration request or event of the host reaches an existing function of a trained full endpoint. -/
def whenFn (f : Nat) (s : State) (k : State → State) : Res :=
  whenServing s fun s => if s.fnPresent f ∧ (s.port (fnPort f)).full = true ∧ (s.fn f).flrActive = false then k s else s
/-- BUS_MASTER_DISABLE (R370). -/
def execBusMasterDisable (f : Nat) (s : State) : Res := whenFn f s fun s => s.clearBusMaster f
/-- BUS_MASTER_ENABLE (R371). -/
def execBusMasterEnable (f : Nat) (s : State) : Res := whenFn f s fun s => s.setBusMaster f
/-- FLR (R370, R373). -/
def execFlr (f : Nat) (s : State) : Res := whenFn f s fun s => s.startFlr f
/-- FLR_COMPLETE (R373): FLR_ACTIVE clears and EV_HOST_FLR is raised. -/
def execFlrComplete (f : Nat) (s : State) : Res :=
  whenServing s fun s =>
    if (s.fn f).flrActive then
      (s.setFn f { s.fn f with flrActive := false }).fireDev (fnPort f) 1 Ev.hostFlr (BitVec.ofNat 32 f)
    else s
/-- VF_CESSATION (R355): a lower NumVFs, or 0 for VF Enable cleared. -/
def execVfCessation (f n : Nat) (s : State) : Res :=
  whenFn f s fun s =>
    if fnLocal f ≤ 1 ∧ (s.fn f).vfEnable = true ∧ n < (s.fn f).numVFs then
      if n = 0 then s.clearVfEnable f else s.writeNumVFs f n
    else s

/-- Every function of a port is in D3hot: the link enters L1 under PCI-PM (R376). -/
def State.pmL1 (s : State) (p : Nat) : State :=
  let vfs (pf off : Nat) := if (s.fn pf).vfEnable then (List.range (s.fn pf).numVFs).map fun i => vf p (i + off) else []
  if ([pf0 p, pf1 p, pf2 p] ++ vfs (pf0 p) 0 ++ vfs (pf1 p) 512).all (fun f => (s.fn f).d3hot) ∧ (s.port p).l1 = false then
    (s.setPort p { s.port p with l1 := true }).hostCtr p 18
  else s
/-- A function enters D3hot (R374): fetching stops, and a moderated interrupt that is pending becomes a PME. -/
def State.enterD3 (s : State) (f : Nat) : State :=
  if (s.fn f).d3hot then s
  else
    let s := (s.eqsOf f).foldl State.sendOverdue s
    let s := s.setFn f { s.fn f with d3hot := true }
    let s := if (s.eqsOf f).any fun e => (s.eq e).due.isSome then s.pmeCause f else s
    s.pmL1 (fnPort f)
/-- A function returns to D0 (R375). -/
def State.leaveD3 (s : State) (f : Nat) : State :=
  if (s.fn f).d3hot then
    let s := s.setPort (fnPort f) { s.port (fnPort f) with l1 := false }
    (s.setFn f { s.fn f with d3hot := false }).releaseHeld f
  else s
/-- D3HOT_ENTRY (R374). -/
def execD3hotEntry (f : Nat) (s : State) : Res := whenFn f s fun s => s.enterD3 f
/-- D0_RETURN (R375). -/
def execD0Return (f : Nat) (s : State) : Res := whenFn f s fun s => s.leaveD3 f
/-- PME_RESEND (R374): 100 ms after the last PM_PME. -/
def execPmeResend (f : Nat) (s : State) : Res :=
  whenServing s fun s =>
    let st := s.fn f
    if s.fnPresent f ∧ st.d3hot = true ∧ st.pmeStatus = true then
      let s := s.upToClk (st.pmeLast + ms 100)
      ((s.setFn f { s.fn f with pmeLast := s.clk }).hostSend f (.pme f)).hostCtr (fnPort f) 15
    else s
/-- PME_TURN_OFF (R376): PME_TO_Ack, and the link goes to L2/L3 Ready. -/
def execPmeTurnOff (p : Nat) (s : State) : Res :=
  whenServing s fun s =>
    if p < s.groves ∧ (s.port p).full = true then
      (s.setPort p { s.port p with l23 := true, l1 := false }).emit (.pmeToAck p)
    else s

/-- Completion Timeout Value sets CPL_TIMEOUT of a PF (R367). -/
def State.writeTimeoutValue (s : State) (f : Nat) (v : BitVec 4) : State :=
  if fnLocal f ≤ 2 then s.setFn f { s.fn f with cplTimeoutValue := v, cplTimeout := if v = 1 then 10 else 1000 } else s
/-- CPL_TIMEOUT of a PF is written, or ignored out of range (R360). -/
def State.writeCplTimeout (s : State) (f v : Nat) : State :=
  if fnLocal f ≤ 2 ∧ 5 ≤ v ∧ v ≤ 6400 then s.setFn f { s.fn f with cplTimeout := v } else s
/-- CPL_TIMEOUT_VALUE_WRITE (R367). -/
def execCplTimeoutValueWrite (f : Nat) (v : BitVec 4) (s : State) : Res := whenFn f s fun s => s.writeTimeoutValue f v
/-- CPL_TIMEOUT_WRITE (R360). -/
def execCplTimeoutWrite (f : Nat) (v : BitVec 13) (s : State) : Res := whenFn f s fun s => s.writeCplTimeout f v.toNat

/-- PASID Enable of a function is cleared: its queue pairs with a PASID stop with STOP_CAUSE 4 and their jobs end
ABORTED (R365; 13 R407). -/
def State.clearPasid (s : State) (f : Nat) : State :=
  let s := s.setFn f { s.fn f with pasidEn := false }
  ((s.qpsOf f).filter fun q => (s.qpOf q).set.pasidEn).foldl (fun s q =>
    let s := (s.abortJobs q).settleRecords q
    if (s.qpOf q).state = 2 then s.qpStopping q 4 else s) s
/-- PASID_ENABLE_CLEAR (R365). -/
def execPasidEnableClear (f : Nat) (s : State) : Res :=
  whenFn f s fun s => if (s.fn f).pasidEn then s.clearPasid f else s

/-! ## Interrupts (R362) -/

/-- MSI-X Enable goes from 0 to 1. -/
def State.enableMsix (s : State) (f : Nat) : State :=
  ((s.setFn f { s.fn f with msixEnable := true }).flushPba f).intxUpdate (fnPort f)
/-- MSIX_ENABLE_SET. -/
def execMsixEnableSet (f : Nat) (s : State) : Res :=
  whenFn f s fun s => if (s.fn f).msixEnable then s else s.enableMsix f
/-- A host access to BAR2 reaches it, which no firebreak checks (19 R573); in recovery mode there is none (03 R75). -/
def bar2Request (s : State) (f : Nat) (k : State → State) : State :=
  if !(s.port (fnPort f)).full then s
  else if s.takesRequests f ∧ s.boot.phase ≠ .recovery then k (s.setPort (fnPort f) { s.port (fnPort f) with lastTraffic := s.clk })
  else s.emit (.completion f false [])
/-- PBA bit `v` clears, and INTA may be deasserted. -/
def State.ackIntx (s : State) (f v : Nat) : State :=
  (s.setFn f { s.fn f with pba := SMap.del (s.fn f).pba v }).intxUpdate (fnPort f)
/-- INTX_ACK_WRITE: a PF's bit `v`. -/
def execIntxAckWrite (f v : Nat) (s : State) : Res :=
  whenServing s fun s => bar2Request s f fun s => if fnLocal f ≤ 2 ∧ v < 2048 then s.ackIntx f v else s.hostCtr (fnPort f) 13
/-- An MSI-X table entry is unmasked. -/
def State.unmaskVector (s : State) (f v : Nat) : State :=
  let st := s.fn f
  let e := SMap.getD st.msix v (0, 0, true)
  (s.setFn f { st with msix := SMap.set st.msix v (e.1, e.2.1, false) }).flushPba f
/-- MSIX_TABLE_ENTRY_UNMASK. -/
def execMsixTableEntryUnmask (f v : Nat) (s : State) : Res :=
  whenServing s fun s => bar2Request s f fun s => if v < vectorsOf f then s.unmaskVector f v else s

/-! ## Tags and completions (R363, R367 to R369) -/

/-- A request that waited for a tag of a port is issued, when one is free. -/
def State.serveWaiting (s : State) (p : Nat) : State :=
  match s.hp.waiting.find? (·.port == p), s.freeTag p with
  | some w, some _ =>
    let s := { s with hp := { s.hp with waiting := s.hp.waiting.erase w } }
    match w.purpose with
    | .translate .. =>
      s.issueTag w.fn w.purpose w.addr w.len fun t => .translate p t w.fn (w.addr / 4096 * 4096) (s.pasidOf w.purpose)
    | _ =>
      match s.translate w.fn (s.pasidOf w.purpose) w.addr with
      | some a => s.issueTag w.fn w.purpose w.addr w.len fun t => .hostRead p t w.fn a (s.pasidOf w.purpose) w.len
      | none => s.askTranslation w.fn w.purpose w.addr w.len
  | _, _ => s
/-- An Invalidation Completion is sent once no covered read is outstanding (R365). -/
def State.flushInvals (s : State) : State :=
  let done := s.hp.invals.filter (·.tags.isEmpty)
  done.foldl (fun s i => (s.hostSend i.fn (.invalidated i.fn i.itag)).hostCtr (fnPort i.fn) 11)
    { s with hp := { s.hp with invals := s.hp.invals.filter (!·.tags.isEmpty) } }
/-- A tag is no longer in use: it may end a wait for a tag, and an invalidation. -/
def State.endTag (s : State) (t : TagUse) : State :=
  { s with hp := { s.hp with
      tags := s.hp.tags.filter fun x => !(x.port == t.port && x.tag == t.tag)
      invals := s.hp.invals.map fun (i : Inval) => ⟨i.fn, i.itag, i.tags.filter (· != (t.port, t.tag))⟩ } }.flushInvals

/-- A request that nothing answers any more fails (R368); `refused` when it is the translation that was refused. -/
def State.failPurpose (s : State) (f addr : Nat) (refused : Bool) : Purpose → State
  | .fetch q =>
    let s := if refused then s.hostCtr (fnPort f) 10 else s
    let s := s.setQp q { s.qpOf q with fetching := false }
    if (s.qpOf q).state = 2 then s.qpStopping q 3 else s
  | .payload q slot _ =>
    if refused then (s.hostCtr (fnPort f) 10).failJob q slot St.denied 0 else s.readFailed q slot
  | .write g pasid | .read g pasid =>
    let s := s.hostCtr (fnPort g) 10
    { s with hp := { s.hp with refused := s.hp.refused ++ [(g, pasid, addr / 4096)] } }
  | .translate p a _ => s.failPurpose f a true p
  | .direct | .discard => s
/-- A port's translation cache holds 16,384 entries: the oldest goes for a new one. -/
def cacheAdd (l : List Trans) (x : Trans) : List Trans :=
  let mine (y : Trans) : Bool := fnPort y.fn == fnPort x.fn
  (if (l.filter mine).length < 16384 then l
    else match l.find? mine with | some y => l.erase y | none => l) ++ [x]
/-- A translation has come: it joins the cache, and the read that waited for it is issued (R365). -/
def State.translated (s : State) (f : Nat) (p : Purpose) (addr len : Nat) (entry : Nat) : State :=
  let s := { s with hp := { s.hp with cache := cacheAdd s.hp.cache ⟨f, s.pasidOf p, addr / 4096, entry / 4096 * 4096⟩ } }
  match p with
  | .fetch _ | .payload .. =>
    match s.issueRead f p addr len with
    | (s, true) => s
    | (s, false) => s.failPurpose f addr false p
  | _ => s
/-- The data of a completion reach what asked for them. -/
def State.arriveData (s : State) (f : Nat) (bytes : List Byte) : Purpose → State
  | .fetch q =>
    let x := s.qpOf q
    if x.fetching then
      s.setQp q { x with fetching := false
                         arrived := if x.state = 2 then x.arrived ++ [BitVec.ofNat 256 (fld bytes 0 32)] else [] }
    else s
  | .payload q slot i =>
    let x := s.qpOf q
    match x.job slot with
    | some j =>
      if j.st = .running then
        s.setQp q (x.setJob { j with piecesLeft := j.piecesLeft - 1, pieces := SMap.set j.pieces i bytes })
      else s
    | none => s
  | .translate p addr len =>
    let w := match p with | .write .. => 1 | _ => 0
    if bit (fld bytes 0 8) w then s.translated f p addr len (fld bytes 0 8) else s.failPurpose f addr true p
  | .write .. | .read .. | .direct | .discard => s
/-- An error is logged in AER as Advisory Non-Fatal: 0 Completion Timeout, 1 Unexpected Completion; a VF's in its PF
(R359, R367, R369). -/
def State.advisory (s : State) (f : Nat) (i : Nat) : State :=
  let g := parentPf f
  s.setFn g { s.fn g with aer := (s.fn g).aer ||| 4#3 ||| BitVec.ofNat 3 (2 ^ i) }
/-- The timeout of a tag is reported at issue + T (R367 to R369). -/
def State.timeoutTag (s : State) (t : TagUse) : State :=
  let s := s.upToClk (t.issued + t.timeout)
  let s := ((s.endTag t).hostCtr t.port 3).advisory t.fn 0
  let q := s.hp.quarantine ++ [(t.port, t.tag, t.issued + 3 * t.timeout)]
  let s := { s with hp := { s.hp with quarantine := q } }
  let n := (q.filter (·.1 == t.port)).length
  let x := s.port t.port
  let s := if (SMap.getD x.ctrs 9 0).toNat < n then
      s.setPort t.port { x with ctrs := SMap.set x.ctrs 9 (BitVec.ofNat 64 n) } else s
  s.failPurpose t.fn t.addr false t.purpose
/-- An Unexpected Completion (R369). -/
def State.unexpected (s : State) (p tag : Nat) : State :=
  let s := (s.hostCtr p 4).advisory (pf0 p) 1
  { s with hp := { s.hp with
      quarantine := s.hp.quarantine.filter fun x => !(x.1 == p && x.2.1 == tag) } }.serveWaiting p
/-- A tag of a port in use. -/
def State.tagUse (s : State) (p tag : Nat) : Option TagUse := s.hp.tags.find? fun t => t.port == p && t.tag == tag
/-- A completion arrives (R367 to R369): one stamped after issue + T finds its tag in quarantine. -/
def State.complete (s : State) (p tag : Nat) (status : CplStatus) (bytes : List Byte) : State :=
  match s.tagUse p tag with
  | some t =>
    if t.issued + t.timeout < s.clk then (s.timeoutTag t).unexpected p tag
    else
      let s := s.endTag t
      let s := match status with
        | .sc => s.arriveData t.fn bytes t.purpose
        | .ur => (s.hostCtr p 5).failPurpose t.fn t.addr false t.purpose
        | .ca => (s.hostCtr p 6).failPurpose t.fn t.addr false t.purpose
        | .poisoned => (s.hostCtr p 7).failPurpose t.fn t.addr false t.purpose
      s.serveWaiting p
  | none => s.unexpected p tag
/-- A completion that no command brings: none comes within the timeout. -/
def noCpl : HostCpl := ⟨none, []⟩
/-- What a command's own read or AtomicOp is answered with: its completion, or none within its timeout. -/
def State.hostAnswered (s : State) (p tag : Nat) (c : HostCpl) : State :=
  match c.status with
  | some st => s.complete p tag st c.data
  | none => match s.tagUse p tag with | some t => s.timeoutTag t | none => s
/-- A read or AtomicOp of a function whose completion the command that makes it brings; none while every tag is in use
(R363). The flag says whether data has come. -/
def State.hostAsk (s : State) (f addr len : Nat) (o : Nat → Out) (c : HostCpl) : Option (State × Bool) :=
  (s.freeTag (fnPort f)).map fun t =>
    ((s.issueTag f .direct addr len o).hostAnswered (fnPort f) t c, c.status == some .sc && c.data.length == len)
/-- How the requests of a command that asks host memory ended. -/
inductive Asked where
  | ok
  /-- The firebreak of the port's host memory denied one (19 R578). -/
  | denied
  /-- A translation was refused (R365). -/
  | refused
  /-- One failed (R368). -/
  | failed
  /-- A translation or a tag is still to come. -/
  | waits
  deriving DecidableEq, Repr
/-- Reads or AtomicOps under a master ID in order, each with a tag of its own (R363), up to the first that is denied or
fails: `acc` holds their completions, and the data of those before is `got`. -/
def State.askAll (s : State) (f : Nat) (pasid : Option Nat) (master : BitVec 16) (right : Nat) (o : Nat → Nat → Nat → Out) :
    List (Nat × Nat) → List HostCpl → List Byte → (State × Asked) × List Byte
  | [], _, got => ((s, .ok), got)
  | x :: rest, acc, got =>
    let a := (s.translate f pasid x.1).getD x.1
    let (s, pass) := s.fbCheck (0x0600 + fnPort f) master right a x.2
    let c := acc.headD noCpl
    if !pass then ((s, .denied), [])
    else
      match s.hostAsk f x.1 x.2 (fun t => o t a x.2) c with
      | some (s, true) => s.askAll f pasid master right o rest (acc.drop 1) (got ++ c.data)
      | some (s, false) => ((s, .failed), [])
      | none => ((s, .waits), [])
/-- A read of host memory by a command, once every page is translated (R363, R365). -/
def State.askRead (s : State) (f : Nat) (pasid : Option Nat) (master : BitVec 16) (addr len : Nat) (acc : List HostCpl) :
    (State × Asked) × List Byte :=
  let ps := splitAccess addr len (s.fn f).mrrs
  match ps.find? fun x => (s.translate f pasid x.1).isNone with
  | some x =>
    match s.seeRefusal f pasid x.1 with
    | some s => ((s, .refused), [])
    | none => ((s.askTranslation f (.read f pasid) x.1 x.2, .waits), [])
  | none =>
    if (s.freeTag (fnPort f)).isNone then ((s, .waits), [])
    else s.askAll f pasid master 1 (fun t a n => .hostRead (fnPort f) t f a pasid n) ps acc []
/-- COMPLETION_RECEIVE. -/
def execCompletionReceive (p tag : Nat) (status : CplStatus) (bytes : List Byte) (s : State) : Res :=
  whenServing s fun s => if p < s.groves ∧ (s.port p).up = true then s.complete p tag status bytes else s
/-- COMPLETION_TIMEOUT (R367). -/
def execCompletionTimeout (p tag : Nat) (s : State) : Res :=
  whenServing s fun s => match s.tagUse p tag with | some t => s.timeoutTag t | none => s
/-- TAG_QUARANTINE_END (R369). -/
def execTagQuarantineEnd (p tag : Nat) (s : State) : Res :=
  whenServing s fun s =>
    match s.hp.quarantine.find? fun x => x.1 == p && x.2.1 == tag with
    | some x =>
      let s := s.upToClk x.2.2
      { s with hp := { s.hp with quarantine := s.hp.quarantine.erase x } }.serveWaiting p
    | none => s

/-- ATS_INVALIDATE (R365): the covered translations go, and the answer waits for covered reads. -/
def execAtsInvalidate (f lo hi itag : Nat) (s : State) : Res :=
  whenFn f s fun s =>
    let covered := s.hp.tags.filter fun t => t.fn == f && t.addr ≤ hi && lo < t.addr + t.len
    { s with hp := { s.hp with
        cache := s.hp.cache.filter fun c => !(c.fn == f && 4096 * c.page ≤ hi && lo < 4096 * c.page + 4096)
        invals := s.hp.invals ++ [Inval.mk f itag (covered.map fun (t : TagUse) => (t.port, t.tag))] } }.flushInvals

/-! ## Link power of management ports (R378, R379) -/

/-- A queue pair of PF0, PF1 or a VF of a port is set up. -/
def State.portQueues (s : State) (p : Nat) : Bool :=
  s.qp.qps.any fun x => x.1 / 4096 == p && x.2.state != 0 && fnLocal (s.owner 2 x.1) != 2
/-- ASPM_L1_ENTRY (R378). -/
def execAspmL1Entry (p : Nat) (s : State) : Res :=
  whenServing s fun s =>
    let x := s.port p
    if p < s.groves ∧ x.up = true ∧ x.mgmtActive = true ∧ x.aspmEnable = true ∧ x.l1 = false ∧ s.portQueues p = false then
      let s := s.upToClk (x.lastTraffic + us (SMap.getD s.cfg.hosts p {}).l1IdleUs)
      (s.setPort p { s.port p with l1 := true }).hostCtr p 18
    else s
/-- L1_EXIT (R379). -/
def execL1Exit (p : Nat) (s : State) : Res :=
  whenServing s fun s =>
    let x := s.port p
    if p < s.groves ∧ x.up = true ∧ x.l1 = true then s.setPort p { x with l1 := false, lastTraffic := s.clk } else s

/-! ## Configuration space (R353 to R361) -/

/-- The least encoding of a time in ns in the 12 bits of Readiness Time Reporting that is not below it. -/
def rtrEncode (ns : Nat) : Nat :=
  match (List.range 8).find? fun k => (ns + 32 ^ k - 1) / 32 ^ k ≤ 511 with
  | some k => 512 * k + (ns + 32 ^ k - 1) / 32 ^ k
  | none => 4095
/-- The Routing ID of a function (R353, R354): B of its port, then PF0 + 256 + v or PF1 + 767 + (v − 512). -/
def State.routingId (s : State) (f : Nat) : Nat :=
  256 * (s.port (fnPort f)).busB +
    match vfOf f with
    | some v => if v < 512 then 256 + v else 1 + 767 + (v - 512)
    | none => fnLocal f
/-- A function has a capability (R359). -/
def hasCapability (f : Nat) : Capability → Bool
  | .pm | .msix | .express | .ari | .vendor => true
  | .aer | .serial | .rtr => (vfOf f).isNone
  | .sriov => fnLocal f ≤ 1
  | .ats | .pasid => fnLocal f != 2
  | .secondary | .dataLink | .phys16 | .phys32 | .phys64 | .phys128 | .margining | .flitLogging | .l1pm | .ltr => fnLocal f == 0
/-- The number of a capability in the list of R359. -/
def capIndex : Capability → Nat
  | .pm => 0 | .msix => 1 | .express => 2 | .aer => 3 | .serial => 4 | .ari => 5 | .sriov => 6 | .ats => 7 | .pasid => 8
  | .rtr => 9 | .secondary => 10 | .dataLink => 11 | .phys16 => 12 | .phys32 => 13 | .phys64 => 14 | .phys128 => 15
  | .margining => 16 | .flitLogging => 17 | .l1pm => 18 | .ltr => 19 | .vendor => 20
/-- Size of BAR 0 and BAR 2 of a function (R356), a VF's BAR below 64 KiB enlarged to it with System Page Size 64 KiB; none
in recovery mode but BAR0 of PF2 (03 R75). -/
def State.barSize (s : State) (f i : Nat) : Nat :=
  if s.boot.phase = .recovery then (if fnLocal f = 2 ∧ i = 0 then 2 ^ 26 else 0)
  else match i, (vfOf f).isSome with
    | 0, true => 2 ^ 19
    | 2, true => if (s.fn (parentPf f)).bigPages then 2 ^ 16 else 2 ^ 12
    | 0, false => if fnLocal f = 2 then 2 ^ 26 else 2 ^ 25
    | 2, false => 2 ^ 16
    | _, _ => 0
/-- The RATE and WIDTH independent fields of the vendor capability (R360). -/
def State.vsec (s : State) (f : Nat) : Nat :=
  let p := fnPort f
  0x000B + 2 ^ 16 * 0x1 + 2 ^ 20 * (Config.vsecNext (fnLocal f)).toNat + 2 ^ 32 * 0x7A71 + 2 ^ 48 * 0x1 + 2 ^ 52 * 0x020 + 2 ^ 64 * p + 2 ^ 72 * s.variantCode +
    2 ^ 80 * (16 * (s.stepping.1 - 0x41) + s.stepping.2) + 2 ^ 88 * s.fnIndex f + 2 ^ 96 * b2n (s.fn f).flrActive +
    2 ^ 97 * b2n (s.boot.phase == .recovery) + 2 ^ 98 * b2n (s.port p).mgmtActive +
    2 ^ 128 * (s.fn (parentPf f)).cplTimeout + 2 ^ 160 * (s.hp.tags.filter (·.port == p)).length +
    2 ^ 176 * (s.hp.quarantine.filter (·.1 == p)).length + 2 ^ 192 * s.heldCount f
/-- Log2 of a size coded in Device Control: 128 bytes is 0. -/
def sizeCode (n : Nat) : Nat := (List.range 6).foldl (fun a i => if 128 * 2 ^ i = n then i else a) 0
/-- What a 64-bit, non-prefetchable BAR of a size reads: its address bits, its type in the low four. -/
def barRead (m : SMap W32) (n i : Nat) : Nat :=
  if n = 0 then 0
  else
    let v := (SMap.getD m (i / 2 * 2) 0).toNat + 2 ^ 32 * (SMap.getD m (i / 2 * 2 + 1) 0).toNat
    let v := v / n * n + 4
    if i % 2 = 0 then v % 2 ^ 32 else v / 2 ^ 32
/-- What a configuration read of a register returns, from its bit 0. The places of the fields of registers that the PCI
Express Base Specification lays out are taken from it (assumption log 43). -/
def State.cfgRead (s : State) (f : Nat) : CfgReg → Nat
  | .vendorId => 0x1F3B
  | .deviceId => match vfOf f with
    | some v => if v < 512 then 0x9110 else 0x9111
    | none => 0x9100 + fnLocal f
  | .revisionId => 16 * (s.stepping.1 - 0x41) + s.stepping.2
  | .classCode => match vfOf f with
    | some v => if v < 512 then 0x020000 else 0x010802
    | none => match fnLocal f with | 0 => 0x020000 | 1 => 0x010802 | _ => 0x088000
  | .subsystem => 0x1F3B + 65536 * s.variantCode
  | .command => 2 * b2n (s.fn f).memSpace + 4 * b2n (s.fn f).busMaster + 1024 * b2n (s.fn f).intDisable
  | .status => 8 * b2n ((vfOf f).isNone && !(s.fn f).msixEnable && (s.fn f).pba.any (·.2)) + 16
  | .interruptPin => b2n (vfOf f).isNone
  | .serialNumber => if (vfOf f).isNone then Config.deviceId.toNat else 0
  | .expressCaps => 2 + 2 ^ 15
  | .deviceCaps => 3 + 2 ^ 5 + 2 ^ 15 + 2 ^ 28
  | .deviceCaps2 => 1 + 2 ^ 16 + 2 ^ 17
  | .deviceCaps3 => 2 + 4 + 8 * b2n (fnLocal f == 0)
  | .pmCaps => 3 + 2 ^ 14 + 2 ^ 15
  | .msixTable => 2
  | .msixPba => (if (vfOf f).isSome then 0x800 else 0x8000) + 2
  | .initialVFs => if fnLocal f ≤ 1 then 512 else 0
  | .pageSizes => if fnLocal f ≤ 1 then 0x11 else 0
  | .pageSize => if fnLocal f ≤ 1 then if (s.fn f).bigPages then 0x10 else 1 else 0
  | .vfBar i =>
    if fnLocal f ≤ 1 then barRead (s.fn f).vfBars (s.barSize (vf (fnPort f) (512 * fnLocal f)) (i / 2 * 2)) i else 0
  | .ari => 256 * match fnLocal f with | 0 => 1 | 1 => 2 | _ => 0
  | .ltr => if fnLocal f = 0 then (s.port (fnPort f)).ltr.toNat else 0
  | .aerCorrectable => if (vfOf f).isSome then 0 else 2 ^ 13 * b2n ((s.fn f).aer.getLsbD 2)
  | .has c => b2n (hasCapability f c)
  | .body c w => if hasCapability f c then (Config.capabilityWord (fnLocal f) (capIndex c) w).toNat else 0
  | .deviceControl => 16 * b2n (s.fn f).relaxedEn + 32 * sizeCode (s.fn f).mps + 4096 * sizeCode (s.fn f).mrrs
  | .deviceControl2 => (s.fn f).cplTimeoutValue.toNat + 64 * b2n (s.fn f).atomicEn
  | .pmControl => 3 * b2n (s.fn f).d3hot + 8 + 256 * b2n (s.fn f).pmeEn + 32768 * b2n (s.fn f).pmeStatus
  | .msixControl => (vectorsOf f - 1) + 16384 * b2n (s.fn f).fnMask + 32768 * b2n (s.fn f).msixEnable
  | .sriovControl => b2n (s.fn f).vfEnable + 8 * b2n (s.fn f).vfMse
  | .numVFs => (s.fn f).numVFs
  | .sriovOffset => match fnLocal f with | 0 => 256 | 1 => 767 | _ => 0
  | .sriovStride => b2n (fnLocal f ≤ 1)
  | .totalVFs => if fnLocal f ≤ 1 then 512 else 0
  | .atsControl => if fnLocal f = 2 then 0 else 0x60 + 2 ^ 31 * b2n (s.fn f).atsEn
  | .pasidControl => if fnLocal f = 2 then 0 else 0x1400 + 65536 * b2n (s.fn f).pasidEn
  | .readinessTime => if (vfOf f).isSome then 0 else
      rtrEncode 4000000000 + 4096 * rtrEncode 100000000 + 2 ^ 31 + 2 ^ 32 * (rtrEncode 1000000 + 4096 * rtrEncode 1000000)
  | .linkCapabilities => if fnLocal f = 0 then 2048 * b2n (s.port (fnPort f)).mgmtActive else 0
  | .linkControl => if fnLocal f = 0 then 2 * b2n (s.port (fnPort f)).aspmEnable else 0
  | .l1Substates => if fnLocal f = 0 then 12 * b2n (s.port (fnPort f)).mgmtActive + 2 ^ 32 * (s.port (fnPort f)).l1ss.toNat else 0
  | .aerStatus => if (vfOf f).isSome then 0 else 2 ^ 14 * b2n ((s.fn f).aer.getLsbD 0) + 2 ^ 16 * b2n ((s.fn f).aer.getLsbD 1)
  | .vsec i => if i < 8 then bits (s.vsec f) (32 * i + 31) (32 * i) else 0
  | .bar i => if (vfOf f).isSome then 0 else barRead (s.fn f).bars (s.barSize f (i / 2 * 2)) i
/-- What a configuration write does. -/
def State.cfgWrite (s : State) (f : Nat) (v : W32) : CfgReg → State
  | .command =>
    let s := s.setFn f { s.fn f with memSpace := (vfOf f).isNone && v.getLsbD 1
                                     intDisable := (vfOf f).isNone && v.getLsbD 10 }
    let s := if v.getLsbD 2 then s.setBusMaster f else s.clearBusMaster f
    s.intxUpdate (fnPort f)
  | .deviceControl =>
    if v.getLsbD 15 then s.startFlr f
    else s.setFn f { s.fn f with relaxedEn := v.getLsbD 4, mps := min (128 * 2 ^ bits v.toNat 7 5) 1024
                                 mrrs := min (128 * 2 ^ bits v.toNat 14 12) 4096 }
  | .deviceControl2 => (s.setFn f { s.fn f with atomicEn := v.getLsbD 6 }).writeTimeoutValue f (v.setWidth 4)
  | .pmControl =>
    let st := s.fn f
    let s := s.setFn f { st with pmeEn := v.getLsbD 8, pmeStatus := st.pmeStatus && !v.getLsbD 15 }
    match bits v.toNat 1 0 with | 0 => s.leaveD3 f | 3 => s.enterD3 f | _ => s
  | .msixControl =>
    let on := (s.fn f).msixEnable
    let s := s.setFn f { s.fn f with fnMask := v.getLsbD 14, msixEnable := v.getLsbD 15 }
    if v.getLsbD 15 && !on then s.enableMsix f else (s.flushPba f).intxUpdate (fnPort f)
  | .sriovControl =>
    if fnLocal f ≤ 1 then
      let s := s.setFn f { s.fn f with vfMse := v.getLsbD 3 }
      if v.getLsbD 0 then s.setFn f { s.fn f with vfEnable := true } else s.clearVfEnable f
    else s
  | .numVFs => if fnLocal f ≤ 1 then s.writeNumVFs f (v.toNat % 65536) else s
  | .atsControl =>
    if fnLocal f = 2 then s
    else
      let s := s.setFn f { s.fn f with atsEn := v.getLsbD 31 }
      if v.getLsbD 31 then s else { s with hp := { s.hp with cache := s.hp.cache.filter (·.fn != f) } }
  | .pasidControl =>
    if fnLocal f = 2 then s
    else if v.getLsbD 16 then s.setFn f { s.fn f with pasidEn := true }
    else if (s.fn f).pasidEn then s.clearPasid f else s
  | .aerStatus =>
    let a := (s.fn f).aer
    s.setFn f { s.fn f with aer := a &&& ~~~ BitVec.ofNat 3 (b2n (v.getLsbD 14) + 2 * b2n (v.getLsbD 16)) }
  | .aerCorrectable => s.setFn f { s.fn f with aer := (s.fn f).aer &&& ~~~ BitVec.ofNat 3 (4 * b2n (v.getLsbD 13)) }
  | .pageSize =>
    if fnLocal f ≤ 1 ∧ (v = 1 ∨ v = 0x10) then s.setFn f { s.fn f with bigPages := v == 0x10 } else s
  | .vfBar i => if fnLocal f ≤ 1 then s.setFn f { s.fn f with vfBars := SMap.set (s.fn f).vfBars i v } else s
  | .ltr => if fnLocal f = 0 then s.setPort (fnPort f) { s.port (fnPort f) with ltr := v } else s
  | .linkControl => if fnLocal f = 0 then
      s.setPort (fnPort f) { s.port (fnPort f) with aspmEnable := v.getLsbD 1 && (s.port (fnPort f)).mgmtActive } else s
  | .l1Substates => if fnLocal f = 0 then
      s.setPort (fnPort f) { s.port (fnPort f) with l1ss := if (s.port (fnPort f)).mgmtActive then v.setWidth 4 &&& 12 else 0 }
      else s
  | .vsec 4 => s.writeCplTimeout f (v.toNat % 8192)
  | .bar i => s.setFn f { s.fn f with bars := SMap.set (s.fn f).bars i v }
  | _ => s
/-- CONFIG_REQUEST (R372; 03 R71): Configuration Request Retry Status before boot step 7, then answered. `bus` is the bus
number of the request, captured from a write to a PF; a VF answers on the bus of its Routing ID (R353, R354), and nothing
else does. -/
def execConfigRequest (f bus : Nat) (reg : CfgReg) (wr : Option W32) (s : State) : Res :=
  .next (
    if !(s.port (fnPort f)).up then s
    else if !(s.port (fnPort f)).full then s.emit (.crs f)
    else if !(s.fnPresent f && ((vfOf f).isNone || bus == s.routingId f / 256)) then s.emit (.completion f false [])
    else
      match wr with
      | none => s.emit (.completion f true (leBytes (match reg with | .serialNumber | .readinessTime | .l1Substates => 8 | _ => 4) (s.cfgRead f reg)))
      | some v =>
        let s := s.emit (.completion f true [])
        if (s.fn f).flrActive then s
        else
          let s := if (vfOf f).isNone then s.setPort (fnPort f) { s.port (fnPort f) with busB := bus } else s
          s.cfgWrite f v reg)

/-! ## Commands (R381) -/

/-- QUEUE.HOST_SET. -/
def hostSetBody : Body := fun s r =>
  let p := fld r.payload 0 1
  chk (r.payload.length == 8 && p < 16 && fld r.payload 1 1 < 2 && zeroAt r.payload 2 2 && 10 ≤ fld r.payload 4 2 &&
    fld r.payload 4 2 ≤ 10000 && zeroAt r.payload 6 2) St.badArg <|
  chk (p < s.groves) St.notPresent <| chk (r.actor == pf2 p || r.actor == operator) St.notOwner <|
  done { s with cfg := { s.cfg with
    hosts := SMap.set s.cfg.hosts p { mgmt := fld r.payload 1 1 == 1, l1IdleUs := fld r.payload 4 2 } } }
def execQueueHostSet (s : State) : Res := slaotRow 0x0530 hostSetBody s
/-- A command on one host port that any function may send. -/
def hostCmd (k : State → Nat → List Byte) : Body := fun s r =>
  let p := fld r.payload 0 1
  chk (r.payload.length == 4 && p < 16 && zeroAt r.payload 1 3) St.badArg <| chk (p < s.groves) St.notPresent <| done s (k s p)
/-- D-state of a function: 3 in D3hot, and in D3cold while PERST_N is low. -/
def State.dState (s : State) (f : Nat) : Nat :=
  if (s.fn f).d3hot || !SMap.getD s.board.perstN (fnPort f) false then 3 else 0
/-- QUEUE.HOST_GET. -/
def hostGetBody : Body := hostCmd fun s p =>
  let c := SMap.getD s.cfg.hosts p {}
  let x := s.port p
  leBytes 1 p ++ leBytes 1 (b2n c.mgmt) ++ zeros 2 ++ leBytes 2 c.l1IdleUs ++ zeros 2 ++ leBytes 1 x.rate ++
    leBytes 1 x.width ++ leBytes 1 x.busB ++ leBytes 2 (s.fn (pf0 p)).numVFs ++ leBytes 2 (s.fn (pf1 p)).numVFs ++
    leBytes 1 (s.dState (pf0 p)) ++ leBytes 1 (s.dState (pf1 p)) ++ leBytes 1 (s.dState (pf2 p)) ++
    leBytes 1 (b2n x.mgmtActive)
def execQueueHostGet (s : State) : Res := slaotRow 0x0531 hostGetBody s
/-- QUEUE.HOST_STATS. -/
def hostStatsBody : Body := hostCmd fun s p => ctrBytes (s.port p).ctrs 19
def execQueueHostStats (s : State) : Res := slaotRow 0x0532 hostStatsBody s

end Sys2Proof.Machine
end

