-- ==== Sys2Proof/Machine/Riscv.lean ====
section
/-! DEFINITION. The RISC-V instructions of a service thread (15 R434): the instruction formats, the compressed forms, and
the integer results. The spec names the instruction set and leaves its encodings to the RISC-V standards: PRESUMED. -/
namespace Sys2Proof.Machine

/-! ## Fields of a 32-bit instruction -/

def rvOp (i : Nat) : Nat := bits i 6 0
def rvRd (i : Nat) : Nat := bits i 11 7
def rvF3 (i : Nat) : Nat := bits i 14 12
def rvRs1 (i : Nat) : Nat := bits i 19 15
def rvRs2 (i : Nat) : Nat := bits i 24 20
def rvRs3 (i : Nat) : Nat := bits i 31 27
def rvF7 (i : Nat) : Nat := bits i 31 25
/-- The `w` low bits of a number sign-extended to 64. -/
def sext (w v : Nat) : W64 := (BitVec.ofNat w v).signExtend 64
def immI (i : Nat) : W64 := sext 12 (bits i 31 20)
def immS (i : Nat) : W64 := sext 12 (32 * bits i 31 25 + bits i 11 7)
def immB (i : Nat) : W64 := sext 13 (4096 * bits i 31 31 + 2048 * bits i 7 7 + 32 * bits i 30 25 + 2 * bits i 11 8)
def immU (i : Nat) : W64 := sext 32 (4096 * bits i 31 12)
def immJ (i : Nat) : W64 := sext 21 (2 ^ 20 * bits i 31 31 + 4096 * bits i 19 12 + 2048 * bits i 20 20 + 2 * bits i 30 21)

/-! ## Building 32-bit instructions from fields -/

def encR (f7 rs2 rs1 f3 rd op : Nat) : Nat := 2 ^ 25 * f7 + 2 ^ 20 * rs2 + 2 ^ 15 * rs1 + 2 ^ 12 * f3 + 2 ^ 7 * rd + op
def encI (imm rs1 f3 rd op : Nat) : Nat := 2 ^ 20 * (imm % 4096) + 2 ^ 15 * rs1 + 2 ^ 12 * f3 + 2 ^ 7 * rd + op
def encS (imm rs2 rs1 f3 op : Nat) : Nat :=
  2 ^ 25 * bits imm 11 5 + 2 ^ 20 * rs2 + 2 ^ 15 * rs1 + 2 ^ 12 * f3 + 2 ^ 7 * bits imm 4 0 + op
def encB (imm rs2 rs1 f3 : Nat) : Nat :=
  2 ^ 31 * bits imm 12 12 + 2 ^ 25 * bits imm 10 5 + 2 ^ 20 * rs2 + 2 ^ 15 * rs1 + 2 ^ 12 * f3 + 2 ^ 8 * bits imm 4 1 +
    2 ^ 7 * bits imm 11 11 + 0x63
def encJ (imm rd : Nat) : Nat :=
  2 ^ 31 * bits imm 20 20 + 2 ^ 21 * bits imm 10 1 + 2 ^ 20 * bits imm 11 11 + 2 ^ 12 * bits imm 19 12 + 2 ^ 7 * rd + 0x6F

/-! ## Compressed forms -/

/-- The low `w` bits sign-extended to `n` bits, as a number. -/
def sextTo (w n v : Nat) : Nat := ((BitVec.ofNat w v).signExtend n).toNat
/-- Quadrant 0: stack-pointer arithmetic, loads and stores on the registers 8 to 15. -/
def expand0 (c : Nat) : Option Nat :=
  let r1 := 8 + bits c 9 7
  let r2 := 8 + bits c 4 2
  let w := 64 * bits c 5 5 + 8 * bits c 12 10 + 4 * bits c 6 6
  let d := 64 * bits c 6 5 + 8 * bits c 12 10
  let n := 64 * bits c 10 7 + 16 * bits c 12 11 + 8 * bits c 5 5 + 4 * bits c 6 6
  match bits c 15 13 with
  | 0 => if n = 0 then none else some (encI n 2 0 r2 0x13)
  | 1 => some (encI d r1 3 r2 0x07)
  | 2 => some (encI w r1 2 r2 0x03)
  | 3 => some (encI d r1 3 r2 0x03)
  | 5 => some (encS d r2 r1 3 0x27)
  | 6 => some (encS w r2 r1 2 0x23)
  | 7 => some (encS d r2 r1 3 0x23)
  | _ => none
/-- The arithmetic forms of quadrant 1. -/
def expandAlu (c : Nat) : Option Nat :=
  let r1 := 8 + bits c 9 7
  let r2 := 8 + bits c 4 2
  let sh := 32 * bits c 12 12 + bits c 6 2
  match bits c 11 10 with
  | 0 => some (encI sh r1 5 r1 0x13)
  | 1 => some (encI (sh + 0x400) r1 5 r1 0x13)
  | 2 => some (encI (sextTo 6 12 sh) r1 7 r1 0x13)
  | _ =>
    match 4 * bits c 12 12 + bits c 6 5 with
    | 0 => some (encR 0x20 r2 r1 0 r1 0x33)
    | 1 => some (encR 0 r2 r1 4 r1 0x33)
    | 2 => some (encR 0 r2 r1 6 r1 0x33)
    | 3 => some (encR 0 r2 r1 7 r1 0x33)
    | 4 => some (encR 0x20 r2 r1 0 r1 0x3B)
    | 5 => some (encR 0 r2 r1 0 r1 0x3B)
    | _ => none
/-- Quadrant 1: immediates, jumps and branches. -/
def expand1 (c : Nat) : Option Nat :=
  let rd := bits c 11 7
  let i6 := 32 * bits c 12 12 + bits c 6 2
  let b := sextTo 9 13 (256 * bits c 12 12 + 64 * bits c 6 5 + 32 * bits c 2 2 + 8 * bits c 11 10 + 2 * bits c 4 3)
  match bits c 15 13 with
  | 0 => some (encI (sextTo 6 12 i6) rd 0 rd 0x13)
  | 1 => if rd = 0 then none else some (encI (sextTo 6 12 i6) rd 0 rd 0x1B)
  | 2 => some (encI (sextTo 6 12 i6) 0 0 rd 0x13)
  | 3 =>
    if i6 = 0 then none
    else if rd = 2 then
      some (encI (sextTo 10 12 (512 * bits c 12 12 + 128 * bits c 4 3 + 64 * bits c 5 5 + 32 * bits c 2 2 + 16 * bits c 6 6)) 2 0 2 0x13)
    else some (2 ^ 12 * (sextTo 6 20 i6) + 2 ^ 7 * rd + 0x37)
  | 4 => expandAlu c
  | 5 => some (encJ (sextTo 12 21 (2048 * bits c 12 12 + 1024 * bits c 8 8 + 256 * bits c 10 9 + 128 * bits c 6 6 +
      64 * bits c 7 7 + 32 * bits c 2 2 + 16 * bits c 11 11 + 2 * bits c 5 3)) 0)
  | 6 => some (encB b 0 (8 + bits c 9 7) 0)
  | _ => some (encB b 0 (8 + bits c 9 7) 1)
/-- Quadrant 2: stack-pointer loads and stores, moves and register jumps. -/
def expand2 (c : Nat) : Option Nat :=
  let rd := bits c 11 7
  let rs2 := bits c 6 2
  let d := 64 * bits c 4 2 + 32 * bits c 12 12 + 8 * bits c 6 5
  let w := 64 * bits c 3 2 + 32 * bits c 12 12 + 4 * bits c 6 4
  let sd := 64 * bits c 9 7 + 8 * bits c 12 10
  let sw := 64 * bits c 8 7 + 4 * bits c 12 9
  match bits c 15 13 with
  | 0 => some (encI (32 * bits c 12 12 + rs2) rd 1 rd 0x13)
  | 1 => some (encI d 2 3 rd 0x07)
  | 2 => if rd = 0 then none else some (encI w 2 2 rd 0x03)
  | 3 => if rd = 0 then none else some (encI d 2 3 rd 0x03)
  | 4 =>
    if bit c 12 then
      if rd = 0 ∧ rs2 = 0 then some 0x00100073
      else if rs2 = 0 then some (encI 0 rd 0 1 0x67)
      else some (encR 0 rs2 rd 0 rd 0x33)
    else if rs2 = 0 then (if rd = 0 then none else some (encI 0 rd 0 0 0x67))
    else some (encR 0 rs2 0 0 rd 0x33)
  | 5 => some (encS sd rs2 2 3 0x27)
  | 6 => some (encS sw rs2 2 2 0x23)
  | _ => some (encS sd rs2 2 3 0x23)
/-- The 32-bit form of a 16-bit instruction; none for a reserved one. -/
def expandC (c : Nat) : Option Nat :=
  match bits c 1 0 with | 0 => expand0 c | 1 => expand1 c | 2 => expand2 c | _ => none

/-! ## Integer results -/

/-- A 32-bit result sign-extended. -/
def word (v : W64) : W64 := (v.setWidth 32).signExtend 64
/-- Quotient and remainder as the standard defines them for divisors 0 and −1. -/
def divS {w : Nat} (a b : BitVec w) : BitVec w :=
  if b = 0 then BitVec.allOnes w else if a = BitVec.intMin w ∧ b = BitVec.allOnes w then a else a.sdiv b
def remS {w : Nat} (a b : BitVec w) : BitVec w :=
  if b = 0 then a else if a = BitVec.intMin w ∧ b = BitVec.allOnes w then 0 else a.srem b
def divU {w : Nat} (a b : BitVec w) : BitVec w := if b = 0 then BitVec.allOnes w else a / b
def remU {w : Nat} (a b : BitVec w) : BitVec w := if b = 0 then a else a % b
/-- Register-register operations, and immediates with their funct7 (base I and M). -/
def alu (f7 f3 : Nat) (a b : W64) : Option W64 :=
  let sh := b.toNat % 64
  match f7, f3 with
  | 0, 0 => some (a + b)
  | 0x20, 0 => some (a - b)
  | 0, 1 => some (a <<< sh)
  | 0, 2 => some (if a.slt b then 1 else 0)
  | 0, 3 => some (if a.ult b then 1 else 0)
  | 0, 4 => some (a ^^^ b)
  | 0, 5 => some (a >>> sh)
  | 0x20, 5 => some (a.sshiftRight sh)
  | 0, 6 => some (a ||| b)
  | 0, 7 => some (a &&& b)
  | 1, 0 => some (a * b)
  | 1, 1 => some (BitVec.ofInt 64 (a.toInt * b.toInt / 2 ^ 64))
  | 1, 2 => some (BitVec.ofInt 64 (a.toInt * Int.ofNat b.toNat / 2 ^ 64))
  | 1, 3 => some (BitVec.ofNat 64 (a.toNat * b.toNat / 2 ^ 64))
  | 1, 4 => some (divS a b)
  | 1, 5 => some (divU a b)
  | 1, 6 => some (remS a b)
  | 1, 7 => some (remU a b)
  | _, _ => none
/-- The 32-bit operations. -/
def alu32 (f7 f3 : Nat) (a b : W64) : Option W64 :=
  let x := a.setWidth 32
  let y := b.setWidth 32
  let sh := b.toNat % 32
  match f7, f3 with
  | 0, 0 => some (word (a + b))
  | 0x20, 0 => some (word (a - b))
  | 0, 1 => some ((x <<< sh).signExtend 64)
  | 0, 5 => some ((x >>> sh).signExtend 64)
  | 0x20, 5 => some ((x.sshiftRight sh).signExtend 64)
  | 1, 0 => some (word (a * b))
  | 1, 4 => some ((divS x y).signExtend 64)
  | 1, 5 => some ((divU x y).signExtend 64)
  | 1, 6 => some ((remS x y).signExtend 64)
  | 1, 7 => some ((remU x y).signExtend 64)
  | _, _ => none
/-- An operation on an immediate: shifts carry their kind in the upper bits. -/
def aluImm (i : Nat) (a : W64) : Option W64 :=
  let f3 := rvF3 i
  let imm := immI i
  if f3 = 1 then (if bits i 31 26 = 0 then some (a <<< bits i 25 20) else none)
  else if f3 = 5 then
    if bits i 31 26 = 0 then some (a >>> bits i 25 20)
    else if bits i 31 26 = 0x10 then some (a.sshiftRight (bits i 25 20)) else none
  else alu 0 f3 a imm
/-- A 32-bit operation on an immediate. -/
def aluImm32 (i : Nat) (a : W64) : Option W64 :=
  match rvF3 i with
  | 0 => some (word (a + immI i))
  | 1 => if rvF7 i = 0 then alu32 0 1 a (BitVec.ofNat 64 (rvRs2 i)) else none
  | 5 => if rvF7 i = 0 ∨ rvF7 i = 0x20 then alu32 (rvF7 i) 5 a (BitVec.ofNat 64 (rvRs2 i)) else none
  | _ => none
/-- A branch is taken; none for a reserved condition. -/
def branch (f3 : Nat) (a b : W64) : Option Bool :=
  match f3 with
  | 0 => some (a == b) | 1 => some (a != b) | 4 => some (a.slt b) | 5 => some (!a.slt b)
  | 6 => some (a.ult b) | 7 => some (!a.ult b) | _ => none
/-- What an AMO stores: the value read, and the register, both of the access width. -/
def amo {w : Nat} (f5 : Nat) (m r : BitVec w) : Option (BitVec w) :=
  match f5 with
  | 0 => some (m + r) | 1 => some r | 4 => some (m ^^^ r) | 8 => some (m ||| r) | 12 => some (m &&& r)
  | 16 => some (if m.slt r then m else r) | 20 => some (if m.slt r then r else m)
  | 24 => some (if m.ult r then m else r) | 28 => some (if m.ult r then r else m)
  | _ => none
/-- A loaded value extended as a load of funct3 does. -/
def loadExt (f3 : Nat) (v : Nat) : W64 :=
  match f3 with
  | 0 => sext 8 v | 1 => sext 16 v | 2 => sext 32 v | _ => BitVec.ofNat 64 v
/-- Bytes of a load or store of funct3. -/
def accLen (f3 : Nat) : Nat := 2 ^ (f3 % 4)

/-! ## Exception codes (R441) -/

def excFetchAccess : Nat := 1
def excIllegal : Nat := 2
def excBreakpoint : Nat := 3
def excLoadMisaligned : Nat := 4
def excLoadAccess : Nat := 5
def excStoreMisaligned : Nat := 6
def excStoreAccess : Nat := 7
def excEcall : Nat := 11
def excChannel : Nat := 0x20
def excUncorrectable : Nat := 0x21

end Sys2Proof.Machine
end

