-- ==== Sys2Proof/Machine/Hart.lean ====
section
/-! DEFINITION. The service threads (15 R434 to R455): who is there, parking and faults, stillness, channels, frames, the
address map with its device registers, and one instruction of a thread. -/
namespace Sys2Proof.Machine

/-! ## Threads -/

/-- The number of a thread within its grove. -/
def tnum (t : Thr) : Nat := 4 * t.core + t.thread
/-- A thread as an image start leaves it (R437, R457): everything zero, at START[t]. -/
def SvcGrove.fresh (x : SvcGrove) (i : Nat) : SvcThread := { pc := BitVec.ofNat 64 (fld (x.image.getD []) (8 + 8 * (i % 4)) 8) }
def SvcGrove.thread (x : SvcGrove) (i : Nat) : SvcThread := SMap.getD x.threads i (x.fresh i)
def State.thread (s : State) (t : Thr) : SvcThread := (s.svc t.grove).thread (tnum t)
def State.setThread (s : State) (t : Thr) (v : SvcThread) : State :=
  let x := s.svc t.grove
  s.setSvc t.grove { x with threads := SMap.set x.threads (tnum t) v }
/-- A thread of a present, live core. -/
def State.threadThere (s : State) (t : Thr) : Bool :=
  t.grove < s.groves && t.core < 16 && t.thread < 4 && !s.isFenced 0x05 t.grove t.core && !s.groveFailed t.grove
/-- A thread that issues (R435, R440, R443, R451). -/
def State.issues (s : State) (t : Thr) : Bool :=
  s.threadThere t && !(s.svc t.grove).heldInReset && !(s.thread t).parked && !(s.thread t).halted
/-- The core whose thread 0 is the grove supervisor (R439; 21 R614). -/
def State.supCore (s : State) (g : Nat) : Nat := (s.live 0x05 g 16).headD 0
/-- The thread is the grove supervisor. -/
def State.isSup (s : State) (t : Thr) : Bool := t.thread == 0 && t.core == s.supCore t.grove
/-- The debug window of a grove is open (19 R589). -/
def State.debugOpen (s : State) (g : Nat) : Bool := (SMap.get s.sec.debug g).any fun e => s.clk < e

/-- The stillness detector of a core after a change of its threads (R445). -/
def State.stillUpdate (s : State) (g c : Nat) : State :=
  let x := s.svc g
  let th (i : Nat) : SvcThread := x.thread (4 * c + i)
  let on := [1, 2, 3].all (fun i => (th i).spinning || (th i).parked) && [1, 2, 3].any fun i => (th i).spinning && !(th i).parked
  if on then
    let y := SMap.getD x.still c { since := none }
    let y := if (List.range 4).any fun i => (th i).halted then
        { y with counted := y.counted + (y.since.map (s.now - ·)).getD 0, since := none }
      else { y with since := y.since.or (some s.now) }
    s.setSvc g { x with still := SMap.set x.still c y }
  else s.setSvc g { x with still := SMap.del x.still c }
/-- A thread replaced, with its core's detector. -/
def State.putThread (s : State) (t : Thr) (v : SvcThread) : State := (s.setThread t v).stillUpdate t.grove t.core
/-- A thread leaves spinning (R444). -/
def State.endSpin (s : State) (t : Thr) : State :=
  if (s.thread t).spinning then s.putThread t { s.thread t with spinning := false, loads := [], poll := none } else s

/-! ## Notifications, parking and faults (R439 to R443) -/

/-- A notification (R441). -/
def notice (kind cause core thread ch : Nat) (pc detail : W64) : List W64 :=
  [BitVec.ofNat 64 (2 ^ 56 * kind + 2 ^ 48 * cause + 2 ^ 36 * core + 2 ^ 34 * thread + ch), pc, detail]
/-- A notification is posted, or discarded when its channel is full. -/
def State.notify (s : State) (g ch : Nat) (m : List W64) : State :=
  let x := s.svc g
  let c := x.chan ch
  if 4 ≤ c.msgs.length then s.svcCtr g 6 1 else s.setSvc g (x.setChan ch { c with msgs := c.msgs ++ [m] })
/-- The thread's held frame is freed (R454). -/
def State.dropHeld (s : State) (t : Thr) : State :=
  match (s.thread t).frame with
  | some h =>
    let s := s.setThread t { s.thread t with frame := none }
    match h.tag with
    | some tag => (s.dropTag t.grove tag).reap tag
    | none => s
  | none => s
/-- A thread parks (R440): its reservations are released and its held frame is freed. -/
def State.parkThread (s : State) (t : Thr) : State :=
  let s := if (s.thread t).frame.isSome then (s.dropHeld t).svcCtr t.grove 2 1 else s
  let x := s.svc t.grove
  let s := s.setSvc t.grove { x with chans := x.chans.map fun c =>
    (c.1, if c.2.res.any fun r => r.thread == tnum t then { c.2 with res := none } else c.2) }
  s.putThread t { s.thread t with parked := true, spinning := false, loads := [], poll := none, reservation := none, frmStatus := 0 }
/-- EV_SVC_FAULT at most once in a window (R440, R443). -/
def State.fireSvcFault (s : State) (g : Nat) : State :=
  let x := s.svc g
  let w := tally x.faultWindow s.clk
  let s := s.setSvc g { x with faultWindow := some w.1 }
  if w.2 then s.fireDev g 8 Ev.svcFault (BitVec.ofNat 32 (g + 256 * min w.1.2 255)) else s
/-- A thread faults (R440). -/
def State.threadFault (s : State) (t : Thr) (cause : Nat) (tval : W64) : State :=
  let g := t.grove
  let pc := (s.thread t).pc
  let s := (s.parkThread t).svcCtr g 3 1
  let m := notice 1 cause t.core t.thread 0 pc tval
  let s := if t.thread ≠ 0 then s.notify g (1 + t.core) m else if s.isSup t then s else s.notify g 1 m
  s.fireSvcFault g
/-- A parked thread restarts (R442): SVC_HOSTCTX goes to its reset value, every other register to zero. -/
def State.restartThread (s : State) (t : Thr) : State :=
  if s.threadThere t ∧ (s.thread t).parked = true then
    s.putThread t { (s.svc t.grove).fresh (tnum t) with slice := (s.thread t).slice }
  else s

/-! ## Channels (R446 to R449) -/

/-- The receiver of a channel, by thread number (R446). -/
def State.receiver (s : State) (g ch : Nat) : Option Nat :=
  if ch ≤ 1 then some (4 * s.supCore g)
  else if ch ≤ 16 then some (4 * (ch - 1))
  else if ch ≤ 31 ∨ 511 < ch then none
  else
    let b := fld ((s.svc g).image.getD []) (8 + ch) 1
    if b < 64 then some b else none
/-- CH.PUT: the status (R448). -/
def State.chanPut (s : State) (t : Thr) (ch idx : Nat) (v : W64) : State × Nat :=
  let x := s.svc t.grove
  let c := x.chan ch
  if (s.thread t).aborts.contains ch then (s, 2)
  else
    match c.res with
    | some r =>
      if r.thread = (tnum t) then (s.setSvc t.grove (x.setChan ch { c with res := some { r with words := SMap.set r.words idx v } }), 0)
      else (s, 1)
    | none =>
      if c.msgs.length < 4 then
        (s.setSvc t.grove (x.setChan ch { c with res := some { thread := (tnum t), words := [(idx, v)], start := s.now } }), 0)
      else (s, 1)
/-- CH.SEND: the status. -/
def State.chanSend (s : State) (t : Thr) (ch count : Nat) : State × Nat :=
  let x := s.svc t.grove
  let c := x.chan ch
  let th := s.thread t
  if th.aborts.contains ch then (s.setThread t { th with aborts := th.aborts.filter (· != ch) }, 2)
  else
    match c.res with
    | some r =>
      if r.thread ≠ (tnum t) then (s, 3)
      else if count = 0 ∨ 8 < count then (s, 4)
      else
        let m := (List.range count).map fun i => SMap.getD r.words i 0
        (s.setSvc t.grove (x.setChan ch { msgs := c.msgs ++ [m], res := none }), 0)
    | none => (s, 3)
/-- CH.RECV: the words of the message taken. -/
def State.chanRecv (s : State) (t : Thr) (ch : Nat) : State × Nat :=
  let x := s.svc t.grove
  match (x.chan ch).msgs with
  | m :: ms =>
    let s := s.setSvc t.grove (x.setChan ch { x.chan ch with msgs := ms })
    (s.setThread t { s.thread t with recv := m }, m.length)
  | [] => (s, 0)

/-! ## Frames (R452 to R454) -/

/-- The sink of a service input queue; queue 0 is the exception queue, and queue 255 the remote-access engine's. -/
def serviceSink (q : Nat) : Sink := if q = 0 then .exception else .service q
/-- Frames waiting in an input queue. -/
def State.inputDepth (s : State) (g q : Nat) : Nat := (s.sinkQueue g (serviceSink q)).length
/-- FRM_STATUS after a command with a RESULT. -/
def frmWord (h : Option HeldFrame) (result : Nat) : W64 :=
  match h with
  | some h => BitVec.ofNat 64 (2 ^ 16 * h.len + 2 ^ 8 * h.queue + 2 ^ 4 * result + 1)
  | none => BitVec.ofNat 64 (2 ^ 4 * result)
/-- The thread's held frame and status after a command. -/
def State.setHeld (s : State) (t : Thr) (h : Option HeldFrame) (result : Nat) : State :=
  (s.setThread t { s.thread t with frame := h, frmStatus := frmWord h result }).endSpin t
/-- A held frame sits in its cells, in no queue. -/
def State.holdTag (s : State) (g tag : Nat) (k : Sink) : State :=
  let s := s.setSink g k ((s.sinkQueue g k).filter (· != tag))
  s.setSliceTag g tag { s.sliceTag g tag with st := 3 }
/-- TAKE. -/
def State.frmTake (s : State) (t : Thr) (q : Nat) : State :=
  let g := t.grove
  let th := s.thread t
  match th.frame with
  | some h => s.setHeld t (some h) 2
  | none =>
    match if q = 255 then [] else s.sinkQueue g (serviceSink q) with
    | tag :: _ =>
      match s.frame tag with
      | some f =>
        let b := f.edited.getD f.bytes
        let b := b.take (b.length - 4)
        let s := (s.holdTag g tag (serviceSink q)).svcCtr g 0 1
        let h : HeldFrame := { fill := s.free, bytes := putBytes [] 0 b, len := b.length, queue := q, md := f.md,
                               tag := some tag, tenant := mdTenant f.md }
        (s.drawn 16384).setHeld t (some h) 0
      | none => s.setHeld t none 1
    | [] => s.setHeld t none 1
/-- Cells allocated one by one to a tag; none when the slice refuses one. -/
def State.allocCells (s : State) (g t : Nat) : Nat → Option State
  | 0 => some s
  | n + 1 =>
    (s.allocCell g t false false none).bind fun r =>
      (r.2.setSliceTag g t { r.2.sliceTag g t with cells := SMap.set (r.2.sliceTag g t).cells n r.1, st := 3 }).allocCells g t n
/-- ALLOC: its window bytes and its metadata record are free values. -/
def State.frmAlloc (s : State) (t : Thr) (len : Nat) : State :=
  let th := s.thread t
  match th.frame with
  | some h => s.setHeld t (some h) 2
  | none =>
    if len < 14 ∨ 15996 < len then s.setHeld t none 4
    else
      let n := s.newTag t.grove
      match if s.maySource t.grove then n.2.allocCells t.grove n.1 (cellsOf len) else none with
      | some s =>
        let h : HeldFrame := { fill := s.free, len := len, queue := 0xFF, tag := some n.1, md := Config.freeValue 1024 (s.free + 16384) }
        (s.drawn 16385).setHeld t (some h) 0
      | none => s.setHeld t none 5
/-- A byte of the frame window. -/
def HeldFrame.byte (h : HeldFrame) (i : Nat) : Byte := (SMap.get h.bytes i).getD (Config.freeValue 8 (h.fill + i))
/-- A frame of the service cores enters the canopy (R454): looked up, or under an action. -/
def State.svcSend (s : State) (g tenant : Nat) (b : List Byte) (action : Option Nat) : State :=
  (s.enterFrame g 3 g (steerOf 3 g) tenant (wireFrame b) true fun f => { f with given := action }).2.svcCtr g 1 1
/-- SEND. -/
def State.frmSend (s : State) (t : Thr) (v : W64) : State :=
  match (s.thread t).frame with
  | none => s.setHeld t none 3
  | some h =>
    let len := eBits v 29 16
    if len < 14 ∨ 15996 < len then s.setHeld t (some h) 4
    else if s.maySource t.grove then
      let s := s.svcSend t.grove (eBits v 63 48) ((List.range len).map h.byte) (if v.getLsbD 4 then some (eBits v 47 32) else none)
      (s.dropHeld t).setHeld t none 0
    else s.setHeld t (some h) 5
/-- FREE. -/
def State.frmFree (s : State) (t : Thr) : State :=
  if (s.thread t).frame.isSome then (s.dropHeld t).setHeld t none 0 else s.setHeld t none 3
/-- A write of FRM_CMD (R453). -/
def State.frmCmd (s : State) (t : Thr) (v : W64) : State :=
  match eBits v 3 0 with
  | 1 => s.frmTake t (eBits v 15 8)
  | 2 => s.frmAlloc t (eBits v 29 16)
  | 3 => s.frmSend t v
  | 4 => s.frmFree t
  | _ => s

/-! ## Ring indices (R455; 13 R386, R387) -/

/-- LOG_CI accepts a value that leaves at most 8,192 records; the records passed are consumed. -/
def State.writeLogCi (s : State) (g : Nat) (v : W32) : State :=
  let x := s.svc g
  if (x.logPi - v).toNat ≤ 8192 then
    let n := (v - x.logCi).toNat
    let s := s.setSvc g { x with logCi := v }
    if g = s.cfg.policy.grove ∧ n ≤ 8192 then { s with tb := { s.tb with log := s.tb.log.drop n } } else s
  else s
/-- CAND_CI, with 512 records. -/
def State.writeCandCi (s : State) (g : Nat) (v : W32) : State :=
  let x := s.svc g
  if (x.candPi - v).toNat ≤ 512 then
    let n := (v - x.candCi).toNat
    s.setSvc g { x with candCi := v, candRing := if n ≤ 512 then x.candRing.drop n else x.candRing }
  else s

/-! ## Device registers (R455) -/

/-- The source number of a table set of a grove (08 R233). -/
def svcSet (g j : Nat) : Nat := 128 + 2 * g + j
/-- The 32-bit word at a device-register offset. -/
def State.devWord (s : State) (t : Thr) (off : Nat) : Nat :=
  let g := t.grove
  let x := s.svc g
  let set (j : Nat) : TblSet := s.tblSet (svcSet g j)
  if off < 0x80 then bits (set (off / 0x40)).data.toNat (8 * (off % 0x40) + 31) (8 * (off % 0x40))
  else if 0x200 ≤ off ∧ off < 0x220 then
    let y := set ((off - 0x200) / 0x10)
    match off % 0x10 with | 0 => y.cmd.toNat | 4 => y.statusWord | 8 => y.info.toNat | _ => 0
  else if off = 0x1008 then eBits (s.thread t).frmStatus 31 0
  else if 0x2000 ≤ off ∧ off < 0x2800 then (if off % 8 = 0 then s.inputDepth g ((off - 0x2000) / 8) else 0)
  else
    match off with
    | 0x3000 => x.logPi.toNat | 0x3008 => x.logCi.toNat | 0x3010 => x.candPi.toNat | 0x3018 => x.candCi.toNat | _ => 0
/-- The bytes a load of device registers returns. -/
def State.devRead (s : State) (t : Thr) (off len : Nat) : Nat :=
  let a := off / 8 * 8
  bits (s.devWord t a + 2 ^ 32 * s.devWord t (a + 4)) (8 * (off % 8) + 8 * len - 1) (8 * (off % 8))
/-- A table set as the word of a control block is written. -/
def State.setControl (s : State) (src off : Nat) (v : Nat) : State :=
  match off with
  | 0 => tblCmd (if bits v 23 21 ≤ 5 then bits v 23 21 else 0) src (BitVec.ofNat 32 v) s
  | 4 =>
    let x := s.tblSet src
    s.setTblSet src { x with cmdLost := x.cmdLost && !bit v 30, dataLost := x.dataLost && !bit v 29 }
  | _ => s
/-- GROVE_RESTART: by the grove supervisor only (R442, R455). -/
def State.groveRestart (s : State) (t : Thr) (v : Nat) : State :=
  if s.isSup t then (maskBits v 16).foldl (fun s c => s.restartThread ⟨t.grove, c, 0⟩) s else s
/-- A store of `len` bytes to a device register. -/
def State.devWrite (s : State) (t : Thr) (off len v : Nat) : State :=
  let g := t.grove
  if off + len ≤ 0x80 then
    let src := svcSet g (off / 0x40)
    let x := s.tblSet src
    if x.busy then s.setTblSet src { x with dataLost := true }
    else s.setTblSet src { x with data := putData x.data (off % 0x40) (leBytes len v) }
  else if 0x200 ≤ off ∧ off < 0x220 ∧ 4 ≤ len then
    let src := svcSet g ((off - 0x200) / 0x10)
    let s := s.setControl src (off % 0x10) (v % 2 ^ 32)
    if len = 8 then s.setControl src (off % 0x10 + 4) (v / 2 ^ 32) else s
  else
    match off with
    | 0x1000 => s.frmCmd t (BitVec.ofNat 64 v)
    | 0x1100 => s.groveRestart t v
    | 0x3008 => s.writeLogCi g (BitVec.ofNat 32 v)
    | 0x3018 => s.writeCandCi g (BitVec.ofNat 32 v)
    | _ => s

/-! ## The address map (R437, R438) -/

/-- What an address names. -/
inductive Region where
  | slice (o : Nat) | l2 (a : Nat) | dev (o : Nat) | window (o : Nat) | record (o : Nat) | hbm (a : Nat) | host (a : Nat) | none
  deriving DecidableEq, Repr
/-- A granted HBM window holds an access (R437). -/
def State.hbmGranted (s : State) (g a len : Nat) : Bool :=
  (SMap.get s.sv.windows g).any fun w => w.1 ≤ a && a + len ≤ w.1 + w.2
/-- The region of an access. -/
def State.region (s : State) (g a len : Nat) : Region :=
  if a + len ≤ 0x20000 then .slice a
  else if 0x100000 ≤ a ∧ a + len ≤ 0x900000 then .l2 a
  else if 0x10000000 ≤ a ∧ a + len ≤ 0x10010000 then .dev (a - 0x10000000)
  else if 0x20000000 ≤ a ∧ a + len ≤ 0x20004000 then .window (a - 0x20000000)
  else if 0x20004000 ≤ a ∧ a + len ≤ 0x20004080 then .record (a - 0x20004000)
  else if 0x10000000000 ≤ a ∧ s.hbmGranted g (a - 0x10000000000) len = true then .hbm (a - 0x10000000000)
  else if 0x20000000000 ≤ a ∧ a + len ≤ 0x30000000000 then .host (a - 0x20000000000)
  else .none
/-- Master ID of the service cores of a grove. -/
def svcMaster (g : Nat) : BitVec 16 := BitVec.ofNat 16 (0x2000 + g)
/-- A byte of L2: the image body until it is written (R456, R457). -/
def SvcGrove.l2Byte (x : SvcGrove) (a : Nat) : Byte :=
  (SMap.get x.l2 a).getD (
    let b := x.image.getD []
    if a - 0x100000 < fld b 4 4 then (b[1024 + (a - 0x100000)]?).getD 0 else 0)
/-- SVC_HOSTCTX of a thread, at its reset value until it is written. -/
def State.hostCtx (s : State) (t : Thr) : W64 := (s.thread t).hostctx.getD (BitVec.ofNat 64 (1 + 0x1000 * t.grove))
/-- The function of a thread's host accesses, when it is a function of its host port. -/
def State.hostFn (s : State) (t : Thr) : Option Nat :=
  let f := eBits (s.hostCtx t) 15 0
  if fnPort f = t.grove ∧ s.fnPresent f = true then some f else none

/-- The PASID of a thread's host accesses (R438). -/
def State.hostPasid (s : State) (t : Thr) : Option Nat :=
  let c := s.hostCtx t
  if c.getLsbD 40 then some (eBits c 39 20) else none
/-- A host access of a thread may be issued for a function now: Bus Master Enable, and PASID Enable when it carries one
(R438; 12 R365). -/
def State.hostReady (s : State) (t : Thr) (f : Nat) : Bool :=
  s.canDma f && ((s.hostPasid t).isNone || (s.fn f).pasidEn)
/-- The completions left after an access, which takes the first when it is one to host memory. -/
def State.hostRest (s : State) (t : Thr) (a len : Nat) (host : List HostCpl) : List HostCpl :=
  match s.region t.grove a len with | .host _ => host.drop 1 | _ => host

/-- How a load ended. -/
inductive Loaded where
  | val (n : Nat)
  /-- A host load that failed (R438). -/
  | failed
  | fault
  /-- An uncorrectable error in the value (R440). -/
  | poisoned
  /-- Not ready: the slot passes (R436). -/
  | wait
  deriving DecidableEq, Repr
/-- A read of the address map with a right: 1 R, 3 A, 4 X. The first of `host` answers it when it is one of host memory. -/
def State.svcRead (s : State) (t : Thr) (a len right : Nat) (host : List HostCpl) : State × Loaded :=
  let g := t.grove
  match s.region g a len with
  | .slice o => (s, .val (leNat (getBytes (s.thread t).slice o len)))
  | .l2 a =>
    let (s, pass) := s.fbCheck (0x0800 + g) (svcMaster g) right a len
    (s, if pass then .val (leNat ((List.range len).map fun i => (s.svc g).l2Byte (a + i))) else .fault)
  | .dev o =>
    if right ≠ 1 then (s, .fault)
    else
      let (s, pass) := s.fbCheck (0x0800 + g) (svcMaster g) 1 a len
      (s, if pass then .val (s.devRead t o len) else .fault)
  | .window o =>
    if right ≠ 1 then (s, .fault)
    else
      match (s.thread t).frame with
      | some h => (s, .val (leNat ((List.range len).map fun i => h.byte (o + i))))
      | none => let (v, s) := s.fresh 64; (s, .val (v.toNat % 2 ^ (8 * len)))
  | .record o =>
    if right ≠ 1 then (s, .fault)
    else
      match (s.thread t).frame with
      | some h => (s, .val (bits h.md.toNat (8 * o + 8 * len - 1) (8 * o)))
      | none => let (v, s) := s.fresh 64; (s, .val (v.toNat % 2 ^ (8 * len)))
  | .hbm a =>
    let (s, pass) := s.fbCheck packageBlock (svcMaster g) right a len
    (s, if !pass then .fault else if s.memBad a len then .poisoned else .val (leNat (memReadBytes s.mem a len)))
  | .host a =>
    match s.hostFn t with
    | none => (s, .fault)
    | some f =>
      if right = 3 then (s, .fault)
      else if !s.hostReady t f then (s, .wait)
      else
        let pasid := s.hostPasid t
        match s.translate f pasid a with
        | none =>
          match s.seeRefusal f pasid a with
          | some s => (s, .failed)
          | none => (s.askTranslation f (.read f pasid) a len, .wait)
        | some ta =>
          let (s', pass) := s.fbCheck (0x0600 + g) (svcMaster g) right ta len
          if !pass then (s', .fault)
          else
            let c := host.headD noCpl
            match s'.hostAsk f a len (fun tag => .hostRead g tag f ta pasid len) c with
            | some (s, true) => (s, .val (fld c.data 0 len))
            | some (s, false) => (s, .failed)
            | none => (s, .wait)
  | .none => (s, .fault)

/-- Reservations that a store overlaps are lost. -/
def State.breakRes (s : State) (t : Thr) (a len : Nat) : State :=
  let own := a < 0x20000
  let hit (th : SvcThread) : Bool := th.reservation.any fun r => r.1 < a + len && a < r.1 + r.2
  let clear (x : SvcGrove) (g : Nat) : SvcGrove := { x with threads := x.threads.map fun y =>
    (y.1, if hit y.2 && (!own || (g == t.grove && y.1 == (tnum t))) then { y.2 with reservation := none } else y.2) }
  if a < 0x900000 then s.setSvc t.grove (clear (s.svc t.grove) t.grove)
  else { s with sv := { s.sv with groves := s.sv.groves.map fun g => (g.1, clear g.2 g.1) } }
/-- How a store ended. -/
inductive Stored where
  | ok | fault | wait
  deriving DecidableEq, Repr
/-- A write of the address map with a right: 2 W, 3 A. -/
def State.svcWrite (s : State) (t : Thr) (a len v right : Nat) : State × Stored :=
  let g := t.grove
  let b := leBytes len v
  match s.region g a len with
  | .slice o => ((s.setThread t { s.thread t with slice := putBytes (s.thread t).slice o b }).breakRes t a len, .ok)
  | .l2 a =>
    let (s, pass) := s.fbCheck (0x0800 + g) (svcMaster g) right a len
    if pass then ((s.setSvc g { s.svc g with l2 := putBytes (s.svc g).l2 a b }).breakRes t a len, .ok) else (s, .fault)
  | .dev o =>
    let (s, pass) := s.fbCheck (0x0800 + g) (svcMaster g) 2 a len
    if pass then (s.devWrite t o len v, .ok) else (s, .fault)
  | .window o =>
    match (s.thread t).frame with
    | some h => (s.setThread t { s.thread t with frame := some { h with bytes := putBytes h.bytes o b } }, .ok)
    | none => (s, .ok)
  | .record _ => (s, .ok)
  | .hbm m =>
    let (s, pass) := s.fbCheck packageBlock (svcMaster g) right m len
    if pass then ((s.memPut m b).breakRes t a len, .ok) else (s, .fault)
  | .host a =>
    match s.hostFn t with
    | none => (s, .fault)
    | some f =>
      if !s.hostReady t f then (s, .wait)
      else
        let pasid := s.hostPasid t
        match s.translate f pasid a with
        | none =>
          match s.seeRefusal f pasid a with
          | some s => (s, .ok)
          | none => (s.askTranslation f (.write f pasid) a len, .wait)
        | some ta =>
          let (s, pass) := s.fbCheck (0x0600 + g) (svcMaster g) 2 ta len
          if pass then (s.hostSend f (.hostWrite f ta pasid false b), .ok) else (s, .fault)
  | .none => (s, .fault)

/-! ## Control and status registers (R434, R438) -/

/-- The threads of a core that are parked, as SVC_PARKED. -/
def State.parkedBits (s : State) (g c : Nat) : Nat :=
  (List.range 4).foldl (fun m i => m + 2 ^ i * b2n (s.thread ⟨g, c, i⟩).parked) 0
/-- A CSR as it reads; none for one that does not exist. -/
def State.csrRead (s : State) (t : Thr) (n : Nat) : Option W64 :=
  let th := s.thread t
  match n with
  | 0x001 => some (BitVec.ofNat 64 (eBits th.fcsr 4 0))
  | 0x002 => some (BitVec.ofNat 64 (eBits th.fcsr 7 5))
  | 0x003 => some (BitVec.ofNat 64 (eBits th.fcsr 7 0))
  | 0x008 => some th.vstart
  | 0x009 => some (BitVec.ofNat 64 (eBits th.vcsr 0 0))
  | 0x00A => some (BitVec.ofNat 64 (eBits th.vcsr 2 1))
  | 0x00F => some th.vcsr
  | 0xC20 => some th.vl
  | 0xC21 => some th.vtype
  | 0xC22 => some 32
  | 0x7C1 => some (BitVec.ofNat 64 (s.parkedBits t.grove t.core))
  | 0x7C2 => some 0
  | 0x7C3 => some (s.hostCtx t)
  | 0x7C4 => some (BitVec.ofNat 64 (b2n th.hosterr))
  | 0x7C5 => some (BitVec.ofNat 64 s.time)
  | 0xF14 => some (BitVec.ofNat 64 (64 * t.grove + 4 * t.core + t.thread))
  | _ => none
/-- SVC_RESTART (R438, R442): a supervisor restarts threads 1 to 3 of its core. -/
def State.svcRestart (s : State) (t : Thr) (v : Nat) : State :=
  if t.thread = 0 then ([1, 2, 3].filter (bit v)).foldl (fun s i => s.restartThread ⟨t.grove, t.core, i⟩) s else s
/-- A write of a CSR; none for one that may not be written. -/
def State.csrWrite (s : State) (t : Thr) (n : Nat) (v : W64) : Option State :=
  let th := s.thread t
  match n with
  | 0x001 => some (s.setThread t { th with fcsr := setBits th.fcsr 4 0 (eBits v 4 0) })
  | 0x002 => some (s.setThread t { th with fcsr := setBits th.fcsr 7 5 (eBits v 2 0) })
  | 0x003 => some (s.setThread t { th with fcsr := BitVec.ofNat 32 (eBits v 7 0) })
  | 0x008 => some (s.setThread t { th with vstart := BitVec.ofNat 64 (eBits v 7 0) })
  | 0x009 => some (s.setThread t { th with vcsr := setBits th.vcsr 0 0 (eBits v 0 0) })
  | 0x00A => some (s.setThread t { th with vcsr := setBits th.vcsr 2 1 (eBits v 1 0) })
  | 0x00F => some (s.setThread t { th with vcsr := BitVec.ofNat 64 (eBits v 2 0) })
  | 0x7C1 => some s
  | 0x7C2 => some (s.svcRestart t v.toNat)
  | 0x7C3 => some (s.setThread t { th with hostctx := some (BitVec.ofNat 64 (2 ^ 20 * eBits v 40 20 + eBits v 15 0)) })
  | 0x7C4 => some (s.setThread t { th with hosterr := th.hosterr && !v.getLsbD 0 })
  | 0x7C5 => some s
  | _ => none

/-! ## One instruction (R434 to R449) -/

/-- How an instruction ended: the state with the thread gone on, a fault with its value, or a slot that passes. -/
inductive Ran where
  | on (s : State)
  | fault (s : State) (cause : Nat) (tval : W64)
  | wait (s : State)

def SvcThread.xr (th : SvcThread) (r : Nat) : W64 := if r = 0 then 0 else SMap.getD th.x r 0
def SvcThread.fr (th : SvcThread) (r : Nat) : W64 := SMap.getD th.f r 0
def SvcThread.setX (th : SvcThread) (r : Nat) (v : W64) : SvcThread := if r = 0 then th else { th with x := SMap.set th.x r v }
def SvcThread.setF (th : SvcThread) (r : Nat) (v : W64) : SvcThread := { th with f := SMap.set th.f r v }
/-- The thread after a result in `rd`, gone on by `n` bytes. -/
def State.goX (s : State) (t : Thr) (rd : Nat) (v : W64) (n : Nat) : Ran :=
  let th := s.thread t
  .on (s.setThread t { th.setX rd v with pc := th.pc + BitVec.ofNat 64 n })
def State.goF (s : State) (t : Thr) (rd : Nat) (v : W64) (n : Nat) : Ran :=
  let th := s.thread t
  .on (s.setThread t { th.setF rd v with pc := th.pc + BitVec.ofNat 64 n })
/-- The thread goes on to an address. -/
def State.goTo (s : State) (t : Thr) (pc : W64) : Ran := .on (s.setThread t { s.thread t with pc := pc })
/-- An illegal instruction: what mtval holds is open to the core. -/
def State.illegal (s : State) : Ran := let (v, s) := s.fresh 64; .fault s excIllegal v
/-- A load's value while the thread spins (R444): a value that differs from the last at its PC, or a ninth PC, ends it. -/
def State.noteLoad (s : State) (t : Thr) (v : W64) : State :=
  let th := s.thread t
  if !th.spinning then s
  else
    match SMap.get th.loads th.pc.toNat with
    | some w => if w = v then s else s.endSpin t
    | none => if th.loads.length < 8 then s.setThread t { th with loads := SMap.set th.loads th.pc.toNat v } else s.endSpin t
/-- A load: its value, with SVC_HOSTERR when the host fails it. -/
def State.loadThen (s : State) (t : Thr) (a : W64) (len right cause : Nat) (host : List HostCpl) (k : State → Nat → Ran) : Ran :=
  match s.svcRead t a.toNat len right host with
  | (s, .val n) => k s n
  | (s, .failed) => k (s.setThread t { s.thread t with hosterr := true }) (2 ^ (8 * len) - 1)
  | (s, .fault) => .fault s cause a
  | (s, .poisoned) => .fault s 0x21 a
  | (s, .wait) => .wait s
/-- A store, which ends spinning. -/
def State.storeThen (s : State) (t : Thr) (a : W64) (len v right : Nat) (k : State → Ran) : Ran :=
  match s.svcWrite t a.toNat len v right with
  | (s, .ok) => k (s.endSpin t)
  | (s, .fault) => .fault s excStoreAccess a
  | (s, .wait) => .wait s

/-- A channel instruction in its legal form (R447): funct3. -/
def chanForm (i : Nat) : Option Nat :=
  if rvOp i ≠ 0x0B then none
  else
    match rvF3 i with
    | 0 => if rvF7 i ≤ 7 then some 0 else none
    | 1 => if rvF7 i = 0 then some 1 else none
    | 2 => if rvF7 i = 0 ∧ rvRs2 i = 0 then some 2 else none
    | 3 => if rvF7 i ≤ 7 ∧ rvRs2 i = 0 then some 3 else none
    | 4 => if rvF7 i = 0 ∧ rvRs2 i = 0 then some 4 else none
    | _ => none
/-- A channel fault on the channel number (R447). -/
def State.chanFaults (s : State) (t : Thr) (f3 ch : Nat) : Bool :=
  511 < ch || (f3 ≤ 1 && ch ≤ 31) || (f3 == 2 && s.receiver t.grove ch != some (tnum t))
/-- A channel instruction. -/
def State.chanInsn (s : State) (t : Thr) (f3 i : Nat) : Ran :=
  let th := s.thread t
  let ch := (th.xr (rvRs1 i)).toNat
  let v := th.xr (rvRs2 i)
  if s.chanFaults t f3 ch then let (w, s) := s.fresh 64; .fault s excChannel w
  else if f3 = 4 then
    let n := BitVec.ofNat 64 ((s.svc t.grove).chan ch).msgs.length
    let s := if th.spinning && th.poll.any (· != n) then s.endSpin t
      else if th.spinning then s.setThread t { th with poll := some n } else s
    s.goX t (rvRd i) n 4
  else
    let s := s.endSpin t
    match f3 with
    | 0 => let r := s.chanPut t ch (rvF7 i) v; r.1.goX t (rvRd i) (BitVec.ofNat 64 r.2) 4
    | 1 => let r := s.chanSend t ch v.toNat; r.1.goX t (rvRd i) (BitVec.ofNat 64 r.2) 4
    | 2 => let r := s.chanRecv t ch; r.1.goX t (rvRd i) (BitVec.ofNat 64 r.2) 4
    | _ => s.goX t (rvRd i) (th.recv.getD (rvF7 i) 0) 4

/-- A CSR instruction. -/
def State.csrInsn (s : State) (t : Thr) (i n : Nat) : Ran :=
  let csr := bits i 31 20
  let f3 := rvF3 i
  let arg : W64 := if f3 < 4 then (s.thread t).xr (rvRs1 i) else BitVec.ofNat 64 (rvRs1 i)
  match s.csrRead t csr with
  | none => s.illegal
  | some old =>
    let new := match f3 % 4 with | 1 => arg | 2 => old ||| arg | _ => old &&& ~~~arg
    if f3 % 4 = 1 ∨ rvRs1 i ≠ 0 then
      match s.csrWrite t csr new with
      | some s => s.goX t (rvRd i) old n
      | none => s.illegal
    else s.goX t (rvRd i) old n
/-- ECALL, EBREAK, WFI and the CSR instructions (R434). -/
def State.systemInsn (s : State) (t : Thr) (i n : Nat) : Ran :=
  match rvF3 i with
  | 0 =>
    if i = 0x00000073 then .fault s excEcall 0
    else if i = 0x00100073 then
      if s.debugOpen t.grove then .on (s.putThread t { s.thread t with halted := true })
      else let (v, s) := s.fresh 64; .fault s excBreakpoint v
    else if i = 0x10500073 then s.goX t 0 0 n
    else s.illegal
  | 4 => s.illegal
  | _ => s.csrInsn t i n
/-- The integer operand of an AMO of a width: its new value. -/
def amoValue (f5 len m r : Nat) : Option Nat :=
  if len = 4 then (amo f5 (BitVec.ofNat 32 m) (BitVec.ofNat 32 r)).map BitVec.toNat
  else (amo f5 (BitVec.ofNat 64 m) (BitVec.ofNat 64 r)).map BitVec.toNat
/-- LR, SC and the AMOs. -/
def State.amoInsn (s : State) (t : Thr) (i n : Nat) : Ran :=
  let th := s.thread t
  let a := th.xr (rvRs1 i)
  let r := th.xr (rvRs2 i)
  let len := accLen (rvF3 i)
  let f5 := rvRs3 i
  let atomicAt := match s.region t.grove a.toNat len with | .slice _ | .l2 _ | .hbm _ => true | _ => false
  if rvF3 i ≠ 2 ∧ rvF3 i ≠ 3 then s.illegal
  else if f5 = 2 ∧ rvRs2 i = 0 then
    if a.toNat % len ≠ 0 then .fault s excLoadMisaligned a
    else if !atomicAt then .fault s excLoadAccess a
    else s.loadThen t a len 1 excLoadAccess [] fun s v =>
      let x := loadExt (rvF3 i) v
      let s := s.noteLoad t x
      (s.setThread t { s.thread t with reservation := some (a.toNat, len) }).goX t (rvRd i) x n
  else if f5 = 3 ∨ (amoValue f5 len 0 0).isSome then
    if a.toNat % len ≠ 0 then .fault s excStoreMisaligned a
    else if !atomicAt then .fault s excStoreAccess a
    else if f5 = 3 then
      if th.reservation = some (a.toNat, len) then
        s.storeThen t a len (r.toNat % 2 ^ (8 * len)) 2 fun s =>
          (s.setThread t { s.thread t with reservation := none }).goX t (rvRd i) 0 n
      else ((s.endSpin t).setThread t { (s.endSpin t).thread t with reservation := none }).goX t (rvRd i) 1 n
    else
      s.loadThen t a len 3 excStoreAccess [] fun s v =>
        s.storeThen t a len ((amoValue f5 len v (r.toNat % 2 ^ (8 * len))).getD 0) 3 fun s =>
          s.goX t (rvRd i) (loadExt (rvF3 i) v) n
  else s.illegal

/-- A rounding mode of F and D is legal. -/
def rmLegal (fcsr : W32) (rm : Nat) : Bool := rm ≤ 4 || (rm == 7 && eBits fcsr 7 5 ≤ 4)
/-- Where a floating-point operation writes: 1 an x register, 0 an f register; none when it does not exist. -/
def floatForm (fcsr : W32) (i : Nat) : Option Nat :=
  let f5 := rvRs3 i
  let f3 := rvF3 i
  let rs2 := rvRs2 i
  if 1 < bits i 26 25 then none
  else if f5 ≤ 3 then (if rmLegal fcsr f3 then some 0 else none)
  else if f5 = 11 then (if rs2 = 0 ∧ rmLegal fcsr f3 = true then some 0 else none)
  else if f5 = 4 then (if f3 ≤ 2 then some 0 else none)
  else if f5 = 5 then (if f3 ≤ 1 then some 0 else none)
  else if f5 = 8 then (if rs2 + bits i 26 25 = 1 ∧ rs2 ≤ 1 ∧ rmLegal fcsr f3 = true then some 0 else none)
  else if f5 = 20 then (if f3 ≤ 2 then some 1 else none)
  else if f5 = 24 then (if rs2 ≤ 3 ∧ rmLegal fcsr f3 = true then some 1 else none)
  else if f5 = 26 then (if rs2 ≤ 3 ∧ rmLegal fcsr f3 = true then some 0 else none)
  else if f5 = 28 then (if rs2 = 0 ∧ f3 ≤ 1 then some 1 else none)
  else if f5 = 30 then (if rs2 = 0 ∧ f3 = 0 then some 0 else none)
  else none
/-- An operation of F or D: its value is that of the RISC-V standard. -/
def State.floatInsn (s : State) (t : Thr) (i n : Nat) : Ran :=
  let th := s.thread t
  let r := Config.svcFloat (BitVec.ofNat 32 i) (th.fr (rvRs1 i)) (th.fr (rvRs2 i)) (th.fr (rvRs3 i)) (th.xr (rvRs1 i)) th.fcsr
  let s' := s.setThread t { th with fcsr := r.2 }
  if rvOp i = 0x53 then
    match floatForm th.fcsr i with
    | some 1 => s'.goX t (rvRd i) r.1 n
    | some _ => s'.goF t (rvRd i) r.1 n
    | none => s.illegal
  else if bits i 26 25 ≤ 1 ∧ rmLegal th.fcsr (rvF3 i) = true then s'.goF t (rvRd i) r.1 n
  else s.illegal

/-- VLMAX of a vtype value with VLEN 256; none for a reserved one. -/
def vlmaxOf (v : Nat) : Option Nat :=
  let sew := 2 ^ (3 + bits v 5 3)
  let m := bits v 2 0
  if 256 ≤ v ∨ 3 < bits v 5 3 ∨ m = 4 then none
  else if m < 4 then some (256 * 2 ^ m / sew)
  else if sew ≤ 64 / 2 ^ (8 - m) then some (256 / 2 ^ (8 - m) / sew) else none
/-- vsetvli, vsetivli and vsetvl. -/
def State.vsetInsn (s : State) (t : Thr) (i n : Nat) : Ran :=
  let th := s.thread t
  let kind := bits i 31 30
  let x1 := th.xr (rvRs1 i)
  let vt := if kind ≤ 1 then bits i 30 20 else if kind = 3 then bits i 29 20 else (th.xr (rvRs2 i)).toNat
  if kind = 2 ∧ bits i 31 25 ≠ 0x40 then s.illegal
  else
    let go (vtype : W64) (vl : Nat) : Ran :=
      let s := s.setThread t { th with vtype := vtype, vl := BitVec.ofNat 64 vl, vstart := 0 }
      s.goX t (rvRd i) (BitVec.ofNat 64 vl) n
    match vlmaxOf vt with
    | none => go (BitVec.ofNat 64 (2 ^ 63)) 0
    | some m =>
      let avl := if kind = 3 then rvRs1 i else if rvRs1 i ≠ 0 then x1.toNat else if rvRd i ≠ 0 then 2 ^ 64 - 1 else th.vl.toNat
      go (BitVec.ofNat 64 vt) (if avl ≤ m then avl else if 2 * m ≤ avl then m else min m (max ((avl + 1) / 2) (Config.svcVl avl m)))
/-- The element reads of a vector load in order: the bytes, or what stops it. -/
def State.vecRead (s : State) (t : Thr) (host : List HostCpl) : List (Nat × Nat) → State × Option (List Byte) × Nat
  | [] => (s, some [], 0)
  | (a, len) :: rest =>
    let cause := if a % len = 0 then excLoadAccess else excLoadMisaligned
    match if a % len = 0 then s.svcRead t a len 1 host else (s, .fault) with
    | (s, .val n) =>
      let r := s.vecRead t (s.hostRest t a len host) rest
      (r.1, r.2.1.map (leBytes len n ++ ·), r.2.2)
    | (s, .failed) =>
      let r := (s.setThread t { s.thread t with hosterr := true }).vecRead t (s.hostRest t a len host) rest
      (r.1, r.2.1.map (List.replicate len 0xFF ++ ·), r.2.2)
    | (s, .fault) => (s, none, 2 ^ 8 * a + cause)
    | (s, .poisoned) => (s, none, 2 ^ 8 * a + 0x21)
    | (s, .wait) => (s, none, 0)
/-- The element writes of a vector store in order. -/
def State.vecWrite (s : State) (t : Thr) : List (Nat × Nat) → List Byte → State × Option Nat
  | [], _ => (s, none)
  | (a, len) :: rest, b =>
    match if a % len = 0 then s.svcWrite t a len (fld b 0 len) 2 else (s, .fault) with
    | (s, .ok) => s.vecWrite t rest (b.drop len)
    | (s, .fault) => (s, some (2 ^ 8 * a + if a % len = 0 then excStoreAccess else excStoreMisaligned))
    | (s, .wait) => (s, some 0)
/-- Vector loads and stores. -/
def State.vecMem (s : State) (t : Thr) (i n : Nat) (host : List HostCpl) : Ran :=
  let th := s.thread t
  match Config.svcVectorAddrs (BitVec.ofNat 32 i) th.v (th.xr (rvRs1 i)) (th.xr (rvRs2 i)) th.vtype th.vl th.vstart with
  | none => s.illegal
  | some l =>
    let go (s : State) (v : SMap (BitVec 256)) : Ran :=
      let th := s.thread t
      .on (s.setThread t { th with v := v, vstart := 0, pc := th.pc + BitVec.ofNat 64 n })
    if rvOp i = 0x07 then
      match s.vecRead t host l with
      | (s, some b, _) =>
        let w := Config.svcVectorLoaded (BitVec.ofNat 32 i) th.v th.vtype th.vl th.vstart b
        go (s.noteLoad t (BitVec.ofNat 64 (leNat b))) (w.foldl (fun m x => SMap.set m (x.1 % 32) x.2) th.v)
      | (s', none, 0) => .wait s'
      | (s', none, e) => .fault s' (e % 2 ^ 8) (BitVec.ofNat 64 (e / 2 ^ 8))
    else
      match s.vecWrite t l (Config.svcVectorStored (BitVec.ofNat 32 i) th.v th.vtype th.vl th.vstart) with
      | (s, none) => go (s.endSpin t) th.v
      | (s', some 0) => .wait s'
      | (s', some e) => .fault s' (e % 2 ^ 8) (BitVec.ofNat 64 (e / 2 ^ 8))
/-- A vector instruction on registers. -/
def State.vecInsn (s : State) (t : Thr) (i n : Nat) : Ran :=
  let th := s.thread t
  if rvF3 i = 7 then s.vsetInsn t i n
  else
    match Config.svcVector (BitVec.ofNat 32 i) th.v (th.xr (rvRs1 i)) (th.fr (rvRs1 i)) th.vtype th.vl th.vstart th.vcsr with
    | none => s.illegal
    | some o =>
      let th := { th with v := o.v.foldl (fun m x => SMap.set m (x.1 % 32) x.2) th.v, vcsr := o.vcsr, vstart := 0
                          pc := th.pc + BitVec.ofNat 64 n }
      let th := match o.x with | some v => th.setX (rvRd i) v | none => th
      .on (s.setThread t (match o.f with | some v => th.setF (rvRd i) v | none => th))

/-- Loads and stores of the integer and floating-point registers. -/
def State.memInsn (s : State) (t : Thr) (i n : Nat) (host : List HostCpl) : Ran :=
  let th := s.thread t
  let f3 := rvF3 i
  let len := accLen f3
  let isStore := rvOp i = 0x23 ∨ rvOp i = 0x27
  let a := th.xr (rvRs1 i) + if isStore then immS i else immI i
  if a.toNat % len ≠ 0 then .fault s (if isStore then excStoreMisaligned else excLoadMisaligned) a
  else if isStore then
    let v := if rvOp i = 0x23 then th.xr (rvRs2 i) else th.fr (rvRs2 i)
    s.storeThen t a len (v.toNat % 2 ^ (8 * len)) 2 fun s => s.goX t 0 0 n
  else
    s.loadThen t a len 1 excLoadAccess host fun s v =>
      if rvOp i = 0x03 then
        let x := loadExt f3 v
        (s.noteLoad t x).goX t (rvRd i) x n
      else
        let x := BitVec.ofNat 64 (if len = 4 then 2 ^ 64 - 2 ^ 32 + v else v)
        (s.noteLoad t x).goF t (rvRd i) x n
/-- An instruction of RV64GCV in its 32-bit form, `n` bytes long in the store. -/
def State.insn (s : State) (t : Thr) (i n : Nat) (host : List HostCpl) : Ran :=
  let th := s.thread t
  let a := th.xr (rvRs1 i)
  let b := th.xr (rvRs2 i)
  let f3 := rvF3 i
  let result (v : Option W64) : Ran := match v with | some v => s.goX t (rvRd i) v n | none => s.illegal
  match rvOp i with
  | 0x37 => s.goX t (rvRd i) (immU i) n
  | 0x17 => s.goX t (rvRd i) (th.pc + immU i) n
  | 0x6F => (s.setThread t (th.setX (rvRd i) (th.pc + BitVec.ofNat 64 n))).goTo t (th.pc + immJ i)
  | 0x67 =>
    if f3 = 0 then (s.setThread t (th.setX (rvRd i) (th.pc + BitVec.ofNat 64 n))).goTo t ((a + immI i) &&& ~~~1) else s.illegal
  | 0x63 =>
    match branch f3 a b with
    | some taken => s.goTo t (if taken then th.pc + immB i else th.pc + BitVec.ofNat 64 n)
    | none => s.illegal
  | 0x03 => if f3 = 7 then s.illegal else s.memInsn t i n host
  | 0x23 => if 3 < f3 then s.illegal else s.memInsn t i n host
  | 0x07 =>
    if f3 = 2 ∨ f3 = 3 then s.memInsn t i n host
    else if f3 = 0 ∨ 5 ≤ f3 then s.vecMem t i n host else s.illegal
  | 0x27 =>
    if f3 = 2 ∨ f3 = 3 then s.memInsn t i n host
    else if f3 = 0 ∨ 5 ≤ f3 then s.vecMem t i n host else s.illegal
  | 0x13 => result (aluImm i a)
  | 0x1B => result (aluImm32 i a)
  | 0x33 => result (alu (rvF7 i) f3 a b)
  | 0x3B => result (alu32 (rvF7 i) f3 a b)
  | 0x0F =>
    if i = 0x0100000F then
      let s := if th.spinning then s else s.putThread t { th with spinning := true, loads := [], poll := none }
      s.goX t 0 0 n
    else if f3 ≤ 1 then s.goX t 0 0 n else s.illegal
  | 0x2F => s.amoInsn t i n
  | 0x43 | 0x47 | 0x4B | 0x4F | 0x53 => s.floatInsn t i n
  | 0x57 => s.vecInsn t i n
  | 0x73 => s.systemInsn t i n
  | _ => s.illegal

/-- How a fetch ended. -/
inductive Fetched where
  /-- The 32-bit form, and the bytes it takes in the store: one halfword or two. -/
  | insn (i n : Nat)
  /-- A reserved 16-bit form. -/
  | reserved
  | fault (cause : Nat)
  | wait
  deriving DecidableEq, Repr
/-- The instruction at the thread's PC, fetched in halfwords with the right X (19 R576). -/
def State.fetch (s : State) (t : Thr) (host : List HostCpl) : State × Fetched :=
  let pc := (s.thread t).pc.toNat
  match s.svcRead t pc 2 4 host with
  | (s, .val lo) =>
    if lo % 4 ≠ 3 then (s, match expandC lo with | some i => .insn i 2 | none => .reserved)
    else
      match s.svcRead t (pc + 2) 2 4 (s.hostRest t pc 2 host) with
      | (s, .val hi) => (s, .insn (lo + 65536 * hi) 4)
      | (s, .wait) => (s, .wait)
      | (s, _) => (s, .fault excFetchAccess)
  | (s, .wait) => (s, .wait)
  | (s, _) => (s, .fault excFetchAccess)
/-- The thread after an instruction. -/
def settle (t : Thr) : Ran → State
  | .on s' => s'
  | .fault s' cause tval => s'.threadFault t cause tval
  | .wait s' => s'
/-- The next instruction of a thread: `want` names the channel instruction of a row, none for the rest of the set. -/
def State.runThread (s : State) (t : Thr) (want : Option Nat) (host : List HostCpl) : State :=
  if s.issues t && (s.svc t.grove).image.isSome then
    match s.fetch t host with
    | (s', .insn i n) =>
      match chanForm i, want with
      | some f3, some w => if f3 = w ∧ n = 4 then settle t (s'.chanInsn t f3 i) else s
      | some _, none => s
      | none, none =>
        let pc := (s.thread t).pc.toNat
        let host := s.hostRest t pc 2 host
        settle t (s'.insn t i n (if n = 4 then s.hostRest t (pc + 2) 2 host else host))
      | none, some _ => s
    | (s', .reserved) => if want.isNone then settle t s'.illegal else s
    | (s', .fault cause) => if want.isNone then settle t (.fault s' cause (s.thread t).pc) else s
    | (s', .wait) => s'
  else s

end Sys2Proof.Machine
end

