-- ==== Sys2Proof/Machine/Service.lean ====
section
/-! DEFINITION. Service images, the rows of the service threads, the slow path and the learning policy, and the SERVICE
commands (15). -/
namespace Sys2Proof.Machine

/-! ## Images (R443, R456 to R458) -/

/-- The digest of an image's header and body; none is the built-in image. -/
def imageDigest (b : Option (List Byte)) : List Byte :=
  leBytes 64 (Config.shake256 (match b with | some b => b.take (b.length - 1280) | none => Config.builtinImage)).toNat
/-- The threads of a grove. -/
def groveThreads (g : Nat) : List Thr := (List.range 64).map fun i => ⟨g, i / 4, i % 4⟩
/-- A table operation in progress completes. -/
def State.postTbl (s : State) (src : Nat) : State :=
  let x := s.tblSet src
  match x.due with
  | some (st, info, data) =>
    s.setTblSet src { x with busy := false, due := none, data := data, info := info, result := BitVec.ofNat 8 st, done := x.done + 1 }
  | none => s
/-- Cores in reset: held frames are freed, channels and rings are emptied (steps 1 and 2). -/
def State.emptyCores (s : State) (g : Nat) : State :=
  let s := (groveThreads g).foldl (fun s t => if (s.thread t).frame.isSome then s.dropHeld t else s) s
  let x := s.svc g
  let s := s.setSvc g { x with chans := [], logCi := x.logPi, candRing := [], candCi := x.candPi, still := [] }
  if g = s.cfg.policy.grove then { s with tb := { s.tb with log := [] } } else s
/-- A controller whose emulation has gone: its registers stay, its queues are lost (R459). -/
def NvCtl.stopped (c : NvCtl) : NvCtl := { cc := c.cc, aqa := c.aqa, asq := c.asq, acq := c.acq, intMask := c.intMask }
/-- Steps 1 to 5 of R457 on a grove: it starts an image. -/
def State.imageStart (s : State) (g : Nat) (image : Option (List Byte)) : State :=
  let s := ((s.emptyCores g).postTbl (svcSet g 0)).postTbl (svcSet g 1)
  let s := { s with nvc := s.nvc.map fun (x : Nat × NvCtl) => if fnPort x.1 = g then (x.1, x.2.stopped) else x }
  s.setSvc g { s.svc g with image := image, threads := [], l2 := [], heldInReset := false }
/-- The receiver and START bytes of a header are in range (R456). -/
def headerLegal (b : List Byte) : Bool :=
  let n := fld b 4 4
  fld b 0 4 == 0x5C1EA90D && n ≤ 7864320 && b.length == 1024 + n + 1280 &&
    (List.range 4).all (fun t => 0x100000 ≤ fld b (8 + 8 * t) 8 && fld b (8 + 8 * t) 8 < 0x100000 + n) &&
    ((slice b 40 480).all fun c => c.toNat < 64 || c == 0xFF) && (slice b 524 500).all (· == 0)
/-- GROVE_SERVICE_RESTART (R443): the grove supervisor has faulted. -/
def execGroveServiceRestart (g : Nat) (s : State) : Res :=
  whenRunning s fun s =>
    let x := s.svc g
    let sup : Thr := ⟨g, s.supCore g, 0⟩
    if s.threadThere sup ∧ (s.thread sup).parked = true ∧ x.heldInReset = false then
      let recent := x.restarts.filter fun r => s.clk < r + ms 3600000
      let faults := min ((x.faultWindow.map (·.2)).getD 0) 255
      if recent.length < 3 then
        let s := s.imageStart g x.image
        let s := s.setSvc g { s.svc g with restarts := recent ++ [s.clk], restartCount := x.restartCount + 1 }
        s.fireDev g 8 Ev.svcFault (BitVec.ofNat 32 (2 ^ 31 + 256 * faults + g))
      else
        let s := s.emptyCores g
        let s := s.setSvc g { s.svc g with heldInReset := true }
        s.fireDev g 8 Ev.svcFault (BitVec.ofNat 32 (2 ^ 31 + 2 ^ 30 + 256 * faults + g))
    else s

/-! ## The rows of the threads (R434 to R455) -/

/-- SVC_INSTRUCTION: the next instruction of a thread of a custom image but for the channel instructions. What the
threads of the built-in image do is the built-in services'. -/
def execSvcInstruction (t : Thr) (host : List HostCpl) (s : State) : Res :=
  whenRunning s fun s => s.runThread t none host
/-- CH_PUT, CH_SEND, CH_RECV, CH_GET, CH_POLL: the channel instruction the thread stands at. -/
def execChPut (t : Thr) (s : State) : Res := whenRunning s fun s => s.runThread t (some 0) []
def execChSend (t : Thr) (s : State) : Res := whenRunning s fun s => s.runThread t (some 1) []
def execChRecv (t : Thr) (s : State) : Res := whenRunning s fun s => s.runThread t (some 2) []
def execChGet (t : Thr) (s : State) : Res := whenRunning s fun s => s.runThread t (some 3) []
def execChPoll (t : Thr) (s : State) : Res := whenRunning s fun s => s.runThread t (some 4) []
/-- A cause of a fault (R440, R441). -/
def faultCause (c : Nat) : Bool := [1, 2, 3, 4, 5, 6, 7, 11, 0x20, 0x21].contains c
/-- THREAD_FAULT (R440): among them the uncorrectable errors, which no instruction shows by itself. -/
def execThreadFault (t : Thr) (cause : Nat) (tval : W64) (s : State) : Res :=
  whenRunning s fun s => if s.issues t ∧ faultCause cause = true then s.threadFault t cause tval else s
/-- 2^20 core cycles at 2.4 GHz in units of 0.25 ns, rounded up. -/
def stillUnits : Nat := 1747627
/-- STILLNESS_DETECT (R445). -/
def execStillnessDetect (g c : Nat) (s : State) : Res :=
  whenRunning s fun s =>
    match SMap.get (s.svc g).still c with
    | some y =>
      match y.since with
      | some t =>
        if y.fired then s
        else
          let s := s.upTo (t + stillUnits - y.counted)
          let x := s.svc g
          let s := s.setSvc g { x with still := SMap.set x.still c { y with fired := true } }
          ((s.notify g (1 + c) (notice 2 0 c 0 0 0 0)).svcCtr g 4 1).fireDev g 8 Ev.still (BitVec.ofNat 32 (g + 16 * c))
      | none => s
    | none => s
/-- CHANNEL_STALE (R450). -/
def execChannelStale (g ch : Nat) (s : State) : Res :=
  whenRunning s fun s =>
    let x := s.svc g
    match (x.chan ch).res with
    | some r =>
      if r.stale then s
      else
        let s := s.upTo (r.start + stillUnits)
        let s := s.setSvc g (x.setChan ch { x.chan ch with res := some { r with stale := true } })
        let m := notice 3 0 (r.thread / 4) (r.thread % 4) ch (x.thread r.thread).pc 1048576
        ((s.notify g (1 + r.thread / 4) m).svcCtr g 5 1).fireDev g 8 Ev.chStale (BitVec.ofNat 32 (g + 65536 * ch))
    | none => s
/-- CH_RELEASE (R451; 19 R589): of a halted thread, while the grove is open for debug. -/
def State.chRelease (s : State) (g ch : Nat) : State :=
  let x := s.svc g
  match (x.chan ch).res with
  | some r =>
    let t : Thr := ⟨g, r.thread / 4, r.thread % 4⟩
    if s.debugOpen g ∧ (s.thread t).halted = true then
      let s := s.setSvc g (x.setChan ch { x.chan ch with res := none })
      s.setThread t { s.thread t with aborts := ch :: (s.thread t).aborts.filter (· != ch) }
    else s
  | none => s
def execChRelease (g ch : Nat) (s : State) : Res := whenRunning s fun s => s.chRelease g ch
/-- A write of a device register by a thread that issues (R437). The built-in image's own writes are taken to pass the
firebreak. -/
def svcStore (s : State) (t : Thr) (off len v : Nat) : State :=
  if s.issues t then
    if (s.svc t.grove).image.isNone then s.devWrite t off len v
    else
    match s.svcWrite t (0x10000000 + off) len v 2 with
    | (s, .ok) => s.endSpin t
    | (s, _) => s.threadFault t excStoreAccess (BitVec.ofNat 64 (0x10000000 + off))
  else s
/-- FRM_TAKE, FRM_ALLOC, FRM_SEND, FRM_FREE: FRM_CMD written with their OP (R453, R454). -/
def frmRow (op : Nat) (t : Thr) (v : W64) (s : State) : State := if eBits v 3 0 = op then svcStore s t 0x1000 8 v.toNat else s
def execFrmTake (t : Thr) (v : W64) (s : State) : Res := whenRunning s (frmRow 1 t v)
def execFrmAlloc (t : Thr) (v : W64) (s : State) : Res := whenRunning s (frmRow 2 t v)
def execFrmSend (t : Thr) (v : W64) (s : State) : Res := whenRunning s (frmRow 3 t v)
def execFrmFree (t : Thr) (v : W64) (s : State) : Res := whenRunning s (frmRow 4 t v)
/-- SVC_RESTART_WRITE (R438, R442). -/
def execSvcRestartWrite (t : Thr) (v : BitVec 4) (s : State) : Res :=
  whenRunning s fun s => if s.issues t then s.svcRestart t v.toNat else s
/-- GROVE_RESTART_WRITE (R442, R455). -/
def execGroveRestartWrite (t : Thr) (v : BitVec 16) (s : State) : Res := whenRunning s fun s => svcStore s t 0x1100 8 v.toNat
/-- A ring index is written by the service cores of a grove: thread 0 of its first live core stands for them. -/
def State.ringWriter (s : State) (g : Nat) : Thr := ⟨g, s.supCore g, 0⟩
/-- LOG_CI_WRITE and CAND_CI_WRITE (R455). -/
def execLogCiWrite (g : Nat) (v : W32) (s : State) : Res :=
  whenRunning s fun s => svcStore s (s.ringWriter g) 0x3008 8 v.toNat
def execCandCiWrite (g : Nat) (v : W32) (s : State) : Res :=
  whenRunning s fun s => svcStore s (s.ringWriter g) 0x3018 8 v.toNat

/-! ## The slow path and the learning policy (R463, R464) -/

/-- The built-in services of a grove run. -/
def State.builtinRuns (s : State) (g : Nat) : Bool :=
  g < s.groves && (s.svc g).image.isNone && !(s.svc g).heldInReset && !(s.live 0x05 g 16).isEmpty && !s.groveFailed g
/-- A flow entry (08 R227). -/
def flowEntry (key part user action : Nat) (trail : Bool) : BitVec 512 :=
  BitVec.ofNat 512 (2 ^ 128 * key + 2 ^ 127 + 2 ^ 126 * b2n trail + 2 ^ 112 * part + 65536 * user + action)
/-- An INSERT of the built-in image through a table set, as the operator principal (R463). -/
def State.builtinInsert (s : State) (e : BitVec 512) : State × TblAns := s.hashOp operator 3 1 0 e fun _ => false
/-- The entry of a grove's slow-path cache with a key. -/
def State.slowFind (s : State) (g key : Nat) : Option SlowEntry :=
  (s.cfg.slowpath.find? fun x => x.1 / 16384 == g && x.2.key.toNat == key).map (·.2)
/-- What the slow path does with a frame before it sends it: the state and the action it sends it under. -/
def State.slowDecide (s : State) (g : Nat) (f : FrameRec) : State × Nat :=
  let h := parseHdrs f.window
  let key := beNat (flowKey f.window (mdTenant f.md) h)
  match if bit h.bits 2 || bit h.bits 3 then s.slowFind g key else none with
  | some e =>
    let r := s.builtinInsert (flowEntry key e.part 0 e.action e.trail)
    if r.2.status = St.ok ∨ r.2.status = St.exists_ then (r.1.svcCtr g 8 1, e.action)
    else (r.1.svcCtr g 9 1, s.cfg.policy.puntAction)
  | none => (s.svcCtr g 9 1, s.cfg.policy.puntAction)
/-- The slow path of the built-in image takes the head of the exception queue, when the home slice takes new frames (15 R463). -/
def State.slowTake (s : State) (g : Nat) : State :=
  match s.sinkQueue g .exception with
  | t :: _ =>
    match s.frame t with
    | some f =>
      if s.builtinRuns g ∧ s.maySource g = true then
        let b := f.edited.getD f.bytes
        let r := (s.svcCtr g 0 1).slowDecide g f
        let s := r.1.svcSend g (mdTenant f.md) (b.take (b.length - 4)) (some r.2)
        (s.dropTag g t).reap t
      else s
    | none => s
  | [] => s
/-- SLOWPATH_FRAME (R463). -/
def execSlowpathFrame (g : Nat) (s : State) : Res := whenRunning s fun s => s.slowTake g
/-- POLICY_CANDIDATE (R464). -/
def execPolicyCandidate (g : Nat) (s : State) : Res :=
  whenRunning s fun s =>
    let x := s.svc g
    match x.candRing with
    | r :: rest =>
      if s.builtinRuns g then
        let s := s.setSvc g { x with candRing := rest, candCi := x.candCi + 1 }
        if bit s.cfg.policy.acceptMask r.cls && r.cls < 16 then
          ((s.builtinInsert (flowEntry r.key.toNat s.cfg.policy.part (r.ra.toNat % 65536) r.action true)).1).svcCtr g 10 1
        else s.svcCtr g 11 1
      else s
    | [] => s
/-- LEARN_LOG_MOVE (R464): in the policy grove. -/
def execLearnLogMove (s : State) : Res :=
  whenRunning s fun s =>
    let g := s.cfg.policy.grove
    match s.tb.log with
    | r :: rest =>
      if s.builtinRuns g then
        let st := s.sv.store ++ [r]
        let x := s.svc g
        { s.setSvc g { x with logCi := x.logCi + 1 } with
          tb := { s.tb with log := rest }
          sv := { (s.setSvc g { x with logCi := x.logCi + 1 }).sv with store := st.drop (st.length - 8192) } }
      else s
    | [] => s

/-! ## Commands (R465) -/

/-- SERVICE.STAGE. -/
def svcStageBody : Body := fun s r =>
  let p := r.payload
  let off := fld p 4 4
  let n := fld p 8 2
  chk (12 ≤ p.length && p.length == 12 + n && fld p 0 1 ≤ 1 && zeroAt p 1 3 && zeroAt p 10 2 && 1 ≤ n && n ≤ 4000 &&
    off + n ≤ 8388608) St.badArg <|
  let old := if bit (fld p 0 1) 0 then [] else SMap.getD s.sv.staging r.mb []
  done { s with sv := { s.sv with staging := SMap.set s.sv.staging r.mb (putBytes old off (p.drop 12)) } }
def execServiceStage (s : State) : Res := slaotRow 0x0C01 svcStageBody s
/-- The gate of the grove commands: every grove named is owned (R465; 06 R182). -/
def svcGate (s : State) (r : Request) (gs : List Nat) (k : Except Nat Done) : Except Nat Done :=
  chk (gs.all (· < s.groves)) St.notPresent <| chk (s.groveGate r.actor gs) St.notOwner k
/-- SERVICE.LOAD (R457). -/
def svcLoadBody : Body := fun s r =>
  let p := r.payload
  let gs := maskBits (fld p 0 2) 16
  let builtin := bit (fld p 2 1) 0
  let img := getBytes (SMap.getD s.sv.staging r.mb []) 0 (fld p 4 4)
  let mayActAs (f : Nat) : Bool := s.mayAct { r with actAs := true, acting := f }
  chk (p.length == 8 && !gs.isEmpty && fld p 2 1 ≤ 1 && zeroAt p 3 1 && (builtin || (2304 ≤ fld p 4 4 && fld p 4 4 ≤ 8388608)))
    St.badArg <|
  svcGate s r gs <|
  chk (!gs.any fun g => s.isHeld (.image g)) St.busy <|
  let works := !gs.any s.groveFailed
  if builtin then chk works St.internal <| startOp s r gs.length (.svcLoad gs none)
  else
    chk (s.nv.serviceKey.any fun k => Config.fnDsaVerify k img) St.badAuth <|
    chk (headerLegal img) St.badArg <|
    chk (mayActAs (fld img 520 2) && mayActAs (fld img 522 2)) St.denied <|
    chk works St.internal <| startOp s r gs.length (.svcLoad gs (some img))
def execServiceLoad (s : State) : Res := slaotRow 0x0C02 svcLoadBody s
/-- SERVICE_LOAD_STEP (R457): the next grove. -/
def execServiceLoadStep (h : Nat) (s : State) : Res :=
  whenRunning s (opRow h (fun s _ => s) fun s o =>
    match o.data with
    | .svcLoad (g :: gs) img =>
      let s := (s.imageStart g img).extend 4 (Config.measured (.service g (imageDigest img)))
      let s := (s.setSvc g { s.svc g with restarts := [] }).setOp { o with data := .svcLoad gs img }
      if gs.isEmpty then s.endOp { o with data := .svcLoad gs img } St.ok else s
    | .svcLoad [] _ => s.endOp o St.ok
    | _ => s)
/-- A read of one grove. -/
def svcRead1 (k : State → Nat → List Byte) : Body := fun s r =>
  let g := fld r.payload 0 1
  chk (r.payload.length == 1 && g < 16) St.badArg <| svcGate s r [g] <| done s (k s g)
/-- SERVICE.GET. -/
def svcGetBody : Body := svcRead1 fun s g =>
  let x := s.svc g
  leBytes 1 (b2n x.image.isNone) ++ (List.range 16).flatMap (fun c => leBytes 1 (s.parkedBits g c)) ++
    leBytes 4 x.restartCount ++ (imageDigest x.image).take 32
def execServiceGet (s : State) : Res := slaotRow 0x0C03 svcGetBody s
/-- SERVICE.STATS. -/
def svcStatsBody : Body := svcRead1 fun s g => ctrBytes (s.svc g).ctrs 12
def execServiceStats (s : State) : Res := slaotRow 0x0C04 svcStatsBody s
/-- SERVICE.SLOWPATH_SET (R463). -/
def slowpathSetBody : Body := fun s r =>
  let p := r.payload
  let gs := maskBits (fld p 0 2) 16
  let i := fld p 2 2
  let e : SlowEntry := ⟨BitVec.ofNat 384 (beNat (slice p 4 48)), fld p 52 2, fld p 54 1, bit (fld p 55 1) 0⟩
  chk (p.length == 56 && !gs.isEmpty && i < 16384 && fld p 55 1 ≤ 3) St.badArg <|
  svcGate s r gs <|
  chk (s.owns r.actor 6 (256 + fld p 54 1)) St.notOwner <|
  chk (!gs.any s.groveFailed) St.internal <|
  let put (m : SMap SlowEntry) (g : Nat) := if bit (fld p 55 1) 1 then SMap.set m (16384 * g + i) e else SMap.del m (16384 * g + i)
  done { s with cfg := { s.cfg with slowpath := gs.foldl put s.cfg.slowpath } }
def execServiceSlowpathSet (s : State) : Res := slaotRow 0x0C07 slowpathSetBody s
/-- The learn log follows the policy to another grove. -/
def State.movePolicy (s : State) (old : Nat) : State :=
  if s.cfg.policy.grove = old then s
  else
    let x := s.svc old
    let s := s.setSvc old { x with logCi := x.logPi }
    s.tb.log.foldl State.logToRing (s.setSvc s.cfg.policy.grove { s.svc s.cfg.policy.grove with
      logCi := (s.svc s.cfg.policy.grove).logPi })
/-- SERVICE.POLICY_SET. -/
def policySetBody : Body := fun s r =>
  let p := r.payload
  chk (p.length == 8 && fld p 0 1 < 16 && zeroAt p 6 2) St.badArg <|
  chk (fld p 0 1 < s.groves) St.notPresent <| chk (r.actor == operator) St.notOwner <|
  done ({ s with cfg := { s.cfg with
    policy := ⟨fld p 0 1, fld p 1 1, fld p 2 2, fld p 4 2⟩ } }.movePolicy s.cfg.policy.grove)
def execServicePolicySet (s : State) : Res := slaotRow 0x0C08 policySetBody s
/-- SERVICE.LEARN_READ. -/
def learnReadBody : Body := fun s r =>
  chk (r.payload.length == 8) St.badArg <|
  done s (((s.sv.store.filter fun x => fld r.payload 0 8 ≤ x.seq).take 125).flatMap LearnRec.image)
def execServiceLearnRead (s : State) : Res := slaotRow 0x0C09 learnReadBody s

end Sys2Proof.Machine
end

