-- ==== Sys2Proof/Machine/Nvme.lean ====
section
/-! DEFINITION. The emulated NVMe controllers (15 R459 to R462): their registers, queues, admin and I/O commands, and the
SERVICE commands that set them up. Codes of NVM Express that the spec does not print are PRESUMED from that standard. -/
namespace Sys2Proof.Machine

/-! ## Controllers and registers (R459 to R461) -/

/-- A controller of a function, as reset leaves it until it is touched. -/
def State.ctl (s : State) (f : Nat) : NvCtl := SMap.getD s.nvc f {}
def State.setNv (s : State) (f : Nat) (c : NvCtl) : State := { s with nvc := SMap.set s.nvc f c }
def State.nvCfg (s : State) (f : Nat) : NvmeCfg := SMap.getD s.cfg.nvme f {}
/-- A function that has a controller (R461): PF1, or a VF of PF1. -/
def State.hasNvme (s : State) (f : Nat) : Bool :=
  fnPort f < s.groves && match vfOf f with | some v => 512 ≤ v | none => fnLocal f == 1
/-- Largest number of I/O queues (R460). -/
def nvQueues (f : Nat) : Nat := if (vfOf f).isSome then 30 else 128
/-- CSTS: CFS while the built-in image does not run in the grove (R459). -/
def State.csts (s : State) (f : Nat) : Nat :=
  b2n (s.ctl f).rdy + 2 * b2n (!s.builtinRuns (fnPort f)) + 4 * (s.ctl f).shst
/-- CAP (R460). -/
def nvCap : Nat := 4095 + 2 ^ 16 + 2 ^ 24 * 20 + 2 ^ 32 * 10 + 2 ^ 37 + 2 ^ 52 * 4
/-- The 32-bit register at an offset of slot page 0. -/
def State.nvReg (s : State) (f off : Nat) : Nat :=
  let c := s.ctl f
  match off with
  | 0x00 => nvCap % 2 ^ 32 | 0x04 => nvCap / 2 ^ 32 | 0x08 => 0x00020000
  | 0x0C | 0x10 => c.intMask.toNat
  | 0x14 => c.cc.toNat | 0x1C => s.csts f | 0x24 => c.aqa.toNat
  | 0x28 => c.asq % 2 ^ 32 | 0x2C => c.asq / 2 ^ 32 | 0x30 => c.acq % 2 ^ 32 | 0x34 => c.acq / 2 ^ 32
  | _ => 0
/-- Admin queues as AQA, ASQ and ACQ give them. -/
def NvCtl.start (c : NvCtl) : NvCtl :=
  { c with rdy := true, sqs := [(0, { base := c.asq, size := bits c.aqa.toNat 11 0 + 1, cq := 0 })]
           cqs := [(0, { base := c.acq, size := bits c.aqa.toNat 27 16 + 1 })] }
/-- The bits of CC, and of AQA, that NVM Express does not reserve; the others read zero (00 R5). -/
def ccMask : W32 := 0x00FFFFF1
def aqaMask : W32 := 0x0FFF0FFF
/-- A write of CC (R461): EN, and the shutdown notification. -/
def State.writeCc (s : State) (f : Nat) (v : W32) : State :=
  let v := v &&& ccMask
  let c := s.ctl f
  let was := c.cc.getLsbD 0
  let c := { c with cc := v, shst := if bits v.toNat 15 14 = 0 then c.shst else 2 }
  if !s.builtinRuns (fnPort f) then s.setNv f c
  else if !was && v.getLsbD 0 then
    s.setNv f (if (s.nvCfg f).enable && bits v.toNat 6 4 == 0 && bits v.toNat 10 7 ≤ 4 then { c with shst := 0 }.start else c)
  else if was && !v.getLsbD 0 then s.setNv f { c.stopped with intMask := 0 }
  else s.setNv f c
/-- A write of a register of slot page 0 other than CC. -/
def State.nvRegWrite (s : State) (f off : Nat) (v : Nat) : State :=
  let c := s.ctl f
  match off with
  | 0x0C => s.setNv f { c with intMask := c.intMask ||| BitVec.ofNat 32 v }
  | 0x10 => s.setNv f { c with intMask := c.intMask &&& ~~~BitVec.ofNat 32 v }
  | 0x14 => s.writeCc f (BitVec.ofNat 32 v)
  | 0x24 => s.setNv f { c with aqa := BitVec.ofNat 32 v &&& aqaMask }
  | 0x28 => s.setNv f { c with asq := c.asq / 2 ^ 32 * 2 ^ 32 + v % 2 ^ 32 / 4096 * 4096 }
  | 0x2C => s.setNv f { c with asq := c.asq % 2 ^ 32 + 2 ^ 32 * (v % 2 ^ 32) }
  | 0x30 => s.setNv f { c with acq := c.acq / 2 ^ 32 * 2 ^ 32 + v % 2 ^ 32 / 4096 * 4096 }
  | 0x34 => s.setNv f { c with acq := c.acq % 2 ^ 32 + 2 ^ 32 * (v % 2 ^ 32) }
  | _ => s

/-! ## Transfers and completions -/

/-- The controller executes commands now. -/
def State.nvReady (s : State) (f : Nat) : Bool :=
  s.hasNvme f && s.builtinRuns (fnPort f) && (s.ctl f).rdy && s.canDma f && !(s.fn f).d3hot
/-- Writes of the built-in image into host memory as a function, under the master ID of its grove's service cores (R437,
R438; 12 R363, R365). -/
def State.svcHostWrites (s : State) (f : Nat) (l : List (Nat × List Byte)) : State × Dma :=
  s.dmaWritesBy (svcMaster (fnPort f)) f none false l
/-- Reads of the built-in image from host memory, in order; `acc` holds their completions. -/
def State.svcHostReads (s : State) (f : Nat) : List (Nat × Nat) → List HostCpl → List Byte → (State × Asked) × List Byte
  | [], _, got => ((s, .ok), got)
  | x :: rest, acc, got =>
    match s.askRead f none (svcMaster (fnPort f)) x.1 x.2 acc with
    | ((s, .ok), b) => s.svcHostReads f rest (acc.drop (splitAccess x.1 x.2 (s.fn f).mrrs).length) (got ++ b)
    | r => (r.1, [])
/-- Bytes laid over the pieces a data pointer names. -/
def spread : List (Nat × Nat) → List Byte → List (Nat × List Byte)
  | [], _ => []
  | (a, n) :: ps, b => if b.isEmpty then [] else (a, b.take n) :: spread ps (b.drop n)
/-- A completion queue has room for an entry. -/
def NvCq.room (q : NvCq) : Bool := (q.tail + 1) % q.size != q.head
/-- Entries of a completion queue that the host has not consumed, with its head at `head`. -/
def NvCq.used (q : NvCq) (head : Nat) : Nat := (q.tail + q.size - head) % q.size
/-- The completion queue of a submission queue can take `n` entries. -/
def NvCtl.takes (c : NvCtl) (sq n : Nat) : Bool :=
  (SMap.get c.sqs sq).any fun q => (SMap.get c.cqs q.cq).any fun k => k.used k.head + n < k.size
/-- A completion queue entry. -/
def cqe (dw0 head sq cid : Nat) (phase : Bool) (status : Nat) : List Byte :=
  leBytes 4 dw0 ++ zeros 4 ++ leBytes 2 head ++ leBytes 2 sq ++ leBytes 2 cid ++ leBytes 2 (b2n phase + 2 * status)
/-- Status of a command whose data could not be moved: Data Transfer Error. -/
def nvTransferError : Nat := 0x04
/-- An entry is written into the completion queue of a submission queue and interrupts; `old` stands when the queue is full
or a translation is still to come. An entry that its write is denied, or that no translation lets through, is lost with its
interrupt. -/
def State.nvEntry (old s : State) (f sq cid dw0 status : Nat) : State :=
  let c := s.ctl f
  match SMap.get c.sqs sq with
  | none => old
  | some q =>
    match SMap.get c.cqs q.cq with
    | none => old
    | some cq =>
      if !cq.room then old
      else
        match s.svcHostWrites f [(cq.base + 16 * cq.tail, cqe dw0 q.head sq cid cq.phase status)] with
        | (_, .waits) => (old.svcHostWrites f [(cq.base + 16 * cq.tail, zeros 16)]).1
        | (s, .ok) =>
          let t := (cq.tail + 1) % cq.size
          let s := s.setNv f { c with cqs := SMap.set c.cqs q.cq { cq with tail := t, phase := if t = 0 then !cq.phase else cq.phase } }
          if cq.ien && ((s.fn f).msixEnable || !c.intMask.getLsbD cq.vec) then s.interrupt f cq.vec else s
        | (s, _) => s
/-- A command completes: its data is written, then its entry. Data that cannot be written makes the status a Data Transfer
Error. -/
def State.nvPost (old s : State) (f sq cid dw0 status : Nat) (data : List (Nat × List Byte)) : State :=
  match s.svcHostWrites f data with
  | (_, .waits) => (old.svcHostWrites f data).1
  | (s, .ok) => State.nvEntry old s f sq cid dw0 status
  | (s, _) => State.nvEntry old s f sq cid 0 nvTransferError
/-- Status codes: generic, and command specific as 0x100 on. -/
def nvInvalidOpcode : Nat := 0x01
def nvInvalidField : Nat := 0x02
/-- The DNR bit of an error, which the spec leaves open but for the transient transport error. -/
def State.dnr (s : State) (status : Nat) : Nat × State := let (v, s) := s.fresh 1; (status + 2 ^ 14 * v.toNat, s)
/-- What a command answers: its new state, DWORD 0 and the data it writes; or a status. -/
abbrev NvAns := Except Nat (State × Nat × List (Nat × List Byte))
/-- The 64 bytes of an entry hold the command's fields. -/
def sqeHolds (b : List Byte) (e : Sqe) : Bool :=
  fld b 0 1 == e.opc && fld b 2 2 == e.cid && fld b 4 4 == e.nsid && fld b 24 8 == e.prp1 && fld b 40 4 == e.cdw10.toNat &&
    fld b 44 4 == e.cdw11.toNat && fld b 48 4 == e.cdw12.toNat
/-- The command at the head of a submission queue is read and taken, and the data it reads from the host with it, at `rd`:
none when that cannot be read. `k` runs it over its entry and data. An entry that cannot be read is not taken. -/
def State.nvFetch (s : State) (f sq : Nat) (e : Sqe) (rd : List (Nat × Nat)) (k : State → List Byte → Option (List Byte) → State) : State :=
  match SMap.get (s.ctl f).sqs sq with
  | some q =>
    if s.nvReady f && q.head != q.tail then
      match s.svcHostReads f [(q.base + 64 * q.head, 64)] e.host [] with
      | ((s1, .ok), b) =>
        if sqeHolds b e then
          let n := (splitAccess (q.base + 64 * q.head) 64 (s.fn f).mrrs).length
          let take (s : State) : State :=
            s.setNv f { s.ctl f with sqs := SMap.set (s.ctl f).sqs sq { q with head := (q.head + 1) % q.size } }
          match s1.svcHostReads f rd (e.host.drop n) [] with
          | ((s2, .ok), d) => k (take s2) b (some d)
          | ((s2, .waits), _) => s2
          | ((s2, _), _) => k (take s2) b none
        else s
      | ((s1, _), _) => s1
    else s
  | none => s
/-- What a command answered is completed. -/
def State.nvAnswer (old s : State) (f sq : Nat) (e : Sqe) : NvAns → State
  | .ok (t, dw0, data) => State.nvPost old t f sq e.cid dw0 0 data
  | .error st =>
    let (st, t) := s.dnr st
    State.nvPost old (t.setNv f { t.ctl f with errors := (t.ctl f).errors + 1 }) f sq e.cid 0 st []
/-- The command at the head of a submission queue is taken, run and completed. -/
def State.nvRun (s : State) (f sq : Nat) (e : Sqe) (k : State → NvAns) : State :=
  s.nvFetch f sq e [] fun t _ _ => State.nvAnswer s t f sq e (k t)
/-- An admin command by its opcode. -/
def nvAdmin (op f : Nat) (e : Sqe) (k : State → NvAns) (s : State) : State := if e.opc = op then s.nvRun f 0 e k else s
/-- An asynchronous event: reported on a waiting request, kept until there is one, or masked (Asynchronous Event
Request). DWORD 0 holds type, information and log page. -/
def State.nvEvent (s : State) (f dw0 : Nat) : State :=
  let c := s.ctl f
  if c.masked.contains (dw0 % 8) || !c.rdy then s
  else
    match if c.takes 0 1 then c.aers else [] with
    | cid :: rest => State.nvPost s (s.setNv f { c with aers := rest, masked := dw0 % 8 :: c.masked }) f 0 cid dw0 0 []
    | [] => if c.events.contains dw0 then s else s.setNv f { c with events := c.events ++ [dw0] }

/-! ## Registers written by the host -/

/-- A host write to slot page `pg` of a function that has a controller. -/
def nvHost (s : State) (f pg off : Nat) (k : State → State) : State :=
  if s.hasNvme f then hostRequest s f (0x0400 + fnPort f) 2 (0x1000 * pg + off) 4 k else s
/-- NVME_CC_WRITE (R461). -/
def execNvmeCcWrite (f : Nat) (v : W32) (s : State) : Res :=
  whenServing s fun s => nvHost s f 0 0x14 fun s => s.writeCc f v
/-- An invalid doorbell write: its event, error status with information 0 or 1 and log page 01h. -/
def State.nvBadDoorbell (s : State) (f info : Nat) : State := s.nvEvent f (2 ^ 8 * info + 2 ^ 16)
/-- A tail doorbell write. -/
def State.nvSqTail (s : State) (f y v : Nat) : State :=
  let c := s.ctl f
  match SMap.get c.sqs y with
  | some q => if v < q.size then s.setNv f { c with sqs := SMap.set c.sqs y { q with tail := v } } else s.nvBadDoorbell f 1
  | none => s.nvBadDoorbell f 0
/-- NVME_SQ_TAIL_DOORBELL (R461). -/
def execNvmeSqTailDoorbell (f y v : Nat) (s : State) : Res :=
  whenServing s fun s =>
    if y ≤ nvQueues f then nvHost s f (1 + 2 * y) 0 fun s => s.nvSqTail f y v else s
/-- A head doorbell write. -/
def State.nvCqHead (s : State) (f y v : Nat) : State :=
  let c := s.ctl f
  match SMap.get c.cqs y with
  | some q =>
    if v < q.size && q.used v ≤ q.used q.head then s.setNv f { c with cqs := SMap.set c.cqs y { q with head := v } }
    else s.nvBadDoorbell f 1
  | none => s.nvBadDoorbell f 0
/-- NVME_CQ_HEAD_DOORBELL (R461). -/
def execNvmeCqHeadDoorbell (f y v : Nat) (s : State) : Res :=
  whenServing s fun s =>
    if y ≤ nvQueues f then nvHost s f (2 + 2 * y) 0 fun s => s.nvCqHead f y v else s

/-! ## Admin commands (R460) -/

/-- Low and high half of a command dword. -/
def lo16 (v : W32) : Nat := bits v.toNat 15 0
def hi16 (v : W32) : Nat := bits v.toNat 31 16
/-- CREATE_IO_SQ. -/
def execNvCreateIoSq (f : Nat) (e : Sqe) (s : State) : Res :=
  whenRunning s (nvAdmin 0x01 f e fun s =>
    let c := s.ctl f
    let id := lo16 e.cdw10
    let n := hi16 e.cdw10
    if id = 0 ∨ nvQueues f < id ∨ (SMap.get c.sqs id).isSome = true then .error 0x101
    else if n = 0 ∨ 4095 < n then .error 0x102
    else if !e.cdw11.getLsbD 0 then .error nvInvalidField
    else if e.prp1 % 4096 ≠ 0 then .error 0x13
    else if hi16 e.cdw11 = 0 ∨ nvQueues f < hi16 e.cdw11 then .error 0x101
    else if (SMap.get c.cqs (hi16 e.cdw11)).isNone then .error 0x100
    else .ok (s.setNv f { c with sqs := SMap.set c.sqs id { base := e.prp1, size := n + 1, cq := hi16 e.cdw11 } }, 0, []))
/-- DELETE_IO_SQ: the commands of the queue that the target has not answered end Aborted. -/
def execNvDeleteIoSq (f : Nat) (e : Sqe) (s : State) : Res :=
  let waiting := ((s.ctl f).io.filter (·.sq == lo16 e.cdw10)).length
  if waiting ≠ 0 ∧ (s.ctl f).takes (lo16 e.cdw10) waiting = false then .next s
  else whenRunning s (nvAdmin 0x00 f e fun s =>
    let c := s.ctl f
    let id := lo16 e.cdw10
    if id = 0 ∨ (SMap.get c.sqs id).isNone = true then .error 0x101
    else
      let s := (c.io.filter (·.sq == id)).foldl (fun s i =>
        let s' := s.setNv f { s.ctl f with io := (s.ctl f).io.filter (· != i) }
        State.nvPost s' s' f id i.cid 0 0x08 []) s
      .ok (s.setNv f { s.ctl f with sqs := SMap.del (s.ctl f).sqs id }, 0, []))
/-- Interrupt vectors of a function (12 R354). -/
def nvVectors (f : Nat) : Nat := if (vfOf f).isSome then 64 else 2048
/-- CREATE_IO_CQ. -/
def execNvCreateIoCq (f : Nat) (e : Sqe) (s : State) : Res :=
  whenRunning s (nvAdmin 0x05 f e fun s =>
    let c := s.ctl f
    let id := lo16 e.cdw10
    let n := hi16 e.cdw10
    if id = 0 ∨ nvQueues f < id ∨ (SMap.get c.cqs id).isSome = true then .error 0x101
    else if n = 0 ∨ 4095 < n then .error 0x102
    else if !e.cdw11.getLsbD 0 then .error nvInvalidField
    else if e.prp1 % 4096 ≠ 0 then .error 0x13
    else if nvVectors f ≤ hi16 e.cdw11 then .error 0x108
    else .ok (s.setNv f { c with cqs := SMap.set c.cqs id { base := e.prp1, size := n + 1, vec := hi16 e.cdw11, ien := e.cdw11.getLsbD 1 } }, 0, []))
/-- DELETE_IO_CQ. -/
def execNvDeleteIoCq (f : Nat) (e : Sqe) (s : State) : Res :=
  whenRunning s (nvAdmin 0x04 f e fun s =>
    let c := s.ctl f
    let id := lo16 e.cdw10
    if id = 0 ∨ (SMap.get c.cqs id).isNone = true then .error 0x101
    else if c.sqs.any fun q => q.2.cq == id then .error 0x10C
    else .ok (s.setNv f { c with cqs := SMap.del c.cqs id }, 0, []))
/-- `n` bytes whose values the spec leaves open, and the state after them. -/
def State.freeBytes (s : State) (n : Nat) : List Byte × State :=
  ((List.range n).map fun i => Config.freeValue 8 (s.free + i), s.drawn n)
/-- Bytes replaced at an offset. -/
def patch (b : List Byte) (o : Nat) (v : List Byte) : List Byte := b.take o ++ v ++ b.drop (o + v.length)
/-- The event type whose mask reading a log page clears. -/
def logType (lid : Nat) : Option Nat := match lid with | 1 => some 0 | 2 => some 1 | 4 => some 2 | _ => none
/-- GET_LOG_PAGE: pages 01h to 03h hold what the spec leaves open; 04h lists the namespaces that have changed. -/
def execNvGetLogPage (f : Nat) (e : Sqe) (s : State) : Res :=
  whenRunning s (nvAdmin 0x02 f e fun s =>
    let c := s.ctl f
    let lid := bits e.cdw10.toNat 7 0
    let n := 4 * (hi16 e.cdw10 + 65536 * lo16 e.cdw11 + 1)
    let off := e.cdw12.toNat
    if lid = 0 ∨ 4 < lid then .error nvInvalidField
    else
      let (page, s) := if lid = 4 then (c.changed.flatMap (leBytes 4) ++ zeros (4096 - 4 * c.changed.length), s) else s.freeBytes (off + n)
      let kept := e.cdw10.getLsbD 15
      let c := s.ctl f
      let c := if kept then c else { c with masked := c.masked.filter fun t => logType lid != some t, changed := if lid = 4 then [] else c.changed }
      .ok (s.setNv f c, 0, spread e.dptr (slice page off n)))
/-- Namespaces of a function: key 64 FUNCTION + NSID. -/
def State.ns (s : State) (f n : Nat) : Option NvmeNs := if 1 ≤ n ∧ n ≤ 32 then SMap.get s.cfg.namespaces (64 * f + n) else none
/-- The 4,096 bytes Identify returns, for the CNS values supported. -/
def State.identifyData (s : State) (f cns nsid : Nat) : Except Nat (List Byte × State) :=
  match cns with
  | 0 =>
    if nsid = 0 ∨ 32 < nsid then .error 0x0B
    else
      match s.ns f nsid with
      | none => .ok (zeros 4096, s)
      | some x =>
        let (b, s) := s.freeBytes 4096
        let b := patch (patch b 0 (leBytes 8 x.sizeLbas ++ leBytes 8 x.sizeLbas)) 25 [0, 0, 0, 0, 0]
        .ok (patch b 128 (leBytes 4 (65536 * x.lbaLog2)), s)
  | 1 =>
    let (b, s) := s.freeBytes 4096
    let serial := (s.nvCfg f).serial
    let b := patch (patch b 4 (serial ++ List.replicate (20 - serial.length) 0x20)) 77 [8]
    let b := patch (patch (patch b 80 (leBytes 4 0x00020000)) 92 (leBytes 4 0x100)) 259 [3]
    .ok (patch (patch (patch b 512 [0x66, 0x44]) 516 (leBytes 4 32)) 520 (leBytes 2 0x0C), s)
  | 2 =>
    let l := ((List.range 33).filter fun n => nsid < n && (s.ns f n).isSome).flatMap (leBytes 4)
    .ok (l ++ zeros (4096 - l.length), s)
  | 3 =>
    if nsid = 0 ∨ 32 < nsid ∨ (s.ns f nsid).isNone = true then .error 0x0B else .ok (s.freeBytes 4096)
  | _ => .error nvInvalidField
/-- IDENTIFY. -/
def execNvIdentify (f : Nat) (e : Sqe) (s : State) : Res :=
  whenRunning s (nvAdmin 0x06 f e fun s =>
    match s.identifyData f (bits e.cdw10.toNat 7 0) e.nsid with
    | .ok (b, s) => .ok (s, 0, spread e.dptr b)
    | .error st => .error st)
/-- ABORT: a command that waits for its target, or a waiting Asynchronous Event Request, ends; bit 0 of DWORD 0 says
that none was aborted. -/
def execNvAbort (f : Nat) (e : Sqe) (s : State) : Res :=
  if (s.ctl f).takes (lo16 e.cdw10) 2 = false ∧ (SMap.get (s.ctl f).sqs (lo16 e.cdw10)).isSome = true then .next s
  else whenRunning s (nvAdmin 0x08 f e fun s =>
    let c := s.ctl f
    let sq := lo16 e.cdw10
    let cid := hi16 e.cdw10
    match c.io.find? fun i => i.sq == sq && i.cid == cid with
    | some i =>
      let s' := s.setNv f { c with io := c.io.filter (· != i) }
      .ok (State.nvPost s s' f sq cid 0 0x07 [], 0, [])
    | none =>
      if sq = 0 ∧ c.aers.contains cid = true then
        let s' := s.setNv f { c with aers := c.aers.filter (· != cid) }
        .ok (State.nvPost s s' f 0 cid 0 0x07 [], 0, [])
      else .ok (s, 1, []))
/-- A feature R460 supports, and its value before it is set. -/
def nvFeature (f fid : Nat) : Option Nat :=
  match fid with
  | 0x01 | 0x06 | 0x08 | 0x09 => some 0
  | 0x07 => some ((nvQueues f - 1) * 65537)
  | 0x0B => some 0x100
  | _ => none
/-- SET_FEATURES: Number of Queues answers what is granted, and is taken only before an I/O queue exists. -/
def execNvSetFeatures (f : Nat) (e : Sqe) (s : State) : Res :=
  whenRunning s (nvAdmin 0x09 f e fun s =>
    let c := s.ctl f
    let fid := bits e.cdw10.toNat 7 0
    if (nvFeature f fid).isNone then .error nvInvalidField
    else if e.cdw10.getLsbD 31 then .error 0x10D
    else if fid = 7 then
      if lo16 e.cdw11 = 0xFFFF ∨ hi16 e.cdw11 = 0xFFFF then .error nvInvalidField
      else if 1 < c.sqs.length ∨ 1 < c.cqs.length then .error 0x0C
      else
        let v := min (lo16 e.cdw11) (nvQueues f - 1) + 65536 * min (hi16 e.cdw11) (nvQueues f - 1)
        .ok (s.setNv f { c with features := SMap.set c.features 7 v }, v, [])
    else .ok (s.setNv f { c with features := SMap.set c.features fid e.cdw11.toNat }, 0, []))
/-- GET_FEATURES: the value in DWORD 0. -/
def execNvGetFeatures (f : Nat) (e : Sqe) (s : State) : Res :=
  whenRunning s (nvAdmin 0x0A f e fun s =>
    let fid := bits e.cdw10.toNat 7 0
    match nvFeature f fid with
    | some d => .ok (s, SMap.getD (s.ctl f).features fid d, [])
    | none => .error nvInvalidField)
/-- ASYNCHRONOUS_EVENT_REQUEST: it waits for an event, up to four of them. -/
def execNvAsyncEventRequest (f : Nat) (e : Sqe) (s : State) : Res :=
  whenRunning s fun s =>
    let c := s.ctl f
    if e.opc ≠ 0x0C then s
    else if 4 ≤ c.aers.length then s.nvRun f 0 e fun _ => .error 0x105
    else
      match c.events.filter fun d => !c.masked.contains (d % 8) with
      | d :: _ =>
        s.nvRun f 0 e fun s => .ok (s.setNv f { s.ctl f with events := (s.ctl f).events.filter (· != d), masked := d % 8 :: (s.ctl f).masked }, d, [])
      | [] => s.nvFetch f 0 e [] fun s _ _ => s.setNv f { s.ctl f with aers := (s.ctl f).aers ++ [e.cid] }
/-- INVALID_COMMAND_OPCODE: an admin or I/O opcode that R460 does not list. -/
def execNvInvalidOpcode (f sq : Nat) (e : Sqe) (s : State) : Res :=
  whenRunning s fun s =>
    let listed := if sq = 0 then [0x00, 0x01, 0x02, 0x04, 0x05, 0x06, 0x08, 0x09, 0x0A, 0x0C] else [0x00, 0x01, 0x02, 0x08, 0x09]
    if listed.contains e.opc then s else s.nvRun f sq e fun _ => .error nvInvalidOpcode

/-! ## I/O commands (R460, R462; 17 R516) -/

/-- The LBA a command starts at. -/
def sqeLba (e : Sqe) : Nat := e.cdw10.toNat + 2 ^ 32 * e.cdw11.toNat
/-- The checks of an I/O command on a namespace, over `blocks` from an LBA. -/
def State.nsCheck (s : State) (f : Nat) (e : Sqe) (lba blocks : Nat) (data : Bool) : Except Nat NvmeNs :=
  if e.nsid = 0 ∨ 32 < e.nsid then .error 0x0B
  else
    match s.ns f e.nsid with
    | none => .error nvInvalidField
    | some x =>
      if x.keyHandle ≠ 0 ∧ (s.cipherKey x.keyHandle).isNone = true then .error 0x82
      else if data && 1048576 < blocks * 2 ^ x.lbaLog2 then .error nvInvalidField
      else if x.sizeLbas < lba + blocks then .error 0x80
      else .ok x
/-- A command goes to its namespace's target through the canopy (01 R19): frames of the grove's service cores carry it over
NVMe/TCP, and frames of its remote-access engine over MRA. -/
def State.nvSend (s : State) (g : Nat) (x : NvmeNs) (entry data : List Byte) : State :=
  (Config.nvmeRequest x.kind x.target entry data s.free).foldl (fun s (m : BitVec 16 × List Byte) =>
    if x.kind = 1 then s.svcSend g m.1.toNat m.2 none
    else (s.enterFrame g 4 g (steerOf 4 g) m.1.toNat (wireFrame m.2) true fun f => f).2) (s.drawn 1)
/-- `n` frames at the head of a service input queue are taken; none when fewer wait there. -/
def State.takeInput (s : State) (g q : Nat) : Nat → Option State
  | 0 => some s
  | n + 1 =>
    match s.sinkQueue g (serviceSink q) with
    | t :: _ => ((s.takeSink g t).svcCtr g 0 1).takeInput g q n
    | [] => none
/-- The answer of a namespace's target is there: over NVMe/TCP, in the frames of a service input queue, which are taken. -/
def State.nvReply (s : State) (g : Nat) (x : NvmeNs) (e : Sqe) : Option State :=
  if x.kind ≠ 1 then some s
  else if e.reply.2 = 0 ∨ e.reply.1 = 0 ∨ 255 ≤ e.reply.1 then none
  else s.takeInput g e.reply.1 e.reply.2
/-- A command that waits for its target and has missed IO_TIMEOUT_MS (R462). -/
def State.nvLate (s : State) (f : Nat) (i : NvIo) : Bool := i.start + ms (s.nvCfg f).timeoutMs < s.clk
/-- A waiting command ends with a status, after its data. -/
def State.nvEnd (old s : State) (f : Nat) (i : NvIo) (status : Nat) (data : List (Nat × List Byte)) : State :=
  State.nvPost old (s.setNv f { s.ctl f with io := (s.ctl f).io.filter (· != i) }) f i.sq i.cid 0 status data
/-- An I/O command: it goes to the target with the data it reads from the host at `rd`, and waits for the answer; when the
answer has come, it completes with what the target sent (R462). -/
def nvIo (op f sq : Nat) (e : Sqe) (lba blocks : Nat) (moves : Bool) (rd : List (Nat × Nat)) (answer : Option (List Byte)) (s : State) : State :=
  let g := fnPort f
  if e.opc ≠ op ∨ sq = 0 then s
  else
    match (s.ctl f).io.find? fun i => i.sq == sq && i.cid == e.cid with
    | some i =>
      if !s.nvReady f then s
      else if s.nvLate f i then State.nvEnd s s f i 0x22 []
      else
        match answer, (s.ns f e.nsid).bind fun x => s.nvReply g x e with
        | some b, some t => State.nvEnd s t f i 0 (spread e.dptr b)
        | _, _ => s
    | none =>
      match s.nsCheck f e lba blocks moves with
      | .error st => s.nvRun f sq e fun _ => .error st
      | .ok x =>
        if !s.maySource g then s
        else
          s.nvFetch f sq e rd fun t entry data =>
            match data with
            | none => State.nvPost s t f sq e.cid 0 nvTransferError []
            | some d =>
              let t := t.nvSend g x entry d
              match answer, t.nvReply g x e with
              | some b, some u => State.nvPost s u f sq e.cid 0 0 (spread e.dptr b)
              | _, _ => t.setNv f { t.ctl f with io := (t.ctl f).io ++ [⟨sq, e.cid, t.clk⟩] }
/-- Blocks of NLB. -/
def nlb (e : Sqe) : Nat := lo16 e.cdw12 + 1
/-- An answer without data. -/
def plainAnswer (answered : Bool) : Option (List Byte) := if answered then some [] else none
/-- FLUSH. -/
def execNvFlush (f sq : Nat) (e : Sqe) (answered : Bool) (s : State) : Res :=
  whenRunning s (nvIo 0x00 f sq e 0 0 false [] (plainAnswer answered))
/-- NVME_WRITE: the data read from the host goes to the target. -/
def execNvWrite (f sq : Nat) (e : Sqe) (data : List (Nat × Nat)) (answered : Bool) (s : State) : Res :=
  whenRunning s (nvIo 0x01 f sq e (sqeLba e) (nlb e) true data (plainAnswer answered))
/-- NVME_READ: what the target answers is written to the host. -/
def execNvRead (f sq : Nat) (e : Sqe) (answer : Option (List Byte)) (s : State) : Res :=
  whenRunning s (nvIo 0x02 f sq e (sqeLba e) (nlb e) true [] answer)
/-- WRITE_ZEROES. -/
def execNvWriteZeroes (f sq : Nat) (e : Sqe) (answered : Bool) (s : State) : Res :=
  whenRunning s (nvIo 0x08 f sq e (sqeLba e) (nlb e) false [] (plainAnswer answered))
/-- DATASET_MANAGEMENT: its ranges are read from the host and go to the target. -/
def execNvDatasetManagement (f sq : Nat) (e : Sqe) (answered : Bool) (s : State) : Res :=
  whenRunning s (nvIo 0x09 f sq e 0 0 false e.dptr (plainAnswer answered))
/-- NVME_IO_TIMEOUT (R462): Transient Transport Error with DNR 0. -/
def execNvmeIoTimeout (f sq cid : Nat) (s : State) : Res :=
  whenRunning s fun s =>
    let c := s.ctl f
    match c.io.find? fun i => i.sq == sq && i.cid == cid with
    | some i =>
      if s.nvReady f then
        let s := s.upToClk (i.start + ms (s.nvCfg f).timeoutMs)
        State.nvEnd s s f i 0x22 []
      else s
    | none => s

/-! ## Commands (R462, R465) -/

/-- The gate of the NVMe commands: PF2 of the host port, or the operator principal. -/
def nvGate (s : State) (r : Request) (f : Nat) (k : Except Nat Done) : Except Nat Done :=
  chk (fnPort f < 16 && match vfOf f with | some v => 512 ≤ v | none => fnLocal f == 1) St.badArg <|
  chk (fnPort f < s.groves) St.notPresent <|
  chk (r.actor == operator || r.actor == pf2 (fnPort f)) St.notOwner k
/-- SERVICE.NVME_SET. -/
def nvmeSetBody : Body := fun s r =>
  let p := r.payload
  let f := fld p 0 2
  chk (p.length == 28 && fld p 2 1 ≤ 1 && zeroAt p 3 1 && 100 ≤ fld p 4 4 && fld p 4 4 ≤ 60000 && (slice p 8 20).all (·.toNat < 128))
    St.badArg <|
  nvGate s r f <| chk (!s.groveFailed (fnPort f)) St.internal <|
  done { s with cfg := { s.cfg with nvme := SMap.set s.cfg.nvme f ⟨fld p 2 1 == 1, fld p 4 4, slice p 8 20⟩ } }
def execServiceNvmeSet (s : State) : Res := slaotRow 0x0C05 nvmeSetBody s
/-- SERVICE.NVME_NS_SET: a change raises Namespace Attribute Changed. -/
def nvmeNsSetBody : Body := fun s r =>
  let p := r.payload
  let f := fld p 0 2
  let n := fld p 2 1
  let kind := fld p 3 1
  let h := fld p 16 4
  let key := s.cipherKey h
  chk (20 ≤ p.length && p.length ≤ 276 && 1 ≤ n && n ≤ 32 && kind ≤ 2 && (fld p 4 1 == 9 || fld p 4 1 == 12) && zeroAt p 5 3) St.badArg <|
  chk (h == 0 || s.hasCipher) St.notPresent <|
  nvGate s r f <|
  chk (h == 0 || key.isSome) St.notFound <|
  chk (h == 0 || key.any fun k => k.owner == f || k.owner == pf2 (fnPort f)) St.notOwner <|
  chk (h == 0 || key.any fun k => 4 ≤ k.alg && bit k.use 0) St.badArg <|
  chk (!s.groveFailed (fnPort f)) St.internal <|
  let i := 64 * f + n
  let ns := if kind = 0 then SMap.del s.cfg.namespaces i else SMap.set s.cfg.namespaces i ⟨kind, fld p 4 1, fld p 8 8, h, p.drop 20⟩
  let s := { s with cfg := { s.cfg with namespaces := ns } }
  let c := s.ctl f
  let s := if c.rdy then s.setNv f { c with changed := if c.changed.contains n then c.changed else c.changed ++ [n] } else s
  done (if bit (SMap.getD c.features 0x0B 0x100) 8 then s.nvEvent f (2 + 2 ^ 16 * 4) else s)
def execServiceNvmeNsSet (s : State) : Res := slaotRow 0x0C06 nvmeNsSetBody s

end Sys2Proof.Machine
end

