-- ==== Sys2Proof/Machine/Remote.lean ====
section
/-! DEFINITION. Remote memory access (16): keys, connections, the packets of both transports, and the requester's side.
The receiver's side is in `Receive` and `Roce`. -/
namespace Sys2Proof.Machine

/-- A connection (R467). -/
def State.conn (s : State) (c : Nat) : Conn := SMap.getD s.ra.conns c {}
/-- The state with a connection replaced. -/
def State.setConn (s : State) (c : Nat) (x : Conn) : State := { s with ra := { s.ra with conns := SMap.set s.ra.conns c x } }
/-- Counter `i` of R504 of an engine raised by `n`. -/
def State.raCtr (s : State) (g i n : Nat) : State :=
  { s with ra := { s.ra with ctrs := SMap.set s.ra.ctrs g ((SMap.getD s.ra.ctrs g []).add i n) } }
/-- The addresses of an engine (R502). -/
def State.raCfg (s : State) (g : Nat) : RaCfg := SMap.getD s.cfg.remote g {}
/-- The engine of a grove works: neither it nor its grove has failed (21 R614, R616). -/
def State.raWorks (s : State) (g : Nat) : Bool := !s.isFenced 0x07 g 0 && !s.groveFailed g
/-- `a − b` of 32-bit sequence numbers, read as a signed number (R485). -/
def sdiff (a b : W32) : Int := (a - b).toInt

/-! ## Remote keys (R470 to R475) -/

/-- A key entry. -/
def State.remKey (s : State) (k : Nat) : RemKey := SMap.getD s.ra.keys k {}
/-- The state with a key entry replaced. -/
def State.setRemKey (s : State) (k : Nat) (e : RemKey) : State := { s with ra := { s.ra with keys := SMap.set s.ra.keys k e } }
/-- GEN of an index: drawn at the start until the first key advances it (R472). -/
def State.keyGen (s : State) (k : Nat) : Nat := (s.remKey k).gen.getD (Config.randomDraw 12 (s.ra.draw + k)).toNat
/-- The event block of a key's revoke (R501). -/
def RemKey.block (e : RemKey) : Nat := if e.target = 0 then fnPort e.fn else 0
/-- The record of R471. -/
def RemKey.record (e : RemKey) (k : Nat) : List Byte :=
  leBytes 4 k ++ leBytes 1 e.target ++ leBytes 1 e.rights ++ leBytes 1 (b2n e.pasidEn) ++ zeros 1 ++ leBytes 2 e.fn ++
    leBytes 2 e.tenant ++ leBytes 4 e.pasid ++ leBytes 8 e.low ++ leBytes 8 e.high
/-- The key entry that a KEY_SET payload writes. -/
def readKey (p : List Byte) : RemKey :=
  { valid := true, target := fld p 4 1, rights := fld p 5 1, pasidEn := bit (fld p 6 1) 0, fn := fld p 8 2
    tenant := fld p 10 2, pasid := fld p 12 4, low := fld p 16 8, high := fld p 24 8 }
/-- The values of a KEY_SET payload are in range (R471). -/
def State.keyOk (s : State) (p : List Byte) (actor : Nat) : Bool :=
  let e := readKey p
  fld p 0 4 < 2 ^ 20 && e.rights < 8 && fld p 6 1 < 2 && zeroAt p 7 1 && e.low < e.high &&
    (if e.pasidEn then e.pasid < 2 ^ 20 else e.pasid == 0) &&
    match e.target with
    | 0 => s.groves ≤ fnPort e.fn || (s.fnPresent e.fn && (e.fn == actor || actor == operator))
    | 1 => e.fn == 0xFFFF && actor == operator && e.high ≤ 0x3000000000
    | _ => false
/-- REMOTE.KEY_SET (R471): over a valid index it is a revoke of the old key too (R475). -/
def keySetBody : Body := fun s r =>
  let p := r.payload
  let k := fld p 0 4
  let e := readKey p
  let old := s.remKey k
  let gen := (s.keyGen k + 1) % 4096
  chk (p.length == 32 && s.keyOk p r.actor) St.badArg <|
  chk (e.target == 1 || fnPort e.fn < s.groves) St.notPresent <| chk (s.owns r.actor 5 k) St.notOwner <|
  chk (e.target == 1 || s.raWorks (fnPort e.fn)) St.internal <|
  done (s.setRemKey k { e with gen := some gen, revoking := if old.valid then old.revoking ++ [old.block] else old.revoking })
    (leBytes 4 (2 ^ 20 * gen + k))
def execRemoteKeySet (s : State) : Res := slaotRow 0x0701 keySetBody s
/-- The checks of a command on one key index. -/
def keyCmd (f : State → Nat → Except Nat Done) : Body := fun s r =>
  let k := fld r.payload 0 4
  chk (r.payload.length == 4 && k < 2 ^ 20) St.badArg <| chk (s.owns r.actor 5 k) St.notOwner <| f s k
/-- REMOTE.KEY_GET (R502). -/
def keyGetBody : Body := keyCmd fun s k =>
  done s ((s.remKey k).record k ++ leBytes 2 (s.keyGen k) ++ leBytes 1 (b2n (s.remKey k).valid) ++ zeros 1)
def execRemoteKeyGet (s : State) : Res := slaotRow 0x0702 keyGetBody s
/-- REMOTE.KEY_REVOKE (R475). -/
def keyRevokeBody : Body := keyCmd fun s k =>
  let e := s.remKey k
  chk (!e.valid || e.target == 1 || s.raWorks (fnPort e.fn)) St.internal <|
  done (s.setRemKey k { e with valid := false, gen := some ((s.keyGen k + 1) % 4096), revoking := e.revoking ++ [e.block] })
def execRemoteKeyRevoke (s : State) : Res := slaotRow 0x0703 keyRevokeBody s
/-- KEY_REVOKE_DRAINED (R475). -/
def execKeyRevokeDrained (k : Nat) (s : State) : Res :=
  whenRunning s fun s =>
    let e := s.remKey k
    match e.revoking with
    | b :: rest => (s.setRemKey k { e with revoking := rest }).fireDev b 9 Ev.keyRevoked (BitVec.ofNat 32 k)
    | [] => s

/-- The check of R473: the reason of the first failure. `right` is the bit of RIGHTS asked for. -/
def State.keyCheck (s : State) (key addr len right : Nat) (c : Nat) (x : Conn) : Option Nat :=
  let e := s.remKey (key % 2 ^ 20)
  if !e.valid || s.keyGen (key % 2 ^ 20) != key / 2 ^ 20 then some 3
  else if e.tenant ≠ 0xFFFF ∧ e.tenant ≠ x.set.tenant then some 6
  else if e.target = 0 ∧ fnPort e.fn ≠ c / 65536 then some 3
  else if !bit e.rights right then some 5
  else if addr < e.low ∨ e.high < addr ∨ e.high - addr < len then some 4
  else none
/-- A check has failed: counted, and reported at most once in a window (R501). -/
def State.keyViolation (s : State) (g key reason : Nat) : State :=
  let s := s.raCtr g 12 1
  if (SMap.get s.ra.violation g).any fun t => s.clk < t + ms 1000 then s
  else
    ({ s with ra := { s.ra with violation := SMap.set s.ra.violation g s.clk } }).fireDev g 9 Ev.keyViolation
      (BitVec.ofNat 32 (key % 2 ^ 20 + 2 ^ 20 * reason))

/-! ## Connection commands (R468, R469, R502, R503) -/

/-- SEG of a connection (R484). -/
def ConnSet.seg (c : ConnSet) : Nat := 2 ^ c.segLog2
/-- The settings a CONN_SET payload gives. -/
def readConn (p : List Byte) : ConnSet :=
  { qp := fld p 4 2, transport := fld p 6 1, ipv6 := bit (fld p 7 1) 0, paths := fld p 8 1, segLog2 := fld p 9 1
    retryLimit := fld p 10 1, rnrLimit := fld p 11 1, rnrDelayUs := fld p 12 2, tenant := fld p 14 2, rtoUs := fld p 16 4
    remoteConn := fld p 20 4, dmac := slice p 24 6, vid := fld p 30 2, dscp := fld p 32 1, sport := fld p 34 2
    maxInflight := fld p 36 4, remoteIp := slice p 40 16, txStart := BitVec.ofNat 32 (fld p 56 4)
    rxStart := BitVec.ofNat 32 (fld p 60 4) }
/-- The record of R503. -/
def ConnSet.record (x : ConnSet) (c : Nat) : List Byte :=
  leBytes 4 c ++ leBytes 2 x.qp ++ leBytes 1 x.transport ++ leBytes 1 (b2n x.ipv6) ++ leBytes 1 x.paths ++
    leBytes 1 x.segLog2 ++ leBytes 1 x.retryLimit ++ leBytes 1 x.rnrLimit ++ leBytes 2 x.rnrDelayUs ++ leBytes 2 x.tenant ++
    leBytes 4 x.rtoUs ++ leBytes 4 x.remoteConn ++ x.dmac ++ leBytes 2 x.vid ++ leBytes 1 x.dscp ++ zeros 1 ++
    leBytes 2 x.sport ++ leBytes 4 x.maxInflight ++ x.remoteIp ++ leBytes 4 x.txStart.toNat ++ leBytes 4 x.rxStart.toNat
/-- The settings are in range (R503, R500). -/
def ConnSet.ok (x : ConnSet) (p : List Byte) : Bool :=
  x.transport ≤ 1 && fld p 7 1 ≤ 1 && 1 ≤ x.paths && x.paths ≤ 16 && 10 ≤ x.segLog2 && x.segLog2 ≤ 13 &&
    1 ≤ x.retryLimit && x.retryLimit ≤ 7 && x.rnrLimit ≤ 7 && 1 ≤ x.rnrDelayUs && x.rnrDelayUs ≤ 10000 &&
    10 ≤ x.rtoUs && x.rtoUs ≤ 10000 && x.vid < 4096 && x.dscp ≤ 63 && zeroAt p 33 1 && 0xC000 ≤ x.sport &&
    x.sport ≤ 0xFFF0 && x.seg ≤ x.maxInflight && x.maxInflight ≤ 67108864 &&
    if x.transport = 0 then x.remoteConn < 2 ^ 20
    else x.paths == 1 && x.segLog2 ≤ 12 && x.remoteConn < 2 ^ 24 && x.txStart.toNat < 2 ^ 24 && x.rxStart.toNat < 2 ^ 24
/-- A connection as CONN_SET makes it (R468). -/
def ConnSet.open_ (x : ConnSet) (now : Nat) : Conn :=
  { state := 1, set := x, nextMsg := x.txStart, rxBase := x.rxStart, cwnd := x.maxInflight, window := now
    txPsn := x.txStart.toNat, rxPsn := x.rxStart.toNat }
/-- The gate of a connection: the owner of its queue pair; the operator while it is in RESET (R467). -/
def State.ownsConn (s : State) (f c : Nat) : Bool := f == operator || ((s.conn c).state != 0 && s.owns f 2 (s.conn c).set.qp)
/-- REMOTE.CONN_SET. -/
def connSetBody : Body := fun s r =>
  let p := r.payload
  let c := fld p 0 4
  let x := readConn p
  chk (p.length == 64 && c < 2 ^ 20 && x.ok p && x.qp / 4096 == c / 65536) St.badArg <|
  chk (c / 65536 < s.groves) St.notPresent <|
  chk (s.owns r.actor 2 x.qp && ((s.conn c).state == 0 || s.ownsConn r.actor c)) St.notOwner <|
  chk ((s.qpOf x.qp).set.kind == 2) St.badArg <|
  chk ((s.conn c).state == 0) St.busy <| chk (s.raWorks (c / 65536)) St.internal <|
  done (s.setConn c (x.open_ s.clk))
def execRemoteConnSet (s : State) : Res := slaotRow 0x0704 connSetBody s
/-- The checks of a command on one connection. -/
def connCmd (k : State → Nat → Except Nat Done) : Body := fun s r =>
  let c := fld r.payload 0 4
  chk (r.payload.length == 4 && c < 2 ^ 20) St.badArg <| chk (c / 65536 < s.groves) St.notPresent <|
  chk (s.ownsConn r.actor c) St.notOwner <| k s c
/-- UNA and ASN_UNA (R469). -/
def Conn.una (x : Conn) : W32 := (x.tx.head?.map (·.id)).getD x.nextMsg
def TxMsg.isAtomic (m : TxMsg) : Bool := 0x24 ≤ m.op && m.op ≤ 0x26
def Conn.asnUna (x : Conn) : W32 := ((x.tx.find? (·.isAtomic)).map (·.asn)).getD x.nextAsn
/-- RECV_POSTED (R469). -/
def Conn.posted (x : Conn) : Nat := (x.bufs.filter (!·.isEmpty)).length
/-- REMOTE.CONN_GET: the widths of the R469 fields are the model's (assumption log 46). -/
def connGetBody : Body := connCmd fun s c =>
  let x := s.conn c
  done s (x.set.record c ++ leBytes 1 x.state ++ leBytes 1 x.reason ++ zeros 2 ++
    ([x.nextMsg.toNat, x.una.toNat, x.nextAsn.toNat, x.asnUna.toNat, x.nextSsn.toNat, x.cwnd, x.rxBase.toNat,
      x.recvBase.toNat, x.posted].flatMap (leBytes 4)))
def execRemoteConnGet (s : State) : Res := slaotRow 0x0705 connGetBody s
/-- The jobs outstanding on a connection: those that name it, and those the device originated for it. -/
def State.connJobs (s : State) (c : Nat) : List W32 :=
  let x := s.conn c
  let q := x.set.qp
  (((s.qpOf q).jobs.filter fun j => j.st == .running && !j.byDevice && s.jobConn q j == some c).map (·.slot)) ++
    x.ctxs.filterMap (·.slot) ++ x.records.map (·.slot)
/-- REMOTE.CONN_RESET (R468). -/
def connResetBody : Body := connCmd fun s c =>
  let q := (s.conn c).set.qp
  let works := s.raWorks (c / 65536)
  let s := (s.connJobs c).foldl (fun s j => s.endJob q j St.queueError 12 0) s
  chk works St.internal <| done { s with ra := { s.ra with conns := SMap.del s.ra.conns c } }
def execRemoteConnReset (s : State) : Res := slaotRow 0x0706 connResetBody s
/-- REMOTE.ENGINE_SET (R502): the addresses are kept as packets carry them, in network order (00 R3). -/
def engineSetBody : Body := fun s r =>
  let p := r.payload
  let g := fld p 0 1
  chk (p.length == 32 && g < 16 && zeroAt p 1 1 && zeroAt p 10 2) St.badArg <| chk (g < s.groves) St.notPresent <|
  chk (r.actor == operator) St.notOwner <| chk (!s.groveFailed g) St.internal <|
  done { s with cfg := { s.cfg with
    remote := SMap.set s.cfg.remote g ⟨fld p 2 2, slice p 4 6, (slice p 12 4).reverse, (slice p 16 16).reverse⟩ } }
def execRemoteEngineSet (s : State) : Res := slaotRow 0x0707 engineSetBody s
/-- REMOTE.STATS (R504). -/
def remoteStatsBody : Body := fun s r =>
  let g := fld r.payload 0 1
  chk (r.payload.length == 4 && g < 16 && zeroAt r.payload 1 3) St.badArg <| chk (g < s.groves) St.notPresent <|
  done s (ctrBytes (SMap.getD s.ra.ctrs g []) 22)
def execRemoteStats (s : State) : Res := slaotRow 0x0708 remoteStatsBody s

/-! ## Packets (R482 to R484) -/

/-- The fields of the MRA header. -/
structure Mra where
  version : Nat := 1
  type : Nat
  retx : Bool := false
  notify : Bool := false
  ece : Bool := false
  path : Nat := 0
  sub : Nat := 0
  dest : Nat
  id : W32
  off : Nat := 0
  total : Nat := 0
  rkey : Nat := 0
  addr : Nat := 0
  imm : W32 := 0
  src : Nat
  deriving DecidableEq, Repr
/-- The 40 bytes of an MRA header (R483). -/
def Mra.bytes (h : Mra) : List Byte :=
  beBytes 1 (16 * h.version + h.type) ++ beBytes 1 (128 * b2n h.retx + 64 * b2n h.notify + 32 * b2n h.ece) ++
    beBytes 1 (16 * h.path) ++ beBytes 1 h.sub ++ beBytes 4 (4096 * h.dest) ++ beBytes 4 h.id.toNat ++ beBytes 4 h.off ++
    beBytes 4 h.total ++ beBytes 4 h.rkey ++ beBytes 8 h.addr ++ beBytes 4 h.imm.toNat ++ beBytes 4 h.src
/-- The MRA header at the start of bytes. -/
def readMra (b : List Byte) : Mra :=
  let f := nfld b 1 1
  { version := nfld b 0 1 / 16, type := nfld b 0 1 % 16, retx := bit f 7, notify := bit f 6, ece := bit f 5
    path := nfld b 2 1 / 16, sub := nfld b 3 1, dest := nfld b 4 4 / 4096, id := BitVec.ofNat 32 (nfld b 8 4)
    off := nfld b 12 4, total := nfld b 16 4, rkey := nfld b 20 4, addr := nfld b 24 8
    imm := BitVec.ofNat 32 (nfld b 32 4), src := nfld b 36 4 % 2 ^ 20 }
/-- An MRA packet: header, payload, and the trailer in network order (R482). -/
def mraPacket (h : Mra) (payload : List Byte) : List Byte :=
  let b := h.bytes ++ payload
  b ++ beBytes 4 (crc32c b).toNat

/-- The Ethernet frame of a datagram of a connection, without its check sequence (R482). The IPv4 identification, the
IPv6 flow label and the priority of a tag are not stated: `open_` is a free value. -/
def netFrame (e : RaCfg) (x : ConnSet) (sport dport : Nat) (open_ : W32) (data : List Byte) : List Byte :=
  let tag := if x.vid = 0 then [] else [0x81, 0x00] ++ beBytes 2 (4096 * bits open_.toNat 31 28 + x.vid)
  let udp := beBytes 2 sport ++ beBytes 2 dport ++ beBytes 2 (data.length + 8) ++ zeros 2 ++ data
  let eth := x.dmac ++ e.mac ++ tag
  let tos := 4 * x.dscp + 2
  if x.ipv6 then
    let ip := beBytes 4 (6 * 2 ^ 28 + tos * 2 ^ 20 + bits open_.toNat 19 0) ++ beBytes 2 udp.length ++ [17, 64] ++ e.ipv6 ++
      zeros (16 - e.ipv6.length) ++ x.remoteIp
    let b := ip ++ udp
    eth ++ [0x86, 0xDD] ++ setAt b 46 (beBytes 2 (udp6Checksum b 0 40))
  else
    let ip := [0x45] ++ beBytes 1 tos ++ beBytes 2 (udp.length + 20) ++ beBytes 2 (bits open_.toNat 15 0) ++
      [0x40, 0x00, 64, 17] ++ zeros 2 ++ e.ipv4 ++ x.remoteIp.take 4
    eth ++ [0x08, 0x00] ++ setAt ip 10 (beBytes 2 (inetChecksum ip)) ++ udp
/-- A datagram of a connection enters the canopy with CHECK 1; with CHECK 3 when its last `lost` bytes could not be read
(R499). -/
def State.sendNet (s : State) (c sport dport : Nat) (data : List Byte) (lost : Option Nat := none) : State :=
  let g := c / 65536
  let x := s.conn c
  let r := s.fresh 32
  let b := netFrame (r.2.raCfg g) x.set sport dport r.1 data
  match lost with
  | none =>
    let b := wireFrame b
    (((r.2.raCtr g 0 1).raCtr g 2 b.length).enterFrame g 4 g (steerOf 4 g) x.set.tenant b true fun f => f).2
  | some n => (r.2.enterFrame g 4 g (steerOf 4 g) x.set.tenant (b.take (b.length - n)) false fun f => f).2
/-- An MRA packet on a path (R482). -/
def State.sendMra (s : State) (c : Nat) (h : Mra) (payload : List Byte) (lost : Option Nat := none) : State :=
  s.sendNet c ((s.conn c).set.sport + h.path) (s.raCfg (c / 65536)).port (mraPacket h payload) lost

/-- The packets of `n` bytes from a byte string: index, offset and bytes (R484). -/
def cutPackets (data : List Byte) (n : Nat) : List (Nat × Nat × List Byte) :=
  (List.range (max 1 ((data.length + n - 1) / n))).map fun i => (i, i * n, (data.drop (i * n)).take n)

/-! ## The requester (R476 to R481, R485, R492) -/

/-- TYPE of a request (R483). -/
def reqType (op : Nat) : Nat := match op with | 0x20 => 1 | 0x21 => 2 | 0x22 => 4 | _ => 5
/-- The header of packet `i` of a message (R483, R484). -/
def TxMsg.mra (m : TxMsg) (x : ConnSet) (c : Nat) (retx : Bool) (i off : Nat) : Mra :=
  let type := reqType m.op
  { type := type, retx := retx, notify := m.notify, path := (m.id.toNat + i + m.r) % x.paths
    sub := if type = 5 then m.op - 0x23 else 0, dest := x.remoteConn, id := m.id, off := off
    total := m.total, rkey := m.rkey, addr := if type = 4 then m.ssn.toNat else m.raddr
    imm := if type = 5 then m.asn else m.imm, src := c }
/-- Transmission of a message (R484): every packet, with RETX when it is sent again. -/
def State.transmitMra (s : State) (c : Nat) (m : TxMsg) (retx : Bool) : State :=
  let x := (s.conn c).set
  let type := reqType m.op
  let ps := if type = 1 ∨ type = 4 then cutPackets m.data x.seg else [(0, 0, m.data)]
  ps.foldl (fun s p => s.sendMra c (m.mra x c retx p.1 p.2.1) p.2.2) s
/-- The operands of an atomic chain in memory order (R478, R483). -/
def atomicOperands (ds : List Desc) : List Byte :=
  let d := ds.getD 1 0
  let e := ds.getD 2 0
  match dOp (ds.headD 0) with
  | 0x24 => leBytes 8 (dBits d 255 192)
  | 0x25 => leBytes 8 (dBits d 255 192) ++ leBytes 8 (dBits d 191 128)
  | _ => leBytes 16 (dBits d 255 128) ++ leBytes 16 (dBits e 255 128)
/-- The message of a job. -/
def Conn.message (x : Conn) (j : Job) (now : Nat) : TxMsg :=
  let h := j.descs.headD 0
  let op := dOp h
  let notify := op == 0x20 && h.getLsbD 64
  let data := if op = 0x20 ∨ op = 0x22 then j.data else if op = 0x21 then [] else atomicOperands j.descs
  { id := x.nextMsg, slot := j.slot, op := op, raddr := dBits h 255 192, rkey := dBits h 191 160
    imm := if notify ∨ op = 0x22 then BitVec.ofNat 32 (dBits h 159 128) else 0, notify := notify, ssn := x.nextSsn
    asn := x.nextAsn, data := data, total := if op = 0x21 then totalLen j.descs else data.length, psn := x.txPsn
    deadline := now + us x.set.rtoUs }
/-- Packet numbers a message takes in RoCEv2 (R500). -/
def TxMsg.psns (m : TxMsg) (mtu : Nat) : Nat := if m.isAtomic then 1 else max 1 ((m.total + mtu - 1) / mtu)
/-- The limits on starting a message (R485, R494, R500). -/
def Conn.mayStart (x : Conn) (m : TxMsg) : Bool :=
  let flight := (x.tx.map (·.data.length)).foldl (· + ·) 0
  sdiff x.nextMsg x.una < 1024 && (!m.isAtomic || sdiff x.nextAsn x.asnUna < (if x.set.transport = 1 then 16 else 256)) &&
    (flight == 0 || flight + m.data.length ≤ x.cwnd)
/-- An earlier job of the connection has not been sent yet. -/
def State.jobWaits (s : State) (q : Nat) (j : Job) (c : Nat) : Bool :=
  ((s.qpOf q).jobs.takeWhile (·.slot != j.slot)).any fun k =>
    k.st == .running && !k.acted && dOp (k.descs.headD 0) != 0x23 && s.jobConn q k == some c
/-- What a job that names a connection ends with at once, if it does (R468, R500). -/
def State.jobRefusal (s : State) (q : Nat) (j : Job) (c : Nat) : Option (Nat × Nat) :=
  let x := s.conn c
  if x.state ≠ 1 then some (St.queueError, 0)
  else if x.set.qp ≠ q then some (St.notOwner, 0)
  else if x.set.transport = 1 ∧ dOp (j.descs.headD 0) = 0x26 then some (St.badArg, 9)
  else none

/-! ## RoCEv2 packets (R500; IBTA Volume 1 and Annex A17) -/

/-- The base transport header: opcode, pad count, destination, acknowledge request, packet number. -/
def bth (op pad dest : Nat) (ack : Bool) (psn : Nat) : List Byte :=
  [BitVec.ofNat 8 op] ++ beBytes 1 (16 * pad) ++ [0xFF, 0xFF, 0] ++ beBytes 3 dest ++ beBytes 1 (128 * b2n ack) ++ beBytes 3 psn
/-- Bytes an invariant CRC covers: the IP header with TOS or traffic class and flow label, TTL or hop limit and header
checksum all ones, the UDP header with its checksum all ones, the BTH with its reserved byte all ones. -/
def icrcBytes (ipv6 : Bool) (ip udp data : List Byte) : List Byte :=
  let ip := if ipv6 then
      setAt (setAt ip 0 (beBytes 4 (nfld ip 0 4 / 2 ^ 28 * 2 ^ 28 + (2 ^ 28 - 1)))) 7 [0xFF]
    else setAt (setAt (setAt ip 1 [0xFF]) 8 [0xFF]) 10 [0xFF, 0xFF]
  List.replicate 8 0xFF ++ ip ++ setAt udp 6 [0xFF, 0xFF] ++ setAt data 4 [0xFF]
/-- A RoCEv2 packet of a connection with its ICRC enters the canopy. -/
def State.sendRoce (s : State) (c : Nat) (data : List Byte) (lost : Option Nat := none) : State :=
  let x := (s.conn c).set
  let n := (Config.freeValue 32 s.free)
  let b := netFrame (s.raCfg (c / 65536)) x x.sport 4791 n (data ++ zeros 4)
  let l3 := 14 + if x.vid = 0 then 0 else 4
  let ipLen := if x.ipv6 then 40 else 20
  let ip := b.drop l3
  let crc := leBytes 4 (crc32 (icrcBytes x.ipv6 (ip.take ipLen) ((ip.drop ipLen).take 8) data)).toNat
  s.sendNet c x.sport 4791 (data ++ crc) lost
/-- A payload with its padding to whole words. -/
def padded (b : List Byte) : List Byte := b ++ zeros ((4 - b.length % 4) % 4)
/-- Pad count of a payload. -/
def padOf (b : List Byte) : Nat := (4 - b.length % 4) % 4
/-- The packets of a WRITE or SEND, in order, without their ICRC. -/
def rocePackets (x : ConnSet) (m : TxMsg) : List (List Byte) :=
  let ps := cutPackets m.data x.seg
  let n := ps.length
  let reth := beBytes 8 m.raddr ++ beBytes 4 m.rkey ++ beBytes 4 m.total
  let write := m.op == 0x20
  let imm := m.notify || m.op == 0x22
  ps.map fun p =>
    let first := p.1 == 0
    let last := p.1 + 1 == n
    let base := if write then 6 else 0
    let op := base + (if first && last then 4 + b2n imm else if first then 0 else if last then 2 + b2n imm else 1)
    bth op (padOf p.2.2) x.remoteConn last ((m.psn + p.1) % 2 ^ 24) ++ (if write && first then reth else []) ++
      (if imm && last then beBytes 4 m.imm.toNat else []) ++ padded p.2.2
/-- The one packet of a READ request or an atomic; a compare-and-swap carries SWAP before COMPARE. -/
def roceRequest (x : ConnSet) (m : TxMsg) : List Byte :=
  let head := beBytes 8 m.raddr ++ beBytes 4 m.rkey
  match m.op with
  | 0x21 => bth 0x0C 0 x.remoteConn true m.psn ++ head ++ beBytes 4 m.total
  | 0x24 => bth 0x14 0 x.remoteConn true m.psn ++ head ++ beBytes 8 (fld m.data 0 8) ++ zeros 8
  | _ => bth 0x13 0 x.remoteConn true m.psn ++ head ++ beBytes 8 (fld m.data 8 8) ++ beBytes 8 (fld m.data 0 8)
/-- Transmission of a message from packet `i` on. -/
def State.transmitRoce (s : State) (c : Nat) (m : TxMsg) (i : Nat) : State :=
  let x := (s.conn c).set
  let ps := if m.op = 0x20 ∨ m.op = 0x22 then rocePackets x m else [roceRequest x m]
  (ps.drop i).foldl (fun s p => s.sendRoce c p) s
/-- Transmission of a message on its connection's transport. -/
def State.transmit (s : State) (c : Nat) (m : TxMsg) (retx : Bool) : State :=
  if (s.conn c).set.transport = 0 then s.transmitMra c m retx else s.transmitRoce c m 0

/-- What a WRITE or SEND sends when only its first `n` bytes could be read (R479, R499): the packets they fill, then the next
one, abandoned with CHECK 3. -/
def State.transmitCut (s : State) (c : Nat) (m : TxMsg) (n : Nat) : State :=
  let x := (s.conn c).set
  let ps := cutPackets m.data x.seg
  let k := n / x.seg
  let send (s : State) (p : Nat × Nat × List Byte) (lost : Option Nat) : State :=
    if x.transport = 0 then s.sendMra c (m.mra x c false p.1 p.2.1) p.2.2 lost
    else s.sendRoce c ((rocePackets x m).getD p.1 []) (lost.map (· + padOf p.2.2))
  let s := (ps.take k).foldl (fun s p => send s p none) s
  match ps[k]? with
  | some p => send s p (some (4 + p.2.2.length - n % x.seg))
  | none => s
/-- A WRITE or SEND job whose local read failed ends, and its connection enters ERROR (R468, R479); what had been sent of its
message stays sent. -/
def State.raCut (s : State) (q : Nat) (slot : W32) (j : Job) (status detail : Nat) : State :=
  let c := dConn (j.descs.headD 0)
  match s.jobRefusal q j c with
  | some (st, detail) => s.endJob q slot st detail 0
  | none =>
    let x := s.conn c
    let n := j.before.length
    let total := totalLen j.descs
    let m := { x.message j s.clk with data := j.before ++ zeros (total - n), total := total }
    if !s.maySource (c / 65536) then s
    else
      let s := if x.mayStart m && !s.jobWaits q j c then s.transmitCut c m n else s
      (s.endJob q slot status detail 0).connFail c 11
/-- A requester job is acted on: it ends at once, waits for the limits of its connection, or its message is sent. -/
def State.raRequest (s : State) (q : Nat) (slot : W32) (op : Nat) : State :=
  match s.readyJob q slot op, s.cutJob q slot op with
  | _, some (j, status, detail) => s.raCut q slot j status detail
  | some j, none =>
    let c := dConn (j.descs.headD 0)
    match s.jobRefusal q j c with
    | some (st, detail) => s.endJob q slot st detail 0
    | none =>
      let x := s.conn c
      let m := x.message j s.clk
      if s.maySource (c / 65536) && x.mayStart m && !s.jobWaits q j c then
        let x := { x with nextMsg := x.nextMsg + 1, nextAsn := if m.isAtomic then x.nextAsn + 1 else x.nextAsn
                          nextSsn := if op = 0x22 then x.nextSsn + 1 else x.nextSsn
                          txPsn := (x.txPsn + m.psns x.set.seg) % 2 ^ 24, tx := x.tx ++ [m] }
        (((s.markActed q j).setConn c x).transmit c m false)
      else s
  | none, none => s
/-- REMOTE_WRITE (R480). -/
def execRemoteWrite (q : Nat) (slot : W32) (s : State) : Res := whenRunning s fun s => s.raRequest q slot 0x20
/-- REMOTE_READ (R480, R490). -/
def execRemoteRead (q : Nat) (slot : W32) (s : State) : Res := whenRunning s fun s => s.raRequest q slot 0x21
/-- REMOTE_SEND (R480). -/
def execRemoteSend (q : Nat) (slot : W32) (s : State) : Res := whenRunning s fun s => s.raRequest q slot 0x22
/-- ATOMIC_ADD (R478, R489). -/
def execAtomicAdd (q : Nat) (slot : W32) (s : State) : Res := whenRunning s fun s => s.raRequest q slot 0x24
/-- CAS64. -/
def execCas64 (q : Nat) (slot : W32) (s : State) : Res := whenRunning s fun s => s.raRequest q slot 0x25
/-- CAS128 (R500: unsupported in RoCEv2). -/
def execCas128 (q : Nat) (slot : W32) (s : State) : Res := whenRunning s fun s => s.raRequest q slot 0x26
/-- RECV_POST (R480, R495): the buffer joins the receive list of its connection. -/
def execRecvPost (q : Nat) (slot : W32) (s : State) : Res :=
  whenRunning s fun s =>
    match s.readyJob q slot 0x23 with
    | some j =>
      let c := dConn (j.descs.headD 0)
      match s.jobRefusal q j c with
      | some (st, detail) => s.endJob q slot st detail 0
      | none =>
        let x := s.conn c
        if 1024 ≤ x.posted then s.endJob q slot St.noSpace 0 0
        else
          let x := { x with bufs := x.bufs ++ [(j.descs.drop 1).map fun d => (dAddr d, dLen d)] }
          (s.setConn c x).endJob q slot St.ok 0 (BitVec.ofNat 64 x.posted)
    | none => s

/-! ## Settling messages (R480, R481, R492 to R494) -/

/-- STATUS of a reason (R481). -/
def reasonStatus (r : Nat) : Nat :=
  match r with
  | 3 | 4 | 5 | 6 => St.denied
  | 8 | 12 => St.queueError
  | 9 | 10 => St.badArg
  | _ => St.aborted
/-- An outstanding message ends. -/
def State.settle (s : State) (c : Nat) (m : TxMsg) (status detail : Nat) (data : W64) : State :=
  let x := s.conn c
  ((s.setConn c { x with tx := x.tx.filter (·.id != m.id) }).raCtr (c / 65536) 4 1).endJob x.set.qp m.slot status detail data
/-- DATA with MSG_ID in 95:64. -/
def TxMsg.idData (m : TxMsg) : W64 := m.id.setWidth 64
/-- A message ends with a reason, and the connection enters ERROR (R468). -/
def State.settleFail (s : State) (c : Nat) (m : TxMsg) (reason : Nat) : State :=
  (s.settle c m (reasonStatus reason) reason m.idData).connFail c reason
/-- A message of a connection replaced. -/
def State.setMsg (s : State) (c : Nat) (m : TxMsg) : State :=
  let x := s.conn c
  s.setConn c { x with tx := x.tx.map fun y => if y.id = m.id then m else y }
/-- A message of a sender. -/
def Conn.msg (x : Conn) (id : W32) : Option TxMsg := x.tx.find? (·.id == id)
/-- A message is sent again, in RoCEv2 with every later one (R500). -/
def State.resend (s : State) (c : Nat) (m : TxMsg) : State :=
  let x := s.conn c
  let m := { m with deadline := s.clk + us x.set.rtoUs, resendAt := none }
  let s := ((s.setMsg c m).raCtr (c / 65536) 6 1).transmit c m true
  if x.set.transport = 0 then s
  else
    (x.tx.filter fun y => decide (sdiff m.id y.id < 0)).foldl (fun s y =>
      (s.setMsg c { y with deadline := s.clk + us x.set.rtoUs }).transmit c y true) s
/-- A deadline passes unanswered (R492). -/
def State.raTimeout (s : State) (c : Nat) (m : TxMsg) : State :=
  if (s.conn c).set.retryLimit ≤ m.r then s.settleFail c m 2 else s.resend c { m with r := m.r + 1 }
/-- RETRANSMIT_TIMEOUT (R492). -/
def execRetransmitTimeout (c id : Nat) (s : State) : Res :=
  whenRunning s fun s =>
    match (s.conn c).msg (BitVec.ofNat 32 id) with
    | some m => if (s.conn c).state = 1 ∧ m.resendAt.isNone = true then (s.upToClk m.deadline).raTimeout c m else s
    | none => s
/-- RNR_DELAY_EXPIRY (R493). -/
def execRnrDelayExpiry (c id : Nat) (s : State) : Res :=
  whenRunning s fun s =>
    match (s.conn c).msg (BitVec.ofNat 32 id) with
    | some m =>
      match m.resendAt with
      | some t => (s.upToClk t).resend c m
      | none => s
    | none => s
/-- An RNR answers a message: it waits, or ends when the count passes RNR_LIMIT (R493). -/
def State.rnrTaken (s : State) (c : Nat) (m : TxMsg) (delay : Nat) : State :=
  let s := s.raCtr (c / 65536) 8 1
  let m := { m with rnr := m.rnr + 1 }
  let limit := (s.conn c).set.rnrLimit
  if limit ≠ 7 ∧ limit < m.rnr then s.settleFail c m 1 else s.setMsg c { m with resendAt := some (s.clk + delay) }
/-- A terminal NAK ends a message; CONN_ERROR takes the connection with it (R468, R481). -/
def State.nakTaken (s : State) (c : Nat) (m : TxMsg) (reason : Nat) : State :=
  if reason = 8 then s.settleFail c m 8 else s.settle c m (reasonStatus reason) reason m.idData
/-- Congestion has been seen: CWND is cut, at most once in a window of RTO_US (R494). -/
def State.cutWindow (s : State) (c : Nat) : State :=
  let x := s.conn c
  let s := s.setConn c { x with eceSeen := true }
  if x.cutAt.any fun t => s.clk < t + us x.set.rtoUs then s
  else
    (s.setConn c { s.conn c with cwnd := max (x.cwnd / 2) x.set.seg, cutAt := some s.clk }).raCtr (c / 65536) 21 1
/-- CWND_WINDOW (R494): a window of RTO_US ends. -/
def execCwndWindow (c : Nat) (s : State) : Res :=
  whenRunning s fun s =>
    let x := s.conn c
    if x.state = 1 then
      let s := s.upToClk (x.window + us x.set.rtoUs)
      s.setConn c { x with window := x.window + us x.set.rtoUs, eceSeen := false
                           cwnd := if x.eceSeen then x.cwnd else min x.set.maxInflight (x.cwnd + x.set.seg) }
    else s
/-- An answer stamped after the deadline does not count for the transmission it answers: the timeout comes first. -/
def State.lateFirst (s : State) (c : Nat) (id : W32) : State :=
  match (s.conn c).msg id with
  | some m => if m.deadline < s.clk ∧ m.resendAt.isNone = true then s.raTimeout c m else s
  | none => s

/-- Bytes of a message laid over its segments from an offset on (R478). -/
def spreadOver : List (Nat × Nat) → Nat → List Byte → List (Nat × List Byte)
  | [], _, _ => []
  | (a, n) :: r, o, b =>
    if b.isEmpty then []
    else if n ≤ o then spreadOver r (o - n) b else (a + o, b.take (n - o)) :: spreadOver r 0 (b.drop (n - o))
/-- The local segments of a job. -/
def Job.segs (j : Job) : List (Nat × Nat) := (j.descs.drop 1).map fun d => (dAddr d, dLen d)
/-- A local write of a queue pair's owner; none while a translation is to come. -/
def State.localWrite (s : State) (q : Nat) (l : List (Nat × List Byte)) : State × Dma :=
  s.dmaWrites (s.qpOwner q) (s.qpOf q).pasidOpt ((s.qpOf q).set.flags.getLsbD 0) l

/-- Bytes of a READ arrive at the requester (R490): placed by offset under its bitmap; the job ends with the last. -/
def State.readBytes (s : State) (c : Nat) (m : TxMsg) (i off : Nat) (b : List Byte) : State × Bool :=
  let q := (s.conn c).set.qp
  if m.seen.contains i then (s.raCtr (c / 65536) 9 1, true)
  else
    match (s.qpOf q).job m.slot with
    | some j =>
      match s.localWrite q (spreadOver j.segs off b) with
      | (s, .waits) => (s, false)
      | (s, .ok) =>
        let m := { m with seen := i :: m.seen, got := m.got + b.length }
        if m.got = m.total then (s.settle c m St.ok 0 m.idData, true) else (s.setMsg c m, true)
      | (s, _) => (s.settleFail c m 11, true)
    | none => (s, true)
/-- The old value of an atomic arrives at the requester (R480). -/
def State.atomicBytes (s : State) (c : Nat) (m : TxMsg) (old : List Byte) : State × Bool :=
  let q := (s.conn c).set.qp
  match (s.qpOf q).job m.slot with
  | some j =>
    match s.localWrite q [(resultAddr m.op j.descs, old)] with
    | (s, .waits) => (s, false)
    | (s, .ok) => (s.settle c m St.ok 0 (if m.op = 0x26 then m.idData else BitVec.ofNat 64 (leNat old)), true)
    | (s, _) => (s.settleFail c m 11, true)
  | none => (s, true)

end Sys2Proof.Machine
end

