-- ==== Sys2Proof/Machine/Receive.lean ====
section
/-! DEFINITION. The receiver's side of remote memory access (16 R473, R474, R484 to R496): packets taken from the sink
queue of an engine, and the rows of each packet type of the MRA transport. -/
namespace Sys2Proof.Machine

/-! ## Accesses under a key (R474) -/

/-- How an access ended. -/
inductive Acc where
  | ok
  /-- Nothing may be issued for the function now: answered with RNR. -/
  | rnr
  /-- Answered with a reason. -/
  | fault (reason : Nat)
  /-- A translation or a tag is still to come: the packet stays at the head of the engine's input. -/
  | waits
  deriving DecidableEq, Repr

/-- The master ID of an engine (01 R25). -/
def raMaster (g : Nat) : BitVec 16 := BitVec.ofNat 16 (0x5000 + g)
/-- The PASID the requests of a key carry. -/
def RemKey.pasidOpt (e : RemKey) : Option Nat := if e.pasidEn then some e.pasid else none
/-- The function's state asks for an RNR. -/
def State.keyRnr (s : State) (e : RemKey) : Bool :=
  !(s.fn e.fn).busMaster || (s.fn e.fn).d3hot || (e.pasidEn && !(s.fn e.fn).pasidEn)
/-- Whether a range of a key can be reached now: the function, and the translation of every page. -/
def State.raReach (s : State) (e : RemKey) (addr len : Nat) (p : Purpose) : State × Acc :=
  if e.target = 1 then (s, .ok)
  else if s.keyRnr e then (s, .rnr)
  else if !s.canDma e.fn then (s, .fault 7)
  else
    match (splitAccess addr len 4096).find? fun x => (s.translate e.fn e.pasidOpt x.1).isNone with
    | some x =>
      match s.seeRefusal e.fn e.pasidOpt x.1 with
      | some s => (s, .fault 7)
      | none => (s.askTranslation e.fn p x.1 x.2, .waits)
    | none => (s, .ok)
/-- The writes of an access to host memory, in order, up to the first that the firebreak denies. -/
def State.raPieces (s : State) (g : Nat) (e : RemKey) (o : Nat → Nat × Nat → Out) : List (Nat × Nat) → State × Acc
  | [] => (s, .ok)
  | x :: rest =>
    let a := (s.translate e.fn e.pasidOpt x.1).getD x.1
    let (s, pass) := s.fbCheck (0x0600 + fnPort e.fn) (raMaster g) 2 a x.2
    if pass then (s.hostSend e.fn (o a x)).raPieces g e o rest else (s, .fault 7)
/-- The requests of an access that host memory answers with `acc`: one that fails gives reason `bad` (12 R366, R368). -/
def State.raAsk (s : State) (g : Nat) (e : RemKey) (right bad : Nat) (o : Nat → Nat → Nat → Out) (ps : List (Nat × Nat))
    (acc : List HostCpl) : (State × Acc) × List Byte :=
  if (s.freeTag (fnPort e.fn)).isNone then ((s, .waits), [])
  else
    match s.askAll e.fn e.pasidOpt (raMaster g) right o ps acc [] with
    | ((s, .ok), b) => ((s, .ok), b)
    | ((s, .waits), _) => ((s, .waits), [])
    | ((s, .failed), _) => ((s, .fault bad), [])
    | ((s, _), _) => ((s, .fault 7), [])
/-- A write under a key that has passed its check. -/
def State.raWrite (s : State) (g : Nat) (e : RemKey) (addr : Nat) (b : List Byte) : State × Acc :=
  match s.raReach e addr b.length (.write e.fn e.pasidOpt) with
  | (s, .ok) =>
    if b.isEmpty then (s, .ok)
    else if e.target = 1 then
      let (s, pass) := s.fbCheck packageBlock (raMaster g) 2 addr b.length
      if pass then (s.memPut addr b, .ok) else (s, .fault 7)
    else
      s.raPieces g e (fun a x => .hostWrite e.fn a e.pasidOpt false ((b.drop (x.1 - addr)).take x.2))
        (splitAccess addr b.length (s.fn e.fn).mps)
  | r => r
/-- A read under a key that has passed its check; host memory answers its requests with `acc`. -/
def State.raRead (s : State) (g : Nat) (e : RemKey) (addr len : Nat) (acc : List HostCpl) : (State × Acc) × List Byte :=
  match s.raReach e addr len (.read e.fn e.pasidOpt) with
  | (s, .ok) =>
    if e.target = 1 then
      let (s, pass) := s.fbCheck packageBlock (raMaster g) 1 addr len
      if pass && !s.memBad addr len then ((s, .ok), memReadBytes s.mem addr len) else ((s, .fault 7), [])
    else s.raAsk g e 1 7 (fun t a n => .hostRead (fnPort e.fn) t e.fn a e.pasidOpt n) (splitAccess addr len (s.fn e.fn).mrrs) acc
  | r => (r, [])
/-- The value an atomic leaves, 1 ADD, 2 and 3 compare and swap (R489). -/
def atomicNew (sub w : Nat) (old ops : List Byte) : List Byte :=
  if sub = 1 then leBytes 8 (leNat old + leNat ops) else if old = ops.take w then ops.drop w else old
/-- An atomic under a key that has passed its check, with the old value. -/
def State.raAtomic (s : State) (g : Nat) (e : RemKey) (addr sub w : Nat) (ops : List Byte) (acc : List HostCpl) :
    (State × Acc) × List Byte :=
  match s.raReach e addr w (.write e.fn e.pasidOpt) with
  | (s, .ok) =>
    if e.target = 1 then
      let (s, pass) := s.fbCheck packageBlock (raMaster g) 3 addr w
      if pass && !s.memBad addr w then
        let old := memReadBytes s.mem addr w
        ((s.memPut addr (atomicNew sub w old ops), .ok), old)
      else ((s, .fault 7), [])
    else if !(s.fn e.fn).atomicEn then ((s, .fault 5), [])
    else s.raAsk g e 3 5 (fun t a _ => .hostAtomic (fnPort e.fn) t e.fn a e.pasidOpt sub ops) [(addr, w)] acc
  | r => (r, [])

/-! ## Answers -/

/-- An ACK or a NAK for a request (R483, R494); its path is not stated: a free value. -/
def State.answer (s : State) (c : Nat) (h : Mra) (outcome : Nat) : State :=
  let x := s.conn c
  let s := s.setConn c { x with ece := false }
  let s := if x.ece then s.raCtr (c / 65536) 20 1 else s
  let s := if outcome = 1 then s.raCtr (c / 65536) 7 1 else s
  let r := s.fresh 8
  r.2.sendMra c { type := if outcome = 0 then 7 else 8, ece := x.ece, path := r.1.toNat % x.set.paths, sub := outcome
                  dest := x.set.remoteConn, id := h.id, total := h.total, src := c } []

/-! ## Completion slots the device originates (R496) -/

/-- The descriptor a device-originated record takes its opcode and USER from. -/
def recordDesc (op : Nat) (user : W32) : Desc := BitVec.ofNat 256 (op + 2 ^ 32 * user.toNat)
/-- A slot can be reserved. -/
def State.canReserve (s : State) (q : Nat) : Bool := (s.qpOf q).state == 2 && s.qpMayDma q && (s.qpOf q).hasSlot
/-- A slot is reserved. -/
def State.reserve (s : State) (q op : Nat) (user : W32) : W32 × State :=
  let x := s.qpOf q
  let j : Job := { slot := x.cplReserved, first := x.workCi, descs := [recordDesc op user], start := s.clk, acted := true }
  (x.cplReserved, s.setQp q { x with cplReserved := x.cplReserved + 1, jobs := x.jobs ++ [j] })
/-- DATA of RECV_DONE and WRITE_NOTIFY. -/
def recvData (c total : Nat) : W64 := BitVec.ofNat 64 (total + 2 ^ 32 * c)

/-! ## The end of a received message (R486, R487, R491) -/

/-- RX_BASE over every ended message. -/
def Conn.advanceBase : Nat → Conn → Conn
  | 0, x => x
  | n + 1, x => if (SMap.get x.ended x.rxBase.toNat).isSome then Conn.advanceBase n { x with rxBase := x.rxBase + 1 } else x
/-- Records of messages below which every message has ended are written. -/
def State.flushRecords (s : State) (c : Nat) : State :=
  let x := s.conn c
  let now := x.records.filter fun r => decide (sdiff r.id x.rxBase < 0)
  let s := s.setConn c { x with records := x.records.filter fun r => !decide (sdiff r.id x.rxBase < 0) }
  now.foldl (fun s r => s.endJob x.set.qp r.slot r.record.status r.record.detail r.record.data) s
/-- A received message ends with an outcome: 0, or a NAK reason. -/
def State.endRx (s : State) (c : Nat) (id : W32) (outcome : Nat) (rec : Option RxRec) : State :=
  let x := s.conn c
  let x := { x with ctxs := x.ctxs.filter (·.id != id), ended := SMap.set x.ended id.toNat outcome
                    records := x.records ++ rec.toList }
  let x := x.advanceBase (x.ended.length + 1)
  let x := { x with ended := x.ended.filter fun e => decide (-1024 ≤ sdiff (BitVec.ofNat 32 e.1) x.rxBase) }
  ((s.setConn c x).raCtr (c / 65536) 5 1).flushRecords c
/-- The record of a context that ends without its data. -/
def RxMsg.failed (m : RxMsg) (c detail : Nat) : Option RxRec :=
  m.slot.map fun t => ⟨m.id, t, ⟨recvData c m.total, m.imm, St.aborted, 0, detail⟩⟩
/-- A message ends with a NAK (R487). -/
def State.nakRx (s : State) (c : Nat) (h : Mra) (reason : Nat) : State :=
  (s.endRx c h.id reason (((s.conn c).ctxs.find? (·.id == h.id)).bind fun m => m.failed c reason)).answer c h reason
/-- A packet's bytes are in place: the message ends with its last, and is acknowledged (R487). -/
def State.placed (s : State) (c : Nat) (h : Mra) (m : RxMsg) (i n : Nat) : State :=
  let x := s.conn c
  let m := { m with seen := i :: m.seen, got := m.got + n, last := s.clk }
  if m.got = m.total then
    (s.endRx c h.id 0 (m.slot.map fun t => ⟨m.id, t, ⟨recvData c m.total, m.imm, St.ok, 0, 0⟩⟩)).answer c h 0
  else s.setConn c { x with ctxs := x.ctxs.filter (·.id != m.id) ++ [m] }
/-- Contexts in use at an engine (R488). -/
def State.contexts (s : State) (g : Nat) : Nat :=
  s.ra.conns.foldl (fun n x => if x.1 / 65536 = g then n + x.2.ctxs.length else n) 0
/-- A packet dropped for want of a context. -/
def State.noContext (s : State) (g : Nat) : State :=
  let w := tally (SMap.get s.ra.backlog g) s.clk
  let s := { s.raCtr g 18 1 with ra := { (s.raCtr g 18 1).ra with backlog := SMap.set s.ra.backlog g w.1 } }
  if w.2 then s.fireDev g 9 Ev.raBacklog (tallyData g w.1.2) else s
/-- A packet of a context whose bit is already set (R487). -/
def State.dupPacket (s : State) (c : Nat) (m : RxMsg) : State :=
  let x := s.conn c
  (s.setConn c { x with ctxs := x.ctxs.map fun y => if y.id = m.id then { y with last := s.clk } else y }).raCtr (c / 65536) 9 1

/-! ## Packets taken from the sink queue (R484, R498, R500) -/

/-- A packet of an engine's input with the bytes its checks need. -/
structure RawPkt where
  pkt : NetPkt
  ipv6 : Bool
  ip : List Byte
  udp : List Byte
  port : Nat
/-- The UDP datagram in a frame. -/
def readDatagram (b : List Byte) : Option RawPkt :=
  match innerIp b with
  | some (v, l3) =>
    let n := if v = 4 then 4 * (nfld b l3 1 % 16) else 40
    let ip := slice b l3 n
    let udp := slice b (l3 + n) 8
    let len := nfld udp 4 2
    let proto := if v = 4 then nfld ip 9 1 else nfld ip 6 1
    let ecn := if v = 4 then nfld ip 1 1 % 4 else nfld ip 1 1 / 16 % 4
    if proto = 17 ∧ 8 ≤ len ∧ l3 + n + len ≤ b.length then
      some ⟨⟨if v = 4 then slice ip 12 4 else slice ip 8 16, ecn == 3, nfld udp 2 2 == 4791, slice b (l3 + n + 8) (len - 8)⟩,
        v == 6, ip, udp, nfld udp 2 2⟩
    else none
  | none => none
/-- A packet comes from the peer of its connection. -/
def Conn.fromPeer (x : Conn) (src : List Byte) : Bool :=
  src.length == (if x.set.ipv6 then 16 else 4) && src == x.set.remoteIp.take src.length
/-- The form of an MRA packet on its connection (R484). -/
def mraForm (h : Mra) (n seg : Nat) : Bool :=
  h.total ≤ 1048576 && h.off % seg == 0 &&
    (!(h.type == 1 || h.type == 3 || h.type == 4) || (n == seg && h.off + n ≤ h.total) || h.off + n == h.total)
/-- Which counter of R504 drops an MRA packet, if one does. -/
def State.mraDrop (s : State) (g : Nat) (p : NetPkt) : Option Nat :=
  let n := p.bytes.length
  let h := readMra p.bytes
  let x := s.conn h.dest
  if n < 44 ∨ h.version ≠ 1 ∨ h.type = 0 ∨ 8 < h.type then some 14
  else if beNat (p.bytes.drop (n - 4)) ≠ (crc32c (p.bytes.take (n - 4))).toNat then some 13
  else if h.dest / 65536 ≠ g then some 16
  else if x.state = 0 ∨ x.set.transport ≠ 0 ∨ x.set.remoteConn ≠ h.src ∨ x.fromPeer p.src = false then some 15
  else if mraForm h (n - 44) x.set.seg then none else some 14
/-- Which counter drops a RoCEv2 packet. -/
def State.roceDrop (s : State) (g : Nat) (r : RawPkt) : Option Nat :=
  let b := r.pkt.bytes
  let n := b.length
  let c := nfld b 5 3
  let x := s.conn c
  if n < 16 then some 14
  else if leNat (b.drop (n - 4)) ≠ (crc32 (icrcBytes r.ipv6 r.ip r.udp (b.take (n - 4)))).toNat then some 13
  else if c / 65536 ≠ g then some 16
  else if x.state = 0 ∨ x.set.transport ≠ 1 ∨ x.fromPeer r.pkt.src = false then some 15
  else none
/-- The engine of a grove takes the frame at the head of service input queue 255 (R498). -/
def State.raTake (s : State) (g t : Nat) (f : FrameRec) : State :=
  let b := f.edited.getD f.bytes
  let s := ((s.takeSink g t).raCtr g 1 1).raCtr g 3 b.length
  match readDatagram (b.take (b.length - 4)) with
  | none => s.raCtr g 14 1
  | some r =>
    let drop := if r.pkt.roce then s.roceDrop g r
      else if r.port = (s.raCfg g).port then s.mraDrop g r.pkt else some 14
    match drop with
    | some i => s.raCtr g i 1
    | none =>
      let p := { r.pkt with bytes := r.pkt.bytes.take (r.pkt.bytes.length - 4) }
      { s with ra := { s.ra with inq := SMap.set s.ra.inq g (SMap.getD s.ra.inq g [] ++ [p]) } }

/-- The packet at the head of an engine's input is processed, when it is one the row names and the engine can answer it;
it leaves the input unless the processing waits. -/
def State.raRow (s : State) (g : Nat) (mine : NetPkt → Bool) (k : State → NetPkt → State × Bool) : State :=
  match SMap.getD s.ra.inq g [] with
  | p :: rest =>
    if mine p && s.maySource g && s.raWorks g then
      match k s p with
      | (s, true) => { s with ra := { s.ra with inq := SMap.set s.ra.inq g rest } }
      | (s, false) => s
    else s
  | [] => s
/-- An MRA packet of a TYPE. -/
def isMra (type : Nat) (p : NetPkt) : Bool := !p.roce && (readMra p.bytes).type == type

/-! ## Requests (R486 to R490, R495, R496) -/

/-- A context that has received no packet for 100 ms expires (R488). -/
def State.expireCtx (s : State) (c : Nat) (m : RxMsg) : State := (s.endRx c m.id 8 (m.failed c 8)).raCtr (c / 65536) 19 1
/-- Contexts of a connection whose time is over expire before its next packet is taken. -/
def State.expireLate (s : State) (c : Nat) : State :=
  ((s.conn c).ctxs.filter fun m => m.last + ms 100 ≤ s.clk).foldl (fun s m => s.expireCtx c m) s
/-- A request is classified (R486): `again` answers one of an ended message, `body` processes one that is not. -/
def State.request (s : State) (p : NetPkt) (again body : State → Nat → Mra → List Byte → State × Bool) : State × Bool :=
  let h := readMra p.bytes
  let c := h.dest
  let g := c / 65536
  if (s.conn c).state = 0 then (s.raCtr g 15 1, true)
  else
    let s := s.expireLate c
    let s := if p.ce then s.setConn c { s.conn c with ece := true } else s
    let x := s.conn c
    if x.state = 2 then (s.answer c h 8, true)
    else
      let d := sdiff h.id x.rxBase
      if d < -1024 ∨ 1024 ≤ d then (s.raCtr g 17 1, true)
      else if d < 0 ∨ (SMap.get x.ended h.id.toNat).isSome = true then again (s.raCtr g 10 1) c h (p.bytes.drop 40)
      else body s c h (p.bytes.drop 40)
/-- The stored outcome of an ended message is sent again. -/
def State.repeatAnswer (s : State) (c : Nat) (h : Mra) (_ : List Byte) : State × Bool :=
  (s.answer c h (SMap.getD (s.conn c).ended h.id.toNat 0), true)

/-- A packet of a WRITE (R473, R487, R496). -/
def State.rxWrite (s : State) (c : Nat) (h : Mra) (b : List Byte) : State × Bool :=
  let g := c / 65536
  let x := s.conn c
  let i := h.off / x.set.seg
  match s.keyCheck h.rkey (h.addr + h.off) b.length 1 c x with
  | some r => ((s.keyViolation g h.rkey r).nakRx c h r, true)
  | none =>
    let old := x.ctxs.find? (·.id == h.id)
    if old.isNone && 16384 ≤ s.contexts g then (s.noContext g, true)
    else if old.isNone && h.notify && !s.canReserve x.set.qp then (s.answer c h 1, true)
    else
      match old.filter (·.seen.contains i) with
      | some m => (s.dupPacket c m, true)
      | none =>
        match s.raWrite g (s.remKey (h.rkey % 2 ^ 20)) (h.addr + h.off) b with
        | (s, .waits) => (s, false)
        | (s, .rnr) => (s.answer c h 1, true)
        | (s, .fault r) => (s.nakRx c h r, true)
        | (s, .ok) =>
          match old with
          | some m => (s.placed c h m i b.length, true)
          | none =>
            let m : RxMsg := { id := h.id, kind := 1, total := h.total, last := s.clk, notify := h.notify, imm := h.imm }
            if h.notify then
              let r := s.reserve x.set.qp 0x3F h.imm
              (r.2.placed c h { m with slot := some r.1 } i b.length, true)
            else (s.placed c h m i b.length, true)
/-- WRITE_PACKET_RECEIVE. -/
def execWritePacketReceive (g : Nat) (s : State) : Res :=
  whenRunning s fun s => s.raRow g (isMra 1) fun s p => s.request p State.repeatAnswer State.rxWrite

/-- The oldest consumed buffers leave the receive list. -/
def dropConsumed : List (List (Nat × Nat)) → W32 → List (List (Nat × Nat)) × W32
  | [] :: r, n => dropConsumed r (n + 1)
  | l, n => (l, n)
/-- Buffer `k` of the receive list is consumed. -/
def Conn.consume (x : Conn) (k : Nat) : Conn :=
  let r := dropConsumed (x.bufs.set k []) x.recvBase
  { x with bufs := r.1, recvBase := r.2 }
/-- Bytes of a buffer. -/
def bufSize (b : List (Nat × Nat)) : Nat := (b.map (·.2)).foldl (· + ·) 0
/-- A packet of a SEND whose context is open. -/
def State.sendBytes (s : State) (c : Nat) (h : Mra) (m : RxMsg) (b : List Byte) : State × Bool :=
  let i := h.off / (s.conn c).set.seg
  if m.seen.contains i then (s.dupPacket c m, true)
  else
    match s.localWrite (s.conn c).set.qp (spreadOver m.buf h.off b) with
    | (s, .waits) => (s, false)
    | (s, .ok) => (s.placed c h m i b.length, true)
    | (s, _) => (s.nakRx c h 7, true)
/-- A packet of a SEND (R495, R496). -/
def State.rxSend (s : State) (c : Nat) (h : Mra) (b : List Byte) : State × Bool :=
  let g := c / 65536
  let x := s.conn c
  match x.ctxs.find? (·.id == h.id) with
  | some m => s.sendBytes c h m b
  | none =>
    let k := sdiff (BitVec.ofNat 32 h.addr) x.recvBase
    let buf := x.bufs.getD k.toNat []
    if k < 0 ∨ (k.toNat < x.bufs.length ∧ buf.isEmpty = true) then (s.raCtr g 14 1, true)
    else if x.bufs.length ≤ k.toNat then (s.answer c h 1, true)
    else if 16384 ≤ s.contexts g then (s.noContext g, true)
    else if !s.canReserve x.set.qp then (s.answer c h 1, true)
    else
      let r := (s.setConn c (x.consume k.toNat)).reserve x.set.qp 0x3E h.imm
      let m : RxMsg := { id := h.id, kind := 4, total := h.total, last := s.clk, imm := h.imm, slot := some r.1, buf := buf }
      if bufSize buf < h.total then
        ((r.2.endRx c h.id 10 (some ⟨h.id, r.1, ⟨recvData c h.total, h.imm, St.badArg, 0, 10⟩⟩)).answer c h 10, true)
      else
        let y := r.2.conn c
        (r.2.setConn c { y with ctxs := y.ctxs ++ [m] }).sendBytes c h m b
/-- SEND_PACKET_RECEIVE. -/
def execSendPacketReceive (g : Nat) (s : State) : Res :=
  whenRunning s fun s => s.raRow g (isMra 4) fun s p => s.request p State.repeatAnswer State.rxSend

/-- The answer to a READ_REQ: the data in packets (R490). -/
def State.readAnswer (s : State) (c : Nat) (h : Mra) (data : List Byte) : State :=
  let x := (s.conn c).set
  (cutPackets data x.seg).foldl (fun s p =>
    let r := s.fresh 8
    r.2.sendMra c { type := 3, path := r.1.toNat % x.paths, dest := x.remoteConn, id := h.id, off := p.2.1, total := h.total
                    src := c } p.2.2) s
/-- A READ_REQ: `dup` for one of an ended read. -/
def State.rxRead (acc : List HostCpl) (dup : Bool) (s : State) (c : Nat) (h : Mra) (_ : List Byte) : State × Bool :=
  let g := c / 65536
  let nak (s : State) (r : Nat) : State := if dup then s.answer c h r else s.nakRx c h r
  match s.keyCheck h.rkey h.addr h.total 0 c (s.conn c) with
  | some r => (nak (s.keyViolation g h.rkey r) r, true)
  | none =>
    match s.raRead g (s.remKey (h.rkey % 2 ^ 20)) h.addr h.total acc with
    | ((s, .waits), _) => (s, false)
    | ((s, .rnr), _) => (s.answer c h 1, true)
    | ((s, .fault r), _) => (nak s r, true)
    | ((s, .ok), data) =>
      let s := s.readAnswer c h data
      (if dup then s else s.endRx c h.id 0 none, true)
/-- READ_REQ_RECEIVE. -/
def execReadReqReceive (g : Nat) (acc : List HostCpl) (s : State) : Res :=
  whenRunning s fun s => s.raRow g (isMra 2) fun s p => s.request p (State.rxRead acc true) (State.rxRead acc false)

/-- The answer to an ATOMIC_REQ. -/
def State.atomicAnswer (s : State) (c : Nat) (h : Mra) (old : List Byte) : State :=
  let x := (s.conn c).set
  let r := s.fresh 8
  r.2.sendMra c { type := 6, path := r.1.toNat % x.paths, dest := x.remoteConn, id := h.id, total := old.length
                  imm := h.imm, src := c } old
/-- A duplicate of an ended atomic is answered from the cache, or with its stored NAK (R486, R489). -/
def State.atomicAgain (s : State) (c : Nat) (h : Mra) (_ : List Byte) : State × Bool :=
  let x := s.conn c
  match SMap.getD x.ended h.id.toNat 0, SMap.get x.cache (h.imm.toNat % 256) with
  | 0, some e => if e.1 = h.imm then ((s.raCtr (c / 65536) 11 1).atomicAnswer c h e.2, true) else (s, true)
  | 0, none => (s, true)
  | r, _ => (s.answer c h r, true)
/-- An atomic that has been executed: cached, ended and answered. -/
def State.atomicDone (s : State) (c : Nat) (h : Mra) (old : List Byte) : State :=
  let x := s.conn c
  ((s.setConn c { x with cache := SMap.set x.cache (h.imm.toNat % 256) (h.imm, old) }).endRx c h.id 0 none).atomicAnswer c h old
/-- An ATOMIC_REQ (R489). -/
def State.rxAtomic (acc : List HostCpl) (s : State) (c : Nat) (h : Mra) (b : List Byte) : State × Bool :=
  let g := c / 65536
  let w := if h.sub = 3 then 16 else 8
  if h.sub = 0 ∨ 3 < h.sub then (s.nakRx c h 9, true)
  else if b.length ≠ (if h.sub = 1 then 8 else 2 * w) then (s.raCtr g 14 1, true)
  else
    match s.keyCheck h.rkey h.addr w 2 c (s.conn c) with
    | some r => ((s.keyViolation g h.rkey r).nakRx c h r, true)
    | none =>
      if h.addr % w ≠ 0 then (s.nakRx c h 9, true)
      else
        match s.raAtomic g (s.remKey (h.rkey % 2 ^ 20)) h.addr h.sub w b acc with
        | ((s, .waits), _) => (s, false)
        | ((s, .rnr), _) => (s.answer c h 1, true)
        | ((s, .fault r), _) => (s.nakRx c h r, true)
        | ((s, .ok), old) => (s.atomicDone c h old, true)
/-- ATOMIC_REQ_RECEIVE. -/
def execAtomicReqReceive (g : Nat) (acc : List HostCpl) (s : State) : Res :=
  whenRunning s fun s => s.raRow g (isMra 5) fun s p => s.request p State.atomicAgain (State.rxAtomic acc)

/-! ## Answers at the requester (R480, R481, R490, R492 to R494) -/

/-- An answer on a connection that is READY: late ones come after the timeout; ECE cuts CWND. -/
def State.answered (s : State) (p : NetPkt) (k : State → Nat → Mra → List Byte → State × Bool) : State × Bool :=
  let h := readMra p.bytes
  let c := h.dest
  if (s.conn c).state = 1 then
    let s := if p.ce then s.setConn c { s.conn c with ece := true } else s
    let s := s.lateFirst c h.id
    let s := if h.ece then s.cutWindow c else s
    k s c h (p.bytes.drop 40)
  else (s, true)
/-- READ_RESP_RECEIVE (R490). -/
def execReadRespReceive (g : Nat) (s : State) : Res :=
  whenRunning s fun s => s.raRow g (isMra 3) fun s p => s.answered p fun s c h b =>
    match ((s.conn c).msg h.id).filter (·.op == 0x21) with
    | some m => s.readBytes c m (h.off / (s.conn c).set.seg) h.off b
    | none => (s.raCtr g 9 1, true)
/-- ATOMIC_RESP_RECEIVE (R480). -/
def execAtomicRespReceive (g : Nat) (s : State) : Res :=
  whenRunning s fun s => s.raRow g (isMra 6) fun s p => s.answered p fun s c h b =>
    match ((s.conn c).msg h.id).filter fun m => m.isAtomic && m.asn == h.imm && b.length == (if m.op = 0x26 then 16 else 8) with
    | some m => s.atomicBytes c m b
    | none => (s, true)
/-- ACK_RECEIVE (R480). -/
def execAckReceive (g : Nat) (s : State) : Res :=
  whenRunning s fun s => s.raRow g (isMra 7) fun s p => s.answered p fun s c h _ =>
    match ((s.conn c).msg h.id).filter fun m => m.op == 0x20 || m.op == 0x22 with
    | some m => (s.settle c m St.ok 0 m.idData, true)
    | none => (s, true)
/-- NAK_RECEIVE (R481, R493). -/
def execNakReceive (g : Nat) (s : State) : Res :=
  whenRunning s fun s => s.raRow g (isMra 8) fun s p => s.answered p fun s c h _ =>
    if h.sub = 0 ∨ h.sub = 2 ∨ 10 < h.sub then (s.raCtr g 14 1, true)
    else
      match (s.conn c).msg h.id with
      | some m => (if h.sub = 1 then s.rnrTaken c m (us (s.conn c).set.rnrDelayUs) else s.nakTaken c m h.sub, true)
      | none => (s, true)
/-- CONTEXT_EXPIRY (R488). -/
def execContextExpiry (c id : Nat) (s : State) : Res :=
  whenRunning s fun s =>
    match (s.conn c).ctxs.find? (·.id == BitVec.ofNat 32 id) with
    | some m => (s.upToClk (m.last + ms 100)).expireCtx c m
    | none => s

end Sys2Proof.Machine
end

