-- ==== Sys2Proof/Machine/Roce.lean ====
section
/-! DEFINITION. RoCEv2 compatibility mode (16 R500): packets in PSN order, on both sides of a connection. The layouts
and codes are those of the InfiniBand specification it names (assumption log 47). -/
namespace Sys2Proof.Machine

/-- `a − b` of 24-bit packet numbers, read as a signed number. -/
def psnDiff (a b : Nat) : Int := (BitVec.ofNat 24 a - BitVec.ofNat 24 b).toInt
/-- The times of the RNR timer codes in units of 10 µs. -/
def rnrTimes : List Nat :=
  [65536, 1, 2, 3, 4, 6, 8, 12, 16, 24, 32, 48, 64, 96, 128, 192, 256, 384, 512, 768, 1024, 1536, 2048, 3072, 4096, 6144,
   8192, 12288, 16384, 24576, 32768, 49152]
/-- The code of the timer value nearest above a delay of at most 10 ms. -/
def rnrCode (delayUs : Nat) : Nat := ((List.range 21).find? fun i => 1 ≤ i && delayUs ≤ 10 * rnrTimes.getD i 0).getD 20
/-- The NAK code of a reason: 1 invalid request, 2 access error, 3 operational error. -/
def nakCode (reason : Nat) : Nat :=
  match reason with | 3 | 4 | 5 | 6 => 2 | 7 | 8 => 3 | _ => 1
/-- The reason a NAK code stands for at the requester. -/
def codeReason (code : Nat) : Option Nat :=
  match code with | 1 => some 9 | 2 => some 3 | 3 => some 7 | _ => none

/-- An acknowledge packet with its AETH. -/
def State.roceAck (s : State) (c psn syndrome : Nat) : State :=
  let x := s.conn c
  s.sendRoce c (bth 0x11 0 x.set.remoteConn false psn ++ beBytes 1 syndrome ++ beBytes 3 x.msn)
/-- An RNR NAK for a packet. -/
def State.roceRnr (s : State) (c psn : Nat) : State :=
  (s.raCtr (c / 65536) 7 1).roceAck c psn (0x20 + rnrCode (s.conn c).set.rnrDelayUs)
/-- The receiver expects the packet `n` further on. -/
def State.psnPast (s : State) (c n : Nat) : State :=
  let x := s.conn c
  s.setConn c { x with rxPsn := (x.rxPsn + n) % 2 ^ 24 }
/-- The message being received ends: its context goes, and it is counted. -/
def State.roceEnd (s : State) (c : Nat) : State :=
  let x := s.conn c
  (s.setConn c { x with ctxs := [], msn := (x.msn + 1) % 2 ^ 24 }).raCtr (c / 65536) 5 1
/-- A packet ends its message with a NAK; `n` packet numbers are past. -/
def State.roceNak (s : State) (c psn n reason : Nat) : State :=
  let x := s.conn c
  let s := match x.ctxs.head?.bind (·.slot) with
    | some t => s.endJob x.set.qp t St.aborted reason (recvData c ((x.ctxs.head?.map fun (m : RxMsg) => m.got).getD 0))
    | none => s
  ((s.setConn c { x with ctxs := [] }).psnPast c n).roceAck c psn (0x60 + nakCode reason)
/-- A device-originated job takes its opcode and USER once they are known. -/
def State.retitle (s : State) (q : Nat) (slot : W32) (op : Nat) (user : W32) : State :=
  let x := s.qpOf q
  s.setQp q { x with jobs := x.jobs.map fun j => if j.slot = slot then { j with descs := [recordDesc op user] } else j }

/-- A packet of a SEND or WRITE, cut into its parts. -/
structure RocePart where
  psn : Nat
  first : Bool
  last : Bool
  write : Bool
  ack : Bool
  imm : Option W32
  raddr : Nat
  rkey : Nat
  len : Nat
  data : List Byte
/-- The parts of a packet with a SEND or WRITE opcode. -/
def rocePart (b : List Byte) : RocePart :=
  let op := nfld b 0 1
  let first := [0, 4, 5, 6, 0xA, 0xB].contains op
  let write := 6 ≤ op
  let imm := [3, 5, 9, 0xB].contains op
  let r := b.drop 12
  let t := if write && first then r.drop 16 else r
  let d := if imm then t.drop 4 else t
  { psn := nfld b 9 3, first := first, last := [2, 3, 4, 5, 8, 9, 0xA, 0xB].contains op, write := write
    ack := bit (nfld b 8 1) 7, imm := if imm then some (BitVec.ofNat 32 (nfld t 0 4)) else none
    raddr := nfld r 0 8, rkey := nfld r 8 4, len := nfld r 12 4
    data := d.take (d.length - nfld b 1 1 / 16 % 4) }
/-- The context of the message a packet belongs to: open, or opened by its first packet. -/
def Conn.roceCtx (x : Conn) (p : RocePart) (now : Nat) : Option RxMsg :=
  if p.first then
    some { id := BitVec.ofNat 32 x.msn, kind := if p.write then 1 else 4, raddr := p.raddr, rkey := p.rkey
           total := if p.write then p.len else bufSize (x.bufs.headD []), last := now, buf := if p.write then [] else x.bufs.headD [] }
  else x.ctxs.head?.filter fun m => (m.kind == 1) == p.write
/-- The packet's length agrees with its place in its message. -/
def RocePart.fits (p : RocePart) (m : RxMsg) (seg : Nat) : Bool :=
  (if p.last then p.data.length ≤ seg else p.data.length == seg) && m.got + p.data.length ≤ m.total &&
    (!p.write || !p.last || m.got + p.data.length == m.total)
/-- The packet needs a posted buffer and a completion slot: the first of a SEND, the last of a WRITE with Immediate. -/
def RocePart.consumes (p : RocePart) : Bool := if p.write then p.imm.isSome else p.first
/-- A packet is in place: the message may end with a record and an ACK. -/
def State.rocePlaced (s : State) (c : Nat) (p : RocePart) (m : RxMsg) : State :=
  let x := s.conn c
  let m := { m with got := m.got + p.data.length, last := s.clk }
  let s := s.psnPast c 1
  if p.last then
    let s := s.roceEnd c
    let s := match m.slot with
      | some t =>
        let r := s.fresh 32
        (r.2.retitle x.set.qp t (if p.write then 0x3F else 0x3E) (p.imm.getD r.1)).endJob x.set.qp t St.ok 0 (recvData c m.got)
      | none => s
    s.roceAck c p.psn 0x1F
  else
    let s := s.setConn c { s.conn c with ctxs := [m] }
    if p.ack then s.roceAck c p.psn 0x1F else s
/-- The expected packet of a SEND or WRITE. -/
def State.roceData (s : State) (c : Nat) (p : RocePart) : State × Bool :=
  let g := c / 65536
  let x := s.conn c
  match x.roceCtx p s.clk with
  | none => (s.psnPast c 1, true)
  | some m =>
    if p.consumes && (x.bufs.isEmpty || !s.canReserve x.set.qp) then (s.roceRnr c p.psn, true)
    else if p.first && x.ctxs.isEmpty && 16384 ≤ s.contexts g then (s.noContext g, true)
    else
      let key := if p.write then s.keyCheck m.rkey (m.raddr + m.got) p.data.length 1 c x else none
      match key with
      | some r => ((s.keyViolation g m.rkey r).roceNak c p.psn 1 r, true)
      | none =>
        if !p.fits m x.set.seg then
          let s := if p.write || !p.first then s else
            let r := (s.setConn c (x.consume 0)).reserve x.set.qp 0x3E 0
            r.2.setConn c { r.2.conn c with ctxs := [{ m with slot := some r.1 }] }
          let y := s.conn c
          let long := y.ctxs.head?.filter fun _ => !p.write
          let s := match long.bind (·.slot) with
            | some t => s.endJob x.set.qp t St.badArg 10 (recvData c (m.got + p.data.length))
            | none => s
          ((s.roceNak c p.psn 1 10), true)
        else
          let r := if p.write then s.raWrite g (s.remKey (m.rkey % 2 ^ 20)) (m.raddr + m.got) p.data
            else
              match s.localWrite x.set.qp (spreadOver m.buf m.got p.data) with
              | (s, .ok) => (s, .ok)
              | (s, .waits) => (s, .waits)
              | (s, _) => (s, .fault 7)
          match r with
          | (s, .waits) => (s, false)
          | (s, .rnr) => (s.roceRnr c p.psn, true)
          | (s, .fault r) => (s.roceNak c p.psn 1 r, true)
          | (s, .ok) =>
            if p.consumes then
              let r := (s.setConn c ((s.conn c).consume 0)).reserve x.set.qp 0x3E 0
              (r.2.rocePlaced c p { m with slot := some r.1 }, true)
            else (s.rocePlaced c p m, true)

/-- A READ request: the data in response packets from the request's PSN on; `dup` for one already answered. -/
def State.roceRead (s : State) (c : Nat) (acc : List HostCpl) (b : List Byte) (dup : Bool) : State × Bool :=
  let g := c / 65536
  let x := s.conn c
  let psn := nfld b 9 3
  let key := nfld b 20 4
  let len := nfld b 24 4
  let n := max 1 ((len + x.set.seg - 1) / x.set.seg)
  let past := if dup then 0 else n
  match s.keyCheck key (nfld b 12 8) len 0 c x with
  | some r => ((s.keyViolation g key r).roceNak c psn past r, true)
  | none =>
    match s.raRead g (s.remKey (key % 2 ^ 20)) (nfld b 12 8) len acc with
    | ((s, .waits), _) => (s, false)
    | ((s, .rnr), _) => (s.roceRnr c psn, true)
    | ((s, .fault r), _) => (s.roceNak c psn past r, true)
    | ((s, .ok), data) =>
      let s := if dup then s else (s.psnPast c n).roceEnd c
      let msn := (s.conn c).msn
      ((cutPackets data x.set.seg).foldl (fun s p =>
        let first := p.1 == 0
        let last := p.1 + 1 == n
        let op := if first && last then 0x10 else if first then 0x0D else if last then 0x0F else 0x0E
        s.sendRoce c (bth op (padOf p.2.2) x.set.remoteConn false ((psn + p.1) % 2 ^ 24) ++
          (if first || last then [0x1F] ++ beBytes 3 msn else []) ++ padded p.2.2)) s, true)
/-- The answer to an atomic. -/
def State.roceOld (s : State) (c psn : Nat) (old : List Byte) : State :=
  s.sendRoce c (bth 0x12 0 (s.conn c).set.remoteConn false psn ++ [0x1F] ++ beBytes 3 (s.conn c).msn ++ beBytes 8 (leNat old))
/-- The expected atomic: executed, cached and answered (R489). -/
def State.roceAtomic (s : State) (c : Nat) (acc : List HostCpl) (b : List Byte) : State × Bool :=
  let g := c / 65536
  let psn := nfld b 9 3
  let addr := nfld b 12 8
  let key := nfld b 20 4
  let add := nfld b 0 1 == 0x14
  let ops := if add then leBytes 8 (nfld b 24 8) else leBytes 8 (nfld b 32 8) ++ leBytes 8 (nfld b 24 8)
  match s.keyCheck key addr 8 2 c (s.conn c) with
  | some r => ((s.keyViolation g key r).roceNak c psn 1 r, true)
  | none =>
    if addr % 8 ≠ 0 then (s.roceNak c psn 1 9, true)
    else
      match s.raAtomic g (s.remKey (key % 2 ^ 20)) addr (if add then 1 else 2) 8 ops acc with
      | ((s, .waits), _) => (s, false)
      | ((s, .rnr), _) => (s.roceRnr c psn, true)
      | ((s, .fault r), _) => (s.roceNak c psn 1 r, true)
      | ((s, .ok), old) =>
        let x := s.conn c
        let s := s.setConn c { x with cache := SMap.set x.cache (psn % 256) (BitVec.ofNat 32 psn, old) }
        (((s.psnPast c 1).roceEnd c).roceOld c psn old, true)
/-- A request packet before the expected one: nothing is placed. -/
def State.roceAgain (s : State) (c : Nat) (acc : List HostCpl) (b : List Byte) : State × Bool :=
  let s := s.raCtr (c / 65536) 10 1
  let x := s.conn c
  match nfld b 0 1 with
  | 0x0C => s.roceRead c acc b true
  | 0x13 | 0x14 =>
    match SMap.get x.cache (nfld b 9 3 % 256) with
    | some e => if e.1.toNat = nfld b 9 3 then ((s.raCtr (c / 65536) 11 1).roceOld c (nfld b 9 3) e.2, true) else (s, true)
    | none => (s, true)
  | _ => (s.roceAck c ((x.rxPsn + 2 ^ 24 - 1) % 2 ^ 24) 0x1F, true)
/-- A request packet. -/
def State.roceRequest (s : State) (c : Nat) (acc : List HostCpl) (b : List Byte) : State × Bool :=
  let x := s.conn c
  let psn := nfld b 9 3
  let d := psnDiff psn x.rxPsn
  if x.state = 2 then (s.roceAck c psn (0x60 + nakCode 8), true)
  else if 0 < d then (s.roceAck c x.rxPsn 0x60, true)
  else if d < 0 then s.roceAgain c acc b
  else if nfld b 0 1 = 0x0C then s.roceRead c acc b false
  else if nfld b 0 1 = 0x13 ∨ nfld b 0 1 = 0x14 then s.roceAtomic c acc b
  else s.roceData c (rocePart b)

/-- The outstanding message a packet number belongs to. -/
def Conn.atPsn (x : Conn) (psn : Nat) : Option TxMsg :=
  x.tx.find? fun m => let d := psnDiff psn m.psn; 0 ≤ d && d < Int.ofNat (m.psns x.set.seg)
/-- Every WRITE and SEND that ends at or before a packet number is acknowledged. -/
def State.ackThrough (s : State) (c psn : Nat) : State :=
  let x := s.conn c
  (x.tx.filter fun m => (m.op == 0x20 || m.op == 0x22) &&
    psnDiff ((m.psn + m.psns x.set.seg - 1) % 2 ^ 24) psn ≤ 0).foldl (fun s m => s.settle c m St.ok 0 m.idData) s
/-- The sender goes back to a packet number. -/
def State.goBack (s : State) (c psn : Nat) : State :=
  let x := s.conn c
  match x.atPsn psn with
  | some m =>
    let renew (s : State) (y : TxMsg) : State := s.setMsg c { y with deadline := s.clk + us x.set.rtoUs, resendAt := none }
    let i := if m.op = 0x20 ∨ m.op = 0x22 then (psnDiff psn m.psn).toNat else 0
    let s := ((renew s m).raCtr (c / 65536) 6 1).transmitRoce c m i
    (x.tx.filter fun y => 0 < psnDiff y.psn m.psn).foldl (fun s y => (renew s y).transmitRoce c y 0) s
  | none => s
/-- An acknowledge packet. -/
def State.roceAcked (s : State) (c psn syndrome : Nat) : State :=
  let before := (psn + 2 ^ 24 - 1) % 2 ^ 24
  match syndrome / 32 with
  | 0 => s.ackThrough c psn
  | 1 =>
    let s := s.ackThrough c before
    match (s.conn c).atPsn psn with
    | some m => s.rnrTaken c m (us (10 * rnrTimes.getD (syndrome % 32) 0))
    | none => s
  | 3 =>
    let s := s.ackThrough c before
    if syndrome % 32 = 0 then s.goBack c psn
    else
      match codeReason (syndrome % 32), (s.conn c).atPsn psn with
      | some r, some m => s.nakTaken c m r
      | some _, none => s
      | none, _ => s.raCtr (c / 65536) 14 1
  | _ => s.raCtr (c / 65536) 14 1
/-- A response packet at the requester. -/
def State.roceResponse (s : State) (c : Nat) (b : List Byte) : State × Bool :=
  let g := c / 65536
  let op := nfld b 0 1
  let psn := nfld b 9 3
  let x := s.conn c
  let s := match x.atPsn psn with | some m => s.lateFirst c m.id | none => s
  let x := s.conn c
  if x.state ≠ 1 then (s, true)
  else if op = 0x11 then (s.roceAcked c psn (nfld b 12 1), true)
  else
    match x.atPsn psn with
    | none => (s.raCtr g 9 1, true)
    | some m =>
      let s := s.ackThrough c ((m.psn + 2 ^ 24 - 1) % 2 ^ 24)
      if op = 0x12 then if m.isAtomic then s.atomicBytes c m (leBytes 8 (nfld b 16 8)) else (s.raCtr g 9 1, true)
      else if m.op = 0x21 then
        let d := if op = 0x0E then b.drop 12 else b.drop 16
        let i := (psnDiff psn m.psn).toNat
        s.readBytes c m i (i * x.set.seg) (d.take (d.length - nfld b 1 1 / 16 % 4))
      else (s.raCtr g 9 1, true)
/-- A congestion notification goes out, at most once in a window of 50 µs (R500). -/
def State.sendCnp (s : State) (c : Nat) : State :=
  let x := s.conn c
  if x.lastCnp.any fun t => s.clk < t + us 50 then s
  else
    ((s.setConn c { x with lastCnp := some s.clk }).raCtr (c / 65536) 20 1).sendRoce c
      (bth 0x81 0 x.set.remoteConn false 0 ++ zeros 16)
/-- A RoCEv2 packet. -/
def State.roceTaken (acc : List HostCpl) (s : State) (p : NetPkt) : State × Bool :=
  let b := p.bytes
  let c := nfld b 5 3
  let op := nfld b 0 1
  let x := s.conn c
  if x.state = 0 then (s.raCtr (c / 65536) 15 1, true)
  else if op = 0x81 then (if x.state = 1 then s.cutWindow c else s, true)
  else
    let s := if p.ce then s.sendCnp c else s
    if op ≤ 0x0C ∨ op = 0x13 ∨ op = 0x14 then s.roceRequest c acc b
    else if op ≤ 0x12 then s.roceResponse c b
    else (s.raCtr (c / 65536) 14 1, true)
/-- ROCEV2_PACKET_RECEIVE (R500). -/
def execRocev2PacketReceive (g : Nat) (acc : List HostCpl) (s : State) : Res :=
  whenRunning s fun s => s.raRow g (·.roce) (State.roceTaken acc)

end Sys2Proof.Machine
end

