-- ==== Sys2Proof/Machine/Cipher.lean ====
section
/-! DEFINITION. Cipher engines (17): keys, security associations, jobs and inline ESP on the engines, and the CIPHER
commands. What an algorithm computes is an opaque function of Config. -/
namespace Sys2Proof.Machine

/-- The state with an engine replaced. -/
def State.setEngine (s : State) (g e : Nat) (x : Engine) : State :=
  { s with ci := { s.ci with engines := SMap.set s.ci.engines (4 * g + e) x } }
/-- A key entry replaced. -/
def State.setCKey (s : State) (i : Nat) (k : CKey) : State := { s with ci := { s.ci with keys := SMap.set s.ci.keys i k } }
/-- A security association. -/
def State.sa (s : State) (a : Nat) : Sa := SMap.getD s.ci.sas a {}
def State.setSa (s : State) (a : Nat) (x : Sa) : State := { s with ci := { s.ci with sas := SMap.set s.ci.sas a x } }

/-! ## Keys (R513 to R516) -/

/-- GEN of an index: drawn at the start until the first key advances it (R516). -/
def State.ckeyGen (s : State) (i : Nat) : Nat :=
  (SMap.getD s.ci.keys i {}).gen.getD (Config.randomDraw 12 (s.ci.draw + i)).toNat
/-- An index no key uses. -/
def State.ckeyFree (s : State) (i : Nat) : Bool :=
  let k := SMap.getD s.ci.keys i {}
  !k.valid && !k.destroying
/-- The lowest free index from 1 on. -/
def State.freeKey (s : State) : Option Nat :=
  ((List.range (s.ci.keys.length + 1)).map (· + 1)).find? fun i => i < 2 ^ 20 && s.ckeyFree i
/-- Key bytes of an algorithm (R505). -/
def keyBytes (alg : Nat) : Nat := match alg with | 1 => 16 | 5 => 64 | _ => 32
/-- The key and IV a KEY_SET payload carries, clear or unwrapped (R514; 19 R586); none when the wrap does not verify. -/
def keyMaterial (owk : Option (BitVec 256)) (p : List Byte) : Option (List Byte × List Byte × Nat) :=
  if fld p 2 1 = 0 then some (slice p 4 64, slice p 68 12, fld p 80 8)
  else
    match owk with
    | none => none
    | some kek => (Config.keyUnwrap kek (slice p 4 72)).map fun k => ((k ++ zeros 64).take 64, slice p 76 12, 0)
/-- The values of key material are in range. -/
def materialOk (alg use : Nat) (key iv : List Byte) (seq : Nat) : Bool :=
  let n := keyBytes alg
  leNat (key.drop n) == 0 && (use == 4 || (leNat (iv.drop (if use = 2 then 4 else 0)) == 0 && seq == 0)) &&
    (alg ≤ 3 || key.take (n / 2) != slice key (n / 2) (n / 2))
/-- CIPHER.KEY_SET (R513, R514). -/
def cipherKeySetBody : Body := fun s r =>
  let p := r.payload
  let alg := fld p 0 1
  let use := fld p 1 1
  chk s.hasCipher St.notPresent <|
  chk (p.length == 88 && 1 ≤ alg && alg ≤ 5 && (use == 1 || ((use == 2 || use == 4) && alg ≤ 3)) && fld p 2 1 ≤ 1 &&
    zeroAt p 3 1 && (fld p 2 1 == 1 || materialOk alg use (slice p 4 64) (slice p 68 12) (fld p 80 8))) St.badArg <|
  chk (fld p 2 1 == 0 || s.nv.owk.isSome) St.denied <|
  match keyMaterial s.nv.owk p with
  | none => .error St.badAuth
  | some (key, iv, seq) =>
    chk (materialOk alg use key iv seq) St.badArg <|
    match s.freeKey with
    | none => .error St.noSpace
    | some i =>
      let gen := (s.ckeyGen i + 1) % 4096
      done (s.setCKey i { valid := true, gen := some gen, alg := alg, use := use, key := key.take (keyBytes alg), iv := iv
                          seq := seq, owner := r.actor })
        (leBytes 4 (2 ^ 20 * gen + i))
def execCipherKeySet (s : State) : Res := slaotRow 0x0801 cipherKeySetBody s
/-- The entry whose handle a command names, valid or being destroyed. -/
def State.keyNamed (s : State) (h : Nat) : Option CKey :=
  (SMap.get s.ci.keys (h % 2 ^ 20)).filter fun k => (k.valid || k.destroying) && k.gen == some (h / 2 ^ 20)
/-- The checks of a command on one key. -/
def ckeyCmd (f : State → Nat → CKey → Except Nat Done) : Body := fun s r =>
  let h := fld r.payload 0 4
  chk s.hasCipher St.notPresent <| chk (r.payload.length == 4) St.badArg <|
  match s.keyNamed h with
  | none => .error St.notFound
  | some k => chk (r.actor == operator || k.owner == r.actor) St.notOwner <| f s h k
/-- CIPHER.KEY_GET. -/
def cipherKeyGetBody : Body := ckeyCmd fun s _ k =>
  done s (leBytes 1 k.alg ++ leBytes 1 k.use ++ leBytes 1 (b2n k.destroying) ++ zeros 1 ++ leBytes 8 k.seq)
def execCipherKeyGet (s : State) : Res := slaotRow 0x0802 cipherKeyGetBody s
/-- CIPHER.KEY_DESTROY (R515). -/
def cipherKeyDestroyBody : Body := ckeyCmd fun s h k =>
  chk (!(s.ci.sas.any fun a => a.2.valid && a.2.handle == h) &&
    !(s.cfg.namespaces.any fun n => n.2.kind != 0 && n.2.keyHandle == h)) St.busy <|
  done (s.setCKey (h % 2 ^ 20) { k with valid := false, destroying := true })
def execCipherKeyDestroy (s : State) : Res := slaotRow 0x0803 cipherKeyDestroyBody s
/-- A job that has started, or a message on an engine, still uses a key entry. -/
def State.keyUsed (s : State) (i : Nat) (gen : Option Nat) : Bool :=
  (s.ci.engines.any fun e => e.2.msgs.any fun m => !m.ended && m.index == i) ||
    s.qp.qps.any fun q => q.2.set.kind == 3 && q.2.jobs.any fun j =>
      j.st == .running && dOp (j.descs.headD 0) != 1 && dOp (j.descs.headD 0) != 2 &&
        keyHandle j.descs % 2 ^ 20 == i && some (keyHandle j.descs / 2 ^ 20) == gen
/-- KEY_ENTRY_ZEROIZE (R515): the index is free, its generation stays. -/
def execKeyEntryZeroize (i : Nat) (s : State) : Res :=
  whenRunning s fun s =>
    let k := SMap.getD s.ci.keys i {}
    if k.destroying && !s.keyUsed i k.gen then s.setCKey i { gen := k.gen } else s

/-! ## Security associations (R526, R527) -/

/-- The partition whose owner owns an SA. -/
def saPart (a : Nat) : Nat := 768 + 16 * (a / 65536) + a % 65536 / 4096
/-- The SA a SA_SET payload gives. -/
def readSa (p : List Byte) : Sa :=
  { valid := true, inbound := fld p 4 1 == 1, tunnel := fld p 5 1 == 1, esn := bit (fld p 6 1) 0, l3Toff := fld p 7 1
    handle := fld p 8 4, spi := nfld p 12 4, seq := fld p 16 8, lifeSoft := fld p 24 8, lifeHard := fld p 32 8
    template := slice p 41 (fld p 40 1), window := if fld p 4 1 = 1 then 1 else 0 }
/-- The values of a SA_SET payload are in range. -/
def saOk (p : List Byte) : Bool :=
  let a := readSa p
  fld p 0 4 < 2 ^ 20 && fld p 4 1 ≤ 1 && fld p 5 1 ≤ 1 && fld p 6 1 ≤ 1 && 256 ≤ a.spi && (a.inbound || 1 ≤ a.seq) &&
    (a.inbound || !a.tunnel || (34 ≤ fld p 40 1 && fld p 40 1 ≤ 64 &&
      (nfld a.template a.l3Toff 1 / 16 == 4 || nfld a.template a.l3Toff 1 / 16 == 6) &&
      a.l3Toff + (if nfld a.template a.l3Toff 1 / 16 = 4 then 20 else 40) ≤ fld p 40 1))
/-- CIPHER.SA_SET. -/
def saSetBody : Body := fun s r =>
  let p := r.payload
  let a := fld p 0 4
  let x := readSa p
  chk s.hasCipher St.notPresent <| chk (p.length == 105 && saOk p) St.badArg <|
  chk (a / 65536 < s.groves) St.notPresent <| chk (s.owns r.actor 6 (saPart a)) St.notOwner <|
  chk (!s.groveFailed (a / 65536)) St.internal <|
  match s.cipherKey x.handle with
  | none => .error St.notFound
  | some k =>
    chk (k.owner == r.actor) St.notOwner <| chk (k.use == 2) St.badArg <| chk (!(s.sa a).valid) St.exists_ <|
    done (s.setSa a x)
def execCipherSaSet (s : State) : Res := slaotRow 0x0804 saSetBody s
/-- The checks of a command on one SA. -/
def saCmd (f : State → Nat → Except Nat Done) : Body := fun s r =>
  let a := fld r.payload 0 4
  chk s.hasCipher St.notPresent <| chk (r.payload.length == 4 && a < 2 ^ 20) St.badArg <|
  chk (a / 65536 < s.groves) St.notPresent <| chk (s.owns r.actor 6 (saPart a)) St.notOwner <| f s a
/-- CIPHER.SA_GET (R534). -/
def saGetBody : Body := saCmd fun s a =>
  let x := s.sa a
  done s (leBytes 4 a ++ leBytes 1 (b2n x.inbound) ++ leBytes 1 (b2n x.tunnel) ++ leBytes 1 (b2n x.esn) ++ leBytes 1 x.l3Toff ++
    leBytes 4 x.handle ++ beBytes 4 x.spi ++ leBytes 8 x.seq ++ leBytes 8 x.lifeSoft ++ leBytes 8 x.lifeHard ++
    leBytes 1 x.template.length ++ leBytes 1 (b2n x.valid) ++ leBytes 1 (b2n x.stopped) ++ zeros 2 ++ leBytes 8 x.protected_)
def execCipherSaGet (s : State) : Res := slaotRow 0x0805 saGetBody s
/-- CIPHER.SA_DESTROY. -/
def saDestroyBody : Body := saCmd fun s a =>
  chk (!s.groveFailed (a / 65536)) St.internal <| done { s with ci := { s.ci with sas := SMap.del s.ci.sas a } }
def execCipherSaDestroy (s : State) : Res := slaotRow 0x0806 saDestroyBody s

/-! ## Classes and modes (R506, R517) -/

/-- Engines of a grove that run in a mode, fenced ones included. -/
def State.modeShare (s : State) (g : Nat) (susp : Bool) : Nat :=
  ((List.range 4).filter fun e => (s.engine g e).suspendable == susp).length
/-- CIPHER.QP_BIND. -/
def cipherBindBody : Body := fun s r =>
  let p := r.payload
  let q := fld p 0 2
  let susp := fld p 2 1 == 1
  chk s.hasCipher St.notPresent <| chk (p.length == 4 && fld p 2 1 ≤ 1 && fld p 3 1 ≤ 1) St.badArg <|
  chk (s.qpPresent q) St.notPresent <| chk (s.owns r.actor 2 q) St.notOwner <|
  chk ((s.qpOf q).state == 1) St.busy <|
  chk ((s.qpOf q).set.kind == 3 && (susp || fld p 3 1 == 0) && s.modeShare (q / 4096) susp != 0) St.badArg <|
  chk (!s.groveFailed (q / 4096)) St.internal <|
  done (s.setQp q { s.qpOf q with cipherClass := if susp then 1 + fld p 3 1 else 0 })
def execCipherQpBind (s : State) : Res := slaotRow 0x0807 cipherBindBody s
/-- CIPHER.ENGINE_SET: it takes effect at the next start (R506). -/
def cipherEngineSetBody : Body := fun s r =>
  let p := r.payload
  chk s.hasCipher St.notPresent <| chk (p.length == 4 && fld p 2 1 ≤ 4 && zeroAt p 3 1) St.badArg <|
  chkGroves s r (fld p 0 2) false <|
  done { s with cfg := { s.cfg with
    suspendable := (maskGroves (fld p 0 2)).foldl (fun m g => SMap.set m g (fld p 2 1)) s.cfg.suspendable } }
def execCipherEngineSet (s : State) : Res := slaotRow 0x0808 cipherEngineSetBody s
/-- CIPHER.STATS (R535). -/
def cipherStatsBody : Body := fun s r =>
  let g := fld r.payload 0 1
  chk s.hasCipher St.notPresent <| chk (r.payload.length == 4 && g < 16 && zeroAt r.payload 1 3) St.badArg <|
  chk (g < s.groves) St.notPresent <| done s (ctrBytes (SMap.getD s.ci.ctrs g []) 16)
def execCipherStats (s : State) : Res := slaotRow 0x0809 cipherStatsBody s

/-! ## Messages on engines (R507 to R511) -/

/-- The messages that an engine still has to run, oldest first. -/
def Engine.running (e : Engine) : List CMsg := e.msgs.filter (!·.ended)
/-- Bytes queued at an engine. -/
def Engine.queued (e : Engine) : Nat := (e.running.map fun m => m.total - m.doneBytes).foldl (· + ·) 0
/-- The engine of a list with the fewest bytes queued, the lowest on ties (R517). -/
def State.leastQueued (s : State) (g : Nat) : List Nat → Option Nat
  | [] => none
  | e :: es =>
    match s.leastQueued g es with
    | some f => if (s.engine g f).queued < (s.engine g e).queued then some f else some e
    | none => some e
/-- The open messages: those that run, and jobs that have ended and whose record is still to be written (R508). -/
def State.openMsgs (s : State) (g e : Nat) : List CMsg :=
  (s.engine g e).msgs.filter fun m => !m.ended ||
    match m.msg with | .job q slot => ((s.qpOf q).job slot).isSome | .frame _ => false
/-- The engine of SA a: engine a mod 4 of its grove while it lives, and the next live one after it else, so that an SA moves
only when its engine is fenced (R528). -/
def State.saEngine (s : State) (g a : Nat) : Option Nat :=
  ((List.range 4).map fun i => (a + i) % 4).find? fun e => (s.live 0x06 g 4).contains e
/-- The SA a frame's action names. -/
def FrameRec.saOf (f : FrameRec) : Nat := eDest f.entry % 2 ^ 20
/-- The frames that wait for an engine, in order. -/
def State.cipherWaiting (s : State) (g e : Nat) : List Nat :=
  (s.sinkQueue g .cipher).filter fun t => (s.frame t).any fun f => s.saEngine g f.saOf == some e
/-- An engine can open a message: a whole-message engine one, between jobs the frames that are ready first; a suspendable
one a single urgent message, bulk ones while two slots are free, one AEAD_OPEN among them (R507, R508). -/
def State.mayOpen (s : State) (g e : Nat) (urgent frame aeadOpen : Bool) : Bool :=
  let x := s.engine g e
  let l := s.openMsgs g e
  if x.suspendable then
    if urgent then !(l.any (·.urgent)) && l.length < 64
    else l.length ≤ 62 && !(aeadOpen && l.any fun m => !m.urgent && m.op == 1)
  else x.running.isEmpty && (frame || (s.cipherWaiting g e).isEmpty)
/-- A job is opened on an engine of its class (R508, R511, R517). Messages that wait for no input run one after the other, so
that a share of the hold buffer is passed by one message alone. -/
def State.openJob (s : State) (q : Nat) (slot : W32) (op : Nat) : State :=
  let g := q / 4096
  match s.readyJob q slot op with
  | none => s
  | some j =>
    let c := (s.qpOf q).cipherClass
    match s.leastQueued g (s.engines g (c != 0)) with
    | none => s.refuseCipher q slot St.aborted 3
    | some e =>
      let x := s.engine g e
      let n := heldBytes (c != 0) j.descs
      if !s.mayOpen g e (c == 2) false (op == 0x41) then s
      else if (if c = 0 then 524288 else if c = 1 then 458752 else 65536) < n then
        s.refuseCipher q slot St.tooLong 2
      else
        let h := keyHandle j.descs
        let m : CMsg := { msg := .job q slot, urgent := c == 2, op := op - 0x40, index := h % 2 ^ 20, key := s.cipherEntry h
                          seq := j.seq, total := j.data.length }
        (((s.markActed q j).setEngine g e { x with msgs := s.openMsgs g e ++ [m] }).ciCtr g 0 1).ciCtr g 1 m.total
/-- AEAD_SEAL. -/
def execAeadSeal (q : Nat) (slot : W32) (s : State) : Res := whenRunning s fun s => s.openJob q slot 0x40
/-- AEAD_OPEN. -/
def execAeadOpen (q : Nat) (slot : W32) (s : State) : Res := whenRunning s fun s => s.openJob q slot 0x41
/-- XTS_ENC. -/
def execXtsEnc (q : Nat) (slot : W32) (s : State) : Res := whenRunning s fun s => s.openJob q slot 0x42
/-- XTS_DEC. -/
def execXtsDec (q : Nat) (slot : W32) (s : State) : Res := whenRunning s fun s => s.openJob q slot 0x43
/-- TLS_SEAL. -/
def execTlsSeal (q : Nat) (slot : W32) (s : State) : Res := whenRunning s fun s => s.openJob q slot 0x44
/-- TLS_OPEN. -/
def execTlsOpen (q : Nat) (slot : W32) (s : State) : Res := whenRunning s fun s => s.openJob q slot 0x45

/-- The IV of an AEAD header, in memory order (R519). -/
def aeadIv (ds : List Desc) : List Byte := leBytes 12 (dBits (ds.headD 0) 223 128)
/-- The nonce of a TLS record: write_iv XOR the sequence number (R523). -/
def tlsNonce (iv : List Byte) (seq : Nat) : List Byte := (iv.zip (zeros 4 ++ beBytes 8 seq)).map fun x => x.1 ^^^ x.2
/-- AAD_LEN of a job. -/
def aadLen (ds : List Desc) : Nat := match dOp (ds.headD 0) with | 0x40 | 0x41 => dLen (ds.headD 0) | 0x44 | 0x45 => 5 | _ => 0
/-- The nonce, or the tweak, a job runs under. -/
def CMsg.nonce (m : CMsg) (ds : List Desc) : List Byte :=
  match dOp (ds.headD 0) with
  | 0x40 | 0x41 => aeadIv ds
  | 0x44 | 0x45 => tlsNonce m.key.iv m.seq
  | _ => leBytes 16 (dBits (ds.headD 0) 127 96 + 2 ^ 32 * dBits (ds.headD 0) 223 128)
/-- The context slot of a message suspended after `n` input bytes (R510). -/
def CMsg.saved (m : CMsg) (ds : List Desc) (data : List Byte) (n held : Nat) : BitVec 512 :=
  let handle := 2 ^ 20 * m.key.gen.getD 0 + m.index
  BitVec.ofNat 512 (2 ^ 480 * handle + 2 ^ 222 * (Config.cipherContext m.key.alg m.key.key (m.nonce ds) (data.take n)).toNat +
    2 ^ 158 * n + 2 ^ 94 * aadLen ds + 2 ^ 75 * held + 2 ^ 72 * m.op)
/-- The first message a predicate picks is changed. -/
def updateFirst {α : Type} (p : α → Bool) (f : α → α) : List α → List α
  | [] => []
  | x :: xs => if p x then f x :: xs else x :: updateFirst p f xs
/-- A bulk message that runs. -/
def CMsg.bulk (m : CMsg) : Bool := !m.urgent && !m.ended
/-- URGENT_PREEMPT (R509): for an urgent message that is open, or a frame that is ready, the oldest bulk message is suspended
at the block boundary `n`. -/
def execUrgentPreempt (g e n : Nat) (s : State) : Res :=
  whenRunning s fun s =>
    let x := s.engine g e
    if x.suspendable && (x.running.any (·.urgent) || !(s.cipherWaiting g e).isEmpty) then
      match x.msgs.find? CMsg.bulk with
      | some m =>
        match m.msg, m.suspended with
        | .job q slot, false =>
          match (s.qpOf q).job slot with
          | some j =>
            let n := max m.doneBytes (min (n / 16 * 16) m.total)
            let held := min (n - aadLen j.descs) (heldBytes true j.descs)
            let m' := { m with suspended := true, doneBytes := n, slot := m.saved j.descs j.data n held }
            (s.setEngine g e { x with msgs := updateFirst CMsg.bulk (fun _ => m') x.msgs }).ciCtr g 4 1
          | none => s
        | _, _ => s
      | none => s
    else s
/-- BULK_RESUME (R509): once no urgent message is open, the oldest bulk message goes on from its slot. -/
def execBulkResume (g e : Nat) (s : State) : Res :=
  whenRunning s fun s =>
    let x := s.engine g e
    if x.running.any (·.urgent) then s
    else s.setEngine g e { x with msgs := updateFirst CMsg.bulk (fun m => { m with suspended := false }) x.msgs }

/-! ## The end of a job (R512, R522 to R525) -/

/-- Exactly `n` bytes of an algorithm's output. -/
def fit (n : Nat) (b : List Byte) : List Byte := (b ++ zeros n).take n
/-- The plaintext of a tagged input, when its tag verifies. -/
def openText (m : CMsg) (nonce aad text : List Byte) : Option (List Byte) :=
  (Config.aeadOpen m.key.alg m.key.key nonce aad text).map (fit (text.length - 16))
/-- What a job's message gives: status, DETAIL, DATA and output bytes. -/
structure CipherOut where
  status : Nat := 0
  detail : Nat := 0
  data : W64 := 0
  out : List Byte := []
/-- An outcome whose DATA counts the bytes written. -/
def wrote (out : List Byte) : CipherOut := { data := BitVec.ofNat 64 out.length, out := out }
/-- The content and type of an inner plaintext: its last byte that is not zero is the type (R523). -/
def tlsInner (b : List Byte) : Option (List Byte × Byte) :=
  match (b.reverse.dropWhile (· == 0)) with
  | t :: r => some (r.reverse, t)
  | [] => none
/-- TLS_OPEN of a record. -/
def tlsOpen (m : CMsg) (ds : List Desc) (rec : List Byte) : CipherOut :=
  let len := dBits (ds.headD 0) 127 96
  match openText m (m.nonce ds) (rec.take 5) (rec.drop 5) with
  | none => { status := St.badAuth, detail := 1 }
  | some inner =>
    if rec.take 3 ≠ [0x17, 0x03, 0x03] ∨ nfld rec 3 2 ≠ len then { status := St.badArg, detail := 6 }
    else
      match tlsInner inner with
      | none => { status := St.badArg, detail := 6 }
      | some (c, t) => { data := BitVec.ofNat 64 (2 ^ 56 * t.toNat + 2 ^ 32 * c.length + m.seq % 2 ^ 32), out := c }
/-- The outcome of a job's message on its input stream. -/
def jobOut (m : CMsg) (ds : List Desc) (b : List Byte) : CipherOut :=
  let h := ds.headD 0
  match dOp h with
  | 0x40 =>
    let n := b.length - dLen h
    wrote (fit (n + 16) (Config.aeadSeal m.key.alg m.key.key (m.nonce ds) (b.take (dLen h)) (b.drop (dLen h))))
  | 0x41 =>
    match openText m (m.nonce ds) (b.take (dLen h)) (b.drop (dLen h)) with
    | some t => wrote t
    | none => { status := St.badAuth, detail := 1 }
  | 0x42 | 0x43 =>
    wrote (fit b.length (Config.xts (dOp h == 0x42) m.key.alg m.key.key (leNat (m.nonce ds)) (dBits h 95 92) b))
  | 0x44 =>
    let pad := dBits h 95 80
    let n := b.length + 1 + pad
    let head : List Byte := [0x17, 0x03, 0x03] ++ beBytes 2 (n + 16)
    let inner := b ++ [BitVec.ofNat 8 (dBits h 223 216)] ++ zeros pad
    { data := BitVec.ofNat 64 m.seq
      out := head ++ fit (n + 16) (Config.aeadSeal m.key.alg m.key.key (m.nonce ds) head inner) }
  | _ => tlsOpen m ds b
/-- A message has ended, and with it what it held (R512). It leaves its engine; a job's message keeps its context slot on a
suspendable one (R508). -/
def State.closeMsg (s : State) (g e : Nat) (m : CMsg) : State :=
  let x := s.engine g e
  let keeps := x.suspendable && match m.msg with | .job _ _ => true | .frame _ => false
  s.setEngine g e { x with
    msgs := if keeps then updateFirst (fun y => !y.ended && y.msg == m.msg) (fun y => { y with ended := true }) x.msgs
      else x.msgs.filter (·.msg != m.msg) }
/-- A job's message ends: its output is written, or nothing of it is (R512). -/
def State.endCipherJob (s : State) (g e : Nat) (m : CMsg) (q : Nat) (j : Job) (poisoned : Bool) : State :=
  let o : CipherOut := if poisoned then { status := St.aborted, detail := 7 } else jobOut m j.descs j.data
  if o.status ≠ 0 then
    let s := if o.detail = 1 then s.ciCtr g 5 1 else s
    (s.closeMsg g e m).endJob q j.slot o.status o.detail 0
  else
    match s.dmaWritesBy (cipherMaster g) (s.qpOwner q) (s.qpOf q).pasidOpt ((s.qpOf q).set.flags.getLsbD 0)
        (spreadOver ((outSegs j.descs).map fun d => (dAddr d, dLen d)) 0 o.out) with
    | (s, .waits) => s
    | (s, .ok) => (s.closeMsg g e m).endJob q j.slot St.ok 0 o.data
    | (s, .refused) => (s.closeMsg g e m).endJob q j.slot St.denied 0 0
    | (s, .denied) => (s.closeMsg g e m).endJob q j.slot St.aborted 5 0

/-! ## Inline ESP (R526 to R532) -/

/-- The IP header of a frame: version, offset and length; none without one, or where the trail stops (R532). -/
def espIp (b : List Byte) : Option (Nat × Nat × Nat) :=
  let h := parseHdrs (b.take 256)
  if bit h.bits 7 then none
  else if bit h.bits 2 then some (4, h.l3, 4 * (nfld b h.l3 1 % 16))
  else if bit h.bits 3 then some (6, h.l3, 40) else none
/-- The IP packet's bytes, without what follows it in the frame. -/
def ipPacket (b : List Byte) (v l3 : Nat) : List Byte :=
  slice b l3 (if v = 4 then nfld b (l3 + 2) 2 else nfld b (l3 + 4) 2 + 40)
/-- An IP header with its next protocol and the length of what follows it. -/
def ipHeader (h : List Byte) (v proto len : Nat) : List Byte :=
  if v = 4 then
    let h := setAt (setAt (setAt h 2 (beBytes 2 (h.length + len))) 9 (beBytes 1 proto)) 10 [0, 0]
    setAt h 10 (beBytes 2 (inetChecksum h))
  else setAt (setAt h 4 (beBytes 2 (h.length + len - 40))) 6 (beBytes 1 proto)
/-- AAD of ESP. -/
def espAad (a : Sa) (seq : Nat) : List Byte := beBytes 4 a.spi ++ if a.esn then beBytes 8 seq else beBytes 4 seq
/-- The nonce of ESP. -/
def espNonce (k : CKey) (iv : List Byte) : List Byte := k.iv.take 4 ++ iv
/-- The plaintext of ESP: payload, padding 1, 2, 3, ..., pad length and next header (R529). -/
def espPlain (payload : List Byte) (next : Nat) : List Byte :=
  let pad := (4 - (payload.length + 2) % 4) % 4
  payload ++ (List.range pad).map (fun i => BitVec.ofNat 8 (i + 1)) ++ beBytes 1 pad ++ beBytes 1 next
/-- What is encrypted of a frame outbound, with its next header. -/
def espInner (a : Sa) (b : List Byte) (v l3 hl : Nat) : List Byte :=
  let ip := ipPacket b v l3
  if a.tunnel then espPlain ip (if v = 4 then 4 else 41)
  else espPlain (ip.drop hl) (if v = 4 then nfld ip 9 1 else nfld ip 6 1)
/-- The frame outbound from its encrypted part (R529). -/
def espSealed (a : Sa) (k : CKey) (seq : Nat) (b : List Byte) (v l3 hl : Nat) : List Byte :=
  let plain := espInner a b v l3 hl
  let iv := beBytes 8 seq
  let ct := fit (plain.length + 16) (Config.aeadSeal k.alg k.key (espNonce k iv) (espAad a seq) plain)
  let esp := beBytes 4 a.spi ++ beBytes 4 (seq % 2 ^ 32) ++ iv ++ ct
  if a.tunnel then
    let ip := a.template.drop a.l3Toff
    let v := nfld ip 0 1 / 16
    let ip := if v = 4 then setAt ip 4 [0, 0] else ip
    a.template.take a.l3Toff ++ ipHeader ip v 50 esp.length ++ esp
  else b.take l3 ++ ipHeader (slice b l3 hl) v 50 esp.length ++ esp
/-- The 64-bit sequence number of an inbound packet (RFC 4303 Appendix A). -/
def espSeq (a : Sa) (low : Nat) : Nat :=
  if !a.esn then low
  else
    let tl := a.seq % 2 ^ 32
    let th := a.seq / 2 ^ 32
    let hi := if 1023 ≤ tl then if tl - 1023 ≤ low then th else th + 1
      else if tl + 2 ^ 32 - 1023 ≤ low then th - 1 else th
    2 ^ 32 * hi + low
/-- A sequence number is below the replay window or marked in it (R530). -/
def Sa.replayed (a : Sa) (n : Nat) : Bool := n + 1024 ≤ a.seq || (n ≤ a.seq && a.window.getLsbD (a.seq - n))
/-- A sequence number marked in the window. -/
def Sa.mark (a : Sa) (n : Nat) : Sa :=
  if a.seq < n then { a with seq := n, window := (a.window <<< (n - a.seq)) ||| 1 }
  else { a with window := a.window ||| (1 <<< (a.seq - n)) }
/-- The device source of SA events (R533). -/
def State.fireSa (s : State) (a type : Nat) : State := s.fireDev (a / 65536) 10 type (BitVec.ofNat 32 a)
/-- Protected bytes are added; LIFE_SOFT fires once (R531). -/
def State.protect (s : State) (a n : Nat) : State :=
  let x := s.sa a
  let x := { x with protected_ := x.protected_ + n }
  let soft := x.lifeSoft != 0 && x.lifeSoft ≤ x.protected_ && !x.softFired
  let s := s.setSa a { x with softFired := x.softFired || soft }
  if soft then s.fireSa a Ev.saSoft else s
/-- An SA stops, with its event once (R531). -/
def State.stopSa (s : State) (a : Nat) : State :=
  if (s.sa a).stopped then s else (s.setSa a { s.sa a with stopped := true }).fireSa a Ev.saHard
/-- A frame is freed and counted. -/
def State.dropEsp (s : State) (g t i : Nat) : State := (s.ciCtr g i 1).takeSink g t
/-- A frame that waits for its engine, first in line for it. -/
def State.espHead (s : State) (t : Nat) : Option (FrameRec × Nat) :=
  let g := tagGrove t
  match s.frame t with
  | some f =>
    match s.saEngine g f.saOf with
    | some e => if (s.cipherWaiting g e).head? = some t then some (f, e) else none
    | none => if (s.sinkQueue g .cipher).head? = some t then some (f, 4) else none
  | none => none
/-- The bytes of a frame at a sink, without its check sequence. -/
def FrameRec.body (f : FrameRec) : List Byte :=
  let b := f.edited.getD f.bytes
  b.take (b.length - 4)
/-- A frame is opened on its SA's engine: as a whole message, or as an urgent one (R528). It leaves the sink queue. -/
def State.openFrame (s : State) (g t e : Nat) (m : CMsg) : State :=
  let x := s.engine g e
  let s := s.setSink g .cipher ((s.sinkQueue g .cipher).filter (· != t))
  ((s.setEngine g e { x with msgs := s.openMsgs g e ++ [m] }).ciCtr g 2 1).ciCtr g 3
    m.total
/-- The checks both directions share (R531, R532): the frame is freed, waits, or goes on with its key and IP header. -/
def State.espStart (s : State) (t : Nat) (inbound : Bool)
    (k : State → Nat → Nat → Nat → Sa → CKey → List Byte → Nat × Nat × Nat → State) : State :=
  let g := tagGrove t
  match s.espHead t with
  | none => s
  | some (f, e) =>
    let a := f.saOf
    let x := s.sa a
    let b := f.body
    if x.valid && x.inbound != inbound then s
    else if e = 4 then s.dropEsp g t 7
    else if !s.mayOpen g e true true false then s
    else
      match x.valid, s.cipherKey x.handle, espIp b with
      | true, some key, some ip =>
        if x.stopped then s.dropEsp g t 11 else k s g e a x key b ip
      | true, some _, none => s.dropEsp g t 12
      | _, _, _ => s.dropEsp g t 10
/-- ESP_OUTBOUND (R529). -/
def execEspOutbound (t : Nat) (s : State) : Res :=
  whenRunning s fun s => s.espStart t false fun s g e a x key b ip =>
    let n := (espInner x b ip.1 ip.2.1 ip.2.2).length
    if 16000 < (wireFrame (espSealed x key x.seq b ip.1 ip.2.1 ip.2.2)).length then s.dropEsp g t 13
    else if x.lifeHard ≠ 0 ∧ x.lifeHard < x.protected_ + n then (s.stopSa a).dropEsp g t 11
    else
      let m : CMsg := { msg := .frame t, urgent := (s.engine g e).suspendable, op := 6, index := x.handle % 2 ^ 20, key := key
                        seq := x.seq, sa := x, total := n }
      let s := ((s.setSa a { x with seq := x.seq + 1 }).protect a n).openFrame g t e m
      if !x.esn && x.seq == 2 ^ 32 - 1 then s.stopSa a else s
/-- ESP_INBOUND (R530): what is checked before decryption. -/
def execEspInbound (t : Nat) (s : State) : Res :=
  whenRunning s fun s => s.espStart t true fun s g e a x key b ip =>
    let p := ipPacket b ip.1 ip.2.1
    let esp := p.drop ip.2.2
    let n := esp.length - 32
    let seq := espSeq x (nfld esp 4 4)
    if (if ip.1 = 4 then nfld p 9 1 else nfld p 6 1) ≠ 50 ∨ esp.length < 34 then s.dropEsp g t 12
    else if nfld esp 0 4 ≠ x.spi then s.dropEsp g t 9
    else if x.replayed seq then s.dropEsp g t 8
    else if x.lifeHard ≠ 0 ∧ x.lifeHard < x.protected_ + n then (s.stopSa a).dropEsp g t 11
    else
      s.openFrame g t e { msg := .frame t, urgent := (s.engine g e).suspendable, op := 7, index := x.handle % 2 ^ 20
                          key := key, seq := seq, sa := x, total := n }
/-- A processed frame re-enters with REENTRY set and its original source, for the trail to treat again (R218, R528). -/
def State.reenter (s : State) (g t : Nat) (b : List Byte) : State :=
  match s.frame t with
  | some f =>
    let w := wireFrame b
    let md := mdEnter w f.kind f.id (eBits f.md 63 0) (mdTenant f.md) (f.md.getLsbD 105) true
    let r : FrameRec := { bytes := w, kind := f.kind, id := f.id, steerKey := steerOf 5 g, first := s.now, last := some s.now
                          order := 0, md := md, check := 1 }
    let (n, s) := (s.takeSink g t).enterRec g r
    s.cutTo n w.length 1
  | none => s
/-- A tag failure of an inbound frame: counted, and reported at most once in a window (R533). -/
def State.saAuthFail (s : State) (g a : Nat) : State :=
  let s := s.ciCtr g 5 1
  let w := tally (SMap.get s.ci.authWindow g) s.clk
  let s := { s with ci := { s.ci with authWindow := SMap.set s.ci.authWindow g w.1 } }
  if w.2 then s.fireDev g 10 Ev.saAuthFail (BitVec.ofNat 32 (a + 2 ^ 20 * min w.1.2 0xFFF)) else s
/-- Padding bytes read 1, 2, 3 and so on. -/
def padOk (pad : List Byte) : Bool := pad == (List.range pad.length).map fun i => BitVec.ofNat 8 (i + 1)
/-- The frame inbound from its decrypted part: the frame, or the counter that drops it (R530, R532). -/
def espOpened (a : Sa) (b plain : List Byte) (v l3 hl : Nat) : Except Nat (List Byte) :=
  let n := plain.length
  let pad := nfld plain (n - 2) 1
  let next := nfld plain (n - 1) 1
  if n < pad + 2 ∨ padOk (slice plain (n - 2 - pad) pad) = false then .error 14
  else
    let inner := plain.take (n - 2 - pad)
    if a.tunnel then
      if next = 4 then .ok (b.take (l3 - 2) ++ [0x08, 0x00] ++ inner)
      else if next = 41 then .ok (b.take (l3 - 2) ++ [0x86, 0xDD] ++ inner)
      else .error 12
    else .ok (b.take l3 ++ ipHeader (slice b l3 hl) v next inner.length ++ inner)
/-- The SA of a message is still the one it opened under. -/
def Sa.sameAs (a b : Sa) : Bool := a.valid && a.handle == b.handle && a.spi == b.spi && a.inbound == b.inbound
/-- An inbound frame whose tag has verified: the window is checked again and marked. -/
def State.acceptEsp (s : State) (g t a : Nat) (m : CMsg) (b plain : List Byte) (ip : Nat × Nat × Nat) : State :=
  let live := (s.sa a).sameAs m.sa
  let x := if live then s.sa a else m.sa
  if x.replayed m.seq then s.dropEsp g t 8
  else
    let s := if live then (s.setSa a (x.mark m.seq)).protect a m.total else s
    match espOpened m.sa b plain ip.1 ip.2.1 ip.2.2 with
    | .ok out => s.reenter g t out
    | .error i => s.dropEsp g t i
/-- A frame's message ends. -/
def State.endCipherFrame (s : State) (g e t : Nat) (m : CMsg) (poisoned : Bool) : State :=
  let s := s.closeMsg g e m
  match s.frame t with
  | none => s
  | some f =>
    let b := f.body
    match espIp b with
    | none => s.dropEsp g t 12
    | some ip =>
      if poisoned then s.takeSink g t
      else if m.op = 6 then s.reenter g t (espSealed m.sa m.key m.seq b ip.1 ip.2.1 ip.2.2)
      else
        let esp := (ipPacket b ip.1 ip.2.1).drop ip.2.2
        match openText m (espNonce m.key ((esp.drop 8).take 8)) (espAad m.sa m.seq) (esp.drop 16) with
        | some plain => s.acceptEsp g t f.saOf m b plain ip
        | none => (s.saAuthFail g f.saOf).takeSink g t
/-- CIPHER_MESSAGE_END (R508, R512, R528): the urgent message ends, or the oldest bulk message while it is not
suspended. A frame to re-enter waits until its home slice has room (11 R328). -/
def execCipherMessageEnd (g e : Nat) (msg : CipherMsg) (poisoned : Bool) (s : State) : Res :=
  whenRunning s fun s =>
    let x := s.engine g e
    match x.running.find? (·.msg == msg) with
    | some m =>
      if m.suspended || !(m.urgent || (x.running.find? (!·.urgent)).any (·.msg == msg)) then s
      else
        match msg with
        | .job q slot =>
          match (s.qpOf q).job slot with
          | some j => s.endCipherJob g e m q j poisoned
          | none => s.closeMsg g e m
        | .frame t => if s.maySource g then s.endCipherFrame g e t m poisoned else s
    | none => s

end Sys2Proof.Machine
end

