-- ==== Sys2Proof/Machine/Clearing.lean ====
section
/-! DEFINITION. Clearings (18): rental, loading and release, the ports of the shell, the power cap, metering, and the
CLEARING commands. -/
namespace Sys2Proof.Machine

/-- The grove of a clearing. -/
def clGrove (c : Nat) : Nat := c / 2
/-- A device source of a clearing fires (R569). -/
def State.fireCl (s : State) (c type : Nat) (data : W32) : State := s.fireDev (clGrove c) (6 + c % 2) type data
/-- The rental of a clearing. -/
def State.rental (s : State) (c : Nat) : Option Rental := SMap.get s.cfg.rentals c
/-- The size of a staging area (R559). -/
def stagingSize : Nat := 0x10000000

/-! ## Metering (R568) -/

/-- PERIOD_S of a clearing. -/
def State.period (s : State) (c : Nat) : Nat := SMap.getD s.cfg.meterPeriod c 60
/-- The moment at which device time read a value that it has passed. -/
def State.momentAt (s : State) (t : Nat) : Nat := s.now - (s.time - t)
/-- The continuous fields of an open record counted up to a moment. -/
def State.clCountTo (s : State) (c m : Nat) : State :=
  let x := s.clearing c
  let u := x.usage.map fun u =>
    if s.time < u.start then u
    else
      let d := m - max x.countedTo (s.momentAt u.start)
      { u with active := u.active + if x.state = 4 then d else 0, throttled := u.throttled + if x.steps = 0 then 0 else d }
  s.setCl c { x with usage := u, countedTo := max x.countedTo m }
/-- The open record closes as of a moment, and the next opens at a device time; the last 64 are kept. One that is still to
open does so at that time instead. -/
def State.closeUsage (s : State) (c m next : Nat) : State :=
  let s := s.clCountTo c m
  let x := s.clearing c
  match x.usage with
  | some u =>
    if s.time < u.start then s.setCl c { x with usage := some { start := next } }
    else
      let l := x.closed ++ [u]
      let k := u.start / (s.period c * 4000000000)
      (s.setCl c { x with closed := l.drop (l.length - 64), usage := some { start := next } }).fireCl c Ev.clearingMeter
        (BitVec.ofNat 32 (c + 32 * (k % 2 ^ 27)))
  | none => s
/-- The ends of the windows that device time has passed, or now reads. -/
def State.usageEnds (s : State) (c : Nat) (u : Usage) : List Nat :=
  let p := s.period c * 4000000000
  ((List.range ((s.time - u.start) / p + 1)).map fun k => (u.start / p + 1 + k) * p).filter (· ≤ s.time)
/-- Every window that has ended closes: what is stamped at its end belongs to the next. -/
def State.rollUsage (s : State) (c : Nat) : State :=
  match (s.clearing c).usage with
  | some u => (s.usageEnds c u).foldl (fun s t => s.closeUsage c (s.momentAt t) t) s
  | none => s
/-- The continuous fields counted up to now. -/
def State.clCount (s : State) (c : Nat) : State := (s.rollUsage c).clCountTo c s.now
/-- A happening counted in the record that holds its stamp. -/
def State.clUse (s : State) (c : Nat) (f : Usage → Usage) : State :=
  let s := s.rollUsage c
  let x := s.clearing c
  s.setCl c { x with usage := x.usage.map fun u => if s.time < u.start then u else f u }
/-- METER_WINDOW_CLOSE (R568): at the end of the open window. -/
def execMeterWindowClose (c : Nat) (s : State) : Res :=
  whenRunning s fun s =>
    match (s.clearing c).usage with
    | some u =>
      let p := s.period c * 4000000000
      (s.upToTime ((u.start / p + 1) * p)).rollUsage c
    | none => s
/-- The bytes of a closed record. -/
def Usage.bytes (u : Usage) : List Byte :=
  [u.start, u.active / 4, u.energy / 10, u.throttled / 4, u.rx, u.tx, u.hbm, u.host].flatMap (leBytes 8)

/-! ## States (R538, R544, R546, R553) -/

/-- The running jobs of a queue pair on a clearing end. -/
def State.endClJobs (s : State) (q detail : Nat) : State :=
  ((s.qpOf q).jobs.filter fun j => j.st == .running && (dOp (j.descs.headD 0) == 0x50 || dOp (j.descs.headD 0) == 0x51)).foldl
    (fun s j => s.endJob q j.slot St.aborted detail 0) s
/-- A control read completes: for a host, or for the mailbox that sent CLEARING.CTRL. -/
def State.ctlDone (s : State) (fn : Option Nat) (req : Option Request) (status : Nat) (data : W64) : State :=
  let s := match fn with | some f => s.emit (.completion f true (leBytes 8 data.toNat)) | none => s
  match req with
  | some q => s.finish q true ⟨status, if status = St.ok then leBytes 8 data.toNat else [], 0⟩
  | none => s
/-- Control requests that tenant logic has not taken end: reads as if they had timed out (assumption log 49). -/
def State.ctlCut (s : State) (c : Nat) : State :=
  let l := (s.clearing c).ctlq
  (l.filter (!·.write)).foldl (fun s q => (s.clCtr c 16 1).ctlDone q.fn q.req St.aborted (BitVec.allOnes 64))
    (s.setCl c { s.clearing c with ctlq := [] })
/-- The ports close, as on leaving RUNNING: jobs end, frames are freed, the clocks stop. -/
def State.closePorts (s : State) (c : Nat) : State :=
  let s := s.clCount c
  let x := s.clearing c
  let s := if x.state = 4 then
      let s := x.chans.foldl (fun s h => s.endClJobs h.2 3) s
      (s.sinkQueue (clGrove c) (.clearing c)).foldl (fun s t => (s.clCtr c 4 1).takeSink (clGrove c) t) (s.ctlCut c)
    else s
  s.setCl c { s.clearing c with clocks := false, rstN := false, ready := [], credits := [], cmds := [], lineLast := 0, loading := none }
/-- The configuration and the embedded memories are zeroized (R562). -/
def Cl.blank (x : Cl) : Cl := { x with config := [], sha := [], shKhz := 0, fabKhz := 0, clocks := false, rstN := false, loading := none }
/-- FAULTED is entered with a reason (R566, R567). -/
def State.clFault (s : State) (c reason : Nat) : State :=
  if (s.clearing c).state = 4 then
    let s := s.closePorts c
    (s.setCl c { s.clearing c with state := 5 }).fireCl c Ev.clearingFault (BitVec.ofNat 32 (c + 256 * reason))
  else s
/-- CONFIG_MEMORY_ERROR (R567): an uncorrectable error of the configuration memory. -/
def execConfigMemoryError (c : Nat) (s : State) : Res :=
  whenRunning s fun s =>
    if c < s.clearings ∧ (s.clearing c).state = 4 then
      let r := s.fresh 8
      (r.2.uncorrectable (locUnit (clGrove c) 0x0B (c % 2)) r.1).clFault c 2
    else s
/-- QUARANTINED is entered. -/
def State.clQuarantine (s : State) (c : Nat) : State :=
  let s := s.clCount c
  (s.setCl c { s.clearing c with state := 6 }).fireCl c Ev.clearingZeroizeFail (BitVec.ofNat 32 c)

/-! ## The gates of the commands (R537, R570) -/

/-- The checks the commands on one clearing share; `there`: what else a payload names is present. -/
def clRead (len : Nat) (wf : List Byte → Bool) (op : Bool) (k : State → Request → Nat → Except Nat Done)
    (there : State → List Byte → Bool := fun _ _ => true) : Body := fun s r =>
  let p := r.payload
  let c := fld p 0 1
  chk (s.clearings != 0) St.notPresent <| chk (p.length == len && c < 32 && wf p) St.badArg <|
  chk (c < s.clearings && there s p) St.notPresent <|
  chk (if op then r.actor == operator else s.owns r.actor 4 c) St.notOwner <| k s r c
/-- Those of a command that changes it: INTERNAL when its grove has failed (21 R619). -/
def clCmd (len : Nat) (wf : List Byte → Bool) (op : Bool) (k : State → Request → Nat → Except Nat Done)
    (there : State → List Byte → Bool := fun _ _ => true) : Body :=
  clRead len wf op (fun s r c => chk (!s.groveFailed (clGrove c)) St.internal <| k s r c) there

/-! ## Rental (R539 to R541; 19 R577) -/

/-- The firebreak entry of a rental. -/
def rentEntry (c : Nat) (x : Rental) : FbEntry :=
  ⟨true, BitVec.ofNat 16 (0x1000 + c), 0xFFFF, x.base, x.base + x.size, true, true, false, false, true⟩
/-- The highest free entry of package memory's firebreak below 63. -/
def State.freeEntry (s : State) : Option Nat := ((List.range 63).reverse).find? fun e => !(s.fbEntry packageBlock e).valid
/-- The rental a RENT payload asks for. -/
def readRental (p : List Byte) : Rental := ⟨fld p 2 2, fld p 4 2, fld p 8 8, fld p 16 8⟩
/-- Two windows have bytes in common. -/
def Rental.overlaps (a b : Rental) : Bool := a.base < b.base + b.size && b.base < a.base + a.size
/-- The windows of the other clearings that are not VACANT. -/
def State.windows (s : State) (c : Nat) : List Rental :=
  ((s.cfg.rentals.filter (·.1 != c)).map (·.2)) ++
    (s.clr.filterMap fun x => if x.1 = c then none else x.2.quarantined) ++
    s.sl.ops.filterMap fun o => match o.data with | .clRent d r => if d = c then none else some r | _ => none
/-- RENTER and the window are in range. -/
def State.rentOk (s : State) (c : Nat) (x : Rental) : Bool :=
  s.fnPresent x.renter && fnPort x.renter == clGrove c && fnLocal x.renter != 2 &&
    x.base % 0x10000000 == 0 && x.size % 0x10000000 == 0 && 0x10000000 ≤ x.size && x.size ≤ 0x400000000 &&
    x.base + x.size ≤ 0x2C00000000
/-- CLEARING.RENT. -/
def clRentBody : Body := clCmd 24 (fun p => zeroAt p 1 1 && zeroAt p 6 2) true fun s r c =>
  let x := readRental r.payload
  chk (s.rentOk c x) St.badArg <| chk ((s.clearing c).state == 0 && !s.isHeld (.clearing c)) St.busy <|
  chk (!(s.windows c).any x.overlaps) St.exists_ <| chk s.freeEntry.isSome St.noSpace <|
  let y := s.clearing c
  startOp (s.setCl c { state := 1, staging := y.staging, reads := y.reads, lateTags := y.lateTags }) r 1 (.clRent c x)
def execClearingRent (s : State) : Res := slaotRow 0x0901 clRentBody s
/-- The rental is in force: its firebreak entry, its owner, its first usage record. -/
def State.rented (s : State) (c : Nat) (x : Rental) (e : Nat) : State :=
  let s := { s with cfg := { s.cfg with
    rentals := SMap.set s.cfg.rentals c x
    firebreaks := SMap.set s.cfg.firebreaks (64 * packageBlock + e) (rentEntry c x) } }
  let p := s.period c * 4000000000
  (s.setOwner 4 c x.renter).setCl c { s.clearing c with state := 2, usage := some { start := s.time / p * p }, countedTo := s.now }
/-- CLEARING_RENT_STEP (R539): the window is zeroized and read back; `ok` is the read-back. -/
def execClearingRentStep (h : Nat) (ok : Bool) (s : State) : Res :=
  let vacate (s : State) (o : LongOp) : State :=
    match o.data with
    | .clRent c _ => s.setCl c { s.clearing c with state := 0 }
    | _ => s
  whenRunning s (opRow h vacate fun s o =>
    match o.data with
    | .clRent c x =>
      let s := s.zeroize x.base x.size
      match ok, s.freeEntry with
      | true, some e => (s.rented c x e).endOp o St.ok
      | true, none => (s.setCl c { s.clearing c with state := 0 }).endOp o St.noSpace
      | false, _ => (s.setCl c { s.clearing c with state := 6, quarantined := some x }).endOp o St.internal
    | _ => s)

/-- The bindings of a clearing go (R552, R556). -/
def State.clUnbind (s : State) (c : Nat) : State := s.setCl c { s.clearing c with chans := [], lines := [] }
/-- A load in progress is abandoned: what it wrote is zeroized, and the clearing is EMPTY (R561). -/
def State.abandonLoad (s : State) (c : Nat) : State := s.setCl c { (s.clearing c).blank with state := 2 }
/-- The loads of a clearing in progress are cancelled (R561). -/
def State.cancelLoads (s : State) (c : Nat) : State :=
  (s.sl.ops.filter fun o => match o.data with | .clLoad d _ => d == c | _ => false).foldl
    (fun s o => (s.abandonLoad c).endOp o St.aborted) s
/-- CLEARING.RELEASE (R563). -/
def clReleaseBody : Body := clCmd 4 (zeroAt · 1 3) true fun s r c =>
  let s := s.cancelLoads c
  chk ((s.clearing c).state != 0 && !s.isHeld (.clearing c)) St.busy <| startOp s r 2 (.clRelease c 0)
def execClearingRelease (s : State) : Res := slaotRow 0x0902 clReleaseBody s
/-- The entry a rental placed is removed. -/
def State.dropEntry (s : State) (c : Nat) : State :=
  { s with cfg := { s.cfg with
    firebreaks := s.cfg.firebreaks.filter fun e => !(e.1 / 64 == packageBlock && e.2.slaot && e.2.master == BitVec.ofNat 16 (0x1000 + c)) } }
/-- CLEARING_RELEASE_STEP (R563): steps 1 to 3, then steps 4 and 5; a cancel does not stop it. `ok` is the read-back. -/
def execClearingReleaseStep (h : Nat) (ok : Bool) (s : State) : Res :=
  whenRunning s (turnRow h fun s o =>
    match o.data with
    | .clRelease c 0 =>
      let s := ((s.closePorts c).clUnbind c).dropEntry c
      let s := s.setCl c { s.clearing c with state := if (s.clearing c).state = 4 then 2 else (s.clearing c).state }
      s.setOp { o with data := .clRelease c 1 }
    | .clRelease c _ =>
      let w := (s.rental c).or (s.clearing c).quarantined
      let s := match w with | some x => s.zeroize x.base x.size | none => s
      let s := { s with cfg := { s.cfg with rentals := SMap.del s.cfg.rentals c } }
      let x := (s.clearing c).blank
      if ok && !s.isFenced 0x0B (clGrove c) (c % 2) then
        ((s.setOwner 4 c operator).setCl c { ctrs := x.ctrs, reads := x.reads, lateTags := x.lateTags }).endOp o St.ok
      else
        ((s.setCl c { x with staging := [], quarantined := w }).clQuarantine c).endOp o St.internal
    | _ => s)

/-! ## Staging and loading (R559 to R561) -/

/-- CLEARING.STAGE. -/
def clStageBody : Body := fun s r =>
  let n := fld r.payload 8 2
  let wf (p : List Byte) : Bool :=
    fld p 1 1 ≤ 1 && zeroAt p 2 2 && zeroAt p 10 2 && 1 ≤ n && n ≤ 4000 && fld p 4 4 + n ≤ stagingSize
  (clCmd (12 + n) wf false fun s r c =>
    let p := r.payload
    let x := s.clearing c
    chk (x.state == 2 && !s.isHeld (.clearing c)) St.busy <|
    let m := if fld p 1 1 = 1 then [] else x.staging
    done (s.setCl c { x with staging := putBytes m (fld p 4 4) (p.drop 12) })) s r
def execClearingStage (s : State) : Res := slaotRow 0x0903 clStageBody s
/-- CLEARING.STAGE_HOST: accepted from mailboxes 0 to 15. -/
def clStageHostBody : Body :=
  clCmd 24 (fun p => fld p 1 1 ≤ 1 && zeroAt p 2 2 && zeroAt p 12 4 && 1 ≤ fld p 8 4 && fld p 4 4 + fld p 8 4 ≤ stagingSize)
    false fun s r c =>
      let p := r.payload
      let x := s.clearing c
      chk (r.mb < 16) St.denied <| chk (x.state == 2 && !s.isHeld (.clearing c)) St.busy <|
      startOp (if fld p 1 1 = 1 then s.setCl c { x with staging := [] } else s) r 1
        (.clStageHost c (fld p 4 4) (fld p 16 8) (fld p 8 4) r.actor)
def execClearingStageHost (s : State) : Res := slaotRow 0x0904 clStageHostBody s
/-- CLEARING_STAGE_HOST_STEP: the reads under the acting function, which `acc` answers (12 R363 to R368). While a translation
or a tag is still to come, the step is tried again. -/
def execClearingStageHostStep (h : Nat) (acc : List HostCpl) (s : State) : Res :=
  whenRunning s (opRow h (fun s _ => s) fun s o =>
    match o.data with
    | .clStageHost c off addr n f =>
      if !s.canDma f || (s.fn f).d3hot then s.endOp o St.aborted
      else
        match s.askRead f none (s.master f) addr n acc with
        | ((s, .ok), b) =>
          (s.setCl c { s.clearing c with staging := putBytes (s.clearing c).staging off b }).endOp o St.ok
        | ((s, .failed), _) => s.endOp o St.aborted
        | ((s, .waits), _) => s
        | ((s, _), _) => s.endOp o St.denied
    | _ => s)

/-- The header of a staged bitstream (R560). -/
def Cl.header (x : Cl) : List Byte := getBytes x.staging 0 256
/-- Header fields are in range, and LENGTH agrees with BODY_LEN. -/
def bitHeaderOk (h : List Byte) (length : Nat) : Bool :=
  let n := fld h 8 4
  fld h 0 4 == 0xC1EA4B17 && fld h 4 2 == 1 && fld h 6 2 == 0x0100 && n % 16 == 0 && n ≤ 234881024 &&
    100000 ≤ fld h 12 4 && fld h 12 4 ≤ 800000 && 100000 ≤ fld h 16 4 && fld h 16 4 ≤ 900000 && zeroAt h 24 8 &&
    zeroAt h 132 124 && length == 256 + n + 1280
/-- CLEARING.LOAD (R561; 19 R588). -/
def clLoadBody : Body := clCmd 8 (zeroAt · 1 3) false fun s r c =>
  let x := s.clearing c
  chk (fld r.payload 4 4 ≤ stagingSize) St.badArg <|
  chk (x.state == 2 && !s.isHeld (.clearing c)) St.busy <|
  chk (bitHeaderOk x.header (fld r.payload 4 4)) St.badArg <|
  chk s.nv.owk.isSome St.denied <| chk s.nv.bitstreamKey.isSome St.badAuth <|
  startOp (s.setCl c { x with state := 3 }) r 5 (.clLoad c 0)
def execClearingLoad (s : State) : Res := slaotRow 0x0905 clLoadBody s
/-- A load fails. -/
def State.loadFails (s : State) (c : Nat) (o : LongOp) (status : Nat) : State :=
  ((s.abandonLoad c).clCtr c 20 1).endOp o status
/-- The content key of a bitstream: its wrap verifies, and is bound to its header (19 R586). -/
def contentKey (owk : Option (BitVec 256)) (h : List Byte) : Option (List Byte) :=
  match owk with
  | none => none
  | some kek =>
    match Config.keyUnwrap kek (slice h 32 72) with
    | none => none
    | some k => if slice k 32 32 = leBytes 32 (Config.shake256 (h.take 32)).toNat then some (k.take 32) else none
/-- Steps 2 to 5 of a load, each with the status of its failure. -/
def State.loadStep (s : State) (c step : Nat) (ok : Bool) : Except Nat State :=
  let x := s.clearing c
  let h := x.header
  let n := fld h 8 4
  match step with
  | 0 =>
    if (s.nv.bitstreamKey.any fun k => Config.fnDsaVerify k (getBytes x.staging 0 (256 + n + 1280))) && s.nv.bitFloor ≤ fld h 20 4
    then .ok s else .error St.badAuth
  | 1 => if (contentKey s.nv.owk h).isSome then .ok s else .error St.badAuth
  | 2 =>
    match (contentKey s.nv.owk h).bind fun k =>
        Config.aeadOpen 2 k ((h.drop 104).take 12) (h.take 116) (getBytes x.staging 256 n ++ (h.drop 116).take 16) with
    | some body => .ok (s.setCl c { x with config := fit n body })
    | none => .error St.badAuth
  | _ =>
    if ok then
      .ok (s.setCl c { x with
        sha := leBytes 32 (Config.shake256 (getBytes x.staging 0 (256 + n + 1280))).toNat
        shKhz := fld h 12 4, fabKhz := fld h 16 4, stepAt := s.now })
    else .error St.internal
/-- CLEARING_LOAD_STEP (R561): the next of steps 2 to 5; `ok` is the check of step 5. -/
def execClearingLoadStep (h : Nat) (ok : Bool) (s : State) : Res :=
  let abort (s : State) (o : LongOp) : State := match o.data with | .clLoad c _ => s.abandonLoad c | _ => s
  whenRunning s (opRow h abort fun s o =>
    match o.data with
    | .clLoad c step =>
      if 4 ≤ step then s
      else
        match s.loadStep c step ok with
        | .error st => s.loadFails c o st
        | .ok s =>
          let s := if step = 3 then s.setCl c { s.clearing c with loading := some h } else s
          s.setOp { o with data := .clLoad c (step + 1) }
    | _ => s)
/-- SH_CLK cycles in device time at a rate in kHz. -/
def clkTime (khz cycles : Nat) : Nat := (cycles * 4000000 + khz - 1) / khz
/-- Sixteenths of the set rate in use, and eighths, whichever is lower (R564; 02 R45). -/
def State.rateInUse (s : State) (c khz : Nat) : Nat := min (khz * (16 - (s.clearing c).steps) / 16) (khz * (8 - s.board.throttle) / 8)
/-- A step of R544 of a load that has not been cancelled. -/
def State.shellStep (s : State) (c : Nat) (due : Cl → Nat) (k : State → Cl → LongOp → State) : State :=
  let x := s.clearing c
  match x.loading.bind s.op with
  | some o =>
    if o.cancel then (s.abandonLoad c).endOp o St.aborted
    else
      let s := s.upTo (x.stepAt + due x)
      k s { x with stepAt := s.now } o
  | none => s
/-- SHELL_CLOCK_START (R544). -/
def execShellClockStart (c : Nat) (s : State) : Res :=
  whenRunning s fun s =>
    if (s.clearing c).clocks then s else s.shellStep c (fun _ => us 10) fun s x _ => s.setCl c { x with clocks := true }
/-- SHELL_RESET_RELEASE (R544). -/
def execShellResetRelease (c : Nat) (s : State) : Res :=
  whenRunning s fun s =>
    if !(s.clearing c).clocks || (s.clearing c).rstN then s
    else s.shellStep c (fun x => clkTime (s.rateInUse c x.shKhz) 256) fun s x _ => s.setCl c { x with rstN := true }
/-- CLEARING_RUNNING (R544, R561): the load ends OK. -/
def execClearingRunning (c : Nat) (s : State) : Res :=
  whenRunning s fun s =>
    if !(s.clearing c).rstN then s
    else
      s.shellStep c (fun x => clkTime (s.rateInUse c x.shKhz) 16) fun s x o =>
        let s := (s.setCl c x).clCount c
        ((s.setCl c { s.clearing c with state := 4, loading := none, loads := x.loads + 1, overCap := 0 }).clCtr c 19 1).endOp o.step St.ok
/-- CLEARING.UNLOAD (R562). -/
def clUnloadBody : Body := clCmd 4 (zeroAt · 1 3) false fun s r c =>
  chk (((s.clearing c).state == 4 || (s.clearing c).state == 5) && !s.isHeld (.clearing c)) St.busy <|
  startOp s r 1 (.clUnload c)
def execClearingUnload (s : State) : Res := slaotRow 0x0906 clUnloadBody s
/-- CLEARING_UNLOAD_STEP (R562): `ok` is the read-back. -/
def execClearingUnloadStep (h : Nat) (ok : Bool) (s : State) : Res :=
  whenRunning s (opRow h (fun s _ => s) fun s o =>
    match o.data with
    | .clUnload c =>
      let s := (s.closePorts c).clUnbind c
      let s := s.setCl c { (s.clearing c).blank with state := 2 }
      if ok then s.endOp o St.ok else (s.clQuarantine c).endOp o St.internal
    | _ => s)

/-! ## The other commands -/

/-- CLEARING.GET. -/
def clGetBody : Body := clRead 4 (zeroAt · 1 3) false fun s _ c =>
  let x := s.clearing c
  let r := (s.rental c).getD ⟨0, 0, 0, 0⟩
  let on (k : Nat) : Nat := if x.clocks then s.rateInUse c k else 0
  done s (leBytes 1 x.state ++ zeros 1 ++ leBytes 2 r.renter ++ leBytes 2 r.tenant ++ zeros 2 ++ leBytes 8 r.base ++
    leBytes 8 r.size ++ leBytes 4 x.shKhz ++ leBytes 4 x.fabKhz ++ leBytes 4 (on x.shKhz) ++ leBytes 4 (on x.fabKhz) ++
    (x.sha ++ zeros 32).take 32 ++ leBytes 4 x.loads)
def execClearingGet (s : State) : Res := slaotRow 0x0907 clGetBody s
/-- The channel a queue pair serves. -/
def State.chanOf (s : State) (q : Nat) : Option (Nat × Nat) :=
  s.clr.findSome? fun c => (c.2.chans.find? (·.2 == q)).map fun h => (c.1, h.1)
/-- A queue pair a clearing can be bound to (R552): the status when it is not. -/
def State.bindable (s : State) (c q : Nat) (k : Except Nat Done) : Except Nat Done :=
  chk (q / 4096 == clGrove c && (s.qpOf q).set.kind == 4) St.badArg <|
  chk (s.qpOwner q == s.owner 4 c) St.notOwner k
/-- The queue pair a binding names, or 0xFFFF, is one of the variant. -/
def bindThere (s : State) (p : List Byte) : Bool := fld p 2 2 == 0xFFFF || fld p 2 2 / 4096 < s.groves
/-- A channel is unbound: the jobs of its queue pair end with DETAIL 4 (R553). -/
def State.unbindChan (s : State) (c h : Nat) : State :=
  match SMap.get (s.clearing c).chans h with
  | some q =>
    let s := s.endClJobs q 4
    let x := s.clearing c
    s.setCl c { x with
      chans := SMap.del x.chans h, ready := x.ready.filter (·.1 != h), credits := x.credits.filter (·.1 != h) }
  | none => s
/-- CLEARING.QP_BIND (R552): a queue pair that serves another channel answers EXISTS, and the one a channel held is unbound
(assumption log 49). -/
def clQpBindBody : Body := clCmd 4 (fun p => fld p 1 1 < 64) false (there := bindThere) fun s r c =>
  let h := fld r.payload 1 1
  let q := fld r.payload 2 2
  if q = 0xFFFF then chk (!s.isHeld (.clearing c)) St.busy <| done (s.unbindChan c h)
  else
    s.bindable c q <| chk ((s.qpOf q).state == 1 && !s.isHeld (.clearing c)) St.busy <|
    chk ((s.chanOf q).all (· == (c, h))) St.exists_ <|
    if SMap.get (s.clearing c).chans h = some q then done s
    else
      let s := s.unbindChan c h
      done (s.setCl c { s.clearing c with chans := SMap.set (s.clearing c).chans h q })
def execClearingQpBind (s : State) : Res := slaotRow 0x0908 clQpBindBody s
/-- CLEARING.LINE_BIND (R556). -/
def clLineBindBody : Body := clCmd 4 (fun p => fld p 1 1 < 64) false (there := bindThere) fun s r c =>
  let h := fld r.payload 1 1
  let q := fld r.payload 2 2
  let x := s.clearing c
  if q = 0xFFFF then chk (!s.isHeld (.clearing c)) St.busy <| done (s.setCl c { x with lines := SMap.del x.lines h })
  else
    s.bindable c q <| chk (!s.isHeld (.clearing c)) St.busy <| done (s.setCl c { x with lines := SMap.set x.lines h q })
def execClearingLineBind (s : State) : Res := slaotRow 0x0909 clLineBindBody s
/-- CLEARING.METER_SET (R568): the current record closes at the change. -/
def clMeterSetBody : Body := fun s r =>
  let p := r.payload
  let cs := maskBits (fld p 0 4) 32
  let n := fld p 4 4
  chk (s.clearings != 0) St.notPresent <| chk (p.length == 8 && 1 ≤ n && n ≤ 3600 && fld p 0 4 != 0) St.badArg <|
  chk (cs.all (· < s.clearings)) St.notPresent <| chk (r.actor == operator) St.notOwner <|
  chk (!cs.any fun c => s.isHeld (.clearing c)) St.busy <|
  done (cs.foldl (fun s c =>
    if s.period c = n then s
    else
      let q := n * 4000000000
      let s := (s.rollUsage c).closeUsage c s.now ((s.time / q + 1) * q)
      { s with cfg := { s.cfg with meterPeriod := SMap.set s.cfg.meterPeriod c n } }) s)
def execClearingMeterSet (s : State) : Res := slaotRow 0x090B clMeterSetBody s
/-- CLEARING.METER_READ: the closed records from FROM_START on, at most 62. -/
def clMeterReadBody : Body := clRead 12 (zeroAt · 1 3) false fun s r c =>
  done s ((((s.clearing c).closed.filter fun u => fld r.payload 4 8 ≤ u.start).take 62).flatMap Usage.bytes)
def execClearingMeterRead (s : State) : Res := slaotRow 0x090C clMeterReadBody s
/-- CLEARING.STATS (R571). -/
def clStatsBody : Body := clRead 4 (zeroAt · 1 3) false fun s _ c => done s (ctrBytes (s.clearing c).ctrs 21)
def execClearingStats (s : State) : Res := slaotRow 0x090D clStatsBody s

/-! ## The control window (R557, R558) -/

/-- Offset of the window in BAR0 of its owner (R557). -/
def ctlOffset (f c : Nat) : Nat := (if (vfOf f).isSome then 0x60000 else 0x1800000) + 0x10000 * (c % 2)
/-- A tag no outstanding read or late answer holds. -/
def Cl.freeCtlTag (x : Cl) (now : Nat) : Option Nat :=
  (List.range 16).find? fun t => !(x.reads.any (·.tag == t)) && !(x.lateTags.any fun l => l.1 == t && now < l.2)
/-- A request joins those that wait on CTL; a write that finds 16 is discarded (R558). -/
def State.ctlPush (s : State) (c : Nat) (q : CtlReq) : State :=
  let x := s.clearing c
  if q.write && 16 ≤ (x.ctlq.filter (·.write)).length then s.clCtr c 15 1 else s.setCl c { x with ctlq := x.ctlq ++ [q] }
/-- Tenant logic takes up to so many of the requests in order: a read when a tag is free. -/
def State.ctlServe (c : Nat) : Nat → State → State
  | 0, s => s
  | n + 1, s =>
    let x := s.clearing c
    match x.ctlq with
    | [] => s
    | q :: rest =>
      if q.write then
        State.ctlServe c n ((s.setCl c { x with ctlq := rest }).emit (.ctl c 0 true (q.off / 8) q.data q.be))
      else
        match x.freeCtlTag s.clk with
        | some t =>
          State.ctlServe c n ((s.setCl c { x with
            ctlq := rest, reads := x.reads ++ [⟨t, q.fn, q.req, s.clk⟩], lateTags := x.lateTags.filter (·.1 != t) }).emit
            (.ctl c t false (q.off / 8) 0 0))
        | none => s
/-- CTL_READY is 1 until no request can transfer. -/
def State.ctlServeAll (s : State) (c : Nat) : State := State.ctlServe c (s.clearing c).ctlq.length s
/-- CLEARING.CTRL (R570): a read is answered when tenant logic answers it, or when it has timed out. -/
def clCtrlBody : Body :=
  clCmd 16 (fun p => fld p 1 1 ≤ 1 && zeroAt p 2 2 && fld p 4 4 % 8 == 0 && fld p 4 4 < 65536) false fun s r c =>
    let p := r.payload
    let w := fld p 1 1 = 1
    chk ((s.clearing c).state == 4 && !(w && s.isHeld (.clearing c))) St.busy <|
    if w then
      let v := s.fresh 64
      let s := v.2.ctlPush c { write := true, off := fld p 4 4, data := BitVec.ofNat 64 (fld p 8 8), be := 0xFF }
      done (s.ctlServeAll c) (leBytes 8 v.1.toNat)
    else .ok ⟨(s.ctlPush c { write := false, off := fld p 4 4, req := some r }).ctlServeAll c, none⟩
def execClearingCtrl (s : State) : Res := slaotRow 0x090A clCtrlBody s
/-- CONTROL_REQUEST (R557, R558): a host access of the owner to the window. -/
def execControlRequest (c fn : Nat) (write : Bool) (off : Nat) (data : BitVec 64) (beat : CtlBeat) (s : State) : Res :=
  whenServing s fun s =>
    if (s.clearing c).state ≠ 4 ∨ s.owner 4 c ≠ fn ∨ fnLocal fn = 2 ∨ 65536 ≤ off ∨ clGrove c ≠ fnPort fn then
      if !(s.port (fnPort fn)).full then s
      else if !s.takesRequests fn then s.emit (.completion fn false [])
      else if write then s.hostCtr (fnPort fn) 13 else s.emit (.completion fn true (zeros 8))
    else
      hostRequest s fn (0x0700 + c) (if write then 2 else 1) off 8 fun s =>
        State.ctlServe c beat.ready
          (s.ctlPush c (if write then { write := true, off := off, data := data, be := beat.be }
            else { write := false, off := off, fn := some fn }))
/-- CONTROL_ANSWER (R558). -/
def execControlAnswer (c rtag : Nat) (data : BitVec 64) (s : State) : Res :=
  whenRunning s fun s =>
    let x := s.clearing c
    if x.state ≠ 4 then s
    else
      match x.reads.find? (·.tag == rtag) with
      | some r =>
        (((s.setCl c { x with reads := x.reads.filter (·.tag != rtag) }).ctlDone r.fn r.req St.ok data).ctlServeAll c).drain
      | none => ((s.setCl c { x with lateTags := x.lateTags.filter (·.1 != rtag) }).clCtr c 17 1).ctlServeAll c
/-- CONTROL_READ_TIMEOUT (R558). -/
def execControlReadTimeout (c rtag : Nat) (s : State) : Res :=
  whenRunning s fun s =>
    match (s.clearing c).reads.find? (·.tag == rtag) with
    | some r =>
      let s := s.upToClk (r.at_ + us 10)
      let x := s.clearing c
      ((((s.setCl c { x with reads := x.reads.filter (·.tag != rtag), lateTags := x.lateTags ++ [(rtag, s.clk + ms 1)] }).clCtr
        c 16 1).ctlDone r.fn r.req St.aborted (BitVec.allOnes 64)).ctlServeAll c).drain
    | none => s

/-! ## The stream port (R545 to R547) -/

/-- STREAM_RX_FRAME (R546): the head frame of the clearing's sink queue is delivered. -/
def State.streamRx (s : State) (c : Nat) : State :=
  let g := clGrove c
  match s.sinkQueue g (.clearing c) with
  | t :: _ =>
    match s.frame t with
    | some f =>
      if (s.clearing c).state ≠ 4 then s
      else
        let b := f.body
        let s := (s.takeSink g t).emit (.strRx c f.md (BitVec.ofNat 32 f.actionTag) f.isCopy b)
        ((s.clCtr c 0 1).clCtr c 1 (b2n f.isCopy)).clUse c fun u => { u with rx := u.rx + b.length }
    | none => s
  | [] => s
def execStreamRxFrame (c : Nat) (s : State) : Res := whenRunning s fun s => s.streamRx c
/-- STREAM_TX_FRAME (R547). -/
def execStreamTxFrame (c : Nat) (bytes : List Byte) (abort : Bool) (s : State) : Res :=
  whenRunning s fun s =>
    let g := clGrove c
    if c < s.clearings ∧ (s.clearing c).state = 4 ∧ s.maySource g = true then
      let good := !abort && 14 ≤ bytes.length && bytes.length ≤ 15996
      let tenant := ((s.rental c).map (·.tenant)).getD 0
      let s := (s.clCtr c (if good then 2 else 3) 1).clUse c fun u => { u with tx := u.tx + bytes.length }
      (s.enterFrame g 2 c (steerOf 2 c) tenant (wireFrame bytes) good fun f => f).2
    else s

/-! ## The memory port (R548 to R550) -/

/-- Bytes of a command. -/
def MemCmd.bytes (m : MemCmd) : Nat := 128 * m.beats
/-- Two commands have bytes in common. -/
def MemCmd.overlaps (a b : MemCmd) : Bool := a.off < b.off + b.bytes && b.off < a.off + a.bytes
/-- MEM_COMMAND: offset in beats, COUNT one less than the beats. -/
def execMemCommand (c : Nat) (write : Bool) (off count id : Nat) (s : State) : Res :=
  whenRunning s fun s =>
    match (s.clearing c).state, s.rental c with
    | 4, some w =>
      let m : MemCmd := { write := write, off := off % 2 ^ 31 * 128, beats := count % 64 + 1, id := id % 256 }
      let s := s.clCtr c (if write then 6 else 5) 1
      let reused := (s.clearing c).cmds.any (·.id == m.id)
      let push (s : State) (m : MemCmd) : State := s.setCl c { s.clearing c with cmds := (s.clearing c).cmds ++ [m] }
      if reused || w.size < m.off + m.bytes then push (s.clCtr c 7 1) { m with err := 1, reused := reused }
      else
        let (s, pass) := s.fbCheck packageBlock (BitVec.ofNat 16 (0x1000 + c)) (if write then 2 else 1) (w.base + m.off) m.bytes
        if pass then (push s m).clUse c fun u => { u with hbm := u.hbm + m.bytes } else push (s.clCtr c 8 1) { m with err := 2 }
    | _, _ => s
/-- A command's beats reach memory: it is neither BOUNDS nor DENIED. -/
def MemCmd.lands (m : MemCmd) : Bool := m.err == 0 || m.err == 3
/-- A read that an earlier command does not hold takes its data before a write to the same bytes lands. -/
def MemCmd.capture (mem : List Host.Cell) (base : Nat) (w m : MemCmd) : MemCmd :=
  if !m.write && m.err == 0 && m.data.isNone && m.overlaps w then { m with data := some (memReadBytes mem (base + m.off) m.bytes) } else m
/-- The commands before the oldest write that still awaits beats, that write, and those after it. -/
def splitWrite : List MemCmd → Option (List MemCmd × MemCmd × List MemCmd)
  | [] => none
  | m :: ms => if m.write && !m.full then some ([], m, ms) else (splitWrite ms).map fun r => (m :: r.1, r.2)
/-- The bytes of a beat whose mask bits are 1. -/
def State.writeBeat (s : State) (a : Nat) (data : BitVec 1024) (mask : BitVec 128) : State :=
  (List.range 16).foldl (fun s j =>
    if eBits mask (8 * j + 7) (8 * j) = 255 then s.memPut (a + 8 * j) (leBytes 8 (eBits data (64 * j + 63) (64 * j)))
    else (List.range 8).foldl (fun s i =>
      if mask.getLsbD (8 * j + i) then s.memPut (a + 8 * j + i) [data.extractLsb' (64 * j + 8 * i) 8] else s) s) s
/-- A beat with an uncorrectable error: its words are poisoned (21 R612). -/
def State.poisonBeat (s : State) (a : Nat) : State :=
  let l := (List.range 16).map (a / 8 + ·)
  { s with hl := { s.hl with poison := l ++ s.hl.poison.filter (!l.contains ·) } }
/-- MEM_WRITE_DATA: a beat of the oldest write that still awaits one. -/
def execMemWriteData (c : Nat) (data : BitVec 1024) (mask : BitVec 128) (last poisoned : Bool) (s : State) : Res :=
  whenRunning s fun s =>
    let x := s.clearing c
    match x.state, s.rental c, splitWrite x.cmds with
    | 4, some w, some (before, m, after) =>
      let m' := { m with done := m.done + 1, full := last || m.done + 1 == m.beats
                         err := if m.err = 0 ∧ poisoned = true then 3 else m.err }
      let s := if m.err = 0 ∧ poisoned = true then s.clCtr c 9 1 else s
      let x := s.clearing c
      let s := s.setCl c { x with cmds := before.map (MemCmd.capture s.mem w.base m) ++ m' :: after }
      let a := w.base + m.off + 128 * m.done
      if !m.lands then s else if poisoned then s.poisonBeat a else s.writeBeat a data mask
    | _, _, _ => s
/-- The first command of an ID, with those before it. -/
def findCmd (id : Nat) : List MemCmd → Option (List MemCmd × MemCmd)
  | [] => none
  | m :: ms => if m.id = id then some ([], m) else (findCmd id ms).map fun r => (m :: r.1, r.2)
/-- The commands without the first of an ID, or with it replaced. -/
def replaceCmd (id : Nat) (r : Option MemCmd) : List MemCmd → List MemCmd
  | [] => []
  | m :: ms => if m.id = id then r.toList ++ ms else m :: replaceCmd id r ms
/-- MEM_RESPONSE: the next response of an ID; `poisoned` is an uncorrectable error of a read beat. -/
def execMemResponse (c id : Nat) (poisoned : Bool) (s : State) : Res :=
  whenRunning s fun s =>
    let x := s.clearing c
    match x.state, s.rental c, findCmd id x.cmds with
    | 4, some w, some (before, m) =>
      if m.write then
        if m.full then
          (s.setCl c { x with cmds := replaceCmd id none x.cmds }).emit (.memResp c id true true m.err (zeros 128))
        else s
      else if m.err = 0 ∧ before.any (fun b => b.write && b.lands && !b.full && b.overlaps m) = true then s
      else
        let last := m.done + 1 == m.beats
        let bad := poisoned || (m.data.isNone && s.memBad (w.base + m.off + 128 * m.done) 128)
        let err := if m.err = 0 ∧ bad = true then 3 else m.err
        let d := match m.data with
          | some d => (d.drop (128 * m.done)).take 128
          | none => memReadBytes s.mem (w.base + m.off + 128 * m.done) 128
        (s.setCl c { x with cmds := replaceCmd id (if last then none else some { m with done := m.done + 1 }) x.cmds }).emit
          (.memResp c id false last err (if err = 0 then d else zeros 128))
    | _, _, _ => s

/-! ## The host queue port (R553 to R555) -/

/-- A job of a queue pair of KIND CLEARING is acted on: it ends at once, or joins its channel. -/
def State.clJob (s : State) (q : Nat) (slot : W32) (op : Nat) (k : Cl → Nat → Cl) : State :=
  match s.readyJob q slot op with
  | none => s
  | some j =>
    match s.chanOf q with
    | none => s.endJob q slot St.aborted 4 0
    | some (c, h) =>
      if (s.clearing c).state ≠ 4 then s.endJob q slot St.aborted 3 0
      else (s.markActed q j).setCl c (k (s.clearing c) h)
/-- H2C: the message is ready on its channel. -/
def execH2c (q : Nat) (slot : W32) (s : State) : Res :=
  whenRunning s fun s => s.clJob q slot 0x50 fun x h => { x with ready := x.ready ++ [(h, slot)] }
/-- C2H_POST: the channel has credit. -/
def execC2hPost (q : Nat) (slot : W32) (s : State) : Res :=
  whenRunning s fun s => s.clJob q slot 0x51 fun x h => { x with credits := x.credits ++ [(h, slot)] }
/-- The next channel with a message, after the last one served (R555). -/
def Cl.nextChan (x : Cl) : Option Nat :=
  ((List.range 64).map fun i => (x.lastChan + 1 + i) % 64).find? fun h => x.ready.any (·.1 == h)
/-- H2C_MESSAGE (R555): one whole message of the next channel transfers. -/
def execH2cMessage (c : Nat) (s : State) : Res :=
  whenRunning s fun s =>
    let x := s.clearing c
    match x.state, x.nextChan with
    | 4, some h =>
      match x.ready.find? (·.1 == h), SMap.get x.chans h with
      | some (_, slot), some q =>
        let s := s.setCl c { x with ready := x.ready.erase (h, slot), lastChan := h }
        match (s.qpOf q).job slot with
        | some j =>
          let b := j.data
          let s := ((s.clCtr c 10 1).clUse c fun u => { u with host := u.host + b.length }).emit (.h2c c h (dUser (j.descs.headD 0)) b)
          s.endJob q slot St.ok 0 (BitVec.ofNat 64 b.length)
        | none => s
      | _, _ => s
    | _, _ => s
/-- C2H_MESSAGE (R553, R555): a message claims the oldest unclaimed job of its channel; without credit it waits. -/
def execC2hMessage (c chan : Nat) (ctag : BitVec 32) (bytes : List Byte) (abort : Bool) (s : State) : Res :=
  whenRunning s fun s =>
    let x := s.clearing c
    match x.state, x.credits.find? (·.1 == chan), SMap.get x.chans chan with
    | 4, some (_, slot), some q =>
      match (s.qpOf q).job slot with
      | some j =>
        let segs := j.descs.map fun d => (dAddr d, dLen d)
        let room := totalLen j.descs
        let b := bytes.take room
        match s.localWrite q (spreadOver segs 0 b) with
        | (s, .waits) => s
        | (s, r) =>
          let x := s.clearing c
          let s := (s.setCl c { x with credits := x.credits.erase (chan, slot) }).clUse c fun u => { u with host := u.host + bytes.length }
          let s := s.clCtr c 11 1
          let data := BitVec.ofNat 64 (2 ^ 32 * ctag.toNat + b.length)
          match r with
          | .denied => s.endJob q slot St.aborted 5 0
          | .refused => s.endJob q slot St.denied 0 0
          | _ =>
            if abort then s.endJob q slot St.aborted 2 data
            else if room < bytes.length then (s.clCtr c 12 1).endJob q slot St.badArg 1 data
            else s.endJob q slot St.ok 0 data
      | none => s
    | _, _, _ => s

/-! ## Event lines (R556) -/

/-- EVENT_LINE_FIRE: EV_LINE and EV_DATA of one cycle; a line fires when it was 0 in the cycle before. -/
def execEventLineFire (c : Nat) (lines : BitVec 64) (data : BitVec 24) (s : State) : Res :=
  whenRunning s fun s =>
    let x := s.clearing c
    if x.state ≠ 4 then s
    else
      (maskBits (lines &&& ~~~ x.lineLast).toNat 64).foldl (fun s l =>
        let s := s.clCtr c 13 1
        match SMap.get x.lines l with
        | some q => s.fire q Ev.clearingLine (BitVec.ofNat 32 (l + 256 * data.toNat))
        | none => s.clCtr c 14 1) (s.setCl c { x with lineLast := lines })

/-! ## The power cap (R564 to R566) -/

/-- EV_CLEARING_POWER. -/
def State.firePower (s : State) (c steps : Nat) : State :=
  s.fireCl c Ev.clearingPower (BitVec.ofNat 32 (c + 256 * steps + if steps = 0 then 0 else 2 ^ 31))
/-- CLEARING_POWER_WINDOW: a window of 100 µs of device time ends with a mean power in mW. -/
def execClearingPowerWindow (c mw : Nat) (s : State) : Res :=
  whenRunning s fun s =>
    if (s.rental c).isNone then s
    else
      let due := (s.time / us 100 + 1) * us 100
      let s := (s.upToTime (due - 1)).clUse c fun u => { u with energy := u.energy + mw }
      let s := (s.upToTime due).clCount c
      let x := s.clearing c
      if 24000 < mw then s.clFault c 1
      else if 18000 < mw then
        if x.steps = 12 then
          let s := s.setCl c { x with overCap := x.overCap + 1 }
          if 10 ≤ x.overCap + 1 then s.clFault c 1 else s
        else
          let s := (s.setCl c { x with steps := x.steps + 1 }).clCtr c 18 1
          if x.steps = 0 then s.firePower c 1 else s
      else if 17000 < mw then s.setCl c { x with overCap := 0 }
      else
        let s := s.setCl c { x with overCap := 0, steps := x.steps - 1 }
        if x.steps = 1 then s.firePower c 0 else s

end Sys2Proof.Machine
end

