-- ==== Sys2Proof/Machine/Sinks.lean ====
section
/-! DEFINITION. The sinks of an output slice take the frames of their queues (11 R333). -/
namespace Sys2Proof.Machine

/-- The remote-access engine takes the head of service queue 255 (16 R498). -/
def State.engineTake (s : State) (g : Nat) : State :=
  match s.sinkQueue g (.service 255) with
  | t :: _ => match s.frame t with
    | some f => if s.raWorks g then s.raTake g t f else s
    | none => s
  | [] => s
/-- SINK_TAKE: a frame leaves a service queue when a thread takes it (15 R452), and the cipher queue when a live engine has a
free context slot (17 R506), so on these two the sink by itself takes none. -/
def execSinkTake (grove : Nat) (sink : Sink) (s : State) : Res :=
  whenRunning s fun s =>
    match sink with
    | .hostQueue q => if q / 4096 = grove then s.rxTake q else s
    | .clearing c => if clGrove c = grove then s.streamRx c else s
    | .service q => if q = 255 then s.engineTake grove else s
    | .exception => s.slowTake grove
    | .cipher => s

end Sys2Proof.Machine
end

