-- ==== Sys2Proof/Machine/Slaot.lean ====
section
/-! DEFINITION. The mailboxes and Slaot's own commands (04): how a request arrives on each path, long operations,
capabilities, pinning, ownership and the in-band channel. -/
namespace Sys2Proof.Machine

/-! ## PF2 mailboxes (R96 to R99) -/

/-- A host write to the mailbox block of port `p`, by its PF2 (19 R580). -/
def mailboxWrite (s : State) (p off len : Nat) (k : State → State) : State :=
  hostRequest s (pf2 p) (0x0100 + p) 2 off len k
/-- The request in a mailbox's buffer (R99). -/
def Mbx.request (m : Mbx) (p : Nat) : Request :=
  let h := getBytes m.req 0 32
  let n := min (messageLength (fld h 4 2) (bit (fld h 2 1) 0)) 4096
  readRequest (.mailbox p) p (getBytes m.req 0 n) none
/-- SUBMIT (R96). -/
def State.submit (s : State) (p : Nat) : State :=
  let m := s.mbx p
  if m.busy then s.setMbx p { m with submitLost := true }
  else (s.setMbx p { m with busy := true, respValid := false }).deliver (m.request p)
/-- MAILBOX_SUBMIT (R96): a write of MB_DOORBELL. -/
def execMailboxSubmit (p : Nat) (v : BitVec 32) (s : State) : Res :=
  whenServing s fun s => mailboxWrite s p 0x2000 4 fun s => if v.getLsbD 0 then s.submit p else s
/-- An access of 1 to 64 bytes within one aligned block of 64 bytes (12 R358). -/
def blockForm (off len : Nat) : Bool := 1 ≤ len && len ≤ 64 && off / 64 == (off + len - 1) / 64
/-- Bytes written into a request buffer, or lost while BUSY is 1 (R99). -/
def State.putRequest (s : State) (p off : Nat) (bytes : List Byte) : State :=
  let m := s.mbx p
  if m.busy then s.setMbx p { m with writeLost := true } else s.setMbx p { m with req := putBytes m.req off bytes }
/-- REQUEST_BUFFER_WRITE (R97, R99; 12 R358). -/
def execRequestBufferWrite (p off : Nat) (bytes : List Byte) (s : State) : Res :=
  whenServing s fun s => mailboxWrite s p off bytes.length fun s =>
    if blockForm off bytes.length && off < 4096 then s.putRequest p off bytes else s.hostCtr p 13
/-- Writing 1 clears WRITE_LOST and SUBMIT_LOST (R97). -/
def State.clearMbStatus (s : State) (p : Nat) (v : W32) : State :=
  let m := s.mbx p
  s.setMbx p { m with writeLost := m.writeLost && !v.getLsbD 3, submitLost := m.submitLost && !v.getLsbD 2 }
/-- MB_STATUS_CLEAR (R97). -/
def execMbStatusClear (p : Nat) (v : BitVec 32) (s : State) : Res :=
  whenServing s fun s => mailboxWrite s p 0x2004 4 fun s => s.clearMbStatus p v

/-! ## The out-of-band and in-band mailboxes (R101, R102) -/

/-- OOB_MESSAGE (R101). -/
def execOobMessage (bus eid mtag : Nat) (bytes : List Byte) (s : State) : Res :=
  whenServing s fun s =>
    if bytes.length < 32 ∨ 4096 < bytes.length then s
    else
      let r := readRequest (.oob bus eid mtag) 16 bytes (some bytes.length)
      if s.sl.oobBusy then s.emit (.oob bus eid mtag (responseBytes r ⟨St.busy, [], 0⟩))
      else { s with sl := { s.sl with oobBusy := true } }.deliver r
/-- A discarded datagram counted by its cause. -/
def State.discard (s : State) (i : Nat) : State := { s with sl := { s.sl with discards := s.sl.discards.inc i } }
/-- INBAND_DATAGRAM (R102): the discards, in the model's order fragment or length, AUTH, authentication, full queue. -/
def execInbandDatagram (port : Nat) (addr : List Byte) (udp : Nat) (frag : Bool) (bytes : List Byte) (s : State) : Res :=
  whenRunning s fun s =>
    let r := readRequest (.inband port addr udp) 17 bytes (some bytes.length)
    if !s.cfg.inband.enable || !SMap.getD s.cfg.inband.ports port false then s
    else if frag || bytes.length < 32 || bytes.length != messageLength r.length r.auth then s.discard 2
    else if !r.auth then s.discard 0
    else if !(SMap.get s.nv.cmdKeys 17).any r.verifies then s.discard 1
    else if !s.sl.inbandBusy then { s with sl := { s.sl with inbandBusy := true } }.deliver r
    else if 15 ≤ s.sl.inband.length then s.discard 3
    else { s with sl := { s.sl with inband := s.sl.inband ++ [r] } }

/-! ## Long operations (R126, R127) -/

/-- The payload of OP.STATUS. -/
def opStatusPayload (state opcode status done total seq : Nat) : List Byte :=
  leBytes 2 state ++ leBytes 2 opcode ++ leBytes 2 status ++ zeros 2 ++ leBytes 4 done ++ leBytes 4 total ++ leBytes 8 seq
/-- The gate of R126: the function that started the operation, or the operator principal. -/
def starterGate (actor starter : Nat) : Bool := actor == operator || actor == starter
/-- OP.STATUS (R126). -/
def opStatusBody : Body := fun s r =>
  let h := fld r.payload 0 4
  chk (r.payload.length == 4) St.badArg <|
  match s.op h, s.sl.ended.find? (·.handle == h) with
  | some o, _ => chk (starterGate r.actor o.starter) St.notOwner <|
      done s (opStatusPayload 0 o.opcode St.inProgress o.stepsDone o.stepsTotal o.startSeq)
  | none, some e => chk (starterGate r.actor e.starter) St.notOwner <|
      done s (opStatusPayload 1 e.opcode e.status e.stepsDone e.stepsTotal e.startSeq)
  | none, none => .error St.notFound
def execOpStatus (s : State) : Res := slaotRow 0x0F01 opStatusBody s
/-- OP.CANCEL (R127). -/
def opCancelBody : Body := fun s r =>
  let h := fld r.payload 0 4
  chk (r.payload.length == 4) St.badArg <|
  match s.op h, s.sl.ended.find? (·.handle == h) with
  | some o, _ => chk (starterGate r.actor o.starter) St.notOwner <| done (s.setOp { o with cancel := true })
  | none, some e => chk (starterGate r.actor e.starter) St.notOwner <| done s
  | none, none => .error St.notFound
def execOpCancel (s : State) : Res := slaotRow 0x0F02 opCancelBody s

/-! ## Capabilities and identity (R128 to R130) -/

/-- A mask with the low `n` bits set. -/
def lowMask (n : Nat) : Nat := 2 ^ n - 1
/-- The DEVICE record. -/
def State.deviceRecord (s : State) : List Byte :=
  leBytes 2 1 ++ leBytes 2 32 ++ leBytes 1 s.variantCode ++ zeros 1 ++ leBytes 1 s.stepping.2 ++ leBytes 1 s.stepping.1 ++
    leBytes 2 (lowMask s.groves) ++ leBytes 2 (lowMask s.groves) ++ leBytes 4 (lowMask s.clearings) ++
    leBytes 1 (if s.hasCipher then 4 * s.groves else 0) ++ leBytes 2 s.lanes ++ zeros 13
/-- The GROVE record of a grove. -/
def State.groveRecord (s : State) (g : Nat) : List Byte :=
  leBytes 2 2 ++ leBytes 2 16 ++ leBytes 4 (g + 0x80 * 2 ^ 8 + 32 * 2 ^ 16 + 8 * 2 ^ 24) ++
    leBytes 8 (16 + 32 * (if s.hasCipher then 4 else 0) + 256 + 512 * (if s.clearings = 0 then 0 else 3) + 2048)
/-- The records in their order (R128). -/
def State.capRecords (s : State) : List (List Byte) :=
  [s.deviceRecord, leBytes 2 4 ++ leBytes 2 8 ++ leBytes 2 1 ++ leBytes 2 ifaceVersion,
   leBytes 2 3 ++ leBytes 2 24 ++ leBytes 8 (192 * 2 ^ 30) ++ leBytes 4 (16 * 2 ^ 20) ++ leBytes 4 65536 ++ leBytes 4 (64 * 2 ^ 20),
   leBytes 2 5 ++ leBytes 2 28 ++ leBytes 4 1048576 ++ leBytes 4 131072 ++ leBytes 4 64 ++ leBytes 4 65536 ++
     leBytes 4 s.lanes ++ leBytes 4 65536] ++ s.groveList.map s.groveRecord
/-- Whole records that fit in the room left, and how many. -/
def fitRecords : Nat → List (List Byte) → List Byte × Nat
  | _, [] => ([], 0)
  | room, r :: rs => if r.length ≤ room then (r ++ (fitRecords (room - r.length) rs).1, (fitRecords (room - r.length) rs).2 + 1) else ([], 0)
/-- DEVICE.CAPS (R128). -/
def capsBody : Body := fun s r =>
  let i := fld r.payload 0 2
  let all := s.capRecords
  let f := fitRecords (4016 - 4) (all.drop i)
  chk (r.payload.length == 2) St.badArg <|
  done s (leBytes 2 (if all.length ≤ i + f.2 then 0xFFFF else i + f.2) ++ zeros 2 ++ f.1)
def execDeviceCaps (s : State) : Res := slaotRow 0x0101 capsBody s
/-- DEVICE.INFO (R130). -/
def infoBody : Body := fun s r =>
  chk (r.payload.length == 0) St.badArg <|
  done s (leBytes 1 s.variantCode ++ leBytes 1 s.stepping.1 ++ leBytes 1 s.stepping.2 ++ leBytes 1 s.boot.source ++
    leBytes 2 (SMap.getD s.cfg.pins r.mb 0) ++ leBytes 2 ifaceVersion ++
    leBytes 8 (if s.boot.source ≤ 1 then 0 else s.boot.restoredGen) ++ leBytes 8 s.boot.fwGen ++ leBytes 1 s.boot.fwSlot ++ zeros 7)
def execDeviceInfo (s : State) : Res := slaotRow 0x0102 infoBody s
/-- DEVICE.PIN (R113). -/
def pinBody : Body := fun s r =>
  chk (r.payload.length == 2 && fld r.payload 0 2 == ifaceVersion) St.badArg <|
  done { s with cfg := { s.cfg with pins := SMap.set s.cfg.pins r.mb (fld r.payload 0 2) } }
def execDevicePin (s : State) : Res := slaotRow 0x0106 pinBody s

/-! ## Ownership (R117) -/

/-- How many objects of a KIND the full part has, and how many the variant has (R117, R133; 08 R236). -/
def kindSize (kind : Nat) : Nat :=
  match kind with | 1 => 512 | 2 => 65536 | 3 => 4096 | 4 => 32 | 5 => 1048576 | 6 => 1024 | _ => 0
def State.kindPresent (s : State) (kind : Nat) : Nat :=
  match kind with
  | 1 => s.lanes | 2 => 4096 * s.groves | 3 => 256 * s.groves | 4 => s.clearings | 6 => 768 + 16 * s.groves
  | k => kindSize k
/-- An object may be transferred in the state it is in, and no long operation holds it (R122; 13 R385, 14 R422; 18 R542). -/
def State.transferable (s : State) (kind i : Nat) : Bool :=
  match kind with
  | 2 => (s.qpOf i).state == 0
  | 3 => (s.eq i).state != 2
  | 4 => ((s.clearing i).state == 0 || (s.clearing i).state == 2) && !s.isHeld (.clearing i)
  | 6 => !s.isHeld (.part i)
  | _ => true
/-- SECURITY.ASSIGN (R117). -/
def assignBody : Body := fun s r =>
  let p := r.payload
  let kind := fld p 0 1
  let first := fld p 4 4
  let n := fld p 8 4
  let f := fld p 12 2
  let objs := (List.range n).map (first + ·)
  chk (p.length == 16 && 1 ≤ kind && kind ≤ 6 && zeroAt p 1 3 && 1 ≤ n && first + n ≤ kindSize kind && zeroAt p 14 2 &&
    (f == operator || s.fnPresent f) && (kind != 4 || objs.all fun c => fnPort f == c / 2)) St.badArg <|
  chk (16 ≤ r.mb || (f != operator && fnPort f == r.mb)) St.denied <|
  chk (first + n ≤ s.kindPresent kind) St.notPresent <|
  chk (objs.all (s.owns r.actor kind)) St.notOwner <|
  chk (objs.all (s.transferable kind)) St.busy <|
  done (objs.foldl (fun s i => s.setOwner kind i f) s)
def execSecurityAssign (s : State) : Res := slaotRow 0x0A01 assignBody s

/-! ## The in-band channel (23 R644) -/

/-- DEVICE.INBAND. -/
def inbandBody : Body := fun s r =>
  let p := r.payload
  let ports := maskBits (fld p 24 64) 512
  chk (p.length == 88 && fld p 0 1 ≤ 3 && zeroAt p 1 1 && 1 ≤ fld p 2 2 && zeroAt p 4 4 && ports.all s.isPort) St.badArg <|
  chk (r.actor == operator) St.notOwner <|
  done { s with cfg := { s.cfg with
    inband := ⟨bit (fld p 0 1) 0, bit (fld p 0 1) 1, fld p 2 2, slice p 8 16, ports.map fun i => (i, true)⟩ } }
def execDeviceInband (s : State) : Res := slaotRow 0x0107 inbandBody s

end Sys2Proof.Machine
end

