-- ==== Sys2Proof/Machine/Security.lean ====
section
/-! DEFINITION. Firebreak commands, keys, debug access, measurement and attestation (19). -/
namespace Sys2Proof.Machine

/-! ## Firebreaks and function maps (R572 to R582) -/

/-- A TARGET of the full part: none is a value outside its range; else whether the variant has the block (R572). -/
def State.targetPresent (s : State) (t : Nat) : Option Bool :=
  let k := t / 256
  let i := t % 256
  if 1 ≤ k ∧ k ≤ 6 then if i < 16 then some (i < s.groves) else none
  else if k = 7 then if i < 32 then some (i < s.clearings) else none
  else if k = 8 ∨ k = 9 then if i < 16 then some (i < s.groves) else none
  else if t = packageBlock then some true
  else none
/-- The present blocks in TARGET order. -/
def State.targets (s : State) : List Nat :=
  ([1, 2, 3, 4, 5, 6].flatMap fun k => s.groveList.map (256 * k + ·)) ++ (List.range s.clearings).map (0x0700 + ·) ++
    ([8, 9].flatMap fun k => s.groveList.map (256 * k + ·)) ++ [packageBlock]
/-- An entry as R574 lays it out. -/
def FbEntry.bytes (e : FbEntry) : List Byte :=
  leBytes 1 (b2n e.valid + 2 * b2n e.r + 4 * b2n e.w + 8 * b2n e.a + 16 * b2n e.x + 128 * b2n e.slaot) ++ zeros 11 ++
    leBytes 2 e.master.toNat ++ leBytes 2 e.mask.toNat ++ leBytes 8 e.base ++ leBytes 8 e.limit
/-- The entry that 32 bytes spell. -/
def readFbEntry (p : List Byte) : FbEntry :=
  let v := fld p 0 1
  ⟨bit v 0, BitVec.ofNat 16 (fld p 12 2), BitVec.ofNat 16 (fld p 14 2), fld p 16 8, fld p 24 8, bit v 1, bit v 2, bit v 3,
    bit v 4, bit v 7⟩
/-- An entry FIREBREAK.SET may write: reserved bits and SLAOT are 0, no MASTER bit lies outside MASK, BASE ≤ LIMIT. -/
def fbEntryOk (p : List Byte) : Bool :=
  let e := readFbEntry p
  bits (fld p 0 1) 7 5 == 0 && zeroAt p 1 11 && e.master &&& ~~~ e.mask == 0 && e.base ≤ e.limit
/-- FIREBREAK.SET (R581). -/
def fbSetBody : Body := fun s r =>
  let p := r.payload
  let t := fld p 0 2
  let first := fld p 2 1
  let n := fld p 3 1
  let one (i : Nat) : List Byte := slice p (8 + 32 * i) 32
  chk (p.length == 8 + 32 * n && 1 ≤ n && n ≤ 8 && first + n ≤ 63 && zeroAt p 4 4 && (s.targetPresent t).isSome &&
    (List.range n).all fun i => fbEntryOk (one i)) St.badArg <|
  chk (s.targetPresent t == some true) St.notPresent <|
  chk (r.actor == operator) St.notOwner <|
  chk (!(List.range n).any fun i => (s.fbEntry t (first + i)).slaot) St.denied <|
  done { s with cfg := { s.cfg with
    firebreaks := (List.range n).foldl (fun m i => SMap.set m (64 * t + first + i) (readFbEntry (one i))) s.cfg.firebreaks } }
def execFirebreakSet (s : State) : Res := slaotRow 0x0E01 fbSetBody s
/-- FIREBREAK.GET. -/
def fbGetBody : Body := fun s r =>
  let p := r.payload
  let t := fld p 0 2
  let first := fld p 2 1
  let n := fld p 3 1
  chk (p.length == 4 && 1 ≤ n && first + n ≤ 64 && (s.targetPresent t).isSome) St.badArg <|
  chk (s.targetPresent t == some true) St.notPresent <|
  chk (s.anyPf2 r.actor) St.notOwner <|
  done s ((List.range n).flatMap fun i => (s.fbEntry t (first + i)).bytes)
def execFirebreakGet (s : State) : Res := slaotRow 0x0E02 fbGetBody s

/-- The checks of the two function-map commands: `data` bytes follow the 8 of the range. -/
def mapCmd (data : Nat → Nat) (gate : State → Nat → Bool) (k : State → Request → Nat → Nat → Nat → Except Nat Done) : Body :=
  fun s r =>
    let p := r.payload
    let port := fld p 0 1
    let v := fld p 2 2
    let n := fld p 4 2
    chk (p.length == 8 + data n && port < 16 && zeroAt p 1 1 && zeroAt p 6 2 && 1 ≤ n && n ≤ 1024 && v + n ≤ 1024 &&
      ((p.drop 8).all fun b => 3 ≤ b.toNat)) St.badArg <|
    chk (port < s.groves) St.notPresent <|
    chk (gate s r.actor) St.notOwner <| k s r port v n
/-- FIREBREAK.MAP_SET (R581; 01 R27). -/
def mapSetBody : Body := mapCmd id (fun _ f => f == operator) fun s r port v n =>
  done { s with cfg := { s.cfg with
    fnMap := (List.range n).foldl (fun m i => SMap.set m (1024 * port + v + i) (fld r.payload (8 + i) 1)) s.cfg.fnMap } }
def execFirebreakMapSet (s : State) : Res := slaotRow 0x0E03 mapSetBody s
/-- Index bytes of a function map. -/
def State.mapBytes (s : State) (port v n : Nat) : List Byte :=
  (List.range n).map fun i => BitVec.ofNat 8 (SMap.getD s.cfg.fnMap (1024 * port + v + i) 0xFF)
/-- FIREBREAK.MAP_GET. -/
def mapGetBody : Body := mapCmd (fun _ => 0) State.anyPf2 fun s _ port v n => done s (s.mapBytes port v n)
def execFirebreakMapGet (s : State) : Res := slaotRow 0x0E04 mapGetBody s

/-- A record of the violation log (R579). -/
def Violation.bytes (v : Violation) : List Byte :=
  leBytes 8 v.time ++ leBytes 8 v.address ++ leBytes 2 v.master.toNat ++ leBytes 2 v.target ++ leBytes 1 v.right ++ zeros 1 ++
    leBytes 2 v.len ++ leBytes 8 v.seq
/-- FIREBREAK.LOG_READ. -/
def fbLogBody : Body := fun s r =>
  chk (r.payload.length == 8) St.badArg <|
  chk (s.anyPf2 r.actor) St.notOwner <|
  done s (((s.sec.violations.filter fun v => fld r.payload 0 8 ≤ v.seq).take 125).flatMap Violation.bytes ++
    leBytes 8 s.sec.overwrites)
def execFirebreakLogRead (s : State) : Res := slaotRow 0x0E05 fbLogBody s

/-! ## Keys and floors (R585 to R588, R593) -/

/-- A security change measured in M2 (R590). -/
def State.measureM2 (s : State) (m : Config.Measured) : State := s.extend 2 (Config.measured m)
/-- The digest of some bytes. -/
def digestBytes (b : List Byte) : List Byte := leBytes 64 (Config.shake256 b).toNat
/-- The ASCII string LANIREN-OWK. -/
def owkLabel : List Byte := [0x4C, 0x41, 0x4E, 0x49, 0x52, 0x45, 0x4E, 0x2D, 0x4F, 0x57, 0x4B]
/-- SECURITY.WRAPKEY_SET (R585): KEY_CHECK is answered. -/
def wrapkeySetBody : Body := fun s r =>
  chk (r.payload.length == 1568) St.badArg <|
  chk (r.actor == operator) St.notOwner <|
  let k := Config.mlkemDecap r.payload
  done ({ s with nv := { s.nv with owk := some k } }.measureM2 .owk) ((digestBytes (owkLabel ++ leBytes 32 k.toNat)).take 8)
def execSecurityWrapkeySet (s : State) : Res := slaotRow 0x0A02 wrapkeySetBody s

/-- A mailbox with its key set or removed, and its counter state and floor at 0 (R109, R587). -/
def State.setCmdKey (s : State) (m : Nat) (key : Option (BitVec 256)) : State :=
  { s with
    nv := { s.nv with
      cmdKeys := match key with | some k => SMap.set s.nv.cmdKeys m k | none => SMap.del s.nv.cmdKeys m
      counterFloors := SMap.del s.nv.counterFloors m }
    ret := { s.ret with counters := SMap.del s.ret.counters m } }
/-- SECURITY.CMDKEY_SET (R587). -/
def cmdkeySetBody : Body := fun s r =>
  let p := r.payload
  let m := fld p 0 1
  let remove := bit (fld p 1 1) 0
  chk (p.length == 44 && m ≤ 17 && fld p 1 1 ≤ 1 && zeroAt p 2 2 && (!remove || zeroAt p 4 40)) St.badArg <|
  chk (16 ≤ m || m < s.groves) St.notPresent <|
  chk (r.actor == operator) St.notOwner <|
  if remove then done ((s.setCmdKey m none).measureM2 (.commandKey m true))
  else
    match s.nv.owk with
    | none => .error St.denied
    | some kek =>
      match Config.keyUnwrap kek (slice p 4 40) with
      | none => .error St.badAuth
      | some k => done ((s.setCmdKey m (some (BitVec.ofNat 256 (leNat k)))).measureM2 (.commandKey m false))
def execSecurityCmdkeySet (s : State) : Res := slaotRow 0x0A03 cmdkeySetBody s

/-- SECURITY.VERIFYKEY_SET (R588). -/
def verifykeySetBody : Body := fun s r =>
  let p := r.payload
  let kind := fld p 0 1
  let key := slice p 4 1793
  chk (p.length == 1797 && (kind == 2 || kind == 3) && zeroAt p 1 3) St.badArg <|
  chk (r.actor == operator) St.notOwner <|
  let nv := if kind = 2 then { s.nv with serviceKey := some key } else { s.nv with bitstreamKey := some key }
  done ({ s with nv := nv }.measureM2 (.verificationKey kind (digestBytes key)))
def execSecurityVerifykeySet (s : State) : Res := slaotRow 0x0A04 verifykeySetBody s

/-- A firmware slot: 0 is A, 1 is B (03 R74). -/
def State.fwSlotOf (s : State) (i : Nat) : FwSlot := SMap.getD s.nv.fw i {}
/-- The bytes of a slot's image: the factory image, or what was staged, up to the last byte written. -/
def FwSlot.bytes (f : FwSlot) : List Byte :=
  match f.image with
  | none => Config.factoryImage
  | some m => getBytes m 0 ((m.getLast?.map (·.1 + 1)).getD 0)
/-- The security version of a slot's image. -/
def FwSlot.version (f : FwSlot) : Nat := Config.imageSecurityVersion f.bytes
/-- SECURITY.FLOOR_SET (R588). -/
def floorSetBody : Body := fun s r =>
  let p := r.payload
  let kind := fld p 0 1
  let v := fld p 4 4
  chk (p.length == 8 && kind ≤ 1 && zeroAt p 1 3 && (if kind = 0 then s.nv.fwFloor else s.nv.bitFloor) ≤ v &&
    (kind == 1 || v ≤ (s.fwSlotOf s.boot.fwSlot).version)) St.badArg <|
  chk (r.actor == operator) St.notOwner <|
  let nv := if kind = 0 then { s.nv with fwFloor := v } else { s.nv with bitFloor := v }
  done ({ s with nv := nv }.measureM2 (.floor kind v))
def execSecurityFloorSet (s : State) : Res := slaotRow 0x0A05 floorSetBody s

/-- SECURITY.KEYS_GET (R593). -/
def keysGetBody : Body := fun s r =>
  chk (r.payload.length == 0) St.badArg <|
  done s (leBytes 4 ((List.range 18).foldl (fun m i => m + 2 ^ i * b2n (SMap.get s.nv.cmdKeys i).isSome) 0) ++
    leBytes 1 (b2n s.nv.owk.isSome + 2 * b2n s.nv.serviceKey.isSome + 4 * b2n s.nv.bitstreamKey.isSome) ++ zeros 3 ++
    leBytes 4 s.nv.fwFloor ++ leBytes 4 s.nv.bitFloor)
def execSecurityKeysGet (s : State) : Res := slaotRow 0x0A0A keysGetBody s

/-! ## Debug access (R589) -/

/-- SECURITY.DEBUG_SET. -/
def debugSetBody : Body := fun s r =>
  let p := r.payload
  let mask := fld p 0 2
  let n := fld p 4 4
  let gs := maskBits mask 16
  chk (p.length == 8 && zeroAt p 2 2 && n ≤ 86400 && mask != 0) St.badArg <|
  chk (gs.all (· < s.groves)) St.notPresent <|
  chk (r.actor == operator) St.notOwner <|
  let d := gs.foldl (fun m g => if n = 0 then SMap.del m g else SMap.set m g (s.clk + ms (1000 * n))) s.sec.debug
  done ({ s with sec := { s.sec with debug := d } }.measureM2 (.debug mask (n != 0)))
def execSecurityDebugSet (s : State) : Res := slaotRow 0x0A06 debugSetBody s
/-- DEBUG_WINDOW_CLOSE: the window of a grove ends; a halted thread stays halted. -/
def execDebugWindowClose (grove : Nat) (s : State) : Res :=
  whenServing s fun s =>
    match SMap.get s.sec.debug grove with
    | some e =>
      let s := s.upToClk e
      { s with sec := { s.sec with debug := SMap.del s.sec.debug grove } }.measureM2 (.debug (2 ^ grove) false)
    | none => s
/-- A register of a thread as a debugger reads it; a CSR that does not exist reads as zero. -/
def State.debugRead (s : State) (t : Thr) : DebugReg → W64
  | .pc => (s.thread t).pc
  | .x i => (s.thread t).xr i.val
  | .f i => (s.thread t).fr i.val
  | .v i w => (SMap.getD (s.thread t).v i.val 0).extractLsb' (64 * w.val) 64
  | .csr n => (s.csrRead t n.val).getD 0
/-- A register of a thread written by a debugger. -/
def State.debugWrite (s : State) (t : Thr) (r : DebugReg) (v : W64) : State :=
  let th := s.thread t
  match r with
  | .pc => s.setThread t { th with pc := v }
  | .x i => s.setThread t (th.setX i.val v)
  | .f i => s.setThread t (th.setF i.val v)
  | .v i w =>
    let old := SMap.getD th.v i.val 0
    let o := 64 * w.val
    let keep := old &&& ~~~ ((0xFFFFFFFFFFFFFFFF : BitVec 256) <<< o)
    s.setThread t { th with v := SMap.set th.v i.val (keep ||| (v.setWidth 256 <<< o)) }
  | .csr n => (s.csrWrite t n.val v).getD s
/-- JTAG_DEBUG_ACCESS: as master 0xF000, which entry 63 of every firebreak admits. Outside the window it reads zero and
does nothing. -/
def execJtagDebugAccess (t : Thr) (op : DebugOp) (s : State) : Res :=
  let opened := s.running && s.debugOpen t.grove && s.threadThere t
  .next (match op with
    | .halt => if opened then s.putThread t { s.thread t with halted := true } else s
    | .resume => if opened then s.putThread t { s.thread t with halted := false } else s
    | .read r => s.emit (.jtag (if opened then s.debugRead t r else 0))
    | .write r v => if opened then s.debugWrite t r v else s
    | .chRelease ch =>
      match ((s.svc t.grove).chan ch).res with
      | some r => if opened && r.thread == tnum t then s.chRelease t.grove ch else s
      | none => s)

/-! ## Identity and attestation (R583, R584, R590, R591) -/

/-- The first `n` bytes, zeros when there are fewer. -/
def fixed (n : Nat) (b : List Byte) : List Byte := (b ++ zeros n).take n
/-- The identity certificate. -/
def State.certificate (s : State) : List Byte :=
  leBytes 4 0x1D3C7A11 ++ leBytes 8 Config.deviceId.toNat ++ leBytes 1 s.variantCode ++ leBytes 1 s.stepping.1 ++
    leBytes 1 s.stepping.2 ++ zeros 1 ++ fixed 1793 Config.ikPublic ++ fixed 1568 Config.ekPublic ++ zeros 7 ++
    fixed 1280 Config.certificateSignature
/-- SECURITY.IDENTITY_GET. -/
def identityGetBody : Body := fun s r =>
  let o := fld r.payload 0 4
  chk (r.payload.length == 4) St.badArg <|
  done s (leBytes 4 4664 ++ leBytes 4 o ++ (s.certificate.drop o).take 4000)
def execSecurityIdentityGet (s : State) : Res := slaotRow 0x0A07 identityGetBody s
/-- SECURITY.ATTEST. -/
def attestBody : Body := fun s r => chk (r.payload.length == 32) St.badArg <| startOp s r 1 (.attest r.payload)
def execSecurityAttest (s : State) : Res := slaotRow 0x0A08 attestBody s
/-- FIREBREAK_DIGEST of a report. -/
def State.firebreakDigest (s : State) : List Byte :=
  digestBytes ((s.targets.flatMap fun t => (List.range 64).flatMap fun e => (s.fbEntry t e).bytes) ++
    s.groveList.flatMap fun p => s.mapBytes p 0 1024)
/-- The SHA of a clearing that a report for a function shows. -/
def State.reportSha (s : State) (f c : Nat) : List Byte :=
  if (s.clearing c).state = 4 ∧ (f = operator ∨ s.owner 4 c = f) then fixed 32 (s.clearing c).sha else zeros 32
/-- The report of R591. -/
def State.report (s : State) (f : Nat) (nonce : List Byte) : List Byte :=
  leBytes 4 0xA77E5701 ++ leBytes 2 2048 ++ leBytes 1 s.variantCode ++ leBytes 1 s.stepping.1 ++ leBytes 1 s.stepping.2 ++
    zeros 1 ++ leBytes 2 ifaceVersion ++ leBytes 8 Config.deviceId.toNat ++ leBytes 8 s.time ++ leBytes 8 s.boot.fwGen ++
    leBytes 4 (s.fwSlotOf s.boot.fwSlot).version ++ leBytes 4 s.nv.fwFloor ++ leBytes 4 s.nv.bitFloor ++ leBytes 2 f ++
    leBytes 2 ((s.groveList.filter s.debugOpen).foldl (fun m g => m + 2 ^ g) 0) ++ zeros 12 ++ fixed 32 nonce ++
    ((List.range 5).flatMap fun i => leBytes 64 (SMap.getD s.sec.measure i 0).toNat) ++ s.firebreakDigest ++
    ((List.range 16).flatMap fun g => if g < s.groves then (imageDigest (s.svc g).image).take 32 else zeros 32) ++
    ((List.range 32).flatMap fun c => if c < s.clearings then s.reportSha f c else zeros 32) ++
    (List.range 32).flatMap fun c => leBytes 1 (if c < s.clearings then (s.clearing c).state else 0)
/-- ATTEST_COMPLETE: the report of the moment is signed and kept as long as the operation's outcome is. -/
def execAttestComplete (h : Nat) (s : State) : Res :=
  whenServing s (opRow h (fun s _ => s) fun s o =>
    match o.data with
    | .attest nonce =>
      let b := s.report o.starter nonce
      let s := s.endOp o St.ok
      let kept := s.sec.reports.filter fun x => s.sl.ended.any (·.handle == x.handle)
      { s with sec := { s.sec with reports := kept ++ [⟨h, o.starter, b, fixed 1280 (Config.fnDsaSign b)⟩] } }
    | _ => s)
/-- SECURITY.REPORT_GET. -/
def reportGetBody : Body := fun s r =>
  let h := fld r.payload 0 4
  chk (r.payload.length == 4) St.badArg <|
  match s.op h, s.sl.ended.find? (·.handle == h) with
  | some o, _ => chk (o.opcode == 0x0A08) St.notFound <| chk (starterGate r.actor o.starter) St.notOwner <| .error St.busy
  | none, some e =>
    match s.sec.reports.find? (·.handle == h) with
    | some x => chk (starterGate r.actor e.starter) St.notOwner <| done s (x.report ++ x.signature)
    | none => .error St.notFound
  | none, none => .error St.notFound
def execSecurityReportGet (s : State) : Res := slaotRow 0x0A09 reportGetBody s

end Sys2Proof.Machine
end

