-- ==== Sys2Proof/Machine/Time.lean ====
section
/-! DEFINITION. Device time: its servo, its steps and the TIME commands (20). -/
namespace Sys2Proof.Machine

/-! ## The servo (R599 to R603) -/

/-- The state with a change of the time state. -/
def State.tmSet (s : State) (f : TimeSt → TimeSt) : State := { s with tm := f s.tm }
/-- What the corrections have added so far is taken into the base, so that they may change from this moment on. -/
def TimeSt.settle (t : TimeSt) (now : Nat) : TimeSt :=
  { t with
    base := t.base + t.freqDone now + t.slewDone now, freqStart := now
    slew := t.slew - t.slewDone now, slewStart := now }
/-- The bound of the frequency correction, ±200 ppm in 1/256 ppb (R602). -/
def freqLimit : Int := 51200000
/-- The frequency correction replaced (R601). -/
def State.setFreq (s : State) (f : Int) : State :=
  s.tmSet fun t => { t.settle s.now with freq := max (-freqLimit) (min freqLimit f) }
/-- A new offset replaces what remains of the one being slewed (R602). -/
def State.slewBy (s : State) (off : Int) : State :=
  s.tmSet fun t => { t.settle s.now with slew := off, slewPpm := s.cfg.time.slewPpm }
/-- STATE changes, with EV_TIME_STATE (R603, R606). -/
def State.timeState (s : State) (v : Nat) : State :=
  let old := s.tm.state
  if v = old then s
  else (s.tmSet fun t => { t with state := v }).fireAll 245 Ev.timeState
    (BitVec.ofNat 32 (v + 16 * s.cfg.time.source + 256 * old))

/-! ## Steps (R604) -/

/-- The data of EV_TIME_STEP (R606). -/
def stepData (d : Int) : W32 :=
  let u := d.tdiv 4000
  let u := if u = 0 ∧ d ≠ 0 then d.sign else u
  BitVec.ofInt 32 (max (-2147483648) (min 2147483647 u))
/-- The learn engine decides every event it holds. -/
def State.decideAll : Nat → State → State
  | 0, s => s
  | n + 1, s => State.decideAll n s.decideFirst
/-- A step by a signed number of units. Moments kept on `now` keep their distance by themselves; the freeze of an entry
is kept as a stamp and moves with the count; the windows aligned to device time close and open. -/
def State.timeStep (s : State) (d : Int) : State :=
  let s := if s.tb.engineFailed.isNone then State.decideAll s.tb.events.length s else s
  let t := ((Int.ofNat s.time + d) % 18446744073709551616).toNat
  let s := (s.clr.map (·.1)).foldl (fun s c => (s.rollUsage c).closeUsage c s.now t) s
  let s := s.tmSet fun x => { x with base := x.base + d, stepped := x.stepped + d, steps := x.steps + 1 }
  let shift (m : MoveSt) : MoveSt :=
    { m with moves := [], frozen := m.frozen.map fun f => (Int.ofNat f + d).toNat }
  let s := { s with tb := { s.tb with moves := s.tb.moves.map shift, decided := (0, 0) } }
  s.fireAll 245 Ev.timeStep (stepData d)
/-- An offset of reference minus device time: slewed, or stepped when it is above STEP_NS and AUTO_STEP is set. -/
def State.correct (s : State) (off : Int) : State :=
  if 4 * s.cfg.time.stepNs < off.natAbs ∧ s.cfg.time.autoStep = true then (s.slewBy 0).timeStep off else s.slewBy off

/-! ## Sources -/

/-- Signed value of a little-endian field. -/
def sfld (p : List Byte) (o n : Nat) : Int := (BitVec.ofNat (8 * n) (fld p o n)).toInt
/-- The nearest second boundary to a stamp is this far below it. -/
def phaseError (c : Int) : Int := (c + 2000000000) % 4000000000 - 2000000000
/-- An accepted edge supplies the servo, whose law is not stated: the new frequency word is a free value (R600, R602). -/
def State.servoEdge (s : State) : State :=
  let (f, s) := s.fresh 27
  (s.setFreq f.toInt).tmSet fun t => { t with lastSupply := some s.clk }
/-- PPS_IN_EDGE: an edge at the moment device time reaches `stamp`, or at once when it has passed (R600, R607). -/
def execPpsInEdge (stamp : Nat) (s : State) : Res :=
  whenServing s fun s =>
    let s := s.upToTime stamp
    let c := Int.ofNat s.time + s.cfg.time.ppsCorr.toInt
    let e := phaseError c
    let servo := s.cfg.time.source == 1
    let s := s.tmSet fun t => { t with lastError := e }
    if s.board.sysref = false then s
    else if servo = true ∧ s.tm.state = 2 ∧ 400000 < e.natAbs then s.tmSet fun t => { t with rejected := t.rejected + 1 }
    else
      match s.tm.pendingSet with
      | some (v, _, r) =>
        let s := if servo then s.servoEdge else s
        let s := ((s.slewBy 0).timeStep (Int.ofNat v - c)).tmSet fun t => { t with pendingSet := none, good := 0 }
        ((s.timeState 1).finish r true ⟨St.ok, [], 0⟩).drain
      | none =>
        if servo then
          let s := s.servoEdge.correct (-e)
          let good := if e.natAbs ≤ 80 then s.tm.good + 1 else 0
          let s := s.tmSet fun t => { t with good := good }
          s.timeState (if 16 ≤ good ∨ s.tm.state = 2 then 2 else 1)
        else s
/-- TIME_HOLDOVER (R603): the source has supplied nothing within HOLD_MS. -/
def execTimeHoldover (s : State) : Res :=
  whenServing s fun s =>
    match s.tm.lastSupply with
    | some l =>
      if s.cfg.time.source ≠ 0 ∧ (s.tm.state = 1 ∨ s.tm.state = 2) then
        let s := s.upToClk (l + ms s.cfg.time.holdMs)
        (s.tmSet fun t => { t with good := 0 }).timeState 3
      else s
    | none => s

/-! ## Commands (R607) -/

/-- TIME.CONFIG. -/
def timeConfigBody : Body := fun s r =>
  let p := r.payload
  let c : TimeCfg := ⟨fld p 0 1, bit (fld p 1 1) 0, fld p 2 2, fld p 4 2, fld p 6 2, fld p 8 4, BitVec.ofNat 32 (fld p 12 4)⟩
  chk (p.length == 16 && c.source ≤ 2 && fld p 1 1 ≤ 1 && 1 ≤ c.slewPpm && c.slewPpm ≤ 200 && 100 ≤ c.holdMs &&
    c.holdMs ≤ 60000 && 1000 ≤ c.stepNs && c.stepNs ≤ 1000000000) St.badArg <|
  chk (r.actor == operator) St.notOwner <|
  let same := c.source == s.cfg.time.source
  done ({ s with cfg := { s.cfg with time := c } }.tmSet fun t =>
    let t := { t.settle s.now with slewPpm := c.slewPpm }
    if same then t else { t with good := 0, lastSupply := some s.clk })
def execTimeConfig (s : State) : Res := slaotRow 0x0B01 timeConfigBody s
/-- The checks TIME.SET shares. -/
def timeSetCmd (k : State → Request → Except Nat Done) : Body := fun s r =>
  let p := r.payload
  chk (p.length == 16 && fld p 0 1 ≤ 1 && zeroAt p 1 7 && (fld p 0 1 == 0 || fld p 8 8 % 4000000000 == 0)) St.badArg <|
  chk (r.actor == operator) St.notOwner <| k s r
/-- TIME.SET with KIND 0. -/
def timeSetDeltaBody : Body := timeSetCmd fun s r =>
  let s := ((s.slewBy 0).timeStep (sfld r.payload 8 8)).tmSet fun t => { t with good := 0 }
  done (s.timeState 1)
/-- TIME_SET_DELTA: a TIME.SET whose KIND is not 1. -/
def execTimeSetDelta (s : State) : Res :=
  requestRow (fun r => r.opcode == 0x0B02 && fld r.payload 0 1 != 1) timeSetDeltaBody s
/-- TIME.SET with KIND 1: answered at the next accepted edge, or after 2 s. -/
def timeSetEdgeBody : Body := timeSetCmd fun s r =>
  chk s.tm.pendingSet.isNone St.busy <|
  .ok ⟨s.tmSet fun t => { t with pendingSet := some (fld r.payload 8 8, s.clk + ms 2000, r) }, none⟩
def execTimeSetAtEdge (s : State) : Res :=
  requestRow (fun r => r.opcode == 0x0B02 && fld r.payload 0 1 == 1) timeSetEdgeBody s
/-- TIME_SET_EDGE_TIMEOUT. -/
def execTimeSetEdgeTimeout (s : State) : Res :=
  whenServing s fun s =>
    match s.tm.pendingSet with
    | some (_, due, r) =>
      (((s.upToClk due).tmSet fun t => { t with pendingSet := none }).finish r true ⟨St.aborted, [], 0⟩).drain
    | none => s
/-- TIME.ADJUST (R601): under another SOURCE, or while SYSREF is lost, it corrects nothing. -/
def timeAdjustBody : Body := fun s r =>
  let p := r.payload
  let off := sfld p 0 8
  let f := sfld p 8 4
  chk (p.length == 12 && f.natAbs ≤ 51200000) St.badArg <|
  chk (r.actor == operator || r.actor == s.cfg.time.adjustFn) St.notOwner <|
  if s.cfg.time.source ≠ 2 ∨ s.board.sysref = false then done s
  else
    let near := s.tm.lastSupply.any fun l => s.clk ≤ l + ms s.cfg.time.holdMs
    let good := if 400 < off.natAbs then 0 else if near then s.tm.good + 1 else 1
    let s := ((s.setFreq f).correct off).tmSet fun t => { t with good := good, lastSupply := some s.clk }
    done (s.timeState (if 4 ≤ good ∨ s.tm.state = 2 then 2 else 1))
def execTimeAdjust (s : State) : Res := slaotRow 0x0B03 timeAdjustBody s
/-- The fields of TIME.CONFIG. -/
def TimeCfg.bytes (c : TimeCfg) : List Byte :=
  leBytes 1 c.source ++ leBytes 1 (b2n c.autoStep) ++ leBytes 2 c.adjustFn ++ leBytes 2 c.slewPpm ++ leBytes 2 c.holdMs ++
    leBytes 4 c.stepNs ++ leBytes 4 c.ppsCorr.toNat
/-- The two's-complement bytes of a signed value. -/
def intBytes (n : Nat) (v : Int) : List Byte := leBytes n (BitVec.ofInt (8 * n) v).toNat
/-- TIME.GET. -/
def timeGetBody : Body := fun s r =>
  chk (r.payload.length == 0) St.badArg <|
  done s (leBytes 8 s.time ++ leBytes 1 s.tm.state ++ leBytes 1 s.cfg.time.source ++ zeros 2 ++ intBytes 4 s.tm.freq ++
    intBytes 8 (s.tm.slew - s.tm.slewDone s.now) ++ intBytes 8 s.tm.lastError ++ leBytes 8 s.tm.steps ++
    leBytes 8 s.tm.rejected ++ s.cfg.time.bytes)
def execTimeGet (s : State) : Res := slaotRow 0x0B04 timeGetBody s

end Sys2Proof.Machine
end

