-- ==== Sys2Proof/Machine/Health.lean ====
section
/-! DEFINITION. Scrubbing, unit failure, grove failure, the wardens, the error log and the HEALTH commands (21). -/
namespace Sys2Proof.Machine

/-! ## Units (01 R15, 21 R614) -/

/-- Units of a kind in one scope. -/
def unitCount (kind : Nat) : Nat :=
  match kind with
  | 0x01 => 128 | 0x02 => 8 | 0x03 => 32 | 0x04 => 1 | 0x05 => 16 | 0x06 => 4 | 0x07 => 1 | 0x08 => 1 | 0x09 => 4 | 0x0A => 1
  | 0x0B => 2 | 0x10 => 1 | 0x11 => 1 | 0x12 => 1 | 0x20 => 8 | 0x21 => 4 | 0x22 => 2 | 0x23 => 1 | _ => 0
/-- Leaves of a unit of a kind. -/
def leafCount (kind : Nat) : Nat :=
  match kind with
  | 0x01 => 8 | 0x04 => 132 | 0x05 => 4 | 0x06 => 64 | 0x08 => 65536 | 0x09 => 8 | 0x0A => 16 | 0x10 => 1048640 | 0x11 => 131136
  | 0x20 => 256 | 0x21 => 64 | _ => 0
/-- The scope a unit is fenced in: its grove, its stand, or the device. -/
def locScope (l : LocWord) : Nat := if groveKind l.kind then l.grove else if l.kind < 0x20 then l.stand else 0
/-- The word names a unit or leaf that the variant has (R14 to R17). -/
def State.locPresent (s : State) (l : LocWord) : Bool :=
  l.unit < unitCount l.kind &&
    ((l.level == 2 && l.leaf == 0) || (l.level == 1 && l.leaf < leafCount l.kind)) &&
    (if groveKind l.kind then l.grove < s.groves && l.stand == l.grove / 4
     else l.grove == 0 && (if l.kind < 0x20 then l.stand < 4 && (l.kind != 0x12 || l.stand % 2 == 0) else l.stand == 0)) &&
    (l.kind != 0x06 || s.hasCipher) && (l.kind != 0x0B || s.clearings != 0)
/-- The unit a leaf belongs to. -/
def locUnitOf (l : LocWord) : LocWord := { l with level := 2, leaf := 0 }
/-- A leaf taken out of use. -/
def State.retire (s : State) (l : LocWord) : State :=
  if s.hl.retired.contains l then s
  else
    let s := { s with hl := { s.hl with retired := s.hl.retired ++ [l] } }
    if l.kind = 0x08 ∧ l.level = 1 then s.noteFree l.grove else s
/-- A frame lost with a unit of a grove. -/
def State.loseFrame (s : State) (g t : Nat) : State :=
  match s.frame t with
  | some f =>
    if f.freed then s.freeFrame t
    else
      let s := s.healthCtr g 0 1
      if f.dec.isNone then s.decide_ t .free false else s.freeFrame t
  | none => s
/-- The frames that reference a cell: by a tag that holds it, or a relay item that reads it. -/
def Slice.users (sl : Slice) (c : Nat) : List Nat :=
  ((sl.tags.filter fun x => x.2.cells.any (·.2 == c)).map (·.1) ++
    (sl.relay.filter fun r => r.cell == c && r.seg.len != 0).map (·.seg.tag)).eraseDups
/-- A frame that holds a poisoned word is freed; one on the wire is ended there with an inverted FCS, and counted in
TX_ABORTED (R612). -/
def State.poisonFrame (s : State) (g t : Nat) : State :=
  match (s.slice g).sending.find? (·.2 == t) with
  | some (n, _) =>
    let s := (s.ethCtr n 24 1).cutSending n
    s.setSlice g { s.slice g with freeAt := SMap.set (s.slice g).freeAt n (s.now + s.wireTime n 20) }
  | none => s.freeFrame t
/-- Every frame that references a cell is freed so. -/
def State.poisonCell (s : State) (g c : Nat) : State := ((s.slice g).users c).foldl (fun s t => s.poisonFrame g t) s

/-! ## Tree banks (R615) -/


/-- The logical bank that a physical bank serves. -/
def State.logicalBank (s : State) (g b : Nat) : Option Nat := (List.range 128).find? fun i => s.physBank g i == b
/-- Spare banks of a grove that neither serve nor have failed. -/
def State.spareBanks (s : State) (g : Nat) : List Nat :=
  [128, 129, 130, 131].filter fun b => (s.logicalBank g b).isNone && !s.hl.retired.contains (locLeaf g 0x04 0 b)
/-- Logical banks of a grove whose physical bank has failed. -/
def State.deadBanks (s : State) (g : Nat) : List Nat :=
  (s.hl.retired.filter fun l => l.kind == 0x04 && l.grove == g).filterMap fun l => s.logicalBank g l.leaf
/-- Both halves of a grove's tree memory changed. -/
def State.modHalves (s : State) (g : Nat) (k : TreeHalf → TreeHalf) : State :=
  let c := s.classifier g
  s.setClassifier g { c with half0 := k c.half0, half1 := k c.half1 }
/-- A physical bank fails: walks that read it take FAULT until it is rewritten. -/
def State.bankFails (s : State) (g b : Nat) : State :=
  let s := s.retire (locLeaf g 0x04 0 b)
  match s.logicalBank g b with
  | some i => s.modHalves g fun h => { h with dead := i :: h.dead.filter (· != i) }
  | none => s
/-- TREE_BANK_REMAP: a spare takes the place of a failed bank, rewritten from Slaot's copy. -/
def execTreeBankRemap (grove bank : Nat) (s : State) : Res :=
  whenRunning s fun s =>
    if s.hl.retired.contains (locLeaf grove 0x04 0 bank) then
      match s.logicalBank grove bank, s.spareBanks grove with
      | some i, b :: _ =>
        let s := { s with hl := { s.hl with bankMap := SMap.set s.hl.bankMap (132 * grove + i) b } }
        s.modHalves grove fun h => { h with dead := h.dead.filter (· != i), bad := h.bad.filter fun n => n % 128 != i }
      | _, _ => s
    else s

/-! ## Scrubbing (R608 to R613) -/

/-- The moments of a list that lie in the window of 24 h. -/
def lastDay (now : Nat) (l : List Nat) : List Nat := l.filter fun t => now < t + ms 86400000
/-- What the device does to a leaf found failing (R611). -/
def State.leafFails (s : State) (l : LocWord) (n : Nat) : State :=
  let s := s.log l 1 0 (BitVec.ofNat 32 n)
  match l.kind with
  | 0x08 => s.retire l
  | 0x04 => s.bankFails l.grove l.leaf
  | 0x10 | 0x11 =>
    let x := s.tbl (l.kind - 0x10)
    s.setTbl (l.kind - 0x10) { x with bad := x.bad.filter (· != 4 * l.leaf + l.stand) }
  | _ => s
/-- A scrub read of a leaf that has shown a correctable error before, or shows one now. -/
def LeafErr.scrub (e : LeafErr) (word now : Nat) (err : Bool) : LeafErr :=
  let seen := if word ≤ e.word then false else e.seen
  { e with
    word := word, seen := seen || err
    reads := if err then lastDay now e.reads ++ [now] else e.reads
    passes := if err && !seen then lastDay now e.passes ++ [now] else e.passes }
/-- A correctable error or a good read of a scrub pass. -/
def State.scrubLeaf (s : State) (l : LocWord) (word : Nat) (err : Bool) : State :=
  match s.hl.leafErrs.find? (·.loc == l), err with
  | none, false => s
  | x, _ =>
    let e := match x with
      | some e => e.scrub word s.clk err
      | none => { loc := l, reads := [s.clk], passes := [s.clk], word := word, seen := true }
    let fails := 16 ≤ e.reads.length || 8 ≤ e.passes.length
    let n := max e.reads.length e.passes.length
    let e := if err && fails then { e with reads := [], passes := [] } else e
    let s := { s with hl := { s.hl with leafErrs := e :: s.hl.leafErrs.filter (·.loc != l) } }
    if err && fails then s.leafFails l n else s
/-- A word of a sapling thread's leaf (assumption log 29): words 0 to 511 are its slice of local memory, two contexts of
256 words, the one being parsed first; from word 512 on follows the grove's program store. -/
def Parser.poison (p : Parser) (t : Thr) (word : Nat) : Parser :=
  if word < 512 then p.setCtxs t ((p.ctxs t).zipIdx.map fun x => if x.2 = word / 256 then { x.1 with bad := true } else x.1)
  else if word - 512 < 4096 ∧ p.badWords.contains (word - 512) = false then { p with badWords := (word - 512) :: p.badWords }
  else p
/-- A context slot of a cipher engine holds the message of its place among the open ones (assumption log 48): it ends
(17 R510). -/
def State.poisonSlot (s : State) (g e i : Nat) : State :=
  match (s.openMsgs g e)[i]? with
  | some m =>
    if m.ended || !(s.engine g e).suspendable then s
    else
      let s := s.closeMsg g e m
      match m.msg with
      | .job q slot => s.endJob q slot St.aborted 7 0
      | .frame t => s.freeFrame t
  | none => s
/-- The slice of a service thread holds an uncorrectable word: the thread faults (15 R440). -/
def State.poisonThread (s : State) (t : Thr) : State :=
  if s.threadThere t ∧ (s.thread t).parked = false then
    let r := s.fresh 64
    r.2.threadFault t excUncorrectable r.1
  else s
/-- What holds an uncorrectable word is poisoned (R612), where it outlasts the read. -/
def State.poisonWord (s : State) (l : LocWord) (word : Nat) : State :=
  match l.kind with
  | 0x01 => s.setParser l.grove ((s.parser l.grove).poison ⟨l.grove, l.unit, l.leaf⟩ word)
  | 0x04 =>
    match s.logicalBank l.grove l.leaf with
    | some i =>
      let slot := word / 4 % 2048 * 128 + i
      let c := s.classifier l.grove
      let h := c.half (word / 8192 % 2)
      s.setClassifier l.grove (c.setHalf (word / 8192 % 2) { h with bad := if h.bad.contains slot then h.bad else slot :: h.bad })
    | none => s
  | 0x05 => if l.level = 1 then s.poisonThread ⟨l.grove, l.unit, l.leaf⟩ else s
  | 0x06 => if l.level = 1 then s.poisonSlot l.grove l.unit l.leaf else s
  | 0x08 => s.poisonCell l.grove l.leaf
  | 0x0B => s.clFault (2 * l.grove + l.unit) 2
  | 0x10 | 0x11 =>
    let x := s.tbl (l.kind - 0x10)
    let p := 4 * l.leaf + l.stand
    s.setTbl (l.kind - 0x10) { x with bad := if x.bad.contains p then x.bad else p :: x.bad }
  | 0x21 => { s with hl := { s.hl with poison := if s.hl.poison.contains word then s.hl.poison else word :: s.hl.poison } }
  | _ => s
/-- SCRUB_READ (R609, R610): `word` is the index of the word in the leaf, in package memory its address / 8. -/
def execScrubRead (loc : LocWord) (word : Nat) (outcome : ReadOutcome) (s : State) : Res :=
  whenRunning s fun s =>
    if !s.locPresent loc then s
    else
      match outcome with
      | .good => s.scrubLeaf loc word false
      | .correctable => (if groveKind loc.kind then s.healthCtr loc.grove 2 1 else s).scrubLeaf loc word true
      | .uncorrectable syn => (s.uncorrectable loc (BitVec.ofNat 8 syn)).poisonWord loc word

/-! ## Unit failure (R614) -/

/-- A failed unit is reported. -/
def State.reportFence (s : State) (l : LocWord) (cause : Nat) : State :=
  let s := s.log l 3 2 (BitVec.ofNat 32 cause)
  let data := BitVec.ofNat 32 (l.grove + 2 ^ 16 * l.kind + 2 ^ 24 * (l.unit % 256))
  if groveKind l.kind then s.fireDev l.grove 5 Ev.unitFenced data else s.fireAll 244 Ev.unitFenced data
/-- A unit takes no new work. -/
def State.fence (s : State) (l : LocWord) : State :=
  { s with hl := { s.hl with fenced := s.hl.fenced ++ [⟨l.kind, (locScope l), l.unit⟩] } }
/-- Ports of a grove that use lanes `a` to `b` − 1 of it go down and stay down. -/
def State.losePorts (s : State) (g a b reason : Nat) : State :=
  ((List.range 32).filter fun i =>
      s.isPort (32 * g + i) && i < b && a < i + s.width (32 * g + i) && (s.eth (32 * g + i)).state != 0).foldl
    (fun s i =>
      let s := s.portDown (32 * g + i) reason true
      s.setEth (32 * g + i) { s.eth (32 * g + i) with state := 4, reason := reason, retryAt := none }) s
/-- The messages of a cipher engine are lost: DETAIL 7. -/
def State.loseEngine (s : State) (g e : Nat) : State :=
  let l := (s.engine g e).running
  let s := s.setEngine g e { s.engine g e with msgs := [] }
  l.foldl (fun s m => match m.msg with
    | .job q slot => s.endJob q slot St.aborted 7 0
    | .frame t => s.loseFrame g t) s
/-- The work in flight on a unit (R614): the frames of a sapling core or a trail pipeline, the walks of an engine, the
threads of a service core, and so on by its kind. -/
def State.loseWork (s : State) (l : LocWord) : State :=
  let g := l.grove
  match l.kind with
  | 0x01 =>
    (((s.parser g).threads.filter fun x => x.1 / 8 == l.unit).flatMap fun x => x.2.map (·.tag)).foldl (fun s t => s.loseFrame g t) s
  | 0x02 =>
    ((s.cn.frames.filter fun x => tagGrove x.1 == g && x.2.pipe == l.unit && x.2.stage == .trail && x.2.dec.isNone).map (·.1)).foldl
      (fun s t => s.loseFrame g t) s
  | 0x03 =>
    ((s.classifier g).walks.filter (·.engine == l.unit)).foldl (fun s w =>
      let c := s.classifier g
      (s.setClassifier g { c with walks := c.walks.filter (·.tag != w.tag) }).walkFault w.tag (locUnit g 0x03 l.unit) 0) s
  | 0x05 => (List.range 4).foldl (fun s i => s.parkThread ⟨g, l.unit, i⟩) s
  | 0x06 => s.loseEngine g l.unit
  | 0x07 =>
    let s := { s with ra := { s.ra with inq := SMap.del s.ra.inq g } }
    ((s.ra.conns.filter fun c => c.1 / 65536 == g).map (·.1)).foldl (fun s c => s.connFail c 11) s
  | 0x09 => s.losePorts g (8 * l.unit) (8 * l.unit + 8) 1
  | 0x0A => if (s.port g).up then s.linkLost g 4 else s
  | 0x0B => s.clFault (2 * g + l.unit) 2
  | 0x12 => if s.tb.engine = l.stand then { s with tb := { s.tb with engineFailed := s.tb.engineFailed.or (some s.now) } } else s
  | _ => s
/-- A failed leaf: a bank, a cell, a lane or a pseudo-channel. -/
def State.loseLeaf (s : State) (l : LocWord) : State :=
  match l.kind with
  | 0x04 => s.bankFails l.grove l.leaf
  | 0x08 => (s.poisonCell l.grove l.leaf).retire l
  | 0x09 => (s.retire l).losePorts l.grove (8 * l.unit + l.leaf) (8 * l.unit + l.leaf + 1) 1
  | _ => s.retire l
/-- A leaf's uncorrectable reads in the window of 1 s reach the count of a failed unit. -/
def State.rateReached (s : State) (l : LocWord) : Bool :=
  s.hl.uncorr.any fun x => locUnitOf x.1 == locUnitOf l && (l.level == 2 || x.1 == l) &&
    3 ≤ (s.hl.uncorr.filter fun y => y.1 == x.1 && s.clk < y.2 + ms 1000).length
/-- The bytes an image is measured by: M0 takes its digest, M1 its slot, generation and security version (19 R590). -/
def State.measureImage (s : State) (i : Nat) : State :=
  let f := s.fwSlotOf i
  (s.extend 0 (digestBytes f.bytes)).extend 1 (Config.measured (.firmware i f.generation f.version))
/-- An image is accepted and starts on a warden core. -/
def State.startImage (s : State) (i : Nat) : State :=
  { s with boot := { s.boot with fwSlot := i, fwGen := (s.fwSlotOf i).generation } }.measureImage i
/-- The activation in progress, with its staged slot (03 R91). -/
def State.activation (s : State) : Option (LongOp × Nat) :=
  s.sl.ops.findSome? fun o => match o.data with | .activate slot _ => some (o, slot) | _ => none
/-- An activation ends INTERNAL, the staged slot unconfirmed (03 R93). -/
def State.endActivation (s : State) : State :=
  match s.activation with
  | some (o, _) => { s.endOp o St.internal with boot := { s.boot with activating := false } }
  | none => s
/-- The core that supervises an activation has failed before the other is active: that one completes its reboot on the
staged image (R622). -/
def State.supervisorLost (s : State) : State :=
  match s.activation with
  | some (o, slot) => (if o.stepsDone = 0 then s.startImage slot else s).endActivation
  | none => s
/-- UNIT_FAILURE: the cause is 1 a hardware check, 2 the uncorrectable rate, 3 the start-up test. Kinds 0x04, 0x09 and
0x21 fail by the leaf as well, 0x08 too, and words of MRAM are retired one by one. A plane fails by its own rules: here it
is fenced once it is down. The active warden core shows its failure by its heartbeats. -/
def State.failUnit (s : State) (loc : LocWord) (cause : Nat) : State :=
  let byLeaf := [0x04, 0x08, 0x09, 0x21].contains loc.kind
  if !s.locPresent loc || cause == 0 || 3 < cause || (loc.level == 1 && !byLeaf) || (loc.level == 2 && loc.kind == 0x04) ||
      s.hl.retired.contains loc || s.isFenced loc.kind (locScope loc) loc.unit || (cause == 2 && !s.rateReached loc) then s
  else if loc.level = 1 then (s.loseLeaf loc).reportFence loc cause
  else
    match loc.kind with
    | 0x20 =>
      if (s.plane loc.unit).state = 3 then (s.fence loc).reportFence loc cause
      else if cause = 3 then
        ((s.setPlane loc.unit { s.plane loc.unit with state := 3, downDue := some (3, 0), modeDue := none }).fence loc).reportFence loc cause
      else s
    | 0x22 =>
      if loc.unit = s.hl.active then s
      else
        let s := { s with hl := if loc.unit = 0 then { s.hl with warden0 := false } else { s.hl with warden1 := false } }
        ((s.fence loc).reportFence loc cause).endActivation
    | 0x23 => s.reportFence loc cause
    | _ => ((s.loseWork loc).fence loc).reportFence loc cause
def execUnitFailure (loc : LocWord) (cause : Nat) (s : State) : Res := whenRunning s fun s => s.failUnit loc cause

/-! ## Grove failure (R616 to R618) -/

/-- The failure a cause of R616 names has happened; the clock and supply monitors report from outside. -/
def State.groveCause (s : State) (g cause : Nat) : Bool :=
  match cause with
  | 1 => s.isFenced 0x08 g 0
  | 2 => (s.live 0x01 g 128).isEmpty || (s.live 0x02 g 8).isEmpty || (s.live 0x03 g 32).isEmpty
  | 3 => !(s.deadBanks g).isEmpty && (s.spareBanks g).isEmpty
  | 4 => true
  | _ => false
/-- The frames a grove holds: those with something in its slice, and those that entered through it whose last byte or whose
decision has not left it. -/
def State.framesOf (s : State) (g : Nat) : List Nat :=
  (s.cn.frames.filter fun x => (s.slice g).holds x.1 ||
    (tagGrove x.1 == g && !(x.2.released && x.2.last.isSome))).map (·.1)
/-- The other groves turn away from a failed one (R618): steering, transit registers and relay queues. -/
def State.turnAway (s : State) (g : Nat) : State :=
  let s := { s with cn := { s.cn with steer := s.cn.steer.filter (·.2 != g) } }
  let s := (s.groveList.filter (· != g)).foldl (fun s i =>
    let us := (s.transitOf i).filter (·.final == g)
    let s := s.setTransit i ((s.transitOf i).filter (·.final != g))
    (us.flatMap (·.segs)).foldl (fun s x => (s.sendLocal i 4 x).noteSlice x.tag i) s) s
  let bound := (s.cn.slices.flatMap fun x => (x.2.relay.filter (·.dest == g)).map (·.seg.tag)) ++
    (s.cn.frames.filter fun x => x.2.released && x.2.out x.1 == some g).map (·.1)
  bound.eraseDups.foldl (fun s t => if (s.frame t).isSome then (s.classCtr (tagGrove t) 6 1).freeFrame t else s) s
/-- A grove fails. -/
def State.failGrove (s : State) (grove cause : Nat) : State :=
  if s.groves ≤ grove || s.groveFailed grove || !s.groveCause grove cause then s
  else
    let s := { s with hl := { s.hl with failedGroves := s.hl.failedGroves ++ [grove] } }
    let s := s.losePorts grove 0 32 6
    let n := (s.transitOf grove).length
    let us := s.transitOf grove ++ s.arrivals grove
    let s := ((s.setTransit grove []).setArrivals grove []).healthCtr grove 0 n
    let s := us.foldl (fun s u => s.loseUnit u) s
    let s := (s.framesOf grove).foldl (fun s t => s.loseFrame grove t) s
    let s := s.turnAway grove
    let s := [2 * grove, 2 * grove + 1].foldl (fun s c => s.clFault c 2) s
    let s := ((s.qp.qps.filter fun x => x.1 / 4096 == grove).map (·.1)).foldl State.qpToReset s
    (s.log ⟨3, grove / 4, grove, 0, 0, 0⟩ 4 3 (BitVec.ofNat 32 cause)).fireAll 244 Ev.groveFailed (BitVec.ofNat 32 grove)
/-- GROVE_FAILURE. -/
def execGroveFailure (grove cause : Nat) (s : State) : Res := whenRunning s fun s => s.failGrove grove cause

/-! ## The wardens (R620 to R622) -/

/-- A warden core is live. -/
def HealthSt.coreLive (h : HealthSt) (c : Nat) : Bool := if c = 0 then h.warden0 else h.warden1
/-- The live flag of a warden core set. -/
def HealthSt.setCore (h : HealthSt) (c : Nat) (v : Bool) : HealthSt := if c = 0 then { h with warden0 := v } else { h with warden1 := v }
/-- WARDEN_HEARTBEAT: the next one is 100 µs after the last. -/
def execWardenHeartbeat (s : State) : Res :=
  whenServing s fun s =>
    if s.hl.coreLive s.hl.active then
      let s := s.upToClk (s.hl.heartbeat + us 100)
      { s with hl := { s.hl with heartbeat := s.clk } }
    else s
/-- WARDEN_HEARTBEAT_TIMEOUT: 1 ms after the last heartbeat the core is declared failed; a live standby takes over. -/
def execWardenHeartbeatTimeout (s : State) : Res :=
  whenServing s fun s =>
    if s.hl.coreLive s.hl.active then
      let s := s.upToClk (s.hl.heartbeat + ms 1)
      let h := s.hl.setCore s.hl.active false
      { s with hl := if h.coreLive (1 - h.active) then { h with takeover := some h.heartbeat } else h }
    else s
/-- A request whose mailbox waits for its answer is answered ABORTED: it has committed no journal record. -/
def State.answerAborted (s : State) (r : Request) : State := s.finish r true ⟨St.aborted, [], 0⟩
/-- The requests a failed core was running. -/
def State.answerOpen (s : State) : State :=
  let s := match s.sl.accepted with
    | some r => { s with sl := { s.sl with accepted := none } }.answerAborted r
    | none => s
  let s := match s.tm.pendingSet with
    | some (_, _, r) => (s.tmSet fun t => { t with pendingSet := none }).answerAborted r
    | none => s
  let asked := s.clr.flatMap fun c => c.2.asking
  let s := { s with clr := s.clr.map fun (c : Nat × Cl) => (c.1, c.2.mapAsking fun _ => none) }
  asked.foldl State.answerAborted s
/-- WARDEN_TAKEOVER_ACTIVE. -/
def execWardenTakeoverActive (s : State) : Res :=
  whenServing s fun s =>
    match s.hl.takeover with
    | some _ =>
      let a := 1 - s.hl.active
      let s := { s with hl := { s.hl with active := a, heartbeat := s.clk, takeover := none } }
      let s := s.supervisorLost.answerOpen.drain
      s.fireAll 244 Ev.wardenTakeover (BitVec.ofNat 32 (a + 2 * b2n (!s.hl.coreLive (1 - a))))
    | none => s
/-- FAILED_CORE_TEST: the failed core rejoins as standby on the running image, or is fenced. -/
def execFailedCoreTest (ok : Bool) (s : State) : Res :=
  whenServing s fun s =>
    let c := 1 - s.hl.active
    let l := locDev 0x22 c
    if s.hl.takeover.isSome || s.hl.coreLive c || !s.hl.coreLive s.hl.active || s.isFenced 0x22 0 c then s
    else if ok then { s with hl := s.hl.setCore c true }.log l 5 4 1
    else ((s.log l 5 4 2).fence l).reportFence l 1

/-! ## Logs and reports (R623 to R626) -/

/-- LOG_FLUSH: when 512 records wait, else at the end of 10 s. -/
def execLogFlush (s : State) : Res :=
  whenServing s fun s =>
    let s := if 512 ≤ s.ret.logBuf.length then s else s.upToClk (s.hl.lastFlush + ms 10000)
    let l := s.nv.logRing ++ s.ret.logBuf
    { s with
      nv := { s.nv with logRing := l.drop (l.length - 131072) }
      ret := { s.ret with logBuf := [] }
      hl := { s.hl with lastFlush := s.clk } }
/-- Live lanes of a grove, bit i for lane 32g + i. -/
def State.liveLanes (s : State) (g : Nat) : Nat :=
  (List.range 32).foldl (fun m i =>
    m + 2 ^ i * b2n (!s.isFenced 0x09 g (i / 8) && !s.hl.retired.contains (locLeaf g 0x09 (i / 8) (i % 8)))) 0
/-- A unit of a kind with one per scope is live. -/
def State.unitLive (s : State) (kind scope unit : Nat) : Nat := b2n (!s.isFenced kind scope unit)
/-- The record of a grove in HEALTH.GET. -/
def State.groveHealth (s : State) (g : Nat) : List Byte :=
  let fencedIn := s.hl.fenced.any fun f => groveKind f.kind && f.scope == g
  leBytes 1 (if s.groveFailed g then 2 else b2n fencedIn) ++ leBytes 1 (s.live 0x01 g 128).length ++
    leBytes 1 (s.live 0x02 g 8).length ++ leBytes 1 (s.live 0x03 g 32).length ++ leBytes 1 (s.spareBanks g).length ++
    leBytes 1 (s.live 0x05 g 16).length ++ leBytes 1 (if s.hasCipher then (s.live 0x06 g 4).length else 0) ++
    leBytes 1 (s.unitLive 0x07 g 0 + 2 * s.unitLive 0x0A g 0 +
      (if s.clearings = 0 then 0 else 4 * s.unitLive 0x0B g 0 + 8 * s.unitLive 0x0B g 1)) ++
    leBytes 4 (s.liveLanes g) ++ leBytes 4 (s.retiredCells g).length
/-- Live pseudo-channels of an HBM stack. -/
def State.liveChannels (s : State) (stack : Nat) : Nat :=
  if s.isFenced 0x21 0 stack then 0 else 64 - (s.hl.retired.filter fun l => l.kind == 0x21 && l.unit == stack).length
/-- HEALTH.GET (R626). -/
def healthGetBody : Body := fun s r =>
  chk (r.payload.length == 0) St.badArg <|
  chk (s.anyPf2 r.actor) St.notOwner <|
  let d (i : Nat) : Nat := (SMap.getD s.sl.discards i 0).toNat
  done s (leBytes 1 (b2n s.hl.warden0 + 2 * b2n s.hl.warden1 + 4 * s.hl.active) ++ leBytes 1 s.capacity ++ zeros 2 ++
    ([0, 1, 2, 3].flatMap fun i => leBytes 1 (s.liveChannels i)) ++
    leBytes 4 (SMap.getD s.nv.storeCounts 0 0) ++ leBytes 4 (SMap.getD s.nv.storeCounts 1 0) ++
    ([0, 1, 2].flatMap fun i => leBytes 8 (d i)) ++
    leBytes 4 (16 - s.sl.inband.length - b2n s.sl.inbandBusy) ++ leBytes 4 (d 3) ++ s.groveList.flatMap s.groveHealth)
def execHealthGet (s : State) : Res := slaotRow 0x0D01 healthGetBody s
/-- A record of the error log (R623). -/
def LogRec.bytes (x : LogRec) : List Byte :=
  leBytes 8 x.time ++ leBytes 8 x.location.toNat ++ leBytes 2 x.kind ++ leBytes 1 x.severity ++ zeros 1 ++ leBytes 4 x.count ++
    leBytes 4 x.detail.toNat ++ leBytes 4 x.seq.toNat
/-- The records from a SEQ on, counted modulo 2^32 from the oldest kept; a SEQ before the oldest names all. -/
def logFrom (l : List LogRec) (from_ : W32) : List LogRec :=
  match l with
  | [] => []
  | o :: _ =>
    let d := (from_ - o.seq).toNat
    if 2 ^ 31 ≤ d then l else l.filter fun x => d ≤ (x.seq - o.seq).toNat
/-- HEALTH.LOG_READ (R625). -/
def logReadBody : Body := fun s r =>
  chk (r.payload.length == 8 && zeroAt r.payload 4 4) St.badArg <|
  chk (s.anyPf2 r.actor) St.notOwner <|
  let l := (logFrom (s.nv.logRing ++ s.ret.logBuf) (BitVec.ofNat 32 (fld r.payload 0 4))).take 125
  let next := match l.getLast? with | some x => x.seq + 1 | none => s.ret.logSeq
  done s (l.flatMap LogRec.bytes ++ leBytes 4 next.toNat)
def execHealthLogRead (s : State) : Res := slaotRow 0x0D02 logReadBody s

end Sys2Proof.Machine
end

