-- ==== Sys2Proof/Machine/Power.lean ====
section
/-! DEFINITION. Adaptive voltage scaling, power and thermal limits, reference clocks and 1PPS_OUT (02). -/
namespace Sys2Proof.Machine

/-- A state with a change of the pins, rails and clocks. -/
def State.setBoard (s : State) (f : Board → Board) : State := { s with board := f s.board }
/-- The device is powered and its always-on island supervises it. -/
def State.powered (s : State) : Bool := s.boot.phase != .off

/-! ## Adaptive voltage scaling (R40 to R43) -/

/-- The AVS target for the lowest voltage in mV at which a stand meets timing (R40). -/
def avsTargetOf (low : Nat) : Nat := max 550 (min 750 ((low + 25 + 4) / 5 * 5))
/-- VCORE set point and target of a stand. -/
def Board.vcoreOf (b : Board) (i : Nat) : Nat := SMap.getD b.vcore i 750
def Board.target (b : Board) (i : Nat) : Nat := SMap.getD b.avsTarget i 750
/-- AVS_TARGET_COMPUTE: after boot, and 24 h after the last; one voltage for each stand. -/
def execAvsTargetCompute (lowestMv : List Nat) (s : State) : Res :=
  whenRunning s fun s =>
    let s := match s.board.avsLast with | some t => s.upToClk (t + ms 86400000) | none => s
    s.setBoard fun b => { b with
      avsLast := some s.clk
      avsTarget := (List.range 4).foldl (fun m i =>
        match lowestMv[i]? with | some v => SMap.set m i (avsTargetOf v) | none => m) b.avsTarget }
/-- A fault of a regulator: logged and raised (R42, R43). The regulators of VCORE are a stand's, the others the device's. -/
def State.avsFault (s : State) (a : Nat) : State :=
  let l : LocWord := if a < 0x44 then ⟨4, a - 0x40, 0, 0, 0, 0⟩ else ⟨5, 0, 0, 0, 0, 0⟩
  (s.log l 0xD 1 (BitVec.ofNat 32 a)).fireAll 241 Ev.avsFault (BitVec.ofNat 32 a)
/-- One step toward a target: at most 10 mV. -/
def avsNext (v t : Nat) : Nat := if v < t then min t (v + 10) else max t (v - 10)
/-- A transaction succeeds (R42): it is acknowledged, and READ_VOUT is within 1.5 % of the set point. -/
def avsGood (v : Nat) (ack : Bool) (readMv : Nat) : Bool := ack && 1000 * (max v readMv - min v readMv) ≤ 15 * v
/-- AVS_STEP: a transaction with the regulator of a stand; `ack` is its acknowledge and `readMv` READ_VOUT after it. On a
stopped rail it commands nothing, and its success lets AVS go on (R42). -/
def execAvsStep (stand : Nat) (ack : Bool) (readMv : Nat) (s : State) : Res :=
  whenRunning s fun s =>
    let b := s.board
    let v := avsNext (b.vcoreOf stand) (b.target stand)
    if 4 ≤ stand || s.hl.takeover.isSome then s
    else if SMap.getD b.avsStopped stand false then
      if avsGood (b.vcoreOf stand) ack readMv then
        s.setBoard fun b => { b with avsStopped := SMap.del b.avsStopped stand, avsFails := SMap.del b.avsFails stand }
      else s
    else if b.vcoreOf stand = b.target stand then s
    else
      let s := s.upToClk (SMap.getD b.avsStepLast stand 0 + us 50)
      let s := (s.setBoard fun b => { b with avsStepLast := SMap.set b.avsStepLast stand s.clk }).emit (.vout stand v)
      if avsGood v ack readMv then
        s.setBoard fun b => { b with vcore := SMap.set b.vcore stand v, avsFails := SMap.del b.avsFails stand }
      else
        let n := SMap.getD b.avsFails stand 0 + 1
        if n < 3 then s.setBoard fun b => { b with avsFails := SMap.set b.avsFails stand n }
        else (s.setBoard fun b => { b with avsStopped := SMap.set b.avsStopped stand true, avsFails := SMap.del b.avsFails stand }).avsFault
          (0x40 + stand)
/-- The regulators of R36. -/
def regulators : List Nat := [0x40, 0x41, 0x42, 0x43, 0x48, 0x49, 0x4A, 0x4B, 0x4C]
/-- PMB_ALERT: address and STATUS_WORD of each regulator read; any status bit is a fault. -/
def execPmbAlert (status : List (Nat × Nat)) (s : State) : Res :=
  whenServing s fun s =>
    ((status.filter fun x => regulators.contains x.1 && x.2 != 0).map (·.1)).foldl State.avsFault s

/-! ## Power and thermal limits (R45, R46, R57 to R59) -/

/-- Data of EV_POWER_LIMIT (14 R431): whole watts. -/
def powerData (mw : Nat) (start : Bool) : W32 := BitVec.ofNat 32 (65536 * min (mw / 1000) 65535 + b2n start)
/-- Package power of a window: the sum over the rails of R36, by telemetry, or by the estimate where that is missing. -/
def packagePower (rails : List RailPower) : Nat := (rails.map fun r => r.telemetry.getD r.estimate).sum
/-- POWER_WINDOW_END: the rails' power over the window that ends at the next millisecond, in the order of R36. -/
def execPowerWindowEnd (rails : List RailPower) (s : State) : Res :=
  whenRunning s fun s =>
    let mw := packagePower rails
    let s := s.upTo ((s.now / ms 1 + 1) * ms 1)
    let b := s.board
    if 2400000 < mw ∨ b.thermalThrottling = true then
      let s := s.setBoard fun b => { b with throttle := min 4 (b.throttle + 1) }
      if 2400000 < mw ∧ b.powerThrottling = false then
        (s.setBoard fun b => { b with powerThrottling := true }).fireAll 241 Ev.powerLimit (powerData mw true)
      else s
    else if mw ≤ 2300000 then
      let s := s.setBoard fun b => { b with throttle := b.throttle - 1 }
      if b.powerThrottling = true ∧ s.board.throttle = 0 then
        (s.setBoard fun b => { b with powerThrottling := false }).fireAll 241 Ev.powerLimit (powerData mw false)
      else s
    else s
/-- The hottest sensor: its number and reading. -/
def Board.hottest (b : Board) : Nat × Nat := b.sensors.foldl (fun m x => if m.2 < x.2 then x else m) (0, 0)
/-- Data of the thermal events (14 R431). -/
def thermalData (h : Nat × Nat) (start : Bool) : W32 :=
  BitVec.ofNat 32 (2 ^ 31 * b2n start + 2 ^ 28 * (h.1 / 16) + 2 ^ 24 * (h.1 % 16) + min h.2 4095)
/-- The islands stop (R49, R57; 03 R77): all DMA stops, the transmitters are squelched, and the host ports' controllers are
in reset, so that no link is up and no request is answered. -/
def State.quiet (s : State) (p : Phase) : State :=
  { s.setBoard (fun b => { b with squelched := true, dmaStopped := true }) with boot := { s.boot with phase := p }, hp := s.hp.sticky }
/-- 110 °C: THERM_N asserts and every island except the always-on island halts (R57). -/
def State.thermalTrip (s : State) (h : Nat × Nat) : State :=
  let s := s.log ⟨4, h.1 / 16, 0, 0, 0, 0⟩ 0xC 3 (thermalData h false)
  (s.setBoard fun b => { b with therm := true }).quiet .halted |>.emit (.therm true)
/-- What the device does at its hottest reading. -/
def State.thermalAct (s : State) : State :=
  let h := s.board.hottest
  let s := if 1600 ≤ h.2 ∧ s.board.warnArmed = true then
      (s.setBoard fun b => { b with warnArmed := false }).fireAll 241 Ev.thermalWarn (thermalData h false)
    else if h.2 < 1552 then s.setBoard fun b => { b with warnArmed := true } else s
  let s := if 1648 ≤ h.2 ∧ s.board.thermalThrottling = false then
      (s.setBoard fun b => { b with thermalThrottling := true }).fireAll 241 Ev.thermalThrottle (thermalData h true)
    else if h.2 ≤ 1616 ∧ s.board.thermalThrottling = true then
      (s.setBoard fun b => { b with thermalThrottling := false }).fireAll 241 Ev.thermalThrottle (thermalData h false)
    else s
  if 1760 ≤ h.2 then s.thermalTrip h else s
/-- THERM_N of the last trip is released (R58). -/
def State.releaseTherm (s : State) : State := (s.setBoard fun b => { b with therm := false }).emit (.therm false)
/-- THERMAL_SENSOR_READ: a reading in units of 0.0625 °C, while the main rails are up. While THERM_N is asserted the
thresholds find nothing more to do (assumption log 53); in boot it goes once every sensor reads below 95 °C (R58). -/
def execThermalSensorRead (stand sensor reading : Nat) (s : State) : Res :=
  .next (if s.powered = false ∨ 4 ≤ stand ∨ 16 ≤ sensor then s
    else
      let s := s.setBoard fun b => { b with sensors := SMap.set b.sensors (16 * stand + sensor) reading }
      if s.board.therm then
        if s.boot.phase = .booting ∧ s.board.sensors.all (fun x => x.2 < 1520) = true then s.releaseTherm else s
      else s.thermalAct)
/-- The table replicas, the learn engine and the groves of a held stand are lost (21 R616, R619). -/
def State.failStand (s : State) (stand : Nat) : State :=
  let s := [0x10, 0x11, 0x12].foldl (fun s k => s.failUnit (locStand stand k 0) 1) s
  (List.range 4).foldl (fun s i => s.failGrove (4 * stand + i) 4) s
/-- The host links of a held stand go down: their controllers are in reset. -/
def State.dropLinks (s : State) (stand : Nat) : State :=
  ((List.range 4).map (4 * stand + ·)).foldl (fun s p => if (s.port p).up then s.linkLost p 4 else s) s
/-- STAND_SUPPLY_FAULT (R51): the stand's islands are held in reset, its host ports' among them, until PWR_GOOD next rises.
Before boot step 7 what that loses is reported at the step. -/
def execStandSupplyFault (stand : Nat) (s : State) : Res :=
  .next (if s.powered = false ∨ s.boot.phase = .halted ∨ 4 ≤ stand ∨ SMap.getD s.board.standHeld stand false = true then s
    else
      let s := (s.setBoard fun b => { b with standHeld := SMap.set b.standHeld stand true }).dropLinks stand
      if s.running then s.failStand stand else s)

/-! ## Reference clocks (R53 to R55) -/

/-- SYSREF_LOSS. -/
def execSysrefLoss (s : State) : Res :=
  .next (if s.board.sysref = false then s
    else
      let s := s.setBoard fun b => { b with sysref := false, holdover := s.serving }
      if s.serving then s.fireAll 241 Ev.refclkLoss 0x100 else s)
/-- SYSREF_RETURN. -/
def execSysrefReturn (s : State) : Res := .next (s.setBoard fun b => { b with sysref := true, holdover := false })
/-- A grove without ETHREF is reported: KIND, SEVERITY and DETAIL of the record are not stated, and free values. -/
def State.reportEthref (s : State) (grove : Nat) : State :=
  let (k, s) := s.fresh 16
  let (v, s) := s.fresh 8
  let (d, s) := s.fresh 32
  (s.log ⟨3, grove / 4, grove, 0, 0, 0⟩ k.toNat v.toNat d).fireDev grove 5 Ev.refclkLoss (BitVec.ofNat 32 grove)
/-- Every grove that starts without ETHREF is reported (R55). -/
def State.reportEthrefs (s : State) : State :=
  (s.groveList.filter fun g => !SMap.getD s.board.ethref g true).foldl State.reportEthref s
/-- ETHREF_LOSS: a loss before boot step 7 is reported there. -/
def execEthrefLoss (grove : Nat) (s : State) : Res :=
  .next (if s.groves ≤ grove ∨ SMap.getD s.board.ethref grove true = false then s
    else
      let s := s.setBoard fun b => { b with ethref := SMap.set b.ethref grove false }
      if s.running then (s.losePorts grove 0 32 5).reportEthref grove else s)
/-- The moment of the next second boundary of device time. -/
def State.nextSecond (s : State) : Nat :=
  let d := (4000000000 - s.time % 4000000000) % 4000000000
  s.momentOf (s.countAt s.now + Int.ofNat d) 6 s.now
/-- PPS_OUT_PULSE (R63; 20 R604): 1PPS_OUT rises at the next second boundary of device time; the row after that is its
fall, 100 ms later. -/
def execPpsOutPulse (s : State) : Res :=
  whenServing s fun s =>
    match s.tm.ppsStart with
    | some t =>
      let s := (s.upTo (t + ms 100)).tmSet fun x => { x with ppsStart := none }
      (s.setBoard fun b => { b with ppsOut := false }).emit (.pps false)
    | none =>
      let s := s.upTo s.nextSecond
      let s := s.tmSet fun x => { x with ppsStart := some s.now }
      (s.setBoard fun b => { b with ppsOut := true }).emit (.pps true)

end Sys2Proof.Machine
end

