-- ==== Sys2Proof/Machine/Startup.lean ====
section
/-! DEFINITION. Start-up, resets, stored configurations and firmware slots (03; 23 R641 to R643). -/
namespace Sys2Proof.Machine

/-! ## Configuration slots (R84, R87) -/

/-- The bytes of a stored running configuration: which items it holds is stated, their layout is not. Its length is
`RunCfg.size`. -/
opaque cfgBody : RunCfg → List Byte
/-- The MAGIC of a complete slot. -/
def slotMagic : Nat := 0x7739C0F6
/-- A configuration slot, and the state with one replaced. -/
def State.cfgSlot (s : State) (i : Nat) : CfgSlot := SMap.getD s.nv.slots i {}
def State.setCfgSlot (s : State) (i : Nat) (c : CfgSlot) : State :=
  { s with nv := { s.nv with slots := SMap.set s.nv.slots i c } }
/-- Header bits 511:0 of a complete slot. -/
def CfgSlot.header (c : CfgSlot) : List Byte :=
  leBytes 4 slotMagic ++ leBytes 4 c.length ++ leBytes 8 c.generation ++ leBytes 2 c.iface ++ zeros 6 ++ leBytes 8 c.snapshotSeq ++
    zeros 32
/-- DIGEST of a slot. -/
def CfgSlot.digestOf (c : CfgSlot) : BitVec 512 := Config.shake256 (c.header ++ (cfgBody c.body).take c.length)
/-- A slot is valid (R84); `readOk`: it reads without an uncorrectable error. -/
def State.slotValid (s : State) (i : Nat) (readOk : Bool) : Bool :=
  let c := s.cfgSlot i
  readOk && c.magic == slotMagic && c.length ≤ maxCfg && c.iface == ifaceVersion && c.digest == c.digestOf
/-- The newest valid slot. -/
def State.newestSlot (s : State) (ok0 ok1 : Bool) : Option Nat :=
  let v0 := s.slotValid 0 ok0
  let v1 := s.slotValid 1 ok1
  if v0 && v1 then some (if (s.cfgSlot 1).generation ≤ (s.cfgSlot 0).generation then 0 else 1)
  else if v0 then some 0 else if v1 then some 1 else none
/-- A STORE cut off before its last step leaves its slot invalid (R87). -/
def State.cutStore (s : State) (o : LongOp) : State :=
  match o.data with
  | .store i _ _ _ => s.setCfgSlot i { s.cfgSlot i with magic := 0 }
  | _ => s
/-- Every STORE in progress is cut off. -/
def State.cutStores (s : State) : State := s.sl.ops.foldl State.cutStore s

/-! ## Firmware slots (R74) -/

/-- The verification of R74 but for CONFIRMED; the factory image leaves manufacture signed. -/
def State.fwVerifies (s : State) (i : Nat) (readOk : Bool) : Bool :=
  let f := s.fwSlotOf i
  readOk && (f.image.isNone || Config.fnDsaVerify Config.firmwareKey f.bytes) && s.nv.fwFloor ≤ f.version
/-- The boot ROM accepts a slot. -/
def State.fwAccepted (s : State) (m : BootReads) (i : Nat) : Bool :=
  (s.fwSlotOf i).confirmed && s.fwVerifies i (if i = 0 then m.fwA else m.fwB)
/-- The slot tried first: the confirmed one of higher generation, A when they are equal. -/
def State.fwFirst (s : State) : Nat :=
  let a := s.fwSlotOf 0
  let b := s.fwSlotOf 1
  if !a.confirmed then 1 else if !b.confirmed then 0 else if b.generation ≤ a.generation then 0 else 1
/-- The slot booted, and the one that failed before it; none when neither is accepted. -/
def State.fwSelect (s : State) (m : BootReads) : Option (Nat × Option Nat) :=
  let i := s.fwFirst
  if s.fwAccepted m i then some (i, none)
  else if s.fwAccepted m (1 - i) then some (1 - i, some i) else none

/-! ## A start (R65, R76, R82, R83) -/

/-- What the slots answered when they were last read, for a STORE to go by (R84, R87). -/
def State.slotReads (s : State) (i : Nat) : Bool := SMap.getD s.boot.slotOk i true
/-- Objects of VFs pass to PF2 of their port: a start returns configuration space to its reset values, so every VF ceases
(R78; 04 R118). -/
def RunCfg.vfsCeased (c : RunCfg) : RunCfg :=
  { c with owners := c.owners.map fun x => (x.1, if (vfOf x.2).isSome then pf2 (fnPort x.2) else x.2) }
/-- What the running configuration is restored from: the source of EV_CONFIG_RESTORED, its generation, and its items. -/
def State.restoreFrom (s : State) (m : BootReads) (kind : ResetKind) : Nat × Nat × RunCfg :=
  if kind = .factory then (0, 0, {})
  else if kind = .warm ∧ s.board.retainedValid = true ∧ m.retained = true then (1, 0, s.cfg)
  else
    match s.newestSlot m.slot0 m.slot1 with
    | some i => (2 + i, (s.cfgSlot i).generation, (s.cfgSlot i).body)
    | none => (0, 0, {})
/-- Accepted-counter state and GLOBAL_SEQ after a start at which retained RAM is invalid (04 R112, R120); the log buffer
goes only with VAUX (21 R623), and the moment of the last STORE as well. -/
def State.loseRetained (s : State) : State :=
  let counters := (List.range 18).foldl (fun (m : SMap CounterSt) i =>
    let f := SMap.getD s.nv.counterFloors i 0
    SMap.set m i { last := min (f + 1024) (2 ^ 64 - 1) }) []
  { s with ret := { s.ret with counters := counters, seq := s.nv.seqCopy + 2 ^ 20 } }
/-- Slots invalidated by DEVICE.RESET FACTORY. -/
def State.dropSlots (s : State) : State :=
  [0, 1].foldl (fun s i => if (SMap.get s.nv.slots i).isSome then s.setCfgSlot i { s.cfgSlot i with magic := 0 } else s) s
/-- The state in which bulk state is empty or at its reset state (R65): what MRAM, retained RAM, the running configuration
and the always-on island keep is kept. STEPS, PPS_REJECTED and the last 1PPS error of TIME.GET stay, and a verified image
that is staged and not confirmed must be staged again (DESIGN CHOICE, assumption log 54). -/
def State.bare (s : State) : State :=
  let n := s.free
  { pending := s.pending, now := s.now, free := n + 2 ^ 22, out := s.out, variant := s.variant, stepping := s.stepping
    board := { s.board with
      ppsOut := false, throttle := 0, powerThrottling := false, thermalThrottling := false, warnArmed := true
      holdover := false, avsStopped := [], avsFails := [], avsLast := none, avsStepLast := []
      squelched := true, dmaStopped := true }
    boot := s.boot, nv := s.nv, ret := s.ret, cfg := s.cfg
    tm := { s.tm.settle s.now with slew := 0, good := 0, pendingSet := none, ppsStart := none }
    hl := { retired := s.hl.retired.filter (·.kind == 0x08), heartbeat := s.clk, lastFlush := s.clk }
    cn := { start := s.now }, hp := s.hp.sticky
    tb := {
      host := { seed0 := Config.randomDraw 32 n, seed1 := Config.randomDraw 32 (n + 1), sweptAt := s.now }
      flow := { seed0 := Config.randomDraw 32 (n + 2), seed1 := Config.randomDraw 32 (n + 3), sweptAt := s.now } }
    ra := { draw := n + 2 ^ 20 }, ci := { draw := n + 2 ^ 21 } }
/-- A clearing whose zeroization at the start does not verify is quarantined (R69; 18 R538). -/
def State.quarantineStart (s : State) (c : Nat) : State :=
  if c < s.clearings then (s.setCl c { s.clearing c with state := 6 }).fireCl c Ev.clearingZeroizeFail (BitVec.ofNat 32 c) else s
/-- The running configuration takes effect on the empty bulk state: parse programs, engine modes, rented clearings, the
management marking of host ports. -/
def State.applyCfg (s : State) : State :=
  let parsers := s.cfg.programs.map fun (x : Nat × Program) => (x.1, ({ bank0 := some x.2.words } : Parser))
  let engines := if s.hasCipher then
      (List.range (4 * s.groves)).map fun i =>
        (i, ({ suspendable := decide (i % 4 < SMap.getD s.cfg.suspendable (i / 4) 2) } : Engine))
    else []
  let rented := s.cfg.rentals.map fun (x : Nat × Rental) =>
    let p := s.period x.1 * 4000000000
    (x.1, ({ state := 2, usage := some { start := s.time / p * p }, countedTo := s.now } : Cl))
  let ports := s.groveList.map fun p => (p, ({ mgmtActive := (SMap.getD s.cfg.hosts p {}).mgmt } : HostPort))
  { s with
    ps := { s.ps with groves := parsers }
    ci := { s.ci with engines := engines }
    clr := rented
    hp := { s.hp with ports := ports } }
/-- Device time after a start (20 R605): HOLDOVER, or FREE as before. -/
def State.resumeTime (s : State) : State := if s.tm.state = 0 then s else s.timeState 3
/-- The boot ROM's choice of image. -/
def State.bootImage (s : State) (m : BootReads) : State :=
  match s.fwSelect m with
  | some (i, failed) =>
    let s := { s with boot := { s.boot with fallback := failed, noFirmware := false } }
    s.startImage i
  | none => { s with boot := { s.boot with fallback := none, noFirmware := true } }
/-- THERM_N of the last trip goes when the boot ROM finds every sensor below 95 °C (02 R58): the readings of the trip are
no longer true. -/
def State.coolStart (s : State) (cool : Bool) : State :=
  if s.board.therm = true ∧ cool = true then (s.setBoard fun b => { b with sensors := [] }).releaseTherm else s
/-- A start of the device up to the end of the restoration; BOOT_COMPLETE is its step 7. Where retained RAM is not valid,
VCORE set points and AVS targets are back at 0.75 V, without a command to the regulators (assumption log 54). -/
def State.restart (s : State) (m : BootReads) (kind : ResetKind) : State :=
  let s := s.cutStores
  let valid := kind == .warm && s.board.retainedValid && m.retained
  let (source, gen, cfg) := s.restoreFrom m kind
  let s := if kind = .factory then s.dropSlots else s
  let s := if valid then s else s.loseRetained
  let s := if valid then s else s.setBoard fun b => { b with vcore := [], avsTarget := [] }
  let s := { s.bare with
    cfg := cfg.vfsCeased
    boot := { s.boot with
      phase := .booting, nextStart := .warm, source := source, restoredGen := gen, resetAt := none, activating := false
      slotOk := [(0, m.slot0), (1, m.slot1)] } }
  let s := s.setBoard fun b => { b with
    retainedValid := true, ethref := (s.groveList.filter m.ethrefAbsent.contains).map fun g => (g, false) }
  let s := ((s.coolStart m.sensorsCool).applyCfg.bootImage m).resumeTime
  m.zeroizeFailed.foldl State.quarantineStart s

/-! ## Power and reset pins (02 R47 to R50, R63; 03 R76 to R78) -/

/-- COLD_POWER_UP: retained RAM holds nothing valid and device time starts at 0 in state FREE (20 R605). -/
def execColdPowerUp (s : State) : Res :=
  .next (if s.board.vaux then s
    else
      let s := { s.quiet .off with ret := {}, hp := {}, tm := { base := - Int.ofNat s.now } }
      { s with
        board := { s.board with vaux := true, retainedValid := false, vcore := [], avsTarget := [] }
        boot := { s.boot with nextStart := .cold } })
/-- VAUX_LOSS: the records not yet in MRAM go with it (21 R623). -/
def execVauxLoss (s : State) : Res :=
  .next (if s.board.vaux = false then s
    else
      let next := match s.nv.logRing.getLast? with | some x => x.seq + 1 | none => 1
      let s := { s.cutStores.quiet .off with ret := { logSeq := next }, hp := {} }
      let s := if s.board.therm then s.emit (.therm false) else s
      { s with
        sl := {}
        board := { s.board with
          vaux := false, pwrGood := false, retainedValid := false, therm := false, wake := [] }
        boot := { s.boot with nextStart := .cold, resetAt := none } })
/-- PWR_GOOD_RISE: the rails have come up anew, so VCORE stands at 0.75 V and no stand is held; SYS_RST_N low holds the
start back. -/
def execPwrGoodRise (m : BootReads) (s : State) : Res :=
  .next (if s.board.vaux = false ∨ s.board.pwrGood = true then s
    else
      let s := s.setBoard fun b => { b with pwrGood := true, vcore := [], standHeld := [] }
      if s.board.sysRstN then s.restart m (if s.board.retainedValid then .warm else .cold) else s.quiet .held)
/-- PWR_GOOD_FALL (02 R49): a STORE in progress is cut off. -/
def execPwrGoodFall (s : State) : Res :=
  .next (if s.board.pwrGood = false then s
    else
      let s := (s.cutStores.quiet .off).setBoard fun b => { b with pwrGood := false }
      { s with sl := {} })
/-- SYS_RST_ASSERT (R77): a halted device stays halted until PWR_GOOD falls (02 R57 to R59). -/
def execSysRstAssert (s : State) : Res :=
  let s := s.setBoard fun b => { b with sysRstN := false }
  .next (if s.boot.phase = .off ∨ s.boot.phase = .halted ∨ s.boot.phase = .held then s
    else { s.cutStores.quiet .held with sl := {} })
/-- SYS_RST_RELEASE. -/
def execSysRstRelease (m : BootReads) (s : State) : Res :=
  let s := s.setBoard fun b => { b with sysRstN := true }
  .next (if s.boot.phase = .held then s.restart m (if s.board.retainedValid then .warm else .cold) else s)
/-- PERST_ASSERT (R78): REASON 1 when a link was up. -/
def execPerstAssert (p : Nat) (s : State) : Res :=
  .next (if s.groves ≤ p ∨ SMap.getD s.board.perstN p false = false then s
    else
      let s := s.setBoard fun b => { b with perstN := SMap.set b.perstN p false }
      if (s.port p).up then s.linkLost p 1 else s.resetPort p)
/-- WAKE_N of a port is low no longer (12 R377). -/
def State.releaseWake (s : State) (p : Nat) : State :=
  if SMap.getD s.board.wake p false then (s.setBoard fun b => { b with wake := SMap.set b.wake p false }).emit (.wake p false)
  else s
/-- PERST_RELEASE (R73): WAKE_N goes (12 R377), and the link trains, at a rate and width of R350 and R352. -/
def execPerstRelease (p rate : Nat) (form : LinkForm) (s : State) : Res :=
  let link : HostLink := ⟨form, rate⟩
  .next (if s.groves ≤ p ∨ SMap.getD s.board.perstN p false = true then s
    else
      let s := (s.setBoard fun b => { b with perstN := SMap.set b.perstN p true }).releaseWake p
      if (s.serving = true ∨ s.boot.phase = .booting) ∧ linkForm link = true then s.linkRaise p link else s)

/-! ## Step 7 (R70 to R75) -/

/-- Each host port hands over to the full endpoint. -/
def State.handOver (s : State) : State :=
  { s with hp := { s.hp with ports := s.hp.ports.map fun (x : Nat × HostPort) =>
      (x.1, { x.2 with full := x.2.up, lastTraffic := s.clk }) } }
/-- The data of EV_CONFIG_RESTORED. -/
def State.restoredData (s : State) : W32 :=
  BitVec.ofNat 32 (s.boot.source + if s.boot.source ≤ 1 then 0 else 16 * (s.boot.restoredGen % 2 ^ 28))
/-- The second choice of firmware is reported. -/
def State.reportFallback (s : State) : State :=
  match s.boot.fallback with
  | some f => (s.log ⟨5, 0, 0, 0, 0, 0⟩ 0xE 1 (BitVec.ofNat 32 f)).fireAll 242 Ev.bootSlotFallback (BitVec.ofNat 32 f)
  | none => s
/-- The Ethernet ports the running configuration enables begin lane training. -/
def State.trainAll (s : State) : State :=
  ((s.cfg.ports.filter fun (x : Nat × PortCfg) => x.2.enable && s.isPort x.1).map (·.1)).foldl State.startTraining s
/-- A start may complete: SYSREF is present, and a THERM_N held since before is released (02 R53, R58). -/
def State.bootReady (s : State) : Bool :=
  s.boot.phase == .booting && s.board.sysref && s.board.pwrGood && s.board.sysRstN && !s.board.therm
/-- What the stands held during the boot lose (02 R51). -/
def State.failStands (s : State) : State :=
  ((List.range 4).filter fun i => SMap.getD s.board.standHeld i false).foldl State.failStand s
/-- BOOT_COMPLETE: the groves of held stands, and those without ETHREF, are reported as they are (02 R51, R55). -/
def execBootComplete (s : State) : Res :=
  .next (if s.bootReady then
      let s := s.setBoard fun b => { b with squelched := false, dmaStopped := false }
      let s := { s with boot := { s.boot with phase := if s.boot.noFirmware then .recovery else .running } }.handOver
      if s.boot.noFirmware then s
      else (s.failStands.trainAll.reportEthrefs.fireAll 242 Ev.configRestored s.restoredData).reportFallback
    else s)

/-! ## DEVICE.RESET and the double failure of the wardens (R79; 21 R622) -/

/-- The gate of DEVICE.STORE, RESET and UPDATE (23 R641). -/
def deviceGate (f : Nat) : Bool := f == operator || f == pf2 0
/-- DEVICE.STORE or DEVICE.UPDATE is in progress. -/
def State.storingOrUpdating (s : State) : Bool := s.sl.ops.any fun o => match o.data with
  | .store .. | .verify .. | .activate .. => true
  | _ => false
/-- DEVICE.RESET. -/
def resetBody : Body := fun s r =>
  let v := fld r.payload 0 1
  chk (r.payload.length == 1 && v ≤ 2) St.badArg <|
  chk (deviceGate r.actor) St.notOwner <|
  chk (!s.storingOrUpdating) St.busy <|
  done { s with boot := { s.boot with
    resetAt := some (s.clk + ms 1, if v = 0 then .warm else if v = 1 then .cold else .factory) } }
def execDeviceReset (s : State) : Res := slaotRow 0x0104 resetBody s
/-- DEVICE_RESET_EXPIRY. -/
def execDeviceResetExpiry (m : BootReads) (s : State) : Res :=
  whenServing s fun s =>
    match s.boot.resetAt with
    | some (t, k) => (s.upToClk t).restart m k
    | none => s
/-- WARDEN_DOUBLE_FAILURE: a system reset 1 s after the last core was declared failed. -/
def execWardenDoubleFailure (m : BootReads) (s : State) : Res :=
  whenServing s fun s =>
    if s.hl.warden0 || s.hl.warden1 then s else (s.upToClk (s.hl.heartbeat + ms 1001)).restart m .warm

/-! ## DEVICE.STORE (R86 to R89) -/

/-- A count at which a slot is stored to no more. -/
def slotWorn : Nat := 990000
/-- The slot a STORE writes: the one without the newest valid generation, but never one that turned a store away. -/
def State.storeTarget (s : State) : Nat :=
  let i := match s.newestSlot (s.slotReads 0) (s.slotReads 1) with | some n => 1 - n | none => 0
  if s.nv.storeBarred.contains i && !s.nv.storeBarred.contains (1 - i) then 1 - i else i
/-- The generation a STORE writes. -/
def State.storeGen (s : State) : Nat :=
  match s.newestSlot (s.slotReads 0) (s.slotReads 1) with | some n => (s.cfgSlot n).generation + 1 | none => 1
/-- DEVICE.STORE. -/
def storeBody : Body := fun s r =>
  let i := s.storeTarget
  chk (r.payload.length == 0) St.badArg <|
  chk (deviceGate r.actor) St.notOwner <|
  chk (!(s.ret.lastStore.any fun t => s.clk < t + ms 10000) &&
    !s.sl.ops.any fun o => match o.data with | .store .. => true | _ => false) St.busy <|
  if slotWorn ≤ SMap.getD s.nv.storeCounts i 0 then
    .ok ⟨{ s with nv := { s.nv with storeBarred := i :: s.nv.storeBarred.filter (· != i) } }, some ⟨St.noSpace, [], 0⟩⟩
  else
    startOp { s with ret := { s.ret with lastStore := some s.clk } } r 5 (.store i s.cfg r.seq s.storeGen)
def execDeviceStore (s : State) : Res := slaotRow 0x0103 storeBody s
/-- Step 1 of a STORE: MAGIC is zero, and the slot's count rises. -/
def State.storeBegin (s : State) (i : Nat) : State :=
  let n := SMap.getD s.nv.storeCounts i 0 + 1
  let s := s.setCfgSlot i { s.cfgSlot i with magic := 0 }
  let s := { s with nv := { s.nv with storeCounts := SMap.set s.nv.storeCounts i n } }
  if n = 900000 then s.fireAll 242 Ev.mramWear (BitVec.ofNat 32 i) else s
/-- STORE_STEP: MAGIC zero, body, header, DIGEST, MAGIC, one a step (R87). -/
def execStoreStep (h : Nat) (s : State) : Res :=
  whenServing s (opRow h State.cutStore fun s o =>
    match o.data with
    | .store i snap seq gen =>
      let s := s.setOp o
      let c := s.cfgSlot i
      match o.stepsDone with
      | 1 => s.storeBegin i
      | 2 => s.setCfgSlot i { c with body := snap }
      | 3 => s.setCfgSlot i { c with
          length := snap.size, generation := gen, iface := ifaceVersion, snapshotSeq := seq }
      | 4 => s.setCfgSlot i { c with digest := c.digestOf }
      | _ =>
        let s := { s with boot := { s.boot with slotOk := SMap.set s.boot.slotOk i true } }
        (s.setCfgSlot i { c with magic := slotMagic }).endOp o St.ok
    | _ => s)

/-! ## DEVICE.UPDATE (R90 to R93; 23 R643) -/

/-- The slot STAGE writes. -/
def State.stageSlot (s : State) : Nat :=
  if s.boot.phase = .recovery then
    if (s.fwSlotOf 0).generation ≤ (s.fwSlotOf 1).generation then 0 else 1
  else 1 - s.boot.fwSlot
/-- A firmware slot replaced. -/
def State.setFw (s : State) (i : Nat) (f : FwSlot) : State := { s with nv := { s.nv with fw := SMap.set s.nv.fw i f } }
/-- The bytes of a slot as a store. -/
def FwSlot.store (f : FwSlot) : SMap Byte := f.image.getD (putBytes [] 0 Config.factoryImage)
/-- A staging sequence ends: its verification, if one runs, is aborted. -/
def State.endStaging (s : State) : State :=
  let l := s.sl.ops.filter fun o => match o.data with | .verify _ => true | _ => false
  let s := l.foldl (fun s o => s.endOp o St.aborted) s
  { s with sl := { s.sl with staging := none } }
/-- The bytes of a STAGE are in the slot. -/
def State.stageWrite (s : State) (i mb : Nat) (clear : Bool) (off : Nat) (b : List Byte) : State :=
  let s := if clear then s.endStaging else s
  let f := s.fwSlotOf i
  let f : FwSlot := if clear then { generation := 0, confirmed := false, image := some [] } else { f with confirmed := false }
  let s := s.setFw i { f with image := some (putBytes f.store off b) }
  { s with sl := { s.sl with staging := some (i, mb), stagedOk := if s.sl.stagedOk = some i then none else s.sl.stagedOk } }
/-- DEVICE.UPDATE STAGE, and every MODE that is not ACTIVATE. -/
def stageBody : Body := fun s r =>
  let p := r.payload
  let flags := fld p 1 1
  let n := fld p 2 2
  let off := fld p 4 4
  let clear := bit flags 0
  chk (p.length == 8 + n && fld p 0 1 == 0 && flags ≤ 3 && 1 ≤ n && n ≤ 4000 && off + n ≤ 16777216) St.badArg <|
  chk (deviceGate r.actor) St.notOwner <|
  chk (s.sl.staging.all fun x => x.2 == r.mb || (clear && r.actor == operator)) St.busy <|
  let i := s.stageSlot
  let s := s.stageWrite i r.mb clear off (p.drop 8)
  if bit flags 1 then startOp s r 1 (.verify i) else done s
/-- DEVICE_UPDATE_STAGE. -/
def execDeviceUpdateStage (s : State) : Res :=
  requestRow (fun r => r.opcode == 0x0105 && fld r.payload 0 1 != 1) stageBody s
/-- An image is confirmed with a generation one above the other slot's (R75, R91). -/
def State.confirmFw (s : State) (i : Nat) : State :=
  s.setFw i { s.fwSlotOf i with confirmed := true, generation := (s.fwSlotOf (1 - i)).generation + 1 }
/-- STAGE_VERIFY_END: verified as in R74; in recovery mode a verified image is confirmed at once. -/
def execStageVerifyEnd (h : Nat) (readOk : Bool) (s : State) : Res :=
  let drop (s : State) : State := { s with sl := { s.sl with staging := none } }
  whenServing s (opRow h (fun s _ => drop s) fun s o =>
    match o.data with
    | .verify i =>
      let s := drop s
      if s.fwVerifies i readOk then
        let s := if s.boot.phase = .recovery then s.confirmFw i else { s with sl := { s.sl with stagedOk := some i } }
        s.endOp o St.ok
      else s.endOp o St.badAuth
    | _ => s)
/-- DEVICE.UPDATE ACTIVATE: the standby core takes over supervision. Of the rows of R91's table the operation counts as
steps those that ACTIVATION_STEP runs, 3 and 4 (assumption log 54). -/
def activateBody : Body := fun s r =>
  let p := r.payload
  chk (p.length == 8 && fld p 0 1 == 1 && zeroAt p 1 7) St.badArg <|
  chk (deviceGate r.actor) St.notOwner <|
  match s.sl.stagedOk with
  | some i =>
    chk (s.sl.ops.isEmpty && s.sl.staging.isNone && s.hl.warden0 && s.hl.warden1) St.busy <|
    let s := { s with
      boot := { s.boot with activating := true }
      hl := { s.hl with active := 1 - s.hl.active, heartbeat := s.clk } }
    startOp s r 2 (.activate i s.clk)
  | none => .error St.busy
def execDeviceUpdateActivate (s : State) : Res :=
  requestRow (fun r => r.opcode == 0x0105 && fld r.payload 0 1 == 1) activateBody s
/-- A warden restart loses the staging areas and build records that Slaot holds (06 R182; 07 R205, R223). -/
def State.loseStaging (s : State) : State :=
  { s with ps := { s.ps with staging := [] }, cl := { s.cl with staging := [], builds := [] } }
/-- ACTIVATION_STEP: the reloaded core becomes active on the staged image, within 2 s and when that verifies (R93); then
the other is standby on it, and the slot is confirmed. -/
def execActivationStep (h : Nat) (s : State) : Res :=
  whenServing s (opRow h (fun s _ => s) fun s o =>
    match o.data with
    | .activate i t0 =>
      if o.stepsDone = 1 then
        if t0 + ms 2000 < s.clk ∨ s.fwVerifies i true = false then s
        else
          ({ s.setOp o with hl := { s.hl with active := 1 - s.hl.active, heartbeat := s.clk } }.startImage i).loseStaging
      else
        let s := s.setOp o
        let s := s.confirmFw i
        let s := { s with
          boot := { s.boot with activating := false, fwGen := (s.fwSlotOf i).generation }
          sl := { s.sl with stagedOk := none } }
        s.endOp o St.ok
    | _ => s)
/-- ACTIVATION_TIMEOUT (R93): before the roles have swapped, the core that supervises stays active on the old image: at
once when the staged slot, as it reads, fails its verification, else 2 s after the acceptance. -/
def execActivationTimeout (r : StagedRead) (s : State) : Res :=
  whenServing s fun s =>
    match s.op r.h with
    | some o =>
      match o.data with
      | .activate i t0 =>
        if o.stepsDone = 0 ∧ s.slaotUp = true then
          (if s.fwVerifies i r.readOk then s.upToClk (t0 + ms 2000) else s).endActivation
        else s
      | _ => s
    | none => s

end Sys2Proof.Machine
end

