-- ==== Sys2Proof/Machine/Bar.lean ====
section
/-! DEFINITION. Host memory requests to the BARs (12 R356 to R358): what each offset holds, the firebreak of its block, the
access rules, and the counters window (21 R628). -/
namespace Sys2Proof.Machine

/-! ## What an offset of BAR0 holds -/

/-- A place in BAR0 of a function, with the offset within it. -/
inductive Place where
  | mailbox (p off : Nat)
  | tables (p off : Nat)
  | eqBlock (e off : Nat)
  | qpBlock (q off : Nat)
  | counters (off : Nat)
  | doorbell (slot off : Nat)
  | nvme (page off : Nat)
  | eqSlot (slot off : Nat)
  | control (c off : Nat)
  | unmapped
  deriving DecidableEq, Repr

/-- PF2 BAR0 (R357); in recovery mode it holds the mailbox alone (03 R75). -/
def State.placePf2 (s : State) (p off : Nat) : Place :=
  if off < 0x3000 then .mailbox p off
  else if s.boot.phase = .recovery then .unmapped
  else if 0x100000 ≤ off ∧ off < 0x100280 then .tables p (off - 0x100000)
  else if 0x200000 ≤ off ∧ off < 0x204000 then .eqBlock (256 * p + (off - 0x200000) / 64) (off % 64)
  else if 0x400000 ≤ off ∧ off < 0xC00000 then .qpBlock (4096 * p + (off - 0x400000) / 2048) (off % 2048)
  else if 0x1000000 ≤ off ∧ off < 0x4000000 then .counters (off - 0x1000000)
  else .unmapped
/-- The control window of a running clearing that a function owns (18 R557). -/
def State.placeControl (s : State) (f base off : Nat) : Place :=
  let c := 2 * fnPort f + (off - base) / 0x10000
  if base ≤ off ∧ off < base + 0x20000 ∧ c < s.clearings ∧ (s.clearing c).state = 4 ∧ s.owner 4 c = f then
    .control c (off % 0x10000)
  else .unmapped
/-- BAR0 of PF0, PF1 and VFs (R356). -/
def State.placeFn (s : State) (f off : Nat) : Place :=
  let pg := off / 0x1000
  let o := off % 0x1000
  let (bells, slots, windows) := if (vfOf f).isSome then (0x40000, 0x44000, 0x60000) else (0x1000000, 0x1100000, 0x1800000)
  if off < bells then if nvmePage f pg then .nvme pg o else .doorbell pg o
  else if off < slots then .eqSlot ((off - bells) / 0x1000) o
  else s.placeControl f windows off
/-- The place of an offset. -/
def State.placeOf (s : State) (f off : Nat) : Place :=
  if fnLocal f = 2 then s.placePf2 (fnPort f) off else s.placeFn f off
/-- The target block of a place and the address its firebreak checks (19 R572). -/
def Place.target (pl : Place) (f off : Nat) : Option (Nat × Nat) :=
  match pl with
  | .mailbox .. => some (0x0100 + fnPort f, off)
  | .tables .. => some (0x0200 + fnPort f, off)
  | .eqBlock .. | .eqSlot .. => some (0x0300 + fnPort f, off)
  | .qpBlock .. | .doorbell .. | .nvme .. => some (0x0400 + fnPort f, off)
  | .counters .. => some (0x0500 + fnPort f, off)
  | .control c o => some (0x0700 + c, o)
  | .unmapped => none

/-! ## What the registers read -/

/-- The six registers of a doorbell page (13 R390). -/
def State.doorbellRegs (s : State) (q : Nat) : List Byte :=
  let x := s.qpOf q
  leBytes 8 x.workPi.toNat ++ leBytes 8 x.cplCi.toNat ++ zeros 8 ++ leBytes 8 (s.qpStatus q) ++
    leBytes 4 x.workCi.toNat ++ leBytes 4 x.cplDone.toNat ++ leBytes 8 x.cplReserved.toNat
/-- The control block of a queue pair: the mirror, the QP_SET record, the counters of 13 R412. -/
def State.controlBlock (s : State) (q : Nat) : List Byte :=
  fixed 0x40 (s.doorbellRegs q) ++ fixed 0xC0 ((s.qpOf q).set.record q) ++ ctrBytes (s.qpOf q).ctrs 15
/-- MB_STATUS (04 R97). -/
def State.mbStatus (s : State) (p : Nat) : Nat :=
  let m := s.mbx p
  b2n m.busy + 2 * b2n m.respValid + 4 * b2n m.submitLost + 8 * b2n m.writeLost + 16 * b2n (s.boot.phase == .recovery) +
    32 * b2n (SMap.get s.cfg.pins p).isSome
/-- The mailbox registers from 0x2000 on. -/
def State.mbRegs (s : State) (p : Nat) : List Byte :=
  zeros 4 ++ leBytes 4 (s.mbStatus p) ++ leBytes 4 (b2n (s.mbx p).respEvent)
/-- TBL_CMD, TBL_STATUS and TBL_INFO of a register set (08 R239 to R241). -/
def TblSet.regs (x : TblSet) : List Byte := leBytes 4 x.cmd.toNat ++ leBytes 4 x.statusWord ++ leBytes 4 x.info.toNat
/-- The table command register sets of a port. -/
def State.tableRegs (s : State) (p : Nat) : List Byte :=
  ((List.range 8).flatMap fun i => leBytes 64 (s.tblSet (8 * p + i)).data.toNat) ++
    (List.range 8).flatMap fun i => fixed 16 (s.tblSet (8 * p + i)).regs
/-- A counter of a list in a block of counters. -/
def ctrAt (c : Ctrs) (n i : Nat) : Nat := if i < n then (SMap.getD c i 0).toNat else 0
/-- A counter of a grove's block by its offset (R628). -/
def State.groveCtr (s : State) (g off : Nat) : Nat :=
  let i := off % 0x100 / 8
  if off < 0x2000 then ctrAt (s.eth (32 * g + off / 0x100)).ctrs 32 i
  else if 0x100000 ≤ off then (SMap.getD (s.classifier g).actionCtrs ((off - 0x100000) / 8) 0).toNat
  else if 0x80000 ≤ off then ctrAt (s.qpOf (4096 * g + (off - 0x80000) / 0x80)).ctrs 15 (off % 0x80 / 8)
  else
    match off / 0x100 with
    | 0x20 => ctrAt (s.parser g).ctrs 14 i
    | 0x21 => ctrAt (s.classifier g).ctrs 12 i
    | 0x22 => fld (s.sliceCtrs g) (8 * i) 8
    | 0x23 => ctrAt (SMap.getD s.cn.ctrs g []) 13 i
    | 0x24 => ctrAt (SMap.getD s.ci.ctrs g []) 16 i
    | 0x25 => ctrAt (SMap.getD s.ra.ctrs g []) 22 i
    | 0x26 => ctrAt (s.svc g).ctrs 12 i
    | 0x27 => ctrAt (s.port g).ctrs 19 i
    | 0x28 => ctrAt (s.clearing (2 * g)).ctrs 21 i
    | 0x29 => ctrAt (s.clearing (2 * g + 1)).ctrs 21 i
    | 0x30 => ctrAt (SMap.getD s.hl.ctrs g []) 5 i
    | _ => 0
/-- A counter of the device block: a mirror session's are summed over the slices that copy for it (11 R345). -/
def State.deviceCtr (s : State) (off : Nat) : Nat :=
  if off < 0x100 then ctrAt (s.tbl 0).ctrs 21 (off / 8)
  else if off < 0x200 then ctrAt (s.tbl 1).ctrs 21 (off % 0x100 / 8)
  else if 0x10000 ≤ off then ctrAt (s.eq ((off - 0x10000) / 0x40)).ctrs 8 (off % 0x40 / 8)
  else
    let n := (off - 0x200) / 0x10
    (s.cn.slices.map fun (x : Nat × Slice) => SMap.getD (if off % 0x10 = 0 then x.2.copies else x.2.drops) n 0).sum
/-- A counter of the window; what the variant does not have reads zero. -/
def State.windowCtr (s : State) (off : Nat) : Nat :=
  if off < 0x2000000 then if off / 0x200000 < s.groves then s.groveCtr (off / 0x200000) (off % 0x200000) else 0
  else s.deviceCtr (off - 0x2000000)
/-- The event queue bound to an event slot of a function. -/
def State.slotEq (s : State) (f slot : Nat) : Option Nat := (s.eqsOf f).find? fun e => (s.eq e).slot == slot && e / 256 == fnPort f

/-- A naturally aligned access of 4 or 8 bytes. -/
def regForm (off len : Nat) : Bool := (len == 4 || len == 8) && off % len == 0
/-- The bytes a read of a place answers (R358): zero where it performs nothing. -/
def State.readPlace (s : State) (f : Nat) (pl : Place) (len : Nat) : List Byte :=
  let reg (off : Nat) (b : List Byte) : List Byte := if regForm off len then fixed len (b.drop off) else zeros len
  match pl with
  | .mailbox p off =>
    if off < 0x1000 then if blockForm off len then getBytes (s.mbx p).req off len else zeros len
    else if off < 0x2000 then if blockForm off len then fixed len ((s.mbx p).resp.drop (off - 0x1000)) else zeros len
    else reg (off - 0x2000) (s.mbRegs p)
  | .tables p off =>
    if off < 0x200 ∧ blockForm off len = true then fixed len ((s.tableRegs p).drop off) else reg off (s.tableRegs p)
  | .eqBlock e off => reg off (s.eqRegs e)
  | .qpBlock q off => reg off (s.controlBlock q)
  | .counters off => if len = 8 ∧ off % 8 = 0 then leBytes 8 (s.windowCtr off) else zeros len
  | .doorbell slot off => match s.slotQp f slot with | some q => reg off (s.doorbellRegs q) | none => zeros len
  | .eqSlot slot off => match s.slotEq f slot with | some e => reg off (s.eqRegs e) | none => zeros len
  | .nvme page off =>
    if page = 0 ∧ regForm off len = true then
      fixed len (leBytes 4 (s.nvReg f (off / 4 * 4)) ++ leBytes 4 (s.nvReg f (off / 4 * 4 + 4)))
    else zeros len
  | .control .. | .unmapped => zeros len

/-! ## What the registers take -/

/-- The 32-bit words of a write with their offsets. -/
def words (off : Nat) (b : List Byte) : List (Nat × Nat) :=
  if b.length = 8 then [(off, fld b 0 4), (off + 4, fld b 4 4)] else [(off, fld b 0 4)]
/-- A word of the mailbox registers. -/
def State.mbWord (s : State) (p off v : Nat) : State :=
  match off with
  | 0x2000 => if bit v 0 then s.submit p else s
  | 0x2004 => s.clearMbStatus p (BitVec.ofNat 32 v)
  | 0x2008 => s.setMbx p { s.mbx p with respEvent := bit v 0 }
  | _ => s
/-- A word of the table command registers. -/
def State.tblWord (s : State) (p off v : Nat) : State :=
  let src := 8 * p + (off - 0x200) / 16
  match off % 16 with
  | 0 => s.tblStart src (BitVec.ofNat 32 v)
  | 4 => s.tblStatusAck src (BitVec.ofNat 32 v)
  | _ => s
/-- A word of a doorbell page. -/
def State.bellWord (s : State) (q off v : Nat) : State :=
  match off with
  | 0x00 => s.workPiWrite q (BitVec.ofNat 32 v)
  | 0x08 => s.cplCiWrite q (BitVec.ofNat 32 v)
  | 0x10 => s.qpCtrl q (v % 4)
  | _ => s
/-- A word of an event queue's block. -/
def State.eqWord (s : State) (e off v : Nat) : State :=
  match off with
  | 0x00 => s.eqCi e (BitVec.ofNat 32 v)
  | 0x08 => s.eqCmd e (v % 4)
  | _ => s
/-- A word of a page of an emulated NVMe controller: its registers, then the doorbells (15 R461). -/
def State.nvWord (s : State) (f page off v : Nat) : State :=
  if page = 0 then s.nvRegWrite f off v
  else if off ≠ 0 then s
  else if page % 2 = 1 then s.nvSqTail f ((page - 1) / 2) (v % 65536)
  else s.nvCqHead f ((page - 2) / 2) (v % 65536)
/-- A write that performs nothing. -/
def State.badWrite (s : State) (f : Nat) : State := s.hostCtr (fnPort f) 13
/-- A write of a place (R358). -/
def State.writePlace (s : State) (f : Nat) (pl : Place) (b : List Byte) : State :=
  let n := b.length
  let each (s : State) (off : Nat) (k : State → Nat → Nat → State) : State :=
    if regForm off n then (words off b).foldl (fun s x => k s x.1 x.2) s else s.badWrite f
  match pl with
  | .mailbox p off =>
    if off < 0x1000 then if blockForm off n then s.putRequest p off b else s.badWrite f
    else if off < 0x2000 ∨ 0x200C ≤ off then s.badWrite f
    else each s off fun s o v => s.mbWord p o v
  | .tables p off =>
    if off < 0x200 then if blockForm off n then s.tblPut (8 * p + off / 64) (off % 64) b else s.badWrite f
    else each s off fun s o v => s.tblWord p o v
  | .eqBlock e off =>
    if s.owner 3 e = f then each s off fun s o v => s.eqWord e o v else s.hostCtr (fnPort f) 12
  | .qpBlock _ off => if regForm off n then s else s.badWrite f
  | .counters off => if regForm off n then s else s.badWrite f
  | .doorbell slot off =>
    match s.slotQp f slot with
    | some q => if off < 0x30 then each s off fun s o v => s.bellWord q o v else s.badWrite f
    | none => s.hostCtr (fnPort f) 12
  | .eqSlot slot off =>
    match s.slotEq f slot with
    | some e => if off < 0x40 then each s off fun s o v => s.eqWord e o v else s.badWrite f
    | none => s.hostCtr (fnPort f) 12
  | .nvme page off => each s off fun s o v => s.nvWord f page o v
  | .control c off =>
    if regForm off n then
      let o := off % 8
      (s.ctlPush c { write := true, off := off, data := BitVec.ofNat 64 (leNat b * 2 ^ (8 * o)),
                     be := BitVec.ofNat 8 ((2 ^ n - 1) * 2 ^ o) }).ctlServeAll c
    else s.badWrite f
  | .unmapped => s.badWrite f

/-! ## BAR2 (R362) -/

/-- An MSI-X table entry; one never written is masked. -/
def State.msixEntry (s : State) (f v : Nat) : W64 × W32 × Bool := SMap.getD (s.fn f).msix v (0, 0, true)
/-- The bytes of the MSI-X table entries around an offset. -/
def State.msixBytes (s : State) (f off len : Nat) : List Byte :=
  let e := s.msixEntry f (off / 16)
  fixed len ((leBytes 8 e.1.toNat ++ leBytes 4 e.2.1.toNat ++ leBytes 4 (b2n e.2.2)).drop (off % 16))
/-- The PBA bytes from an offset on. -/
def State.pbaBytes (s : State) (f off len : Nat) : List Byte :=
  leBytes len ((List.range (8 * len)).foldl (fun m i => m + 2 ^ i * b2n (SMap.getD (s.fn f).pba (8 * off + i) false)) 0)
/-- A read of BAR2. -/
def State.readBar2 (s : State) (f off len : Nat) : List Byte :=
  let pba := if (vfOf f).isSome then 0x800 else 0x8000
  if !regForm off len then zeros len
  else if off < 16 * vectorsOf f then s.msixBytes f off len
  else if pba ≤ off ∧ off < pba + vectorsOf f / 8 then s.pbaBytes f (off - pba) len
  else zeros len
/-- A word of the MSI-X table. -/
def State.msixWord (s : State) (f off v : Nat) : State :=
  let i := off / 16
  let (a, d, m) := s.msixEntry f i
  let put (s : State) (e : W64 × W32 × Bool) : State := s.setFn f { s.fn f with msix := SMap.set (s.fn f).msix i e }
  match off % 16 with
  | 0 => put s (BitVec.ofNat 64 (a.toNat / 2 ^ 32 * 2 ^ 32 + v), d, m)
  | 4 => put s (BitVec.ofNat 64 (a.toNat % 2 ^ 32 + 2 ^ 32 * v), d, m)
  | 8 => put s (a, BitVec.ofNat 32 v, m)
  | _ => if bit v 0 then put s (a, d, true) else if m then s.unmaskVector f i else s
/-- A write of BAR2: a VF's discards what is not its table. -/
def State.writeBar2 (s : State) (f off : Nat) (b : List Byte) : State :=
  let form := regForm off b.length
  if off < 16 * vectorsOf f then
    if form then (words off b).foldl (fun s x => s.msixWord f x.1 x.2) s else s.badWrite f
  else if (vfOf f).isSome then s
  else if 0x9000 ≤ off ∧ off < 0x9100 then
    if form then
      (maskBits (leNat b) (8 * b.length)).foldl (fun s i => s.ackIntx f (8 * (off - 0x9000) + i)) s
    else s.badWrite f
  else if 0x8000 ≤ off ∧ off < 0x8100 ∧ form = true then s
  else s.badWrite f

/-! ## The row -/

/-- A read of a control window waits for its answer. -/
def State.readControl (s : State) (f c off len : Nat) : State :=
  if regForm off len then (s.ctlPush c { write := false, off := off / 8 * 8, fn := some f }).ctlServeAll c else s.emit (.completion f true (zeros len))
/-- An access of BAR0 past the checks of its function. -/
def State.bar0 (s : State) (f off : Nat) (r : MemReq) : State :=
  let pl := s.placeOf f off
  let run (s : State) : State :=
    match r, pl with
    | .read len, .control c o => s.readControl f c o len
    | .read len, _ => s.emit (.completion f true (s.readPlace f pl len))
    | .write b, _ => s.writePlace f pl b
    | .atomic _, _ => s
  let (right, len) := match r with | .read n => (1, n) | .write b => (2, b.length) | .atomic b => (3, b.length)
  match pl.target f off with
  | some (t, a) => hostRequest s f t right a len run
  | none => run s
/-- REGISTER_WRITE (R358): reads, and the writes of every register, by their place. No BAR claims an offset past its size
(R356). -/
def execRegisterWrite (fn bar off : Nat) (r : MemReq) (s : State) : Res :=
  whenServing s fun s =>
    if !(s.port (fnPort fn)).full then s
    else if !s.takesRequests fn || s.barSize fn bar ≤ off then s.emit (.completion fn false [])
    else
      match r with
      | .atomic _ => s.emit (.completion fn false [])
      | _ =>
        if bar = 0 then s.bar0 fn off r
        else if bar = 2 then
          bar2Request s fn fun s => match r with
            | .read len => s.emit (.completion fn true (s.readBar2 fn off len))
            | .write b => s.writeBar2 fn off b
            | .atomic _ => s
        else s.emit (.completion fn false [])

end Sys2Proof.Machine
end

