-- ==== Sys2Proof/Machine/Dispatch.lean ====
section
/-! DEFINITION. Which meaning each command has: one arm for each constructor of `Instr`. -/
namespace Sys2Proof.Machine

/-- The effect of one command on everything but the queue. -/
def exec (i : Instr) (s : State) : Host.Outcome State Fault Refusal :=
  match i with
  | .coldPowerUp => Sys2Proof.Machine.execColdPowerUp s
  | .vauxLoss => Sys2Proof.Machine.execVauxLoss s
  | .pwrGoodRise m => Sys2Proof.Machine.execPwrGoodRise m s
  | .pwrGoodFall => Sys2Proof.Machine.execPwrGoodFall s
  | .standSupplyFault stand => Sys2Proof.Machine.execStandSupplyFault stand s
  | .avsTargetCompute lowestMv => Sys2Proof.Machine.execAvsTargetCompute lowestMv s
  | .avsStep stand ack readMv => Sys2Proof.Machine.execAvsStep stand ack readMv s
  | .pmbAlert status => Sys2Proof.Machine.execPmbAlert status s
  | .powerWindowEnd rails => Sys2Proof.Machine.execPowerWindowEnd rails s
  | .thermalSensorRead stand sensor reading => Sys2Proof.Machine.execThermalSensorRead stand sensor reading s
  | .sysrefLoss => Sys2Proof.Machine.execSysrefLoss s
  | .sysrefReturn => Sys2Proof.Machine.execSysrefReturn s
  | .ethrefLoss grove => Sys2Proof.Machine.execEthrefLoss grove s
  | .ppsOutPulse => Sys2Proof.Machine.execPpsOutPulse s
  | .bootComplete => Sys2Proof.Machine.execBootComplete s
  | .sysRstAssert => Sys2Proof.Machine.execSysRstAssert s
  | .sysRstRelease m => Sys2Proof.Machine.execSysRstRelease m s
  | .perstAssert p => Sys2Proof.Machine.execPerstAssert p s
  | .perstRelease p rate form => Sys2Proof.Machine.execPerstRelease p rate form s
  | .deviceReset => Sys2Proof.Machine.execDeviceReset s
  | .deviceResetExpiry m => Sys2Proof.Machine.execDeviceResetExpiry m s
  | .deviceStore => Sys2Proof.Machine.execDeviceStore s
  | .storeStep h => Sys2Proof.Machine.execStoreStep h s
  | .deviceUpdateStage => Sys2Proof.Machine.execDeviceUpdateStage s
  | .stageVerifyEnd h readOk => Sys2Proof.Machine.execStageVerifyEnd h readOk s
  | .deviceUpdateActivate => Sys2Proof.Machine.execDeviceUpdateActivate s
  | .activationStep h => Sys2Proof.Machine.execActivationStep h s
  | .activationTimeout r => Sys2Proof.Machine.execActivationTimeout r s
  | .mailboxSubmit p v => Sys2Proof.Machine.execMailboxSubmit p v s
  | .requestBufferWrite p off bytes => Sys2Proof.Machine.execRequestBufferWrite p off bytes s
  | .mbStatusClear p v => Sys2Proof.Machine.execMbStatusClear p v s
  | .oobMessage bus eid mtag bytes => Sys2Proof.Machine.execOobMessage bus eid mtag bytes s
  | .inbandDatagram port addr udp frag bytes => Sys2Proof.Machine.execInbandDatagram port addr udp frag bytes s
  | .opStatus => Sys2Proof.Machine.execOpStatus s
  | .opCancel => Sys2Proof.Machine.execOpCancel s
  | .deviceCaps => Sys2Proof.Machine.execDeviceCaps s
  | .deviceInfo => Sys2Proof.Machine.execDeviceInfo s
  | .devicePin => Sys2Proof.Machine.execDevicePin s
  | .securityAssign => Sys2Proof.Machine.execSecurityAssign s
  | .deviceInband => Sys2Proof.Machine.execDeviceInband s
  | .portGroup => Sys2Proof.Machine.execPortGroup s
  | .portSet => Sys2Proof.Machine.execPortSet s
  | .portGet => Sys2Proof.Machine.execPortGet s
  | .portStats => Sys2Proof.Machine.execPortStats s
  | .portRetrain => Sys2Proof.Machine.execPortRetrain s
  | .trainingFrameReceive port lane f => Sys2Proof.Machine.execTrainingFrameReceive port lane f s
  | .trainingAlignmentComplete a => Sys2Proof.Machine.execTrainingAlignmentComplete a s
  | .trainingTimeout port => Sys2Proof.Machine.execTrainingTimeout port s
  | .s200AttemptFail port fin => Sys2Proof.Machine.execS200AttemptFail port fin s
  | .trainingRestart port => Sys2Proof.Machine.execTrainingRestart port s
  | .holdUpExpiry port => Sys2Proof.Machine.execHoldUpExpiry port s
  | .laneLoss port fault => Sys2Proof.Machine.execLaneLoss port fault s
  | .linkDegradedWindow port bits symbols uncorrectable => Sys2Proof.Machine.execLinkDegradedWindow port bits symbols uncorrectable s
  | .ethFrameFirstByte port bytes => Sys2Proof.Machine.execEthFrameFirstByte port bytes s
  | .ethFrameLastBit tag words => Sys2Proof.Machine.execEthFrameLastBit tag words s
  | .pfcFrameReceive port enable quanta => Sys2Proof.Machine.execPfcFrameReceive port enable quanta s
  | .pauseFrameReceive port quanta => Sys2Proof.Machine.execPauseFrameReceive port quanta s
  | .pauseExpiry port prio => Sys2Proof.Machine.execPauseExpiry port prio s
  | .pfcResend port => Sys2Proof.Machine.execPfcResend port s
  | .trailResult tag => Sys2Proof.Machine.execTrailResult tag s
  | .decisionRelease tag => Sys2Proof.Machine.execDecisionRelease tag s
  | .windowReady tag => Sys2Proof.Machine.execWindowReady tag s
  | .windowDispatch t => Sys2Proof.Machine.execWindowDispatch t s
  | .threadFrameStart t => Sys2Proof.Machine.execThreadFrameStart t s
  | .spNop t => Sys2Proof.Machine.execSpNop t s
  | .spHalt t => Sys2Proof.Machine.execSpHalt t s
  | .spExt t => Sys2Proof.Machine.execSpExt t s
  | .spExtm t => Sys2Proof.Machine.execSpExtm t s
  | .spAdd t => Sys2Proof.Machine.execSpAdd t s
  | .spSub t => Sys2Proof.Machine.execSpSub t s
  | .spAnd t => Sys2Proof.Machine.execSpAnd t s
  | .spOr t => Sys2Proof.Machine.execSpOr t s
  | .spXor t => Sys2Proof.Machine.execSpXor t s
  | .spShl t => Sys2Proof.Machine.execSpShl t s
  | .spShr t => Sys2Proof.Machine.execSpShr t s
  | .spAddi t => Sys2Proof.Machine.execSpAddi t s
  | .spSubi t => Sys2Proof.Machine.execSpSubi t s
  | .spAndi t => Sys2Proof.Machine.execSpAndi t s
  | .spOri t => Sys2Proof.Machine.execSpOri t s
  | .spXori t => Sys2Proof.Machine.execSpXori t s
  | .spShli t => Sys2Proof.Machine.execSpShli t s
  | .spShri t => Sys2Proof.Machine.execSpShri t s
  | .spLdi t => Sys2Proof.Machine.execSpLdi t s
  | .spComp t => Sys2Proof.Machine.execSpComp t s
  | .spCompi t => Sys2Proof.Machine.execSpCompi t s
  | .spBr t => Sys2Proof.Machine.execSpBr t s
  | .spBt t => Sys2Proof.Machine.execSpBt t s
  | .spBf t => Sys2Proof.Machine.execSpBf t s
  | .spBrx t => Sys2Proof.Machine.execSpBrx t s
  | .spKey t => Sys2Proof.Machine.execSpKey t s
  | .spKeyw t => Sys2Proof.Machine.execSpKeyw t s
  | .spKeyi t => Sys2Proof.Machine.execSpKeyi t s
  | .spEmit t => Sys2Proof.Machine.execSpEmit t s
  | .spThint t => Sys2Proof.Machine.execSpThint t s
  | .overrunFault t => Sys2Proof.Machine.execOverrunFault t s
  | .fallThroughFault t => Sys2Proof.Machine.execFallThroughFault t s
  | .thintCandidateDeliver tag => Sys2Proof.Machine.execThintCandidateDeliver tag s
  | .classParseStage => Sys2Proof.Machine.execClassParseStage s
  | .classParseLoad => Sys2Proof.Machine.execClassParseLoad s
  | .parseBankSwitch h ok => Sys2Proof.Machine.execParseBankSwitch h ok s
  | .classParseGet => Sys2Proof.Machine.execClassParseGet s
  | .classParseStats => Sys2Proof.Machine.execClassParseStats s
  | .walkStart grove => Sys2Proof.Machine.execWalkStart grove s
  | .walkEnd tag memErr => Sys2Proof.Machine.execWalkEnd tag memErr s
  | .classRuleStage => Sys2Proof.Machine.execClassRuleStage s
  | .classRouteStage => Sys2Proof.Machine.execClassRouteStage s
  | .classTreeInstall => Sys2Proof.Machine.execClassTreeInstall s
  | .treeInstallStep h image ok => Sys2Proof.Machine.execTreeInstallStep h image ok s
  | .classTreeGet => Sys2Proof.Machine.execClassTreeGet s
  | .classBuildGet => Sys2Proof.Machine.execClassBuildGet s
  | .classMeterSet => Sys2Proof.Machine.execClassMeterSet s
  | .classMeterGet => Sys2Proof.Machine.execClassMeterGet s
  | .classActionStats => Sys2Proof.Machine.execClassActionStats s
  | .classStats => Sys2Proof.Machine.execClassStats s
  | .classLookup => Sys2Proof.Machine.execClassLookup s
  | .tblCmdRead src v => Sys2Proof.Machine.execTblCmdRead src v s
  | .tblCmdWrite src v => Sys2Proof.Machine.execTblCmdWrite src v s
  | .tblCmdSearch src v => Sys2Proof.Machine.execTblCmdSearch src v s
  | .tblCmdInsert src v => Sys2Proof.Machine.execTblCmdInsert src v s
  | .tblCmdDelete src v => Sys2Proof.Machine.execTblCmdDelete src v s
  | .tblCmdAgeStep src v => Sys2Proof.Machine.execTblCmdAgeStep src v s
  | .tblDataWrite src off bytes => Sys2Proof.Machine.execTblDataWrite src off bytes s
  | .tblStatusClear src v => Sys2Proof.Machine.execTblStatusClear src v s
  | .tblResultPost src => Sys2Proof.Machine.execTblResultPost src s
  | .lookupPoisonRepair table replica pos => Sys2Proof.Machine.execLookupPoisonRepair table replica pos s
  | .learnDecide => Sys2Proof.Machine.execLearnDecide s
  | .learnEngineTakeover => Sys2Proof.Machine.execLearnEngineTakeover s
  | .ageSweepStep table => Sys2Proof.Machine.execAgeSweepStep table s
  | .tableRead => Sys2Proof.Machine.execTableRead s
  | .tableWrite => Sys2Proof.Machine.execTableWrite s
  | .tableSearch => Sys2Proof.Machine.execTableSearch s
  | .tableInsert => Sys2Proof.Machine.execTableInsert s
  | .tableDelete => Sys2Proof.Machine.execTableDelete s
  | .tableAgeStep => Sys2Proof.Machine.execTableAgeStep s
  | .tableRehash => Sys2Proof.Machine.execTableRehash s
  | .rehashStep h => Sys2Proof.Machine.execRehashStep h s
  | .tableInfo => Sys2Proof.Machine.execTableInfo s
  | .tablePartSet => Sys2Proof.Machine.execTablePartSet s
  | .tableLearnSet => Sys2Proof.Machine.execTableLearnSet s
  | .tableFlush => Sys2Proof.Machine.execTableFlush s
  | .flushStep h => Sys2Proof.Machine.execFlushStep h s
  | .tableStats => Sys2Proof.Machine.execTableStats s
  | .planeIteration plane => Sys2Proof.Machine.execPlaneIteration plane s
  | .lbConnection plane => Sys2Proof.Machine.execLbConnection plane s
  | .transferUnitReceive grove poison => Sys2Proof.Machine.execTransferUnitReceive grove poison s
  | .frameIncompleteTimeout grove tag => Sys2Proof.Machine.execFrameIncompleteTimeout grove tag s
  | .planeFailure plane reason crosspoint => Sys2Proof.Machine.execPlaneFailure plane reason crosspoint s
  | .planeDownReport plane => Sys2Proof.Machine.execPlaneDownReport plane s
  | .schedulerMismatch plane => Sys2Proof.Machine.execSchedulerMismatch plane s
  | .canopyModeReport plane => Sys2Proof.Machine.execCanopyModeReport plane s
  | .lbModeSwitch plane => Sys2Proof.Machine.execLbModeSwitch plane s
  | .healthCanopyGet => Sys2Proof.Machine.execHealthCanopyGet s
  | .healthCanopySet => Sys2Proof.Machine.execHealthCanopySet s
  | .frameEligible grove tag => Sys2Proof.Machine.execFrameEligible grove tag s
  | .egressSchedule port => Sys2Proof.Machine.execEgressSchedule port s
  | .frameTransmitEnd port => Sys2Proof.Machine.execFrameTransmitEnd port s
  | .sinkTake grove sink => Sys2Proof.Machine.execSinkTake grove sink s
  | .auditStart grove => Sys2Proof.Machine.execAuditStart grove s
  | .auditEnd grove lost conflicts => Sys2Proof.Machine.execAuditEnd grove lost conflicts s
  | .portEgressSet => Sys2Proof.Machine.execPortEgressSet s
  | .portEgressGet => Sys2Proof.Machine.execPortEgressGet s
  | .portSliceSet => Sys2Proof.Machine.execPortSliceSet s
  | .portSliceGet => Sys2Proof.Machine.execPortSliceGet s
  | .portMirrorSet => Sys2Proof.Machine.execPortMirrorSet s
  | .portMirrorGet => Sys2Proof.Machine.execPortMirrorGet s
  | .hostLinkDown p reason => Sys2Proof.Machine.execHostLinkDown p reason s
  | .hostLinkUp p rate form => Sys2Proof.Machine.execHostLinkUp p rate form s
  | .configRequest fn bus reg wr => Sys2Proof.Machine.execConfigRequest fn bus reg wr s
  | .registerWrite fn bar off r => Sys2Proof.Machine.execRegisterWrite fn bar off r s
  | .busMasterDisable fn => Sys2Proof.Machine.execBusMasterDisable fn s
  | .busMasterEnable fn => Sys2Proof.Machine.execBusMasterEnable fn s
  | .flr fn => Sys2Proof.Machine.execFlr fn s
  | .flrComplete fn => Sys2Proof.Machine.execFlrComplete fn s
  | .vfCessation fn num => Sys2Proof.Machine.execVfCessation fn num s
  | .d3hotEntry fn => Sys2Proof.Machine.execD3hotEntry fn s
  | .d0Return fn => Sys2Proof.Machine.execD0Return fn s
  | .pmeResend fn => Sys2Proof.Machine.execPmeResend fn s
  | .pmeTurnOff p => Sys2Proof.Machine.execPmeTurnOff p s
  | .cplTimeoutValueWrite fn v => Sys2Proof.Machine.execCplTimeoutValueWrite fn v s
  | .cplTimeoutWrite fn v => Sys2Proof.Machine.execCplTimeoutWrite fn v s
  | .pasidEnableClear fn => Sys2Proof.Machine.execPasidEnableClear fn s
  | .msixEnableSet fn => Sys2Proof.Machine.execMsixEnableSet fn s
  | .intxAckWrite fn vec => Sys2Proof.Machine.execIntxAckWrite fn vec s
  | .atsInvalidate fn lo hi itag => Sys2Proof.Machine.execAtsInvalidate fn lo hi itag s
  | .completionReceive p tag status bytes => Sys2Proof.Machine.execCompletionReceive p tag status bytes s
  | .completionTimeout p tag => Sys2Proof.Machine.execCompletionTimeout p tag s
  | .tagQuarantineEnd p tag => Sys2Proof.Machine.execTagQuarantineEnd p tag s
  | .aspmL1Entry p => Sys2Proof.Machine.execAspmL1Entry p s
  | .l1Exit p => Sys2Proof.Machine.execL1Exit p s
  | .queueHostSet => Sys2Proof.Machine.execQueueHostSet s
  | .queueHostGet => Sys2Proof.Machine.execQueueHostGet s
  | .queueHostStats => Sys2Proof.Machine.execQueueHostStats s
  | .workPiWrite fn slot v => Sys2Proof.Machine.execWorkPiWrite fn slot v s
  | .cplCiWrite fn slot v => Sys2Proof.Machine.execCplCiWrite fn slot v s
  | .qpCtrlStart fn slot => Sys2Proof.Machine.execQpCtrlStart fn slot s
  | .qpCtrlStop fn slot => Sys2Proof.Machine.execQpCtrlStop fn slot s
  | .qpCtrlReset fn slot => Sys2Proof.Machine.execQpCtrlReset fn slot s
  | .qpStoppingEnd qp => Sys2Proof.Machine.execQpStoppingEnd qp s
  | .descriptorFetch qp => Sys2Proof.Machine.execDescriptorFetch qp s
  | .jobStart qp => Sys2Proof.Machine.execJobStart qp s
  | .cqStallTimeout qp => Sys2Proof.Machine.execCqStallTimeout qp s
  | .jobComplete qp slot => Sys2Proof.Machine.execJobComplete qp slot s
  | .qpNop qp slot => Sys2Proof.Machine.execQpNop qp slot s
  | .counterWait qp slot => Sys2Proof.Machine.execCounterWait qp slot s
  | .counterWaitSatisfied qp slot => Sys2Proof.Machine.execCounterWaitSatisfied qp slot s
  | .counterWaitTimeout qp slot => Sys2Proof.Machine.execCounterWaitTimeout qp slot s
  | .tx qp slot => Sys2Proof.Machine.execTx qp slot s
  | .rxPost qp => Sys2Proof.Machine.execRxPost qp s
  | .rxDelivery qp => Sys2Proof.Machine.execRxDelivery qp s
  | .queueQpSet => Sys2Proof.Machine.execQueueQpSet s
  | .queueQpGet => Sys2Proof.Machine.execQueueQpGet s
  | .queueQpStateStart => Sys2Proof.Machine.execQueueQpStateStart s
  | .queueQpStateStop => Sys2Proof.Machine.execQueueQpStateStop s
  | .queueQpStateReset => Sys2Proof.Machine.execQueueQpStateReset s
  | .queueQpStats => Sys2Proof.Machine.execQueueQpStats s
  | .eventDelivery src => Sys2Proof.Machine.execEventDelivery src s
  | .eqCiWrite fn eq v => Sys2Proof.Machine.execEqCiWrite fn eq v s
  | .eqCtrlEnable fn eq => Sys2Proof.Machine.execEqCtrlEnable fn eq s
  | .eqCtrlDisable fn eq => Sys2Proof.Machine.execEqCtrlDisable fn eq s
  | .eqCtrlInvalid fn eq v => Sys2Proof.Machine.execEqCtrlInvalid fn eq v s
  | .interruptSend eq => Sys2Proof.Machine.execInterruptSend eq s
  | .eventEqSet => Sys2Proof.Machine.execEventEqSet s
  | .eventEqGet => Sys2Proof.Machine.execEventEqGet s
  | .eventEqStateEnable => Sys2Proof.Machine.execEventEqStateEnable s
  | .eventEqStateDisable => Sys2Proof.Machine.execEventEqStateDisable s
  | .eventEqStateReset => Sys2Proof.Machine.execEventEqStateReset s
  | .eventModSet => Sys2Proof.Machine.execEventModSet s
  | .eventRouteSet => Sys2Proof.Machine.execEventRouteSet s
  | .eventRouteGet => Sys2Proof.Machine.execEventRouteGet s
  | .eventGroupSet => Sys2Proof.Machine.execEventGroupSet s
  | .eventStats => Sys2Proof.Machine.execEventStats s
  | .svcInstruction t host => Sys2Proof.Machine.execSvcInstruction t host s
  | .threadFault t cause tval => Sys2Proof.Machine.execThreadFault t cause tval s
  | .stillnessDetect grove core => Sys2Proof.Machine.execStillnessDetect grove core s
  | .chPut t => Sys2Proof.Machine.execChPut t s
  | .chSend t => Sys2Proof.Machine.execChSend t s
  | .chRecv t => Sys2Proof.Machine.execChRecv t s
  | .chGet t => Sys2Proof.Machine.execChGet t s
  | .chPoll t => Sys2Proof.Machine.execChPoll t s
  | .channelStale grove ch => Sys2Proof.Machine.execChannelStale grove ch s
  | .chRelease grove ch => Sys2Proof.Machine.execChRelease grove ch s
  | .svcRestartWrite t v => Sys2Proof.Machine.execSvcRestartWrite t v s
  | .groveRestartWrite t v => Sys2Proof.Machine.execGroveRestartWrite t v s
  | .groveServiceRestart grove => Sys2Proof.Machine.execGroveServiceRestart grove s
  | .frmTake t v => Sys2Proof.Machine.execFrmTake t v s
  | .frmAlloc t v => Sys2Proof.Machine.execFrmAlloc t v s
  | .frmSend t v => Sys2Proof.Machine.execFrmSend t v s
  | .frmFree t v => Sys2Proof.Machine.execFrmFree t v s
  | .logCiWrite grove v => Sys2Proof.Machine.execLogCiWrite grove v s
  | .candCiWrite grove v => Sys2Proof.Machine.execCandCiWrite grove v s
  | .serviceStage => Sys2Proof.Machine.execServiceStage s
  | .serviceLoad => Sys2Proof.Machine.execServiceLoad s
  | .serviceLoadStep h => Sys2Proof.Machine.execServiceLoadStep h s
  | .serviceGet => Sys2Proof.Machine.execServiceGet s
  | .serviceStats => Sys2Proof.Machine.execServiceStats s
  | .serviceNvmeSet => Sys2Proof.Machine.execServiceNvmeSet s
  | .serviceNvmeNsSet => Sys2Proof.Machine.execServiceNvmeNsSet s
  | .serviceSlowpathSet => Sys2Proof.Machine.execServiceSlowpathSet s
  | .servicePolicySet => Sys2Proof.Machine.execServicePolicySet s
  | .serviceLearnRead => Sys2Proof.Machine.execServiceLearnRead s
  | .slowpathFrame grove => Sys2Proof.Machine.execSlowpathFrame grove s
  | .policyCandidate grove => Sys2Proof.Machine.execPolicyCandidate grove s
  | .learnLogMove => Sys2Proof.Machine.execLearnLogMove s
  | .nvmeCcWrite fn v => Sys2Proof.Machine.execNvmeCcWrite fn v s
  | .nvmeSqTailDoorbell fn y v => Sys2Proof.Machine.execNvmeSqTailDoorbell fn y v s
  | .nvmeCqHeadDoorbell fn y v => Sys2Proof.Machine.execNvmeCqHeadDoorbell fn y v s
  | .nvCreateIoSq fn sqe => Sys2Proof.Machine.execNvCreateIoSq fn sqe s
  | .nvDeleteIoSq fn sqe => Sys2Proof.Machine.execNvDeleteIoSq fn sqe s
  | .nvCreateIoCq fn sqe => Sys2Proof.Machine.execNvCreateIoCq fn sqe s
  | .nvDeleteIoCq fn sqe => Sys2Proof.Machine.execNvDeleteIoCq fn sqe s
  | .nvGetLogPage fn sqe => Sys2Proof.Machine.execNvGetLogPage fn sqe s
  | .nvIdentify fn sqe => Sys2Proof.Machine.execNvIdentify fn sqe s
  | .nvAbort fn sqe => Sys2Proof.Machine.execNvAbort fn sqe s
  | .nvSetFeatures fn sqe => Sys2Proof.Machine.execNvSetFeatures fn sqe s
  | .nvGetFeatures fn sqe => Sys2Proof.Machine.execNvGetFeatures fn sqe s
  | .nvAsyncEventRequest fn sqe => Sys2Proof.Machine.execNvAsyncEventRequest fn sqe s
  | .nvInvalidOpcode fn sq sqe => Sys2Proof.Machine.execNvInvalidOpcode fn sq sqe s
  | .nvFlush fn sq sqe answered => Sys2Proof.Machine.execNvFlush fn sq sqe answered s
  | .nvWrite fn sq sqe data answered => Sys2Proof.Machine.execNvWrite fn sq sqe data answered s
  | .nvRead fn sq sqe answer => Sys2Proof.Machine.execNvRead fn sq sqe answer s
  | .nvWriteZeroes fn sq sqe answered => Sys2Proof.Machine.execNvWriteZeroes fn sq sqe answered s
  | .nvDatasetManagement fn sq sqe answered => Sys2Proof.Machine.execNvDatasetManagement fn sq sqe answered s
  | .nvmeIoTimeout fn sq cid => Sys2Proof.Machine.execNvmeIoTimeout fn sq cid s
  | .remoteKeySet => Sys2Proof.Machine.execRemoteKeySet s
  | .remoteKeyGet => Sys2Proof.Machine.execRemoteKeyGet s
  | .remoteKeyRevoke => Sys2Proof.Machine.execRemoteKeyRevoke s
  | .keyRevokeDrained index => Sys2Proof.Machine.execKeyRevokeDrained index s
  | .remoteConnSet => Sys2Proof.Machine.execRemoteConnSet s
  | .remoteConnGet => Sys2Proof.Machine.execRemoteConnGet s
  | .remoteConnReset => Sys2Proof.Machine.execRemoteConnReset s
  | .remoteEngineSet => Sys2Proof.Machine.execRemoteEngineSet s
  | .remoteStats => Sys2Proof.Machine.execRemoteStats s
  | .remoteWrite qp slot => Sys2Proof.Machine.execRemoteWrite qp slot s
  | .remoteRead qp slot => Sys2Proof.Machine.execRemoteRead qp slot s
  | .remoteSend qp slot => Sys2Proof.Machine.execRemoteSend qp slot s
  | .recvPost qp slot => Sys2Proof.Machine.execRecvPost qp slot s
  | .atomicAdd qp slot => Sys2Proof.Machine.execAtomicAdd qp slot s
  | .cas64 qp slot => Sys2Proof.Machine.execCas64 qp slot s
  | .cas128 qp slot => Sys2Proof.Machine.execCas128 qp slot s
  | .writePacketReceive grove => Sys2Proof.Machine.execWritePacketReceive grove s
  | .readReqReceive grove acc => Sys2Proof.Machine.execReadReqReceive grove acc s
  | .readRespReceive grove => Sys2Proof.Machine.execReadRespReceive grove s
  | .sendPacketReceive grove => Sys2Proof.Machine.execSendPacketReceive grove s
  | .atomicReqReceive grove acc => Sys2Proof.Machine.execAtomicReqReceive grove acc s
  | .atomicRespReceive grove => Sys2Proof.Machine.execAtomicRespReceive grove s
  | .ackReceive grove => Sys2Proof.Machine.execAckReceive grove s
  | .nakReceive grove => Sys2Proof.Machine.execNakReceive grove s
  | .rocev2PacketReceive grove acc => Sys2Proof.Machine.execRocev2PacketReceive grove acc s
  | .retransmitTimeout conn msg => Sys2Proof.Machine.execRetransmitTimeout conn msg s
  | .rnrDelayExpiry conn msg => Sys2Proof.Machine.execRnrDelayExpiry conn msg s
  | .contextExpiry conn msg => Sys2Proof.Machine.execContextExpiry conn msg s
  | .cwndWindow conn => Sys2Proof.Machine.execCwndWindow conn s
  | .cipherKeySet => Sys2Proof.Machine.execCipherKeySet s
  | .cipherKeyGet => Sys2Proof.Machine.execCipherKeyGet s
  | .cipherKeyDestroy => Sys2Proof.Machine.execCipherKeyDestroy s
  | .keyEntryZeroize index => Sys2Proof.Machine.execKeyEntryZeroize index s
  | .cipherSaSet => Sys2Proof.Machine.execCipherSaSet s
  | .cipherSaGet => Sys2Proof.Machine.execCipherSaGet s
  | .cipherSaDestroy => Sys2Proof.Machine.execCipherSaDestroy s
  | .cipherQpBind => Sys2Proof.Machine.execCipherQpBind s
  | .cipherEngineSet => Sys2Proof.Machine.execCipherEngineSet s
  | .cipherStats => Sys2Proof.Machine.execCipherStats s
  | .aeadSeal qp slot => Sys2Proof.Machine.execAeadSeal qp slot s
  | .aeadOpen qp slot => Sys2Proof.Machine.execAeadOpen qp slot s
  | .xtsEnc qp slot => Sys2Proof.Machine.execXtsEnc qp slot s
  | .xtsDec qp slot => Sys2Proof.Machine.execXtsDec qp slot s
  | .tlsSeal qp slot => Sys2Proof.Machine.execTlsSeal qp slot s
  | .tlsOpen qp slot => Sys2Proof.Machine.execTlsOpen qp slot s
  | .urgentPreempt grove engine done => Sys2Proof.Machine.execUrgentPreempt grove engine done s
  | .bulkResume grove engine => Sys2Proof.Machine.execBulkResume grove engine s
  | .cipherMessageEnd grove engine msg poisoned => Sys2Proof.Machine.execCipherMessageEnd grove engine msg poisoned s
  | .espOutbound tag => Sys2Proof.Machine.execEspOutbound tag s
  | .espInbound tag => Sys2Proof.Machine.execEspInbound tag s
  | .clearingRent => Sys2Proof.Machine.execClearingRent s
  | .clearingRentStep h ok => Sys2Proof.Machine.execClearingRentStep h ok s
  | .clearingRelease => Sys2Proof.Machine.execClearingRelease s
  | .clearingReleaseStep h ok => Sys2Proof.Machine.execClearingReleaseStep h ok s
  | .clearingStage => Sys2Proof.Machine.execClearingStage s
  | .clearingStageHost => Sys2Proof.Machine.execClearingStageHost s
  | .clearingLoad => Sys2Proof.Machine.execClearingLoad s
  | .clearingLoadStep h ok => Sys2Proof.Machine.execClearingLoadStep h ok s
  | .clearingUnload => Sys2Proof.Machine.execClearingUnload s
  | .clearingGet => Sys2Proof.Machine.execClearingGet s
  | .clearingQpBind => Sys2Proof.Machine.execClearingQpBind s
  | .clearingLineBind => Sys2Proof.Machine.execClearingLineBind s
  | .clearingCtrl => Sys2Proof.Machine.execClearingCtrl s
  | .clearingMeterSet => Sys2Proof.Machine.execClearingMeterSet s
  | .clearingMeterRead => Sys2Proof.Machine.execClearingMeterRead s
  | .clearingStats => Sys2Proof.Machine.execClearingStats s
  | .shellClockStart c => Sys2Proof.Machine.execShellClockStart c s
  | .shellResetRelease c => Sys2Proof.Machine.execShellResetRelease c s
  | .clearingRunning c => Sys2Proof.Machine.execClearingRunning c s
  | .streamRxFrame c => Sys2Proof.Machine.execStreamRxFrame c s
  | .streamTxFrame c bytes abort => Sys2Proof.Machine.execStreamTxFrame c bytes abort s
  | .memCommand c write off count id => Sys2Proof.Machine.execMemCommand c write off count id s
  | .memWriteData c data mask last poisoned => Sys2Proof.Machine.execMemWriteData c data mask last poisoned s
  | .memResponse c id poisoned => Sys2Proof.Machine.execMemResponse c id poisoned s
  | .h2c qp slot => Sys2Proof.Machine.execH2c qp slot s
  | .c2hPost qp slot => Sys2Proof.Machine.execC2hPost qp slot s
  | .h2cMessage c => Sys2Proof.Machine.execH2cMessage c s
  | .c2hMessage c chan ctag bytes abort => Sys2Proof.Machine.execC2hMessage c chan ctag bytes abort s
  | .eventLineFire c lines data => Sys2Proof.Machine.execEventLineFire c lines data s
  | .controlRequest c fn write off data beat => Sys2Proof.Machine.execControlRequest c fn write off data beat s
  | .controlAnswer c rtag data => Sys2Proof.Machine.execControlAnswer c rtag data s
  | .controlReadTimeout c rtag => Sys2Proof.Machine.execControlReadTimeout c rtag s
  | .clearingPowerWindow c mw => Sys2Proof.Machine.execClearingPowerWindow c mw s
  | .configMemoryError c => Sys2Proof.Machine.execConfigMemoryError c s
  | .meterWindowClose c => Sys2Proof.Machine.execMeterWindowClose c s
  | .firebreakSet => Sys2Proof.Machine.execFirebreakSet s
  | .firebreakGet => Sys2Proof.Machine.execFirebreakGet s
  | .firebreakMapSet => Sys2Proof.Machine.execFirebreakMapSet s
  | .firebreakMapGet => Sys2Proof.Machine.execFirebreakMapGet s
  | .firebreakLogRead => Sys2Proof.Machine.execFirebreakLogRead s
  | .securityWrapkeySet => Sys2Proof.Machine.execSecurityWrapkeySet s
  | .securityCmdkeySet => Sys2Proof.Machine.execSecurityCmdkeySet s
  | .securityVerifykeySet => Sys2Proof.Machine.execSecurityVerifykeySet s
  | .securityFloorSet => Sys2Proof.Machine.execSecurityFloorSet s
  | .securityDebugSet => Sys2Proof.Machine.execSecurityDebugSet s
  | .debugWindowClose grove => Sys2Proof.Machine.execDebugWindowClose grove s
  | .jtagDebugAccess t op => Sys2Proof.Machine.execJtagDebugAccess t op s
  | .securityIdentityGet => Sys2Proof.Machine.execSecurityIdentityGet s
  | .securityAttest => Sys2Proof.Machine.execSecurityAttest s
  | .attestComplete h => Sys2Proof.Machine.execAttestComplete h s
  | .securityReportGet => Sys2Proof.Machine.execSecurityReportGet s
  | .securityKeysGet => Sys2Proof.Machine.execSecurityKeysGet s
  | .timeConfig => Sys2Proof.Machine.execTimeConfig s
  | .timeSetDelta => Sys2Proof.Machine.execTimeSetDelta s
  | .timeSetAtEdge => Sys2Proof.Machine.execTimeSetAtEdge s
  | .timeSetEdgeTimeout => Sys2Proof.Machine.execTimeSetEdgeTimeout s
  | .timeAdjust => Sys2Proof.Machine.execTimeAdjust s
  | .timeGet => Sys2Proof.Machine.execTimeGet s
  | .ppsInEdge stamp => Sys2Proof.Machine.execPpsInEdge stamp s
  | .timeHoldover => Sys2Proof.Machine.execTimeHoldover s
  | .scrubRead loc word outcome => Sys2Proof.Machine.execScrubRead loc word outcome s
  | .unitFailure loc cause => Sys2Proof.Machine.execUnitFailure loc cause s
  | .treeBankRemap grove bank => Sys2Proof.Machine.execTreeBankRemap grove bank s
  | .groveFailure grove cause => Sys2Proof.Machine.execGroveFailure grove cause s
  | .wardenHeartbeat => Sys2Proof.Machine.execWardenHeartbeat s
  | .wardenHeartbeatTimeout => Sys2Proof.Machine.execWardenHeartbeatTimeout s
  | .wardenTakeoverActive => Sys2Proof.Machine.execWardenTakeoverActive s
  | .failedCoreTest ok => Sys2Proof.Machine.execFailedCoreTest ok s
  | .wardenDoubleFailure m => Sys2Proof.Machine.execWardenDoubleFailure m s
  | .logFlush => Sys2Proof.Machine.execLogFlush s
  | .healthGet => Sys2Proof.Machine.execHealthGet s
  | .healthLogRead => Sys2Proof.Machine.execHealthLogRead s
  | .entryThaw key => Sys2Proof.Machine.execEntryThaw key s
  | .clearingUnloadStep h ok => Sys2Proof.Machine.execClearingUnloadStep h ok s
  | .clearingStageHostStep h acc => Sys2Proof.Machine.execClearingStageHostStep h acc s
  | .msixTableEntryUnmask fn vec => Sys2Proof.Machine.execMsixTableEntryUnmask fn vec s

end Sys2Proof.Machine
end

