-- ==== Sys2Proof/Machine/Step.lean ====
section
/-! DEFINITION. One step: the command at the front of the queue, with the queue's rest; the block idles on an empty
queue, and a unit of device time passes. -/
namespace Sys2Proof.Machine

/-- 0.25 ns pass: what waits for the end of a broadcaster cycle or of a warden cycle goes on (08 R233; 04 R119). -/
def State.tick (s : State) : State := { s with now := s.now + 1 }.tblRunDue.drain
/-- One step of the block. On an empty queue a tick passes (assumption log 2). -/
def step (s : State) : Host.Outcome State Fault Refusal :=
  match s.pending with
  | [] => .next s.tick
  | c :: rest => exec c { s with pending := rest }

/-- The state with the command a table word spells put at the front of its queue; the table gives no row any bits, so
no word spells one. -/
def State.withFetchWord (s : State) (nbits w : Nat) : State :=
  match decodeTableWord nbits w with
  | some c => { s with pending := c :: s.pending }
  | none => s

end Sys2Proof.Machine
end

