-- ==== Sys2Proof/Safety.lean ====
section
/-! DEFINITION. The words in which statements about the block are made: when a command of Slaot is the one being run, what
an answer leaves, and what every command keeps. -/
namespace Sys2Proof.Machine

/-! ## Commands of Slaot (04 R107, R119) -/

/-- Slaot is at work and the request it has accepted is `r`, a request with opcode `op`. -/
abbrev State.asks (s : State) (r : Request) (op : Nat) : Prop :=
  s.serving = true ∧ s.slaotUp = true ∧ s.sl.accepted = some r ∧ r.opcode = op
/-- The state once the accepted request has been taken up. -/
def State.taken (s : State) : State := { s with sl := { s.sl with accepted := none } }
/-- The state after a request is answered with a status, a payload and a handle, and the arbiter has gone on. -/
def State.reply (s : State) (r : Request) (status : Nat) (payload : List Byte := []) (handle : Nat := 0) : State :=
  (s.finish r true ⟨status, payload, handle⟩).drain
/-- The answer to a command that has changed the running configuration to that of `t`: OK, or NO_SPACE with nothing changed
where it would grow beyond its bound (03 R67). -/
def State.replyCfg (s t : State) (r : Request) (payload : List Byte := []) : State :=
  if tooLarge s.cfg t.cfg then s.taken.reply r St.noSpace else t.reply r 0 payload
/-- A long operation that has just started: what is recorded of it. -/
def Request.operation (r : Request) (handle total : Nat) (data : OpData) : LongOp :=
  ⟨handle, r.opcode, r.actor, r.mb, r.doneEvent, r.seq, 0, total, false, data⟩
/-- The state once a request has become a long operation with the next free handle. -/
def State.started (s : State) (r : Request) (total : Nat) (data : OpData) : State :=
  let h := s.handleFrom 400 s.sl.nextHandle
  { s with sl := { s.sl with ops := s.sl.ops ++ [r.operation h total data], nextHandle := h + 1, ran := 0 } }
/-- The answer IN_PROGRESS to a request that started a long operation. -/
def State.replyStarted (s : State) (r : Request) (total : Nat) (data : OpData) : State :=
  (s.started r total data).reply r St.inProgress [] (s.handleFrom 400 s.sl.nextHandle)

/-- The request is a command on clearing `c`, which is present (18 R537). -/
abbrev State.asksCl (s : State) (r : Request) (op len c : Nat) : Prop :=
  s.asks r op ∧ r.payload.length = len ∧ fld r.payload 0 1 = c ∧ c < 32 ∧ c < s.clearings
/-- It is the turn of operation `h`, whose record is `o`, once the arbiter has taken what waits (04 R121). -/
abbrev State.turns (s : State) (h : Nat) (o : LongOp) : Prop := s.pump.op h = some o ∧ s.pump.mayStep h = true
/-- The state in which an operation takes its turn. -/
def State.atStep (s : State) (h : Nat) : State := s.pump.tookTurn h
/-- The next step of a long operation is due while the device runs, and no cancel has arrived. -/
abbrev State.stepsOn (s : State) (h : Nat) (o : LongOp) (d : OpData) : Prop :=
  s.running = true ∧ s.turns h o ∧ o.cancel = false ∧ o.data = d

/-! ## Host requests (12 R358, 19 R575) -/

/-- A host request reaches a register: its function takes requests, the firebreak of the target block allows it, and in
recovery mode the block is a mailbox (03 R75). -/
abbrev State.reaches (s : State) (f target right addr len : Nat) : Prop :=
  s.takesRequests f = true ∧ s.fbAllowed target (s.master f) right addr len = true ∧
    (s.boot.phase ≠ .recovery ∨ target / 256 = 1)
/-- The state once a request has reached a register of a function: its port has seen traffic. -/
def State.traffic (s : State) (f : Nat) : State := s.setPort (fnPort f) { s.port (fnPort f) with lastTraffic := s.clk }

/-- Slaot's full endpoint serves a function that is present and is not being reset. -/
abbrev State.liveFn (s : State) (f : Nat) : Prop :=
  s.serving = true ∧ s.fnPresent f = true ∧ (s.port (fnPort f)).full = true ∧ (s.fn f).flrActive = false

/-! ## Commands of an emulated NVMe controller (15 R460) -/

/-- A ready controller has a command at the head of a submission queue, and the bytes `b` read for it are those of `e`; `t` is
the state after that read. -/
abbrev State.nvHolds (s t : State) (f sq : Nat) (e : Sqe) (q : NvSq) (b : List Byte) : Prop :=
  s.running = true ∧ s.nvReady f = true ∧ SMap.get (s.ctl f).sqs sq = some q ∧ q.head ≠ q.tail ∧
    s.svcHostReads f [(q.base + 64 * q.head, 64)] e.host [] = ((t, .ok), b) ∧ sqeHolds b e = true
/-- The state once that command has been taken from its queue. -/
def State.nvTaken (s : State) (f sq : Nat) (q : NvSq) : State :=
  s.setNv f { s.ctl f with sqs := SMap.set (s.ctl f).sqs sq { q with head := (q.head + 1) % q.size } }
/-- The state once that command has ended with an error status; `old` is the state before it, and `s` the one after its read. -/
def State.nvFail (old s : State) (f sq : Nat) (q : NvSq) (cid status : Nat) : State :=
  let d := (s.nvTaken f sq q).dnr status
  State.nvPost old (d.2.setNv f { d.2.ctl f with errors := (d.2.ctl f).errors + 1 }) f sq cid 0 d.1 []

/-! ## Packets of a remote-access engine (16 R498) -/

/-- A working engine has a packet at the head of its input, and `rest` behind it. -/
abbrev State.raHolds (s : State) (g : Nat) (p : NetPkt) (rest : List NetPkt) : Prop :=
  s.running = true ∧ SMap.getD s.ra.inq g [] = p :: rest ∧ s.maySource g = true ∧ s.raWorks g = true
/-- The state once that packet has left the input. -/
def State.raLeft (s : State) (g : Nat) (rest : List NetPkt) : State := { s with ra := { s.ra with inq := SMap.set s.ra.inq g rest } }

/-! ## Objects a command may act on -/

/-- A port of the layout that a function owns (05 R133, 04 R115). -/
abbrev State.ownsPort (s : State) (f n : Nat) : Prop := n < 512 ∧ n < s.lanes ∧ s.isPort n = true ∧ s.owns f 1 n = true
/-- A present grove that a function may act on (06 R182, R648). -/
abbrev State.ownsWholeGrove (s : State) (f g : Nat) : Prop := g < 16 ∧ g < s.groves ∧ s.groveGate f [g] = true
/-- A sapling thread stands at a valid word of its program. -/
abbrev State.standsAt (s : State) (t : Thr) (c : Ctx) (w : W64) : Prop :=
  s.running = true ∧ s.nextWord t = some (c, w) ∧ s.wordBad t c = false ∧ wordValid w = true
/-- The context after an instruction that does nothing else. -/
def Ctx.next (c : Ctx) : Ctx := { c with pc := c.pc + 1, count := c.count + 1 }

/-! ## What a command may change -/

/-- The parts of the state that a command may change: all but the queue, the variant and the stepping. -/
inductive Part where
  | now | free | out | board | boot | nv | ret | cfg | sl | et | cn | ps | cl
  | tb | sv | nvc | ra | ci | clr | sec | hp | qp | ev | tm | hl | mem
  deriving DecidableEq, Repr
/-- Two states agree in a part. -/
def State.same (p : Part) (a b : State) : Prop :=
  match p with
  | .now => b.now = a.now
  | .free => b.free = a.free
  | .out => b.out = a.out
  | .board => b.board = a.board
  | .boot => b.boot = a.boot
  | .nv => b.nv = a.nv
  | .ret => b.ret = a.ret
  | .cfg => b.cfg = a.cfg
  | .sl => b.sl = a.sl
  | .et => b.et = a.et
  | .cn => b.cn = a.cn
  | .ps => b.ps = a.ps
  | .cl => b.cl = a.cl
  | .tb => b.tb = a.tb
  | .sv => b.sv = a.sv
  | .nvc => b.nvc = a.nvc
  | .ra => b.ra = a.ra
  | .ci => b.ci = a.ci
  | .clr => b.clr = a.clr
  | .sec => b.sec = a.sec
  | .hp => b.hp = a.hp
  | .qp => b.qp = a.qp
  | .ev => b.ev = a.ev
  | .tm => b.tm = a.tm
  | .hl => b.hl = a.hl
  | .mem => b.mem = a.mem

/-- Sets of parts, one bit each in the order of `Part`. -/
abbrev Parts := BitVec 26
/-- Every part of `x` is one of `y`. -/
abbrev Parts.sub (x y : Parts) : Prop := x &&& y = x
/-- From `a` to `b` nothing has changed but the parts of `m`; the queue, the variant and the stepping are the same; time
and the count of free values have not gone back; what has left the part is still written down; and package memory has its
canonical form if it had it. -/
structure State.Keeps (m : Parts) (a b : State) : Prop where
  pending : b.pending = a.pending
  variant : b.variant = a.variant
  stepping : b.stepping = a.stepping
  now : a.now ≤ b.now
  free : a.free ≤ b.free
  out : ∃ l, b.out = a.out ++ l
  mem : Memory.wf a.mem = true → Memory.wf b.mem = true
  same_now : b.now = a.now ∨ m.getLsbD 0 = true
  same_free : b.free = a.free ∨ m.getLsbD 1 = true
  same_out : b.out = a.out ∨ m.getLsbD 2 = true
  same_board : b.board = a.board ∨ m.getLsbD 3 = true
  same_boot : b.boot = a.boot ∨ m.getLsbD 4 = true
  same_nv : b.nv = a.nv ∨ m.getLsbD 5 = true
  same_ret : b.ret = a.ret ∨ m.getLsbD 6 = true
  same_cfg : b.cfg = a.cfg ∨ m.getLsbD 7 = true
  same_sl : b.sl = a.sl ∨ m.getLsbD 8 = true
  same_et : b.et = a.et ∨ m.getLsbD 9 = true
  same_cn : b.cn = a.cn ∨ m.getLsbD 10 = true
  same_ps : b.ps = a.ps ∨ m.getLsbD 11 = true
  same_cl : b.cl = a.cl ∨ m.getLsbD 12 = true
  same_tb : b.tb = a.tb ∨ m.getLsbD 13 = true
  same_sv : b.sv = a.sv ∨ m.getLsbD 14 = true
  same_nvc : b.nvc = a.nvc ∨ m.getLsbD 15 = true
  same_ra : b.ra = a.ra ∨ m.getLsbD 16 = true
  same_ci : b.ci = a.ci ∨ m.getLsbD 17 = true
  same_clr : b.clr = a.clr ∨ m.getLsbD 18 = true
  same_sec : b.sec = a.sec ∨ m.getLsbD 19 = true
  same_hp : b.hp = a.hp ∨ m.getLsbD 20 = true
  same_qp : b.qp = a.qp ∨ m.getLsbD 21 = true
  same_ev : b.ev = a.ev ∨ m.getLsbD 22 = true
  same_tm : b.tm = a.tm ∨ m.getLsbD 23 = true
  same_hl : b.hl = a.hl ∨ m.getLsbD 24 = true
  same_mem : b.mem = a.mem ∨ m.getLsbD 25 = true

/-- The parts that an answer of Slaot changes: its queues and mailboxes, what REPLAY reports, the numbers copied to MRAM,
and the response with its event. -/
def answerParts : List Part := [.out, .nv, .ret, .sl, .hp, .ev]
/-- The parts of the state that each command may change; every other part stays as it was. -/
def touches (i : Instr) : List Part :=
  match i with
  | .coldPowerUp => [.board, .boot, .ret, .hp, .tm]
  | .vauxLoss => [.out, .board, .boot, .nv, .ret, .sl, .hp]
  | .pwrGoodRise .. => answerParts ++ [.free, .board, .boot, .cfg, .et, .cn, .ps, .cl, .tb, .sv, .nvc, .ra, .ci, .clr, .sec, .qp, .tm, .hl, .mem]
  | .pwrGoodFall => [.board, .boot, .nv, .sl, .hp]
  | .standSupplyFault .. => answerParts ++ [.now, .board, .boot, .cfg, .et, .cn, .ps, .cl, .tb, .sv, .nvc, .ra, .ci, .clr, .sec, .qp, .tm, .hl]
  | .avsTargetCompute .. => [.now, .board]
  | .avsStep .. => [.now, .out, .board, .nv, .ret, .hp, .ev]
  | .pmbAlert .. => [.out, .nv, .ret, .hp, .ev]
  | .powerWindowEnd .. => [.now, .out, .board, .hp, .ev]
  | .thermalSensorRead .. => [.out, .board, .boot, .nv, .ret, .hp, .ev]
  | .sysrefLoss => [.out, .board, .hp, .ev]
  | .sysrefReturn => [.board]
  | .ethrefLoss .. => [.free, .out, .board, .nv, .ret, .et, .cn, .ps, .cl, .hp, .qp, .ev]
  | .ppsOutPulse => [.now, .out, .board, .tm]
  | .bootComplete => answerParts ++ [.now, .free, .board, .boot, .cfg, .et, .cn, .ps, .cl, .tb, .sv, .nvc, .ra, .ci, .clr, .sec, .qp, .tm, .hl]
  | .sysRstAssert => [.board, .boot, .nv, .sl, .hp]
  | .sysRstRelease .. => answerParts ++ [.free, .board, .boot, .cfg, .et, .cn, .ps, .cl, .tb, .sv, .nvc, .ra, .ci, .clr, .sec, .qp, .tm, .hl, .mem]
  | .perstAssert .. => [.now, .out, .board, .cfg, .sl, .tb, .nvc, .ra, .ci, .clr, .sec, .hp, .qp, .ev, .tm]
  | .perstRelease .. => [.out, .board, .hp, .ev]
  | .deviceReset => answerParts ++ [.now, .boot]
  | .deviceResetExpiry .. => answerParts ++ [.now, .free, .board, .boot, .cfg, .et, .cn, .ps, .cl, .tb, .sv, .nvc, .ra, .ci, .clr, .sec, .qp, .tm, .hl, .mem]
  | .deviceStore => answerParts ++ [.now]
  | .storeStep .. => answerParts ++ [.now, .boot]
  | .deviceUpdateStage => answerParts ++ [.now]
  | .stageVerifyEnd .. => answerParts ++ [.now]
  | .deviceUpdateActivate => answerParts ++ [.now, .boot, .hl]
  | .activationStep .. => answerParts ++ [.now, .boot, .ps, .cl, .sec, .hl]
  | .activationTimeout .. => [.now, .out, .boot, .sl, .hp, .ev]
  | .mailboxSubmit .. => [.out, .sl, .sec, .hp, .ev]
  | .requestBufferWrite .. => [.out, .sl, .sec, .hp, .ev]
  | .mbStatusClear .. => [.out, .sl, .sec, .hp, .ev]
  | .oobMessage .. => [.out, .sl]
  | .inbandDatagram .. => [.sl]
  | .opStatus => answerParts ++ [.now]
  | .opCancel => answerParts ++ [.now]
  | .deviceCaps => answerParts ++ [.now]
  | .deviceInfo => answerParts ++ [.now]
  | .devicePin => answerParts ++ [.now, .cfg]
  | .securityAssign => answerParts ++ [.now, .cfg]
  | .deviceInband => answerParts ++ [.now, .cfg]
  | .portGroup => answerParts ++ [.now, .cfg, .et, .cn, .ps, .cl, .qp]
  | .portSet => answerParts ++ [.now, .cfg, .et, .cn, .ps, .cl, .qp]
  | .portGet => answerParts ++ [.now, .free]
  | .portStats => answerParts ++ [.now]
  | .portRetrain => answerParts ++ [.now, .et, .cn, .ps, .cl, .qp]
  | .trainingFrameReceive .. => [.out, .et]
  | .trainingAlignmentComplete .. => [.et]
  | .trainingTimeout .. => [.now, .free, .out, .et, .hp, .ev]
  | .s200AttemptFail .. => [.now, .out, .et, .hp, .ev]
  | .trainingRestart .. => [.now, .out, .et]
  | .holdUpExpiry .. => [.now, .out, .et, .hp, .ev]
  | .laneLoss .. => [.out, .et, .cn, .ps, .cl, .hp, .qp, .ev]
  | .linkDegradedWindow .. => [.now, .out, .et, .hp, .ev]
  | .ethFrameFirstByte .. => [.cn, .hl]
  | .ethFrameLastBit .. => [.now, .free, .out, .nv, .ret, .cfg, .et, .cn, .ps, .cl, .tb, .sv, .ci, .hp, .qp, .ev, .hl]
  | .pfcFrameReceive .. => [.et]
  | .pauseFrameReceive .. => [.et]
  | .pauseExpiry .. => [.now, .et]
  | .pfcResend .. => [.now, .out, .et]
  | .trailResult .. => [.now, .free, .out, .nv, .ret, .cfg, .et, .cn, .ps, .cl, .tb, .sv, .ci, .hp, .qp, .ev, .hl]
  | .decisionRelease .. => [.out, .board, .et, .cn, .ps, .cl, .hp, .qp]
  | .windowReady .. => [.now, .out, .et, .cn, .ps, .cl, .hp, .qp, .ev]
  | .windowDispatch .. => [.cn, .ps]
  | .threadFrameStart .. => [.ps]
  | .spNop .. => [.free, .out, .nv, .ret, .et, .cn, .ps, .cl, .sv, .hp, .qp, .ev, .hl]
  | .spHalt .. => [.free, .out, .nv, .ret, .et, .cn, .ps, .cl, .sv, .hp, .qp, .ev, .hl]
  | .spExt .. => [.free, .out, .nv, .ret, .et, .cn, .ps, .cl, .sv, .hp, .qp, .ev, .hl]
  | .spExtm .. => [.free, .out, .nv, .ret, .et, .cn, .ps, .cl, .sv, .hp, .qp, .ev, .hl]
  | .spAdd .. => [.free, .out, .nv, .ret, .et, .cn, .ps, .cl, .sv, .hp, .qp, .ev, .hl]
  | .spSub .. => [.free, .out, .nv, .ret, .et, .cn, .ps, .cl, .sv, .hp, .qp, .ev, .hl]
  | .spAnd .. => [.free, .out, .nv, .ret, .et, .cn, .ps, .cl, .sv, .hp, .qp, .ev, .hl]
  | .spOr .. => [.free, .out, .nv, .ret, .et, .cn, .ps, .cl, .sv, .hp, .qp, .ev, .hl]
  | .spXor .. => [.free, .out, .nv, .ret, .et, .cn, .ps, .cl, .sv, .hp, .qp, .ev, .hl]
  | .spShl .. => [.free, .out, .nv, .ret, .et, .cn, .ps, .cl, .sv, .hp, .qp, .ev, .hl]
  | .spShr .. => [.free, .out, .nv, .ret, .et, .cn, .ps, .cl, .sv, .hp, .qp, .ev, .hl]
  | .spAddi .. => [.free, .out, .nv, .ret, .et, .cn, .ps, .cl, .sv, .hp, .qp, .ev, .hl]
  | .spSubi .. => [.free, .out, .nv, .ret, .et, .cn, .ps, .cl, .sv, .hp, .qp, .ev, .hl]
  | .spAndi .. => [.free, .out, .nv, .ret, .et, .cn, .ps, .cl, .sv, .hp, .qp, .ev, .hl]
  | .spOri .. => [.free, .out, .nv, .ret, .et, .cn, .ps, .cl, .sv, .hp, .qp, .ev, .hl]
  | .spXori .. => [.free, .out, .nv, .ret, .et, .cn, .ps, .cl, .sv, .hp, .qp, .ev, .hl]
  | .spShli .. => [.free, .out, .nv, .ret, .et, .cn, .ps, .cl, .sv, .hp, .qp, .ev, .hl]
  | .spShri .. => [.free, .out, .nv, .ret, .et, .cn, .ps, .cl, .sv, .hp, .qp, .ev, .hl]
  | .spLdi .. => [.free, .out, .nv, .ret, .et, .cn, .ps, .cl, .sv, .hp, .qp, .ev, .hl]
  | .spComp .. => [.free, .out, .nv, .ret, .et, .cn, .ps, .cl, .sv, .hp, .qp, .ev, .hl]
  | .spCompi .. => [.free, .out, .nv, .ret, .et, .cn, .ps, .cl, .sv, .hp, .qp, .ev, .hl]
  | .spBr .. => [.free, .out, .nv, .ret, .et, .cn, .ps, .cl, .sv, .hp, .qp, .ev, .hl]
  | .spBt .. => [.free, .out, .nv, .ret, .et, .cn, .ps, .cl, .sv, .hp, .qp, .ev, .hl]
  | .spBf .. => [.free, .out, .nv, .ret, .et, .cn, .ps, .cl, .sv, .hp, .qp, .ev, .hl]
  | .spBrx .. => [.free, .out, .nv, .ret, .et, .cn, .ps, .cl, .sv, .hp, .qp, .ev, .hl]
  | .spKey .. => [.free, .out, .nv, .ret, .et, .cn, .ps, .cl, .sv, .hp, .qp, .ev, .hl]
  | .spKeyw .. => [.free, .out, .nv, .ret, .et, .cn, .ps, .cl, .sv, .hp, .qp, .ev, .hl]
  | .spKeyi .. => [.free, .out, .nv, .ret, .et, .cn, .ps, .cl, .sv, .hp, .qp, .ev, .hl]
  | .spEmit .. => [.free, .out, .nv, .ret, .et, .cn, .ps, .cl, .sv, .hp, .qp, .ev, .hl]
  | .spThint .. => [.free, .out, .nv, .ret, .et, .cn, .ps, .cl, .sv, .hp, .qp, .ev, .hl]
  | .overrunFault .. => [.out, .et, .cn, .ps, .cl, .sv, .hp, .qp, .ev]
  | .fallThroughFault .. => [.out, .et, .cn, .ps, .cl, .sv, .hp, .qp, .ev]
  | .thintCandidateDeliver .. => [.cn, .ps, .sv]
  | .classParseStage => answerParts ++ [.now, .ps]
  | .classParseLoad => answerParts ++ [.now]
  | .parseBankSwitch .. => answerParts ++ [.now, .cfg, .ps, .sec]
  | .classParseGet => answerParts ++ [.now]
  | .classParseStats => answerParts ++ [.now]
  | .walkStart .. => [.cn, .cl]
  | .walkEnd .. => [.now, .free, .out, .nv, .ret, .et, .cn, .ps, .cl, .tb, .ci, .hp, .qp, .ev, .hl]
  | .classRuleStage => answerParts ++ [.now, .cl]
  | .classRouteStage => answerParts ++ [.now, .cl]
  | .classTreeInstall => answerParts ++ [.now, .cl]
  | .treeInstallStep .. => answerParts ++ [.now, .cl]
  | .classTreeGet => answerParts ++ [.now]
  | .classBuildGet => answerParts ++ [.now]
  | .classMeterSet => answerParts ++ [.now, .cfg, .cl]
  | .classMeterGet => answerParts ++ [.now]
  | .classActionStats => answerParts ++ [.now]
  | .classStats => answerParts ++ [.now]
  | .classLookup => answerParts ++ [.now]
  | .tblCmdRead .. => [.out, .cfg, .cl, .tb, .sv, .sec, .hp, .ev]
  | .tblCmdWrite .. => [.out, .cfg, .cl, .tb, .sv, .sec, .hp, .ev]
  | .tblCmdSearch .. => [.out, .cfg, .cl, .tb, .sv, .sec, .hp, .ev]
  | .tblCmdInsert .. => [.out, .cfg, .cl, .tb, .sv, .sec, .hp, .ev]
  | .tblCmdDelete .. => [.out, .cfg, .cl, .tb, .sv, .sec, .hp, .ev]
  | .tblCmdAgeStep .. => [.out, .cfg, .cl, .tb, .sv, .sec, .hp, .ev]
  | .tblDataWrite .. => [.out, .tb, .sec, .hp, .ev]
  | .tblStatusClear .. => [.out, .tb, .sec, .hp, .ev]
  | .tblResultPost .. => [.now, .out, .cfg, .cl, .tb, .sv, .hp, .ev]
  | .lookupPoisonRepair .. => [.out, .nv, .ret, .cfg, .cl, .tb, .sv, .hp, .ev]
  | .learnDecide => [.now, .out, .cfg, .cl, .tb, .sv, .hp, .ev]
  | .learnEngineTakeover => [.tb]
  | .ageSweepStep .. => [.now, .out, .cfg, .cl, .tb, .sv, .hp, .ev]
  | .tableRead => answerParts ++ [.now, .cfg, .cl, .tb, .sv]
  | .tableWrite => answerParts ++ [.now, .cfg, .cl, .tb, .sv]
  | .tableSearch => answerParts ++ [.now, .cfg, .cl, .tb, .sv]
  | .tableInsert => answerParts ++ [.now, .cfg, .cl, .tb, .sv]
  | .tableDelete => answerParts ++ [.now, .cfg, .cl, .tb, .sv]
  | .tableAgeStep => answerParts ++ [.now, .cfg, .cl, .tb, .sv]
  | .tableRehash => answerParts ++ [.now, .free, .cfg, .cl, .tb, .sv]
  | .rehashStep .. => answerParts ++ [.now, .cfg, .cl, .tb, .sv]
  | .tableInfo => answerParts ++ [.now]
  | .tablePartSet => answerParts ++ [.now, .cfg]
  | .tableLearnSet => answerParts ++ [.now, .cfg]
  | .tableFlush => answerParts ++ [.now]
  | .flushStep .. => answerParts ++ [.now, .cfg, .cl, .tb, .sv]
  | .tableStats => answerParts ++ [.now]
  | .planeIteration .. => [.now, .out, .et, .cn]
  | .lbConnection .. => [.now, .out, .et, .cn]
  | .transferUnitReceive .. => [.free, .out, .nv, .ret, .et, .cn, .ps, .cl, .hp, .qp, .ev, .hl]
  | .frameIncompleteTimeout .. => [.now, .out, .et, .cn, .ps, .cl, .qp]
  | .planeFailure .. => [.cn]
  | .planeDownReport .. => [.out, .nv, .ret, .cn, .hp, .ev]
  | .schedulerMismatch .. => [.now, .cn]
  | .canopyModeReport .. => [.out, .cn, .hp, .ev]
  | .lbModeSwitch .. => [.cn]
  | .healthCanopyGet => answerParts ++ [.now]
  | .healthCanopySet => answerParts ++ [.now, .cn]
  | .frameEligible .. => [.free, .out, .et, .cn, .ps, .cl, .clr, .hp, .qp]
  | .egressSchedule .. => [.now, .out, .et, .cn, .ps, .cl, .clr, .hp, .qp]
  | .frameTransmitEnd .. => [.now, .out, .et, .cn]
  | .sinkTake .. => [.out, .et, .cn, .tb, .sv, .ra, .clr, .sec, .hp, .qp, .ev]
  | .auditStart .. => [.now, .cn]
  | .auditEnd .. => [.out, .nv, .ret, .et, .cn, .hp, .ev]
  | .portEgressSet => answerParts ++ [.now, .cfg]
  | .portEgressGet => answerParts ++ [.now]
  | .portSliceSet => answerParts ++ [.now, .cfg]
  | .portSliceGet => answerParts ++ [.now]
  | .portMirrorSet => answerParts ++ [.now, .cfg, .cn]
  | .portMirrorGet => answerParts ++ [.now]
  | .hostLinkDown .. => [.now, .out, .cfg, .sl, .tb, .nvc, .ra, .ci, .clr, .sec, .hp, .qp, .ev, .tm]
  | .hostLinkUp .. => [.out, .hp, .ev]
  | .configRequest .. => [.now, .out, .cfg, .sl, .tb, .nvc, .ra, .ci, .clr, .sec, .hp, .qp, .ev, .tm]
  | .registerWrite .. => [.now, .out, .cfg, .sl, .cl, .tb, .sv, .nvc, .clr, .sec, .hp, .qp, .ev]
  | .busMasterDisable .. => [.now, .out, .ra, .ci, .clr, .sec, .hp, .qp, .ev]
  | .busMasterEnable .. => [.now, .out, .sec, .hp, .qp, .ev]
  | .flr .. => [.now, .out, .cfg, .sl, .tb, .nvc, .ra, .ci, .clr, .sec, .hp, .qp, .ev, .tm]
  | .flrComplete .. => [.out, .hp, .ev]
  | .vfCessation .. => [.now, .out, .cfg, .sl, .tb, .nvc, .ra, .ci, .clr, .sec, .hp, .qp, .ev, .tm]
  | .d3hotEntry .. => [.now, .out, .hp, .ev]
  | .d0Return .. => [.now, .out, .sec, .hp, .qp, .ev]
  | .pmeResend .. => [.now, .out, .hp]
  | .pmeTurnOff .. => [.out, .hp]
  | .cplTimeoutValueWrite .. => [.hp]
  | .cplTimeoutWrite .. => [.hp]
  | .pasidEnableClear .. => [.out, .ra, .ci, .clr, .sec, .hp, .qp, .ev]
  | .msixEnableSet .. => [.out, .hp]
  | .intxAckWrite .. => [.out, .hp]
  | .atsInvalidate .. => [.out, .hp]
  | .completionReceive .. => [.now, .out, .ra, .sec, .hp, .qp, .ev]
  | .completionTimeout .. => [.now, .out, .ra, .hp, .qp, .ev]
  | .tagQuarantineEnd .. => [.now, .out, .hp]
  | .aspmL1Entry .. => [.now, .hp]
  | .l1Exit .. => [.hp]
  | .queueHostSet => answerParts ++ [.now, .cfg]
  | .queueHostGet => answerParts ++ [.now]
  | .queueHostStats => answerParts ++ [.now]
  | .workPiWrite .. => [.out, .sec, .hp, .qp, .ev]
  | .cplCiWrite .. => [.out, .sec, .hp, .qp, .ev]
  | .qpCtrlStart .. => [.out, .sec, .hp, .qp, .ev]
  | .qpCtrlStop .. => [.out, .sec, .hp, .qp, .ev]
  | .qpCtrlReset .. => [.out, .sec, .hp, .qp, .ev]
  | .qpStoppingEnd .. => [.out, .ra, .ci, .clr, .hp, .qp, .ev]
  | .descriptorFetch .. => [.out, .sec, .hp, .qp, .ev]
  | .jobStart .. => [.out, .ra, .ci, .sec, .hp, .qp, .ev]
  | .cqStallTimeout .. => [.now, .out, .hp, .qp, .ev]
  | .jobComplete .. => [.out, .sec, .hp, .qp, .ev]
  | .qpNop .. => [.qp]
  | .counterWait .. => [.qp]
  | .counterWaitSatisfied .. => [.qp]
  | .counterWaitTimeout .. => [.now, .qp]
  | .tx .. => [.cn, .qp]
  | .rxPost .. => [.qp]
  | .rxDelivery .. => [.out, .et, .cn, .sec, .hp, .qp, .ev]
  | .queueQpSet => answerParts ++ [.now, .qp]
  | .queueQpGet => answerParts ++ [.now]
  | .queueQpStateStart => answerParts ++ [.now, .sec, .qp]
  | .queueQpStateStop => answerParts ++ [.now, .sec, .qp]
  | .queueQpStateReset => answerParts ++ [.now, .sec, .qp]
  | .queueQpStats => answerParts ++ [.now]
  | .eventDelivery .. => [.out, .sec, .hp, .ev]
  | .eqCiWrite .. => [.now, .out, .sec, .hp, .ev]
  | .eqCtrlEnable .. => [.now, .out, .sec, .hp, .ev]
  | .eqCtrlDisable .. => [.now, .out, .sec, .hp, .ev]
  | .eqCtrlInvalid .. => [.out, .sec, .hp, .ev]
  | .interruptSend .. => [.now, .out, .hp, .ev]
  | .eventEqSet => answerParts ++ [.now]
  | .eventEqGet => answerParts ++ [.now]
  | .eventEqStateEnable => answerParts ++ [.now, .sec]
  | .eventEqStateDisable => answerParts ++ [.now, .sec]
  | .eventEqStateReset => answerParts ++ [.now, .sec]
  | .eventModSet => answerParts ++ [.now, .cfg]
  | .eventRouteSet => answerParts ++ [.now, .cfg]
  | .eventRouteGet => answerParts ++ [.now]
  | .eventGroupSet => answerParts ++ [.now, .cfg]
  | .eventStats => answerParts ++ [.now]
  | .svcInstruction .. => [.now, .free, .out, .cfg, .et, .cn, .cl, .tb, .sv, .ra, .sec, .hp, .qp, .ev, .hl, .mem]
  | .threadFault .. => [.out, .et, .cn, .sv, .hp, .ev]
  | .stillnessDetect .. => [.now, .out, .sv, .hp, .ev]
  | .chPut .. => [.now, .free, .out, .cfg, .et, .cn, .cl, .tb, .sv, .ra, .sec, .hp, .qp, .ev, .hl, .mem]
  | .chSend .. => [.now, .free, .out, .cfg, .et, .cn, .cl, .tb, .sv, .ra, .sec, .hp, .qp, .ev, .hl, .mem]
  | .chRecv .. => [.now, .free, .out, .cfg, .et, .cn, .cl, .tb, .sv, .ra, .sec, .hp, .qp, .ev, .hl, .mem]
  | .chGet .. => [.now, .free, .out, .cfg, .et, .cn, .cl, .tb, .sv, .ra, .sec, .hp, .qp, .ev, .hl, .mem]
  | .chPoll .. => [.now, .free, .out, .cfg, .et, .cn, .cl, .tb, .sv, .ra, .sec, .hp, .qp, .ev, .hl, .mem]
  | .channelStale .. => [.now, .out, .sv, .hp, .ev]
  | .chRelease .. => [.sv]
  | .svcRestartWrite .. => [.sv]
  | .groveRestartWrite .. => [.free, .out, .cfg, .et, .cn, .cl, .tb, .sv, .sec, .hp, .ev, .hl, .mem]
  | .groveServiceRestart .. => [.out, .et, .cn, .tb, .sv, .nvc, .hp, .ev]
  | .frmTake .. => [.free, .out, .cfg, .et, .cn, .cl, .tb, .sv, .sec, .hp, .ev, .hl, .mem]
  | .frmAlloc .. => [.free, .out, .cfg, .et, .cn, .cl, .tb, .sv, .sec, .hp, .ev, .hl, .mem]
  | .frmSend .. => [.free, .out, .cfg, .et, .cn, .cl, .tb, .sv, .sec, .hp, .ev, .hl, .mem]
  | .frmFree .. => [.free, .out, .cfg, .et, .cn, .cl, .tb, .sv, .sec, .hp, .ev, .hl, .mem]
  | .logCiWrite .. => [.free, .out, .cfg, .et, .cn, .cl, .tb, .sv, .sec, .hp, .ev, .hl, .mem]
  | .candCiWrite .. => [.free, .out, .cfg, .et, .cn, .cl, .tb, .sv, .sec, .hp, .ev, .hl, .mem]
  | .serviceStage => answerParts ++ [.now, .sv]
  | .serviceLoad => answerParts ++ [.now]
  | .serviceLoadStep .. => answerParts ++ [.now, .et, .cn, .tb, .sv, .nvc, .sec]
  | .serviceGet => answerParts ++ [.now]
  | .serviceStats => answerParts ++ [.now]
  | .serviceNvmeSet => answerParts ++ [.now, .cfg]
  | .serviceNvmeNsSet => answerParts ++ [.now, .cfg, .nvc, .sec]
  | .serviceSlowpathSet => answerParts ++ [.now, .cfg]
  | .servicePolicySet => answerParts ++ [.now, .cfg, .sv]
  | .serviceLearnRead => answerParts ++ [.now]
  | .slowpathFrame .. => [.out, .et, .cn, .tb, .sv, .hp, .ev]
  | .policyCandidate .. => [.out, .tb, .sv, .hp, .ev]
  | .learnLogMove => [.tb, .sv]
  | .nvmeCcWrite .. => [.out, .nvc, .sec, .hp, .ev]
  | .nvmeSqTailDoorbell .. => [.out, .nvc, .sec, .hp, .ev]
  | .nvmeCqHeadDoorbell .. => [.out, .nvc, .sec, .hp, .ev]
  | .nvCreateIoSq .. => [.now, .free, .out, .nvc, .ra, .sec, .hp, .qp, .ev]
  | .nvDeleteIoSq .. => [.now, .free, .out, .nvc, .ra, .sec, .hp, .qp, .ev]
  | .nvCreateIoCq .. => [.now, .free, .out, .nvc, .ra, .sec, .hp, .qp, .ev]
  | .nvDeleteIoCq .. => [.now, .free, .out, .nvc, .ra, .sec, .hp, .qp, .ev]
  | .nvGetLogPage .. => [.now, .free, .out, .nvc, .ra, .sec, .hp, .qp, .ev]
  | .nvIdentify .. => [.now, .free, .out, .nvc, .ra, .sec, .hp, .qp, .ev]
  | .nvAbort .. => [.now, .free, .out, .nvc, .ra, .sec, .hp, .qp, .ev]
  | .nvSetFeatures .. => [.now, .free, .out, .nvc, .ra, .sec, .hp, .qp, .ev]
  | .nvGetFeatures .. => [.now, .free, .out, .nvc, .ra, .sec, .hp, .qp, .ev]
  | .nvAsyncEventRequest .. => [.now, .free, .out, .nvc, .ra, .sec, .hp, .qp, .ev]
  | .nvInvalidOpcode .. => [.now, .free, .out, .nvc, .ra, .sec, .hp, .qp, .ev]
  | .nvFlush .. => [.now, .free, .out, .et, .cn, .sv, .nvc, .ra, .sec, .hp, .qp, .ev]
  | .nvWrite .. => [.now, .free, .out, .et, .cn, .sv, .nvc, .ra, .sec, .hp, .qp, .ev]
  | .nvRead .. => [.now, .free, .out, .et, .cn, .sv, .nvc, .ra, .sec, .hp, .qp, .ev]
  | .nvWriteZeroes .. => [.now, .free, .out, .et, .cn, .sv, .nvc, .ra, .sec, .hp, .qp, .ev]
  | .nvDatasetManagement .. => [.now, .free, .out, .et, .cn, .sv, .nvc, .ra, .sec, .hp, .qp, .ev]
  | .nvmeIoTimeout .. => [.now, .out, .nvc, .sec, .hp, .ev]
  | .remoteKeySet => answerParts ++ [.now, .ra]
  | .remoteKeyGet => answerParts ++ [.now]
  | .remoteKeyRevoke => answerParts ++ [.now, .ra]
  | .keyRevokeDrained .. => [.out, .ra, .hp, .ev]
  | .remoteConnSet => answerParts ++ [.now, .ra]
  | .remoteConnGet => answerParts ++ [.now]
  | .remoteConnReset => answerParts ++ [.now, .ra, .qp]
  | .remoteEngineSet => answerParts ++ [.now, .cfg]
  | .remoteStats => answerParts ++ [.now]
  | .remoteWrite .. => [.free, .out, .cn, .ra, .hp, .qp, .ev]
  | .remoteRead .. => [.free, .out, .cn, .ra, .hp, .qp, .ev]
  | .remoteSend .. => [.free, .out, .cn, .ra, .hp, .qp, .ev]
  | .recvPost .. => [.ra, .qp]
  | .atomicAdd .. => [.free, .out, .cn, .ra, .hp, .qp, .ev]
  | .cas64 .. => [.free, .out, .cn, .ra, .hp, .qp, .ev]
  | .cas128 .. => [.free, .out, .cn, .ra, .hp, .qp, .ev]
  | .writePacketReceive .. => [.free, .out, .cn, .ra, .sec, .hp, .qp, .ev, .hl, .mem]
  | .readReqReceive .. => [.now, .free, .out, .cn, .ra, .sec, .hp, .qp, .ev]
  | .readRespReceive .. => [.free, .out, .cn, .ra, .sec, .hp, .qp, .ev]
  | .sendPacketReceive .. => [.free, .out, .cn, .ra, .sec, .hp, .qp, .ev]
  | .atomicReqReceive .. => [.now, .free, .out, .cn, .ra, .sec, .hp, .qp, .ev, .hl, .mem]
  | .atomicRespReceive .. => [.free, .out, .cn, .ra, .sec, .hp, .qp, .ev]
  | .ackReceive .. => [.free, .out, .cn, .ra, .hp, .qp, .ev]
  | .nakReceive .. => [.free, .out, .cn, .ra, .hp, .qp, .ev]
  | .rocev2PacketReceive .. => [.now, .free, .out, .cn, .ra, .sec, .hp, .qp, .ev, .hl, .mem]
  | .retransmitTimeout .. => [.now, .free, .out, .cn, .ra, .hp, .qp, .ev]
  | .rnrDelayExpiry .. => [.now, .free, .cn, .ra]
  | .contextExpiry .. => [.now, .ra, .qp]
  | .cwndWindow .. => [.now, .ra]
  | .cipherKeySet => answerParts ++ [.now, .ci]
  | .cipherKeyGet => answerParts ++ [.now]
  | .cipherKeyDestroy => answerParts ++ [.now, .ci]
  | .keyEntryZeroize .. => [.ci]
  | .cipherSaSet => answerParts ++ [.now, .ci]
  | .cipherSaGet => answerParts ++ [.now]
  | .cipherSaDestroy => answerParts ++ [.now, .ci]
  | .cipherQpBind => answerParts ++ [.now, .qp]
  | .cipherEngineSet => answerParts ++ [.now, .cfg]
  | .cipherStats => answerParts ++ [.now]
  | .aeadSeal .. => [.ci, .qp]
  | .aeadOpen .. => [.ci, .qp]
  | .xtsEnc .. => [.ci, .qp]
  | .xtsDec .. => [.ci, .qp]
  | .tlsSeal .. => [.ci, .qp]
  | .tlsOpen .. => [.ci, .qp]
  | .urgentPreempt .. => [.ci]
  | .bulkResume .. => [.ci]
  | .cipherMessageEnd .. => [.out, .et, .cn, .ci, .sec, .hp, .qp, .ev]
  | .espOutbound .. => [.out, .et, .cn, .ci, .hp, .ev]
  | .espInbound .. => [.out, .et, .cn, .ci, .hp, .ev]
  | .clearingRent => answerParts ++ [.now, .clr]
  | .clearingRentStep .. => answerParts ++ [.now, .cfg, .clr, .hl, .mem]
  | .clearingRelease => answerParts ++ [.now, .clr]
  | .clearingReleaseStep .. => answerParts ++ [.now, .cfg, .et, .cn, .clr, .qp, .hl, .mem]
  | .clearingStage => answerParts ++ [.now, .clr]
  | .clearingStageHost => answerParts ++ [.now, .clr]
  | .clearingLoad => answerParts ++ [.now, .clr]
  | .clearingLoadStep .. => answerParts ++ [.now, .clr]
  | .clearingUnload => answerParts ++ [.now]
  | .clearingGet => answerParts ++ [.now]
  | .clearingQpBind => answerParts ++ [.now, .clr, .qp]
  | .clearingLineBind => answerParts ++ [.now, .clr]
  | .clearingCtrl => answerParts ++ [.now, .free, .clr]
  | .clearingMeterSet => answerParts ++ [.now, .cfg, .clr]
  | .clearingMeterRead => answerParts ++ [.now]
  | .clearingStats => answerParts ++ [.now]
  | .shellClockStart .. => [.now, .out, .sl, .clr, .hp, .ev]
  | .shellResetRelease .. => [.now, .out, .sl, .clr, .hp, .ev]
  | .clearingRunning .. => [.now, .out, .sl, .clr, .hp, .ev]
  | .streamRxFrame .. => [.out, .et, .cn, .clr, .hp, .ev]
  | .streamTxFrame .. => [.out, .cn, .clr, .hp, .ev]
  | .memCommand .. => [.out, .clr, .sec, .hp, .ev]
  | .memWriteData .. => [.clr, .hl, .mem]
  | .memResponse .. => [.out, .clr]
  | .h2c .. => [.clr, .qp]
  | .c2hPost .. => [.clr, .qp]
  | .h2cMessage .. => [.out, .clr, .hp, .qp, .ev]
  | .c2hMessage .. => [.out, .clr, .sec, .hp, .qp, .ev]
  | .eventLineFire .. => [.out, .clr, .hp, .ev]
  | .controlRequest .. => [.out, .clr, .sec, .hp, .ev]
  | .controlAnswer .. => answerParts ++ [.clr]
  | .controlReadTimeout .. => answerParts ++ [.now, .clr]
  | .clearingPowerWindow .. => [.now, .out, .ret, .sl, .et, .cn, .clr, .hp, .qp, .ev]
  | .configMemoryError .. => answerParts ++ [.free, .et, .cn, .clr, .qp, .hl]
  | .meterWindowClose .. => [.now, .out, .clr, .hp, .ev]
  | .firebreakSet => answerParts ++ [.now, .cfg]
  | .firebreakGet => answerParts ++ [.now]
  | .firebreakMapSet => answerParts ++ [.now, .cfg]
  | .firebreakMapGet => answerParts ++ [.now]
  | .firebreakLogRead => answerParts ++ [.now]
  | .securityWrapkeySet => answerParts ++ [.now, .sec]
  | .securityCmdkeySet => answerParts ++ [.now, .sec]
  | .securityVerifykeySet => answerParts ++ [.now, .sec]
  | .securityFloorSet => answerParts ++ [.now, .sec]
  | .securityDebugSet => answerParts ++ [.now, .sec]
  | .debugWindowClose .. => [.now, .sec]
  | .jtagDebugAccess .. => [.out, .sv]
  | .securityIdentityGet => answerParts ++ [.now]
  | .securityAttest => answerParts ++ [.now]
  | .attestComplete .. => answerParts ++ [.now, .sec]
  | .securityReportGet => answerParts ++ [.now]
  | .securityKeysGet => answerParts ++ [.now]
  | .timeConfig => answerParts ++ [.now, .cfg, .tm]
  | .timeSetDelta => answerParts ++ [.now, .cfg, .cl, .tb, .sv, .clr, .tm]
  | .timeSetAtEdge => answerParts ++ [.now, .tm]
  | .timeSetEdgeTimeout => answerParts ++ [.now, .tm]
  | .timeAdjust => answerParts ++ [.now, .cfg, .cl, .tb, .sv, .clr, .tm]
  | .timeGet => answerParts ++ [.now]
  | .ppsInEdge .. => answerParts ++ [.now, .free, .cfg, .cl, .tb, .sv, .clr, .tm]
  | .timeHoldover => [.now, .out, .hp, .ev, .tm]
  | .scrubRead .. => answerParts ++ [.free, .et, .cn, .ps, .cl, .tb, .sv, .ci, .clr, .qp, .hl]
  | .unitFailure .. => answerParts ++ [.now, .boot, .cfg, .et, .cn, .ps, .cl, .tb, .sv, .nvc, .ra, .ci, .clr, .sec, .qp, .tm, .hl]
  | .treeBankRemap .. => [.cl, .hl]
  | .groveFailure .. => answerParts ++ [.et, .cn, .ps, .cl, .ra, .ci, .clr, .qp, .hl]
  | .wardenHeartbeat => [.now, .hl]
  | .wardenHeartbeatTimeout => [.now, .hl]
  | .wardenTakeoverActive => answerParts ++ [.boot, .clr, .sec, .tm, .hl]
  | .failedCoreTest .. => [.out, .nv, .ret, .hp, .ev, .hl]
  | .wardenDoubleFailure .. => answerParts ++ [.now, .free, .board, .boot, .cfg, .et, .cn, .ps, .cl, .tb, .sv, .nvc, .ra, .ci, .clr, .sec, .qp, .tm, .hl, .mem]
  | .logFlush => [.now, .nv, .ret, .hl]
  | .healthGet => answerParts ++ [.now]
  | .healthLogRead => answerParts ++ [.now]
  | .entryThaw .. => [.now, .out, .cfg, .cl, .tb, .sv, .hp, .ev]
  | .clearingUnloadStep .. => answerParts ++ [.now, .et, .cn, .clr, .qp]
  | .clearingStageHostStep .. => answerParts ++ [.now, .ra, .clr, .sec, .qp]
  | .msixTableEntryUnmask .. => [.out, .hp]

end Sys2Proof.Machine
end

