-- ==== Sys2Proof/Certificates/Slice0/Obligations.lean ====
section
/-! DEFINITION. The statements about the block, in the order of the spec's chapters: first what holds of every command, then
each family of commands. Each statement's docstring names the rules it comes from; a clause that ends in `exec c s = .next t`
also says where the command completes. -/
open Sys2Proof Sys2Proof.Machine

/-- A step takes the command at the front of the queue and runs it with the queue's rest. With an empty queue 0.25 ns
pass: an operation on the lookup tables whose cycle has ended by then takes effect (08 R233), the command arbiter
takes what has waited for its cycle (04 R119), and nothing else changes; that a step passes 0.25 ns is the model's
choice (assumption log 2). -/
def Obligations.StepRunsTheFrontCommand : Prop :=
  (∀ (s : State) (c : Instr) (rest : List Instr), s.pending = c :: rest → step s = exec c { s with pending := rest }) ∧
  (∀ s : State, s.pending = [] → step s = .next { s with now := s.now + 1 }.tblRunDue.drain) ∧
  (∀ s : State, s.pending = [] → s.tb.ops = [] → s.sl.arb = [] → step s = .next { s with now := s.now + 1 })

/-- The state right after VAUX has risen (02 R47, R50; 03 R85; 20 R594): retained RAM holds nothing valid, the part is off
with its transmitters squelched and DMA stopped, nothing waits, nothing is stored in package memory, device time is 0
and nothing is configured. It has the form that every step keeps. -/
def Obligations.ResetState : Prop :=
  State.reset.pending = [] ∧ Memory.wf State.reset.mem = true ∧ State.reset.mem = [] ∧
  State.reset.board.vaux = true ∧ State.reset.board.retainedValid = false ∧ State.reset.board.pwrGood = false ∧
  State.reset.board.squelched = true ∧ State.reset.board.dmaStopped = true ∧ State.reset.boot.phase = .off ∧
  State.reset.serving = false ∧ State.reset.time = 0 ∧ State.reset.tm.state = 0 ∧ State.reset.cfg = {} ∧
  State.reset.sl = {} ∧ State.reset.cn.frames = [] ∧ State.reset.out = [] ∧
  (∀ i, State.reset.board.vcoreOf i = 750) ∧ (∀ i, (State.reset.counterOf i).last = 0) ∧ (∀ q, (State.reset.qpOf q).state = 0) ∧
  ∀ e, (State.reset.eq e).state = 0

/-- Every command has an answer in every state, and it is a next state: a command whose condition does not hold changes
nothing, a request of a function is answered with a status, and no failure of a unit stops the block (the model's
reading of an event that cannot happen is assumption log 3's). -/
def Obligations.EveryCommandAnswers : Prop :=
 ∀ (c : Instr) (s : State), ∃ t, exec c s = .next t

/-- What a command does not touch: no command, whatever its operands and the state it meets, changes a part of the state
that `touches` does not list for it. This is the frame of every row of the command table. -/
def Obligations.CommandsChangeOnlyTheirParts : Prop :=
  ∀ (c : Instr) (s t : State), exec c s = .next t → ∀ p : Part, p ∉ touches c → s.same p t

/-- What every step keeps, from every state: package memory stays in its canonical form, time and the count of free values
never go back, what has left the part stays written down, the variant and the stepping stay, and the queue loses the
command at its front and no other. -/
def Obligations.StepsKeepMemoryTimeAndQueue : Prop :=
  ∀ (s t : State), step s = .next t → Memory.wf s.mem = true →
    Memory.wf t.mem = true ∧ s.now ≤ t.now ∧ s.free ≤ t.free ∧ (∃ l, t.out = s.out ++ l) ∧ t.variant = s.variant ∧
    t.stepping = s.stepping ∧ t.pending = s.pending.tail

/-- 02, 03: the power, reset and PERST_N rows. Every row leaves alone what it does not name. -/
def Obligations.PowerAndResetPins : Prop :=
  -- COLD_POWER_UP: VAUX rises; nothing in retained RAM is valid and device time counts from 0 in state FREE.
  (∀ s : State, s.board.vaux = false → ∃ t, exec .coldPowerUp s = .next t ∧
    t.board = { s.board with vaux := true, retainedValid := false, squelched := true, dmaStopped := true, vcore := [], avsTarget := [] } ∧
    t.boot = { s.boot with phase := .off, nextStart := .cold } ∧ t.ret = {} ∧ t.hp = {} ∧ t.time = 0 ∧ t.tm.state = 0 ∧
    t = { s with board := t.board, boot := t.boot, ret := t.ret, tm := t.tm, hp := t.hp }) ∧
  -- VAUX_LOSS: the part is off, Slaot forgets its requests, MRAM keeps all but a slot whose STORE was cut off, and THERM_N goes.
  (∀ s : State, s.board.vaux = true → ∃ t, exec .vauxLoss s = .next t ∧
    t.board = { s.board with vaux := false, pwrGood := false, retainedValid := false, squelched := true, dmaStopped := true
                             therm := false, wake := [] } ∧
    t.boot = { s.boot with phase := .off, nextStart := .cold, resetAt := none } ∧ t.sl = {} ∧ t.hp = {} ∧
    t.ret.logBuf = [] ∧ t.ret.counters = [] ∧ t.nv = s.cutStores.nv ∧ (s.sl.ops = [] → t.nv = s.nv) ∧
    t.out = (if s.board.therm = true then s.out ++ [.therm false] else s.out) ∧
    t = { s with board := t.board, boot := t.boot, ret := t.ret, sl := t.sl, nv := t.nv, hp := t.hp, out := t.out }) ∧
  -- PWR_GOOD_RISE: VCORE stands at 0.75 V everywhere and no stand is held; SYS_RST_N low holds the start back, else it begins.
  (∀ (s : State) (m : BootReads), s.board.vaux = true → s.board.pwrGood = false →
    let b := { s.board with pwrGood := true, vcore := [], standHeld := [] }
    exec (.pwrGoodRise m) s =
      .next (if s.board.sysRstN then { s with board := b }.restart m (if s.board.retainedValid then .warm else .cold)
        else { s with
          board := { b with squelched := true, dmaStopped := true }, boot := { s.boot with phase := .held }
          hp := s.hp.sticky })) ∧
  -- PWR_GOOD_FALL: the transmitters are squelched, DMA stops, no host link is up, and retained RAM keeps what it holds.
  (∀ s : State, s.board.pwrGood = true → ∃ t, exec .pwrGoodFall s = .next t ∧
    t.board = { s.board with pwrGood := false, squelched := true, dmaStopped := true } ∧
    t.boot = { s.boot with phase := .off } ∧ t.sl = {} ∧ t.hp = s.hp.sticky ∧ (∀ p, (t.port p).up = false) ∧
    t.nv = s.cutStores.nv ∧ (s.sl.ops = [] → t.nv = s.nv) ∧
    t = { s with board := t.board, boot := t.boot, sl := t.sl, nv := t.nv, hp := t.hp }) ∧
  -- SYS_RST_ASSERT: a part that is not off or halted is held.
  (∀ s : State, s.boot.phase ≠ .off → s.boot.phase ≠ .halted → s.boot.phase ≠ .held →
    ∃ t, exec .sysRstAssert s = .next t ∧
      t.board = { s.board with sysRstN := false, squelched := true, dmaStopped := true } ∧
      t.boot = { s.boot with phase := .held } ∧ t.sl = {} ∧ t.hp = s.hp.sticky ∧
      t.nv = { s with board := { s.board with sysRstN := false } }.cutStores.nv ∧ (s.sl.ops = [] → t.nv = s.nv) ∧
      t = { s with board := t.board, boot := t.boot, sl := t.sl, nv := t.nv, hp := t.hp }) ∧
  -- SYS_RST_ASSERT on a part that is off, halted or held only holds the pin.
  (∀ s : State, s.boot.phase = .off ∨ s.boot.phase = .halted ∨ s.boot.phase = .held →
    exec .sysRstAssert s = .next { s with board := { s.board with sysRstN := false } }) ∧
  -- SYS_RST_RELEASE: a held part starts, warm when retained RAM is valid; any other part sees the pin alone.
  (∀ (s : State) (m : BootReads), exec (.sysRstRelease m) s = .next (
    let u := { s with board := { s.board with sysRstN := true } }
    if s.boot.phase = .held then u.restart m (if s.board.retainedValid then .warm else .cold) else u)) ∧
  -- PERST_ASSERT takes a link down with REASON 1, and resets the functions of a port whose link is down.
  (∀ (s : State) (p : Nat), p < s.groves → SMap.getD s.board.perstN p false = true →
    let s' := { s with board := { s.board with perstN := SMap.set s.board.perstN p false } }
    exec (.perstAssert p) s = .next (if (s.port p).up then s'.linkLost p 1 else s'.resetPort p)) ∧
  -- PERST_RELEASE: WAKE_N of the port goes, and its link trains to the rate and the width of a host link, to the full endpoint once the device serves.
  (∀ (s : State) (p : Nat) (l : HostLink), p < s.groves → SMap.getD s.board.perstN p false = false →
    let u := { s with board := { s.board with perstN := SMap.set s.board.perstN p true } }.releaseWake p
    exec (.perstRelease p l.rate l.toLinkForm) s = .next (
      if (s.serving = true ∨ s.boot.phase = .booting) ∧ linkForm l = true then u.linkRaise p l else u)) ∧
  -- A link that trains: what the port then holds. A host port that is lost or held with its stand does not train.
  (∀ (s : State) (p : Nat) (l : HostLink), s.isFenced 0x0A p 0 = false → SMap.getD s.board.standHeld (p / 4) false = false →
    let t := s.linkRaise p l
    (t.port p).up = true ∧ (t.port p).rate = l.rate ∧ (t.port p).width = l.width ∧ (t.port p).full = s.serving ∧
      t = { s with hp := t.hp, ev := t.ev, out := t.out }) ∧
  (∀ (s : State) (p : Nat) (l : HostLink), s.isFenced 0x0A p 0 = true ∨ SMap.getD s.board.standHeld (p / 4) false = true →
    s.linkRaise p l = s)

/-- 02 R40 to R45: the supply rows: AVS targets and steps, regulator alerts, the power limit and a stand's supply. 02 R53
to R63: temperature, reference clocks and 1PPS_OUT. Where the spec leaves a choice or a value open, the clauses follow
assumption log entry 53: there they state the model's choice. -/
def Obligations.SupplyThermalAndClockRows : Prop :=
  -- AVS_TARGET_COMPUTE: 25 mV above each voltage given, rounded up to 5 mV, within 0.55 V and 0.75 V; at least 24 h after the last computation.
  (∀ (s : State) (l : List Nat), s.running = true →
    ∃ t, exec (.avsTargetCompute l) s = .next t ∧
      (∀ i v, i < 4 → l[i]? = some v → t.board.target i = max 550 (min 750 ((v + 25 + 4) / 5 * 5))) ∧
      (∀ i, 4 ≤ i ∨ l[i]? = none → t.board.target i = s.board.target i) ∧
      t.board.avsLast = some t.clk ∧
      t.now = (match s.board.avsLast with | none => s.now | some a => (s.upToClk (a + ms 86400000)).now) ∧
      t = { s with now := t.now, board := { s.board with avsTarget := t.board.avsTarget, avsLast := t.board.avsLast } }) ∧
  -- AVS_STEP on a rail that is not stopped and not at its target: VCORE goes toward it by at most 10 mV, at least 50 µs after the last step; the third failure in a row stops the rail.
  (∀ (s : State) (i r : Nat) (ack : Bool), s.running = true → i < 4 → s.hl.takeover = none →
    SMap.getD s.board.avsStopped i false = false → s.board.vcoreOf i ≠ s.board.target i →
    let v := if s.board.vcoreOf i < s.board.target i then min (s.board.target i) (s.board.vcoreOf i + 10)
      else max (s.board.target i) (s.board.vcoreOf i - 10)
    let s' := s.upToClk (SMap.getD s.board.avsStepLast i 0 + us 50)
    let b := { s'.board with avsStepLast := SMap.set s'.board.avsStepLast i s'.clk }
    let u := { s' with board := b, out := s'.out ++ [Out.vout i v] }
    let n := SMap.getD s.board.avsFails i 0 + 1
    exec (.avsStep i ack r) s = .next (
      if ack = true ∧ 1000 * (max v r - min v r) ≤ 15 * v then
        { u with board := { b with vcore := SMap.set b.vcore i v, avsFails := SMap.del b.avsFails i } }
      else if n < 3 then { u with board := { b with avsFails := SMap.set b.avsFails i n } }
      else { u with board :=
        { b with avsStopped := SMap.set b.avsStopped i true, avsFails := SMap.del b.avsFails i } }.avsFault (0x40 + i))) ∧
  -- AVS_STEP on a stopped rail: a success lets AVS go on.
  (∀ (s : State) (i r : Nat) (ack : Bool), s.running = true → i < 4 → s.hl.takeover = none →
    SMap.getD s.board.avsStopped i false = true →
    let v := s.board.vcoreOf i
    exec (.avsStep i ack r) s = .next (
      if ack = true ∧ 1000 * (max v r - min v r) ≤ 15 * v then
        { s with board := { s.board with avsStopped := SMap.del s.board.avsStopped i, avsFails := SMap.del s.board.avsFails i } }
      else s)) ∧
  -- AVS_STEP on a rail at its target, and during a takeover of the warden's cores, commands nothing.
  (∀ (s : State) (i r : Nat) (ack : Bool), s.running = true → i < 4 →
    s.hl.takeover.isSome = true ∨ (SMap.getD s.board.avsStopped i false = false ∧ s.board.vcoreOf i = s.board.target i) →
    exec (.avsStep i ack r) s = .next s) ∧
  -- PMB_ALERT: each regulator with a fault, in the order read, is logged and raises EV_AVS_FAULT.
  (∀ (s : State) (l : List (Nat × Nat)), s.serving = true →
    let faulty := (l.filter fun x => [0x40, 0x41, 0x42, 0x43, 0x48, 0x49, 0x4A, 0x4B, 0x4C].contains x.1 && x.2 != 0).map (·.1)
    exec (.pmbAlert l) s = .next (faulty.foldl (fun u a =>
      (u.log (if a < 0x44 then ⟨4, a - 0x40, 0, 0, 0, 0⟩ else ⟨5, 0, 0, 0, 0, 0⟩) 0xD 1 (BitVec.ofNat 32 a)).fireAll 241
        0x0D01 (BitVec.ofNat 32 a)) s)) ∧
  -- POWER_WINDOW_END: the sum of the rails is judged at the end of the millisecond. Above 2,400 W, or while hot, one step of throttling, at most four; at or below 2,300 W one step back; the first and the last raise EV_POWER_LIMIT.
  (∀ (s : State) (l : List RailPower), s.running = true →
    let mw := (l.map fun r => r.telemetry.getD r.estimate).sum
    let b := s.board
    let u := s.upTo ((s.now / ms 1 + 1) * ms 1)
    exec (.powerWindowEnd l) s = .next (
      if 2400000 < mw ∧ b.powerThrottling = false then
        { u with board := { b with throttle := min 4 (b.throttle + 1), powerThrottling := true } }.fireAll 241 0x0D02
          (BitVec.ofNat 32 (65536 * min (mw / 1000) 65535 + 1))
      else if 2400000 < mw ∨ b.thermalThrottling = true then { u with board := { b with throttle := min 4 (b.throttle + 1) } }
      else if mw ≤ 2300000 then
        if b.powerThrottling = true ∧ b.throttle ≤ 1 then
          { u with board := { b with throttle := 0, powerThrottling := false } }.fireAll 241 0x0D02
            (BitVec.ofNat 32 (65536 * min (mw / 1000) 65535))
        else { u with board := { b with throttle := b.throttle - 1 } }
      else u)) ∧
  -- STAND_SUPPLY_FAULT: the stand is held and its host links go down; while the device runs its replicas, its learn engine and its four groves fail.
  (∀ (s : State) (i : Nat), s.powered = true → s.boot.phase ≠ .halted → i < 4 → SMap.getD s.board.standHeld i false = false →
    let u := { s with board := { s.board with standHeld := SMap.set s.board.standHeld i true } }.dropLinks i
    exec (.standSupplyFault i) s = .next (if u.running then u.failStand i else u)) ∧
  -- STAND_SUPPLY_FAULT of a stand that is held already, or of a part that is off or halted, changes nothing.
  (∀ (s : State) (i : Nat), s.powered = false ∨ s.boot.phase = .halted ∨ SMap.getD s.board.standHeld i false = true →
    exec (.standSupplyFault i) s = .next s) ∧
  -- The groves of a stand that fails are failed.
  (∀ (s : State) (i g : Nat), g < s.groves → g / 4 = i → (s.failStand i).groveFailed g = true) ∧
  -- THERMAL_SENSOR_READ: the reading is kept, and the device acts on its hottest sensor; while THERM_N is asserted it does not, but a boot releases it once every sensor reads below 95 °C.
  (∀ (s : State) (i k v : Nat), s.powered = true → i < 4 → k < 16 →
    let u := { s with board := { s.board with sensors := SMap.set s.board.sensors (16 * i + k) v } }
    exec (.thermalSensorRead i k v) s = .next (
      if s.board.therm = true then
        if s.boot.phase = .booting ∧ u.board.sensors.all (fun x => x.2 < 1520) = true then
          { u with board := { u.board with therm := false }, out := u.out ++ [Out.therm false] }
        else u
      else u.thermalAct)) ∧
  -- At 110 °C the device asserts THERM_N and halts.
  (∀ s : State, 1760 ≤ s.board.hottest.2 → s.thermalAct.boot.phase = .halted ∧ s.thermalAct.board.therm = true ∧
    s.thermalAct.board.squelched = true ∧ s.thermalAct.board.dmaStopped = true ∧
    s.thermalAct.out.getLast? = some (.therm true)) ∧
  -- At 103 °C throttling begins, and it ends at 101 °C; at 100 °C a warning is given, once until the reading is below 97 °C.
  (∀ s : State, s.board.hottest.2 < 1760 → let t := s.thermalAct
    (1648 ≤ s.board.hottest.2 → t.board.thermalThrottling = true) ∧
    (s.board.hottest.2 ≤ 1616 → t.board.thermalThrottling = false) ∧
    (1616 < s.board.hottest.2 → s.board.hottest.2 < 1648 → t.board.thermalThrottling = s.board.thermalThrottling) ∧
    (1600 ≤ s.board.hottest.2 → t.board.warnArmed = false) ∧
    (s.board.hottest.2 < 1552 → t.board.warnArmed = true) ∧
    t = { s with board := t.board, ev := t.ev, hp := t.hp, out := t.out }) ∧
  -- SYSREF_LOSS: while the device serves, the clock unit holds over and EV_REFCLK_LOSS is raised; SYSREF_RETURN ends that.
  (∀ s : State, s.board.sysref = true →
    let u := { s with board := { s.board with sysref := false, holdover := s.serving } }
    exec .sysrefLoss s = .next (if s.serving then u.fireAll 241 0x0D03 0x100 else u)) ∧
  (∀ s : State, exec .sysrefReturn s = .next { s with board := { s.board with sysref := true, holdover := false } }) ∧
  -- ETHREF_LOSS: no port of the grove stays up, and the loss is reported.
  (∀ (s : State) (g : Nat), g < s.groves → SMap.getD s.board.ethref g true = true →
    let u := { s with board := { s.board with ethref := SMap.set s.board.ethref g false } }
    exec (.ethrefLoss g) s = .next (if s.running then (u.losePorts g 0 32 5).reportEthref g else u)) ∧
  (∀ (s : State) (g n : Nat), n / 32 = g → s.isPort n = true → (s.losePorts g 0 32 5).isUp n = false) ∧
  -- PPS_OUT_PULSE: the pin rises at the next second of device time and falls 100 ms later.
  (∀ s : State, s.serving = true → s.tm.ppsStart = none → exec .ppsOutPulse s = .next { s with
    now := max s.now s.nextSecond, board := { s.board with ppsOut := true }
    tm := { s.tm with ppsStart := some (max s.now s.nextSecond) }, out := s.out ++ [.pps true] }) ∧
  (∀ (s : State) (p : Nat), s.serving = true → s.tm.ppsStart = some p → exec .ppsOutPulse s = .next { s with
    now := max s.now (p + ms 100), tm := { s.tm with ppsStart := none }, board := { s.board with ppsOut := false }
    out := s.out ++ [.pps false] })

/-- 03 R65, R69, R82 to R84: what every start of the device leaves, whatever it starts from: bulk state is empty, package
memory reads as zero, no operation, frame, queue pair or connection is left, MRAM's command keys and floors stay, and
the running configuration is that of its source. Where the spec leaves a choice or a value open, the clauses follow
assumption log entry 54: there they state the model's choice. -/
def Obligations.StartLeavesBulkStateEmpty : Prop :=
  ∀ (s : State) (m : BootReads) (k : ResetKind),
    let t := s.restart m k
    t.mem = [] ∧ t.sl = {} ∧ t.hp.tags = [] ∧ (∀ p, (t.port p).up = false) ∧ t.cn.frames = [] ∧ t.ps.staging = [] ∧ t.qp = {} ∧ t.et = {} ∧ t.nvc = [] ∧
    t.ra.conns = [] ∧ t.ra.keys = [] ∧ t.ci.keys = [] ∧ t.ci.sas = [] ∧
    t.boot.phase = .booting ∧ t.boot.resetAt = none ∧ t.boot.activating = false ∧
    t.board.squelched = true ∧ t.board.dmaStopped = true ∧ t.board.retainedValid = true ∧ t.board.throttle = 0 ∧
    t.nv.cmdKeys = s.nv.cmdKeys ∧ t.nv.counterFloors = s.nv.counterFloors ∧ t.nv.fw = s.nv.fw ∧ t.nv.owk = s.nv.owk ∧
    t.nv.logRing = s.nv.logRing ∧ t.variant = s.variant ∧ t.pending = s.pending ∧
    (s.tm.state = 0 → m.zeroizeFailed = [] → t.ev = {}) ∧
    (∀ c, (t.clearing c).state = if c ∈ m.zeroizeFailed ∧ c < s.clearings then 6
      else if (SMap.get t.cfg.rentals c).isSome then 2 else 0) ∧
    (∀ g, g < s.groves → SMap.getD t.board.ethref g true = !m.ethrefAbsent.contains g) ∧
    (¬(k = .warm ∧ s.board.retainedValid = true ∧ m.retained = true) → ∀ i, t.board.vcoreOf i = 750 ∧ t.board.target i = 750) ∧
    (k = .factory → t.cfg = {} ∧ t.boot.source = 0) ∧
    (k = .warm → s.board.retainedValid = true → m.retained = true →
      t.cfg = s.cfg.vfsCeased ∧ t.boot.source = 1 ∧ t.ret.counters = s.ret.counters ∧ t.ret.seq = s.ret.seq) ∧
    (k = .cold → s.sl.ops = [] → ∀ i, s.newestSlot m.slot0 m.slot1 = some i →
      t.cfg = (s.cfgSlot i).body.vfsCeased ∧ t.boot.source = 2 + i ∧ t.boot.restoredGen = (s.cfgSlot i).generation) ∧
    (k = .cold → s.sl.ops = [] → s.newestSlot m.slot0 m.slot1 = none → t.cfg = {} ∧ t.boot.source = 0) ∧
    (k ≠ .warm → t.ret.seq = s.nv.seqCopy + 2 ^ 20 ∧
      ∀ i, i < 18 → (t.counterOf i).last = min (SMap.getD s.nv.counterFloors i 0 + 1024) (2 ^ 64 - 1))

/-- 03 R70 to R75, R79; 21 R622: boot step 7, and the resets that begin a start. 03 R86 to R93: storing the running
configuration, staging and activating firmware. Where the spec leaves a choice or a value open, the clauses follow
assumption log entry 54: there they state the model's choice. -/
def Obligations.ResetsStoresAndUpdates : Prop :=
  -- BOOT_COMPLETE enters normal operation, or recovery mode when no firmware was accepted: DMA and the transmitters run and host ports hand over to the full endpoint; outside recovery held stands' groves fail, the enabled ports train, and what was found at the start is reported.
  (∀ s : State, s.boot.phase = .booting → s.board.sysref = true → s.board.pwrGood = true → s.board.sysRstN = true →
    s.board.therm = false →
    let u := { s with board := { s.board with squelched := false, dmaStopped := false },
                      boot := { s.boot with phase := if s.boot.noFirmware then .recovery else .running } }.handOver
    exec .bootComplete s = .next (if s.boot.noFirmware then u
      else (u.failStands.trainAll.reportEthrefs.fireAll 242 0x0101 u.restoredData).reportFallback) ∧
    (∀ p, (u.port p).full = (s.port p).up) ∧
    u.restoredData = BitVec.ofNat 32 (s.boot.source + if s.boot.source ≤ 1 then 0 else 16 * (s.boot.restoredGen % 2 ^ 28))) ∧
  -- BOOT_COMPLETE waits for SYSREF, for the pins and for THERM_N.
  (∀ s : State, s.boot.phase ≠ .booting ∨ s.board.sysref = false ∨ s.board.pwrGood = false ∨ s.board.sysRstN = false ∨
    s.board.therm = true → exec .bootComplete s = .next s) ∧
  -- DEVICE.RESET is answered, and the reset it asks for is due 1 ms later.
  (∀ (s : State) (r : Request), s.asks r 0x0104 → r.payload.length = 1 → fld r.payload 0 1 ≤ 2 →
    (r.actor = 0xFFFF ∨ r.actor = 2) → s.storingOrUpdating = false →
    exec .deviceReset s = .next ({ s.taken with boot := { s.boot with
      resetAt := some (s.clk + ms 1,
        if fld r.payload 0 1 = 0 then .warm else if fld r.payload 0 1 = 1 then .cold else .factory) } }.reply r 0)) ∧
  -- DEVICE.RESET while a STORE or an UPDATE is in progress is BUSY.
  (∀ (s : State) (r : Request), s.asks r 0x0104 → r.payload.length = 1 → fld r.payload 0 1 ≤ 2 →
    (r.actor = 0xFFFF ∨ r.actor = 2) → s.storingOrUpdating = true →
    exec .deviceReset s = .next (s.taken.reply r 0x0010)) ∧
  -- DEVICE_RESET_EXPIRY: the start begins at its moment.
  (∀ (s : State) (m : BootReads) (t : Nat) (k : ResetKind), s.serving = true → s.boot.resetAt = some (t, k) →
    exec (.deviceResetExpiry m) s = .next ((s.upToClk t).restart m k)) ∧
  -- WARDEN_DOUBLE_FAILURE: a warm start 1 s after the last core was declared failed.
  (∀ (s : State) (m : BootReads), s.serving = true → s.hl.warden0 = false → s.hl.warden1 = false →
    exec (.wardenDoubleFailure m) s = .next ((s.upToClk (s.hl.heartbeat + ms 1001)).restart m .warm)) ∧
  -- DEVICE.STORE starts an operation of five steps on a snapshot, 10 s or more after the last.
  (∀ (s : State) (r : Request), s.asks r 0x0103 → r.payload = [] → (r.actor = 0xFFFF ∨ r.actor = 2) →
    (∀ t, s.ret.lastStore = some t → t + ms 10000 ≤ s.clk) →
    (∀ o ∈ s.sl.ops, ∀ i x q g, o.data ≠ .store i x q g) → s.sl.ops.length < 64 →
    SMap.getD s.nv.storeCounts s.storeTarget 0 < 990000 →
    exec .deviceStore s = .next ({ s.taken with ret := { s.ret with lastStore := some s.clk } }.replyStarted r 5
      (.store s.storeTarget s.cfg r.seq s.storeGen))) ∧
  -- DEVICE.STORE to a slot stored to 990,000 times is NO_SPACE, and the slot is stored to no more.
  (∀ (s : State) (r : Request), s.asks r 0x0103 → r.payload = [] → (r.actor = 0xFFFF ∨ r.actor = 2) →
    (∀ t, s.ret.lastStore = some t → t + ms 10000 ≤ s.clk) →
    (∀ o ∈ s.sl.ops, ∀ i x q g, o.data ≠ .store i x q g) → 990000 ≤ SMap.getD s.nv.storeCounts s.storeTarget 0 →
    exec .deviceStore s = .next ({ s.taken with nv := { s.nv with
      storeBarred := s.storeTarget :: s.nv.storeBarred.filter (· != s.storeTarget) } }.reply r 0x0014)) ∧
  -- STORE_STEP, in the operation's turn: MAGIC goes to zero first and is written last, with the slot then complete.
  (∀ (s : State) (h i gen seq : Nat) (cfg : RunCfg) (o : LongOp), s.serving = true → s.turns h o → o.cancel = false →
    o.data = .store i cfg seq gen →
    let u := (s.atStep h).setOp o.step
    let c := u.cfgSlot i
    exec (.storeStep h) s = .next (
      match o.stepsDone with
      | 0 => u.storeBegin i
      | 1 => u.setCfgSlot i { c with body := cfg }
      | 2 => u.setCfgSlot i { c with length := cfg.size, generation := gen, iface := 0x0100, snapshotSeq := seq }
      | 3 => u.setCfgSlot i { c with digest := c.digestOf }
      | _ => ({ u with boot := { u.boot with slotOk := SMap.set u.boot.slotOk i true } }.setCfgSlot i
          { c with magic := 0x7739C0F6 }).endOp o.step 0)) ∧
  (∀ (s : State) (i : Nat), let t := s.storeBegin i
    (t.cfgSlot i) = { s.cfgSlot i with magic := 0 } ∧
    SMap.getD t.nv.storeCounts i 0 = SMap.getD s.nv.storeCounts i 0 + 1) ∧
  -- STORE_STEP of a STORE that is to be cancelled leaves the slot invalid.
  (∀ (s : State) (h i gen seq : Nat) (cfg : RunCfg) (o : LongOp), s.serving = true → s.turns h o → o.cancel = true →
    o.data = .store i cfg seq gen →
    exec (.storeStep h) s = .next (((s.atStep h).setCfgSlot i { (s.atStep h).cfgSlot i with magic := 0 }).endOp o 0x0031)) ∧
  -- DEVICE.UPDATE STAGE writes bytes into the slot that does not run, and starts the verification when FLAGS ask for it.
  (∀ (s : State) (r : Request), s.asks r 0x0105 → (r.actor = 0xFFFF ∨ r.actor = 2) →
    let p := r.payload
    let n := fld p 2 2
    let clear := bit (fld p 1 1) 0
    fld p 0 1 = 0 → fld p 1 1 ≤ 3 → p.length = 8 + n → 1 ≤ n → n ≤ 4000 → fld p 4 4 + n ≤ 16777216 →
    (∀ x, s.sl.staging = some x → x.2 = r.mb ∨ (clear = true ∧ r.actor = 0xFFFF)) →
    let u := s.taken.stageWrite s.stageSlot r.mb clear (fld p 4 4) (p.drop 8)
    (bit (fld p 1 1) 1 = false → exec .deviceUpdateStage s = .next (u.reply r 0)) ∧
    (bit (fld p 1 1) 1 = true → u.sl.ops.length < 64 →
      exec .deviceUpdateStage s = .next (u.replyStarted r 1 (.verify s.stageSlot)))) ∧
  (∀ (s : State) (i mb off : Nat) (clear : Bool) (b : List Byte), let t := s.stageWrite i mb clear off b
    t.fwSlotOf i = (if clear then { generation := 0, confirmed := false, image := some (putBytes [] off b) }
      else { s.fwSlotOf i with confirmed := false, image := some (putBytes (s.fwSlotOf i).store off b) }) ∧
    t.sl.staging = some (i, mb) ∧ t.sl.stagedOk ≠ some i) ∧
  -- STAGE_VERIFY_END: a slot that verifies may be activated, and in recovery mode is confirmed at once; one that does not is BAD_AUTH.
  (∀ (s : State) (h i : Nat) (readOk : Bool) (o : LongOp), s.serving = true → s.turns h o → o.cancel = false →
    o.data = .verify i →
    let u := { s.atStep h with sl := { (s.atStep h).sl with staging := none } }
    exec (.stageVerifyEnd h readOk) s =
      .next (if u.fwVerifies i readOk then
          (if u.boot.phase = .recovery then u.confirmFw i else { u with sl := { u.sl with stagedOk := some i } }).endOp o.step 0
        else u.endOp o.step 0x0012)) ∧
  (∀ (s : State) (i : Nat), (s.confirmFw i).fwSlotOf i =
    { s.fwSlotOf i with confirmed := true, generation := (s.fwSlotOf (1 - i)).generation + 1 }) ∧
  -- DEVICE.UPDATE ACTIVATE: the standby core takes over and a two-step operation starts.
  (∀ (s : State) (r : Request) (i : Nat), s.asks r 0x0105 → r.payload.length = 8 → fld r.payload 0 1 = 1 →
    zeroAt r.payload 1 7 = true → (r.actor = 0xFFFF ∨ r.actor = 2) → s.sl.stagedOk = some i → s.sl.ops = [] →
    s.sl.staging = none → s.hl.warden0 = true → s.hl.warden1 = true →
    exec .deviceUpdateActivate s = .next ({ s.taken with
      boot := { s.boot with activating := true }
      hl := { s.hl with active := 1 - s.hl.active, heartbeat := s.clk } }.replyStarted r 2 (.activate i s.clk))) ∧
  -- ACTIVATION_STEP, within 2 s and when the slot verifies: the staged image starts on the core that becomes active, and the staging areas are lost.
  (∀ (s : State) (h i a : Nat) (o : LongOp), s.serving = true → s.turns h o → o.cancel = false →
    o.data = .activate i a → o.stepsDone = 0 → (s.atStep h).clk ≤ a + ms 2000 → (s.atStep h).fwVerifies i true = true →
    let u := (s.atStep h).setOp o.step
    exec (.activationStep h) s = .next
      (({ u with hl := { u.hl with active := 1 - u.hl.active, heartbeat := u.clk } }.startImage i).loseStaging)) ∧
  (∀ (s : State) (i : Nat), (s.startImage i).boot.fwSlot = i ∧ s.loseStaging = { s with
    ps := { s.ps with staging := [] }, cl := { s.cl with staging := [], builds := [] } }) ∧
  -- ACTIVATION_STEP once the roles have swapped: the slot is confirmed and the operation ends.
  (∀ (s : State) (h i a : Nat) (o : LongOp), s.serving = true → s.turns h o → o.cancel = false →
    o.data = .activate i a → o.stepsDone ≠ 0 →
    let u := ((s.atStep h).setOp o.step).confirmFw i
    exec (.activationStep h) s = .next ({ u with
      boot := { u.boot with activating := false, fwGen := (u.fwSlotOf i).generation }
      sl := { u.sl with stagedOk := none } }.endOp o.step 0)) ∧
  -- ACTIVATION_TIMEOUT before that: at once on a failed verification, else after 2 s, the old image stays.
  (∀ (s : State) (h i a : Nat) (readOk : Bool) (o : LongOp), s.serving = true → s.slaotUp = true → s.op h = some o →
    o.data = .activate i a → o.stepsDone = 0 →
    exec (.activationTimeout ⟨h, readOk⟩) s =
      .next (if s.fwVerifies i readOk then s.upToClk (a + ms 2000) else s).endActivation) ∧
  -- The operation that it ends is INTERNAL, and commands are taken again.
  (∀ (s : State) (o : LongOp) (i : Nat), s.activation = some (o, i) →
    s.endActivation = { s.endOp o 0x00FF with boot := { s.boot with activating := false } })

/-- 04 R96 to R102: how a request reaches Slaot. 04 R107 to R111, R119, R120: what the arbiter does with the request at
its head. -/
def Obligations.RequestsReachSlaot : Prop :=
  -- MAILBOX_SUBMIT with bit 0 set: BUSY is set and RESP_VALID cleared in one write, and the request in the buffer is delivered; while BUSY is 1 SUBMIT_LOST is set instead. A write with bit 0 clear does nothing.
  (∀ (s : State) (p : Nat) (v : BitVec 32), s.serving = true → s.reaches (pf2 p) (0x0100 + p) 2 0x2000 4 →
    let u := s.traffic (pf2 p)
    let m := s.mbx p
    exec (.mailboxSubmit p v) s = .next (if v.getLsbD 0 = false then u
      else if m.busy then u.setMbx p { m with submitLost := true }
      else (u.setMbx p { m with busy := true, respValid := false }).deliver (m.request p))) ∧
  -- A delivered request takes its place behind those of earlier cycles, and in its own cycle by ascending mailbox.
  (∀ (s : State) (r : Request), s.deliver r = { s with sl := { s.sl with
    arb := placeRequest { r with cycle := 3 * s.now / 10 } s.sl.arb } }) ∧
  -- REQUEST_BUFFER_WRITE: bytes go to the buffer, or are lost and WRITE_LOST is set while BUSY is 1.
  (∀ (s : State) (p off : Nat) (b : List Byte), s.serving = true → s.reaches (pf2 p) (0x0100 + p) 2 off b.length →
    1 ≤ b.length → b.length ≤ 64 → off / 64 = (off + b.length - 1) / 64 → off < 4096 →
    let u := s.traffic (pf2 p)
    let m := s.mbx p
    exec (.requestBufferWrite p off b) s = .next (if m.busy then u.setMbx p { m with writeLost := true }
      else u.setMbx p { m with req := putBytes m.req off b })) ∧
  -- MB_STATUS_CLEAR: writing 1 to bits 2 and 3 clears SUBMIT_LOST and WRITE_LOST.
  (∀ (s : State) (p : Nat) (v : BitVec 32), s.serving = true → s.reaches (pf2 p) (0x0100 + p) 2 0x2004 4 →
    let m := s.mbx p
    exec (.mbStatusClear p v) s = .next ((s.traffic (pf2 p)).setMbx p
      { m with writeLost := m.writeLost && !v.getLsbD 3, submitLost := m.submitLost && !v.getLsbD 2 })) ∧
  -- OOB_MESSAGE: one request at a time; another is answered BUSY at once, and a message of no request's length is dropped.
  (∀ (s : State) (bus eid tag : Nat) (b : List Byte), s.serving = true →
    let r := readRequest (.oob bus eid tag) 16 b (some b.length)
    exec (.oobMessage bus eid tag b) s = .next (if b.length < 32 ∨ 4096 < b.length then s
      else if s.sl.oobBusy then s.emit (.oob bus eid tag (responseBytes r ⟨0x0010, [], 0⟩))
      else { s with sl := { s.sl with oobBusy := true } }.deliver r)) ∧
  -- INBAND_DATAGRAM on an enabled port: a fragment or a wrong length, a request without AUTH, one that does not verify and one that finds 15 waiting are discarded and counted; any other is delivered, or waits behind the one being served.
  (∀ (s : State) (port udp : Nat) (frag : Bool) (addr b : List Byte), s.running = true → s.cfg.inband.enable = true →
    SMap.getD s.cfg.inband.ports port false = true →
    let r := readRequest (.inband port addr udp) 17 b (some b.length)
    let drop := fun i => { s with sl := { s.sl with discards := s.sl.discards.inc i } }
    exec (.inbandDatagram port addr udp frag b) s = .next (
      if frag = true ∨ b.length < 32 ∨ b.length ≠ messageLength r.length r.auth then drop 2
      else if r.auth = false then drop 0
      else if (SMap.get s.nv.cmdKeys 17).any r.verifies = false then drop 1
      else if s.sl.inbandBusy = false then { s with sl := { s.sl with inbandBusy := true } }.deliver r
      else if 15 ≤ s.sl.inband.length then drop 3
      else { s with sl := { s.sl with inband := s.sl.inband ++ [r] } })) ∧
  -- INBAND_DATAGRAM while the channel is off, or on a port it does not use, is not a command.
  (∀ (s : State) (port udp : Nat) (frag : Bool) (addr b : List Byte), s.running = true →
    s.cfg.inband.enable = false ∨ SMap.getD s.cfg.inband.ports port false = false →
    exec (.inbandDatagram port addr udp frag b) s = .next s) ∧
  (∀ (s : State) (q : Request) (rest : List Request), s.sl.accepted = none → s.sl.arb = q :: rest →
    let u := { s with sl := { s.sl with arb := rest, ran := s.sl.ran + 1 } }.nextSeq
    let r := s.authenticate { q with seq := s.ret.seq + 1 }
    u.ret.seq = s.ret.seq + 1 ∧ ((s.ret.seq + 1) % 2 ^ 20 = 0 → u.nv.seqCopy = s.ret.seq + 1) ∧
    -- a reset that is due, or an activation, makes a request BUSY before anything else is looked at
    (s.boot.resetAt.isSome = true → s.arbitrate = u.finish { r with key := none } false ⟨0x0010, [], 0⟩) ∧
    -- a malformed request is BAD_ARG, its counter not accepted
    (s.boot.resetAt = none → s.boot.activating = false → q.wellFormed = false →
      s.arbitrate = u.finish { r with key := none } false ⟨0x0015, [], 0⟩) ∧
    -- a critical command without AUTH is BAD_AUTH
    (s.boot.resetAt = none → s.boot.activating = false → q.wellFormed = true → opcodeInfo q.opcode = some true →
      (SMap.get s.nv.cmdKeys q.mb).isSome = true → q.auth = false →
      s.arbitrate = u.finish { r with key := none } false ⟨0x0012, [], 0⟩) ∧
    -- a counter that is not above the last accepted one is REPLAY
    (s.boot.resetAt = none → s.boot.activating = false → q.wellFormed = true → opcodeInfo q.opcode = some false →
      q.mb ≠ 17 → q.auth = false → q.counter ≤ (s.counterOf q.mb).last →
      s.arbitrate = u.finish r false ⟨0x0013, replayPayload (u.counterOf q.mb), 0⟩) ∧
    -- an opcode of no version is BAD_ARG, its counter accepted
    (s.boot.resetAt = none → s.boot.activating = false → q.wellFormed = true → opcodeInfo q.opcode = none →
      q.mb ≠ 17 → q.auth = false → (s.counterOf q.mb).last < q.counter →
      s.arbitrate = (u.acceptCounter q.mb q.counter).finish r true ⟨0x0015, [], 0⟩) ∧
    -- a request that passes waits for its command, its counter accepted
    (s.boot.resetAt = none → s.boot.activating = false → q.wellFormed = true → opcodeInfo q.opcode = some false →
      q.mb ≠ 17 → q.auth = false → (s.counterOf q.mb).last < q.counter → s.boot.phase = .running →
      (SMap.get s.cfg.pins q.mb).isSome = true → s.mayAct q = true →
      (s.arbitrate).sl.accepted = some r ∧ ((s.arbitrate).counterOf q.mb).last = q.counter))

/-- 04 R113, R117, R126 to R130; 23 R644: Slaot's own commands. -/
def Obligations.SlaotCommands : Prop :=
  -- OP.STATUS of an operation in progress and of one that has ended
  (∀ (s : State) (r : Request) (o : LongOp), s.asks r 0x0F01 → r.payload.length = 4 → s.op (fld r.payload 0 4) = some o →
    (r.actor = 0xFFFF ∨ r.actor = o.starter) →
    exec .opStatus s = .next (s.taken.reply r 0 (leBytes 2 0 ++ leBytes 2 o.opcode ++ leBytes 2 0x0001 ++ zeros 2 ++
      leBytes 4 o.stepsDone ++ leBytes 4 o.stepsTotal ++ leBytes 8 o.startSeq))) ∧
  (∀ (s : State) (r : Request) (o : EndedOp), s.asks r 0x0F01 → r.payload.length = 4 → s.op (fld r.payload 0 4) = none →
    s.sl.ended.find? (fun x => x.handle == fld r.payload 0 4) = some o → (r.actor = 0xFFFF ∨ r.actor = o.starter) →
    exec .opStatus s = .next (s.taken.reply r 0 (leBytes 2 1 ++ leBytes 2 o.opcode ++ leBytes 2 o.status ++ zeros 2 ++
      leBytes 4 o.stepsDone ++ leBytes 4 o.stepsTotal ++ leBytes 8 o.startSeq))) ∧
  -- OP.CANCEL marks the operation, which aborts at its next step; on one that has ended it has no effect.
  (∀ (s : State) (r : Request) (o : LongOp), s.asks r 0x0F02 → r.payload.length = 4 → s.op (fld r.payload 0 4) = some o →
    (r.actor = 0xFFFF ∨ r.actor = o.starter) →
    exec .opCancel s = .next ((s.taken.setOp { o with cancel := true }).reply r 0)) ∧
  (∀ (s : State) (r : Request) (o : EndedOp), s.asks r 0x0F02 → r.payload.length = 4 → s.op (fld r.payload 0 4) = none →
    s.sl.ended.find? (fun x => x.handle == fld r.payload 0 4) = some o → (r.actor = 0xFFFF ∨ r.actor = o.starter) →
    exec .opCancel s = .next (s.taken.reply r 0)) ∧
  -- OP.STATUS and OP.CANCEL of another function's operation are NOT_OWNER, of none NOT_FOUND.
  (∀ (s : State) (r : Request) (o : LongOp), r.payload.length = 4 → s.op (fld r.payload 0 4) = some o →
    r.actor ≠ 0xFFFF → r.actor ≠ o.starter →
    (s.asks r 0x0F01 → exec .opStatus s = .next (s.taken.reply r 0x0016)) ∧
    (s.asks r 0x0F02 → exec .opCancel s = .next (s.taken.reply r 0x0016))) ∧
  (∀ (s : State) (r : Request), r.payload.length = 4 → s.op (fld r.payload 0 4) = none →
    s.sl.ended.find? (fun x => x.handle == fld r.payload 0 4) = none →
    (s.asks r 0x0F01 → exec .opStatus s = .next (s.taken.reply r 0x0022)) ∧
    (s.asks r 0x0F02 → exec .opCancel s = .next (s.taken.reply r 0x0022))) ∧
  -- DEVICE.CAPS returns as many whole records as fit from the one asked for, and where to go on.
  (∀ (s : State) (r : Request), s.asks r 0x0101 → r.payload.length = 2 →
    let i := fld r.payload 0 2
    let f := fitRecords 4012 (s.capRecords.drop i)
    exec .deviceCaps s = .next (s.taken.reply r 0 (leBytes 2 (if s.capRecords.length ≤ i + f.2 then 0xFFFF else i + f.2) ++
      zeros 2 ++ f.1))) ∧
  (∀ (l : List (List Byte)), l.flatten.length ≤ 4012 → fitRecords 4012 l = (l.flatten, l.length)) ∧
  -- DEVICE.INFO
  (∀ (s : State) (r : Request), s.asks r 0x0102 → r.payload = [] →
    exec .deviceInfo s = .next (s.taken.reply r 0 (leBytes 1 s.variantCode ++ leBytes 1 s.stepping.1 ++ leBytes 1 s.stepping.2 ++
      leBytes 1 s.boot.source ++ leBytes 2 (SMap.getD s.cfg.pins r.mb 0) ++ leBytes 2 0x0100 ++
      leBytes 8 (if s.boot.source ≤ 1 then 0 else s.boot.restoredGen) ++ leBytes 8 s.boot.fwGen ++ leBytes 1 s.boot.fwSlot ++
      zeros 7))) ∧
  -- DEVICE.PIN pins the version that runs, and no other.
  (∀ (s : State) (r : Request), s.asks r 0x0106 → r.payload.length = 2 → fld r.payload 0 2 = 0x0100 →
    exec .devicePin s = .next (s.replyCfg { s.taken with cfg := { s.cfg with pins := SMap.set s.cfg.pins r.mb 0x0100 } } r)) ∧
  (∀ (s : State) (r : Request), s.asks r 0x0106 → r.payload.length = 2 → fld r.payload 0 2 ≠ 0x0100 →
    exec .devicePin s = .next (s.taken.reply r 0x0015)) ∧
  -- SECURITY.ASSIGN gives a run of objects of one kind to another function.
  (∀ (s : State) (r : Request), s.asks r 0x0A01 →
    let p := r.payload
    let kind := fld p 0 1
    let first := fld p 4 4
    let n := fld p 8 4
    let f := fld p 12 2
    p.length = 16 → 1 ≤ kind → kind ≤ 6 → zeroAt p 1 3 = true → 1 ≤ n → zeroAt p 14 2 = true →
    first + n ≤ kindSize kind → first + n ≤ s.kindPresent kind → (f = 0xFFFF ∨ s.fnPresent f = true) →
    (kind = 4 → ∀ i, first ≤ i → i < first + n → fnPort f = i / 2) →
    (16 ≤ r.mb ∨ (f ≠ 0xFFFF ∧ fnPort f = r.mb)) →
    (∀ i, first ≤ i → i < first + n → s.owns r.actor kind i = true ∧ s.transferable kind i = true) →
    exec .securityAssign s = .next (s.replyCfg
      (((List.range n).map (first + ·)).foldl (fun u i => u.setOwner kind i f) s.taken) r)) ∧
  (∀ (s : State) (kind first n f : Nat) (i : Nat), first ≤ i → i < first + n →
    (((List.range n).map (first + ·)).foldl (fun u i => u.setOwner kind i f) s).owner kind i = f) ∧
  -- DEVICE.INBAND configures the in-band channel.
  (∀ (s : State) (r : Request), s.asks r 0x0107 →
    let p := r.payload
    let ports := maskBits (fld p 24 64) 512
    p.length = 88 → fld p 0 1 ≤ 3 → zeroAt p 1 1 = true → 1 ≤ fld p 2 2 → zeroAt p 4 4 = true →
    ports.all s.isPort = true → r.actor = 0xFFFF →
    exec .deviceInband s = .next (s.replyCfg { s.taken with cfg := { s.cfg with inband :=
      ⟨bit (fld p 0 1) 0, bit (fld p 0 1) 1, fld p 2 2, slice p 8 16, ports.map fun i => (i, true)⟩ } } r))

/-- 05 R132 to R135, R144 to R158: the PORT commands on layout and attributes. Where the spec leaves a choice or a value
open, the clauses follow assumption log entry 34: there they state the model's choice. -/
def Obligations.PortCommands : Prop :=
  -- PORT.GROUP puts a valid layout in force on a lane group whose lanes the function owns.
  (∀ (s : State) (r : Request) (m mode mask : Nat), s.asks r 0x0201 → r.payload.length = 8 → fld r.payload 0 2 = m →
    fld r.payload 2 1 = mode → fld r.payload 3 1 = mask → zeroAt r.payload 4 4 = true → m < 64 → m < 4 * s.groves → mode ≤ 1 →
    layoutOk mode mask = true → (∀ i, i < 8 → s.owns r.actor 1 (8 * m + i) = true) → s.groveFailed (m / 4) = false →
    exec .portGroup s =
      .next (s.replyCfg (if s.group m = ⟨mode, mask⟩ then s.taken else s.taken.setLayout m mode mask) r)) ∧
  -- The new layout is that group's and no other's, and a port that is not kept has its default attributes.
  (∀ (s : State) (m mode mask : Nat), s.group m ≠ ⟨mode, mask⟩ →
    (s.setLayout m mode mask).group m = ⟨mode, mask⟩ ∧
    (∀ m', m' ≠ m → (s.setLayout m mode mask).group m' = s.group m') ∧ (s.setLayout m mode mask).mem = s.mem ∧
    (s.setLayout m mode mask).nv = s.nv) ∧
  -- PORT.SET stores the attributes; a new FLOW or PFC_PRIOS is judged again at once, and ENABLE starts training or takes the port down.
  (∀ (s : State) (r : Request) (n : Nat), s.asks r 0x0202 → r.payload.length = 32 → fld r.payload 0 2 = n →
    s.ownsPort r.actor n → s.groveFailed (n / 32) = false → fld r.payload 2 1 ≤ 1 → fld r.payload 3 1 ≤ 2 →
    fld r.payload 5 1 < 4 → 64 ≤ fld r.payload 6 2 → fld r.payload 6 2 ≤ 16000 → fld r.payload 8 2 ≤ 10000 →
    zeroAt r.payload 14 2 = true → zeroAt r.payload 22 2 = true → zeroAt r.payload 27 5 = true →
    let c := portCfgOf r.payload
    let b := s.portCfg n
    let u := { s.taken with cfg := { s.cfg with ports := SMap.set s.cfg.ports n c } }
    let u := if b.flow = c.flow ∧ b.pfcPrios = c.pfcPrios then u else u.reflow n
    exec .portSet s = .next (s.replyCfg (if b.enable = true ∧ c.enable = false then u.disablePort n
      else if b.enable = false ∧ c.enable = true then u.startTraining n else u) r)) ∧
  -- The attributes are those of the payload; a port that trains or is disabled is so, and one without a partner never trains.
  (∀ (s : State) (n : Nat), s.deadPort n = false → ((s.startTraining n).eth n).state = 1 ∧
    ((s.startTraining n).eth n).attemptStart = s.clk ∧ ((s.startTraining n).eth n).retryAt = none) ∧
  (∀ (s : State) (n : Nat), s.deadPort n = true → ((s.startTraining n).eth n).state = 4 ∧
    ((s.startTraining n).eth n).retryAt = none) ∧
  (∀ (s : State) (n : Nat), ((s.disablePort n).eth n).state = 0 ∧ ((s.disablePort n).eth n).retryAt = none) ∧
  -- A MAX_FRAME outside 64 to 16,000 is BAD_ARG.
  (∀ (s : State) (r : Request), s.asks r 0x0202 → r.payload.length = 32 →
    (fld r.payload 6 2 < 64 ∨ 16000 < fld r.payload 6 2) → exec .portSet s = .next (s.taken.reply r 0x0015)) ∧
  -- PORT.GET
  (∀ (s : State) (r : Request) (n : Nat), s.asks r 0x0203 → r.payload.length = 2 → fld r.payload 0 2 = n →
    s.ownsPort r.actor n → exec .portGet s = .next ((s.taken.drawn 1).reply r 0 ((s.portCfg n).record n ++
      leBytes 1 (s.eth n).state ++ leBytes 1 (s.trainStep n (Config.freeValue 8 s.free).toNat) ++
      leBytes 1 (speedCode (s.speedGbps n)) ++ leBytes 1 (s.group (n / 8)).mode ++ leBytes 1 (s.eth n).reason))) ∧
  -- PORT.STATS
  (∀ (s : State) (r : Request) (n : Nat), s.asks r 0x0204 → r.payload.length = 2 → fld r.payload 0 2 = n →
    s.ownsPort r.actor n → exec .portStats s = .next (s.taken.reply r 0 (ctrBytes (s.eth n).ctrs 32))) ∧
  -- PORT.RETRAIN
  (∀ (s : State) (r : Request) (n : Nat), s.asks r 0x0205 → r.payload.length = 2 → fld r.payload 0 2 = n →
    s.ownsPort r.actor n → (s.portCfg n).enable = true → s.groveFailed (n / 32) = false →
    exec .portRetrain s = .next (((s.taken.portDown n 2 true).startTraining n).reply r 0))

/-- 05 R136, R139 to R143, R148 to R150: training, hold-up and the link of a port. 05 R152 to R155: flow control received,
and XOFF sent again. Where the spec leaves a choice or a value open, the clauses follow assumption log entries 34 and
35: there they state the model's choice. -/
def Obligations.LinkAndFlowControlRows : Prop :=
  -- TRAINING_FRAME_RECEIVE within the limits of the attempt: the lane takes the frame, and answers with its next one until it codes data.
  (∀ (s : State) (n i : Nat) (f : TrainFrame), s.running = true → s.isPort n = true → (s.eth n).state = 1 →
    (s.group (n / 8)).mode = 0 → i < s.width n → s.inTime n = true →
    let l := (s.lane (n + i)).frame f
    let u := { s with et := { s.et with lanes := SMap.set s.et.lanes (n + i) l } }
    exec (.trainingFrameReceive n i f) s = .next (if l.data then u else u.sendTraining (n + i))) ∧
  -- What it sends: its control and status fields with their CRC, and the PRBS13 where it stands.
  (∀ (s : State) (k : Nat), let x := s.lane k
    s.sendTraining k = { s with
      et := { s.et with lanes := SMap.set s.et.lanes k { x with prbs := prbs13Frame x.prbs } }
      out := s.out ++ [.training k x.control x.status (trainingCrc x.control x.status) x.prbs] }) ∧
  -- A good frame counts toward lock, which the third in a row gives.
  (∀ (x : LaneTr) (f : TrainFrame), f.marker = true → trainingCrc f.control f.status = f.crc →
    eBits f.status 31 24 = 0xA7 → let t := x.frame f
      t.lockCount = min 3 (x.lockCount + 1) ∧ t.seenFrame = true ∧ t.seenMode = true ∧ (x.lock = true → t.lock = true) ∧
      (x.lockCount = 2 → t.lock = true)) ∧
  -- A frame whose check fails sends the count of a lane without lock back to 0.
  (∀ (x : LaneTr) (f : TrainFrame), trainingCrc f.control f.status ≠ f.crc ∨ f.marker = false →
    x.frame f = if x.lock then x else { x with lockCount := 0 }) ∧
  -- TRAINING_ALIGNMENT_COMPLETE within the limits opens the hold-up window: in L400 with every lane at data and a skew of at most 160 ns, in S200 with what the attempt needs, within 500 ms.
  (∀ (s : State) (n k : Nat) (l : S200Link), s.running = true → s.isPort n = true → (s.eth n).state = 1 →
    ((s.group (n / 8)).mode = 1 → s200Ready l (s.width n) = true ∧ s.clk ≤ (s.eth n).attemptStart + ms 500) →
    ((s.group (n / 8)).mode ≠ 1 → (∀ x ∈ s.portLanes n, x.data = true) ∧ s.inTime n = true ∧ k ≤ 160) →
    exec (.trainingAlignmentComplete ⟨n, k, l⟩) s =
      .next (s.setEth n { s.eth n with state := 2, holdStart := s.clk, skewNs := k, s200 := l })) ∧
  -- TRAINING_TIMEOUT: the first limit that a lane misses fails the attempt with its reason.
  (∀ (s : State) (n : Nat), s.running = true → s.isPort n = true → (s.eth n).state = 1 → (s.group (n / 8)).mode = 0 →
    let t0 := (s.eth n).attemptStart
    exec (.trainingTimeout n) s = .next (
      match (s.portLanes n).find? (fun x => !x.lock) with
      | some l =>
        let u := s.upToClk (t0 + ms 10)
        if l.seenFrame = false then u.trainFail n 0x10
        else if l.seenMode = false then u.trainFail n 0x13
        else (u.drawn 1).trainFail n (0x10 + (Config.freeValue 2 s.free).toNat)
      | none => if (s.portLanes n).any (fun l => !l.status.getLsbD 23) then (s.upToClk (t0 + ms 310)).trainFail n 0x11
          else (s.upToClk (t0 + ms 315)).trainFail n 0x12)) ∧
  -- A failed attempt: the reason, the count, and another attempt 100 ms later.
  (∀ (s : State) (n x : Nat), let t := s.trainFail n x
    (t.eth n).state = 4 ∧ (t.eth n).reason = x ∧ (t.eth n).retryAt = some (s.clk + ms 100) ∧
    SMap.getD (t.eth n).ctrs 30 0 = SMap.getD (s.eth n).ctrs 30 0 + 1 ∧
    t = { s with et := t.et, ev := t.ev, hp := t.hp, out := t.out }) ∧
  -- S200_ATTEMPT_FAIL: declared, or after 500 ms.
  (∀ (s : State) (n : Nat) (l : S200Link) (d : Bool), s.running = true → s.isPort n = true → (s.eth n).state = 1 →
    (s.group (n / 8)).mode = 1 →
    let u := if d then s else s.upToClk ((s.eth n).attemptStart + ms 500)
    exec (.s200AttemptFail n ⟨l, d⟩) s = .next ((u.setEth n { u.eth n with s200 := l }).trainFail n
      (if l.aui then if l.signal then 0x12 else 0x10
        else if l.pages = [] then 0x10 else if ¬l.pages.contains (s.width n) then 0x13 else if l.trained then 0x12 else 0x11))) ∧
  -- TRAINING_RESTART
  (∀ (s : State) (n at_ : Nat), s.running = true → s.isPort n = true → (s.portCfg n).enable = true →
    (s.eth n).retryAt = some at_ → exec (.trainingRestart n) s = .next ((s.upToClk at_).startTraining n)) ∧
  -- HOLD_UP_EXPIRY: the port is up, HOLD_UP_MS after alignment, and EV_LINK_UP tells it.
  (∀ (s : State) (n : Nat), s.running = true → s.isPort n = true → (s.eth n).state = 2 →
    let u := s.upToClk ((s.eth n).holdStart + ms (s.portCfg n).holdUpMs)
    let t := (u.setEth n { u.eth n with state := 3, degWindow := (u.eth n).degWindow.or (some u.clk) }).fireLink n 0x0201 0
    exec (.holdUpExpiry n) s = .next t ∧ t.isUp n = true) ∧
  -- LANE_LOSS: a fault that takes the link in the lane mode of the port sends a port in hold-up to training again without an event, and takes a port that is up down with its reason.
  (∀ (s : State) (n : Nat) (x : LaneFault), s.running = true → s.isPort n = true →
    exec (.laneLoss n x) s = .next (
      if faultTakes x (s.group (n / 8)).mode = false then s
      else if (s.eth n).state = 2 then s.startTraining n
      else s.portDown n (match x with | .signal _ => 1 | .s200 signal => if signal then 1 else 2 | _ => 2) true)) ∧
  (∀ (ns k : Nat) (b : Bool), (faultTakes (.signal ns) 0 = true ↔ 100 ≤ ns) ∧ (faultTakes (.codewords k) 0 = true ↔ 64 ≤ k) ∧
    (faultTakes (.markers k) 0 = true ↔ 3 ≤ k) ∧ (faultTakes (.s200 b) 1 = true)) ∧
  -- A port that goes down is no longer up; what it held is gone.
  (∀ (s : State) (n x : Nat), s.isUp n = true → let t := s.portDown n x true
    (t.eth n).state = 4 ∧ (t.eth n).reason = x ∧ (t.eth n).pause = [] ∧
    (t.eth n).retryAt = some s.clk) ∧
  -- LINK_DEGRADED_WINDOW counts what was corrected and what was not, and reports the latter.
  (∀ (s : State) (n b y v w : Nat), s.running = true → s.isPort n = true → (s.eth n).degWindow = some w →
    let u := s.upToClk (w + ms 1000)
    let u := u.setEth n { u.eth n with degWindow := if u.isUp n then some u.clk else none, uncorrectable := v }
    let u := ((u.ethCtr n 26 (if (s.group (n / 8)).mode = 0 then b else 0)).ethCtr n 27 y).ethCtr n 28 v
    exec (.linkDegradedWindow n b y v) s = .next (if v = 0 then u else u.fireLink n 0x0204 (min v 255))) ∧
  -- Lane coding: 5,780 bits and 2,890 symbols a codeword, a marker in every 4,096th; 8,288 symbols a training frame.
  (∀ b : List (List Bool), (wireBits b).length = 5780 ∧ (wireSymbols b).length = 2890) ∧
  (∀ (i k : Nat) (p : BitVec 137) (b : List (List Bool)), (marker i p).length = 257 ∧
    markedBlocks i k p b = if k % 4096 = 0 then marker i p :: b.take 19 else b.take 20) ∧
  (∀ (c : BitVec 16) (v : BitVec 32) (x : BitVec 16) (p : BitVec 13), (trainingSymbols c v x p).length = 8288) ∧
  -- PFC_FRAME_RECEIVE: the frame counts as received; with FLOW 2 every enabled priority is paused for its quanta, and counted; with another FLOW it is ignored and counted.
  (∀ (s : State) (n : Nat) (e : BitVec 8) (q : List Nat), s.running = true → s.isPort n = true → s.isUp n = true →
    let u := (s.ethCtr n 0 1).ethCtr n 1 64
    exec (.pfcFrameReceive n e q) s = .next (
      if (s.portCfg n).flow = 2 then
        (maskBits e.toNat 8).foldl (fun v p => (v.ethCtr n (8 + p) 1).pausePrio n p (q.getD p 0 % 65536)) u
      else u.ethCtr n 7 1)) ∧
  -- A pause of 512 bit times for each quantum; a pause of 0 ends it.
  (∀ (s : State) (n p q : Nat), let t := s.pausePrio n p q
    SMap.get (t.eth n).pause p = (if q = 0 then none else some (s.clk + q * 2048 / s.speedGbps n)) ∧
    (∀ i, i ≠ p → SMap.get (t.eth n).pause i = SMap.get (s.eth n).pause i) ∧ (t.eth n).ctrs = (s.eth n).ctrs ∧
    ∀ m, m ≠ n → t.eth m = s.eth m) ∧
  -- PAUSE_FRAME_RECEIVE: with FLOW 1 every class is paused together.
  (∀ (s : State) (n q : Nat), s.running = true → s.isPort n = true → s.isUp n = true →
    let u := (s.ethCtr n 0 1).ethCtr n 1 64
    exec (.pauseFrameReceive n q) s = .next (
      if (s.portCfg n).flow = 1 then u.pausePrio n 8 (q % 65536) else u.ethCtr n 7 1)) ∧
  -- PAUSE_EXPIRY
  (∀ (s : State) (n p e : Nat), s.running = true → SMap.get (s.eth n).pause p = some e →
    exec (.pauseExpiry n p) s = .next ((s.upToClk e).setEth n { s.eth n with pause := SMap.del (s.eth n).pause p })) ∧
  -- PFC_RESEND: half its pause time after the last XOFF, the frame goes out again.
  (∀ (s : State) (n p t0 : Nat) (rest : List (Nat × Nat)), s.running = true → s.isPort n = true → s.isUp n = true →
    (s.eth n).xoff = (p, t0) :: rest →
    exec (.pfcResend n) s = .next
      ((s.upToClk ((rest.map (·.2)).foldl min t0 + 65535 * 1024 / s.speedGbps n)).sendXoff n))

/-- 09 R269 to R283: a frame from its first byte to the release of its decision. Where the spec leaves a choice or a value
open, the clauses follow assumption log entries 24 and 41: there they state the model's choice. -/
def Obligations.TrailRows : Prop :=
  -- ETH_FRAME_FIRST_BYTE: the frame takes a tag of its grove and waits for the trail, nothing of it decided; one that the live pipelines do not accept is freed and counted.
  (∀ (s : State) (n : Nat) (b : List Byte), s.running = true → s.isPort n = true → s.isUp n = true → b ≠ [] →
    let g := n / 32
    let f : FrameRec := { bytes := b, kind := 0, id := n, steerKey := n, first := s.now, order := 0, lossless := false,
                          md := mdEnter b 0 n (s.ingressStamp n) (eBits (s.portEntry n) 127 112) (bit (s.portCfg n).ptp 0) false }
    exec (.ethFrameFirstByte n b) s = .next (if s.trailAccepts g (s.startedIn g fun x => x.port.isSome) then (s.enterRec g f).2
      else s.healthCtr g 1 1)) ∧
  -- A frame that enters: its tag, its place in the order of its grove, and its steering.
  (∀ (s : State) (g : Nat) (f : FrameRec), let e := s.enterRec g f
    e.1 = (s.newTag g).1 ∧
    e.2.frame e.1 = some { f with first := s.now, order := s.cn.orders, steer := SMap.getD s.cn.steer f.steerKey g
                                  pipe := s.nextPipe g } ∧
    e.2.cn.orders = s.cn.orders + 1 ∧ ∀ x, x ≠ e.1 → e.2.frame x = s.frame x) ∧
  -- ETH_FRAME_LAST_BIT: the trail's result comes first where it is due; then the frame's check is known, its last segments go, and a frame that is none is dismissed, while one that passes is learnt from, metered and counted.
  (∀ (s : State) (tag n : Nat) (f : FrameRec) (w : List Codeword), s.running = true → s.frame tag = some f →
    f.port = some n → f.last = none → f.isCopy = false →
    let fin := f.first + s.wireTime n f.bytes.length
    let u := if f.stage = .trail ∧ f.first + 26 ≤ max s.now fin then (s.upTo (f.first + 26)).trailResult tag f else s
    let v := u.upTo fin
    let c := v.lastCheck n f.bytes (w.any fun x => !corrected x ((v.group (n / 8)).mode == 0))
    let upto := if (v.portCfg n).maxFrame < f.bytes.length then (v.portCfg n).maxFrame else f.bytes.length
    let x := ((c.2.modFrame tag fun f => { f with check := c.1 }).cutTo tag upto c.1)
    let y := x.modFrame tag fun f => { f with last := some x.now }
    let z := if c.1 = 3 then y.dismiss tag else y
    exec (.ethFrameLastBit tag w) s = .next ((if c.1 = 1 then z.fcsPass tag else z).reap tag)) ∧
  -- The check of a frame: 3 for a runt, a frame too long or MAC control, 2 for a failed FCS or a codeword past correction, else 1; and what each counts.
  (∀ (s : State) (n : Nat) (b : List Byte) (bad : Bool), let c := s.lastCheck n b bad
    (b.length < 64 → c = (3, s.ethCtr n 5 1)) ∧
    (64 ≤ b.length → (s.portCfg n).maxFrame < b.length → c = (3, s.ethCtr n 6 1)) ∧
    (64 ≤ b.length → b.length ≤ (s.portCfg n).maxFrame → (bad = true ∨ fcsOk b = false) → c = (2, s.ethCtr n 4 1)) ∧
    (64 ≤ b.length → b.length ≤ (s.portCfg n).maxFrame → bad = false → fcsOk b = true → nfld b 12 2 = 0x8808 →
      c = (3, s.macControlIn n b)) ∧
    (64 ≤ b.length → b.length ≤ (s.portCfg n).maxFrame → bad = false → fcsOk b = true → nfld b 12 2 ≠ 0x8808 →
      c = (1, (s.ethCtr n 0 1).ethCtr n 1 b.length))) ∧
  -- What a codeword's errors come to in the outer code, at most 30: 2 for each wrong symbol, and in L400 16 for each inner codeword that is erased, while single bits are put right; in S200 a single bit is a wrong symbol.
  (∀ w : Codeword, (corrected w true = true ↔ 2 * w.symbols + 16 * w.erased ≤ 30) ∧
    (corrected w false = true ↔ 2 * (w.symbols + w.single) ≤ 30)) ∧
  -- TRAIL_RESULT comes 6.4 ns after T_first, for every frame that waits for it.
  (∀ (s : State) (tag : Nat) (f : FrameRec), s.running = true → s.frame tag = some f → f.stage = .trail →
    exec (.trailResult tag) s = .next (((s.upTo (f.first + 26)).trailResult tag f).reap tag)) ∧
  (∀ (s : State) (tag : Nat) (f : FrameRec), s.frame tag = some f → f.stage ≠ .trail →
    exec (.trailResult tag) s = .next s) ∧
  -- A frame with a header the trail does not parse goes to the saplings with its record filled in.
  (∀ (s : State) (tag : Nat) (f : FrameRec), s.frame tag = some f → f.stage = .trail → f.gone = false →
    f.given = none → f.kind = 0 → f.last = none → (s.portEntry f.id).getLsbD 2 = false →
    bit (parseHdrs f.window).bits 7 = true → s.arrivedBytes f ≤ f.cut → ∃ f', (s.trailResult tag f).frame tag = some f' ∧
      f'.stage = .window ∧ f'.bytes = f.bytes ∧ f'.md = s.trailMd f (parseHdrs f.window) ∧ f'.dec = f.dec) ∧
  -- DECISION_RELEASE: a decided frame whose lane is clear sends what has come of it and its decision, and steers what follows; to a port that is down, or a function that sleeps, it is freed.
  (∀ (s : State) (tag : Nat) (f : FrameRec), s.running = true → s.frame tag = some f → f.stage = .decided →
    f.released = false → f.gone = false → s.laneClear f = true →
    let u := s.cutTo tag (s.arrivedBytes f) 0
    let f' := { ((u.frame tag).getD f) with released := true, resolved := true, decidedAt := u.now }
    let v := (u.setFrame tag f').steerTo tag f'
    exec (.decisionRelease tag) s = .next (match if f'.refused then none else v.releaseDrop f' with
      | some x => x.freeFrame tag
      | none => v.postDecision tag)) ∧
  -- Only a frame for a port that is down, or for a function that sleeps, is freed at its release.
  (∀ (s : State) (f : FrameRec) (n : Nat), f.outPort = some n →
    s.releaseDrop f = if s.isUp n then none else some (s.ethCtr n 25 1)) ∧
  -- A frame behind an unresolved one of its lane is not released.
  (∀ (s : State) (tag : Nat) (f : FrameRec), s.running = true → s.frame tag = some f → s.laneClear f = false →
    exec (.decisionRelease tag) s = .next s)

/-- 06 R160 to R163: how a window reaches a sapling thread. -/
def Obligations.SaplingDispatch : Prop :=
  -- WINDOW_READY: the frame joins the dispatch queue when its window is there; with 2,048 waiting it is dropped and counted, with EV_PARSE_BACKLOG at most once in a window.
  (∀ (s : State) (tag : Nat) (f : FrameRec), s.running = true → s.frame tag = some f → f.stage = .window →
    f.gone = false → (f.port.isSome = true → 64 ≤ f.bytes.length) →
    let g := tagGrove tag
    let u := s.upTo (s.windowAt f)
    let p := s.parser g
    let w := tally p.backlogWindow u.clk
    let v := (u.setParser g { p with backlogWindow := some w.1 }).parseCtr g 10 1
    exec (.windowReady tag) s = .next (
      if p.queue.length < 2048 then
        (u.setParser g { p with queue := p.queue ++ [tag], ctrs := p.ctrs.peak 13 (p.queue.length + 1) }).setFrame tag
          { f with stage := .ready }
      else (if w.2 then v.fireDev g 2 0x0410 (tallyData g w.1.2) else v).decide_ tag .free false)) ∧
  -- WINDOW_DISPATCH: the head of the queue goes to a live thread without a frame, or, while no thread is idle, to a second context.
  (∀ (s : State) (t : Thr) (tag : Nat) (rest : List Nat), s.running = true → s.saplingLive t = true →
    (s.parser t.grove).queue = tag :: rest →
    ((s.parser t.grove).ctxs t = [] ∨ ((s.parser t.grove).ctxs t).length = 1 ∧ s.someIdle t.grove = false) →
    let p := s.parser t.grove
    exec (.windowDispatch t) s = .next ((s.setParser t.grove (Parser.setCtxs
      { p with queue := rest, ctrs := p.ctrs.inc 0 } t (p.ctxs t ++ [{ tag := tag }]))).modFrame tag
        fun f => { f with stage := .parsing })) ∧
  -- THREAD_FRAME_START: registers, flags and key start at zero, the record is the frame's, the bank the active one.
  (∀ (s : State) (t : Thr) (c : Ctx) (cs : List Ctx) (f : FrameRec), s.running = true →
    (s.parser t.grove).ctxs t = c :: cs → c.started = false → s.frame c.tag = some f →
    exec (.threadFrameStart t) s = .next (s.setParser t.grove ((s.parser t.grove).setCtxs t
      ({ tag := c.tag, started := true, regs := [], flags := 0, key := 0, md := f.md, pc := 0, count := 0
         bank := (s.parser t.grove).active } :: cs)))) ∧
  -- THINT_CANDIDATE_DELIVER: the candidate of a frame whose walk gave an action and whose FCS passed goes on the ring, or is counted as dropped.
  (∀ (s : State) (tag a : Nat) (f : FrameRec) (h : Hint), s.running = true → s.frame tag = some f → f.hint = some h →
    h.action = some a → f.check = 1 →
    exec (.thintCandidateDeliver tag) s = .next (((s.setFrame tag { f with hint := none }).deliverCandidate (tagGrove tag)
      ⟨h.key, h.ra, h.cls, a, eBits f.md 31 0⟩).reap tag)) ∧
  (∀ (s : State) (g : Nat) (r : CandRec), let x := s.svc g
    let t := s.deliverCandidate g r
    if (x.candPi - x.candCi).toNat < 512 then
      (t.svc g).candPi = x.candPi + 1 ∧ (t.svc g).candRing = x.candRing ++ [r] ∧
        SMap.getD (t.parser g).ctrs 11 0 = SMap.getD (s.parser g).ctrs 11 0 + 1
    else t.svc g = x ∧ SMap.getD (t.parser g).ctrs 12 0 = SMap.getD (s.parser g).ctrs 12 0 + 1)

/-- 06 R166 to R171: the register, comparing, branching, extracting, key and record instructions of a sapling. Each writes
what it names, moves the program counter on by one or to its target, and counts itself. -/
def Obligations.SaplingInstructions : Prop :=
  (∀ (s : State) (t : Thr) (c : Ctx) (w : W64), s.standsAt t c w →
    let wr (v : W64) : Host.Outcome State Fault Refusal := .next (s.setCtx t (c.next.setReg (rd w) v))
    let a := c.reg (ra w)
    let b := c.reg (rb w)
    let win := (s.frame c.tag).elim [] fun f => f.bytes.take (windowLen f)
    let go (c : Ctx) : Host.Outcome State Fault Refusal := .next (s.setCtx t c)
    let at_ := eBits w 43 36 + if w.getLsbD 47 then a.toNat else 0
    let n := eBits w 46 44 + 1
    (opOf w = 0x01 → exec (.spNop t) s = .next (s.setCtx t c.next)) ∧
    (opOf w = 0x20 → exec (.spAdd t) s = wr (a + b)) ∧ (opOf w = 0x21 → exec (.spSub t) s = wr (a - b)) ∧
    (opOf w = 0x22 → exec (.spAnd t) s = wr (a &&& b)) ∧ (opOf w = 0x23 → exec (.spOr t) s = wr (a ||| b)) ∧
    (opOf w = 0x24 → exec (.spXor t) s = wr (a ^^^ b)) ∧
    (opOf w = 0x25 → exec (.spShl t) s = wr (a <<< (b.toNat % 64))) ∧
    (opOf w = 0x26 → exec (.spShr t) s = wr (a >>> (b.toNat % 64))) ∧
    (opOf w = 0x30 → exec (.spAddi t) s = wr (a + imm w)) ∧ (opOf w = 0x31 → exec (.spSubi t) s = wr (a - imm w)) ∧
    (opOf w = 0x32 → exec (.spAndi t) s = wr (a &&& imm w)) ∧ (opOf w = 0x33 → exec (.spOri t) s = wr (a ||| imm w)) ∧
    (opOf w = 0x34 → exec (.spXori t) s = wr (a ^^^ imm w)) ∧
    (opOf w = 0x35 → exec (.spShli t) s = wr (a <<< ((imm w).toNat % 64))) ∧
    (opOf w = 0x36 → exec (.spShri t) s = wr (a >>> ((imm w).toNat % 64))) ∧
    (opOf w = 0x37 → exec (.spLdi t) s = wr (imm w)) ∧
    -- EXT and EXTM: big-endian from the window, little-endian from the record
    (opOf w = 0x10 → at_ + n ≤ win.length →
      exec (.spExt t) s = go (c.next.setReg (rd w) (extract w (beNat (slice win at_ n))))) ∧
    (opOf w = 0x11 → at_ + n ≤ 128 →
      exec (.spExtm t) s = go (c.next.setReg (rd w) (extract w (leNat (slice (mdBytes c.md) at_ n))))) ∧
    -- beyond the window's end it is a WINDOW fault, with the frame an exception
    (opOf w = 0x10 → win.length < at_ + n → exec (.spExt t) s = .next (s.parseFault t c 4 c.pc (c.count + 1))) ∧
    -- and so it is beyond the record's end, and for KEYW
    (opOf w = 0x11 → 128 < at_ + n → exec (.spExtm t) s = .next (s.parseFault t c 4 c.pc (c.count + 1))) ∧
    (opOf w = 0x61 → win.length < at_ + (eBits w 28 24 + 1) →
      exec (.spKeyw t) s = .next (s.parseFault t c 4 c.pc (c.count + 1))) ∧
    -- COMP and COMPI write one flag
    (opOf w = 0x40 → exec (.spComp t) s =
      go (c.next.setFlag (eBits w 54 52) (condHolds (eBits w 43 40) a (c.reg (rb w))))) ∧
    (opOf w = 0x41 → exec (.spCompi t) s = go (c.next.setFlag (eBits w 54 52) (condHolds (eBits w 43 40) a (imm w)))) ∧
    -- the branches
    (opOf w = 0x50 → exec (.spBr t) s = go { c.next with pc := eBits w 11 0 }) ∧
    (opOf w = 0x51 → exec (.spBt t) s = go (if c.flag (eBits w 54 52) then { c.next with pc := eBits w 11 0 } else c.next)) ∧
    (opOf w = 0x52 → exec (.spBf t) s = go (if c.flag (eBits w 54 52) then c.next else { c.next with pc := eBits w 11 0 })) ∧
    (opOf w = 0x53 → exec (.spBrx t) s = go { c.next with pc := eBits w 11 0 + min a.toNat (eBits w 27 16) }) ∧
    -- KEY, KEYI and KEYW write key bits and no others
    (opOf w = 0x60 → exec (.spKey t) s = go { c.next with key := keyField c.key w a }) ∧
    (opOf w = 0x62 → exec (.spKeyi t) s = go { c.next with key := keyField c.key w (imm w) }) ∧
    (opOf w = 0x61 → at_ + (eBits w 28 24 + 1) ≤ win.length → exec (.spKeyw t) s =
      go { c.next with key := putKey c.key (eBits w 21 16) (slice win at_ (eBits w 28 24 + 1)) }) ∧
    -- EMIT writes bytes of the record, THINT the hint
    (opOf w = 0x70 → exec (.spEmit t) s = go { c.next with
      md := setBits c.md (8 * (eBits w 38 32 + n) - 1) (8 * eBits w 38 32) (a.toNat % 2 ^ (8 * n)) }) ∧
    (opOf w = 0x80 → exec (.spThint t) s = go { c.next with hint := some { ra := a, cls := eBits w 3 0 } })) ∧
  -- An immediate amount of a shift above 63 is not valid.
  (∀ w : W64, (opOf w = 0x35 ∨ opOf w = 0x36) → 63 < (imm w).toNat → wordValid w = false) ∧
  -- KEY and KEYI leave the key bits outside their span; within it they are the low bits of the value.
  (∀ (key : BitVec 512) (w v : W64) (i : Nat), let n := if eBits w 47 42 = 0 then 64 else eBits w 47 42
    (keyField key w v).getLsbD i = if eBits w 40 32 ≤ i ∧ i < eBits w 40 32 + n ∧ i < 512
      then v.getLsbD (i - eBits w 40 32) else key.getLsbD i) ∧
  -- KEYW: the first byte goes to key byte KBYTE, which is bits 511 - 8 KBYTE to 504 - 8 KBYTE, and so on.
  (∀ (key : BitVec 512) (k j : Nat) (b : List Byte), k + b.length ≤ 64 → j < 64 →
    (putKey key k b).extractLsb' (504 - 8 * j) 8 =
      if k ≤ j then b.getD (j - k) (key.extractLsb' (504 - 8 * j) 8) else key.extractLsb' (504 - 8 * j) 8)

/-- 06 R172 to R178: how a parse ends. Where the spec leaves a choice or a value open, the clauses follow assumption log
entries 29 and 38: there they state the model's choice. -/
def Obligations.ParseEnds : Prop :=
  -- HALT of a loaded program: CLASSIFY hands the key to the classifier, DROP frees the frame, EXCEPTION sends it to the grove's exception queue.
  (∀ (s : State) (t : Thr) (c : Ctx) (w : W64), s.standsAt t c w → opOf w = 0x02 →
    exec (.spHalt t) s = .next (s.halt t c (eBits w 1 0) (eBits w 15 8) (c.count + 1) c.key)) ∧
  (∀ (s : State) (t : Thr) (c : Ctx) (reason count : Nat) (key : BitVec 512),
    s.halt t c 0 reason count key = ((s.endParse t c 0 0 0 count 2).modFrame c.tag fun f =>
      { f with hint := c.hint.map fun h => { h with key := BitVec.ofNat 384 (eBits key 511 128) } }).enqueueKey c.tag key ∧
    s.halt t c 1 reason count key = (s.endParse t c 1 reason 0 count 3).decide_ c.tag .free false ∧
    s.halt t c 2 reason count key = (s.endParse t c 2 reason 0 count 4).decide_ c.tag .exception false) ∧
  -- The end of a parse: its context is free, the instructions are counted, and the frame takes the record.
  (∀ (s : State) (t : Thr) (c : Ctx) (f : FrameRec) (status reason pc count ctr : Nat), s.frame c.tag = some f →
    let u := s.endParse t c status reason pc count ctr
    (u.parser t.grove).ctxs t = ((s.parser t.grove).ctxs t).drop 1 ∧
    u.frame c.tag = some { f with md := endMd c.md status reason pc count }) ∧
  -- A key joins the classifier's queue while fewer than 1,024 wait.
  (∀ (s : State) (tag : Nat) (key : BitVec 512) (f : FrameRec), s.frame tag = some f →
    (s.classifier (tagGrove tag)).keys.length < 1024 → ∃ f', (s.enqueueKey tag key).frame tag = some f' ∧
      f'.stage = .key ∧ f'.key = key ∧
      ((s.enqueueKey tag key).classifier (tagGrove tag)).keys = (s.classifier (tagGrove tag)).keys ++ [tag]) ∧
  -- HALT on the built-in program: CLASSIFY with the standard key, after a number of instructions that the spec leaves open, from 1 to its longest path.
  (∀ (s : State) (t : Thr) (c : Ctx) (cs : List Ctx) (f : FrameRec), s.running = true →
    (s.parser t.grove).ctxs t = c :: cs → c.started = true → (s.parser t.grove).isBuiltin c.bank = true →
    s.frame c.tag = some f → c.bad = false → (s.parser t.grove).badWords = [] →
    exec (.spHalt t) s = .next ((s.drawn 2).halt t c 0 0
      (1 + (Config.freeValue 16 s.free).toNat % max 1 Config.builtinLongest.val) (standardKey f))) ∧
  -- OVERRUN_FAULT after 96 instructions
  (∀ (s : State) (t : Thr) (c : Ctx) (cs : List Ctx), s.running = true → (s.parser t.grove).ctxs t = c :: cs →
    c.started = true → c.count = 96 → exec (.overrunFault t) s = .next (s.parseFault t c 3 c.pc 96)) ∧
  -- FALL_THROUGH_FAULT past the last word of a loaded program, and at a word whose opcode is no instruction's
  (∀ (s : State) (t : Thr) (c : Ctx) (cs : List Ctx), s.running = true → (s.parser t.grove).ctxs t = c :: cs →
    c.started = true → c.count < 96 → (s.parser t.grove).isBuiltin c.bank = false →
    ((s.parser t.grove).words c.bank).length ≤ c.pc →
    exec (.fallThroughFault t) s = .next (s.parseFault t c 5 c.pc c.count)) ∧
  (∀ (s : State) (t : Thr) (c : Ctx) (cs : List Ctx) (w : W64), s.running = true → (s.parser t.grove).ctxs t = c :: cs →
    c.started = true → c.count < 96 → (s.parser t.grove).isBuiltin c.bank = false →
    ((s.parser t.grove).words c.bank)[c.pc]? = some w → reservedMask (opOf w) = none →
    exec (.fallThroughFault t) s = .next (s.parseFault t c 5 c.pc (c.count + 1))) ∧
  -- A fault: the end of the parse, a notification on channel 0, EV_PARSE_FAULT at most once in a window, and the frame an exception.
  (∀ (s : State) (t : Thr) (c : Ctx) (status pc count : Nat), s.parseFault t c status pc count =
    (((s.endParse t c status 0 pc count (status + 2)).notifyParseFault t status pc).fireParseFault t.grove status).decide_
      c.tag .exception false) ∧
  -- A word that is not valid, of any opcode's row, is an INVALID fault.
  (∀ (s : State) (t : Thr) (c : Ctx) (w : W64), s.running = true → s.nextWord t = some (c, w) → s.wordBad t c = false →
    wordValid w = false → opOf w = 0x20 → exec (.spAdd t) s = .next (s.parseFault t c 5 c.pc (c.count + 1))) ∧
  -- A word that reads with an uncorrectable error is a MEMORY fault.
  (∀ (s : State) (t : Thr) (c : Ctx) (w : W64), s.running = true → s.nextWord t = some (c, w) → s.wordBad t c = true →
    exec (.spNop t) s = .next (s.memoryFault t c c.pc (c.count + 1)))

/-- 06 R182 to R188: parse programs are staged, loaded and switched grove by grove, and read back. Where the spec leaves a
choice or a value open, the clauses follow assumption log entry 29: there they state the model's choice. -/
def Obligations.ParseProgramCommands : Prop :=
  -- CLASS.PARSE_STAGE: words go into the staging area of the mailbox, which CLEAR first empties.
  (∀ (s : State) (r : Request), s.asks r 0x0410 →
    let p := r.payload
    let off := fld p 2 2
    let n := fld p 4 2
    p.length = 8 + 8 * n → fld p 0 1 ≤ 1 → zeroAt p 1 1 = true → 1 ≤ n → n ≤ 501 → zeroAt p 6 2 = true → off + n ≤ 2048 →
    let buf := (List.range n).foldl (fun m i => SMap.set m (off + i) (BitVec.ofNat 64 (fld p (8 + 8 * i) 8)))
      (if fld p 0 1 = 1 then [] else SMap.getD s.ps.staging r.mb [])
    exec .classParseStage s = .next ({ s.taken with ps := { s.ps with staging := SMap.set s.ps.staging r.mb buf } }.reply r 0)) ∧
  -- CLASS.PARSE_LOAD of a staged program that passes the check, or of the built-in one, onto the groves named
  (∀ (s : State) (r : Request), s.asks r 0x0411 →
    let p := r.payload
    let gs := maskBits (fld p 0 2) 16
    let buf := SMap.getD s.ps.staging r.mb []
    let ws := (List.range (fld p 2 2)).map fun i => SMap.getD buf i 0
    p.length = 8 → fld p 0 2 ≠ 0 → fld p 4 1 ≤ 1 → zeroAt p 5 3 = true → (∀ g ∈ gs, g < s.groves) →
    s.groveGate r.actor gs = true → (∀ g ∈ gs, s.isHeld (.parse g) = false ∧ s.groveFailed g = false) →
    (fld p 4 1 = 0 → checkProgram buf (fld p 2 2) = none) → s.sl.ops.length < 64 →
    exec .classParseLoad s = .next (s.taken.replyStarted r gs.length
      (.parseLoad gs gs (if fld p 4 1 = 1 then none else some ⟨ws, longestPath ws⟩)))) ∧
  -- A program that fails the check is BAD_ARG with the first failing word.
  (∀ (s : State) (r : Request) (i k : Nat), s.asks r 0x0411 →
    let p := r.payload
    let gs := maskBits (fld p 0 2) 16
    p.length = 8 → fld p 0 2 ≠ 0 → fld p 4 1 = 0 → zeroAt p 5 3 = true → (∀ g ∈ gs, g < s.groves) →
    s.groveGate r.actor gs = true → (∀ g ∈ gs, s.isHeld (.parse g) = false ∧ s.groveFailed g = false) →
    checkProgram (SMap.getD s.ps.staging r.mb []) (fld p 2 2) = some (i, k) →
    exec .classParseLoad s = .next (s.taken.reply r 0x0015 (leBytes 2 i ++ leBytes 1 k))) ∧
  -- PARSE_BANK_SWITCH, in the operation's turn: the next grove switches once no frame runs on its idle bank, and the last ends the operation; a bank that does not verify ends it INTERNAL.
  (∀ (s : State) (h g : Nat) (all rest : List Nat) (ok : Bool) (o : LongOp) (p : Option Program),
    s.stepsOn h o (.parseLoad all (g :: rest) p) →
    let u := s.atStep h
    exec (.parseBankSwitch h ok) s = .next (
      if ok = false then u.endOp o.step 0x00FF
      else if u.bankBusy g = true then u
      else if rest = [] then (u.switchBank g p).endOp o.step 0
      else (u.switchBank g p).setOp { o.step with data := .parseLoad all rest p })) ∧
  -- The idle bank takes the program and becomes active, the counters are reset, and the configuration holds the program.
  (∀ (s : State) (g : Nat) (p : Program), (s.parser g).queue = [] → (s.parser g).active ≤ 1 →
    let t := s.switchBank g (some p)
    (t.parser g).active = 1 - (s.parser g).active ∧ (t.parser g).words (t.parser g).active = p.words ∧ (t.parser g).ctrs = [] ∧
      SMap.get t.cfg.programs g = some p ∧
      SMap.getD t.cfg.parseLoads g 0 = SMap.getD s.cfg.parseLoads g 0 + 1) ∧
  -- CLASS.PARSE_GET and CLASS.PARSE_STATS
  (∀ (s : State) (r : Request) (g : Nat), s.asks r 0x0412 → r.payload.length = 1 → fld r.payload 0 1 = g →
    s.ownsWholeGrove r.actor g →
    let ws := (s.parser g).words (s.parser g).active
    let longest := match SMap.get s.cfg.programs g with
      | some p => if p.longest ≤ 0xFFFF then p.longest else 0
      | none => Config.builtinLongest.val
    exec .classParseGet s = .next (s.taken.reply r 0
      (leBytes 2 ws.length ++ leBytes 2 longest ++ leBytes 4 (SMap.getD s.cfg.parseLoads g 0) ++ programDigest ws))) ∧
  (∀ (s : State) (r : Request) (g : Nat), s.asks r 0x0413 → r.payload.length = 1 → fld r.payload 0 1 = g →
    s.ownsWholeGrove r.actor g → exec .classParseStats s = .next (s.taken.reply r 0 (ctrBytes (s.parser g).ctrs 14)))

/-- 07 R191 to R200, R212: a walk of the tree from its key to its end. Where the spec leaves a choice or a value open, the
clauses follow assumption log entry 39: there they state the model's choice. -/
def Obligations.TreeWalk : Prop :=
  -- WALK_START: the head of the key queue goes to the lowest live engine with fewer than 16 walks.
  (∀ (s : State) (g tag e : Nat) (rest : List Nat), s.running = true → (s.classifier g).keys = tag :: rest →
    ((s.live 0x03 g 32).find? fun e => ((s.classifier g).walks.filter (·.engine == e)).length < 16) = some e →
    let c := s.classifier g
    let n := SMap.getD c.numbers e 0
    exec (.walkStart g) s = .next ((s.setClassifier g { c with
      keys := rest, numbers := SMap.set c.numbers e (n + 1), ctrs := c.ctrs.inc 0, walks := c.walks ++ [⟨tag, e, n, c.active, s.now⟩] }).modFrame
        tag fun f => { f with stage := .walking })) ∧
  -- Without a key, or with every engine at its 16 walks, nothing starts.
  (∀ (s : State) (g : Nat), (s.classifier g).keys = [] → exec (.walkStart g) s = .next s) ∧
  (∀ (s : State) (g : Nat),
    ((s.live 0x03 g 32).find? fun e => ((s.classifier g).walks.filter (·.engine == e)).length < 16) = none →
    exec (.walkStart g) s = .next s) ∧
  -- WALK_END: 6 ns after its key and no earlier, the walk of its tree decides the frame; an illegal or unreadable node, or an uncorrectable error, frees it.
  (∀ (s : State) (tag : Nat) (memErr : Bool) (w : Walk) (f : FrameRec), s.running = true → s.frame tag = some f →
    (s.classifier (tagGrove tag)).walks.find? (·.tag == tag) = some w →
    let v := s.upTo (w.accepted + 24)
    let c := s.classifier (tagGrove tag)
    let u := (v.setClassifier (tagGrove tag) { c with walks := c.walks.filter (·.tag != tag) }).classCtr (tagGrove tag) 3
      (min 4088 ((v.now - w.accepted - 24) / 2))
    let h := c.half w.half
    let r := h.walk f.key (w.number % 16)
    exec (.walkEnd tag memErr) s = .next (
      if memErr then u.walkError tag w r.2 (h.way f.key (w.number % 16)).2.1
      else
        let u := u.classCtr (tagGrove tag) 2 r.2.length
        match r.1 with
        | .action i => (u.modFrame tag fun f => { f with hint := f.hint.map fun h => { h with action := some i } }).decideAction tag i false
        | .miss => (u.modFrame tag fun f => { f with hint := none }).missAction tag false
        | .fault k => u.walkBad tag w h r.2 k)) ∧
  -- A FAULT discards the candidate, counts, logs the place with the level reached, and frees the frame.
  (∀ (s : State) (tag level : Nat) (l : LocWord), s.walkFault tag l level =
    ((((s.modFrame tag fun f => { f with hint := none }).classCtr (tagGrove tag) 7 1).log l 0x0A 1 (BitVec.ofNat 32 level)).decide_
      tag .free false)) ∧
  -- A half whose root is an illegal node answers FAULT, whatever the key.
  (∀ (h : TreeHalf) (key : BitVec 512) (l : Nat), nodeLegal h.root = false → (h.walk key l).1 = .fault 0) ∧
  -- A leaf gives the action of its first rule whose masked residual matches, and the two rules of its NEXT slot follow its own.
  (∀ (h : TreeHalf) (key : BitVec 512) (l : Nat), nodeLegal h.root = true → h.root.extractLsb' 254 2 = 3 →
    let res := ((key.extractLsb' (h.root.extractLsb' 224 9).toNat 24) ++ (key.extractLsb' (h.root.extractLsb' 215 9).toNat 16)).toNat
    let c := (h.root.extractLsb' 251 3).toNat
    let own := (if 1 ≤ c then leafRule h.root 96 res else none).or (if 2 ≤ c then leafRule h.root 0 res else none)
    let slot := (h.root.extractLsb' 233 18).toNat
    h.walk key l = match own with
      | some a => (.action a, [])
      | none => if c ≤ 2 then (.miss, []) else match h.read slot with
        | none => (.fault 0, [slot])
        | some x => match (leafRule x 96 res).or (if c = 4 then leafRule x 0 res else none) with
          | some a => (.action a, [slot])
          | none => (.miss, [slot])) ∧
  -- A walk of the empty tree is a miss that reads nothing.
  (∀ (key : BitVec 512) (l : Nat) (h : TreeHalf), h.root = emptyRoot → h.walk key l = (.miss, []))

/-- 07 R193 to R195: the children of a node of the tree, and the one that a key selects. -/
def Obligations.TreeNodeChildren : Prop :=
  ∀ (n : BitVec 256) (key : BitVec 512), nodeLegal n = true →
    let off := (n.extractLsb' 226 9).toNat
    -- CUT: slice A above slice B
    (n.extractLsb' 254 2 = 0 → let wa := (n.extractLsb' 222 4).toNat; let wb := (n.extractLsb' 209 4).toNat
      1 ≤ wa ∧ wa + wb ≤ 12 ∧ n.extractLsb' 0 209 = 0 ∧ nodeChildren n = 2 ^ (wa + wb) ∧
      childIndex n key = (key.extractLsb' off wa).toNat <<< wb ||| (key.extractLsb' (n.extractLsb' 213 9).toNat wb).toNat) ∧
    -- COMPARE: how many of the three thresholds the slice reaches
    (n.extractLsb' 254 2 = 1 → off ≤ 480 ∧ n.extractLsb' 96 130 = 0 ∧ n.extractLsb' 64 32 ≤ n.extractLsb' 32 32 ∧
      n.extractLsb' 32 32 ≤ n.extractLsb' 0 32 ∧ nodeChildren n = 4 ∧
      childIndex n key = ([n.extractLsb' 64 32, n.extractLsb' 32 32, n.extractLsb' 0 32].filter fun x =>
        decide (x ≤ key.extractLsb' off 32)).length) ∧
    -- EQUAL: whether the slice is the value
    (n.extractLsb' 254 2 = 2 → let w := (n.extractLsb' 218 8).toNat
      1 ≤ w ∧ w ≤ 192 ∧ n.extractLsb' 192 26 = 0 ∧ (n.extractLsb' 0 192).toNat < 2 ^ w ∧ nodeChildren n = 2 ∧
      childIndex n key = if (key.extractLsb' off w).toNat = (n.extractLsb' 0 192).toNat then 1 else 0) ∧
    -- The child lies at CHILD_BASE, in one of 16 copies where REP is set.
    (n.extractLsb' 254 2 ≠ 3 → ∀ (h : TreeHalf) (l fuel level slot : Nat) (reads : List Nat) (x : BitVec 256), level ≠ 7 →
      slot = (n.extractLsb' 235 18).toNat + childIndex n key + (if n.getLsbD 253 then l * (nodeChildren n + 1) else 0) →
      h.read slot = some x → h.descend key l (fuel + 1) level n reads = h.descend key l fuel (level + 1) x (reads ++ [slot]))

/-- 07 R201 to R204, R223: rules staged and the order in which they are tried. 07 R203, R205 to R209: CLASS.TREE_INSTALL
and its steps. Where the spec leaves a choice or a value open, the clauses follow assumption log entries 28 and 39:
there they state the model's choice. -/
def Obligations.RulesAndTreeInstall : Prop :=
  -- CLASS.RULE_STAGE: the rules that pass the checks join the staging area, which CLEAR first empties; the index of the first is answered.
  (∀ (s : State) (r : Request), s.asks r 0x0401 →
    let p := r.payload
    let n := fld p 2 2
    let rs := (List.range n).map fun i => readRule p (4 + 144 * i)
    let area := if fld p 0 1 = 1 then [] else SMap.getD s.cl.staging r.mb []
    p.length = 4 + 144 * n → fld p 0 1 ≤ 1 → zeroAt p 1 1 = true → 1 ≤ n → n ≤ 27 → (∀ x ∈ rs, x.legal = true) →
    (∀ i, i < n → zeroAt p (4 + 144 * i + 135) 1 = true ∧ zeroAt p (4 + 144 * i + 140) 4 = true) →
    s.isHeld (.rules r.mb) = false → exec .classRuleStage s = .next (
      if area.length + n ≤ 131072 then
        ({ s.taken with cl := { s.cl with staging := SMap.set s.cl.staging r.mb (area ++ rs) } }).reply r 0 (leBytes 4 area.length)
      else s.taken.reply r 0x0020)) ∧
  -- CLASS.ROUTE_STAGE: the same with the rules that routes stand for
  (∀ (s : State) (r : Request), s.asks r 0x0402 →
    let p := r.payload
    let n := fld p 2 2
    let a := fld p 4 1
    let v := fld p 5 1
    let b := fld p 8 4
    let rs := (List.range n).map fun i => readRoute p (12 + 24 * i) a v b
    let area := if fld p 0 1 = 1 then [] else SMap.getD s.cl.staging r.mb []
    p.length = 12 + 24 * n → fld p 0 1 ≤ 1 → zeroAt p 1 1 = true → 1 ≤ n → n ≤ 166 → zeroAt p 6 2 = true → a ≤ 48 →
    (v = 0xFF ∨ v ≤ 62 ∧ (v + 1 < a ∨ a + 15 < v)) → b + 224 < 2 ^ 32 →
    (∀ i, i < n → routeLegal p (12 + 24 * i) = true) → s.isHeld (.rules r.mb) = false → exec .classRouteStage s = .next (
      if area.length + n ≤ 131072 then
        ({ s.taken with cl := { s.cl with staging := SMap.set s.cl.staging r.mb (area ++ rs) } }).reply r 0 (leBytes 4 area.length)
      else s.taken.reply r 0x0020)) ∧
  -- An illegal rule is BAD_ARG, and nothing is staged.
  (∀ (s : State) (r : Request) (i : Nat), s.asks r 0x0401 → i < fld r.payload 2 2 →
    (readRule r.payload (4 + 144 * i)).legal = false → exec .classRuleStage s = .next (s.taken.reply r 0x0015)) ∧
  -- Compiled order holds the same rules, by falling priority; the first that matches gives the action.
  (∀ (l : List Rule), (compiledOrder l).Perm l ∧ (compiledOrder l).Pairwise (fun a b => b.priority ≤ a.priority)) ∧
  (∀ (l : List Rule) (key : BitVec 512) (i : Nat), firstMatch l key = some i →
    ∃ r ∈ l, r.matches key = true ∧ r.action = i) ∧
  -- CLASS.TREE_INSTALL of the staged rules, or of the empty tree, onto the groves named
  (∀ (s : State) (r : Request), s.asks r 0x0403 →
    let p := r.payload
    let gs := maskGroves (fld p 0 2)
    p.length = 8 → fld p 2 1 ≤ 1 → zeroAt p 3 5 = true → fld p 0 2 ≠ 0 → (∀ g ∈ gs, g < s.groves) → s.groveGate r.actor gs = true →
    s.isHeld (.rules r.mb) = false → (∀ g ∈ gs, s.isHeld (.tree g) = false ∧ s.groveFailed g = false) → s.sl.ops.length < 64 →
    exec .classTreeInstall s = .next (({ s.taken with cl := { s.cl with
      builds := SMap.set s.cl.builds r.mb { status := 0x0001 } } }).replyStarted r (gs.length + 1)
        (.treeInstall gs gs none (if fld p 2 1 = 1 then 0 else (SMap.getD s.cl.staging r.mb []).length) 0))) ∧
  -- TREE_INSTALL_STEP compiles first, to an image that the staged rules allow, and records what came of it; a build that fails ends it with NO_SPACE. An image they do not allow does nothing.
  (∀ (s : State) (h n f : Nat) (image : TreeBuild) (ok : Bool) (o : LongOp) (all left : List Nat),
    s.stepsOn h o (.treeInstall all left none n f) →
    let u := s.atStep h
    let b := if n = 0 then emptyBuild else image
    let w := u.modBuild o.mb fun x => { x with
      kind := b.kind, rule := b.rule, slots := b.slots, depth := b.depth, replDepth := b.replDepth, us := b.compileUs }
    exec (.treeInstallStep h image ok) s = .next (
      if n ≠ 0 ∧ buildAnswers image (SMap.getD u.cl.staging o.mb []) = false then u.setOp o
      else if b.kind = 0 then w.setOp { o.step with data := .treeInstall all left (some b) n 0 }
      else (w.modBuild o.mb fun x => { x with status := 0x0020 }).endOp o.step 0x0020)) ∧
  -- Then each grove: once no walk is left on its inactive half, a half that reads back as written takes over from the other in one step; one that twice does not ends the operation with INTERNAL; the last grove ends it.
  (∀ (s : State) (h n f g : Nat) (image b : TreeBuild) (ok : Bool) (o : LongOp) (all rest : List Nat),
    s.stepsOn h o (.treeInstall all (g :: rest) (some b) n f) →
    let u := s.atStep h
    let c := u.classifier g
    let w := u.setClassifier g (c.install b (compiledOrder (if n = 0 then [] else SMap.getD u.cl.staging o.mb [])) o.startSeq)
    exec (.treeInstallStep h image ok) s = .next (
      if (c.walks.any fun w => w.half == 1 - c.active) = true then u
      else if ok = false then
        if f = 0 then u.setOp { o with data := .treeInstall all (g :: rest) (some b) n 1 }
        else (u.modBuild o.mb fun x => { x with status := 0x00FF }).endOp o.step 0x00FF
      else if rest = [] then (w.modBuild o.mb fun x => { x with status := 0 }).endOp o.step 0
      else w.setOp { o.step with data := .treeInstall all rest (some b) n 0 })) ∧
  -- The half that takes over holds the image, the rules and the number of the command; the other is as it was.
  (∀ (c : Classifier) (b : TreeBuild) (rules : List Rule) (seq : Nat), c.active ≤ 1 →
    let d := c.install b rules seq
    d.active = 1 - c.active ∧ (d.half d.active).root = b.root ∧ (d.half d.active).rules = rules ∧ (d.half d.active).seq = seq ∧
      (d.half d.active).slots = b.slots ∧ d.half c.active = c.half c.active ∧ d.walks = c.walks ∧ d.keys = c.keys ∧
      d.meters = c.meters) ∧
  -- What an image that the rules allow does: a walk of any copy ends with the action of the first rule that matches, or in a miss.
  (∀ (b : TreeBuild) (staged : List Rule) (key : BitVec 512) (l : Nat), b.kind = 0 → buildAnswers b staged = true → l < 16 →
    ((buildHalf b).walk key l).1 =
      match firstMatch (compiledOrder staged) key with | some a => .action a | none => .miss)

/-- 07 R209, R219 to R225: what the classifier commands read and set. Where the spec leaves a choice or a value open, the
clauses follow assumption log entry 39: there they state the model's choice. -/
def Obligations.ClassifierCommands : Prop :=
  -- CLASS.TREE_GET
  (∀ (s : State) (r : Request) (g : Nat), s.asks r 0x0404 → r.payload.length = 1 → fld r.payload 0 1 = g →
    s.ownsWholeGrove r.actor g → let h := (s.classifier g).half (s.classifier g).active
    exec .classTreeGet s = .next (s.taken.reply r 0 (leBytes 4 h.rules.length ++ leBytes 4 h.slots ++ leBytes 1 h.depth ++
      leBytes 1 h.replDepth ++ zeros 2 ++ leBytes 8 h.seq ++ leBytes 32 (Config.shake256 h.bytes).toNat))) ∧
  -- CLASS.BUILD_GET
  (∀ (s : State) (r : Request), s.asks r 0x0405 → r.payload = [] → exec .classBuildGet s = .next (
    match SMap.get s.cl.builds r.mb with
    | some b => s.taken.reply r 0 (leBytes 2 b.status ++ leBytes 1 b.kind ++ zeros 1 ++
        leBytes 4 b.rule ++ leBytes 4 b.slots ++ leBytes 1 b.depth ++ leBytes 1 b.replDepth ++ zeros 2 ++ leBytes 4 b.us)
    | none => s.taken.reply r 0x0022)) ∧
  -- CLASS.METER_SET: in each grove named the configuration takes the fields and the buckets start full; counters stay.
  (∀ (s : State) (r : Request), s.asks r 0x0406 →
    let p := r.payload
    let m := fld p 2 2
    let c : MeterCfg := ⟨fld p 4 4, fld p 8 4, fld p 12 4, fld p 16 4, fld p 20 1, fld p 21 1, fld p 22 1, fld p 23 1⟩
    let gs := maskGroves (fld p 0 2)
    p.length = 24 → m < 4096 → c.cir ≤ c.pir → c.cbs < 2 ^ 24 → c.pbs < 2 ^ 24 → c.yellow ≤ 3 → c.red ≤ 3 → c.yellowTc ≤ 7 →
    c.redTc ≤ 7 → fld p 0 2 ≠ 0 → (∀ g ∈ gs, g < s.groves) → s.groveGate r.actor gs = true →
    (∀ g ∈ gs, s.groveFailed g = false) → exec .classMeterSet s = .next (s.replyCfg (gs.foldl (fun t g =>
      let k := t.classifier g
      let u := t.setClassifier g { k with meters := SMap.set k.meters m { ctrs := (SMap.getD k.meters m {}).ctrs } }
      { u with cfg := { t.cfg with meters := SMap.set t.cfg.meters (4096 * g + m) c } }) s.taken) r)) ∧
  -- A peak rate below the committed rate is BAD_ARG.
  (∀ (s : State) (r : Request), s.asks r 0x0406 → r.payload.length = 24 → fld r.payload 8 4 < fld r.payload 4 4 →
    exec .classMeterSet s = .next (s.taken.reply r 0x0015)) ∧
  -- CLASS.METER_GET
  (∀ (s : State) (r : Request) (g m : Nat), s.asks r 0x0407 → r.payload.length = 4 → fld r.payload 0 1 = g →
    zeroAt r.payload 1 1 = true → fld r.payload 2 2 = m → m < 4096 → s.ownsWholeGrove r.actor g →
    exec .classMeterGet s = .next (s.taken.reply r 0
      ((s.meterCfg g m).bytes ++ ctrBytes (SMap.getD (s.classifier g).meters m {}).ctrs 6))) ∧
  -- CLASS.ACTION_STATS
  (∀ (s : State) (r : Request) (g a n : Nat), s.asks r 0x0408 → r.payload.length = 6 → fld r.payload 0 1 = g →
    zeroAt r.payload 1 1 = true → fld r.payload 2 2 = a → fld r.payload 4 2 = n → 1 ≤ n → n ≤ 250 → a + n ≤ 65536 →
    s.ownsWholeGrove r.actor g → exec .classActionStats s = .next (s.taken.reply r 0
      ((List.range (2 * n)).flatMap fun i => leBytes 8 (SMap.getD (s.classifier g).actionCtrs (2 * a + i) 0).toNat))) ∧
  -- CLASS.STATS
  (∀ (s : State) (r : Request) (g : Nat), s.asks r 0x0409 → r.payload.length = 1 → fld r.payload 0 1 = g →
    s.ownsWholeGrove r.actor g → exec .classStats s = .next (s.taken.reply r 0 (ctrBytes (s.classifier g).ctrs 12))) ∧
  -- CLASS.LOOKUP: the action of a walk of the active half, or FFFFH and 0 where nothing matches, with the slots read.
  (∀ (s : State) (r : Request) (g : Nat), s.asks r 0x040A → r.payload.length = 72 → fld r.payload 0 1 = g →
    zeroAt r.payload 1 7 = true → s.ownsWholeGrove r.actor g →
    let w := ((s.classifier g).half (s.classifier g).active).walk (BitVec.ofNat 512 (beNat (slice r.payload 8 64))) 0
    exec .classLookup s = .next (s.taken.reply r 0
      ((match w.1 with | .action i => leBytes 2 i ++ leBytes 1 1 | _ => leBytes 2 0xFFFF ++ leBytes 1 0) ++
        leBytes 1 w.2.length ++ w.2.flatMap fun x => leBytes 4 x)))

/-- 08 R231, R237, R243 to R247: what an operation on the host or the flow table does. Where the spec leaves a choice or a
value open, the clauses follow assumption log entry 40: there they state the model's choice. -/
def Obligations.TableOperations : Prop :=
  -- READ returns the entry of a position with its AGE, and zero for a position that is free.
  (∀ (s : State) (f t : Nat) (v : BitVec 32) (d : BitVec 512) (h : Nat → Bool) (e : BitVec 512), t ≤ 1 → eBits v 26 24 = t →
    eBits v 31 28 = 0 → v.getLsbD 27 = false → eBits v 20 0 < tblSize t → SMap.get (s.tbl t).entries (eBits v 20 0) = some e →
    s.owns f 6 (xObj t e) = true → s.tableOp f 0 v d h = (s, ⟨0, 0, (s.tbl t).view t (eBits v 20 0)⟩)) ∧
  (∀ (s : State) (f t : Nat) (v : BitVec 32) (d : BitVec 512) (h : Nat → Bool), t ≤ 1 → eBits v 26 24 = t → eBits v 31 28 = 0 →
    v.getLsbD 27 = false → eBits v 20 0 < tblSize t → SMap.get (s.tbl t).entries (eBits v 20 0) = none →
    s.tableOp f 0 v d h = (s, ⟨0, 0, 0⟩)) ∧
  -- SEARCH returns the position that holds the key, and changes nothing.
  (∀ (s : State) (f t p : Nat) (v : BitVec 32) (d : BitVec 512) (h : Nat → Bool), t ≤ 1 → eBits v 26 24 = t → eBits v 31 28 = 0 →
    v.getLsbD 27 = false → eBits v 20 0 = 0 → (s.tbl t).find t (xKey t d) = some p →
    s.owns f 6 (xObj t (SMap.getD (s.tbl t).entries p 0)) = true → s.tableOp f 2 v d h = (s, ⟨0, p, (s.tbl t).view t p⟩)) ∧
  -- SEARCH and DELETE of a key that no entry holds answer NOT_FOUND.
  (∀ (s : State) (f t op : Nat) (v : BitVec 32) (d : BitVec 512) (h : Nat → Bool), t ≤ 1 → (op = 2 ∨ op = 4) →
    eBits v 26 24 = t → eBits v 31 28 = 0 → v.getLsbD 27 = false → eBits v 20 0 = 0 → (s.tbl t).find t (xKey t d) = none →
    s.tableOp f op v d h = (s, ⟨St.notFound, 0, 0⟩)) ∧
  -- WRITE stores the entry in the place of its key; the read-only fields stay and AGE is 0.
  (∀ (s : State) (f p : Nat) (v : BitVec 32) (d old : BitVec 512) (h : Nat → Bool), eBits v 26 24 = 1 → eBits v 31 28 = 0 →
    v.getLsbD 27 = false → eBits v 20 0 = 0 → xReserved 1 d = false → xValid 1 d = true →
    s.tb.flow.find 1 (xKey 1 d) = some p → SMap.get s.tb.flow.entries p = some old → s.owns f 6 (xObj 1 old) = true →
    h (xObj 1 old) = false → xPart 1 d = xPart 1 old → (s.tableOp f 1 v d h).2 = ⟨0, p, 0⟩ ∧
      SMap.get (s.tableOp f 1 v d h).1.tb.flow.entries p = some (xSetAge 1 d 0) ∧
      (∀ q, q ≠ p → SMap.get (s.tableOp f 1 v d h).1.tb.flow.entries q = SMap.get s.tb.flow.entries q) ∧
      (s.tableOp f 1 v d h).1.tb.host = s.tb.host) ∧
  -- INSERT into a free way of a candidate bucket: the entry is then found there.
  (∀ (s : State) (f p : Nat) (v : BitVec 32) (d : BitVec 512) (h : Nat → Bool), eBits v 26 24 = 1 → eBits v 31 28 = 0 →
    v.getLsbD 27 = false → eBits v 20 0 = 0 → xReserved 1 d = false → xValid 1 d = true → s.owns f 6 (xObj 1 d) = true →
    h (xObj 1 d) = false → s.tb.flow.partCount 1 (xPart 1 d) < s.partLimit (xObj 1 d) →
    s.tb.flow.find 1 (xKey 1 d) = none → s.tb.flow.freeWay (xCands 1 s.tb.flow.placing (xKey 1 d)) = some p →
    (s.tableOp f 3 v d h).2 = ⟨0, p, 0⟩ ∧
      SMap.get (s.tableOp f 3 v d h).1.tb.flow.entries p = some (xSetAge 1 d 0) ∧
      (s.tableOp f 3 v d h).1.tb.flow.find 1 (xKey 1 d) = some p ∧
      (∀ q, q ≠ p → SMap.get (s.tableOp f 3 v d h).1.tb.flow.entries q = SMap.get s.tb.flow.entries q) ∧
      (s.tableOp f 3 v d h).1.tb.host = s.tb.host) ∧
  -- An INSERT of a key that is there answers EXISTS, one beyond the partition's limit NO_SPACE.
  (∀ (s : State) (f p : Nat) (v : BitVec 32) (d : BitVec 512) (h : Nat → Bool), eBits v 26 24 = 1 → eBits v 31 28 = 0 →
    v.getLsbD 27 = false → eBits v 20 0 = 0 → xReserved 1 d = false → xValid 1 d = true → s.owns f 6 (xObj 1 d) = true →
    h (xObj 1 d) = false → s.tb.flow.partCount 1 (xPart 1 d) < s.partLimit (xObj 1 d) →
    s.tb.flow.find 1 (xKey 1 d) = some p → s.tableOp f 3 v d h = (s, ⟨St.exists_, 0, 0⟩)) ∧
  (∀ (s : State) (f : Nat) (v : BitVec 32) (d : BitVec 512) (h : Nat → Bool), eBits v 26 24 = 1 → eBits v 31 28 = 0 →
    v.getLsbD 27 = false → eBits v 20 0 = 0 → xReserved 1 d = false → xValid 1 d = true → s.owns f 6 (xObj 1 d) = true →
    h (xObj 1 d) = false → s.partLimit (xObj 1 d) ≤ s.tb.flow.partCount 1 (xPart 1 d) →
    s.tableOp f 3 v d h = (s, ⟨St.noSpace, 0, 0⟩)) ∧
  -- DELETE clears the position; without a stash entry that could move into it no other position changes.
  (∀ (s : State) (f p : Nat) (v : BitVec 32) (d old : BitVec 512) (h : Nat → Bool), eBits v 26 24 = 1 → eBits v 31 28 = 0 →
    v.getLsbD 27 = false → eBits v 20 0 = 0 → s.tb.flow.find 1 (xKey 1 d) = some p →
    SMap.get s.tb.flow.entries p = some old → SMap.sorted s.tb.flow.entries = true → s.owns f 6 (xObj 1 old) = true →
    h (xObj 1 old) = false → (s.tb.flow.clear p).stashFor 1 (p / 4 * 4) = none →
    (s.tableOp f 4 v d h).2 = ⟨0, p, 0⟩ ∧ SMap.get (s.tableOp f 4 v d h).1.tb.flow.entries p = none ∧
      (∀ q, q ≠ p → SMap.get (s.tableOp f 4 v d h).1.tb.flow.entries q = SMap.get s.tb.flow.entries q)) ∧
  -- AGE_STEP sweeps one step of positions for the functions' own partitions and answers how many aged out.
  (∀ (s : State) (f t : Nat) (v : BitVec 32) (d : BitVec 512), t ≤ 1 → eBits v 26 24 = t → eBits v 31 28 = 0 →
    v.getLsbD 27 = false → eBits v 20 0 < tblSteps t → s.tableOp f 5 v d (fun _ => false) =
      ((s.ageStep t (eBits v 20 0) fun o => s.owns f 6 o).1, ⟨0, (s.ageStep t (eBits v 20 0) fun o => s.owns f 6 o).2, 0⟩)) ∧
  -- An entry whose AGE is below 3 grows older by one; a static one, or one of another owner, does not.
  (∀ (s : State) (t p : Nat) (mine : Nat → Bool) (e : BitVec 512), SMap.get (s.tbl t).entries p = some e → xStatic t e = false →
    mine (xObj t e) = true → (s.tbl t).age p ≠ 3 →
    s.agePosition t mine p = (s.setTbl t ((s.tbl t).setAges p ((s.tbl t).age p + 1)), false)) ∧
  (∀ (s : State) (t p : Nat) (mine : Nat → Bool) (e : BitVec 512), SMap.get (s.tbl t).entries p = some e →
    (xStatic t e = true ∨ mine (xObj t e) = false) → s.agePosition t mine p = (s, false))

/-- 08 R210 to R213, R237, R263, R265: WRITE and READ of the tenant, port and action tables. 08 R233, R239 to R242: the
table command register sets. Where the spec leaves a choice or a value open, the clauses follow assumption log entry
40: there they state the model's choice. -/
def Obligations.ArrayTablesAndRegisters : Prop :=
  -- WRITE of the tenant table and of the port table, which the configuration holds, by the owner of the entry
  (∀ (s : State) (f i : Nat) (v : BitVec 32) (d : BitVec 512) (h : Nat → Bool), eBits v 26 24 = 2 → eBits v 31 28 = 0 →
    v.getLsbD 27 = false → eBits v 20 0 = i → i < 65536 → eBits d 255 25 = 0 → eBits d 15 1 = 0 →
    s.owns f 6 (512 + i / 256) = true →
    let t := { s with cfg := { s.cfg with tenantTable := SMap.set s.cfg.tenantTable i (d.setWidth 256) } }
    s.tableOp f 1 v d h = if tooLarge s.cfg t.cfg then (s, ⟨0x0020, 0, 0⟩) else (t, ⟨0, 0, 0⟩)) ∧
  (∀ (s : State) (f i : Nat) (v : BitVec 32) (d : BitVec 512) (h : Nat → Bool), eBits v 26 24 = 3 → eBits v 31 28 = 0 →
    v.getLsbD 27 = false → eBits v 20 0 = i → i < s.lanes → i < 512 → eBits d 71 66 = 0 → eBits d 63 8 = 0 →
    d.getLsbD 4 = false → d.getLsbD 0 = false → eBits d 65 64 ≠ 3 → s.owns f 1 i = true →
    let t := { s with cfg := { s.cfg with portTable := SMap.set s.cfg.portTable i (d.setWidth 128) } }
    s.tableOp f 1 v d h = if tooLarge s.cfg t.cfg then (s, ⟨0x0020, 0, 0⟩) else (t, ⟨0, 0, 0⟩)) ∧
  -- READ of a valid tenant entry and of a port entry, by their owners, and of an entry that is not valid
  (∀ (s : State) (f i : Nat) (v : BitVec 32) (d : BitVec 512) (h : Nat → Bool), eBits v 26 24 = 2 → eBits v 31 28 = 0 →
    v.getLsbD 27 = false → eBits v 20 0 = i → i < 65536 → (s.tenantEntry i).getLsbD 0 = true →
    s.owns f 6 (512 + i / 256) = true → s.tableOp f 0 v d h = (s, ⟨0, 0, (s.tenantEntry i).setWidth 512⟩)) ∧
  (∀ (s : State) (f i : Nat) (v : BitVec 32) (d : BitVec 512) (h : Nat → Bool), eBits v 26 24 = 3 → eBits v 31 28 = 0 →
    v.getLsbD 27 = false → eBits v 20 0 = i → i < s.lanes → i < 512 → s.owns f 1 i = true →
    s.tableOp f 0 v d h = (s, ⟨0, 0, (s.portEntry i).setWidth 512⟩)) ∧
  (∀ (s : State) (f i : Nat) (v : BitVec 32) (d : BitVec 512) (h : Nat → Bool), eBits v 26 24 = 2 → eBits v 31 28 = 0 →
    v.getLsbD 27 = false → eBits v 20 0 = i → i < 65536 → (s.tenantEntry i).getLsbD 0 = false →
    s.tableOp f 0 v d h = (s, ⟨0, 0, 0⟩)) ∧
  -- WRITE of the action table of one grove, or of every grove where bit 27 says so, by the owner of the entry in each
  (∀ (s : State) (f i g : Nat) (v : BitVec 32) (d : BitVec 512) (h : Nat → Bool), eBits v 26 24 = 4 → eBits v 31 28 = g →
    let gs := if v.getLsbD 27 then s.groveList else [g]
    (v.getLsbD 27 = true → g = 0) → eBits v 20 0 = i → i < 65536 → s.actionPresent d = true →
    (∀ k ∈ gs, k < s.groves ∧ actionLegal k d = true ∧ s.owns f 6 (768 + 16 * k + i / 4096) = true ∧ s.groveFailed k = false) →
    s.tableOp f 1 v d h = (gs.foldl (fun t k => t.writeAction k i d) s, ⟨0, 0, 0⟩)) ∧
  -- What is written to a grove's action table is there, and in no other grove's.
  (∀ (s : State) (g i : Nat) (e : BitVec 512), e ≠ 0 → SMap.get ((s.writeAction g i e).classifier g).actions i = some e ∧
    ∀ k, k ≠ g → (s.writeAction g i e).classifier k = s.classifier k) ∧
  -- An entry of another owner is not written.
  (∀ (s : State) (f i : Nat) (v : BitVec 32) (d : BitVec 512) (h : Nat → Bool), eBits v 26 24 = 2 → eBits v 31 28 = 0 →
    v.getLsbD 27 = false → eBits v 20 0 = i → i < 65536 → eBits d 255 25 = 0 → eBits d 15 1 = 0 →
    s.owns f 6 (512 + i / 256) = false → s.tableOp f 1 v d h = (s, ⟨St.notOwner, 0, 0⟩)) ∧
  -- A TBL_CMD write of a host function starts the operation of the row that its OP field names; OP 6 and 7 stand with READ.
  (∀ (s : State) (n : Nat) (v : BitVec 32), s.serving = true → n < 128 →
    s.reaches (pf2 (n / 8)) (0x200 + n / 8) 2 (0x100200 + 0x10 * (n % 8)) 4 →
    let u (op : Nat) : State :=
      if eBits v 23 21 = op ∨ (op = 0 ∧ 5 < eBits v 23 21) then (s.traffic (pf2 (n / 8))).tblStart n v else s
    exec (.tblCmdRead n v) s = .next (u 0) ∧ exec (.tblCmdWrite n v) s = .next (u 1) ∧ exec (.tblCmdSearch n v) s = .next (u 2) ∧
    exec (.tblCmdInsert n v) s = .next (u 3) ∧ exec (.tblCmdDelete n v) s = .next (u 4) ∧ exec (.tblCmdAgeStep n v) s = .next (u 5)) ∧
  -- A service core writes the sets of its own grove without a firebreak.
  (∀ (s : State) (n : Nat) (v : BitVec 32), s.serving = true → s.running = true → 128 ≤ n → n < 128 + 2 * s.groves →
    let u (op : Nat) : State := if eBits v 23 21 = op ∨ (op = 0 ∧ 5 < eBits v 23 21) then s.tblStart n v else s
    exec (.tblCmdRead n v) s = .next (u 0) ∧ exec (.tblCmdWrite n v) s = .next (u 1) ∧ exec (.tblCmdSearch n v) s = .next (u 2) ∧
    exec (.tblCmdInsert n v) s = .next (u 3) ∧ exec (.tblCmdDelete n v) s = .next (u 4) ∧ exec (.tblCmdAgeStep n v) s = .next (u 5)) ∧
  -- While BUSY is 0 the write raises it, and the operation waits with its data block for its turn in the broadcaster's cycle.
  (∀ (s : State) (n : Nat) (v : BitVec 32), (s.tblRunDue.tblSet n).busy = false →
    ((s.tblStart n v).tblSet n).busy = true ∧ ((s.tblStart n v).tblSet n).cmd = v ∧
    (s.tblStart n v).tb.ops = joinOps s.tblRunDue.tb.ops ⟨n, v, (s.tblRunDue.tblSet n).data, tblCycle s.now⟩) ∧
  -- While BUSY is 1 the write is lost and CMD_LOST says so.
  (∀ (s : State) (n : Nat) (v : BitVec 32), (s.tblRunDue.tblSet n).busy = true →
    s.tblStart n v = s.tblRunDue.setTblSet n { s.tblRunDue.tblSet n with cmdLost := true }) ∧
  -- In its turn the operation is carried out for the acting function, and its result is due.
  (∀ (s : State) (o : TblOp), (s.tblSet o.src).busy = true →
    let a := s.tableOp (s.setActor o.src) (eBits o.cmd 23 21) o.cmd o.data fun _ => false
    ((s.runTblOp o).tblSet o.src).due = some (a.2.status, BitVec.ofNat 32 a.2.info, a.2.data) ∧
    (s.runTblOp o).tbl 0 = a.1.tbl 0 ∧ (s.runTblOp o).tbl 1 = a.1.tbl 1 ∧ (s.runTblOp o).cfg = a.1.cfg) ∧
  -- TBL_RESULT_POST, after the turn of an operation of the set that still waits: BUSY falls, and data, result and DONE are those of the operation.
  (∀ (s : State) (n : Nat), s.serving = true →
    let u := if s.tb.ops.any (·.src == n) then (s.upTo (2 * (tblCycle s.now + 1))).tblRun else s
    exec (.tblResultPost n) s = .next (match (u.tblSet n).due with
      | some (st, i, d) => u.setTblSet n { u.tblSet n with
          busy := false, due := none, data := d, info := i, result := BitVec.ofNat 8 st, done := (u.tblSet n).done + 1 }
      | none => u)) ∧
  -- TBL_DATA_WRITE by a host function and by a service core: 1 to 64 bytes within the data block
  (∀ (s : State) (n o : Nat) (b : List Byte), s.serving = true → n < 128 →
    s.reaches (pf2 (n / 8)) (0x200 + n / 8) 2 (0x100000 + 0x40 * (n % 8) + o) b.length →
    let u := s.traffic (pf2 (n / 8))
    exec (.tblDataWrite n o b) s = .next (if b.length ≠ 0 ∧ o + b.length ≤ 64 then u.tblPut n o b else u.hostCtr (n / 8) 13)) ∧
  (∀ (s : State) (n o : Nat) (b : List Byte), s.serving = true → s.running = true → 128 ≤ n → n < 128 + 2 * s.groves →
    exec (.tblDataWrite n o b) s = .next (if b.length ≠ 0 ∧ o + b.length ≤ 64 then s.tblPut n o b else s)) ∧
  (∀ (s : State) (n o : Nat) (b : List Byte), ((s.tblSet n).busy = false →
    s.tblPut n o b = s.setTblSet n { s.tblSet n with data := putData (s.tblSet n).data o b }) ∧
    ((s.tblSet n).busy = true → s.tblPut n o b = s.setTblSet n { s.tblSet n with dataLost := true })) ∧
  -- The bytes that are written stand in the data block, and the others stay.
  (∀ (d : BitVec 512) (o j : Nat) (b : List Byte), o + b.length ≤ 64 → j < 64 → eBits (putData d o b) (8 * j + 7) (8 * j) =
    if o ≤ j ∧ j < o + b.length then (b.getD (j - o) 0).toNat else eBits d (8 * j + 7) (8 * j)) ∧
  -- TBL_STATUS_CLEAR by a host function and by a service core: writing 1 clears.
  (∀ (s : State) (n : Nat) (v : BitVec 32), s.serving = true → n < 128 →
    s.reaches (pf2 (n / 8)) (0x200 + n / 8) 2 (0x100204 + 0x10 * (n % 8)) 4 →
    exec (.tblStatusClear n v) s = .next ((s.traffic (pf2 (n / 8))).tblStatusAck n v)) ∧
  (∀ (s : State) (n : Nat) (v : BitVec 32), s.serving = true → s.running = true → 128 ≤ n → n < 128 + 2 * s.groves →
    exec (.tblStatusClear n v) s = .next (s.tblStatusAck n v)) ∧
  (∀ (s : State) (n : Nat) (v : BitVec 32), let t := s.tblStatusAck n v
    t.tblSet n = { s.tblSet n with cmdLost := (s.tblSet n).cmdLost && !v.getLsbD 30
                                   dataLost := (s.tblSet n).dataLost && !v.getLsbD 29 } ∧
    ∀ m, m ≠ n → t.tblSet m = s.tblSet m)

/-- 08 R232, R251 to R262: repair, learning and ageing. Where the spec leaves a choice or a value open, the clauses follow
assumption log entries 40 and 41: there they state the model's choice. -/
def Obligations.LearningAndAgeing : Prop :=
  -- LOOKUP_POISON_REPAIR: a position that another replica holds intact is written again; one that none does is deleted, counted and logged.
  (∀ (s : State) (t r p : Nat), s.running = true → let u := s.tblRun
    exec (.lookupPoisonRepair t r p) s = .next (
      if t ≤ 1 ∧ (u.tbl t).bad.contains (4 * p + r) = true then
        if ((List.range 4).any fun k => !(u.tbl t).bad.contains (4 * p + k) && !u.isFenced (0x10 + t) k 0) = true then
          u.setTbl t { u.tbl t with bad := (u.tbl t).bad.filter (· != 4 * p + r) }
        else ((u.tblClear t p).tblCtr t 6 1).log ⟨1, r, 0, 0x10 + t, 0, p⟩ 0x09 1 (BitVec.ofNat 32 t)
      else u)) ∧
  -- LEARN_DECIDE: when device time reaches its stamp + 4 µs the first event is decided.
  (∀ (s : State) (e : LearnEv), s.running = true → s.tb.engineFailed = none → firstEvent s.tb.events = some e →
    exec .learnDecide s = .next (s.upToTime (e.stamp + 16000)).decideFirst) ∧
  (∀ (s : State) (e : LearnEv), firstEvent s.tb.events = some e → s.decideFirst = ({ s with tb := { s.tb with
    events := s.tb.events.erase e, decided := (e.stamp, e.port) } }).decideLearn e) ∧
  (∀ (l : List LearnEv) (e : LearnEv), firstEvent l = some e →
    e ∈ l ∧ ∀ x ∈ l, e.stamp < x.stamp ∨ (e.stamp = x.stamp ∧ e.port ≤ x.port)) ∧
  -- Without an event, or while the engine has failed, nothing is decided.
  (∀ (s : State), s.running = true → (firstEvent s.tb.events = none ∨ s.tb.engineFailed.isSome = true) →
    exec .learnDecide s = .next s) ∧
  -- A key that is not there is learned: its entry stands in a free way of a candidate bucket.
  (∀ (s : State) (e : LearnEv) (p : Nat), let u := s.tblRun
    (u.movesOf (2 ^ 48 * e.tenant + e.mac.toNat)).frozen = none → u.tb.host.find 0 (2 ^ 48 * e.tenant + e.mac.toNat) = none →
    let x := learnEntry (u.portEntry e.port) e
    xKey 0 x = 2 ^ 48 * e.tenant + e.mac.toNat → u.tb.host.partCount 0 (xPart 0 x) < u.partLimit (xObj 0 x) →
    u.tb.host.freeWay (xCands 0 u.tb.host.placing (xKey 0 x)) = some p →
    SMap.get (s.decideLearn e).tb.host.entries p = some x ∧
      (s.decideLearn e).tb.host.find 0 (2 ^ 48 * e.tenant + e.mac.toNat) = some p) ∧
  -- A key seen again at its port has its AGE cleared in the replica of that port's grove; nothing else changes.
  (∀ (s : State) (e : LearnEv) (p : Nat), let u := s.tblRun
    (u.movesOf (2 ^ 48 * e.tenant + e.mac.toNat)).frozen = none →
    u.tb.host.find 0 (2 ^ 48 * e.tenant + e.mac.toNat) = some p → xLoc (SMap.getD u.tb.host.entries p 0) = e.port →
    s.decideLearn e = u.setTbl 0 (u.tb.host.setAge p (u.replica 0 (e.port / 32)) 0)) ∧
  -- A static entry is not moved, and no entry is while it is frozen.
  (∀ (s : State) (e : LearnEv) (p : Nat), let u := s.tblRun
    (u.movesOf (2 ^ 48 * e.tenant + e.mac.toNat)).frozen = none →
    u.tb.host.find 0 (2 ^ 48 * e.tenant + e.mac.toNat) = some p → xLoc (SMap.getD u.tb.host.entries p 0) ≠ e.port →
    xStatic 0 (SMap.getD u.tb.host.entries p 0) = true → (s.decideLearn e).tb.host.entries = u.tb.host.entries) ∧
  (∀ (s : State) (e : LearnEv) (p f : Nat), let u := s.tblRun
    (u.movesOf (2 ^ 48 * e.tenant + e.mac.toNat)).frozen = some f → e.stamp < f + u.holdUnits →
    u.tb.host.find 0 (2 ^ 48 * e.tenant + e.mac.toNat) = some p → (s.decideLearn e).tb.host.entries = u.tb.host.entries) ∧
  -- A move is applied at once while the window of one second that its stamp lies in has seen fewer than MOVE_LIMIT.
  (∀ (s : State) (e : LearnEv) (p : Nat), let u := s.tblRun
    (u.movesOf (2 ^ 48 * e.tenant + e.mac.toNat)).frozen = none →
    u.tb.host.find 0 (2 ^ 48 * e.tenant + e.mac.toNat) = some p → xLoc (SMap.getD u.tb.host.entries p 0) ≠ e.port →
    xStatic 0 (SMap.getD u.tb.host.entries p 0) = false →
    SMap.getD (u.movesOf (2 ^ 48 * e.tenant + e.mac.toNat)).moves (e.stamp / ms 1000) 0 < u.cfg.moveLimit →
    SMap.get (s.decideLearn e).tb.host.entries p = some (setBits (setBits (SMap.getD u.tb.host.entries p 0) 56 48 e.port) 15 0
      (eBits (u.portEntry e.port) 111 96)) ∧
    ∀ q, q ≠ p → SMap.get (s.decideLearn e).tb.host.entries q = SMap.get u.tb.host.entries q) ∧
  -- A move beyond the limit is refused and freezes the entry.
  (∀ (s : State) (e : LearnEv) (p : Nat), let u := s.tblRun
    (u.movesOf (2 ^ 48 * e.tenant + e.mac.toNat)).frozen = none →
    u.tb.host.find 0 (2 ^ 48 * e.tenant + e.mac.toNat) = some p → xLoc (SMap.getD u.tb.host.entries p 0) ≠ e.port →
    xStatic 0 (SMap.getD u.tb.host.entries p 0) = false →
    u.cfg.moveLimit ≤ SMap.getD (u.movesOf (2 ^ 48 * e.tenant + e.mac.toNat)).moves (e.stamp / ms 1000) 0 →
    SMap.get (s.decideLearn e).tb.host.entries p = some (setBits (SMap.getD u.tb.host.entries p 0) 60 60 1)) ∧
  -- LEARN_ENGINE_TAKEOVER: the standby engine on stand 2 takes over from the one that has failed on stand 0, where it is in service.
  (∀ (s : State), s.running = true → exec .learnEngineTakeover s = .next (
    if s.tb.engineFailed.isSome = true ∧ s.tb.engine = 0 ∧ s.isFenced 0x12 2 0 = false then
      { s with tb := { s.tb with engine := 2, engineFailed := none } }
    else s)) ∧
  -- ENTRY_THAW: at the freeze + HOLD the entry is frozen no more.
  (∀ (s : State) (key f : Nat) (m : MoveSt), s.running = true → (s.tb.moves.find? fun m => m.key.toNat == key) = some m →
    m.frozen = some f → exec (.entryThaw key) s = .next (
      if m.thawed then s else (s.upToTime (f + s.holdUnits)).tblRun.thaw m (f + s.holdUnits))) ∧
  (∀ (s : State) (p time : Nat) (m : MoveSt) (e : BitVec 512), s.tb.host.find 0 m.key.toNat = some p →
    SMap.get s.tb.host.entries p = some e →
    SMap.get (s.thaw m time).tb.host.entries p = some (setBits e 60 60 0) ∧
      ∀ q, q ≠ p → SMap.get (s.thaw m time).tb.host.entries q = SMap.get s.tb.host.entries q) ∧
  -- A key that never froze has nothing to thaw.
  (∀ (s : State) (key : Nat), s.running = true → (s.tb.moves.find? fun m => m.key.toNat == key) = none →
    exec (.entryThaw key) s = .next s) ∧
  -- AGE_SWEEP_STEP: each step one share of the period after the last; none while ageing is off, an image is being activated, or Slaot is down.
  (∀ (s : State) (t : Nat), s.running = true →
    let u := (s.upTo (max (s.tbl t).sweptAt s.cn.start + ms (s.agePeriod t) / tblSteps t)).tblRun
    exec (.ageSweepStep t) s = .next (
      if 2 ≤ t ∨ s.agePeriod t = 0 ∨ s.boot.activating = true ∨ s.slaotUp = false then s
      else ((u.setTbl t { u.tbl t with sweep := ((s.tbl t).sweep + 1) % tblSteps t, sweptAt := u.now }).ageStep t
        (s.tbl t).sweep fun _ => true).1))

/-- 08 R236 to R238, R243, R248 to R250, R259, R267, R268: the TABLE commands. Where the spec leaves a choice or a value
open, the clauses follow assumption log entry 40: there they state the model's choice. -/
def Obligations.TableCommands : Prop :=
  -- The mailbox forms, after what waits on the broadcaster, answer INDEX_OUT and the data block of the operation.
  (∀ (s : State) (r : Request) (op : Nat), r.payload.length = 68 → eBits (BitVec.ofNat 32 (fld r.payload 0 4)) 23 21 = 0 →
    let a := s.taken.tblRun.tableOp r.actor op (BitVec.ofNat 32 (fld r.payload 0 4)) (BitVec.ofNat 512 (fld r.payload 4 64))
      fun o => s.isHeld (.part o)
    let t := if tooLarge s.cfg a.1.cfg then s.taken.reply r 0x0020
      else a.1.reply r a.2.status (leBytes 4 a.2.info ++ zeros 4 ++ leBytes 64 a.2.data.toNat)
    (op = 0 → s.asks r 0x0301 → exec .tableRead s = .next t) ∧ (op = 1 → s.asks r 0x0302 → exec .tableWrite s = .next t) ∧
    (op = 2 → s.asks r 0x0303 → exec .tableSearch s = .next t) ∧ (op = 3 → s.asks r 0x0304 → exec .tableInsert s = .next t) ∧
    (op = 4 → s.asks r 0x0305 → exec .tableDelete s = .next t) ∧
    (op = 5 → s.asks r 0x0306 → exec .tableAgeStep s = .next t)) ∧
  -- TABLE.REHASH draws two seeds and puts them in use beside the others, unless seeds of a rehash that was broken off stand there.
  (∀ (s : State) (r : Request), s.asks r 0x0307 →
    let t := fld r.payload 0 1
    let u := (s.taken.started r 0 (.rehash t)).tblRun
    let w := u.setTbl t { u.tbl t with
      fresh := some ((u.tbl t).fresh.getD (Config.randomDraw 32 s.free, Config.randomDraw 32 (s.free + 1))), step := 0, placed := 0 }
    r.payload.length = 4 → t ≤ 1 → zeroAt r.payload 1 3 = true → (∃ i, i < 256 ∧ s.owns r.actor 6 (256 * t + i) = true) →
    s.isHeld (.table t) = false → s.sl.ops.length < 64 → exec .tableRehash s = .next (
      if tooLarge s.cfg u.cfg then s.taken.reply r 0x0020
      else (w.drawn 2).reply r 0x0001 [] (s.handleFrom 400 s.sl.nextHandle))) ∧
  -- REHASH_STEP places the entries of 64 buckets; after the last bucket, with every entry in its place, the new seeds are the only ones; what stays goes round once more, then to the stash, and without room there the operation ends with NO_SPACE.
  (∀ (s : State) (h t : Nat) (o : LongOp), s.stepsOn h o (.rehash t) →
    let u := (s.atStep h).tblRun
    let a := (u.tbl t).step
    let x := (((u.tbl t).entries.filter fun e => a * 256 ≤ e.1 && e.1 < a * 256 + 256).map (·.1)).foldl
      (fun x p => x.rehashOne t p) (u.tbl t)
    let w := u.setOp o.step
    exec (.rehashStep h) s = .next (
      if x.step + 1 < tblBuckets t / 32 then w.setTbl t { x with step := x.step + 1 }
      else if (x.entries.any fun e => x.misplaced t e.1) = false then (w.setTbl t x.oneLayout).endOp o.step 0
      else if x.placed ≠ 0 then w.setTbl t { x with step := 0, placed := 0 }
      else match x.stashRest t with
        | some y => (w.setTbl t y.oneLayout).endOp o.step 0
        | none => (w.setTbl t { x with step := 0, placed := 0 }).endOp o.step 0x0020)) ∧
  -- With one layout left the new seeds are the only ones that a lookup reads by, and no entry is lost.
  (∀ (x : XTable) (t : Nat) (f : BitVec 32 × BitVec 32), x.fresh = some f →
    x.oneLayout.seed0 = f.1 ∧ x.oneLayout.seed1 = f.2 ∧ x.oneLayout.fresh = none ∧ x.oneLayout.entries = x.entries ∧
      (∀ key, x.oneLayout.reads t key = xCands t f key)) ∧
  -- TABLE.INFO: whether one layout is in use, a rehash runs, or one was broken off; the seeds, and how full the table is
  (∀ (s : State) (r : Request), s.asks r 0x0308 →
    let t := fld r.payload 0 1
    let x := s.tbl t
    r.payload.length = 4 → t ≤ 1 → zeroAt r.payload 1 3 = true → exec .tableInfo s = .next (s.taken.reply r 0 (
      leBytes 1 (if x.fresh = none then 0 else if s.isHeld (.table t) then 1 else 2) ++ zeros 3 ++
      leBytes 4 x.seed0.toNat ++ leBytes 4 x.seed1.toNat ++ leBytes 4 (x.fresh.getD (0, 0)).1.toNat ++
      leBytes 4 (x.fresh.getD (0, 0)).2.toNat ++ leBytes 4 x.entries.length ++ leBytes 1 (x.stashUsed t) ++ zeros 3))) ∧
  -- TABLE.PART_SET, for the operator alone
  (∀ (s : State) (r : Request) (o l : Nat), s.asks r 0x0309 → r.payload.length = 8 → fld r.payload 0 2 = o → o < 512 →
    zeroAt r.payload 2 2 = true → fld r.payload 4 4 = l → l ≤ tblSize (o / 256) → exec .tablePartSet s = .next (
      if r.actor = operator then
        s.replyCfg { s.taken with cfg := { s.cfg with partLimits := SMap.set s.cfg.partLimits o l } } r
      else s.taken.reply r 0x0016)) ∧
  -- TABLE.LEARN_SET, for the operator alone
  (∀ (s : State) (r : Request) (m d a b : Nat), s.asks r 0x030A → r.payload.length = 12 → fld r.payload 0 1 = m → 1 ≤ m →
    zeroAt r.payload 1 1 = true → fld r.payload 2 2 = d → 1 ≤ d → d ≤ 3600 → fld r.payload 4 4 = a → fld r.payload 8 4 = b →
    (a = 0 ∨ 1000 ≤ a ∧ a ≤ 3600000) → (b = 0 ∨ 1000 ≤ b ∧ b ≤ 3600000) → exec .tableLearnSet s = .next (
      if r.actor = operator then
        s.replyCfg { s.taken with cfg := { s.cfg with moveLimit := m, learnHold := d, hostAgeMs := a, flowAgeMs := b } } r
      else s.taken.reply r 0x0016)) ∧
  -- TABLE.FLUSH and FLUSH_STEP, 1,024 positions a step
  (∀ (s : State) (r : Request) (o k : Nat), s.asks r 0x030B → r.payload.length = 4 → fld r.payload 0 2 = o → o < 512 →
    fld r.payload 2 1 = k → k ≤ 1 → zeroAt r.payload 3 1 = true → s.owns r.actor 6 o = true → s.isHeld (.part o) = false →
    s.sl.ops.length < 64 → exec .tableFlush s =
      .next (s.taken.replyStarted r (tblSteps (o / 256)) (.flush (o / 256) o k 0 0))) ∧
  (∀ (s : State) (h t part k pos n : Nat) (o : LongOp), s.stepsOn h o (.flush t part k pos n) →
    let goes (e : BitVec 512) : Bool := xObj t e == part && (k == 0 || (t == 0 && xLearned e))
    let u := (s.atStep h).tblRun
    let ps := ((u.tbl t).entries.filter fun e => pos ≤ e.1 && e.1 < pos + 1024).map (·.1)
    let w := (ps.foldl (fun s p => s.flushAt t goes 65 p) u).setOp { o.step with data := .flush t part k (pos + 1024) (n + 1) }
    exec (.flushStep h) s = .next (if tblSize t ≤ pos + 1024 then w.endOp o.step 0 else w)) ∧
  -- A position is flushed, and again while a stash entry that moves into it is to be flushed too; any other stays.
  (∀ (s : State) (t p k : Nat) (goes : BitVec 512 → Bool), s.flushAt t goes (k + 1) p =
    if (SMap.get (s.tbl t).entries p).any goes = true then (s.tblDelete t p).flushAt t goes k p else s) ∧
  -- TABLE.STATS
  (∀ (s : State) (r : Request) (t : Nat), s.asks r 0x030C → r.payload.length = 4 → fld r.payload 0 1 = t → t ≤ 1 →
    zeroAt r.payload 1 3 = true → exec .tableStats s = .next (s.taken.reply r 0 (ctrBytes (s.tbl t).ctrs 21)))

/-- 10 R292 to R294, R311, R312: what a plane carries. Where the spec leaves a choice or a value open, the clauses follow
assumption log entries 20, 21 and 25: there they state the model's choice. -/
def Obligations.PlaneTransfers : Prop :=
  -- PLANE_ITERATION: each input in turn accepts what the outputs granted on requests taken down at the boundary.
  (∀ (s : State) (p : Nat), s.running = true → p < 8 → (s.plane p).state = 0 → let u := s.beginIteration p
    exec (.planeIteration p) s = .next (u.groveList.foldl (fun t i => t.acceptOn p (u.grants p) i) u)) ∧
  -- A plane that is not in state 0 grants nothing.
  (∀ (s : State) (p : Nat), (8 ≤ p ∨ (s.plane p).state ≠ 0) → exec (.planeIteration p) s = .next s) ∧
  -- A plane whose place in the order of the plane pointers is after those that have had their turn goes by the requests taken down for this transfer time.
  (∀ (s : State) (p : Nat), s.cn.tt = s.ttNow → s.cn.done ≠ [] → (∀ q ∈ s.cn.done, planePos s.ttNow q < planePos s.ttNow p) →
    (s.plane p).since ≤ s.ttNow → s.beginIteration p = { s with cn := { s.cn with
      done := s.cn.done ++ [p] } }) ∧
  -- Any other begins a transfer time: the bytes that have passed are cut, and the requests taken down.
  (∀ (s : State) (p : Nat), (s.cn.tt ≠ s.ttNow ∨ s.cn.done = [] ∨ (∃ q ∈ s.cn.done, planePos s.ttNow p ≤ planePos s.ttNow q) ∨
      s.ttNow < (s.plane p).since) →
    (s.beginIteration p).cn.done = [p] ∧ (s.beginIteration p).cn.requests = (s.beginIteration p).requestsNow ∧
    (s.beginIteration p).cn.tt =
      max (s.plane p).since (if s.cn.tt < s.ttNow ∨ s.cn.done = [] then s.ttNow else s.cn.tt + 1) ∧
    s.now ≤ (s.beginIteration p).now) ∧
  -- An output grants to one input that asks it, and no failed grove is granted.
  (∀ (s : State) (p j i : Nat), (j, i) ∈ s.grants p → (i, j) ∈ s.cn.requests ∧ j < s.groves ∧ s.groveFailed j = false) ∧
  -- Only a grove that a unit is ready for is asked, and never a grove by itself.
  (∀ (s : State) (i j : Nat), (i, j) ∈ s.requestsNow → i ≠ j ∧ i < s.groves ∧ j < s.groves ∧ s.hasUnit i j = true) ∧
  -- An input accepts the first grant from A[i] on: the oldest transit unit for that output leaves on the plane, and both
  -- pointers go one beyond the pair.
  (∀ (s : State) (p i j : Nat) (gs : List (Nat × Nat)) (u : TUnit), firstFrom ((s.plane p).acceptPtr p i)
      (((gs.filter (·.2 == i)).map (·.1)).filter fun j => s.hasUnit i j) = some j →
    (s.transitOf i).find? (·.final == j) = some u →
    let t := s.acceptOn p gs i
    (t.plane p).grantPtr j = (i + 1) % 16 ∧ (t.plane p).acceptPtr p i = (j + 1) % 16 ∧
    t.arrivals j = s.arrivals j ++ [{ u with plane := some p }] ∧
    t.transitOf i = dropFirst (·.final == j) (s.transitOf i) ∧ ∀ k, k ≠ j → t.arrivals k = s.arrivals k) ∧
  -- LB_CONNECTION: a rotating plane connects each input with the output of this transfer time.
  (∀ (s : State) (p : Nat), s.running = true → p < 8 → ((s.plane p).state = 1 ∨ (s.plane p).state = 2) →
    let u := s.beginIteration p
    exec (.lbConnection p) s = .next (u.groveList.foldl (fun t i => t.connect p i) u)) ∧
  (∀ (s : State) (p : Nat), (8 ≤ p ∨ (s.plane p).state = 0 ∨ (s.plane p).state = 3) → exec (.lbConnection p) s = .next s) ∧
  -- A connection without a unit for its own output forwards the oldest unit, while the slice there relays, with that unit,
  -- no more than 4,096 cells; beyond that it carries nothing.
  (∀ (s : State) (p i : Nat) (u : TUnit) (us : List TUnit), let j := (i + 1 + (s.cn.tt + p) % 15) % 16
    j < s.groves → s.groveFailed i = false → s.groveFailed j = false → s.transitOf i = u :: us →
    ((s.transitOf i).any (·.final == j)) = false → ((s.slice i).relay.any (·.dest == j)) = false →
    (s.stageOneCells j + u.cellsTaken ≤ 4096 → (s.connect p i).arrivals j =
      s.arrivals j ++ [{ u with plane := some p, dest := j, kind := 1 }] ∧ (s.connect p i).transitOf i = us) ∧
    (4096 < s.stageOneCells j + u.cellsTaken → s.connect p i = s))

/-- 10 R289, R304 to R310, R316: units received, incomplete frames, and planes that fail. Where the spec leaves a choice
or a value open, the clauses follow assumption log entries 20 and 23: there they state the model's choice. -/
def Obligations.CanopyRows : Prop :=
  -- TRANSFER_UNIT_RECEIVE: the segments of the unit at the head take their places; a unit with a poisoned header is discarded, one with a poisoned payload word frees the frame of that word.
  (∀ (s : State) (g k : Nat), s.running = true → exec (.transferUnitReceive g k) s = .next (
    match s.arrivals g with
    | u :: us =>
      let t := s.setArrivals g us
      if k = 1 then t.poisonUnit g u else if k = 2 then t.poisonPayload g u else t.receive g u
    | [] => s)) ∧
  -- A poisoned unit counts against its plane, and the fourth within 1 µs fails it.
  (∀ (s : State) (p c : Nat), (s.plane p).state ≠ 3 →
    (3 ≤ (recentPoisons s.now (s.plane p).poisons).length → ((s.poisonPlane p c).plane p).state = 3) ∧
    ((recentPoisons s.now (s.plane p).poisons).length < 3 → s.poisonPlane p c =
      s.setPlane p { s.plane p with poisons := recentPoisons s.now (s.plane p).poisons ++ [s.now] })) ∧
  -- A segment of a frame that is gone is counted and leaves nothing.
  (∀ (s : State) (g : Nat) (x : Seg), s.frame x.tag = none → s.place g x = s.canopyCtr g 12 1) ∧
  -- FRAME_INCOMPLETE_TIMEOUT: a tag that is still being put together is given up 1 µs after its check, or 10 µs after its first segment.
  (∀ (s : State) (g tag : Nat) (x : SliceTag), s.running = true → SMap.get (s.slice g).tags tag = some x →
    exec (.frameIncompleteTimeout g tag) s = .next (
      if x.st = 0 then
        ((s.upToClk (if x.check = 0 then x.firstSeg + us 10 else min (x.checkAt + us 1) (x.firstSeg + us 10))).canopyCtr
          g 11 1).freeFrame tag
      else s)) ∧
  (∀ (s : State) (g tag : Nat), SMap.get (s.slice g).tags tag = none → exec (.frameIncompleteTimeout g tag) s = .next s) ∧
  -- PLANE_FAILURE: the plane is in state 3, and the units in flight on it are lost.
  (∀ (s : State) (p r c : Nat), s.running = true → exec (.planeFailure p r c) s = .next (
    if p < 8 ∧ (s.plane p).state ≠ 3 ∧ s.planeFails p r = true then s.failPlane p r c else s)) ∧
  (∀ (s : State) (p r c : Nat), let t := s.failPlane p r c
    (t.plane p).state = 3 ∧ (t.plane p).downDue = some (r, c) ∧
      (∀ g, t.arrivals g = (s.arrivals g).filter (·.plane != some p)) ∧ ∀ k, k ≠ p → t.plane k = s.plane k) ∧
  -- PLANE_DOWN_REPORT
  (∀ (s : State) (p : Nat), s.serving = true → exec (.planeDownReport p) s = .next (
    match (s.plane p).downDue with
    | some (r, c) =>
      let u := s.setPlane p { s.plane p with downDue := none }
      (u.log ⟨1, 0, 0, 0x20, p, c⟩ 6 2 (BitVec.ofNat 32 r)).fireAll 240 0x0D10 (u.planeData p r)
    | none => s)) ∧
  -- SCHEDULER_MISMATCH: the grants of the iteration are withheld, and the plane rotates from the second transfer time after it.
  (∀ (s : State) (p : Nat), s.running = true → p < 8 → (s.plane p).state = 0 → let u := s.beginIteration p
    exec (.schedulerMismatch p) s =
      .next (u.setPlane p { u.plane p with state := 1, modeDue := some 1, since := u.cn.tt + 2 })) ∧
  (∀ (s : State) (p : Nat), (8 ≤ p ∨ (s.plane p).state ≠ 0) → exec (.schedulerMismatch p) s = .next s) ∧
  -- CANOPY_MODE_REPORT
  (∀ (s : State) (p : Nat), s.serving = true → exec (.canopyModeReport p) s = .next (
    match (s.plane p).modeDue with
    | some r => (s.setPlane p { s.plane p with modeDue := none }).fireAll 240 0x0D11 (s.planeData p r)
    | none => s)) ∧
  -- LB_MODE_SWITCH: at the next transfer time the plane follows LB_MASK, which a plane in state 1 or 3 ignores.
  (∀ (s : State) (p : Nat), s.running = true → p < 8 →
    let x := { s.plane p with since := max s.cn.tt s.ttNow + 1 }
    exec (.lbModeSwitch p) s = .next (
      if (s.plane p).state = 0 ∧ bit s.cn.lbMask p = true then s.setPlane p { x with state := 2, modeDue := some 2 }
      else if (s.plane p).state = 2 ∧ bit s.cn.lbMask p = false then s.setPlane p { x with state := 0, modeDue := some 3 }
      else s)) ∧
  -- HEALTH.CANOPY_GET, of one grove's counters or of none, and HEALTH.CANOPY_SET, for the operator
  (∀ (s : State) (r : Request) (g : Nat), s.asks r 0x0D20 → r.payload.length = 4 → fld r.payload 0 1 = g →
    zeroAt r.payload 1 3 = true → (g < s.groves ∧ g < 16 ∨ g = 0xFF) → exec .healthCanopyGet s = .next (s.taken.reply r 0
      ((List.range 8).flatMap (fun p => leBytes 1 (s.plane p).state) ++ leBytes 1 s.capacity ++
        leBytes 1 s.cn.lbMask ++ zeros 2 ++ if g = 0xFF then [] else ctrBytes (SMap.getD s.cn.ctrs g []) 13))) ∧
  (∀ (s : State) (r : Request), s.asks r 0x0D21 → r.payload.length = 4 → zeroAt r.payload 1 3 = true →
    exec .healthCanopySet s = .next (
      if r.actor = operator then ({ s.taken with cn := { s.cn with lbMask := fld r.payload 0 1 } }).reply r 0
      else s.taken.reply r 0x0016))

/-- 11 R318 to R333: a frame from its slice to its port or its sink. Where the spec leaves a choice or a value open, the
clauses follow assumption log entries 22, 23, 26 and 31: there they state the model's choice. -/
def Obligations.EgressRows : Prop :=
  -- FRAME_ELIGIBLE: a whole, posted, released, coloured frame in its order becomes eligible with its traffic class; before that nothing happens.
  (∀ (s : State) (g tag : Nat) (f : FrameRec) (x : SliceTag), s.running = true → s.frame tag = some f →
    SMap.get (s.slice g).tags tag = some x →
    let f' := { f with tc := if f.isCopy then f.tc else s.classOf f }
    exec (.frameEligible g tag) s = .next (
      if x.st = 1 ∧ x.posted = true ∧ f.released = true ∧ f.out tag = some g ∧ f.coloured = true ∧
        (f.isCopy = true ∨ s.inOrder tag f' = true) then (s.setFrame tag f').eligible_ g tag f'
      else s)) ∧
  (∀ (s : State) (g tag : Nat), (s.frame tag = none ∨ SMap.get (s.slice g).tags tag = none) →
    exec (.frameEligible g tag) s = .next s) ∧
  -- A frame for a port that is down is freed and counted; a lossy one that finds the shared pool short is freed too.
  (∀ (s : State) (g tag n tc : Nat) (l : Bool), s.isUp n = false → s.joinPort g tag n tc l = (s.ethCtr n 25 1).freeFrame tag) ∧
  (∀ (s : State) (g tag n tc : Nat), s.isUp n = true →
    2 ^ (s.egressCfg n).alpha * s.sharedFree g < 16 * (s.queuedCells g (s.queue n tc) + s.frameCells g tag) →
    s.joinPort g tag n tc true = (s.sliceCtr g 5 1).freeFrame tag) ∧
  -- Otherwise it stands at the end of its class's queue, and only there.
  (∀ (s : State) (g tag n tc : Nat), s.isUp n = true → g = n / 32 →
    (s.joinPort g tag n tc false).queue n tc = s.queue n tc ++ [tag] ∧
    ∀ c, c < 8 → tc < 8 → c ≠ tc → (s.joinPort g tag n tc false).queue n c = s.queue n c) ∧
  -- EGRESS_SCHEDULE: once the line is free the head of the chosen class leaves.
  (∀ (s : State) (n : Nat), s.running = true → s.isPort n = true → s.isUp n = true →
    SMap.get (s.slice (n / 32)).sending n = none →
    let x := s.slice (n / 32)
    let u := s.upTo (SMap.getD x.freeAt n 0)
    exec (.egressSchedule n) s = .next (match u.chooseClass n with
      | some (c, turn, d) => match s.queue n c with
        | tag :: rest =>
          let v := (u.setSlice (n / 32) { x with queues := SMap.set x.queues (8 * n + c) rest
                                                 turn := SMap.set x.turn n turn
                                                 deficit := if rest.isEmpty then SMap.del d (8 * n + c) else d }).touchTag (n / 32) tag
          match s.frame tag with
          | some f => v.sendFrame (n / 32) n tag f
          | none => v
        | [] => s
      | none => s)) ∧
  -- While a frame is being sent, or the port is down, no other is chosen.
  (∀ (s : State) (n : Nat), (s.isPort n = false ∨ s.isUp n = false ∨ (SMap.get (s.slice (n / 32)).sending n).isSome = true) →
    exec (.egressSchedule n) s = .next s) ∧
  -- A paused class is not served, and a strict class goes before the weighted ones.
  (∀ (s : State) (n tc : Nat), s.paused n tc = true → s.classReady n tc = false) ∧
  (∀ (s : State) (n c turn : Nat) (d : SMap Nat), s.chooseClass n = some (c, turn, d) → c < 8 ∧ s.classReady n c = true ∧
    (bit (s.egressCfg n).strictMask.toNat c = false →
      ∀ k, k < 8 → bit (s.egressCfg n).strictMask.toNat k = true → s.classReady n k = false)) ∧
  -- The frame that is sent goes out whole, 5 ns after its last bit and its decision and no earlier.
  (∀ (s : State) (g n tag : Nat) (f : FrameRec), bit (s.portCfg n).ptp 1 = false → ∃ l, (s.sendFrame g n tag f).out =
    s.out ++ .frame n (f.edited.getD f.bytes) :: l) ∧
  -- FRAME_TRANSMIT_END counts the frame and gives its cells up.
  (∀ (s : State) (n : Nat), s.running = true → exec (.frameTransmitEnd n) s = .next (
    match SMap.get (s.slice (n / 32)).sending n with
    | some tag =>
      let u := s.upTo (SMap.getD (s.slice (n / 32)).freeAt n 0 - s.wireTime n 20)
      ((((u.setSlice (n / 32) { s.slice (n / 32) with sending := SMap.del (s.slice (n / 32)).sending n }).ethCtr n 2 1).ethCtr
        n 3 (((s.frame tag).map fun f => (f.edited.getD f.bytes).length).getD 0)).dropTag (n / 32) tag).reap tag
    | none => s)) ∧
  -- SINK_TAKE: each sink takes from its own grove's queue; threads and the cipher engine take theirs themselves.
  (∀ (s : State) (g : Nat) (k : Sink), s.running = true → exec (.sinkTake g k) s = .next (match k with
    | .hostQueue q => if q / 4096 = g then s.rxTake q else s
    | .clearing c => if c / 2 = g then s.streamRx c else s
    | .exception => s.slowTake g
    | .service q => if q = 255 then s.engineTake g else s
    | .cipher => s)) ∧
  (∀ (s : State) (g tag : Nat) (f : FrameRec) (l : List Nat), s.sinkQueue g (.service 255) = tag :: l → s.frame tag = some f →
    s.engineTake g = if s.raWorks g then s.raTake g tag f else s) ∧
  -- A sink queue at its limit takes no lossy frame, and the exception queue no frame beyond 4,096.
  (∀ (s : State) (g tag : Nat) (k : Sink), k ≠ .exception → (s.sliceCfg g).sinkLimit ≤ s.queuedCells g (s.sinkQueue g k) →
    s.joinSink g tag k true = (s.sliceCtr g 6 1).freeFrame tag) ∧
  (∀ (s : State) (g tag : Nat) (l : Bool), 4096 ≤ (s.sinkQueue g .exception).length →
    s.joinSink g tag .exception l = (s.parseCtr g 9 1).freeFrame tag) ∧
  (∀ (s : State) (g tag : Nat) (k : Sink), k ≠ .exception → (s.joinSink g tag k false).sinkQueue g k = s.sinkQueue g k ++ [tag])

/-- 11 R341 to R344: the free-list audit of a slice. 11 R345 to R349: the egress, slice and mirror commands. Where the
spec leaves a choice or a value open, the clauses follow assumption log entry 22: there they state the model's choice. -/
def Obligations.AuditAndEgressCommands : Prop :=
  -- AUDIT_START at the next multiple of 2^24 canopy cycles since the device-scope reset
  (∀ (s : State) (g : Nat), s.running = true → g < s.groves → (s.slice g).audit = none →
    let u := s.upTo (auditMoment s.cn.start ((s.slice g).audits + 1))
    exec (.auditStart g) s = .next (u.setSlice g { s.slice g with
      audit := some u.now, audits := (u.now - s.cn.start) * 25 / 64 / 2 ^ 24, seen := [] })) ∧
  (∀ (s : State) (g : Nat), (s.groves ≤ g ∨ (s.slice g).audit.isSome = true) → exec (.auditStart g) s = .next s) ∧
  -- AUDIT_END: cells found lost twice on end are reclaimed, logged and told of, those found for the first time suspected; a referenced cell on the free list is counted and logged.
  (∀ (s : State) (g : Nat) (leaked conflicts : List Nat), s.running = true → (s.slice g).audit.isSome = true →
    let x := s.slice g
    let lost := s.auditLost g leaked
    let again := lost.filter fun c => x.suspect.contains c
    let u := ((s.setSlice g { x with
      audit := none, seen := [], suspect := lost.filter fun c => !again.contains c,
      lost := (x.lost ++ lost.filter fun c => (SMap.get x.cells c).isNone).eraseDups }).noteFree g).sliceCtr g 11 1
    let v := again.foldl (fun t c => t.reclaim g c) u
    let w := (conflicts.filter fun c => c < 65536 && x.references c).eraseDups.foldl (fun t c =>
      (t.sliceCtr g 13 1).log (locLeaf g 0x08 0 c) 8 0 0) v
    exec (.auditEnd g leaked conflicts) s = .next (
      if again.isEmpty then w else w.fireDev g 4 0x0221 (tallyData g again.length))) ∧
  (∀ (s : State) (g : Nat) (leaked conflicts : List Nat), (s.slice g).audit = none →
    exec (.auditEnd g leaked conflicts) s = .next s) ∧
  -- A cell used since the audit began, one that something references, and a retired one are not lost; a cell that nothing references is.
  (∀ (s : State) (g c : Nat) (l : List Nat), c ∈ s.auditLost g l ↔ (c ∈ (s.slice g).lost ∨ c ∈ l ∨ c ∈ (s.slice g).cells.map (·.1)) ∧
    c < 65536 ∧ c ∉ (s.slice g).seen ∧ (s.slice g).references c = false ∧ c ∉ s.retiredCells g) ∧
  -- A reclaimed cell is free again.
  (∀ (s : State) (g c : Nat), (s.reclaim g c).slice g = { s.slice g with
    cells := SMap.del (s.slice g).cells c, lost := (s.slice g).lost.filter (· != c), ctrs := (s.slice g).ctrs.add 12 1 }) ∧
  -- PORT.EGRESS_SET and PORT.EGRESS_GET
  (∀ (s : State) (r : Request) (n : Nat) (c : EgressCfg), s.asks r 0x0206 → r.payload.length = 20 → fld r.payload 0 2 = n →
    zeroAt r.payload 18 2 = true → c = ⟨BitVec.ofNat 8 (fld r.payload 2 1), fld r.payload 3 1,
      (List.range 8).map fun i => fld r.payload (4 + i) 1, BitVec.ofNat 8 (fld r.payload 12 1), fld r.payload 13 1,
      fld r.payload 14 2, fld r.payload 16 2⟩ → c.alpha ≤ 7 → (∀ w ∈ c.weight, w ≠ 0) → c.ecnPmax ≠ 0 → c.ecnMin < c.ecnMax →
    s.ownsPort r.actor n → s.groveFailed (n / 32) = false → exec .portEgressSet s = .next (s.replyCfg { s.taken with cfg := { s.cfg with
      egress := SMap.set s.cfg.egress n c } } r)) ∧
  (∀ (s : State) (r : Request) (n : Nat), s.asks r 0x0207 → r.payload.length = 2 → fld r.payload 0 2 = n →
    s.ownsPort r.actor n → exec .portEgressGet s = .next (s.taken.reply r 0 ((s.egressCfg n).record n ++
      (List.range 8).flatMap fun c => leBytes 4 (s.queuedCells (n / 32) (s.queue n c))))) ∧
  -- PORT.SLICE_SET of the groves that the mask names
  (∀ (s : State) (r : Request) (c : SliceCfg), s.asks r 0x0208 → let gs := maskBits (fld r.payload 0 2) 16
    r.payload.length = 14 → fld r.payload 0 2 ≠ 0 → zeroAt r.payload 12 2 = true → c = ⟨fld r.payload 2 2, fld r.payload 4 2,
      fld r.payload 6 2, fld r.payload 8 2, fld r.payload 10 2⟩ → c.headroom ≤ 16384 → c.mirrorPool ≤ 8192 → 16 ≤ c.xoffCells →
    c.xoffCells ≤ 16384 → c.xonCells < c.xoffCells → 64 ≤ c.sinkLimit → c.sinkLimit ≤ 32768 → (∀ g ∈ gs, g < s.groves) →
    (r.actor = operator ∨ ∀ g ∈ gs, s.ownsGrove r.actor g = true) → (∀ g ∈ gs, s.groveFailed g = false) →
    exec .portSliceSet s = .next (s.replyCfg { s.taken with cfg := { s.cfg with
      slices := gs.foldl (fun m g => SMap.set m g c) s.cfg.slices } } r)) ∧
  -- XON_CELLS not below XOFF_CELLS is BAD_ARG.
  (∀ (s : State) (r : Request), s.asks r 0x0208 → r.payload.length = 14 → fld r.payload 6 2 ≤ fld r.payload 8 2 →
    exec .portSliceSet s = .next (s.taken.reply r 0x0015)) ∧
  -- PORT.SLICE_GET
  (∀ (s : State) (r : Request) (g : Nat), s.asks r 0x0209 → r.payload.length = 4 → fld r.payload 0 1 = g →
    zeroAt r.payload 1 3 = true → g < 16 → g < s.groves → let c := s.sliceCfg g
    exec .portSliceGet s = .next (s.taken.reply r 0 (leBytes 2 c.headroom ++ leBytes 2 c.mirrorPool ++ leBytes 2 c.xoffCells ++
      leBytes 2 c.xonCells ++ leBytes 2 c.sinkLimit ++ zeros 2 ++ leBytes 4 (s.freeCells g) ++
      leBytes 4 ((s.slice g).used 0) ++ leBytes 4 ((s.slice g).used 1) ++ leBytes 4 ((s.slice g).used 2) ++ s.sliceCtrs g))) ∧
  -- PORT.MIRROR_SET: the session's candidates are counted from 0 again in every slice.
  (∀ (s : State) (r : Request) (x : Nat) (m : MirrorCfg), s.asks r 0x020A → r.payload.length = 20 → fld r.payload 0 1 = x →
    x < 16 → m = ⟨BitVec.ofNat 8 (fld r.payload 1 1), fld r.payload 2 2, fld r.payload 4 1, fld r.payload 5 1, fld r.payload 6 2,
      fld r.payload 8 4, fld r.payload 12 4, BitVec.ofNat 32 (fld r.payload 16 4)⟩ → m.flags.toNat < 8 → m.tc < 8 →
    (m.truncate = 0 ∨ 64 ≤ m.truncate ∧ m.truncate ≤ 4096) → 1 ≤ m.sampleN → m.sampleN ≤ 16777216 →
    (m.destKind = 1 ∧ m.dest < 512 ∧ m.dest < s.lanes ∧ s.isPort m.dest = true ∨
      m.destKind = 2 ∧ m.dest < 4096 * s.groves ∧ m.dest < 65536 ∨ m.destKind = 3 ∧ m.dest < s.clearings ∧ m.dest < 32) →
    (m.flags.toNat < 2 ∨ m.sourcePort < 512 ∧ m.sourcePort < s.lanes ∧ s.isPort m.sourcePort = true) → r.actor = operator →
    let sl := s.cn.slices.map fun y => (y.1, { y.2 with candidates := SMap.del y.2.candidates x })
    exec .portMirrorSet s = .next (s.replyCfg { s.taken with
      cfg := { s.cfg with mirrors := SMap.set s.cfg.mirrors x m }, cn := { s.cn with slices := sl } } r)) ∧
  -- PORT.MIRROR_GET
  (∀ (s : State) (r : Request) (x : Nat), s.asks r 0x020B → r.payload.length = 4 → fld r.payload 0 1 = x →
    zeroAt r.payload 1 3 = true → x < 16 →
    exec .portMirrorGet s = .next (s.taken.reply r 0 ((s.mirror x).record x ++ s.mirrorCounts x)))

/-- 12 R350 to R352, R374 to R379: host links and their power. Where the spec leaves a choice or a value open, the clauses
follow assumption log entry 43: there they state the model's choice. -/
def Obligations.HostLinks : Prop :=
  -- HOST_LINK_DOWN takes a port that is up down whatever its reason.
  (∀ (s : State) (p k : Nat), exec (.hostLinkDown p k) s = .next (
    if p < s.groves ∧ (s.port p).up = true ∧ 2 ≤ k ∧ k ≤ 5 then s.linkLost p k else s)) ∧
  (∀ (s : State) (p k : Nat), ((s.linkLost p k).port p).up = false ∧ ((s.linkLost p k).port p).full = false ∧
    ((s.linkLost p k).port p).rate = 0 ∧ ((s.linkLost p k).port p).l1 = false) ∧
  -- HOST_LINK_UP: with PERST_N high, in boot or in service, the link reaches L0 in one of its forms; on a link that is up it is the partner's change of width.
  (∀ (s : State) (p : Nat) (l : HostLink), exec (.hostLinkUp p l.rate l.toLinkForm) s = .next (
    if p < s.groves ∧ SMap.getD s.board.perstN p false = true ∧ linkForm l = true ∧ (s.serving = true ∨ s.boot.phase = .booting) then
      if (s.port p).up then s.setPort p ((s.port p).l0p l) else s.linkRaise p l
    else s)) ∧
  (∀ (l : HostLink), linkForm l = true ↔ (1 ≤ l.rate ∧ l.rate ≤ 7) ∧
    (l.width = 1 ∨ l.width = 2 ∨ l.width = 4 ∨ l.width = 8 ∨ l.width = 16) ∧ (5 < l.rate → l.flit = true)) ∧
  -- A link that reaches L0 after boot step 7 is the full endpoint's, and the event tells its rate and width.
  (∀ (s : State) (p : Nat) (l : HostLink), s.serving = true → s.isFenced 0x0A p 0 = false →
    SMap.getD s.board.standHeld (p / 4) false = false → s.linkRaise p l = (s.setPort p { s.port p with
      up := true, rate := l.rate, width := l.width, trained := l.width, flit := l.flit, sris := l.sris, full := true
      lastTraffic := s.clk, l23 := false }).fireDev p 1 0x0510 (BitVec.ofNat 32 (2 ^ 20 * l.rate + 2 ^ 15 * l.width + p))) ∧
  -- D3HOT_ENTRY and D0_RETURN
  (∀ (s : State) (f : Nat), s.liveFn f → exec (.d3hotEntry f) s = .next (s.enterD3 f)) ∧
  (∀ (s : State) (f : Nat), ((s.fn f).d3hot = true → s.enterD3 f = s) ∧
    ((s.enterD3 f).fn f).d3hot = true ∧ (s.enterD3 f).qp = s.qp ∧ (s.enterD3 f).cfg = s.cfg) ∧
  (∀ (s : State) (f : Nat), s.liveFn f → exec (.d0Return f) s = .next (
    if (s.fn f).d3hot then
      ((s.setPort (fnPort f) { s.port (fnPort f) with l1 := false }).setFn f { s.fn f with d3hot := false }).releaseHeld f
    else s)) ∧
  -- PME_RESEND: a PM_PME 100 ms after the last, while PME_Status is 1 in D3hot.
  (∀ (s : State) (f : Nat), s.serving = true → let u := s.upToClk ((s.fn f).pmeLast + ms 100)
    exec (.pmeResend f) s = .next (
      if s.fnPresent f = true ∧ (s.fn f).d3hot = true ∧ (s.fn f).pmeStatus = true then
        ((u.setFn f { s.fn f with pmeLast := u.clk }).hostSend f (.pme f)).hostCtr (fnPort f) 15
      else s)) ∧
  (∀ (s : State) (f : Nat) (o : Out), (s.hostSend f o).out = s.out ++ [o] ∧ ((s.hostSend f o).port (fnPort f)).l1 = false) ∧
  -- PME_TURN_OFF
  (∀ (s : State) (p : Nat), s.serving = true → exec (.pmeTurnOff p) s = .next (
    if p < s.groves ∧ (s.port p).full = true then (s.setPort p { s.port p with l23 := true, l1 := false }).emit (.pmeToAck p)
    else s)) ∧
  -- ASPM_L1_ENTRY of a management port that has been idle for its time; L1_EXIT.
  (∀ (s : State) (p : Nat), s.serving = true →
    let u := s.upToClk ((s.port p).lastTraffic + us (SMap.getD s.cfg.hosts p {}).l1IdleUs)
    exec (.aspmL1Entry p) s = .next (
      if p < s.groves ∧ (s.port p).up = true ∧ (s.port p).mgmtActive = true ∧ (s.port p).aspmEnable = true ∧
        (s.port p).l1 = false ∧ s.portQueues p = false then (u.setPort p { s.port p with l1 := true }).hostCtr p 18
      else s)) ∧
  (∀ (s : State) (p : Nat), s.serving = true → exec (.l1Exit p) s = .next (
    if p < s.groves ∧ (s.port p).up = true ∧ (s.port p).l1 = true then
      s.setPort p { s.port p with l1 := false, lastTraffic := s.clk }
    else s))

/-- 12 R355, R365, R367, R370 to R373: what happens to a function. Where the spec leaves a choice or a value open, the
clauses follow assumption log entry 43: there they state the model's choice. -/
def Obligations.FunctionRows : Prop :=
  -- BUS_MASTER_DISABLE: its requests are abandoned and its queue pairs stop.
  (∀ (s : State) (f : Nat), s.liveFn f → exec (.busMasterDisable f) s = .next (s.clearBusMaster f)) ∧
  (∀ (s : State) (f : Nat), (s.fn f).busMaster = false → s.clearBusMaster f = s) ∧
  (∀ (s : State) (f : Nat), (s.fn f).busMaster = true → ∃ u : State, s.clearBusMaster f = (s.qpsOf f).foldl State.busMasterStop u ∧
    (u.fn f).busMaster = false ∧ (∀ x ∈ u.hp.tags, x.fn = f → x.purpose = .discard) ∧ (∀ x ∈ u.hp.waiting, x.fn ≠ f) ∧
    u.qp = s.qp ∧ u.cfg = s.cfg) ∧
  -- BUS_MASTER_ENABLE: what it held is written, and fetching goes on; in recovery mode only PF2 may be enabled.
  (∀ (s : State) (f : Nat), s.liveFn f → exec (.busMasterEnable f) s = .next (
    if (s.fn f).busMaster = true ∨ s.boot.phase = .recovery ∧ fnLocal f ≠ 2 then s
    else (s.setFn f { s.fn f with busMaster := true }).releaseHeld f)) ∧
  -- FLR: configuration space is at its reset values and FLR_ACTIVE is 1; a second reset while one is in progress waits.
  (∀ (s : State) (f : Nat), s.liveFn f → exec (.flr f) s = .next (s.startFlr f)) ∧
  (∀ (s : State) (f : Nat), ((s.startFlr f).fn f).flrActive = true ∧ ((s.startFlr f).fn f).busMaster = false ∧
    ((s.startFlr f).fn f).msixEnable = false ∧ ((s.startFlr f).fn f).d3hot = false ∧ ((s.startFlr f).fn f).memSpace = false ∧
    ((s.startFlr f).fn f).msix = []) ∧
  (∀ (s : State) (f : Nat), (s.fn f).flrActive = true → exec (.flr f) s = .next s) ∧
  -- FLR_COMPLETE
  (∀ (s : State) (f : Nat), s.serving = true → exec (.flrComplete f) s = .next (
    if (s.fn f).flrActive then (s.setFn f { s.fn f with flrActive := false }).fireDev (fnPort f) 1 0x0512 (BitVec.ofNat 32 f)
    else s)) ∧
  -- VF_CESSATION: the VFs from the new count on cease, and with 0 VF Enable is cleared.
  (∀ (s : State) (f n : Nat), s.liveFn f → exec (.vfCessation f n) s = .next (
    if fnLocal f ≤ 1 ∧ (s.fn f).vfEnable = true ∧ n < (s.fn f).numVFs then
      if n = 0 then s.clearVfEnable f else s.writeNumVFs f n
    else s)) ∧
  (∀ (s : State) (f n : Nat), ((s.writeNumVFs f n).fn f).numVFs = min n 512 ∧ ((s.clearVfEnable f).fn f).vfEnable = false) ∧
  -- The objects of a VF that ceases pass to PF2 of its port.
  (∀ (s : State) (f : Nat) (o : Nat × Nat), o ∈ (s.resetFn f).cfg.owners → o.2 = f →
    (o.1, pf2 (fnPort f)) ∈ (s.ceaseVf f).cfg.owners) ∧
  -- CPL_TIMEOUT_VALUE_WRITE and CPL_TIMEOUT_WRITE, of a physical function; 5 ms to 6.4 s, and no other value.
  (∀ (s : State) (f : Nat) (v : BitVec 4), s.liveFn f → exec (.cplTimeoutValueWrite f v) s = .next (
    if fnLocal f ≤ 2 then s.setFn f { s.fn f with cplTimeoutValue := v, cplTimeout := if v = 1 then 10 else 1000 } else s)) ∧
  (∀ (s : State) (f : Nat) (v : BitVec 13), s.liveFn f → exec (.cplTimeoutWrite f v) s = .next (
    if fnLocal f ≤ 2 ∧ 5 ≤ v.toNat ∧ v.toNat ≤ 6400 then s.setFn f { s.fn f with cplTimeout := v.toNat } else s)) ∧
  -- PASID_ENABLE_CLEAR: the queue pairs that have a PASID stop; without one nothing else happens.
  (∀ (s : State) (f : Nat), s.liveFn f → exec (.pasidEnableClear f) s = .next (if (s.fn f).pasidEn then s.clearPasid f else s)) ∧
  (∀ (s : State) (f : Nat), s.clearPasid f = ((s.qpsOf f).filter fun q => (s.qpOf q).set.pasidEn).foldl (fun s q =>
    let u := (s.abortJobs q).settleRecords q
    if (u.qpOf q).state = 2 then u.qpStopping q 4 else u) (s.setFn f { s.fn f with pasidEn := false }))

/-- 12 R362, R365: interrupts and translations of a function. Where the spec leaves a choice or a value open, the clauses
follow assumption log entry 43: there they state the model's choice. -/
def Obligations.InterruptAndTranslationRows : Prop :=
  -- MSIX_ENABLE_SET: what is pending and not masked is sent.
  (∀ (s : State) (f : Nat), s.liveFn f → exec (.msixEnableSet f) s = .next (
    if (s.fn f).msixEnable then s
    else ((s.setFn f { s.fn f with msixEnable := true }).flushPba f).intxUpdate (fnPort f))) ∧
  (∀ (s : State) (f v : Nat), (s.fn f).msixEnable = true → s.canDma f = true → (s.fn f).pba = [(v, true)] →
    (s.fn f).masked v = false → (s.flushPba f).out = s.out ++ [.msix f v] ∧ ((s.flushPba f).fn f).pba = []) ∧
  (∀ (s : State) (f v : Nat), (s.fn f).pba = [(v, true)] → (s.fn f).masked v = true → (s.flushPba f).out = s.out ∧
    ((s.flushPba f).fn f).pba = [(v, true)]) ∧
  -- INTX_ACK_WRITE by a physical function; any other write there is refused and counted.
  (∀ (s : State) (f v : Nat), s.serving = true → s.takesRequests f = true → s.boot.phase ≠ .recovery →
    let u := s.traffic f
    exec (.intxAckWrite f v) s = .next (
      if fnLocal f ≤ 2 ∧ v < 2048 then (u.setFn f { s.fn f with pba := SMap.del (s.fn f).pba v }).intxUpdate (fnPort f)
      else u.hostCtr (fnPort f) 13)) ∧
  -- MSIX_TABLE_ENTRY_UNMASK
  (∀ (s : State) (f v : Nat), s.serving = true → s.takesRequests f = true → s.boot.phase ≠ .recovery →
    exec (.msixTableEntryUnmask f v) s = .next (if v < vectorsOf f then (s.traffic f).unmaskVector f v else s.traffic f)) ∧
  (∀ (s : State) (f v : Nat) (a : BitVec 64) (d : BitVec 32) (m : Bool), SMap.get (s.fn f).msix v = some (a, d, m) →
    s.unmaskVector f v = (s.setFn f { s.fn f with msix := SMap.set (s.fn f).msix v (a, d, false) }).flushPba f) ∧
  -- Without its bus address a function takes neither.
  (∀ (s : State) (f v : Nat), s.serving = true → (s.port (fnPort f)).full = true → s.takesRequests f = false →
    exec (.intxAckWrite f v) s = .next (s.emit (.completion f false [])) ∧
    exec (.msixTableEntryUnmask f v) s = .next (s.emit (.completion f false []))) ∧
  -- ATS_INVALIDATE: covered translations go, and the answer waits for the covered reads that are outstanding.
  (∀ (s : State) (f lo hi tag : Nat), s.liveFn f →
    let covered := s.hp.tags.filter fun t => t.fn == f && t.addr ≤ hi && lo < t.addr + t.len
    exec (.atsInvalidate f lo hi tag) s = .next { s with hp := { s.hp with
      cache := s.hp.cache.filter fun c => !(c.fn == f && 4096 * c.page ≤ hi && lo < 4096 * c.page + 4096)
      invals := s.hp.invals ++ [Inval.mk f tag (covered.map fun (u : TagUse) => (u.port, u.tag))] } }.flushInvals) ∧
  (∀ (s : State) (f tag : Nat), (s.hp.invals = [⟨f, tag, []⟩] → s.flushInvals.out = s.out ++ [.invalidated f tag] ∧
      s.flushInvals.hp.invals = []) ∧
    ((∀ i ∈ s.hp.invals, i.tags ≠ []) → s.flushInvals = s))

/-- 12 R363, R367 to R369: tags and completions. Where the spec leaves a choice or a value open, the clauses follow
assumption log entries 42 and 43: there they state the model's choice. -/
def Obligations.CompletionRows : Prop :=
  -- COMPLETION_RECEIVE: in time, the data go where they were asked for, or the error fails the read and is counted by its kind, and the tag is free again; late, or for a tag that nothing uses, it is unexpected.
  (∀ (s : State) (p tag : Nat) (c : CplStatus) (b : List Byte), s.serving = true → p < s.groves → (s.port p).up = true →
    exec (.completionReceive p tag c b) s = .next (match s.tagUse p tag with
      | some x =>
        let u := s.endTag x
        if x.issued + x.timeout < s.clk then (s.timeoutTag x).unexpected p tag
        else match c with
          | .sc => (u.arriveData x.fn b x.purpose).serveWaiting p
          | .ur => ((u.hostCtr p 5).failPurpose x.fn x.addr false x.purpose).serveWaiting p
          | .ca => ((u.hostCtr p 6).failPurpose x.fn x.addr false x.purpose).serveWaiting p
          | .poisoned => ((u.hostCtr p 7).failPurpose x.fn x.addr false x.purpose).serveWaiting p
      | none => s.unexpected p tag)) ∧
  -- A port that is down receives none.
  (∀ (s : State) (p tag : Nat) (c : CplStatus) (b : List Byte), (s.groves ≤ p ∨ (s.port p).up = false) →
    exec (.completionReceive p tag c b) s = .next s) ∧
  (∀ (s : State) (x : TagUse), ∀ y ∈ (s.endTag x).hp.tags, ¬ (y.port = x.port ∧ y.tag = x.tag)) ∧
  -- An unexpected completion is counted, logged as advisory, and frees a quarantined tag.
  (∀ (s : State) (p tag : Nat), let u := (s.hostCtr p 4).advisory (pf0 p) 1
    let v := { u with hp := { u.hp with
      quarantine := u.hp.quarantine.filter fun x => !(x.1 == p && x.2.1 == tag) } }
    s.unexpected p tag = v.serveWaiting p) ∧
  -- The data of a fetch join the descriptors that have arrived; those of a payload join the job's pieces.
  (∀ (s : State) (f q : Nat) (b : List Byte), (s.qpOf q).fetching = true → (s.qpOf q).state = 2 →
    s.arriveData f b (.fetch q) = s.setQp q { s.qpOf q with
      fetching := false, arrived := (s.qpOf q).arrived ++ [BitVec.ofNat 256 (fld b 0 32)] }) ∧
  (∀ (s : State) (f q i : Nat) (slot : BitVec 32) (b : List Byte) (j : Job), (s.qpOf q).job slot = some j → j.st = .running →
    s.arriveData f b (.payload q slot i) = s.setQp q ((s.qpOf q).setJob { j with
      piecesLeft := j.piecesLeft - 1, pieces := SMap.set j.pieces i b })) ∧
  -- COMPLETION_TIMEOUT: at issue + T, and no earlier; the tag is quarantined until issue + 3 T.
  (∀ (s : State) (p tag : Nat), s.serving = true → exec (.completionTimeout p tag) s = .next (
    match s.tagUse p tag with | some x => s.timeoutTag x | none => s)) ∧
  (∀ (s : State) (x : TagUse), x.purpose = .discard → (s.timeoutTag x).now = (s.upToClk (x.issued + x.timeout)).now ∧
    (x.port, x.tag, x.issued + 3 * x.timeout) ∈ (s.timeoutTag x).hp.quarantine ∧
    (∀ y ∈ (s.timeoutTag x).hp.tags, ¬ (y.port = x.port ∧ y.tag = x.tag))) ∧
  -- TAG_QUARANTINE_END
  (∀ (s : State) (p tag : Nat), s.serving = true → exec (.tagQuarantineEnd p tag) s = .next (
    match s.hp.quarantine.find? (fun x => x.1 == p && x.2.1 == tag) with
    | some x =>
      let u := s.upToClk x.2.2
      { u with hp := { s.hp with quarantine := s.hp.quarantine.erase x } }.serveWaiting p
    | none => s)) ∧
  -- A request that waited for a tag is issued when one is free; without one nothing happens.
  (∀ (s : State) (p : Nat), ((s.hp.waiting.all fun w => w.port != p) = true ∨ s.freeTag p = none) → s.serveWaiting p = s)

/-- 12 R353 to R361, R372, R381: configuration space, the BARs and the host-port commands. Where the spec leaves a choice
or a value open, the clauses follow assumption log entries 43 and 55: there they state the model's choice. -/
def Obligations.ConfigurationAndBars : Prop :=
  -- CONFIG_REQUEST: no answer of a link that is down, Configuration Request Retry Status before boot step 7, and then Unsupported Request of a function that is not there.
  (∀ (s : State) (f bus : Nat) (k : CfgReg) (w : Option (BitVec 32)), (s.port (fnPort f)).up = false →
    exec (.configRequest f bus k w) s = .next s) ∧
  (∀ (s : State) (f bus : Nat) (k : CfgReg) (w : Option (BitVec 32)), (s.port (fnPort f)).up = true →
    (s.port (fnPort f)).full = false → exec (.configRequest f bus k w) s = .next (s.emit (.crs f))) ∧
  (∀ (s : State) (f bus : Nat) (k : CfgReg) (w : Option (BitVec 32)), (s.port (fnPort f)).up = true →
    (s.port (fnPort f)).full = true → (s.fnPresent f = false ∨ (vfOf f).isSome = true ∧ bus ≠ s.routingId f / 256) →
    exec (.configRequest f bus k w) s = .next (s.emit (.completion f false []))) ∧
  -- A read returns the register and changes nothing.
  (∀ (s : State) (f bus : Nat) (k : CfgReg), (s.port (fnPort f)).up = true → (s.port (fnPort f)).full = true →
    s.fnPresent f = true → (vfOf f = none ∨ bus = s.routingId f / 256) → exec (.configRequest f bus k none) s =
      .next (s.emit (.completion f true
        (leBytes (match k with | .serialNumber | .readinessTime | .l1Substates => 8 | _ => 4) (s.cfgRead f k))))) ∧
  -- A write does what the register does, and one of a PF captures the bus number; a function being reset takes none.
  (∀ (s : State) (f bus : Nat) (k : CfgReg) (v : BitVec 32), (s.port (fnPort f)).up = true → (s.port (fnPort f)).full = true →
    s.fnPresent f = true → (vfOf f = none ∨ bus = s.routingId f / 256) → let u := s.emit (.completion f true [])
    exec (.configRequest f bus k (some v)) s = .next (
      if (s.fn f).flrActive = true then u
      else if vfOf f = none then (u.setPort (fnPort f) { s.port (fnPort f) with busB := bus }).cfgWrite f v k
      else u.cfgWrite f v k)) ∧
  -- Identification is as the spec gives it and read-only; the reset bit of Device Control starts a function-level reset.
  (∀ (s : State) (f : Nat) (v : BitVec 32), s.cfgRead f .vendorId = 0x1F3B ∧ s.cfgWrite f v .vendorId = s ∧
    s.cfgWrite f v .serialNumber = s ∧ s.cfgWrite f v .classCode = s ∧
    (v.getLsbD 15 = true → s.cfgWrite f v .deviceControl = s.startFlr f)) ∧
  -- REGISTER_WRITE: a port that is no full endpoint answers nothing; a function that takes no request, an offset beyond the BAR, and an AtomicOp are Unsupported.
  (∀ (s : State) (f bar o : Nat) (q : MemReq), (s.port (fnPort f)).full = false → exec (.registerWrite f bar o q) s = .next s) ∧
  (∀ (s : State) (f bar o : Nat) (q : MemReq), s.serving = true → (s.port (fnPort f)).full = true →
    (s.takesRequests f = false ∨ s.barSize f bar ≤ o ∨ ∃ b, q = .atomic b) →
    exec (.registerWrite f bar o q) s = .next (s.emit (.completion f false []))) ∧
  -- A read or a write that the firebreak of its place allows; one that it denies is Unsupported and counted.
  (∀ (s : State) (f o n k a : Nat), s.serving = true → o < s.barSize f 0 → (s.placeOf f o).target f o = some (k, a) →
    s.reaches f k 1 a n → let u := s.traffic f
    exec (.registerWrite f 0 o (.read n)) s = .next (match s.placeOf f o with
      | .control c x => u.readControl f c x n
      | pl => u.emit (.completion f true (u.readPlace f pl n)))) ∧
  (∀ (s : State) (f o k a : Nat) (b : List Byte), s.serving = true → o < s.barSize f 0 →
    (s.placeOf f o).target f o = some (k, a) → s.reaches f k 2 a b.length → exec (.registerWrite f 0 o (.write b)) s =
      .next ((s.traffic f).writePlace f (s.placeOf f o) b)) ∧
  (∀ (s : State) (f o k a : Nat) (b : List Byte), s.serving = true → s.takesRequests f = true → o < s.barSize f 0 →
    s.boot.phase ≠ .recovery → (s.placeOf f o).target f o = some (k, a) → s.fbAllowed k (s.master f) 2 a b.length = false →
    exec (.registerWrite f 0 o (.write b)) s =
      .next (((s.fbDeny k (s.master f) 2 a b.length).hostCtr (fnPort f) 14).emit (.completion f false []))) ∧
  -- Where nothing is mapped a read answers zeros and a write is counted.
  (∀ (s : State) (f o n : Nat) (b : List Byte), s.serving = true → (s.port (fnPort f)).full = true → s.takesRequests f = true →
    o < s.barSize f 0 → s.placeOf f o = .unmapped →
    exec (.registerWrite f 0 o (.read n)) s = .next (s.emit (.completion f true (zeros n))) ∧
    exec (.registerWrite f 0 o (.write b)) s = .next (s.hostCtr (fnPort f) 13)) ∧
  -- BAR2, which no firebreak checks
  (∀ (s : State) (f o n : Nat) (b : List Byte), s.serving = true → s.takesRequests f = true → s.boot.phase ≠ .recovery →
    o < s.barSize f 2 → let u := s.traffic f
    exec (.registerWrite f 2 o (.read n)) s = .next (u.emit (.completion f true (u.readBar2 f o n))) ∧
    exec (.registerWrite f 2 o (.write b)) s = .next (u.writeBar2 f o b)) ∧
  -- QUEUE.HOST_SET by PF2 of the port or the operator, HOST_GET and HOST_STATS
  (∀ (s : State) (r : Request) (p m u : Nat), s.asks r 0x0530 → r.payload.length = 8 → fld r.payload 0 1 = p → p < 16 →
    fld r.payload 1 1 = m → m ≤ 1 → zeroAt r.payload 2 2 = true → fld r.payload 4 2 = u → 10 ≤ u → u ≤ 10000 →
    zeroAt r.payload 6 2 = true → p < s.groves → exec .queueHostSet s = .next (
      if r.actor = pf2 p ∨ r.actor = operator then s.replyCfg { s.taken with cfg := { s.cfg with
        hosts := SMap.set s.cfg.hosts p { mgmt := m == 1, l1IdleUs := u } } } r
      else s.taken.reply r 0x0016)) ∧
  (∀ (s : State) (r : Request) (p : Nat), s.asks r 0x0531 → r.payload.length = 4 → fld r.payload 0 1 = p → p < 16 →
    zeroAt r.payload 1 3 = true → p < s.groves → let c := SMap.getD s.cfg.hosts p {}
    exec .queueHostGet s = .next (s.taken.reply r 0 (leBytes 1 p ++ leBytes 1 (b2n c.mgmt) ++ zeros 2 ++ leBytes 2 c.l1IdleUs ++
      zeros 2 ++ leBytes 1 (s.port p).rate ++ leBytes 1 (s.port p).width ++ leBytes 1 (s.port p).busB ++
      leBytes 2 (s.fn (pf0 p)).numVFs ++ leBytes 2 (s.fn (pf1 p)).numVFs ++ leBytes 1 (s.dState (pf0 p)) ++
      leBytes 1 (s.dState (pf1 p)) ++ leBytes 1 (s.dState (pf2 p)) ++ leBytes 1 (b2n (s.port p).mgmtActive)))) ∧
  (∀ (s : State) (r : Request) (p : Nat), s.asks r 0x0532 → r.payload.length = 4 → fld r.payload 0 1 = p → p < 16 →
    zeroAt r.payload 1 3 = true → p < s.groves →
    exec .queueHostStats s = .next (s.taken.reply r 0 (ctrBytes (s.port p).ctrs 19)))

/-- 13 R387, R390, R407, R408: doorbell pages and the states of a queue pair. 13 R384, R408, R411: the queue-pair
commands. -/
def Obligations.DoorbellsAndQueueCommands : Prop :=
  -- WORK_PI_WRITE, CPL_CI_WRITE and the three commands reach the queue pair bound to the slot; a page that no queue pair is bound to counts the write.
  (∀ (s : State) (f slot : Nat) (v : BitVec 32), s.serving = true →
    let t := s.traffic f
    let on (k : Nat → State) : Host.Outcome State Fault Refusal :=
      .next (match s.slotQp f slot with | some q => k q | none => t.hostCtr (fnPort f) 12)
    (s.reaches f (0x400 + fnPort f) 2 (0x1000 * slot) 8 → exec (.workPiWrite f slot v) s = on fun q => t.workPiWrite q v) ∧
    (s.reaches f (0x400 + fnPort f) 2 (0x1000 * slot + 8) 8 → exec (.cplCiWrite f slot v) s = on fun q => t.cplCiWrite q v) ∧
    (s.reaches f (0x400 + fnPort f) 2 (0x1000 * slot + 0x10) 8 →
      exec (.qpCtrlStart f slot) s = on (fun q => if s.startFits q then t.qpStart q else t.qpCtr q 13 1) ∧
      exec (.qpCtrlStop f slot) s = on (fun q => if s.stopFits q then t.qpStopping q 1 else t.qpCtr q 13 1) ∧
      exec (.qpCtrlReset f slot) s = on fun q => t.qpResetCmd q)) ∧
  -- WORK_PI is taken while it is not more than the ring beyond WORK_CI, and else counted in BAD_INDEX; what was fetched beyond one that moves back is given up.
  (∀ (s : State) (q : Nat) (v : BitVec 32),
    (2 ^ (s.qpOf q).set.workLog2 < (v - (s.qpOf q).workCi).toNat → s.workPiWrite q v = s.qpCtr q 12 1) ∧
    ((v - (s.qpOf q).workCi).toNat ≤ 2 ^ (s.qpOf q).set.workLog2 →
      ((s.qpOf q).fetched - (s.qpOf q).workCi).toNat < (v - (s.qpOf q).workCi).toNat →
      s.workPiWrite q v = (s.setQp q { s.qpOf q with workPi := v }).qpFetch q) ∧
    ((s.qpOf q).state ≠ 2 → ((s.workPiWrite q v).qpOf q).workPi =
      if (v - (s.qpOf q).workCi).toNat ≤ 2 ^ (s.qpOf q).set.workLog2 then v else (s.qpOf q).workPi)) ∧
  -- CPL_CI likewise, within the ring behind CPL_DONE; a stall ends when a slot is free again.
  (∀ (s : State) (q : Nat) (v : BitVec 32), let u := s.setQp q { s.qpOf q with cplCi := v }
    s.cplCiWrite q v = (
      if ((s.qpOf q).cplDone - v).toNat ≤ 2 ^ (s.qpOf q).set.cplLog2 then
        if ((s.qpOf q).cplReserved - v).toNat < 2 ^ (s.qpOf q).set.cplLog2 then u.endStall q else u
      else s.qpCtr q 12 1)) ∧
  -- STOPPING, RESET and ERROR as the state tells them.
  (∀ (s : State) (q c : Nat), ((s.qpStopping q c).qpOf q).state = 3 ∧ ((s.qpStopping q c).qpOf q).stopCause = c ∧
    ((s.qpStopping q c).qpOf q).descs = [] ∧ ((s.qpStopping q c).qpOf q).waiter = none) ∧
  (∀ (s : State) (q : Nat), ((s.qpResetCmd q).qpOf q).state = 3 ∧ ((s.qpResetCmd q).qpOf q).stopCause = 5 ∧
    ((s.qpResetCmd q).qpOf q).jobs = [] ∧ ∀ p, p ≠ q → (s.qpResetCmd q).qpOf p = s.qpOf p) ∧
  -- QP_STOPPING_END: a drained queue pair is stopped, or after a RESET has its settings no more but keeps its counters.
  (∀ (s : State) (q : Nat), s.running = true → exec (.qpStoppingEnd q) s = .next (
    if (s.qpOf q).state = 3 ∧ s.drained q = true then
      if (s.qpOf q).resetting then s.qpToReset q
      else (s.setQp q { s.qpOf q with state := 1 }).fire q Ev.qpStopped (BitVec.ofNat 32 (s.qpOf q).stopCause)
    else s)) ∧
  (∀ (s : State) (q : Nat), ((s.qpOf q).resetting = true → s.drained q = !s.qpReads q) ∧
    ((s.qpOf q).resetting = false → (s.drained q = true ↔
      ∀ j ∈ (s.qpOf q).jobs, j.st = .written ∨ ∃ r, j.st = .held r))) ∧
  (∀ (s : State) (q : Nat), (s.qpOf q).stall = none → (s.qpOf q).waiter = none →
    (∀ x ∈ s.qp.qps, x.2.waiter = none) → (s.qpToReset q).qpOf q = { ctrs := (s.qpOf q).ctrs }) ∧
  -- QUEUE.QP_SET: its results in their order; a queue pair in RESET becomes STOPPED with its settings.
  (∀ (s : State) (r : Request) (q : Nat) (x : QpSet), s.asks r 0x0501 → fld r.payload 0 2 = q →
    x = ⟨fld r.payload 2 1, fld r.payload 3 1, fld r.payload 4 1, BitVec.ofNat 8 (fld r.payload 5 1), fld r.payload 6 2,
      fld r.payload 8 8, fld r.payload 16 8, fld r.payload 24 4, fld r.payload 28 2, fld r.payload 32 4⟩ →
    exec .queueQpSet s = .next (
      if r.payload.length ≠ 40 ∨ 4 < x.kind ∨ x.workLog2 < 6 ∨ 16 < x.workLog2 ∨ x.cplLog2 < 6 ∨ 16 < x.cplLog2 ∨
          32 ≤ fld r.payload 5 1 ∨ 2 < x.meta_ ∨ (x.kind ≠ 1 ∧ x.meta_ ≠ 0) ∨ x.workBase % 4096 ≠ 0 ∨ x.cplBase % 4096 ≠ 0 ∨
          (if bit (fld r.payload 5 1) 1 then 2 ^ 20 ≤ x.pasid else x.pasid ≠ 0) ∨ fld r.payload 30 2 ≠ 0 ∨ 1000000 < x.stallUs ∨
          fld r.payload 36 4 ≠ 0 then s.taken.reply r St.badArg
      else if s.qpPresent q = false ∨ (x.kind = 3 ∧ s.hasCipher = false) ∨ (x.kind = 4 ∧ s.clearings = 0) then
        s.taken.reply r St.notPresent
      else if s.owns r.actor 2 q = false then s.taken.reply r St.notOwner
      else if (s.qpOf q).state ≠ 0 then s.taken.reply r St.busy
      else if s.qpOwner q = operator ∨ fnLocal (s.qpOwner q) = 2 then s.taken.reply r St.denied
      else if doorbellSlots (s.qpOwner q) ≤ x.slot then s.taken.reply r St.badArg
      else if (s.slotQp (s.qpOwner q) x.slot).isSome ∨ nvmePage (s.qpOwner q) x.slot = true then s.taken.reply r St.exists_
      else if s.groveFailed (q / 4096) = true then s.taken.reply r St.internal
      else (s.taken.setQp q { state := 1, set := x }).reply r 0)) ∧
  -- QUEUE.QP_GET and QUEUE.QP_STATS
  (∀ (s : State) (r : Request), r.payload.length = 4 → fld r.payload 2 2 = 0 →
    let q := fld r.payload 0 2
    let x := s.qpOf q
    let on (b : List Byte) := if s.qpPresent q = false then s.taken.reply r St.notPresent
      else if s.owns r.actor 2 q = false then s.taken.reply r St.notOwner
      else s.taken.reply r 0 b
    (s.asks r 0x0502 → exec .queueQpGet s = .next (on (x.set.record q ++ leBytes 8 (s.qpStatus q) ++ leBytes 4 x.workPi.toNat ++
      leBytes 4 x.workCi.toNat ++ leBytes 4 x.cplReserved.toNat ++ leBytes 4 x.cplDone.toNat ++ leBytes 4 x.cplCi.toNat ++
      leBytes 1 x.inProgress ++ zeros 3))) ∧
    (s.asks r 0x0504 → exec .queueQpStats s = .next (on (ctrBytes (s.qpOf q).ctrs 15)))) ∧
  -- QUEUE.QP_STATE: START, STOP and RESET; a START while STOPPING is BUSY and in RESET BAD_ARG.
  (∀ (s : State) (r : Request) (q : Nat), s.asks r 0x0503 → r.payload.length = 4 → fld r.payload 0 2 = q →
    fld r.payload 3 1 = 0 → s.qpPresent q = true → s.owns r.actor 2 q = true →
    (fld r.payload 2 1 = 1 → exec .queueQpStateStart s = .next (
      if (s.qpOf q).state = 3 then s.taken.reply r St.busy
      else if (s.qpOf q).state = 0 then s.taken.reply r St.badArg
      else if s.startFits q = false then s.taken.reply r 0
      else if s.groveFailed (q / 4096) = true then s.taken.reply r St.internal
      else (s.taken.qpStart q).reply r 0)) ∧
    (fld r.payload 2 1 = 0 → exec .queueQpStateStart s = .next (s.taken.reply r 0)) ∧
    (3 < fld r.payload 2 1 → exec .queueQpStateStart s = .next (s.taken.reply r St.badArg)) ∧
    (fld r.payload 2 1 = 2 → exec .queueQpStateStop s = .next (
      if s.stopFits q = false then s.taken.reply r 0
      else if s.groveFailed (q / 4096) = true then s.taken.reply r St.internal
      else (s.taken.qpStopping q 1).reply r 0)) ∧
    (fld r.payload 2 1 = 3 → exec .queueQpStateReset s = .next (
      if (s.qpOf q).state = 0 then s.taken.reply r 0
      else if s.groveFailed (q / 4096) = true then s.taken.reply r St.internal
      else (s.taken.qpResetCmd q).reply r 0)))

/-- 13 R395, R398 to R401: descriptors, jobs and completion records. -/
def Obligations.JobRows : Prop :=
  -- DESCRIPTOR_FETCH: a descriptor that passes its checks joins the others, and one that does not stops the queue pair.
  (∀ (s : State) (q : Nat), s.running = true → exec (.descriptorFetch q) s = .next (
    match (s.qpOf q).arrived with
    | [] => s
    | d :: l =>
      if (s.qpOf q).state = 2 then
        match checkDesc (s.qpOf q).set.kind ((s.qpOf q).cipherClass != 0) (s.qpOf q).chain d with
        | none => ((s.setQp q { s.qpOf q with
            arrived := l, fetched := (s.qpOf q).fetched + 1, descs := (s.qpOf q).descs ++ [d] }).qpCtr q 2 1).qpFetch q
        | some k => (s.qpCtr q 2 1).qpError q k (s.qpOf q).fetched
      else s)) ∧
  (∀ (s : State) (q k : Nat) (i : BitVec 32), (∀ x ∈ s.qp.qps, x.2.waiter = none) →
    ((s.qpError q k i).qpOf q).state = 4 ∧ ((s.qpError q k i).qpOf q).reason = k ∧
    ((s.qpError q k i).qpOf q).errIndex = i) ∧
  -- RX_POST: a checked descriptor of a NET_RX queue pair becomes a buffer.
  (∀ (s : State) (q : Nat), s.running = true → exec (.rxPost q) s = .next (
    match (s.qpOf q).descs with
    | d :: l => if (s.qpOf q).set.kind = 1 then s.setQp q { s.qpOf q with
        descs := l, buffers := (s.qpOf q).buffers ++ [d] } else s
    | [] => s)) ∧
  -- JOB_START: the next whole chain starts when it may and a completion slot is free; without a slot it stalls.
  (∀ (s : State) (q : Nat), s.running = true → exec (.jobStart q) s = .next (
    match takeChain (s.qpOf q).descs with
    | some (c, l) =>
      if (s.qpOf q).set.kind ≠ 1 ∧ s.mayStart q (dFence (c.headD 0)) = true then
        if (s.qpOf q).hasSlot then (s.setQp q { s.qpOf q with descs := l }).startJob q c else s.beginStall q
      else s
    | none => s)) ∧
  (∀ (s : State) (q : Nat), s.beginStall q = (
    if (s.qpOf q).stall = none then (s.setQp q { s.qpOf q with stall := some (s.clk, false) }).qpCtr q 10 1 else s)) ∧
  -- Behind a FENCE nothing starts until every earlier job has its record, and never a 65th.
  (∀ (s : State) (q : Nat), (s.qpOf q).cplDone ≠ (s.qpOf q).cplReserved → s.mayStart q true = false) ∧
  (∀ (s : State) (q : Nat) (b : Bool), 64 ≤ (s.qpOf q).inProgress → s.mayStart q b = false) ∧
  -- A job without host reads takes the next slot, and WORK_CI passes its descriptors.
  (∀ (s : State) (q : Nat) (c : List Desc), (s.qpOf q).set.kind ≠ 3 → readSegs c = [] → (s.qpOf q).stall = none →
    ((s.startJob q c).qpOf q).cplReserved = (s.qpOf q).cplReserved + 1 ∧
    ((s.startJob q c).qpOf q).workCi = (s.qpOf q).workCi + BitVec.ofNat 32 c.length ∧
    ∃ j : Job, ((s.startJob q c).qpOf q).jobs = (s.qpOf q).jobs ++ [j] ∧ j.slot = (s.qpOf q).cplReserved ∧ j.descs = c ∧
      j.st = .running ∧ j.piecesLeft = 0 ∧ j.start = s.clk) ∧
  -- CQ_STALL_TIMEOUT: once for a stall, STALL_US after it began.
  (∀ (s : State) (q : Nat), s.running = true → exec (.cqStallTimeout q) s = .next (
    match (s.qpOf q).stall with
    | some (a, false) =>
      if (s.qpOf q).set.stallUs = 0 then s
      else ((s.upToClk (a + us (s.qpOf q).set.stallUs)).setQp q { s.qpOf q with stall := some (a, true) }).fire q Ev.cqStall
        (s.qpOf q).cplReserved
    | _ => s)) ∧
  -- JOB_COMPLETE writes the record of an ended job in its slot, or holds it while its owner may not issue requests.
  (∀ (s : State) (q : Nat) (slot : BitVec 32), s.running = true →
    exec (.jobComplete q slot) s = .next (s.writeRecord q slot false)) ∧
  (∀ (s : State) (q : Nat) (slot : BitVec 32),
    ((s.qpOf q).job slot = none → s.writeRecord q slot false = s) ∧
    (∀ j, (s.qpOf q).job slot = some j → j.st = .running ∨ j.st = .written → s.writeRecord q slot false = s)) ∧
  (∀ (s u : State) (q : Nat) (slot : BitVec 32) (j : Job) (r : CplRec) (a : Dma), (s.qpOf q).job slot = some j →
    j.st = .done r ∨ j.st = .held r →
    s.dmaWrite (s.qpOwner q) ((s.qpOf q).set.cplBase + 16 * (slot.toNat % 2 ^ (s.qpOf q).set.cplLog2)) (s.qpOf q).pasidOpt false
      (cplBytes r slot (s.qpOf q).set.cplLog2) = (u, a) →
    let t := u.setQp q ((u.qpOf q).setJob { j with st := .held r })
    s.writeRecord q slot false =
      if s.qpMayDma q = false ∨ (s.qpOf q).stopCause = 6 then
        (s.setQp q ((s.qpOf q).setJob { j with st := .held r })).pmeCause (s.qpOwner q)
      else match a with
        | .ok => ((u.setQp q ((u.qpOf q).setJob { j with st := .written })).qpCtr q 1 1).advanceDone q
        | .waits => u
        | _ => if (u.qpOf q).state = 2 then t.qpStopping q 6 else t) ∧
  -- A record is 16 bytes, and its phase bit changes with each pass of the ring.
  (∀ (r : CplRec) (i : BitVec 32) (c : Nat), (cplBytes r i c).length = 16 ∧
    fld (cplBytes r i c) 0 1 % 2 = (i.toNat / 2 ^ c + 1) % 2) ∧
  -- QP_NOP ends with OK.
  (∀ (s : State) (q : Nat) (slot : BitVec 32), s.running = true → exec (.qpNop q slot) s = .next (
    if (s.readyJob q slot 1).isSome then s.endJob q slot St.ok 0 0 else s)) ∧
  -- A running job that ends has its record ready; one that has ended already stays as it was.
  (∀ (s : State) (q a b : Nat) (d : BitVec 64) (slot : BitVec 32) (j : Job), (s.qpOf q).job slot = some j → j.st = .running →
    let t := s.setQp q ((s.qpOf q).setJob { j with st := .done (j.record a b d), acted := true })
    s.endJob q slot a b d = if a = St.aborted then t.qpCtr q 8 1 else t) ∧
  (∀ (s : State) (q a b : Nat) (d : BitVec 64) (slot : BitVec 32) (j : Job), (s.qpOf q).job slot = some j → j.st ≠ .running →
    s.endJob q slot a b d = s)

/-- 13 R402 to R406: COUNTER_WAIT, transmit and receive. Where the spec leaves a choice or a value open, the clauses
follow assumption log entry 26: there they state the model's choice. -/
def Obligations.WaitAndFrameJobs : Prop :=
  -- COUNTER_WAIT at its start, in the order of the outcomes: a target that does not exist, one of another owner, a wait that is met, one whose target is dead, one whose queue pair stops, and else it waits.
  (∀ (s : State) (q : Nat) (slot : BitVec 32), s.running = true → exec (.counterWait q slot) s = .next (
    match s.readyJob q slot 2 with
    | none => s
    | some j =>
      let a := dBits (j.descs.headD 0) 255 240
      let v := BitVec.ofNat 32 (dBits (j.descs.headD 0) 223 192)
      if s.groves ≤ a / 4096 then s.endJob q slot St.notPresent 0 0
      else if s.qpOwner a ≠ s.qpOwner q then s.endJob q slot St.notOwner 0 0
      else if s.waitMet a v = true then s.endJob q slot St.ok 0 (s.waitData a)
      else if s.targetDead a = true then s.endJob q slot St.queueError 0 (s.waitData a)
      else if (s.qpOf q).state = 3 ∨ (s.fn (s.qpOwner q)).busMaster = false then s.endJob q slot St.aborted 0 (s.waitData a)
      else (s.markActed q j).setQp q { (s.markActed q j).qpOf q with
        waiter := some ⟨slot, a, v, j.start, dBits (j.descs.headD 0) 191 160, none⟩ })) ∧
  -- COUNTER_WAIT_SATISFIED: a wait that something has ended in time ends with that, and one whose deadline came first TIMED_OUT.
  (∀ (s : State) (q : Nat) (slot : BitVec 32), s.running = true → exec (.counterWaitSatisfied q slot) s = .next (
    match (s.qpOf q).waiter with
    | none => s
    | some w =>
      if w.slot = slot ∧ w.ended.isSome = true then
        match w.inTime with
        | some true => s.endWait q w St.ok 0
        | some false => s.endWait q w St.queueError 0
        | none => s.endWait q w St.aborted 1
      else s)) ∧
  -- COUNTER_WAIT_TIMEOUT: at the deadline a wait that nothing has ended in time ends.
  (∀ (s : State) (q : Nat) (slot : BitVec 32), s.running = true → exec (.counterWaitTimeout q slot) s = .next (
    match (s.qpOf q).waiter with
    | none => s
    | some w =>
      if w.timeoutUs = 0 ∨ w.slot ≠ slot ∨ w.inTime.isSome = true then s
      else (s.upToClk (w.start + us w.timeoutUs)).endWait q w St.aborted 1)) ∧
  (∀ (w : Waiter), w.inTime = match w.ended with
    | none => none
    | some (t, b) => if w.timeoutUs = 0 ∨ t ≤ w.start + us w.timeoutUs then some b else none) ∧
  -- CPL_DONE is compared as a signed difference.
  (∀ (s : State) (a : Nat) (v : BitVec 32), s.waitMet a v = true ↔ ((s.qpOf a).cplDone - v).toNat < 2 ^ 31) ∧
  -- TX: the frame enters with its padding and check sequence; without TS the job ends with OK, with TS when its frame's end is known. After a read that failed, what was read before it enters with CHECK 3 and the job ends.
  (∀ (s : State) (q : Nat) (slot : BitVec 32), s.running = true → exec (.tx q slot) s = .next (
    match s.cutJob q slot 0x10, s.readyJob q slot 0x10 with
    | some (j, st, detail), _ =>
      if s.maySource (q / 4096) = true then
        (s.enterFrame (q / 4096) 1 q (steerOf 1 (q / 4096)) (s.qpOf q).set.tenant j.before false fun f => f).2.endJob q slot st
          detail 0
      else s
    | none, none => s
    | none, some j =>
      if s.maySource (q / 4096) = true then
        let ts := (j.descs.headD 0).getLsbD 64
        let u := ((s.markActed q j).qpCtr q 3 1).qpCtr q 4 (pad60 j.data).length
        let t := (u.enterFrame (q / 4096) 1 q (steerOf 1 (q / 4096)) (u.qpOf q).set.tenant (wireFrame j.data) true fun f =>
          { f with tx := if ts then some (q, slot, true) else none }).2
        if ts then t else t.endJob q slot St.ok 0 0
      else s)) ∧
  (∀ (b : List Byte), 64 ≤ (wireFrame b).length ∧ (wireFrame b).take b.length = b ∧ fcsOk (wireFrame b) = true) ∧
  -- RX_DELIVERY: the frame at the head of the sink queue goes to as many buffers as it needs; without buffers that hold it the frame waits.
  (∀ (s : State) (q : Nat), s.running = true → exec (.rxDelivery q) s = .next (
    match s.sinkQueue (q / 4096) (.hostQueue q) with
    | [] => s
    | tag :: _ =>
      match s.frame tag with
      | none => s
      | some f =>
        let b := (f.edited.getD f.bytes).take ((f.edited.getD f.bytes).length - 4)
        let p := (mdBytes f.md).take (metaBytes (s.qpOf q).set.meta_) ++ b
        if (s.qpOf q).set.kind = 1 ∧ s.mayStart q (dFence ((s.qpOf q).buffers.headD 0)) = true then
          match takeBuffers 64 p.length (s.qpOf q).buffers with
          | none => s
          | some d => if (s.qpOf q).hasSlot then s.deliver_ q (q / 4096) tag f d p b else s.beginStall q
        else s)) ∧
  (∀ (k n : Nat) (l d : List Desc), takeBuffers k n l = some d → d.length ≤ k ∧ n ≤ (d.map dLen).sum ∧ d = l.take d.length) ∧
  -- The delivery is one job: the frame leaves its queue, the buffers are used up, and the record tells the outcome.
  (∀ (s u : State) (q g tag : Nat) (f : FrameRec) (d : List Desc) (p b : List Byte) (a : Dma),
    s.dmaWrites (s.qpOwner q) (s.qpOf q).pasidOpt ((s.qpOf q).relaxed (d.headD 0)) (fillBuffers d p) = (u, a) →
    let x := u.qpOf q
    let j : Job := { slot := x.cplReserved, first := x.workCi, descs := d, start := u.clk, acted := true }
    let v := (((u.setQp q { x with
      cplReserved := x.cplReserved + 1, workCi := x.workCi + BitVec.ofNat 32 d.length, buffers := x.buffers.drop d.length,
      jobs := x.jobs ++ [j] }).endStall q).qpCtr q 0 1).takeSink g tag
    s.deliver_ q g tag f d p b =
      match a with
      | .waits => u
      | .denied => v.endJob q j.slot St.aborted 0 0
      | .refused => v.endJob q j.slot St.denied 0 0
      | .ok => (((v.qpCtr q 5 1).qpCtr q 6 b.length).qpCtr q 7 (b2n f.isCopy)).endJob q j.slot St.ok 0
        (rxData f b.length d.length x.set.meta_))

/-- 14 R413 to R426, R433: how events become records. 14 R428, R432, R433: the EVENT commands. Where the spec leaves a
choice or a value open, the clauses follow assumption log entry 42: there they state the model's choice. -/
def Obligations.EventDeliveryAndCommands : Prop :=
  -- EVENT_DELIVERY: the first held type of a source goes into the queue it resolves to, and the source is active there; a source that is active or holds nothing has no record written; one whose queues are full counts that, and wakes a suspended owner; a write that is refused sets FAULT.
  (∀ (s : State) (src : Nat), s.serving = true → exec (.eventDelivery src) s = .next (s.deliverEvent src)) ∧
  (∀ (s : State) (src : Nat), ((s.src src).held = [] ∨ (s.src src).active.isSome = true) → s.deliverEvent src = s) ∧
  (∀ (s : State) (src : Nat) (h : HeldEv) (l : List HeldEv), (s.src src).held = h :: l → (s.src src).active = none →
    s.resolve src = none → s.deliverEvent src =
      if ((s.noteFull src).routeQueues src).any fun e => (s.noteFull src).owner 3 e == (s.noteFull src).srcOwner src then
        (s.noteFull src).pmeCause ((s.noteFull src).srcOwner src)
      else s.noteFull src) ∧
  (∀ (s u : State) (src e : Nat) (h : HeldEv) (l : List HeldEv) (a : Dma), (s.src src).held = h :: l →
    (s.src src).active = none → s.resolve src = some e →
    s.dmaWrite (s.owner 3 e) ((s.eq e).base + 16 * ((s.eq e).pi.toNat % 2 ^ (s.eq e).sizeLog2))
      (if (s.eq e).pasidEn then some (s.eq e).pasid else none) false (eventRecord src h (s.eq e).pi (s.eq e).sizeLog2) = (u, a) →
    let fault (t : State) := (t.setEq e { t.eq e with fault := true }).eqCtr e 7 1
    let t := (u.setEq e { u.eq e with
      pi := (s.eq e).pi + 1, due := if (s.eq e).pi = (s.eq e).ci then (s.eq e).due.or (some u.clk) else (s.eq e).due,
      records := (s.eq e).records ++ [((s.eq e).pi, src)] }).setSrc src ⟨l, some (e, (s.eq e).pi), []⟩
    s.deliverEvent src =
      if (s.eq e).pasidEn = true ∧ (s.fn (s.owner 3 e)).pasidEn = false then fault s
      else match a with
        | .waits => u
        | .denied => fault u
        | .refused => fault u
        | .ok => ((if (s.route src).spread then { t with ev := { t.ev with
            pointers := SMap.set t.ev.pointers (s.route src).target (e + 1) } } else t).eqCtr e 0 1).eqCtr e 2 (h.count - 1)) ∧
  -- A queue that is full, not enabled or in FAULT takes no record.
  (∀ (s : State) (src e : Nat), ((s.eq e).fault = true ∨ (s.eq e).full = true ∨ (s.eq e).state ≠ 2) →
    s.eligible src e = false) ∧
  -- A spread source goes to the first eligible member of its group from the pointer on, and to an eligible queue only.
  (∀ (s : State) (src e : Nat), s.resolve src = some e → s.eligible src e = true) ∧
  (∀ (s : State) (src : Nat), (s.route src).spread = true → s.resolve src =
    (((SMap.getD s.cfg.evGroups (s.route src).target ⟨[]⟩).members.filter
        (SMap.getD s.ev.pointers (s.route src).target ((SMap.getD s.cfg.evGroups (s.route src).target ⟨[]⟩).members.headD 0) ≤ ·)) ++
      ((SMap.getD s.cfg.evGroups (s.route src).target ⟨[]⟩).members.filter
        (· < SMap.getD s.ev.pointers (s.route src).target
          ((SMap.getD s.cfg.evGroups (s.route src).target ⟨[]⟩).members.headD 0)))).find? (s.eligible src)) ∧
  -- A record is 16 bytes: phase, source, count, type, data and time in their places.
  (∀ (src : Nat) (h : HeldEv) (i : BitVec 32) (c : Nat), src < 2 ^ 31 → h.type < 65536 → (eventRecord src h i c).length = 16 ∧
    fld (eventRecord src h i c) 0 4 = (i.toNat / 2 ^ c + 1) % 2 + 2 * src ∧ fld (eventRecord src h i c) 5 1 = min h.count 255 ∧
    fld (eventRecord src h i c) 6 2 = h.type ∧ fld (eventRecord src h i c) 8 4 = h.data.toNat ∧
    fld (eventRecord src h i c) 12 4 = h.time % 2 ^ 32) ∧
  -- EVENT.EQ_SET: its results in their order; a queue in RESET becomes DISABLED with its settings.
  (∀ (s : State) (r : Request) (e : Nat), s.asks r 0x0601 → fld r.payload 0 2 = e →
    exec .eventEqSet s = .next (
      let f := s.owner 3 e
      if r.payload.length ≠ 20 ∨ 4096 ≤ e ∨ fld r.payload 2 1 < 6 ∨ 16 < fld r.payload 2 1 ∨ 1 < fld r.payload 3 1 ∨
          fld r.payload 8 8 % 4096 ≠ 0 ∨ 2 ^ 20 ≤ fld r.payload 16 4 then s.taken.reply r St.badArg
      else if s.eqPresent e = false then s.taken.reply r St.notPresent
      else if s.owns r.actor 3 e = false then s.taken.reply r St.notOwner
      else if (s.eq e).state ≠ 0 then s.taken.reply r St.busy
      else if f = operator ∨ fnPort f ≠ e / 256 ∨ s.fnPresent f = false then s.taken.reply r St.denied
      else if eqSlots f ≤ fld r.payload 4 2 ∨ (fld r.payload 6 2 ≠ 0xFFFF ∧ vectorsOf f ≤ fld r.payload 6 2) then
        s.taken.reply r St.badArg
      else if s.eqSlotBound f (fld r.payload 4 2) = true then s.taken.reply r St.exists_
      else (s.taken.setEq e {
        state := 1, sizeLog2 := fld r.payload 2 1, pasidEn := fld r.payload 3 1 == 1, slot := fld r.payload 4 2,
        vector := fld r.payload 6 2, base := fld r.payload 8 8, pasid := fld r.payload 16 4 }).reply r 0)) ∧
  -- EVENT.EQ_GET, EVENT.EQ_STATE, EVENT.MOD_SET and EVENT.STATS on one queue
  (∀ (s : State) (r : Request) (e : Nat), fld r.payload 0 2 = e → e < 4096 → s.eqPresent e = true →
    s.owns r.actor 3 e = true →
    (s.asks r 0x0602 → r.payload.length = 4 → fld r.payload 2 2 = 0 →
      exec .eventEqGet s = .next (s.taken.reply r 0 ((s.eq e).setRecord e ++ s.eqRegs e))) ∧
    (s.asks r 0x0603 → r.payload.length = 4 → fld r.payload 3 1 = 0 →
      (fld r.payload 2 1 = 1 → exec .eventEqStateEnable s = .next (
        if (s.eq e).state = 1 then (s.taken.eqEnable e).reply r 0 else s.taken.reply r St.busy)) ∧
      (fld r.payload 2 1 = 2 → exec .eventEqStateDisable s = .next (
        if (s.eq e).state = 2 then (s.taken.eqLeave e).reply r 0 else s.taken.reply r St.busy)) ∧
      (fld r.payload 2 1 = 3 → exec .eventEqStateReset s = .next ((s.taken.eqReset e).reply r 0)) ∧
      (fld r.payload 2 1 = 0 ∨ 3 < fld r.payload 2 1 → exec .eventEqStateEnable s = .next (s.taken.reply r St.badArg))) ∧
    (s.asks r 0x0604 → r.payload.length = 8 → 1 ≤ fld r.payload 2 1 → fld r.payload 3 1 = 0 → fld r.payload 4 2 ≤ 10000 →
      fld r.payload 6 2 = 0 → let t := s.taken.sendOverdue e
      exec .eventModSet s = .next (s.taken.replyCfg { t with cfg := { t.cfg with
        moderation := SMap.set t.cfg.moderation e (fld r.payload 2 1, fld r.payload 4 2) } } r)) ∧
    (s.asks r 0x0608 → r.payload.length = 4 → fld r.payload 2 2 = 0 →
      exec .eventStats s = .next (s.taken.reply r 0 (ctrBytes (s.eq e).ctrs 8)))) ∧
  -- EVENT.ROUTE_SET: the sources of a range of one port go to a queue, or a group that has members, of that port.
  (∀ (s : State) (r : Request) (i n e : Nat) (spread : Bool), s.asks r 0x0605 → r.payload.length = 12 →
    fld r.payload 0 4 = i → fld r.payload 4 4 = n → fld r.payload 8 1 = b2n spread → fld r.payload 9 1 = 0 →
    fld r.payload 10 2 = e → 1 ≤ n → n ≤ 4096 →
    (i + n ≤ 65536 ∧ (i + n - 1) / 4096 = i / 4096 ∨
      65536 ≤ i ∧ i + n ≤ 69632 ∧ (i + n - 1 - 65536) / 256 = (i - 65536) / 256) →
    (spread = true → e < 256) → (spread = false → e < 4096) →
    let port := if spread then e / 16 else e / 256
    exec .eventRouteSet s = .next (
      if s.srcPresent i = false ∨ s.groves ≤ port then s.taken.reply r St.notPresent
      else if ∃ k < n, s.ownsSrc r.actor (i + k) = false then s.taken.reply r St.notOwner
      else if port ≠ srcPort i ∨ (spread = true ∧ (SMap.getD s.cfg.evGroups e ⟨[]⟩).members = []) then s.taken.reply r St.badArg
      else s.taken.replyCfg { s.taken with cfg := { s.cfg with
        routes := ((List.range n).map (i + ·)).foldl (fun m k => SMap.set m k ⟨spread, e⟩) s.cfg.routes } } r)) ∧
  -- EVENT.ROUTE_GET
  (∀ (s : State) (r : Request) (i : Nat), s.asks r 0x0606 → r.payload.length = 4 → fld r.payload 0 4 = i → i < 69632 →
    exec .eventRouteGet s = .next (
      if s.srcPresent i = false then s.taken.reply r St.notPresent
      else if s.ownsSrc r.actor i = false then s.taken.reply r St.notOwner
      else s.taken.reply r 0 (leBytes 1 (b2n (s.route i).spread) ++ leBytes 1 (s.src i).code ++ leBytes 2 (s.route i).target ++
        (List.range 8).flatMap fun j => leBytes 2 (((s.src i).held[j]?.map (·.type)).getD 0)))) ∧
  -- EVENT.GROUP_SET: 16 members or more make the group, and its pointer stands at the first; none deletes it, unless a route names it.
  (∀ (s : State) (r : Request) (g : Nat) (m : List Nat), s.asks r 0x0607 → r.payload.length = 36 → fld r.payload 0 2 = g →
    fld r.payload 2 2 = 0 → g < 256 → m = (maskBits (fld r.payload 4 32) 256).map (256 * (g / 16) + ·) →
    let old := (SMap.getD s.cfg.evGroups g ⟨[]⟩).members
    exec .eventGroupSet s = .next (
      if 0 < m.length ∧ m.length < 16 then s.taken.reply r St.badArg
      else if s.groves ≤ g / 16 then s.taken.reply r St.notPresent
      else if ∃ q ∈ (if m = [] then old else m), s.owns r.actor 3 q = false then s.taken.reply r St.notOwner
      else if m = [] then
        if ∃ x ∈ s.cfg.routes, x.2.spread = true ∧ x.2.target = g then s.taken.reply r St.busy
        else s.taken.replyCfg { s.taken with
          cfg := { s.cfg with
            evGroups := SMap.del s.cfg.evGroups g }
          ev := { s.ev with
            pointers := SMap.del s.ev.pointers g } } r
      else s.taken.replyCfg { s.taken with
        cfg := { s.cfg with
          evGroups := SMap.set s.cfg.evGroups g ⟨m⟩ }
        ev := { s.ev with
          pointers := SMap.set s.ev.pointers g (m.headD 0) } } r))

/-- 14 R420 to R422, R427 to R429: the registers of an event queue, and its interrupt. -/
def Obligations.EventQueueRows : Prop :=
  -- EQ_CI_WRITE, EQ_CTRL_ENABLE, EQ_CTRL_DISABLE and EQ_CTRL_INVALID reach a queue that the function owns; a queue of another owner is not reached, and a CMD that does not fit is counted.
  (∀ (s : State) (f e : Nat), s.serving = true →
    let t := s.traffic f
    let on (k : State) : Host.Outcome State Fault Refusal :=
      .next (if e / 256 = fnPort f ∧ s.owner 3 e = f ∧ (fnLocal f = 2 ∨ (s.eq e).state ≠ 0) then k else t.hostCtr (fnPort f) 12)
    (∀ v : BitVec 32, s.reaches f (0x300 + fnPort f) 2 (eqOffset f e (s.eq e).slot) 8 →
      exec (.eqCiWrite f e v) s = on (t.eqCi e v)) ∧
    (s.reaches f (0x300 + fnPort f) 2 (eqOffset f e (s.eq e).slot + 8) 8 →
      exec (.eqCtrlEnable f e) s = on (if (s.eq e).state = 1 then t.eqEnable e else t.eqCtr e 6 1) ∧
      exec (.eqCtrlDisable f e) s = on (if (s.eq e).state = 2 then t.eqLeave e else t.eqCtr e 6 1) ∧
      ∀ v : BitVec 2, exec (.eqCtrlInvalid f e v) s = on (if v = 3 then t.eqCtr e 6 1 else t))) ∧
  -- An EQ_CI outside the records of the queue is counted and changes nothing else; any other completes the records before it, and consuming every record cancels the interrupt, while one that leaves records makes it due.
  (∀ (s : State) (e : Nat) (v : BitVec 32), s.sendOverdue e = s →
    s.eqCi e v =
      if (v - (s.eq e).ci).toNat ≤ 2 ^ (s.eq e).sizeLog2 ∧ ((s.eq e).pi - v).toNat ≤ 2 ^ (s.eq e).sizeLog2 then
        let before (r : BitVec 32 × Nat) : Bool := decide ((r.1 - (s.eq e).ci).toNat < (v - (s.eq e).ci).toNat)
        let d := ((s.eq e).records.filter before).map (·.2)
        let t := s.setEq e { s.eq e with
          ci := v, records := (s.eq e).records.filter fun r => !before r
          due := if v = (s.eq e).pi then none else (s.eq e).due.or (some s.clk) }
        ((if v = (s.eq e).pi ∧ (s.eq e).due.isSome = true then t.eqCtr e 4 1 else t).completeRecords d).deliverAll e d
      else s.eqCtr e 5 1) ∧
  (∀ (s : State) (e : Nat), (s.eq e).pi = (s.eq e).ci → (s.eq e).records = [] → (s.eq e).due = none → s.ev.srcs = [] →
    s.eqCi e (s.eq e).pi = s.setEq e { s.eq e with ci := (s.eq e).pi, due := none }) ∧
  -- ENABLE starts an empty queue, to which what is pending goes; DISABLE and RESET leave no record in it.
  (∀ (s : State) (e : Nat), s.eqEnable e = (s.setEq e { s.eq e with
    state := 2, pi := 0, ci := 0, fault := false }).deliverAll e []) ∧
  (∀ (s : State) (e : Nat), s.sendOverdue e = s → s.eqLeave e = ((s.setEq e { s.eq e with
    state := 1, pi := 0, ci := 0, due := none, fault := false, records := [] }).completeRecords
      ((s.eq e).records.map (·.2))).deliverAll e ((s.eq e).records.map (·.2))) ∧
  (∀ (s : State) (e : Nat), (s.eqReset e).eq e = { ctrs := ((s.eqReset e).eq e).ctrs }) ∧
  (∀ (s : State) (l : List Nat) (i : Nat), i ∈ l → ((s.completeRecords l).src i).active = none) ∧
  -- INTERRUPT_SEND: at once with MOD_COUNT records, else MOD_TIME after it fell due; a polled queue, or one whose owner is suspended, sends none.
  (∀ (s : State) (e : Nat), s.serving = true → exec (.interruptSend e) s = .next (
    match (s.eq e).due with
    | none => s
    | some d =>
      if (s.eq e).vector = 0xFFFF ∨ s.suspended (s.owner 3 e) = true then s
      else (((s.upToClk (if (s.moderation e).1 ≤ (s.eq e).count then d else d + us (s.moderation e).2)).setEq e { s.eq e with
        due := none }).eqCtr e 1 1).interrupt (s.owner 3 e) (s.eq e).vector)) ∧
  -- An interrupt goes out as its MSI-X message, or while the vector is masked stays pending.
  (∀ (s : State) (f v : Nat), (s.fn f).msixEnable = true → (s.fn f).masked v = false → s.canDma f = true →
    s.interrupt f v = s.hostSend f (.msix f v)) ∧
  (∀ (s : State) (f v : Nat), ((s.fn f).msixEnable = false ∨ (s.fn f).masked v = true ∨ s.canDma f = false) →
    SMap.get ((s.interrupt f v).fn f).pba v = some true)

/-- 15 R434 to R445: the instructions of the service threads, their faults and their restarts. Where the spec leaves a
choice or a value open, the clauses follow assumption log entry 44: there they state the model's choice. -/
def Obligations.ServiceThreads : Prop :=
  -- SVC_INSTRUCTION: a thread of a custom image runs the instruction at its PC; a parked, halted or fenced thread, and one of the built-in image, runs none.
  (∀ (s : State) (t : Thr) (h : List HostCpl), s.running = true →
    exec (.svcInstruction t h) s = .next (s.runThread t none h)) ∧
  (∀ (s : State) (t : Thr) (h : List HostCpl), (s.issues t = false ∨ (s.svc t.grove).image = none) →
    s.runThread t none h = s) ∧
  (∀ (s u : State) (t : Thr) (h : List HostCpl) (a : Fetched), s.issues t = true → (s.svc t.grove).image.isSome = true →
    s.fetch t h = (u, a) →
    let rest := s.hostRest t (s.thread t).pc.toNat 2 h
    s.runThread t none h =
      match a with
      | .wait => u
      | .fault c => u.threadFault t c (s.thread t).pc
      | .reserved => settle t u.illegal
      | .insn i n =>
        if (chanForm i).isSome then s
        else settle t (u.insn t i n (if n = 4 then s.hostRest t ((s.thread t).pc.toNat + 2) 2 rest else rest))) ∧
  (∀ (s u : State) (t : Thr) (c : Nat) (v : BitVec 64), settle t (.on u) = u ∧ settle t (.wait u) = u ∧
    settle t (.fault s c v) = s.threadFault t c v) ∧
  -- Integer results: register 0 stays 0, another takes the value, and the PC goes on by the instruction's bytes.
  (∀ (s : State) (t : Thr) (r n : Nat) (v : BitVec 64), ∃ u, s.goX t r v n = .on u ∧
    (u.thread t).pc = (s.thread t).pc + BitVec.ofNat 64 n ∧ (u.thread t).xr 0 = 0 ∧ (r ≠ 0 → (u.thread t).xr r = v) ∧
    ∀ k, k ≠ r → (u.thread t).xr k = (s.thread t).xr k) ∧
  (∀ (s : State) (t : Thr) (i n : Nat) (h : List HostCpl),
    let a := (s.thread t).xr (rvRs1 i)
    let b := (s.thread t).xr (rvRs2 i)
    let pc := (s.thread t).pc
    let result (v : Option (BitVec 64)) : Ran := match v with | some v => s.goX t (rvRd i) v n | none => s.illegal
    (rvOp i = 0x37 → s.insn t i n h = s.goX t (rvRd i) (immU i) n) ∧
    (rvOp i = 0x17 → s.insn t i n h = s.goX t (rvRd i) (pc + immU i) n) ∧
    (rvOp i = 0x13 → s.insn t i n h = result (aluImm i a)) ∧
    (rvOp i = 0x1B → s.insn t i n h = result (aluImm32 i a)) ∧
    (rvOp i = 0x33 → s.insn t i n h = result (alu (rvF7 i) (rvF3 i) a b)) ∧
    (rvOp i = 0x3B → s.insn t i n h = result (alu32 (rvF7 i) (rvF3 i) a b)) ∧
    (rvOp i = 0x63 → s.insn t i n h = match branch (rvF3 i) a b with
      | some c => s.goTo t (if c then pc + immB i else pc + BitVec.ofNat 64 n)
      | none => s.illegal)) ∧
  (∀ (s : State) (t : Thr) (i n : Nat) (h : List HostCpl), rvOp i = 0x33 → rvF3 i = 0 → rvF7 i = 0 →
    s.insn t i n h = s.goX t (rvRd i) ((s.thread t).xr (rvRs1 i) + (s.thread t).xr (rvRs2 i)) n) ∧
  (∀ (s : State) (t : Thr) (i n : Nat) (h : List HostCpl), rvOp i = 0x33 → rvF3 i = 0 → rvF7 i = 0x20 →
    s.insn t i n h = s.goX t (rvRd i) ((s.thread t).xr (rvRs1 i) - (s.thread t).xr (rvRs2 i)) n) ∧
  -- A misaligned load or store faults with its address.
  (∀ (s : State) (t : Thr) (i n : Nat) (h : List HostCpl), rvOp i = 0x03 → rvF3 i = 3 →
    ((s.thread t).xr (rvRs1 i) + immI i).toNat % 8 ≠ 0 →
    s.insn t i n h = .fault s excLoadMisaligned ((s.thread t).xr (rvRs1 i) + immI i)) ∧
  -- THREAD_FAULT: the thread parks, its reservations are released, and the fault is counted and told of.
  (∀ (s : State) (t : Thr) (c : Nat) (v : BitVec 64), s.running = true → exec (.threadFault t c v) s = .next (
    if s.issues t = true ∧ faultCause c = true then s.threadFault t c v else s)) ∧
  (∀ (s : State) (t : Thr), ((s.parkThread t).thread t).parked = true ∧ ((s.parkThread t).thread t).reservation = none ∧
    ((s.parkThread t).thread t).spinning = false) ∧
  -- STILLNESS_DETECT: 2^20 core cycles after the core's threads became still, once.
  (∀ (s : State) (g c : Nat), s.running = true → exec (.stillnessDetect g c) s = .next (
    match SMap.get (s.svc g).still c with
    | none => s
    | some y =>
      match y.since, y.fired with
      | some a, false =>
        let u := s.upTo (a + stillUnits - y.counted)
        (((u.setSvc g { u.svc g with still := SMap.set (u.svc g).still c { y with fired := true } }).notify g (1 + c)
          (notice 2 0 c 0 0 0 0)).svcCtr g 4 1).fireDev g 8 Ev.still (BitVec.ofNat 32 (g + 16 * c))
      | _, _ => s)) ∧
  -- SVC_RESTART_WRITE: thread 0 of a core restarts those of its parked threads that the write names.
  (∀ (s : State) (t : Thr) (v : BitVec 4), s.running = true → exec (.svcRestartWrite t v) s = .next (
    if s.issues t = true ∧ t.thread = 0 then
      ([1, 2, 3].filter (bit v.toNat)).foldl (fun s i => s.restartThread ⟨t.grove, t.core, i⟩) s
    else s)) ∧
  (∀ (s : State) (t : Thr), (s.threadThere t = true → (s.thread t).parked = true →
    ((s.restartThread t).thread t).parked = false ∧ ((s.restartThread t).thread t).x = [] ∧
    ((s.restartThread t).thread t).pc = ((s.svc t.grove).fresh (tnum t)).pc) ∧
    ((s.thread t).parked = false → s.restartThread t = s)) ∧
  -- GROVE_RESTART_WRITE: the register is written as a device register is, and the grove supervisor's write restarts the supervisors it names.
  (∀ (s : State) (t : Thr) (v : BitVec 16), s.running = true →
    exec (.groveRestartWrite t v) s = .next (svcStore s t 0x1100 8 v.toNat)) ∧
  (∀ (s : State) (t : Thr) (off n v : Nat), svcStore s t off n v =
    if s.issues t = false then s
    else if (s.svc t.grove).image = none then s.devWrite t off n v
    else match s.svcWrite t (0x10000000 + off) n v 2 with
      | (u, .ok) => u.endSpin t
      | (u, _) => u.threadFault t 7 (BitVec.ofNat 64 (0x10000000 + off))) ∧
  (∀ (s : State) (t : Thr) (v : Nat), s.devWrite t 0x1100 8 v =
    if s.isSup t then (maskBits v 16).foldl (fun s c => s.restartThread ⟨t.grove, c, 0⟩) s else s) ∧
  -- GROVE_SERVICE_RESTART: the image starts again; a fourth fault of the supervisor within an hour leaves the cores in reset.
  (∀ (s : State) (g : Nat), s.running = true →
    let sup : Thr := ⟨g, s.supCore g, 0⟩
    let recent := (s.svc g).restarts.filter fun r => s.clk < r + ms 3600000
    let faults := min (((s.svc g).faultWindow.map (·.2)).getD 0) 255
    let u := s.imageStart g (s.svc g).image
    let v := s.emptyCores g
    exec (.groveServiceRestart g) s = .next (
      if s.threadThere sup = true ∧ (s.thread sup).parked = true ∧ (s.svc g).heldInReset = false then
        if recent.length < 3 then
          (u.setSvc g { u.svc g with restarts := recent ++ [s.clk], restartCount := (s.svc g).restartCount + 1 }).fireDev g 8
            Ev.svcFault (BitVec.ofNat 32 (2 ^ 31 + 256 * faults + g))
        else
          (v.setSvc g { v.svc g with heldInReset := true }).fireDev g 8 Ev.svcFault
            (BitVec.ofNat 32 (2 ^ 31 + 2 ^ 30 + 256 * faults + g))
      else s)) ∧
  (∀ (s : State) (g : Nat) (b : Option (List Byte)), ((s.imageStart g b).svc g).image = b ∧
    ((s.imageStart g b).svc g).threads = [] ∧ ((s.imageStart g b).svc g).l2 = [] ∧
    ((s.imageStart g b).svc g).chans = [] ∧ ((s.imageStart g b).svc g).heldInReset = false)

/-- 15 R446 to R451: the channels. Where the spec leaves a choice or a value open, the clauses follow assumption log entry
44: there they state the model's choice. -/
def Obligations.ServiceChannels : Prop :=
  -- CH_PUT, CH_SEND, CH_RECV, CH_GET and CH_POLL run the channel instruction that the thread stands at.
  (∀ (s : State) (t : Thr), s.running = true →
    exec (.chPut t) s = .next (s.runThread t (some 0) []) ∧ exec (.chSend t) s = .next (s.runThread t (some 1) []) ∧
    exec (.chRecv t) s = .next (s.runThread t (some 2) []) ∧ exec (.chGet t) s = .next (s.runThread t (some 3) []) ∧
    exec (.chPoll t) s = .next (s.runThread t (some 4) [])) ∧
  (∀ (s u : State) (t : Thr) (a : Fetched) (k : Nat), s.fetch t [] = (u, a) → s.runThread t (some k) [] =
    if s.issues t = true ∧ (s.svc t.grove).image.isSome = true then
      match a with
      | .insn i n => if chanForm i = some k ∧ n = 4 then settle t (u.chanInsn t k i) else s
      | .wait => u
      | _ => s
    else s) ∧
  -- A channel instruction on a channel it may not name faults; CH.POLL gives the messages that wait, and any other ends a spin.
  (∀ (s : State) (t : Thr) (k i : Nat), let ch := ((s.thread t).xr (rvRs1 i)).toNat
    let u := s.endSpin t
    (s.chanFaults t k ch = true → ∃ w v, s.chanInsn t k i = .fault w 0x20 v ∧ w.thread t = s.thread t) ∧
    (s.chanFaults t k ch = false →
      (k = 0 → s.chanInsn t k i = let r := u.chanPut t ch (rvF7 i) ((s.thread t).xr (rvRs2 i))
        r.1.goX t (rvRd i) (BitVec.ofNat 64 r.2) 4) ∧
      (k = 1 → s.chanInsn t k i = let r := u.chanSend t ch ((s.thread t).xr (rvRs2 i)).toNat
        r.1.goX t (rvRd i) (BitVec.ofNat 64 r.2) 4) ∧
      (k = 2 → s.chanInsn t k i = let r := u.chanRecv t ch
        r.1.goX t (rvRd i) (BitVec.ofNat 64 r.2) 4) ∧
      (k = 3 → s.chanInsn t k i = u.goX t (rvRd i) ((s.thread t).recv.getD (rvF7 i) 0) 4) ∧
      (k = 4 → (s.thread t).spinning = false → s.chanInsn t k i =
        s.goX t (rvRd i) (BitVec.ofNat 64 ((s.svc t.grove).chan ch).msgs.length) 4))) ∧
  (∀ (s : State) (t : Thr) (k ch : Nat), s.chanFaults t k ch = true ↔ 511 < ch ∨ (k ≤ 1 ∧ ch ≤ 31) ∨
    (k = 2 ∧ s.receiver t.grove ch ≠ some (tnum t))) ∧
  -- CH.PUT reserves a free channel with fewer than four messages, and then writes words of its own reservation.
  (∀ (s : State) (t : Thr) (ch i : Nat) (v : BitVec 64), (s.thread t).aborts.contains ch = false →
    ((s.svc t.grove).chan ch).res = none → ((s.svc t.grove).chan ch).msgs.length < 4 →
    (s.chanPut t ch i v).2 = 0 ∧ (((s.chanPut t ch i v).1.svc t.grove).chan ch).res =
      some { thread := tnum t, words := [(i, v)], start := s.now }) ∧
  (∀ (s : State) (t : Thr) (ch i : Nat) (v : BitVec 64) (r : ChRes), (s.thread t).aborts.contains ch = false →
    ((s.svc t.grove).chan ch).res = some r → r.thread = tnum t → (s.chanPut t ch i v).2 = 0 ∧
    (((s.chanPut t ch i v).1.svc t.grove).chan ch).res = some { r with words := SMap.set r.words i v }) ∧
  (∀ (s : State) (t : Thr) (ch i : Nat) (v : BitVec 64), (s.thread t).aborts.contains ch = false →
    ((s.svc t.grove).chan ch).res = none → 4 ≤ ((s.svc t.grove).chan ch).msgs.length → s.chanPut t ch i v = (s, 1)) ∧
  (∀ (s : State) (t : Thr) (ch i : Nat) (v : BitVec 64) (r : ChRes), (s.thread t).aborts.contains ch = false →
    ((s.svc t.grove).chan ch).res = some r → r.thread ≠ tnum t → s.chanPut t ch i v = (s, 1)) ∧
  -- CH.SEND turns the thread's reservation into a message at the end.
  (∀ (s : State) (t : Thr) (ch n : Nat) (r : ChRes), (s.thread t).aborts.contains ch = false →
    ((s.svc t.grove).chan ch).res = some r → r.thread = tnum t → 1 ≤ n → n ≤ 8 → (s.chanSend t ch n).2 = 0 ∧
    (((s.chanSend t ch n).1.svc t.grove).chan ch).msgs = ((s.svc t.grove).chan ch).msgs ++
      [(List.range n).map fun i => SMap.getD r.words i 0] ∧ (((s.chanSend t ch n).1.svc t.grove).chan ch).res = none) ∧
  (∀ (s : State) (t : Thr) (ch n : Nat), (s.thread t).aborts.contains ch = false → ((s.svc t.grove).chan ch).res = none →
    s.chanSend t ch n = (s, 3)) ∧
  -- CH.RECV takes the oldest message, and an empty channel gives 0.
  (∀ (s : State) (t : Thr) (ch : Nat) (m : List (BitVec 64)) (l : List (List (BitVec 64))),
    ((s.svc t.grove).chan ch).msgs = m :: l → (s.chanRecv t ch).2 = m.length ∧
    (((s.chanRecv t ch).1.svc t.grove).chan ch).msgs = l ∧ ((s.chanRecv t ch).1.thread t).recv = m) ∧
  (∀ (s : State) (t : Thr) (ch : Nat), ((s.svc t.grove).chan ch).msgs = [] → s.chanRecv t ch = (s, 0)) ∧
  -- CHANNEL_STALE: 2^20 core cycles after the reservation, once.
  (∀ (s : State) (g ch : Nat), s.running = true → exec (.channelStale g ch) s = .next (
    match ((s.svc g).chan ch).res with
    | none => s
    | some r =>
      if r.stale then s
      else
        let u := s.upTo (r.start + stillUnits)
        let x := u.svc g
        (((u.setSvc g (x.setChan ch { x.chan ch with res := some { r with stale := true } })).notify g (1 + r.thread / 4)
          (notice 3 0 (r.thread / 4) (r.thread % 4) ch ((s.svc g).thread r.thread).pc 1048576)).svcCtr g 5 1).fireDev g 8
            Ev.chStale (BitVec.ofNat 32 (g + 65536 * ch)))) ∧
  -- CH_RELEASE of a halted thread's reservation, while the grove is open for debug: its next CH.PUT or CH.SEND is told.
  (∀ (s : State) (g ch : Nat), s.running = true → exec (.chRelease g ch) s = .next (
    match ((s.svc g).chan ch).res with
    | none => s
    | some r =>
      let t : Thr := ⟨g, r.thread / 4, r.thread % 4⟩
      if s.debugOpen g = true ∧ (s.thread t).halted = true then
        let u := s.setSvc g ((s.svc g).setChan ch { (s.svc g).chan ch with res := none })
        u.setThread t { u.thread t with aborts := ch :: (u.thread t).aborts.filter (· != ch) }
      else s)) ∧
  (∀ (s : State) (t : Thr) (ch i : Nat) (v : BitVec 64), (s.thread t).aborts.contains ch = true → s.chanPut t ch i v = (s, 2))

/-- 15 R452 to R455, R463, R464: frames, rings and the built-in services. Where the spec leaves a choice or a value open,
the clauses follow assumption log entry 44: there they state the model's choice. -/
def Obligations.ServiceFramesAndRings : Prop :=
  -- FRM_TAKE, FRM_ALLOC, FRM_SEND and FRM_FREE: the word that is written to FRM_CMD, as a device register is written.
  (∀ (s : State) (t : Thr) (v : BitVec 64), s.running = true →
    let row (op : Nat) := if eBits v 3 0 = op then svcStore s t 0x1000 8 v.toNat else s
    exec (.frmTake t v) s = .next (row 1) ∧ exec (.frmAlloc t v) s = .next (row 2) ∧
    exec (.frmSend t v) s = .next (row 3) ∧ exec (.frmFree t v) s = .next (row 4)) ∧
  (∀ (s : State) (t : Thr) (off n v : Nat), svcStore s t off n v =
    if s.issues t = false then s
    else if (s.svc t.grove).image = none then s.devWrite t off n v
    else match s.svcWrite t (0x10000000 + off) n v 2 with
      | (u, .ok) => u.endSpin t
      | (u, _) => u.threadFault t 7 (BitVec.ofNat 64 (0x10000000 + off))) ∧
  (∀ (s : State) (t : Thr) (v : BitVec 64), s.devWrite t 0x1000 8 v.toNat =
    if eBits v 3 0 = 1 then s.frmTake t (eBits v 15 8)
    else if eBits v 3 0 = 2 then s.frmAlloc t (eBits v 29 16)
    else if eBits v 3 0 = 3 then s.frmSend t v
    else if eBits v 3 0 = 4 then s.frmFree t
    else s) ∧
  -- TAKE: a frame is held already, none waits, or the head of the queue is held with its bytes, without the check sequence.
  (∀ (s : State) (t : Thr) (q : Nat) (h : HeldFrame), (s.thread t).frame = some h → s.frmTake t q = s.setHeld t (some h) 2) ∧
  (∀ (s : State) (t : Thr) (q : Nat), (s.thread t).frame = none → (q = 255 ∨ s.sinkQueue t.grove (serviceSink q) = []) →
    s.frmTake t q = s.setHeld t none 1) ∧
  (∀ (s : State) (t : Thr) (q tag : Nat) (f : FrameRec) (l : List Nat), (s.thread t).frame = none → q ≠ 255 →
    s.sinkQueue t.grove (serviceSink q) = tag :: l → s.frame tag = some f →
    let u := (s.holdTag t.grove tag (serviceSink q)).svcCtr t.grove 0 1
    let b := (f.edited.getD f.bytes).take ((f.edited.getD f.bytes).length - 4)
    s.frmTake t q = (u.drawn 16384).setHeld t (some { fill := u.free, bytes := putBytes [] 0 b, len := b.length, queue := q, md := f.md,
                                                      tag := some tag, tenant := mdTenant f.md }) 0) ∧
  -- ALLOC: a frame is held already, a length is out of range, the slice has no room, or a new frame of open bytes is held.
  (∀ (s : State) (t : Thr) (n : Nat), s.frmAlloc t n =
    match (s.thread t).frame with
    | some h => s.setHeld t (some h) 2
    | none =>
      if n < 14 ∨ 15996 < n then s.setHeld t none 4
      else
        let w := s.newTag t.grove
        match if s.maySource t.grove then w.2.allocCells t.grove w.1 (cellsOf n) else none with
        | none => s.setHeld t none 5
        | some u => (u.drawn 16385).setHeld t (some { fill := u.free, len := n, queue := 0xFF, tag := some w.1
                                                      md := Config.freeValue 1024 (u.free + 16384) }) 0) ∧
  -- SEND: no frame is held, a length is out of range, the slice takes no frame, or what is in the window goes into the canopy, looked up or under an action.
  (∀ (s : State) (t : Thr) (v : BitVec 64), let n := eBits v 29 16
    s.frmSend t v =
      match (s.thread t).frame with
      | none => s.setHeld t none 3
      | some h =>
        if n < 14 ∨ 15996 < n then s.setHeld t (some h) 4
        else if s.maySource t.grove then
          ((s.svcSend t.grove (eBits v 63 48) ((List.range n).map h.byte)
            (if v.getLsbD 4 then some (eBits v 47 32) else none)).dropHeld t).setHeld t none 0
        else s.setHeld t (some h) 5) ∧
  (∀ (s : State) (t : Thr), s.frmFree t =
    if (s.thread t).frame.isSome then (s.dropHeld t).setHeld t none 0 else s.setHeld t none 3) ∧
  -- LOG_CI_WRITE and CAND_CI_WRITE: an index behind PI by no more than the ring is taken; another is not.
  (∀ (s : State) (g : Nat) (v : BitVec 32), s.running = true →
    exec (.logCiWrite g v) s = .next (svcStore s (s.ringWriter g) 0x3008 8 v.toNat) ∧
    exec (.candCiWrite g v) s = .next (svcStore s (s.ringWriter g) 0x3018 8 v.toNat)) ∧
  (∀ (s : State) (t : Thr) (v : BitVec 32), s.devWrite t 0x3008 8 v.toNat = s.writeLogCi t.grove v ∧
    s.devWrite t 0x3018 8 v.toNat = s.writeCandCi t.grove v) ∧
  (∀ (s : State) (g : Nat) (v : BitVec 32), 512 < ((s.svc g).candPi - v).toNat → s.writeCandCi g v = s) ∧
  (∀ (s : State) (g : Nat) (v : BitVec 32), ((s.svc g).candPi - v).toNat ≤ 512 → (v - (s.svc g).candCi).toNat ≤ 512 →
    s.writeCandCi g v = s.setSvc g { s.svc g with
      candCi := v, candRing := (s.svc g).candRing.drop (v - (s.svc g).candCi).toNat }) ∧
  (∀ (s : State) (g : Nat) (v : BitVec 32), 8192 < ((s.svc g).logPi - v).toNat → s.writeLogCi g v = s) ∧
  (∀ (s : State) (g : Nat) (v : BitVec 32), ((s.svc g).logPi - v).toNat ≤ 8192 →
    ((s.writeLogCi g v).svc g).logCi = v ∧ (s.cfg.policy.grove = g → (v - (s.svc g).logCi).toNat ≤ 8192 →
      (s.writeLogCi g v).tb.log = s.tb.log.drop (v - (s.svc g).logCi).toNat)) ∧
  -- SLOWPATH_FRAME: the frame at the head of the exception queue.
  (∀ (s : State) (g : Nat), s.running = true → exec (.slowpathFrame g) s = .next (
    match s.sinkQueue g .exception with
    | [] => s
    | tag :: _ =>
      match s.frame tag with
      | none => s
      | some f =>
        if s.builtinRuns g = true ∧ s.maySource g = true then
          (((((s.svcCtr g 0 1).slowDecide g f).1.svcSend g (mdTenant f.md) ((f.edited.getD f.bytes).take
            ((f.edited.getD f.bytes).length - 4)) (some ((s.svcCtr g 0 1).slowDecide g f).2)).dropTag g tag).reap tag)
        else s)) ∧
  -- A key that is in the cache has its flow entry inserted and goes under its action; one that is not, or whose entry finds no room, is punted, and so is a frame without an IP header.
  (∀ (s : State) (g : Nat) (f : FrameRec), let h := parseHdrs f.window
    let key := beNat (flowKey f.window (mdTenant f.md) h)
    s.slowDecide g f =
      match if bit h.bits 2 || bit h.bits 3 then s.slowFind g key else none with
      | none => (s.svcCtr g 9 1, s.cfg.policy.puntAction)
      | some e =>
        let r := s.builtinInsert (flowEntry key e.part 0 e.action e.trail)
        if r.2.status = St.ok ∨ r.2.status = St.exists_ then (r.1.svcCtr g 8 1, e.action)
        else (r.1.svcCtr g 9 1, s.cfg.policy.puntAction)) ∧
  -- POLICY_CANDIDATE: an accepted class is inserted, and another discarded.
  (∀ (s : State) (g : Nat), s.running = true → exec (.policyCandidate g) s = .next (
    match (s.svc g).candRing with
    | [] => s
    | r :: l =>
      let u := s.setSvc g { s.svc g with candRing := l, candCi := (s.svc g).candCi + 1 }
      if s.builtinRuns g = false then s
      else if bit s.cfg.policy.acceptMask r.cls = true ∧ r.cls < 16 then
        (u.builtinInsert (flowEntry r.key.toNat s.cfg.policy.part (r.ra.toNat % 65536) r.action true)).1.svcCtr g 10 1
      else u.svcCtr g 11 1)) ∧
  -- LEARN_LOG_MOVE: the oldest record of the log joins the store, which keeps 8,192.
  (∀ (s : State), s.running = true → s.tb.log = [] ∨ s.builtinRuns s.cfg.policy.grove = false → exec .learnLogMove s = .next s) ∧
  (∀ (s : State) (r : LearnRec) (l : List LearnRec), s.running = true → s.tb.log = r :: l →
    s.builtinRuns s.cfg.policy.grove = true → ∃ u, exec .learnLogMove s = .next u ∧ u.tb.log = l ∧
      u.sv.store = (s.sv.store ++ [r]).drop ((s.sv.store ++ [r]).length - 8192) ∧
      (u.svc s.cfg.policy.grove).logCi = (s.svc s.cfg.policy.grove).logCi + 1)

/-- 15 R456 to R458, R462 to R465: the SERVICE commands. Where the spec leaves a choice or a value open, the clauses
follow assumption log entry 44: there they state the model's choice. -/
def Obligations.ServiceCommands : Prop :=
  -- SERVICE.STAGE
  (∀ (s : State) (r : Request) (k o n : Nat), s.asks r 0x0C01 → r.payload.length = 12 + n → fld r.payload 0 1 = k → k ≤ 1 →
    fld r.payload 1 3 = 0 → fld r.payload 4 4 = o → fld r.payload 8 2 = n → fld r.payload 10 2 = 0 → 1 ≤ n → n ≤ 4000 →
    o + n ≤ 8388608 → exec .serviceStage s = .next ({ s.taken with sv := { s.sv with
      staging := SMap.set s.sv.staging r.mb (putBytes (if k = 1 then [] else SMap.getD s.sv.staging r.mb []) o
        (r.payload.drop 12)) } }.reply r 0)) ∧
  -- SERVICE.LOAD of the built-in image or of a signed image, with its results in their order
  (∀ (s : State) (r : Request) (m n k : Nat), s.asks r 0x0C02 → r.payload.length = 8 → fld r.payload 0 2 = m →
    (maskBits m 16).isEmpty = false → fld r.payload 2 1 = k → k ≤ 1 → fld r.payload 3 1 = 0 → fld r.payload 4 4 = n →
    (k = 0 → 2304 ≤ n ∧ n ≤ 8388608) →
    let gs := maskBits m 16
    let b := getBytes (SMap.getD s.sv.staging r.mb []) 0 n
    let start (i : Option (List Byte)) : State :=
      if gs.any s.groveFailed = true then s.taken.reply r St.internal
      else if 64 ≤ s.sl.ops.length then s.taken.reply r St.busy
      else s.taken.replyStarted r gs.length (.svcLoad gs i)
    exec .serviceLoad s = .next (
      if gs.all (· < s.groves) = false then s.taken.reply r St.notPresent
      else if s.groveGate r.actor gs = false then s.taken.reply r St.notOwner
      else if (gs.any fun g => s.isHeld (.image g)) = true then s.taken.reply r St.busy
      else if k = 1 then start none
      else if s.nv.serviceKey.any (fun k => Config.fnDsaVerify k b) = false then s.taken.reply r St.badAuth
      else if headerLegal b = false then s.taken.reply r St.badArg
      else if s.mayAct { r with actAs := true, acting := fld b 520 2 } = false ∨
          s.mayAct { r with actAs := true, acting := fld b 522 2 } = false then s.taken.reply r St.denied
      else start (some b))) ∧
  -- SERVICE_LOAD_STEP: one grove after the other starts the image, and it is measured; after the last the operation has ended.
  (∀ (s : State) (h g : Nat) (gs : List Nat) (b : Option (List Byte)) (o : LongOp), s.stepsOn h o (.svcLoad (g :: gs) b) →
    let u := ((s.atStep h).imageStart g b).extend 4 (Config.measured (.service g (imageDigest b)))
    let w := (u.setSvc g { u.svc g with restarts := [] }).setOp { o.step with data := .svcLoad gs b }
    exec (.serviceLoadStep h) s = .next (if gs = [] then w.endOp { o.step with data := .svcLoad gs b } 0 else w)) ∧
  (∀ (s : State) (h : Nat) (b : Option (List Byte)) (o : LongOp), s.stepsOn h o (.svcLoad [] b) →
    exec (.serviceLoadStep h) s = .next ((s.atStep h).endOp o.step 0)) ∧
  -- SERVICE.GET and SERVICE.STATS
  (∀ (s : State) (r : Request) (g : Nat), r.payload.length = 1 → fld r.payload 0 1 = g → g < 16 →
    let on (b : List Byte) := if s.groves ≤ g then s.taken.reply r St.notPresent
      else if s.groveGate r.actor [g] = false then s.taken.reply r St.notOwner
      else s.taken.reply r 0 b
    (s.asks r 0x0C03 → exec .serviceGet s = .next (on (leBytes 1 (b2n (s.svc g).image.isNone) ++
      (List.range 16).flatMap (fun c => leBytes 1 (s.parkedBits g c)) ++ leBytes 4 (s.svc g).restartCount ++
      (imageDigest (s.svc g).image).take 32))) ∧
    (s.asks r 0x0C04 → exec .serviceStats s = .next (on (ctrBytes (s.svc g).ctrs 12)))) ∧
  -- SERVICE.NVME_SET and SERVICE.NVME_NS_SET, by PF2 of the port or the operator: PF1, or a VF of PF1, has a controller.
  (∀ (s : State) (r : Request) (f : Nat), s.asks r 0x0C05 → r.payload.length = 28 → fld r.payload 0 2 = f →
    fld r.payload 2 1 ≤ 1 → fld r.payload 3 1 = 0 → 100 ≤ fld r.payload 4 4 → fld r.payload 4 4 ≤ 60000 →
    (slice r.payload 8 20).all (·.toNat < 128) = true → fnPort f < 16 →
    (match vfOf f with | some v => 512 ≤ v | none => fnLocal f = 1) → exec .serviceNvmeSet s = .next (
      if s.groves ≤ fnPort f then s.taken.reply r St.notPresent
      else if r.actor ≠ operator ∧ r.actor ≠ pf2 (fnPort f) then s.taken.reply r St.notOwner
      else if s.groveFailed (fnPort f) = true then s.taken.reply r St.internal
      else s.taken.replyCfg { s.taken with cfg := { s.cfg with
        nvme := SMap.set s.cfg.nvme f ⟨fld r.payload 2 1 == 1, fld r.payload 4 4, slice r.payload 8 20⟩ } } r)) ∧
  (∀ (s : State) (r : Request) (f n : Nat), s.asks r 0x0C06 → 20 ≤ r.payload.length → r.payload.length ≤ 276 →
    fld r.payload 0 2 = f → fld r.payload 2 1 = n → 1 ≤ n → n ≤ 32 → fld r.payload 3 1 ≤ 2 →
    (fld r.payload 4 1 = 9 ∨ fld r.payload 4 1 = 12) → fld r.payload 5 3 = 0 → fnPort f < 16 →
    (match vfOf f with | some v => 512 ≤ v | none => fnLocal f = 1) →
    let h := fld r.payload 16 4
    let u := { s.taken with cfg := { s.cfg with
      namespaces := if fld r.payload 3 1 = 0 then SMap.del s.cfg.namespaces (64 * f + n)
        else SMap.set s.cfg.namespaces (64 * f + n) ⟨fld r.payload 3 1, fld r.payload 4 1, fld r.payload 8 8, h, r.payload.drop 20⟩ } }
    let c := s.ctl f
    let w := if c.rdy then u.setNv f { c with changed := if c.changed.contains n then c.changed else c.changed ++ [n] } else u
    exec .serviceNvmeNsSet s = .next (
      if h ≠ 0 ∧ s.hasCipher = false then s.taken.reply r St.notPresent
      else if s.groves ≤ fnPort f then s.taken.reply r St.notPresent
      else if r.actor ≠ operator ∧ r.actor ≠ pf2 (fnPort f) then s.taken.reply r St.notOwner
      else if h ≠ 0 ∧ s.cipherKey h = none then s.taken.reply r St.notFound
      else if h ≠ 0 ∧ ((s.cipherKey h).any fun k => k.owner == f || k.owner == pf2 (fnPort f)) = false then s.taken.reply r St.notOwner
      else if h ≠ 0 ∧ ((s.cipherKey h).any fun k => 4 ≤ k.alg && bit k.use 0) = false then s.taken.reply r St.badArg
      else if s.groveFailed (fnPort f) = true then s.taken.reply r St.internal
      else s.taken.replyCfg (if bit (SMap.getD c.features 0x0B 0x100) 8 then w.nvEvent f (2 + 2 ^ 16 * 4) else w) r)) ∧
  -- SERVICE.SLOWPATH_SET writes or deletes an entry in every grove that it names.
  (∀ (s : State) (r : Request) (i : Nat), s.asks r 0x0C07 → r.payload.length = 56 → (maskBits (fld r.payload 0 2) 16).isEmpty = false →
    fld r.payload 2 2 = i → i < 16384 → fld r.payload 55 1 ≤ 3 →
    let gs := maskBits (fld r.payload 0 2) 16
    exec .serviceSlowpathSet s = .next (
      if gs.all (· < s.groves) = false then s.taken.reply r St.notPresent
      else if s.groveGate r.actor gs = false ∨ s.owns r.actor 6 (256 + fld r.payload 54 1) = false then s.taken.reply r St.notOwner
      else if gs.any s.groveFailed = true then s.taken.reply r St.internal
      else s.taken.replyCfg { s.taken with cfg := { s.cfg with
        slowpath := gs.foldl (fun m g => if bit (fld r.payload 55 1) 1 then SMap.set m (16384 * g + i)
            ⟨BitVec.ofNat 384 (beNat (slice r.payload 4 48)), fld r.payload 52 2, fld r.payload 54 1, bit (fld r.payload 55 1) 0⟩
          else SMap.del m (16384 * g + i)) s.cfg.slowpath } } r)) ∧
  -- SERVICE.POLICY_SET, by the operator: where the policy grove changes, the learn log goes to its ring.
  (∀ (s : State) (r : Request) (g : Nat), s.asks r 0x0C08 → r.payload.length = 8 → fld r.payload 0 1 = g → g < 16 →
    fld r.payload 6 2 = 0 → exec .servicePolicySet s = .next (
      if s.groves ≤ g then s.taken.reply r St.notPresent
      else if r.actor ≠ operator then s.taken.reply r St.notOwner
      else s.taken.replyCfg ({ s.taken with cfg := { s.cfg with
        policy := ⟨g, fld r.payload 1 1, fld r.payload 2 2, fld r.payload 4 2⟩ } }.movePolicy s.cfg.policy.grove) r)) ∧
  (∀ (s : State), s.movePolicy s.cfg.policy.grove = s) ∧
  -- SERVICE.LEARN_READ: at most 125 records from a sequence number on.
  (∀ (s : State) (r : Request), s.asks r 0x0C09 → r.payload.length = 8 → exec .serviceLearnRead s = .next (s.taken.reply r 0
    (((s.sv.store.filter fun x => fld r.payload 0 8 ≤ x.seq).take 125).flatMap LearnRec.image)))

/-- 15 R460, R461: the registers and the doorbells of an emulated NVMe controller, and how a command completes. Where the
spec leaves a choice or a value open, the clauses follow assumption log entry 45: there they state the model's choice. -/
def Obligations.NvmeRegistersAndQueues : Prop :=
  -- NVME_CC_WRITE: enabling starts the admin queues that AQA, ASQ and ACQ give; disabling stops the controller.
  (∀ (s : State) (f : Nat) (v : BitVec 32), s.serving = true → s.hasNvme f = true →
    s.reaches f (0x400 + fnPort f) 2 0x14 4 → exec (.nvmeCcWrite f v) s = .next ((s.traffic f).writeCc f v)) ∧
  (∀ (s : State) (f : Nat) (v w : BitVec 32), w = v &&& ccMask →
    let c := s.ctl f
    let d := { c with cc := w, shst := if bits w.toNat 15 14 = 0 then c.shst else 2 }
    s.writeCc f v = s.setNv f (
      if s.builtinRuns (fnPort f) = false then d
      else if c.cc.getLsbD 0 = false ∧ w.getLsbD 0 = true then
        if (s.nvCfg f).enable = true ∧ bits w.toNat 6 4 = 0 ∧ bits w.toNat 10 7 ≤ 4 then { d with shst := 0 }.start else d
      else if c.cc.getLsbD 0 = true ∧ w.getLsbD 0 = false then { d.stopped with intMask := 0 }
      else d)) ∧
  (∀ (c : NvCtl), c.start.rdy = true ∧ c.start.cc = c.cc ∧
    c.start.sqs = [(0, { base := c.asq, size := bits c.aqa.toNat 11 0 + 1, cq := 0 })] ∧
    c.start.cqs = [(0, { base := c.acq, size := bits c.aqa.toNat 27 16 + 1 })] ∧
    c.stopped.rdy = false ∧ c.stopped.sqs = [] ∧ c.stopped.cqs = [] ∧ c.stopped.io = []) ∧
  -- R459: CSTS.CFS is 1 while the grove runs a custom image.
  (∀ (s : State) (f : Nat), s.builtinRuns (fnPort f) = false → bits (s.csts f) 1 1 = 1) ∧
  (∀ (s : State) (f : Nat), s.builtinRuns (fnPort f) = true → bits (s.csts f) 1 1 = 0) ∧
  -- NVME_SQ_TAIL_DOORBELL is page 1 + 2y, and NVME_CQ_HEAD_DOORBELL is page 2 + 2y.
  (∀ (s : State) (f y v : Nat), s.serving = true → s.hasNvme f = true → y ≤ nvQueues f →
    (s.reaches f (0x400 + fnPort f) 2 (0x1000 * (1 + 2 * y)) 4 →
      exec (.nvmeSqTailDoorbell f y v) s = .next ((s.traffic f).nvSqTail f y v)) ∧
    (s.reaches f (0x400 + fnPort f) 2 (0x1000 * (2 + 2 * y)) 4 →
      exec (.nvmeCqHeadDoorbell f y v) s = .next ((s.traffic f).nvCqHead f y v))) ∧
  -- A value within the queue is taken, and for a head one that frees no entry that is not there; any other, and a doorbell of a queue that does not exist, is reported.
  (∀ (s : State) (f y v : Nat), s.nvSqTail f y v =
    match SMap.get (s.ctl f).sqs y with
    | none => s.nvEvent f 65536
    | some q =>
      if v < q.size then s.setNv f { s.ctl f with sqs := SMap.set (s.ctl f).sqs y { q with tail := v } }
      else s.nvEvent f (256 + 65536)) ∧
  (∀ (s : State) (f y v : Nat), s.nvCqHead f y v =
    match SMap.get (s.ctl f).cqs y with
    | none => s.nvEvent f 65536
    | some q =>
      if v < q.size ∧ q.used v ≤ q.used q.head then
        s.setNv f { s.ctl f with cqs := SMap.set (s.ctl f).cqs y { q with head := v } }
      else s.nvEvent f (256 + 65536)) ∧
  -- A completion writes its data and then its entry; data that cannot be written makes the status a Data Transfer Error, and a translation that is still to come leaves everything as it was.
  (∀ (o s u : State) (f sq cid d st : Nat) (b : List (Nat × List Byte)) (a : Dma), s.svcHostWrites f b = (u, a) →
    State.nvPost o s f sq cid d st b =
      match a with
      | .waits => (o.svcHostWrites f b).1
      | .ok => State.nvEntry o u f sq cid d st
      | _ => State.nvEntry o u f sq cid 0 nvTransferError) ∧
  -- An entry takes a place of its completion queue, and the phase changes when the queue wraps; one that may not be written is lost.
  (∀ (o s u : State) (f sq cid d st : Nat) (q : NvSq) (k : NvCq) (a : Dma),
    SMap.get (s.ctl f).sqs sq = some q → SMap.get (s.ctl f).cqs q.cq = some k → k.room = true →
    s.svcHostWrites f [(k.base + 16 * k.tail, cqe d q.head sq cid k.phase st)] = (u, a) →
    let w := u.setNv f { s.ctl f with cqs := SMap.set (s.ctl f).cqs q.cq { k with
      tail := (k.tail + 1) % k.size, phase := if (k.tail + 1) % k.size = 0 then !k.phase else k.phase } }
    State.nvEntry o s f sq cid d st =
      match a with
      | .waits => (o.svcHostWrites f [(k.base + 16 * k.tail, zeros 16)]).1
      | .ok => if k.ien = true ∧ ((w.fn f).msixEnable = true ∨ (s.ctl f).intMask.getLsbD k.vec = false) then w.interrupt f k.vec else w
      | _ => u) ∧
  -- A completion queue that is full leaves everything as it was.
  (∀ (o s : State) (f sq cid d st : Nat) (q : NvSq) (k : NvCq),
    SMap.get (s.ctl f).sqs sq = some q → SMap.get (s.ctl f).cqs q.cq = some k → k.room = false →
    State.nvEntry o s f sq cid d st = o)

/-- 15 R460: the admin commands. Status codes but those the spec prints are log entry 45's, presumed from NVM Express.
Where the spec leaves a choice or a value open, the clauses follow assumption log entry 45: there they state the
model's choice. -/
def Obligations.NvmeAdminCommands : Prop :=
  -- A command that has been read and taken completes with its data, or with a status whose DNR bit is open.
  (∀ (s t : State) (f sq d : Nat) (e : Sqe) (b : List (Nat × List Byte)),
    State.nvAnswer s t f sq e (.ok (t, d, b)) = State.nvPost s t f sq e.cid d 0 b) ∧
  (∀ (s t : State) (f sq st : Nat) (e : Sqe) (q : NvSq),
    State.nvAnswer s (t.nvTaken f sq q) f sq e (.error st) = State.nvFail s t f sq q e.cid st) ∧
  -- CREATE_IO_SQ and CREATE_IO_CQ
  (∀ (s t : State) (f i n k : Nat) (e : Sqe) (q : NvSq) (b : List Byte), s.nvHolds t f 0 e q b → lo16 e.cdw10 = i →
    hi16 e.cdw10 = n → hi16 e.cdw11 = k →
    let u := t.nvTaken f 0 q
    let c := u.ctl f
    (e.opc = 1 → exec (.nvCreateIoSq f e) s = .next (State.nvAnswer s u f 0 e (
      if i = 0 ∨ nvQueues f < i ∨ (SMap.get c.sqs i).isSome = true then .error 0x101
      else if n = 0 ∨ 4095 < n then .error 0x102
      else if e.cdw11.getLsbD 0 = false then .error nvInvalidField
      else if e.prp1 % 4096 ≠ 0 then .error 0x13
      else if k = 0 ∨ nvQueues f < k then .error 0x101
      else if SMap.get c.cqs k = none then .error 0x100
      else .ok (u.setNv f { c with sqs := SMap.set c.sqs i { base := e.prp1, size := n + 1, cq := k } }, 0, [])))) ∧
    (e.opc = 5 → exec (.nvCreateIoCq f e) s = .next (State.nvAnswer s u f 0 e (
      if i = 0 ∨ nvQueues f < i ∨ (SMap.get c.cqs i).isSome = true then .error 0x101
      else if n = 0 ∨ 4095 < n then .error 0x102
      else if e.cdw11.getLsbD 0 = false then .error nvInvalidField
      else if e.prp1 % 4096 ≠ 0 then .error 0x13
      else if nvVectors f ≤ k then .error 0x108
      else .ok (u.setNv f { c with
        cqs := SMap.set c.cqs i { base := e.prp1, size := n + 1, vec := k, ien := e.cdw11.getLsbD 1 } }, 0, []))))) ∧
  -- DELETE_IO_SQ: the commands of the queue that wait for their target end Aborted first, and it waits until their entries have room. DELETE_IO_CQ of a queue that a submission queue uses is refused.
  (∀ (s t : State) (f i : Nat) (e : Sqe) (q : NvSq) (b : List Byte), s.nvHolds t f 0 e q b → lo16 e.cdw10 = i →
    let u := t.nvTaken f 0 q
    let c := u.ctl f
    let w := (c.io.filter (·.sq == i)).foldl (fun s x =>
      let s' := s.setNv f { s.ctl f with io := (s.ctl f).io.filter (· != x) }
      State.nvPost s' s' f i x.cid 0 0x08 []) u
    (e.opc = 0 → exec (.nvDeleteIoSq f e) s = .next (
      if ((s.ctl f).io.filter (·.sq == i)).length ≠ 0 ∧ (s.ctl f).takes i ((s.ctl f).io.filter (·.sq == i)).length = false then s
      else State.nvAnswer s u f 0 e (
        if i = 0 ∨ SMap.get c.sqs i = none then .error 0x101
        else .ok (w.setNv f { w.ctl f with sqs := SMap.del (w.ctl f).sqs i }, 0, [])))) ∧
    (e.opc = 4 → exec (.nvDeleteIoCq f e) s = .next (State.nvAnswer s u f 0 e (
      if i = 0 ∨ SMap.get c.cqs i = none then .error 0x101
      else if c.sqs.any (fun x => x.2.cq == i) = true then .error 0x10C
      else .ok (u.setNv f { c with cqs := SMap.del c.cqs i }, 0, []))))) ∧
  -- GET_LOG_PAGE: pages 01h to 03h hold open bytes, and 04h lists the changed namespaces; reading clears the list and the event's mask unless the event is retained.
  (∀ (s t : State) (f l : Nat) (e : Sqe) (q : NvSq) (b : List Byte), s.nvHolds t f 0 e q b → e.opc = 2 →
    bits e.cdw10.toNat 7 0 = l →
    let u := t.nvTaken f 0 q
    let n := 4 * (hi16 e.cdw10 + 65536 * lo16 e.cdw11 + 1)
    let c := u.ctl f
    let page := if l = 4 then (c.changed.flatMap (leBytes 4) ++ zeros (4096 - 4 * c.changed.length), u)
      else u.freeBytes (e.cdw12.toNat + n)
    exec (.nvGetLogPage f e) s = .next (State.nvAnswer s u f 0 e (
      if l = 0 ∨ 4 < l then .error nvInvalidField
      else .ok (page.2.setNv f (if e.cdw10.getLsbD 15 then c else { c with
          masked := c.masked.filter fun k => logType l != some k, changed := if l = 4 then [] else c.changed }), 0,
        spread e.dptr (slice page.1 e.cdw12.toNat n))))) ∧
  -- IDENTIFY: the data of a CNS that is supported, at the data pointer.
  (∀ (s t : State) (f : Nat) (e : Sqe) (q : NvSq) (b : List Byte), s.nvHolds t f 0 e q b → e.opc = 6 →
    let u := t.nvTaken f 0 q
    exec (.nvIdentify f e) s = .next (State.nvAnswer s u f 0 e (
      match u.identifyData f (bits e.cdw10.toNat 7 0) e.nsid with
      | .ok (d, w) => .ok (w, 0, spread e.dptr d)
      | .error st => .error st))) ∧
  (∀ (s : State) (f k n : Nat), 3 < k → s.identifyData f k n = .error nvInvalidField) ∧
  (∀ (s : State) (f n : Nat) (l : List Byte),
    l = ((List.range 33).filter fun k => n < k && (s.ns f k).isSome).flatMap (leBytes 4) →
    s.identifyData f 2 n = .ok (l ++ zeros (4096 - l.length), s)) ∧
  (∀ (s : State) (f n : Nat) (x : NvmeNs), s.ns f n = some x → ∃ b u, s.identifyData f 0 n = .ok (b, u) ∧ b.length = 4096 ∧
    fld b 0 8 = x.sizeLbas % 2 ^ 64 ∧ fld b 128 4 = 65536 * x.lbaLog2 % 2 ^ 32) ∧
  -- ABORT: a command that waits for its target, or an Asynchronous Event Request that waits, ends Aborted; of any other, DWORD 0 says that none was.
  (∀ (s t : State) (f i k : Nat) (e : Sqe) (q : NvSq) (b : List Byte), s.nvHolds t f 0 e q b → e.opc = 8 → lo16 e.cdw10 = i →
    hi16 e.cdw10 = k →
    let u := t.nvTaken f 0 q
    let c := u.ctl f
    exec (.nvAbort f e) s = .next (
      if (s.ctl f).takes i 2 = false ∧ (SMap.get (s.ctl f).sqs i).isSome = true then s
      else State.nvAnswer s u f 0 e (.ok (
        match c.io.find? fun x => x.sq == i && x.cid == k with
        | some x => (State.nvPost u (u.setNv f { c with io := c.io.filter (· != x) }) f i k 0 0x07 [], 0, [])
        | none =>
          if i = 0 ∧ c.aers.contains k = true then
            (State.nvPost u (u.setNv f { c with aers := c.aers.filter (· != k) }) f 0 k 0 0x07 [], 0, [])
          else (u, 1, []))))) ∧
  -- SET_FEATURES and GET_FEATURES
  (∀ (s t : State) (f k : Nat) (e : Sqe) (q : NvSq) (b : List Byte), s.nvHolds t f 0 e q b → bits e.cdw10.toNat 7 0 = k →
    let u := t.nvTaken f 0 q
    let c := u.ctl f
    let v := min (lo16 e.cdw11) (nvQueues f - 1) + 65536 * min (hi16 e.cdw11) (nvQueues f - 1)
    (e.opc = 9 → exec (.nvSetFeatures f e) s = .next (State.nvAnswer s u f 0 e (
      if nvFeature f k = none then .error nvInvalidField
      else if e.cdw10.getLsbD 31 = true then .error 0x10D
      else if k ≠ 7 then .ok (u.setNv f { c with features := SMap.set c.features k e.cdw11.toNat }, 0, [])
      else if lo16 e.cdw11 = 0xFFFF ∨ hi16 e.cdw11 = 0xFFFF then .error nvInvalidField
      else if 1 < c.sqs.length ∨ 1 < c.cqs.length then .error 0x0C
      else .ok (u.setNv f { c with features := SMap.set c.features 7 v }, v, [])))) ∧
    (e.opc = 10 → exec (.nvGetFeatures f e) s = .next (State.nvAnswer s u f 0 e (
      match nvFeature f k with
      | some d => .ok (u, SMap.getD c.features k d, [])
      | none => .error nvInvalidField)))) ∧
  -- ASYNCHRONOUS_EVENT_REQUEST: an event that waits is reported at once; the first four requests wait while none does, and a fifth is refused.
  (∀ (s t : State) (f : Nat) (e : Sqe) (q : NvSq) (b : List Byte), s.nvHolds t f 0 e q b → e.opc = 12 →
    let u := t.nvTaken f 0 q
    exec (.nvAsyncEventRequest f e) s = .next (
      if 4 ≤ (s.ctl f).aers.length then State.nvAnswer s u f 0 e (.error 0x105)
      else match (s.ctl f).events.filter fun d => !(s.ctl f).masked.contains (d % 8) with
        | d :: _ => State.nvAnswer s u f 0 e (.ok (u.setNv f { u.ctl f with
            events := (u.ctl f).events.filter (· != d), masked := d % 8 :: (u.ctl f).masked }, d, []))
        | [] => u.setNv f { u.ctl f with aers := (u.ctl f).aers ++ [e.cid] })) ∧
  -- INVALID_COMMAND_OPCODE of an opcode that R460 does not list, for an admin queue and for an I/O queue
  (∀ (s t : State) (f sq : Nat) (e : Sqe) (q : NvSq) (b : List Byte), s.nvHolds t f sq e q b →
    exec (.nvInvalidOpcode f sq e) s = .next (
      if (if sq = 0 then [0, 1, 2, 4, 5, 6, 8, 9, 10, 12] else [0, 1, 2, 8, 9]).contains e.opc then s
      else State.nvFail s t f sq q e.cid nvInvalidOpcode)) ∧
  -- A controller that is not ready, or whose queue is empty, takes no command; an entry that cannot be read is not taken, and one that waits for a translation waits.
  (∀ (s : State) (f sq : Nat) (e : Sqe) (k : State → NvAns),
    (s.nvReady f = false ∨ SMap.get (s.ctl f).sqs sq = none → s.nvRun f sq e k = s) ∧
    ∀ q, SMap.get (s.ctl f).sqs sq = some q → (q.head = q.tail → s.nvRun f sq e k = s) ∧
      ∀ (t : State) (a : Asked) (b : List Byte), s.nvReady f = true → q.head ≠ q.tail →
        s.svcHostReads f [(q.base + 64 * q.head, 64)] e.host [] = ((t, a), b) → a ≠ .ok → s.nvRun f sq e k = t)

/-- 15 R460, R462: the I/O commands of an emulated NVMe controller. Where the spec leaves a choice or a value open, the
clauses follow assumption log entry 45: there they state the model's choice. -/
def Obligations.NvmeIoCommands : Prop :=
  -- NVME_READ, NVME_WRITE, WRITE_ZEROES, FLUSH and DATASET_MANAGEMENT are one course over their LBA, blocks and host data.
  (∀ (s : State) (f i : Nat) (e : Sqe) (a : Bool) (b : Option (List Byte)) (d : List (Nat × Nat)), s.running = true →
    let plain := if a then some [] else none
    exec (.nvRead f i e b) s = .next (nvIo 2 f i e (e.cdw10.toNat + 2 ^ 32 * e.cdw11.toNat) (lo16 e.cdw12 + 1) true [] b s) ∧
    exec (.nvWrite f i e d a) s = .next (nvIo 1 f i e (e.cdw10.toNat + 2 ^ 32 * e.cdw11.toNat) (lo16 e.cdw12 + 1) true d plain s) ∧
    exec (.nvWriteZeroes f i e a) s = .next (nvIo 8 f i e (e.cdw10.toNat + 2 ^ 32 * e.cdw11.toNat) (lo16 e.cdw12 + 1) false [] plain s) ∧
    exec (.nvFlush f i e a) s = .next (nvIo 0 f i e 0 0 false [] plain s) ∧
    exec (.nvDatasetManagement f i e a) s = .next (nvIo 9 f i e 0 0 false e.dptr plain s)) ∧
  (∀ (s : State) (op f i l n : Nat) (e : Sqe) (m : Bool) (rd : List (Nat × Nat)) (a : Option (List Byte)),
    (e.opc ≠ op ∨ i = 0) → nvIo op f i e l n m rd a s = s) ∧
  -- A command that already waits for its target ends when the answer is there, its data where its data pointer says; past its time-out it ends with Transient Transport Error.
  (∀ (s : State) (f i l n : Nat) (e : Sqe) (m : Bool) (rd : List (Nat × Nat)) (a : Option (List Byte)) (x : NvIo), i ≠ 0 →
    ((s.ctl f).io.find? fun k => k.sq == i && k.cid == e.cid) = some x → nvIo e.opc f i e l n m rd a s =
      if s.nvReady f = false then s
      else if s.nvLate f x = true then State.nvEnd s s f x 0x22 []
      else match a, (s.ns f e.nsid).bind fun y => s.nvReply (fnPort f) y e with
        | some b, some t => State.nvEnd s t f x 0 (spread e.dptr b)
        | _, _ => s) ∧
  -- A new command that fails its checks ends with their status.
  (∀ (s t : State) (f i l n st : Nat) (e : Sqe) (q : NvSq) (m : Bool) (rd : List (Nat × Nat)) (a : Option (List Byte)) (b : List Byte),
    s.nvHolds t f i e q b → i ≠ 0 → ((s.ctl f).io.find? fun k => k.sq == i && k.cid == e.cid) = none →
    s.nsCheck f e l n m = .error st → nvIo e.opc f i e l n m rd a s = State.nvFail s t f i q e.cid st) ∧
  -- One that passes them goes to the target with the data that it reads from the host; it completes with the answer, or waits for it. Data that cannot be read is a Data Transfer Error.
  (∀ (s t u : State) (f i l n : Nat) (e : Sqe) (q : NvSq) (m : Bool) (rd : List (Nat × Nat)) (a : Option (List Byte)) (b d : List Byte)
    (x : NvmeNs) (k : Asked), s.nvHolds t f i e q b → i ≠ 0 →
    ((s.ctl f).io.find? fun k => k.sq == i && k.cid == e.cid) = none → s.nsCheck f e l n m = .ok x →
    t.svcHostReads f rd (e.host.drop (splitAccess (q.base + 64 * q.head) 64 (s.fn f).mrrs).length) [] = ((u, k), d) →
    let v := (u.nvTaken f i q).nvSend (fnPort f) x b d
    nvIo e.opc f i e l n m rd a s =
      if s.maySource (fnPort f) = false then s
      else match k with
        | .waits => u
        | .ok => (match a, v.nvReply (fnPort f) x e with
          | some r, some w => State.nvPost s w f i e.cid 0 0 (spread e.dptr r)
          | _, _ => v.setNv f { v.ctl f with io := (v.ctl f).io ++ [⟨i, e.cid, v.clk⟩] })
        | _ => State.nvPost s (u.nvTaken f i q) f i e.cid 0 nvTransferError []) ∧
  -- Over MRA the answer is the row's operand alone, and over NVMe/TCP it takes the frames of the service input queue that the row names.
  (∀ (s : State) (g : Nat) (x : NvmeNs) (e : Sqe), s.nvReply g x e =
    if x.kind ≠ 1 then some s
    else if e.reply.2 = 0 ∨ e.reply.1 = 0 ∨ 255 ≤ e.reply.1 then none
    else s.takeInput g e.reply.1 e.reply.2) ∧
  -- The checks: a namespace that does not exist, a cipher key that does not, a transfer above MDTS, and the namespace's end.
  (∀ (s : State) (f l n : Nat) (e : Sqe) (d : Bool), (e.nsid = 0 ∨ 32 < e.nsid) → s.nsCheck f e l n d = .error 0x0B) ∧
  (∀ (s : State) (f l n : Nat) (e : Sqe) (x : NvmeNs), e.nsid ≠ 0 → e.nsid ≤ 32 → s.ns f e.nsid = some x →
    (x.keyHandle = 0 ∨ (s.cipherKey x.keyHandle).isSome = true) →
    (1048576 < n * 2 ^ x.lbaLog2 → s.nsCheck f e l n true = .error nvInvalidField) ∧
    (n * 2 ^ x.lbaLog2 ≤ 1048576 → x.sizeLbas < l + n → s.nsCheck f e l n true = .error 0x80) ∧
    (n * 2 ^ x.lbaLog2 ≤ 1048576 → l + n ≤ x.sizeLbas → s.nsCheck f e l n true = .ok x)) ∧
  -- R462, NVME_IO_TIMEOUT: Transient Transport Error, generic status 22h, with DNR 0.
  (∀ (s : State) (f i c : Nat), s.running = true → exec (.nvmeIoTimeout f i c) s = .next (
    match (s.ctl f).io.find? fun k => k.sq == i && k.cid == c with
    | none => s
    | some x =>
      if s.nvReady f = false then s
      else
        let t := s.upToClk (x.start + ms (s.nvCfg f).timeoutMs)
        State.nvPost t (t.setNv f { s.ctl f with
          io := (s.ctl f).io.filter (· != x) }) f x.sq x.cid 0 0x22 []))

/-- 16 R467 to R475, R501 to R504: the REMOTE commands, remote keys and their check. Where the spec leaves a choice or a
value open, the clauses follow assumption log entry 46: there they state the model's choice. -/
def Obligations.RemoteCommands : Prop :=
  -- REMOTE.KEY_SET: the generation advances by 1 modulo 4,096 and the new key value is returned.
  (∀ (s : State) (r : Request) (k : Nat), s.asks r 0x0701 → fld r.payload 0 4 = k →
    let e := readKey r.payload
    exec .remoteKeySet s = .next (
      if r.payload.length ≠ 32 ∨ s.keyOk r.payload r.actor = false then s.taken.reply r St.badArg
      else if e.target ≠ 1 ∧ s.groves ≤ fnPort e.fn then s.taken.reply r St.notPresent
      else if s.owns r.actor 5 k = false then s.taken.reply r St.notOwner
      else if e.target ≠ 1 ∧ s.raWorks (fnPort e.fn) = false then s.taken.reply r St.internal
      else (s.taken.setRemKey k { e with
          gen := some ((s.keyGen k + 1) % 4096)
          revoking := (s.remKey k).revoking ++ (if (s.remKey k).valid then [(s.remKey k).block] else []) }).reply r 0
        (leBytes 4 (2 ^ 20 * ((s.keyGen k + 1) % 4096) + k)))) ∧
  -- R471: an empty range, a grant of package memory to a function other than the operator principal
  (∀ (s : State) (p : List Byte) (a : Nat), (fld p 24 8 ≤ fld p 16 8 ∨ (fld p 4 1 = 1 ∧ a ≠ operator) ∨ 1 < fld p 4 1) →
    s.keyOk p a = false) ∧
  -- REMOTE.KEY_GET and REMOTE.KEY_REVOKE
  (∀ (s : State) (r : Request) (k : Nat), r.payload.length = 4 → fld r.payload 0 4 = k → k < 2 ^ 20 →
    (s.asks r 0x0702 → exec .remoteKeyGet s = .next (
      if s.owns r.actor 5 k = false then s.taken.reply r St.notOwner
      else s.taken.reply r 0 ((s.remKey k).record k ++ leBytes 2 (s.keyGen k) ++
        leBytes 1 (b2n (s.remKey k).valid) ++ zeros 1))) ∧
    (s.asks r 0x0703 → exec .remoteKeyRevoke s = .next (
      if s.owns r.actor 5 k = false then s.taken.reply r St.notOwner
      else if (s.remKey k).valid = true ∧ (s.remKey k).target ≠ 1 ∧ s.raWorks (fnPort (s.remKey k).fn) = false then
        s.taken.reply r St.internal
      else (s.taken.setRemKey k { s.remKey k with
        valid := false, gen := some ((s.keyGen k + 1) % 4096)
        revoking := (s.remKey k).revoking ++ [(s.remKey k).block] }).reply r 0))) ∧
  -- KEY_REVOKE_DRAINED: EV_KEY_REVOKED fires from device source k 9 of the key's block.
  (∀ (s : State) (k : Nat), s.running = true → exec (.keyRevokeDrained k) s = .next (
    match (s.remKey k).revoking with
    | [] => s
    | b :: l => (s.setRemKey k { s.remKey k with revoking := l }).fireDev b 9 Ev.keyRevoked (BitVec.ofNat 32 k))) ∧
  -- R473: the check of a key, in its order.
  (∀ (s : State) (key a n right c : Nat) (x : Conn) (e : RemKey), s.remKey (key % 2 ^ 20) = e →
    ((e.valid = false ∨ s.keyGen (key % 2 ^ 20) ≠ key / 2 ^ 20) → s.keyCheck key a n right c x = some 3) ∧
    (e.valid = true → s.keyGen (key % 2 ^ 20) = key / 2 ^ 20 →
      (e.tenant ≠ 0xFFFF → e.tenant ≠ x.set.tenant → s.keyCheck key a n right c x = some 6) ∧
      ((e.tenant = 0xFFFF ∨ e.tenant = x.set.tenant) →
        (e.target = 0 → fnPort e.fn ≠ c / 65536 → s.keyCheck key a n right c x = some 3) ∧
        ((e.target ≠ 0 ∨ fnPort e.fn = c / 65536) →
          (bit e.rights right = false → s.keyCheck key a n right c x = some 5) ∧
          (bit e.rights right = true →
            ((a < e.low ∨ e.high < a ∨ e.high - a < n) → s.keyCheck key a n right c x = some 4) ∧
            (e.low ≤ a → a + n ≤ e.high → s.keyCheck key a n right c x = none)))))) ∧
  -- R501: EV_KEY_VIOLATION at most once in each window [t, t + 1 s).
  (∀ (s : State) (g key reason t : Nat), SMap.get s.ra.violation g = some t → s.clk < t + ms 1000 →
    s.keyViolation g key reason = s.raCtr g 12 1) ∧
  -- REMOTE.CONN_SET: its results in their order; from RESET to READY.
  (∀ (s : State) (r : Request) (c : Nat), s.asks r 0x0704 → fld r.payload 0 4 = c →
    let x := readConn r.payload
    exec .remoteConnSet s = .next (
      if r.payload.length ≠ 64 ∨ 2 ^ 20 ≤ c ∨ x.ok r.payload = false ∨ x.qp / 4096 ≠ c / 65536 then s.taken.reply r St.badArg
      else if s.groves ≤ c / 65536 then s.taken.reply r St.notPresent
      else if s.owns r.actor 2 x.qp = false ∨ ((s.conn c).state ≠ 0 ∧ s.ownsConn r.actor c = false) then
        s.taken.reply r St.notOwner
      else if (s.qpOf x.qp).set.kind ≠ 2 then s.taken.reply r St.badArg
      else if (s.conn c).state ≠ 0 then s.taken.reply r St.busy
      else if s.raWorks (c / 65536) = false then s.taken.reply r St.internal
      else (s.taken.setConn c (x.open_ s.clk)).reply r 0)) ∧
  (∀ (x : ConnSet) (t : Nat), (x.open_ t).state = 1 ∧ (x.open_ t).nextMsg = x.txStart ∧ (x.open_ t).una = x.txStart ∧
    (x.open_ t).rxBase = x.rxStart ∧ (x.open_ t).cwnd = x.maxInflight ∧ (x.open_ t).nextAsn = 0 ∧ (x.open_ t).nextSsn = 0 ∧
    (x.open_ t).recvBase = 0 ∧ (x.open_ t).posted = 0) ∧
  -- REMOTE.CONN_GET (the widths of the fields of R469 are the model's: log entry 46) and REMOTE.CONN_RESET
  (∀ (s : State) (r : Request) (c : Nat) (x : Conn), r.payload.length = 4 → fld r.payload 0 4 = c → c < 2 ^ 20 → s.conn c = x →
    let on (k : State) := if s.groves ≤ c / 65536 then s.taken.reply r St.notPresent
      else if s.ownsConn r.actor c = false then s.taken.reply r St.notOwner else k
    let u := (s.connJobs c).foldl (fun v j => v.endJob x.set.qp j St.queueError 12 0) s.taken
    (s.asks r 0x0705 → exec .remoteConnGet s = .next (on (s.taken.reply r 0 (x.set.record c ++ leBytes 1 x.state ++
      leBytes 1 x.reason ++ zeros 2 ++ leBytes 4 x.nextMsg.toNat ++ leBytes 4 x.una.toNat ++ leBytes 4 x.nextAsn.toNat ++
      leBytes 4 x.asnUna.toNat ++ leBytes 4 x.nextSsn.toNat ++ leBytes 4 x.cwnd ++ leBytes 4 x.rxBase.toNat ++
      leBytes 4 x.recvBase.toNat ++ leBytes 4 x.posted)))) ∧
    (s.asks r 0x0706 → exec .remoteConnReset s = .next (on (
      if s.raWorks (c / 65536) = false then s.taken.reply r St.internal
      else { u with ra := { u.ra with conns := SMap.del u.ra.conns c } }.reply r 0)))) ∧
  -- REMOTE.ENGINE_SET, for the operator principal alone: the addresses are little-endian numbers.
  (∀ (s : State) (r : Request) (g : Nat), s.asks r 0x0707 → r.payload.length = 32 → fld r.payload 0 1 = g → g < 16 →
    fld r.payload 1 1 = 0 → fld r.payload 10 2 = 0 → exec .remoteEngineSet s = .next (
      if s.groves ≤ g then s.taken.reply r St.notPresent
      else if r.actor ≠ operator then s.taken.reply r St.notOwner
      else if s.groveFailed g = true then s.taken.reply r St.internal
      else s.taken.replyCfg { s.taken with cfg := { s.cfg with
        remote := SMap.set s.cfg.remote g ⟨fld r.payload 2 2, slice r.payload 4 6, (slice r.payload 12 4).reverse,
          (slice r.payload 16 16).reverse⟩ } } r)) ∧
  -- REMOTE.STATS
  (∀ (s : State) (r : Request) (g : Nat), s.asks r 0x0708 → r.payload.length = 4 → fld r.payload 0 1 = g → g < 16 →
    fld r.payload 1 3 = 0 → exec .remoteStats s = .next (
      if s.groves ≤ g then s.taken.reply r St.notPresent
      else s.taken.reply r 0 (ctrBytes (SMap.getD s.ra.ctrs g []) 22)))

/-- 16 R468, R480, R485, R492 to R495: the requester's side. Where the spec leaves a choice or a value open, the clauses
follow assumption log entry 46: there they state the model's choice. -/
def Obligations.RemoteRequests : Prop :=
  -- REMOTE_WRITE, REMOTE_READ, REMOTE_SEND, ATOMIC_ADD, CAS64 and CAS128 start the message of their job.
  (∀ (s : State) (q : Nat) (t : BitVec 32), s.running = true →
    exec (.remoteWrite q t) s = .next (s.raRequest q t 0x20) ∧ exec (.remoteRead q t) s = .next (s.raRequest q t 0x21) ∧
    exec (.remoteSend q t) s = .next (s.raRequest q t 0x22) ∧ exec (.atomicAdd q t) s = .next (s.raRequest q t 0x24) ∧
    exec (.cas64 q t) s = .next (s.raRequest q t 0x25) ∧ exec (.cas128 q t) s = .next (s.raRequest q t 0x26)) ∧
  -- The job's local read has failed: what was read is sent and its connection fails. Else it ends at once, waits for the limits of its connection, or its message is sent.
  (∀ (s : State) (q op : Nat) (t : BitVec 32), s.raRequest q t op =
    match s.cutJob q t op, s.readyJob q t op with
    | some (j, st, d), _ => s.raCut q t j st d
    | none, none => s
    | none, some j =>
      let c := dConn (j.descs.headD 0)
      let x := s.conn c
      let m := x.message j s.clk
      match s.jobRefusal q j c with
      | some (st, d) => s.endJob q t st d 0
      | none =>
        if s.maySource (c / 65536) = true ∧ x.mayStart m = true ∧ s.jobWaits q j c = false then
          ((s.markActed q j).setConn c { x with
            nextMsg := x.nextMsg + 1, nextAsn := if m.isAtomic then x.nextAsn + 1 else x.nextAsn
            nextSsn := if op = 0x22 then x.nextSsn + 1 else x.nextSsn, txPsn := (x.txPsn + m.psns x.set.seg) % 2 ^ 24
            tx := x.tx ++ [m] }).transmit c m false
        else s) ∧
  -- R485: no message starts at 1,024 outstanding, and no atomic at 256.
  (∀ (x : Conn) (m : TxMsg), 1024 ≤ sdiff x.nextMsg x.una → x.mayStart m = false) ∧
  (∀ (x : Conn) (m : TxMsg), m.isAtomic = true → 256 ≤ sdiff x.nextAsn x.asnUna → x.mayStart m = false) ∧
  -- R468: a job whose connection is not READY, or is bound to another queue pair, ends at once. R500: no CAS128 in RoCEv2.
  (∀ (s : State) (q c : Nat) (j : Job), ((s.conn c).state ≠ 1 → s.jobRefusal q j c = some (St.queueError, 0)) ∧
    ((s.conn c).state = 1 → (s.conn c).set.qp ≠ q → s.jobRefusal q j c = some (St.notOwner, 0)) ∧
    ((s.conn c).state = 1 → (s.conn c).set.qp = q → (s.conn c).set.transport = 1 → dOp (j.descs.headD 0) = 0x26 →
      s.jobRefusal q j c = some (St.badArg, 9))) ∧
  -- RECV_POST: the buffer joins the receive list, which holds 1,024.
  (∀ (s : State) (q : Nat) (t : BitVec 32), s.running = true → exec (.recvPost q t) s = .next (
    match s.readyJob q t 0x23 with
    | none => s
    | some j =>
      let c := dConn (j.descs.headD 0)
      let x := s.conn c
      match s.jobRefusal q j c with
      | some (st, d) => s.endJob q t st d 0
      | none =>
        if 1024 ≤ x.posted then s.endJob q t St.noSpace 0 0
        else (s.setConn c { x with bufs := x.bufs ++ [j.segs] }).endJob q t 0 0
          (BitVec.ofNat 64 ({ x with bufs := x.bufs ++ [j.segs] } : Conn).posted))) ∧
  -- R492, RETRANSMIT_TIMEOUT: sent again, RETRY_LIMIT times.
  (∀ (s : State) (c i : Nat), s.running = true → exec (.retransmitTimeout c i) s = .next (
    match (s.conn c).msg (BitVec.ofNat 32 i) with
    | none => s
    | some m =>
      let u := s.upToClk m.deadline
      if (s.conn c).state = 1 ∧ m.resendAt = none then
        if m.r < (s.conn c).set.retryLimit then u.resend c { m with r := m.r + 1 } else u.settleFail c m 2
      else s)) ∧
  -- R493: an RNR counts against RNR_LIMIT; RNR_DELAY_EXPIRY sends the message again.
  (∀ (s : State) (c d : Nat) (m : TxMsg), ((s.conn c).set.rnrLimit = 7 ∨ m.rnr < (s.conn c).set.rnrLimit) →
    s.rnrTaken c m d = (s.raCtr (c / 65536) 8 1).setMsg c { m with rnr := m.rnr + 1, resendAt := some (s.clk + d) }) ∧
  (∀ (s : State) (c d : Nat) (m : TxMsg), (s.conn c).set.rnrLimit ≠ 7 → (s.conn c).set.rnrLimit ≤ m.rnr →
    s.rnrTaken c m d = (s.raCtr (c / 65536) 8 1).settleFail c { m with rnr := m.rnr + 1 } 1) ∧
  (∀ (s : State) (c i : Nat), s.running = true → exec (.rnrDelayExpiry c i) s = .next (
    match (s.conn c).msg (BitVec.ofNat 32 i) with
    | none => s
    | some m => match m.resendAt with | none => s | some t => (s.upToClk t).resend c m)) ∧
  -- R468: a message that fails takes its connection to ERROR with its reason.
  (∀ (s : State) (c i : Nat), (s.conn c).state = 1 → ((s.connFail c i).conn c).state = 2 ∧
    ((s.connFail c i).conn c).reason = i ∧ ((s.connFail c i).conn c).tx = []) ∧
  -- R494: CWND is cut at most once in a window, and CWND_WINDOW raises it after a window without ECE.
  (∀ (s : State) (c : Nat), (s.conn c).cutAt = none →
    ((s.cutWindow c).conn c).cwnd = max ((s.conn c).cwnd / 2) (s.conn c).set.seg) ∧
  (∀ (s : State) (c t : Nat), (s.conn c).cutAt = some t → s.clk < t + us (s.conn c).set.rtoUs →
    ((s.cutWindow c).conn c).cwnd = (s.conn c).cwnd) ∧
  (∀ (s : State) (c : Nat), s.running = true → let x := s.conn c
    exec (.cwndWindow c) s = .next (
      if x.state = 1 then
        (s.upToClk (x.window + us x.set.rtoUs)).setConn c { x with
          window := x.window + us x.set.rtoUs, eceSeen := false
          cwnd := if x.eceSeen then x.cwnd else min x.set.maxInflight (x.cwnd + x.set.seg) }
      else s))

/-- 16 R486 to R491, R495, R496, R500: packets that an engine takes. Where the spec leaves a choice or a value open, the
clauses follow assumption log entries 46 and 47: there they state the model's choice. -/
def Obligations.RemotePackets : Prop :=
  -- Each packet row processes the packet at the head of the engine's input when it is of its type; the packet then leaves the input, unless it waits for a translation or a tag.
  (∀ (s : State) (g : Nat) (p : NetPkt) (l : List NetPkt), s.raHolds g p l →
    let row (mine : Bool) (a : State × Bool) : State := if mine then (if a.2 then a.1.raLeft g l else a.1) else s
    exec (.writePacketReceive g) s = .next (row (isMra 1 p) (s.request p State.repeatAnswer State.rxWrite)) ∧
    exec (.sendPacketReceive g) s = .next (row (isMra 4 p) (s.request p State.repeatAnswer State.rxSend)) ∧
    (∀ a : List HostCpl,
      exec (.readReqReceive g a) s = .next (row (isMra 2 p) (s.request p (State.rxRead a true) (State.rxRead a false))) ∧
      exec (.atomicReqReceive g a) s = .next (row (isMra 5 p) (s.request p State.atomicAgain (State.rxAtomic a))) ∧
      exec (.rocev2PacketReceive g a) s = .next (row p.roce (s.roceTaken a p))) ∧
    -- The requester takes READ_RESP, ATOMIC_RESP, ACK and NAK of its outstanding messages.
    exec (.readRespReceive g) s = .next (row (isMra 3 p) (s.answered p fun s c h b =>
      match ((s.conn c).msg h.id).filter (·.op == 0x21) with
      | some m => s.readBytes c m (h.off / (s.conn c).set.seg) h.off b
      | none => (s.raCtr g 9 1, true))) ∧
    exec (.atomicRespReceive g) s = .next (row (isMra 6 p) (s.answered p fun s c h b =>
      match ((s.conn c).msg h.id).filter fun m => m.isAtomic && m.asn == h.imm && b.length == (if m.op = 0x26 then 16 else 8) with
      | some m => s.atomicBytes c m b
      | none => (s, true))) ∧
    exec (.ackReceive g) s = .next (row (isMra 7 p) (s.answered p fun s c h _ =>
      match ((s.conn c).msg h.id).filter fun m => m.op == 0x20 || m.op == 0x22 with
      | some m => (s.settle c m 0 0 m.idData, true)
      | none => (s, true))) ∧
    exec (.nakReceive g) s = .next (row (isMra 8 p) (s.answered p fun s c h _ =>
      if h.sub = 0 ∨ h.sub = 2 ∨ 10 < h.sub then (s.raCtr g 14 1, true)
      else match (s.conn c).msg h.id with
        | some m => (if h.sub = 1 then s.rnrTaken c m (us (s.conn c).set.rnrDelayUs) else s.nakTaken c m h.sub, true)
        | none => (s, true)))) ∧
  (∀ (s : State) (g : Nat), s.running = true → (SMap.getD s.ra.inq g [] = [] ∨ s.maySource g = false ∨ s.raWorks g = false) →
    exec (.writePacketReceive g) s = .next s ∧ exec (.sendPacketReceive g) s = .next s ∧ exec (.readRespReceive g) s = .next s ∧
    exec (.atomicRespReceive g) s = .next s ∧ exec (.ackReceive g) s = .next s ∧ exec (.nakReceive g) s = .next s ∧
    ∀ a : List HostCpl, exec (.readReqReceive g a) s = .next s ∧ exec (.atomicReqReceive g a) s = .next s ∧
      exec (.rocev2PacketReceive g a) s = .next s) ∧
  -- R486: a request of an ended message is repeated, and one outside the window is dropped; what of its connection has expired goes first.
  (∀ (s : State) (p : NetPkt) (k b : State → Nat → Mra → List Byte → State × Bool),
    let h := readMra p.bytes
    let c := h.dest
    let u := s.expireLate c
    let v := if p.ce then u.setConn c { u.conn c with ece := true } else u
    let x := v.conn c
    s.request p k b =
      if (s.conn c).state = 0 then (s.raCtr (c / 65536) 15 1, true)
      else if x.state = 2 then (v.answer c h 8, true)
      else if sdiff h.id x.rxBase < -1024 ∨ 1024 ≤ sdiff h.id x.rxBase then (v.raCtr (c / 65536) 17 1, true)
      else if sdiff h.id x.rxBase < 0 ∨ (SMap.get x.ended h.id.toNat).isSome = true then
        k (v.raCtr (c / 65536) 10 1) c h (p.bytes.drop 40)
      else b v c h (p.bytes.drop 40)) ∧
  -- An answer on a connection that is READY: one past its deadline comes after the timeout, and ECE cuts the window.
  (∀ (s : State) (p : NetPkt) (k : State → Nat → Mra → List Byte → State × Bool),
    let h := readMra p.bytes
    let c := h.dest
    let u := if p.ce then s.setConn c { s.conn c with ece := true } else s
    let v := u.lateFirst c h.id
    s.answered p k =
      if (s.conn c).state = 1 then k (if h.ece then v.cutWindow c else v) c h (p.bytes.drop 40) else (s, true)) ∧
  -- R487: a WRITE that R473 refuses ends with a NAK; without a free context the packet is dropped; a packet whose bit is set is not placed, and one that is new is.
  (∀ (s : State) (c : Nat) (h : Mra) (b : List Byte),
    let x := s.conn c
    let i := h.off / x.set.seg
    let old := x.ctxs.find? (·.id == h.id)
    s.rxWrite c h b =
      match s.keyCheck h.rkey (h.addr + h.off) b.length 1 c x with
      | some r => ((s.keyViolation (c / 65536) h.rkey r).nakRx c h r, true)
      | none =>
        if old = none ∧ 16384 ≤ s.contexts (c / 65536) then (s.noContext (c / 65536), true)
        else if old = none ∧ h.notify = true ∧ s.canReserve x.set.qp = false then (s.answer c h 1, true)
        else match old.filter (·.seen.contains i) with
          | some m => (s.dupPacket c m, true)
          | none =>
            match s.raWrite (c / 65536) (s.remKey (h.rkey % 2 ^ 20)) (h.addr + h.off) b with
            | (u, .waits) => (u, false)
            | (u, .rnr) => (u.answer c h 1, true)
            | (u, .fault r) => (u.nakRx c h r, true)
            | (u, .ok) =>
              let m : RxMsg := { id := h.id, kind := 1, total := h.total, last := u.clk, notify := h.notify, imm := h.imm }
              match old with
              | some m => (u.placed c h m i b.length, true)
              | none =>
                if h.notify then
                  ((u.reserve x.set.qp 0x3F h.imm).2.placed c h { m with slot := some (u.reserve x.set.qp 0x3F h.imm).1 } i b.length,
                    true)
                else (u.placed c h m i b.length, true)) ∧
  -- A message ends with the last of its distinct bytes.
  (∀ (s : State) (c i n : Nat) (h : Mra) (m : RxMsg),
    (m.got + n ≠ m.total → s.placed c h m i n = s.setConn c { s.conn c with
      ctxs := (s.conn c).ctxs.filter (·.id != m.id) ++
        [{ m with seen := i :: m.seen, got := m.got + n, last := s.clk }] }) ∧
    (m.got + n = m.total → m.slot = none → s.placed c h m i n = (s.endRx c h.id 0 none).answer c h 0)) ∧
  -- R488: a context expires 100 ms after its last packet.
  (∀ (s : State) (c i : Nat), s.running = true → exec (.contextExpiry c i) s = .next (
    match (s.conn c).ctxs.find? (·.id == BitVec.ofNat 32 i) with
    | none => s
    | some m => ((s.upToClk (m.last + ms 100)).endRx c m.id 8 (m.failed c 8)).raCtr (c / 65536) 19 1)) ∧
  -- R495: a SEND takes the buffer of its number; one that does not exist yet is answered with RNR, and one too small with a NAK.
  (∀ (s : State) (c : Nat) (h : Mra) (b : List Byte),
    let x := s.conn c
    let k := sdiff (BitVec.ofNat 32 h.addr) x.recvBase
    let buf := x.bufs.getD k.toNat []
    let r := (s.setConn c (x.consume k.toNat)).reserve x.set.qp 0x3E h.imm
    let y := r.2.conn c
    let m : RxMsg := { id := h.id, kind := 4, total := h.total, last := s.clk, imm := h.imm, slot := some r.1, buf := buf }
    s.rxSend c h b =
      match x.ctxs.find? (·.id == h.id) with
      | some m => s.sendBytes c h m b
      | none =>
        if k < 0 ∨ (k.toNat < x.bufs.length ∧ buf = []) then (s.raCtr (c / 65536) 14 1, true)
        else if x.bufs.length ≤ k.toNat then (s.answer c h 1, true)
        else if 16384 ≤ s.contexts (c / 65536) then (s.noContext (c / 65536), true)
        else if s.canReserve x.set.qp = false then (s.answer c h 1, true)
        else if bufSize buf < h.total then
          ((r.2.endRx c h.id 10 (some ⟨h.id, r.1, ⟨recvData c h.total, h.imm, St.badArg, 0, 10⟩⟩)).answer c h 10, true)
        else (r.2.setConn c { y with ctxs := y.ctxs ++ [m] }).sendBytes c h m b) ∧
  (∀ (s : State) (c : Nat) (h : Mra) (m : RxMsg) (b : List Byte), s.sendBytes c h m b =
    if m.seen.contains (h.off / (s.conn c).set.seg) = true then (s.dupPacket c m, true)
    else match s.localWrite (s.conn c).set.qp (spreadOver m.buf h.off b) with
      | (u, .waits) => (u, false)
      | (u, .ok) => (u.placed c h m (h.off / (s.conn c).set.seg) b.length, true)
      | (u, _) => (u.nakRx c h 7, true)) ∧
  -- R490: a READ is checked and answered with its data; one of a message that has ended is answered again.
  (∀ (s : State) (c : Nat) (h : Mra) (b : List Byte) (a : List HostCpl) (dup : Bool),
    let nak (s : State) (r : Nat) : State := if dup then s.answer c h r else s.nakRx c h r
    s.rxRead a dup c h b =
      match s.keyCheck h.rkey h.addr h.total 0 c (s.conn c) with
      | some r => (nak (s.keyViolation (c / 65536) h.rkey r) r, true)
      | none =>
        match s.raRead (c / 65536) (s.remKey (h.rkey % 2 ^ 20)) h.addr h.total a with
        | ((u, .waits), _) => (u, false)
        | ((u, .rnr), _) => (u.answer c h 1, true)
        | ((u, .fault r), _) => (nak u r, true)
        | ((u, .ok), d) => (if dup then u.readAnswer c h d else (u.readAnswer c h d).endRx c h.id 0 none, true)) ∧
  -- R489: an atomic is checked, executed once, and answered with the old value; what it leaves is the sum, or the new value where the old one compares equal.
  (∀ (s : State) (c : Nat) (h : Mra) (b : List Byte) (a : List HostCpl), let w := if h.sub = 3 then 16 else 8
    s.rxAtomic a c h b =
      if h.sub = 0 ∨ 3 < h.sub then (s.nakRx c h 9, true)
      else if b.length ≠ (if h.sub = 1 then 8 else 2 * w) then (s.raCtr (c / 65536) 14 1, true)
      else match s.keyCheck h.rkey h.addr w 2 c (s.conn c) with
        | some r => ((s.keyViolation (c / 65536) h.rkey r).nakRx c h r, true)
        | none =>
          if h.addr % w ≠ 0 then (s.nakRx c h 9, true)
          else match s.raAtomic (c / 65536) (s.remKey (h.rkey % 2 ^ 20)) h.addr h.sub w b a with
            | ((u, .waits), _) => (u, false)
            | ((u, .rnr), _) => (u.answer c h 1, true)
            | ((u, .fault r), _) => (u.nakRx c h r, true)
            | ((u, .ok), old) => (u.atomicDone c h old, true)) ∧
  (∀ (w : Nat) (old cmp new : List Byte), cmp.length = w → atomicNew 1 8 old cmp = leBytes 8 (leNat old + leNat cmp) ∧
    (old = cmp → atomicNew 2 w old (cmp ++ new) = new) ∧ (old ≠ cmp → atomicNew 2 w old (cmp ++ new) = old)) ∧
  -- R490: READ_RESP bytes under the requester's own bitmap; an atomic's old value goes to its result address.
  (∀ (s : State) (c i o : Nat) (m : TxMsg) (b : List Byte), s.readBytes c m i o b =
    if m.seen.contains i = true then (s.raCtr (c / 65536) 9 1, true)
    else match (s.qpOf (s.conn c).set.qp).job m.slot with
      | none => (s, true)
      | some j =>
        match s.localWrite (s.conn c).set.qp (spreadOver j.segs o b) with
        | (u, .waits) => (u, false)
        | (u, .ok) =>
          if m.got + b.length = m.total then
            (u.settle c { m with seen := i :: m.seen, got := m.got + b.length } St.ok 0 m.idData, true)
          else (u.setMsg c { m with seen := i :: m.seen, got := m.got + b.length }, true)
        | (u, _) => (u.settleFail c m 11, true)) ∧
  (∀ (s : State) (c : Nat) (m : TxMsg) (b : List Byte), s.atomicBytes c m b =
    match (s.qpOf (s.conn c).set.qp).job m.slot with
    | none => (s, true)
    | some j =>
      match s.localWrite (s.conn c).set.qp [(resultAddr m.op j.descs, b)] with
      | (u, .waits) => (u, false)
      | (u, .ok) => (u.settle c m St.ok 0 (if m.op = 0x26 then m.idData else BitVec.ofNat 64 (leNat b)), true)
      | (u, _) => (u.settleFail c m 11, true)) ∧
  -- R500: packet numbers in order; an out-of-sequence packet is answered with a sequence-error NAK.
  (∀ (s : State) (c : Nat) (a : List HostCpl) (b : List Byte), (s.conn c).state = 1 →
    (0 < psnDiff (nfld b 9 3) (s.conn c).rxPsn → s.roceRequest c a b = (s.roceAck c (s.conn c).rxPsn 0x60, true)) ∧
    (psnDiff (nfld b 9 3) (s.conn c).rxPsn < 0 → s.roceRequest c a b = s.roceAgain c a b)) ∧
  (∀ (s : State) (a : List HostCpl) (p : NetPkt), let c := nfld p.bytes 5 3
    let op := nfld p.bytes 0 1
    let u := if p.ce then s.sendCnp c else s
    s.roceTaken a p =
      if (s.conn c).state = 0 then (s.raCtr (c / 65536) 15 1, true)
      else if op = 0x81 then (if (s.conn c).state = 1 then s.cutWindow c else s, true)
      else if op ≤ 0x0C ∨ op = 0x13 ∨ op = 0x14 then u.roceRequest c a p.bytes
      else if op ≤ 0x12 then u.roceResponse c p.bytes
      else (u.raCtr (c / 65536) 14 1, true)) ∧
  (∀ (s : State) (c t : Nat), (s.conn c).lastCnp = some t → s.clk < t + us 50 → s.sendCnp c = s)

/-- 17 R513 to R517, R526, R527, R534, R535: the CIPHER commands, keys and security associations. Where the spec leaves a
choice or a value open, the clauses follow assumption log entry 48: there they state the model's choice. -/
def Obligations.CipherCommands : Prop :=
  -- CIPHER.KEY_SET: its results in their order; the lowest free index, its generation raised by 1 modulo 4,096.
  (∀ (s : State) (r : Request), s.asks r 0x0801 →
    let p := r.payload
    let alg := fld p 0 1
    let use := fld p 1 1
    let formed := p.length = 88 ∧ 1 ≤ alg ∧ alg ≤ 5 ∧ (use = 1 ∨ ((use = 2 ∨ use = 4) ∧ alg ≤ 3)) ∧ fld p 2 1 ≤ 1 ∧
      fld p 3 1 = 0 ∧ (fld p 2 1 = 1 ∨ materialOk alg use (slice p 4 64) (slice p 68 12) (fld p 80 8) = true)
    exec .cipherKeySet s = .next (
      if s.hasCipher = false then s.taken.reply r St.notPresent
      else if ¬formed then s.taken.reply r St.badArg
      else if fld p 2 1 = 1 ∧ s.nv.owk.isSome = false then s.taken.reply r St.denied
      else match keyMaterial s.nv.owk p, s.freeKey with
      | none, _ => s.taken.reply r St.badAuth
      | some (key, iv, seq), free =>
        if materialOk alg use key iv seq = false then s.taken.reply r St.badArg
        else match free with
        | none => s.taken.reply r St.noSpace
        | some i => (s.taken.setCKey i {
            valid := true, gen := some ((s.ckeyGen i + 1) % 4096), alg := alg, use := use, key := key.take (keyBytes alg)
            iv := iv, seq := seq, owner := r.actor }).reply r 0 (leBytes 4 (2 ^ 20 * ((s.ckeyGen i + 1) % 4096) + i)))) ∧
  -- What a payload carries: a clear key, or one wrapped under the operator's wrap key.
  (∀ (w : Option (BitVec 256)) (p : List Byte), fld p 2 1 = 0 →
    keyMaterial w p = some (slice p 4 64, slice p 68 12, fld p 80 8)) ∧
  (∀ (k : BitVec 256) (p : List Byte), fld p 2 1 = 1 →
    keyMaterial none p = none ∧
    keyMaterial (some k) p = match Config.keyUnwrap k (slice p 4 72) with
      | none => none
      | some b => some ((b ++ zeros 64).take 64, slice p 76 12, 0)) ∧
  -- R514: an XTS key whose two halves are equal
  (∀ (alg : Nat) (a iv : List Byte), 4 ≤ alg → alg ≤ 5 → a.length = keyBytes alg / 2 →
    materialOk alg 1 (a ++ a) iv 0 = false) ∧
  -- Index 0 is never used.
  (∀ (s : State) (i : Nat), s.freeKey = some i → 1 ≤ i ∧ i < 2 ^ 20 ∧ s.ckeyFree i = true) ∧
  -- CIPHER.KEY_GET and CIPHER.KEY_DESTROY: each for the key's owner or the operator principal.
  (∀ (s : State) (r : Request) (h : Nat), r.payload.length = 4 → fld r.payload 0 4 = h →
    let on (f : CKey → State) := if s.hasCipher = false then s.taken.reply r St.notPresent
      else match s.keyNamed h with
      | none => s.taken.reply r St.notFound
      | some k => if r.actor ≠ operator ∧ k.owner ≠ r.actor then s.taken.reply r St.notOwner else f k
    (s.asks r 0x0802 → exec .cipherKeyGet s = .next (on fun k => s.taken.reply r 0
      (leBytes 1 k.alg ++ leBytes 1 k.use ++ leBytes 1 (b2n k.destroying) ++ zeros 1 ++ leBytes 8 k.seq))) ∧
    (s.asks r 0x0803 → exec .cipherKeyDestroy s = .next (on fun k =>
      if (s.ci.sas.any fun a => a.2.valid && a.2.handle == h) = true ∨
          (s.cfg.namespaces.any fun n => n.2.kind != 0 && n.2.keyHandle == h) = true then s.taken.reply r St.busy
      else (s.taken.setCKey (h % 2 ^ 20) { k with valid := false, destroying := true }).reply r 0))) ∧
  -- KEY_ENTRY_ZEROIZE: once no message uses the key, nothing of it but the generation of its index stays.
  (∀ (s : State) (i : Nat), s.running = true →
    let k := SMap.getD s.ci.keys i {}
    exec (.keyEntryZeroize i) s = .next (
      if k.destroying = true ∧ s.keyUsed i k.gen = false then s.setCKey i { gen := k.gen } else s)) ∧
  -- CIPHER.SA_SET, CIPHER.SA_GET and CIPHER.SA_DESTROY
  (∀ (s : State) (r : Request) (a : Nat), s.asks r 0x0804 → fld r.payload 0 4 = a →
    exec .cipherSaSet s = .next (
      if s.hasCipher = false then s.taken.reply r St.notPresent
      else if r.payload.length ≠ 105 ∨ saOk r.payload = false then s.taken.reply r St.badArg
      else if s.groves ≤ a / 65536 then s.taken.reply r St.notPresent
      else if s.owns r.actor 6 (saPart a) = false then s.taken.reply r St.notOwner
      else if s.groveFailed (a / 65536) = true then s.taken.reply r St.internal
      else match s.cipherKey (readSa r.payload).handle with
      | none => s.taken.reply r St.notFound
      | some k =>
        if k.owner ≠ r.actor then s.taken.reply r St.notOwner
        else if k.use ≠ 2 then s.taken.reply r St.badArg
        else if (s.sa a).valid = true then s.taken.reply r St.exists_
        else (s.taken.setSa a (readSa r.payload)).reply r 0)) ∧
  (∀ (s : State) (r : Request) (a : Nat) (x : Sa), r.payload.length = 4 → fld r.payload 0 4 = a → a < 2 ^ 20 → s.sa a = x →
    let on (k : State) := if s.hasCipher = false then s.taken.reply r St.notPresent
      else if s.groves ≤ a / 65536 then s.taken.reply r St.notPresent
      else if s.owns r.actor 6 (saPart a) = false then s.taken.reply r St.notOwner else k
    (s.asks r 0x0805 → exec .cipherSaGet s = .next (on (s.taken.reply r 0 (leBytes 4 a ++ leBytes 1 (b2n x.inbound) ++
      leBytes 1 (b2n x.tunnel) ++ leBytes 1 (b2n x.esn) ++ leBytes 1 x.l3Toff ++ leBytes 4 x.handle ++ beBytes 4 x.spi ++
      leBytes 8 x.seq ++ leBytes 8 x.lifeSoft ++ leBytes 8 x.lifeHard ++ leBytes 1 x.template.length ++
      leBytes 1 (b2n x.valid) ++ leBytes 1 (b2n x.stopped) ++ zeros 2 ++ leBytes 8 x.protected_)))) ∧
    (s.asks r 0x0806 → exec .cipherSaDestroy s = .next (on (
      if s.groveFailed (a / 65536) = true then s.taken.reply r St.internal
      else { s.taken with ci := { s.ci with sas := SMap.del s.ci.sas a } }.reply r 0)))) ∧
  -- CIPHER.QP_BIND: URGENT only for the suspendable class, and a class with engines in the grove.
  (∀ (s : State) (r : Request) (q k u : Nat), s.asks r 0x0807 → r.payload.length = 4 →
    fld r.payload 0 2 = q → fld r.payload 2 1 = k → k ≤ 1 → fld r.payload 3 1 = u → u ≤ 1 →
    exec .cipherQpBind s = .next (
      if s.hasCipher = false ∨ s.qpPresent q = false then s.taken.reply r St.notPresent
      else if s.owns r.actor 2 q = false then s.taken.reply r St.notOwner
      else if (s.qpOf q).state ≠ 1 then s.taken.reply r St.busy
      else if (s.qpOf q).set.kind ≠ 3 ∨ (k = 0 ∧ u = 1) ∨ s.modeShare (q / 4096) (k == 1) = 0 then s.taken.reply r St.badArg
      else if s.groveFailed (q / 4096) = true then s.taken.reply r St.internal
      else (s.taken.setQp q { s.qpOf q with cipherClass := if k = 1 then 1 + u else 0 }).reply r 0)) ∧
  -- CIPHER.ENGINE_SET: the setting changes, and no engine does before the next start.
  (∀ (s : State) (r : Request) (m n : Nat), s.asks r 0x0808 → r.payload.length = 4 →
    fld r.payload 0 2 = m → fld r.payload 2 1 = n → n ≤ 4 → fld r.payload 3 1 = 0 →
    exec .cipherEngineSet s = .next (
      if s.hasCipher = false then s.taken.reply r St.notPresent
      else if m = 0 then s.taken.reply r St.badArg
      else if (maskGroves m).all (· < s.groves) = false then s.taken.reply r St.notPresent
      else if s.groveGate r.actor (maskGroves m) = false then s.taken.reply r St.notOwner
      else if (maskGroves m).any s.groveFailed = true then s.taken.reply r St.internal
      else s.taken.replyCfg { s.taken with cfg := { s.cfg with
        suspendable := (maskGroves m).foldl (fun l g => SMap.set l g n) s.cfg.suspendable } } r)) ∧
  -- CIPHER.STATS
  (∀ (s : State) (r : Request) (g : Nat), s.asks r 0x0809 → r.payload.length = 4 →
    fld r.payload 0 1 = g → g < 16 → fld r.payload 1 3 = 0 → exec .cipherStats s = .next (
      if s.hasCipher = false ∨ s.groves ≤ g then s.taken.reply r St.notPresent
      else s.taken.reply r 0 (ctrBytes (SMap.getD s.ci.ctrs g []) 16)))

/-- 17 R507 to R512, R517 to R533: messages on the engines, and inline ESP. Where the spec leaves a choice or a value
open, the clauses follow assumption log entry 48: there they state the model's choice. -/
def Obligations.CipherMessages : Prop :=
  -- AEAD_SEAL, AEAD_OPEN, XTS_ENC, XTS_DEC, TLS_SEAL and TLS_OPEN open the message of their job.
  (∀ (s : State) (q : Nat) (t : BitVec 32), s.running = true →
    exec (.aeadSeal q t) s = .next (s.openJob q t 0x40) ∧ exec (.aeadOpen q t) s = .next (s.openJob q t 0x41) ∧
    exec (.xtsEnc q t) s = .next (s.openJob q t 0x42) ∧ exec (.xtsDec q t) s = .next (s.openJob q t 0x43) ∧
    exec (.tlsSeal q t) s = .next (s.openJob q t 0x44) ∧ exec (.tlsOpen q t) s = .next (s.openJob q t 0x45)) ∧
  -- On the live engine of its class with the fewest bytes queued: it is refused without one, waits while the engine can open none, is refused where its output cannot be held, and is opened else.
  (∀ (s : State) (q op : Nat) (t : BitVec 32), s.openJob q t op =
    let g := q / 4096
    let c := (s.qpOf q).cipherClass
    match s.readyJob q t op, s.leastQueued g (s.engines g (c != 0)) with
    | none, _ => s
    | some _, none => s.refuseCipher q t St.aborted 3
    | some j, some e =>
      if s.mayOpen g e (c == 2) false (op == 0x41) = false then s
      else if (c = 0 ∧ 524288 < heldBytes false j.descs) ∨ (c = 1 ∧ 458752 < heldBytes true j.descs) ∨
        (2 ≤ c ∧ 65536 < heldBytes true j.descs) then s.refuseCipher q t St.tooLong 2
      else (((s.markActed q j).setEngine g e { s.engine g e with
        msgs := s.openMsgs g e ++ [{ msg := .job q t, urgent := c == 2, op := op - 0x40, index := keyHandle j.descs % 2 ^ 20
                                     key := s.cipherEntry (keyHandle j.descs), seq := j.seq, total := j.data.length }]
        }).ciCtr g 0 1).ciCtr g 1 j.data.length) ∧
  (∀ (s : State) (g e f : Nat) (l : List Nat), s.leastQueued g l = some e → f ∈ l →
    e ∈ l ∧ (s.engine g e).queued ≤ (s.engine g f).queued) ∧
  -- R507, R508: what an engine may open.
  (∀ (s : State) (g e : Nat) (f : Bool), (s.engine g e).suspendable = true →
    (s.mayOpen g e true f false = true ↔ ((s.openMsgs g e).any (·.urgent)) = false ∧ (s.openMsgs g e).length < 64) ∧
    (s.mayOpen g e false f true = true ↔ (s.openMsgs g e).length ≤ 62 ∧
      ((s.openMsgs g e).any fun m => !m.urgent && m.op == 1) = false) ∧
    (s.mayOpen g e false f false = true ↔ (s.openMsgs g e).length ≤ 62)) ∧
  (∀ (s : State) (g e : Nat) (u f a : Bool), (s.engine g e).suspendable = false →
    (s.mayOpen g e u f a = true ↔ (s.engine g e).running = [] ∧ (f = true ∨ s.cipherWaiting g e = []))) ∧
  -- R509, URGENT_PREEMPT: for an urgent message the oldest bulk message stops at a block boundary and is saved in its slot; no block is lost.
  (∀ (s : State) (g e n : Nat), s.running = true →
    let x := s.engine g e
    exec (.urgentPreempt g e n) s = .next (
      if x.suspendable = true ∧ (x.running.any (·.urgent) = true ∨ s.cipherWaiting g e ≠ []) then
        match x.msgs.find? CMsg.bulk with
        | none => s
        | some m =>
          match m.msg, m.suspended with
          | .frame _, _ => s
          | .job _ _, true => s
          | .job q t, false =>
            match (s.qpOf q).job t with
            | none => s
            | some j =>
              let d := max m.doneBytes (min (n / 16 * 16) m.total)
              (s.setEngine g e { x with msgs := updateFirst CMsg.bulk (fun _ => { m with
                suspended := true, doneBytes := d
                slot := m.saved j.descs j.data d (min (d - aadLen j.descs) (heldBytes true j.descs)) }) x.msgs }).ciCtr g 4 1
      else s)) ∧
  -- BULK_RESUME: the oldest bulk message goes on once no urgent message is open.
  (∀ (s : State) (g e : Nat), s.running = true →
    let x := s.engine g e
    exec (.bulkResume g e) s = .next (
      if x.running.any (·.urgent) = true then s
      else s.setEngine g e { x with msgs := updateFirst CMsg.bulk (fun m => { m with suspended := false }) x.msgs })) ∧
  -- The first message of a kind changes, and no other.
  (∀ (p : CMsg → Bool) (k : CMsg → CMsg) (a b : List CMsg) (m : CMsg), a.any p = false → p m = true →
    updateFirst p k (a ++ m :: b) = a ++ k m :: b) ∧
  -- CIPHER_MESSAGE_END: the urgent message, or the oldest bulk one while it is not suspended; a frame waits for room in its slice.
  (∀ (s : State) (g e : Nat) (c : CipherMsg) (p : Bool), s.running = true →
    let x := s.engine g e
    exec (.cipherMessageEnd g e c p) s = .next (
      match x.running.find? (·.msg == c) with
      | none => s
      | some m =>
        if m.suspended = true then s
        else if m.urgent = false ∧ (x.running.find? (!·.urgent)).any (·.msg == c) = false then s
        else match c with
        | .job q t =>
          match (s.qpOf q).job t with
          | some j => s.endCipherJob g e m q j p
          | none => s.closeMsg g e m
        | .frame t => if s.maySource g = true then s.endCipherFrame g e t m p else s)) ∧
  -- R512: a job ends with its output written whole or, where its tag fails or its message is poisoned, with nothing written; a write that waits lets it wait.
  (∀ (s : State) (g e q : Nat) (m : CMsg) (j : Job) (p : Bool), s.endCipherJob g e m q j p =
    let o := jobOut m j.descs j.data
    if p = true then (s.closeMsg g e m).endJob q j.slot St.aborted 7 0
    else if o.status ≠ 0 then
      (((if o.detail = 1 then s.ciCtr g 5 1 else s)).closeMsg g e m).endJob q j.slot o.status o.detail 0
    else
      match s.dmaWritesBy (cipherMaster g) (s.qpOwner q) (s.qpOf q).pasidOpt ((s.qpOf q).set.flags.getLsbD 0)
          (spreadOver ((outSegs j.descs).map fun d => (dAddr d, dLen d)) 0 o.out) with
      | (u, .waits) => u
      | (u, .ok) => (u.closeMsg g e m).endJob q j.slot St.ok 0 o.data
      | (u, .refused) => (u.closeMsg g e m).endJob q j.slot St.denied 0 0
      | (u, .denied) => (u.closeMsg g e m).endJob q j.slot St.aborted 5 0) ∧
  -- The master ID of a grove's cipher engines is 0x4000 + g.
  (∀ (g : Nat), g < 16 → (cipherMaster g).toNat = 0x4000 + g) ∧
  -- R522, R523: what the jobs give.
  (∀ (m : CMsg) (ds : List (BitVec 256)) (b : List Byte), dOp (ds.headD 0) = 0x41 →
    jobOut m ds b =
      match Config.aeadOpen m.key.alg m.key.key (m.nonce ds) (b.take (dLen (ds.headD 0))) (b.drop (dLen (ds.headD 0))) with
      | none => { status := St.badAuth, detail := 1 }
      | some t => wrote (fit ((b.drop (dLen (ds.headD 0))).length - 16) t)) ∧
  (∀ (m : CMsg) (ds : List (BitVec 256)) (b : List Byte), dOp (ds.headD 0) = 0x44 →
    (jobOut m ds b).data = BitVec.ofNat 64 m.seq ∧ (jobOut m ds b).out.take 3 = [0x17, 0x03, 0x03] ∧
    (jobOut m ds b).out.length = b.length + dBits (ds.headD 0) 95 80 + 22) ∧
  -- What both directions of inline ESP check first: without an SA, an engine, a key, an IP header or while stopped, the frame is freed and counted; it waits for its engine.
  (∀ (s : State) (t : Nat) (d : Bool) (k : State → Nat → Nat → Nat → Sa → CKey → List Byte → Nat × Nat × Nat → State),
    let g := tagGrove t
    s.espStart t d k = match s.espHead t with
      | none => s
      | some (f, e) =>
        let x := s.sa f.saOf
        if x.valid = true ∧ x.inbound ≠ d then s
        else if e = 4 then s.dropEsp g t 7
        else if s.mayOpen g e true true false = false then s
        else if x.valid = false then s.dropEsp g t 10
        else match s.cipherKey x.handle, espIp f.body with
        | none, _ => s.dropEsp g t 10
        | some _, none => s.dropEsp g t 12
        | some key, some ip => if x.stopped = true then s.dropEsp g t 11 else k s g e f.saOf x key f.body ip) ∧
  -- ESP_OUTBOUND: the SA takes SEQ and raises it, and the frame is opened on its engine.
  (∀ (s : State) (t : Nat), s.running = true →
    exec (.espOutbound t) s = .next (s.espStart t false fun s g e a x key b ip =>
      let n := (espInner x b ip.1 ip.2.1 ip.2.2).length
      if 16000 < (wireFrame (espSealed x key x.seq b ip.1 ip.2.1 ip.2.2)).length then s.dropEsp g t 13
      else if x.lifeHard ≠ 0 ∧ x.lifeHard < x.protected_ + n then (s.stopSa a).dropEsp g t 11
      else
        let u := ((s.setSa a { x with seq := x.seq + 1 }).protect a n).openFrame g t e {
          msg := .frame t, urgent := (s.engine g e).suspendable, op := 6, index := x.handle % 2 ^ 20, key := key, seq := x.seq
          sa := x, total := n }
        if x.esn = false ∧ x.seq = 2 ^ 32 - 1 then u.stopSa a else u)) ∧
  -- ESP_INBOUND: a replay is freed before decryption; another frame is opened on its engine.
  (∀ (s : State) (t : Nat), s.running = true →
    exec (.espInbound t) s = .next (s.espStart t true fun s g e a x key b ip =>
      let p := (ipPacket b ip.1 ip.2.1).drop ip.2.2
      let q := espSeq x (nfld p 4 4)
      if nfld (ipPacket b ip.1 ip.2.1) (if ip.1 = 4 then 9 else 6) 1 ≠ 50 ∨ p.length < 34 then s.dropEsp g t 12
      else if nfld p 0 4 ≠ x.spi then s.dropEsp g t 9
      else if x.replayed q = true then s.dropEsp g t 8
      else if x.lifeHard ≠ 0 ∧ x.lifeHard < x.protected_ + (p.length - 32) then (s.stopSa a).dropEsp g t 11
      else s.openFrame g t e {
        msg := .frame t, urgent := (s.engine g e).suspendable, op := 7, index := x.handle % 2 ^ 20, key := key, seq := q
        sa := x, total := p.length - 32 })) ∧
  -- R530: the replay window of 1,024 numbers.
  (∀ (x : Sa) (n : Nat), n + 1024 ≤ x.seq → x.replayed n = true) ∧
  (∀ (x : Sa) (n : Nat), x.seq < n → x.replayed n = false ∧ (x.mark n).seq = n ∧ (x.mark n).replayed n = true) ∧
  (∀ (x : Sa) (n : Nat), n ≤ x.seq → x.seq < n + 1024 → (x.mark n).seq = x.seq ∧ (x.mark n).replayed n = true) ∧
  -- R530, R532: the end of a frame's message. The window is checked again and marked, and the frame re-enters or is dropped and counted.
  (∀ (s : State) (g e t : Nat) (m : CMsg) (p : Bool), s.endCipherFrame g e t m p =
    let u := s.closeMsg g e m
    match u.frame t with
    | none => u
    | some f =>
      match espIp f.body with
      | none => u.dropEsp g t 12
      | some ip =>
        if p = true then u.takeSink g t
        else if m.op = 6 then u.reenter g t (espSealed m.sa m.key m.seq f.body ip.1 ip.2.1 ip.2.2)
        else
          let esp := (ipPacket f.body ip.1 ip.2.1).drop ip.2.2
          match openText m (espNonce m.key ((esp.drop 8).take 8)) (espAad m.sa m.seq) (esp.drop 16) with
          | some plain => u.acceptEsp g t f.saOf m f.body plain ip
          | none => (u.saAuthFail g f.saOf).takeSink g t) ∧
  -- R533: EV_SA_AUTH_FAIL at most once in a window, and R531: EV_SA_HARD once.
  (∀ (s : State) (a : Nat), (s.sa a).stopped = true → s.stopSa a = s) ∧
  (∀ (s : State) (a : Nat), (s.sa a).stopped = false →
    s.stopSa a = (s.setSa a { s.sa a with stopped := true }).fireDev (a / 65536) 10 Ev.saHard (BitVec.ofNat 32 a))

/-- 18 R538 to R544, R559 to R563: rental, staging, loading, unloading and release of a clearing. Where the spec leaves a
choice or a value open, the clauses follow assumption log entry 49: there they state the model's choice. -/
def Obligations.ClearingLifecycle : Prop :=
  -- CLEARING.RENT: its results in their order. Control reads not yet answered outlive the clearing that they were sent to (the model's reading: log entry 49).
  (∀ (s : State) (r : Request) (c : Nat), s.asksCl r 0x0901 24 c → fld r.payload 1 1 = 0 → fld r.payload 6 2 = 0 →
    let x := readRental r.payload
    let y := s.clearing c
    exec .clearingRent s = .next (
      if r.actor ≠ operator then s.taken.reply r St.notOwner
      else if s.groveFailed (clGrove c) = true then s.taken.reply r St.internal
      else if s.rentOk c x = false then s.taken.reply r St.badArg
      else if y.state ≠ 0 ∨ s.isHeld (.clearing c) = true then s.taken.reply r St.busy
      else if (s.windows c).any x.overlaps = true then s.taken.reply r St.exists_
      else if s.freeEntry.isSome = false then s.taken.reply r St.noSpace
      else if 64 ≤ s.sl.ops.length then s.taken.reply r St.busy
      else (s.taken.setCl c { state := 1, staging := y.staging, reads := y.reads, lateTags := y.lateTags }).replyStarted r 1
        (.clRent c x))) ∧
  (∀ (s : State) (c : Nat) (x : Rental), (x.base % 0x10000000 ≠ 0 ∨ x.size % 0x10000000 ≠ 0 ∨ x.size < 0x10000000 ∨
    0x400000000 < x.size ∨ 0x2C00000000 < x.base + x.size ∨ s.fnPresent x.renter = false ∨ fnPort x.renter ≠ c / 2 ∨
    fnLocal x.renter = 2) → s.rentOk c x = false) ∧
  -- CLEARING_RENT_STEP: the window reads zero, the firebreak entry is written, RENTER owns the clearing, and it is EMPTY; a failed read-back quarantines it.
  (∀ (s : State) (h c : Nat) (o : LongOp) (x : Rental) (ok : Bool), s.stepsOn h o (.clRent c x) →
    let z := (s.atStep h).zeroize x.base x.size
    exec (.clearingRentStep h ok) s = .next (
      if ok = false then (z.setCl c { z.clearing c with state := 6, quarantined := some x }).endOp o.step St.internal
      else match z.freeEntry with
      | some e => (z.rented c x e).endOp o.step 0
      | none => (z.setCl c { z.clearing c with state := 0 }).endOp o.step St.noSpace)) ∧
  (∀ (s : State) (c e : Nat) (x : Rental), ((s.rented c x e).clearing c).state = 2 ∧ (s.rented c x e).rental c = some x ∧
    (s.rented c x e).owner 4 c = x.renter ∧
    SMap.get (s.rented c x e).cfg.firebreaks (64 * packageBlock + e) = some (rentEntry c x)) ∧
  -- CLEARING.STAGE and CLEARING.STAGE_HOST
  (∀ (s : State) (r : Request) (c n : Nat), s.asksCl r 0x0903 (12 + n) c → fld r.payload 8 2 = n → fld r.payload 1 1 ≤ 1 →
    fld r.payload 2 2 = 0 → fld r.payload 10 2 = 0 → 1 ≤ n → n ≤ 4000 → fld r.payload 4 4 + n ≤ 0x10000000 →
    exec .clearingStage s = .next (
      if s.owns r.actor 4 c = false then s.taken.reply r St.notOwner
      else if s.groveFailed (clGrove c) = true then s.taken.reply r St.internal
      else if (s.clearing c).state ≠ 2 ∨ s.isHeld (.clearing c) = true then s.taken.reply r St.busy
      else (s.taken.setCl c { s.clearing c with
        staging := putBytes (if fld r.payload 1 1 = 1 then [] else (s.clearing c).staging) (fld r.payload 4 4)
          (r.payload.drop 12) }).reply r 0)) ∧
  (∀ (s : State) (r : Request) (c : Nat), s.asksCl r 0x0904 24 c → fld r.payload 1 1 ≤ 1 → fld r.payload 2 2 = 0 →
    fld r.payload 12 4 = 0 → 1 ≤ fld r.payload 8 4 → fld r.payload 4 4 + fld r.payload 8 4 ≤ 0x10000000 →
    exec .clearingStageHost s = .next (
      if s.owns r.actor 4 c = false then s.taken.reply r St.notOwner
      else if s.groveFailed (clGrove c) = true then s.taken.reply r St.internal
      else if 16 ≤ r.mb then s.taken.reply r St.denied
      else if (s.clearing c).state ≠ 2 ∨ s.isHeld (.clearing c) = true then s.taken.reply r St.busy
      else if 64 ≤ s.sl.ops.length then s.taken.reply r St.busy
      else (if fld r.payload 1 1 = 1 then s.taken.setCl c { s.clearing c with staging := [] } else s.taken).replyStarted r 1
        (.clStageHost c (fld r.payload 4 4) (fld r.payload 16 8) (fld r.payload 8 4) r.actor))) ∧
  -- CLEARING_STAGE_HOST_STEP: the bytes read reach the staging area, or nothing of them does.
  (∀ (s : State) (h c k a n f : Nat) (o : LongOp) (b : List HostCpl), s.stepsOn h o (.clStageHost c k a n f) →
    let z := s.atStep h
    exec (.clearingStageHostStep h b) s = .next (
      if z.canDma f = false ∨ (z.fn f).d3hot = true then z.endOp o.step St.aborted
      else match z.askRead f none (z.master f) a n b with
      | ((u, .ok), d) =>
        (u.setCl c { u.clearing c with staging := putBytes (u.clearing c).staging k d }).endOp o.step 0
      | ((u, .failed), _) => u.endOp o.step St.aborted
      | ((u, .waits), _) => u
      | ((u, .denied), _) => u.endOp o.step St.denied
      | ((u, .refused), _) => u.endOp o.step St.denied)) ∧
  -- CLEARING.LOAD
  (∀ (s : State) (r : Request) (c : Nat), s.asksCl r 0x0905 8 c → fld r.payload 1 3 = 0 → fld r.payload 4 4 ≤ 0x10000000 →
    exec .clearingLoad s = .next (
      if s.owns r.actor 4 c = false then s.taken.reply r St.notOwner
      else if s.groveFailed (clGrove c) = true then s.taken.reply r St.internal
      else if (s.clearing c).state ≠ 2 ∨ s.isHeld (.clearing c) = true then s.taken.reply r St.busy
      else if bitHeaderOk (s.clearing c).header (fld r.payload 4 4) = false then s.taken.reply r St.badArg
      else if s.nv.owk.isSome = false then s.taken.reply r St.denied
      else if s.nv.bitstreamKey.isSome = false then s.taken.reply r St.badAuth
      else if 64 ≤ s.sl.ops.length then s.taken.reply r St.busy
      else (s.taken.setCl c { s.clearing c with state := 3 }).replyStarted r 5 (.clLoad c 0))) ∧
  (∀ (h : List Byte) (n : Nat), n ≠ 256 + fld h 8 4 + 1280 → bitHeaderOk h n = false) ∧
  -- CLEARING_LOAD_STEP: the steps in their order; one that fails returns the clearing to EMPTY; after the last the shell starts.
  (∀ (s : State) (h c k : Nat) (o : LongOp) (b : Bool), s.stepsOn h o (.clLoad c k) →
    let z := s.atStep h
    exec (.clearingLoadStep h b) s = .next (
      if 4 ≤ k then z
      else match z.loadStep c k b with
      | .error st => ((z.abandonLoad c).clCtr c 20 1).endOp o.step st
      | .ok u =>
        (if k = 3 then u.setCl c { u.clearing c with loading := some h } else u).setOp
          { o.step with data := .clLoad c (k + 1) })) ∧
  (∀ (s : State) (c : Nat), ((s.abandonLoad c).clearing c).state = 2 ∧ ((s.abandonLoad c).clearing c).config = [] ∧
    ((s.abandonLoad c).clearing c).staging = (s.clearing c).staging) ∧
  (∀ (s : State) (c : Nat) (b : Bool), (s.nv.bitstreamKey.any fun k =>
    Config.fnDsaVerify k (getBytes (s.clearing c).staging 0 (256 + fld (s.clearing c).header 8 4 + 1280))) = false →
    s.loadStep c 0 b = .error St.badAuth) ∧
  (∀ (s : State) (c : Nat), s.loadStep c 3 false = .error St.internal) ∧
  -- R544: the clocks start after 10 us, SH_RST_N rises 256 SH_CLK cycles later, and 16 cycles later the clearing is RUNNING; the cycles are those of the rate in use.
  (∀ (s : State) (h c : Nat) (o : LongOp), s.running = true → (s.clearing c).loading = some h → s.op h = some o →
    let x := s.clearing c
    let stop := (s.abandonLoad c).endOp o St.aborted
    exec (.shellClockStart c) s = .next (
      if x.clocks = true then s
      else if o.cancel = true then stop
      else
        let u := s.upTo (x.stepAt + us 10)
        u.setCl c { x with stepAt := u.now, clocks := true }) ∧
    exec (.shellResetRelease c) s = .next (
      if x.clocks = false ∨ x.rstN = true then s
      else if o.cancel = true then stop
      else
        let u := s.upTo (x.stepAt + clkTime (s.rateInUse c x.shKhz) 256)
        u.setCl c { x with stepAt := u.now, rstN := true }) ∧
    exec (.clearingRunning c) s = .next (
      if x.rstN = false then s
      else if o.cancel = true then stop
      else
        let u := s.upTo (x.stepAt + clkTime (s.rateInUse c x.shKhz) 16)
        let v := (u.setCl c { x with stepAt := u.now }).clCount c
        ((v.setCl c { v.clearing c with state := 4, loading := none, loads := x.loads + 1, overCap := 0 }).clCtr c 19 1).endOp
          o.step 0)) ∧
  -- CLEARING.UNLOAD and its step
  (∀ (s : State) (r : Request) (c : Nat), s.asksCl r 0x0906 4 c → fld r.payload 1 3 = 0 →
    exec .clearingUnload s = .next (
      if s.owns r.actor 4 c = false then s.taken.reply r St.notOwner
      else if s.groveFailed (clGrove c) = true then s.taken.reply r St.internal
      else if ((s.clearing c).state ≠ 4 ∧ (s.clearing c).state ≠ 5) ∨ s.isHeld (.clearing c) = true then
        s.taken.reply r St.busy
      else if 64 ≤ s.sl.ops.length then s.taken.reply r St.busy
      else s.taken.replyStarted r 1 (.clUnload c))) ∧
  (∀ (s : State) (h c : Nat) (o : LongOp) (ok : Bool), s.stepsOn h o (.clUnload c) →
    let u := ((s.atStep h).closePorts c).clUnbind c
    let v := u.setCl c { (u.clearing c).blank with state := 2 }
    exec (.clearingUnloadStep h ok) s =
      .next (if ok = true then v.endOp o.step 0 else (v.clQuarantine c).endOp o.step St.internal)) ∧
  -- CLEARING.RELEASE: a load is cancelled first; VACANT is BUSY.
  (∀ (s : State) (r : Request) (c : Nat), s.asksCl r 0x0902 4 c → fld r.payload 1 3 = 0 →
    let u := s.taken.cancelLoads c
    exec .clearingRelease s = .next (
      if r.actor ≠ operator then s.taken.reply r St.notOwner
      else if s.groveFailed (clGrove c) = true then s.taken.reply r St.internal
      else if (u.clearing c).state = 0 ∨ u.isHeld (.clearing c) = true then s.taken.reply r St.busy
      else if 64 ≤ u.sl.ops.length then s.taken.reply r St.busy
      else u.replyStarted r 2 (.clRelease c 0))) ∧
  -- CLEARING_RELEASE_STEP: ports, bindings and the firebreak entry first; then zeroization, the owner, and VACANT, or QUARANTINED.
  (∀ (s : State) (h c : Nat) (o : LongOp) (ok : Bool), s.running = true → s.turns h o → o.data = .clRelease c 0 →
    let u := (((s.atStep h).closePorts c).clUnbind c).dropEntry c
    exec (.clearingReleaseStep h ok) s = .next ((u.setCl c { u.clearing c with
      state := if (u.clearing c).state = 4 then 2 else (u.clearing c).state }).setOp { o.step with data := .clRelease c 1 })) ∧
  (∀ (s : State) (h c k : Nat) (o : LongOp) (ok : Bool), s.running = true → s.turns h o → o.data = .clRelease c (k + 1) →
    let a := s.atStep h
    let w := (a.rental c).or (a.clearing c).quarantined
    let z := match w with | some x => a.zeroize x.base x.size | none => a
    let u : State := { z with cfg := { z.cfg with rentals := SMap.del z.cfg.rentals c } }
    let x := (u.clearing c).blank
    exec (.clearingReleaseStep h ok) s = .next (
      if ok = true ∧ u.isFenced 0x0B (c / 2) (c % 2) = false then
        ((u.setOwner 4 c operator).setCl c { ctrs := x.ctrs, reads := x.reads, lateTags := x.lateTags }).endOp o.step 0
      else ((u.setCl c { x with staging := [], quarantined := w }).clQuarantine c).endOp o.step St.internal)) ∧
  (∀ (s : State) (c : Nat), ((s.clQuarantine c).clearing c).state = 6)

/-- 18 R552, R556 to R558, R564 to R571: the other commands, the control window, the power cap and metering. Where the
spec leaves a choice or a value open, the clauses follow assumption log entry 49: there they state the model's choice. -/
def Obligations.ClearingCommands : Prop :=
  -- On TW9-N every command returns NOT_PRESENT.
  (∀ (s : State) (r : Request), s.variant = .n →
    (s.asks r 0x0901 → exec .clearingRent s = .next (s.taken.reply r St.notPresent)) ∧
    (s.asks r 0x0907 → exec .clearingGet s = .next (s.taken.reply r St.notPresent)) ∧
    (s.asks r 0x090B → exec .clearingMeterSet s = .next (s.taken.reply r St.notPresent))) ∧
  -- CLEARING.GET and CLEARING.STATS, and the ownership they need
  (∀ (s : State) (r : Request) (c : Nat), s.asksCl r 0x0907 4 c → fld r.payload 1 3 = 0 →
    let x := s.clearing c
    let w := (s.rental c).getD ⟨0, 0, 0, 0⟩
    let on (k : Nat) : Nat := if x.clocks = true then s.rateInUse c k else 0
    exec .clearingGet s = .next (
      if s.owns r.actor 4 c = false then s.taken.reply r St.notOwner
      else s.taken.reply r 0 (leBytes 1 x.state ++ zeros 1 ++
        leBytes 2 w.renter ++ leBytes 2 w.tenant ++ zeros 2 ++ leBytes 8 w.base ++ leBytes 8 w.size ++ leBytes 4 x.shKhz ++
        leBytes 4 x.fabKhz ++ leBytes 4 (on x.shKhz) ++ leBytes 4 (on x.fabKhz) ++ (x.sha ++ zeros 32).take 32 ++
        leBytes 4 x.loads))) ∧
  (∀ (s : State) (r : Request) (c : Nat), s.asksCl r 0x090D 4 c → fld r.payload 1 3 = 0 → exec .clearingStats s = .next (
    if s.owns r.actor 4 c = false then s.taken.reply r St.notOwner
    else s.taken.reply r 0 (ctrBytes (s.clearing c).ctrs 21))) ∧
  -- CLEARING.QP_BIND and CLEARING.LINE_BIND: a queue pair of KIND CLEARING of this grove, owned as the clearing is. The channel a binding takes from its queue pair is unbound first (the model's reading: log entry 49).
  (∀ (s : State) (r : Request) (c h q : Nat), fld r.payload 1 1 = h → h < 64 → fld r.payload 2 2 = q →
    let may (k : State) := if q ≠ 0xFFFF ∧ s.groves ≤ q / 4096 then s.taken.reply r St.notPresent
      else if s.owns r.actor 4 c = false then s.taken.reply r St.notOwner
      else if s.groveFailed (clGrove c) = true then s.taken.reply r St.internal
      else if q ≠ 0xFFFF ∧ (q / 4096 ≠ c / 2 ∨ (s.qpOf q).set.kind ≠ 4) then s.taken.reply r St.badArg
      else if q ≠ 0xFFFF ∧ s.qpOwner q ≠ s.owner 4 c then s.taken.reply r St.notOwner
      else k
    (s.asksCl r 0x0908 4 c →
      let u := s.taken.unbindChan c h
      exec .clearingQpBind s = .next (may (
        if (q ≠ 0xFFFF ∧ (s.qpOf q).state ≠ 1) ∨ s.isHeld (.clearing c) = true then s.taken.reply r St.busy
        else if q = 0xFFFF then u.reply r 0
        else if (s.chanOf q).all (· == (c, h)) = false then s.taken.reply r St.exists_
        else if SMap.get (s.clearing c).chans h = some q then s.taken.reply r 0
        else (u.setCl c { u.clearing c with chans := SMap.set (u.clearing c).chans h q }).reply r 0))) ∧
    (s.asksCl r 0x0909 4 c →
      exec .clearingLineBind s = .next (may (
        if s.isHeld (.clearing c) = true then s.taken.reply r St.busy
        else (s.taken.setCl c { s.clearing c with
          lines := if q = 0xFFFF then SMap.del (s.clearing c).lines h else SMap.set (s.clearing c).lines h q }).reply r 0)))) ∧
  -- CLEARING.CTRL: a read waits for its answer; BUSY unless RUNNING. A write answers DATA, a free value.
  (∀ (s : State) (r : Request) (c o : Nat), s.asksCl r 0x090A 16 c → fld r.payload 1 1 ≤ 1 → fld r.payload 2 2 = 0 →
    fld r.payload 4 4 = o → o % 8 = 0 → o < 65536 →
    let w := fld r.payload 1 1
    exec .clearingCtrl s = .next (
      if s.owns r.actor 4 c = false then s.taken.reply r St.notOwner
      else if s.groveFailed (clGrove c) = true then s.taken.reply r St.internal
      else if (s.clearing c).state ≠ 4 ∨ (w = 1 ∧ s.isHeld (.clearing c) = true) then s.taken.reply r St.busy
      else if w = 1 then
        (((s.taken.drawn 1).ctlPush c { write := true, off := o, data := BitVec.ofNat 64 (fld r.payload 8 8), be := 0xFF }).ctlServeAll
          c).reply r 0 (leBytes 8 (Config.freeValue 64 s.free).toNat)
      else ((s.taken.ctlPush c { write := false, off := o, req := some r }).ctlServeAll c).drain)) ∧
  -- R558: writes that wait are at most 16 and one more is discarded; a request transfers in order, a read once a tag is free.
  (∀ (s : State) (c : Nat) (q : CtlReq), s.ctlPush c q =
    if q.write = true ∧ 16 ≤ ((s.clearing c).ctlq.filter (·.write)).length then s.clCtr c 15 1
    else s.setCl c { s.clearing c with ctlq := (s.clearing c).ctlq ++ [q] }) ∧
  (∀ (s : State) (c n : Nat) (q : CtlReq) (l : List CtlReq), (s.clearing c).ctlq = q :: l →
    State.ctlServe c (n + 1) s =
      if q.write = true then
        State.ctlServe c n ((s.setCl c { s.clearing c with ctlq := l }).emit (.ctl c 0 true (q.off / 8) q.data q.be))
      else match (s.clearing c).freeCtlTag s.clk with
      | none => s
      | some t => State.ctlServe c n ((s.setCl c { s.clearing c with
          ctlq := l, reads := (s.clearing c).reads ++ [⟨t, q.fn, q.req, s.clk⟩]
          lateTags := (s.clearing c).lateTags.filter (·.1 != t) }).emit (.ctl c t false (q.off / 8) 0 0))) ∧
  -- CONTROL_REQUEST of the owner while the clearing is RUNNING; else a read answers zero and a write is discarded and counted.
  (∀ (s : State) (c f o n : Nat) (w : Bool) (d : BitVec 64) (be : BitVec 8), s.serving = true → (s.clearing c).state = 4 →
    s.owner 4 c = f → fnLocal f ≠ 2 → o < 65536 → c / 2 = fnPort f → s.reaches f (0x700 + c) (if w then 2 else 1) o 8 →
    exec (.controlRequest c f w o d ⟨be, n⟩) s = .next (State.ctlServe c n ((s.traffic f).ctlPush c (
      if w = true then { write := true, off := o, data := d, be := be } else { write := false, off := o, fn := some f })))) ∧
  (∀ (s : State) (c f o n : Nat) (w : Bool) (d : BitVec 64) (be : BitVec 8), s.serving = true →
    ((s.clearing c).state ≠ 4 ∨ s.owner 4 c ≠ f) → s.takesRequests f = true → (s.port (fnPort f)).full = true →
    exec (.controlRequest c f w o d ⟨be, n⟩) s = .next (
      if w = true then s.hostCtr (fnPort f) 13 else s.emit (.completion f true (zeros 8)))) ∧
  -- CONTROL_ANSWER and CONTROL_READ_TIMEOUT: all ones after 10 us, and a late answer is counted.
  (∀ (s : State) (c t : Nat) (d : BitVec 64), s.running = true →
    let x := s.clearing c
    exec (.controlAnswer c t d) s = .next (
      if x.state ≠ 4 then s
      else match x.reads.find? (·.tag == t) with
      | some r =>
        (((s.setCl c { x with reads := x.reads.filter (·.tag != t) }).ctlDone r.fn r.req 0 d).ctlServeAll c).drain
      | none => ((s.setCl c { x with lateTags := x.lateTags.filter (·.1 != t) }).clCtr c 17 1).ctlServeAll c)) ∧
  (∀ (s : State) (c t : Nat), s.running = true →
    exec (.controlReadTimeout c t) s = .next (
      match (s.clearing c).reads.find? (·.tag == t) with
      | none => s
      | some r =>
        let u := s.upToClk (r.at_ + us 10)
        ((((u.setCl c { u.clearing c with
          reads := (u.clearing c).reads.filter (·.tag != t)
          lateTags := (u.clearing c).lateTags ++ [(t, u.clk + ms 1)] }).clCtr c 16 1).ctlDone r.fn r.req St.aborted
            (BitVec.allOnes 64)).ctlServeAll c).drain)) ∧
  -- R564, CLEARING_POWER_WINDOW: at most 17 W, above 17 W, above 18 W, above 24 W.
  (∀ (s : State) (c mw : Nat), s.running = true →
    let due := (s.time / us 100 + 1) * us 100
    let u := (((s.upToTime (due - 1)).clUse c fun x => { x with energy := x.energy + mw }).upToTime due).clCount c
    let x := u.clearing c
    exec (.clearingPowerWindow c mw) s = .next (
      if (s.rental c).isNone = true then s
      else if 24000 < mw then u.clFault c 1
      else if 18000 < mw ∧ x.steps = 12 ∧ 9 ≤ x.overCap then (u.setCl c { x with overCap := x.overCap + 1 }).clFault c 1
      else if 18000 < mw ∧ x.steps = 12 then u.setCl c { x with overCap := x.overCap + 1 }
      else if 18000 < mw ∧ x.steps = 0 then ((u.setCl c { x with steps := 1 }).clCtr c 18 1).firePower c 1
      else if 18000 < mw then (u.setCl c { x with steps := x.steps + 1 }).clCtr c 18 1
      else if 17000 < mw then u.setCl c { x with overCap := 0 }
      else if x.steps = 1 then (u.setCl c { x with overCap := 0, steps := 0 }).firePower c 0
      else u.setCl c { x with overCap := 0, steps := x.steps - 1 })) ∧
  -- CONFIG_MEMORY_ERROR: FAULTED with reason 2.
  (∀ (s : State) (c : Nat), s.running = true → exec (.configMemoryError c) s = .next (
    if c < s.clearings ∧ (s.clearing c).state = 4 then
      ((s.drawn 1).uncorrectable (locUnit (c / 2) 0x0B (c % 2)) (Config.freeValue 8 s.free)).clFault c 2
    else s)) ∧
  (∀ (s : State) (c i : Nat), s.clFault c i = if (s.clearing c).state = 4 then (((s.closePorts c).setCl c {
    (s.closePorts c).clearing c with state := 5 }).fireCl c Ev.clearingFault (BitVec.ofNat 32 (c + 256 * i))) else s) ∧
  -- METER_WINDOW_CLOSE at the end of its period; CLEARING.METER_SET and CLEARING.METER_READ
  (∀ (s : State) (c : Nat), s.running = true → exec (.meterWindowClose c) s = .next (
    match (s.clearing c).usage with
    | none => s
    | some x => (s.upToTime ((x.start / (s.period c * 4000000000) + 1) * (s.period c * 4000000000))).rollUsage c)) ∧
  (∀ (s : State) (c m n : Nat), s.closeUsage c m n =
    let u := s.clCountTo c m
    let x := u.clearing c
    match x.usage with
    | none => u
    | some y =>
      if u.time < y.start then u.setCl c { x with usage := some { start := n } }
      else (u.setCl c { x with
        closed := (x.closed ++ [y]).drop ((x.closed ++ [y]).length - 64), usage := some { start := n } }).fireCl c
          Ev.clearingMeter (BitVec.ofNat 32 (c + 32 * (y.start / (u.period c * 4000000000) % 2 ^ 27)))) ∧
  (∀ (s : State) (r : Request) (n : Nat), s.asks r 0x090B → r.payload.length = 8 → fld r.payload 0 4 ≠ 0 →
    fld r.payload 4 4 = n → 1 ≤ n → n ≤ 3600 → s.clearings ≠ 0 →
    let l := maskBits (fld r.payload 0 4) 32
    exec .clearingMeterSet s = .next (
      if l.all (· < s.clearings) = false then s.taken.reply r St.notPresent
      else if r.actor ≠ operator then s.taken.reply r St.notOwner
      else if (l.any fun c => s.isHeld (.clearing c)) = true then s.taken.reply r St.busy
      else s.taken.replyCfg (l.foldl (fun u c =>
        if u.period c = n then u
        else
          let v := (u.rollUsage c).closeUsage c u.now ((u.time / (n * 4000000000) + 1) * (n * 4000000000))
          { v with cfg := { v.cfg with meterPeriod := SMap.set v.cfg.meterPeriod c n } }) s.taken) r)) ∧
  (∀ (s : State) (r : Request) (c : Nat), s.asksCl r 0x090C 12 c → fld r.payload 1 3 = 0 →
    exec .clearingMeterRead s = .next (
      if s.owns r.actor 4 c = false then s.taken.reply r St.notOwner
      else s.taken.reply r 0
        ((((s.clearing c).closed.filter fun u => fld r.payload 4 8 ≤ u.start).take 62).flatMap Usage.bytes)))

/-- 18 R545 to R550, R553 to R556: the stream, memory and host queue ports, and the event lines. Where the spec leaves a
choice or a value open, the clauses follow assumption log entry 49: there they state the model's choice. -/
def Obligations.ClearingPorts : Prop :=
  -- STREAM_RX_FRAME: the head frame of the sink queue is delivered without its FCS, while the clearing is RUNNING.
  (∀ (s : State) (c : Nat), s.running = true → exec (.streamRxFrame c) s = .next (
    match s.sinkQueue (c / 2) (.clearing c) with
    | [] => s
    | t :: _ =>
      match s.frame t with
      | none => s
      | some f =>
        if (s.clearing c).state ≠ 4 then s
        else ((((s.takeSink (c / 2) t).emit (.strRx c f.md (BitVec.ofNat 32 f.actionTag) f.isCopy f.body)).clCtr c 0 1).clCtr c 1
          (b2n f.isCopy)).clUse c fun u => { u with rx := u.rx + f.body.length })) ∧
  -- STREAM_TX_FRAME: framed and entered with SOURCE_KIND 2, SOURCE_ID c and the rental's tenant; one that is aborted or of a bad length fails its check.
  (∀ (s : State) (c : Nat) (b : List Byte) (a : Bool), s.running = true →
    let good := !a && decide (14 ≤ b.length ∧ b.length ≤ 15996)
    exec (.streamTxFrame c b a) s = .next (
      if c < s.clearings ∧ (s.clearing c).state = 4 ∧ s.maySource (c / 2) = true then
        (((s.clCtr c (if good = true then 2 else 3) 1).clUse c fun x => { x with tx := x.tx + b.length }).enterFrame (c / 2) 2 c
          (steerOf 2 c) (((s.rental c).map (·.tenant)).getD 0) (wireFrame b) good fun f => f).2
      else s)) ∧
  -- MEM_COMMAND inside the window; beyond it, or with an ID in use, it touches nothing and is a BOUNDS command; the firebreak may deny it.
  (∀ (s : State) (c o n i : Nat) (wr : Bool), s.running = true → o < 2 ^ 31 → n < 64 → i < 256 →
    let m : MemCmd := { write := wr, off := o * 128, beats := n + 1, id := i }
    let again := (s.clearing c).cmds.any (·.id == i)
    let push (u : State) (m : MemCmd) : State := u.setCl c { u.clearing c with cmds := (u.clearing c).cmds ++ [m] }
    exec (.memCommand c wr o n i) s = .next (
      match (s.clearing c).state, s.rental c with
      | 4, some w =>
        let u := s.clCtr c (if wr then 6 else 5) 1
        if again = true ∨ w.size < 128 * o + 128 * (n + 1) then push (u.clCtr c 7 1) { m with err := 1, reused := again }
        else match u.fbCheck packageBlock (BitVec.ofNat 16 (0x1000 + c)) (if wr then 2 else 1) (w.base + o * 128) (128 * (n + 1)) with
        | (v, true) => (push v m).clUse c fun x => { x with hbm := x.hbm + 128 * (n + 1) }
        | (v, false) => push (v.clCtr c 8 1) { m with err := 2 }
      | _, _ => s)) ∧
  -- MEM_WRITE_DATA: a beat of the oldest write that awaits one; a BOUNDS or denied write touches nothing, and a beat in error is poisoned.
  (∀ (s : State) (c : Nat) (d : BitVec 1024) (k : BitVec 128) (e p : Bool) (w : Rental), s.running = true →
    (s.clearing c).state = 4 → s.rental c = some w → exec (.memWriteData c d k e p) s = .next (
      match splitWrite (s.clearing c).cmds with
      | none => s
      | some (before, m, after) =>
        let bad := m.err = 0 ∧ p = true
        let u := if bad then s.clCtr c 9 1 else s
        let v := u.setCl c { u.clearing c with
          cmds := before.map (MemCmd.capture s.mem w.base m) ++ { m with
            done := m.done + 1, full := e || m.done + 1 == m.beats, err := if bad then 3 else m.err } :: after }
        let a := w.base + m.off + 128 * m.done
        if m.err ≠ 0 ∧ m.err ≠ 3 then v else if p = true then v.poisonBeat a else v.writeBeat a d k)) ∧
  (∀ (s : State) (c : Nat) (d : BitVec 1024) (k : BitVec 128) (e p : Bool), s.running = true → (s.clearing c).state ≠ 4 →
    exec (.memWriteData c d k e p) s = .next s) ∧
  -- Bytes whose mask bit is 0 keep their contents.
  (∀ (s : State) (a : Nat) (d : BitVec 1024), s.writeBeat a d 0 = s) ∧
  -- MEM_RESPONSE: one acknowledgment of a whole write; a read's beats in address order, once no earlier write to its bytes is still to come.
  (∀ (s : State) (c i : Nat) (p : Bool), s.running = true →
    let x := s.clearing c
    exec (.memResponse c i p) s = .next (
      match x.state, s.rental c, findCmd i x.cmds with
      | 4, some w, some (before, m) =>
        if m.write = true then
          if m.full = true then
            (s.setCl c { x with cmds := replaceCmd i none x.cmds }).emit (.memResp c i true true m.err (zeros 128))
          else s
        else if m.err = 0 ∧ (before.any fun b => b.write && b.lands && !b.full && b.overlaps m) = true then s
        else
          let a := w.base + m.off + 128 * m.done
          let last := m.done + 1 == m.beats
          let bad := m.err = 0 ∧ (p = true ∨ (m.data.isNone = true ∧ s.memBad a 128 = true))
          let err := if bad then 3 else m.err
          (s.setCl c { x with
            cmds := replaceCmd i (if last = true then none else some { m with done := m.done + 1 }) x.cmds }).emit
            (.memResp c i false last err (if err = 0 then
              match m.data with | some d => (d.drop (128 * m.done)).take 128 | none => memReadBytes s.mem a 128
              else zeros 128))
      | _, _, _ => s)) ∧
  -- H2C and C2H_POST join their channel; unbound, and not RUNNING, they end at once with DETAIL 4 and 3.
  (∀ (s : State) (q : Nat) (t : BitVec 32), s.running = true →
    let join (op : Nat) (k : Cl → Nat → Cl) : State := match s.readyJob q t op, s.chanOf q with
      | none, _ => s
      | some _, none => s.endJob q t St.aborted 4 0
      | some j, some (c, h) =>
        if (s.clearing c).state ≠ 4 then s.endJob q t St.aborted 3 0
        else (s.markActed q j).setCl c (k (s.clearing c) h)
    exec (.h2c q t) s = .next (join 0x50 fun x h => { x with ready := x.ready ++ [(h, t)] }) ∧
    exec (.c2hPost q t) s = .next (join 0x51 fun x h => { x with credits := x.credits ++ [(h, t)] })) ∧
  -- H2C_MESSAGE: the message transfers and its job ends OK with its bytes.
  (∀ (s : State) (c : Nat), s.running = true → (s.clearing c).state = 4 →
    let x := s.clearing c
    exec (.h2cMessage c) s = .next (
      match x.nextChan with
      | none => s
      | some h =>
        match x.ready.find? (·.1 == h), SMap.get x.chans h with
        | some (_, t), some q =>
          let u := s.setCl c { x with ready := x.ready.erase (h, t), lastChan := h }
          match (u.qpOf q).job t with
          | none => u
          | some j => ((((u.clCtr c 10 1).clUse c fun y => { y with host := y.host + j.data.length }).emit
              (.h2c c h (dUser (j.descs.headD 0)) j.data)).endJob q t 0 0 (BitVec.ofNat 64 j.data.length))
        | _, _ => s)) ∧
  (∀ (s : State) (c : Nat), s.running = true → (s.clearing c).state ≠ 4 → exec (.h2cMessage c) s = .next s) ∧
  -- C2H_MESSAGE: written into the oldest buffer of its channel; one that is too long fills it, one that is aborted ends its job; without credit it waits.
  (∀ (s : State) (c h : Nat) (g : BitVec 32) (b : List Byte) (a : Bool), s.running = true →
    let x := s.clearing c
    exec (.c2hMessage c h g b a) s = .next (
      match x.state, x.credits.find? (·.1 == h), SMap.get x.chans h with
      | 4, some (_, t), some q =>
        match (s.qpOf q).job t with
        | none => s
        | some j =>
          let room := totalLen j.descs
          let data := BitVec.ofNat 64 (2 ^ 32 * g.toNat + (b.take room).length)
          let v (u : State) := ((u.setCl c { u.clearing c with
            credits := (u.clearing c).credits.erase (h, t) }).clUse c fun y => { y with host := y.host + b.length }).clCtr c 11 1
          match s.localWrite q (spreadOver (j.descs.map fun d => (dAddr d, dLen d)) 0 (b.take room)) with
          | (u, .waits) => u
          | (u, .denied) => (v u).endJob q t St.aborted 5 0
          | (u, .refused) => (v u).endJob q t St.denied 0 0
          | (u, .ok) =>
            if a = true then (v u).endJob q t St.aborted 2 data
            else if room < b.length then ((v u).clCtr c 12 1).endJob q t St.badArg 1 data
            else (v u).endJob q t 0 0 data
      | _, _, _ => s)) ∧
  -- EVENT_LINE_FIRE: a line fires when it is 1 and was 0 in the cycle before; an unbound one is counted.
  (∀ (s : State) (c : Nat) (k : BitVec 64) (d : BitVec 24), s.running = true → exec (.eventLineFire c k d) s = .next (
    if (s.clearing c).state ≠ 4 then s
    else (maskBits (k &&& ~~~ (s.clearing c).lineLast).toNat 64).foldl (fun u l =>
      match SMap.get (s.clearing c).lines l with
      | some q => (u.clCtr c 13 1).fire q Ev.clearingLine (BitVec.ofNat 32 (l + 256 * d.toNat))
      | none => (u.clCtr c 13 1).clCtr c 14 1) (s.setCl c { s.clearing c with lineLast := k })))

/-- 19 R574 to R582: the check of a firebreak, a denial, and the FIREBREAK commands. -/
def Obligations.Firebreaks : Prop :=
  -- R575: a request passes when at least one entry allows it.
  (∀ (s : State) (t right a n : Nat) (m : BitVec 16), s.fbAllowed t m right a n = true ↔ ∃ e < 64,
    (s.fbEntry t e).valid = true ∧ m &&& (s.fbEntry t e).mask = (s.fbEntry t e).master ∧
    (s.fbEntry t e).grants right = true ∧ (s.fbEntry t e).base ≤ a ∧ a < (s.fbEntry t e).limit ∧
    a + n ≤ (s.fbEntry t e).limit) ∧
  -- R578, R579: a denied request changes nothing but the log, its event and what the event raises.
  (∀ (s : State) (t right a n : Nat) (m : BitVec 16), s.fbAllowed t m right a n = true → s.fbCheck t m right a n = (s, true)) ∧
  (∀ (s : State) (t right a n : Nat) (m : BitVec 16), s.fbAllowed t m right a n = false → ∃ u : State,
    s.fbCheck t m right a n = (u, false) ∧ u.mem = s.mem ∧ u.cfg = s.cfg ∧ u.sec.vSeq = s.sec.vSeq + 1 ∧
    ∃ l, u.sec.violations = l ++ [⟨s.time, a, m, t, right, min n 0xFFFF, s.sec.vSeq⟩] ∧
      (s.sec.violations.length ≠ 4096 → l = s.sec.violations) ∧
      (s.sec.violations.length = 4096 → l = s.sec.violations.drop 1 ∧ u.sec.overwrites = s.sec.overwrites + 1)) ∧
  -- FIREBREAK.SET: from 1 to 8 entries below 63, of a block that is there, by the operator principal; never one that Slaot placed.
  (∀ (s : State) (r : Request) (t e n : Nat), s.asks r 0x0E01 → fld r.payload 0 2 = t → fld r.payload 2 1 = e →
    fld r.payload 3 1 = n →
    let one (i : Nat) : List Byte := slice r.payload (8 + 32 * i) 32
    exec .firebreakSet s = .next (
      if r.payload.length ≠ 8 + 32 * n ∨ n = 0 ∨ 8 < n ∨ 63 < e + n ∨ fld r.payload 4 4 ≠ 0 ∨ s.targetPresent t = none ∨
        ((List.range n).all fun i => fbEntryOk (one i)) = false then s.taken.reply r St.badArg
      else if s.targetPresent t ≠ some true then s.taken.reply r St.notPresent
      else if r.actor ≠ operator then s.taken.reply r St.notOwner
      else if ((List.range n).any fun i => (s.fbEntry t (e + i)).slaot) = true then s.taken.reply r St.denied
      else s.taken.replyCfg { s.taken with cfg := { s.cfg with
        firebreaks := (List.range n).foldl (fun m i => SMap.set m (64 * t + e + i) (readFbEntry (one i))) s.cfg.firebreaks
        } } r)) ∧
  -- R574: reserved bits are 0, no bit of MASTER lies outside MASK, and BASE is at most LIMIT.
  (∀ (p : List Byte), fbEntryOk p = true ↔ bits (fld p 0 1) 7 5 = 0 ∧ fld p 1 11 = 0 ∧
    (readFbEntry p).master &&& ~~~ (readFbEntry p).mask = 0 ∧ (readFbEntry p).base ≤ (readFbEntry p).limit) ∧
  -- FIREBREAK.GET, for the PF2 of any port
  (∀ (s : State) (r : Request) (t e n : Nat), s.asks r 0x0E02 → fld r.payload 0 2 = t → fld r.payload 2 1 = e →
    fld r.payload 3 1 = n → exec .firebreakGet s = .next (
      if r.payload.length ≠ 4 ∨ n = 0 ∨ 64 < e + n ∨ s.targetPresent t = none then s.taken.reply r St.badArg
      else if s.targetPresent t ≠ some true then s.taken.reply r St.notPresent
      else if s.anyPf2 r.actor = false then s.taken.reply r St.notOwner
      else s.taken.reply r 0 ((List.range n).flatMap fun i => (s.fbEntry t (e + i)).bytes))) ∧
  -- FIREBREAK.MAP_SET and FIREBREAK.MAP_GET
  (∀ (s : State) (r : Request) (p v n : Nat), fld r.payload 0 1 = p → p < 16 → fld r.payload 1 1 = 0 → fld r.payload 2 2 = v →
    fld r.payload 4 2 = n → fld r.payload 6 2 = 0 → 1 ≤ n → n ≤ 1024 → v + n ≤ 1024 →
    (s.asks r 0x0E03 → exec .firebreakMapSet s = .next (
      if r.payload.length ≠ 8 + n ∨ ((r.payload.drop 8).all fun b => 3 ≤ b.toNat) = false then s.taken.reply r St.badArg
      else if s.groves ≤ p then s.taken.reply r St.notPresent
      else if r.actor ≠ operator then s.taken.reply r St.notOwner
      else s.taken.replyCfg { s.taken with cfg := { s.cfg with
        fnMap := (List.range n).foldl (fun m i => SMap.set m (1024 * p + v + i) (fld r.payload (8 + i) 1)) s.cfg.fnMap } } r)) ∧
    (s.asks r 0x0E04 → r.payload.length = 8 → exec .firebreakMapGet s = .next (
      if s.groves ≤ p then s.taken.reply r St.notPresent
      else if s.anyPf2 r.actor = false then s.taken.reply r St.notOwner
      else s.taken.reply r 0 (s.mapBytes p v n)))) ∧
  -- FIREBREAK.LOG_READ
  (∀ (s : State) (r : Request), s.asks r 0x0E05 → exec .firebreakLogRead s = .next (
    if r.payload.length ≠ 8 then s.taken.reply r St.badArg
    else if s.anyPf2 r.actor = false then s.taken.reply r St.notOwner
    else s.taken.reply r 0
      (((s.sec.violations.filter fun v => fld r.payload 0 8 ≤ v.seq).take 125).flatMap Violation.bytes ++
        leBytes 8 s.sec.overwrites)))

/-- 19 R583 to R593: keys, floors, debug access and attestation. Where the spec leaves a choice or a value open, the
clauses follow assumption log entry 50: there they state the model's choice. -/
def Obligations.SecurityCommands : Prop :=
  -- SECURITY.WRAPKEY_SET: the decapsulated secret becomes OWK, and KEY_CHECK is answered.
  (∀ (s : State) (r : Request), s.asks r 0x0A02 → exec .securityWrapkeySet s = .next (
    if r.payload.length ≠ 1568 then s.taken.reply r St.badArg
    else if r.actor ≠ operator then s.taken.reply r St.notOwner
    else (State.measureM2 { s.taken with nv := { s.nv with owk := some (Config.mlkemDecap r.payload) } } .owk).reply r 0
      ((digestBytes (owkLabel ++ leBytes 32 (Config.mlkemDecap r.payload).toNat)).take 8))) ∧
  -- SECURITY.CMDKEY_SET: a wrapped key, or REMOVE; the counter state and the floor of the mailbox go to 0.
  (∀ (s : State) (r : Request) (m x : Nat), s.asks r 0x0A03 → r.payload.length = 44 → fld r.payload 0 1 = m → m ≤ 17 →
    fld r.payload 1 1 = x → x ≤ 1 → fld r.payload 2 2 = 0 → (x = 1 → fld r.payload 4 40 = 0) →
    exec .securityCmdkeySet s = .next (
      if m < 16 ∧ s.groves ≤ m then s.taken.reply r St.notPresent
      else if r.actor ≠ operator then s.taken.reply r St.notOwner
      else if x = 1 then ((s.taken.setCmdKey m none).measureM2 (.commandKey m true)).reply r 0
      else match s.nv.owk with
      | none => s.taken.reply r St.denied
      | some k =>
        match Config.keyUnwrap k (slice r.payload 4 40) with
        | none => s.taken.reply r St.badAuth
        | some b => ((s.taken.setCmdKey m (some (BitVec.ofNat 256 (leNat b)))).measureM2 (.commandKey m false)).reply r 0)) ∧
  (∀ (s : State) (m : Nat) (k : Option (BitVec 256)), (s.setCmdKey m k).ret.counters = SMap.del s.ret.counters m ∧
    (s.setCmdKey m k).nv.counterFloors = SMap.del s.nv.counterFloors m) ∧
  -- SECURITY.VERIFYKEY_SET
  (∀ (s : State) (r : Request) (k : Nat), s.asks r 0x0A04 → r.payload.length = 1797 → fld r.payload 0 1 = k →
    fld r.payload 1 3 = 0 →
    let b := slice r.payload 4 1793
    exec .securityVerifykeySet s = .next (
      if k ≠ 2 ∧ k ≠ 3 then s.taken.reply r St.badArg
      else if r.actor ≠ operator then s.taken.reply r St.notOwner
      else (State.measureM2 { s.taken with
        nv := if k = 2 then { s.nv with serviceKey := some b } else { s.nv with bitstreamKey := some b } }
        (.verificationKey k (digestBytes b))).reply r 0)) ∧
  -- SECURITY.FLOOR_SET: a floor only rises, that of the firmware no further than the running image's security version.
  (∀ (s : State) (r : Request) (k v : Nat), s.asks r 0x0A05 → r.payload.length = 8 → fld r.payload 0 1 = k →
    fld r.payload 1 3 = 0 → fld r.payload 4 4 = v → exec .securityFloorSet s = .next (
      if 1 < k ∨ (k = 0 ∧ (v < s.nv.fwFloor ∨ (s.fwSlotOf s.boot.fwSlot).version < v)) ∨ (k = 1 ∧ v < s.nv.bitFloor) then
        s.taken.reply r St.badArg
      else if r.actor ≠ operator then s.taken.reply r St.notOwner
      else (State.measureM2 { s.taken with
        nv := if k = 0 then { s.nv with fwFloor := v } else { s.nv with bitFloor := v } } (.floor k v)).reply r 0)) ∧
  -- SECURITY.DEBUG_SET, and DEBUG_WINDOW_CLOSE
  (∀ (s : State) (r : Request) (m n : Nat), s.asks r 0x0A06 → r.payload.length = 8 → fld r.payload 0 2 = m → m ≠ 0 →
    fld r.payload 2 2 = 0 → fld r.payload 4 4 = n → n ≤ 86400 → exec .securityDebugSet s = .next (
      if (maskBits m 16).all (· < s.groves) = false then s.taken.reply r St.notPresent
      else if r.actor ≠ operator then s.taken.reply r St.notOwner
      else (State.measureM2 { s.taken with sec := { s.sec with
        debug := (maskBits m 16).foldl (fun d g => if n = 0 then SMap.del d g else SMap.set d g (s.clk + ms (1000 * n)))
          s.sec.debug } } (.debug m (n != 0))).reply r 0)) ∧
  (∀ (s : State) (g : Nat), s.serving = true → exec (.debugWindowClose g) s = .next (
    match SMap.get s.sec.debug g with
    | none => s
    | some e => State.measureM2 { s.upToClk e with sec := { s.sec with debug := SMap.del s.sec.debug g } }
      (.debug (2 ^ g) false))) ∧
  (∀ (s : State) (g e : Nat), SMap.get s.sec.debug g = some e → (s.debugOpen g = true ↔ s.clk < e)) ∧
  -- JTAG_DEBUG_ACCESS inside the window, and outside it: there debug instructions read zero and do nothing (R589).
  (∀ (s : State) (t : Thr) (op : DebugOp),
    let opened := s.running = true ∧ s.debugOpen t.grove = true ∧ s.threadThere t = true
    exec (.jtagDebugAccess t op) s = .next (
      match op with
      | .halt => if opened then s.putThread t { s.thread t with halted := true } else s
      | .resume => if opened then s.putThread t { s.thread t with halted := false } else s
      | .read d => s.emit (.jtag (if opened then s.debugRead t d else 0))
      | .write d v => if opened then s.debugWrite t d v else s
      | .chRelease ch =>
        match ((s.svc t.grove).chan ch).res with
        | none => s
        | some x => if opened ∧ x.thread = tnum t then s.chRelease t.grove ch else s)) ∧
  (∀ (s : State) (t : Thr) (v : BitVec 64), s.debugRead t .pc = (s.thread t).pc ∧
    s.debugWrite t .pc v = s.setThread t { s.thread t with pc := v }) ∧
  -- SECURITY.IDENTITY_GET and SECURITY.KEYS_GET
  (∀ (s : State) (r : Request), s.asks r 0x0A07 → exec .securityIdentityGet s = .next (
    if r.payload.length ≠ 4 then s.taken.reply r St.badArg
    else s.taken.reply r 0 (leBytes 4 4664 ++ leBytes 4 (fld r.payload 0 4) ++
      (s.certificate.drop (fld r.payload 0 4)).take 4000))) ∧
  (∀ (s : State), s.certificate.length = 4664) ∧
  (∀ (s : State) (r : Request), s.asks r 0x0A0A → exec .securityKeysGet s = .next (
    if r.payload.length ≠ 0 then s.taken.reply r St.badArg
    else s.taken.reply r 0
      (leBytes 4 ((List.range 18).foldl (fun m i => m + 2 ^ i * b2n (SMap.get s.nv.cmdKeys i).isSome) 0) ++
        leBytes 1 (b2n s.nv.owk.isSome + 2 * b2n s.nv.serviceKey.isSome + 4 * b2n s.nv.bitstreamKey.isSome) ++ zeros 3 ++
        leBytes 4 s.nv.fwFloor ++ leBytes 4 s.nv.bitFloor))) ∧
  -- SECURITY.ATTEST, ATTEST_COMPLETE and SECURITY.REPORT_GET
  (∀ (s : State) (r : Request), s.asks r 0x0A08 → exec .securityAttest s = .next (
    if r.payload.length ≠ 32 then s.taken.reply r St.badArg
    else if 64 ≤ s.sl.ops.length then s.taken.reply r St.busy
    else s.taken.replyStarted r 1 (.attest r.payload))) ∧
  (∀ (s : State) (h : Nat) (o : LongOp) (b : List Byte), s.serving = true → s.turns h o → o.cancel = false →
    o.data = .attest b →
    let z := s.atStep h
    let u := z.endOp o.step 0
    exec (.attestComplete h) s = .next { u with sec := { u.sec with
      reports := (u.sec.reports.filter fun x => u.sl.ended.any (·.handle == x.handle)) ++
        [⟨h, o.starter, z.report o.starter b, fixed 1280 (Config.fnDsaSign (z.report o.starter b))⟩] } }) ∧
  (∀ (s : State) (r : Request) (h : Nat), s.asks r 0x0A09 → fld r.payload 0 4 = h → exec .securityReportGet s = .next (
    if r.payload.length ≠ 4 then s.taken.reply r St.badArg
    else match s.op h, s.sl.ended.find? (·.handle == h) with
    | some o, _ =>
      if o.opcode ≠ 0x0A08 then s.taken.reply r St.notFound
      else if starterGate r.actor o.starter = false then s.taken.reply r St.notOwner
      else s.taken.reply r St.busy
    | none, none => s.taken.reply r St.notFound
    | none, some e =>
      match s.sec.reports.find? (·.handle == h) with
      | none => s.taken.reply r St.notFound
      | some x =>
        if starterGate r.actor e.starter = false then s.taken.reply r St.notOwner
        else s.taken.reply r 0 (x.report ++ x.signature)))

/-- 20 R594 to R607: device time, its servo, its steps and the TIME commands. Where the spec leaves a choice or a value
open, the clauses follow assumption log entry 51: there they state the model's choice. -/
def Obligations.DeviceTime : Prop :=
  -- R594: device time is an unsigned 64-bit count.
  (∀ s : State, s.time < 2 ^ 64) ∧
  -- TIME.CONFIG: a change of SOURCE begins the count of good corrections and the time to holdover anew.
  (∀ (s : State) (r : Request) (c : TimeCfg), s.asks r 0x0B01 → r.payload.length = 16 → fld r.payload 1 1 ≤ 1 →
    c = ⟨fld r.payload 0 1, bit (fld r.payload 1 1) 0, fld r.payload 2 2, fld r.payload 4 2, fld r.payload 6 2,
      fld r.payload 8 4, BitVec.ofNat 32 (fld r.payload 12 4)⟩ → c.source ≤ 2 → 1 ≤ c.slewPpm → c.slewPpm ≤ 200 →
    100 ≤ c.holdMs → c.holdMs ≤ 60000 → 1000 ≤ c.stepNs → c.stepNs ≤ 1000000000 →
    let t := { s.tm.settle s.now with slewPpm := c.slewPpm }
    exec .timeConfig s = .next (
      if r.actor ≠ operator then s.taken.reply r St.notOwner
      else s.taken.replyCfg { s.taken with
        cfg := { s.cfg with time := c }
        tm := if c.source = s.cfg.time.source then t else { t with good := 0, lastSupply := some s.clk } } r)) ∧
  -- TIME_SET_DELTA: the remaining slew ends, DELTA is stepped, and the state is SET.
  (∀ (s : State) (r : Request), s.asks r 0x0B02 → r.payload.length = 16 → fld r.payload 0 1 = 0 → fld r.payload 1 7 = 0 →
    let u := (s.taken.slewBy 0).timeStep (sfld r.payload 8 8)
    exec .timeSetDelta s = .next (
      if r.actor ≠ operator then s.taken.reply r St.notOwner
      else (State.timeState { u with tm := { u.tm with good := 0 } } 1).reply r 0)) ∧
  -- R604, R606: a step moves the count and is counted in STEPS.
  (∀ (s : State) (d : Int), s.tb.events = [] → s.clr = [] → (s.timeStep d).tm.base = s.tm.base + d ∧
    (s.timeStep d).tm.steps = s.tm.steps + 1 ∧ (s.timeStep d).now = s.now ∧ (s.timeStep d).tm.state = s.tm.state) ∧
  (∀ d : Int, 0 < d → d < 4000 → stepData d = 1) ∧ (∀ d : Int, -4000 < d → d < 0 → stepData d = BitVec.ofInt 32 (-1)) ∧
  (∀ k : Int, -2147483648 ≤ k → k ≤ 2147483647 → stepData (4000 * k) = BitVec.ofInt 32 k) ∧
  -- TIME_SET_AT_EDGE waits for an edge, and TIME_SET_EDGE_TIMEOUT ends it with ABORTED after 2 s.
  (∀ (s : State) (r : Request), s.asks r 0x0B02 → r.payload.length = 16 → fld r.payload 0 1 = 1 → fld r.payload 1 7 = 0 →
    exec .timeSetAtEdge s = .next (
      if fld r.payload 8 8 % 4000000000 ≠ 0 then s.taken.reply r St.badArg
      else if r.actor ≠ operator then s.taken.reply r St.notOwner
      else if s.tm.pendingSet.isSome = true then s.taken.reply r St.busy
      else State.drain { s.taken with tm := { s.tm with pendingSet := some (fld r.payload 8 8, s.clk + ms 2000, r) } })) ∧
  (∀ (s : State), s.serving = true → exec .timeSetEdgeTimeout s = .next (
    match s.tm.pendingSet with
    | none => s
    | some (_, t, r) => State.reply { s.upToClk t with tm := { (s.upToClk t).tm with pendingSet := none } } r St.aborted)) ∧
  -- R601, TIME.ADJUST under SOURCE 2: the frequency at once, the offset slewed or stepped; LOCKED after 4 good ones.
  (∀ (s : State) (r : Request), s.asks r 0x0B03 → r.payload.length = 12 → (sfld r.payload 8 4).natAbs ≤ 51200000 →
    let k := if 400 < (sfld r.payload 0 8).natAbs then 0
      else if (s.tm.lastSupply.any fun l => s.clk ≤ l + ms s.cfg.time.holdMs) = true then s.tm.good + 1 else 1
    let u := (s.taken.setFreq (sfld r.payload 8 4)).correct (sfld r.payload 0 8)
    exec .timeAdjust s = .next (
      if r.actor ≠ operator ∧ r.actor ≠ s.cfg.time.adjustFn then s.taken.reply r St.notOwner
      else if s.cfg.time.source ≠ 2 ∨ s.board.sysref = false then s.taken.reply r 0
      else (State.timeState { u with tm := { u.tm with good := k, lastSupply := some u.clk } }
        (if 4 ≤ k ∨ u.tm.state = 2 then 2 else 1)).reply r 0)) ∧
  (∀ (s : State) (f : Int), (s.setFreq f).tm.freq ≤ 51200000 ∧ -51200000 ≤ (s.setFreq f).tm.freq ∧
    (-51200000 ≤ f → f ≤ 51200000 → (s.setFreq f).tm.freq = f)) ∧
  -- R600, R601: an offset above STEP_NS is stepped when AUTO_STEP is set, and otherwise slewed.
  (∀ (s : State) (d : Int), (d.natAbs ≤ 4 * s.cfg.time.stepNs ∨ s.cfg.time.autoStep = false) → s.correct d = s.slewBy d) ∧
  (∀ (s : State) (d : Int), 4 * s.cfg.time.stepNs < d.natAbs → s.cfg.time.autoStep = true →
    s.correct d = (s.slewBy 0).timeStep d) ∧
  -- R602: a slew adds at most SLEW_PPM and no more than the offset.
  (∀ (t : TimeSt) (n : Nat), 0 ≤ t.slew → t.slewDone n ≤ t.slew ∧ t.slewDone n ≤ Int.ofNat ((n - t.slewStart) * t.slewPpm / 1000000)) ∧
  -- TIME.GET, of any function
  (∀ (s : State) (r : Request), s.asks r 0x0B04 → exec .timeGet s = .next (
    if r.payload.length ≠ 0 then s.taken.reply r St.badArg
    else s.taken.reply r 0
      (leBytes 8 s.time ++ leBytes 1 s.tm.state ++ leBytes 1 s.cfg.time.source ++ zeros 2 ++ intBytes 4 s.tm.freq ++
        intBytes 8 (s.tm.slew - s.tm.slewDone s.now) ++ intBytes 8 s.tm.lastError ++ leBytes 8 s.tm.steps ++
        leBytes 8 s.tm.rejected ++ s.cfg.time.bytes))) ∧
  -- R600, PPS_IN_EDGE: while LOCKED, an edge more than 100 us off is rejected and counted; a TIME.SET that waits takes an accepted one.
  (∀ (s : State) (n : Nat), s.serving = true →
    let z := s.upToTime n
    let e := phaseError (Int.ofNat z.time + s.cfg.time.ppsCorr.toInt)
    let u : State := { z with tm := { z.tm with lastError := e } }
    let servo := s.cfg.time.source = 1
    let x := if servo then u.servoEdge else u
    exec (.ppsInEdge n) s = .next (
      if s.board.sysref = false then u
      else if servo ∧ s.tm.state = 2 ∧ 400000 < e.natAbs then { u with tm := { u.tm with rejected := u.tm.rejected + 1 } }
      else match s.tm.pendingSet with
      | some (v, _, r) =>
        let y := (x.slewBy 0).timeStep (Int.ofNat v - (Int.ofNat z.time + s.cfg.time.ppsCorr.toInt))
        (State.timeState { y with tm := { y.tm with pendingSet := none, good := 0 } } 1).reply r 0
      | none =>
        if servo then
          let y := x.correct (-e)
          let k := if e.natAbs ≤ 80 then y.tm.good + 1 else 0
          State.timeState { y with tm := { y.tm with good := k } } (if 16 ≤ k ∨ y.tm.state = 2 then 2 else 1)
        else u)) ∧
  -- An accepted edge supplies the servo; its new frequency is a free value, since R600 states no law.
  (∀ (s : State), s.servoEdge.tm.lastSupply = some s.clk ∧ s.servoEdge.tm.freq =
    max (-51200000) (min 51200000 (Config.freeValue 27 s.free).toInt)) ∧
  -- R603, TIME_HOLDOVER: nothing supplied within HOLD_MS.
  (∀ (s : State), s.serving = true → exec .timeHoldover s = .next (
    match s.tm.lastSupply with
    | none => s
    | some l =>
      if s.cfg.time.source ≠ 0 ∧ (s.tm.state = 1 ∨ s.tm.state = 2) then
        let u := s.upToClk (l + ms s.cfg.time.holdMs)
        State.timeState { u with tm := { u.tm with good := 0 } } 3
      else s)) ∧
  -- R603, R606: a change of STATE fires EV_TIME_STATE.
  (∀ (s : State) (v : Nat), s.tm.state ≠ v → s.timeState v = State.fireAll { s with tm := { s.tm with state := v } } 245
    Ev.timeState (BitVec.ofNat 32 (v + 16 * s.cfg.time.source + 256 * s.tm.state))) ∧
  (∀ (s : State) (v : Nat), s.tm.state = v → s.timeState v = s)

/-- 21 R608 to R619: scrubbing, failing leaves, fenced units and failed groves. Where the spec leaves a choice or a value
open, the clauses follow assumption log entry 52: there they state the model's choice. -/
def Obligations.FaultRows : Prop :=
  -- SCRUB_READ: good, correctable and uncorrectable reads of a leaf that the variant has.
  (∀ (s : State) (l : LocWord) (w : Nat) (o : ReadOutcome), s.running = true → exec (.scrubRead l w o) s = .next (
    if s.locPresent l = false then s
    else match o with
    | .good => s.scrubLeaf l w false
    | .correctable => (if groveKind l.kind = true then s.healthCtr l.grove 2 1 else s).scrubLeaf l w true
    | .uncorrectable n => (s.uncorrectable l (BitVec.ofNat 8 n)).poisonWord l w)) ∧
  -- R610: an uncorrectable word of package memory is poisoned, once.
  (∀ (s : State) (l : LocWord) (w : Nat), l.kind = 0x21 → (s.poisonWord l w).hl.poison =
    if s.hl.poison.contains w then s.hl.poison else w :: s.hl.poison) ∧
  -- R611: a leaf fails for its 16th correctable read in 24 h, or its 8th pass that shows one; it is logged, and a cell is never allocated again.
  (∀ (s : State) (l : LocWord) (w : Nat),
    let e : LeafErr := match s.hl.leafErrs.find? (·.loc == l) with
      | some e => e.scrub w s.clk true
      | none => ⟨l, [s.clk], [s.clk], w, true⟩
    let u (x : LeafErr) : State := { s with hl := { s.hl with leafErrs := x :: s.hl.leafErrs.filter (·.loc != l) } }
    s.scrubLeaf l w true = if 16 ≤ e.reads.length ∨ 8 ≤ e.passes.length then
      (u { e with reads := [], passes := [] }).leafFails l (max e.reads.length e.passes.length) else u e) ∧
  (∀ (e : LeafErr) (w n : Nat), (e.scrub w n true).reads = (lastDay n e.reads) ++ [n]) ∧
  (∀ (s : State) (l : LocWord) (n : Nat), l.kind = 0x08 → l ∈ (s.leafFails l n).hl.retired) ∧
  -- R614, UNIT_FAILURE: the work in flight is lost, the unit is fenced, logged, and told of; each kind in its own way.
  (∀ (s : State) (l : LocWord) (c : Nat), s.running = true → exec (.unitFailure l c) s = .next (s.failUnit l c)) ∧
  (∀ (s : State) (l : LocWord) (c : Nat), s.locPresent l = true → 1 ≤ c → c ≤ 3 → s.hl.retired.contains l = false →
    s.isFenced l.kind (locScope l) l.unit = false → (c = 2 → s.rateReached l = true) →
    let tell (u : State) := (u.fence l).reportFence l c
    s.failUnit l c =
      if l.level = 1 then
        if l.kind = 0x04 ∨ l.kind = 0x08 ∨ l.kind = 0x09 ∨ l.kind = 0x21 then (s.loseLeaf l).reportFence l c else s
      else if l.level = 2 ∧ l.kind = 0x04 then s
      else if l.kind = 0x20 then
        if (s.plane l.unit).state = 3 then tell s
        else if c = 3 then
          tell (s.setPlane l.unit { s.plane l.unit with state := 3, downDue := some (3, 0), modeDue := none })
        else s
      else if l.kind = 0x22 then
        if l.unit = s.hl.active then s
        else (tell { s with hl := if l.unit = 0 then { s.hl with warden0 := false } else { s.hl with warden1 := false } }).endActivation
      else if l.kind = 0x23 then s.reportFence l c
      else tell (s.loseWork l)) ∧
  (∀ (s : State) (l : LocWord) (c : Nat), (s.locPresent l = false ∨ s.hl.retired.contains l = true ∨ c = 0 ∨ 3 < c ∨
    s.isFenced l.kind (locScope l) l.unit = true ∨ (c = 2 ∧ s.rateReached l = false)) → s.failUnit l c = s) ∧
  (∀ (s : State) (l : LocWord), (s.fence l).isFenced l.kind (locScope l) l.unit = true) ∧
  -- Of a trail pipeline: 8 fewer by one.
  (∀ (s : State) (l : LocWord), l.kind = 0x02 → l.unit < 8 → s.live 0x02 l.grove 8 = List.range 8 →
    ((s.fence l).live 0x02 l.grove 8).length = 7) ∧
  -- R615, TREE_BANK_REMAP: the lowest spare serves the failed bank's slots, and they read again.
  (∀ (s : State) (g b : Nat), s.running = true → exec (.treeBankRemap g b) s = .next (
    if s.hl.retired.contains (locLeaf g 0x04 0 b) = false then s
    else match s.logicalBank g b, s.spareBanks g with
    | some i, k :: _ =>
      State.modHalves { s with hl := { s.hl with bankMap := SMap.set s.hl.bankMap (132 * g + i) k } } g fun h =>
        { h with dead := h.dead.filter (· != i), bad := h.bad.filter fun n => n % 128 != i }
    | _, _ => s)) ∧
  (∀ (s : State) (g i k : Nat), State.physBank { s with hl := { s.hl with
    bankMap := SMap.set s.hl.bankMap (132 * g + i) k } } g i = k) ∧
  -- R616, GROVE_FAILURE: the grove is failed, its queue pairs, ports, frames and clearings with it, and it is told of.
  (∀ (s : State) (g c : Nat), s.running = true → exec (.groveFailure g c) s = .next (s.failGrove g c)) ∧
  (∀ (s : State) (g c : Nat), g < s.groves → s.groveFailed g = false → s.groveCause g c = true →
    (s.failGrove g c).groveFailed g = true ∧ (s.failGrove g c).transitOf g = []) ∧
  (∀ (s : State) (g c : Nat), (s.groves ≤ g ∨ s.groveFailed g = true ∨ s.groveCause g c = false) → s.failGrove g c = s)

/-- 21 R620 to R626: the warden cores, the error log and the HEALTH commands. Where the spec leaves a choice or a value
open, the clauses follow assumption log entry 52: there they state the model's choice. -/
def Obligations.WardenAndHealth : Prop :=
  -- WARDEN_HEARTBEAT every 100 us
  (∀ (s : State), s.serving = true → exec .wardenHeartbeat s = .next (
    if s.hl.coreLive s.hl.active = true then
      let u := s.upToClk (s.hl.heartbeat + us 100)
      { u with hl := { u.hl with heartbeat := u.clk } }
    else s)) ∧
  -- WARDEN_HEARTBEAT_TIMEOUT: 1 ms after the last heartbeat the core is declared failed, and a live standby takes over.
  (∀ (s : State), s.serving = true → exec .wardenHeartbeatTimeout s = .next (
    if s.hl.coreLive s.hl.active = true then
      let u := s.upToClk (s.hl.heartbeat + ms 1)
      let h := u.hl.setCore u.hl.active false
      { u with hl := if h.coreLive (1 - h.active) = true then { h with takeover := some h.heartbeat } else h }
    else s)) ∧
  (∀ (h : HealthSt) (c d : Nat) (v : Bool), c ≤ 1 → d ≤ 1 →
    (h.setCore c v).coreLive d = if d = c then v else h.coreLive d) ∧
  -- WARDEN_TAKEOVER_ACTIVE: the standby is active; requests that ran are answered ABORTED; EV_WARDEN_TAKEOVER.
  (∀ (s : State), s.serving = true → exec .wardenTakeoverActive s = .next (
    match s.hl.takeover with
    | none => s
    | some _ =>
      let a := 1 - s.hl.active
      let u := State.drain (State.answerOpen (State.supervisorLost { s with
        hl := { s.hl with active := a, heartbeat := s.clk, takeover := none } }))
      u.fireAll 244 Ev.wardenTakeover (BitVec.ofNat 32 (a + 2 * b2n (!u.hl.coreLive (1 - a)))))) ∧
  (∀ (s : State) (r : Request), s.sl.accepted = some r → s.tm.pendingSet = none → s.clr = [] →
    s.answerOpen = s.taken.finish r true ⟨St.aborted, [], 0⟩) ∧
  -- R622: an activation whose supervising core is lost ends INTERNAL; before the roles have swapped the core left completes its reboot on the staged image.
  (∀ (s : State), s.supervisorLost = match s.activation with
    | none => s
    | some (o, i) => (if o.stepsDone = 0 then s.startImage i else s).endActivation) ∧
  (∀ (s : State) (o : LongOp) (i : Nat), s.activation = some (o, i) →
    s.endActivation = { s.endOp o St.internal with boot := { s.boot with activating := false } }) ∧
  -- FAILED_CORE_TEST: it rejoins as standby, or is fenced.
  (∀ (s : State) (ok : Bool), s.serving = true →
    let c := 1 - s.hl.active
    let l := locDev 0x22 c
    exec (.failedCoreTest ok) s = .next (
      if s.hl.takeover.isSome = true ∨ s.hl.coreLive c = true ∨ s.hl.coreLive s.hl.active = false ∨
        s.isFenced 0x22 0 c = true then s
      else if ok = true then State.log { s with hl := s.hl.setCore c true } l 5 4 1
      else ((s.log l 5 4 2).fence l).reportFence l 1)) ∧
  -- R623, LOG_FLUSH: the waiting records join a ring of 131,072, at once when they are 512 and else at the end of 10 s.
  (∀ (s : State), s.serving = true →
    let u := if 512 ≤ s.ret.logBuf.length then s else s.upToClk (s.hl.lastFlush + ms 10000)
    let l := s.nv.logRing ++ s.ret.logBuf
    exec .logFlush s = .next { u with
      nv := { u.nv with logRing := l.drop (l.length - 131072) }
      ret := { u.ret with logBuf := [] }
      hl := { u.hl with lastFlush := u.clk } }) ∧
  -- R623: records with the same KIND and LOCATION fold in one window of 1 s (here: a new one when none is kept).
  (∀ (s : State) (l : LocWord) (k v : Nat) (d : BitVec 32), s.nv.logRing = [] → s.ret.logBuf = [] →
    ∃ x : LogRec, (s.log l k v d).ret.logBuf = [x] ∧ x.time = s.time ∧ x.kind = k ∧ x.severity = v ∧ x.detail = d ∧
      x.seq = s.ret.logSeq) ∧
  -- HEALTH.GET and HEALTH.LOG_READ, of any PF2 and of the operator principal
  (∀ (s : State) (r : Request), s.asks r 0x0D01 → ∃ b : List Byte, exec .healthGet s = .next (
      if r.payload.length ≠ 0 then s.taken.reply r St.badArg
      else if s.anyPf2 r.actor = false then s.taken.reply r St.notOwner
      else s.taken.reply r 0 b) ∧
    b.take 4 = leBytes 1 (b2n s.hl.warden0 + 2 * b2n s.hl.warden1 + 4 * s.hl.active) ++ leBytes 1 s.capacity ++ zeros 2 ∧
    b.length = 48 + 16 * s.groves ∧ b.drop 48 = s.groveList.flatMap s.groveHealth) ∧
  (∀ (s : State) (g : Nat), s.groveFailed g = true → (s.groveHealth g).take 1 = [2]) ∧
  (∀ (s : State) (r : Request), s.asks r 0x0D02 →
    let l := (logFrom (s.nv.logRing ++ s.ret.logBuf) (BitVec.ofNat 32 (fld r.payload 0 4))).take 125
    exec .healthLogRead s = .next (
      if r.payload.length ≠ 8 ∨ fld r.payload 4 4 ≠ 0 then s.taken.reply r St.badArg
      else if s.anyPf2 r.actor = false then s.taken.reply r St.notOwner
      else s.taken.reply r 0 (l.flatMap LogRec.bytes ++
        leBytes 4 ((l.getLast?.map fun x => x.seq + 1).getD s.ret.logSeq).toNat)))
end

