-- ==== Sys2Proof/Laws/Bytes.lean ====
section
/-! SUPPORT. Little-endian fields: what is read from bytes that were written as fields. -/
set_option Elab.async false
namespace Sys2Proof.Machine

@[simp] theorem leBytes_length (n v : Nat) : (leBytes n v).length = n := by
  induction n generalizing v with
  | zero => rfl
  | succ n ih => simp [leBytes, ih]
@[simp] theorem zeros_length (n : Nat) : (zeros n).length = n := by simp [zeros]
theorem leNat_append (a b : List Byte) : leNat (a ++ b) = leNat a + 256 ^ a.length * leNat b := by
  induction a with
  | nil => simp [leNat]
  | cons x a ih => simp only [List.cons_append, leNat, ih, List.length_cons, Nat.pow_succ, Nat.mul_add]; ac_rfl
theorem leNat_leBytes (n v : Nat) : leNat (leBytes n v) = v % 256 ^ n := by
  induction n generalizing v with
  | zero => simp [leBytes, leNat, Nat.mod_one]
  | succ n ih =>
    have : v % (256 * 256 ^ n) = v % 256 + 256 * (v / 256 % 256 ^ n) := Nat.mod_mul
    simp only [leBytes, leNat, ih, BitVec.toNat_ofNat, Nat.pow_succ, Nat.mul_comm _ 256, this]
@[simp] theorem leNat_zeros (n : Nat) : leNat (zeros n) = 0 := by
  induction n with
  | zero => rfl
  | succ n ih => exact (congrArg (256 * ·) ih).trans (Nat.mul_zero _) |> (Nat.zero_add _).trans
/-- The field that stands first. -/
theorem slice_first (a b : List Byte) : slice (a ++ b) 0 a.length = a := by simp [slice]
/-- A field behind bytes of a known length. -/
theorem slice_skip (a b : List Byte) (o n : Nat) : slice (a ++ b) (a.length + o) n = slice b o n := by
  simp [slice, List.drop_append, List.drop_eq_nil_of_le (show a.length ≤ a.length + o by omega)]
theorem slice_all (a : List Byte) : slice a 0 a.length = a := by simp [slice]
/-- A field written first reads as its value. -/
theorem fld_first (n v : Nat) (b : List Byte) (h : v < 256 ^ n) : fld (leBytes n v ++ b) 0 n = v := by
  have := slice_first (leBytes n v) b
  rw [leBytes_length] at this
  rw [fld, this, leNat_leBytes, Nat.mod_eq_of_lt h]
theorem fld_only (n v : Nat) (h : v < 256 ^ n) : fld (leBytes n v) 0 n = v := by
  have := slice_all (leBytes n v)
  rw [leBytes_length] at this
  rw [fld, this, leNat_leBytes, Nat.mod_eq_of_lt h]
/-- A field behind another of `k` bytes. -/
theorem fld_skip (k v o n : Nat) (b : List Byte) (h : k ≤ o) : fld (leBytes k v ++ b) o n = fld b (o - k) n := by
  have := slice_skip (leBytes k v) b (o - k) n
  rw [leBytes_length, Nat.add_sub_cancel' h] at this
  rw [fld, this, fld]
theorem fld_skip_zeros (k o n : Nat) (b : List Byte) (h : k ≤ o) : fld (zeros k ++ b) o n = fld b (o - k) n := by
  have := slice_skip (zeros k) b (o - k) n
  rw [zeros_length, Nat.add_sub_cancel' h] at this
  rw [fld, this, fld]
theorem fld_lt (b : List Byte) (o n : Nat) : fld b o n < 256 ^ n := by
  have key : ∀ l : List Byte, leNat l < 256 ^ l.length := by
    intro l
    induction l with
    | nil => simp [leNat]
    | cons x l ih =>
      have := x.isLt
      simp only [leNat, List.length_cons, Nat.pow_succ]
      omega
  refine Nat.lt_of_lt_of_le (key _) (Nat.pow_le_pow_right (by decide) ?_)
  rw [slice, List.length_take]
  exact Nat.min_le_left ..

end Sys2Proof.Machine
end

