-- ==== Sys2Proof/Laws/Memory.lean ====
section
/-! SUPPORT. Sparse maps and package memory: what a read of one key finds after a write, and that every memory operation
keeps the canonical form. -/
set_option Elab.async false
namespace Sys2Proof.Machine

/-! ## Sparse maps -/

theorem SMap.sorted_iff {α : Type} (m : SMap α) : SMap.sorted m = true ↔ (m.map (·.1)).Pairwise (· < ·) := by
  induction m with
  | nil => simp [SMap.sorted]
  | cons x m ih =>
    obtain ⟨a, v⟩ := x
    cases m with
    | nil => simp [SMap.sorted]
    | cons y m =>
      obtain ⟨b, w⟩ := y
      simp only [SMap.sorted, Bool.and_eq_true, decide_eq_true_eq, ih, List.map_cons, List.pairwise_cons, List.mem_cons,
        forall_eq_or_imp]
      constructor
      · rintro ⟨h, h1, h2⟩
        exact ⟨⟨h, fun k hk => Nat.lt_trans h (h1 k hk)⟩, h1, h2⟩
      · rintro ⟨⟨h, -⟩, h1, h2⟩
        exact ⟨h, h1, h2⟩

/-- The keys of a map with a value set: the old keys and the one set. -/
theorem SMap.mem_keys_set {α : Type} (m : SMap α) (i : Nat) (v : α) (k : Nat) :
    k ∈ (SMap.set m i v).map (·.1) ↔ k = i ∨ k ∈ m.map (·.1) := by
  induction m with
  | nil => simp [SMap.set]
  | cons x m ih =>
    obtain ⟨a, w⟩ := x
    by_cases h : a = i
    · subst h; simp [SMap.set]
    · by_cases h2 : i < a
      · simp [SMap.set, h, h2]
      · simp only [SMap.set, h, h2, if_false, List.map_cons, List.mem_cons, ih]
        grind

theorem SMap.mem_keys_del {α : Type} (m : SMap α) (i k : Nat) :
    k ∈ (SMap.del m i).map (·.1) → k ∈ m.map (·.1) := by
  induction m with
  | nil => simp [SMap.del]
  | cons x m ih =>
    obtain ⟨a, w⟩ := x
    by_cases h : a = i
    · simp only [SMap.del, h, if_true, List.map_cons, List.mem_cons]; exact Or.inr
    · by_cases h2 : i < a
      · simp [SMap.del, h, h2]
      · simp only [SMap.del, h, h2, if_false, List.map_cons, List.mem_cons]
        rintro (h3 | h3)
        · exact Or.inl h3
        · exact Or.inr (ih h3)

/-- Setting a value keeps the keys rising. -/
theorem SMap.sorted_set {α : Type} (m : SMap α) (i : Nat) (v : α) (h : SMap.sorted m = true) :
    SMap.sorted (SMap.set m i v) = true := by
  rw [SMap.sorted_iff] at *
  induction m with
  | nil => simp [SMap.set]
  | cons x m ih =>
    obtain ⟨a, w⟩ := x
    simp only [List.map_cons, List.pairwise_cons] at h
    by_cases e : a = i
    · subst e; simpa [SMap.set] using h
    · by_cases l : i < a
      · simp only [SMap.set, e, if_false, if_pos l, List.map_cons, List.pairwise_cons, List.mem_cons, forall_eq_or_imp]
        exact ⟨⟨l, fun k hk => Nat.lt_trans l (h.1 k hk)⟩, h.1, h.2⟩
      · simp only [SMap.set, e, l, if_false, List.map_cons, List.pairwise_cons]
        refine ⟨fun k hk => ?_, ih h.2⟩
        rcases (SMap.mem_keys_set m i v k).1 hk with rfl | hk
        · omega
        · exact h.1 k hk

/-- Removing a key keeps the keys rising. -/
theorem SMap.sorted_del {α : Type} (m : SMap α) (i : Nat) (h : SMap.sorted m = true) : SMap.sorted (SMap.del m i) = true := by
  rw [SMap.sorted_iff] at *
  induction m with
  | nil => simp [SMap.del]
  | cons x m ih =>
    obtain ⟨a, w⟩ := x
    simp only [List.map_cons, List.pairwise_cons] at h
    by_cases e : a = i
    · simp only [SMap.del, e, if_true]; exact h.2
    · by_cases l : i < a
      · simpa [SMap.del, e, l] using h
      · simp only [SMap.del, e, l, if_false, List.map_cons, List.pairwise_cons]
        exact ⟨fun k hk => h.1 k (SMap.mem_keys_del m i k hk), ih h.2⟩

/-- A value set is found at its key. -/
@[simp] theorem SMap.get_set_self {α : Type} (m : SMap α) (i : Nat) (v : α) : SMap.get (SMap.set m i v) i = some v := by
  induction m with
  | nil => simp [SMap.set, SMap.get]
  | cons x m ih =>
    obtain ⟨a, w⟩ := x
    by_cases e : a = i
    · simp [SMap.set, SMap.get, e]
    · by_cases l : i < a
      · simp [SMap.set, SMap.get, e, l]
      · simp [SMap.set, SMap.get, e, l, ih]

/-- A value set leaves what every other key finds. -/
theorem SMap.get_set_ne {α : Type} (m : SMap α) (i j : Nat) (v : α) (h : j ≠ i) :
    SMap.get (SMap.set m i v) j = SMap.get m j := by
  induction m with
  | nil => simp only [SMap.set, SMap.get, Ne.symm h, if_false]; split <;> rfl
  | cons x m ih =>
    obtain ⟨a, w⟩ := x
    by_cases e : a = i
    · subst e; simp [SMap.set, SMap.get, Ne.symm h]
    · by_cases l : i < a
      · simp only [SMap.set, e, l, if_false, if_true, SMap.get, Ne.symm h]
        by_cases g : j < i
        · have : ¬ a = j := by omega
          have g2 : j < a := by omega
          simp [g, this, g2]
        · simp [g]
      · simp only [SMap.set, e, l, if_false, SMap.get, ih]

@[simp] theorem SMap.getD_set_self {α : Type} (m : SMap α) (i : Nat) (v d : α) : SMap.getD (SMap.set m i v) i d = v := by
  simp [SMap.getD]

theorem SMap.getD_set_ne {α : Type} (m : SMap α) (i j : Nat) (v d : α) (h : j ≠ i) :
    SMap.getD (SMap.set m i v) j d = SMap.getD m j d := by
  simp [SMap.getD, SMap.get_set_ne m i j v h]

/-- A key below every key of a rising map finds nothing. -/
theorem SMap.get_none_of_lt {α : Type} (m : SMap α) (j : Nat) (h : ∀ k ∈ m.map (·.1), j < k) : SMap.get m j = none := by
  cases m with
  | nil => rfl
  | cons x m =>
    obtain ⟨a, w⟩ := x
    have : j < a := h a (by simp)
    simp [SMap.get, this, Nat.ne_of_gt this]

/-- A removed key finds nothing in a rising map. -/
theorem SMap.get_del_self {α : Type} (m : SMap α) (i : Nat) (h : SMap.sorted m = true) : SMap.get (SMap.del m i) i = none := by
  rw [SMap.sorted_iff] at h
  induction m with
  | nil => rfl
  | cons x m ih =>
    obtain ⟨a, w⟩ := x
    simp only [List.map_cons, List.pairwise_cons] at h
    by_cases e : a = i
    · subst e
      simp only [SMap.del, if_true]
      exact SMap.get_none_of_lt m a h.1
    · by_cases l : i < a
      · simp [SMap.del, SMap.get, e, l]
      · simp only [SMap.del, e, l, if_false, SMap.get, ih h.2]

/-- Removing a key of a rising map leaves what every other key finds. -/
theorem SMap.get_del_ne {α : Type} (m : SMap α) (i j : Nat) (h : SMap.sorted m = true) (n : j ≠ i) :
    SMap.get (SMap.del m i) j = SMap.get m j := by
  rw [SMap.sorted_iff] at h
  induction m with
  | nil => rfl
  | cons x m ih =>
    obtain ⟨a, w⟩ := x
    simp only [List.map_cons, List.pairwise_cons] at h
    by_cases e : a = i
    · subst e
      simp only [SMap.del, if_true, SMap.get, Ne.symm n, if_false]
      by_cases l : j < a
      · simp only [l, if_true]
        exact SMap.get_none_of_lt m j fun k hk => Nat.lt_trans l (h.1 k hk)
      · simp [l]
    · by_cases l : i < a
      · simp [SMap.del, e, l]
      · simp only [SMap.del, e, l, if_false, SMap.get, ih h.2]

/-! ## Package memory -/

theorem Memory.wf_iff (m : List Host.Cell) :
    Memory.wf m = true ↔ (m.map (·.1)).Pairwise (· < ·) ∧ ∀ c ∈ m, c.2 ≠ 0 := by
  simp [Memory.wf, ← SMap.sorted_iff]

theorem SMap.mem_set {α : Type} (m : SMap α) (i : Nat) (v : α) (c : Nat × α) :
    c ∈ SMap.set m i v → c = (i, v) ∨ c ∈ m := by
  induction m with
  | nil => simp [SMap.set]
  | cons x m ih =>
    obtain ⟨a, w⟩ := x
    by_cases e : a = i
    · simp only [SMap.set, e, if_true, List.mem_cons]; grind
    · by_cases l : i < a
      · simp only [SMap.set, e, l, if_false, if_true, List.mem_cons]; grind
      · simp only [SMap.set, e, l, if_false, List.mem_cons]; grind

theorem SMap.mem_del {α : Type} (m : SMap α) (i : Nat) (c : Nat × α) : c ∈ SMap.del m i → c ∈ m := by
  induction m with
  | nil => simp [SMap.del]
  | cons x m ih =>
    obtain ⟨a, w⟩ := x
    by_cases e : a = i
    · simp only [SMap.del, e, if_true, List.mem_cons]; grind
    · by_cases l : i < a
      · simp [SMap.del, e, l]
      · simp only [SMap.del, e, l, if_false, List.mem_cons]; grind

/-- A store of one byte keeps the canonical form. -/
theorem memWrite_wf (m : List Host.Cell) (a : Nat) (b : Byte) (h : Memory.wf m = true) :
    Memory.wf (memWrite m a b) = true := by
  unfold Memory.wf at *
  simp only [Bool.and_eq_true, List.all_eq_true, bne_iff_ne] at *
  unfold memWrite
  split
  · exact ⟨SMap.sorted_del m a h.1, fun c hc => h.2 c (SMap.mem_del m a c hc)⟩
  · rename_i hb
    refine ⟨SMap.sorted_set m a b h.1, fun c hc => ?_⟩
    rcases SMap.mem_set m a b c hc with rfl | hc
    · exact hb
    · exact h.2 c hc

/-- A store of bytes keeps the canonical form. -/
theorem memWriteBytes_wf (bs : List Byte) : ∀ (m : List Host.Cell) (a : Nat), Memory.wf m = true →
    Memory.wf (memWriteBytes m a bs) = true := by
  induction bs with
  | nil => exact fun m a h => h
  | cons b bs ih => exact fun m a h => ih _ _ (memWrite_wf m a b h)

/-- Zeroizing a window keeps the canonical form. -/
theorem memZeroize_wf (m : List Host.Cell) (base size : Nat) (h : Memory.wf m = true) :
    Memory.wf (memZeroize m base size) = true := by
  rw [Memory.wf_iff] at *
  unfold memZeroize
  exact ⟨h.1.sublist (List.filter_sublist.map _), fun c hc => h.2 c (List.mem_filter.1 hc).1⟩

/-- The byte read after a store of one byte. -/
theorem memRead_memWrite (m : List Host.Cell) (a x : Nat) (b : Byte) (h : Memory.wf m = true) :
    memRead (memWrite m a b) x = if x = a then b else memRead m x := by
  have hs : SMap.sorted m = true := by unfold Memory.wf at h; exact (Bool.and_eq_true_iff.1 h).1
  unfold memRead memWrite SMap.getD
  split
  · rename_i hb
    split
    · rename_i hx; subst hx; subst hb; simp [SMap.get_del_self m x hs]
    · rename_i hx; rw [SMap.get_del_ne m a x hs hx]
  · split
    · rename_i hx; subst hx; simp
    · rename_i hx; rw [SMap.get_set_ne m a x b hx]

/-- A store of bytes leaves every byte outside them. -/
theorem memRead_memWriteBytes_out (bs : List Byte) : ∀ (m : List Host.Cell) (a x : Nat), Memory.wf m = true →
    (x < a ∨ a + bs.length ≤ x) → memRead (memWriteBytes m a bs) x = memRead m x := by
  induction bs with
  | nil => exact fun m a x _ _ => rfl
  | cons b bs ih =>
    intro m a x h hx
    have hx' : x < a ∨ a + (bs.length + 1) ≤ x := by simpa using hx
    rw [memWriteBytes, ih _ _ _ (memWrite_wf m a b h) (by omega), memRead_memWrite m a x b h, if_neg (by omega)]

/-- A store of bytes leaves byte `i` of them at the address `i` above. -/
theorem memRead_memWriteBytes_in (bs : List Byte) : ∀ (m : List Host.Cell) (a i : Nat), Memory.wf m = true →
    (h : i < bs.length) → memRead (memWriteBytes m a bs) (a + i) = bs[i] := by
  induction bs with
  | nil => intro m a i _ h; exact absurd h (by simp)
  | cons b bs ih =>
    intro m a i hm h
    rw [memWriteBytes]
    cases i with
    | zero =>
      rw [memRead_memWriteBytes_out bs _ _ _ (memWrite_wf m a b hm) (by omega), memRead_memWrite m a _ b hm]; simp
    | succ i =>
      have := ih (memWrite m a b) (a + 1) i (memWrite_wf m a b hm) (by simpa using h)
      rw [show a + (i + 1) = a + 1 + i by omega, this]; simp

theorem foldl_memWrite_wf (f : Nat × Byte → Bool) (k : Nat × Byte → Nat) (l : List (Nat × Byte)) :
    ∀ m : List Host.Cell, Memory.wf m = true →
      Memory.wf (l.foldl (fun m x => if f x then m else memWrite m (k x) x.2) m) = true := by
  induction l with
  | nil => exact fun m h => h
  | cons x l ih =>
    intro m h
    refine ih _ ?_
    show Memory.wf (if f x then m else memWrite m (k x) x.2) = true
    split
    · exact h
    · exact memWrite_wf m _ _ h

/-- What `State.memPut` stores keeps the canonical form. -/
theorem memPut_wf (s : State) (a : Nat) (b : List Byte) (h : Memory.wf s.mem = true) :
    Memory.wf (s.memPut a b).mem = true := by
  unfold State.memPut
  simp only
  split
  · exact foldl_memWrite_wf (fun x => s.unitLost ((a + x.1) / 4096)) (fun x => a + x.1) _ _ h
  · exact memWriteBytes_wf b _ _ h

end Sys2Proof.Machine
end

