-- ==== Sys2Proof/Laws/Keeps.lean ====
section
/-! SUPPORT. How `State.Keeps` passes through the forms a meaning is built of: record updates, pairs, options, answers,
folds. -/
set_option Elab.async false
namespace Sys2Proof.Machine

/-- `Keeps` of a state given by its fields. -/
def State.KeepsMk (m : Parts) (a : State) (x_pending : List Instr) (x_now : Nat) (x_free : Nat) (x_out : List Out) (x_variant : Variant) (x_stepping : Nat × Nat) (x_board : Board) (x_boot : Boot) (x_nv : Nv) (x_ret : Retained) (x_cfg : RunCfg) (x_sl : SlaotSt) (x_et : EthSt) (x_cn : CanopySt) (x_ps : ParseSt) (x_cl : ClassSt) (x_tb : TableSt) (x_sv : SvcSt) (x_nvc : SMap NvCtl) (x_ra : RaSt) (x_ci : CiSt) (x_clr : SMap Cl) (x_sec : SecSt) (x_hp : HostSt) (x_qp : QpSt) (x_ev : EvSt) (x_tm : TimeSt) (x_hl : HealthSt) (x_mem : List Host.Cell) : Prop :=
  a.Keeps m ⟨x_pending, x_now, x_free, x_out, x_variant, x_stepping, x_board, x_boot, x_nv, x_ret, x_cfg, x_sl, x_et, x_cn, x_ps, x_cl, x_tb, x_sv, x_nvc, x_ra, x_ci, x_clr, x_sec, x_hp, x_qp, x_ev, x_tm, x_hl, x_mem⟩
/-- `Keeps` of the outcome of a command. -/
def State.KeepsR (m : Parts) (a : State) (r : Res) : Prop := ∀ t, r = .next t → a.Keeps m t
/-- `Keeps` of what a command of Slaot leaves. -/
def State.KeepsE (m : Parts) (a : State) (r : Except Nat Done) : Prop := ∀ d, r = .ok d → a.Keeps m d.s
/-- `Keeps` of a state, if there is one. -/
def State.KeepsO (m : Parts) (a : State) (r : Option State) : Prop := ∀ t, r = some t → a.Keeps m t
/-- `Keeps` of a state beside a value, if there is one. -/
def State.KeepsOS {α : Type} (m : Parts) (a : State) (r : Option (α × State)) : Prop := ∀ t, r = some t → a.Keeps m t.2
/-- `Keeps` of a state before a value, if there is one. -/
def State.KeepsOP {α : Type} (m : Parts) (a : State) (r : Option (State × α)) : Prop := ∀ t, r = some t → a.Keeps m t.1
/-- `Keeps` of an answer with its state first. -/
def State.KeepsA {α : Type} (m : Parts) (a : State) (r : Except Nat (State × α)) : Prop := ∀ t, r = .ok t → a.Keeps m t.1
/-- `Keeps` of an answer with its state last. -/
def State.KeepsB {α : Type} (m : Parts) (a : State) (r : Except Nat (α × State)) : Prop := ∀ t, r = .ok t → a.Keeps m t.2
/-- `Keeps` of a state or a status. -/
def State.KeepsC (m : Parts) (a : State) (r : Except Nat State) : Prop := ∀ t, r = .ok t → a.Keeps m t
/-- `Keeps` of a state before a value. -/
def State.KeepsP {α : Type} (m : Parts) (a : State) (p : State × α) : Prop := a.Keeps m p.1
/-- `Keeps` of a state behind a value. -/
def State.KeepsQ {α : Type} (m : Parts) (a : State) (p : α × State) : Prop := a.Keeps m p.2
/-- `Keeps` of a state before two values. -/
def State.KeepsT {α β : Type} (m : Parts) (a : State) (p : (State × α) × β) : Prop := a.Keeps m p.1.1
/-- `Keeps` of what an instruction of a service core leaves. -/
def State.KeepsN (m : Parts) (a : State) : Ran → Prop
  | .on s => a.Keeps m s
  | .fault s _ _ => a.Keeps m s
  | .wait s => a.Keeps m s

namespace Keeps
variable {m : Parts} {a s t : State}
theorem rfl' (m : Parts) (s : State) : s.Keeps m s :=
  ⟨rfl, rfl, rfl, Nat.le_refl _, Nat.le_refl _, ⟨[], (List.append_nil _).symm⟩, id, .inl rfl, .inl rfl, .inl rfl, .inl rfl, .inl rfl, .inl rfl, .inl rfl, .inl rfl, .inl rfl, .inl rfl, .inl rfl, .inl rfl, .inl rfl, .inl rfl, .inl rfl, .inl rfl, .inl rfl, .inl rfl, .inl rfl, .inl rfl, .inl rfl, .inl rfl, .inl rfl, .inl rfl, .inl rfl, .inl rfl⟩
theorem has_of {x m : Parts} (i : Nat) (h : Parts.sub x m) (k : x.getLsbD i = true) : m.getLsbD i = true := by
  have := congrArg (fun v => BitVec.getLsbD v i) h
  simp only [BitVec.getLsbD_and, k, Bool.true_and] at this
  exact this
theorem sub_of {x y m : Parts} (h : Parts.sub y m) (k : Parts.sub x y) : Parts.sub x m := by
  unfold Parts.sub at *
  rw [← k, BitVec.and_assoc, h]
theorem mk_iff {x_pending : List Instr} {x_now : Nat} {x_free : Nat} {x_out : List Out} {x_variant : Variant} {x_stepping : Nat × Nat} {x_board : Board} {x_boot : Boot} {x_nv : Nv} {x_ret : Retained} {x_cfg : RunCfg} {x_sl : SlaotSt} {x_et : EthSt} {x_cn : CanopySt} {x_ps : ParseSt} {x_cl : ClassSt} {x_tb : TableSt} {x_sv : SvcSt} {x_nvc : SMap NvCtl} {x_ra : RaSt} {x_ci : CiSt} {x_clr : SMap Cl} {x_sec : SecSt} {x_hp : HostSt} {x_qp : QpSt} {x_ev : EvSt} {x_tm : TimeSt} {x_hl : HealthSt} {x_mem : List Host.Cell} : a.Keeps m ⟨x_pending, x_now, x_free, x_out, x_variant, x_stepping, x_board, x_boot, x_nv, x_ret, x_cfg, x_sl, x_et, x_cn, x_ps, x_cl, x_tb, x_sv, x_nvc, x_ra, x_ci, x_clr, x_sec, x_hp, x_qp, x_ev, x_tm, x_hl, x_mem⟩ ↔ a.KeepsMk m x_pending x_now x_free x_out x_variant x_stepping x_board x_boot x_nv x_ret x_cfg x_sl x_et x_cn x_ps x_cl x_tb x_sv x_nvc x_ra x_ci x_clr x_sec x_hp x_qp x_ev x_tm x_hl x_mem := Iff.rfl
theorem upd {x_board x_boot x_nv x_ret x_cfg x_sl x_et x_cn x_ps x_cl x_tb x_sv x_nvc x_ra x_ci x_clr x_sec x_hp x_qp x_ev x_tm x_hl} (h : a.Keeps m s)
    (e_board : x_board = s.board ∨ m.getLsbD 3 = true := by first | exact Or.inl (by with_reducible rfl) | exact Or.inr (Keeps.has_of 3 (by assumption) (by decide)))
    (e_boot : x_boot = s.boot ∨ m.getLsbD 4 = true := by first | exact Or.inl (by with_reducible rfl) | exact Or.inr (Keeps.has_of 4 (by assumption) (by decide)))
    (e_nv : x_nv = s.nv ∨ m.getLsbD 5 = true := by first | exact Or.inl (by with_reducible rfl) | exact Or.inr (Keeps.has_of 5 (by assumption) (by decide)))
    (e_ret : x_ret = s.ret ∨ m.getLsbD 6 = true := by first | exact Or.inl (by with_reducible rfl) | exact Or.inr (Keeps.has_of 6 (by assumption) (by decide)))
    (e_cfg : x_cfg = s.cfg ∨ m.getLsbD 7 = true := by first | exact Or.inl (by with_reducible rfl) | exact Or.inr (Keeps.has_of 7 (by assumption) (by decide)))
    (e_sl : x_sl = s.sl ∨ m.getLsbD 8 = true := by first | exact Or.inl (by with_reducible rfl) | exact Or.inr (Keeps.has_of 8 (by assumption) (by decide)))
    (e_et : x_et = s.et ∨ m.getLsbD 9 = true := by first | exact Or.inl (by with_reducible rfl) | exact Or.inr (Keeps.has_of 9 (by assumption) (by decide)))
    (e_cn : x_cn = s.cn ∨ m.getLsbD 10 = true := by first | exact Or.inl (by with_reducible rfl) | exact Or.inr (Keeps.has_of 10 (by assumption) (by decide)))
    (e_ps : x_ps = s.ps ∨ m.getLsbD 11 = true := by first | exact Or.inl (by with_reducible rfl) | exact Or.inr (Keeps.has_of 11 (by assumption) (by decide)))
    (e_cl : x_cl = s.cl ∨ m.getLsbD 12 = true := by first | exact Or.inl (by with_reducible rfl) | exact Or.inr (Keeps.has_of 12 (by assumption) (by decide)))
    (e_tb : x_tb = s.tb ∨ m.getLsbD 13 = true := by first | exact Or.inl (by with_reducible rfl) | exact Or.inr (Keeps.has_of 13 (by assumption) (by decide)))
    (e_sv : x_sv = s.sv ∨ m.getLsbD 14 = true := by first | exact Or.inl (by with_reducible rfl) | exact Or.inr (Keeps.has_of 14 (by assumption) (by decide)))
    (e_nvc : x_nvc = s.nvc ∨ m.getLsbD 15 = true := by first | exact Or.inl (by with_reducible rfl) | exact Or.inr (Keeps.has_of 15 (by assumption) (by decide)))
    (e_ra : x_ra = s.ra ∨ m.getLsbD 16 = true := by first | exact Or.inl (by with_reducible rfl) | exact Or.inr (Keeps.has_of 16 (by assumption) (by decide)))
    (e_ci : x_ci = s.ci ∨ m.getLsbD 17 = true := by first | exact Or.inl (by with_reducible rfl) | exact Or.inr (Keeps.has_of 17 (by assumption) (by decide)))
    (e_clr : x_clr = s.clr ∨ m.getLsbD 18 = true := by first | exact Or.inl (by with_reducible rfl) | exact Or.inr (Keeps.has_of 18 (by assumption) (by decide)))
    (e_sec : x_sec = s.sec ∨ m.getLsbD 19 = true := by first | exact Or.inl (by with_reducible rfl) | exact Or.inr (Keeps.has_of 19 (by assumption) (by decide)))
    (e_hp : x_hp = s.hp ∨ m.getLsbD 20 = true := by first | exact Or.inl (by with_reducible rfl) | exact Or.inr (Keeps.has_of 20 (by assumption) (by decide)))
    (e_qp : x_qp = s.qp ∨ m.getLsbD 21 = true := by first | exact Or.inl (by with_reducible rfl) | exact Or.inr (Keeps.has_of 21 (by assumption) (by decide)))
    (e_ev : x_ev = s.ev ∨ m.getLsbD 22 = true := by first | exact Or.inl (by with_reducible rfl) | exact Or.inr (Keeps.has_of 22 (by assumption) (by decide)))
    (e_tm : x_tm = s.tm ∨ m.getLsbD 23 = true := by first | exact Or.inl (by with_reducible rfl) | exact Or.inr (Keeps.has_of 23 (by assumption) (by decide)))
    (e_hl : x_hl = s.hl ∨ m.getLsbD 24 = true := by first | exact Or.inl (by with_reducible rfl) | exact Or.inr (Keeps.has_of 24 (by assumption) (by decide)))
    : a.KeepsMk m s.pending s.now s.free s.out s.variant s.stepping x_board x_boot x_nv x_ret x_cfg x_sl x_et x_cn x_ps x_cl x_tb x_sv x_nvc x_ra x_ci x_clr x_sec x_hp x_qp x_ev x_tm x_hl s.mem :=
  ⟨h.pending, h.variant, h.stepping, h.now, h.free, h.out, h.mem,
    h.same_now,
    h.same_free,
    h.same_out,
    e_board.elim (fun e => h.same_board.imp (fun k => e.trans k) id) .inr,
    e_boot.elim (fun e => h.same_boot.imp (fun k => e.trans k) id) .inr,
    e_nv.elim (fun e => h.same_nv.imp (fun k => e.trans k) id) .inr,
    e_ret.elim (fun e => h.same_ret.imp (fun k => e.trans k) id) .inr,
    e_cfg.elim (fun e => h.same_cfg.imp (fun k => e.trans k) id) .inr,
    e_sl.elim (fun e => h.same_sl.imp (fun k => e.trans k) id) .inr,
    e_et.elim (fun e => h.same_et.imp (fun k => e.trans k) id) .inr,
    e_cn.elim (fun e => h.same_cn.imp (fun k => e.trans k) id) .inr,
    e_ps.elim (fun e => h.same_ps.imp (fun k => e.trans k) id) .inr,
    e_cl.elim (fun e => h.same_cl.imp (fun k => e.trans k) id) .inr,
    e_tb.elim (fun e => h.same_tb.imp (fun k => e.trans k) id) .inr,
    e_sv.elim (fun e => h.same_sv.imp (fun k => e.trans k) id) .inr,
    e_nvc.elim (fun e => h.same_nvc.imp (fun k => e.trans k) id) .inr,
    e_ra.elim (fun e => h.same_ra.imp (fun k => e.trans k) id) .inr,
    e_ci.elim (fun e => h.same_ci.imp (fun k => e.trans k) id) .inr,
    e_clr.elim (fun e => h.same_clr.imp (fun k => e.trans k) id) .inr,
    e_sec.elim (fun e => h.same_sec.imp (fun k => e.trans k) id) .inr,
    e_hp.elim (fun e => h.same_hp.imp (fun k => e.trans k) id) .inr,
    e_qp.elim (fun e => h.same_qp.imp (fun k => e.trans k) id) .inr,
    e_ev.elim (fun e => h.same_ev.imp (fun k => e.trans k) id) .inr,
    e_tm.elim (fun e => h.same_tm.imp (fun k => e.trans k) id) .inr,
    e_hl.elim (fun e => h.same_hl.imp (fun k => e.trans k) id) .inr,
    h.same_mem⟩
theorem P_iff {γ : Type} {p : State × γ} : a.Keeps m p.1 ↔ a.KeepsP m p := Iff.rfl
theorem Q_iff {γ : Type} {p : γ × State} : a.Keeps m p.2 ↔ a.KeepsQ m p := Iff.rfl
theorem T_iff {γ δ : Type} {p : (State × γ) × δ} : a.KeepsP m p.1 ↔ a.KeepsT m p := Iff.rfl
theorem P_mk {γ : Type} {y : γ} : a.KeepsP m (s, y) ↔ a.Keeps m s := Iff.rfl
theorem Q_mk {γ : Type} {y : γ} : a.KeepsQ m (y, s) ↔ a.Keeps m s := Iff.rfl
theorem T_mk {γ δ : Type} {p : State × γ} {y : δ} : a.KeepsT m (p, y) ↔ a.KeepsP m p := Iff.rfl
theorem fst_of {β : Type} {p : State × β} {x : State} {y : β} (e : p = (x, y)) (h : a.KeepsP m p) : a.Keeps m x := by
  subst e; exact h
theorem some_of {o : Option State} {x : State} (e : o = some x) (h : a.KeepsO m o) : a.Keeps m x := h x e
theorem someP_of' {α : Type} {o : Option (State × α)} {x : State} {y : α} (e : o = some (x, y)) (h : a.KeepsOP m o) : a.Keeps m x := h _ e
theorem noneP {α : Type} : a.KeepsOP m (none : Option (State × α)) := fun _ e => nomatch e
theorem someP {α : Type} {d : State × α} (h : a.KeepsP m d) : a.KeepsOP m (some d) := by rintro _ ⟨⟩; exact h
theorem mapOP {α β : Type} {o : Option β} {f : β → State × α} (hf : ∀ x, a.KeepsP m (f x)) : a.KeepsOP m (o.map f) := by
  cases o with
  | none => exact noneP
  | some x => exact someP (hf x)
theorem done_of {r : Except Nat Done} {d : Done} (e : r = .ok d) (h : a.KeepsE m r) : a.Keeps m d.s := h d e
theorem okA_of' {α : Type} {r : Except Nat (State × α)} {x : State} {y : α} (e : r = .ok (x, y)) (h : a.KeepsA m r) : a.Keeps m x := h _ e
theorem okB_of' {α : Type} {r : Except Nat (α × State)} {x : State} {y : α} (e : r = .ok (y, x)) (h : a.KeepsB m r) : a.Keeps m x := h _ e
theorem okC_of {r : Except Nat State} {d} (e : r = .ok d) (h : a.KeepsC m r) : a.Keeps m d := h d e
theorem someS_of' {α : Type} {o : Option (α × State)} {x : State} {y : α} (e : o = some (y, x)) (h : a.KeepsOS m o) : a.Keeps m x := h _ e
theorem fst2_of {β γ : Type} {p : (State × β) × γ} {x : State} {y : β} {z : γ} (e : p = ((x, y), z)) (h : a.KeepsT m p) : a.Keeps m x := by
  subst e; exact h
theorem error (st : Nat) : a.KeepsE m (.error st) := fun _ e => nomatch e
theorem errorA {α : Type} (st : Nat) : a.KeepsA m (.error st : Except Nat (State × α)) := fun _ e => nomatch e
theorem errorB {α : Type} (st : Nat) : a.KeepsB m (.error st : Except Nat (α × State)) := fun _ e => nomatch e
theorem errorC (st : Nat) : a.KeepsC m (.error st) := fun _ e => nomatch e
theorem ok {d : Done} (h : a.Keeps m d.s) : a.KeepsE m (.ok d) := by rintro _ ⟨⟩; exact h
theorem okA {α : Type} {d : State × α} (h : a.KeepsP m d) : a.KeepsA m (.ok d) := by rintro _ ⟨⟩; exact h
theorem okB {α : Type} {d : α × State} (h : a.KeepsQ m d) : a.KeepsB m (.ok d) := by rintro _ ⟨⟩; exact h
theorem okC {d : State} (h : a.Keeps m d) : a.KeepsC m (.ok d) := by rintro _ ⟨⟩; exact h
theorem none0 : a.KeepsO m none := fun _ e => nomatch e
theorem some0 (h : a.Keeps m s) : a.KeepsO m (some s) := by rintro _ ⟨⟩; exact h
theorem noneS {α : Type} : a.KeepsOS m (none : Option (α × State)) := fun _ e => nomatch e
theorem someS {α : Type} {d : α × State} (h : a.KeepsQ m d) : a.KeepsOS m (some d) := by rintro _ ⟨⟩; exact h
theorem next (h : a.Keeps m s) : a.KeepsR m (.next s) := by rintro _ ⟨⟩; exact h
theorem on (h : a.Keeps m s) : a.KeepsN m (.on s) := h
theorem fault {c v} (h : a.Keeps m s) : a.KeepsN m (.fault s c v) := h
theorem wait (h : a.Keeps m s) : a.KeepsN m (.wait s) := h
theorem getD {o : Option State} (ho : a.KeepsO m o) (h : a.Keeps m s) : a.Keeps m (o.getD s) := by
  cases o with
  | none => exact h
  | some x => exact ho x rfl
theorem map {α : Type} {o : Option α} {f : α → State} (hf : ∀ x, a.Keeps m (f x)) : a.KeepsO m (o.map f) := by
  cases o with
  | none => exact none0
  | some x => exact some0 (hf x)
theorem mapS {α : Type} {o : Option (α × State)} {f : α × State → State} (ho : a.KeepsOS m o)
    (hf : ∀ x, a.KeepsQ m x → a.Keeps m (f x)) : a.KeepsO m (o.map f) := by
  cases o with
  | none => exact none0
  | some x => exact some0 (hf x (ho x rfl))
theorem mapOS {α β : Type} {o : Option β} {f : β → α × State} (hf : ∀ x, a.KeepsQ m (f x)) : a.KeepsOS m (o.map f) := by
  cases o with
  | none => exact noneS
  | some x => exact someS (hf x)
theorem bindS {α : Type} {o : Option (α × State)} {f : α × State → Option State} (ho : a.KeepsOS m o)
    (hf : ∀ x, a.KeepsQ m x → a.KeepsO m (f x)) : a.KeepsO m (o.bind f) := by
  cases o with
  | none => exact none0
  | some x => exact hf x (ho x rfl)
theorem bindO {α : Type} {o : Option α} {f : α → Option State} (hf : ∀ x, a.KeepsO m (f x)) : a.KeepsO m (o.bind f) := by
  cases o with
  | none => exact none0
  | some x => exact hf x
theorem iteP {α : Type} {c : Prop} [Decidable c] {x y : State × α} (hx : a.KeepsP m x) (hy : a.KeepsP m y) :
    a.KeepsP m (if c then x else y) := by split <;> assumption
theorem foldl {β : Type} {f : State → β → State} {l : List β} (h : a.Keeps m s) (hf : ∀ x y, a.Keeps m x → a.Keeps m (f x y)) :
    a.Keeps m (l.foldl f s) := by
  induction l generalizing s with
  | nil => exact h
  | cons y l ih => exact ih (hf s y h)
theorem foldl_fst {β γ : Type} {f : State × γ → β → State × γ} {l : List β} {p : State × γ} (h : a.KeepsP m p)
    (hf : ∀ x y, a.KeepsP m x → a.KeepsP m (f x y)) : a.KeepsP m (l.foldl f p) := by
  induction l generalizing p with
  | nil => exact h
  | cons y l ih => exact ih (hf p y h)
end Keeps
end Sys2Proof.Machine
end

