-- ==== Sys2Proof/Laws/KeepsOps.lean ====
section
/-! SUPPORT. What the definitions of Machine/Ops.lean keep: no part of the state changes but those of the mask, which is
`Parts` in bits (Safety.lean), and what every command keeps. -/
set_option Elab.async false
namespace Sys2Proof.Machine

theorem State.setSrc_keeps {m : Parts} {a : State} (hm : Parts.sub 0x400000 m) (s : State) (i : Nat) (v : EvSrc) (hs : a.Keeps m s) :
    a.Keeps m (State.setSrc s i v) := by
  unfold State.setSrc
  with_reducible repeat' first
    | assumption | refine Keeps.upd ?_ | simp only [Keeps.mk_iff]
theorem State.setPort_keeps {m : Parts} {a : State} (hm : Parts.sub 0x100000 m) (s : State) (p : Nat) (v : HostPort) (hs : a.Keeps m s) :
    a.Keeps m (State.setPort s p v) := by
  unfold State.setPort
  with_reducible repeat' first
    | assumption | refine Keeps.upd ?_ | simp only [Keeps.mk_iff]
theorem State.hostCtr_keeps {m : Parts} {a : State} (hm : Parts.sub 0x100000 m) (s : State) (p : Nat) (i : Nat) (hs : a.Keeps m s) :
    a.Keeps m (State.hostCtr s p i) := by
  unfold State.hostCtr
  with_reducible repeat' first
    | assumption | apply State.setPort_keeps (Keeps.sub_of hm (by decide))
theorem State.emit_keeps {m : Parts} {a : State} (hm : Parts.sub 0x4 m) (s : State) (o : Out) (hs : a.Keeps m s) :
    a.Keeps m (State.emit s o) := by
  exact ⟨hs.pending, hs.variant, hs.stepping, hs.now, hs.free, hs.out.elim fun l e => ⟨l ++ [o], (congrArg (· ++ [o]) e).trans (List.append_assoc _ _ _)⟩, hs.mem, hs.same_now, hs.same_free, .inr (Keeps.has_of 2 hm (by decide)), hs.same_board, hs.same_boot, hs.same_nv, hs.same_ret, hs.same_cfg, hs.same_sl, hs.same_et, hs.same_cn, hs.same_ps, hs.same_cl, hs.same_tb, hs.same_sv, hs.same_nvc, hs.same_ra, hs.same_ci, hs.same_clr, hs.same_sec, hs.same_hp, hs.same_qp, hs.same_ev, hs.same_tm, hs.same_hl, hs.same_mem⟩
theorem State.hostSend_keeps {m : Parts} {a : State} (hm : Parts.sub 0x100004 m) (s : State) (f : Nat) (o : Out) (hs : a.Keeps m s) :
    a.Keeps m (State.hostSend s f o) := by
  unfold State.hostSend
  with_reducible repeat' first
    | assumption | apply State.emit_keeps (Keeps.sub_of hm (by decide))
    | apply State.setPort_keeps (Keeps.sub_of hm (by decide))
theorem State.setFn_keeps {m : Parts} {a : State} (hm : Parts.sub 0x100000 m) (s : State) (f : Nat) (v : FnSt) (hs : a.Keeps m s) :
    a.Keeps m (State.setFn s f v) := by
  unfold State.setFn
  with_reducible repeat' first
    | assumption | refine Keeps.upd ?_ | simp only [Keeps.mk_iff]
theorem State.pmeCause_keeps {m : Parts} {a : State} (hm : Parts.sub 0x100004 m) (s : State) (f : Nat) (hs : a.Keeps m s) :
    a.Keeps m (State.pmeCause s f) := by
  unfold State.pmeCause
  with_reducible repeat' first
    | assumption | dsimp only | apply State.hostCtr_keeps (Keeps.sub_of hm (by decide))
    | apply State.hostSend_keeps (Keeps.sub_of hm (by decide)) | apply State.setFn_keeps (Keeps.sub_of hm (by decide)) | split
theorem State.fire_keeps {m : Parts} {a : State} (hm : Parts.sub 0x500004 m) (s : State) (src : Nat) (type : Nat) (data : W32) (hs : a.Keeps m s) :
    a.Keeps m (State.fire s src type data) := by
  unfold State.fire
  with_reducible repeat' first
    | assumption | dsimp only | apply State.setSrc_keeps (Keeps.sub_of hm (by decide))
    | apply State.pmeCause_keeps (Keeps.sub_of hm (by decide)) | split
theorem State.fireDev_keeps {m : Parts} {a : State} (hm : Parts.sub 0x500004 m) (s : State) (p : Nat) (k : Nat) (type : Nat) (data : W32) (hs : a.Keeps m s) :
    a.Keeps m (State.fireDev s p k type data) := by
  unfold State.fireDev
  with_reducible repeat' first
    | assumption | apply State.fire_keeps (Keeps.sub_of hm (by decide))
theorem State.fireAll_keeps {m : Parts} {a : State} (hm : Parts.sub 0x500004 m) (s : State) (k : Nat) (type : Nat) (data : W32) (hs : a.Keeps m s) :
    a.Keeps m (State.fireAll s k type data) := by
  unfold State.fireAll
  with_reducible repeat' first
    | assumption | intro _ | apply State.fireDev_keeps (Keeps.sub_of hm (by decide)) | apply Keeps.foldl
theorem State.fbDeny_keeps {m : Parts} {a : State} (hm : Parts.sub 0x580004 m) (s : State) (target : Nat) (master : BitVec 16) (right : Nat) (addr : Nat) (len : Nat) (hs : a.Keeps m s) :
    a.Keeps m (State.fbDeny s target master right addr len) := by
  unfold State.fbDeny
  with_reducible repeat' first
    | assumption | apply State.fireAll_keeps (Keeps.sub_of hm (by decide))
    | apply State.fireDev_keeps (Keeps.sub_of hm (by decide)) | refine Keeps.upd ?_ | simp only [Keeps.mk_iff] | split
theorem State.fbCheck_keeps {m : Parts} {a : State} (hm : Parts.sub 0x580004 m) (s : State) (target : Nat) (master : BitVec 16) (right : Nat) (addr : Nat) (len : Nat) (hs : a.Keeps m s) :
    a.KeepsP m (State.fbCheck s target master right addr len) := by
  unfold State.fbCheck
  with_reducible repeat' first
    | assumption | apply State.fbDeny_keeps (Keeps.sub_of hm (by decide))
    | simp only [Keeps.P_mk] | split
theorem State.issueTag_keeps {m : Parts} {a : State} (hm : Parts.sub 0x100004 m) (s : State) (f : Nat) (p : Purpose) (addr : Nat) (len : Nat) (o : Nat → Out) (hs : a.Keeps m s) :
    a.Keeps m (State.issueTag s f p addr len o) := by
  unfold State.issueTag
  with_reducible repeat' first
    | assumption | apply State.hostSend_keeps (Keeps.sub_of hm (by decide))
    | apply State.hostCtr_keeps (Keeps.sub_of hm (by decide)) | refine Keeps.upd ?_ | simp only [Keeps.mk_iff] | split
theorem State.askTranslation_keeps {m : Parts} {a : State} (hm : Parts.sub 0x100004 m) (s : State) (f : Nat) (p : Purpose) (addr : Nat) (len : Nat) (hs : a.Keeps m s) :
    a.Keeps m (State.askTranslation s f p addr len) := by
  unfold State.askTranslation
  with_reducible repeat' first
    | assumption | apply State.issueTag_keeps (Keeps.sub_of hm (by decide)) | split
theorem State.issueRead_keeps {m : Parts} {a : State} (hm : Parts.sub 0x580004 m) (s : State) (f : Nat) (p : Purpose) (addr : Nat) (len : Nat) (hs : a.Keeps m s) :
    a.KeepsP m (State.issueRead s f p addr len) := by
  unfold State.issueRead
  with_reducible repeat' first
    | assumption | apply State.fbCheck_keeps (Keeps.sub_of hm (by decide))
    | apply State.issueTag_keeps (Keeps.sub_of hm (by decide)) | apply State.askTranslation_keeps (Keeps.sub_of hm (by decide))
    | simp only [Keeps.P_iff, Keeps.P_mk] | split
theorem State.seeRefusal_keeps {m : Parts} {a : State} (hm : Parts.sub 0x100000 m) (s : State) (f : Nat) (pasid : Option Nat) (addr : Nat) (hs : a.Keeps m s) :
    a.KeepsO m (State.seeRefusal s f pasid addr) := by
  unfold State.seeRefusal
  with_reducible repeat' first
    | assumption | exact Keeps.none0 | apply Keeps.some0 | refine Keeps.upd ?_ | simp only [Keeps.mk_iff] | split
theorem State.writePieces_keeps {m : Parts} {a : State} (hm : Parts.sub 0x580004 m) (s : State) (y1 : BitVec 16) (f : Nat) (pasid : Option Nat) (ro : Bool) (y5 : List (Nat × List Byte)) (hs : a.Keeps m s) :
    a.KeepsP m (State.writePieces s y1 f pasid ro y5) := by
  induction y5 generalizing s with
  | nil =>
    unfold State.writePieces
    with_reducible repeat' first
      | assumption | apply ih | apply State.fbCheck_keeps (Keeps.sub_of hm (by decide))
      | apply State.hostSend_keeps (Keeps.sub_of hm (by decide))
      | simp only [Keeps.P_mk] | split
  | cons x l ih =>
    unfold State.writePieces
    with_reducible repeat' first
      | assumption | apply ih | apply State.fbCheck_keeps (Keeps.sub_of hm (by decide))
      | apply State.hostSend_keeps (Keeps.sub_of hm (by decide))
      | simp only [Keeps.P_iff, Keeps.P_mk] | split
theorem State.dmaWritesBy_keeps {m : Parts} {a : State} (hm : Parts.sub 0x580004 m) (s : State) (y1 : BitVec 16) (f : Nat) (pasid : Option Nat) (ro : Bool) (l : List (Nat × List Byte)) (hs : a.Keeps m s) :
    a.KeepsP m (State.dmaWritesBy s y1 f pasid ro l) := by
  unfold State.dmaWritesBy
  with_reducible repeat' first
    | assumption | apply State.seeRefusal_keeps (Keeps.sub_of hm (by decide))
    | apply State.askTranslation_keeps (Keeps.sub_of hm (by decide))
    | apply State.writePieces_keeps (Keeps.sub_of hm (by decide))
    | simp only [Keeps.P_mk] | split
    | refine Keeps.some_of (by assumption) ?_
theorem State.dmaWrites_keeps {m : Parts} {a : State} (hm : Parts.sub 0x580004 m) (s : State) (f : Nat) (pasid : Option Nat) (ro : Bool) (l : List (Nat × List Byte)) (hs : a.Keeps m s) :
    a.KeepsP m (State.dmaWrites s f pasid ro l) := by
  unfold State.dmaWrites
  with_reducible repeat' first
    | assumption | apply State.dmaWritesBy_keeps (Keeps.sub_of hm (by decide))
theorem State.dmaWrite_keeps {m : Parts} {a : State} (hm : Parts.sub 0x580004 m) (s : State) (f : Nat) (addr : Nat) (pasid : Option Nat) (ro : Bool) (bs : List Byte) (hs : a.Keeps m s) :
    a.KeepsP m (State.dmaWrite s f addr pasid ro bs) := by
  unfold State.dmaWrite
  with_reducible repeat' first
    | assumption | apply State.dmaWrites_keeps (Keeps.sub_of hm (by decide))
theorem State.upTo_keeps {m : Parts} {a : State} (hm : Parts.sub 0x1 m) (s : State) (t : Nat) (hs : a.Keeps m s) :
    a.Keeps m (State.upTo s t) := by
  exact ⟨hs.pending, hs.variant, hs.stepping, Nat.le_trans hs.now (Nat.le_max_left _ _), hs.free, hs.out, hs.mem, .inr (Keeps.has_of 0 hm (by decide)), hs.same_free, hs.same_out, hs.same_board, hs.same_boot, hs.same_nv, hs.same_ret, hs.same_cfg, hs.same_sl, hs.same_et, hs.same_cn, hs.same_ps, hs.same_cl, hs.same_tb, hs.same_sv, hs.same_nvc, hs.same_ra, hs.same_ci, hs.same_clr, hs.same_sec, hs.same_hp, hs.same_qp, hs.same_ev, hs.same_tm, hs.same_hl, hs.same_mem⟩
theorem State.upToClk_keeps {m : Parts} {a : State} (hm : Parts.sub 0x1 m) (s : State) (t : Nat) (hs : a.Keeps m s) :
    a.Keeps m (State.upToClk s t) := by
  unfold State.upToClk
  with_reducible repeat' first
    | assumption | apply State.upTo_keeps (Keeps.sub_of hm (by decide)) | split
theorem State.setCl_keeps {m : Parts} {a : State} (hm : Parts.sub 0x40000 m) (s : State) (c : Nat) (x : Cl) (hs : a.Keeps m s) :
    a.Keeps m (State.setCl s c x) := by
  unfold State.setCl
  with_reducible repeat' first
    | assumption | refine Keeps.upd ?_ | simp only [Keeps.mk_iff]
theorem State.clCtr_keeps {m : Parts} {a : State} (hm : Parts.sub 0x40000 m) (s : State) (c : Nat) (i : Nat) (n : Nat) (hs : a.Keeps m s) :
    a.Keeps m (State.clCtr s c i n) := by
  unfold State.clCtr
  with_reducible repeat' first
    | assumption | apply State.setCl_keeps (Keeps.sub_of hm (by decide))
theorem whenServing_keeps {m : Parts} {a : State} (s : State) (f : State → State) (hs : a.Keeps m s) (hf : ∀ (z0 : State), a.Keeps m z0 → a.Keeps m (f z0)) :
    a.KeepsR m (whenServing s f) := by
  unfold whenServing
  with_reducible repeat' first
    | assumption | apply Keeps.next | apply hf | split
theorem whenRunning_keeps {m : Parts} {a : State} (s : State) (f : State → State) (hs : a.Keeps m s) (hf : ∀ (z0 : State), a.Keeps m z0 → a.Keeps m (f z0)) :
    a.KeepsR m (whenRunning s f) := by
  unfold whenRunning
  with_reducible repeat' first
    | assumption | apply Keeps.next | apply hf | split
theorem State.drawn_keeps {m : Parts} {a : State} (hm : Parts.sub 0x2 m) (s : State) (n : Nat) (hs : a.Keeps m s) :
    a.Keeps m (State.drawn s n) := by
  exact ⟨hs.pending, hs.variant, hs.stepping, hs.now, Nat.le_trans hs.free (Nat.le_add_right _ _), hs.out, hs.mem, hs.same_now, .inr (Keeps.has_of 1 hm (by decide)), hs.same_out, hs.same_board, hs.same_boot, hs.same_nv, hs.same_ret, hs.same_cfg, hs.same_sl, hs.same_et, hs.same_cn, hs.same_ps, hs.same_cl, hs.same_tb, hs.same_sv, hs.same_nvc, hs.same_ra, hs.same_ci, hs.same_clr, hs.same_sec, hs.same_hp, hs.same_qp, hs.same_ev, hs.same_tm, hs.same_hl, hs.same_mem⟩
theorem State.fresh_keeps {m : Parts} {a : State} (hm : Parts.sub 0x2 m) (s : State) (w : Nat) (hs : a.Keeps m s) :
    a.KeepsQ m (State.fresh s w) := by
  unfold State.fresh
  with_reducible repeat' first
    | assumption | apply State.drawn_keeps (Keeps.sub_of hm (by decide))
    | simp only [Keeps.Q_mk]
theorem State.log_keeps {m : Parts} {a : State} (hm : Parts.sub 0x60 m) (s : State) (l : LocWord) (kind : Nat) (severity : Nat) (detail : W32) (hs : a.Keeps m s) :
    a.Keeps m (State.log s l kind severity detail) := by
  unfold State.log
  with_reducible repeat' first
    | assumption | refine Keeps.upd ?_ | simp only [Keeps.mk_iff] | split
theorem State.upToTime_keeps {m : Parts} {a : State} (hm : Parts.sub 0x1 m) (s : State) (t : Nat) (hs : a.Keeps m s) :
    a.Keeps m (State.upToTime s t) := by
  unfold State.upToTime
  with_reducible repeat' first
    | assumption | apply State.upTo_keeps (Keeps.sub_of hm (by decide)) | split
theorem State.setOwner_keeps {m : Parts} {a : State} (hm : Parts.sub 0x80 m) (s : State) (kind : Nat) (i : Nat) (f : Nat) (hs : a.Keeps m s) :
    a.Keeps m (State.setOwner s kind i f) := by
  unfold State.setOwner
  with_reducible repeat' first
    | assumption | refine Keeps.upd ?_ | simp only [Keeps.mk_iff]
theorem State.zeroize_keeps {m : Parts} {a : State} (hm : Parts.sub 0x3000000 m) (s : State) (base : Nat) (size : Nat) (hs : a.Keeps m s) :
    a.Keeps m (State.zeroize s base size) := by
  exact ⟨hs.pending, hs.variant, hs.stepping, hs.now, hs.free, hs.out, fun h => memZeroize_wf _ _ _ (hs.mem h), hs.same_now, hs.same_free, hs.same_out, hs.same_board, hs.same_boot, hs.same_nv, hs.same_ret, hs.same_cfg, hs.same_sl, hs.same_et, hs.same_cn, hs.same_ps, hs.same_cl, hs.same_tb, hs.same_sv, hs.same_nvc, hs.same_ra, hs.same_ci, hs.same_clr, hs.same_sec, hs.same_hp, hs.same_qp, hs.same_ev, hs.same_tm, .inr (Keeps.has_of 24 hm (by decide)), .inr (Keeps.has_of 25 hm (by decide))⟩
theorem State.memPut_keeps {m : Parts} {a : State} (hm : Parts.sub 0x3000000 m) (s : State) (y1 : Nat) (b : List Byte) (hs : a.Keeps m s) :
    a.Keeps m (State.memPut s y1 b) := by
  exact ⟨hs.pending, hs.variant, hs.stepping, hs.now, hs.free, hs.out, fun h => memPut_wf s _ _ (hs.mem h), hs.same_now, hs.same_free, hs.same_out, hs.same_board, hs.same_boot, hs.same_nv, hs.same_ret, hs.same_cfg, hs.same_sl, hs.same_et, hs.same_cn, hs.same_ps, hs.same_cl, hs.same_tb, hs.same_sv, hs.same_nvc, hs.same_ra, hs.same_ci, hs.same_clr, hs.same_sec, hs.same_hp, hs.same_qp, hs.same_ev, hs.same_tm, .inr (Keeps.has_of 24 hm (by decide)), .inr (Keeps.has_of 25 hm (by decide))⟩
theorem State.extend_keeps {m : Parts} {a : State} (hm : Parts.sub 0x80000 m) (s : State) (i : Nat) (d : List Byte) (hs : a.Keeps m s) :
    a.Keeps m (State.extend s i d) := by
  unfold State.extend
  with_reducible repeat' first
    | assumption | refine Keeps.upd ?_ | simp only [Keeps.mk_iff]

end Sys2Proof.Machine
end

