-- ==== Sys2Proof/Laws/KeepsCommand.lean ====
section
/-! SUPPORT. What the definitions of Machine/Command.lean keep: no part of the state changes but those of the mask, which is
`Parts` in bits (Safety.lean), and what every command keeps. -/
set_option Elab.async false
namespace Sys2Proof.Machine

theorem State.setMbx_keeps {m : Parts} {a : State} (hm : Parts.sub 0x100 m) (s : State) (p : Nat) (y2 : Mbx) (hs : a.Keeps m s) :
    a.Keeps m (State.setMbx s p y2) := by
  unfold State.setMbx
  with_reducible repeat' first
    | assumption | refine Keeps.upd ?_ | simp only [Keeps.mk_iff]
theorem State.deliver_keeps {m : Parts} {a : State} (hm : Parts.sub 0x100 m) (s : State) (r : Request) (hs : a.Keeps m s) :
    a.Keeps m (State.deliver s r) := by
  unfold State.deliver
  with_reducible repeat' first
    | assumption | refine Keeps.upd ?_ | simp only [Keeps.mk_iff]
theorem hostRequest_keeps {m : Parts} {a : State} (hm : Parts.sub 0x580004 m) (s : State) (f : Nat) (target : Nat) (right : Nat) (addr : Nat) (len : Nat) (k : State → State) (hs : a.Keeps m s) (hk : ∀ (z0 : State), a.Keeps m z0 → a.Keeps m (k z0)) :
    a.Keeps m (hostRequest s f target right addr len k) := by
  unfold hostRequest
  with_reducible repeat' first
    | assumption | apply hk | apply State.emit_keeps (Keeps.sub_of hm (by decide))
    | apply State.hostCtr_keeps (Keeps.sub_of hm (by decide)) | apply State.fbCheck_keeps (Keeps.sub_of hm (by decide))
    | apply State.setPort_keeps (Keeps.sub_of hm (by decide))
    | simp only [Keeps.P_iff] | split
theorem chk_keeps {m : Parts} {a : State} (c : Bool) (status : Nat) (k : Except Nat Done) (hk : a.KeepsE m k) :
    a.KeepsE m (chk c status k) := by
  unfold chk
  split
  · exact hk
  · exact Keeps.error _
theorem done_keeps {m : Parts} {a : State} (s : State) (payload : List Byte) (hs : a.Keeps m s) :
    a.KeepsE m (done s payload) := by
  unfold done
  with_reducible repeat' first
    | assumption | apply Keeps.ok
theorem State.nextSeq_keeps {m : Parts} {a : State} (hm : Parts.sub 0x60 m) (s : State) (hs : a.Keeps m s) :
    a.Keeps m (State.nextSeq s) := by
  unfold State.nextSeq
  with_reducible repeat' first
    | assumption | refine Keeps.upd ?_ | simp only [Keeps.mk_iff] | split
theorem State.setCounter_keeps {m : Parts} {a : State} (hm : Parts.sub 0x40 m) (s : State) (y1 : Nat) (c : CounterSt) (hs : a.Keeps m s) :
    a.Keeps m (State.setCounter s y1 c) := by
  unfold State.setCounter
  with_reducible repeat' first
    | assumption | refine Keeps.upd ?_ | simp only [Keeps.mk_iff]
theorem State.sendResponse_keeps {m : Parts} {a : State} (hm : Parts.sub 0x500104 m) (s : State) (r : Request) (bs : List Byte) (hs : a.Keeps m s) :
    a.Keeps m (State.sendResponse s r bs) := by
  unfold State.sendResponse
  with_reducible repeat' first
    | assumption | apply State.setMbx_keeps (Keeps.sub_of hm (by decide))
    | apply State.fireDev_keeps (Keeps.sub_of hm (by decide)) | apply State.emit_keeps (Keeps.sub_of hm (by decide))
    | apply State.deliver_keeps (Keeps.sub_of hm (by decide)) | refine Keeps.upd ?_ | simp only [Keeps.mk_iff] | split
theorem State.finish_keeps {m : Parts} {a : State} (hm : Parts.sub 0x500144 m) (s : State) (r : Request) (accepted : Bool) (y3 : Reply) (hs : a.Keeps m s) :
    a.Keeps m (State.finish s r accepted y3) := by
  unfold State.finish
  with_reducible repeat' first
    | assumption | apply State.setCounter_keeps (Keeps.sub_of hm (by decide))
    | apply State.sendResponse_keeps (Keeps.sub_of hm (by decide)) | split
theorem State.acceptCounter_keeps {m : Parts} {a : State} (hm : Parts.sub 0x60 m) (s : State) (y1 : Nat) (counter : Nat) (hs : a.Keeps m s) :
    a.Keeps m (State.acceptCounter s y1 counter) := by
  unfold State.acceptCounter
  with_reducible repeat' first
    | assumption | apply State.setCounter_keeps (Keeps.sub_of hm (by decide)) | refine Keeps.upd ?_ | simp only [Keeps.mk_iff]
    | split
theorem State.arbitrate_keeps {m : Parts} {a : State} (hm : Parts.sub 0x500164 m) (s : State) (hs : a.Keeps m s) :
    a.Keeps m (State.arbitrate s) := by
  unfold State.arbitrate
  with_reducible repeat' first
    | assumption | apply State.nextSeq_keeps (Keeps.sub_of hm (by decide))
    | apply State.finish_keeps (Keeps.sub_of hm (by decide)) | apply State.acceptCounter_keeps (Keeps.sub_of hm (by decide))
    | refine Keeps.upd ?_ | simp only [Keeps.mk_iff] | split
theorem State.drainN_keeps {m : Parts} {a : State} (hm : Parts.sub 0x500164 m) (y0 : Nat) (y1 : State) (hy1 : a.Keeps m y1) :
    a.Keeps m (State.drainN y0 y1) := by
  induction y0 generalizing y1 with
  | zero =>
    unfold State.drainN
    with_reducible repeat' first
      | assumption | apply ih | apply State.arbitrate_keeps (Keeps.sub_of hm (by decide)) | split
  | succ n ih =>
    unfold State.drainN
    with_reducible repeat' first
      | assumption | apply ih | apply State.arbitrate_keeps (Keeps.sub_of hm (by decide)) | split
theorem State.drain_keeps {m : Parts} {a : State} (hm : Parts.sub 0x500164 m) (s : State) (hs : a.Keeps m s) :
    a.Keeps m (State.drain s) := by
  unfold State.drain
  with_reducible repeat' first
    | assumption | apply State.drainN_keeps (Keeps.sub_of hm (by decide))
theorem runCommand_keeps {m : Parts} {a : State} (hm : Parts.sub 0x500164 m) (mine : Request → Bool) (body : Body) (s : State) (hs : a.Keeps m s) (hbody : ∀ s r, a.Keeps m s → a.KeepsE m (body s r)) :
    a.Keeps m (runCommand mine body s) := by
  unfold runCommand
  with_reducible repeat' first
    | assumption | apply hbody | apply State.drain_keeps (Keeps.sub_of hm (by decide))
    | apply State.finish_keeps (Keeps.sub_of hm (by decide)) | refine Keeps.upd ?_ | simp only [Keeps.mk_iff] | split
    | refine Keeps.done_of (by assumption) ?_
theorem State.pump_keeps {m : Parts} {a : State} (hm : Parts.sub 0x500165 m) (s : State) (hs : a.Keeps m s) :
    a.Keeps m (State.pump s) := by
  unfold State.pump
  with_reducible repeat' first
    | assumption | apply State.drain_keeps (Keeps.sub_of hm (by decide)) | apply State.upTo_keeps (Keeps.sub_of hm (by decide))
    | split
theorem requestRow_keeps {m : Parts} {a : State} (hm : Parts.sub 0x500165 m) (mine : Request → Bool) (body : Body) (s : State) (hs : a.Keeps m s) (hbody : ∀ s r, a.Keeps m s → a.KeepsE m (body s r)) :
    a.KeepsR m (requestRow mine body s) := by
  unfold requestRow
  with_reducible repeat' first
    | assumption | intro _ | apply hbody | apply whenServing_keeps | apply runCommand_keeps (Keeps.sub_of hm (by decide))
    | apply State.pump_keeps (Keeps.sub_of hm (by decide))
theorem slaotRow_keeps {m : Parts} {a : State} (hm : Parts.sub 0x500165 m) (op : Nat) (body : Body) (s : State) (hs : a.Keeps m s) (hbody : ∀ s r, a.Keeps m s → a.KeepsE m (body s r)) :
    a.KeepsR m (slaotRow op body s) := by
  unfold slaotRow
  with_reducible repeat' first
    | assumption | apply hbody | apply requestRow_keeps (Keeps.sub_of hm (by decide))
theorem startOp_keeps {m : Parts} {a : State} (hm : Parts.sub 0x100 m) (s : State) (r : Request) (total : Nat) (data : OpData) (hs : a.Keeps m s) :
    a.KeepsE m (startOp s r total data) := by
  unfold startOp
  with_reducible repeat' first
    | assumption | exact Keeps.error _ | apply Keeps.ok | refine Keeps.upd ?_ | simp only [Keeps.mk_iff] | split
theorem State.endOp_keeps {m : Parts} {a : State} (hm : Parts.sub 0x500104 m) (s : State) (o : LongOp) (status : Nat) (hs : a.Keeps m s) :
    a.Keeps m (State.endOp s o status) := by
  unfold State.endOp
  with_reducible repeat' first
    | assumption | apply State.fireDev_keeps (Keeps.sub_of hm (by decide)) | refine Keeps.upd ?_ | simp only [Keeps.mk_iff]
    | split
theorem State.tookTurn_keeps {m : Parts} {a : State} (hm : Parts.sub 0x100 m) (s : State) (y1 : Nat) (hs : a.Keeps m s) :
    a.Keeps m (State.tookTurn s y1) := by
  unfold State.tookTurn
  with_reducible repeat' first
    | assumption | refine Keeps.upd ?_ | simp only [Keeps.mk_iff]
theorem opStep_keeps {m : Parts} {a : State} (hm : Parts.sub 0x500104 m) (y0 : Nat) (abort : State → LongOp → State) (body : State → LongOp → State) (s : State) (hs : a.Keeps m s) (habort : ∀ (z0 : State) (z1 : LongOp), a.Keeps m z0 → a.Keeps m (abort z0 z1)) (hbody : ∀ (z0 : State) (z1 : LongOp), a.Keeps m z0 → a.Keeps m (body z0 z1)) :
    a.Keeps m (opStep y0 abort body s) := by
  unfold opStep
  with_reducible repeat' first
    | assumption | apply habort | apply hbody | apply State.tookTurn_keeps (Keeps.sub_of hm (by decide))
    | apply State.endOp_keeps (Keeps.sub_of hm (by decide)) | split
theorem opRow_keeps {m : Parts} {a : State} (hm : Parts.sub 0x500165 m) (y0 : Nat) (abort : State → LongOp → State) (body : State → LongOp → State) (s : State) (hs : a.Keeps m s) (habort : ∀ (z0 : State) (z1 : LongOp), a.Keeps m z0 → a.Keeps m (abort z0 z1)) (hbody : ∀ (z0 : State) (z1 : LongOp), a.Keeps m z0 → a.Keeps m (body z0 z1)) :
    a.Keeps m (opRow y0 abort body s) := by
  unfold opRow
  with_reducible repeat' first
    | assumption | apply habort | apply hbody | apply opStep_keeps (Keeps.sub_of hm (by decide))
    | apply State.pump_keeps (Keeps.sub_of hm (by decide))
theorem State.setOp_keeps {m : Parts} {a : State} (hm : Parts.sub 0x100 m) (s : State) (o : LongOp) (hs : a.Keeps m s) :
    a.Keeps m (State.setOp s o) := by
  unfold State.setOp
  with_reducible repeat' first
    | assumption | refine Keeps.upd ?_ | simp only [Keeps.mk_iff]
theorem turnRow_keeps {m : Parts} {a : State} (hm : Parts.sub 0x500165 m) (y0 : Nat) (body : State → LongOp → State) (s : State) (hs : a.Keeps m s) (hbody : ∀ (z0 : State) (z1 : LongOp), a.Keeps m z0 → a.Keeps m (body z0 z1)) :
    a.Keeps m (turnRow y0 body s) := by
  unfold turnRow
  with_reducible repeat' first
    | assumption | dsimp only | apply hbody | apply State.pump_keeps (Keeps.sub_of hm (by decide))
    | apply State.tookTurn_keeps (Keeps.sub_of hm (by decide)) | split

end Sys2Proof.Machine
end

