-- ==== Sys2Proof/Laws/KeepsEvent.lean ====
section
/-! SUPPORT. What the definitions of Machine/Event.lean keep: no part of the state changes but those of the mask, which is
`Parts` in bits (Safety.lean), and what every command keeps. -/
set_option Elab.async false
namespace Sys2Proof.Machine

theorem State.intxUpdate_keeps {m : Parts} {a : State} (hm : Parts.sub 0x100004 m) (s : State) (p : Nat) (hs : a.Keeps m s) :
    a.Keeps m (State.intxUpdate s p) := by
  unfold State.intxUpdate
  with_reducible repeat' first
    | assumption | dsimp only | apply State.emit_keeps (Keeps.sub_of hm (by decide))
    | apply State.setPort_keeps (Keeps.sub_of hm (by decide)) | split
theorem State.interrupt_keeps {m : Parts} {a : State} (hm : Parts.sub 0x100004 m) (s : State) (f : Nat) (v : Nat) (hs : a.Keeps m s) :
    a.Keeps m (State.interrupt s f v) := by
  unfold State.interrupt
  with_reducible repeat' first
    | assumption | dsimp only | apply State.hostSend_keeps (Keeps.sub_of hm (by decide))
    | apply State.intxUpdate_keeps (Keeps.sub_of hm (by decide)) | apply State.setFn_keeps (Keeps.sub_of hm (by decide)) | split
theorem State.setEq_keeps {m : Parts} {a : State} (hm : Parts.sub 0x400000 m) (s : State) (e : Nat) (q : Eq) (hs : a.Keeps m s) :
    a.Keeps m (State.setEq s e q) := by
  unfold State.setEq
  with_reducible repeat' first
    | assumption | refine Keeps.upd ?_ | simp only [Keeps.mk_iff]
theorem State.eqCtr_keeps {m : Parts} {a : State} (hm : Parts.sub 0x400000 m) (s : State) (e : Nat) (i : Nat) (n : Nat) (hs : a.Keeps m s) :
    a.Keeps m (State.eqCtr s e i n) := by
  unfold State.eqCtr
  with_reducible repeat' first
    | assumption | apply State.setEq_keeps (Keeps.sub_of hm (by decide))
theorem State.sendDue_keeps {m : Parts} {a : State} (hm : Parts.sub 0x500005 m) (s : State) (e : Nat) (hs : a.Keeps m s) :
    a.Keeps m (State.sendDue s e) := by
  unfold State.sendDue
  with_reducible repeat' first
    | assumption | dsimp only | apply State.upToClk_keeps (Keeps.sub_of hm (by decide))
    | apply State.interrupt_keeps (Keeps.sub_of hm (by decide)) | apply State.eqCtr_keeps (Keeps.sub_of hm (by decide))
    | apply State.setEq_keeps (Keeps.sub_of hm (by decide)) | split
theorem State.sendOverdue_keeps {m : Parts} {a : State} (hm : Parts.sub 0x500005 m) (s : State) (e : Nat) (hs : a.Keeps m s) :
    a.Keeps m (State.sendOverdue s e) := by
  unfold State.sendOverdue
  with_reducible repeat' first
    | assumption | apply State.sendDue_keeps (Keeps.sub_of hm (by decide)) | split
theorem State.noteFull_keeps {m : Parts} {a : State} (hm : Parts.sub 0x400000 m) (s : State) (src : Nat) (hs : a.Keeps m s) :
    a.Keeps m (State.noteFull s src) := by
  unfold State.noteFull
  with_reducible repeat' first
    | assumption | intro _ | apply State.eqCtr_keeps (Keeps.sub_of hm (by decide))
    | apply State.setSrc_keeps (Keeps.sub_of hm (by decide)) | apply Keeps.foldl | split
theorem State.deliverEvent_keeps {m : Parts} {a : State} (hm : Parts.sub 0x580004 m) (s : State) (src : Nat) (hs : a.Keeps m s) :
    a.Keeps m (State.deliverEvent s src) := by
  unfold State.deliverEvent
  with_reducible repeat' first
    | assumption | apply State.noteFull_keeps (Keeps.sub_of hm (by decide))
    | apply State.pmeCause_keeps (Keeps.sub_of hm (by decide)) | apply State.eqCtr_keeps (Keeps.sub_of hm (by decide))
    | apply State.setEq_keeps (Keeps.sub_of hm (by decide)) | apply State.dmaWrite_keeps (Keeps.sub_of hm (by decide))
    | apply State.setSrc_keeps (Keeps.sub_of hm (by decide)) | refine Keeps.upd ?_ | simp only [Keeps.mk_iff] | split
    | refine Keeps.fst_of (by assumption) ?_
theorem State.deliverAll_keeps {m : Parts} {a : State} (hm : Parts.sub 0x580004 m) (s : State) (e : Nat) (also : List Nat) (hs : a.Keeps m s) :
    a.Keeps m (State.deliverAll s e also) := by
  unfold State.deliverAll
  with_reducible repeat' first
    | assumption | apply State.deliverEvent_keeps (Keeps.sub_of hm (by decide)) | apply Keeps.foldl
theorem State.completeRecords_keeps {m : Parts} {a : State} (hm : Parts.sub 0x400000 m) (s : State) (srcs : List Nat) (hs : a.Keeps m s) :
    a.Keeps m (State.completeRecords s srcs) := by
  unfold State.completeRecords
  with_reducible repeat' first
    | assumption | intro _ | apply State.setSrc_keeps (Keeps.sub_of hm (by decide)) | apply Keeps.foldl
theorem State.eqCi_keeps {m : Parts} {a : State} (hm : Parts.sub 0x580005 m) (s : State) (e : Nat) (v : W32) (hs : a.Keeps m s) :
    a.Keeps m (State.eqCi s e v) := by
  unfold State.eqCi
  with_reducible repeat' first
    | assumption | dsimp only | apply State.sendOverdue_keeps (Keeps.sub_of hm (by decide))
    | apply State.setEq_keeps (Keeps.sub_of hm (by decide)) | apply State.eqCtr_keeps (Keeps.sub_of hm (by decide))
    | apply State.deliverAll_keeps (Keeps.sub_of hm (by decide))
    | apply State.completeRecords_keeps (Keeps.sub_of hm (by decide)) | split
theorem State.eqEnable_keeps {m : Parts} {a : State} (hm : Parts.sub 0x580004 m) (s : State) (e : Nat) (hs : a.Keeps m s) :
    a.Keeps m (State.eqEnable s e) := by
  unfold State.eqEnable
  with_reducible repeat' first
    | assumption | apply State.deliverAll_keeps (Keeps.sub_of hm (by decide))
    | apply State.setEq_keeps (Keeps.sub_of hm (by decide))
theorem State.eqLeave_keeps {m : Parts} {a : State} (hm : Parts.sub 0x580005 m) (s : State) (e : Nat) (hs : a.Keeps m s) :
    a.Keeps m (State.eqLeave s e) := by
  unfold State.eqLeave
  with_reducible repeat' first
    | assumption | apply State.sendOverdue_keeps (Keeps.sub_of hm (by decide))
    | apply State.deliverAll_keeps (Keeps.sub_of hm (by decide))
    | apply State.completeRecords_keeps (Keeps.sub_of hm (by decide)) | apply State.setEq_keeps (Keeps.sub_of hm (by decide))
theorem State.eqCmd_keeps {m : Parts} {a : State} (hm : Parts.sub 0x580005 m) (s : State) (e : Nat) (v : Nat) (hs : a.Keeps m s) :
    a.Keeps m (State.eqCmd s e v) := by
  unfold State.eqCmd
  with_reducible repeat' first
    | assumption | apply State.eqEnable_keeps (Keeps.sub_of hm (by decide))
    | apply State.eqLeave_keeps (Keeps.sub_of hm (by decide)) | apply State.eqCtr_keeps (Keeps.sub_of hm (by decide)) | split
theorem State.eqReset_keeps {m : Parts} {a : State} (hm : Parts.sub 0x580005 m) (s : State) (e : Nat) (hs : a.Keeps m s) :
    a.Keeps m (State.eqReset s e) := by
  unfold State.eqReset
  with_reducible repeat' first
    | assumption | apply State.eqLeave_keeps (Keeps.sub_of hm (by decide))
    | apply State.setEq_keeps (Keeps.sub_of hm (by decide)) | split
theorem execEventDelivery_keeps {m : Parts} {a : State} (hm : Parts.sub 0x580004 m) (src : Nat) (s : State) (hs : a.Keeps m s) :
    a.KeepsR m (execEventDelivery src s) := by
  unfold execEventDelivery
  with_reducible repeat' first
    | assumption | intro _ | apply whenServing_keeps | apply State.deliverEvent_keeps (Keeps.sub_of hm (by decide))
theorem eqWrite_keeps {m : Parts} {a : State} (hm : Parts.sub 0x580004 m) (s : State) (f : Nat) (e : Nat) (off : Nat) (k : State → State) (hs : a.Keeps m s) (hk : ∀ (z0 : State), a.Keeps m z0 → a.Keeps m (k z0)) :
    a.Keeps m (eqWrite s f e off k) := by
  unfold eqWrite
  with_reducible repeat' first
    | assumption | intro _ | apply hk | apply hostRequest_keeps (Keeps.sub_of hm (by decide))
    | apply State.hostCtr_keeps (Keeps.sub_of hm (by decide)) | split
theorem execEqCiWrite_keeps {m : Parts} {a : State} (hm : Parts.sub 0x580005 m) (f : Nat) (e : Nat) (v : W32) (s : State) (hs : a.Keeps m s) :
    a.KeepsR m (execEqCiWrite f e v s) := by
  unfold execEqCiWrite
  with_reducible repeat' first
    | assumption | intro _ | apply whenServing_keeps | apply eqWrite_keeps (Keeps.sub_of hm (by decide))
    | apply State.eqCi_keeps (Keeps.sub_of hm (by decide))
theorem execEqCtrlEnable_keeps {m : Parts} {a : State} (hm : Parts.sub 0x580005 m) (f : Nat) (e : Nat) (s : State) (hs : a.Keeps m s) :
    a.KeepsR m (execEqCtrlEnable f e s) := by
  unfold execEqCtrlEnable
  with_reducible repeat' first
    | assumption | intro _ | apply whenServing_keeps | apply eqWrite_keeps (Keeps.sub_of hm (by decide))
    | apply State.eqCmd_keeps (Keeps.sub_of hm (by decide))
theorem execEqCtrlDisable_keeps {m : Parts} {a : State} (hm : Parts.sub 0x580005 m) (f : Nat) (e : Nat) (s : State) (hs : a.Keeps m s) :
    a.KeepsR m (execEqCtrlDisable f e s) := by
  unfold execEqCtrlDisable
  with_reducible repeat' first
    | assumption | intro _ | apply whenServing_keeps | apply eqWrite_keeps (Keeps.sub_of hm (by decide))
    | apply State.eqCmd_keeps (Keeps.sub_of hm (by decide))
theorem execEqCtrlInvalid_keeps {m : Parts} {a : State} (hm : Parts.sub 0x580004 m) (f : Nat) (e : Nat) (v : BitVec 2) (s : State) (hs : a.Keeps m s) :
    a.KeepsR m (execEqCtrlInvalid f e v s) := by
  unfold execEqCtrlInvalid
  with_reducible repeat' first
    | assumption | intro _ | apply whenServing_keeps | apply eqWrite_keeps (Keeps.sub_of hm (by decide))
    | apply State.eqCtr_keeps (Keeps.sub_of hm (by decide)) | split
theorem execInterruptSend_keeps {m : Parts} {a : State} (hm : Parts.sub 0x500005 m) (e : Nat) (s : State) (hs : a.Keeps m s) :
    a.KeepsR m (execInterruptSend e s) := by
  unfold execInterruptSend
  with_reducible repeat' first
    | assumption | intro _ | apply whenServing_keeps | apply State.sendDue_keeps (Keeps.sub_of hm (by decide))
theorem eqSetBody_keeps {m : Parts} {a : State} (hm : Parts.sub 0x400000 m) (s0 : State) (r0 : Request) (hs0 : a.Keeps m s0) :
    a.KeepsE m (eqSetBody s0 r0) := by
  unfold eqSetBody
  with_reducible repeat' first
    | assumption | apply chk_keeps | apply done_keeps | apply State.setEq_keeps (Keeps.sub_of hm (by decide))
theorem execEventEqSet_keeps {m : Parts} {a : State} (hm : Parts.sub 0x500165 m) (s : State) (hs : a.Keeps m s) :
    a.KeepsR m (execEventEqSet s) := by
  unfold execEventEqSet
  with_reducible repeat' first
    | assumption | apply slaotRow_keeps (Keeps.sub_of hm (by decide)) | apply eqSetBody_keeps (Keeps.sub_of hm (by decide))
theorem eqCmd_keeps {m : Parts} {a : State} (len : Nat) (wf : List Byte → Bool) (k : State → Request → Nat → Except Nat Done) (s0 : State) (r0 : Request) (hs0 : a.Keeps m s0) (hk : ∀ (z0 : State) (z1 : Request) (z2 : Nat), a.Keeps m z0 → a.KeepsE m (k z0 z1 z2)) :
    a.KeepsE m (eqCmd len wf k s0 r0) := by
  unfold eqCmd
  with_reducible repeat' first
    | assumption | apply hk | apply chk_keeps
theorem eqGetBody_keeps {m : Parts} {a : State} (s0 : State) (r0 : Request) (hs0 : a.Keeps m s0) :
    a.KeepsE m (eqGetBody s0 r0) := by
  unfold eqGetBody
  with_reducible repeat' first
    | assumption | intro _ | apply eqCmd_keeps | apply done_keeps
theorem execEventEqGet_keeps {m : Parts} {a : State} (hm : Parts.sub 0x500165 m) (s : State) (hs : a.Keeps m s) :
    a.KeepsR m (execEventEqGet s) := by
  unfold execEventEqGet
  with_reducible repeat' first
    | assumption | apply slaotRow_keeps (Keeps.sub_of hm (by decide)) | apply eqGetBody_keeps
theorem eqStateBody_keeps {m : Parts} {a : State} (hm : Parts.sub 0x580005 m) (s0 : State) (r0 : Request) (hs0 : a.Keeps m s0) :
    a.KeepsE m (eqStateBody s0 r0) := by
  unfold eqStateBody
  with_reducible repeat' first
    | assumption | intro _ | apply eqCmd_keeps | apply chk_keeps | apply done_keeps
    | apply State.eqEnable_keeps (Keeps.sub_of hm (by decide)) | apply State.eqLeave_keeps (Keeps.sub_of hm (by decide))
    | apply State.eqReset_keeps (Keeps.sub_of hm (by decide)) | split
theorem execEventEqStateEnable_keeps {m : Parts} {a : State} (hm : Parts.sub 0x580165 m) (s : State) (hs : a.Keeps m s) :
    a.KeepsR m (execEventEqStateEnable s) := by
  unfold execEventEqStateEnable
  with_reducible repeat' first
    | assumption | apply requestRow_keeps (Keeps.sub_of hm (by decide)) | apply eqStateBody_keeps (Keeps.sub_of hm (by decide))
theorem execEventEqStateDisable_keeps {m : Parts} {a : State} (hm : Parts.sub 0x580165 m) (s : State) (hs : a.Keeps m s) :
    a.KeepsR m (execEventEqStateDisable s) := by
  unfold execEventEqStateDisable
  with_reducible repeat' first
    | assumption | apply requestRow_keeps (Keeps.sub_of hm (by decide)) | apply eqStateBody_keeps (Keeps.sub_of hm (by decide))
theorem execEventEqStateReset_keeps {m : Parts} {a : State} (hm : Parts.sub 0x580165 m) (s : State) (hs : a.Keeps m s) :
    a.KeepsR m (execEventEqStateReset s) := by
  unfold execEventEqStateReset
  with_reducible repeat' first
    | assumption | apply requestRow_keeps (Keeps.sub_of hm (by decide)) | apply eqStateBody_keeps (Keeps.sub_of hm (by decide))
theorem modSetBody_keeps {m : Parts} {a : State} (hm : Parts.sub 0x500085 m) (s0 : State) (r0 : Request) (hs0 : a.Keeps m s0) :
    a.KeepsE m (modSetBody s0 r0) := by
  unfold modSetBody
  with_reducible repeat' first
    | assumption | intro _ | apply eqCmd_keeps | apply State.sendOverdue_keeps (Keeps.sub_of hm (by decide)) | apply done_keeps
    | refine Keeps.upd ?_ | simp only [Keeps.mk_iff]
theorem execEventModSet_keeps {m : Parts} {a : State} (hm : Parts.sub 0x5001e5 m) (s : State) (hs : a.Keeps m s) :
    a.KeepsR m (execEventModSet s) := by
  unfold execEventModSet
  with_reducible repeat' first
    | assumption | apply slaotRow_keeps (Keeps.sub_of hm (by decide)) | apply modSetBody_keeps (Keeps.sub_of hm (by decide))
theorem routeSetBody_keeps {m : Parts} {a : State} (hm : Parts.sub 0x80 m) (s0 : State) (r0 : Request) (hs0 : a.Keeps m s0) :
    a.KeepsE m (routeSetBody s0 r0) := by
  unfold routeSetBody
  with_reducible repeat' first
    | assumption | apply chk_keeps | apply done_keeps | refine Keeps.upd ?_ | simp only [Keeps.mk_iff]
theorem execEventRouteSet_keeps {m : Parts} {a : State} (hm : Parts.sub 0x5001e5 m) (s : State) (hs : a.Keeps m s) :
    a.KeepsR m (execEventRouteSet s) := by
  unfold execEventRouteSet
  with_reducible repeat' first
    | assumption | apply slaotRow_keeps (Keeps.sub_of hm (by decide)) | apply routeSetBody_keeps (Keeps.sub_of hm (by decide))
theorem routeGetBody_keeps {m : Parts} {a : State} (s0 : State) (r0 : Request) (hs0 : a.Keeps m s0) :
    a.KeepsE m (routeGetBody s0 r0) := by
  unfold routeGetBody
  with_reducible repeat' first
    | assumption | apply chk_keeps | apply done_keeps
theorem execEventRouteGet_keeps {m : Parts} {a : State} (hm : Parts.sub 0x500165 m) (s : State) (hs : a.Keeps m s) :
    a.KeepsR m (execEventRouteGet s) := by
  unfold execEventRouteGet
  with_reducible repeat' first
    | assumption | apply slaotRow_keeps (Keeps.sub_of hm (by decide)) | apply routeGetBody_keeps
theorem groupSetBody_keeps {m : Parts} {a : State} (hm : Parts.sub 0x400080 m) (s0 : State) (r0 : Request) (hs0 : a.Keeps m s0) :
    a.KeepsE m (groupSetBody s0 r0) := by
  unfold groupSetBody
  with_reducible repeat' first
    | assumption | apply chk_keeps | apply done_keeps | refine Keeps.upd ?_ | simp only [Keeps.mk_iff] | split
theorem execEventGroupSet_keeps {m : Parts} {a : State} (hm : Parts.sub 0x5001e5 m) (s : State) (hs : a.Keeps m s) :
    a.KeepsR m (execEventGroupSet s) := by
  unfold execEventGroupSet
  with_reducible repeat' first
    | assumption | apply slaotRow_keeps (Keeps.sub_of hm (by decide)) | apply groupSetBody_keeps (Keeps.sub_of hm (by decide))
theorem eventStatsBody_keeps {m : Parts} {a : State} (s0 : State) (r0 : Request) (hs0 : a.Keeps m s0) :
    a.KeepsE m (eventStatsBody s0 r0) := by
  unfold eventStatsBody
  with_reducible repeat' first
    | assumption | intro _ | apply eqCmd_keeps | apply done_keeps
theorem execEventStats_keeps {m : Parts} {a : State} (hm : Parts.sub 0x500165 m) (s : State) (hs : a.Keeps m s) :
    a.KeepsR m (execEventStats s) := by
  unfold execEventStats
  with_reducible repeat' first
    | assumption | apply slaotRow_keeps (Keeps.sub_of hm (by decide)) | apply eventStatsBody_keeps

end Sys2Proof.Machine
end

