-- ==== Sys2Proof/Laws/KeepsQueue.lean ====
section
/-! SUPPORT. What the definitions of Machine/Queue.lean keep: no part of the state changes but those of the mask, which is
`Parts` in bits (Safety.lean), and what every command keeps. -/
set_option Elab.async false
namespace Sys2Proof.Machine

theorem State.setQp_keeps {m : Parts} {a : State} (hm : Parts.sub 0x200000 m) (s : State) (q : Nat) (x : Qp) (hs : a.Keeps m s) :
    a.Keeps m (State.setQp s q x) := by
  unfold State.setQp
  with_reducible repeat' first
    | assumption | refine Keeps.upd ?_ | simp only [Keeps.mk_iff]
theorem State.dropFetch_keeps {m : Parts} {a : State} (hm : Parts.sub 0x300000 m) (s : State) (q : Nat) (hs : a.Keeps m s) :
    a.Keeps m (State.dropFetch s q) := by
  unfold State.dropFetch
  with_reducible repeat' first
    | assumption | apply State.setQp_keeps (Keeps.sub_of hm (by decide)) | refine Keeps.upd ?_ | simp only [Keeps.mk_iff]
theorem State.qpCtr_keeps {m : Parts} {a : State} (hm : Parts.sub 0x200000 m) (s : State) (q : Nat) (i : Nat) (n : Nat) (hs : a.Keeps m s) :
    a.Keeps m (State.qpCtr s q i n) := by
  unfold State.qpCtr
  with_reducible repeat' first
    | assumption | apply State.setQp_keeps (Keeps.sub_of hm (by decide))
theorem State.endStall_keeps {m : Parts} {a : State} (hm : Parts.sub 0x700004 m) (s : State) (q : Nat) (hs : a.Keeps m s) :
    a.Keeps m (State.endStall s q) := by
  unfold State.endStall
  with_reducible repeat' first
    | assumption | dsimp only | apply State.qpCtr_keeps (Keeps.sub_of hm (by decide))
    | apply State.setQp_keeps (Keeps.sub_of hm (by decide)) | apply State.fire_keeps (Keeps.sub_of hm (by decide)) | split
theorem State.endJob_keeps {m : Parts} {a : State} (hm : Parts.sub 0x200000 m) (s : State) (q : Nat) (slot : W32) (status : Nat) (detail : Nat) (data : W64) (hs : a.Keeps m s) :
    a.Keeps m (State.endJob s q slot status detail data) := by
  unfold State.endJob
  with_reducible repeat' first
    | assumption | dsimp only | apply State.setQp_keeps (Keeps.sub_of hm (by decide))
    | apply State.qpCtr_keeps (Keeps.sub_of hm (by decide)) | split
theorem State.endWait_keeps {m : Parts} {a : State} (hm : Parts.sub 0x200000 m) (s : State) (q : Nat) (w : Waiter) (status : Nat) (detail : Nat) (hs : a.Keeps m s) :
    a.Keeps m (State.endWait s q w status detail) := by
  unfold State.endWait
  with_reducible repeat' first
    | assumption | apply State.endJob_keeps (Keeps.sub_of hm (by decide))
    | apply State.setQp_keeps (Keeps.sub_of hm (by decide))
theorem State.settleWait_keeps {m : Parts} {a : State} (hm : Parts.sub 0x200000 m) (s : State) (q : Nat) (w : Waiter) (hs : a.Keeps m s) :
    a.Keeps m (State.settleWait s q w) := by
  unfold State.settleWait
  with_reducible repeat' first
    | assumption | apply State.endWait_keeps (Keeps.sub_of hm (by decide)) | split
theorem State.cutWait_keeps {m : Parts} {a : State} (hm : Parts.sub 0x200000 m) (s : State) (q : Nat) (hs : a.Keeps m s) :
    a.Keeps m (State.cutWait s q) := by
  unfold State.cutWait
  with_reducible repeat' first
    | assumption | apply State.settleWait_keeps (Keeps.sub_of hm (by decide))
    | apply State.endWait_keeps (Keeps.sub_of hm (by decide)) | split
theorem State.qpStopping_keeps {m : Parts} {a : State} (hm : Parts.sub 0x700004 m) (s : State) (q : Nat) (cause : Nat) (hs : a.Keeps m s) :
    a.Keeps m (State.qpStopping s q cause) := by
  unfold State.qpStopping
  with_reducible repeat' first
    | assumption | apply State.endStall_keeps (Keeps.sub_of hm (by decide))
    | apply State.cutWait_keeps (Keeps.sub_of hm (by decide)) | apply State.setQp_keeps (Keeps.sub_of hm (by decide))
theorem State.qpFetch_keeps {m : Parts} {a : State} (hm : Parts.sub 0x780004 m) (s : State) (q : Nat) (hs : a.Keeps m s) :
    a.Keeps m (State.qpFetch s q) := by
  unfold State.qpFetch
  with_reducible repeat' first
    | assumption | dsimp only | apply State.issueRead_keeps (Keeps.sub_of hm (by decide))
    | apply State.setQp_keeps (Keeps.sub_of hm (by decide)) | apply State.qpStopping_keeps (Keeps.sub_of hm (by decide)) | split
    | refine Keeps.fst_of (by assumption) ?_
theorem State.workPiWrite_keeps {m : Parts} {a : State} (hm : Parts.sub 0x780004 m) (s : State) (q : Nat) (v : W32) (hs : a.Keeps m s) :
    a.Keeps m (State.workPiWrite s q v) := by
  unfold State.workPiWrite
  with_reducible repeat' first
    | assumption | dsimp only | apply State.setQp_keeps (Keeps.sub_of hm (by decide))
    | apply State.dropFetch_keeps (Keeps.sub_of hm (by decide)) | apply State.qpFetch_keeps (Keeps.sub_of hm (by decide))
    | apply State.qpCtr_keeps (Keeps.sub_of hm (by decide)) | split
theorem State.cplCiWrite_keeps {m : Parts} {a : State} (hm : Parts.sub 0x700004 m) (s : State) (q : Nat) (v : W32) (hs : a.Keeps m s) :
    a.Keeps m (State.cplCiWrite s q v) := by
  unfold State.cplCiWrite
  with_reducible repeat' first
    | assumption | dsimp only | apply State.setQp_keeps (Keeps.sub_of hm (by decide))
    | apply State.endStall_keeps (Keeps.sub_of hm (by decide)) | apply State.qpCtr_keeps (Keeps.sub_of hm (by decide)) | split
theorem State.tellWaiters_keeps {m : Parts} {a : State} (hm : Parts.sub 0x200000 m) (s : State) (t : Nat) (hs : a.Keeps m s) :
    a.Keeps m (State.tellWaiters s t) := by
  unfold State.tellWaiters
  with_reducible repeat' first
    | assumption | intro _ | apply State.setQp_keeps (Keeps.sub_of hm (by decide)) | apply Keeps.foldl | split
theorem State.advanceDone_keeps {m : Parts} {a : State} (hm : Parts.sub 0x700004 m) (s : State) (q : Nat) (hs : a.Keeps m s) :
    a.Keeps m (State.advanceDone s q) := by
  unfold State.advanceDone
  with_reducible repeat' first
    | assumption | dsimp only | apply State.setQp_keeps (Keeps.sub_of hm (by decide))
    | apply State.tellWaiters_keeps (Keeps.sub_of hm (by decide)) | apply State.fire_keeps (Keeps.sub_of hm (by decide)) | split
theorem State.writeRecord_keeps {m : Parts} {a : State} (hm : Parts.sub 0x780004 m) (s : State) (q : Nat) (slot : W32) (retry : Bool) (hs : a.Keeps m s) :
    a.Keeps m (State.writeRecord s q slot retry) := by
  unfold State.writeRecord
  with_reducible repeat' first
    | assumption | dsimp only | apply State.pmeCause_keeps (Keeps.sub_of hm (by decide))
    | apply State.setQp_keeps (Keeps.sub_of hm (by decide)) | apply State.dmaWrite_keeps (Keeps.sub_of hm (by decide))
    | apply State.qpStopping_keeps (Keeps.sub_of hm (by decide)) | apply State.advanceDone_keeps (Keeps.sub_of hm (by decide))
    | apply State.qpCtr_keeps (Keeps.sub_of hm (by decide)) | split | refine Keeps.fst_of (by assumption) ?_
theorem State.writeHeld_keeps {m : Parts} {a : State} (hm : Parts.sub 0x780004 m) (s : State) (q : Nat) (retry : Bool) (hs : a.Keeps m s) :
    a.Keeps m (State.writeHeld s q retry) := by
  unfold State.writeHeld
  with_reducible repeat' first
    | assumption | intro _ | apply State.writeRecord_keeps (Keeps.sub_of hm (by decide)) | apply Keeps.foldl
theorem State.qpStart_keeps {m : Parts} {a : State} (hm : Parts.sub 0x780004 m) (s : State) (q : Nat) (hs : a.Keeps m s) :
    a.Keeps m (State.qpStart s q) := by
  unfold State.qpStart
  with_reducible repeat' first
    | assumption | apply State.dropFetch_keeps (Keeps.sub_of hm (by decide))
    | apply State.setQp_keeps (Keeps.sub_of hm (by decide)) | apply State.qpFetch_keeps (Keeps.sub_of hm (by decide))
    | apply State.writeHeld_keeps (Keeps.sub_of hm (by decide))
theorem State.qpResetCmd_keeps {m : Parts} {a : State} (hm : Parts.sub 0x700004 m) (s : State) (q : Nat) (hs : a.Keeps m s) :
    a.Keeps m (State.qpResetCmd s q) := by
  unfold State.qpResetCmd
  with_reducible repeat' first
    | assumption | apply State.endStall_keeps (Keeps.sub_of hm (by decide))
    | apply State.setQp_keeps (Keeps.sub_of hm (by decide))
theorem State.qpCtrl_keeps {m : Parts} {a : State} (hm : Parts.sub 0x780004 m) (s : State) (q : Nat) (v : Nat) (hs : a.Keeps m s) :
    a.Keeps m (State.qpCtrl s q v) := by
  unfold State.qpCtrl
  with_reducible repeat' first
    | assumption | apply State.qpStart_keeps (Keeps.sub_of hm (by decide))
    | apply State.qpCtr_keeps (Keeps.sub_of hm (by decide)) | apply State.qpStopping_keeps (Keeps.sub_of hm (by decide))
    | apply State.qpResetCmd_keeps (Keeps.sub_of hm (by decide)) | split
theorem State.ciCtr_keeps {m : Parts} {a : State} (hm : Parts.sub 0x20000 m) (s : State) (g : Nat) (i : Nat) (n : Nat) (hs : a.Keeps m s) :
    a.Keeps m (State.ciCtr s g i n) := by
  unfold State.ciCtr
  with_reducible repeat' first
    | assumption | refine Keeps.upd ?_ | simp only [Keeps.mk_iff]
theorem State.refuseCipher_keeps {m : Parts} {a : State} (hm : Parts.sub 0x220000 m) (s : State) (q : Nat) (slot : W32) (status : Nat) (detail : Nat) (hs : a.Keeps m s) :
    a.Keeps m (State.refuseCipher s q slot status detail) := by
  unfold State.refuseCipher
  with_reducible repeat' first
    | assumption | apply State.ciCtr_keeps (Keeps.sub_of hm (by decide))
    | apply State.endJob_keeps (Keeps.sub_of hm (by decide)) | split
theorem State.markActed_keeps {m : Parts} {a : State} (hm : Parts.sub 0x200000 m) (s : State) (q : Nat) (j : Job) (hs : a.Keeps m s) :
    a.Keeps m (State.markActed s q j) := by
  unfold State.markActed
  with_reducible repeat' first
    | assumption | apply State.setQp_keeps (Keeps.sub_of hm (by decide))
theorem State.connFail_keeps {m : Parts} {a : State} (hm : Parts.sub 0x710004 m) (s : State) (c : Nat) (reason : Nat) (hs : a.Keeps m s) :
    a.Keeps m (State.connFail s c reason) := by
  unfold State.connFail
  with_reducible repeat' first
    | assumption | intro _ | apply State.endJob_keeps (Keeps.sub_of hm (by decide))
    | apply State.fire_keeps (Keeps.sub_of hm (by decide)) | apply Keeps.foldl | refine Keeps.upd ?_ | simp only [Keeps.mk_iff]
    | split
theorem State.failJob_keeps {m : Parts} {a : State} (hm : Parts.sub 0x710004 m) (s : State) (q : Nat) (slot : W32) (status : Nat) (detail : Nat) (hs : a.Keeps m s) :
    a.Keeps m (State.failJob s q slot status detail) := by
  unfold State.failJob
  with_reducible repeat' first
    | assumption | apply State.setQp_keeps (Keeps.sub_of hm (by decide))
    | apply State.endJob_keeps (Keeps.sub_of hm (by decide)) | apply State.connFail_keeps (Keeps.sub_of hm (by decide)) | split
theorem State.readFailed_keeps {m : Parts} {a : State} (hm : Parts.sub 0x710004 m) (s : State) (q : Nat) (slot : W32) (hs : a.Keeps m s) :
    a.Keeps m (State.readFailed s q slot) := by
  unfold State.readFailed
  with_reducible repeat' first
    | assumption | apply State.failJob_keeps (Keeps.sub_of hm (by decide))
theorem State.beginStall_keeps {m : Parts} {a : State} (hm : Parts.sub 0x200000 m) (s : State) (q : Nat) (hs : a.Keeps m s) :
    a.Keeps m (State.beginStall s q) := by
  unfold State.beginStall
  with_reducible repeat' first
    | assumption | apply State.qpCtr_keeps (Keeps.sub_of hm (by decide)) | apply State.setQp_keeps (Keeps.sub_of hm (by decide))
    | split
theorem State.qpSourceReset_keeps {m : Parts} {a : State} (hm : Parts.sub 0x400000 m) (s : State) (q : Nat) (hs : a.Keeps m s) :
    a.Keeps m (State.qpSourceReset s q) := by
  unfold State.qpSourceReset
  with_reducible repeat' first
    | assumption | apply State.setSrc_keeps (Keeps.sub_of hm (by decide))
theorem State.resetConns_keeps {m : Parts} {a : State} (hm : Parts.sub 0x10000 m) (s : State) (q : Nat) (hs : a.Keeps m s) :
    a.Keeps m (State.resetConns s q) := by
  unfold State.resetConns
  with_reducible repeat' first
    | assumption | refine Keeps.upd ?_ | simp only [Keeps.mk_iff]
theorem State.qpRelease_keeps {m : Parts} {a : State} (hm : Parts.sub 0x70000 m) (s : State) (q : Nat) (hs : a.Keeps m s) :
    a.Keeps m (State.qpRelease s q) := by
  unfold State.qpRelease
  with_reducible repeat' first
    | assumption | apply State.resetConns_keeps (Keeps.sub_of hm (by decide)) | refine Keeps.upd ?_ | simp only [Keeps.mk_iff]
theorem State.qpToReset_keeps {m : Parts} {a : State} (hm : Parts.sub 0x770004 m) (s : State) (q : Nat) (hs : a.Keeps m s) :
    a.Keeps m (State.qpToReset s q) := by
  unfold State.qpToReset
  with_reducible repeat' first
    | assumption | apply State.endStall_keeps (Keeps.sub_of hm (by decide))
    | apply State.tellWaiters_keeps (Keeps.sub_of hm (by decide))
    | apply State.qpSourceReset_keeps (Keeps.sub_of hm (by decide)) | apply State.qpRelease_keeps (Keeps.sub_of hm (by decide))
    | apply State.setQp_keeps (Keeps.sub_of hm (by decide))
theorem State.qpStopped_keeps {m : Parts} {a : State} (hm : Parts.sub 0x700004 m) (s : State) (q : Nat) (hs : a.Keeps m s) :
    a.Keeps m (State.qpStopped s q) := by
  unfold State.qpStopped
  with_reducible repeat' first
    | assumption | apply State.fire_keeps (Keeps.sub_of hm (by decide)) | apply State.setQp_keeps (Keeps.sub_of hm (by decide))
theorem State.qpError_keeps {m : Parts} {a : State} (hm : Parts.sub 0x700004 m) (s : State) (q : Nat) (reason : Nat) (idx : W32) (hs : a.Keeps m s) :
    a.Keeps m (State.qpError s q reason idx) := by
  unfold State.qpError
  with_reducible repeat' first
    | assumption | apply State.endStall_keeps (Keeps.sub_of hm (by decide))
    | apply State.setQp_keeps (Keeps.sub_of hm (by decide)) | apply State.tellWaiters_keeps (Keeps.sub_of hm (by decide))
    | apply State.fire_keeps (Keeps.sub_of hm (by decide)) | apply State.qpCtr_keeps (Keeps.sub_of hm (by decide))
theorem doorbell_keeps {m : Parts} {a : State} (hm : Parts.sub 0x580004 m) (s : State) (f : Nat) (slot : Nat) (off : Nat) (k : State → Nat → State) (hs : a.Keeps m s) (hk : ∀ (z0 : State) (z1 : Nat), a.Keeps m z0 → a.Keeps m (k z0 z1)) :
    a.Keeps m (doorbell s f slot off k) := by
  unfold doorbell
  with_reducible repeat' first
    | assumption | intro _ | apply hk | apply hostRequest_keeps (Keeps.sub_of hm (by decide))
    | apply State.hostCtr_keeps (Keeps.sub_of hm (by decide)) | split
theorem execWorkPiWrite_keeps {m : Parts} {a : State} (hm : Parts.sub 0x780004 m) (f : Nat) (slot : Nat) (v : W32) (s : State) (hs : a.Keeps m s) :
    a.KeepsR m (execWorkPiWrite f slot v s) := by
  unfold execWorkPiWrite
  with_reducible repeat' first
    | assumption | intro _ | apply whenServing_keeps | apply doorbell_keeps (Keeps.sub_of hm (by decide))
    | apply State.workPiWrite_keeps (Keeps.sub_of hm (by decide))
theorem execCplCiWrite_keeps {m : Parts} {a : State} (hm : Parts.sub 0x780004 m) (f : Nat) (slot : Nat) (v : W32) (s : State) (hs : a.Keeps m s) :
    a.KeepsR m (execCplCiWrite f slot v s) := by
  unfold execCplCiWrite
  with_reducible repeat' first
    | assumption | intro _ | apply whenServing_keeps | apply doorbell_keeps (Keeps.sub_of hm (by decide))
    | apply State.cplCiWrite_keeps (Keeps.sub_of hm (by decide))
theorem execQpCtrlStart_keeps {m : Parts} {a : State} (hm : Parts.sub 0x780004 m) (f : Nat) (slot : Nat) (s : State) (hs : a.Keeps m s) :
    a.KeepsR m (execQpCtrlStart f slot s) := by
  unfold execQpCtrlStart
  with_reducible repeat' first
    | assumption | intro _ | apply whenServing_keeps | apply doorbell_keeps (Keeps.sub_of hm (by decide))
    | apply State.qpCtrl_keeps (Keeps.sub_of hm (by decide))
theorem execQpCtrlStop_keeps {m : Parts} {a : State} (hm : Parts.sub 0x780004 m) (f : Nat) (slot : Nat) (s : State) (hs : a.Keeps m s) :
    a.KeepsR m (execQpCtrlStop f slot s) := by
  unfold execQpCtrlStop
  with_reducible repeat' first
    | assumption | intro _ | apply whenServing_keeps | apply doorbell_keeps (Keeps.sub_of hm (by decide))
    | apply State.qpCtrl_keeps (Keeps.sub_of hm (by decide))
theorem execQpCtrlReset_keeps {m : Parts} {a : State} (hm : Parts.sub 0x780004 m) (f : Nat) (slot : Nat) (s : State) (hs : a.Keeps m s) :
    a.KeepsR m (execQpCtrlReset f slot s) := by
  unfold execQpCtrlReset
  with_reducible repeat' first
    | assumption | intro _ | apply whenServing_keeps | apply doorbell_keeps (Keeps.sub_of hm (by decide))
    | apply State.qpCtrl_keeps (Keeps.sub_of hm (by decide))
theorem execQpStoppingEnd_keeps {m : Parts} {a : State} (hm : Parts.sub 0x770004 m) (q : Nat) (s : State) (hs : a.Keeps m s) :
    a.KeepsR m (execQpStoppingEnd q s) := by
  unfold execQpStoppingEnd
  with_reducible repeat' first
    | assumption | intro _ | apply whenRunning_keeps | apply State.qpToReset_keeps (Keeps.sub_of hm (by decide))
    | apply State.qpStopped_keeps (Keeps.sub_of hm (by decide)) | split
theorem State.takeDesc_keeps {m : Parts} {a : State} (hm : Parts.sub 0x780004 m) (s : State) (q : Nat) (hs : a.Keeps m s) :
    a.Keeps m (State.takeDesc s q) := by
  unfold State.takeDesc
  with_reducible repeat' first
    | assumption | dsimp only | apply State.qpError_keeps (Keeps.sub_of hm (by decide))
    | apply State.qpCtr_keeps (Keeps.sub_of hm (by decide)) | apply State.qpFetch_keeps (Keeps.sub_of hm (by decide))
    | apply State.setQp_keeps (Keeps.sub_of hm (by decide)) | split
theorem execDescriptorFetch_keeps {m : Parts} {a : State} (hm : Parts.sub 0x780004 m) (q : Nat) (s : State) (hs : a.Keeps m s) :
    a.KeepsR m (execDescriptorFetch q s) := by
  unfold execDescriptorFetch
  with_reducible repeat' first
    | assumption | intro _ | apply whenRunning_keeps | apply State.takeDesc_keeps (Keeps.sub_of hm (by decide))
theorem execRxPost_keeps {m : Parts} {a : State} (hm : Parts.sub 0x200000 m) (q : Nat) (s : State) (hs : a.Keeps m s) :
    a.KeepsR m (execRxPost q s) := by
  unfold execRxPost
  with_reducible repeat' first
    | assumption | intro _ | dsimp only | apply whenRunning_keeps | apply State.setQp_keeps (Keeps.sub_of hm (by decide))
    | split
theorem State.issuePieces_keeps {m : Parts} {a : State} (hm : Parts.sub 0x790004 m) (s : State) (q : Nat) (slot : W32) (y3 : Nat) (y4 : List (Nat × Nat)) (hs : a.Keeps m s) :
    a.Keeps m (State.issuePieces s q slot y3 y4) := by
  induction y4 generalizing s y3 with
  | nil =>
    unfold State.issuePieces
    with_reducible repeat' first
      | assumption | apply ih | apply State.issueRead_keeps (Keeps.sub_of hm (by decide))
      | apply State.readFailed_keeps (Keeps.sub_of hm (by decide)) | split | refine Keeps.fst_of (by assumption) ?_
  | cons x l ih =>
    unfold State.issuePieces
    with_reducible repeat' first
      | assumption | apply ih | apply State.issueRead_keeps (Keeps.sub_of hm (by decide))
      | apply State.readFailed_keeps (Keeps.sub_of hm (by decide)) | split | refine Keeps.fst_of (by assumption) ?_
theorem State.takeSeq_keeps {m : Parts} {a : State} (hm : Parts.sub 0x220000 m) (s : State) (q : Nat) (slot : W32) (ds : List Desc) (hs : a.Keeps m s) :
    a.Keeps m (State.takeSeq s q slot ds) := by
  unfold State.takeSeq
  with_reducible repeat' first
    | assumption | apply State.setQp_keeps (Keeps.sub_of hm (by decide)) | refine Keeps.upd ?_ | simp only [Keeps.mk_iff]
    | split
theorem State.startJob_keeps {m : Parts} {a : State} (hm : Parts.sub 0x7b0004 m) (s : State) (q : Nat) (ch : List Desc) (hs : a.Keeps m s) :
    a.Keeps m (State.startJob s q ch) := by
  unfold State.startJob
  with_reducible repeat' first
    | assumption | dsimp only | apply State.setQp_keeps (Keeps.sub_of hm (by decide))
    | apply State.qpCtr_keeps (Keeps.sub_of hm (by decide)) | apply State.endStall_keeps (Keeps.sub_of hm (by decide))
    | apply State.refuseCipher_keeps (Keeps.sub_of hm (by decide)) | apply State.issuePieces_keeps (Keeps.sub_of hm (by decide))
    | apply State.takeSeq_keeps (Keeps.sub_of hm (by decide)) | split
theorem execJobStart_keeps {m : Parts} {a : State} (hm : Parts.sub 0x7b0004 m) (q : Nat) (s : State) (hs : a.Keeps m s) :
    a.KeepsR m (execJobStart q s) := by
  unfold execJobStart
  with_reducible repeat' first
    | assumption | intro _ | dsimp only | apply whenRunning_keeps | apply State.startJob_keeps (Keeps.sub_of hm (by decide))
    | apply State.setQp_keeps (Keeps.sub_of hm (by decide)) | apply State.beginStall_keeps (Keeps.sub_of hm (by decide)) | split
theorem execCqStallTimeout_keeps {m : Parts} {a : State} (hm : Parts.sub 0x700005 m) (q : Nat) (s : State) (hs : a.Keeps m s) :
    a.KeepsR m (execCqStallTimeout q s) := by
  unfold execCqStallTimeout
  with_reducible repeat' first
    | assumption | intro _ | dsimp only | apply whenRunning_keeps | apply State.fire_keeps (Keeps.sub_of hm (by decide))
    | apply State.setQp_keeps (Keeps.sub_of hm (by decide)) | apply State.upToClk_keeps (Keeps.sub_of hm (by decide)) | split
theorem execJobComplete_keeps {m : Parts} {a : State} (hm : Parts.sub 0x780004 m) (q : Nat) (slot : W32) (s : State) (hs : a.Keeps m s) :
    a.KeepsR m (execJobComplete q slot s) := by
  unfold execJobComplete
  with_reducible repeat' first
    | assumption | intro _ | apply whenRunning_keeps | apply State.writeRecord_keeps (Keeps.sub_of hm (by decide))
theorem execQpNop_keeps {m : Parts} {a : State} (hm : Parts.sub 0x200000 m) (q : Nat) (slot : W32) (s : State) (hs : a.Keeps m s) :
    a.KeepsR m (execQpNop q slot s) := by
  unfold execQpNop
  with_reducible repeat' first
    | assumption | intro _ | apply whenRunning_keeps | apply State.endJob_keeps (Keeps.sub_of hm (by decide)) | split
theorem execCounterWait_keeps {m : Parts} {a : State} (hm : Parts.sub 0x200000 m) (q : Nat) (slot : W32) (s : State) (hs : a.Keeps m s) :
    a.KeepsR m (execCounterWait q slot s) := by
  unfold execCounterWait
  with_reducible repeat' first
    | assumption | intro _ | dsimp only | apply whenRunning_keeps | apply State.endJob_keeps (Keeps.sub_of hm (by decide))
    | apply State.markActed_keeps (Keeps.sub_of hm (by decide)) | apply State.setQp_keeps (Keeps.sub_of hm (by decide)) | split
theorem execCounterWaitSatisfied_keeps {m : Parts} {a : State} (hm : Parts.sub 0x200000 m) (q : Nat) (slot : W32) (s : State) (hs : a.Keeps m s) :
    a.KeepsR m (execCounterWaitSatisfied q slot s) := by
  unfold execCounterWaitSatisfied
  with_reducible repeat' first
    | assumption | intro _ | apply whenRunning_keeps | apply State.settleWait_keeps (Keeps.sub_of hm (by decide)) | split
theorem execCounterWaitTimeout_keeps {m : Parts} {a : State} (hm : Parts.sub 0x200001 m) (q : Nat) (slot : W32) (s : State) (hs : a.Keeps m s) :
    a.KeepsR m (execCounterWaitTimeout q slot s) := by
  unfold execCounterWaitTimeout
  with_reducible repeat' first
    | assumption | intro _ | apply whenRunning_keeps | apply State.endWait_keeps (Keeps.sub_of hm (by decide))
    | apply State.upToClk_keeps (Keeps.sub_of hm (by decide)) | split
theorem qpCmd_keeps {m : Parts} {a : State} (len : Nat) (wf : List Byte → Bool) (k : State → Request → Nat → Except Nat Done) (s0 : State) (r0 : Request) (hs0 : a.Keeps m s0) (hk : ∀ (z0 : State) (z1 : Request) (z2 : Nat), a.Keeps m z0 → a.KeepsE m (k z0 z1 z2)) :
    a.KeepsE m (qpCmd len wf k s0 r0) := by
  unfold qpCmd
  with_reducible repeat' first
    | assumption | apply hk | apply chk_keeps
theorem qpSetBody_keeps {m : Parts} {a : State} (hm : Parts.sub 0x200000 m) (s0 : State) (r0 : Request) (hs0 : a.Keeps m s0) :
    a.KeepsE m (qpSetBody s0 r0) := by
  unfold qpSetBody
  with_reducible repeat' first
    | assumption | apply chk_keeps | apply done_keeps | apply State.setQp_keeps (Keeps.sub_of hm (by decide))
theorem execQueueQpSet_keeps {m : Parts} {a : State} (hm : Parts.sub 0x700165 m) (s : State) (hs : a.Keeps m s) :
    a.KeepsR m (execQueueQpSet s) := by
  unfold execQueueQpSet
  with_reducible repeat' first
    | assumption | apply slaotRow_keeps (Keeps.sub_of hm (by decide)) | apply qpSetBody_keeps (Keeps.sub_of hm (by decide))
theorem qpGetBody_keeps {m : Parts} {a : State} (s0 : State) (r0 : Request) (hs0 : a.Keeps m s0) :
    a.KeepsE m (qpGetBody s0 r0) := by
  unfold qpGetBody
  with_reducible repeat' first
    | assumption | intro _ | apply qpCmd_keeps | apply done_keeps
theorem execQueueQpGet_keeps {m : Parts} {a : State} (hm : Parts.sub 0x500165 m) (s : State) (hs : a.Keeps m s) :
    a.KeepsR m (execQueueQpGet s) := by
  unfold execQueueQpGet
  with_reducible repeat' first
    | assumption | apply slaotRow_keeps (Keeps.sub_of hm (by decide)) | apply qpGetBody_keeps
theorem qpStateBody_keeps {m : Parts} {a : State} (hm : Parts.sub 0x780004 m) (s0 : State) (r0 : Request) (hs0 : a.Keeps m s0) :
    a.KeepsE m (qpStateBody s0 r0) := by
  unfold qpStateBody
  with_reducible repeat' first
    | assumption | intro _ | exact Keeps.error _ | apply qpCmd_keeps | apply chk_keeps | apply done_keeps
    | apply State.qpStart_keeps (Keeps.sub_of hm (by decide)) | apply State.qpStopping_keeps (Keeps.sub_of hm (by decide))
    | apply State.qpResetCmd_keeps (Keeps.sub_of hm (by decide)) | split
theorem execQueueQpStateStart_keeps {m : Parts} {a : State} (hm : Parts.sub 0x780165 m) (s : State) (hs : a.Keeps m s) :
    a.KeepsR m (execQueueQpStateStart s) := by
  unfold execQueueQpStateStart
  with_reducible repeat' first
    | assumption | apply requestRow_keeps (Keeps.sub_of hm (by decide)) | apply qpStateBody_keeps (Keeps.sub_of hm (by decide))
theorem execQueueQpStateStop_keeps {m : Parts} {a : State} (hm : Parts.sub 0x780165 m) (s : State) (hs : a.Keeps m s) :
    a.KeepsR m (execQueueQpStateStop s) := by
  unfold execQueueQpStateStop
  with_reducible repeat' first
    | assumption | apply requestRow_keeps (Keeps.sub_of hm (by decide)) | apply qpStateBody_keeps (Keeps.sub_of hm (by decide))
theorem execQueueQpStateReset_keeps {m : Parts} {a : State} (hm : Parts.sub 0x780165 m) (s : State) (hs : a.Keeps m s) :
    a.KeepsR m (execQueueQpStateReset s) := by
  unfold execQueueQpStateReset
  with_reducible repeat' first
    | assumption | apply requestRow_keeps (Keeps.sub_of hm (by decide)) | apply qpStateBody_keeps (Keeps.sub_of hm (by decide))
theorem qpStatsBody_keeps {m : Parts} {a : State} (s0 : State) (r0 : Request) (hs0 : a.Keeps m s0) :
    a.KeepsE m (qpStatsBody s0 r0) := by
  unfold qpStatsBody
  with_reducible repeat' first
    | assumption | intro _ | apply qpCmd_keeps | apply done_keeps
theorem execQueueQpStats_keeps {m : Parts} {a : State} (hm : Parts.sub 0x500165 m) (s : State) (hs : a.Keeps m s) :
    a.KeepsR m (execQueueQpStats s) := by
  unfold execQueueQpStats
  with_reducible repeat' first
    | assumption | apply slaotRow_keeps (Keeps.sub_of hm (by decide)) | apply qpStatsBody_keeps

end Sys2Proof.Machine
end

