-- ==== Sys2Proof/Laws/KeepsFrame.lean ====
section
/-! SUPPORT. What the definitions of Machine/Frame.lean keep: no part of the state changes but those of the mask, which is
`Parts` in bits (Safety.lean), and what every command keeps. -/
set_option Elab.async false
namespace Sys2Proof.Machine

theorem State.setClassifier_keeps {m : Parts} {a : State} (hm : Parts.sub 0x1000 m) (s : State) (g : Nat) (x : Classifier) (hs : a.Keeps m s) :
    a.Keeps m (State.setClassifier s g x) := by
  unfold State.setClassifier
  with_reducible repeat' first
    | assumption | refine Keeps.upd ?_ | simp only [Keeps.mk_iff]
theorem State.setFrame_keeps {m : Parts} {a : State} (hm : Parts.sub 0x400 m) (s : State) (t : Nat) (f : FrameRec) (hs : a.Keeps m s) :
    a.Keeps m (State.setFrame s t f) := by
  unfold State.setFrame
  with_reducible repeat' first
    | assumption | refine Keeps.upd ?_ | simp only [Keeps.mk_iff]
theorem State.modFrame_keeps {m : Parts} {a : State} (hm : Parts.sub 0x400 m) (s : State) (t : Nat) (k : FrameRec → FrameRec) (hs : a.Keeps m s) :
    a.Keeps m (State.modFrame s t k) := by
  unfold State.modFrame
  with_reducible repeat' first
    | assumption | apply State.setFrame_keeps (Keeps.sub_of hm (by decide)) | split
theorem State.noteSlice_keeps {m : Parts} {a : State} (hm : Parts.sub 0x400 m) (s : State) (t : Nat) (g : Nat) (hs : a.Keeps m s) :
    a.Keeps m (State.noteSlice s t g) := by
  unfold State.noteSlice
  with_reducible repeat' first
    | assumption | apply State.modFrame_keeps (Keeps.sub_of hm (by decide))
theorem State.canopyCtr_keeps {m : Parts} {a : State} (hm : Parts.sub 0x400 m) (s : State) (g : Nat) (i : Nat) (n : Nat) (hs : a.Keeps m s) :
    a.Keeps m (State.canopyCtr s g i n) := by
  unfold State.canopyCtr
  with_reducible repeat' first
    | assumption | refine Keeps.upd ?_ | simp only [Keeps.mk_iff]
theorem State.setArrivals_keeps {m : Parts} {a : State} (hm : Parts.sub 0x400 m) (s : State) (g : Nat) (l : List TUnit) (hs : a.Keeps m s) :
    a.Keeps m (State.setArrivals s g l) := by
  unfold State.setArrivals
  with_reducible repeat' first
    | assumption | refine Keeps.upd ?_ | simp only [Keeps.mk_iff]
theorem State.arrive_keeps {m : Parts} {a : State} (hm : Parts.sub 0x400 m) (s : State) (g : Nat) (u : TUnit) (hs : a.Keeps m s) :
    a.Keeps m (State.arrive s g u) := by
  unfold State.arrive
  with_reducible repeat' first
    | assumption | apply State.setArrivals_keeps (Keeps.sub_of hm (by decide))
theorem State.sendLocal_keeps {m : Parts} {a : State} (hm : Parts.sub 0x400 m) (s : State) (g : Nat) (ctr : Nat) (x : Seg) (hs : a.Keeps m s) :
    a.Keeps m (State.sendLocal s g ctr x) := by
  unfold State.sendLocal
  with_reducible repeat' first
    | assumption | apply State.canopyCtr_keeps (Keeps.sub_of hm (by decide))
    | apply State.arrive_keeps (Keeps.sub_of hm (by decide))
theorem State.setTransit_keeps {m : Parts} {a : State} (hm : Parts.sub 0x400 m) (s : State) (g : Nat) (l : List TUnit) (hs : a.Keeps m s) :
    a.Keeps m (State.setTransit s g l) := by
  unfold State.setTransit
  with_reducible repeat' first
    | assumption | refine Keeps.upd ?_ | simp only [Keeps.mk_iff]
theorem State.sendWhole_keeps {m : Parts} {a : State} (hm : Parts.sub 0x400 m) (s : State) (g : Nat) (tgt : Nat) (x : Seg) (hs : a.Keeps m s) :
    a.Keeps m (State.sendWhole s g tgt x) := by
  unfold State.sendWhole
  with_reducible repeat' first
    | assumption | apply State.noteSlice_keeps (Keeps.sub_of hm (by decide))
    | apply State.setTransit_keeps (Keeps.sub_of hm (by decide)) | apply State.sendLocal_keeps (Keeps.sub_of hm (by decide))
    | split
theorem State.sendSeg_keeps {m : Parts} {a : State} (hm : Parts.sub 0x400 m) (s : State) (g : Nat) (tgt : Nat) (x : Seg) (hs : a.Keeps m s) :
    a.Keeps m (State.sendSeg s g tgt x) := by
  unfold State.sendSeg
  with_reducible repeat' first
    | assumption | dsimp only | apply State.noteSlice_keeps (Keeps.sub_of hm (by decide))
    | apply State.sendLocal_keeps (Keeps.sub_of hm (by decide)) | apply State.sendWhole_keeps (Keeps.sub_of hm (by decide))
    | split
theorem State.cutTo_keeps {m : Parts} {a : State} (hm : Parts.sub 0x400 m) (s : State) (t : Nat) (upto : Nat) (check : Nat) (hs : a.Keeps m s) :
    a.Keeps m (State.cutTo s t upto check) := by
  unfold State.cutTo
  with_reducible repeat' first
    | assumption | intro _ | dsimp only | apply State.setFrame_keeps (Keeps.sub_of hm (by decide))
    | apply State.sendSeg_keeps (Keeps.sub_of hm (by decide)) | apply Keeps.foldl | split
theorem State.cutArriving_keeps {m : Parts} {a : State} (hm : Parts.sub 0x400 m) (s : State) (hs : a.Keeps m s) :
    a.Keeps m (State.cutArriving s) := by
  unfold State.cutArriving
  with_reducible repeat' first
    | assumption | intro _ | apply State.cutTo_keeps (Keeps.sub_of hm (by decide)) | apply Keeps.foldl | split
theorem State.setSlice_keeps {m : Parts} {a : State} (hm : Parts.sub 0x400 m) (s : State) (g : Nat) (x : Slice) (hs : a.Keeps m s) :
    a.Keeps m (State.setSlice s g x) := by
  unfold State.setSlice
  with_reducible repeat' first
    | assumption | refine Keeps.upd ?_ | simp only [Keeps.mk_iff]
theorem State.setEth_keeps {m : Parts} {a : State} (hm : Parts.sub 0x200 m) (s : State) (n : Nat) (x : PortSt) (hs : a.Keeps m s) :
    a.Keeps m (State.setEth s n x) := by
  unfold State.setEth
  with_reducible repeat' first
    | assumption | refine Keeps.upd ?_ | simp only [Keeps.mk_iff]
theorem State.macControl_keeps {m : Parts} {a : State} (hm : Parts.sub 0x4 m) (s : State) (n : Nat) (op : Nat) (rest : List Byte) (hs : a.Keeps m s) :
    a.Keeps m (State.macControl s n op rest) := by
  unfold State.macControl
  with_reducible repeat' first
    | assumption | apply State.emit_keeps (Keeps.sub_of hm (by decide)) | split
theorem State.ethCtr_keeps {m : Parts} {a : State} (hm : Parts.sub 0x200 m) (s : State) (n : Nat) (i : Nat) (k : Nat) (hs : a.Keeps m s) :
    a.Keeps m (State.ethCtr s n i k) := by
  unfold State.ethCtr
  with_reducible repeat' first
    | assumption | apply State.setEth_keeps (Keeps.sub_of hm (by decide))
theorem State.sendPfc_keeps {m : Parts} {a : State} (hm : Parts.sub 0x204 m) (s : State) (n : Nat) (ps : List Nat) (quanta : Nat) (hs : a.Keeps m s) :
    a.Keeps m (State.sendPfc s n ps quanta) := by
  unfold State.sendPfc
  with_reducible repeat' first
    | assumption | intro _ | dsimp only | apply State.macControl_keeps (Keeps.sub_of hm (by decide))
    | apply State.ethCtr_keeps (Keeps.sub_of hm (by decide)) | apply Keeps.foldl | split
theorem State.sendXoff_keeps {m : Parts} {a : State} (hm : Parts.sub 0x204 m) (s : State) (n : Nat) (hs : a.Keeps m s) :
    a.Keeps m (State.sendXoff s n) := by
  unfold State.sendXoff
  with_reducible repeat' first
    | assumption | dsimp only | apply State.setEth_keeps (Keeps.sub_of hm (by decide))
    | apply State.macControl_keeps (Keeps.sub_of hm (by decide)) | apply State.sendPfc_keeps (Keeps.sub_of hm (by decide))
    | split
theorem State.pfcUpdate_keeps {m : Parts} {a : State} (hm : Parts.sub 0x204 m) (s : State) (n : Nat) (p : Nat) (hs : a.Keeps m s) :
    a.Keeps m (State.pfcUpdate s n p) := by
  unfold State.pfcUpdate
  with_reducible repeat' first
    | assumption | dsimp only | apply State.setEth_keeps (Keeps.sub_of hm (by decide))
    | apply State.sendXoff_keeps (Keeps.sub_of hm (by decide)) | apply State.macControl_keeps (Keeps.sub_of hm (by decide))
    | apply State.sendPfc_keeps (Keeps.sub_of hm (by decide)) | split
theorem State.pairUpdate_keeps {m : Parts} {a : State} (hm : Parts.sub 0x204 m) (s : State) (pair : Option Nat) (hs : a.Keeps m s) :
    a.Keeps m (State.pairUpdate s pair) := by
  unfold State.pairUpdate
  with_reducible repeat' first
    | assumption | apply State.pfcUpdate_keeps (Keeps.sub_of hm (by decide)) | split
theorem State.unrefCell_keeps {m : Parts} {a : State} (hm : Parts.sub 0x604 m) (s : State) (g : Nat) (c : Nat) (hs : a.Keeps m s) :
    a.Keeps m (State.unrefCell s g c) := by
  unfold State.unrefCell
  with_reducible repeat' first
    | assumption | dsimp only | apply State.pairUpdate_keeps (Keeps.sub_of hm (by decide))
    | apply State.setSlice_keeps (Keeps.sub_of hm (by decide)) | split
theorem State.unrefCells_keeps {m : Parts} {a : State} (hm : Parts.sub 0x604 m) (s : State) (g : Nat) (cs : List Nat) (hs : a.Keeps m s) :
    a.Keeps m (State.unrefCells s g cs) := by
  unfold State.unrefCells
  with_reducible repeat' first
    | assumption | intro _ | apply State.unrefCell_keeps (Keeps.sub_of hm (by decide)) | apply Keeps.foldl
theorem State.reap_keeps {m : Parts} {a : State} (hm : Parts.sub 0x400 m) (s : State) (t : Nat) (hs : a.Keeps m s) :
    a.Keeps m (State.reap s t) := by
  unfold State.reap
  with_reducible repeat' first
    | assumption | refine Keeps.upd ?_ | simp only [Keeps.mk_iff] | split
theorem State.lateSeg_keeps {m : Parts} {a : State} (hm : Parts.sub 0x400 m) (s : State) (g : Nat) (t : Nat) (hs : a.Keeps m s) :
    a.Keeps m (State.lateSeg s g t) := by
  unfold State.lateSeg
  with_reducible repeat' first
    | assumption | apply State.reap_keeps (Keeps.sub_of hm (by decide))
    | apply State.canopyCtr_keeps (Keeps.sub_of hm (by decide))
theorem State.relayTo_keeps {m : Parts} {a : State} (hm : Parts.sub 0x400 m) (s : State) (g : Nat) (dest : Nat) (cell : Nat) (x : Seg) (stageOne : Bool) (hs : a.Keeps m s) :
    a.Keeps m (State.relayTo s g dest cell x stageOne) := by
  unfold State.relayTo
  with_reducible repeat' first
    | assumption | apply State.setSlice_keeps (Keeps.sub_of hm (by decide))
theorem State.noteFree_keeps {m : Parts} {a : State} (hm : Parts.sub 0x400 m) (s : State) (g : Nat) (hs : a.Keeps m s) :
    a.Keeps m (State.noteFree s g) := by
  unfold State.noteFree
  with_reducible repeat' first
    | assumption | apply State.setSlice_keeps (Keeps.sub_of hm (by decide))
theorem State.allocCell_keeps {m : Parts} {a : State} (hm : Parts.sub 0x604 m) (s : State) (g : Nat) (t : Nat) (mirror : Bool) (lossless : Bool) (pair : Option Nat) (hs : a.Keeps m s) :
    a.KeepsOS m (State.allocCell s g t mirror lossless pair) := by
  unfold State.allocCell
  with_reducible repeat' first
    | assumption | intro _ | apply State.pairUpdate_keeps (Keeps.sub_of hm (by decide))
    | apply State.noteFree_keeps (Keeps.sub_of hm (by decide)) | apply State.setSlice_keeps (Keeps.sub_of hm (by decide))
    | apply Keeps.mapOS | simp only [Keeps.Q_mk]
theorem State.sliceCtr_keeps {m : Parts} {a : State} (hm : Parts.sub 0x400 m) (s : State) (g : Nat) (i : Nat) (n : Nat) (hs : a.Keeps m s) :
    a.Keeps m (State.sliceCtr s g i n) := by
  unfold State.sliceCtr
  with_reducible repeat' first
    | assumption | apply State.setSlice_keeps (Keeps.sub_of hm (by decide))
theorem State.txEnd_keeps {m : Parts} {a : State} (hm : Parts.sub 0x200400 m) (s : State) (t : Nat) (stamp : Option Nat) (hs : a.Keeps m s) :
    a.Keeps m (State.txEnd s t stamp) := by
  unfold State.txEnd
  with_reducible repeat' first
    | assumption | apply State.endJob_keeps (Keeps.sub_of hm (by decide))
    | apply State.setFrame_keeps (Keeps.sub_of hm (by decide)) | split
theorem State.dropTag_keeps {m : Parts} {a : State} (hm : Parts.sub 0x604 m) (s : State) (g : Nat) (t : Nat) (hs : a.Keeps m s) :
    a.Keeps m (State.dropTag s g t) := by
  unfold State.dropTag
  with_reducible repeat' first
    | assumption | dsimp only | apply State.setSlice_keeps (Keeps.sub_of hm (by decide))
    | apply State.unrefCells_keeps (Keeps.sub_of hm (by decide)) | split
theorem State.freeHere_keeps {m : Parts} {a : State} (hm : Parts.sub 0x604 m) (s : State) (g : Nat) (t : Nat) (hs : a.Keeps m s) :
    a.Keeps m (State.freeHere s g t) := by
  unfold State.freeHere
  with_reducible repeat' first
    | assumption | apply State.dropTag_keeps (Keeps.sub_of hm (by decide))
    | apply State.setSlice_keeps (Keeps.sub_of hm (by decide))
theorem State.setParser_keeps {m : Parts} {a : State} (hm : Parts.sub 0x800 m) (s : State) (g : Nat) (x : Parser) (hs : a.Keeps m s) :
    a.Keeps m (State.setParser s g x) := by
  unfold State.setParser
  with_reducible repeat' first
    | assumption | refine Keeps.upd ?_ | simp only [Keeps.mk_iff]
theorem State.abandon_keeps {m : Parts} {a : State} (hm : Parts.sub 0x1800 m) (s : State) (t : Nat) (hs : a.Keeps m s) :
    a.Keeps m (State.abandon s t) := by
  unfold State.abandon
  with_reducible repeat' first
    | assumption | dsimp only | apply State.setParser_keeps (Keeps.sub_of hm (by decide))
    | apply State.setClassifier_keeps (Keeps.sub_of hm (by decide)) | split
theorem State.freeFrame_keeps {m : Parts} {a : State} (hm : Parts.sub 0x201e04 m) (s : State) (t : Nat) (hs : a.Keeps m s) :
    a.Keeps m (State.freeFrame s t) := by
  unfold State.freeFrame
  with_reducible repeat' first
    | assumption | intro _ | apply State.txEnd_keeps (Keeps.sub_of hm (by decide))
    | apply State.modFrame_keeps (Keeps.sub_of hm (by decide)) | apply State.dropTag_keeps (Keeps.sub_of hm (by decide))
    | apply State.abandon_keeps (Keeps.sub_of hm (by decide)) | apply State.reap_keeps (Keeps.sub_of hm (by decide))
    | apply Keeps.foldl
theorem State.refuseCell_keeps {m : Parts} {a : State} (hm : Parts.sub 0x701e04 m) (s : State) (g : Nat) (t : Nat) (lossless : Bool) (mirror : Bool) (session : Nat) (hs : a.Keeps m s) :
    a.Keeps m (State.refuseCell s g t lossless mirror session) := by
  unfold State.refuseCell
  with_reducible repeat' first
    | assumption | intro _ | dsimp only | apply State.sliceCtr_keeps (Keeps.sub_of hm (by decide))
    | apply State.setSlice_keeps (Keeps.sub_of hm (by decide)) | apply State.fireDev_keeps (Keeps.sub_of hm (by decide))
    | apply State.modFrame_keeps (Keeps.sub_of hm (by decide)) | apply State.txEnd_keeps (Keeps.sub_of hm (by decide))
    | apply State.freeHere_keeps (Keeps.sub_of hm (by decide)) | apply State.freeFrame_keeps (Keeps.sub_of hm (by decide))
    | apply State.reap_keeps (Keeps.sub_of hm (by decide)) | apply Keeps.foldl | split
theorem State.setSliceTag_keeps {m : Parts} {a : State} (hm : Parts.sub 0x400 m) (s : State) (g : Nat) (t : Nat) (x : SliceTag) (hs : a.Keeps m s) :
    a.Keeps m (State.setSliceTag s g t x) := by
  unfold State.setSliceTag
  with_reducible repeat' first
    | assumption | apply State.setSlice_keeps (Keeps.sub_of hm (by decide))
theorem State.openTag_keeps {m : Parts} {a : State} (hm : Parts.sub 0x400 m) (s : State) (g : Nat) (t : Nat) (st : SliceTag) (hs : a.Keeps m s) :
    a.Keeps m (State.openTag s g t st) := by
  unfold State.openTag
  with_reducible repeat' first
    | assumption | apply State.setSliceTag_keeps (Keeps.sub_of hm (by decide)) | split
theorem State.loseUnit_keeps {m : Parts} {a : State} (hm : Parts.sub 0x400 m) (s : State) (u : TUnit) (hs : a.Keeps m s) :
    a.Keeps m (State.loseUnit s u) := by
  unfold State.loseUnit
  with_reducible repeat' first
    | assumption | intro _ | apply State.reap_keeps (Keeps.sub_of hm (by decide))
    | apply State.openTag_keeps (Keeps.sub_of hm (by decide)) | apply Keeps.foldl | split
theorem State.healthCtr_keeps {m : Parts} {a : State} (hm : Parts.sub 0x1000000 m) (s : State) (g : Nat) (i : Nat) (n : Nat) (hs : a.Keeps m s) :
    a.Keeps m (State.healthCtr s g i n) := by
  unfold State.healthCtr
  with_reducible repeat' first
    | assumption | refine Keeps.upd ?_ | simp only [Keeps.mk_iff]
theorem State.uncorrectable_keeps {m : Parts} {a : State} (hm : Parts.sub 0x1500064 m) (s : State) (l : LocWord) (syndrome : BitVec 8) (hs : a.Keeps m s) :
    a.Keeps m (State.uncorrectable s l syndrome) := by
  unfold State.uncorrectable
  with_reducible repeat' first
    | assumption | apply State.log_keeps (Keeps.sub_of hm (by decide))
    | apply State.healthCtr_keeps (Keeps.sub_of hm (by decide)) | apply State.fireDev_keeps (Keeps.sub_of hm (by decide))
    | apply State.fireAll_keeps (Keeps.sub_of hm (by decide)) | refine Keeps.upd ?_ | simp only [Keeps.mk_iff] | split
theorem State.cellFor_keeps {m : Parts} {a : State} (hm : Parts.sub 0x604 m) (s : State) (g : Nat) (f : FrameRec) (x : Seg) (hs : a.Keeps m s) :
    a.KeepsO m (State.cellFor s g f x) := by
  unfold State.cellFor
  with_reducible repeat' first
    | assumption | intro _ | apply Keeps.some0 | apply State.setSliceTag_keeps (Keeps.sub_of hm (by decide))
    | apply State.allocCell_keeps (Keeps.sub_of hm (by decide)) | apply Keeps.mapS
    | simp only [Keeps.Q_iff] | split
theorem State.place_keeps {m : Parts} {a : State} (hm : Parts.sub 0x701e04 m) (s : State) (g : Nat) (x : Seg) (hs : a.Keeps m s) :
    a.Keeps m (State.place s g x) := by
  unfold State.place
  with_reducible repeat' first
    | assumption | apply State.canopyCtr_keeps (Keeps.sub_of hm (by decide))
    | apply State.lateSeg_keeps (Keeps.sub_of hm (by decide)) | apply State.freeFrame_keeps (Keeps.sub_of hm (by decide))
    | apply State.sliceCtr_keeps (Keeps.sub_of hm (by decide)) | apply State.reap_keeps (Keeps.sub_of hm (by decide))
    | apply State.freeHere_keeps (Keeps.sub_of hm (by decide)) | apply State.relayTo_keeps (Keeps.sub_of hm (by decide))
    | apply State.allocCell_keeps (Keeps.sub_of hm (by decide)) | apply State.refuseCell_keeps (Keeps.sub_of hm (by decide))
    | apply State.cellFor_keeps (Keeps.sub_of hm (by decide)) | apply State.setSliceTag_keeps (Keeps.sub_of hm (by decide))
    | split | refine Keeps.some_of (by assumption) ?_ | refine Keeps.someS_of' (by assumption) ?_
theorem State.newTag_keeps {m : Parts} {a : State} (hm : Parts.sub 0x400 m) (s : State) (g : Nat) (hs : a.Keeps m s) :
    a.KeepsQ m (State.newTag s g) := by
  unfold State.newTag
  with_reducible repeat' first
    | assumption | refine Keeps.upd ?_
    | simp only [Keeps.mk_iff, Keeps.Q_mk]
theorem State.classCtr_keeps {m : Parts} {a : State} (hm : Parts.sub 0x1000 m) (s : State) (g : Nat) (i : Nat) (n : Nat) (hs : a.Keeps m s) :
    a.Keeps m (State.classCtr s g i n) := by
  unfold State.classCtr
  with_reducible repeat' first
    | assumption | apply State.setClassifier_keeps (Keeps.sub_of hm (by decide))
theorem State.parseCtr_keeps {m : Parts} {a : State} (hm : Parts.sub 0x800 m) (s : State) (g : Nat) (i : Nat) (n : Nat) (hs : a.Keeps m s) :
    a.Keeps m (State.parseCtr s g i n) := by
  unfold State.parseCtr
  with_reducible repeat' first
    | assumption | apply State.setParser_keeps (Keeps.sub_of hm (by decide))
theorem State.refCell_keeps {m : Parts} {a : State} (hm : Parts.sub 0x400 m) (s : State) (g : Nat) (c : Nat) (hs : a.Keeps m s) :
    a.Keeps m (State.refCell s g c) := by
  unfold State.refCell
  with_reducible repeat' first
    | assumption | dsimp only | apply State.setSlice_keeps (Keeps.sub_of hm (by decide)) | split
theorem State.relayTag_keeps {m : Parts} {a : State} (hm : Parts.sub 0x604 m) (s : State) (g : Nat) (t : Nat) (dest : Nat) (hs : a.Keeps m s) :
    a.Keeps m (State.relayTag s g t dest) := by
  unfold State.relayTag
  with_reducible repeat' first
    | assumption | intro _ | dsimp only | apply State.setSlice_keeps (Keeps.sub_of hm (by decide))
    | apply State.openTag_keeps (Keeps.sub_of hm (by decide)) | apply State.refCell_keeps (Keeps.sub_of hm (by decide))
    | apply State.relayTo_keeps (Keeps.sub_of hm (by decide)) | apply State.unrefCells_keeps (Keeps.sub_of hm (by decide))
    | apply Keeps.foldl | split
theorem State.postDecision_keeps {m : Parts} {a : State} (hm : Parts.sub 0x201e04 m) (s : State) (t : Nat) (hs : a.Keeps m s) :
    a.Keeps m (State.postDecision s t) := by
  unfold State.postDecision
  with_reducible repeat' first
    | assumption | intro _ | apply State.freeFrame_keeps (Keeps.sub_of hm (by decide))
    | apply State.setSliceTag_keeps (Keeps.sub_of hm (by decide)) | apply State.relayTag_keeps (Keeps.sub_of hm (by decide))
    | apply Keeps.foldl | split

end Sys2Proof.Machine
end

