-- ==== Sys2Proof/Laws/KeepsCanopy.lean ====
section
/-! SUPPORT. What the definitions of Machine/Canopy.lean keep: no part of the state changes but those of the mask, which is
`Parts` in bits (Safety.lean), and what every command keeps. -/
set_option Elab.async false
namespace Sys2Proof.Machine

theorem State.setPlane_keeps {m : Parts} {a : State} (hm : Parts.sub 0x400 m) (s : State) (p : Nat) (x : Plane) (hs : a.Keeps m s) :
    a.Keeps m (State.setPlane s p x) := by
  unfold State.setPlane
  with_reducible repeat' first
    | assumption | refine Keeps.upd ?_ | simp only [Keeps.mk_iff]
theorem State.beginIteration_keeps {m : Parts} {a : State} (hm : Parts.sub 0x401 m) (s : State) (p : Nat) (hs : a.Keeps m s) :
    a.Keeps m (State.beginIteration s p) := by
  unfold State.beginIteration
  with_reducible repeat' first
    | assumption | apply State.cutArriving_keeps (Keeps.sub_of hm (by decide))
    | apply State.upTo_keeps (Keeps.sub_of hm (by decide)) | refine Keeps.upd ?_ | simp only [Keeps.mk_iff] | split
theorem State.sendRelay_keeps {m : Parts} {a : State} (hm : Parts.sub 0x604 m) (s : State) (i : Nat) (j : Nat) (p : Nat) (hs : a.Keeps m s) :
    a.Keeps m (State.sendRelay s i j p) := by
  unfold State.sendRelay
  with_reducible repeat' first
    | assumption | apply State.setSlice_keeps (Keeps.sub_of hm (by decide))
    | apply State.unrefCells_keeps (Keeps.sub_of hm (by decide)) | apply State.canopyCtr_keeps (Keeps.sub_of hm (by decide))
    | apply State.arrive_keeps (Keeps.sub_of hm (by decide))
theorem State.sendUnit_keeps {m : Parts} {a : State} (hm : Parts.sub 0x604 m) (s : State) (i : Nat) (j : Nat) (p : Nat) (hs : a.Keeps m s) :
    a.Keeps m (State.sendUnit s i j p) := by
  unfold State.sendUnit
  with_reducible repeat' first
    | assumption | apply State.setTransit_keeps (Keeps.sub_of hm (by decide))
    | apply State.canopyCtr_keeps (Keeps.sub_of hm (by decide)) | apply State.arrive_keeps (Keeps.sub_of hm (by decide))
    | apply State.sendRelay_keeps (Keeps.sub_of hm (by decide)) | split
theorem State.acceptOn_keeps {m : Parts} {a : State} (hm : Parts.sub 0x604 m) (s : State) (p : Nat) (grants : List (Nat × Nat)) (i : Nat) (hs : a.Keeps m s) :
    a.Keeps m (State.acceptOn s p grants i) := by
  unfold State.acceptOn
  with_reducible repeat' first
    | assumption | dsimp only | apply State.setPlane_keeps (Keeps.sub_of hm (by decide))
    | apply State.canopyCtr_keeps (Keeps.sub_of hm (by decide)) | apply State.sendUnit_keeps (Keeps.sub_of hm (by decide))
    | split
theorem execPlaneIteration_keeps {m : Parts} {a : State} (hm : Parts.sub 0x605 m) (p : Nat) (s : State) (hs : a.Keeps m s) :
    a.KeepsR m (execPlaneIteration p s) := by
  unfold execPlaneIteration
  with_reducible repeat' first
    | assumption | intro _ | apply whenRunning_keeps | apply State.beginIteration_keeps (Keeps.sub_of hm (by decide))
    | apply State.acceptOn_keeps (Keeps.sub_of hm (by decide)) | apply Keeps.foldl | split
theorem State.connect_keeps {m : Parts} {a : State} (hm : Parts.sub 0x604 m) (s : State) (p : Nat) (i : Nat) (hs : a.Keeps m s) :
    a.Keeps m (State.connect s p i) := by
  unfold State.connect
  with_reducible repeat' first
    | assumption | dsimp only | apply State.sendUnit_keeps (Keeps.sub_of hm (by decide))
    | apply State.sendRelay_keeps (Keeps.sub_of hm (by decide)) | apply State.canopyCtr_keeps (Keeps.sub_of hm (by decide))
    | apply State.arrive_keeps (Keeps.sub_of hm (by decide)) | apply State.setTransit_keeps (Keeps.sub_of hm (by decide))
    | split
theorem execLbConnection_keeps {m : Parts} {a : State} (hm : Parts.sub 0x605 m) (p : Nat) (s : State) (hs : a.Keeps m s) :
    a.KeepsR m (execLbConnection p s) := by
  unfold execLbConnection
  with_reducible repeat' first
    | assumption | intro _ | apply whenRunning_keeps | apply State.beginIteration_keeps (Keeps.sub_of hm (by decide))
    | apply State.connect_keeps (Keeps.sub_of hm (by decide)) | apply Keeps.foldl | split
theorem State.placeStageOne_keeps {m : Parts} {a : State} (hm : Parts.sub 0x701e04 m) (s : State) (g : Nat) (final : Nat) (x : Seg) (hs : a.Keeps m s) :
    a.Keeps m (State.placeStageOne s g final x) := by
  unfold State.placeStageOne
  with_reducible repeat' first
    | assumption | apply State.canopyCtr_keeps (Keeps.sub_of hm (by decide))
    | apply State.lateSeg_keeps (Keeps.sub_of hm (by decide)) | apply State.relayTo_keeps (Keeps.sub_of hm (by decide))
    | apply State.allocCell_keeps (Keeps.sub_of hm (by decide)) | apply State.noteSlice_keeps (Keeps.sub_of hm (by decide))
    | apply State.refuseCell_keeps (Keeps.sub_of hm (by decide)) | split | refine Keeps.someS_of' (by assumption) ?_
theorem State.failPlane_keeps {m : Parts} {a : State} (hm : Parts.sub 0x400 m) (s : State) (p : Nat) (reason : Nat) (crosspoint : Nat) (hs : a.Keeps m s) :
    a.Keeps m (State.failPlane s p reason crosspoint) := by
  unfold State.failPlane
  with_reducible repeat' first
    | assumption | apply State.loseUnit_keeps (Keeps.sub_of hm (by decide))
    | apply State.setPlane_keeps (Keeps.sub_of hm (by decide)) | apply Keeps.foldl | refine Keeps.upd ?_
    | simp only [Keeps.mk_iff]
theorem State.poisonPlane_keeps {m : Parts} {a : State} (hm : Parts.sub 0x400 m) (s : State) (p : Nat) (crosspoint : Nat) (hs : a.Keeps m s) :
    a.Keeps m (State.poisonPlane s p crosspoint) := by
  unfold State.poisonPlane
  with_reducible repeat' first
    | assumption | dsimp only | apply State.setPlane_keeps (Keeps.sub_of hm (by decide))
    | apply State.failPlane_keeps (Keeps.sub_of hm (by decide)) | split
theorem State.poisonUnit_keeps {m : Parts} {a : State} (hm : Parts.sub 0x1500466 m) (s : State) (g : Nat) (u : TUnit) (hs : a.Keeps m s) :
    a.Keeps m (State.poisonUnit s g u) := by
  unfold State.poisonUnit
  with_reducible repeat' first
    | assumption | apply State.canopyCtr_keeps (Keeps.sub_of hm (by decide))
    | apply State.fresh_keeps (Keeps.sub_of hm (by decide)) | apply State.poisonPlane_keeps (Keeps.sub_of hm (by decide))
    | apply State.uncorrectable_keeps (Keeps.sub_of hm (by decide)) | apply State.loseUnit_keeps (Keeps.sub_of hm (by decide))
    | simp only [Keeps.Q_iff] | split
theorem State.receive_keeps {m : Parts} {a : State} (hm : Parts.sub 0x701e04 m) (s : State) (g : Nat) (u : TUnit) (hs : a.Keeps m s) :
    a.Keeps m (State.receive s g u) := by
  unfold State.receive
  with_reducible repeat' first
    | assumption | intro _ | apply State.canopyCtr_keeps (Keeps.sub_of hm (by decide))
    | apply State.placeStageOne_keeps (Keeps.sub_of hm (by decide)) | apply State.place_keeps (Keeps.sub_of hm (by decide))
    | apply Keeps.foldl | split
theorem State.poisonPayload_keeps {m : Parts} {a : State} (hm : Parts.sub 0x1701e66 m) (s : State) (g : Nat) (u : TUnit) (hs : a.Keeps m s) :
    a.Keeps m (State.poisonPayload s g u) := by
  unfold State.poisonPayload
  with_reducible repeat' first
    | assumption | apply State.fresh_keeps (Keeps.sub_of hm (by decide))
    | apply State.uncorrectable_keeps (Keeps.sub_of hm (by decide)) | apply State.receive_keeps (Keeps.sub_of hm (by decide))
    | apply State.freeFrame_keeps (Keeps.sub_of hm (by decide))
    | simp only [Keeps.Q_iff] | split
theorem execTransferUnitReceive_keeps {m : Parts} {a : State} (hm : Parts.sub 0x1701e66 m) (g : Nat) (poison : Nat) (s : State) (hs : a.Keeps m s) :
    a.KeepsR m (execTransferUnitReceive g poison s) := by
  unfold execTransferUnitReceive
  with_reducible repeat' first
    | assumption | intro _ | apply whenRunning_keeps | apply State.setArrivals_keeps (Keeps.sub_of hm (by decide))
    | apply State.poisonUnit_keeps (Keeps.sub_of hm (by decide)) | apply State.poisonPayload_keeps (Keeps.sub_of hm (by decide))
    | apply State.receive_keeps (Keeps.sub_of hm (by decide)) | split
theorem execFrameIncompleteTimeout_keeps {m : Parts} {a : State} (hm : Parts.sub 0x201e05 m) (g : Nat) (t : Nat) (s : State) (hs : a.Keeps m s) :
    a.KeepsR m (execFrameIncompleteTimeout g t s) := by
  unfold execFrameIncompleteTimeout
  with_reducible repeat' first
    | assumption | intro _ | apply whenRunning_keeps | apply State.freeFrame_keeps (Keeps.sub_of hm (by decide))
    | apply State.canopyCtr_keeps (Keeps.sub_of hm (by decide)) | apply State.upToClk_keeps (Keeps.sub_of hm (by decide))
    | split
theorem execPlaneFailure_keeps {m : Parts} {a : State} (hm : Parts.sub 0x400 m) (p : Nat) (reason : Nat) (crosspoint : Nat) (s : State) (hs : a.Keeps m s) :
    a.KeepsR m (execPlaneFailure p reason crosspoint s) := by
  unfold execPlaneFailure
  with_reducible repeat' first
    | assumption | intro _ | apply whenRunning_keeps | apply State.failPlane_keeps (Keeps.sub_of hm (by decide)) | split
theorem execPlaneDownReport_keeps {m : Parts} {a : State} (hm : Parts.sub 0x500464 m) (p : Nat) (s : State) (hs : a.Keeps m s) :
    a.KeepsR m (execPlaneDownReport p s) := by
  unfold execPlaneDownReport
  with_reducible repeat' first
    | assumption | intro _ | apply whenServing_keeps | apply State.setPlane_keeps (Keeps.sub_of hm (by decide))
    | apply State.fireAll_keeps (Keeps.sub_of hm (by decide)) | apply State.log_keeps (Keeps.sub_of hm (by decide)) | split
theorem execSchedulerMismatch_keeps {m : Parts} {a : State} (hm : Parts.sub 0x401 m) (p : Nat) (s : State) (hs : a.Keeps m s) :
    a.KeepsR m (execSchedulerMismatch p s) := by
  unfold execSchedulerMismatch
  with_reducible repeat' first
    | assumption | intro _ | apply whenRunning_keeps | apply State.beginIteration_keeps (Keeps.sub_of hm (by decide))
    | apply State.setPlane_keeps (Keeps.sub_of hm (by decide)) | split
theorem execCanopyModeReport_keeps {m : Parts} {a : State} (hm : Parts.sub 0x500404 m) (p : Nat) (s : State) (hs : a.Keeps m s) :
    a.KeepsR m (execCanopyModeReport p s) := by
  unfold execCanopyModeReport
  with_reducible repeat' first
    | assumption | intro _ | apply whenServing_keeps | apply State.fireAll_keeps (Keeps.sub_of hm (by decide))
    | apply State.setPlane_keeps (Keeps.sub_of hm (by decide)) | split
theorem execLbModeSwitch_keeps {m : Parts} {a : State} (hm : Parts.sub 0x400 m) (p : Nat) (s : State) (hs : a.Keeps m s) :
    a.KeepsR m (execLbModeSwitch p s) := by
  unfold execLbModeSwitch
  with_reducible repeat' first
    | assumption | intro _ | dsimp only | apply whenRunning_keeps | apply State.setPlane_keeps (Keeps.sub_of hm (by decide))
    | split
theorem canopyGetBody_keeps {m : Parts} {a : State} (s0 : State) (r0 : Request) (hs0 : a.Keeps m s0) :
    a.KeepsE m (canopyGetBody s0 r0) := by
  unfold canopyGetBody
  with_reducible repeat' first
    | assumption | apply chk_keeps | apply done_keeps
theorem execHealthCanopyGet_keeps {m : Parts} {a : State} (hm : Parts.sub 0x500165 m) (s : State) (hs : a.Keeps m s) :
    a.KeepsR m (execHealthCanopyGet s) := by
  unfold execHealthCanopyGet
  with_reducible repeat' first
    | assumption | apply slaotRow_keeps (Keeps.sub_of hm (by decide)) | apply canopyGetBody_keeps
theorem canopySetBody_keeps {m : Parts} {a : State} (hm : Parts.sub 0x400 m) (s0 : State) (r0 : Request) (hs0 : a.Keeps m s0) :
    a.KeepsE m (canopySetBody s0 r0) := by
  unfold canopySetBody
  with_reducible repeat' first
    | assumption | apply chk_keeps | apply done_keeps | refine Keeps.upd ?_ | simp only [Keeps.mk_iff]
theorem execHealthCanopySet_keeps {m : Parts} {a : State} (hm : Parts.sub 0x500565 m) (s : State) (hs : a.Keeps m s) :
    a.KeepsR m (execHealthCanopySet s) := by
  unfold execHealthCanopySet
  with_reducible repeat' first
    | assumption | apply slaotRow_keeps (Keeps.sub_of hm (by decide)) | apply canopySetBody_keeps (Keeps.sub_of hm (by decide))

end Sys2Proof.Machine
end

