-- ==== Sys2Proof/Laws/KeepsEgress.lean ====
section
/-! SUPPORT. What the definitions of Machine/Egress.lean keep: no part of the state changes but those of the mask, which is
`Parts` in bits (Safety.lean), and what every command keeps. -/
set_option Elab.async false
namespace Sys2Proof.Machine

theorem State.setSink_keeps {m : Parts} {a : State} (hm : Parts.sub 0x400 m) (s : State) (g : Nat) (k : Sink) (q : List Nat) (hs : a.Keeps m s) :
    a.Keeps m (State.setSink s g k q) := by
  unfold State.setSink
  with_reducible repeat' first
    | assumption | apply State.setSlice_keeps (Keeps.sub_of hm (by decide))
theorem State.touchTag_keeps {m : Parts} {a : State} (hm : Parts.sub 0x400 m) (s : State) (g : Nat) (t : Nat) (hs : a.Keeps m s) :
    a.Keeps m (State.touchTag s g t) := by
  unfold State.touchTag
  with_reducible repeat' first
    | assumption | apply State.setSlice_keeps (Keeps.sub_of hm (by decide))
theorem State.setQueued_keeps {m : Parts} {a : State} (hm : Parts.sub 0x400 m) (s : State) (g : Nat) (t : Nat) (hs : a.Keeps m s) :
    a.Keeps m (State.setQueued s g t) := by
  unfold State.setQueued
  with_reducible repeat' first
    | assumption | apply State.modFrame_keeps (Keeps.sub_of hm (by decide))
    | apply State.setSliceTag_keeps (Keeps.sub_of hm (by decide)) | apply State.touchTag_keeps (Keeps.sub_of hm (by decide))
theorem State.joinPort_keeps {m : Parts} {a : State} (hm : Parts.sub 0x201e04 m) (s : State) (g : Nat) (t : Nat) (n : Nat) (tc : Nat) (lossy : Bool) (hs : a.Keeps m s) :
    a.Keeps m (State.joinPort s g t n tc lossy) := by
  unfold State.joinPort
  with_reducible repeat' first
    | assumption | dsimp only | apply State.freeFrame_keeps (Keeps.sub_of hm (by decide))
    | apply State.ethCtr_keeps (Keeps.sub_of hm (by decide)) | apply State.sliceCtr_keeps (Keeps.sub_of hm (by decide))
    | apply State.setQueued_keeps (Keeps.sub_of hm (by decide)) | apply State.setSlice_keeps (Keeps.sub_of hm (by decide))
    | split
theorem State.joinSink_keeps {m : Parts} {a : State} (hm : Parts.sub 0x201e04 m) (s : State) (g : Nat) (t : Nat) (k : Sink) (lossy : Bool) (hs : a.Keeps m s) :
    a.Keeps m (State.joinSink s g t k lossy) := by
  unfold State.joinSink
  with_reducible repeat' first
    | assumption | dsimp only | apply State.freeFrame_keeps (Keeps.sub_of hm (by decide))
    | apply State.parseCtr_keeps (Keeps.sub_of hm (by decide)) | apply State.setQueued_keeps (Keeps.sub_of hm (by decide))
    | apply State.setSink_keeps (Keeps.sub_of hm (by decide)) | apply State.sliceCtr_keeps (Keeps.sub_of hm (by decide)) | split
theorem State.joinQueue_keeps {m : Parts} {a : State} (hm : Parts.sub 0x341e04 m) (s : State) (g : Nat) (t : Nat) (f : FrameRec) (hs : a.Keeps m s) :
    a.Keeps m (State.joinQueue s g t f) := by
  unfold State.joinQueue
  with_reducible repeat' first
    | assumption | apply State.freeFrame_keeps (Keeps.sub_of hm (by decide))
    | apply State.qpCtr_keeps (Keeps.sub_of hm (by decide)) | apply State.pmeCause_keeps (Keeps.sub_of hm (by decide))
    | apply State.joinSink_keeps (Keeps.sub_of hm (by decide)) | apply State.clCtr_keeps (Keeps.sub_of hm (by decide))
    | apply State.joinPort_keeps (Keeps.sub_of hm (by decide)) | split
theorem State.shareCells_keeps {m : Parts} {a : State} (hm : Parts.sub 0x400 m) (s : State) (g : Nat) (t : Nat) (c : Nat) (n : Nat) (hs : a.Keeps m s) :
    a.Keeps m (State.shareCells s g t c n) := by
  unfold State.shareCells
  with_reducible repeat' first
    | assumption | intro _ | apply State.refCell_keeps (Keeps.sub_of hm (by decide))
    | apply State.setSliceTag_keeps (Keeps.sub_of hm (by decide)) | apply Keeps.foldl
theorem State.relayCopy_keeps {m : Parts} {a : State} (hm : Parts.sub 0x400 m) (s : State) (g : Nat) (t : Nat) (c : Nat) (dest : Nat) (n : Nat) (hs : a.Keeps m s) :
    a.Keeps m (State.relayCopy s g t c dest n) := by
  unfold State.relayCopy
  with_reducible repeat' first
    | assumption | intro _ | apply State.refCell_keeps (Keeps.sub_of hm (by decide))
    | apply State.setSlice_keeps (Keeps.sub_of hm (by decide)) | apply Keeps.foldl
theorem State.copyKey_keeps {m : Parts} {a : State} (hm : Parts.sub 0x400 m) (s : State) (g : Nat) (away : Bool) (hs : a.Keeps m s) :
    a.KeepsQ m (State.copyKey s g away) := by
  unfold State.copyKey
  with_reducible repeat' first
    | assumption | apply State.newTag_keeps (Keeps.sub_of hm (by decide)) | refine Keeps.upd ?_
    | simp only [Keeps.mk_iff, Keeps.Q_mk] | split
theorem State.makeCopy_keeps {m : Parts} {a : State} (hm : Parts.sub 0x341e04 m) (s : State) (g : Nat) (t : Nat) (x : Nat) (f : FrameRec) (b : List Byte) (hs : a.Keeps m s) :
    a.Keeps m (State.makeCopy s g t x f b) := by
  unfold State.makeCopy
  with_reducible repeat' first
    | assumption | apply State.sliceCtr_keeps (Keeps.sub_of hm (by decide))
    | apply State.setSlice_keeps (Keeps.sub_of hm (by decide)) | apply State.copyKey_keeps (Keeps.sub_of hm (by decide))
    | apply State.setFrame_keeps (Keeps.sub_of hm (by decide)) | apply State.joinQueue_keeps (Keeps.sub_of hm (by decide))
    | apply State.shareCells_keeps (Keeps.sub_of hm (by decide)) | apply State.relayCopy_keeps (Keeps.sub_of hm (by decide))
    | simp only [Keeps.Q_iff] | split
theorem State.candidate_keeps {m : Parts} {a : State} (hm : Parts.sub 0x341e04 m) (s : State) (g : Nat) (t : Nat) (x : Nat) (b : List Byte) (hs : a.Keeps m s) :
    a.Keeps m (State.candidate s g t x b) := by
  unfold State.candidate
  with_reducible repeat' first
    | assumption | dsimp only | apply State.setSlice_keeps (Keeps.sub_of hm (by decide))
    | apply State.makeCopy_keeps (Keeps.sub_of hm (by decide)) | apply State.setFrame_keeps (Keeps.sub_of hm (by decide))
    | split
theorem State.mirrorEligible_keeps {m : Parts} {a : State} (hm : Parts.sub 0x341e04 m) (s : State) (g : Nat) (t : Nat) (f : FrameRec) (hs : a.Keeps m s) :
    a.Keeps m (State.mirrorEligible s g t f) := by
  unfold State.mirrorEligible
  with_reducible repeat' first
    | assumption | intro _ | apply State.candidate_keeps (Keeps.sub_of hm (by decide)) | apply Keeps.foldl | split
theorem State.mirrorEgress_keeps {m : Parts} {a : State} (hm : Parts.sub 0x341e04 m) (s : State) (g : Nat) (t : Nat) (n : Nat) (b : List Byte) (hs : a.Keeps m s) :
    a.Keeps m (State.mirrorEgress s g t n b) := by
  unfold State.mirrorEgress
  with_reducible repeat' first
    | assumption | intro _ | apply State.candidate_keeps (Keeps.sub_of hm (by decide)) | apply Keeps.foldl | split
theorem State.ecnDecide_keeps {m : Parts} {a : State} (hm : Parts.sub 0x402 m) (s : State) (g : Nat) (f : FrameRec) (hs : a.Keeps m s) :
    a.KeepsQ m (State.ecnDecide s g f) := by
  unfold State.ecnDecide
  with_reducible repeat' first
    | assumption | apply State.drawn_keeps (Keeps.sub_of hm (by decide))
    | apply State.sliceCtr_keeps (Keeps.sub_of hm (by decide))
    | simp only [Keeps.Q_mk] | split
theorem State.divert_keeps {m : Parts} {a : State} (hm : Parts.sub 0x341e04 m) (s : State) (g : Nat) (t : Nat) (ctr : Nat) (hs : a.Keeps m s) :
    a.Keeps m (State.divert s g t ctr) := by
  unfold State.divert
  with_reducible repeat' first
    | assumption | dsimp only | apply State.classCtr_keeps (Keeps.sub_of hm (by decide))
    | apply State.modFrame_keeps (Keeps.sub_of hm (by decide)) | apply State.joinQueue_keeps (Keeps.sub_of hm (by decide))
    | apply State.relayTag_keeps (Keeps.sub_of hm (by decide)) | split
theorem State.joinEdited_keeps {m : Parts} {a : State} (hm : Parts.sub 0x341e04 m) (s : State) (g : Nat) (t : Nat) (b : List Byte) (hs : a.Keeps m s) :
    a.Keeps m (State.joinEdited s g t b) := by
  unfold State.joinEdited
  with_reducible repeat' first
    | assumption | dsimp only | apply State.freeFrame_keeps (Keeps.sub_of hm (by decide))
    | apply State.classCtr_keeps (Keeps.sub_of hm (by decide)) | apply State.ethCtr_keeps (Keeps.sub_of hm (by decide))
    | apply State.joinQueue_keeps (Keeps.sub_of hm (by decide)) | apply State.setFrame_keeps (Keeps.sub_of hm (by decide))
    | split
theorem State.eligible__keeps {m : Parts} {a : State} (hm : Parts.sub 0x341e06 m) (s : State) (g : Nat) (t : Nat) (f : FrameRec) (hs : a.Keeps m s) :
    a.Keeps m (State.eligible_ s g t f) := by
  unfold State.eligible_
  with_reducible repeat' first
    | assumption | apply State.sliceCtr_keeps (Keeps.sub_of hm (by decide))
    | apply State.joinQueue_keeps (Keeps.sub_of hm (by decide)) | apply State.mirrorEligible_keeps (Keeps.sub_of hm (by decide))
    | apply State.setFrame_keeps (Keeps.sub_of hm (by decide)) | apply State.ecnDecide_keeps (Keeps.sub_of hm (by decide))
    | apply State.joinEdited_keeps (Keeps.sub_of hm (by decide)) | apply State.divert_keeps (Keeps.sub_of hm (by decide))
    | simp only [Keeps.Q_iff] | split
theorem execFrameEligible_keeps {m : Parts} {a : State} (hm : Parts.sub 0x341e06 m) (g : Nat) (t : Nat) (s : State) (hs : a.Keeps m s) :
    a.KeepsR m (execFrameEligible g t s) := by
  unfold execFrameEligible
  with_reducible repeat' first
    | assumption | intro _ | dsimp only | apply whenRunning_keeps | apply State.eligible__keeps (Keeps.sub_of hm (by decide))
    | apply State.setFrame_keeps (Keeps.sub_of hm (by decide)) | split
theorem State.sendFrame_keeps {m : Parts} {a : State} (hm : Parts.sub 0x341e05 m) (s : State) (g : Nat) (n : Nat) (t : Nat) (f : FrameRec) (hs : a.Keeps m s) :
    a.Keeps m (State.sendFrame s g n t f) := by
  unfold State.sendFrame
  with_reducible repeat' first
    | assumption | apply State.upTo_keeps (Keeps.sub_of hm (by decide))
    | apply State.setSliceTag_keeps (Keeps.sub_of hm (by decide)) | apply State.setFrame_keeps (Keeps.sub_of hm (by decide))
    | apply State.setSlice_keeps (Keeps.sub_of hm (by decide)) | apply State.mirrorEgress_keeps (Keeps.sub_of hm (by decide))
    | apply State.emit_keeps (Keeps.sub_of hm (by decide)) | apply State.txEnd_keeps (Keeps.sub_of hm (by decide)) | split
theorem execEgressSchedule_keeps {m : Parts} {a : State} (hm : Parts.sub 0x341e05 m) (n : Nat) (s : State) (hs : a.Keeps m s) :
    a.KeepsR m (execEgressSchedule n s) := by
  unfold execEgressSchedule
  with_reducible repeat' first
    | assumption | intro _ | dsimp only | apply whenRunning_keeps | apply State.upTo_keeps (Keeps.sub_of hm (by decide))
    | apply State.setSlice_keeps (Keeps.sub_of hm (by decide)) | apply State.touchTag_keeps (Keeps.sub_of hm (by decide))
    | apply State.sendFrame_keeps (Keeps.sub_of hm (by decide)) | split
theorem execFrameTransmitEnd_keeps {m : Parts} {a : State} (hm : Parts.sub 0x605 m) (n : Nat) (s : State) (hs : a.Keeps m s) :
    a.KeepsR m (execFrameTransmitEnd n s) := by
  unfold execFrameTransmitEnd
  with_reducible repeat' first
    | assumption | intro _ | dsimp only | apply whenRunning_keeps | apply State.upTo_keeps (Keeps.sub_of hm (by decide))
    | apply State.setSlice_keeps (Keeps.sub_of hm (by decide)) | apply State.reap_keeps (Keeps.sub_of hm (by decide))
    | apply State.dropTag_keeps (Keeps.sub_of hm (by decide)) | apply State.ethCtr_keeps (Keeps.sub_of hm (by decide)) | split
theorem execAuditStart_keeps {m : Parts} {a : State} (hm : Parts.sub 0x401 m) (g : Nat) (s : State) (hs : a.Keeps m s) :
    a.KeepsR m (execAuditStart g s) := by
  unfold execAuditStart
  with_reducible repeat' first
    | assumption | intro _ | dsimp only | apply whenRunning_keeps | apply State.upTo_keeps (Keeps.sub_of hm (by decide))
    | apply State.setSlice_keeps (Keeps.sub_of hm (by decide)) | split
theorem State.reclaim_keeps {m : Parts} {a : State} (hm : Parts.sub 0x664 m) (s : State) (g : Nat) (c : Nat) (hs : a.Keeps m s) :
    a.Keeps m (State.reclaim s g c) := by
  unfold State.reclaim
  with_reducible repeat' first
    | assumption | apply State.sliceCtr_keeps (Keeps.sub_of hm (by decide))
    | apply State.setSlice_keeps (Keeps.sub_of hm (by decide)) | apply State.pairUpdate_keeps (Keeps.sub_of hm (by decide))
    | apply State.log_keeps (Keeps.sub_of hm (by decide))
theorem execAuditEnd_keeps {m : Parts} {a : State} (hm : Parts.sub 0x500664 m) (g : Nat) (leaked : List Nat) (conflicts : List Nat) (s : State) (hs : a.Keeps m s) :
    a.KeepsR m (execAuditEnd g leaked conflicts s) := by
  unfold execAuditEnd
  with_reducible repeat' first
    | assumption | intro _ | dsimp only | apply whenRunning_keeps | apply State.setSlice_keeps (Keeps.sub_of hm (by decide))
    | apply State.sliceCtr_keeps (Keeps.sub_of hm (by decide)) | apply State.noteFree_keeps (Keeps.sub_of hm (by decide))
    | apply State.reclaim_keeps (Keeps.sub_of hm (by decide)) | apply State.log_keeps (Keeps.sub_of hm (by decide))
    | apply State.fireDev_keeps (Keeps.sub_of hm (by decide)) | apply Keeps.foldl | split
theorem portGate_keeps {m : Parts} {a : State} (s : State) (r : Request) (n : Nat) (k : Except Nat Done) (hs : a.Keeps m s) (hk : a.KeepsE m k) :
    a.KeepsE m (portGate s r n k) := by
  unfold portGate
  with_reducible repeat' first
    | assumption | apply chk_keeps
theorem egressSetBody_keeps {m : Parts} {a : State} (hm : Parts.sub 0x80 m) (s0 : State) (r0 : Request) (hs0 : a.Keeps m s0) :
    a.KeepsE m (egressSetBody s0 r0) := by
  unfold egressSetBody
  with_reducible repeat' first
    | assumption | apply chk_keeps | apply portGate_keeps | apply done_keeps | refine Keeps.upd ?_ | simp only [Keeps.mk_iff]
theorem execPortEgressSet_keeps {m : Parts} {a : State} (hm : Parts.sub 0x5001e5 m) (s : State) (hs : a.Keeps m s) :
    a.KeepsR m (execPortEgressSet s) := by
  unfold execPortEgressSet
  with_reducible repeat' first
    | assumption | apply slaotRow_keeps (Keeps.sub_of hm (by decide)) | apply egressSetBody_keeps (Keeps.sub_of hm (by decide))
theorem egressGetBody_keeps {m : Parts} {a : State} (s0 : State) (r0 : Request) (hs0 : a.Keeps m s0) :
    a.KeepsE m (egressGetBody s0 r0) := by
  unfold egressGetBody
  with_reducible repeat' first
    | assumption | apply chk_keeps | apply portGate_keeps | apply done_keeps
theorem execPortEgressGet_keeps {m : Parts} {a : State} (hm : Parts.sub 0x500165 m) (s : State) (hs : a.Keeps m s) :
    a.KeepsR m (execPortEgressGet s) := by
  unfold execPortEgressGet
  with_reducible repeat' first
    | assumption | apply slaotRow_keeps (Keeps.sub_of hm (by decide)) | apply egressGetBody_keeps
theorem sliceSetBody_keeps {m : Parts} {a : State} (hm : Parts.sub 0x80 m) (s0 : State) (r0 : Request) (hs0 : a.Keeps m s0) :
    a.KeepsE m (sliceSetBody s0 r0) := by
  unfold sliceSetBody
  with_reducible repeat' first
    | assumption | apply chk_keeps | apply done_keeps | refine Keeps.upd ?_ | simp only [Keeps.mk_iff]
theorem execPortSliceSet_keeps {m : Parts} {a : State} (hm : Parts.sub 0x5001e5 m) (s : State) (hs : a.Keeps m s) :
    a.KeepsR m (execPortSliceSet s) := by
  unfold execPortSliceSet
  with_reducible repeat' first
    | assumption | apply slaotRow_keeps (Keeps.sub_of hm (by decide)) | apply sliceSetBody_keeps (Keeps.sub_of hm (by decide))
theorem sliceGetBody_keeps {m : Parts} {a : State} (s0 : State) (r0 : Request) (hs0 : a.Keeps m s0) :
    a.KeepsE m (sliceGetBody s0 r0) := by
  unfold sliceGetBody
  with_reducible repeat' first
    | assumption | apply chk_keeps | apply done_keeps
theorem execPortSliceGet_keeps {m : Parts} {a : State} (hm : Parts.sub 0x500165 m) (s : State) (hs : a.Keeps m s) :
    a.KeepsR m (execPortSliceGet s) := by
  unfold execPortSliceGet
  with_reducible repeat' first
    | assumption | apply slaotRow_keeps (Keeps.sub_of hm (by decide)) | apply sliceGetBody_keeps
theorem mirrorSetBody_keeps {m : Parts} {a : State} (hm : Parts.sub 0x480 m) (s0 : State) (r0 : Request) (hs0 : a.Keeps m s0) :
    a.KeepsE m (mirrorSetBody s0 r0) := by
  unfold mirrorSetBody
  with_reducible repeat' first
    | assumption | apply chk_keeps | apply done_keeps | refine Keeps.upd ?_ | simp only [Keeps.mk_iff]
theorem execPortMirrorSet_keeps {m : Parts} {a : State} (hm : Parts.sub 0x5005e5 m) (s : State) (hs : a.Keeps m s) :
    a.KeepsR m (execPortMirrorSet s) := by
  unfold execPortMirrorSet
  with_reducible repeat' first
    | assumption | apply slaotRow_keeps (Keeps.sub_of hm (by decide)) | apply mirrorSetBody_keeps (Keeps.sub_of hm (by decide))
theorem mirrorGetBody_keeps {m : Parts} {a : State} (s0 : State) (r0 : Request) (hs0 : a.Keeps m s0) :
    a.KeepsE m (mirrorGetBody s0 r0) := by
  unfold mirrorGetBody
  with_reducible repeat' first
    | assumption | apply chk_keeps | apply done_keeps
theorem execPortMirrorGet_keeps {m : Parts} {a : State} (hm : Parts.sub 0x500165 m) (s : State) (hs : a.Keeps m s) :
    a.KeepsR m (execPortMirrorGet s) := by
  unfold execPortMirrorGet
  with_reducible repeat' first
    | assumption | apply slaotRow_keeps (Keeps.sub_of hm (by decide)) | apply mirrorGetBody_keeps

end Sys2Proof.Machine
end

