-- ==== Sys2Proof/Laws/KeepsEthernet.lean ====
section
/-! SUPPORT. What the definitions of Machine/Ethernet.lean keep: no part of the state changes but those of the mask, which is
`Parts` in bits (Safety.lean), and what every command keeps. -/
set_option Elab.async false
namespace Sys2Proof.Machine

theorem State.fireLink_keeps {m : Parts} {a : State} (hm : Parts.sub 0x500004 m) (s : State) (n : Nat) (type : Nat) (reason : Nat) (hs : a.Keeps m s) :
    a.Keeps m (State.fireLink s n type reason) := by
  unfold State.fireLink
  with_reducible repeat' first
    | assumption | apply State.fireDev_keeps (Keeps.sub_of hm (by decide))
theorem State.flushPort_keeps {m : Parts} {a : State} (hm : Parts.sub 0x201e04 m) (s : State) (n : Nat) (hs : a.Keeps m s) :
    a.Keeps m (State.flushPort s n) := by
  unfold State.flushPort
  with_reducible repeat' first
    | assumption | intro _ | apply State.freeFrame_keeps (Keeps.sub_of hm (by decide))
    | apply State.ethCtr_keeps (Keeps.sub_of hm (by decide)) | apply Keeps.foldl
theorem State.cutSending_keeps {m : Parts} {a : State} (hm : Parts.sub 0x201e04 m) (s : State) (n : Nat) (hs : a.Keeps m s) :
    a.Keeps m (State.cutSending s n) := by
  unfold State.cutSending
  with_reducible repeat' first
    | assumption | dsimp only | apply State.freeFrame_keeps (Keeps.sub_of hm (by decide))
    | apply State.emit_keeps (Keeps.sub_of hm (by decide)) | apply State.setSlice_keeps (Keeps.sub_of hm (by decide)) | split
theorem State.abandonRx_keeps {m : Parts} {a : State} (hm : Parts.sub 0x400 m) (s : State) (n : Nat) (hs : a.Keeps m s) :
    a.Keeps m (State.abandonRx s n) := by
  unfold State.abandonRx
  with_reducible repeat' first
    | assumption | intro _ | apply State.reap_keeps (Keeps.sub_of hm (by decide))
    | apply State.cutTo_keeps (Keeps.sub_of hm (by decide)) | apply State.modFrame_keeps (Keeps.sub_of hm (by decide))
    | apply Keeps.foldl
theorem State.portDown_keeps {m : Parts} {a : State} (hm : Parts.sub 0x701e04 m) (s : State) (n : Nat) (reason : Nat) (cut : Bool) (hs : a.Keeps m s) :
    a.Keeps m (State.portDown s n reason cut) := by
  unfold State.portDown
  with_reducible repeat' first
    | assumption | apply State.setEth_keeps (Keeps.sub_of hm (by decide))
    | apply State.flushPort_keeps (Keeps.sub_of hm (by decide)) | apply State.cutSending_keeps (Keeps.sub_of hm (by decide))
    | apply State.fireLink_keeps (Keeps.sub_of hm (by decide)) | apply State.ethCtr_keeps (Keeps.sub_of hm (by decide)) | split
theorem State.sendTraining_keeps {m : Parts} {a : State} (hm : Parts.sub 0x204 m) (s : State) (l : Nat) (hs : a.Keeps m s) :
    a.Keeps m (State.sendTraining s l) := by
  unfold State.sendTraining
  with_reducible repeat' first
    | assumption | apply State.emit_keeps (Keeps.sub_of hm (by decide)) | refine Keeps.upd ?_ | simp only [Keeps.mk_iff]
theorem State.startTraining_keeps {m : Parts} {a : State} (hm : Parts.sub 0x204 m) (s : State) (n : Nat) (hs : a.Keeps m s) :
    a.Keeps m (State.startTraining s n) := by
  unfold State.startTraining
  with_reducible repeat' first
    | assumption | apply State.setEth_keeps (Keeps.sub_of hm (by decide))
    | apply State.sendTraining_keeps (Keeps.sub_of hm (by decide)) | apply Keeps.foldl | refine Keeps.upd ?_
    | simp only [Keeps.mk_iff] | split
theorem State.disablePort_keeps {m : Parts} {a : State} (hm : Parts.sub 0x701e04 m) (s : State) (n : Nat) (hs : a.Keeps m s) :
    a.Keeps m (State.disablePort s n) := by
  unfold State.disablePort
  with_reducible repeat' first
    | assumption | apply State.abandonRx_keeps (Keeps.sub_of hm (by decide))
    | apply State.flushPort_keeps (Keeps.sub_of hm (by decide)) | apply State.portDown_keeps (Keeps.sub_of hm (by decide))
    | apply State.setEth_keeps (Keeps.sub_of hm (by decide))
theorem State.trainFail_keeps {m : Parts} {a : State} (hm : Parts.sub 0x500204 m) (s : State) (n : Nat) (reason : Nat) (hs : a.Keeps m s) :
    a.Keeps m (State.trainFail s n reason) := by
  unfold State.trainFail
  with_reducible repeat' first
    | assumption | dsimp only | apply State.setEth_keeps (Keeps.sub_of hm (by decide))
    | apply State.ethCtr_keeps (Keeps.sub_of hm (by decide)) | apply State.fireLink_keeps (Keeps.sub_of hm (by decide)) | split
theorem execTrainingFrameReceive_keeps {m : Parts} {a : State} (hm : Parts.sub 0x204 m) (n : Nat) (lane : Nat) (f : TrainFrame) (s : State) (hs : a.Keeps m s) :
    a.KeepsR m (execTrainingFrameReceive n lane f s) := by
  unfold execTrainingFrameReceive
  with_reducible repeat' first
    | assumption | intro _ | apply whenRunning_keeps | apply State.sendTraining_keeps (Keeps.sub_of hm (by decide))
    | refine Keeps.upd ?_ | simp only [Keeps.mk_iff] | split
theorem execTrainingAlignmentComplete_keeps {m : Parts} {a : State} (hm : Parts.sub 0x200 m) (x : Alignment) (s : State) (hs : a.Keeps m s) :
    a.KeepsR m (execTrainingAlignmentComplete x s) := by
  unfold execTrainingAlignmentComplete
  with_reducible repeat' first
    | assumption | intro _ | dsimp only | apply whenRunning_keeps | apply State.setEth_keeps (Keeps.sub_of hm (by decide))
    | split
theorem execTrainingTimeout_keeps {m : Parts} {a : State} (hm : Parts.sub 0x500207 m) (n : Nat) (s : State) (hs : a.Keeps m s) :
    a.KeepsR m (execTrainingTimeout n s) := by
  unfold execTrainingTimeout
  with_reducible repeat' first
    | assumption | intro _ | apply whenRunning_keeps | apply State.upToClk_keeps (Keeps.sub_of hm (by decide))
    | apply State.trainFail_keeps (Keeps.sub_of hm (by decide)) | apply State.fresh_keeps (Keeps.sub_of hm (by decide))
    | simp only [Keeps.Q_iff] | split
theorem execS200AttemptFail_keeps {m : Parts} {a : State} (hm : Parts.sub 0x500205 m) (n : Nat) (fin : S200End) (s : State) (hs : a.Keeps m s) :
    a.KeepsR m (execS200AttemptFail n fin s) := by
  unfold execS200AttemptFail
  with_reducible repeat' first
    | assumption | intro _ | dsimp only | apply whenRunning_keeps | apply State.upToClk_keeps (Keeps.sub_of hm (by decide))
    | apply State.trainFail_keeps (Keeps.sub_of hm (by decide)) | apply State.setEth_keeps (Keeps.sub_of hm (by decide)) | split
theorem execTrainingRestart_keeps {m : Parts} {a : State} (hm : Parts.sub 0x205 m) (n : Nat) (s : State) (hs : a.Keeps m s) :
    a.KeepsR m (execTrainingRestart n s) := by
  unfold execTrainingRestart
  with_reducible repeat' first
    | assumption | intro _ | apply whenRunning_keeps | apply State.startTraining_keeps (Keeps.sub_of hm (by decide))
    | apply State.upToClk_keeps (Keeps.sub_of hm (by decide)) | split
theorem execHoldUpExpiry_keeps {m : Parts} {a : State} (hm : Parts.sub 0x500205 m) (n : Nat) (s : State) (hs : a.Keeps m s) :
    a.KeepsR m (execHoldUpExpiry n s) := by
  unfold execHoldUpExpiry
  with_reducible repeat' first
    | assumption | intro _ | dsimp only | apply whenRunning_keeps | apply State.upToClk_keeps (Keeps.sub_of hm (by decide))
    | apply State.fireLink_keeps (Keeps.sub_of hm (by decide)) | apply State.setEth_keeps (Keeps.sub_of hm (by decide)) | split
theorem execLaneLoss_keeps {m : Parts} {a : State} (hm : Parts.sub 0x701e04 m) (n : Nat) (fault : LaneFault) (s : State) (hs : a.Keeps m s) :
    a.KeepsR m (execLaneLoss n fault s) := by
  unfold execLaneLoss
  with_reducible repeat' first
    | assumption | intro _ | apply whenRunning_keeps | apply State.startTraining_keeps (Keeps.sub_of hm (by decide))
    | apply State.portDown_keeps (Keeps.sub_of hm (by decide)) | split
theorem execLinkDegradedWindow_keeps {m : Parts} {a : State} (hm : Parts.sub 0x500205 m) (n : Nat) (bits : Nat) (symbols : Nat) (uncorrectable : Nat) (s : State) (hs : a.Keeps m s) :
    a.KeepsR m (execLinkDegradedWindow n bits symbols uncorrectable s) := by
  unfold execLinkDegradedWindow
  with_reducible repeat' first
    | assumption | intro _ | apply whenRunning_keeps | apply State.upToClk_keeps (Keeps.sub_of hm (by decide))
    | apply State.setEth_keeps (Keeps.sub_of hm (by decide)) | apply State.ethCtr_keeps (Keeps.sub_of hm (by decide))
    | apply State.fireLink_keeps (Keeps.sub_of hm (by decide)) | split
theorem State.pausePrio_keeps {m : Parts} {a : State} (hm : Parts.sub 0x200 m) (s : State) (n : Nat) (p : Nat) (quanta : Nat) (hs : a.Keeps m s) :
    a.Keeps m (State.pausePrio s n p quanta) := by
  unfold State.pausePrio
  with_reducible repeat' first
    | assumption | apply State.setEth_keeps (Keeps.sub_of hm (by decide))
theorem State.pfcReceived_keeps {m : Parts} {a : State} (hm : Parts.sub 0x200 m) (s : State) (n : Nat) (enable : BitVec 8) (quanta : List Nat) (hs : a.Keeps m s) :
    a.Keeps m (State.pfcReceived s n enable quanta) := by
  unfold State.pfcReceived
  with_reducible repeat' first
    | assumption | intro _ | apply State.pausePrio_keeps (Keeps.sub_of hm (by decide))
    | apply State.ethCtr_keeps (Keeps.sub_of hm (by decide)) | apply Keeps.foldl | split
theorem State.pauseReceived_keeps {m : Parts} {a : State} (hm : Parts.sub 0x200 m) (s : State) (n : Nat) (quanta : Nat) (hs : a.Keeps m s) :
    a.Keeps m (State.pauseReceived s n quanta) := by
  unfold State.pauseReceived
  with_reducible repeat' first
    | assumption | apply State.pausePrio_keeps (Keeps.sub_of hm (by decide))
    | apply State.ethCtr_keeps (Keeps.sub_of hm (by decide)) | split
theorem State.macRx_keeps {m : Parts} {a : State} (hm : Parts.sub 0x200 m) (s : State) (n : Nat) (len : Nat) (hs : a.Keeps m s) :
    a.Keeps m (State.macRx s n len) := by
  unfold State.macRx
  with_reducible repeat' first
    | assumption | apply State.ethCtr_keeps (Keeps.sub_of hm (by decide))
theorem execPfcFrameReceive_keeps {m : Parts} {a : State} (hm : Parts.sub 0x200 m) (n : Nat) (enable : BitVec 8) (quanta : List Nat) (s : State) (hs : a.Keeps m s) :
    a.KeepsR m (execPfcFrameReceive n enable quanta s) := by
  unfold execPfcFrameReceive
  with_reducible repeat' first
    | assumption | intro _ | apply whenRunning_keeps | apply State.pfcReceived_keeps (Keeps.sub_of hm (by decide))
    | apply State.macRx_keeps (Keeps.sub_of hm (by decide)) | split
theorem execPauseFrameReceive_keeps {m : Parts} {a : State} (hm : Parts.sub 0x200 m) (n : Nat) (quanta : Nat) (s : State) (hs : a.Keeps m s) :
    a.KeepsR m (execPauseFrameReceive n quanta s) := by
  unfold execPauseFrameReceive
  with_reducible repeat' first
    | assumption | intro _ | apply whenRunning_keeps | apply State.pauseReceived_keeps (Keeps.sub_of hm (by decide))
    | apply State.macRx_keeps (Keeps.sub_of hm (by decide)) | split
theorem execPauseExpiry_keeps {m : Parts} {a : State} (hm : Parts.sub 0x201 m) (n : Nat) (prio : Nat) (s : State) (hs : a.Keeps m s) :
    a.KeepsR m (execPauseExpiry n prio s) := by
  unfold execPauseExpiry
  with_reducible repeat' first
    | assumption | intro _ | apply whenRunning_keeps | apply State.upToClk_keeps (Keeps.sub_of hm (by decide))
    | apply State.setEth_keeps (Keeps.sub_of hm (by decide)) | split
theorem execPfcResend_keeps {m : Parts} {a : State} (hm : Parts.sub 0x205 m) (n : Nat) (s : State) (hs : a.Keeps m s) :
    a.KeepsR m (execPfcResend n s) := by
  unfold execPfcResend
  with_reducible repeat' first
    | assumption | intro _ | apply whenRunning_keeps | apply State.sendXoff_keeps (Keeps.sub_of hm (by decide))
    | apply State.upToClk_keeps (Keeps.sub_of hm (by decide)) | split
theorem State.resetSteer_keeps {m : Parts} {a : State} (hm : Parts.sub 0x400 m) (s : State) (key : Nat) (hs : a.Keeps m s) :
    a.Keeps m (State.resetSteer s key) := by
  unfold State.resetSteer
  with_reducible repeat' first
    | assumption | refine Keeps.upd ?_ | simp only [Keeps.mk_iff]
theorem State.setLayout_keeps {m : Parts} {a : State} (hm : Parts.sub 0x701e84 m) (s : State) (y1 : Nat) (mode : Nat) (mask : Nat) (hs : a.Keeps m s) :
    a.Keeps m (State.setLayout s y1 mode mask) := by
  unfold State.setLayout
  with_reducible repeat' first
    | assumption | intro _ | apply State.abandonRx_keeps (Keeps.sub_of hm (by decide))
    | apply State.flushPort_keeps (Keeps.sub_of hm (by decide)) | apply State.portDown_keeps (Keeps.sub_of hm (by decide))
    | apply State.resetSteer_keeps (Keeps.sub_of hm (by decide)) | apply Keeps.foldl | refine Keeps.upd ?_
    | simp only [Keeps.mk_iff] | split
theorem groupBody_keeps {m : Parts} {a : State} (hm : Parts.sub 0x701e84 m) (s0 : State) (r0 : Request) (hs0 : a.Keeps m s0) :
    a.KeepsE m (groupBody s0 r0) := by
  unfold groupBody
  with_reducible repeat' first
    | assumption | apply chk_keeps | apply done_keeps | apply State.setLayout_keeps (Keeps.sub_of hm (by decide)) | split
theorem execPortGroup_keeps {m : Parts} {a : State} (hm : Parts.sub 0x701fe5 m) (s : State) (hs : a.Keeps m s) :
    a.KeepsR m (execPortGroup s) := by
  unfold execPortGroup
  with_reducible repeat' first
    | assumption | apply slaotRow_keeps (Keeps.sub_of hm (by decide)) | apply groupBody_keeps (Keeps.sub_of hm (by decide))
theorem State.reflow_keeps {m : Parts} {a : State} (hm : Parts.sub 0x204 m) (s : State) (n : Nat) (hs : a.Keeps m s) :
    a.Keeps m (State.reflow s n) := by
  unfold State.reflow
  with_reducible repeat' first
    | assumption | intro _ | apply State.setEth_keeps (Keeps.sub_of hm (by decide))
    | apply State.pfcUpdate_keeps (Keeps.sub_of hm (by decide)) | apply Keeps.foldl
theorem portSetBody_keeps {m : Parts} {a : State} (hm : Parts.sub 0x701e84 m) (s0 : State) (r0 : Request) (hs0 : a.Keeps m s0) :
    a.KeepsE m (portSetBody s0 r0) := by
  unfold portSetBody
  with_reducible repeat' first
    | assumption | apply chk_keeps | apply portGate_keeps | apply State.reflow_keeps (Keeps.sub_of hm (by decide))
    | apply done_keeps | apply State.disablePort_keeps (Keeps.sub_of hm (by decide))
    | apply State.startTraining_keeps (Keeps.sub_of hm (by decide)) | refine Keeps.upd ?_ | simp only [Keeps.mk_iff] | split
theorem execPortSet_keeps {m : Parts} {a : State} (hm : Parts.sub 0x701fe5 m) (s : State) (hs : a.Keeps m s) :
    a.KeepsR m (execPortSet s) := by
  unfold execPortSet
  with_reducible repeat' first
    | assumption | apply slaotRow_keeps (Keeps.sub_of hm (by decide)) | apply portSetBody_keeps (Keeps.sub_of hm (by decide))
theorem portGetBody_keeps {m : Parts} {a : State} (hm : Parts.sub 0x2 m) (s0 : State) (r0 : Request) (hs0 : a.Keeps m s0) :
    a.KeepsE m (portGetBody s0 r0) := by
  unfold portGetBody
  with_reducible repeat' first
    | assumption | apply chk_keeps | apply portGate_keeps | apply State.fresh_keeps (Keeps.sub_of hm (by decide))
    | apply done_keeps | simp only [Keeps.Q_iff]
theorem execPortGet_keeps {m : Parts} {a : State} (hm : Parts.sub 0x500167 m) (s : State) (hs : a.Keeps m s) :
    a.KeepsR m (execPortGet s) := by
  unfold execPortGet
  with_reducible repeat' first
    | assumption | apply slaotRow_keeps (Keeps.sub_of hm (by decide)) | apply portGetBody_keeps (Keeps.sub_of hm (by decide))
theorem portStatsBody_keeps {m : Parts} {a : State} (s0 : State) (r0 : Request) (hs0 : a.Keeps m s0) :
    a.KeepsE m (portStatsBody s0 r0) := by
  unfold portStatsBody
  with_reducible repeat' first
    | assumption | apply chk_keeps | apply portGate_keeps | apply done_keeps
theorem execPortStats_keeps {m : Parts} {a : State} (hm : Parts.sub 0x500165 m) (s : State) (hs : a.Keeps m s) :
    a.KeepsR m (execPortStats s) := by
  unfold execPortStats
  with_reducible repeat' first
    | assumption | apply slaotRow_keeps (Keeps.sub_of hm (by decide)) | apply portStatsBody_keeps
theorem portRetrainBody_keeps {m : Parts} {a : State} (hm : Parts.sub 0x701e04 m) (s0 : State) (r0 : Request) (hs0 : a.Keeps m s0) :
    a.KeepsE m (portRetrainBody s0 r0) := by
  unfold portRetrainBody
  with_reducible repeat' first
    | assumption | apply chk_keeps | apply portGate_keeps | apply done_keeps
    | apply State.startTraining_keeps (Keeps.sub_of hm (by decide)) | apply State.portDown_keeps (Keeps.sub_of hm (by decide))
theorem execPortRetrain_keeps {m : Parts} {a : State} (hm : Parts.sub 0x701f65 m) (s : State) (hs : a.Keeps m s) :
    a.KeepsR m (execPortRetrain s) := by
  unfold execPortRetrain
  with_reducible repeat' first
    | assumption | apply slaotRow_keeps (Keeps.sub_of hm (by decide))
    | apply portRetrainBody_keeps (Keeps.sub_of hm (by decide))

end Sys2Proof.Machine
end

