-- ==== Sys2Proof/Laws/KeepsDecide.lean ====
section
/-! SUPPORT. What the definitions of Machine/Decide.lean keep: no part of the state changes but those of the mask, which is
`Parts` in bits (Safety.lean), and what every command keeps. -/
set_option Elab.async false
namespace Sys2Proof.Machine

theorem State.hostTblCtr_keeps {m : Parts} {a : State} (hm : Parts.sub 0x2000 m) (s : State) (i : Nat) (n : Nat) (hs : a.Keeps m s) :
    a.Keeps m (State.hostTblCtr s i n) := by
  unfold State.hostTblCtr
  with_reducible repeat' first
    | assumption | refine Keeps.upd ?_ | simp only [Keeps.mk_iff]
theorem State.setSvc_keeps {m : Parts} {a : State} (hm : Parts.sub 0x4000 m) (s : State) (g : Nat) (x : SvcGrove) (hs : a.Keeps m s) :
    a.Keeps m (State.setSvc s g x) := by
  unfold State.setSvc
  with_reducible repeat' first
    | assumption | refine Keeps.upd ?_ | simp only [Keeps.mk_iff]
theorem State.meterMode_keeps {m : Parts} {a : State} (hm : Parts.sub 0x201e04 m) (s : State) (t : Nat) (mode : Nat) (tc : Nat) (hs : a.Keeps m s) :
    a.Keeps m (State.meterMode s t mode tc) := by
  unfold State.meterMode
  with_reducible repeat' first
    | assumption | apply State.freeFrame_keeps (Keeps.sub_of hm (by decide))
    | apply State.setFrame_keeps (Keeps.sub_of hm (by decide)) | split
theorem State.meterApply_keeps {m : Parts} {a : State} (hm : Parts.sub 0x201e04 m) (s : State) (t : Nat) (f : FrameRec) (y3 : Nat) (hs : a.Keeps m s) :
    a.Keeps m (State.meterApply s t f y3) := by
  unfold State.meterApply
  with_reducible repeat' first
    | assumption | dsimp only | apply State.setFrame_keeps (Keeps.sub_of hm (by decide))
    | apply State.setClassifier_keeps (Keeps.sub_of hm (by decide)) | apply State.meterMode_keeps (Keeps.sub_of hm (by decide))
    | split
theorem State.onPass_keeps {m : Parts} {a : State} (hm : Parts.sub 0x201e04 m) (s : State) (t : Nat) (hs : a.Keeps m s) :
    a.Keeps m (State.onPass s t) := by
  unfold State.onPass
  with_reducible repeat' first
    | assumption | apply State.setFrame_keeps (Keeps.sub_of hm (by decide))
    | apply State.setClassifier_keeps (Keeps.sub_of hm (by decide)) | apply State.meterApply_keeps (Keeps.sub_of hm (by decide))
    | split
theorem State.decide__keeps {m : Parts} {a : State} (hm : Parts.sub 0x201e04 m) (s : State) (t : Nat) (d : Decision) (byTrail : Bool) (hs : a.Keeps m s) :
    a.Keeps m (State.decide_ s t d byTrail) := by
  unfold State.decide_
  with_reducible repeat' first
    | assumption | apply State.onPass_keeps (Keeps.sub_of hm (by decide))
    | apply State.setFrame_keeps (Keeps.sub_of hm (by decide)) | apply State.freeFrame_keeps (Keeps.sub_of hm (by decide))
    | split
theorem State.applyAction_keeps {m : Parts} {a : State} (hm : Parts.sub 0x221e04 m) (s : State) (t : Nat) (i : Nat) (e : BitVec 512) (byTrail : Bool) (hs : a.Keeps m s) :
    a.Keeps m (State.applyAction s t i e byTrail) := by
  unfold State.applyAction
  with_reducible repeat' first
    | assumption | apply State.decide__keeps (Keeps.sub_of hm (by decide))
    | apply State.classCtr_keeps (Keeps.sub_of hm (by decide)) | refine Keeps.upd ?_ | simp only [Keeps.mk_iff] | split
theorem State.missAction_keeps {m : Parts} {a : State} (hm : Parts.sub 0x223e04 m) (s : State) (t : Nat) (byTrail : Bool) (hs : a.Keeps m s) :
    a.Keeps m (State.missAction s t byTrail) := by
  unfold State.missAction
  with_reducible repeat' first
    | assumption | dsimp only | apply State.classCtr_keeps (Keeps.sub_of hm (by decide))
    | apply State.decide__keeps (Keeps.sub_of hm (by decide)) | apply State.hostTblCtr_keeps (Keeps.sub_of hm (by decide))
    | apply State.applyAction_keeps (Keeps.sub_of hm (by decide)) | split
theorem State.decideAction_keeps {m : Parts} {a : State} (hm : Parts.sub 0x223e04 m) (s : State) (t : Nat) (i : Nat) (byTrail : Bool) (hs : a.Keeps m s) :
    a.Keeps m (State.decideAction s t i byTrail) := by
  unfold State.decideAction
  with_reducible repeat' first
    | assumption | dsimp only | apply State.missAction_keeps (Keeps.sub_of hm (by decide))
    | apply State.classCtr_keeps (Keeps.sub_of hm (by decide)) | apply State.applyAction_keeps (Keeps.sub_of hm (by decide))
    | split
theorem State.enqueueKey_keeps {m : Parts} {a : State} (hm : Parts.sub 0x701e04 m) (s : State) (t : Nat) (key : BitVec 512) (hs : a.Keeps m s) :
    a.Keeps m (State.enqueueKey s t key) := by
  unfold State.enqueueKey
  with_reducible repeat' first
    | assumption | dsimp only | apply State.modFrame_keeps (Keeps.sub_of hm (by decide))
    | apply State.setClassifier_keeps (Keeps.sub_of hm (by decide)) | apply State.classCtr_keeps (Keeps.sub_of hm (by decide))
    | apply State.fireDev_keeps (Keeps.sub_of hm (by decide)) | apply State.decide__keeps (Keeps.sub_of hm (by decide)) | split
theorem State.svcCtr_keeps {m : Parts} {a : State} (hm : Parts.sub 0x4000 m) (s : State) (g : Nat) (i : Nat) (n : Nat) (hs : a.Keeps m s) :
    a.Keeps m (State.svcCtr s g i n) := by
  unfold State.svcCtr
  with_reducible repeat' first
    | assumption | apply State.setSvc_keeps (Keeps.sub_of hm (by decide))

end Sys2Proof.Machine
end

