-- ==== Sys2Proof/Laws/KeepsParse.lean ====
section
/-! SUPPORT. What the definitions of Machine/Parse.lean keep: no part of the state changes but those of the mask, which is
`Parts` in bits (Safety.lean), and what every command keeps. -/
set_option Elab.async false
namespace Sys2Proof.Machine

theorem groveRead_keeps {m : Parts} {a : State} (len : Nat) (wf : List Byte → Bool) (k : State → Request → Nat → Except Nat Done) (s0 : State) (r0 : Request) (hs0 : a.Keeps m s0) (hk : ∀ (z0 : State) (z1 : Request) (z2 : Nat), a.Keeps m z0 → a.KeepsE m (k z0 z1 z2)) :
    a.KeepsE m (groveRead len wf k s0 r0) := by
  unfold groveRead
  with_reducible repeat' first
    | assumption | apply hk | apply chk_keeps
theorem execWindowReady_keeps {m : Parts} {a : State} (hm : Parts.sub 0x701e05 m) (t : Nat) (s : State) (hs : a.Keeps m s) :
    a.KeepsR m (execWindowReady t s) := by
  unfold execWindowReady
  with_reducible repeat' first
    | assumption | intro _ | dsimp only | apply whenRunning_keeps | apply State.upTo_keeps (Keeps.sub_of hm (by decide))
    | apply State.setParser_keeps (Keeps.sub_of hm (by decide)) | apply State.modFrame_keeps (Keeps.sub_of hm (by decide))
    | apply State.parseCtr_keeps (Keeps.sub_of hm (by decide)) | apply State.fireDev_keeps (Keeps.sub_of hm (by decide))
    | apply State.decide__keeps (Keeps.sub_of hm (by decide)) | split
theorem execWindowDispatch_keeps {m : Parts} {a : State} (hm : Parts.sub 0xc00 m) (t : Thr) (s : State) (hs : a.Keeps m s) :
    a.KeepsR m (execWindowDispatch t s) := by
  unfold execWindowDispatch
  with_reducible repeat' first
    | assumption | intro _ | dsimp only | apply whenRunning_keeps | apply State.setParser_keeps (Keeps.sub_of hm (by decide))
    | apply State.modFrame_keeps (Keeps.sub_of hm (by decide)) | split
theorem execThreadFrameStart_keeps {m : Parts} {a : State} (hm : Parts.sub 0x800 m) (t : Thr) (s : State) (hs : a.Keeps m s) :
    a.KeepsR m (execThreadFrameStart t s) := by
  unfold execThreadFrameStart
  with_reducible repeat' first
    | assumption | intro _ | dsimp only | apply whenRunning_keeps | apply State.setParser_keeps (Keeps.sub_of hm (by decide))
    | split
theorem State.endParse_keeps {m : Parts} {a : State} (hm : Parts.sub 0xc00 m) (s : State) (t : Thr) (c : Ctx) (status : Nat) (reason : Nat) (faultPc : Nat) (count : Nat) (ctr : Nat) (hs : a.Keeps m s) :
    a.Keeps m (State.endParse s t c status reason faultPc count ctr) := by
  unfold State.endParse
  with_reducible repeat' first
    | assumption | apply State.setParser_keeps (Keeps.sub_of hm (by decide))
    | apply State.modFrame_keeps (Keeps.sub_of hm (by decide))
theorem State.notifyParseFault_keeps {m : Parts} {a : State} (hm : Parts.sub 0x4000 m) (s : State) (t : Thr) (status : Nat) (pc : Nat) (hs : a.Keeps m s) :
    a.Keeps m (State.notifyParseFault s t status pc) := by
  unfold State.notifyParseFault
  with_reducible repeat' first
    | assumption | dsimp only | apply State.svcCtr_keeps (Keeps.sub_of hm (by decide))
    | apply State.setSvc_keeps (Keeps.sub_of hm (by decide)) | split
theorem State.fireParseFault_keeps {m : Parts} {a : State} (hm : Parts.sub 0x500804 m) (s : State) (g : Nat) (status : Nat) (hs : a.Keeps m s) :
    a.Keeps m (State.fireParseFault s g status) := by
  unfold State.fireParseFault
  with_reducible repeat' first
    | assumption | dsimp only | apply State.setParser_keeps (Keeps.sub_of hm (by decide))
    | apply State.fireDev_keeps (Keeps.sub_of hm (by decide)) | split
theorem State.parseFault_keeps {m : Parts} {a : State} (hm : Parts.sub 0x705e04 m) (s : State) (t : Thr) (c : Ctx) (status : Nat) (faultPc : Nat) (count : Nat) (hs : a.Keeps m s) :
    a.Keeps m (State.parseFault s t c status faultPc count) := by
  unfold State.parseFault
  with_reducible repeat' first
    | assumption | apply State.endParse_keeps (Keeps.sub_of hm (by decide))
    | apply State.decide__keeps (Keeps.sub_of hm (by decide)) | apply State.fireParseFault_keeps (Keeps.sub_of hm (by decide))
    | apply State.notifyParseFault_keeps (Keeps.sub_of hm (by decide))
theorem State.memoryFault_keeps {m : Parts} {a : State} (hm : Parts.sub 0x1705e66 m) (s : State) (t : Thr) (c : Ctx) (faultPc : Nat) (count : Nat) (hs : a.Keeps m s) :
    a.Keeps m (State.memoryFault s t c faultPc count) := by
  unfold State.memoryFault
  with_reducible repeat' first
    | assumption | apply State.fresh_keeps (Keeps.sub_of hm (by decide))
    | apply State.parseFault_keeps (Keeps.sub_of hm (by decide)) | apply State.log_keeps (Keeps.sub_of hm (by decide))
    | apply State.uncorrectable_keeps (Keeps.sub_of hm (by decide))
    | simp only [Keeps.Q_iff]
theorem State.setCtx_keeps {m : Parts} {a : State} (hm : Parts.sub 0x800 m) (s : State) (t : Thr) (c : Ctx) (hs : a.Keeps m s) :
    a.Keeps m (State.setCtx s t c) := by
  unfold State.setCtx
  with_reducible repeat' first
    | assumption | apply State.setParser_keeps (Keeps.sub_of hm (by decide))
theorem spRow_keeps {m : Parts} {a : State} (hm : Parts.sub 0x1705e66 m) (t : Thr) (op : Nat) (f : SpOp) (s : State) (hs : a.Keeps m s) :
    a.KeepsR m (spRow t op f s) := by
  unfold spRow
  with_reducible repeat' first
    | assumption | intro _ | apply whenRunning_keeps | apply State.memoryFault_keeps (Keeps.sub_of hm (by decide))
    | apply State.parseFault_keeps (Keeps.sub_of hm (by decide)) | apply State.setCtx_keeps (Keeps.sub_of hm (by decide))
    | split
theorem execSpNop_keeps {m : Parts} {a : State} (hm : Parts.sub 0x1705e66 m) (t : Thr) (s : State) (hs : a.Keeps m s) :
    a.KeepsR m (execSpNop t s) := by
  unfold execSpNop
  with_reducible repeat' first
    | assumption | apply spRow_keeps (Keeps.sub_of hm (by decide))
theorem execSpExt_keeps {m : Parts} {a : State} (hm : Parts.sub 0x1705e66 m) (t : Thr) (s : State) (hs : a.Keeps m s) :
    a.KeepsR m (execSpExt t s) := by
  unfold execSpExt
  with_reducible repeat' first
    | assumption | apply spRow_keeps (Keeps.sub_of hm (by decide))
theorem execSpExtm_keeps {m : Parts} {a : State} (hm : Parts.sub 0x1705e66 m) (t : Thr) (s : State) (hs : a.Keeps m s) :
    a.KeepsR m (execSpExtm t s) := by
  unfold execSpExtm
  with_reducible repeat' first
    | assumption | apply spRow_keeps (Keeps.sub_of hm (by decide))
theorem execSpAdd_keeps {m : Parts} {a : State} (hm : Parts.sub 0x1705e66 m) (t : Thr) (s : State) (hs : a.Keeps m s) :
    a.KeepsR m (execSpAdd t s) := by
  unfold execSpAdd
  with_reducible repeat' first
    | assumption | apply spRow_keeps (Keeps.sub_of hm (by decide))
theorem execSpSub_keeps {m : Parts} {a : State} (hm : Parts.sub 0x1705e66 m) (t : Thr) (s : State) (hs : a.Keeps m s) :
    a.KeepsR m (execSpSub t s) := by
  unfold execSpSub
  with_reducible repeat' first
    | assumption | apply spRow_keeps (Keeps.sub_of hm (by decide))
theorem execSpAnd_keeps {m : Parts} {a : State} (hm : Parts.sub 0x1705e66 m) (t : Thr) (s : State) (hs : a.Keeps m s) :
    a.KeepsR m (execSpAnd t s) := by
  unfold execSpAnd
  with_reducible repeat' first
    | assumption | apply spRow_keeps (Keeps.sub_of hm (by decide))
theorem execSpOr_keeps {m : Parts} {a : State} (hm : Parts.sub 0x1705e66 m) (t : Thr) (s : State) (hs : a.Keeps m s) :
    a.KeepsR m (execSpOr t s) := by
  unfold execSpOr
  with_reducible repeat' first
    | assumption | apply spRow_keeps (Keeps.sub_of hm (by decide))
theorem execSpXor_keeps {m : Parts} {a : State} (hm : Parts.sub 0x1705e66 m) (t : Thr) (s : State) (hs : a.Keeps m s) :
    a.KeepsR m (execSpXor t s) := by
  unfold execSpXor
  with_reducible repeat' first
    | assumption | apply spRow_keeps (Keeps.sub_of hm (by decide))
theorem execSpShl_keeps {m : Parts} {a : State} (hm : Parts.sub 0x1705e66 m) (t : Thr) (s : State) (hs : a.Keeps m s) :
    a.KeepsR m (execSpShl t s) := by
  unfold execSpShl
  with_reducible repeat' first
    | assumption | apply spRow_keeps (Keeps.sub_of hm (by decide))
theorem execSpShr_keeps {m : Parts} {a : State} (hm : Parts.sub 0x1705e66 m) (t : Thr) (s : State) (hs : a.Keeps m s) :
    a.KeepsR m (execSpShr t s) := by
  unfold execSpShr
  with_reducible repeat' first
    | assumption | apply spRow_keeps (Keeps.sub_of hm (by decide))
theorem execSpAddi_keeps {m : Parts} {a : State} (hm : Parts.sub 0x1705e66 m) (t : Thr) (s : State) (hs : a.Keeps m s) :
    a.KeepsR m (execSpAddi t s) := by
  unfold execSpAddi
  with_reducible repeat' first
    | assumption | apply spRow_keeps (Keeps.sub_of hm (by decide))
theorem execSpSubi_keeps {m : Parts} {a : State} (hm : Parts.sub 0x1705e66 m) (t : Thr) (s : State) (hs : a.Keeps m s) :
    a.KeepsR m (execSpSubi t s) := by
  unfold execSpSubi
  with_reducible repeat' first
    | assumption | apply spRow_keeps (Keeps.sub_of hm (by decide))
theorem execSpAndi_keeps {m : Parts} {a : State} (hm : Parts.sub 0x1705e66 m) (t : Thr) (s : State) (hs : a.Keeps m s) :
    a.KeepsR m (execSpAndi t s) := by
  unfold execSpAndi
  with_reducible repeat' first
    | assumption | apply spRow_keeps (Keeps.sub_of hm (by decide))
theorem execSpOri_keeps {m : Parts} {a : State} (hm : Parts.sub 0x1705e66 m) (t : Thr) (s : State) (hs : a.Keeps m s) :
    a.KeepsR m (execSpOri t s) := by
  unfold execSpOri
  with_reducible repeat' first
    | assumption | apply spRow_keeps (Keeps.sub_of hm (by decide))
theorem execSpXori_keeps {m : Parts} {a : State} (hm : Parts.sub 0x1705e66 m) (t : Thr) (s : State) (hs : a.Keeps m s) :
    a.KeepsR m (execSpXori t s) := by
  unfold execSpXori
  with_reducible repeat' first
    | assumption | apply spRow_keeps (Keeps.sub_of hm (by decide))
theorem execSpShli_keeps {m : Parts} {a : State} (hm : Parts.sub 0x1705e66 m) (t : Thr) (s : State) (hs : a.Keeps m s) :
    a.KeepsR m (execSpShli t s) := by
  unfold execSpShli
  with_reducible repeat' first
    | assumption | apply spRow_keeps (Keeps.sub_of hm (by decide))
theorem execSpShri_keeps {m : Parts} {a : State} (hm : Parts.sub 0x1705e66 m) (t : Thr) (s : State) (hs : a.Keeps m s) :
    a.KeepsR m (execSpShri t s) := by
  unfold execSpShri
  with_reducible repeat' first
    | assumption | apply spRow_keeps (Keeps.sub_of hm (by decide))
theorem execSpLdi_keeps {m : Parts} {a : State} (hm : Parts.sub 0x1705e66 m) (t : Thr) (s : State) (hs : a.Keeps m s) :
    a.KeepsR m (execSpLdi t s) := by
  unfold execSpLdi
  with_reducible repeat' first
    | assumption | apply spRow_keeps (Keeps.sub_of hm (by decide))
theorem execSpComp_keeps {m : Parts} {a : State} (hm : Parts.sub 0x1705e66 m) (t : Thr) (s : State) (hs : a.Keeps m s) :
    a.KeepsR m (execSpComp t s) := by
  unfold execSpComp
  with_reducible repeat' first
    | assumption | apply spRow_keeps (Keeps.sub_of hm (by decide))
theorem execSpCompi_keeps {m : Parts} {a : State} (hm : Parts.sub 0x1705e66 m) (t : Thr) (s : State) (hs : a.Keeps m s) :
    a.KeepsR m (execSpCompi t s) := by
  unfold execSpCompi
  with_reducible repeat' first
    | assumption | apply spRow_keeps (Keeps.sub_of hm (by decide))
theorem execSpBr_keeps {m : Parts} {a : State} (hm : Parts.sub 0x1705e66 m) (t : Thr) (s : State) (hs : a.Keeps m s) :
    a.KeepsR m (execSpBr t s) := by
  unfold execSpBr
  with_reducible repeat' first
    | assumption | apply spRow_keeps (Keeps.sub_of hm (by decide))
theorem execSpBt_keeps {m : Parts} {a : State} (hm : Parts.sub 0x1705e66 m) (t : Thr) (s : State) (hs : a.Keeps m s) :
    a.KeepsR m (execSpBt t s) := by
  unfold execSpBt
  with_reducible repeat' first
    | assumption | apply spRow_keeps (Keeps.sub_of hm (by decide))
theorem execSpBf_keeps {m : Parts} {a : State} (hm : Parts.sub 0x1705e66 m) (t : Thr) (s : State) (hs : a.Keeps m s) :
    a.KeepsR m (execSpBf t s) := by
  unfold execSpBf
  with_reducible repeat' first
    | assumption | apply spRow_keeps (Keeps.sub_of hm (by decide))
theorem execSpBrx_keeps {m : Parts} {a : State} (hm : Parts.sub 0x1705e66 m) (t : Thr) (s : State) (hs : a.Keeps m s) :
    a.KeepsR m (execSpBrx t s) := by
  unfold execSpBrx
  with_reducible repeat' first
    | assumption | apply spRow_keeps (Keeps.sub_of hm (by decide))
theorem execSpKey_keeps {m : Parts} {a : State} (hm : Parts.sub 0x1705e66 m) (t : Thr) (s : State) (hs : a.Keeps m s) :
    a.KeepsR m (execSpKey t s) := by
  unfold execSpKey
  with_reducible repeat' first
    | assumption | apply spRow_keeps (Keeps.sub_of hm (by decide))
theorem execSpKeyw_keeps {m : Parts} {a : State} (hm : Parts.sub 0x1705e66 m) (t : Thr) (s : State) (hs : a.Keeps m s) :
    a.KeepsR m (execSpKeyw t s) := by
  unfold execSpKeyw
  with_reducible repeat' first
    | assumption | apply spRow_keeps (Keeps.sub_of hm (by decide))
theorem execSpKeyi_keeps {m : Parts} {a : State} (hm : Parts.sub 0x1705e66 m) (t : Thr) (s : State) (hs : a.Keeps m s) :
    a.KeepsR m (execSpKeyi t s) := by
  unfold execSpKeyi
  with_reducible repeat' first
    | assumption | apply spRow_keeps (Keeps.sub_of hm (by decide))
theorem execSpEmit_keeps {m : Parts} {a : State} (hm : Parts.sub 0x1705e66 m) (t : Thr) (s : State) (hs : a.Keeps m s) :
    a.KeepsR m (execSpEmit t s) := by
  unfold execSpEmit
  with_reducible repeat' first
    | assumption | apply spRow_keeps (Keeps.sub_of hm (by decide))
theorem execSpThint_keeps {m : Parts} {a : State} (hm : Parts.sub 0x1705e66 m) (t : Thr) (s : State) (hs : a.Keeps m s) :
    a.KeepsR m (execSpThint t s) := by
  unfold execSpThint
  with_reducible repeat' first
    | assumption | apply spRow_keeps (Keeps.sub_of hm (by decide))
theorem State.halt_keeps {m : Parts} {a : State} (hm : Parts.sub 0x701e04 m) (s : State) (t : Thr) (c : Ctx) (outcome : Nat) (reason : Nat) (count : Nat) (key : BitVec 512) (hs : a.Keeps m s) :
    a.Keeps m (State.halt s t c outcome reason count key) := by
  unfold State.halt
  with_reducible repeat' first
    | assumption | apply State.modFrame_keeps (Keeps.sub_of hm (by decide))
    | apply State.endParse_keeps (Keeps.sub_of hm (by decide)) | apply State.enqueueKey_keeps (Keeps.sub_of hm (by decide))
    | apply State.decide__keeps (Keeps.sub_of hm (by decide)) | split
theorem State.haltBuiltin_keeps {m : Parts} {a : State} (hm : Parts.sub 0x1705e66 m) (s : State) (t : Thr) (c : Ctx) (f : FrameRec) (hs : a.Keeps m s) :
    a.Keeps m (State.haltBuiltin s t c f) := by
  unfold State.haltBuiltin
  with_reducible repeat' first
    | assumption | apply State.fresh_keeps (Keeps.sub_of hm (by decide))
    | apply State.memoryFault_keeps (Keeps.sub_of hm (by decide)) | apply State.halt_keeps (Keeps.sub_of hm (by decide))
    | simp only [Keeps.Q_iff] | split
theorem execSpHalt_keeps {m : Parts} {a : State} (hm : Parts.sub 0x1705e66 m) (t : Thr) (s : State) (hs : a.Keeps m s) :
    a.KeepsR m (execSpHalt t s) := by
  unfold execSpHalt
  with_reducible repeat' first
    | assumption | intro _ | dsimp only | apply whenRunning_keeps | apply State.haltBuiltin_keeps (Keeps.sub_of hm (by decide))
    | apply State.memoryFault_keeps (Keeps.sub_of hm (by decide)) | apply State.parseFault_keeps (Keeps.sub_of hm (by decide))
    | apply State.halt_keeps (Keeps.sub_of hm (by decide)) | split
theorem execOverrunFault_keeps {m : Parts} {a : State} (hm : Parts.sub 0x705e04 m) (t : Thr) (s : State) (hs : a.Keeps m s) :
    a.KeepsR m (execOverrunFault t s) := by
  unfold execOverrunFault
  with_reducible repeat' first
    | assumption | intro _ | apply whenRunning_keeps | apply State.parseFault_keeps (Keeps.sub_of hm (by decide)) | split
theorem execFallThroughFault_keeps {m : Parts} {a : State} (hm : Parts.sub 0x705e04 m) (t : Thr) (s : State) (hs : a.Keeps m s) :
    a.KeepsR m (execFallThroughFault t s) := by
  unfold execFallThroughFault
  with_reducible repeat' first
    | assumption | intro _ | dsimp only | apply whenRunning_keeps | apply State.parseFault_keeps (Keeps.sub_of hm (by decide))
    | split
theorem State.deliverCandidate_keeps {m : Parts} {a : State} (hm : Parts.sub 0x4800 m) (s : State) (g : Nat) (r : CandRec) (hs : a.Keeps m s) :
    a.Keeps m (State.deliverCandidate s g r) := by
  unfold State.deliverCandidate
  with_reducible repeat' first
    | assumption | dsimp only | apply State.parseCtr_keeps (Keeps.sub_of hm (by decide))
    | apply State.setSvc_keeps (Keeps.sub_of hm (by decide)) | split
theorem execThintCandidateDeliver_keeps {m : Parts} {a : State} (hm : Parts.sub 0x4c00 m) (t : Nat) (s : State) (hs : a.Keeps m s) :
    a.KeepsR m (execThintCandidateDeliver t s) := by
  unfold execThintCandidateDeliver
  with_reducible repeat' first
    | assumption | intro _ | apply whenRunning_keeps | apply State.reap_keeps (Keeps.sub_of hm (by decide))
    | apply State.deliverCandidate_keeps (Keeps.sub_of hm (by decide))
    | apply State.setFrame_keeps (Keeps.sub_of hm (by decide)) | split
theorem parseStageBody_keeps {m : Parts} {a : State} (hm : Parts.sub 0x800 m) (s0 : State) (r0 : Request) (hs0 : a.Keeps m s0) :
    a.KeepsE m (parseStageBody s0 r0) := by
  unfold parseStageBody
  with_reducible repeat' first
    | assumption | apply chk_keeps | apply done_keeps | refine Keeps.upd ?_ | simp only [Keeps.mk_iff]
theorem execClassParseStage_keeps {m : Parts} {a : State} (hm : Parts.sub 0x500965 m) (s : State) (hs : a.Keeps m s) :
    a.KeepsR m (execClassParseStage s) := by
  unfold execClassParseStage
  with_reducible repeat' first
    | assumption | apply slaotRow_keeps (Keeps.sub_of hm (by decide)) | apply parseStageBody_keeps (Keeps.sub_of hm (by decide))
theorem parseLoadBody_keeps {m : Parts} {a : State} (hm : Parts.sub 0x100 m) (s0 : State) (r0 : Request) (hs0 : a.Keeps m s0) :
    a.KeepsE m (parseLoadBody s0 r0) := by
  unfold parseLoadBody
  with_reducible repeat' first
    | assumption | apply Keeps.ok | apply chk_keeps | apply startOp_keeps (Keeps.sub_of hm (by decide)) | split
theorem execClassParseLoad_keeps {m : Parts} {a : State} (hm : Parts.sub 0x500165 m) (s : State) (hs : a.Keeps m s) :
    a.KeepsR m (execClassParseLoad s) := by
  unfold execClassParseLoad
  with_reducible repeat' first
    | assumption | apply slaotRow_keeps (Keeps.sub_of hm (by decide)) | apply parseLoadBody_keeps (Keeps.sub_of hm (by decide))
theorem State.switchBank_keeps {m : Parts} {a : State} (hm : Parts.sub 0x80880 m) (s : State) (g : Nat) (prog : Option Program) (hs : a.Keeps m s) :
    a.Keeps m (State.switchBank s g prog) := by
  unfold State.switchBank
  with_reducible repeat' first
    | assumption | apply State.setParser_keeps (Keeps.sub_of hm (by decide))
    | apply State.extend_keeps (Keeps.sub_of hm (by decide)) | refine Keeps.upd ?_ | simp only [Keeps.mk_iff]
theorem execParseBankSwitch_keeps {m : Parts} {a : State} (hm : Parts.sub 0x5809e5 m) (y0 : Nat) (ok : Bool) (s : State) (hs : a.Keeps m s) :
    a.KeepsR m (execParseBankSwitch y0 ok s) := by
  unfold execParseBankSwitch
  with_reducible repeat' first
    | assumption | intro _ | apply whenRunning_keeps | apply opRow_keeps (Keeps.sub_of hm (by decide))
    | apply State.endOp_keeps (Keeps.sub_of hm (by decide)) | apply State.switchBank_keeps (Keeps.sub_of hm (by decide))
    | apply State.setOp_keeps (Keeps.sub_of hm (by decide)) | split
theorem parseGetBody_keeps {m : Parts} {a : State} (s0 : State) (r0 : Request) (hs0 : a.Keeps m s0) :
    a.KeepsE m (parseGetBody s0 r0) := by
  unfold parseGetBody
  with_reducible repeat' first
    | assumption | intro _ | apply groveRead_keeps | apply done_keeps
theorem execClassParseGet_keeps {m : Parts} {a : State} (hm : Parts.sub 0x500165 m) (s : State) (hs : a.Keeps m s) :
    a.KeepsR m (execClassParseGet s) := by
  unfold execClassParseGet
  with_reducible repeat' first
    | assumption | apply slaotRow_keeps (Keeps.sub_of hm (by decide)) | apply parseGetBody_keeps
theorem parseStatsBody_keeps {m : Parts} {a : State} (s0 : State) (r0 : Request) (hs0 : a.Keeps m s0) :
    a.KeepsE m (parseStatsBody s0 r0) := by
  unfold parseStatsBody
  with_reducible repeat' first
    | assumption | intro _ | apply groveRead_keeps | apply done_keeps
theorem execClassParseStats_keeps {m : Parts} {a : State} (hm : Parts.sub 0x500165 m) (s : State) (hs : a.Keeps m s) :
    a.KeepsR m (execClassParseStats s) := by
  unfold execClassParseStats
  with_reducible repeat' first
    | assumption | apply slaotRow_keeps (Keeps.sub_of hm (by decide)) | apply parseStatsBody_keeps

end Sys2Proof.Machine
end

