-- ==== Sys2Proof/Laws/KeepsClassify.lean ====
section
/-! SUPPORT. What the definitions of Machine/Classify.lean keep: no part of the state changes but those of the mask, which is
`Parts` in bits (Safety.lean), and what every command keeps. -/
set_option Elab.async false
namespace Sys2Proof.Machine

theorem chkGroves_keeps {m : Parts} {a : State} (s : State) (r : Request) (y2 : Nat) (held : Bool) (k : Except Nat Done) (hs : a.Keeps m s) (hk : a.KeepsE m k) :
    a.KeepsE m (chkGroves s r y2 held k) := by
  unfold chkGroves
  with_reducible repeat' first
    | assumption | apply chk_keeps
theorem stageRules_keeps {m : Parts} {a : State} (hm : Parts.sub 0x1000 m) (rs : List Rule) (clear : Bool) (s0 : State) (r0 : Request) (hs0 : a.Keeps m s0) :
    a.KeepsE m (stageRules rs clear s0 r0) := by
  unfold stageRules
  with_reducible repeat' first
    | assumption | apply chk_keeps | apply done_keeps | refine Keeps.upd ?_ | simp only [Keeps.mk_iff]
theorem ruleStageBody_keeps {m : Parts} {a : State} (hm : Parts.sub 0x1000 m) (s0 : State) (r0 : Request) (hs0 : a.Keeps m s0) :
    a.KeepsE m (ruleStageBody s0 r0) := by
  unfold ruleStageBody
  with_reducible repeat' first
    | assumption | apply chk_keeps | apply stageRules_keeps (Keeps.sub_of hm (by decide))
theorem execClassRuleStage_keeps {m : Parts} {a : State} (hm : Parts.sub 0x501165 m) (s : State) (hs : a.Keeps m s) :
    a.KeepsR m (execClassRuleStage s) := by
  unfold execClassRuleStage
  with_reducible repeat' first
    | assumption | apply slaotRow_keeps (Keeps.sub_of hm (by decide)) | apply ruleStageBody_keeps (Keeps.sub_of hm (by decide))
theorem routeStageBody_keeps {m : Parts} {a : State} (hm : Parts.sub 0x1000 m) (s0 : State) (r0 : Request) (hs0 : a.Keeps m s0) :
    a.KeepsE m (routeStageBody s0 r0) := by
  unfold routeStageBody
  with_reducible repeat' first
    | assumption | apply chk_keeps | apply stageRules_keeps (Keeps.sub_of hm (by decide))
theorem execClassRouteStage_keeps {m : Parts} {a : State} (hm : Parts.sub 0x501165 m) (s : State) (hs : a.Keeps m s) :
    a.KeepsR m (execClassRouteStage s) := by
  unfold execClassRouteStage
  with_reducible repeat' first
    | assumption | apply slaotRow_keeps (Keeps.sub_of hm (by decide)) | apply routeStageBody_keeps (Keeps.sub_of hm (by decide))
theorem execWalkStart_keeps {m : Parts} {a : State} (hm : Parts.sub 0x1400 m) (g : Nat) (s : State) (hs : a.Keeps m s) :
    a.KeepsR m (execWalkStart g s) := by
  unfold execWalkStart
  with_reducible repeat' first
    | assumption | intro _ | dsimp only | apply whenRunning_keeps | apply State.modFrame_keeps (Keeps.sub_of hm (by decide))
    | apply State.setClassifier_keeps (Keeps.sub_of hm (by decide)) | split
theorem State.walkFault_keeps {m : Parts} {a : State} (hm : Parts.sub 0x201e64 m) (s : State) (t : Nat) (l : LocWord) (level : Nat) (hs : a.Keeps m s) :
    a.Keeps m (State.walkFault s t l level) := by
  unfold State.walkFault
  with_reducible repeat' first
    | assumption | apply State.modFrame_keeps (Keeps.sub_of hm (by decide))
    | apply State.decide__keeps (Keeps.sub_of hm (by decide)) | apply State.log_keeps (Keeps.sub_of hm (by decide))
    | apply State.classCtr_keeps (Keeps.sub_of hm (by decide))
theorem State.walkError_keeps {m : Parts} {a : State} (hm : Parts.sub 0x1701e66 m) (s : State) (t : Nat) (w : Walk) (reads : List Nat) (level : Nat) (hs : a.Keeps m s) :
    a.Keeps m (State.walkError s t w reads level) := by
  unfold State.walkError
  with_reducible repeat' first
    | assumption | apply State.fresh_keeps (Keeps.sub_of hm (by decide))
    | apply State.walkFault_keeps (Keeps.sub_of hm (by decide)) | apply State.uncorrectable_keeps (Keeps.sub_of hm (by decide))
    | apply State.classCtr_keeps (Keeps.sub_of hm (by decide))
    | simp only [Keeps.Q_iff]
theorem State.walkBad_keeps {m : Parts} {a : State} (hm : Parts.sub 0x1701e66 m) (s : State) (t : Nat) (w : Walk) (y3 : TreeHalf) (reads : List Nat) (level : Nat) (hs : a.Keeps m s) :
    a.Keeps m (State.walkBad s t w y3 reads level) := by
  unfold State.walkBad
  with_reducible repeat' first
    | assumption | apply State.walkFault_keeps (Keeps.sub_of hm (by decide))
    | apply State.fresh_keeps (Keeps.sub_of hm (by decide)) | apply State.uncorrectable_keeps (Keeps.sub_of hm (by decide))
    | simp only [Keeps.Q_iff] | split
theorem State.walkAction_keeps {m : Parts} {a : State} (hm : Parts.sub 0x223e04 m) (s : State) (t : Nat) (i : Nat) (hs : a.Keeps m s) :
    a.Keeps m (State.walkAction s t i) := by
  unfold State.walkAction
  with_reducible repeat' first
    | assumption | apply State.decideAction_keeps (Keeps.sub_of hm (by decide))
    | apply State.modFrame_keeps (Keeps.sub_of hm (by decide))
theorem execWalkEnd_keeps {m : Parts} {a : State} (hm : Parts.sub 0x1723e67 m) (t : Nat) (memErr : Bool) (s : State) (hs : a.Keeps m s) :
    a.KeepsR m (execWalkEnd t memErr s) := by
  unfold execWalkEnd
  with_reducible repeat' first
    | assumption | intro _ | dsimp only | apply whenRunning_keeps | apply State.upTo_keeps (Keeps.sub_of hm (by decide))
    | apply State.setClassifier_keeps (Keeps.sub_of hm (by decide)) | apply State.classCtr_keeps (Keeps.sub_of hm (by decide))
    | apply State.walkError_keeps (Keeps.sub_of hm (by decide)) | apply State.walkBad_keeps (Keeps.sub_of hm (by decide))
    | apply State.missAction_keeps (Keeps.sub_of hm (by decide)) | apply State.modFrame_keeps (Keeps.sub_of hm (by decide))
    | apply State.walkAction_keeps (Keeps.sub_of hm (by decide)) | split
theorem treeInstallBody_keeps {m : Parts} {a : State} (hm : Parts.sub 0x1100 m) (s0 : State) (r0 : Request) (hs0 : a.Keeps m s0) :
    a.KeepsE m (treeInstallBody s0 r0) := by
  unfold treeInstallBody
  with_reducible repeat' first
    | assumption | exact Keeps.error _ | apply Keeps.ok | apply chk_keeps | apply chkGroves_keeps
    | apply startOp_keeps (Keeps.sub_of hm (by decide)) | refine Keeps.upd ?_ | simp only [Keeps.mk_iff] | split
    | refine Keeps.done_of (by assumption) ?_
theorem execClassTreeInstall_keeps {m : Parts} {a : State} (hm : Parts.sub 0x501165 m) (s : State) (hs : a.Keeps m s) :
    a.KeepsR m (execClassTreeInstall s) := by
  unfold execClassTreeInstall
  with_reducible repeat' first
    | assumption | apply slaotRow_keeps (Keeps.sub_of hm (by decide))
    | apply treeInstallBody_keeps (Keeps.sub_of hm (by decide))
theorem State.modBuild_keeps {m : Parts} {a : State} (hm : Parts.sub 0x1000 m) (s : State) (mb : Nat) (k : BuildRec → BuildRec) (hs : a.Keeps m s) :
    a.Keeps m (State.modBuild s mb k) := by
  unfold State.modBuild
  with_reducible repeat' first
    | assumption | refine Keeps.upd ?_ | simp only [Keeps.mk_iff]
theorem State.endInstall_keeps {m : Parts} {a : State} (hm : Parts.sub 0x501104 m) (s : State) (o : LongOp) (st : Nat) (hs : a.Keeps m s) :
    a.Keeps m (State.endInstall s o st) := by
  unfold State.endInstall
  with_reducible repeat' first
    | assumption | apply State.endOp_keeps (Keeps.sub_of hm (by decide))
    | apply State.modBuild_keeps (Keeps.sub_of hm (by decide))
theorem execTreeInstallStep_keeps {m : Parts} {a : State} (hm : Parts.sub 0x501165 m) (y0 : Nat) (image : TreeBuild) (ok : Bool) (s : State) (hs : a.Keeps m s) :
    a.KeepsR m (execTreeInstallStep y0 image ok s) := by
  unfold execTreeInstallStep
  with_reducible repeat' first
    | assumption | intro _ | dsimp only | apply whenRunning_keeps | apply opRow_keeps (Keeps.sub_of hm (by decide))
    | apply State.modBuild_keeps (Keeps.sub_of hm (by decide)) | apply State.setOp_keeps (Keeps.sub_of hm (by decide))
    | apply State.endInstall_keeps (Keeps.sub_of hm (by decide)) | apply State.setClassifier_keeps (Keeps.sub_of hm (by decide))
    | split
theorem treeGetBody_keeps {m : Parts} {a : State} (s0 : State) (r0 : Request) (hs0 : a.Keeps m s0) :
    a.KeepsE m (treeGetBody s0 r0) := by
  unfold treeGetBody
  with_reducible repeat' first
    | assumption | intro _ | apply groveRead_keeps | apply done_keeps
theorem execClassTreeGet_keeps {m : Parts} {a : State} (hm : Parts.sub 0x500165 m) (s : State) (hs : a.Keeps m s) :
    a.KeepsR m (execClassTreeGet s) := by
  unfold execClassTreeGet
  with_reducible repeat' first
    | assumption | apply slaotRow_keeps (Keeps.sub_of hm (by decide)) | apply treeGetBody_keeps
theorem buildGetBody_keeps {m : Parts} {a : State} (s0 : State) (r0 : Request) (hs0 : a.Keeps m s0) :
    a.KeepsE m (buildGetBody s0 r0) := by
  unfold buildGetBody
  with_reducible repeat' first
    | assumption | exact Keeps.error _ | apply chk_keeps | apply done_keeps | split
theorem execClassBuildGet_keeps {m : Parts} {a : State} (hm : Parts.sub 0x500165 m) (s : State) (hs : a.Keeps m s) :
    a.KeepsR m (execClassBuildGet s) := by
  unfold execClassBuildGet
  with_reducible repeat' first
    | assumption | apply slaotRow_keeps (Keeps.sub_of hm (by decide)) | apply buildGetBody_keeps
theorem meterSetBody_keeps {m : Parts} {a : State} (hm : Parts.sub 0x1080 m) (s0 : State) (r0 : Request) (hs0 : a.Keeps m s0) :
    a.KeepsE m (meterSetBody s0 r0) := by
  unfold meterSetBody
  with_reducible repeat' first
    | assumption | intro _ | apply chk_keeps | apply chkGroves_keeps | apply done_keeps
    | apply State.setClassifier_keeps (Keeps.sub_of hm (by decide)) | apply Keeps.foldl | refine Keeps.upd ?_
    | simp only [Keeps.mk_iff]
theorem execClassMeterSet_keeps {m : Parts} {a : State} (hm : Parts.sub 0x5011e5 m) (s : State) (hs : a.Keeps m s) :
    a.KeepsR m (execClassMeterSet s) := by
  unfold execClassMeterSet
  with_reducible repeat' first
    | assumption | apply slaotRow_keeps (Keeps.sub_of hm (by decide)) | apply meterSetBody_keeps (Keeps.sub_of hm (by decide))
theorem meterGetBody_keeps {m : Parts} {a : State} (s0 : State) (r0 : Request) (hs0 : a.Keeps m s0) :
    a.KeepsE m (meterGetBody s0 r0) := by
  unfold meterGetBody
  with_reducible repeat' first
    | assumption | intro _ | apply groveRead_keeps | apply done_keeps
theorem execClassMeterGet_keeps {m : Parts} {a : State} (hm : Parts.sub 0x500165 m) (s : State) (hs : a.Keeps m s) :
    a.KeepsR m (execClassMeterGet s) := by
  unfold execClassMeterGet
  with_reducible repeat' first
    | assumption | apply slaotRow_keeps (Keeps.sub_of hm (by decide)) | apply meterGetBody_keeps
theorem actionStatsBody_keeps {m : Parts} {a : State} (s0 : State) (r0 : Request) (hs0 : a.Keeps m s0) :
    a.KeepsE m (actionStatsBody s0 r0) := by
  unfold actionStatsBody
  with_reducible repeat' first
    | assumption | intro _ | apply groveRead_keeps | apply done_keeps
theorem execClassActionStats_keeps {m : Parts} {a : State} (hm : Parts.sub 0x500165 m) (s : State) (hs : a.Keeps m s) :
    a.KeepsR m (execClassActionStats s) := by
  unfold execClassActionStats
  with_reducible repeat' first
    | assumption | apply slaotRow_keeps (Keeps.sub_of hm (by decide)) | apply actionStatsBody_keeps
theorem classStatsBody_keeps {m : Parts} {a : State} (s0 : State) (r0 : Request) (hs0 : a.Keeps m s0) :
    a.KeepsE m (classStatsBody s0 r0) := by
  unfold classStatsBody
  with_reducible repeat' first
    | assumption | intro _ | apply groveRead_keeps | apply done_keeps
theorem execClassStats_keeps {m : Parts} {a : State} (hm : Parts.sub 0x500165 m) (s : State) (hs : a.Keeps m s) :
    a.KeepsR m (execClassStats s) := by
  unfold execClassStats
  with_reducible repeat' first
    | assumption | apply slaotRow_keeps (Keeps.sub_of hm (by decide)) | apply classStatsBody_keeps
theorem classLookupBody_keeps {m : Parts} {a : State} (s0 : State) (r0 : Request) (hs0 : a.Keeps m s0) :
    a.KeepsE m (classLookupBody s0 r0) := by
  unfold classLookupBody
  with_reducible repeat' first
    | assumption | intro _ | apply groveRead_keeps | apply done_keeps
theorem execClassLookup_keeps {m : Parts} {a : State} (hm : Parts.sub 0x500165 m) (s : State) (hs : a.Keeps m s) :
    a.KeepsR m (execClassLookup s) := by
  unfold execClassLookup
  with_reducible repeat' first
    | assumption | apply slaotRow_keeps (Keeps.sub_of hm (by decide)) | apply classLookupBody_keeps

end Sys2Proof.Machine
end

