-- ==== Sys2Proof/Laws/KeepsTables.lean ====
section
/-! SUPPORT. What the definitions of Machine/Tables.lean keep: no part of the state changes but those of the mask, which is
`Parts` in bits (Safety.lean), and what every command keeps. -/
set_option Elab.async false
namespace Sys2Proof.Machine

theorem State.logToRing_keeps {m : Parts} {a : State} (hm : Parts.sub 0x4000 m) (s : State) (r : LearnRec) (hs : a.Keeps m s) :
    a.Keeps m (State.logToRing s r) := by
  unfold State.logToRing
  with_reducible repeat' first
    | assumption | apply State.setSvc_keeps (Keeps.sub_of hm (by decide))
theorem State.learnRecord_keeps {m : Parts} {a : State} (hm : Parts.sub 0x6000 m) (s : State) (key : Nat) (kind : Nat) (old : Nat) (new : Nat) (time : Nat) (hs : a.Keeps m s) :
    a.Keeps m (State.learnRecord s key kind old new time) := by
  unfold State.learnRecord
  with_reducible repeat' first
    | assumption | apply State.hostTblCtr_keeps (Keeps.sub_of hm (by decide))
    | apply State.logToRing_keeps (Keeps.sub_of hm (by decide)) | refine Keeps.upd ?_ | simp only [Keeps.mk_iff] | split
theorem State.setTbl_keeps {m : Parts} {a : State} (hm : Parts.sub 0x2000 m) (s : State) (t : Nat) (x : XTable) (hs : a.Keeps m s) :
    a.Keeps m (State.setTbl s t x) := by
  unfold State.setTbl
  with_reducible repeat' first
    | assumption | refine Keeps.upd ?_ | simp only [Keeps.mk_iff] | split
theorem State.tblCtr_keeps {m : Parts} {a : State} (hm : Parts.sub 0x2000 m) (s : State) (t : Nat) (i : Nat) (n : Nat) (hs : a.Keeps m s) :
    a.Keeps m (State.tblCtr s t i n) := by
  unfold State.tblCtr
  with_reducible repeat' first
    | assumption | apply State.setTbl_keeps (Keeps.sub_of hm (by decide))
theorem State.tblClear_keeps {m : Parts} {a : State} (hm : Parts.sub 0x2000 m) (s : State) (t : Nat) (p : Nat) (hs : a.Keeps m s) :
    a.Keeps m (State.tblClear s t p) := by
  unfold State.tblClear
  with_reducible repeat' first
    | assumption | apply State.setTbl_keeps (Keeps.sub_of hm (by decide)) | refine Keeps.upd ?_ | simp only [Keeps.mk_iff]
    | split
theorem State.agePosition_keeps {m : Parts} {a : State} (hm : Parts.sub 0x6000 m) (s : State) (t : Nat) (mine : Nat → Bool) (p : Nat) (hs : a.Keeps m s) :
    a.KeepsP m (State.agePosition s t mine p) := by
  unfold State.agePosition
  with_reducible repeat' first
    | assumption | apply State.learnRecord_keeps (Keeps.sub_of hm (by decide))
    | apply State.tblCtr_keeps (Keeps.sub_of hm (by decide)) | apply State.tblClear_keeps (Keeps.sub_of hm (by decide))
    | apply State.setTbl_keeps (Keeps.sub_of hm (by decide))
    | simp only [Keeps.P_mk] | split
theorem State.ageStep_keeps {m : Parts} {a : State} (hm : Parts.sub 0x6000 m) (s : State) (t : Nat) (i : Nat) (mine : Nat → Bool) (hs : a.Keeps m s) :
    a.KeepsP m (State.ageStep s t i mine) := by
  unfold State.ageStep
  with_reducible repeat' first
    | assumption | intro _ | apply State.agePosition_keeps (Keeps.sub_of hm (by decide)) | apply Keeps.foldl_fst
    | simp only [Keeps.P_iff, Keeps.P_mk]
theorem State.needRehash_keeps {m : Parts} {a : State} (hm : Parts.sub 0x502004 m) (s : State) (t : Nat) (part : Nat) (hs : a.Keeps m s) :
    a.Keeps m (State.needRehash s t part) := by
  unfold State.needRehash
  with_reducible repeat' first
    | assumption | dsimp only | apply State.tblCtr_keeps (Keeps.sub_of hm (by decide))
    | apply State.fireAll_keeps (Keeps.sub_of hm (by decide)) | apply State.setTbl_keeps (Keeps.sub_of hm (by decide)) | split
theorem State.tblInsert_keeps {m : Parts} {a : State} (hm : Parts.sub 0x502004 m) (s : State) (t : Nat) (e : BitVec 512) (hs : a.Keeps m s) :
    a.KeepsP m (State.tblInsert s t e) := by
  unfold State.tblInsert
  with_reducible repeat' first
    | assumption | apply State.setTbl_keeps (Keeps.sub_of hm (by decide))
    | apply State.needRehash_keeps (Keeps.sub_of hm (by decide))
    | simp only [Keeps.P_mk] | split
theorem State.tblDelete_keeps {m : Parts} {a : State} (hm : Parts.sub 0x2000 m) (s : State) (t : Nat) (p : Nat) (hs : a.Keeps m s) :
    a.Keeps m (State.tblDelete s t p) := by
  unfold State.tblDelete
  with_reducible repeat' first
    | assumption | apply State.tblCtr_keeps (Keeps.sub_of hm (by decide))
    | apply State.tblClear_keeps (Keeps.sub_of hm (by decide))
theorem State.keyedOp_keeps {m : Parts} {a : State} (hm : Parts.sub 0x2000 m) (s : State) (f : Nat) (op : Nat) (t : Nat) (e : BitVec 512) (held : Nat → Bool) (hs : a.Keeps m s) :
    a.KeepsP m (State.keyedOp s f op t e held) := by
  unfold State.keyedOp
  with_reducible repeat' first
    | assumption | apply State.tblDelete_keeps (Keeps.sub_of hm (by decide))
    | apply State.setTbl_keeps (Keeps.sub_of hm (by decide))
    | simp only [Keeps.P_mk] | split
theorem State.hashOp_keeps {m : Parts} {a : State} (hm : Parts.sub 0x506004 m) (s : State) (f : Nat) (op : Nat) (t : Nat) (idx : Nat) (data : BitVec 512) (held : Nat → Bool) (hs : a.Keeps m s) :
    a.KeepsP m (State.hashOp s f op t idx data held) := by
  unfold State.hashOp
  with_reducible repeat' first
    | assumption | apply State.ageStep_keeps (Keeps.sub_of hm (by decide))
    | apply State.tblInsert_keeps (Keeps.sub_of hm (by decide)) | apply State.keyedOp_keeps (Keeps.sub_of hm (by decide))
    | simp only [Keeps.P_iff, Keeps.P_mk] | split
theorem State.writeAction_keeps {m : Parts} {a : State} (hm : Parts.sub 0x1000 m) (s : State) (g : Nat) (i : Nat) (e : BitVec 512) (hs : a.Keeps m s) :
    a.Keeps m (State.writeAction s g i e) := by
  unfold State.writeAction
  with_reducible repeat' first
    | assumption | apply State.setClassifier_keeps (Keeps.sub_of hm (by decide))
theorem State.arrayOp_keeps {m : Parts} {a : State} (hm : Parts.sub 0x1080 m) (s : State) (f : Nat) (op : Nat) (tbl : Nat) (g : Nat) (all : Bool) (i : Nat) (data : BitVec 512) (hs : a.Keeps m s) :
    a.KeepsP m (State.arrayOp s f op tbl g all i data) := by
  unfold State.arrayOp
  dsimp only
  repeat' with_reducible apply Keeps.iteP
  with_reducible repeat' first
    | assumption | intro _ | apply State.writeAction_keeps (Keeps.sub_of hm (by decide)) | apply Keeps.foldl
    | refine Keeps.upd ?_ | simp only [Keeps.mk_iff, Keeps.P_mk]
    | split
theorem State.tableOp_keeps {m : Parts} {a : State} (hm : Parts.sub 0x507084 m) (s : State) (f : Nat) (op : Nat) (cmd : W32) (data : BitVec 512) (held : Nat → Bool) (hs : a.Keeps m s) :
    a.KeepsP m (State.tableOp s f op cmd data held) := by
  unfold State.tableOp
  with_reducible repeat' first
    | assumption | apply State.hashOp_keeps (Keeps.sub_of hm (by decide))
    | apply State.arrayOp_keeps (Keeps.sub_of hm (by decide))
    | simp only [Keeps.P_mk] | split
theorem State.setTblSet_keeps {m : Parts} {a : State} (hm : Parts.sub 0x2000 m) (s : State) (src : Nat) (x : TblSet) (hs : a.Keeps m s) :
    a.Keeps m (State.setTblSet s src x) := by
  unfold State.setTblSet
  with_reducible repeat' first
    | assumption | refine Keeps.upd ?_ | simp only [Keeps.mk_iff]
theorem State.runTblOp_keeps {m : Parts} {a : State} (hm : Parts.sub 0x507084 m) (s : State) (o : TblOp) (hs : a.Keeps m s) :
    a.Keeps m (State.runTblOp s o) := by
  unfold State.runTblOp
  with_reducible repeat' first
    | assumption | apply State.tableOp_keeps (Keeps.sub_of hm (by decide))
    | apply State.setTblSet_keeps (Keeps.sub_of hm (by decide))
    | simp only [Keeps.P_iff] | split
theorem State.tblRunDue_keeps {m : Parts} {a : State} (hm : Parts.sub 0x507084 m) (s : State) (hs : a.Keeps m s) :
    a.Keeps m (State.tblRunDue s) := by
  unfold State.tblRunDue
  with_reducible repeat' first
    | assumption | apply State.runTblOp_keeps (Keeps.sub_of hm (by decide)) | apply Keeps.foldl | refine Keeps.upd ?_
    | simp only [Keeps.mk_iff]
theorem State.tblStart_keeps {m : Parts} {a : State} (hm : Parts.sub 0x507084 m) (s : State) (src : Nat) (v : W32) (hs : a.Keeps m s) :
    a.Keeps m (State.tblStart s src v) := by
  unfold State.tblStart
  with_reducible repeat' first
    | assumption | apply State.tblRunDue_keeps (Keeps.sub_of hm (by decide))
    | apply State.setTblSet_keeps (Keeps.sub_of hm (by decide)) | refine Keeps.upd ?_ | simp only [Keeps.mk_iff] | split
theorem State.tblStatusAck_keeps {m : Parts} {a : State} (hm : Parts.sub 0x2000 m) (s : State) (src : Nat) (v : W32) (hs : a.Keeps m s) :
    a.Keeps m (State.tblStatusAck s src v) := by
  unfold State.tblStatusAck
  with_reducible repeat' first
    | assumption | apply State.setTblSet_keeps (Keeps.sub_of hm (by decide))
theorem State.tblPut_keeps {m : Parts} {a : State} (hm : Parts.sub 0x2000 m) (s : State) (src : Nat) (off : Nat) (bytes : List Byte) (hs : a.Keeps m s) :
    a.Keeps m (State.tblPut s src off bytes) := by
  unfold State.tblPut
  with_reducible repeat' first
    | assumption | dsimp only | apply State.setTblSet_keeps (Keeps.sub_of hm (by decide)) | split
theorem setWrite_keeps {m : Parts} {a : State} (hm : Parts.sub 0x580004 m) (s : State) (src : Nat) (off : Nat) (len : Nat) (k : State → State) (hs : a.Keeps m s) (hk : ∀ (z0 : State), a.Keeps m z0 → a.Keeps m (k z0)) :
    a.Keeps m (setWrite s src off len k) := by
  unfold setWrite
  with_reducible repeat' first
    | assumption | apply hk | apply hostRequest_keeps (Keeps.sub_of hm (by decide)) | split
theorem tblCmd_keeps {m : Parts} {a : State} (hm : Parts.sub 0x587084 m) (op : Nat) (src : Nat) (v : W32) (s : State) (hs : a.Keeps m s) :
    a.Keeps m (tblCmd op src v s) := by
  unfold tblCmd
  with_reducible repeat' first
    | assumption | intro _ | apply setWrite_keeps (Keeps.sub_of hm (by decide))
    | apply State.tblStart_keeps (Keeps.sub_of hm (by decide)) | split
theorem State.thaw_keeps {m : Parts} {a : State} (hm : Parts.sub 0x6000 m) (s : State) (y1 : MoveSt) (time : Nat) (hs : a.Keeps m s) :
    a.Keeps m (State.thaw s y1 time) := by
  unfold State.thaw
  with_reducible repeat' first
    | assumption | apply State.learnRecord_keeps (Keeps.sub_of hm (by decide)) | refine Keeps.upd ?_ | simp only [Keeps.mk_iff]
    | split
theorem State.tblRun_keeps {m : Parts} {a : State} (hm : Parts.sub 0x507084 m) (s : State) (hs : a.Keeps m s) :
    a.Keeps m (State.tblRun s) := by
  unfold State.tblRun
  with_reducible repeat' first
    | assumption | apply State.runTblOp_keeps (Keeps.sub_of hm (by decide)) | apply Keeps.foldl | refine Keeps.upd ?_
    | simp only [Keeps.mk_iff]
theorem execTblCmdRead_keeps {m : Parts} {a : State} (hm : Parts.sub 0x587084 m) (src : Nat) (v : W32) (s : State) (hs : a.Keeps m s) :
    a.KeepsR m (execTblCmdRead src v s) := by
  unfold execTblCmdRead
  with_reducible repeat' first
    | assumption | apply whenServing_keeps | apply tblCmd_keeps (Keeps.sub_of hm (by decide))
theorem execTblCmdWrite_keeps {m : Parts} {a : State} (hm : Parts.sub 0x587084 m) (src : Nat) (v : W32) (s : State) (hs : a.Keeps m s) :
    a.KeepsR m (execTblCmdWrite src v s) := by
  unfold execTblCmdWrite
  with_reducible repeat' first
    | assumption | apply whenServing_keeps | apply tblCmd_keeps (Keeps.sub_of hm (by decide))
theorem execTblCmdSearch_keeps {m : Parts} {a : State} (hm : Parts.sub 0x587084 m) (src : Nat) (v : W32) (s : State) (hs : a.Keeps m s) :
    a.KeepsR m (execTblCmdSearch src v s) := by
  unfold execTblCmdSearch
  with_reducible repeat' first
    | assumption | apply whenServing_keeps | apply tblCmd_keeps (Keeps.sub_of hm (by decide))
theorem execTblCmdInsert_keeps {m : Parts} {a : State} (hm : Parts.sub 0x587084 m) (src : Nat) (v : W32) (s : State) (hs : a.Keeps m s) :
    a.KeepsR m (execTblCmdInsert src v s) := by
  unfold execTblCmdInsert
  with_reducible repeat' first
    | assumption | apply whenServing_keeps | apply tblCmd_keeps (Keeps.sub_of hm (by decide))
theorem execTblCmdDelete_keeps {m : Parts} {a : State} (hm : Parts.sub 0x587084 m) (src : Nat) (v : W32) (s : State) (hs : a.Keeps m s) :
    a.KeepsR m (execTblCmdDelete src v s) := by
  unfold execTblCmdDelete
  with_reducible repeat' first
    | assumption | apply whenServing_keeps | apply tblCmd_keeps (Keeps.sub_of hm (by decide))
theorem execTblCmdAgeStep_keeps {m : Parts} {a : State} (hm : Parts.sub 0x587084 m) (src : Nat) (v : W32) (s : State) (hs : a.Keeps m s) :
    a.KeepsR m (execTblCmdAgeStep src v s) := by
  unfold execTblCmdAgeStep
  with_reducible repeat' first
    | assumption | apply whenServing_keeps | apply tblCmd_keeps (Keeps.sub_of hm (by decide))
theorem execTblDataWrite_keeps {m : Parts} {a : State} (hm : Parts.sub 0x582004 m) (src : Nat) (off : Nat) (bytes : List Byte) (s : State) (hs : a.Keeps m s) :
    a.KeepsR m (execTblDataWrite src off bytes s) := by
  unfold execTblDataWrite
  with_reducible repeat' first
    | assumption | intro _ | apply whenServing_keeps | apply setWrite_keeps (Keeps.sub_of hm (by decide))
    | apply State.tblPut_keeps (Keeps.sub_of hm (by decide)) | apply State.hostCtr_keeps (Keeps.sub_of hm (by decide)) | split
theorem execTblStatusClear_keeps {m : Parts} {a : State} (hm : Parts.sub 0x582004 m) (src : Nat) (v : W32) (s : State) (hs : a.Keeps m s) :
    a.KeepsR m (execTblStatusClear src v s) := by
  unfold execTblStatusClear
  with_reducible repeat' first
    | assumption | intro _ | apply whenServing_keeps | apply setWrite_keeps (Keeps.sub_of hm (by decide))
    | apply State.tblStatusAck_keeps (Keeps.sub_of hm (by decide))
theorem execTblResultPost_keeps {m : Parts} {a : State} (hm : Parts.sub 0x507085 m) (src : Nat) (s : State) (hs : a.Keeps m s) :
    a.KeepsR m (execTblResultPost src s) := by
  unfold execTblResultPost
  with_reducible repeat' first
    | assumption | intro _ | dsimp only | apply whenServing_keeps | apply State.tblRun_keeps (Keeps.sub_of hm (by decide))
    | apply State.upTo_keeps (Keeps.sub_of hm (by decide)) | apply State.setTblSet_keeps (Keeps.sub_of hm (by decide)) | split
theorem execLookupPoisonRepair_keeps {m : Parts} {a : State} (hm : Parts.sub 0x5070e4 m) (t : Nat) (r : Nat) (p : Nat) (s : State) (hs : a.Keeps m s) :
    a.KeepsR m (execLookupPoisonRepair t r p s) := by
  unfold execLookupPoisonRepair
  with_reducible repeat' first
    | assumption | intro _ | dsimp only | apply whenRunning_keeps | apply State.tblRun_keeps (Keeps.sub_of hm (by decide))
    | apply State.setTbl_keeps (Keeps.sub_of hm (by decide)) | apply State.log_keeps (Keeps.sub_of hm (by decide))
    | apply State.tblCtr_keeps (Keeps.sub_of hm (by decide)) | apply State.tblClear_keeps (Keeps.sub_of hm (by decide)) | split
theorem State.setMoves_keeps {m : Parts} {a : State} (hm : Parts.sub 0x2000 m) (s : State) (y1 : MoveSt) (hs : a.Keeps m s) :
    a.Keeps m (State.setMoves s y1) := by
  unfold State.setMoves
  with_reducible repeat' first
    | assumption | refine Keeps.upd ?_ | simp only [Keeps.mk_iff]
theorem State.rewrite_keeps {m : Parts} {a : State} (hm : Parts.sub 0x2000 m) (s : State) (p : Nat) (k : BitVec 512 → BitVec 512) (hs : a.Keeps m s) :
    a.Keeps m (State.rewrite s p k) := by
  unfold State.rewrite
  with_reducible repeat' first
    | assumption | apply State.setTbl_keeps (Keeps.sub_of hm (by decide))
theorem State.learn_keeps {m : Parts} {a : State} (hm : Parts.sub 0x506004 m) (s : State) (e : LearnEv) (key : Nat) (hs : a.Keeps m s) :
    a.Keeps m (State.learn s e key) := by
  unfold State.learn
  with_reducible repeat' first
    | assumption | apply State.tblInsert_keeps (Keeps.sub_of hm (by decide))
    | apply State.learnRecord_keeps (Keeps.sub_of hm (by decide)) | apply State.hostTblCtr_keeps (Keeps.sub_of hm (by decide))
    | simp only [Keeps.P_iff] | split
theorem State.station_keeps {m : Parts} {a : State} (hm : Parts.sub 0x506004 m) (s : State) (e : LearnEv) (key : Nat) (p : Nat) (hs : a.Keeps m s) :
    a.Keeps m (State.station s e key p) := by
  unfold State.station
  with_reducible repeat' first
    | assumption | dsimp only | apply State.learnRecord_keeps (Keeps.sub_of hm (by decide))
    | apply State.hostTblCtr_keeps (Keeps.sub_of hm (by decide)) | apply State.setMoves_keeps (Keeps.sub_of hm (by decide))
    | apply State.rewrite_keeps (Keeps.sub_of hm (by decide)) | apply State.setTbl_keeps (Keeps.sub_of hm (by decide))
    | apply State.fireAll_keeps (Keeps.sub_of hm (by decide)) | split
theorem State.decideLearn_keeps {m : Parts} {a : State} (hm : Parts.sub 0x507084 m) (s : State) (e : LearnEv) (hs : a.Keeps m s) :
    a.Keeps m (State.decideLearn s e) := by
  unfold State.decideLearn
  with_reducible repeat' first
    | assumption | dsimp only | apply State.tblRun_keeps (Keeps.sub_of hm (by decide))
    | apply State.thaw_keeps (Keeps.sub_of hm (by decide)) | apply State.learn_keeps (Keeps.sub_of hm (by decide))
    | apply State.setTbl_keeps (Keeps.sub_of hm (by decide)) | apply State.learnRecord_keeps (Keeps.sub_of hm (by decide))
    | apply State.hostTblCtr_keeps (Keeps.sub_of hm (by decide)) | apply State.station_keeps (Keeps.sub_of hm (by decide))
    | split
theorem State.learnEvent_keeps {m : Parts} {a : State} (hm : Parts.sub 0x507084 m) (s : State) (e : LearnEv) (hs : a.Keeps m s) :
    a.Keeps m (State.learnEvent s e) := by
  unfold State.learnEvent
  with_reducible repeat' first
    | assumption | apply State.hostTblCtr_keeps (Keeps.sub_of hm (by decide))
    | apply State.decideLearn_keeps (Keeps.sub_of hm (by decide)) | refine Keeps.upd ?_ | simp only [Keeps.mk_iff] | split
theorem State.decideFirst_keeps {m : Parts} {a : State} (hm : Parts.sub 0x507084 m) (s : State) (hs : a.Keeps m s) :
    a.Keeps m (State.decideFirst s) := by
  unfold State.decideFirst
  with_reducible repeat' first
    | assumption | apply State.decideLearn_keeps (Keeps.sub_of hm (by decide)) | refine Keeps.upd ?_ | simp only [Keeps.mk_iff]
    | split
theorem execLearnDecide_keeps {m : Parts} {a : State} (hm : Parts.sub 0x507085 m) (s : State) (hs : a.Keeps m s) :
    a.KeepsR m (execLearnDecide s) := by
  unfold execLearnDecide
  with_reducible repeat' first
    | assumption | intro _ | apply whenRunning_keeps | apply State.decideFirst_keeps (Keeps.sub_of hm (by decide))
    | apply State.upToTime_keeps (Keeps.sub_of hm (by decide)) | split
theorem execLearnEngineTakeover_keeps {m : Parts} {a : State} (hm : Parts.sub 0x2000 m) (s : State) (hs : a.Keeps m s) :
    a.KeepsR m (execLearnEngineTakeover s) := by
  unfold execLearnEngineTakeover
  with_reducible repeat' first
    | assumption | intro _ | apply whenRunning_keeps | refine Keeps.upd ?_ | simp only [Keeps.mk_iff] | split
theorem execEntryThaw_keeps {m : Parts} {a : State} (hm : Parts.sub 0x507085 m) (key : Nat) (s : State) (hs : a.Keeps m s) :
    a.KeepsR m (execEntryThaw key s) := by
  unfold execEntryThaw
  with_reducible repeat' first
    | assumption | intro _ | apply whenRunning_keeps | apply State.thaw_keeps (Keeps.sub_of hm (by decide))
    | apply State.tblRun_keeps (Keeps.sub_of hm (by decide)) | apply State.upToTime_keeps (Keeps.sub_of hm (by decide)) | split
theorem execAgeSweepStep_keeps {m : Parts} {a : State} (hm : Parts.sub 0x507085 m) (t : Nat) (s : State) (hs : a.Keeps m s) :
    a.KeepsR m (execAgeSweepStep t s) := by
  unfold execAgeSweepStep
  with_reducible repeat' first
    | assumption | intro _ | apply whenRunning_keeps | apply State.upTo_keeps (Keeps.sub_of hm (by decide))
    | apply State.tblRun_keeps (Keeps.sub_of hm (by decide)) | apply State.setTbl_keeps (Keeps.sub_of hm (by decide))
    | apply State.ageStep_keeps (Keeps.sub_of hm (by decide))
    | simp only [Keeps.P_iff] | split
theorem tableBody_keeps {m : Parts} {a : State} (hm : Parts.sub 0x507084 m) (op : Nat) (s0 : State) (r0 : Request) (hs0 : a.Keeps m s0) :
    a.KeepsE m (tableBody op s0 r0) := by
  unfold tableBody
  with_reducible repeat' first
    | assumption | apply Keeps.ok | apply chk_keeps | apply State.tableOp_keeps (Keeps.sub_of hm (by decide))
    | apply State.tblRun_keeps (Keeps.sub_of hm (by decide))
    | simp only [Keeps.P_iff]
theorem execTableRead_keeps {m : Parts} {a : State} (hm : Parts.sub 0x5071e5 m) (s : State) (hs : a.Keeps m s) :
    a.KeepsR m (execTableRead s) := by
  unfold execTableRead
  with_reducible repeat' first
    | assumption | apply slaotRow_keeps (Keeps.sub_of hm (by decide)) | apply tableBody_keeps (Keeps.sub_of hm (by decide))
theorem execTableWrite_keeps {m : Parts} {a : State} (hm : Parts.sub 0x5071e5 m) (s : State) (hs : a.Keeps m s) :
    a.KeepsR m (execTableWrite s) := by
  unfold execTableWrite
  with_reducible repeat' first
    | assumption | apply slaotRow_keeps (Keeps.sub_of hm (by decide)) | apply tableBody_keeps (Keeps.sub_of hm (by decide))
theorem execTableSearch_keeps {m : Parts} {a : State} (hm : Parts.sub 0x5071e5 m) (s : State) (hs : a.Keeps m s) :
    a.KeepsR m (execTableSearch s) := by
  unfold execTableSearch
  with_reducible repeat' first
    | assumption | apply slaotRow_keeps (Keeps.sub_of hm (by decide)) | apply tableBody_keeps (Keeps.sub_of hm (by decide))
theorem execTableInsert_keeps {m : Parts} {a : State} (hm : Parts.sub 0x5071e5 m) (s : State) (hs : a.Keeps m s) :
    a.KeepsR m (execTableInsert s) := by
  unfold execTableInsert
  with_reducible repeat' first
    | assumption | apply slaotRow_keeps (Keeps.sub_of hm (by decide)) | apply tableBody_keeps (Keeps.sub_of hm (by decide))
theorem execTableDelete_keeps {m : Parts} {a : State} (hm : Parts.sub 0x5071e5 m) (s : State) (hs : a.Keeps m s) :
    a.KeepsR m (execTableDelete s) := by
  unfold execTableDelete
  with_reducible repeat' first
    | assumption | apply slaotRow_keeps (Keeps.sub_of hm (by decide)) | apply tableBody_keeps (Keeps.sub_of hm (by decide))
theorem execTableAgeStep_keeps {m : Parts} {a : State} (hm : Parts.sub 0x5071e5 m) (s : State) (hs : a.Keeps m s) :
    a.KeepsR m (execTableAgeStep s) := by
  unfold execTableAgeStep
  with_reducible repeat' first
    | assumption | apply slaotRow_keeps (Keeps.sub_of hm (by decide)) | apply tableBody_keeps (Keeps.sub_of hm (by decide))
theorem tableRehashBody_keeps {m : Parts} {a : State} (hm : Parts.sub 0x507186 m) (s0 : State) (r0 : Request) (hs0 : a.Keeps m s0) :
    a.KeepsE m (tableRehashBody s0 r0) := by
  unfold tableRehashBody
  with_reducible repeat' first
    | assumption | exact Keeps.error _ | apply Keeps.ok | apply chk_keeps | apply startOp_keeps (Keeps.sub_of hm (by decide))
    | apply State.tblRun_keeps (Keeps.sub_of hm (by decide)) | apply State.drawn_keeps (Keeps.sub_of hm (by decide))
    | apply State.setTbl_keeps (Keeps.sub_of hm (by decide)) | split | refine Keeps.done_of (by assumption) ?_
theorem execTableRehash_keeps {m : Parts} {a : State} (hm : Parts.sub 0x5071e7 m) (s : State) (hs : a.Keeps m s) :
    a.KeepsR m (execTableRehash s) := by
  unfold execTableRehash
  with_reducible repeat' first
    | assumption | apply slaotRow_keeps (Keeps.sub_of hm (by decide))
    | apply tableRehashBody_keeps (Keeps.sub_of hm (by decide))
theorem execRehashStep_keeps {m : Parts} {a : State} (hm : Parts.sub 0x5071e5 m) (y0 : Nat) (s : State) (hs : a.Keeps m s) :
    a.KeepsR m (execRehashStep y0 s) := by
  unfold execRehashStep
  with_reducible repeat' first
    | assumption | intro _ | dsimp only | apply whenRunning_keeps | apply opRow_keeps (Keeps.sub_of hm (by decide))
    | apply State.tblRun_keeps (Keeps.sub_of hm (by decide)) | apply State.setOp_keeps (Keeps.sub_of hm (by decide))
    | apply State.setTbl_keeps (Keeps.sub_of hm (by decide)) | apply State.endOp_keeps (Keeps.sub_of hm (by decide)) | split
theorem tableInfoBody_keeps {m : Parts} {a : State} (s0 : State) (r0 : Request) (hs0 : a.Keeps m s0) :
    a.KeepsE m (tableInfoBody s0 r0) := by
  unfold tableInfoBody
  with_reducible repeat' first
    | assumption | apply chk_keeps | apply done_keeps
theorem execTableInfo_keeps {m : Parts} {a : State} (hm : Parts.sub 0x500165 m) (s : State) (hs : a.Keeps m s) :
    a.KeepsR m (execTableInfo s) := by
  unfold execTableInfo
  with_reducible repeat' first
    | assumption | apply slaotRow_keeps (Keeps.sub_of hm (by decide)) | apply tableInfoBody_keeps
theorem partSetBody_keeps {m : Parts} {a : State} (hm : Parts.sub 0x80 m) (s0 : State) (r0 : Request) (hs0 : a.Keeps m s0) :
    a.KeepsE m (partSetBody s0 r0) := by
  unfold partSetBody
  with_reducible repeat' first
    | assumption | apply chk_keeps | apply done_keeps | refine Keeps.upd ?_ | simp only [Keeps.mk_iff]
theorem execTablePartSet_keeps {m : Parts} {a : State} (hm : Parts.sub 0x5001e5 m) (s : State) (hs : a.Keeps m s) :
    a.KeepsR m (execTablePartSet s) := by
  unfold execTablePartSet
  with_reducible repeat' first
    | assumption | apply slaotRow_keeps (Keeps.sub_of hm (by decide)) | apply partSetBody_keeps (Keeps.sub_of hm (by decide))
theorem learnSetBody_keeps {m : Parts} {a : State} (hm : Parts.sub 0x80 m) (s0 : State) (r0 : Request) (hs0 : a.Keeps m s0) :
    a.KeepsE m (learnSetBody s0 r0) := by
  unfold learnSetBody
  with_reducible repeat' first
    | assumption | apply chk_keeps | apply done_keeps | refine Keeps.upd ?_ | simp only [Keeps.mk_iff]
theorem execTableLearnSet_keeps {m : Parts} {a : State} (hm : Parts.sub 0x5001e5 m) (s : State) (hs : a.Keeps m s) :
    a.KeepsR m (execTableLearnSet s) := by
  unfold execTableLearnSet
  with_reducible repeat' first
    | assumption | apply slaotRow_keeps (Keeps.sub_of hm (by decide)) | apply learnSetBody_keeps (Keeps.sub_of hm (by decide))
theorem tableFlushBody_keeps {m : Parts} {a : State} (hm : Parts.sub 0x100 m) (s0 : State) (r0 : Request) (hs0 : a.Keeps m s0) :
    a.KeepsE m (tableFlushBody s0 r0) := by
  unfold tableFlushBody
  with_reducible repeat' first
    | assumption | apply chk_keeps | apply startOp_keeps (Keeps.sub_of hm (by decide))
theorem execTableFlush_keeps {m : Parts} {a : State} (hm : Parts.sub 0x500165 m) (s : State) (hs : a.Keeps m s) :
    a.KeepsR m (execTableFlush s) := by
  unfold execTableFlush
  with_reducible repeat' first
    | assumption | apply slaotRow_keeps (Keeps.sub_of hm (by decide)) | apply tableFlushBody_keeps (Keeps.sub_of hm (by decide))
theorem State.flushAt_keeps {m : Parts} {a : State} (hm : Parts.sub 0x2000 m) (s : State) (t : Nat) (goes : BitVec 512 → Bool) (y3 : Nat) (y4 : Nat) (hs : a.Keeps m s) :
    a.Keeps m (State.flushAt s t goes y3 y4) := by
  induction y3 generalizing s y4 with
  | zero =>
    unfold State.flushAt
    with_reducible repeat' first
      | assumption | apply ih | apply State.tblDelete_keeps (Keeps.sub_of hm (by decide)) | split
  | succ n ih =>
    unfold State.flushAt
    with_reducible repeat' first
      | assumption | apply ih | apply State.tblDelete_keeps (Keeps.sub_of hm (by decide)) | split
theorem execFlushStep_keeps {m : Parts} {a : State} (hm : Parts.sub 0x5071e5 m) (y0 : Nat) (s : State) (hs : a.Keeps m s) :
    a.KeepsR m (execFlushStep y0 s) := by
  unfold execFlushStep
  with_reducible repeat' first
    | assumption | intro _ | apply whenRunning_keeps | apply opRow_keeps (Keeps.sub_of hm (by decide))
    | apply State.tblRun_keeps (Keeps.sub_of hm (by decide)) | apply State.setOp_keeps (Keeps.sub_of hm (by decide))
    | apply State.flushAt_keeps (Keeps.sub_of hm (by decide)) | apply State.endOp_keeps (Keeps.sub_of hm (by decide))
    | apply Keeps.foldl | split
theorem tableStatsBody_keeps {m : Parts} {a : State} (s0 : State) (r0 : Request) (hs0 : a.Keeps m s0) :
    a.KeepsE m (tableStatsBody s0 r0) := by
  unfold tableStatsBody
  with_reducible repeat' first
    | assumption | apply chk_keeps | apply done_keeps
theorem execTableStats_keeps {m : Parts} {a : State} (hm : Parts.sub 0x500165 m) (s : State) (hs : a.Keeps m s) :
    a.KeepsR m (execTableStats s) := by
  unfold execTableStats
  with_reducible repeat' first
    | assumption | apply slaotRow_keeps (Keeps.sub_of hm (by decide)) | apply tableStatsBody_keeps

end Sys2Proof.Machine
end

