-- ==== Sys2Proof/Laws/KeepsTrail.lean ====
section
/-! SUPPORT. What the definitions of Machine/Trail.lean keep: no part of the state changes but those of the mask, which is
`Parts` in bits (Safety.lean), and what every command keeps. -/
set_option Elab.async false
namespace Sys2Proof.Machine

theorem State.enterRec_keeps {m : Parts} {a : State} (hm : Parts.sub 0x400 m) (s : State) (g : Nat) (f : FrameRec) (hs : a.Keeps m s) :
    a.KeepsQ m (State.enterRec s g f) := by
  unfold State.enterRec
  with_reducible repeat' first
    | assumption | apply State.newTag_keeps (Keeps.sub_of hm (by decide))
    | apply State.setFrame_keeps (Keeps.sub_of hm (by decide)) | refine Keeps.upd ?_
    | simp only [Keeps.mk_iff, Keeps.Q_iff, Keeps.Q_mk]
theorem State.enterFrame_keeps {m : Parts} {a : State} (hm : Parts.sub 0x400 m) (s : State) (g : Nat) (kind : Nat) (id : Nat) (key : Nat) (tenant : Nat) (bytes : List Byte) (ok : Bool) (k : FrameRec → FrameRec) (hs : a.Keeps m s) :
    a.KeepsQ m (State.enterFrame s g kind id key tenant bytes ok k) := by
  unfold State.enterFrame
  with_reducible repeat' first
    | assumption | apply State.enterRec_keeps (Keeps.sub_of hm (by decide))
    | apply State.cutTo_keeps (Keeps.sub_of hm (by decide))
    | simp only [Keeps.Q_iff, Keeps.Q_mk]
theorem execEthFrameFirstByte_keeps {m : Parts} {a : State} (hm : Parts.sub 0x1000400 m) (n : Nat) (bytes : List Byte) (s : State) (hs : a.Keeps m s) :
    a.KeepsR m (execEthFrameFirstByte n bytes s) := by
  unfold execEthFrameFirstByte
  with_reducible repeat' first
    | assumption | intro _ | apply whenRunning_keeps | apply State.healthCtr_keeps (Keeps.sub_of hm (by decide))
    | apply State.enterRec_keeps (Keeps.sub_of hm (by decide))
    | simp only [Keeps.Q_iff] | split
theorem State.trailDecide_keeps {m : Parts} {a : State} (hm : Parts.sub 0x400 m) (s : State) (t : Nat) (k : State → State) (hs : a.Keeps m s) (hk : ∀ (z0 : State), a.Keeps m z0 → a.Keeps m (k z0)) :
    a.Keeps m (State.trailDecide s t k) := by
  unfold State.trailDecide
  with_reducible repeat' first
    | assumption | apply hk | apply State.setFrame_keeps (Keeps.sub_of hm (by decide)) | split
theorem State.poisonLookup_keeps {m : Parts} {a : State} (hm : Parts.sub 0x1703e66 m) (s : State) (t : Nat) (tag : Nat) (r : Nat) (p : Nat) (hs : a.Keeps m s) :
    a.Keeps m (State.poisonLookup s t tag r p) := by
  unfold State.poisonLookup
  with_reducible repeat' first
    | assumption | intro _ | apply State.fresh_keeps (Keeps.sub_of hm (by decide))
    | apply State.trailDecide_keeps (Keeps.sub_of hm (by decide))
    | apply State.uncorrectable_keeps (Keeps.sub_of hm (by decide)) | apply State.tblCtr_keeps (Keeps.sub_of hm (by decide))
    | apply State.decide__keeps (Keeps.sub_of hm (by decide))
    | simp only [Keeps.Q_iff]
theorem State.lookup_keeps {m : Parts} {a : State} (hm : Parts.sub 0x2000 m) (s : State) (t : Nat) (r : Nat) (key : Nat) (refresh : Bool) (hs : a.Keeps m s) :
    a.KeepsQ m (State.lookup s t r key refresh) := by
  unfold State.lookup
  with_reducible repeat' first
    | assumption | apply State.setTbl_keeps (Keeps.sub_of hm (by decide))
    | simp only [Keeps.Q_mk] | split
theorem State.sendLearn_keeps {m : Parts} {a : State} (hm : Parts.sub 0x507484 m) (s : State) (t : Nat) (f : FrameRec) (e : LearnEv) (hs : a.Keeps m s) :
    a.Keeps m (State.sendLearn s t f e) := by
  unfold State.sendLearn
  with_reducible repeat' first
    | assumption | apply State.learnEvent_keeps (Keeps.sub_of hm (by decide))
    | apply State.setFrame_keeps (Keeps.sub_of hm (by decide)) | split
theorem State.learnLookup_keeps {m : Parts} {a : State} (hm : Parts.sub 0x1707ee6 m) (s : State) (t : Nat) (f : FrameRec) (r : Nat) (tenant : Nat) (hs : a.Keeps m s) :
    a.Keeps m (State.learnLookup s t f r tenant) := by
  unfold State.learnLookup
  with_reducible repeat' first
    | assumption | dsimp only | apply State.poisonLookup_keeps (Keeps.sub_of hm (by decide))
    | apply State.setTbl_keeps (Keeps.sub_of hm (by decide)) | apply State.hostTblCtr_keeps (Keeps.sub_of hm (by decide))
    | apply State.sendLearn_keeps (Keeps.sub_of hm (by decide)) | split
theorem State.trailPost_keeps {m : Parts} {a : State} (hm : Parts.sub 0x223e04 m) (s : State) (t : Nat) (g : Nat) (hit : Option (Nat × BitVec 512)) (hs : a.Keeps m s) :
    a.Keeps m (State.trailPost s t g hit) := by
  unfold State.trailPost
  with_reducible repeat' first
    | assumption | intro _ | dsimp only | apply State.trailDecide_keeps (Keeps.sub_of hm (by decide))
    | apply State.modFrame_keeps (Keeps.sub_of hm (by decide)) | apply State.decideAction_keeps (Keeps.sub_of hm (by decide))
    | split
theorem State.trailLookups_keeps {m : Parts} {a : State} (hm : Parts.sub 0x1723e66 m) (s : State) (t : Nat) (g : Nat) (f : FrameRec) (y4 : Hdrs) (tenant : Nat) (hs : a.Keeps m s) :
    a.Keeps m (State.trailLookups s t g f y4 tenant) := by
  unfold State.trailLookups
  with_reducible repeat' first
    | assumption | apply State.poisonLookup_keeps (Keeps.sub_of hm (by decide))
    | apply State.lookup_keeps (Keeps.sub_of hm (by decide)) | apply State.trailPost_keeps (Keeps.sub_of hm (by decide))
    | simp only [Keeps.Q_iff, Keeps.Q_mk] | split
theorem State.trailResult_keeps {m : Parts} {a : State} (hm : Parts.sub 0x1727ee6 m) (s : State) (t : Nat) (f : FrameRec) (hs : a.Keeps m s) :
    a.Keeps m (State.trailResult s t f) := by
  unfold State.trailResult
  with_reducible repeat' first
    | assumption | intro _ | dsimp only | apply State.cutTo_keeps (Keeps.sub_of hm (by decide))
    | apply State.setFrame_keeps (Keeps.sub_of hm (by decide)) | apply State.trailDecide_keeps (Keeps.sub_of hm (by decide))
    | apply State.decideAction_keeps (Keeps.sub_of hm (by decide)) | apply State.learnLookup_keeps (Keeps.sub_of hm (by decide))
    | apply State.modFrame_keeps (Keeps.sub_of hm (by decide)) | apply State.trailLookups_keeps (Keeps.sub_of hm (by decide))
    | split
theorem execTrailResult_keeps {m : Parts} {a : State} (hm : Parts.sub 0x1727ee7 m) (t : Nat) (s : State) (hs : a.Keeps m s) :
    a.KeepsR m (execTrailResult t s) := by
  unfold execTrailResult
  with_reducible repeat' first
    | assumption | intro _ | apply whenRunning_keeps | apply State.reap_keeps (Keeps.sub_of hm (by decide))
    | apply State.trailResult_keeps (Keeps.sub_of hm (by decide)) | apply State.upTo_keeps (Keeps.sub_of hm (by decide)) | split
theorem State.macControlIn_keeps {m : Parts} {a : State} (hm : Parts.sub 0x200 m) (s : State) (n : Nat) (b : List Byte) (hs : a.Keeps m s) :
    a.Keeps m (State.macControlIn s n b) := by
  unfold State.macControlIn
  with_reducible repeat' first
    | assumption | apply State.macRx_keeps (Keeps.sub_of hm (by decide))
    | apply State.pfcReceived_keeps (Keeps.sub_of hm (by decide))
    | apply State.pauseReceived_keeps (Keeps.sub_of hm (by decide)) | apply State.ethCtr_keeps (Keeps.sub_of hm (by decide))
    | split
theorem State.lastCheck_keeps {m : Parts} {a : State} (hm : Parts.sub 0x200 m) (s : State) (n : Nat) (b : List Byte) (bad : Bool) (hs : a.Keeps m s) :
    a.KeepsQ m (State.lastCheck s n b bad) := by
  unfold State.lastCheck
  with_reducible repeat' first
    | assumption | apply State.ethCtr_keeps (Keeps.sub_of hm (by decide))
    | apply State.macControlIn_keeps (Keeps.sub_of hm (by decide))
    | simp only [Keeps.Q_mk] | split
theorem State.dismiss_keeps {m : Parts} {a : State} (hm : Parts.sub 0x1c00 m) (s : State) (t : Nat) (hs : a.Keeps m s) :
    a.Keeps m (State.dismiss s t) := by
  unfold State.dismiss
  with_reducible repeat' first
    | assumption | apply State.abandon_keeps (Keeps.sub_of hm (by decide))
    | apply State.modFrame_keeps (Keeps.sub_of hm (by decide))
theorem State.fcsPass_keeps {m : Parts} {a : State} (hm : Parts.sub 0x707e84 m) (s : State) (t : Nat) (hs : a.Keeps m s) :
    a.Keeps m (State.fcsPass s t) := by
  unfold State.fcsPass
  with_reducible repeat' first
    | assumption | apply State.learnEvent_keeps (Keeps.sub_of hm (by decide))
    | apply State.modFrame_keeps (Keeps.sub_of hm (by decide)) | apply State.onPass_keeps (Keeps.sub_of hm (by decide)) | split
theorem execEthFrameLastBit_keeps {m : Parts} {a : State} (hm : Parts.sub 0x1727ee7 m) (t : Nat) (words : List Codeword) (s : State) (hs : a.Keeps m s) :
    a.KeepsR m (execEthFrameLastBit t words s) := by
  unfold execEthFrameLastBit
  with_reducible repeat' first
    | assumption | intro _ | apply whenRunning_keeps | apply State.trailResult_keeps (Keeps.sub_of hm (by decide))
    | apply State.upTo_keeps (Keeps.sub_of hm (by decide)) | apply State.lastCheck_keeps (Keeps.sub_of hm (by decide))
    | apply State.modFrame_keeps (Keeps.sub_of hm (by decide)) | apply State.cutTo_keeps (Keeps.sub_of hm (by decide))
    | apply State.dismiss_keeps (Keeps.sub_of hm (by decide)) | apply State.reap_keeps (Keeps.sub_of hm (by decide))
    | apply State.fcsPass_keeps (Keeps.sub_of hm (by decide))
    | simp only [Keeps.Q_iff] | split
theorem State.steerTo_keeps {m : Parts} {a : State} (hm : Parts.sub 0x400 m) (s : State) (t : Nat) (f : FrameRec) (hs : a.Keeps m s) :
    a.Keeps m (State.steerTo s t f) := by
  unfold State.steerTo
  with_reducible repeat' first
    | assumption | apply State.canopyCtr_keeps (Keeps.sub_of hm (by decide)) | refine Keeps.upd ?_ | simp only [Keeps.mk_iff]
    | split
theorem State.releaseDrop_keeps {m : Parts} {a : State} (hm : Parts.sub 0x10020c m) (s : State) (f : FrameRec) (hs : a.Keeps m s) :
    a.KeepsO m (State.releaseDrop s f) := by
  unfold State.releaseDrop
  with_reducible repeat' first
    | assumption | exact Keeps.none0 | apply Keeps.some0 | apply State.ethCtr_keeps (Keeps.sub_of hm (by decide))
    | apply State.hostCtr_keeps (Keeps.sub_of hm (by decide)) | apply State.setFn_keeps (Keeps.sub_of hm (by decide))
    | apply State.emit_keeps (Keeps.sub_of hm (by decide)) | refine Keeps.upd ?_ | simp only [Keeps.mk_iff] | split
theorem execDecisionRelease_keeps {m : Parts} {a : State} (hm : Parts.sub 0x301e0c m) (t : Nat) (s : State) (hs : a.Keeps m s) :
    a.KeepsR m (execDecisionRelease t s) := by
  unfold execDecisionRelease
  with_reducible repeat' first
    | assumption | intro _ | exact Keeps.none0 | dsimp only | apply whenRunning_keeps
    | apply State.cutTo_keeps (Keeps.sub_of hm (by decide)) | apply State.steerTo_keeps (Keeps.sub_of hm (by decide))
    | apply State.setFrame_keeps (Keeps.sub_of hm (by decide)) | apply State.releaseDrop_keeps (Keeps.sub_of hm (by decide))
    | apply State.freeFrame_keeps (Keeps.sub_of hm (by decide)) | apply State.postDecision_keeps (Keeps.sub_of hm (by decide))
    | split | refine Keeps.some_of (by assumption) ?_

end Sys2Proof.Machine
end

