-- ==== Sys2Proof/Laws/KeepsDelivery.lean ====
section
/-! SUPPORT. What the definitions of Machine/Delivery.lean keep: no part of the state changes but those of the mask, which is
`Parts` in bits (Safety.lean), and what every command keeps. -/
set_option Elab.async false
namespace Sys2Proof.Machine

theorem State.takeSink_keeps {m : Parts} {a : State} (hm : Parts.sub 0x604 m) (s : State) (g : Nat) (t : Nat) (hs : a.Keeps m s) :
    a.Keeps m (State.takeSink s g t) := by
  unfold State.takeSink
  with_reducible repeat' first
    | assumption | apply State.reap_keeps (Keeps.sub_of hm (by decide))
    | apply State.dropTag_keeps (Keeps.sub_of hm (by decide))
theorem execTx_keeps {m : Parts} {a : State} (hm : Parts.sub 0x200400 m) (q : Nat) (slot : W32) (s : State) (hs : a.Keeps m s) :
    a.KeepsR m (execTx q slot s) := by
  unfold execTx
  with_reducible repeat' first
    | assumption | intro _ | apply whenRunning_keeps | apply State.enterFrame_keeps (Keeps.sub_of hm (by decide))
    | apply State.endJob_keeps (Keeps.sub_of hm (by decide)) | apply State.markActed_keeps (Keeps.sub_of hm (by decide))
    | apply State.qpCtr_keeps (Keeps.sub_of hm (by decide))
    | simp only [Keeps.Q_iff] | split
theorem State.deliver__keeps {m : Parts} {a : State} (hm : Parts.sub 0x780604 m) (s : State) (q : Nat) (g : Nat) (t : Nat) (f : FrameRec) (bufs : List Desc) (payload : List Byte) (frame : List Byte) (hs : a.Keeps m s) :
    a.Keeps m (State.deliver_ s q g t f bufs payload frame) := by
  unfold State.deliver_
  with_reducible repeat' first
    | assumption | dsimp only | apply State.dmaWrites_keeps (Keeps.sub_of hm (by decide))
    | apply State.setQp_keeps (Keeps.sub_of hm (by decide)) | apply State.takeSink_keeps (Keeps.sub_of hm (by decide))
    | apply State.qpCtr_keeps (Keeps.sub_of hm (by decide)) | apply State.endStall_keeps (Keeps.sub_of hm (by decide))
    | apply State.endJob_keeps (Keeps.sub_of hm (by decide)) | split | refine Keeps.fst_of (by assumption) ?_
theorem State.rxTake_keeps {m : Parts} {a : State} (hm : Parts.sub 0x780604 m) (s : State) (q : Nat) (hs : a.Keeps m s) :
    a.Keeps m (State.rxTake s q) := by
  unfold State.rxTake
  with_reducible repeat' first
    | assumption | dsimp only | apply State.deliver__keeps (Keeps.sub_of hm (by decide))
    | apply State.beginStall_keeps (Keeps.sub_of hm (by decide)) | split
theorem execRxDelivery_keeps {m : Parts} {a : State} (hm : Parts.sub 0x780604 m) (q : Nat) (s : State) (hs : a.Keeps m s) :
    a.KeepsR m (execRxDelivery q s) := by
  unfold execRxDelivery
  with_reducible repeat' first
    | assumption | intro _ | apply whenRunning_keeps | apply State.rxTake_keeps (Keeps.sub_of hm (by decide))

end Sys2Proof.Machine
end

