-- ==== Sys2Proof/Laws/KeepsHostPort.lean ====
section
/-! SUPPORT. What the definitions of Machine/HostPort.lean keep: no part of the state changes but those of the mask, which is
`Parts` in bits (Safety.lean), and what every command keeps. -/
set_option Elab.async false
namespace Sys2Proof.Machine

theorem State.flushPba_keeps {m : Parts} {a : State} (hm : Parts.sub 0x100004 m) (s : State) (f : Nat) (hs : a.Keeps m s) :
    a.Keeps m (State.flushPba s f) := by
  unfold State.flushPba
  with_reducible repeat' first
    | assumption | intro _ | dsimp only | apply State.hostSend_keeps (Keeps.sub_of hm (by decide))
    | apply State.setFn_keeps (Keeps.sub_of hm (by decide)) | apply Keeps.foldl | split
theorem State.unmaskVector_keeps {m : Parts} {a : State} (hm : Parts.sub 0x100004 m) (s : State) (f : Nat) (v : Nat) (hs : a.Keeps m s) :
    a.Keeps m (State.unmaskVector s f v) := by
  unfold State.unmaskVector
  with_reducible repeat' first
    | assumption | apply State.flushPba_keeps (Keeps.sub_of hm (by decide))
    | apply State.setFn_keeps (Keeps.sub_of hm (by decide))
theorem State.ackIntx_keeps {m : Parts} {a : State} (hm : Parts.sub 0x100004 m) (s : State) (f : Nat) (v : Nat) (hs : a.Keeps m s) :
    a.Keeps m (State.ackIntx s f v) := by
  unfold State.ackIntx
  with_reducible repeat' first
    | assumption | apply State.intxUpdate_keeps (Keeps.sub_of hm (by decide))
    | apply State.setFn_keeps (Keeps.sub_of hm (by decide))
theorem bar2Request_keeps {m : Parts} {a : State} (hm : Parts.sub 0x100004 m) (s : State) (f : Nat) (k : State → State) (hs : a.Keeps m s) (hk : ∀ (z0 : State), a.Keeps m z0 → a.Keeps m (k z0)) :
    a.Keeps m (bar2Request s f k) := by
  unfold bar2Request
  with_reducible repeat' first
    | assumption | apply hk | apply State.setPort_keeps (Keeps.sub_of hm (by decide))
    | apply State.emit_keeps (Keeps.sub_of hm (by decide)) | split
theorem State.advisory_keeps {m : Parts} {a : State} (hm : Parts.sub 0x100000 m) (s : State) (f : Nat) (i : Nat) (hs : a.Keeps m s) :
    a.Keeps m (State.advisory s f i) := by
  unfold State.advisory
  with_reducible repeat' first
    | assumption | apply State.setFn_keeps (Keeps.sub_of hm (by decide))
theorem State.serveWaiting_keeps {m : Parts} {a : State} (hm : Parts.sub 0x100004 m) (s : State) (p : Nat) (hs : a.Keeps m s) :
    a.Keeps m (State.serveWaiting s p) := by
  unfold State.serveWaiting
  with_reducible repeat' first
    | assumption | apply State.issueTag_keeps (Keeps.sub_of hm (by decide))
    | apply State.askTranslation_keeps (Keeps.sub_of hm (by decide)) | refine Keeps.upd ?_ | simp only [Keeps.mk_iff] | split
theorem State.unexpected_keeps {m : Parts} {a : State} (hm : Parts.sub 0x100004 m) (s : State) (p : Nat) (tag : Nat) (hs : a.Keeps m s) :
    a.Keeps m (State.unexpected s p tag) := by
  unfold State.unexpected
  with_reducible repeat' first
    | assumption | apply State.advisory_keeps (Keeps.sub_of hm (by decide))
    | apply State.hostCtr_keeps (Keeps.sub_of hm (by decide)) | apply State.serveWaiting_keeps (Keeps.sub_of hm (by decide))
    | refine Keeps.upd ?_ | simp only [Keeps.mk_iff]
theorem State.flushInvals_keeps {m : Parts} {a : State} (hm : Parts.sub 0x100004 m) (s : State) (hs : a.Keeps m s) :
    a.Keeps m (State.flushInvals s) := by
  unfold State.flushInvals
  with_reducible repeat' first
    | assumption | intro _ | apply State.hostCtr_keeps (Keeps.sub_of hm (by decide))
    | apply State.hostSend_keeps (Keeps.sub_of hm (by decide)) | apply Keeps.foldl | refine Keeps.upd ?_
    | simp only [Keeps.mk_iff]
theorem State.endTag_keeps {m : Parts} {a : State} (hm : Parts.sub 0x100004 m) (s : State) (t : TagUse) (hs : a.Keeps m s) :
    a.Keeps m (State.endTag s t) := by
  unfold State.endTag
  with_reducible repeat' first
    | assumption | apply State.flushInvals_keeps (Keeps.sub_of hm (by decide)) | refine Keeps.upd ?_ | simp only [Keeps.mk_iff]
theorem State.failPurpose_keeps {m : Parts} {a : State} (hm : Parts.sub 0x710004 m) (s : State) (f : Nat) (addr : Nat) (refused : Bool) (y4 : Purpose) (hs : a.Keeps m s) :
    a.Keeps m (State.failPurpose s f addr refused y4) := by
  induction y4 generalizing s addr refused with
  | fetch q =>
    unfold State.failPurpose
    with_reducible repeat' first
      | assumption | apply ih | apply State.setQp_keeps (Keeps.sub_of hm (by decide))
      | apply State.qpStopping_keeps (Keeps.sub_of hm (by decide)) | apply State.hostCtr_keeps (Keeps.sub_of hm (by decide))
      | apply State.failJob_keeps (Keeps.sub_of hm (by decide)) | apply State.readFailed_keeps (Keeps.sub_of hm (by decide))
      | refine Keeps.upd ?_ | simp only [] | split
  | payload q slot i =>
    unfold State.failPurpose
    with_reducible repeat' first
      | assumption | apply ih | apply State.setQp_keeps (Keeps.sub_of hm (by decide))
      | apply State.qpStopping_keeps (Keeps.sub_of hm (by decide)) | apply State.hostCtr_keeps (Keeps.sub_of hm (by decide))
      | apply State.failJob_keeps (Keeps.sub_of hm (by decide)) | apply State.readFailed_keeps (Keeps.sub_of hm (by decide))
      | refine Keeps.upd ?_ | simp only [Keeps.mk_iff] | split
  | write g =>
    unfold State.failPurpose
    with_reducible repeat' first
      | assumption | apply ih | apply State.setQp_keeps (Keeps.sub_of hm (by decide))
      | apply State.qpStopping_keeps (Keeps.sub_of hm (by decide)) | apply State.hostCtr_keeps (Keeps.sub_of hm (by decide))
      | apply State.failJob_keeps (Keeps.sub_of hm (by decide)) | apply State.readFailed_keeps (Keeps.sub_of hm (by decide))
      | refine Keeps.upd ?_ | simp only [Keeps.mk_iff] | split
  | read g =>
    unfold State.failPurpose
    with_reducible repeat' first
      | assumption | apply ih | apply State.setQp_keeps (Keeps.sub_of hm (by decide))
      | apply State.qpStopping_keeps (Keeps.sub_of hm (by decide)) | apply State.hostCtr_keeps (Keeps.sub_of hm (by decide))
      | apply State.failJob_keeps (Keeps.sub_of hm (by decide)) | apply State.readFailed_keeps (Keeps.sub_of hm (by decide))
      | refine Keeps.upd ?_ | simp only [Keeps.mk_iff] | split
  | translate p x n ih =>
    unfold State.failPurpose
    with_reducible repeat' first
      | assumption | apply ih | apply State.setQp_keeps (Keeps.sub_of hm (by decide))
      | apply State.qpStopping_keeps (Keeps.sub_of hm (by decide)) | apply State.hostCtr_keeps (Keeps.sub_of hm (by decide))
      | apply State.failJob_keeps (Keeps.sub_of hm (by decide)) | apply State.readFailed_keeps (Keeps.sub_of hm (by decide))
      | refine Keeps.upd ?_ | simp only [Keeps.mk_iff] | split
  | direct =>
    unfold State.failPurpose
    with_reducible repeat' first
      | assumption | apply ih | apply State.setQp_keeps (Keeps.sub_of hm (by decide))
      | apply State.qpStopping_keeps (Keeps.sub_of hm (by decide)) | apply State.hostCtr_keeps (Keeps.sub_of hm (by decide))
      | apply State.failJob_keeps (Keeps.sub_of hm (by decide)) | apply State.readFailed_keeps (Keeps.sub_of hm (by decide))
      | refine Keeps.upd ?_ | simp only [Keeps.mk_iff] | split
  | discard =>
    unfold State.failPurpose
    with_reducible repeat' first
      | assumption | apply ih | apply State.setQp_keeps (Keeps.sub_of hm (by decide))
      | apply State.qpStopping_keeps (Keeps.sub_of hm (by decide)) | apply State.hostCtr_keeps (Keeps.sub_of hm (by decide))
      | apply State.failJob_keeps (Keeps.sub_of hm (by decide)) | apply State.readFailed_keeps (Keeps.sub_of hm (by decide))
      | refine Keeps.upd ?_ | simp only [Keeps.mk_iff] | split
theorem State.timeoutTag_keeps {m : Parts} {a : State} (hm : Parts.sub 0x710005 m) (s : State) (t : TagUse) (hs : a.Keeps m s) :
    a.Keeps m (State.timeoutTag s t) := by
  unfold State.timeoutTag
  with_reducible repeat' first
    | assumption | apply State.upToClk_keeps (Keeps.sub_of hm (by decide))
    | apply State.advisory_keeps (Keeps.sub_of hm (by decide)) | apply State.hostCtr_keeps (Keeps.sub_of hm (by decide))
    | apply State.endTag_keeps (Keeps.sub_of hm (by decide)) | apply State.setPort_keeps (Keeps.sub_of hm (by decide))
    | apply State.failPurpose_keeps (Keeps.sub_of hm (by decide)) | refine Keeps.upd ?_ | simp only [Keeps.mk_iff] | split
theorem State.translated_keeps {m : Parts} {a : State} (hm : Parts.sub 0x790004 m) (s : State) (f : Nat) (p : Purpose) (addr : Nat) (len : Nat) (entry : Nat) (hs : a.Keeps m s) :
    a.Keeps m (State.translated s f p addr len entry) := by
  unfold State.translated
  with_reducible repeat' first
    | assumption | apply State.issueRead_keeps (Keeps.sub_of hm (by decide))
    | apply State.failPurpose_keeps (Keeps.sub_of hm (by decide)) | refine Keeps.upd ?_ | simp only [Keeps.mk_iff] | split
    | refine Keeps.fst_of (by assumption) ?_
theorem State.arriveData_keeps {m : Parts} {a : State} (hm : Parts.sub 0x790004 m) (s : State) (f : Nat) (bytes : List Byte) (y3 : Purpose) (hs : a.Keeps m s) :
    a.Keeps m (State.arriveData s f bytes y3) := by
  unfold State.arriveData
  with_reducible repeat' first
    | assumption | dsimp only | apply State.setQp_keeps (Keeps.sub_of hm (by decide))
    | apply State.translated_keeps (Keeps.sub_of hm (by decide)) | apply State.failPurpose_keeps (Keeps.sub_of hm (by decide))
    | split
theorem State.complete_keeps {m : Parts} {a : State} (hm : Parts.sub 0x790005 m) (s : State) (p : Nat) (tag : Nat) (status : CplStatus) (bytes : List Byte) (hs : a.Keeps m s) :
    a.Keeps m (State.complete s p tag status bytes) := by
  unfold State.complete
  with_reducible repeat' first
    | assumption | apply State.unexpected_keeps (Keeps.sub_of hm (by decide))
    | apply State.timeoutTag_keeps (Keeps.sub_of hm (by decide)) | apply State.endTag_keeps (Keeps.sub_of hm (by decide))
    | apply State.arriveData_keeps (Keeps.sub_of hm (by decide)) | apply State.failPurpose_keeps (Keeps.sub_of hm (by decide))
    | apply State.hostCtr_keeps (Keeps.sub_of hm (by decide)) | apply State.serveWaiting_keeps (Keeps.sub_of hm (by decide))
    | split
theorem State.hostAnswered_keeps {m : Parts} {a : State} (hm : Parts.sub 0x790005 m) (s : State) (p : Nat) (tag : Nat) (c : HostCpl) (hs : a.Keeps m s) :
    a.Keeps m (State.hostAnswered s p tag c) := by
  unfold State.hostAnswered
  with_reducible repeat' first
    | assumption | apply State.complete_keeps (Keeps.sub_of hm (by decide))
    | apply State.timeoutTag_keeps (Keeps.sub_of hm (by decide)) | split
theorem State.hostAsk_keeps {m : Parts} {a : State} (hm : Parts.sub 0x790005 m) (s : State) (f : Nat) (addr : Nat) (len : Nat) (o : Nat → Out) (c : HostCpl) (hs : a.Keeps m s) :
    a.KeepsOP m (State.hostAsk s f addr len o c) := by
  unfold State.hostAsk
  with_reducible repeat' first
    | assumption | intro _ | apply State.hostAnswered_keeps (Keeps.sub_of hm (by decide))
    | apply State.issueTag_keeps (Keeps.sub_of hm (by decide)) | apply Keeps.mapOP
    | simp only [Keeps.P_mk]
theorem State.askAll_keeps {m : Parts} {a : State} (hm : Parts.sub 0x790005 m) (s : State) (f : Nat) (pasid : Option Nat) (master : BitVec 16) (right : Nat) (o : Nat → Nat → Nat → Out) (y6 : List (Nat × Nat)) (y7 : List HostCpl) (y8 : List Byte) (hs : a.Keeps m s) :
    a.KeepsT m (State.askAll s f pasid master right o y6 y7 y8) := by
  induction y6 generalizing s y7 y8 with
  | nil =>
    unfold State.askAll
    with_reducible repeat' first
      | assumption | apply ih | apply State.fbCheck_keeps (Keeps.sub_of hm (by decide))
      | apply State.hostAsk_keeps (Keeps.sub_of hm (by decide))
      | simp only [Keeps.P_mk, Keeps.T_mk] | split
      | refine Keeps.someP_of' (by assumption) ?_
  | cons x l ih =>
    unfold State.askAll
    with_reducible repeat' first
      | assumption | apply ih | apply State.fbCheck_keeps (Keeps.sub_of hm (by decide))
      | apply State.hostAsk_keeps (Keeps.sub_of hm (by decide))
      | simp only [Keeps.P_iff, Keeps.P_mk, Keeps.T_mk] | split
      | refine Keeps.someP_of' (by assumption) ?_
theorem State.askRead_keeps {m : Parts} {a : State} (hm : Parts.sub 0x790005 m) (s : State) (f : Nat) (pasid : Option Nat) (master : BitVec 16) (addr : Nat) (len : Nat) (acc : List HostCpl) (hs : a.Keeps m s) :
    a.KeepsT m (State.askRead s f pasid master addr len acc) := by
  unfold State.askRead
  with_reducible repeat' first
    | assumption | apply State.seeRefusal_keeps (Keeps.sub_of hm (by decide))
    | apply State.askTranslation_keeps (Keeps.sub_of hm (by decide)) | apply State.askAll_keeps (Keeps.sub_of hm (by decide))
    | simp only [Keeps.P_mk, Keeps.T_mk] | split
    | refine Keeps.some_of (by assumption) ?_
theorem State.abandonFn_keeps {m : Parts} {a : State} (hm : Parts.sub 0x100000 m) (s : State) (f : Nat) (hs : a.Keeps m s) :
    a.Keeps m (State.abandonFn s f) := by
  unfold State.abandonFn
  with_reducible repeat' first
    | assumption | refine Keeps.upd ?_ | simp only [Keeps.mk_iff]
theorem State.revokeKeysOf_keeps {m : Parts} {a : State} (hm : Parts.sub 0x10000 m) (s : State) (f : Nat) (hs : a.Keeps m s) :
    a.Keeps m (State.revokeKeysOf s f) := by
  unfold State.revokeKeysOf
  with_reducible repeat' first
    | assumption | refine Keeps.upd ?_ | simp only [Keeps.mk_iff]
theorem State.resetPf2_keeps {m : Parts} {a : State} (hm : Parts.sub 0x842100 m) (s : State) (p : Nat) (hs : a.Keeps m s) :
    a.Keeps m (State.resetPf2 s p) := by
  unfold State.resetPf2
  with_reducible repeat' first
    | assumption | refine Keeps.upd ?_ | simp only [Keeps.mk_iff]
theorem State.resetFn_keeps {m : Parts} {a : State} (hm : Parts.sub 0xffa105 m) (s : State) (f : Nat) (hs : a.Keeps m s) :
    a.Keeps m (State.resetFn s f) := by
  unfold State.resetFn
  with_reducible repeat' first
    | assumption | apply State.qpToReset_keeps (Keeps.sub_of hm (by decide))
    | apply State.abandonFn_keeps (Keeps.sub_of hm (by decide)) | apply State.eqLeave_keeps (Keeps.sub_of hm (by decide))
    | apply State.setFn_keeps (Keeps.sub_of hm (by decide)) | apply State.revokeKeysOf_keeps (Keeps.sub_of hm (by decide))
    | apply State.resetPf2_keeps (Keeps.sub_of hm (by decide)) | apply State.intxUpdate_keeps (Keeps.sub_of hm (by decide))
    | apply Keeps.foldl | refine Keeps.upd ?_ | simp only [Keeps.mk_iff] | split
theorem State.ceaseVf_keeps {m : Parts} {a : State} (hm : Parts.sub 0xffa185 m) (s : State) (f : Nat) (hs : a.Keeps m s) :
    a.Keeps m (State.ceaseVf s f) := by
  unfold State.ceaseVf
  with_reducible repeat' first
    | assumption | apply State.resetFn_keeps (Keeps.sub_of hm (by decide)) | refine Keeps.upd ?_ | simp only [Keeps.mk_iff]
theorem State.ceaseAbove_keeps {m : Parts} {a : State} (hm : Parts.sub 0xffa185 m) (s : State) (pf : Nat) (n : Nat) (hs : a.Keeps m s) :
    a.Keeps m (State.ceaseAbove s pf n) := by
  unfold State.ceaseAbove
  with_reducible repeat' first
    | assumption | intro _ | dsimp only | apply State.ceaseVf_keeps (Keeps.sub_of hm (by decide)) | apply Keeps.foldl | split
theorem State.clearVfEnable_keeps {m : Parts} {a : State} (hm : Parts.sub 0xffa185 m) (s : State) (pf : Nat) (hs : a.Keeps m s) :
    a.Keeps m (State.clearVfEnable s pf) := by
  unfold State.clearVfEnable
  with_reducible repeat' first
    | assumption | apply State.ceaseAbove_keeps (Keeps.sub_of hm (by decide))
    | apply State.setFn_keeps (Keeps.sub_of hm (by decide))
theorem State.resetPort_keeps {m : Parts} {a : State} (hm : Parts.sub 0xffa185 m) (s : State) (p : Nat) (hs : a.Keeps m s) :
    a.Keeps m (State.resetPort s p) := by
  unfold State.resetPort
  with_reducible repeat' first
    | assumption | apply State.clearVfEnable_keeps (Keeps.sub_of hm (by decide))
    | apply State.resetFn_keeps (Keeps.sub_of hm (by decide)) | apply State.setPort_keeps (Keeps.sub_of hm (by decide))
    | apply Keeps.foldl
theorem State.linkLost_keeps {m : Parts} {a : State} (hm : Parts.sub 0xffa185 m) (s : State) (p : Nat) (reason : Nat) (hs : a.Keeps m s) :
    a.Keeps m (State.linkLost s p reason) := by
  unfold State.linkLost
  with_reducible repeat' first
    | assumption | dsimp only | apply State.resetPort_keeps (Keeps.sub_of hm (by decide))
    | apply State.setPort_keeps (Keeps.sub_of hm (by decide)) | apply State.hostCtr_keeps (Keeps.sub_of hm (by decide))
    | apply State.fireDev_keeps (Keeps.sub_of hm (by decide)) | split
theorem State.abortConns_keeps {m : Parts} {a : State} (hm : Parts.sub 0x710004 m) (s : State) (q : Nat) (hs : a.Keeps m s) :
    a.Keeps m (State.abortConns s q) := by
  unfold State.abortConns
  with_reducible repeat' first
    | assumption | intro _ | apply State.connFail_keeps (Keeps.sub_of hm (by decide)) | apply Keeps.foldl | refine Keeps.upd ?_
    | simp only [Keeps.mk_iff] | split
theorem State.abortJobs_keeps {m : Parts} {a : State} (hm : Parts.sub 0x770004 m) (s : State) (q : Nat) (hs : a.Keeps m s) :
    a.Keeps m (State.abortJobs s q) := by
  unfold State.abortJobs
  with_reducible repeat' first
    | assumption | intro _ | apply State.cutWait_keeps (Keeps.sub_of hm (by decide))
    | apply State.endJob_keeps (Keeps.sub_of hm (by decide)) | apply State.abortConns_keeps (Keeps.sub_of hm (by decide))
    | apply Keeps.foldl | refine Keeps.upd ?_ | simp only [Keeps.mk_iff]
theorem State.settleRecords_keeps {m : Parts} {a : State} (hm : Parts.sub 0x780004 m) (s : State) (q : Nat) (hs : a.Keeps m s) :
    a.Keeps m (State.settleRecords s q) := by
  unfold State.settleRecords
  with_reducible repeat' first
    | assumption | intro _ | apply State.writeRecord_keeps (Keeps.sub_of hm (by decide)) | apply Keeps.foldl
theorem State.busMasterStop_keeps {m : Parts} {a : State} (hm : Parts.sub 0x7f0004 m) (s : State) (q : Nat) (hs : a.Keeps m s) :
    a.Keeps m (State.busMasterStop s q) := by
  unfold State.busMasterStop
  with_reducible repeat' first
    | assumption | dsimp only | apply State.endStall_keeps (Keeps.sub_of hm (by decide))
    | apply State.settleRecords_keeps (Keeps.sub_of hm (by decide)) | apply State.abortJobs_keeps (Keeps.sub_of hm (by decide))
    | apply State.setQp_keeps (Keeps.sub_of hm (by decide)) | apply State.qpStopped_keeps (Keeps.sub_of hm (by decide)) | split
theorem State.clearBusMaster_keeps {m : Parts} {a : State} (hm : Parts.sub 0x7f0005 m) (s : State) (f : Nat) (hs : a.Keeps m s) :
    a.Keeps m (State.clearBusMaster s f) := by
  unfold State.clearBusMaster
  with_reducible repeat' first
    | assumption | apply State.sendOverdue_keeps (Keeps.sub_of hm (by decide))
    | apply State.abandonFn_keeps (Keeps.sub_of hm (by decide)) | apply State.setFn_keeps (Keeps.sub_of hm (by decide))
    | apply State.busMasterStop_keeps (Keeps.sub_of hm (by decide)) | apply Keeps.foldl | split
theorem State.releaseHeld_keeps {m : Parts} {a : State} (hm : Parts.sub 0x780005 m) (s : State) (f : Nat) (hs : a.Keeps m s) :
    a.Keeps m (State.releaseHeld s f) := by
  unfold State.releaseHeld
  with_reducible repeat' first
    | assumption | intro _ | apply State.writeHeld_keeps (Keeps.sub_of hm (by decide))
    | apply State.deliverEvent_keeps (Keeps.sub_of hm (by decide)) | apply State.sendOverdue_keeps (Keeps.sub_of hm (by decide))
    | apply State.qpFetch_keeps (Keeps.sub_of hm (by decide)) | apply State.flushPba_keeps (Keeps.sub_of hm (by decide))
    | apply Keeps.foldl
theorem State.setBusMaster_keeps {m : Parts} {a : State} (hm : Parts.sub 0x780005 m) (s : State) (f : Nat) (hs : a.Keeps m s) :
    a.Keeps m (State.setBusMaster s f) := by
  unfold State.setBusMaster
  with_reducible repeat' first
    | assumption | apply State.releaseHeld_keeps (Keeps.sub_of hm (by decide))
    | apply State.setFn_keeps (Keeps.sub_of hm (by decide)) | split
theorem State.writeNumVFs_keeps {m : Parts} {a : State} (hm : Parts.sub 0xffa185 m) (s : State) (pf : Nat) (n : Nat) (hs : a.Keeps m s) :
    a.Keeps m (State.writeNumVFs s pf n) := by
  unfold State.writeNumVFs
  with_reducible repeat' first
    | assumption | apply State.ceaseAbove_keeps (Keeps.sub_of hm (by decide))
    | apply State.setFn_keeps (Keeps.sub_of hm (by decide))
theorem State.startFlr_keeps {m : Parts} {a : State} (hm : Parts.sub 0xffa185 m) (s : State) (f : Nat) (hs : a.Keeps m s) :
    a.Keeps m (State.startFlr s f) := by
  unfold State.startFlr
  with_reducible repeat' first
    | assumption | apply State.clearVfEnable_keeps (Keeps.sub_of hm (by decide))
    | apply State.resetFn_keeps (Keeps.sub_of hm (by decide)) | apply State.hostCtr_keeps (Keeps.sub_of hm (by decide))
    | apply State.setFn_keeps (Keeps.sub_of hm (by decide)) | split
theorem execHostLinkDown_keeps {m : Parts} {a : State} (hm : Parts.sub 0xffa185 m) (p : Nat) (reason : Nat) (s : State) (hs : a.Keeps m s) :
    a.KeepsR m (execHostLinkDown p reason s) := by
  unfold execHostLinkDown
  with_reducible repeat' first
    | assumption | apply Keeps.next | apply State.linkLost_keeps (Keeps.sub_of hm (by decide)) | split
theorem State.linkRaise_keeps {m : Parts} {a : State} (hm : Parts.sub 0x500004 m) (s : State) (p : Nat) (l : HostLink) (hs : a.Keeps m s) :
    a.Keeps m (State.linkRaise s p l) := by
  unfold State.linkRaise
  with_reducible repeat' first
    | assumption | dsimp only | apply State.setPort_keeps (Keeps.sub_of hm (by decide))
    | apply State.fireDev_keeps (Keeps.sub_of hm (by decide)) | split
theorem execHostLinkUp_keeps {m : Parts} {a : State} (hm : Parts.sub 0x500004 m) (p rate : Nat) (form : LinkForm) (s : State) (hs : a.Keeps m s) :
    a.KeepsR m (execHostLinkUp p rate form s) := by
  unfold execHostLinkUp
  with_reducible repeat' first
    | assumption | apply Keeps.next | dsimp only | apply State.setPort_keeps (Keeps.sub_of hm (by decide))
    | apply State.linkRaise_keeps (Keeps.sub_of hm (by decide)) | split
theorem whenFn_keeps {m : Parts} {a : State} (f : Nat) (s : State) (k : State → State) (hs : a.Keeps m s) (hk : ∀ (z0 : State), a.Keeps m z0 → a.Keeps m (k z0)) :
    a.KeepsR m (whenFn f s k) := by
  unfold whenFn
  with_reducible repeat' first
    | assumption | intro _ | apply hk | apply whenServing_keeps | split
theorem execBusMasterDisable_keeps {m : Parts} {a : State} (hm : Parts.sub 0x7f0005 m) (f : Nat) (s : State) (hs : a.Keeps m s) :
    a.KeepsR m (execBusMasterDisable f s) := by
  unfold execBusMasterDisable
  with_reducible repeat' first
    | assumption | intro _ | apply whenFn_keeps | apply State.clearBusMaster_keeps (Keeps.sub_of hm (by decide))
theorem execBusMasterEnable_keeps {m : Parts} {a : State} (hm : Parts.sub 0x780005 m) (f : Nat) (s : State) (hs : a.Keeps m s) :
    a.KeepsR m (execBusMasterEnable f s) := by
  unfold execBusMasterEnable
  with_reducible repeat' first
    | assumption | intro _ | apply whenFn_keeps | apply State.setBusMaster_keeps (Keeps.sub_of hm (by decide))
theorem execFlr_keeps {m : Parts} {a : State} (hm : Parts.sub 0xffa185 m) (f : Nat) (s : State) (hs : a.Keeps m s) :
    a.KeepsR m (execFlr f s) := by
  unfold execFlr
  with_reducible repeat' first
    | assumption | intro _ | apply whenFn_keeps | apply State.startFlr_keeps (Keeps.sub_of hm (by decide))
theorem execFlrComplete_keeps {m : Parts} {a : State} (hm : Parts.sub 0x500004 m) (f : Nat) (s : State) (hs : a.Keeps m s) :
    a.KeepsR m (execFlrComplete f s) := by
  unfold execFlrComplete
  with_reducible repeat' first
    | assumption | intro _ | apply whenServing_keeps | apply State.fireDev_keeps (Keeps.sub_of hm (by decide))
    | apply State.setFn_keeps (Keeps.sub_of hm (by decide)) | split
theorem execVfCessation_keeps {m : Parts} {a : State} (hm : Parts.sub 0xffa185 m) (f : Nat) (n : Nat) (s : State) (hs : a.Keeps m s) :
    a.KeepsR m (execVfCessation f n s) := by
  unfold execVfCessation
  with_reducible repeat' first
    | assumption | intro _ | apply whenFn_keeps | apply State.clearVfEnable_keeps (Keeps.sub_of hm (by decide))
    | apply State.writeNumVFs_keeps (Keeps.sub_of hm (by decide)) | split
theorem State.pmL1_keeps {m : Parts} {a : State} (hm : Parts.sub 0x100000 m) (s : State) (p : Nat) (hs : a.Keeps m s) :
    a.Keeps m (State.pmL1 s p) := by
  unfold State.pmL1
  with_reducible repeat' first
    | assumption | dsimp only | apply State.hostCtr_keeps (Keeps.sub_of hm (by decide))
    | apply State.setPort_keeps (Keeps.sub_of hm (by decide)) | split
theorem State.enterD3_keeps {m : Parts} {a : State} (hm : Parts.sub 0x500005 m) (s : State) (f : Nat) (hs : a.Keeps m s) :
    a.Keeps m (State.enterD3 s f) := by
  unfold State.enterD3
  with_reducible repeat' first
    | assumption | apply State.sendOverdue_keeps (Keeps.sub_of hm (by decide))
    | apply State.setFn_keeps (Keeps.sub_of hm (by decide)) | apply State.pmeCause_keeps (Keeps.sub_of hm (by decide))
    | apply State.pmL1_keeps (Keeps.sub_of hm (by decide)) | apply Keeps.foldl | split
theorem State.leaveD3_keeps {m : Parts} {a : State} (hm : Parts.sub 0x780005 m) (s : State) (f : Nat) (hs : a.Keeps m s) :
    a.Keeps m (State.leaveD3 s f) := by
  unfold State.leaveD3
  with_reducible repeat' first
    | assumption | apply State.setPort_keeps (Keeps.sub_of hm (by decide))
    | apply State.releaseHeld_keeps (Keeps.sub_of hm (by decide)) | apply State.setFn_keeps (Keeps.sub_of hm (by decide))
    | split
theorem execD3hotEntry_keeps {m : Parts} {a : State} (hm : Parts.sub 0x500005 m) (f : Nat) (s : State) (hs : a.Keeps m s) :
    a.KeepsR m (execD3hotEntry f s) := by
  unfold execD3hotEntry
  with_reducible repeat' first
    | assumption | intro _ | apply whenFn_keeps | apply State.enterD3_keeps (Keeps.sub_of hm (by decide))
theorem execD0Return_keeps {m : Parts} {a : State} (hm : Parts.sub 0x780005 m) (f : Nat) (s : State) (hs : a.Keeps m s) :
    a.KeepsR m (execD0Return f s) := by
  unfold execD0Return
  with_reducible repeat' first
    | assumption | intro _ | apply whenFn_keeps | apply State.leaveD3_keeps (Keeps.sub_of hm (by decide))
theorem execPmeResend_keeps {m : Parts} {a : State} (hm : Parts.sub 0x100005 m) (f : Nat) (s : State) (hs : a.Keeps m s) :
    a.KeepsR m (execPmeResend f s) := by
  unfold execPmeResend
  with_reducible repeat' first
    | assumption | intro _ | dsimp only | apply whenServing_keeps | apply State.upToClk_keeps (Keeps.sub_of hm (by decide))
    | apply State.hostCtr_keeps (Keeps.sub_of hm (by decide)) | apply State.hostSend_keeps (Keeps.sub_of hm (by decide))
    | apply State.setFn_keeps (Keeps.sub_of hm (by decide)) | split
theorem execPmeTurnOff_keeps {m : Parts} {a : State} (hm : Parts.sub 0x100004 m) (p : Nat) (s : State) (hs : a.Keeps m s) :
    a.KeepsR m (execPmeTurnOff p s) := by
  unfold execPmeTurnOff
  with_reducible repeat' first
    | assumption | intro _ | apply whenServing_keeps | apply State.emit_keeps (Keeps.sub_of hm (by decide))
    | apply State.setPort_keeps (Keeps.sub_of hm (by decide)) | split
theorem State.writeTimeoutValue_keeps {m : Parts} {a : State} (hm : Parts.sub 0x100000 m) (s : State) (f : Nat) (v : BitVec 4) (hs : a.Keeps m s) :
    a.Keeps m (State.writeTimeoutValue s f v) := by
  unfold State.writeTimeoutValue
  with_reducible repeat' first
    | assumption | apply State.setFn_keeps (Keeps.sub_of hm (by decide)) | split
theorem State.writeCplTimeout_keeps {m : Parts} {a : State} (hm : Parts.sub 0x100000 m) (s : State) (f : Nat) (v : Nat) (hs : a.Keeps m s) :
    a.Keeps m (State.writeCplTimeout s f v) := by
  unfold State.writeCplTimeout
  with_reducible repeat' first
    | assumption | apply State.setFn_keeps (Keeps.sub_of hm (by decide)) | split
theorem execCplTimeoutValueWrite_keeps {m : Parts} {a : State} (hm : Parts.sub 0x100000 m) (f : Nat) (v : BitVec 4) (s : State) (hs : a.Keeps m s) :
    a.KeepsR m (execCplTimeoutValueWrite f v s) := by
  unfold execCplTimeoutValueWrite
  with_reducible repeat' first
    | assumption | intro _ | apply whenFn_keeps | apply State.writeTimeoutValue_keeps (Keeps.sub_of hm (by decide))
theorem execCplTimeoutWrite_keeps {m : Parts} {a : State} (hm : Parts.sub 0x100000 m) (f : Nat) (v : BitVec 13) (s : State) (hs : a.Keeps m s) :
    a.KeepsR m (execCplTimeoutWrite f v s) := by
  unfold execCplTimeoutWrite
  with_reducible repeat' first
    | assumption | intro _ | apply whenFn_keeps | apply State.writeCplTimeout_keeps (Keeps.sub_of hm (by decide))
theorem State.clearPasid_keeps {m : Parts} {a : State} (hm : Parts.sub 0x7f0004 m) (s : State) (f : Nat) (hs : a.Keeps m s) :
    a.Keeps m (State.clearPasid s f) := by
  unfold State.clearPasid
  with_reducible repeat' first
    | assumption | intro _ | dsimp only | apply State.setFn_keeps (Keeps.sub_of hm (by decide))
    | apply State.settleRecords_keeps (Keeps.sub_of hm (by decide)) | apply State.abortJobs_keeps (Keeps.sub_of hm (by decide))
    | apply State.qpStopping_keeps (Keeps.sub_of hm (by decide)) | apply Keeps.foldl | split
theorem execPasidEnableClear_keeps {m : Parts} {a : State} (hm : Parts.sub 0x7f0004 m) (f : Nat) (s : State) (hs : a.Keeps m s) :
    a.KeepsR m (execPasidEnableClear f s) := by
  unfold execPasidEnableClear
  with_reducible repeat' first
    | assumption | intro _ | apply whenFn_keeps | apply State.clearPasid_keeps (Keeps.sub_of hm (by decide)) | split
theorem State.enableMsix_keeps {m : Parts} {a : State} (hm : Parts.sub 0x100004 m) (s : State) (f : Nat) (hs : a.Keeps m s) :
    a.Keeps m (State.enableMsix s f) := by
  unfold State.enableMsix
  with_reducible repeat' first
    | assumption | apply State.intxUpdate_keeps (Keeps.sub_of hm (by decide))
    | apply State.flushPba_keeps (Keeps.sub_of hm (by decide)) | apply State.setFn_keeps (Keeps.sub_of hm (by decide))
theorem execMsixEnableSet_keeps {m : Parts} {a : State} (hm : Parts.sub 0x100004 m) (f : Nat) (s : State) (hs : a.Keeps m s) :
    a.KeepsR m (execMsixEnableSet f s) := by
  unfold execMsixEnableSet
  with_reducible repeat' first
    | assumption | intro _ | apply whenFn_keeps | apply State.enableMsix_keeps (Keeps.sub_of hm (by decide)) | split
theorem execIntxAckWrite_keeps {m : Parts} {a : State} (hm : Parts.sub 0x100004 m) (f : Nat) (v : Nat) (s : State) (hs : a.Keeps m s) :
    a.KeepsR m (execIntxAckWrite f v s) := by
  unfold execIntxAckWrite
  with_reducible repeat' first
    | assumption | intro _ | apply whenServing_keeps | apply bar2Request_keeps (Keeps.sub_of hm (by decide))
    | apply State.ackIntx_keeps (Keeps.sub_of hm (by decide)) | apply State.hostCtr_keeps (Keeps.sub_of hm (by decide)) | split
theorem execMsixTableEntryUnmask_keeps {m : Parts} {a : State} (hm : Parts.sub 0x100004 m) (f : Nat) (v : Nat) (s : State) (hs : a.Keeps m s) :
    a.KeepsR m (execMsixTableEntryUnmask f v s) := by
  unfold execMsixTableEntryUnmask
  with_reducible repeat' first
    | assumption | intro _ | apply whenServing_keeps | apply bar2Request_keeps (Keeps.sub_of hm (by decide))
    | apply State.unmaskVector_keeps (Keeps.sub_of hm (by decide)) | split
theorem execCompletionReceive_keeps {m : Parts} {a : State} (hm : Parts.sub 0x790005 m) (p : Nat) (tag : Nat) (status : CplStatus) (bytes : List Byte) (s : State) (hs : a.Keeps m s) :
    a.KeepsR m (execCompletionReceive p tag status bytes s) := by
  unfold execCompletionReceive
  with_reducible repeat' first
    | assumption | intro _ | apply whenServing_keeps | apply State.complete_keeps (Keeps.sub_of hm (by decide)) | split
theorem execCompletionTimeout_keeps {m : Parts} {a : State} (hm : Parts.sub 0x710005 m) (p : Nat) (tag : Nat) (s : State) (hs : a.Keeps m s) :
    a.KeepsR m (execCompletionTimeout p tag s) := by
  unfold execCompletionTimeout
  with_reducible repeat' first
    | assumption | intro _ | apply whenServing_keeps | apply State.timeoutTag_keeps (Keeps.sub_of hm (by decide)) | split
theorem execTagQuarantineEnd_keeps {m : Parts} {a : State} (hm : Parts.sub 0x100005 m) (p : Nat) (tag : Nat) (s : State) (hs : a.Keeps m s) :
    a.KeepsR m (execTagQuarantineEnd p tag s) := by
  unfold execTagQuarantineEnd
  with_reducible repeat' first
    | assumption | intro _ | apply whenServing_keeps | apply State.upToClk_keeps (Keeps.sub_of hm (by decide))
    | apply State.serveWaiting_keeps (Keeps.sub_of hm (by decide)) | refine Keeps.upd ?_ | simp only [Keeps.mk_iff] | split
theorem execAtsInvalidate_keeps {m : Parts} {a : State} (hm : Parts.sub 0x100004 m) (f : Nat) (lo : Nat) (hi : Nat) (itag : Nat) (s : State) (hs : a.Keeps m s) :
    a.KeepsR m (execAtsInvalidate f lo hi itag s) := by
  unfold execAtsInvalidate
  with_reducible repeat' first
    | assumption | intro _ | apply whenFn_keeps | apply State.flushInvals_keeps (Keeps.sub_of hm (by decide))
    | refine Keeps.upd ?_ | simp only [Keeps.mk_iff]
theorem execAspmL1Entry_keeps {m : Parts} {a : State} (hm : Parts.sub 0x100001 m) (p : Nat) (s : State) (hs : a.Keeps m s) :
    a.KeepsR m (execAspmL1Entry p s) := by
  unfold execAspmL1Entry
  with_reducible repeat' first
    | assumption | intro _ | dsimp only | apply whenServing_keeps | apply State.upToClk_keeps (Keeps.sub_of hm (by decide))
    | apply State.hostCtr_keeps (Keeps.sub_of hm (by decide)) | apply State.setPort_keeps (Keeps.sub_of hm (by decide)) | split
theorem execL1Exit_keeps {m : Parts} {a : State} (hm : Parts.sub 0x100000 m) (p : Nat) (s : State) (hs : a.Keeps m s) :
    a.KeepsR m (execL1Exit p s) := by
  unfold execL1Exit
  with_reducible repeat' first
    | assumption | intro _ | dsimp only | apply whenServing_keeps | apply State.setPort_keeps (Keeps.sub_of hm (by decide))
    | split
theorem State.cfgWrite_keeps {m : Parts} {a : State} (hm : Parts.sub 0xffa185 m) (s : State) (f : Nat) (v : W32) (y3 : CfgReg) (hs : a.Keeps m s) :
    a.Keeps m (State.cfgWrite s f v y3) := by
  unfold State.cfgWrite
  with_reducible repeat' first
    | assumption | apply State.setFn_keeps (Keeps.sub_of hm (by decide))
    | apply State.setBusMaster_keeps (Keeps.sub_of hm (by decide))
    | apply State.clearBusMaster_keeps (Keeps.sub_of hm (by decide))
    | apply State.intxUpdate_keeps (Keeps.sub_of hm (by decide)) | apply State.startFlr_keeps (Keeps.sub_of hm (by decide))
    | apply State.writeTimeoutValue_keeps (Keeps.sub_of hm (by decide))
    | apply State.leaveD3_keeps (Keeps.sub_of hm (by decide)) | apply State.enterD3_keeps (Keeps.sub_of hm (by decide))
    | apply State.enableMsix_keeps (Keeps.sub_of hm (by decide)) | apply State.flushPba_keeps (Keeps.sub_of hm (by decide))
    | apply State.clearVfEnable_keeps (Keeps.sub_of hm (by decide))
    | apply State.writeNumVFs_keeps (Keeps.sub_of hm (by decide)) | apply State.clearPasid_keeps (Keeps.sub_of hm (by decide))
    | apply State.setPort_keeps (Keeps.sub_of hm (by decide)) | apply State.writeCplTimeout_keeps (Keeps.sub_of hm (by decide))
    | refine Keeps.upd ?_ | simp only [Keeps.mk_iff] | split
theorem execConfigRequest_keeps {m : Parts} {a : State} (hm : Parts.sub 0xffa185 m) (f : Nat) (bus : Nat) (reg : CfgReg) (wr : Option W32) (s : State) (hs : a.Keeps m s) :
    a.KeepsR m (execConfigRequest f bus reg wr s) := by
  unfold execConfigRequest
  with_reducible repeat' first
    | assumption | apply Keeps.next | dsimp only | apply State.emit_keeps (Keeps.sub_of hm (by decide))
    | apply State.setPort_keeps (Keeps.sub_of hm (by decide)) | apply State.cfgWrite_keeps (Keeps.sub_of hm (by decide)) | split
theorem hostSetBody_keeps {m : Parts} {a : State} (hm : Parts.sub 0x80 m) (s0 : State) (r0 : Request) (hs0 : a.Keeps m s0) :
    a.KeepsE m (hostSetBody s0 r0) := by
  unfold hostSetBody
  with_reducible repeat' first
    | assumption | apply chk_keeps | apply done_keeps | refine Keeps.upd ?_ | simp only [Keeps.mk_iff]
theorem execQueueHostSet_keeps {m : Parts} {a : State} (hm : Parts.sub 0x5001e5 m) (s : State) (hs : a.Keeps m s) :
    a.KeepsR m (execQueueHostSet s) := by
  unfold execQueueHostSet
  with_reducible repeat' first
    | assumption | apply slaotRow_keeps (Keeps.sub_of hm (by decide)) | apply hostSetBody_keeps (Keeps.sub_of hm (by decide))
theorem hostCmd_keeps {m : Parts} {a : State} (k : State → Nat → List Byte) (s0 : State) (r0 : Request) (hs0 : a.Keeps m s0) :
    a.KeepsE m (hostCmd k s0 r0) := by
  unfold hostCmd
  with_reducible repeat' first
    | assumption | apply chk_keeps | apply done_keeps
theorem hostGetBody_keeps {m : Parts} {a : State} (s0 : State) (r0 : Request) (hs0 : a.Keeps m s0) :
    a.KeepsE m (hostGetBody s0 r0) := by
  unfold hostGetBody
  with_reducible repeat' first
    | assumption | apply hostCmd_keeps
theorem execQueueHostGet_keeps {m : Parts} {a : State} (hm : Parts.sub 0x500165 m) (s : State) (hs : a.Keeps m s) :
    a.KeepsR m (execQueueHostGet s) := by
  unfold execQueueHostGet
  with_reducible repeat' first
    | assumption | apply slaotRow_keeps (Keeps.sub_of hm (by decide)) | apply hostGetBody_keeps
theorem hostStatsBody_keeps {m : Parts} {a : State} (s0 : State) (r0 : Request) (hs0 : a.Keeps m s0) :
    a.KeepsE m (hostStatsBody s0 r0) := by
  unfold hostStatsBody
  with_reducible repeat' first
    | assumption | apply hostCmd_keeps
theorem execQueueHostStats_keeps {m : Parts} {a : State} (hm : Parts.sub 0x500165 m) (s : State) (hs : a.Keeps m s) :
    a.KeepsR m (execQueueHostStats s) := by
  unfold execQueueHostStats
  with_reducible repeat' first
    | assumption | apply slaotRow_keeps (Keeps.sub_of hm (by decide)) | apply hostStatsBody_keeps

end Sys2Proof.Machine
end

