-- ==== Sys2Proof/Laws/KeepsRemote.lean ====
section
/-! SUPPORT. What the definitions of Machine/Remote.lean keep: no part of the state changes but those of the mask, which is
`Parts` in bits (Safety.lean), and what every command keeps. -/
set_option Elab.async false
namespace Sys2Proof.Machine

theorem State.localWrite_keeps {m : Parts} {a : State} (hm : Parts.sub 0x580004 m) (s : State) (q : Nat) (l : List (Nat × List Byte)) (hs : a.Keeps m s) :
    a.KeepsP m (State.localWrite s q l) := by
  unfold State.localWrite
  with_reducible repeat' first
    | assumption | apply State.dmaWrites_keeps (Keeps.sub_of hm (by decide))
theorem State.setConn_keeps {m : Parts} {a : State} (hm : Parts.sub 0x10000 m) (s : State) (c : Nat) (x : Conn) (hs : a.Keeps m s) :
    a.Keeps m (State.setConn s c x) := by
  unfold State.setConn
  with_reducible repeat' first
    | assumption | refine Keeps.upd ?_ | simp only [Keeps.mk_iff]
theorem State.raCtr_keeps {m : Parts} {a : State} (hm : Parts.sub 0x10000 m) (s : State) (g : Nat) (i : Nat) (n : Nat) (hs : a.Keeps m s) :
    a.Keeps m (State.raCtr s g i n) := by
  unfold State.raCtr
  with_reducible repeat' first
    | assumption | refine Keeps.upd ?_ | simp only [Keeps.mk_iff]
theorem State.sendNet_keeps {m : Parts} {a : State} (hm : Parts.sub 0x10402 m) (s : State) (c : Nat) (sport : Nat) (dport : Nat) (data : List Byte) (lost : Option Nat) (hs : a.Keeps m s) :
    a.Keeps m (State.sendNet s c sport dport data lost) := by
  unfold State.sendNet
  with_reducible repeat' first
    | assumption | apply State.fresh_keeps (Keeps.sub_of hm (by decide))
    | apply State.enterFrame_keeps (Keeps.sub_of hm (by decide)) | apply State.raCtr_keeps (Keeps.sub_of hm (by decide))
    | simp only [Keeps.Q_iff] | split
theorem State.sendMra_keeps {m : Parts} {a : State} (hm : Parts.sub 0x10402 m) (s : State) (c : Nat) (y2 : Mra) (payload : List Byte) (lost : Option Nat) (hs : a.Keeps m s) :
    a.Keeps m (State.sendMra s c y2 payload lost) := by
  unfold State.sendMra
  with_reducible repeat' first
    | assumption | apply State.sendNet_keeps (Keeps.sub_of hm (by decide))
theorem State.keyViolation_keeps {m : Parts} {a : State} (hm : Parts.sub 0x510004 m) (s : State) (g : Nat) (key : Nat) (reason : Nat) (hs : a.Keeps m s) :
    a.Keeps m (State.keyViolation s g key reason) := by
  unfold State.keyViolation
  with_reducible repeat' first
    | assumption | apply State.raCtr_keeps (Keeps.sub_of hm (by decide))
    | apply State.fireDev_keeps (Keeps.sub_of hm (by decide)) | refine Keeps.upd ?_ | simp only [Keeps.mk_iff] | split
theorem State.settle_keeps {m : Parts} {a : State} (hm : Parts.sub 0x210000 m) (s : State) (c : Nat) (y2 : TxMsg) (status : Nat) (detail : Nat) (data : W64) (hs : a.Keeps m s) :
    a.Keeps m (State.settle s c y2 status detail data) := by
  unfold State.settle
  with_reducible repeat' first
    | assumption | apply State.endJob_keeps (Keeps.sub_of hm (by decide))
    | apply State.raCtr_keeps (Keeps.sub_of hm (by decide)) | apply State.setConn_keeps (Keeps.sub_of hm (by decide))
theorem State.settleFail_keeps {m : Parts} {a : State} (hm : Parts.sub 0x710004 m) (s : State) (c : Nat) (y2 : TxMsg) (reason : Nat) (hs : a.Keeps m s) :
    a.Keeps m (State.settleFail s c y2 reason) := by
  unfold State.settleFail
  with_reducible repeat' first
    | assumption | apply State.connFail_keeps (Keeps.sub_of hm (by decide))
    | apply State.settle_keeps (Keeps.sub_of hm (by decide))
theorem State.transmitMra_keeps {m : Parts} {a : State} (hm : Parts.sub 0x10402 m) (s : State) (c : Nat) (y2 : TxMsg) (retx : Bool) (hs : a.Keeps m s) :
    a.Keeps m (State.transmitMra s c y2 retx) := by
  unfold State.transmitMra
  with_reducible repeat' first
    | assumption | intro _ | apply State.sendMra_keeps (Keeps.sub_of hm (by decide)) | apply Keeps.foldl
theorem State.sendRoce_keeps {m : Parts} {a : State} (hm : Parts.sub 0x10402 m) (s : State) (c : Nat) (data : List Byte) (lost : Option Nat) (hs : a.Keeps m s) :
    a.Keeps m (State.sendRoce s c data lost) := by
  unfold State.sendRoce
  with_reducible repeat' first
    | assumption | apply State.sendNet_keeps (Keeps.sub_of hm (by decide))
theorem State.transmitRoce_keeps {m : Parts} {a : State} (hm : Parts.sub 0x10402 m) (s : State) (c : Nat) (y2 : TxMsg) (i : Nat) (hs : a.Keeps m s) :
    a.Keeps m (State.transmitRoce s c y2 i) := by
  unfold State.transmitRoce
  with_reducible repeat' first
    | assumption | intro _ | apply State.sendRoce_keeps (Keeps.sub_of hm (by decide)) | apply Keeps.foldl
theorem State.transmit_keeps {m : Parts} {a : State} (hm : Parts.sub 0x10402 m) (s : State) (c : Nat) (y2 : TxMsg) (retx : Bool) (hs : a.Keeps m s) :
    a.Keeps m (State.transmit s c y2 retx) := by
  unfold State.transmit
  with_reducible repeat' first
    | assumption | apply State.transmitMra_keeps (Keeps.sub_of hm (by decide))
    | apply State.transmitRoce_keeps (Keeps.sub_of hm (by decide)) | split
theorem State.setMsg_keeps {m : Parts} {a : State} (hm : Parts.sub 0x10000 m) (s : State) (c : Nat) (y2 : TxMsg) (hs : a.Keeps m s) :
    a.Keeps m (State.setMsg s c y2) := by
  unfold State.setMsg
  with_reducible repeat' first
    | assumption | apply State.setConn_keeps (Keeps.sub_of hm (by decide))
theorem State.resend_keeps {m : Parts} {a : State} (hm : Parts.sub 0x10402 m) (s : State) (c : Nat) (y2 : TxMsg) (hs : a.Keeps m s) :
    a.Keeps m (State.resend s c y2) := by
  unfold State.resend
  with_reducible repeat' first
    | assumption | intro _ | dsimp only | apply State.transmit_keeps (Keeps.sub_of hm (by decide))
    | apply State.raCtr_keeps (Keeps.sub_of hm (by decide)) | apply State.setMsg_keeps (Keeps.sub_of hm (by decide))
    | apply Keeps.foldl | split
theorem State.raTimeout_keeps {m : Parts} {a : State} (hm : Parts.sub 0x710406 m) (s : State) (c : Nat) (y2 : TxMsg) (hs : a.Keeps m s) :
    a.Keeps m (State.raTimeout s c y2) := by
  unfold State.raTimeout
  with_reducible repeat' first
    | assumption | apply State.settleFail_keeps (Keeps.sub_of hm (by decide))
    | apply State.resend_keeps (Keeps.sub_of hm (by decide)) | split
theorem State.lateFirst_keeps {m : Parts} {a : State} (hm : Parts.sub 0x710406 m) (s : State) (c : Nat) (id : W32) (hs : a.Keeps m s) :
    a.Keeps m (State.lateFirst s c id) := by
  unfold State.lateFirst
  with_reducible repeat' first
    | assumption | apply State.raTimeout_keeps (Keeps.sub_of hm (by decide)) | split
theorem State.cutWindow_keeps {m : Parts} {a : State} (hm : Parts.sub 0x10000 m) (s : State) (c : Nat) (hs : a.Keeps m s) :
    a.Keeps m (State.cutWindow s c) := by
  unfold State.cutWindow
  with_reducible repeat' first
    | assumption | dsimp only | apply State.setConn_keeps (Keeps.sub_of hm (by decide))
    | apply State.raCtr_keeps (Keeps.sub_of hm (by decide)) | split
theorem State.readBytes_keeps {m : Parts} {a : State} (hm : Parts.sub 0x790004 m) (s : State) (c : Nat) (y2 : TxMsg) (i : Nat) (off : Nat) (b : List Byte) (hs : a.Keeps m s) :
    a.KeepsP m (State.readBytes s c y2 i off b) := by
  unfold State.readBytes
  with_reducible repeat' first
    | assumption | apply State.raCtr_keeps (Keeps.sub_of hm (by decide))
    | apply State.localWrite_keeps (Keeps.sub_of hm (by decide)) | apply State.settle_keeps (Keeps.sub_of hm (by decide))
    | apply State.setMsg_keeps (Keeps.sub_of hm (by decide)) | apply State.settleFail_keeps (Keeps.sub_of hm (by decide))
    | simp only [Keeps.P_mk] | split
    | refine Keeps.fst_of (by assumption) ?_
theorem State.atomicBytes_keeps {m : Parts} {a : State} (hm : Parts.sub 0x790004 m) (s : State) (c : Nat) (y2 : TxMsg) (old : List Byte) (hs : a.Keeps m s) :
    a.KeepsP m (State.atomicBytes s c y2 old) := by
  unfold State.atomicBytes
  with_reducible repeat' first
    | assumption | apply State.localWrite_keeps (Keeps.sub_of hm (by decide))
    | apply State.settle_keeps (Keeps.sub_of hm (by decide)) | apply State.settleFail_keeps (Keeps.sub_of hm (by decide))
    | simp only [Keeps.P_mk] | split
    | refine Keeps.fst_of (by assumption) ?_
theorem State.rnrTaken_keeps {m : Parts} {a : State} (hm : Parts.sub 0x710004 m) (s : State) (c : Nat) (y2 : TxMsg) (delay : Nat) (hs : a.Keeps m s) :
    a.Keeps m (State.rnrTaken s c y2 delay) := by
  unfold State.rnrTaken
  with_reducible repeat' first
    | assumption | dsimp only | apply State.raCtr_keeps (Keeps.sub_of hm (by decide))
    | apply State.settleFail_keeps (Keeps.sub_of hm (by decide)) | apply State.setMsg_keeps (Keeps.sub_of hm (by decide))
    | split
theorem State.nakTaken_keeps {m : Parts} {a : State} (hm : Parts.sub 0x710004 m) (s : State) (c : Nat) (y2 : TxMsg) (reason : Nat) (hs : a.Keeps m s) :
    a.Keeps m (State.nakTaken s c y2 reason) := by
  unfold State.nakTaken
  with_reducible repeat' first
    | assumption | apply State.settleFail_keeps (Keeps.sub_of hm (by decide))
    | apply State.settle_keeps (Keeps.sub_of hm (by decide)) | split
theorem State.setRemKey_keeps {m : Parts} {a : State} (hm : Parts.sub 0x10000 m) (s : State) (k : Nat) (e : RemKey) (hs : a.Keeps m s) :
    a.Keeps m (State.setRemKey s k e) := by
  unfold State.setRemKey
  with_reducible repeat' first
    | assumption | refine Keeps.upd ?_ | simp only [Keeps.mk_iff]
theorem keySetBody_keeps {m : Parts} {a : State} (hm : Parts.sub 0x10000 m) (s0 : State) (r0 : Request) (hs0 : a.Keeps m s0) :
    a.KeepsE m (keySetBody s0 r0) := by
  unfold keySetBody
  with_reducible repeat' first
    | assumption | apply chk_keeps | apply done_keeps | apply State.setRemKey_keeps (Keeps.sub_of hm (by decide))
theorem execRemoteKeySet_keeps {m : Parts} {a : State} (hm : Parts.sub 0x510165 m) (s : State) (hs : a.Keeps m s) :
    a.KeepsR m (execRemoteKeySet s) := by
  unfold execRemoteKeySet
  with_reducible repeat' first
    | assumption | apply slaotRow_keeps (Keeps.sub_of hm (by decide)) | apply keySetBody_keeps (Keeps.sub_of hm (by decide))
theorem keyCmd_keeps {m : Parts} {a : State} (f : State → Nat → Except Nat Done) (s0 : State) (r0 : Request) (hs0 : a.Keeps m s0) (hf : ∀ (z0 : State) (z1 : Nat), a.Keeps m z0 → a.KeepsE m (f z0 z1)) :
    a.KeepsE m (keyCmd f s0 r0) := by
  unfold keyCmd
  with_reducible repeat' first
    | assumption | apply hf | apply chk_keeps
theorem keyGetBody_keeps {m : Parts} {a : State} (s0 : State) (r0 : Request) (hs0 : a.Keeps m s0) :
    a.KeepsE m (keyGetBody s0 r0) := by
  unfold keyGetBody
  with_reducible repeat' first
    | assumption | intro _ | apply keyCmd_keeps | apply done_keeps
theorem execRemoteKeyGet_keeps {m : Parts} {a : State} (hm : Parts.sub 0x500165 m) (s : State) (hs : a.Keeps m s) :
    a.KeepsR m (execRemoteKeyGet s) := by
  unfold execRemoteKeyGet
  with_reducible repeat' first
    | assumption | apply slaotRow_keeps (Keeps.sub_of hm (by decide)) | apply keyGetBody_keeps
theorem keyRevokeBody_keeps {m : Parts} {a : State} (hm : Parts.sub 0x10000 m) (s0 : State) (r0 : Request) (hs0 : a.Keeps m s0) :
    a.KeepsE m (keyRevokeBody s0 r0) := by
  unfold keyRevokeBody
  with_reducible repeat' first
    | assumption | intro _ | apply keyCmd_keeps | apply chk_keeps | apply done_keeps
    | apply State.setRemKey_keeps (Keeps.sub_of hm (by decide))
theorem execRemoteKeyRevoke_keeps {m : Parts} {a : State} (hm : Parts.sub 0x510165 m) (s : State) (hs : a.Keeps m s) :
    a.KeepsR m (execRemoteKeyRevoke s) := by
  unfold execRemoteKeyRevoke
  with_reducible repeat' first
    | assumption | apply slaotRow_keeps (Keeps.sub_of hm (by decide)) | apply keyRevokeBody_keeps (Keeps.sub_of hm (by decide))
theorem execKeyRevokeDrained_keeps {m : Parts} {a : State} (hm : Parts.sub 0x510004 m) (k : Nat) (s : State) (hs : a.Keeps m s) :
    a.KeepsR m (execKeyRevokeDrained k s) := by
  unfold execKeyRevokeDrained
  with_reducible repeat' first
    | assumption | intro _ | dsimp only | apply whenRunning_keeps | apply State.fireDev_keeps (Keeps.sub_of hm (by decide))
    | apply State.setRemKey_keeps (Keeps.sub_of hm (by decide)) | split
theorem connSetBody_keeps {m : Parts} {a : State} (hm : Parts.sub 0x10000 m) (s0 : State) (r0 : Request) (hs0 : a.Keeps m s0) :
    a.KeepsE m (connSetBody s0 r0) := by
  unfold connSetBody
  with_reducible repeat' first
    | assumption | apply chk_keeps | apply done_keeps | apply State.setConn_keeps (Keeps.sub_of hm (by decide))
theorem execRemoteConnSet_keeps {m : Parts} {a : State} (hm : Parts.sub 0x510165 m) (s : State) (hs : a.Keeps m s) :
    a.KeepsR m (execRemoteConnSet s) := by
  unfold execRemoteConnSet
  with_reducible repeat' first
    | assumption | apply slaotRow_keeps (Keeps.sub_of hm (by decide)) | apply connSetBody_keeps (Keeps.sub_of hm (by decide))
theorem connCmd_keeps {m : Parts} {a : State} (k : State → Nat → Except Nat Done) (s0 : State) (r0 : Request) (hs0 : a.Keeps m s0) (hk : ∀ (z0 : State) (z1 : Nat), a.Keeps m z0 → a.KeepsE m (k z0 z1)) :
    a.KeepsE m (connCmd k s0 r0) := by
  unfold connCmd
  with_reducible repeat' first
    | assumption | apply hk | apply chk_keeps
theorem connGetBody_keeps {m : Parts} {a : State} (s0 : State) (r0 : Request) (hs0 : a.Keeps m s0) :
    a.KeepsE m (connGetBody s0 r0) := by
  unfold connGetBody
  with_reducible repeat' first
    | assumption | intro _ | apply connCmd_keeps | apply done_keeps
theorem execRemoteConnGet_keeps {m : Parts} {a : State} (hm : Parts.sub 0x500165 m) (s : State) (hs : a.Keeps m s) :
    a.KeepsR m (execRemoteConnGet s) := by
  unfold execRemoteConnGet
  with_reducible repeat' first
    | assumption | apply slaotRow_keeps (Keeps.sub_of hm (by decide)) | apply connGetBody_keeps
theorem connResetBody_keeps {m : Parts} {a : State} (hm : Parts.sub 0x210000 m) (s0 : State) (r0 : Request) (hs0 : a.Keeps m s0) :
    a.KeepsE m (connResetBody s0 r0) := by
  unfold connResetBody
  with_reducible repeat' first
    | assumption | intro _ | apply connCmd_keeps | apply State.endJob_keeps (Keeps.sub_of hm (by decide)) | apply chk_keeps
    | apply done_keeps | apply Keeps.foldl | refine Keeps.upd ?_ | simp only [Keeps.mk_iff]
theorem execRemoteConnReset_keeps {m : Parts} {a : State} (hm : Parts.sub 0x710165 m) (s : State) (hs : a.Keeps m s) :
    a.KeepsR m (execRemoteConnReset s) := by
  unfold execRemoteConnReset
  with_reducible repeat' first
    | assumption | apply slaotRow_keeps (Keeps.sub_of hm (by decide)) | apply connResetBody_keeps (Keeps.sub_of hm (by decide))
theorem engineSetBody_keeps {m : Parts} {a : State} (hm : Parts.sub 0x80 m) (s0 : State) (r0 : Request) (hs0 : a.Keeps m s0) :
    a.KeepsE m (engineSetBody s0 r0) := by
  unfold engineSetBody
  with_reducible repeat' first
    | assumption | apply chk_keeps | apply done_keeps | refine Keeps.upd ?_ | simp only [Keeps.mk_iff]
theorem execRemoteEngineSet_keeps {m : Parts} {a : State} (hm : Parts.sub 0x5001e5 m) (s : State) (hs : a.Keeps m s) :
    a.KeepsR m (execRemoteEngineSet s) := by
  unfold execRemoteEngineSet
  with_reducible repeat' first
    | assumption | apply slaotRow_keeps (Keeps.sub_of hm (by decide)) | apply engineSetBody_keeps (Keeps.sub_of hm (by decide))
theorem remoteStatsBody_keeps {m : Parts} {a : State} (s0 : State) (r0 : Request) (hs0 : a.Keeps m s0) :
    a.KeepsE m (remoteStatsBody s0 r0) := by
  unfold remoteStatsBody
  with_reducible repeat' first
    | assumption | apply chk_keeps | apply done_keeps
theorem execRemoteStats_keeps {m : Parts} {a : State} (hm : Parts.sub 0x500165 m) (s : State) (hs : a.Keeps m s) :
    a.KeepsR m (execRemoteStats s) := by
  unfold execRemoteStats
  with_reducible repeat' first
    | assumption | apply slaotRow_keeps (Keeps.sub_of hm (by decide)) | apply remoteStatsBody_keeps
theorem State.transmitCut_keeps {m : Parts} {a : State} (hm : Parts.sub 0x10402 m) (s : State) (c : Nat) (y2 : TxMsg) (n : Nat) (hs : a.Keeps m s) :
    a.Keeps m (State.transmitCut s c y2 n) := by
  unfold State.transmitCut
  with_reducible repeat' first
    | assumption | intro _ | dsimp only | apply State.sendMra_keeps (Keeps.sub_of hm (by decide))
    | apply State.sendRoce_keeps (Keeps.sub_of hm (by decide)) | apply Keeps.foldl | split
theorem State.raCut_keeps {m : Parts} {a : State} (hm : Parts.sub 0x710406 m) (s : State) (q : Nat) (slot : W32) (j : Job) (status : Nat) (detail : Nat) (hs : a.Keeps m s) :
    a.Keeps m (State.raCut s q slot j status detail) := by
  unfold State.raCut
  with_reducible repeat' first
    | assumption | dsimp only | apply State.endJob_keeps (Keeps.sub_of hm (by decide))
    | apply State.transmitCut_keeps (Keeps.sub_of hm (by decide)) | apply State.connFail_keeps (Keeps.sub_of hm (by decide))
    | split
theorem State.raRequest_keeps {m : Parts} {a : State} (hm : Parts.sub 0x710406 m) (s : State) (q : Nat) (slot : W32) (op : Nat) (hs : a.Keeps m s) :
    a.Keeps m (State.raRequest s q slot op) := by
  unfold State.raRequest
  with_reducible repeat' first
    | assumption | dsimp only | apply State.raCut_keeps (Keeps.sub_of hm (by decide))
    | apply State.endJob_keeps (Keeps.sub_of hm (by decide)) | apply State.transmit_keeps (Keeps.sub_of hm (by decide))
    | apply State.setConn_keeps (Keeps.sub_of hm (by decide)) | apply State.markActed_keeps (Keeps.sub_of hm (by decide))
    | split
theorem execRemoteWrite_keeps {m : Parts} {a : State} (hm : Parts.sub 0x710406 m) (q : Nat) (slot : W32) (s : State) (hs : a.Keeps m s) :
    a.KeepsR m (execRemoteWrite q slot s) := by
  unfold execRemoteWrite
  with_reducible repeat' first
    | assumption | intro _ | apply whenRunning_keeps | apply State.raRequest_keeps (Keeps.sub_of hm (by decide))
theorem execRemoteRead_keeps {m : Parts} {a : State} (hm : Parts.sub 0x710406 m) (q : Nat) (slot : W32) (s : State) (hs : a.Keeps m s) :
    a.KeepsR m (execRemoteRead q slot s) := by
  unfold execRemoteRead
  with_reducible repeat' first
    | assumption | intro _ | apply whenRunning_keeps | apply State.raRequest_keeps (Keeps.sub_of hm (by decide))
theorem execRemoteSend_keeps {m : Parts} {a : State} (hm : Parts.sub 0x710406 m) (q : Nat) (slot : W32) (s : State) (hs : a.Keeps m s) :
    a.KeepsR m (execRemoteSend q slot s) := by
  unfold execRemoteSend
  with_reducible repeat' first
    | assumption | intro _ | apply whenRunning_keeps | apply State.raRequest_keeps (Keeps.sub_of hm (by decide))
theorem execAtomicAdd_keeps {m : Parts} {a : State} (hm : Parts.sub 0x710406 m) (q : Nat) (slot : W32) (s : State) (hs : a.Keeps m s) :
    a.KeepsR m (execAtomicAdd q slot s) := by
  unfold execAtomicAdd
  with_reducible repeat' first
    | assumption | intro _ | apply whenRunning_keeps | apply State.raRequest_keeps (Keeps.sub_of hm (by decide))
theorem execCas64_keeps {m : Parts} {a : State} (hm : Parts.sub 0x710406 m) (q : Nat) (slot : W32) (s : State) (hs : a.Keeps m s) :
    a.KeepsR m (execCas64 q slot s) := by
  unfold execCas64
  with_reducible repeat' first
    | assumption | intro _ | apply whenRunning_keeps | apply State.raRequest_keeps (Keeps.sub_of hm (by decide))
theorem execCas128_keeps {m : Parts} {a : State} (hm : Parts.sub 0x710406 m) (q : Nat) (slot : W32) (s : State) (hs : a.Keeps m s) :
    a.KeepsR m (execCas128 q slot s) := by
  unfold execCas128
  with_reducible repeat' first
    | assumption | intro _ | apply whenRunning_keeps | apply State.raRequest_keeps (Keeps.sub_of hm (by decide))
theorem execRecvPost_keeps {m : Parts} {a : State} (hm : Parts.sub 0x210000 m) (q : Nat) (slot : W32) (s : State) (hs : a.Keeps m s) :
    a.KeepsR m (execRecvPost q slot s) := by
  unfold execRecvPost
  with_reducible repeat' first
    | assumption | intro _ | dsimp only | apply whenRunning_keeps | apply State.endJob_keeps (Keeps.sub_of hm (by decide))
    | apply State.setConn_keeps (Keeps.sub_of hm (by decide)) | split
theorem execRetransmitTimeout_keeps {m : Parts} {a : State} (hm : Parts.sub 0x710407 m) (c : Nat) (id : Nat) (s : State) (hs : a.Keeps m s) :
    a.KeepsR m (execRetransmitTimeout c id s) := by
  unfold execRetransmitTimeout
  with_reducible repeat' first
    | assumption | intro _ | apply whenRunning_keeps | apply State.raTimeout_keeps (Keeps.sub_of hm (by decide))
    | apply State.upToClk_keeps (Keeps.sub_of hm (by decide)) | split
theorem execRnrDelayExpiry_keeps {m : Parts} {a : State} (hm : Parts.sub 0x10403 m) (c : Nat) (id : Nat) (s : State) (hs : a.Keeps m s) :
    a.KeepsR m (execRnrDelayExpiry c id s) := by
  unfold execRnrDelayExpiry
  with_reducible repeat' first
    | assumption | intro _ | apply whenRunning_keeps | apply State.resend_keeps (Keeps.sub_of hm (by decide))
    | apply State.upToClk_keeps (Keeps.sub_of hm (by decide)) | split
theorem execCwndWindow_keeps {m : Parts} {a : State} (hm : Parts.sub 0x10001 m) (c : Nat) (s : State) (hs : a.Keeps m s) :
    a.KeepsR m (execCwndWindow c s) := by
  unfold execCwndWindow
  with_reducible repeat' first
    | assumption | intro _ | dsimp only | apply whenRunning_keeps | apply State.upToClk_keeps (Keeps.sub_of hm (by decide))
    | apply State.setConn_keeps (Keeps.sub_of hm (by decide)) | split

end Sys2Proof.Machine
end

