-- ==== Sys2Proof/Laws/KeepsReceive.lean ====
section
/-! SUPPORT. What the definitions of Machine/Receive.lean keep: no part of the state changes but those of the mask, which is
`Parts` in bits (Safety.lean), and what every command keeps. -/
set_option Elab.async false
namespace Sys2Proof.Machine

theorem State.raReach_keeps {m : Parts} {a : State} (hm : Parts.sub 0x100004 m) (s : State) (e : RemKey) (addr : Nat) (len : Nat) (p : Purpose) (hs : a.Keeps m s) :
    a.KeepsP m (State.raReach s e addr len p) := by
  unfold State.raReach
  with_reducible repeat' first
    | assumption | apply State.seeRefusal_keeps (Keeps.sub_of hm (by decide))
    | apply State.askTranslation_keeps (Keeps.sub_of hm (by decide))
    | simp only [Keeps.P_mk] | split
    | refine Keeps.some_of (by assumption) ?_
theorem State.raPieces_keeps {m : Parts} {a : State} (hm : Parts.sub 0x580004 m) (s : State) (g : Nat) (e : RemKey) (o : Nat → Nat × Nat → Out) (y4 : List (Nat × Nat)) (hs : a.Keeps m s) :
    a.KeepsP m (State.raPieces s g e o y4) := by
  induction y4 generalizing s with
  | nil =>
    unfold State.raPieces
    with_reducible repeat' first
      | assumption | apply ih | apply State.fbCheck_keeps (Keeps.sub_of hm (by decide))
      | apply State.hostSend_keeps (Keeps.sub_of hm (by decide))
      | simp only [Keeps.P_mk] | split
  | cons x l ih =>
    unfold State.raPieces
    with_reducible repeat' first
      | assumption | apply ih | apply State.fbCheck_keeps (Keeps.sub_of hm (by decide))
      | apply State.hostSend_keeps (Keeps.sub_of hm (by decide))
      | simp only [Keeps.P_iff, Keeps.P_mk] | split
theorem State.raAsk_keeps {m : Parts} {a : State} (hm : Parts.sub 0x790005 m) (s : State) (g : Nat) (e : RemKey) (right : Nat) (bad : Nat) (o : Nat → Nat → Nat → Out) (ps : List (Nat × Nat)) (acc : List HostCpl) (hs : a.Keeps m s) :
    a.KeepsT m (State.raAsk s g e right bad o ps acc) := by
  unfold State.raAsk
  with_reducible repeat' first
    | assumption | apply State.askAll_keeps (Keeps.sub_of hm (by decide))
    | simp only [Keeps.P_mk, Keeps.T_mk] | split
    | refine Keeps.fst2_of (by assumption) ?_
theorem State.raWrite_keeps {m : Parts} {a : State} (hm : Parts.sub 0x3580004 m) (s : State) (g : Nat) (e : RemKey) (addr : Nat) (b : List Byte) (hs : a.Keeps m s) :
    a.KeepsP m (State.raWrite s g e addr b) := by
  unfold State.raWrite
  with_reducible repeat' first
    | assumption | apply State.raReach_keeps (Keeps.sub_of hm (by decide))
    | apply State.fbCheck_keeps (Keeps.sub_of hm (by decide)) | apply State.memPut_keeps (Keeps.sub_of hm (by decide))
    | apply State.raPieces_keeps (Keeps.sub_of hm (by decide))
    | simp only [Keeps.P_iff, Keeps.P_mk] | split
    | refine Keeps.fst_of (by assumption) ?_
theorem State.raRead_keeps {m : Parts} {a : State} (hm : Parts.sub 0x790005 m) (s : State) (g : Nat) (e : RemKey) (addr : Nat) (len : Nat) (acc : List HostCpl) (hs : a.Keeps m s) :
    a.KeepsT m (State.raRead s g e addr len acc) := by
  unfold State.raRead
  with_reducible repeat' first
    | assumption | apply State.raReach_keeps (Keeps.sub_of hm (by decide))
    | apply State.fbCheck_keeps (Keeps.sub_of hm (by decide)) | apply State.raAsk_keeps (Keeps.sub_of hm (by decide))
    | simp only [Keeps.P_iff, Keeps.P_mk, Keeps.T_mk] | split
    | refine Keeps.fst_of (by assumption) ?_
theorem State.raAtomic_keeps {m : Parts} {a : State} (hm : Parts.sub 0x3790005 m) (s : State) (g : Nat) (e : RemKey) (addr : Nat) (sub : Nat) (w : Nat) (ops : List Byte) (acc : List HostCpl) (hs : a.Keeps m s) :
    a.KeepsT m (State.raAtomic s g e addr sub w ops acc) := by
  unfold State.raAtomic
  with_reducible repeat' first
    | assumption | apply State.raReach_keeps (Keeps.sub_of hm (by decide))
    | apply State.fbCheck_keeps (Keeps.sub_of hm (by decide)) | apply State.memPut_keeps (Keeps.sub_of hm (by decide))
    | apply State.raAsk_keeps (Keeps.sub_of hm (by decide))
    | simp only [Keeps.P_iff, Keeps.P_mk, Keeps.T_mk] | split
    | refine Keeps.fst_of (by assumption) ?_
theorem State.answer_keeps {m : Parts} {a : State} (hm : Parts.sub 0x10402 m) (s : State) (c : Nat) (y2 : Mra) (outcome : Nat) (hs : a.Keeps m s) :
    a.Keeps m (State.answer s c y2 outcome) := by
  unfold State.answer
  with_reducible repeat' first
    | assumption | apply State.setConn_keeps (Keeps.sub_of hm (by decide))
    | apply State.raCtr_keeps (Keeps.sub_of hm (by decide)) | apply State.fresh_keeps (Keeps.sub_of hm (by decide))
    | apply State.sendMra_keeps (Keeps.sub_of hm (by decide))
    | simp only [Keeps.Q_iff] | split
theorem State.reserve_keeps {m : Parts} {a : State} (hm : Parts.sub 0x200000 m) (s : State) (q : Nat) (op : Nat) (user : W32) (hs : a.Keeps m s) :
    a.KeepsQ m (State.reserve s q op user) := by
  unfold State.reserve
  with_reducible repeat' first
    | assumption | apply State.setQp_keeps (Keeps.sub_of hm (by decide))
    | simp only [Keeps.Q_mk]
theorem State.flushRecords_keeps {m : Parts} {a : State} (hm : Parts.sub 0x210000 m) (s : State) (c : Nat) (hs : a.Keeps m s) :
    a.Keeps m (State.flushRecords s c) := by
  unfold State.flushRecords
  with_reducible repeat' first
    | assumption | intro _ | apply State.setConn_keeps (Keeps.sub_of hm (by decide))
    | apply State.endJob_keeps (Keeps.sub_of hm (by decide)) | apply Keeps.foldl
theorem State.endRx_keeps {m : Parts} {a : State} (hm : Parts.sub 0x210000 m) (s : State) (c : Nat) (id : W32) (outcome : Nat) (rec : Option RxRec) (hs : a.Keeps m s) :
    a.Keeps m (State.endRx s c id outcome rec) := by
  unfold State.endRx
  with_reducible repeat' first
    | assumption | apply State.flushRecords_keeps (Keeps.sub_of hm (by decide))
    | apply State.raCtr_keeps (Keeps.sub_of hm (by decide)) | apply State.setConn_keeps (Keeps.sub_of hm (by decide))
theorem State.nakRx_keeps {m : Parts} {a : State} (hm : Parts.sub 0x210402 m) (s : State) (c : Nat) (y2 : Mra) (reason : Nat) (hs : a.Keeps m s) :
    a.Keeps m (State.nakRx s c y2 reason) := by
  unfold State.nakRx
  with_reducible repeat' first
    | assumption | apply State.answer_keeps (Keeps.sub_of hm (by decide))
    | apply State.endRx_keeps (Keeps.sub_of hm (by decide))
theorem State.placed_keeps {m : Parts} {a : State} (hm : Parts.sub 0x210402 m) (s : State) (c : Nat) (y2 : Mra) (y3 : RxMsg) (i : Nat) (n : Nat) (hs : a.Keeps m s) :
    a.Keeps m (State.placed s c y2 y3 i n) := by
  unfold State.placed
  with_reducible repeat' first
    | assumption | dsimp only | apply State.answer_keeps (Keeps.sub_of hm (by decide))
    | apply State.endRx_keeps (Keeps.sub_of hm (by decide)) | apply State.setConn_keeps (Keeps.sub_of hm (by decide)) | split
theorem State.noContext_keeps {m : Parts} {a : State} (hm : Parts.sub 0x510004 m) (s : State) (g : Nat) (hs : a.Keeps m s) :
    a.Keeps m (State.noContext s g) := by
  unfold State.noContext
  with_reducible repeat' first
    | assumption | apply State.raCtr_keeps (Keeps.sub_of hm (by decide))
    | apply State.fireDev_keeps (Keeps.sub_of hm (by decide)) | refine Keeps.upd ?_ | simp only [Keeps.mk_iff] | split
theorem State.dupPacket_keeps {m : Parts} {a : State} (hm : Parts.sub 0x10000 m) (s : State) (c : Nat) (y2 : RxMsg) (hs : a.Keeps m s) :
    a.Keeps m (State.dupPacket s c y2) := by
  unfold State.dupPacket
  with_reducible repeat' first
    | assumption | apply State.raCtr_keeps (Keeps.sub_of hm (by decide))
    | apply State.setConn_keeps (Keeps.sub_of hm (by decide))
theorem State.raTake_keeps {m : Parts} {a : State} (hm : Parts.sub 0x10604 m) (s : State) (g : Nat) (t : Nat) (f : FrameRec) (hs : a.Keeps m s) :
    a.Keeps m (State.raTake s g t f) := by
  unfold State.raTake
  with_reducible repeat' first
    | assumption | apply State.raCtr_keeps (Keeps.sub_of hm (by decide))
    | apply State.takeSink_keeps (Keeps.sub_of hm (by decide)) | refine Keeps.upd ?_ | simp only [Keeps.mk_iff] | split
theorem State.raRow_keeps {m : Parts} {a : State} (hm : Parts.sub 0x10000 m) (s : State) (g : Nat) (mine : NetPkt → Bool) (k : State → NetPkt → State × Bool) (hs : a.Keeps m s) (hk : ∀ (z0 : State) (z1 : NetPkt), a.Keeps m z0 → a.KeepsP m (k z0 z1)) :
    a.Keeps m (State.raRow s g mine k) := by
  unfold State.raRow
  with_reducible repeat' first
    | assumption | apply hk | refine Keeps.upd ?_ | simp only [Keeps.mk_iff] | split | refine Keeps.fst_of (by assumption) ?_
theorem State.expireCtx_keeps {m : Parts} {a : State} (hm : Parts.sub 0x210000 m) (s : State) (c : Nat) (y2 : RxMsg) (hs : a.Keeps m s) :
    a.Keeps m (State.expireCtx s c y2) := by
  unfold State.expireCtx
  with_reducible repeat' first
    | assumption | apply State.raCtr_keeps (Keeps.sub_of hm (by decide)) | apply State.endRx_keeps (Keeps.sub_of hm (by decide))
theorem State.expireLate_keeps {m : Parts} {a : State} (hm : Parts.sub 0x210000 m) (s : State) (c : Nat) (hs : a.Keeps m s) :
    a.Keeps m (State.expireLate s c) := by
  unfold State.expireLate
  with_reducible repeat' first
    | assumption | intro _ | apply State.expireCtx_keeps (Keeps.sub_of hm (by decide)) | apply Keeps.foldl
theorem State.request_keeps {m : Parts} {a : State} (hm : Parts.sub 0x210402 m) (s : State) (p : NetPkt) (again : State → Nat → Mra → List Byte → State × Bool) (body : State → Nat → Mra → List Byte → State × Bool) (hs : a.Keeps m s) (hagain : ∀ (z0 : State) (z1 : Nat) (z2 : Mra) (z3 : List Byte), a.Keeps m z0 → a.KeepsP m (again z0 z1 z2 z3)) (hbody : ∀ (z0 : State) (z1 : Nat) (z2 : Mra) (z3 : List Byte), a.Keeps m z0 → a.KeepsP m (body z0 z1 z2 z3)) :
    a.KeepsP m (State.request s p again body) := by
  unfold State.request
  with_reducible repeat' first
    | assumption | apply hagain | apply hbody | apply State.raCtr_keeps (Keeps.sub_of hm (by decide))
    | apply State.expireLate_keeps (Keeps.sub_of hm (by decide)) | apply State.setConn_keeps (Keeps.sub_of hm (by decide))
    | apply State.answer_keeps (Keeps.sub_of hm (by decide))
    | simp only [Keeps.P_mk] | split
theorem State.repeatAnswer_keeps {m : Parts} {a : State} (hm : Parts.sub 0x10402 m) (s : State) (c : Nat) (y2 : Mra) (y3 : List Byte) (hs : a.Keeps m s) :
    a.KeepsP m (State.repeatAnswer s c y2 y3) := by
  unfold State.repeatAnswer
  with_reducible repeat' first
    | assumption | apply State.answer_keeps (Keeps.sub_of hm (by decide))
    | simp only [Keeps.P_mk]
theorem State.rxWrite_keeps {m : Parts} {a : State} (hm : Parts.sub 0x3790406 m) (s : State) (c : Nat) (y2 : Mra) (b : List Byte) (hs : a.Keeps m s) :
    a.KeepsP m (State.rxWrite s c y2 b) := by
  unfold State.rxWrite
  with_reducible repeat' first
    | assumption | apply State.nakRx_keeps (Keeps.sub_of hm (by decide))
    | apply State.keyViolation_keeps (Keeps.sub_of hm (by decide)) | apply State.noContext_keeps (Keeps.sub_of hm (by decide))
    | apply State.answer_keeps (Keeps.sub_of hm (by decide)) | apply State.dupPacket_keeps (Keeps.sub_of hm (by decide))
    | apply State.raWrite_keeps (Keeps.sub_of hm (by decide)) | apply State.placed_keeps (Keeps.sub_of hm (by decide))
    | apply State.reserve_keeps (Keeps.sub_of hm (by decide))
    | simp only [Keeps.Q_iff, Keeps.P_mk] | split
    | refine Keeps.fst_of (by assumption) ?_
theorem execWritePacketReceive_keeps {m : Parts} {a : State} (hm : Parts.sub 0x3790406 m) (g : Nat) (s : State) (hs : a.Keeps m s) :
    a.KeepsR m (execWritePacketReceive g s) := by
  unfold execWritePacketReceive
  with_reducible repeat' first
    | assumption | intro _ | apply whenRunning_keeps | apply State.raRow_keeps (Keeps.sub_of hm (by decide))
    | apply State.request_keeps (Keeps.sub_of hm (by decide)) | apply State.repeatAnswer_keeps (Keeps.sub_of hm (by decide))
    | apply State.rxWrite_keeps (Keeps.sub_of hm (by decide))
theorem State.sendBytes_keeps {m : Parts} {a : State} (hm : Parts.sub 0x790406 m) (s : State) (c : Nat) (y2 : Mra) (y3 : RxMsg) (b : List Byte) (hs : a.Keeps m s) :
    a.KeepsP m (State.sendBytes s c y2 y3 b) := by
  unfold State.sendBytes
  with_reducible repeat' first
    | assumption | apply State.dupPacket_keeps (Keeps.sub_of hm (by decide))
    | apply State.localWrite_keeps (Keeps.sub_of hm (by decide)) | apply State.placed_keeps (Keeps.sub_of hm (by decide))
    | apply State.nakRx_keeps (Keeps.sub_of hm (by decide))
    | simp only [Keeps.P_mk] | split
    | refine Keeps.fst_of (by assumption) ?_
theorem State.rxSend_keeps {m : Parts} {a : State} (hm : Parts.sub 0x790406 m) (s : State) (c : Nat) (y2 : Mra) (b : List Byte) (hs : a.Keeps m s) :
    a.KeepsP m (State.rxSend s c y2 b) := by
  unfold State.rxSend
  with_reducible repeat' first
    | assumption | apply State.sendBytes_keeps (Keeps.sub_of hm (by decide))
    | apply State.raCtr_keeps (Keeps.sub_of hm (by decide)) | apply State.answer_keeps (Keeps.sub_of hm (by decide))
    | apply State.noContext_keeps (Keeps.sub_of hm (by decide)) | apply State.reserve_keeps (Keeps.sub_of hm (by decide))
    | apply State.setConn_keeps (Keeps.sub_of hm (by decide)) | apply State.endRx_keeps (Keeps.sub_of hm (by decide))
    | simp only [Keeps.Q_iff, Keeps.P_mk] | split
theorem execSendPacketReceive_keeps {m : Parts} {a : State} (hm : Parts.sub 0x790406 m) (g : Nat) (s : State) (hs : a.Keeps m s) :
    a.KeepsR m (execSendPacketReceive g s) := by
  unfold execSendPacketReceive
  with_reducible repeat' first
    | assumption | intro _ | apply whenRunning_keeps | apply State.raRow_keeps (Keeps.sub_of hm (by decide))
    | apply State.request_keeps (Keeps.sub_of hm (by decide)) | apply State.repeatAnswer_keeps (Keeps.sub_of hm (by decide))
    | apply State.rxSend_keeps (Keeps.sub_of hm (by decide))
theorem State.readAnswer_keeps {m : Parts} {a : State} (hm : Parts.sub 0x10402 m) (s : State) (c : Nat) (y2 : Mra) (data : List Byte) (hs : a.Keeps m s) :
    a.Keeps m (State.readAnswer s c y2 data) := by
  unfold State.readAnswer
  with_reducible repeat' first
    | assumption | intro _ | apply State.fresh_keeps (Keeps.sub_of hm (by decide))
    | apply State.sendMra_keeps (Keeps.sub_of hm (by decide)) | apply Keeps.foldl
    | simp only [Keeps.Q_iff]
theorem State.rxRead_keeps {m : Parts} {a : State} (hm : Parts.sub 0x790407 m) (acc : List HostCpl) (dup : Bool) (s : State) (c : Nat) (y4 : Mra) (y5 : List Byte) (hs : a.Keeps m s) :
    a.KeepsP m (State.rxRead acc dup s c y4 y5) := by
  unfold State.rxRead
  with_reducible repeat' first
    | assumption | apply State.answer_keeps (Keeps.sub_of hm (by decide))
    | apply State.nakRx_keeps (Keeps.sub_of hm (by decide)) | apply State.keyViolation_keeps (Keeps.sub_of hm (by decide))
    | apply State.raRead_keeps (Keeps.sub_of hm (by decide)) | apply State.readAnswer_keeps (Keeps.sub_of hm (by decide))
    | apply State.endRx_keeps (Keeps.sub_of hm (by decide))
    | simp only [Keeps.P_mk] | split
    | refine Keeps.fst2_of (by assumption) ?_
theorem execReadReqReceive_keeps {m : Parts} {a : State} (hm : Parts.sub 0x790407 m) (g : Nat) (acc : List HostCpl) (s : State) (hs : a.Keeps m s) :
    a.KeepsR m (execReadReqReceive g acc s) := by
  unfold execReadReqReceive
  with_reducible repeat' first
    | assumption | intro _ | apply whenRunning_keeps | apply State.raRow_keeps (Keeps.sub_of hm (by decide))
    | apply State.request_keeps (Keeps.sub_of hm (by decide)) | apply State.rxRead_keeps (Keeps.sub_of hm (by decide))
theorem State.atomicAnswer_keeps {m : Parts} {a : State} (hm : Parts.sub 0x10402 m) (s : State) (c : Nat) (y2 : Mra) (old : List Byte) (hs : a.Keeps m s) :
    a.Keeps m (State.atomicAnswer s c y2 old) := by
  unfold State.atomicAnswer
  with_reducible repeat' first
    | assumption | apply State.fresh_keeps (Keeps.sub_of hm (by decide))
    | apply State.sendMra_keeps (Keeps.sub_of hm (by decide))
    | simp only [Keeps.Q_iff]
theorem State.atomicAgain_keeps {m : Parts} {a : State} (hm : Parts.sub 0x10402 m) (s : State) (c : Nat) (y2 : Mra) (y3 : List Byte) (hs : a.Keeps m s) :
    a.KeepsP m (State.atomicAgain s c y2 y3) := by
  unfold State.atomicAgain
  with_reducible repeat' first
    | assumption | apply State.atomicAnswer_keeps (Keeps.sub_of hm (by decide))
    | apply State.raCtr_keeps (Keeps.sub_of hm (by decide)) | apply State.answer_keeps (Keeps.sub_of hm (by decide))
    | simp only [Keeps.P_mk] | split
theorem State.atomicDone_keeps {m : Parts} {a : State} (hm : Parts.sub 0x210402 m) (s : State) (c : Nat) (y2 : Mra) (old : List Byte) (hs : a.Keeps m s) :
    a.Keeps m (State.atomicDone s c y2 old) := by
  unfold State.atomicDone
  with_reducible repeat' first
    | assumption | apply State.atomicAnswer_keeps (Keeps.sub_of hm (by decide))
    | apply State.endRx_keeps (Keeps.sub_of hm (by decide)) | apply State.setConn_keeps (Keeps.sub_of hm (by decide))
theorem State.rxAtomic_keeps {m : Parts} {a : State} (hm : Parts.sub 0x3790407 m) (acc : List HostCpl) (s : State) (c : Nat) (y3 : Mra) (b : List Byte) (hs : a.Keeps m s) :
    a.KeepsP m (State.rxAtomic acc s c y3 b) := by
  unfold State.rxAtomic
  with_reducible repeat' first
    | assumption | apply State.nakRx_keeps (Keeps.sub_of hm (by decide)) | apply State.raCtr_keeps (Keeps.sub_of hm (by decide))
    | apply State.keyViolation_keeps (Keeps.sub_of hm (by decide)) | apply State.raAtomic_keeps (Keeps.sub_of hm (by decide))
    | apply State.answer_keeps (Keeps.sub_of hm (by decide)) | apply State.atomicDone_keeps (Keeps.sub_of hm (by decide))
    | simp only [Keeps.P_mk] | split
    | refine Keeps.fst2_of (by assumption) ?_
theorem execAtomicReqReceive_keeps {m : Parts} {a : State} (hm : Parts.sub 0x3790407 m) (g : Nat) (acc : List HostCpl) (s : State) (hs : a.Keeps m s) :
    a.KeepsR m (execAtomicReqReceive g acc s) := by
  unfold execAtomicReqReceive
  with_reducible repeat' first
    | assumption | intro _ | apply whenRunning_keeps | apply State.raRow_keeps (Keeps.sub_of hm (by decide))
    | apply State.request_keeps (Keeps.sub_of hm (by decide)) | apply State.atomicAgain_keeps (Keeps.sub_of hm (by decide))
    | apply State.rxAtomic_keeps (Keeps.sub_of hm (by decide))
theorem State.answered_keeps {m : Parts} {a : State} (hm : Parts.sub 0x710406 m) (s : State) (p : NetPkt) (k : State → Nat → Mra → List Byte → State × Bool) (hs : a.Keeps m s) (hk : ∀ (z0 : State) (z1 : Nat) (z2 : Mra) (z3 : List Byte), a.Keeps m z0 → a.KeepsP m (k z0 z1 z2 z3)) :
    a.KeepsP m (State.answered s p k) := by
  unfold State.answered
  with_reducible repeat' first
    | assumption | apply hk | apply State.setConn_keeps (Keeps.sub_of hm (by decide))
    | apply State.lateFirst_keeps (Keeps.sub_of hm (by decide)) | apply State.cutWindow_keeps (Keeps.sub_of hm (by decide))
    | simp only [Keeps.P_mk] | split
theorem execReadRespReceive_keeps {m : Parts} {a : State} (hm : Parts.sub 0x790406 m) (g : Nat) (s : State) (hs : a.Keeps m s) :
    a.KeepsR m (execReadRespReceive g s) := by
  unfold execReadRespReceive
  with_reducible repeat' first
    | assumption | intro _ | apply whenRunning_keeps | apply State.raRow_keeps (Keeps.sub_of hm (by decide))
    | apply State.answered_keeps (Keeps.sub_of hm (by decide)) | apply State.readBytes_keeps (Keeps.sub_of hm (by decide))
    | apply State.raCtr_keeps (Keeps.sub_of hm (by decide))
    | simp only [Keeps.P_mk] | split
theorem execAtomicRespReceive_keeps {m : Parts} {a : State} (hm : Parts.sub 0x790406 m) (g : Nat) (s : State) (hs : a.Keeps m s) :
    a.KeepsR m (execAtomicRespReceive g s) := by
  unfold execAtomicRespReceive
  with_reducible repeat' first
    | assumption | intro _ | apply whenRunning_keeps | apply State.raRow_keeps (Keeps.sub_of hm (by decide))
    | apply State.answered_keeps (Keeps.sub_of hm (by decide)) | apply State.atomicBytes_keeps (Keeps.sub_of hm (by decide))
    | simp only [Keeps.P_mk] | split
theorem execAckReceive_keeps {m : Parts} {a : State} (hm : Parts.sub 0x710406 m) (g : Nat) (s : State) (hs : a.Keeps m s) :
    a.KeepsR m (execAckReceive g s) := by
  unfold execAckReceive
  with_reducible repeat' first
    | assumption | intro _ | apply whenRunning_keeps | apply State.raRow_keeps (Keeps.sub_of hm (by decide))
    | apply State.answered_keeps (Keeps.sub_of hm (by decide)) | apply State.settle_keeps (Keeps.sub_of hm (by decide))
    | simp only [Keeps.P_mk] | split
theorem execNakReceive_keeps {m : Parts} {a : State} (hm : Parts.sub 0x710406 m) (g : Nat) (s : State) (hs : a.Keeps m s) :
    a.KeepsR m (execNakReceive g s) := by
  unfold execNakReceive
  with_reducible repeat' first
    | assumption | intro _ | apply whenRunning_keeps | apply State.raRow_keeps (Keeps.sub_of hm (by decide))
    | apply State.answered_keeps (Keeps.sub_of hm (by decide)) | apply State.raCtr_keeps (Keeps.sub_of hm (by decide))
    | apply State.rnrTaken_keeps (Keeps.sub_of hm (by decide)) | apply State.nakTaken_keeps (Keeps.sub_of hm (by decide))
    | simp only [Keeps.P_mk] | split
theorem execContextExpiry_keeps {m : Parts} {a : State} (hm : Parts.sub 0x210001 m) (c : Nat) (id : Nat) (s : State) (hs : a.Keeps m s) :
    a.KeepsR m (execContextExpiry c id s) := by
  unfold execContextExpiry
  with_reducible repeat' first
    | assumption | intro _ | apply whenRunning_keeps | apply State.expireCtx_keeps (Keeps.sub_of hm (by decide))
    | apply State.upToClk_keeps (Keeps.sub_of hm (by decide)) | split

end Sys2Proof.Machine
end

