-- ==== Sys2Proof/Laws/KeepsRoce.lean ====
section
/-! SUPPORT. What the definitions of Machine/Roce.lean keep: no part of the state changes but those of the mask, which is
`Parts` in bits (Safety.lean), and what every command keeps. -/
set_option Elab.async false
namespace Sys2Proof.Machine

theorem State.roceAck_keeps {m : Parts} {a : State} (hm : Parts.sub 0x10402 m) (s : State) (c : Nat) (psn : Nat) (syndrome : Nat) (hs : a.Keeps m s) :
    a.Keeps m (State.roceAck s c psn syndrome) := by
  unfold State.roceAck
  with_reducible repeat' first
    | assumption | apply State.sendRoce_keeps (Keeps.sub_of hm (by decide))
theorem State.roceRnr_keeps {m : Parts} {a : State} (hm : Parts.sub 0x10402 m) (s : State) (c : Nat) (psn : Nat) (hs : a.Keeps m s) :
    a.Keeps m (State.roceRnr s c psn) := by
  unfold State.roceRnr
  with_reducible repeat' first
    | assumption | apply State.roceAck_keeps (Keeps.sub_of hm (by decide))
    | apply State.raCtr_keeps (Keeps.sub_of hm (by decide))
theorem State.psnPast_keeps {m : Parts} {a : State} (hm : Parts.sub 0x10000 m) (s : State) (c : Nat) (n : Nat) (hs : a.Keeps m s) :
    a.Keeps m (State.psnPast s c n) := by
  unfold State.psnPast
  with_reducible repeat' first
    | assumption | apply State.setConn_keeps (Keeps.sub_of hm (by decide))
theorem State.roceEnd_keeps {m : Parts} {a : State} (hm : Parts.sub 0x10000 m) (s : State) (c : Nat) (hs : a.Keeps m s) :
    a.Keeps m (State.roceEnd s c) := by
  unfold State.roceEnd
  with_reducible repeat' first
    | assumption | apply State.raCtr_keeps (Keeps.sub_of hm (by decide))
    | apply State.setConn_keeps (Keeps.sub_of hm (by decide))
theorem State.roceNak_keeps {m : Parts} {a : State} (hm : Parts.sub 0x210402 m) (s : State) (c : Nat) (psn : Nat) (n : Nat) (reason : Nat) (hs : a.Keeps m s) :
    a.Keeps m (State.roceNak s c psn n reason) := by
  unfold State.roceNak
  with_reducible repeat' first
    | assumption | apply State.endJob_keeps (Keeps.sub_of hm (by decide))
    | apply State.roceAck_keeps (Keeps.sub_of hm (by decide)) | apply State.psnPast_keeps (Keeps.sub_of hm (by decide))
    | apply State.setConn_keeps (Keeps.sub_of hm (by decide)) | split
theorem State.retitle_keeps {m : Parts} {a : State} (hm : Parts.sub 0x200000 m) (s : State) (q : Nat) (slot : W32) (op : Nat) (user : W32) (hs : a.Keeps m s) :
    a.Keeps m (State.retitle s q slot op user) := by
  unfold State.retitle
  with_reducible repeat' first
    | assumption | apply State.setQp_keeps (Keeps.sub_of hm (by decide))
theorem State.rocePlaced_keeps {m : Parts} {a : State} (hm : Parts.sub 0x210402 m) (s : State) (c : Nat) (p : RocePart) (y3 : RxMsg) (hs : a.Keeps m s) :
    a.Keeps m (State.rocePlaced s c p y3) := by
  unfold State.rocePlaced
  with_reducible repeat' first
    | assumption | apply State.psnPast_keeps (Keeps.sub_of hm (by decide))
    | apply State.roceEnd_keeps (Keeps.sub_of hm (by decide)) | apply State.fresh_keeps (Keeps.sub_of hm (by decide))
    | apply State.endJob_keeps (Keeps.sub_of hm (by decide)) | apply State.retitle_keeps (Keeps.sub_of hm (by decide))
    | apply State.roceAck_keeps (Keeps.sub_of hm (by decide)) | apply State.setConn_keeps (Keeps.sub_of hm (by decide))
    | simp only [Keeps.Q_iff] | split
theorem State.roceData_keeps {m : Parts} {a : State} (hm : Parts.sub 0x3790406 m) (s : State) (c : Nat) (p : RocePart) (hs : a.Keeps m s) :
    a.KeepsP m (State.roceData s c p) := by
  unfold State.roceData
  with_reducible repeat' first
    | assumption | apply State.psnPast_keeps (Keeps.sub_of hm (by decide))
    | apply State.roceRnr_keeps (Keeps.sub_of hm (by decide)) | apply State.noContext_keeps (Keeps.sub_of hm (by decide))
    | apply State.roceNak_keeps (Keeps.sub_of hm (by decide)) | apply State.keyViolation_keeps (Keeps.sub_of hm (by decide))
    | apply State.reserve_keeps (Keeps.sub_of hm (by decide)) | apply State.setConn_keeps (Keeps.sub_of hm (by decide))
    | apply State.endJob_keeps (Keeps.sub_of hm (by decide)) | apply State.raWrite_keeps (Keeps.sub_of hm (by decide))
    | apply State.localWrite_keeps (Keeps.sub_of hm (by decide)) | apply State.rocePlaced_keeps (Keeps.sub_of hm (by decide))
    | simp only [Keeps.Q_iff, Keeps.P_mk] | split
    | refine Keeps.fst_of (by assumption) ?_
theorem State.roceRead_keeps {m : Parts} {a : State} (hm : Parts.sub 0x790407 m) (s : State) (c : Nat) (acc : List HostCpl) (b : List Byte) (dup : Bool) (hs : a.Keeps m s) :
    a.KeepsP m (State.roceRead s c acc b dup) := by
  unfold State.roceRead
  with_reducible repeat' first
    | assumption | intro _ | apply State.roceNak_keeps (Keeps.sub_of hm (by decide))
    | apply State.keyViolation_keeps (Keeps.sub_of hm (by decide)) | apply State.raRead_keeps (Keeps.sub_of hm (by decide))
    | apply State.roceRnr_keeps (Keeps.sub_of hm (by decide)) | apply State.roceEnd_keeps (Keeps.sub_of hm (by decide))
    | apply State.psnPast_keeps (Keeps.sub_of hm (by decide)) | apply State.sendRoce_keeps (Keeps.sub_of hm (by decide))
    | apply Keeps.foldl | simp only [Keeps.P_mk]
    | split | refine Keeps.fst2_of (by assumption) ?_
theorem State.roceOld_keeps {m : Parts} {a : State} (hm : Parts.sub 0x10402 m) (s : State) (c : Nat) (psn : Nat) (old : List Byte) (hs : a.Keeps m s) :
    a.Keeps m (State.roceOld s c psn old) := by
  unfold State.roceOld
  with_reducible repeat' first
    | assumption | apply State.sendRoce_keeps (Keeps.sub_of hm (by decide))
theorem State.roceAtomic_keeps {m : Parts} {a : State} (hm : Parts.sub 0x3790407 m) (s : State) (c : Nat) (acc : List HostCpl) (b : List Byte) (hs : a.Keeps m s) :
    a.KeepsP m (State.roceAtomic s c acc b) := by
  unfold State.roceAtomic
  with_reducible repeat' first
    | assumption | apply State.roceNak_keeps (Keeps.sub_of hm (by decide))
    | apply State.keyViolation_keeps (Keeps.sub_of hm (by decide)) | apply State.raAtomic_keeps (Keeps.sub_of hm (by decide))
    | apply State.roceRnr_keeps (Keeps.sub_of hm (by decide)) | apply State.setConn_keeps (Keeps.sub_of hm (by decide))
    | apply State.roceOld_keeps (Keeps.sub_of hm (by decide)) | apply State.roceEnd_keeps (Keeps.sub_of hm (by decide))
    | apply State.psnPast_keeps (Keeps.sub_of hm (by decide))
    | simp only [Keeps.P_mk] | split
    | refine Keeps.fst2_of (by assumption) ?_
theorem State.roceAgain_keeps {m : Parts} {a : State} (hm : Parts.sub 0x790407 m) (s : State) (c : Nat) (acc : List HostCpl) (b : List Byte) (hs : a.Keeps m s) :
    a.KeepsP m (State.roceAgain s c acc b) := by
  unfold State.roceAgain
  with_reducible repeat' first
    | assumption | apply State.raCtr_keeps (Keeps.sub_of hm (by decide))
    | apply State.roceRead_keeps (Keeps.sub_of hm (by decide)) | apply State.roceOld_keeps (Keeps.sub_of hm (by decide))
    | apply State.roceAck_keeps (Keeps.sub_of hm (by decide))
    | simp only [Keeps.P_mk] | split
theorem State.roceRequest_keeps {m : Parts} {a : State} (hm : Parts.sub 0x3790407 m) (s : State) (c : Nat) (acc : List HostCpl) (b : List Byte) (hs : a.Keeps m s) :
    a.KeepsP m (State.roceRequest s c acc b) := by
  unfold State.roceRequest
  with_reducible repeat' first
    | assumption | apply State.roceAck_keeps (Keeps.sub_of hm (by decide))
    | apply State.roceAgain_keeps (Keeps.sub_of hm (by decide)) | apply State.roceRead_keeps (Keeps.sub_of hm (by decide))
    | apply State.roceAtomic_keeps (Keeps.sub_of hm (by decide)) | apply State.roceData_keeps (Keeps.sub_of hm (by decide))
    | simp only [Keeps.P_mk] | split
theorem State.ackThrough_keeps {m : Parts} {a : State} (hm : Parts.sub 0x210000 m) (s : State) (c : Nat) (psn : Nat) (hs : a.Keeps m s) :
    a.Keeps m (State.ackThrough s c psn) := by
  unfold State.ackThrough
  with_reducible repeat' first
    | assumption | intro _ | apply State.settle_keeps (Keeps.sub_of hm (by decide)) | apply Keeps.foldl
theorem State.goBack_keeps {m : Parts} {a : State} (hm : Parts.sub 0x10402 m) (s : State) (c : Nat) (psn : Nat) (hs : a.Keeps m s) :
    a.Keeps m (State.goBack s c psn) := by
  unfold State.goBack
  with_reducible repeat' first
    | assumption | intro _ | dsimp only | apply State.setMsg_keeps (Keeps.sub_of hm (by decide))
    | apply State.transmitRoce_keeps (Keeps.sub_of hm (by decide)) | apply State.raCtr_keeps (Keeps.sub_of hm (by decide))
    | apply Keeps.foldl | split
theorem State.roceAcked_keeps {m : Parts} {a : State} (hm : Parts.sub 0x710406 m) (s : State) (c : Nat) (psn : Nat) (syndrome : Nat) (hs : a.Keeps m s) :
    a.Keeps m (State.roceAcked s c psn syndrome) := by
  unfold State.roceAcked
  with_reducible repeat' first
    | assumption | dsimp only | apply State.ackThrough_keeps (Keeps.sub_of hm (by decide))
    | apply State.rnrTaken_keeps (Keeps.sub_of hm (by decide)) | apply State.goBack_keeps (Keeps.sub_of hm (by decide))
    | apply State.nakTaken_keeps (Keeps.sub_of hm (by decide)) | apply State.raCtr_keeps (Keeps.sub_of hm (by decide)) | split
theorem State.roceResponse_keeps {m : Parts} {a : State} (hm : Parts.sub 0x790406 m) (s : State) (c : Nat) (b : List Byte) (hs : a.Keeps m s) :
    a.KeepsP m (State.roceResponse s c b) := by
  unfold State.roceResponse
  with_reducible repeat' first
    | assumption | apply State.lateFirst_keeps (Keeps.sub_of hm (by decide))
    | apply State.roceAcked_keeps (Keeps.sub_of hm (by decide)) | apply State.raCtr_keeps (Keeps.sub_of hm (by decide))
    | apply State.ackThrough_keeps (Keeps.sub_of hm (by decide)) | apply State.atomicBytes_keeps (Keeps.sub_of hm (by decide))
    | apply State.readBytes_keeps (Keeps.sub_of hm (by decide))
    | simp only [Keeps.P_mk] | split
theorem State.sendCnp_keeps {m : Parts} {a : State} (hm : Parts.sub 0x10402 m) (s : State) (c : Nat) (hs : a.Keeps m s) :
    a.Keeps m (State.sendCnp s c) := by
  unfold State.sendCnp
  with_reducible repeat' first
    | assumption | dsimp only | apply State.sendRoce_keeps (Keeps.sub_of hm (by decide))
    | apply State.raCtr_keeps (Keeps.sub_of hm (by decide)) | apply State.setConn_keeps (Keeps.sub_of hm (by decide)) | split
theorem State.roceTaken_keeps {m : Parts} {a : State} (hm : Parts.sub 0x3790407 m) (acc : List HostCpl) (s : State) (p : NetPkt) (hs : a.Keeps m s) :
    a.KeepsP m (State.roceTaken acc s p) := by
  unfold State.roceTaken
  with_reducible repeat' first
    | assumption | apply State.raCtr_keeps (Keeps.sub_of hm (by decide))
    | apply State.cutWindow_keeps (Keeps.sub_of hm (by decide)) | apply State.sendCnp_keeps (Keeps.sub_of hm (by decide))
    | apply State.roceRequest_keeps (Keeps.sub_of hm (by decide)) | apply State.roceResponse_keeps (Keeps.sub_of hm (by decide))
    | simp only [Keeps.P_mk] | split
theorem execRocev2PacketReceive_keeps {m : Parts} {a : State} (hm : Parts.sub 0x3790407 m) (g : Nat) (acc : List HostCpl) (s : State) (hs : a.Keeps m s) :
    a.KeepsR m (execRocev2PacketReceive g acc s) := by
  unfold execRocev2PacketReceive
  with_reducible repeat' first
    | assumption | intro _ | apply whenRunning_keeps | apply State.raRow_keeps (Keeps.sub_of hm (by decide))
    | apply State.roceTaken_keeps (Keeps.sub_of hm (by decide))

end Sys2Proof.Machine
end

