-- ==== Sys2Proof/Laws/KeepsHart.lean ====
section
/-! SUPPORT. What the definitions of Machine/Hart.lean keep: no part of the state changes but those of the mask, which is
`Parts` in bits (Safety.lean), and what every command keeps. -/
set_option Elab.async false
namespace Sys2Proof.Machine

theorem State.setThread_keeps {m : Parts} {a : State} (hm : Parts.sub 0x4000 m) (s : State) (t : Thr) (v : SvcThread) (hs : a.Keeps m s) :
    a.Keeps m (State.setThread s t v) := by
  unfold State.setThread
  with_reducible repeat' first
    | assumption | apply State.setSvc_keeps (Keeps.sub_of hm (by decide))
theorem State.stillUpdate_keeps {m : Parts} {a : State} (hm : Parts.sub 0x4000 m) (s : State) (g : Nat) (c : Nat) (hs : a.Keeps m s) :
    a.Keeps m (State.stillUpdate s g c) := by
  unfold State.stillUpdate
  with_reducible repeat' first
    | assumption | dsimp only | apply State.setSvc_keeps (Keeps.sub_of hm (by decide)) | split
theorem State.putThread_keeps {m : Parts} {a : State} (hm : Parts.sub 0x4000 m) (s : State) (t : Thr) (v : SvcThread) (hs : a.Keeps m s) :
    a.Keeps m (State.putThread s t v) := by
  unfold State.putThread
  with_reducible repeat' first
    | assumption | apply State.stillUpdate_keeps (Keeps.sub_of hm (by decide))
    | apply State.setThread_keeps (Keeps.sub_of hm (by decide))
theorem State.endSpin_keeps {m : Parts} {a : State} (hm : Parts.sub 0x4000 m) (s : State) (t : Thr) (hs : a.Keeps m s) :
    a.Keeps m (State.endSpin s t) := by
  unfold State.endSpin
  with_reducible repeat' first
    | assumption | apply State.putThread_keeps (Keeps.sub_of hm (by decide)) | split
theorem State.notify_keeps {m : Parts} {a : State} (hm : Parts.sub 0x4000 m) (s : State) (g : Nat) (ch : Nat) (y3 : List W64) (hs : a.Keeps m s) :
    a.Keeps m (State.notify s g ch y3) := by
  unfold State.notify
  with_reducible repeat' first
    | assumption | dsimp only | apply State.svcCtr_keeps (Keeps.sub_of hm (by decide))
    | apply State.setSvc_keeps (Keeps.sub_of hm (by decide)) | split
theorem State.dropHeld_keeps {m : Parts} {a : State} (hm : Parts.sub 0x4604 m) (s : State) (t : Thr) (hs : a.Keeps m s) :
    a.Keeps m (State.dropHeld s t) := by
  unfold State.dropHeld
  with_reducible repeat' first
    | assumption | apply State.setThread_keeps (Keeps.sub_of hm (by decide))
    | apply State.reap_keeps (Keeps.sub_of hm (by decide)) | apply State.dropTag_keeps (Keeps.sub_of hm (by decide)) | split
theorem State.parkThread_keeps {m : Parts} {a : State} (hm : Parts.sub 0x4604 m) (s : State) (t : Thr) (hs : a.Keeps m s) :
    a.Keeps m (State.parkThread s t) := by
  unfold State.parkThread
  with_reducible repeat' first
    | assumption | apply State.svcCtr_keeps (Keeps.sub_of hm (by decide))
    | apply State.dropHeld_keeps (Keeps.sub_of hm (by decide)) | apply State.setSvc_keeps (Keeps.sub_of hm (by decide))
    | apply State.putThread_keeps (Keeps.sub_of hm (by decide)) | split
theorem State.fireSvcFault_keeps {m : Parts} {a : State} (hm : Parts.sub 0x504004 m) (s : State) (g : Nat) (hs : a.Keeps m s) :
    a.Keeps m (State.fireSvcFault s g) := by
  unfold State.fireSvcFault
  with_reducible repeat' first
    | assumption | dsimp only | apply State.setSvc_keeps (Keeps.sub_of hm (by decide))
    | apply State.fireDev_keeps (Keeps.sub_of hm (by decide)) | split
theorem State.threadFault_keeps {m : Parts} {a : State} (hm : Parts.sub 0x504604 m) (s : State) (t : Thr) (cause : Nat) (tval : W64) (hs : a.Keeps m s) :
    a.Keeps m (State.threadFault s t cause tval) := by
  unfold State.threadFault
  with_reducible repeat' first
    | assumption | apply State.svcCtr_keeps (Keeps.sub_of hm (by decide))
    | apply State.parkThread_keeps (Keeps.sub_of hm (by decide)) | apply State.notify_keeps (Keeps.sub_of hm (by decide))
    | apply State.fireSvcFault_keeps (Keeps.sub_of hm (by decide)) | split
theorem State.restartThread_keeps {m : Parts} {a : State} (hm : Parts.sub 0x4000 m) (s : State) (t : Thr) (hs : a.Keeps m s) :
    a.Keeps m (State.restartThread s t) := by
  unfold State.restartThread
  with_reducible repeat' first
    | assumption | apply State.putThread_keeps (Keeps.sub_of hm (by decide)) | split
theorem State.chanPut_keeps {m : Parts} {a : State} (hm : Parts.sub 0x4000 m) (s : State) (t : Thr) (ch : Nat) (idx : Nat) (v : W64) (hs : a.Keeps m s) :
    a.KeepsP m (State.chanPut s t ch idx v) := by
  unfold State.chanPut
  with_reducible repeat' first
    | assumption | apply State.setSvc_keeps (Keeps.sub_of hm (by decide))
    | simp only [Keeps.P_mk] | split
theorem State.chanSend_keeps {m : Parts} {a : State} (hm : Parts.sub 0x4000 m) (s : State) (t : Thr) (ch : Nat) (count : Nat) (hs : a.Keeps m s) :
    a.KeepsP m (State.chanSend s t ch count) := by
  unfold State.chanSend
  with_reducible repeat' first
    | assumption | apply State.setThread_keeps (Keeps.sub_of hm (by decide))
    | apply State.setSvc_keeps (Keeps.sub_of hm (by decide))
    | simp only [Keeps.P_mk] | split
theorem State.chanRecv_keeps {m : Parts} {a : State} (hm : Parts.sub 0x4000 m) (s : State) (t : Thr) (ch : Nat) (hs : a.Keeps m s) :
    a.KeepsP m (State.chanRecv s t ch) := by
  unfold State.chanRecv
  with_reducible repeat' first
    | assumption | apply State.setSvc_keeps (Keeps.sub_of hm (by decide))
    | apply State.setThread_keeps (Keeps.sub_of hm (by decide))
    | simp only [Keeps.P_mk] | split
theorem State.setHeld_keeps {m : Parts} {a : State} (hm : Parts.sub 0x4000 m) (s : State) (t : Thr) (y2 : Option HeldFrame) (result : Nat) (hs : a.Keeps m s) :
    a.Keeps m (State.setHeld s t y2 result) := by
  unfold State.setHeld
  with_reducible repeat' first
    | assumption | apply State.endSpin_keeps (Keeps.sub_of hm (by decide))
    | apply State.setThread_keeps (Keeps.sub_of hm (by decide))
theorem State.holdTag_keeps {m : Parts} {a : State} (hm : Parts.sub 0x400 m) (s : State) (g : Nat) (tag : Nat) (k : Sink) (hs : a.Keeps m s) :
    a.Keeps m (State.holdTag s g tag k) := by
  unfold State.holdTag
  with_reducible repeat' first
    | assumption | apply State.setSink_keeps (Keeps.sub_of hm (by decide))
    | apply State.setSliceTag_keeps (Keeps.sub_of hm (by decide))
theorem State.frmTake_keeps {m : Parts} {a : State} (hm : Parts.sub 0x4402 m) (s : State) (t : Thr) (q : Nat) (hs : a.Keeps m s) :
    a.Keeps m (State.frmTake s t q) := by
  unfold State.frmTake
  with_reducible repeat' first
    | assumption | dsimp only | apply State.setHeld_keeps (Keeps.sub_of hm (by decide))
    | apply State.svcCtr_keeps (Keeps.sub_of hm (by decide)) | apply State.holdTag_keeps (Keeps.sub_of hm (by decide))
    | apply State.drawn_keeps (Keeps.sub_of hm (by decide)) | split
theorem State.allocCells_keeps {m : Parts} {a : State} (hm : Parts.sub 0x604 m) (s : State) (g : Nat) (t : Nat) (y3 : Nat) (hs : a.Keeps m s) :
    a.KeepsO m (State.allocCells s g t y3) := by
  induction y3 generalizing s with
  | zero =>
    unfold State.allocCells
    with_reducible repeat' first
      | assumption | apply ih | intro _ | apply Keeps.some0 | apply State.allocCell_keeps (Keeps.sub_of hm (by decide))
      | apply State.setSliceTag_keeps (Keeps.sub_of hm (by decide)) | apply Keeps.bindS
      | simp only [Keeps.mk_iff, Keeps.P_iff, Keeps.Q_iff, Keeps.T_iff, Keeps.P_mk, Keeps.Q_mk, Keeps.T_mk]
  | succ n ih =>
    unfold State.allocCells
    with_reducible repeat' first
      | assumption | apply ih | intro _ | apply Keeps.some0 | apply State.allocCell_keeps (Keeps.sub_of hm (by decide))
      | apply State.setSliceTag_keeps (Keeps.sub_of hm (by decide)) | apply Keeps.bindS
      | simp only [Keeps.Q_iff]
theorem State.frmAlloc_keeps {m : Parts} {a : State} (hm : Parts.sub 0x4606 m) (s : State) (t : Thr) (len : Nat) (hs : a.Keeps m s) :
    a.Keeps m (State.frmAlloc s t len) := by
  unfold State.frmAlloc
  with_reducible repeat' first
    | assumption | exact Keeps.none0 | apply State.setHeld_keeps (Keeps.sub_of hm (by decide))
    | apply State.newTag_keeps (Keeps.sub_of hm (by decide)) | apply State.allocCells_keeps (Keeps.sub_of hm (by decide))
    | apply State.drawn_keeps (Keeps.sub_of hm (by decide))
    | simp only [Keeps.Q_iff] | split
    | refine Keeps.some_of (by assumption) ?_
theorem State.svcSend_keeps {m : Parts} {a : State} (hm : Parts.sub 0x4400 m) (s : State) (g : Nat) (tenant : Nat) (b : List Byte) (action : Option Nat) (hs : a.Keeps m s) :
    a.Keeps m (State.svcSend s g tenant b action) := by
  unfold State.svcSend
  with_reducible repeat' first
    | assumption | apply State.svcCtr_keeps (Keeps.sub_of hm (by decide))
    | apply State.enterFrame_keeps (Keeps.sub_of hm (by decide))
    | simp only [Keeps.Q_iff]
theorem State.frmSend_keeps {m : Parts} {a : State} (hm : Parts.sub 0x4604 m) (s : State) (t : Thr) (v : W64) (hs : a.Keeps m s) :
    a.Keeps m (State.frmSend s t v) := by
  unfold State.frmSend
  with_reducible repeat' first
    | assumption | dsimp only | apply State.setHeld_keeps (Keeps.sub_of hm (by decide))
    | apply State.svcSend_keeps (Keeps.sub_of hm (by decide)) | apply State.dropHeld_keeps (Keeps.sub_of hm (by decide)) | split
theorem State.frmFree_keeps {m : Parts} {a : State} (hm : Parts.sub 0x4604 m) (s : State) (t : Thr) (hs : a.Keeps m s) :
    a.Keeps m (State.frmFree s t) := by
  unfold State.frmFree
  with_reducible repeat' first
    | assumption | apply State.setHeld_keeps (Keeps.sub_of hm (by decide))
    | apply State.dropHeld_keeps (Keeps.sub_of hm (by decide)) | split
theorem State.frmCmd_keeps {m : Parts} {a : State} (hm : Parts.sub 0x4606 m) (s : State) (t : Thr) (v : W64) (hs : a.Keeps m s) :
    a.Keeps m (State.frmCmd s t v) := by
  unfold State.frmCmd
  with_reducible repeat' first
    | assumption | apply State.frmTake_keeps (Keeps.sub_of hm (by decide))
    | apply State.frmAlloc_keeps (Keeps.sub_of hm (by decide)) | apply State.frmSend_keeps (Keeps.sub_of hm (by decide))
    | apply State.frmFree_keeps (Keeps.sub_of hm (by decide)) | split
theorem State.writeLogCi_keeps {m : Parts} {a : State} (hm : Parts.sub 0x6000 m) (s : State) (g : Nat) (v : W32) (hs : a.Keeps m s) :
    a.Keeps m (State.writeLogCi s g v) := by
  unfold State.writeLogCi
  with_reducible repeat' first
    | assumption | apply State.setSvc_keeps (Keeps.sub_of hm (by decide)) | refine Keeps.upd ?_ | simp only [Keeps.mk_iff]
    | split
theorem State.writeCandCi_keeps {m : Parts} {a : State} (hm : Parts.sub 0x4000 m) (s : State) (g : Nat) (v : W32) (hs : a.Keeps m s) :
    a.Keeps m (State.writeCandCi s g v) := by
  unfold State.writeCandCi
  with_reducible repeat' first
    | assumption | dsimp only | apply State.setSvc_keeps (Keeps.sub_of hm (by decide)) | split
theorem State.setControl_keeps {m : Parts} {a : State} (hm : Parts.sub 0x587084 m) (s : State) (src : Nat) (off : Nat) (v : Nat) (hs : a.Keeps m s) :
    a.Keeps m (State.setControl s src off v) := by
  unfold State.setControl
  with_reducible repeat' first
    | assumption | apply tblCmd_keeps (Keeps.sub_of hm (by decide)) | apply State.setTblSet_keeps (Keeps.sub_of hm (by decide))
    | split
theorem State.groveRestart_keeps {m : Parts} {a : State} (hm : Parts.sub 0x4000 m) (s : State) (t : Thr) (v : Nat) (hs : a.Keeps m s) :
    a.Keeps m (State.groveRestart s t v) := by
  unfold State.groveRestart
  with_reducible repeat' first
    | assumption | intro _ | apply State.restartThread_keeps (Keeps.sub_of hm (by decide)) | apply Keeps.foldl | split
theorem State.devWrite_keeps {m : Parts} {a : State} (hm : Parts.sub 0x587686 m) (s : State) (t : Thr) (off : Nat) (len : Nat) (v : Nat) (hs : a.Keeps m s) :
    a.Keeps m (State.devWrite s t off len v) := by
  unfold State.devWrite
  with_reducible repeat' first
    | assumption | dsimp only | apply State.setTblSet_keeps (Keeps.sub_of hm (by decide))
    | apply State.setControl_keeps (Keeps.sub_of hm (by decide)) | apply State.frmCmd_keeps (Keeps.sub_of hm (by decide))
    | apply State.groveRestart_keeps (Keeps.sub_of hm (by decide)) | apply State.writeLogCi_keeps (Keeps.sub_of hm (by decide))
    | apply State.writeCandCi_keeps (Keeps.sub_of hm (by decide)) | split
theorem State.svcRead_keeps {m : Parts} {a : State} (hm : Parts.sub 0x790007 m) (s : State) (t : Thr) (y2 : Nat) (len : Nat) (right : Nat) (host : List HostCpl) (hs : a.Keeps m s) :
    a.KeepsP m (State.svcRead s t y2 len right host) := by
  unfold State.svcRead
  with_reducible repeat' first
    | assumption | apply State.fbCheck_keeps (Keeps.sub_of hm (by decide))
    | apply State.fresh_keeps (Keeps.sub_of hm (by decide)) | apply State.seeRefusal_keeps (Keeps.sub_of hm (by decide))
    | apply State.askTranslation_keeps (Keeps.sub_of hm (by decide)) | apply State.hostAsk_keeps (Keeps.sub_of hm (by decide))
    | simp only [Keeps.P_iff, Keeps.Q_iff, Keeps.P_mk] | split
    | refine Keeps.some_of (by assumption) ?_ | refine Keeps.someP_of' (by assumption) ?_
theorem State.breakRes_keeps {m : Parts} {a : State} (hm : Parts.sub 0x4000 m) (s : State) (t : Thr) (y2 : Nat) (len : Nat) (hs : a.Keeps m s) :
    a.Keeps m (State.breakRes s t y2 len) := by
  unfold State.breakRes
  with_reducible repeat' first
    | assumption | apply State.setSvc_keeps (Keeps.sub_of hm (by decide)) | refine Keeps.upd ?_ | simp only [Keeps.mk_iff]
    | split
theorem State.svcWrite_keeps {m : Parts} {a : State} (hm : Parts.sub 0x3587686 m) (s : State) (t : Thr) (y2 : Nat) (len : Nat) (v : Nat) (right : Nat) (hs : a.Keeps m s) :
    a.KeepsP m (State.svcWrite s t y2 len v right) := by
  unfold State.svcWrite
  with_reducible repeat' first
    | assumption | apply State.breakRes_keeps (Keeps.sub_of hm (by decide))
    | apply State.setThread_keeps (Keeps.sub_of hm (by decide)) | apply State.fbCheck_keeps (Keeps.sub_of hm (by decide))
    | apply State.setSvc_keeps (Keeps.sub_of hm (by decide)) | apply State.devWrite_keeps (Keeps.sub_of hm (by decide))
    | apply State.memPut_keeps (Keeps.sub_of hm (by decide)) | apply State.seeRefusal_keeps (Keeps.sub_of hm (by decide))
    | apply State.askTranslation_keeps (Keeps.sub_of hm (by decide)) | apply State.hostSend_keeps (Keeps.sub_of hm (by decide))
    | simp only [Keeps.P_iff, Keeps.P_mk] | split
    | refine Keeps.some_of (by assumption) ?_
theorem State.svcRestart_keeps {m : Parts} {a : State} (hm : Parts.sub 0x4000 m) (s : State) (t : Thr) (v : Nat) (hs : a.Keeps m s) :
    a.Keeps m (State.svcRestart s t v) := by
  unfold State.svcRestart
  with_reducible repeat' first
    | assumption | intro _ | apply State.restartThread_keeps (Keeps.sub_of hm (by decide)) | apply Keeps.foldl | split
theorem State.csrWrite_keeps {m : Parts} {a : State} (hm : Parts.sub 0x4000 m) (s : State) (t : Thr) (n : Nat) (v : W64) (hs : a.Keeps m s) :
    a.KeepsO m (State.csrWrite s t n v) := by
  unfold State.csrWrite
  with_reducible repeat' first
    | assumption | exact Keeps.none0 | apply Keeps.some0 | apply State.setThread_keeps (Keeps.sub_of hm (by decide))
    | apply State.svcRestart_keeps (Keeps.sub_of hm (by decide)) | split
theorem State.goX_keeps {m : Parts} {a : State} (hm : Parts.sub 0x4000 m) (s : State) (t : Thr) (rd : Nat) (v : W64) (n : Nat) (hs : a.Keeps m s) :
    a.KeepsN m (State.goX s t rd v n) := by
  unfold State.goX
  with_reducible repeat' first
    | assumption | apply Keeps.on | apply State.setThread_keeps (Keeps.sub_of hm (by decide))
theorem State.goF_keeps {m : Parts} {a : State} (hm : Parts.sub 0x4000 m) (s : State) (t : Thr) (rd : Nat) (v : W64) (n : Nat) (hs : a.Keeps m s) :
    a.KeepsN m (State.goF s t rd v n) := by
  unfold State.goF
  with_reducible repeat' first
    | assumption | apply Keeps.on | apply State.setThread_keeps (Keeps.sub_of hm (by decide))
theorem State.goTo_keeps {m : Parts} {a : State} (hm : Parts.sub 0x4000 m) (s : State) (t : Thr) (pc : W64) (hs : a.Keeps m s) :
    a.KeepsN m (State.goTo s t pc) := by
  unfold State.goTo
  with_reducible repeat' first
    | assumption | apply Keeps.on | apply State.setThread_keeps (Keeps.sub_of hm (by decide))
theorem State.illegal_keeps {m : Parts} {a : State} (hm : Parts.sub 0x2 m) (s : State) (hs : a.Keeps m s) :
    a.KeepsN m (State.illegal s) := by
  unfold State.illegal
  with_reducible repeat' first
    | assumption | apply Keeps.fault | apply State.fresh_keeps (Keeps.sub_of hm (by decide))
    | simp only [Keeps.Q_iff]
theorem State.noteLoad_keeps {m : Parts} {a : State} (hm : Parts.sub 0x4000 m) (s : State) (t : Thr) (v : W64) (hs : a.Keeps m s) :
    a.Keeps m (State.noteLoad s t v) := by
  unfold State.noteLoad
  with_reducible repeat' first
    | assumption | dsimp only | apply State.endSpin_keeps (Keeps.sub_of hm (by decide))
    | apply State.setThread_keeps (Keeps.sub_of hm (by decide)) | split
theorem State.loadThen_keeps {m : Parts} {a : State} (hm : Parts.sub 0x794007 m) (s : State) (t : Thr) (y2 : W64) (len : Nat) (right : Nat) (cause : Nat) (host : List HostCpl) (k : State → Nat → Ran) (hs : a.Keeps m s) (hk : ∀ (z0 : State) (z1 : Nat), a.Keeps m z0 → a.KeepsN m (k z0 z1)) :
    a.KeepsN m (State.loadThen s t y2 len right cause host k) := by
  unfold State.loadThen
  with_reducible repeat' first
    | assumption | apply Keeps.fault | apply Keeps.wait | apply hk | apply State.svcRead_keeps (Keeps.sub_of hm (by decide))
    | apply State.setThread_keeps (Keeps.sub_of hm (by decide)) | split | refine Keeps.fst_of (by assumption) ?_
theorem State.storeThen_keeps {m : Parts} {a : State} (hm : Parts.sub 0x3587686 m) (s : State) (t : Thr) (y2 : W64) (len : Nat) (v : Nat) (right : Nat) (k : State → Ran) (hs : a.Keeps m s) (hk : ∀ (z0 : State), a.Keeps m z0 → a.KeepsN m (k z0)) :
    a.KeepsN m (State.storeThen s t y2 len v right k) := by
  unfold State.storeThen
  with_reducible repeat' first
    | assumption | apply Keeps.fault | apply Keeps.wait | apply hk | apply State.svcWrite_keeps (Keeps.sub_of hm (by decide))
    | apply State.endSpin_keeps (Keeps.sub_of hm (by decide)) | split | refine Keeps.fst_of (by assumption) ?_
theorem State.chanInsn_keeps {m : Parts} {a : State} (hm : Parts.sub 0x4002 m) (s : State) (t : Thr) (f3 : Nat) (i : Nat) (hs : a.Keeps m s) :
    a.KeepsN m (State.chanInsn s t f3 i) := by
  unfold State.chanInsn
  with_reducible repeat' first
    | assumption | apply Keeps.fault | apply State.fresh_keeps (Keeps.sub_of hm (by decide))
    | apply State.endSpin_keeps (Keeps.sub_of hm (by decide)) | apply State.setThread_keeps (Keeps.sub_of hm (by decide))
    | apply State.goX_keeps (Keeps.sub_of hm (by decide)) | apply State.chanPut_keeps (Keeps.sub_of hm (by decide))
    | apply State.chanSend_keeps (Keeps.sub_of hm (by decide)) | apply State.chanRecv_keeps (Keeps.sub_of hm (by decide))
    | simp only [Keeps.P_iff, Keeps.Q_iff] | split
theorem State.csrInsn_keeps {m : Parts} {a : State} (hm : Parts.sub 0x4002 m) (s : State) (t : Thr) (i : Nat) (n : Nat) (hs : a.Keeps m s) :
    a.KeepsN m (State.csrInsn s t i n) := by
  unfold State.csrInsn
  with_reducible repeat' first
    | assumption | dsimp only | apply State.illegal_keeps (Keeps.sub_of hm (by decide))
    | apply State.csrWrite_keeps (Keeps.sub_of hm (by decide)) | apply State.goX_keeps (Keeps.sub_of hm (by decide)) | split
    | refine Keeps.some_of (by assumption) ?_
theorem State.systemInsn_keeps {m : Parts} {a : State} (hm : Parts.sub 0x4002 m) (s : State) (t : Thr) (i : Nat) (n : Nat) (hs : a.Keeps m s) :
    a.KeepsN m (State.systemInsn s t i n) := by
  unfold State.systemInsn
  with_reducible repeat' first
    | assumption | apply Keeps.on | apply Keeps.fault | apply State.putThread_keeps (Keeps.sub_of hm (by decide))
    | apply State.fresh_keeps (Keeps.sub_of hm (by decide)) | apply State.goX_keeps (Keeps.sub_of hm (by decide))
    | apply State.illegal_keeps (Keeps.sub_of hm (by decide)) | apply State.csrInsn_keeps (Keeps.sub_of hm (by decide))
    | simp only [Keeps.Q_iff] | split
theorem State.amoInsn_keeps {m : Parts} {a : State} (hm : Parts.sub 0x3797687 m) (s : State) (t : Thr) (i : Nat) (n : Nat) (hs : a.Keeps m s) :
    a.KeepsN m (State.amoInsn s t i n) := by
  unfold State.amoInsn
  with_reducible repeat' first
    | assumption | intro _ | apply Keeps.fault | dsimp only | apply State.illegal_keeps (Keeps.sub_of hm (by decide))
    | apply State.loadThen_keeps (Keeps.sub_of hm (by decide)) | apply State.noteLoad_keeps (Keeps.sub_of hm (by decide))
    | apply State.goX_keeps (Keeps.sub_of hm (by decide)) | apply State.setThread_keeps (Keeps.sub_of hm (by decide))
    | apply State.storeThen_keeps (Keeps.sub_of hm (by decide)) | apply State.endSpin_keeps (Keeps.sub_of hm (by decide))
    | split
theorem State.floatInsn_keeps {m : Parts} {a : State} (hm : Parts.sub 0x4002 m) (s : State) (t : Thr) (i : Nat) (n : Nat) (hs : a.Keeps m s) :
    a.KeepsN m (State.floatInsn s t i n) := by
  unfold State.floatInsn
  with_reducible repeat' first
    | assumption | dsimp only | apply State.setThread_keeps (Keeps.sub_of hm (by decide))
    | apply State.goX_keeps (Keeps.sub_of hm (by decide)) | apply State.goF_keeps (Keeps.sub_of hm (by decide))
    | apply State.illegal_keeps (Keeps.sub_of hm (by decide)) | split
theorem State.vsetInsn_keeps {m : Parts} {a : State} (hm : Parts.sub 0x4002 m) (s : State) (t : Thr) (i : Nat) (n : Nat) (hs : a.Keeps m s) :
    a.KeepsN m (State.vsetInsn s t i n) := by
  unfold State.vsetInsn
  with_reducible repeat' first
    | assumption | dsimp only | apply State.illegal_keeps (Keeps.sub_of hm (by decide))
    | apply State.setThread_keeps (Keeps.sub_of hm (by decide)) | apply State.goX_keeps (Keeps.sub_of hm (by decide)) | split
theorem State.vecRead_keeps {m : Parts} {a : State} (hm : Parts.sub 0x794007 m) (s : State) (t : Thr) (host : List HostCpl) (y3 : List (Nat × Nat)) (hs : a.Keeps m s) :
    a.KeepsP m (State.vecRead s t host y3) := by
  induction y3 generalizing s host with
  | nil =>
    unfold State.vecRead
    with_reducible repeat' first
      | assumption | apply ih | apply State.svcRead_keeps (Keeps.sub_of hm (by decide))
      | apply State.setThread_keeps (Keeps.sub_of hm (by decide))
      | simp only [Keeps.P_mk] | split
      | refine Keeps.fst_of (by assumption) ?_
  | cons x l ih =>
    unfold State.vecRead
    with_reducible repeat' first
      | assumption | apply ih | apply State.svcRead_keeps (Keeps.sub_of hm (by decide))
      | apply State.setThread_keeps (Keeps.sub_of hm (by decide))
      | simp only [Keeps.P_iff, Keeps.P_mk] | split
      | refine Keeps.fst_of (by assumption) ?_
theorem State.vecWrite_keeps {m : Parts} {a : State} (hm : Parts.sub 0x3587686 m) (s : State) (t : Thr) (y2 : List (Nat × Nat)) (y3 : List Byte) (hs : a.Keeps m s) :
    a.KeepsP m (State.vecWrite s t y2 y3) := by
  induction y2 generalizing s y3 with
  | nil =>
    unfold State.vecWrite
    with_reducible repeat' first
      | assumption | apply ih | apply State.svcWrite_keeps (Keeps.sub_of hm (by decide))
      | simp only [Keeps.P_mk] | split
      | refine Keeps.fst_of (by assumption) ?_
  | cons x l ih =>
    unfold State.vecWrite
    with_reducible repeat' first
      | assumption | apply ih | apply State.svcWrite_keeps (Keeps.sub_of hm (by decide))
      | simp only [Keeps.P_mk] | split
      | refine Keeps.fst_of (by assumption) ?_
theorem State.vecMem_keeps {m : Parts} {a : State} (hm : Parts.sub 0x3797687 m) (s : State) (t : Thr) (i : Nat) (n : Nat) (host : List HostCpl) (hs : a.Keeps m s) :
    a.KeepsN m (State.vecMem s t i n host) := by
  unfold State.vecMem
  with_reducible repeat' first
    | assumption | apply Keeps.on | apply Keeps.fault | apply Keeps.wait | dsimp only
    | apply State.illegal_keeps (Keeps.sub_of hm (by decide)) | apply State.setThread_keeps (Keeps.sub_of hm (by decide))
    | apply State.vecRead_keeps (Keeps.sub_of hm (by decide)) | apply State.noteLoad_keeps (Keeps.sub_of hm (by decide))
    | apply State.vecWrite_keeps (Keeps.sub_of hm (by decide)) | apply State.endSpin_keeps (Keeps.sub_of hm (by decide)) | split
    | refine Keeps.fst_of (by assumption) ?_
theorem State.vecInsn_keeps {m : Parts} {a : State} (hm : Parts.sub 0x4002 m) (s : State) (t : Thr) (i : Nat) (n : Nat) (hs : a.Keeps m s) :
    a.KeepsN m (State.vecInsn s t i n) := by
  unfold State.vecInsn
  with_reducible repeat' first
    | assumption | apply Keeps.on | dsimp only | apply State.vsetInsn_keeps (Keeps.sub_of hm (by decide))
    | apply State.illegal_keeps (Keeps.sub_of hm (by decide)) | apply State.setThread_keeps (Keeps.sub_of hm (by decide))
    | split
theorem State.memInsn_keeps {m : Parts} {a : State} (hm : Parts.sub 0x3797687 m) (s : State) (t : Thr) (i : Nat) (n : Nat) (host : List HostCpl) (hs : a.Keeps m s) :
    a.KeepsN m (State.memInsn s t i n host) := by
  unfold State.memInsn
  with_reducible repeat' first
    | assumption | intro _ | apply Keeps.fault | dsimp only | apply State.storeThen_keeps (Keeps.sub_of hm (by decide))
    | apply State.goX_keeps (Keeps.sub_of hm (by decide)) | apply State.loadThen_keeps (Keeps.sub_of hm (by decide))
    | apply State.noteLoad_keeps (Keeps.sub_of hm (by decide)) | apply State.goF_keeps (Keeps.sub_of hm (by decide)) | split
theorem State.insn_keeps {m : Parts} {a : State} (hm : Parts.sub 0x3797687 m) (s : State) (t : Thr) (i : Nat) (n : Nat) (host : List HostCpl) (hs : a.Keeps m s) :
    a.KeepsN m (State.insn s t i n host) := by
  unfold State.insn
  with_reducible repeat' first
    | assumption | dsimp only | apply State.goX_keeps (Keeps.sub_of hm (by decide))
    | apply State.illegal_keeps (Keeps.sub_of hm (by decide)) | apply State.goTo_keeps (Keeps.sub_of hm (by decide))
    | apply State.setThread_keeps (Keeps.sub_of hm (by decide)) | apply State.memInsn_keeps (Keeps.sub_of hm (by decide))
    | apply State.vecMem_keeps (Keeps.sub_of hm (by decide)) | apply State.putThread_keeps (Keeps.sub_of hm (by decide))
    | apply State.amoInsn_keeps (Keeps.sub_of hm (by decide)) | apply State.floatInsn_keeps (Keeps.sub_of hm (by decide))
    | apply State.vecInsn_keeps (Keeps.sub_of hm (by decide)) | apply State.systemInsn_keeps (Keeps.sub_of hm (by decide))
    | split
theorem State.fetch_keeps {m : Parts} {a : State} (hm : Parts.sub 0x790007 m) (s : State) (t : Thr) (host : List HostCpl) (hs : a.Keeps m s) :
    a.KeepsP m (State.fetch s t host) := by
  unfold State.fetch
  with_reducible repeat' first
    | assumption | apply State.svcRead_keeps (Keeps.sub_of hm (by decide))
    | simp only [Keeps.P_mk] | split
    | refine Keeps.fst_of (by assumption) ?_
theorem settle_keeps {m : Parts} {a : State} (hm : Parts.sub 0x504604 m) (t : Thr) (y1 : Ran) (hy1 : a.KeepsN m y1) :
    a.Keeps m (settle t y1) := by
  cases y1 with
  | on s => exact hy1
  | fault s c v => exact State.threadFault_keeps (Keeps.sub_of hm (by decide)) _ _ _ _ hy1
  | wait s => exact hy1
theorem State.runThread_keeps {m : Parts} {a : State} (hm : Parts.sub 0x3797687 m) (s : State) (t : Thr) (want : Option Nat) (host : List HostCpl) (hs : a.Keeps m s) :
    a.Keeps m (State.runThread s t want host) := by
  unfold State.runThread
  with_reducible repeat' first
    | assumption | apply Keeps.fault | apply State.fetch_keeps (Keeps.sub_of hm (by decide))
    | apply Machine.settle_keeps (Keeps.sub_of hm (by decide)) | apply State.chanInsn_keeps (Keeps.sub_of hm (by decide))
    | apply State.insn_keeps (Keeps.sub_of hm (by decide)) | apply State.illegal_keeps (Keeps.sub_of hm (by decide)) | split
    | refine Keeps.fst_of (by assumption) ?_

end Sys2Proof.Machine
end

