-- ==== Sys2Proof/Laws/KeepsService.lean ====
section
/-! SUPPORT. What the definitions of Machine/Service.lean keep: no part of the state changes but those of the mask, which is
`Parts` in bits (Safety.lean), and what every command keeps. -/
set_option Elab.async false
namespace Sys2Proof.Machine

theorem State.chRelease_keeps {m : Parts} {a : State} (hm : Parts.sub 0x4000 m) (s : State) (g : Nat) (ch : Nat) (hs : a.Keeps m s) :
    a.Keeps m (State.chRelease s g ch) := by
  unfold State.chRelease
  with_reducible repeat' first
    | assumption | dsimp only | apply State.setSvc_keeps (Keeps.sub_of hm (by decide))
    | apply State.setThread_keeps (Keeps.sub_of hm (by decide)) | split
theorem State.postTbl_keeps {m : Parts} {a : State} (hm : Parts.sub 0x2000 m) (s : State) (src : Nat) (hs : a.Keeps m s) :
    a.Keeps m (State.postTbl s src) := by
  unfold State.postTbl
  with_reducible repeat' first
    | assumption | dsimp only | apply State.setTblSet_keeps (Keeps.sub_of hm (by decide)) | split
theorem State.emptyCores_keeps {m : Parts} {a : State} (hm : Parts.sub 0x6604 m) (s : State) (g : Nat) (hs : a.Keeps m s) :
    a.Keeps m (State.emptyCores s g) := by
  unfold State.emptyCores
  with_reducible repeat' first
    | assumption | intro _ | apply State.dropHeld_keeps (Keeps.sub_of hm (by decide))
    | apply State.setSvc_keeps (Keeps.sub_of hm (by decide)) | apply Keeps.foldl | refine Keeps.upd ?_
    | simp only [Keeps.mk_iff] | split
theorem State.imageStart_keeps {m : Parts} {a : State} (hm : Parts.sub 0xe604 m) (s : State) (g : Nat) (image : Option (List Byte)) (hs : a.Keeps m s) :
    a.Keeps m (State.imageStart s g image) := by
  unfold State.imageStart
  with_reducible repeat' first
    | assumption | apply State.postTbl_keeps (Keeps.sub_of hm (by decide))
    | apply State.emptyCores_keeps (Keeps.sub_of hm (by decide)) | apply State.setSvc_keeps (Keeps.sub_of hm (by decide))
    | refine Keeps.upd ?_ | simp only [Keeps.mk_iff]
theorem execGroveServiceRestart_keeps {m : Parts} {a : State} (hm : Parts.sub 0x50e604 m) (g : Nat) (s : State) (hs : a.Keeps m s) :
    a.KeepsR m (execGroveServiceRestart g s) := by
  unfold execGroveServiceRestart
  with_reducible repeat' first
    | assumption | intro _ | dsimp only | apply whenRunning_keeps | apply State.imageStart_keeps (Keeps.sub_of hm (by decide))
    | apply State.setSvc_keeps (Keeps.sub_of hm (by decide)) | apply State.fireDev_keeps (Keeps.sub_of hm (by decide))
    | apply State.emptyCores_keeps (Keeps.sub_of hm (by decide)) | split
theorem execSvcInstruction_keeps {m : Parts} {a : State} (hm : Parts.sub 0x3797687 m) (t : Thr) (host : List HostCpl) (s : State) (hs : a.Keeps m s) :
    a.KeepsR m (execSvcInstruction t host s) := by
  unfold execSvcInstruction
  with_reducible repeat' first
    | assumption | intro _ | apply whenRunning_keeps | apply State.runThread_keeps (Keeps.sub_of hm (by decide))
theorem execChPut_keeps {m : Parts} {a : State} (hm : Parts.sub 0x3797687 m) (t : Thr) (s : State) (hs : a.Keeps m s) :
    a.KeepsR m (execChPut t s) := by
  unfold execChPut
  with_reducible repeat' first
    | assumption | intro _ | apply whenRunning_keeps | apply State.runThread_keeps (Keeps.sub_of hm (by decide))
theorem execChSend_keeps {m : Parts} {a : State} (hm : Parts.sub 0x3797687 m) (t : Thr) (s : State) (hs : a.Keeps m s) :
    a.KeepsR m (execChSend t s) := by
  unfold execChSend
  with_reducible repeat' first
    | assumption | intro _ | apply whenRunning_keeps | apply State.runThread_keeps (Keeps.sub_of hm (by decide))
theorem execChRecv_keeps {m : Parts} {a : State} (hm : Parts.sub 0x3797687 m) (t : Thr) (s : State) (hs : a.Keeps m s) :
    a.KeepsR m (execChRecv t s) := by
  unfold execChRecv
  with_reducible repeat' first
    | assumption | intro _ | apply whenRunning_keeps | apply State.runThread_keeps (Keeps.sub_of hm (by decide))
theorem execChGet_keeps {m : Parts} {a : State} (hm : Parts.sub 0x3797687 m) (t : Thr) (s : State) (hs : a.Keeps m s) :
    a.KeepsR m (execChGet t s) := by
  unfold execChGet
  with_reducible repeat' first
    | assumption | intro _ | apply whenRunning_keeps | apply State.runThread_keeps (Keeps.sub_of hm (by decide))
theorem execChPoll_keeps {m : Parts} {a : State} (hm : Parts.sub 0x3797687 m) (t : Thr) (s : State) (hs : a.Keeps m s) :
    a.KeepsR m (execChPoll t s) := by
  unfold execChPoll
  with_reducible repeat' first
    | assumption | intro _ | apply whenRunning_keeps | apply State.runThread_keeps (Keeps.sub_of hm (by decide))
theorem execThreadFault_keeps {m : Parts} {a : State} (hm : Parts.sub 0x504604 m) (t : Thr) (cause : Nat) (tval : W64) (s : State) (hs : a.Keeps m s) :
    a.KeepsR m (execThreadFault t cause tval s) := by
  unfold execThreadFault
  with_reducible repeat' first
    | assumption | intro _ | apply whenRunning_keeps | apply State.threadFault_keeps (Keeps.sub_of hm (by decide)) | split
theorem execStillnessDetect_keeps {m : Parts} {a : State} (hm : Parts.sub 0x504005 m) (g : Nat) (c : Nat) (s : State) (hs : a.Keeps m s) :
    a.KeepsR m (execStillnessDetect g c s) := by
  unfold execStillnessDetect
  with_reducible repeat' first
    | assumption | intro _ | apply whenRunning_keeps | apply State.upTo_keeps (Keeps.sub_of hm (by decide))
    | apply State.setSvc_keeps (Keeps.sub_of hm (by decide)) | apply State.fireDev_keeps (Keeps.sub_of hm (by decide))
    | apply State.svcCtr_keeps (Keeps.sub_of hm (by decide)) | apply State.notify_keeps (Keeps.sub_of hm (by decide)) | split
theorem execChannelStale_keeps {m : Parts} {a : State} (hm : Parts.sub 0x504005 m) (g : Nat) (ch : Nat) (s : State) (hs : a.Keeps m s) :
    a.KeepsR m (execChannelStale g ch s) := by
  unfold execChannelStale
  with_reducible repeat' first
    | assumption | intro _ | dsimp only | apply whenRunning_keeps | apply State.upTo_keeps (Keeps.sub_of hm (by decide))
    | apply State.setSvc_keeps (Keeps.sub_of hm (by decide)) | apply State.fireDev_keeps (Keeps.sub_of hm (by decide))
    | apply State.svcCtr_keeps (Keeps.sub_of hm (by decide)) | apply State.notify_keeps (Keeps.sub_of hm (by decide)) | split
theorem execChRelease_keeps {m : Parts} {a : State} (hm : Parts.sub 0x4000 m) (g : Nat) (ch : Nat) (s : State) (hs : a.Keeps m s) :
    a.KeepsR m (execChRelease g ch s) := by
  unfold execChRelease
  with_reducible repeat' first
    | assumption | intro _ | apply whenRunning_keeps | apply State.chRelease_keeps (Keeps.sub_of hm (by decide))
theorem svcStore_keeps {m : Parts} {a : State} (hm : Parts.sub 0x3587686 m) (s : State) (t : Thr) (off : Nat) (len : Nat) (v : Nat) (hs : a.Keeps m s) :
    a.Keeps m (svcStore s t off len v) := by
  unfold svcStore
  with_reducible repeat' first
    | assumption | apply State.devWrite_keeps (Keeps.sub_of hm (by decide))
    | apply State.svcWrite_keeps (Keeps.sub_of hm (by decide)) | apply State.endSpin_keeps (Keeps.sub_of hm (by decide))
    | apply State.threadFault_keeps (Keeps.sub_of hm (by decide)) | split | refine Keeps.fst_of (by assumption) ?_
theorem frmRow_keeps {m : Parts} {a : State} (hm : Parts.sub 0x3587686 m) (op : Nat) (t : Thr) (v : W64) (s : State) (hs : a.Keeps m s) :
    a.Keeps m (frmRow op t v s) := by
  unfold frmRow
  with_reducible repeat' first
    | assumption | apply svcStore_keeps (Keeps.sub_of hm (by decide)) | split
theorem execFrmTake_keeps {m : Parts} {a : State} (hm : Parts.sub 0x3587686 m) (t : Thr) (v : W64) (s : State) (hs : a.Keeps m s) :
    a.KeepsR m (execFrmTake t v s) := by
  unfold execFrmTake
  with_reducible repeat' first
    | assumption | apply whenRunning_keeps | apply frmRow_keeps (Keeps.sub_of hm (by decide))
theorem execFrmAlloc_keeps {m : Parts} {a : State} (hm : Parts.sub 0x3587686 m) (t : Thr) (v : W64) (s : State) (hs : a.Keeps m s) :
    a.KeepsR m (execFrmAlloc t v s) := by
  unfold execFrmAlloc
  with_reducible repeat' first
    | assumption | apply whenRunning_keeps | apply frmRow_keeps (Keeps.sub_of hm (by decide))
theorem execFrmSend_keeps {m : Parts} {a : State} (hm : Parts.sub 0x3587686 m) (t : Thr) (v : W64) (s : State) (hs : a.Keeps m s) :
    a.KeepsR m (execFrmSend t v s) := by
  unfold execFrmSend
  with_reducible repeat' first
    | assumption | apply whenRunning_keeps | apply frmRow_keeps (Keeps.sub_of hm (by decide))
theorem execFrmFree_keeps {m : Parts} {a : State} (hm : Parts.sub 0x3587686 m) (t : Thr) (v : W64) (s : State) (hs : a.Keeps m s) :
    a.KeepsR m (execFrmFree t v s) := by
  unfold execFrmFree
  with_reducible repeat' first
    | assumption | apply whenRunning_keeps | apply frmRow_keeps (Keeps.sub_of hm (by decide))
theorem execSvcRestartWrite_keeps {m : Parts} {a : State} (hm : Parts.sub 0x4000 m) (t : Thr) (v : BitVec 4) (s : State) (hs : a.Keeps m s) :
    a.KeepsR m (execSvcRestartWrite t v s) := by
  unfold execSvcRestartWrite
  with_reducible repeat' first
    | assumption | intro _ | apply whenRunning_keeps | apply State.svcRestart_keeps (Keeps.sub_of hm (by decide)) | split
theorem execGroveRestartWrite_keeps {m : Parts} {a : State} (hm : Parts.sub 0x3587686 m) (t : Thr) (v : BitVec 16) (s : State) (hs : a.Keeps m s) :
    a.KeepsR m (execGroveRestartWrite t v s) := by
  unfold execGroveRestartWrite
  with_reducible repeat' first
    | assumption | intro _ | apply whenRunning_keeps | apply svcStore_keeps (Keeps.sub_of hm (by decide))
theorem execLogCiWrite_keeps {m : Parts} {a : State} (hm : Parts.sub 0x3587686 m) (g : Nat) (v : W32) (s : State) (hs : a.Keeps m s) :
    a.KeepsR m (execLogCiWrite g v s) := by
  unfold execLogCiWrite
  with_reducible repeat' first
    | assumption | intro _ | apply whenRunning_keeps | apply svcStore_keeps (Keeps.sub_of hm (by decide))
theorem execCandCiWrite_keeps {m : Parts} {a : State} (hm : Parts.sub 0x3587686 m) (g : Nat) (v : W32) (s : State) (hs : a.Keeps m s) :
    a.KeepsR m (execCandCiWrite g v s) := by
  unfold execCandCiWrite
  with_reducible repeat' first
    | assumption | intro _ | apply whenRunning_keeps | apply svcStore_keeps (Keeps.sub_of hm (by decide))
theorem State.builtinInsert_keeps {m : Parts} {a : State} (hm : Parts.sub 0x506004 m) (s : State) (e : BitVec 512) (hs : a.Keeps m s) :
    a.KeepsP m (State.builtinInsert s e) := by
  unfold State.builtinInsert
  with_reducible repeat' first
    | assumption | apply State.hashOp_keeps (Keeps.sub_of hm (by decide))
theorem State.slowDecide_keeps {m : Parts} {a : State} (hm : Parts.sub 0x506004 m) (s : State) (g : Nat) (f : FrameRec) (hs : a.Keeps m s) :
    a.KeepsP m (State.slowDecide s g f) := by
  unfold State.slowDecide
  with_reducible repeat' first
    | assumption | apply State.builtinInsert_keeps (Keeps.sub_of hm (by decide))
    | apply State.svcCtr_keeps (Keeps.sub_of hm (by decide))
    | simp only [Keeps.P_iff, Keeps.P_mk] | split
theorem State.slowTake_keeps {m : Parts} {a : State} (hm : Parts.sub 0x506604 m) (s : State) (g : Nat) (hs : a.Keeps m s) :
    a.Keeps m (State.slowTake s g) := by
  unfold State.slowTake
  with_reducible repeat' first
    | assumption | apply State.slowDecide_keeps (Keeps.sub_of hm (by decide))
    | apply State.svcCtr_keeps (Keeps.sub_of hm (by decide)) | apply State.svcSend_keeps (Keeps.sub_of hm (by decide))
    | apply State.reap_keeps (Keeps.sub_of hm (by decide)) | apply State.dropTag_keeps (Keeps.sub_of hm (by decide))
    | simp only [Keeps.P_iff] | split
theorem execSlowpathFrame_keeps {m : Parts} {a : State} (hm : Parts.sub 0x506604 m) (g : Nat) (s : State) (hs : a.Keeps m s) :
    a.KeepsR m (execSlowpathFrame g s) := by
  unfold execSlowpathFrame
  with_reducible repeat' first
    | assumption | intro _ | apply whenRunning_keeps | apply State.slowTake_keeps (Keeps.sub_of hm (by decide))
theorem execPolicyCandidate_keeps {m : Parts} {a : State} (hm : Parts.sub 0x506004 m) (g : Nat) (s : State) (hs : a.Keeps m s) :
    a.KeepsR m (execPolicyCandidate g s) := by
  unfold execPolicyCandidate
  with_reducible repeat' first
    | assumption | intro _ | apply whenRunning_keeps | apply State.setSvc_keeps (Keeps.sub_of hm (by decide))
    | apply State.svcCtr_keeps (Keeps.sub_of hm (by decide)) | apply State.builtinInsert_keeps (Keeps.sub_of hm (by decide))
    | simp only [Keeps.P_iff] | split
theorem execLearnLogMove_keeps {m : Parts} {a : State} (hm : Parts.sub 0x6000 m) (s : State) (hs : a.Keeps m s) :
    a.KeepsR m (execLearnLogMove s) := by
  unfold execLearnLogMove
  with_reducible repeat' first
    | assumption | intro _ | apply whenRunning_keeps | apply State.setSvc_keeps (Keeps.sub_of hm (by decide))
    | refine Keeps.upd ?_ | simp only [Keeps.mk_iff] | split
theorem svcStageBody_keeps {m : Parts} {a : State} (hm : Parts.sub 0x4000 m) (s0 : State) (r0 : Request) (hs0 : a.Keeps m s0) :
    a.KeepsE m (svcStageBody s0 r0) := by
  unfold svcStageBody
  with_reducible repeat' first
    | assumption | apply chk_keeps | apply done_keeps | refine Keeps.upd ?_ | simp only [Keeps.mk_iff]
theorem execServiceStage_keeps {m : Parts} {a : State} (hm : Parts.sub 0x504165 m) (s : State) (hs : a.Keeps m s) :
    a.KeepsR m (execServiceStage s) := by
  unfold execServiceStage
  with_reducible repeat' first
    | assumption | apply slaotRow_keeps (Keeps.sub_of hm (by decide)) | apply svcStageBody_keeps (Keeps.sub_of hm (by decide))
theorem svcGate_keeps {m : Parts} {a : State} (s : State) (r : Request) (gs : List Nat) (k : Except Nat Done) (hs : a.Keeps m s) (hk : a.KeepsE m k) :
    a.KeepsE m (svcGate s r gs k) := by
  unfold svcGate
  with_reducible repeat' first
    | assumption | apply chk_keeps
theorem svcLoadBody_keeps {m : Parts} {a : State} (hm : Parts.sub 0x100 m) (s0 : State) (r0 : Request) (hs0 : a.Keeps m s0) :
    a.KeepsE m (svcLoadBody s0 r0) := by
  unfold svcLoadBody
  with_reducible repeat' first
    | assumption | apply chk_keeps | apply svcGate_keeps | apply startOp_keeps (Keeps.sub_of hm (by decide)) | split
theorem execServiceLoad_keeps {m : Parts} {a : State} (hm : Parts.sub 0x500165 m) (s : State) (hs : a.Keeps m s) :
    a.KeepsR m (execServiceLoad s) := by
  unfold execServiceLoad
  with_reducible repeat' first
    | assumption | apply slaotRow_keeps (Keeps.sub_of hm (by decide)) | apply svcLoadBody_keeps (Keeps.sub_of hm (by decide))
theorem execServiceLoadStep_keeps {m : Parts} {a : State} (hm : Parts.sub 0x58e765 m) (y0 : Nat) (s : State) (hs : a.Keeps m s) :
    a.KeepsR m (execServiceLoadStep y0 s) := by
  unfold execServiceLoadStep
  with_reducible repeat' first
    | assumption | intro _ | apply whenRunning_keeps | apply opRow_keeps (Keeps.sub_of hm (by decide))
    | apply State.extend_keeps (Keeps.sub_of hm (by decide)) | apply State.imageStart_keeps (Keeps.sub_of hm (by decide))
    | apply State.setOp_keeps (Keeps.sub_of hm (by decide)) | apply State.setSvc_keeps (Keeps.sub_of hm (by decide))
    | apply State.endOp_keeps (Keeps.sub_of hm (by decide)) | split
theorem svcRead1_keeps {m : Parts} {a : State} (k : State → Nat → List Byte) (s0 : State) (r0 : Request) (hs0 : a.Keeps m s0) :
    a.KeepsE m (svcRead1 k s0 r0) := by
  unfold svcRead1
  with_reducible repeat' first
    | assumption | apply chk_keeps | apply svcGate_keeps | apply done_keeps
theorem svcGetBody_keeps {m : Parts} {a : State} (s0 : State) (r0 : Request) (hs0 : a.Keeps m s0) :
    a.KeepsE m (svcGetBody s0 r0) := by
  unfold svcGetBody
  with_reducible repeat' first
    | assumption | apply svcRead1_keeps
theorem execServiceGet_keeps {m : Parts} {a : State} (hm : Parts.sub 0x500165 m) (s : State) (hs : a.Keeps m s) :
    a.KeepsR m (execServiceGet s) := by
  unfold execServiceGet
  with_reducible repeat' first
    | assumption | apply slaotRow_keeps (Keeps.sub_of hm (by decide)) | apply svcGetBody_keeps
theorem svcStatsBody_keeps {m : Parts} {a : State} (s0 : State) (r0 : Request) (hs0 : a.Keeps m s0) :
    a.KeepsE m (svcStatsBody s0 r0) := by
  unfold svcStatsBody
  with_reducible repeat' first
    | assumption | apply svcRead1_keeps
theorem execServiceStats_keeps {m : Parts} {a : State} (hm : Parts.sub 0x500165 m) (s : State) (hs : a.Keeps m s) :
    a.KeepsR m (execServiceStats s) := by
  unfold execServiceStats
  with_reducible repeat' first
    | assumption | apply slaotRow_keeps (Keeps.sub_of hm (by decide)) | apply svcStatsBody_keeps
theorem slowpathSetBody_keeps {m : Parts} {a : State} (hm : Parts.sub 0x80 m) (s0 : State) (r0 : Request) (hs0 : a.Keeps m s0) :
    a.KeepsE m (slowpathSetBody s0 r0) := by
  unfold slowpathSetBody
  with_reducible repeat' first
    | assumption | apply chk_keeps | apply svcGate_keeps | apply done_keeps | refine Keeps.upd ?_ | simp only [Keeps.mk_iff]
theorem execServiceSlowpathSet_keeps {m : Parts} {a : State} (hm : Parts.sub 0x5001e5 m) (s : State) (hs : a.Keeps m s) :
    a.KeepsR m (execServiceSlowpathSet s) := by
  unfold execServiceSlowpathSet
  with_reducible repeat' first
    | assumption | apply slaotRow_keeps (Keeps.sub_of hm (by decide))
    | apply slowpathSetBody_keeps (Keeps.sub_of hm (by decide))
theorem State.movePolicy_keeps {m : Parts} {a : State} (hm : Parts.sub 0x4000 m) (s : State) (old : Nat) (hs : a.Keeps m s) :
    a.Keeps m (State.movePolicy s old) := by
  unfold State.movePolicy
  with_reducible repeat' first
    | assumption | apply State.setSvc_keeps (Keeps.sub_of hm (by decide))
    | apply State.logToRing_keeps (Keeps.sub_of hm (by decide)) | apply Keeps.foldl | split
theorem policySetBody_keeps {m : Parts} {a : State} (hm : Parts.sub 0x4080 m) (s0 : State) (r0 : Request) (hs0 : a.Keeps m s0) :
    a.KeepsE m (policySetBody s0 r0) := by
  unfold policySetBody
  with_reducible repeat' first
    | assumption | apply chk_keeps | apply done_keeps | apply State.movePolicy_keeps (Keeps.sub_of hm (by decide))
    | refine Keeps.upd ?_ | simp only [Keeps.mk_iff]
theorem execServicePolicySet_keeps {m : Parts} {a : State} (hm : Parts.sub 0x5041e5 m) (s : State) (hs : a.Keeps m s) :
    a.KeepsR m (execServicePolicySet s) := by
  unfold execServicePolicySet
  with_reducible repeat' first
    | assumption | apply slaotRow_keeps (Keeps.sub_of hm (by decide)) | apply policySetBody_keeps (Keeps.sub_of hm (by decide))
theorem learnReadBody_keeps {m : Parts} {a : State} (s0 : State) (r0 : Request) (hs0 : a.Keeps m s0) :
    a.KeepsE m (learnReadBody s0 r0) := by
  unfold learnReadBody
  with_reducible repeat' first
    | assumption | apply chk_keeps | apply done_keeps
theorem execServiceLearnRead_keeps {m : Parts} {a : State} (hm : Parts.sub 0x500165 m) (s : State) (hs : a.Keeps m s) :
    a.KeepsR m (execServiceLearnRead s) := by
  unfold execServiceLearnRead
  with_reducible repeat' first
    | assumption | apply slaotRow_keeps (Keeps.sub_of hm (by decide)) | apply learnReadBody_keeps

end Sys2Proof.Machine
end

