-- ==== Sys2Proof/Laws/KeepsNvme.lean ====
section
/-! SUPPORT. What the definitions of Machine/Nvme.lean keep: no part of the state changes but those of the mask, which is
`Parts` in bits (Safety.lean), and what every command keeps. -/
set_option Elab.async false
namespace Sys2Proof.Machine

theorem State.setNv_keeps {m : Parts} {a : State} (hm : Parts.sub 0x8000 m) (s : State) (f : Nat) (c : NvCtl) (hs : a.Keeps m s) :
    a.Keeps m (State.setNv s f c) := by
  unfold State.setNv
  with_reducible repeat' first
    | assumption | refine Keeps.upd ?_ | simp only [Keeps.mk_iff]
theorem State.writeCc_keeps {m : Parts} {a : State} (hm : Parts.sub 0x8000 m) (s : State) (f : Nat) (v : W32) (hs : a.Keeps m s) :
    a.Keeps m (State.writeCc s f v) := by
  unfold State.writeCc
  with_reducible repeat' first
    | assumption | dsimp only | apply State.setNv_keeps (Keeps.sub_of hm (by decide)) | split
theorem State.nvRegWrite_keeps {m : Parts} {a : State} (hm : Parts.sub 0x8000 m) (s : State) (f : Nat) (off : Nat) (v : Nat) (hs : a.Keeps m s) :
    a.Keeps m (State.nvRegWrite s f off v) := by
  unfold State.nvRegWrite
  with_reducible repeat' first
    | assumption | apply State.setNv_keeps (Keeps.sub_of hm (by decide))
    | apply State.writeCc_keeps (Keeps.sub_of hm (by decide)) | split
theorem State.svcHostWrites_keeps {m : Parts} {a : State} (hm : Parts.sub 0x580004 m) (s : State) (f : Nat) (l : List (Nat × List Byte)) (hs : a.Keeps m s) :
    a.KeepsP m (State.svcHostWrites s f l) := by
  unfold State.svcHostWrites
  with_reducible repeat' first
    | assumption | apply State.dmaWritesBy_keeps (Keeps.sub_of hm (by decide))
theorem State.nvEntry_keeps {m : Parts} {a : State} (hm : Parts.sub 0x588004 m) (old : State) (s : State) (f : Nat) (sq : Nat) (cid : Nat) (dw0 : Nat) (status : Nat) (hold : a.Keeps m old) (hs : a.Keeps m s) :
    a.Keeps m (State.nvEntry old s f sq cid dw0 status) := by
  unfold State.nvEntry
  with_reducible repeat' first
    | assumption | apply State.svcHostWrites_keeps (Keeps.sub_of hm (by decide))
    | apply State.setNv_keeps (Keeps.sub_of hm (by decide)) | apply State.interrupt_keeps (Keeps.sub_of hm (by decide))
    | simp only [Keeps.P_iff] | split
    | refine Keeps.fst_of (by assumption) ?_
theorem State.nvPost_keeps {m : Parts} {a : State} (hm : Parts.sub 0x588004 m) (old : State) (s : State) (f : Nat) (sq : Nat) (cid : Nat) (dw0 : Nat) (status : Nat) (data : List (Nat × List Byte)) (hold : a.Keeps m old) (hs : a.Keeps m s) :
    a.Keeps m (State.nvPost old s f sq cid dw0 status data) := by
  unfold State.nvPost
  with_reducible repeat' first
    | assumption | apply State.svcHostWrites_keeps (Keeps.sub_of hm (by decide))
    | apply State.nvEntry_keeps (Keeps.sub_of hm (by decide))
    | simp only [Keeps.P_iff] | split
    | refine Keeps.fst_of (by assumption) ?_
theorem State.nvEvent_keeps {m : Parts} {a : State} (hm : Parts.sub 0x588004 m) (s : State) (f : Nat) (dw0 : Nat) (hs : a.Keeps m s) :
    a.Keeps m (State.nvEvent s f dw0) := by
  unfold State.nvEvent
  with_reducible repeat' first
    | assumption | dsimp only | apply State.nvPost_keeps (Keeps.sub_of hm (by decide))
    | apply State.setNv_keeps (Keeps.sub_of hm (by decide)) | split
theorem State.nvBadDoorbell_keeps {m : Parts} {a : State} (hm : Parts.sub 0x588004 m) (s : State) (f : Nat) (info : Nat) (hs : a.Keeps m s) :
    a.Keeps m (State.nvBadDoorbell s f info) := by
  unfold State.nvBadDoorbell
  with_reducible repeat' first
    | assumption | apply State.nvEvent_keeps (Keeps.sub_of hm (by decide))
theorem State.nvSqTail_keeps {m : Parts} {a : State} (hm : Parts.sub 0x588004 m) (s : State) (f : Nat) (y : Nat) (v : Nat) (hs : a.Keeps m s) :
    a.Keeps m (State.nvSqTail s f y v) := by
  unfold State.nvSqTail
  with_reducible repeat' first
    | assumption | dsimp only | apply State.setNv_keeps (Keeps.sub_of hm (by decide))
    | apply State.nvBadDoorbell_keeps (Keeps.sub_of hm (by decide)) | split
theorem State.nvCqHead_keeps {m : Parts} {a : State} (hm : Parts.sub 0x588004 m) (s : State) (f : Nat) (y : Nat) (v : Nat) (hs : a.Keeps m s) :
    a.Keeps m (State.nvCqHead s f y v) := by
  unfold State.nvCqHead
  with_reducible repeat' first
    | assumption | dsimp only | apply State.setNv_keeps (Keeps.sub_of hm (by decide))
    | apply State.nvBadDoorbell_keeps (Keeps.sub_of hm (by decide)) | split
theorem State.svcHostReads_keeps {m : Parts} {a : State} (hm : Parts.sub 0x790005 m) (s : State) (f : Nat) (y2 : List (Nat × Nat)) (y3 : List HostCpl) (y4 : List Byte) (hs : a.Keeps m s) :
    a.KeepsT m (State.svcHostReads s f y2 y3 y4) := by
  induction y2 generalizing s y3 y4 with
  | nil =>
    unfold State.svcHostReads
    with_reducible repeat' first
      | assumption | apply ih | apply State.askRead_keeps (Keeps.sub_of hm (by decide))
      | simp only [Keeps.P_mk, Keeps.T_mk] | split
      | refine Keeps.fst2_of (by assumption) ?_
  | cons x l ih =>
    unfold State.svcHostReads
    with_reducible repeat' first
      | assumption | apply ih | apply State.askRead_keeps (Keeps.sub_of hm (by decide))
      | simp only [Keeps.T_iff, Keeps.T_mk] | split
      | refine Keeps.fst2_of (by assumption) ?_
theorem State.dnr_keeps {m : Parts} {a : State} (hm : Parts.sub 0x2 m) (s : State) (status : Nat) (hs : a.Keeps m s) :
    a.KeepsQ m (State.dnr s status) := by
  unfold State.dnr
  with_reducible repeat' first
    | assumption | apply State.fresh_keeps (Keeps.sub_of hm (by decide))
    | simp only [Keeps.Q_iff, Keeps.Q_mk]
theorem State.nvFetch_keeps {m : Parts} {a : State} (hm : Parts.sub 0x798005 m) (s : State) (f : Nat) (sq : Nat) (e : Sqe) (rd : List (Nat × Nat)) (k : State → List Byte → Option (List Byte) → State) (hs : a.Keeps m s) (hk : ∀ (z0 : State) (z1 : List Byte) (z2 : Option (List Byte)), a.Keeps m z0 → a.Keeps m (k z0 z1 z2)) :
    a.Keeps m (State.nvFetch s f sq e rd k) := by
  unfold State.nvFetch
  with_reducible repeat' first
    | assumption | dsimp only | apply hk | apply State.svcHostReads_keeps (Keeps.sub_of hm (by decide))
    | apply State.setNv_keeps (Keeps.sub_of hm (by decide)) | split | refine Keeps.fst2_of (by assumption) ?_
theorem State.nvAnswer_keeps {m : Parts} {a : State} (hm : Parts.sub 0x588006 m) (old : State) (s : State) (f : Nat) (sq : Nat) (e : Sqe) (y5 : NvAns) (hold : a.Keeps m old) (hs : a.Keeps m s) (hy5 : a.KeepsA m y5) :
    a.Keeps m (State.nvAnswer old s f sq e y5) := by
  unfold State.nvAnswer
  with_reducible repeat' first
    | assumption | exact Keeps.okA_of' rfl hy5 | apply State.nvPost_keeps (Keeps.sub_of hm (by decide))
    | apply State.dnr_keeps (Keeps.sub_of hm (by decide)) | apply State.setNv_keeps (Keeps.sub_of hm (by decide))
    | simp only [Keeps.Q_iff] | split
    | refine Keeps.okA_of' (by assumption) ?_
theorem State.nvRun_keeps {m : Parts} {a : State} (hm : Parts.sub 0x798007 m) (s : State) (f : Nat) (sq : Nat) (e : Sqe) (k : State → NvAns) (hs : a.Keeps m s) (hk : ∀ (z0 : State), a.Keeps m z0 → a.KeepsA m (k z0)) :
    a.Keeps m (State.nvRun s f sq e k) := by
  unfold State.nvRun
  with_reducible repeat' first
    | assumption | intro _ | apply hk | apply State.nvFetch_keeps (Keeps.sub_of hm (by decide))
    | apply State.nvAnswer_keeps (Keeps.sub_of hm (by decide))
theorem nvAdmin_keeps {m : Parts} {a : State} (hm : Parts.sub 0x798007 m) (op : Nat) (f : Nat) (e : Sqe) (k : State → NvAns) (s : State) (hs : a.Keeps m s) (hk : ∀ (z0 : State), a.Keeps m z0 → a.KeepsA m (k z0)) :
    a.Keeps m (nvAdmin op f e k s) := by
  unfold nvAdmin
  with_reducible repeat' first
    | assumption | apply hk | apply State.nvRun_keeps (Keeps.sub_of hm (by decide)) | split
theorem nvHost_keeps {m : Parts} {a : State} (hm : Parts.sub 0x580004 m) (s : State) (f : Nat) (pg : Nat) (off : Nat) (k : State → State) (hs : a.Keeps m s) (hk : ∀ (z0 : State), a.Keeps m z0 → a.Keeps m (k z0)) :
    a.Keeps m (nvHost s f pg off k) := by
  unfold nvHost
  with_reducible repeat' first
    | assumption | apply hk | apply hostRequest_keeps (Keeps.sub_of hm (by decide)) | split
theorem execNvmeCcWrite_keeps {m : Parts} {a : State} (hm : Parts.sub 0x588004 m) (f : Nat) (v : W32) (s : State) (hs : a.Keeps m s) :
    a.KeepsR m (execNvmeCcWrite f v s) := by
  unfold execNvmeCcWrite
  with_reducible repeat' first
    | assumption | intro _ | apply whenServing_keeps | apply nvHost_keeps (Keeps.sub_of hm (by decide))
    | apply State.writeCc_keeps (Keeps.sub_of hm (by decide))
theorem execNvmeSqTailDoorbell_keeps {m : Parts} {a : State} (hm : Parts.sub 0x588004 m) (f : Nat) (y : Nat) (v : Nat) (s : State) (hs : a.Keeps m s) :
    a.KeepsR m (execNvmeSqTailDoorbell f y v s) := by
  unfold execNvmeSqTailDoorbell
  with_reducible repeat' first
    | assumption | intro _ | apply whenServing_keeps | apply nvHost_keeps (Keeps.sub_of hm (by decide))
    | apply State.nvSqTail_keeps (Keeps.sub_of hm (by decide)) | split
theorem execNvmeCqHeadDoorbell_keeps {m : Parts} {a : State} (hm : Parts.sub 0x588004 m) (f : Nat) (y : Nat) (v : Nat) (s : State) (hs : a.Keeps m s) :
    a.KeepsR m (execNvmeCqHeadDoorbell f y v s) := by
  unfold execNvmeCqHeadDoorbell
  with_reducible repeat' first
    | assumption | intro _ | apply whenServing_keeps | apply nvHost_keeps (Keeps.sub_of hm (by decide))
    | apply State.nvCqHead_keeps (Keeps.sub_of hm (by decide)) | split
theorem execNvCreateIoSq_keeps {m : Parts} {a : State} (hm : Parts.sub 0x798007 m) (f : Nat) (e : Sqe) (s : State) (hs : a.Keeps m s) :
    a.KeepsR m (execNvCreateIoSq f e s) := by
  unfold execNvCreateIoSq
  with_reducible repeat' first
    | assumption | intro _ | exact Keeps.errorA _ | apply Keeps.okA | apply whenRunning_keeps
    | apply nvAdmin_keeps (Keeps.sub_of hm (by decide)) | apply State.setNv_keeps (Keeps.sub_of hm (by decide))
    | simp only [Keeps.P_mk] | split
theorem execNvDeleteIoSq_keeps {m : Parts} {a : State} (hm : Parts.sub 0x798007 m) (f : Nat) (e : Sqe) (s : State) (hs : a.Keeps m s) :
    a.KeepsR m (execNvDeleteIoSq f e s) := by
  unfold execNvDeleteIoSq
  with_reducible repeat' first
    | assumption | intro _ | exact Keeps.errorA _ | apply Keeps.okA | apply Keeps.next | apply whenRunning_keeps
    | apply nvAdmin_keeps (Keeps.sub_of hm (by decide)) | apply State.setNv_keeps (Keeps.sub_of hm (by decide))
    | apply State.nvPost_keeps (Keeps.sub_of hm (by decide)) | apply Keeps.foldl
    | simp only [Keeps.P_mk] | split
theorem execNvCreateIoCq_keeps {m : Parts} {a : State} (hm : Parts.sub 0x798007 m) (f : Nat) (e : Sqe) (s : State) (hs : a.Keeps m s) :
    a.KeepsR m (execNvCreateIoCq f e s) := by
  unfold execNvCreateIoCq
  with_reducible repeat' first
    | assumption | intro _ | exact Keeps.errorA _ | apply Keeps.okA | apply whenRunning_keeps
    | apply nvAdmin_keeps (Keeps.sub_of hm (by decide)) | apply State.setNv_keeps (Keeps.sub_of hm (by decide))
    | simp only [Keeps.P_mk] | split
theorem execNvDeleteIoCq_keeps {m : Parts} {a : State} (hm : Parts.sub 0x798007 m) (f : Nat) (e : Sqe) (s : State) (hs : a.Keeps m s) :
    a.KeepsR m (execNvDeleteIoCq f e s) := by
  unfold execNvDeleteIoCq
  with_reducible repeat' first
    | assumption | intro _ | exact Keeps.errorA _ | apply Keeps.okA | apply whenRunning_keeps
    | apply nvAdmin_keeps (Keeps.sub_of hm (by decide)) | apply State.setNv_keeps (Keeps.sub_of hm (by decide))
    | simp only [Keeps.P_mk] | split
theorem State.freeBytes_keeps {m : Parts} {a : State} (hm : Parts.sub 0x2 m) (s : State) (n : Nat) (hs : a.Keeps m s) :
    a.KeepsQ m (State.freeBytes s n) := by
  unfold State.freeBytes
  with_reducible repeat' first
    | assumption | apply State.drawn_keeps (Keeps.sub_of hm (by decide))
    | simp only [Keeps.Q_mk]
theorem execNvGetLogPage_keeps {m : Parts} {a : State} (hm : Parts.sub 0x798007 m) (f : Nat) (e : Sqe) (s : State) (hs : a.Keeps m s) :
    a.KeepsR m (execNvGetLogPage f e s) := by
  unfold execNvGetLogPage
  with_reducible repeat' first
    | assumption | intro _ | exact Keeps.errorA _ | apply Keeps.okA | apply whenRunning_keeps
    | apply nvAdmin_keeps (Keeps.sub_of hm (by decide)) | apply State.freeBytes_keeps (Keeps.sub_of hm (by decide))
    | apply State.setNv_keeps (Keeps.sub_of hm (by decide))
    | simp only [Keeps.Q_iff, Keeps.P_mk, Keeps.Q_mk] | split
theorem State.identifyData_keeps {m : Parts} {a : State} (hm : Parts.sub 0x2 m) (s : State) (f : Nat) (cns : Nat) (nsid : Nat) (hs : a.Keeps m s) :
    a.KeepsB m (State.identifyData s f cns nsid) := by
  unfold State.identifyData
  with_reducible repeat' first
    | assumption | exact Keeps.errorB _ | apply Keeps.okB | apply State.freeBytes_keeps (Keeps.sub_of hm (by decide))
    | simp only [Keeps.Q_iff, Keeps.Q_mk] | split
theorem execNvIdentify_keeps {m : Parts} {a : State} (hm : Parts.sub 0x798007 m) (f : Nat) (e : Sqe) (s : State) (hs : a.Keeps m s) :
    a.KeepsR m (execNvIdentify f e s) := by
  unfold execNvIdentify
  with_reducible repeat' first
    | assumption | intro _ | exact Keeps.errorA _ | apply Keeps.okA | apply whenRunning_keeps
    | apply nvAdmin_keeps (Keeps.sub_of hm (by decide)) | apply State.identifyData_keeps (Keeps.sub_of hm (by decide))
    | simp only [Keeps.P_mk] | split
    | refine Keeps.okB_of' (by assumption) ?_
theorem execNvAbort_keeps {m : Parts} {a : State} (hm : Parts.sub 0x798007 m) (f : Nat) (e : Sqe) (s : State) (hs : a.Keeps m s) :
    a.KeepsR m (execNvAbort f e s) := by
  unfold execNvAbort
  with_reducible repeat' first
    | assumption | intro _ | apply Keeps.okA | apply Keeps.next | apply whenRunning_keeps
    | apply nvAdmin_keeps (Keeps.sub_of hm (by decide)) | apply State.setNv_keeps (Keeps.sub_of hm (by decide))
    | apply State.nvPost_keeps (Keeps.sub_of hm (by decide))
    | simp only [Keeps.P_mk] | split
theorem execNvSetFeatures_keeps {m : Parts} {a : State} (hm : Parts.sub 0x798007 m) (f : Nat) (e : Sqe) (s : State) (hs : a.Keeps m s) :
    a.KeepsR m (execNvSetFeatures f e s) := by
  unfold execNvSetFeatures
  with_reducible repeat' first
    | assumption | intro _ | exact Keeps.errorA _ | apply Keeps.okA | apply whenRunning_keeps
    | apply nvAdmin_keeps (Keeps.sub_of hm (by decide)) | apply State.setNv_keeps (Keeps.sub_of hm (by decide))
    | simp only [Keeps.P_mk] | split
theorem execNvGetFeatures_keeps {m : Parts} {a : State} (hm : Parts.sub 0x798007 m) (f : Nat) (e : Sqe) (s : State) (hs : a.Keeps m s) :
    a.KeepsR m (execNvGetFeatures f e s) := by
  unfold execNvGetFeatures
  with_reducible repeat' first
    | assumption | intro _ | exact Keeps.errorA _ | apply Keeps.okA | apply whenRunning_keeps
    | apply nvAdmin_keeps (Keeps.sub_of hm (by decide))
    | simp only [Keeps.P_mk] | split
theorem execNvAsyncEventRequest_keeps {m : Parts} {a : State} (hm : Parts.sub 0x798007 m) (f : Nat) (e : Sqe) (s : State) (hs : a.Keeps m s) :
    a.KeepsR m (execNvAsyncEventRequest f e s) := by
  unfold execNvAsyncEventRequest
  with_reducible repeat' first
    | assumption | intro _ | exact Keeps.errorA _ | apply Keeps.okA | apply whenRunning_keeps
    | apply State.nvRun_keeps (Keeps.sub_of hm (by decide)) | apply State.setNv_keeps (Keeps.sub_of hm (by decide))
    | apply State.nvFetch_keeps (Keeps.sub_of hm (by decide))
    | simp only [Keeps.P_mk] | split
theorem execNvInvalidOpcode_keeps {m : Parts} {a : State} (hm : Parts.sub 0x798007 m) (f : Nat) (sq : Nat) (e : Sqe) (s : State) (hs : a.Keeps m s) :
    a.KeepsR m (execNvInvalidOpcode f sq e s) := by
  unfold execNvInvalidOpcode
  with_reducible repeat' first
    | assumption | intro _ | exact Keeps.errorA _ | dsimp only | apply whenRunning_keeps
    | apply State.nvRun_keeps (Keeps.sub_of hm (by decide)) | split
theorem State.nvSend_keeps {m : Parts} {a : State} (hm : Parts.sub 0x4402 m) (s : State) (g : Nat) (x : NvmeNs) (entry : List Byte) (data : List Byte) (hs : a.Keeps m s) :
    a.Keeps m (State.nvSend s g x entry data) := by
  unfold State.nvSend
  with_reducible repeat' first
    | assumption | intro _ | apply State.svcSend_keeps (Keeps.sub_of hm (by decide))
    | apply State.enterFrame_keeps (Keeps.sub_of hm (by decide)) | apply State.drawn_keeps (Keeps.sub_of hm (by decide))
    | apply Keeps.foldl | simp only [Keeps.Q_iff]
    | split
theorem State.takeInput_keeps {m : Parts} {a : State} (hm : Parts.sub 0x4604 m) (s : State) (g : Nat) (q : Nat) (y3 : Nat) (hs : a.Keeps m s) :
    a.KeepsO m (State.takeInput s g q y3) := by
  induction y3 generalizing s with
  | zero =>
    unfold State.takeInput
    with_reducible repeat' first
      | assumption | apply ih | exact Keeps.none0 | apply Keeps.some0 | apply State.takeSink_keeps (Keeps.sub_of hm (by decide))
      | apply State.svcCtr_keeps (Keeps.sub_of hm (by decide)) | split
  | succ n ih =>
    unfold State.takeInput
    with_reducible repeat' first
      | assumption | apply ih | exact Keeps.none0 | apply Keeps.some0 | apply State.takeSink_keeps (Keeps.sub_of hm (by decide))
      | apply State.svcCtr_keeps (Keeps.sub_of hm (by decide)) | split
theorem State.nvReply_keeps {m : Parts} {a : State} (hm : Parts.sub 0x4604 m) (s : State) (g : Nat) (x : NvmeNs) (e : Sqe) (hs : a.Keeps m s) :
    a.KeepsO m (State.nvReply s g x e) := by
  unfold State.nvReply
  with_reducible repeat' first
    | assumption | exact Keeps.none0 | apply Keeps.some0 | apply State.takeInput_keeps (Keeps.sub_of hm (by decide)) | split
theorem State.nvEnd_keeps {m : Parts} {a : State} (hm : Parts.sub 0x588004 m) (old : State) (s : State) (f : Nat) (i : NvIo) (status : Nat) (data : List (Nat × List Byte)) (hold : a.Keeps m old) (hs : a.Keeps m s) :
    a.Keeps m (State.nvEnd old s f i status data) := by
  unfold State.nvEnd
  with_reducible repeat' first
    | assumption | apply State.nvPost_keeps (Keeps.sub_of hm (by decide))
    | apply State.setNv_keeps (Keeps.sub_of hm (by decide))
theorem nvIo_keeps {m : Parts} {a : State} (hm : Parts.sub 0x79c607 m) (op : Nat) (f : Nat) (sq : Nat) (e : Sqe) (lba : Nat) (blocks : Nat) (moves : Bool) (rd : List (Nat × Nat)) (answer : Option (List Byte)) (s : State) (hs : a.Keeps m s) :
    a.Keeps m (nvIo op f sq e lba blocks moves rd answer s) := by
  unfold nvIo
  with_reducible repeat' first
    | assumption | intro _ | exact Keeps.errorA _ | dsimp only | apply State.nvEnd_keeps (Keeps.sub_of hm (by decide))
    | apply State.nvReply_keeps (Keeps.sub_of hm (by decide)) | apply State.nvRun_keeps (Keeps.sub_of hm (by decide))
    | apply State.nvFetch_keeps (Keeps.sub_of hm (by decide)) | apply State.nvPost_keeps (Keeps.sub_of hm (by decide))
    | apply State.nvSend_keeps (Keeps.sub_of hm (by decide)) | apply State.setNv_keeps (Keeps.sub_of hm (by decide))
    | apply Keeps.bindO | split | refine Keeps.some_of (by assumption) ?_
theorem execNvFlush_keeps {m : Parts} {a : State} (hm : Parts.sub 0x79c607 m) (f : Nat) (sq : Nat) (e : Sqe) (answered : Bool) (s : State) (hs : a.Keeps m s) :
    a.KeepsR m (execNvFlush f sq e answered s) := by
  unfold execNvFlush
  with_reducible repeat' first
    | assumption | apply whenRunning_keeps | apply nvIo_keeps (Keeps.sub_of hm (by decide))
theorem execNvWrite_keeps {m : Parts} {a : State} (hm : Parts.sub 0x79c607 m) (f : Nat) (sq : Nat) (e : Sqe) (data : List (Nat × Nat)) (answered : Bool) (s : State) (hs : a.Keeps m s) :
    a.KeepsR m (execNvWrite f sq e data answered s) := by
  unfold execNvWrite
  with_reducible repeat' first
    | assumption | apply whenRunning_keeps | apply nvIo_keeps (Keeps.sub_of hm (by decide))
theorem execNvRead_keeps {m : Parts} {a : State} (hm : Parts.sub 0x79c607 m) (f : Nat) (sq : Nat) (e : Sqe) (answer : Option (List Byte)) (s : State) (hs : a.Keeps m s) :
    a.KeepsR m (execNvRead f sq e answer s) := by
  unfold execNvRead
  with_reducible repeat' first
    | assumption | apply whenRunning_keeps | apply nvIo_keeps (Keeps.sub_of hm (by decide))
theorem execNvWriteZeroes_keeps {m : Parts} {a : State} (hm : Parts.sub 0x79c607 m) (f : Nat) (sq : Nat) (e : Sqe) (answered : Bool) (s : State) (hs : a.Keeps m s) :
    a.KeepsR m (execNvWriteZeroes f sq e answered s) := by
  unfold execNvWriteZeroes
  with_reducible repeat' first
    | assumption | apply whenRunning_keeps | apply nvIo_keeps (Keeps.sub_of hm (by decide))
theorem execNvDatasetManagement_keeps {m : Parts} {a : State} (hm : Parts.sub 0x79c607 m) (f : Nat) (sq : Nat) (e : Sqe) (answered : Bool) (s : State) (hs : a.Keeps m s) :
    a.KeepsR m (execNvDatasetManagement f sq e answered s) := by
  unfold execNvDatasetManagement
  with_reducible repeat' first
    | assumption | apply whenRunning_keeps | apply nvIo_keeps (Keeps.sub_of hm (by decide))
theorem execNvmeIoTimeout_keeps {m : Parts} {a : State} (hm : Parts.sub 0x588005 m) (f : Nat) (sq : Nat) (cid : Nat) (s : State) (hs : a.Keeps m s) :
    a.KeepsR m (execNvmeIoTimeout f sq cid s) := by
  unfold execNvmeIoTimeout
  with_reducible repeat' first
    | assumption | intro _ | dsimp only | apply whenRunning_keeps | apply State.upToClk_keeps (Keeps.sub_of hm (by decide))
    | apply State.nvEnd_keeps (Keeps.sub_of hm (by decide)) | split
theorem nvGate_keeps {m : Parts} {a : State} (s : State) (r : Request) (f : Nat) (k : Except Nat Done) (hs : a.Keeps m s) (hk : a.KeepsE m k) :
    a.KeepsE m (nvGate s r f k) := by
  unfold nvGate
  with_reducible repeat' first
    | assumption | apply chk_keeps
theorem nvmeSetBody_keeps {m : Parts} {a : State} (hm : Parts.sub 0x80 m) (s0 : State) (r0 : Request) (hs0 : a.Keeps m s0) :
    a.KeepsE m (nvmeSetBody s0 r0) := by
  unfold nvmeSetBody
  with_reducible repeat' first
    | assumption | apply chk_keeps | apply nvGate_keeps | apply done_keeps | refine Keeps.upd ?_ | simp only [Keeps.mk_iff]
theorem execServiceNvmeSet_keeps {m : Parts} {a : State} (hm : Parts.sub 0x5001e5 m) (s : State) (hs : a.Keeps m s) :
    a.KeepsR m (execServiceNvmeSet s) := by
  unfold execServiceNvmeSet
  with_reducible repeat' first
    | assumption | apply slaotRow_keeps (Keeps.sub_of hm (by decide)) | apply nvmeSetBody_keeps (Keeps.sub_of hm (by decide))
theorem nvmeNsSetBody_keeps {m : Parts} {a : State} (hm : Parts.sub 0x588084 m) (s0 : State) (r0 : Request) (hs0 : a.Keeps m s0) :
    a.KeepsE m (nvmeNsSetBody s0 r0) := by
  unfold nvmeNsSetBody
  with_reducible repeat' first
    | assumption | apply chk_keeps | apply nvGate_keeps | apply State.setNv_keeps (Keeps.sub_of hm (by decide))
    | apply done_keeps | apply State.nvEvent_keeps (Keeps.sub_of hm (by decide)) | refine Keeps.upd ?_
    | simp only [Keeps.mk_iff] | split
theorem execServiceNvmeNsSet_keeps {m : Parts} {a : State} (hm : Parts.sub 0x5881e5 m) (s : State) (hs : a.Keeps m s) :
    a.KeepsR m (execServiceNvmeNsSet s) := by
  unfold execServiceNvmeNsSet
  with_reducible repeat' first
    | assumption | apply slaotRow_keeps (Keeps.sub_of hm (by decide)) | apply nvmeNsSetBody_keeps (Keeps.sub_of hm (by decide))

end Sys2Proof.Machine
end

