-- ==== Sys2Proof/Laws/KeepsCipher.lean ====
section
/-! SUPPORT. What the definitions of Machine/Cipher.lean keep: no part of the state changes but those of the mask, which is
`Parts` in bits (Safety.lean), and what every command keeps. -/
set_option Elab.async false
namespace Sys2Proof.Machine

theorem State.setEngine_keeps {m : Parts} {a : State} (hm : Parts.sub 0x20000 m) (s : State) (g : Nat) (e : Nat) (x : Engine) (hs : a.Keeps m s) :
    a.Keeps m (State.setEngine s g e x) := by
  unfold State.setEngine
  with_reducible repeat' first
    | assumption | refine Keeps.upd ?_ | simp only [Keeps.mk_iff]
theorem State.setCKey_keeps {m : Parts} {a : State} (hm : Parts.sub 0x20000 m) (s : State) (i : Nat) (k : CKey) (hs : a.Keeps m s) :
    a.Keeps m (State.setCKey s i k) := by
  unfold State.setCKey
  with_reducible repeat' first
    | assumption | refine Keeps.upd ?_ | simp only [Keeps.mk_iff]
theorem State.setSa_keeps {m : Parts} {a : State} (hm : Parts.sub 0x20000 m) (s : State) (y1 : Nat) (x : Sa) (hs : a.Keeps m s) :
    a.Keeps m (State.setSa s y1 x) := by
  unfold State.setSa
  with_reducible repeat' first
    | assumption | refine Keeps.upd ?_ | simp only [Keeps.mk_iff]
theorem cipherKeySetBody_keeps {m : Parts} {a : State} (hm : Parts.sub 0x20000 m) (s0 : State) (r0 : Request) (hs0 : a.Keeps m s0) :
    a.KeepsE m (cipherKeySetBody s0 r0) := by
  unfold cipherKeySetBody
  with_reducible repeat' first
    | assumption | exact Keeps.error _ | apply chk_keeps | apply done_keeps
    | apply State.setCKey_keeps (Keeps.sub_of hm (by decide)) | split
theorem execCipherKeySet_keeps {m : Parts} {a : State} (hm : Parts.sub 0x520165 m) (s : State) (hs : a.Keeps m s) :
    a.KeepsR m (execCipherKeySet s) := by
  unfold execCipherKeySet
  with_reducible repeat' first
    | assumption | apply slaotRow_keeps (Keeps.sub_of hm (by decide))
    | apply cipherKeySetBody_keeps (Keeps.sub_of hm (by decide))
theorem ckeyCmd_keeps {m : Parts} {a : State} (f : State → Nat → CKey → Except Nat Done) (s0 : State) (r0 : Request) (hs0 : a.Keeps m s0) (hf : ∀ (z0 : State) (z1 : Nat) (z2 : CKey), a.Keeps m z0 → a.KeepsE m (f z0 z1 z2)) :
    a.KeepsE m (ckeyCmd f s0 r0) := by
  unfold ckeyCmd
  with_reducible repeat' first
    | assumption | exact Keeps.error _ | apply hf | apply chk_keeps | split
theorem cipherKeyGetBody_keeps {m : Parts} {a : State} (s0 : State) (r0 : Request) (hs0 : a.Keeps m s0) :
    a.KeepsE m (cipherKeyGetBody s0 r0) := by
  unfold cipherKeyGetBody
  with_reducible repeat' first
    | assumption | intro _ | apply ckeyCmd_keeps | apply done_keeps
theorem execCipherKeyGet_keeps {m : Parts} {a : State} (hm : Parts.sub 0x500165 m) (s : State) (hs : a.Keeps m s) :
    a.KeepsR m (execCipherKeyGet s) := by
  unfold execCipherKeyGet
  with_reducible repeat' first
    | assumption | apply slaotRow_keeps (Keeps.sub_of hm (by decide)) | apply cipherKeyGetBody_keeps
theorem cipherKeyDestroyBody_keeps {m : Parts} {a : State} (hm : Parts.sub 0x20000 m) (s0 : State) (r0 : Request) (hs0 : a.Keeps m s0) :
    a.KeepsE m (cipherKeyDestroyBody s0 r0) := by
  unfold cipherKeyDestroyBody
  with_reducible repeat' first
    | assumption | intro _ | apply ckeyCmd_keeps | apply chk_keeps | apply done_keeps
    | apply State.setCKey_keeps (Keeps.sub_of hm (by decide))
theorem execCipherKeyDestroy_keeps {m : Parts} {a : State} (hm : Parts.sub 0x520165 m) (s : State) (hs : a.Keeps m s) :
    a.KeepsR m (execCipherKeyDestroy s) := by
  unfold execCipherKeyDestroy
  with_reducible repeat' first
    | assumption | apply slaotRow_keeps (Keeps.sub_of hm (by decide))
    | apply cipherKeyDestroyBody_keeps (Keeps.sub_of hm (by decide))
theorem execKeyEntryZeroize_keeps {m : Parts} {a : State} (hm : Parts.sub 0x20000 m) (i : Nat) (s : State) (hs : a.Keeps m s) :
    a.KeepsR m (execKeyEntryZeroize i s) := by
  unfold execKeyEntryZeroize
  with_reducible repeat' first
    | assumption | intro _ | dsimp only | apply whenRunning_keeps | apply State.setCKey_keeps (Keeps.sub_of hm (by decide))
    | split
theorem saSetBody_keeps {m : Parts} {a : State} (hm : Parts.sub 0x20000 m) (s0 : State) (r0 : Request) (hs0 : a.Keeps m s0) :
    a.KeepsE m (saSetBody s0 r0) := by
  unfold saSetBody
  with_reducible repeat' first
    | assumption | exact Keeps.error _ | apply chk_keeps | apply done_keeps
    | apply State.setSa_keeps (Keeps.sub_of hm (by decide)) | split
theorem execCipherSaSet_keeps {m : Parts} {a : State} (hm : Parts.sub 0x520165 m) (s : State) (hs : a.Keeps m s) :
    a.KeepsR m (execCipherSaSet s) := by
  unfold execCipherSaSet
  with_reducible repeat' first
    | assumption | apply slaotRow_keeps (Keeps.sub_of hm (by decide)) | apply saSetBody_keeps (Keeps.sub_of hm (by decide))
theorem saCmd_keeps {m : Parts} {a : State} (f : State → Nat → Except Nat Done) (s0 : State) (r0 : Request) (hs0 : a.Keeps m s0) (hf : ∀ (z0 : State) (z1 : Nat), a.Keeps m z0 → a.KeepsE m (f z0 z1)) :
    a.KeepsE m (saCmd f s0 r0) := by
  unfold saCmd
  with_reducible repeat' first
    | assumption | apply hf | apply chk_keeps
theorem saGetBody_keeps {m : Parts} {a : State} (s0 : State) (r0 : Request) (hs0 : a.Keeps m s0) :
    a.KeepsE m (saGetBody s0 r0) := by
  unfold saGetBody
  with_reducible repeat' first
    | assumption | intro _ | apply saCmd_keeps | apply done_keeps
theorem execCipherSaGet_keeps {m : Parts} {a : State} (hm : Parts.sub 0x500165 m) (s : State) (hs : a.Keeps m s) :
    a.KeepsR m (execCipherSaGet s) := by
  unfold execCipherSaGet
  with_reducible repeat' first
    | assumption | apply slaotRow_keeps (Keeps.sub_of hm (by decide)) | apply saGetBody_keeps
theorem saDestroyBody_keeps {m : Parts} {a : State} (hm : Parts.sub 0x20000 m) (s0 : State) (r0 : Request) (hs0 : a.Keeps m s0) :
    a.KeepsE m (saDestroyBody s0 r0) := by
  unfold saDestroyBody
  with_reducible repeat' first
    | assumption | intro _ | apply saCmd_keeps | apply chk_keeps | apply done_keeps | refine Keeps.upd ?_
    | simp only [Keeps.mk_iff]
theorem execCipherSaDestroy_keeps {m : Parts} {a : State} (hm : Parts.sub 0x520165 m) (s : State) (hs : a.Keeps m s) :
    a.KeepsR m (execCipherSaDestroy s) := by
  unfold execCipherSaDestroy
  with_reducible repeat' first
    | assumption | apply slaotRow_keeps (Keeps.sub_of hm (by decide)) | apply saDestroyBody_keeps (Keeps.sub_of hm (by decide))
theorem cipherBindBody_keeps {m : Parts} {a : State} (hm : Parts.sub 0x200000 m) (s0 : State) (r0 : Request) (hs0 : a.Keeps m s0) :
    a.KeepsE m (cipherBindBody s0 r0) := by
  unfold cipherBindBody
  with_reducible repeat' first
    | assumption | apply chk_keeps | apply done_keeps | apply State.setQp_keeps (Keeps.sub_of hm (by decide))
theorem execCipherQpBind_keeps {m : Parts} {a : State} (hm : Parts.sub 0x700165 m) (s : State) (hs : a.Keeps m s) :
    a.KeepsR m (execCipherQpBind s) := by
  unfold execCipherQpBind
  with_reducible repeat' first
    | assumption | apply slaotRow_keeps (Keeps.sub_of hm (by decide)) | apply cipherBindBody_keeps (Keeps.sub_of hm (by decide))
theorem cipherEngineSetBody_keeps {m : Parts} {a : State} (hm : Parts.sub 0x80 m) (s0 : State) (r0 : Request) (hs0 : a.Keeps m s0) :
    a.KeepsE m (cipherEngineSetBody s0 r0) := by
  unfold cipherEngineSetBody
  with_reducible repeat' first
    | assumption | apply chk_keeps | apply chkGroves_keeps | apply done_keeps | refine Keeps.upd ?_ | simp only [Keeps.mk_iff]
theorem execCipherEngineSet_keeps {m : Parts} {a : State} (hm : Parts.sub 0x5001e5 m) (s : State) (hs : a.Keeps m s) :
    a.KeepsR m (execCipherEngineSet s) := by
  unfold execCipherEngineSet
  with_reducible repeat' first
    | assumption | apply slaotRow_keeps (Keeps.sub_of hm (by decide))
    | apply cipherEngineSetBody_keeps (Keeps.sub_of hm (by decide))
theorem cipherStatsBody_keeps {m : Parts} {a : State} (s0 : State) (r0 : Request) (hs0 : a.Keeps m s0) :
    a.KeepsE m (cipherStatsBody s0 r0) := by
  unfold cipherStatsBody
  with_reducible repeat' first
    | assumption | apply chk_keeps | apply done_keeps
theorem execCipherStats_keeps {m : Parts} {a : State} (hm : Parts.sub 0x500165 m) (s : State) (hs : a.Keeps m s) :
    a.KeepsR m (execCipherStats s) := by
  unfold execCipherStats
  with_reducible repeat' first
    | assumption | apply slaotRow_keeps (Keeps.sub_of hm (by decide)) | apply cipherStatsBody_keeps
theorem State.openJob_keeps {m : Parts} {a : State} (hm : Parts.sub 0x220000 m) (s : State) (q : Nat) (slot : W32) (op : Nat) (hs : a.Keeps m s) :
    a.Keeps m (State.openJob s q slot op) := by
  unfold State.openJob
  with_reducible repeat' first
    | assumption | dsimp only | apply State.refuseCipher_keeps (Keeps.sub_of hm (by decide))
    | apply State.ciCtr_keeps (Keeps.sub_of hm (by decide)) | apply State.setEngine_keeps (Keeps.sub_of hm (by decide))
    | apply State.markActed_keeps (Keeps.sub_of hm (by decide)) | split
theorem execAeadSeal_keeps {m : Parts} {a : State} (hm : Parts.sub 0x220000 m) (q : Nat) (slot : W32) (s : State) (hs : a.Keeps m s) :
    a.KeepsR m (execAeadSeal q slot s) := by
  unfold execAeadSeal
  with_reducible repeat' first
    | assumption | intro _ | apply whenRunning_keeps | apply State.openJob_keeps (Keeps.sub_of hm (by decide))
theorem execAeadOpen_keeps {m : Parts} {a : State} (hm : Parts.sub 0x220000 m) (q : Nat) (slot : W32) (s : State) (hs : a.Keeps m s) :
    a.KeepsR m (execAeadOpen q slot s) := by
  unfold execAeadOpen
  with_reducible repeat' first
    | assumption | intro _ | apply whenRunning_keeps | apply State.openJob_keeps (Keeps.sub_of hm (by decide))
theorem execXtsEnc_keeps {m : Parts} {a : State} (hm : Parts.sub 0x220000 m) (q : Nat) (slot : W32) (s : State) (hs : a.Keeps m s) :
    a.KeepsR m (execXtsEnc q slot s) := by
  unfold execXtsEnc
  with_reducible repeat' first
    | assumption | intro _ | apply whenRunning_keeps | apply State.openJob_keeps (Keeps.sub_of hm (by decide))
theorem execXtsDec_keeps {m : Parts} {a : State} (hm : Parts.sub 0x220000 m) (q : Nat) (slot : W32) (s : State) (hs : a.Keeps m s) :
    a.KeepsR m (execXtsDec q slot s) := by
  unfold execXtsDec
  with_reducible repeat' first
    | assumption | intro _ | apply whenRunning_keeps | apply State.openJob_keeps (Keeps.sub_of hm (by decide))
theorem execTlsSeal_keeps {m : Parts} {a : State} (hm : Parts.sub 0x220000 m) (q : Nat) (slot : W32) (s : State) (hs : a.Keeps m s) :
    a.KeepsR m (execTlsSeal q slot s) := by
  unfold execTlsSeal
  with_reducible repeat' first
    | assumption | intro _ | apply whenRunning_keeps | apply State.openJob_keeps (Keeps.sub_of hm (by decide))
theorem execTlsOpen_keeps {m : Parts} {a : State} (hm : Parts.sub 0x220000 m) (q : Nat) (slot : W32) (s : State) (hs : a.Keeps m s) :
    a.KeepsR m (execTlsOpen q slot s) := by
  unfold execTlsOpen
  with_reducible repeat' first
    | assumption | intro _ | apply whenRunning_keeps | apply State.openJob_keeps (Keeps.sub_of hm (by decide))
theorem execUrgentPreempt_keeps {m : Parts} {a : State} (hm : Parts.sub 0x20000 m) (g : Nat) (e : Nat) (n : Nat) (s : State) (hs : a.Keeps m s) :
    a.KeepsR m (execUrgentPreempt g e n s) := by
  unfold execUrgentPreempt
  with_reducible repeat' first
    | assumption | intro _ | dsimp only | apply whenRunning_keeps | apply State.ciCtr_keeps (Keeps.sub_of hm (by decide))
    | apply State.setEngine_keeps (Keeps.sub_of hm (by decide)) | split
theorem execBulkResume_keeps {m : Parts} {a : State} (hm : Parts.sub 0x20000 m) (g : Nat) (e : Nat) (s : State) (hs : a.Keeps m s) :
    a.KeepsR m (execBulkResume g e s) := by
  unfold execBulkResume
  with_reducible repeat' first
    | assumption | intro _ | dsimp only | apply whenRunning_keeps | apply State.setEngine_keeps (Keeps.sub_of hm (by decide))
    | split
theorem State.closeMsg_keeps {m : Parts} {a : State} (hm : Parts.sub 0x20000 m) (s : State) (g : Nat) (e : Nat) (y3 : CMsg) (hs : a.Keeps m s) :
    a.Keeps m (State.closeMsg s g e y3) := by
  unfold State.closeMsg
  with_reducible repeat' first
    | assumption | apply State.setEngine_keeps (Keeps.sub_of hm (by decide))
theorem State.endCipherJob_keeps {m : Parts} {a : State} (hm : Parts.sub 0x7a0004 m) (s : State) (g : Nat) (e : Nat) (y3 : CMsg) (q : Nat) (j : Job) (poisoned : Bool) (hs : a.Keeps m s) :
    a.Keeps m (State.endCipherJob s g e y3 q j poisoned) := by
  unfold State.endCipherJob
  with_reducible repeat' first
    | assumption | dsimp only | apply State.ciCtr_keeps (Keeps.sub_of hm (by decide))
    | apply State.endJob_keeps (Keeps.sub_of hm (by decide)) | apply State.closeMsg_keeps (Keeps.sub_of hm (by decide))
    | apply State.dmaWritesBy_keeps (Keeps.sub_of hm (by decide)) | split | refine Keeps.fst_of (by assumption) ?_
theorem State.fireSa_keeps {m : Parts} {a : State} (hm : Parts.sub 0x500004 m) (s : State) (y1 : Nat) (type : Nat) (hs : a.Keeps m s) :
    a.Keeps m (State.fireSa s y1 type) := by
  unfold State.fireSa
  with_reducible repeat' first
    | assumption | apply State.fireDev_keeps (Keeps.sub_of hm (by decide))
theorem State.protect_keeps {m : Parts} {a : State} (hm : Parts.sub 0x520004 m) (s : State) (y1 : Nat) (n : Nat) (hs : a.Keeps m s) :
    a.Keeps m (State.protect s y1 n) := by
  unfold State.protect
  with_reducible repeat' first
    | assumption | dsimp only | apply State.setSa_keeps (Keeps.sub_of hm (by decide))
    | apply State.fireSa_keeps (Keeps.sub_of hm (by decide)) | split
theorem State.stopSa_keeps {m : Parts} {a : State} (hm : Parts.sub 0x520004 m) (s : State) (y1 : Nat) (hs : a.Keeps m s) :
    a.Keeps m (State.stopSa s y1) := by
  unfold State.stopSa
  with_reducible repeat' first
    | assumption | apply State.fireSa_keeps (Keeps.sub_of hm (by decide))
    | apply State.setSa_keeps (Keeps.sub_of hm (by decide)) | split
theorem State.dropEsp_keeps {m : Parts} {a : State} (hm : Parts.sub 0x20604 m) (s : State) (g : Nat) (t : Nat) (i : Nat) (hs : a.Keeps m s) :
    a.Keeps m (State.dropEsp s g t i) := by
  unfold State.dropEsp
  with_reducible repeat' first
    | assumption | apply State.takeSink_keeps (Keeps.sub_of hm (by decide))
    | apply State.ciCtr_keeps (Keeps.sub_of hm (by decide))
theorem State.openFrame_keeps {m : Parts} {a : State} (hm : Parts.sub 0x20400 m) (s : State) (g : Nat) (t : Nat) (e : Nat) (y4 : CMsg) (hs : a.Keeps m s) :
    a.Keeps m (State.openFrame s g t e y4) := by
  unfold State.openFrame
  with_reducible repeat' first
    | assumption | apply State.setSink_keeps (Keeps.sub_of hm (by decide))
    | apply State.ciCtr_keeps (Keeps.sub_of hm (by decide)) | apply State.setEngine_keeps (Keeps.sub_of hm (by decide))
theorem State.espStart_keeps {m : Parts} {a : State} (hm : Parts.sub 0x20604 m) (s : State) (t : Nat) (inbound : Bool) (k : State → Nat → Nat → Nat → Sa → CKey → List Byte → Nat × Nat × Nat → State) (hs : a.Keeps m s) (hk : ∀ (z0 : State) (z1 : Nat) (z2 : Nat) (z3 : Nat) (z4 : Sa) (z5 : CKey) (z6 : List Byte) (z7 : Nat × Nat × Nat), a.Keeps m z0 → a.Keeps m (k z0 z1 z2 z3 z4 z5 z6 z7)) :
    a.Keeps m (State.espStart s t inbound k) := by
  unfold State.espStart
  with_reducible repeat' first
    | assumption | dsimp only | apply hk | apply State.dropEsp_keeps (Keeps.sub_of hm (by decide)) | split
theorem execEspOutbound_keeps {m : Parts} {a : State} (hm : Parts.sub 0x520604 m) (t : Nat) (s : State) (hs : a.Keeps m s) :
    a.KeepsR m (execEspOutbound t s) := by
  unfold execEspOutbound
  with_reducible repeat' first
    | assumption | intro _ | dsimp only | apply whenRunning_keeps | apply State.espStart_keeps (Keeps.sub_of hm (by decide))
    | apply State.dropEsp_keeps (Keeps.sub_of hm (by decide)) | apply State.stopSa_keeps (Keeps.sub_of hm (by decide))
    | apply State.openFrame_keeps (Keeps.sub_of hm (by decide)) | apply State.protect_keeps (Keeps.sub_of hm (by decide))
    | apply State.setSa_keeps (Keeps.sub_of hm (by decide)) | split
theorem execEspInbound_keeps {m : Parts} {a : State} (hm : Parts.sub 0x520604 m) (t : Nat) (s : State) (hs : a.Keeps m s) :
    a.KeepsR m (execEspInbound t s) := by
  unfold execEspInbound
  with_reducible repeat' first
    | assumption | intro _ | dsimp only | apply whenRunning_keeps | apply State.espStart_keeps (Keeps.sub_of hm (by decide))
    | apply State.dropEsp_keeps (Keeps.sub_of hm (by decide)) | apply State.stopSa_keeps (Keeps.sub_of hm (by decide))
    | apply State.openFrame_keeps (Keeps.sub_of hm (by decide)) | split
theorem State.reenter_keeps {m : Parts} {a : State} (hm : Parts.sub 0x604 m) (s : State) (g : Nat) (t : Nat) (b : List Byte) (hs : a.Keeps m s) :
    a.Keeps m (State.reenter s g t b) := by
  unfold State.reenter
  with_reducible repeat' first
    | assumption | apply State.enterRec_keeps (Keeps.sub_of hm (by decide))
    | apply State.takeSink_keeps (Keeps.sub_of hm (by decide)) | apply State.cutTo_keeps (Keeps.sub_of hm (by decide))
    | simp only [Keeps.Q_iff] | split
theorem State.saAuthFail_keeps {m : Parts} {a : State} (hm : Parts.sub 0x520004 m) (s : State) (g : Nat) (y2 : Nat) (hs : a.Keeps m s) :
    a.Keeps m (State.saAuthFail s g y2) := by
  unfold State.saAuthFail
  with_reducible repeat' first
    | assumption | apply State.ciCtr_keeps (Keeps.sub_of hm (by decide))
    | apply State.fireDev_keeps (Keeps.sub_of hm (by decide)) | refine Keeps.upd ?_ | simp only [Keeps.mk_iff] | split
theorem State.acceptEsp_keeps {m : Parts} {a : State} (hm : Parts.sub 0x520604 m) (s : State) (g : Nat) (t : Nat) (y3 : Nat) (y4 : CMsg) (b : List Byte) (plain : List Byte) (ip : Nat × Nat × Nat) (hs : a.Keeps m s) :
    a.Keeps m (State.acceptEsp s g t y3 y4 b plain ip) := by
  unfold State.acceptEsp
  with_reducible repeat' first
    | assumption | dsimp only | apply State.dropEsp_keeps (Keeps.sub_of hm (by decide))
    | apply State.protect_keeps (Keeps.sub_of hm (by decide)) | apply State.setSa_keeps (Keeps.sub_of hm (by decide))
    | apply State.reenter_keeps (Keeps.sub_of hm (by decide)) | split
theorem State.endCipherFrame_keeps {m : Parts} {a : State} (hm : Parts.sub 0x520604 m) (s : State) (g : Nat) (e : Nat) (t : Nat) (y4 : CMsg) (poisoned : Bool) (hs : a.Keeps m s) :
    a.Keeps m (State.endCipherFrame s g e t y4 poisoned) := by
  unfold State.endCipherFrame
  with_reducible repeat' first
    | assumption | dsimp only | apply State.closeMsg_keeps (Keeps.sub_of hm (by decide))
    | apply State.dropEsp_keeps (Keeps.sub_of hm (by decide)) | apply State.takeSink_keeps (Keeps.sub_of hm (by decide))
    | apply State.reenter_keeps (Keeps.sub_of hm (by decide)) | apply State.acceptEsp_keeps (Keeps.sub_of hm (by decide))
    | apply State.saAuthFail_keeps (Keeps.sub_of hm (by decide)) | split
theorem execCipherMessageEnd_keeps {m : Parts} {a : State} (hm : Parts.sub 0x7a0604 m) (g : Nat) (e : Nat) (msg : CipherMsg) (poisoned : Bool) (s : State) (hs : a.Keeps m s) :
    a.KeepsR m (execCipherMessageEnd g e msg poisoned s) := by
  unfold execCipherMessageEnd
  with_reducible repeat' first
    | assumption | intro _ | dsimp only | apply whenRunning_keeps | apply State.endCipherJob_keeps (Keeps.sub_of hm (by decide))
    | apply State.closeMsg_keeps (Keeps.sub_of hm (by decide)) | apply State.endCipherFrame_keeps (Keeps.sub_of hm (by decide))
    | split

end Sys2Proof.Machine
end

