-- ==== Sys2Proof/Laws/KeepsClearing.lean ====
section
/-! SUPPORT. What the definitions of Machine/Clearing.lean keep: no part of the state changes but those of the mask, which is
`Parts` in bits (Safety.lean), and what every command keeps. -/
set_option Elab.async false
namespace Sys2Proof.Machine

theorem State.ctlServe_keeps {m : Parts} {a : State} (hm : Parts.sub 0x40004 m) (c : Nat) (y1 : Nat) (y2 : State) (hy2 : a.Keeps m y2) :
    a.Keeps m (State.ctlServe c y1 y2) := by
  induction y1 generalizing y2 with
  | zero =>
    unfold State.ctlServe
    with_reducible repeat' first
      | assumption | apply ih | dsimp only | apply State.setCl_keeps (Keeps.sub_of hm (by decide))
      | apply State.emit_keeps (Keeps.sub_of hm (by decide)) | split
  | succ n ih =>
    unfold State.ctlServe
    with_reducible repeat' first
      | assumption | apply ih | dsimp only | apply State.setCl_keeps (Keeps.sub_of hm (by decide))
      | apply State.emit_keeps (Keeps.sub_of hm (by decide)) | split
theorem State.ctlServeAll_keeps {m : Parts} {a : State} (hm : Parts.sub 0x40004 m) (s : State) (c : Nat) (hs : a.Keeps m s) :
    a.Keeps m (State.ctlServeAll s c) := by
  unfold State.ctlServeAll
  with_reducible repeat' first
    | assumption | apply State.ctlServe_keeps (Keeps.sub_of hm (by decide))
theorem State.ctlPush_keeps {m : Parts} {a : State} (hm : Parts.sub 0x40000 m) (s : State) (c : Nat) (q : CtlReq) (hs : a.Keeps m s) :
    a.Keeps m (State.ctlPush s c q) := by
  unfold State.ctlPush
  with_reducible repeat' first
    | assumption | dsimp only | apply State.clCtr_keeps (Keeps.sub_of hm (by decide))
    | apply State.setCl_keeps (Keeps.sub_of hm (by decide)) | split
theorem State.fireCl_keeps {m : Parts} {a : State} (hm : Parts.sub 0x500004 m) (s : State) (c : Nat) (type : Nat) (data : W32) (hs : a.Keeps m s) :
    a.Keeps m (State.fireCl s c type data) := by
  unfold State.fireCl
  with_reducible repeat' first
    | assumption | apply State.fireDev_keeps (Keeps.sub_of hm (by decide))
theorem State.clCountTo_keeps {m : Parts} {a : State} (hm : Parts.sub 0x40000 m) (s : State) (c : Nat) (y2 : Nat) (hs : a.Keeps m s) :
    a.Keeps m (State.clCountTo s c y2) := by
  unfold State.clCountTo
  with_reducible repeat' first
    | assumption | apply State.setCl_keeps (Keeps.sub_of hm (by decide))
theorem State.closeUsage_keeps {m : Parts} {a : State} (hm : Parts.sub 0x540004 m) (s : State) (c : Nat) (y2 : Nat) (next : Nat) (hs : a.Keeps m s) :
    a.Keeps m (State.closeUsage s c y2 next) := by
  unfold State.closeUsage
  with_reducible repeat' first
    | assumption | dsimp only | apply State.clCountTo_keeps (Keeps.sub_of hm (by decide))
    | apply State.setCl_keeps (Keeps.sub_of hm (by decide)) | apply State.fireCl_keeps (Keeps.sub_of hm (by decide)) | split
theorem State.rollUsage_keeps {m : Parts} {a : State} (hm : Parts.sub 0x540004 m) (s : State) (c : Nat) (hs : a.Keeps m s) :
    a.Keeps m (State.rollUsage s c) := by
  unfold State.rollUsage
  with_reducible repeat' first
    | assumption | intro _ | apply State.closeUsage_keeps (Keeps.sub_of hm (by decide)) | apply Keeps.foldl | split
theorem State.clCount_keeps {m : Parts} {a : State} (hm : Parts.sub 0x540004 m) (s : State) (c : Nat) (hs : a.Keeps m s) :
    a.Keeps m (State.clCount s c) := by
  unfold State.clCount
  with_reducible repeat' first
    | assumption | apply State.clCountTo_keeps (Keeps.sub_of hm (by decide))
    | apply State.rollUsage_keeps (Keeps.sub_of hm (by decide))
theorem State.clUse_keeps {m : Parts} {a : State} (hm : Parts.sub 0x540004 m) (s : State) (c : Nat) (f : Usage → Usage) (hs : a.Keeps m s) :
    a.Keeps m (State.clUse s c f) := by
  unfold State.clUse
  with_reducible repeat' first
    | assumption | apply State.rollUsage_keeps (Keeps.sub_of hm (by decide))
    | apply State.setCl_keeps (Keeps.sub_of hm (by decide))
theorem execMeterWindowClose_keeps {m : Parts} {a : State} (hm : Parts.sub 0x540005 m) (c : Nat) (s : State) (hs : a.Keeps m s) :
    a.KeepsR m (execMeterWindowClose c s) := by
  unfold execMeterWindowClose
  with_reducible repeat' first
    | assumption | intro _ | apply whenRunning_keeps | apply State.rollUsage_keeps (Keeps.sub_of hm (by decide))
    | apply State.upToTime_keeps (Keeps.sub_of hm (by decide)) | split
theorem State.endClJobs_keeps {m : Parts} {a : State} (hm : Parts.sub 0x200000 m) (s : State) (q : Nat) (detail : Nat) (hs : a.Keeps m s) :
    a.Keeps m (State.endClJobs s q detail) := by
  unfold State.endClJobs
  with_reducible repeat' first
    | assumption | intro _ | apply State.endJob_keeps (Keeps.sub_of hm (by decide)) | apply Keeps.foldl
theorem State.ctlDone_keeps {m : Parts} {a : State} (hm : Parts.sub 0x500144 m) (s : State) (fn : Option Nat) (req : Option Request) (status : Nat) (data : W64) (hs : a.Keeps m s) :
    a.Keeps m (State.ctlDone s fn req status data) := by
  unfold State.ctlDone
  with_reducible repeat' first
    | assumption | apply State.emit_keeps (Keeps.sub_of hm (by decide)) | apply State.finish_keeps (Keeps.sub_of hm (by decide))
    | split
theorem State.ctlCut_keeps {m : Parts} {a : State} (hm : Parts.sub 0x540144 m) (s : State) (c : Nat) (hs : a.Keeps m s) :
    a.Keeps m (State.ctlCut s c) := by
  unfold State.ctlCut
  with_reducible repeat' first
    | assumption | intro _ | apply State.ctlDone_keeps (Keeps.sub_of hm (by decide))
    | apply State.clCtr_keeps (Keeps.sub_of hm (by decide)) | apply State.setCl_keeps (Keeps.sub_of hm (by decide))
    | apply Keeps.foldl
theorem State.closePorts_keeps {m : Parts} {a : State} (hm : Parts.sub 0x740744 m) (s : State) (c : Nat) (hs : a.Keeps m s) :
    a.Keeps m (State.closePorts s c) := by
  unfold State.closePorts
  with_reducible repeat' first
    | assumption | intro _ | apply State.clCount_keeps (Keeps.sub_of hm (by decide))
    | apply State.endClJobs_keeps (Keeps.sub_of hm (by decide)) | apply State.takeSink_keeps (Keeps.sub_of hm (by decide))
    | apply State.clCtr_keeps (Keeps.sub_of hm (by decide)) | apply State.ctlCut_keeps (Keeps.sub_of hm (by decide))
    | apply State.setCl_keeps (Keeps.sub_of hm (by decide)) | apply Keeps.foldl | split
theorem State.clFault_keeps {m : Parts} {a : State} (hm : Parts.sub 0x740744 m) (s : State) (c : Nat) (reason : Nat) (hs : a.Keeps m s) :
    a.Keeps m (State.clFault s c reason) := by
  unfold State.clFault
  with_reducible repeat' first
    | assumption | apply State.closePorts_keeps (Keeps.sub_of hm (by decide))
    | apply State.fireCl_keeps (Keeps.sub_of hm (by decide)) | apply State.setCl_keeps (Keeps.sub_of hm (by decide)) | split
theorem execConfigMemoryError_keeps {m : Parts} {a : State} (hm : Parts.sub 0x1740766 m) (c : Nat) (s : State) (hs : a.Keeps m s) :
    a.KeepsR m (execConfigMemoryError c s) := by
  unfold execConfigMemoryError
  with_reducible repeat' first
    | assumption | intro _ | apply whenRunning_keeps | apply State.fresh_keeps (Keeps.sub_of hm (by decide))
    | apply State.clFault_keeps (Keeps.sub_of hm (by decide)) | apply State.uncorrectable_keeps (Keeps.sub_of hm (by decide))
    | simp only [Keeps.Q_iff] | split
theorem State.clQuarantine_keeps {m : Parts} {a : State} (hm : Parts.sub 0x540004 m) (s : State) (c : Nat) (hs : a.Keeps m s) :
    a.Keeps m (State.clQuarantine s c) := by
  unfold State.clQuarantine
  with_reducible repeat' first
    | assumption | apply State.clCount_keeps (Keeps.sub_of hm (by decide))
    | apply State.fireCl_keeps (Keeps.sub_of hm (by decide)) | apply State.setCl_keeps (Keeps.sub_of hm (by decide))
theorem clRead_keeps {m : Parts} {a : State} (len : Nat) (wf : List Byte → Bool) (op : Bool) (k : State → Request → Nat → Except Nat Done) (there : optParam (State → List Byte → Bool) fun x x_1 => true) (s0 : State) (r0 : Request) (hs0 : a.Keeps m s0) (hk : ∀ (z0 : State) (z1 : Request) (z2 : Nat), a.Keeps m z0 → a.KeepsE m (k z0 z1 z2)) :
    a.KeepsE m (clRead len wf op k there s0 r0) := by
  unfold clRead
  with_reducible repeat' first
    | assumption | apply hk | apply chk_keeps
theorem clCmd_keeps {m : Parts} {a : State} (len : Nat) (wf : List Byte → Bool) (op : Bool) (k : State → Request → Nat → Except Nat Done) (there : optParam (State → List Byte → Bool) fun x x_1 => true) (s0 : State) (r0 : Request) (hs0 : a.Keeps m s0) (hk : ∀ (z0 : State) (z1 : Request) (z2 : Nat), a.Keeps m z0 → a.KeepsE m (k z0 z1 z2)) :
    a.KeepsE m (clCmd len wf op k there s0 r0) := by
  unfold clCmd
  with_reducible repeat' first
    | assumption | intro _ | apply hk | apply clRead_keeps | apply chk_keeps
theorem clRentBody_keeps {m : Parts} {a : State} (hm : Parts.sub 0x40100 m) (s0 : State) (r0 : Request) (hs0 : a.Keeps m s0) :
    a.KeepsE m (clRentBody s0 r0) := by
  unfold clRentBody
  with_reducible repeat' first
    | assumption | intro _ | apply clCmd_keeps | apply chk_keeps | apply startOp_keeps (Keeps.sub_of hm (by decide))
    | apply State.setCl_keeps (Keeps.sub_of hm (by decide))
theorem execClearingRent_keeps {m : Parts} {a : State} (hm : Parts.sub 0x540165 m) (s : State) (hs : a.Keeps m s) :
    a.KeepsR m (execClearingRent s) := by
  unfold execClearingRent
  with_reducible repeat' first
    | assumption | apply slaotRow_keeps (Keeps.sub_of hm (by decide)) | apply clRentBody_keeps (Keeps.sub_of hm (by decide))
theorem State.rented_keeps {m : Parts} {a : State} (hm : Parts.sub 0x40080 m) (s : State) (c : Nat) (x : Rental) (e : Nat) (hs : a.Keeps m s) :
    a.Keeps m (State.rented s c x e) := by
  unfold State.rented
  with_reducible repeat' first
    | assumption | apply State.setCl_keeps (Keeps.sub_of hm (by decide))
    | apply State.setOwner_keeps (Keeps.sub_of hm (by decide)) | refine Keeps.upd ?_ | simp only [Keeps.mk_iff]
theorem execClearingRentStep_keeps {m : Parts} {a : State} (hm : Parts.sub 0x35401e5 m) (y0 : Nat) (ok : Bool) (s : State) (hs : a.Keeps m s) :
    a.KeepsR m (execClearingRentStep y0 ok s) := by
  unfold execClearingRentStep
  with_reducible repeat' first
    | assumption | intro _ | dsimp only | apply State.setCl_keeps (Keeps.sub_of hm (by decide)) | apply whenRunning_keeps
    | apply opRow_keeps (Keeps.sub_of hm (by decide)) | apply State.zeroize_keeps (Keeps.sub_of hm (by decide))
    | apply State.endOp_keeps (Keeps.sub_of hm (by decide)) | apply State.rented_keeps (Keeps.sub_of hm (by decide)) | split
theorem State.clUnbind_keeps {m : Parts} {a : State} (hm : Parts.sub 0x40000 m) (s : State) (c : Nat) (hs : a.Keeps m s) :
    a.Keeps m (State.clUnbind s c) := by
  unfold State.clUnbind
  with_reducible repeat' first
    | assumption | apply State.setCl_keeps (Keeps.sub_of hm (by decide))
theorem State.abandonLoad_keeps {m : Parts} {a : State} (hm : Parts.sub 0x40000 m) (s : State) (c : Nat) (hs : a.Keeps m s) :
    a.Keeps m (State.abandonLoad s c) := by
  unfold State.abandonLoad
  with_reducible repeat' first
    | assumption | apply State.setCl_keeps (Keeps.sub_of hm (by decide))
theorem State.cancelLoads_keeps {m : Parts} {a : State} (hm : Parts.sub 0x540104 m) (s : State) (c : Nat) (hs : a.Keeps m s) :
    a.Keeps m (State.cancelLoads s c) := by
  unfold State.cancelLoads
  with_reducible repeat' first
    | assumption | intro _ | apply State.endOp_keeps (Keeps.sub_of hm (by decide))
    | apply State.abandonLoad_keeps (Keeps.sub_of hm (by decide)) | apply Keeps.foldl
theorem clReleaseBody_keeps {m : Parts} {a : State} (hm : Parts.sub 0x540104 m) (s0 : State) (r0 : Request) (hs0 : a.Keeps m s0) :
    a.KeepsE m (clReleaseBody s0 r0) := by
  unfold clReleaseBody
  with_reducible repeat' first
    | assumption | intro _ | apply clCmd_keeps | apply State.cancelLoads_keeps (Keeps.sub_of hm (by decide)) | apply chk_keeps
    | apply startOp_keeps (Keeps.sub_of hm (by decide))
theorem execClearingRelease_keeps {m : Parts} {a : State} (hm : Parts.sub 0x540165 m) (s : State) (hs : a.Keeps m s) :
    a.KeepsR m (execClearingRelease s) := by
  unfold execClearingRelease
  with_reducible repeat' first
    | assumption | apply slaotRow_keeps (Keeps.sub_of hm (by decide)) | apply clReleaseBody_keeps (Keeps.sub_of hm (by decide))
theorem State.dropEntry_keeps {m : Parts} {a : State} (hm : Parts.sub 0x80 m) (s : State) (c : Nat) (hs : a.Keeps m s) :
    a.Keeps m (State.dropEntry s c) := by
  unfold State.dropEntry
  with_reducible repeat' first
    | assumption | refine Keeps.upd ?_ | simp only [Keeps.mk_iff]
theorem execClearingReleaseStep_keeps {m : Parts} {a : State} (hm : Parts.sub 0x37407e5 m) (y0 : Nat) (ok : Bool) (s : State) (hs : a.Keeps m s) :
    a.KeepsR m (execClearingReleaseStep y0 ok s) := by
  unfold execClearingReleaseStep
  with_reducible repeat' first
    | assumption | intro _ | apply whenRunning_keeps | apply turnRow_keeps (Keeps.sub_of hm (by decide))
    | apply State.dropEntry_keeps (Keeps.sub_of hm (by decide)) | apply State.clUnbind_keeps (Keeps.sub_of hm (by decide))
    | apply State.closePorts_keeps (Keeps.sub_of hm (by decide)) | apply State.setCl_keeps (Keeps.sub_of hm (by decide))
    | apply State.setOp_keeps (Keeps.sub_of hm (by decide)) | apply State.zeroize_keeps (Keeps.sub_of hm (by decide))
    | apply State.endOp_keeps (Keeps.sub_of hm (by decide)) | apply State.setOwner_keeps (Keeps.sub_of hm (by decide))
    | apply State.clQuarantine_keeps (Keeps.sub_of hm (by decide)) | refine Keeps.upd ?_ | simp only [Keeps.mk_iff] | split
theorem clStageBody_keeps {m : Parts} {a : State} (hm : Parts.sub 0x40000 m) (s0 : State) (r0 : Request) (hs0 : a.Keeps m s0) :
    a.KeepsE m (clStageBody s0 r0) := by
  unfold clStageBody
  with_reducible repeat' first
    | assumption | intro _ | apply clCmd_keeps | apply chk_keeps | apply done_keeps
    | apply State.setCl_keeps (Keeps.sub_of hm (by decide))
theorem execClearingStage_keeps {m : Parts} {a : State} (hm : Parts.sub 0x540165 m) (s : State) (hs : a.Keeps m s) :
    a.KeepsR m (execClearingStage s) := by
  unfold execClearingStage
  with_reducible repeat' first
    | assumption | apply slaotRow_keeps (Keeps.sub_of hm (by decide)) | apply clStageBody_keeps (Keeps.sub_of hm (by decide))
theorem clStageHostBody_keeps {m : Parts} {a : State} (hm : Parts.sub 0x40100 m) (s0 : State) (r0 : Request) (hs0 : a.Keeps m s0) :
    a.KeepsE m (clStageHostBody s0 r0) := by
  unfold clStageHostBody
  with_reducible repeat' first
    | assumption | intro _ | apply clCmd_keeps | apply chk_keeps | apply startOp_keeps (Keeps.sub_of hm (by decide))
    | apply State.setCl_keeps (Keeps.sub_of hm (by decide)) | split
theorem execClearingStageHost_keeps {m : Parts} {a : State} (hm : Parts.sub 0x540165 m) (s : State) (hs : a.Keeps m s) :
    a.KeepsR m (execClearingStageHost s) := by
  unfold execClearingStageHost
  with_reducible repeat' first
    | assumption | apply slaotRow_keeps (Keeps.sub_of hm (by decide))
    | apply clStageHostBody_keeps (Keeps.sub_of hm (by decide))
theorem execClearingStageHostStep_keeps {m : Parts} {a : State} (hm : Parts.sub 0x7d0165 m) (y0 : Nat) (acc : List HostCpl) (s : State) (hs : a.Keeps m s) :
    a.KeepsR m (execClearingStageHostStep y0 acc s) := by
  unfold execClearingStageHostStep
  with_reducible repeat' first
    | assumption | intro _ | apply whenRunning_keeps | apply opRow_keeps (Keeps.sub_of hm (by decide))
    | apply State.endOp_keeps (Keeps.sub_of hm (by decide)) | apply State.askRead_keeps (Keeps.sub_of hm (by decide))
    | apply State.setCl_keeps (Keeps.sub_of hm (by decide)) | split | refine Keeps.fst2_of (by assumption) ?_
theorem clLoadBody_keeps {m : Parts} {a : State} (hm : Parts.sub 0x40100 m) (s0 : State) (r0 : Request) (hs0 : a.Keeps m s0) :
    a.KeepsE m (clLoadBody s0 r0) := by
  unfold clLoadBody
  with_reducible repeat' first
    | assumption | intro _ | apply clCmd_keeps | apply chk_keeps | apply startOp_keeps (Keeps.sub_of hm (by decide))
    | apply State.setCl_keeps (Keeps.sub_of hm (by decide))
theorem execClearingLoad_keeps {m : Parts} {a : State} (hm : Parts.sub 0x540165 m) (s : State) (hs : a.Keeps m s) :
    a.KeepsR m (execClearingLoad s) := by
  unfold execClearingLoad
  with_reducible repeat' first
    | assumption | apply slaotRow_keeps (Keeps.sub_of hm (by decide)) | apply clLoadBody_keeps (Keeps.sub_of hm (by decide))
theorem State.loadFails_keeps {m : Parts} {a : State} (hm : Parts.sub 0x540104 m) (s : State) (c : Nat) (o : LongOp) (status : Nat) (hs : a.Keeps m s) :
    a.Keeps m (State.loadFails s c o status) := by
  unfold State.loadFails
  with_reducible repeat' first
    | assumption | apply State.endOp_keeps (Keeps.sub_of hm (by decide)) | apply State.clCtr_keeps (Keeps.sub_of hm (by decide))
    | apply State.abandonLoad_keeps (Keeps.sub_of hm (by decide))
theorem State.loadStep_keeps {m : Parts} {a : State} (hm : Parts.sub 0x40000 m) (s : State) (c : Nat) (step : Nat) (ok : Bool) (hs : a.Keeps m s) :
    a.KeepsC m (State.loadStep s c step ok) := by
  unfold State.loadStep
  with_reducible repeat' first
    | assumption | exact Keeps.errorC _ | apply Keeps.okC | dsimp only | apply State.setCl_keeps (Keeps.sub_of hm (by decide))
    | split
theorem execClearingLoadStep_keeps {m : Parts} {a : State} (hm : Parts.sub 0x540165 m) (y0 : Nat) (ok : Bool) (s : State) (hs : a.Keeps m s) :
    a.KeepsR m (execClearingLoadStep y0 ok s) := by
  unfold execClearingLoadStep
  with_reducible repeat' first
    | assumption | intro _ | apply State.abandonLoad_keeps (Keeps.sub_of hm (by decide)) | apply whenRunning_keeps
    | apply opRow_keeps (Keeps.sub_of hm (by decide)) | apply State.loadStep_keeps (Keeps.sub_of hm (by decide))
    | apply State.loadFails_keeps (Keeps.sub_of hm (by decide)) | apply State.setCl_keeps (Keeps.sub_of hm (by decide))
    | apply State.setOp_keeps (Keeps.sub_of hm (by decide)) | split | refine Keeps.okC_of (by assumption) ?_
theorem State.shellStep_keeps {m : Parts} {a : State} (hm : Parts.sub 0x540105 m) (s : State) (c : Nat) (due : Cl → Nat) (k : State → Cl → LongOp → State) (hs : a.Keeps m s) (hk : ∀ (z0 : State) (z1 : Cl) (z2 : LongOp), a.Keeps m z0 → a.Keeps m (k z0 z1 z2)) :
    a.Keeps m (State.shellStep s c due k) := by
  unfold State.shellStep
  with_reducible repeat' first
    | assumption | dsimp only | apply hk | apply State.endOp_keeps (Keeps.sub_of hm (by decide))
    | apply State.abandonLoad_keeps (Keeps.sub_of hm (by decide)) | apply State.upTo_keeps (Keeps.sub_of hm (by decide)) | split
theorem execShellClockStart_keeps {m : Parts} {a : State} (hm : Parts.sub 0x540105 m) (c : Nat) (s : State) (hs : a.Keeps m s) :
    a.KeepsR m (execShellClockStart c s) := by
  unfold execShellClockStart
  with_reducible repeat' first
    | assumption | intro _ | apply whenRunning_keeps | apply State.shellStep_keeps (Keeps.sub_of hm (by decide))
    | apply State.setCl_keeps (Keeps.sub_of hm (by decide)) | split
theorem execShellResetRelease_keeps {m : Parts} {a : State} (hm : Parts.sub 0x540105 m) (c : Nat) (s : State) (hs : a.Keeps m s) :
    a.KeepsR m (execShellResetRelease c s) := by
  unfold execShellResetRelease
  with_reducible repeat' first
    | assumption | intro _ | apply whenRunning_keeps | apply State.shellStep_keeps (Keeps.sub_of hm (by decide))
    | apply State.setCl_keeps (Keeps.sub_of hm (by decide)) | split
theorem execClearingRunning_keeps {m : Parts} {a : State} (hm : Parts.sub 0x540105 m) (c : Nat) (s : State) (hs : a.Keeps m s) :
    a.KeepsR m (execClearingRunning c s) := by
  unfold execClearingRunning
  with_reducible repeat' first
    | assumption | intro _ | apply whenRunning_keeps | apply State.shellStep_keeps (Keeps.sub_of hm (by decide))
    | apply State.clCount_keeps (Keeps.sub_of hm (by decide)) | apply State.setCl_keeps (Keeps.sub_of hm (by decide))
    | apply State.endOp_keeps (Keeps.sub_of hm (by decide)) | apply State.clCtr_keeps (Keeps.sub_of hm (by decide)) | split
theorem clUnloadBody_keeps {m : Parts} {a : State} (hm : Parts.sub 0x100 m) (s0 : State) (r0 : Request) (hs0 : a.Keeps m s0) :
    a.KeepsE m (clUnloadBody s0 r0) := by
  unfold clUnloadBody
  with_reducible repeat' first
    | assumption | intro _ | apply clCmd_keeps | apply chk_keeps | apply startOp_keeps (Keeps.sub_of hm (by decide))
theorem execClearingUnload_keeps {m : Parts} {a : State} (hm : Parts.sub 0x500165 m) (s : State) (hs : a.Keeps m s) :
    a.KeepsR m (execClearingUnload s) := by
  unfold execClearingUnload
  with_reducible repeat' first
    | assumption | apply slaotRow_keeps (Keeps.sub_of hm (by decide)) | apply clUnloadBody_keeps (Keeps.sub_of hm (by decide))
theorem execClearingUnloadStep_keeps {m : Parts} {a : State} (hm : Parts.sub 0x740765 m) (y0 : Nat) (ok : Bool) (s : State) (hs : a.Keeps m s) :
    a.KeepsR m (execClearingUnloadStep y0 ok s) := by
  unfold execClearingUnloadStep
  with_reducible repeat' first
    | assumption | intro _ | apply whenRunning_keeps | apply opRow_keeps (Keeps.sub_of hm (by decide))
    | apply State.clUnbind_keeps (Keeps.sub_of hm (by decide)) | apply State.closePorts_keeps (Keeps.sub_of hm (by decide))
    | apply State.setCl_keeps (Keeps.sub_of hm (by decide)) | apply State.endOp_keeps (Keeps.sub_of hm (by decide))
    | apply State.clQuarantine_keeps (Keeps.sub_of hm (by decide)) | split
theorem clGetBody_keeps {m : Parts} {a : State} (s0 : State) (r0 : Request) (hs0 : a.Keeps m s0) :
    a.KeepsE m (clGetBody s0 r0) := by
  unfold clGetBody
  with_reducible repeat' first
    | assumption | intro _ | apply clRead_keeps | apply done_keeps
theorem execClearingGet_keeps {m : Parts} {a : State} (hm : Parts.sub 0x500165 m) (s : State) (hs : a.Keeps m s) :
    a.KeepsR m (execClearingGet s) := by
  unfold execClearingGet
  with_reducible repeat' first
    | assumption | apply slaotRow_keeps (Keeps.sub_of hm (by decide)) | apply clGetBody_keeps
theorem State.bindable_keeps {m : Parts} {a : State} (s : State) (c : Nat) (q : Nat) (k : Except Nat Done) (hs : a.Keeps m s) (hk : a.KeepsE m k) :
    a.KeepsE m (State.bindable s c q k) := by
  unfold State.bindable
  with_reducible repeat' first
    | assumption | apply chk_keeps
theorem State.unbindChan_keeps {m : Parts} {a : State} (hm : Parts.sub 0x240000 m) (s : State) (c : Nat) (y2 : Nat) (hs : a.Keeps m s) :
    a.Keeps m (State.unbindChan s c y2) := by
  unfold State.unbindChan
  with_reducible repeat' first
    | assumption | apply State.endClJobs_keeps (Keeps.sub_of hm (by decide))
    | apply State.setCl_keeps (Keeps.sub_of hm (by decide)) | split
theorem clQpBindBody_keeps {m : Parts} {a : State} (hm : Parts.sub 0x240000 m) (s0 : State) (r0 : Request) (hs0 : a.Keeps m s0) :
    a.KeepsE m (clQpBindBody s0 r0) := by
  unfold clQpBindBody
  with_reducible repeat' first
    | assumption | intro _ | dsimp only | apply clCmd_keeps | apply chk_keeps | apply done_keeps
    | apply State.unbindChan_keeps (Keeps.sub_of hm (by decide)) | apply State.bindable_keeps
    | apply State.setCl_keeps (Keeps.sub_of hm (by decide)) | split
theorem execClearingQpBind_keeps {m : Parts} {a : State} (hm : Parts.sub 0x740165 m) (s : State) (hs : a.Keeps m s) :
    a.KeepsR m (execClearingQpBind s) := by
  unfold execClearingQpBind
  with_reducible repeat' first
    | assumption | apply slaotRow_keeps (Keeps.sub_of hm (by decide)) | apply clQpBindBody_keeps (Keeps.sub_of hm (by decide))
theorem clLineBindBody_keeps {m : Parts} {a : State} (hm : Parts.sub 0x40000 m) (s0 : State) (r0 : Request) (hs0 : a.Keeps m s0) :
    a.KeepsE m (clLineBindBody s0 r0) := by
  unfold clLineBindBody
  with_reducible repeat' first
    | assumption | intro _ | dsimp only | apply clCmd_keeps | apply chk_keeps | apply done_keeps
    | apply State.setCl_keeps (Keeps.sub_of hm (by decide)) | apply State.bindable_keeps | split
theorem execClearingLineBind_keeps {m : Parts} {a : State} (hm : Parts.sub 0x540165 m) (s : State) (hs : a.Keeps m s) :
    a.KeepsR m (execClearingLineBind s) := by
  unfold execClearingLineBind
  with_reducible repeat' first
    | assumption | apply slaotRow_keeps (Keeps.sub_of hm (by decide)) | apply clLineBindBody_keeps (Keeps.sub_of hm (by decide))
theorem clMeterSetBody_keeps {m : Parts} {a : State} (hm : Parts.sub 0x540084 m) (s0 : State) (r0 : Request) (hs0 : a.Keeps m s0) :
    a.KeepsE m (clMeterSetBody s0 r0) := by
  unfold clMeterSetBody
  with_reducible repeat' first
    | assumption | intro _ | apply chk_keeps | apply done_keeps | apply State.closeUsage_keeps (Keeps.sub_of hm (by decide))
    | apply State.rollUsage_keeps (Keeps.sub_of hm (by decide)) | apply Keeps.foldl | refine Keeps.upd ?_
    | simp only [Keeps.mk_iff] | split
theorem execClearingMeterSet_keeps {m : Parts} {a : State} (hm : Parts.sub 0x5401e5 m) (s : State) (hs : a.Keeps m s) :
    a.KeepsR m (execClearingMeterSet s) := by
  unfold execClearingMeterSet
  with_reducible repeat' first
    | assumption | apply slaotRow_keeps (Keeps.sub_of hm (by decide)) | apply clMeterSetBody_keeps (Keeps.sub_of hm (by decide))
theorem clMeterReadBody_keeps {m : Parts} {a : State} (s0 : State) (r0 : Request) (hs0 : a.Keeps m s0) :
    a.KeepsE m (clMeterReadBody s0 r0) := by
  unfold clMeterReadBody
  with_reducible repeat' first
    | assumption | intro _ | apply clRead_keeps | apply done_keeps
theorem execClearingMeterRead_keeps {m : Parts} {a : State} (hm : Parts.sub 0x500165 m) (s : State) (hs : a.Keeps m s) :
    a.KeepsR m (execClearingMeterRead s) := by
  unfold execClearingMeterRead
  with_reducible repeat' first
    | assumption | apply slaotRow_keeps (Keeps.sub_of hm (by decide)) | apply clMeterReadBody_keeps
theorem clStatsBody_keeps {m : Parts} {a : State} (s0 : State) (r0 : Request) (hs0 : a.Keeps m s0) :
    a.KeepsE m (clStatsBody s0 r0) := by
  unfold clStatsBody
  with_reducible repeat' first
    | assumption | intro _ | apply clRead_keeps | apply done_keeps
theorem execClearingStats_keeps {m : Parts} {a : State} (hm : Parts.sub 0x500165 m) (s : State) (hs : a.Keeps m s) :
    a.KeepsR m (execClearingStats s) := by
  unfold execClearingStats
  with_reducible repeat' first
    | assumption | apply slaotRow_keeps (Keeps.sub_of hm (by decide)) | apply clStatsBody_keeps
theorem clCtrlBody_keeps {m : Parts} {a : State} (hm : Parts.sub 0x40006 m) (s0 : State) (r0 : Request) (hs0 : a.Keeps m s0) :
    a.KeepsE m (clCtrlBody s0 r0) := by
  unfold clCtrlBody
  with_reducible repeat' first
    | assumption | intro _ | apply Keeps.ok | apply clCmd_keeps | apply chk_keeps
    | apply State.fresh_keeps (Keeps.sub_of hm (by decide)) | apply State.ctlPush_keeps (Keeps.sub_of hm (by decide))
    | apply done_keeps | apply State.ctlServeAll_keeps (Keeps.sub_of hm (by decide))
    | simp only [Keeps.Q_iff] | split
theorem execClearingCtrl_keeps {m : Parts} {a : State} (hm : Parts.sub 0x540167 m) (s : State) (hs : a.Keeps m s) :
    a.KeepsR m (execClearingCtrl s) := by
  unfold execClearingCtrl
  with_reducible repeat' first
    | assumption | apply slaotRow_keeps (Keeps.sub_of hm (by decide)) | apply clCtrlBody_keeps (Keeps.sub_of hm (by decide))
theorem execControlRequest_keeps {m : Parts} {a : State} (hm : Parts.sub 0x5c0004 m) (c : Nat) (fn : Nat) (write : Bool) (off : Nat) (data : BitVec 64) (beat : CtlBeat) (s : State) (hs : a.Keeps m s) :
    a.KeepsR m (execControlRequest c fn write off data beat s) := by
  unfold execControlRequest
  with_reducible repeat' first
    | assumption | intro _ | apply whenServing_keeps | apply State.emit_keeps (Keeps.sub_of hm (by decide))
    | apply State.hostCtr_keeps (Keeps.sub_of hm (by decide)) | apply hostRequest_keeps (Keeps.sub_of hm (by decide))
    | apply State.ctlServe_keeps (Keeps.sub_of hm (by decide)) | apply State.ctlPush_keeps (Keeps.sub_of hm (by decide)) | split
theorem execControlAnswer_keeps {m : Parts} {a : State} (hm : Parts.sub 0x540164 m) (c : Nat) (rtag : Nat) (data : BitVec 64) (s : State) (hs : a.Keeps m s) :
    a.KeepsR m (execControlAnswer c rtag data s) := by
  unfold execControlAnswer
  with_reducible repeat' first
    | assumption | intro _ | dsimp only | apply whenRunning_keeps | apply State.drain_keeps (Keeps.sub_of hm (by decide))
    | apply State.ctlServeAll_keeps (Keeps.sub_of hm (by decide)) | apply State.ctlDone_keeps (Keeps.sub_of hm (by decide))
    | apply State.setCl_keeps (Keeps.sub_of hm (by decide)) | apply State.clCtr_keeps (Keeps.sub_of hm (by decide)) | split
theorem execControlReadTimeout_keeps {m : Parts} {a : State} (hm : Parts.sub 0x540165 m) (c : Nat) (rtag : Nat) (s : State) (hs : a.Keeps m s) :
    a.KeepsR m (execControlReadTimeout c rtag s) := by
  unfold execControlReadTimeout
  with_reducible repeat' first
    | assumption | intro _ | apply whenRunning_keeps | apply State.upToClk_keeps (Keeps.sub_of hm (by decide))
    | apply State.drain_keeps (Keeps.sub_of hm (by decide)) | apply State.ctlServeAll_keeps (Keeps.sub_of hm (by decide))
    | apply State.ctlDone_keeps (Keeps.sub_of hm (by decide)) | apply State.clCtr_keeps (Keeps.sub_of hm (by decide))
    | apply State.setCl_keeps (Keeps.sub_of hm (by decide)) | split
theorem State.streamRx_keeps {m : Parts} {a : State} (hm : Parts.sub 0x540604 m) (s : State) (c : Nat) (hs : a.Keeps m s) :
    a.Keeps m (State.streamRx s c) := by
  unfold State.streamRx
  with_reducible repeat' first
    | assumption | dsimp only | apply State.emit_keeps (Keeps.sub_of hm (by decide))
    | apply State.takeSink_keeps (Keeps.sub_of hm (by decide)) | apply State.clUse_keeps (Keeps.sub_of hm (by decide))
    | apply State.clCtr_keeps (Keeps.sub_of hm (by decide)) | split
theorem execStreamRxFrame_keeps {m : Parts} {a : State} (hm : Parts.sub 0x540604 m) (c : Nat) (s : State) (hs : a.Keeps m s) :
    a.KeepsR m (execStreamRxFrame c s) := by
  unfold execStreamRxFrame
  with_reducible repeat' first
    | assumption | intro _ | apply whenRunning_keeps | apply State.streamRx_keeps (Keeps.sub_of hm (by decide))
theorem execStreamTxFrame_keeps {m : Parts} {a : State} (hm : Parts.sub 0x540404 m) (c : Nat) (bytes : List Byte) (abort : Bool) (s : State) (hs : a.Keeps m s) :
    a.KeepsR m (execStreamTxFrame c bytes abort s) := by
  unfold execStreamTxFrame
  with_reducible repeat' first
    | assumption | intro _ | apply whenRunning_keeps | apply State.clUse_keeps (Keeps.sub_of hm (by decide))
    | apply State.clCtr_keeps (Keeps.sub_of hm (by decide)) | apply State.enterFrame_keeps (Keeps.sub_of hm (by decide))
    | simp only [Keeps.Q_iff] | split
theorem execMemCommand_keeps {m : Parts} {a : State} (hm : Parts.sub 0x5c0004 m) (c : Nat) (write : Bool) (off : Nat) (count : Nat) (id : Nat) (s : State) (hs : a.Keeps m s) :
    a.KeepsR m (execMemCommand c write off count id s) := by
  unfold execMemCommand
  with_reducible repeat' first
    | assumption | intro _ | apply whenRunning_keeps | apply State.clCtr_keeps (Keeps.sub_of hm (by decide))
    | apply State.setCl_keeps (Keeps.sub_of hm (by decide)) | apply State.fbCheck_keeps (Keeps.sub_of hm (by decide))
    | apply State.clUse_keeps (Keeps.sub_of hm (by decide))
    | simp only [Keeps.P_iff] | split
theorem State.writeBeat_keeps {m : Parts} {a : State} (hm : Parts.sub 0x3000000 m) (s : State) (y1 : Nat) (data : BitVec 1024) (mask : BitVec 128) (hs : a.Keeps m s) :
    a.Keeps m (State.writeBeat s y1 data mask) := by
  unfold State.writeBeat
  with_reducible repeat' first
    | assumption | intro _ | apply State.memPut_keeps (Keeps.sub_of hm (by decide)) | apply Keeps.foldl | split
theorem State.poisonBeat_keeps {m : Parts} {a : State} (hm : Parts.sub 0x1000000 m) (s : State) (y1 : Nat) (hs : a.Keeps m s) :
    a.Keeps m (State.poisonBeat s y1) := by
  unfold State.poisonBeat
  with_reducible repeat' first
    | assumption | refine Keeps.upd ?_ | simp only [Keeps.mk_iff]
theorem execMemWriteData_keeps {m : Parts} {a : State} (hm : Parts.sub 0x3040000 m) (c : Nat) (data : BitVec 1024) (mask : BitVec 128) (last : Bool) (poisoned : Bool) (s : State) (hs : a.Keeps m s) :
    a.KeepsR m (execMemWriteData c data mask last poisoned s) := by
  unfold execMemWriteData
  with_reducible repeat' first
    | assumption | intro _ | dsimp only | apply whenRunning_keeps | apply State.clCtr_keeps (Keeps.sub_of hm (by decide))
    | apply State.setCl_keeps (Keeps.sub_of hm (by decide)) | apply State.poisonBeat_keeps (Keeps.sub_of hm (by decide))
    | apply State.writeBeat_keeps (Keeps.sub_of hm (by decide)) | split
theorem execMemResponse_keeps {m : Parts} {a : State} (hm : Parts.sub 0x40004 m) (c : Nat) (id : Nat) (poisoned : Bool) (s : State) (hs : a.Keeps m s) :
    a.KeepsR m (execMemResponse c id poisoned s) := by
  unfold execMemResponse
  with_reducible repeat' first
    | assumption | intro _ | dsimp only | apply whenRunning_keeps | apply State.emit_keeps (Keeps.sub_of hm (by decide))
    | apply State.setCl_keeps (Keeps.sub_of hm (by decide)) | split
theorem State.clJob_keeps {m : Parts} {a : State} (hm : Parts.sub 0x240000 m) (s : State) (q : Nat) (slot : W32) (op : Nat) (k : Cl → Nat → Cl) (hs : a.Keeps m s) :
    a.Keeps m (State.clJob s q slot op k) := by
  unfold State.clJob
  with_reducible repeat' first
    | assumption | apply State.endJob_keeps (Keeps.sub_of hm (by decide))
    | apply State.setCl_keeps (Keeps.sub_of hm (by decide)) | apply State.markActed_keeps (Keeps.sub_of hm (by decide)) | split
theorem execH2c_keeps {m : Parts} {a : State} (hm : Parts.sub 0x240000 m) (q : Nat) (slot : W32) (s : State) (hs : a.Keeps m s) :
    a.KeepsR m (execH2c q slot s) := by
  unfold execH2c
  with_reducible repeat' first
    | assumption | intro _ | apply whenRunning_keeps | apply State.clJob_keeps (Keeps.sub_of hm (by decide))
theorem execC2hPost_keeps {m : Parts} {a : State} (hm : Parts.sub 0x240000 m) (q : Nat) (slot : W32) (s : State) (hs : a.Keeps m s) :
    a.KeepsR m (execC2hPost q slot s) := by
  unfold execC2hPost
  with_reducible repeat' first
    | assumption | intro _ | apply whenRunning_keeps | apply State.clJob_keeps (Keeps.sub_of hm (by decide))
theorem execH2cMessage_keeps {m : Parts} {a : State} (hm : Parts.sub 0x740004 m) (c : Nat) (s : State) (hs : a.Keeps m s) :
    a.KeepsR m (execH2cMessage c s) := by
  unfold execH2cMessage
  with_reducible repeat' first
    | assumption | intro _ | dsimp only | apply whenRunning_keeps | apply State.setCl_keeps (Keeps.sub_of hm (by decide))
    | apply State.emit_keeps (Keeps.sub_of hm (by decide)) | apply State.clUse_keeps (Keeps.sub_of hm (by decide))
    | apply State.clCtr_keeps (Keeps.sub_of hm (by decide)) | apply State.endJob_keeps (Keeps.sub_of hm (by decide)) | split
theorem execC2hMessage_keeps {m : Parts} {a : State} (hm : Parts.sub 0x7c0004 m) (c : Nat) (chan : Nat) (ctag : BitVec 32) (bytes : List Byte) (abort : Bool) (s : State) (hs : a.Keeps m s) :
    a.KeepsR m (execC2hMessage c chan ctag bytes abort s) := by
  unfold execC2hMessage
  with_reducible repeat' first
    | assumption | intro _ | dsimp only | apply whenRunning_keeps | apply State.localWrite_keeps (Keeps.sub_of hm (by decide))
    | apply State.clUse_keeps (Keeps.sub_of hm (by decide)) | apply State.setCl_keeps (Keeps.sub_of hm (by decide))
    | apply State.clCtr_keeps (Keeps.sub_of hm (by decide)) | apply State.endJob_keeps (Keeps.sub_of hm (by decide)) | split
    | refine Keeps.fst_of (by assumption) ?_
theorem execEventLineFire_keeps {m : Parts} {a : State} (hm : Parts.sub 0x540004 m) (c : Nat) (lines : BitVec 64) (data : BitVec 24) (s : State) (hs : a.Keeps m s) :
    a.KeepsR m (execEventLineFire c lines data s) := by
  unfold execEventLineFire
  with_reducible repeat' first
    | assumption | intro _ | dsimp only | apply whenRunning_keeps | apply State.clCtr_keeps (Keeps.sub_of hm (by decide))
    | apply State.fire_keeps (Keeps.sub_of hm (by decide)) | apply State.setCl_keeps (Keeps.sub_of hm (by decide))
    | apply Keeps.foldl | split
theorem State.firePower_keeps {m : Parts} {a : State} (hm : Parts.sub 0x500004 m) (s : State) (c : Nat) (steps : Nat) (hs : a.Keeps m s) :
    a.Keeps m (State.firePower s c steps) := by
  unfold State.firePower
  with_reducible repeat' first
    | assumption | apply State.fireCl_keeps (Keeps.sub_of hm (by decide))
theorem execClearingPowerWindow_keeps {m : Parts} {a : State} (hm : Parts.sub 0x740745 m) (c : Nat) (mw : Nat) (s : State) (hs : a.Keeps m s) :
    a.KeepsR m (execClearingPowerWindow c mw s) := by
  unfold execClearingPowerWindow
  with_reducible repeat' first
    | assumption | intro _ | dsimp only | apply whenRunning_keeps | apply State.clUse_keeps (Keeps.sub_of hm (by decide))
    | apply State.upToTime_keeps (Keeps.sub_of hm (by decide)) | apply State.clCount_keeps (Keeps.sub_of hm (by decide))
    | apply State.clFault_keeps (Keeps.sub_of hm (by decide)) | apply State.setCl_keeps (Keeps.sub_of hm (by decide))
    | apply State.clCtr_keeps (Keeps.sub_of hm (by decide)) | apply State.firePower_keeps (Keeps.sub_of hm (by decide)) | split

end Sys2Proof.Machine
end

