-- ==== Sys2Proof/Laws/KeepsSinks.lean ====
section
/-! SUPPORT. What the definitions of Machine/Sinks.lean keep: no part of the state changes but those of the mask, which is
`Parts` in bits (Safety.lean), and what every command keeps. -/
set_option Elab.async false
namespace Sys2Proof.Machine

theorem State.engineTake_keeps {m : Parts} {a : State} (hm : Parts.sub 0x10604 m) (s : State) (g : Nat) (hs : a.Keeps m s) :
    a.Keeps m (State.engineTake s g) := by
  unfold State.engineTake
  with_reducible repeat' first
    | assumption | apply State.raTake_keeps (Keeps.sub_of hm (by decide)) | split
theorem execSinkTake_keeps {m : Parts} {a : State} (hm : Parts.sub 0x7d6604 m) (grove : Nat) (sink : Sink) (s : State) (hs : a.Keeps m s) :
    a.KeepsR m (execSinkTake grove sink s) := by
  unfold execSinkTake
  with_reducible repeat' first
    | assumption | intro _ | apply whenRunning_keeps | apply State.rxTake_keeps (Keeps.sub_of hm (by decide))
    | apply State.streamRx_keeps (Keeps.sub_of hm (by decide)) | apply State.engineTake_keeps (Keeps.sub_of hm (by decide))
    | apply State.slowTake_keeps (Keeps.sub_of hm (by decide)) | split

end Sys2Proof.Machine
end

