-- ==== Sys2Proof/Laws/KeepsSlaot.lean ====
section
/-! SUPPORT. What the definitions of Machine/Slaot.lean keep: no part of the state changes but those of the mask, which is
`Parts` in bits (Safety.lean), and what every command keeps. -/
set_option Elab.async false
namespace Sys2Proof.Machine

theorem State.submit_keeps {m : Parts} {a : State} (hm : Parts.sub 0x100 m) (s : State) (p : Nat) (hs : a.Keeps m s) :
    a.Keeps m (State.submit s p) := by
  unfold State.submit
  with_reducible repeat' first
    | assumption | dsimp only | apply State.setMbx_keeps (Keeps.sub_of hm (by decide))
    | apply State.deliver_keeps (Keeps.sub_of hm (by decide)) | split
theorem State.clearMbStatus_keeps {m : Parts} {a : State} (hm : Parts.sub 0x100 m) (s : State) (p : Nat) (v : W32) (hs : a.Keeps m s) :
    a.Keeps m (State.clearMbStatus s p v) := by
  unfold State.clearMbStatus
  with_reducible repeat' first
    | assumption | apply State.setMbx_keeps (Keeps.sub_of hm (by decide))
theorem State.putRequest_keeps {m : Parts} {a : State} (hm : Parts.sub 0x100 m) (s : State) (p : Nat) (off : Nat) (bytes : List Byte) (hs : a.Keeps m s) :
    a.Keeps m (State.putRequest s p off bytes) := by
  unfold State.putRequest
  with_reducible repeat' first
    | assumption | dsimp only | apply State.setMbx_keeps (Keeps.sub_of hm (by decide)) | split
theorem mailboxWrite_keeps {m : Parts} {a : State} (hm : Parts.sub 0x580004 m) (s : State) (p : Nat) (off : Nat) (len : Nat) (k : State → State) (hs : a.Keeps m s) (hk : ∀ (z0 : State), a.Keeps m z0 → a.Keeps m (k z0)) :
    a.Keeps m (mailboxWrite s p off len k) := by
  unfold mailboxWrite
  with_reducible repeat' first
    | assumption | apply hk | apply hostRequest_keeps (Keeps.sub_of hm (by decide))
theorem execMailboxSubmit_keeps {m : Parts} {a : State} (hm : Parts.sub 0x580104 m) (p : Nat) (v : BitVec 32) (s : State) (hs : a.Keeps m s) :
    a.KeepsR m (execMailboxSubmit p v s) := by
  unfold execMailboxSubmit
  with_reducible repeat' first
    | assumption | intro _ | apply whenServing_keeps | apply mailboxWrite_keeps (Keeps.sub_of hm (by decide))
    | apply State.submit_keeps (Keeps.sub_of hm (by decide)) | split
theorem execRequestBufferWrite_keeps {m : Parts} {a : State} (hm : Parts.sub 0x580104 m) (p : Nat) (off : Nat) (bytes : List Byte) (s : State) (hs : a.Keeps m s) :
    a.KeepsR m (execRequestBufferWrite p off bytes s) := by
  unfold execRequestBufferWrite
  with_reducible repeat' first
    | assumption | intro _ | apply whenServing_keeps | apply mailboxWrite_keeps (Keeps.sub_of hm (by decide))
    | apply State.putRequest_keeps (Keeps.sub_of hm (by decide)) | apply State.hostCtr_keeps (Keeps.sub_of hm (by decide))
    | split
theorem execMbStatusClear_keeps {m : Parts} {a : State} (hm : Parts.sub 0x580104 m) (p : Nat) (v : BitVec 32) (s : State) (hs : a.Keeps m s) :
    a.KeepsR m (execMbStatusClear p v s) := by
  unfold execMbStatusClear
  with_reducible repeat' first
    | assumption | intro _ | apply whenServing_keeps | apply mailboxWrite_keeps (Keeps.sub_of hm (by decide))
    | apply State.clearMbStatus_keeps (Keeps.sub_of hm (by decide))
theorem execOobMessage_keeps {m : Parts} {a : State} (hm : Parts.sub 0x104 m) (bus : Nat) (eid : Nat) (mtag : Nat) (bytes : List Byte) (s : State) (hs : a.Keeps m s) :
    a.KeepsR m (execOobMessage bus eid mtag bytes s) := by
  unfold execOobMessage
  with_reducible repeat' first
    | assumption | intro _ | apply whenServing_keeps | apply State.emit_keeps (Keeps.sub_of hm (by decide))
    | apply State.deliver_keeps (Keeps.sub_of hm (by decide)) | refine Keeps.upd ?_ | simp only [Keeps.mk_iff] | split
theorem State.discard_keeps {m : Parts} {a : State} (hm : Parts.sub 0x100 m) (s : State) (i : Nat) (hs : a.Keeps m s) :
    a.Keeps m (State.discard s i) := by
  unfold State.discard
  with_reducible repeat' first
    | assumption | refine Keeps.upd ?_ | simp only [Keeps.mk_iff]
theorem execInbandDatagram_keeps {m : Parts} {a : State} (hm : Parts.sub 0x100 m) (port : Nat) (addr : List Byte) (udp : Nat) (frag : Bool) (bytes : List Byte) (s : State) (hs : a.Keeps m s) :
    a.KeepsR m (execInbandDatagram port addr udp frag bytes s) := by
  unfold execInbandDatagram
  with_reducible repeat' first
    | assumption | intro _ | apply whenRunning_keeps | apply State.discard_keeps (Keeps.sub_of hm (by decide))
    | apply State.deliver_keeps (Keeps.sub_of hm (by decide)) | refine Keeps.upd ?_ | simp only [Keeps.mk_iff] | split
theorem opStatusBody_keeps {m : Parts} {a : State} (s0 : State) (r0 : Request) (hs0 : a.Keeps m s0) :
    a.KeepsE m (opStatusBody s0 r0) := by
  unfold opStatusBody
  with_reducible repeat' first
    | assumption | exact Keeps.error _ | apply chk_keeps | apply done_keeps | split
theorem execOpStatus_keeps {m : Parts} {a : State} (hm : Parts.sub 0x500165 m) (s : State) (hs : a.Keeps m s) :
    a.KeepsR m (execOpStatus s) := by
  unfold execOpStatus
  with_reducible repeat' first
    | assumption | apply slaotRow_keeps (Keeps.sub_of hm (by decide)) | apply opStatusBody_keeps
theorem opCancelBody_keeps {m : Parts} {a : State} (hm : Parts.sub 0x100 m) (s0 : State) (r0 : Request) (hs0 : a.Keeps m s0) :
    a.KeepsE m (opCancelBody s0 r0) := by
  unfold opCancelBody
  with_reducible repeat' first
    | assumption | exact Keeps.error _ | apply chk_keeps | apply done_keeps
    | apply State.setOp_keeps (Keeps.sub_of hm (by decide)) | split
theorem execOpCancel_keeps {m : Parts} {a : State} (hm : Parts.sub 0x500165 m) (s : State) (hs : a.Keeps m s) :
    a.KeepsR m (execOpCancel s) := by
  unfold execOpCancel
  with_reducible repeat' first
    | assumption | apply slaotRow_keeps (Keeps.sub_of hm (by decide)) | apply opCancelBody_keeps (Keeps.sub_of hm (by decide))
theorem capsBody_keeps {m : Parts} {a : State} (s0 : State) (r0 : Request) (hs0 : a.Keeps m s0) :
    a.KeepsE m (capsBody s0 r0) := by
  unfold capsBody
  with_reducible repeat' first
    | assumption | apply chk_keeps | apply done_keeps
theorem execDeviceCaps_keeps {m : Parts} {a : State} (hm : Parts.sub 0x500165 m) (s : State) (hs : a.Keeps m s) :
    a.KeepsR m (execDeviceCaps s) := by
  unfold execDeviceCaps
  with_reducible repeat' first
    | assumption | apply slaotRow_keeps (Keeps.sub_of hm (by decide)) | apply capsBody_keeps
theorem infoBody_keeps {m : Parts} {a : State} (s0 : State) (r0 : Request) (hs0 : a.Keeps m s0) :
    a.KeepsE m (infoBody s0 r0) := by
  unfold infoBody
  with_reducible repeat' first
    | assumption | apply chk_keeps | apply done_keeps
theorem execDeviceInfo_keeps {m : Parts} {a : State} (hm : Parts.sub 0x500165 m) (s : State) (hs : a.Keeps m s) :
    a.KeepsR m (execDeviceInfo s) := by
  unfold execDeviceInfo
  with_reducible repeat' first
    | assumption | apply slaotRow_keeps (Keeps.sub_of hm (by decide)) | apply infoBody_keeps
theorem pinBody_keeps {m : Parts} {a : State} (hm : Parts.sub 0x80 m) (s0 : State) (r0 : Request) (hs0 : a.Keeps m s0) :
    a.KeepsE m (pinBody s0 r0) := by
  unfold pinBody
  with_reducible repeat' first
    | assumption | apply chk_keeps | apply done_keeps | refine Keeps.upd ?_ | simp only [Keeps.mk_iff]
theorem execDevicePin_keeps {m : Parts} {a : State} (hm : Parts.sub 0x5001e5 m) (s : State) (hs : a.Keeps m s) :
    a.KeepsR m (execDevicePin s) := by
  unfold execDevicePin
  with_reducible repeat' first
    | assumption | apply slaotRow_keeps (Keeps.sub_of hm (by decide)) | apply pinBody_keeps (Keeps.sub_of hm (by decide))
theorem assignBody_keeps {m : Parts} {a : State} (hm : Parts.sub 0x80 m) (s0 : State) (r0 : Request) (hs0 : a.Keeps m s0) :
    a.KeepsE m (assignBody s0 r0) := by
  unfold assignBody
  with_reducible repeat' first
    | assumption | intro _ | apply chk_keeps | apply done_keeps | apply State.setOwner_keeps (Keeps.sub_of hm (by decide))
    | apply Keeps.foldl
theorem execSecurityAssign_keeps {m : Parts} {a : State} (hm : Parts.sub 0x5001e5 m) (s : State) (hs : a.Keeps m s) :
    a.KeepsR m (execSecurityAssign s) := by
  unfold execSecurityAssign
  with_reducible repeat' first
    | assumption | apply slaotRow_keeps (Keeps.sub_of hm (by decide)) | apply assignBody_keeps (Keeps.sub_of hm (by decide))
theorem inbandBody_keeps {m : Parts} {a : State} (hm : Parts.sub 0x80 m) (s0 : State) (r0 : Request) (hs0 : a.Keeps m s0) :
    a.KeepsE m (inbandBody s0 r0) := by
  unfold inbandBody
  with_reducible repeat' first
    | assumption | apply chk_keeps | apply done_keeps | refine Keeps.upd ?_ | simp only [Keeps.mk_iff]
theorem execDeviceInband_keeps {m : Parts} {a : State} (hm : Parts.sub 0x5001e5 m) (s : State) (hs : a.Keeps m s) :
    a.KeepsR m (execDeviceInband s) := by
  unfold execDeviceInband
  with_reducible repeat' first
    | assumption | apply slaotRow_keeps (Keeps.sub_of hm (by decide)) | apply inbandBody_keeps (Keeps.sub_of hm (by decide))

end Sys2Proof.Machine
end

