-- ==== Sys2Proof/Laws/KeepsSecurity.lean ====
section
/-! SUPPORT. What the definitions of Machine/Security.lean keep: no part of the state changes but those of the mask, which is
`Parts` in bits (Safety.lean), and what every command keeps. -/
set_option Elab.async false
namespace Sys2Proof.Machine

theorem fbSetBody_keeps {m : Parts} {a : State} (hm : Parts.sub 0x80 m) (s0 : State) (r0 : Request) (hs0 : a.Keeps m s0) :
    a.KeepsE m (fbSetBody s0 r0) := by
  unfold fbSetBody
  with_reducible repeat' first
    | assumption | apply chk_keeps | apply done_keeps | refine Keeps.upd ?_ | simp only [Keeps.mk_iff]
theorem execFirebreakSet_keeps {m : Parts} {a : State} (hm : Parts.sub 0x5001e5 m) (s : State) (hs : a.Keeps m s) :
    a.KeepsR m (execFirebreakSet s) := by
  unfold execFirebreakSet
  with_reducible repeat' first
    | assumption | apply slaotRow_keeps (Keeps.sub_of hm (by decide)) | apply fbSetBody_keeps (Keeps.sub_of hm (by decide))
theorem fbGetBody_keeps {m : Parts} {a : State} (s0 : State) (r0 : Request) (hs0 : a.Keeps m s0) :
    a.KeepsE m (fbGetBody s0 r0) := by
  unfold fbGetBody
  with_reducible repeat' first
    | assumption | apply chk_keeps | apply done_keeps
theorem execFirebreakGet_keeps {m : Parts} {a : State} (hm : Parts.sub 0x500165 m) (s : State) (hs : a.Keeps m s) :
    a.KeepsR m (execFirebreakGet s) := by
  unfold execFirebreakGet
  with_reducible repeat' first
    | assumption | apply slaotRow_keeps (Keeps.sub_of hm (by decide)) | apply fbGetBody_keeps
theorem mapCmd_keeps {m : Parts} {a : State} (data : Nat → Nat) (gate : State → Nat → Bool) (k : State → Request → Nat → Nat → Nat → Except Nat Done) (s0 : State) (r0 : Request) (hs0 : a.Keeps m s0) (hk : ∀ (z0 : State) (z1 : Request) (z2 : Nat) (z3 : Nat) (z4 : Nat), a.Keeps m z0 → a.KeepsE m (k z0 z1 z2 z3 z4)) :
    a.KeepsE m (mapCmd data gate k s0 r0) := by
  unfold mapCmd
  with_reducible repeat' first
    | assumption | apply hk | apply chk_keeps
theorem mapSetBody_keeps {m : Parts} {a : State} (hm : Parts.sub 0x80 m) (s0 : State) (r0 : Request) (hs0 : a.Keeps m s0) :
    a.KeepsE m (mapSetBody s0 r0) := by
  unfold mapSetBody
  with_reducible repeat' first
    | assumption | intro _ | apply mapCmd_keeps | apply done_keeps | refine Keeps.upd ?_ | simp only [Keeps.mk_iff]
theorem execFirebreakMapSet_keeps {m : Parts} {a : State} (hm : Parts.sub 0x5001e5 m) (s : State) (hs : a.Keeps m s) :
    a.KeepsR m (execFirebreakMapSet s) := by
  unfold execFirebreakMapSet
  with_reducible repeat' first
    | assumption | apply slaotRow_keeps (Keeps.sub_of hm (by decide)) | apply mapSetBody_keeps (Keeps.sub_of hm (by decide))
theorem mapGetBody_keeps {m : Parts} {a : State} (s0 : State) (r0 : Request) (hs0 : a.Keeps m s0) :
    a.KeepsE m (mapGetBody s0 r0) := by
  unfold mapGetBody
  with_reducible repeat' first
    | assumption | intro _ | apply mapCmd_keeps | apply done_keeps
theorem execFirebreakMapGet_keeps {m : Parts} {a : State} (hm : Parts.sub 0x500165 m) (s : State) (hs : a.Keeps m s) :
    a.KeepsR m (execFirebreakMapGet s) := by
  unfold execFirebreakMapGet
  with_reducible repeat' first
    | assumption | apply slaotRow_keeps (Keeps.sub_of hm (by decide)) | apply mapGetBody_keeps
theorem fbLogBody_keeps {m : Parts} {a : State} (s0 : State) (r0 : Request) (hs0 : a.Keeps m s0) :
    a.KeepsE m (fbLogBody s0 r0) := by
  unfold fbLogBody
  with_reducible repeat' first
    | assumption | apply chk_keeps | apply done_keeps
theorem execFirebreakLogRead_keeps {m : Parts} {a : State} (hm : Parts.sub 0x500165 m) (s : State) (hs : a.Keeps m s) :
    a.KeepsR m (execFirebreakLogRead s) := by
  unfold execFirebreakLogRead
  with_reducible repeat' first
    | assumption | apply slaotRow_keeps (Keeps.sub_of hm (by decide)) | apply fbLogBody_keeps
theorem State.measureM2_keeps {m : Parts} {a : State} (hm : Parts.sub 0x80000 m) (s : State) (y1 : Config.Measured) (hs : a.Keeps m s) :
    a.Keeps m (State.measureM2 s y1) := by
  unfold State.measureM2
  with_reducible repeat' first
    | assumption | apply State.extend_keeps (Keeps.sub_of hm (by decide))
theorem wrapkeySetBody_keeps {m : Parts} {a : State} (hm : Parts.sub 0x80020 m) (s0 : State) (r0 : Request) (hs0 : a.Keeps m s0) :
    a.KeepsE m (wrapkeySetBody s0 r0) := by
  unfold wrapkeySetBody
  with_reducible repeat' first
    | assumption | apply chk_keeps | apply done_keeps | apply State.measureM2_keeps (Keeps.sub_of hm (by decide))
    | refine Keeps.upd ?_ | simp only [Keeps.mk_iff]
theorem execSecurityWrapkeySet_keeps {m : Parts} {a : State} (hm : Parts.sub 0x580165 m) (s : State) (hs : a.Keeps m s) :
    a.KeepsR m (execSecurityWrapkeySet s) := by
  unfold execSecurityWrapkeySet
  with_reducible repeat' first
    | assumption | apply slaotRow_keeps (Keeps.sub_of hm (by decide)) | apply wrapkeySetBody_keeps (Keeps.sub_of hm (by decide))
theorem State.setCmdKey_keeps {m : Parts} {a : State} (hm : Parts.sub 0x60 m) (s : State) (y1 : Nat) (key : Option (BitVec 256)) (hs : a.Keeps m s) :
    a.Keeps m (State.setCmdKey s y1 key) := by
  unfold State.setCmdKey
  with_reducible repeat' first
    | assumption | refine Keeps.upd ?_ | simp only [Keeps.mk_iff]
theorem cmdkeySetBody_keeps {m : Parts} {a : State} (hm : Parts.sub 0x80060 m) (s0 : State) (r0 : Request) (hs0 : a.Keeps m s0) :
    a.KeepsE m (cmdkeySetBody s0 r0) := by
  unfold cmdkeySetBody
  with_reducible repeat' first
    | assumption | exact Keeps.error _ | apply chk_keeps | apply done_keeps
    | apply State.measureM2_keeps (Keeps.sub_of hm (by decide)) | apply State.setCmdKey_keeps (Keeps.sub_of hm (by decide))
    | split
theorem execSecurityCmdkeySet_keeps {m : Parts} {a : State} (hm : Parts.sub 0x580165 m) (s : State) (hs : a.Keeps m s) :
    a.KeepsR m (execSecurityCmdkeySet s) := by
  unfold execSecurityCmdkeySet
  with_reducible repeat' first
    | assumption | apply slaotRow_keeps (Keeps.sub_of hm (by decide)) | apply cmdkeySetBody_keeps (Keeps.sub_of hm (by decide))
theorem verifykeySetBody_keeps {m : Parts} {a : State} (hm : Parts.sub 0x80020 m) (s0 : State) (r0 : Request) (hs0 : a.Keeps m s0) :
    a.KeepsE m (verifykeySetBody s0 r0) := by
  unfold verifykeySetBody
  with_reducible repeat' first
    | assumption | apply chk_keeps | apply done_keeps | apply State.measureM2_keeps (Keeps.sub_of hm (by decide))
    | refine Keeps.upd ?_ | simp only [Keeps.mk_iff]
theorem execSecurityVerifykeySet_keeps {m : Parts} {a : State} (hm : Parts.sub 0x580165 m) (s : State) (hs : a.Keeps m s) :
    a.KeepsR m (execSecurityVerifykeySet s) := by
  unfold execSecurityVerifykeySet
  with_reducible repeat' first
    | assumption | apply slaotRow_keeps (Keeps.sub_of hm (by decide))
    | apply verifykeySetBody_keeps (Keeps.sub_of hm (by decide))
theorem floorSetBody_keeps {m : Parts} {a : State} (hm : Parts.sub 0x80020 m) (s0 : State) (r0 : Request) (hs0 : a.Keeps m s0) :
    a.KeepsE m (floorSetBody s0 r0) := by
  unfold floorSetBody
  with_reducible repeat' first
    | assumption | apply chk_keeps | apply done_keeps | apply State.measureM2_keeps (Keeps.sub_of hm (by decide))
    | refine Keeps.upd ?_ | simp only [Keeps.mk_iff]
theorem execSecurityFloorSet_keeps {m : Parts} {a : State} (hm : Parts.sub 0x580165 m) (s : State) (hs : a.Keeps m s) :
    a.KeepsR m (execSecurityFloorSet s) := by
  unfold execSecurityFloorSet
  with_reducible repeat' first
    | assumption | apply slaotRow_keeps (Keeps.sub_of hm (by decide)) | apply floorSetBody_keeps (Keeps.sub_of hm (by decide))
theorem keysGetBody_keeps {m : Parts} {a : State} (s0 : State) (r0 : Request) (hs0 : a.Keeps m s0) :
    a.KeepsE m (keysGetBody s0 r0) := by
  unfold keysGetBody
  with_reducible repeat' first
    | assumption | apply chk_keeps | apply done_keeps
theorem execSecurityKeysGet_keeps {m : Parts} {a : State} (hm : Parts.sub 0x500165 m) (s : State) (hs : a.Keeps m s) :
    a.KeepsR m (execSecurityKeysGet s) := by
  unfold execSecurityKeysGet
  with_reducible repeat' first
    | assumption | apply slaotRow_keeps (Keeps.sub_of hm (by decide)) | apply keysGetBody_keeps
theorem debugSetBody_keeps {m : Parts} {a : State} (hm : Parts.sub 0x80000 m) (s0 : State) (r0 : Request) (hs0 : a.Keeps m s0) :
    a.KeepsE m (debugSetBody s0 r0) := by
  unfold debugSetBody
  with_reducible repeat' first
    | assumption | apply chk_keeps | apply done_keeps | apply State.measureM2_keeps (Keeps.sub_of hm (by decide))
    | refine Keeps.upd ?_ | simp only [Keeps.mk_iff]
theorem execSecurityDebugSet_keeps {m : Parts} {a : State} (hm : Parts.sub 0x580165 m) (s : State) (hs : a.Keeps m s) :
    a.KeepsR m (execSecurityDebugSet s) := by
  unfold execSecurityDebugSet
  with_reducible repeat' first
    | assumption | apply slaotRow_keeps (Keeps.sub_of hm (by decide)) | apply debugSetBody_keeps (Keeps.sub_of hm (by decide))
theorem execDebugWindowClose_keeps {m : Parts} {a : State} (hm : Parts.sub 0x80001 m) (grove : Nat) (s : State) (hs : a.Keeps m s) :
    a.KeepsR m (execDebugWindowClose grove s) := by
  unfold execDebugWindowClose
  with_reducible repeat' first
    | assumption | intro _ | apply whenServing_keeps | apply State.upToClk_keeps (Keeps.sub_of hm (by decide))
    | apply State.measureM2_keeps (Keeps.sub_of hm (by decide)) | refine Keeps.upd ?_ | simp only [Keeps.mk_iff] | split
theorem State.debugWrite_keeps {m : Parts} {a : State} (hm : Parts.sub 0x4000 m) (s : State) (t : Thr) (r : DebugReg) (v : W64) (hs : a.Keeps m s) :
    a.Keeps m (State.debugWrite s t r v) := by
  unfold State.debugWrite
  with_reducible repeat' first
    | assumption | apply State.setThread_keeps (Keeps.sub_of hm (by decide))
    | apply State.csrWrite_keeps (Keeps.sub_of hm (by decide)) | apply Keeps.getD | split
theorem execJtagDebugAccess_keeps {m : Parts} {a : State} (hm : Parts.sub 0x4004 m) (t : Thr) (op : DebugOp) (s : State) (hs : a.Keeps m s) :
    a.KeepsR m (execJtagDebugAccess t op s) := by
  unfold execJtagDebugAccess
  with_reducible repeat' first
    | assumption | apply Keeps.next | apply State.putThread_keeps (Keeps.sub_of hm (by decide))
    | apply State.emit_keeps (Keeps.sub_of hm (by decide)) | apply State.debugWrite_keeps (Keeps.sub_of hm (by decide))
    | apply State.chRelease_keeps (Keeps.sub_of hm (by decide)) | split
theorem identityGetBody_keeps {m : Parts} {a : State} (s0 : State) (r0 : Request) (hs0 : a.Keeps m s0) :
    a.KeepsE m (identityGetBody s0 r0) := by
  unfold identityGetBody
  with_reducible repeat' first
    | assumption | apply chk_keeps | apply done_keeps
theorem execSecurityIdentityGet_keeps {m : Parts} {a : State} (hm : Parts.sub 0x500165 m) (s : State) (hs : a.Keeps m s) :
    a.KeepsR m (execSecurityIdentityGet s) := by
  unfold execSecurityIdentityGet
  with_reducible repeat' first
    | assumption | apply slaotRow_keeps (Keeps.sub_of hm (by decide)) | apply identityGetBody_keeps
theorem attestBody_keeps {m : Parts} {a : State} (hm : Parts.sub 0x100 m) (s0 : State) (r0 : Request) (hs0 : a.Keeps m s0) :
    a.KeepsE m (attestBody s0 r0) := by
  unfold attestBody
  with_reducible repeat' first
    | assumption | apply chk_keeps | apply startOp_keeps (Keeps.sub_of hm (by decide))
theorem execSecurityAttest_keeps {m : Parts} {a : State} (hm : Parts.sub 0x500165 m) (s : State) (hs : a.Keeps m s) :
    a.KeepsR m (execSecurityAttest s) := by
  unfold execSecurityAttest
  with_reducible repeat' first
    | assumption | apply slaotRow_keeps (Keeps.sub_of hm (by decide)) | apply attestBody_keeps (Keeps.sub_of hm (by decide))
theorem execAttestComplete_keeps {m : Parts} {a : State} (hm : Parts.sub 0x580165 m) (y0 : Nat) (s : State) (hs : a.Keeps m s) :
    a.KeepsR m (execAttestComplete y0 s) := by
  unfold execAttestComplete
  with_reducible repeat' first
    | assumption | intro _ | apply whenServing_keeps | apply opRow_keeps (Keeps.sub_of hm (by decide))
    | apply State.endOp_keeps (Keeps.sub_of hm (by decide)) | refine Keeps.upd ?_ | simp only [Keeps.mk_iff] | split
theorem reportGetBody_keeps {m : Parts} {a : State} (s0 : State) (r0 : Request) (hs0 : a.Keeps m s0) :
    a.KeepsE m (reportGetBody s0 r0) := by
  unfold reportGetBody
  with_reducible repeat' first
    | assumption | exact Keeps.error _ | apply chk_keeps | apply done_keeps | split
theorem execSecurityReportGet_keeps {m : Parts} {a : State} (hm : Parts.sub 0x500165 m) (s : State) (hs : a.Keeps m s) :
    a.KeepsR m (execSecurityReportGet s) := by
  unfold execSecurityReportGet
  with_reducible repeat' first
    | assumption | apply slaotRow_keeps (Keeps.sub_of hm (by decide)) | apply reportGetBody_keeps

end Sys2Proof.Machine
end

