-- ==== Sys2Proof/Laws/KeepsTime.lean ====
section
/-! SUPPORT. What the definitions of Machine/Time.lean keep: no part of the state changes but those of the mask, which is
`Parts` in bits (Safety.lean), and what every command keeps. -/
set_option Elab.async false
namespace Sys2Proof.Machine

theorem State.tmSet_keeps {m : Parts} {a : State} (hm : Parts.sub 0x800000 m) (s : State) (f : TimeSt → TimeSt) (hs : a.Keeps m s) :
    a.Keeps m (State.tmSet s f) := by
  unfold State.tmSet
  with_reducible repeat' first
    | assumption | refine Keeps.upd ?_ | simp only [Keeps.mk_iff]
theorem State.timeState_keeps {m : Parts} {a : State} (hm : Parts.sub 0xd00004 m) (s : State) (v : Nat) (hs : a.Keeps m s) :
    a.Keeps m (State.timeState s v) := by
  unfold State.timeState
  with_reducible repeat' first
    | assumption | dsimp only | apply State.fireAll_keeps (Keeps.sub_of hm (by decide))
    | apply State.tmSet_keeps (Keeps.sub_of hm (by decide)) | split
theorem State.setFreq_keeps {m : Parts} {a : State} (hm : Parts.sub 0x800000 m) (s : State) (f : Int) (hs : a.Keeps m s) :
    a.Keeps m (State.setFreq s f) := by
  unfold State.setFreq
  with_reducible repeat' first
    | assumption | apply State.tmSet_keeps (Keeps.sub_of hm (by decide))
theorem State.slewBy_keeps {m : Parts} {a : State} (hm : Parts.sub 0x800000 m) (s : State) (off : Int) (hs : a.Keeps m s) :
    a.Keeps m (State.slewBy s off) := by
  unfold State.slewBy
  with_reducible repeat' first
    | assumption | apply State.tmSet_keeps (Keeps.sub_of hm (by decide))
theorem State.decideAll_keeps {m : Parts} {a : State} (hm : Parts.sub 0x507084 m) (y0 : Nat) (y1 : State) (hy1 : a.Keeps m y1) :
    a.Keeps m (State.decideAll y0 y1) := by
  induction y0 generalizing y1 with
  | zero =>
    unfold State.decideAll
    with_reducible repeat' first
      | assumption | apply ih | apply State.decideFirst_keeps (Keeps.sub_of hm (by decide))
  | succ n ih =>
    unfold State.decideAll
    with_reducible repeat' first
      | assumption | apply ih | apply State.decideFirst_keeps (Keeps.sub_of hm (by decide))
theorem State.timeStep_keeps {m : Parts} {a : State} (hm : Parts.sub 0xd47084 m) (s : State) (d : Int) (hs : a.Keeps m s) :
    a.Keeps m (State.timeStep s d) := by
  unfold State.timeStep
  with_reducible repeat' first
    | assumption | intro _ | apply State.decideAll_keeps (Keeps.sub_of hm (by decide))
    | apply State.closeUsage_keeps (Keeps.sub_of hm (by decide)) | apply State.rollUsage_keeps (Keeps.sub_of hm (by decide))
    | apply State.tmSet_keeps (Keeps.sub_of hm (by decide)) | apply State.fireAll_keeps (Keeps.sub_of hm (by decide))
    | apply Keeps.foldl | refine Keeps.upd ?_ | simp only [Keeps.mk_iff] | split
theorem State.correct_keeps {m : Parts} {a : State} (hm : Parts.sub 0xd47084 m) (s : State) (off : Int) (hs : a.Keeps m s) :
    a.Keeps m (State.correct s off) := by
  unfold State.correct
  with_reducible repeat' first
    | assumption | apply State.timeStep_keeps (Keeps.sub_of hm (by decide))
    | apply State.slewBy_keeps (Keeps.sub_of hm (by decide)) | split
theorem State.servoEdge_keeps {m : Parts} {a : State} (hm : Parts.sub 0x800002 m) (s : State) (hs : a.Keeps m s) :
    a.Keeps m (State.servoEdge s) := by
  unfold State.servoEdge
  with_reducible repeat' first
    | assumption | apply State.fresh_keeps (Keeps.sub_of hm (by decide)) | apply State.tmSet_keeps (Keeps.sub_of hm (by decide))
    | apply State.setFreq_keeps (Keeps.sub_of hm (by decide))
    | simp only [Keeps.Q_iff]
theorem execPpsInEdge_keeps {m : Parts} {a : State} (hm : Parts.sub 0xd471e7 m) (stamp : Nat) (s : State) (hs : a.Keeps m s) :
    a.KeepsR m (execPpsInEdge stamp s) := by
  unfold execPpsInEdge
  with_reducible repeat' first
    | assumption | intro _ | dsimp only | apply whenServing_keeps | apply State.upToTime_keeps (Keeps.sub_of hm (by decide))
    | apply State.tmSet_keeps (Keeps.sub_of hm (by decide)) | apply State.servoEdge_keeps (Keeps.sub_of hm (by decide))
    | apply State.timeStep_keeps (Keeps.sub_of hm (by decide)) | apply State.slewBy_keeps (Keeps.sub_of hm (by decide))
    | apply State.drain_keeps (Keeps.sub_of hm (by decide)) | apply State.finish_keeps (Keeps.sub_of hm (by decide))
    | apply State.timeState_keeps (Keeps.sub_of hm (by decide)) | apply State.correct_keeps (Keeps.sub_of hm (by decide))
    | split
theorem execTimeHoldover_keeps {m : Parts} {a : State} (hm : Parts.sub 0xd00005 m) (s : State) (hs : a.Keeps m s) :
    a.KeepsR m (execTimeHoldover s) := by
  unfold execTimeHoldover
  with_reducible repeat' first
    | assumption | intro _ | apply whenServing_keeps | apply State.upToClk_keeps (Keeps.sub_of hm (by decide))
    | apply State.timeState_keeps (Keeps.sub_of hm (by decide)) | apply State.tmSet_keeps (Keeps.sub_of hm (by decide)) | split
theorem timeConfigBody_keeps {m : Parts} {a : State} (hm : Parts.sub 0x800080 m) (s0 : State) (r0 : Request) (hs0 : a.Keeps m s0) :
    a.KeepsE m (timeConfigBody s0 r0) := by
  unfold timeConfigBody
  with_reducible repeat' first
    | assumption | apply chk_keeps | apply done_keeps | apply State.tmSet_keeps (Keeps.sub_of hm (by decide))
    | refine Keeps.upd ?_ | simp only [Keeps.mk_iff]
theorem execTimeConfig_keeps {m : Parts} {a : State} (hm : Parts.sub 0xd001e5 m) (s : State) (hs : a.Keeps m s) :
    a.KeepsR m (execTimeConfig s) := by
  unfold execTimeConfig
  with_reducible repeat' first
    | assumption | apply slaotRow_keeps (Keeps.sub_of hm (by decide)) | apply timeConfigBody_keeps (Keeps.sub_of hm (by decide))
theorem timeSetCmd_keeps {m : Parts} {a : State} (k : State → Request → Except Nat Done) (s0 : State) (r0 : Request) (hs0 : a.Keeps m s0) (hk : ∀ (z0 : State) (z1 : Request), a.Keeps m z0 → a.KeepsE m (k z0 z1)) :
    a.KeepsE m (timeSetCmd k s0 r0) := by
  unfold timeSetCmd
  with_reducible repeat' first
    | assumption | apply hk | apply chk_keeps
theorem timeSetDeltaBody_keeps {m : Parts} {a : State} (hm : Parts.sub 0xd47084 m) (s0 : State) (r0 : Request) (hs0 : a.Keeps m s0) :
    a.KeepsE m (timeSetDeltaBody s0 r0) := by
  unfold timeSetDeltaBody
  with_reducible repeat' first
    | assumption | intro _ | apply timeSetCmd_keeps | apply State.tmSet_keeps (Keeps.sub_of hm (by decide))
    | apply State.timeStep_keeps (Keeps.sub_of hm (by decide)) | apply State.slewBy_keeps (Keeps.sub_of hm (by decide))
    | apply done_keeps | apply State.timeState_keeps (Keeps.sub_of hm (by decide))
theorem execTimeSetDelta_keeps {m : Parts} {a : State} (hm : Parts.sub 0xd471e5 m) (s : State) (hs : a.Keeps m s) :
    a.KeepsR m (execTimeSetDelta s) := by
  unfold execTimeSetDelta
  with_reducible repeat' first
    | assumption | apply requestRow_keeps (Keeps.sub_of hm (by decide))
    | apply timeSetDeltaBody_keeps (Keeps.sub_of hm (by decide))
theorem timeSetEdgeBody_keeps {m : Parts} {a : State} (hm : Parts.sub 0x800000 m) (s0 : State) (r0 : Request) (hs0 : a.Keeps m s0) :
    a.KeepsE m (timeSetEdgeBody s0 r0) := by
  unfold timeSetEdgeBody
  with_reducible repeat' first
    | assumption | intro _ | apply Keeps.ok | apply timeSetCmd_keeps | apply chk_keeps
    | apply State.tmSet_keeps (Keeps.sub_of hm (by decide))
theorem execTimeSetAtEdge_keeps {m : Parts} {a : State} (hm : Parts.sub 0xd00165 m) (s : State) (hs : a.Keeps m s) :
    a.KeepsR m (execTimeSetAtEdge s) := by
  unfold execTimeSetAtEdge
  with_reducible repeat' first
    | assumption | apply requestRow_keeps (Keeps.sub_of hm (by decide))
    | apply timeSetEdgeBody_keeps (Keeps.sub_of hm (by decide))
theorem execTimeSetEdgeTimeout_keeps {m : Parts} {a : State} (hm : Parts.sub 0xd00165 m) (s : State) (hs : a.Keeps m s) :
    a.KeepsR m (execTimeSetEdgeTimeout s) := by
  unfold execTimeSetEdgeTimeout
  with_reducible repeat' first
    | assumption | intro _ | apply whenServing_keeps | apply State.drain_keeps (Keeps.sub_of hm (by decide))
    | apply State.finish_keeps (Keeps.sub_of hm (by decide)) | apply State.tmSet_keeps (Keeps.sub_of hm (by decide))
    | apply State.upToClk_keeps (Keeps.sub_of hm (by decide)) | split
theorem timeAdjustBody_keeps {m : Parts} {a : State} (hm : Parts.sub 0xd47084 m) (s0 : State) (r0 : Request) (hs0 : a.Keeps m s0) :
    a.KeepsE m (timeAdjustBody s0 r0) := by
  unfold timeAdjustBody
  with_reducible repeat' first
    | assumption | apply chk_keeps | apply done_keeps | apply State.tmSet_keeps (Keeps.sub_of hm (by decide))
    | apply State.correct_keeps (Keeps.sub_of hm (by decide)) | apply State.setFreq_keeps (Keeps.sub_of hm (by decide))
    | apply State.timeState_keeps (Keeps.sub_of hm (by decide)) | split
theorem execTimeAdjust_keeps {m : Parts} {a : State} (hm : Parts.sub 0xd471e5 m) (s : State) (hs : a.Keeps m s) :
    a.KeepsR m (execTimeAdjust s) := by
  unfold execTimeAdjust
  with_reducible repeat' first
    | assumption | apply slaotRow_keeps (Keeps.sub_of hm (by decide)) | apply timeAdjustBody_keeps (Keeps.sub_of hm (by decide))
theorem timeGetBody_keeps {m : Parts} {a : State} (s0 : State) (r0 : Request) (hs0 : a.Keeps m s0) :
    a.KeepsE m (timeGetBody s0 r0) := by
  unfold timeGetBody
  with_reducible repeat' first
    | assumption | apply chk_keeps | apply done_keeps
theorem execTimeGet_keeps {m : Parts} {a : State} (hm : Parts.sub 0x500165 m) (s : State) (hs : a.Keeps m s) :
    a.KeepsR m (execTimeGet s) := by
  unfold execTimeGet
  with_reducible repeat' first
    | assumption | apply slaotRow_keeps (Keeps.sub_of hm (by decide)) | apply timeGetBody_keeps

end Sys2Proof.Machine
end

