-- ==== Sys2Proof/Laws/KeepsHealth.lean ====
section
/-! SUPPORT. What the definitions of Machine/Health.lean keep: no part of the state changes but those of the mask, which is
`Parts` in bits (Safety.lean), and what every command keeps. -/
set_option Elab.async false
namespace Sys2Proof.Machine

theorem State.retire_keeps {m : Parts} {a : State} (hm : Parts.sub 0x1000400 m) (s : State) (l : LocWord) (hs : a.Keeps m s) :
    a.Keeps m (State.retire s l) := by
  unfold State.retire
  with_reducible repeat' first
    | assumption | apply State.noteFree_keeps (Keeps.sub_of hm (by decide)) | refine Keeps.upd ?_ | simp only [Keeps.mk_iff]
    | split
theorem State.loseFrame_keeps {m : Parts} {a : State} (hm : Parts.sub 0x1201e04 m) (s : State) (g : Nat) (t : Nat) (hs : a.Keeps m s) :
    a.Keeps m (State.loseFrame s g t) := by
  unfold State.loseFrame
  with_reducible repeat' first
    | assumption | apply State.freeFrame_keeps (Keeps.sub_of hm (by decide))
    | apply State.healthCtr_keeps (Keeps.sub_of hm (by decide)) | apply State.decide__keeps (Keeps.sub_of hm (by decide))
    | split
theorem State.poisonFrame_keeps {m : Parts} {a : State} (hm : Parts.sub 0x201e04 m) (s : State) (g : Nat) (t : Nat) (hs : a.Keeps m s) :
    a.Keeps m (State.poisonFrame s g t) := by
  unfold State.poisonFrame
  with_reducible repeat' first
    | assumption | apply State.cutSending_keeps (Keeps.sub_of hm (by decide))
    | apply State.ethCtr_keeps (Keeps.sub_of hm (by decide)) | apply State.setSlice_keeps (Keeps.sub_of hm (by decide))
    | apply State.freeFrame_keeps (Keeps.sub_of hm (by decide)) | split
theorem State.poisonCell_keeps {m : Parts} {a : State} (hm : Parts.sub 0x201e04 m) (s : State) (g : Nat) (c : Nat) (hs : a.Keeps m s) :
    a.Keeps m (State.poisonCell s g c) := by
  unfold State.poisonCell
  with_reducible repeat' first
    | assumption | intro _ | apply State.poisonFrame_keeps (Keeps.sub_of hm (by decide)) | apply Keeps.foldl
theorem State.modHalves_keeps {m : Parts} {a : State} (hm : Parts.sub 0x1000 m) (s : State) (g : Nat) (k : TreeHalf → TreeHalf) (hs : a.Keeps m s) :
    a.Keeps m (State.modHalves s g k) := by
  unfold State.modHalves
  with_reducible repeat' first
    | assumption | apply State.setClassifier_keeps (Keeps.sub_of hm (by decide))
theorem State.bankFails_keeps {m : Parts} {a : State} (hm : Parts.sub 0x1001400 m) (s : State) (g : Nat) (b : Nat) (hs : a.Keeps m s) :
    a.Keeps m (State.bankFails s g b) := by
  unfold State.bankFails
  with_reducible repeat' first
    | assumption | dsimp only | apply State.retire_keeps (Keeps.sub_of hm (by decide))
    | apply State.modHalves_keeps (Keeps.sub_of hm (by decide)) | split
theorem execTreeBankRemap_keeps {m : Parts} {a : State} (hm : Parts.sub 0x1001000 m) (grove : Nat) (bank : Nat) (s : State) (hs : a.Keeps m s) :
    a.KeepsR m (execTreeBankRemap grove bank s) := by
  unfold execTreeBankRemap
  with_reducible repeat' first
    | assumption | intro _ | apply whenRunning_keeps | apply State.modHalves_keeps (Keeps.sub_of hm (by decide))
    | refine Keeps.upd ?_ | simp only [Keeps.mk_iff] | split
theorem State.leafFails_keeps {m : Parts} {a : State} (hm : Parts.sub 0x1003460 m) (s : State) (l : LocWord) (n : Nat) (hs : a.Keeps m s) :
    a.Keeps m (State.leafFails s l n) := by
  unfold State.leafFails
  with_reducible repeat' first
    | assumption | apply State.log_keeps (Keeps.sub_of hm (by decide)) | apply State.retire_keeps (Keeps.sub_of hm (by decide))
    | apply State.bankFails_keeps (Keeps.sub_of hm (by decide)) | apply State.setTbl_keeps (Keeps.sub_of hm (by decide)) | split
theorem State.scrubLeaf_keeps {m : Parts} {a : State} (hm : Parts.sub 0x1003460 m) (s : State) (l : LocWord) (word : Nat) (err : Bool) (hs : a.Keeps m s) :
    a.Keeps m (State.scrubLeaf s l word err) := by
  unfold State.scrubLeaf
  with_reducible repeat' first
    | assumption | apply State.leafFails_keeps (Keeps.sub_of hm (by decide)) | refine Keeps.upd ?_ | simp only [Keeps.mk_iff]
    | split
theorem State.poisonSlot_keeps {m : Parts} {a : State} (hm : Parts.sub 0x221e04 m) (s : State) (g : Nat) (e : Nat) (i : Nat) (hs : a.Keeps m s) :
    a.Keeps m (State.poisonSlot s g e i) := by
  unfold State.poisonSlot
  with_reducible repeat' first
    | assumption | apply State.closeMsg_keeps (Keeps.sub_of hm (by decide))
    | apply State.endJob_keeps (Keeps.sub_of hm (by decide)) | apply State.freeFrame_keeps (Keeps.sub_of hm (by decide)) | split
theorem State.poisonThread_keeps {m : Parts} {a : State} (hm : Parts.sub 0x504606 m) (s : State) (t : Thr) (hs : a.Keeps m s) :
    a.Keeps m (State.poisonThread s t) := by
  unfold State.poisonThread
  with_reducible repeat' first
    | assumption | apply State.fresh_keeps (Keeps.sub_of hm (by decide))
    | apply State.threadFault_keeps (Keeps.sub_of hm (by decide))
    | simp only [Keeps.Q_iff] | split
theorem State.poisonWord_keeps {m : Parts} {a : State} (hm : Parts.sub 0x1767f46 m) (s : State) (l : LocWord) (word : Nat) (hs : a.Keeps m s) :
    a.Keeps m (State.poisonWord s l word) := by
  unfold State.poisonWord
  with_reducible repeat' first
    | assumption | apply State.setParser_keeps (Keeps.sub_of hm (by decide))
    | apply State.setClassifier_keeps (Keeps.sub_of hm (by decide))
    | apply State.poisonThread_keeps (Keeps.sub_of hm (by decide)) | apply State.poisonSlot_keeps (Keeps.sub_of hm (by decide))
    | apply State.poisonCell_keeps (Keeps.sub_of hm (by decide)) | apply State.clFault_keeps (Keeps.sub_of hm (by decide))
    | apply State.setTbl_keeps (Keeps.sub_of hm (by decide)) | refine Keeps.upd ?_ | simp only [Keeps.mk_iff] | split
theorem execScrubRead_keeps {m : Parts} {a : State} (hm : Parts.sub 0x1767f66 m) (loc : LocWord) (word : Nat) (outcome : ReadOutcome) (s : State) (hs : a.Keeps m s) :
    a.KeepsR m (execScrubRead loc word outcome s) := by
  unfold execScrubRead
  with_reducible repeat' first
    | assumption | intro _ | apply whenRunning_keeps | apply State.scrubLeaf_keeps (Keeps.sub_of hm (by decide))
    | apply State.healthCtr_keeps (Keeps.sub_of hm (by decide)) | apply State.poisonWord_keeps (Keeps.sub_of hm (by decide))
    | apply State.uncorrectable_keeps (Keeps.sub_of hm (by decide)) | split
theorem State.reportFence_keeps {m : Parts} {a : State} (hm : Parts.sub 0x500064 m) (s : State) (l : LocWord) (cause : Nat) (hs : a.Keeps m s) :
    a.Keeps m (State.reportFence s l cause) := by
  unfold State.reportFence
  with_reducible repeat' first
    | assumption | apply State.log_keeps (Keeps.sub_of hm (by decide)) | apply State.fireDev_keeps (Keeps.sub_of hm (by decide))
    | apply State.fireAll_keeps (Keeps.sub_of hm (by decide)) | split
theorem State.fence_keeps {m : Parts} {a : State} (hm : Parts.sub 0x1000000 m) (s : State) (l : LocWord) (hs : a.Keeps m s) :
    a.Keeps m (State.fence s l) := by
  unfold State.fence
  with_reducible repeat' first
    | assumption | refine Keeps.upd ?_ | simp only [Keeps.mk_iff]
theorem State.losePorts_keeps {m : Parts} {a : State} (hm : Parts.sub 0x701e04 m) (s : State) (g : Nat) (y2 : Nat) (b : Nat) (reason : Nat) (hs : a.Keeps m s) :
    a.Keeps m (State.losePorts s g y2 b reason) := by
  unfold State.losePorts
  with_reducible repeat' first
    | assumption | intro _ | apply State.portDown_keeps (Keeps.sub_of hm (by decide))
    | apply State.setEth_keeps (Keeps.sub_of hm (by decide)) | apply Keeps.foldl
theorem State.loseEngine_keeps {m : Parts} {a : State} (hm : Parts.sub 0x1221e04 m) (s : State) (g : Nat) (e : Nat) (hs : a.Keeps m s) :
    a.Keeps m (State.loseEngine s g e) := by
  unfold State.loseEngine
  with_reducible repeat' first
    | assumption | intro _ | apply State.setEngine_keeps (Keeps.sub_of hm (by decide))
    | apply State.endJob_keeps (Keeps.sub_of hm (by decide)) | apply State.loseFrame_keeps (Keeps.sub_of hm (by decide))
    | apply Keeps.foldl | split
theorem State.loseWork_keeps {m : Parts} {a : State} (hm : Parts.sub 0x1ffffe5 m) (s : State) (l : LocWord) (hs : a.Keeps m s) :
    a.Keeps m (State.loseWork s l) := by
  unfold State.loseWork
  with_reducible repeat' first
    | assumption | intro _ | apply State.loseFrame_keeps (Keeps.sub_of hm (by decide))
    | apply State.walkFault_keeps (Keeps.sub_of hm (by decide)) | apply State.setClassifier_keeps (Keeps.sub_of hm (by decide))
    | apply State.parkThread_keeps (Keeps.sub_of hm (by decide)) | apply State.loseEngine_keeps (Keeps.sub_of hm (by decide))
    | apply State.connFail_keeps (Keeps.sub_of hm (by decide)) | apply State.losePorts_keeps (Keeps.sub_of hm (by decide))
    | apply State.linkLost_keeps (Keeps.sub_of hm (by decide)) | apply State.clFault_keeps (Keeps.sub_of hm (by decide))
    | apply Keeps.foldl | refine Keeps.upd ?_ | simp only [Keeps.mk_iff] | split
theorem State.loseLeaf_keeps {m : Parts} {a : State} (hm : Parts.sub 0x1701e04 m) (s : State) (l : LocWord) (hs : a.Keeps m s) :
    a.Keeps m (State.loseLeaf s l) := by
  unfold State.loseLeaf
  with_reducible repeat' first
    | assumption | apply State.bankFails_keeps (Keeps.sub_of hm (by decide))
    | apply State.retire_keeps (Keeps.sub_of hm (by decide)) | apply State.poisonCell_keeps (Keeps.sub_of hm (by decide))
    | apply State.losePorts_keeps (Keeps.sub_of hm (by decide)) | split
theorem State.measureImage_keeps {m : Parts} {a : State} (hm : Parts.sub 0x80000 m) (s : State) (i : Nat) (hs : a.Keeps m s) :
    a.Keeps m (State.measureImage s i) := by
  unfold State.measureImage
  with_reducible repeat' first
    | assumption | apply State.extend_keeps (Keeps.sub_of hm (by decide))
theorem State.startImage_keeps {m : Parts} {a : State} (hm : Parts.sub 0x80010 m) (s : State) (i : Nat) (hs : a.Keeps m s) :
    a.Keeps m (State.startImage s i) := by
  unfold State.startImage
  with_reducible repeat' first
    | assumption | apply State.measureImage_keeps (Keeps.sub_of hm (by decide)) | refine Keeps.upd ?_ | simp only [Keeps.mk_iff]
theorem State.endActivation_keeps {m : Parts} {a : State} (hm : Parts.sub 0x500114 m) (s : State) (hs : a.Keeps m s) :
    a.Keeps m (State.endActivation s) := by
  unfold State.endActivation
  with_reducible repeat' first
    | assumption | apply State.endOp_keeps (Keeps.sub_of hm (by decide)) | refine Keeps.upd ?_ | simp only [Keeps.mk_iff]
    | split
theorem State.supervisorLost_keeps {m : Parts} {a : State} (hm : Parts.sub 0x580114 m) (s : State) (hs : a.Keeps m s) :
    a.Keeps m (State.supervisorLost s) := by
  unfold State.supervisorLost
  with_reducible repeat' first
    | assumption | apply State.endActivation_keeps (Keeps.sub_of hm (by decide))
    | apply State.startImage_keeps (Keeps.sub_of hm (by decide)) | split
theorem State.failUnit_keeps {m : Parts} {a : State} (hm : Parts.sub 0x1fffff5 m) (s : State) (loc : LocWord) (cause : Nat) (hs : a.Keeps m s) :
    a.Keeps m (State.failUnit s loc cause) := by
  unfold State.failUnit
  with_reducible repeat' first
    | assumption | apply State.reportFence_keeps (Keeps.sub_of hm (by decide))
    | apply State.loseLeaf_keeps (Keeps.sub_of hm (by decide)) | apply State.fence_keeps (Keeps.sub_of hm (by decide))
    | apply State.setPlane_keeps (Keeps.sub_of hm (by decide)) | apply State.endActivation_keeps (Keeps.sub_of hm (by decide))
    | apply State.loseWork_keeps (Keeps.sub_of hm (by decide)) | refine Keeps.upd ?_ | simp only [Keeps.mk_iff] | split
theorem execUnitFailure_keeps {m : Parts} {a : State} (hm : Parts.sub 0x1fffff5 m) (loc : LocWord) (cause : Nat) (s : State) (hs : a.Keeps m s) :
    a.KeepsR m (execUnitFailure loc cause s) := by
  unfold execUnitFailure
  with_reducible repeat' first
    | assumption | intro _ | apply whenRunning_keeps | apply State.failUnit_keeps (Keeps.sub_of hm (by decide))
theorem State.turnAway_keeps {m : Parts} {a : State} (hm : Parts.sub 0x201e04 m) (s : State) (g : Nat) (hs : a.Keeps m s) :
    a.Keeps m (State.turnAway s g) := by
  unfold State.turnAway
  with_reducible repeat' first
    | assumption | intro _ | apply State.setTransit_keeps (Keeps.sub_of hm (by decide))
    | apply State.noteSlice_keeps (Keeps.sub_of hm (by decide)) | apply State.sendLocal_keeps (Keeps.sub_of hm (by decide))
    | apply State.freeFrame_keeps (Keeps.sub_of hm (by decide)) | apply State.classCtr_keeps (Keeps.sub_of hm (by decide))
    | apply Keeps.foldl | refine Keeps.upd ?_ | simp only [Keeps.mk_iff] | split
theorem State.failGrove_keeps {m : Parts} {a : State} (hm : Parts.sub 0x1771f64 m) (s : State) (grove : Nat) (cause : Nat) (hs : a.Keeps m s) :
    a.Keeps m (State.failGrove s grove cause) := by
  unfold State.failGrove
  with_reducible repeat' first
    | assumption | intro _ | apply State.losePorts_keeps (Keeps.sub_of hm (by decide))
    | apply State.healthCtr_keeps (Keeps.sub_of hm (by decide)) | apply State.setArrivals_keeps (Keeps.sub_of hm (by decide))
    | apply State.setTransit_keeps (Keeps.sub_of hm (by decide)) | apply State.loseUnit_keeps (Keeps.sub_of hm (by decide))
    | apply State.loseFrame_keeps (Keeps.sub_of hm (by decide)) | apply State.turnAway_keeps (Keeps.sub_of hm (by decide))
    | apply State.clFault_keeps (Keeps.sub_of hm (by decide)) | apply State.qpToReset_keeps (Keeps.sub_of hm (by decide))
    | apply State.fireAll_keeps (Keeps.sub_of hm (by decide)) | apply State.log_keeps (Keeps.sub_of hm (by decide))
    | apply Keeps.foldl | refine Keeps.upd ?_ | simp only [Keeps.mk_iff] | split
theorem execGroveFailure_keeps {m : Parts} {a : State} (hm : Parts.sub 0x1771f64 m) (grove : Nat) (cause : Nat) (s : State) (hs : a.Keeps m s) :
    a.KeepsR m (execGroveFailure grove cause s) := by
  unfold execGroveFailure
  with_reducible repeat' first
    | assumption | intro _ | apply whenRunning_keeps | apply State.failGrove_keeps (Keeps.sub_of hm (by decide))
theorem execWardenHeartbeat_keeps {m : Parts} {a : State} (hm : Parts.sub 0x1000001 m) (s : State) (hs : a.Keeps m s) :
    a.KeepsR m (execWardenHeartbeat s) := by
  unfold execWardenHeartbeat
  with_reducible repeat' first
    | assumption | intro _ | apply whenServing_keeps | apply State.upToClk_keeps (Keeps.sub_of hm (by decide))
    | refine Keeps.upd ?_ | simp only [Keeps.mk_iff] | split
theorem execWardenHeartbeatTimeout_keeps {m : Parts} {a : State} (hm : Parts.sub 0x1000001 m) (s : State) (hs : a.Keeps m s) :
    a.KeepsR m (execWardenHeartbeatTimeout s) := by
  unfold execWardenHeartbeatTimeout
  with_reducible repeat' first
    | assumption | intro _ | apply whenServing_keeps | apply State.upToClk_keeps (Keeps.sub_of hm (by decide))
    | refine Keeps.upd ?_ | simp only [Keeps.mk_iff] | split
theorem State.answerAborted_keeps {m : Parts} {a : State} (hm : Parts.sub 0x500144 m) (s : State) (r : Request) (hs : a.Keeps m s) :
    a.Keeps m (State.answerAborted s r) := by
  unfold State.answerAborted
  with_reducible repeat' first
    | assumption | apply State.finish_keeps (Keeps.sub_of hm (by decide))
theorem State.answerOpen_keeps {m : Parts} {a : State} (hm : Parts.sub 0xd40144 m) (s : State) (hs : a.Keeps m s) :
    a.Keeps m (State.answerOpen s) := by
  unfold State.answerOpen
  with_reducible repeat' first
    | assumption | apply State.answerAborted_keeps (Keeps.sub_of hm (by decide))
    | apply State.tmSet_keeps (Keeps.sub_of hm (by decide)) | apply Keeps.foldl | refine Keeps.upd ?_ | simp only [Keeps.mk_iff]
    | split
theorem execWardenTakeoverActive_keeps {m : Parts} {a : State} (hm : Parts.sub 0x1dc0174 m) (s : State) (hs : a.Keeps m s) :
    a.KeepsR m (execWardenTakeoverActive s) := by
  unfold execWardenTakeoverActive
  with_reducible repeat' first
    | assumption | intro _ | apply whenServing_keeps | apply State.drain_keeps (Keeps.sub_of hm (by decide))
    | apply State.answerOpen_keeps (Keeps.sub_of hm (by decide))
    | apply State.supervisorLost_keeps (Keeps.sub_of hm (by decide)) | apply State.fireAll_keeps (Keeps.sub_of hm (by decide))
    | refine Keeps.upd ?_ | simp only [Keeps.mk_iff] | split
theorem execFailedCoreTest_keeps {m : Parts} {a : State} (hm : Parts.sub 0x1500064 m) (ok : Bool) (s : State) (hs : a.Keeps m s) :
    a.KeepsR m (execFailedCoreTest ok s) := by
  unfold execFailedCoreTest
  with_reducible repeat' first
    | assumption | intro _ | apply whenServing_keeps | apply State.log_keeps (Keeps.sub_of hm (by decide))
    | apply State.reportFence_keeps (Keeps.sub_of hm (by decide)) | apply State.fence_keeps (Keeps.sub_of hm (by decide))
    | refine Keeps.upd ?_ | simp only [Keeps.mk_iff] | split
theorem execLogFlush_keeps {m : Parts} {a : State} (hm : Parts.sub 0x1000061 m) (s : State) (hs : a.Keeps m s) :
    a.KeepsR m (execLogFlush s) := by
  unfold execLogFlush
  with_reducible repeat' first
    | assumption | intro _ | apply whenServing_keeps | apply State.upToClk_keeps (Keeps.sub_of hm (by decide))
    | refine Keeps.upd ?_ | simp only [Keeps.mk_iff] | split
theorem healthGetBody_keeps {m : Parts} {a : State} (s0 : State) (r0 : Request) (hs0 : a.Keeps m s0) :
    a.KeepsE m (healthGetBody s0 r0) := by
  unfold healthGetBody
  with_reducible repeat' first
    | assumption | apply chk_keeps | apply done_keeps
theorem execHealthGet_keeps {m : Parts} {a : State} (hm : Parts.sub 0x500165 m) (s : State) (hs : a.Keeps m s) :
    a.KeepsR m (execHealthGet s) := by
  unfold execHealthGet
  with_reducible repeat' first
    | assumption | apply slaotRow_keeps (Keeps.sub_of hm (by decide)) | apply healthGetBody_keeps
theorem logReadBody_keeps {m : Parts} {a : State} (s0 : State) (r0 : Request) (hs0 : a.Keeps m s0) :
    a.KeepsE m (logReadBody s0 r0) := by
  unfold logReadBody
  with_reducible repeat' first
    | assumption | apply chk_keeps | apply done_keeps
theorem execHealthLogRead_keeps {m : Parts} {a : State} (hm : Parts.sub 0x500165 m) (s : State) (hs : a.Keeps m s) :
    a.KeepsR m (execHealthLogRead s) := by
  unfold execHealthLogRead
  with_reducible repeat' first
    | assumption | apply slaotRow_keeps (Keeps.sub_of hm (by decide)) | apply logReadBody_keeps

end Sys2Proof.Machine
end

