-- ==== Sys2Proof/Laws/KeepsPower.lean ====
section
/-! SUPPORT. What the definitions of Machine/Power.lean keep: no part of the state changes but those of the mask, which is
`Parts` in bits (Safety.lean), and what every command keeps. -/
set_option Elab.async false
namespace Sys2Proof.Machine

theorem State.setBoard_keeps {m : Parts} {a : State} (hm : Parts.sub 0x8 m) (s : State) (f : Board → Board) (hs : a.Keeps m s) :
    a.Keeps m (State.setBoard s f) := by
  unfold State.setBoard
  with_reducible repeat' first
    | assumption | refine Keeps.upd ?_ | simp only [Keeps.mk_iff]
theorem execAvsTargetCompute_keeps {m : Parts} {a : State} (hm : Parts.sub 0x9 m) (lowestMv : List Nat) (s : State) (hs : a.Keeps m s) :
    a.KeepsR m (execAvsTargetCompute lowestMv s) := by
  unfold execAvsTargetCompute
  with_reducible repeat' first
    | assumption | intro _ | apply whenRunning_keeps | apply State.upToClk_keeps (Keeps.sub_of hm (by decide))
    | apply State.setBoard_keeps (Keeps.sub_of hm (by decide)) | split
theorem State.avsFault_keeps {m : Parts} {a : State} (hm : Parts.sub 0x500064 m) (s : State) (y1 : Nat) (hs : a.Keeps m s) :
    a.Keeps m (State.avsFault s y1) := by
  unfold State.avsFault
  with_reducible repeat' first
    | assumption | apply State.fireAll_keeps (Keeps.sub_of hm (by decide)) | apply State.log_keeps (Keeps.sub_of hm (by decide))
theorem execAvsStep_keeps {m : Parts} {a : State} (hm : Parts.sub 0x50006d m) (stand : Nat) (ack : Bool) (readMv : Nat) (s : State) (hs : a.Keeps m s) :
    a.KeepsR m (execAvsStep stand ack readMv s) := by
  unfold execAvsStep
  with_reducible repeat' first
    | assumption | intro _ | dsimp only | apply whenRunning_keeps | apply State.setBoard_keeps (Keeps.sub_of hm (by decide))
    | apply State.upToClk_keeps (Keeps.sub_of hm (by decide)) | apply State.emit_keeps (Keeps.sub_of hm (by decide))
    | apply State.avsFault_keeps (Keeps.sub_of hm (by decide)) | split
theorem execPmbAlert_keeps {m : Parts} {a : State} (hm : Parts.sub 0x500064 m) (status : List (Nat × Nat)) (s : State) (hs : a.Keeps m s) :
    a.KeepsR m (execPmbAlert status s) := by
  unfold execPmbAlert
  with_reducible repeat' first
    | assumption | intro _ | apply whenServing_keeps | apply State.avsFault_keeps (Keeps.sub_of hm (by decide))
    | apply Keeps.foldl
theorem execPowerWindowEnd_keeps {m : Parts} {a : State} (hm : Parts.sub 0x50000d m) (rails : List RailPower) (s : State) (hs : a.Keeps m s) :
    a.KeepsR m (execPowerWindowEnd rails s) := by
  unfold execPowerWindowEnd
  with_reducible repeat' first
    | assumption | intro _ | dsimp only | apply whenRunning_keeps | apply State.upTo_keeps (Keeps.sub_of hm (by decide))
    | apply State.setBoard_keeps (Keeps.sub_of hm (by decide)) | apply State.fireAll_keeps (Keeps.sub_of hm (by decide)) | split
theorem State.quiet_keeps {m : Parts} {a : State} (hm : Parts.sub 0x100018 m) (s : State) (p : Phase) (hs : a.Keeps m s) :
    a.Keeps m (State.quiet s p) := by
  unfold State.quiet
  with_reducible repeat' first
    | assumption | apply State.setBoard_keeps (Keeps.sub_of hm (by decide)) | refine Keeps.upd ?_ | simp only [Keeps.mk_iff]
theorem State.thermalTrip_keeps {m : Parts} {a : State} (hm : Parts.sub 0x10007c m) (s : State) (y1 : Nat × Nat) (hs : a.Keeps m s) :
    a.Keeps m (State.thermalTrip s y1) := by
  unfold State.thermalTrip
  with_reducible repeat' first
    | assumption | apply State.log_keeps (Keeps.sub_of hm (by decide)) | apply State.emit_keeps (Keeps.sub_of hm (by decide))
    | apply State.quiet_keeps (Keeps.sub_of hm (by decide)) | apply State.setBoard_keeps (Keeps.sub_of hm (by decide))
theorem State.thermalAct_keeps {m : Parts} {a : State} (hm : Parts.sub 0x50007c m) (s : State) (hs : a.Keeps m s) :
    a.Keeps m (State.thermalAct s) := by
  unfold State.thermalAct
  with_reducible repeat' first
    | assumption | dsimp only | apply State.fireAll_keeps (Keeps.sub_of hm (by decide))
    | apply State.setBoard_keeps (Keeps.sub_of hm (by decide)) | apply State.thermalTrip_keeps (Keeps.sub_of hm (by decide))
    | split
theorem State.releaseTherm_keeps {m : Parts} {a : State} (hm : Parts.sub 0xc m) (s : State) (hs : a.Keeps m s) :
    a.Keeps m (State.releaseTherm s) := by
  unfold State.releaseTherm
  with_reducible repeat' first
    | assumption | apply State.emit_keeps (Keeps.sub_of hm (by decide))
    | apply State.setBoard_keeps (Keeps.sub_of hm (by decide))
theorem execThermalSensorRead_keeps {m : Parts} {a : State} (hm : Parts.sub 0x50007c m) (stand : Nat) (sensor : Nat) (reading : Nat) (s : State) (hs : a.Keeps m s) :
    a.KeepsR m (execThermalSensorRead stand sensor reading s) := by
  unfold execThermalSensorRead
  with_reducible repeat' first
    | assumption | apply Keeps.next | dsimp only | apply State.setBoard_keeps (Keeps.sub_of hm (by decide))
    | apply State.releaseTherm_keeps (Keeps.sub_of hm (by decide)) | apply State.thermalAct_keeps (Keeps.sub_of hm (by decide))
    | split
theorem State.failStand_keeps {m : Parts} {a : State} (hm : Parts.sub 0x1fffff5 m) (s : State) (stand : Nat) (hs : a.Keeps m s) :
    a.Keeps m (State.failStand s stand) := by
  unfold State.failStand
  with_reducible repeat' first
    | assumption | intro _ | apply State.failUnit_keeps (Keeps.sub_of hm (by decide))
    | apply State.failGrove_keeps (Keeps.sub_of hm (by decide)) | apply Keeps.foldl
theorem State.dropLinks_keeps {m : Parts} {a : State} (hm : Parts.sub 0xffa185 m) (s : State) (stand : Nat) (hs : a.Keeps m s) :
    a.Keeps m (State.dropLinks s stand) := by
  unfold State.dropLinks
  with_reducible repeat' first
    | assumption | intro _ | apply State.linkLost_keeps (Keeps.sub_of hm (by decide)) | apply Keeps.foldl | split
theorem execStandSupplyFault_keeps {m : Parts} {a : State} (hm : Parts.sub 0x1fffffd m) (stand : Nat) (s : State) (hs : a.Keeps m s) :
    a.KeepsR m (execStandSupplyFault stand s) := by
  unfold execStandSupplyFault
  with_reducible repeat' first
    | assumption | apply Keeps.next | dsimp only | apply State.dropLinks_keeps (Keeps.sub_of hm (by decide))
    | apply State.setBoard_keeps (Keeps.sub_of hm (by decide)) | apply State.failStand_keeps (Keeps.sub_of hm (by decide))
    | split
theorem execSysrefLoss_keeps {m : Parts} {a : State} (hm : Parts.sub 0x50000c m) (s : State) (hs : a.Keeps m s) :
    a.KeepsR m (execSysrefLoss s) := by
  unfold execSysrefLoss
  with_reducible repeat' first
    | assumption | apply Keeps.next | dsimp only | apply State.setBoard_keeps (Keeps.sub_of hm (by decide))
    | apply State.fireAll_keeps (Keeps.sub_of hm (by decide)) | split
theorem execSysrefReturn_keeps {m : Parts} {a : State} (hm : Parts.sub 0x8 m) (s : State) (hs : a.Keeps m s) :
    a.KeepsR m (execSysrefReturn s) := by
  unfold execSysrefReturn
  with_reducible repeat' first
    | assumption | apply Keeps.next | apply State.setBoard_keeps (Keeps.sub_of hm (by decide))
theorem State.reportEthref_keeps {m : Parts} {a : State} (hm : Parts.sub 0x500066 m) (s : State) (grove : Nat) (hs : a.Keeps m s) :
    a.Keeps m (State.reportEthref s grove) := by
  unfold State.reportEthref
  with_reducible repeat' first
    | assumption | apply State.fresh_keeps (Keeps.sub_of hm (by decide))
    | apply State.fireDev_keeps (Keeps.sub_of hm (by decide)) | apply State.log_keeps (Keeps.sub_of hm (by decide))
    | simp only [Keeps.Q_iff]
theorem State.reportEthrefs_keeps {m : Parts} {a : State} (hm : Parts.sub 0x500066 m) (s : State) (hs : a.Keeps m s) :
    a.Keeps m (State.reportEthrefs s) := by
  unfold State.reportEthrefs
  with_reducible repeat' first
    | assumption | apply State.reportEthref_keeps (Keeps.sub_of hm (by decide)) | apply Keeps.foldl
theorem execEthrefLoss_keeps {m : Parts} {a : State} (hm : Parts.sub 0x701e6e m) (grove : Nat) (s : State) (hs : a.Keeps m s) :
    a.KeepsR m (execEthrefLoss grove s) := by
  unfold execEthrefLoss
  with_reducible repeat' first
    | assumption | apply Keeps.next | dsimp only | apply State.setBoard_keeps (Keeps.sub_of hm (by decide))
    | apply State.reportEthref_keeps (Keeps.sub_of hm (by decide)) | apply State.losePorts_keeps (Keeps.sub_of hm (by decide))
    | split
theorem execPpsOutPulse_keeps {m : Parts} {a : State} (hm : Parts.sub 0x80000d m) (s : State) (hs : a.Keeps m s) :
    a.KeepsR m (execPpsOutPulse s) := by
  unfold execPpsOutPulse
  with_reducible repeat' first
    | assumption | intro _ | apply whenServing_keeps | apply State.tmSet_keeps (Keeps.sub_of hm (by decide))
    | apply State.upTo_keeps (Keeps.sub_of hm (by decide)) | apply State.emit_keeps (Keeps.sub_of hm (by decide))
    | apply State.setBoard_keeps (Keeps.sub_of hm (by decide)) | split

end Sys2Proof.Machine
end

