-- ==== Sys2Proof/Laws/KeepsStartup.lean ====
section
/-! SUPPORT. What the definitions of Machine/Startup.lean keep: no part of the state changes but those of the mask, which is
`Parts` in bits (Safety.lean), and what every command keeps. -/
set_option Elab.async false
namespace Sys2Proof.Machine

theorem State.setCfgSlot_keeps {m : Parts} {a : State} (hm : Parts.sub 0x20 m) (s : State) (i : Nat) (c : CfgSlot) (hs : a.Keeps m s) :
    a.Keeps m (State.setCfgSlot s i c) := by
  unfold State.setCfgSlot
  with_reducible repeat' first
    | assumption | refine Keeps.upd ?_ | simp only [Keeps.mk_iff]
theorem State.cutStore_keeps {m : Parts} {a : State} (hm : Parts.sub 0x20 m) (s : State) (o : LongOp) (hs : a.Keeps m s) :
    a.Keeps m (State.cutStore s o) := by
  unfold State.cutStore
  with_reducible repeat' first
    | assumption | apply State.setCfgSlot_keeps (Keeps.sub_of hm (by decide)) | split
theorem State.cutStores_keeps {m : Parts} {a : State} (hm : Parts.sub 0x20 m) (s : State) (hs : a.Keeps m s) :
    a.Keeps m (State.cutStores s) := by
  unfold State.cutStores
  with_reducible repeat' first
    | assumption | apply State.cutStore_keeps (Keeps.sub_of hm (by decide)) | apply Keeps.foldl
theorem State.loseRetained_keeps {m : Parts} {a : State} (hm : Parts.sub 0x40 m) (s : State) (hs : a.Keeps m s) :
    a.Keeps m (State.loseRetained s) := by
  unfold State.loseRetained
  with_reducible repeat' first
    | assumption | refine Keeps.upd ?_ | simp only [Keeps.mk_iff]
theorem State.dropSlots_keeps {m : Parts} {a : State} (hm : Parts.sub 0x20 m) (s : State) (hs : a.Keeps m s) :
    a.Keeps m (State.dropSlots s) := by
  unfold State.dropSlots
  with_reducible repeat' first
    | assumption | intro _ | apply State.setCfgSlot_keeps (Keeps.sub_of hm (by decide)) | apply Keeps.foldl | split
theorem State.bare_keeps {m : Parts} {a : State} (hm : Parts.sub 0x3ffff0a m) (s : State) (hs : a.Keeps m s) :
    a.Keeps m (State.bare s) := by
  exact ⟨hs.pending, hs.variant, hs.stepping, hs.now, Nat.le_trans hs.free (Nat.le_add_right _ _), hs.out, fun _ => rfl, hs.same_now, .inr (Keeps.has_of 1 hm (by decide)), hs.same_out, .inr (Keeps.has_of 3 hm (by decide)), hs.same_boot, hs.same_nv, hs.same_ret, hs.same_cfg, .inr (Keeps.has_of 8 hm (by decide)), .inr (Keeps.has_of 9 hm (by decide)), .inr (Keeps.has_of 10 hm (by decide)), .inr (Keeps.has_of 11 hm (by decide)), .inr (Keeps.has_of 12 hm (by decide)), .inr (Keeps.has_of 13 hm (by decide)), .inr (Keeps.has_of 14 hm (by decide)), .inr (Keeps.has_of 15 hm (by decide)), .inr (Keeps.has_of 16 hm (by decide)), .inr (Keeps.has_of 17 hm (by decide)), .inr (Keeps.has_of 18 hm (by decide)), .inr (Keeps.has_of 19 hm (by decide)), .inr (Keeps.has_of 20 hm (by decide)), .inr (Keeps.has_of 21 hm (by decide)), .inr (Keeps.has_of 22 hm (by decide)), .inr (Keeps.has_of 23 hm (by decide)), .inr (Keeps.has_of 24 hm (by decide)), .inr (Keeps.has_of 25 hm (by decide))⟩
theorem State.quarantineStart_keeps {m : Parts} {a : State} (hm : Parts.sub 0x540004 m) (s : State) (c : Nat) (hs : a.Keeps m s) :
    a.Keeps m (State.quarantineStart s c) := by
  unfold State.quarantineStart
  with_reducible repeat' first
    | assumption | apply State.fireCl_keeps (Keeps.sub_of hm (by decide))
    | apply State.setCl_keeps (Keeps.sub_of hm (by decide)) | split
theorem State.applyCfg_keeps {m : Parts} {a : State} (hm : Parts.sub 0x160800 m) (s : State) (hs : a.Keeps m s) :
    a.Keeps m (State.applyCfg s) := by
  unfold State.applyCfg
  with_reducible repeat' first
    | assumption | refine Keeps.upd ?_ | simp only [Keeps.mk_iff]
theorem State.resumeTime_keeps {m : Parts} {a : State} (hm : Parts.sub 0xd00004 m) (s : State) (hs : a.Keeps m s) :
    a.Keeps m (State.resumeTime s) := by
  unfold State.resumeTime
  with_reducible repeat' first
    | assumption | apply State.timeState_keeps (Keeps.sub_of hm (by decide)) | split
theorem State.bootImage_keeps {m : Parts} {a : State} (hm : Parts.sub 0x80010 m) (s : State) (y1 : BootReads) (hs : a.Keeps m s) :
    a.Keeps m (State.bootImage s y1) := by
  unfold State.bootImage
  with_reducible repeat' first
    | assumption | apply State.startImage_keeps (Keeps.sub_of hm (by decide)) | refine Keeps.upd ?_ | simp only [Keeps.mk_iff]
    | split
theorem State.coolStart_keeps {m : Parts} {a : State} (hm : Parts.sub 0xc m) (s : State) (cool : Bool) (hs : a.Keeps m s) :
    a.Keeps m (State.coolStart s cool) := by
  unfold State.coolStart
  with_reducible repeat' first
    | assumption | apply State.releaseTherm_keeps (Keeps.sub_of hm (by decide))
    | apply State.setBoard_keeps (Keeps.sub_of hm (by decide)) | split
theorem State.restart_keeps {m : Parts} {a : State} (hm : Parts.sub 0x3fffffe m) (s : State) (y1 : BootReads) (kind : ResetKind) (hs : a.Keeps m s) :
    a.Keeps m (State.restart s y1 kind) := by
  unfold State.restart
  with_reducible repeat' first
    | assumption | apply State.cutStores_keeps (Keeps.sub_of hm (by decide))
    | apply State.dropSlots_keeps (Keeps.sub_of hm (by decide)) | apply State.loseRetained_keeps (Keeps.sub_of hm (by decide))
    | apply State.setBoard_keeps (Keeps.sub_of hm (by decide)) | apply State.bare_keeps (Keeps.sub_of hm (by decide))
    | apply State.resumeTime_keeps (Keeps.sub_of hm (by decide)) | apply State.bootImage_keeps (Keeps.sub_of hm (by decide))
    | apply State.applyCfg_keeps (Keeps.sub_of hm (by decide)) | apply State.coolStart_keeps (Keeps.sub_of hm (by decide))
    | apply State.quarantineStart_keeps (Keeps.sub_of hm (by decide)) | apply Keeps.foldl | refine Keeps.upd ?_
    | simp only [Keeps.mk_iff] | split
theorem execColdPowerUp_keeps {m : Parts} {a : State} (hm : Parts.sub 0x900058 m) (s : State) (hs : a.Keeps m s) :
    a.KeepsR m (execColdPowerUp s) := by
  unfold execColdPowerUp
  with_reducible repeat' first
    | assumption | apply Keeps.next | apply State.quiet_keeps (Keeps.sub_of hm (by decide)) | refine Keeps.upd ?_
    | simp only [Keeps.mk_iff] | split
theorem execVauxLoss_keeps {m : Parts} {a : State} (hm : Parts.sub 0x10017c m) (s : State) (hs : a.Keeps m s) :
    a.KeepsR m (execVauxLoss s) := by
  unfold execVauxLoss
  with_reducible repeat' first
    | assumption | apply Keeps.next | apply State.quiet_keeps (Keeps.sub_of hm (by decide))
    | apply State.cutStores_keeps (Keeps.sub_of hm (by decide)) | apply State.emit_keeps (Keeps.sub_of hm (by decide))
    | refine Keeps.upd ?_ | simp only [Keeps.mk_iff] | split
theorem execPwrGoodRise_keeps {m : Parts} {a : State} (hm : Parts.sub 0x3fffffe m) (y0 : BootReads) (s : State) (hs : a.Keeps m s) :
    a.KeepsR m (execPwrGoodRise y0 s) := by
  unfold execPwrGoodRise
  with_reducible repeat' first
    | assumption | apply Keeps.next | dsimp only | apply State.setBoard_keeps (Keeps.sub_of hm (by decide))
    | apply State.restart_keeps (Keeps.sub_of hm (by decide)) | apply State.quiet_keeps (Keeps.sub_of hm (by decide)) | split
theorem execPwrGoodFall_keeps {m : Parts} {a : State} (hm : Parts.sub 0x100138 m) (s : State) (hs : a.Keeps m s) :
    a.KeepsR m (execPwrGoodFall s) := by
  unfold execPwrGoodFall
  with_reducible repeat' first
    | assumption | apply Keeps.next | apply State.setBoard_keeps (Keeps.sub_of hm (by decide))
    | apply State.quiet_keeps (Keeps.sub_of hm (by decide)) | apply State.cutStores_keeps (Keeps.sub_of hm (by decide))
    | refine Keeps.upd ?_ | simp only [Keeps.mk_iff] | split
theorem execSysRstAssert_keeps {m : Parts} {a : State} (hm : Parts.sub 0x100138 m) (s : State) (hs : a.Keeps m s) :
    a.KeepsR m (execSysRstAssert s) := by
  unfold execSysRstAssert
  with_reducible repeat' first
    | assumption | apply Keeps.next | apply State.setBoard_keeps (Keeps.sub_of hm (by decide))
    | apply State.quiet_keeps (Keeps.sub_of hm (by decide)) | apply State.cutStores_keeps (Keeps.sub_of hm (by decide))
    | refine Keeps.upd ?_ | simp only [Keeps.mk_iff] | split
theorem execSysRstRelease_keeps {m : Parts} {a : State} (hm : Parts.sub 0x3fffffe m) (y0 : BootReads) (s : State) (hs : a.Keeps m s) :
    a.KeepsR m (execSysRstRelease y0 s) := by
  unfold execSysRstRelease
  with_reducible repeat' first
    | assumption | apply Keeps.next | apply State.setBoard_keeps (Keeps.sub_of hm (by decide))
    | apply State.restart_keeps (Keeps.sub_of hm (by decide)) | split
theorem execPerstAssert_keeps {m : Parts} {a : State} (hm : Parts.sub 0xffa18d m) (p : Nat) (s : State) (hs : a.Keeps m s) :
    a.KeepsR m (execPerstAssert p s) := by
  unfold execPerstAssert
  with_reducible repeat' first
    | assumption | apply Keeps.next | dsimp only | apply State.setBoard_keeps (Keeps.sub_of hm (by decide))
    | apply State.linkLost_keeps (Keeps.sub_of hm (by decide)) | apply State.resetPort_keeps (Keeps.sub_of hm (by decide))
    | split
theorem State.releaseWake_keeps {m : Parts} {a : State} (hm : Parts.sub 0xc m) (s : State) (p : Nat) (hs : a.Keeps m s) :
    a.Keeps m (State.releaseWake s p) := by
  unfold State.releaseWake
  with_reducible repeat' first
    | assumption | apply State.emit_keeps (Keeps.sub_of hm (by decide))
    | apply State.setBoard_keeps (Keeps.sub_of hm (by decide)) | split
theorem execPerstRelease_keeps {m : Parts} {a : State} (hm : Parts.sub 0x50000c m) (p rate : Nat) (form : LinkForm) (s : State) (hs : a.Keeps m s) :
    a.KeepsR m (execPerstRelease p rate form s) := by
  unfold execPerstRelease
  with_reducible repeat' first
    | assumption | apply Keeps.next | dsimp only | apply State.releaseWake_keeps (Keeps.sub_of hm (by decide))
    | apply State.setBoard_keeps (Keeps.sub_of hm (by decide)) | apply State.linkRaise_keeps (Keeps.sub_of hm (by decide))
    | split
theorem State.handOver_keeps {m : Parts} {a : State} (hm : Parts.sub 0x100000 m) (s : State) (hs : a.Keeps m s) :
    a.Keeps m (State.handOver s) := by
  unfold State.handOver
  with_reducible repeat' first
    | assumption | refine Keeps.upd ?_ | simp only [Keeps.mk_iff]
theorem State.reportFallback_keeps {m : Parts} {a : State} (hm : Parts.sub 0x500064 m) (s : State) (hs : a.Keeps m s) :
    a.Keeps m (State.reportFallback s) := by
  unfold State.reportFallback
  with_reducible repeat' first
    | assumption | apply State.fireAll_keeps (Keeps.sub_of hm (by decide)) | apply State.log_keeps (Keeps.sub_of hm (by decide))
    | split
theorem State.trainAll_keeps {m : Parts} {a : State} (hm : Parts.sub 0x204 m) (s : State) (hs : a.Keeps m s) :
    a.Keeps m (State.trainAll s) := by
  unfold State.trainAll
  with_reducible repeat' first
    | assumption | apply State.startTraining_keeps (Keeps.sub_of hm (by decide)) | apply Keeps.foldl
theorem State.failStands_keeps {m : Parts} {a : State} (hm : Parts.sub 0x1fffff5 m) (s : State) (hs : a.Keeps m s) :
    a.Keeps m (State.failStands s) := by
  unfold State.failStands
  with_reducible repeat' first
    | assumption | apply State.failStand_keeps (Keeps.sub_of hm (by decide)) | apply Keeps.foldl
theorem execBootComplete_keeps {m : Parts} {a : State} (hm : Parts.sub 0x1ffffff m) (s : State) (hs : a.Keeps m s) :
    a.KeepsR m (execBootComplete s) := by
  unfold execBootComplete
  with_reducible repeat' first
    | assumption | apply Keeps.next | apply State.setBoard_keeps (Keeps.sub_of hm (by decide))
    | apply State.handOver_keeps (Keeps.sub_of hm (by decide)) | apply State.reportFallback_keeps (Keeps.sub_of hm (by decide))
    | apply State.fireAll_keeps (Keeps.sub_of hm (by decide)) | apply State.reportEthrefs_keeps (Keeps.sub_of hm (by decide))
    | apply State.trainAll_keeps (Keeps.sub_of hm (by decide)) | apply State.failStands_keeps (Keeps.sub_of hm (by decide))
    | refine Keeps.upd ?_ | simp only [Keeps.mk_iff] | split
theorem resetBody_keeps {m : Parts} {a : State} (hm : Parts.sub 0x10 m) (s0 : State) (r0 : Request) (hs0 : a.Keeps m s0) :
    a.KeepsE m (resetBody s0 r0) := by
  unfold resetBody
  with_reducible repeat' first
    | assumption | apply chk_keeps | apply done_keeps | refine Keeps.upd ?_ | simp only [Keeps.mk_iff]
theorem execDeviceReset_keeps {m : Parts} {a : State} (hm : Parts.sub 0x500175 m) (s : State) (hs : a.Keeps m s) :
    a.KeepsR m (execDeviceReset s) := by
  unfold execDeviceReset
  with_reducible repeat' first
    | assumption | apply slaotRow_keeps (Keeps.sub_of hm (by decide)) | apply resetBody_keeps (Keeps.sub_of hm (by decide))
theorem execDeviceResetExpiry_keeps {m : Parts} {a : State} (hm : Parts.sub 0x3ffffff m) (y0 : BootReads) (s : State) (hs : a.Keeps m s) :
    a.KeepsR m (execDeviceResetExpiry y0 s) := by
  unfold execDeviceResetExpiry
  with_reducible repeat' first
    | assumption | intro _ | apply whenServing_keeps | apply State.restart_keeps (Keeps.sub_of hm (by decide))
    | apply State.upToClk_keeps (Keeps.sub_of hm (by decide)) | split
theorem execWardenDoubleFailure_keeps {m : Parts} {a : State} (hm : Parts.sub 0x3ffffff m) (y0 : BootReads) (s : State) (hs : a.Keeps m s) :
    a.KeepsR m (execWardenDoubleFailure y0 s) := by
  unfold execWardenDoubleFailure
  with_reducible repeat' first
    | assumption | intro _ | apply whenServing_keeps | apply State.restart_keeps (Keeps.sub_of hm (by decide))
    | apply State.upToClk_keeps (Keeps.sub_of hm (by decide)) | split
theorem storeBody_keeps {m : Parts} {a : State} (hm : Parts.sub 0x160 m) (s0 : State) (r0 : Request) (hs0 : a.Keeps m s0) :
    a.KeepsE m (storeBody s0 r0) := by
  unfold storeBody
  with_reducible repeat' first
    | assumption | apply Keeps.ok | apply chk_keeps | apply startOp_keeps (Keeps.sub_of hm (by decide)) | refine Keeps.upd ?_
    | simp only [Keeps.mk_iff] | split
theorem execDeviceStore_keeps {m : Parts} {a : State} (hm : Parts.sub 0x500165 m) (s : State) (hs : a.Keeps m s) :
    a.KeepsR m (execDeviceStore s) := by
  unfold execDeviceStore
  with_reducible repeat' first
    | assumption | apply slaotRow_keeps (Keeps.sub_of hm (by decide)) | apply storeBody_keeps (Keeps.sub_of hm (by decide))
theorem State.storeBegin_keeps {m : Parts} {a : State} (hm : Parts.sub 0x500024 m) (s : State) (i : Nat) (hs : a.Keeps m s) :
    a.Keeps m (State.storeBegin s i) := by
  unfold State.storeBegin
  with_reducible repeat' first
    | assumption | apply State.setCfgSlot_keeps (Keeps.sub_of hm (by decide))
    | apply State.fireAll_keeps (Keeps.sub_of hm (by decide)) | refine Keeps.upd ?_ | simp only [Keeps.mk_iff] | split
theorem execStoreStep_keeps {m : Parts} {a : State} (hm : Parts.sub 0x500175 m) (y0 : Nat) (s : State) (hs : a.Keeps m s) :
    a.KeepsR m (execStoreStep y0 s) := by
  unfold execStoreStep
  with_reducible repeat' first
    | assumption | intro _ | apply whenServing_keeps | apply opRow_keeps (Keeps.sub_of hm (by decide))
    | apply State.cutStore_keeps (Keeps.sub_of hm (by decide)) | apply State.setOp_keeps (Keeps.sub_of hm (by decide))
    | apply State.storeBegin_keeps (Keeps.sub_of hm (by decide)) | apply State.setCfgSlot_keeps (Keeps.sub_of hm (by decide))
    | apply State.endOp_keeps (Keeps.sub_of hm (by decide)) | refine Keeps.upd ?_ | simp only [Keeps.mk_iff] | split
theorem State.setFw_keeps {m : Parts} {a : State} (hm : Parts.sub 0x20 m) (s : State) (i : Nat) (f : FwSlot) (hs : a.Keeps m s) :
    a.Keeps m (State.setFw s i f) := by
  unfold State.setFw
  with_reducible repeat' first
    | assumption | refine Keeps.upd ?_ | simp only [Keeps.mk_iff]
theorem State.endStaging_keeps {m : Parts} {a : State} (hm : Parts.sub 0x500104 m) (s : State) (hs : a.Keeps m s) :
    a.Keeps m (State.endStaging s) := by
  unfold State.endStaging
  with_reducible repeat' first
    | assumption | intro _ | apply State.endOp_keeps (Keeps.sub_of hm (by decide)) | apply Keeps.foldl | refine Keeps.upd ?_
    | simp only [Keeps.mk_iff]
theorem State.stageWrite_keeps {m : Parts} {a : State} (hm : Parts.sub 0x500124 m) (s : State) (i : Nat) (mb : Nat) (clear : Bool) (off : Nat) (b : List Byte) (hs : a.Keeps m s) :
    a.Keeps m (State.stageWrite s i mb clear off b) := by
  unfold State.stageWrite
  with_reducible repeat' first
    | assumption | apply State.endStaging_keeps (Keeps.sub_of hm (by decide))
    | apply State.setFw_keeps (Keeps.sub_of hm (by decide)) | refine Keeps.upd ?_ | simp only [Keeps.mk_iff] | split
theorem stageBody_keeps {m : Parts} {a : State} (hm : Parts.sub 0x500124 m) (s0 : State) (r0 : Request) (hs0 : a.Keeps m s0) :
    a.KeepsE m (stageBody s0 r0) := by
  unfold stageBody
  with_reducible repeat' first
    | assumption | apply chk_keeps | apply State.stageWrite_keeps (Keeps.sub_of hm (by decide))
    | apply startOp_keeps (Keeps.sub_of hm (by decide)) | apply done_keeps | split
theorem execDeviceUpdateStage_keeps {m : Parts} {a : State} (hm : Parts.sub 0x500165 m) (s : State) (hs : a.Keeps m s) :
    a.KeepsR m (execDeviceUpdateStage s) := by
  unfold execDeviceUpdateStage
  with_reducible repeat' first
    | assumption | apply requestRow_keeps (Keeps.sub_of hm (by decide)) | apply stageBody_keeps (Keeps.sub_of hm (by decide))
theorem State.confirmFw_keeps {m : Parts} {a : State} (hm : Parts.sub 0x20 m) (s : State) (i : Nat) (hs : a.Keeps m s) :
    a.Keeps m (State.confirmFw s i) := by
  unfold State.confirmFw
  with_reducible repeat' first
    | assumption | apply State.setFw_keeps (Keeps.sub_of hm (by decide))
theorem execStageVerifyEnd_keeps {m : Parts} {a : State} (hm : Parts.sub 0x500165 m) (y0 : Nat) (readOk : Bool) (s : State) (hs : a.Keeps m s) :
    a.KeepsR m (execStageVerifyEnd y0 readOk s) := by
  unfold execStageVerifyEnd
  with_reducible repeat' first
    | assumption | intro _ | apply whenServing_keeps | apply opRow_keeps (Keeps.sub_of hm (by decide))
    | apply State.confirmFw_keeps (Keeps.sub_of hm (by decide)) | apply State.endOp_keeps (Keeps.sub_of hm (by decide))
    | refine Keeps.upd ?_ | simp only [Keeps.mk_iff] | split
theorem activateBody_keeps {m : Parts} {a : State} (hm : Parts.sub 0x1000110 m) (s0 : State) (r0 : Request) (hs0 : a.Keeps m s0) :
    a.KeepsE m (activateBody s0 r0) := by
  unfold activateBody
  with_reducible repeat' first
    | assumption | exact Keeps.error _ | apply chk_keeps | apply startOp_keeps (Keeps.sub_of hm (by decide))
    | refine Keeps.upd ?_ | simp only [Keeps.mk_iff] | split
theorem execDeviceUpdateActivate_keeps {m : Parts} {a : State} (hm : Parts.sub 0x1500175 m) (s : State) (hs : a.Keeps m s) :
    a.KeepsR m (execDeviceUpdateActivate s) := by
  unfold execDeviceUpdateActivate
  with_reducible repeat' first
    | assumption | apply requestRow_keeps (Keeps.sub_of hm (by decide)) | apply activateBody_keeps (Keeps.sub_of hm (by decide))
theorem State.loseStaging_keeps {m : Parts} {a : State} (hm : Parts.sub 0x1800 m) (s : State) (hs : a.Keeps m s) :
    a.Keeps m (State.loseStaging s) := by
  unfold State.loseStaging
  with_reducible repeat' first
    | assumption | refine Keeps.upd ?_ | simp only [Keeps.mk_iff]
theorem execActivationStep_keeps {m : Parts} {a : State} (hm : Parts.sub 0x1581975 m) (y0 : Nat) (s : State) (hs : a.Keeps m s) :
    a.KeepsR m (execActivationStep y0 s) := by
  unfold execActivationStep
  with_reducible repeat' first
    | assumption | intro _ | apply whenServing_keeps | apply opRow_keeps (Keeps.sub_of hm (by decide))
    | apply State.loseStaging_keeps (Keeps.sub_of hm (by decide)) | apply State.startImage_keeps (Keeps.sub_of hm (by decide))
    | apply State.setOp_keeps (Keeps.sub_of hm (by decide)) | apply State.confirmFw_keeps (Keeps.sub_of hm (by decide))
    | apply State.endOp_keeps (Keeps.sub_of hm (by decide)) | refine Keeps.upd ?_ | simp only [Keeps.mk_iff] | split
theorem execActivationTimeout_keeps {m : Parts} {a : State} (hm : Parts.sub 0x500115 m) (r : StagedRead) (s : State) (hs : a.Keeps m s) :
    a.KeepsR m (execActivationTimeout r s) := by
  unfold execActivationTimeout
  with_reducible repeat' first
    | assumption | intro _ | apply whenServing_keeps | apply State.endActivation_keeps (Keeps.sub_of hm (by decide))
    | apply State.upToClk_keeps (Keeps.sub_of hm (by decide)) | split

end Sys2Proof.Machine
end

