-- ==== Sys2Proof/Laws/KeepsBar.lean ====
section
/-! SUPPORT. What the definitions of Machine/Bar.lean keep: no part of the state changes but those of the mask, which is
`Parts` in bits (Safety.lean), and what every command keeps. -/
set_option Elab.async false
namespace Sys2Proof.Machine

theorem State.mbWord_keeps {m : Parts} {a : State} (hm : Parts.sub 0x100 m) (s : State) (p : Nat) (off : Nat) (v : Nat) (hs : a.Keeps m s) :
    a.Keeps m (State.mbWord s p off v) := by
  unfold State.mbWord
  with_reducible repeat' first
    | assumption | apply State.submit_keeps (Keeps.sub_of hm (by decide))
    | apply State.clearMbStatus_keeps (Keeps.sub_of hm (by decide)) | apply State.setMbx_keeps (Keeps.sub_of hm (by decide))
    | split
theorem State.tblWord_keeps {m : Parts} {a : State} (hm : Parts.sub 0x507084 m) (s : State) (p : Nat) (off : Nat) (v : Nat) (hs : a.Keeps m s) :
    a.Keeps m (State.tblWord s p off v) := by
  unfold State.tblWord
  with_reducible repeat' first
    | assumption | apply State.tblStart_keeps (Keeps.sub_of hm (by decide))
    | apply State.tblStatusAck_keeps (Keeps.sub_of hm (by decide)) | split
theorem State.bellWord_keeps {m : Parts} {a : State} (hm : Parts.sub 0x780004 m) (s : State) (q : Nat) (off : Nat) (v : Nat) (hs : a.Keeps m s) :
    a.Keeps m (State.bellWord s q off v) := by
  unfold State.bellWord
  with_reducible repeat' first
    | assumption | apply State.workPiWrite_keeps (Keeps.sub_of hm (by decide))
    | apply State.cplCiWrite_keeps (Keeps.sub_of hm (by decide)) | apply State.qpCtrl_keeps (Keeps.sub_of hm (by decide))
    | split
theorem State.eqWord_keeps {m : Parts} {a : State} (hm : Parts.sub 0x580005 m) (s : State) (e : Nat) (off : Nat) (v : Nat) (hs : a.Keeps m s) :
    a.Keeps m (State.eqWord s e off v) := by
  unfold State.eqWord
  with_reducible repeat' first
    | assumption | apply State.eqCi_keeps (Keeps.sub_of hm (by decide)) | apply State.eqCmd_keeps (Keeps.sub_of hm (by decide))
    | split
theorem State.nvWord_keeps {m : Parts} {a : State} (hm : Parts.sub 0x588004 m) (s : State) (f : Nat) (page : Nat) (off : Nat) (v : Nat) (hs : a.Keeps m s) :
    a.Keeps m (State.nvWord s f page off v) := by
  unfold State.nvWord
  with_reducible repeat' first
    | assumption | apply State.nvRegWrite_keeps (Keeps.sub_of hm (by decide))
    | apply State.nvSqTail_keeps (Keeps.sub_of hm (by decide)) | apply State.nvCqHead_keeps (Keeps.sub_of hm (by decide))
    | split
theorem State.badWrite_keeps {m : Parts} {a : State} (hm : Parts.sub 0x100000 m) (s : State) (f : Nat) (hs : a.Keeps m s) :
    a.Keeps m (State.badWrite s f) := by
  unfold State.badWrite
  with_reducible repeat' first
    | assumption | apply State.hostCtr_keeps (Keeps.sub_of hm (by decide))
theorem State.writePlace_keeps {m : Parts} {a : State} (hm : Parts.sub 0x7cf185 m) (s : State) (f : Nat) (pl : Place) (b : List Byte) (hs : a.Keeps m s) :
    a.Keeps m (State.writePlace s f pl b) := by
  unfold State.writePlace
  with_reducible repeat' first
    | assumption | intro _ | dsimp only | apply State.badWrite_keeps (Keeps.sub_of hm (by decide))
    | apply State.putRequest_keeps (Keeps.sub_of hm (by decide)) | apply State.mbWord_keeps (Keeps.sub_of hm (by decide))
    | apply State.tblPut_keeps (Keeps.sub_of hm (by decide)) | apply State.tblWord_keeps (Keeps.sub_of hm (by decide))
    | apply State.eqWord_keeps (Keeps.sub_of hm (by decide)) | apply State.hostCtr_keeps (Keeps.sub_of hm (by decide))
    | apply State.bellWord_keeps (Keeps.sub_of hm (by decide)) | apply State.nvWord_keeps (Keeps.sub_of hm (by decide))
    | apply State.ctlServeAll_keeps (Keeps.sub_of hm (by decide)) | apply State.ctlPush_keeps (Keeps.sub_of hm (by decide))
    | apply Keeps.foldl | split
theorem State.msixWord_keeps {m : Parts} {a : State} (hm : Parts.sub 0x100004 m) (s : State) (f : Nat) (off : Nat) (v : Nat) (hs : a.Keeps m s) :
    a.Keeps m (State.msixWord s f off v) := by
  unfold State.msixWord
  with_reducible repeat' first
    | assumption | dsimp only | apply State.setFn_keeps (Keeps.sub_of hm (by decide))
    | apply State.unmaskVector_keeps (Keeps.sub_of hm (by decide)) | split
theorem State.writeBar2_keeps {m : Parts} {a : State} (hm : Parts.sub 0x100004 m) (s : State) (f : Nat) (off : Nat) (b : List Byte) (hs : a.Keeps m s) :
    a.Keeps m (State.writeBar2 s f off b) := by
  unfold State.writeBar2
  with_reducible repeat' first
    | assumption | intro _ | dsimp only | apply State.msixWord_keeps (Keeps.sub_of hm (by decide))
    | apply State.badWrite_keeps (Keeps.sub_of hm (by decide)) | apply State.ackIntx_keeps (Keeps.sub_of hm (by decide))
    | apply Keeps.foldl | split
theorem State.readControl_keeps {m : Parts} {a : State} (hm : Parts.sub 0x40004 m) (s : State) (f : Nat) (c : Nat) (off : Nat) (len : Nat) (hs : a.Keeps m s) :
    a.Keeps m (State.readControl s f c off len) := by
  unfold State.readControl
  with_reducible repeat' first
    | assumption | apply State.ctlServeAll_keeps (Keeps.sub_of hm (by decide))
    | apply State.ctlPush_keeps (Keeps.sub_of hm (by decide)) | apply State.emit_keeps (Keeps.sub_of hm (by decide)) | split
theorem State.bar0_keeps {m : Parts} {a : State} (hm : Parts.sub 0x7cf185 m) (s : State) (f : Nat) (off : Nat) (r : MemReq) (hs : a.Keeps m s) :
    a.Keeps m (State.bar0 s f off r) := by
  unfold State.bar0
  with_reducible repeat' first
    | assumption | intro _ | dsimp only | apply State.readControl_keeps (Keeps.sub_of hm (by decide))
    | apply State.emit_keeps (Keeps.sub_of hm (by decide)) | apply State.writePlace_keeps (Keeps.sub_of hm (by decide))
    | apply hostRequest_keeps (Keeps.sub_of hm (by decide)) | split
theorem execRegisterWrite_keeps {m : Parts} {a : State} (hm : Parts.sub 0x7cf185 m) (fn : Nat) (bar : Nat) (off : Nat) (r : MemReq) (s : State) (hs : a.Keeps m s) :
    a.KeepsR m (execRegisterWrite fn bar off r s) := by
  unfold execRegisterWrite
  with_reducible repeat' first
    | assumption | intro _ | apply whenServing_keeps | apply State.emit_keeps (Keeps.sub_of hm (by decide))
    | apply State.bar0_keeps (Keeps.sub_of hm (by decide)) | apply bar2Request_keeps (Keeps.sub_of hm (by decide))
    | apply State.writeBar2_keeps (Keeps.sub_of hm (by decide)) | split

end Sys2Proof.Machine
end

