-- ==== Sys2Proof/Laws/KeepsStep.lean ====
section
/-! SUPPORT. What the definitions of Machine/Step.lean keep: no part of the state changes but those of the mask, which is
`Parts` in bits (Safety.lean), and what every command keeps. -/
set_option Elab.async false
namespace Sys2Proof.Machine

theorem State.tick_keeps {m : Parts} {a : State} (hm : Parts.sub 0x5071e5 m) (s : State) (hs : a.Keeps m s) :
    a.Keeps m (State.tick s) := by
  unfold State.tick
  refine State.drain_keeps (Keeps.sub_of hm (by decide)) _ (State.tblRunDue_keeps (Keeps.sub_of hm (by decide)) _ ?_)
  exact ⟨hs.pending, hs.variant, hs.stepping, Nat.le_trans hs.now (Nat.le_add_right _ _), hs.free, hs.out, hs.mem, .inr (Keeps.has_of 0 hm (by decide)), hs.same_free, hs.same_out, hs.same_board, hs.same_boot, hs.same_nv, hs.same_ret, hs.same_cfg, hs.same_sl, hs.same_et, hs.same_cn, hs.same_ps, hs.same_cl, hs.same_tb, hs.same_sv, hs.same_nvc, hs.same_ra, hs.same_ci, hs.same_clr, hs.same_sec, hs.same_hp, hs.same_qp, hs.same_ev, hs.same_tm, hs.same_hl, hs.same_mem⟩

end Sys2Proof.Machine
end

