-- ==== Sys2Proof/Laws/Ops.lean ====
section
/-! SUPPORT. What each shared operation can change, said once: the result is the old state with the fields that are named
replaced, and nothing else. -/
set_option Elab.async false
namespace Sys2Proof.Machine

/-! ## Events and the error log -/

/-- A PME cause changes host-port state and the outputs. -/
theorem pmeCause_frame (s : State) (f : Nat) : ∃ hp out, s.pmeCause f = { s with hp := hp, out := out } := by
  unfold State.pmeCause
  simp only
  split
  · exact ⟨_, _, rfl⟩
  · exact ⟨s.hp, s.out, rfl⟩
/-- A firing source changes the event controller, and host-port state and outputs by its PME. -/
theorem fire_frame (s : State) (i ty : Nat) (d : W32) :
    ∃ ev hp out, s.fire i ty d = { s with ev := ev, hp := hp, out := out } := by
  have hs (v : EvSrc) : s.setSrc i v = { s with ev := (s.setSrc i v).ev } := rfl
  unfold State.fire
  simp only
  rw [hs]
  split
  · obtain ⟨hp, out, h⟩ := pmeCause_frame { s with ev := (s.setSrc i { s.src i with
      held := foldHeld ty d s.time (s.src i).held }).ev } _
    exact ⟨_, hp, out, h⟩
  · exact ⟨_, s.hp, s.out, rfl⟩
theorem fireDev_frame (s : State) (p k ty : Nat) (d : W32) :
    ∃ ev hp out, s.fireDev p k ty d = { s with ev := ev, hp := hp, out := out } := fire_frame s _ ty d
theorem fireAll_frame (s : State) (k ty : Nat) (d : W32) :
    ∃ ev hp out, s.fireAll k ty d = { s with ev := ev, hp := hp, out := out } := by
  unfold State.fireAll
  generalize s.groveList = l
  induction l generalizing s with
  | nil => exact ⟨s.ev, s.hp, s.out, rfl⟩
  | cons p l ih =>
    obtain ⟨ev, hp, out, h⟩ := fireDev_frame s p k ty d
    obtain ⟨ev', hp', out', h'⟩ := ih (s.fireDev p k ty d)
    exact ⟨ev', hp', out', by rw [List.foldl_cons, h', h]⟩
/-- A log record changes the log buffer in retained RAM, or a record of the ring it folds into. -/
theorem log_frame (s : State) (l : LocWord) (k v : Nat) (d : W32) :
    ∃ ret nv, s.log l k v d = { s with ret := ret, nv := nv } := by
  unfold State.log
  split
  · exact ⟨_, s.nv, rfl⟩
  · split
    · exact ⟨s.ret, _, rfl⟩
    · exact ⟨_, s.nv, rfl⟩

/-! ## Responses and the arbiter -/

/-- A response changes Slaot's mailboxes and queues, and what EV_MB_RESPONSE and the outputs show. -/
theorem sendResponse_frame (s : State) (r : Request) (b : List Byte) :
    ∃ sl ev hp out, s.sendResponse r b = { s with sl := sl, ev := ev, hp := hp, out := out } := by
  unfold State.sendResponse
  split
  · simp only
    split
    · rename_i p _ _
      obtain ⟨ev, hp, out, h⟩ := fireDev_frame
        (s.setMbx p { s.mbx p with resp := b, respValid := true, busy := false }) p 0 Ev.mbResponse (BitVec.ofNat 32 p)
      exact ⟨_, ev, hp, out, h⟩
    · exact ⟨_, s.ev, s.hp, s.out, rfl⟩
  · exact ⟨_, s.ev, s.hp, _, rfl⟩
  · simp only
    split
    · exact ⟨_, s.ev, s.hp, _, rfl⟩
    · exact ⟨_, s.ev, s.hp, _, rfl⟩
  · exact ⟨s.sl, s.ev, s.hp, s.out, rfl⟩
/-- The end of a request changes what REPLAY reports and what a response changes. -/
theorem finish_frame (s : State) (r : Request) (acc : Bool) (a : Reply) :
    ∃ sl ret ev hp out, s.finish r acc a = { s with sl := sl, ret := ret, ev := ev, hp := hp, out := out } := by
  unfold State.finish
  simp only
  split
  · rename_i h
    obtain ⟨sl, ev, hp, out, e⟩ := sendResponse_frame (s.setCounter r.mb { s.counterOf r.mb with
      lastSeq := r.seq, lastOpcode := r.opcode, lastStatus := a.status, lastHandle := a.handle }) r (responseBytes r a)
    exact ⟨sl, _, ev, hp, out, e⟩
  · obtain ⟨sl, ev, hp, out, e⟩ := sendResponse_frame s r (responseBytes r a)
    exact ⟨sl, s.ret, ev, hp, out, e⟩
theorem acceptCounter_frame (s : State) (m c : Nat) :
    ∃ ret nv, s.acceptCounter m c = { s with ret := ret, nv := nv } := by
  unfold State.acceptCounter
  simp only
  split
  · exact ⟨_, _, rfl⟩
  · split
    · exact ⟨_, _, rfl⟩
    · exact ⟨_, s.nv, rfl⟩
theorem nextSeq_frame (s : State) : ∃ ret nv, s.nextSeq = { s with ret := ret, nv := nv } := by
  unfold State.nextSeq
  simp only
  split
  · exact ⟨_, _, rfl⟩
  · exact ⟨_, s.nv, rfl⟩
/-- One turn of the arbiter. -/
theorem arbitrate_frame (s : State) :
    ∃ sl ret nv ev hp out, s.arbitrate = { s with sl := sl, ret := ret, nv := nv, ev := ev, hp := hp, out := out } := by
  unfold State.arbitrate
  split
  · rename_i r rest _ _
    generalize hz : { s.sl with arb := rest, ran := s.sl.ran + 1 } = z
    obtain ⟨ret, nv, e⟩ := nextSeq_frame { s with sl := z }
    simp only [e]
    split
    · obtain ⟨sl, ret', ev, hp, out, e'⟩ := finish_frame { s with sl := z, ret := ret, nv := nv } _ false _
      exact ⟨sl, ret', nv, ev, hp, out, e'⟩
    · obtain ⟨sl, ret', ev, hp, out, e'⟩ := finish_frame { s with sl := z, ret := ret, nv := nv } _ false _
      exact ⟨sl, ret', nv, ev, hp, out, e'⟩
    · obtain ⟨ret1, nv1, e1⟩ := acceptCounter_frame { s with sl := z, ret := ret, nv := nv } _ _
      rw [e1]
      obtain ⟨sl, ret', ev, hp, out, e'⟩ := finish_frame { s with sl := z, ret := ret1, nv := nv1 } _ true _
      exact ⟨sl, ret', nv1, ev, hp, out, e'⟩
    · obtain ⟨ret1, nv1, e1⟩ := acceptCounter_frame { s with sl := z, ret := ret, nv := nv } _ _
      rw [e1]
      exact ⟨_, _, _, s.ev, s.hp, s.out, rfl⟩
  · exact ⟨s.sl, s.ret, s.nv, s.ev, s.hp, s.out, rfl⟩
theorem drainN_frame (n : Nat) (s : State) :
    ∃ sl ret nv ev hp out, s.drainN n = { s with sl := sl, ret := ret, nv := nv, ev := ev, hp := hp, out := out } := by
  induction n generalizing s with
  | zero => exact ⟨s.sl, s.ret, s.nv, s.ev, s.hp, s.out, rfl⟩
  | succ n ih =>
    unfold State.drainN
    split
    · obtain ⟨sl, ret, nv, ev, hp, out, h⟩ := arbitrate_frame s
      obtain ⟨sl', ret', nv', ev', hp', out', h'⟩ := ih s.arbitrate
      exact ⟨sl', ret', nv', ev', hp', out', by rw [h', h]⟩
    · exact ⟨s.sl, s.ret, s.nv, s.ev, s.hp, s.out, rfl⟩
/-- The arbiter's run. -/
theorem drain_frame (s : State) :
    ∃ sl ret nv ev hp out, s.drain = { s with sl := sl, ret := ret, nv := nv, ev := ev, hp := hp, out := out } :=
  drainN_frame _ s

/-! ## A command of Slaot -/

/-- A configuration is not larger than itself. -/
@[simp] theorem tooLarge_self (c : RunCfg) : tooLarge c c = false := by simp [tooLarge]
/-- While a request stands accepted the arbiter takes no other. -/
theorem pump_accepted {s : State} {r : Request} (h : s.sl.accepted = some r) : s.pump = s := by
  simp [State.pump, h]
/-- The row of a command whose request stands accepted is its body, answered: a failed check leaves everything else as it
was, and so does a configuration beyond its bound. -/
theorem requestRow_eq {s : State} {r : Request} {mine : Request → Bool} {body : Body} (h1 : s.serving = true)
    (h2 : s.slaotUp = true) (h3 : s.sl.accepted = some r) (h4 : mine r = true) : requestRow mine body s =
    match body s.taken r with
    | .error st => .next (s.taken.reply r st)
    | .ok d =>
      if tooLarge s.cfg d.s.cfg then .next (s.taken.reply r St.noSpace)
      else match d.reply with
        | some a => .next (d.s.reply r a.status a.payload a.handle)
        | none => .next d.s.drain := by
  have e : requestRow mine body s = .next (runCommand mine body s) := by
    simp [requestRow, whenServing, h1, pump_accepted h3]
  rw [e]
  unfold runCommand
  rw [h3]
  simp only [h2, h4, Bool.and_self, if_true]
  change _ = match body { s with sl := { s.sl with accepted := none } } r with
    | .error st => _
    | .ok d => _
  cases body { s with sl := { s.sl with accepted := none } } r with
  | error st => rfl
  | ok d =>
    simp only
    split
    · rfl
    · cases d.reply <;> rfl
theorem slaotRow_eq {s : State} {r : Request} {op : Nat} {body : Body} (h : s.asks r op) : slaotRow op body s =
    match body s.taken r with
    | .error st => .next (s.taken.reply r st)
    | .ok d =>
      if tooLarge s.cfg d.s.cfg then .next (s.taken.reply r St.noSpace)
      else match d.reply with
        | some a => .next (d.s.reply r a.status a.payload a.handle)
        | none => .next d.s.drain := requestRow_eq h.1 h.2.1 h.2.2.1 (by simp [h.2.2.2])
/-- The row of a command whose body succeeds with an answer and does not enlarge the configuration beyond its bound. -/
theorem slaotRow_ok {s t : State} {r : Request} {op : Nat} {body : Body} {a : Reply} (h : s.asks r op)
    (b : body s.taken r = .ok ⟨t, some a⟩) (f : tooLarge s.cfg t.cfg = false) :
    slaotRow op body s = .next (t.reply r a.status a.payload a.handle) := by
  rw [slaotRow_eq h, b]
  simp [f]
/-- The row of a command whose body succeeds and may enlarge the configuration. -/
theorem slaotRow_cfg {s t : State} {r : Request} {op : Nat} {body : Body} {p : List Byte} (h : s.asks r op)
    (b : body s.taken r = .ok ⟨t, some ⟨0, p, 0⟩⟩) : slaotRow op body s = .next (s.replyCfg t r p) := by
  simp only [slaotRow_eq h, b, State.replyCfg]
  split <;> rfl
/-- The row of a command whose body fails a check: the status is answered and nothing else has changed. -/
theorem slaotRow_error {s : State} {r : Request} {op : Nat} {body : Body} {st : Nat} (h : s.asks r op)
    (b : body s.taken r = .error st) : slaotRow op body s = .next (s.taken.reply r st) := by
  rw [slaotRow_eq h, b]
/-- A host request that reaches a register does what the register does. -/
theorem hostRequest_eq {s : State} {f target right addr len : Nat} (k : State → State) (h : s.reaches f target right addr len) :
    hostRequest s f target right addr len k = k (s.traffic f) := by
  obtain ⟨h1, h2, p⟩ := h
  have h3 : (s.port (fnPort f)).full = true := by simp [State.takesRequests] at h1; exact h1.1.1.1.1.2
  unfold hostRequest
  rw [if_neg (by simp [h3]), if_neg (by simp [h1]), if_neg (by rcases p with p | p <;> simp [p])]
  simp [State.fbCheck, h2, State.traffic]
/-- The row of a long operation whose turn it is, with no cancel. -/
theorem opRow_step {s : State} {h : Nat} {o : LongOp} (t : s.turns h o) (c : o.cancel = false)
    (abort body : State → LongOp → State) : opRow h abort body s = body (s.atStep h) o.step := by
  simp [opRow, opStep, t.1, t.2, c, State.atStep]
/-- A cancel that has arrived ends the operation at its step. -/
theorem opRow_abort {s : State} {h : Nat} {o : LongOp} (t : s.turns h o) (c : o.cancel = true)
    (abort body : State → LongOp → State) :
    opRow h abort body s = (abort (s.atStep h) o).endOp o St.aborted := by
  simp [opRow, opStep, t.1, t.2, c, State.atStep]
/-- The row of an operation whose turn it is not: the arbiter has taken what waits, and nothing else. -/
theorem opRow_wait {s : State} {h : Nat} (t : s.pump.op h = none ∨ s.pump.mayStep h = false)
    (abort body : State → LongOp → State) : opRow h abort body s = s.pump := by
  simp only [opRow, opStep]
  rcases t with t | t <;> cases e : s.pump.op h <;> simp_all
/-- A long operation starts while fewer than 64 are in progress. -/
theorem startOp_eq {s : State} {r : Request} {n : Nat} {d : OpData} (h : s.sl.ops.length < 64) :
    startOp s r n d = .ok ⟨s.started r n d, some ⟨St.inProgress, [], s.handleFrom 400 s.sl.nextHandle⟩⟩ := by
  simp [startOp, State.started, Request.operation, Nat.not_le.2 h]

end Sys2Proof.Machine
end

