-- ==== Sys2Proof/Laws/State.lean ====
section
/-! SUPPORT. For each update of the state, the fields it leaves alone, and what its own accessor reads after it. -/
set_option Elab.async false
namespace Sys2Proof.Machine

@[simp] theorem State.setPlane_pending (s : State) (p : Nat) (x : Plane) : (s.setPlane p x).pending = s.pending := rfl
@[simp] theorem State.setPlane_now (s : State) (p : Nat) (x : Plane) : (s.setPlane p x).now = s.now := rfl
@[simp] theorem State.setPlane_free (s : State) (p : Nat) (x : Plane) : (s.setPlane p x).free = s.free := rfl
@[simp] theorem State.setPlane_out (s : State) (p : Nat) (x : Plane) : (s.setPlane p x).out = s.out := rfl
@[simp] theorem State.setPlane_variant (s : State) (p : Nat) (x : Plane) : (s.setPlane p x).variant = s.variant := rfl
@[simp] theorem State.setPlane_stepping (s : State) (p : Nat) (x : Plane) : (s.setPlane p x).stepping = s.stepping := rfl
@[simp] theorem State.setPlane_board (s : State) (p : Nat) (x : Plane) : (s.setPlane p x).board = s.board := rfl
@[simp] theorem State.setPlane_boot (s : State) (p : Nat) (x : Plane) : (s.setPlane p x).boot = s.boot := rfl
@[simp] theorem State.setPlane_nv (s : State) (p : Nat) (x : Plane) : (s.setPlane p x).nv = s.nv := rfl
@[simp] theorem State.setPlane_ret (s : State) (p : Nat) (x : Plane) : (s.setPlane p x).ret = s.ret := rfl
@[simp] theorem State.setPlane_cfg (s : State) (p : Nat) (x : Plane) : (s.setPlane p x).cfg = s.cfg := rfl
@[simp] theorem State.setPlane_sl (s : State) (p : Nat) (x : Plane) : (s.setPlane p x).sl = s.sl := rfl
@[simp] theorem State.setPlane_et (s : State) (p : Nat) (x : Plane) : (s.setPlane p x).et = s.et := rfl
@[simp] theorem State.setPlane_ps (s : State) (p : Nat) (x : Plane) : (s.setPlane p x).ps = s.ps := rfl
@[simp] theorem State.setPlane_cl (s : State) (p : Nat) (x : Plane) : (s.setPlane p x).cl = s.cl := rfl
@[simp] theorem State.setPlane_tb (s : State) (p : Nat) (x : Plane) : (s.setPlane p x).tb = s.tb := rfl
@[simp] theorem State.setPlane_sv (s : State) (p : Nat) (x : Plane) : (s.setPlane p x).sv = s.sv := rfl
@[simp] theorem State.setPlane_nvc (s : State) (p : Nat) (x : Plane) : (s.setPlane p x).nvc = s.nvc := rfl
@[simp] theorem State.setPlane_ra (s : State) (p : Nat) (x : Plane) : (s.setPlane p x).ra = s.ra := rfl
@[simp] theorem State.setPlane_ci (s : State) (p : Nat) (x : Plane) : (s.setPlane p x).ci = s.ci := rfl
@[simp] theorem State.setPlane_clr (s : State) (p : Nat) (x : Plane) : (s.setPlane p x).clr = s.clr := rfl
@[simp] theorem State.setPlane_sec (s : State) (p : Nat) (x : Plane) : (s.setPlane p x).sec = s.sec := rfl
@[simp] theorem State.setPlane_hp (s : State) (p : Nat) (x : Plane) : (s.setPlane p x).hp = s.hp := rfl
@[simp] theorem State.setPlane_qp (s : State) (p : Nat) (x : Plane) : (s.setPlane p x).qp = s.qp := rfl
@[simp] theorem State.setPlane_ev (s : State) (p : Nat) (x : Plane) : (s.setPlane p x).ev = s.ev := rfl
@[simp] theorem State.setPlane_tm (s : State) (p : Nat) (x : Plane) : (s.setPlane p x).tm = s.tm := rfl
@[simp] theorem State.setPlane_hl (s : State) (p : Nat) (x : Plane) : (s.setPlane p x).hl = s.hl := rfl
@[simp] theorem State.setPlane_mem (s : State) (p : Nat) (x : Plane) : (s.setPlane p x).mem = s.mem := rfl

@[simp] theorem State.setEngine_pending (s : State) (g e : Nat) (x : Engine) : (s.setEngine g e x).pending = s.pending :=
    rfl
@[simp] theorem State.setEngine_now (s : State) (g e : Nat) (x : Engine) : (s.setEngine g e x).now = s.now := rfl
@[simp] theorem State.setEngine_free (s : State) (g e : Nat) (x : Engine) : (s.setEngine g e x).free = s.free := rfl
@[simp] theorem State.setEngine_out (s : State) (g e : Nat) (x : Engine) : (s.setEngine g e x).out = s.out := rfl
@[simp] theorem State.setEngine_variant (s : State) (g e : Nat) (x : Engine) : (s.setEngine g e x).variant = s.variant :=
    rfl
@[simp] theorem State.setEngine_stepping (s : State) (g e : Nat) (x : Engine) : (s.setEngine g e x).stepping = s.stepping :=
    rfl
@[simp] theorem State.setEngine_board (s : State) (g e : Nat) (x : Engine) : (s.setEngine g e x).board = s.board := rfl
@[simp] theorem State.setEngine_boot (s : State) (g e : Nat) (x : Engine) : (s.setEngine g e x).boot = s.boot := rfl
@[simp] theorem State.setEngine_nv (s : State) (g e : Nat) (x : Engine) : (s.setEngine g e x).nv = s.nv := rfl
@[simp] theorem State.setEngine_ret (s : State) (g e : Nat) (x : Engine) : (s.setEngine g e x).ret = s.ret := rfl
@[simp] theorem State.setEngine_cfg (s : State) (g e : Nat) (x : Engine) : (s.setEngine g e x).cfg = s.cfg := rfl
@[simp] theorem State.setEngine_sl (s : State) (g e : Nat) (x : Engine) : (s.setEngine g e x).sl = s.sl := rfl
@[simp] theorem State.setEngine_et (s : State) (g e : Nat) (x : Engine) : (s.setEngine g e x).et = s.et := rfl
@[simp] theorem State.setEngine_cn (s : State) (g e : Nat) (x : Engine) : (s.setEngine g e x).cn = s.cn := rfl
@[simp] theorem State.setEngine_ps (s : State) (g e : Nat) (x : Engine) : (s.setEngine g e x).ps = s.ps := rfl
@[simp] theorem State.setEngine_cl (s : State) (g e : Nat) (x : Engine) : (s.setEngine g e x).cl = s.cl := rfl
@[simp] theorem State.setEngine_tb (s : State) (g e : Nat) (x : Engine) : (s.setEngine g e x).tb = s.tb := rfl
@[simp] theorem State.setEngine_sv (s : State) (g e : Nat) (x : Engine) : (s.setEngine g e x).sv = s.sv := rfl
@[simp] theorem State.setEngine_nvc (s : State) (g e : Nat) (x : Engine) : (s.setEngine g e x).nvc = s.nvc := rfl
@[simp] theorem State.setEngine_ra (s : State) (g e : Nat) (x : Engine) : (s.setEngine g e x).ra = s.ra := rfl
@[simp] theorem State.setEngine_clr (s : State) (g e : Nat) (x : Engine) : (s.setEngine g e x).clr = s.clr := rfl
@[simp] theorem State.setEngine_sec (s : State) (g e : Nat) (x : Engine) : (s.setEngine g e x).sec = s.sec := rfl
@[simp] theorem State.setEngine_hp (s : State) (g e : Nat) (x : Engine) : (s.setEngine g e x).hp = s.hp := rfl
@[simp] theorem State.setEngine_qp (s : State) (g e : Nat) (x : Engine) : (s.setEngine g e x).qp = s.qp := rfl
@[simp] theorem State.setEngine_ev (s : State) (g e : Nat) (x : Engine) : (s.setEngine g e x).ev = s.ev := rfl
@[simp] theorem State.setEngine_tm (s : State) (g e : Nat) (x : Engine) : (s.setEngine g e x).tm = s.tm := rfl
@[simp] theorem State.setEngine_hl (s : State) (g e : Nat) (x : Engine) : (s.setEngine g e x).hl = s.hl := rfl
@[simp] theorem State.setEngine_mem (s : State) (g e : Nat) (x : Engine) : (s.setEngine g e x).mem = s.mem := rfl

@[simp] theorem State.setCKey_pending (s : State) (i : Nat) (k : CKey) : (s.setCKey i k).pending = s.pending := rfl
@[simp] theorem State.setCKey_now (s : State) (i : Nat) (k : CKey) : (s.setCKey i k).now = s.now := rfl
@[simp] theorem State.setCKey_free (s : State) (i : Nat) (k : CKey) : (s.setCKey i k).free = s.free := rfl
@[simp] theorem State.setCKey_out (s : State) (i : Nat) (k : CKey) : (s.setCKey i k).out = s.out := rfl
@[simp] theorem State.setCKey_variant (s : State) (i : Nat) (k : CKey) : (s.setCKey i k).variant = s.variant := rfl
@[simp] theorem State.setCKey_stepping (s : State) (i : Nat) (k : CKey) : (s.setCKey i k).stepping = s.stepping := rfl
@[simp] theorem State.setCKey_board (s : State) (i : Nat) (k : CKey) : (s.setCKey i k).board = s.board := rfl
@[simp] theorem State.setCKey_boot (s : State) (i : Nat) (k : CKey) : (s.setCKey i k).boot = s.boot := rfl
@[simp] theorem State.setCKey_nv (s : State) (i : Nat) (k : CKey) : (s.setCKey i k).nv = s.nv := rfl
@[simp] theorem State.setCKey_ret (s : State) (i : Nat) (k : CKey) : (s.setCKey i k).ret = s.ret := rfl
@[simp] theorem State.setCKey_cfg (s : State) (i : Nat) (k : CKey) : (s.setCKey i k).cfg = s.cfg := rfl
@[simp] theorem State.setCKey_sl (s : State) (i : Nat) (k : CKey) : (s.setCKey i k).sl = s.sl := rfl
@[simp] theorem State.setCKey_et (s : State) (i : Nat) (k : CKey) : (s.setCKey i k).et = s.et := rfl
@[simp] theorem State.setCKey_cn (s : State) (i : Nat) (k : CKey) : (s.setCKey i k).cn = s.cn := rfl
@[simp] theorem State.setCKey_ps (s : State) (i : Nat) (k : CKey) : (s.setCKey i k).ps = s.ps := rfl
@[simp] theorem State.setCKey_cl (s : State) (i : Nat) (k : CKey) : (s.setCKey i k).cl = s.cl := rfl
@[simp] theorem State.setCKey_tb (s : State) (i : Nat) (k : CKey) : (s.setCKey i k).tb = s.tb := rfl
@[simp] theorem State.setCKey_sv (s : State) (i : Nat) (k : CKey) : (s.setCKey i k).sv = s.sv := rfl
@[simp] theorem State.setCKey_nvc (s : State) (i : Nat) (k : CKey) : (s.setCKey i k).nvc = s.nvc := rfl
@[simp] theorem State.setCKey_ra (s : State) (i : Nat) (k : CKey) : (s.setCKey i k).ra = s.ra := rfl
@[simp] theorem State.setCKey_clr (s : State) (i : Nat) (k : CKey) : (s.setCKey i k).clr = s.clr := rfl
@[simp] theorem State.setCKey_sec (s : State) (i : Nat) (k : CKey) : (s.setCKey i k).sec = s.sec := rfl
@[simp] theorem State.setCKey_hp (s : State) (i : Nat) (k : CKey) : (s.setCKey i k).hp = s.hp := rfl
@[simp] theorem State.setCKey_qp (s : State) (i : Nat) (k : CKey) : (s.setCKey i k).qp = s.qp := rfl
@[simp] theorem State.setCKey_ev (s : State) (i : Nat) (k : CKey) : (s.setCKey i k).ev = s.ev := rfl
@[simp] theorem State.setCKey_tm (s : State) (i : Nat) (k : CKey) : (s.setCKey i k).tm = s.tm := rfl
@[simp] theorem State.setCKey_hl (s : State) (i : Nat) (k : CKey) : (s.setCKey i k).hl = s.hl := rfl
@[simp] theorem State.setCKey_mem (s : State) (i : Nat) (k : CKey) : (s.setCKey i k).mem = s.mem := rfl

@[simp] theorem State.setSa_pending (s : State) (a : Nat) (x : Sa) : (s.setSa a x).pending = s.pending := rfl
@[simp] theorem State.setSa_now (s : State) (a : Nat) (x : Sa) : (s.setSa a x).now = s.now := rfl
@[simp] theorem State.setSa_free (s : State) (a : Nat) (x : Sa) : (s.setSa a x).free = s.free := rfl
@[simp] theorem State.setSa_out (s : State) (a : Nat) (x : Sa) : (s.setSa a x).out = s.out := rfl
@[simp] theorem State.setSa_variant (s : State) (a : Nat) (x : Sa) : (s.setSa a x).variant = s.variant := rfl
@[simp] theorem State.setSa_stepping (s : State) (a : Nat) (x : Sa) : (s.setSa a x).stepping = s.stepping := rfl
@[simp] theorem State.setSa_board (s : State) (a : Nat) (x : Sa) : (s.setSa a x).board = s.board := rfl
@[simp] theorem State.setSa_boot (s : State) (a : Nat) (x : Sa) : (s.setSa a x).boot = s.boot := rfl
@[simp] theorem State.setSa_nv (s : State) (a : Nat) (x : Sa) : (s.setSa a x).nv = s.nv := rfl
@[simp] theorem State.setSa_ret (s : State) (a : Nat) (x : Sa) : (s.setSa a x).ret = s.ret := rfl
@[simp] theorem State.setSa_cfg (s : State) (a : Nat) (x : Sa) : (s.setSa a x).cfg = s.cfg := rfl
@[simp] theorem State.setSa_sl (s : State) (a : Nat) (x : Sa) : (s.setSa a x).sl = s.sl := rfl
@[simp] theorem State.setSa_et (s : State) (a : Nat) (x : Sa) : (s.setSa a x).et = s.et := rfl
@[simp] theorem State.setSa_cn (s : State) (a : Nat) (x : Sa) : (s.setSa a x).cn = s.cn := rfl
@[simp] theorem State.setSa_ps (s : State) (a : Nat) (x : Sa) : (s.setSa a x).ps = s.ps := rfl
@[simp] theorem State.setSa_cl (s : State) (a : Nat) (x : Sa) : (s.setSa a x).cl = s.cl := rfl
@[simp] theorem State.setSa_tb (s : State) (a : Nat) (x : Sa) : (s.setSa a x).tb = s.tb := rfl
@[simp] theorem State.setSa_sv (s : State) (a : Nat) (x : Sa) : (s.setSa a x).sv = s.sv := rfl
@[simp] theorem State.setSa_nvc (s : State) (a : Nat) (x : Sa) : (s.setSa a x).nvc = s.nvc := rfl
@[simp] theorem State.setSa_ra (s : State) (a : Nat) (x : Sa) : (s.setSa a x).ra = s.ra := rfl
@[simp] theorem State.setSa_clr (s : State) (a : Nat) (x : Sa) : (s.setSa a x).clr = s.clr := rfl
@[simp] theorem State.setSa_sec (s : State) (a : Nat) (x : Sa) : (s.setSa a x).sec = s.sec := rfl
@[simp] theorem State.setSa_hp (s : State) (a : Nat) (x : Sa) : (s.setSa a x).hp = s.hp := rfl
@[simp] theorem State.setSa_qp (s : State) (a : Nat) (x : Sa) : (s.setSa a x).qp = s.qp := rfl
@[simp] theorem State.setSa_ev (s : State) (a : Nat) (x : Sa) : (s.setSa a x).ev = s.ev := rfl
@[simp] theorem State.setSa_tm (s : State) (a : Nat) (x : Sa) : (s.setSa a x).tm = s.tm := rfl
@[simp] theorem State.setSa_hl (s : State) (a : Nat) (x : Sa) : (s.setSa a x).hl = s.hl := rfl
@[simp] theorem State.setSa_mem (s : State) (a : Nat) (x : Sa) : (s.setSa a x).mem = s.mem := rfl

@[simp] theorem State.setMbx_pending (s : State) (p : Nat) (m : Mbx) : (s.setMbx p m).pending = s.pending := rfl
@[simp] theorem State.setMbx_now (s : State) (p : Nat) (m : Mbx) : (s.setMbx p m).now = s.now := rfl
@[simp] theorem State.setMbx_free (s : State) (p : Nat) (m : Mbx) : (s.setMbx p m).free = s.free := rfl
@[simp] theorem State.setMbx_out (s : State) (p : Nat) (m : Mbx) : (s.setMbx p m).out = s.out := rfl
@[simp] theorem State.setMbx_variant (s : State) (p : Nat) (m : Mbx) : (s.setMbx p m).variant = s.variant := rfl
@[simp] theorem State.setMbx_stepping (s : State) (p : Nat) (m : Mbx) : (s.setMbx p m).stepping = s.stepping := rfl
@[simp] theorem State.setMbx_board (s : State) (p : Nat) (m : Mbx) : (s.setMbx p m).board = s.board := rfl
@[simp] theorem State.setMbx_boot (s : State) (p : Nat) (m : Mbx) : (s.setMbx p m).boot = s.boot := rfl
@[simp] theorem State.setMbx_nv (s : State) (p : Nat) (m : Mbx) : (s.setMbx p m).nv = s.nv := rfl
@[simp] theorem State.setMbx_ret (s : State) (p : Nat) (m : Mbx) : (s.setMbx p m).ret = s.ret := rfl
@[simp] theorem State.setMbx_cfg (s : State) (p : Nat) (m : Mbx) : (s.setMbx p m).cfg = s.cfg := rfl
@[simp] theorem State.setMbx_et (s : State) (p : Nat) (m : Mbx) : (s.setMbx p m).et = s.et := rfl
@[simp] theorem State.setMbx_cn (s : State) (p : Nat) (m : Mbx) : (s.setMbx p m).cn = s.cn := rfl
@[simp] theorem State.setMbx_ps (s : State) (p : Nat) (m : Mbx) : (s.setMbx p m).ps = s.ps := rfl
@[simp] theorem State.setMbx_cl (s : State) (p : Nat) (m : Mbx) : (s.setMbx p m).cl = s.cl := rfl
@[simp] theorem State.setMbx_tb (s : State) (p : Nat) (m : Mbx) : (s.setMbx p m).tb = s.tb := rfl
@[simp] theorem State.setMbx_sv (s : State) (p : Nat) (m : Mbx) : (s.setMbx p m).sv = s.sv := rfl
@[simp] theorem State.setMbx_nvc (s : State) (p : Nat) (m : Mbx) : (s.setMbx p m).nvc = s.nvc := rfl
@[simp] theorem State.setMbx_ra (s : State) (p : Nat) (m : Mbx) : (s.setMbx p m).ra = s.ra := rfl
@[simp] theorem State.setMbx_ci (s : State) (p : Nat) (m : Mbx) : (s.setMbx p m).ci = s.ci := rfl
@[simp] theorem State.setMbx_clr (s : State) (p : Nat) (m : Mbx) : (s.setMbx p m).clr = s.clr := rfl
@[simp] theorem State.setMbx_sec (s : State) (p : Nat) (m : Mbx) : (s.setMbx p m).sec = s.sec := rfl
@[simp] theorem State.setMbx_hp (s : State) (p : Nat) (m : Mbx) : (s.setMbx p m).hp = s.hp := rfl
@[simp] theorem State.setMbx_qp (s : State) (p : Nat) (m : Mbx) : (s.setMbx p m).qp = s.qp := rfl
@[simp] theorem State.setMbx_ev (s : State) (p : Nat) (m : Mbx) : (s.setMbx p m).ev = s.ev := rfl
@[simp] theorem State.setMbx_tm (s : State) (p : Nat) (m : Mbx) : (s.setMbx p m).tm = s.tm := rfl
@[simp] theorem State.setMbx_hl (s : State) (p : Nat) (m : Mbx) : (s.setMbx p m).hl = s.hl := rfl
@[simp] theorem State.setMbx_mem (s : State) (p : Nat) (m : Mbx) : (s.setMbx p m).mem = s.mem := rfl

@[simp] theorem State.setCounter_pending (s : State) (m : Nat) (c : CounterSt) : (s.setCounter m c).pending = s.pending :=
    rfl
@[simp] theorem State.setCounter_now (s : State) (m : Nat) (c : CounterSt) : (s.setCounter m c).now = s.now := rfl
@[simp] theorem State.setCounter_free (s : State) (m : Nat) (c : CounterSt) : (s.setCounter m c).free = s.free := rfl
@[simp] theorem State.setCounter_out (s : State) (m : Nat) (c : CounterSt) : (s.setCounter m c).out = s.out := rfl
@[simp] theorem State.setCounter_variant (s : State) (m : Nat) (c : CounterSt) : (s.setCounter m c).variant = s.variant :=
    rfl
@[simp] theorem State.setCounter_stepping (s : State) (m : Nat) (c : CounterSt) :
    (s.setCounter m c).stepping = s.stepping := rfl
@[simp] theorem State.setCounter_board (s : State) (m : Nat) (c : CounterSt) : (s.setCounter m c).board = s.board := rfl
@[simp] theorem State.setCounter_boot (s : State) (m : Nat) (c : CounterSt) : (s.setCounter m c).boot = s.boot := rfl
@[simp] theorem State.setCounter_nv (s : State) (m : Nat) (c : CounterSt) : (s.setCounter m c).nv = s.nv := rfl
@[simp] theorem State.setCounter_cfg (s : State) (m : Nat) (c : CounterSt) : (s.setCounter m c).cfg = s.cfg := rfl
@[simp] theorem State.setCounter_sl (s : State) (m : Nat) (c : CounterSt) : (s.setCounter m c).sl = s.sl := rfl
@[simp] theorem State.setCounter_et (s : State) (m : Nat) (c : CounterSt) : (s.setCounter m c).et = s.et := rfl
@[simp] theorem State.setCounter_cn (s : State) (m : Nat) (c : CounterSt) : (s.setCounter m c).cn = s.cn := rfl
@[simp] theorem State.setCounter_ps (s : State) (m : Nat) (c : CounterSt) : (s.setCounter m c).ps = s.ps := rfl
@[simp] theorem State.setCounter_cl (s : State) (m : Nat) (c : CounterSt) : (s.setCounter m c).cl = s.cl := rfl
@[simp] theorem State.setCounter_tb (s : State) (m : Nat) (c : CounterSt) : (s.setCounter m c).tb = s.tb := rfl
@[simp] theorem State.setCounter_sv (s : State) (m : Nat) (c : CounterSt) : (s.setCounter m c).sv = s.sv := rfl
@[simp] theorem State.setCounter_nvc (s : State) (m : Nat) (c : CounterSt) : (s.setCounter m c).nvc = s.nvc := rfl
@[simp] theorem State.setCounter_ra (s : State) (m : Nat) (c : CounterSt) : (s.setCounter m c).ra = s.ra := rfl
@[simp] theorem State.setCounter_ci (s : State) (m : Nat) (c : CounterSt) : (s.setCounter m c).ci = s.ci := rfl
@[simp] theorem State.setCounter_clr (s : State) (m : Nat) (c : CounterSt) : (s.setCounter m c).clr = s.clr := rfl
@[simp] theorem State.setCounter_sec (s : State) (m : Nat) (c : CounterSt) : (s.setCounter m c).sec = s.sec := rfl
@[simp] theorem State.setCounter_hp (s : State) (m : Nat) (c : CounterSt) : (s.setCounter m c).hp = s.hp := rfl
@[simp] theorem State.setCounter_qp (s : State) (m : Nat) (c : CounterSt) : (s.setCounter m c).qp = s.qp := rfl
@[simp] theorem State.setCounter_ev (s : State) (m : Nat) (c : CounterSt) : (s.setCounter m c).ev = s.ev := rfl
@[simp] theorem State.setCounter_tm (s : State) (m : Nat) (c : CounterSt) : (s.setCounter m c).tm = s.tm := rfl
@[simp] theorem State.setCounter_hl (s : State) (m : Nat) (c : CounterSt) : (s.setCounter m c).hl = s.hl := rfl
@[simp] theorem State.setCounter_mem (s : State) (m : Nat) (c : CounterSt) : (s.setCounter m c).mem = s.mem := rfl

@[simp] theorem State.setOp_pending (s : State) (o : LongOp) : (s.setOp o).pending = s.pending := rfl
@[simp] theorem State.setOp_now (s : State) (o : LongOp) : (s.setOp o).now = s.now := rfl
@[simp] theorem State.setOp_free (s : State) (o : LongOp) : (s.setOp o).free = s.free := rfl
@[simp] theorem State.setOp_out (s : State) (o : LongOp) : (s.setOp o).out = s.out := rfl
@[simp] theorem State.setOp_variant (s : State) (o : LongOp) : (s.setOp o).variant = s.variant := rfl
@[simp] theorem State.setOp_stepping (s : State) (o : LongOp) : (s.setOp o).stepping = s.stepping := rfl
@[simp] theorem State.setOp_board (s : State) (o : LongOp) : (s.setOp o).board = s.board := rfl
@[simp] theorem State.setOp_boot (s : State) (o : LongOp) : (s.setOp o).boot = s.boot := rfl
@[simp] theorem State.setOp_nv (s : State) (o : LongOp) : (s.setOp o).nv = s.nv := rfl
@[simp] theorem State.setOp_ret (s : State) (o : LongOp) : (s.setOp o).ret = s.ret := rfl
@[simp] theorem State.setOp_cfg (s : State) (o : LongOp) : (s.setOp o).cfg = s.cfg := rfl
@[simp] theorem State.setOp_et (s : State) (o : LongOp) : (s.setOp o).et = s.et := rfl
@[simp] theorem State.setOp_cn (s : State) (o : LongOp) : (s.setOp o).cn = s.cn := rfl
@[simp] theorem State.setOp_ps (s : State) (o : LongOp) : (s.setOp o).ps = s.ps := rfl
@[simp] theorem State.setOp_cl (s : State) (o : LongOp) : (s.setOp o).cl = s.cl := rfl
@[simp] theorem State.setOp_tb (s : State) (o : LongOp) : (s.setOp o).tb = s.tb := rfl
@[simp] theorem State.setOp_sv (s : State) (o : LongOp) : (s.setOp o).sv = s.sv := rfl
@[simp] theorem State.setOp_nvc (s : State) (o : LongOp) : (s.setOp o).nvc = s.nvc := rfl
@[simp] theorem State.setOp_ra (s : State) (o : LongOp) : (s.setOp o).ra = s.ra := rfl
@[simp] theorem State.setOp_ci (s : State) (o : LongOp) : (s.setOp o).ci = s.ci := rfl
@[simp] theorem State.setOp_clr (s : State) (o : LongOp) : (s.setOp o).clr = s.clr := rfl
@[simp] theorem State.setOp_sec (s : State) (o : LongOp) : (s.setOp o).sec = s.sec := rfl
@[simp] theorem State.setOp_hp (s : State) (o : LongOp) : (s.setOp o).hp = s.hp := rfl
@[simp] theorem State.setOp_qp (s : State) (o : LongOp) : (s.setOp o).qp = s.qp := rfl
@[simp] theorem State.setOp_ev (s : State) (o : LongOp) : (s.setOp o).ev = s.ev := rfl
@[simp] theorem State.setOp_tm (s : State) (o : LongOp) : (s.setOp o).tm = s.tm := rfl
@[simp] theorem State.setOp_hl (s : State) (o : LongOp) : (s.setOp o).hl = s.hl := rfl
@[simp] theorem State.setOp_mem (s : State) (o : LongOp) : (s.setOp o).mem = s.mem := rfl

@[simp] theorem State.setSvc_pending (s : State) (g : Nat) (x : SvcGrove) : (s.setSvc g x).pending = s.pending := rfl
@[simp] theorem State.setSvc_now (s : State) (g : Nat) (x : SvcGrove) : (s.setSvc g x).now = s.now := rfl
@[simp] theorem State.setSvc_free (s : State) (g : Nat) (x : SvcGrove) : (s.setSvc g x).free = s.free := rfl
@[simp] theorem State.setSvc_out (s : State) (g : Nat) (x : SvcGrove) : (s.setSvc g x).out = s.out := rfl
@[simp] theorem State.setSvc_variant (s : State) (g : Nat) (x : SvcGrove) : (s.setSvc g x).variant = s.variant := rfl
@[simp] theorem State.setSvc_stepping (s : State) (g : Nat) (x : SvcGrove) : (s.setSvc g x).stepping = s.stepping := rfl
@[simp] theorem State.setSvc_board (s : State) (g : Nat) (x : SvcGrove) : (s.setSvc g x).board = s.board := rfl
@[simp] theorem State.setSvc_boot (s : State) (g : Nat) (x : SvcGrove) : (s.setSvc g x).boot = s.boot := rfl
@[simp] theorem State.setSvc_nv (s : State) (g : Nat) (x : SvcGrove) : (s.setSvc g x).nv = s.nv := rfl
@[simp] theorem State.setSvc_ret (s : State) (g : Nat) (x : SvcGrove) : (s.setSvc g x).ret = s.ret := rfl
@[simp] theorem State.setSvc_cfg (s : State) (g : Nat) (x : SvcGrove) : (s.setSvc g x).cfg = s.cfg := rfl
@[simp] theorem State.setSvc_sl (s : State) (g : Nat) (x : SvcGrove) : (s.setSvc g x).sl = s.sl := rfl
@[simp] theorem State.setSvc_et (s : State) (g : Nat) (x : SvcGrove) : (s.setSvc g x).et = s.et := rfl
@[simp] theorem State.setSvc_cn (s : State) (g : Nat) (x : SvcGrove) : (s.setSvc g x).cn = s.cn := rfl
@[simp] theorem State.setSvc_ps (s : State) (g : Nat) (x : SvcGrove) : (s.setSvc g x).ps = s.ps := rfl
@[simp] theorem State.setSvc_cl (s : State) (g : Nat) (x : SvcGrove) : (s.setSvc g x).cl = s.cl := rfl
@[simp] theorem State.setSvc_tb (s : State) (g : Nat) (x : SvcGrove) : (s.setSvc g x).tb = s.tb := rfl
@[simp] theorem State.setSvc_nvc (s : State) (g : Nat) (x : SvcGrove) : (s.setSvc g x).nvc = s.nvc := rfl
@[simp] theorem State.setSvc_ra (s : State) (g : Nat) (x : SvcGrove) : (s.setSvc g x).ra = s.ra := rfl
@[simp] theorem State.setSvc_ci (s : State) (g : Nat) (x : SvcGrove) : (s.setSvc g x).ci = s.ci := rfl
@[simp] theorem State.setSvc_clr (s : State) (g : Nat) (x : SvcGrove) : (s.setSvc g x).clr = s.clr := rfl
@[simp] theorem State.setSvc_sec (s : State) (g : Nat) (x : SvcGrove) : (s.setSvc g x).sec = s.sec := rfl
@[simp] theorem State.setSvc_hp (s : State) (g : Nat) (x : SvcGrove) : (s.setSvc g x).hp = s.hp := rfl
@[simp] theorem State.setSvc_qp (s : State) (g : Nat) (x : SvcGrove) : (s.setSvc g x).qp = s.qp := rfl
@[simp] theorem State.setSvc_ev (s : State) (g : Nat) (x : SvcGrove) : (s.setSvc g x).ev = s.ev := rfl
@[simp] theorem State.setSvc_tm (s : State) (g : Nat) (x : SvcGrove) : (s.setSvc g x).tm = s.tm := rfl
@[simp] theorem State.setSvc_hl (s : State) (g : Nat) (x : SvcGrove) : (s.setSvc g x).hl = s.hl := rfl
@[simp] theorem State.setSvc_mem (s : State) (g : Nat) (x : SvcGrove) : (s.setSvc g x).mem = s.mem := rfl

@[simp] theorem State.svcCtr_pending (s : State) (g i n : Nat) : (s.svcCtr g i n).pending = s.pending := rfl
@[simp] theorem State.svcCtr_now (s : State) (g i n : Nat) : (s.svcCtr g i n).now = s.now := rfl
@[simp] theorem State.svcCtr_free (s : State) (g i n : Nat) : (s.svcCtr g i n).free = s.free := rfl
@[simp] theorem State.svcCtr_out (s : State) (g i n : Nat) : (s.svcCtr g i n).out = s.out := rfl
@[simp] theorem State.svcCtr_variant (s : State) (g i n : Nat) : (s.svcCtr g i n).variant = s.variant := rfl
@[simp] theorem State.svcCtr_stepping (s : State) (g i n : Nat) : (s.svcCtr g i n).stepping = s.stepping := rfl
@[simp] theorem State.svcCtr_board (s : State) (g i n : Nat) : (s.svcCtr g i n).board = s.board := rfl
@[simp] theorem State.svcCtr_boot (s : State) (g i n : Nat) : (s.svcCtr g i n).boot = s.boot := rfl
@[simp] theorem State.svcCtr_nv (s : State) (g i n : Nat) : (s.svcCtr g i n).nv = s.nv := rfl
@[simp] theorem State.svcCtr_ret (s : State) (g i n : Nat) : (s.svcCtr g i n).ret = s.ret := rfl
@[simp] theorem State.svcCtr_cfg (s : State) (g i n : Nat) : (s.svcCtr g i n).cfg = s.cfg := rfl
@[simp] theorem State.svcCtr_sl (s : State) (g i n : Nat) : (s.svcCtr g i n).sl = s.sl := rfl
@[simp] theorem State.svcCtr_et (s : State) (g i n : Nat) : (s.svcCtr g i n).et = s.et := rfl
@[simp] theorem State.svcCtr_cn (s : State) (g i n : Nat) : (s.svcCtr g i n).cn = s.cn := rfl
@[simp] theorem State.svcCtr_ps (s : State) (g i n : Nat) : (s.svcCtr g i n).ps = s.ps := rfl
@[simp] theorem State.svcCtr_cl (s : State) (g i n : Nat) : (s.svcCtr g i n).cl = s.cl := rfl
@[simp] theorem State.svcCtr_tb (s : State) (g i n : Nat) : (s.svcCtr g i n).tb = s.tb := rfl
@[simp] theorem State.svcCtr_nvc (s : State) (g i n : Nat) : (s.svcCtr g i n).nvc = s.nvc := rfl
@[simp] theorem State.svcCtr_ra (s : State) (g i n : Nat) : (s.svcCtr g i n).ra = s.ra := rfl
@[simp] theorem State.svcCtr_ci (s : State) (g i n : Nat) : (s.svcCtr g i n).ci = s.ci := rfl
@[simp] theorem State.svcCtr_clr (s : State) (g i n : Nat) : (s.svcCtr g i n).clr = s.clr := rfl
@[simp] theorem State.svcCtr_sec (s : State) (g i n : Nat) : (s.svcCtr g i n).sec = s.sec := rfl
@[simp] theorem State.svcCtr_hp (s : State) (g i n : Nat) : (s.svcCtr g i n).hp = s.hp := rfl
@[simp] theorem State.svcCtr_qp (s : State) (g i n : Nat) : (s.svcCtr g i n).qp = s.qp := rfl
@[simp] theorem State.svcCtr_ev (s : State) (g i n : Nat) : (s.svcCtr g i n).ev = s.ev := rfl
@[simp] theorem State.svcCtr_tm (s : State) (g i n : Nat) : (s.svcCtr g i n).tm = s.tm := rfl
@[simp] theorem State.svcCtr_hl (s : State) (g i n : Nat) : (s.svcCtr g i n).hl = s.hl := rfl
@[simp] theorem State.svcCtr_mem (s : State) (g i n : Nat) : (s.svcCtr g i n).mem = s.mem := rfl

@[simp] theorem State.setEq_pending (s : State) (e : Nat) (q : Eq) : (s.setEq e q).pending = s.pending := rfl
@[simp] theorem State.setEq_now (s : State) (e : Nat) (q : Eq) : (s.setEq e q).now = s.now := rfl
@[simp] theorem State.setEq_free (s : State) (e : Nat) (q : Eq) : (s.setEq e q).free = s.free := rfl
@[simp] theorem State.setEq_out (s : State) (e : Nat) (q : Eq) : (s.setEq e q).out = s.out := rfl
@[simp] theorem State.setEq_variant (s : State) (e : Nat) (q : Eq) : (s.setEq e q).variant = s.variant := rfl
@[simp] theorem State.setEq_stepping (s : State) (e : Nat) (q : Eq) : (s.setEq e q).stepping = s.stepping := rfl
@[simp] theorem State.setEq_board (s : State) (e : Nat) (q : Eq) : (s.setEq e q).board = s.board := rfl
@[simp] theorem State.setEq_boot (s : State) (e : Nat) (q : Eq) : (s.setEq e q).boot = s.boot := rfl
@[simp] theorem State.setEq_nv (s : State) (e : Nat) (q : Eq) : (s.setEq e q).nv = s.nv := rfl
@[simp] theorem State.setEq_ret (s : State) (e : Nat) (q : Eq) : (s.setEq e q).ret = s.ret := rfl
@[simp] theorem State.setEq_cfg (s : State) (e : Nat) (q : Eq) : (s.setEq e q).cfg = s.cfg := rfl
@[simp] theorem State.setEq_sl (s : State) (e : Nat) (q : Eq) : (s.setEq e q).sl = s.sl := rfl
@[simp] theorem State.setEq_et (s : State) (e : Nat) (q : Eq) : (s.setEq e q).et = s.et := rfl
@[simp] theorem State.setEq_cn (s : State) (e : Nat) (q : Eq) : (s.setEq e q).cn = s.cn := rfl
@[simp] theorem State.setEq_ps (s : State) (e : Nat) (q : Eq) : (s.setEq e q).ps = s.ps := rfl
@[simp] theorem State.setEq_cl (s : State) (e : Nat) (q : Eq) : (s.setEq e q).cl = s.cl := rfl
@[simp] theorem State.setEq_tb (s : State) (e : Nat) (q : Eq) : (s.setEq e q).tb = s.tb := rfl
@[simp] theorem State.setEq_sv (s : State) (e : Nat) (q : Eq) : (s.setEq e q).sv = s.sv := rfl
@[simp] theorem State.setEq_nvc (s : State) (e : Nat) (q : Eq) : (s.setEq e q).nvc = s.nvc := rfl
@[simp] theorem State.setEq_ra (s : State) (e : Nat) (q : Eq) : (s.setEq e q).ra = s.ra := rfl
@[simp] theorem State.setEq_ci (s : State) (e : Nat) (q : Eq) : (s.setEq e q).ci = s.ci := rfl
@[simp] theorem State.setEq_clr (s : State) (e : Nat) (q : Eq) : (s.setEq e q).clr = s.clr := rfl
@[simp] theorem State.setEq_sec (s : State) (e : Nat) (q : Eq) : (s.setEq e q).sec = s.sec := rfl
@[simp] theorem State.setEq_hp (s : State) (e : Nat) (q : Eq) : (s.setEq e q).hp = s.hp := rfl
@[simp] theorem State.setEq_qp (s : State) (e : Nat) (q : Eq) : (s.setEq e q).qp = s.qp := rfl
@[simp] theorem State.setEq_tm (s : State) (e : Nat) (q : Eq) : (s.setEq e q).tm = s.tm := rfl
@[simp] theorem State.setEq_hl (s : State) (e : Nat) (q : Eq) : (s.setEq e q).hl = s.hl := rfl
@[simp] theorem State.setEq_mem (s : State) (e : Nat) (q : Eq) : (s.setEq e q).mem = s.mem := rfl

@[simp] theorem State.eqCtr_pending (s : State) (e i n : Nat) : (s.eqCtr e i n).pending = s.pending := rfl
@[simp] theorem State.eqCtr_now (s : State) (e i n : Nat) : (s.eqCtr e i n).now = s.now := rfl
@[simp] theorem State.eqCtr_free (s : State) (e i n : Nat) : (s.eqCtr e i n).free = s.free := rfl
@[simp] theorem State.eqCtr_out (s : State) (e i n : Nat) : (s.eqCtr e i n).out = s.out := rfl
@[simp] theorem State.eqCtr_variant (s : State) (e i n : Nat) : (s.eqCtr e i n).variant = s.variant := rfl
@[simp] theorem State.eqCtr_stepping (s : State) (e i n : Nat) : (s.eqCtr e i n).stepping = s.stepping := rfl
@[simp] theorem State.eqCtr_board (s : State) (e i n : Nat) : (s.eqCtr e i n).board = s.board := rfl
@[simp] theorem State.eqCtr_boot (s : State) (e i n : Nat) : (s.eqCtr e i n).boot = s.boot := rfl
@[simp] theorem State.eqCtr_nv (s : State) (e i n : Nat) : (s.eqCtr e i n).nv = s.nv := rfl
@[simp] theorem State.eqCtr_ret (s : State) (e i n : Nat) : (s.eqCtr e i n).ret = s.ret := rfl
@[simp] theorem State.eqCtr_cfg (s : State) (e i n : Nat) : (s.eqCtr e i n).cfg = s.cfg := rfl
@[simp] theorem State.eqCtr_sl (s : State) (e i n : Nat) : (s.eqCtr e i n).sl = s.sl := rfl
@[simp] theorem State.eqCtr_et (s : State) (e i n : Nat) : (s.eqCtr e i n).et = s.et := rfl
@[simp] theorem State.eqCtr_cn (s : State) (e i n : Nat) : (s.eqCtr e i n).cn = s.cn := rfl
@[simp] theorem State.eqCtr_ps (s : State) (e i n : Nat) : (s.eqCtr e i n).ps = s.ps := rfl
@[simp] theorem State.eqCtr_cl (s : State) (e i n : Nat) : (s.eqCtr e i n).cl = s.cl := rfl
@[simp] theorem State.eqCtr_tb (s : State) (e i n : Nat) : (s.eqCtr e i n).tb = s.tb := rfl
@[simp] theorem State.eqCtr_sv (s : State) (e i n : Nat) : (s.eqCtr e i n).sv = s.sv := rfl
@[simp] theorem State.eqCtr_nvc (s : State) (e i n : Nat) : (s.eqCtr e i n).nvc = s.nvc := rfl
@[simp] theorem State.eqCtr_ra (s : State) (e i n : Nat) : (s.eqCtr e i n).ra = s.ra := rfl
@[simp] theorem State.eqCtr_ci (s : State) (e i n : Nat) : (s.eqCtr e i n).ci = s.ci := rfl
@[simp] theorem State.eqCtr_clr (s : State) (e i n : Nat) : (s.eqCtr e i n).clr = s.clr := rfl
@[simp] theorem State.eqCtr_sec (s : State) (e i n : Nat) : (s.eqCtr e i n).sec = s.sec := rfl
@[simp] theorem State.eqCtr_hp (s : State) (e i n : Nat) : (s.eqCtr e i n).hp = s.hp := rfl
@[simp] theorem State.eqCtr_qp (s : State) (e i n : Nat) : (s.eqCtr e i n).qp = s.qp := rfl
@[simp] theorem State.eqCtr_tm (s : State) (e i n : Nat) : (s.eqCtr e i n).tm = s.tm := rfl
@[simp] theorem State.eqCtr_hl (s : State) (e i n : Nat) : (s.eqCtr e i n).hl = s.hl := rfl
@[simp] theorem State.eqCtr_mem (s : State) (e i n : Nat) : (s.eqCtr e i n).mem = s.mem := rfl

@[simp] theorem State.setFrame_pending (s : State) (t : Nat) (f : FrameRec) : (s.setFrame t f).pending = s.pending := rfl
@[simp] theorem State.setFrame_now (s : State) (t : Nat) (f : FrameRec) : (s.setFrame t f).now = s.now := rfl
@[simp] theorem State.setFrame_free (s : State) (t : Nat) (f : FrameRec) : (s.setFrame t f).free = s.free := rfl
@[simp] theorem State.setFrame_out (s : State) (t : Nat) (f : FrameRec) : (s.setFrame t f).out = s.out := rfl
@[simp] theorem State.setFrame_variant (s : State) (t : Nat) (f : FrameRec) : (s.setFrame t f).variant = s.variant := rfl
@[simp] theorem State.setFrame_stepping (s : State) (t : Nat) (f : FrameRec) : (s.setFrame t f).stepping = s.stepping := rfl
@[simp] theorem State.setFrame_board (s : State) (t : Nat) (f : FrameRec) : (s.setFrame t f).board = s.board := rfl
@[simp] theorem State.setFrame_boot (s : State) (t : Nat) (f : FrameRec) : (s.setFrame t f).boot = s.boot := rfl
@[simp] theorem State.setFrame_nv (s : State) (t : Nat) (f : FrameRec) : (s.setFrame t f).nv = s.nv := rfl
@[simp] theorem State.setFrame_ret (s : State) (t : Nat) (f : FrameRec) : (s.setFrame t f).ret = s.ret := rfl
@[simp] theorem State.setFrame_cfg (s : State) (t : Nat) (f : FrameRec) : (s.setFrame t f).cfg = s.cfg := rfl
@[simp] theorem State.setFrame_sl (s : State) (t : Nat) (f : FrameRec) : (s.setFrame t f).sl = s.sl := rfl
@[simp] theorem State.setFrame_et (s : State) (t : Nat) (f : FrameRec) : (s.setFrame t f).et = s.et := rfl
@[simp] theorem State.setFrame_ps (s : State) (t : Nat) (f : FrameRec) : (s.setFrame t f).ps = s.ps := rfl
@[simp] theorem State.setFrame_cl (s : State) (t : Nat) (f : FrameRec) : (s.setFrame t f).cl = s.cl := rfl
@[simp] theorem State.setFrame_tb (s : State) (t : Nat) (f : FrameRec) : (s.setFrame t f).tb = s.tb := rfl
@[simp] theorem State.setFrame_sv (s : State) (t : Nat) (f : FrameRec) : (s.setFrame t f).sv = s.sv := rfl
@[simp] theorem State.setFrame_nvc (s : State) (t : Nat) (f : FrameRec) : (s.setFrame t f).nvc = s.nvc := rfl
@[simp] theorem State.setFrame_ra (s : State) (t : Nat) (f : FrameRec) : (s.setFrame t f).ra = s.ra := rfl
@[simp] theorem State.setFrame_ci (s : State) (t : Nat) (f : FrameRec) : (s.setFrame t f).ci = s.ci := rfl
@[simp] theorem State.setFrame_clr (s : State) (t : Nat) (f : FrameRec) : (s.setFrame t f).clr = s.clr := rfl
@[simp] theorem State.setFrame_sec (s : State) (t : Nat) (f : FrameRec) : (s.setFrame t f).sec = s.sec := rfl
@[simp] theorem State.setFrame_hp (s : State) (t : Nat) (f : FrameRec) : (s.setFrame t f).hp = s.hp := rfl
@[simp] theorem State.setFrame_qp (s : State) (t : Nat) (f : FrameRec) : (s.setFrame t f).qp = s.qp := rfl
@[simp] theorem State.setFrame_ev (s : State) (t : Nat) (f : FrameRec) : (s.setFrame t f).ev = s.ev := rfl
@[simp] theorem State.setFrame_tm (s : State) (t : Nat) (f : FrameRec) : (s.setFrame t f).tm = s.tm := rfl
@[simp] theorem State.setFrame_hl (s : State) (t : Nat) (f : FrameRec) : (s.setFrame t f).hl = s.hl := rfl
@[simp] theorem State.setFrame_mem (s : State) (t : Nat) (f : FrameRec) : (s.setFrame t f).mem = s.mem := rfl

@[simp] theorem State.setSlice_pending (s : State) (g : Nat) (x : Slice) : (s.setSlice g x).pending = s.pending := rfl
@[simp] theorem State.setSlice_now (s : State) (g : Nat) (x : Slice) : (s.setSlice g x).now = s.now := rfl
@[simp] theorem State.setSlice_free (s : State) (g : Nat) (x : Slice) : (s.setSlice g x).free = s.free := rfl
@[simp] theorem State.setSlice_out (s : State) (g : Nat) (x : Slice) : (s.setSlice g x).out = s.out := rfl
@[simp] theorem State.setSlice_variant (s : State) (g : Nat) (x : Slice) : (s.setSlice g x).variant = s.variant := rfl
@[simp] theorem State.setSlice_stepping (s : State) (g : Nat) (x : Slice) : (s.setSlice g x).stepping = s.stepping := rfl
@[simp] theorem State.setSlice_board (s : State) (g : Nat) (x : Slice) : (s.setSlice g x).board = s.board := rfl
@[simp] theorem State.setSlice_boot (s : State) (g : Nat) (x : Slice) : (s.setSlice g x).boot = s.boot := rfl
@[simp] theorem State.setSlice_nv (s : State) (g : Nat) (x : Slice) : (s.setSlice g x).nv = s.nv := rfl
@[simp] theorem State.setSlice_ret (s : State) (g : Nat) (x : Slice) : (s.setSlice g x).ret = s.ret := rfl
@[simp] theorem State.setSlice_cfg (s : State) (g : Nat) (x : Slice) : (s.setSlice g x).cfg = s.cfg := rfl
@[simp] theorem State.setSlice_sl (s : State) (g : Nat) (x : Slice) : (s.setSlice g x).sl = s.sl := rfl
@[simp] theorem State.setSlice_et (s : State) (g : Nat) (x : Slice) : (s.setSlice g x).et = s.et := rfl
@[simp] theorem State.setSlice_ps (s : State) (g : Nat) (x : Slice) : (s.setSlice g x).ps = s.ps := rfl
@[simp] theorem State.setSlice_cl (s : State) (g : Nat) (x : Slice) : (s.setSlice g x).cl = s.cl := rfl
@[simp] theorem State.setSlice_tb (s : State) (g : Nat) (x : Slice) : (s.setSlice g x).tb = s.tb := rfl
@[simp] theorem State.setSlice_sv (s : State) (g : Nat) (x : Slice) : (s.setSlice g x).sv = s.sv := rfl
@[simp] theorem State.setSlice_nvc (s : State) (g : Nat) (x : Slice) : (s.setSlice g x).nvc = s.nvc := rfl
@[simp] theorem State.setSlice_ra (s : State) (g : Nat) (x : Slice) : (s.setSlice g x).ra = s.ra := rfl
@[simp] theorem State.setSlice_ci (s : State) (g : Nat) (x : Slice) : (s.setSlice g x).ci = s.ci := rfl
@[simp] theorem State.setSlice_clr (s : State) (g : Nat) (x : Slice) : (s.setSlice g x).clr = s.clr := rfl
@[simp] theorem State.setSlice_sec (s : State) (g : Nat) (x : Slice) : (s.setSlice g x).sec = s.sec := rfl
@[simp] theorem State.setSlice_hp (s : State) (g : Nat) (x : Slice) : (s.setSlice g x).hp = s.hp := rfl
@[simp] theorem State.setSlice_qp (s : State) (g : Nat) (x : Slice) : (s.setSlice g x).qp = s.qp := rfl
@[simp] theorem State.setSlice_ev (s : State) (g : Nat) (x : Slice) : (s.setSlice g x).ev = s.ev := rfl
@[simp] theorem State.setSlice_tm (s : State) (g : Nat) (x : Slice) : (s.setSlice g x).tm = s.tm := rfl
@[simp] theorem State.setSlice_hl (s : State) (g : Nat) (x : Slice) : (s.setSlice g x).hl = s.hl := rfl
@[simp] theorem State.setSlice_mem (s : State) (g : Nat) (x : Slice) : (s.setSlice g x).mem = s.mem := rfl

@[simp] theorem State.sliceCtr_pending (s : State) (g i n : Nat) : (s.sliceCtr g i n).pending = s.pending := rfl
@[simp] theorem State.sliceCtr_now (s : State) (g i n : Nat) : (s.sliceCtr g i n).now = s.now := rfl
@[simp] theorem State.sliceCtr_free (s : State) (g i n : Nat) : (s.sliceCtr g i n).free = s.free := rfl
@[simp] theorem State.sliceCtr_out (s : State) (g i n : Nat) : (s.sliceCtr g i n).out = s.out := rfl
@[simp] theorem State.sliceCtr_variant (s : State) (g i n : Nat) : (s.sliceCtr g i n).variant = s.variant := rfl
@[simp] theorem State.sliceCtr_stepping (s : State) (g i n : Nat) : (s.sliceCtr g i n).stepping = s.stepping := rfl
@[simp] theorem State.sliceCtr_board (s : State) (g i n : Nat) : (s.sliceCtr g i n).board = s.board := rfl
@[simp] theorem State.sliceCtr_boot (s : State) (g i n : Nat) : (s.sliceCtr g i n).boot = s.boot := rfl
@[simp] theorem State.sliceCtr_nv (s : State) (g i n : Nat) : (s.sliceCtr g i n).nv = s.nv := rfl
@[simp] theorem State.sliceCtr_ret (s : State) (g i n : Nat) : (s.sliceCtr g i n).ret = s.ret := rfl
@[simp] theorem State.sliceCtr_cfg (s : State) (g i n : Nat) : (s.sliceCtr g i n).cfg = s.cfg := rfl
@[simp] theorem State.sliceCtr_sl (s : State) (g i n : Nat) : (s.sliceCtr g i n).sl = s.sl := rfl
@[simp] theorem State.sliceCtr_et (s : State) (g i n : Nat) : (s.sliceCtr g i n).et = s.et := rfl
@[simp] theorem State.sliceCtr_ps (s : State) (g i n : Nat) : (s.sliceCtr g i n).ps = s.ps := rfl
@[simp] theorem State.sliceCtr_cl (s : State) (g i n : Nat) : (s.sliceCtr g i n).cl = s.cl := rfl
@[simp] theorem State.sliceCtr_tb (s : State) (g i n : Nat) : (s.sliceCtr g i n).tb = s.tb := rfl
@[simp] theorem State.sliceCtr_sv (s : State) (g i n : Nat) : (s.sliceCtr g i n).sv = s.sv := rfl
@[simp] theorem State.sliceCtr_nvc (s : State) (g i n : Nat) : (s.sliceCtr g i n).nvc = s.nvc := rfl
@[simp] theorem State.sliceCtr_ra (s : State) (g i n : Nat) : (s.sliceCtr g i n).ra = s.ra := rfl
@[simp] theorem State.sliceCtr_ci (s : State) (g i n : Nat) : (s.sliceCtr g i n).ci = s.ci := rfl
@[simp] theorem State.sliceCtr_clr (s : State) (g i n : Nat) : (s.sliceCtr g i n).clr = s.clr := rfl
@[simp] theorem State.sliceCtr_sec (s : State) (g i n : Nat) : (s.sliceCtr g i n).sec = s.sec := rfl
@[simp] theorem State.sliceCtr_hp (s : State) (g i n : Nat) : (s.sliceCtr g i n).hp = s.hp := rfl
@[simp] theorem State.sliceCtr_qp (s : State) (g i n : Nat) : (s.sliceCtr g i n).qp = s.qp := rfl
@[simp] theorem State.sliceCtr_ev (s : State) (g i n : Nat) : (s.sliceCtr g i n).ev = s.ev := rfl
@[simp] theorem State.sliceCtr_tm (s : State) (g i n : Nat) : (s.sliceCtr g i n).tm = s.tm := rfl
@[simp] theorem State.sliceCtr_hl (s : State) (g i n : Nat) : (s.sliceCtr g i n).hl = s.hl := rfl
@[simp] theorem State.sliceCtr_mem (s : State) (g i n : Nat) : (s.sliceCtr g i n).mem = s.mem := rfl

@[simp] theorem State.canopyCtr_pending (s : State) (g i n : Nat) : (s.canopyCtr g i n).pending = s.pending := rfl
@[simp] theorem State.canopyCtr_now (s : State) (g i n : Nat) : (s.canopyCtr g i n).now = s.now := rfl
@[simp] theorem State.canopyCtr_free (s : State) (g i n : Nat) : (s.canopyCtr g i n).free = s.free := rfl
@[simp] theorem State.canopyCtr_out (s : State) (g i n : Nat) : (s.canopyCtr g i n).out = s.out := rfl
@[simp] theorem State.canopyCtr_variant (s : State) (g i n : Nat) : (s.canopyCtr g i n).variant = s.variant := rfl
@[simp] theorem State.canopyCtr_stepping (s : State) (g i n : Nat) : (s.canopyCtr g i n).stepping = s.stepping := rfl
@[simp] theorem State.canopyCtr_board (s : State) (g i n : Nat) : (s.canopyCtr g i n).board = s.board := rfl
@[simp] theorem State.canopyCtr_boot (s : State) (g i n : Nat) : (s.canopyCtr g i n).boot = s.boot := rfl
@[simp] theorem State.canopyCtr_nv (s : State) (g i n : Nat) : (s.canopyCtr g i n).nv = s.nv := rfl
@[simp] theorem State.canopyCtr_ret (s : State) (g i n : Nat) : (s.canopyCtr g i n).ret = s.ret := rfl
@[simp] theorem State.canopyCtr_cfg (s : State) (g i n : Nat) : (s.canopyCtr g i n).cfg = s.cfg := rfl
@[simp] theorem State.canopyCtr_sl (s : State) (g i n : Nat) : (s.canopyCtr g i n).sl = s.sl := rfl
@[simp] theorem State.canopyCtr_et (s : State) (g i n : Nat) : (s.canopyCtr g i n).et = s.et := rfl
@[simp] theorem State.canopyCtr_ps (s : State) (g i n : Nat) : (s.canopyCtr g i n).ps = s.ps := rfl
@[simp] theorem State.canopyCtr_cl (s : State) (g i n : Nat) : (s.canopyCtr g i n).cl = s.cl := rfl
@[simp] theorem State.canopyCtr_tb (s : State) (g i n : Nat) : (s.canopyCtr g i n).tb = s.tb := rfl
@[simp] theorem State.canopyCtr_sv (s : State) (g i n : Nat) : (s.canopyCtr g i n).sv = s.sv := rfl
@[simp] theorem State.canopyCtr_nvc (s : State) (g i n : Nat) : (s.canopyCtr g i n).nvc = s.nvc := rfl
@[simp] theorem State.canopyCtr_ra (s : State) (g i n : Nat) : (s.canopyCtr g i n).ra = s.ra := rfl
@[simp] theorem State.canopyCtr_ci (s : State) (g i n : Nat) : (s.canopyCtr g i n).ci = s.ci := rfl
@[simp] theorem State.canopyCtr_clr (s : State) (g i n : Nat) : (s.canopyCtr g i n).clr = s.clr := rfl
@[simp] theorem State.canopyCtr_sec (s : State) (g i n : Nat) : (s.canopyCtr g i n).sec = s.sec := rfl
@[simp] theorem State.canopyCtr_hp (s : State) (g i n : Nat) : (s.canopyCtr g i n).hp = s.hp := rfl
@[simp] theorem State.canopyCtr_qp (s : State) (g i n : Nat) : (s.canopyCtr g i n).qp = s.qp := rfl
@[simp] theorem State.canopyCtr_ev (s : State) (g i n : Nat) : (s.canopyCtr g i n).ev = s.ev := rfl
@[simp] theorem State.canopyCtr_tm (s : State) (g i n : Nat) : (s.canopyCtr g i n).tm = s.tm := rfl
@[simp] theorem State.canopyCtr_hl (s : State) (g i n : Nat) : (s.canopyCtr g i n).hl = s.hl := rfl
@[simp] theorem State.canopyCtr_mem (s : State) (g i n : Nat) : (s.canopyCtr g i n).mem = s.mem := rfl

@[simp] theorem State.setEth_pending (s : State) (n : Nat) (x : PortSt) : (s.setEth n x).pending = s.pending := rfl
@[simp] theorem State.setEth_now (s : State) (n : Nat) (x : PortSt) : (s.setEth n x).now = s.now := rfl
@[simp] theorem State.setEth_free (s : State) (n : Nat) (x : PortSt) : (s.setEth n x).free = s.free := rfl
@[simp] theorem State.setEth_out (s : State) (n : Nat) (x : PortSt) : (s.setEth n x).out = s.out := rfl
@[simp] theorem State.setEth_variant (s : State) (n : Nat) (x : PortSt) : (s.setEth n x).variant = s.variant := rfl
@[simp] theorem State.setEth_stepping (s : State) (n : Nat) (x : PortSt) : (s.setEth n x).stepping = s.stepping := rfl
@[simp] theorem State.setEth_board (s : State) (n : Nat) (x : PortSt) : (s.setEth n x).board = s.board := rfl
@[simp] theorem State.setEth_boot (s : State) (n : Nat) (x : PortSt) : (s.setEth n x).boot = s.boot := rfl
@[simp] theorem State.setEth_nv (s : State) (n : Nat) (x : PortSt) : (s.setEth n x).nv = s.nv := rfl
@[simp] theorem State.setEth_ret (s : State) (n : Nat) (x : PortSt) : (s.setEth n x).ret = s.ret := rfl
@[simp] theorem State.setEth_cfg (s : State) (n : Nat) (x : PortSt) : (s.setEth n x).cfg = s.cfg := rfl
@[simp] theorem State.setEth_sl (s : State) (n : Nat) (x : PortSt) : (s.setEth n x).sl = s.sl := rfl
@[simp] theorem State.setEth_cn (s : State) (n : Nat) (x : PortSt) : (s.setEth n x).cn = s.cn := rfl
@[simp] theorem State.setEth_ps (s : State) (n : Nat) (x : PortSt) : (s.setEth n x).ps = s.ps := rfl
@[simp] theorem State.setEth_cl (s : State) (n : Nat) (x : PortSt) : (s.setEth n x).cl = s.cl := rfl
@[simp] theorem State.setEth_tb (s : State) (n : Nat) (x : PortSt) : (s.setEth n x).tb = s.tb := rfl
@[simp] theorem State.setEth_sv (s : State) (n : Nat) (x : PortSt) : (s.setEth n x).sv = s.sv := rfl
@[simp] theorem State.setEth_nvc (s : State) (n : Nat) (x : PortSt) : (s.setEth n x).nvc = s.nvc := rfl
@[simp] theorem State.setEth_ra (s : State) (n : Nat) (x : PortSt) : (s.setEth n x).ra = s.ra := rfl
@[simp] theorem State.setEth_ci (s : State) (n : Nat) (x : PortSt) : (s.setEth n x).ci = s.ci := rfl
@[simp] theorem State.setEth_clr (s : State) (n : Nat) (x : PortSt) : (s.setEth n x).clr = s.clr := rfl
@[simp] theorem State.setEth_sec (s : State) (n : Nat) (x : PortSt) : (s.setEth n x).sec = s.sec := rfl
@[simp] theorem State.setEth_hp (s : State) (n : Nat) (x : PortSt) : (s.setEth n x).hp = s.hp := rfl
@[simp] theorem State.setEth_qp (s : State) (n : Nat) (x : PortSt) : (s.setEth n x).qp = s.qp := rfl
@[simp] theorem State.setEth_ev (s : State) (n : Nat) (x : PortSt) : (s.setEth n x).ev = s.ev := rfl
@[simp] theorem State.setEth_tm (s : State) (n : Nat) (x : PortSt) : (s.setEth n x).tm = s.tm := rfl
@[simp] theorem State.setEth_hl (s : State) (n : Nat) (x : PortSt) : (s.setEth n x).hl = s.hl := rfl
@[simp] theorem State.setEth_mem (s : State) (n : Nat) (x : PortSt) : (s.setEth n x).mem = s.mem := rfl

@[simp] theorem State.ethCtr_pending (s : State) (n i k : Nat) : (s.ethCtr n i k).pending = s.pending := rfl
@[simp] theorem State.ethCtr_now (s : State) (n i k : Nat) : (s.ethCtr n i k).now = s.now := rfl
@[simp] theorem State.ethCtr_free (s : State) (n i k : Nat) : (s.ethCtr n i k).free = s.free := rfl
@[simp] theorem State.ethCtr_out (s : State) (n i k : Nat) : (s.ethCtr n i k).out = s.out := rfl
@[simp] theorem State.ethCtr_variant (s : State) (n i k : Nat) : (s.ethCtr n i k).variant = s.variant := rfl
@[simp] theorem State.ethCtr_stepping (s : State) (n i k : Nat) : (s.ethCtr n i k).stepping = s.stepping := rfl
@[simp] theorem State.ethCtr_board (s : State) (n i k : Nat) : (s.ethCtr n i k).board = s.board := rfl
@[simp] theorem State.ethCtr_boot (s : State) (n i k : Nat) : (s.ethCtr n i k).boot = s.boot := rfl
@[simp] theorem State.ethCtr_nv (s : State) (n i k : Nat) : (s.ethCtr n i k).nv = s.nv := rfl
@[simp] theorem State.ethCtr_ret (s : State) (n i k : Nat) : (s.ethCtr n i k).ret = s.ret := rfl
@[simp] theorem State.ethCtr_cfg (s : State) (n i k : Nat) : (s.ethCtr n i k).cfg = s.cfg := rfl
@[simp] theorem State.ethCtr_sl (s : State) (n i k : Nat) : (s.ethCtr n i k).sl = s.sl := rfl
@[simp] theorem State.ethCtr_cn (s : State) (n i k : Nat) : (s.ethCtr n i k).cn = s.cn := rfl
@[simp] theorem State.ethCtr_ps (s : State) (n i k : Nat) : (s.ethCtr n i k).ps = s.ps := rfl
@[simp] theorem State.ethCtr_cl (s : State) (n i k : Nat) : (s.ethCtr n i k).cl = s.cl := rfl
@[simp] theorem State.ethCtr_tb (s : State) (n i k : Nat) : (s.ethCtr n i k).tb = s.tb := rfl
@[simp] theorem State.ethCtr_sv (s : State) (n i k : Nat) : (s.ethCtr n i k).sv = s.sv := rfl
@[simp] theorem State.ethCtr_nvc (s : State) (n i k : Nat) : (s.ethCtr n i k).nvc = s.nvc := rfl
@[simp] theorem State.ethCtr_ra (s : State) (n i k : Nat) : (s.ethCtr n i k).ra = s.ra := rfl
@[simp] theorem State.ethCtr_ci (s : State) (n i k : Nat) : (s.ethCtr n i k).ci = s.ci := rfl
@[simp] theorem State.ethCtr_clr (s : State) (n i k : Nat) : (s.ethCtr n i k).clr = s.clr := rfl
@[simp] theorem State.ethCtr_sec (s : State) (n i k : Nat) : (s.ethCtr n i k).sec = s.sec := rfl
@[simp] theorem State.ethCtr_hp (s : State) (n i k : Nat) : (s.ethCtr n i k).hp = s.hp := rfl
@[simp] theorem State.ethCtr_qp (s : State) (n i k : Nat) : (s.ethCtr n i k).qp = s.qp := rfl
@[simp] theorem State.ethCtr_ev (s : State) (n i k : Nat) : (s.ethCtr n i k).ev = s.ev := rfl
@[simp] theorem State.ethCtr_tm (s : State) (n i k : Nat) : (s.ethCtr n i k).tm = s.tm := rfl
@[simp] theorem State.ethCtr_hl (s : State) (n i k : Nat) : (s.ethCtr n i k).hl = s.hl := rfl
@[simp] theorem State.ethCtr_mem (s : State) (n i k : Nat) : (s.ethCtr n i k).mem = s.mem := rfl

@[simp] theorem State.setParser_pending (s : State) (g : Nat) (x : Parser) : (s.setParser g x).pending = s.pending := rfl
@[simp] theorem State.setParser_now (s : State) (g : Nat) (x : Parser) : (s.setParser g x).now = s.now := rfl
@[simp] theorem State.setParser_free (s : State) (g : Nat) (x : Parser) : (s.setParser g x).free = s.free := rfl
@[simp] theorem State.setParser_out (s : State) (g : Nat) (x : Parser) : (s.setParser g x).out = s.out := rfl
@[simp] theorem State.setParser_variant (s : State) (g : Nat) (x : Parser) : (s.setParser g x).variant = s.variant := rfl
@[simp] theorem State.setParser_stepping (s : State) (g : Nat) (x : Parser) : (s.setParser g x).stepping = s.stepping := rfl
@[simp] theorem State.setParser_board (s : State) (g : Nat) (x : Parser) : (s.setParser g x).board = s.board := rfl
@[simp] theorem State.setParser_boot (s : State) (g : Nat) (x : Parser) : (s.setParser g x).boot = s.boot := rfl
@[simp] theorem State.setParser_nv (s : State) (g : Nat) (x : Parser) : (s.setParser g x).nv = s.nv := rfl
@[simp] theorem State.setParser_ret (s : State) (g : Nat) (x : Parser) : (s.setParser g x).ret = s.ret := rfl
@[simp] theorem State.setParser_cfg (s : State) (g : Nat) (x : Parser) : (s.setParser g x).cfg = s.cfg := rfl
@[simp] theorem State.setParser_sl (s : State) (g : Nat) (x : Parser) : (s.setParser g x).sl = s.sl := rfl
@[simp] theorem State.setParser_et (s : State) (g : Nat) (x : Parser) : (s.setParser g x).et = s.et := rfl
@[simp] theorem State.setParser_cn (s : State) (g : Nat) (x : Parser) : (s.setParser g x).cn = s.cn := rfl
@[simp] theorem State.setParser_cl (s : State) (g : Nat) (x : Parser) : (s.setParser g x).cl = s.cl := rfl
@[simp] theorem State.setParser_tb (s : State) (g : Nat) (x : Parser) : (s.setParser g x).tb = s.tb := rfl
@[simp] theorem State.setParser_sv (s : State) (g : Nat) (x : Parser) : (s.setParser g x).sv = s.sv := rfl
@[simp] theorem State.setParser_nvc (s : State) (g : Nat) (x : Parser) : (s.setParser g x).nvc = s.nvc := rfl
@[simp] theorem State.setParser_ra (s : State) (g : Nat) (x : Parser) : (s.setParser g x).ra = s.ra := rfl
@[simp] theorem State.setParser_ci (s : State) (g : Nat) (x : Parser) : (s.setParser g x).ci = s.ci := rfl
@[simp] theorem State.setParser_clr (s : State) (g : Nat) (x : Parser) : (s.setParser g x).clr = s.clr := rfl
@[simp] theorem State.setParser_sec (s : State) (g : Nat) (x : Parser) : (s.setParser g x).sec = s.sec := rfl
@[simp] theorem State.setParser_hp (s : State) (g : Nat) (x : Parser) : (s.setParser g x).hp = s.hp := rfl
@[simp] theorem State.setParser_qp (s : State) (g : Nat) (x : Parser) : (s.setParser g x).qp = s.qp := rfl
@[simp] theorem State.setParser_ev (s : State) (g : Nat) (x : Parser) : (s.setParser g x).ev = s.ev := rfl
@[simp] theorem State.setParser_tm (s : State) (g : Nat) (x : Parser) : (s.setParser g x).tm = s.tm := rfl
@[simp] theorem State.setParser_hl (s : State) (g : Nat) (x : Parser) : (s.setParser g x).hl = s.hl := rfl
@[simp] theorem State.setParser_mem (s : State) (g : Nat) (x : Parser) : (s.setParser g x).mem = s.mem := rfl

@[simp] theorem State.parseCtr_pending (s : State) (g i n : Nat) : (s.parseCtr g i n).pending = s.pending := rfl
@[simp] theorem State.parseCtr_now (s : State) (g i n : Nat) : (s.parseCtr g i n).now = s.now := rfl
@[simp] theorem State.parseCtr_free (s : State) (g i n : Nat) : (s.parseCtr g i n).free = s.free := rfl
@[simp] theorem State.parseCtr_out (s : State) (g i n : Nat) : (s.parseCtr g i n).out = s.out := rfl
@[simp] theorem State.parseCtr_variant (s : State) (g i n : Nat) : (s.parseCtr g i n).variant = s.variant := rfl
@[simp] theorem State.parseCtr_stepping (s : State) (g i n : Nat) : (s.parseCtr g i n).stepping = s.stepping := rfl
@[simp] theorem State.parseCtr_board (s : State) (g i n : Nat) : (s.parseCtr g i n).board = s.board := rfl
@[simp] theorem State.parseCtr_boot (s : State) (g i n : Nat) : (s.parseCtr g i n).boot = s.boot := rfl
@[simp] theorem State.parseCtr_nv (s : State) (g i n : Nat) : (s.parseCtr g i n).nv = s.nv := rfl
@[simp] theorem State.parseCtr_ret (s : State) (g i n : Nat) : (s.parseCtr g i n).ret = s.ret := rfl
@[simp] theorem State.parseCtr_cfg (s : State) (g i n : Nat) : (s.parseCtr g i n).cfg = s.cfg := rfl
@[simp] theorem State.parseCtr_sl (s : State) (g i n : Nat) : (s.parseCtr g i n).sl = s.sl := rfl
@[simp] theorem State.parseCtr_et (s : State) (g i n : Nat) : (s.parseCtr g i n).et = s.et := rfl
@[simp] theorem State.parseCtr_cn (s : State) (g i n : Nat) : (s.parseCtr g i n).cn = s.cn := rfl
@[simp] theorem State.parseCtr_cl (s : State) (g i n : Nat) : (s.parseCtr g i n).cl = s.cl := rfl
@[simp] theorem State.parseCtr_tb (s : State) (g i n : Nat) : (s.parseCtr g i n).tb = s.tb := rfl
@[simp] theorem State.parseCtr_sv (s : State) (g i n : Nat) : (s.parseCtr g i n).sv = s.sv := rfl
@[simp] theorem State.parseCtr_nvc (s : State) (g i n : Nat) : (s.parseCtr g i n).nvc = s.nvc := rfl
@[simp] theorem State.parseCtr_ra (s : State) (g i n : Nat) : (s.parseCtr g i n).ra = s.ra := rfl
@[simp] theorem State.parseCtr_ci (s : State) (g i n : Nat) : (s.parseCtr g i n).ci = s.ci := rfl
@[simp] theorem State.parseCtr_clr (s : State) (g i n : Nat) : (s.parseCtr g i n).clr = s.clr := rfl
@[simp] theorem State.parseCtr_sec (s : State) (g i n : Nat) : (s.parseCtr g i n).sec = s.sec := rfl
@[simp] theorem State.parseCtr_hp (s : State) (g i n : Nat) : (s.parseCtr g i n).hp = s.hp := rfl
@[simp] theorem State.parseCtr_qp (s : State) (g i n : Nat) : (s.parseCtr g i n).qp = s.qp := rfl
@[simp] theorem State.parseCtr_ev (s : State) (g i n : Nat) : (s.parseCtr g i n).ev = s.ev := rfl
@[simp] theorem State.parseCtr_tm (s : State) (g i n : Nat) : (s.parseCtr g i n).tm = s.tm := rfl
@[simp] theorem State.parseCtr_hl (s : State) (g i n : Nat) : (s.parseCtr g i n).hl = s.hl := rfl
@[simp] theorem State.parseCtr_mem (s : State) (g i n : Nat) : (s.parseCtr g i n).mem = s.mem := rfl

@[simp] theorem State.setClassifier_pending (s : State) (g : Nat) (x : Classifier) :
    (s.setClassifier g x).pending = s.pending := rfl
@[simp] theorem State.setClassifier_now (s : State) (g : Nat) (x : Classifier) : (s.setClassifier g x).now = s.now := rfl
@[simp] theorem State.setClassifier_free (s : State) (g : Nat) (x : Classifier) : (s.setClassifier g x).free = s.free := rfl
@[simp] theorem State.setClassifier_out (s : State) (g : Nat) (x : Classifier) : (s.setClassifier g x).out = s.out := rfl
@[simp] theorem State.setClassifier_variant (s : State) (g : Nat) (x : Classifier) :
    (s.setClassifier g x).variant = s.variant := rfl
@[simp] theorem State.setClassifier_stepping (s : State) (g : Nat) (x : Classifier) :
    (s.setClassifier g x).stepping = s.stepping := rfl
@[simp] theorem State.setClassifier_board (s : State) (g : Nat) (x : Classifier) : (s.setClassifier g x).board = s.board :=
    rfl
@[simp] theorem State.setClassifier_boot (s : State) (g : Nat) (x : Classifier) : (s.setClassifier g x).boot = s.boot := rfl
@[simp] theorem State.setClassifier_nv (s : State) (g : Nat) (x : Classifier) : (s.setClassifier g x).nv = s.nv := rfl
@[simp] theorem State.setClassifier_ret (s : State) (g : Nat) (x : Classifier) : (s.setClassifier g x).ret = s.ret := rfl
@[simp] theorem State.setClassifier_cfg (s : State) (g : Nat) (x : Classifier) : (s.setClassifier g x).cfg = s.cfg := rfl
@[simp] theorem State.setClassifier_sl (s : State) (g : Nat) (x : Classifier) : (s.setClassifier g x).sl = s.sl := rfl
@[simp] theorem State.setClassifier_et (s : State) (g : Nat) (x : Classifier) : (s.setClassifier g x).et = s.et := rfl
@[simp] theorem State.setClassifier_cn (s : State) (g : Nat) (x : Classifier) : (s.setClassifier g x).cn = s.cn := rfl
@[simp] theorem State.setClassifier_ps (s : State) (g : Nat) (x : Classifier) : (s.setClassifier g x).ps = s.ps := rfl
@[simp] theorem State.setClassifier_tb (s : State) (g : Nat) (x : Classifier) : (s.setClassifier g x).tb = s.tb := rfl
@[simp] theorem State.setClassifier_sv (s : State) (g : Nat) (x : Classifier) : (s.setClassifier g x).sv = s.sv := rfl
@[simp] theorem State.setClassifier_nvc (s : State) (g : Nat) (x : Classifier) : (s.setClassifier g x).nvc = s.nvc := rfl
@[simp] theorem State.setClassifier_ra (s : State) (g : Nat) (x : Classifier) : (s.setClassifier g x).ra = s.ra := rfl
@[simp] theorem State.setClassifier_ci (s : State) (g : Nat) (x : Classifier) : (s.setClassifier g x).ci = s.ci := rfl
@[simp] theorem State.setClassifier_clr (s : State) (g : Nat) (x : Classifier) : (s.setClassifier g x).clr = s.clr := rfl
@[simp] theorem State.setClassifier_sec (s : State) (g : Nat) (x : Classifier) : (s.setClassifier g x).sec = s.sec := rfl
@[simp] theorem State.setClassifier_hp (s : State) (g : Nat) (x : Classifier) : (s.setClassifier g x).hp = s.hp := rfl
@[simp] theorem State.setClassifier_qp (s : State) (g : Nat) (x : Classifier) : (s.setClassifier g x).qp = s.qp := rfl
@[simp] theorem State.setClassifier_ev (s : State) (g : Nat) (x : Classifier) : (s.setClassifier g x).ev = s.ev := rfl
@[simp] theorem State.setClassifier_tm (s : State) (g : Nat) (x : Classifier) : (s.setClassifier g x).tm = s.tm := rfl
@[simp] theorem State.setClassifier_hl (s : State) (g : Nat) (x : Classifier) : (s.setClassifier g x).hl = s.hl := rfl
@[simp] theorem State.setClassifier_mem (s : State) (g : Nat) (x : Classifier) : (s.setClassifier g x).mem = s.mem := rfl

@[simp] theorem State.classCtr_pending (s : State) (g i n : Nat) : (s.classCtr g i n).pending = s.pending := rfl
@[simp] theorem State.classCtr_now (s : State) (g i n : Nat) : (s.classCtr g i n).now = s.now := rfl
@[simp] theorem State.classCtr_free (s : State) (g i n : Nat) : (s.classCtr g i n).free = s.free := rfl
@[simp] theorem State.classCtr_out (s : State) (g i n : Nat) : (s.classCtr g i n).out = s.out := rfl
@[simp] theorem State.classCtr_variant (s : State) (g i n : Nat) : (s.classCtr g i n).variant = s.variant := rfl
@[simp] theorem State.classCtr_stepping (s : State) (g i n : Nat) : (s.classCtr g i n).stepping = s.stepping := rfl
@[simp] theorem State.classCtr_board (s : State) (g i n : Nat) : (s.classCtr g i n).board = s.board := rfl
@[simp] theorem State.classCtr_boot (s : State) (g i n : Nat) : (s.classCtr g i n).boot = s.boot := rfl
@[simp] theorem State.classCtr_nv (s : State) (g i n : Nat) : (s.classCtr g i n).nv = s.nv := rfl
@[simp] theorem State.classCtr_ret (s : State) (g i n : Nat) : (s.classCtr g i n).ret = s.ret := rfl
@[simp] theorem State.classCtr_cfg (s : State) (g i n : Nat) : (s.classCtr g i n).cfg = s.cfg := rfl
@[simp] theorem State.classCtr_sl (s : State) (g i n : Nat) : (s.classCtr g i n).sl = s.sl := rfl
@[simp] theorem State.classCtr_et (s : State) (g i n : Nat) : (s.classCtr g i n).et = s.et := rfl
@[simp] theorem State.classCtr_cn (s : State) (g i n : Nat) : (s.classCtr g i n).cn = s.cn := rfl
@[simp] theorem State.classCtr_ps (s : State) (g i n : Nat) : (s.classCtr g i n).ps = s.ps := rfl
@[simp] theorem State.classCtr_tb (s : State) (g i n : Nat) : (s.classCtr g i n).tb = s.tb := rfl
@[simp] theorem State.classCtr_sv (s : State) (g i n : Nat) : (s.classCtr g i n).sv = s.sv := rfl
@[simp] theorem State.classCtr_nvc (s : State) (g i n : Nat) : (s.classCtr g i n).nvc = s.nvc := rfl
@[simp] theorem State.classCtr_ra (s : State) (g i n : Nat) : (s.classCtr g i n).ra = s.ra := rfl
@[simp] theorem State.classCtr_ci (s : State) (g i n : Nat) : (s.classCtr g i n).ci = s.ci := rfl
@[simp] theorem State.classCtr_clr (s : State) (g i n : Nat) : (s.classCtr g i n).clr = s.clr := rfl
@[simp] theorem State.classCtr_sec (s : State) (g i n : Nat) : (s.classCtr g i n).sec = s.sec := rfl
@[simp] theorem State.classCtr_hp (s : State) (g i n : Nat) : (s.classCtr g i n).hp = s.hp := rfl
@[simp] theorem State.classCtr_qp (s : State) (g i n : Nat) : (s.classCtr g i n).qp = s.qp := rfl
@[simp] theorem State.classCtr_ev (s : State) (g i n : Nat) : (s.classCtr g i n).ev = s.ev := rfl
@[simp] theorem State.classCtr_tm (s : State) (g i n : Nat) : (s.classCtr g i n).tm = s.tm := rfl
@[simp] theorem State.classCtr_hl (s : State) (g i n : Nat) : (s.classCtr g i n).hl = s.hl := rfl
@[simp] theorem State.classCtr_mem (s : State) (g i n : Nat) : (s.classCtr g i n).mem = s.mem := rfl

@[simp] theorem State.healthCtr_pending (s : State) (g i n : Nat) : (s.healthCtr g i n).pending = s.pending := rfl
@[simp] theorem State.healthCtr_now (s : State) (g i n : Nat) : (s.healthCtr g i n).now = s.now := rfl
@[simp] theorem State.healthCtr_free (s : State) (g i n : Nat) : (s.healthCtr g i n).free = s.free := rfl
@[simp] theorem State.healthCtr_out (s : State) (g i n : Nat) : (s.healthCtr g i n).out = s.out := rfl
@[simp] theorem State.healthCtr_variant (s : State) (g i n : Nat) : (s.healthCtr g i n).variant = s.variant := rfl
@[simp] theorem State.healthCtr_stepping (s : State) (g i n : Nat) : (s.healthCtr g i n).stepping = s.stepping := rfl
@[simp] theorem State.healthCtr_board (s : State) (g i n : Nat) : (s.healthCtr g i n).board = s.board := rfl
@[simp] theorem State.healthCtr_boot (s : State) (g i n : Nat) : (s.healthCtr g i n).boot = s.boot := rfl
@[simp] theorem State.healthCtr_nv (s : State) (g i n : Nat) : (s.healthCtr g i n).nv = s.nv := rfl
@[simp] theorem State.healthCtr_ret (s : State) (g i n : Nat) : (s.healthCtr g i n).ret = s.ret := rfl
@[simp] theorem State.healthCtr_cfg (s : State) (g i n : Nat) : (s.healthCtr g i n).cfg = s.cfg := rfl
@[simp] theorem State.healthCtr_sl (s : State) (g i n : Nat) : (s.healthCtr g i n).sl = s.sl := rfl
@[simp] theorem State.healthCtr_et (s : State) (g i n : Nat) : (s.healthCtr g i n).et = s.et := rfl
@[simp] theorem State.healthCtr_cn (s : State) (g i n : Nat) : (s.healthCtr g i n).cn = s.cn := rfl
@[simp] theorem State.healthCtr_ps (s : State) (g i n : Nat) : (s.healthCtr g i n).ps = s.ps := rfl
@[simp] theorem State.healthCtr_cl (s : State) (g i n : Nat) : (s.healthCtr g i n).cl = s.cl := rfl
@[simp] theorem State.healthCtr_tb (s : State) (g i n : Nat) : (s.healthCtr g i n).tb = s.tb := rfl
@[simp] theorem State.healthCtr_sv (s : State) (g i n : Nat) : (s.healthCtr g i n).sv = s.sv := rfl
@[simp] theorem State.healthCtr_nvc (s : State) (g i n : Nat) : (s.healthCtr g i n).nvc = s.nvc := rfl
@[simp] theorem State.healthCtr_ra (s : State) (g i n : Nat) : (s.healthCtr g i n).ra = s.ra := rfl
@[simp] theorem State.healthCtr_ci (s : State) (g i n : Nat) : (s.healthCtr g i n).ci = s.ci := rfl
@[simp] theorem State.healthCtr_clr (s : State) (g i n : Nat) : (s.healthCtr g i n).clr = s.clr := rfl
@[simp] theorem State.healthCtr_sec (s : State) (g i n : Nat) : (s.healthCtr g i n).sec = s.sec := rfl
@[simp] theorem State.healthCtr_hp (s : State) (g i n : Nat) : (s.healthCtr g i n).hp = s.hp := rfl
@[simp] theorem State.healthCtr_qp (s : State) (g i n : Nat) : (s.healthCtr g i n).qp = s.qp := rfl
@[simp] theorem State.healthCtr_ev (s : State) (g i n : Nat) : (s.healthCtr g i n).ev = s.ev := rfl
@[simp] theorem State.healthCtr_tm (s : State) (g i n : Nat) : (s.healthCtr g i n).tm = s.tm := rfl
@[simp] theorem State.healthCtr_mem (s : State) (g i n : Nat) : (s.healthCtr g i n).mem = s.mem := rfl

@[simp] theorem State.setTransit_pending (s : State) (g : Nat) (l : List TUnit) : (s.setTransit g l).pending = s.pending :=
    rfl
@[simp] theorem State.setTransit_now (s : State) (g : Nat) (l : List TUnit) : (s.setTransit g l).now = s.now := rfl
@[simp] theorem State.setTransit_free (s : State) (g : Nat) (l : List TUnit) : (s.setTransit g l).free = s.free := rfl
@[simp] theorem State.setTransit_out (s : State) (g : Nat) (l : List TUnit) : (s.setTransit g l).out = s.out := rfl
@[simp] theorem State.setTransit_variant (s : State) (g : Nat) (l : List TUnit) : (s.setTransit g l).variant = s.variant :=
    rfl
@[simp] theorem State.setTransit_stepping (s : State) (g : Nat) (l : List TUnit) :
    (s.setTransit g l).stepping = s.stepping := rfl
@[simp] theorem State.setTransit_board (s : State) (g : Nat) (l : List TUnit) : (s.setTransit g l).board = s.board := rfl
@[simp] theorem State.setTransit_boot (s : State) (g : Nat) (l : List TUnit) : (s.setTransit g l).boot = s.boot := rfl
@[simp] theorem State.setTransit_nv (s : State) (g : Nat) (l : List TUnit) : (s.setTransit g l).nv = s.nv := rfl
@[simp] theorem State.setTransit_ret (s : State) (g : Nat) (l : List TUnit) : (s.setTransit g l).ret = s.ret := rfl
@[simp] theorem State.setTransit_cfg (s : State) (g : Nat) (l : List TUnit) : (s.setTransit g l).cfg = s.cfg := rfl
@[simp] theorem State.setTransit_sl (s : State) (g : Nat) (l : List TUnit) : (s.setTransit g l).sl = s.sl := rfl
@[simp] theorem State.setTransit_et (s : State) (g : Nat) (l : List TUnit) : (s.setTransit g l).et = s.et := rfl
@[simp] theorem State.setTransit_ps (s : State) (g : Nat) (l : List TUnit) : (s.setTransit g l).ps = s.ps := rfl
@[simp] theorem State.setTransit_cl (s : State) (g : Nat) (l : List TUnit) : (s.setTransit g l).cl = s.cl := rfl
@[simp] theorem State.setTransit_tb (s : State) (g : Nat) (l : List TUnit) : (s.setTransit g l).tb = s.tb := rfl
@[simp] theorem State.setTransit_sv (s : State) (g : Nat) (l : List TUnit) : (s.setTransit g l).sv = s.sv := rfl
@[simp] theorem State.setTransit_nvc (s : State) (g : Nat) (l : List TUnit) : (s.setTransit g l).nvc = s.nvc := rfl
@[simp] theorem State.setTransit_ra (s : State) (g : Nat) (l : List TUnit) : (s.setTransit g l).ra = s.ra := rfl
@[simp] theorem State.setTransit_ci (s : State) (g : Nat) (l : List TUnit) : (s.setTransit g l).ci = s.ci := rfl
@[simp] theorem State.setTransit_clr (s : State) (g : Nat) (l : List TUnit) : (s.setTransit g l).clr = s.clr := rfl
@[simp] theorem State.setTransit_sec (s : State) (g : Nat) (l : List TUnit) : (s.setTransit g l).sec = s.sec := rfl
@[simp] theorem State.setTransit_hp (s : State) (g : Nat) (l : List TUnit) : (s.setTransit g l).hp = s.hp := rfl
@[simp] theorem State.setTransit_qp (s : State) (g : Nat) (l : List TUnit) : (s.setTransit g l).qp = s.qp := rfl
@[simp] theorem State.setTransit_ev (s : State) (g : Nat) (l : List TUnit) : (s.setTransit g l).ev = s.ev := rfl
@[simp] theorem State.setTransit_tm (s : State) (g : Nat) (l : List TUnit) : (s.setTransit g l).tm = s.tm := rfl
@[simp] theorem State.setTransit_hl (s : State) (g : Nat) (l : List TUnit) : (s.setTransit g l).hl = s.hl := rfl
@[simp] theorem State.setTransit_mem (s : State) (g : Nat) (l : List TUnit) : (s.setTransit g l).mem = s.mem := rfl

@[simp] theorem State.setArrivals_pending (s : State) (g : Nat) (l : List TUnit) :
    (s.setArrivals g l).pending = s.pending := rfl
@[simp] theorem State.setArrivals_now (s : State) (g : Nat) (l : List TUnit) : (s.setArrivals g l).now = s.now := rfl
@[simp] theorem State.setArrivals_free (s : State) (g : Nat) (l : List TUnit) : (s.setArrivals g l).free = s.free := rfl
@[simp] theorem State.setArrivals_out (s : State) (g : Nat) (l : List TUnit) : (s.setArrivals g l).out = s.out := rfl
@[simp] theorem State.setArrivals_variant (s : State) (g : Nat) (l : List TUnit) :
    (s.setArrivals g l).variant = s.variant := rfl
@[simp] theorem State.setArrivals_stepping (s : State) (g : Nat) (l : List TUnit) :
    (s.setArrivals g l).stepping = s.stepping := rfl
@[simp] theorem State.setArrivals_board (s : State) (g : Nat) (l : List TUnit) : (s.setArrivals g l).board = s.board := rfl
@[simp] theorem State.setArrivals_boot (s : State) (g : Nat) (l : List TUnit) : (s.setArrivals g l).boot = s.boot := rfl
@[simp] theorem State.setArrivals_nv (s : State) (g : Nat) (l : List TUnit) : (s.setArrivals g l).nv = s.nv := rfl
@[simp] theorem State.setArrivals_ret (s : State) (g : Nat) (l : List TUnit) : (s.setArrivals g l).ret = s.ret := rfl
@[simp] theorem State.setArrivals_cfg (s : State) (g : Nat) (l : List TUnit) : (s.setArrivals g l).cfg = s.cfg := rfl
@[simp] theorem State.setArrivals_sl (s : State) (g : Nat) (l : List TUnit) : (s.setArrivals g l).sl = s.sl := rfl
@[simp] theorem State.setArrivals_et (s : State) (g : Nat) (l : List TUnit) : (s.setArrivals g l).et = s.et := rfl
@[simp] theorem State.setArrivals_ps (s : State) (g : Nat) (l : List TUnit) : (s.setArrivals g l).ps = s.ps := rfl
@[simp] theorem State.setArrivals_cl (s : State) (g : Nat) (l : List TUnit) : (s.setArrivals g l).cl = s.cl := rfl
@[simp] theorem State.setArrivals_tb (s : State) (g : Nat) (l : List TUnit) : (s.setArrivals g l).tb = s.tb := rfl
@[simp] theorem State.setArrivals_sv (s : State) (g : Nat) (l : List TUnit) : (s.setArrivals g l).sv = s.sv := rfl
@[simp] theorem State.setArrivals_nvc (s : State) (g : Nat) (l : List TUnit) : (s.setArrivals g l).nvc = s.nvc := rfl
@[simp] theorem State.setArrivals_ra (s : State) (g : Nat) (l : List TUnit) : (s.setArrivals g l).ra = s.ra := rfl
@[simp] theorem State.setArrivals_ci (s : State) (g : Nat) (l : List TUnit) : (s.setArrivals g l).ci = s.ci := rfl
@[simp] theorem State.setArrivals_clr (s : State) (g : Nat) (l : List TUnit) : (s.setArrivals g l).clr = s.clr := rfl
@[simp] theorem State.setArrivals_sec (s : State) (g : Nat) (l : List TUnit) : (s.setArrivals g l).sec = s.sec := rfl
@[simp] theorem State.setArrivals_hp (s : State) (g : Nat) (l : List TUnit) : (s.setArrivals g l).hp = s.hp := rfl
@[simp] theorem State.setArrivals_qp (s : State) (g : Nat) (l : List TUnit) : (s.setArrivals g l).qp = s.qp := rfl
@[simp] theorem State.setArrivals_ev (s : State) (g : Nat) (l : List TUnit) : (s.setArrivals g l).ev = s.ev := rfl
@[simp] theorem State.setArrivals_tm (s : State) (g : Nat) (l : List TUnit) : (s.setArrivals g l).tm = s.tm := rfl
@[simp] theorem State.setArrivals_hl (s : State) (g : Nat) (l : List TUnit) : (s.setArrivals g l).hl = s.hl := rfl
@[simp] theorem State.setArrivals_mem (s : State) (g : Nat) (l : List TUnit) : (s.setArrivals g l).mem = s.mem := rfl

@[simp] theorem State.setSliceTag_pending (s : State) (g t : Nat) (x : SliceTag) :
    (s.setSliceTag g t x).pending = s.pending := rfl
@[simp] theorem State.setSliceTag_now (s : State) (g t : Nat) (x : SliceTag) : (s.setSliceTag g t x).now = s.now := rfl
@[simp] theorem State.setSliceTag_free (s : State) (g t : Nat) (x : SliceTag) : (s.setSliceTag g t x).free = s.free := rfl
@[simp] theorem State.setSliceTag_out (s : State) (g t : Nat) (x : SliceTag) : (s.setSliceTag g t x).out = s.out := rfl
@[simp] theorem State.setSliceTag_variant (s : State) (g t : Nat) (x : SliceTag) :
    (s.setSliceTag g t x).variant = s.variant := rfl
@[simp] theorem State.setSliceTag_stepping (s : State) (g t : Nat) (x : SliceTag) :
    (s.setSliceTag g t x).stepping = s.stepping := rfl
@[simp] theorem State.setSliceTag_board (s : State) (g t : Nat) (x : SliceTag) : (s.setSliceTag g t x).board = s.board :=
    rfl
@[simp] theorem State.setSliceTag_boot (s : State) (g t : Nat) (x : SliceTag) : (s.setSliceTag g t x).boot = s.boot := rfl
@[simp] theorem State.setSliceTag_nv (s : State) (g t : Nat) (x : SliceTag) : (s.setSliceTag g t x).nv = s.nv := rfl
@[simp] theorem State.setSliceTag_ret (s : State) (g t : Nat) (x : SliceTag) : (s.setSliceTag g t x).ret = s.ret := rfl
@[simp] theorem State.setSliceTag_cfg (s : State) (g t : Nat) (x : SliceTag) : (s.setSliceTag g t x).cfg = s.cfg := rfl
@[simp] theorem State.setSliceTag_sl (s : State) (g t : Nat) (x : SliceTag) : (s.setSliceTag g t x).sl = s.sl := rfl
@[simp] theorem State.setSliceTag_et (s : State) (g t : Nat) (x : SliceTag) : (s.setSliceTag g t x).et = s.et := rfl
@[simp] theorem State.setSliceTag_ps (s : State) (g t : Nat) (x : SliceTag) : (s.setSliceTag g t x).ps = s.ps := rfl
@[simp] theorem State.setSliceTag_cl (s : State) (g t : Nat) (x : SliceTag) : (s.setSliceTag g t x).cl = s.cl := rfl
@[simp] theorem State.setSliceTag_tb (s : State) (g t : Nat) (x : SliceTag) : (s.setSliceTag g t x).tb = s.tb := rfl
@[simp] theorem State.setSliceTag_sv (s : State) (g t : Nat) (x : SliceTag) : (s.setSliceTag g t x).sv = s.sv := rfl
@[simp] theorem State.setSliceTag_nvc (s : State) (g t : Nat) (x : SliceTag) : (s.setSliceTag g t x).nvc = s.nvc := rfl
@[simp] theorem State.setSliceTag_ra (s : State) (g t : Nat) (x : SliceTag) : (s.setSliceTag g t x).ra = s.ra := rfl
@[simp] theorem State.setSliceTag_ci (s : State) (g t : Nat) (x : SliceTag) : (s.setSliceTag g t x).ci = s.ci := rfl
@[simp] theorem State.setSliceTag_clr (s : State) (g t : Nat) (x : SliceTag) : (s.setSliceTag g t x).clr = s.clr := rfl
@[simp] theorem State.setSliceTag_sec (s : State) (g t : Nat) (x : SliceTag) : (s.setSliceTag g t x).sec = s.sec := rfl
@[simp] theorem State.setSliceTag_hp (s : State) (g t : Nat) (x : SliceTag) : (s.setSliceTag g t x).hp = s.hp := rfl
@[simp] theorem State.setSliceTag_qp (s : State) (g t : Nat) (x : SliceTag) : (s.setSliceTag g t x).qp = s.qp := rfl
@[simp] theorem State.setSliceTag_ev (s : State) (g t : Nat) (x : SliceTag) : (s.setSliceTag g t x).ev = s.ev := rfl
@[simp] theorem State.setSliceTag_tm (s : State) (g t : Nat) (x : SliceTag) : (s.setSliceTag g t x).tm = s.tm := rfl
@[simp] theorem State.setSliceTag_hl (s : State) (g t : Nat) (x : SliceTag) : (s.setSliceTag g t x).hl = s.hl := rfl
@[simp] theorem State.setSliceTag_mem (s : State) (g t : Nat) (x : SliceTag) : (s.setSliceTag g t x).mem = s.mem := rfl

@[simp] theorem State.setThread_pending (s : State) (t : Thr) (v : SvcThread) : (s.setThread t v).pending = s.pending := rfl
@[simp] theorem State.setThread_now (s : State) (t : Thr) (v : SvcThread) : (s.setThread t v).now = s.now := rfl
@[simp] theorem State.setThread_free (s : State) (t : Thr) (v : SvcThread) : (s.setThread t v).free = s.free := rfl
@[simp] theorem State.setThread_out (s : State) (t : Thr) (v : SvcThread) : (s.setThread t v).out = s.out := rfl
@[simp] theorem State.setThread_variant (s : State) (t : Thr) (v : SvcThread) : (s.setThread t v).variant = s.variant := rfl
@[simp] theorem State.setThread_stepping (s : State) (t : Thr) (v : SvcThread) : (s.setThread t v).stepping = s.stepping :=
    rfl
@[simp] theorem State.setThread_board (s : State) (t : Thr) (v : SvcThread) : (s.setThread t v).board = s.board := rfl
@[simp] theorem State.setThread_boot (s : State) (t : Thr) (v : SvcThread) : (s.setThread t v).boot = s.boot := rfl
@[simp] theorem State.setThread_nv (s : State) (t : Thr) (v : SvcThread) : (s.setThread t v).nv = s.nv := rfl
@[simp] theorem State.setThread_ret (s : State) (t : Thr) (v : SvcThread) : (s.setThread t v).ret = s.ret := rfl
@[simp] theorem State.setThread_cfg (s : State) (t : Thr) (v : SvcThread) : (s.setThread t v).cfg = s.cfg := rfl
@[simp] theorem State.setThread_sl (s : State) (t : Thr) (v : SvcThread) : (s.setThread t v).sl = s.sl := rfl
@[simp] theorem State.setThread_et (s : State) (t : Thr) (v : SvcThread) : (s.setThread t v).et = s.et := rfl
@[simp] theorem State.setThread_cn (s : State) (t : Thr) (v : SvcThread) : (s.setThread t v).cn = s.cn := rfl
@[simp] theorem State.setThread_ps (s : State) (t : Thr) (v : SvcThread) : (s.setThread t v).ps = s.ps := rfl
@[simp] theorem State.setThread_cl (s : State) (t : Thr) (v : SvcThread) : (s.setThread t v).cl = s.cl := rfl
@[simp] theorem State.setThread_tb (s : State) (t : Thr) (v : SvcThread) : (s.setThread t v).tb = s.tb := rfl
@[simp] theorem State.setThread_nvc (s : State) (t : Thr) (v : SvcThread) : (s.setThread t v).nvc = s.nvc := rfl
@[simp] theorem State.setThread_ra (s : State) (t : Thr) (v : SvcThread) : (s.setThread t v).ra = s.ra := rfl
@[simp] theorem State.setThread_ci (s : State) (t : Thr) (v : SvcThread) : (s.setThread t v).ci = s.ci := rfl
@[simp] theorem State.setThread_clr (s : State) (t : Thr) (v : SvcThread) : (s.setThread t v).clr = s.clr := rfl
@[simp] theorem State.setThread_sec (s : State) (t : Thr) (v : SvcThread) : (s.setThread t v).sec = s.sec := rfl
@[simp] theorem State.setThread_hp (s : State) (t : Thr) (v : SvcThread) : (s.setThread t v).hp = s.hp := rfl
@[simp] theorem State.setThread_qp (s : State) (t : Thr) (v : SvcThread) : (s.setThread t v).qp = s.qp := rfl
@[simp] theorem State.setThread_ev (s : State) (t : Thr) (v : SvcThread) : (s.setThread t v).ev = s.ev := rfl
@[simp] theorem State.setThread_tm (s : State) (t : Thr) (v : SvcThread) : (s.setThread t v).tm = s.tm := rfl
@[simp] theorem State.setThread_hl (s : State) (t : Thr) (v : SvcThread) : (s.setThread t v).hl = s.hl := rfl
@[simp] theorem State.setThread_mem (s : State) (t : Thr) (v : SvcThread) : (s.setThread t v).mem = s.mem := rfl

@[simp] theorem State.setSink_pending (s : State) (g : Nat) (k : Sink) (q : List Nat) :
    (s.setSink g k q).pending = s.pending := rfl
@[simp] theorem State.setSink_now (s : State) (g : Nat) (k : Sink) (q : List Nat) : (s.setSink g k q).now = s.now := rfl
@[simp] theorem State.setSink_free (s : State) (g : Nat) (k : Sink) (q : List Nat) : (s.setSink g k q).free = s.free := rfl
@[simp] theorem State.setSink_out (s : State) (g : Nat) (k : Sink) (q : List Nat) : (s.setSink g k q).out = s.out := rfl
@[simp] theorem State.setSink_variant (s : State) (g : Nat) (k : Sink) (q : List Nat) :
    (s.setSink g k q).variant = s.variant := rfl
@[simp] theorem State.setSink_stepping (s : State) (g : Nat) (k : Sink) (q : List Nat) :
    (s.setSink g k q).stepping = s.stepping := rfl
@[simp] theorem State.setSink_board (s : State) (g : Nat) (k : Sink) (q : List Nat) : (s.setSink g k q).board = s.board :=
    rfl
@[simp] theorem State.setSink_boot (s : State) (g : Nat) (k : Sink) (q : List Nat) : (s.setSink g k q).boot = s.boot := rfl
@[simp] theorem State.setSink_nv (s : State) (g : Nat) (k : Sink) (q : List Nat) : (s.setSink g k q).nv = s.nv := rfl
@[simp] theorem State.setSink_ret (s : State) (g : Nat) (k : Sink) (q : List Nat) : (s.setSink g k q).ret = s.ret := rfl
@[simp] theorem State.setSink_cfg (s : State) (g : Nat) (k : Sink) (q : List Nat) : (s.setSink g k q).cfg = s.cfg := rfl
@[simp] theorem State.setSink_sl (s : State) (g : Nat) (k : Sink) (q : List Nat) : (s.setSink g k q).sl = s.sl := rfl
@[simp] theorem State.setSink_et (s : State) (g : Nat) (k : Sink) (q : List Nat) : (s.setSink g k q).et = s.et := rfl
@[simp] theorem State.setSink_ps (s : State) (g : Nat) (k : Sink) (q : List Nat) : (s.setSink g k q).ps = s.ps := rfl
@[simp] theorem State.setSink_cl (s : State) (g : Nat) (k : Sink) (q : List Nat) : (s.setSink g k q).cl = s.cl := rfl
@[simp] theorem State.setSink_tb (s : State) (g : Nat) (k : Sink) (q : List Nat) : (s.setSink g k q).tb = s.tb := rfl
@[simp] theorem State.setSink_sv (s : State) (g : Nat) (k : Sink) (q : List Nat) : (s.setSink g k q).sv = s.sv := rfl
@[simp] theorem State.setSink_nvc (s : State) (g : Nat) (k : Sink) (q : List Nat) : (s.setSink g k q).nvc = s.nvc := rfl
@[simp] theorem State.setSink_ra (s : State) (g : Nat) (k : Sink) (q : List Nat) : (s.setSink g k q).ra = s.ra := rfl
@[simp] theorem State.setSink_ci (s : State) (g : Nat) (k : Sink) (q : List Nat) : (s.setSink g k q).ci = s.ci := rfl
@[simp] theorem State.setSink_clr (s : State) (g : Nat) (k : Sink) (q : List Nat) : (s.setSink g k q).clr = s.clr := rfl
@[simp] theorem State.setSink_sec (s : State) (g : Nat) (k : Sink) (q : List Nat) : (s.setSink g k q).sec = s.sec := rfl
@[simp] theorem State.setSink_hp (s : State) (g : Nat) (k : Sink) (q : List Nat) : (s.setSink g k q).hp = s.hp := rfl
@[simp] theorem State.setSink_qp (s : State) (g : Nat) (k : Sink) (q : List Nat) : (s.setSink g k q).qp = s.qp := rfl
@[simp] theorem State.setSink_ev (s : State) (g : Nat) (k : Sink) (q : List Nat) : (s.setSink g k q).ev = s.ev := rfl
@[simp] theorem State.setSink_tm (s : State) (g : Nat) (k : Sink) (q : List Nat) : (s.setSink g k q).tm = s.tm := rfl
@[simp] theorem State.setSink_hl (s : State) (g : Nat) (k : Sink) (q : List Nat) : (s.setSink g k q).hl = s.hl := rfl
@[simp] theorem State.setSink_mem (s : State) (g : Nat) (k : Sink) (q : List Nat) : (s.setSink g k q).mem = s.mem := rfl

@[simp] theorem State.setNv_pending (s : State) (f : Nat) (c : NvCtl) : (s.setNv f c).pending = s.pending := rfl
@[simp] theorem State.setNv_now (s : State) (f : Nat) (c : NvCtl) : (s.setNv f c).now = s.now := rfl
@[simp] theorem State.setNv_free (s : State) (f : Nat) (c : NvCtl) : (s.setNv f c).free = s.free := rfl
@[simp] theorem State.setNv_out (s : State) (f : Nat) (c : NvCtl) : (s.setNv f c).out = s.out := rfl
@[simp] theorem State.setNv_variant (s : State) (f : Nat) (c : NvCtl) : (s.setNv f c).variant = s.variant := rfl
@[simp] theorem State.setNv_stepping (s : State) (f : Nat) (c : NvCtl) : (s.setNv f c).stepping = s.stepping := rfl
@[simp] theorem State.setNv_board (s : State) (f : Nat) (c : NvCtl) : (s.setNv f c).board = s.board := rfl
@[simp] theorem State.setNv_boot (s : State) (f : Nat) (c : NvCtl) : (s.setNv f c).boot = s.boot := rfl
@[simp] theorem State.setNv_nv (s : State) (f : Nat) (c : NvCtl) : (s.setNv f c).nv = s.nv := rfl
@[simp] theorem State.setNv_ret (s : State) (f : Nat) (c : NvCtl) : (s.setNv f c).ret = s.ret := rfl
@[simp] theorem State.setNv_cfg (s : State) (f : Nat) (c : NvCtl) : (s.setNv f c).cfg = s.cfg := rfl
@[simp] theorem State.setNv_sl (s : State) (f : Nat) (c : NvCtl) : (s.setNv f c).sl = s.sl := rfl
@[simp] theorem State.setNv_et (s : State) (f : Nat) (c : NvCtl) : (s.setNv f c).et = s.et := rfl
@[simp] theorem State.setNv_cn (s : State) (f : Nat) (c : NvCtl) : (s.setNv f c).cn = s.cn := rfl
@[simp] theorem State.setNv_ps (s : State) (f : Nat) (c : NvCtl) : (s.setNv f c).ps = s.ps := rfl
@[simp] theorem State.setNv_cl (s : State) (f : Nat) (c : NvCtl) : (s.setNv f c).cl = s.cl := rfl
@[simp] theorem State.setNv_tb (s : State) (f : Nat) (c : NvCtl) : (s.setNv f c).tb = s.tb := rfl
@[simp] theorem State.setNv_sv (s : State) (f : Nat) (c : NvCtl) : (s.setNv f c).sv = s.sv := rfl
@[simp] theorem State.setNv_ra (s : State) (f : Nat) (c : NvCtl) : (s.setNv f c).ra = s.ra := rfl
@[simp] theorem State.setNv_ci (s : State) (f : Nat) (c : NvCtl) : (s.setNv f c).ci = s.ci := rfl
@[simp] theorem State.setNv_clr (s : State) (f : Nat) (c : NvCtl) : (s.setNv f c).clr = s.clr := rfl
@[simp] theorem State.setNv_sec (s : State) (f : Nat) (c : NvCtl) : (s.setNv f c).sec = s.sec := rfl
@[simp] theorem State.setNv_hp (s : State) (f : Nat) (c : NvCtl) : (s.setNv f c).hp = s.hp := rfl
@[simp] theorem State.setNv_qp (s : State) (f : Nat) (c : NvCtl) : (s.setNv f c).qp = s.qp := rfl
@[simp] theorem State.setNv_ev (s : State) (f : Nat) (c : NvCtl) : (s.setNv f c).ev = s.ev := rfl
@[simp] theorem State.setNv_tm (s : State) (f : Nat) (c : NvCtl) : (s.setNv f c).tm = s.tm := rfl
@[simp] theorem State.setNv_hl (s : State) (f : Nat) (c : NvCtl) : (s.setNv f c).hl = s.hl := rfl
@[simp] theorem State.setNv_mem (s : State) (f : Nat) (c : NvCtl) : (s.setNv f c).mem = s.mem := rfl

@[simp] theorem State.setFn_pending (s : State) (f : Nat) (v : FnSt) : (s.setFn f v).pending = s.pending := rfl
@[simp] theorem State.setFn_now (s : State) (f : Nat) (v : FnSt) : (s.setFn f v).now = s.now := rfl
@[simp] theorem State.setFn_free (s : State) (f : Nat) (v : FnSt) : (s.setFn f v).free = s.free := rfl
@[simp] theorem State.setFn_out (s : State) (f : Nat) (v : FnSt) : (s.setFn f v).out = s.out := rfl
@[simp] theorem State.setFn_variant (s : State) (f : Nat) (v : FnSt) : (s.setFn f v).variant = s.variant := rfl
@[simp] theorem State.setFn_stepping (s : State) (f : Nat) (v : FnSt) : (s.setFn f v).stepping = s.stepping := rfl
@[simp] theorem State.setFn_board (s : State) (f : Nat) (v : FnSt) : (s.setFn f v).board = s.board := rfl
@[simp] theorem State.setFn_boot (s : State) (f : Nat) (v : FnSt) : (s.setFn f v).boot = s.boot := rfl
@[simp] theorem State.setFn_nv (s : State) (f : Nat) (v : FnSt) : (s.setFn f v).nv = s.nv := rfl
@[simp] theorem State.setFn_ret (s : State) (f : Nat) (v : FnSt) : (s.setFn f v).ret = s.ret := rfl
@[simp] theorem State.setFn_cfg (s : State) (f : Nat) (v : FnSt) : (s.setFn f v).cfg = s.cfg := rfl
@[simp] theorem State.setFn_sl (s : State) (f : Nat) (v : FnSt) : (s.setFn f v).sl = s.sl := rfl
@[simp] theorem State.setFn_et (s : State) (f : Nat) (v : FnSt) : (s.setFn f v).et = s.et := rfl
@[simp] theorem State.setFn_cn (s : State) (f : Nat) (v : FnSt) : (s.setFn f v).cn = s.cn := rfl
@[simp] theorem State.setFn_ps (s : State) (f : Nat) (v : FnSt) : (s.setFn f v).ps = s.ps := rfl
@[simp] theorem State.setFn_cl (s : State) (f : Nat) (v : FnSt) : (s.setFn f v).cl = s.cl := rfl
@[simp] theorem State.setFn_tb (s : State) (f : Nat) (v : FnSt) : (s.setFn f v).tb = s.tb := rfl
@[simp] theorem State.setFn_sv (s : State) (f : Nat) (v : FnSt) : (s.setFn f v).sv = s.sv := rfl
@[simp] theorem State.setFn_nvc (s : State) (f : Nat) (v : FnSt) : (s.setFn f v).nvc = s.nvc := rfl
@[simp] theorem State.setFn_ra (s : State) (f : Nat) (v : FnSt) : (s.setFn f v).ra = s.ra := rfl
@[simp] theorem State.setFn_ci (s : State) (f : Nat) (v : FnSt) : (s.setFn f v).ci = s.ci := rfl
@[simp] theorem State.setFn_clr (s : State) (f : Nat) (v : FnSt) : (s.setFn f v).clr = s.clr := rfl
@[simp] theorem State.setFn_sec (s : State) (f : Nat) (v : FnSt) : (s.setFn f v).sec = s.sec := rfl
@[simp] theorem State.setFn_qp (s : State) (f : Nat) (v : FnSt) : (s.setFn f v).qp = s.qp := rfl
@[simp] theorem State.setFn_ev (s : State) (f : Nat) (v : FnSt) : (s.setFn f v).ev = s.ev := rfl
@[simp] theorem State.setFn_tm (s : State) (f : Nat) (v : FnSt) : (s.setFn f v).tm = s.tm := rfl
@[simp] theorem State.setFn_hl (s : State) (f : Nat) (v : FnSt) : (s.setFn f v).hl = s.hl := rfl
@[simp] theorem State.setFn_mem (s : State) (f : Nat) (v : FnSt) : (s.setFn f v).mem = s.mem := rfl

@[simp] theorem State.setPort_pending (s : State) (p : Nat) (v : HostPort) : (s.setPort p v).pending = s.pending := rfl
@[simp] theorem State.setPort_now (s : State) (p : Nat) (v : HostPort) : (s.setPort p v).now = s.now := rfl
@[simp] theorem State.setPort_free (s : State) (p : Nat) (v : HostPort) : (s.setPort p v).free = s.free := rfl
@[simp] theorem State.setPort_out (s : State) (p : Nat) (v : HostPort) : (s.setPort p v).out = s.out := rfl
@[simp] theorem State.setPort_variant (s : State) (p : Nat) (v : HostPort) : (s.setPort p v).variant = s.variant := rfl
@[simp] theorem State.setPort_stepping (s : State) (p : Nat) (v : HostPort) : (s.setPort p v).stepping = s.stepping := rfl
@[simp] theorem State.setPort_board (s : State) (p : Nat) (v : HostPort) : (s.setPort p v).board = s.board := rfl
@[simp] theorem State.setPort_boot (s : State) (p : Nat) (v : HostPort) : (s.setPort p v).boot = s.boot := rfl
@[simp] theorem State.setPort_nv (s : State) (p : Nat) (v : HostPort) : (s.setPort p v).nv = s.nv := rfl
@[simp] theorem State.setPort_ret (s : State) (p : Nat) (v : HostPort) : (s.setPort p v).ret = s.ret := rfl
@[simp] theorem State.setPort_cfg (s : State) (p : Nat) (v : HostPort) : (s.setPort p v).cfg = s.cfg := rfl
@[simp] theorem State.setPort_sl (s : State) (p : Nat) (v : HostPort) : (s.setPort p v).sl = s.sl := rfl
@[simp] theorem State.setPort_et (s : State) (p : Nat) (v : HostPort) : (s.setPort p v).et = s.et := rfl
@[simp] theorem State.setPort_cn (s : State) (p : Nat) (v : HostPort) : (s.setPort p v).cn = s.cn := rfl
@[simp] theorem State.setPort_ps (s : State) (p : Nat) (v : HostPort) : (s.setPort p v).ps = s.ps := rfl
@[simp] theorem State.setPort_cl (s : State) (p : Nat) (v : HostPort) : (s.setPort p v).cl = s.cl := rfl
@[simp] theorem State.setPort_tb (s : State) (p : Nat) (v : HostPort) : (s.setPort p v).tb = s.tb := rfl
@[simp] theorem State.setPort_sv (s : State) (p : Nat) (v : HostPort) : (s.setPort p v).sv = s.sv := rfl
@[simp] theorem State.setPort_nvc (s : State) (p : Nat) (v : HostPort) : (s.setPort p v).nvc = s.nvc := rfl
@[simp] theorem State.setPort_ra (s : State) (p : Nat) (v : HostPort) : (s.setPort p v).ra = s.ra := rfl
@[simp] theorem State.setPort_ci (s : State) (p : Nat) (v : HostPort) : (s.setPort p v).ci = s.ci := rfl
@[simp] theorem State.setPort_clr (s : State) (p : Nat) (v : HostPort) : (s.setPort p v).clr = s.clr := rfl
@[simp] theorem State.setPort_sec (s : State) (p : Nat) (v : HostPort) : (s.setPort p v).sec = s.sec := rfl
@[simp] theorem State.setPort_qp (s : State) (p : Nat) (v : HostPort) : (s.setPort p v).qp = s.qp := rfl
@[simp] theorem State.setPort_ev (s : State) (p : Nat) (v : HostPort) : (s.setPort p v).ev = s.ev := rfl
@[simp] theorem State.setPort_tm (s : State) (p : Nat) (v : HostPort) : (s.setPort p v).tm = s.tm := rfl
@[simp] theorem State.setPort_hl (s : State) (p : Nat) (v : HostPort) : (s.setPort p v).hl = s.hl := rfl
@[simp] theorem State.setPort_mem (s : State) (p : Nat) (v : HostPort) : (s.setPort p v).mem = s.mem := rfl

@[simp] theorem State.hostCtr_pending (s : State) (p i : Nat) : (s.hostCtr p i).pending = s.pending := rfl
@[simp] theorem State.hostCtr_now (s : State) (p i : Nat) : (s.hostCtr p i).now = s.now := rfl
@[simp] theorem State.hostCtr_free (s : State) (p i : Nat) : (s.hostCtr p i).free = s.free := rfl
@[simp] theorem State.hostCtr_out (s : State) (p i : Nat) : (s.hostCtr p i).out = s.out := rfl
@[simp] theorem State.hostCtr_variant (s : State) (p i : Nat) : (s.hostCtr p i).variant = s.variant := rfl
@[simp] theorem State.hostCtr_stepping (s : State) (p i : Nat) : (s.hostCtr p i).stepping = s.stepping := rfl
@[simp] theorem State.hostCtr_board (s : State) (p i : Nat) : (s.hostCtr p i).board = s.board := rfl
@[simp] theorem State.hostCtr_boot (s : State) (p i : Nat) : (s.hostCtr p i).boot = s.boot := rfl
@[simp] theorem State.hostCtr_nv (s : State) (p i : Nat) : (s.hostCtr p i).nv = s.nv := rfl
@[simp] theorem State.hostCtr_ret (s : State) (p i : Nat) : (s.hostCtr p i).ret = s.ret := rfl
@[simp] theorem State.hostCtr_cfg (s : State) (p i : Nat) : (s.hostCtr p i).cfg = s.cfg := rfl
@[simp] theorem State.hostCtr_sl (s : State) (p i : Nat) : (s.hostCtr p i).sl = s.sl := rfl
@[simp] theorem State.hostCtr_et (s : State) (p i : Nat) : (s.hostCtr p i).et = s.et := rfl
@[simp] theorem State.hostCtr_cn (s : State) (p i : Nat) : (s.hostCtr p i).cn = s.cn := rfl
@[simp] theorem State.hostCtr_ps (s : State) (p i : Nat) : (s.hostCtr p i).ps = s.ps := rfl
@[simp] theorem State.hostCtr_cl (s : State) (p i : Nat) : (s.hostCtr p i).cl = s.cl := rfl
@[simp] theorem State.hostCtr_tb (s : State) (p i : Nat) : (s.hostCtr p i).tb = s.tb := rfl
@[simp] theorem State.hostCtr_sv (s : State) (p i : Nat) : (s.hostCtr p i).sv = s.sv := rfl
@[simp] theorem State.hostCtr_nvc (s : State) (p i : Nat) : (s.hostCtr p i).nvc = s.nvc := rfl
@[simp] theorem State.hostCtr_ra (s : State) (p i : Nat) : (s.hostCtr p i).ra = s.ra := rfl
@[simp] theorem State.hostCtr_ci (s : State) (p i : Nat) : (s.hostCtr p i).ci = s.ci := rfl
@[simp] theorem State.hostCtr_clr (s : State) (p i : Nat) : (s.hostCtr p i).clr = s.clr := rfl
@[simp] theorem State.hostCtr_sec (s : State) (p i : Nat) : (s.hostCtr p i).sec = s.sec := rfl
@[simp] theorem State.hostCtr_qp (s : State) (p i : Nat) : (s.hostCtr p i).qp = s.qp := rfl
@[simp] theorem State.hostCtr_ev (s : State) (p i : Nat) : (s.hostCtr p i).ev = s.ev := rfl
@[simp] theorem State.hostCtr_tm (s : State) (p i : Nat) : (s.hostCtr p i).tm = s.tm := rfl
@[simp] theorem State.hostCtr_hl (s : State) (p i : Nat) : (s.hostCtr p i).hl = s.hl := rfl
@[simp] theorem State.hostCtr_mem (s : State) (p i : Nat) : (s.hostCtr p i).mem = s.mem := rfl

@[simp] theorem State.setOwner_pending (s : State) (kind i f : Nat) : (s.setOwner kind i f).pending = s.pending := rfl
@[simp] theorem State.setOwner_now (s : State) (kind i f : Nat) : (s.setOwner kind i f).now = s.now := rfl
@[simp] theorem State.setOwner_free (s : State) (kind i f : Nat) : (s.setOwner kind i f).free = s.free := rfl
@[simp] theorem State.setOwner_out (s : State) (kind i f : Nat) : (s.setOwner kind i f).out = s.out := rfl
@[simp] theorem State.setOwner_variant (s : State) (kind i f : Nat) : (s.setOwner kind i f).variant = s.variant := rfl
@[simp] theorem State.setOwner_stepping (s : State) (kind i f : Nat) : (s.setOwner kind i f).stepping = s.stepping := rfl
@[simp] theorem State.setOwner_board (s : State) (kind i f : Nat) : (s.setOwner kind i f).board = s.board := rfl
@[simp] theorem State.setOwner_boot (s : State) (kind i f : Nat) : (s.setOwner kind i f).boot = s.boot := rfl
@[simp] theorem State.setOwner_nv (s : State) (kind i f : Nat) : (s.setOwner kind i f).nv = s.nv := rfl
@[simp] theorem State.setOwner_ret (s : State) (kind i f : Nat) : (s.setOwner kind i f).ret = s.ret := rfl
@[simp] theorem State.setOwner_sl (s : State) (kind i f : Nat) : (s.setOwner kind i f).sl = s.sl := rfl
@[simp] theorem State.setOwner_et (s : State) (kind i f : Nat) : (s.setOwner kind i f).et = s.et := rfl
@[simp] theorem State.setOwner_cn (s : State) (kind i f : Nat) : (s.setOwner kind i f).cn = s.cn := rfl
@[simp] theorem State.setOwner_ps (s : State) (kind i f : Nat) : (s.setOwner kind i f).ps = s.ps := rfl
@[simp] theorem State.setOwner_cl (s : State) (kind i f : Nat) : (s.setOwner kind i f).cl = s.cl := rfl
@[simp] theorem State.setOwner_tb (s : State) (kind i f : Nat) : (s.setOwner kind i f).tb = s.tb := rfl
@[simp] theorem State.setOwner_sv (s : State) (kind i f : Nat) : (s.setOwner kind i f).sv = s.sv := rfl
@[simp] theorem State.setOwner_nvc (s : State) (kind i f : Nat) : (s.setOwner kind i f).nvc = s.nvc := rfl
@[simp] theorem State.setOwner_ra (s : State) (kind i f : Nat) : (s.setOwner kind i f).ra = s.ra := rfl
@[simp] theorem State.setOwner_ci (s : State) (kind i f : Nat) : (s.setOwner kind i f).ci = s.ci := rfl
@[simp] theorem State.setOwner_clr (s : State) (kind i f : Nat) : (s.setOwner kind i f).clr = s.clr := rfl
@[simp] theorem State.setOwner_sec (s : State) (kind i f : Nat) : (s.setOwner kind i f).sec = s.sec := rfl
@[simp] theorem State.setOwner_hp (s : State) (kind i f : Nat) : (s.setOwner kind i f).hp = s.hp := rfl
@[simp] theorem State.setOwner_qp (s : State) (kind i f : Nat) : (s.setOwner kind i f).qp = s.qp := rfl
@[simp] theorem State.setOwner_ev (s : State) (kind i f : Nat) : (s.setOwner kind i f).ev = s.ev := rfl
@[simp] theorem State.setOwner_tm (s : State) (kind i f : Nat) : (s.setOwner kind i f).tm = s.tm := rfl
@[simp] theorem State.setOwner_hl (s : State) (kind i f : Nat) : (s.setOwner kind i f).hl = s.hl := rfl
@[simp] theorem State.setOwner_mem (s : State) (kind i f : Nat) : (s.setOwner kind i f).mem = s.mem := rfl

@[simp] theorem State.setSrc_pending (s : State) (i : Nat) (v : EvSrc) : (s.setSrc i v).pending = s.pending := rfl
@[simp] theorem State.setSrc_now (s : State) (i : Nat) (v : EvSrc) : (s.setSrc i v).now = s.now := rfl
@[simp] theorem State.setSrc_free (s : State) (i : Nat) (v : EvSrc) : (s.setSrc i v).free = s.free := rfl
@[simp] theorem State.setSrc_out (s : State) (i : Nat) (v : EvSrc) : (s.setSrc i v).out = s.out := rfl
@[simp] theorem State.setSrc_variant (s : State) (i : Nat) (v : EvSrc) : (s.setSrc i v).variant = s.variant := rfl
@[simp] theorem State.setSrc_stepping (s : State) (i : Nat) (v : EvSrc) : (s.setSrc i v).stepping = s.stepping := rfl
@[simp] theorem State.setSrc_board (s : State) (i : Nat) (v : EvSrc) : (s.setSrc i v).board = s.board := rfl
@[simp] theorem State.setSrc_boot (s : State) (i : Nat) (v : EvSrc) : (s.setSrc i v).boot = s.boot := rfl
@[simp] theorem State.setSrc_nv (s : State) (i : Nat) (v : EvSrc) : (s.setSrc i v).nv = s.nv := rfl
@[simp] theorem State.setSrc_ret (s : State) (i : Nat) (v : EvSrc) : (s.setSrc i v).ret = s.ret := rfl
@[simp] theorem State.setSrc_cfg (s : State) (i : Nat) (v : EvSrc) : (s.setSrc i v).cfg = s.cfg := rfl
@[simp] theorem State.setSrc_sl (s : State) (i : Nat) (v : EvSrc) : (s.setSrc i v).sl = s.sl := rfl
@[simp] theorem State.setSrc_et (s : State) (i : Nat) (v : EvSrc) : (s.setSrc i v).et = s.et := rfl
@[simp] theorem State.setSrc_cn (s : State) (i : Nat) (v : EvSrc) : (s.setSrc i v).cn = s.cn := rfl
@[simp] theorem State.setSrc_ps (s : State) (i : Nat) (v : EvSrc) : (s.setSrc i v).ps = s.ps := rfl
@[simp] theorem State.setSrc_cl (s : State) (i : Nat) (v : EvSrc) : (s.setSrc i v).cl = s.cl := rfl
@[simp] theorem State.setSrc_tb (s : State) (i : Nat) (v : EvSrc) : (s.setSrc i v).tb = s.tb := rfl
@[simp] theorem State.setSrc_sv (s : State) (i : Nat) (v : EvSrc) : (s.setSrc i v).sv = s.sv := rfl
@[simp] theorem State.setSrc_nvc (s : State) (i : Nat) (v : EvSrc) : (s.setSrc i v).nvc = s.nvc := rfl
@[simp] theorem State.setSrc_ra (s : State) (i : Nat) (v : EvSrc) : (s.setSrc i v).ra = s.ra := rfl
@[simp] theorem State.setSrc_ci (s : State) (i : Nat) (v : EvSrc) : (s.setSrc i v).ci = s.ci := rfl
@[simp] theorem State.setSrc_clr (s : State) (i : Nat) (v : EvSrc) : (s.setSrc i v).clr = s.clr := rfl
@[simp] theorem State.setSrc_sec (s : State) (i : Nat) (v : EvSrc) : (s.setSrc i v).sec = s.sec := rfl
@[simp] theorem State.setSrc_hp (s : State) (i : Nat) (v : EvSrc) : (s.setSrc i v).hp = s.hp := rfl
@[simp] theorem State.setSrc_qp (s : State) (i : Nat) (v : EvSrc) : (s.setSrc i v).qp = s.qp := rfl
@[simp] theorem State.setSrc_tm (s : State) (i : Nat) (v : EvSrc) : (s.setSrc i v).tm = s.tm := rfl
@[simp] theorem State.setSrc_hl (s : State) (i : Nat) (v : EvSrc) : (s.setSrc i v).hl = s.hl := rfl
@[simp] theorem State.setSrc_mem (s : State) (i : Nat) (v : EvSrc) : (s.setSrc i v).mem = s.mem := rfl

@[simp] theorem State.setCl_pending (s : State) (c : Nat) (x : Cl) : (s.setCl c x).pending = s.pending := rfl
@[simp] theorem State.setCl_now (s : State) (c : Nat) (x : Cl) : (s.setCl c x).now = s.now := rfl
@[simp] theorem State.setCl_free (s : State) (c : Nat) (x : Cl) : (s.setCl c x).free = s.free := rfl
@[simp] theorem State.setCl_out (s : State) (c : Nat) (x : Cl) : (s.setCl c x).out = s.out := rfl
@[simp] theorem State.setCl_variant (s : State) (c : Nat) (x : Cl) : (s.setCl c x).variant = s.variant := rfl
@[simp] theorem State.setCl_stepping (s : State) (c : Nat) (x : Cl) : (s.setCl c x).stepping = s.stepping := rfl
@[simp] theorem State.setCl_board (s : State) (c : Nat) (x : Cl) : (s.setCl c x).board = s.board := rfl
@[simp] theorem State.setCl_boot (s : State) (c : Nat) (x : Cl) : (s.setCl c x).boot = s.boot := rfl
@[simp] theorem State.setCl_nv (s : State) (c : Nat) (x : Cl) : (s.setCl c x).nv = s.nv := rfl
@[simp] theorem State.setCl_ret (s : State) (c : Nat) (x : Cl) : (s.setCl c x).ret = s.ret := rfl
@[simp] theorem State.setCl_cfg (s : State) (c : Nat) (x : Cl) : (s.setCl c x).cfg = s.cfg := rfl
@[simp] theorem State.setCl_sl (s : State) (c : Nat) (x : Cl) : (s.setCl c x).sl = s.sl := rfl
@[simp] theorem State.setCl_et (s : State) (c : Nat) (x : Cl) : (s.setCl c x).et = s.et := rfl
@[simp] theorem State.setCl_cn (s : State) (c : Nat) (x : Cl) : (s.setCl c x).cn = s.cn := rfl
@[simp] theorem State.setCl_ps (s : State) (c : Nat) (x : Cl) : (s.setCl c x).ps = s.ps := rfl
@[simp] theorem State.setCl_cl (s : State) (c : Nat) (x : Cl) : (s.setCl c x).cl = s.cl := rfl
@[simp] theorem State.setCl_tb (s : State) (c : Nat) (x : Cl) : (s.setCl c x).tb = s.tb := rfl
@[simp] theorem State.setCl_sv (s : State) (c : Nat) (x : Cl) : (s.setCl c x).sv = s.sv := rfl
@[simp] theorem State.setCl_nvc (s : State) (c : Nat) (x : Cl) : (s.setCl c x).nvc = s.nvc := rfl
@[simp] theorem State.setCl_ra (s : State) (c : Nat) (x : Cl) : (s.setCl c x).ra = s.ra := rfl
@[simp] theorem State.setCl_ci (s : State) (c : Nat) (x : Cl) : (s.setCl c x).ci = s.ci := rfl
@[simp] theorem State.setCl_sec (s : State) (c : Nat) (x : Cl) : (s.setCl c x).sec = s.sec := rfl
@[simp] theorem State.setCl_hp (s : State) (c : Nat) (x : Cl) : (s.setCl c x).hp = s.hp := rfl
@[simp] theorem State.setCl_qp (s : State) (c : Nat) (x : Cl) : (s.setCl c x).qp = s.qp := rfl
@[simp] theorem State.setCl_ev (s : State) (c : Nat) (x : Cl) : (s.setCl c x).ev = s.ev := rfl
@[simp] theorem State.setCl_tm (s : State) (c : Nat) (x : Cl) : (s.setCl c x).tm = s.tm := rfl
@[simp] theorem State.setCl_hl (s : State) (c : Nat) (x : Cl) : (s.setCl c x).hl = s.hl := rfl
@[simp] theorem State.setCl_mem (s : State) (c : Nat) (x : Cl) : (s.setCl c x).mem = s.mem := rfl

@[simp] theorem State.clCtr_pending (s : State) (c i n : Nat) : (s.clCtr c i n).pending = s.pending := rfl
@[simp] theorem State.clCtr_now (s : State) (c i n : Nat) : (s.clCtr c i n).now = s.now := rfl
@[simp] theorem State.clCtr_free (s : State) (c i n : Nat) : (s.clCtr c i n).free = s.free := rfl
@[simp] theorem State.clCtr_out (s : State) (c i n : Nat) : (s.clCtr c i n).out = s.out := rfl
@[simp] theorem State.clCtr_variant (s : State) (c i n : Nat) : (s.clCtr c i n).variant = s.variant := rfl
@[simp] theorem State.clCtr_stepping (s : State) (c i n : Nat) : (s.clCtr c i n).stepping = s.stepping := rfl
@[simp] theorem State.clCtr_board (s : State) (c i n : Nat) : (s.clCtr c i n).board = s.board := rfl
@[simp] theorem State.clCtr_boot (s : State) (c i n : Nat) : (s.clCtr c i n).boot = s.boot := rfl
@[simp] theorem State.clCtr_nv (s : State) (c i n : Nat) : (s.clCtr c i n).nv = s.nv := rfl
@[simp] theorem State.clCtr_ret (s : State) (c i n : Nat) : (s.clCtr c i n).ret = s.ret := rfl
@[simp] theorem State.clCtr_cfg (s : State) (c i n : Nat) : (s.clCtr c i n).cfg = s.cfg := rfl
@[simp] theorem State.clCtr_sl (s : State) (c i n : Nat) : (s.clCtr c i n).sl = s.sl := rfl
@[simp] theorem State.clCtr_et (s : State) (c i n : Nat) : (s.clCtr c i n).et = s.et := rfl
@[simp] theorem State.clCtr_cn (s : State) (c i n : Nat) : (s.clCtr c i n).cn = s.cn := rfl
@[simp] theorem State.clCtr_ps (s : State) (c i n : Nat) : (s.clCtr c i n).ps = s.ps := rfl
@[simp] theorem State.clCtr_cl (s : State) (c i n : Nat) : (s.clCtr c i n).cl = s.cl := rfl
@[simp] theorem State.clCtr_tb (s : State) (c i n : Nat) : (s.clCtr c i n).tb = s.tb := rfl
@[simp] theorem State.clCtr_sv (s : State) (c i n : Nat) : (s.clCtr c i n).sv = s.sv := rfl
@[simp] theorem State.clCtr_nvc (s : State) (c i n : Nat) : (s.clCtr c i n).nvc = s.nvc := rfl
@[simp] theorem State.clCtr_ra (s : State) (c i n : Nat) : (s.clCtr c i n).ra = s.ra := rfl
@[simp] theorem State.clCtr_ci (s : State) (c i n : Nat) : (s.clCtr c i n).ci = s.ci := rfl
@[simp] theorem State.clCtr_sec (s : State) (c i n : Nat) : (s.clCtr c i n).sec = s.sec := rfl
@[simp] theorem State.clCtr_hp (s : State) (c i n : Nat) : (s.clCtr c i n).hp = s.hp := rfl
@[simp] theorem State.clCtr_qp (s : State) (c i n : Nat) : (s.clCtr c i n).qp = s.qp := rfl
@[simp] theorem State.clCtr_ev (s : State) (c i n : Nat) : (s.clCtr c i n).ev = s.ev := rfl
@[simp] theorem State.clCtr_tm (s : State) (c i n : Nat) : (s.clCtr c i n).tm = s.tm := rfl
@[simp] theorem State.clCtr_hl (s : State) (c i n : Nat) : (s.clCtr c i n).hl = s.hl := rfl
@[simp] theorem State.clCtr_mem (s : State) (c i n : Nat) : (s.clCtr c i n).mem = s.mem := rfl

@[simp] theorem State.setCtx_pending (s : State) (t : Thr) (c : Ctx) : (s.setCtx t c).pending = s.pending := rfl
@[simp] theorem State.setCtx_now (s : State) (t : Thr) (c : Ctx) : (s.setCtx t c).now = s.now := rfl
@[simp] theorem State.setCtx_free (s : State) (t : Thr) (c : Ctx) : (s.setCtx t c).free = s.free := rfl
@[simp] theorem State.setCtx_out (s : State) (t : Thr) (c : Ctx) : (s.setCtx t c).out = s.out := rfl
@[simp] theorem State.setCtx_variant (s : State) (t : Thr) (c : Ctx) : (s.setCtx t c).variant = s.variant := rfl
@[simp] theorem State.setCtx_stepping (s : State) (t : Thr) (c : Ctx) : (s.setCtx t c).stepping = s.stepping := rfl
@[simp] theorem State.setCtx_board (s : State) (t : Thr) (c : Ctx) : (s.setCtx t c).board = s.board := rfl
@[simp] theorem State.setCtx_boot (s : State) (t : Thr) (c : Ctx) : (s.setCtx t c).boot = s.boot := rfl
@[simp] theorem State.setCtx_nv (s : State) (t : Thr) (c : Ctx) : (s.setCtx t c).nv = s.nv := rfl
@[simp] theorem State.setCtx_ret (s : State) (t : Thr) (c : Ctx) : (s.setCtx t c).ret = s.ret := rfl
@[simp] theorem State.setCtx_cfg (s : State) (t : Thr) (c : Ctx) : (s.setCtx t c).cfg = s.cfg := rfl
@[simp] theorem State.setCtx_sl (s : State) (t : Thr) (c : Ctx) : (s.setCtx t c).sl = s.sl := rfl
@[simp] theorem State.setCtx_et (s : State) (t : Thr) (c : Ctx) : (s.setCtx t c).et = s.et := rfl
@[simp] theorem State.setCtx_cn (s : State) (t : Thr) (c : Ctx) : (s.setCtx t c).cn = s.cn := rfl
@[simp] theorem State.setCtx_cl (s : State) (t : Thr) (c : Ctx) : (s.setCtx t c).cl = s.cl := rfl
@[simp] theorem State.setCtx_tb (s : State) (t : Thr) (c : Ctx) : (s.setCtx t c).tb = s.tb := rfl
@[simp] theorem State.setCtx_sv (s : State) (t : Thr) (c : Ctx) : (s.setCtx t c).sv = s.sv := rfl
@[simp] theorem State.setCtx_nvc (s : State) (t : Thr) (c : Ctx) : (s.setCtx t c).nvc = s.nvc := rfl
@[simp] theorem State.setCtx_ra (s : State) (t : Thr) (c : Ctx) : (s.setCtx t c).ra = s.ra := rfl
@[simp] theorem State.setCtx_ci (s : State) (t : Thr) (c : Ctx) : (s.setCtx t c).ci = s.ci := rfl
@[simp] theorem State.setCtx_clr (s : State) (t : Thr) (c : Ctx) : (s.setCtx t c).clr = s.clr := rfl
@[simp] theorem State.setCtx_sec (s : State) (t : Thr) (c : Ctx) : (s.setCtx t c).sec = s.sec := rfl
@[simp] theorem State.setCtx_hp (s : State) (t : Thr) (c : Ctx) : (s.setCtx t c).hp = s.hp := rfl
@[simp] theorem State.setCtx_qp (s : State) (t : Thr) (c : Ctx) : (s.setCtx t c).qp = s.qp := rfl
@[simp] theorem State.setCtx_ev (s : State) (t : Thr) (c : Ctx) : (s.setCtx t c).ev = s.ev := rfl
@[simp] theorem State.setCtx_tm (s : State) (t : Thr) (c : Ctx) : (s.setCtx t c).tm = s.tm := rfl
@[simp] theorem State.setCtx_hl (s : State) (t : Thr) (c : Ctx) : (s.setCtx t c).hl = s.hl := rfl
@[simp] theorem State.setCtx_mem (s : State) (t : Thr) (c : Ctx) : (s.setCtx t c).mem = s.mem := rfl

@[simp] theorem State.setBoard_pending (s : State) (f : Board → Board) : (s.setBoard f).pending = s.pending := rfl
@[simp] theorem State.setBoard_now (s : State) (f : Board → Board) : (s.setBoard f).now = s.now := rfl
@[simp] theorem State.setBoard_free (s : State) (f : Board → Board) : (s.setBoard f).free = s.free := rfl
@[simp] theorem State.setBoard_out (s : State) (f : Board → Board) : (s.setBoard f).out = s.out := rfl
@[simp] theorem State.setBoard_variant (s : State) (f : Board → Board) : (s.setBoard f).variant = s.variant := rfl
@[simp] theorem State.setBoard_stepping (s : State) (f : Board → Board) : (s.setBoard f).stepping = s.stepping := rfl
@[simp] theorem State.setBoard_boot (s : State) (f : Board → Board) : (s.setBoard f).boot = s.boot := rfl
@[simp] theorem State.setBoard_nv (s : State) (f : Board → Board) : (s.setBoard f).nv = s.nv := rfl
@[simp] theorem State.setBoard_ret (s : State) (f : Board → Board) : (s.setBoard f).ret = s.ret := rfl
@[simp] theorem State.setBoard_cfg (s : State) (f : Board → Board) : (s.setBoard f).cfg = s.cfg := rfl
@[simp] theorem State.setBoard_sl (s : State) (f : Board → Board) : (s.setBoard f).sl = s.sl := rfl
@[simp] theorem State.setBoard_et (s : State) (f : Board → Board) : (s.setBoard f).et = s.et := rfl
@[simp] theorem State.setBoard_cn (s : State) (f : Board → Board) : (s.setBoard f).cn = s.cn := rfl
@[simp] theorem State.setBoard_ps (s : State) (f : Board → Board) : (s.setBoard f).ps = s.ps := rfl
@[simp] theorem State.setBoard_cl (s : State) (f : Board → Board) : (s.setBoard f).cl = s.cl := rfl
@[simp] theorem State.setBoard_tb (s : State) (f : Board → Board) : (s.setBoard f).tb = s.tb := rfl
@[simp] theorem State.setBoard_sv (s : State) (f : Board → Board) : (s.setBoard f).sv = s.sv := rfl
@[simp] theorem State.setBoard_nvc (s : State) (f : Board → Board) : (s.setBoard f).nvc = s.nvc := rfl
@[simp] theorem State.setBoard_ra (s : State) (f : Board → Board) : (s.setBoard f).ra = s.ra := rfl
@[simp] theorem State.setBoard_ci (s : State) (f : Board → Board) : (s.setBoard f).ci = s.ci := rfl
@[simp] theorem State.setBoard_clr (s : State) (f : Board → Board) : (s.setBoard f).clr = s.clr := rfl
@[simp] theorem State.setBoard_sec (s : State) (f : Board → Board) : (s.setBoard f).sec = s.sec := rfl
@[simp] theorem State.setBoard_hp (s : State) (f : Board → Board) : (s.setBoard f).hp = s.hp := rfl
@[simp] theorem State.setBoard_qp (s : State) (f : Board → Board) : (s.setBoard f).qp = s.qp := rfl
@[simp] theorem State.setBoard_ev (s : State) (f : Board → Board) : (s.setBoard f).ev = s.ev := rfl
@[simp] theorem State.setBoard_tm (s : State) (f : Board → Board) : (s.setBoard f).tm = s.tm := rfl
@[simp] theorem State.setBoard_hl (s : State) (f : Board → Board) : (s.setBoard f).hl = s.hl := rfl
@[simp] theorem State.setBoard_mem (s : State) (f : Board → Board) : (s.setBoard f).mem = s.mem := rfl

@[simp] theorem State.setQp_pending (s : State) (q : Nat) (x : Qp) : (s.setQp q x).pending = s.pending := rfl
@[simp] theorem State.setQp_now (s : State) (q : Nat) (x : Qp) : (s.setQp q x).now = s.now := rfl
@[simp] theorem State.setQp_free (s : State) (q : Nat) (x : Qp) : (s.setQp q x).free = s.free := rfl
@[simp] theorem State.setQp_out (s : State) (q : Nat) (x : Qp) : (s.setQp q x).out = s.out := rfl
@[simp] theorem State.setQp_variant (s : State) (q : Nat) (x : Qp) : (s.setQp q x).variant = s.variant := rfl
@[simp] theorem State.setQp_stepping (s : State) (q : Nat) (x : Qp) : (s.setQp q x).stepping = s.stepping := rfl
@[simp] theorem State.setQp_board (s : State) (q : Nat) (x : Qp) : (s.setQp q x).board = s.board := rfl
@[simp] theorem State.setQp_boot (s : State) (q : Nat) (x : Qp) : (s.setQp q x).boot = s.boot := rfl
@[simp] theorem State.setQp_nv (s : State) (q : Nat) (x : Qp) : (s.setQp q x).nv = s.nv := rfl
@[simp] theorem State.setQp_ret (s : State) (q : Nat) (x : Qp) : (s.setQp q x).ret = s.ret := rfl
@[simp] theorem State.setQp_cfg (s : State) (q : Nat) (x : Qp) : (s.setQp q x).cfg = s.cfg := rfl
@[simp] theorem State.setQp_sl (s : State) (q : Nat) (x : Qp) : (s.setQp q x).sl = s.sl := rfl
@[simp] theorem State.setQp_et (s : State) (q : Nat) (x : Qp) : (s.setQp q x).et = s.et := rfl
@[simp] theorem State.setQp_cn (s : State) (q : Nat) (x : Qp) : (s.setQp q x).cn = s.cn := rfl
@[simp] theorem State.setQp_ps (s : State) (q : Nat) (x : Qp) : (s.setQp q x).ps = s.ps := rfl
@[simp] theorem State.setQp_cl (s : State) (q : Nat) (x : Qp) : (s.setQp q x).cl = s.cl := rfl
@[simp] theorem State.setQp_tb (s : State) (q : Nat) (x : Qp) : (s.setQp q x).tb = s.tb := rfl
@[simp] theorem State.setQp_sv (s : State) (q : Nat) (x : Qp) : (s.setQp q x).sv = s.sv := rfl
@[simp] theorem State.setQp_nvc (s : State) (q : Nat) (x : Qp) : (s.setQp q x).nvc = s.nvc := rfl
@[simp] theorem State.setQp_ra (s : State) (q : Nat) (x : Qp) : (s.setQp q x).ra = s.ra := rfl
@[simp] theorem State.setQp_ci (s : State) (q : Nat) (x : Qp) : (s.setQp q x).ci = s.ci := rfl
@[simp] theorem State.setQp_clr (s : State) (q : Nat) (x : Qp) : (s.setQp q x).clr = s.clr := rfl
@[simp] theorem State.setQp_sec (s : State) (q : Nat) (x : Qp) : (s.setQp q x).sec = s.sec := rfl
@[simp] theorem State.setQp_hp (s : State) (q : Nat) (x : Qp) : (s.setQp q x).hp = s.hp := rfl
@[simp] theorem State.setQp_ev (s : State) (q : Nat) (x : Qp) : (s.setQp q x).ev = s.ev := rfl
@[simp] theorem State.setQp_tm (s : State) (q : Nat) (x : Qp) : (s.setQp q x).tm = s.tm := rfl
@[simp] theorem State.setQp_hl (s : State) (q : Nat) (x : Qp) : (s.setQp q x).hl = s.hl := rfl
@[simp] theorem State.setQp_mem (s : State) (q : Nat) (x : Qp) : (s.setQp q x).mem = s.mem := rfl

@[simp] theorem State.qpCtr_pending (s : State) (q i n : Nat) : (s.qpCtr q i n).pending = s.pending := rfl
@[simp] theorem State.qpCtr_now (s : State) (q i n : Nat) : (s.qpCtr q i n).now = s.now := rfl
@[simp] theorem State.qpCtr_free (s : State) (q i n : Nat) : (s.qpCtr q i n).free = s.free := rfl
@[simp] theorem State.qpCtr_out (s : State) (q i n : Nat) : (s.qpCtr q i n).out = s.out := rfl
@[simp] theorem State.qpCtr_variant (s : State) (q i n : Nat) : (s.qpCtr q i n).variant = s.variant := rfl
@[simp] theorem State.qpCtr_stepping (s : State) (q i n : Nat) : (s.qpCtr q i n).stepping = s.stepping := rfl
@[simp] theorem State.qpCtr_board (s : State) (q i n : Nat) : (s.qpCtr q i n).board = s.board := rfl
@[simp] theorem State.qpCtr_boot (s : State) (q i n : Nat) : (s.qpCtr q i n).boot = s.boot := rfl
@[simp] theorem State.qpCtr_nv (s : State) (q i n : Nat) : (s.qpCtr q i n).nv = s.nv := rfl
@[simp] theorem State.qpCtr_ret (s : State) (q i n : Nat) : (s.qpCtr q i n).ret = s.ret := rfl
@[simp] theorem State.qpCtr_cfg (s : State) (q i n : Nat) : (s.qpCtr q i n).cfg = s.cfg := rfl
@[simp] theorem State.qpCtr_sl (s : State) (q i n : Nat) : (s.qpCtr q i n).sl = s.sl := rfl
@[simp] theorem State.qpCtr_et (s : State) (q i n : Nat) : (s.qpCtr q i n).et = s.et := rfl
@[simp] theorem State.qpCtr_cn (s : State) (q i n : Nat) : (s.qpCtr q i n).cn = s.cn := rfl
@[simp] theorem State.qpCtr_ps (s : State) (q i n : Nat) : (s.qpCtr q i n).ps = s.ps := rfl
@[simp] theorem State.qpCtr_cl (s : State) (q i n : Nat) : (s.qpCtr q i n).cl = s.cl := rfl
@[simp] theorem State.qpCtr_tb (s : State) (q i n : Nat) : (s.qpCtr q i n).tb = s.tb := rfl
@[simp] theorem State.qpCtr_sv (s : State) (q i n : Nat) : (s.qpCtr q i n).sv = s.sv := rfl
@[simp] theorem State.qpCtr_nvc (s : State) (q i n : Nat) : (s.qpCtr q i n).nvc = s.nvc := rfl
@[simp] theorem State.qpCtr_ra (s : State) (q i n : Nat) : (s.qpCtr q i n).ra = s.ra := rfl
@[simp] theorem State.qpCtr_ci (s : State) (q i n : Nat) : (s.qpCtr q i n).ci = s.ci := rfl
@[simp] theorem State.qpCtr_clr (s : State) (q i n : Nat) : (s.qpCtr q i n).clr = s.clr := rfl
@[simp] theorem State.qpCtr_sec (s : State) (q i n : Nat) : (s.qpCtr q i n).sec = s.sec := rfl
@[simp] theorem State.qpCtr_hp (s : State) (q i n : Nat) : (s.qpCtr q i n).hp = s.hp := rfl
@[simp] theorem State.qpCtr_ev (s : State) (q i n : Nat) : (s.qpCtr q i n).ev = s.ev := rfl
@[simp] theorem State.qpCtr_tm (s : State) (q i n : Nat) : (s.qpCtr q i n).tm = s.tm := rfl
@[simp] theorem State.qpCtr_hl (s : State) (q i n : Nat) : (s.qpCtr q i n).hl = s.hl := rfl
@[simp] theorem State.qpCtr_mem (s : State) (q i n : Nat) : (s.qpCtr q i n).mem = s.mem := rfl

@[simp] theorem State.ciCtr_pending (s : State) (g i n : Nat) : (s.ciCtr g i n).pending = s.pending := rfl
@[simp] theorem State.ciCtr_now (s : State) (g i n : Nat) : (s.ciCtr g i n).now = s.now := rfl
@[simp] theorem State.ciCtr_free (s : State) (g i n : Nat) : (s.ciCtr g i n).free = s.free := rfl
@[simp] theorem State.ciCtr_out (s : State) (g i n : Nat) : (s.ciCtr g i n).out = s.out := rfl
@[simp] theorem State.ciCtr_variant (s : State) (g i n : Nat) : (s.ciCtr g i n).variant = s.variant := rfl
@[simp] theorem State.ciCtr_stepping (s : State) (g i n : Nat) : (s.ciCtr g i n).stepping = s.stepping := rfl
@[simp] theorem State.ciCtr_board (s : State) (g i n : Nat) : (s.ciCtr g i n).board = s.board := rfl
@[simp] theorem State.ciCtr_boot (s : State) (g i n : Nat) : (s.ciCtr g i n).boot = s.boot := rfl
@[simp] theorem State.ciCtr_nv (s : State) (g i n : Nat) : (s.ciCtr g i n).nv = s.nv := rfl
@[simp] theorem State.ciCtr_ret (s : State) (g i n : Nat) : (s.ciCtr g i n).ret = s.ret := rfl
@[simp] theorem State.ciCtr_cfg (s : State) (g i n : Nat) : (s.ciCtr g i n).cfg = s.cfg := rfl
@[simp] theorem State.ciCtr_sl (s : State) (g i n : Nat) : (s.ciCtr g i n).sl = s.sl := rfl
@[simp] theorem State.ciCtr_et (s : State) (g i n : Nat) : (s.ciCtr g i n).et = s.et := rfl
@[simp] theorem State.ciCtr_cn (s : State) (g i n : Nat) : (s.ciCtr g i n).cn = s.cn := rfl
@[simp] theorem State.ciCtr_ps (s : State) (g i n : Nat) : (s.ciCtr g i n).ps = s.ps := rfl
@[simp] theorem State.ciCtr_cl (s : State) (g i n : Nat) : (s.ciCtr g i n).cl = s.cl := rfl
@[simp] theorem State.ciCtr_tb (s : State) (g i n : Nat) : (s.ciCtr g i n).tb = s.tb := rfl
@[simp] theorem State.ciCtr_sv (s : State) (g i n : Nat) : (s.ciCtr g i n).sv = s.sv := rfl
@[simp] theorem State.ciCtr_nvc (s : State) (g i n : Nat) : (s.ciCtr g i n).nvc = s.nvc := rfl
@[simp] theorem State.ciCtr_ra (s : State) (g i n : Nat) : (s.ciCtr g i n).ra = s.ra := rfl
@[simp] theorem State.ciCtr_clr (s : State) (g i n : Nat) : (s.ciCtr g i n).clr = s.clr := rfl
@[simp] theorem State.ciCtr_sec (s : State) (g i n : Nat) : (s.ciCtr g i n).sec = s.sec := rfl
@[simp] theorem State.ciCtr_hp (s : State) (g i n : Nat) : (s.ciCtr g i n).hp = s.hp := rfl
@[simp] theorem State.ciCtr_qp (s : State) (g i n : Nat) : (s.ciCtr g i n).qp = s.qp := rfl
@[simp] theorem State.ciCtr_ev (s : State) (g i n : Nat) : (s.ciCtr g i n).ev = s.ev := rfl
@[simp] theorem State.ciCtr_tm (s : State) (g i n : Nat) : (s.ciCtr g i n).tm = s.tm := rfl
@[simp] theorem State.ciCtr_hl (s : State) (g i n : Nat) : (s.ciCtr g i n).hl = s.hl := rfl
@[simp] theorem State.ciCtr_mem (s : State) (g i n : Nat) : (s.ciCtr g i n).mem = s.mem := rfl

@[simp] theorem State.setConn_pending (s : State) (c : Nat) (x : Conn) : (s.setConn c x).pending = s.pending := rfl
@[simp] theorem State.setConn_now (s : State) (c : Nat) (x : Conn) : (s.setConn c x).now = s.now := rfl
@[simp] theorem State.setConn_free (s : State) (c : Nat) (x : Conn) : (s.setConn c x).free = s.free := rfl
@[simp] theorem State.setConn_out (s : State) (c : Nat) (x : Conn) : (s.setConn c x).out = s.out := rfl
@[simp] theorem State.setConn_variant (s : State) (c : Nat) (x : Conn) : (s.setConn c x).variant = s.variant := rfl
@[simp] theorem State.setConn_stepping (s : State) (c : Nat) (x : Conn) : (s.setConn c x).stepping = s.stepping := rfl
@[simp] theorem State.setConn_board (s : State) (c : Nat) (x : Conn) : (s.setConn c x).board = s.board := rfl
@[simp] theorem State.setConn_boot (s : State) (c : Nat) (x : Conn) : (s.setConn c x).boot = s.boot := rfl
@[simp] theorem State.setConn_nv (s : State) (c : Nat) (x : Conn) : (s.setConn c x).nv = s.nv := rfl
@[simp] theorem State.setConn_ret (s : State) (c : Nat) (x : Conn) : (s.setConn c x).ret = s.ret := rfl
@[simp] theorem State.setConn_cfg (s : State) (c : Nat) (x : Conn) : (s.setConn c x).cfg = s.cfg := rfl
@[simp] theorem State.setConn_sl (s : State) (c : Nat) (x : Conn) : (s.setConn c x).sl = s.sl := rfl
@[simp] theorem State.setConn_et (s : State) (c : Nat) (x : Conn) : (s.setConn c x).et = s.et := rfl
@[simp] theorem State.setConn_cn (s : State) (c : Nat) (x : Conn) : (s.setConn c x).cn = s.cn := rfl
@[simp] theorem State.setConn_ps (s : State) (c : Nat) (x : Conn) : (s.setConn c x).ps = s.ps := rfl
@[simp] theorem State.setConn_cl (s : State) (c : Nat) (x : Conn) : (s.setConn c x).cl = s.cl := rfl
@[simp] theorem State.setConn_tb (s : State) (c : Nat) (x : Conn) : (s.setConn c x).tb = s.tb := rfl
@[simp] theorem State.setConn_sv (s : State) (c : Nat) (x : Conn) : (s.setConn c x).sv = s.sv := rfl
@[simp] theorem State.setConn_nvc (s : State) (c : Nat) (x : Conn) : (s.setConn c x).nvc = s.nvc := rfl
@[simp] theorem State.setConn_ci (s : State) (c : Nat) (x : Conn) : (s.setConn c x).ci = s.ci := rfl
@[simp] theorem State.setConn_clr (s : State) (c : Nat) (x : Conn) : (s.setConn c x).clr = s.clr := rfl
@[simp] theorem State.setConn_sec (s : State) (c : Nat) (x : Conn) : (s.setConn c x).sec = s.sec := rfl
@[simp] theorem State.setConn_hp (s : State) (c : Nat) (x : Conn) : (s.setConn c x).hp = s.hp := rfl
@[simp] theorem State.setConn_qp (s : State) (c : Nat) (x : Conn) : (s.setConn c x).qp = s.qp := rfl
@[simp] theorem State.setConn_ev (s : State) (c : Nat) (x : Conn) : (s.setConn c x).ev = s.ev := rfl
@[simp] theorem State.setConn_tm (s : State) (c : Nat) (x : Conn) : (s.setConn c x).tm = s.tm := rfl
@[simp] theorem State.setConn_hl (s : State) (c : Nat) (x : Conn) : (s.setConn c x).hl = s.hl := rfl
@[simp] theorem State.setConn_mem (s : State) (c : Nat) (x : Conn) : (s.setConn c x).mem = s.mem := rfl

@[simp] theorem State.raCtr_pending (s : State) (g i n : Nat) : (s.raCtr g i n).pending = s.pending := rfl
@[simp] theorem State.raCtr_now (s : State) (g i n : Nat) : (s.raCtr g i n).now = s.now := rfl
@[simp] theorem State.raCtr_free (s : State) (g i n : Nat) : (s.raCtr g i n).free = s.free := rfl
@[simp] theorem State.raCtr_out (s : State) (g i n : Nat) : (s.raCtr g i n).out = s.out := rfl
@[simp] theorem State.raCtr_variant (s : State) (g i n : Nat) : (s.raCtr g i n).variant = s.variant := rfl
@[simp] theorem State.raCtr_stepping (s : State) (g i n : Nat) : (s.raCtr g i n).stepping = s.stepping := rfl
@[simp] theorem State.raCtr_board (s : State) (g i n : Nat) : (s.raCtr g i n).board = s.board := rfl
@[simp] theorem State.raCtr_boot (s : State) (g i n : Nat) : (s.raCtr g i n).boot = s.boot := rfl
@[simp] theorem State.raCtr_nv (s : State) (g i n : Nat) : (s.raCtr g i n).nv = s.nv := rfl
@[simp] theorem State.raCtr_ret (s : State) (g i n : Nat) : (s.raCtr g i n).ret = s.ret := rfl
@[simp] theorem State.raCtr_cfg (s : State) (g i n : Nat) : (s.raCtr g i n).cfg = s.cfg := rfl
@[simp] theorem State.raCtr_sl (s : State) (g i n : Nat) : (s.raCtr g i n).sl = s.sl := rfl
@[simp] theorem State.raCtr_et (s : State) (g i n : Nat) : (s.raCtr g i n).et = s.et := rfl
@[simp] theorem State.raCtr_cn (s : State) (g i n : Nat) : (s.raCtr g i n).cn = s.cn := rfl
@[simp] theorem State.raCtr_ps (s : State) (g i n : Nat) : (s.raCtr g i n).ps = s.ps := rfl
@[simp] theorem State.raCtr_cl (s : State) (g i n : Nat) : (s.raCtr g i n).cl = s.cl := rfl
@[simp] theorem State.raCtr_tb (s : State) (g i n : Nat) : (s.raCtr g i n).tb = s.tb := rfl
@[simp] theorem State.raCtr_sv (s : State) (g i n : Nat) : (s.raCtr g i n).sv = s.sv := rfl
@[simp] theorem State.raCtr_nvc (s : State) (g i n : Nat) : (s.raCtr g i n).nvc = s.nvc := rfl
@[simp] theorem State.raCtr_ci (s : State) (g i n : Nat) : (s.raCtr g i n).ci = s.ci := rfl
@[simp] theorem State.raCtr_clr (s : State) (g i n : Nat) : (s.raCtr g i n).clr = s.clr := rfl
@[simp] theorem State.raCtr_sec (s : State) (g i n : Nat) : (s.raCtr g i n).sec = s.sec := rfl
@[simp] theorem State.raCtr_hp (s : State) (g i n : Nat) : (s.raCtr g i n).hp = s.hp := rfl
@[simp] theorem State.raCtr_qp (s : State) (g i n : Nat) : (s.raCtr g i n).qp = s.qp := rfl
@[simp] theorem State.raCtr_ev (s : State) (g i n : Nat) : (s.raCtr g i n).ev = s.ev := rfl
@[simp] theorem State.raCtr_tm (s : State) (g i n : Nat) : (s.raCtr g i n).tm = s.tm := rfl
@[simp] theorem State.raCtr_hl (s : State) (g i n : Nat) : (s.raCtr g i n).hl = s.hl := rfl
@[simp] theorem State.raCtr_mem (s : State) (g i n : Nat) : (s.raCtr g i n).mem = s.mem := rfl

@[simp] theorem State.setRemKey_pending (s : State) (k : Nat) (e : RemKey) : (s.setRemKey k e).pending = s.pending := rfl
@[simp] theorem State.setRemKey_now (s : State) (k : Nat) (e : RemKey) : (s.setRemKey k e).now = s.now := rfl
@[simp] theorem State.setRemKey_free (s : State) (k : Nat) (e : RemKey) : (s.setRemKey k e).free = s.free := rfl
@[simp] theorem State.setRemKey_out (s : State) (k : Nat) (e : RemKey) : (s.setRemKey k e).out = s.out := rfl
@[simp] theorem State.setRemKey_variant (s : State) (k : Nat) (e : RemKey) : (s.setRemKey k e).variant = s.variant := rfl
@[simp] theorem State.setRemKey_stepping (s : State) (k : Nat) (e : RemKey) : (s.setRemKey k e).stepping = s.stepping := rfl
@[simp] theorem State.setRemKey_board (s : State) (k : Nat) (e : RemKey) : (s.setRemKey k e).board = s.board := rfl
@[simp] theorem State.setRemKey_boot (s : State) (k : Nat) (e : RemKey) : (s.setRemKey k e).boot = s.boot := rfl
@[simp] theorem State.setRemKey_nv (s : State) (k : Nat) (e : RemKey) : (s.setRemKey k e).nv = s.nv := rfl
@[simp] theorem State.setRemKey_ret (s : State) (k : Nat) (e : RemKey) : (s.setRemKey k e).ret = s.ret := rfl
@[simp] theorem State.setRemKey_cfg (s : State) (k : Nat) (e : RemKey) : (s.setRemKey k e).cfg = s.cfg := rfl
@[simp] theorem State.setRemKey_sl (s : State) (k : Nat) (e : RemKey) : (s.setRemKey k e).sl = s.sl := rfl
@[simp] theorem State.setRemKey_et (s : State) (k : Nat) (e : RemKey) : (s.setRemKey k e).et = s.et := rfl
@[simp] theorem State.setRemKey_cn (s : State) (k : Nat) (e : RemKey) : (s.setRemKey k e).cn = s.cn := rfl
@[simp] theorem State.setRemKey_ps (s : State) (k : Nat) (e : RemKey) : (s.setRemKey k e).ps = s.ps := rfl
@[simp] theorem State.setRemKey_cl (s : State) (k : Nat) (e : RemKey) : (s.setRemKey k e).cl = s.cl := rfl
@[simp] theorem State.setRemKey_tb (s : State) (k : Nat) (e : RemKey) : (s.setRemKey k e).tb = s.tb := rfl
@[simp] theorem State.setRemKey_sv (s : State) (k : Nat) (e : RemKey) : (s.setRemKey k e).sv = s.sv := rfl
@[simp] theorem State.setRemKey_nvc (s : State) (k : Nat) (e : RemKey) : (s.setRemKey k e).nvc = s.nvc := rfl
@[simp] theorem State.setRemKey_ci (s : State) (k : Nat) (e : RemKey) : (s.setRemKey k e).ci = s.ci := rfl
@[simp] theorem State.setRemKey_clr (s : State) (k : Nat) (e : RemKey) : (s.setRemKey k e).clr = s.clr := rfl
@[simp] theorem State.setRemKey_sec (s : State) (k : Nat) (e : RemKey) : (s.setRemKey k e).sec = s.sec := rfl
@[simp] theorem State.setRemKey_hp (s : State) (k : Nat) (e : RemKey) : (s.setRemKey k e).hp = s.hp := rfl
@[simp] theorem State.setRemKey_qp (s : State) (k : Nat) (e : RemKey) : (s.setRemKey k e).qp = s.qp := rfl
@[simp] theorem State.setRemKey_ev (s : State) (k : Nat) (e : RemKey) : (s.setRemKey k e).ev = s.ev := rfl
@[simp] theorem State.setRemKey_tm (s : State) (k : Nat) (e : RemKey) : (s.setRemKey k e).tm = s.tm := rfl
@[simp] theorem State.setRemKey_hl (s : State) (k : Nat) (e : RemKey) : (s.setRemKey k e).hl = s.hl := rfl
@[simp] theorem State.setRemKey_mem (s : State) (k : Nat) (e : RemKey) : (s.setRemKey k e).mem = s.mem := rfl

@[simp] theorem State.setMsg_pending (s : State) (c : Nat) (m : TxMsg) : (s.setMsg c m).pending = s.pending := rfl
@[simp] theorem State.setMsg_now (s : State) (c : Nat) (m : TxMsg) : (s.setMsg c m).now = s.now := rfl
@[simp] theorem State.setMsg_free (s : State) (c : Nat) (m : TxMsg) : (s.setMsg c m).free = s.free := rfl
@[simp] theorem State.setMsg_out (s : State) (c : Nat) (m : TxMsg) : (s.setMsg c m).out = s.out := rfl
@[simp] theorem State.setMsg_variant (s : State) (c : Nat) (m : TxMsg) : (s.setMsg c m).variant = s.variant := rfl
@[simp] theorem State.setMsg_stepping (s : State) (c : Nat) (m : TxMsg) : (s.setMsg c m).stepping = s.stepping := rfl
@[simp] theorem State.setMsg_board (s : State) (c : Nat) (m : TxMsg) : (s.setMsg c m).board = s.board := rfl
@[simp] theorem State.setMsg_boot (s : State) (c : Nat) (m : TxMsg) : (s.setMsg c m).boot = s.boot := rfl
@[simp] theorem State.setMsg_nv (s : State) (c : Nat) (m : TxMsg) : (s.setMsg c m).nv = s.nv := rfl
@[simp] theorem State.setMsg_ret (s : State) (c : Nat) (m : TxMsg) : (s.setMsg c m).ret = s.ret := rfl
@[simp] theorem State.setMsg_cfg (s : State) (c : Nat) (m : TxMsg) : (s.setMsg c m).cfg = s.cfg := rfl
@[simp] theorem State.setMsg_sl (s : State) (c : Nat) (m : TxMsg) : (s.setMsg c m).sl = s.sl := rfl
@[simp] theorem State.setMsg_et (s : State) (c : Nat) (m : TxMsg) : (s.setMsg c m).et = s.et := rfl
@[simp] theorem State.setMsg_cn (s : State) (c : Nat) (m : TxMsg) : (s.setMsg c m).cn = s.cn := rfl
@[simp] theorem State.setMsg_ps (s : State) (c : Nat) (m : TxMsg) : (s.setMsg c m).ps = s.ps := rfl
@[simp] theorem State.setMsg_cl (s : State) (c : Nat) (m : TxMsg) : (s.setMsg c m).cl = s.cl := rfl
@[simp] theorem State.setMsg_tb (s : State) (c : Nat) (m : TxMsg) : (s.setMsg c m).tb = s.tb := rfl
@[simp] theorem State.setMsg_sv (s : State) (c : Nat) (m : TxMsg) : (s.setMsg c m).sv = s.sv := rfl
@[simp] theorem State.setMsg_nvc (s : State) (c : Nat) (m : TxMsg) : (s.setMsg c m).nvc = s.nvc := rfl
@[simp] theorem State.setMsg_ci (s : State) (c : Nat) (m : TxMsg) : (s.setMsg c m).ci = s.ci := rfl
@[simp] theorem State.setMsg_clr (s : State) (c : Nat) (m : TxMsg) : (s.setMsg c m).clr = s.clr := rfl
@[simp] theorem State.setMsg_sec (s : State) (c : Nat) (m : TxMsg) : (s.setMsg c m).sec = s.sec := rfl
@[simp] theorem State.setMsg_hp (s : State) (c : Nat) (m : TxMsg) : (s.setMsg c m).hp = s.hp := rfl
@[simp] theorem State.setMsg_qp (s : State) (c : Nat) (m : TxMsg) : (s.setMsg c m).qp = s.qp := rfl
@[simp] theorem State.setMsg_ev (s : State) (c : Nat) (m : TxMsg) : (s.setMsg c m).ev = s.ev := rfl
@[simp] theorem State.setMsg_tm (s : State) (c : Nat) (m : TxMsg) : (s.setMsg c m).tm = s.tm := rfl
@[simp] theorem State.setMsg_hl (s : State) (c : Nat) (m : TxMsg) : (s.setMsg c m).hl = s.hl := rfl
@[simp] theorem State.setMsg_mem (s : State) (c : Nat) (m : TxMsg) : (s.setMsg c m).mem = s.mem := rfl

@[simp] theorem State.setCfgSlot_pending (s : State) (i : Nat) (c : CfgSlot) : (s.setCfgSlot i c).pending = s.pending := rfl
@[simp] theorem State.setCfgSlot_now (s : State) (i : Nat) (c : CfgSlot) : (s.setCfgSlot i c).now = s.now := rfl
@[simp] theorem State.setCfgSlot_free (s : State) (i : Nat) (c : CfgSlot) : (s.setCfgSlot i c).free = s.free := rfl
@[simp] theorem State.setCfgSlot_out (s : State) (i : Nat) (c : CfgSlot) : (s.setCfgSlot i c).out = s.out := rfl
@[simp] theorem State.setCfgSlot_variant (s : State) (i : Nat) (c : CfgSlot) : (s.setCfgSlot i c).variant = s.variant := rfl
@[simp] theorem State.setCfgSlot_stepping (s : State) (i : Nat) (c : CfgSlot) : (s.setCfgSlot i c).stepping = s.stepping :=
    rfl
@[simp] theorem State.setCfgSlot_board (s : State) (i : Nat) (c : CfgSlot) : (s.setCfgSlot i c).board = s.board := rfl
@[simp] theorem State.setCfgSlot_boot (s : State) (i : Nat) (c : CfgSlot) : (s.setCfgSlot i c).boot = s.boot := rfl
@[simp] theorem State.setCfgSlot_ret (s : State) (i : Nat) (c : CfgSlot) : (s.setCfgSlot i c).ret = s.ret := rfl
@[simp] theorem State.setCfgSlot_cfg (s : State) (i : Nat) (c : CfgSlot) : (s.setCfgSlot i c).cfg = s.cfg := rfl
@[simp] theorem State.setCfgSlot_sl (s : State) (i : Nat) (c : CfgSlot) : (s.setCfgSlot i c).sl = s.sl := rfl
@[simp] theorem State.setCfgSlot_et (s : State) (i : Nat) (c : CfgSlot) : (s.setCfgSlot i c).et = s.et := rfl
@[simp] theorem State.setCfgSlot_cn (s : State) (i : Nat) (c : CfgSlot) : (s.setCfgSlot i c).cn = s.cn := rfl
@[simp] theorem State.setCfgSlot_ps (s : State) (i : Nat) (c : CfgSlot) : (s.setCfgSlot i c).ps = s.ps := rfl
@[simp] theorem State.setCfgSlot_cl (s : State) (i : Nat) (c : CfgSlot) : (s.setCfgSlot i c).cl = s.cl := rfl
@[simp] theorem State.setCfgSlot_tb (s : State) (i : Nat) (c : CfgSlot) : (s.setCfgSlot i c).tb = s.tb := rfl
@[simp] theorem State.setCfgSlot_sv (s : State) (i : Nat) (c : CfgSlot) : (s.setCfgSlot i c).sv = s.sv := rfl
@[simp] theorem State.setCfgSlot_nvc (s : State) (i : Nat) (c : CfgSlot) : (s.setCfgSlot i c).nvc = s.nvc := rfl
@[simp] theorem State.setCfgSlot_ra (s : State) (i : Nat) (c : CfgSlot) : (s.setCfgSlot i c).ra = s.ra := rfl
@[simp] theorem State.setCfgSlot_ci (s : State) (i : Nat) (c : CfgSlot) : (s.setCfgSlot i c).ci = s.ci := rfl
@[simp] theorem State.setCfgSlot_clr (s : State) (i : Nat) (c : CfgSlot) : (s.setCfgSlot i c).clr = s.clr := rfl
@[simp] theorem State.setCfgSlot_sec (s : State) (i : Nat) (c : CfgSlot) : (s.setCfgSlot i c).sec = s.sec := rfl
@[simp] theorem State.setCfgSlot_hp (s : State) (i : Nat) (c : CfgSlot) : (s.setCfgSlot i c).hp = s.hp := rfl
@[simp] theorem State.setCfgSlot_qp (s : State) (i : Nat) (c : CfgSlot) : (s.setCfgSlot i c).qp = s.qp := rfl
@[simp] theorem State.setCfgSlot_ev (s : State) (i : Nat) (c : CfgSlot) : (s.setCfgSlot i c).ev = s.ev := rfl
@[simp] theorem State.setCfgSlot_tm (s : State) (i : Nat) (c : CfgSlot) : (s.setCfgSlot i c).tm = s.tm := rfl
@[simp] theorem State.setCfgSlot_hl (s : State) (i : Nat) (c : CfgSlot) : (s.setCfgSlot i c).hl = s.hl := rfl
@[simp] theorem State.setCfgSlot_mem (s : State) (i : Nat) (c : CfgSlot) : (s.setCfgSlot i c).mem = s.mem := rfl

@[simp] theorem State.setFw_pending (s : State) (i : Nat) (f : FwSlot) : (s.setFw i f).pending = s.pending := rfl
@[simp] theorem State.setFw_now (s : State) (i : Nat) (f : FwSlot) : (s.setFw i f).now = s.now := rfl
@[simp] theorem State.setFw_free (s : State) (i : Nat) (f : FwSlot) : (s.setFw i f).free = s.free := rfl
@[simp] theorem State.setFw_out (s : State) (i : Nat) (f : FwSlot) : (s.setFw i f).out = s.out := rfl
@[simp] theorem State.setFw_variant (s : State) (i : Nat) (f : FwSlot) : (s.setFw i f).variant = s.variant := rfl
@[simp] theorem State.setFw_stepping (s : State) (i : Nat) (f : FwSlot) : (s.setFw i f).stepping = s.stepping := rfl
@[simp] theorem State.setFw_board (s : State) (i : Nat) (f : FwSlot) : (s.setFw i f).board = s.board := rfl
@[simp] theorem State.setFw_boot (s : State) (i : Nat) (f : FwSlot) : (s.setFw i f).boot = s.boot := rfl
@[simp] theorem State.setFw_ret (s : State) (i : Nat) (f : FwSlot) : (s.setFw i f).ret = s.ret := rfl
@[simp] theorem State.setFw_cfg (s : State) (i : Nat) (f : FwSlot) : (s.setFw i f).cfg = s.cfg := rfl
@[simp] theorem State.setFw_sl (s : State) (i : Nat) (f : FwSlot) : (s.setFw i f).sl = s.sl := rfl
@[simp] theorem State.setFw_et (s : State) (i : Nat) (f : FwSlot) : (s.setFw i f).et = s.et := rfl
@[simp] theorem State.setFw_cn (s : State) (i : Nat) (f : FwSlot) : (s.setFw i f).cn = s.cn := rfl
@[simp] theorem State.setFw_ps (s : State) (i : Nat) (f : FwSlot) : (s.setFw i f).ps = s.ps := rfl
@[simp] theorem State.setFw_cl (s : State) (i : Nat) (f : FwSlot) : (s.setFw i f).cl = s.cl := rfl
@[simp] theorem State.setFw_tb (s : State) (i : Nat) (f : FwSlot) : (s.setFw i f).tb = s.tb := rfl
@[simp] theorem State.setFw_sv (s : State) (i : Nat) (f : FwSlot) : (s.setFw i f).sv = s.sv := rfl
@[simp] theorem State.setFw_nvc (s : State) (i : Nat) (f : FwSlot) : (s.setFw i f).nvc = s.nvc := rfl
@[simp] theorem State.setFw_ra (s : State) (i : Nat) (f : FwSlot) : (s.setFw i f).ra = s.ra := rfl
@[simp] theorem State.setFw_ci (s : State) (i : Nat) (f : FwSlot) : (s.setFw i f).ci = s.ci := rfl
@[simp] theorem State.setFw_clr (s : State) (i : Nat) (f : FwSlot) : (s.setFw i f).clr = s.clr := rfl
@[simp] theorem State.setFw_sec (s : State) (i : Nat) (f : FwSlot) : (s.setFw i f).sec = s.sec := rfl
@[simp] theorem State.setFw_hp (s : State) (i : Nat) (f : FwSlot) : (s.setFw i f).hp = s.hp := rfl
@[simp] theorem State.setFw_qp (s : State) (i : Nat) (f : FwSlot) : (s.setFw i f).qp = s.qp := rfl
@[simp] theorem State.setFw_ev (s : State) (i : Nat) (f : FwSlot) : (s.setFw i f).ev = s.ev := rfl
@[simp] theorem State.setFw_tm (s : State) (i : Nat) (f : FwSlot) : (s.setFw i f).tm = s.tm := rfl
@[simp] theorem State.setFw_hl (s : State) (i : Nat) (f : FwSlot) : (s.setFw i f).hl = s.hl := rfl
@[simp] theorem State.setFw_mem (s : State) (i : Nat) (f : FwSlot) : (s.setFw i f).mem = s.mem := rfl

@[simp] theorem State.setTbl_pending (s : State) (t : Nat) (x : XTable) :
    (s.setTbl t x).pending = s.pending := by
  unfold State.setTbl; split <;> rfl
@[simp] theorem State.setTbl_now (s : State) (t : Nat) (x : XTable) :
    (s.setTbl t x).now = s.now := by
  unfold State.setTbl; split <;> rfl
@[simp] theorem State.setTbl_free (s : State) (t : Nat) (x : XTable) :
    (s.setTbl t x).free = s.free := by
  unfold State.setTbl; split <;> rfl
@[simp] theorem State.setTbl_out (s : State) (t : Nat) (x : XTable) :
    (s.setTbl t x).out = s.out := by
  unfold State.setTbl; split <;> rfl
@[simp] theorem State.setTbl_variant (s : State) (t : Nat) (x : XTable) :
    (s.setTbl t x).variant = s.variant := by
  unfold State.setTbl; split <;> rfl
@[simp] theorem State.setTbl_stepping (s : State) (t : Nat) (x : XTable) :
    (s.setTbl t x).stepping = s.stepping := by
  unfold State.setTbl; split <;> rfl
@[simp] theorem State.setTbl_board (s : State) (t : Nat) (x : XTable) :
    (s.setTbl t x).board = s.board := by
  unfold State.setTbl; split <;> rfl
@[simp] theorem State.setTbl_boot (s : State) (t : Nat) (x : XTable) :
    (s.setTbl t x).boot = s.boot := by
  unfold State.setTbl; split <;> rfl
@[simp] theorem State.setTbl_nv (s : State) (t : Nat) (x : XTable) :
    (s.setTbl t x).nv = s.nv := by
  unfold State.setTbl; split <;> rfl
@[simp] theorem State.setTbl_ret (s : State) (t : Nat) (x : XTable) :
    (s.setTbl t x).ret = s.ret := by
  unfold State.setTbl; split <;> rfl
@[simp] theorem State.setTbl_cfg (s : State) (t : Nat) (x : XTable) :
    (s.setTbl t x).cfg = s.cfg := by
  unfold State.setTbl; split <;> rfl
@[simp] theorem State.setTbl_sl (s : State) (t : Nat) (x : XTable) :
    (s.setTbl t x).sl = s.sl := by
  unfold State.setTbl; split <;> rfl
@[simp] theorem State.setTbl_et (s : State) (t : Nat) (x : XTable) :
    (s.setTbl t x).et = s.et := by
  unfold State.setTbl; split <;> rfl
@[simp] theorem State.setTbl_cn (s : State) (t : Nat) (x : XTable) :
    (s.setTbl t x).cn = s.cn := by
  unfold State.setTbl; split <;> rfl
@[simp] theorem State.setTbl_ps (s : State) (t : Nat) (x : XTable) :
    (s.setTbl t x).ps = s.ps := by
  unfold State.setTbl; split <;> rfl
@[simp] theorem State.setTbl_cl (s : State) (t : Nat) (x : XTable) :
    (s.setTbl t x).cl = s.cl := by
  unfold State.setTbl; split <;> rfl
@[simp] theorem State.setTbl_sv (s : State) (t : Nat) (x : XTable) :
    (s.setTbl t x).sv = s.sv := by
  unfold State.setTbl; split <;> rfl
@[simp] theorem State.setTbl_nvc (s : State) (t : Nat) (x : XTable) :
    (s.setTbl t x).nvc = s.nvc := by
  unfold State.setTbl; split <;> rfl
@[simp] theorem State.setTbl_ra (s : State) (t : Nat) (x : XTable) :
    (s.setTbl t x).ra = s.ra := by
  unfold State.setTbl; split <;> rfl
@[simp] theorem State.setTbl_ci (s : State) (t : Nat) (x : XTable) :
    (s.setTbl t x).ci = s.ci := by
  unfold State.setTbl; split <;> rfl
@[simp] theorem State.setTbl_clr (s : State) (t : Nat) (x : XTable) :
    (s.setTbl t x).clr = s.clr := by
  unfold State.setTbl; split <;> rfl
@[simp] theorem State.setTbl_sec (s : State) (t : Nat) (x : XTable) :
    (s.setTbl t x).sec = s.sec := by
  unfold State.setTbl; split <;> rfl
@[simp] theorem State.setTbl_hp (s : State) (t : Nat) (x : XTable) :
    (s.setTbl t x).hp = s.hp := by
  unfold State.setTbl; split <;> rfl
@[simp] theorem State.setTbl_qp (s : State) (t : Nat) (x : XTable) :
    (s.setTbl t x).qp = s.qp := by
  unfold State.setTbl; split <;> rfl
@[simp] theorem State.setTbl_ev (s : State) (t : Nat) (x : XTable) :
    (s.setTbl t x).ev = s.ev := by
  unfold State.setTbl; split <;> rfl
@[simp] theorem State.setTbl_tm (s : State) (t : Nat) (x : XTable) :
    (s.setTbl t x).tm = s.tm := by
  unfold State.setTbl; split <;> rfl
@[simp] theorem State.setTbl_hl (s : State) (t : Nat) (x : XTable) :
    (s.setTbl t x).hl = s.hl := by
  unfold State.setTbl; split <;> rfl
@[simp] theorem State.setTbl_mem (s : State) (t : Nat) (x : XTable) :
    (s.setTbl t x).mem = s.mem := by
  unfold State.setTbl; split <;> rfl

@[simp] theorem State.tblCtr_pending (s : State) (t i n : Nat) :
    (s.tblCtr t i n).pending = s.pending := by
  exact State.setTbl_pending ..
@[simp] theorem State.tblCtr_now (s : State) (t i n : Nat) : (s.tblCtr t i n).now = s.now := by
  exact State.setTbl_now ..
@[simp] theorem State.tblCtr_free (s : State) (t i n : Nat) : (s.tblCtr t i n).free = s.free := by
  exact State.setTbl_free ..
@[simp] theorem State.tblCtr_out (s : State) (t i n : Nat) : (s.tblCtr t i n).out = s.out := by
  exact State.setTbl_out ..
@[simp] theorem State.tblCtr_variant (s : State) (t i n : Nat) :
    (s.tblCtr t i n).variant = s.variant := by
  exact State.setTbl_variant ..
@[simp] theorem State.tblCtr_stepping (s : State) (t i n : Nat) :
    (s.tblCtr t i n).stepping = s.stepping := by
  exact State.setTbl_stepping ..
@[simp] theorem State.tblCtr_board (s : State) (t i n : Nat) :
    (s.tblCtr t i n).board = s.board := by
  exact State.setTbl_board ..
@[simp] theorem State.tblCtr_boot (s : State) (t i n : Nat) : (s.tblCtr t i n).boot = s.boot := by
  exact State.setTbl_boot ..
@[simp] theorem State.tblCtr_nv (s : State) (t i n : Nat) : (s.tblCtr t i n).nv = s.nv := by
  exact State.setTbl_nv ..
@[simp] theorem State.tblCtr_ret (s : State) (t i n : Nat) : (s.tblCtr t i n).ret = s.ret := by
  exact State.setTbl_ret ..
@[simp] theorem State.tblCtr_cfg (s : State) (t i n : Nat) : (s.tblCtr t i n).cfg = s.cfg := by
  exact State.setTbl_cfg ..
@[simp] theorem State.tblCtr_sl (s : State) (t i n : Nat) : (s.tblCtr t i n).sl = s.sl := by
  exact State.setTbl_sl ..
@[simp] theorem State.tblCtr_et (s : State) (t i n : Nat) : (s.tblCtr t i n).et = s.et := by
  exact State.setTbl_et ..
@[simp] theorem State.tblCtr_cn (s : State) (t i n : Nat) : (s.tblCtr t i n).cn = s.cn := by
  exact State.setTbl_cn ..
@[simp] theorem State.tblCtr_ps (s : State) (t i n : Nat) : (s.tblCtr t i n).ps = s.ps := by
  exact State.setTbl_ps ..
@[simp] theorem State.tblCtr_cl (s : State) (t i n : Nat) : (s.tblCtr t i n).cl = s.cl := by
  exact State.setTbl_cl ..
@[simp] theorem State.tblCtr_sv (s : State) (t i n : Nat) : (s.tblCtr t i n).sv = s.sv := by
  exact State.setTbl_sv ..
@[simp] theorem State.tblCtr_nvc (s : State) (t i n : Nat) : (s.tblCtr t i n).nvc = s.nvc := by
  exact State.setTbl_nvc ..
@[simp] theorem State.tblCtr_ra (s : State) (t i n : Nat) : (s.tblCtr t i n).ra = s.ra := by
  exact State.setTbl_ra ..
@[simp] theorem State.tblCtr_ci (s : State) (t i n : Nat) : (s.tblCtr t i n).ci = s.ci := by
  exact State.setTbl_ci ..
@[simp] theorem State.tblCtr_clr (s : State) (t i n : Nat) : (s.tblCtr t i n).clr = s.clr := by
  exact State.setTbl_clr ..
@[simp] theorem State.tblCtr_sec (s : State) (t i n : Nat) : (s.tblCtr t i n).sec = s.sec := by
  exact State.setTbl_sec ..
@[simp] theorem State.tblCtr_hp (s : State) (t i n : Nat) : (s.tblCtr t i n).hp = s.hp := by
  exact State.setTbl_hp ..
@[simp] theorem State.tblCtr_qp (s : State) (t i n : Nat) : (s.tblCtr t i n).qp = s.qp := by
  exact State.setTbl_qp ..
@[simp] theorem State.tblCtr_ev (s : State) (t i n : Nat) : (s.tblCtr t i n).ev = s.ev := by
  exact State.setTbl_ev ..
@[simp] theorem State.tblCtr_tm (s : State) (t i n : Nat) : (s.tblCtr t i n).tm = s.tm := by
  exact State.setTbl_tm ..
@[simp] theorem State.tblCtr_hl (s : State) (t i n : Nat) : (s.tblCtr t i n).hl = s.hl := by
  exact State.setTbl_hl ..
@[simp] theorem State.tblCtr_mem (s : State) (t i n : Nat) : (s.tblCtr t i n).mem = s.mem := by
  exact State.setTbl_mem ..

@[simp] theorem State.setTblSet_pending (s : State) (src : Nat) (x : TblSet) : (s.setTblSet src x).pending = s.pending :=
    rfl
@[simp] theorem State.setTblSet_now (s : State) (src : Nat) (x : TblSet) : (s.setTblSet src x).now = s.now := rfl
@[simp] theorem State.setTblSet_free (s : State) (src : Nat) (x : TblSet) : (s.setTblSet src x).free = s.free := rfl
@[simp] theorem State.setTblSet_out (s : State) (src : Nat) (x : TblSet) : (s.setTblSet src x).out = s.out := rfl
@[simp] theorem State.setTblSet_variant (s : State) (src : Nat) (x : TblSet) : (s.setTblSet src x).variant = s.variant :=
    rfl
@[simp] theorem State.setTblSet_stepping (s : State) (src : Nat) (x : TblSet) : (s.setTblSet src x).stepping = s.stepping :=
    rfl
@[simp] theorem State.setTblSet_board (s : State) (src : Nat) (x : TblSet) : (s.setTblSet src x).board = s.board := rfl
@[simp] theorem State.setTblSet_boot (s : State) (src : Nat) (x : TblSet) : (s.setTblSet src x).boot = s.boot := rfl
@[simp] theorem State.setTblSet_nv (s : State) (src : Nat) (x : TblSet) : (s.setTblSet src x).nv = s.nv := rfl
@[simp] theorem State.setTblSet_ret (s : State) (src : Nat) (x : TblSet) : (s.setTblSet src x).ret = s.ret := rfl
@[simp] theorem State.setTblSet_cfg (s : State) (src : Nat) (x : TblSet) : (s.setTblSet src x).cfg = s.cfg := rfl
@[simp] theorem State.setTblSet_sl (s : State) (src : Nat) (x : TblSet) : (s.setTblSet src x).sl = s.sl := rfl
@[simp] theorem State.setTblSet_et (s : State) (src : Nat) (x : TblSet) : (s.setTblSet src x).et = s.et := rfl
@[simp] theorem State.setTblSet_cn (s : State) (src : Nat) (x : TblSet) : (s.setTblSet src x).cn = s.cn := rfl
@[simp] theorem State.setTblSet_ps (s : State) (src : Nat) (x : TblSet) : (s.setTblSet src x).ps = s.ps := rfl
@[simp] theorem State.setTblSet_cl (s : State) (src : Nat) (x : TblSet) : (s.setTblSet src x).cl = s.cl := rfl
@[simp] theorem State.setTblSet_sv (s : State) (src : Nat) (x : TblSet) : (s.setTblSet src x).sv = s.sv := rfl
@[simp] theorem State.setTblSet_nvc (s : State) (src : Nat) (x : TblSet) : (s.setTblSet src x).nvc = s.nvc := rfl
@[simp] theorem State.setTblSet_ra (s : State) (src : Nat) (x : TblSet) : (s.setTblSet src x).ra = s.ra := rfl
@[simp] theorem State.setTblSet_ci (s : State) (src : Nat) (x : TblSet) : (s.setTblSet src x).ci = s.ci := rfl
@[simp] theorem State.setTblSet_clr (s : State) (src : Nat) (x : TblSet) : (s.setTblSet src x).clr = s.clr := rfl
@[simp] theorem State.setTblSet_sec (s : State) (src : Nat) (x : TblSet) : (s.setTblSet src x).sec = s.sec := rfl
@[simp] theorem State.setTblSet_hp (s : State) (src : Nat) (x : TblSet) : (s.setTblSet src x).hp = s.hp := rfl
@[simp] theorem State.setTblSet_qp (s : State) (src : Nat) (x : TblSet) : (s.setTblSet src x).qp = s.qp := rfl
@[simp] theorem State.setTblSet_ev (s : State) (src : Nat) (x : TblSet) : (s.setTblSet src x).ev = s.ev := rfl
@[simp] theorem State.setTblSet_tm (s : State) (src : Nat) (x : TblSet) : (s.setTblSet src x).tm = s.tm := rfl
@[simp] theorem State.setTblSet_hl (s : State) (src : Nat) (x : TblSet) : (s.setTblSet src x).hl = s.hl := rfl
@[simp] theorem State.setTblSet_mem (s : State) (src : Nat) (x : TblSet) : (s.setTblSet src x).mem = s.mem := rfl

@[simp] theorem State.upTo_pending (s : State) (t : Nat) : (s.upTo t).pending = s.pending := rfl
@[simp] theorem State.upTo_free (s : State) (t : Nat) : (s.upTo t).free = s.free := rfl
@[simp] theorem State.upTo_out (s : State) (t : Nat) : (s.upTo t).out = s.out := rfl
@[simp] theorem State.upTo_variant (s : State) (t : Nat) : (s.upTo t).variant = s.variant := rfl
@[simp] theorem State.upTo_stepping (s : State) (t : Nat) : (s.upTo t).stepping = s.stepping := rfl
@[simp] theorem State.upTo_board (s : State) (t : Nat) : (s.upTo t).board = s.board := rfl
@[simp] theorem State.upTo_boot (s : State) (t : Nat) : (s.upTo t).boot = s.boot := rfl
@[simp] theorem State.upTo_nv (s : State) (t : Nat) : (s.upTo t).nv = s.nv := rfl
@[simp] theorem State.upTo_ret (s : State) (t : Nat) : (s.upTo t).ret = s.ret := rfl
@[simp] theorem State.upTo_cfg (s : State) (t : Nat) : (s.upTo t).cfg = s.cfg := rfl
@[simp] theorem State.upTo_sl (s : State) (t : Nat) : (s.upTo t).sl = s.sl := rfl
@[simp] theorem State.upTo_et (s : State) (t : Nat) : (s.upTo t).et = s.et := rfl
@[simp] theorem State.upTo_cn (s : State) (t : Nat) : (s.upTo t).cn = s.cn := rfl
@[simp] theorem State.upTo_ps (s : State) (t : Nat) : (s.upTo t).ps = s.ps := rfl
@[simp] theorem State.upTo_cl (s : State) (t : Nat) : (s.upTo t).cl = s.cl := rfl
@[simp] theorem State.upTo_tb (s : State) (t : Nat) : (s.upTo t).tb = s.tb := rfl
@[simp] theorem State.upTo_sv (s : State) (t : Nat) : (s.upTo t).sv = s.sv := rfl
@[simp] theorem State.upTo_nvc (s : State) (t : Nat) : (s.upTo t).nvc = s.nvc := rfl
@[simp] theorem State.upTo_ra (s : State) (t : Nat) : (s.upTo t).ra = s.ra := rfl
@[simp] theorem State.upTo_ci (s : State) (t : Nat) : (s.upTo t).ci = s.ci := rfl
@[simp] theorem State.upTo_clr (s : State) (t : Nat) : (s.upTo t).clr = s.clr := rfl
@[simp] theorem State.upTo_sec (s : State) (t : Nat) : (s.upTo t).sec = s.sec := rfl
@[simp] theorem State.upTo_hp (s : State) (t : Nat) : (s.upTo t).hp = s.hp := rfl
@[simp] theorem State.upTo_qp (s : State) (t : Nat) : (s.upTo t).qp = s.qp := rfl
@[simp] theorem State.upTo_ev (s : State) (t : Nat) : (s.upTo t).ev = s.ev := rfl
@[simp] theorem State.upTo_tm (s : State) (t : Nat) : (s.upTo t).tm = s.tm := rfl
@[simp] theorem State.upTo_hl (s : State) (t : Nat) : (s.upTo t).hl = s.hl := rfl
@[simp] theorem State.upTo_mem (s : State) (t : Nat) : (s.upTo t).mem = s.mem := rfl

@[simp] theorem State.emit_pending (s : State) (o : Out) : (s.emit o).pending = s.pending := rfl
@[simp] theorem State.emit_now (s : State) (o : Out) : (s.emit o).now = s.now := rfl
@[simp] theorem State.emit_free (s : State) (o : Out) : (s.emit o).free = s.free := rfl
@[simp] theorem State.emit_variant (s : State) (o : Out) : (s.emit o).variant = s.variant := rfl
@[simp] theorem State.emit_stepping (s : State) (o : Out) : (s.emit o).stepping = s.stepping := rfl
@[simp] theorem State.emit_board (s : State) (o : Out) : (s.emit o).board = s.board := rfl
@[simp] theorem State.emit_boot (s : State) (o : Out) : (s.emit o).boot = s.boot := rfl
@[simp] theorem State.emit_nv (s : State) (o : Out) : (s.emit o).nv = s.nv := rfl
@[simp] theorem State.emit_ret (s : State) (o : Out) : (s.emit o).ret = s.ret := rfl
@[simp] theorem State.emit_cfg (s : State) (o : Out) : (s.emit o).cfg = s.cfg := rfl
@[simp] theorem State.emit_sl (s : State) (o : Out) : (s.emit o).sl = s.sl := rfl
@[simp] theorem State.emit_et (s : State) (o : Out) : (s.emit o).et = s.et := rfl
@[simp] theorem State.emit_cn (s : State) (o : Out) : (s.emit o).cn = s.cn := rfl
@[simp] theorem State.emit_ps (s : State) (o : Out) : (s.emit o).ps = s.ps := rfl
@[simp] theorem State.emit_cl (s : State) (o : Out) : (s.emit o).cl = s.cl := rfl
@[simp] theorem State.emit_tb (s : State) (o : Out) : (s.emit o).tb = s.tb := rfl
@[simp] theorem State.emit_sv (s : State) (o : Out) : (s.emit o).sv = s.sv := rfl
@[simp] theorem State.emit_nvc (s : State) (o : Out) : (s.emit o).nvc = s.nvc := rfl
@[simp] theorem State.emit_ra (s : State) (o : Out) : (s.emit o).ra = s.ra := rfl
@[simp] theorem State.emit_ci (s : State) (o : Out) : (s.emit o).ci = s.ci := rfl
@[simp] theorem State.emit_clr (s : State) (o : Out) : (s.emit o).clr = s.clr := rfl
@[simp] theorem State.emit_sec (s : State) (o : Out) : (s.emit o).sec = s.sec := rfl
@[simp] theorem State.emit_hp (s : State) (o : Out) : (s.emit o).hp = s.hp := rfl
@[simp] theorem State.emit_qp (s : State) (o : Out) : (s.emit o).qp = s.qp := rfl
@[simp] theorem State.emit_ev (s : State) (o : Out) : (s.emit o).ev = s.ev := rfl
@[simp] theorem State.emit_tm (s : State) (o : Out) : (s.emit o).tm = s.tm := rfl
@[simp] theorem State.emit_hl (s : State) (o : Out) : (s.emit o).hl = s.hl := rfl
@[simp] theorem State.emit_mem (s : State) (o : Out) : (s.emit o).mem = s.mem := rfl

@[simp] theorem State.drawn_pending (s : State) (n : Nat) : (s.drawn n).pending = s.pending := rfl
@[simp] theorem State.drawn_now (s : State) (n : Nat) : (s.drawn n).now = s.now := rfl
@[simp] theorem State.drawn_out (s : State) (n : Nat) : (s.drawn n).out = s.out := rfl
@[simp] theorem State.drawn_variant (s : State) (n : Nat) : (s.drawn n).variant = s.variant := rfl
@[simp] theorem State.drawn_stepping (s : State) (n : Nat) : (s.drawn n).stepping = s.stepping := rfl
@[simp] theorem State.drawn_board (s : State) (n : Nat) : (s.drawn n).board = s.board := rfl
@[simp] theorem State.drawn_boot (s : State) (n : Nat) : (s.drawn n).boot = s.boot := rfl
@[simp] theorem State.drawn_nv (s : State) (n : Nat) : (s.drawn n).nv = s.nv := rfl
@[simp] theorem State.drawn_ret (s : State) (n : Nat) : (s.drawn n).ret = s.ret := rfl
@[simp] theorem State.drawn_cfg (s : State) (n : Nat) : (s.drawn n).cfg = s.cfg := rfl
@[simp] theorem State.drawn_sl (s : State) (n : Nat) : (s.drawn n).sl = s.sl := rfl
@[simp] theorem State.drawn_et (s : State) (n : Nat) : (s.drawn n).et = s.et := rfl
@[simp] theorem State.drawn_cn (s : State) (n : Nat) : (s.drawn n).cn = s.cn := rfl
@[simp] theorem State.drawn_ps (s : State) (n : Nat) : (s.drawn n).ps = s.ps := rfl
@[simp] theorem State.drawn_cl (s : State) (n : Nat) : (s.drawn n).cl = s.cl := rfl
@[simp] theorem State.drawn_tb (s : State) (n : Nat) : (s.drawn n).tb = s.tb := rfl
@[simp] theorem State.drawn_sv (s : State) (n : Nat) : (s.drawn n).sv = s.sv := rfl
@[simp] theorem State.drawn_nvc (s : State) (n : Nat) : (s.drawn n).nvc = s.nvc := rfl
@[simp] theorem State.drawn_ra (s : State) (n : Nat) : (s.drawn n).ra = s.ra := rfl
@[simp] theorem State.drawn_ci (s : State) (n : Nat) : (s.drawn n).ci = s.ci := rfl
@[simp] theorem State.drawn_clr (s : State) (n : Nat) : (s.drawn n).clr = s.clr := rfl
@[simp] theorem State.drawn_sec (s : State) (n : Nat) : (s.drawn n).sec = s.sec := rfl
@[simp] theorem State.drawn_hp (s : State) (n : Nat) : (s.drawn n).hp = s.hp := rfl
@[simp] theorem State.drawn_qp (s : State) (n : Nat) : (s.drawn n).qp = s.qp := rfl
@[simp] theorem State.drawn_ev (s : State) (n : Nat) : (s.drawn n).ev = s.ev := rfl
@[simp] theorem State.drawn_tm (s : State) (n : Nat) : (s.drawn n).tm = s.tm := rfl
@[simp] theorem State.drawn_hl (s : State) (n : Nat) : (s.drawn n).hl = s.hl := rfl
@[simp] theorem State.drawn_mem (s : State) (n : Nat) : (s.drawn n).mem = s.mem := rfl

@[simp] theorem State.tmSet_pending (s : State) (f : TimeSt → TimeSt) : (s.tmSet f).pending = s.pending := rfl
@[simp] theorem State.tmSet_now (s : State) (f : TimeSt → TimeSt) : (s.tmSet f).now = s.now := rfl
@[simp] theorem State.tmSet_free (s : State) (f : TimeSt → TimeSt) : (s.tmSet f).free = s.free := rfl
@[simp] theorem State.tmSet_out (s : State) (f : TimeSt → TimeSt) : (s.tmSet f).out = s.out := rfl
@[simp] theorem State.tmSet_variant (s : State) (f : TimeSt → TimeSt) : (s.tmSet f).variant = s.variant := rfl
@[simp] theorem State.tmSet_stepping (s : State) (f : TimeSt → TimeSt) : (s.tmSet f).stepping = s.stepping := rfl
@[simp] theorem State.tmSet_board (s : State) (f : TimeSt → TimeSt) : (s.tmSet f).board = s.board := rfl
@[simp] theorem State.tmSet_boot (s : State) (f : TimeSt → TimeSt) : (s.tmSet f).boot = s.boot := rfl
@[simp] theorem State.tmSet_nv (s : State) (f : TimeSt → TimeSt) : (s.tmSet f).nv = s.nv := rfl
@[simp] theorem State.tmSet_ret (s : State) (f : TimeSt → TimeSt) : (s.tmSet f).ret = s.ret := rfl
@[simp] theorem State.tmSet_cfg (s : State) (f : TimeSt → TimeSt) : (s.tmSet f).cfg = s.cfg := rfl
@[simp] theorem State.tmSet_sl (s : State) (f : TimeSt → TimeSt) : (s.tmSet f).sl = s.sl := rfl
@[simp] theorem State.tmSet_et (s : State) (f : TimeSt → TimeSt) : (s.tmSet f).et = s.et := rfl
@[simp] theorem State.tmSet_cn (s : State) (f : TimeSt → TimeSt) : (s.tmSet f).cn = s.cn := rfl
@[simp] theorem State.tmSet_ps (s : State) (f : TimeSt → TimeSt) : (s.tmSet f).ps = s.ps := rfl
@[simp] theorem State.tmSet_cl (s : State) (f : TimeSt → TimeSt) : (s.tmSet f).cl = s.cl := rfl
@[simp] theorem State.tmSet_tb (s : State) (f : TimeSt → TimeSt) : (s.tmSet f).tb = s.tb := rfl
@[simp] theorem State.tmSet_sv (s : State) (f : TimeSt → TimeSt) : (s.tmSet f).sv = s.sv := rfl
@[simp] theorem State.tmSet_nvc (s : State) (f : TimeSt → TimeSt) : (s.tmSet f).nvc = s.nvc := rfl
@[simp] theorem State.tmSet_ra (s : State) (f : TimeSt → TimeSt) : (s.tmSet f).ra = s.ra := rfl
@[simp] theorem State.tmSet_ci (s : State) (f : TimeSt → TimeSt) : (s.tmSet f).ci = s.ci := rfl
@[simp] theorem State.tmSet_clr (s : State) (f : TimeSt → TimeSt) : (s.tmSet f).clr = s.clr := rfl
@[simp] theorem State.tmSet_sec (s : State) (f : TimeSt → TimeSt) : (s.tmSet f).sec = s.sec := rfl
@[simp] theorem State.tmSet_hp (s : State) (f : TimeSt → TimeSt) : (s.tmSet f).hp = s.hp := rfl
@[simp] theorem State.tmSet_qp (s : State) (f : TimeSt → TimeSt) : (s.tmSet f).qp = s.qp := rfl
@[simp] theorem State.tmSet_ev (s : State) (f : TimeSt → TimeSt) : (s.tmSet f).ev = s.ev := rfl
@[simp] theorem State.tmSet_hl (s : State) (f : TimeSt → TimeSt) : (s.tmSet f).hl = s.hl := rfl
@[simp] theorem State.tmSet_mem (s : State) (f : TimeSt → TimeSt) : (s.tmSet f).mem = s.mem := rfl

@[simp] theorem State.modFrame_pending (s : State) (t : Nat) (k : FrameRec → FrameRec) :
    (s.modFrame t k).pending = s.pending := by
  unfold State.modFrame; split <;> rfl
@[simp] theorem State.modFrame_now (s : State) (t : Nat) (k : FrameRec → FrameRec) :
    (s.modFrame t k).now = s.now := by
  unfold State.modFrame; split <;> rfl
@[simp] theorem State.modFrame_free (s : State) (t : Nat) (k : FrameRec → FrameRec) :
    (s.modFrame t k).free = s.free := by
  unfold State.modFrame; split <;> rfl
@[simp] theorem State.modFrame_out (s : State) (t : Nat) (k : FrameRec → FrameRec) :
    (s.modFrame t k).out = s.out := by
  unfold State.modFrame; split <;> rfl
@[simp] theorem State.modFrame_variant (s : State) (t : Nat) (k : FrameRec → FrameRec) :
    (s.modFrame t k).variant = s.variant := by
  unfold State.modFrame; split <;> rfl
@[simp] theorem State.modFrame_stepping (s : State) (t : Nat) (k : FrameRec → FrameRec) :
    (s.modFrame t k).stepping = s.stepping := by
  unfold State.modFrame; split <;> rfl
@[simp] theorem State.modFrame_board (s : State) (t : Nat) (k : FrameRec → FrameRec) :
    (s.modFrame t k).board = s.board := by
  unfold State.modFrame; split <;> rfl
@[simp] theorem State.modFrame_boot (s : State) (t : Nat) (k : FrameRec → FrameRec) :
    (s.modFrame t k).boot = s.boot := by
  unfold State.modFrame; split <;> rfl
@[simp] theorem State.modFrame_nv (s : State) (t : Nat) (k : FrameRec → FrameRec) :
    (s.modFrame t k).nv = s.nv := by
  unfold State.modFrame; split <;> rfl
@[simp] theorem State.modFrame_ret (s : State) (t : Nat) (k : FrameRec → FrameRec) :
    (s.modFrame t k).ret = s.ret := by
  unfold State.modFrame; split <;> rfl
@[simp] theorem State.modFrame_cfg (s : State) (t : Nat) (k : FrameRec → FrameRec) :
    (s.modFrame t k).cfg = s.cfg := by
  unfold State.modFrame; split <;> rfl
@[simp] theorem State.modFrame_sl (s : State) (t : Nat) (k : FrameRec → FrameRec) :
    (s.modFrame t k).sl = s.sl := by
  unfold State.modFrame; split <;> rfl
@[simp] theorem State.modFrame_et (s : State) (t : Nat) (k : FrameRec → FrameRec) :
    (s.modFrame t k).et = s.et := by
  unfold State.modFrame; split <;> rfl
@[simp] theorem State.modFrame_ps (s : State) (t : Nat) (k : FrameRec → FrameRec) :
    (s.modFrame t k).ps = s.ps := by
  unfold State.modFrame; split <;> rfl
@[simp] theorem State.modFrame_cl (s : State) (t : Nat) (k : FrameRec → FrameRec) :
    (s.modFrame t k).cl = s.cl := by
  unfold State.modFrame; split <;> rfl
@[simp] theorem State.modFrame_tb (s : State) (t : Nat) (k : FrameRec → FrameRec) :
    (s.modFrame t k).tb = s.tb := by
  unfold State.modFrame; split <;> rfl
@[simp] theorem State.modFrame_sv (s : State) (t : Nat) (k : FrameRec → FrameRec) :
    (s.modFrame t k).sv = s.sv := by
  unfold State.modFrame; split <;> rfl
@[simp] theorem State.modFrame_nvc (s : State) (t : Nat) (k : FrameRec → FrameRec) :
    (s.modFrame t k).nvc = s.nvc := by
  unfold State.modFrame; split <;> rfl
@[simp] theorem State.modFrame_ra (s : State) (t : Nat) (k : FrameRec → FrameRec) :
    (s.modFrame t k).ra = s.ra := by
  unfold State.modFrame; split <;> rfl
@[simp] theorem State.modFrame_ci (s : State) (t : Nat) (k : FrameRec → FrameRec) :
    (s.modFrame t k).ci = s.ci := by
  unfold State.modFrame; split <;> rfl
@[simp] theorem State.modFrame_clr (s : State) (t : Nat) (k : FrameRec → FrameRec) :
    (s.modFrame t k).clr = s.clr := by
  unfold State.modFrame; split <;> rfl
@[simp] theorem State.modFrame_sec (s : State) (t : Nat) (k : FrameRec → FrameRec) :
    (s.modFrame t k).sec = s.sec := by
  unfold State.modFrame; split <;> rfl
@[simp] theorem State.modFrame_hp (s : State) (t : Nat) (k : FrameRec → FrameRec) :
    (s.modFrame t k).hp = s.hp := by
  unfold State.modFrame; split <;> rfl
@[simp] theorem State.modFrame_qp (s : State) (t : Nat) (k : FrameRec → FrameRec) :
    (s.modFrame t k).qp = s.qp := by
  unfold State.modFrame; split <;> rfl
@[simp] theorem State.modFrame_ev (s : State) (t : Nat) (k : FrameRec → FrameRec) :
    (s.modFrame t k).ev = s.ev := by
  unfold State.modFrame; split <;> rfl
@[simp] theorem State.modFrame_tm (s : State) (t : Nat) (k : FrameRec → FrameRec) :
    (s.modFrame t k).tm = s.tm := by
  unfold State.modFrame; split <;> rfl
@[simp] theorem State.modFrame_hl (s : State) (t : Nat) (k : FrameRec → FrameRec) :
    (s.modFrame t k).hl = s.hl := by
  unfold State.modFrame; split <;> rfl
@[simp] theorem State.modFrame_mem (s : State) (t : Nat) (k : FrameRec → FrameRec) :
    (s.modFrame t k).mem = s.mem := by
  unfold State.modFrame; split <;> rfl

@[simp] theorem State.memPut_pending (s : State) (a : Nat) (b : List Byte) : (s.memPut a b).pending = s.pending := rfl
@[simp] theorem State.memPut_now (s : State) (a : Nat) (b : List Byte) : (s.memPut a b).now = s.now := rfl
@[simp] theorem State.memPut_free (s : State) (a : Nat) (b : List Byte) : (s.memPut a b).free = s.free := rfl
@[simp] theorem State.memPut_out (s : State) (a : Nat) (b : List Byte) : (s.memPut a b).out = s.out := rfl
@[simp] theorem State.memPut_variant (s : State) (a : Nat) (b : List Byte) : (s.memPut a b).variant = s.variant := rfl
@[simp] theorem State.memPut_stepping (s : State) (a : Nat) (b : List Byte) : (s.memPut a b).stepping = s.stepping := rfl
@[simp] theorem State.memPut_board (s : State) (a : Nat) (b : List Byte) : (s.memPut a b).board = s.board := rfl
@[simp] theorem State.memPut_boot (s : State) (a : Nat) (b : List Byte) : (s.memPut a b).boot = s.boot := rfl
@[simp] theorem State.memPut_nv (s : State) (a : Nat) (b : List Byte) : (s.memPut a b).nv = s.nv := rfl
@[simp] theorem State.memPut_ret (s : State) (a : Nat) (b : List Byte) : (s.memPut a b).ret = s.ret := rfl
@[simp] theorem State.memPut_cfg (s : State) (a : Nat) (b : List Byte) : (s.memPut a b).cfg = s.cfg := rfl
@[simp] theorem State.memPut_sl (s : State) (a : Nat) (b : List Byte) : (s.memPut a b).sl = s.sl := rfl
@[simp] theorem State.memPut_et (s : State) (a : Nat) (b : List Byte) : (s.memPut a b).et = s.et := rfl
@[simp] theorem State.memPut_cn (s : State) (a : Nat) (b : List Byte) : (s.memPut a b).cn = s.cn := rfl
@[simp] theorem State.memPut_ps (s : State) (a : Nat) (b : List Byte) : (s.memPut a b).ps = s.ps := rfl
@[simp] theorem State.memPut_cl (s : State) (a : Nat) (b : List Byte) : (s.memPut a b).cl = s.cl := rfl
@[simp] theorem State.memPut_tb (s : State) (a : Nat) (b : List Byte) : (s.memPut a b).tb = s.tb := rfl
@[simp] theorem State.memPut_sv (s : State) (a : Nat) (b : List Byte) : (s.memPut a b).sv = s.sv := rfl
@[simp] theorem State.memPut_nvc (s : State) (a : Nat) (b : List Byte) : (s.memPut a b).nvc = s.nvc := rfl
@[simp] theorem State.memPut_ra (s : State) (a : Nat) (b : List Byte) : (s.memPut a b).ra = s.ra := rfl
@[simp] theorem State.memPut_ci (s : State) (a : Nat) (b : List Byte) : (s.memPut a b).ci = s.ci := rfl
@[simp] theorem State.memPut_clr (s : State) (a : Nat) (b : List Byte) : (s.memPut a b).clr = s.clr := rfl
@[simp] theorem State.memPut_sec (s : State) (a : Nat) (b : List Byte) : (s.memPut a b).sec = s.sec := rfl
@[simp] theorem State.memPut_hp (s : State) (a : Nat) (b : List Byte) : (s.memPut a b).hp = s.hp := rfl
@[simp] theorem State.memPut_qp (s : State) (a : Nat) (b : List Byte) : (s.memPut a b).qp = s.qp := rfl
@[simp] theorem State.memPut_ev (s : State) (a : Nat) (b : List Byte) : (s.memPut a b).ev = s.ev := rfl
@[simp] theorem State.memPut_tm (s : State) (a : Nat) (b : List Byte) : (s.memPut a b).tm = s.tm := rfl

@[simp] theorem State.zeroize_pending (s : State) (base size : Nat) : (s.zeroize base size).pending = s.pending := rfl
@[simp] theorem State.zeroize_now (s : State) (base size : Nat) : (s.zeroize base size).now = s.now := rfl
@[simp] theorem State.zeroize_free (s : State) (base size : Nat) : (s.zeroize base size).free = s.free := rfl
@[simp] theorem State.zeroize_out (s : State) (base size : Nat) : (s.zeroize base size).out = s.out := rfl
@[simp] theorem State.zeroize_variant (s : State) (base size : Nat) : (s.zeroize base size).variant = s.variant := rfl
@[simp] theorem State.zeroize_stepping (s : State) (base size : Nat) : (s.zeroize base size).stepping = s.stepping := rfl
@[simp] theorem State.zeroize_board (s : State) (base size : Nat) : (s.zeroize base size).board = s.board := rfl
@[simp] theorem State.zeroize_boot (s : State) (base size : Nat) : (s.zeroize base size).boot = s.boot := rfl
@[simp] theorem State.zeroize_nv (s : State) (base size : Nat) : (s.zeroize base size).nv = s.nv := rfl
@[simp] theorem State.zeroize_ret (s : State) (base size : Nat) : (s.zeroize base size).ret = s.ret := rfl
@[simp] theorem State.zeroize_cfg (s : State) (base size : Nat) : (s.zeroize base size).cfg = s.cfg := rfl
@[simp] theorem State.zeroize_sl (s : State) (base size : Nat) : (s.zeroize base size).sl = s.sl := rfl
@[simp] theorem State.zeroize_et (s : State) (base size : Nat) : (s.zeroize base size).et = s.et := rfl
@[simp] theorem State.zeroize_cn (s : State) (base size : Nat) : (s.zeroize base size).cn = s.cn := rfl
@[simp] theorem State.zeroize_ps (s : State) (base size : Nat) : (s.zeroize base size).ps = s.ps := rfl
@[simp] theorem State.zeroize_cl (s : State) (base size : Nat) : (s.zeroize base size).cl = s.cl := rfl
@[simp] theorem State.zeroize_tb (s : State) (base size : Nat) : (s.zeroize base size).tb = s.tb := rfl
@[simp] theorem State.zeroize_sv (s : State) (base size : Nat) : (s.zeroize base size).sv = s.sv := rfl
@[simp] theorem State.zeroize_nvc (s : State) (base size : Nat) : (s.zeroize base size).nvc = s.nvc := rfl
@[simp] theorem State.zeroize_ra (s : State) (base size : Nat) : (s.zeroize base size).ra = s.ra := rfl
@[simp] theorem State.zeroize_ci (s : State) (base size : Nat) : (s.zeroize base size).ci = s.ci := rfl
@[simp] theorem State.zeroize_clr (s : State) (base size : Nat) : (s.zeroize base size).clr = s.clr := rfl
@[simp] theorem State.zeroize_sec (s : State) (base size : Nat) : (s.zeroize base size).sec = s.sec := rfl
@[simp] theorem State.zeroize_hp (s : State) (base size : Nat) : (s.zeroize base size).hp = s.hp := rfl
@[simp] theorem State.zeroize_qp (s : State) (base size : Nat) : (s.zeroize base size).qp = s.qp := rfl
@[simp] theorem State.zeroize_ev (s : State) (base size : Nat) : (s.zeroize base size).ev = s.ev := rfl
@[simp] theorem State.zeroize_tm (s : State) (base size : Nat) : (s.zeroize base size).tm = s.tm := rfl

@[simp] theorem State.hostTblCtr_pending (s : State) (i n : Nat) : (s.hostTblCtr i n).pending = s.pending := rfl
@[simp] theorem State.hostTblCtr_now (s : State) (i n : Nat) : (s.hostTblCtr i n).now = s.now := rfl
@[simp] theorem State.hostTblCtr_free (s : State) (i n : Nat) : (s.hostTblCtr i n).free = s.free := rfl
@[simp] theorem State.hostTblCtr_out (s : State) (i n : Nat) : (s.hostTblCtr i n).out = s.out := rfl
@[simp] theorem State.hostTblCtr_variant (s : State) (i n : Nat) : (s.hostTblCtr i n).variant = s.variant := rfl
@[simp] theorem State.hostTblCtr_stepping (s : State) (i n : Nat) : (s.hostTblCtr i n).stepping = s.stepping := rfl
@[simp] theorem State.hostTblCtr_board (s : State) (i n : Nat) : (s.hostTblCtr i n).board = s.board := rfl
@[simp] theorem State.hostTblCtr_boot (s : State) (i n : Nat) : (s.hostTblCtr i n).boot = s.boot := rfl
@[simp] theorem State.hostTblCtr_nv (s : State) (i n : Nat) : (s.hostTblCtr i n).nv = s.nv := rfl
@[simp] theorem State.hostTblCtr_ret (s : State) (i n : Nat) : (s.hostTblCtr i n).ret = s.ret := rfl
@[simp] theorem State.hostTblCtr_cfg (s : State) (i n : Nat) : (s.hostTblCtr i n).cfg = s.cfg := rfl
@[simp] theorem State.hostTblCtr_sl (s : State) (i n : Nat) : (s.hostTblCtr i n).sl = s.sl := rfl
@[simp] theorem State.hostTblCtr_et (s : State) (i n : Nat) : (s.hostTblCtr i n).et = s.et := rfl
@[simp] theorem State.hostTblCtr_cn (s : State) (i n : Nat) : (s.hostTblCtr i n).cn = s.cn := rfl
@[simp] theorem State.hostTblCtr_ps (s : State) (i n : Nat) : (s.hostTblCtr i n).ps = s.ps := rfl
@[simp] theorem State.hostTblCtr_cl (s : State) (i n : Nat) : (s.hostTblCtr i n).cl = s.cl := rfl
@[simp] theorem State.hostTblCtr_sv (s : State) (i n : Nat) : (s.hostTblCtr i n).sv = s.sv := rfl
@[simp] theorem State.hostTblCtr_nvc (s : State) (i n : Nat) : (s.hostTblCtr i n).nvc = s.nvc := rfl
@[simp] theorem State.hostTblCtr_ra (s : State) (i n : Nat) : (s.hostTblCtr i n).ra = s.ra := rfl
@[simp] theorem State.hostTblCtr_ci (s : State) (i n : Nat) : (s.hostTblCtr i n).ci = s.ci := rfl
@[simp] theorem State.hostTblCtr_clr (s : State) (i n : Nat) : (s.hostTblCtr i n).clr = s.clr := rfl
@[simp] theorem State.hostTblCtr_sec (s : State) (i n : Nat) : (s.hostTblCtr i n).sec = s.sec := rfl
@[simp] theorem State.hostTblCtr_hp (s : State) (i n : Nat) : (s.hostTblCtr i n).hp = s.hp := rfl
@[simp] theorem State.hostTblCtr_qp (s : State) (i n : Nat) : (s.hostTblCtr i n).qp = s.qp := rfl
@[simp] theorem State.hostTblCtr_ev (s : State) (i n : Nat) : (s.hostTblCtr i n).ev = s.ev := rfl
@[simp] theorem State.hostTblCtr_tm (s : State) (i n : Nat) : (s.hostTblCtr i n).tm = s.tm := rfl
@[simp] theorem State.hostTblCtr_hl (s : State) (i n : Nat) : (s.hostTblCtr i n).hl = s.hl := rfl
@[simp] theorem State.hostTblCtr_mem (s : State) (i n : Nat) : (s.hostTblCtr i n).mem = s.mem := rfl

/-! ## What is read back -/

@[simp] theorem State.fn_setFn (s : State) (f : Nat) (v : FnSt) : (s.setFn f v).fn f = v := by
  simp [State.setFn, State.fn]
theorem State.fn_setFn_ne (s : State) (f : Nat) (v : FnSt) {j : Nat} (h : j ≠ f) : (s.setFn f v).fn j = s.fn j := by
  simp [State.setFn, State.fn, SMap.getD_set_ne _ _ _ _ _ h]
@[simp] theorem State.qpOf_setQp (s : State) (q : Nat) (x : Qp) : (s.setQp q x).qpOf q = x := by
  simp [State.setQp, State.qpOf]
theorem State.qpOf_setQp_ne (s : State) (q : Nat) (x : Qp) {j : Nat} (h : j ≠ q) : (s.setQp q x).qpOf j = s.qpOf j := by
  simp [State.setQp, State.qpOf, SMap.getD_set_ne _ _ _ _ _ h]
@[simp] theorem State.eq_setEq (s : State) (e : Nat) (q : Eq) : (s.setEq e q).eq e = q := by
  simp [State.setEq, State.eq]
theorem State.eq_setEq_ne (s : State) (e : Nat) (q : Eq) {j : Nat} (h : j ≠ e) : (s.setEq e q).eq j = s.eq j := by
  simp [State.setEq, State.eq, SMap.getD_set_ne _ _ _ _ _ h]
@[simp] theorem State.src_setSrc (s : State) (i : Nat) (v : EvSrc) : (s.setSrc i v).src i = v := by
  simp [State.setSrc, State.src]
theorem State.src_setSrc_ne (s : State) (i : Nat) (v : EvSrc) {j : Nat} (h : j ≠ i) : (s.setSrc i v).src j = s.src j := by
  simp [State.setSrc, State.src, SMap.getD_set_ne _ _ _ _ _ h]
@[simp] theorem State.eth_setEth (s : State) (n : Nat) (x : PortSt) : (s.setEth n x).eth n = x := by
  simp [State.setEth, State.eth]
theorem State.eth_setEth_ne (s : State) (n : Nat) (x : PortSt) {j : Nat} (h : j ≠ n) : (s.setEth n x).eth j = s.eth j := by
  simp [State.setEth, State.eth, SMap.getD_set_ne _ _ _ _ _ h]
@[simp] theorem State.port_setPort (s : State) (p : Nat) (v : HostPort) : (s.setPort p v).port p = v := by
  simp [State.setPort, State.port]
theorem State.port_setPort_ne (s : State) (p : Nat) (v : HostPort) {j : Nat} (h : j ≠ p) : (s.setPort p v).port j = s.port j := by
  simp [State.setPort, State.port, SMap.getD_set_ne _ _ _ _ _ h]
@[simp] theorem State.conn_setConn (s : State) (c : Nat) (x : Conn) : (s.setConn c x).conn c = x := by
  simp [State.setConn, State.conn]
theorem State.conn_setConn_ne (s : State) (c : Nat) (x : Conn) {j : Nat} (h : j ≠ c) : (s.setConn c x).conn j = s.conn j := by
  simp [State.setConn, State.conn, SMap.getD_set_ne _ _ _ _ _ h]
@[simp] theorem State.svc_setSvc (s : State) (g : Nat) (x : SvcGrove) : (s.setSvc g x).svc g = x := by
  simp [State.setSvc, State.svc]
theorem State.svc_setSvc_ne (s : State) (g : Nat) (x : SvcGrove) {j : Nat} (h : j ≠ g) : (s.setSvc g x).svc j = s.svc j := by
  simp [State.setSvc, State.svc, SMap.getD_set_ne _ _ _ _ _ h]
@[simp] theorem State.clearing_setCl (s : State) (c : Nat) (x : Cl) : (s.setCl c x).clearing c = x := by
  simp [State.setCl, State.clearing]
theorem State.clearing_setCl_ne (s : State) (c : Nat) (x : Cl) {j : Nat} (h : j ≠ c) : (s.setCl c x).clearing j = s.clearing j := by
  simp [State.setCl, State.clearing, SMap.getD_set_ne _ _ _ _ _ h]
@[simp] theorem State.ctl_setNv (s : State) (f : Nat) (c : NvCtl) : (s.setNv f c).ctl f = c := by
  simp [State.setNv, State.ctl]
theorem State.ctl_setNv_ne (s : State) (f : Nat) (c : NvCtl) {j : Nat} (h : j ≠ f) : (s.setNv f c).ctl j = s.ctl j := by
  simp [State.setNv, State.ctl, SMap.getD_set_ne _ _ _ _ _ h]
@[simp] theorem State.slice_setSlice (s : State) (g : Nat) (x : Slice) : (s.setSlice g x).slice g = x := by
  simp [State.setSlice, State.slice]
theorem State.slice_setSlice_ne (s : State) (g : Nat) (x : Slice) {j : Nat} (h : j ≠ g) : (s.setSlice g x).slice j = s.slice j := by
  simp [State.setSlice, State.slice, SMap.getD_set_ne _ _ _ _ _ h]
@[simp] theorem State.parser_setParser (s : State) (g : Nat) (x : Parser) : (s.setParser g x).parser g = x := by
  simp [State.setParser, State.parser]
theorem State.parser_setParser_ne (s : State) (g : Nat) (x : Parser) {j : Nat} (h : j ≠ g) : (s.setParser g x).parser j = s.parser j := by
  simp [State.setParser, State.parser, SMap.getD_set_ne _ _ _ _ _ h]
@[simp] theorem State.classifier_setClassifier (s : State) (g : Nat) (x : Classifier) : (s.setClassifier g x).classifier g = x := by
  simp [State.setClassifier, State.classifier]
theorem State.classifier_setClassifier_ne (s : State) (g : Nat) (x : Classifier) {j : Nat} (h : j ≠ g) : (s.setClassifier g x).classifier j = s.classifier j := by
  simp [State.setClassifier, State.classifier, SMap.getD_set_ne _ _ _ _ _ h]
@[simp] theorem State.plane_setPlane (s : State) (p : Nat) (x : Plane) : (s.setPlane p x).plane p = x := by
  simp [State.setPlane, State.plane]
theorem State.plane_setPlane_ne (s : State) (p : Nat) (x : Plane) {j : Nat} (h : j ≠ p) : (s.setPlane p x).plane j = s.plane j := by
  simp [State.setPlane, State.plane, SMap.getD_set_ne _ _ _ _ _ h]
@[simp] theorem State.sa_setSa (s : State) (a : Nat) (x : Sa) : (s.setSa a x).sa a = x := by
  simp [State.setSa, State.sa]
theorem State.sa_setSa_ne (s : State) (a : Nat) (x : Sa) {j : Nat} (h : j ≠ a) : (s.setSa a x).sa j = s.sa j := by
  simp [State.setSa, State.sa, SMap.getD_set_ne _ _ _ _ _ h]
@[simp] theorem State.remKey_setRemKey (s : State) (k : Nat) (e : RemKey) : (s.setRemKey k e).remKey k = e := by
  simp [State.setRemKey, State.remKey]
theorem State.remKey_setRemKey_ne (s : State) (k : Nat) (e : RemKey) {j : Nat} (h : j ≠ k) : (s.setRemKey k e).remKey j = s.remKey j := by
  simp [State.setRemKey, State.remKey, SMap.getD_set_ne _ _ _ _ _ h]
@[simp] theorem State.tblSet_setTblSet (s : State) (src : Nat) (x : TblSet) : (s.setTblSet src x).tblSet src = x := by
  simp [State.setTblSet, State.tblSet]
theorem State.tblSet_setTblSet_ne (s : State) (src : Nat) (x : TblSet) {j : Nat} (h : j ≠ src) : (s.setTblSet src x).tblSet j = s.tblSet j := by
  simp [State.setTblSet, State.tblSet, SMap.getD_set_ne _ _ _ _ _ h]
@[simp] theorem State.mbx_setMbx (s : State) (p : Nat) (m : Mbx) : (s.setMbx p m).mbx p = m := by
  simp [State.setMbx, State.mbx]
theorem State.mbx_setMbx_ne (s : State) (p : Nat) (m : Mbx) {j : Nat} (h : j ≠ p) : (s.setMbx p m).mbx j = s.mbx j := by
  simp [State.setMbx, State.mbx, SMap.getD_set_ne _ _ _ _ _ h]

end Sys2Proof.Machine
end

