-- ==== Sys2Proof/Laws/Taken.lean ====
section
/-! SUPPORT. Taking up a request changes no reading of the state but the request that stands accepted. -/
set_option Elab.async false
namespace Sys2Proof.Machine

@[simp] theorem State.taken_src (s : State) : State.src s.taken = State.src s := rfl
@[simp] theorem State.taken_mayAct (s : State) : State.mayAct s.taken = State.mayAct s := rfl
@[simp] theorem State.taken_srcPresent (s : State) : State.srcPresent s.taken = State.srcPresent s := rfl
@[simp] theorem State.taken_ownsArray (s : State) : State.ownsArray s.taken = State.ownsArray s := rfl
@[simp] theorem State.taken_routingId (s : State) : State.routingId s.taken = State.routingId s := rfl
@[simp] theorem State.taken_storingOrUpdating (s : State) : State.storingOrUpdating s.taken = State.storingOrUpdating s := rfl
@[simp] theorem State.taken_jobRefusal (s : State) : State.jobRefusal s.taken = State.jobRefusal s := rfl
@[simp] theorem State.taken_slaotUp (s : State) : State.slaotUp s.taken = State.slaotUp s := rfl
@[simp] theorem State.taken_windows (s : State) : State.windows s.taken = State.windows s := rfl
@[simp] theorem State.taken_plane (s : State) : State.plane s.taken = State.plane s := rfl
@[simp] theorem State.taken_parkedBits (s : State) : State.parkedBits s.taken = State.parkedBits s := rfl
@[simp] theorem State.taken_debugRead (s : State) : State.debugRead s.taken = State.debugRead s := rfl
@[simp] theorem State.taken_groveHealth (s : State) : State.groveHealth s.taken = State.groveHealth s := rfl
@[simp] theorem State.taken_qpNotReady (s : State) : State.qpNotReady s.taken = State.qpNotReady s := rfl
@[simp] theorem State.taken_keyUsed (s : State) : State.keyUsed s.taken = State.keyUsed s := rfl
@[simp] theorem State.taken_mayOpen (s : State) : State.mayOpen s.taken = State.mayOpen s := rfl
@[simp] theorem State.taken_mapBytes (s : State) : State.mapBytes s.taken = State.mapBytes s := rfl
@[simp] theorem State.taken_conn (s : State) : State.conn s.taken = State.conn s := rfl
@[simp] theorem State.taken_arrivals (s : State) : State.arrivals s.taken = State.arrivals s := rfl
@[simp] theorem State.taken_groveList (s : State) : State.groveList s.taken = State.groveList s := rfl
@[simp] theorem State.taken_sliceCtrs (s : State) : State.sliceCtrs s.taken = State.sliceCtrs s := rfl
@[simp] theorem State.taken_wordBad (s : State) : State.wordBad s.taken = State.wordBad s := rfl
@[simp] theorem State.taken_tableRegs (s : State) : State.tableRegs s.taken = State.tableRegs s := rfl
@[simp] theorem State.taken_fwVerifies (s : State) : State.fwVerifies s.taken = State.fwVerifies s := rfl
@[simp] theorem State.taken_issues (s : State) : State.issues s.taken = State.issues s := rfl
@[simp] theorem State.taken_clk (s : State) : State.clk s.taken = State.clk s := rfl
@[simp] theorem State.taken_momentAt (s : State) : State.momentAt s.taken = State.momentAt s := rfl
@[simp] theorem State.taken_liveLanes (s : State) : State.liveLanes s.taken = State.liveLanes s := rfl
@[simp] theorem State.taken_freeTag (s : State) : State.freeTag s.taken = State.freeTag s := rfl
@[simp] theorem State.taken_spareBanks (s : State) : State.spareBanks s.taken = State.spareBanks s := rfl
@[simp] theorem State.taken_targetDead (s : State) : State.targetDead s.taken = State.targetDead s := rfl
@[simp] theorem State.taken_qp (s : State) : State.qp s.taken = State.qp s := rfl
@[simp] theorem State.taken_storeTarget (s : State) : State.storeTarget s.taken = State.storeTarget s := rfl
@[simp] theorem State.taken_ownsConn (s : State) : State.ownsConn s.taken = State.ownsConn s := rfl
@[simp] theorem State.taken_supCore (s : State) : State.supCore s.taken = State.supCore s := rfl
@[simp] theorem State.taken_chanOf (s : State) : State.chanOf s.taken = State.chanOf s := rfl
@[simp] theorem State.taken_deviceRecord (s : State) : State.deviceRecord s.taken = State.deviceRecord s := rfl
@[simp] theorem State.taken_targetPresent (s : State) : State.targetPresent s.taken = State.targetPresent s := rfl
@[simp] theorem State.taken_saEngine (s : State) : State.saEngine s.taken = State.saEngine s := rfl
@[simp] theorem State.taken_stepDue (s : State) : State.stepDue s.taken = State.stepDue s := rfl
@[simp] theorem State.taken_cfgRead (s : State) : State.cfgRead s.taken = State.cfgRead s := rfl
@[simp] theorem State.taken_setActor (s : State) : State.setActor s.taken = State.setActor s := rfl
@[simp] theorem State.taken_isSup (s : State) : State.isSup s.taken = State.isSup s := rfl
@[simp] theorem State.taken_trailAccepts (s : State) : State.trailAccepts s.taken = State.trailAccepts s := rfl
@[simp] theorem State.taken_ingressEntry (s : State) : State.ingressEntry s.taken = State.ingressEntry s := rfl
@[simp] theorem State.taken_op (s : State) : State.op s.taken = State.op s := rfl
@[simp] theorem State.taken_powered (s : State) : State.powered s.taken = State.powered s := rfl
@[simp] theorem State.taken_someIdle (s : State) : State.someIdle s.taken = State.someIdle s := rfl
@[simp] theorem State.taken_mirrorCounts (s : State) : State.mirrorCounts s.taken = State.mirrorCounts s := rfl
@[simp] theorem State.taken_rentOk (s : State) : State.rentOk s.taken = State.rentOk s := rfl
@[simp] theorem State.taken_holdUnits (s : State) : State.holdUnits s.taken = State.holdUnits s := rfl
@[simp] theorem State.taken_liveChannels (s : State) : State.liveChannels s.taken = State.liveChannels s := rfl
@[simp] theorem State.taken_classOf (s : State) : State.classOf s.taken = State.classOf s := rfl
@[simp] theorem State.taken_classReady (s : State) : State.classReady s.taken = State.classReady s := rfl
@[simp] theorem State.taken_portQueues (s : State) : State.portQueues s.taken = State.portQueues s := rfl
@[simp] theorem State.taken_remKey (s : State) : State.remKey s.taken = State.remKey s := rfl
@[simp] theorem State.taken_svc (s : State) : State.svc s.taken = State.svc s := rfl
@[simp] theorem State.taken_chanFaults (s : State) : State.chanFaults s.taken = State.chanFaults s := rfl
@[simp] theorem State.taken_time (s : State) : State.time s.taken = State.time s := rfl
@[simp] theorem State.taken_ci (s : State) : State.ci s.taken = State.ci s := rfl
@[simp] theorem State.taken_queuedCells (s : State) : State.queuedCells s.taken = State.queuedCells s := rfl
@[simp] theorem State.taken_eqRegs (s : State) : State.eqRegs s.taken = State.eqRegs s := rfl
@[simp] theorem State.taken_deadBanks (s : State) : State.deadBanks s.taken = State.deadBanks s := rfl
@[simp] theorem State.taken_rateInUse (s : State) : State.rateInUse s.taken = State.rateInUse s := rfl
@[simp] theorem State.taken_poolFor (s : State) : State.poolFor s.taken = State.poolFor s := rfl
@[simp] theorem State.taken_deadPort (s : State) : State.deadPort s.taken = State.deadPort s := rfl
@[simp] theorem State.taken_losslessPair (s : State) : State.losslessPair s.taken = State.losslessPair s := rfl
@[simp] theorem State.taken_groveFailed (s : State) : State.groveFailed s.taken = State.groveFailed s := rfl
@[simp] theorem State.taken_cipherRefusal (s : State) : State.cipherRefusal s.taken = State.cipherRefusal s := rfl
@[simp] theorem State.taken_out (s : State) : State.out s.taken = State.out s := rfl
@[simp] theorem State.taken_windowAt (s : State) : State.windowAt s.taken = State.windowAt s := rfl
@[simp] theorem State.taken_groupOrder (s : State) : State.groupOrder s.taken = State.groupOrder s := rfl
@[simp] theorem State.taken_stageOneCells (s : State) : State.stageOneCells s.taken = State.stageOneCells s := rfl
@[simp] theorem State.taken_physBank (s : State) : State.physBank s.taken = State.physBank s := rfl
@[simp] theorem State.taken_inTime (s : State) : State.inTime s.taken = State.inTime s := rfl
@[simp] theorem State.taken_logicalBank (s : State) : State.logicalBank s.taken = State.logicalBank s := rfl
@[simp] theorem State.taken_raWorks (s : State) : State.raWorks s.taken = State.raWorks s := rfl
@[simp] theorem State.taken_hl (s : State) : State.hl s.taken = State.hl s := rfl
@[simp] theorem State.taken_ctl (s : State) : State.ctl s.taken = State.ctl s := rfl
@[simp] theorem State.taken_parser (s : State) : State.parser s.taken = State.parser s := rfl
@[simp] theorem State.taken_trainStep (s : State) : State.trainStep s.taken = State.trainStep s := rfl
@[simp] theorem State.taken_ret (s : State) : State.ret s.taken = State.ret s := rfl
@[simp] theorem State.taken_sv (s : State) : State.sv s.taken = State.sv s := rfl
@[simp] theorem State.taken_nextSecond (s : State) : State.nextSecond s.taken = State.nextSecond s := rfl
@[simp] theorem State.taken_canDma (s : State) : State.canDma s.taken = State.canDma s := rfl
@[simp] theorem State.taken_waitMet (s : State) : State.waitMet s.taken = State.waitMet s := rfl
@[simp] theorem State.taken_startFits (s : State) : State.startFits s.taken = State.startFits s := rfl
@[simp] theorem State.taken_turn (s : State) : State.turn s.taken = State.turn s := rfl
@[simp] theorem State.taken_et (s : State) : State.et s.taken = State.et s := rfl
@[simp] theorem State.taken_region (s : State) : State.region s.taken = State.region s := rfl
@[simp] theorem State.taken_frameCells (s : State) : State.frameCells s.taken = State.frameCells s := rfl
@[simp] theorem State.taken_arrivedBytes (s : State) : State.arrivedBytes s.taken = State.arrivedBytes s := rfl
@[simp] theorem State.taken_nsCheck (s : State) : State.nsCheck s.taken = State.nsCheck s := rfl
@[simp] theorem State.taken_linkData (s : State) : State.linkData s.taken = State.linkData s := rfl
@[simp] theorem State.taken_slotValid (s : State) : State.slotValid s.taken = State.slotValid s := rfl
@[simp] theorem State.taken_csts (s : State) : State.csts s.taken = State.csts s := rfl
@[simp] theorem State.taken_cfgSlot (s : State) : State.cfgSlot s.taken = State.cfgSlot s := rfl
@[simp] theorem State.taken_nvLate (s : State) : State.nvLate s.taken = State.nvLate s := rfl
@[simp] theorem State.taken_groves (s : State) : State.groves s.taken = State.groves s := rfl
@[simp] theorem State.taken_qpMayDma (s : State) : State.qpMayDma s.taken = State.qpMayDma s := rfl
@[simp] theorem State.taken_cl (s : State) : State.cl s.taken = State.cl s := rfl
@[simp] theorem State.taken_master (s : State) : State.master s.taken = State.master s := rfl
@[simp] theorem State.taken_ckeyGen (s : State) : State.ckeyGen s.taken = State.ckeyGen s := rfl
@[simp] theorem State.taken_memBad (s : State) : State.memBad s.taken = State.memBad s := rfl
@[simp] theorem State.taken_lanes (s : State) : State.lanes s.taken = State.lanes s := rfl
@[simp] theorem State.taken_mayStart (s : State) : State.mayStart s.taken = State.mayStart s := rfl
@[simp] theorem State.taken_heldSources (s : State) : State.heldSources s.taken = State.heldSources s := rfl
@[simp] theorem State.taken_engines (s : State) : State.engines s.taken = State.engines s := rfl
@[simp] theorem State.taken_openMsgs (s : State) : State.openMsgs s.taken = State.openMsgs s := rfl
@[simp] theorem State.taken_groveRecord (s : State) : State.groveRecord s.taken = State.groveRecord s := rfl
@[simp] theorem State.taken_nvc (s : State) : State.nvc s.taken = State.nvc s := rfl
@[simp] theorem State.taken_targets (s : State) : State.targets s.taken = State.targets s := rfl
@[simp] theorem State.taken_interruptAt (s : State) : State.interruptAt s.taken = State.interruptAt s := rfl
@[simp] theorem State.taken_bootReady (s : State) : State.bootReady s.taken = State.bootReady s := rfl
@[simp] theorem State.taken_slotQp (s : State) : State.slotQp s.taken = State.slotQp s := rfl
@[simp] theorem State.taken_ttNow (s : State) : State.ttNow s.taken = State.ttNow s := rfl
@[simp] theorem State.taken_nextPipe (s : State) : State.nextPipe s.taken = State.nextPipe s := rfl
@[simp] theorem State.taken_egressCfg (s : State) : State.egressCfg s.taken = State.egressCfg s := rfl
@[simp] theorem State.taken_mirror (s : State) : State.mirror s.taken = State.mirror s := rfl
@[simp] theorem State.taken_roceDrop (s : State) : State.roceDrop s.taken = State.roceDrop s := rfl
@[simp] theorem State.taken_hasUnit (s : State) : State.hasUnit s.taken = State.hasUnit s := rfl
@[simp] theorem State.taken_wireTime (s : State) : State.wireTime s.taken = State.wireTime s := rfl
@[simp] theorem State.taken_nv (s : State) : State.nv s.taken = State.nv s := rfl
@[simp] theorem State.taken_slotsUsed (s : State) : State.slotsUsed s.taken = State.slotsUsed s := rfl
@[simp] theorem State.taken_freeCells (s : State) : State.freeCells s.taken = State.freeCells s := rfl
@[simp] theorem State.taken_inOrder (s : State) : State.inOrder s.taken = State.inOrder s := rfl
@[simp] theorem State.taken_placeOf (s : State) : State.placeOf s.taken = State.placeOf s := rfl
@[simp] theorem State.taken_keyNamed (s : State) : State.keyNamed s.taken = State.keyNamed s := rfl
@[simp] theorem State.taken_engine (s : State) : State.engine s.taken = State.engine s := rfl
@[simp] theorem State.taken_qpOf (s : State) : State.qpOf s.taken = State.qpOf s := rfl
@[simp] theorem State.taken_bindable (s : State) : State.bindable s.taken = State.bindable s := rfl
@[simp] theorem State.taken_locPresent (s : State) : State.locPresent s.taken = State.locPresent s := rfl
@[simp] theorem State.taken_nvCfg (s : State) : State.nvCfg s.taken = State.nvCfg s := rfl
@[simp] theorem State.taken_planeFails (s : State) : State.planeFails s.taken = State.planeFails s := rfl
@[simp] theorem State.taken_newestSlot (s : State) : State.newestSlot s.taken = State.newestSlot s := rfl
@[simp] theorem State.taken_trailMd (s : State) : State.trailMd s.taken = State.trailMd s := rfl
@[simp] theorem State.taken_msixEntry (s : State) : State.msixEntry s.taken = State.msixEntry s := rfl
@[simp] theorem State.taken_groveCause (s : State) : State.groveCause s.taken = State.groveCause s := rfl
@[simp] theorem State.taken_bankBusy (s : State) : State.bankBusy s.taken = State.bankBusy s := rfl
@[simp] theorem State.taken_admits (s : State) : State.admits s.taken = State.admits s := rfl
@[simp] theorem State.taken_resolve (s : State) : State.resolve s.taken = State.resolve s := rfl
@[simp] theorem State.taken_lookupBad (s : State) : State.lookupBad s.taken = State.lookupBad s := rfl
@[simp] theorem State.taken_tbl (s : State) : State.tbl s.taken = State.tbl s := rfl
@[simp] theorem State.taken_cn (s : State) : State.cn s.taken = State.cn s := rfl
@[simp] theorem State.taken_free (s : State) : State.free s.taken = State.free s := rfl
@[simp] theorem State.taken_fnPresent (s : State) : State.fnPresent s.taken = State.fnPresent s := rfl
@[simp] theorem State.taken_live (s : State) : State.live s.taken = State.live s := rfl
@[simp] theorem State.taken_hostPasid (s : State) : State.hostPasid s.taken = State.hostPasid s := rfl
@[simp] theorem State.taken_intxWanted (s : State) : State.intxWanted s.taken = State.intxWanted s := rfl
@[simp] theorem State.taken_waitData (s : State) : State.waitData s.taken = State.waitData s := rfl
@[simp] theorem State.taken_certificate (s : State) : State.certificate s.taken = State.certificate s := rfl
@[simp] theorem State.taken_meterCfg (s : State) : State.meterCfg s.taken = State.meterCfg s := rfl
@[simp] theorem State.taken_stageSlot (s : State) : State.stageSlot s.taken = State.stageSlot s := rfl
@[simp] theorem State.taken_fwFirst (s : State) : State.fwFirst s.taken = State.fwFirst s := rfl
@[simp] theorem State.taken_devRead (s : State) : State.devRead s.taken = State.devRead s := rfl
@[simp] theorem State.taken_slotEq (s : State) : State.slotEq s.taken = State.slotEq s := rfl
@[simp] theorem State.taken_tagUse (s : State) : State.tagUse s.taken = State.tagUse s := rfl
@[simp] theorem State.taken_agePeriod (s : State) : State.agePeriod s.taken = State.agePeriod s := rfl
@[simp] theorem State.taken_takesRequests (s : State) : State.takesRequests s.taken = State.takesRequests s := rfl
@[simp] theorem State.taken_readyJob (s : State) : State.readyJob s.taken = State.readyJob s := rfl
@[simp] theorem State.taken_stepping (s : State) : State.stepping s.taken = State.stepping s := rfl
@[simp] theorem State.taken_clearing (s : State) : State.clearing s.taken = State.clearing s := rfl
@[simp] theorem State.taken_sleeper (s : State) : State.sleeper s.taken = State.sleeper s := rfl
@[simp] theorem State.taken_slotReads (s : State) : State.slotReads s.taken = State.slotReads s := rfl
@[simp] theorem State.taken_framesOf (s : State) : State.framesOf s.taken = State.framesOf s := rfl
@[simp] theorem State.taken_eqSlotBound (s : State) : State.eqSlotBound s.taken = State.eqSlotBound s := rfl
@[simp] theorem State.taken_tblSet (s : State) : State.tblSet s.taken = State.tblSet s := rfl
@[simp] theorem State.taken_fn (s : State) : State.fn s.taken = State.fn s := rfl
@[simp] theorem State.taken_freeEntry (s : State) : State.freeEntry s.taken = State.freeEntry s := rfl
@[simp] theorem State.taken_ctlWaits (s : State) : State.ctlWaits s.taken = State.ctlWaits s := rfl
@[simp] theorem State.taken_usageEnds (s : State) : State.usageEnds s.taken = State.usageEnds s := rfl
@[simp] theorem State.taken_portLanes (s : State) : State.portLanes s.taken = State.portLanes s := rfl
@[simp] theorem State.taken_isPort (s : State) : State.isPort s.taken = State.isPort s := rfl
@[simp] theorem State.taken_unitLost (s : State) : State.unitLost s.taken = State.unitLost s := rfl
@[simp] theorem State.taken_speedGbps (s : State) : State.speedGbps s.taken = State.speedGbps s := rfl
@[simp] theorem State.taken_srcOwner (s : State) : State.srcOwner s.taken = State.srcOwner s := rfl
@[simp] theorem State.taken_slice (s : State) : State.slice s.taken = State.slice s := rfl
@[simp] theorem State.taken_freeKey (s : State) : State.freeKey s.taken = State.freeKey s := rfl
@[simp] theorem State.taken_drained (s : State) : State.drained s.taken = State.drained s := rfl
@[simp] theorem State.taken_pbaBytes (s : State) : State.pbaBytes s.taken = State.pbaBytes s := rfl
@[simp] theorem State.taken_translate (s : State) : State.translate s.taken = State.translate s := rfl
@[simp] theorem State.taken_now (s : State) : State.now s.taken = State.now s := rfl
@[simp] theorem State.taken_msixBytes (s : State) : State.msixBytes s.taken = State.msixBytes s := rfl
@[simp] theorem State.taken_portEntry (s : State) : State.portEntry s.taken = State.portEntry s := rfl
@[simp] theorem State.taken_pauseEnd (s : State) : State.pauseEnd s.taken = State.pauseEnd s := rfl
@[simp] theorem State.taken_canReserve (s : State) : State.canReserve s.taken = State.canReserve s := rfl
@[simp] theorem State.taken_sliceCfg (s : State) : State.sliceCfg s.taken = State.sliceCfg s := rfl
@[simp] theorem State.taken_readBar2 (s : State) : State.readBar2 s.taken = State.readBar2 s := rfl
@[simp] theorem State.taken_width (s : State) : State.width s.taken = State.width s := rfl
@[simp] theorem State.taken_storeGen (s : State) : State.storeGen s.taken = State.storeGen s := rfl
@[simp] theorem State.taken_counterOf (s : State) : State.counterOf s.taken = State.counterOf s := rfl
@[simp] theorem State.taken_offList (s : State) : State.offList s.taken = State.offList s := rfl
@[simp] theorem State.taken_boot (s : State) : State.boot s.taken = State.boot s := rfl
@[simp] theorem State.taken_sameQueue (s : State) : State.sameQueue s.taken = State.sameQueue s := rfl
@[simp] theorem State.taken_mraDrop (s : State) : State.mraDrop s.taken = State.mraDrop s := rfl
@[simp] theorem State.taken_replica (s : State) : State.replica s.taken = State.replica s := rfl
@[simp] theorem State.taken_mirrorDestPresent (s : State) : State.mirrorDestPresent s.taken = State.mirrorDestPresent s := rfl
@[simp] theorem State.taken_routeQueues (s : State) : State.routeQueues s.taken = State.routeQueues s := rfl
@[simp] theorem State.taken_ingressStamp (s : State) : State.ingressStamp s.taken = State.ingressStamp s := rfl
@[simp] theorem State.taken_tm (s : State) : State.tm s.taken = State.tm s := rfl
@[simp] theorem State.taken_qpPresent (s : State) : State.qpPresent s.taken = State.qpPresent s := rfl
@[simp] theorem State.taken_kindPresent (s : State) : State.kindPresent s.taken = State.kindPresent s := rfl
@[simp] theorem State.taken_contexts (s : State) : State.contexts s.taken = State.contexts s := rfl
@[simp] theorem State.taken_isUp (s : State) : State.isUp s.taken = State.isUp s := rfl
@[simp] theorem State.taken_placeControl (s : State) : State.placeControl s.taken = State.placeControl s := rfl
@[simp] theorem State.taken_countAt (s : State) : State.countAt s.taken = State.countAt s := rfl
@[simp] theorem State.taken_qpReads (s : State) : State.qpReads s.taken = State.qpReads s := rfl
@[simp] theorem State.taken_grants (s : State) : State.grants s.taken = State.grants s := rfl
@[simp] theorem State.taken_espHead (s : State) : State.espHead s.taken = State.espHead s := rfl
@[simp] theorem State.taken_period (s : State) : State.period s.taken = State.period s := rfl
@[simp] theorem State.taken_auditLost (s : State) : State.auditLost s.taken = State.auditLost s := rfl
@[simp] theorem State.taken_deviceCtr (s : State) : State.deviceCtr s.taken = State.deviceCtr s := rfl
@[simp] theorem State.taken_dState (s : State) : State.dState s.taken = State.dState s := rfl
@[simp] theorem State.taken_saplingLive (s : State) : State.saplingLive s.taken = State.saplingLive s := rfl
@[simp] theorem State.taken_pending (s : State) : State.pending s.taken = State.pending s := rfl
@[simp] theorem State.taken_ps (s : State) : State.ps s.taken = State.ps s := rfl
@[simp] theorem State.taken_fbEntry (s : State) : State.fbEntry s.taken = State.fbEntry s := rfl
@[simp] theorem State.taken_eq (s : State) : State.eq s.taken = State.eq s := rfl
@[simp] theorem State.taken_startedIn (s : State) : State.startedIn s.taken = State.startedIn s := rfl
@[simp] theorem State.taken_eligible (s : State) : State.eligible s.taken = State.eligible s := rfl
@[simp] theorem State.taken_hostRest (s : State) : State.hostRest s.taken = State.hostRest s := rfl
@[simp] theorem State.taken_transferable (s : State) : State.transferable s.taken = State.transferable s := rfl
@[simp] theorem State.taken_stepping_ (s : State) : State.stepping_ s.taken = State.stepping_ s := rfl
@[simp] theorem State.taken_grantable (s : State) : State.grantable s.taken = State.grantable s := rfl
@[simp] theorem State.taken_headLength (s : State) : State.headLength s.taken = State.headLength s := rfl
@[simp] theorem State.taken_movesOf (s : State) : State.movesOf s.taken = State.movesOf s := rfl
@[simp] theorem State.taken_cplTimeoutOf (s : State) : State.cplTimeoutOf s.taken = State.cplTimeoutOf s := rfl
@[simp] theorem State.taken_raCfg (s : State) : State.raCfg s.taken = State.raCfg s := rfl
@[simp] theorem State.taken_firebreakDigest (s : State) : State.firebreakDigest s.taken = State.firebreakDigest s := rfl
@[simp] theorem State.taken_fwSlotOf (s : State) : State.fwSlotOf s.taken = State.fwSlotOf s := rfl
@[simp] theorem State.taken_unitLive (s : State) : State.unitLive s.taken = State.unitLive s := rfl
@[simp] theorem State.taken_planeData (s : State) : State.planeData s.taken = State.planeData s := rfl
@[simp] theorem State.taken_sliceTag (s : State) : State.sliceTag s.taken = State.sliceTag s := rfl
@[simp] theorem State.taken_threadThere (s : State) : State.threadThere s.taken = State.threadThere s := rfl
@[simp] theorem State.taken_serving (s : State) : State.serving s.taken = State.serving s := rfl
@[simp] theorem State.taken_prioTc (s : State) : State.prioTc s.taken = State.prioTc s := rfl
@[simp] theorem State.taken_clearings (s : State) : State.clearings s.taken = State.clearings s := rfl
@[simp] theorem State.taken_clr (s : State) : State.clr s.taken = State.clr s := rfl
@[simp] theorem State.taken_builtinRuns (s : State) : State.builtinRuns s.taken = State.builtinRuns s := rfl
@[simp] theorem State.taken_ringWriter (s : State) : State.ringWriter s.taken = State.ringWriter s := rfl
@[simp] theorem State.taken_board (s : State) : State.board s.taken = State.board s := rfl
@[simp] theorem State.taken_route (s : State) : State.route s.taken = State.route s := rfl
@[simp] theorem State.taken_ev (s : State) : State.ev s.taken = State.ev s := rfl
@[simp] theorem State.taken_readPlace (s : State) : State.readPlace s.taken = State.readPlace s := rfl
@[simp] theorem State.taken_barSize (s : State) : State.barSize s.taken = State.barSize s := rfl
@[simp] theorem State.taken_fwSelect (s : State) : State.fwSelect s.taken = State.fwSelect s := rfl
@[simp] theorem State.taken_group (s : State) : State.group s.taken = State.group s := rfl
@[simp] theorem State.taken_reportSha (s : State) : State.reportSha s.taken = State.reportSha s := rfl
@[simp] theorem State.taken_sec (s : State) : State.sec s.taken = State.sec s := rfl
@[simp] theorem State.taken_eqsOf (s : State) : State.eqsOf s.taken = State.eqsOf s := rfl
@[simp] theorem State.taken_capacity (s : State) : State.capacity s.taken = State.capacity s := rfl
@[simp] theorem State.taken_variantCode (s : State) : State.variantCode s.taken = State.variantCode s := rfl
@[simp] theorem State.taken_fnIndex (s : State) : State.fnIndex s.taken = State.fnIndex s := rfl
@[simp] theorem State.taken_qpsOf (s : State) : State.qpsOf s.taken = State.qpsOf s := rfl
@[simp] theorem State.taken_fbAllowed (s : State) : State.fbAllowed s.taken = State.fbAllowed s := rfl
@[simp] theorem State.taken_paused (s : State) : State.paused s.taken = State.paused s := rfl
@[simp] theorem State.taken_activation (s : State) : State.activation s.taken = State.activation s := rfl
@[simp] theorem State.taken_hostCtx (s : State) : State.hostCtx s.taken = State.hostCtx s := rfl
@[simp] theorem State.taken_lane (s : State) : State.lane s.taken = State.lane s := rfl
@[simp] theorem State.taken_debugOpen (s : State) : State.debugOpen s.taken = State.debugOpen s := rfl
@[simp] theorem State.taken_keyCheck (s : State) : State.keyCheck s.taken = State.keyCheck s := rfl
@[simp] theorem State.taken_anyPf2 (s : State) : State.anyPf2 s.taken = State.anyPf2 s := rfl
@[simp] theorem State.taken_masterFor (s : State) : State.masterFor s.taken = State.masterFor s := rfl
@[simp] theorem State.taken_devWord (s : State) : State.devWord s.taken = State.devWord s := rfl
@[simp] theorem State.taken_connJobs (s : State) : State.connJobs s.taken = State.connJobs s := rfl
@[simp] theorem State.taken_stopFits (s : State) : State.stopFits s.taken = State.stopFits s := rfl
@[simp] theorem State.taken_qpOwner (s : State) : State.qpOwner s.taken = State.qpOwner s := rfl
@[simp] theorem State.taken_builtinBad (s : State) : State.builtinBad s.taken = State.builtinBad s := rfl
@[simp] theorem State.taken_ra (s : State) : State.ra s.taken = State.ra s := rfl
@[simp] theorem State.taken_hasNvme (s : State) : State.hasNvme s.taken = State.hasNvme s := rfl
@[simp] theorem State.taken_hostFn (s : State) : State.hostFn s.taken = State.hostFn s := rfl
@[simp] theorem State.taken_hasCipher (s : State) : State.hasCipher s.taken = State.hasCipher s := rfl
@[simp] theorem State.taken_nextWord (s : State) : State.nextWord s.taken = State.nextWord s := rfl
@[simp] theorem State.taken_slowFind (s : State) : State.slowFind s.taken = State.slowFind s := rfl
@[simp] theorem State.taken_ownsGrove (s : State) : State.ownsGrove s.taken = State.ownsGrove s := rfl
@[simp] theorem State.taken_egressStamp (s : State) : State.egressStamp s.taken = State.egressStamp s := rfl
@[simp] theorem State.taken_placeFn (s : State) : State.placeFn s.taken = State.placeFn s := rfl
@[simp] theorem State.taken_tenantEntry (s : State) : State.tenantEntry s.taken = State.tenantEntry s := rfl
@[simp] theorem State.taken_cutJob (s : State) : State.cutJob s.taken = State.cutJob s := rfl
@[simp] theorem State.taken_authenticate (s : State) : State.authenticate s.taken = State.authenticate s := rfl
@[simp] theorem State.taken_cfg (s : State) : State.cfg s.taken = State.cfg s := rfl
@[simp] theorem State.taken_mbRegs (s : State) : State.mbRegs s.taken = State.mbRegs s := rfl
@[simp] theorem State.taken_hostReady (s : State) : State.hostReady s.taken = State.hostReady s := rfl
@[simp] theorem State.taken_qpStatus (s : State) : State.qpStatus s.taken = State.qpStatus s := rfl
@[simp] theorem State.taken_isFenced (s : State) : State.isFenced s.taken = State.isFenced s := rfl
@[simp] theorem State.taken_heldCount (s : State) : State.heldCount s.taken = State.heldCount s := rfl
@[simp] theorem State.taken_windowCtr (s : State) : State.windowCtr s.taken = State.windowCtr s := rfl
@[simp] theorem State.taken_memOn (s : State) : State.memOn s.taken = State.memOn s := rfl
@[simp] theorem State.taken_port (s : State) : State.port s.taken = State.port s := rfl
@[simp] theorem State.taken_jobConn (s : State) : State.jobConn s.taken = State.jobConn s := rfl
@[simp] theorem State.taken_keyOk (s : State) : State.keyOk s.taken = State.keyOk s := rfl
@[simp] theorem State.taken_hp (s : State) : State.hp s.taken = State.hp s := rfl
@[simp] theorem State.taken_isHeld (s : State) : State.isHeld s.taken = State.isHeld s := rfl
@[simp] theorem State.taken_eqPresent (s : State) : State.eqPresent s.taken = State.eqPresent s := rfl
@[simp] theorem State.taken_groveGate (s : State) : State.groveGate s.taken = State.groveGate s := rfl
@[simp] theorem State.taken_sa (s : State) : State.sa s.taken = State.sa s := rfl
@[simp] theorem State.taken_jobWaits (s : State) : State.jobWaits s.taken = State.jobWaits s := rfl
@[simp] theorem State.taken_restoredData (s : State) : State.restoredData s.taken = State.restoredData s := rfl
@[simp] theorem State.taken_partLimit (s : State) : State.partLimit s.taken = State.partLimit s := rfl
@[simp] theorem State.taken_heldCells (s : State) : State.heldCells s.taken = State.heldCells s := rfl
@[simp] theorem State.taken_cipherEntry (s : State) : State.cipherEntry s.taken = State.cipherEntry s := rfl
@[simp] theorem State.taken_maySource (s : State) : State.maySource s.taken = State.maySource s := rfl
@[simp] theorem State.taken_tb (s : State) : State.tb s.taken = State.tb s := rfl
@[simp] theorem State.taken_sinkQueue (s : State) : State.sinkQueue s.taken = State.sinkQueue s := rfl
@[simp] theorem State.taken_ctorIdx (s : State) : State.ctorIdx s.taken = State.ctorIdx s := rfl
@[simp] theorem State.taken_moderation (s : State) : State.moderation s.taken = State.moderation s := rfl
@[simp] theorem State.taken_restoreFrom (s : State) : State.restoreFrom s.taken = State.restoreFrom s := rfl
@[simp] theorem State.taken_queue (s : State) : State.queue s.taken = State.queue s := rfl
@[simp] theorem State.taken_controlBlock (s : State) : State.controlBlock s.taken = State.controlBlock s := rfl
@[simp] theorem State.taken_ownsSrc (s : State) : State.ownsSrc s.taken = State.ownsSrc s := rfl
@[simp] theorem State.taken_cipherKey (s : State) : State.cipherKey s.taken = State.cipherKey s := rfl
@[simp] theorem State.taken_rateReached (s : State) : State.rateReached s.taken = State.rateReached s := rfl
@[simp] theorem State.taken_receiver (s : State) : State.receiver s.taken = State.receiver s := rfl
@[simp] theorem State.taken_actionPresent (s : State) : State.actionPresent s.taken = State.actionPresent s := rfl
@[simp] theorem State.taken_inputDepth (s : State) : State.inputDepth s.taken = State.inputDepth s := rfl
@[simp] theorem State.taken_trailEligible (s : State) : State.trailEligible s.taken = State.trailEligible s := rfl
@[simp] theorem State.taken_running (s : State) : State.running s.taken = State.running s := rfl
@[simp] theorem State.taken_nvReady (s : State) : State.nvReady s.taken = State.nvReady s := rfl
@[simp] theorem State.taken_placePf2 (s : State) : State.placePf2 s.taken = State.placePf2 s := rfl
@[simp] theorem State.taken_csrRead (s : State) : State.csrRead s.taken = State.csrRead s := rfl
@[simp] theorem State.taken_owns (s : State) : State.owns s.taken = State.owns s := rfl
@[simp] theorem State.taken_ckeyFree (s : State) : State.ckeyFree s.taken = State.ckeyFree s := rfl
@[simp] theorem State.taken_actionEntry (s : State) : State.actionEntry s.taken = State.actionEntry s := rfl
@[simp] theorem State.taken_variant (s : State) : State.variant s.taken = State.variant s := rfl
@[simp] theorem State.taken_classifier (s : State) : State.classifier s.taken = State.classifier s := rfl
@[simp] theorem State.taken_laneClear (s : State) : State.laneClear s.taken = State.laneClear s := rfl
@[simp] theorem State.taken_requestsNow (s : State) : State.requestsNow s.taken = State.requestsNow s := rfl
@[simp] theorem State.taken_retiredCells (s : State) : State.retiredCells s.taken = State.retiredCells s := rfl
@[simp] theorem State.taken_hbmGranted (s : State) : State.hbmGranted s.taken = State.hbmGranted s := rfl
@[simp] theorem State.taken_doorbellRegs (s : State) : State.doorbellRegs s.taken = State.doorbellRegs s := rfl
@[simp] theorem State.taken_fwAccepted (s : State) : State.fwAccepted s.taken = State.fwAccepted s := rfl
@[simp] theorem State.taken_groveCtr (s : State) : State.groveCtr s.taken = State.groveCtr s := rfl
@[simp] theorem State.taken_gate (s : State) : State.gate s.taken = State.gate s := rfl
@[simp] theorem State.taken_keyRnr (s : State) : State.keyRnr s.taken = State.keyRnr s := rfl
@[simp] theorem State.taken_vsec (s : State) : State.vsec s.taken = State.vsec s := rfl
@[simp] theorem State.taken_mem (s : State) : State.mem s.taken = State.mem s := rfl
@[simp] theorem State.taken_capRecords (s : State) : State.capRecords s.taken = State.capRecords s := rfl
@[simp] theorem State.taken_mbx (s : State) : State.mbx s.taken = State.mbx s := rfl
@[simp] theorem State.taken_report (s : State) : State.report s.taken = State.report s := rfl
@[simp] theorem State.taken_mbStatus (s : State) : State.mbStatus s.taken = State.mbStatus s := rfl
@[simp] theorem State.taken_modeShare (s : State) : State.modeShare s.taken = State.modeShare s := rfl
@[simp] theorem State.taken_keyGen (s : State) : State.keyGen s.taken = State.keyGen s := rfl
@[simp] theorem State.taken_suspended (s : State) : State.suspended s.taken = State.suspended s := rfl
@[simp] theorem State.taken_cipherWaiting (s : State) : State.cipherWaiting s.taken = State.cipherWaiting s := rfl
@[simp] theorem State.taken_sharedFree (s : State) : State.sharedFree s.taken = State.sharedFree s := rfl
@[simp] theorem State.taken_rental (s : State) : State.rental s.taken = State.rental s := rfl
@[simp] theorem State.taken_nvReg (s : State) : State.nvReg s.taken = State.nvReg s := rfl
@[simp] theorem State.taken_ns (s : State) : State.ns s.taken = State.ns s := rfl
@[simp] theorem State.taken_frame (s : State) : State.frame s.taken = State.frame s := rfl
@[simp] theorem State.taken_portCfg (s : State) : State.portCfg s.taken = State.portCfg s := rfl
@[simp] theorem State.taken_slotLoc (s : State) : State.slotLoc s.taken = State.slotLoc s := rfl
@[simp] theorem State.taken_eth (s : State) : State.eth s.taken = State.eth s := rfl
@[simp] theorem State.taken_owner (s : State) : State.owner s.taken = State.owner s := rfl
@[simp] theorem State.taken_transitOf (s : State) : State.transitOf s.taken = State.transitOf s := rfl
@[simp] theorem State.taken_thread (s : State) : State.thread s.taken = State.thread s := rfl

end Sys2Proof.Machine
end

