-- ==== Sys2Proof/WellFormed.lean ====
section
/-! DEFINITION. Which commands are well formed: every operand lies in the range the spec gives it on the full part. What a
part has less of (a variant, a failed or fenced unit) is judged when the command acts, and a command that is not well
formed is answered as the spec answers an absent object. -/
namespace Sys2Proof

/-! ## Ranges of operands -/

/-- A stand, or a replica of the tables (01 R15, 08 R232). -/
def inStand (n : Nat) : Bool := n < 4
/-- A grove and its host port; also a service core of a grove and a junction sensor of a stand (01 R15, 02 Ratings). -/
def inGrove (n : Nat) : Bool := n < 16
/-- An Ethernet port by its start lane (05 R133). -/
def inPort (n : Nat) : Bool := n < 512
/-- A lane of a group; also an MCTP message tag (05 R132, 04 R101). -/
def inGroup (n : Nat) : Bool := n < 8
/-- A number of 8, 16, 32 or 64 bits. -/
def inByte (n : Nat) : Bool := n < 2 ^ 8
def inHalf (n : Nat) : Bool := n < 2 ^ 16
def inWord (n : Nat) : Bool := n < 2 ^ 32
def inLong (n : Nat) : Bool := n < 2 ^ 64
/-- Bytes at an offset of a block. -/
def inBlock (size off len : Nat) : Bool := 1 ≤ len && off + len ≤ size
/-- A function number: host port and function (12 R349). -/
def inFn (n : Nat) : Bool := n < 65536
/-- A queue pair (13 R379). -/
def inQp (n : Nat) : Bool := n < 65536
/-- An event queue (14 R418). -/
def inEq (n : Nat) : Bool := n < 4096
/-- An event source (14 R410). -/
def inSource (n : Nat) : Bool := n < 69632
/-- A register set of the tables (08 R233): eight for each host port, two for each grove's service cores. -/
def inTableSource (n : Nat) : Bool := n < 160
/-- A table (08 R227). -/
def inTable (n : Nat) : Bool := n < 2
/-- A location of a table with its stash (01 R15). -/
def inLocations (t p : Nat) : Bool := p < if t = 0 then 1048640 else 131136
/-- A plane of the canopy (10). -/
def inPlane (n : Nat) : Bool := n < 8
/-- A frame tag: home grove and number (10 R285). -/
def inTag (n : Nat) : Bool := n < 2 ^ 24
/-- A tag of a host port's requests (12 R363). -/
def inPcieTag (n : Nat) : Bool := n < 2 ^ 14
/-- A vector of MSI-X, and a tag of an ATS invalidation (12). -/
def inVector (n : Nat) : Bool := n < 2048
def inItag (n : Nat) : Bool := n < 32
/-- A BAR. -/
def inBar (n : Nat) : Bool := n < 6
/-- A connection, a remote key or a cipher key (16 R467, R470; 17 R513). -/
def inConn (n : Nat) : Bool := n < 2 ^ 20
/-- A queue of an emulated controller (15 R460). -/
def inNvQueue (n : Nat) : Bool := n ≤ 128
/-- A cipher engine of a grove (17 R505). -/
def inEngine (n : Nat) : Bool := n < 4
/-- A clearing, a channel of it, a tag of its control port, an offset of its window in beats (18). -/
def inClearing (n : Nat) : Bool := n < 32
def inChannel (n : Nat) : Bool := n < 64
def inCtlTag (n : Nat) : Bool := n < 16
def inOffset (n : Nat) : Bool := n < 2 ^ 31
/-- A channel of the service cores of a grove (15 R446). -/
def inSvcChannel (n : Nat) : Bool := n < 512
/-- A physical bank of a grove's tree memory (01 R15). -/
def inBank (n : Nat) : Bool := n < 132
/-- A handle of a long operation (04 R124). -/
def isHandle (n : Nat) : Bool := 1 ≤ n && n < 2 ^ 32
/-- A priority; 8 is the pause of all (05 R153, R154). -/
def isPrio (n : Nat) : Bool := n ≤ 8
/-- Rate and width of a host link (12 R352). -/
def isRate (n : Nat) : Bool := 1 ≤ n && n ≤ 7
def isWidth (n : Nat) : Bool := n == 1 || n == 2 || n == 4 || n == 8 || n == 16
/-- A host link: flit mode always at 64 and 128 GT/s (12 R350). -/
def wfLink (l : HostLink) : Bool := isRate l.rate && isWidth l.width && (l.rate ≤ 5 || l.flit)
/-- Reasons of a loss of a host link, of a plane failure (12 R351, 10 R315). -/
def isLinkLoss (n : Nat) : Bool := 2 ≤ n && n ≤ 5
def isPlaneReason (n : Nat) : Bool := 1 ≤ n && n ≤ 3
/-- What is uncorrectable in a transfer unit: nothing, its header or descriptor, or a payload word (10 R306). -/
def isPoison (n : Nat) : Bool := n ≤ 2
/-- Causes of a unit failure and of a grove failure (21 R613, R616). -/
def isUnitCause (n : Nat) : Bool := 1 ≤ n && n ≤ 3
def isGroveCause (n : Nat) : Bool := 1 ≤ n && n ≤ 4
/-- An IPv4 or IPv6 address. -/
def isAddress (b : List Byte) : Bool := b.length == 4 || b.length == 16
/-- A thread of a sapling core, and one of a service core (01 R15). -/
def isSaplingThread (t : Thr) : Bool := t.grove < 16 && t.core < 128 && t.thread < 8
def isServiceThread (t : Thr) : Bool := t.grove < 16 && t.core < 16 && t.thread < 4
/-- An mcause value of R440. -/
def isMcause (c : Nat) : Bool := [1, 2, 3, 4, 5, 6, 7, 11, 0x20, 0x21].contains c

/-! ## Operands with parts -/

/-- A sink of an output slice (11 R333). -/
def wfSink : Sink → Bool
  | .hostQueue q => inQp q
  | .clearing c => inClearing c
  | .service q => inByte q
  | .exception => true
  | .cipher => true
/-- A submission queue entry. -/
def wfSqe (e : Sqe) : Bool := inByte e.opc && inHalf e.cid && inWord e.nsid && inLong e.prp1
/-- A cipher message. -/
def wfMsg : CipherMsg → Bool
  | .job q _ => inQp q
  | .frame t => inTag t
/-- A debug operation. -/
def wfDebugOp : DebugOp → Bool
  | .chRelease ch => inSvcChannel ch
  | _ => true
/-- A location word's fields (01 R14). -/
def wfLoc (l : LocWord) : Bool := l.level < 8 && l.stand < 32 && l.grove < 16 && l.kind < 4096 && l.unit < 65536 && l.leaf < 2 ^ 24
/-- A leaf, and a unit or a leaf. -/
def wfLeaf (l : LocWord) : Bool := wfLoc l && l.level == 1
def wfUnit (l : LocWord) : Bool := wfLoc l && (l.level == 1 || l.level == 2)

/-- The command is well formed. -/
def Instr.wf : Instr → Bool
  | .coldPowerUp => true
  | .vauxLoss => true
  | .pwrGoodRise _ => true
  | .pwrGoodFall => true
  | .standSupplyFault stand => inStand stand
  | .avsTargetCompute l => l.length == 4
  | .avsStep stand _ _ => inStand stand
  | .pmbAlert l => l.all fun x => x.1 < 128 && inHalf x.2
  | .powerWindowEnd l => l.length == 11
  | .thermalSensorRead stand sensor _ => inStand stand && inGrove sensor
  | .sysrefLoss => true
  | .sysrefReturn => true
  | .ethrefLoss grove => inGrove grove
  | .ppsOutPulse => true
  | .bootComplete => true
  | .sysRstAssert => true
  | .sysRstRelease _ => true
  | .perstAssert p => inGrove p
  | .perstRelease p rate form => inGrove p && wfLink ⟨form, rate⟩
  | .deviceReset => true
  | .deviceResetExpiry _ => true
  | .deviceStore => true
  | .storeStep h => isHandle h
  | .deviceUpdateStage => true
  | .stageVerifyEnd h _ => isHandle h
  | .deviceUpdateActivate => true
  | .activationStep h => isHandle h
  | .activationTimeout r => isHandle r.h
  | .mailboxSubmit p _ => inGrove p
  | .requestBufferWrite p off b => inGrove p && inBlock 4096 off b.length
  | .mbStatusClear p _ => inGrove p
  | .oobMessage bus eid mtag b => inByte bus && inByte eid && inGroup mtag && b.length ≤ 4096
  | .inbandDatagram port addr udp _ _ => inPort port && isAddress addr && inHalf udp
  | .opStatus => true
  | .opCancel => true
  | .deviceCaps => true
  | .deviceInfo => true
  | .devicePin => true
  | .securityAssign => true
  | .deviceInband => true
  | .portGroup => true
  | .portSet => true
  | .portGet => true
  | .portStats => true
  | .portRetrain => true
  | .trainingFrameReceive port lane _ => inPort port && inGroup lane
  | .trainingAlignmentComplete a => inPort a.port
  | .trainingTimeout port => inPort port
  | .s200AttemptFail port _ => inPort port
  | .trainingRestart port => inPort port
  | .holdUpExpiry port => inPort port
  | .laneLoss port _ => inPort port
  | .linkDegradedWindow port _ _ _ => inPort port
  | .ethFrameFirstByte port b => inPort port && b.length ≤ 16384
  | .ethFrameLastBit tag l => inTag tag && l.all fun x => x.single + x.erased ≤ 34 && x.symbols ≤ 544
  | .pfcFrameReceive port _ quanta => inPort port && quanta.length == 8 && quanta.all inHalf
  | .pauseFrameReceive port quanta => inPort port && inHalf quanta
  | .pauseExpiry port prio => inPort port && isPrio prio
  | .pfcResend port => inPort port
  | .trailResult tag => inTag tag
  | .decisionRelease tag => inTag tag
  | .windowReady tag => inTag tag
  | .windowDispatch t => isSaplingThread t
  | .threadFrameStart t => isSaplingThread t
  | .spNop t => isSaplingThread t
  | .spHalt t => isSaplingThread t
  | .spExt t => isSaplingThread t
  | .spExtm t => isSaplingThread t
  | .spAdd t => isSaplingThread t
  | .spSub t => isSaplingThread t
  | .spAnd t => isSaplingThread t
  | .spOr t => isSaplingThread t
  | .spXor t => isSaplingThread t
  | .spShl t => isSaplingThread t
  | .spShr t => isSaplingThread t
  | .spAddi t => isSaplingThread t
  | .spSubi t => isSaplingThread t
  | .spAndi t => isSaplingThread t
  | .spOri t => isSaplingThread t
  | .spXori t => isSaplingThread t
  | .spShli t => isSaplingThread t
  | .spShri t => isSaplingThread t
  | .spLdi t => isSaplingThread t
  | .spComp t => isSaplingThread t
  | .spCompi t => isSaplingThread t
  | .spBr t => isSaplingThread t
  | .spBt t => isSaplingThread t
  | .spBf t => isSaplingThread t
  | .spBrx t => isSaplingThread t
  | .spKey t => isSaplingThread t
  | .spKeyw t => isSaplingThread t
  | .spKeyi t => isSaplingThread t
  | .spEmit t => isSaplingThread t
  | .spThint t => isSaplingThread t
  | .overrunFault t => isSaplingThread t
  | .fallThroughFault t => isSaplingThread t
  | .thintCandidateDeliver tag => inTag tag
  | .classParseStage => true
  | .classParseLoad => true
  | .parseBankSwitch h _ => isHandle h
  | .classParseGet => true
  | .classParseStats => true
  | .walkStart grove => inGrove grove
  | .walkEnd tag _ => inTag tag
  | .classRuleStage => true
  | .classRouteStage => true
  | .classTreeInstall => true
  | .treeInstallStep h _ _ => isHandle h
  | .classTreeGet => true
  | .classBuildGet => true
  | .classMeterSet => true
  | .classMeterGet => true
  | .classActionStats => true
  | .classStats => true
  | .classLookup => true
  | .tblCmdRead src _ => inTableSource src
  | .tblCmdWrite src _ => inTableSource src
  | .tblCmdSearch src _ => inTableSource src
  | .tblCmdInsert src _ => inTableSource src
  | .tblCmdDelete src _ => inTableSource src
  | .tblCmdAgeStep src _ => inTableSource src
  | .tblDataWrite src off b => inTableSource src && inBlock 64 off b.length
  | .tblStatusClear src _ => inTableSource src
  | .tblResultPost src => inTableSource src
  | .lookupPoisonRepair t r p => inTable t && inStand r && inLocations t p
  | .learnDecide => true
  | .learnEngineTakeover => true
  | .ageSweepStep table => inTable table
  | .tableRead => true
  | .tableWrite => true
  | .tableSearch => true
  | .tableInsert => true
  | .tableDelete => true
  | .tableAgeStep => true
  | .tableRehash => true
  | .rehashStep h => isHandle h
  | .tableInfo => true
  | .tablePartSet => true
  | .tableLearnSet => true
  | .tableFlush => true
  | .flushStep h => isHandle h
  | .tableStats => true
  | .planeIteration plane => inPlane plane
  | .lbConnection plane => inPlane plane
  | .transferUnitReceive g poison => inGrove g && isPoison poison
  | .frameIncompleteTimeout grove tag => inGrove grove && inTag tag
  | .planeFailure plane reason crosspoint => inPlane plane && isPlaneReason reason && inByte crosspoint
  | .planeDownReport plane => inPlane plane
  | .schedulerMismatch plane => inPlane plane
  | .canopyModeReport plane => inPlane plane
  | .lbModeSwitch plane => inPlane plane
  | .healthCanopyGet => true
  | .healthCanopySet => true
  | .frameEligible grove tag => inGrove grove && inTag tag
  | .egressSchedule port => inPort port
  | .frameTransmitEnd port => inPort port
  | .sinkTake g k => inGrove g && wfSink k
  | .auditStart grove => inGrove grove
  | .auditEnd g lost conflicts => inGrove g && lost.all inTag && conflicts.all inTag
  | .portEgressSet => true
  | .portEgressGet => true
  | .portSliceSet => true
  | .portSliceGet => true
  | .portMirrorSet => true
  | .portMirrorGet => true
  | .hostLinkDown p reason => inGrove p && isLinkLoss reason
  | .hostLinkUp p rate form => inGrove p && wfLink ⟨form, rate⟩
  | .configRequest fn bus _ _ => inFn fn && inByte bus
  | .registerWrite fn bar off _ => inFn fn && inBar bar && inLong off
  | .busMasterDisable fn => inFn fn
  | .busMasterEnable fn => inFn fn
  | .flr fn => inFn fn
  | .flrComplete fn => inFn fn
  | .vfCessation fn n => inFn fn && n ≤ 1024
  | .d3hotEntry fn => inFn fn
  | .d0Return fn => inFn fn
  | .pmeResend fn => inFn fn
  | .pmeTurnOff p => inGrove p
  | .cplTimeoutValueWrite fn _ => inFn fn
  | .cplTimeoutWrite fn _ => inFn fn
  | .pasidEnableClear fn => inFn fn
  | .msixEnableSet fn => inFn fn
  | .intxAckWrite fn vec => inFn fn && inVector vec
  | .atsInvalidate fn lo hi itag => inFn fn && inLong lo && inLong hi && lo ≤ hi && inItag itag
  | .completionReceive p tag _ _ => inGrove p && inPcieTag tag
  | .completionTimeout p tag => inGrove p && inPcieTag tag
  | .tagQuarantineEnd p tag => inGrove p && inPcieTag tag
  | .aspmL1Entry p => inGrove p
  | .l1Exit p => inGrove p
  | .queueHostSet => true
  | .queueHostGet => true
  | .queueHostStats => true
  | .workPiWrite fn slot _ => inFn fn && inHalf slot
  | .cplCiWrite fn slot _ => inFn fn && inHalf slot
  | .qpCtrlStart fn slot => inFn fn && inHalf slot
  | .qpCtrlStop fn slot => inFn fn && inHalf slot
  | .qpCtrlReset fn slot => inFn fn && inHalf slot
  | .qpStoppingEnd qp => inQp qp
  | .descriptorFetch qp => inQp qp
  | .jobStart qp => inQp qp
  | .cqStallTimeout qp => inQp qp
  | .jobComplete qp _ => inQp qp
  | .qpNop qp _ => inQp qp
  | .counterWait qp _ => inQp qp
  | .counterWaitSatisfied qp _ => inQp qp
  | .counterWaitTimeout qp _ => inQp qp
  | .tx qp _ => inQp qp
  | .rxPost qp => inQp qp
  | .rxDelivery qp => inQp qp
  | .queueQpSet => true
  | .queueQpGet => true
  | .queueQpStateStart => true
  | .queueQpStateStop => true
  | .queueQpStateReset => true
  | .queueQpStats => true
  | .eventDelivery src => inSource src
  | .eqCiWrite fn eq _ => inFn fn && inEq eq
  | .eqCtrlEnable fn eq => inFn fn && inEq eq
  | .eqCtrlDisable fn eq => inFn fn && inEq eq
  | .eqCtrlInvalid fn eq _ => inFn fn && inEq eq
  | .interruptSend eq => inEq eq
  | .eventEqSet => true
  | .eventEqGet => true
  | .eventEqStateEnable => true
  | .eventEqStateDisable => true
  | .eventEqStateReset => true
  | .eventModSet => true
  | .eventRouteSet => true
  | .eventRouteGet => true
  | .eventGroupSet => true
  | .eventStats => true
  | .svcInstruction t _ => isServiceThread t
  | .threadFault t cause _ => isServiceThread t && isMcause cause
  | .stillnessDetect grove core => inGrove grove && inGrove core
  | .chPut t => isServiceThread t
  | .chSend t => isServiceThread t
  | .chRecv t => isServiceThread t
  | .chGet t => isServiceThread t
  | .chPoll t => isServiceThread t
  | .channelStale grove ch => inGrove grove && inSvcChannel ch
  | .chRelease grove ch => inGrove grove && inSvcChannel ch
  | .svcRestartWrite t _ => isServiceThread t
  | .groveRestartWrite t _ => isServiceThread t
  | .groveServiceRestart grove => inGrove grove
  | .frmTake t _ => isServiceThread t
  | .frmAlloc t _ => isServiceThread t
  | .frmSend t _ => isServiceThread t
  | .frmFree t _ => isServiceThread t
  | .logCiWrite grove _ => inGrove grove
  | .candCiWrite grove _ => inGrove grove
  | .serviceStage => true
  | .serviceLoad => true
  | .serviceLoadStep h => isHandle h
  | .serviceGet => true
  | .serviceStats => true
  | .serviceNvmeSet => true
  | .serviceNvmeNsSet => true
  | .serviceSlowpathSet => true
  | .servicePolicySet => true
  | .serviceLearnRead => true
  | .slowpathFrame grove => inGrove grove
  | .policyCandidate grove => inGrove grove
  | .learnLogMove => true
  | .nvmeCcWrite fn _ => inFn fn
  | .nvmeSqTailDoorbell fn y v => inFn fn && inNvQueue y && inWord v
  | .nvmeCqHeadDoorbell fn y v => inFn fn && inNvQueue y && inWord v
  | .nvCreateIoSq fn sqe => inFn fn && wfSqe sqe
  | .nvDeleteIoSq fn sqe => inFn fn && wfSqe sqe
  | .nvCreateIoCq fn sqe => inFn fn && wfSqe sqe
  | .nvDeleteIoCq fn sqe => inFn fn && wfSqe sqe
  | .nvGetLogPage fn sqe => inFn fn && wfSqe sqe
  | .nvIdentify fn sqe => inFn fn && wfSqe sqe
  | .nvAbort fn sqe => inFn fn && wfSqe sqe
  | .nvSetFeatures fn sqe => inFn fn && wfSqe sqe
  | .nvGetFeatures fn sqe => inFn fn && wfSqe sqe
  | .nvAsyncEventRequest fn sqe => inFn fn && wfSqe sqe
  | .nvInvalidOpcode fn sq sqe => inFn fn && inNvQueue sq && wfSqe sqe
  | .nvFlush fn sq sqe _ => inFn fn && inNvQueue sq && wfSqe sqe
  | .nvWrite fn sq sqe _ _ => inFn fn && inNvQueue sq && wfSqe sqe
  | .nvRead fn sq sqe _ => inFn fn && inNvQueue sq && wfSqe sqe
  | .nvWriteZeroes fn sq sqe _ => inFn fn && inNvQueue sq && wfSqe sqe
  | .nvDatasetManagement fn sq sqe _ => inFn fn && inNvQueue sq && wfSqe sqe
  | .nvmeIoTimeout fn sq cid => inFn fn && inNvQueue sq && inHalf cid
  | .remoteKeySet => true
  | .remoteKeyGet => true
  | .remoteKeyRevoke => true
  | .keyRevokeDrained index => inConn index
  | .remoteConnSet => true
  | .remoteConnGet => true
  | .remoteConnReset => true
  | .remoteEngineSet => true
  | .remoteStats => true
  | .remoteWrite qp _ => inQp qp
  | .remoteRead qp _ => inQp qp
  | .remoteSend qp _ => inQp qp
  | .recvPost qp _ => inQp qp
  | .atomicAdd qp _ => inQp qp
  | .cas64 qp _ => inQp qp
  | .cas128 qp _ => inQp qp
  | .writePacketReceive grove => inGrove grove
  | .readReqReceive grove _ => inGrove grove
  | .readRespReceive grove => inGrove grove
  | .sendPacketReceive grove => inGrove grove
  | .atomicReqReceive grove _ => inGrove grove
  | .atomicRespReceive grove => inGrove grove
  | .ackReceive grove => inGrove grove
  | .nakReceive grove => inGrove grove
  | .rocev2PacketReceive grove _ => inGrove grove
  | .retransmitTimeout conn msg => inConn conn && inWord msg
  | .rnrDelayExpiry conn msg => inConn conn && inWord msg
  | .contextExpiry conn msg => inConn conn && inWord msg
  | .cwndWindow conn => inConn conn
  | .cipherKeySet => true
  | .cipherKeyGet => true
  | .cipherKeyDestroy => true
  | .keyEntryZeroize index => inConn index
  | .cipherSaSet => true
  | .cipherSaGet => true
  | .cipherSaDestroy => true
  | .cipherQpBind => true
  | .cipherEngineSet => true
  | .cipherStats => true
  | .aeadSeal qp _ => inQp qp
  | .aeadOpen qp _ => inQp qp
  | .xtsEnc qp _ => inQp qp
  | .xtsDec qp _ => inQp qp
  | .tlsSeal qp _ => inQp qp
  | .tlsOpen qp _ => inQp qp
  | .urgentPreempt g e _ => inGrove g && inEngine e
  | .bulkResume grove engine => inGrove grove && inEngine engine
  | .cipherMessageEnd g e m _ => inGrove g && inEngine e && wfMsg m
  | .espOutbound tag => inTag tag
  | .espInbound tag => inTag tag
  | .clearingRent => true
  | .clearingRentStep h _ => isHandle h
  | .clearingRelease => true
  | .clearingReleaseStep h _ => isHandle h
  | .clearingStage => true
  | .clearingStageHost => true
  | .clearingLoad => true
  | .clearingLoadStep h _ => isHandle h
  | .clearingUnload => true
  | .clearingGet => true
  | .clearingQpBind => true
  | .clearingLineBind => true
  | .clearingCtrl => true
  | .clearingMeterSet => true
  | .clearingMeterRead => true
  | .clearingStats => true
  | .shellClockStart c => inClearing c
  | .shellResetRelease c => inClearing c
  | .clearingRunning c => inClearing c
  | .streamRxFrame c => inClearing c
  | .streamTxFrame c b _ => inClearing c && b.length ≤ 16383
  | .memCommand c _ off count id => inClearing c && inOffset off && count < 64 && inByte id
  | .memWriteData c _ _ _ _ => inClearing c
  | .memResponse c id _ => inClearing c && inByte id
  | .h2c qp _ => inQp qp
  | .c2hPost qp _ => inQp qp
  | .h2cMessage c => inClearing c
  | .c2hMessage c chan _ _ _ => inClearing c && inChannel chan
  | .eventLineFire c _ _ => inClearing c
  | .controlRequest c fn _ off _ _ => inClearing c && inFn fn && inHalf off
  | .controlAnswer c rtag _ => inClearing c && inCtlTag rtag
  | .controlReadTimeout c rtag => inClearing c && inCtlTag rtag
  | .clearingPowerWindow c _ => inClearing c
  | .configMemoryError c => inClearing c
  | .meterWindowClose c => inClearing c
  | .firebreakSet => true
  | .firebreakGet => true
  | .firebreakMapSet => true
  | .firebreakMapGet => true
  | .firebreakLogRead => true
  | .securityWrapkeySet => true
  | .securityCmdkeySet => true
  | .securityVerifykeySet => true
  | .securityFloorSet => true
  | .securityDebugSet => true
  | .debugWindowClose grove => inGrove grove
  | .jtagDebugAccess t op => isServiceThread t && wfDebugOp op
  | .securityIdentityGet => true
  | .securityAttest => true
  | .attestComplete h => isHandle h
  | .securityReportGet => true
  | .securityKeysGet => true
  | .timeConfig => true
  | .timeSetDelta => true
  | .timeSetAtEdge => true
  | .timeSetEdgeTimeout => true
  | .timeAdjust => true
  | .timeGet => true
  | .ppsInEdge stamp => inLong stamp
  | .timeHoldover => true
  | .scrubRead loc word _ => wfLeaf loc && inWord word
  | .unitFailure loc cause => wfUnit loc && isUnitCause cause
  | .treeBankRemap g b => inGrove g && inBank b
  | .groveFailure g cause => inGrove g && isGroveCause cause
  | .wardenHeartbeat => true
  | .wardenHeartbeatTimeout => true
  | .wardenTakeoverActive => true
  | .failedCoreTest _ => true
  | .wardenDoubleFailure _ => true
  | .logFlush => true
  | .healthGet => true
  | .healthLogRead => true
  | .entryThaw key => inLong key
  | .clearingUnloadStep h _ => isHandle h
  | .clearingStageHostStep h _ => isHandle h
  | .msixTableEntryUnmask fn vec => inFn fn && inVector vec

end Sys2Proof
end

