-- ==== Sys2Proof/Tests/Slice0.lean ====
section
/-! SUPPORT. Tests of the model: a term that each check of WellFormed refuses, the spec's own worked examples, and for
every obligation with hypotheses one theorem `meets_<obligation>` that shows, clause by clause, concrete states and
operands that meet them. -/
open Sys2Proof Sys2Proof.Machine
set_option maxRecDepth 20000
set_option Elab.async false
namespace Sys2Proof.Machine
/-- A part at work: power good, booted, clocks running. -/
def up : State := { State.reset with
  board := { State.reset.board with pwrGood := true, squelched := false, dmaStopped := false, retainedValid := true }
  boot := { phase := .running }
  now := 1000000000 }
/-- A request with an opcode and a payload, from a mailbox that acts for itself; 16 is the operator's. -/
def rq (op : Nat) (p : List Byte) (mb : Nat := 16) : Request :=
  { via := .oob 0 0 0, mb := mb, opcode := op, auth := false, actAs := false, doneEvent := false, length := p.length,
    acting := 0, hostTag := 0, counter := 1, payload := p, header := [], tag := 0, counterCopy := 0, wellFormed := true }
/-- A state in which a request has been accepted. -/
def State.ask (s : State) (r : Request) : State := { s with sl := { s.sl with accepted := some r } }
/-- A state with a long operation in progress. -/
def State.busyWith (s : State) (o : LongOp) : State := { s with sl := { s.sl with ops := s.sl.ops ++ [o] } }
/-- A long operation of the operator. -/
def lop (data : OpData) (steps : Nat := 0) (opcode : Nat := 0x0103) : LongOp :=
  { handle := 1, opcode := opcode, starter := operator, mb := 16, doneEvent := false, startSeq := 5, stepsDone := steps,
    stepsTotal := 9, data := data }
/-- A function that takes requests, masters the bus and sends MSI-X. -/
def fnOn : FnSt := { memSpace := true, busMaster := true, msixEnable := true }
/-- The part at work with the physical functions of host port 0 enumerated. -/
def hostUp : State := { up with hp := { up.hp with
  ports := [(0, { up := true, full := true, rate := 6, width := 16 })]
  fns := [(0, fnOn), (1, fnOn), (2, fnOn)] } }
/-- The part with an Ethernet port in a state of its link. -/
def State.withEth (s : State) (n : Nat) (p : PortSt) : State := { s with et := { s.et with ports := [(n, p)] } }
/-- The part with a frame under a tag. -/
def State.withFrame (s : State) (tag : Nat) (f : FrameRec) : State := { s with cn := { s.cn with frames := [(tag, f)] } }
/-- A frame of 64 bytes from Ethernet port 0 with a good FCS. -/
def frame0 : FrameRec := { bytes := zeros 60 ++ leBytes 4 (crc32 (zeros 60)).toNat, kind := 0, id := 0, steerKey := 0, first := 0, order := 0 }
/-- The first thread of a sapling in grove 0. -/
def thr0 : Thr := ⟨0, 0, 0⟩
/-- A context that has started on the frame with tag 0. -/
def ctx0 : Ctx := { tag := 0, started := true }
/-- The part with a sapling thread in a context, its program the words given. -/
def State.parsing (s : State) (ws : List W64) (c : Ctx) : State :=
  { s with ps := { s.ps with groves := [(0, { bank0 := some ws, threads := [(0, [c])] })] } }
/-- A queue pair that runs, with rings of 64. -/
def qp0 : Qp := { state := 2, set := { workLog2 := 6, cplLog2 := 6, slot := 5 } }
/-- The part with a queue pair of host port 0 that PF0 owns. -/
def State.withQp (s : State) (q : Nat) (x : Qp) : State :=
  { s with cfg := { s.cfg with owners := [(0x2000000 + q, 0)] }, qp := { qps := [(q, x)] } }
/-- A descriptor of one opcode that is a job of its own. -/
def desc (op : Nat) : BitVec 256 := BitVec.ofNat 256 (op + 0x300)
/-- A job of one descriptor. -/
def job1 (d : BitVec 256) : Job := { slot := 7, first := 7, descs := [d] }
/-- The part with an event queue of host port 0. -/
def State.withEq (s : State) (e : Nat) (x : Eq) : State := { s with ev := { s.ev with eqs := [(e, x)] } }
/-- The part with the firebreaks of the PCIe windows and of host memory of port 0 open to every master. -/
def State.opened (s : State) : State :=
  let e : FbEntry := { valid := true, limit := 2 ^ 64, r := true, w := true, a := true }
  { s with cfg := { s.cfg with firebreaks := [(64 * 0x400 + 1, e), (64 * 0x600 + 1, e)] } }
/-- What a start reads when every image, slot and check is good. -/
def reads0 : BootReads :=
  { fwA := true, fwB := true, slot0 := true, slot1 := true, retained := true, sensorsCool := true }
/-- A submission queue entry with its host bytes. -/
def entry (opc nsid : Nat) (c10 c11 : BitVec 32) : Sqe := ⟨opc, 5, nsid, 0, [], c10, c11, 0, [⟨some .sc, leBytes 1 opc ++ [0, 5, 0] ++ leBytes 4 nsid ++ zeros 32 ++ leBytes 4 c10.toNat ++ leBytes 4 c11.toNat ++ zeros 16⟩], (1, 0)⟩
/-- The read of that entry at the head of a queue at 4096. -/
def readEntry (s : State) (e : Sqe) : (State × Asked) × List Byte := s.svcHostReads 1 [(4096, 64)] e.host []
end Sys2Proof.Machine
namespace Sys2Proof.Tests

/-! ## Well-formedness: each check refuses a term and accepts one beside it. -/

theorem test_wf_stand : (Instr.standSupplyFault 4).wf = false ∧ (Instr.standSupplyFault 3).wf = true := by decide
theorem test_wf_grove : (Instr.walkStart 16).wf = false ∧ (Instr.walkStart 15).wf = true := by decide
theorem test_wf_ethernet_port : (Instr.trainingTimeout 512).wf = false ∧ (Instr.trainingTimeout 511).wf = true := by decide
theorem test_wf_lane : (Instr.trainingFrameReceive 0 8 ⟨true, 0, 0, 0, 0, true, 0⟩).wf = false ∧
    (Instr.trainingFrameReceive 0 7 ⟨true, 0, 0, 0, 0, true, 0⟩).wf = true := by decide
theorem test_wf_byte : (Instr.oobMessage 256 0 0 []).wf = false ∧ (Instr.oobMessage 255 0 0 []).wf = true := by decide
theorem test_wf_half : (Instr.pauseFrameReceive 0 65536).wf = false ∧ (Instr.pauseFrameReceive 0 65535).wf = true := by decide
theorem test_wf_word : (Instr.retransmitTimeout 0 (2 ^ 32)).wf = false ∧ (Instr.retransmitTimeout 0 (2 ^ 32 - 1)).wf = true := by decide
theorem test_wf_long : (Instr.entryThaw (2 ^ 64)).wf = false ∧ (Instr.entryThaw (2 ^ 64 - 1)).wf = true := by decide
theorem test_wf_block : (Instr.tblDataWrite 0 61 [0, 0, 0, 0]).wf = false ∧ (Instr.tblDataWrite 0 60 [0, 0, 0, 0]).wf = true ∧
    (Instr.tblDataWrite 0 0 []).wf = false := by decide
theorem test_wf_function : (Instr.flr 65536).wf = false ∧ (Instr.flr 65535).wf = true := by decide
theorem test_wf_queue_pair : (Instr.jobStart 65536).wf = false ∧ (Instr.jobStart 65535).wf = true := by decide
theorem test_wf_event_queue : (Instr.interruptSend 4096).wf = false ∧ (Instr.interruptSend 4095).wf = true := by decide
theorem test_wf_event_source : (Instr.eventDelivery 69632).wf = false ∧ (Instr.eventDelivery 69631).wf = true := by decide
theorem test_wf_register_set : (Instr.tblResultPost 160).wf = false ∧ (Instr.tblResultPost 159).wf = true := by decide
theorem test_wf_table : (Instr.ageSweepStep 2).wf = false ∧ (Instr.ageSweepStep 1).wf = true := by decide
theorem test_wf_location : (Instr.lookupPoisonRepair 1 0 131136).wf = false ∧ (Instr.lookupPoisonRepair 0 0 131136).wf = true ∧
    (Instr.lookupPoisonRepair 0 0 1048640).wf = false := by decide
theorem test_wf_plane : (Instr.planeIteration 8).wf = false ∧ (Instr.planeIteration 7).wf = true := by decide
theorem test_wf_plane_reason : (Instr.planeFailure 0 0 0).wf = false ∧ (Instr.planeFailure 0 3 0).wf = true := by decide
theorem test_wf_frame_tag : (Instr.trailResult (2 ^ 24)).wf = false ∧ (Instr.trailResult (2 ^ 24 - 1)).wf = true := by decide
theorem test_wf_transfer_unit : (Instr.transferUnitReceive 0 3).wf = false ∧ (Instr.transferUnitReceive 0 2).wf = true := by decide
theorem test_wf_pcie_tag : (Instr.completionTimeout 0 16384).wf = false ∧ (Instr.completionTimeout 0 16383).wf = true := by decide
theorem test_wf_vector : (Instr.msixTableEntryUnmask 0 2048).wf = false ∧ (Instr.msixTableEntryUnmask 0 2047).wf = true := by decide
theorem test_wf_invalidation : (Instr.atsInvalidate 0 0 0 32).wf = false ∧ (Instr.atsInvalidate 0 1 0 31).wf = false ∧
    (Instr.atsInvalidate 0 0 1 31).wf = true := by decide
theorem test_wf_bar : (Instr.registerWrite 0 6 0 (.read 4)).wf = false ∧ (Instr.registerWrite 0 5 0 (.read 4)).wf = true := by decide
theorem test_wf_link : (Instr.hostLinkUp 0 8 ⟨16, true, false⟩).wf = false ∧ (Instr.hostLinkUp 0 7 ⟨3, true, false⟩).wf = false ∧
    (Instr.hostLinkUp 0 7 ⟨16, true, false⟩).wf = true ∧ (Instr.hostLinkDown 0 1).wf = false ∧ (Instr.hostLinkDown 0 2).wf = true := by decide
theorem test_wf_link_flit : (Instr.hostLinkUp 0 6 ⟨16, false, false⟩).wf = false ∧ (Instr.hostLinkUp 0 5 ⟨16, false, false⟩).wf = true := by
  decide
theorem test_wf_readings : (Instr.avsTargetCompute []).wf = false ∧ (Instr.powerWindowEnd []).wf = false ∧
    (Instr.pmbAlert [(128, 0)]).wf = false ∧ (Instr.pmbAlert [(127, 65535)]).wf = true := by decide
theorem test_wf_connection : (Instr.cwndWindow (2 ^ 20)).wf = false ∧ (Instr.cwndWindow (2 ^ 20 - 1)).wf = true := by decide
theorem test_wf_nvme : (Instr.nvmeIoTimeout 0 129 0).wf = false ∧ (Instr.nvmeIoTimeout 0 128 0).wf = true ∧
    (Instr.nvFlush 0 1 ⟨256, 0, 0, 0, [], 0, 0, 0, [], (1, 0)⟩ true).wf = false ∧
    (Instr.nvFlush 0 1 ⟨255, 65535, 1, 0, [], 0, 0, 0, [], (1, 0)⟩ true).wf = true := by decide
theorem test_wf_engine : (Instr.bulkResume 0 4).wf = false ∧ (Instr.bulkResume 0 3).wf = true := by decide
theorem test_wf_clearing : (Instr.meterWindowClose 32).wf = false ∧ (Instr.meterWindowClose 31).wf = true := by decide
theorem test_wf_channel : (Instr.channelStale 0 512).wf = false ∧ (Instr.channelStale 0 511).wf = true := by decide
theorem test_wf_control_tag : (Instr.controlReadTimeout 0 16).wf = false ∧ (Instr.controlReadTimeout 0 15).wf = true := by decide
theorem test_wf_bank : (Instr.treeBankRemap 0 132).wf = false ∧ (Instr.treeBankRemap 0 131).wf = true := by decide
theorem test_wf_handle : (Instr.storeStep 0).wf = false ∧ (Instr.storeStep 1).wf = true := by decide
theorem test_wf_priority : (Instr.pauseExpiry 0 9).wf = false ∧ (Instr.pauseExpiry 0 8).wf = true := by decide
theorem test_wf_s200_port : (Instr.s200AttemptFail 512 {}).wf = false ∧ (Instr.s200AttemptFail 511 {}).wf = true := by decide
theorem test_wf_address : (Instr.inbandDatagram 0 [1, 2, 3] 9 false []).wf = false ∧
    (Instr.inbandDatagram 0 [1, 2, 3, 4] 9 false []).wf = true := by decide
theorem test_wf_threads : (Instr.spNop ⟨0, 128, 0⟩).wf = false ∧ (Instr.spNop ⟨15, 127, 7⟩).wf = true ∧
    (Instr.chPoll ⟨0, 16, 0⟩).wf = false ∧ (Instr.chPoll ⟨15, 15, 3⟩).wf = true := by decide
theorem test_wf_thread_fault : (Instr.threadFault ⟨0, 0, 0⟩ 8 0).wf = false ∧ (Instr.threadFault ⟨0, 0, 0⟩ 0x21 0).wf = true := by
  decide
theorem test_wf_unit : (Instr.unitFailure ⟨3, 0, 0, 1, 0, 0⟩ 1).wf = false ∧ (Instr.unitFailure ⟨2, 0, 0, 1, 0, 0⟩ 4).wf = false ∧
    (Instr.unitFailure ⟨2, 0, 0, 1, 0, 0⟩ 3).wf = true ∧ (Instr.groveFailure 0 5).wf = false ∧
    (Instr.groveFailure 0 4).wf = true := by decide

/-! ## The spec's worked examples -/

/-- 01 R14 Worked example: thread slot 5 of sapling core 70 in grove 9, and the core. -/
theorem test_location_word : locWord (locLeaf 9 1 70 5) = 0x2290010046000005 ∧ locWord (locUnit 9 1 70) = 0x4290010046000000 := by
  decide
/-- 05 R132 Worked example: START_MASK 0xD1 in L400 gives ports at 0, 4, 6 and 7 of widths 4, 2, 1 and 1. -/
theorem test_port_layout : layoutPorts 0xD1 = [(0, 4), (4, 2), (6, 1), (7, 1)] ∧ layoutOk 0 0xD1 = true ∧
    layoutOk 1 0xD1 = false ∧ layoutOk 1 0x55 = true ∧ layoutPorts 0x55 = [(0, 2), (2, 2), (4, 2), (6, 2)] := by decide
/-- The same example on lane group 37. -/
def group37 : State := { up with cfg := { up.cfg with groups := [(37, { mask := 0xD1 })] } }
theorem test_port_speeds : (List.range 8).filter (fun i => group37.isPort (296 + i)) = [0, 4, 6, 7] ∧
    [296, 300, 302, 303].map group37.speedGbps = [1600, 800, 400, 400] := by decide
/-- 04 R111 Worked example: floor 76,800, VAUX lost, counter 77,412 answered REPLAY with NEXT_COUNTER 77,825. -/
def floored : State := { up with nv := { up.nv with counterFloors := [(3, 76800)] } }
theorem test_counter_floor : ((floored.loseRetained).counterOf 3).last = 77824 ∧
    fld (replayPayload ((floored.loseRetained).counterOf 3)) 0 8 = 77825 := by decide
/-- 06 Encoding example: EXT r4, window[r1 + 2], 2 bytes, with r1 = 34. -/
theorem test_ext : ((opExt (ctx0.setReg 1 34) 0x1041902000000000 (zeros 36 ++ [0x1E, 0x61]) true).map fun c => c.reg 4) =
    some 0x1E61 := by decide
/-- A field past the window's end faults. -/
theorem test_ext_fault : (opExt (ctx0.setReg 1 34) 0x1041902000000000 (zeros 36) true).isNone = true := by decide
/-- 08 R244 Worked example: E1 goes from 26,798 to 585,796 before the new entry is written at 26,798. -/
theorem test_table_move : let e : BitVec 512 := 1#512 <<< 63
    let x : XTable := { entries := [(26798, e)] }
    (x.move 26798 585796).entries = [(585796, e)] := by decide
/-- 08 R256 Worked example: after four moves in window [0 s, 1 s) an event from port 96 at 0.60 s is refused, and the entry
of tenant 0x0042, address 02-00-00-00-0D-07 freezes at port 64. -/
def flapKey : Nat := 0x00420200_00000D07
def flapping : State := { up with tb := { up.tb with
  host := { entries := [(1048639, BitVec.ofNat 512 (2 ^ 64 * flapKey + 2 ^ 63 + 2 ^ 48 * 64))] }
  moves := [⟨BitVec.ofNat 64 flapKey, [(0, 4)], none, false⟩] } }
theorem test_mac_flap : let t := flapping.decideLearn ⟨2400000000, 96, 0x42, 0x020000000D07⟩
    (t.movesOf flapKey).frozen = some 2400000000 ∧ xLoc (SMap.getD t.tb.host.entries 1048639 0) = 64 := by decide
/-- The event from port 96 at 0.50 s, the fourth move, is applied. -/
def flapping3 : State := { flapping with tb := { flapping.tb with moves := [⟨BitVec.ofNat 64 flapKey, [(0, 3)], none, false⟩] } }
theorem test_mac_move : let t := flapping3.decideLearn ⟨2000000000, 96, 0x42, 0x020000000D07⟩
    (t.movesOf flapKey).moves = [(0, 4)] ∧ xLoc (SMap.getD t.tb.host.entries 1048639 0) = 96 := by decide
/-- 13 Worked example: with 64 slots the record of index 0x21 is on the first pass, that of 0x40 on the second. -/
theorem test_record_phase : (cplBytes ⟨0, 0, 0, 0, 0⟩ 0x21 6).headD 0 = 1 ∧ (cplBytes ⟨0, 0, 0, 0, 0⟩ 0x40 6).headD 0 = 0 := by
  decide
/-- 13 Worked example: 0x10 − 0x22 is negative, so the waiter waits; at 0x22 it is met. -/
def counted (n : W32) : State := { up with qp := { qps := [(16400, { cplDone := n })] } }
theorem test_counter_wait : (counted 0x10).waitMet 16400 0x22 = false ∧ (counted 0x22).waitMet 16400 0x22 = true := by decide
/-- 18 Worked example: clearing 19 measures 19.4 W, and EV_CLEARING_POWER fires with data 0x8000_0113. -/
def cl19 (x : Cl) : State := { up with
  clr := [(19, x)], cfg := { up.cfg with owners := [(0x4000000 + 19, 0x9000)], rentals := [(19, ⟨0x9000, 1, 0, 0⟩)] } }
def powered19 (mw : Nat) (x : Cl) : State := match execClearingPowerWindow 19 mw (cl19 x) with | .next u => u | _ => up
theorem test_clearing_power : ((powered19 19400 { state := 5 }).clearing 19).steps = 1 ∧
    ((powered19 19400 { state := 5 }).src 0x10907).held.map (·.data) = [0x80000113] ∧
    ((powered19 18300 { state := 5, steps := 1 }).clearing 19).steps = 2 ∧
    ((powered19 17600 { state := 5, steps := 2 }).clearing 19).steps = 2 ∧
    ((powered19 16800 { state := 5, steps := 2 }).clearing 19).steps = 1 ∧
    ((powered19 16900 { state := 5, steps := 1 }).src 0x10907).held.map (·.data) = [0x00000013] := by decide
/-- 20 Worked example: an OFFSET of +2 ms exceeds STEP_NS 1,000,000, so time steps and EV_TIME_STEP fires with data
0x0000_07D0. -/
def stepping : State := { up with
  cfg := { up.cfg with time := ⟨2, true, 0xFFFF, 200, 60000, 1000000, 5⟩ }, board := { up.board with sysref := true } }
theorem test_time_step : (stepping.correct 8000000).time = stepping.time + 8000000 ∧
    (((stepping.correct 8000000).ev.srcs.flatMap fun x => x.2.held).filter (·.type == Ev.timeStep)).all (·.data == 0x7D0) = true ∧
    (((stepping.correct 8000000).ev.srcs.flatMap fun x => x.2.held).any (·.type == Ev.timeStep)) = true := by decide
/-- 21 Worked example, and 23 Decoding an example: trail pipeline 3 of grove 9 fails its hardware check. -/
theorem test_unit_fenced : locWord (locUnit 9 2 3) = 0x4290020003000000 ∧
    ((up.failUnit (locUnit 9 2 3) 1).src 0x10905).held = [⟨0x0D30, 0x03020009, 1000000000, 1⟩] ∧
    (up.failUnit (locUnit 9 2 3) 1).isFenced 2 9 3 = true := by decide
/-- 22 Worked example: the DEVICE record of a TW9-H. -/
def partH : State := { up with variant := .h }
theorem test_variant : partH.variantCode = 2 ∧ partH.lanes = 256 ∧ partH.groves = 8 ∧ partH.clearings = 16 := by decide
/-- 17 Worked example: SA 589,830 of grove 9 counts its first failure, and EV_SA_AUTH_FAIL has data 0x0019_0006. -/
theorem test_sa_auth_fail : ((up.saAuthFail 9 589830).src 0x1090A).held.map (·.data) = [0x00190006] ∧ up.groves = 16 := by decide
/-- The check values of CRC-32 and CRC-32C over the nine digits. -/
def nine : List Byte := [0x31, 0x32, 0x33, 0x34, 0x35, 0x36, 0x37, 0x38, 0x39]
theorem test_crc : crc32 nine = 0xCBF43926 ∧ crc32c nine = 0xE3069283 := by decide

/-- What `Obligations.StepRunsTheFrontCommand` supposes can be met, clause by clause. -/
theorem meets_StepRunsTheFrontCommand :
    (∃ (s : State) (c : Instr) (rest : List Instr), s.pending = c :: rest) ∧
    (∃ (s : State), s.pending = [] ∧ s.tb.ops = [] ∧ s.sl.arb = []) :=
  ⟨⟨{ up with pending := [.opStatus, .opStatus] }, .opStatus, [.opStatus], by decide⟩,
   ⟨up, by decide⟩⟩

/-- What `Obligations.PowerAndResetPins` supposes can be met, clause by clause. -/
theorem meets_PowerAndResetPins :
    (∃ (s : State), s.board.vaux = false) ∧
    (∃ (s : State), s.board.vaux = true) ∧
    (∃ (s : State), s.board.vaux = true ∧ s.board.pwrGood = false) ∧
    (∃ (s : State), s.board.pwrGood = true) ∧
    (∃ (s : State), s.boot.phase ≠ .off ∧ s.boot.phase ≠ .halted ∧ s.boot.phase ≠ .held) ∧
    (∃ (s : State), (s.boot.phase = .off ∨ s.boot.phase = .halted ∨ s.boot.phase = .held)) ∧
    (∃ (s : State) (p : Nat), p < s.groves ∧ SMap.getD s.board.perstN p false = true) ∧
    (∃ (s : State) (p : Nat), p < s.groves ∧ SMap.getD s.board.perstN p false = false) ∧
    (∃ (s : State) (p : Nat), s.isFenced 0x0A p 0 = false ∧ SMap.getD s.board.standHeld (p / 4) false = false) ∧
    (∃ (s : State) (p : Nat), (s.isFenced 0x0A p 0 = true ∨ SMap.getD s.board.standHeld (p / 4) false = true)) :=
  ⟨⟨{ State.reset with board := { State.reset.board with vaux := false } }, by decide⟩,
   ⟨up, by decide⟩,
   ⟨State.reset, by decide⟩,
   ⟨up, by decide⟩,
   ⟨up, by decide⟩,
   ⟨{ State.reset with board := { State.reset.board with vaux := false } }, by decide⟩,
   ⟨{ up with board := { up.board with perstN := [(15, true)] } }, 15, by decide⟩,
   ⟨up, 15, by decide⟩,
   ⟨up, 15, by decide⟩,
   ⟨{ up with board := { up.board with standHeld := [(3, true)] } }, 15, by decide⟩⟩

def hot (v : Nat) : State := { up with board := { up.board with sensors := [(63, v)] } }
/-- What `Obligations.SupplyThermalAndClockRows` supposes can be met, clause by clause. -/
theorem meets_SupplyThermalAndClockRows :
    (∃ (s : State), s.running = true) ∧
    (∃ (s : State) (i : Nat), s.running = true ∧ i < 4 ∧ s.hl.takeover = none ∧ SMap.getD s.board.avsStopped i false =
      false ∧ s.board.vcoreOf i ≠ s.board.target i) ∧
    (∃ (s : State) (i : Nat), s.running = true ∧ i < 4 ∧ s.hl.takeover = none ∧ SMap.getD s.board.avsStopped i false =
      true) ∧
    (∃ (s : State) (i : Nat), s.running = true ∧ i < 4 ∧ (s.hl.takeover.isSome = true ∨ (SMap.getD s.board.avsStopped i
      false = false ∧ s.board.vcoreOf i = s.board.target i))) ∧
    (∃ (s : State), s.serving = true) ∧
    (∃ (s : State), s.running = true) ∧
    (∃ (s : State) (i : Nat), s.powered = true ∧ s.boot.phase ≠ .halted ∧ i < 4 ∧ SMap.getD s.board.standHeld i false =
      false) ∧
    (∃ (s : State) (i : Nat), (s.powered = false ∨ s.boot.phase = .halted ∨ SMap.getD s.board.standHeld i false = true)) ∧
    (∃ (s : State) (i : Nat) (g : Nat), g < s.groves ∧ g / 4 = i) ∧
    (∃ (s : State) (i : Nat) (k : Nat), s.powered = true ∧ i < 4 ∧ k < 16) ∧
    (∃ (s : State), 1760 ≤ s.board.hottest.2) ∧
    (∃ (s : State), s.board.hottest.2 < 1760 ∧ 1648 ≤ s.board.hottest.2) ∧
    (∃ (s : State), s.board.hottest.2 < 1760 ∧ s.board.hottest.2 ≤ 1616) ∧
    (∃ (s : State), s.board.hottest.2 < 1760 ∧ 1616 < s.board.hottest.2 ∧ s.board.hottest.2 < 1648) ∧
    (∃ (s : State), s.board.hottest.2 < 1760 ∧ 1600 ≤ s.board.hottest.2) ∧
    (∃ (s : State), s.board.hottest.2 < 1760 ∧ s.board.hottest.2 < 1552) ∧
    (∃ (s : State), s.board.sysref = true) ∧
    (∃ (s : State) (g : Nat), g < s.groves ∧ SMap.getD s.board.ethref g true = true) ∧
    (∃ (s : State) (g : Nat) (n : Nat), n / 32 = g ∧ s.isPort n = true) ∧
    (∃ (s : State), s.serving = true ∧ s.tm.ppsStart = none) ∧
    (∃ (s : State) (p : Nat), s.serving = true ∧ s.tm.ppsStart = some p) :=
  ⟨⟨up, by decide⟩,
   ⟨{ up with board := { up.board with avsTarget := [(3, 700)] } }, 3, by decide⟩,
   ⟨{ up with board := { up.board with avsStopped := [(3, true)] } }, 3, by decide⟩,
   ⟨up, 3, by decide⟩,
   ⟨up, by decide⟩,
   ⟨up, by decide⟩,
   ⟨up, 3, by decide⟩,
   ⟨State.reset, 3, by decide⟩,
   ⟨up, 3, 15, by decide⟩,
   ⟨up, 3, 0, by decide⟩,
   ⟨hot 1760, by decide⟩,
   ⟨hot 1759, by decide⟩,
   ⟨up, by decide⟩,
   ⟨hot 1617, by decide⟩,
   ⟨hot 1600, by decide⟩,
   ⟨up, by decide⟩,
   ⟨up, by decide⟩,
   ⟨up, 0, by decide⟩,
   ⟨up, 0, 0, by decide⟩,
   ⟨up, by decide⟩,
   ⟨{ up with tm := { up.tm with ppsStart := some 7 } }, 7, by decide⟩⟩

def slotOne : CfgSlot := { magic := slotMagic, iface := ifaceVersion, generation := 3 }
def storedSlot : State := { up with nv := { up.nv with slots := [(1, { slotOne with digest := slotOne.digestOf })] } }
/-- What `Obligations.StartLeavesBulkStateEmpty` supposes can be met, clause by clause. -/
theorem meets_StartLeavesBulkStateEmpty :
    (∃ (s : State) (m : BootReads), s.tm.state = 0 ∧ m.zeroizeFailed = []) ∧
    (∃ (s : State), ∃ g, g < s.groves) ∧
    (∃ (s : State) (m : BootReads) (k : ResetKind), ¬(k = .warm ∧ s.board.retainedValid = true ∧ m.retained = true)) ∧
    (∃ (k : ResetKind), k = .factory) ∧
    (∃ (s : State) (m : BootReads) (k : ResetKind), k = .warm ∧ s.board.retainedValid = true ∧ m.retained = true) ∧
    (∃ (s : State) (m : BootReads) (k : ResetKind), k = .cold ∧ s.sl.ops = [] ∧ (∃ i, s.newestSlot m.slot0 m.slot1 = some
      i)) ∧
    (∃ (s : State) (m : BootReads) (k : ResetKind), k = .cold ∧ s.sl.ops = [] ∧ s.newestSlot m.slot0 m.slot1 = none) ∧
    (∃ (k : ResetKind), k ≠ .warm) :=
  ⟨⟨up, reads0, by decide⟩,
   ⟨up, ⟨15, by decide⟩⟩,
   ⟨up, reads0, .cold, by decide⟩,
   ⟨.factory, by decide⟩,
   ⟨up, reads0, .warm, by decide⟩,
   ⟨storedSlot, reads0, .cold, ⟨by decide, by decide, ⟨1, by simp [State.newestSlot, State.slotValid, State.cfgSlot, storedSlot, slotOne, reads0, SMap.getD, SMap.get, CfgSlot.digestOf, CfgSlot.header]⟩⟩⟩,
   ⟨up, reads0, .cold, by decide⟩,
   ⟨.cold, by decide⟩⟩

/-- What `Obligations.ResetsStoresAndUpdates` supposes can be met, clause by clause. -/
theorem meets_ResetsStoresAndUpdates :
    (∃ (s : State), s.boot.phase = .booting ∧ s.board.sysref = true ∧ s.board.pwrGood = true ∧ s.board.sysRstN = true ∧
      s.board.therm = false) ∧
    (∃ (s : State), (s.boot.phase ≠ .booting ∨ s.board.sysref = false ∨ s.board.pwrGood = false ∨ s.board.sysRstN = false ∨
      s.board.therm = true)) ∧
    (∃ (s : State) (r : Request), s.asks r 0x0104 ∧ r.payload.length = 1 ∧ fld r.payload 0 1 ≤ 2 ∧ (r.actor = 0xFFFF ∨
      r.actor = 2) ∧ s.storingOrUpdating = false) ∧
    (∃ (s : State) (r : Request), s.asks r 0x0104 ∧ r.payload.length = 1 ∧ fld r.payload 0 1 ≤ 2 ∧ (r.actor = 0xFFFF ∨
      r.actor = 2) ∧ s.storingOrUpdating = true) ∧
    (∃ (s : State) (t : Nat) (k : ResetKind), s.serving = true ∧ s.boot.resetAt = some (t, k)) ∧
    (∃ (s : State), s.serving = true ∧ s.hl.warden0 = false ∧ s.hl.warden1 = false) ∧
    (∃ (s : State) (r : Request), s.asks r 0x0103 ∧ r.payload = [] ∧ (r.actor = 0xFFFF ∨ r.actor = 2) ∧ (∀ t,
      s.ret.lastStore = some t → t + ms 10000 ≤ s.clk) ∧ (∀ o ∈ s.sl.ops, ∀ i x q g, o.data ≠ .store i x q g) ∧
      s.sl.ops.length < 64 ∧ SMap.getD s.nv.storeCounts s.storeTarget 0 < 990000) ∧
    (∃ (s : State) (r : Request), s.asks r 0x0103 ∧ r.payload = [] ∧ (r.actor = 0xFFFF ∨ r.actor = 2) ∧ (∀ t,
      s.ret.lastStore = some t → t + ms 10000 ≤ s.clk) ∧ (∀ o ∈ s.sl.ops, ∀ i x q g, o.data ≠ .store i x q g) ∧ 990000 ≤
      SMap.getD s.nv.storeCounts s.storeTarget 0) ∧
    (∃ (s : State) (h : Nat) (i : Nat) (gen : Nat) (seq : Nat) (cfg : RunCfg) (o : LongOp), s.serving = true ∧ s.turns h o
      ∧ o.cancel = false ∧ o.data = .store i cfg seq gen) ∧
    (∃ (s : State) (h : Nat) (i : Nat) (gen : Nat) (seq : Nat) (cfg : RunCfg) (o : LongOp), s.serving = true ∧ s.turns h o
      ∧ o.cancel = true ∧ o.data = .store i cfg seq gen) ∧
    (∃ (s : State) (r : Request), s.asks r 0x0105 ∧ (r.actor = 0xFFFF ∨ r.actor = 2) ∧ (let p := (r.payload); let n := (fld
      p 2 2); let clear := (bit (fld p 1 1) 0); fld p 0 1 = 0 ∧ fld p 1 1 ≤ 3 ∧ p.length = 8 + n ∧ 1 ≤ n ∧ n ≤ 4000 ∧ fld p
      4 4 + n ≤ 16777216 ∧ (∀ x, s.sl.staging = some x → x.2 = r.mb ∨ (clear = true ∧ r.actor = 0xFFFF)) ∧ bit (fld p 1 1)
      1 = false)) ∧
    (∃ (s : State) (r : Request), s.asks r 0x0105 ∧ (r.actor = 0xFFFF ∨ r.actor = 2) ∧ (let p := (r.payload); let n := (fld
      p 2 2); let clear := (bit (fld p 1 1) 0); fld p 0 1 = 0 ∧ fld p 1 1 ≤ 3 ∧ p.length = 8 + n ∧ 1 ≤ n ∧ n ≤ 4000 ∧ fld p
      4 4 + n ≤ 16777216 ∧ (∀ x, s.sl.staging = some x → x.2 = r.mb ∨ (clear = true ∧ r.actor = 0xFFFF)) ∧ (let u :=
      (s.taken.stageWrite s.stageSlot r.mb clear (fld p 4 4) (p.drop 8)); bit (fld p 1 1) 1 = true ∧ u.sl.ops.length <
      64))) ∧
    (∃ (s : State) (h : Nat) (i : Nat) (o : LongOp), s.serving = true ∧ s.turns h o ∧ o.cancel = false ∧ o.data = .verify
      i) ∧
    (∃ (s : State) (r : Request) (i : Nat), s.asks r 0x0105 ∧ r.payload.length = 8 ∧ fld r.payload 0 1 = 1 ∧ zeroAt
      r.payload 1 7 = true ∧ (r.actor = 0xFFFF ∨ r.actor = 2) ∧ s.sl.stagedOk = some i ∧ s.sl.ops = [] ∧ s.sl.staging =
      none ∧ s.hl.warden0 = true ∧ s.hl.warden1 = true) ∧
    (∃ (s : State) (h : Nat) (i : Nat) (a : Nat) (o : LongOp), s.serving = true ∧ s.turns h o ∧ o.cancel = false ∧ o.data =
      .activate i a ∧ o.stepsDone = 0 ∧ (s.atStep h).clk ≤ a + ms 2000 ∧ (s.atStep h).fwVerifies i true = true) ∧
    (∃ (s : State) (h : Nat) (i : Nat) (a : Nat) (o : LongOp), s.serving = true ∧ s.turns h o ∧ o.cancel = false ∧ o.data =
      .activate i a ∧ o.stepsDone ≠ 0) ∧
    (∃ (s : State) (h : Nat) (i : Nat) (a : Nat) (o : LongOp), s.serving = true ∧ s.slaotUp = true ∧ s.op h = some o ∧
      o.data = .activate i a ∧ o.stepsDone = 0) ∧
    (∃ (s : State) (o : LongOp) (i : Nat), s.activation = some (o, i)) :=
  ⟨⟨{ up with boot := { phase := .booting }, board := { up.board with sysref := true } }, by decide⟩,
   ⟨up.ask (rq 0x0104 [2]), by decide⟩,
   ⟨up.ask (rq 0x0104 [2]), rq 0x0104 [2], by decide⟩,
   ⟨(up.busyWith (lop (.verify 1))).ask (rq 0x0104 [2]), rq 0x0104 [2], by decide⟩,
   ⟨{ up with boot := { phase := .running, resetAt := some (2000000000, .cold) } }, 2000000000, .cold, by decide⟩,
   ⟨{ up with hl := { up.hl with warden0 := false, warden1 := false } }, by decide⟩,
   ⟨up.ask (rq 0x0103 []), rq 0x0103 [], ⟨by decide, by decide, by decide, fun _ h => (by cases h), fun _ h => (by cases h), by decide, by decide⟩⟩,
   ⟨{ up.ask (rq 0x0103 []) with nv := { up.nv with storeCounts := [(0, 990000), (1, 990000)] } },
    rq 0x0103 [], ⟨by decide, by decide, by decide, fun _ h => (by cases h), fun _ h => (by cases h), by decide⟩⟩,
   ⟨up.busyWith (lop (.store 1 {} 5 1)), 1, 1, 1, 5, {}, lop (.store 1 {} 5 1), by decide⟩,
   ⟨up.busyWith { lop (.store 1 {} 5 1) with cancel := true }, 1,
    1, 1, 5, {}, { lop (.store 1 {} 5 1) with cancel := true }, by decide⟩,
   ⟨{ up with sl := { up.sl with accepted := some (rq 0x0105 (leBytes 2 0 ++ leBytes 2 1 ++ leBytes 4 16777215 ++ [7])), staging := some (1, 16) } },
    rq 0x0105 (leBytes 2 0 ++ leBytes 2 1 ++ leBytes 4 16777215 ++ [7]),
    by decide⟩,
   ⟨up.ask (rq 0x0105 (leBytes 1 0 ++ leBytes 1 2 ++ leBytes 2 1 ++ leBytes 4 16777215 ++ [7])),
    rq 0x0105 (leBytes 1 0 ++ leBytes 1 2 ++ leBytes 2 1 ++ leBytes 4 16777215 ++ [7]),
    by decide⟩,
   ⟨up.busyWith (lop (.verify 1)), 1, 1, lop (.verify 1), by decide⟩,
   ⟨{ up with sl := { up.sl with accepted := some (rq 0x0105 [1, 0, 0, 0, 0, 0, 0, 0]), stagedOk := some 1 } },
    rq 0x0105 [1, 0, 0, 0, 0, 0, 0, 0], 1, by decide⟩,
   ⟨up.busyWith (lop (.activate 1 0)), 1, 1, 0, lop (.activate 1 0), by decide⟩,
   ⟨up.busyWith (lop (.activate 1 0) 1), 1, 1, 0, lop (.activate 1 0) 1, by decide⟩,
   ⟨up.busyWith (lop (.activate 1 0)), 1, 1, 0, lop (.activate 1 0), by decide⟩,
   ⟨up.busyWith (lop (.activate 1 0)), lop (.activate 1 0), 1, by decide⟩⟩

/-- What `Obligations.RequestsReachSlaot` supposes can be met, clause by clause. -/
theorem meets_RequestsReachSlaot :
    (∃ (s : State) (p : Nat), s.serving = true ∧ s.reaches (pf2 p) (0x0100 + p) 2 0x2000 4) ∧
    (∃ (s : State) (p : Nat) (off : Nat) (b : List Byte), s.serving = true ∧ s.reaches (pf2 p) (0x0100 + p) 2 off b.length
      ∧ 1 ≤ b.length ∧ b.length ≤ 64 ∧ off / 64 = (off + b.length - 1) / 64 ∧ off < 4096) ∧
    (∃ (s : State) (p : Nat), s.serving = true ∧ s.reaches (pf2 p) (0x0100 + p) 2 0x2004 4) ∧
    (∃ (s : State), s.serving = true) ∧
    (∃ (s : State) (port : Nat), s.running = true ∧ s.cfg.inband.enable = true ∧ SMap.getD s.cfg.inband.ports port false =
      true) ∧
    (∃ (s : State) (port : Nat), s.running = true ∧ (s.cfg.inband.enable = false ∨ SMap.getD s.cfg.inband.ports port false
      = false)) ∧
    (∃ (s : State) (q : Request) (rest : List Request), s.sl.accepted = none ∧ s.sl.arb = q :: rest ∧ (s.ret.seq + 1) % 2 ^
      20 = 0) ∧
    (∃ (s : State) (q : Request) (rest : List Request), s.sl.accepted = none ∧ s.sl.arb = q :: rest ∧ s.boot.resetAt.isSome
      = true) ∧
    (∃ (s : State) (q : Request) (rest : List Request), s.sl.accepted = none ∧ s.sl.arb = q :: rest ∧ s.boot.resetAt = none
      ∧ s.boot.activating = false ∧ q.wellFormed = false) ∧
    (∃ (s : State) (q : Request) (rest : List Request), s.sl.accepted = none ∧ s.sl.arb = q :: rest ∧ s.boot.resetAt = none
      ∧ s.boot.activating = false ∧ q.wellFormed = true ∧ opcodeInfo q.opcode = some true ∧ (SMap.get s.nv.cmdKeys
      q.mb).isSome = true ∧ q.auth = false) ∧
    (∃ (s : State) (q : Request) (rest : List Request), s.sl.accepted = none ∧ s.sl.arb = q :: rest ∧ s.boot.resetAt = none
      ∧ s.boot.activating = false ∧ q.wellFormed = true ∧ opcodeInfo q.opcode = some false ∧ q.mb ≠ 17 ∧ q.auth = false ∧
      q.counter ≤ (s.counterOf q.mb).last) ∧
    (∃ (s : State) (q : Request) (rest : List Request), s.sl.accepted = none ∧ s.sl.arb = q :: rest ∧ s.boot.resetAt = none
      ∧ s.boot.activating = false ∧ q.wellFormed = true ∧ opcodeInfo q.opcode = none ∧ q.mb ≠ 17 ∧ q.auth = false ∧
      (s.counterOf q.mb).last < q.counter) ∧
    (∃ (s : State) (q : Request) (rest : List Request), s.sl.accepted = none ∧ s.sl.arb = q :: rest ∧ s.boot.resetAt = none
      ∧ s.boot.activating = false ∧ q.wellFormed = true ∧ opcodeInfo q.opcode = some false ∧ q.mb ≠ 17 ∧ q.auth = false ∧
      (s.counterOf q.mb).last < q.counter ∧ s.boot.phase = .running ∧ (SMap.get s.cfg.pins q.mb).isSome = true ∧ s.mayAct q
      = true) :=
  ⟨⟨hostUp, 0, by decide⟩,
   ⟨hostUp, 0, 4095, [7], by decide⟩,
   ⟨hostUp, 0, by decide⟩,
   ⟨hostUp, by decide⟩,
   ⟨{ up with cfg := { up.cfg with inband := { enable := true, ports := [(7, true)] } } }, 7, by decide⟩,
   ⟨hostUp, 0, by decide⟩,
   ⟨{ up with sl := { up.sl with arb := [(rq 0x0102 [])] }, ret := { up.ret with seq := 0xFFFFF } },
    rq 0x0102 [], [], by decide⟩,
   ⟨{ up with sl := { up.sl with arb := [(rq 0x0102 [])] }, boot := { phase := .running, resetAt := some (5, .cold) } },
    rq 0x0102 [], [], by decide⟩,
   ⟨{ up with sl := { up.sl with arb := [({ rq 0x0102 [] with wellFormed := false })] } },
    { rq 0x0102 [] with wellFormed := false }, [], by decide⟩,
   ⟨{ up with sl := { up.sl with arb := [(rq 0x0104 [])] } }, rq 0x0104 [], [], by decide⟩,
   ⟨{ up with sl := { up.sl with arb := [({ rq 0x0102 [] with counter := 0 })] } },
    { rq 0x0102 [] with counter := 0 }, [], by decide⟩,
   ⟨{ up with sl := { up.sl with arb := [(rq 0x0E42 [])] } }, rq 0x0E42 [], [], by decide⟩,
   ⟨{ up with sl := { up.sl with arb := [(rq 0x0102 [])] }, cfg := { up.cfg with pins := [(16, 0x0100)] } },
    rq 0x0102 [], [], by decide⟩⟩

theorem only_last {P : Nat → Prop} (p : P 65535) (i : Nat) (h : 65535 ≤ i) (h' : i < 65536) : P i := Nat.le_antisymm h (Nat.le_of_lt_succ h') ▸ p
/-- What `Obligations.SlaotCommands` supposes can be met, clause by clause. -/
theorem meets_SlaotCommands :
    (∃ (s : State) (r : Request) (o : LongOp), s.asks r 0x0F01 ∧ r.payload.length = 4 ∧ s.op (fld r.payload 0 4) = some o ∧
      (r.actor = 0xFFFF ∨ r.actor = o.starter)) ∧
    (∃ (s : State) (r : Request) (o : EndedOp), s.asks r 0x0F01 ∧ r.payload.length = 4 ∧ s.op (fld r.payload 0 4) = none ∧
      s.sl.ended.find? (fun x => x.handle == fld r.payload 0 4) = some o ∧ (r.actor = 0xFFFF ∨ r.actor = o.starter)) ∧
    (∃ (s : State) (r : Request) (o : LongOp), s.asks r 0x0F02 ∧ r.payload.length = 4 ∧ s.op (fld r.payload 0 4) = some o ∧
      (r.actor = 0xFFFF ∨ r.actor = o.starter)) ∧
    (∃ (s : State) (r : Request) (o : EndedOp), s.asks r 0x0F02 ∧ r.payload.length = 4 ∧ s.op (fld r.payload 0 4) = none ∧
      s.sl.ended.find? (fun x => x.handle == fld r.payload 0 4) = some o ∧ (r.actor = 0xFFFF ∨ r.actor = o.starter)) ∧
    (∃ (s : State) (r : Request) (o : LongOp), r.payload.length = 4 ∧ s.op (fld r.payload 0 4) = some o ∧ r.actor ≠ 0xFFFF
      ∧ r.actor ≠ o.starter ∧ s.asks r 0x0F01) ∧
    (∃ (s : State) (r : Request) (o : LongOp), r.payload.length = 4 ∧ s.op (fld r.payload 0 4) = some o ∧ r.actor ≠ 0xFFFF
      ∧ r.actor ≠ o.starter ∧ s.asks r 0x0F02) ∧
    (∃ (s : State) (r : Request), r.payload.length = 4 ∧ s.op (fld r.payload 0 4) = none ∧ s.sl.ended.find? (fun x =>
      x.handle == fld r.payload 0 4) = none ∧ s.asks r 0x0F01) ∧
    (∃ (s : State) (r : Request), r.payload.length = 4 ∧ s.op (fld r.payload 0 4) = none ∧ s.sl.ended.find? (fun x =>
      x.handle == fld r.payload 0 4) = none ∧ s.asks r 0x0F02) ∧
    (∃ (s : State) (r : Request), s.asks r 0x0101 ∧ r.payload.length = 2) ∧
    (∃ (l : List (List Byte)), l.flatten.length ≤ 4012) ∧
    (∃ (s : State) (r : Request), s.asks r 0x0102 ∧ r.payload = []) ∧
    (∃ (s : State) (r : Request), s.asks r 0x0106 ∧ r.payload.length = 2 ∧ fld r.payload 0 2 = 0x0100) ∧
    (∃ (s : State) (r : Request), s.asks r 0x0106 ∧ r.payload.length = 2 ∧ fld r.payload 0 2 ≠ 0x0100) ∧
    (∃ (s : State) (r : Request), s.asks r 0x0A01 ∧ (let p := (r.payload); let kind := (fld p 0 1); let first := (fld p 4
      4); let n := (fld p 8 4); let f := (fld p 12 2); p.length = 16 ∧ 1 ≤ kind ∧ kind ≤ 6 ∧ zeroAt p 1 3 = true ∧ 1 ≤ n ∧
      zeroAt p 14 2 = true ∧ first + n ≤ kindSize kind ∧ first + n ≤ s.kindPresent kind ∧ (f = 0xFFFF ∨ s.fnPresent f =
      true) ∧ (kind = 4 → ∀ i, first ≤ i → i < first + n → fnPort f = i / 2) ∧ (16 ≤ r.mb ∨ (f ≠ 0xFFFF ∧ fnPort f = r.mb))
      ∧ (∀ i, first ≤ i → i < first + n → s.owns r.actor kind i = true ∧ s.transferable kind i = true))) ∧
    (∃ (first : Nat) (n : Nat) (i : Nat), first ≤ i ∧ i < first + n) ∧
    (∃ (s : State) (r : Request), s.asks r 0x0107 ∧ (let p := (r.payload); let ports := (maskBits (fld p 24 64) 512);
      p.length = 88 ∧ fld p 0 1 ≤ 3 ∧ zeroAt p 1 1 = true ∧ 1 ≤ fld p 2 2 ∧ zeroAt p 4 4 = true ∧ ports.all s.isPort = true
      ∧ r.actor = 0xFFFF)) :=
  ⟨⟨(up.busyWith (lop (.verify 1))).ask (rq 0x0F01 [1, 0, 0, 0]), rq 0x0F01 [1, 0, 0, 0], lop (.verify 1), by decide⟩,
   ⟨{ up with sl := { up.sl with accepted := some (rq 0x0F01 [1, 0, 0, 0]), ended := [(⟨1, 0x0103, operator, 0, 3, 3, 5⟩)] } },
    rq 0x0F01 [1, 0, 0, 0], ⟨1, 0x0103, operator, 0, 3, 3, 5⟩, by decide⟩,
   ⟨(up.busyWith (lop (.verify 1))).ask (rq 0x0F02 [1, 0, 0, 0]), rq 0x0F02 [1, 0, 0, 0], lop (.verify 1), by decide⟩,
   ⟨{ up with sl := { up.sl with accepted := some (rq 0x0F02 [1, 0, 0, 0]), ended := [(⟨1, 0x0103, operator, 0, 3, 3, 5⟩)] } },
    rq 0x0F02 [1, 0, 0, 0], ⟨1, 0x0103, operator, 0, 3, 3, 5⟩, by decide⟩,
   ⟨(up.busyWith (lop (.verify 1))).ask (rq 0x0F01 [1, 0, 0, 0] 0), rq 0x0F01 [1, 0, 0, 0] 0, lop (.verify 1), by decide⟩,
   ⟨(up.busyWith (lop (.verify 1))).ask (rq 0x0F02 [1, 0, 0, 0] 0), rq 0x0F02 [1, 0, 0, 0] 0, lop (.verify 1), by decide⟩,
   ⟨up.ask (rq 0x0F01 [1, 0, 0, 0]), rq 0x0F01 [1, 0, 0, 0], by decide⟩,
   ⟨up.ask (rq 0x0F02 [1, 0, 0, 0]), rq 0x0F02 [1, 0, 0, 0], by decide⟩,
   ⟨up.ask (rq 0x0101 [0, 0]), rq 0x0101 [0, 0], by decide⟩,
   ⟨[], by decide⟩,
   ⟨up.ask (rq 0x0102 []), rq 0x0102 [], by decide⟩,
   ⟨up.ask (rq 0x0106 [0, 1]), rq 0x0106 [0, 1], by decide⟩,
   ⟨up.ask (rq 0x0106 (leBytes 2 0xFFFF)), rq 0x0106 (leBytes 2 0xFFFF), by decide⟩,
   ⟨up.ask (rq 0x0A01 (leBytes 4 2 ++ leBytes 4 65535 ++ leBytes 4 1 ++ leBytes 2 2 ++ zeros 2)),
    rq 0x0A01 (leBytes 4 2 ++ leBytes 4 65535 ++ leBytes 4 1 ++ leBytes 2 2 ++ zeros 2),
    ⟨by decide, by decide, by decide, by decide, by decide, by decide, by decide, by decide, by decide, by decide, fun h => absurd h (by decide), by decide, only_last (by decide)⟩⟩,
   ⟨5, 3, 7, by decide⟩,
   ⟨up.ask (rq 0x0107 (leBytes 1 3 ++ zeros 1 ++ leBytes 2 65535 ++ zeros 4 ++ zeros 16 ++ zeros 64)),
    rq 0x0107 (leBytes 1 3 ++ zeros 1 ++ leBytes 2 65535 ++ zeros 4 ++ zeros 16 ++ zeros 64),
    by decide⟩⟩

/-- What `Obligations.PortCommands` supposes can be met, clause by clause. -/
theorem meets_PortCommands :
    (∃ (s : State) (r : Request) (m : Nat) (mode : Nat) (mask : Nat), s.asks r 0x0201 ∧ r.payload.length = 8 ∧ fld
      r.payload 0 2 = m ∧ fld r.payload 2 1 = mode ∧ fld r.payload 3 1 = mask ∧ zeroAt r.payload 4 4 = true ∧ m < 64 ∧ m <
      4 * s.groves ∧ mode ≤ 1 ∧ layoutOk mode mask = true ∧ (∀ i, i < 8 → s.owns r.actor 1 (8 * m + i) = true) ∧
      s.groveFailed (m / 4) = false) ∧
    (∃ (s : State) (m : Nat) (mode : Nat) (mask : Nat), s.group m ≠ ⟨mode, mask⟩ ∧ (∃ m', m' ≠ m)) ∧
    (∃ (s : State) (r : Request) (n : Nat), s.asks r 0x0202 ∧ r.payload.length = 32 ∧ fld r.payload 0 2 = n ∧ s.ownsPort
      r.actor n ∧ s.groveFailed (n / 32) = false ∧ fld r.payload 2 1 ≤ 1 ∧ fld r.payload 3 1 ≤ 2 ∧ fld r.payload 5 1 < 4 ∧
      64 ≤ fld r.payload 6 2 ∧ fld r.payload 6 2 ≤ 16000 ∧ fld r.payload 8 2 ≤ 10000 ∧ zeroAt r.payload 14 2 = true ∧
      zeroAt r.payload 22 2 = true ∧ zeroAt r.payload 27 5 = true) ∧
    (∃ (s : State) (n : Nat), s.deadPort n = false) ∧
    (∃ (s : State) (n : Nat), s.deadPort n = true) ∧
    (∃ (s : State) (r : Request), s.asks r 0x0202 ∧ r.payload.length = 32 ∧ (fld r.payload 6 2 < 64 ∨ 16000 < fld r.payload
      6 2)) ∧
    (∃ (s : State) (r : Request) (n : Nat), s.asks r 0x0203 ∧ r.payload.length = 2 ∧ fld r.payload 0 2 = n ∧ s.ownsPort
      r.actor n) ∧
    (∃ (s : State) (r : Request) (n : Nat), s.asks r 0x0204 ∧ r.payload.length = 2 ∧ fld r.payload 0 2 = n ∧ s.ownsPort
      r.actor n) ∧
    (∃ (s : State) (r : Request) (n : Nat), s.asks r 0x0205 ∧ r.payload.length = 2 ∧ fld r.payload 0 2 = n ∧ s.ownsPort
      r.actor n ∧ (s.portCfg n).enable = true ∧ s.groveFailed (n / 32) = false) :=
  ⟨⟨up.ask (rq 0x0201 (leBytes 2 63 ++ [1, 0x55] ++ zeros 4)), rq 0x0201 (leBytes 2 63 ++ [1, 0x55] ++ zeros 4),
    63, 1, 0x55, by decide⟩,
   ⟨up, 63, 1, 0x55, ⟨by decide, ⟨0, by decide⟩⟩⟩,
   ⟨up.ask (rq 0x0202 (leBytes 2 504 ++ [1, 2, 0, 3] ++ leBytes 2 16000 ++ leBytes 2 10000 ++ zeros 22)),
    rq 0x0202 (leBytes 2 504 ++ [1, 2, 0, 3] ++ leBytes 2 16000 ++ leBytes 2 10000 ++ zeros 22),
    504, by decide⟩,
   ⟨up.ask (rq 0x0201 (leBytes 2 63 ++ [1, 0x55] ++ zeros 4)), 0, by decide⟩,
   ⟨{ up with board := { up.board with ethref := [(15, false)] } }, 511, by decide⟩,
   ⟨up.ask (rq 0x0202 (leBytes 2 504 ++ [1, 2, 0, 3] ++ leBytes 2 63 ++ zeros 24)),
    rq 0x0202 (leBytes 2 504 ++ [1, 2, 0, 3] ++ leBytes 2 63 ++ zeros 24),
    by decide⟩,
   ⟨up.ask (rq 0x0203 (leBytes 2 504)), rq 0x0203 (leBytes 2 504), 504, by decide⟩,
   ⟨up.ask (rq 0x0204 (leBytes 2 504)), rq 0x0204 (leBytes 2 504), 504, by decide⟩,
   ⟨{ up with sl := { up.sl with accepted := some (rq 0x0205 (leBytes 2 504)) }, cfg := { up.cfg with ports := [(504, { enable := true })] } },
    rq 0x0205 (leBytes 2 504), 504, by decide⟩⟩

def flowUp (f : Nat) : State := { up.withEth 0 { state := 3 } with cfg := { up.cfg with ports := [(0, { enable := true, flow := f })] } }
def training (m : Nat) : State := { up.withEth 0 { state := 1 } with cfg := { up.cfg with groups := [(0, ⟨m, 1⟩)] } }
def frame1 : TrainFrame := ⟨true, 0, 0xA7000000, trainingCrc 0 0xA7000000, 0, true, 0⟩
def attempt (m : Nat) : State := { up.withEth 0 { state := 1, attemptStart := 1000000000 } with cfg := { up.cfg with groups := [(0, { mask := 1, mode := m })] } }
/-- What `Obligations.LinkAndFlowControlRows` supposes can be met, clause by clause. -/
theorem meets_LinkAndFlowControlRows :
    (∃ (s : State) (n : Nat) (i : Nat), s.running = true ∧ s.isPort n = true ∧ (s.eth n).state = 1 ∧ (s.group (n / 8)).mode
      = 0 ∧ i < s.width n ∧ s.inTime n = true) ∧
    (∃ (x : LaneTr) (f : TrainFrame), f.marker = true ∧ trainingCrc f.control f.status = f.crc ∧ eBits f.status 31 24 =
      0xA7 ∧ x.lock = true) ∧
    (∃ (x : LaneTr) (f : TrainFrame), f.marker = true ∧ trainingCrc f.control f.status = f.crc ∧ eBits f.status 31 24 =
      0xA7 ∧ x.lockCount = 2) ∧
    (∃ (f : TrainFrame), (trainingCrc f.control f.status ≠ f.crc ∨ f.marker = false)) ∧
    (∃ (s : State) (n : Nat) (k : Nat) (l : S200Link), s.running = true ∧ s.isPort n = true ∧ (s.eth n).state = 1 ∧
      ((s.group (n / 8)).mode = 1 → s200Ready l (s.width n) = true ∧ s.clk ≤ (s.eth n).attemptStart + ms 500) ∧ ((s.group
      (n / 8)).mode ≠ 1 → (∀ x ∈ s.portLanes n, x.data = true) ∧ s.inTime n = true ∧ k ≤ 160)) ∧
    (∃ (s : State) (n : Nat), s.running = true ∧ s.isPort n = true ∧ (s.eth n).state = 1 ∧ (s.group (n / 8)).mode = 0) ∧
    (∃ (s : State) (n : Nat), s.running = true ∧ s.isPort n = true ∧ (s.eth n).state = 1 ∧ (s.group (n / 8)).mode = 1) ∧
    (∃ (s : State) (n : Nat) (at_ : Nat), s.running = true ∧ s.isPort n = true ∧ (s.portCfg n).enable = true ∧ (s.eth
      n).retryAt = some at_) ∧
    (∃ (s : State) (n : Nat), s.running = true ∧ s.isPort n = true ∧ (s.eth n).state = 2) ∧
    (∃ (s : State) (n : Nat), s.running = true ∧ s.isPort n = true) ∧
    (∃ (s : State) (n : Nat), s.isUp n = true) ∧
    (∃ (s : State) (n : Nat) (w : Nat), s.running = true ∧ s.isPort n = true ∧ (s.eth n).degWindow = some w) ∧
    (∃ (s : State) (n : Nat), s.running = true ∧ s.isPort n = true ∧ s.isUp n = true) ∧
    (∃ (p : Nat), ∃ i, i ≠ p) ∧
    (∃ (s : State) (n : Nat), s.running = true ∧ s.isPort n = true ∧ s.isUp n = true) ∧
    (∃ (s : State) (n : Nat) (p : Nat) (e : Nat), s.running = true ∧ SMap.get (s.eth n).pause p = some e) ∧
    (∃ (s : State) (n : Nat) (p : Nat) (t0 : Nat) (rest : List (Nat × Nat)), s.running = true ∧ s.isPort n = true ∧ s.isUp
      n = true ∧ (s.eth n).xoff = (p, t0) :: rest) :=
  ⟨⟨attempt 0, 0, 7, by decide⟩,
   ⟨{ lock := true }, frame1, by decide⟩,
   ⟨{ lockCount := 2 }, frame1, by decide⟩,
   ⟨{ frame1 with marker := false }, by decide⟩,
   ⟨attempt 1, 0, 0, { aui := true, signal := true }, by decide⟩,
   ⟨training 0, 0, by decide⟩,
   ⟨training 1, 0, by decide⟩,
   ⟨{ up.withEth 0 { state := 4, retryAt := some 9 } with cfg := { up.cfg with ports := [(0, { enable := true })] } },
    0, 9, by decide⟩,
   ⟨up.withEth 0 { state := 2 }, 0, by decide⟩,
   ⟨flowUp 0, 0, by decide⟩,
   ⟨flowUp 0, 0, by decide⟩,
   ⟨up.withEth 0 { state := 3, degWindow := some 1000000000 }, 0, 1000000000, by decide⟩,
   ⟨flowUp 0, 0, by decide⟩,
   ⟨0, ⟨7, by decide⟩⟩,
   ⟨flowUp 0, 0, by decide⟩,
   ⟨up.withEth 0 { state := 3, pause := [(7, 2000000000)] }, 0, 7, 2000000000, by decide⟩,
   ⟨up.withEth 0 { state := 3, xoff := [(7, 1000000000)] }, 0, 7, 1000000000, [], by decide⟩⟩

def macCtl : List Byte := let p := zeros 12 ++ [0x88, 8] ++ zeros 46; p ++ leBytes 4 (crc32 p).toNat
/-- What `Obligations.TrailRows` supposes can be met, clause by clause. -/
theorem meets_TrailRows :
    (∃ (s : State) (n : Nat) (b : List Byte), s.running = true ∧ s.isPort n = true ∧ s.isUp n = true ∧ b ≠ []) ∧
    (∃ (s : State) (tag : Nat) (n : Nat) (f : FrameRec), s.running = true ∧ s.frame tag = some f ∧ f.port = some n ∧ f.last
      = none ∧ f.isCopy = false) ∧
    (∃ (b : List Byte), b.length < 64) ∧
    (∃ (s : State) (n : Nat) (b : List Byte), 64 ≤ b.length ∧ (s.portCfg n).maxFrame < b.length) ∧
    (∃ (s : State) (n : Nat) (b : List Byte) (bad : Bool), 64 ≤ b.length ∧ b.length ≤ (s.portCfg n).maxFrame ∧ (bad = true
      ∨ fcsOk b = false)) ∧
    (∃ (s : State) (n : Nat) (b : List Byte) (bad : Bool), 64 ≤ b.length ∧ b.length ≤ (s.portCfg n).maxFrame ∧ bad = false
      ∧ fcsOk b = true ∧ nfld b 12 2 = 0x8808) ∧
    (∃ (s : State) (n : Nat) (b : List Byte) (bad : Bool), 64 ≤ b.length ∧ b.length ≤ (s.portCfg n).maxFrame ∧ bad = false
      ∧ fcsOk b = true ∧ nfld b 12 2 ≠ 0x8808) ∧
    (∃ (s : State) (tag : Nat) (f : FrameRec), s.running = true ∧ s.frame tag = some f ∧ f.stage = .trail) ∧
    (∃ (s : State) (tag : Nat) (f : FrameRec), s.frame tag = some f ∧ f.stage ≠ .trail) ∧
    (∃ (s : State) (tag : Nat) (f : FrameRec), s.frame tag = some f ∧ f.stage = .trail ∧ f.gone = false ∧ f.given = none ∧
      f.kind = 0 ∧ f.last = none ∧ (s.portEntry f.id).getLsbD 2 = false ∧ bit (parseHdrs f.window).bits 7 = true ∧
      s.arrivedBytes f ≤ f.cut) ∧
    (∃ (s : State) (tag : Nat) (f : FrameRec), s.running = true ∧ s.frame tag = some f ∧ f.stage = .decided ∧ f.released =
      false ∧ f.gone = false ∧ s.laneClear f = true) ∧
    (∃ (f : FrameRec) (n : Nat), f.outPort = some n) ∧
    (∃ (s : State) (tag : Nat) (f : FrameRec), s.running = true ∧ s.frame tag = some f ∧ s.laneClear f = false) :=
  ⟨⟨up.withEth 0 { state := 3 }, 0, [7], by decide⟩,
   ⟨(up.withFrame 0 ({ frame0 with stage := .decided, dec := some (.act 0 (BitVec.ofNat 512 (1 + 1 * 8 + 0 * 256))) })).withEth 0 { state := 3 },
    0, 0, { frame0 with stage := .decided, dec := some (.act 0 (BitVec.ofNat 512 (1 + 1 * 8 + 0 * 256))) },
    by decide⟩,
   ⟨[7], by decide⟩,
   ⟨{ up with cfg := { up.cfg with ports := [(0, { maxFrame := 64 })] } }, 0, zeros 65, by decide⟩,
   ⟨up, 0, zeros 64, true, by decide⟩,
   ⟨up, 0, macCtl, false, by decide⟩,
   ⟨up, 0, frame0.bytes, false, by decide⟩,
   ⟨up.withFrame 0 ({ frame0 with bytes := [7] }), 0, { frame0 with bytes := [7] }, by decide⟩,
   ⟨up.withFrame 0 ({ frame0 with stage := .decided }), 0, { frame0 with stage := .decided }, by decide⟩,
   ⟨up.withFrame 0 ({ frame0 with bytes := [7], cut := 1 }), 0, { frame0 with bytes := [7], cut := 1 }, by decide⟩,
   ⟨up.withFrame 0 ({ frame0 with stage := .decided }), 0, { frame0 with stage := .decided }, by decide⟩,
   ⟨{ frame0 with stage := .decided, dec := some (.act 0 (BitVec.ofNat 512 (1 + 1 * 8 + 0 * 256))) }, 0, by decide⟩,
   ⟨{ up with cn := { up.cn with frames := [(0, frame0), (1, ({ frame0 with order := 1 }))] } },
    1, { frame0 with order := 1 }, by decide⟩⟩

/-- What `Obligations.SaplingDispatch` supposes can be met, clause by clause. -/
theorem meets_SaplingDispatch :
    (∃ (s : State) (tag : Nat) (f : FrameRec), s.running = true ∧ s.frame tag = some f ∧ f.stage = .window ∧ f.gone = false
      ∧ (f.port.isSome = true → 64 ≤ f.bytes.length)) ∧
    (∃ (s : State) (t : Thr) (tag : Nat) (rest : List Nat), s.running = true ∧ s.saplingLive t = true ∧ (s.parser
      t.grove).queue = tag :: rest ∧ ((s.parser t.grove).ctxs t = [] ∨ ((s.parser t.grove).ctxs t).length = 1 ∧ s.someIdle
      t.grove = false)) ∧
    (∃ (s : State) (t : Thr) (c : Ctx) (cs : List Ctx) (f : FrameRec), s.running = true ∧ (s.parser t.grove).ctxs t = c ::
      cs ∧ c.started = false ∧ s.frame c.tag = some f) ∧
    (∃ (s : State) (tag : Nat) (a : Nat) (f : FrameRec) (h : Hint), s.running = true ∧ s.frame tag = some f ∧ f.hint = some
      h ∧ h.action = some a ∧ f.check = 1) :=
  ⟨⟨up.withFrame 0 ({ frame0 with stage := .window }), 0, { frame0 with stage := .window }, by decide⟩,
   ⟨{ up with ps := { up.ps with groves := [(15, { queue := [15728640, 8] })] } }, ⟨15, 127, 7⟩, 15728640, [8], by decide⟩,
   ⟨(up.withFrame 0 frame0).parsing [0] ({ tag := 0 }), thr0, { tag := 0 }, [], frame0, by decide⟩,
   ⟨up.withFrame 0 ({ frame0 with check := 1, hint := some ({ ra := 0, cls := 0, action := some 7 }) }),
    0, 7, { frame0 with check := 1, hint := some ({ ra := 0, cls := 0, action := some 7 }) },
    { ra := 0, cls := 0, action := some 7 }, by decide⟩⟩

/-- What `Obligations.SaplingInstructions` supposes can be met, clause by clause. -/
theorem meets_SaplingInstructions :
    (∃ (s : State) (t : Thr) (c : Ctx) (w : W64), s.standsAt t c w ∧ opOf w = 0x01) ∧
    (∃ (s : State) (t : Thr) (c : Ctx) (w : W64), s.standsAt t c w ∧ opOf w = 0x20) ∧
    (∃ (s : State) (t : Thr) (c : Ctx) (w : W64), s.standsAt t c w ∧ opOf w = 0x21) ∧
    (∃ (s : State) (t : Thr) (c : Ctx) (w : W64), s.standsAt t c w ∧ opOf w = 0x22) ∧
    (∃ (s : State) (t : Thr) (c : Ctx) (w : W64), s.standsAt t c w ∧ opOf w = 0x23) ∧
    (∃ (s : State) (t : Thr) (c : Ctx) (w : W64), s.standsAt t c w ∧ opOf w = 0x24) ∧
    (∃ (s : State) (t : Thr) (c : Ctx) (w : W64), s.standsAt t c w ∧ opOf w = 0x25) ∧
    (∃ (s : State) (t : Thr) (c : Ctx) (w : W64), s.standsAt t c w ∧ opOf w = 0x26) ∧
    (∃ (s : State) (t : Thr) (c : Ctx) (w : W64), s.standsAt t c w ∧ opOf w = 0x30) ∧
    (∃ (s : State) (t : Thr) (c : Ctx) (w : W64), s.standsAt t c w ∧ opOf w = 0x31) ∧
    (∃ (s : State) (t : Thr) (c : Ctx) (w : W64), s.standsAt t c w ∧ opOf w = 0x32) ∧
    (∃ (s : State) (t : Thr) (c : Ctx) (w : W64), s.standsAt t c w ∧ opOf w = 0x33) ∧
    (∃ (s : State) (t : Thr) (c : Ctx) (w : W64), s.standsAt t c w ∧ opOf w = 0x34) ∧
    (∃ (s : State) (t : Thr) (c : Ctx) (w : W64), s.standsAt t c w ∧ opOf w = 0x35) ∧
    (∃ (s : State) (t : Thr) (c : Ctx) (w : W64), s.standsAt t c w ∧ opOf w = 0x36) ∧
    (∃ (s : State) (t : Thr) (c : Ctx) (w : W64), s.standsAt t c w ∧ opOf w = 0x37) ∧
    (∃ (s : State) (t : Thr) (c : Ctx) (w : W64), s.standsAt t c w ∧ (let a := (c.reg (ra w)); let win := ((s.frame
      c.tag).elim [] fun f => f.bytes.take (windowLen f)); let at_ := (eBits w 43 36 + if w.getLsbD 47 then a.toNat else
      0); let n := (eBits w 46 44 + 1); opOf w = 0x10 ∧ at_ + n ≤ win.length)) ∧
    (∃ (s : State) (t : Thr) (c : Ctx) (w : W64), s.standsAt t c w ∧ (let a := (c.reg (ra w)); let at_ := (eBits w 43 36 +
      if w.getLsbD 47 then a.toNat else 0); let n := (eBits w 46 44 + 1); opOf w = 0x11 ∧ at_ + n ≤ 128)) ∧
    (∃ (s : State) (t : Thr) (c : Ctx) (w : W64), s.standsAt t c w ∧ (let a := (c.reg (ra w)); let win := ((s.frame
      c.tag).elim [] fun f => f.bytes.take (windowLen f)); let at_ := (eBits w 43 36 + if w.getLsbD 47 then a.toNat else
      0); let n := (eBits w 46 44 + 1); opOf w = 0x10 ∧ win.length < at_ + n)) ∧
    (∃ (s : State) (t : Thr) (c : Ctx) (w : W64), s.standsAt t c w ∧ (let a := (c.reg (ra w)); let at_ := (eBits w 43 36 +
      if w.getLsbD 47 then a.toNat else 0); let n := (eBits w 46 44 + 1); opOf w = 0x11 ∧ 128 < at_ + n)) ∧
    (∃ (s : State) (t : Thr) (c : Ctx) (w : W64), s.standsAt t c w ∧ (let a := (c.reg (ra w)); let win := ((s.frame
      c.tag).elim [] fun f => f.bytes.take (windowLen f)); let at_ := (eBits w 43 36 + if w.getLsbD 47 then a.toNat else
      0); opOf w = 0x61 ∧ win.length < at_ + (eBits w 28 24 + 1))) ∧
    (∃ (s : State) (t : Thr) (c : Ctx) (w : W64), s.standsAt t c w ∧ opOf w = 0x40) ∧
    (∃ (s : State) (t : Thr) (c : Ctx) (w : W64), s.standsAt t c w ∧ opOf w = 0x41) ∧
    (∃ (s : State) (t : Thr) (c : Ctx) (w : W64), s.standsAt t c w ∧ opOf w = 0x50) ∧
    (∃ (s : State) (t : Thr) (c : Ctx) (w : W64), s.standsAt t c w ∧ opOf w = 0x51) ∧
    (∃ (s : State) (t : Thr) (c : Ctx) (w : W64), s.standsAt t c w ∧ opOf w = 0x52) ∧
    (∃ (s : State) (t : Thr) (c : Ctx) (w : W64), s.standsAt t c w ∧ opOf w = 0x53) ∧
    (∃ (s : State) (t : Thr) (c : Ctx) (w : W64), s.standsAt t c w ∧ opOf w = 0x60) ∧
    (∃ (s : State) (t : Thr) (c : Ctx) (w : W64), s.standsAt t c w ∧ opOf w = 0x62) ∧
    (∃ (s : State) (t : Thr) (c : Ctx) (w : W64), s.standsAt t c w ∧ (let a := (c.reg (ra w)); let win := ((s.frame
      c.tag).elim [] fun f => f.bytes.take (windowLen f)); let at_ := (eBits w 43 36 + if w.getLsbD 47 then a.toNat else
      0); opOf w = 0x61 ∧ at_ + (eBits w 28 24 + 1) ≤ win.length)) ∧
    (∃ (s : State) (t : Thr) (c : Ctx) (w : W64), s.standsAt t c w ∧ opOf w = 0x70) ∧
    (∃ (s : State) (t : Thr) (c : Ctx) (w : W64), s.standsAt t c w ∧ opOf w = 0x80) ∧
    (∃ (w : W64), (opOf w = 0x35 ∨ opOf w = 0x36) ∧ 63 < (imm w).toNat) ∧
    (∃ (k : Nat) (j : Nat) (b : List Byte), k + b.length ≤ 64 ∧ j < 64) :=
  ⟨⟨(up.withFrame 0 frame0).parsing [(0x0100000000000000)] ctx0, thr0, ctx0, 0x0100000000000000, by decide⟩,
   ⟨(up.withFrame 0 frame0).parsing [(0x2000000000000000)] ctx0, thr0, ctx0, 0x2000000000000000, by decide⟩,
   ⟨(up.withFrame 0 frame0).parsing [(0x2100000000000000)] ctx0, thr0, ctx0, 0x2100000000000000, by decide⟩,
   ⟨(up.withFrame 0 frame0).parsing [(0x2200000000000000)] ctx0, thr0, ctx0, 0x2200000000000000, by decide⟩,
   ⟨(up.withFrame 0 frame0).parsing [(0x2300000000000000)] ctx0, thr0, ctx0, 0x2300000000000000, by decide⟩,
   ⟨(up.withFrame 0 frame0).parsing [(0x2400000000000000)] ctx0, thr0, ctx0, 0x2400000000000000, by decide⟩,
   ⟨(up.withFrame 0 frame0).parsing [(0x2500000000000000)] ctx0, thr0, ctx0, 0x2500000000000000, by decide⟩,
   ⟨(up.withFrame 0 frame0).parsing [(0x2600000000000000)] ctx0, thr0, ctx0, 0x2600000000000000, by decide⟩,
   ⟨(up.withFrame 0 frame0).parsing [(0x3000000000000000)] ctx0, thr0, ctx0, 0x3000000000000000, by decide⟩,
   ⟨(up.withFrame 0 frame0).parsing [(0x3100000000000000)] ctx0, thr0, ctx0, 0x3100000000000000, by decide⟩,
   ⟨(up.withFrame 0 frame0).parsing [(0x3200000000000000)] ctx0, thr0, ctx0, 0x3200000000000000, by decide⟩,
   ⟨(up.withFrame 0 frame0).parsing [(0x3300000000000000)] ctx0, thr0, ctx0, 0x3300000000000000, by decide⟩,
   ⟨(up.withFrame 0 frame0).parsing [(0x3400000000000000)] ctx0, thr0, ctx0, 0x3400000000000000, by decide⟩,
   ⟨(up.withFrame 0 frame0).parsing [(0x3500000000000000)] ctx0, thr0, ctx0, 0x3500000000000000, by decide⟩,
   ⟨(up.withFrame 0 frame0).parsing [(0x3600000000000000)] ctx0, thr0, ctx0, 0x3600000000000000, by decide⟩,
   ⟨(up.withFrame 0 frame0).parsing [(0x3700000000000000)] ctx0, thr0, ctx0, 0x3700000000000000, by decide⟩,
   ⟨(up.withFrame 0 frame0).parsing [(0x1000000000000000 + 63 * 2^36)] ctx0,
    thr0, ctx0, 0x1000000000000000 + 63 * 2^36, by decide⟩,
   ⟨(up.withFrame 0 frame0).parsing [(0x1100000000000000 + 127 * 2^36)] ctx0,
    thr0, ctx0, 0x1100000000000000 + 127 * 2^36, by decide⟩,
   ⟨(up.withFrame 0 frame0).parsing [(0x1000000000000000 + 255 * 2^36)] ctx0,
    thr0, ctx0, 0x1000000000000000 + 255 * 2^36, by decide⟩,
   ⟨(up.withFrame 0 frame0).parsing [(0x1100000000000000 + 128 * 2^36)] ctx0,
    thr0, ctx0, 0x1100000000000000 + 128 * 2^36, by decide⟩,
   ⟨(up.withFrame 0 frame0).parsing [(0x6100000000000000 + 255 * 2^36)] ctx0,
    thr0, ctx0, 0x6100000000000000 + 255 * 2^36, by decide⟩,
   ⟨(up.withFrame 0 frame0).parsing [(0x4000000000000000)] ctx0, thr0, ctx0, 0x4000000000000000, by decide⟩,
   ⟨(up.withFrame 0 frame0).parsing [(0x4100000000000000)] ctx0, thr0, ctx0, 0x4100000000000000, by decide⟩,
   ⟨(up.withFrame 0 frame0).parsing [(0x5000000000000000)] ctx0, thr0, ctx0, 0x5000000000000000, by decide⟩,
   ⟨(up.withFrame 0 frame0).parsing [(0x5100000000000000)] ctx0, thr0, ctx0, 0x5100000000000000, by decide⟩,
   ⟨(up.withFrame 0 frame0).parsing [(0x5200000000000000)] ctx0, thr0, ctx0, 0x5200000000000000, by decide⟩,
   ⟨(up.withFrame 0 frame0).parsing [(0x5300000000000000)] ctx0, thr0, ctx0, 0x5300000000000000, by decide⟩,
   ⟨(up.withFrame 0 frame0).parsing [(0x6000000000000000)] ctx0, thr0, ctx0, 0x6000000000000000, by decide⟩,
   ⟨(up.withFrame 0 frame0).parsing [(0x6200000000000000 + 32 * 2^42)] ctx0,
    thr0, ctx0, 0x6200000000000000 + 32 * 2^42, by decide⟩,
   ⟨(up.withFrame 0 frame0).parsing [(0x6100000000000000 + 63 * 2^36)] ctx0,
    thr0, ctx0, 0x6100000000000000 + 63 * 2^36, by decide⟩,
   ⟨(up.withFrame 0 frame0).parsing [(0x7000000000000000)] ctx0, thr0, ctx0, 0x7000000000000000, by decide⟩,
   ⟨(up.withFrame 0 frame0).parsing [(0x8000000000000000)] ctx0, thr0, ctx0, 0x8000000000000000, by decide⟩,
   ⟨0x3500000000000040, by decide⟩,
   ⟨0, 0, [], by decide⟩⟩

def builtinAt (s : State) : State := { s with ps := { s.ps with groves := [(0, { threads := [(0, [ctx0])] })] } }
/-- What `Obligations.ParseEnds` supposes can be met, clause by clause. -/
theorem meets_ParseEnds :
    (∃ (s : State) (t : Thr) (c : Ctx) (w : W64), s.standsAt t c w ∧ opOf w = 0x02) ∧
    (∃ (s : State) (c : Ctx) (f : FrameRec), s.frame c.tag = some f) ∧
    (∃ (s : State) (tag : Nat) (f : FrameRec), s.frame tag = some f ∧ (s.classifier (tagGrove tag)).keys.length < 1024) ∧
    (∃ (s : State) (t : Thr) (c : Ctx) (cs : List Ctx) (f : FrameRec), s.running = true ∧ (s.parser t.grove).ctxs t = c ::
      cs ∧ c.started = true ∧ (s.parser t.grove).isBuiltin c.bank = true ∧ s.frame c.tag = some f ∧ c.bad = false ∧
      (s.parser t.grove).badWords = []) ∧
    (∃ (s : State) (t : Thr) (c : Ctx) (cs : List Ctx), s.running = true ∧ (s.parser t.grove).ctxs t = c :: cs ∧ c.started
      = true ∧ c.count = 96) ∧
    (∃ (s : State) (t : Thr) (c : Ctx) (cs : List Ctx), s.running = true ∧ (s.parser t.grove).ctxs t = c :: cs ∧ c.started
      = true ∧ c.count < 96 ∧ (s.parser t.grove).isBuiltin c.bank = false ∧ ((s.parser t.grove).words c.bank).length ≤
      c.pc) ∧
    (∃ (s : State) (t : Thr) (c : Ctx) (cs : List Ctx) (w : W64), s.running = true ∧ (s.parser t.grove).ctxs t = c :: cs ∧
      c.started = true ∧ c.count < 96 ∧ (s.parser t.grove).isBuiltin c.bank = false ∧ ((s.parser t.grove).words
      c.bank)[c.pc]? = some w ∧ reservedMask (opOf w) = none) ∧
    (∃ (s : State) (t : Thr) (c : Ctx) (w : W64), s.running = true ∧ s.nextWord t = some (c, w) ∧ s.wordBad t c = false ∧
      wordValid w = false ∧ opOf w = 0x20) ∧
    (∃ (s : State) (t : Thr) (c : Ctx) (w : W64), s.running = true ∧ s.nextWord t = some (c, w) ∧ s.wordBad t c = true) :=
  ⟨⟨(up.withFrame 0 frame0).parsing [(0x0200000000000000)] ({ ctx0 with count := 95 }),
    thr0, { ctx0 with count := 95 }, 0x0200000000000000, by decide⟩,
   ⟨(up.withFrame 0 frame0).parsing [(0x0200000000000000)] ({ ctx0 with count := 95 }),
    { ctx0 with count := 95 }, frame0, by decide⟩,
   ⟨(up.withFrame 0 frame0).parsing [(0x0200000000000000)] ({ ctx0 with count := 95 }), 0, frame0, by decide⟩,
   ⟨builtinAt (up.withFrame 0 frame0), thr0, ctx0, [], frame0, by decide⟩,
   ⟨up.parsing [] ({ ctx0 with count := 96 }), thr0, { ctx0 with count := 96 }, [], by decide⟩,
   ⟨up.parsing [0] ({ ctx0 with count := 95, pc := 1 }), thr0, { ctx0 with count := 95, pc := 1 }, [], by decide⟩,
   ⟨up.parsing [0xFF00000000000000] ctx0, thr0, ctx0, [], 0xFF00000000000000, by decide⟩,
   ⟨up.parsing [(0x2000000000000001)] ctx0, thr0, ctx0, 0x2000000000000001, by decide⟩,
   ⟨{ up with ps := { up.ps with groves := [(0, { bank0 := some [(0x2000000000000001)], threads := [(0, [ctx0])], badWords := [0] })] } },
    thr0, ctx0, 0x2000000000000001, by decide⟩⟩

def haltWord : W64 := 0x0200000000000001
/-- What `Obligations.ParseProgramCommands` supposes can be met, clause by clause. -/
theorem meets_ParseProgramCommands :
    (∃ (s : State) (r : Request), s.asks r 0x0410 ∧ (let p := (r.payload); let off := (fld p 2 2); let n := (fld p 4 2);
      p.length = 8 + 8 * n ∧ fld p 0 1 ≤ 1 ∧ zeroAt p 1 1 = true ∧ 1 ≤ n ∧ n ≤ 501 ∧ zeroAt p 6 2 = true ∧ off + n ≤ 2048)) ∧
    (∃ (s : State) (r : Request), s.asks r 0x0411 ∧ (let p := (r.payload); let gs := (maskBits (fld p 0 2) 16); let buf :=
      (SMap.getD s.ps.staging r.mb []); p.length = 8 ∧ fld p 0 2 ≠ 0 ∧ fld p 4 1 ≤ 1 ∧ zeroAt p 5 3 = true ∧ (∀ g ∈ gs, g <
      s.groves) ∧ s.groveGate r.actor gs = true ∧ (∀ g ∈ gs, s.isHeld (.parse g) = false ∧ s.groveFailed g = false) ∧ (fld
      p 4 1 = 0 → checkProgram buf (fld p 2 2) = none) ∧ s.sl.ops.length < 64)) ∧
    (∃ (s : State) (r : Request) (i : Nat) (k : Nat), s.asks r 0x0411 ∧ (let p := (r.payload); let gs := (maskBits (fld p 0
      2) 16); p.length = 8 ∧ fld p 0 2 ≠ 0 ∧ fld p 4 1 = 0 ∧ zeroAt p 5 3 = true ∧ (∀ g ∈ gs, g < s.groves) ∧ s.groveGate
      r.actor gs = true ∧ (∀ g ∈ gs, s.isHeld (.parse g) = false ∧ s.groveFailed g = false) ∧ checkProgram (SMap.getD
      s.ps.staging r.mb []) (fld p 2 2) = some (i, k))) ∧
    (∃ (s : State) (h : Nat) (g : Nat) (all : List Nat) (rest : List Nat) (o : LongOp) (p : Option Program), s.stepsOn h o
      (.parseLoad all (g :: rest) p)) ∧
    (∃ (s : State) (g : Nat), (s.parser g).queue = [] ∧ (s.parser g).active ≤ 1) ∧
    (∃ (s : State) (r : Request) (g : Nat), s.asks r 0x0412 ∧ r.payload.length = 1 ∧ fld r.payload 0 1 = g ∧
      s.ownsWholeGrove r.actor g) ∧
    (∃ (s : State) (r : Request) (g : Nat), s.asks r 0x0413 ∧ r.payload.length = 1 ∧ fld r.payload 0 1 = g ∧
      s.ownsWholeGrove r.actor g) :=
  ⟨⟨up.ask (rq 0x0410 ([0, 0] ++ leBytes 2 2047 ++ [1, 0, 0, 0] ++ leBytes 8 haltWord.toNat)),
    rq 0x0410 ([0, 0] ++ leBytes 2 2047 ++ [1, 0, 0, 0] ++ leBytes 8 haltWord.toNat),
    by decide⟩,
   ⟨{ up with sl := { up.sl with accepted := some (rq 0x0411 (leBytes 2 0x8000 ++ leBytes 2 1 ++ zeros 4)) }, ps := { up.ps with staging := [(16, [(0, haltWord)])] } },
    rq 0x0411 (leBytes 2 0x8000 ++ leBytes 2 1 ++ zeros 4), by decide⟩,
   ⟨up.ask (rq 0x0411 (leBytes 2 0x8000 ++ leBytes 2 1 ++ zeros 4)),
    rq 0x0411 (leBytes 2 0x8000 ++ leBytes 2 1 ++ zeros 4), 0, 1,
    by decide⟩,
   ⟨up.busyWith (lop (.parseLoad [15] [15] (some ⟨[haltWord], 1⟩))),
    1, 15, [15], [], lop (.parseLoad [15] [15] (some ⟨[haltWord], 1⟩)),
    some ⟨[haltWord], 1⟩, by decide⟩,
   ⟨up.busyWith (lop (.parseLoad [15] [15] (some (⟨[haltWord], 1⟩)))), 15, by decide⟩,
   ⟨{ up with sl := { up.sl with accepted := some (rq 0x0412 [15]) }, cfg := { up.cfg with programs := [(15, (⟨[haltWord], 1⟩))] } },
    rq 0x0412 [15], 15, by decide⟩,
   ⟨up.ask (rq 0x0413 [15]), rq 0x0413 [15], 15, by decide⟩⟩

def ruleTree (i : Nat) : TreeHalf := { rules := [⟨0, 0, 1, i, 255, 0, 0⟩] }
def walkingIn (c : Classifier) : State := { up.withFrame 0 { frame0 with stage := .walking } with cl := { up.cl with groves := [(0, c)] } }
/-- What `Obligations.TreeWalk` supposes can be met, clause by clause. -/
theorem meets_TreeWalk :
    (∃ (s : State) (g : Nat) (tag : Nat) (e : Nat) (rest : List Nat), s.running = true ∧ (s.classifier g).keys = tag ::
      rest ∧ ((s.live 0x03 g 32).find? fun e => ((s.classifier g).walks.filter (·.engine == e)).length < 16) = some e) ∧
    (∃ (s : State) (g : Nat), (s.classifier g).keys = []) ∧
    (∃ (s : State) (g : Nat), ((s.live 0x03 g 32).find? fun e => ((s.classifier g).walks.filter (·.engine == e)).length <
      16) = none) ∧
    (∃ (s : State) (tag : Nat) (w : Walk) (f : FrameRec), s.running = true ∧ s.frame tag = some f ∧ (s.classifier (tagGrove
      tag)).walks.find? (·.tag == tag) = some w) ∧
    (∃ (h : TreeHalf), nodeLegal h.root = false) ∧
    (∃ (h : TreeHalf), nodeLegal h.root = true ∧ h.root.extractLsb' 254 2 = 3) ∧
    (∃ (h : TreeHalf), h.root = emptyRoot) :=
  ⟨⟨{ up.withFrame 0 frame0 with cl := { up.cl with groves := [(0, { keys := [0, 9] })] } }, 0, 0, 0, [9], by decide⟩,
   ⟨up, 0, by decide⟩,
   ⟨{ up with hl := { up.hl with fenced := (List.range 32).map fun i => ⟨0x03, 0, i⟩ } }, 0, by decide⟩,
   ⟨walkingIn { half0 := ruleTree 65535, walks := [(⟨0, 31, 15, 0, 5⟩)] },
    0, ⟨0, 31, 15, 0, 5⟩, { frame0 with stage := .walking }, by decide⟩,
   ⟨{ root := 1 }, by decide⟩,
   ⟨{}, by decide⟩,
   ⟨{}, by decide⟩⟩

/-- What `Obligations.TreeNodeChildren` supposes can be met, clause by clause. -/
theorem meets_TreeNodeChildren :
    (∃ (n : BitVec 256), nodeLegal n = true ∧ n.extractLsb' 254 2 = 0) ∧
    (∃ (n : BitVec 256), nodeLegal n = true ∧ n.extractLsb' 254 2 = 1) ∧
    (∃ (n : BitVec 256), nodeLegal n = true ∧ n.extractLsb' 254 2 = 2) ∧
    (∃ (n : BitVec 256) (key : BitVec 512), nodeLegal n = true ∧ n.extractLsb' 254 2 ≠ 3 ∧ (∃ (h : TreeHalf) (l : Nat)
      (level : Nat) (slot : Nat) (x : BitVec 256), level ≠ 7 ∧ slot = (n.extractLsb' 235 18).toNat + childIndex n key + (if
      n.getLsbD 253 then l * (nodeChildren n + 1) else 0) ∧ h.read slot = some x)) :=
  ⟨⟨12#256 <<< 222, by decide⟩,
   ⟨1#256 <<< 254 ||| 480#256 <<< 226, by decide⟩,
   ⟨2#256 <<< 254 ||| 192#256 <<< 218 ||| 320#256 <<< 226, by decide⟩,
   ⟨12#256 <<< 222, 0, ⟨by decide, by decide, ⟨{}, 15, 6, 0, 0, by decide⟩⟩⟩⟩

def rulePayload (bad : Byte) : List Byte := [0, 0, 1, 0] ++ zeros 64 ++ zeros 64 ++ zeros 4 ++ leBytes 2 7 ++ [255, 0] ++ leBytes 2 9 ++ leBytes 2 9 ++ zeros 3 ++ [bad]
def routePayload : List Byte := [0, 0, 1, 0, 48, 62, 0, 0] ++ leBytes 4 4294967071 ++ zeros 16 ++ [128, 6] ++ leBytes 2 7 ++ zeros 4
def stagedFull (r : Request) : State := { up with sl := { up.sl with accepted := some r }, cl := { up.cl with staging := [(16, List.replicate 131072 ⟨0, 0, 1, 2, 255, 0, 0⟩)] } }
def installing (n f : Nat) (left : List Nat) (t : Option TreeBuild) (c : Classifier) : State := { up.busyWith (lop (.treeInstall [15] left t n f)) with cl := { up.cl with groves := [(15, c)] } }
theorem emptyBuild_answers : buildAnswers emptyBuild [] = true := by
  have a : (decide (∀ (k : BitVec 512) (l : BitVec 4), ((buildHalf emptyBuild).walk k l.toNat).1 = .miss)) = true :=
    decide_eq_true fun _ _ => rfl
  have c : (decide (∀ k : BitVec 512, ((buildHalf emptyBuild).way k 0).2.1 ≠ 0)) = false := decide_eq_false fun h => h 0 rfl
  have b : (decide (∀ k : BitVec 512,
      let held := regionRules ((buildHalf emptyBuild).region k) []
      ((((buildHalf emptyBuild).way k 0).1.map (buildHalf emptyBuild).leafActions) = some (held.map (·.action))) ∧
        held.all ((buildHalf emptyBuild).compares k) = true ∧ (buildHalf emptyBuild).repOn k 0 = true ∧
        ((buildHalf emptyBuild).way k 0).2.1 ≤ 0)) = true := decide_eq_true fun _ => ⟨rfl, rfl, rfl, Nat.le_refl 0⟩
  show compiledFrom emptyBuild [] = true
  unfold compiledFrom
  show (decide _ && decide _ && !decide (∀ k : BitVec 512, ((buildHalf emptyBuild).way k 0).2.1 ≠ 0) && true && true && true) = true
  rw [c]
  exact (congr (congrArg and (congr (congrArg and (congr (congrArg and (congr (congrArg and (congr (congrArg and a) b)) rfl)) rfl)) rfl)) rfl).trans rfl
/-- What `Obligations.RulesAndTreeInstall` supposes can be met, clause by clause. -/
theorem meets_RulesAndTreeInstall :
    (∃ (s : State) (r : Request), s.asks r 0x0401 ∧ (let p := (r.payload); let n := (fld p 2 2); let rs := ((List.range
      n).map fun i => readRule p (4 + 144 * i)); p.length = 4 + 144 * n ∧ fld p 0 1 ≤ 1 ∧ zeroAt p 1 1 = true ∧ 1 ≤ n ∧ n ≤
      27 ∧ (∀ x ∈ rs, x.legal = true) ∧ (∀ i, i < n → zeroAt p (4 + 144 * i + 135) 1 = true ∧ zeroAt p (4 + 144 * i + 140)
      4 = true) ∧ s.isHeld (.rules r.mb) = false)) ∧
    (∃ (s : State) (r : Request), s.asks r 0x0402 ∧ (let p := (r.payload); let n := (fld p 2 2); let a := (fld p 4 1); let
      v := (fld p 5 1); let b := (fld p 8 4); p.length = 12 + 24 * n ∧ fld p 0 1 ≤ 1 ∧ zeroAt p 1 1 = true ∧ 1 ≤ n ∧ n ≤
      166 ∧ zeroAt p 6 2 = true ∧ a ≤ 48 ∧ (v = 0xFF ∨ v ≤ 62 ∧ (v + 1 < a ∨ a + 15 < v)) ∧ b + 224 < 2 ^ 32 ∧ (∀ i, i < n
      → routeLegal p (12 + 24 * i) = true) ∧ s.isHeld (.rules r.mb) = false)) ∧
    (∃ (s : State) (r : Request) (i : Nat), s.asks r 0x0401 ∧ i < fld r.payload 2 2 ∧ (readRule r.payload (4 + 144 *
      i)).legal = false) ∧
    (∃ (l : List Rule) (key : BitVec 512) (i : Nat), firstMatch l key = some i) ∧
    (∃ (s : State) (r : Request), s.asks r 0x0403 ∧ (let p := (r.payload); let gs := (maskGroves (fld p 0 2)); p.length = 8
      ∧ fld p 2 1 ≤ 1 ∧ zeroAt p 3 5 = true ∧ fld p 0 2 ≠ 0 ∧ (∀ g ∈ gs, g < s.groves) ∧ s.groveGate r.actor gs = true ∧
      s.isHeld (.rules r.mb) = false ∧ (∀ g ∈ gs, s.isHeld (.tree g) = false ∧ s.groveFailed g = false) ∧ s.sl.ops.length <
      64)) ∧
    (∃ (s : State) (h : Nat) (n : Nat) (f : Nat) (o : LongOp) (all : List Nat) (left : List Nat), s.stepsOn h o
      (.treeInstall all left none n f)) ∧
    (∃ (s : State) (h : Nat) (n : Nat) (f : Nat) (g : Nat) (b : TreeBuild) (o : LongOp) (all : List Nat) (rest : List Nat),
      s.stepsOn h o (.treeInstall all (g :: rest) (some b) n f)) ∧
    (∃ (c : Classifier), c.active ≤ 1) ∧
    (∃ (b : TreeBuild) (staged : List Rule) (l : Nat), b.kind = 0 ∧ buildAnswers b staged = true ∧ l < 16) :=
  ⟨⟨up.ask (rq 0x0401 (rulePayload 0)), rq 0x0401 (rulePayload 0), by decide⟩,
   ⟨up.ask (rq 0x0402 ([0, 0, 1, 0, 46, 62, 0, 0] ++ leBytes 4 4294967071 ++ zeros 16 ++ [128, 6] ++ leBytes 2 7 ++ zeros 4)),
    rq 0x0402 ([0, 0, 1, 0, 46, 62, 0, 0] ++ leBytes 4 4294967071 ++ zeros 16 ++ [128, 6] ++ leBytes 2 7 ++ zeros 4),
    by decide⟩,
   ⟨up.ask (rq 0x0401 (zeros 2 ++ [1, 0] ++ zeros 64 ++ zeros 64 ++ zeros 4 ++ leBytes 2 7 ++ [255, 0] ++ leBytes 2 10 ++ leBytes 2 9 ++ zeros 4)),
    rq 0x0401 (zeros 2 ++ [1, 0] ++ zeros 64 ++ zeros 64 ++ zeros 4 ++ leBytes 2 7 ++ [255, 0] ++ leBytes 2 10 ++ leBytes 2 9 ++ zeros 4),
    0, by decide⟩,
   ⟨[⟨0, 0, 1, 7, 255, 0, 0⟩], 5, 7, by decide⟩,
   ⟨up.ask (rq 0x0403 (leBytes 2 0x8000 ++ [1] ++ zeros 5)), rq 0x0403 (leBytes 2 0x8000 ++ [1] ++ zeros 5), by decide⟩,
   ⟨up.busyWith (lop (.treeInstall [15] [15] none 0 0)), 1, 0, 0,
    lop (.treeInstall [15] [15] none 0 0), [15], [15], by decide⟩,
   ⟨up.busyWith (lop (.treeInstall [15] [15] (some emptyBuild) 0 0)),
    1, 0, 0, 15, emptyBuild, lop (.treeInstall [15] [15] (some emptyBuild) 0 0),
    [15], [], by decide⟩,
   ⟨{}, by decide⟩,
   ⟨emptyBuild, [], 15, ⟨by decide, emptyBuild_answers, by decide⟩⟩⟩

/-- What `Obligations.ClassifierCommands` supposes can be met, clause by clause. -/
theorem meets_ClassifierCommands :
    (∃ (s : State) (r : Request) (g : Nat), s.asks r 0x0404 ∧ r.payload.length = 1 ∧ fld r.payload 0 1 = g ∧
      s.ownsWholeGrove r.actor g) ∧
    (∃ (s : State) (r : Request), s.asks r 0x0405 ∧ r.payload = []) ∧
    (∃ (s : State) (r : Request), s.asks r 0x0406 ∧ (let p := (r.payload); let m := (fld p 2 2); let c : MeterCfg := (⟨fld
      p 4 4, fld p 8 4, fld p 12 4, fld p 16 4, fld p 20 1, fld p 21 1, fld p 22 1, fld p 23 1⟩); let gs := (maskGroves
      (fld p 0 2)); p.length = 24 ∧ m < 4096 ∧ c.cir ≤ c.pir ∧ c.cbs < 2 ^ 24 ∧ c.pbs < 2 ^ 24 ∧ c.yellow ≤ 3 ∧ c.red ≤ 3 ∧
      c.yellowTc ≤ 7 ∧ c.redTc ≤ 7 ∧ fld p 0 2 ≠ 0 ∧ (∀ g ∈ gs, g < s.groves) ∧ s.groveGate r.actor gs = true ∧ (∀ g ∈ gs,
      s.groveFailed g = false))) ∧
    (∃ (s : State) (r : Request), s.asks r 0x0406 ∧ r.payload.length = 24 ∧ fld r.payload 8 4 < fld r.payload 4 4) ∧
    (∃ (s : State) (r : Request) (g : Nat) (m : Nat), s.asks r 0x0407 ∧ r.payload.length = 4 ∧ fld r.payload 0 1 = g ∧
      zeroAt r.payload 1 1 = true ∧ fld r.payload 2 2 = m ∧ m < 4096 ∧ s.ownsWholeGrove r.actor g) ∧
    (∃ (s : State) (r : Request) (g : Nat) (a : Nat) (n : Nat), s.asks r 0x0408 ∧ r.payload.length = 6 ∧ fld r.payload 0 1
      = g ∧ zeroAt r.payload 1 1 = true ∧ fld r.payload 2 2 = a ∧ fld r.payload 4 2 = n ∧ 1 ≤ n ∧ n ≤ 250 ∧ a + n ≤ 65536 ∧
      s.ownsWholeGrove r.actor g) ∧
    (∃ (s : State) (r : Request) (g : Nat), s.asks r 0x0409 ∧ r.payload.length = 1 ∧ fld r.payload 0 1 = g ∧
      s.ownsWholeGrove r.actor g) ∧
    (∃ (s : State) (r : Request) (g : Nat), s.asks r 0x040A ∧ r.payload.length = 72 ∧ fld r.payload 0 1 = g ∧ zeroAt
      r.payload 1 7 = true ∧ s.ownsWholeGrove r.actor g) :=
  ⟨⟨up.ask (rq 0x0404 [15]), rq 0x0404 [15], 15, by decide⟩,
   ⟨{ up with sl := { up.sl with accepted := some (rq 0x0405 []) }, cl := { up.cl with builds := [(16, ({ status := 0 }))] } },
    rq 0x0405 [], by decide⟩,
   ⟨up.ask (rq 0x0406 (leBytes 2 0x8000 ++ leBytes 2 4095 ++ leBytes 4 0xFFFFFFFF ++ leBytes 4 0xFFFFFFFF ++ leBytes 4 0xFFFFFF ++ leBytes 4 0xFFFFFF ++ [3, 3, 7, 7])),
    rq 0x0406 (leBytes 2 0x8000 ++ leBytes 2 4095 ++ leBytes 4 0xFFFFFFFF ++ leBytes 4 0xFFFFFFFF ++ leBytes 4 0xFFFFFF ++ leBytes 4 0xFFFFFF ++ [3, 3, 7, 7]),
    by decide⟩,
   ⟨up.ask (rq 0x0406 (leBytes 2 0x8000 ++ leBytes 2 4095 ++ leBytes 4 1 ++ zeros 16)),
    rq 0x0406 (leBytes 2 0x8000 ++ leBytes 2 4095 ++ leBytes 4 1 ++ zeros 16),
    by decide⟩,
   ⟨up.ask (rq 0x0407 ([15, 0] ++ leBytes 2 4095)), rq 0x0407 ([15, 0] ++ leBytes 2 4095), 15, 4095, by decide⟩,
   ⟨up.ask (rq 0x0408 ([15, 0] ++ leBytes 2 65286 ++ leBytes 2 250)),
    rq 0x0408 ([15, 0] ++ leBytes 2 65286 ++ leBytes 2 250), 15,
    65286, 250, by decide⟩,
   ⟨up.ask (rq 0x0409 [15]), rq 0x0409 [15], 15, by decide⟩,
   ⟨{ up with sl := { up.sl with accepted := some (rq 0x040A ([15] ++ zeros 71)) }, cl := { up.cl with groves := [(15, { half0 := { rules := [⟨0, 0, 1, 65535, 255, 0, 0⟩] } })] } },
    rq 0x040A ([15] ++ zeros 71), 15, by decide⟩⟩

def flowEntry : BitVec 512 := 1#512 <<< 127
def withFlow (l : SMap (BitVec 512)) : State := { up with tb := { up.tb with flow := { entries := l } } }
def withHost (l : SMap (BitVec 512)) : State := { up with tb := { up.tb with host := { entries := l } } }
/-- What `Obligations.TableOperations` supposes can be met, clause by clause. -/
theorem meets_TableOperations :
    (∃ (s : State) (f : Nat) (t : Nat) (v : BitVec 32) (e : BitVec 512), t ≤ 1 ∧ eBits v 26 24 = t ∧ eBits v 31 28 = 0 ∧
      v.getLsbD 27 = false ∧ eBits v 20 0 < tblSize t ∧ SMap.get (s.tbl t).entries (eBits v 20 0) = some e ∧ s.owns f 6
      (xObj t e) = true) ∧
    (∃ (s : State) (t : Nat) (v : BitVec 32), t ≤ 1 ∧ eBits v 26 24 = t ∧ eBits v 31 28 = 0 ∧ v.getLsbD 27 = false ∧ eBits
      v 20 0 < tblSize t ∧ SMap.get (s.tbl t).entries (eBits v 20 0) = none) ∧
    (∃ (s : State) (f : Nat) (t : Nat) (p : Nat) (v : BitVec 32) (d : BitVec 512), t ≤ 1 ∧ eBits v 26 24 = t ∧ eBits v 31
      28 = 0 ∧ v.getLsbD 27 = false ∧ eBits v 20 0 = 0 ∧ (s.tbl t).find t (xKey t d) = some p ∧ s.owns f 6 (xObj t
      (SMap.getD (s.tbl t).entries p 0)) = true) ∧
    (∃ (s : State) (t : Nat) (op : Nat) (v : BitVec 32) (d : BitVec 512), t ≤ 1 ∧ (op = 2 ∨ op = 4) ∧ eBits v 26 24 = t ∧
      eBits v 31 28 = 0 ∧ v.getLsbD 27 = false ∧ eBits v 20 0 = 0 ∧ (s.tbl t).find t (xKey t d) = none) ∧
    (∃ (s : State) (f : Nat) (p : Nat) (v : BitVec 32) (d : BitVec 512) (old : BitVec 512) (h : Nat → Bool), eBits v 26 24
      = 1 ∧ eBits v 31 28 = 0 ∧ v.getLsbD 27 = false ∧ eBits v 20 0 = 0 ∧ xReserved 1 d = false ∧ xValid 1 d = true ∧
      s.tb.flow.find 1 (xKey 1 d) = some p ∧ SMap.get s.tb.flow.entries p = some old ∧ s.owns f 6 (xObj 1 old) = true ∧ h
      (xObj 1 old) = false ∧ xPart 1 d = xPart 1 old ∧ (∃ q, q ≠ p)) ∧
    (∃ (s : State) (f : Nat) (p : Nat) (v : BitVec 32) (d : BitVec 512) (h : Nat → Bool), eBits v 26 24 = 1 ∧ eBits v 31 28
      = 0 ∧ v.getLsbD 27 = false ∧ eBits v 20 0 = 0 ∧ xReserved 1 d = false ∧ xValid 1 d = true ∧ s.owns f 6 (xObj 1 d) =
      true ∧ h (xObj 1 d) = false ∧ s.tb.flow.partCount 1 (xPart 1 d) < s.partLimit (xObj 1 d) ∧ s.tb.flow.find 1 (xKey 1
      d) = none ∧ s.tb.flow.freeWay (xCands 1 s.tb.flow.placing (xKey 1 d)) = some p ∧ (∃ q, q ≠ p)) ∧
    (∃ (s : State) (f : Nat) (p : Nat) (v : BitVec 32) (d : BitVec 512) (h : Nat → Bool), eBits v 26 24 = 1 ∧ eBits v 31 28
      = 0 ∧ v.getLsbD 27 = false ∧ eBits v 20 0 = 0 ∧ xReserved 1 d = false ∧ xValid 1 d = true ∧ s.owns f 6 (xObj 1 d) =
      true ∧ h (xObj 1 d) = false ∧ s.tb.flow.partCount 1 (xPart 1 d) < s.partLimit (xObj 1 d) ∧ s.tb.flow.find 1 (xKey 1
      d) = some p) ∧
    (∃ (s : State) (f : Nat) (v : BitVec 32) (d : BitVec 512) (h : Nat → Bool), eBits v 26 24 = 1 ∧ eBits v 31 28 = 0 ∧
      v.getLsbD 27 = false ∧ eBits v 20 0 = 0 ∧ xReserved 1 d = false ∧ xValid 1 d = true ∧ s.owns f 6 (xObj 1 d) = true ∧
      h (xObj 1 d) = false ∧ s.partLimit (xObj 1 d) ≤ s.tb.flow.partCount 1 (xPart 1 d)) ∧
    (∃ (s : State) (f : Nat) (p : Nat) (v : BitVec 32) (d : BitVec 512) (old : BitVec 512) (h : Nat → Bool), eBits v 26 24
      = 1 ∧ eBits v 31 28 = 0 ∧ v.getLsbD 27 = false ∧ eBits v 20 0 = 0 ∧ s.tb.flow.find 1 (xKey 1 d) = some p ∧ SMap.get
      s.tb.flow.entries p = some old ∧ SMap.sorted s.tb.flow.entries = true ∧ s.owns f 6 (xObj 1 old) = true ∧ h (xObj 1
      old) = false ∧ (s.tb.flow.clear p).stashFor 1 (p / 4 * 4) = none ∧ (∃ q, q ≠ p)) ∧
    (∃ (t : Nat) (v : BitVec 32), t ≤ 1 ∧ eBits v 26 24 = t ∧ eBits v 31 28 = 0 ∧ v.getLsbD 27 = false ∧ eBits v 20 0 <
      tblSteps t) ∧
    (∃ (s : State) (t : Nat) (p : Nat) (mine : Nat → Bool) (e : BitVec 512), SMap.get (s.tbl t).entries p = some e ∧
      xStatic t e = false ∧ mine (xObj t e) = true ∧ (s.tbl t).age p ≠ 3) ∧
    (∃ (s : State) (t : Nat) (p : Nat) (mine : Nat → Bool) (e : BitVec 512), SMap.get (s.tbl t).entries p = some e ∧
      (xStatic t e = true ∨ mine (xObj t e) = false)) :=
  ⟨⟨withFlow [(131135, flowEntry)], operator, 1, 0x1000000 + 131135, flowEntry, by decide⟩,
   ⟨up, 1, 0x1000000 + 131135, by decide⟩,
   ⟨withFlow [(131135, flowEntry)], operator, 1, 131135, 0x1000000, flowEntry, by decide⟩,
   ⟨up, 1, 4, 0x1000000, flowEntry, by decide⟩,
   ⟨withFlow [(131135, flowEntry)], operator, 131135, 0x1000000,
    flowEntry, flowEntry, fun _ => false, ⟨by decide, by decide, by decide, by decide, by decide, by decide, by decide, by decide, by decide, by decide, by decide, ⟨0, by decide⟩⟩⟩,
   ⟨up, operator, 65532, 0x1000000, flowEntry, fun _ => false, ⟨by decide, by decide, by decide, by decide, by decide, by decide, by decide, by decide, by decide, by decide, by decide, ⟨0, by decide⟩⟩⟩,
   ⟨withFlow [(131135, flowEntry)], operator, 131135, 0x1000000, flowEntry, fun _ => false, by decide⟩,
   ⟨{ withFlow [(131135, flowEntry)] with cfg := { up.cfg with partLimits := [(256, 1)] } },
    operator, 0x1000000, flowEntry, fun _ => false, by decide⟩,
   ⟨withFlow [(131135, flowEntry)], operator, 131135, 0x1000000,
    flowEntry, flowEntry, fun _ => false, ⟨by decide, by decide, by decide, by decide, by decide, by decide, by decide, by decide, by decide, by decide, ⟨0, by decide⟩⟩⟩,
   ⟨1, 0x1000000, by decide⟩,
   ⟨withHost [(1048639, 1#512 <<< 63)], 0, 1048639, fun _ => true, 1#512 <<< 63, by decide⟩,
   ⟨withHost [(1048639, 1#512 <<< 63)], 0, 1048639, fun _ => false, 1#512 <<< 63, by decide⟩⟩

/-- What `Obligations.ArrayTablesAndRegisters` supposes can be met, clause by clause. -/
theorem meets_ArrayTablesAndRegisters :
    (∃ (s : State) (f : Nat) (i : Nat) (v : BitVec 32) (d : BitVec 512), eBits v 26 24 = 2 ∧ eBits v 31 28 = 0 ∧ v.getLsbD
      27 = false ∧ eBits v 20 0 = i ∧ i < 65536 ∧ eBits d 255 25 = 0 ∧ eBits d 15 1 = 0 ∧ s.owns f 6 (512 + i / 256) =
      true) ∧
    (∃ (s : State) (f : Nat) (i : Nat) (v : BitVec 32) (d : BitVec 512), eBits v 26 24 = 3 ∧ eBits v 31 28 = 0 ∧ v.getLsbD
      27 = false ∧ eBits v 20 0 = i ∧ i < s.lanes ∧ i < 512 ∧ eBits d 71 66 = 0 ∧ eBits d 63 8 = 0 ∧ d.getLsbD 4 = false ∧
      d.getLsbD 0 = false ∧ eBits d 65 64 ≠ 3 ∧ s.owns f 1 i = true) ∧
    (∃ (s : State) (f : Nat) (i : Nat) (v : BitVec 32), eBits v 26 24 = 2 ∧ eBits v 31 28 = 0 ∧ v.getLsbD 27 = false ∧
      eBits v 20 0 = i ∧ i < 65536 ∧ (s.tenantEntry i).getLsbD 0 = true ∧ s.owns f 6 (512 + i / 256) = true) ∧
    (∃ (s : State) (f : Nat) (i : Nat) (v : BitVec 32), eBits v 26 24 = 3 ∧ eBits v 31 28 = 0 ∧ v.getLsbD 27 = false ∧
      eBits v 20 0 = i ∧ i < s.lanes ∧ i < 512 ∧ s.owns f 1 i = true) ∧
    (∃ (s : State) (i : Nat) (v : BitVec 32), eBits v 26 24 = 2 ∧ eBits v 31 28 = 0 ∧ v.getLsbD 27 = false ∧ eBits v 20 0 =
      i ∧ i < 65536 ∧ (s.tenantEntry i).getLsbD 0 = false) ∧
    (∃ (s : State) (f : Nat) (i : Nat) (g : Nat) (v : BitVec 32) (d : BitVec 512), eBits v 26 24 = 4 ∧ eBits v 31 28 = g ∧
      (let gs := (if v.getLsbD 27 then s.groveList else [g]); (v.getLsbD 27 = true → g = 0) ∧ eBits v 20 0 = i ∧ i < 65536
      ∧ s.actionPresent d = true ∧ (∀ k ∈ gs, k < s.groves ∧ actionLegal k d = true ∧ s.owns f 6 (768 + 16 * k + i / 4096)
      = true ∧ s.groveFailed k = false))) ∧
    (∃ (e : BitVec 512), e ≠ 0) ∧
    (∃ (s : State) (f : Nat) (i : Nat) (v : BitVec 32) (d : BitVec 512), eBits v 26 24 = 2 ∧ eBits v 31 28 = 0 ∧ v.getLsbD
      27 = false ∧ eBits v 20 0 = i ∧ i < 65536 ∧ eBits d 255 25 = 0 ∧ eBits d 15 1 = 0 ∧ s.owns f 6 (512 + i / 256) =
      false) ∧
    (∃ (s : State) (n : Nat), s.serving = true ∧ n < 128 ∧ s.reaches (pf2 (n / 8)) (0x200 + n / 8) 2 (0x100200 + 0x10 * (n
      % 8)) 4) ∧
    (∃ (s : State) (n : Nat), s.serving = true ∧ s.running = true ∧ 128 ≤ n ∧ n < 128 + 2 * s.groves) ∧
    (∃ (s : State) (n : Nat), (s.tblRunDue.tblSet n).busy = false) ∧
    (∃ (s : State) (n : Nat), (s.tblRunDue.tblSet n).busy = true) ∧
    (∃ (s : State) (o : TblOp), (s.tblSet o.src).busy = true) ∧
    (∃ (s : State), s.serving = true) ∧
    (∃ (s : State) (n : Nat) (o : Nat) (b : List Byte), s.serving = true ∧ n < 128 ∧ s.reaches (pf2 (n / 8)) (0x200 + n /
      8) 2 (0x100000 + 0x40 * (n % 8) + o) b.length) ∧
    (∃ (s : State) (n : Nat), s.serving = true ∧ s.running = true ∧ 128 ≤ n ∧ n < 128 + 2 * s.groves) ∧
    (∃ (s : State) (n : Nat), (s.tblSet n).busy = false) ∧
    (∃ (s : State) (n : Nat), (s.tblSet n).busy = true) ∧
    (∃ (o : Nat) (j : Nat) (b : List Byte), o + b.length ≤ 64 ∧ j < 64) ∧
    (∃ (s : State) (n : Nat), s.serving = true ∧ n < 128 ∧ s.reaches (pf2 (n / 8)) (0x200 + n / 8) 2 (0x100204 + 0x10 * (n
      % 8)) 4) :=
  ⟨⟨up, operator, 65535, 0x200FFFF, 1#512 <<< 16, by decide⟩,
   ⟨up, operator, 511, 0x30001FF, 0, by decide⟩,
   ⟨{ up with cfg := { up.cfg with tenantTable := [(65535, 1)] } }, operator, 65535, 0x200FFFF, by decide⟩,
   ⟨up, operator, 511, 0x30001FF, by decide⟩,
   ⟨up, 65535, 0x200FFFF, by decide⟩,
   ⟨up, operator, 65535, 15, 0xF400FFFF, 1 + 6 * 8 + 15 * 16777216, by decide⟩,
   ⟨1, by decide⟩,
   ⟨up, 3, 65535, 0x200FFFF, 0, by decide⟩,
   ⟨hostUp, 0, by decide⟩,
   ⟨up, 159, by decide⟩,
   ⟨up, 0, by decide⟩,
   ⟨{ up with tb := { up.tb with sets := [(159, { busy := true })] } }, 159, by decide⟩,
   ⟨{ up with tb := { up.tb with sets := [(159, { busy := true })] } },
    { src := 159, cmd := 0, data := 0, cycle := 0 }, by decide⟩,
   ⟨up, by decide⟩,
   ⟨hostUp, 0, 0, [], by decide⟩,
   ⟨up, 159, by decide⟩,
   ⟨up, 0, by decide⟩,
   ⟨{ up with tb := { up.tb with sets := [(159, { busy := true })] } }, 159, by decide⟩,
   ⟨0, 0, [], by decide⟩,
   ⟨hostUp, 0, by decide⟩⟩

def hostEntry : BitVec 512 := 1#512 <<< 63
def learning (l : SMap (BitVec 512)) (m : List MoveSt) : State := { up with tb := { up.tb with host := { entries := l }, moves := m } }
def flapper (n : Nat) (fr : Option Nat) : MoveSt := { key := 0, moves := [(3, n)], frozen := fr }
def MS3 : Nat := 3 * ms 1000
/-- What `Obligations.LearningAndAgeing` supposes can be met, clause by clause. -/
theorem meets_LearningAndAgeing :
    (∃ (s : State), s.running = true) ∧
    (∃ (s : State) (e : LearnEv), s.running = true ∧ s.tb.engineFailed = none ∧ firstEvent s.tb.events = some e) ∧
    (∃ (s : State) (e : LearnEv), firstEvent s.tb.events = some e) ∧
    (∃ (l : List LearnEv) (e : LearnEv), firstEvent l = some e) ∧
    (∃ (s : State), s.running = true ∧ (firstEvent s.tb.events = none ∨ s.tb.engineFailed.isSome = true)) ∧
    (∃ (s : State) (e : LearnEv) (p : Nat), let u := (s.tblRun); (u.movesOf (2 ^ 48 * e.tenant + e.mac.toNat)).frozen =
      none ∧ u.tb.host.find 0 (2 ^ 48 * e.tenant + e.mac.toNat) = none ∧ (let x := (learnEntry (u.portEntry e.port) e);
      xKey 0 x = 2 ^ 48 * e.tenant + e.mac.toNat ∧ u.tb.host.partCount 0 (xPart 0 x) < u.partLimit (xObj 0 x) ∧
      u.tb.host.freeWay (xCands 0 u.tb.host.placing (xKey 0 x)) = some p)) ∧
    (∃ (s : State) (e : LearnEv) (p : Nat), let u := (s.tblRun); (u.movesOf (2 ^ 48 * e.tenant + e.mac.toNat)).frozen =
      none ∧ u.tb.host.find 0 (2 ^ 48 * e.tenant + e.mac.toNat) = some p ∧ xLoc (SMap.getD u.tb.host.entries p 0) = e.port) ∧
    (∃ (s : State) (e : LearnEv) (p : Nat), let u := (s.tblRun); (u.movesOf (2 ^ 48 * e.tenant + e.mac.toNat)).frozen =
      none ∧ u.tb.host.find 0 (2 ^ 48 * e.tenant + e.mac.toNat) = some p ∧ xLoc (SMap.getD u.tb.host.entries p 0) ≠ e.port
      ∧ xStatic 0 (SMap.getD u.tb.host.entries p 0) = true) ∧
    (∃ (s : State) (e : LearnEv) (p : Nat) (f : Nat), let u := (s.tblRun); (u.movesOf (2 ^ 48 * e.tenant +
      e.mac.toNat)).frozen = some f ∧ e.stamp < f + u.holdUnits ∧ u.tb.host.find 0 (2 ^ 48 * e.tenant + e.mac.toNat) = some
      p) ∧
    (∃ (s : State) (e : LearnEv) (p : Nat), let u := (s.tblRun); (u.movesOf (2 ^ 48 * e.tenant + e.mac.toNat)).frozen =
      none ∧ u.tb.host.find 0 (2 ^ 48 * e.tenant + e.mac.toNat) = some p ∧ xLoc (SMap.getD u.tb.host.entries p 0) ≠ e.port
      ∧ xStatic 0 (SMap.getD u.tb.host.entries p 0) = false ∧ SMap.getD (u.movesOf (2 ^ 48 * e.tenant + e.mac.toNat)).moves
      (e.stamp / ms 1000) 0 < u.cfg.moveLimit) ∧
    (∃ (s : State) (e : LearnEv) (p : Nat), let u := (s.tblRun); (u.movesOf (2 ^ 48 * e.tenant + e.mac.toNat)).frozen =
      none ∧ u.tb.host.find 0 (2 ^ 48 * e.tenant + e.mac.toNat) = some p ∧ xLoc (SMap.getD u.tb.host.entries p 0) ≠ e.port
      ∧ xStatic 0 (SMap.getD u.tb.host.entries p 0) = false ∧ u.cfg.moveLimit ≤ SMap.getD (u.movesOf (2 ^ 48 * e.tenant +
      e.mac.toNat)).moves (e.stamp / ms 1000) 0) ∧
    (∃ (s : State) (key : Nat) (f : Nat) (m : MoveSt), s.running = true ∧ (s.tb.moves.find? fun m => m.key.toNat == key) =
      some m ∧ m.frozen = some f) ∧
    (∃ (s : State) (p : Nat) (m : MoveSt) (e : BitVec 512), s.tb.host.find 0 m.key.toNat = some p ∧ SMap.get
      s.tb.host.entries p = some e) ∧
    (∃ (s : State) (key : Nat), s.running = true ∧ (s.tb.moves.find? fun m => m.key.toNat == key) = none) ∧
    (∃ (s : State), s.running = true) :=
  ⟨⟨{ up with tb := { up.tb with flow := { entries := [(131135, 1#512 <<< 127)], bad := [4 * 131135 + 3] } } }, by decide⟩,
   ⟨{ up with tb := { up.tb with events := [(⟨4000000007, 0, 0, 0⟩)] } }, ⟨4000000007, 0, 0, 0⟩, by decide⟩,
   ⟨{ up with tb := { up.tb with events := [(⟨4000000007, 0, 0, 0⟩)] } }, ⟨4000000007, 0, 0, 0⟩, by decide⟩,
   ⟨[(⟨4000000007, 0, 0, 0⟩)], ⟨4000000007, 0, 0, 0⟩, by decide⟩,
   ⟨{ up with tb := { up.tb with flow := { entries := [(131135, 1#512 <<< 127)], bad := [4 * 131135 + 3] } } }, by decide⟩,
   ⟨learning [] [], ⟨4000000007, 0, 0, 0⟩, 524284, by decide⟩,
   ⟨learning [(1048639, hostEntry)] [], ⟨4000000007, 0, 0, 0⟩, 1048639, by decide⟩,
   ⟨learning [(1048639, hostEntry ||| 1#512 <<< 48 ||| 1#512 <<< 61)] [], ⟨4000000007, 0, 0, 0⟩, 1048639, by decide⟩,
   ⟨learning [(1048639, hostEntry)] [flapper 4 (some 4000000000)], ⟨4000000007, 0, 0, 0⟩, 1048639, 4000000000, by decide⟩,
   ⟨learning [(1048639, hostEntry)] [], ⟨4000000007, 1, 0, 0⟩, 1048639, by decide⟩,
   ⟨learning [(1048639, hostEntry)] [flapper 4 none], ⟨MS3, 1, 0, 0⟩, 1048639, by decide⟩,
   ⟨learning [(1048639, hostEntry)] [(flapper 4 (some 4000000000))], 0, 4000000000, flapper 4 (some 4000000000), by decide⟩,
   ⟨learning [(1048639, hostEntry)] [], 1048639, flapper 4 none, hostEntry, by decide⟩,
   ⟨up, 0, by decide⟩,
   ⟨up, by decide⟩⟩

/-- What `Obligations.TableCommands` supposes can be met, clause by clause. -/
theorem meets_TableCommands :
    (∃ (s : State) (r : Request) (op : Nat), r.payload.length = 68 ∧ eBits (BitVec.ofNat 32 (fld r.payload 0 4)) 23 21 = 0
      ∧ op = 0 ∧ s.asks r 0x0301) ∧
    (∃ (s : State) (r : Request) (op : Nat), r.payload.length = 68 ∧ eBits (BitVec.ofNat 32 (fld r.payload 0 4)) 23 21 = 0
      ∧ op = 1 ∧ s.asks r 0x0302) ∧
    (∃ (s : State) (r : Request) (op : Nat), r.payload.length = 68 ∧ eBits (BitVec.ofNat 32 (fld r.payload 0 4)) 23 21 = 0
      ∧ op = 2 ∧ s.asks r 0x0303) ∧
    (∃ (s : State) (r : Request) (op : Nat), r.payload.length = 68 ∧ eBits (BitVec.ofNat 32 (fld r.payload 0 4)) 23 21 = 0
      ∧ op = 3 ∧ s.asks r 0x0304) ∧
    (∃ (s : State) (r : Request) (op : Nat), r.payload.length = 68 ∧ eBits (BitVec.ofNat 32 (fld r.payload 0 4)) 23 21 = 0
      ∧ op = 4 ∧ s.asks r 0x0305) ∧
    (∃ (s : State) (r : Request) (op : Nat), r.payload.length = 68 ∧ eBits (BitVec.ofNat 32 (fld r.payload 0 4)) 23 21 = 0
      ∧ op = 5 ∧ s.asks r 0x0306) ∧
    (∃ (s : State) (r : Request), s.asks r 0x0307 ∧ (let t := (fld r.payload 0 1); r.payload.length = 4 ∧ t ≤ 1 ∧ zeroAt
      r.payload 1 3 = true ∧ (∃ i, i < 256 ∧ s.owns r.actor 6 (256 * t + i) = true) ∧ s.isHeld (.table t) = false ∧
      s.sl.ops.length < 64)) ∧
    (∃ (s : State) (h : Nat) (t : Nat) (o : LongOp), s.stepsOn h o (.rehash t)) ∧
    (∃ (x : XTable) (f : BitVec 32 × BitVec 32), x.fresh = some f) ∧
    (∃ (s : State) (r : Request), s.asks r 0x0308 ∧ (let t := (fld r.payload 0 1); r.payload.length = 4 ∧ t ≤ 1 ∧ zeroAt
      r.payload 1 3 = true)) ∧
    (∃ (s : State) (r : Request) (o : Nat) (l : Nat), s.asks r 0x0309 ∧ r.payload.length = 8 ∧ fld r.payload 0 2 = o ∧ o <
      512 ∧ zeroAt r.payload 2 2 = true ∧ fld r.payload 4 4 = l ∧ l ≤ tblSize (o / 256)) ∧
    (∃ (s : State) (r : Request) (m : Nat) (d : Nat) (a : Nat) (b : Nat), s.asks r 0x030A ∧ r.payload.length = 12 ∧ fld
      r.payload 0 1 = m ∧ 1 ≤ m ∧ zeroAt r.payload 1 1 = true ∧ fld r.payload 2 2 = d ∧ 1 ≤ d ∧ d ≤ 3600 ∧ fld r.payload 4
      4 = a ∧ fld r.payload 8 4 = b ∧ (a = 0 ∨ 1000 ≤ a ∧ a ≤ 3600000) ∧ (b = 0 ∨ 1000 ≤ b ∧ b ≤ 3600000)) ∧
    (∃ (s : State) (r : Request) (o : Nat) (k : Nat), s.asks r 0x030B ∧ r.payload.length = 4 ∧ fld r.payload 0 2 = o ∧ o <
      512 ∧ fld r.payload 2 1 = k ∧ k ≤ 1 ∧ zeroAt r.payload 3 1 = true ∧ s.owns r.actor 6 o = true ∧ s.isHeld (.part o) =
      false ∧ s.sl.ops.length < 64) ∧
    (∃ (s : State) (h : Nat) (t : Nat) (part : Nat) (k : Nat) (pos : Nat) (n : Nat) (o : LongOp), s.stepsOn h o (.flush t
      part k pos n)) ∧
    (∃ (s : State) (r : Request) (t : Nat), s.asks r 0x030C ∧ r.payload.length = 4 ∧ fld r.payload 0 1 = t ∧ t ≤ 1 ∧ zeroAt
      r.payload 1 3 = true) :=
  ⟨⟨up.ask (rq 0x0301 (zeros 68)), rq 0x0301 (zeros 68), 0, by decide⟩,
   ⟨up.ask (rq 0x0302 (zeros 68)), rq 0x0302 (zeros 68), 1, by decide⟩,
   ⟨up.ask (rq 0x0303 (zeros 68)), rq 0x0303 (zeros 68), 2, by decide⟩,
   ⟨up.ask (rq 0x0304 (zeros 68)), rq 0x0304 (zeros 68), 3, by decide⟩,
   ⟨up.ask (rq 0x0305 (zeros 68)), rq 0x0305 (zeros 68), 4, by decide⟩,
   ⟨up.ask (rq 0x0306 (zeros 68)), rq 0x0306 (zeros 68), 5, by decide⟩,
   ⟨up.ask (rq 0x0307 [1, 0, 0, 0]), rq 0x0307 [1, 0, 0, 0], ⟨by decide, by decide, by decide, by decide, ⟨0, by decide, by decide⟩, by decide, by decide⟩⟩,
   ⟨up.busyWith (lop (.rehash 1)), 1, 1, lop (.rehash 1), by decide⟩,
   ⟨{ fresh := some (1, 2) }, (1, 2), by decide⟩,
   ⟨up.ask (rq 0x0308 [1, 0, 0, 0]), rq 0x0308 [1, 0, 0, 0], by decide⟩,
   ⟨up.ask (rq 0x0309 (leBytes 2 511 ++ [0, 0] ++ leBytes 4 131136)),
    rq 0x0309 (leBytes 2 511 ++ [0, 0] ++ leBytes 4 131136), 511,
    131136, by decide⟩,
   ⟨up.ask (rq 0x030A ([255, 0] ++ leBytes 2 3600 ++ leBytes 4 3600000 ++ leBytes 4 1000)),
    rq 0x030A ([255, 0] ++ leBytes 2 3600 ++ leBytes 4 3600000 ++ leBytes 4 1000),
    255, 3600, 3600000, 1000, by decide⟩,
   ⟨up.ask (rq 0x030B (leBytes 2 511 ++ [1, 0])), rq 0x030B (leBytes 2 511 ++ [1, 0]), 511, 1, by decide⟩,
   ⟨up.busyWith (lop (.flush 1 255 0 130111 0)), 1, 1, 255, 0, 130111, 0, lop (.flush 1 255 0 130111 0), by decide⟩,
   ⟨up.ask (rq 0x030C [1, 0, 0, 0]), rq 0x030C [1, 0, 0, 0], 1, by decide⟩⟩

def bound (final : Nat) : State := { up with cn := { up.cn with transit := [(0, [{ dest := final, final := final, source := 0, segs := [] }])] } }
def wideUnit : TUnit := { dest := 1, final := 5, source := 0, segs := List.replicate 4097 ⟨0, 0, 64, 1, 64⟩ }
theorem wide_cells : wideUnit.cellsTaken = 4097 := by
  unfold TUnit.cellsTaken wideUnit
  rw [List.filter_eq_self.2 (fun a ha => by rw [List.eq_of_mem_replicate ha]; rfl), List.length_replicate]
/-- What `Obligations.PlaneTransfers` supposes can be met, clause by clause. -/
theorem meets_PlaneTransfers :
    (∃ (s : State) (p : Nat), s.running = true ∧ p < 8 ∧ (s.plane p).state = 0) ∧
    (∃ (s : State) (p : Nat), (8 ≤ p ∨ (s.plane p).state ≠ 0)) ∧
    (∃ (s : State) (p : Nat), s.cn.tt = s.ttNow ∧ s.cn.done ≠ [] ∧ (∀ q ∈ s.cn.done, planePos s.ttNow q < planePos s.ttNow
      p) ∧ (s.plane p).since ≤ s.ttNow) ∧
    (∃ (s : State) (p : Nat), (s.cn.tt ≠ s.ttNow ∨ s.cn.done = [] ∨ (∃ q ∈ s.cn.done, planePos s.ttNow p ≤ planePos s.ttNow
      q) ∨ s.ttNow < (s.plane p).since)) ∧
    (∃ (s : State) (p : Nat) (j : Nat) (i : Nat), (j, i) ∈ s.grants p) ∧
    (∃ (s : State) (i : Nat) (j : Nat), (i, j) ∈ s.requestsNow) ∧
    (∃ (s : State) (p : Nat) (i : Nat) (j : Nat) (gs : List (Nat × Nat)) (u : TUnit), firstFrom ((s.plane p).acceptPtr p i)
      (((gs.filter (·.2 == i)).map (·.1)).filter fun j => s.hasUnit i j) = some j ∧ (s.transitOf i).find? (·.final == j) =
      some u) ∧
    (∃ (s : State) (p : Nat), s.running = true ∧ p < 8 ∧ ((s.plane p).state = 1 ∨ (s.plane p).state = 2)) ∧
    (∃ (s : State) (p : Nat), (8 ≤ p ∨ (s.plane p).state = 0 ∨ (s.plane p).state = 3)) ∧
    (∃ (s : State) (p : Nat) (i : Nat) (u : TUnit) (us : List TUnit), let j := ((i + 1 + (s.cn.tt + p) % 15) % 16); j <
      s.groves ∧ s.groveFailed i = false ∧ s.groveFailed j = false ∧ s.transitOf i = u :: us ∧ ((s.transitOf i).any
      (·.final == j)) = false ∧ ((s.slice i).relay.any (·.dest == j)) = false ∧ s.stageOneCells j + u.cellsTaken ≤ 4096) ∧
    (∃ (s : State) (p : Nat) (i : Nat) (u : TUnit) (us : List TUnit), let j := ((i + 1 + (s.cn.tt + p) % 15) % 16); j <
      s.groves ∧ s.groveFailed i = false ∧ s.groveFailed j = false ∧ s.transitOf i = u :: us ∧ ((s.transitOf i).any
      (·.final == j)) = false ∧ ((s.slice i).relay.any (·.dest == j)) = false ∧ 4096 < s.stageOneCells j + u.cellsTaken) :=
  ⟨⟨bound 1, 7, by decide⟩,
   ⟨{ up with cn := { up.cn with planes := [(7, { state := 3 })] } }, 7, by decide⟩,
   ⟨{ up with cn := { up.cn with tt := up.ttNow, done := [4] } }, 3, by decide⟩,
   ⟨bound 1, 7, by decide⟩,
   ⟨{ up with cn := { up.cn with requests := [(0, 1)] } }, 7, 1, 0, by decide⟩,
   ⟨bound 1, 0, 1, by decide⟩,
   ⟨bound 1, 7, 0, 1, [(1, 0)], { dest := 1, final := 1, source := 0, segs := [] }, by decide⟩,
   ⟨{ up with cn := { up.cn with planes := [(7, { state := 2 })] } }, 7, by decide⟩,
   ⟨bound 1, 7, by decide⟩,
   ⟨bound 1, 7, 0, { dest := 1, final := 1, source := 0, segs := [] }, [], by decide⟩,
   ⟨{ up with cn := { up.cn with transit := [(0, [wideUnit])] } },
    0, 0, wideUnit, [], ⟨by decide, by decide, by decide, rfl, by decide, by decide, by rw [wide_cells]; decide⟩⟩⟩

/-- What `Obligations.CanopyRows` supposes can be met, clause by clause. -/
theorem meets_CanopyRows :
    (∃ (s : State), s.running = true) ∧
    (∃ (s : State) (p : Nat), (s.plane p).state ≠ 3 ∧ 3 ≤ (recentPoisons s.now (s.plane p).poisons).length) ∧
    (∃ (s : State) (p : Nat), (s.plane p).state ≠ 3 ∧ (recentPoisons s.now (s.plane p).poisons).length < 3) ∧
    (∃ (s : State) (x : Seg), s.frame x.tag = none) ∧
    (∃ (s : State) (g : Nat) (tag : Nat) (x : SliceTag), s.running = true ∧ SMap.get (s.slice g).tags tag = some x) ∧
    (∃ (s : State) (g : Nat) (tag : Nat), SMap.get (s.slice g).tags tag = none) ∧
    (∃ (s : State), s.running = true) ∧
    (∃ (s : State), s.serving = true) ∧
    (∃ (s : State) (p : Nat), s.running = true ∧ p < 8 ∧ (s.plane p).state = 0) ∧
    (∃ (s : State) (p : Nat), (8 ≤ p ∨ (s.plane p).state ≠ 0)) ∧
    (∃ (s : State) (p : Nat), s.running = true ∧ p < 8) ∧
    (∃ (s : State) (r : Request) (g : Nat), s.asks r 0x0D20 ∧ r.payload.length = 4 ∧ fld r.payload 0 1 = g ∧ zeroAt
      r.payload 1 3 = true ∧ (g < s.groves ∧ g < 16 ∨ g = 0xFF)) ∧
    (∃ (s : State) (r : Request), s.asks r 0x0D21 ∧ r.payload.length = 4 ∧ zeroAt r.payload 1 3 = true) :=
  ⟨⟨{ up with cn := { up.cn with arriving := [(15, [({ dest := 15, final := 15, source := 0, segs := [] })])] } },
    by decide⟩,
   ⟨{ up with cn := { up.cn with planes := [(7, { poisons := [1000000000, 1000000000, 1000000000] })] } }, 7, by decide⟩,
   ⟨{ up with cn := { up.cn with arriving := [(15, [({ dest := 15, final := 15, source := 0, segs := [] })])] } },
    0, by decide⟩,
   ⟨up, ⟨7, 0, 64, 1, 64⟩, by decide⟩,
   ⟨{ up with cn := { up.cn with slices := [(15, { tags := [(0, { firstSeg := 5 })] })] } },
    15, 0, { firstSeg := 5 }, by decide⟩,
   ⟨{ up with cn := { up.cn with arriving := [(15, [({ dest := 15, final := 15, source := 0, segs := [] })])] } },
    15, 0, by decide⟩,
   ⟨{ up with cn := { up.cn with arriving := [(15, [({ dest := 15, final := 15, source := 0, segs := [] })])] } },
    by decide⟩,
   ⟨{ up with cn := { up.cn with arriving := [(15, [({ dest := 15, final := 15, source := 0, segs := [] })])] } },
    by decide⟩,
   ⟨{ up with cn := { up.cn with arriving := [(15, [({ dest := 15, final := 15, source := 0, segs := [] })])] } },
    0, by decide⟩,
   ⟨{ up with cn := { up.cn with planes := [(7, { state := 2 })] } }, 7, by decide⟩,
   ⟨{ up with cn := { up.cn with arriving := [(15, [({ dest := 15, final := 15, source := 0, segs := [] })])] } },
    0, by decide⟩,
   ⟨up.ask (rq 0x0D20 [15, 0, 0, 0]), rq 0x0D20 [15, 0, 0, 0], 15, by decide⟩,
   ⟨up.ask (rq 0x0D21 [0xFF, 0, 0, 0]), rq 0x0D21 [0xFF, 0, 0, 0], by decide⟩⟩

def toPort0 : FrameRec := { frame0 with stage := .decided, dec := some (.act 0 (BitVec.ofNat 512 9)), released := true }
def inSlice (x : Slice) : State := { (up.withEth 0 { state := 3 }) with cn := { up.cn with frames := [(0, toPort0)], slices := [(0, x)] } }
/-- What `Obligations.EgressRows` supposes can be met, clause by clause. -/
theorem meets_EgressRows :
    (∃ (s : State) (g : Nat) (tag : Nat) (f : FrameRec) (x : SliceTag), s.running = true ∧ s.frame tag = some f ∧ SMap.get
      (s.slice g).tags tag = some x) ∧
    (∃ (s : State) (g : Nat) (tag : Nat), (s.frame tag = none ∨ SMap.get (s.slice g).tags tag = none)) ∧
    (∃ (s : State) (n : Nat), s.isUp n = false) ∧
    (∃ (s : State) (g : Nat) (tag : Nat) (n : Nat) (tc : Nat), s.isUp n = true ∧ 2 ^ (s.egressCfg n).alpha * s.sharedFree g
      < 16 * (s.queuedCells g (s.queue n tc) + s.frameCells g tag)) ∧
    (∃ (s : State) (g : Nat) (n : Nat), s.isUp n = true ∧ g = n / 32) ∧
    (∃ (s : State) (n : Nat), s.running = true ∧ s.isPort n = true ∧ s.isUp n = true ∧ SMap.get (s.slice (n / 32)).sending
      n = none) ∧
    (∃ (s : State) (n : Nat), (s.isPort n = false ∨ s.isUp n = false ∨ (SMap.get (s.slice (n / 32)).sending n).isSome =
      true)) ∧
    (∃ (s : State) (n : Nat) (tc : Nat), s.paused n tc = true) ∧
    (∃ (s : State) (n : Nat) (c : Nat) (turn : Nat) (d : SMap Nat), s.chooseClass n = some (c, turn, d) ∧ bit (s.egressCfg
      n).strictMask.toNat c = false ∧ (∃ k, k < 8 ∧ bit (s.egressCfg n).strictMask.toNat k = true)) ∧
    (∃ (s : State) (n : Nat), bit (s.portCfg n).ptp 1 = false) ∧
    (∃ (s : State), s.running = true) ∧
    (∃ (s : State) (g : Nat) (tag : Nat) (f : FrameRec) (l : List Nat), s.sinkQueue g (.service 255) = tag :: l ∧ s.frame
      tag = some f) ∧
    (∃ (s : State) (g : Nat) (k : Sink), k ≠ .exception ∧ (s.sliceCfg g).sinkLimit ≤ s.queuedCells g (s.sinkQueue g k)) ∧
    (∃ (s : State) (g : Nat), 4096 ≤ (s.sinkQueue g .exception).length) :=
  ⟨⟨inSlice { tags := [(0, { st := 1, posted := true, firstSeg := 0 })] },
    0, 0, toPort0, { st := 1, posted := true, firstSeg := 0 }, by decide⟩,
   ⟨up, 0, 0, by decide⟩,
   ⟨up, 504, by decide⟩,
   ⟨{ inSlice { tags := [(0, { st := 1, posted := true, firstSeg := 0, cells := [(0, 0)] })] } with cfg := { up.cfg with slices := [(0, { headroom := 65536 })] } },
    0, 0, 0, 0, by decide⟩,
   ⟨inSlice { tags := [(0, { st := 1, posted := true, firstSeg := 0 })] }, 0, 0, by decide⟩,
   ⟨inSlice { tags := [(0, { st := 1, posted := true, firstSeg := 0 })] }, 0, by decide⟩,
   ⟨up, 504, by decide⟩,
   ⟨{ up.withEth 0 { state := 3, pause := [(7, 2000000000)] } with now := 0 }, 0, 7, by decide⟩,
   ⟨{ inSlice { queues := [(7, [0])] } with cfg := { up.cfg with egress := [(0, { strictMask := 1 })] } },
    0, 7, 15, [(7, 448)], ⟨by decide, by decide, ⟨0, by decide⟩⟩⟩,
   ⟨inSlice { tags := [(0, { st := 1, posted := true, firstSeg := 0 })] }, 0, by decide⟩,
   ⟨{ up with cfg := { up.cfg with slices := [(0, { sinkLimit := 64 })] }, cn := { up.cn with frames := [(0, frame0)], slices := [(0, { sinks := [(.service 3, List.replicate 64 0)] })] } },
    by decide⟩,
   ⟨{ up with cn := { up.cn with frames := [(0, frame0)], slices := [(0, { sinks := [(.service 255, [0])] })] } },
    0, 0, frame0, [], by decide⟩,
   ⟨{ up with cfg := { up.cfg with slices := [(0, { sinkLimit := 0 })] } }, 0, .cipher, by decide⟩,
   ⟨{ up with cn := { up.cn with slices := [(0, { sinks := [(.exception, List.replicate 4096 0)] })] } },
    0, Nat.le_of_eq (List.length_replicate (n := 4096) (a := (0 : Nat))).symm⟩⟩

def auditing (x : Slice) : State := { up with cn := { up.cn with slices := [(15, x)] } }
/-- What `Obligations.AuditAndEgressCommands` supposes can be met, clause by clause. -/
theorem meets_AuditAndEgressCommands :
    (∃ (s : State) (g : Nat), s.running = true ∧ g < s.groves ∧ (s.slice g).audit = none) ∧
    (∃ (s : State) (g : Nat), (s.groves ≤ g ∨ (s.slice g).audit.isSome = true)) ∧
    (∃ (s : State) (g : Nat), s.running = true ∧ (s.slice g).audit.isSome = true) ∧
    (∃ (s : State) (g : Nat), (s.slice g).audit = none) ∧
    (∃ (s : State) (r : Request) (n : Nat) (c : EgressCfg), s.asks r 0x0206 ∧ r.payload.length = 20 ∧ fld r.payload 0 2 = n
      ∧ zeroAt r.payload 18 2 = true ∧ c = ⟨BitVec.ofNat 8 (fld r.payload 2 1), fld r.payload 3 1, (List.range 8).map fun i
      => fld r.payload (4 + i) 1, BitVec.ofNat 8 (fld r.payload 12 1), fld r.payload 13 1, fld r.payload 14 2, fld
      r.payload 16 2⟩ ∧ c.alpha ≤ 7 ∧ (∀ w ∈ c.weight, w ≠ 0) ∧ c.ecnPmax ≠ 0 ∧ c.ecnMin < c.ecnMax ∧ s.ownsPort r.actor n
      ∧ s.groveFailed (n / 32) = false) ∧
    (∃ (s : State) (r : Request) (n : Nat), s.asks r 0x0207 ∧ r.payload.length = 2 ∧ fld r.payload 0 2 = n ∧ s.ownsPort
      r.actor n) ∧
    (∃ (s : State) (r : Request) (c : SliceCfg), s.asks r 0x0208 ∧ (let gs := (maskBits (fld r.payload 0 2) 16);
      r.payload.length = 14 ∧ fld r.payload 0 2 ≠ 0 ∧ zeroAt r.payload 12 2 = true ∧ c = ⟨fld r.payload 2 2, fld r.payload
      4 2, fld r.payload 6 2, fld r.payload 8 2, fld r.payload 10 2⟩ ∧ c.headroom ≤ 16384 ∧ c.mirrorPool ≤ 8192 ∧ 16 ≤
      c.xoffCells ∧ c.xoffCells ≤ 16384 ∧ c.xonCells < c.xoffCells ∧ 64 ≤ c.sinkLimit ∧ c.sinkLimit ≤ 32768 ∧ (∀ g ∈ gs, g
      < s.groves) ∧ (r.actor = operator ∨ ∀ g ∈ gs, s.ownsGrove r.actor g = true) ∧ (∀ g ∈ gs, s.groveFailed g = false))) ∧
    (∃ (s : State) (r : Request), s.asks r 0x0208 ∧ r.payload.length = 14 ∧ fld r.payload 6 2 ≤ fld r.payload 8 2) ∧
    (∃ (s : State) (r : Request) (g : Nat), s.asks r 0x0209 ∧ r.payload.length = 4 ∧ fld r.payload 0 1 = g ∧ zeroAt
      r.payload 1 3 = true ∧ g < 16 ∧ g < s.groves) ∧
    (∃ (s : State) (r : Request) (x : Nat) (m : MirrorCfg), s.asks r 0x020A ∧ r.payload.length = 20 ∧ fld r.payload 0 1 = x
      ∧ x < 16 ∧ m = ⟨BitVec.ofNat 8 (fld r.payload 1 1), fld r.payload 2 2, fld r.payload 4 1, fld r.payload 5 1, fld
      r.payload 6 2, fld r.payload 8 4, fld r.payload 12 4, BitVec.ofNat 32 (fld r.payload 16 4)⟩ ∧ m.flags.toNat < 8 ∧
      m.tc < 8 ∧ (m.truncate = 0 ∨ 64 ≤ m.truncate ∧ m.truncate ≤ 4096) ∧ 1 ≤ m.sampleN ∧ m.sampleN ≤ 16777216 ∧
      (m.destKind = 1 ∧ m.dest < 512 ∧ m.dest < s.lanes ∧ s.isPort m.dest = true ∨ m.destKind = 2 ∧ m.dest < 4096 *
      s.groves ∧ m.dest < 65536 ∨ m.destKind = 3 ∧ m.dest < s.clearings ∧ m.dest < 32) ∧ (m.flags.toNat < 2 ∨ m.sourcePort
      < 512 ∧ m.sourcePort < s.lanes ∧ s.isPort m.sourcePort = true) ∧ r.actor = operator) ∧
    (∃ (s : State) (r : Request) (x : Nat), s.asks r 0x020B ∧ r.payload.length = 4 ∧ fld r.payload 0 1 = x ∧ zeroAt
      r.payload 1 3 = true ∧ x < 16) :=
  ⟨⟨up, 15, by decide⟩,
   ⟨auditing { audit := some 5 }, 15, by decide⟩,
   ⟨auditing { audit := some 5, lost := [7], suspect := [7] }, 15, by decide⟩,
   ⟨up, 15, by decide⟩,
   ⟨up.ask (rq 0x0206 (leBytes 2 504 ++ [0xFF, 7, 1, 1, 1, 1, 1, 1, 1, 255, 0xFF, 255] ++ leBytes 2 65534 ++ leBytes 2 65535 ++ zeros 2)),
    rq 0x0206 (leBytes 2 504 ++ [0xFF, 7, 1, 1, 1, 1, 1, 1, 1, 255, 0xFF, 255] ++ leBytes 2 65534 ++ leBytes 2 65535 ++ zeros 2),
    504, ⟨0xFF, 7, [1, 1, 1, 1, 1, 1, 1, 255], 0xFF, 255, 65534, 65535⟩,
    by decide⟩,
   ⟨up.ask (rq 0x0207 (leBytes 2 504)), rq 0x0207 (leBytes 2 504), 504, by decide⟩,
   ⟨up.ask (rq 0x0208 (leBytes 2 0x8000 ++ leBytes 2 16384 ++ leBytes 2 8192 ++ leBytes 2 16384 ++ leBytes 2 16383 ++ leBytes 2 32768 ++ zeros 2)),
    rq 0x0208 (leBytes 2 0x8000 ++ leBytes 2 16384 ++ leBytes 2 8192 ++ leBytes 2 16384 ++ leBytes 2 16383 ++ leBytes 2 32768 ++ zeros 2),
    ⟨16384, 8192, 16384, 16383, 32768⟩, by decide⟩,
   ⟨up.ask (rq 0x0208 (leBytes 2 0x8000 ++ leBytes 2 16384 ++ leBytes 2 8192 ++ leBytes 2 16 ++ leBytes 2 16 ++ leBytes 2 32768 ++ zeros 2)),
    rq 0x0208 (leBytes 2 0x8000 ++ leBytes 2 16384 ++ leBytes 2 8192 ++ leBytes 2 16 ++ leBytes 2 16 ++ leBytes 2 32768 ++ zeros 2),
    by decide⟩,
   ⟨up.ask (rq 0x0209 [15, 0, 0, 0]), rq 0x0209 [15, 0, 0, 0], 15, by decide⟩,
   ⟨up.ask (rq 0x020A ([15, 7] ++ leBytes 2 504 ++ [3, 7] ++ leBytes 2 4096 ++ leBytes 4 31 ++ leBytes 4 16777216 ++ leBytes 4 5)),
    rq 0x020A ([15, 7] ++ leBytes 2 504 ++ [3, 7] ++ leBytes 2 4096 ++ leBytes 4 31 ++ leBytes 4 16777216 ++ leBytes 4 5),
    15, ⟨7, 504, 3, 7, 4096, 31, 16777216, 5⟩, by decide⟩,
   ⟨up.ask (rq 0x020B [15, 0, 0, 0]), rq 0x020B [15, 0, 0, 0], 15, by decide⟩⟩

/-- What `Obligations.HostLinks` supposes can be met, clause by clause. -/
theorem meets_HostLinks :
    (∃ (l : HostLink), 5 < l.rate) ∧
    (∃ (s : State) (p : Nat), s.serving = true ∧ s.isFenced 0x0A p 0 = false ∧ SMap.getD s.board.standHeld (p / 4) false =
      false) ∧
    (∃ (s : State) (f : Nat), s.liveFn f) ∧
    (∃ (s : State) (f : Nat), (s.fn f).d3hot = true) ∧
    (∃ (s : State), s.serving = true) ∧
    (∃ (s : State), s.serving = true) :=
  ⟨⟨⟨⟨16, true, false⟩, 6⟩, by decide⟩,
   ⟨hostUp, 0, by decide⟩,
   ⟨hostUp, 0, by decide⟩,
   ⟨hostUp.setFn 1 { fnOn with d3hot := true }, 1, by decide⟩,
   ⟨hostUp, by decide⟩,
   ⟨hostUp, by decide⟩⟩

/-- What `Obligations.FunctionRows` supposes can be met, clause by clause. -/
theorem meets_FunctionRows :
    (∃ (s : State) (f : Nat), s.liveFn f) ∧
    (∃ (s : State) (f : Nat), (s.fn f).busMaster = false) ∧
    (∃ (s : State) (f : Nat), (s.fn f).busMaster = true) ∧
    (∃ (s : State) (f : Nat), (s.fn f).flrActive = true) ∧
    (∃ (s : State), s.serving = true) ∧
    (∃ (s : State) (f : Nat), s.liveFn f) ∧
    (∃ (s : State) (f : Nat) (o : Nat × Nat), o ∈ (s.resetFn f).cfg.owners ∧ o.2 = f) ∧
    (∃ (s : State) (f : Nat), s.liveFn f) ∧
    (∃ (s : State) (f : Nat), s.liveFn f) :=
  ⟨⟨hostUp, 2, by decide⟩,
   ⟨hostUp.setFn 2 { fnOn with busMaster := false }, 2, by decide⟩,
   ⟨hostUp, 2, by decide⟩,
   ⟨hostUp.setFn 2 { fnOn with flrActive := true }, 2, by decide⟩,
   ⟨hostUp, by decide⟩,
   ⟨hostUp, 2, by decide⟩,
   ⟨{ hostUp with cfg := { up.cfg with owners := [(5, 1)] } }, 1, (5, 1), by decide⟩,
   ⟨hostUp, 2, by decide⟩,
   ⟨hostUp, 2, by decide⟩⟩

/-- What `Obligations.InterruptAndTranslationRows` supposes can be met, clause by clause. -/
theorem meets_InterruptAndTranslationRows :
    (∃ (s : State) (f : Nat), s.liveFn f) ∧
    (∃ (s : State) (f : Nat) (v : Nat), (s.fn f).msixEnable = true ∧ s.canDma f = true ∧ (s.fn f).pba = [(v, true)] ∧ (s.fn
      f).masked v = false) ∧
    (∃ (s : State) (f : Nat) (v : Nat), (s.fn f).pba = [(v, true)] ∧ (s.fn f).masked v = true) ∧
    (∃ (s : State) (f : Nat), s.serving = true ∧ s.takesRequests f = true ∧ s.boot.phase ≠ .recovery) ∧
    (∃ (s : State) (f : Nat) (v : Nat) (a : BitVec 64) (d : BitVec 32) (m : Bool), SMap.get (s.fn f).msix v = some (a, d,
      m)) ∧
    (∃ (s : State) (f : Nat), s.serving = true ∧ (s.port (fnPort f)).full = true ∧ s.takesRequests f = false) ∧
    (∃ (s : State) (f : Nat), s.liveFn f) ∧
    (∃ (s : State) (f : Nat) (tag : Nat), s.hp.invals = [⟨f, tag, []⟩]) ∧
    (∃ (s : State), (∀ i ∈ s.hp.invals, i.tags ≠ [])) :=
  ⟨⟨hostUp.setFn 2 { fnOn with msixEnable := false }, 2, by decide⟩,
   ⟨hostUp.setFn 2 { fnOn with pba := [(2047, true)], msix := [(2047, (0, 0, false))] }, 2, 2047, by decide⟩,
   ⟨hostUp.setFn 2 { fnOn with pba := [(2047, true)] }, 2, 2047, by decide⟩,
   ⟨hostUp.setFn 2 { fnOn with msixEnable := false }, 2, by decide⟩,
   ⟨hostUp.setFn 2 { fnOn with msix := [(2047, (5, 6, true))] }, 2, 2047, 5, 6, true, by decide⟩,
   ⟨hostUp.setFn 2 { fnOn with memSpace := false }, 2, by decide⟩,
   ⟨hostUp.setFn 2 { fnOn with msixEnable := false }, 2, by decide⟩,
   ⟨{ hostUp with hp := { hostUp.hp with invals := [⟨2, 5, []⟩] } }, 2, 5, by decide⟩,
   ⟨hostUp.setFn 2 { fnOn with msixEnable := false }, by decide⟩⟩

/-- What `Obligations.CompletionRows` supposes can be met, clause by clause. -/
theorem meets_CompletionRows :
    (∃ (s : State) (p : Nat), s.serving = true ∧ p < s.groves ∧ (s.port p).up = true) ∧
    (∃ (s : State) (p : Nat), (s.groves ≤ p ∨ (s.port p).up = false)) ∧
    (∃ (s : State) (x : TagUse), ∃ y, y ∈ (s.endTag x).hp.tags) ∧
    (∃ (s : State) (q : Nat), (s.qpOf q).fetching = true ∧ (s.qpOf q).state = 2) ∧
    (∃ (s : State) (q : Nat) (slot : BitVec 32) (j : Job), (s.qpOf q).job slot = some j ∧ j.st = .running) ∧
    (∃ (s : State), s.serving = true) ∧
    (∃ (s : State) (x : TagUse), x.purpose = .discard ∧ (∃ y, y ∈ (s.timeoutTag x).hp.tags)) ∧
    (∃ (s : State) (p : Nat), ((s.hp.waiting.all fun w => w.port != p) = true ∨ s.freeTag p = none)) :=
  ⟨⟨hostUp, 0, by decide⟩,
   ⟨up, 0, by decide⟩,
   ⟨{ hostUp with hp := { hostUp.hp with tags := [⟨0, 16383, 2, .discard, 0, 5, 0, 1⟩, ⟨0, 1, 2, .discard, 0, 5, 0, 1⟩] } },
    ⟨0, 16383, 2, .discard, 0, 5, 0, 1⟩, ⟨⟨0, 1, 2, .discard, 0, 5, 0, 1⟩, by decide⟩⟩,
   ⟨hostUp.setQp 65535 { state := 2, fetching := true }, 65535, by decide⟩,
   ⟨hostUp.setQp 65535 { jobs := [{ slot := 0xFFFFFFFF, first := 0, descs := [] }] },
    65535, 0xFFFFFFFF, { slot := 0xFFFFFFFF, first := 0, descs := [] },
    by decide⟩,
   ⟨hostUp, by decide⟩,
   ⟨{ hostUp with hp := { hostUp.hp with tags := [⟨0, 16383, 2, .discard, 0, 5, 0, 1⟩, ⟨0, 1, 2, .discard, 0, 5, 0, 1⟩] } },
    ⟨0, 16383, 2, .discard, 0, 5, 0, 1⟩, ⟨by decide, ⟨⟨0, 1, 2, .discard, 0, 5, 0, 1⟩, by decide⟩⟩⟩,
   ⟨hostUp, 0, by decide⟩⟩

/-- What `Obligations.ConfigurationAndBars` supposes can be met, clause by clause. -/
theorem meets_ConfigurationAndBars :
    (∃ (s : State) (f : Nat), (s.port (fnPort f)).up = false) ∧
    (∃ (s : State) (f : Nat), (s.port (fnPort f)).up = true ∧ (s.port (fnPort f)).full = false) ∧
    (∃ (s : State) (f : Nat) (bus : Nat), (s.port (fnPort f)).up = true ∧ (s.port (fnPort f)).full = true ∧ (s.fnPresent f
      = false ∨ (vfOf f).isSome = true ∧ bus ≠ s.routingId f / 256)) ∧
    (∃ (s : State) (f : Nat) (bus : Nat), (s.port (fnPort f)).up = true ∧ (s.port (fnPort f)).full = true ∧ s.fnPresent f =
      true ∧ (vfOf f = none ∨ bus = s.routingId f / 256)) ∧
    (∃ (s : State) (f : Nat) (bus : Nat), (s.port (fnPort f)).up = true ∧ (s.port (fnPort f)).full = true ∧ s.fnPresent f =
      true ∧ (vfOf f = none ∨ bus = s.routingId f / 256)) ∧
    (∃ (v : BitVec 32), v.getLsbD 15 = true) ∧
    (∃ (s : State) (f : Nat), (s.port (fnPort f)).full = false) ∧
    (∃ (s : State) (f : Nat) (bar : Nat) (o : Nat) (q : MemReq), s.serving = true ∧ (s.port (fnPort f)).full = true ∧
      (s.takesRequests f = false ∨ s.barSize f bar ≤ o ∨ ∃ b, q = .atomic b)) ∧
    (∃ (s : State) (f : Nat) (o : Nat) (n : Nat) (k : Nat) (a : Nat), s.serving = true ∧ o < s.barSize f 0 ∧ (s.placeOf f
      o).target f o = some (k, a) ∧ s.reaches f k 1 a n) ∧
    (∃ (s : State) (f : Nat) (o : Nat) (k : Nat) (a : Nat) (b : List Byte), s.serving = true ∧ o < s.barSize f 0 ∧
      (s.placeOf f o).target f o = some (k, a) ∧ s.reaches f k 2 a b.length) ∧
    (∃ (s : State) (f : Nat) (o : Nat) (k : Nat) (a : Nat) (b : List Byte), s.serving = true ∧ s.takesRequests f = true ∧ o
      < s.barSize f 0 ∧ s.boot.phase ≠ .recovery ∧ (s.placeOf f o).target f o = some (k, a) ∧ s.fbAllowed k (s.master f) 2
      a b.length = false) ∧
    (∃ (s : State) (f : Nat) (o : Nat), s.serving = true ∧ (s.port (fnPort f)).full = true ∧ s.takesRequests f = true ∧ o <
      s.barSize f 0 ∧ s.placeOf f o = .unmapped) ∧
    (∃ (s : State) (f : Nat) (o : Nat), s.serving = true ∧ s.takesRequests f = true ∧ s.boot.phase ≠ .recovery ∧ o <
      s.barSize f 2) ∧
    (∃ (s : State) (r : Request) (p : Nat) (m : Nat) (u : Nat), s.asks r 0x0530 ∧ r.payload.length = 8 ∧ fld r.payload 0 1
      = p ∧ p < 16 ∧ fld r.payload 1 1 = m ∧ m ≤ 1 ∧ zeroAt r.payload 2 2 = true ∧ fld r.payload 4 2 = u ∧ 10 ≤ u ∧ u ≤
      10000 ∧ zeroAt r.payload 6 2 = true ∧ p < s.groves) ∧
    (∃ (s : State) (r : Request) (p : Nat), s.asks r 0x0531 ∧ r.payload.length = 4 ∧ fld r.payload 0 1 = p ∧ p < 16 ∧
      zeroAt r.payload 1 3 = true ∧ p < s.groves) ∧
    (∃ (s : State) (r : Request) (p : Nat), s.asks r 0x0532 ∧ r.payload.length = 4 ∧ fld r.payload 0 1 = p ∧ p < 16 ∧
      zeroAt r.payload 1 3 = true ∧ p < s.groves) :=
  ⟨⟨up, 2, by decide⟩,
   ⟨hostUp.setPort 0 { up := true }, 2, by decide⟩,
   ⟨hostUp, 5, 1, by decide⟩,
   ⟨hostUp, 2, 1, by decide⟩,
   ⟨hostUp, 2, 1, by decide⟩,
   ⟨0x8000, by decide⟩,
   ⟨up.ask (rq 0x0530 ([15, 1, 0, 0] ++ leBytes 2 10000 ++ [0, 0])), 2, by decide⟩,
   ⟨hostUp, 2, 0, 2 ^ 26, .read 4, ⟨by decide, by decide, Or.inr (Or.inl (by decide))⟩⟩,
   ⟨hostUp, 2, 0x2000, 4, 0x0100, 0x2000, by decide⟩,
   ⟨hostUp, 2, 0x2000, 0x0100, 0x2000, [7], by decide⟩,
   ⟨{ hostUp with cfg := { up.cfg with firebreaks := [(64 * 0x0400, {})] } },
    2, 0x800000, 0x0400, 0x800000, [1, 0, 0, 0], by decide⟩,
   ⟨hostUp, 2, 0x3FFC, by decide⟩,
   ⟨hostUp, 2, 0, by decide⟩,
   ⟨up.ask (rq 0x0530 ([15, 1, 0, 0] ++ leBytes 2 10000 ++ [0, 0])),
    rq 0x0530 ([15, 1, 0, 0] ++ leBytes 2 10000 ++ [0, 0]), 15, 1,
    10000, by decide⟩,
   ⟨up.ask (rq 0x0531 [15, 0, 0, 0]), rq 0x0531 [15, 0, 0, 0], 15, by decide⟩,
   ⟨up.ask (rq 0x0532 [15, 0, 0, 0]), rq 0x0532 [15, 0, 0, 0], 15, by decide⟩⟩

/-- What `Obligations.DoorbellsAndQueueCommands` supposes can be met, clause by clause. -/
theorem meets_DoorbellsAndQueueCommands :
    (∃ (s : State) (f : Nat) (slot : Nat), s.serving = true ∧ s.reaches f (0x400 + fnPort f) 2 (0x1000 * slot) 8) ∧
    (∃ (s : State) (f : Nat) (slot : Nat), s.serving = true ∧ s.reaches f (0x400 + fnPort f) 2 (0x1000 * slot + 8) 8) ∧
    (∃ (s : State) (f : Nat) (slot : Nat), s.serving = true ∧ s.reaches f (0x400 + fnPort f) 2 (0x1000 * slot + 0x10) 8) ∧
    (∃ (s : State) (q : Nat) (v : BitVec 32), 2 ^ (s.qpOf q).set.workLog2 < (v - (s.qpOf q).workCi).toNat) ∧
    (∃ (s : State) (q : Nat) (v : BitVec 32), (v - (s.qpOf q).workCi).toNat ≤ 2 ^ (s.qpOf q).set.workLog2 ∧ ((s.qpOf
      q).fetched - (s.qpOf q).workCi).toNat < (v - (s.qpOf q).workCi).toNat) ∧
    (∃ (s : State) (q : Nat), (s.qpOf q).state ≠ 2) ∧
    (∃ (s : State), s.running = true) ∧
    (∃ (s : State) (q : Nat), (s.qpOf q).resetting = true) ∧
    (∃ (s : State) (q : Nat), (s.qpOf q).resetting = false) ∧
    (∃ (s : State) (q : Nat), (s.qpOf q).stall = none ∧ (s.qpOf q).waiter = none ∧ (∀ x ∈ s.qp.qps, x.2.waiter = none)) ∧
    (∃ (s : State) (r : Request) (q : Nat) (x : QpSet), s.asks r 0x0501 ∧ fld r.payload 0 2 = q ∧ x = ⟨fld r.payload 2 1,
      fld r.payload 3 1, fld r.payload 4 1, BitVec.ofNat 8 (fld r.payload 5 1), fld r.payload 6 2, fld r.payload 8 8, fld
      r.payload 16 8, fld r.payload 24 4, fld r.payload 28 2, fld r.payload 32 4⟩) ∧
    (∃ (s : State) (r : Request), r.payload.length = 4 ∧ fld r.payload 2 2 = 0 ∧ s.asks r 0x0502) ∧
    (∃ (s : State) (r : Request), r.payload.length = 4 ∧ fld r.payload 2 2 = 0 ∧ s.asks r 0x0504) ∧
    (∃ (s : State) (r : Request) (q : Nat), s.asks r 0x0503 ∧ r.payload.length = 4 ∧ fld r.payload 0 2 = q ∧ fld r.payload
      3 1 = 0 ∧ s.qpPresent q = true ∧ s.owns r.actor 2 q = true ∧ fld r.payload 2 1 = 1) ∧
    (∃ (s : State) (r : Request) (q : Nat), s.asks r 0x0503 ∧ r.payload.length = 4 ∧ fld r.payload 0 2 = q ∧ fld r.payload
      3 1 = 0 ∧ s.qpPresent q = true ∧ s.owns r.actor 2 q = true ∧ fld r.payload 2 1 = 0) ∧
    (∃ (s : State) (r : Request) (q : Nat), s.asks r 0x0503 ∧ r.payload.length = 4 ∧ fld r.payload 0 2 = q ∧ fld r.payload
      3 1 = 0 ∧ s.qpPresent q = true ∧ s.owns r.actor 2 q = true ∧ 3 < fld r.payload 2 1) ∧
    (∃ (s : State) (r : Request) (q : Nat), s.asks r 0x0503 ∧ r.payload.length = 4 ∧ fld r.payload 0 2 = q ∧ fld r.payload
      3 1 = 0 ∧ s.qpPresent q = true ∧ s.owns r.actor 2 q = true ∧ fld r.payload 2 1 = 2) ∧
    (∃ (s : State) (r : Request) (q : Nat), s.asks r 0x0503 ∧ r.payload.length = 4 ∧ fld r.payload 0 2 = q ∧ fld r.payload
      3 1 = 0 ∧ s.qpPresent q = true ∧ s.owns r.actor 2 q = true ∧ fld r.payload 2 1 = 3) :=
  ⟨⟨(hostUp.withQp 4095 qp0).opened, 0, 5, by decide⟩,
   ⟨(hostUp.withQp 4095 qp0).opened, 0, 5, by decide⟩,
   ⟨(hostUp.withQp 4095 qp0).opened, 0, 5, by decide⟩,
   ⟨hostUp.withQp 4095 qp0, 4095, 65, by decide⟩,
   ⟨(hostUp.withQp 4095 qp0).opened, 4095, 1, by decide⟩,
   ⟨(hostUp.withQp 4095 { qp0 with state := 4 }).opened, 4095, by decide⟩,
   ⟨(hostUp.withQp 4095 qp0).opened, by decide⟩,
   ⟨hostUp.withQp 4095 { qp0 with state := 3, resetting := true }, 4095, by decide⟩,
   ⟨(hostUp.withQp 4095 qp0).opened, 4095, by decide⟩,
   ⟨(hostUp.withQp 4095 qp0).opened, 4095, by decide⟩,
   ⟨(hostUp.withQp 4095 {}).ask (rq 0x0501 (leBytes 2 4095 ++ [2, 16, 16, 1] ++ leBytes 2 511 ++ leBytes 8 4096 ++ leBytes 8 8192 ++ zeros 4 ++ leBytes 2 9 ++ zeros 2 ++ leBytes 4 1000000 ++ zeros 4)),
    rq 0x0501 (leBytes 2 4095 ++ [2, 16, 16, 1] ++ leBytes 2 511 ++ leBytes 8 4096 ++ leBytes 8 8192 ++ zeros 4 ++ leBytes 2 9 ++ zeros 2 ++ leBytes 4 1000000 ++ zeros 4),
    4095, ⟨2, 16, 16, 1, 511, 4096, 8192, 0, 9, 1000000⟩, by decide⟩,
   ⟨(hostUp.withQp 4095 qp0).ask (rq 0x0502 (leBytes 2 4095 ++ [0, 0])), rq 0x0502 (leBytes 2 4095 ++ [0, 0]), by decide⟩,
   ⟨(hostUp.withQp 4095 qp0).ask (rq 0x0504 (leBytes 2 4095 ++ [0, 0])), rq 0x0504 (leBytes 2 4095 ++ [0, 0]), by decide⟩,
   ⟨(hostUp.withQp 4095 { qp0 with state := 4 }).ask (rq 0x0503 (leBytes 2 4095 ++ [1, 0])),
    rq 0x0503 (leBytes 2 4095 ++ [1, 0]), 4095, by decide⟩,
   ⟨(hostUp.withQp 4095 qp0).ask (rq 0x0503 (leBytes 2 4095 ++ [0, 0])),
    rq 0x0503 (leBytes 2 4095 ++ [0, 0]), 4095, by decide⟩,
   ⟨(hostUp.withQp 4095 qp0).ask (rq 0x0503 (leBytes 2 4095 ++ [4, 0])),
    rq 0x0503 (leBytes 2 4095 ++ [4, 0]), 4095, by decide⟩,
   ⟨(hostUp.withQp 4095 qp0).ask (rq 0x0503 (leBytes 2 4095 ++ [2, 0])),
    rq 0x0503 (leBytes 2 4095 ++ [2, 0]), 4095, by decide⟩,
   ⟨(hostUp.withQp 4095 qp0).ask (rq 0x0503 (leBytes 2 4095 ++ [3, 0])),
    rq 0x0503 (leBytes 2 4095 ++ [3, 0]), 4095, by decide⟩⟩

def doneRec : CplRec := ⟨9, 7, 0, 1, 0⟩
def doneQp : State := hostUp.withQp 0 { qp0 with jobs := [{ job1 (desc 1) with st := .done doneRec }] }
def recordWrite : State × Dma := doneQp.dmaWrite (doneQp.qpOwner 0) ((doneQp.qpOf 0).set.cplBase + 16 * ((7 : BitVec 32).toNat % 2 ^ (doneQp.qpOf 0).set.cplLog2)) (doneQp.qpOf 0).pasidOpt false (cplBytes doneRec 7 (doneQp.qpOf 0).set.cplLog2)
/-- What `Obligations.JobRows` supposes can be met, clause by clause. -/
theorem meets_JobRows :
    (∃ (s : State), s.running = true) ∧
    (∃ (s : State), (∀ x ∈ s.qp.qps, x.2.waiter = none)) ∧
    (∃ (s : State) (q : Nat), (s.qpOf q).cplDone ≠ (s.qpOf q).cplReserved) ∧
    (∃ (s : State) (q : Nat), 64 ≤ (s.qpOf q).inProgress) ∧
    (∃ (s : State) (q : Nat) (c : List Desc), (s.qpOf q).set.kind ≠ 3 ∧ readSegs c = [] ∧ (s.qpOf q).stall = none) ∧
    (∃ (s : State), s.running = true) ∧
    (∃ (s : State) (q : Nat) (slot : BitVec 32), (s.qpOf q).job slot = none) ∧
    (∃ (s : State) (q : Nat) (slot : BitVec 32), ∃ j, (s.qpOf q).job slot = some j ∧ (j.st = .running ∨ j.st = .written)) ∧
    (∃ (s : State) (u : State) (q : Nat) (slot : BitVec 32) (j : Job) (r : CplRec) (a : Dma), (s.qpOf q).job slot = some j
      ∧ (j.st = .done r ∨ j.st = .held r) ∧ s.dmaWrite (s.qpOwner q) ((s.qpOf q).set.cplBase + 16 * (slot.toNat % 2 ^
      (s.qpOf q).set.cplLog2)) (s.qpOf q).pasidOpt false (cplBytes r slot (s.qpOf q).set.cplLog2) = (u, a)) ∧
    (∃ (s : State) (q : Nat) (slot : BitVec 32) (j : Job), (s.qpOf q).job slot = some j ∧ j.st = .running) ∧
    (∃ (s : State) (q : Nat) (slot : BitVec 32) (j : Job), (s.qpOf q).job slot = some j ∧ j.st ≠ .running) :=
  ⟨⟨hostUp.withQp 0 { qp0 with arrived := [desc 1] }, by decide⟩,
   ⟨hostUp.withQp 0 { qp0 with arrived := [desc 1] }, by decide⟩,
   ⟨hostUp.withQp 0 { qp0 with descs := [desc 1], cplReserved := 64 }, 0, by decide⟩,
   ⟨hostUp.withQp 0 { qp0 with jobs := List.replicate 64 (job1 (desc 1)) }, 0, by decide⟩,
   ⟨hostUp.withQp 0 { qp0 with arrived := [desc 1] }, 0, [], by decide⟩,
   ⟨hostUp.withQp 0 { qp0 with arrived := [desc 1] }, by decide⟩,
   ⟨hostUp.withQp 0 { qp0 with arrived := [desc 1] }, 0, 0, by decide⟩,
   ⟨hostUp.withQp 0 { qp0 with jobs := [(job1 (desc 1))] }, 0, (7 : BitVec 32), ⟨job1 (desc 1), by decide⟩⟩,
   ⟨doneQp, recordWrite.1, 0, 7, { job1 (desc 1) with st := .done doneRec },
    doneRec, recordWrite.2, ⟨by decide, Or.inl rfl, rfl⟩⟩,
   ⟨hostUp.withQp 0 { qp0 with jobs := [(job1 (desc 1))] }, 0, (7 : BitVec 32), job1 (desc 1), by decide⟩,
   ⟨hostUp.withQp 0 { qp0 with jobs := [({ job1 (desc 1) with st := .written })] },
    0, (7 : BitVec 32), { job1 (desc 1) with st := .written }, by decide⟩⟩

def waitDesc (t v : Nat) : BitVec 256 := BitVec.ofNat 256 (0x302 + t * 2 ^ 240 + v * 2 ^ 192)
def rxDesc : BitVec 256 := BitVec.ofNat 256 (0x311 + 64 * 2 ^ 16)
def twoQps (x y : Qp) : State := { hostUp with cfg := { up.cfg with owners := [(0x2000000, 0), (0x2000001, 0)] }, qp := { qps := [(0, x), (1, y)] } }
def arrived (x : Qp) : State := { hostUp.withQp 0 x with cn := { up.cn with frames := [(0, frame0)], slices := [(0, { sinks := [(.hostQueue 0, [0])] })] } }
def filling : State := arrived { qp0 with arrived := [rxDesc] }
def fillWrite : State × Dma := filling.dmaWrites (filling.qpOwner 0) (filling.qpOf 0).pasidOpt ((filling.qpOf 0).relaxed rxDesc) (fillBuffers [rxDesc] frame0.bytes)
/-- What `Obligations.WaitAndFrameJobs` supposes can be met, clause by clause. -/
theorem meets_WaitAndFrameJobs :
    (∃ (s : State), s.running = true) ∧
    (∃ (s : State), s.running = true) ∧
    (∃ (k : Nat) (n : Nat) (l : List Desc) (d : List Desc), takeBuffers k n l = some d) ∧
    (∃ (s : State) (u : State) (q : Nat) (d : List Desc) (p : List Byte) (a : Dma), s.dmaWrites (s.qpOwner q) (s.qpOf
      q).pasidOpt ((s.qpOf q).relaxed (d.headD 0)) (fillBuffers d p) = (u, a)) :=
  ⟨⟨twoQps { qp0 with jobs := [(job1 (waitDesc 1 1))] } { qp0 with cplDone := 1 }, by decide⟩,
   ⟨twoQps { qp0 with jobs := [(job1 (waitDesc 1 1))] } { qp0 with cplDone := 1 }, by decide⟩,
   ⟨0, 0, [], [], by decide⟩,
   ⟨filling, fillWrite.1, 0, [rxDesc], frame0.bytes, fillWrite.2, rfl⟩⟩

def delivering (src : EvSrc) (x : Eq) : State := { hostUp with ev := { hostUp.ev with srcs := [(65536, src)], eqs := [(0, x)] } }
def eqReady : Eq := { state := 2, sizeLog2 := 6 }
def oneHeld : State := delivering { held := [(⟨0x0C01, 5, 9, 1⟩)] } eqReady
def heldWrite : State × Dma := oneHeld.dmaWrite (oneHeld.owner 3 0) ((oneHeld.eq 0).base + 16 * ((oneHeld.eq 0).pi.toNat % 2 ^ (oneHeld.eq 0).sizeLog2)) (if (oneHeld.eq 0).pasidEn then some (oneHeld.eq 0).pasid else none) false (eventRecord 65536 ⟨0x0C01, 5, 9, 1⟩ (oneHeld.eq 0).pi (oneHeld.eq 0).sizeLog2)
/-- What `Obligations.EventDeliveryAndCommands` supposes can be met, clause by clause. -/
theorem meets_EventDeliveryAndCommands :
    (∃ (s : State), s.serving = true) ∧
    (∃ (s : State) (src : Nat), ((s.src src).held = [] ∨ (s.src src).active.isSome = true)) ∧
    (∃ (s : State) (src : Nat) (h : HeldEv) (l : List HeldEv), (s.src src).held = h :: l ∧ (s.src src).active = none ∧
      s.resolve src = none) ∧
    (∃ (s : State) (u : State) (src : Nat) (e : Nat) (h : HeldEv) (l : List HeldEv) (a : Dma), (s.src src).held = h :: l ∧
      (s.src src).active = none ∧ s.resolve src = some e ∧ s.dmaWrite (s.owner 3 e) ((s.eq e).base + 16 * ((s.eq
      e).pi.toNat % 2 ^ (s.eq e).sizeLog2)) (if (s.eq e).pasidEn then some (s.eq e).pasid else none) false (eventRecord src
      h (s.eq e).pi (s.eq e).sizeLog2) = (u, a)) ∧
    (∃ (s : State) (e : Nat), ((s.eq e).fault = true ∨ (s.eq e).full = true ∨ (s.eq e).state ≠ 2)) ∧
    (∃ (s : State) (src : Nat) (e : Nat), s.resolve src = some e) ∧
    (∃ (s : State) (src : Nat), (s.route src).spread = true) ∧
    (∃ (src : Nat) (h : HeldEv), src < 2 ^ 31 ∧ h.type < 65536) ∧
    (∃ (s : State) (r : Request) (e : Nat), s.asks r 0x0601 ∧ fld r.payload 0 2 = e) ∧
    (∃ (s : State) (r : Request) (e : Nat), fld r.payload 0 2 = e ∧ e < 4096 ∧ s.eqPresent e = true ∧ s.owns r.actor 3 e =
      true ∧ s.asks r 0x0602 ∧ r.payload.length = 4 ∧ fld r.payload 2 2 = 0) ∧
    (∃ (s : State) (r : Request) (e : Nat), fld r.payload 0 2 = e ∧ e < 4096 ∧ s.eqPresent e = true ∧ s.owns r.actor 3 e =
      true ∧ s.asks r 0x0603 ∧ r.payload.length = 4 ∧ fld r.payload 3 1 = 0 ∧ fld r.payload 2 1 = 1) ∧
    (∃ (s : State) (r : Request) (e : Nat), fld r.payload 0 2 = e ∧ e < 4096 ∧ s.eqPresent e = true ∧ s.owns r.actor 3 e =
      true ∧ s.asks r 0x0603 ∧ r.payload.length = 4 ∧ fld r.payload 3 1 = 0 ∧ fld r.payload 2 1 = 2) ∧
    (∃ (s : State) (r : Request) (e : Nat), fld r.payload 0 2 = e ∧ e < 4096 ∧ s.eqPresent e = true ∧ s.owns r.actor 3 e =
      true ∧ s.asks r 0x0603 ∧ r.payload.length = 4 ∧ fld r.payload 3 1 = 0 ∧ fld r.payload 2 1 = 3) ∧
    (∃ (s : State) (r : Request) (e : Nat), fld r.payload 0 2 = e ∧ e < 4096 ∧ s.eqPresent e = true ∧ s.owns r.actor 3 e =
      true ∧ s.asks r 0x0603 ∧ r.payload.length = 4 ∧ fld r.payload 3 1 = 0 ∧ (fld r.payload 2 1 = 0 ∨ 3 < fld r.payload 2
      1)) ∧
    (∃ (s : State) (r : Request) (e : Nat), fld r.payload 0 2 = e ∧ e < 4096 ∧ s.eqPresent e = true ∧ s.owns r.actor 3 e =
      true ∧ s.asks r 0x0604 ∧ r.payload.length = 8 ∧ 1 ≤ fld r.payload 2 1 ∧ fld r.payload 3 1 = 0 ∧ fld r.payload 4 2 ≤
      10000 ∧ fld r.payload 6 2 = 0) ∧
    (∃ (s : State) (r : Request) (e : Nat), fld r.payload 0 2 = e ∧ e < 4096 ∧ s.eqPresent e = true ∧ s.owns r.actor 3 e =
      true ∧ s.asks r 0x0608 ∧ r.payload.length = 4 ∧ fld r.payload 2 2 = 0) ∧
    (∃ (s : State) (r : Request) (i : Nat) (n : Nat) (e : Nat) (spread : Bool), s.asks r 0x0605 ∧ r.payload.length = 12 ∧
      fld r.payload 0 4 = i ∧ fld r.payload 4 4 = n ∧ fld r.payload 8 1 = b2n spread ∧ fld r.payload 9 1 = 0 ∧ fld
      r.payload 10 2 = e ∧ 1 ≤ n ∧ n ≤ 4096 ∧ (i + n ≤ 65536 ∧ (i + n - 1) / 4096 = i / 4096 ∨ 65536 ≤ i ∧ i + n ≤ 69632 ∧
      (i + n - 1 - 65536) / 256 = (i - 65536) / 256) ∧ (spread = true → e < 256) ∧ (spread = false → e < 4096)) ∧
    (∃ (s : State) (r : Request) (i : Nat), s.asks r 0x0606 ∧ r.payload.length = 4 ∧ fld r.payload 0 4 = i ∧ i < 69632) ∧
    (∃ (s : State) (r : Request) (g : Nat) (m : List Nat), s.asks r 0x0607 ∧ r.payload.length = 36 ∧ fld r.payload 0 2 = g
      ∧ fld r.payload 2 2 = 0 ∧ g < 256 ∧ m = (maskBits (fld r.payload 4 32) 256).map (256 * (g / 16) + ·)) :=
  ⟨⟨delivering { held := [(⟨0x0C01, 5, 9, 1⟩)] } eqReady, by decide⟩,
   ⟨delivering {} { eqReady with fault := true }, 65536, by decide⟩,
   ⟨delivering { held := [(⟨0x0C01, 5, 9, 1⟩)] } { eqReady with state := 0 }, 65536, ⟨0x0C01, 5, 9, 1⟩, [], by decide⟩,
   ⟨oneHeld, heldWrite.1, 65536, 0, ⟨0x0C01, 5, 9, 1⟩, [], heldWrite.2, ⟨by decide, by decide, by decide, rfl⟩⟩,
   ⟨delivering {} { eqReady with fault := true }, 0, by decide⟩,
   ⟨delivering { held := [(⟨0x0C01, 5, 9, 1⟩)] } eqReady, 65536, 0, by decide⟩,
   ⟨{ up with cfg := { up.cfg with routes := [(65536, ⟨true, 7⟩)] } }, 65536, by decide⟩,
   ⟨65536, ⟨0x0C01, 5, 9, 1⟩, by decide⟩,
   ⟨{ up.ask (rq 0x0601 (leBytes 2 4095 ++ [16, 1] ++ leBytes 2 0 ++ leBytes 2 2047 ++ zeros 8 ++ leBytes 4 0xFFFFF)) with cfg := { up.cfg with owners := [(0x3000000 + 4095, 0xF001)] } },
    rq 0x0601 (leBytes 2 4095 ++ [16, 1] ++ leBytes 2 0 ++ leBytes 2 2047 ++ zeros 8 ++ leBytes 4 0xFFFFF),
    4095, by decide⟩,
   ⟨up.ask (rq 0x0602 (leBytes 2 4095 ++ [0, 0])), rq 0x0602 (leBytes 2 4095 ++ [0, 0]), 4095, by decide⟩,
   ⟨(up.withEq 4095 { state := 1 }).ask (rq 0x0603 (leBytes 2 4095 ++ [1, 0])),
    rq 0x0603 (leBytes 2 4095 ++ [1, 0]), 4095, by decide⟩,
   ⟨(up.withEq 4095 { state := 2 }).ask (rq 0x0603 (leBytes 2 4095 ++ [2, 0])),
    rq 0x0603 (leBytes 2 4095 ++ [2, 0]), 4095, by decide⟩,
   ⟨(up.withEq 4095 { state := 2 }).ask (rq 0x0603 (leBytes 2 4095 ++ [3, 0])),
    rq 0x0603 (leBytes 2 4095 ++ [3, 0]), 4095, by decide⟩,
   ⟨up.ask (rq 0x0603 (leBytes 2 4095 ++ [4, 0])), rq 0x0603 (leBytes 2 4095 ++ [4, 0]), 4095, by decide⟩,
   ⟨up.ask (rq 0x0604 (leBytes 2 4095 ++ [1, 0] ++ leBytes 2 10000 ++ [0, 0])),
    rq 0x0604 (leBytes 2 4095 ++ [1, 0] ++ leBytes 2 10000 ++ [0, 0]),
    4095, by decide⟩,
   ⟨up.ask (rq 0x0608 (leBytes 2 4095 ++ [0, 0])), rq 0x0608 (leBytes 2 4095 ++ [0, 0]), 4095, by decide⟩,
   ⟨up.ask (rq 0x0605 (leBytes 4 65536 ++ leBytes 4 256 ++ [1, 0] ++ leBytes 2 255)),
    rq 0x0605 (leBytes 4 65536 ++ leBytes 4 256 ++ [1, 0] ++ leBytes 2 255),
    65536, 256, 255, true, by decide⟩,
   ⟨up.ask (rq 0x0606 (leBytes 4 69631)), rq 0x0606 (leBytes 4 69631), 69631, by decide⟩,
   ⟨up.ask (rq 0x0607 (leBytes 2 255 ++ [0, 0] ++ [0xFF, 0xFF] ++ zeros 30)),
    rq 0x0607 (leBytes 2 255 ++ [0, 0] ++ [0xFF, 0xFF] ++ zeros 30),
    255, (List.range 16).map (3840 + ·), by decide⟩⟩

def eqUp (st : Nat) : State := hostUp.withEq 255 { state := st, sizeLog2 := 6 }
/-- What `Obligations.EventQueueRows` supposes can be met, clause by clause. -/
theorem meets_EventQueueRows :
    (∃ (s : State) (f : Nat) (e : Nat), s.serving = true ∧ (s.reaches f (0x300 + fnPort f) 2 (eqOffset f e (s.eq e).slot)
      8)) ∧
    (∃ (s : State) (f : Nat) (e : Nat), s.serving = true ∧ s.reaches f (0x300 + fnPort f) 2 (eqOffset f e (s.eq e).slot +
      8) 8) ∧
    (∃ (s : State) (e : Nat), s.sendOverdue e = s) ∧
    (∃ (s : State) (e : Nat), (s.eq e).pi = (s.eq e).ci ∧ (s.eq e).records = [] ∧ (s.eq e).due = none ∧ s.ev.srcs = []) ∧
    (∃ (s : State) (e : Nat), s.sendOverdue e = s) ∧
    (∃ (l : List Nat) (i : Nat), i ∈ l) ∧
    (∃ (s : State), s.serving = true) ∧
    (∃ (s : State) (f : Nat) (v : Nat), (s.fn f).msixEnable = true ∧ (s.fn f).masked v = false ∧ s.canDma f = true) ∧
    (∃ (s : State) (f : Nat) (v : Nat), ((s.fn f).msixEnable = false ∨ (s.fn f).masked v = true ∨ s.canDma f = false)) :=
  ⟨⟨eqUp 2, 2, 255, ⟨by decide, by decide⟩⟩,
   ⟨eqUp 2, 2, 255, by decide⟩,
   ⟨eqUp 2, 255, rfl⟩,
   ⟨eqUp 2, 255, by decide⟩,
   ⟨eqUp 2, 255, rfl⟩,
   ⟨[3], 3, by decide⟩,
   ⟨eqUp 2, by decide⟩,
   ⟨hostUp.setFn 2 { fnOn with msix := [(2047, (0, 0, false))] }, 2, 2047, by decide⟩,
   ⟨eqUp 2, 2, 0, by decide⟩⟩

def custom (th : SvcThread) : State := { up with sv := { groves := [(0, { image := some [], threads := [(1, th)] })] } }
def svcOf (g : SvcGrove) : State := { up with sv := { groves := [(0, g)] } }
def sliced (w : Nat) : SvcThread := { slice := putBytes [] 0 (leBytes 4 w) }
def thr1 : Thr := ⟨0, 0, 1⟩
def fetched1 : State × Fetched := (custom (sliced 0x13)).fetch thr1 []
/-- What `Obligations.ServiceThreads` supposes can be met, clause by clause. -/
theorem meets_ServiceThreads :
    (∃ (s : State), s.running = true) ∧
    (∃ (s : State) (t : Thr), (s.issues t = false ∨ (s.svc t.grove).image = none)) ∧
    (∃ (s : State) (u : State) (t : Thr) (h : List HostCpl) (a : Fetched), s.issues t = true ∧ (s.svc t.grove).image.isSome
      = true ∧ s.fetch t h = (u, a)) ∧
    (∃ (i : Nat), rvOp i = 0x37) ∧
    (∃ (i : Nat), rvOp i = 0x17) ∧
    (∃ (i : Nat), rvOp i = 0x13) ∧
    (∃ (i : Nat), rvOp i = 0x1B) ∧
    (∃ (i : Nat), rvOp i = 0x33) ∧
    (∃ (i : Nat), rvOp i = 0x3B) ∧
    (∃ (i : Nat), rvOp i = 0x63) ∧
    (∃ (i : Nat), rvOp i = 0x33 ∧ rvF3 i = 0 ∧ rvF7 i = 0) ∧
    (∃ (i : Nat), rvOp i = 0x33 ∧ rvF3 i = 0 ∧ rvF7 i = 0x20) ∧
    (∃ (s : State) (t : Thr) (i : Nat), rvOp i = 0x03 ∧ rvF3 i = 3 ∧ ((s.thread t).xr (rvRs1 i) + immI i).toNat % 8 ≠ 0) ∧
    (∃ (s : State), s.running = true) ∧
    (∃ (s : State), s.running = true) ∧
    (∃ (s : State), s.running = true) ∧
    (∃ (s : State) (t : Thr), s.threadThere t = true ∧ (s.thread t).parked = true) ∧
    (∃ (s : State) (t : Thr), (s.thread t).parked = false) ∧
    (∃ (s : State), s.running = true) ∧
    (∃ (s : State), s.running = true) :=
  ⟨⟨custom (sliced 0x13), by decide⟩,
   ⟨up, thr1, by decide⟩,
   ⟨custom (sliced 0x13), fetched1.1, thr1, [], fetched1.2, ⟨by decide, by decide, rfl⟩⟩,
   ⟨0x37, by decide⟩,
   ⟨0x17, by decide⟩,
   ⟨0x13, by decide⟩,
   ⟨0x1B, by decide⟩,
   ⟨0x33, by decide⟩,
   ⟨0x3B, by decide⟩,
   ⟨0x63, by decide⟩,
   ⟨0x33, by decide⟩,
   ⟨0x40000033, by decide⟩,
   ⟨custom (sliced 0x3003), thr1, 0x103003, by decide⟩,
   ⟨custom (sliced 0x13), by decide⟩,
   ⟨custom (sliced 0x13), by decide⟩,
   ⟨custom (sliced 0x13), by decide⟩,
   ⟨custom { parked := true }, thr1, by decide⟩,
   ⟨custom {}, thr1, by decide⟩,
   ⟨custom {}, by decide⟩,
   ⟨custom {}, by decide⟩⟩

def chans (w : Nat) (ch : Chan) : State := { up with sv := { groves := [(0, { image := some [], threads := [(1, { slice := putBytes [] 0 (leBytes 4 w) })], chans := [(2, ch)] })] } }
def resOf (n : Nat) : ChRes := { thread := n, start := 7 }
def fetchedCh : State × Fetched := (chans 0x0B {}).fetch ⟨0, 0, 1⟩ []
def onCh40 : State := { up with sv := { groves := [(0, { image := some [], threads := [(1, { x := [(1, 40)] })], chans := [(40, {})] })] } }
def onCh4 : State := { up with sv := { groves := [(0, { image := some [], threads := [(1, { x := [(1, 4)] })], chans := [(4, { msgs := [[9]] })] })] } }
def onCh2 : State := { up with sv := { groves := [(0, { image := some [], threads := [(4, { x := [(1, 2)] })], chans := [(2, { msgs := [[9]] })] })] } }
/-- What `Obligations.ServiceChannels` supposes can be met, clause by clause. -/
theorem meets_ServiceChannels :
    (∃ (s : State), s.running = true) ∧
    (∃ (s : State) (u : State) (t : Thr) (a : Fetched), s.fetch t [] = (u, a)) ∧
    (∃ (s : State) (t : Thr) (k : Nat) (i : Nat), let ch := (((s.thread t).xr (rvRs1 i)).toNat); s.chanFaults t k ch =
      true) ∧
    (∃ (s : State) (t : Thr) (k : Nat) (i : Nat), let ch := (((s.thread t).xr (rvRs1 i)).toNat); s.chanFaults t k ch =
      false ∧ k = 0) ∧
    (∃ (s : State) (t : Thr) (k : Nat) (i : Nat), let ch := (((s.thread t).xr (rvRs1 i)).toNat); s.chanFaults t k ch =
      false ∧ k = 1) ∧
    (∃ (s : State) (t : Thr) (k : Nat) (i : Nat), let ch := (((s.thread t).xr (rvRs1 i)).toNat); s.chanFaults t k ch =
      false ∧ k = 2) ∧
    (∃ (s : State) (t : Thr) (k : Nat) (i : Nat), let ch := (((s.thread t).xr (rvRs1 i)).toNat); s.chanFaults t k ch =
      false ∧ k = 3) ∧
    (∃ (s : State) (t : Thr) (k : Nat) (i : Nat), let ch := (((s.thread t).xr (rvRs1 i)).toNat); s.chanFaults t k ch =
      false ∧ k = 4 ∧ (s.thread t).spinning = false) ∧
    (∃ (s : State) (t : Thr) (ch : Nat), (s.thread t).aborts.contains ch = false ∧ ((s.svc t.grove).chan ch).res = none ∧
      ((s.svc t.grove).chan ch).msgs.length < 4) ∧
    (∃ (s : State) (t : Thr) (ch : Nat) (r : ChRes), (s.thread t).aborts.contains ch = false ∧ ((s.svc t.grove).chan
      ch).res = some r ∧ r.thread = tnum t) ∧
    (∃ (s : State) (t : Thr) (ch : Nat), (s.thread t).aborts.contains ch = false ∧ ((s.svc t.grove).chan ch).res = none ∧ 4
      ≤ ((s.svc t.grove).chan ch).msgs.length) ∧
    (∃ (s : State) (t : Thr) (ch : Nat) (r : ChRes), (s.thread t).aborts.contains ch = false ∧ ((s.svc t.grove).chan
      ch).res = some r ∧ r.thread ≠ tnum t) ∧
    (∃ (s : State) (t : Thr) (ch : Nat) (n : Nat) (r : ChRes), (s.thread t).aborts.contains ch = false ∧ ((s.svc
      t.grove).chan ch).res = some r ∧ r.thread = tnum t ∧ 1 ≤ n ∧ n ≤ 8) ∧
    (∃ (s : State) (t : Thr) (ch : Nat), (s.thread t).aborts.contains ch = false ∧ ((s.svc t.grove).chan ch).res = none) ∧
    (∃ (s : State) (t : Thr) (ch : Nat) (m : List (BitVec 64)) (l : List (List (BitVec 64))), ((s.svc t.grove).chan
      ch).msgs = m :: l) ∧
    (∃ (s : State) (t : Thr) (ch : Nat), ((s.svc t.grove).chan ch).msgs = []) ∧
    (∃ (s : State), s.running = true) ∧
    (∃ (s : State) (t : Thr) (ch : Nat), (s.thread t).aborts.contains ch = true) :=
  ⟨⟨chans 0x0B {}, by decide⟩,
   ⟨chans 0x0B {}, fetchedCh.1, ⟨0, 0, 1⟩, fetchedCh.2, rfl⟩,
   ⟨chans 0x0B {}, ⟨0, 0, 1⟩, 0, 0x0B, by decide⟩,
   ⟨onCh40, ⟨0, 0, 1⟩, 0, 0x800B, by decide⟩,
   ⟨onCh40, ⟨0, 0, 1⟩, 1, 0x900B, by decide⟩,
   ⟨onCh2, ⟨0, 1, 0⟩, 2, 0xA00B, by decide⟩,
   ⟨chans 0x300B {}, ⟨0, 0, 1⟩, 3, 0x300B, by decide⟩,
   ⟨chans 0x400B {}, ⟨0, 0, 1⟩, 4, 0x400B, by decide⟩,
   ⟨chans 0x0B {}, ⟨0, 0, 1⟩, 0, by decide⟩,
   ⟨chans 0x0B { res := some (resOf 1) }, ⟨0, 0, 1⟩, 2, resOf 1, by decide⟩,
   ⟨chans 0x0B { msgs := [[1], [2], [3], [4]] }, ⟨0, 0, 1⟩, 2, by decide⟩,
   ⟨chans 0x0B { res := some (resOf 5) }, ⟨0, 0, 1⟩, 2, resOf 5, by decide⟩,
   ⟨chans 0x0B { res := some (resOf 1) }, ⟨0, 0, 1⟩, 2, 8, resOf 1, by decide⟩,
   ⟨chans 0x0B {}, ⟨0, 0, 1⟩, 0, by decide⟩,
   ⟨chans 0x0B { msgs := [[1]] }, ⟨0, 0, 1⟩, 2, [1], [], by decide⟩,
   ⟨chans 0x0B {}, ⟨0, 0, 1⟩, 0, by decide⟩,
   ⟨chans 0x0B {}, by decide⟩,
   ⟨{ up with sv := { groves := [(0, { threads := [(1, { aborts := [2] })] })] } }, ⟨0, 0, 1⟩, 2, by decide⟩⟩

def held0 : HeldFrame := { fill := 0, len := 60, queue := 1 }
def svcGrove (g : SvcGrove) : State := { up with sv := { groves := [(0, g)] } }
def customOpen (th : SvcThread) : State := { up with cfg := { up.cfg with firebreaks := [(64 * 0x0800, { valid := true, limit := 2 ^ 64, w := true })] }, sv := { groves := [(0, { image := some [], threads := [(1, th)] })] } }
def cand0 : CandRec := { key := 0, ra := 0, cls := 3, action := 0, time := 0 }
def waiting0 : State := { up with cn := { up.cn with frames := [(0, frame0)], slices := [(0, { sinks := [(.exception, [0])] })] } }
/-- What `Obligations.ServiceFramesAndRings` supposes can be met, clause by clause. -/
theorem meets_ServiceFramesAndRings :
    (∃ (s : State), s.running = true) ∧
    (∃ (s : State) (t : Thr) (h : HeldFrame), (s.thread t).frame = some h) ∧
    (∃ (s : State) (t : Thr) (q : Nat), (s.thread t).frame = none ∧ (q = 255 ∨ s.sinkQueue t.grove (serviceSink q) = [])) ∧
    (∃ (s : State) (t : Thr) (q : Nat) (tag : Nat) (f : FrameRec) (l : List Nat), (s.thread t).frame = none ∧ q ≠ 255 ∧
      s.sinkQueue t.grove (serviceSink q) = tag :: l ∧ s.frame tag = some f) ∧
    (∃ (s : State), s.running = true) ∧
    (∃ (s : State) (g : Nat) (v : BitVec 32), 512 < ((s.svc g).candPi - v).toNat) ∧
    (∃ (s : State) (g : Nat) (v : BitVec 32), ((s.svc g).candPi - v).toNat ≤ 512 ∧ (v - (s.svc g).candCi).toNat ≤ 512) ∧
    (∃ (s : State) (g : Nat) (v : BitVec 32), 8192 < ((s.svc g).logPi - v).toNat) ∧
    (∃ (s : State) (g : Nat) (v : BitVec 32), ((s.svc g).logPi - v).toNat ≤ 8192 ∧ s.cfg.policy.grove = g ∧ (v - (s.svc
      g).logCi).toNat ≤ 8192) ∧
    (∃ (s : State), s.running = true) ∧
    (∃ (s : State), s.running = true ∧ (s.tb.log = [] ∨ s.builtinRuns s.cfg.policy.grove = false)) ∧
    (∃ (s : State) (r : LearnRec) (l : List LearnRec), s.running = true ∧ s.tb.log = r :: l ∧ s.builtinRuns
      s.cfg.policy.grove = true) :=
  ⟨⟨up, by decide⟩,
   ⟨svcGrove { threads := [(1, { frame := some held0 })] }, ⟨0, 0, 1⟩, held0, by decide⟩,
   ⟨up, ⟨0, 0, 1⟩, 0, by decide⟩,
   ⟨{ svcGrove {} with cn := { up.cn with frames := [(0, frame0)], slices := [(0, { sinks := [(.service 1, [0])] })] } },
    ⟨0, 0, 1⟩, 1, 0, frame0, [], by decide⟩,
   ⟨up, by decide⟩,
   ⟨up, 0, 1, by decide⟩,
   ⟨svcGrove { candPi := 512 }, 0, 512, by decide⟩,
   ⟨up, 0, 1, by decide⟩,
   ⟨svcGrove {}, 0, 0, by decide⟩,
   ⟨up, by decide⟩,
   ⟨up, by decide⟩,
   ⟨{ up with tb := { up.tb with log := [(⟨0, 0, 0, 0, 0, 0, 0⟩)] } }, ⟨0, 0, 0, 0, 0, 0, 0⟩, [], by decide⟩⟩

def image0 : List Byte := leBytes 4 0x5C1EA90D ++ leBytes 4 0 ++ zeros 2296
/-- What `Obligations.ServiceCommands` supposes can be met, clause by clause. -/
theorem meets_ServiceCommands :
    (∃ (s : State) (r : Request) (k : Nat) (o : Nat) (n : Nat), s.asks r 0x0C01 ∧ r.payload.length = 12 + n ∧ fld r.payload
      0 1 = k ∧ k ≤ 1 ∧ fld r.payload 1 3 = 0 ∧ fld r.payload 4 4 = o ∧ fld r.payload 8 2 = n ∧ fld r.payload 10 2 = 0 ∧ 1
      ≤ n ∧ n ≤ 4000 ∧ o + n ≤ 8388608) ∧
    (∃ (s : State) (r : Request) (m : Nat) (n : Nat) (k : Nat), s.asks r 0x0C02 ∧ r.payload.length = 8 ∧ fld r.payload 0 2
      = m ∧ (maskBits m 16).isEmpty = false ∧ fld r.payload 2 1 = k ∧ k ≤ 1 ∧ fld r.payload 3 1 = 0 ∧ fld r.payload 4 4 = n
      ∧ (k = 0 → 2304 ≤ n ∧ n ≤ 8388608)) ∧
    (∃ (s : State) (h : Nat) (g : Nat) (gs : List Nat) (b : Option (List Byte)) (o : LongOp), s.stepsOn h o (.svcLoad (g ::
      gs) b)) ∧
    (∃ (s : State) (h : Nat) (b : Option (List Byte)) (o : LongOp), s.stepsOn h o (.svcLoad [] b)) ∧
    (∃ (s : State) (r : Request) (g : Nat), r.payload.length = 1 ∧ fld r.payload 0 1 = g ∧ g < 16 ∧ s.asks r 0x0C03) ∧
    (∃ (s : State) (r : Request) (g : Nat), r.payload.length = 1 ∧ fld r.payload 0 1 = g ∧ g < 16 ∧ s.asks r 0x0C04) ∧
    (∃ (s : State) (r : Request) (f : Nat), s.asks r 0x0C05 ∧ r.payload.length = 28 ∧ fld r.payload 0 2 = f ∧ fld r.payload
      2 1 ≤ 1 ∧ fld r.payload 3 1 = 0 ∧ 100 ≤ fld r.payload 4 4 ∧ fld r.payload 4 4 ≤ 60000 ∧ (slice r.payload 8 20).all
      (·.toNat < 128) = true ∧ fnPort f < 16 ∧ (match vfOf f with | some v => 512 ≤ v | none => fnLocal f = 1)) ∧
    (∃ (s : State) (r : Request) (f : Nat) (n : Nat), s.asks r 0x0C06 ∧ 20 ≤ r.payload.length ∧ r.payload.length ≤ 276 ∧
      fld r.payload 0 2 = f ∧ fld r.payload 2 1 = n ∧ 1 ≤ n ∧ n ≤ 32 ∧ fld r.payload 3 1 ≤ 2 ∧ (fld r.payload 4 1 = 9 ∨ fld
      r.payload 4 1 = 12) ∧ fld r.payload 5 3 = 0 ∧ fnPort f < 16 ∧
      (match vfOf f with | some v => 512 ≤ v | none => fnLocal f = 1)) ∧
    (∃ (s : State) (r : Request) (i : Nat), s.asks r 0x0C07 ∧ r.payload.length = 56 ∧ (maskBits (fld r.payload 0 2)
      16).isEmpty = false ∧ fld r.payload 2 2 = i ∧ i < 16384 ∧ fld r.payload 55 1 ≤ 3) ∧
    (∃ (s : State) (r : Request) (g : Nat), s.asks r 0x0C08 ∧ r.payload.length = 8 ∧ fld r.payload 0 1 = g ∧ g < 16 ∧ fld
      r.payload 6 2 = 0) ∧
    (∃ (s : State) (r : Request), s.asks r 0x0C09 ∧ r.payload.length = 8) :=
  ⟨⟨up.ask (rq 0x0C01 ([1, 0, 0, 0] ++ leBytes 4 8384608 ++ leBytes 2 4000 ++ zeros 4002)),
    rq 0x0C01 ([1, 0, 0, 0] ++ leBytes 4 8384608 ++ leBytes 2 4000 ++ zeros 4002),
    1, 8384608, 4000, by decide⟩,
   ⟨up.ask (rq 0x0C02 (leBytes 2 1 ++ [1, 0] ++ leBytes 4 0)), rq 0x0C02 (leBytes 2 1 ++ [1, 0] ++ leBytes 4 0),
    1, 0, 1, by decide⟩,
   ⟨up.busyWith (lop (.svcLoad [3] none)), 1, 3, [], none, lop (.svcLoad [3] none), by decide⟩,
   ⟨up.busyWith (lop (.svcLoad [] none)), 1, none, lop (.svcLoad [] none), by decide⟩,
   ⟨up.ask (rq 0x0C03 [3]), rq 0x0C03 [3], 3, by decide⟩,
   ⟨up.ask (rq 0x0C04 [3]), rq 0x0C04 [3], 3, by decide⟩,
   ⟨up.ask (rq 0x0C05 (leBytes 2 1 ++ [1, 0] ++ leBytes 4 100 ++ zeros 20)),
    rq 0x0C05 (leBytes 2 1 ++ [1, 0] ++ leBytes 4 100 ++ zeros 20),
    1, ⟨by decide, by decide, by decide, by decide, by decide, by decide, by decide, by decide, by decide, rfl⟩⟩,
   ⟨up.ask (rq 0x0C06 (leBytes 2 1 ++ [1, 1, 9, 0, 0, 0] ++ leBytes 8 5 ++ leBytes 4 3)),
    rq 0x0C06 (leBytes 2 1 ++ [1, 1, 9, 0, 0, 0] ++ leBytes 8 5 ++ leBytes 4 3),
    1, 1, ⟨by decide, by decide, by decide, by decide, by decide, by decide, by decide, by decide, by decide, by decide, by decide, rfl⟩⟩,
   ⟨up.ask (rq 0x0C07 (leBytes 2 8 ++ leBytes 2 16383 ++ zeros 51 ++ [2])),
    rq 0x0C07 (leBytes 2 8 ++ leBytes 2 16383 ++ zeros 51 ++ [2]),
    16383, by decide⟩,
   ⟨up.ask (rq 0x0C08 ([0, 0] ++ zeros 6)), rq 0x0C08 ([0, 0] ++ zeros 6), 0, by decide⟩,
   ⟨up.ask (rq 0x0C09 (zeros 8)), rq 0x0C09 (zeros 8), by decide⟩⟩

def nv (c : NvCtl) : State := { hostUp.opened with nvc := [(1, c)], cfg := { hostUp.opened.cfg with nvme := [(1, { enable := true })] } }
def nvRoom : State := nv { sqs := [(1, ⟨0, 16, 1, 0, 0⟩)], cqs := [(1, ⟨4096, 16, 0, false, 0, 0, true⟩)] }
def nvWritten : State × Dma := nvRoom.svcHostWrites 1 [(4096, cqe 0 0 1 9 true 0)]
/-- What `Obligations.NvmeRegistersAndQueues` supposes can be met, clause by clause. -/
theorem meets_NvmeRegistersAndQueues :
    (∃ (s : State) (f : Nat), s.serving = true ∧ s.hasNvme f = true ∧ s.reaches f (0x400 + fnPort f) 2 0x14 4) ∧
    (∃ (v : BitVec 32) (w : BitVec 32), w = v &&& ccMask) ∧
    (∃ (s : State) (f : Nat), s.builtinRuns (fnPort f) = false) ∧
    (∃ (s : State) (f : Nat), s.builtinRuns (fnPort f) = true) ∧
    (∃ (s : State) (f : Nat) (y : Nat), s.serving = true ∧ s.hasNvme f = true ∧ y ≤ nvQueues f ∧ s.reaches f (0x400 +
      fnPort f) 2 (0x1000 * (1 + 2 * y)) 4) ∧
    (∃ (s : State) (f : Nat) (y : Nat), s.serving = true ∧ s.hasNvme f = true ∧ y ≤ nvQueues f ∧ s.reaches f (0x400 +
      fnPort f) 2 (0x1000 * (2 + 2 * y)) 4) ∧
    (∃ (s : State) (u : State) (f : Nat) (b : List (Nat × List Byte)) (a : Dma), s.svcHostWrites f b = (u, a)) ∧
    (∃ (s : State) (u : State) (f : Nat) (sq : Nat) (cid : Nat) (d : Nat) (st : Nat) (q : NvSq) (k : NvCq) (a : Dma),
      SMap.get (s.ctl f).sqs sq = some q ∧ SMap.get (s.ctl f).cqs q.cq = some k ∧ k.room = true ∧ s.svcHostWrites f
      [(k.base + 16 * k.tail, cqe d q.head sq cid k.phase st)] = (u, a)) ∧
    (∃ (s : State) (f : Nat) (sq : Nat) (q : NvSq) (k : NvCq), SMap.get (s.ctl f).sqs sq = some q ∧ SMap.get (s.ctl f).cqs
      q.cq = some k ∧ k.room = false) :=
  ⟨⟨nv {}, 1, by decide⟩,
   ⟨0, 0, by decide⟩,
   ⟨{ nv {} with sv := { groves := [(0, { image := some [] })] } }, 1, by decide⟩,
   ⟨nv {}, 1, by decide⟩,
   ⟨nv {}, 1, 0, by decide⟩,
   ⟨nv {}, 1, 0, by decide⟩,
   ⟨nv {}, ((nv {}).svcHostWrites 1 [(4096, zeros 4)]).1, 1, [(4096, zeros 4)],
    ((nv {}).svcHostWrites 1 [(4096, zeros 4)]).2, rfl⟩,
   ⟨nvRoom, nvWritten.1, 1, 1, 9, 0, 0, ⟨0, 16, 1, 0, 0⟩, ⟨4096, 16, 0, false, 0, 0, true⟩,
    nvWritten.2, ⟨by decide, by decide, by decide, rfl⟩⟩,
   ⟨nv { sqs := [(1, ((⟨0, 16, 1, 0, 0⟩ : NvSq)))], cqs := [(1, (⟨4096, 16, 0, false, 1, 0, true⟩))] },
    1, 1, (⟨0, 16, 1, 0, 0⟩ : NvSq), ⟨4096, 16, 0, false, 1, 0, true⟩,
    by decide⟩⟩

def ctl0 : NvCtl := { rdy := true, cc := 1, sqs := [(0, ⟨4096, 16, 0, 0, 1⟩)], cqs := [(0, ⟨8192, 16, 0, false, 0, 0, true⟩)] }
def nvOn (c : NvCtl) : State := { hostUp.opened with nvc := [(1, c)], cfg := { hostUp.opened.cfg with nvme := [(1, { enable := true })] } }
/-- What `Obligations.NvmeAdminCommands` supposes can be met, clause by clause. -/
theorem meets_NvmeAdminCommands :
    (∃ (s : State) (t : State) (f : Nat) (i : Nat) (n : Nat) (k : Nat) (e : Sqe) (q : NvSq) (b : List Byte), s.nvHolds t f
      0 e q b ∧ lo16 e.cdw10 = i ∧ hi16 e.cdw10 = n ∧ hi16 e.cdw11 = k ∧ e.opc = 1) ∧
    (∃ (s : State) (t : State) (f : Nat) (i : Nat) (n : Nat) (k : Nat) (e : Sqe) (q : NvSq) (b : List Byte), s.nvHolds t f
      0 e q b ∧ lo16 e.cdw10 = i ∧ hi16 e.cdw10 = n ∧ hi16 e.cdw11 = k ∧ e.opc = 5) ∧
    (∃ (s : State) (t : State) (f : Nat) (i : Nat) (e : Sqe) (q : NvSq) (b : List Byte), s.nvHolds t f 0 e q b ∧ lo16
      e.cdw10 = i ∧ e.opc = 0) ∧
    (∃ (s : State) (t : State) (f : Nat) (i : Nat) (e : Sqe) (q : NvSq) (b : List Byte), s.nvHolds t f 0 e q b ∧ lo16
      e.cdw10 = i ∧ e.opc = 4) ∧
    (∃ (s : State) (t : State) (f : Nat) (l : Nat) (e : Sqe) (q : NvSq) (b : List Byte), s.nvHolds t f 0 e q b ∧ e.opc = 2
      ∧ bits e.cdw10.toNat 7 0 = l) ∧
    (∃ (s : State) (t : State) (f : Nat) (e : Sqe) (q : NvSq) (b : List Byte), s.nvHolds t f 0 e q b ∧ e.opc = 6) ∧
    (∃ (k : Nat), 3 < k) ∧
    (∃ (s : State) (f : Nat) (n : Nat) (l : List Byte), l = ((List.range 33).filter fun k => n < k && (s.ns f
      k).isSome).flatMap (leBytes 4)) ∧
    (∃ (s : State) (f : Nat) (n : Nat) (x : NvmeNs), s.ns f n = some x) ∧
    (∃ (s : State) (t : State) (f : Nat) (i : Nat) (k : Nat) (e : Sqe) (q : NvSq) (b : List Byte), s.nvHolds t f 0 e q b ∧
      e.opc = 8 ∧ lo16 e.cdw10 = i ∧ hi16 e.cdw10 = k) ∧
    (∃ (s : State) (t : State) (f : Nat) (k : Nat) (e : Sqe) (q : NvSq) (b : List Byte), s.nvHolds t f 0 e q b ∧ bits
      e.cdw10.toNat 7 0 = k ∧ e.opc = 9) ∧
    (∃ (s : State) (t : State) (f : Nat) (k : Nat) (e : Sqe) (q : NvSq) (b : List Byte), s.nvHolds t f 0 e q b ∧ bits
      e.cdw10.toNat 7 0 = k ∧ e.opc = 10) ∧
    (∃ (s : State) (t : State) (f : Nat) (e : Sqe) (q : NvSq) (b : List Byte), s.nvHolds t f 0 e q b ∧ e.opc = 12) ∧
    (∃ (s : State) (t : State) (f : Nat) (sq : Nat) (e : Sqe) (q : NvSq) (b : List Byte), s.nvHolds t f sq e q b) ∧
    (∃ (s : State) (f : Nat) (sq : Nat), (s.nvReady f = false ∨ SMap.get (s.ctl f).sqs sq = none)) :=
  ⟨⟨nvOn ctl0, (readEntry (nvOn ctl0) (entry 1 0 0xF0001 0x10001)).1.1,
    1, 1, 15, 1, entry 1 0 0xF0001 0x10001, ⟨4096, 16, 0, 0, 1⟩,
    (readEntry (nvOn ctl0) (entry 1 0 0xF0001 0x10001)).2, ⟨⟨by decide, by decide, by decide, by decide, rfl, by decide⟩, by decide, by decide, by decide, by decide⟩⟩,
   ⟨nvOn ctl0, (readEntry (nvOn ctl0) (entry 5 0 0xF0001 0x10001)).1.1,
    1, 1, 15, 1, entry 5 0 0xF0001 0x10001, ⟨4096, 16, 0, 0, 1⟩,
    (readEntry (nvOn ctl0) (entry 5 0 0xF0001 0x10001)).2, ⟨⟨by decide, by decide, by decide, by decide, rfl, by decide⟩, by decide, by decide, by decide, by decide⟩⟩,
   ⟨nvOn ctl0, (readEntry (nvOn ctl0) (entry 0 0 1 0)).1.1, 1, 1,
    entry 0 0 1 0, ⟨4096, 16, 0, 0, 1⟩, (readEntry (nvOn ctl0) (entry 0 0 1 0)).2,
    ⟨⟨by decide, by decide, by decide, by decide, rfl, by decide⟩, by decide, by decide⟩⟩,
   ⟨nvOn ctl0, (readEntry (nvOn ctl0) (entry 4 0 1 0)).1.1, 1, 1,
    entry 4 0 1 0, ⟨4096, 16, 0, 0, 1⟩, (readEntry (nvOn ctl0) (entry 4 0 1 0)).2,
    ⟨⟨by decide, by decide, by decide, by decide, rfl, by decide⟩, by decide, by decide⟩⟩,
   ⟨nvOn ctl0, (readEntry (nvOn ctl0) (entry 2 0 4 0)).1.1, 1, 4,
    entry 2 0 4 0, ⟨4096, 16, 0, 0, 1⟩, (readEntry (nvOn ctl0) (entry 2 0 4 0)).2,
    ⟨⟨by decide, by decide, by decide, by decide, rfl, by decide⟩, by decide, by decide⟩⟩,
   ⟨nvOn ctl0, (readEntry (nvOn ctl0) (entry 6 0 1 0)).1.1, 1, entry 6 0 1 0,
    ⟨4096, 16, 0, 0, 1⟩, (readEntry (nvOn ctl0) (entry 6 0 1 0)).2,
    ⟨⟨by decide, by decide, by decide, by decide, rfl, by decide⟩, by decide⟩⟩,
   ⟨4, by decide⟩,
   ⟨nvOn { ctl0 with cqs := ctl0.cqs ++ [(128, ⟨0, 16, 0, false, 0, 0, true⟩)] }, 1, 4095, [], by decide⟩,
   ⟨{ nvOn ctl0 with cfg := { (nvOn ctl0).cfg with namespaces := [(65, { lbaLog2 := 12, sizeLbas := 1000 })] } },
    1, 1, { lbaLog2 := 12, sizeLbas := 1000 }, by decide⟩,
   ⟨nvOn ctl0, (readEntry (nvOn ctl0) (entry 8 0 0x70000 0)).1.1,
    1, 0, 7, entry 8 0 0x70000 0, ⟨4096, 16, 0, 0, 1⟩, (readEntry (nvOn ctl0) (entry 8 0 0x70000 0)).2,
    ⟨⟨by decide, by decide, by decide, by decide, rfl, by decide⟩, by decide, by decide, by decide⟩⟩,
   ⟨nvOn ctl0, (readEntry (nvOn ctl0) (entry 9 0 7 0x30003)).1.1,
    1, 7, entry 9 0 7 0x30003, ⟨4096, 16, 0, 0, 1⟩, (readEntry (nvOn ctl0) (entry 9 0 7 0x30003)).2,
    ⟨⟨by decide, by decide, by decide, by decide, rfl, by decide⟩, by decide, by decide⟩⟩,
   ⟨nvOn ctl0, (readEntry (nvOn ctl0) (entry 10 0 7 0)).1.1, 1, 7,
    entry 10 0 7 0, ⟨4096, 16, 0, 0, 1⟩, (readEntry (nvOn ctl0) (entry 10 0 7 0)).2,
    ⟨⟨by decide, by decide, by decide, by decide, rfl, by decide⟩, by decide, by decide⟩⟩,
   ⟨nvOn ctl0, (readEntry (nvOn ctl0) (entry 12 0 0 0)).1.1, 1, entry 12 0 0 0,
    ⟨4096, 16, 0, 0, 1⟩, (readEntry (nvOn ctl0) (entry 12 0 0 0)).2,
    ⟨⟨by decide, by decide, by decide, by decide, rfl, by decide⟩, by decide⟩⟩,
   ⟨nvOn ctl0, (readEntry (nvOn ctl0) (entry 12 0 0 0)).1.1, 1, 0,
    entry 12 0 0 0, ⟨4096, 16, 0, 0, 1⟩, (readEntry (nvOn ctl0) (entry 12 0 0 0)).2,
    ⟨by decide, by decide, by decide, by decide, rfl, by decide⟩⟩,
   ⟨nvOn {}, 1, 0, by decide⟩⟩

def ctl1 : NvCtl := { rdy := true, cc := 1, sqs := [(1, ⟨4096, 16, 1, 0, 1⟩)], cqs := [(1, ⟨8192, 16, 0, false, 0, 0, true⟩)] }
def nsOn (c : NvCtl) : State := { hostUp.opened with nvc := [(1, c)], cfg := { hostUp.opened.cfg with nvme := [(1, { enable := true })], namespaces := [(64 + 32, { lbaLog2 := 12, sizeLbas := 1000 })] } }
/-- What `Obligations.NvmeIoCommands` supposes can be met, clause by clause. -/
theorem meets_NvmeIoCommands :
    (∃ (s : State), s.running = true) ∧
    (∃ (op : Nat) (i : Nat) (e : Sqe), (e.opc ≠ op ∨ i = 0)) ∧
    (∃ (s : State) (f : Nat) (i : Nat) (e : Sqe) (x : NvIo), i ≠ 0 ∧ ((s.ctl f).io.find? fun k => k.sq == i && k.cid ==
      e.cid) = some x) ∧
    (∃ (s : State) (t : State) (f : Nat) (i : Nat) (l : Nat) (n : Nat) (st : Nat) (e : Sqe) (q : NvSq) (m : Bool) (b : List
      Byte), s.nvHolds t f i e q b ∧ i ≠ 0 ∧ ((s.ctl f).io.find? fun k => k.sq == i && k.cid == e.cid) = none ∧ s.nsCheck f
      e l n m = .error st) ∧
    (∃ (s : State) (t : State) (u : State) (f : Nat) (i : Nat) (l : Nat) (n : Nat) (e : Sqe) (q : NvSq) (m : Bool) (rd :
      List (Nat × Nat)) (b : List Byte) (d : List Byte) (x : NvmeNs) (k : Asked), s.nvHolds t f i e q b ∧ i ≠ 0 ∧ ((s.ctl
      f).io.find? fun k => k.sq == i && k.cid == e.cid) = none ∧ s.nsCheck f e l n m = .ok x ∧ t.svcHostReads f rd
      (e.host.drop (splitAccess (q.base + 64 * q.head) 64 (s.fn f).mrrs).length) [] = ((u, k), d)) ∧
    (∃ (e : Sqe), (e.nsid = 0 ∨ 32 < e.nsid)) ∧
    (∃ (s : State) (f : Nat) (n : Nat) (e : Sqe) (x : NvmeNs), e.nsid ≠ 0 ∧ e.nsid ≤ 32 ∧ s.ns f e.nsid = some x ∧
      (x.keyHandle = 0 ∨ (s.cipherKey x.keyHandle).isSome = true) ∧ 1048576 < n * 2 ^ x.lbaLog2) ∧
    (∃ (s : State) (f : Nat) (l : Nat) (n : Nat) (e : Sqe) (x : NvmeNs), e.nsid ≠ 0 ∧ e.nsid ≤ 32 ∧ s.ns f e.nsid = some x
      ∧ (x.keyHandle = 0 ∨ (s.cipherKey x.keyHandle).isSome = true) ∧ n * 2 ^ x.lbaLog2 ≤ 1048576 ∧ x.sizeLbas < l + n) ∧
    (∃ (s : State) (f : Nat) (l : Nat) (n : Nat) (e : Sqe) (x : NvmeNs), e.nsid ≠ 0 ∧ e.nsid ≤ 32 ∧ s.ns f e.nsid = some x
      ∧ (x.keyHandle = 0 ∨ (s.cipherKey x.keyHandle).isSome = true) ∧ n * 2 ^ x.lbaLog2 ≤ 1048576 ∧ l + n ≤ x.sizeLbas) ∧
    (∃ (s : State), s.running = true) :=
  ⟨⟨nsOn ctl1, by decide⟩,
   ⟨2, 0, entry 2 32 0 0, by decide⟩,
   ⟨nsOn { ctl1 with io := [⟨1, 5, 0⟩] }, 1, 1, entry 2 32 0 0, ⟨1, 5, 0⟩, by decide⟩,
   ⟨nsOn ctl1, (readEntry (nsOn ctl1) (entry 2 33 0 0)).1.1, 1, 1,
    0, 1, 11, entry 2 33 0 0, ⟨4096, 16, 1, 0, 1⟩, true, (readEntry (nsOn ctl1) (entry 2 33 0 0)).2,
    ⟨⟨by decide, by decide, by decide, by decide, rfl, by decide⟩, by decide, by decide, rfl⟩⟩,
   ⟨nsOn ctl1, (readEntry (nsOn ctl1) (entry 2 32 0 0)).1.1, (readEntry (nsOn ctl1) (entry 2 32 0 0)).1.1,
    1, 1, 0, 1, entry 2 32 0 0, ⟨4096, 16, 1, 0, 1⟩, true, [], (readEntry (nsOn ctl1) (entry 2 32 0 0)).2,
    [], { lbaLog2 := 12, sizeLbas := 1000 }, .ok, ⟨⟨by decide, by decide, by decide, by decide, rfl, by decide⟩, by decide, by decide, rfl, rfl⟩⟩,
   ⟨entry 2 33 0 0, by decide⟩,
   ⟨nsOn ctl1, 1, 257, entry 2 32 0 0, { lbaLog2 := 12, sizeLbas := 1000 }, by decide⟩,
   ⟨nsOn ctl1, 1, 1000, 1, entry 2 32 0 0, { lbaLog2 := 12, sizeLbas := 1000 }, by decide⟩,
   ⟨nsOn ctl1, 1, 999, 1, entry 2 32 0 0, { lbaLog2 := 12, sizeLbas := 1000 }, by decide⟩,
   ⟨nsOn ctl1, by decide⟩⟩

def raOn (c : Conn) (k : RemKey) : State := { hostUp with cfg := { up.cfg with owners := [(0x2000000, 0)] }, qp := { qps := [(0, { qp0 with set := { qp0.set with kind := 2 } })] }, ra := { conns := [(5, c)], keys := [(3, k)] } }
def key3 : RemKey := { valid := true, gen := some 5, rights := 7, low := 4096, high := 8192 }
def conn0 : Conn := { state := 1 }
def connPayload : List Byte := leBytes 4 5 ++ [0, 0, 0, 0, 16, 13, 7, 7] ++ leBytes 2 10000 ++ zeros 2 ++ leBytes 4 10000 ++ leBytes 4 1048575 ++ zeros 6 ++ leBytes 2 4095 ++ [63, 0] ++ leBytes 2 0xFFF0 ++ leBytes 4 67108864 ++ zeros 24
/-- What `Obligations.RemoteCommands` supposes can be met, clause by clause. -/
theorem meets_RemoteCommands :
    (∃ (s : State) (r : Request) (k : Nat), s.asks r 0x0701 ∧ fld r.payload 0 4 = k) ∧
    (∃ (p : List Byte) (a : Nat), (fld p 24 8 ≤ fld p 16 8 ∨ (fld p 4 1 = 1 ∧ a ≠ operator) ∨ 1 < fld p 4 1)) ∧
    (∃ (s : State) (r : Request) (k : Nat), r.payload.length = 4 ∧ fld r.payload 0 4 = k ∧ k < 2 ^ 20 ∧ s.asks r 0x0702) ∧
    (∃ (s : State) (r : Request) (k : Nat), r.payload.length = 4 ∧ fld r.payload 0 4 = k ∧ k < 2 ^ 20 ∧ s.asks r 0x0703) ∧
    (∃ (s : State), s.running = true) ∧
    (∃ (s : State) (key : Nat) (e : RemKey), s.remKey (key % 2 ^ 20) = e ∧ (e.valid = false ∨ s.keyGen (key % 2 ^ 20) ≠ key
      / 2 ^ 20)) ∧
    (∃ (s : State) (key : Nat) (x : Conn) (e : RemKey), s.remKey (key % 2 ^ 20) = e ∧ e.valid = true ∧ s.keyGen (key % 2 ^
      20) = key / 2 ^ 20 ∧ e.tenant ≠ 0xFFFF ∧ e.tenant ≠ x.set.tenant) ∧
    (∃ (s : State) (key : Nat) (c : Nat) (x : Conn) (e : RemKey), s.remKey (key % 2 ^ 20) = e ∧ e.valid = true ∧ s.keyGen
      (key % 2 ^ 20) = key / 2 ^ 20 ∧ (e.tenant = 0xFFFF ∨ e.tenant = x.set.tenant) ∧ e.target = 0 ∧ fnPort e.fn ≠ c /
      65536) ∧
    (∃ (s : State) (key : Nat) (right : Nat) (c : Nat) (x : Conn) (e : RemKey), s.remKey (key % 2 ^ 20) = e ∧ e.valid =
      true ∧ s.keyGen (key % 2 ^ 20) = key / 2 ^ 20 ∧ (e.tenant = 0xFFFF ∨ e.tenant = x.set.tenant) ∧ (e.target ≠ 0 ∨
      fnPort e.fn = c / 65536) ∧ bit e.rights right = false) ∧
    (∃ (s : State) (key : Nat) (a : Nat) (n : Nat) (right : Nat) (c : Nat) (x : Conn) (e : RemKey), s.remKey (key % 2 ^ 20)
      = e ∧ e.valid = true ∧ s.keyGen (key % 2 ^ 20) = key / 2 ^ 20 ∧ (e.tenant = 0xFFFF ∨ e.tenant = x.set.tenant) ∧
      (e.target ≠ 0 ∨ fnPort e.fn = c / 65536) ∧ bit e.rights right = true ∧ (a < e.low ∨ e.high < a ∨ e.high - a < n)) ∧
    (∃ (s : State) (key : Nat) (a : Nat) (n : Nat) (right : Nat) (c : Nat) (x : Conn) (e : RemKey), s.remKey (key % 2 ^ 20)
      = e ∧ e.valid = true ∧ s.keyGen (key % 2 ^ 20) = key / 2 ^ 20 ∧ (e.tenant = 0xFFFF ∨ e.tenant = x.set.tenant) ∧
      (e.target ≠ 0 ∨ fnPort e.fn = c / 65536) ∧ bit e.rights right = true ∧ e.low ≤ a ∧ a + n ≤ e.high) ∧
    (∃ (s : State) (g : Nat) (t : Nat), SMap.get s.ra.violation g = some t ∧ s.clk < t + ms 1000) ∧
    (∃ (s : State) (r : Request) (c : Nat), s.asks r 0x0704 ∧ fld r.payload 0 4 = c) ∧
    (∃ (s : State) (r : Request) (c : Nat) (x : Conn), r.payload.length = 4 ∧ fld r.payload 0 4 = c ∧ c < 2 ^ 20 ∧ s.conn c
      = x ∧ s.asks r 0x0705) ∧
    (∃ (s : State) (r : Request) (c : Nat) (x : Conn), r.payload.length = 4 ∧ fld r.payload 0 4 = c ∧ c < 2 ^ 20 ∧ s.conn c
      = x ∧ s.asks r 0x0706) ∧
    (∃ (s : State) (r : Request) (g : Nat), s.asks r 0x0707 ∧ r.payload.length = 32 ∧ fld r.payload 0 1 = g ∧ g < 16 ∧ fld
      r.payload 1 1 = 0 ∧ fld r.payload 10 2 = 0) ∧
    (∃ (s : State) (r : Request) (g : Nat), s.asks r 0x0708 ∧ r.payload.length = 4 ∧ fld r.payload 0 1 = g ∧ g < 16 ∧ fld
      r.payload 1 3 = 0) :=
  ⟨⟨up.ask (rq 0x0701 (leBytes 4 1048575 ++ [1, 7, 1, 0] ++ leBytes 2 0xFFFF ++ leBytes 2 5 ++ leBytes 4 1048575 ++ leBytes 8 4096 ++ leBytes 8 0x3000000000)),
    rq 0x0701 (leBytes 4 1048575 ++ [1, 7, 1, 0] ++ leBytes 2 0xFFFF ++ leBytes 2 5 ++ leBytes 4 1048575 ++ leBytes 8 4096 ++ leBytes 8 0x3000000000),
    1048575, by decide⟩,
   ⟨[], 0, by decide⟩,
   ⟨(raOn conn0 key3).ask (rq 0x0702 (leBytes 4 3)), rq 0x0702 (leBytes 4 3), 3, by decide⟩,
   ⟨(raOn conn0 key3).ask (rq 0x0703 (leBytes 4 3)), rq 0x0703 (leBytes 4 3), 3, by decide⟩,
   ⟨up.ask (rq 0x0701 (leBytes 4 1048575 ++ [1, 7, 1, 0] ++ leBytes 2 0xFFFF ++ leBytes 2 5 ++ leBytes 4 1048575 ++ leBytes 8 4096 ++ leBytes 8 0x3000000000)),
    by decide⟩,
   ⟨raOn conn0 {}, 5 * 2 ^ 20 + 3, {}, by decide⟩,
   ⟨raOn conn0 { key3 with tenant := 2 }, 5 * 2 ^ 20 + 3, conn0, { key3 with tenant := 2 }, by decide⟩,
   ⟨raOn conn0 { key3 with fn := 0x1000 }, 5 * 2 ^ 20 + 3, 5, conn0, { key3 with fn := 0x1000 }, by decide⟩,
   ⟨raOn conn0 { key3 with rights := 5 }, 5 * 2 ^ 20 + 3, 1, 5, conn0, { key3 with rights := 5 }, by decide⟩,
   ⟨raOn conn0 key3, 5 * 2 ^ 20 + 3, 4096, 4097, 1, 5, conn0, key3, by decide⟩,
   ⟨raOn conn0 key3, 5 * 2 ^ 20 + 3, 4096, 4096, 1, 5, conn0, key3, by decide⟩,
   ⟨{ up with ra := { violation := [(0, 900000000)] } }, 0, 900000000, by decide⟩,
   ⟨(raOn {} key3).ask (rq 0x0704 connPayload), rq 0x0704 connPayload, 5, by decide⟩,
   ⟨(raOn conn0 key3).ask (rq 0x0705 (leBytes 4 5)), rq 0x0705 (leBytes 4 5), 5, conn0, by decide⟩,
   ⟨(raOn conn0 key3).ask (rq 0x0706 (leBytes 4 5)), rq 0x0706 (leBytes 4 5), 5, conn0, by decide⟩,
   ⟨up.ask (rq 0x0707 ([3, 0] ++ leBytes 2 9473 ++ zeros 28)), rq 0x0707 ([3, 0] ++ leBytes 2 9473 ++ zeros 28),
    3, by decide⟩,
   ⟨up.ask (rq 0x0708 [3, 0, 0, 0]), rq 0x0708 [3, 0, 0, 0], 3, by decide⟩⟩

def ra1 (c : Conn) (jobs : List Job) : State := { hostUp.opened with qp := { qps := [(0, { qp0 with set := { qp0.set with kind := 2 }, jobs := jobs })] }, ra := { conns := [(0, c)] }, cfg := { hostUp.opened.cfg with owners := [(0x2000000, 0)] } }
def conn1 : Conn := { state := 1, set := { dmac := zeros 6, remoteIp := zeros 16 }, cwnd := 100000 }
def tx0 : TxMsg := { id := 0, slot := 7, op := 0x20, total := 4, data := zeros 4, deadline := 2000000000 }
/-- What `Obligations.RemoteRequests` supposes can be met, clause by clause. -/
theorem meets_RemoteRequests :
    (∃ (s : State), s.running = true) ∧
    (∃ (x : Conn), 1024 ≤ sdiff x.nextMsg x.una) ∧
    (∃ (x : Conn) (m : TxMsg), m.isAtomic = true ∧ 256 ≤ sdiff x.nextAsn x.asnUna) ∧
    (∃ (s : State) (c : Nat), (s.conn c).state ≠ 1) ∧
    (∃ (s : State) (q : Nat) (c : Nat), (s.conn c).state = 1 ∧ (s.conn c).set.qp ≠ q) ∧
    (∃ (s : State) (q : Nat) (c : Nat) (j : Job), (s.conn c).state = 1 ∧ (s.conn c).set.qp = q ∧ (s.conn c).set.transport =
      1 ∧ dOp (j.descs.headD 0) = 0x26) ∧
    (∃ (s : State), s.running = true) ∧
    (∃ (s : State) (c : Nat) (m : TxMsg), ((s.conn c).set.rnrLimit = 7 ∨ m.rnr < (s.conn c).set.rnrLimit)) ∧
    (∃ (s : State) (c : Nat) (m : TxMsg), (s.conn c).set.rnrLimit ≠ 7 ∧ (s.conn c).set.rnrLimit ≤ m.rnr) ∧
    (∃ (s : State) (c : Nat), (s.conn c).state = 1) ∧
    (∃ (s : State) (c : Nat), (s.conn c).cutAt = none) ∧
    (∃ (s : State) (c : Nat) (t : Nat), (s.conn c).cutAt = some t ∧ s.clk < t + us (s.conn c).set.rtoUs) ∧
    (∃ (s : State), s.running = true) :=
  ⟨⟨ra1 conn1 [], by decide⟩,
   ⟨{ conn1 with tx := [tx0], nextMsg := 1024 }, by decide⟩,
   ⟨{ conn1 with tx := [{ tx0 with op := 0x24 }], nextAsn := 256 }, { tx0 with op := 0x24 }, by decide⟩,
   ⟨ra1 {} [(job1 (desc 0x20))], 0, by decide⟩,
   ⟨ra1 conn1 [(job1 (desc 0x20))], 1, 0, by decide⟩,
   ⟨ra1 { conn1 with set := { conn1.set with transport := 1 } } [(job1 (desc 0x26))], 0, 0, job1 (desc 0x26), by decide⟩,
   ⟨ra1 conn1 [], by decide⟩,
   ⟨ra1 { conn1 with set := { conn1.set with rnrLimit := 7 } } [], 0, { tx0 with r := 1 }, by decide⟩,
   ⟨ra1 conn1 [(job1 (desc 0x20))], 0, conn1.message (job1 (desc 0x20)) (ra1 conn1 [(job1 (desc 0x20))]).now, by decide⟩,
   ⟨ra1 conn1 [], 0, by decide⟩,
   ⟨ra1 conn1 [], 0, by decide⟩,
   ⟨ra1 { conn1 with cutAt := some 1000000000 } [], 0, 1000000000, by decide⟩,
   ⟨ra1 conn1 [], by decide⟩⟩

def conn2 : Conn := { state := 1, set := { dmac := zeros 6, remoteIp := zeros 16 }, cwnd := 100000 }
def key2 : RemKey := { valid := true, gen := some 5, rights := 7, low := 4096, high := 8192 }
def ra2 (c : Conn) (inq : List NetPkt) : State := { hostUp.opened with qp := { qps := [(0, { qp0 with set := { qp0.set with kind := 2 }, jobs := [job1 (desc 0x21)] })] }, ra := { conns := [(0, c)], keys := [(3, key2)], inq := [(0, inq)] }, cfg := { hostUp.opened.cfg with owners := [(0x2000000, 0)] } }
def mra0 (type : Nat) : Mra := { type := type, dest := 0, id := 0, rkey := 5 * 2 ^ 20 + 3, addr := 4096, total := 4, src := 0 }
def pkt (h : Mra) (b : List Byte) : NetPkt := { src := zeros 16, ce := false, roce := false, bytes := h.bytes ++ b }
def tx2 (op : Nat) : TxMsg := { id := 0, slot := 7, op := op, total := 8, deadline := 2000000000 }
def rx2 : RxMsg := { id := 0, kind := 1, total := 2000, last := 5, seen := [1], got := 976 }
def h13 : Mra := mra0 1
def s13 : State := ra2 { conn2 with ctxs := [rx2] } []
def s14 : State := ra2 conn2 []
/-- What `Obligations.RemotePackets` supposes can be met, clause by clause. -/
theorem meets_RemotePackets :
    (∃ (s : State) (g : Nat) (p : NetPkt) (l : List NetPkt), s.raHolds g p l) ∧
    (∃ (s : State) (g : Nat), s.running = true ∧ (SMap.getD s.ra.inq g [] = [] ∨ s.maySource g = false ∨ s.raWorks g =
      false)) ∧
    (∃ (n : Nat) (m : RxMsg), m.got + n ≠ m.total) ∧
    (∃ (n : Nat) (m : RxMsg), m.got + n = m.total ∧ m.slot = none) ∧
    (∃ (s : State), s.running = true) ∧
    (∃ (w : Nat) (old : List Byte) (cmp : List Byte), cmp.length = w ∧ old = cmp) ∧
    (∃ (w : Nat) (old : List Byte) (cmp : List Byte), cmp.length = w ∧ old ≠ cmp) ∧
    (∃ (s : State) (c : Nat) (b : List Byte), (s.conn c).state = 1 ∧ 0 < psnDiff (nfld b 9 3) (s.conn c).rxPsn) ∧
    (∃ (s : State) (c : Nat) (b : List Byte), (s.conn c).state = 1 ∧ psnDiff (nfld b 9 3) (s.conn c).rxPsn < 0) ∧
    (∃ (s : State) (c : Nat) (t : Nat), (s.conn c).lastCnp = some t ∧ s.clk < t + us 50) :=
  ⟨⟨ra2 conn2 [(pkt (mra0 1) (zeros 4))], 0, pkt (mra0 1) (zeros 4), [], by decide⟩,
   ⟨ra2 conn2 [], 0, by decide⟩,
   ⟨0, rx2, by decide⟩,
   ⟨1024, rx2, by decide⟩,
   ⟨ra2 conn2 [(pkt (mra0 1) (zeros 4))], by decide⟩,
   ⟨0, [], [], by decide⟩,
   ⟨4, [1, 2, 3, 4], [1, 2, 3, 5], by decide⟩,
   ⟨ra2 conn2 [], 0, zeros 9 ++ [0, 0, 5], by decide⟩,
   ⟨ra2 { conn2 with rxPsn := 5 } [], 0, zeros 12, by decide⟩,
   ⟨ra2 { conn2 with lastCnp := some 1000000000 } [], 0, 1000000000, by decide⟩⟩

def ci (k : CKey) (a : Sa) : State := { hostUp with ci := { keys := [(3, k)], sas := [(5, a)] }, cfg := { up.cfg with owners := [(0x2000000, 0)] }, qp := { qps := [(0, { qp0 with state := 1, set := { qp0.set with kind := 3 } })] } }
def ck : CKey := { valid := true, gen := some 5, alg := 1, use := 2, key := zeros 64, iv := zeros 12, owner := operator }
def keyPayload (alg use : Nat) : List Byte := leBytes 1 alg ++ leBytes 1 use ++ [0, 0, 1] ++ zeros 83
def saPayload (a : Nat) : List Byte := leBytes 4 a ++ [0, 0, 1, 0] ++ leBytes 4 (5 * 2 ^ 20 + 3) ++ [0, 0, 1, 0] ++ leBytes 8 1 ++ zeros 81
/-- What `Obligations.CipherCommands` supposes can be met, clause by clause. -/
theorem meets_CipherCommands :
    (∃ (s : State) (r : Request), s.asks r 0x0801) ∧
    (∃ (p : List Byte), fld p 2 1 = 0) ∧
    (∃ (p : List Byte), fld p 2 1 = 1) ∧
    (∃ (alg : Nat) (a : List Byte), 4 ≤ alg ∧ alg ≤ 5 ∧ a.length = keyBytes alg / 2) ∧
    (∃ (s : State) (i : Nat), s.freeKey = some i) ∧
    (∃ (s : State) (r : Request) (h : Nat), r.payload.length = 4 ∧ fld r.payload 0 4 = h ∧ s.asks r 0x0802) ∧
    (∃ (s : State) (r : Request) (h : Nat), r.payload.length = 4 ∧ fld r.payload 0 4 = h ∧ s.asks r 0x0803) ∧
    (∃ (s : State), s.running = true) ∧
    (∃ (s : State) (r : Request) (a : Nat), s.asks r 0x0804 ∧ fld r.payload 0 4 = a) ∧
    (∃ (s : State) (r : Request) (a : Nat) (x : Sa), r.payload.length = 4 ∧ fld r.payload 0 4 = a ∧ a < 2 ^ 20 ∧ s.sa a = x
      ∧ s.asks r 0x0805) ∧
    (∃ (s : State) (r : Request) (a : Nat) (x : Sa), r.payload.length = 4 ∧ fld r.payload 0 4 = a ∧ a < 2 ^ 20 ∧ s.sa a = x
      ∧ s.asks r 0x0806) ∧
    (∃ (s : State) (r : Request) (q : Nat) (k : Nat) (u : Nat), s.asks r 0x0807 ∧ r.payload.length = 4 ∧ fld r.payload 0 2
      = q ∧ fld r.payload 2 1 = k ∧ k ≤ 1 ∧ fld r.payload 3 1 = u ∧ u ≤ 1) ∧
    (∃ (s : State) (r : Request) (m : Nat) (n : Nat), s.asks r 0x0808 ∧ r.payload.length = 4 ∧ fld r.payload 0 2 = m ∧ fld
      r.payload 2 1 = n ∧ n ≤ 4 ∧ fld r.payload 3 1 = 0) ∧
    (∃ (s : State) (r : Request) (g : Nat), s.asks r 0x0809 ∧ r.payload.length = 4 ∧ fld r.payload 0 1 = g ∧ g < 16 ∧ fld
      r.payload 1 3 = 0) :=
  ⟨⟨{ up with variant := .x }.ask (rq 0x0801 []), rq 0x0801 [], by decide⟩,
   ⟨zeros 76, by decide⟩,
   ⟨[0, 0, 1, 0] ++ zeros 84, by decide⟩,
   ⟨5, zeros 32, by decide⟩,
   ⟨(ci ck {}).ask (rq 0x0801 (keyPayload 5 1)), 1, by decide⟩,
   ⟨(ci ck {}).ask (rq 0x0802 (leBytes 4 (5 * 2 ^ 20 + 3))), rq 0x0802 (leBytes 4 (5 * 2 ^ 20 + 3)),
    5 * 2 ^ 20 + 3, by decide⟩,
   ⟨(ci ck {}).ask (rq 0x0803 (leBytes 4 (5 * 2 ^ 20 + 3))), rq 0x0803 (leBytes 4 (5 * 2 ^ 20 + 3)),
    5 * 2 ^ 20 + 3, by decide⟩,
   ⟨{ up with variant := .x }.ask (rq 0x0801 []), by decide⟩,
   ⟨{ up with variant := .x }.ask (rq 0x0804 []), rq 0x0804 [], 0, by decide⟩,
   ⟨(ci ck { valid := true }).ask (rq 0x0805 (leBytes 4 5)), rq 0x0805 (leBytes 4 5), 5, { valid := true }, by decide⟩,
   ⟨(ci ck { valid := true }).ask (rq 0x0806 (leBytes 4 5)), rq 0x0806 (leBytes 4 5), 5, { valid := true }, by decide⟩,
   ⟨(ci ck {}).ask (rq 0x0807 [0, 0, 1, 1]), rq 0x0807 [0, 0, 1, 1], 0, 1, 1, by decide⟩,
   ⟨up.ask (rq 0x0808 [3, 0, 4, 0]), rq 0x0808 [3, 0, 4, 0], 3, 4, by decide⟩,
   ⟨up.ask (rq 0x0809 [3, 0, 0, 0]), rq 0x0809 [3, 0, 0, 0], 3, by decide⟩⟩

def ck1 : CKey := { valid := true, gen := some 5, alg := 1, use := 2, key := zeros 64, iv := zeros 12, owner := operator }
def sa1 : Sa := { valid := true, handle := 5 * 2 ^ 20 + 3, spi := 256, seq := 1 }
def ipFrame (proto : Nat) (payload : List Byte) : FrameRec := { frame0 with bytes := zeros 12 ++ [8, 0, 0x45, 0] ++ beBytes 2 (20 + payload.length) ++ zeros 4 ++ [64] ++ leBytes 1 proto ++ zeros 10 ++ payload ++ zeros 4 }
def cim (class_ : Nat) (jobs : List Job) (eng : SMap Engine) : State := { hostUp.opened with cfg := { hostUp.opened.cfg with owners := [(0x2000000, 0)] }, ci := { keys := [(3, ck1)], engines := eng }, qp := { qps := [(0, { qp0 with cipherClass := class_, set := { qp0.set with kind := 3 }, jobs := jobs })] } }
def esp1 (a : Sa) (f : FrameRec) : State := { cim 0 [] [] with ci := { keys := [(3, ck1)], sas := [(0, a)] }, cn := { up.cn with frames := [(0, f)], slices := [(0, { sinks := [(.cipher, [0])] })] } }
def msg1 (urgent : Bool) : CMsg := { msg := .job 0 7, urgent := urgent, op := 2, index := 3, key := ck1, total := 64 }
def out1 : FrameRec := ipFrame 17 (zeros 40)
def in1 (seq : Nat) : FrameRec := ipFrame 50 (beBytes 4 256 ++ beBytes 4 seq ++ zeros 32)
/-- What `Obligations.CipherMessages` supposes can be met, clause by clause. -/
theorem meets_CipherMessages :
    (∃ (s : State), s.running = true) ∧
    (∃ (s : State) (g : Nat) (e : Nat) (f : Nat) (l : List Nat), s.leastQueued g l = some e ∧ f ∈ l) ∧
    (∃ (s : State) (g : Nat) (e : Nat), (s.engine g e).suspendable = true) ∧
    (∃ (s : State) (g : Nat) (e : Nat), (s.engine g e).suspendable = false) ∧
    (∃ (s : State), s.running = true) ∧
    (∃ (s : State), s.running = true) ∧
    (∃ (p : CMsg → Bool) (a : List CMsg) (m : CMsg), a.any p = false ∧ p m = true) ∧
    (∃ (s : State), s.running = true) ∧
    (∃ (g : Nat), g < 16) ∧
    (∃ (ds : List (BitVec 256)), dOp (ds.headD 0) = 0x41) ∧
    (∃ (ds : List (BitVec 256)), dOp (ds.headD 0) = 0x44) ∧
    (∃ (s : State), s.running = true) ∧
    (∃ (x : Sa) (n : Nat), n + 1024 ≤ x.seq) ∧
    (∃ (x : Sa) (n : Nat), x.seq < n) ∧
    (∃ (x : Sa) (n : Nat), n ≤ x.seq ∧ x.seq < n + 1024) ∧
    (∃ (s : State) (a : Nat), (s.sa a).stopped = true) ∧
    (∃ (s : State) (a : Nat), (s.sa a).stopped = false) :=
  ⟨⟨cim 0 [] [], by decide⟩,
   ⟨cim 0 [] [], 0, 0, 0, [0], by decide⟩,
   ⟨cim 0 [] [], 0, 0, by decide⟩,
   ⟨cim 0 [(job1 (desc 0x42))] [], 0, 2, by decide⟩,
   ⟨cim 0 [] [], by decide⟩,
   ⟨cim 0 [] [], by decide⟩,
   ⟨fun z => z.urgent, [], msg1 true, by decide⟩,
   ⟨cim 0 [] [], by decide⟩,
   ⟨0, by decide⟩,
   ⟨[desc 0x41], by decide⟩,
   ⟨[desc 0x44], by decide⟩,
   ⟨cim 0 [] [], by decide⟩,
   ⟨{ sa1 with seq := 1025 }, 1, by decide⟩,
   ⟨{ sa1 with inbound := true, spi := 257 }, 40, by decide⟩,
   ⟨{ sa1 with seq := 1024 }, 1, by decide⟩,
   ⟨esp1 { sa1 with stopped := true } out1, 0, by decide⟩,
   ⟨cim 0 [] [], 0, by decide⟩⟩

def win : Rental := ⟨0x3000, 5, 0x2BF0000000, 0x10000000⟩
def cl7 (x : Cl) : State := { up with clr := [(7, x)], cfg := { up.cfg with owners := [(0x4000000 + 7, 0x3000)], rentals := [(7, win)] }, nv := { up.nv with owk := some 5, bitstreamKey := some [1] } }
def bitHead : List Byte := leBytes 4 0xC1EA4B17 ++ [1, 0, 0, 1] ++ zeros 4 ++ leBytes 4 100000 ++ leBytes 4 900000 ++ zeros 236
def bitStage : SMap Byte := [(0, 0x17), (1, 0x4B), (2, 0xEA), (3, 0xC1), (4, 1), (7, 1), (12, 0xA0), (13, 0x86), (14, 1), (16, 0xA0), (17, 0xBB), (18, 0x0D)]
def clPay (p : List Byte) : List Byte := 7 :: p
def rentPay (base : Nat) : List Byte := [7, 0] ++ leBytes 2 0x3000 ++ leBytes 2 5 ++ [0, 0] ++ leBytes 8 base ++ leBytes 8 0x10000000
def hop (d : OpData) : LongOp := { lop d with opcode := 0x0905 }
/-- What `Obligations.ClearingLifecycle` supposes can be met, clause by clause. -/
theorem meets_ClearingLifecycle :
    (∃ (s : State) (r : Request) (c : Nat), s.asksCl r 0x0901 24 c ∧ fld r.payload 1 1 = 0 ∧ fld r.payload 6 2 = 0) ∧
    (∃ (s : State) (c : Nat) (x : Rental), (x.base % 0x10000000 ≠ 0 ∨ x.size % 0x10000000 ≠ 0 ∨ x.size < 0x10000000 ∨
      0x400000000 < x.size ∨ 0x2C00000000 < x.base + x.size ∨ s.fnPresent x.renter = false ∨ fnPort x.renter ≠ c / 2 ∨
      fnLocal x.renter = 2)) ∧
    (∃ (s : State) (h : Nat) (c : Nat) (o : LongOp) (x : Rental), s.stepsOn h o (.clRent c x)) ∧
    (∃ (s : State) (r : Request) (c : Nat) (n : Nat), s.asksCl r 0x0903 (12 + n) c ∧ fld r.payload 8 2 = n ∧ fld r.payload
      1 1 ≤ 1 ∧ fld r.payload 2 2 = 0 ∧ fld r.payload 10 2 = 0 ∧ 1 ≤ n ∧ n ≤ 4000 ∧ fld r.payload 4 4 + n ≤ 0x10000000) ∧
    (∃ (s : State) (r : Request) (c : Nat), s.asksCl r 0x0904 24 c ∧ fld r.payload 1 1 ≤ 1 ∧ fld r.payload 2 2 = 0 ∧ fld
      r.payload 12 4 = 0 ∧ 1 ≤ fld r.payload 8 4 ∧ fld r.payload 4 4 + fld r.payload 8 4 ≤ 0x10000000) ∧
    (∃ (s : State) (h : Nat) (c : Nat) (k : Nat) (a : Nat) (n : Nat) (f : Nat) (o : LongOp), s.stepsOn h o (.clStageHost c
      k a n f)) ∧
    (∃ (s : State) (r : Request) (c : Nat), s.asksCl r 0x0905 8 c ∧ fld r.payload 1 3 = 0 ∧ fld r.payload 4 4 ≤ 0x10000000) ∧
    (∃ (h : List Byte) (n : Nat), n ≠ 256 + fld h 8 4 + 1280) ∧
    (∃ (s : State) (h : Nat) (c : Nat) (k : Nat) (o : LongOp), s.stepsOn h o (.clLoad c k)) ∧
    (∃ (s : State) (c : Nat), (s.nv.bitstreamKey.any fun k => Config.fnDsaVerify k (getBytes (s.clearing c).staging 0 (256
      + fld (s.clearing c).header 8 4 + 1280))) = false) ∧
    (∃ (s : State) (h : Nat) (c : Nat) (o : LongOp), s.running = true ∧ (s.clearing c).loading = some h ∧ s.op h = some o) ∧
    (∃ (s : State) (r : Request) (c : Nat), s.asksCl r 0x0906 4 c ∧ fld r.payload 1 3 = 0) ∧
    (∃ (s : State) (h : Nat) (c : Nat) (o : LongOp), s.stepsOn h o (.clUnload c)) ∧
    (∃ (s : State) (r : Request) (c : Nat), s.asksCl r 0x0902 4 c ∧ fld r.payload 1 3 = 0) ∧
    (∃ (s : State) (h : Nat) (c : Nat) (o : LongOp), s.running = true ∧ s.turns h o ∧ o.data = .clRelease c 0) ∧
    (∃ (s : State) (h : Nat) (c : Nat) (k : Nat) (o : LongOp), s.running = true ∧ s.turns h o ∧ o.data = .clRelease c (k +
      1)) :=
  ⟨⟨up.ask (rq 0x0901 (rentPay 0x2BF0000000)), rq 0x0901 (rentPay 0x2BF0000000), 7, by decide⟩,
   ⟨up.ask (rq 0x0901 (rentPay 0x2C00000000)), 7, readRental (rq 0x0901 (rentPay 0x2C00000000)).payload, by decide⟩,
   ⟨up.busyWith (hop (.clRent 7 win)), 1, 7, hop (.clRent 7 win), win, by decide⟩,
   ⟨(cl7 { state := 2 }).ask (rq 0x0903 (clPay ([1, 0, 0] ++ leBytes 4 (0x10000000 - 4000) ++ leBytes 2 4000 ++ zeros 4002))),
    rq 0x0903 (clPay ([1, 0, 0] ++ leBytes 4 (0x10000000 - 4000) ++ leBytes 2 4000 ++ zeros 4002)),
    7, 4000, by decide⟩,
   ⟨(cl7 { state := 2 }).ask (rq 0x0904 (clPay ([0, 0, 0] ++ leBytes 4 0 ++ leBytes 4 0x10000000 ++ zeros 12))),
    rq 0x0904 (clPay ([0, 0, 0] ++ leBytes 4 0 ++ leBytes 4 0x10000000 ++ zeros 12)),
    7, by decide⟩,
   ⟨(cl7 { state := 2 }).busyWith (hop (.clStageHost 7 0 0 0 2)),
    1, 7, 0, 0, 0, 2, hop (.clStageHost 7 0 0 0 2), by decide⟩,
   ⟨(cl7 { state := 2, staging := bitStage }).ask (rq 0x0905 (clPay ([0, 0, 0] ++ leBytes 4 1536))),
    rq 0x0905 (clPay ([0, 0, 0] ++ leBytes 4 1536)), 7, by decide⟩,
   ⟨[], 0, by decide⟩,
   ⟨(cl7 { state := 3, staging := bitStage, config := [] }).busyWith (hop (.clLoad 7 3)),
    1, 7, 3, hop (.clLoad 7 3), by decide⟩,
   ⟨up.ask (rq 0x0901 (rentPay 0x2BF0000000)), 7, by decide⟩,
   ⟨(cl7 (({ state := 3, loading := some 1, stepAt := 5, shKhz := 100000 } : Cl))).busyWith (hop (.clLoad 7 3)),
    1, 7, hop (.clLoad 7 3), by decide⟩,
   ⟨(cl7 { state := 5 }).ask (rq 0x0906 (clPay [0, 0, 0])), rq 0x0906 (clPay [0, 0, 0]), 7, by decide⟩,
   ⟨(cl7 { state := 4 }).busyWith (hop (.clUnload 7)), 1, 7, hop (.clUnload 7), by decide⟩,
   ⟨(cl7 { state := 4 }).ask (rq 0x0902 (clPay [0, 0, 0])), rq 0x0902 (clPay [0, 0, 0]), 7, by decide⟩,
   ⟨(cl7 { state := 4 }).busyWith (hop (.clRelease 7 0)), 1, 7, hop (.clRelease 7 0), by decide⟩,
   ⟨(cl7 { state := 4 }).busyWith (hop (.clRelease 7 1)), 1, 7, 0, hop (.clRelease 7 1), by decide⟩⟩

def wnd : Rental := ⟨0x3000, 5, 0x2BF0000000, 0x10000000⟩
def clg (x : Cl) : State := { hostUp.opened with clr := [(0, x)], cfg := { hostUp.opened.cfg with owners := [(0x2000000, 0), (0x4000000, 0)], rentals := [(0, wnd)], firebreaks := hostUp.opened.cfg.firebreaks ++ [(64 * 0x700 + 1, { valid := true, limit := 2 ^ 64, r := true, w := true })] }, qp := { qps := [(0, { qp0 with state := 1, set := { qp0.set with kind := 4 } })] } }
/-- What `Obligations.ClearingCommands` supposes can be met, clause by clause. -/
theorem meets_ClearingCommands :
    (∃ (s : State) (r : Request), s.variant = .n ∧ s.asks r 0x0901) ∧
    (∃ (s : State) (r : Request), s.variant = .n ∧ s.asks r 0x0907) ∧
    (∃ (s : State) (r : Request), s.variant = .n ∧ s.asks r 0x090B) ∧
    (∃ (s : State) (r : Request) (c : Nat), s.asksCl r 0x0907 4 c ∧ fld r.payload 1 3 = 0) ∧
    (∃ (s : State) (r : Request) (c : Nat), s.asksCl r 0x090D 4 c ∧ fld r.payload 1 3 = 0) ∧
    (∃ (s : State) (r : Request) (c : Nat) (h : Nat) (q : Nat), fld r.payload 1 1 = h ∧ h < 64 ∧ fld r.payload 2 2 = q ∧
      s.asksCl r 0x0908 4 c) ∧
    (∃ (s : State) (r : Request) (c : Nat) (h : Nat) (q : Nat), fld r.payload 1 1 = h ∧ h < 64 ∧ fld r.payload 2 2 = q ∧
      s.asksCl r 0x0909 4 c) ∧
    (∃ (s : State) (r : Request) (c : Nat) (o : Nat), s.asksCl r 0x090A 16 c ∧ fld r.payload 1 1 ≤ 1 ∧ fld r.payload 2 2 =
      0 ∧ fld r.payload 4 4 = o ∧ o % 8 = 0 ∧ o < 65536) ∧
    (∃ (s : State) (c : Nat) (q : CtlReq) (l : List CtlReq), (s.clearing c).ctlq = q :: l) ∧
    (∃ (s : State) (c : Nat) (f : Nat) (o : Nat) (w : Bool), s.serving = true ∧ (s.clearing c).state = 4 ∧ s.owner 4 c = f
      ∧ fnLocal f ≠ 2 ∧ o < 65536 ∧ c / 2 = fnPort f ∧ s.reaches f (0x700 + c) (if w then 2 else 1) o 8) ∧
    (∃ (s : State) (c : Nat) (f : Nat), s.serving = true ∧ ((s.clearing c).state ≠ 4 ∨ s.owner 4 c ≠ f) ∧ s.takesRequests f
      = true ∧ (s.port (fnPort f)).full = true) ∧
    (∃ (s : State), s.running = true) ∧
    (∃ (s : State), s.running = true) ∧
    (∃ (s : State), s.running = true) ∧
    (∃ (s : State), s.running = true) ∧
    (∃ (s : State) (r : Request) (n : Nat), s.asks r 0x090B ∧ r.payload.length = 8 ∧ fld r.payload 0 4 ≠ 0 ∧ fld r.payload
      4 4 = n ∧ 1 ≤ n ∧ n ≤ 3600 ∧ s.clearings ≠ 0) ∧
    (∃ (s : State) (r : Request) (c : Nat), s.asksCl r 0x090C 12 c ∧ fld r.payload 1 3 = 0) :=
  ⟨⟨{ up with variant := .n }.ask (rq 0x0901 []), rq 0x0901 [], by decide⟩,
   ⟨{ up with variant := .n }.ask (rq 0x0907 []), rq 0x0907 [], by decide⟩,
   ⟨{ up with variant := .n }.ask (rq 0x090B []), rq 0x090B [], by decide⟩,
   ⟨(clg ({ state := 2 })).ask (rq 0x0907 [0, 0, 0, 0]), rq 0x0907 [0, 0, 0, 0], 0, by decide⟩,
   ⟨(clg ({ state := 2 })).ask (rq 0x090D [0, 0, 0, 0]), rq 0x090D [0, 0, 0, 0], 0, by decide⟩,
   ⟨(clg ({ state := 2 })).ask (rq 0x0908 [0, 63, 0xFF, 0xFF]), rq 0x0908 [0, 63, 0xFF, 0xFF], 0, 63, 0xFFFF, by decide⟩,
   ⟨(clg ({ state := 2 })).ask (rq 0x0909 [0, 63, 0xFF, 0xFF]), rq 0x0909 [0, 63, 0xFF, 0xFF], 0, 63, 0xFFFF, by decide⟩,
   ⟨(clg { state := 4 }).ask (rq 0x090A ([0, 1, 0, 0] ++ leBytes 4 65528 ++ zeros 8)),
    rq 0x090A ([0, 1, 0, 0] ++ leBytes 4 65528 ++ zeros 8), 0, 65528,
    by decide⟩,
   ⟨clg { state := 4, ctlq := [({ write := false, off := 8 })] }, 0, { write := false, off := 8 }, [], by decide⟩,
   ⟨clg { state := 4 }, 0, 0, 8, false, by decide⟩,
   ⟨clg { state := 2 }, 0, 0, by decide⟩,
   ⟨{ up with variant := .n }.ask (rq 0x0901 []), by decide⟩,
   ⟨{ up with variant := .n }.ask (rq 0x0901 []), by decide⟩,
   ⟨{ up with variant := .n }.ask (rq 0x0901 []), by decide⟩,
   ⟨{ up with variant := .n }.ask (rq 0x0901 []), by decide⟩,
   ⟨up.ask (rq 0x090B (leBytes 4 (2 ^ 31) ++ leBytes 4 3600)), rq 0x090B (leBytes 4 (2 ^ 31) ++ leBytes 4 3600),
    3600, by decide⟩,
   ⟨(clg {}).ask (rq 0x090C (zeros 12)), rq 0x090C (zeros 12), 0, by decide⟩⟩

theorem zeros_15996 : (zeros 15996).length = 15996 := List.length_replicate ..
def wnd1 : Rental := ⟨0, 5, 0x10000000, 0x10000000⟩
def clp (x : Cl) (jobs : List Job) : State := { hostUp.opened with clr := [(0, x)], cfg := { hostUp.opened.cfg with owners := [(0x2000000, 0), (0x4000000, 0)], rentals := [(0, wnd1)], firebreaks := hostUp.opened.cfg.firebreaks ++ [(64 * packageBlock + 5, { valid := true, limit := 2 ^ 64, r := true, w := true })] }, qp := { qps := [(0, { qp0 with set := { qp0.set with kind := 4 }, jobs := jobs })] } }
def mw1 : MemCmd := { write := true, off := 128, beats := 2, id := 9 }
/-- What `Obligations.ClearingPorts` supposes can be met, clause by clause. -/
theorem meets_ClearingPorts :
    (∃ (s : State), s.running = true) ∧
    (∃ (s : State) (o : Nat) (n : Nat) (i : Nat), s.running = true ∧ o < 2 ^ 31 ∧ n < 64 ∧ i < 256) ∧
    (∃ (s : State) (c : Nat) (w : Rental), s.running = true ∧ (s.clearing c).state = 4 ∧ s.rental c = some w) ∧
    (∃ (s : State) (c : Nat), s.running = true ∧ (s.clearing c).state ≠ 4) ∧
    (∃ (s : State), s.running = true) ∧
    (∃ (s : State), s.running = true) ∧
    (∃ (s : State) (c : Nat), s.running = true ∧ (s.clearing c).state = 4) ∧
    (∃ (s : State) (c : Nat), s.running = true ∧ (s.clearing c).state ≠ 4) ∧
    (∃ (s : State), s.running = true) ∧
    (∃ (s : State), s.running = true) :=
  ⟨⟨{ clp { state := 4 } [] with cn := { up.cn with frames := [(0, frame0)], slices := [(0, { sinks := [(.clearing 0, [0])] })] } },
    by decide⟩,
   ⟨{ clp { state := 4 } [] with cn := { up.cn with frames := [(0, frame0)], slices := [(0, { sinks := [(.clearing 0, [0])] })] } },
    0, 0, 0, by decide⟩,
   ⟨clp { state := 4 } [], 0, wnd1, by decide⟩,
   ⟨clp {} [], 0, by decide⟩,
   ⟨{ clp { state := 4 } [] with cn := { up.cn with frames := [(0, frame0)], slices := [(0, { sinks := [(.clearing 0, [0])] })] } },
    by decide⟩,
   ⟨up, by decide⟩,
   ⟨{ clp { state := 4 } [] with cn := { up.cn with frames := [(0, frame0)], slices := [(0, { sinks := [(.clearing 0, [0])] })] } },
    0, by decide⟩,
   ⟨clp {} [], 0, by decide⟩,
   ⟨{ clp { state := 4 } [] with cn := { up.cn with frames := [(0, frame0)], slices := [(0, { sinks := [(.clearing 0, [0])] })] } },
    by decide⟩,
   ⟨{ clp { state := 4 } [] with cn := { up.cn with frames := [(0, frame0)], slices := [(0, { sinks := [(.clearing 0, [0])] })] } },
    by decide⟩⟩

/-- What `Obligations.Firebreaks` supposes can be met, clause by clause. -/
theorem meets_Firebreaks :
    (∃ (s : State) (t : Nat) (right : Nat) (a : Nat) (n : Nat) (m : BitVec 16), s.fbAllowed t m right a n = true) ∧
    (∃ (s : State) (t : Nat) (right : Nat) (a : Nat) (n : Nat) (m : BitVec 16), s.fbAllowed t m right a n = false) ∧
    (∃ (s : State) (r : Request) (t : Nat) (e : Nat) (n : Nat), s.asks r 0x0E01 ∧ fld r.payload 0 2 = t ∧ fld r.payload 2 1
      = e ∧ fld r.payload 3 1 = n) ∧
    (∃ (s : State) (r : Request) (t : Nat) (e : Nat) (n : Nat), s.asks r 0x0E02 ∧ fld r.payload 0 2 = t ∧ fld r.payload 2 1
      = e ∧ fld r.payload 3 1 = n) ∧
    (∃ (s : State) (r : Request) (p : Nat) (v : Nat) (n : Nat), fld r.payload 0 1 = p ∧ p < 16 ∧ fld r.payload 1 1 = 0 ∧
      fld r.payload 2 2 = v ∧ fld r.payload 4 2 = n ∧ fld r.payload 6 2 = 0 ∧ 1 ≤ n ∧ n ≤ 1024 ∧ v + n ≤ 1024 ∧ s.asks r
      0x0E03) ∧
    (∃ (s : State) (r : Request) (p : Nat) (v : Nat) (n : Nat), fld r.payload 0 1 = p ∧ p < 16 ∧ fld r.payload 1 1 = 0 ∧
      fld r.payload 2 2 = v ∧ fld r.payload 4 2 = n ∧ fld r.payload 6 2 = 0 ∧ 1 ≤ n ∧ n ≤ 1024 ∧ v + n ≤ 1024 ∧ s.asks r
      0x0E04 ∧ r.payload.length = 8) ∧
    (∃ (s : State) (r : Request), s.asks r 0x0E05) :=
  ⟨⟨{ up with cfg := { up.cfg with firebreaks := [(64 * 0x2000 + 5, { valid := true, limit := 2 ^ 64, r := true })] } },
    0x2000, 1, 5, 8, 0x1000, by decide⟩,
   ⟨up, 0x2000, 1, 5, 8, 0x1000, by decide⟩,
   ⟨up.ask (rq 0x0E01 (leBytes 2 0x10F ++ [62, 2] ++ zeros 36)),
    rq 0x0E01 (leBytes 2 0x10F ++ [62, 2] ++ zeros 36), 0x10F, 62,
    2, by decide⟩,
   ⟨up.ask (rq 0x0E02 (leBytes 2 0x10F ++ [62, 2])), rq 0x0E02 (leBytes 2 0x10F ++ [62, 2]), 0x10F, 62, 2, by decide⟩,
   ⟨up.ask (rq 0x0E03 ([15, 0] ++ leBytes 2 1023 ++ leBytes 2 1 ++ [0, 0, 3])),
    rq 0x0E03 ([15, 0] ++ leBytes 2 1023 ++ leBytes 2 1 ++ [0, 0, 3]),
    15, 1023, 1, by decide⟩,
   ⟨up.ask (rq 0x0E04 ([15, 0] ++ leBytes 2 0 ++ leBytes 2 1024 ++ [0, 0])),
    rq 0x0E04 ([15, 0] ++ leBytes 2 0 ++ leBytes 2 1024 ++ [0, 0]),
    15, 0, 1024, by decide⟩,
   ⟨up.ask (rq 0x0E05 (zeros 8)), rq 0x0E05 (zeros 8), by decide⟩⟩

def bigKey : List Byte := [2, 0, 0, 0] ++ zeros 1793
def endedOp : EndedOp := ⟨9, 0x0A08, operator, 0, 1, 1, 5⟩
/-- What `Obligations.SecurityCommands` supposes can be met, clause by clause. -/
theorem meets_SecurityCommands :
    (∃ (s : State) (r : Request), s.asks r 0x0A02) ∧
    (∃ (s : State) (r : Request) (m : Nat) (x : Nat), s.asks r 0x0A03 ∧ r.payload.length = 44 ∧ fld r.payload 0 1 = m ∧ m ≤
      17 ∧ fld r.payload 1 1 = x ∧ x ≤ 1 ∧ fld r.payload 2 2 = 0 ∧ (x = 1 → fld r.payload 4 40 = 0)) ∧
    (∃ (s : State) (r : Request) (k : Nat), s.asks r 0x0A04 ∧ r.payload.length = 1797 ∧ fld r.payload 0 1 = k ∧ fld
      r.payload 1 3 = 0) ∧
    (∃ (s : State) (r : Request) (k : Nat) (v : Nat), s.asks r 0x0A05 ∧ r.payload.length = 8 ∧ fld r.payload 0 1 = k ∧ fld
      r.payload 1 3 = 0 ∧ fld r.payload 4 4 = v) ∧
    (∃ (s : State) (r : Request) (m : Nat) (n : Nat), s.asks r 0x0A06 ∧ r.payload.length = 8 ∧ fld r.payload 0 2 = m ∧ m ≠
      0 ∧ fld r.payload 2 2 = 0 ∧ fld r.payload 4 4 = n ∧ n ≤ 86400) ∧
    (∃ (s : State), s.serving = true) ∧
    (∃ (s : State) (g : Nat) (e : Nat), SMap.get s.sec.debug g = some e) ∧
    (∃ (s : State) (r : Request), s.asks r 0x0A07) ∧
    (∃ (s : State) (r : Request), s.asks r 0x0A0A) ∧
    (∃ (s : State) (r : Request), s.asks r 0x0A08) ∧
    (∃ (s : State) (h : Nat) (o : LongOp) (b : List Byte), s.serving = true ∧ s.turns h o ∧ o.cancel = false ∧ o.data =
      .attest b) ∧
    (∃ (s : State) (r : Request) (h : Nat), s.asks r 0x0A09 ∧ fld r.payload 0 4 = h) :=
  ⟨⟨up.ask (rq 0x0A02 (zeros 1568)), rq 0x0A02 (zeros 1568), by decide⟩,
   ⟨up.ask (rq 0x0A03 ([17, 0, 0, 0] ++ zeros 40)), rq 0x0A03 ([17, 0, 0, 0] ++ zeros 40), 17, 0, by decide⟩,
   ⟨up.ask (rq 0x0A04 bigKey), rq 0x0A04 bigKey, 2, by decide⟩,
   ⟨up.ask (rq 0x0A05 (zeros 8)), rq 0x0A05 (zeros 8), 0, 0, by decide⟩,
   ⟨up.ask (rq 0x0A06 (leBytes 2 8 ++ zeros 2 ++ leBytes 4 86400)),
    rq 0x0A06 (leBytes 2 8 ++ zeros 2 ++ leBytes 4 86400), 8, 86400,
    by decide⟩,
   ⟨up.ask (rq 0x0A02 (zeros 1568)), by decide⟩,
   ⟨{ up with sec := { up.sec with debug := [(3, 5000000000)] } }, 3, 5000000000, by decide⟩,
   ⟨up.ask (rq 0x0A07 (zeros 4)), rq 0x0A07 (zeros 4), by decide⟩,
   ⟨up.ask (rq 0x0A0A []), rq 0x0A0A [], by decide⟩,
   ⟨up.ask (rq 0x0A08 (zeros 32)), rq 0x0A08 (zeros 32), by decide⟩,
   ⟨up.busyWith (lop (.attest (zeros 32)) 0 0x0A08), 1, lop (.attest (zeros 32)) 0 0x0A08, zeros 32, by decide⟩,
   ⟨(up.busyWith (lop (.attest (zeros 32)) 0 0x0A08)).ask (rq 0x0A09 (leBytes 4 1)), rq 0x0A09 (leBytes 4 1), 1, by decide⟩⟩

def timeReq : Request := { rq 0x0B02 (zeros 8 ++ leBytes 8 4000000000) with mb := 1 }
def timed (x : TimeSt) (c : TimeCfg) : State := { up with tm := x, cfg := { up.cfg with time := c }, board := { up.board with sysref := true } }
def tcfg : TimeCfg := ⟨2, true, 0xFFFF, 200, 60000, 1000000000, 5⟩
/-- What `Obligations.DeviceTime` supposes can be met, clause by clause. -/
theorem meets_DeviceTime :
    (∃ (s : State) (r : Request) (c : TimeCfg), s.asks r 0x0B01 ∧ r.payload.length = 16 ∧ fld r.payload 1 1 ≤ 1 ∧ c = ⟨fld
      r.payload 0 1, bit (fld r.payload 1 1) 0, fld r.payload 2 2, fld r.payload 4 2, fld r.payload 6 2, fld r.payload 8 4,
      BitVec.ofNat 32 (fld r.payload 12 4)⟩ ∧ c.source ≤ 2 ∧ 1 ≤ c.slewPpm ∧ c.slewPpm ≤ 200 ∧ 100 ≤ c.holdMs ∧ c.holdMs ≤
      60000 ∧ 1000 ≤ c.stepNs ∧ c.stepNs ≤ 1000000000) ∧
    (∃ (s : State) (r : Request), s.asks r 0x0B02 ∧ r.payload.length = 16 ∧ fld r.payload 0 1 = 0 ∧ fld r.payload 1 7 = 0) ∧
    (∃ (s : State), s.tb.events = [] ∧ s.clr = []) ∧
    (∃ (d : Int), 0 < d ∧ d < 4000) ∧
    (∃ (d : Int), -4000 < d ∧ d < 0) ∧
    (∃ (k : Int), -2147483648 ≤ k ∧ k ≤ 2147483647) ∧
    (∃ (s : State) (r : Request), s.asks r 0x0B02 ∧ r.payload.length = 16 ∧ fld r.payload 0 1 = 1 ∧ fld r.payload 1 7 = 0) ∧
    (∃ (s : State), s.serving = true) ∧
    (∃ (s : State) (r : Request), s.asks r 0x0B03 ∧ r.payload.length = 12 ∧ (sfld r.payload 8 4).natAbs ≤ 51200000) ∧
    (∃ (f : Int), -51200000 ≤ f ∧ f ≤ 51200000) ∧
    (∃ (s : State) (d : Int), (d.natAbs ≤ 4 * s.cfg.time.stepNs ∨ s.cfg.time.autoStep = false)) ∧
    (∃ (s : State) (d : Int), 4 * s.cfg.time.stepNs < d.natAbs ∧ s.cfg.time.autoStep = true) ∧
    (∃ (t : TimeSt), 0 ≤ t.slew) ∧
    (∃ (s : State) (r : Request), s.asks r 0x0B04) ∧
    (∃ (s : State), s.serving = true) ∧
    (∃ (s : State) (v : Nat), s.tm.state ≠ v) ∧
    (∃ (s : State) (v : Nat), s.tm.state = v) :=
  ⟨⟨(timed {} tcfg).ask (rq 0x0B01 ([2, 1] ++ leBytes 2 0xFFFF ++ leBytes 2 200 ++ leBytes 2 60000 ++ leBytes 4 1000000000 ++ leBytes 4 5)),
    rq 0x0B01 ([2, 1] ++ leBytes 2 0xFFFF ++ leBytes 2 200 ++ leBytes 2 60000 ++ leBytes 4 1000000000 ++ leBytes 4 5),
    tcfg, by decide⟩,
   ⟨(timed {} tcfg).ask (rq 0x0B02 (zeros 8 ++ leBytes 8 4000000000)),
    rq 0x0B02 (zeros 8 ++ leBytes 8 4000000000), by decide⟩,
   ⟨(timed {} tcfg).ask (rq 0x0B01 ([2, 1] ++ leBytes 2 0xFFFF ++ leBytes 2 200 ++ leBytes 2 60000 ++ leBytes 4 1000000000 ++ leBytes 4 5)),
    by decide⟩,
   ⟨1, by decide⟩,
   ⟨-3999, by decide⟩,
   ⟨0, by decide⟩,
   ⟨(timed {} tcfg).ask (rq 0x0B02 ([1] ++ zeros 7 ++ leBytes 8 4000000000)),
    rq 0x0B02 ([1] ++ zeros 7 ++ leBytes 8 4000000000), by decide⟩,
   ⟨(timed {} tcfg).ask (rq 0x0B01 ([2, 1] ++ leBytes 2 0xFFFF ++ leBytes 2 200 ++ leBytes 2 60000 ++ leBytes 4 1000000000 ++ leBytes 4 5)),
    by decide⟩,
   ⟨(timed {} tcfg).ask (rq 0x0B03 (leBytes 8 4000 ++ leBytes 4 51200000)),
    rq 0x0B03 (leBytes 8 4000 ++ leBytes 4 51200000), by decide⟩,
   ⟨0, by decide⟩,
   ⟨(timed {} tcfg).ask (rq 0x0B01 ([2, 1] ++ leBytes 2 0xFFFF ++ leBytes 2 200 ++ leBytes 2 60000 ++ leBytes 4 1000000000 ++ leBytes 4 5)),
    0, by decide⟩,
   ⟨up, 4000001, by decide⟩,
   ⟨{}, by decide⟩,
   ⟨up.ask (rq 0x0B04 []), rq 0x0B04 [], by decide⟩,
   ⟨(timed {} tcfg).ask (rq 0x0B01 ([2, 1] ++ leBytes 2 0xFFFF ++ leBytes 2 200 ++ leBytes 2 60000 ++ leBytes 4 1000000000 ++ leBytes 4 5)),
    by decide⟩,
   ⟨timed { pendingSet := some (5, 6, rq 0 []) } tcfg, 5, by decide⟩,
   ⟨(timed {} tcfg).ask (rq 0x0B01 ([2, 1] ++ leBytes 2 0xFFFF ++ leBytes 2 200 ++ leBytes 2 60000 ++ leBytes 4 1000000000 ++ leBytes 4 5)),
    0, by decide⟩⟩

def bank : LocWord := locLeaf 3 0x04 0 5
/-- What `Obligations.FaultRows` supposes can be met, clause by clause. -/
theorem meets_FaultRows :
    (∃ (s : State), s.running = true) ∧
    (∃ (l : LocWord), l.kind = 0x21) ∧
    (∃ (l : LocWord), l.kind = 0x08) ∧
    (∃ (s : State), s.running = true) ∧
    (∃ (s : State) (l : LocWord) (c : Nat), s.locPresent l = true ∧ 1 ≤ c ∧ c ≤ 3 ∧ s.hl.retired.contains l = false ∧
      s.isFenced l.kind (locScope l) l.unit = false ∧ (c = 2 → s.rateReached l = true)) ∧
    (∃ (s : State) (l : LocWord) (c : Nat), (s.locPresent l = false ∨ s.hl.retired.contains l = true ∨ c = 0 ∨ 3 < c ∨
      s.isFenced l.kind (locScope l) l.unit = true ∨ (c = 2 ∧ s.rateReached l = false))) ∧
    (∃ (s : State) (l : LocWord), l.kind = 0x02 ∧ l.unit < 8 ∧ s.live 0x02 l.grove 8 = List.range 8) ∧
    (∃ (s : State), s.running = true) ∧
    (∃ (s : State), s.running = true) ∧
    (∃ (s : State) (g : Nat) (c : Nat), g < s.groves ∧ s.groveFailed g = false ∧ s.groveCause g c = true) ∧
    (∃ (s : State) (g : Nat) (c : Nat), (s.groves ≤ g ∨ s.groveFailed g = true ∨ s.groveCause g c = false)) :=
  ⟨⟨up, by decide⟩,
   ⟨⟨1, 0, 0, 0x21, 0, 0⟩, by decide⟩,
   ⟨⟨1, 0, 3, 0x08, 0, 5⟩, by decide⟩,
   ⟨up, by decide⟩,
   ⟨up, ⟨1, 0, 3, 0x04, 0, 5⟩, 1, by decide⟩,
   ⟨up, ⟨1, 0, 3, 0x04, 0, 5⟩, 0, by decide⟩,
   ⟨up, ⟨2, 0, 3, 0x02, 5, 0⟩, by decide⟩,
   ⟨up, by decide⟩,
   ⟨up, by decide⟩,
   ⟨up, 3, 4, by decide⟩,
   ⟨up, 0, 0, by decide⟩⟩

def wd (h : HealthSt) : State := { up with hl := h }
/-- What `Obligations.WardenAndHealth` supposes can be met, clause by clause. -/
theorem meets_WardenAndHealth :
    (∃ (c : Nat) (d : Nat), c ≤ 1 ∧ d ≤ 1) ∧
    (∃ (s : State) (r : Request), s.sl.accepted = some r ∧ s.tm.pendingSet = none ∧ s.clr = []) ∧
    (∃ (s : State) (o : LongOp) (i : Nat), s.activation = some (o, i)) ∧
    (∃ (s : State), s.serving = true) ∧
    (∃ (s : State), s.serving = true) ∧
    (∃ (s : State), s.nv.logRing = [] ∧ s.ret.logBuf = []) ∧
    (∃ (s : State) (r : Request), s.asks r 0x0D01) ∧
    (∃ (s : State) (g : Nat), s.groveFailed g = true) ∧
    (∃ (s : State) (r : Request), s.asks r 0x0D02) :=
  ⟨⟨0, 1, by decide⟩,
   ⟨up.ask (rq 0x0D01 []), rq 0x0D01 [], by decide⟩,
   ⟨up.busyWith (lop (.activate 1 0)), lop (.activate 1 0), 1, by decide⟩,
   ⟨up, by decide⟩,
   ⟨up, by decide⟩,
   ⟨wd { active := 1, warden0 := false }, by decide⟩,
   ⟨up.ask (rq 0x0D01 []), rq 0x0D01 [], by decide⟩,
   ⟨wd { failedGroves := [3] }, 3, by decide⟩,
   ⟨up.ask (rq 0x0D02 (zeros 8)), rq 0x0D02 (zeros 8), by decide⟩⟩

theorem meets_CommandsChangeOnlyTheirParts : ∃ (c : Instr) (s t : State) (p : Part), exec c s = .next t ∧ p ∉ touches c :=
  ⟨.opStatus, State.reset, State.reset, .mem, rfl, by decide⟩
theorem meets_StepsKeepMemoryTimeAndQueue : ∃ s t : State, step s = .next t ∧ Memory.wf s.mem = true :=
  ⟨{ State.reset with pending := [.opStatus] }, State.reset, rfl, by decide⟩
end Sys2Proof.Tests
end

section
/-! PROOF. The power and reset pins (02 R47 to R51, 03 R73, R76 to R78). First what the operations of these rows do to the
state: a STORE that is cut off, device time at power-up, and the link state of a host port when events fire; then one
equation per row. -/
namespace Sys2Proof.Machine

/-! ## STORE cut off (03 R87) -/

theorem cutStore_frame (s : State) (o : LongOp) : ∃ nv, s.cutStore o = { s with nv := nv } := by
  unfold State.cutStore
  split
  · exact ⟨_, rfl⟩
  · exact ⟨s.nv, rfl⟩
theorem foldl_cutStore_frame (l : List LongOp) (s : State) : ∃ nv, l.foldl State.cutStore s = { s with nv := nv } := by
  induction l generalizing s with
  | nil => exact ⟨s.nv, rfl⟩
  | cons o l ih =>
    obtain ⟨nv, h⟩ := cutStore_frame s o
    obtain ⟨nv', h'⟩ := ih (s.cutStore o)
    exact ⟨nv', by rw [List.foldl_cons, h', h]⟩
/-- Cutting STOREs off changes MRAM alone. -/
theorem cutStores_eq (s : State) : s.cutStores = { s with nv := s.cutStores.nv } := by
  obtain ⟨nv, h⟩ := foldl_cutStore_frame s.sl.ops s
  rw [State.cutStores, h]
/-- Without an operation in progress no STORE is cut off. -/
theorem cutStores_nv_of_idle {s : State} (h : s.sl.ops = []) : s.cutStores.nv = s.nv := by
  rw [State.cutStores, h, List.foldl_nil]

/-! ## Device time at power-up (20 R594, R605) -/

theorem freqDone_of_base (b : Int) (n : Nat) : ({ base := b } : TimeSt).freqDone n = 0 := by
  change (0 : Int) * Int.ofNat (n - 0) / 256000000000 = 0
  rw [Int.zero_mul, Int.zero_ediv]
theorem slewDone_of_base (b : Int) (n : Nat) : ({ base := b } : TimeSt).slewDone n = 0 := by
  unfold TimeSt.slewDone
  exact (if_neg (Int.lt_irrefl 0)).trans (Int.min_eq_left (Int.natCast_nonneg _))
/-- With a base that takes back the moment itself, and neither correction nor slew, the count is 0. -/
theorem time_eq_zero {s : State} (h : s.tm = { base := - Int.ofNat s.now }) : s.time = 0 := by
  rw [State.time, h, freqDone_of_base, slewDone_of_base, Int.add_zero, Int.add_zero, Int.add_right_neg, Int.zero_emod,
    Int.toNat_zero]

/-! ## Host ports: what an event leaves of a link -/

theorem port_setPort (s : State) (p q : Nat) (x : HostPort) : (s.setPort p x).port q = if q = p then x else s.port q := by
  split
  next h => rw [h]; exact SMap.getD_set_self ..
  next h => exact SMap.getD_set_ne _ _ _ _ _ h
theorem hostSend_port (s : State) (f q : Nat) (o : Out) :
    ∃ a b, (s.hostSend f o).port q = { s.port q with l1 := a, lastTraffic := b } := by
  change ∃ a b, (s.setPort (fnPort f) _).port q = _
  rw [port_setPort]
  split
  next h => exact h ▸ ⟨_, _, rfl⟩
  next => exact ⟨_, _, rfl⟩
theorem hostCtr_port (s : State) (p i q : Nat) : ∃ c, (s.hostCtr p i).port q = { s.port q with ctrs := c } := by
  rw [State.hostCtr, port_setPort]
  split
  next h => exact h ▸ ⟨_, rfl⟩
  next => exact ⟨_, rfl⟩
/-- A PME wakes a link from L1 and is counted; whether and how the link is up stays (12 R374, R378). -/
theorem pmeCause_port (s : State) (f q : Nat) :
    ∃ a b c, (s.pmeCause f).port q = { s.port q with l1 := a, lastTraffic := b, ctrs := c } := by
  unfold State.pmeCause
  dsimp only
  split
  · generalize hu : s.setFn f { s.fn f with pmeStatus := true, pmeLast := s.clk } = u
    have hport : u.port q = s.port q := hu ▸ rfl
    obtain ⟨a, b, hsend⟩ := hostSend_port u f q (.pme f)
    obtain ⟨c, hctr⟩ := hostCtr_port (u.hostSend f (.pme f)) (fnPort f) 15 q
    exact ⟨a, b, c, by rw [hctr, hsend, hport]⟩
  · exact ⟨_, _, _, rfl⟩
theorem fireDev_port (s : State) (p k ty : Nat) (d : W32) (q : Nat) :
    ∃ a b c, (s.fireDev p k ty d).port q = { s.port q with l1 := a, lastTraffic := b, ctrs := c } := by
  unfold State.fireDev State.fire
  dsimp only
  split
  · exact pmeCause_port _ _ q
  · exact ⟨_, _, _, rfl⟩

/-! ## A link that trains (03 R71, R73) -/

/-- The port of a link that has trained, before its event fires. -/
def HostPort.raised (x : HostPort) (l : HostLink) (full : Bool) (clk : Nat) : HostPort :=
  { x with
    up := true, rate := l.rate, width := l.width, trained := l.width, flit := l.flit, sris := l.sris, full := full
    lastTraffic := clk, l23 := false }
/-- A port that is not lost, of a stand that is not held, trains; the event fires once the device serves. -/
theorem linkRaise_eq {s : State} {p : Nat} (l : HostLink) (hf : s.isFenced 0x0A p 0 = false)
    (hh : SMap.getD s.board.standHeld (p / 4) false = false) : s.linkRaise p l =
      let u := s.setPort p ((s.port p).raised l s.serving s.clk)
      if s.serving then u.fireDev p 1 Ev.hostLinkUp (BitVec.ofNat 32 (2 ^ 20 * l.rate + 2 ^ 15 * l.width + p)) else u := by
  rw [State.linkRaise, if_neg (by simp [hf, hh])]
  rfl
/-- A port that is lost, or of a held stand, does not train. -/
theorem linkRaise_of_lost {s : State} {p : Nat} (l : HostLink)
    (h : s.isFenced 0x0A p 0 = true ∨ SMap.getD s.board.standHeld (p / 4) false = true) : s.linkRaise p l = s := by
  rw [State.linkRaise, if_pos (by simpa using h)]
/-- What the port holds once its link has trained: its event takes nothing back. -/
theorem linkRaise_port {s : State} {p : Nat} (l : HostLink) (hf : s.isFenced 0x0A p 0 = false)
    (hh : SMap.getD s.board.standHeld (p / 4) false = false) :
    ∃ a b c, (s.linkRaise p l).port p =
      { (s.port p).raised l s.serving s.clk with l1 := a, lastTraffic := b, ctrs := c } := by
  have hset : (s.setPort p ((s.port p).raised l s.serving s.clk)).port p = (s.port p).raised l s.serving s.clk := by
    rw [port_setPort, if_pos rfl]
  rw [linkRaise_eq l hf hh]
  dsimp only
  split
  · obtain ⟨a, b, c, hfire⟩ := fireDev_port (s.setPort p ((s.port p).raised l s.serving s.clk)) p 1 Ev.hostLinkUp
      (BitVec.ofNat 32 (2 ^ 20 * l.rate + 2 ^ 15 * l.width + p)) p
    exact ⟨a, b, c, by rw [hfire, hset]⟩
  · exact ⟨_, _, _, hset⟩
/-- Link training changes host ports, and the event controller and outputs by its event. -/
theorem linkRaise_frame (s : State) (p : Nat) (l : HostLink) :
    ∃ hp ev out, s.linkRaise p l = { s with hp := hp, ev := ev, out := out } := by
  unfold State.linkRaise
  split
  · exact ⟨s.hp, s.ev, s.out, rfl⟩
  · dsimp only
    split
    · obtain ⟨ev, hp, out, h⟩ := fireDev_frame (s.setPort p ((s.port p).raised l s.serving s.clk)) p 1 Ev.hostLinkUp
        (BitVec.ofNat 32 (2 ^ 20 * l.rate + 2 ^ 15 * l.width + p))
      exact ⟨hp, ev, out, h⟩
    · exact ⟨_, s.ev, s.out, rfl⟩

/-! ## The rows (02 R47 to R51, 03 R73, R76 to R78) -/

theorem exec_coldPowerUp {s : State} (h : s.board.vaux = false) : exec .coldPowerUp s = .next { s with
    board := { s.board with
      vaux := true, retainedValid := false, squelched := true, dmaStopped := true, vcore := [], avsTarget := [] }
    boot := { s.boot with phase := .off, nextStart := .cold }
    ret := {}, hp := {}, tm := { base := - Int.ofNat s.now } } := by
  change execColdPowerUp s = _
  rw [execColdPowerUp, if_neg (by simp [h])]
  rfl
/-- Only the number of the next log record is carried over, from the ring in MRAM (21 R623). -/
theorem exec_vauxLoss {s : State} (h : s.board.vaux = true) : ∃ n, exec .vauxLoss s = .next { s with
    board := { s.board with
      vaux := false, pwrGood := false, retainedValid := false, squelched := true, dmaStopped := true
      therm := false, wake := [] }
    boot := { s.boot with phase := .off, nextStart := .cold, resetAt := none }
    ret := { logSeq := n }, sl := {}, nv := s.cutStores.nv, hp := {}
    out := if s.board.therm = true then s.out ++ [.therm false] else s.out } := by
  change ∃ n, execVauxLoss s = _
  rw [execVauxLoss, if_neg (by simp [h]), cutStores_eq]
  cases ht : s.board.therm with
  | true => exact ⟨_, congrArg Host.Outcome.next (by simp only [State.quiet, State.setBoard, ht, if_true]; rfl)⟩
  | false => exact ⟨_, congrArg Host.Outcome.next (by simp only [State.quiet, State.setBoard, ht]; rfl)⟩
theorem exec_pwrGoodRise {s : State} (m : BootReads) (hv : s.board.vaux = true) (hg : s.board.pwrGood = false) :
    exec (.pwrGoodRise m) s =
      let u := s.setBoard fun b => { b with pwrGood := true, vcore := [], standHeld := [] }
      .next (if s.board.sysRstN then u.restart m (if s.board.retainedValid then .warm else .cold) else u.quiet .held) := by
  change execPwrGoodRise m s = _
  rw [execPwrGoodRise, if_neg (by simp [hv, hg])]
  rfl
theorem exec_pwrGoodFall {s : State} (h : s.board.pwrGood = true) : exec .pwrGoodFall s = .next { s with
    board := { s.board with pwrGood := false, squelched := true, dmaStopped := true }
    boot := { s.boot with phase := .off }
    sl := {}, nv := s.cutStores.nv, hp := s.hp.sticky } := by
  change execPwrGoodFall s = _
  rw [execPwrGoodFall, if_neg (by simp [h]), cutStores_eq]
  rfl
theorem exec_sysRstAssert_of_on {s : State} (h : ¬ (s.boot.phase = .off ∨ s.boot.phase = .halted ∨ s.boot.phase = .held)) :
    exec .sysRstAssert s = .next { s with
      board := { s.board with sysRstN := false, squelched := true, dmaStopped := true }
      boot := { s.boot with phase := .held }
      sl := {}, nv := { s with board := { s.board with sysRstN := false } }.cutStores.nv, hp := s.hp.sticky } := by
  refine congrArg Host.Outcome.next ((if_neg h).trans ?_)
  rw [cutStores_eq]
  rfl
theorem exec_sysRstAssert_of_stopped {s : State} (h : s.boot.phase = .off ∨ s.boot.phase = .halted ∨ s.boot.phase = .held) :
    exec .sysRstAssert s = .next { s with board := { s.board with sysRstN := false } } :=
  congrArg Host.Outcome.next (if_pos h)
theorem exec_perstAssert {s : State} {p : Nat} (hp : p < s.groves) (hn : SMap.getD s.board.perstN p false = true) :
    exec (.perstAssert p) s =
      let u := { s with board := { s.board with perstN := SMap.set s.board.perstN p false } }
      .next (if (s.port p).up then u.linkLost p 1 else u.resetPort p) := by
  change execPerstAssert p s = _
  rw [execPerstAssert, if_neg (by simp [hn, hp])]
  rfl
theorem releaseWake_boot (s : State) (p : Nat) : (s.releaseWake p).boot = s.boot := by
  unfold State.releaseWake
  split <;> rfl
theorem exec_perstRelease {s : State} {p : Nat} (l : HostLink) (hp : p < s.groves)
    (hn : SMap.getD s.board.perstN p false = false) : exec (.perstRelease p l.rate l.toLinkForm) s =
      let u := { s with board := { s.board with perstN := SMap.set s.board.perstN p true } }.releaseWake p
      .next (if (s.serving = true ∨ s.boot.phase = .booting) ∧ linkForm l = true then u.linkRaise p l else u) := by
  change execPerstRelease p l.rate l.toLinkForm s = _
  rw [execPerstRelease, if_neg (by simp [hn, hp])]
  simp only [State.serving, releaseWake_boot]
  rfl

/-- Settles O6, row by row: the equation of the row, and what each clause reads off it. -/
theorem powerAndResetPins : Obligations.PowerAndResetPins := by
  unfold Obligations.PowerAndResetPins
  refine ⟨?cold, ?vauxLoss, ?rise, ?fall, ?assertOn, fun _ => exec_sysRstAssert_of_stopped, fun _ _ => rfl,
    fun _ _ => exec_perstAssert, fun _ _ l => exec_perstRelease l, ?trains, fun _ _ l => linkRaise_of_lost l⟩
  case cold => exact fun s h => ⟨_, exec_coldPowerUp h, rfl, rfl, rfl, rfl, time_eq_zero rfl, rfl, rfl⟩
  case vauxLoss =>
    intro s h
    obtain ⟨n, e⟩ := exec_vauxLoss h
    exact ⟨_, e, rfl, rfl, rfl, rfl, rfl, rfl, rfl, cutStores_nv_of_idle, rfl, rfl⟩
  case rise => exact fun s m => exec_pwrGoodRise m
  case fall =>
    exact fun s h => ⟨_, exec_pwrGoodFall h, rfl, rfl, rfl, rfl, fun _ => rfl, rfl, cutStores_nv_of_idle, rfl⟩
  case assertOn =>
    intro s hoff hhalted hheld
    exact ⟨_, exec_sysRstAssert_of_on (by simp [hoff, hhalted, hheld]), rfl, rfl, rfl, rfl, rfl,
      cutStores_nv_of_idle (s := { s with board := { s.board with sysRstN := false } }), rfl⟩
  case trains =>
    intro s p l hf hh
    obtain ⟨a, b, c, hport⟩ := linkRaise_port l hf hh
    obtain ⟨hp, ev, out, hframe⟩ := linkRaise_frame s p l
    exact ⟨by rw [hport]; rfl, by rw [hport]; rfl, by rw [hport]; rfl, by rw [hport]; rfl, by rw [hframe]⟩

end Sys2Proof.Machine
end

section
/-! PROOF. The instructions of a sapling (06 R166 to R171, R179). First what a replaced field leaves of a word, then the
fields of the key and the bytes placed in it, and what an instruction row does where a thread stands at a valid word of its
opcode. -/
namespace Sys2Proof.Machine

/-! ## Fields replaced in a word -/

/-- The mask of a field has its bits set and no others. -/
theorem getLsbD_fieldMask (w hi lo i : Nat) :
    (BitVec.ofNat w (2 ^ (hi + 1 - lo) - 1) <<< lo).getLsbD i = decide (lo ≤ i ∧ i ≤ hi ∧ i < w) := by
  rw [BitVec.getLsbD_shiftLeft, BitVec.getLsbD_ofNat, Nat.testBit_two_pow_sub_one, Bool.eq_iff_iff]
  simp only [Bool.and_eq_true, Bool.not_eq_true', decide_eq_true_eq, decide_eq_false_iff_not]
  omega
/-- Within its span a replaced field reads as the value's bits, elsewhere the word is as it was. -/
theorem getLsbD_setBits {w : Nat} (m : BitVec w) (hi lo v i : Nat) : (setBits m hi lo v).getLsbD i =
    if lo ≤ i ∧ i ≤ hi ∧ i < w then v.testBit (i - lo) else m.getLsbD i := by
  simp only [setBits, BitVec.getLsbD_or, BitVec.getLsbD_and, BitVec.getLsbD_not, getLsbD_fieldMask]
  split
  next h =>
    have hsub : i - lo < w := by omega
    rw [decide_eq_true h, BitVec.getLsbD_shiftLeft, BitVec.getLsbD_ofNat]
    obtain ⟨hlo, -, hw⟩ := h
    simp [hw, hsub, Nat.not_lt.mpr hlo]
  next h =>
    rw [decide_eq_false h, Bool.and_false, Bool.or_false, Bool.not_false, Bool.and_true]
    by_cases hw : i < w
    · rw [decide_eq_true hw, Bool.and_true]
    · rw [BitVec.getLsbD_of_ge m i (Nat.not_lt.mp hw), Bool.false_and]

/-! ## The key (06 R170) -/

theorem getLsbD_keyField (key : BitVec 512) (w v : W64) (i : Nat) :
    let n := if eBits w 47 42 = 0 then 64 else eBits w 47 42
    (keyField key w v).getLsbD i =
      if eBits w 40 32 ≤ i ∧ i < eBits w 40 32 + n ∧ i < 512 then v.getLsbD (i - eBits w 40 32) else key.getLsbD i := by
  intro n
  have hn : 0 < n := by
    dsimp only [n]
    split <;> omega
  have hspan : eBits w 40 32 ≤ i ∧ i ≤ eBits w 40 32 + n - 1 ∧ i < 512 ↔
      eBits w 40 32 ≤ i ∧ i < eBits w 40 32 + n ∧ i < 512 := by omega
  change (setBits key (eBits w 40 32 + n - 1) (eBits w 40 32) (v.toNat % 2 ^ n)).getLsbD i = _
  simp only [getLsbD_setBits, hspan]
  split
  next h =>
    have hin : i - eBits w 40 32 < n := by omega
    rw [Nat.testBit_mod_two_pow, decide_eq_true hin, Bool.true_and, BitVec.testBit_toNat]
  next => rfl
/-- Key byte `j` of the key register file. -/
def keyByte (key : BitVec 512) (j : Nat) : Byte := key.extractLsb' (504 - 8 * j) 8
theorem keyByte_setKeyByte (key : BitVec 512) {k j : Nat} (b : Byte) (hk : k < 64) (hj : j < 64) :
    keyByte (setKeyByte key k b) j = if j = k then b else keyByte key j := by
  refine BitVec.eq_of_getLsbD_eq fun i hi => ?_
  simp only [keyByte, setKeyByte, BitVec.getLsbD_extractLsb', getLsbD_setBits]
  by_cases h : j = k
  · subst h
    have hin : 504 - 8 * j ≤ 504 - 8 * j + i ∧ 504 - 8 * j + i ≤ 511 - 8 * j ∧ 504 - 8 * j + i < 512 := by omega
    simp [hin, hi, BitVec.testBit_toNat]
  · have hout : ¬ (504 - 8 * k ≤ 504 - 8 * j + i ∧ 504 - 8 * j + i ≤ 511 - 8 * k ∧ 504 - 8 * j + i < 512) := by omega
    rw [if_neg hout, if_neg h, BitVec.getLsbD_extractLsb']
/-- Bytes placed in the key stand in it in their order, and the key bytes before and after them are as they were. -/
theorem keyByte_putKey (key : BitVec 512) {k j : Nat} (b : List Byte) (hk : k + b.length ≤ 64) (hj : j < 64) :
    keyByte (putKey key k b) j = if k ≤ j then b.getD (j - k) (keyByte key j) else keyByte key j := by
  induction b generalizing key k with
  | nil => simp [putKey]
  | cons x b ih =>
    rw [List.length_cons] at hk
    rw [putKey, ih (setKeyByte key k x) (by omega), keyByte_setKeyByte key x (by omega) hj]
    rcases Nat.lt_trichotomy j k with hlt | rfl | hgt
    · rw [if_neg (by omega), if_neg (by omega), if_neg (by omega)]
    · rw [if_neg (by omega), if_pos rfl, if_pos (Nat.le_refl j), Nat.sub_self, List.getD_cons_zero]
    · rw [if_pos (by omega), if_neg (by omega), if_pos (by omega), show j - k = j - (k + 1) + 1 by omega,
        List.getD_cons_succ]

/-! ## Words that are not valid (06 R166, R167) -/

theorem toNat_imm (w : W64) : (imm w).toNat = eBits w 31 0 := by
  have h : eBits w 31 0 < 2 ^ 32 := Nat.mod_lt _ (by decide)
  rw [imm, BitVec.toNat_ofNat, Nat.mod_eq_of_lt (by omega)]
theorem wordValid_of_fieldBad {w : W64} (h : fieldBad w = true) : wordValid w = false := by
  unfold wordValid
  split
  · simp [h]
  · rfl
theorem wordValid_of_shift_above_63 {w : W64} (ho : opOf w = 0x35 ∨ opOf w = 0x36) (h : 63 < (imm w).toNat) :
    wordValid w = false := by
  rw [toNat_imm] at h
  apply wordValid_of_fieldBad
  rcases ho with ho | ho <;> simp [fieldBad, ho, h]

/-! ## The row of an opcode (06 R168, R174) -/

/-- The window bytes of the frame that a context parses (06 R161). -/
def State.windowOf (s : State) (c : Ctx) : List Byte := (s.frame c.tag).elim [] fun f => f.bytes.take (windowLen f)
section
variable {s : State} {t : Thr} {c c' : Ctx} {w : W64} {op : Nat} {f : SpOp}

/-- At a valid word of its opcode a row acts on the context that has counted the instruction and moved on. -/
theorem spRow_of_standsAt (h : s.standsAt t c w) (ho : opOf w = op) :
    spRow t op f s = .next
      ((f c.next w (s.windowOf c)).elim (s.parseFault t c 4 c.pc (c.count + 1)) (s.setCtx t)) := by
  obtain ⟨hrun, hword, hgood, hvalid⟩ := h
  unfold spRow whenRunning
  rw [if_pos hrun]
  dsimp only
  rw [hword]
  dsimp only
  rw [if_neg (by simp [hgood]), if_neg (by simp [ho]), if_neg (by simp [hvalid])]
  change Host.Outcome.next (match f c.next w (s.windowOf c) with | some c' => _ | none => _) = _
  cases f c.next w (s.windowOf c) <;> rfl
theorem spRow_of_some (h : s.standsAt t c w) (ho : opOf w = op) (hf : f c.next w (s.windowOf c) = some c') :
    spRow t op f s = .next (s.setCtx t c') := by
  simp [spRow_of_standsAt h ho, hf]
/-- A row that reads beyond its source is a WINDOW fault at its word (06 R169). -/
theorem spRow_of_none (h : s.standsAt t c w) (ho : opOf w = op) (hf : f c.next w (s.windowOf c) = none) :
    spRow t op f s = .next (s.parseFault t c 4 c.pc (c.count + 1)) := by
  simp [spRow_of_standsAt h ho, hf]

theorem opExt_of_le {src : List Byte} (big : Bool) (h : spAddr c w + (eBits w 46 44 + 1) ≤ src.length) :
    opExt c w src big = some (c.setReg (rd w) (extract w (if big then beNat (slice src (spAddr c w) (eBits w 46 44 + 1))
      else leNat (slice src (spAddr c w) (eBits w 46 44 + 1))))) :=
  if_pos h
theorem opExt_of_lt {src : List Byte} (big : Bool) (h : src.length < spAddr c w + (eBits w 46 44 + 1)) :
    opExt c w src big = none :=
  if_neg (Nat.not_le.mpr h)
theorem mdBytes_length (m : BitVec 1024) : (mdBytes m).length = 128 := leBytes_length 128 _
/-- BF is taken where BT is not. -/
theorem opBranch_not (p : Ctx → W64 → Bool) (b : List Byte) :
    opBranch (fun c w => !p c w) c w b = some (if p c w then c else { c with pc := eBits w 11 0 }) := by
  rw [opBranch]
  cases p c w <;> rfl
end

/-- Settles O16, row by row: each is what the row of its opcode does at a valid word of it. -/
theorem saplingInstructions : Obligations.SaplingInstructions := by
  unfold Obligations.SaplingInstructions
  refine ⟨?rows, fun _ => wordValid_of_shift_above_63, getLsbD_keyField, fun key _ _ b => keyByte_putKey key b⟩
  case rows =>
    intro s t c w h
    dsimp only [exec]
    refine ⟨?nop, ?add, ?sub, ?and, ?or, ?xor, ?shl, ?shr, ?addi, ?subi, ?andi, ?ori, ?xori, ?shli, ?shri, ?ldi,
      ?ext, ?extm, ?extFault, ?extmFault, ?keywFault, ?comp, ?compi, ?br, ?bt, ?bf, ?brx, ?key, ?keyi, ?keyw, ?emit, ?thint⟩
    case ext => exact fun ho hle => spRow_of_some h ho (opExt_of_le true hle)
    case extm => exact fun ho hle => spRow_of_some h ho (opExt_of_le false ((mdBytes_length c.md).symm ▸ hle))
    case extFault => exact fun ho hlt => spRow_of_none h ho (opExt_of_lt true hlt)
    case extmFault => exact fun ho hlt => spRow_of_none h ho (opExt_of_lt false ((mdBytes_length c.md).symm ▸ hlt))
    case keywFault => exact fun ho hlt => spRow_of_none h ho (if_neg (Nat.not_le.mpr hlt))
    case keyw => exact fun ho hle => spRow_of_some h ho (if_pos hle)
    case bf => exact fun ho => spRow_of_some h ho (opBranch_not _ _)
    -- The rest compute the context after them outright.
    all_goals exact fun ho => spRow_of_some h ho rfl

end Sys2Proof.Machine
end

section
/-! PROOF. The inner nodes of a tree (07 R192 to R195): the fields of a node and the slices of a key, an equation per kind
of node for what the format allows, for the number of its children and for the child that a key selects, and the step of a
walk from an inner node to that child (R197). -/
namespace Sys2Proof.Machine

/-! ## Fields of a node and slices of a key -/

/-- Fields are read as spans from `hi` to `lo`, the obligation's from `lo` with a width. -/
theorem toNat_extractLsb'_eq_eBits {v w : Nat} (x : BitVec v) (lo : Nat) (hw : 0 < w) :
    (x.extractLsb' lo w).toNat = eBits x (lo + w - 1) lo := by
  rw [BitVec.extractLsb'_toNat, Nat.shiftRight_eq_div_pow, eBits, bits, show lo + w - 1 + 1 - lo = w by omega]
theorem extractLsb'_eq_iff_eBits {v w : Nat} (x : BitVec v) (lo : Nat) (y : BitVec w) (hw : 0 < w) :
    x.extractLsb' lo w = y ↔ eBits x (lo + w - 1) lo = y.toNat := by
  rw [← toNat_extractLsb'_eq_eBits x lo hw, BitVec.toNat_inj]
theorem extractLsb'_le_iff_eBits {u v w : Nat} (x : BitVec u) (y : BitVec v) (i j : Nat) (hw : 0 < w) :
    x.extractLsb' i w ≤ y.extractLsb' j w ↔ eBits x (i + w - 1) i ≤ eBits y (j + w - 1) j := by
  rw [BitVec.le_def, toNat_extractLsb'_eq_eBits x i hw, toNat_extractLsb'_eq_eBits y j hw]
theorem decide_extractLsb'_le {u v w : Nat} (x : BitVec u) (y : BitVec v) (i j : Nat) (hw : 0 < w) :
    decide (x.extractLsb' i w ≤ y.extractLsb' j w) = decide (eBits x (i + w - 1) i ≤ eBits y (j + w - 1) j) :=
  decide_eq_decide.mpr (extractLsb'_le_iff_eBits x y i j hw)
/-- A slice of a key whose width may be 0, as that of slice B of a CUT node: `keySlice` asks for a bit at least. -/
def keySlice0 (key : BitVec 512) (off w : Nat) : Nat := if w = 0 then 0 else keySlice key off w
theorem keySlice0_of_pos (key : BitVec 512) (off : Nat) {w : Nat} (hw : 0 < w) : keySlice0 key off w = keySlice key off w :=
  if_neg (Nat.ne_of_gt hw)
theorem toNat_extractLsb'_eq_keySlice0 (key : BitVec 512) (off w : Nat) :
    (key.extractLsb' off w).toNat = keySlice0 key off w := by
  rcases Nat.eq_zero_or_pos w with rfl | hw
  · exact BitVec.toNat_of_zero_length rfl _
  · rw [keySlice0_of_pos key off hw]
    exact toNat_extractLsb'_eq_eBits key off hw
theorem keySlice0_lt (key : BitVec 512) (off w : Nat) : keySlice0 key off w < 2 ^ w :=
  toNat_extractLsb'_eq_keySlice0 key off w ▸ BitVec.isLt _

section
variable {n : BitVec 256} (key : BitVec 512)

/-! ## CUT (R193) -/

theorem nodeLegal_cut (hk : eBits n 255 254 = 0) : nodeLegal n = true ↔
    1 ≤ eBits n 225 222 ∧ eBits n 225 222 + eBits n 212 209 ≤ 12 ∧ eBits n 234 226 + eBits n 225 222 ≤ 512 ∧
      eBits n 221 213 + eBits n 212 209 ≤ 512 ∧ eBits n 208 0 = 0 := by
  simp [nodeLegal, hk, and_assoc]
theorem nodeChildren_cut (hk : eBits n 255 254 = 0) : nodeChildren n = 2 ^ (eBits n 225 222 + eBits n 212 209) := by
  simp [nodeChildren, hk]
/-- Slice B fits below slice A, so the sum that the model takes is the OR of the spec. -/
theorem childIndex_cut (hk : eBits n 255 254 = 0) (hw : 1 ≤ eBits n 225 222) :
    childIndex n key = keySlice0 key (eBits n 234 226) (eBits n 225 222) <<< eBits n 212 209 |||
      keySlice0 key (eBits n 221 213) (eBits n 212 209) := by
  rw [← Nat.shiftLeft_add_eq_or_of_lt (keySlice0_lt ..), keySlice0_of_pos _ _ hw, Nat.shiftLeft_eq]
  simp [childIndex, hk, keySlice0]

/-! ## COMPARE (R194) -/

theorem length_filter_cons {α : Type} (p : α → Bool) (x : α) (l : List α) :
    ((x :: l).filter p).length = b2n (p x) + (l.filter p).length := by
  cases h : p x <;> simp [h, b2n, Nat.add_comm]
theorem nodeLegal_compare (hk : eBits n 255 254 = 1) : nodeLegal n = true ↔
    eBits n 234 226 ≤ 480 ∧ eBits n 225 96 = 0 ∧ eBits n 95 64 ≤ eBits n 63 32 ∧ eBits n 63 32 ≤ eBits n 31 0 := by
  simp [nodeLegal, hk, and_assoc]
theorem nodeChildren_compare (hk : eBits n 255 254 = 1) : nodeChildren n = 4 := by
  simp [nodeChildren, hk]
/-- The thresholds that the slice reaches are counted one by one. -/
theorem childIndex_compare (hk : eBits n 255 254 = 1) :
    childIndex n key = ([n.extractLsb' 64 32, n.extractLsb' 32 32, n.extractLsb' 0 32].filter fun x =>
      decide (x ≤ key.extractLsb' (eBits n 234 226) 32)).length := by
  simp only [length_filter_cons, decide_extractLsb'_le, Nat.zero_lt_succ, childIndex, hk, Nat.add_assoc]
  rfl

/-! ## EQUAL (R195) -/

theorem nodeLegal_equal (hk : eBits n 255 254 = 2) : nodeLegal n = true ↔
    1 ≤ eBits n 225 218 ∧ eBits n 225 218 ≤ 192 ∧ eBits n 234 226 + eBits n 225 218 ≤ 512 ∧
      eBits n 217 192 = 0 ∧ eBits n 191 0 < 2 ^ eBits n 225 218 := by
  simp [nodeLegal, hk, and_assoc]
theorem nodeChildren_equal (hk : eBits n 255 254 = 2) : nodeChildren n = 2 := by
  simp [nodeChildren, hk]
theorem childIndex_equal (hk : eBits n 255 254 = 2) (hw : 1 ≤ eBits n 225 218) :
    childIndex n key = if keySlice0 key (eBits n 234 226) (eBits n 225 218) = eBits n 191 0 then 1 else 0 := by
  rw [keySlice0_of_pos _ _ hw]
  simp [childIndex, hk, b2n]

/-! ## The step of a walk to a child (R192, R197) -/

/-- The slot of the child that a key selects; a walk of number `l` reads copy `l` where the children are replicated. -/
def childSlot (n : BitVec 256) (key : BitVec 512) (l : Nat) : Nat :=
  eBits n 252 235 + childIndex n key + if n.getLsbD 253 then l * (nodeChildren n + 1) else 0
theorem descend_inner {h : TreeHalf} {l level : Nat} {x : BitVec 256} (fuel : Nat) (reads : List Nat)
    (hn : nodeLegal n = true) (hk : eBits n 255 254 ≠ 3) (hl : level ≠ 7) (hx : h.read (childSlot n key l) = some x) :
    h.descend key l (fuel + 1) level n reads = h.descend key l fuel (level + 1) x (reads ++ [childSlot n key l]) := by
  rw [childSlot] at hx ⊢
  simp only [TreeHalf.descend, hn, hk, hl, hx, Bool.not_true, Bool.false_eq_true, if_false]
end

/-- Settles O20, kind by kind of an inner node: what the format allows, its children and the child selected. -/
theorem treeNodeChildren : Obligations.TreeNodeChildren := by
  unfold Obligations.TreeNodeChildren
  intro n key hn
  simp only [extractLsb'_eq_iff_eBits, extractLsb'_le_iff_eBits (x := n) (y := n), toNat_extractLsb'_eq_eBits (x := n),
    toNat_extractLsb'_eq_keySlice0, Nat.zero_lt_succ, ne_eq]
  refine ⟨fun hk => ?cut, fun hk => ?compare, fun hk => ?equal, fun hk h l fuel level slot reads x hl hs hx => ?child⟩
  case cut =>
    obtain ⟨hwa, hwidth, -, -, hzero⟩ := (nodeLegal_cut hk).mp hn
    exact ⟨hwa, hwidth, hzero, nodeChildren_cut hk, childIndex_cut key hk hwa⟩
  case compare =>
    obtain ⟨hoff, hzero, hab, hbc⟩ := (nodeLegal_compare hk).mp hn
    exact ⟨hoff, hzero, hab, hbc, nodeChildren_compare hk, childIndex_compare key hk⟩
  case equal =>
    obtain ⟨hw, hw192, -, hzero, hval⟩ := (nodeLegal_equal hk).mp hn
    exact ⟨hw, hw192, hzero, hval, nodeChildren_equal hk, childIndex_equal key hk hw⟩
  case child =>
    subst hs
    exact descend_inner key fuel reads hn hk hl hx

end Sys2Proof.Machine
end

section
/-! PROOF. What every command keeps (00, 01, 20): each row's own law, put together over the command table; from it the
frame of a command, and what a step leaves of the state. -/
namespace Sys2Proof.Machine

/-! ## Sets of parts as masks -/

/-- The mask of a list of parts: a bit for each, in the order of `Part`. -/
def partsMask (l : List Part) : Parts := l.foldr (fun p m => BitVec.twoPow 26 p.ctorIdx ||| m) 0
theorem Part.ctorIdx_lt (p : Part) : p.ctorIdx < 26 := by
  cases p <;> decide
theorem Part.ctorIdx_inj {p q : Part} : p.ctorIdx = q.ctorIdx ↔ p = q := by
  cases p <;> cases q <;> decide
theorem getLsbD_partsMask (l : List Part) (p : Part) : (partsMask l).getLsbD p.ctorIdx = decide (p ∈ l) := by
  induction l with
  | nil => simp [partsMask]
  | cons q l ih =>
    change (BitVec.twoPow 26 q.ctorIdx ||| partsMask l).getLsbD p.ctorIdx = _
    rw [BitVec.getLsbD_or, BitVec.getLsbD_twoPow, ih]
    simp [q.ctorIdx_lt, Part.ctorIdx_inj, eq_comm]
/-- A part outside the mask is the same before and after. -/
theorem State.Keeps.same {m : Parts} {a b : State} (h : a.Keeps m b) {p : Part} (hp : m.getLsbD p.ctorIdx = false) :
    State.same p a b :=
  have hn := ne_true_of_eq_false hp
  match p with
  | .now => h.same_now.resolve_right hn
  | .free => h.same_free.resolve_right hn
  | .out => h.same_out.resolve_right hn
  | .board => h.same_board.resolve_right hn
  | .boot => h.same_boot.resolve_right hn
  | .nv => h.same_nv.resolve_right hn
  | .ret => h.same_ret.resolve_right hn
  | .cfg => h.same_cfg.resolve_right hn
  | .sl => h.same_sl.resolve_right hn
  | .et => h.same_et.resolve_right hn
  | .cn => h.same_cn.resolve_right hn
  | .ps => h.same_ps.resolve_right hn
  | .cl => h.same_cl.resolve_right hn
  | .tb => h.same_tb.resolve_right hn
  | .sv => h.same_sv.resolve_right hn
  | .nvc => h.same_nvc.resolve_right hn
  | .ra => h.same_ra.resolve_right hn
  | .ci => h.same_ci.resolve_right hn
  | .clr => h.same_clr.resolve_right hn
  | .sec => h.same_sec.resolve_right hn
  | .hp => h.same_hp.resolve_right hn
  | .qp => h.same_qp.resolve_right hn
  | .ev => h.same_ev.resolve_right hn
  | .tm => h.same_tm.resolve_right hn
  | .hl => h.same_hl.resolve_right hn
  | .mem => h.same_mem.resolve_right hn

/-! ## What every command keeps -/

/-- Every command keeps all but the parts that `touches` lists: row by row, the row's law, whose mask lies in that list. -/
theorem exec_keeps (c : Instr) (s : State) : s.KeepsR (partsMask (touches c)) (exec c s) := by
  have hs (m : Parts) : s.Keeps m s := Keeps.rfl' m s
  cases c
  all_goals simp only [touches]
  case coldPowerUp => exact execColdPowerUp_keeps (by decide) s (hs _)
  case vauxLoss => exact execVauxLoss_keeps (by decide) s (hs _)
  case pwrGoodRise => exact execPwrGoodRise_keeps (by decide) _ s (hs _)
  case pwrGoodFall => exact execPwrGoodFall_keeps (by decide) s (hs _)
  case standSupplyFault => exact execStandSupplyFault_keeps (by decide) _ s (hs _)
  case avsTargetCompute => exact execAvsTargetCompute_keeps (by decide) _ s (hs _)
  case avsStep => exact execAvsStep_keeps (by decide) _ _ _ s (hs _)
  case pmbAlert => exact execPmbAlert_keeps (by decide) _ s (hs _)
  case powerWindowEnd => exact execPowerWindowEnd_keeps (by decide) _ s (hs _)
  case thermalSensorRead => exact execThermalSensorRead_keeps (by decide) _ _ _ s (hs _)
  case sysrefLoss => exact execSysrefLoss_keeps (by decide) s (hs _)
  case sysrefReturn => exact execSysrefReturn_keeps (by decide) s (hs _)
  case ethrefLoss => exact execEthrefLoss_keeps (by decide) _ s (hs _)
  case ppsOutPulse => exact execPpsOutPulse_keeps (by decide) s (hs _)
  case bootComplete => exact execBootComplete_keeps (by decide) s (hs _)
  case sysRstAssert => exact execSysRstAssert_keeps (by decide) s (hs _)
  case sysRstRelease => exact execSysRstRelease_keeps (by decide) _ s (hs _)
  case perstAssert => exact execPerstAssert_keeps (by decide) _ s (hs _)
  case perstRelease => exact execPerstRelease_keeps (by decide) _ _ _ s (hs _)
  case deviceReset => exact execDeviceReset_keeps (by decide) s (hs _)
  case deviceResetExpiry => exact execDeviceResetExpiry_keeps (by decide) _ s (hs _)
  case deviceStore => exact execDeviceStore_keeps (by decide) s (hs _)
  case storeStep => exact execStoreStep_keeps (by decide) _ s (hs _)
  case deviceUpdateStage => exact execDeviceUpdateStage_keeps (by decide) s (hs _)
  case stageVerifyEnd => exact execStageVerifyEnd_keeps (by decide) _ _ s (hs _)
  case deviceUpdateActivate => exact execDeviceUpdateActivate_keeps (by decide) s (hs _)
  case activationStep => exact execActivationStep_keeps (by decide) _ s (hs _)
  case activationTimeout => exact execActivationTimeout_keeps (by decide) _ s (hs _)
  case mailboxSubmit => exact execMailboxSubmit_keeps (by decide) _ _ s (hs _)
  case requestBufferWrite => exact execRequestBufferWrite_keeps (by decide) _ _ _ s (hs _)
  case mbStatusClear => exact execMbStatusClear_keeps (by decide) _ _ s (hs _)
  case oobMessage => exact execOobMessage_keeps (by decide) _ _ _ _ s (hs _)
  case inbandDatagram => exact execInbandDatagram_keeps (by decide) _ _ _ _ _ s (hs _)
  case opStatus => exact execOpStatus_keeps (by decide) s (hs _)
  case opCancel => exact execOpCancel_keeps (by decide) s (hs _)
  case deviceCaps => exact execDeviceCaps_keeps (by decide) s (hs _)
  case deviceInfo => exact execDeviceInfo_keeps (by decide) s (hs _)
  case devicePin => exact execDevicePin_keeps (by decide) s (hs _)
  case securityAssign => exact execSecurityAssign_keeps (by decide) s (hs _)
  case deviceInband => exact execDeviceInband_keeps (by decide) s (hs _)
  case portGroup => exact execPortGroup_keeps (by decide) s (hs _)
  case portSet => exact execPortSet_keeps (by decide) s (hs _)
  case portGet => exact execPortGet_keeps (by decide) s (hs _)
  case portStats => exact execPortStats_keeps (by decide) s (hs _)
  case portRetrain => exact execPortRetrain_keeps (by decide) s (hs _)
  case trainingFrameReceive => exact execTrainingFrameReceive_keeps (by decide) _ _ _ s (hs _)
  case trainingAlignmentComplete => exact execTrainingAlignmentComplete_keeps (by decide) _ s (hs _)
  case trainingTimeout => exact execTrainingTimeout_keeps (by decide) _ s (hs _)
  case s200AttemptFail => exact execS200AttemptFail_keeps (by decide) _ _ s (hs _)
  case trainingRestart => exact execTrainingRestart_keeps (by decide) _ s (hs _)
  case holdUpExpiry => exact execHoldUpExpiry_keeps (by decide) _ s (hs _)
  case laneLoss => exact execLaneLoss_keeps (by decide) _ _ s (hs _)
  case linkDegradedWindow => exact execLinkDegradedWindow_keeps (by decide) _ _ _ _ s (hs _)
  case ethFrameFirstByte => exact execEthFrameFirstByte_keeps (by decide) _ _ s (hs _)
  case ethFrameLastBit => exact execEthFrameLastBit_keeps (by decide) _ _ s (hs _)
  case pfcFrameReceive => exact execPfcFrameReceive_keeps (by decide) _ _ _ s (hs _)
  case pauseFrameReceive => exact execPauseFrameReceive_keeps (by decide) _ _ s (hs _)
  case pauseExpiry => exact execPauseExpiry_keeps (by decide) _ _ s (hs _)
  case pfcResend => exact execPfcResend_keeps (by decide) _ s (hs _)
  case trailResult => exact execTrailResult_keeps (by decide) _ s (hs _)
  case decisionRelease => exact execDecisionRelease_keeps (by decide) _ s (hs _)
  case windowReady => exact execWindowReady_keeps (by decide) _ s (hs _)
  case windowDispatch => exact execWindowDispatch_keeps (by decide) _ s (hs _)
  case threadFrameStart => exact execThreadFrameStart_keeps (by decide) _ s (hs _)
  case spNop => exact execSpNop_keeps (by decide) _ s (hs _)
  case spHalt => exact execSpHalt_keeps (by decide) _ s (hs _)
  case spExt => exact execSpExt_keeps (by decide) _ s (hs _)
  case spExtm => exact execSpExtm_keeps (by decide) _ s (hs _)
  case spAdd => exact execSpAdd_keeps (by decide) _ s (hs _)
  case spSub => exact execSpSub_keeps (by decide) _ s (hs _)
  case spAnd => exact execSpAnd_keeps (by decide) _ s (hs _)
  case spOr => exact execSpOr_keeps (by decide) _ s (hs _)
  case spXor => exact execSpXor_keeps (by decide) _ s (hs _)
  case spShl => exact execSpShl_keeps (by decide) _ s (hs _)
  case spShr => exact execSpShr_keeps (by decide) _ s (hs _)
  case spAddi => exact execSpAddi_keeps (by decide) _ s (hs _)
  case spSubi => exact execSpSubi_keeps (by decide) _ s (hs _)
  case spAndi => exact execSpAndi_keeps (by decide) _ s (hs _)
  case spOri => exact execSpOri_keeps (by decide) _ s (hs _)
  case spXori => exact execSpXori_keeps (by decide) _ s (hs _)
  case spShli => exact execSpShli_keeps (by decide) _ s (hs _)
  case spShri => exact execSpShri_keeps (by decide) _ s (hs _)
  case spLdi => exact execSpLdi_keeps (by decide) _ s (hs _)
  case spComp => exact execSpComp_keeps (by decide) _ s (hs _)
  case spCompi => exact execSpCompi_keeps (by decide) _ s (hs _)
  case spBr => exact execSpBr_keeps (by decide) _ s (hs _)
  case spBt => exact execSpBt_keeps (by decide) _ s (hs _)
  case spBf => exact execSpBf_keeps (by decide) _ s (hs _)
  case spBrx => exact execSpBrx_keeps (by decide) _ s (hs _)
  case spKey => exact execSpKey_keeps (by decide) _ s (hs _)
  case spKeyw => exact execSpKeyw_keeps (by decide) _ s (hs _)
  case spKeyi => exact execSpKeyi_keeps (by decide) _ s (hs _)
  case spEmit => exact execSpEmit_keeps (by decide) _ s (hs _)
  case spThint => exact execSpThint_keeps (by decide) _ s (hs _)
  case overrunFault => exact execOverrunFault_keeps (by decide) _ s (hs _)
  case fallThroughFault => exact execFallThroughFault_keeps (by decide) _ s (hs _)
  case thintCandidateDeliver => exact execThintCandidateDeliver_keeps (by decide) _ s (hs _)
  case classParseStage => exact execClassParseStage_keeps (by decide) s (hs _)
  case classParseLoad => exact execClassParseLoad_keeps (by decide) s (hs _)
  case parseBankSwitch => exact execParseBankSwitch_keeps (by decide) _ _ s (hs _)
  case classParseGet => exact execClassParseGet_keeps (by decide) s (hs _)
  case classParseStats => exact execClassParseStats_keeps (by decide) s (hs _)
  case walkStart => exact execWalkStart_keeps (by decide) _ s (hs _)
  case walkEnd => exact execWalkEnd_keeps (by decide) _ _ s (hs _)
  case classRuleStage => exact execClassRuleStage_keeps (by decide) s (hs _)
  case classRouteStage => exact execClassRouteStage_keeps (by decide) s (hs _)
  case classTreeInstall => exact execClassTreeInstall_keeps (by decide) s (hs _)
  case treeInstallStep => exact execTreeInstallStep_keeps (by decide) _ _ _ s (hs _)
  case classTreeGet => exact execClassTreeGet_keeps (by decide) s (hs _)
  case classBuildGet => exact execClassBuildGet_keeps (by decide) s (hs _)
  case classMeterSet => exact execClassMeterSet_keeps (by decide) s (hs _)
  case classMeterGet => exact execClassMeterGet_keeps (by decide) s (hs _)
  case classActionStats => exact execClassActionStats_keeps (by decide) s (hs _)
  case classStats => exact execClassStats_keeps (by decide) s (hs _)
  case classLookup => exact execClassLookup_keeps (by decide) s (hs _)
  case tblCmdRead => exact execTblCmdRead_keeps (by decide) _ _ s (hs _)
  case tblCmdWrite => exact execTblCmdWrite_keeps (by decide) _ _ s (hs _)
  case tblCmdSearch => exact execTblCmdSearch_keeps (by decide) _ _ s (hs _)
  case tblCmdInsert => exact execTblCmdInsert_keeps (by decide) _ _ s (hs _)
  case tblCmdDelete => exact execTblCmdDelete_keeps (by decide) _ _ s (hs _)
  case tblCmdAgeStep => exact execTblCmdAgeStep_keeps (by decide) _ _ s (hs _)
  case tblDataWrite => exact execTblDataWrite_keeps (by decide) _ _ _ s (hs _)
  case tblStatusClear => exact execTblStatusClear_keeps (by decide) _ _ s (hs _)
  case tblResultPost => exact execTblResultPost_keeps (by decide) _ s (hs _)
  case lookupPoisonRepair => exact execLookupPoisonRepair_keeps (by decide) _ _ _ s (hs _)
  case learnDecide => exact execLearnDecide_keeps (by decide) s (hs _)
  case learnEngineTakeover => exact execLearnEngineTakeover_keeps (by decide) s (hs _)
  case ageSweepStep => exact execAgeSweepStep_keeps (by decide) _ s (hs _)
  case tableRead => exact execTableRead_keeps (by decide) s (hs _)
  case tableWrite => exact execTableWrite_keeps (by decide) s (hs _)
  case tableSearch => exact execTableSearch_keeps (by decide) s (hs _)
  case tableInsert => exact execTableInsert_keeps (by decide) s (hs _)
  case tableDelete => exact execTableDelete_keeps (by decide) s (hs _)
  case tableAgeStep => exact execTableAgeStep_keeps (by decide) s (hs _)
  case tableRehash => exact execTableRehash_keeps (by decide) s (hs _)
  case rehashStep => exact execRehashStep_keeps (by decide) _ s (hs _)
  case tableInfo => exact execTableInfo_keeps (by decide) s (hs _)
  case tablePartSet => exact execTablePartSet_keeps (by decide) s (hs _)
  case tableLearnSet => exact execTableLearnSet_keeps (by decide) s (hs _)
  case tableFlush => exact execTableFlush_keeps (by decide) s (hs _)
  case flushStep => exact execFlushStep_keeps (by decide) _ s (hs _)
  case tableStats => exact execTableStats_keeps (by decide) s (hs _)
  case planeIteration => exact execPlaneIteration_keeps (by decide) _ s (hs _)
  case lbConnection => exact execLbConnection_keeps (by decide) _ s (hs _)
  case transferUnitReceive => exact execTransferUnitReceive_keeps (by decide) _ _ s (hs _)
  case frameIncompleteTimeout => exact execFrameIncompleteTimeout_keeps (by decide) _ _ s (hs _)
  case planeFailure => exact execPlaneFailure_keeps (by decide) _ _ _ s (hs _)
  case planeDownReport => exact execPlaneDownReport_keeps (by decide) _ s (hs _)
  case schedulerMismatch => exact execSchedulerMismatch_keeps (by decide) _ s (hs _)
  case canopyModeReport => exact execCanopyModeReport_keeps (by decide) _ s (hs _)
  case lbModeSwitch => exact execLbModeSwitch_keeps (by decide) _ s (hs _)
  case healthCanopyGet => exact execHealthCanopyGet_keeps (by decide) s (hs _)
  case healthCanopySet => exact execHealthCanopySet_keeps (by decide) s (hs _)
  case frameEligible => exact execFrameEligible_keeps (by decide) _ _ s (hs _)
  case egressSchedule => exact execEgressSchedule_keeps (by decide) _ s (hs _)
  case frameTransmitEnd => exact execFrameTransmitEnd_keeps (by decide) _ s (hs _)
  case sinkTake => exact execSinkTake_keeps (by decide) _ _ s (hs _)
  case auditStart => exact execAuditStart_keeps (by decide) _ s (hs _)
  case auditEnd => exact execAuditEnd_keeps (by decide) _ _ _ s (hs _)
  case portEgressSet => exact execPortEgressSet_keeps (by decide) s (hs _)
  case portEgressGet => exact execPortEgressGet_keeps (by decide) s (hs _)
  case portSliceSet => exact execPortSliceSet_keeps (by decide) s (hs _)
  case portSliceGet => exact execPortSliceGet_keeps (by decide) s (hs _)
  case portMirrorSet => exact execPortMirrorSet_keeps (by decide) s (hs _)
  case portMirrorGet => exact execPortMirrorGet_keeps (by decide) s (hs _)
  case hostLinkDown => exact execHostLinkDown_keeps (by decide) _ _ s (hs _)
  case hostLinkUp => exact execHostLinkUp_keeps (by decide) _ _ _ s (hs _)
  case configRequest => exact execConfigRequest_keeps (by decide) _ _ _ _ s (hs _)
  case registerWrite => exact execRegisterWrite_keeps (by decide) _ _ _ _ s (hs _)
  case busMasterDisable => exact execBusMasterDisable_keeps (by decide) _ s (hs _)
  case busMasterEnable => exact execBusMasterEnable_keeps (by decide) _ s (hs _)
  case flr => exact execFlr_keeps (by decide) _ s (hs _)
  case flrComplete => exact execFlrComplete_keeps (by decide) _ s (hs _)
  case vfCessation => exact execVfCessation_keeps (by decide) _ _ s (hs _)
  case d3hotEntry => exact execD3hotEntry_keeps (by decide) _ s (hs _)
  case d0Return => exact execD0Return_keeps (by decide) _ s (hs _)
  case pmeResend => exact execPmeResend_keeps (by decide) _ s (hs _)
  case pmeTurnOff => exact execPmeTurnOff_keeps (by decide) _ s (hs _)
  case cplTimeoutValueWrite => exact execCplTimeoutValueWrite_keeps (by decide) _ _ s (hs _)
  case cplTimeoutWrite => exact execCplTimeoutWrite_keeps (by decide) _ _ s (hs _)
  case pasidEnableClear => exact execPasidEnableClear_keeps (by decide) _ s (hs _)
  case msixEnableSet => exact execMsixEnableSet_keeps (by decide) _ s (hs _)
  case intxAckWrite => exact execIntxAckWrite_keeps (by decide) _ _ s (hs _)
  case atsInvalidate => exact execAtsInvalidate_keeps (by decide) _ _ _ _ s (hs _)
  case completionReceive => exact execCompletionReceive_keeps (by decide) _ _ _ _ s (hs _)
  case completionTimeout => exact execCompletionTimeout_keeps (by decide) _ _ s (hs _)
  case tagQuarantineEnd => exact execTagQuarantineEnd_keeps (by decide) _ _ s (hs _)
  case aspmL1Entry => exact execAspmL1Entry_keeps (by decide) _ s (hs _)
  case l1Exit => exact execL1Exit_keeps (by decide) _ s (hs _)
  case queueHostSet => exact execQueueHostSet_keeps (by decide) s (hs _)
  case queueHostGet => exact execQueueHostGet_keeps (by decide) s (hs _)
  case queueHostStats => exact execQueueHostStats_keeps (by decide) s (hs _)
  case workPiWrite => exact execWorkPiWrite_keeps (by decide) _ _ _ s (hs _)
  case cplCiWrite => exact execCplCiWrite_keeps (by decide) _ _ _ s (hs _)
  case qpCtrlStart => exact execQpCtrlStart_keeps (by decide) _ _ s (hs _)
  case qpCtrlStop => exact execQpCtrlStop_keeps (by decide) _ _ s (hs _)
  case qpCtrlReset => exact execQpCtrlReset_keeps (by decide) _ _ s (hs _)
  case qpStoppingEnd => exact execQpStoppingEnd_keeps (by decide) _ s (hs _)
  case descriptorFetch => exact execDescriptorFetch_keeps (by decide) _ s (hs _)
  case jobStart => exact execJobStart_keeps (by decide) _ s (hs _)
  case cqStallTimeout => exact execCqStallTimeout_keeps (by decide) _ s (hs _)
  case jobComplete => exact execJobComplete_keeps (by decide) _ _ s (hs _)
  case qpNop => exact execQpNop_keeps (by decide) _ _ s (hs _)
  case counterWait => exact execCounterWait_keeps (by decide) _ _ s (hs _)
  case counterWaitSatisfied => exact execCounterWaitSatisfied_keeps (by decide) _ _ s (hs _)
  case counterWaitTimeout => exact execCounterWaitTimeout_keeps (by decide) _ _ s (hs _)
  case tx => exact execTx_keeps (by decide) _ _ s (hs _)
  case rxPost => exact execRxPost_keeps (by decide) _ s (hs _)
  case rxDelivery => exact execRxDelivery_keeps (by decide) _ s (hs _)
  case queueQpSet => exact execQueueQpSet_keeps (by decide) s (hs _)
  case queueQpGet => exact execQueueQpGet_keeps (by decide) s (hs _)
  case queueQpStateStart => exact execQueueQpStateStart_keeps (by decide) s (hs _)
  case queueQpStateStop => exact execQueueQpStateStop_keeps (by decide) s (hs _)
  case queueQpStateReset => exact execQueueQpStateReset_keeps (by decide) s (hs _)
  case queueQpStats => exact execQueueQpStats_keeps (by decide) s (hs _)
  case eventDelivery => exact execEventDelivery_keeps (by decide) _ s (hs _)
  case eqCiWrite => exact execEqCiWrite_keeps (by decide) _ _ _ s (hs _)
  case eqCtrlEnable => exact execEqCtrlEnable_keeps (by decide) _ _ s (hs _)
  case eqCtrlDisable => exact execEqCtrlDisable_keeps (by decide) _ _ s (hs _)
  case eqCtrlInvalid => exact execEqCtrlInvalid_keeps (by decide) _ _ _ s (hs _)
  case interruptSend => exact execInterruptSend_keeps (by decide) _ s (hs _)
  case eventEqSet => exact execEventEqSet_keeps (by decide) s (hs _)
  case eventEqGet => exact execEventEqGet_keeps (by decide) s (hs _)
  case eventEqStateEnable => exact execEventEqStateEnable_keeps (by decide) s (hs _)
  case eventEqStateDisable => exact execEventEqStateDisable_keeps (by decide) s (hs _)
  case eventEqStateReset => exact execEventEqStateReset_keeps (by decide) s (hs _)
  case eventModSet => exact execEventModSet_keeps (by decide) s (hs _)
  case eventRouteSet => exact execEventRouteSet_keeps (by decide) s (hs _)
  case eventRouteGet => exact execEventRouteGet_keeps (by decide) s (hs _)
  case eventGroupSet => exact execEventGroupSet_keeps (by decide) s (hs _)
  case eventStats => exact execEventStats_keeps (by decide) s (hs _)
  case svcInstruction => exact execSvcInstruction_keeps (by decide) _ _ s (hs _)
  case threadFault => exact execThreadFault_keeps (by decide) _ _ _ s (hs _)
  case stillnessDetect => exact execStillnessDetect_keeps (by decide) _ _ s (hs _)
  case chPut => exact execChPut_keeps (by decide) _ s (hs _)
  case chSend => exact execChSend_keeps (by decide) _ s (hs _)
  case chRecv => exact execChRecv_keeps (by decide) _ s (hs _)
  case chGet => exact execChGet_keeps (by decide) _ s (hs _)
  case chPoll => exact execChPoll_keeps (by decide) _ s (hs _)
  case channelStale => exact execChannelStale_keeps (by decide) _ _ s (hs _)
  case chRelease => exact execChRelease_keeps (by decide) _ _ s (hs _)
  case svcRestartWrite => exact execSvcRestartWrite_keeps (by decide) _ _ s (hs _)
  case groveRestartWrite => exact execGroveRestartWrite_keeps (by decide) _ _ s (hs _)
  case groveServiceRestart => exact execGroveServiceRestart_keeps (by decide) _ s (hs _)
  case frmTake => exact execFrmTake_keeps (by decide) _ _ s (hs _)
  case frmAlloc => exact execFrmAlloc_keeps (by decide) _ _ s (hs _)
  case frmSend => exact execFrmSend_keeps (by decide) _ _ s (hs _)
  case frmFree => exact execFrmFree_keeps (by decide) _ _ s (hs _)
  case logCiWrite => exact execLogCiWrite_keeps (by decide) _ _ s (hs _)
  case candCiWrite => exact execCandCiWrite_keeps (by decide) _ _ s (hs _)
  case serviceStage => exact execServiceStage_keeps (by decide) s (hs _)
  case serviceLoad => exact execServiceLoad_keeps (by decide) s (hs _)
  case serviceLoadStep => exact execServiceLoadStep_keeps (by decide) _ s (hs _)
  case serviceGet => exact execServiceGet_keeps (by decide) s (hs _)
  case serviceStats => exact execServiceStats_keeps (by decide) s (hs _)
  case serviceNvmeSet => exact execServiceNvmeSet_keeps (by decide) s (hs _)
  case serviceNvmeNsSet => exact execServiceNvmeNsSet_keeps (by decide) s (hs _)
  case serviceSlowpathSet => exact execServiceSlowpathSet_keeps (by decide) s (hs _)
  case servicePolicySet => exact execServicePolicySet_keeps (by decide) s (hs _)
  case serviceLearnRead => exact execServiceLearnRead_keeps (by decide) s (hs _)
  case slowpathFrame => exact execSlowpathFrame_keeps (by decide) _ s (hs _)
  case policyCandidate => exact execPolicyCandidate_keeps (by decide) _ s (hs _)
  case learnLogMove => exact execLearnLogMove_keeps (by decide) s (hs _)
  case nvmeCcWrite => exact execNvmeCcWrite_keeps (by decide) _ _ s (hs _)
  case nvmeSqTailDoorbell => exact execNvmeSqTailDoorbell_keeps (by decide) _ _ _ s (hs _)
  case nvmeCqHeadDoorbell => exact execNvmeCqHeadDoorbell_keeps (by decide) _ _ _ s (hs _)
  case nvCreateIoSq => exact execNvCreateIoSq_keeps (by decide) _ _ s (hs _)
  case nvDeleteIoSq => exact execNvDeleteIoSq_keeps (by decide) _ _ s (hs _)
  case nvCreateIoCq => exact execNvCreateIoCq_keeps (by decide) _ _ s (hs _)
  case nvDeleteIoCq => exact execNvDeleteIoCq_keeps (by decide) _ _ s (hs _)
  case nvGetLogPage => exact execNvGetLogPage_keeps (by decide) _ _ s (hs _)
  case nvIdentify => exact execNvIdentify_keeps (by decide) _ _ s (hs _)
  case nvAbort => exact execNvAbort_keeps (by decide) _ _ s (hs _)
  case nvSetFeatures => exact execNvSetFeatures_keeps (by decide) _ _ s (hs _)
  case nvGetFeatures => exact execNvGetFeatures_keeps (by decide) _ _ s (hs _)
  case nvAsyncEventRequest => exact execNvAsyncEventRequest_keeps (by decide) _ _ s (hs _)
  case nvInvalidOpcode => exact execNvInvalidOpcode_keeps (by decide) _ _ _ s (hs _)
  case nvFlush => exact execNvFlush_keeps (by decide) _ _ _ _ s (hs _)
  case nvWrite => exact execNvWrite_keeps (by decide) _ _ _ _ _ s (hs _)
  case nvRead => exact execNvRead_keeps (by decide) _ _ _ _ s (hs _)
  case nvWriteZeroes => exact execNvWriteZeroes_keeps (by decide) _ _ _ _ s (hs _)
  case nvDatasetManagement => exact execNvDatasetManagement_keeps (by decide) _ _ _ _ s (hs _)
  case nvmeIoTimeout => exact execNvmeIoTimeout_keeps (by decide) _ _ _ s (hs _)
  case remoteKeySet => exact execRemoteKeySet_keeps (by decide) s (hs _)
  case remoteKeyGet => exact execRemoteKeyGet_keeps (by decide) s (hs _)
  case remoteKeyRevoke => exact execRemoteKeyRevoke_keeps (by decide) s (hs _)
  case keyRevokeDrained => exact execKeyRevokeDrained_keeps (by decide) _ s (hs _)
  case remoteConnSet => exact execRemoteConnSet_keeps (by decide) s (hs _)
  case remoteConnGet => exact execRemoteConnGet_keeps (by decide) s (hs _)
  case remoteConnReset => exact execRemoteConnReset_keeps (by decide) s (hs _)
  case remoteEngineSet => exact execRemoteEngineSet_keeps (by decide) s (hs _)
  case remoteStats => exact execRemoteStats_keeps (by decide) s (hs _)
  case remoteWrite => exact execRemoteWrite_keeps (by decide) _ _ s (hs _)
  case remoteRead => exact execRemoteRead_keeps (by decide) _ _ s (hs _)
  case remoteSend => exact execRemoteSend_keeps (by decide) _ _ s (hs _)
  case recvPost => exact execRecvPost_keeps (by decide) _ _ s (hs _)
  case atomicAdd => exact execAtomicAdd_keeps (by decide) _ _ s (hs _)
  case cas64 => exact execCas64_keeps (by decide) _ _ s (hs _)
  case cas128 => exact execCas128_keeps (by decide) _ _ s (hs _)
  case writePacketReceive => exact execWritePacketReceive_keeps (by decide) _ s (hs _)
  case readReqReceive => exact execReadReqReceive_keeps (by decide) _ _ s (hs _)
  case readRespReceive => exact execReadRespReceive_keeps (by decide) _ s (hs _)
  case sendPacketReceive => exact execSendPacketReceive_keeps (by decide) _ s (hs _)
  case atomicReqReceive => exact execAtomicReqReceive_keeps (by decide) _ _ s (hs _)
  case atomicRespReceive => exact execAtomicRespReceive_keeps (by decide) _ s (hs _)
  case ackReceive => exact execAckReceive_keeps (by decide) _ s (hs _)
  case nakReceive => exact execNakReceive_keeps (by decide) _ s (hs _)
  case rocev2PacketReceive => exact execRocev2PacketReceive_keeps (by decide) _ _ s (hs _)
  case retransmitTimeout => exact execRetransmitTimeout_keeps (by decide) _ _ s (hs _)
  case rnrDelayExpiry => exact execRnrDelayExpiry_keeps (by decide) _ _ s (hs _)
  case contextExpiry => exact execContextExpiry_keeps (by decide) _ _ s (hs _)
  case cwndWindow => exact execCwndWindow_keeps (by decide) _ s (hs _)
  case cipherKeySet => exact execCipherKeySet_keeps (by decide) s (hs _)
  case cipherKeyGet => exact execCipherKeyGet_keeps (by decide) s (hs _)
  case cipherKeyDestroy => exact execCipherKeyDestroy_keeps (by decide) s (hs _)
  case keyEntryZeroize => exact execKeyEntryZeroize_keeps (by decide) _ s (hs _)
  case cipherSaSet => exact execCipherSaSet_keeps (by decide) s (hs _)
  case cipherSaGet => exact execCipherSaGet_keeps (by decide) s (hs _)
  case cipherSaDestroy => exact execCipherSaDestroy_keeps (by decide) s (hs _)
  case cipherQpBind => exact execCipherQpBind_keeps (by decide) s (hs _)
  case cipherEngineSet => exact execCipherEngineSet_keeps (by decide) s (hs _)
  case cipherStats => exact execCipherStats_keeps (by decide) s (hs _)
  case aeadSeal => exact execAeadSeal_keeps (by decide) _ _ s (hs _)
  case aeadOpen => exact execAeadOpen_keeps (by decide) _ _ s (hs _)
  case xtsEnc => exact execXtsEnc_keeps (by decide) _ _ s (hs _)
  case xtsDec => exact execXtsDec_keeps (by decide) _ _ s (hs _)
  case tlsSeal => exact execTlsSeal_keeps (by decide) _ _ s (hs _)
  case tlsOpen => exact execTlsOpen_keeps (by decide) _ _ s (hs _)
  case urgentPreempt => exact execUrgentPreempt_keeps (by decide) _ _ _ s (hs _)
  case bulkResume => exact execBulkResume_keeps (by decide) _ _ s (hs _)
  case cipherMessageEnd => exact execCipherMessageEnd_keeps (by decide) _ _ _ _ s (hs _)
  case espOutbound => exact execEspOutbound_keeps (by decide) _ s (hs _)
  case espInbound => exact execEspInbound_keeps (by decide) _ s (hs _)
  case clearingRent => exact execClearingRent_keeps (by decide) s (hs _)
  case clearingRentStep => exact execClearingRentStep_keeps (by decide) _ _ s (hs _)
  case clearingRelease => exact execClearingRelease_keeps (by decide) s (hs _)
  case clearingReleaseStep => exact execClearingReleaseStep_keeps (by decide) _ _ s (hs _)
  case clearingStage => exact execClearingStage_keeps (by decide) s (hs _)
  case clearingStageHost => exact execClearingStageHost_keeps (by decide) s (hs _)
  case clearingLoad => exact execClearingLoad_keeps (by decide) s (hs _)
  case clearingLoadStep => exact execClearingLoadStep_keeps (by decide) _ _ s (hs _)
  case clearingUnload => exact execClearingUnload_keeps (by decide) s (hs _)
  case clearingGet => exact execClearingGet_keeps (by decide) s (hs _)
  case clearingQpBind => exact execClearingQpBind_keeps (by decide) s (hs _)
  case clearingLineBind => exact execClearingLineBind_keeps (by decide) s (hs _)
  case clearingCtrl => exact execClearingCtrl_keeps (by decide) s (hs _)
  case clearingMeterSet => exact execClearingMeterSet_keeps (by decide) s (hs _)
  case clearingMeterRead => exact execClearingMeterRead_keeps (by decide) s (hs _)
  case clearingStats => exact execClearingStats_keeps (by decide) s (hs _)
  case shellClockStart => exact execShellClockStart_keeps (by decide) _ s (hs _)
  case shellResetRelease => exact execShellResetRelease_keeps (by decide) _ s (hs _)
  case clearingRunning => exact execClearingRunning_keeps (by decide) _ s (hs _)
  case streamRxFrame => exact execStreamRxFrame_keeps (by decide) _ s (hs _)
  case streamTxFrame => exact execStreamTxFrame_keeps (by decide) _ _ _ s (hs _)
  case memCommand => exact execMemCommand_keeps (by decide) _ _ _ _ _ s (hs _)
  case memWriteData => exact execMemWriteData_keeps (by decide) _ _ _ _ _ s (hs _)
  case memResponse => exact execMemResponse_keeps (by decide) _ _ _ s (hs _)
  case h2c => exact execH2c_keeps (by decide) _ _ s (hs _)
  case c2hPost => exact execC2hPost_keeps (by decide) _ _ s (hs _)
  case h2cMessage => exact execH2cMessage_keeps (by decide) _ s (hs _)
  case c2hMessage => exact execC2hMessage_keeps (by decide) _ _ _ _ _ s (hs _)
  case eventLineFire => exact execEventLineFire_keeps (by decide) _ _ _ s (hs _)
  case controlRequest => exact execControlRequest_keeps (by decide) _ _ _ _ _ _ s (hs _)
  case controlAnswer => exact execControlAnswer_keeps (by decide) _ _ _ s (hs _)
  case controlReadTimeout => exact execControlReadTimeout_keeps (by decide) _ _ s (hs _)
  case clearingPowerWindow => exact execClearingPowerWindow_keeps (by decide) _ _ s (hs _)
  case configMemoryError => exact execConfigMemoryError_keeps (by decide) _ s (hs _)
  case meterWindowClose => exact execMeterWindowClose_keeps (by decide) _ s (hs _)
  case firebreakSet => exact execFirebreakSet_keeps (by decide) s (hs _)
  case firebreakGet => exact execFirebreakGet_keeps (by decide) s (hs _)
  case firebreakMapSet => exact execFirebreakMapSet_keeps (by decide) s (hs _)
  case firebreakMapGet => exact execFirebreakMapGet_keeps (by decide) s (hs _)
  case firebreakLogRead => exact execFirebreakLogRead_keeps (by decide) s (hs _)
  case securityWrapkeySet => exact execSecurityWrapkeySet_keeps (by decide) s (hs _)
  case securityCmdkeySet => exact execSecurityCmdkeySet_keeps (by decide) s (hs _)
  case securityVerifykeySet => exact execSecurityVerifykeySet_keeps (by decide) s (hs _)
  case securityFloorSet => exact execSecurityFloorSet_keeps (by decide) s (hs _)
  case securityDebugSet => exact execSecurityDebugSet_keeps (by decide) s (hs _)
  case debugWindowClose => exact execDebugWindowClose_keeps (by decide) _ s (hs _)
  case jtagDebugAccess => exact execJtagDebugAccess_keeps (by decide) _ _ s (hs _)
  case securityIdentityGet => exact execSecurityIdentityGet_keeps (by decide) s (hs _)
  case securityAttest => exact execSecurityAttest_keeps (by decide) s (hs _)
  case attestComplete => exact execAttestComplete_keeps (by decide) _ s (hs _)
  case securityReportGet => exact execSecurityReportGet_keeps (by decide) s (hs _)
  case securityKeysGet => exact execSecurityKeysGet_keeps (by decide) s (hs _)
  case timeConfig => exact execTimeConfig_keeps (by decide) s (hs _)
  case timeSetDelta => exact execTimeSetDelta_keeps (by decide) s (hs _)
  case timeSetAtEdge => exact execTimeSetAtEdge_keeps (by decide) s (hs _)
  case timeSetEdgeTimeout => exact execTimeSetEdgeTimeout_keeps (by decide) s (hs _)
  case timeAdjust => exact execTimeAdjust_keeps (by decide) s (hs _)
  case timeGet => exact execTimeGet_keeps (by decide) s (hs _)
  case ppsInEdge => exact execPpsInEdge_keeps (by decide) _ s (hs _)
  case timeHoldover => exact execTimeHoldover_keeps (by decide) s (hs _)
  case scrubRead => exact execScrubRead_keeps (by decide) _ _ _ s (hs _)
  case unitFailure => exact execUnitFailure_keeps (by decide) _ _ s (hs _)
  case treeBankRemap => exact execTreeBankRemap_keeps (by decide) _ _ s (hs _)
  case groveFailure => exact execGroveFailure_keeps (by decide) _ _ s (hs _)
  case wardenHeartbeat => exact execWardenHeartbeat_keeps (by decide) s (hs _)
  case wardenHeartbeatTimeout => exact execWardenHeartbeatTimeout_keeps (by decide) s (hs _)
  case wardenTakeoverActive => exact execWardenTakeoverActive_keeps (by decide) s (hs _)
  case failedCoreTest => exact execFailedCoreTest_keeps (by decide) _ s (hs _)
  case wardenDoubleFailure => exact execWardenDoubleFailure_keeps (by decide) _ s (hs _)
  case logFlush => exact execLogFlush_keeps (by decide) s (hs _)
  case healthGet => exact execHealthGet_keeps (by decide) s (hs _)
  case healthLogRead => exact execHealthLogRead_keeps (by decide) s (hs _)
  case entryThaw => exact execEntryThaw_keeps (by decide) _ s (hs _)
  case clearingUnloadStep => exact execClearingUnloadStep_keeps (by decide) _ _ s (hs _)
  case clearingStageHostStep => exact execClearingStageHostStep_keeps (by decide) _ _ s (hs _)
  case msixTableEntryUnmask => exact execMsixTableEntryUnmask_keeps (by decide) _ _ s (hs _)
/-- Settles O4: a part that `touches` does not list has no bit in the mask of what the row keeps. -/
theorem commandsChangeOnlyTheirParts : Obligations.CommandsChangeOnlyTheirParts := by
  unfold Obligations.CommandsChangeOnlyTheirParts
  intro c s t h p hp
  exact (exec_keeps c s t h).same (by rw [getLsbD_partsMask, decide_eq_false hp])

/-! ## What every step keeps -/

/-- A step is the tick of an empty queue, or the command at the front of the queue on the queue's rest. -/
theorem step_keeps {s t : State} (h : step s = .next t) : ∃ m, State.Keeps m { s with pending := s.pending.tail } t := by
  cases hq : s.pending with
  | nil =>
    simp only [step, hq] at h
    cases h
    have hs : { s with pending := List.tail [] } = s := by rw [List.tail_nil, ← hq]
    rw [hs]
    exact ⟨0x5071e5, State.tick_keeps rfl s (Keeps.rfl' _ s)⟩
  | cons c rest =>
    simp only [step, hq] at h
    exact ⟨_, exec_keeps c { s with pending := rest } t h⟩
/-- Settles O5: what a step keeps, read off one field after another. -/
theorem stepsKeepMemoryTimeAndQueue : Obligations.StepsKeepMemoryTimeAndQueue := by
  unfold Obligations.StepsKeepMemoryTimeAndQueue
  intro s t h hwf
  obtain ⟨m, hk⟩ := step_keeps h
  exact ⟨hk.mem hwf, hk.now, hk.free, hk.out, hk.variant, hk.stepping, hk.pending⟩

end Sys2Proof.Machine
end

section
/-! PROOF. What the rows of Slaot's commands and of the groves do where they act at all: an equation for each way in which
a body can end, and for a row of a part that works. -/
namespace Sys2Proof.Machine

/-! ## Rows that act while the groves or Slaot work -/

theorem whenRunning_of {s : State} (h : s.running = true) (f : State → State) : whenRunning s f = .next (f s) :=
  congrArg Host.Outcome.next (if_pos h)
theorem whenServing_of {s : State} (h : s.serving = true) (f : State → State) : whenServing s f = .next (f s) :=
  congrArg Host.Outcome.next (if_pos h)
/-- The groves work only while Slaot does. -/
theorem State.serving_of_running {s : State} (h : s.running = true) : s.serving = true := by
  simp [State.serving, show (s.boot.phase == .running) = true from h]

/-! ## Branches -/

/-- Two choices agree when their conditions and their branches do. -/
theorem ite_iff_congr {α : Type} {P Q : Prop} [Decidable P] [Decidable Q] {x y u v : α} (h : P ↔ Q) (hx : x = u) (hy : y = v) :
    (if P then x else y) = if Q then u else v := by
  by_cases hQ : Q
  · rw [if_pos (h.mpr hQ), if_pos hQ, hx]
  · rw [if_neg (mt h.mp hQ), if_neg hQ, hy]
theorem ite_or_nested {α : Type} {P Q : Prop} [Decidable P] [Decidable Q] (x y : α) :
    (if P ∨ Q then x else y) = if P then x else if Q then x else y := by
  by_cases hP : P <;> simp [hP]
theorem ite_and_nested {α : Type} {P Q : Prop} [Decidable P] [Decidable Q] (x y : α) :
    (if P ∧ Q then x else y) = if P then (if Q then x else y) else y := by
  by_cases hP : P <;> simp [hP]

/-! ## Checks of a body (04 R107) -/

@[simp] theorem chk_true (st : Nat) (k : Except Nat Done) : chk true st k = k := rfl
@[simp] theorem chk_false (st : Nat) (k : Except Nat Done) : chk false st k = .error st := rfl

theorem chk_of {c : Bool} (h : c = true) (st : Nat) (k : Except Nat Done) : chk c st k = k := by rw [h, chk_true]
theorem chk_not {c : Bool} (h : c = false) (st : Nat) (k : Except Nat Done) : chk c st k = .error st := by rw [h, chk_false]

/-- A check that passes, and what comes after it. -/
theorem chk_then {c : Bool} {st : Nat} {k x : Except Nat Done} (h : c = true) (hk : k = x) : chk c st k = x :=
  (chk_of h st k).trans hk

/-! ## The end of a command's row -/

@[simp] theorem State.taken_sl_mbx (s : State) : s.taken.sl.mbx = s.sl.mbx := rfl
@[simp] theorem State.taken_sl_arb (s : State) : s.taken.sl.arb = s.sl.arb := rfl
@[simp] theorem State.taken_sl_inband (s : State) : s.taken.sl.inband = s.sl.inband := rfl
@[simp] theorem State.taken_sl_inbandBusy (s : State) : s.taken.sl.inbandBusy = s.sl.inbandBusy := rfl
@[simp] theorem State.taken_sl_discards (s : State) : s.taken.sl.discards = s.sl.discards := rfl
@[simp] theorem State.taken_sl_oobBusy (s : State) : s.taken.sl.oobBusy = s.sl.oobBusy := rfl
@[simp] theorem State.taken_sl_ops (s : State) : s.taken.sl.ops = s.sl.ops := rfl
@[simp] theorem State.taken_sl_round (s : State) : s.taken.sl.round = s.sl.round := rfl
@[simp] theorem State.taken_sl_ran (s : State) : s.taken.sl.ran = s.sl.ran := rfl
@[simp] theorem State.taken_sl_ended (s : State) : s.taken.sl.ended = s.sl.ended := rfl
@[simp] theorem State.taken_sl_nextHandle (s : State) : s.taken.sl.nextHandle = s.sl.nextHandle := rfl
@[simp] theorem State.taken_sl_staging (s : State) : s.taken.sl.staging = s.sl.staging := rfl
@[simp] theorem State.taken_sl_stagedOk (s : State) : s.taken.sl.stagedOk = s.sl.stagedOk := rfl

section
variable {s t : State} {r : Request} {op : Nat} {body : Body} {p : List Byte}
/-- A body that answers OK and leaves the running configuration as it was. -/
theorem slaotRow_done (h : s.asks r op) (b : body s.taken r = done t p) (f : t.cfg = s.cfg) :
    slaotRow op body s = .next (t.reply r 0 p) :=
  slaotRow_ok (a := ⟨0, p, 0⟩) h b (by rw [f, tooLarge_self])
/-- A body that answers OK and sets the running configuration. -/
theorem slaotRow_doneCfg (h : s.asks r op) (b : body s.taken r = done t p) : slaotRow op body s = .next (s.replyCfg t r p) :=
  slaotRow_cfg h b
/-- A body that starts a long operation. -/
theorem slaotRow_started {n : Nat} {d : OpData} (h : s.asks r op) (b : body s.taken r = startOp t r n d)
    (hops : t.sl.ops.length < 64) (f : t.cfg = s.cfg) : slaotRow op body s = .next (t.replyStarted r n d) := by
  rw [startOp_eq hops] at b
  refine slaotRow_ok (a := ⟨St.inProgress, [], t.handleFrom 400 t.sl.nextHandle⟩) h b ?_
  rw [show (t.started r n d).cfg = s.cfg from f, tooLarge_self]
end

/-! ## Steps of long operations (04 R121) -/

/-- The next step of an operation that is due, as its row makes it. -/
theorem opRow_on {s : State} {h : Nat} {o : LongOp} {d : OpData} (hs : s.stepsOn h o d) (abort body : State → LongOp → State) :
    opRow h abort body s = body (s.atStep h) o.step := by
  obtain ⟨-, hturn, hcancel, -⟩ := hs
  exact opRow_step hturn hcancel abort body

/-! ## Frames and counters -/

theorem modFrame_of {s : State} {t : Nat} {f : FrameRec} (h : s.frame t = some f) (k : FrameRec → FrameRec) :
    s.modFrame t k = s.setFrame t (k f) := by
  rw [State.modFrame, h]
theorem getD_add_self (c : Ctrs) (i n : Nat) : SMap.getD (c.add i n) i 0 = SMap.getD c i 0 + BitVec.ofNat 64 n :=
  SMap.getD_set_self ..

end Sys2Proof.Machine
end

section
/-! PROOF. Slaot's own commands (04 R113, R117, R126 to R130; 23 R644). -/
namespace Sys2Proof.Machine

/-! ## Owners of a run of objects (04 R117) -/

theorem owner_setOwner (s : State) (kind i j f : Nat) :
    (s.setOwner kind i f).owner kind j = if j = i then f else s.owner kind j := by
  unfold State.owner State.setOwner
  split
  next h => rw [h]; exact SMap.getD_set_self ..
  next h => exact SMap.getD_set_ne _ _ _ _ _ (by omega)
/-- Every object of a list given to a function is that function's, and the others are whose they were. -/
theorem owner_foldl_setOwner (l : List Nat) (s : State) (kind i f : Nat) :
    (l.foldl (fun u i => u.setOwner kind i f) s).owner kind i = if i ∈ l then f else s.owner kind i := by
  induction l generalizing s with
  | nil => simp
  | cons j l ih =>
    rw [List.foldl_cons, ih, owner_setOwner]
    by_cases h : i ∈ l <;> simp [h]
theorem mem_run {first n i : Nat} : i ∈ (List.range n).map (first + ·) ↔ first ≤ i ∧ i < first + n := by
  simp only [List.mem_map, List.mem_range]
  exact ⟨by rintro ⟨a, ha, rfl⟩; omega, fun h => ⟨i - first, by omega, by omega⟩⟩
theorem all_run {first n : Nat} {p : Nat → Bool} (h : ∀ i, first ≤ i → i < first + n → p i = true) :
    ((List.range n).map (first + ·)).all p = true :=
  List.all_eq_true.mpr fun i hi => h i (mem_run.mp hi).1 (mem_run.mp hi).2

/-! ## Records of DEVICE.CAPS (04 R128) -/

theorem fitRecords_of_le {room : Nat} {l : List (List Byte)} (h : l.flatten.length ≤ room) :
    fitRecords room l = (l.flatten, l.length) := by
  induction l generalizing room with
  | nil => rfl
  | cons r l ih =>
    rw [List.flatten_cons, List.length_append] at h
    rw [fitRecords, if_pos (by omega), ih (by omega), List.flatten_cons, List.length_cons]

theorem starterGate_iff {actor starter : Nat} : starterGate actor starter = true ↔ actor = 0xFFFF ∨ actor = starter := by
  simp [starterGate, operator]

/-- Settles O11, command by command: each body passes its checks, or fails the one that the clause names. -/
theorem slaotCommands : Obligations.SlaotCommands := by
  unfold Obligations.SlaotCommands
  refine ⟨?status, ?statusEnded, ?cancel, ?cancelEnded, ?notOwner, ?notFound, ?caps, ?fit, ?info, ?pin, ?pinOther, ?assign,
    ?assigned, ?inband⟩
  case status =>
    intro s r o h hlen hop hact
    exact slaotRow_done h (by simp [opStatusBody, hlen, hop, starterGate_iff.mpr hact]; rfl) rfl
  case statusEnded =>
    intro s r o h hlen hop hend hact
    exact slaotRow_done h (by simp [opStatusBody, hlen, hop, hend, starterGate_iff.mpr hact]; rfl) rfl
  case cancel =>
    intro s r o h hlen hop hact
    exact slaotRow_done h (by simp [opCancelBody, hlen, hop, starterGate_iff.mpr hact]) rfl
  case cancelEnded =>
    intro s r o h hlen hop hend hact
    exact slaotRow_done h (by simp [opCancelBody, hlen, hop, hend, starterGate_iff.mpr hact]) rfl
  case notOwner =>
    intro s r o hlen hop hact hstart
    have hgate : starterGate r.actor o.starter = false := by simp [starterGate, operator, hact, hstart]
    exact ⟨fun h => slaotRow_error h (by simp [opStatusBody, hlen, hop, hgate]; rfl),
      fun h => slaotRow_error h (by simp [opCancelBody, hlen, hop, hgate]; rfl)⟩
  case notFound =>
    intro s r hlen hop hend
    exact ⟨fun h => slaotRow_error h (by simp [opStatusBody, hlen, hop, hend]; rfl),
      fun h => slaotRow_error h (by simp [opCancelBody, hlen, hop, hend]; rfl)⟩
  case caps =>
    intro s r h hlen
    exact slaotRow_done h (by simp [capsBody, hlen]; rfl) rfl
  case fit => exact fun l h => fitRecords_of_le h
  case info =>
    intro s r h hlen
    exact slaotRow_done h (by simp [infoBody, hlen]; rfl) rfl
  case pin =>
    intro s r h hlen hver
    exact slaotRow_doneCfg h (by simp [pinBody, hlen, ifaceVersion, hver])
  case pinOther =>
    intro s r h hlen hver
    exact slaotRow_error h (by simp [pinBody, chk, hlen, ifaceVersion, hver]; rfl)
  case assign =>
    intro s r h
    dsimp only
    intro hlen hk1 hk6 hz1 hn hz2 hsize hpresent hf hkind hmb hobj
    refine slaotRow_doneCfg h ?_
    simp only [assignBody, State.taken_owns, State.taken_transferable, State.taken_kindPresent, State.taken_fnPresent]
    rw [chk_of, chk_of, chk_of, chk_of (all_run fun i hi hl => (hobj i hi hl).1),
      chk_of (all_run fun i hi hl => (hobj i hi hl).2)]
    · exact decide_eq_true hpresent
    · simpa [operator] using hmb
    · simp only [Bool.and_eq_true, Bool.or_eq_true, bne_iff_ne, beq_iff_eq, decide_eq_true_eq]
      exact ⟨⟨⟨⟨⟨⟨⟨⟨hlen, hk1⟩, hk6⟩, hz1⟩, hn⟩, hsize⟩, hz2⟩, hf⟩,
        Decidable.not_or_of_imp fun hk => all_run fun i hi hl => by simpa using hkind hk i hi hl⟩
  case assigned =>
    intro s kind first n f i hfirst hlast
    rw [owner_foldl_setOwner, if_pos (mem_run.mpr ⟨hfirst, hlast⟩)]
  case inband =>
    intro s r h
    dsimp only
    intro hlen hsrc hz1 hport hz2 hports hact
    exact slaotRow_doneCfg h (by simp [inbandBody, chk, operator, *])

end Sys2Proof.Machine
end

section
/-! PROOF. Supplies, temperature and clocks (02 R40 to R45, R53 to R63). First what the operations of these rows leave: the
board when events are told, the failed groves when a stand fails, the links of a grove that loses its clock; then the rows. -/
namespace Sys2Proof.Machine

/-! ## What these operations leave alone -/

/-- A reading that no step of a fold changes is as it was before. -/
theorem foldl_fixed {σ α β : Type} {f : σ → α → σ} {p : σ → β} (h : ∀ x a, p (f x a) = p x) (l : List α) (x : σ) :
    p (l.foldl f x) = p x := by
  induction l generalizing x with
  | nil => rfl
  | cons a l ih => rw [List.foldl_cons, ih, h]
theorem fireAll_board (s : State) (k ty : Nat) (d : W32) : (s.fireAll k ty d).board = s.board :=
  (State.fireAll_keeps (m := 0x500004) rfl s k ty d (Keeps.rfl' _ s)).same (p := .board) rfl
theorem fireAll_hl (s : State) (k ty : Nat) (d : W32) : (s.fireAll k ty d).hl = s.hl :=
  (State.fireAll_keeps (m := 0x500004) rfl s k ty d (Keeps.rfl' _ s)).same (p := .hl) rfl
theorem log_hl (s : State) (l : LocWord) (k v : Nat) (d : W32) : (s.log l k v d).hl = s.hl :=
  (State.log_keeps (m := 0x60) rfl s l k v d (Keeps.rfl' _ s)).same (p := .hl) rfl

/-! ## AVS (02 R40 to R43) -/

/-- The targets after a computation: those of the stands with a voltage, and no others. -/
theorem getD_foldl_set_range (f : Nat → Option Nat) (n : Nat) (m : SMap Nat) (i d : Nat) :
    SMap.getD ((List.range n).foldl (fun m i => (f i).elim m (SMap.set m i)) m) i d =
      if i < n then (f i).getD (SMap.getD m i d) else SMap.getD m i d := by
  induction n with
  | zero => simp
  | succ n ih =>
    rw [List.range_succ, List.foldl_append, List.foldl_cons, List.foldl_nil]
    by_cases hi : i = n
    · subst hi
      cases h : f i <;> simp [ih]
    · have hset (v : Nat) (m' : SMap Nat) : SMap.getD (SMap.set m' n v) i d = SMap.getD m' i d :=
        SMap.getD_set_ne _ _ _ _ _ hi
      have hlt : i < n + 1 ↔ i < n := by omega
      cases h : f n <;> simp [ih, hset, hlt]
def avsTargets (l : List Nat) (m : SMap Nat) : SMap Nat :=
  (List.range 4).foldl (fun m i => (l[i]?.map avsTargetOf).elim m (SMap.set m i)) m
theorem upToClk_eq (s : State) (t : Nat) : s.upToClk t = { s with now := (s.upToClk t).now } := by
  unfold State.upToClk
  split <;> rfl
/-- The moment of a computation: a time `d` after the last. -/
def State.avsMoment (s : State) (d : Nat) : State := s.board.avsLast.elim s fun t => s.upToClk (t + d)
section
variable {s : State}
theorem avsMoment_of_none (d : Nat) (h : s.board.avsLast = none) : s.avsMoment d = s := by
  rw [State.avsMoment, h, Option.elim_none]
theorem avsMoment_of_some {t : Nat} (d : Nat) (h : s.board.avsLast = some t) : s.avsMoment d = s.upToClk (t + d) := by
  rw [State.avsMoment, h, Option.elim_some]
theorem avsMoment_eq (d : Nat) : s.avsMoment d = { s with now := (s.avsMoment d).now } := by
  cases h : s.board.avsLast with
  | none => rw [avsMoment_of_none d h]
  | some t => rw [avsMoment_of_some d h, ← upToClk_eq]
theorem avsMoment_now (d : Nat) : (s.avsMoment d).now =
    match s.board.avsLast with | none => s.now | some t => (s.upToClk (t + d)).now := by
  unfold State.avsMoment
  cases s.board.avsLast <;> rfl
end
/-- The state once the targets have been computed. -/
def State.avsComputed (s : State) (l : List Nat) : State :=
  { s with board := { s.board with avsLast := some s.clk, avsTarget := avsTargets l s.board.avsTarget } }
theorem setBoard_avsComputed (s : State) (l : List Nat) : (s.setBoard fun b => { b with
      avsLast := some s.clk
      avsTarget := (List.range 4).foldl (fun m i =>
        match l[i]? with | some v => SMap.set m i (avsTargetOf v) | none => m) b.avsTarget }) = s.avsComputed l := by
  have hf : (fun (m : SMap Nat) (i : Nat) => match l[i]? with | some v => SMap.set m i (avsTargetOf v) | none => m) =
      fun m i => (l[i]?.map avsTargetOf).elim m (SMap.set m i) := by
    funext m i
    cases l[i]? <;> rfl
  rw [State.avsComputed, avsTargets, ← hf]
  rfl
theorem exec_avsTargetCompute {s : State} (l : List Nat) (h : s.running = true) :
    exec (.avsTargetCompute l) s = .next ((s.avsMoment (ms 86400000)).avsComputed l) := by
  change execAvsTargetCompute l s = _
  rw [execAvsTargetCompute, whenRunning_of h]
  refine congrArg Host.Outcome.next ((setBoard_avsComputed _ l).trans ?_)
  cases ha : s.board.avsLast with
  | none => rw [avsMoment_of_none _ ha]
  | some t => rw [avsMoment_of_some _ ha]
theorem avsGood_iff {v r : Nat} {ack : Bool} : avsGood v ack r = true ↔ ack = true ∧ 1000 * (max v r - min v r) ≤ 15 * v := by
  simp [avsGood]

/-! ## A stand that fails (02 R51; 21 R616) -/

theorem freeFrame_hl (s : State) (t : Nat) : (s.freeFrame t).hl = s.hl :=
  (State.freeFrame_keeps (m := 0x201e04) rfl s t (Keeps.rfl' _ s)).same (p := .hl) rfl
theorem loseFrame_failedGroves (s : State) (g t : Nat) : (s.loseFrame g t).hl.failedGroves = s.hl.failedGroves := by
  unfold State.loseFrame
  split
  · split
    · rw [freeFrame_hl]
    · dsimp only
      split
      · have hl : ((s.healthCtr g 0 1).decide_ t .free false).hl = (s.healthCtr g 0 1).hl :=
          (State.decide__keeps (m := 0x201e04) rfl _ t .free false (Keeps.rfl' _ _)).same (p := .hl) rfl
        rw [hl]
        rfl
      · rw [freeFrame_hl]
        rfl
  · rfl
/-- A grove that fails joins the failed groves. -/
theorem failGrove_failedGroves {s : State} {g c : Nat} (hg : g < s.groves) (hf : s.groveFailed g = false)
    (hc : s.groveCause g c = true) : (s.failGrove g c).hl.failedGroves = s.hl.failedGroves ++ [g] := by
  unfold State.failGrove
  rw [if_neg (by simp [hg, hf, hc])]
  dsimp only
  have hqp (l : List Nat) (u : State) : (l.foldl State.qpToReset u).hl = u.hl := foldl_fixed (p := State.hl) (fun u q =>
    (State.qpToReset_keeps (m := 0x770004) rfl u q (Keeps.rfl' _ u)).same (p := .hl) rfl) l u
  have hcl (l : List Nat) (u : State) : (l.foldl (fun s c => s.clFault c 2) u).hl = u.hl := foldl_fixed (p := State.hl)
    (fun u c => (State.clFault_keeps (m := 0x740744) rfl u c 2 (Keeps.rfl' _ u)).same (p := .hl) rfl) l u
  have hturn (u : State) : (u.turnAway g).hl = u.hl :=
    (State.turnAway_keeps (m := 0x201e04) rfl u g (Keeps.rfl' _ u)).same (p := .hl) rfl
  have hframe (l : List Nat) (u : State) : (l.foldl (fun s t => s.loseFrame g t) u).hl.failedGroves = u.hl.failedGroves :=
    foldl_fixed (p := fun u => u.hl.failedGroves) (fun u t => loseFrame_failedGroves u g t) l u
  have hunit (l : List TUnit) (u : State) : (l.foldl (fun s u => s.loseUnit u) u).hl = u.hl := foldl_fixed (p := State.hl)
    (fun u x => (State.loseUnit_keeps (m := 0x400) rfl u x (Keeps.rfl' _ u)).same (p := .hl) rfl) l u
  have hports (u : State) : (u.losePorts g 0 32 6).hl = u.hl :=
    (State.losePorts_keeps (m := 0x701e04) rfl u g 0 32 6 (Keeps.rfl' _ u)).same (p := .hl) rfl
  have hctr (u : State) (n : Nat) : (u.healthCtr g 0 n).hl.failedGroves = u.hl.failedGroves := rfl
  rw [fireAll_hl, log_hl, hqp, hcl, hturn, hframe, hunit, hctr, State.setArrivals_hl, State.setTransit_hl, hports]
theorem failGrove_groves (s : State) (g c : Nat) : (s.failGrove g c).groves = s.groves := by
  rw [State.groves, (State.failGrove_keeps (m := 0x1771f64) rfl s g c (Keeps.rfl' _ s)).variant, State.groves]
/-- Once its supply has failed a grove counts as failed. -/
theorem groveFailed_failGrove (s : State) {g : Nat} (x : Nat) (hg : g < s.groves) :
    (s.failGrove g 4).groveFailed x = (s.groveFailed x || x == g) := by
  cases hf : s.groveFailed g with
  | true =>
    have hsame : s.failGrove g 4 = s := if_pos (by simp [hf])
    rw [hsame]
    by_cases hx : x = g
    · simp [hx, hf]
    · simp [hx]
  | false =>
    rw [State.groveFailed, failGrove_failedGroves hg hf rfl]
    by_cases hx : x = g <;> simp [State.groveFailed, hx]
theorem failGrove_of_absent {s : State} {g : Nat} (c : Nat) (h : s.groves ≤ g) : s.failGrove g c = s := if_pos (by simp [h])
/-- Of the groves of a list those that are present have failed. -/
theorem groveFailed_foldl_failGrove (l : List Nat) (s : State) {g : Nat} (hg : g < s.groves)
    (h : g ∈ l ∨ s.groveFailed g = true) : (l.foldl (fun u g => u.failGrove g 4) s).groveFailed g = true := by
  induction l generalizing s with
  | nil => simpa using h
  | cons x l ih =>
    refine ih (s.failGrove x 4) (by rw [failGrove_groves]; exact hg) ?_
    by_cases hx : x < s.groves
    · rw [groveFailed_failGrove s g hx]
      rcases h with h | h
      · rcases List.mem_cons.mp h with rfl | h
        · simp
        · exact .inl h
      · simp [h]
    · rw [failGrove_of_absent 4 (Nat.le_of_not_lt hx)]
      rcases h with h | h
      · rcases List.mem_cons.mp h with rfl | h
        · exact absurd hg hx
        · exact .inl h
      · exact .inr h
theorem failUnit_groves (s : State) (l : LocWord) (c : Nat) : (s.failUnit l c).groves = s.groves := by
  rw [State.groves, (State.failUnit_keeps (m := 0x1fffff5) rfl s l c (Keeps.rfl' _ s)).variant, State.groves]
theorem groveFailed_failStand (s : State) {i g : Nat} (hg : g < s.groves) (h : g / 4 = i) :
    (s.failStand i).groveFailed g = true := by
  unfold State.failStand
  dsimp only
  have hgroves (u : State) (k : Nat) : (u.failUnit (locStand i k 0) 1).groves = u.groves := failUnit_groves ..
  have hmem : g ∈ (List.range 4).map (4 * i + ·) := mem_run.mpr (by omega)
  have hall := groveFailed_foldl_failGrove _ ([0x10, 0x11, 0x12].foldl (fun s k => s.failUnit (locStand i k 0) 1) s)
    (g := g) (by rw [foldl_fixed (p := State.groves) hgroves]; exact hg) (.inl hmem)
  rwa [List.foldl_map] at hall

/-! ## The state of a link, and what leaves it alone (05 R146, R149) -/

section
variable (s : State) (n m : Nat)
theorem eth_setEth_state (x : PortSt) (h : x.state = (s.eth n).state) : ((s.setEth n x).eth m).state = (s.eth m).state := by
  by_cases hm : m = n
  · rw [hm, State.eth_setEth, h]
  · rw [State.eth_setEth_ne _ _ _ hm]
theorem eth_ethCtr_state (i k : Nat) : ((s.ethCtr n i k).eth m).state = (s.eth m).state := eth_setEth_state _ _ _ _ rfl
theorem eth_macControl (op : Nat) (b : List Byte) : (s.macControl n op b).eth = s.eth := by
  unfold State.macControl
  dsimp only
  split <;> rfl
theorem eth_sendPfc_state (l : List Nat) (q : Nat) : ((s.sendPfc n l q).eth m).state = (s.eth m).state := by
  unfold State.sendPfc
  dsimp only
  split
  · exact (foldl_fixed (p := fun u => (u.eth m).state) (fun u p => eth_ethCtr_state u n m (16 + p) 1) _ _).trans
      (by rw [eth_macControl])
  · rw [eth_macControl]
theorem eth_sendXoff_state : ((s.sendXoff n).eth m).state = (s.eth m).state := by
  unfold State.sendXoff
  dsimp only
  split
  · rw [eth_macControl]
    exact eth_setEth_state _ _ _ _ rfl
  · rw [eth_sendPfc_state]
    exact eth_setEth_state _ _ _ _ rfl
/-- Flow control toward the partner leaves the state of every link. -/
theorem eth_pfcUpdate_state (p : Nat) : ((s.pfcUpdate n p).eth m).state = (s.eth m).state := by
  unfold State.pfcUpdate
  dsimp only
  split
  · rfl
  split
  · split
    · exact eth_setEth_state _ _ _ _ rfl
    · rw [eth_sendXoff_state]
      exact eth_setEth_state _ _ _ _ rfl
  split
  · split
    · split
      · rw [eth_macControl]
        exact eth_setEth_state _ _ _ _ rfl
      · exact eth_setEth_state _ _ _ _ rfl
    · rw [eth_sendPfc_state]
      exact eth_setEth_state _ _ _ _ rfl
  · rfl
theorem eth_unrefCell_state (g c : Nat) : ((s.unrefCell g c).eth m).state = (s.eth m).state := by
  unfold State.unrefCell State.pairUpdate
  dsimp only
  split
  · split
    · split
      · rw [eth_pfcUpdate_state]
        rfl
      · rfl
    · rfl
  · rfl
theorem eth_dropTag_state (g t : Nat) : ((s.dropTag g t).eth m).state = (s.eth m).state := by
  unfold State.dropTag
  dsimp only
  split
  · rfl
  · exact foldl_fixed (p := fun u => (u.eth m).state) (fun u c => eth_unrefCell_state u m g c) _ _
theorem eth_of_et {a b : State} (h : b.et = a.et) : b.eth = a.eth := by
  unfold State.eth
  rw [h]
theorem eth_freeFrame_state (t : Nat) : ((s.freeFrame t).eth m).state = (s.eth m).state := by
  unfold State.freeFrame
  dsimp only
  have hreap (u : State) : (u.reap t).eth = u.eth :=
    eth_of_et ((State.reap_keeps (m := 0x400) rfl u t (Keeps.rfl' _ u)).same (p := .et) rfl)
  have habandon (u : State) : (u.abandon t).eth = u.eth :=
    eth_of_et ((State.abandon_keeps (m := 0x1800) rfl u t (Keeps.rfl' _ u)).same (p := .et) rfl)
  have hmod (u : State) (k : FrameRec → FrameRec) : (u.modFrame t k).eth = u.eth := eth_of_et (State.modFrame_et ..)
  have htx : (s.txEnd t none).eth = s.eth :=
    eth_of_et ((State.txEnd_keeps (m := 0x200400) rfl s t none (Keeps.rfl' _ s)).same (p := .et) rfl)
  have hdrop (l : List Nat) (u : State) : ((l.foldl (fun s g => s.dropTag g t) u).eth m).state = (u.eth m).state :=
    foldl_fixed (p := fun u => (u.eth m).state) (fun u g => eth_dropTag_state u m g t) l u
  rw [hreap, hdrop, habandon, hmod, htx]
theorem eth_flushPort_state : ((s.flushPort n).eth m).state = (s.eth m).state :=
  foldl_fixed (p := fun u => (u.eth m).state)
    (fun u t => (eth_freeFrame_state _ m t).trans (eth_ethCtr_state u n m 25 1)) _ s
theorem eth_cutSending_state : ((s.cutSending n).eth m).state = (s.eth m).state := by
  unfold State.cutSending
  dsimp only
  split
  · rw [eth_freeFrame_state]
    rfl
  · rfl
theorem eth_fireDev (p k ty : Nat) (d : W32) : (s.fireDev p k ty d).eth = s.eth :=
  eth_of_et ((State.fireDev_keeps (m := 0x500004) rfl s p k ty d (Keeps.rfl' _ s)).same (p := .et) rfl)
/-- A port that goes down is in state 4, and no other link changes its state. -/
theorem eth_portDown_state (r : Nat) (cut : Bool) : ((s.portDown n r cut).eth m).state =
    if m = n ∧ s.isUp n = true then 4 else (s.eth m).state := by
  unfold State.portDown
  cases hup : s.isUp n with
  | false => simp
  | true =>
    dsimp only
    rw [if_pos rfl, State.fireLink, eth_fireDev, eth_ethCtr_state, eth_flushPort_state]
    have hcut (u : State) : ((if cut = true then u.cutSending n else u).eth m).state = (u.eth m).state := by
      split
      · exact eth_cutSending_state u n m
      · rfl
    rw [hcut]
    by_cases hm : m = n
    · rw [hm, State.eth_setEth, if_pos ⟨rfl, rfl⟩]
    · rw [State.eth_setEth_ne _ _ _ hm, if_neg fun h => hm h.1]

/-! ## Links without a reference clock (02 R55) -/

/-- A port lost for good is in state 4, and no other link changes its state. -/
theorem eth_losePort_state (r : Nat) :
    let u := s.portDown n r true
    ((u.setEth n { u.eth n with state := 4, reason := r, retryAt := none }).eth m).state =
      if m = n then 4 else (s.eth m).state := by
  intro u
  by_cases hm : m = n
  · rw [hm, State.eth_setEth, if_pos rfl]
  · rw [State.eth_setEth_ne _ _ _ hm, if_neg hm, eth_portDown_state, if_neg fun h => hm h.1]
theorem eth_losePorts_state (g a b r : Nat) : ((s.losePorts g a b r).eth m).state =
    if m ∈ ((List.range 32).filter fun i => s.isPort (32 * g + i) && i < b && a < i + s.width (32 * g + i) &&
      (s.eth (32 * g + i)).state != 0).map (32 * g + ·) then 4 else (s.eth m).state := by
  unfold State.losePorts
  generalize (List.range 32).filter _ = l
  induction l generalizing s with
  | nil => simp
  | cons i l ih =>
    rw [List.foldl_cons, ih, eth_losePort_state, List.map_cons]
    by_cases hi : m = 32 * g + i
    · simp [hi]
    · rw [if_neg hi]
      simp only [List.mem_cons, hi, false_or]
theorem width_pos : 0 < s.width n := by
  unfold State.width
  have hp : 0 < portWidth (s.group (n / 8)).mask (n % 8) := by
    unfold portWidth
    cases h : (List.range 8).find? fun d => 1 ≤ d && (n % 8 + d ≥ 8 || bit (s.group (n / 8)).mask (n % 8 + d)) with
    | none => decide
    | some d =>
      have := List.find?_some h
      simp only [Bool.and_eq_true, decide_eq_true_eq] at this
      exact this.1
  omega
/-- No port of a grove that loses its reference clock stays up. -/
theorem isUp_losePorts {g : Nat} (r : Nat) (hg : n / 32 = g) (hp : s.isPort n = true) :
    (s.losePorts g 0 32 r).isUp n = false := by
  have hn : 32 * g + n % 32 = n := by omega
  have hw := width_pos s n
  rw [State.isUp, eth_losePorts_state]
  split
  · rfl
  next h =>
    simp only [List.mem_map, List.mem_filter, List.mem_range, not_exists, not_and, Bool.and_eq_true, decide_eq_true_eq] at h
    have h0 : (s.eth n).state = 0 := by
      refine Decidable.by_contra fun h0 => ?_
      refine h (n % 32) ⟨by omega, ?_⟩ hn
      rw [hn]
      exact ⟨⟨⟨hp, by omega⟩, by omega⟩, by simpa using h0⟩
    rw [h0]
    rfl
end

/-! ## The rows -/

theorem exec_avsStep_moving {s : State} {i : Nat} (ack : Bool) (r : Nat) (h : s.running = true) (hi : i < 4)
    (ht : s.hl.takeover = none) (hstop : SMap.getD s.board.avsStopped i false = false)
    (hne : s.board.vcoreOf i ≠ s.board.target i) :
    let v := avsNext (s.board.vcoreOf i) (s.board.target i)
    let u := s.upToClk (SMap.getD s.board.avsStepLast i 0 + us 50)
    let w := (u.setBoard fun b => { b with avsStepLast := SMap.set b.avsStepLast i u.clk }).emit (.vout i v)
    let n := SMap.getD s.board.avsFails i 0 + 1
    exec (.avsStep i ack r) s = .next (
      if avsGood v ack r = true then
        w.setBoard fun b => { b with vcore := SMap.set b.vcore i v, avsFails := SMap.del b.avsFails i }
      else if n < 3 then w.setBoard fun b => { b with avsFails := SMap.set b.avsFails i n }
      else (w.setBoard fun b => { b with avsStopped := SMap.set b.avsStopped i true, avsFails := SMap.del b.avsFails i }).avsFault
        (0x40 + i)) := by
  intro v u w n
  have h4 : ¬ 4 ≤ i := by omega
  change execAvsStep i ack r s = _
  rw [execAvsStep, whenRunning_of h]
  refine congrArg Host.Outcome.next ?_
  exact (if_neg (by simp [h4, ht])).trans ((if_neg (by simp [hstop])).trans (if_neg hne))
theorem exec_avsStep_stopped {s : State} {i : Nat} (ack : Bool) (r : Nat) (h : s.running = true) (hi : i < 4)
    (ht : s.hl.takeover = none) (hstop : SMap.getD s.board.avsStopped i false = true) :
    exec (.avsStep i ack r) s = .next (if avsGood (s.board.vcoreOf i) ack r = true then
      s.setBoard fun b => { b with avsStopped := SMap.del b.avsStopped i, avsFails := SMap.del b.avsFails i } else s) := by
  have h4 : ¬ 4 ≤ i := by omega
  change execAvsStep i ack r s = _
  rw [execAvsStep, whenRunning_of h]
  refine congrArg Host.Outcome.next ?_
  exact (if_neg (by simp [h4, ht])).trans (if_pos hstop)
theorem exec_avsStep_idle {s : State} {i : Nat} (ack : Bool) (r : Nat) (h : s.running = true) (hi : i < 4)
    (ht : s.hl.takeover.isSome = true ∨ (SMap.getD s.board.avsStopped i false = false ∧ s.board.vcoreOf i = s.board.target i)) :
    exec (.avsStep i ack r) s = .next s := by
  have h4 : ¬ 4 ≤ i := by omega
  change execAvsStep i ack r s = _
  rw [execAvsStep, whenRunning_of h]
  refine congrArg Host.Outcome.next ?_
  cases htake : s.hl.takeover.isSome with
  | true => exact if_pos (by simp)
  | false =>
    obtain ⟨hstop, heq⟩ := ht.resolve_left (by simp [htake])
    exact (if_neg (by simp [h4])).trans ((if_neg (by simp [hstop])).trans (if_pos heq))

/-- The state once the sum of the rails has been judged. -/
theorem exec_powerWindowEnd {s : State} (l : List RailPower) (h : s.running = true) :
    let mw := packagePower l
    let b := s.board
    let u := s.upTo ((s.now / ms 1 + 1) * ms 1)
    exec (.powerWindowEnd l) s = .next (
      if 2400000 < mw ∧ b.powerThrottling = false then
        { u with board := { b with throttle := min 4 (b.throttle + 1), powerThrottling := true } }.fireAll 241 0x0D02
          (powerData mw true)
      else if 2400000 < mw ∨ b.thermalThrottling = true then { u with board := { b with throttle := min 4 (b.throttle + 1) } }
      else if mw ≤ 2300000 then
        if b.powerThrottling = true ∧ b.throttle ≤ 1 then
          { u with board := { b with throttle := 0, powerThrottling := false } }.fireAll 241 0x0D02 (powerData mw false)
        else { u with board := { b with throttle := b.throttle - 1 } }
      else u) := by
  intro mw b u
  change execPowerWindowEnd l s = _
  rw [execPowerWindowEnd, whenRunning_of h]
  refine congrArg Host.Outcome.next ?_
  change (if 2400000 < mw ∨ b.thermalThrottling = true then
      if 2400000 < mw ∧ b.powerThrottling = false then State.fireAll _ 241 0x0D02 (powerData mw true)
      else { u with board := { b with throttle := min 4 (b.throttle + 1) } }
    else if mw ≤ 2300000 then
      if b.powerThrottling = true ∧ b.throttle - 1 = 0 then State.fireAll
        { u with board := { b with throttle := b.throttle - 1, powerThrottling := false } } 241 0x0D02 (powerData mw false)
      else { u with board := { b with throttle := b.throttle - 1 } }
    else u) = _
  by_cases hstart : 2400000 < mw ∧ b.powerThrottling = false
  · rw [if_pos (.inl hstart.1), if_pos hstart, if_pos hstart]
    rfl
  rw [if_neg hstart, if_neg hstart]
  refine ite_iff_congr Iff.rfl rfl (ite_iff_congr Iff.rfl ?_ rfl)
  by_cases hstop : b.powerThrottling = true ∧ b.throttle ≤ 1
  · have h0 : b.throttle - 1 = 0 := by omega
    rw [if_pos hstop, if_pos ⟨hstop.1, h0⟩, h0]
  · rw [if_neg hstop, if_neg fun h => hstop ⟨h.1, by omega⟩]

/-! ## Temperature (02 R57 to R59) -/

/-- The warning at 100 °C, armed again below 97 °C. -/
def State.thermalWarned (s : State) : State :=
  if 1600 ≤ s.board.hottest.2 ∧ s.board.warnArmed = true then
    (s.setBoard fun b => { b with warnArmed := false }).fireAll 241 Ev.thermalWarn (thermalData s.board.hottest false)
  else if s.board.hottest.2 < 1552 then s.setBoard fun b => { b with warnArmed := true } else s
/-- Throttling for a hottest sensor `h`. -/
def State.thermalThrottled (s : State) (h : Nat × Nat) : State :=
  if 1648 ≤ h.2 ∧ s.board.thermalThrottling = false then
    (s.setBoard fun b => { b with thermalThrottling := true }).fireAll 241 Ev.thermalThrottle (thermalData h true)
  else if h.2 ≤ 1616 ∧ s.board.thermalThrottling = true then
    (s.setBoard fun b => { b with thermalThrottling := false }).fireAll 241 Ev.thermalThrottle (thermalData h false)
  else s
theorem thermalAct_eq (s : State) : s.thermalAct =
    let u := s.thermalWarned.thermalThrottled s.board.hottest
    if 1760 ≤ s.board.hottest.2 then u.thermalTrip s.board.hottest else u := rfl
theorem thermalWarned_frame (s : State) : ∃ w ev hp out,
    s.thermalWarned = { s with board := { s.board with warnArmed := w }, ev := ev, hp := hp, out := out } ∧
      (1600 ≤ s.board.hottest.2 → w = false) ∧ (s.board.hottest.2 < 1552 → w = true) := by
  unfold State.thermalWarned
  split
  next hw =>
    obtain ⟨ev, hp, out, e⟩ := fireAll_frame (s.setBoard fun b => { b with warnArmed := false }) 241 Ev.thermalWarn
      (thermalData s.board.hottest false)
    exact ⟨false, ev, hp, out, e, fun _ => rfl, fun hlt => absurd hlt (by omega)⟩
  next hw =>
    split
    next hlt => exact ⟨true, s.ev, s.hp, s.out, rfl, fun hle => absurd hlt (by omega), fun _ => rfl⟩
    next hlt =>
      refine ⟨s.board.warnArmed, s.ev, s.hp, s.out, rfl, fun hle => ?_, fun h => absurd h hlt⟩
      exact Bool.eq_false_iff.mpr fun h => hw ⟨hle, h⟩
theorem thermalThrottled_frame (s : State) (h : Nat × Nat) : ∃ x ev hp out,
    s.thermalThrottled h = { s with board := { s.board with thermalThrottling := x }, ev := ev, hp := hp, out := out } ∧
      (1648 ≤ h.2 → x = true) ∧ (h.2 ≤ 1616 → x = false) ∧
      (1616 < h.2 → h.2 < 1648 → x = s.board.thermalThrottling) := by
  unfold State.thermalThrottled
  split
  next hh =>
    obtain ⟨ev, hp, out, e⟩ := fireAll_frame (s.setBoard fun b => { b with thermalThrottling := true }) 241
      Ev.thermalThrottle (thermalData h true)
    exact ⟨true, ev, hp, out, e, fun _ => rfl, fun hle => absurd hh.1 (by omega), fun _ hlt => absurd hlt (by omega)⟩
  next hh =>
    split
    next hl =>
      obtain ⟨ev, hp, out, e⟩ := fireAll_frame (s.setBoard fun b => { b with thermalThrottling := false }) 241
        Ev.thermalThrottle (thermalData h false)
      exact ⟨false, ev, hp, out, e, fun hle => absurd hl.1 (by omega), fun _ => rfl, fun hlt _ => absurd hlt (by omega)⟩
    next hl =>
      refine ⟨s.board.thermalThrottling, s.ev, s.hp, s.out, rfl, fun hle => ?_, fun hle => ?_, fun _ _ => rfl⟩
      · exact (Bool.not_eq_false _).mp fun hf => hh ⟨hle, hf⟩
      · exact Bool.eq_false_iff.mpr fun ht => hl ⟨hle, ht⟩
/-- A trip halts the part and asserts THERM_N, whatever led to it. -/
theorem thermalTrip_eq (s : State) (h : Nat × Nat) : ∃ u : State, s.thermalTrip h = { u with
    board := { u.board with therm := true, squelched := true, dmaStopped := true }
    boot := { u.boot with phase := .halted }, hp := u.hp.sticky, out := u.out ++ [.therm true] } := by
  unfold State.thermalTrip
  generalize s.log ⟨4, h.1 / 16, 0, 0, 0, 0⟩ 0xC 3 (thermalData h false) = u
  exact ⟨u, rfl⟩

/-- Settles O7, row by row. -/
theorem supplyThermalAndClockRows : Obligations.SupplyThermalAndClockRows := by
  unfold Obligations.SupplyThermalAndClockRows
  refine ⟨?target, ?step, ?stopped, fun _ _ _ _ => exec_avsStep_idle _ _, ?alert, ?window, ?stand, ?standHeld,
    fun s _ _ => groveFailed_failStand s, ?sensor, ?trip, ?act, ?sysrefLoss, fun _ => rfl, ?ethrefLoss,
    fun s _ _ => isUp_losePorts s _ 5, ?ppsRise, ?ppsFall⟩
  case target =>
    intro s l h
    have hboard : (s.avsMoment (ms 86400000)).board = s.board := by rw [avsMoment_eq]
    refine ⟨_, exec_avsTargetCompute l h, ?_, ?_, rfl, ?_, ?_⟩
    · intro i v hi hv
      simp only [State.avsComputed, Board.target, avsTargets, getD_foldl_set_range, if_pos hi, hv]
      rfl
    · intro i hi
      simp only [State.avsComputed, Board.target, avsTargets, getD_foldl_set_range, hboard]
      rcases hi with hi | hi
      · rw [if_neg (by omega)]
      · simp [hi]
    · exact avsMoment_now _
    · rw [avsMoment_eq]
      rfl
  case step =>
    intro s i r ack h hi ht hstop hne
    have e := exec_avsStep_moving ack r h hi ht hstop hne
    simp only [avsGood_iff] at e
    dsimp only
    -- The moment of the step is named, so that the two records compare field by field.
    generalize s.upToClk (SMap.getD s.board.avsStepLast i 0 + us 50) = u at e ⊢
    exact e
  case stopped =>
    intro s i r ack h hi ht hstop
    have e := exec_avsStep_stopped ack r h hi ht hstop
    simp only [avsGood_iff] at e
    exact e
  case alert =>
    intro s l h
    change execPmbAlert l s = _
    rw [execPmbAlert, whenServing_of h]
    rfl
  case window => exact fun s l h => exec_powerWindowEnd l h
  case stand =>
    intro s i hp hh hi hheld
    have h4 : ¬ 4 ≤ i := by omega
    change execStandSupplyFault i s = _
    rw [execStandSupplyFault, if_neg (by simp [hp, hh, h4, hheld])]
    rfl
  case standHeld =>
    intro s i h
    change execStandSupplyFault i s = _
    rw [execStandSupplyFault, if_pos (h.imp id (·.imp id .inr))]
  case sensor =>
    intro s i k v hp hi hk
    have h4 : ¬ 4 ≤ i := by omega
    have h16 : ¬ 16 ≤ k := by omega
    change execThermalSensorRead i k v s = _
    rw [execThermalSensorRead, if_neg (by simp [hp, h4, h16])]
    rfl
  case trip =>
    intro s h
    obtain ⟨u, e⟩ := thermalTrip_eq (s.thermalWarned.thermalThrottled s.board.hottest) s.board.hottest
    rw [thermalAct_eq, if_pos h, e]
    exact ⟨rfl, rfl, rfl, rfl, List.getLast?_concat ..⟩
  case act =>
    intro s h
    obtain ⟨w, ev, hp, out, ew, hwarn, harm⟩ := thermalWarned_frame s
    obtain ⟨x, ev', hp', out', ex, hon, hoff, hsame⟩ := thermalThrottled_frame s.thermalWarned s.board.hottest
    rw [thermalAct_eq, if_neg (by omega), ex, ew]
    exact ⟨hon, hoff, fun h1 h2 => (hsame h1 h2).trans (by rw [ew]), hwarn, harm, rfl⟩
  case sysrefLoss =>
    intro s h
    change execSysrefLoss s = _
    rw [execSysrefLoss, if_neg (by simp [h])]
    rfl
  case ethrefLoss =>
    intro s g hg h
    change execEthrefLoss g s = _
    rw [execEthrefLoss, if_neg (by simp [h, hg])]
    rfl
  case ppsRise =>
    intro s h hp
    change execPpsOutPulse s = _
    rw [execPpsOutPulse, whenServing_of h, hp]
    rfl
  case ppsFall =>
    intro s p h hp
    change execPpsOutPulse s = _
    rw [execPpsOutPulse, whenServing_of h, hp]
    rfl

end Sys2Proof.Machine
end

section
/-! PROOF. The PORT commands on layout and attributes (05 R132 to R135, R144 to R158). -/
namespace Sys2Proof.Machine

theorem portGate_then {s : State} {r : Request} {n : Nat} {k x : Except Nat Done} (h : s.ownsPort r.actor n) (hk : k = x) :
    portGate s r n k = x := by
  obtain ⟨h512, hlanes, hport, howns⟩ := h
  simp [portGate, h512, hlanes, hport, howns, hk]

/-! ## Layouts (05 R134, R135) -/

/-- Only the lane group that is named has another layout. -/
theorem setLayout_groups (s : State) (m mode mask : Nat) :
    (s.setLayout m mode mask).cfg.groups = SMap.set s.cfg.groups m ⟨mode, mask⟩ := by
  unfold State.setLayout
  dsimp only
  have hdown (u : State) (n : Nat) : (((u.portDown n 4 true).flushPort n).abandonRx n).cfg = u.cfg :=
    (State.abandonRx_keeps (m := 0x701e04) rfl _ n (State.flushPort_keeps rfl _ n
      (State.portDown_keeps rfl u n 4 true (Keeps.rfl' _ u)))).same (p := .cfg) rfl
  generalize hA : List.foldl _ s (List.filter _ _) = A
  have hcfg : A.cfg = s.cfg := by
    rw [← hA]
    refine foldl_fixed (p := State.cfg) (fun u x => ?_) _ _
    dsimp only
    exact hdown u (8 * m + x.1)
  refine (foldl_fixed (p := fun u : State => u.cfg.groups) (fun u x => ?_) _ _).trans ?_
  · split <;> rfl
  · rw [hcfg]
theorem setLayout_keeps_parts (s : State) (m mode mask : Nat) :
    (s.setLayout m mode mask).mem = s.mem ∧ (s.setLayout m mode mask).nv = s.nv :=
  have h := State.setLayout_keeps (m := 0x701e84) rfl s m mode mask (Keeps.rfl' _ s)
  ⟨h.same (p := .mem) rfl, h.same (p := .nv) rfl⟩

/-! ## Training and disabling (05 R141, R146) -/

theorem eth_sendTraining (s : State) (l n : Nat) : (s.sendTraining l).eth n = s.eth n := rfl
theorem eth_startTraining_of_dead {s : State} {n : Nat} (h : s.deadPort n = true) :
    (s.startTraining n).eth n = { s.eth n with state := 4, retryAt := none } := by
  rw [State.startTraining, if_pos h, State.eth_setEth]
theorem eth_startTraining {s : State} {n : Nat} (h : s.deadPort n = false) :
    (s.startTraining n).eth n = { s.eth n with state := 1, attemptStart := s.clk, retryAt := none } := by
  rw [State.startTraining, if_neg (by simp [h])]
  dsimp only
  split
  · refine (foldl_fixed (p := fun u => u.eth n) (fun u l => eth_sendTraining u l n) _ _).trans ?_
    exact State.eth_setEth s n _
  · exact State.eth_setEth s n _
theorem startTraining_cfg (s : State) (n : Nat) : (s.startTraining n).cfg = s.cfg :=
  (State.startTraining_keeps (m := 0x204) rfl s n (Keeps.rfl' _ s)).same (p := .cfg) rfl
theorem portDown_cfg (s : State) (n r : Nat) (cut : Bool) : (s.portDown n r cut).cfg = s.cfg :=
  (State.portDown_keeps (m := 0x701e04) rfl s n r cut (Keeps.rfl' _ s)).same (p := .cfg) rfl

/-- Settles O12, command by command, with the states a port goes to. -/
theorem portCommands : Obligations.PortCommands := by
  unfold Obligations.PortCommands
  refine ⟨?group, ?layout, ?set, ?train, ?dead, ?disable, ?maxFrame, ?get, ?stats, ?retrain⟩
  case group =>
    intro s r m mode mask h hlen hm hmode hmask hz h64 hgroves hmode1 hok howns hfail
    refine slaotRow_doneCfg h ?_
    simp only [groupBody, hm, hmode, hmask]
    exact chk_then (by simp [hlen, hz, h64, hmode1, hok]) (chk_then (decide_eq_true hgroves)
      (chk_then (by simpa using howns) (chk_then (by simpa using hfail) rfl)))
  case layout =>
    intro s m mode mask _
    have hgroup (k : Nat) : (s.setLayout m mode mask).group k = SMap.getD (SMap.set s.cfg.groups m ⟨mode, mask⟩) k {} := by
      rw [State.group, setLayout_groups]
    obtain ⟨hmem, hnv⟩ := setLayout_keeps_parts s m mode mask
    exact ⟨by rw [hgroup, SMap.getD_set_self], fun k hk => by rw [hgroup, SMap.getD_set_ne _ _ _ _ _ hk]; rfl, hmem, hnv⟩
  case set =>
    intro s r n h hlen hn hport hfail hen hflow hptp hmin hmax hhold hz1 hz2 hz3
    dsimp only
    refine slaotRow_doneCfg h ?_
    simp only [portSetBody, hn]
    refine chk_then (by simp [portCfgOf, hlen, hen, hflow, hptp, hmin, hmax, hhold, hz1, hz2, hz3])
      (portGate_then (s := s.taken) hport (chk_then (by simpa using hfail) ?_))
    simp only [Bool.and_eq_true, Bool.not_eq_true', beq_iff_eq]
    rfl
  case train =>
    intro s n h
    rw [eth_startTraining h]
    exact ⟨rfl, rfl, rfl⟩
  case dead =>
    intro s n h
    rw [eth_startTraining_of_dead h]
    exact ⟨rfl, rfl⟩
  case disable =>
    intro s n
    rw [State.disablePort, State.eth_setEth]
    exact ⟨rfl, rfl⟩
  case maxFrame =>
    intro s r h hlen hmax
    refine slaotRow_error h (chk_not (Bool.eq_false_iff.mpr fun hc => ?_) _ _)
    simp only [Bool.and_eq_true, decide_eq_true_eq] at hc
    obtain ⟨⟨⟨⟨⟨⟨-, hlow⟩, hhigh⟩, -⟩, -⟩, -⟩, -⟩ := hc
    have hlow : 64 ≤ fld r.payload 6 2 := hlow
    have hhigh : fld r.payload 6 2 ≤ 16000 := hhigh
    omega
  case get =>
    intro s r n h hlen hn hport
    refine slaotRow_done h ?_ rfl
    simp only [portGetBody, hn]
    exact chk_then (by simp [hlen]) (portGate_then (s := s.taken) hport rfl)
  case stats =>
    intro s r n h hlen hn hport
    refine slaotRow_done h ?_ rfl
    simp only [portStatsBody, hn]
    exact chk_then (by simp [hlen]) (portGate_then (s := s.taken) hport rfl)
  case retrain =>
    intro s r n h hlen hn hport hen hfail
    refine slaotRow_done h ?_ (by rw [startTraining_cfg, portDown_cfg]; rfl)
    simp only [portRetrainBody, hn]
    exact chk_then (by simp [hlen]) (portGate_then (s := s.taken) hport (chk_then hen (chk_then (by simpa using hfail) rfl)))

end Sys2Proof.Machine
end

section
/-! PROOF. How a window reaches a sapling thread (06 R160 to R163, R179), and the commands of parse programs (06 R182 to
R188). -/
namespace Sys2Proof.Machine

/-! ## Dispatch (06 R160 to R163) -/

theorem parser_parseCtr (s : State) (g i n : Nat) :
    (s.parseCtr g i n).parser g = { s.parser g with ctrs := (s.parser g).ctrs.add i n } := State.parser_setParser ..
theorem svc_parseCtr (s : State) (g i n : Nat) : (s.parseCtr g i n).svc = s.svc := rfl

/-- Settles O15, row by row. -/
theorem saplingDispatch : Obligations.SaplingDispatch := by
  unfold Obligations.SaplingDispatch
  refine ⟨?ready, ?dispatch, ?start, ?candidate, ?ring⟩
  case ready =>
    intro s tag f h hf hstage hgone hlen
    have hframe (x : Nat) (p : Parser) : ((s.upTo x).setParser (tagGrove tag) p).frame tag = some f := hf
    change execWindowReady tag s = _
    rw [execWindowReady, whenRunning_of h]
    simp only [hf]
    rw [if_neg (by simp [hstage, hgone]; exact fun hp => Nat.not_lt.mp (by simpa using hlen hp)), modFrame_of (hframe _ _)]
    rfl
  case dispatch =>
    intro s t tag rest h hlive hq hidle
    change execWindowDispatch t s = _
    rw [execWindowDispatch, whenRunning_of h]
    simp only [hq]
    rw [if_pos (by rcases hidle with hidle | ⟨hone, hbusy⟩ <;> simp [*])]
  case start =>
    intro s t c cs f h hc hstart hf
    change execThreadFrameStart t s = _
    rw [execThreadFrameStart, whenRunning_of h]
    simp only [hc, hstart, hf]
    rfl
  case candidate =>
    intro s tag a f x h hf hx ha hcheck
    change execThintCandidateDeliver tag s = _
    rw [execThintCandidateDeliver, whenRunning_of h]
    simp only [hf, hx, ha, hcheck]
    rfl
  case ring =>
    intro s g r
    dsimp only
    unfold State.deliverCandidate
    dsimp only
    split
    · rw [svc_parseCtr, State.svc_setSvc, parser_parseCtr]
      exact ⟨rfl, rfl, getD_add_self ..⟩
    · rw [svc_parseCtr, parser_parseCtr]
      exact ⟨rfl, getD_add_self ..⟩

/-! ## Parse programs (06 R182 to R188) -/

section
variable {s : State} {r : Request} {g : Nat} {len : Nat} {wf : List Byte → Bool}
/-- What the commands that read one grove answer, once their checks have passed. -/
theorem groveRead_then {k : State → Request → Nat → Except Nat Done} {x : Except Nat Done} (hlen : r.payload.length = len)
    (hg : fld r.payload 0 1 = g) (hown : s.ownsWholeGrove r.actor g) (hwf : wf r.payload = true) (hk : k s.taken r g = x) :
    groveRead len wf k s.taken r = x := by
  obtain ⟨h16, hgroves, hgate⟩ := hown
  simp only [groveRead, hg]
  exact chk_then (by simp [hlen, h16, hwf]) (chk_then (decide_eq_true hgroves) (chk_then hgate hk))
end
/-- The program of a bank that has just been switched to is the one written into it. -/
theorem parser_switchBank {s : State} {g : Nat} (p : Option Program) (hq : (s.parser g).queue = [])
    (ha : (s.parser g).active ≤ 1) : let t := (s.switchBank g p).parser g
    t.active = 1 - (s.parser g).active ∧ t.words t.active = (p.map (·.words)).getD Config.builtinProgram ∧ t.ctrs = [] := by
  have hp : (s.switchBank g p).parser g =
      let next := 1 - (s.parser g).active
      let ctrs := if (s.parser g).queue.isEmpty then [] else Ctrs.peak [] 13 (s.parser g).queue.length
      let bad := (s.parser g).badWords.filter fun i => i / 2048 != next
      if next = 0 then { s.parser g with bank0 := p.map (·.words), active := 0, ctrs := ctrs, badWords := bad }
      else { s.parser g with bank1 := p.map (·.words), active := 1, ctrs := ctrs, badWords := bad } :=
    State.parser_setParser ..
  have h01 : (s.parser g).active = 0 ∨ (s.parser g).active = 1 := by omega
  rcases h01 with h0 | h1
  · simp [hp, hq, h0, Parser.words]
  · simp [hp, hq, h1, Parser.words]

/-- Settles O18, command by command. -/
theorem parseProgramCommands : Obligations.ParseProgramCommands := by
  unfold Obligations.ParseProgramCommands
  refine ⟨?stage, ?load, ?bad, ?switch, ?bank, ?get, ?stats⟩
  case stage =>
    intro s r h
    dsimp only
    intro hlen hclear hz1 hn hn501 hz6 hoff
    refine slaotRow_done h ?_ rfl
    simp only [parseStageBody]
    exact chk_then (by simp [hlen, hclear, hz1, hn, hn501, hz6, hoff]) rfl
  case load =>
    intro s r h
    dsimp only
    intro hlen hmask hbuiltin hz hgs hgate hfree hcheck hops
    refine slaotRow_started h ?_ hops rfl
    simp only [parseLoadBody]
    refine chk_then (by simp [hlen, hmask, hbuiltin, hz]) (chk_then (List.all_eq_true.mpr fun g hg => decide_eq_true (hgs g hg)) (chk_then hgate
      (chk_then (by simpa using fun g hg => (hfree g hg).1) (chk_then (by simpa using fun g hg => (hfree g hg).2) ?_))))
    by_cases hb : fld r.payload 4 1 = 1
    · simp only [hb]
      rfl
    · have h0 : fld r.payload 4 1 = 0 := by omega
      simp only [h0, State.taken_ps, hcheck h0]
      rfl
  case bad =>
    intro s r i k h
    dsimp only
    intro hlen hmask hbuiltin hz hgs hgate hfree hcheck
    refine slaotRow_ok (a := ⟨0x0015, leBytes 2 i ++ leBytes 1 k, 0⟩) h ?_ (tooLarge_self _)
    simp only [parseLoadBody]
    refine chk_then (by simp [hlen, hmask, hbuiltin, hz]) (chk_then (List.all_eq_true.mpr fun g hg => decide_eq_true (hgs g hg)) (chk_then hgate
      (chk_then (by simpa using fun g hg => (hfree g hg).1) (chk_then (by simpa using fun g hg => (hfree g hg).2) ?_))))
    simp only [hbuiltin, State.taken_ps, hcheck]
    rfl
  case switch =>
    intro s h g all rest ok o p hs
    have hd : o.step.data = .parseLoad all (g :: rest) p := hs.2.2.2
    change execParseBankSwitch h ok s = _
    rw [execParseBankSwitch, whenRunning_of hs.1, opRow_on hs]
    simp only [hd]
    cases ok with
    | false => rfl
    | true => simp only [List.isEmpty_iff]; rfl
  case bank =>
    intro s g p hq ha
    obtain ⟨hactive, hwords, hctrs⟩ := parser_switchBank (some p) hq ha
    exact ⟨hactive, hwords, hctrs, SMap.get_set_self .., SMap.getD_set_self ..⟩
  case get =>
    intro s r g h hlen hg hown
    exact slaotRow_done h (groveRead_then hlen hg hown rfl rfl) rfl
  case stats =>
    intro s r g h hlen hg hown
    exact slaotRow_done h (groveRead_then hlen hg hown rfl rfl) rfl

end Sys2Proof.Machine
end

section
/-! PROOF. Walks of the tree (07 R191 to R200, R212), the order of rules and what an image that they allow does (R201 to
R205), the install of a tree (R206 to R209), and the classifier commands (R219 to R225). -/
namespace Sys2Proof.Machine

/-! ## The residual and the leaf (07 R196, R197) -/

/-- The residual of a leaf is its two slices side by side. -/
theorem toNat_append_slices (key : BitVec 512) (a b : Nat) :
    ((key.extractLsb' a 24) ++ (key.extractLsb' b 16)).toNat = keySlice key a 24 * 2 ^ 16 + keySlice key b 16 := by
  have hb : eBits key (b + 16 - 1) b < 2 ^ 16 := by
    rw [← toNat_extractLsb'_eq_eBits key b (by decide : 0 < 16)]
    exact BitVec.isLt _
  rw [BitVec.toNat_append, toNat_extractLsb'_eq_eBits key a (by decide : 0 < 24),
    toNat_extractLsb'_eq_eBits key b (by decide : 0 < 16), ← Nat.shiftLeft_add_eq_or_of_lt hb, Nat.shiftLeft_eq]
  rfl
section
variable {h : TreeHalf} (key : BitVec 512) (l : Nat)
theorem walk_of_illegal_root (hn : nodeLegal h.root = false) : (h.walk key l).1 = .fault 0 := by
  simp [TreeHalf.walk, TreeHalf.way, TreeHalf.descend, hn]
/-- A walk whose root is a leaf ends there. -/
theorem walk_of_leaf_root (hn : nodeLegal h.root = true) (hk : eBits h.root 255 254 = 3) :
    h.walk key l = h.leaf h.root key 0 [] := by
  simp [TreeHalf.walk, TreeHalf.way, TreeHalf.descend, hn, hk]
theorem walk_of_emptyRoot (hroot : h.root = emptyRoot) : h.walk key l = (.miss, []) := by
  have hn : nodeLegal emptyRoot = true := by decide
  have hk : eBits emptyRoot 255 254 = 3 := by decide
  have hc : eBits emptyRoot 253 251 = 0 := by decide
  rw [walk_of_leaf_root key l (hroot ▸ hn) (hroot ▸ hk), hroot]
  simp [TreeHalf.leaf, hc]
end

/-- Settles O19, row by row. -/
theorem treeWalk : Obligations.TreeWalk := by
  unfold Obligations.TreeWalk
  refine ⟨?start, ?noKey, ?noEngine, ?done, fun _ _ _ _ => rfl, fun h key l => walk_of_illegal_root key l, ?leaf,
    fun key l h => walk_of_emptyRoot key l⟩
  case start =>
    intro s g tag e rest h hk he
    change execWalkStart g s = _
    rw [execWalkStart, whenRunning_of h]
    simp only [hk, he]
  case noKey =>
    intro s g hk
    change execWalkStart g s = _
    rw [execWalkStart, whenRunning]
    simp [hk]
  case noEngine =>
    intro s g he
    change execWalkStart g s = _
    rw [execWalkStart, whenRunning]
    simp [he]
  case done =>
    intro s tag memErr w f h hf hw
    change execWalkEnd tag memErr s = _
    rw [execWalkEnd, whenRunning_of h]
    have hu : (s.upTo (w.accepted + 24)).classifier = s.classifier := rfl
    simp only [hf, hw, hu]
    cases memErr with
    | true => rfl
    | false =>
      refine congrArg Host.Outcome.next ?_
      simp only [Bool.false_eq_true, if_false]
      cases (((s.classifier (tagGrove tag)).half w.half).walk f.key (w.number % 16)).1 <;> rfl
  case leaf =>
    intro h key l hn hk
    have h3 : eBits h.root 255 254 = 3 := (extractLsb'_eq_iff_eBits (w := 2) h.root 254 3 (by decide)).mp hk
    rw [walk_of_leaf_root key l hn h3]
    simp only [toNat_append_slices, toNat_extractLsb'_eq_eBits (x := h.root), Nat.zero_lt_succ]
    rfl

/-! ## Compiled order (07 R203) -/

theorem putRule_perm (r : Rule) (l : List Rule) : (putRule r l).Perm (r :: l) := by
  induction l with
  | nil => exact .refl _
  | cons x l ih =>
    unfold putRule
    split
    · exact (ih.cons x).trans (.swap r x l)
    · exact .refl _
theorem putRule_pairwise {l : List Rule} (r : Rule) (h : l.Pairwise fun a b => b.priority ≤ a.priority) :
    (putRule r l).Pairwise fun a b => b.priority ≤ a.priority := by
  induction l with
  | nil => exact List.pairwise_singleton _ _
  | cons x l ih =>
    obtain ⟨hx, hl⟩ := List.pairwise_cons.mp h
    unfold putRule
    split
    next hle =>
      refine List.pairwise_cons.mpr ⟨fun b hb => ?_, ih hl⟩
      rcases List.mem_cons.mp ((putRule_perm r l).mem_iff.mp hb) with rfl | hb
      · exact hle
      · exact hx b hb
    next hlt =>
      refine List.pairwise_cons.mpr ⟨fun b hb => ?_, h⟩
      rcases List.mem_cons.mp hb with rfl | hb
      · omega
      · exact Nat.le_trans (hx b hb) (by omega)
/-- Compiled order holds the rules that are staged, by falling priority. -/
theorem compiledOrder_spec (l : List Rule) :
    (compiledOrder l).Perm l ∧ (compiledOrder l).Pairwise (fun a b => b.priority ≤ a.priority) := by
  suffices h : ∀ m : List Rule, m.Pairwise (fun a b => b.priority ≤ a.priority) →
      (l.foldl (fun l r => putRule r l) m).Perm (m ++ l) ∧
        (l.foldl (fun l r => putRule r l) m).Pairwise (fun a b => b.priority ≤ a.priority) by
    have h0 := h [] List.Pairwise.nil
    rwa [List.nil_append] at h0
  induction l with
  | nil => exact fun m hm => ⟨by simp, hm⟩
  | cons r l ih =>
    intro m hm
    obtain ⟨hperm, hpair⟩ := ih (putRule r m) (putRule_pairwise r hm)
    exact ⟨hperm.trans (((putRule_perm r m).append_right l).trans List.perm_middle.symm), hpair⟩
theorem firstMatch_mem {l : List Rule} {key : BitVec 512} {i : Nat} (h : firstMatch l key = some i) :
    ∃ r ∈ l, r.matches key = true ∧ r.action = i := by
  obtain ⟨r, hfind, hact⟩ := Option.map_eq_some_iff.mp h
  exact ⟨r, List.mem_of_find?_eq_some hfind, List.find?_some (p := fun x : Rule => x.matches key) hfind, hact⟩
/-- An image that the staged rules allow gives the first match of every key, in every copy. -/
theorem walk_of_buildAnswers {b : TreeBuild} {staged : List Rule} (key : BitVec 512) {l : Nat} (hk : b.kind = 0)
    (h : buildAnswers b staged = true) (hl : l < 16) : ((buildHalf b).walk key l).1 =
      match firstMatch (compiledOrder staged) key with | some a => .action a | none => .miss := by
  rw [buildAnswers, if_pos hk] at h
  simp only [compiledFrom, Bool.and_eq_true] at h
  obtain ⟨⟨⟨⟨⟨hall, -⟩, -⟩, -⟩, -⟩, -⟩ := h
  have h16 : (BitVec.ofNat 4 l).toNat = l := Nat.mod_eq_of_lt hl
  have hkey := of_decide_eq_true hall key (BitVec.ofNat 4 l)
  rwa [h16] at hkey

/-! ## Installing a tree (07 R206 to R209) -/

/-- The half that takes over holds the image; the other, and what else the classifier holds, is as it was. -/
theorem install_spec {c : Classifier} (b : TreeBuild) (rules : List Rule) (seq : Nat) (ha : c.active ≤ 1) :
    let d := c.install b rules seq
    d.active = 1 - c.active ∧ (d.half d.active).root = b.root ∧ (d.half d.active).rules = rules ∧ (d.half d.active).seq = seq ∧
      (d.half d.active).slots = b.slots ∧ d.half c.active = c.half c.active ∧ d.walks = c.walks ∧ d.keys = c.keys ∧
      d.meters = c.meters := by
  have h01 : c.active = 0 ∨ c.active = 1 := by omega
  rcases h01 with h | h <;> simp [Classifier.install, Classifier.setHalf, Classifier.half, h]
/-- The handle of a new operation depends on Slaot's operations alone. -/
theorem handleFrom_congr {a b : State} (h : a.sl = b.sl) (n k : Nat) : a.handleFrom n k = b.handleFrom n k := by
  induction n generalizing k with
  | zero => rfl
  | succ n ih => simp only [State.handleFrom, h, ih]
/-- The checks on a GROVE_MASK, once they have passed. -/
theorem chkGroves_then {s : State} {r : Request} {m : Nat} {held : Bool} {k x : Except Nat Done} (hm : m ≠ 0)
    (hg : ∀ g ∈ maskGroves m, g < s.groves) (hgate : s.groveGate r.actor (maskGroves m) = true) (hheld : held = false)
    (hf : ∀ g ∈ maskGroves m, s.groveFailed g = false) (hk : k = x) : chkGroves s r m held k = x := by
  refine chk_then (by simpa using hm) (chk_then (List.all_eq_true.mpr fun g hx => decide_eq_true (hg g hx)) (chk_then hgate
    (chk_then (by simp [hheld]) (chk_then (by simpa using hf) hk))))
theorem stageRules_eq {s : State} {r : Request} (rs : List Rule) (clear : Bool) (h : s.isHeld (.rules r.mb) = false) :
    let area := if clear then [] else SMap.getD s.cl.staging r.mb []
    stageRules rs clear s.taken r = if area.length + rs.length ≤ 131072 then
      done { s.taken with cl := { s.cl with staging := SMap.set s.cl.staging r.mb (area ++ rs) } } (leBytes 4 area.length)
    else .error 0x0020 := by
  intro area
  refine chk_then (by simpa using h) ?_
  change chk (decide (area.length + rs.length ≤ 131072)) St.noSpace _ = _
  by_cases hle : area.length + rs.length ≤ 131072
  · rw [if_pos hle]
    exact chk_of (decide_eq_true hle) _ _
  · rw [if_neg hle]
    exact chk_not (decide_eq_false hle) _ _
/-- The row of a command that stages rules once its records have passed their checks. -/
theorem slaotRow_stageRules {s : State} {r : Request} {op : Nat} {body : Body} {rs : List Rule} {clear : Bool} {n : Nat}
    (h : s.asks r op) (hb : body s.taken r = stageRules rs clear s.taken r) (hheld : s.isHeld (.rules r.mb) = false)
    (hn : rs.length = n) : let area := if clear then [] else SMap.getD s.cl.staging r.mb []
    slaotRow op body s = .next (if area.length + n ≤ 131072 then
      ({ s.taken with cl := { s.cl with staging := SMap.set s.cl.staging r.mb (area ++ rs) } }).reply r 0 (leBytes 4 area.length)
    else s.taken.reply r 0x0020) := by
  intro area
  have he := stageRules_eq rs clear hheld
  subst hn
  by_cases hle : area.length + rs.length ≤ 131072
  · rw [if_pos hle]
    exact slaotRow_done h (hb.trans (he.trans (if_pos hle))) rfl
  · rw [if_neg hle]
    exact slaotRow_error h (hb.trans (he.trans (if_neg hle)))

/-- An operation starts in a state with the same Slaot as in another. -/
theorem started_eq_of_sl {a t : State} (h : t.sl = a.sl) (r : Request) (n : Nat) (d : OpData) :
    t.started r n d = { t with sl := (a.started r n d).sl } := by
  simp only [State.started, handleFrom_congr h, h]
/-- A body that starts a long operation and changes more than Slaot. -/
theorem slaotRow_startedAs {s t : State} {r : Request} {op n : Nat} {body : Body} {d : OpData} (h : s.asks r op)
    (hsl : t.sl = s.taken.sl) (b : body s.taken r = .ok ⟨{ t with sl := (s.taken.started r n d).sl },
      some ⟨St.inProgress, [], s.taken.handleFrom 400 s.taken.sl.nextHandle⟩⟩)
    (f : t.cfg = s.cfg) : slaotRow op body s = .next (t.replyStarted r n d) := by
  rw [State.replyStarted, started_eq_of_sl hsl, handleFrom_congr hsl, hsl]
  exact slaotRow_ok (a := ⟨St.inProgress, [], s.taken.handleFrom 400 s.taken.sl.nextHandle⟩) h b (by
    rw [show ({ t with sl := (s.taken.started r n d).sl } : State).cfg = s.cfg from f, tooLarge_self])

/-- Settles O21, clause by clause. -/
theorem rulesAndTreeInstall : Obligations.RulesAndTreeInstall := by
  unfold Obligations.RulesAndTreeInstall
  refine ⟨?rules, ?routes, ?illegal, compiledOrder_spec, fun _ _ _ => firstMatch_mem, ?install, ?compile, ?grove,
    fun _ b rules seq => install_spec b rules seq, fun _ _ key _ => walk_of_buildAnswers key⟩
  case rules =>
    intro s r h
    dsimp only
    intro hlen hclear hz hn hn27 hlegal hzero hheld
    have hbody : ruleStageBody s.taken r = stageRules ((List.range (fld r.payload 2 2)).map fun i =>
        readRule r.payload (4 + 144 * i)) (fld r.payload 0 1 == 1) s.taken r := by
      refine chk_then (by simp [hlen, hclear, hz, hn, hn27]) (chk_then ?_ rfl)
      rw [Bool.and_eq_true]
      exact ⟨List.all_eq_true.mpr hlegal, List.all_eq_true.mpr fun i hi => by
        rw [Bool.and_eq_true]
        exact hzero i (List.mem_range.mp hi)⟩
    have e := slaotRow_stageRules h hbody hheld (by rw [List.length_map, List.length_range])
    simp only [beq_iff_eq] at e
    exact e
  case routes =>
    intro s r h
    dsimp only
    intro hlen hclear hz hn hn166 hz6 ha hv hb hlegal hheld
    have hbody : routeStageBody s.taken r = stageRules ((List.range (fld r.payload 2 2)).map fun i =>
        readRoute r.payload (12 + 24 * i) (fld r.payload 4 1) (fld r.payload 5 1) (fld r.payload 8 4))
        (fld r.payload 0 1 == 1) s.taken r := by
      refine chk_then ?_ (chk_then (List.all_eq_true.mpr fun i hi => hlegal i (List.mem_range.mp hi)) rfl)
      simp only [Bool.and_eq_true, Bool.or_eq_true, decide_eq_true_eq, beq_iff_eq]
      exact ⟨⟨⟨⟨⟨⟨⟨⟨⟨hclear, hz⟩, hn⟩, hn166⟩, hlen⟩, hz6⟩, ha⟩, hv.elim .inr fun hv => .inl hv.1⟩, or_assoc.mpr (hv.imp_right And.right)⟩, hb⟩
    have e := slaotRow_stageRules h hbody hheld (by rw [List.length_map, List.length_range])
    simp only [beq_iff_eq] at e
    exact e
  case illegal =>
    intro s r i h hi hbad
    refine slaotRow_error h ?_
    have hrules : ((List.range (fld r.payload 2 2)).map fun i => readRule r.payload (4 + 144 * i)).all Rule.legal = false := by
      rw [List.all_eq_false]
      exact ⟨_, List.mem_map.mpr ⟨i, List.mem_range.mpr hi, rfl⟩, by simp [hbad]⟩
    simp only [ruleStageBody, hrules, Bool.false_and, chk_false]
    cases fld r.payload 0 1 ≤ 1 && zeroAt r.payload 1 1 && 1 ≤ fld r.payload 2 2 && fld r.payload 2 2 ≤ 27 &&
      r.payload.length == 4 + 144 * fld r.payload 2 2 <;> rfl
  case install =>
    intro s r h
    dsimp only
    intro hlen hempty hz hmask hgs hgate hrules hheld hops
    have hlt : s.taken.sl.ops.length < 64 := hops
    refine slaotRow_startedAs h rfl (chk_then (by simp [hlen, hempty, hz]) (chkGroves_then hmask hgs hgate ?_
      (fun g hg => (hheld g hg).2) ?_)) rfl
    · simp only [Bool.or_eq_false_iff, State.taken_isHeld, hrules, true_and, List.any_eq_false, Bool.not_eq_true]
      exact fun g hg => (hheld g hg).1
    · rw [startOp_eq hlt]
      rfl
  case compile =>
    intro s h n f image ok o all left hs
    have hd : o.step.data = .treeInstall all left none n f := hs.2.2.2
    change execTreeInstallStep h image ok s = _
    rw [execTreeInstallStep, whenRunning_of hs.1, opRow_on hs]
    simp only [hd]
    by_cases hn : n = 0
    · subst hn
      rfl
    · refine congrArg Host.Outcome.next ?_
      simp only [hn, ne_eq, not_false_eq_true, true_and, if_false, bne_iff_ne.mpr hn, Bool.true_and, Bool.not_eq_true']
      exact ite_iff_congr Iff.rfl (by rw [← hs.2.2.2]; rfl) rfl
  case grove =>
    intro s h n f g image b ok o all rest hs
    have hd : o.step.data = .treeInstall all (g :: rest) (some b) n f := hs.2.2.2
    change execTreeInstallStep h image ok s = _
    rw [execTreeInstallStep, whenRunning_of hs.1, opRow_on hs]
    simp only [hd]
    cases ok with
    | false => rfl
    | true => simp only [List.isEmpty_iff]; rfl

end Sys2Proof.Machine
end

section
/-! PROOF. What the classifier commands read and set (07 R219 to R225). -/
namespace Sys2Proof.Machine

/-- Settles O22, command by command. -/
theorem classifierCommands : Obligations.ClassifierCommands := by
  unfold Obligations.ClassifierCommands
  refine ⟨?treeGet, ?buildGet, ?meterSet, ?rates, ?meterGet, ?actionStats, ?stats, ?lookup⟩
  case treeGet => exact fun s r g h hlen hg hown => slaotRow_done h (groveRead_then hlen hg hown rfl rfl) rfl
  case buildGet =>
    intro s r h hp
    cases hrec : SMap.get s.cl.builds r.mb with
    | none => exact slaotRow_error h (chk_then (by simp [hp]) (by rw [State.taken_cl, hrec]; rfl))
    | some b => exact slaotRow_done h (chk_then (by simp [hp]) (by rw [State.taken_cl, hrec])) rfl
  case meterSet =>
    intro s r h
    dsimp only
    intro hlen hm hrates hcbs hpbs hy hr hyt hrt hmask hgs hgate hfail
    refine slaotRow_doneCfg h (chk_then ?_ (chkGroves_then hmask hgs hgate rfl hfail rfl))
    simp only [Bool.and_eq_true, decide_eq_true_eq, beq_iff_eq]
    exact ⟨⟨⟨⟨⟨⟨⟨⟨hlen, hm⟩, hrates⟩, hcbs⟩, hpbs⟩, hy⟩, hr⟩, hyt⟩, hrt⟩
  case rates =>
    intro s r h hlen hlt
    refine slaotRow_error h (chk_not ?_ _ _)
    simp [Nat.not_le.mpr hlt]
  case meterGet =>
    intro s r g m h hlen hg hz hm hlt hown
    subst hm
    exact slaotRow_done h (groveRead_then hlen hg hown (by simp [hz, hlt]) rfl) rfl
  case actionStats =>
    intro s r g a n h hlen hg hz ha hn h1 h250 hle hown
    subst ha hn
    exact slaotRow_done h (groveRead_then hlen hg hown (by simp [hz, h1, h250, hle]) rfl) rfl
  case stats => exact fun s r g h hlen hg hown => slaotRow_done h (groveRead_then hlen hg hown rfl rfl) rfl
  case lookup =>
    intro s r g h hlen hg hz hown
    refine slaotRow_done h (groveRead_then hlen hg hown hz ?_) rfl
    dsimp only
    rfl

end Sys2Proof.Machine
end

section
/-! PROOF. The tenant, port and action tables and the table command registers (08 R239 to R243, R263, R265; 07 R213). -/
namespace Sys2Proof.Machine

/-! ## Fields of entries -/

theorem testBit_eBits {w : Nat} (e : BitVec w) (hi lo i : Nat) :
    (eBits e hi lo).testBit i = (decide (i < hi + 1 - lo) && e.getLsbD (lo + i)) := by
  rw [eBits, bits, Nat.testBit_mod_two_pow, Nat.testBit_div_two_pow, Nat.add_comm i lo, BitVec.testBit_toNat]
/-- Fields agree whose bits do. -/
theorem eBits_congr {v w : Nat} {d : BitVec v} {e : BitVec w} {hi lo : Nat} (h : ∀ i, lo ≤ i → i ≤ hi → d.getLsbD i = e.getLsbD i) :
    eBits d hi lo = eBits e hi lo := by
  refine Nat.eq_of_testBit_eq fun i => ?_
  rw [testBit_eBits, testBit_eBits]
  by_cases hi' : i < hi + 1 - lo
  · rw [h (lo + i) (by omega) (by omega)]
  · simp [hi']
/-- The lowest bits of a data block, as an array table takes them. -/
theorem getLsbD_and_mask (d : BitVec 512) (n i : Nat) :
    (d &&& BitVec.ofNat 512 (2 ^ n - 1)).getLsbD i = (d.getLsbD i && decide (i < n)) := by
  rw [BitVec.getLsbD_and, BitVec.getLsbD_ofNat, Nat.testBit_two_pow_sub_one]
  by_cases h : i < 512
  · simp [h]
  · simp [h, BitVec.getLsbD_of_ge d i (Nat.not_lt.mp h)]
theorem eBits_and_mask (d : BitVec 512) {n hi : Nat} (lo : Nat) (h : hi < n) :
    eBits (d &&& BitVec.ofNat 512 (2 ^ n - 1)) hi lo = eBits d hi lo :=
  eBits_congr fun i _ hi' => by
    rw [getLsbD_and_mask, decide_eq_true (by omega), Bool.and_true]
theorem setWidth_and_mask (d : BitVec 512) (n : Nat) : (d &&& BitVec.ofNat 512 (2 ^ n - 1)).setWidth n = d.setWidth n := by
  refine BitVec.eq_of_getLsbD_eq fun i hi => ?_
  simp only [BitVec.getLsbD_setWidth, getLsbD_and_mask, hi, decide_true, Bool.true_and, Bool.and_true]
theorem eBits_setBits_byte (d : BitVec 512) {o j v : Nat} (ho : o < 64) (hj : j < 64) (hv : v < 256) :
    eBits (setBits d (8 * o + 7) (8 * o) v) (8 * j + 7) (8 * j) = if j = o then v else eBits d (8 * j + 7) (8 * j) := by
  split
  next h =>
    subst h
    refine Nat.eq_of_testBit_eq fun i => ?_
    rw [testBit_eBits, getLsbD_setBits]
    by_cases hi : i < 8
    · rw [if_pos (by omega), decide_eq_true (by omega), Nat.add_sub_cancel_left, Bool.true_and]
    · rw [decide_eq_false (by omega), Bool.false_and, Nat.testBit_lt_two_pow (Nat.lt_of_lt_of_le hv (Nat.pow_le_pow_right (by decide) (Nat.not_lt.mp hi) : 2 ^ 8 ≤ 2 ^ i))]
  next h =>
    refine eBits_congr fun i hlo hhi => ?_
    rw [getLsbD_setBits, if_neg (by omega)]
/-- The bytes that are written stand in the data block, and the others stay. -/
theorem eBits_putData (b : List Byte) (d : BitVec 512) (o j : Nat) (h : o + b.length ≤ 64) (hj : j < 64) :
    eBits (putData d o b) (8 * j + 7) (8 * j) =
      if o ≤ j ∧ j < o + b.length then (b.getD (j - o) 0).toNat else eBits d (8 * j + 7) (8 * j) := by
  induction b generalizing d o with
  | nil => exact (if_neg (by simp)).symm
  | cons x b ih =>
    rw [List.length_cons] at h
    rw [putData, ih _ _ (by omega), eBits_setBits_byte d (by omega) hj x.isLt, List.length_cons]
    by_cases hlt : j < o
    · rw [if_neg (by omega), if_neg (by omega), if_neg (by omega)]
    · by_cases heq : j = o
      · subst heq
        rw [if_neg (by omega), if_pos rfl, if_pos (by omega), Nat.sub_self, List.getD_cons_zero]
      · by_cases hin : j < o + (b.length + 1)
        · rw [if_pos (by omega), if_pos (by omega), show j - o = j - (o + 1) + 1 by omega, List.getD_cons_succ]
        · rw [if_neg (by omega), if_neg heq, if_neg (by omega)]

/-! ## What an operation leaves of the register sets (08 R233) -/

theorem fireAll_tb (s : State) (k ty : Nat) (d : W32) : (s.fireAll k ty d).tb = s.tb :=
  (State.fireAll_keeps (m := 0x500004) rfl s k ty d (Keeps.rfl' _ s)).same (p := .tb) rfl
@[simp] theorem setTbl_sets (s : State) (t : Nat) (x : XTable) : (s.setTbl t x).tb.sets = s.tb.sets := by
  unfold State.setTbl
  split <;> rfl
@[simp] theorem tblCtr_sets (s : State) (t i n : Nat) : (s.tblCtr t i n).tb.sets = s.tb.sets := setTbl_sets ..
@[simp] theorem learnRecord_sets (s : State) (key kind old new time : Nat) :
    (s.learnRecord key kind old new time).tb.sets = s.tb.sets := by
  unfold State.learnRecord
  dsimp only
  split <;> rfl
@[simp] theorem tblClear_sets (s : State) (t p : Nat) : (s.tblClear t p).tb.sets = s.tb.sets := by
  unfold State.tblClear
  dsimp only
  split <;> rw [setTbl_sets] <;> split <;> rfl
@[simp] theorem tblDelete_sets (s : State) (t p : Nat) : (s.tblDelete t p).tb.sets = s.tb.sets :=
  (tblCtr_sets ..).trans (tblClear_sets ..)
@[simp] theorem needRehash_sets (s : State) (t part : Nat) : (s.needRehash t part).tb.sets = s.tb.sets := by
  unfold State.needRehash
  dsimp only
  split
  · exact tblCtr_sets ..
  · rw [fireAll_tb, setTbl_sets, tblCtr_sets]
@[simp] theorem tblInsert_sets (s : State) (t : Nat) (e : BitVec 512) : (s.tblInsert t e).1.tb.sets = s.tb.sets := by
  unfold State.tblInsert
  dsimp only
  repeat' split
  all_goals first | rfl | exact setTbl_sets .. | exact needRehash_sets ..
@[simp] theorem agePosition_sets (s : State) (t : Nat) (mine : Nat → Bool) (p : Nat) :
    (s.agePosition t mine p).1.tb.sets = s.tb.sets := by
  unfold State.agePosition
  dsimp only
  split
  · rfl
  · split
    · rfl
    · split
      · rw [tblCtr_sets, tblClear_sets]
        split
        · exact learnRecord_sets ..
        · rfl
      · exact setTbl_sets ..
@[simp] theorem ageStep_sets (s : State) (t i : Nat) (mine : Nat → Bool) : (s.ageStep t i mine).1.tb.sets = s.tb.sets := by
  unfold State.ageStep
  dsimp only
  refine List.foldlRecOn (motive := fun a : State × Nat => a.1.tb.sets = s.tb.sets) _ _ rfl fun a ha p _ => ?_
  exact (agePosition_sets ..).trans ha
@[simp] theorem keyedOp_sets (s : State) (f op t : Nat) (e : BitVec 512) (held : Nat → Bool) :
    (s.keyedOp f op t e held).1.tb.sets = s.tb.sets := by
  unfold State.keyedOp
  dsimp only
  repeat' split
  all_goals first | rfl | exact setTbl_sets .. | exact tblDelete_sets ..
@[simp] theorem hashOp_sets (s : State) (f op t idx : Nat) (data : BitVec 512) (held : Nat → Bool) :
    (s.hashOp f op t idx data held).1.tb.sets = s.tb.sets := by
  unfold State.hashOp
  dsimp only
  repeat' split
  all_goals first | rfl | exact ageStep_sets .. | exact tblInsert_sets .. | exact keyedOp_sets ..
@[simp] theorem writeActions_sets (s : State) (gs : List Nat) (i : Nat) (e : BitVec 512) :
    (gs.foldl (fun t g => t.writeAction g i e) s).tb.sets = s.tb.sets :=
  List.foldlRecOn (motive := fun a : State => a.tb.sets = s.tb.sets) _ _ rfl fun _ ha _ _ => ha
theorem sets_ite {c : Prop} [Decidable c] {a b : State × TblAns} {x : SMap TblSet} (ha : a.1.tb.sets = x)
    (hb : b.1.tb.sets = x) : (if c then a else b).1.tb.sets = x := by
  split
  · exact ha
  · exact hb
@[simp] theorem arrayOp_sets (s : State) (f op tbl g : Nat) (all : Bool) (i : Nat) (data : BitVec 512) :
    (s.arrayOp f op tbl g all i data).1.tb.sets = s.tb.sets := by
  refine sets_ite rfl (sets_ite rfl (sets_ite rfl (sets_ite (sets_ite rfl (sets_ite rfl rfl)) (sets_ite rfl (sets_ite rfl
    (sets_ite rfl ?_))))))
  dsimp only
  split
  · rfl
  · split
    · rfl
    · exact writeActions_sets ..
/-- An operation changes no register set. -/
theorem tableOp_sets (s : State) (f op : Nat) (cmd : W32) (data : BitVec 512) (held : Nat → Bool) :
    (s.tableOp f op cmd data held).1.tb.sets = s.tb.sets := by
  unfold State.tableOp
  dsimp only
  repeat' split
  all_goals first | rfl | exact hashOp_sets .. | exact arrayOp_sets ..

theorem tblRunDue_now (s : State) : s.tblRunDue.now = s.now :=
  (State.tblRunDue_keeps (m := 0x507084) rfl s (Keeps.rfl' _ s)).same (p := .now) rfl

/-! ## Writes of the registers (08 R239, R240) -/

theorem setWrite_host {s : State} {n off len : Nat} (hn : n < 128) (h : s.reaches (pf2 (n / 8)) (0x200 + n / 8) 2 off len)
    (k : State → State) : setWrite s n off len k = k (s.traffic (pf2 (n / 8))) :=
  (if_pos hn).trans (hostRequest_eq k h)
theorem setWrite_core {s : State} {n : Nat} (hrun : s.running = true) (hn : 128 ≤ n) (hg : n < 128 + 2 * s.groves) (off len : Nat)
    (k : State → State) : setWrite s n off len k = k s := by
  unfold setWrite
  rw [if_neg (by omega), if_pos (by simp [hrun, hg])]

/-! ## Array tables (08 R243, R263, R265) -/

theorem tableOp_array {v : W32} {tbl op : Nat} (s : State) (f : Nat) (d : BitVec 512) (h : Nat → Bool) (htbl : eBits v 26 24 = tbl)
    (h2 : 2 ≤ tbl) (h4 : tbl ≤ 4) (hop : op ≤ 5) :
    s.tableOp f op v d h = s.arrayOp f op tbl (eBits v 31 28) (v.getLsbD 27) (eBits v 20 0) d := by
  subst htbl
  exact (if_neg (by omega)).trans (if_neg (by omega))
section
variable {s : State} {f i g : Nat} {d : BitVec 512}
/-- WRITE of a tenant entry that passes the checks of its fields. -/
theorem arrayOp_tenant_write (hlt : i < 65536) (hd : eBits d 255 25 = 0) (hd' : eBits d 15 1 = 0) :
    s.arrayOp f 1 2 0 false i d = if !s.owns f 6 (512 + i / 256) then (s, ⟨St.notOwner, 0, 0⟩) else
      let t := { s with cfg := { s.cfg with tenantTable := SMap.set s.cfg.tenantTable i (d.setWidth 256) } }
      if tooLarge s.cfg t.cfg then (s, ⟨St.noSpace, 0, 0⟩) else (t, ⟨0, 0, 0⟩) := by
  have e1 := (eBits_and_mask d 25 (by decide : 255 < 256)).trans hd
  have e2 := (eBits_and_mask d 1 (by decide : 15 < 256)).trans hd'
  have e3 := setWidth_and_mask d 256
  refine (if_neg ?args).trans ((if_neg ?fields).trans ((if_neg ?present).trans ((if_neg (by decide)).trans ?_)))
  case args => simp [hlt]
  case fields => exact fun h => h.2.elim (fun x => x.2.elim (· e1) (· e2)) (by rintro (x | x) <;> exact absurd x.1 (by decide))
  case present => rintro (x | x | x) <;> exact absurd x.1 (by decide)
  refine ite_iff_congr ?_ rfl ((if_neg ?_).trans ?_)
  · simp [State.ownsArray]
  · exact fun x => absurd x.1 (by decide)
  · dsimp only
    simp only [if_true]
    rw [e3]
    rfl
/-- WRITE of a port entry that passes the checks of its fields, by the owner of its lane. -/
theorem arrayOp_port_write (hl : i < s.lanes) (hlt : i < 512) (h71 : eBits d 71 66 = 0) (h63 : eBits d 63 8 = 0)
    (h4 : d.getLsbD 4 = false) (h0 : d.getLsbD 0 = false) (h65 : eBits d 65 64 ≠ 3) (hown : s.owns f 1 i = true) :
    s.arrayOp f 1 3 0 false i d =
      let t := { s with cfg := { s.cfg with portTable := SMap.set s.cfg.portTable i (d.setWidth 128) } }
      if tooLarge s.cfg t.cfg then (s, ⟨St.noSpace, 0, 0⟩) else (t, ⟨0, 0, 0⟩) := by
  have e1 := (eBits_and_mask d 66 (by decide : 71 < 128)).trans h71
  have e2 := (eBits_and_mask d 8 (by decide : 63 < 128)).trans h63
  have e3 : eBits (d &&& BitVec.ofNat 512 (2 ^ 128 - 1)) 65 64 ≠ 3 := by
    rw [eBits_and_mask d 64 (by decide : 65 < 128)]
    exact h65
  have e4 : (d &&& BitVec.ofNat 512 (2 ^ 128 - 1)).getLsbD 4 = false := by rw [getLsbD_and_mask, h4, Bool.false_and]
  have e5 : (d &&& BitVec.ofNat 512 (2 ^ 128 - 1)).getLsbD 0 = false := by rw [getLsbD_and_mask, h0, Bool.false_and]
  have e6 := setWidth_and_mask d 128
  refine (if_neg ?args).trans ((if_neg ?fields).trans ((if_neg ?present).trans ((if_neg (by decide)).trans
    ((if_neg ?owner).trans ((if_neg ?failed).trans ?_)))))
  case args => simp [hlt]
  case fields =>
    rintro ⟨-, x | x | x⟩
    · exact absurd x.1 (by decide)
    · rcases x.2 with x | x | x | x | x
      · exact x e1
      · exact x e2
      · exact absurd x (ne_true_of_eq_false e4)
      · exact absurd x (ne_true_of_eq_false e5)
      · exact e3 x
    · exact absurd x.1 (by decide)
  case present =>
    rintro (x | x | x)
    · exact absurd x.2 (Nat.not_le.mpr hl)
    · exact absurd x.1 (by decide)
    · exact absurd x.1 (by decide)
  case owner => simp [State.ownsArray, hown]
  case failed => exact fun x => absurd x.1 (by decide)
  · dsimp only
    simp only [show ¬(3 : Nat) = 2 by decide, if_true, if_false]
    rw [e6]
    rfl
theorem cfg_writeActions (gs : List Nat) (i : Nat) (e : BitVec 512) (s : State) :
    (gs.foldl (fun t g => t.writeAction g i e) s).cfg = s.cfg :=
  List.foldlRecOn (motive := fun a : State => a.cfg = s.cfg) _ _ rfl fun _ ha _ _ => ha
/-- WRITE of an action entry into the groves that it names, by the owner in each. -/
theorem arrayOp_action_write (all : Bool) (hall : all = true → g = 0) (hlt : i < 65536) (hp : s.actionPresent d = true)
    (h : ∀ k ∈ (if all = true then s.groveList else [g]), k < s.groves ∧ actionLegal k d = true ∧
      s.owns f 6 (768 + 16 * k + i / 4096) = true ∧ s.groveFailed k = false) :
    s.arrayOp f 1 4 g all i d =
      ((if all = true then s.groveList else [g]).foldl (fun t k => t.writeAction k i d) s, ⟨0, 0, 0⟩) := by
  refine (if_neg ?args).trans ((if_neg ?fields).trans ((if_neg ?present).trans ((if_neg (by decide)).trans
    ((if_neg ?owner).trans ((if_neg ?failed).trans ((if_neg ?_).trans rfl))))))
  case args =>
    rintro (x | x | x | x)
    · omega
    · exact absurd x (Nat.not_le.mpr hlt)
    · exact absurd rfl x.1
    · rcases x.2 with y | y
      · omega
      · exact y (hall x.1)
  case fields =>
    rintro ⟨-, x | x | x⟩
    · exact absurd x.1 (by decide)
    · exact absurd x.1 (by decide)
    · obtain ⟨k, hk, hbad⟩ := List.any_eq_true.mp x.2
      rw [Bool.not_eq_true'] at hbad
      exact absurd (h k hk).2.1 (ne_true_of_eq_false hbad)
  case present =>
    rintro (x | x | x)
    · exact absurd x.1 (by decide)
    · obtain ⟨k, hk, hbad⟩ := List.any_eq_true.mp x.2
      exact absurd (h k hk).1 (Nat.not_lt.mpr (of_decide_eq_true hbad))
    · exact absurd hp (ne_true_of_eq_false x.2.2)
  case owner =>
    rw [Bool.not_eq_true', Bool.not_eq_false]
    exact List.all_eq_true.mpr fun k hk => (h k hk).2.2.1
  case failed =>
    rintro ⟨-, x⟩
    obtain ⟨k, hk, hbad⟩ := List.any_eq_true.mp x
    exact absurd hbad (ne_true_of_eq_false (h k hk).2.2.2)
  · have hc := cfg_writeActions (if all = true then s.groveList else [g]) i d s
    exact ne_true_of_eq_false ((congrArg (tooLarge s.cfg) hc).trans (tooLarge_self _))
end

/-- Settles O24, table by table and register by register. -/
theorem arrayTablesAndRegisters : Obligations.ArrayTablesAndRegisters := by
  unfold Obligations.ArrayTablesAndRegisters
  refine ⟨?tenantWrite, ?portWrite, ?tenantRead, ?portRead, ?invalid, ?actionWrite, ?action, ?notOwner, ?hostCmd, ?coreCmd, ?idle,
    ?busy, ?turn, ?post, ?hostData, ?coreData, ?put, fun d o j b => eBits_putData b d o j, ?hostAck, ?coreAck, ?ack⟩
  case tenantWrite =>
    intro s f i v d h htbl hg hall hi hlt hd hd' hown
    rw [tableOp_array s f d h htbl (by decide) (by decide) (by decide), hg, hall, hi, arrayOp_tenant_write hlt hd hd', hown]
    rfl
  case portWrite =>
    intro s f i v d h htbl hg hall hi hl hlt h71 h63 h4 h0 h65 hown
    rw [tableOp_array s f d h htbl (by decide) (by decide) (by decide), hg, hall, hi,
      arrayOp_port_write hl hlt h71 h63 h4 h0 h65 hown]
    rfl
  case tenantRead =>
    intro s f i v d h htbl hg hall hi hlt hv hown
    rw [tableOp_array s f d h htbl (by decide) (by decide) (by decide), hg, hall, hi]
    have hv' : (s.tenantEntry i)[0] = true := hv
    simp [State.arrayOp, Nat.not_le.mpr hlt, State.ownsArray, hown, hv']
    rfl
  case portRead =>
    intro s f i v d h htbl hg hall hi hl hlt hown
    rw [tableOp_array s f d h htbl (by decide) (by decide) (by decide), hg, hall, hi]
    simp [State.arrayOp, Nat.not_le.mpr hlt, Nat.not_le.mpr hl, State.ownsArray, hown]
    rfl
  case invalid =>
    intro s f i v d h htbl hg hall hi hlt hv
    rw [tableOp_array s f d h htbl (by decide) (by decide) (by decide), hg, hall, hi]
    have hv' : (s.tenantEntry i)[0] = false := hv
    simp [State.arrayOp, Nat.not_le.mpr hlt, hv']
    rfl
  case actionWrite =>
    intro s f i g v d h htbl hg
    dsimp only
    intro hall hi hlt hp hgs
    rw [tableOp_array s f d h htbl (by decide) (by decide) (by decide), hg, hi, arrayOp_action_write _ hall hlt hp hgs]
  case action =>
    intro s g i e he
    rw [State.writeAction, if_neg he]
    refine ⟨?_, fun k hk => State.classifier_setClassifier_ne s g _ hk⟩
    rw [State.classifier_setClassifier]
    exact SMap.get_set_self ..
  case notOwner =>
    intro s f i v d h htbl hg hall hi hlt hd hd' hown
    rw [tableOp_array s f d h htbl (by decide) (by decide) (by decide), hg, hall, hi, arrayOp_tenant_write hlt hd hd', hown]
    rfl
  case hostCmd =>
    intro s n v h hn hreach
    dsimp only
    have hrow (op : Nat) : whenServing s (tblCmd op n v) = .next (if eBits v 23 21 = op ∨ (op = 0 ∧ 5 < eBits v 23 21) then
        (s.traffic (pf2 (n / 8))).tblStart n v else s) := by
      rw [whenServing_of h, tblCmd, setWrite_host hn hreach]
    exact ⟨hrow 0, hrow 1, hrow 2, hrow 3, hrow 4, hrow 5⟩
  case coreCmd =>
    intro s n v h hrun hn hlt
    dsimp only
    have hrow (op : Nat) : whenServing s (tblCmd op n v) = .next (if eBits v 23 21 = op ∨ (op = 0 ∧ 5 < eBits v 23 21) then
        s.tblStart n v else s) := by
      rw [whenServing_of h, tblCmd, setWrite_core hrun hn hlt]
    exact ⟨hrow 0, hrow 1, hrow 2, hrow 3, hrow 4, hrow 5⟩
  case idle =>
    intro s n v h
    unfold State.tblStart
    simp only [h, Bool.false_eq_true, if_false]
    refine ⟨congrArg TblSet.busy (State.tblSet_setTblSet ..), congrArg TblSet.cmd (State.tblSet_setTblSet ..), ?_⟩
    rw [State.setTblSet_now, tblRunDue_now]
    rfl
  case busy => exact fun s n v h => if_pos h
  case turn =>
    intro s o h
    dsimp only
    have hset := congrArg (fun m => SMap.getD m o.src {}) (tableOp_sets s (s.setActor o.src) (eBits o.cmd 23 21) o.cmd o.data fun _ => false)
    change State.tblSet _ o.src = s.tblSet o.src at hset
    rw [State.runTblOp, hset, if_pos h]
    exact ⟨congrArg TblSet.due (State.tblSet_setTblSet ..), rfl, rfl, rfl⟩
  case post =>
    intro s n h u
    change execTblResultPost n s = _
    rw [execTblResultPost]
    exact whenServing_of h _
  case hostData =>
    intro s n o b h hn hreach
    change execTblDataWrite n o b s = _
    rw [execTblDataWrite, whenServing_of h, setWrite_host hn hreach, if_pos hn]
  case coreData =>
    intro s n o b h hrun hn hlt
    change execTblDataWrite n o b s = _
    rw [execTblDataWrite, whenServing_of h, setWrite_core hrun hn hlt]
    exact congrArg Host.Outcome.next (ite_iff_congr Iff.rfl rfl (if_neg (Nat.not_lt.mpr hn)))
  case put => exact fun s n o b => ⟨fun h => if_neg (by simp [h]), fun h => if_pos h⟩
  case hostAck =>
    intro s n v h hn hreach
    change execTblStatusClear n v s = _
    rw [execTblStatusClear, whenServing_of h, setWrite_host hn hreach]
  case coreAck =>
    intro s n v h hrun hn hlt
    change execTblStatusClear n v s = _
    rw [execTblStatusClear, whenServing_of h, setWrite_core hrun hn hlt]
  case ack => exact fun s n v => ⟨State.tblSet_setTblSet .., fun m hm => State.tblSet_setTblSet_ne s n _ hm⟩

end Sys2Proof.Machine
end

section
/-! PROOF. Repair, learning and ageing (08 R232, R251 to R262). -/
namespace Sys2Proof.Machine

/-! ## The host table beside its counters and the learn log -/

theorem learnRecord_host (s : State) (key kind old new time : Nat) : (s.learnRecord key kind old new time).tb.host.entries = s.tb.host.entries := by
  unfold State.learnRecord
  dsimp only
  split <;> rfl
theorem learnRecord_find (s : State) (key kind old new time k : Nat) :
    (s.learnRecord key kind old new time).tb.host.find 0 k = s.tb.host.find 0 k := by
  unfold State.learnRecord
  dsimp only
  split <;> rfl
theorem setAge_entries (x : XTable) (p r a : Nat) : (x.setAge p r a).entries = x.entries := rfl
theorem setAge_reads (x : XTable) (p r a t key : Nat) : (x.setAge p r a).reads t key = x.reads t key := rfl
theorem setAges_entries (x : XTable) (p a : Nat) : (x.setAges p a).entries = x.entries :=
  List.foldlRecOn (motive := fun y : XTable => y.entries = x.entries) _ _ rfl fun _ ha _ _ => ha
theorem setAges_reads (x : XTable) (p a t key : Nat) : (x.setAges p a).reads t key = x.reads t key :=
  List.foldlRecOn (motive := fun y : XTable => y.reads t key = x.reads t key) _ _ rfl fun _ ha _ _ => ha
theorem put_reads (x : XTable) (p t key : Nat) (e : BitVec 512) : (x.put p e).reads t key = x.reads t key := setAges_reads x p 0 t key
/-- The positions that a lookup under the placing seeds reads are among those it reads. -/
theorem mem_positions {x : XTable} {t key p : Nat} (h : p ∈ (xCands t x.placing key).flatMap bucketWays) :
    p ∈ x.positions t key := by
  obtain ⟨b, hb, hp⟩ := List.mem_flatMap.mp h
  refine List.mem_append_left _ (List.mem_flatMap.mpr ⟨b, ?_, hp⟩)
  unfold XTable.reads
  cases hf : x.fresh with
  | none =>
    rw [XTable.placing, hf] at hb
    exact List.mem_append_left _ hb
  | some f =>
    rw [XTable.placing, hf] at hb
    exact List.mem_append_right _ hb
theorem find?_of_unique {α : Type} {l : List α} {f : α → Bool} {a : α} (ha : a ∈ l) (hf : f a = true)
    (h : ∀ b ∈ l, b ≠ a → ¬f b = true) : l.find? f = some a := by
  obtain ⟨b, hb⟩ := Option.isSome_iff_exists.mp (List.find?_isSome.mpr ⟨a, ha, hf⟩)
  rw [hb]
  refine Classical.byContradiction fun hne => ?_
  exact h b (List.mem_of_find?_eq_some hb) (fun he => hne (congrArg some he)) (List.find?_some hb)
/-- A key that is put where a lookup reads, and nowhere else, is found there. -/
theorem find_put {x : XTable} {t p : Nat} {e : BitVec 512} (hnone : x.find t (xKey t e) = none) (hp : p ∈ x.positions t (xKey t e)) :
    (x.put p e).find t (xKey t e) = some p := by
  have hpos : (x.put p e).positions t (xKey t e) = x.positions t (xKey t e) := by
    rw [XTable.positions, put_reads]
    rfl
  have hothers := List.find?_eq_none.mp hnone
  rw [XTable.find, hpos]
  refine find?_of_unique hp (by simp [XTable.put]) fun q hq hne => ?_
  rw [XTable.put]
  dsimp only
  rw [SMap.get_set_ne _ _ _ _ hne]
  exact hothers q hq
theorem makeRoom_of_freeWay {x : XTable} {t key p : Nat} (h : x.freeWay (xCands t x.placing key) = some p) :
    x.makeRoom t key = some (x, p, 0) := by
  rw [XTable.makeRoom, h]
theorem firstEvent_spec {l : List LearnEv} {e : LearnEv} (h : firstEvent l = some e) :
    e ∈ l ∧ ∀ x ∈ l, e.stamp < x.stamp ∨ (e.stamp = x.stamp ∧ e.port ≤ x.port) := by
  induction l generalizing e with
  | nil => exact absurd h (by simp [firstEvent])
  | cons a l ih =>
    rw [firstEvent] at h
    cases hf : firstEvent l with
    | none =>
      rw [hf] at h
      cases h
      have hl : l = [] := by
        cases l with
        | nil => rfl
        | cons b l =>
          rw [firstEvent] at hf
          split at hf
          · split at hf <;> simp at hf
          · simp at hf
      subst hl
      simp
    | some f =>
      rw [hf] at h
      obtain ⟨hmem, hmin⟩ := ih hf
      dsimp only at h
      split at h
      next hlt =>
        cases h
        refine ⟨List.mem_cons_of_mem _ hmem, fun x hx => ?_⟩
        rcases List.mem_cons.mp hx with rfl | hx
        · omega
        · exact hmin x hx
      next hge =>
        cases h
        refine ⟨List.mem_cons_self, fun x hx => ?_⟩
        rcases List.mem_cons.mp hx with rfl | hx
        · omega
        · have := hmin x hx
          omega

/-! ## A decision (08 R253 to R256) -/

/-- The key of an event. -/
def LearnEv.key (e : LearnEv) : Nat := 2 ^ 48 * e.tenant + e.mac.toNat
/-- What is decided of an event whose key is at a position of the host table. -/
def State.decideAt (s : State) (e : LearnEv) (p : Nat) : State :=
  if xLoc (SMap.getD s.tb.host.entries p 0) = e.port then s.setTbl 0 (s.tb.host.setAge p (s.replica 0 (e.port / 32)) 0)
  else if xStatic 0 (SMap.getD s.tb.host.entries p 0) then
    (s.hostTblCtr 12 1).learnRecord e.key 9 (xLoc (SMap.getD s.tb.host.entries p 0)) e.port e.stamp
  else s.station e e.key p
/-- What is decided of an event, its key having thawed if that was due. -/
def State.decideKey (s : State) (e : LearnEv) : State :=
  match s.tb.host.find 0 e.key with
  | none => s.learn e e.key
  | some p => s.decideAt e p
section
variable {s : State} {e : LearnEv} {p : Nat}
/-- An event decided once its key has thawed where that was due. -/
theorem decideLearn_eq (hf : ∀ f, (s.tblRun.movesOf e.key).frozen = some f → e.stamp < f + s.tblRun.holdUnits) :
    s.decideLearn e = s.tblRun.decideKey e := by
  unfold LearnEv.key at hf
  refine congrArg (State.decideKey · e) ?_
  cases hm : (s.tblRun.movesOf (2 ^ 48 * e.tenant + e.mac.toNat)).frozen with
  | none => rfl
  | some f => exact if_neg (by simp [Nat.not_le.mpr (hf f hm)])
theorem decideKey_of_none (h : s.tb.host.find 0 e.key = none) : s.decideKey e = s.learn e e.key := by
  rw [State.decideKey, h]
theorem decideKey_of_some (h : s.tb.host.find 0 e.key = some p) : s.decideKey e = s.decideAt e p := by
  rw [State.decideKey, h]
/-- A key is learned while its partition has room and a candidate bucket a free way. -/
theorem learn_of_freeWay (hnone : s.tb.host.find 0 (xKey 0 (learnEntry (s.portEntry e.port) e)) = none)
    (hroom : s.tb.host.partCount 0 (xPart 0 (learnEntry (s.portEntry e.port) e)) <
      s.partLimit (xObj 0 (learnEntry (s.portEntry e.port) e)))
    (hway : s.tb.host.freeWay (xCands 0 s.tb.host.placing (xKey 0 (learnEntry (s.portEntry e.port) e))) = some p) (key : Nat) :
    SMap.get (s.learn e key).tb.host.entries p = some (learnEntry (s.portEntry e.port) e) ∧
      (s.learn e key).tb.host.find 0 (xKey 0 (learnEntry (s.portEntry e.port) e)) = some p := by
  generalize hx : learnEntry (s.portEntry e.port) e = x at hnone hroom hway ⊢
  have hins : s.tblInsert 0 x = (s.setTbl 0 { s.tb.host.put p x with
      ctrs := ((s.tb.host.put p x).ctrs.add 0 1).add 2 0 }, ⟨St.ok, p + 2 ^ 21 * 0, 0⟩) := by
    refine (if_neg (Nat.not_le.mpr hroom)).trans ((if_neg (by rw [State.tbl, if_pos rfl, hnone]; decide)).trans ?_)
    rw [State.tbl, if_pos rfl, makeRoom_of_freeWay hway]
  rw [State.learn, hx, hins]
  dsimp only
  rw [if_pos rfl, learnRecord_host, learnRecord_find]
  exact ⟨SMap.get_set_self .., find_put hnone (mem_positions (List.mem_of_find?_eq_some hway))⟩
/-- No entry moves while its key is frozen. -/
theorem decideAt_of_frozen {f : Nat} (hf : (s.movesOf e.key).frozen = some f) (hlt : e.stamp < f + s.holdUnits) (p : Nat) :
    (s.decideAt e p).tb.host.entries = s.tb.host.entries := by
  unfold State.decideAt
  split
  · rfl
  · split
    · rw [learnRecord_host]
      rfl
    · rw [State.station]
      dsimp only
      rw [if_pos (by simp [hf, hlt]), learnRecord_host]
      rfl
/-- A move within the limit writes the entry's place and action. -/
theorem station_moves (hf : (s.movesOf e.key).frozen = none)
    (hlim : SMap.getD (s.movesOf e.key).moves (e.stamp / ms 1000) 0 < s.cfg.moveLimit) :
    SMap.get (s.station e e.key p).tb.host.entries p = some (setBits (setBits (SMap.getD s.tb.host.entries p 0) 56 48 e.port) 15 0
      (eBits (s.portEntry e.port) 111 96)) ∧
    ∀ q, q ≠ p → SMap.get (s.station e e.key p).tb.host.entries q = SMap.get s.tb.host.entries q := by
  rw [State.station]
  dsimp only
  rw [if_neg (by simp [hf]), if_pos hlim, learnRecord_host]
  exact ⟨SMap.get_set_self .., fun q hq => SMap.get_set_ne _ _ _ _ hq⟩
/-- A move beyond the limit freezes the entry. -/
theorem station_freezes (hf : (s.movesOf e.key).frozen = none)
    (hlim : s.cfg.moveLimit ≤ SMap.getD (s.movesOf e.key).moves (e.stamp / ms 1000) 0) :
    SMap.get (s.station e e.key p).tb.host.entries p = some (setBits (SMap.getD s.tb.host.entries p 0) 60 60 1) := by
  rw [State.station]
  dsimp only
  rw [if_neg (by simp [hf]), if_neg (Nat.not_lt.mpr hlim), fireAll_tb, learnRecord_host]
  exact SMap.get_set_self ..
end

/-- Settles O25, row by row. -/
theorem learningAndAgeing : Obligations.LearningAndAgeing := by
  unfold Obligations.LearningAndAgeing
  refine ⟨?repair, ?decide, ?first, fun _ _ => firstEvent_spec, ?nothing, ?learn, ?again, ?static, ?frozen, ?move, ?limit, ?takeover,
    ?thaw, ?thawed, ?never, ?sweep⟩
  case repair =>
    intro s t r p h
    change execLookupPoisonRepair t r p s = _
    rw [execLookupPoisonRepair, whenRunning_of h]
    rfl
  case decide =>
    intro s e h hf he
    change execLearnDecide s = _
    rw [execLearnDecide, whenRunning_of h]
    simp only [hf, he]
  case first =>
    intro s e he
    rw [State.decideFirst]
    simp only [he]
  case nothing =>
    intro s h hn
    change execLearnDecide s = _
    rw [execLearnDecide, whenRunning_of h]
    rcases hn with hn | hn
    · simp only [hn]
    · obtain ⟨k, hk⟩ := Option.isSome_iff_exists.mp hn
      simp only [hk]
      cases firstEvent s.tb.events <;> rfl
  case learn =>
    intro s e p u hf hnone x hkey hroom hway
    have h := learn_of_freeWay (s := s.tblRun) (e := e) (p := p) (hkey ▸ hnone) hroom hway e.key
    rw [decideLearn_eq fun f h => absurd (hf.symm.trans h) (by simp), decideKey_of_none hnone]
    exact ⟨h.1, hkey ▸ h.2⟩
  case again =>
    intro s e p u hf hp hloc
    rw [decideLearn_eq fun f h => absurd (hf.symm.trans h) (by simp), decideKey_of_some hp]
    exact if_pos hloc
  case static =>
    intro s e p u hf hp hloc hst
    rw [decideLearn_eq fun f h => absurd (hf.symm.trans h) (by simp), decideKey_of_some hp, State.decideAt, if_neg hloc,
      if_pos hst, learnRecord_host]
    rfl
  case frozen =>
    intro s e p f u hf hlt hp
    rw [decideLearn_eq fun k h => Option.some.inj (hf.symm.trans h) ▸ hlt, decideKey_of_some hp]
    exact decideAt_of_frozen hf hlt p
  case move =>
    intro s e p u hf hp hloc hst hlim
    rw [decideLearn_eq fun f h => absurd (hf.symm.trans h) (by simp), decideKey_of_some hp, State.decideAt, if_neg hloc,
      if_neg (ne_true_of_eq_false hst)]
    exact station_moves hf hlim
  case limit =>
    intro s e p u hf hp hloc hst hlim
    rw [decideLearn_eq fun f h => absurd (hf.symm.trans h) (by simp), decideKey_of_some hp, State.decideAt, if_neg hloc,
      if_neg (ne_true_of_eq_false hst)]
    exact station_freezes hf hlim
  case takeover =>
    intro s h
    change execLearnEngineTakeover s = _
    rw [execLearnEngineTakeover, whenRunning_of h]
    cases hf : s.tb.engineFailed with
    | none => simp
    | some k => simp
  case thaw =>
    intro s key f m h hm hf
    change execEntryThaw key s = _
    rw [execEntryThaw, whenRunning_of h]
    simp only [hm, hf]
  case thawed =>
    intro s p time m e hp he
    rw [State.thaw]
    dsimp only
    rw [hp]
    dsimp only
    rw [learnRecord_host, SMap.getD, he]
    exact ⟨SMap.get_set_self .., fun q hq => SMap.get_set_ne _ _ _ _ hq⟩
  case never =>
    intro s key h hm
    change execEntryThaw key s = _
    rw [execEntryThaw, whenRunning_of h]
    simp only [hm]
  case sweep =>
    intro s t h
    change execAgeSweepStep t s = _
    rw [execAgeSweepStep, whenRunning_of h]

end Sys2Proof.Machine
end

section
/-! PROOF. The TABLE commands (08 R236 to R238, R243, R248 to R250, R259, R267, R268). -/
namespace Sys2Proof.Machine

theorem handleFrom_taken (s : State) (n k : Nat) : s.taken.handleFrom n k = s.handleFrom n k := by
  induction n generalizing k with
  | zero => rfl
  | succ n ih => simp only [State.handleFrom, State.taken_sl_ops, State.taken_sl_ended, ih]
/-- The row of a command whose body answers with a status of its own. -/
theorem slaotRow_answer {s t : State} {r : Request} {op st n : Nat} {body : Body} {p : List Byte} (h : s.asks r op)
    (b : body s.taken r = .ok ⟨t, some ⟨st, p, n⟩⟩) :
    slaotRow op body s = .next (if tooLarge s.cfg t.cfg then s.taken.reply r St.noSpace else t.reply r st p n) := by
  simp only [slaotRow_eq h, b]
  split <;> rfl
/-- With one layout left a lookup reads by the new seeds alone. -/
theorem oneLayout_spec {x : XTable} (t : Nat) {f : BitVec 32 × BitVec 32} (h : x.fresh = some f) :
    x.oneLayout.seed0 = f.1 ∧ x.oneLayout.seed1 = f.2 ∧ x.oneLayout.fresh = none ∧ x.oneLayout.entries = x.entries ∧
      (∀ key, x.oneLayout.reads t key = xCands t f key) := by
  simp [XTable.oneLayout, XTable.placing, XTable.reads, h]

/-- Settles O26, command by command and step by step. -/
theorem tableCommands : Obligations.TableCommands := by
  unfold Obligations.TableCommands
  refine ⟨?mailbox, ?rehash, ?rehashStep, fun x t f => oneLayout_spec t, ?info, ?partSet, ?learnSet, ?flush, ?flushStep,
    fun _ _ _ _ _ => rfl, ?stats⟩
  case mailbox =>
    intro s r op hlen hop
    dsimp only
    have hbody (k : Nat) : tableBody k s.taken r = _ := chk_then (by simp [hlen, hop]) rfl
    have hrow (k n : Nat) (h : s.asks r n) : slaotRow n (tableBody k) s = _ := slaotRow_answer h (hbody k)
    refine ⟨?_, ?_, ?_, ?_, ?_, ?_⟩ <;> rintro rfl h <;> exact hrow _ _ h
  case rehash =>
    intro s r h
    dsimp only
    intro hlen ht hz hown hheld hops
    obtain ⟨i, hi, hown⟩ := hown
    have hlt : s.taken.sl.ops.length < 64 := hops
    have hbody : tableRehashBody s.taken r = _ := chk_then (by simp [hlen, ht, hz])
      (chk_then (List.any_eq_true.mpr ⟨i, List.mem_range.mpr hi, hown⟩) (chk_then (by simp [hheld]) (by rw [startOp_eq hlt])))
    refine (slaotRow_answer h hbody).trans (congrArg Host.Outcome.next (ite_iff_congr (Iff.of_eq ?_) rfl ?_))
    · exact congrArg (fun c => tooLarge s.cfg c = true) (State.setTbl_cfg ..)
    · rw [handleFrom_taken]
      rfl
  case rehashStep =>
    intro s h t o hs
    have hd : o.step.data = .rehash t := hs.2.2.2
    change execRehashStep h s = _
    rw [execRehashStep, whenRunning_of hs.1, opRow_on hs]
    simp only [hd, Bool.not_eq_true']
    rfl
  case info =>
    intro s r h
    dsimp only
    intro hlen ht hz
    refine slaotRow_done h (chk_then (by simp [hlen, ht, hz]) ?_) rfl
    simp only [Option.isNone_iff_eq_none]
    rfl
  case partSet =>
    intro s r o l h hlen ho hlt hz hl hle
    subst ho hl
    by_cases hop : r.actor = operator
    · rw [if_pos hop]
      exact slaotRow_doneCfg h (chk_then (by simp [hlen, hlt, hz, hle]) (chk_then (by simp [hop]) rfl))
    · rw [if_neg hop]
      exact slaotRow_error h (chk_then (by simp [hlen, hlt, hz, hle]) (chk_not (by simp [hop]) _ _))
  case learnSet =>
    intro s r m d a b h hlen hm h1 hz hd hd1 hd2 ha hb ha' hb'
    subst hm hd ha hb
    by_cases hop : r.actor = operator
    · rw [if_pos hop]
      exact slaotRow_doneCfg h (chk_then (by simp [hlen, h1, hz, hd1, hd2, ageLegal, ha', hb']) (chk_then (by simp [hop]) rfl))
    · rw [if_neg hop]
      exact slaotRow_error h (chk_then (by simp [hlen, h1, hz, hd1, hd2, ageLegal, ha', hb']) (chk_not (by simp [hop]) _ _))
  case flush =>
    intro s r o k h hlen ho hlt hk hk1 hz hown hheld hops
    subst ho hk
    exact slaotRow_started h (chk_then (by simp [hlen, hlt, hk1, hz]) (chk_then hown (chk_then (by simp [hheld]) rfl))) hops rfl
  case flushStep =>
    intro s h t part k pos n o hs
    have hd : o.step.data = .flush t part k pos n := hs.2.2.2
    change execFlushStep h s = _
    rw [execFlushStep, whenRunning_of hs.1, opRow_on hs]
    simp only [hd]
    rfl
  case stats =>
    intro s r t h hlen ht ht1 hz
    subst ht
    exact slaotRow_done h (chk_then (by simp [hlen, ht1, hz]) rfl) rfl

end Sys2Proof.Machine
end

section
/-! PROOF. What a plane carries (10 R292 to R294, R311, R312), what is received and lost, and planes that fail (10 R289,
R304 to R310, R316). -/
namespace Sys2Proof.Machine

/-- A row that finds nothing to do changes nothing, whether or not the groves work. -/
theorem whenRunning_fixed {s : State} {f : State → State} (h : f s = s) : whenRunning s f = .next s := by
  rw [whenRunning, h, ite_self]

/-! ## Grants and units (10 R292 to R294) -/

theorem mem_of_firstFrom {k i : Nat} {l : List Nat} (h : firstFrom k l = some i) : i ∈ l := by
  obtain ⟨d, -, hd⟩ := List.exists_of_findSome?_eq_some h
  split at hd
  next hc => exact Option.some.inj hd ▸ List.contains_iff_mem.mp hc
  next => cases hd
section
variable {s : State} {i j : Nat} {u : TUnit}
/-- The oldest transit unit for an output leaves on a plane. -/
theorem sendUnit_of_find (hu : (s.transitOf i).find? (·.final == j) = some u) (p a n : Nat) :
    let t := (s.sendUnit i j p).canopyCtr i a n
    t.cn.planes = s.cn.planes ∧ t.arrivals j = s.arrivals j ++ [{ u with plane := some p }] ∧
      t.transitOf i = dropFirst (·.final == j) (s.transitOf i) ∧ ∀ k, k ≠ j → t.arrivals k = s.arrivals k := by
  rw [State.sendUnit, hu]
  exact ⟨rfl, SMap.getD_set_self .., SMap.getD_set_self .., fun k hk => SMap.getD_set_ne _ _ _ _ _ hk⟩
/-- What an input accepts and sends: both pointers of the plane, the unit and the transit registers. -/
theorem acceptOn_spec {p : Nat} {gs : List (Nat × Nat)}
    (hj : firstFrom ((s.plane p).acceptPtr p i) (((gs.filter (·.2 == i)).map (·.1)).filter fun j => s.hasUnit i j) = some j)
    (hu : (s.transitOf i).find? (·.final == j) = some u) :
    let t := s.acceptOn p gs i
    (t.plane p).grantPtr j = (i + 1) % 16 ∧ (t.plane p).acceptPtr p i = (j + 1) % 16 ∧
      t.arrivals j = s.arrivals j ++ [{ u with plane := some p }] ∧
      t.transitOf i = dropFirst (·.final == j) (s.transitOf i) ∧ ∀ k, k ≠ j → t.arrivals k = s.arrivals k := by
  have hpass (x : Plane) : ((s.setPlane p x).transitOf i).find? (·.final == j) = some u := hu
  unfold State.acceptOn
  simp only [hj]
  obtain ⟨hplanes, harr, htr, hoth⟩ := sendUnit_of_find (hpass { s.plane p with
    g := SMap.set (s.plane p).g j ((i + 1) % 16), a := SMap.set (s.plane p).a i ((j + 1) % 16) }) p 2
    (((gs.filter (·.2 == i)).map (·.1)).length - 1)
  have hplane := congrArg (fun m => SMap.getD m p ({} : Plane)) hplanes
  refine ⟨?_, ?_, harr, htr, hoth⟩
  · exact (congrArg (Plane.grantPtr · j) (hplane.trans (SMap.getD_set_self ..))).trans (SMap.getD_set_self ..)
  · exact (congrArg (Plane.acceptPtr · p i) (hplane.trans (SMap.getD_set_self ..))).trans (SMap.getD_set_self ..)
end

/-- Settles O27, clause by clause. -/
theorem planeTransfers : Obligations.PlaneTransfers := by
  unfold Obligations.PlaneTransfers
  refine ⟨?iteration, ?idle, ?goesOn, ?begins, ?grants, ?requests, fun s p i j gs u => acceptOn_spec, ?connection, ?noConnection,
    ?connect⟩
  case iteration =>
    intro s p h hp hst
    change execPlaneIteration p s = _
    rw [execPlaneIteration, whenRunning_of h, if_pos ⟨hp, hst⟩]
  case idle =>
    intro s p h
    exact whenRunning_fixed (if_neg (by omega))
  case goesOn =>
    intro s p htt hd hq hsince
    exact if_pos ⟨htt, hd, List.all_eq_true.mpr fun q h => decide_eq_true (hq q h), hsince⟩
  case begins =>
    intro s p h
    have hc : ¬(s.cn.tt = s.ttNow ∧ s.cn.done ≠ [] ∧ s.cn.done.all (fun q => planePos s.ttNow q < planePos s.ttNow p) = true ∧
        (s.plane p).since ≤ s.ttNow) := by
      rintro ⟨h1, h2, h3, h4⟩
      rcases h with h | h | ⟨q, hq, hle⟩ | h
      · exact h h1
      · exact h2 h
      · exact absurd (of_decide_eq_true (List.all_eq_true.mp h3 q hq)) (Nat.not_lt.mpr hle)
      · omega
    have hnow (u : State) : u.cutArriving.now = u.now :=
      (State.cutArriving_keeps (m := 0x400) rfl u (Keeps.rfl' _ u)).same (p := .now) rfl
    rw [State.beginIteration, if_neg hc]
    refine ⟨rfl, rfl, rfl, ?_⟩
    dsimp only
    rw [hnow]
    exact Nat.le_max_left ..
  case grants =>
    intro s p j i h
    obtain ⟨j', hj', hfirst⟩ := List.mem_filterMap.mp h
    obtain ⟨i', hi', heq⟩ := Option.map_eq_some_iff.mp hfirst
    cases heq
    obtain ⟨hmem, hgrant⟩ := List.mem_filter.mp hj'
    obtain ⟨⟨a, b⟩, hab, rfl⟩ := List.mem_map.mp (mem_of_firstFrom hi')
    obtain ⟨hreq, hb⟩ := List.mem_filter.mp hab
    cases beq_iff_eq.mp hb
    exact ⟨hreq, List.mem_range.mp hmem, by simpa [State.grantable] using hgrant⟩
  case requests =>
    intro s i j h
    obtain ⟨i', hi', hmem⟩ := List.mem_flatMap.mp h
    obtain ⟨j', hj', heq⟩ := List.mem_map.mp hmem
    cases heq
    obtain ⟨hj, hunit⟩ := List.mem_filter.mp hj'
    simp only [Bool.and_eq_true, bne_iff_ne] at hunit
    exact ⟨hunit.1, List.mem_range.mp hi', List.mem_range.mp hj, hunit.2⟩
  case connection =>
    intro s p h hp hst
    change execLbConnection p s = _
    rw [execLbConnection, whenRunning_of h, if_pos ⟨hp, hst⟩]
  case noConnection =>
    intro s p h
    exact whenRunning_fixed (if_neg (by omega))
  case connect =>
    intro s p i u us j hj hi hfj htr hany hrelay
    have h0 : s.connect p i = if s.stageOneCells j + u.cellsTaken ≤ 4096 then
        (((s.setTransit i us).arrive j { u with plane := some p, dest := j, kind := 1 }).canopyCtr i 0 1).canopyCtr i 8 1
        else s := by
      unfold State.connect
      dsimp only
      rw [if_neg (by
          simp only [Bool.or_eq_true, decide_eq_true_eq, not_or]
          exact ⟨⟨Nat.not_le.mpr hj, ne_true_of_eq_false hi⟩, ne_true_of_eq_false hfj⟩), if_neg (ne_true_of_eq_false hany), if_neg (ne_true_of_eq_false hrelay)]
      simp only [htr]
      rfl
    refine ⟨fun hle => ?_, fun hgt => h0.trans (if_neg (Nat.not_le.mpr hgt))⟩
    rw [h0, if_pos hle]
    exact ⟨SMap.getD_set_self .., SMap.getD_set_self ..⟩

/-! ## Units that are lost (10 R306, R308) -/

theorem reap_arriving (s : State) (t : Nat) : (s.reap t).cn.arriving = s.cn.arriving ∧ (s.reap t).cn.planes = s.cn.planes := by
  unfold State.reap
  split
  · split <;> exact ⟨rfl, rfl⟩
  · exact ⟨rfl, rfl⟩
theorem openTag_arriving (s : State) (g t : Nat) (x : SliceTag) :
    (s.openTag g t x).cn.arriving = s.cn.arriving ∧ (s.openTag g t x).cn.planes = s.cn.planes := by
  unfold State.openTag
  split
  · split <;> exact ⟨rfl, rfl⟩
  · exact ⟨rfl, rfl⟩
/-- A unit that is lost leaves what is in flight and the planes as they are. -/
theorem loseUnit_arriving (s : State) (u : TUnit) :
    (s.loseUnit u).cn.arriving = s.cn.arriving ∧ (s.loseUnit u).cn.planes = s.cn.planes := by
  refine List.foldlRecOn (motive := fun a : State => a.cn.arriving = s.cn.arriving ∧ a.cn.planes = s.cn.planes) _ _ ⟨rfl, rfl⟩
    fun a ha x _ => ?_
  split
  · obtain ⟨h1, h2⟩ := reap_arriving (a.openTag _ _ _) x.tag
    obtain ⟨h3, h4⟩ := openTag_arriving a _ x.tag _
    exact ⟨(h1.trans h3).trans ha.1, (h2.trans h4).trans ha.2⟩
  · exact ha
theorem get_map_val {α β : Type} (m : SMap α) (f : α → β) (k : Nat) :
    SMap.get (m.map fun x => (x.1, f x.2)) k = (SMap.get m k).map f := by
  induction m with
  | nil => rfl
  | cons x m ih =>
    obtain ⟨i, v⟩ := x
    simp only [List.map_cons, SMap.get]
    split
    · rfl
    · split
      · rfl
      · exact ih
/-- The plane fails, and the units in flight on it are lost. -/
theorem failPlane_spec (s : State) (p r c : Nat) : let t := s.failPlane p r c
    (t.plane p).state = 3 ∧ (t.plane p).downDue = some (r, c) ∧
      (∀ g, t.arrivals g = (s.arrivals g).filter (·.plane != some p)) ∧ ∀ k, k ≠ p → t.plane k = s.plane k := by
  intro t
  let left := s.cn.arriving.map fun (x : Nat × List TUnit) => (x.1, x.2.filter (·.plane != some p))
  let gone := s.cn.arriving.flatMap fun (x : Nat × List TUnit) => x.2.filter (·.plane == some p)
  let v := gone.foldl (fun s u => s.loseUnit u) { s with cn := { s.cn with arriving := left } }
  have hv : v.cn.arriving = left ∧ v.cn.planes = s.cn.planes :=
    List.foldlRecOn (motive := fun a : State => a.cn.arriving = left ∧ a.cn.planes = s.cn.planes) _ _ ⟨rfl, rfl⟩
      fun a ha u _ => ⟨(loseUnit_arriving a u).1.trans ha.1, (loseUnit_arriving a u).2.trans ha.2⟩
  have ht : t = v.setPlane p { v.plane p with state := 3, downDue := some (r, c), modeDue := none } := rfl
  have hplane : t.plane p = { v.plane p with state := 3, downDue := some (r, c), modeDue := none } := by
    rw [ht]
    exact State.plane_setPlane ..
  rw [hplane]
  refine ⟨rfl, rfl, fun g => ?_, fun k hk => ?_⟩
  · have ha : t.arrivals g = SMap.getD v.cn.arriving g [] := rfl
    rw [ha, hv.1]
    change SMap.getD (s.cn.arriving.map fun (x : Nat × List TUnit) => (x.1, x.2.filter (·.plane != some p))) g [] = _
    rw [SMap.getD, get_map_val s.cn.arriving (List.filter fun x : TUnit => x.plane != some p) g, State.arrivals, SMap.getD]
    cases SMap.get s.cn.arriving g <;> rfl
  · rw [ht, State.plane_setPlane_ne _ _ _ hk, State.plane, hv.2]
    rfl

/-- Settles O28, row by row. -/
theorem canopyRows : Obligations.CanopyRows := by
  unfold Obligations.CanopyRows
  refine ⟨?receive, ?poison, ?late, ?timeout, ?noTag, ?failure, failPlane_spec, ?down, ?mismatch, ?idle, ?report, ?switch, ?get, ?set⟩
  case receive =>
    intro s g k h
    change execTransferUnitReceive g k s = _
    rw [execTransferUnitReceive]
    exact whenRunning_of h _
  case poison =>
    intro s p c hst
    have hx (x : Plane) : (s.setPlane p x).plane p = x := State.plane_setPlane ..
    refine ⟨fun h3 => ?_, fun hlt => if_neg ?_⟩
    · rw [State.poisonPlane, if_pos]
      · exact (failPlane_spec _ p 2 c).1
      · exact ⟨by rw [List.length_append, List.length_singleton]; omega, by rw [hx]; exact hst⟩
    · rw [List.length_append, List.length_singleton]
      omega
  case late =>
    intro s g x h
    rw [State.place, h]
  case timeout =>
    intro s g tag x h hx
    change execFrameIncompleteTimeout g tag s = _
    rw [execFrameIncompleteTimeout, whenRunning_of h]
    simp only [hx]
  case noTag =>
    intro s g tag h
    change execFrameIncompleteTimeout g tag s = _
    rw [execFrameIncompleteTimeout]
    exact whenRunning_fixed (by simp only [h])
  case failure =>
    intro s p r c h
    change execPlaneFailure p r c s = _
    rw [execPlaneFailure]
    exact whenRunning_of h _
  case down =>
    intro s p h
    change execPlaneDownReport p s = _
    rw [execPlaneDownReport, whenServing_of h]
    cases (s.plane p).downDue <;> rfl
  case mismatch =>
    intro s p h hp hst
    change execSchedulerMismatch p s = _
    rw [execSchedulerMismatch, whenRunning_of h, if_pos ⟨hp, hst⟩]
  case idle =>
    intro s p h
    exact whenRunning_fixed (if_neg (by omega))
  case report =>
    intro s p h
    change execCanopyModeReport p s = _
    rw [execCanopyModeReport, whenServing_of h]
    cases hm : (s.plane p).modeDue with
    | none => rfl
    | some x => rfl
  case switch =>
    intro s p h hp
    change execLbModeSwitch p s = _
    rw [execLbModeSwitch, whenRunning_of h]
    dsimp only
    rw [if_neg (by omega)]
  case get =>
    intro s r g h hlen hg hz hgr
    subst hg
    refine slaotRow_done h (chk_then ?_ (chk_then ?_ rfl)) rfl
    · rcases hgr with ⟨-, hgr⟩ | hgr <;> simp [hlen, hz, hgr]
    · rcases hgr with ⟨hgr, -⟩ | hgr <;> simp [hgr]
  case set =>
    intro s r h hlen hz
    by_cases hop : r.actor = operator
    · rw [if_pos hop]
      exact slaotRow_done h (chk_then (by simp [hlen, hz]) (chk_then (by simp [hop]) rfl)) rfl
    · rw [if_neg hop]
      exact slaotRow_error h (chk_then (by simp [hlen, hz]) (chk_not (by simp [hop]) _ _))

end Sys2Proof.Machine
end

section
/-! PROOF. The free-list audit of a slice (11 R341 to R344), and the egress, slice and mirror commands (R345 to R349). -/
namespace Sys2Proof.Machine

/-! ## The audit -/

theorem mem_auditLost {s : State} {g c : Nat} {l : List Nat} : c ∈ s.auditLost g l ↔
    (c ∈ (s.slice g).lost ∨ c ∈ l ∨ c ∈ (s.slice g).cells.map (·.1)) ∧ c < 65536 ∧ c ∉ (s.slice g).seen ∧
      (s.slice g).references c = false ∧ c ∉ s.retiredCells g := by
  simp only [State.auditLost, List.mem_eraseDups, List.mem_filter, List.mem_append, Bool.and_eq_true, decide_eq_true_eq,
    Bool.not_eq_true', and_assoc, or_assoc, ← Bool.not_eq_true, List.contains_iff_mem]
theorem pairUpdate_slice (s : State) (o : Option Nat) (g : Nat) : (s.pairUpdate o).slice g = s.slice g := by
  have h : (s.pairUpdate o).cn = s.cn := (State.pairUpdate_keeps (m := 0x204) rfl s o (Keeps.rfl' _ s)).same (p := .cn) rfl
  rw [State.slice, h, State.slice]
theorem log_slice (s : State) (l : LocWord) (k sev : Nat) (d : W32) (g : Nat) : (s.log l k sev d).slice g = s.slice g := by
  have h : (s.log l k sev d).cn = s.cn := (State.log_keeps (m := 0x60) rfl s l k sev d (Keeps.rfl' _ s)).same (p := .cn) rfl
  rw [State.slice, h, State.slice]

/-! ## Mirror sessions -/

/-- The flags below 2 select no source port. -/
theorem flags_no_source {f : BitVec 8} (h : f.toNat < 2) : (f.getLsbD 1 || f.getLsbD 2) = false := by
  rw [Bool.or_eq_false_iff]
  exact ⟨Nat.testBit_lt_two_pow (by simpa using h), Nat.testBit_lt_two_pow (Nat.lt_of_lt_of_le h (by decide))⟩

section
variable {s : State} {m : MirrorCfg} (hdest : m.destKind = 1 ∧ m.dest < 512 ∧ m.dest < s.lanes ∧ s.isPort m.dest = true ∨
  m.destKind = 2 ∧ m.dest < 4096 * s.groves ∧ m.dest < 65536 ∨ m.destKind = 3 ∧ m.dest < s.clearings ∧ m.dest < 32)
include hdest
theorem mirrorDest_ok : State.mirrorDestOk m = true ∧ s.mirrorDestPresent m = true ∧ (m.destKind != 1 || s.isPort m.dest) = true := by
  unfold State.mirrorDestOk State.mirrorDestPresent
  rcases hdest with ⟨hk, h1, h2, h3⟩ | ⟨hk, h1, h2⟩ | ⟨hk, h1, h2⟩ <;> simp [*]
end
theorem mirrorSource_ok {s : State} {m : MirrorCfg}
    (hsrc : m.flags.toNat < 2 ∨ m.sourcePort < 512 ∧ m.sourcePort < s.lanes ∧ s.isPort m.sourcePort = true) :
    let src := m.flags.getLsbD 1 || m.flags.getLsbD 2
    (!src || m.sourcePort < 512) = true ∧ (!src || m.sourcePort < s.lanes) = true ∧ (!src || s.isPort m.sourcePort) = true := by
  dsimp only
  rcases hsrc with h | ⟨h1, h2, h3⟩
  · rw [flags_no_source h]
    exact ⟨rfl, rfl, rfl⟩
  · simp [h1, h2, h3]

/-- Settles O30, row by row and command by command. -/
theorem auditAndEgressCommands : Obligations.AuditAndEgressCommands := by
  unfold Obligations.AuditAndEgressCommands
  refine ⟨?start, ?noStart, ?fin, ?noEnd, fun _ _ _ _ => mem_auditLost, ?reclaim, ?egressSet, ?egressGet, ?sliceSet, ?xon, ?sliceGet,
    ?mirrorSet, ?mirrorGet⟩
  case start =>
    intro s g h hg ha
    change execAuditStart g s = _
    rw [execAuditStart, whenRunning_of h]
    exact congrArg Host.Outcome.next (if_pos ⟨hg, ha⟩)
  case noStart =>
    intro s g h
    refine whenRunning_fixed (if_neg ?_)
    rintro ⟨hg, ha⟩
    rcases h with h | h
    · omega
    · rw [ha] at h
      cases h
  case fin =>
    intro s g leaked conflicts h ha
    obtain ⟨t, ht⟩ := Option.isSome_iff_exists.mp ha
    change execAuditEnd g leaked conflicts s = _
    rw [execAuditEnd, whenRunning_of h]
    dsimp only
    rw [ht]
    rfl
  case noEnd =>
    intro s g leaked conflicts ha
    change execAuditEnd g leaked conflicts s = _
    rw [execAuditEnd]
    exact whenRunning_fixed (by dsimp only; rw [ha])
  case reclaim =>
    intro s g c
    rw [State.reclaim]
    dsimp only
    rw [pairUpdate_slice, log_slice, State.sliceCtr, State.slice_setSlice, State.slice_setSlice]
  case egressSet =>
    intro s r n c h hlen hn hz hc ha hw hp hm hown hf
    subst hn hc
    have hw' : ((List.range 8).map fun i => fld r.payload (4 + i) 1).all (· != 0) = true :=
      List.all_eq_true.mpr fun w h => bne_iff_ne.mpr (hw w h)
    refine slaotRow_doneCfg h (chk_then ?_ (portGate_then (s := s.taken) hown (chk_then (by simp [hf]) rfl)))
    simp only [Bool.and_eq_true, decide_eq_true_eq, beq_iff_eq, bne_iff_ne]
    exact ⟨⟨⟨⟨⟨hlen, hz⟩, ha⟩, hw'⟩, hp⟩, hm⟩
  case egressGet =>
    intro s r n h hlen hn hown
    subst hn
    exact slaotRow_done h (chk_then (by simp [hlen]) (portGate_then (s := s.taken) hown rfl)) rfl
  case sliceSet =>
    intro s r c h gs hlen hm hz hc h1 h2 h3 h4 h5 h6 h7 hgs hown hf
    subst hc
    refine slaotRow_doneCfg h (chk_then ?_ (chk_then (List.all_eq_true.mpr fun g hg => decide_eq_true (hgs g hg))
      (chk_then ?_ (chk_then (by simpa using hf) rfl))))
    · simp only [Bool.and_eq_true, decide_eq_true_eq, beq_iff_eq, bne_iff_ne]
      exact ⟨⟨⟨⟨⟨⟨⟨⟨⟨hlen, hm⟩, hz⟩, h1⟩, h2⟩, h3⟩, h4⟩, h5⟩, h6⟩, h7⟩
    · rw [Bool.or_eq_true]
      exact hown.imp beq_iff_eq.mpr List.all_eq_true.mpr
  case xon =>
    intro s r h hlen hle
    refine slaotRow_error h (chk_not ?_ _ _)
    simp [Nat.not_lt.mpr hle]
  case sliceGet =>
    intro s r g h hlen hg hz h16 hgr
    subst hg
    exact slaotRow_done h (chk_then (by simp [hlen, hz, h16]) (chk_then (decide_eq_true hgr) rfl)) rfl
  case mirrorSet =>
    intro s r x m h hlen hx h16 hm hfl htc htr hs1 hs2 hdest hsrc hop
    subst hx
    obtain ⟨d1, d2, d3⟩ := mirrorDest_ok hdest
    obtain ⟨p1, p2, p3⟩ := mirrorSource_ok hsrc
    subst hm
    refine slaotRow_doneCfg h (chk_then ?_ (chk_then ?_ (chk_then ?_ (chk_then (by simp [hop]) rfl))))
    · simp only [Bool.and_eq_true, Bool.or_eq_true, decide_eq_true_eq, beq_iff_eq]
      exact ⟨⟨⟨⟨⟨⟨⟨⟨hlen, h16⟩, hfl⟩, htc⟩, htr⟩, hs1⟩, hs2⟩, d1⟩, by simpa using p1⟩
    · exact Bool.and_eq_true_iff.mpr ⟨d2, p2⟩
    · exact Bool.and_eq_true_iff.mpr ⟨p3, d3⟩
  case mirrorGet =>
    intro s r x h hlen hx hz h16
    subst hx
    exact slaotRow_done h (chk_then (by simp [hlen, hz, h16]) rfl) rfl

end Sys2Proof.Machine
end

section
/-! PROOF. Host links and their power (12 R350 to R352, R374 to R379), what happens to a function (R355, R365, R367, R370 to
R373), and its interrupts and translations (R362, R365). -/
namespace Sys2Proof.Machine

/-! ## Links -/

theorem port_hostCtr (s : State) (p i : Nat) : (s.hostCtr p i).port p = { s.port p with ctrs := (s.port p).ctrs.inc i } :=
  State.port_setPort ..
theorem fireDev_serving (s : State) (p k ty : Nat) (d : W32) : (s.fireDev p k ty d).serving = s.serving := by
  obtain ⟨ev, hp, out, h⟩ := fireDev_frame s p k ty d
  rw [h]
  rfl
/-- A message to the host wakes the link: one that is not in L1 stays so. -/
theorem hostSend_l1 {s : State} {q : Nat} (h : (s.port q).l1 = false) (f : Nat) (o : Out) : ((s.hostSend f o).port q).l1 = false := by
  change ((s.setPort (fnPort f) _).port q).l1 = false
  rw [port_setPort]
  split
  · rfl
  · exact h
theorem pmeCause_l1 {s : State} {q : Nat} (h : (s.port q).l1 = false) (f : Nat) : ((s.pmeCause f).port q).l1 = false := by
  unfold State.pmeCause
  dsimp only
  split
  · generalize hu : s.setFn f { s.fn f with pmeStatus := true, pmeLast := s.clk } = u
    have hport : (u.port q).l1 = false := hu ▸ h
    obtain ⟨c, hc⟩ := hostCtr_port (u.hostSend f (.pme f)) (fnPort f) 15 q
    rw [hc]
    exact hostSend_l1 hport f _
  · exact h
theorem fireDev_l1 {s : State} {q : Nat} (h : (s.port q).l1 = false) (p k ty : Nat) (d : W32) :
    ((s.fireDev p k ty d).port q).l1 = false := by
  unfold State.fireDev State.fire
  dsimp only
  split
  · exact pmeCause_l1 (s := s.setSrc _ _) h _
  · exact h
/-- A port whose link is down. -/
def HostPort.isDown (x : HostPort) : Prop := x.up = false ∧ x.full = false ∧ x.rate = 0 ∧ x.l1 = false
theorem hostCtr_isDown {s : State} {q : Nat} (h : (s.port q).isDown) (p i : Nat) : ((s.hostCtr p i).port q).isDown := by
  obtain ⟨c, hc⟩ := hostCtr_port s p i q
  rw [hc]
  exact h
theorem fireDev_isDown {s : State} {q : Nat} (h : (s.port q).isDown) (p k ty : Nat) (d : W32) :
    ((s.fireDev p k ty d).port q).isDown := by
  obtain ⟨hup, hfull, hrate, hl1⟩ := h
  have hl1' := fireDev_l1 hl1 p k ty d
  obtain ⟨a, b, c, hport⟩ := fireDev_port s p k ty d q
  rw [hport] at hl1' ⊢
  exact ⟨hup, hfull, hrate, hl1'⟩
/-- What a port is once its link has gone down. -/
theorem linkLost_isDown (s : State) (p k : Nat) : ((s.linkLost p k).port p).isDown := by
  have hl1 : ((s.resetPort p).port p).l1 = false := by
    unfold State.resetPort
    dsimp only
    rw [State.port_setPort]
  unfold State.linkLost
  dsimp only
  generalize hu : (s.resetPort p).setPort p { (s.resetPort p).port p with up := false, rate := 0, width := 0, full := false } = u
  have hdown : (u.port p).isDown := by
    rw [← hu, State.port_setPort]
    exact ⟨rfl, rfl, rfl, hl1⟩
  have hctr := hostCtr_isDown hdown p 0
  generalize u.hostCtr p 0 = v at hctr
  have hcause : ((if k = 2 then v.hostCtr p 1 else v).port p).isDown := by
    split
    · exact hostCtr_isDown hctr p 1
    · exact hctr
  generalize (if k = 2 then v.hostCtr p 1 else v) = w at hcause
  split
  · exact fireDev_isDown hcause ..
  · exact hcause

/-- A request of the host to a function that answers it. -/
theorem whenFn_of {s : State} {f : Nat} (h : s.liveFn f) (k : State → State) : whenFn f s k = .next (k s) := by
  obtain ⟨hs, hp, hfull, hflr⟩ := h
  rw [whenFn, whenServing_of hs, if_pos ⟨hp, hfull, hflr⟩]

theorem fn_upToClk (s : State) (t f : Nat) : (s.upToClk t).fn f = s.fn f := by rw [upToClk_eq]; rfl
theorem port_upToClk (s : State) (t p : Nat) : (s.upToClk t).port p = s.port p := by rw [upToClk_eq]; rfl
theorem pmL1_fn (s : State) (p f : Nat) : (s.pmL1 p).fn f = s.fn f := by
  unfold State.pmL1
  dsimp only
  exact (apply_ite (State.fn · f) _ _ _).trans (ite_self (s.fn f))
theorem pmeCause_d3hot {s : State} {f : Nat} (h : (s.fn f).d3hot = true) (g : Nat) : ((s.pmeCause g).fn f).d3hot = true := by
  unfold State.pmeCause
  dsimp only
  split
  · change ((s.setFn g _).fn f).d3hot = true
    by_cases hg : f = g
    · subst hg
      rw [State.fn_setFn]
      exact h
    · rw [State.fn_setFn_ne _ _ _ hg, h]
  · exact h
/-- A function that enters D3hot is there. -/
theorem enterD3_d3hot (s : State) (f : Nat) : ((s.enterD3 f).fn f).d3hot = true := by
  unfold State.enterD3
  split
  next h => exact h
  next =>
    dsimp only
    rw [pmL1_fn]
    generalize hu : ((s.eqsOf f).foldl State.sendOverdue s) = v
    have hd : ((v.setFn f { v.fn f with d3hot := true }).fn f).d3hot = true := congrArg FnSt.d3hot (State.fn_setFn ..)
    generalize v.setFn f { v.fn f with d3hot := true } = u at hd
    split
    · exact pmeCause_d3hot hd f
    · exact hd

/-- Settles O31, row by row. -/
theorem hostLinks : Obligations.HostLinks := by
  unfold Obligations.HostLinks
  refine ⟨fun _ _ _ => rfl, linkLost_isDown, fun _ _ _ => rfl, ?form, ?raise, ?d3, ?inD3, ?d0, ?pme, ?send, ?off, ?l1, ?exit⟩
  case form =>
    intro l
    simp only [linkForm, Bool.and_eq_true, Bool.or_eq_true, decide_eq_true_eq, List.contains_iff_mem, List.mem_cons,
      List.not_mem_nil, or_false]
    constructor
    · rintro ⟨⟨h, hw⟩, hf⟩
      exact ⟨h, hw, fun hlt => hf.resolve_left (by omega)⟩
    · rintro ⟨h, hw, hf⟩
      exact ⟨⟨h, hw⟩, (Nat.lt_or_ge 5 l.rate).elim (fun hlt => .inr (hf hlt)) .inl⟩
  case raise =>
    intro s p l hs hfen hheld
    rw [linkRaise_eq l hfen hheld, hs]
    rfl
  case d3 =>
    intro s f h
    change execD3hotEntry f s = _
    rw [execD3hotEntry]
    exact whenFn_of h _
  case inD3 =>
    intro s f
    have hk := State.enterD3_keeps (m := 0x500005) rfl s f (Keeps.rfl' _ s)
    exact ⟨fun h => if_pos h, enterD3_d3hot s f, hk.same (p := .qp) rfl, hk.same (p := .cfg) rfl⟩
  case d0 => 
    intro s f h
    change execD0Return f s = _
    rw [execD0Return, whenFn_of h]
    rfl
  case pme =>
    intro s f h
    change execPmeResend f s = _
    rw [execPmeResend, whenServing_of h]
    dsimp only
    rw [fn_upToClk]
  case send =>
    intro s f o
    exact ⟨rfl, congrArg HostPort.l1 (State.port_setPort ..)⟩
  case off =>
    intro s p h
    change execPmeTurnOff p s = _
    rw [execPmeTurnOff]
    exact whenServing_of h _
  case l1 =>
    intro s p h
    change execAspmL1Entry p s = _
    rw [execAspmL1Entry, whenServing_of h]
    dsimp only
    rw [port_upToClk]
  case exit =>
    intro s p h
    change execL1Exit p s = _
    rw [execL1Exit]
    exact whenServing_of h _

end Sys2Proof.Machine
end

section
/-! PROOF. What happens to a function of a host port (12 R355, R365, R367, R370 to R373), and its interrupts and translations
(R362, R365). -/
namespace Sys2Proof.Machine

theorem whenServing_fixed {s : State} {f : State → State} (h : f s = s) : whenServing s f = .next s := by
  rw [whenServing, h, ite_self]

/-! ## Resets of a function (12 R370, R373) -/

theorem fn_intxUpdate (s : State) (p f : Nat) : (s.intxUpdate p).fn f = s.fn f := by
  unfold State.intxUpdate
  dsimp only
  exact (apply_ite (State.fn · f) _ _ _).trans (ite_self (s.fn f))
/-- After a reset a function's configuration space is at its reset values. -/
theorem fn_resetFn (s : State) (f : Nat) : ∃ x : FnSt, (s.resetFn f).fn f = x.cfgReset := by
  unfold State.resetFn
  dsimp only
  generalize ((State.eqsOf _ f).filter fun e => (State.eq _ e).state == 2).foldl State.eqLeave _ = u
  refine ⟨(u.revokeKeysOf f).fn f, ?_⟩
  rw [fn_intxUpdate, apply_ite (State.fn · f)]
  have hset : ((u.revokeKeysOf f).setFn f ((u.revokeKeysOf f).fn f).cfgReset).fn f = ((u.revokeKeysOf f).fn f).cfgReset := State.fn_setFn ..
  exact (ite_self _).trans hset
/-- The owners of queue pairs and the queue pairs decide which are a function's. -/
theorem qpsOf_congr {a b : State} (hq : b.qp = a.qp) (hc : b.cfg = a.cfg) (f : Nat) : b.qpsOf f = a.qpsOf f := by
  simp only [State.qpsOf, State.owner, hq, hc]
/-- What is left of a function's requests once they have been abandoned. -/
theorem abandonFn_spec (s : State) (f : Nat) :
    (∀ x ∈ (s.abandonFn f).hp.tags, x.fn = f → x.purpose = .discard) ∧ ∀ x ∈ (s.abandonFn f).hp.waiting, x.fn ≠ f := by
  constructor
  · intro x hx hf
    obtain ⟨y, -, rfl⟩ := List.mem_map.mp hx
    split
    · rfl
    next hy =>
      rw [if_neg hy] at hf
      exact absurd hf hy
  · intro x hx
    exact bne_iff_ne.mp (List.mem_filter.mp hx).2

/-- Settles O32, row by row. -/
theorem functionRows : Obligations.FunctionRows := by
  unfold Obligations.FunctionRows
  refine ⟨?disable, fun s f h => if_neg (by simp [h]), ?stops, ?enable, ?flr, ?reset, ?again, ?complete, ?cease, ?counts, ?objects,
    ?value, ?timeout, ?pasid, fun _ _ => rfl⟩
  case disable =>
    intro s f h
    change execBusMasterDisable f s = _
    rw [execBusMasterDisable]
    exact whenFn_of h _
  case stops =>
    intro s f h
    have hkeep (l : List Nat) (u : State) : (l.foldl State.sendOverdue u).qp = u.qp ∧ (l.foldl State.sendOverdue u).cfg = u.cfg := by
      constructor
      · exact foldl_fixed (p := State.qp) (fun u e =>
          (State.sendOverdue_keeps (m := 0x500005) rfl u e (Keeps.rfl' _ u)).same (p := .qp) rfl) l u
      · exact foldl_fixed (p := State.cfg) (fun u e =>
          (State.sendOverdue_keeps (m := 0x500005) rfl u e (Keeps.rfl' _ u)).same (p := .cfg) rfl) l u
    obtain ⟨hq, hc⟩ := hkeep (s.eqsOf f) s
    generalize hv : (s.eqsOf f).foldl State.sendOverdue s = v at hq hc
    refine ⟨(v.setFn f { v.fn f with busMaster := false }).abandonFn f, ?_, ?_, (abandonFn_spec _ f).1, (abandonFn_spec _ f).2, hq, hc⟩
    · unfold State.clearBusMaster
      rw [if_pos h, hv]
      exact congrArg (List.foldl State.busMasterStop _) (qpsOf_congr hq hc f)
    · exact congrArg FnSt.busMaster (State.fn_setFn ..)
  case enable =>
    intro s f h
    change execBusMasterEnable f s = _
    rw [execBusMasterEnable, whenFn_of h]
    rfl
  case flr =>
    intro s f h
    change execFlr f s = _
    rw [execFlr]
    exact whenFn_of h _
  case reset =>
    intro s f
    unfold State.startFlr
    dsimp only
    generalize (if fnLocal f ≤ 1 then s.clearVfEnable f else s) = u
    obtain ⟨x, hx⟩ := fn_resetFn u f
    generalize u.resetFn f = v at hx
    have hfn : ((v.setFn f { v.fn f with flrActive := true }).hostCtr (fnPort f) 2).fn f = { v.fn f with flrActive := true } :=
      State.fn_setFn ..
    rw [hfn, hx]
    exact ⟨rfl, rfl, rfl, rfl, rfl, rfl⟩
  case again =>
    intro s f h
    change execFlr f s = _
    rw [execFlr, whenFn]
    exact whenServing_fixed (if_neg fun hc => Bool.false_ne_true (hc.2.2.symm.trans h))
  case complete =>
    intro s f h
    change execFlrComplete f s = _
    rw [execFlrComplete, whenServing_of h]
    rfl
  case cease =>
    intro s f n h
    change execVfCessation f n s = _
    rw [execVfCessation]
    exact whenFn_of h _
  case counts =>
    exact fun s f n => ⟨congrArg FnSt.numVFs (State.fn_setFn ..), congrArg FnSt.vfEnable (State.fn_setFn ..)⟩
  case objects =>
    intro s f o ho hf
    exact List.mem_map.mpr ⟨o, ho, if_pos hf⟩
  case value =>
    intro s f v h
    change execCplTimeoutValueWrite f v s = _
    rw [execCplTimeoutValueWrite, whenFn_of h]
    rfl
  case timeout =>
    intro s f v h
    change execCplTimeoutWrite f v s = _
    rw [execCplTimeoutWrite, whenFn_of h]
    rfl
  case pasid =>
    intro s f h
    change execPasidEnableClear f s = _
    rw [execPasidEnableClear]
    exact whenFn_of h _

/-! ## Interrupts and translations -/

theorem takesRequests_full {s : State} {f : Nat} (h : s.takesRequests f = true) : (s.port (fnPort f)).full = true := by
  simp only [State.takesRequests, Bool.and_eq_true] at h
  exact h.1.1.1.1.2
/-- An access to BAR2 of a function that takes requests. -/
theorem bar2Request_of {s : State} {f : Nat} (h : s.takesRequests f = true) (hb : s.boot.phase ≠ .recovery) (k : State → State) :
    bar2Request s f k = k (s.traffic f) := by
  rw [bar2Request, if_neg (by simp [takesRequests_full h]), if_pos ⟨h, hb⟩]
  rfl
theorem bar2Request_not {s : State} {f : Nat} (hfull : (s.port (fnPort f)).full = true) (h : s.takesRequests f = false)
    (k : State → State) : bar2Request s f k = s.emit (.completion f false []) := by
  rw [bar2Request, if_neg (by simp [hfull]), if_neg (by simp [h])]
/-- What is pending in a PBA of one vector is sent, or stays while the vector is masked. -/
theorem flushPba_of {s : State} {f v : Nat} (hen : ((s.fn f).msixEnable && s.canDma f) = true) (hp : (s.fn f).pba = [(v, true)]) :
    s.flushPba f = if (s.fn f).masked v then s.setFn f { s.fn f with pba := [(v, true)] }
      else (s.setFn f { s.fn f with pba := [] }).hostSend f (.msix f v) := by
  unfold State.flushPba
  dsimp only
  rw [if_pos hen, hp]
  cases hm : (s.fn f).masked v <;> simp [hm]
/-- The answer to an invalidation that no outstanding read holds up. -/
theorem flushInvals_one {s : State} {f tag : Nat} (h : s.hp.invals = [⟨f, tag, []⟩]) :
    s.flushInvals.out = s.out ++ [.invalidated f tag] ∧ s.flushInvals.hp.invals = [] := by
  unfold State.flushInvals
  rw [h]
  exact ⟨rfl, rfl⟩
theorem flushInvals_none {s : State} (h : ∀ i ∈ s.hp.invals, i.tags ≠ []) : s.flushInvals = s := by
  have hnone : s.hp.invals.filter (·.tags.isEmpty) = [] :=
    List.filter_eq_nil_iff.mpr fun i hi => by simp [h i hi]
  have hall : s.hp.invals.filter (!·.tags.isEmpty) = s.hp.invals :=
    List.filter_eq_self.mpr fun i hi => by simp [h i hi]
  unfold State.flushInvals
  rw [hnone, hall]
  rfl

/-- Settles O33, row by row. -/
theorem interruptAndTranslationRows : Obligations.InterruptAndTranslationRows := by
  unfold Obligations.InterruptAndTranslationRows
  refine ⟨?enable, ?sent, ?held, ?ack, ?unmask, ?entry, ?refused, ?inval, fun _ _ _ => ⟨flushInvals_one, flushInvals_none⟩⟩
  case enable =>
    intro s f h
    change execMsixEnableSet f s = _
    rw [execMsixEnableSet, whenFn_of h]
    rfl
  case sent =>
    intro s f v hen hdma hp hm
    rw [flushPba_of (by simp [hen, hdma]) hp, hm]
    exact ⟨rfl, congrArg FnSt.pba (State.fn_setFn ..)⟩
  case held =>
    intro s f v hp hm
    by_cases hen : ((s.fn f).msixEnable && s.canDma f) = true
    · rw [flushPba_of hen hp, hm]
      exact ⟨rfl, congrArg FnSt.pba (State.fn_setFn ..)⟩
    · rw [State.flushPba]
      dsimp only
      rw [if_neg hen]
      exact ⟨rfl, hp⟩
  case ack =>
    intro s f v h ht hb
    change execIntxAckWrite f v s = _
    rw [execIntxAckWrite, whenServing_of h, bar2Request_of ht hb]
    rfl
  case unmask =>
    intro s f v h ht hb
    change execMsixTableEntryUnmask f v s = _
    rw [execMsixTableEntryUnmask, whenServing_of h, bar2Request_of ht hb]
  case entry =>
    intro s f v a d m h
    rw [State.unmaskVector, SMap.getD, h]
    rfl
  case refused =>
    intro s f v h hfull ht
    refine ⟨?_, ?_⟩
    · change execIntxAckWrite f v s = _
      rw [execIntxAckWrite, whenServing_of h, bar2Request_not hfull ht]
    · change execMsixTableEntryUnmask f v s = _
      rw [execMsixTableEntryUnmask, whenServing_of h, bar2Request_not hfull ht]
  case inval =>
    intro s f lo hi tag h
    change execAtsInvalidate f lo hi tag s = _
    rw [execAtsInvalidate]
    exact whenFn_of h _

end Sys2Proof.Machine
end

section
/-! PROOF. Tags and completions of host reads (12 R363, R367 to R369), and configuration space, the BARs and the host-port
commands (R353 to R361, R372, R381). -/
namespace Sys2Proof.Machine

/-! ## Tags (12 R363, R367) -/

theorem flushInvals_tags (s : State) : s.flushInvals.hp.tags = s.hp.tags ∧ s.flushInvals.now = s.now := by
  let send (s : State) (i : Inval) : State := (s.hostSend i.fn (.invalidated i.fn i.itag)).hostCtr (fnPort i.fn) 11
  constructor
  · exact foldl_fixed (f := send) (p := fun u : State => u.hp.tags) (fun _ _ => rfl) _ _
  · exact foldl_fixed (f := send) (p := State.now) (fun _ _ => rfl) _ _
/-- A tag that is no longer in use is no read's. -/
theorem endTag_tags (s : State) (x : TagUse) : ∀ y ∈ (s.endTag x).hp.tags, ¬(y.port = x.port ∧ y.tag = x.tag) := by
  intro y hy
  rw [State.endTag, (flushInvals_tags _).1] at hy
  rintro ⟨hp, ht⟩
  simpa [hp, ht] using (List.mem_filter.mp hy).2
theorem endTag_now (s : State) (x : TagUse) : (s.endTag x).now = s.now := (flushInvals_tags _).2
/-- What the timeout of an abandoned read leaves. -/
theorem timeoutTag_spec (s : State) {x : TagUse} (h : x.purpose = .discard) :
    (s.timeoutTag x).now = (s.upToClk (x.issued + x.timeout)).now ∧
      (x.port, x.tag, x.issued + 3 * x.timeout) ∈ (s.timeoutTag x).hp.quarantine ∧
      (∀ y ∈ (s.timeoutTag x).hp.tags, ¬(y.port = x.port ∧ y.tag = x.tag)) := by
  unfold State.timeoutTag
  rw [h]
  generalize s.upToClk (x.issued + x.timeout) = u
  dsimp only [State.failPurpose]
  have htags := endTag_tags u x
  have hnow := endTag_now u x
  generalize u.endTag x = v at htags hnow
  split
  · exact ⟨hnow, List.mem_append_right _ (List.mem_singleton.mpr rfl), htags⟩
  · exact ⟨hnow, List.mem_append_right _ (List.mem_singleton.mpr rfl), htags⟩
/-- Without a request that waits, or a tag that is free, nothing is issued. -/
theorem serveWaiting_none {s : State} {p : Nat} (h : (s.hp.waiting.all fun w => w.port != p) = true ∨ s.freeTag p = none) :
    s.serveWaiting p = s := by
  unfold State.serveWaiting
  rcases h with h | h
  · have hnone : s.hp.waiting.find? (·.port == p) = none :=
      List.find?_eq_none.mpr fun w hw => by simpa using List.all_eq_true.mp h w hw
    simp only [hnone]
  · simp only [h]
    cases s.hp.waiting.find? (·.port == p) <;> rfl

/-- Settles O34, row by row. -/
theorem completionRows : Obligations.CompletionRows := by
  unfold Obligations.CompletionRows
  refine ⟨?receive, ?down, endTag_tags, fun _ _ _ => rfl, ?fetch, ?payload, ?timeout, fun s x => timeoutTag_spec s, ?quarantine,
    fun _ _ => serveWaiting_none⟩
  case receive =>
    intro s p tag c b h hp hup
    change execCompletionReceive p tag c b s = _
    rw [execCompletionReceive, whenServing_of h, if_pos ⟨hp, hup⟩, State.complete]
    cases s.tagUse p tag with
    | none => rfl
    | some x => cases c <;> rfl
  case down =>
    intro s p tag c b h
    refine whenServing_fixed (if_neg ?_)
    rintro ⟨hp, hup⟩
    rcases h with h | h
    · omega
    · rw [h] at hup
      cases hup
  case fetch =>
    intro s f q b hf h2
    rw [State.arriveData]
    dsimp only
    rw [if_pos hf, if_pos h2]
  case payload =>
    intro s f q i slot b j hj hst
    simp only [State.arriveData, hj, hst, if_true]
  case timeout =>
    intro s p tag h
    change execCompletionTimeout p tag s = _
    rw [execCompletionTimeout]
    exact whenServing_of h _
  case quarantine =>
    intro s p tag h
    change execTagQuarantineEnd p tag s = _
    rw [execTagQuarantineEnd, whenServing_of h]
    cases s.hp.quarantine.find? (fun x => x.1 == p && x.2.1 == tag) with
    | none => rfl
    | some x =>
      dsimp only
      rw [upToClk_eq]

/-! ## Requests to the BARs (12 R356 to R358; 19 R575) -/

section
variable {s : State} {f : Nat}
/-- A request of a function that takes requests reaches its BAR0. -/
theorem registerWrite_bar0 {o : Nat} {q : MemReq} (h : s.serving = true) (ht : s.takesRequests f = true) (ho : o < s.barSize f 0)
    (hq : ∀ b, q ≠ .atomic b) : exec (.registerWrite f 0 o q) s = .next (s.bar0 f o q) := by
  change execRegisterWrite f 0 o q s = _
  rw [execRegisterWrite, whenServing_of h, if_neg (by simp [takesRequests_full ht]), if_neg (by simp [ht, ho])]
  cases q with
  | read n => rfl
  | write b => rfl
  | atomic b => exact absurd rfl (hq b)
/-- A request that its firebreak denies. -/
theorem hostRequest_denied {target right a len : Nat} (ht : s.takesRequests f = true) (hb : s.boot.phase ≠ .recovery)
    (hd : s.fbAllowed target (s.master f) right a len = false) (k : State → State) : hostRequest s f target right a len k =
      ((s.fbDeny target (s.master f) right a len).hostCtr (fnPort f) 14).emit (.completion f false []) := by
  unfold hostRequest
  rw [if_neg (by simp [takesRequests_full ht]), if_neg (by simp [ht]), if_neg (by simp [hb])]
  simp only [State.fbCheck, hd]
  rfl
end

/-- Settles O35, request by request and command by command. -/
theorem configurationAndBars : Obligations.ConfigurationAndBars := by
  unfold Obligations.ConfigurationAndBars
  refine ⟨?down, ?booting, ?absent, ?read, ?write, ?ident, ?link, ?unsupported, ?readBar, ?writeBar, ?denied, ?unmapped, ?bar2, ?set,
    ?get, ?stats⟩
  case down =>
    intro s f bus k w hup
    exact congrArg Host.Outcome.next (if_pos (by simp [hup]))
  case booting =>
    intro s f bus k w hup hfull
    exact congrArg Host.Outcome.next ((if_neg (by simp [hup])).trans (if_pos (by simp [hfull])))
  case absent =>
    intro s f bus k w hup hfull h
    refine congrArg Host.Outcome.next ((if_neg (by simp [hup])).trans ((if_neg (by simp [hfull])).trans (if_pos ?_)))
    rcases h with h | ⟨hv, hbus⟩
    · simp [h]
    · cases hvf : vfOf f with
      | none => simp [hvf] at hv
      | some v => simp [hbus]
  case read =>
    intro s f bus k hup hfull hp hb
    refine congrArg Host.Outcome.next ((if_neg (by simp [hup])).trans ((if_neg (by simp [hfull])).trans ((if_neg ?_).trans rfl)))
    rcases hb with hb | hb <;> simp [hp, hb]
  case write =>
    intro s f bus k v hup hfull hp hb
    refine congrArg Host.Outcome.next ((if_neg (by simp [hup])).trans ((if_neg (by simp [hfull])).trans ((if_neg ?_).trans ?_)))
    · rcases hb with hb | hb <;> simp [hp, hb]
    · refine ite_iff_congr Iff.rfl rfl ?_
      cases vfOf f <;> rfl
  case ident => exact fun s f v => ⟨rfl, rfl, rfl, rfl, fun h => if_pos h⟩
  case link =>
    intro s f bar o q h
    change execRegisterWrite f bar o q s = _
    exact whenServing_fixed (if_pos (by simp [h]))
  case unsupported =>
    intro s f bar o q h hfull hq
    change execRegisterWrite f bar o q s = _
    rw [execRegisterWrite, whenServing_of h, if_neg (by simp [hfull])]
    rcases hq with hq | hq | ⟨b, rfl⟩
    · rw [if_pos (by simp [hq])]
    · rw [if_pos (by simp [hq])]
    · rw [ite_self]
  case readBar =>
    intro s f o n k a h ho ht hr
    rw [registerWrite_bar0 h hr.1 ho (fun _ hq => by cases hq), State.bar0]
    simp only [ht]
    rw [hostRequest_eq _ hr]
    cases s.placeOf f o <;> rfl
  case writeBar =>
    intro s f o k a b h ho ht hr
    rw [registerWrite_bar0 h hr.1 ho (fun _ hq => by cases hq), State.bar0]
    simp only [ht]
    rw [hostRequest_eq _ hr]
  case denied =>
    intro s f o k a b h htake ho hb ht hd
    rw [registerWrite_bar0 h htake ho (fun _ hq => by cases hq), State.bar0]
    simp only [ht]
    rw [hostRequest_denied htake hb hd]
  case unmapped =>
    intro s f o n b h hfull htake ho hp
    refine ⟨?_, ?_⟩
    · rw [registerWrite_bar0 h htake ho (fun _ hq => by cases hq), State.bar0, hp]
      rfl
    · rw [registerWrite_bar0 h htake ho (fun _ hq => by cases hq), State.bar0, hp]
      rfl
  case bar2 =>
    intro s f o n b h htake hb ho
    have hfull := takesRequests_full htake
    refine ⟨?_, ?_⟩
    · change execRegisterWrite f 2 o (.read n) s = _
      rw [execRegisterWrite, whenServing_of h, if_neg (by simp [hfull]), if_neg (by simp [htake, ho])]
      exact congrArg Host.Outcome.next (bar2Request_of htake hb fun s => s.emit (.completion f true (s.readBar2 f o n)))
    · change execRegisterWrite f 2 o (.write b) s = _
      rw [execRegisterWrite, whenServing_of h, if_neg (by simp [hfull]), if_neg (by simp [htake, ho])]
      exact congrArg Host.Outcome.next (bar2Request_of htake hb fun s => s.writeBar2 f o b)
  case set =>
    intro s r p m u h hlen hp h16 hm hm1 hz2 hu h10 hu2 hz6 hg
    subst hp hm hu
    have hform : (r.payload.length == 8 && decide (fld r.payload 0 1 < 16) && decide (fld r.payload 1 1 < 2) && zeroAt r.payload 2 2 &&
        decide (10 ≤ fld r.payload 4 2) && decide (fld r.payload 4 2 ≤ 10000) && zeroAt r.payload 6 2) = true := by
      simp [hlen, h16, Nat.lt_succ_of_le hm1, hz2, h10, hu2, hz6]
    by_cases hop : r.actor = pf2 (fld r.payload 0 1) ∨ r.actor = operator
    · rw [if_pos hop]
      exact slaotRow_doneCfg h (chk_then hform (chk_then (decide_eq_true hg) (chk_then (by simpa using hop) rfl)))
    · rw [if_neg hop]
      exact slaotRow_error h (chk_then hform (chk_then (decide_eq_true hg) (chk_not (by simpa using hop) _ _)))
  case get =>
    intro s r p h hlen hp h16 hz hg
    subst hp
    exact slaotRow_done h (chk_then (by simp [hlen, h16, hz]) (chk_then (decide_eq_true hg) rfl)) rfl
  case stats =>
    intro s r p h hlen hp h16 hz hg
    subst hp
    exact slaotRow_done h (chk_then (by simp [hlen, h16, hz]) (chk_then (decide_eq_true hg) rfl)) rfl

end Sys2Proof.Machine
end

section
/-! PROOF. Queue pairs (13): what their operations leave of a queue pair's record, then doorbell pages, the states and the
commands (R384, R387, R390, R407, R408, R411). -/
namespace Sys2Proof.Machine

/-! ## How a command ends, check by check (04 R107) -/

/-- The state once the accepted request has been answered as a body says. -/
def State.ended (s : State) (r : Request) : Except Nat Done → State
  | .error st => s.taken.reply r st
  | .ok d =>
    if tooLarge s.cfg d.s.cfg then s.taken.reply r St.noSpace
    else match d.reply with
      | some a => d.s.reply r a.status a.payload a.handle
      | none => d.s.drain

section
variable {s t : State} {r : Request} {st : Nat} {k : Except Nat Done} {p : List Byte}
theorem requestRow_ended {mine : Request → Bool} (h1 : s.serving = true) (h2 : s.slaotUp = true) (h3 : s.sl.accepted = some r)
    (h4 : mine r = true) (body : Body) : requestRow mine body s = .next (s.ended r (body s.taken r)) := by
  rw [requestRow_eq h1 h2 h3 h4]
  cases body s.taken r with
  | error st => rfl
  | ok d =>
    obtain ⟨u, a⟩ := d
    simp only [State.ended]
    cases a <;> exact (apply_ite Host.Outcome.next ..).symm
theorem slaotRow_ended {op : Nat} (h : s.asks r op) (body : Body) : slaotRow op body s = .next (s.ended r (body s.taken r)) :=
  requestRow_ended h.1 h.2.1 h.2.2.1 (by simp [h.2.2.2]) body
theorem State.ended_error : s.ended r (.error st) = s.taken.reply r st := rfl
/-- A check decides between its status and what comes after it. -/
theorem State.ended_chk {c : Bool} {A : Prop} [Decidable A] (h : c = false ↔ A) {x : State} (hk : s.ended r k = x) :
    s.ended r (chk c st k) = if A then s.taken.reply r st else x := by
  by_cases hA : A
  · rw [if_pos hA, h.mpr hA]
    rfl
  · rw [if_neg hA, ← hk, eq_true_of_ne_false (mt h.mp hA)]
    rfl
/-- Two checks with the same status. -/
theorem State.ended_chk_chk {c c' : Bool} {A B : Prop} [Decidable A] [Decidable B] (h : c = false ↔ A) (h' : c' = false ↔ B) {x : State}
    (hk : s.ended r k = x) : s.ended r (chk c st (chk c' st k)) = if A ∨ B then s.taken.reply r st else x := by
  rw [State.ended_chk h (State.ended_chk h' hk), ite_or_nested]
theorem State.ended_need {c : Bool} {A : Prop} [Decidable A] (h : c = true ↔ A) {x : State} (hk : s.ended r k = x) :
    s.ended r (chk c st k) = if A then x else s.taken.reply r st := by
  by_cases hA : A
  · rw [if_pos hA, ← hk, h.mpr hA]
    rfl
  · rw [if_neg hA, eq_false_of_ne_true (mt h.mp hA)]
    rfl
/-- A check that passes. -/
theorem State.ended_pass {c : Bool} (h : c = true) {x : State} (hk : s.ended r k = x) : s.ended r (chk c st k) = x := by
  rw [h]
  exact hk
/-- A check that fails. -/
theorem State.ended_fail {c : Bool} (h : c = false) : s.ended r (chk c st k) = s.taken.reply r st := by
  rw [h]
  rfl
theorem State.ended_done (f : t.cfg = s.cfg) : s.ended r (done t p) = t.reply r 0 p := by
  change (if tooLarge s.cfg t.cfg then _ else _) = _
  rw [f, tooLarge_self]
  rfl
/-- A body that decides. -/
theorem State.ended_ite {A : Prop} [Decidable A] {k' : Except Nat Done} {x y : State} (h : s.ended r k = x)
    (h' : s.ended r k' = y) : s.ended r (if A then k else k') = if A then x else y := by
  rw [apply_ite (s.ended r), h, h']
theorem State.ended_ite_iff {A B : Prop} [Decidable A] [Decidable B] (hAB : A ↔ B) {k' : Except Nat Done} {x y : State}
    (h : s.ended r k = x) (h' : s.ended r k' = y) : s.ended r (if A then k else k') = if B then x else y := by
  rw [apply_ite (s.ended r), h, h']
  exact ite_iff_congr hAB rfl rfl
theorem State.ended_cfg : s.ended r (done t p) = s.replyCfg t r p := by
  change (if tooLarge s.cfg t.cfg then _ else _) = if tooLarge s.cfg t.cfg then _ else _
  rfl
end

/-! ## What the operations leave of a queue pair's record -/

theorem qpOf_congr {s t : State} (h : t.qp = s.qp) (q : Nat) : t.qpOf q = s.qpOf q := by
  rw [State.qpOf, State.qpOf, h]
theorem fire_qp (s : State) (src ty : Nat) (d : W32) : (s.fire src ty d).qp = s.qp :=
  (State.fire_keeps (m := 0x500004) rfl s src ty d (Keeps.rfl' _ s)).same (p := .qp) rfl
theorem qpRelease_qp (s : State) (q : Nat) : (s.qpRelease q).qp = s.qp :=
  (State.qpRelease_keeps (m := 0x70000) rfl s q (Keeps.rfl' _ s)).same (p := .qp) rfl
theorem qpSourceReset_qp (s : State) (q : Nat) : (s.qpSourceReset q).qp = s.qp :=
  (State.qpSourceReset_keeps (m := 0x400000) rfl s q (Keeps.rfl' _ s)).same (p := .qp) rfl
theorem qpOf_fire (s : State) (src ty : Nat) (d : W32) (q : Nat) : (s.fire src ty d).qpOf q = s.qpOf q :=
  qpOf_congr (fire_qp s src ty d) q

/-- What a queue pair's record is after one of its counters has been raised. -/
theorem qpOf_qpCtr (s : State) (q i n : Nat) : (s.qpCtr q i n).qpOf q = { s.qpOf q with ctrs := (s.qpOf q).ctrs.add i n } :=
  State.qpOf_setQp ..
theorem qpOf_qpCtr_ne (s : State) (i n : Nat) {q p : Nat} (h : p ≠ q) : (s.qpCtr q i n).qpOf p = s.qpOf p :=
  State.qpOf_setQp_ne _ _ _ h

theorem endStall_of_none {s : State} {q : Nat} (h : (s.qpOf q).stall = none) : s.endStall q = s := by
  rw [State.endStall, h]
theorem endStall_of_some {s : State} {q t : Nat} {b : Bool} (h : (s.qpOf q).stall = some (t, b)) : ∃ c : Prop, ∃ _ : Decidable c,
    s.endStall q = if c then ((s.setQp q { s.qpOf q with stall := none }).qpCtr q 11 ((s.clk - t) / 4)).fire q Ev.cqStall
        (s.qpOf q).cplReserved
      else (s.setQp q { s.qpOf q with stall := none }).qpCtr q 11 ((s.clk - t) / 4) := by
  rw [State.endStall, h]
  exact ⟨_, _, rfl⟩
/-- The end of a stall takes it from the record, and changes its counters alone. -/
theorem qpOf_endStall (s : State) (q : Nat) : ∃ c, (s.endStall q).qpOf q = { s.qpOf q with stall := none, ctrs := c } := by
  cases hs : (s.qpOf q).stall with
  | none => exact ⟨(s.qpOf q).ctrs, by rw [endStall_of_none hs, ← hs]⟩
  | some a =>
    obtain ⟨c, hc, h⟩ := endStall_of_some hs
    refine ⟨(s.qpOf q).ctrs.add 11 ((s.clk - a.1) / 4), ?_⟩
    rw [h, apply_ite (State.qpOf · q), qpOf_fire, ite_self, qpOf_qpCtr, State.qpOf_setQp]
theorem qpOf_endStall_ne (s : State) {q p : Nat} (hp : p ≠ q) : (s.endStall q).qpOf p = s.qpOf p := by
  cases hs : (s.qpOf q).stall with
  | none => rw [endStall_of_none hs]
  | some a =>
    obtain ⟨c, hc, h⟩ := endStall_of_some hs
    rw [h, apply_ite (State.qpOf · p), qpOf_fire, ite_self, qpOf_qpCtr_ne _ _ _ hp, State.qpOf_setQp_ne _ _ _ hp]
/-- The end of a job changes jobs and counters alone. -/
theorem qpOf_endJob (s : State) (q : Nat) (slot : W32) (st d : Nat) (v : W64) :
    ∃ j c, (s.endJob q slot st d v).qpOf q = { s.qpOf q with jobs := j, ctrs := c } := by
  unfold State.endJob
  dsimp only
  split
  next j =>
    split
    · split
      · exact ⟨_, _, by rw [qpOf_qpCtr, State.qpOf_setQp]; rfl⟩
      · exact ⟨_, _, by rw [State.qpOf_setQp]; rfl⟩
    · exact ⟨_, _, rfl⟩
  · exact ⟨_, _, rfl⟩
theorem qpOf_endWait (s : State) (q : Nat) (w : Waiter) (st d : Nat) :
    ∃ j c, (s.endWait q w st d).qpOf q = { s.qpOf q with waiter := none, jobs := j, ctrs := c } := by
  obtain ⟨j, c, h⟩ := qpOf_endJob (s.setQp q { s.qpOf q with waiter := none }) q w.slot st d (s.waitData w.target)
  exact ⟨j, c, h.trans (by rw [State.qpOf_setQp])⟩
theorem cutWait_of_none {s : State} {q : Nat} (h : (s.qpOf q).waiter = none) : s.cutWait q = s := by
  rw [State.cutWait, h]
/-- A queue pair whose wait is cut off waits no more. -/
theorem qpOf_cutWait (s : State) (q : Nat) :
    ∃ j c, (s.cutWait q).qpOf q = { s.qpOf q with waiter := none, jobs := j, ctrs := c } := by
  cases hw : (s.qpOf q).waiter with
  | none => exact ⟨(s.qpOf q).jobs, (s.qpOf q).ctrs, by rw [cutWait_of_none hw, ← hw]⟩
  | some w =>
    rw [State.cutWait, hw]
    dsimp only
    split
    · unfold State.settleWait
      split <;> exact qpOf_endWait ..
    · exact qpOf_endWait ..
theorem qpOf_qpStopping (s : State) (q c : Nat) : ∃ j k, (s.qpStopping q c).qpOf q =
    { (s.qpOf q).refetch with state := 3, stopCause := c, stall := none, waiter := none, jobs := j, ctrs := k } := by
  obtain ⟨a, ha⟩ := qpOf_endStall s q
  obtain ⟨j, k, h⟩ := qpOf_cutWait
    ((s.endStall q).setQp q { ((s.endStall q).qpOf q).refetch with state := 3, stopCause := c }) q
  exact ⟨j, k, h.trans (by rw [State.qpOf_setQp, ha]; rfl)⟩
/-- A change of queue pair `t` reaches the wait of one queue pair. -/
def State.tellOne (t : Nat) (s : State) (x : Nat × Qp) : State :=
  match x.2.waiter with
  | some w =>
    let tell (ok : Bool) := s.setQp x.1 { s.qpOf x.1 with waiter := some { w with ended := some (s.clk, ok) } }
    if w.target ≠ t ∨ w.ended.isSome = true then s
    else if s.waitMet t w.value then tell true
    else if s.targetDead t then tell false
    else s
  | none => s
theorem tellWaiters_eq (s : State) (t : Nat) : s.tellWaiters t = s.qp.qps.foldl (State.tellOne t) s := rfl
theorem tellOne_eq (t : Nat) (s : State) (x : Nat × Qp) :
    s.tellOne t x = s ∨ ∃ w, s.tellOne t x = s.setQp x.1 { s.qpOf x.1 with waiter := some w } := by
  unfold State.tellOne
  split
  · dsimp only
    split
    · exact .inl rfl
    · split
      · exact .inr ⟨_, rfl⟩
      · split
        · exact .inr ⟨_, rfl⟩
        · exact .inl rfl
  · exact .inl rfl
/-- Telling the waits on a queue pair changes no record but in its wait. -/
theorem qpOf_tellWaiters (s : State) (t q : Nat) : ∃ w, (s.tellWaiters t).qpOf q = { s.qpOf q with waiter := w } := by
  have hone (u : State) (x : Nat × Qp) : ∃ w, (u.tellOne t x).qpOf q = { u.qpOf q with waiter := w } := by
    obtain h | ⟨w, h⟩ := tellOne_eq t u x
    · exact ⟨_, by rw [h]⟩
    · by_cases hq : q = x.1
      · exact ⟨some w, by rw [h, hq, State.qpOf_setQp]⟩
      · exact ⟨_, by rw [h, State.qpOf_setQp_ne _ _ _ hq]⟩
  have hall (l : List (Nat × Qp)) (u : State) : ∃ w, (l.foldl (State.tellOne t) u).qpOf q = { u.qpOf q with waiter := w } := by
    induction l generalizing u with
    | nil => exact ⟨_, rfl⟩
    | cons x l ih =>
      obtain ⟨v, hv⟩ := hone u x
      obtain ⟨w, hw⟩ := ih (u.tellOne t x)
      exact ⟨w, hw.trans (by rw [hv])⟩
  exact hall s.qp.qps s
/-- Where no queue pair waits, nothing is told. -/
theorem tellWaiters_none {s : State} (h : ∀ x ∈ s.qp.qps, x.2.waiter = none) (t : Nat) : s.tellWaiters t = s := by
  have hall (l : List (Nat × Qp)) (hl : ∀ x ∈ l, x.2.waiter = none) : l.foldl (State.tellOne t) s = s := by
    induction l with
    | nil => rfl
    | cons x l ih =>
      have hx : s.tellOne t x = s := by rw [State.tellOne, hl x (by simp)]
      rw [List.foldl_cons, hx]
      exact ih fun y hy => hl y (by simp [hy])
  exact hall s.qp.qps h

/-! ## Doorbell pages (R387, R390) -/

theorem doorbell_eq {s : State} {f slot off : Nat} (h : s.reaches f (0x400 + fnPort f) 2 (0x1000 * slot + off) 8)
    (k : State → Nat → State) : doorbell s f slot off k =
    match s.slotQp f slot with | some q => k (s.traffic f) q | none => (s.traffic f).hostCtr (fnPort f) 12 :=
  hostRequest_eq _ h
/-- What fetches of a queue pair are given up leaves all else of its record. -/
theorem qpOf_dropFetch (s : State) (q : Nat) : (s.dropFetch q).qpOf q = { s.qpOf q with fetching := false, arrived := [] } :=
  State.qpOf_setQp ..
theorem qpFetch_idle {s : State} {q : Nat} (h : (s.qpOf q).state ≠ 2) : s.qpFetch q = s :=
  if_neg fun hc => h hc.1

theorem qpStart_cfg (s : State) (q : Nat) : (s.qpStart q).cfg = s.cfg :=
  (State.qpStart_keeps (m := 0x780004) rfl s q (Keeps.rfl' _ s)).same (p := .cfg) rfl
theorem qpStopping_cfg (s : State) (q c : Nat) : (s.qpStopping q c).cfg = s.cfg :=
  (State.qpStopping_keeps (m := 0x780004) rfl s q c (Keeps.rfl' _ s)).same (p := .cfg) rfl
theorem qpResetCmd_cfg (s : State) (q : Nat) : (s.qpResetCmd q).cfg = s.cfg :=
  (State.qpResetCmd_keeps (m := 0x780004) rfl s q (Keeps.rfl' _ s)).same (p := .cfg) rfl

/-- What QUEUE.QP_STATE does to a queue pair that its function may act on. -/
def qpStateEffect : State → Request → Nat → Except Nat Done := fun s r q =>
  let works := !s.groveFailed (q / 4096)
  match fld r.payload 2 1 with
  | 1 =>
    if (s.qpOf q).state = 3 then .error St.busy
    else if (s.qpOf q).state = 0 then .error St.badArg
    else if s.startFits q then chk works St.internal <| done (s.qpStart q)
    else done s
  | 2 => if s.stopFits q then chk works St.internal <| done (s.qpStopping q 1) else done s
  | 3 => if (s.qpOf q).state = 0 then done s else chk works St.internal <| done (s.qpResetCmd q)
  | _ => done s
theorem qpStateBody_eq : qpStateBody = qpCmd 4 (fun p => fld p 2 1 ≤ 3 && zeroAt p 3 1) qpStateEffect := rfl
theorem ite_eq_true_swap {α : Type} (c : Bool) (a b : α) : (if c = true then a else b) = if c = false then b else a := by
  cases c <;> rfl

/-- Settles O36, clause by clause. -/
theorem doorbellsAndQueueCommands : Obligations.DoorbellsAndQueueCommands := by
  unfold Obligations.DoorbellsAndQueueCommands
  refine ⟨?pages, ?workPi, fun _ _ _ => rfl, ?stopping, ?reset, ?ending, ?drained, ?released, ?set, ?get, ?state⟩
  case pages =>
    intro s f slot v h
    have hon {off : Nat} (hr : s.reaches f (0x400 + fnPort f) 2 (0x1000 * slot + off) 8) (k : State → Nat → State) :
        whenServing s (fun s => doorbell s f slot off k) = .next (match s.slotQp f slot with
          | some q => k (s.traffic f) q | none => (s.traffic f).hostCtr (fnPort f) 12) := by
      rw [whenServing_of h, doorbell_eq hr]
    exact ⟨fun hr => hon (off := 0) hr _, fun hr => hon hr _, fun hr => ⟨hon hr _, hon hr _, hon hr _⟩⟩
  case workPi =>
    intro s q v
    refine ⟨fun h => if_neg (Nat.not_le.mpr h), fun h hn => ?_, fun h => ?_⟩
    · unfold State.workPiWrite
      dsimp only
      rw [if_pos h, if_neg (Nat.not_le.mpr hn), if_neg (Nat.lt_asymm hn)]
    · unfold State.workPiWrite
      dsimp only
      by_cases hv : (v - (s.qpOf q).workCi).toNat ≤ 2 ^ (s.qpOf q).set.workLog2
      · rw [if_pos hv, if_pos hv]
        have hrec (w : State) (hst : (w.qpOf q).state = (s.qpOf q).state) (hpi : (w.qpOf q).workPi = v) :
            ((w.qpFetch q).qpOf q).workPi = v := by
          rw [qpFetch_idle (by rw [hst]; exact h), hpi]
        apply hrec <;> split <;> split <;> simp [qpOf_dropFetch]
      · rw [if_neg hv, if_neg hv, qpOf_qpCtr]
  case stopping =>
    intro s q c
    obtain ⟨j, k, h⟩ := qpOf_qpStopping s q c
    rw [h]
    exact ⟨rfl, rfl, rfl, rfl⟩
  case reset =>
    intro s q
    unfold State.qpResetCmd
    dsimp only
    rw [State.qpOf_setQp]
    refine ⟨rfl, rfl, rfl, fun p hp => ?_⟩
    rw [State.qpOf_setQp_ne _ _ _ hp, qpOf_endStall_ne s hp]
  case ending =>
    intro s q h
    change execQpStoppingEnd q s = _
    rw [execQpStoppingEnd, whenRunning_of h]
    rfl
  case drained =>
    intro s q
    refine ⟨fun h => by rw [State.drained, if_pos h], fun h => ?_⟩
    rw [State.drained, if_neg (ne_true_of_eq_false h), List.all_eq_true]
    refine forall₂_congr fun j _ => ?_
    cases j.st <;> simp
  case released =>
    intro s q hs hw hall
    unfold State.qpToReset
    dsimp only
    rw [endStall_of_none hs]
    have hqp : (((s.setQp q { ctrs := (s.qpOf q).ctrs }).qpRelease q).qpSourceReset q).qp = (s.setQp q { ctrs := (s.qpOf q).ctrs }).qp := by
      rw [qpSourceReset_qp, qpRelease_qp]
    rw [tellWaiters_none, qpOf_congr hqp, State.qpOf_setQp]
    intro x hx
    rw [hqp] at hx
    obtain rfl | hx := SMap.mem_set _ _ _ _ hx
    · rfl
    · exact hall x hx
  case set =>
    intro s r q x h hq hx
    subst hq hx
    have hfl : (BitVec.ofNat 8 (fld r.payload 5 1)).toNat = fld r.payload 5 1 :=
      Nat.mod_eq_of_lt (fld_lt r.payload 5 1)
    change slaotRow _ _ s = _
    rw [slaotRow_ended h]
    refine congrArg Host.Outcome.next ?_
    refine State.ended_chk ?form (State.ended_chk ?present (State.ended_chk Iff.rfl (State.ended_chk ?busy
      (State.ended_chk ?denied (State.ended_chk ?slots (State.ended_chk ?bound (State.ended_chk ?live (State.ended_done rfl))))))))
    case form =>
      simp [-Bool.and_eq_false_imp, Bool.and_eq_false_iff, QpSet.meta_, hfl, zeroAt, or_assoc]
    case present => simp [-Bool.and_eq_false_imp, Bool.and_eq_false_iff, or_assoc]
    case busy => simp
    case denied => simp [-Bool.and_eq_false_imp, Bool.and_eq_false_iff]
    case slots => exact decide_eq_false_iff_not.trans Nat.not_lt
    case bound => simp [-Bool.and_eq_false_imp, Bool.and_eq_false_iff]
    case live => simp
  case get =>
    intro s r hlen hz
    dsimp only
    refine ⟨fun h => ?_, fun h => ?_⟩
    · change slaotRow _ _ s = _
      rw [slaotRow_ended h]
      exact congrArg Host.Outcome.next (State.ended_pass (by simp [hlen, hz, zeroAt])
        (State.ended_chk Iff.rfl (State.ended_chk Iff.rfl (State.ended_done rfl))))
    · change slaotRow _ _ s = _
      rw [slaotRow_ended h]
      exact congrArg Host.Outcome.next (State.ended_pass (by simp [hlen, hz, zeroAt])
        (State.ended_chk Iff.rfl (State.ended_chk Iff.rfl (State.ended_done rfl))))
  case state =>
    intro s r q h hlen hq hz hp ho
    subst hq
    have hrow {c : Nat} {x : State} (hm : isQpState c r = true) (hle : fld r.payload 2 1 ≤ 3)
        (hx : s.ended r (qpStateEffect s.taken r (fld r.payload 0 2)) = x) : requestRow (isQpState c) qpStateBody s = .next x := by
      rw [requestRow_ended h.1 h.2.1 h.2.2.1 hm]
      exact congrArg Host.Outcome.next (State.ended_pass (by simp [hlen, hle, zeroAt, hz]) (State.ended_pass hp (State.ended_pass ho hx)))
    have hop := h.2.2.2
    refine ⟨fun hv => hrow (c := 1) (by simp [isQpState, hop, hv]) (by omega) ?start,
      fun hv => hrow (c := 1) (by simp [isQpState, hop, hv]) (by omega) ?idle, fun hv => ?bad,
      fun hv => hrow (c := 2) (by simp [isQpState, hop, hv]) (by omega) ?stop,
      fun hv => hrow (c := 3) (by simp [isQpState, hop, hv]) (by omega) ?reset⟩
    case start =>
      rw [qpStateEffect, hv]
      refine State.ended_ite rfl (State.ended_ite rfl ?_)
      rw [ite_eq_true_swap]
      exact State.ended_ite (State.ended_done rfl) (State.ended_chk (by simp) (State.ended_done (qpStart_cfg ..)))
    case idle =>
      rw [qpStateEffect, hv]
      exact State.ended_done rfl
    case bad =>
      change requestRow (isQpState 1) qpStateBody s = _
      rw [requestRow_ended h.1 h.2.1 h.2.2.1 (by simp [isQpState, hop, hv])]
      exact congrArg Host.Outcome.next ((congrArg (s.ended r) (chk_not (by simp [Nat.not_le.mpr hv]) _ _)).trans State.ended_error)
    case stop =>
      simp only [qpStateEffect, hv]
      rw [ite_eq_true_swap]
      exact State.ended_ite (State.ended_done rfl) (State.ended_chk (by simp) (State.ended_done (qpStopping_cfg ..)))
    case reset =>
      rw [qpStateEffect, hv]
      exact State.ended_ite (State.ended_done rfl) (State.ended_chk (by simp) (State.ended_done (qpResetCmd_cfg ..)))

end Sys2Proof.Machine
end

section
/-! PROOF. Descriptors, jobs and completion records (13 R395, R398 to R401), COUNTER_WAIT, transmit and receive (R402 to
R406). -/
namespace Sys2Proof.Machine

/-! ## Fields of a number's bytes -/

theorem leBytes_add (a b v : Nat) : leBytes (a + b) v = leBytes a v ++ leBytes b (v / 256 ^ a) := by
  induction a generalizing v with
  | zero => simp [leBytes]
  | succ a ih => rw [Nat.succ_add, leBytes, leBytes, ih, Nat.div_div_eq_div_mul, ← Nat.pow_succ', List.cons_append]
/-- A field of `k` bytes at `o` of a number of `n` bytes. -/
theorem fld_leBytes {n o k : Nat} (h : o + k ≤ n) (v : Nat) : fld (leBytes n v) o k = v / 256 ^ o % 256 ^ k := by
  obtain ⟨m, rfl⟩ := Nat.exists_eq_add_of_le h
  have hfirst := slice_first (leBytes k (v / 256 ^ o)) (leBytes m (v / 256 ^ o / 256 ^ k))
  rw [leBytes_length] at hfirst
  rw [Nat.add_assoc, leBytes_add, fld_skip _ _ _ _ _ (Nat.le_refl o), Nat.sub_self, leBytes_add, fld, hfirst, leNat_leBytes]

/-! ## Descriptors and jobs -/

theorem beginStall_eq (s : State) (q : Nat) : s.beginStall q =
    if (s.qpOf q).stall = none then (s.setQp q { s.qpOf q with stall := some (s.clk, false) }).qpCtr q 10 1 else s := by
  unfold State.beginStall
  cases (s.qpOf q).stall <;> rfl
theorem mayStart_fence {s : State} {q : Nat} (h : (s.qpOf q).cplDone ≠ (s.qpOf q).cplReserved) : s.mayStart q true = false := by
  simp [State.mayStart, beq_eq_false_iff_ne.mpr h]
theorem mayStart_full {s : State} {q : Nat} (h : 64 ≤ (s.qpOf q).inProgress) (b : Bool) : s.mayStart q b = false := by
  simp [State.mayStart, h]
/-- A queue pair enters ERROR with a reason and an index. -/
theorem qpOf_qpError (s : State) (q k : Nat) (i : W32) : ((s.qpError q k i).qpOf q).state = 4 ∧
    ((s.qpError q k i).qpOf q).reason = k ∧ ((s.qpError q k i).qpOf q).errIndex = i := by
  unfold State.qpError
  dsimp only
  obtain ⟨w, hw⟩ := qpOf_tellWaiters ((((s.endStall q).setQp q { ((s.endStall q).qpOf q).refetch with
    state := 4, reason := k, errIndex := i }).qpCtr q 9 1).fire q Ev.qpError (BitVec.ofNat 32 (k + 65536 * (i.toNat % 65536)))) q q
  rw [hw, qpOf_fire, qpOf_qpCtr, State.qpOf_setQp]
  exact ⟨rfl, rfl, rfl⟩

/-- Settles O37, row by row. -/
theorem jobRows : Obligations.JobRows := by
  unfold Obligations.JobRows
  refine ⟨?fetch, fun s q k i _ => qpOf_qpError s q k i, ?post, ?start, beginStall_eq, fun s q h => mayStart_fence h,
    fun s q b h => mayStart_full h b, ?job, ?stall, fun s q slot h => whenRunning_of h (State.writeRecord · q slot false), ?unended, ?record, ?bytes,
    fun s q slot h => whenRunning_of h fun s => if (s.readyJob q slot 1).isSome then s.endJob q slot St.ok 0 0 else s, ?ends, ?ended⟩
  case fetch =>
    intro s q h
    change execDescriptorFetch q s = _
    rw [execDescriptorFetch, whenRunning_of h, State.takeDesc]
    dsimp only
    cases (s.qpOf q).arrived with
    | nil => rfl
    | cons d l =>
      dsimp only
      split
      · cases checkDesc _ _ _ _ <;> rfl
      · rfl
  case post =>
    intro s q h
    change execRxPost q s = _
    rw [execRxPost]
    exact whenRunning_of h _
  case start =>
    intro s q h
    change execJobStart q s = _
    rw [execJobStart]
    exact whenRunning_of h _
  case job =>
    intro s q c hk hr hs
    unfold State.startJob
    dsimp only
    rw [hr, List.flatMap_nil, if_neg hk]
    dsimp only [State.issuePieces]
    rw [endStall_of_none (by rw [State.qpOf_setQp]; exact hs), qpOf_qpCtr, State.qpOf_setQp]
    exact ⟨rfl, rfl, _, rfl, rfl, rfl, rfl, rfl, rfl⟩
  case stall =>
    intro s q h
    change execCqStallTimeout q s = _
    rw [execCqStallTimeout]
    exact whenRunning_of h _
  case unended =>
    intro s q slot
    refine ⟨fun h => ?_, fun j h hj => ?_⟩
    · rw [State.writeRecord, h]
    · rw [State.writeRecord, h]
      dsimp only
      obtain hj | hj := hj <;> rw [hj]
  case record =>
    intro s u q slot j r a h hj hd
    dsimp only
    rw [State.writeRecord, h]
    dsimp only
    obtain hj | hj := hj
    all_goals
      rw [hj]
      refine ite_iff_congr (by simp) rfl ?_
      generalize s.dmaWrite _ _ _ _ _ = x at hd
      subst hd
      cases a <;> rfl
  case bytes =>
    intro r i c
    refine ⟨leBytes_length 16 _, ?_⟩
    rw [cplBytes, fld_leBytes (by omega)]
    omega
  case ends =>
    intro s q a b d slot j h hj
    dsimp only
    rw [State.endJob, h]
    dsimp only
    rw [if_pos hj]
  case ended =>
    intro s q a b d slot j h hj
    rw [State.endJob, h]
    exact if_neg hj

/-! ## COUNTER_WAIT, transmit and receive (R402 to R406) -/

theorem inTime_eq (w : Waiter) : w.inTime = match w.ended with
    | none => none
    | some (t, b) => if w.timeoutUs = 0 ∨ t ≤ w.start + us w.timeoutUs then some b else none := by
  unfold Waiter.inTime Waiter.deadline
  cases w.ended with
  | none => rfl
  | some x =>
    by_cases hz : w.timeoutUs = 0
    · simp [hz]
    · simp [hz]
/-- What a wait has in time is judged once; a failed read of a job and a job that is ready exclude each other. -/
theorem readyJob_of_cutJob {s : State} {q op : Nat} {slot : W32} {x : Job × Nat × Nat} (h : s.cutJob q slot op = some x) :
    s.readyJob q slot op = none := by
  obtain ⟨j, hj, hx⟩ := Option.bind_eq_some_iff.mp h
  have hcut : j.cut ≠ none := by
    split at hx
    · intro hc
      rw [hc] at hx
      cases hx
    · cases hx
  rw [State.readyJob, hj, Option.filter_some, if_neg]
  cases hc : j.cut with
  | none => exact absurd hc hcut
  | some _ => simp
/-- The buffers taken are the first ones, no more than asked for, and hold the bytes. -/
theorem takeBuffers_spec {k n : Nat} {l d : List Desc} (h : takeBuffers k n l = some d) :
    d.length ≤ k ∧ n ≤ (d.map dLen).sum ∧ d = l.take d.length := by
  induction k generalizing n l d with
  | zero =>
    cases n with
    | zero => cases h; simp
    | succ n => cases h
  | succ k ih =>
    cases n with
    | zero => cases h; simp
    | succ n =>
      cases l with
      | nil => cases h
      | cons b l =>
        obtain ⟨e, he, rfl⟩ := Option.map_eq_some_iff.mp h
        obtain ⟨hlen, hsum, htake⟩ := ih he
        refine ⟨Nat.succ_le_succ hlen, ?_, congrArg (b :: ·) htake⟩
        rw [List.map_cons, List.sum_cons]
        omega
theorem wireFrame_spec (b : List Byte) :
    64 ≤ (wireFrame b).length ∧ (wireFrame b).take b.length = b ∧ fcsOk (wireFrame b) = true := by
  have hlen : (pad60 b).length = b.length + (60 - b.length) := by simp [pad60]
  refine ⟨?_, ?_, ?_⟩
  · simp only [wireFrame, withFcs, List.length_append, leBytes_length, hlen]
    omega
  · rw [wireFrame, withFcs, pad60, List.append_assoc, List.take_left']
    rfl
  · simp [fcsOk, wireFrame, withFcs]

/-- Settles O38, row by row. -/
theorem waitAndFrameJobs : Obligations.WaitAndFrameJobs := by
  unfold Obligations.WaitAndFrameJobs
  refine ⟨?wait, ?satisfied, ?timeout, inTime_eq, ?signed, ?tx, wireFrame_spec, ?rx, fun k n l d h => takeBuffers_spec h, ?delivery⟩
  case wait =>
    intro s q slot h
    change execCounterWait q slot s = _
    rw [execCounterWait, whenRunning_of h]
    cases s.readyJob q slot 2 <;> rfl
  case satisfied =>
    intro s q slot h
    change execCounterWaitSatisfied q slot s = _
    rw [execCounterWaitSatisfied, whenRunning_of h]
    cases (s.qpOf q).waiter <;> rfl
  case timeout =>
    intro s q slot h
    change execCounterWaitTimeout q slot s = _
    rw [execCounterWaitTimeout, whenRunning_of h]
    cases (s.qpOf q).waiter with
    | none => rfl
    | some w =>
      by_cases hz : w.timeoutUs = 0
      · simp [Waiter.deadline, hz]
      · simp [Waiter.deadline, hz]
  case signed =>
    intro s a v
    rw [State.waitMet, ← BitVec.msb_eq_getMsbD_zero, Bool.not_eq_true', BitVec.msb_eq_false_iff_two_mul_lt]
    omega
  case tx =>
    intro s q slot h
    change execTx q slot s = _
    rw [execTx, whenRunning_of h]
    cases hc : s.cutJob q slot 0x10 with
    | some x =>
      rw [readyJob_of_cutJob hc]
    | none => cases s.readyJob q slot 0x10 <;> rfl
  case rx =>
    intro s q h
    change execRxDelivery q s = _
    rw [execRxDelivery, whenRunning_of h, State.rxTake]
    dsimp only
    cases s.sinkQueue (q / 4096) (.hostQueue q) with
    | nil => rfl
    | cons tag _ =>
      dsimp only
      cases s.frame tag with
      | none => rfl
      | some f =>
        dsimp only
        split
        · cases takeBuffers _ _ _ <;> rfl
        · rfl
  case delivery =>
    intro s u q g tag f d p b a h
    dsimp only
    rw [State.deliver_, h]
    cases a <;> rfl

end Sys2Proof.Machine
end

section
/-! PROOF. How events become records (14 R413 to R426), the registers of an event queue and its interrupt (R420 to R422, R427
to R429), and the EVENT commands (R432, R433). -/
namespace Sys2Proof.Machine

/-! ## Delivery (R414, R418, R423 to R426) -/

theorem eligible_not {s : State} {src e : Nat} (h : (s.eq e).fault = true ∨ (s.eq e).full = true ∨ (s.eq e).state ≠ 2) :
    s.eligible src e = false := by
  unfold State.eligible State.admits
  obtain h | h | h := h <;> simp [h]
theorem eligible_of_resolve {s : State} {src e : Nat} (h : s.resolve src = some e) : s.eligible src e = true := by
  unfold State.resolve at h
  dsimp only at h
  split at h
  · exact List.find?_some h
  · split at h
    next he =>
      cases h
      exact he
    · cases h
/-- The fields of an event record stand in their places. -/
theorem eventRecord_fields {src : Nat} {h : HeldEv} (hs : src < 2 ^ 31) (ht : h.type < 65536) (i : W32) (c : Nat) :
    fld (eventRecord src h i c) 0 4 = (i.toNat / 2 ^ c + 1) % 2 + 2 * src ∧ fld (eventRecord src h i c) 5 1 = min h.count 255 ∧
    fld (eventRecord src h i c) 6 2 = h.type ∧ fld (eventRecord src h i c) 8 4 = h.data.toNat ∧
    fld (eventRecord src h i c) 12 4 = h.time % 2 ^ 32 := by
  have hd := h.data.isLt
  have hphase : (i.toNat / 2 ^ c % 2 + 1) % 2 = (i.toNat / 2 ^ c + 1) % 2 := by omega
  unfold eventRecord
  rw [hphase]
  have hx : (i.toNat / 2 ^ c + 1) % 2 < 2 := Nat.mod_lt _ (by decide)
  generalize (i.toNat / 2 ^ c + 1) % 2 = x at hx ⊢
  have hcount : min h.count 255 ≤ 255 := Nat.min_le_right ..
  generalize min h.count 255 = n at hcount ⊢
  have htime : h.time % 2 ^ 32 < 2 ^ 32 := Nat.mod_lt _ (by decide)
  generalize h.time % 2 ^ 32 = m at htime ⊢
  rw [fld_leBytes (by omega), fld_leBytes (by omega), fld_leBytes (by omega), fld_leBytes (by omega), fld_leBytes (by omega)]
  simp only [Nat.reducePow] at *
  omega

/-! ## Event queues (R420 to R422) -/

/-- Once the record of a source has been completed, it is not active. -/
theorem completeRecords_active {l : List Nat} {i : Nat} (s : State) (h : i ∈ l) : ((s.completeRecords l).src i).active = none := by
  have hkeep (l : List Nat) (u : State) (hu : (u.src i).active = none) : ((u.completeRecords l).src i).active = none := by
    induction l generalizing u with
    | nil => exact hu
    | cons j l ih =>
      refine ih _ ?_
      by_cases hj : i = j
      · rw [hj, State.src_setSrc]
      · rw [State.src_setSrc_ne _ _ _ hj, hu]
  induction l generalizing s with
  | nil => cases h
  | cons j l ih =>
    obtain rfl | h := List.mem_cons.mp h
    · exact hkeep l _ (by rw [State.src_setSrc])
    · exact ih _ h
theorem eqWrite_eq {s : State} {f e off : Nat} (h : s.reaches f (0x300 + fnPort f) 2 (eqOffset f e (s.eq e).slot + off) 8)
    (k : State → State) : eqWrite s f e off k =
    if e / 256 = fnPort f ∧ s.owner 3 e = f ∧ (fnLocal f = 2 ∨ (s.eq e).state ≠ 0) then k (s.traffic f)
    else (s.traffic f).hostCtr (fnPort f) 12 :=
  hostRequest_eq _ h
theorem owner_upToClk (s : State) (t k i : Nat) : (s.upToClk t).owner k i = s.owner k i := by
  have hcfg : (s.upToClk t).cfg = s.cfg := (State.upToClk_keeps (m := 1) rfl s t (Keeps.rfl' _ s)).same (p := .cfg) rfl
  rw [State.owner, State.owner, hcfg]
theorem sendOverdue_idle {s : State} {e : Nat} (h : (s.eq e).due = none) : s.sendOverdue e = s := by
  rw [State.sendOverdue, h]
  rfl
theorem deliverAll_idle {s : State} (h : s.ev.srcs = []) (e : Nat) (l : List Nat) : s.deliverAll e l = s := by
  rw [State.deliverAll, h]
  rfl

/-- Settles O40, row by row. -/
theorem eventQueueRows : Obligations.EventQueueRows := by
  unfold Obligations.EventQueueRows
  refine ⟨?registers, ?index, ?empty, fun _ _ => rfl, ?leave, ?reset, fun s l i h => completeRecords_active s h, ?interrupt,
    ?message, ?pending⟩
  case registers =>
    intro s f e h
    have hon {off : Nat} (hr : s.reaches f (0x300 + fnPort f) 2 (eqOffset f e (s.eq e).slot + off) 8) (k : State → State) :
        whenServing s (fun s => eqWrite s f e off k) = .next (if e / 256 = fnPort f ∧ s.owner 3 e = f ∧
          (fnLocal f = 2 ∨ (s.eq e).state ≠ 0) then k (s.traffic f) else (s.traffic f).hostCtr (fnPort f) 12) := by
      rw [whenServing_of h, eqWrite_eq hr]
    have hcmd (t : State) (v : Nat) : (t.eqCmd e 1 = if (t.eq e).state = 1 then t.eqEnable e else t.eqCtr e 6 1) ∧
        (t.eqCmd e 2 = if (t.eq e).state = 2 then t.eqLeave e else t.eqCtr e 6 1) := by
      simp [State.eqCmd]
    refine ⟨fun v hr => hon (off := 0) hr _, fun hr => ⟨?_, ?_, fun v => hon hr _⟩⟩
    · exact (hon hr _).trans (by rw [(hcmd _ 1).1]; rfl)
    · exact (hon hr _).trans (by rw [(hcmd _ 2).2]; rfl)
  case index =>
    intro s e v h
    rw [State.eqCi, h]
  case empty =>
    intro s e hpi hr hd hs
    rw [State.eqCi, sendOverdue_idle hd]
    dsimp only
    rw [if_pos ⟨by simp [hpi], by simp⟩, hr, hd, if_pos rfl, if_neg (by simp)]
    rw [List.filter_nil, List.filter_nil]
    exact deliverAll_idle (s := s.setEq e { s.eq e with ci := (s.eq e).pi, due := none, records := [] }) hs e []
  case leave =>
    intro s e h
    rw [State.eqLeave, h]
  case reset =>
    intro s e
    unfold State.eqReset
    dsimp only
    rw [State.eq_setEq]
  case interrupt =>
    intro s e h
    change execInterruptSend e s = _
    rw [execInterruptSend, whenServing_of h, State.sendDue]
    dsimp only
    cases (s.eq e).due with
    | none => rfl
    | some d =>
      dsimp only
      rw [owner_upToClk]
      rfl
  case message =>
    intro s f v hen hm hc
    rw [State.interrupt, if_pos (by simp [hen, hm, hc])]
  case pending =>
    intro s f v h
    rw [State.interrupt, if_neg (by obtain h | h | h := h <;> simp [h]), fn_intxUpdate, State.fn_setFn]
    exact SMap.get_set_self ..

/-! ## The EVENT commands (R428, R432, R433) -/

theorem eqEnable_cfg (s : State) (e : Nat) : (s.eqEnable e).cfg = s.cfg :=
  (State.eqEnable_keeps (m := 0x580004) rfl s e (Keeps.rfl' _ s)).same (p := .cfg) rfl
theorem eqLeave_cfg (s : State) (e : Nat) : (s.eqLeave e).cfg = s.cfg :=
  (State.eqLeave_keeps (m := 0x580005) rfl s e (Keeps.rfl' _ s)).same (p := .cfg) rfl
theorem eqReset_cfg (s : State) (e : Nat) : (s.eqReset e).cfg = s.cfg :=
  (State.eqReset_keeps (m := 0x580005) rfl s e (Keeps.rfl' _ s)).same (p := .cfg) rfl
/-- What EVENT.EQ_STATE does to a queue that its function may act on. -/
def eqStateEffect : State → Request → Nat → Except Nat Done := fun s r e =>
  match fld r.payload 2 1 with
  | 1 => chk ((s.eq e).state == 1) St.busy <| done (s.eqEnable e)
  | 2 => chk ((s.eq e).state == 2) St.busy <| done (s.eqLeave e)
  | _ => done (s.eqReset e)
theorem eqStateBody_eq :
    eqStateBody = eqCmd 4 (fun p => 1 ≤ fld p 2 1 && fld p 2 1 ≤ 3 && zeroAt p 3 1) eqStateEffect := rfl

/-- Settles O39, clause by clause. -/
theorem eventDeliveryAndCommands : Obligations.EventDeliveryAndCommands := by
  unfold Obligations.EventDeliveryAndCommands
  refine ⟨?row, ?nothing, ?full, ?delivered, fun s src e h => eligible_not h, fun s src e h => eligible_of_resolve h, ?spread,
    fun src h i c hs ht => ⟨leBytes_length 16 _, eventRecord_fields hs ht i c⟩, ?set, ?queue, ?route, ?routeGet, ?group⟩
  case row => exact fun s src h => whenServing_of h (State.deliverEvent · src)
  case nothing =>
    intro s src h
    rw [State.deliverEvent]
    dsimp only
    obtain h | h := h
    · rw [h]
    · obtain ⟨a, ha⟩ := Option.isSome_iff_exists.mp h
      rw [ha]
      cases (s.src src).held <;> rfl
  case full =>
    intro s src h l hh ha hr
    rw [State.deliverEvent]
    dsimp only
    rw [hh, ha]
    dsimp only
    rw [hr]
  case delivered =>
    intro s u src e h l a hh ha hr hw
    dsimp only
    rw [State.deliverEvent]
    dsimp only
    rw [hh, ha]
    dsimp only
    rw [hr]
    refine ite_iff_congr (by simp) rfl ?_
    generalize s.dmaWrite _ _ _ _ _ = x at hw
    subst hw
    cases a <;> rfl
  case spread =>
    intro s src h
    rw [State.resolve, h]
    rfl
  case set =>
    intro s r e h he
    subst he
    change slaotRow _ _ s = _
    rw [slaotRow_ended h]
    refine congrArg Host.Outcome.next ?_
    refine State.ended_chk ?form (State.ended_chk Iff.rfl (State.ended_chk Iff.rfl (State.ended_chk ?busy
      (State.ended_chk ?gate (State.ended_chk ?slots (State.ended_chk ?bound (State.ended_done rfl)))))))
    case form => simp [-Bool.and_eq_false_imp, Bool.and_eq_false_iff, or_assoc]
    case busy => simp
    case gate => simp [-Bool.and_eq_false_imp, Bool.and_eq_false_iff, or_assoc]
    case slots =>
      rw [Bool.and_eq_false_iff, Bool.or_eq_false_iff, beq_eq_false_iff_ne, decide_eq_false_iff_not, decide_eq_false_iff_not,
        Nat.not_lt, Nat.not_lt]
      rfl
    case bound => simp
  case queue =>
    intro s r e he hlt hp ho
    subst he
    have hcmd {op len : Nat} {wf : List Byte → Bool} {k : State → Request → Nat → Except Nat Done} {x : State} (h : s.asks r op)
        (hf : (r.payload.length == len && fld r.payload 0 2 < 4096 && wf r.payload) = true)
        (hx : s.ended r (k s.taken r (fld r.payload 0 2)) = x) : slaotRow op (eqCmd len wf k) s = .next x := by
      rw [slaotRow_ended h]
      exact congrArg Host.Outcome.next (State.ended_pass hf (State.ended_pass hp (State.ended_pass ho hx)))
    refine ⟨fun h hlen hz => hcmd h (by simp [hlen, hlt, zeroAt, hz]) (State.ended_done rfl), ?state, ?modset,
      fun h hlen hz => hcmd h (by simp [hlen, hlt, zeroAt, hz]) (State.ended_done rfl)⟩
    case state =>
      intro h hlen hz
      have hop := h.2.2.2
      have hrow {c : Nat} {x : State} (hm : isEqState c r = true) (hle : 1 ≤ fld r.payload 2 1 ∧ fld r.payload 2 1 ≤ 3)
          (hx : s.ended r (eqStateEffect s.taken r (fld r.payload 0 2)) = x) : requestRow (isEqState c) eqStateBody s = .next x := by
        rw [requestRow_ended h.1 h.2.1 h.2.2.1 hm]
        exact congrArg Host.Outcome.next (State.ended_pass (by simp [hlen, hlt, hle, zeroAt, hz])
          (State.ended_pass hp (State.ended_pass ho hx)))
      refine ⟨fun hv => hrow (c := 1) (by simp [isEqState, hop, hv]) (by omega) ?_,
        fun hv => hrow (c := 2) (by simp [isEqState, hop, hv]) (by omega) ?_,
        fun hv => hrow (c := 3) (by simp [isEqState, hop, hv]) (by omega) ?_, fun hv => ?_⟩
      · simp only [eqStateEffect, hv]
        exact State.ended_need beq_iff_eq (State.ended_done (eqEnable_cfg ..))
      · simp only [eqStateEffect, hv]
        exact State.ended_need beq_iff_eq (State.ended_done (eqLeave_cfg ..))
      · simp only [eqStateEffect, hv]
        exact State.ended_done (eqReset_cfg ..)
      · change requestRow (isEqState 1) eqStateBody s = _
        rw [requestRow_ended h.1 h.2.1 h.2.2.1 (by simp [isEqState, hop, hv])]
        refine congrArg Host.Outcome.next (State.ended_fail ?_)
        obtain hv | hv := hv
        · simp [hv]
        · simp [Nat.not_le.mpr hv]
    case modset =>
      intro h hlen h1 hz h2 hz2
      exact hcmd h (by simp [hlen, hlt, h1, zeroAt, hz, h2, hz2]) State.ended_cfg
  case route =>
    intro s r i n e spread h hlen hi hn hsp hz he h1 hle hrange hgroup hqueue
    subst hi hn he
    dsimp only
    have hspread : (fld r.payload 8 1 == 1) = spread := by
      rw [hsp]
      cases spread <;> rfl
    change slaotRow _ _ s = _
    rw [slaotRow_ended h]
    refine congrArg Host.Outcome.next ?_
    unfold routeSetBody
    dsimp only
    rw [hspread]
    refine State.ended_pass ?form (State.ended_chk ?present (State.ended_chk ?owned (State.ended_chk ?port State.ended_cfg)))
    case form =>
      have hfits : (if fld r.payload 0 4 < 65536 then decide (fld r.payload 0 4 + fld r.payload 4 4 ≤ 65536) &&
            (fld r.payload 0 4 + fld r.payload 4 4 - 1) / 4096 == fld r.payload 0 4 / 4096
          else (fld r.payload 0 4 + fld r.payload 4 4 - 1 - 65536) / 256 == (fld r.payload 0 4 - 65536) / 256) = true ∧
          fld r.payload 0 4 + fld r.payload 4 4 ≤ 69632 := by
        obtain ⟨hend, hport⟩ | ⟨hbegin, hend, hport⟩ := hrange
        · rw [if_pos (by omega)]
          exact ⟨by simp [hend, hport], by omega⟩
        · rw [if_neg (by omega)]
          exact ⟨by simp [hport], hend⟩
      have hkind : (if spread = true then decide (fld r.payload 10 2 < 256) else decide (fld r.payload 10 2 < 4096)) = true := by
        cases spread
        · exact decide_eq_true (hqueue rfl)
        · exact decide_eq_true (hgroup rfl)
      have hsmall : fld r.payload 8 1 ≤ 1 := by
        rw [hsp]
        cases spread <;> decide
      simp only [Bool.and_eq_true, decide_eq_true_eq, beq_iff_eq]
      exact ⟨⟨⟨⟨⟨⟨⟨hlen, h1⟩, hle⟩, hsmall⟩, by simp [zeroAt, hz]⟩, hfits.2⟩, hfits.1⟩, hkind⟩
    case present =>
      rw [Bool.and_eq_false_iff, decide_eq_false_iff_not, Nat.not_lt]
      rfl
    case owned =>
      simp [List.all_eq_false]
    case port =>
      cases spread <;> simp [-Bool.and_eq_false_imp, Bool.and_eq_false_iff]
  case routeGet =>
    intro s r i h hlen hi hlt
    subst hi
    change slaotRow _ _ s = _
    rw [slaotRow_ended h]
    exact congrArg Host.Outcome.next (State.ended_pass (by simp [hlen, hlt])
      (State.ended_chk Iff.rfl (State.ended_chk Iff.rfl (State.ended_done rfl))))
  case group =>
    intro s r g m h hlen hg hz hlt hm
    subst hg hm
    dsimp only
    change slaotRow _ _ s = _
    rw [slaotRow_ended h]
    refine congrArg Host.Outcome.next ?_
    unfold groupSetBody
    dsimp only
    generalize (maskBits (fld r.payload 4 32) 256).map (256 * (fld r.payload 0 2 / 16) + ·) = m
    refine State.ended_chk ?form (State.ended_chk ?present (State.ended_chk ?owned ?effect))
    case form =>
      cases m with
      | nil => simp [hlen, zeroAt, hz, hlt]
      | cons a m =>
        simp [hlen, zeroAt, hz, hlt]
        omega
    case present => exact decide_eq_false_iff_not.trans Nat.not_lt
    case owned =>
      have hset (old : List Nat) : (if (m.length == 0) = true then old else m) = if m = [] then old else m := by
        cases m <;> rfl
      rw [hset, List.all_eq_false]
      simp only [Bool.not_eq_true]
      rfl
    case effect =>
      refine State.ended_ite_iff List.length_eq_zero_iff (State.ended_chk ?_ State.ended_cfg) State.ended_cfg
      rw [Bool.not_eq_false', List.any_eq_true]
      simp

end Sys2Proof.Machine
end

section
/-! PROOF. The service threads (15 R434 to R445) and their channels (R446 to R451). -/
namespace Sys2Proof.Machine

/-! ## What the operations leave of a thread and of a channel -/

theorem thread_setThread (s : State) (t : Thr) (v : SvcThread) : (s.setThread t v).thread t = v := by
  unfold State.setThread State.thread
  dsimp only
  rw [State.svc_setSvc]
  exact SMap.getD_set_self ..
theorem chan_setChan (x : SvcGrove) (c : Nat) (v : Chan) : (x.setChan c v).chan c = v := SMap.getD_set_self ..
theorem svc_setChan (s : State) (g c : Nat) (x : SvcGrove) (v : Chan) : ((s.setSvc g (x.setChan c v)).svc g).chan c = v := by
  rw [State.svc_setSvc, chan_setChan]
/-- A change of a grove's record that is not one of its threads or its image leaves its threads. -/
theorem thread_setSvc (s : State) (t : Thr) {g : Nat} {x : SvcGrove} (ht : x.threads = (s.svc g).threads)
    (hi : x.image = (s.svc g).image) : (s.setSvc g x).thread t = s.thread t := by
  unfold State.thread
  by_cases h : t.grove = g
  · rw [h, State.svc_setSvc, SvcGrove.thread, SvcGrove.thread, SvcGrove.fresh, SvcGrove.fresh, ht, hi]
  · rw [State.svc_setSvc_ne _ _ _ h]
/-- The stillness detector of a core is apart from its threads. -/
theorem thread_stillUpdate (s : State) (g c : Nat) (t : Thr) : (s.stillUpdate g c).thread t = s.thread t := by
  unfold State.stillUpdate
  dsimp only
  split
  · exact thread_setSvc s t rfl rfl
  · exact thread_setSvc s t rfl rfl
theorem thread_putThread (s : State) (t : Thr) (v : SvcThread) : (s.putThread t v).thread t = v := by
  rw [State.putThread, thread_stillUpdate, thread_setThread]
theorem xr_zero (th : SvcThread) : th.xr 0 = 0 := rfl
theorem xr_setX (th : SvcThread) {r : Nat} (hr : r ≠ 0) (v : W64) : (th.setX r v).xr r = v := by
  rw [SvcThread.setX, if_neg hr, SvcThread.xr, if_neg hr]
  exact SMap.getD_set_self ..
theorem xr_setX_ne (th : SvcThread) {r k : Nat} (hk : k ≠ r) (v : W64) : (th.setX r v).xr k = th.xr k := by
  by_cases hr : r = 0
  · rw [SvcThread.setX, if_pos hr]
  · rw [SvcThread.setX, if_neg hr, SvcThread.xr, SvcThread.xr]
    exact ite_iff_congr Iff.rfl rfl (SMap.getD_set_ne _ _ _ _ _ hk)
theorem pc_setX (th : SvcThread) (r : Nat) (v : W64) : (th.setX r v).pc = th.pc := by
  rw [SvcThread.setX]
  exact (apply_ite SvcThread.pc ..).trans (ite_self _)

/-! ## Faults, restarts and images (R440, R442, R443, R457) -/

theorem parkThread_thread (s : State) (t : Thr) : ((s.parkThread t).thread t).parked = true ∧
    ((s.parkThread t).thread t).reservation = none ∧ ((s.parkThread t).thread t).spinning = false := by
  unfold State.parkThread
  dsimp only
  rw [thread_putThread]
  exact ⟨rfl, rfl, rfl⟩
theorem restartThread_of {s : State} {t : Thr} (h : s.threadThere t = true) (hp : (s.thread t).parked = true) :
    (s.restartThread t).thread t = { (s.svc t.grove).fresh (tnum t) with slice := (s.thread t).slice } := by
  rw [State.restartThread, if_pos ⟨h, hp⟩, thread_putThread]
theorem restartThread_not {s : State} {t : Thr} (hp : (s.thread t).parked = false) : s.restartThread t = s :=
  if_neg (by simp [hp])
theorem postTbl_sv (s : State) (src : Nat) : (s.postTbl src).sv = s.sv := by
  unfold State.postTbl
  dsimp only
  split <;> rfl
theorem svc_congr {s u : State} (h : u.sv = s.sv) (g : Nat) : u.svc g = s.svc g := by
  rw [State.svc, State.svc, h]
/-- Cores in reset have no message and no reservation in their channels. -/
theorem emptyCores_chans (s : State) (g : Nat) : ((s.emptyCores g).svc g).chans = [] := by
  unfold State.emptyCores
  dsimp only
  generalize (groveThreads g).foldl _ s = u
  generalize hv : u.setSvc g _ = v
  have hsvc : (v.svc g).chans = [] := by
    rw [← hv, State.svc_setSvc]
  split
  · exact hsvc
  · exact hsvc
theorem clk_imageStart (s : State) (g : Nat) (b : Option (List Byte)) : (s.imageStart g b).clk = s.clk := by
  have hkeep := State.imageStart_keeps (m := 0xE604) rfl s g b (Keeps.rfl' _ s)
  rw [State.clk, State.clk, State.countAt, State.countAt, hkeep.same (p := .now) rfl, hkeep.same (p := .tm) rfl]
/-- A grove that starts an image. -/
theorem imageStart_svc (s : State) (g : Nat) (b : Option (List Byte)) : ((s.imageStart g b).svc g).image = b ∧
    ((s.imageStart g b).svc g).threads = [] ∧ ((s.imageStart g b).svc g).l2 = [] ∧
    ((s.imageStart g b).svc g).chans = [] ∧ ((s.imageStart g b).svc g).heldInReset = false := by
  have hchans : ((((s.emptyCores g).postTbl (svcSet g 0)).postTbl (svcSet g 1)).svc g).chans = [] := by
    rw [svc_congr ((postTbl_sv _ _).trans (postTbl_sv _ _)), emptyCores_chans]
  unfold State.imageStart
  dsimp only
  rw [State.svc_setSvc]
  exact ⟨rfl, rfl, rfl, hchans, rfl⟩

theorem svcStore_eq (s : State) (t : Thr) (off n v : Nat) : svcStore s t off n v =
    if s.issues t = false then s
    else if (s.svc t.grove).image = none then s.devWrite t off n v
    else match s.svcWrite t (0x10000000 + off) n v 2 with
      | (u, .ok) => u.endSpin t
      | (u, _) => u.threadFault t 7 (BitVec.ofNat 64 (0x10000000 + off)) := by
  unfold svcStore
  rw [ite_eq_true_swap]
  refine ite_iff_congr Iff.rfl rfl (ite_iff_congr Option.isNone_iff_eq_none rfl ?_)
  generalize s.svcWrite t (0x10000000 + off) n v 2 = x
  obtain ⟨u, a⟩ := x
  cases a <;> rfl

/-- Settles O41, clause by clause. -/
theorem serviceThreads : Obligations.ServiceThreads := by
  unfold Obligations.ServiceThreads
  refine ⟨fun s t h hr => whenRunning_of hr (State.runThread · t none h), ?none, ?runs, fun s u t c v => ⟨rfl, rfl, rfl⟩, ?result,
    ?integer, ?add, ?sub, ?misaligned, ?fault, parkThread_thread, ?still, ?restart,
    fun s t => ⟨fun h hp => ?restarted, restartThread_not⟩, fun s t v h => whenRunning_of h (svcStore · t 0x1100 8 v.toNat),
    svcStore_eq, fun s t v => rfl, ?service, imageStart_svc⟩
  case none =>
    intro s t h hn
    rw [State.runThread, if_neg]
    obtain hn | hn := hn <;> simp [hn]
  case runs =>
    intro s u t h a hi him hf
    dsimp only
    rw [State.runThread, if_pos (by simp [hi, him]), hf]
    cases a with
    | insn i n =>
      dsimp only
      cases chanForm i <;> rfl
    | reserved => rfl
    | fault c => rfl
    | wait => rfl
  case result =>
    intro s t r n v
    refine ⟨_, rfl, ?_⟩
    rw [thread_setThread]
    refine ⟨congrArg (· + BitVec.ofNat 64 n) rfl, rfl, fun hr => xr_setX (s.thread t) hr v, fun k hk => xr_setX_ne (s.thread t) hk v⟩
  case integer =>
    intro s t i n h
    dsimp only
    refine ⟨fun e => ?_, fun e => ?_, fun e => ?_, fun e => ?_, fun e => ?_, fun e => ?_, fun e => ?_⟩
    all_goals
      rw [State.insn, e]
      rfl
  case add =>
    intro s t i n h e e3 e7
    rw [State.insn, e, e3, e7]
    rfl
  case sub =>
    intro s t i n h e e3 e7
    rw [State.insn, e, e3, e7]
    rfl
  case misaligned =>
    intro s t i n h e e3 ha
    have hload : ¬(rvOp i = 0x23 ∨ rvOp i = 0x27) := by omega
    rw [State.insn, e]
    dsimp only
    rw [if_neg (by omega), State.memInsn]
    dsimp only
    rw [if_neg hload, e3]
    refine (if_pos ha).trans ?_
    rw [if_neg hload]
  case fault =>
    intro s t c v h
    change execThreadFault t c v s = _
    rw [execThreadFault]
    exact whenRunning_of h _
  case still =>
    intro s g c h
    change execStillnessDetect g c s = _
    rw [execStillnessDetect, whenRunning_of h]
    dsimp only
    cases SMap.get (s.svc g).still c with
    | none => rfl
    | some y =>
      dsimp only
      cases y.since with
      | none => rfl
      | some a => cases y.fired <;> rfl
  case restart =>
    intro s t v h
    change execSvcRestartWrite t v s = _
    rw [execSvcRestartWrite, whenRunning_of h]
    dsimp only [State.svcRestart]
    rw [ite_and_nested]
  case restarted =>
    rw [restartThread_of h hp]
    exact ⟨rfl, rfl, rfl⟩
  case service =>
    intro s g h
    dsimp only
    change execGroveServiceRestart g s = _
    rw [execGroveServiceRestart, whenRunning_of h]
    dsimp only
    rw [clk_imageStart]

/-! ## Channels (R446 to R451) -/

theorem chanFaults_iff (s : State) (t : Thr) (k ch : Nat) : s.chanFaults t k ch = true ↔ 511 < ch ∨ (k ≤ 1 ∧ ch ≤ 31) ∨
    (k = 2 ∧ s.receiver t.grove ch ≠ some (tnum t)) := by
  simp [State.chanFaults, or_assoc]
theorem svc_setThread_chan (s : State) (t : Thr) (v : SvcThread) (ch : Nat) :
    ((s.setThread t v).svc t.grove).chan ch = (s.svc t.grove).chan ch := by
  unfold State.setThread
  dsimp only
  rw [State.svc_setSvc]
  rfl

/-- Settles O42, clause by clause. -/
theorem serviceChannels : Obligations.ServiceChannels := by
  unfold Obligations.ServiceChannels
  refine ⟨?rows, ?runs, ?insn, chanFaults_iff, ?reserve, ?write, ?full, ?foreign, ?send, ?unsent, ?take, ?empty, ?stale, ?release,
    fun s t ch i v h => if_pos h⟩
  case rows =>
    intro s t h
    exact ⟨whenRunning_of h (State.runThread · t (some 0) []), whenRunning_of h (State.runThread · t (some 1) []),
      whenRunning_of h (State.runThread · t (some 2) []), whenRunning_of h (State.runThread · t (some 3) []),
      whenRunning_of h (State.runThread · t (some 4) [])⟩
  case runs =>
    intro s u t a k hf
    rw [State.runThread]
    refine ite_iff_congr Bool.and_eq_true_iff ?_ rfl
    rw [hf]
    cases a with
    | insn i n =>
      dsimp only
      cases chanForm i with
      | none => exact (if_neg (by simp)).symm
      | some f =>
        by_cases hk : f = k ∧ n = 4
        · obtain ⟨rfl, rfl⟩ := hk
          exact (if_pos ⟨rfl, rfl⟩).trans (if_pos ⟨rfl, rfl⟩).symm
        · exact (if_neg hk).trans (if_neg (by simpa using hk)).symm
    | reserved => rfl
    | fault c => rfl
    | wait => rfl
  case insn =>
    intro s t k i
    dsimp only
    refine ⟨fun h => ?_, fun h => ⟨?_, ?_, ?_, ?_, ?_⟩⟩
    · rw [State.chanInsn]
      dsimp only
      rw [if_pos h]
      exact ⟨_, _, rfl, rfl⟩
    all_goals
      intro hk
      subst hk
    rotate_right 1
    · intro hsp
      rw [State.chanInsn]
      dsimp only
      rw [if_neg (ne_true_of_eq_false h), if_pos rfl, hsp]
      rfl
    all_goals
      rw [State.chanInsn]
      dsimp only
      rw [if_neg (ne_true_of_eq_false h), if_neg (by decide)]
      rfl
  case reserve =>
    intro s t ch i v ha hr hm
    rw [State.chanPut]
    rw [if_neg (ne_true_of_eq_false ha), hr, if_pos hm]
    exact ⟨rfl, congrArg Chan.res (svc_setChan ..)⟩
  case write =>
    intro s t ch i v r ha hr ht
    rw [State.chanPut]
    rw [if_neg (ne_true_of_eq_false ha), hr]
    dsimp only
    rw [if_pos ht]
    exact ⟨rfl, congrArg Chan.res (svc_setChan ..)⟩
  case full =>
    intro s t ch i v ha hr hm
    rw [State.chanPut]
    rw [if_neg (ne_true_of_eq_false ha), hr]
    exact if_neg (Nat.not_lt.mpr hm)
  case foreign =>
    intro s t ch i v r ha hr ht
    rw [State.chanPut]
    rw [if_neg (ne_true_of_eq_false ha), hr]
    exact if_neg ht
  case send =>
    intro s t ch n r ha hr ht h1 h8
    rw [State.chanSend]
    dsimp only
    rw [if_neg (ne_true_of_eq_false ha), hr]
    dsimp only
    rw [if_neg (not_not_intro ht), if_neg (by omega)]
    exact ⟨rfl, congrArg Chan.msgs (svc_setChan ..), congrArg Chan.res (svc_setChan ..)⟩
  case unsent =>
    intro s t ch n ha hr
    rw [State.chanSend]
    dsimp only
    rw [if_neg (ne_true_of_eq_false ha), hr]
  case take =>
    intro s t ch m l hm
    rw [State.chanRecv]
    dsimp only
    rw [hm]
    refine ⟨rfl, ?_, ?_⟩
    · exact (congrArg Chan.msgs (svc_setThread_chan ..)).trans (congrArg Chan.msgs (svc_setChan ..))
    · exact congrArg SvcThread.recv (thread_setThread ..)
  case empty =>
    intro s t ch h
    rw [State.chanRecv]
    dsimp only
    rw [h]
  case stale =>
    intro s g ch h
    change execChannelStale g ch s = _
    rw [execChannelStale, whenRunning_of h]
    dsimp only
    cases ((s.svc g).chan ch).res <;> rfl
  case release =>
    intro s g ch h
    change execChRelease g ch s = _
    rw [execChRelease, whenRunning_of h, State.chRelease]
    dsimp only
    cases ((s.svc g).chan ch).res <;> rfl

end Sys2Proof.Machine
end

section
/-! PROOF. Frames, rings and the built-in services of the service cores (15 R452 to R455, R463, R464), and the SERVICE
commands (R456 to R458, R462 to R465). -/
namespace Sys2Proof.Machine

/-! ## Frames and rings (R452 to R455) -/

theorem frmCmd_eq (s : State) (t : Thr) (v : W64) : s.frmCmd t v =
    if eBits v 3 0 = 1 then s.frmTake t (eBits v 15 8)
    else if eBits v 3 0 = 2 then s.frmAlloc t (eBits v 29 16)
    else if eBits v 3 0 = 3 then s.frmSend t v
    else if eBits v 3 0 = 4 then s.frmFree t
    else s := by
  unfold State.frmCmd
  generalize eBits v 3 0 = n
  match n with
  | 0 | 1 | 2 | 3 | 4 => rfl
  | n + 5 => simp
theorem devWrite_frmCmd (s : State) (t : Thr) (v : W64) : s.devWrite t 0x1000 8 v.toNat = s.frmCmd t v := by
  change s.frmCmd t (BitVec.ofNat 64 v.toNat) = _
  rw [BitVec.ofNat_toNat, BitVec.setWidth_eq]
theorem devWrite_logCi (s : State) (t : Thr) (v : W32) : s.devWrite t 0x3008 8 v.toNat = s.writeLogCi t.grove v := by
  change s.writeLogCi t.grove (BitVec.ofNat 32 v.toNat) = _
  rw [BitVec.ofNat_toNat, BitVec.setWidth_eq]
theorem devWrite_candCi (s : State) (t : Thr) (v : W32) : s.devWrite t 0x3018 8 v.toNat = s.writeCandCi t.grove v := by
  change s.writeCandCi t.grove (BitVec.ofNat 32 v.toNat) = _
  rw [BitVec.ofNat_toNat, BitVec.setWidth_eq]
/-- An index of the learn log that leaves no more than the ring is taken, and in the policy grove the records before it go. -/
theorem writeLogCi_taken {s : State} {g : Nat} {v : W32} (h : ((s.svc g).logPi - v).toNat ≤ 8192) :
    ((s.writeLogCi g v).svc g).logCi = v ∧ (s.cfg.policy.grove = g → (v - (s.svc g).logCi).toNat ≤ 8192 →
      (s.writeLogCi g v).tb.log = s.tb.log.drop (v - (s.svc g).logCi).toNat) := by
  unfold State.writeLogCi
  dsimp only
  rw [if_pos h]
  constructor
  · have hset : ((s.setSvc g { s.svc g with logCi := v }).svc g).logCi = v := by rw [State.svc_setSvc]
    split
    · exact hset
    · exact hset
  · intro hg hn
    rw [if_pos ⟨hg.symm, hn⟩]
    rfl
theorem writeCandCi_taken {s : State} {g : Nat} {v : W32} (h : ((s.svc g).candPi - v).toNat ≤ 512)
    (hn : (v - (s.svc g).candCi).toNat ≤ 512) : s.writeCandCi g v = s.setSvc g { s.svc g with
      candCi := v, candRing := (s.svc g).candRing.drop (v - (s.svc g).candCi).toNat } := by
  unfold State.writeCandCi
  dsimp only
  rw [if_pos h, if_pos hn]

/-- The oldest record of the learn log has joined the store of the built-in image, which keeps `n`. -/
def State.learnMoved (s : State) (r : LearnRec) (l : List LearnRec) (n : Nat) : State :=
  let u := s.setSvc s.cfg.policy.grove { s.svc s.cfg.policy.grove with logCi := (s.svc s.cfg.policy.grove).logCi + 1 }
  { u with
    tb := { s.tb with log := l }
    sv := { u.sv with store := (s.sv.store ++ [r]).drop ((s.sv.store ++ [r]).length - n) } }
theorem learnMoved_spec (s : State) (r : LearnRec) (l : List LearnRec) (n : Nat) : (s.learnMoved r l n).tb.log = l ∧
    (s.learnMoved r l n).sv.store = (s.sv.store ++ [r]).drop ((s.sv.store ++ [r]).length - n) ∧
    ((s.learnMoved r l n).svc s.cfg.policy.grove).logCi = (s.svc s.cfg.policy.grove).logCi + 1 :=
  ⟨rfl, rfl, congrArg SvcGrove.logCi (State.svc_setSvc s s.cfg.policy.grove _)⟩
theorem learnLogMove_moves {s : State} {r : LearnRec} {l : List LearnRec} (h : s.running = true) (hl : s.tb.log = r :: l)
    (hb : s.builtinRuns s.cfg.policy.grove = true) : exec .learnLogMove s = .next (s.learnMoved r l 8192) := by
  change execLearnLogMove s = _
  rw [execLearnLogMove, whenRunning_of h]
  dsimp only
  rw [hl]
  dsimp only
  rw [if_pos hb, State.learnMoved]

/-- Settles O43, clause by clause. -/
theorem serviceFramesAndRings : Obligations.ServiceFramesAndRings := by
  unfold Obligations.ServiceFramesAndRings
  refine ⟨?frm, svcStore_eq, fun s t v => (devWrite_frmCmd s t v).trans (frmCmd_eq s t v), ?held, ?none, ?take, ?alloc, ?send,
    fun s t => rfl, ?rings, fun s t v => ⟨devWrite_logCi s t v, devWrite_candCi s t v⟩, fun s g v h => if_neg (Nat.not_le.mpr h),
    fun s g v h hn => writeCandCi_taken h hn, fun s g v h => if_neg (Nat.not_le.mpr h), fun s g v h => writeLogCi_taken h, ?slow,
    ?decide, ?candidate, ?unmoved, ?moved⟩
  case frm =>
    intro s t v h
    exact ⟨whenRunning_of h (frmRow 1 t v), whenRunning_of h (frmRow 2 t v), whenRunning_of h (frmRow 3 t v),
      whenRunning_of h (frmRow 4 t v)⟩
  case held =>
    intro s t q h hf
    rw [State.frmTake]
    dsimp only
    rw [hf]
  case none =>
    intro s t q hf hq
    rw [State.frmTake]
    dsimp only
    rw [hf]
    dsimp only
    by_cases h : q = 255
    · rw [if_pos h]
    · rw [if_neg h, hq.resolve_left h]
  case take =>
    intro s t q tag f l hf hq hs ht
    dsimp only
    rw [State.frmTake]
    dsimp only
    rw [hf]
    rw [if_neg hq, hs]
    dsimp only
    rw [ht]
  case alloc =>
    intro s t n
    rw [State.frmAlloc]
    dsimp only
    cases (s.thread t).frame with
    | some h => rfl
    | none =>
      dsimp only
      refine ite_iff_congr Iff.rfl rfl ?_
      by_cases hm : s.maySource t.grove = true
      · rw [if_pos hm]
        cases (s.newTag t.grove).2.allocCells t.grove (s.newTag t.grove).1 (cellsOf n) <;> rfl
      · rw [if_neg hm]
  case send => exact fun _ _ _ => rfl
  case rings =>
    intro s g v h
    exact ⟨whenRunning_of h fun s => svcStore s (s.ringWriter g) 0x3008 8 v.toNat,
      whenRunning_of h fun s => svcStore s (s.ringWriter g) 0x3018 8 v.toNat⟩
  case slow =>
    intro s g h
    change execSlowpathFrame g s = _
    rw [execSlowpathFrame, whenRunning_of h, State.slowTake]
    cases s.sinkQueue g .exception with
    | nil => rfl
    | cons tag l =>
      dsimp only
      cases s.frame tag <;> rfl
  case decide =>
    intro s g f
    rw [State.slowDecide]
    dsimp only
    split
    next e he => rw [he]
    next he => rw [he]
  case candidate =>
    intro s g h
    change execPolicyCandidate g s = _
    rw [execPolicyCandidate, whenRunning_of h]
    dsimp only
    cases (s.svc g).candRing with
    | nil => rfl
    | cons r l =>
      dsimp only
      rw [ite_eq_true_swap]
      refine congrArg Host.Outcome.next (ite_iff_congr Iff.rfl rfl (ite_iff_congr ?_ rfl rfl))
      rw [Bool.and_eq_true, decide_eq_true_eq]
      rfl
  case unmoved =>
    intro s h hn
    change execLearnLogMove s = _
    rw [execLearnLogMove]
    refine whenRunning_fixed ?_
    dsimp only
    cases hl : s.tb.log with
    | nil => rfl
    | cons r l => exact if_neg (ne_true_of_eq_false (hn.resolve_left (by simp [hl])))
  case moved => exact fun s r l h hl hb => ⟨_, learnLogMove_moves h hl hb, learnMoved_spec s r l 8192⟩

/-! ## The SERVICE commands -/

/-- A body that starts a long operation, of which there may be 64. -/
theorem State.ended_start {s : State} {r : Request} {n : Nat} {d : OpData} :
    s.ended r (startOp s.taken r n d) = if 64 ≤ s.sl.ops.length then s.taken.reply r St.busy else s.taken.replyStarted r n d := by
  by_cases h : 64 ≤ s.sl.ops.length
  · rw [if_pos h, startOp, if_pos (show 64 ≤ s.taken.sl.ops.length from h)]
    rfl
  · rw [if_neg h, startOp_eq (show s.taken.sl.ops.length < 64 from Nat.not_le.mp h), State.ended]
    dsimp only
    rw [show (s.taken.started r n d).cfg = s.cfg from rfl, tooLarge_self]
    rfl
/-- The gate of the grove commands. -/
theorem State.ended_svcGate {s : State} {r : Request} {gs : List Nat} {k : Except Nat Done} {x : State} {A : Prop} [Decidable A]
    (hA : gs.all (· < s.groves) = false ↔ A) (hk : s.ended r k = x) : s.ended r (svcGate s.taken r gs k) =
    if A then s.taken.reply r St.notPresent else if s.groveGate r.actor gs = false then s.taken.reply r St.notOwner else x :=
  State.ended_chk hA (State.ended_chk Iff.rfl hk)
/-- The gate of the NVMe commands, for a function that has a controller. -/
theorem State.ended_nvGate {s : State} {r : Request} {f : Nat} {k : Except Nat Done} {x : State} (hport : fnPort f < 16)
    (hfn : match vfOf f with | some v => 512 ≤ v | none => fnLocal f = 1) (hk : s.ended r k = x) :
    s.ended r (nvGate s.taken r f k) = if s.groves ≤ fnPort f then s.taken.reply r St.notPresent
      else if r.actor ≠ operator ∧ r.actor ≠ pf2 (fnPort f) then s.taken.reply r St.notOwner else x := by
  refine State.ended_pass ?_ (State.ended_chk (decide_eq_false_iff_not.trans Nat.not_lt) (State.ended_chk (by simp) hk))
  rw [decide_eq_true hport, Bool.true_and]
  cases hv : vfOf f with
  | some v => exact decide_eq_true (by simpa [hv] using hfn)
  | none => exact beq_iff_eq.mpr (by simpa [hv] using hfn)
theorem bit_zero_of_le {k : Nat} (h : k ≤ 1) : bit k 0 = decide (k = 1) := by
  have hk : k = 0 ∨ k = 1 := by omega
  obtain rfl | rfl := hk <;> rfl

/-- Settles O44, command by command. -/
theorem serviceCommands : Obligations.ServiceCommands := by
  unfold Obligations.ServiceCommands
  refine ⟨?stage, ?load, ?step, ?last, ?get, ?nvme, ?namespaces, ?slowpath, ?policy, fun s => if_pos rfl, ?learn⟩
  case stage =>
    intro s r k o n h hlen hk hk1 hz ho hn hz2 h1 h4 hb
    subst hk ho hn
    change slaotRow _ _ s = _
    rw [slaotRow_ended h]
    unfold svcStageBody
    dsimp only
    have hform : (decide (12 ≤ r.payload.length) && r.payload.length == 12 + fld r.payload 8 2 && decide (fld r.payload 0 1 ≤ 1) &&
        zeroAt r.payload 1 3 && zeroAt r.payload 10 2 && decide (1 ≤ fld r.payload 8 2) && decide (fld r.payload 8 2 ≤ 4000) &&
        decide (fld r.payload 4 4 + fld r.payload 8 2 ≤ 8388608)) = true := by
      simp [hlen, hk1, zeroAt, hz, hz2, h1, h4, hb]
    rw [hform, chk_true, bit_zero_of_le hk1]
    refine congrArg Host.Outcome.next ?_
    rw [State.ended_done]
    · simp only [decide_eq_true_eq]
      rfl
    · rfl
  case load =>
    intro s r m n k h hlen hm hne hk hk1 hz hn hsize
    subst hm hk hn
    dsimp only
    change slaotRow _ _ s = _
    rw [slaotRow_ended h]
    unfold svcLoadBody
    dsimp only
    rw [bit_zero_of_le hk1]
    refine congrArg Host.Outcome.next (State.ended_pass ?form (State.ended_svcGate Iff.rfl (State.ended_chk ?held ?kind)))
    case form =>
      have hlen' : (decide (fld r.payload 2 1 = 1) || (decide (2304 ≤ fld r.payload 4 4) && decide (fld r.payload 4 4 ≤ 8388608))) = true := by
        by_cases hb : fld r.payload 2 1 = 1
        · rw [decide_eq_true hb, Bool.true_or]
        · obtain ⟨hmin, hmax⟩ := hsize (by omega)
          rw [decide_eq_true hmin, decide_eq_true hmax, Bool.and_true, Bool.or_true]
      rw [hlen', hne]
      simp [hlen, hk1, zeroAt, hz]
    case held => simp
    case kind =>
      exact State.ended_ite_iff decide_eq_true_iff (State.ended_chk (by simp) State.ended_start)
        (State.ended_chk Iff.rfl (State.ended_chk Iff.rfl (State.ended_chk Bool.and_eq_false_iff
          (State.ended_chk (by simp) State.ended_start))))
  case step =>
    intro s h g gs b o hs
    dsimp only
    change execServiceLoadStep h s = _
    rw [execServiceLoadStep, whenRunning_of hs.1, opRow_on hs]
    have hd : o.step.data = .svcLoad (g :: gs) b := hs.2.2.2
    rw [hd]
    dsimp only
    cases gs <;> rfl
  case last =>
    intro s h b o hs
    change execServiceLoadStep h s = _
    rw [execServiceLoadStep, whenRunning_of hs.1, opRow_on hs]
    have hd : o.step.data = .svcLoad [] b := hs.2.2.2
    rw [hd]
    rfl
  case get =>
    intro s r g hlen hg hlt
    subst hg
    dsimp only
    have hread {op : Nat} (h : s.asks r op) (k : State → Nat → List Byte) : slaotRow op (svcRead1 k) s = .next (
        if s.groves ≤ fld r.payload 0 1 then s.taken.reply r St.notPresent
        else if s.groveGate r.actor [fld r.payload 0 1] = false then s.taken.reply r St.notOwner
        else s.taken.reply r 0 (k s.taken (fld r.payload 0 1))) := by
      rw [slaotRow_ended h]
      exact congrArg Host.Outcome.next (State.ended_pass (by simp [hlen, hlt]) (State.ended_svcGate (by simp) (State.ended_done rfl)))
    exact ⟨fun h => hread h _, fun h => hread h _⟩
  case nvme =>
    intro s r f h hlen hf h1 hz ha hb hascii hport hfn
    subst hf
    change slaotRow _ _ s = _
    rw [slaotRow_ended h]
    refine congrArg Host.Outcome.next (State.ended_pass ?form (State.ended_nvGate hport hfn
      (State.ended_chk ?live State.ended_cfg)))
    case form => simp [hlen, h1, zeroAt, hz, ha, hb, hascii]
    case live => simp
  case namespaces =>
    intro s r f n h h20 h276 hf hn h1 h32 hk hl hz hport hfn
    subst hf hn
    dsimp only
    change slaotRow _ _ s = _
    rw [slaotRow_ended h]
    refine congrArg Host.Outcome.next (State.ended_pass ?form (State.ended_chk ?cipher (State.ended_nvGate hport hfn
      (State.ended_chk ?found (State.ended_chk ?owner (State.ended_chk ?alg (State.ended_chk ?live State.ended_cfg)))))))
    case form => simp [h20, h276, h1, h32, hk, hl, zeroAt, hz]
    case cipher => simp
    case found => simp
    case owner => simp
    case alg => simp
    case live => simp
  case slowpath =>
    intro s r i h hlen hne hi hlt h3
    subst hi
    dsimp only
    change slaotRow _ _ s = _
    rw [slaotRow_ended h]
    refine congrArg Host.Outcome.next (State.ended_pass ?form (State.ended_chk Iff.rfl ?rest))
    case form => simp [hlen, hne, hlt, h3]
    case rest => exact State.ended_chk_chk Iff.rfl Iff.rfl (State.ended_chk (by simp) State.ended_cfg)
  case policy =>
    intro s r g h hlen hg hlt hz
    subst hg
    change slaotRow _ _ s = _
    rw [slaotRow_ended h]
    exact congrArg Host.Outcome.next (State.ended_pass (by simp [hlen, hlt, zeroAt, hz])
      (State.ended_chk (decide_eq_false_iff_not.trans Nat.not_lt) (State.ended_chk beq_eq_false_iff_ne State.ended_cfg)))
  case learn =>
    intro s r h hlen
    change slaotRow _ _ s = _
    rw [slaotRow_ended h]
    exact congrArg Host.Outcome.next (State.ended_pass (by simp [hlen]) (State.ended_done rfl))

end Sys2Proof.Machine
end

section
/-! PROOF. The emulated NVMe controllers (15 R459 to R462): their registers and queues, the admin and the I/O commands. -/
namespace Sys2Proof.Machine

/-! ## Registers, doorbells and completions (R459 to R461) -/

theorem writeCc_eq (s : State) (f : Nat) (v : W32) : s.writeCc f v = s.setNv f (
    let c := s.ctl f
    let w := v &&& ccMask
    let d := { c with cc := w, shst := if bits w.toNat 15 14 = 0 then c.shst else 2 }
    if s.builtinRuns (fnPort f) = false then d
    else if c.cc.getLsbD 0 = false ∧ w.getLsbD 0 = true then
      if (s.nvCfg f).enable = true ∧ bits w.toNat 6 4 = 0 ∧ bits w.toNat 10 7 ≤ 4 then { d with shst := 0 }.start else d
    else if c.cc.getLsbD 0 = true ∧ w.getLsbD 0 = false then { d.stopped with intMask := 0 }
    else d) := by
  unfold State.writeCc
  dsimp only
  generalize v &&& ccMask = w
  simp only [apply_ite (s.setNv f)]
  refine ite_iff_congr (by simp) rfl (ite_iff_congr (by simp) (ite_iff_congr (by simp [and_assoc]) rfl rfl) (ite_iff_congr (by simp) rfl rfl))
theorem csts_cfs (s : State) (f : Nat) : bits (s.csts f) 1 1 = b2n (!s.builtinRuns (fnPort f)) := by
  have hrdy : b2n (s.ctl f).rdy ≤ 1 := by cases (s.ctl f).rdy <;> decide
  have hruns : b2n (!s.builtinRuns (fnPort f)) ≤ 1 := by cases s.builtinRuns (fnPort f) <;> decide
  simp only [State.csts, bits]
  omega
theorem nvHost_eq {s : State} {f pg off : Nat} (hn : s.hasNvme f = true) (h : s.reaches f (0x400 + fnPort f) 2 (0x1000 * pg + off) 4)
    (k : State → State) : nvHost s f pg off k = k (s.traffic f) := by
  rw [nvHost, if_pos hn, hostRequest_eq k h]

/-- Settles O45, clause by clause. -/
theorem nvmeRegistersAndQueues : Obligations.NvmeRegistersAndQueues := by
  unfold Obligations.NvmeRegistersAndQueues
  refine ⟨?cc, ?ccWrite, fun c => ⟨rfl, rfl, rfl, rfl, rfl, rfl, rfl, rfl⟩, fun s f h => by rw [csts_cfs, h]; rfl,
    fun s f h => by rw [csts_cfs, h]; rfl, ?doorbells, ?tail, ?head, ?post, ?entry, ?full⟩
  case cc =>
    intro s f v h hn hr
    change execNvmeCcWrite f v s = _
    rw [execNvmeCcWrite, whenServing_of h, nvHost_eq hn hr]
  case ccWrite =>
    intro s f v w hw
    subst hw
    exact writeCc_eq s f v
  case doorbells =>
    intro s f y v h hn hy
    refine ⟨fun hr => ?_, fun hr => ?_⟩
    · change execNvmeSqTailDoorbell f y v s = _
      rw [execNvmeSqTailDoorbell, whenServing_of h, if_pos hy, nvHost_eq (off := 0) hn hr]
    · change execNvmeCqHeadDoorbell f y v s = _
      rw [execNvmeCqHeadDoorbell, whenServing_of h, if_pos hy, nvHost_eq (off := 0) hn hr]
  case tail =>
    intro s f y v
    rw [State.nvSqTail]
    dsimp only
    cases SMap.get (s.ctl f).sqs y <;> rfl
  case head =>
    intro s f y v
    rw [State.nvCqHead]
    dsimp only
    cases SMap.get (s.ctl f).cqs y with
    | none => rfl
    | some q => exact ite_iff_congr (by simp) rfl rfl
  case post =>
    intro o s u f sq cid d st b a h
    rw [State.nvPost, h]
    cases a <;> rfl
  case entry =>
    intro o s u f sq cid d st q k a hq hk hroom h
    dsimp only
    rw [State.nvEntry]
    dsimp only
    rw [hq]
    dsimp only
    rw [hk]
    dsimp only
    rw [if_neg (by simp [hroom]), h]
    cases a with
    | ok => exact ite_iff_congr (by simp) rfl rfl
    | denied => rfl
    | waits => rfl
    | refused => rfl
  case full =>
    intro o s f sq cid d st q k hq hk hroom
    rw [State.nvEntry]
    dsimp only
    rw [hq]
    dsimp only
    rw [hk]
    exact if_pos (by simp [hroom])

/-! ## A command that is held at the head of its queue -/

theorem nvFetch_of {s t : State} {f sq : Nat} {e : Sqe} {q : NvSq} {b : List Byte} (h : s.nvHolds t f sq e q b)
    (rd : List (Nat × Nat)) (k : State → List Byte → Option (List Byte) → State) : s.nvFetch f sq e rd k =
    match t.svcHostReads f rd (e.host.drop (splitAccess (q.base + 64 * q.head) 64 (s.fn f).mrrs).length) [] with
    | ((u, .ok), d) => k (u.nvTaken f sq q) b (some d)
    | ((u, .waits), _) => u
    | ((u, _), _) => k (u.nvTaken f sq q) b none := by
  obtain ⟨-, hready, hget, hhead, hread, hholds⟩ := h
  rw [State.nvFetch, hget]
  dsimp only
  rw [if_pos (by simp [hready, hhead]), hread]
  dsimp only
  rw [if_pos hholds]
  rfl
theorem nvRun_of {s t : State} {f sq : Nat} {e : Sqe} {q : NvSq} {b : List Byte} (h : s.nvHolds t f sq e q b)
    (k : State → NvAns) : s.nvRun f sq e k = State.nvAnswer s (t.nvTaken f sq q) f sq e (k (t.nvTaken f sq q)) := by
  rw [State.nvRun, nvFetch_of h]
  rfl
/-- The row of an admin command that is held. -/
theorem nvAdmin_of {s t : State} {op f : Nat} {e : Sqe} {q : NvSq} {b : List Byte} (h : s.nvHolds t f 0 e q b) (ho : e.opc = op)
    {k : State → NvAns} {a : NvAns} (hk : k (t.nvTaken f 0 q) = a) :
    whenRunning s (nvAdmin op f e k) = .next (State.nvAnswer s (t.nvTaken f 0 q) f 0 e a) := by
  rw [whenRunning_of h.1, nvAdmin, if_pos ho, nvRun_of h, hk]
theorem nvAnswer_error (s t : State) (f sq st : Nat) (e : Sqe) (q : NvSq) :
    State.nvAnswer s (t.nvTaken f sq q) f sq e (.error st) = State.nvFail s t f sq q e.cid st := rfl

/-! ## Bytes replaced at an offset -/

theorem patch_length {b v : List Byte} {o : Nat} (h : o + v.length ≤ b.length) : (patch b o v).length = b.length := by
  simp only [patch, List.length_append, List.length_take, List.length_drop]
  omega
theorem fld_patch_before {b v : List Byte} {o i n : Nat} (hi : i + n ≤ o) (ho : o ≤ b.length) : fld (patch b o v) i n = fld b i n := by
  have hslice : slice (patch b o v) i n = slice b i n := by
    rw [slice, slice, patch, List.append_assoc, List.drop_append_of_le_length (by rw [List.length_take]; omega),
      List.take_append_of_le_length (by rw [List.length_drop, List.length_take]; omega), List.drop_take, List.take_take,
      Nat.min_eq_left (by omega)]
  rw [fld, fld, hslice]
theorem fld_patch_at {b v : List Byte} {o n : Nat} (ho : o ≤ b.length) (hn : n ≤ v.length) : fld (patch b o v) o n = fld v 0 n := by
  have hslice : slice (patch b o v) o n = slice v 0 n := by
    have hlen : (b.take o).length = o := by rw [List.length_take, Nat.min_eq_left ho]
    rw [slice, slice, patch, List.append_assoc, List.drop_append, hlen, Nat.sub_self, List.drop_eq_nil_of_le (Nat.le_of_eq hlen),
      List.nil_append, List.drop_zero, List.take_append_of_le_length hn, List.drop_zero]
  rw [fld, fld, hslice]

/-! ## The admin commands (R460) -/

theorem identifyData_namespace {s : State} {f n : Nat} {x : NvmeNs} (h : s.ns f n = some x) : ∃ b u,
    s.identifyData f 0 n = .ok (b, u) ∧ b.length = 4096 ∧ fld b 0 8 = x.sizeLbas % 2 ^ 64 ∧
    fld b 128 4 = 65536 * x.lbaLog2 % 2 ^ 32 := by
  have hn : ¬(n = 0 ∨ 32 < n) := by
    intro hn
    rw [State.ns, if_neg (by omega)] at h
    cases h
  have hlen : (s.freeBytes 4096).1.length = 4096 := by simp [State.freeBytes]
  generalize hb : (s.freeBytes 4096).1 = b at hlen
  have h0 : (patch b 0 (leBytes 8 x.sizeLbas ++ leBytes 8 x.sizeLbas)).length = 4096 := by
    rw [patch_length (by simp [hlen]), hlen]
  have h25 : (patch (patch b 0 (leBytes 8 x.sizeLbas ++ leBytes 8 x.sizeLbas)) 25 [0, 0, 0, 0, 0]).length = 4096 := by
    rw [patch_length (by simp [h0]), h0]
  refine ⟨patch (patch (patch b 0 (leBytes 8 x.sizeLbas ++ leBytes 8 x.sizeLbas)) 25 [0, 0, 0, 0, 0]) 128
    (leBytes 4 (65536 * x.lbaLog2)), (s.freeBytes 4096).2, ?_, ?_, ?_, ?_⟩
  · rw [State.identifyData]
    dsimp only
    rw [if_neg hn, h, ← hb]
  · rw [patch_length (by rw [h25, leBytes_length]; decide), h25]
  · rw [fld_patch_before (by omega) (by omega), fld_patch_before (by omega) (by omega), fld_patch_at (by omega) (by simp)]
    have hfirst := slice_first (leBytes 8 x.sizeLbas) (leBytes 8 x.sizeLbas)
    rw [leBytes_length] at hfirst
    rw [fld, hfirst, leNat_leBytes] <;> rfl
  · rw [fld_patch_at (by omega) (by simp), fld_leBytes (by omega), Nat.pow_zero, Nat.div_one] <;> rfl
theorem identifyData_unknown (s : State) (f n : Nat) {k : Nat} (h : 3 < k) : s.identifyData f k n = .error nvInvalidField := by
  obtain ⟨m, rfl⟩ := Nat.exists_eq_add_of_le' h
  rfl

/-- Settles O46, command by command. -/
theorem nvmeAdminCommands : Obligations.NvmeAdminCommands := by
  unfold Obligations.NvmeAdminCommands
  refine ⟨fun _ _ _ _ _ _ _ => rfl, nvAnswer_error, ?create, ?delete, ?log, ?identify,
    fun s f k n h => identifyData_unknown s f n h, fun s f n l hl => hl ▸ rfl, fun s f n x h => identifyData_namespace h, ?abort,
    ?features, ?event, ?invalid, ?idle⟩
  case create =>
    intro s t f i n k e q b h hi hn hk
    subst hi hn hk
    refine ⟨fun ho => ?_, fun ho => ?_⟩
    · refine nvAdmin_of h ho ?_
      dsimp only
      refine ite_iff_congr Iff.rfl rfl (ite_iff_congr Iff.rfl rfl (ite_iff_congr (by simp) rfl (ite_iff_congr Iff.rfl rfl
        (ite_iff_congr Iff.rfl rfl (ite_iff_congr Option.isNone_iff_eq_none rfl rfl)))))
    · refine nvAdmin_of h ho ?_
      dsimp only
      refine ite_iff_congr Iff.rfl rfl (ite_iff_congr Iff.rfl rfl (ite_iff_congr (by simp) rfl (ite_iff_congr Iff.rfl rfl
        (ite_iff_congr Iff.rfl rfl rfl))))
  case delete =>
    intro s t f i e q b h hi
    subst hi
    dsimp only
    refine ⟨fun ho => ?_, fun ho => ?_⟩
    · change execNvDeleteIoSq f e s = _
      rw [execNvDeleteIoSq, apply_ite Host.Outcome.next]
      exact ite_iff_congr Iff.rfl rfl (nvAdmin_of h ho (ite_iff_congr (or_congr Iff.rfl Option.isNone_iff_eq_none) rfl rfl))
    · exact nvAdmin_of h ho (ite_iff_congr (or_congr Iff.rfl Option.isNone_iff_eq_none) rfl rfl)
  case log =>
    intro s t f l e q b h ho hl
    subst hl
    refine nvAdmin_of h ho ?_
    refine ite_iff_congr Iff.rfl rfl ?_
    by_cases hl : bits e.cdw10.toNat 7 0 = 4
    · simp only [if_pos hl]
    · simp only [if_neg hl]
      rfl
  case identify =>
    intro s t f e q b h ho
    refine nvAdmin_of h ho ?_
    cases State.identifyData .. <;> rfl
  case abort =>
    intro s t f i k e q b h ho hi hk
    subst hi hk
    dsimp only
    change execNvAbort f e s = _
    rw [execNvAbort, apply_ite Host.Outcome.next]
    refine ite_iff_congr Iff.rfl rfl (nvAdmin_of h ho ?_)
    dsimp only
    cases ((t.nvTaken f 0 q).ctl f).io.find? fun x => x.sq == lo16 e.cdw10 && x.cid == hi16 e.cdw10 with
    | some x => rfl
    | none => exact (apply_ite Except.ok ..).symm
  case features =>
    intro s t f k e q b h hk
    subst hk
    refine ⟨fun ho => ?_, fun ho => ?_⟩
    · refine nvAdmin_of h ho ?_
      dsimp only
      refine ite_iff_congr Option.isNone_iff_eq_none rfl (ite_iff_congr Iff.rfl rfl ?_)
      exact (ite_not ..).symm
    · exact nvAdmin_of h ho rfl
  case event =>
    intro s t f e q b h ho
    change execNvAsyncEventRequest f e s = _
    rw [execNvAsyncEventRequest, whenRunning_of h.1]
    dsimp only
    rw [if_neg (not_not_intro ho), nvRun_of h]
    refine congrArg Host.Outcome.next (ite_iff_congr Iff.rfl rfl ?_)
    cases (s.ctl f).events.filter fun d => !(s.ctl f).masked.contains (d % 8) with
    | cons d l => exact nvRun_of h _
    | nil =>
      dsimp only
      rw [nvFetch_of h]
      rfl
  case invalid =>
    intro s t f sq e q b h
    change execNvInvalidOpcode f sq e s = _
    rw [execNvInvalidOpcode, whenRunning_of h.1]
    dsimp only
    rw [nvRun_of h, nvAnswer_error]
  case idle =>
    intro s f sq e k
    refine ⟨fun h => ?_, fun q hq => ⟨fun hempty => ?_, fun t a b hr hne hread ha => ?_⟩⟩
    · rw [State.nvRun, State.nvFetch]
      obtain h | h := h
      · cases SMap.get (s.ctl f).sqs sq with
        | none => rfl
        | some q => exact if_neg (by simp [h])
      · rw [h]
    · rw [State.nvRun, State.nvFetch, hq]
      exact if_neg (by simp [hempty])
    · rw [State.nvRun, State.nvFetch, hq]
      dsimp only
      rw [if_pos (by simp [hr, hne]), hread]
      cases a with
      | ok => exact absurd rfl ha
      | _ => rfl

/-! ## The I/O commands (R460, R462) -/

theorem ctl_upToClk (s : State) (t f : Nat) : (s.upToClk t).ctl f = s.ctl f := by
  have hnvc : (s.upToClk t).nvc = s.nvc := (State.upToClk_keeps (m := 1) rfl s t (Keeps.rfl' _ s)).same (p := .nvc) rfl
  rw [State.ctl, State.ctl, hnvc]
/-- A command that its queue holds and that does not already wait for its target. -/
theorem nvIo_new {s : State} {f i : Nat} {e : Sqe} (hi : i ≠ 0) (hnew : ((s.ctl f).io.find? fun k => k.sq == i && k.cid == e.cid) = none)
    (l n : Nat) (m : Bool) (rd : List (Nat × Nat)) (a : Option (List Byte)) : nvIo e.opc f i e l n m rd a s =
    match s.nsCheck f e l n m with
    | .error st => s.nvRun f i e fun _ => .error st
    | .ok x =>
      if !s.maySource (fnPort f) then s
      else
        s.nvFetch f i e rd fun t entry data =>
          match data with
          | none => State.nvPost s t f i e.cid 0 nvTransferError []
          | some d =>
            let t := t.nvSend (fnPort f) x entry d
            match a, t.nvReply (fnPort f) x e with
            | some b, some u => State.nvPost s u f i e.cid 0 0 (spread e.dptr b)
            | _, _ => t.setNv f { t.ctl f with io := (t.ctl f).io ++ [⟨i, e.cid, t.clk⟩] } := by
  rw [nvIo]
  dsimp only
  rw [if_neg (by simp [hi]), hnew] <;> rfl
section
variable {s : State} {f l n : Nat} {e : Sqe} {d : Bool}
theorem nsCheck_none (h : e.nsid = 0 ∨ 32 < e.nsid) : s.nsCheck f e l n d = .error 0x0B := if_pos h
/-- The checks on a namespace that exists, and whose cipher key does. -/
theorem nsCheck_of {x : NvmeNs} (h0 : e.nsid ≠ 0) (h32 : e.nsid ≤ 32) (hx : s.ns f e.nsid = some x)
    (hk : x.keyHandle = 0 ∨ (s.cipherKey x.keyHandle).isSome = true) : s.nsCheck f e l n d =
    if (d && 1048576 < n * 2 ^ x.lbaLog2) = true then .error nvInvalidField
    else if x.sizeLbas < l + n then .error 0x80 else .ok x := by
  rw [State.nsCheck, if_neg (by omega), hx]
  refine if_neg ?_
  rintro ⟨hne, hnone⟩
  obtain hk | hk := hk
  · exact hne hk
  · rw [Option.isNone_iff_eq_none] at hnone
    rw [hnone] at hk
    cases hk
end

/-- Settles O47, clause by clause. -/
theorem nvmeIoCommands : Obligations.NvmeIoCommands := by
  unfold Obligations.NvmeIoCommands
  refine ⟨?rows, ?other, ?waits, ?fails, ?sent, fun _ _ _ _ => rfl, fun s f l n e d h => nsCheck_none h, ?checks, ?timeout⟩
  case rows =>
    intro s f i e a b d h
    exact ⟨whenRunning_of h _, whenRunning_of h _, whenRunning_of h _, whenRunning_of h _, whenRunning_of h _⟩
  case other => exact fun s op f i l n e m rd a h => if_pos h
  case waits =>
    intro s f i l n e m rd a x hi hx
    rw [nvIo]
    dsimp only
    rw [if_neg (by simp [hi]), hx]
    refine ite_iff_congr (by simp) rfl (ite_iff_congr Iff.rfl rfl ?_)
    cases a <;> rfl
  case fails =>
    intro s t f i l n st e q m rd a b h hi hnew hst
    rw [nvIo_new hi hnew, hst]
    dsimp only
    rw [nvRun_of h, nvAnswer_error]
  case sent =>
    intro s t u f i l n e q m rd a b d x k h hi hnew hx hread
    dsimp only
    rw [nvIo_new hi hnew, hx]
    dsimp only
    rw [nvFetch_of h, hread]
    refine ite_iff_congr (by simp) rfl ?_
    cases k <;> rfl
  case checks =>
    intro s f l n e x h0 h32 hx hk
    refine ⟨fun h => ?_, fun h hend => ?_, fun h hend => ?_⟩
    · rw [nsCheck_of h0 h32 hx hk, if_pos (by simpa using h)]
    · rw [nsCheck_of h0 h32 hx hk, if_neg (by simpa using h), if_pos hend]
    · rw [nsCheck_of h0 h32 hx hk, if_neg (by simpa using h), if_neg (Nat.not_lt.mpr hend)]
  case timeout =>
    intro s f i c h
    change execNvmeIoTimeout f i c s = _
    rw [execNvmeIoTimeout, whenRunning_of h]
    dsimp only
    cases ((s.ctl f).io.find? fun k => k.sq == i && k.cid == c) with
    | none => rfl
    | some x =>
      dsimp only
      rw [ite_eq_true_swap, State.nvEnd, ctl_upToClk]

end Sys2Proof.Machine
end

section
/-! PROOF. Remote keys, their check, and the REMOTE commands. -/
namespace Sys2Proof.Machine

/-- A valid key that is written over joins the keys that are being revoked. -/
theorem append_singleton_ite {α : Type} (l : List α) (b : Bool) (x : α) :
    (if b = true then l ++ [x] else l) = l ++ (if b = true then [x] else []) := by
  cases b
  · exact (List.append_nil l).symm
  · rfl
/-- A command on one connection, once its form is right. -/
theorem connCmd_of {s : State} {r : Request} {c : Nat} {k : State → Nat → Except Nat Done} {x : State} (hlen : r.payload.length = 4)
    (hc : fld r.payload 0 4 = c) (hlt : c < 2 ^ 20) (hk : s.ended r (k s.taken c) = x) :
    s.ended r (connCmd k s.taken r) = if s.groves ≤ c / 65536 then s.taken.reply r St.notPresent
      else if s.ownsConn r.actor c = false then s.taken.reply r St.notOwner else x := by
  subst hc
  rw [connCmd]
  refine State.ended_pass ?_ (State.ended_chk (decide_eq_false_iff_not.trans Nat.not_lt) (State.ended_chk Iff.rfl hk))
  rw [hlen, decide_eq_true hlt]
  rfl
/-- A command on one key, once its form is right. -/
theorem keyCmd_of {s : State} {r : Request} {i : Nat} {k : State → Nat → Except Nat Done} {x : State} (hlen : r.payload.length = 4)
    (hi : fld r.payload 0 4 = i) (hlt : i < 2 ^ 20) (hk : s.ended r (k s.taken i) = x) :
    s.ended r (keyCmd k s.taken r) = if s.owns r.actor 5 i = false then s.taken.reply r St.notOwner else x := by
  subst hi
  rw [keyCmd]
  refine State.ended_pass ?_ (State.ended_chk Iff.rfl hk)
  rw [hlen, decide_eq_true hlt]
  rfl
theorem cfg_endJobs (s : State) (q st d : Nat) (data : W64) (l : List W32) :
    (l.foldl (fun v j => v.endJob q j st d data) s).cfg = s.cfg := by
  induction l generalizing s with
  | nil => rfl
  | cons j l ih => rw [List.foldl_cons, ih]; exact (State.endJob_keeps (m := 0x200000) rfl s q j st d data (Keeps.rfl' _ s)).same (p := .cfg) rfl
theorem clk_raCtr (s : State) (g i n : Nat) : (s.raCtr g i n).clk = s.clk := rfl
theorem keyOk_false {s : State} {p : List Byte} {a : Nat}
    (h : fld p 24 8 ≤ fld p 16 8 ∨ (fld p 4 1 = 1 ∧ a ≠ operator) ∨ 1 < fld p 4 1) : s.keyOk p a = false := by
  rw [State.keyOk]
  dsimp only [readKey]
  obtain h | ⟨ht, ha⟩ | h := h
  · simp [Nat.not_lt.mpr h]
  · simp [ht, ha]
  · obtain ⟨n, hn⟩ := Nat.exists_eq_add_of_lt h
    simp [hn, Nat.add_assoc, show 1 + (n + 1) = n + 2 by omega]

/-- Settles O48, clause by clause. -/
theorem remoteCommands : Obligations.RemoteCommands := by
  unfold Obligations.RemoteCommands
  refine ⟨?keySet, fun s p a h => keyOk_false h, ?oneKey, ?drained, ?check, ?violation, ?connSet, ?opened, ?oneConn, ?engine, ?stats⟩
  case keySet =>
    intro s r k h hk
    subst hk
    dsimp only
    change slaotRow _ _ s = _
    rw [slaotRow_ended h, ← append_singleton_ite]
    refine congrArg Host.Outcome.next (State.ended_chk ?form (State.ended_chk ?present (State.ended_chk Iff.rfl
      (State.ended_chk ?works (State.ended_done rfl)))))
    case form => simp [-Bool.and_eq_false_imp, Bool.and_eq_false_iff]
    case present => exact (Bool.or_eq_false_iff).trans (and_congr beq_eq_false_iff_ne (decide_eq_false_iff_not.trans Nat.not_lt))
    case works => simp
  case oneKey =>
    intro s r k hlen hk hlt
    refine ⟨fun h => ?_, fun h => ?_⟩
    · change slaotRow _ _ s = _
      rw [slaotRow_ended h]
      exact congrArg Host.Outcome.next (keyCmd_of hlen hk hlt (State.ended_done rfl))
    · change slaotRow _ _ s = _
      rw [slaotRow_ended h]
      refine congrArg Host.Outcome.next (keyCmd_of hlen hk hlt (State.ended_chk ?works (State.ended_done rfl)))
      case works => simp [and_assoc]
  case drained =>
    intro s k h
    change execKeyRevokeDrained k s = _
    rw [execKeyRevokeDrained, whenRunning_of h]
    dsimp only
    cases (s.remKey k).revoking <;> rfl
  case check =>
    intro s key a n right c x e he
    subst he
    rw [State.keyCheck]
    generalize key % 2 ^ 20 = i
    generalize key / 2 ^ 20 = gen
    refine ⟨fun h => if_pos (by simpa using h), fun hv hg => ?_⟩
    rw [if_neg (by simp [hv, hg])]
    refine ⟨fun h1 h2 => if_pos ⟨h1, h2⟩, fun h => ?_⟩
    rw [if_neg (by omega)]
    refine ⟨fun h1 h2 => if_pos ⟨h1, h2⟩, fun h => ?_⟩
    rw [if_neg (by omega)]
    refine ⟨fun h => if_pos (by simp [h]), fun h => ?_⟩
    rw [if_neg (by simp [h])]
    exact ⟨fun h => if_pos h, fun h1 h2 => if_neg (by omega)⟩
  case violation =>
    intro s g key reason t ht hlt
    rw [State.keyViolation]
    dsimp only
    rw [show (s.raCtr g 12 1).ra.violation = s.ra.violation from rfl, ht, clk_raCtr, Option.any_some]
    exact if_pos (decide_eq_true hlt)
  case connSet =>
    intro s r c h hc
    subst hc
    dsimp only
    change slaotRow _ _ s = _
    rw [slaotRow_ended h]
    refine congrArg Host.Outcome.next (State.ended_chk ?form (State.ended_chk ?present (State.ended_chk ?owner
      (State.ended_chk ?kind (State.ended_chk ?busy (State.ended_chk Iff.rfl (State.ended_done rfl)))))))
    case form => simp [-Bool.and_eq_false_imp, Bool.and_eq_false_iff, or_assoc]
    case present => exact decide_eq_false_iff_not.trans Nat.not_lt
    case owner => simp [-Bool.and_eq_false_imp, Bool.and_eq_false_iff]
    case kind => exact beq_eq_false_iff_ne
    case busy => exact beq_eq_false_iff_ne
  case opened => exact fun x t => ⟨rfl, rfl, rfl, rfl, rfl, rfl, rfl, rfl, rfl⟩
  case oneConn =>
    intro s r c x hlen hc hlt hx
    subst hx
    dsimp only
    refine ⟨fun h => ?_, fun h => ?_⟩
    · change slaotRow _ _ s = _
      rw [slaotRow_ended h]
      refine congrArg Host.Outcome.next (connCmd_of hlen hc hlt ?_)
      simp only [List.flatMap_cons, List.flatMap_nil, List.append_nil, ← List.append_assoc]
      exact State.ended_done rfl
    · change slaotRow _ _ s = _
      rw [slaotRow_ended h]
      exact congrArg Host.Outcome.next (connCmd_of hlen hc hlt (State.ended_chk Iff.rfl (State.ended_done (cfg_endJobs ..))))
  case engine =>
    intro s r g h hlen hg hlt h1 h10
    subst hg
    change slaotRow _ _ s = _
    rw [slaotRow_ended h]
    exact congrArg Host.Outcome.next (State.ended_pass (by simp [hlen, hlt, h1, h10, zeroAt]) (State.ended_chk (decide_eq_false_iff_not.trans Nat.not_lt)
      (State.ended_chk (by simp) (State.ended_chk (by simp) State.ended_cfg))))
  case stats =>
    intro s r g h hlen hg hlt h1
    subst hg
    change slaotRow _ _ s = _
    rw [slaotRow_ended h]
    exact congrArg Host.Outcome.next (State.ended_pass (by simp [hlen, hlt, h1, zeroAt]) (State.ended_chk (decide_eq_false_iff_not.trans Nat.not_lt) (State.ended_done rfl)))

end Sys2Proof.Machine
end

section
/-! PROOF. The requester's side of a remote connection. -/
namespace Sys2Proof.Machine

theorem conn_congr {s t : State} (h : t.ra = s.ra) (c : Nat) : t.conn c = s.conn c := by rw [State.conn, State.conn, h]
theorem conn_upToClk (s : State) (t c : Nat) : (s.upToClk t).conn c = s.conn c :=
  conn_congr ((State.upToClk_keeps (m := 1) rfl s t (Keeps.rfl' _ s)).same (p := .ra) rfl) c
theorem conn_fire (s : State) (src ty : Nat) (d : W32) (c : Nat) : (s.fire src ty d).conn c = s.conn c :=
  conn_congr ((State.fire_keeps (m := 0x500004) rfl s src ty d (Keeps.rfl' _ s)).same (p := .ra) rfl) c
theorem conn_endJob (s : State) (q : Nat) (j : W32) (st d : Nat) (data : W64) (c : Nat) : (s.endJob q j st d data).conn c = s.conn c :=
  conn_congr ((State.endJob_keeps (m := 0x200000) rfl s q j st d data (Keeps.rfl' _ s)).same (p := .ra) rfl) c
theorem conn_raCtr (s : State) (g i n c : Nat) : (s.raCtr g i n).conn c = s.conn c := rfl
theorem clk_setConn (s : State) (c : Nat) (x : Conn) : (s.setConn c x).clk = s.clk := rfl

/-- The connection of a message that has failed: in ERROR with its reason, and nothing outstanding. -/
theorem conn_connFail {s : State} {c i : Nat} (h : (s.conn c).state = 1) :
    (s.connFail c i).conn c = { s.conn c with state := 2, reason := i, tx := [] } := by
  rw [State.connFail]
  refine (congrArg (State.conn · c) (if_pos h)).trans ?_
  dsimp only
  rw [conn_fire, foldl_fixed (f := fun (s : State) (m : TxMsg) => s.endJob _ m.slot _ _ _) (p := fun s => s.conn c)
    fun s m => conn_endJob ..]
  exact SMap.getD_set_self ..

section
variable {x : Conn} {m : TxMsg}
theorem conn_mayStart_full (h : 1024 ≤ sdiff x.nextMsg x.una) : x.mayStart m = false := by
  rw [Conn.mayStart]
  simp [Int.not_lt.mpr h]
theorem conn_mayStart_atomics (hm : m.isAtomic = true) (h : 256 ≤ sdiff x.nextAsn x.asnUna) : x.mayStart m = false := by
  have hlim : ¬ sdiff x.nextAsn x.asnUna < (if x.set.transport = 1 then 16 else 256) := by
    split <;> omega
  rw [Conn.mayStart]
  simp [hm, hlim]
end

section
variable {s : State} {c : Nat}
/-- The window right after the sign of congestion. -/
theorem cutWindow_cut (h : (s.conn c).cutAt = none) :
    ((s.cutWindow c).conn c).cwnd = max ((s.conn c).cwnd / 2) (s.conn c).set.seg := by
  rw [State.cutWindow]
  dsimp only
  rw [h, Option.any_none, if_neg Bool.false_ne_true, conn_raCtr, State.conn_setConn]
/-- A window that has been cut is not cut again before it ends. -/
theorem cutWindow_kept {t : Nat} (h : (s.conn c).cutAt = some t) (hlt : s.clk < t + us (s.conn c).set.rtoUs) :
    ((s.cutWindow c).conn c).cwnd = (s.conn c).cwnd := by
  rw [State.cutWindow]
  dsimp only
  rw [h, Option.any_some, clk_setConn, if_pos (decide_eq_true hlt), State.conn_setConn]
/-- An RNR within the limit delays the message. -/
theorem rnrTaken_waits {m : TxMsg} (d : Nat) (h : (s.conn c).set.rnrLimit = 7 ∨ m.rnr < (s.conn c).set.rnrLimit) :
    s.rnrTaken c m d = (s.raCtr (c / 65536) 8 1).setMsg c { m with rnr := m.rnr + 1, resendAt := some (s.clk + d) } := by
  rw [State.rnrTaken]
  dsimp only
  rw [conn_raCtr]
  exact if_neg (by omega)
/-- An RNR beyond it ends the message. -/
theorem rnrTaken_ends {m : TxMsg} (d : Nat) (h7 : (s.conn c).set.rnrLimit ≠ 7) (h : (s.conn c).set.rnrLimit ≤ m.rnr) :
    s.rnrTaken c m d = (s.raCtr (c / 65536) 8 1).settleFail c { m with rnr := m.rnr + 1 } 1 := by
  rw [State.rnrTaken]
  dsimp only
  rw [conn_raCtr]
  exact if_pos ⟨h7, Nat.lt_succ_of_le h⟩
theorem raTimeout_eq (s : State) (c : Nat) (m : TxMsg) : s.raTimeout c m =
    if m.r < (s.conn c).set.retryLimit then s.resend c { m with r := m.r + 1 } else s.settleFail c m 2 := by
  rw [State.raTimeout, ← ite_not]
  exact ite_iff_congr Nat.not_le rfl rfl
end

/-- Settles O49, clause by clause. -/
theorem remoteRequests : Obligations.RemoteRequests := by
  unfold Obligations.RemoteRequests
  refine ⟨?rows, ?request, fun x m => conn_mayStart_full, fun x m => conn_mayStart_atomics, ?refusal, ?post, ?timeout,
    fun s c d m => rnrTaken_waits d, fun s c d m => rnrTaken_ends d, ?expiry, ?fail, fun s c => cutWindow_cut,
    fun s c t => cutWindow_kept, ?window⟩
  case rows =>
    intro s q t h
    have hrow (op : Nat) : whenRunning s (fun s => s.raRequest q t op) = .next (s.raRequest q t op) := whenRunning_of h _
    exact ⟨hrow 0x20, hrow 0x21, hrow 0x22, hrow 0x24, hrow 0x25, hrow 0x26⟩
  case request =>
    intro s q op t
    rw [State.raRequest]
    cases s.cutJob q t op with
    | some x => cases s.readyJob q t op <;> rfl
    | none =>
      cases s.readyJob q t op with
      | none => rfl
      | some j =>
        dsimp only
        cases s.jobRefusal q j (dConn (j.descs.headD 0)) with
        | some x => rfl
        | none => exact ite_iff_congr (by simp [and_assoc]) rfl rfl
  case refusal =>
    intro s q c j
    rw [State.jobRefusal]
    refine ⟨fun h => if_pos h, fun h hq => ?_, fun h hq ht hop => ?_⟩
    · rw [if_neg (not_not_intro h), if_pos hq]
    · rw [if_neg (not_not_intro h), if_neg (not_not_intro hq), if_pos ⟨ht, hop⟩]
  case post =>
    intro s q t h
    change execRecvPost q t s = _
    rw [execRecvPost, whenRunning_of h]
    cases s.readyJob q t 0x23 with
    | none => rfl
    | some j =>
      dsimp only
      cases s.jobRefusal q j (dConn (j.descs.headD 0)) <;> rfl
  case timeout =>
    intro s c i h
    change execRetransmitTimeout c i s = _
    rw [execRetransmitTimeout, whenRunning_of h]
    cases (s.conn c).msg (BitVec.ofNat 32 i) with
    | none => rfl
    | some m =>
      dsimp only
      rw [raTimeout_eq, conn_upToClk]
      exact congrArg Host.Outcome.next (ite_iff_congr (by simp) rfl rfl)
  case expiry =>
    intro s c i h
    change execRnrDelayExpiry c i s = _
    rw [execRnrDelayExpiry, whenRunning_of h]
    cases (s.conn c).msg (BitVec.ofNat 32 i) with
    | none => rfl
    | some m =>
      dsimp only
      cases m.resendAt <;> rfl
  case fail =>
    intro s c i h
    rw [conn_connFail h]
    exact ⟨rfl, rfl, rfl⟩
  case window =>
    intro s c h
    exact whenRunning_of h _

end Sys2Proof.Machine
end

section
/-! PROOF. Packets that a remote-access engine takes. -/
namespace Sys2Proof.Machine

section
variable {s : State} {g : Nat} {p : NetPkt} {l : List NetPkt}
/-- A packet row of an engine that can answer the packet at the head of its input. -/
theorem raRow_holds (h : s.raHolds g p l) (mine : NetPkt → Bool) (k : State → NetPkt → State × Bool) :
    s.raRow g mine k = if mine p then (if (k s p).2 then (k s p).1.raLeft g l else (k s p).1) else s := by
  obtain ⟨-, hq, hmay, hworks⟩ := h
  rw [State.raRow, hq]
  refine (ite_iff_congr (by rw [hmay, hworks, Bool.and_true, Bool.and_true]) ?_ rfl)
  obtain ⟨t, b⟩ := k s p
  cases b <;> rfl
/-- A packet row of an engine that has no packet, or can answer none. -/
theorem raRow_idle (h : SMap.getD s.ra.inq g [] = [] ∨ s.maySource g = false ∨ s.raWorks g = false) (mine : NetPkt → Bool)
    (k : State → NetPkt → State × Bool) : s.raRow g mine k = s := by
  rw [State.raRow]
  cases hq : SMap.getD s.ra.inq g [] with
  | nil => rfl
  | cons p l =>
    rw [hq] at h
    obtain h | h | h := h
    · cases h
    · exact if_neg (by simp [h])
    · exact if_neg (by simp [h])
end

/-- Settles O50, clause by clause. -/
theorem remotePackets : Obligations.RemotePackets := by
  unfold Obligations.RemotePackets
  refine ⟨?rows, ?idle, ?request, ?answered, ?write, ?placed, ?expiry, ?send, ?sendBytes, ?read, ?atomic, ?new, ?readBytes, ?atomicBytes,
    ?order, ?taken, ?cnp⟩
  case rows =>
    intro s g p l h
    have hrow (mine : NetPkt → Bool) (k : State → NetPkt → State × Bool) : whenRunning s (fun s => s.raRow g mine k) =
        .next (if mine p then (if (k s p).2 then (k s p).1.raLeft g l else (k s p).1) else s) := by
      rw [whenRunning_of h.1, raRow_holds h]
    exact ⟨hrow .., hrow .., fun a => ⟨hrow .., hrow .., hrow ..⟩, hrow .., hrow .., hrow .., hrow ..⟩
  case idle =>
    intro s g h hidle
    have hrow (mine : NetPkt → Bool) (k : State → NetPkt → State × Bool) : whenRunning s (fun s => s.raRow g mine k) = .next s := by
      rw [whenRunning_of h, raRow_idle hidle]
    exact ⟨hrow .., hrow .., hrow .., hrow .., hrow .., hrow .., fun a => ⟨hrow .., hrow .., hrow ..⟩⟩
  case request => exact fun s p k b => rfl
  case answered => exact fun s p k => rfl
  case write =>
    intro s c h b
    rw [State.rxWrite]
    dsimp only
    cases s.keyCheck h.rkey (h.addr + h.off) b.length 1 c (s.conn c) with
    | some r => rfl
    | none =>
      dsimp only
      refine ite_iff_congr (by simp) rfl (ite_iff_congr (by simp [and_assoc]) rfl ?_)
      cases ((s.conn c).ctxs.find? (·.id == h.id)).filter (·.seen.contains (h.off / (s.conn c).set.seg)) with
      | some m => rfl
      | none =>
        rfl
  case placed =>
    intro s c i n h m
    rw [State.placed]
    refine ⟨fun hn => if_neg hn, fun hn hslot => ?_⟩
    refine (if_pos hn).trans ?_
    dsimp only
    rw [hslot, Option.map_none]
  case expiry =>
    intro s c i h
    change execContextExpiry c i s = _
    rw [execContextExpiry, whenRunning_of h]
    cases (s.conn c).ctxs.find? (·.id == BitVec.ofNat 32 i) <;> rfl
  case send =>
    intro s c h b
    rw [State.rxSend]
    dsimp only
    cases (s.conn c).ctxs.find? (·.id == h.id) with
    | some m => rfl
    | none => exact ite_iff_congr (by simp) rfl (ite_iff_congr Iff.rfl rfl (ite_iff_congr Iff.rfl rfl (ite_iff_congr (by simp) rfl rfl)))
  case sendBytes => exact fun s c h m b => rfl
  case read => exact fun s c h b a dup => rfl
  case atomic => exact fun s c h b a => rfl
  case new =>
    intro w old cmp new hw
    subst hw
    refine ⟨rfl, fun h => ?_, fun h => ?_⟩
    · simp [atomicNew, h]
    · simp [atomicNew, h]
  case readBytes =>
    intro s c i o m b
    rw [State.readBytes]
    dsimp only
    refine ite_iff_congr Iff.rfl rfl ?_
    cases (s.qpOf (s.conn c).set.qp).job m.slot with
    | none => rfl
    | some j => rfl
  case atomicBytes =>
    intro s c m b
    rw [State.atomicBytes]
    cases (s.qpOf (s.conn c).set.qp).job m.slot with
    | none => rfl
    | some j => rfl
  case order =>
    intro s c a b h
    rw [State.roceRequest]
    rw [if_neg (by rw [h]; decide)]
    refine ⟨fun hd => if_pos hd, fun hd => ?_⟩
    rw [if_neg (Int.not_lt.mpr (Int.le_of_lt hd)), if_pos hd]
  case taken => exact fun s a p => rfl
  case cnp =>
    intro s c t ht hlt
    rw [State.sendCnp, ht, Option.any_some]
    exact if_pos (decide_eq_true hlt)

end Sys2Proof.Machine
end

section
/-! PROOF. The CIPHER commands, keys and security associations. -/
namespace Sys2Proof.Machine

/-- A check of a form that what comes after it relies on. -/
theorem State.ended_form {s : State} {r : Request} {st : Nat} {k : Except Nat Done} {c : Bool} {A : Prop} [Decidable A] (h : c = true ↔ A)
    {x : State} (hk : A → s.ended r k = x) : s.ended r (chk c st k) = if ¬A then s.taken.reply r st else x := by
  by_cases hA : A
  · rw [if_neg (not_not_intro hA)]
    exact State.ended_pass (h.mpr hA) (hk hA)
  · rw [if_pos hA]
    exact State.ended_fail (eq_false_of_ne_true (mt h.mp hA))
/-- A command on one security association, once its form is right. -/
theorem saCmd_of {s : State} {r : Request} {a : Nat} {k : State → Nat → Except Nat Done} {x : State} (hlen : r.payload.length = 4)
    (ha : fld r.payload 0 4 = a) (hlt : a < 2 ^ 20) (hk : s.ended r (k s.taken a) = x) :
    s.ended r (saCmd k s.taken r) = if s.hasCipher = false then s.taken.reply r St.notPresent
      else if s.groves ≤ a / 65536 then s.taken.reply r St.notPresent
      else if s.owns r.actor 6 (saPart a) = false then s.taken.reply r St.notOwner else x := by
  subst ha
  rw [saCmd]
  refine State.ended_chk Iff.rfl (State.ended_pass ?_ (State.ended_chk (decide_eq_false_iff_not.trans Nat.not_lt)
    (State.ended_chk Iff.rfl hk)))
  rw [hlen, decide_eq_true hlt]
  rfl
/-- A command on one key, once its form is right. -/
theorem ckeyCmd_of {s : State} {r : Request} {h : Nat} {k : State → Nat → CKey → Except Nat Done} {f : CKey → State}
    (hlen : r.payload.length = 4) (hh : fld r.payload 0 4 = h) (hk : ∀ x, s.ended r (k s.taken h x) = f x) :
    s.ended r (ckeyCmd k s.taken r) = if s.hasCipher = false then s.taken.reply r St.notPresent
      else match s.keyNamed h with
      | none => s.taken.reply r St.notFound
      | some k => if r.actor ≠ operator ∧ k.owner ≠ r.actor then s.taken.reply r St.notOwner else f k := by
  subst hh
  rw [ckeyCmd]
  refine State.ended_chk Iff.rfl (State.ended_pass ?_ ?_)
  · rw [hlen]
    rfl
  · rw [show s.taken.keyNamed (fld r.payload 0 4) = s.keyNamed (fld r.payload 0 4) from rfl]
    cases s.keyNamed (fld r.payload 0 4) with
    | none => rfl
    | some x => exact State.ended_chk (by simp) (hk x)
/-- The groves that a command names, with what it answers where they do not pass. -/
theorem State.ended_chkGroves {s : State} {r : Request} {m : Nat} {k : Except Nat Done} {x : State} (hk : s.ended r k = x) :
    s.ended r (chkGroves s.taken r m false k) = if m = 0 then s.taken.reply r St.badArg
      else if (maskGroves m).all (· < s.groves) = false then s.taken.reply r St.notPresent
      else if s.groveGate r.actor (maskGroves m) = false then s.taken.reply r St.notOwner
      else if (maskGroves m).any s.groveFailed = true then s.taken.reply r St.internal else x :=
  State.ended_chk (by simp) (State.ended_chk Iff.rfl (State.ended_chk Iff.rfl (State.ended_pass rfl
    (State.ended_chk (Bool.not_eq_false' ..).to_iff hk))))
/-- The free index that a new key takes. -/
theorem freeKey_spec {s : State} {i : Nat} (h : s.freeKey = some i) : 1 ≤ i ∧ i < 2 ^ 20 ∧ s.ckeyFree i = true := by
  have hfree := List.find?_some h
  have hmem := List.mem_of_find?_eq_some h
  rw [Bool.and_eq_true, decide_eq_true_eq] at hfree
  obtain ⟨n, -, rfl⟩ := List.mem_map.mp hmem
  exact ⟨Nat.le_add_left .., hfree⟩
/-- An XTS key of two equal halves. -/
theorem materialOk_halves {alg : Nat} {a iv : List Byte} (h4 : 4 ≤ alg) (ha : a.length = keyBytes alg / 2) :
    materialOk alg 1 (a ++ a) iv 0 = false := by
  rw [materialOk, ← ha, slice, List.take_left' rfl, List.drop_left' rfl, List.take_length]
  simp
  omega

/-- Settles O51, clause by clause. -/
theorem cipherCommands : Obligations.CipherCommands := by
  unfold Obligations.CipherCommands
  refine ⟨?keySet, fun w p h => if_pos h, ?wrapped, fun alg a iv h4 _ ha => materialOk_halves h4 ha, fun s i => freeKey_spec, ?oneKey,
    ?zeroize, ?saSet, ?oneSa, ?bind, ?engine, ?stats⟩
  case keySet =>
    intro s r h
    dsimp only
    change slaotRow _ _ s = _
    rw [slaotRow_ended h, cipherKeySetBody]
    refine congrArg Host.Outcome.next (State.ended_chk Iff.rfl (State.ended_form (by simp [zeroAt, and_assoc]) fun hform =>
      State.ended_chk ?wrap ?_))
    case wrap =>
      simp
      omega
    rw [show keyMaterial s.taken.nv.owk r.payload = keyMaterial s.nv.owk r.payload from rfl]
    cases keyMaterial s.nv.owk r.payload with
    | none => rfl
    | some x =>
      obtain ⟨key, iv, seq⟩ := x
      refine State.ended_chk Iff.rfl ?_
      rw [show s.taken.freeKey = s.freeKey from rfl]
      cases s.freeKey with
      | none => rfl
      | some i => exact State.ended_done rfl
  case wrapped =>
    intro k p h
    have hne : ¬ fld p 2 1 = 0 := by omega
    refine ⟨if_neg hne, (if_neg hne).trans ?_⟩
    dsimp only
    cases Config.keyUnwrap k (slice p 4 72) <;> rfl
  case oneKey =>
    intro s r k hlen hk
    refine ⟨fun h => ?_, fun h => ?_⟩
    · change slaotRow _ _ s = _
      rw [slaotRow_ended h]
      exact congrArg Host.Outcome.next (ckeyCmd_of hlen hk fun x => State.ended_done rfl)
    · change slaotRow _ _ s = _
      rw [slaotRow_ended h]
      refine congrArg Host.Outcome.next (ckeyCmd_of hlen hk fun x => State.ended_chk ?_ (State.ended_done rfl))
      rw [Bool.and_eq_false_iff, Bool.not_eq_false', Bool.not_eq_false']
      rfl
  case zeroize =>
    intro s i h
    change execKeyEntryZeroize i s = _
    rw [execKeyEntryZeroize, whenRunning_of h]
    exact congrArg Host.Outcome.next (ite_iff_congr (by simp) rfl rfl)
  case saSet =>
    intro s r a h ha
    subst ha
    change slaotRow _ _ s = _
    rw [slaotRow_ended h, saSetBody]
    refine congrArg Host.Outcome.next (State.ended_chk Iff.rfl (State.ended_chk ?form (State.ended_chk
      (decide_eq_false_iff_not.trans Nat.not_lt) (State.ended_chk Iff.rfl (State.ended_chk (Bool.not_eq_false' ..).to_iff ?_)))))
    case form => simp [-Bool.and_eq_false_imp, Bool.and_eq_false_iff]
    rw [show s.taken.cipherKey (readSa r.payload).handle = s.cipherKey (readSa r.payload).handle from rfl]
    cases s.cipherKey (readSa r.payload).handle with
    | none => rfl
    | some k => exact State.ended_chk beq_eq_false_iff_ne (State.ended_chk beq_eq_false_iff_ne
        (State.ended_chk (Bool.not_eq_false' ..).to_iff (State.ended_done rfl)))
  case oneSa =>
    intro s r a x hlen ha hlt hx
    subst hx
    dsimp only
    refine ⟨fun h => ?_, fun h => ?_⟩
    · change slaotRow _ _ s = _
      rw [slaotRow_ended h]
      exact congrArg Host.Outcome.next (saCmd_of hlen ha hlt (State.ended_done rfl))
    · change slaotRow _ _ s = _
      rw [slaotRow_ended h]
      exact congrArg Host.Outcome.next (saCmd_of hlen ha hlt (State.ended_chk (Bool.not_eq_false' ..).to_iff (State.ended_done rfl)))
  case bind =>
    intro s r q k u h hlen hq hk hk1 hu hu1
    subst hq hk hu
    change slaotRow _ _ s = _
    rw [slaotRow_ended h, ite_or_nested (P := s.hasCipher = false),
      show (if fld r.payload 2 1 = 1 then 1 + fld r.payload 3 1 else 0) = if (fld r.payload 2 1 == 1) = true then 1 + fld r.payload 3 1 else 0
        from ite_iff_congr beq_iff_eq.symm rfl rfl]
    refine congrArg Host.Outcome.next (State.ended_chk Iff.rfl (State.ended_pass ?form (State.ended_chk Iff.rfl (State.ended_chk Iff.rfl
      (State.ended_chk beq_eq_false_iff_ne (State.ended_chk ?settings (State.ended_chk (Bool.not_eq_false' ..).to_iff (State.ended_done rfl))))))))
    case form => simp [hlen, hk1, hu1]
    case settings =>
      simp [-Bool.and_eq_false_imp, Bool.and_eq_false_iff]
      omega
  case engine =>
    intro s r m n h hlen hm hn hn4 hz
    subst hm hn
    change slaotRow _ _ s = _
    rw [slaotRow_ended h]
    exact congrArg Host.Outcome.next (State.ended_chk Iff.rfl (State.ended_pass (by simp [hlen, hn4, hz, zeroAt])
      (State.ended_chkGroves State.ended_cfg)))
  case stats =>
    intro s r g h hlen hg hlt hz
    subst hg
    change slaotRow _ _ s = _
    rw [slaotRow_ended h, ite_or_nested]
    exact congrArg Host.Outcome.next (State.ended_chk Iff.rfl (State.ended_pass (by simp [hlen, hlt, hz, zeroAt])
      (State.ended_chk (decide_eq_false_iff_not.trans Nat.not_lt) (State.ended_done rfl))))

end Sys2Proof.Machine
end

section
/-! PROOF. Messages on the cipher engines, and inline ESP. -/
namespace Sys2Proof.Machine

/-! ## Which engine opens a message (R507, R508, R517) -/

theorem leastQueued_spec {s : State} {g e : Nat} {l : List Nat} (h : s.leastQueued g l = some e) :
    e ∈ l ∧ ∀ f ∈ l, (s.engine g e).queued ≤ (s.engine g f).queued := by
  induction l generalizing e with
  | nil => cases h
  | cons a l ih =>
    rw [State.leastQueued] at h
    cases hl : s.leastQueued g l with
    | none =>
      rw [hl] at h
      obtain rfl : a = e := Option.some.inj h
      have hnil : l = [] := by
        cases l with
        | nil => rfl
        | cons b l =>
          rw [State.leastQueued] at hl
          split at hl
          · split at hl <;> cases hl
          · cases hl
      simp [hnil]
    | some f =>
      rw [hl] at h
      obtain ⟨hf, hle⟩ := ih hl
      dsimp only at h
      split at h
      next hlt =>
        obtain rfl : f = e := Option.some.inj h
        refine ⟨List.mem_cons_of_mem _ hf, fun b hb => ?_⟩
        obtain rfl | hb := List.mem_cons.mp hb
        · exact Nat.le_of_lt hlt
        · exact hle b hb
      next hge =>
        obtain rfl : a = e := Option.some.inj h
        refine ⟨List.mem_cons_self .., fun b hb => ?_⟩
        obtain rfl | hb := List.mem_cons.mp hb
        · exact Nat.le_refl _
        · exact Nat.le_trans (Nat.not_lt.mp hge) (hle b hb)
/-- The hold limit of a class. -/
theorem holdLimit_lt (c : Nat) (held : Bool → Nat) :
    (if c = 0 then 524288 else if c = 1 then 458752 else 65536) < held (c != 0) ↔
      (c = 0 ∧ 524288 < held false) ∨ (c = 1 ∧ 458752 < held true) ∨ (2 ≤ c ∧ 65536 < held true) := by
  match c with
  | 0 => simp
  | 1 => simp
  | c + 2 => simp
section
variable {s : State} {g e : Nat}
theorem mayOpen_suspendable (f : Bool) (h : (s.engine g e).suspendable = true) :
    (s.mayOpen g e true f false = true ↔ ((s.openMsgs g e).any (·.urgent)) = false ∧ (s.openMsgs g e).length < 64) ∧
    (s.mayOpen g e false f true = true ↔ (s.openMsgs g e).length ≤ 62 ∧
      ((s.openMsgs g e).any fun m => !m.urgent && m.op == 1) = false) ∧
    (s.mayOpen g e false f false = true ↔ (s.openMsgs g e).length ≤ 62) := by
  have hform (u a : Bool) : s.mayOpen g e u f a =
      if u then !((s.openMsgs g e).any (·.urgent)) && decide ((s.openMsgs g e).length < 64)
      else decide ((s.openMsgs g e).length ≤ 62) && !(a && (s.openMsgs g e).any fun m => !m.urgent && m.op == 1) := if_pos h
  rw [hform, hform, hform, if_pos rfl, if_neg Bool.false_ne_true, if_neg Bool.false_ne_true]
  refine ⟨?_, ?_, ?_⟩
  · rw [Bool.and_eq_true, Bool.not_eq_true', decide_eq_true_eq]
  · rw [Bool.and_eq_true, Bool.true_and, Bool.not_eq_true', decide_eq_true_eq]
  · rw [Bool.false_and, Bool.not_false, Bool.and_true, decide_eq_true_eq]
theorem mayOpen_whole (u f a : Bool) (h : (s.engine g e).suspendable = false) :
    s.mayOpen g e u f a = true ↔ (s.engine g e).running = [] ∧ (f = true ∨ s.cipherWaiting g e = []) := by
  have hform : s.mayOpen g e u f a = ((s.engine g e).running.isEmpty && (f || (s.cipherWaiting g e).isEmpty)) :=
    if_neg (ne_true_of_eq_false h)
  rw [hform, Bool.and_eq_true, Bool.or_eq_true, List.isEmpty_iff, List.isEmpty_iff]
end
/-- The message before which none is picked is the one that changes. -/
theorem updateFirst_append (p : CMsg → Bool) (k : CMsg → CMsg) (a b : List CMsg) (m : CMsg) (ha : a.any p = false) (hm : p m = true) :
    updateFirst p k (a ++ m :: b) = a ++ k m :: b := by
  induction a with
  | nil => exact if_pos hm
  | cons x a ih =>
    rw [List.any_cons, Bool.or_eq_false_iff] at ha
    obtain ⟨hx, ha⟩ := ha
    exact (if_neg (ne_true_of_eq_false hx)).trans (congrArg (x :: ·) (ih ha))

/-! ## Replay windows (R530) -/

theorem getLsbD_or_one_shiftLeft {w : Nat} (x : BitVec w) {k : Nat} (h : k < w) : (x ||| 1 <<< k).getLsbD k = true := by
  rw [BitVec.getLsbD_or, BitVec.natCast_eq_ofNat, BitVec.getLsbD_ofNat, decide_eq_true h, Nat.one_shiftLeft, Nat.testBit_two_pow_self]
  exact Bool.or_true _
section
variable {x : Sa} {n : Nat}
theorem replayed_of_before (h : n + 1024 ≤ x.seq) : x.replayed n = true := by simp [Sa.replayed, h]
theorem mark_of_new (h : x.seq < n) : x.replayed n = false ∧ (x.mark n).seq = n ∧ (x.mark n).replayed n = true := by
  have hold : ¬ n ≤ x.seq := Nat.not_le.mpr h
  have hbefore : ¬ n + 1024 ≤ x.seq := by omega
  rw [Sa.mark, if_pos h]
  exact ⟨by simp [Sa.replayed, hold, hbefore], rfl, by simp [Sa.replayed]⟩
theorem mark_within (h : n ≤ x.seq) (hlt : x.seq < n + 1024) : (x.mark n).seq = x.seq ∧ (x.mark n).replayed n = true := by
  have hbit : x.seq - n < 1024 := by omega
  rw [Sa.mark, if_neg (Nat.not_lt.mpr h), Sa.replayed]
  refine ⟨rfl, ?_⟩
  dsimp only
  rw [getLsbD_or_one_shiftLeft _ hbit, decide_eq_true h, Bool.and_true, Bool.or_true]
end

/-! ## What the jobs give (R522, R523) -/

theorem length_fit (n : Nat) (b : List Byte) : (fit n b).length = n := by simp [fit, zeros]
theorem length_beBytes (n v : Nat) : (beBytes n v).length = n := by simp [beBytes]
theorem jobOut_open {m : CMsg} {ds : List Desc} (b : List Byte) (h : dOp (ds.headD 0) = 0x41) :
    jobOut m ds b =
      match Config.aeadOpen m.key.alg m.key.key (m.nonce ds) (b.take (dLen (ds.headD 0))) (b.drop (dLen (ds.headD 0))) with
      | none => { status := St.badAuth, detail := 1 }
      | some t => wrote (fit ((b.drop (dLen (ds.headD 0))).length - 16) t) := by
  rw [jobOut]
  dsimp only
  rw [h]
  dsimp only [openText]
  cases Config.aeadOpen m.key.alg m.key.key (m.nonce ds) (b.take (dLen (ds.headD 0))) (b.drop (dLen (ds.headD 0))) <;> rfl
theorem jobOut_seal {m : CMsg} {ds : List Desc} (b : List Byte) (h : dOp (ds.headD 0) = 0x44) :
    (jobOut m ds b).data = BitVec.ofNat 64 m.seq ∧ (jobOut m ds b).out.take 3 = [0x17, 0x03, 0x03] ∧
    (jobOut m ds b).out.length = b.length + dBits (ds.headD 0) 95 80 + 22 := by
  rw [jobOut]
  dsimp only
  rw [h]
  refine ⟨rfl, rfl, ?_⟩
  simp [length_fit, length_beBytes]
  omega

/-- Settles O52, clause by clause. -/
theorem cipherMessages : Obligations.CipherMessages := by
  unfold Obligations.CipherMessages
  refine ⟨?rows, ?openJob, fun s g e f l h hf => ⟨(leastQueued_spec h).1, (leastQueued_spec h).2 f hf⟩, fun s g e f => mayOpen_suspendable f,
    fun s g e u f a => mayOpen_whole u f a, ?preempt, ?resume, updateFirst_append, ?messageEnd, ?endJob, ?master,
    fun m ds b => jobOut_open b, fun m ds b => jobOut_seal b, ?espStart, ?outbound, ?inbound, fun x n => replayed_of_before,
    fun x n => mark_of_new, fun x n => mark_within, ?endFrame, fun s a h => if_pos h, fun s a h => if_neg (ne_true_of_eq_false h)⟩
  case rows =>
    intro s q t h
    have hrow (op : Nat) : whenRunning s (fun s => s.openJob q t op) = .next (s.openJob q t op) := whenRunning_of h _
    exact ⟨hrow 0x40, hrow 0x41, hrow 0x42, hrow 0x43, hrow 0x44, hrow 0x45⟩
  case openJob =>
    intro s q op t
    rw [State.openJob]
    dsimp only
    cases s.readyJob q t op with
    | none => cases s.leastQueued (q / 4096) (s.engines (q / 4096) ((s.qpOf q).cipherClass != 0)) <;> rfl
    | some j =>
      dsimp only
      cases s.leastQueued (q / 4096) (s.engines (q / 4096) ((s.qpOf q).cipherClass != 0)) with
      | none => rfl
      | some e => exact ite_iff_congr (by simp) rfl (ite_iff_congr (holdLimit_lt _ fun b => heldBytes b j.descs) rfl rfl)
  case preempt =>
    intro s g e n h
    change execUrgentPreempt g e n s = _
    rw [execUrgentPreempt, whenRunning_of h]
    refine congrArg Host.Outcome.next (ite_iff_congr (by simp) ?_ rfl)
    cases (s.engine g e).msgs.find? CMsg.bulk with
    | none => rfl
    | some m =>
      dsimp only
      cases m.msg with
      | frame t => cases m.suspended <;> rfl
      | job q t =>
        cases m.suspended with
        | true => rfl
        | false =>
          dsimp only
          cases (s.qpOf q).job t <;> rfl
  case resume =>
    intro s g e h
    change execBulkResume g e s = _
    rw [execBulkResume]
    exact whenRunning_of h _
  case messageEnd =>
    intro s g e c p h
    change execCipherMessageEnd g e c p s = _
    rw [execCipherMessageEnd, whenRunning_of h]
    dsimp only
    cases (s.engine g e).running.find? (·.msg == c) with
    | none => rfl
    | some m =>
      dsimp only
      rw [← ite_or_nested]
      refine congrArg Host.Outcome.next (ite_iff_congr (by simp [-Bool.not_or]) rfl ?_)
      cases c with
      | job q t => cases (s.qpOf q).job t <;> rfl
      | frame t => rfl
  case endJob =>
    intro s g e q m j p
    rw [State.endCipherJob]
    cases p with
    | true => rfl
    | false => rfl
  case master =>
    intro g h
    rw [cipherMaster, BitVec.toNat_ofNat]
    omega
  case espStart =>
    intro s t d k
    rw [State.espStart]
    dsimp only
    cases s.espHead t with
    | none => rfl
    | some x =>
      obtain ⟨f, e⟩ := x
      dsimp only
      refine ite_iff_congr (by simp) rfl (ite_iff_congr Iff.rfl rfl (ite_iff_congr (by simp) rfl ?_))
      cases (s.sa f.saOf).valid with
      | false => rfl
      | true =>
        cases s.cipherKey (s.sa f.saOf).handle with
        | none => cases espIp f.body <;> rfl
        | some key => cases espIp f.body <;> rfl
  case outbound =>
    intro s t h
    change execEspOutbound t s = _
    rw [execEspOutbound, whenRunning_of h]
    refine congrArg (fun k => Host.Outcome.next (s.espStart t false k)) ?_
    funext s g e a x key b ip
    exact ite_iff_congr Iff.rfl rfl (ite_iff_congr Iff.rfl rfl (ite_iff_congr (by simp) rfl rfl))
  case inbound =>
    intro s t h
    change execEspInbound t s = _
    rw [execEspInbound, whenRunning_of h]
    refine congrArg (fun k => Host.Outcome.next (s.espStart t true k)) ?_
    funext s g e a x key b ip
    dsimp only
    rw [apply_ite (nfld (ipPacket b ip.1 ip.2.1) · 1)]
  case endFrame => exact fun s g e t m p => rfl

end Sys2Proof.Machine
end

section
/-! PROOF. Rental, staging, loading, unloading and release of a clearing. -/
namespace Sys2Proof.Machine

/-- A row of a step that a cancel does not stop, in its turn. -/
theorem turnRow_on {s : State} {h : Nat} {o : LongOp} (ht : s.turns h o) (body : State → LongOp → State) :
    turnRow h body s = body (s.atStep h) o.step := by
  rw [turnRow, ht.1]
  exact if_pos ht.2
/-- A body that starts a long operation in a state that it has changed. -/
theorem State.ended_startAs {s t : State} {r : Request} {n : Nat} {d : OpData} (hcfg : t.cfg = s.cfg) :
    s.ended r (startOp t r n d) = if 64 ≤ t.sl.ops.length then s.taken.reply r St.busy else t.replyStarted r n d := by
  by_cases h : 64 ≤ t.sl.ops.length
  · rw [if_pos h, startOp, if_pos h]
    rfl
  · rw [if_neg h, startOp_eq (Nat.not_le.mp h), State.ended]
    dsimp only
    rw [show (t.started r n d).cfg = s.cfg from hcfg, tooLarge_self]
    rfl
section
variable {s : State} {r : Request} {op len c : Nat} {wf : List Byte → Bool} {k : State → Request → Nat → Except Nat Done} {x : State}
/-- A command of the operator on a clearing, once its form is right. -/
theorem clCmd_operator (h : s.asksCl r op len c) (hwf : wf r.payload = true) (hk : s.ended r (k s.taken r c) = x) :
    s.ended r (clCmd len wf true k (fun _ _ => true) s.taken r) = if r.actor ≠ operator then s.taken.reply r St.notOwner
      else if s.groveFailed (clGrove c) = true then s.taken.reply r St.internal else x := by
  obtain ⟨-, hlen, rfl, h32, hc⟩ := h
  rw [clCmd, clRead]
  refine State.ended_pass (bne_iff_ne.mpr (Nat.ne_zero_of_lt hc)) (State.ended_pass ?form (State.ended_pass ?present
    (State.ended_chk beq_eq_false_iff_ne (State.ended_chk (Bool.not_eq_false' ..).to_iff hk))))
  case form => rw [hwf, beq_iff_eq.mpr hlen, decide_eq_true h32]; rfl
  case present => exact (Bool.and_true _).trans (decide_eq_true hc)
/-- A command of a clearing's owner, once its form is right. -/
theorem clRead_owner (h : s.asksCl r op len c) (hwf : wf r.payload = true) (hk : s.ended r (k s.taken r c) = x) :
    s.ended r (clRead len wf false k (fun _ _ => true) s.taken r) = if s.owns r.actor 4 c = false then s.taken.reply r St.notOwner
      else x := by
  obtain ⟨-, hlen, rfl, h32, hc⟩ := h
  rw [clRead]
  refine State.ended_pass (bne_iff_ne.mpr (Nat.ne_zero_of_lt hc)) (State.ended_pass ?form (State.ended_pass ?present
    (State.ended_chk Iff.rfl hk)))
  case form => rw [hwf, beq_iff_eq.mpr hlen, decide_eq_true h32]; rfl
  case present => exact (Bool.and_true _).trans (decide_eq_true hc)
theorem clCmd_owner (h : s.asksCl r op len c) (hwf : wf r.payload = true) (hk : s.ended r (k s.taken r c) = x) :
    s.ended r (clCmd len wf false k (fun _ _ => true) s.taken r) = if s.owns r.actor 4 c = false then s.taken.reply r St.notOwner
      else if s.groveFailed (clGrove c) = true then s.taken.reply r St.internal else x :=
  clRead_owner h hwf (State.ended_chk (Bool.not_eq_false' ..).to_iff hk)
end
/-- A rental out of range. -/
theorem rentOk_false {s : State} {c : Nat} {x : Rental} (h : x.base % 0x10000000 ≠ 0 ∨ x.size % 0x10000000 ≠ 0 ∨ x.size < 0x10000000 ∨
    0x400000000 < x.size ∨ 0x2C00000000 < x.base + x.size ∨ s.fnPresent x.renter = false ∨ fnPort x.renter ≠ c / 2 ∨
    fnLocal x.renter = 2) : s.rentOk c x = false := by
  rw [State.rentOk]
  simp only [Bool.and_eq_false_iff, decide_eq_false_iff_not, beq_eq_false_iff_ne, bne_eq_false_iff_eq, Nat.not_le, clGrove]
  grind
theorem rented_spec (s : State) (c e : Nat) (x : Rental) : ((s.rented c x e).clearing c).state = 2 ∧
    (s.rented c x e).rental c = some x ∧ (s.rented c x e).owner 4 c = x.renter ∧
    SMap.get (s.rented c x e).cfg.firebreaks (64 * packageBlock + e) = some (rentEntry c x) := by
  refine ⟨?_, SMap.get_set_self .., SMap.getD_set_self .., SMap.get_set_self ..⟩
  rw [State.rented, State.clearing_setCl]
theorem clearing_clQuarantine (s : State) (c : Nat) : (s.clQuarantine c).clearing c = { (s.clCount c).clearing c with state := 6 } := by
  have hfire (t : State) (ty : Nat) (d : W32) : (t.fireCl c ty d).clearing c = t.clearing c := by
    have hclr : (t.fireCl c ty d).clr = t.clr :=
      (State.fireDev_keeps (m := 0x500004) rfl t (clGrove c) (6 + c % 2) ty d (Keeps.rfl' _ t)).same (p := .clr) rfl
    rw [State.clearing, State.clearing, hclr]
  rw [State.clQuarantine, hfire, State.clearing_setCl]
theorem cfg_cancelLoads (s : State) (c : Nat) : (s.cancelLoads c).cfg = s.cfg :=
  foldl_fixed (f := fun (s : State) o => (s.abandonLoad c).endOp o St.aborted) (p := State.cfg)
    (fun s o => (State.endOp_keeps (m := 0x500104) rfl (s.abandonLoad c) o St.aborted (Keeps.rfl' _ _)).same (p := .cfg) rfl) ..
/-- A step of the shell's start, of a load that goes on or has been cancelled. -/
theorem shellStep_of {s : State} {h c : Nat} {o : LongOp} (hl : (s.clearing c).loading = some h) (ho : s.op h = some o)
    (due : Cl → Nat) (k : State → Cl → LongOp → State) : s.shellStep c due k =
    if o.cancel = true then (s.abandonLoad c).endOp o St.aborted
    else k (s.upTo ((s.clearing c).stepAt + due (s.clearing c)))
      { s.clearing c with stepAt := (s.upTo ((s.clearing c).stepAt + due (s.clearing c))).now } o := by
  have hop : (s.clearing c).loading.bind s.op = some o := by rw [hl, Option.bind_some, ho]
  rw [State.shellStep, hop]

/-- Settles O53, clause by clause. -/
theorem clearingLifecycle : Obligations.ClearingLifecycle := by
  unfold Obligations.ClearingLifecycle
  refine ⟨?rent, fun s c x => rentOk_false, ?rentStep, rented_spec, ?stage, ?stageHost, ?stageStep, ?load, ?header, ?loadStep, ?abandon,
    ?verify, fun s c => rfl, ?shell, ?unload, ?unloadStep, ?release, ?releaseFirst, ?releaseRest, ?quarantine⟩
  case rent =>
    intro s r c h h1 h6
    dsimp only
    change slaotRow _ _ s = _
    rw [slaotRow_ended h.1, clRentBody]
    refine congrArg Host.Outcome.next (clCmd_operator h (by simp [zeroAt, h1, h6]) (State.ended_chk Iff.rfl (State.ended_chk ?busy
      (State.ended_chk (Bool.not_eq_false' ..).to_iff (State.ended_chk Iff.rfl (State.ended_startAs rfl))))))
    case busy => simp [-Bool.and_eq_false_imp, Bool.and_eq_false_iff]
  case rentStep =>
    intro s h c o x ok hs
    have hd : o.step.data = .clRent c x := hs.2.2.2
    change execClearingRentStep h ok s = _
    rw [execClearingRentStep]
    dsimp only
    rw [whenRunning_of hs.1, opRow_on hs, hd]
    dsimp only
    cases ok with
    | false => cases ((s.atStep h).zeroize x.base x.size).freeEntry <;> rfl
    | true => cases ((s.atStep h).zeroize x.base x.size).freeEntry <;> rfl
  case stage =>
    intro s r c n h hn h1 h2 h10 hpos hmax hfit
    subst hn
    change slaotRow _ _ s = _
    rw [slaotRow_ended h.1, clStageBody]
    refine congrArg Host.Outcome.next (clCmd_owner h ?_ (State.ended_chk ?busy (State.ended_done rfl)))
    · simp [zeroAt, h1, h2, h10, hpos, hmax, stagingSize, hfit]
    case busy => simp [-Bool.and_eq_false_imp, Bool.and_eq_false_iff]
  case stageHost =>
    intro s r c h h1 h2 h12 hpos hfit
    change slaotRow _ _ s = _
    rw [slaotRow_ended h.1, clStageHostBody]
    refine congrArg Host.Outcome.next (clCmd_owner h ?_ (State.ended_chk (decide_eq_false_iff_not.trans Nat.not_lt)
      (State.ended_chk ?busy ?_)))
    · simp [zeroAt, h1, h2, h12, hpos, stagingSize, hfit]
    case busy => simp [-Bool.and_eq_false_imp, Bool.and_eq_false_iff]
    by_cases hclear : fld r.payload 1 1 = 1
    · rw [if_pos hclear, if_pos hclear]
      exact State.ended_startAs rfl
    · rw [if_neg hclear, if_neg hclear]
      exact State.ended_startAs rfl
  case stageStep =>
    intro s h c k a n f o b hs
    have hd : o.step.data = .clStageHost c k a n f := hs.2.2.2
    change execClearingStageHostStep h b s = _
    rw [execClearingStageHostStep, whenRunning_of hs.1, opRow_on hs, hd]
    dsimp only
    refine congrArg Host.Outcome.next (ite_iff_congr (by simp) rfl ?_)
    obtain ⟨⟨u, d⟩, l⟩ := (s.atStep h).askRead f none ((s.atStep h).master f) a n b
    cases d <;> rfl
  case load =>
    intro s r c h h1 hmax
    change slaotRow _ _ s = _
    rw [slaotRow_ended h.1, clLoadBody]
    refine congrArg Host.Outcome.next (clCmd_owner h (by simp [zeroAt, h1]) (State.ended_pass (decide_eq_true hmax)
      (State.ended_chk ?busy (State.ended_chk Iff.rfl (State.ended_chk Iff.rfl (State.ended_chk Iff.rfl (State.ended_startAs rfl)))))))
    case busy => simp [-Bool.and_eq_false_imp, Bool.and_eq_false_iff]
  case header =>
    intro h n hn
    rw [bitHeaderOk, beq_eq_false_iff_ne.mpr hn, Bool.and_false]
  case loadStep =>
    intro s h c k o b hs
    have hd : o.step.data = .clLoad c k := hs.2.2.2
    change execClearingLoadStep h b s = _
    rw [execClearingLoadStep]
    dsimp only
    rw [whenRunning_of hs.1, opRow_on hs, hd]
    dsimp only
    cases (s.atStep h).loadStep c k b <;> rfl
  case abandon =>
    intro s c
    rw [State.abandonLoad, State.clearing_setCl]
    exact ⟨rfl, rfl, rfl⟩
  case verify =>
    intro s c b h
    rw [State.loadStep, h]
    rfl
  case shell =>
    intro s h c o hrun hl ho
    refine ⟨?_, ?_, ?_⟩
    · change execShellClockStart c s = _
      rw [execShellClockStart, whenRunning_of hrun, shellStep_of hl ho]
    · change execShellResetRelease c s = _
      rw [execShellResetRelease, whenRunning_of hrun, shellStep_of hl ho]
      exact congrArg Host.Outcome.next (ite_iff_congr (by simp) rfl rfl)
    · change execClearingRunning c s = _
      rw [execClearingRunning, whenRunning_of hrun, shellStep_of hl ho]
      exact congrArg Host.Outcome.next (ite_iff_congr (by simp) rfl rfl)
  case unload =>
    intro s r c h h1
    change slaotRow _ _ s = _
    rw [slaotRow_ended h.1, clUnloadBody]
    refine congrArg Host.Outcome.next (clCmd_owner h (by simp [zeroAt, h1]) (State.ended_chk ?busy (State.ended_startAs rfl)))
    case busy => simp [-Bool.and_eq_false_imp, Bool.and_eq_false_iff]
  case unloadStep =>
    intro s h c o ok hs
    have hd : o.step.data = .clUnload c := hs.2.2.2
    change execClearingUnloadStep h ok s = _
    rw [execClearingUnloadStep, whenRunning_of hs.1, opRow_on hs, hd]
    rfl
  case release =>
    intro s r c h h1
    dsimp only
    change slaotRow _ _ s = _
    rw [slaotRow_ended h.1, clReleaseBody]
    refine congrArg Host.Outcome.next (clCmd_operator h (by simp [zeroAt, h1]) (State.ended_chk ?busy
      (State.ended_startAs (cfg_cancelLoads s.taken c))))
    case busy => simp [-Bool.and_eq_false_imp, Bool.and_eq_false_iff]
  case releaseFirst =>
    intro s h c o ok hrun ht hd
    change execClearingReleaseStep h ok s = _
    rw [execClearingReleaseStep, whenRunning_of hrun, turnRow_on ht]
    dsimp only
    rw [show o.step.data = .clRelease c 0 from hd]
    rfl
  case releaseRest =>
    intro s h c k o ok hrun ht hd
    change execClearingReleaseStep h ok s = _
    rw [execClearingReleaseStep, whenRunning_of hrun, turnRow_on ht]
    dsimp only
    rw [show o.step.data = .clRelease c (k + 1) from hd]
    refine congrArg Host.Outcome.next (ite_iff_congr ?_ rfl rfl)
    rw [Bool.and_eq_true, Bool.not_eq_true']
    rfl
  case quarantine =>
    intro s c
    rw [clearing_clQuarantine]

end Sys2Proof.Machine
end

section
/-! PROOF. The ports of a clearing. -/
namespace Sys2Proof.Machine

theorem foldl_stays {σ α : Type} {f : σ → α → σ} {x : σ} (h : ∀ a, f x a = x) (l : List α) : l.foldl f x = x := by
  induction l with
  | nil => rfl
  | cons a l ih => rw [List.foldl_cons, h, ih]
/-- A mask without a bit writes nothing. -/
theorem writeBeat_zero (s : State) (a : Nat) (d : BitVec 1024) : s.writeBeat a d 0 = s := by
  refine foldl_stays (fun j => ?_) _
  have hnone : ¬ eBits (0 : BitVec 128) (8 * j + 7) (8 * j) = 255 := by
    simp [eBits, bits]
  rw [if_neg hnone]
  refine foldl_stays (fun i => if_neg ?_) _
  simp
/-- A command that does not reach memory. -/
theorem not_lands (m : MemCmd) : (!m.lands) = true ↔ m.err ≠ 0 ∧ m.err ≠ 3 := by
  simp [MemCmd.lands]
theorem clearing_clCtr (s : State) (c i n : Nat) :
    (s.clCtr c i n).clearing c = { s.clearing c with ctrs := (s.clearing c).ctrs.add i n } := State.clearing_setCl ..
/-- A job of a clearing's queue pair is acted on. -/
theorem clJob_eq (s : State) (q op : Nat) (t : W32) (k : Cl → Nat → Cl) : s.clJob q t op k =
    match s.readyJob q t op, s.chanOf q with
    | none, _ => s
    | some _, none => s.endJob q t St.aborted 4 0
    | some j, some (c, h) =>
      if (s.clearing c).state ≠ 4 then s.endJob q t St.aborted 3 0 else (s.markActed q j).setCl c (k (s.clearing c) h) := by
  rw [State.clJob]
  cases s.readyJob q t op with
  | none => rfl
  | some j => cases s.chanOf q <;> rfl

/-- Settles O55, clause by clause. -/
theorem clearingPorts : Obligations.ClearingPorts := by
  unfold Obligations.ClearingPorts
  refine ⟨?rx, ?tx, ?command, ?write, ?writeIdle, writeBeat_zero, ?response, ?jobs, ?h2c, ?h2cIdle, ?c2h, ?lines⟩
  case rx =>
    intro s c h
    change execStreamRxFrame c s = _
    rw [execStreamRxFrame, whenRunning_of h, State.streamRx]
    dsimp only [clGrove]
    cases s.sinkQueue (c / 2) (.clearing c) with
    | nil => rfl
    | cons t l =>
      dsimp only
      cases s.frame t <;> rfl
  case tx =>
    intro s c b a h
    change execStreamTxFrame c b a s = _
    rw [execStreamTxFrame, whenRunning_of h]
    dsimp only
    rw [Bool.and_assoc, ← Bool.decide_and]
    rfl
  case command =>
    intro s c o n i wr h ho hn hi
    change execMemCommand c wr o n i s = _
    rw [execMemCommand, whenRunning_of h]
    dsimp only
    rw [Nat.mod_eq_of_lt ho, Nat.mod_eq_of_lt hn, Nat.mod_eq_of_lt hi]
    generalize (s.clearing c).state = st
    match st with
    | 0 | 1 | 2 | 3 | st + 5 => cases s.rental c <;> rfl
    | 4 =>
      cases s.rental c with
      | none => rfl
      | some w =>
        simp only [clearing_clCtr s c]
        rw [show 128 * (n + 1) = MemCmd.bytes { write := wr, off := o * 128, beats := n + 1, id := i } from rfl]
        generalize MemCmd.bytes { write := wr, off := o * 128, beats := n + 1, id := i } = k
        refine congrArg Host.Outcome.next (ite_iff_congr ?_ rfl ?_)
        · rw [Bool.or_eq_true, decide_eq_true_eq, Nat.mul_comm o]
        · obtain ⟨v, b⟩ := (s.clCtr c (if wr then 6 else 5) 1).fbCheck packageBlock (BitVec.ofNat 16 (0x1000 + c)) (if wr then 2 else 1)
            (w.base + o * 128) k
          cases b <;> rfl
  case write =>
    intro s c d k e p w h hst hw
    change execMemWriteData c d k e p s = _
    rw [execMemWriteData, whenRunning_of h]
    dsimp only
    rw [hst, hw]
    cases splitWrite (s.clearing c).cmds with
    | none => rfl
    | some x =>
      obtain ⟨before, m, after⟩ := x
      dsimp only
      refine congrArg Host.Outcome.next ?_
      by_cases hbad : m.err = 0 ∧ p = true
      · simp only [if_pos hbad]
        exact ite_iff_congr (not_lands m) rfl rfl
      · simp only [if_neg hbad]
        exact ite_iff_congr (not_lands m) rfl rfl
  case writeIdle =>
    intro s c d k e p h hst
    change execMemWriteData c d k e p s = _
    rw [execMemWriteData, whenRunning_of h]
    dsimp only
    generalize (s.clearing c).state = st at hst ⊢
    match st with
    | 0 | 1 | 2 | 3 | st + 5 => rfl
    | 4 => exact absurd rfl hst
  case response =>
    intro s c i p h
    change execMemResponse c i p s = _
    rw [execMemResponse, whenRunning_of h]
    dsimp only
    generalize (s.clearing c).state = st
    match st with
    | 0 | 1 | 2 | 3 | st + 5 => rfl
    | 4 =>
      cases s.rental c with
      | none => rfl
      | some w =>
        cases findCmd i (s.clearing c).cmds with
        | none => rfl
        | some x =>
          obtain ⟨before, m⟩ := x
          simp only
          refine congrArg Host.Outcome.next (ite_iff_congr Iff.rfl rfl (ite_iff_congr Iff.rfl rfl ?_))
          rw [ite_iff_congr (P := m.err = 0 ∧ (p || (m.data.isNone && s.memBad (w.base + m.off + 128 * m.done) 128)) = true)
            (Q := m.err = 0 ∧ (p = true ∨ (m.data.isNone = true ∧ s.memBad (w.base + m.off + 128 * m.done) 128 = true)))
            (by rw [Bool.or_eq_true, Bool.and_eq_true]) rfl rfl] <;> rfl
  case jobs =>
    intro s q t h
    refine ⟨?_, ?_⟩
    · change execH2c q t s = _
      rw [execH2c, whenRunning_of h, clJob_eq] <;> rfl
    · change execC2hPost q t s = _
      rw [execC2hPost, whenRunning_of h, clJob_eq] <;> rfl
  case h2c =>
    intro s c h hst
    change execH2cMessage c s = _
    rw [execH2cMessage, whenRunning_of h]
    dsimp only
    rw [hst]
    cases (s.clearing c).nextChan with
    | none => rfl
    | some n =>
      simp only
      cases (s.clearing c).ready.find? (·.1 == n) with
      | none => cases SMap.get (s.clearing c).chans n <;> rfl
      | some x =>
        obtain ⟨a, t⟩ := x
        cases SMap.get (s.clearing c).chans n with
        | none => rfl
        | some q =>
          simp only
          have hqp (x : Cl) : (s.setCl c x).qpOf q = s.qpOf q := rfl
          simp only [hqp]
          cases (s.qpOf q).job t <;> rfl
  case h2cIdle =>
    intro s c h hst
    change execH2cMessage c s = _
    rw [execH2cMessage, whenRunning_of h]
    dsimp only
    generalize (s.clearing c).state = st at hst ⊢
    match st with
    | 0 | 1 | 2 | 3 | st + 5 => rfl
    | 4 => exact absurd rfl hst
  case c2h =>
    intro s c h g b a hrun
    change execC2hMessage c h g b a s = _
    rw [execC2hMessage, whenRunning_of hrun]
    dsimp only
    generalize (s.clearing c).state = st
    match st with
    | 0 | 1 | 2 | 3 | st + 5 => rfl
    | 4 =>
      cases (s.clearing c).credits.find? (·.1 == h) with
      | none => rfl
      | some x =>
        obtain ⟨_, t⟩ := x
        cases SMap.get (s.clearing c).chans h with
        | none => rfl
        | some q =>
          simp only
          cases (s.qpOf q).job t with
          | none => rfl
          | some j =>
            dsimp only
            obtain ⟨u, r⟩ := s.localWrite q (spreadOver (j.descs.map fun d => (dAddr d, dLen d)) 0 (b.take (totalLen j.descs)))
            cases r <;> rfl
  case lines =>
    intro s c k d h
    change execEventLineFire c k d s = _
    rw [execEventLineFire, whenRunning_of h] <;> rfl

end Sys2Proof.Machine
end

section
/-! PROOF. Keys, floors, debug access and attestation. -/
namespace Sys2Proof.Machine

theorem length_fixed (n : Nat) (b : List Byte) : (fixed n b).length = n := by simp [fixed, zeros]
theorem length_certificate (s : State) : s.certificate.length = 4664 := by
  simp only [State.certificate, List.length_append, length_fixed, leBytes_length, zeros, List.length_replicate]
theorem debugOpen_iff {s : State} {g e : Nat} (h : SMap.get s.sec.debug g = some e) : s.debugOpen g = true ↔ s.clk < e := by
  rw [State.debugOpen, h]
  exact decide_eq_true_iff
theorem sec_upToClk (s : State) (t : Nat) : (s.upToClk t).sec = s.sec :=
  (State.upToClk_keeps (m := 1) rfl s t (Keeps.rfl' _ s)).same (p := .sec) rfl
/-- The test that the values of FLOOR_SET must pass. -/
theorem floorOk_false (k v fw bits version : Nat) :
    (decide (k ≤ 1) && decide ((if k = 0 then fw else bits) ≤ v) && (k == 1 || decide (v ≤ version))) = false ↔
      1 < k ∨ (k = 0 ∧ (v < fw ∨ version < v)) ∨ (k = 1 ∧ v < bits) := by
  match k with
  | 0 => simp; omega
  | 1 => simp
  | k + 2 => simp

/-- Settles O57, clause by clause. -/
theorem securityCommands : Obligations.SecurityCommands := by
  unfold Obligations.SecurityCommands
  refine ⟨?wrapkey, ?cmdkey, fun s m k => ⟨rfl, rfl⟩, ?verifykey, ?floor, ?debugSet, ?debugClose, fun s g e => debugOpen_iff, ?jtag,
    fun s t v => ⟨rfl, rfl⟩, ?identity, length_certificate, ?keys, ?attest, ?complete, ?report⟩
  case wrapkey =>
    intro s r h
    change slaotRow _ _ s = _
    rw [slaotRow_ended h, wrapkeySetBody]
    exact congrArg Host.Outcome.next (State.ended_chk beq_eq_false_iff_ne (State.ended_chk beq_eq_false_iff_ne (State.ended_done rfl)))
  case cmdkey =>
    intro s r m x h hlen hm hle hx hx1 hz hrm
    subst hm
    have hbit : bit (fld r.payload 1 1) 0 = true ↔ x = 1 := by
      rw [hx]
      obtain rfl | rfl := Nat.le_one_iff_eq_zero_or_eq_one.mp hx1 <;> decide
    change slaotRow _ _ s = _
    rw [slaotRow_ended h, cmdkeySetBody]
    refine congrArg Host.Outcome.next (State.ended_pass ?form (State.ended_chk ?present (State.ended_chk beq_eq_false_iff_ne
      (State.ended_ite_iff hbit (State.ended_done rfl) ?_))))
    case form =>
      have hremoved : (!bit (fld r.payload 1 1) 0 || zeroAt r.payload 4 40) = true := by
        by_cases h1 : x = 1
        · rw [zeroAt, hrm h1]
          exact Bool.or_true _
        · rw [eq_false_of_ne_true (mt hbit.mp h1)]
          rfl
      rw [hremoved, hlen, hx, decide_eq_true hle, decide_eq_true hx1, zeroAt, hz]
      rfl
    case present =>
      exact Bool.or_eq_false_iff.trans (and_congr (decide_eq_false_iff_not.trans Nat.not_le) (decide_eq_false_iff_not.trans Nat.not_lt))
    change s.ended r (match s.nv.owk with | none => _ | some k => _) = _
    cases s.nv.owk with
    | none => rfl
    | some k =>
      dsimp only
      cases Config.keyUnwrap k (slice r.payload 4 40) with
      | none => rfl
      | some b => exact State.ended_done rfl
  case verifykey =>
    intro s r k h hlen hk hz
    subst hk
    dsimp only
    change slaotRow _ _ s = _
    rw [slaotRow_ended h, verifykeySetBody]
    refine congrArg Host.Outcome.next (State.ended_chk ?form (State.ended_chk beq_eq_false_iff_ne (State.ended_done rfl)))
    case form => simp [hlen, hz, zeroAt]
  case floor =>
    intro s r k v h hlen hk hz hv
    subst hk hv
    change slaotRow _ _ s = _
    rw [slaotRow_ended h, floorSetBody]
    refine congrArg Host.Outcome.next (State.ended_chk ?form (State.ended_chk beq_eq_false_iff_ne (State.ended_done rfl)))
    case form =>
      rw [hlen, zeroAt, hz, beq_self_eq_true, Bool.true_and, beq_self_eq_true, Bool.and_true]
      exact floorOk_false ..
  case debugSet =>
    intro s r m n h hlen hm hm0 hz hn hle
    subst hm hn
    change slaotRow _ _ s = _
    rw [slaotRow_ended h, debugSetBody]
    refine congrArg Host.Outcome.next (State.ended_pass ?form (State.ended_chk Iff.rfl (State.ended_chk beq_eq_false_iff_ne
      (State.ended_done rfl))))
    case form => simp [hlen, hz, hle, hm0, zeroAt]
  case debugClose =>
    intro s g h
    change execDebugWindowClose g s = _
    rw [execDebugWindowClose, whenServing_of h]
    cases SMap.get s.sec.debug g with
    | none => rfl
    | some e =>
      dsimp only
      rw [sec_upToClk]
  case jtag =>
    intro s t op
    have hopen : (s.running && s.debugOpen t.grove && s.threadThere t) = true ↔
        s.running = true ∧ s.debugOpen t.grove = true ∧ s.threadThere t = true := by simp [and_assoc]
    cases op with
    | halt => exact congrArg Host.Outcome.next (ite_iff_congr hopen rfl rfl)
    | resume => exact congrArg Host.Outcome.next (ite_iff_congr hopen rfl rfl)
    | read d => exact congrArg (fun v => Host.Outcome.next (s.emit (.jtag v))) (ite_iff_congr hopen rfl rfl)
    | write d v => exact congrArg Host.Outcome.next (ite_iff_congr hopen rfl rfl)
    | chRelease ch =>
      refine congrArg Host.Outcome.next ?_
      dsimp only
      cases ((s.svc t.grove).chan ch).res with
      | none => rfl
      | some x => exact ite_iff_congr (by rw [Bool.and_eq_true, hopen, beq_iff_eq]) rfl rfl
  case identity =>
    intro s r h
    change slaotRow _ _ s = _
    rw [slaotRow_ended h, identityGetBody]
    exact congrArg Host.Outcome.next (State.ended_chk beq_eq_false_iff_ne (State.ended_done rfl))
  case keys =>
    intro s r h
    change slaotRow _ _ s = _
    rw [slaotRow_ended h, keysGetBody]
    exact congrArg Host.Outcome.next (State.ended_chk beq_eq_false_iff_ne (State.ended_done rfl))
  case attest =>
    intro s r h
    change slaotRow _ _ s = _
    rw [slaotRow_ended h, attestBody]
    exact congrArg Host.Outcome.next (State.ended_chk beq_eq_false_iff_ne State.ended_start)
  case complete =>
    intro s h o b hs ht hcancel hd
    change execAttestComplete h s = _
    rw [execAttestComplete, whenServing_of hs, opRow_step ht hcancel, show o.step.data = .attest b from hd]
    rfl
  case report =>
    intro s r h hask hh
    subst hh
    change slaotRow _ _ s = _
    rw [slaotRow_ended hask, reportGetBody]
    refine congrArg Host.Outcome.next (State.ended_chk beq_eq_false_iff_ne ?_)
    rw [show s.taken.op (fld r.payload 0 4) = s.op (fld r.payload 0 4) from rfl, show s.taken.sl.ended = s.sl.ended from rfl,
      show s.taken.sec = s.sec from rfl]
    cases s.op (fld r.payload 0 4) with
    | some o => exact State.ended_chk beq_eq_false_iff_ne (State.ended_chk Iff.rfl State.ended_error)
    | none =>
      cases s.sl.ended.find? (·.handle == fld r.payload 0 4) with
      | none => rfl
      | some e =>
        dsimp only
        cases s.sec.reports.find? (·.handle == fld r.payload 0 4) with
        | none => rfl
        | some x => exact State.ended_chk Iff.rfl (State.ended_done rfl)

end Sys2Proof.Machine
end

section
/-! PROOF. Device time, its servo, its steps and the TIME commands. -/
namespace Sys2Proof.Machine

/-! ## What a step leaves (20 R604) -/

/-- A running configuration has grown no further than its bound, if at all (03 R67). -/
def State.BoundedBy (s t : State) : Prop := t.cfg.size ≤ max maxCfg s.cfg.size
theorem State.boundedBy_of_cfg {s t : State} (h : t.cfg = s.cfg) : s.BoundedBy t := by
  rw [State.BoundedBy, h]
  exact Nat.le_max_right ..
theorem State.BoundedBy.trans {s t u : State} (h : s.BoundedBy t) (h' : t.BoundedBy u) : s.BoundedBy u :=
  Nat.le_trans h' (Nat.max_le.mpr ⟨Nat.le_max_left .., h⟩)
theorem State.boundedBy_ite {s : State} {c : Prop} [Decidable c] {x y : State × TblAns} (hx : s.BoundedBy x.1) (hy : s.BoundedBy y.1) :
    s.BoundedBy (if c then x else y).1 := by
  split
  · exact hx
  · exact hy
theorem State.boundedBy_iff {s t : State} : s.BoundedBy t ↔ tooLarge s.cfg t.cfg = false := by
  rw [State.BoundedBy, tooLarge, Bool.and_eq_false_iff, decide_eq_false_iff_not, decide_eq_false_iff_not]
  omega
theorem State.boundedBy_guard {s t : State} {x y : TblAns} : s.BoundedBy (if tooLarge s.cfg t.cfg = true then (s, x) else (t, y)).1 := by
  by_cases h : tooLarge s.cfg t.cfg = true
  · rw [if_pos h]
    exact State.boundedBy_of_cfg rfl
  · rw [if_neg h]
    exact State.boundedBy_iff.mpr (eq_false_of_ne_true h)
/-- A WRITE that would take the configuration beyond its bound is refused. -/
theorem arrayOp_bounded (s : State) (f op tbl g : Nat) (all : Bool) (i : Nat) (d : BitVec 512) :
    s.BoundedBy (s.arrayOp f op tbl g all i d).1 := by
  have hself : s.BoundedBy s := State.boundedBy_of_cfg rfl
  rw [State.arrayOp]
  dsimp only
  exact State.boundedBy_ite hself (State.boundedBy_ite hself (State.boundedBy_ite hself (State.boundedBy_ite
    (State.boundedBy_ite hself (State.boundedBy_ite hself hself)) (State.boundedBy_ite hself (State.boundedBy_ite hself State.boundedBy_guard)))))
theorem runTblOp_bounded (s : State) (o : TblOp) : s.BoundedBy (s.runTblOp o) := by
  have hself : s.BoundedBy s := State.boundedBy_of_cfg rfl
  have hop (f op : Nat) (cmd : W32) (d : BitVec 512) (held : Nat → Bool) : s.BoundedBy (s.tableOp f op cmd d held).1 := by
    rw [State.tableOp]
    refine State.boundedBy_ite hself (State.boundedBy_ite (State.boundedBy_ite hself (State.boundedBy_of_cfg ?_)) (arrayOp_bounded ..))
    exact State.Keeps.same (State.hashOp_keeps (m := 0x506004) rfl s f op _ _ d held (Keeps.rfl' _ s)) (p := .cfg) rfl
  rw [State.runTblOp]
  split
  · exact hop ..
  · exact hop ..
theorem tblRun_bounded (s : State) : s.BoundedBy s.tblRun := by
  have hfold (l : List TblOp) (u : State) : u.BoundedBy (l.foldl State.runTblOp u) := by
    induction l generalizing u with
    | nil => exact State.boundedBy_of_cfg rfl
    | cons o l ih => exact (runTblOp_bounded u o).trans (ih _)
  exact hfold s.tb.ops { s with tb := { s.tb with ops := [] } }
/-- Learning itself leaves the configuration as it is: only the table operations before it may write it. -/
theorem cfg_decideLearn (s : State) (e : LearnEv) : (s.decideLearn e).cfg = s.tblRun.cfg := by
  have hrun := Keeps.rfl' 0x506004 s.tblRun
  have hkeeps : s.tblRun.Keeps 0x506004 (s.decideLearn e) := by
    unfold State.decideLearn
    with_reducible repeat' first
      | exact hrun | dsimp only | apply State.thaw_keeps rfl | apply State.learn_keeps rfl | apply State.setTbl_keeps rfl
      | apply State.learnRecord_keeps rfl | apply State.hostTblCtr_keeps rfl | apply State.station_keeps rfl | split
  exact hkeeps.same (p := .cfg) rfl
theorem decideFirst_bounded (s : State) : s.BoundedBy s.decideFirst := by
  rw [State.decideFirst]
  split
  next e he =>
    refine (tblRun_bounded ({ s with tb := { s.tb with events := s.tb.events.erase e, decided := (e.stamp, e.port) } })).trans
      (State.boundedBy_of_cfg (cfg_decideLearn ..))
  next => exact State.boundedBy_of_cfg rfl
theorem decideAll_bounded (n : Nat) (s : State) : s.BoundedBy (State.decideAll n s) := by
  induction n generalizing s with
  | zero => exact State.boundedBy_of_cfg rfl
  | succ n ih => exact (decideFirst_bounded s).trans (ih _)
/-- The learn engine decides what it holds before a step. -/
def State.beforeStep (s : State) : State := if s.tb.engineFailed.isNone then State.decideAll s.tb.events.length s else s
theorem beforeStep_bounded (s : State) : s.BoundedBy s.beforeStep := by
  rw [State.beforeStep]
  split
  · exact decideAll_bounded ..
  · exact State.boundedBy_of_cfg rfl
theorem beforeStep_keeps (s : State) : s.Keeps 0x507084 s.beforeStep := by
  rw [State.beforeStep]
  split
  · exact State.decideAll_keeps rfl _ s (Keeps.rfl' _ s)
  · exact Keeps.rfl' _ s
/-- The windows of the clearings that are aligned to device time close and open before a step. -/
def State.windowsClosed (s : State) (t : Nat) : State :=
  (s.clr.map (·.1)).foldl (fun s c => (s.rollUsage c).closeUsage c s.now t) s
theorem windowsClosed_keeps (s : State) (t : Nat) : s.Keeps 0x540004 (s.windowsClosed t) :=
  Keeps.foldl (Keeps.rfl' _ s) fun u c hu => State.closeUsage_keeps rfl _ c _ t (State.rollUsage_keeps rfl u c hu)
/-- What a step does once the learn engine has decided and the windows have closed. -/
theorem timeStep_eq (s : State) (d : Int) : s.timeStep d =
    let u := s.beforeStep.windowsClosed ((Int.ofNat s.beforeStep.time + d) % 18446744073709551616).toNat
    let v := u.tmSet fun x => { x with base := x.base + d, stepped := x.stepped + d, steps := x.steps + 1 }
    let shift (m : MoveSt) : MoveSt := { m with moves := [], frozen := m.frozen.map fun f => (Int.ofNat f + d).toNat }
    State.fireAll { v with tb := { v.tb with moves := v.tb.moves.map shift, decided := (0, 0) } } 245 Ev.timeStep (stepData d) := rfl
theorem timeStep_tm (s : State) (d : Int) :
    (s.timeStep d).tm = { s.tm with base := s.tm.base + d, stepped := s.tm.stepped + d, steps := s.tm.steps + 1 } := by
  have hbefore : s.beforeStep.tm = s.tm := (beforeStep_keeps s).same (p := .tm) rfl
  rw [timeStep_eq]
  refine ((State.fireAll_keeps (m := 0x500004) rfl _ _ _ _ (Keeps.rfl' _ _)).same (p := .tm) rfl).trans ?_
  rw [← hbefore]
  exact congrArg (fun x : TimeSt => { x with base := x.base + d, stepped := x.stepped + d, steps := x.steps + 1 })
    ((windowsClosed_keeps ..).same (p := .tm) rfl)
theorem timeStep_now (s : State) (d : Int) : (s.timeStep d).now = s.now :=
  (State.timeStep_keeps (m := 0xd47084) rfl s d (Keeps.rfl' _ s)).same (p := .now) rfl
theorem timeStep_bounded (s : State) (d : Int) : s.BoundedBy (s.timeStep d) := by
  rw [timeStep_eq]
  refine (beforeStep_bounded s).trans (State.boundedBy_of_cfg ?_)
  refine ((State.fireAll_keeps (m := 0x500004) rfl _ _ _ _ (Keeps.rfl' _ _)).same (p := .cfg) rfl).trans ?_
  exact (windowsClosed_keeps ..).same (p := .cfg) rfl

/-! ## Durations are not measured across a step (20 R604) -/

theorem freqDone_start (t : TimeSt) : t.freqDone t.freqStart = 0 := by simp [TimeSt.freqDone]
theorem slewDone_start (t : TimeSt) : t.slewDone t.slewStart = 0 := by
  have hzero : (t.slewStart - t.slewStart) * t.slewPpm / 1000000 = 0 := by simp
  rw [TimeSt.slewDone, hzero]
  change (if t.slew < 0 then -min (-t.slew) 0 else min t.slew 0) = 0
  split <;> omega
/-- A correction that begins now leaves the count at this moment as it was. -/
theorem clk_of_settled {s t : State} (hnow : t.now = s.now) (hf : t.tm.freqStart = s.now) (hs : t.tm.slewStart = s.now)
    (hstepped : t.tm.stepped = s.tm.stepped) (hbase : t.tm.base = s.tm.base + s.tm.freqDone s.now + s.tm.slewDone s.now) : t.clk = s.clk := by
  have hfreq : t.tm.freqDone s.now = 0 := hf ▸ freqDone_start t.tm
  have hslew : t.tm.slewDone s.now = 0 := hs ▸ slewDone_start t.tm
  rw [State.clk, State.clk, State.countAt, State.countAt, hnow, hbase, hstepped, hfreq, hslew]
  congr 2
  omega
theorem clk_setFreq (s : State) (f : Int) : (s.setFreq f).clk = s.clk := clk_of_settled rfl rfl rfl rfl rfl
theorem clk_slewBy (s : State) (d : Int) : (s.slewBy d).clk = s.clk := clk_of_settled rfl rfl rfl rfl rfl
theorem clk_timeStep (s : State) (d : Int) : (s.timeStep d).clk = s.clk := by
  have hcount (x : TimeSt) (k n : Nat) (b e : Int) : TimeSt.freqDone { x with base := b, stepped := e, steps := k } n = x.freqDone n ∧
      TimeSt.slewDone { x with base := b, stepped := e, steps := k } n = x.slewDone n := ⟨rfl, rfl⟩
  rw [State.clk, State.clk, State.countAt, State.countAt, timeStep_now, timeStep_tm, (hcount ..).1, (hcount ..).2]
  dsimp only
  congr 1
  omega
theorem clk_correct (s : State) (d : Int) : (s.correct d).clk = s.clk := by
  rw [State.correct]
  split
  · rw [clk_timeStep, clk_slewBy]
  · exact clk_slewBy ..
theorem correct_bounded (s : State) (d : Int) : s.BoundedBy (s.correct d) := by
  rw [State.correct]
  split
  · exact (State.boundedBy_of_cfg rfl : s.BoundedBy (s.slewBy 0)).trans (timeStep_bounded ..)
  · exact State.boundedBy_of_cfg rfl
theorem cfg_timeState (s : State) (v : Nat) : (s.timeState v).cfg = s.cfg :=
  (State.timeState_keeps (m := 0xd00004) rfl s v (Keeps.rfl' _ s)).same (p := .cfg) rfl
/-- A body that succeeds and lets the configuration grow no further than its bound. -/
theorem State.ended_bounded {s t : State} {r : Request} {p : List Byte} (h : s.BoundedBy t) : s.ended r (done t p) = t.reply r 0 p := by
  change (if tooLarge s.cfg t.cfg then _ else _) = _
  rw [State.boundedBy_iff.mp h]
  rfl

theorem isNone_eq_false_iff {α : Type} (o : Option α) : o.isNone = false ↔ o.isSome = true := by cases o <;> simp

/-! ## The data of EV_TIME_STEP (20 R606) -/

theorem stepData_of_pos {d : Int} (h : 0 < d) (hlt : d < 4000) : stepData d = 1 := by
  rw [stepData, Int.tdiv_eq_zero_of_lt (Int.le_of_lt h) hlt, if_pos ⟨rfl, Int.ne_of_gt h⟩, Int.sign_eq_one_of_pos h]
  decide
theorem stepData_of_neg {d : Int} (hlt : -4000 < d) (h : d < 0) : stepData d = BitVec.ofInt 32 (-1) := by
  have hdiv : d.tdiv 4000 = 0 := by
    have hneg := Int.tdiv_eq_zero_of_lt (a := -d) (b := 4000) (by omega) (by omega)
    rw [Int.neg_tdiv] at hneg
    omega
  rw [stepData, hdiv, if_pos ⟨rfl, Int.ne_of_lt h⟩, Int.sign_eq_neg_one_of_neg h]
  decide
theorem stepData_of_us {k : Int} (hlo : -2147483648 ≤ k) (hhi : k ≤ 2147483647) : stepData (4000 * k) = BitVec.ofInt 32 k := by
  have hdiv : (4000 * k).tdiv 4000 = k := Int.mul_tdiv_cancel_left k (by decide)
  rw [stepData, hdiv, if_neg (by omega), Int.min_eq_right hhi, Int.max_eq_right hlo]

/-- Settles O58, clause by clause. -/
theorem deviceTime : Obligations.DeviceTime := by
  unfold Obligations.DeviceTime
  refine ⟨?count, ?config, ?delta, ?step, fun d => stepData_of_pos, fun d => stepData_of_neg, fun k => stepData_of_us, ?atEdge, ?edgeTimeout,
    ?adjust, ?freq, ?slewed, fun s d h h' => if_pos ⟨h, h'⟩, ?slewDone, ?get, ?edge, ?servo, ?holdover, ?state, fun s v h => if_pos h.symm⟩
  case count =>
    intro s
    rw [State.time]
    omega
  case config =>
    intro s r c h hlen h1 hc hsrc hs1 hs2 hh1 hh2 hn1 hn2
    subst hc
    dsimp only at hsrc hs1 hs2 hh1 hh2 hn1 hn2 ⊢
    change slaotRow _ _ s = _
    rw [slaotRow_ended h, timeConfigBody, ite_iff_congr (beq_iff_eq (a := fld r.payload 0 1) (b := s.cfg.time.source)).symm rfl rfl]
    exact congrArg Host.Outcome.next (State.ended_pass (by simp [hlen, h1, hsrc, hs1, hs2, hh1, hh2, hn1, hn2])
      (State.ended_chk beq_eq_false_iff_ne State.ended_cfg))
  case delta =>
    intro s r h hlen h0 h17
    obtain ⟨h1, h2, h3, hop⟩ := h
    dsimp only
    change requestRow _ _ s = _
    rw [requestRow_ended h1 h2 h3 (by simp [hop, h0]), timeSetDeltaBody, timeSetCmd]
    refine congrArg Host.Outcome.next (State.ended_pass (by simp [hlen, h0, h17, zeroAt]) (State.ended_chk beq_eq_false_iff_ne
      (State.ended_bounded ?_)))
    have hstep : s.BoundedBy ((s.taken.slewBy 0).timeStep (sfld r.payload 8 8)) := timeStep_bounded (s.taken.slewBy 0) _
    exact hstep.trans (State.boundedBy_of_cfg (cfg_timeState ..))
  case step =>
    intro s d _ _
    rw [timeStep_tm, timeStep_now]
    exact ⟨rfl, rfl, rfl, rfl⟩
  case atEdge =>
    intro s r h hlen h0 h17
    obtain ⟨h1, h2, h3, hop⟩ := h
    change requestRow _ _ s = _
    rw [requestRow_ended h1 h2 h3 (by simp [hop, h0]), timeSetEdgeBody, timeSetCmd]
    refine congrArg Host.Outcome.next (State.ended_chk ?form (State.ended_chk beq_eq_false_iff_ne (State.ended_chk ?busy ?_)))
    case form => simp [hlen, h0, h17, zeroAt]
    case busy => exact isNone_eq_false_iff s.tm.pendingSet
    rw [State.ended]
    exact if_neg (ne_true_of_eq_false (tooLarge_self _))
  case edgeTimeout =>
    intro s h
    change execTimeSetEdgeTimeout s = _
    rw [execTimeSetEdgeTimeout, whenServing_of h]
    cases s.tm.pendingSet <;> rfl
  case adjust =>
    intro s r h hlen hf
    dsimp only
    change slaotRow _ _ s = _
    rw [slaotRow_ended h, timeAdjustBody]
    refine congrArg Host.Outcome.next (State.ended_pass (by simp [hlen, hf]) (State.ended_chk ?actor (State.ended_ite (State.ended_done rfl) ?_)))
    case actor => simp
    rw [clk_correct, clk_setFreq]
    refine State.ended_bounded ?_
    have hcorrect : s.BoundedBy ((s.taken.setFreq (sfld r.payload 8 4)).correct (sfld r.payload 0 8)) :=
      correct_bounded (s.taken.setFreq (sfld r.payload 8 4)) _
    exact hcorrect.trans (State.boundedBy_of_cfg (cfg_timeState ..))
  case freq =>
    intro s f
    change max (-freqLimit) (min freqLimit f) ≤ _ ∧ _ ≤ max (-freqLimit) (min freqLimit f) ∧ (_ → _ → max (-freqLimit) (min freqLimit f) = f)
    rw [freqLimit]
    omega
  case slewed =>
    intro s d h
    refine if_neg fun ⟨hlt, hauto⟩ => ?_
    obtain h | h := h
    · exact Nat.not_lt.mpr h hlt
    · exact ne_true_of_eq_false h hauto
  case slewDone =>
    intro t n h
    rw [TimeSt.slewDone, if_neg (Int.not_lt.mpr h)]
    exact ⟨Int.min_le_left .., Int.min_le_right ..⟩
  case get =>
    intro s r h
    change slaotRow _ _ s = _
    rw [slaotRow_ended h, timeGetBody]
    exact congrArg Host.Outcome.next (State.ended_chk beq_eq_false_iff_ne (State.ended_done rfl))
  case edge =>
    intro s n h z e u servo x
    have hcfg : z.cfg = s.cfg := (State.upToTime_keeps (m := 1) rfl s n (Keeps.rfl' _ s)).same (p := .cfg) rfl
    have htm : z.tm = s.tm := (State.upToTime_keeps (m := 1) rfl s n (Keeps.rfl' _ s)).same (p := .tm) rfl
    have hboard : u.board = s.board := (State.upToTime_keeps (m := 1) rfl s n (Keeps.rfl' _ s)).same (p := .board) rfl
    have hstate : u.tm.state = s.tm.state := show z.tm.state = s.tm.state by rw [htm]
    have hpending : u.tm.pendingSet = s.tm.pendingSet := show z.tm.pendingSet = s.tm.pendingSet by rw [htm]
    have he : phaseError (Int.ofNat z.time + z.cfg.time.ppsCorr.toInt) = e := by rw [hcfg]
    change execPpsInEdge n s = _
    rw [execPpsInEdge, whenServing_of h]
    dsimp only
    rw [show s.upToTime n = z from rfl, he, show (z.tmSet fun t => { t with lastError := e }) = u from rfl]
    clear_value u
    rw [hcfg, ← hpending]
    refine congrArg Host.Outcome.next (ite_iff_congr (by rw [hboard]) rfl (ite_iff_congr (and_congr beq_iff_eq (by rw [hstate])) rfl ?_))
    cases u.tm.pendingSet with
    | some a =>
      dsimp only
      rw [show (if (s.cfg.time.source == 1) = true then u.servoEdge else u) = x from ite_iff_congr beq_iff_eq rfl rfl]
      generalize (x.slewBy 0).timeStep _ = y
      rfl
    | none =>
      by_cases hsrc : s.cfg.time.source = 1
      · have hx : x = u.servoEdge := if_pos hsrc
        refine (if_pos (beq_iff_eq.mpr hsrc)).trans (Eq.trans ?_ (if_pos hsrc).symm)
        rw [hx]
        generalize u.servoEdge.correct (-e) = y
        rfl
      · exact (if_neg (mt beq_iff_eq.mp hsrc)).trans (if_neg hsrc).symm
  case servo =>
    intro s
    exact ⟨rfl, rfl⟩
  case holdover =>
    intro s h
    change execTimeHoldover s = _
    rw [execTimeHoldover, whenServing_of h]
    cases s.tm.lastSupply <;> rfl
  case state => exact fun s v h => if_neg h.symm

end Sys2Proof.Machine
end

section
/-! PROOF. The warden cores, the error log and the HEALTH commands. -/
namespace Sys2Proof.Machine

/-! ## The warden cores (21 R620 to R622) -/

theorem coreLive_setCore (h : HealthSt) {c d : Nat} (v : Bool) (hc : c ≤ 1) (hd : d ≤ 1) :
    (h.setCore c v).coreLive d = if d = c then v else h.coreLive d := by
  obtain rfl | rfl : c = 0 ∨ c = 1 := by omega
  all_goals obtain rfl | rfl : d = 0 ∨ d = 1 := by omega
  all_goals rfl
/-- With no request beside the one that the core ran, that one alone is answered. -/
theorem answerOpen_of_accepted {s : State} {r : Request} (ha : s.sl.accepted = some r) (hp : s.tm.pendingSet = none) (hc : s.clr = []) :
    s.answerOpen = s.taken.finish r true ⟨St.aborted, [], 0⟩ := by
  let x := s.taken.finish r true ⟨St.aborted, [], 0⟩
  have hkeeps : s.taken.Keeps 0x500144 x := State.finish_keeps rfl _ r true _ (Keeps.rfl' _ _)
  have htm : x.tm.pendingSet = none := (congrArg TimeSt.pendingSet (hkeeps.same (p := .tm) rfl)).trans hp
  have hclr : x.clr = [] := (hkeeps.same (p := .clr) rfl).trans hc
  have hself : { x with clr := [] } = x := congrArg (fun c => { x with clr := c }) hclr.symm
  have hfinish : State.answerAborted { s with sl := { s.sl with accepted := none } } r = x := rfl
  rw [State.answerOpen, ha]
  simp only [hfinish, htm, hclr, List.flatMap_nil, List.map_nil, List.foldl_nil]
  exact hself

/-! ## What the HEALTH commands answer (21 R625, R626) -/

/-- The SEQ to go on from: after the last record, or with none the next one to be given. -/
theorem logNext_eq (l : List LogRec) (q : W32) :
    (match l.getLast? with | some x => x.seq + 1 | none => q) = (l.getLast?.map fun x => x.seq + 1).getD q := by
  cases l.getLast? <;> rfl
theorem groveHealth_length (s : State) (g : Nat) : (s.groveHealth g).length = 16 := by simp [State.groveHealth]
theorem length_flatMap_of_length {α β : Type} {f : α → List β} {k : Nat} (h : ∀ a, (f a).length = k) (l : List α) :
    (l.flatMap f).length = k * l.length := by
  induction l with
  | nil => rfl
  | cons a l ih => rw [List.flatMap_cons, List.length_append, h, ih, List.length_cons, Nat.mul_succ, Nat.add_comm]
theorem groveHealths_length (s : State) : (s.groveList.flatMap s.groveHealth).length = 16 * s.groves := by
  rw [length_flatMap_of_length (groveHealth_length s), State.groveList, List.length_range]
/-- What HEALTH.GET answers before the records of the groves. -/
def State.healthHead (s : State) : List Byte :=
  leBytes 1 (b2n s.hl.warden0 + 2 * b2n s.hl.warden1 + 4 * s.hl.active) ++ leBytes 1 s.capacity ++ zeros 2 ++
    ([0, 1, 2, 3].flatMap fun i => leBytes 1 (s.liveChannels i)) ++
    leBytes 4 (SMap.getD s.nv.storeCounts 0 0) ++ leBytes 4 (SMap.getD s.nv.storeCounts 1 0) ++
    ([0, 1, 2].flatMap fun i => leBytes 8 (SMap.getD s.sl.discards i 0).toNat) ++
    leBytes 4 (16 - s.sl.inband.length - b2n s.sl.inbandBusy) ++ leBytes 4 (SMap.getD s.sl.discards 3 0).toNat
theorem healthHead_length (s : State) : s.healthHead.length = 48 := by simp [State.healthHead, zeros]

/-- Settles O60, row by row. -/
theorem wardenAndHealth : Obligations.WardenAndHealth := by
  unfold Obligations.WardenAndHealth
  refine ⟨?heartbeat, ?timeout, fun h c d v => coreLive_setCore h v, ?takeover, fun s r => answerOpen_of_accepted, ?lost, ?ended, ?test, ?flush,
    ?log, ?get, ?grove, ?read⟩
  case heartbeat =>
    intro s h
    change execWardenHeartbeat s = _
    rw [execWardenHeartbeat]
    exact whenServing_of h _
  case timeout =>
    intro s h
    change execWardenHeartbeatTimeout s = _
    rw [execWardenHeartbeatTimeout]
    exact whenServing_of h _
  case takeover =>
    intro s h
    change execWardenTakeoverActive s = _
    rw [execWardenTakeoverActive, whenServing_of h]
    cases s.hl.takeover <;> rfl
  case lost =>
    intro s
    rw [State.supervisorLost]
    cases s.activation <;> rfl
  case ended =>
    intro s o i h
    rw [State.endActivation, h]
  case test =>
    intro s ok h c l
    change execFailedCoreTest ok s = _
    rw [execFailedCoreTest, whenServing_of h]
    refine congrArg Host.Outcome.next (ite_iff_congr ?_ rfl rfl)
    simp [c, or_assoc]
  case flush =>
    intro s h u l
    change execLogFlush s = _
    rw [execLogFlush, whenServing_of h]
    have hu : (if 512 ≤ s.ret.logBuf.length then s else s.upToClk (s.hl.lastFlush + ms 10000)) = u := rfl
    have hsame : u.nv = s.nv ∧ u.ret = s.ret := by
      change State.nv (if _ then _ else _) = _ ∧ State.ret (if _ then _ else _) = _
      split
      · exact ⟨rfl, rfl⟩
      · rw [upToClk_eq]
        exact ⟨rfl, rfl⟩
    dsimp only [l]
    simp only [hu]
    rw [hsame.1, hsame.2]
  case log =>
    intro s l k v d hring hbuf
    rw [State.log, hbuf, hring]
    exact ⟨_, rfl, rfl, rfl, rfl, rfl, rfl⟩
  case get =>
    intro s r h
    refine ⟨s.healthHead ++ s.groveList.flatMap s.groveHealth, ?row, ?units, ?size, List.drop_left' (healthHead_length s)⟩
    case row =>
      change slaotRow _ _ s = _
      rw [slaotRow_ended h, healthGetBody]
      exact congrArg Host.Outcome.next (State.ended_chk beq_eq_false_iff_ne (State.ended_chk Iff.rfl (State.ended_done rfl)))
    case units => rfl
    case size => rw [List.length_append, healthHead_length, groveHealths_length]
  case grove =>
    intro s g h
    rw [State.groveHealth, h]
    rfl
  case read =>
    intro s r h l
    change slaotRow _ _ s = _
    rw [slaotRow_ended h, logReadBody]
    refine congrArg Host.Outcome.next ?_
    refine State.ended_chk (by simp [-Bool.and_eq_false_imp, Bool.and_eq_false_iff, zeroAt]) ?_
    refine State.ended_chk Iff.rfl ?_
    rw [← logNext_eq]
    exact State.ended_done rfl

end Sys2Proof.Machine
end

section
/-! PROOF. A step as a whole: the command at the front of the queue, the tick of an empty queue, the state after reset, and
that every command has an answer. -/
namespace Sys2Proof.Machine

/-- The arbiter takes nothing when nothing waits for it. -/
theorem drain_of_arb_nil {s : State} (h : s.sl.arb = []) : s.drain = s := by
  have hmay : s.mayTake = false := by simp [State.mayTake, h]
  rw [State.drain, State.drainN, if_neg (ne_true_of_eq_false hmay)]
/-- No table operation has an effect when none waits. -/
theorem tblRunDue_of_ops_nil {s : State} (h : s.tb.ops = []) : s.tblRunDue = s := by
  rw [State.tblRunDue, h]
  exact congrArg (fun l => { s with tb := { s.tb with ops := l } }) h.symm
theorem step_of_pending_cons {s : State} {c : Instr} {rest : List Instr} (h : s.pending = c :: rest) :
    step s = exec c { s with pending := rest } := by rw [step, h]
theorem step_of_pending_nil {s : State} (h : s.pending = []) : step s = .next s.tick := by rw [step, h]
/-- With no operation on the tables and no request, only time passes. -/
theorem tick_of_idle {s : State} (hops : s.tb.ops = []) (harb : s.sl.arb = []) : s.tick = { s with now := s.now + 1 } := by
  rw [State.tick, tblRunDue_of_ops_nil (s := { s with now := s.now + 1 }) hops]
  exact drain_of_arb_nil (s := { s with now := s.now + 1 }) harb

/-- Settles O1, from the two cases of the queue. -/
theorem stepRunsTheFrontCommand : Obligations.StepRunsTheFrontCommand := by
  unfold Obligations.StepRunsTheFrontCommand
  refine ⟨fun s c rest => step_of_pending_cons, fun s => step_of_pending_nil, fun s hnil hops harb => ?_⟩
  rw [step_of_pending_nil hnil, tick_of_idle hops harb]

/-- Settles O2: nothing is configured, so that every register reads as its default. -/
theorem resetState : Obligations.ResetState := by
  unfold Obligations.ResetState
  exact ⟨rfl, rfl, rfl, rfl, rfl, rfl, rfl, rfl, rfl, rfl, rfl, rfl, rfl, rfl, rfl, rfl, fun _ => rfl, fun _ => rfl, fun _ => rfl, fun _ => rfl⟩

/-- Settles O3: a row is one next state by its definition; two rows of the NVMe admin queue are one in each branch. -/
theorem everyCommandAnswers : Obligations.EveryCommandAnswers := by
  unfold Obligations.EveryCommandAnswers
  intro c s
  cases c
  case nvDeleteIoSq f e =>
    change ∃ t, execNvDeleteIoSq f e s = _
    rw [execNvDeleteIoSq]
    dsimp only
    split <;> exact ⟨_, rfl⟩
  case nvAbort f e =>
    change ∃ t, execNvAbort f e s = _
    rw [execNvAbort]
    split <;> exact ⟨_, rfl⟩
  all_goals exact ⟨_, rfl⟩

end Sys2Proof.Machine
end
